-- ==== Sys2Proof/Word.lean ====
section
/-!
DEFINITION. The words of the machine and their plainest arithmetic (spec/00_scope.md, R3, R7).
-/

namespace Sys2Proof

/-- A byte of memory. -/
abbrev Byte := BitVec 8

/-- A 64-bit register or memory word (R7, R8). -/
abbrev Word := BitVec 64

/-- A string of bytes. -/
abbrev Bytes := List Byte

/-- Sparse data by key: keys strictly rising, no entry equal to what an unlisted key reads as. -/
abbrev Tab (α : Type) := List (Nat × α)

/-- A signed value read from a field of `w` bits held as a natural number. -/
def signedOf (w v : Nat) : Int :=
  if v % 2 ^ w < 2 ^ (w - 1) then ((v % 2 ^ w : Nat) : Int) else ((v % 2 ^ w : Nat) : Int) - ((2 ^ w : Nat) : Int)

/-- The `w`-bit two's complement of a signed value. -/
def twosOf (w : Nat) (i : Int) : Nat := (i % ((2 ^ w : Nat) : Int)).toNat

/-- `n` bytes of a number, least significant first (R7). -/
def leBytes : Nat → Nat → Bytes
  | 0, _ => []
  | n + 1, v => BitVec.ofNat 8 v :: leBytes n (v / 256)

/-- The number that bytes spell, least significant first (R7). -/
def leNat : Bytes → Nat
  | [] => 0
  | b :: bs => b.toNat + 256 * leNat bs

/-- Bit `n` of a number. -/
def bitOf (v n : Nat) : Bool := v / 2 ^ n % 2 = 1

/-- A truth value as a bit. -/
def b2n (b : Bool) : Nat := if b then 1 else 0

/-- How many of the lowest `n` bits of a number are set. -/
def popCount : Nat → Nat → Nat
  | 0, _ => 0
  | n + 1, v => v % 2 + popCount n (v / 2)

end Sys2Proof
end

