-- ==== Sys2Proof/Syntax.lean ====
section
/-!
DEFINITION. The commands of the block: one constructor of `Instr` per row of spec/opcode_table.json. The table gives
the rows no fields, so the operands are the model's own: what the outside world, a timer or one of the device's own
sequencers supplies when the step happens.
-/

namespace Sys2Proof

/-- What an upset has left in the two ends of one credit ledger (R79, R80): each count, and each credit or occupied-slot count's
complement. -/
structure LedgerSample where
  unit : Nat
  cls : Nat
  credits : Nat
  creditsC : Nat
  s : Nat
  cr : Nat
  occ : Nat
  occC : Nat
  rx : Nat
  ct : Nat
  deriving DecidableEq, Repr

/-- A DDR5 channel as the first-stage loader finds it (R644): whether it trains, GiB, DIMMs, ranks of a DIMM. -/
structure DdrSample where
  trained : Bool
  gib : Nat
  dimms : Nat
  ranks : Nat
  deriving DecidableEq, Repr

/-- What King firmware asks of the device without a register: a reference-count audit with its cut at an edge (R252), the
rotation of a domain (R311), a wrapped key restored from the peer's copy (R307); a PTP event message sent on a host port in a fabric cycle
(R58); a unit of a pool partition for a requester port, and its return (R86). -/
inductive FwRequest
  | audit (cut : Nat)
  | rotate (domain : Fin 4096)
  | restoreKey (domain : Fin 4096)
  | ptpSend (port : Fin 32) (cyc : Nat)
  | poolTake (part : Fin 7) (holder : Fin 120)
  | poolGive (part : Fin 7) (unit : Nat) (holder : Fin 120)
  deriving DecidableEq, Repr

/-- What the device measures at a tempo edge (R80, R89, R609, R612). -/
structure EdgeSample where
  /-- each region's hottest sensor in °C, by region code (12). -/
  temps : List Int
  /-- each region's rail voltage in mV as its crossing measures it (12). -/
  mv : List Nat
  /-- VIN in mV. -/
  vinMv : Nat
  /-- the credit ledgers that an upset has changed since the last edge; none in ordinary operation. -/
  ledgers : List LedgerSample
  /-- what King firmware asks for during the tempo that ends. -/
  firmware : List FwRequest := []
  /-- the peer's host ports that are up, where that has changed since the last edge: the spec names no message that carries it (R179). -/
  peerPorts : Option (BitVec 32) := none
  /-- at this edge the peer begins to move its groups here by planned castling (R518, step 1). -/
  peerMoves : Bool := false
  /-- the index pages of partitions that this device acquires at this edge, as the pair's flash or the copy from the former owner has them:
  partition × 2^22 + bucket, slot, entry (R233, R235). -/
  pages : List (Nat × List (Nat × List (BitVec 8))) := []
  deriving DecidableEq, Repr

/-- The kinds of engine memory access (R98, R100). -/
inductive MemKind | load | store | fetch
  deriving DecidableEq, Repr

/-- The NVMe commands of Table 5.4. -/
inductive NvmeOp
  | identify | getLogPage | setFeatures | getFeatures | asyncEvent | keepAlive | abort | nsManage | nsAttach
  | fwDownload | fwCommit (ca : Nat) | propertyGet | propertySet | disconnect
  | read | write | compare | verify | writeZeroes | flush | dsm
  | resvRegister | resvReport | resvAcquire | resvRelease
  deriving DecidableEq, Repr

/-- What a Namespace Management create asks for (R147, R172, R548). -/
structure NsSpec where
  /-- size in blocks. -/
  blocks : Nat := 0
  lbaf : Nat := 0
  pi : Nat := 0
  pool : Nat := 0
  domain : Nat := 0
  group : Nat := 1
  dedup : Bool := true
  compare : Bool := false
  compress : Bool := true
  deriving DecidableEq, Repr

/-- What the owning head answers to a command that this head has carried to it over Cerco (R176). -/
inductive PeerAnswer
  /-- it asks for the write data. -/
  | fetch (bytes : Nat)
  /-- data for the host. -/
  | data (off : Nat) (b : List (BitVec 8))
  /-- the completion: status, DNR, DW0. -/
  | done (status : Nat) (dnr : Bool) (dw0 : Nat)
  deriving DecidableEq, Repr

/-- A slot whose data DRAM has lost when a read copies from it: the 512-byte units lost, and what the remote read of the peer's mirror copy
brings, nothing when it fails (R317). -/
structure SlotLoss where
  slot : Nat
  bad : BitVec 16
  copy : Option (List (BitVec 8)) := none
  deriving DecidableEq, Repr

/-- An NVMe command capsule as the front end parses it (R161–R164): the fields that the commands of Table 5.4 use. -/
structure HostCmd where
  ctx : Nat := 0
  cid : Nat := 0
  /-- the priority it arrived on. -/
  prio : Nat := 0
  nsid : Nat := 0
  /-- the SGL descriptor type is valid for the transport, and the SGL's data length (rows 2 and 6). -/
  sglOk : Bool := true
  sglLen : Nat := 0
  /-- reserved fields are 0 and field values valid (row 3). -/
  fieldsOk : Bool := true
  slba : Nat := 0
  /-- number of blocks, 0's based. -/
  nlb : Nat := 0
  pract : Bool := false
  /-- PRCHK: [2] guard, [1] application tag, [0] reference tag. -/
  prchk : Nat := 0
  appTag : Nat := 0
  appMask : Nat := 0
  refTag : Nat := 0
  /-- in-capsule data, or the data that comes with an admin command. -/
  data : List (BitVec 8) := []
  /-- what an admin or reservation command names, and its values. A reservation command's action is `sel` mod 8, IEKEY its bit 3,
  RTYPE bits [15:8]; its two keys are `val` and `val2`. Dataset Management's attributes are `val`. Namespace Management and
  Attachment select by `sel`. Firmware Image Download gives its offset and length in bytes in `val2` and `val`; Firmware Commit
  its slot in `sel`. Identify selects by CNS, Get Log Page by log identifier with its offset in `val`, the features by feature
  identifier, a property by its offset. -/
  sel : Nat := 0
  val : Nat := 0
  val2 : Nat := 0
  /-- ranges of Dataset Management: first block, blocks. -/
  ranges : List (Nat × Nat) := []
  /-- the capsule came from the peer over Cerco (R176), and the host NQN of its controller there. -/
  viaPeer : Bool := false
  host : Nat := 0
  /-- what a flash programmed by the command reads back stands (R564). -/
  readBack : Bool := true
  /-- what a Namespace Management create asks for. -/
  create : NsSpec := {}
  /-- the owning head's answer to a command of this context that was carried there (R176). -/
  answer : Option PeerAnswer := none
  /-- the slots of its squares that DRAM has lost data of, for a read, compare or verify (R317). -/
  losses : List SlotLoss := []
  deriving DecidableEq, Repr

/-! ### What the two heads send each other: granule table, segments, journal records, command records -/

/-- A Granule Table Entry (Tables 6.3–6.7). REFCNT 0 is a dead or absent one. -/
structure Gte where
  seg : Nat := 0
  row : Nat := 0
  fmt : Nat := 0
  incomp : Bool := false
  enc : Bool := false
  indexed : Bool := false
  lost : Bool := false
  moving : Bool := false
  off : Nat := 0
  slen : Nat := 0
  kdom : Nat := 0
  gen : Nat := 0
  refcnt : Nat := 0
  fptag : Nat := 0
  crc : Nat := 0
  deriving DecidableEq, Repr

/-- A snapshot descriptor (Table 14.1), with its copy of the unreadable-block list (R442). -/
structure Snap where
  exists_ : Bool := false
  nsid : Nat := 0
  sseq : Nat := 0
  root : Nat := 0
  cutTempo : Nat := 0
  wmA : Nat := 0
  wmB : Nat := 0
  pred : Nat × Nat := (0, 0)
  xtag : Nat := 0
  depth : Nat := 1
  retained : Bool := false
  deleting : Bool := false
  audit : Bool := false
  repl : Bool := false
  nsucc : Nat := 0
  /-- one past the last square that a deletion walk has completed (R450). -/
  walked : Nat := 0
  unread : Tab Nat := []
  deriving DecidableEq, Repr

/-- A column of a segment: member, block, FAILED (Table 11.3). -/
structure Col where
  member : Nat := 0
  block : Nat := 0
  failed : Bool := false
  deriving DecidableEq, Repr

/-- A segment-table entry (Table 11.3). -/
structure Seg where
  /-- 0 EMPTY, 1 OPEN, 2 CLOSED, 3 COLLECTING, 4 DRAINED. -/
  state : Nat := 0
  w : Nat := 0
  pool : Nat := 0
  short : Bool := false
  isMeta : Bool := false
  gc : Bool := false
  relocate : Bool := false
  rows : Nat := 0
  rpb : Nat := 0
  closeTempo : Nat := 0
  live : Nat := 0
  peMean : Nat := 0
  wf : Nat := 0
  cols : List Col := []
  /-- the next row to fill while it is OPEN. -/
  nextRow : Nat := 0
  /-- blocks already erased while DRAINED (R365). -/
  erased : List Nat := []
  deriving DecidableEq, Repr

/-- An entry of a SQUARES record. -/
structure SqEntry where
  square : Nat := 0
  newGid : Nat := 0
  oldGid : Nat := 0
  /-- staging slot; none for an entry without one. -/
  slot : Option Nat := none
  /-- 0 NEW, 1 HIT_LOCAL, 2 HIT_FOREIGN, 3 ZERO, 4 UNMAP, 5–11 of Table 14.2, 12 SUPERSEDED. -/
  action : Nat := 0
  insert : Bool := false
  /-- the block list's mask, with LOSTBLK. -/
  mask : Nat := 0
  tags : Bytes := []
  gte : Option Gte := none
  fp : Bytes := []
  snap : Option Snap := none
  /-- page number or SSEQ of Table 14.2. -/
  page : Nat := 0
  sub : Nat := 0
  deriving DecidableEq, Repr

/-- A loss-ring entry (Table 13.4). -/
structure LossEntry where
  gid : Nat := 0
  loc : Nat := 0
  tempo : Nat := 0
  cause : Nat := 0
  state : Nat := 0
  missing : Nat := 0
  deriving DecidableEq, Repr

/-- What a metadata page that a PAGE_MAP record names has come to say: the head that applies the record reads it there (R429, R435). -/
inductive PageNews
  | lost (e : LossEntry)
  | columns (seg : Nat) (cols : List Col)
  deriving DecidableEq, Repr

/-- What a record holds, by kind. -/
inductive JBody
  | squares (entries : List SqEntry)
  | releaseDone (gids : List Nat)
  | gidMark (gids : List Nat)
  /-- GID, old segment, row, offset, new segment, row, offset. -/
  | gcMove (moves : List (Nat × (Nat × Nat × Nat) × (Nat × Nat × Nat)))
  | pinDrop (gids : List Nat)
  | segOpen (seg : Nat) (e : Seg)
  | segClose (seg rows : Nat) (short : Bool)
  | segDrain (seg : Nat)
  | eraseDone (seg : Nat)
  | blockRetire (member block cause : Nat)
  | checkpoint (root covered : Nat)
  /-- page, new location, old location or 0. -/
  | pageMap (l : List (Nat × Nat × Nat))
  /-- a correction of reference counts by the audit (R253): GID, difference. -/
  | refFix (l : List (Nat × Int))
  deriving DecidableEq, Repr

/-- A journal record of one head. -/
structure JRecord where
  tsn : Nat
  tempo : Nat
  nsid : Nat
  head : Nat
  body : JBody
  /-- what the pages of a PAGE_MAP record newly say. -/
  news : List PageNews := []
  /-- its CRC-64 stands (R225). -/
  good : Bool := true
  /-- the peer has acknowledged its copy: it has committed (R221). -/
  committed : Bool := false
  deriving DecidableEq, Repr

/-- A command record (Table 16.1). -/
structure CmdRecord where
  state : Nat := 0
  cls : Nat := 0
  opc : Nat := 0
  effect : Bool := false
  ctx : Nat := 0
  cid : Nat := 0
  nsq : Nat := 0
  nsid : Nat := 0
  square : Nat := 0
  tsn : Nat := 0
  accTempo : Nat := 0
  /-- the peer has acknowledged the record's mirror (R501). -/
  acked : Bool := false
  deriving DecidableEq, Repr

/-- What a mirror write carried: a staging slot, a command record, or a journal record (R191, R221, R501). -/
inductive MirrorItem
  | slot (n : Nat)
  | cmd (rec : Nat)
  | record (tsn : Nat)
  deriving DecidableEq, Repr

/-- How a job that a pipeline has given to an accelerator ends: OK, CHECK_FAIL with POISON, CUT or NOKEY, CHECK_FAIL with SELF, or PREEMPTED and
to be resumed (R228, R261, R301). -/
inductive JobEnd | ok | fail | self | preempted
  deriving DecidableEq, Repr

/-- For whom an atomic add on a foreign GTE was made: a slot's work, a held transaction's GID, an offered square (R206, R445,
R457). -/
inductive AddFor
  | slot (n : Nat)
  | tx (k gid : Nat)
  | offer (rel batch i : Nat)
  deriving DecidableEq, Repr

/-- What another device's index window answers to a swap of an INSERT or REMOVE: the 32 bytes that it found, MOVED, WRONG_OWNER with the
version it names; or the message was reported FAILED (R233, R247, R248). -/
inductive FiuReport
  | found (old : List (BitVec 8))
  | moved | unavailable
  | wrongOwner (ver : Nat)
  deriving DecidableEq, Repr

/-- An INDEX_REPLY message (Table 7.5). -/
structure IndexReply where
  result : Nat := 1
  flags : Nat := 0
  slot : Nat := 255
  ver : Nat := 0
  gid : Nat := 0
  bucket : Nat := 0
  deriving DecidableEq, Repr

/-- A square that a source offers (Table 14.4): kind 0 data with its fingerprint, 1 zero, 2 unmap. -/
structure Offer where
  square : Nat := 0
  kind : Nat := 0
  fp : List (BitVec 8) := []
  deriving DecidableEq, Repr

/-- The replication messages of Table 14.4. -/
inductive ReplMsg
  | sessionOpen (session : Nat) (blob : List (BitVec 8))
  | sessionAck (session result : Nat)
  | relOpen (rel remote size lbaf pi : Nat)
  | relReply (rel remote result : Nat)
  | deltaBegin (rel sseq base : Nat)
  | fpOffer (rel batch : Nat) (l : List Offer)
  | fpNeed (rel batch bitmap : Nat)
  | granule (rel square fmt : Nat) (payload : List (BitVec 8))
  | deltaCommit (rel sseq offered : Nat)
  | deltaDone (rel sseq target result : Nat)
  | streamRec (rel head tsn : Nat) (anchor : Bool) (l : List Offer)
  | streamAck (rel head tsn : Nat)
  | repairReq (rel tag : Nat) (fph : Option Nat) (square fptag crc : Nat)
  | repairAns (tag result fmt : Nat) (payload : List (BitVec 8))
  deriving DecidableEq, Repr

/-- How an accelerator job of a read ended (R332, R651, R653): well, or CHECK_FAIL with POISON, with SELF, or with another cause. -/
inductive ReadFault | none | poison | self | check
  deriving DecidableEq, Repr

/-- What a frame on a host port carries. -/
inductive HostPkt
  /-- a capsule or other data that its own command then describes. -/
  | data
  /-- an RDMA READ response: the record of the command that issued the READ, bytes requested, bytes carried (R171). -/
  | readResp (rec requested carried : Nat)
  /-- a TCP PDU: PLEN, the length its header and data give, and whether its header digest agrees (R142, R170). -/
  | pdu (declared seen : Nat) (headerOk : Bool)
  /-- an H2CData PDU: the record of its write, its bytes, and whether its data digest agrees (R142). -/
  | h2cData (rec bytes : Nat) (dataOk : Bool)
  /-- an H2CData PDU outside the range of its R2T: the two byte counts (R170). -/
  | h2cRange (declared seen : Nat)
  deriving DecidableEq, Repr

/-- A frame on a host port as the MAC parses it. -/
structure HostFrame where
  len : Nat := 64
  prio : Nat := 0
  fcsOk : Bool := true
  /-- uncorrectable FEC codewords the port has met since its last frame (Table 5.16). -/
  fecUncorr : Nat := 0
  /-- the IP and UDP lengths agree with the frame (R169). -/
  lensOk : Bool := true
  fragment : Bool := false
  rdma : Bool := true
  qpn : Nat := 0
  /-- address and port 4-tuple of a TCP segment; the port that a SYN asks for (R154). -/
  tuple : Nat := 0
  syn : Option Nat := none
  /-- CE-marked; and of a TCP segment: it carries ECE or CWR, and a round trip has passed since the window was halved last (R182). -/
  ce : Bool := false
  ece : Bool := false
  cwr : Bool := false
  roundTrip : Bool := true
  pkt : HostPkt := .data
  /-- a PTP event message: the fabric cycle of the tempo in which its first bit after the start-of-frame delimiter passes the ball (R58). -/
  ptp : Option Nat := none
  deriving DecidableEq, Repr

/-- A Fabrics Connect (R144, R146). -/
structure ConnectReq where
  port : Nat := 0
  rdma : Bool := true
  tuple : Nat := 0
  cid : Nat := 0
  /-- the well-known discovery NQN; the port it was sent to (R179). -/
  disc : Bool := false
  service : Nat := 4420
  nqn : Nat := 0
  cntlid : Nat := 0
  qid : Nat := 0
  entries : Nat := 32
  /-- keep-alive timeout in ms; 0 none. -/
  kato : Nat := 0
  deriving DecidableEq, Repr

/-- What a flash module is when a lane first finds it (Table 12.7). -/
structure ModInfo where
  version : Nat := 1
  mtype : Nat := 0
  serial : Nat := 0
  nblocks : Nat := 0
  rpb : Nat := 1024
  pgsz : Nat := 4
  wlim : Nat := 3000
  rdLimit : Nat := 0
  progRate : Nat := 1000
  readRate : Nat := 3500
  tmax : Nat := 70
  fence : Nat := 3
  bad : List Nat := []
  deriving DecidableEq, Repr

/-- A command as a module takes it from its other port (Table 12.3). -/
structure MdlCmd where
  block : Nat := 0
  unit : Nat := 0
  npages : Nat := 1
  set : Nat := 0
  arg0 : Nat := 0
  arg1 : Nat := 0
  data : List (BitVec 8) := []
  deriving DecidableEq, Repr

/-- A CDT header (Table 15.1) without MAGIC and VER; FLAGS as three truth values. -/
structure CdtHdr where
  type : Nat := 1
  src : Nat := 0
  dst : Nat := 0
  first : Bool := true
  last : Bool := true
  retx : Bool := false
  port : Nat := 0
  boot : Nat := 0
  psn : Nat := 0
  msn : Nat := 0
  floor : Nat := 0
  tempo0 : Nat := 0
  key : Nat := 0
  len : Nat := 0
  pidx : Nat := 0
  off : Nat := 0
  /-- The VLAN tag of the frame, its PCP and its VLAN, when it has one (R471). -/
  tag : Option (Nat × Nat) := none
  deriving DecidableEq, Repr

/-- A CDT frame as it arrives on a Cerco port: its trailer and FCS stand; MAGIC and VER are listed (R472). -/
structure CdtFrame where
  port : Nat := 0
  crcOk : Bool := true
  listed : Bool := true
  hdr : CdtHdr := {}
  payload : List (BitVec 8) := []
  deriving DecidableEq, Repr

/-- A staging slot as its mirror write carries it (R191, Table 6.8). -/
structure SlotImage where
  nsid : Nat := 0
  state : Nat := 2
  kind : Nat := 0
  valid : Nat := 0
  square : Nat := 0
  ssn : Nat := 0
  heldGid : Nat := 0
  durTempo : Nat := 0
  older : Option Nat := none
  held : Bool := false
  addDone : Bool := false
  tags : Bool := false
  lostblk : Bool := false
  tsn : Nat := 0
  cmd : Option Nat := none
  data : List (BitVec 8) := []
  tagArea : List (BitVec 8) := []
  deriving DecidableEq, Repr

/-- What a WRITE of the peer places in this head's mirror regions: a slot, a command record, a journal record (R191, R221, R501). -/
inductive MirrorData
  | slot (n : Nat) (s : SlotImage)
  | cmd (rec : Nat) (c : CmdRecord)
  | record (r : JRecord)
  deriving DecidableEq, Repr

/-- A DIGEST message (Table 16.4): window, TSN range, the digest of each group carried. -/
structure DigestMsg where
  window : Nat := 0
  lo : Nat := 0
  hi : Nat := 0
  entries : List (Nat × List (BitVec 8)) := []
  deriving DecidableEq, Repr

/-! ### The metadata that stands on flash: what a pool root and its page table name (chapters 6, 11, 13, 14) -/

/-- A reservation and its registrants: controller host by NQN, key (R151). -/
structure Reservation where
  /-- reservation type, 0 none. -/
  rtype : Nat := 0
  holder : Option Nat := none
  keys : Tab Nat := []
  gen : Nat := 0
  deriving DecidableEq, Repr

/-- A namespace (R147, R148, R172, R184, R185). -/
structure Ns where
  exists_ : Bool := false
  /-- size in squares. -/
  size : Nat := 0
  lbaf : Nat := 0
  pi : Nat := 0
  pool : Nat := 0
  domain : Nat := 0
  /-- ANA group, 1–128. -/
  group : Nat := 1
  dedup : Bool := true
  compare : Bool := false
  compress : Bool := true
  /-- host NQNs it is attached to. -/
  hosts : List Nat := []
  resv : Reservation := {}
  /-- the live root: a reference in the form of Table 6.1, and the map's depth. -/
  root : Nat := 0
  depth : Nat := 1
  /-- the live root's predecessor: NSID and SSEQ, 0 and 0 when none. -/
  pred : Nat × Nat := (0, 0)
  /-- unreadable-block list of the live root: by square, the mask of listed 512-byte units (R202). -/
  unread : Tab Nat := []
  deriving DecidableEq, Repr

/-- A map node: GIDs of a leaf, or references of Table 6.1 (R184, R437), with a leaf's tag records (R444). -/
structure Node where
  leaf : Bool := true
  ent : Tab Nat := []
  tags : Tab Bytes := []
  deriving DecidableEq, Repr

/-- A block record (Table 11.4). -/
structure Blk where
  seg : Nat := 0
  temp : Int := 0
  hint : Option Nat := none
  /-- 0 FREE, 1 IN_USE, 2 RETIRED, 3 FACTORY_BAD, 4 RESERVED. -/
  state : Nat := 0
  stamp : Nat := 0
  pe : Nat := 0
  deriving DecidableEq, Repr

/-- A member of a pool, by lane (R400, R401, R423). -/
structure Member where
  adopted : Bool := false
  pool : Nat := 0
  serial : Nat := 0
  declared : Bool := false
  nblocks : Nat := 0
  rpb : Nat := 0
  pgsz : Nat := 0
  wlim : Nat := 0
  rdLimit : Nat := 0
  progRate : Nat := 0
  deriving DecidableEq, Repr

/-- A pool: width, layout, roots, allocation of GIDs, loss ring (R188, R349, R407, R415–R418, R435). -/
structure Pool where
  exists_ : Bool := false
  w : Nat := 0
  /-- the 1,024 lines of the layout table, its seed and generation. -/
  lines : List (List Nat) := []
  seed : Nat := 0
  gen : Nat := 0
  balanced : Bool := true
  /-- a generation built that takes effect with the next checkpoint: lines, seed, whether it meets R415 (R417). -/
  built : Option (List (List Nat) × Nat × Bool) := none
  linePtr : Nat := 0
  /-- next SEQ of this head, and the end of the block the last GID_MARK named (R187, R188). -/
  seqNext : Nat := 1
  seqMark : Nat := 0
  /-- the highest GID_MARK of the peer's device for this pool (R188). -/
  peerMark : Nat := 0
  /-- checkpoint sequence and TSN_COVERED of the pool root. -/
  rootSeq : Nat := 0
  covered : Nat := 0
  loss : Tab LossEntry := []
  /-- ERS_NARROW has been declared (R409). -/
  narrow : Bool := false
  deriving DecidableEq, Repr

/-- A source transaction or anchor that STREAM_ACK has not covered (R459–R462): head, TSN, tempo time of its commit in ms, the anchor's
SSEQ or 0, its squares with the GIDs they were mapped to, whether it has been sent. -/
structure OutTx where
  head : Nat
  tsn : Nat
  ms : Nat
  anchor : Nat := 0
  items : List (Offer × Nat) := []
  sent : Bool := false
  deriving DecidableEq, Repr

/-- A periodic cycle (R458): new snapshot; its differing squares with their GIDs; reads that still run; batches that FP_NEED has not
answered; GRANULEs still to send. -/
structure Cycle where
  sseq : Nat
  /-- 0 the cut waits, 1 granules are read, 2 offered, 3 DELTA_COMMIT sent. -/
  phase : Nat := 0
  items : List (Offer × Nat) := []
  reads : Nat := 0
  batches : List Nat := []
  granules : Nat := 0
  deriving DecidableEq, Repr

/-- A replication relationship (R456–R466). -/
structure Rel where
  /-- 0 UNBOUND, 1 SYNCING, 2 ACTIVE, 3 SUSPENDED, 4 PROMOTED, 5 DIVERGED. -/
  state : Nat := 0
  target : Bool := false
  streaming : Bool := false
  peer : Nat := 0
  nsid : Nat := 0
  remote : Nat := 0
  rpo : Nat := 60
  interval : Nat := 300
  anchor : Nat := 3600
  repairTmo : Nat := 50
  throttle : Bool := false
  /-- REL_OPEN has been answered OK. -/
  opened : Bool := false
  /-- SSEQ of the base, or of the newest acknowledged anchor; 0 none. -/
  base : Nat := 0
  cycle : Option Cycle := none
  /-- tempo-time seconds of the last cycle's start and of the last anchor. -/
  lastStart : Nat := 0
  lastAnchor : Nat := 0
  /-- tempo time in ms of the oldest transaction that the base does not hold, and of the oldest one after the cycle's cut. -/
  oldest : Option Nat := none
  newer : Option Nat := none
  unacked : List OutTx := []
  /-- the stream hold: GIDs with the TSN that releases them (R460). -/
  hold : List (Nat × Nat) := []
  /-- the last TSN of each head that STREAM_ACK has covered. -/
  ackA : Nat := 0
  ackB : Nat := 0
  /-- TARGET: the new SSEQ of the source's cycle under way. -/
  inSseq : Nat := 0
  /-- TARGET: the source's SSEQ whose matching snapshot is to be cut when the delta has committed. -/
  wantCut : Option Nat := none
  /-- its lag is above RPO, and has not fallen below half of it since (R462). -/
  held : Bool := false
  deriving DecidableEq, Repr

/-- The pair's metadata: what checkpoints write to flash. -/
structure Meta where
  ns : Tab Ns := []
  nodes : Tab Node := []
  gtes : Tab Gte := []
  /-- snapshots by NSID × 2^32 + SSEQ. -/
  snaps : Tab Snap := []
  segs : Tab Seg := []
  /-- block records by member × 2^24 + block. -/
  blocks : Tab Blk := []
  /-- page table: page number to page location (R348); page numbers are the model's own outside map nodes. -/
  pages : Tab Nat := []
  members : Tab Member := []
  pools : Tab Pool := []
  rels : Tab Rel := []
  sseqNext : Nat := 1
  /-- node counters of heads A and B (R437, R447). -/
  nodeA : Nat := 0
  nodeB : Nat := 0
  /-- read counters by member × 2^24 + block (R373). -/
  reads : Tab Nat := []
  /-- highest TSN applied of this head's and of the peer's records. -/
  tsnOwn : Nat := 0
  tsnPeer : Nat := 0
  /-- next segment count of this head (SEG[38:0]). -/
  segNext : Nat := 1
  /-- the owner table: bit g - 1 is the owner of ANA group g, 0 A and 1 B (chapter 16, CAS_ANA_OWN0–1). -/
  owners : Nat := (2 ^ 64 - 1) * 2 ^ 64
  deriving DecidableEq, Repr

/-- The command that a module executes: one outstanding on this device's lane, by tag, or one of the peer's port. -/
inductive ModReq
  | own (tag : Nat)
  | peer (c : MdlCmd)
  deriving DecidableEq, Repr

/-- What SEND service 6 brings about moves (R553): a forwarded body over an authenticated channel or not, or a target's
acknowledgement. -/
inductive MoveMsg
  | forward (chainOk : Bool) (body : List (BitVec 8))
  | ack (dev : Nat)
  deriving DecidableEq, Repr

/-- An SPDM request that takes part in a signed exchange: the slot, and the exchange's messages up to the signature (R555). -/
structure SpdmSigned where
  slot : Nat := 0
  transcript : List (BitVec 8) := []
  deriving DecidableEq, Repr

/-- What the device meets in START-UP (Table 18.3): nanoseconds by which the SXC's timebase has gone on since the boot before ended (R57);
the DDR5 channels and the code of their speed; a checkpoint of the other head newer than this head's last (R380); copies of flush
chunks that fail, as group × 2^32 + chunk; slots of chunks of which no copy and no mirror of the peer is left (R382). -/
structure BootSample where
  offNs : Nat := 0
  ddr : List DdrSample := []
  ddrSpeed : Nat := 0
  saved : Option Meta := none
  badCopies : List Nat := []
  lostSlots : List Nat := []
  /-- the keys that the SXC loads into the digest key registers over its own path, by register; none for one left empty (R19, R278). -/
  digestKeys : List (List (BitVec 8)) := []
  deriving DecidableEq, Repr


/-- The commands: one constructor per row of spec/opcode_table.json. -/
inductive Instr where
  /-- POWER_GOOD (R633): VIN reaches 4.5 V and every internal rail comes into regulation, so the device asserts PWRGOOD. -/
  | powerGood
  /-- POWER_GOOD_LOST (R633): A rail leaves regulation and the device deasserts PWRGOOD within 5 µs. -/
  | powerGoodLost
  /-- RESET_N_ASSERT (R635): A low of at least 1 µs on RESET_N resets the device, except under a SERVICE Checkmate or during time trouble. -/
  | resetNAssert (lowNs : Nat)
  /-- PERST_N_ASSERT (R640): PERST_N resets only the management endpoint's link. -/
  | perstNAssert
  /-- VIN_REMOVED (R582): VIN is removed, which clears a Checkmate raised in SERVICE and powers the device down. -/
  | vinRemoved
  /-- START_UP (R538): At t0 the device runs START-UP in the order of Table 18.3: ROM, loader, firmware, Opening Image, time step, pool recovery and lane training. -/
  | startUp (b : BootSample)
  /-- BOOT_RECORD_WRITE (R543): The SXC signs and programs the Boot Record, and GLB_STATE leaves START-UP for SERVICE, TEST or RECOVERY. -/
  | bootRecordWrite (good : Bool)
  /-- TEMPO_EDGE (R44): At a tempo edge the tempo number advances, staged changes take effect, tokens return, credits are snapshotted, and slices are marked for suspension. -/
  | tempoEdge (e : EdgeSample)
  /-- CREDIT_RESYNC_DONE (R81): A resynchronising ledger drains, its credits are restored to D, and sending resumes. -/
  | creditResyncDone (unit : Nat) (cls : Fin 4) (occupied returns : Nat)
  /-- ACCEL_SLICE_BUDGET_END (R258): A lane's slice budget ends in the middle of a job, and the lane splits the job and holds it in its resume context. -/
  | accelSliceBudgetEnd (k : Fin 4) (lane : Fin 16)
  /-- PERIODIC_ALIGN_EXCHANGE (R499): Every 16 tempi a follower sends ALIGN_REQ to the tempo master. -/
  | periodicAlignExchange (t1 : BitVec 96)
  /-- ALIGN_EXCHANGE_MISSED (R499): No ALIGN_RESP arrives within 8 tempi; after three misses the master choice is repeated without the lost master. -/
  | alignExchangeMissed
  /-- BEACON_SEND (R496): Every 1,000 tempi each device sends a BEACON on every used Cerco port. -/
  | beaconSend
  /-- HEARTBEAT_SEND (R503): Every 100 tempi each head sends HEARTBEAT to its peer on every peer path. -/
  | heartbeatSend
  /-- DIGEST_SEND (R507): Every 64 tempi each head sends DIGEST messages covering its owned groups' window of entries. -/
  | digestSend
  /-- PPS_OUT_WIDTH_END (R62): PPS_WIDTH ms after the whole second, PPS_OUT falls. -/
  | ppsOutWidthEnd (ms : Nat)
  /-- PPS_IN_EDGE (R640): A rising edge of PPS_IN is timestamped into TMP_PPS_CAPT. -/
  | ppsInEdge (cyc : Nat)
  /-- TMP_SNAP_TAKE (R56): Writing TAKE captures the tempo number, seconds and nanoseconds of one cycle. -/
  | tmpSnapTake (cyc : Nat)
  /-- TEMPO_STEP (R42): TMP_CTRL.STEP steps tempo time to TMP_SET_SEC and TMP_SET_NS in START-UP, recomputing the tempo number. -/
  | tempoStep (cyc : Nat)
  /-- TMP_FADJ_WRITE (R59): A frequency adjustment written to TMP_FADJ acts from the next cycle and ends holdover's held frequency. -/
  | tmpFadjWrite (v : BitVec 32) (cyc : Nat)
  /-- TMP_PADJ_WRITE (R59): A phase correction written to TMP_PADJ replaces any pending slew, applied at 500 ppm. -/
  | tmpPadjWrite (v : BitVec 32) (cyc : Nat)
  /-- OFFSET_SAMPLE (R60): An offset sample written to TMP_OFFSET updates the lock and holdover state. -/
  | offsetSample (v : BitVec 32) (cyc : Nat)
  /-- OFFSET_SAMPLE_TIMEOUT (R61): No offset sample for 3 s clears LOCK, sets LOCK_LOST and HOLDOVER, and logs a Notice. -/
  | offsetSampleTimeout (cyc : Nat)
  /-- TRANSFER_REQUEST (R73): A requester sends a REQ to a target arbiter, where it waits in its reserved pending slot. -/
  | transferRequest (target : Fin 61) (port : Fin 120) (write : Bool) (qos : Fin 4) (addr : Nat) (same line : Bool) (buffer : List Byte)
  /-- ARBITER_GRANT (R72): An arbiter with a free grant slot grants the highest-QOS, oldest request and sends GO or performs the read. -/
  | arbiterGrant (target : Fin 61) (err : BitVec 76) (accepted : Bool)
  /-- REQUEST_AGE_RAISE (R72): A request pending for 256 cycles is raised to QOS level 3. -/
  | requestAgeRaise (target : Fin 61) (order : Nat)
  /-- WRITE_DATA_ARRIVE (R74): A granted write's DAT flit reaches the target, and the transfer completes. -/
  | writeDataArrive (target : Fin 61) (port : Fin 120) (data : List Byte)
  /-- GRANT_CUT_OFF (R75): A transfer waits on its requester for 64 cycles, so the arbiter cuts it off, sends CUT and raises FAB_GRANT_HOLD. -/
  | grantCutOff (target : Fin 61) (port : Fin 120)
  /-- LATE_DAT_DISCARD (R76): A DAT flit for a cut-off transfer is discarded, its credit returned and FAB_CUT.LATE counted. -/
  | lateDatDiscard (target : Fin 61) (port : Fin 120)
  /-- CUT_NOTICE_RECEIVE (R115): An engine receives a CUT notice, and a store's FABRIC_CUT is taken at the next instruction boundary. -/
  | cutNoticeReceive (e : Fin 64) (addr : Nat)
  /-- POOL_SCRUB_LINE (R93): Every INTERVAL cycles each pool bank reads and rewrites one line. -/
  | poolScrubLine (bank : Fin 48) (word : Fin 8) (err : BitVec 76)
  /-- FAB_INJ_ARM (R94): Arming FAB_INJ inverts the selected check bits in the next word or flit written to the unit, after which ARM clears. -/
  | fabInjArm
  /-- BUFFER_LEDGER_AUDIT (R85): Every 64 tempi the pool-buffer and miss-buffer ledgers are audited, and a failure raises BUF_LEDGER. -/
  | bufferLedgerAudit (poolErr missErr : List Int)
  /-- ENGINE_TAKE_SLICE (R117): An idle engine takes the resume-slot slice or the oldest high- or low-ring descriptor, or consumes a bad descriptor. -/
  | engineTakeSlice (e : Fin 64)
  /-- ENGINE_INSTRUCTION (R96): An engine or King unit executes a standard RV64 instruction, with access-fault, misaligned or illegal-instruction exceptions as applicable. -/
  | engineInstruction (e : Fin 65) (checker : Bool) (cyc : Nat) (full : Bool) (err : BitVec 76) (cut : Bool) (other : Option (Nat × BitVec 64))
  /-- ENGINE_LOAD_STORE (R99): A load, store or fetch goes through the cluster L2 or uncached to its target under the address map. -/
  | engineLoadStore (e : Fin 65) (kind : MemKind) (reg : Fin 32) (addr : Nat) (sizeLog : Fin 4) (signed : Bool) (err : BitVec 76) (cut : Bool) (other : Option (Nat × BitVec 64))
  /-- QDOOR (R103): An engine rings an accelerator or task ring and receives a doorbell status. -/
  | qdoor (e : Fin 65) (rd rs1 rs2 : Fin 32) (cut : Bool)
  /-- QPROBE (R104): An engine queues a probe block to the FIU and receives a queue status. -/
  | qprobe (e : Fin 65) (rd rs1 : Fin 32) (full : Bool)
  /-- QCAS128 (R106): An engine performs an atomic 128-bit compare-and-swap at the pool or DRAM. -/
  | qcas128 (e : Fin 65) (rd rs1 rs2 : Fin 32)
  /-- QCRC64 (R109): An engine advances a CRC-64 over 1, 2, 4 or 8 bytes. -/
  | qcrc64 (e : Fin 65) (rd rs1 rs2 : Fin 32) (len : Fin 4)
  /-- QTEMPO_SNAPSHOT (R110): QTEMPO with funct7 0 captures a private time snapshot and returns the tempo number. -/
  | qtempoSnapshot (e : Fin 65) (rd : Fin 32) (cyc : Nat)
  /-- QTEMPO_SECONDS (R110): QTEMPO with funct7 1 returns the snapshot's seconds. -/
  | qtempoSeconds (e : Fin 65) (rd : Fin 32)
  /-- QTEMPO_NANOSECONDS (R110): QTEMPO with funct7 2 returns the snapshot's nanoseconds. -/
  | qtempoNanoseconds (e : Fin 65) (rd : Fin 32)
  /-- QTEMPO_CYCLES_TO_EDGE (R110): QTEMPO with funct7 3 returns the fabric cycles left before the next edge. -/
  | qtempoCyclesToEdge (e : Fin 65) (rd : Fin 32) (cyc : Nat)
  /-- QPTOK_REQUEST (R111): An engine posts, replaces or cancels a power-token request. -/
  | qptokRequest (e : Fin 65) (rd rs1 : Fin 32)
  /-- QPTOK_QUERY (R112): An engine reads its granted tokens and pending flag. -/
  | qptokQuery (e : Fin 65) (rd : Fin 32)
  /-- QYIELD_COMPLETE (R113): QYIELD with rs1 0 ends the slice as complete. -/
  | qyieldComplete (e : Fin 65)
  /-- QYIELD_DEFER (R113): QYIELD with rs1 1 parks the slice in the resume slot for the next tempo. -/
  | qyieldDefer (e : Fin 65)
  /-- KING_MISMATCH (R122): The King comparator finds a mismatch, so outputs are held, states saved and checkers read. -/
  | kingMismatch (flag0 flag1 : Bool) (gap : Nat) (err : BitVec 76)
  /-- KING_SELF_TEST_DONE (R122): The King self-test ends; the survivor resumes and KING_SPLIT is raised, or KING_CHECKMATE is declared. -/
  | kingSelfTestDone (pass0 pass1 : Bool) (gap : Nat) (err : BitVec 76)
  /-- RANGE_WRITEBACK (R131): A WRITEBACK range operation writes back dirty lines in the range. -/
  | rangeWriteback (cl : Fin 8)
  /-- RANGE_INVALIDATE (R131): An INVALIDATE range operation writes back and invalidates the range. -/
  | rangeInvalidate (cl : Fin 8)
  /-- RANGE_PRELOAD (R133): A PRELOAD range operation fills the range into a locked way. -/
  | rangePreload (cl : Fin 8) (way : Fin 16)
  /-- RANGE_OP_DONE (R131): A range operation ends, setting RESULT and RANGE_DONE. -/
  | rangeOpDone (cl : Fin 8)
  /-- L2_LOCK_WRITE (R134): A write to CLn_L2_LOCK locks or unlocks ways, refused above 12 ways. -/
  | l2LockWrite (cl : Fin 8) (mask : BitVec 16)
  /-- L2_DRAIN_START (R136): Writing L2_EN to 0 starts a drain after any running range operation. -/
  | l2DrainStart (cl : Fin 8)
  /-- L2_DRAIN_DONE (R136): The last dirty line is written back; the L2 invalidates all lines, enters DISABLED and sets DRAIN_DONE. -/
  | l2DrainDone (cl : Fin 8) (errs : List (Nat × BitVec 76))
  /-- L2_ENABLE (R138): Writing L2_EN to 1 returns the L2 to ENABLED with every way empty. -/
  | l2Enable (cl : Fin 8)
  /-- HOST_FRAME_RECEIVE (R169): A frame arrives on a host port, is length-checked and dispatched to its context or dropped. -/
  | hostFrameReceive (p : Fin 32) (f : HostFrame)
  /-- CONTEXT_FETCH_DONE (R157): A context fetch completes and the context's waiting packets are processed in order. -/
  | contextFetchDone (c : Fin 262144)
  /-- CONTEXT_FETCH_SLOW (R157): A fetch has not completed after 8 µs, so NVF_CTX_FETCH is raised. -/
  | contextFetchSlow (c : Fin 262144)
  /-- PFC_PAUSE_REFRESH (R181): Every half QUANTA, the port refreshes each pause it holds. -/
  | pfcPauseRefresh (p : Fin 32)
  /-- CNP_RECEIVE (R183): A CNP cuts the context's transmit rate, at most once per CUT_GAP. -/
  | cnpReceive (c : Fin 262144)
  /-- RATE_RAISE (R183): At each RAISE_INT edge, uncut contexts raise their rate by RAISE_STEP. -/
  | rateRaise
  /-- HOST_LINK_RETRAIN (R16): A host port trains or retrains once its token grant is made. -/
  | hostLinkRetrain (p : Fin 32)
  /-- FABRICS_CONNECT (R146): A Fabrics Connect creates a controller or queue context, or fails with Controller Busy. -/
  | fabricsConnect (r : ConnectReq)
  /-- FABRICS_DISCONNECT (R168): A Fabrics Disconnect tears down the context. -/
  | fabricsDisconnect (c : HostCmd)
  /-- PROPERTY_GET (R142): Property Get returns a controller property. -/
  | propertyGet (c : HostCmd)
  /-- PROPERTY_SET (R142): Property Set writes a controller property, where CC.EN 0 or a shutdown tears down the controller. -/
  | propertySet (c : HostCmd)
  /-- IDENTIFY (R145): Identify returns controller or namespace data. -/
  | identify (c : HostCmd)
  /-- GET_LOG_PAGE (R659): Get Log Page returns a log, including the Boot Records of 0xC8, and unmasks the event type it names. -/
  | getLogPage (c : HostCmd)
  /-- SET_FEATURES (R142): Set Features sets a feature. -/
  | setFeatures (c : HostCmd)
  /-- GET_FEATURES (R142): Get Features returns a feature. -/
  | getFeatures (c : HostCmd)
  /-- ASYNC_EVENT_REQUEST (R659): An Asynchronous Event Request is held, or completed with a waiting event. -/
  | asyncEventRequest (c : HostCmd)
  /-- KEEP_ALIVE (R142): Keep Alive restarts the keep-alive timer. -/
  | keepAlive (c : HostCmd)
  /-- KEEP_ALIVE_EXPIRE (R168): The keep-alive timeout expires and the context tears down. -/
  | keepAliveExpire (cntlid : Fin 65536) (ms : Nat)
  /-- ABORT (R167): Abort completes with DW0[0] 1 and aborts nothing. -/
  | abort (c : HostCmd)
  /-- NAMESPACE_MANAGEMENT (R147): Namespace Management creates a namespace of whole squares under its domain binding, or deletes one. -/
  | namespaceManagement (c : HostCmd)
  /-- NAMESPACE_ATTACHMENT (R148): Namespace Attachment attaches or detaches a namespace for a host NQN from the next edge. -/
  | namespaceAttachment (c : HostCmd)
  /-- FIRMWARE_IMAGE_DOWNLOAD (R561): A firmware block is placed in the download buffer, subject to ownership, overlap and compatibility checks. -/
  | firmwareImageDownload (c : HostCmd)
  /-- FIRMWARE_COMMIT_SLOT (R564): Firmware Commit CA 0 writes the buffer to a slot. -/
  | firmwareCommitSlot (c : HostCmd)
  /-- FIRMWARE_COMMIT_SLOT_NEXT (R564): Firmware Commit CA 1 writes the buffer to a slot and sets NEXT. -/
  | firmwareCommitSlotNext (c : HostCmd)
  /-- FIRMWARE_COMMIT_NEXT (R563): Firmware Commit CA 2 sets NEXT to the slot. -/
  | firmwareCommitNext (c : HostCmd)
  /-- FIRMWARE_COMMIT_ACTIVATE (R565): Firmware Commit CA 3 verifies and loads a slot and queues activation from edge P. -/
  | firmwareCommitActivate (c : HostCmd)
  /-- ACTIVATION_IDLE_DEADLINE (R567): At P + 20 ms the switch proceeds if the head is idle; otherwise the activation is abandoned. -/
  | activationIdleDeadline
  /-- ACTIVATION_RELEASE (R568): The new firmware reads its handoff block, the pause is released and the commit completes. -/
  | activationRelease (tenthsMs : Nat)
  /-- NVME_READ (R315): A Read is checked and each square is served from staging, zeros or verified media data. -/
  | nvmeRead (c : HostCmd)
  /-- NVME_WRITE (R192): A Write is checked, gets one slot per square and a capacity reservation, and then fetches its data. -/
  | nvmeWrite (c : HostCmd)
  /-- NVME_COMPARE (R336): A Compare verifies each square and compares it with host data. -/
  | nvmeCompare (c : HostCmd)
  /-- NVME_VERIFY (R336): A Verify runs every read step and check without transferring data. -/
  | nvmeVerify (c : HostCmd)
  /-- WRITE_ZEROES (R194): Write Zeroes stages KIND 1 slots for whole squares and zero data for partial squares. -/
  | writeZeroes (c : HostCmd)
  /-- FLUSH (R149): Flush completes at once with success. -/
  | flush (c : HostCmd)
  /-- DATASET_MANAGEMENT (R150): Dataset Management deallocate unmaps whole squares and zeroes partial squares. -/
  | datasetManagement (c : HostCmd)
  /-- RESERVATION_REGISTER (R151): Reservation Register changes a registrant in the pair's metadata. -/
  | reservationRegister (c : HostCmd)
  /-- RESERVATION_REPORT (R151): Reservation Report returns the reservation state. -/
  | reservationReport (c : HostCmd)
  /-- RESERVATION_ACQUIRE (R151): Reservation Acquire takes or preempts a reservation. -/
  | reservationAcquire (c : HostCmd)
  /-- RESERVATION_RELEASE (R151): Reservation Release releases or clears a reservation. -/
  | reservationRelease (c : HostCmd)
  /-- COMMAND_RECORD_WAIT (R502): A capsule waiting for a free command record is accepted when one frees. -/
  | commandRecordWait
  /-- SLOT_ADMIT_WAIT (R193): A write waiting for staging slots is given them when slots free. -/
  | slotAdmitWait
  /-- WRITE_DATA_LAND (R194): A host block lands whole in its slot after its PI check; when the last block lands, the slot becomes STAGED and mirror writes are issued. -/
  | writeDataLand (rec : Fin 1048576) (i : Nat) (data : List Byte)
  /-- MIRROR_ACK (R196): The peer acknowledges a slot's mirror, the slot becomes DURABLE, and completion is posted when all slots are durable. -/
  | mirrorAck (item : MirrorItem)
  /-- MIRROR_WRITE_FAILED (R197): A failed mirror write is reissued on another path, or the slot stays STAGED. -/
  | mirrorWriteFailed (item : MirrorItem) (port : Fin 4)
  /-- COMPLETION_DELIVERED (R166): The transport confirms delivery of a completion, and the command becomes COMPLETED. -/
  | completionDelivered (rec : Fin 1048576)
  /-- TRANSPORT_CONNECTION_LOSS (R168): The transport connection or queue pair fails and the context tears down. -/
  | transportConnectionLoss (c : Fin 262144)
  /-- REDUCTION_TAKE_SLOT (R199): A reduction engine takes a DURABLE slot by QCAS128, superseding it, merging it and submitting its digest job. -/
  | reductionTakeSlot (e : Fin 64) (bad : BitVec 16) (copy : Option (List Byte))
  /-- MERGE_READ_RESULT (R202): A sub-square merge read ends; the slot is merged, zero-filled and listed, or returned to DURABLE. -/
  | mergeReadResult (slot : Nat)
  /-- FINGERPRINT_RESULT (R203): The digest result maps zero squares to all-ones, or leads to a probe. -/
  | fingerprintResult (slot : Nat) (ending : JobEnd)
  /-- INDEX_DECISION (R205): A probe result and GTE checks decide HIT, MISS or new granule, with a COMPARE read where required. -/
  | indexDecision (slot : Nat)
  /-- REFERENCE_ADD_RESULT (R206): A foreign reference-add swap returns: it succeeds, retries, finds a dead or mismatched GTE, or fails after 8 swaps. -/
  | referenceAddResult (who : AddFor) (old : Option (BitVec 64))
  /-- FRAME_PLACEMENT (R210): A new granule's frame is placed in the open row, its GID allocated, its header written and its cipher job submitted. -/
  | framePlacement (slot : Nat) (compress cipher : JobEnd)
  /-- ROW_AGE_EXPIRE (R217): ROW_AGE tempi after a row's first frame, the row closes and is padded. -/
  | rowAgeExpire (row : Nat)
  /-- ROW_PROGRAM_ISSUE (R218): After the parity and the token grant, the row's W + 2 columns are issued for programming. -/
  | rowProgramIssue (row : Nat) (parity : JobEnd)
  /-- ROW_PROGRAMMED (R219): Every column and earlier row reports success, and the row's transactions are built. -/
  | rowProgrammed (row : Nat)
  /-- ROW_PROGRAM_FAIL (R220): A column fails, so the row is burned, its frames requeued and the segment closed short. -/
  | rowProgramFail (row : Nat)
  /-- FRAMELESS_TRANSACTION (R658): Frameless PACKED slots with no frame in the open row get a transaction in the same tempo. -/
  | framelessTransaction (e : Fin 64)
  /-- TRANSACTION_COMMIT (R221): A journal record is acknowledged by the peer and then applied, and its slots are released. -/
  | transactionCommit (tsn : Nat)
  /-- PEER_RECORD_APPLY (R222): A head applies a mirrored peer record in TSN order and releases the mirror slots. -/
  | peerRecordApply
  /-- FOREIGN_RELEASE_DONE (R223): A foreign release add completes and a RELEASE_DONE record is committed. -/
  | foreignReleaseDone (gid tsn : Nat)
  /-- FIU_PROBE (R242): The FIU answers a queued probe from the filter, the hot set, the cache or flash, or sends it to a remote owner. -/
  | fiuProbe
  /-- INDEX_PROBE_RECEIVE (R242): An owner answers a remote INDEX_PROBE with INDEX_REPLY. -/
  | indexProbeReceive (dev : Fin 8) (fp : List Byte) (kdom : Fin 4096) (tag : Nat)
  /-- INDEX_REPLY_RECEIVE (R243): An INDEX_REPLY completes a remote probe, or is discarded as late. -/
  | indexReplyReceive (tag : Nat) (r : Option IndexReply)
  /-- PROBE_TIMEOUT (R243): No reply within PROBE_TMO, so the probe answers UNAVAILABLE. -/
  | probeTimeout (tag : Nat)
  /-- WRONG_OWNER_RETRY (R233): After WRONG_OWNER, the operation is retried once when the requester's table version is high enough. -/
  | wrongOwnerRetry (tag : Nat)
  /-- FIU_INSERT (R247): An INSERT job tries 32-byte CAS on bucket slots and ends OK, DUPLICATE, FULL, MOVED or UNAVAILABLE. -/
  | fiuInsert (ring : Fin 9) (far : FiuReport)
  /-- FIU_REMOVE (R248): A REMOVE job swaps the expected entry for zeros. -/
  | fiuRemove (ring : Fin 9) (far : FiuReport)
  /-- FILTER_REBUILD_DONE (R240): A partition's filter finishes rebuilding and leaves bypass. -/
  | filterRebuildDone
  /-- FIU_OWN_APPLY_WRITE (R622): Writing FIU_OWN_APPLY stages, or with 0 cancels, an owner table. -/
  | fiuOwnApplyWrite (v : BitVec 64)
  /-- PIN_DROP (R250): The allocating head drops an index pin by transaction once no in-flight slot can still use it. -/
  | pinDrop (gid : Nat)
  /-- OWNER_SCRUB (R251): The owner scrub checks SCRUB_RATE buckets per 1,000 tempi and removes dead entries. -/
  | ownerScrub (dead : List Nat)
  /-- REF_AUDIT_COMPARE (R253): The allocating device compares expected and actual REFCNT and corrects an excess or shortfall. -/
  | refAuditCompare (others : List (Nat × Nat)) (doubtful : List Nat)
  /-- COMPRESS_ONESHOT (R269): A compression lane runs a ONESHOT compress job to OK, OUT_FULL or a failure status. -/
  | compressOneshot (lane : Fin 16) (cut self : Bool)
  /-- COMPRESS_START (R270): A lane runs a START job, opening a compression stream. -/
  | compressStart (lane : Fin 16) (cut self : Bool)
  /-- COMPRESS_CONTINUE (R271): A lane runs a CONTINUE job on a stream, with flush, end or resumption. -/
  | compressContinue (lane : Fin 16) (cut self : Bool)
  /-- DECOMPRESS (R272): A lane decompresses one Zstandard frame with length, format and checksum checks. -/
  | decompress (lane : Fin 16) (cut self : Bool)
  /-- DIGEST_SHA256 (R274): A digest pipeline runs an OP 1 SHA-256 job in any mode. -/
  | digestSha256 (pipe : Fin 2) (cut self : Bool)
  /-- DIGEST_SHA384 (R274): A digest pipeline runs an OP 2 SHA-384 job. -/
  | digestSha384 (pipe : Fin 2) (cut self : Bool)
  /-- DIGEST_SHA512 (R274): A digest pipeline runs an OP 3 SHA-512 job. -/
  | digestSha512 (pipe : Fin 2) (cut self : Bool)
  /-- DIGEST_SHA3_256 (R274): A digest pipeline runs an OP 4 SHA3-256 job. -/
  | digestSha3256 (pipe : Fin 2) (cut self : Bool)
  /-- DIGEST_HMAC_SHA256 (R274): A digest pipeline runs an OP 5 HMAC job, keyed from the pool or a key register. -/
  | digestHmacSha256 (pipe : Fin 2) (cut self : Bool)
  /-- DIGEST_HMAC_SHA384 (R274): A digest pipeline runs an OP 6 HMAC-SHA-384 job. -/
  | digestHmacSha384 (pipe : Fin 2) (cut self : Bool)
  /-- DIGEST_HMAC_SHA512 (R274): A digest pipeline runs an OP 7 HMAC-SHA-512 job. -/
  | digestHmacSha512 (pipe : Fin 2) (cut self : Bool)
  /-- DIGEST_SHA256_CRC64 (R275): A digest pipeline computes SHA-256 and CRC-64 in one ONESHOT pass. -/
  | digestSha256Crc64 (pipe : Fin 2) (cut self : Bool)
  /-- CIPHER_CBC (R284): A cipher lane runs an OP 1 CBC job. -/
  | cipherCbc (lane : Fin 12) (cut self : Bool)
  /-- CIPHER_CFB128 (R284): A cipher lane runs an OP 2 CFB128 job. -/
  | cipherCfb128 (lane : Fin 12) (cut self : Bool)
  /-- CIPHER_OFB (R284): A cipher lane runs an OP 3 OFB job. -/
  | cipherOfb (lane : Fin 12) (cut self : Bool)
  /-- CIPHER_CTR (R293): A cipher lane runs an OP 4 CTR job with a GID or COUNTER IV. -/
  | cipherCtr (lane : Fin 12) (cut self : Bool)
  /-- CIPHER_GCM (R296): A cipher lane runs a GCM encryption, or a STREAM or VAULT decryption, with its tag. -/
  | cipherGcm (lane : Fin 12) (cut self : Bool)
  /-- CIPHER_GMAC (R296): A cipher lane generates or verifies a GMAC tag. -/
  | cipherGmac (lane : Fin 12) (cut self : Bool)
  /-- CIPHER_KW (R300): A cipher lane wraps or unwraps with KW, optionally into a key slot. -/
  | cipherKw (lane : Fin 12) (cut self : Bool)
  /-- CIPHER_KWP (R300): A cipher lane wraps or unwraps with KWP, optionally into a key slot. -/
  | cipherKwp (lane : Fin 12) (cut self : Bool)
  /-- ERASURE_GEN (R413): An erasure lane computes P and Q for a row. -/
  | erasureGen (lane : Fin 4) (cut self : Bool)
  /-- ERASURE_REBUILD (R413): An erasure lane rebuilds up to two missing columns. -/
  | erasureRebuild (lane : Fin 4) (cut self : Bool)
  /-- ERASURE_VERIFY (R413): An erasure lane checks P and Q against the data columns. -/
  | erasureVerify (lane : Fin 4) (cut self : Bool)
  /-- KEY_LOAD_DEK (R308): CIP_KLOAD SOURCE 1 loads a domain DEK generation into a resident slot. -/
  | keyLoadDek (slot : Fin 256) (index : Fin 4096) (gen : Fin 256)
  /-- KEY_LOAD_INTEGRITY (R308): CIP_KLOAD SOURCE 2 loads a pool integrity key. -/
  | keyLoadIntegrity (slot : Fin 256) (index : Fin 4096)
  /-- KEY_LOAD_REPL_PEER (R308): CIP_KLOAD SOURCE 3 loads a replication-peer key. -/
  | keyLoadReplPeer (slot : Fin 256) (index : Fin 4096)
  /-- KEY_LOAD_VAULT (R308): CIP_KLOAD SOURCE 4 loads a vault key. -/
  | keyLoadVault (slot : Fin 256) (index : Fin 4096)
  /-- KEY_ZEROISE (R308): CIP_KLOAD SOURCE 7 zeroises a resident slot. -/
  | keyZeroise (slot : Fin 256)
  /-- KEY_IMPORT (R310): The SXC unwraps an imported Key Block, rewraps it under both KEKs and distributes it. -/
  | keyImport (domain : Fin 4096) (blob : List Byte) (unique : List Byte)
  /-- KEY_TRANSFER_RECEIVE (R306): An SXC receives a DEK or integrity key over an authenticated transfer and rewraps it. -/
  | keyTransferReceive (entry : Fin 4096) (integrity : Bool) (gen : Fin 256) (fromDev : Fin 8) (key : List Byte) (chainOk : Bool)
  /-- ROTATION_SCAN_ENTRY (R312): The rotation scan re-encrypts an old-generation granule and commits a REKEY entry. -/
  | rotationScanEntry (nsid leaf : Nat) (i : Fin 512) (engine : Fin 64)
  /-- ROTATION_END (R313): When no live GTE at PREV_GEN remains, the rotation ends and the old keys are zeroised. -/
  | rotationEnd (domain : Fin 4096) (othersClear : Bool)
  /-- MEDIA_PAGE_READ_RESULT (R326): A page read result arrives; failure climbs the retry ladder, and success records hints. -/
  | mediaPageReadResult (job i : Nat)
  /-- FRAME_VERIFY (R332): A landed frame passes or fails the four verification stages, leading to a restart, a re-read, a rebuild or release. -/
  | frameVerify (job : Nat) (fault : ReadFault) (stage3 : Bool)
  /-- READ_KEY_WAIT_END (R329): A read waiting for a key load continues or fails by the load's result. -/
  | readKeyWaitEnd (job : Nat)
  /-- REBUILD_ON_READ (R338): A rebuild row reads the surviving columns under a token grant and rebuilds the missing ones for a read. -/
  | rebuildOnRead (job : Nat) (bad : List Nat) (fault : ReadFault)
  /-- FRAME_FETCH_RECEIVE (R341): An allocating device reads a foreign-requested frame, writes it remotely and sends FRAME_REPLY. -/
  | frameFetchReceive (dev : Fin 8) (gid : BitVec 64) (tag : Nat) (kdom : Fin 4096) (rebuild : Bool)
  /-- FRAME_REPLY_RECEIVE (R343): A requester verifies a fetched frame or acts on DEAD, LOST, DOMAIN or UNREADABLE. -/
  | frameReplyReceive (tag : Nat) (result : Nat) (frame : List Byte) (gte : Gte)
  /-- FRAME_FETCH_TIMEOUT (R342): No FRAME_REPLY within 5 ms; the fetch is retried on the other head, then the square fails. -/
  | frameFetchTimeout (tag : Nat) (failed : Bool)
  /-- REPAIR_REQ (R464): An end answers a repair request through its read pipeline. -/
  | repairReq (rel : Fin 4096) (tag : Nat) (fph : Option Nat) (square : Nat)
  /-- REPAIR_ANS (R345): A returned square is accepted and served and staged, or rejected. -/
  | repairAns (tag : Nat) (result fmt : Nat) (payload : List Byte)
  /-- REPAIR_TIMEOUT (R346): No repair answer within REPAIR_TMO, so the square fails with Unrecovered Read Error. -/
  | repairTimeout (tag : Nat)
  /-- CHECKPOINT (R350): A checkpoint writes dirty pages, the page table and the pool root, and commits CHECKPOINT. -/
  | checkpoint
  /-- SEGMENT_OPEN (R418): A head takes a layout line and allocates the lowest-PE blocks of its parity for a new segment. -/
  | segmentOpen (pool : Fin 32) (kind : Fin 4)
  /-- SEGMENT_CLOSE_SHORT (R655): An OPEN segment closes short: issued rows complete, unissued frames requeue, and SEG_CLOSE commits. -/
  | segmentCloseShort (seg : Nat)
  /-- GC_SELECT (R359): A pool below LOW_PCT chooses the relocation-queued or highest-scored segment to collect. -/
  | gcSelect (pool : Fin 32) (isMeta : Bool)
  /-- GC_COPY (R360): Live frames of a COLLECTING segment are verified and copied into collection rows. -/
  | gcCopy (e : Fin 64) (seg : Nat) (bad : List Nat)
  /-- GC_MOVE_COMMIT (R362): A programmed collection row commits GC_MOVE, and GTEs still naming OLD are moved. -/
  | gcMoveCommit (row : Nat)
  /-- SEG_DRAIN (R363): A source segment with LIVE 0 commits SEG_DRAIN and arms its erase gate. -/
  | segDrain (seg : Nat)
  /-- ERASE_GATE_REFUSE (R364): An erase of an unarmed block is refused and FT_ERASE_GATE raised. -/
  | eraseGateRefuse (member : Fin 64) (block : Nat)
  /-- SEGMENT_ERASE (R365): Armed blocks with no reader references are erased under a grant; ERASE_DONE commits and the segment is EMPTY. -/
  | segmentErase (seg : Nat)
  /-- BLOCK_RETIRE (R370): A block is retired by BLOCK_RETIRE for program, erase, read, wear or factory causes. -/
  | blockRetire (member : Fin 64) (block : Nat) (cause : Fin 6)
  /-- RETENTION_SCRUB (R374): Each PERIOD hours, every row of every CLOSED segment is read and parity-verified. -/
  | retentionScrub (seg : Nat) (steps : List Nat)
  /-- POWER_FAIL_DETECT (R612): VIN below PF_MV or PF_N low for DEB begins time trouble. -/
  | powerFailDetect (vinMv : Nat) (pfN : Bool) (halfUs : Nat)
  /-- FLUSH_CHUNKS (R377): The flush image is written as chunks to three flush groups. -/
  | flushChunks (n : Nat)
  /-- FLUSH_MANIFEST_WRITTEN (R379): The manifest is programmed in all three groups and the device resets. -/
  | flushManifestWritten (ms : Nat)
  /-- LANE_ENABLE (R394): Setting an MDL_LANE_EN bit moves a lane from OFF or FAILED to DETECT. -/
  | laneEnable (lanes : BitVec 64)
  /-- LANE_DETECT (R383): Receiver detection every 10 ms finds a load and the lane trains. -/
  | laneDetect (n : Fin 64) (load : Option ModInfo)
  /-- LANE_TRAIN_DONE (R383): Training ends within 20 ms and the lane moves to HELLO, or back to DETECT. -/
  | laneTrainDone (n : Fin 64) (locked : Bool)
  /-- HELLO (R395): A HELLO frame is checked for version and wiring, and the lane goes UP or fails. -/
  | hello (n : Fin 64) (version port cmdCred dataCred : Nat)
  /-- LANE_UP_IDENTIFY (R401): An UP lane issues IDENTIFY, BAD_LIST, FENCE_READ and HEALTH and raises presence. -/
  | laneUpIdentify (n : Fin 64) (adopt : Option (Fin 32 × Fin 15))
  /-- LANE_DOWN (R402): Loss of lock or a failed retrain takes the lane DOWN; commands end LINK_LOST and the member is reported absent. -/
  | laneDown (n : Fin 64)
  /-- MDL_TRANSACTION_FRAME (R386): A CMD, RSP or DATA frame is accepted in sequence, or discarded and NAKed. -/
  | mdlTransactionFrame (n : Fin 64) (seq : Fin 4096) (crcOk typeOk lenOk : Bool)
  /-- MDL_ACK (R389): An ACK releases replay buffer entries. -/
  | mdlAck (n : Fin 64) (seq : Fin 4096)
  /-- MDL_NAK (R389): A NAK replays every frame after the named SEQ. -/
  | mdlNak (n : Fin 64) (seq : Fin 4096)
  /-- MDL_CREDIT (R392): A CREDIT frame updates cumulative CMD and DATA credits. -/
  | mdlCredit (n : Fin 64) (cmd data : Nat)
  /-- MDL_KEEP (R391): A KEEP frame shows the link alive. -/
  | mdlKeep (n : Fin 64)
  /-- MDL_ACK_DELAY_EXPIRE (R387): ACK_DLY after acceptance or release, the receiver sends ACK and CREDIT. -/
  | mdlAckDelayExpire (n : Fin 64)
  /-- MDL_REPLAY_TIMEOUT (R389): REPLAY passes with no ACK and every unacknowledged frame is resent; four in a row retrain the lane. -/
  | mdlReplayTimeout (n : Fin 64)
  /-- MDL_DEAD_TIMEOUT (R391): No frame for DEAD, so the lane retrains. -/
  | mdlDeadTimeout (n : Fin 64)
  /-- MDL_KEEP_TIMEOUT (R391): A side silent for KEEP sends KEEP, CREDIT and ACK. -/
  | mdlKeepTimeout (n : Fin 64)
  /-- LANE_RETRAIN_DONE (R390): A retrain ends with the lane UP again, keeping its state, or DOWN. -/
  | laneRetrainDone (n : Fin 64) (ok : Bool)
  /-- MDL_IDENTIFY (R400): The module returns IDENTIFY data, which is checked for adoption. -/
  | mdlIdentify (n : Fin 64) (r : ModReq)
  /-- MDL_HEALTH (R401): HEALTH returns die temperature into MDL_TEMPn. -/
  | mdlHealth (n : Fin 64) (r : ModReq) (temp : Int)
  /-- MDL_HEALTH_TIMER (R401): Every HEALTH ms the device issues HEALTH. -/
  | mdlHealthTimer (n : Fin 64)
  /-- MDL_BAD_LIST (R370): BAD_LIST returns the module's bad blocks, which become FACTORY_BAD. -/
  | mdlBadList (n : Fin 64) (r : ModReq)
  /-- MDL_FENCE_READ (R403): FENCE_READ returns the fence word. -/
  | mdlFenceRead (n : Fin 64) (r : ModReq)
  /-- MDL_FENCE_CAS (R403): FENCE_CAS updates the fence word or ends FENCED, CAS_MISMATCH or INVALID. -/
  | mdlFenceCas (n : Fin 64) (r : ModReq)
  /-- MDL_LOAD_TABLE (R354): LOAD_TABLE loads the module type's threshold table. -/
  | mdlLoadTable (n : Fin 64) (r : ModReq)
  /-- MDL_READ (R396): The module reads 1–16 pages with a threshold set. -/
  | mdlRead (n : Fin 64) (r : ModReq) (unc : Nat)
  /-- MDL_PROGRAM (R396): The module programs the next row of a block. -/
  | mdlProgram (n : Fin 64) (r : ModReq) (ok : Bool)
  /-- MDL_ERASE (R396): The module erases a block. -/
  | mdlErase (n : Fin 64) (r : ModReq) (ok : Bool)
  /-- MDL_RESPONSE (R398): A response completes its command, with the READ length checks applied. -/
  | mdlResponse (n : Fin 64) (tag : Fin 1024) (seen : Option Nat)
  /-- MDL_COMMAND_TIMEOUT (R399): No RSP within the command's timeout; it ends TIMEOUT and is handled by command. -/
  | mdlCommandTimeout (n : Fin 64) (tag : Fin 1024)
  /-- PLN_RECEIVE (R406): A module's PLN stops new commands to it, and pending issues end LINK_LOST. -/
  | plnReceive (n : Fin 64)
  /-- PLN_CLEAR (R405): Writing MDL_CTRL.PLN_CLEAR sends PLN with CLEAR on every UP lane. -/
  | plnClear
  /-- MDL_INJ_ARM (R385): Arming MDL_INJ corrupts the trailer of the lane's next transaction frame. -/
  | mdlInjArm (lane : Fin 64)
  /-- MEMBER_GRACE_EXPIRE (R423): A member absent for GRACE seconds is declared failed. -/
  | memberGraceExpire (n : Fin 64)
  /-- REBUILD_ROW (R427): A rebuild row is granted, read, rebuilt and programmed into replacements. -/
  | rebuildRow (seg : Nat) (bad : List Nat)
  /-- REBUILD_COMMIT (R429): After the last row, the replacement columns are committed in the segment table. -/
  | rebuildCommit (seg : Nat)
  /-- SNAP_CREATE (R441): A mailbox create stages a cut of 1–64 namespaces for the next edge. -/
  | snapCreate (sseq : BitVec 32)
  /-- SNAPSHOT_CUT_COMMIT (R442): When the older slots commit, the CUT transaction creates the snapshots. -/
  | snapshotCutCommit
  /-- SNAP_DELETE (R448): A mailbox delete marks the snapshot DELETING from the next edge, or refuses it with HELD. -/
  | snapDelete (sseq : BitVec 32)
  /-- DELETE_WALK (R449): A deleted root is walked, committing DROP, FREE, UNSHARE, PROGRESS and GONE entries. -/
  | deleteWalk
  /-- SNAP_CLONE (R443): A mailbox clone creates a namespace from a snapshot. -/
  | snapClone (sseq : BitVec 32)
  /-- SNAP_LIST (R441): A mailbox list writes snapshot descriptors to DRAM. -/
  | snapList (sseq : BitVec 32)
  /-- REL_BIND (R456): A mailbox bind creates a replication relationship and sends REL_OPEN. -/
  | relBind (sseq : BitVec 32)
  /-- REL_PROMOTE (R465): A mailbox promote makes a target writable from its newest matched snapshot. -/
  | relPromote (sseq : BitVec 32)
  /-- REL_RESYNC (R466): A mailbox resync rolls the new target back to the common base. -/
  | relResync (sseq : BitVec 32)
  /-- REL_UNBIND (R456): A mailbox unbind removes a relationship. -/
  | relUnbind (sseq : BitVec 32)
  /-- REPLICATION_PACKET_RECEIVE (R454): A replication packet is decrypted and passed on, or discarded for TAG_FAIL or an unknown session. -/
  | replicationPacketReceive (port : Fin 32) (peer : Fin 64) (addr hdr body : List Byte) (lensOk : Bool)
  /-- SESSION_OPEN (R453): A receiver installs a session key blob and answers SESSION_ACK. -/
  | sessionOpen (peer : Fin 64) (session : BitVec 32) (blob : List Byte)
  /-- SESSION_ACK (R453): The sender switches to the acknowledged session. -/
  | sessionAck (peer : Fin 64) (session : BitVec 32) (result : Nat)
  /-- SESSION_RENEW (R453): After 2^31 packets or 3,600 s the sender opens a new session. -/
  | sessionRenew (peer : Fin 64)
  /-- REL_OPEN (R456): A target accepts or refuses a relationship and answers REL_REPLY. -/
  | relOpen (peer : Fin 64) (rel : Fin 4096) (remote : BitVec 32) (size lbaf pi : Nat)
  /-- REL_REPLY (R456): The source records the target's answer to a relationship. -/
  | relReply (rel : Fin 4096) (remote : BitVec 32) (result : Nat)
  /-- REPL_CYCLE_START (R458): Every INTERVAL seconds a periodic cycle cuts a REPL snapshot and sends DELTA_BEGIN. -/
  | replCycleStart (rel : Fin 4096)
  /-- DELTA_BEGIN (R458): The target begins a delta cycle. -/
  | deltaBegin (rel : Fin 4096) (sseq base : BitVec 32)
  /-- FP_OFFER (R457): The target probes offered squares, applies zero, unmap and hits, and sends FP_NEED. -/
  | fpOffer (rel : Fin 4096) (batch : BitVec 32) (l : List Offer)
  /-- FP_NEED (R458): The source sends the GRANULEs asked for. -/
  | fpNeed (rel : Fin 4096) (batch bitmap : BitVec 32)
  /-- GRANULE (R457): The target checks a received granule's fingerprint and stages it. -/
  | granule (rel : Fin 4096) (square : Nat) (fmt : Nat) (payload : List Byte)
  /-- DELTA_COMMIT (R458): The target cuts its matching snapshot once the delta has committed and sends DELTA_DONE. -/
  | deltaCommit (rel : Fin 4096) (sseq : BitVec 32) (offered : Nat)
  /-- DELTA_DONE (R458): The source retires its base snapshot, or abandons the cycle on FP mismatch. -/
  | deltaDone (rel : Fin 4096) (sseq target : BitVec 32) (result : Nat)
  /-- STREAM_REC (R459): The target applies one source transaction or anchor and answers STREAM_ACK. -/
  | streamRec (rel : Fin 4096) (head : Fin 2) (tsn : BitVec 64) (anchor : Bool) (l : List Offer)
  /-- STREAM_ACK (R460): The source releases the stream hold up to the acknowledged TSN. -/
  | streamAck (rel : Fin 4096) (head : Fin 2) (tsn : BitVec 64)
  /-- ANCHOR_CUT (R461): Every ANCHOR seconds the source cuts an anchor snapshot and streams it. -/
  | anchorCut (rel : Fin 4096)
  /-- RPO_LAG_CHECK (R462): Lag beyond RPO raises REP_RPO and, with THROTTLE, holds the namespace's writes. -/
  | rpoLagCheck (rel : Fin 4096)
  /-- REL_SUSPENDED_RETRY (R456): Every 1,000 tempi a SUSPENDED relationship retries. -/
  | relSuspendedRetry
  /-- CDT_REQUEST_DOORBELL (R489): Writing CDT_RPTRr.PROD rings a request ring, or is ignored and counted. -/
  | cdtRequestDoorbell (cluster : Fin 8) (r : Fin 16) (prod : BitVec 16)
  /-- CDT_SEND (R485): A SEND message is created and transmitted to a service. -/
  | cdtSend (cut : Bool)
  /-- CDT_WRITE (R487): A WRITE message is created and placed into a remote window. -/
  | cdtWrite (cut : Bool)
  /-- CDT_READ (R487): A READ message requests bytes from a remote window. -/
  | cdtRead
  /-- CDT_ADD (R487): A remote 64-bit atomic ADD is requested. -/
  | cdtAdd (cut : Bool)
  /-- CDT_CAS (R487): A remote compare-and-swap of 8, 16 or 32 bytes is requested. -/
  | cdtCas (cut : Bool)
  /-- CDT_SEND_RECEIVE (R485): A receiver delivers a whole SEND to its service or ring, or NAKs it. -/
  | cdtSendReceive (f : CdtFrame)
  /-- CDT_WRITE_RECEIVE (R495): A WRITE packet is checked against its window and placed. -/
  | cdtWriteReceive (f : CdtFrame) (mirror : Option MirrorData)
  /-- CDT_READ_REQ (R487): A responder checks a READ_REQ and returns READ_RESP packets. -/
  | cdtReadReq (f : CdtFrame)
  /-- CDT_READ_RESP (R491): Read data lands in the requester's buffer. -/
  | cdtReadResp (f : CdtFrame)
  /-- CDT_ATOMIC_REQ (R482): A responder performs an atomic once, answering duplicates from the kept result. -/
  | cdtAtomicReq (f : CdtFrame) (gte : Option Nat)
  /-- CDT_ATOMIC_RESP (R491): The old value of an atomic returns to the requester. -/
  | cdtAtomicResp (f : CdtFrame)
  /-- CDT_ACK (R477): An ACK releases packets, triggers fast retransmit or completes messages. -/
  | cdtAck (f : CdtFrame)
  /-- CDT_NAK (R491): A NAK fails a message or, for BUSY, defers its resend. -/
  | cdtNak (f : CdtFrame)
  /-- CDT_ACK_DELAY_EXPIRE (R476): 2 µs after the first unacknowledged packet, the receiver sends ACK. -/
  | cdtAckDelayExpire (src : Fin 8) (port : Fin 4)
  /-- CDT_RETRANSMIT_TIMEOUT (R477): An unacknowledged packet is resent with RETX; at RETRY the path goes down. -/
  | cdtRetransmitTimeout (dst : Fin 8) (port : Fin 4) (psn waited : BitVec 32)
  /-- CDT_MAX_AGE_EXPIRE (R479): At TEMPO0 + MAX_AGE an outstanding message fails with MAX_AGE. -/
  | cdtMaxAgeExpire (dst : Fin 8)
  /-- CERCO_LINK_DOWN (R478): A Cerco port's link goes down and its messages fail with LINK_DOWN. -/
  | cercoLinkDown (p : Fin 4)
  /-- CERCO_LINK_UP (R470): A Cerco link comes up, restoring a PEER path and the mirror limit. -/
  | cercoLinkUp (p : Fin 4)
  /-- PATH_EXPIRE (R470): No beacon or heartbeat from a DEV for 3,000 tempi ends the path. -/
  | pathExpire (dev : Fin 8) (p : Fin 4)
  /-- WINDOW_OPEN (R493): CDT_WOPEN.GO opens a CLOSED window with a fresh CHECK. -/
  | windowOpen
  /-- WINDOW_REVOKE (R494): CDT_WREVOKE.GO stages a revocation of an OPEN window. -/
  | windowRevoke
  /-- WINDOW_COOLING_EXPIRE (R494): At E + MAX_AGE a COOLING window becomes CLOSED. -/
  | windowCoolingExpire (i : Fin 4096)
  /-- CDT_INJ_ARM (R472): Arming CDT_INJ corrupts the trailer of the next reliable packet on a port. -/
  | cdtInjArm
  /-- BEACON (R497): A beacon updates presence and master data and binds or clashes the DEV serial. -/
  | beacon (f : CdtFrame)
  /-- ALIGN_REQ (R499): The master stamps an ALIGN_REQ and answers ALIGN_RESP. -/
  | alignReq (f : CdtFrame) (t2 t3 : BitVec 96)
  /-- ALIGN_RESP (R65): A follower computes its offset, slews and updates ALIGNED. -/
  | alignResp (f : CdtFrame) (t4 : BitVec 96) (cyc : Nat)
  /-- HEARTBEAT (R504): A peer heartbeat ends a miss run and may show CLAIMING, LOST_PEER or CASTLED. -/
  | heartbeat (f : CdtFrame)
  /-- HEARTBEAT_MISSED (R504): At H + 100 a heartbeat is counted missed; three in a row make the peer silent. -/
  | heartbeatMissed
  /-- PEER_FATAL_ASSERT (R505): PEER_FATAL_N low for 1 µs is a cause for declaring the peer lost. -/
  | peerFatalAssert (lowNs : Nat)
  /-- DIGEST (R508): A DIGEST message is compared after the peer records are applied, and PAIR_DIGEST and RECHECK_REQ follow a mismatch. -/
  | digest (m : DigestMsg)
  /-- RECHECK_REQ (R509): A head rechecks a window against its applied records and answers RECHECK_ANS. -/
  | recheckReq (group : Nat) (window : Nat)
  /-- RECHECK_ANS (R509): The two recheck results decide the outcome of Table 16.3. -/
  | recheckAns (group : Nat) (window : Nat) (wrong : Bool)
  /-- RESIGN (R505): A received RESIGN declares the peer lost. -/
  | resign (cause : Fin 5) (tempo : Nat)
  /-- RESIGN_HOLD_END (R511): On CASTLED or after 100 ms a resigning head tears down its contexts and enters RECOVERY. -/
  | resignHoldEnd
  /-- CLAIM_DELAY_EXPIRE (R512): Head B's CLAIM_DLY ends and its claim begins. -/
  | claimDelayExpire
  /-- CLAIM_REPEAT (R514): Every 1,000 tempi the claim of UNREACHED members is repeated. -/
  | claimRepeat
  /-- CAS_CMD_CLAIM (R514): Writing CAS_CMD.CLAIM repeats the claim of UNREACHED members. -/
  | casCmdClaim
  /-- CAS_ANA_APPLY_WRITE (R622): Writing CAS_ANA_APPLY stages, or with 0 cancels, an ANA owner table. -/
  | casAnaApplyWrite (v : BitVec 64)
  /-- OWNER_STAGE (R500): An OWNER_STAGE message stages the same ANA table on this head. -/
  | ownerStage (apply own0 own1 : BitVec 64)
  /-- PLANNED_CASTLING (R518): CAS_CMD.PLANNED moves the head's groups to the peer from the next edge. -/
  | plannedCastling
  /-- PLANNED_CHANGE_TIMEOUT (R518): A Change state that lasts 100 ms turns the move into unplanned castling. -/
  | plannedChangeTimeout
  /-- REJOIN_REQ (R519): The survivor checkpoints, copies mirrors, restores both fence bits and sends REJOIN_GRANT. -/
  | rejoinReq (boot : Nat)
  /-- REJOIN_GRANT (R520): The returning head discards restored state and enters SERVICE owning no group. -/
  | rejoinGrant (covered : Nat) (saved : Meta)
  /-- OIM_VALIDATE (R532): OIM_CMD VALIDATE checks an image in DRAM without change. -/
  | oimValidate
  /-- OIM_COMMIT (R532): OIM_CMD COMMIT validates and writes an image of higher SEQ to the other region. -/
  | oimCommit (good : Bool)
  /-- MR_EXTEND (R540): SXC_MR_EXT extends a measurement register, or is refused. -/
  | mrExtend (index : Fin 16)
  /-- CHALLENGE_NEW (R550): SXC_CHAL_CTRL.NEW draws a fresh challenge. -/
  | challengeNew
  /-- CHALLENGE_LAPSE (R550): A challenge lapses 600 s after it is drawn. -/
  | challengeLapse
  /-- MOVE_SUBMIT (R551): SXC_MOVE_CMD KIND 0 verifies a move, stages it and forwards it to targets. -/
  | moveSubmit
  /-- CLAIM_SUBMIT (R546): SXC_MOVE_CMD KIND 1 verifies a claim, burns a claim fuse and writes table version 1. -/
  | claimSubmit
  /-- MOVE_FORWARD_RECEIVE (R553): A target SXC checks and stages a forwarded move and acknowledges it. -/
  | moveForwardReceive (m : MoveMsg)
  /-- SPDM_GET_VERSION (R555): The SXC answers GET_VERSION. -/
  | spdmGetVersion (overlap : Bool)
  /-- SPDM_GET_CAPABILITIES (R555): The SXC answers GET_CAPABILITIES. -/
  | spdmGetCapabilities (overlap : Bool)
  /-- SPDM_NEGOTIATE_ALGORITHMS (R555): The SXC answers NEGOTIATE_ALGORITHMS. -/
  | spdmNegotiateAlgorithms (overlap common : Bool)
  /-- SPDM_GET_DIGESTS (R555): The SXC returns its certificate chain digests. -/
  | spdmGetDigests (overlap : Bool)
  /-- SPDM_GET_CERTIFICATE (R555): The SXC returns the Alias or Ledger chain. -/
  | spdmGetCertificate (overlap : Bool) (slot off len : Nat)
  /-- SPDM_CHALLENGE (R555): The SXC signs a challenge with the Alias key. -/
  | spdmChallenge (overlap : Bool) (r : SpdmSigned)
  /-- SPDM_GET_MEASUREMENTS (R555): The SXC returns signed measurements. -/
  | spdmGetMeasurements (overlap : Bool) (index : Nat) (sign : Bool) (r : SpdmSigned)
  /-- CHECK_ESCALATE (R574): A Check entry still open at RAISED + ESCALATE becomes a Double check. -/
  | checkEscalate (k : Fin 64)
  /-- CHECK_ENTRY_CLEAR (R574): Writing 1 to FLT_CHKk.OPEN closes a Check entry unless a set wins. -/
  | checkEntryClear (k : Fin 64) (collide : Bool)
  /-- DCHECK_ENTRY_CLEAR (R579): The management endpoint closes a Double check entry; the unit stays quarantined. -/
  | dcheckEntryClear (j : Fin 32) (mgmt : Bool)
  /-- LEDGER_RECORD_PROGRAM (R587): A queued persistent record is programmed, erasing a sector first, with SCR_LEDGER_FAIL on failure. -/
  | ledgerRecordProgram (eraseOk programOk : Bool)
  /-- SCR_FREEZE (R589): Writing FREEZE 1 holds recording in the holding queue. -/
  | scrFreeze
  /-- SCR_UNFREEZE (R589): Writing FREEZE 0 writes the holding queue out in order. -/
  | scrUnfreeze
  /-- SCR_FREEZE_TIMEOUT (R589): A freeze that reaches FREEZE_MAX ends and FROZE_OUT is set. -/
  | scrFreezeTimeout
  /-- SCR_WINDOW_SELECT (R590): Writing SCR_WIN_SEL loads one unit into the window. -/
  | scrWindowSelect (source : Fin 4) (cursor : BitVec 20)
  /-- SCR_WINDOW_NEXT (R590): Writing NEXT advances CURSOR and loads the next unit. -/
  | scrWindowNext
  /-- FLT_INJ_ARM (R591): Arming FLT_INJ corrupts the next paired value, King register write or DDR5 burst. -/
  | fltInjArm
  /-- CMP_INJ_ARM (R261): Arming CMP_INJ makes the lane's next transfer fail its checker. -/
  | cmpInjArm (lane : Fin 16)
  /-- DIG_INJ_ARM (R261): Arming DIG_INJ makes the pipeline's next transfer fail its checker. -/
  | digInjArm (pipe : Fin 2)
  /-- CIP_INJ_ARM (R288): Arming CIP_INJ makes the lane's next transfer fail its checker. -/
  | cipInjArm (lane : Fin 12)
  /-- ERS_INJ_ARM (R414): Arming ERS_INJ makes the lane's next transfer fail its checker. -/
  | ersInjArm (lane : Fin 4)
  /-- LEVEL_REQUEST (R650): Writing PWR_LVLr.REQ stages or replaces a level request. -/
  | levelRequest (r : Fin 12) (lvl : Fin 8)
  /-- LEVEL_RAMP_DONE (R595): A voltage and clock ramp ends and the region is charged at its new level. -/
  | levelRampDone (r : Fin 12)
  /-- ADJ_WAKE_REQUEST (R599): PWR_ADJ REQ 0 wakes a region from ADJ1 or, after a grant, from ADJ2. -/
  | adjWakeRequest (r : Fin 16)
  /-- ADJ1_REQUEST (R598): PWR_ADJ REQ 1 requests ADJ1, tested at the next edge. -/
  | adj1Request (r : Fin 16)
  /-- ADJ2_REQUEST (R598): PWR_ADJ REQ 2 requests ADJ2, tested at the next edge. -/
  | adj2Request (r : Fin 16)
  /-- ADJ3_REQUEST (R601): PWR_ADJ REQ 3 requests ADJ3 for the device. -/
  | adj3Request
  /-- ADJ_ENTRY_DONE (R602): A region finishes entering ADJ1, ADJ2 or ADJ3. -/
  | adjEntryDone (r : Fin 16)
  /-- ADJ_WAKE_DONE (R600): A region finishes waking, its ledgers initialised. -/
  | adjWakeDone (r : Fin 12)
  /-- WAKE_N_ASSERT (R640): A 10 µs low on WAKE_N wakes the device from ADJ3. -/
  | wakeNAssert (lowUs : Nat)
  /-- ADJ3_WAKE_TIMER (R597): WAKE_S seconds after ADJ3 entry, the SXC wakes the device. -/
  | adj3WakeTimer (sec : Nat)
  /-- ENVELOPE_WRITE (R607): A new envelope takes effect at the next edge, waiting while base charges exceed it. -/
  | envelopeWrite (watts : BitVec 16)
  /-- THROTTLE_STEP (R609): Every 1,000 tempi the effective envelope steps down or up by 5 %. -/
  | throttleStep
  /-- GLB_RESET (R623): GLB_CMD RESET with KEY resets the device at the next edge. -/
  | glbReset (key : BitVec 16) (mgmt : Bool)
  /-- GLB_TEST (R624): GLB_CMD TEST moves a head without groups or slots to TEST, or is refused. -/
  | glbTest (mgmt : Bool)
  /-- REGISTER_WRITE (R616): A write to a register field with no row of its own follows its access code, with width and unmapped errors counted. -/
  | registerWrite (mgmt : Bool) (off size : Nat) (v hwSet : BitVec 64)
  /-- REGISTER_READ_CLEAR (R617): A full read of an RC field returns and clears it. -/
  | registerReadClear (mgmt : Bool) (off size : Nat) (hwInc : BitVec 64)
  /-- DDR_THERMAL_POLL (R643): Every 1,000 tempi DIMM sensors are read, doubling refresh above 85 °C. -/
  | ddrThermalPoll (temps : List Int)
  /-- DDR_PATROL_LINE (R645): The patrol scrub reads a line, correcting or poisoning it. -/
  | ddrPatrolLine (ch : Fin 8) (line : Nat) (err : BitVec 80) (sub : Bool)
  /-- DDR_REFRESH_ALL (R16): A refresh-all on a channel starts after its token grant. -/
  | ddrRefreshAll (ch : Fin 8)
  /-- HOST_LINK_DOWN (R179): A host port's link goes down, clearing ETH_LINKn.UP and removing the port's entries from the discovery log page from the next edge. -/
  | hostLinkDown (p : Fin 32)
  /-- HOST_LINK_UP (R180): A host port finishes training and comes up, ending its RETRAIN hold and adding its discovery entries at the next edge. -/
  | hostLinkUp (p : Fin 32)
  /-- MDL_HELLO_TIMEOUT (R395): A Media Link lane in HELLO that has not exchanged and checked HELLO within 1 ms returns to DETECT. -/
  | mdlHelloTimeout (n : Fin 64)
  /-- VSB_PRESENCE_CHANGE (R633): The auxiliary supply VSB is applied or removed, changing PWR_STATUS.VSB and whether the SXC timebase, the VSB-domain balls and ADJ3 are kept. -/
  | vsbPresenceChange (present : Bool)
  /-- NVME_MI_REQUEST (R537): A management request arrives as NVMe-MI over MCTP on SMBus or PCIe VDM and is answered, including in TEST and RECOVERY. -/
  | nvmeMiRequest (req : List Byte)
  deriving DecidableEq, Repr

end Sys2Proof
end

