-- ==== Sys2Proof/Decode.lean ====
section
/-!
DEFINITION. The command that a word of the opcode table spells. spec/opcode_table.json gives no row of this block any
bits ("fields" is empty in every row), so no word spells a command.
-/

namespace Sys2Proof

/-- The rows of spec/opcode_table.json that give bits: number of bits, fixed value, command. There are none. -/
def rowsWithBits : List (Nat × Nat × Instr) := []

/-- The command a word spells by the table's bits: the row of that many bits whose value is the word. -/
def decodeTableWord (nbits w : Nat) : Option Instr :=
  match rowsWithBits.find? fun r => r.1 == nbits && r.2.1 == w with
  | some r => some r.2.2
  | none => none

end Sys2Proof
end

