-- ==== Sys2Proof/Machine/Events.lean ====
section
/-!
DEFINITION. The event codes of spec/20_scoresheet_and_faults.md (Table 20.1), spec/21_power_management.md (Table 21.9) and
spec/23_electrical_and_package.md (R644). Bits [15:8] are the block number, bits [7:0] the number in the block (R569).
-/

namespace Sys2Proof.Machine

/-- KING_SPLIT (class D). -/
def Ev.KING_SPLIT : Nat := 0x1
/-- KING_CHECKMATE (class M). -/
def Ev.KING_CHECKMATE : Nat := 0x2
/-- TEMPO_OVERRUN (class C). -/
def Ev.TEMPO_OVERRUN : Nat := 0x101
/-- TEMPO_ALIGN (class C). -/
def Ev.TEMPO_ALIGN : Nat := 0x102
/-- TEMPO_PERIOD (class C). -/
def Ev.TEMPO_PERIOD : Nat := 0x103
/-- TEMPO_LOCK (class N). -/
def Ev.TEMPO_LOCK : Nat := 0x104
/-- FAB_GRANT_HOLD (class C). -/
def Ev.FAB_GRANT_HOLD : Nat := 0x201
/-- FAB_CREDIT (class C). -/
def Ev.FAB_CREDIT : Nat := 0x202
/-- FAB_PAIRED (class C). -/
def Ev.FAB_PAIRED : Nat := 0x203
/-- FAB_XING (class C). -/
def Ev.FAB_XING : Nat := 0x204
/-- FAB_ECC_UE (class C). -/
def Ev.FAB_ECC_UE : Nat := 0x205
/-- FAB_ECC_CE (class N). -/
def Ev.FAB_ECC_CE : Nat := 0x206
/-- BUF_LEDGER (class C). -/
def Ev.BUF_LEDGER : Nat := 0x207
/-- FAB_FAIL (class D). -/
def Ev.FAB_FAIL : Nat := 0x208
/-- FAB_GUARD (class D). -/
def Ev.FAB_GUARD : Nat := 0x209
/-- PWR_TOKEN (class C). -/
def Ev.PWR_TOKEN : Nat := 0x301
/-- FLT_PAIRED (class C). -/
def Ev.FLT_PAIRED : Nat := 0x401
/-- FLT_CHK_FULL (class N). -/
def Ev.FLT_CHK_FULL : Nat := 0x402
/-- SCR_LEDGER_FAIL (class C). -/
def Ev.SCR_LEDGER_FAIL : Nat := 0x501
/-- SXC_LEDGER_FAIL (class D). -/
def Ev.SXC_LEDGER_FAIL : Nat := 0x601
/-- SXC_CHAIN_BREAK (class C). -/
def Ev.SXC_CHAIN_BREAK : Nat := 0x602
/-- SXC_CLAIM (class NP). -/
def Ev.SXC_CLAIM : Nat := 0x603
/-- SXC_CLAIM_IGN (class NP). -/
def Ev.SXC_CLAIM_IGN : Nat := 0x604
/-- SXC_SPT_LOST (class C). -/
def Ev.SXC_SPT_LOST : Nat := 0x605
/-- SXC_MOVE (class NP). -/
def Ev.SXC_MOVE : Nat := 0x606
/-- SXC_MOVE_FAIL (class NP). -/
def Ev.SXC_MOVE_FAIL : Nat := 0x607
/-- SXC_PAIRED (class C). -/
def Ev.SXC_PAIRED : Nat := 0x608
/-- OIM_INVALID (class C). -/
def Ev.OIM_INVALID : Nat := 0x701
/-- FWU_FALLBACK (class NP). -/
def Ev.FWU_FALLBACK : Nat := 0x801
/-- FWU_ACT_ABORT (class NP). -/
def Ev.FWU_ACT_ABORT : Nat := 0x802
/-- FWU_ACTIVATE (class NP). -/
def Ev.FWU_ACTIVATE : Nat := 0x803
/-- TQ_BAD of cluster `n` (Table 20.1; N). -/
def Ev.TQ_BAD (n : Nat) : Nat := 0x1001 + 0x100 * n
/-- ENG_FAULT of cluster `n` (Table 20.1; D). -/
def Ev.ENG_FAULT (n : Nat) : Nat := 0x1002 + 0x100 * n
/-- CIP_LANE (class C). -/
def Ev.CIP_LANE : Nat := 0x2001
/-- CIP_LEN (class N). -/
def Ev.CIP_LEN : Nat := 0x2002
/-- CIP_SEAL (class N). -/
def Ev.CIP_SEAL : Nat := 0x2003
/-- CIP_VAULT_FAIL (class N). -/
def Ev.CIP_VAULT_FAIL : Nat := 0x2004
/-- CIP_KPAIRED (class C). -/
def Ev.CIP_KPAIRED : Nat := 0x2005
/-- CIP_IMPORT (class N). -/
def Ev.CIP_IMPORT : Nat := 0x2006
/-- CIP_NO_LANE (class D). -/
def Ev.CIP_NO_LANE : Nat := 0x200F
/-- DIG_LANE (class C). -/
def Ev.DIG_LANE : Nat := 0x2101
/-- DIG_LEN (class N). -/
def Ev.DIG_LEN : Nat := 0x2102
/-- DIG_UNWRAP (class N). -/
def Ev.DIG_UNWRAP : Nat := 0x2103
/-- DIG_NO_LANE (class D). -/
def Ev.DIG_NO_LANE : Nat := 0x210F
/-- CMP_LANE (class C). -/
def Ev.CMP_LANE : Nat := 0x2201
/-- CMP_LEN (class N). -/
def Ev.CMP_LEN : Nat := 0x2202
/-- CMP_FORMAT (class N). -/
def Ev.CMP_FORMAT : Nat := 0x2203
/-- CMP_NO_LANE (class D). -/
def Ev.CMP_NO_LANE : Nat := 0x220F
/-- ERS_LANE (class C). -/
def Ev.ERS_LANE : Nat := 0x2301
/-- ERS_UNBALANCED (class N). -/
def Ev.ERS_UNBALANCED : Nat := 0x2302
/-- ERS_MEMBER_FAILED (class C). -/
def Ev.ERS_MEMBER_FAILED : Nat := 0x2303
/-- ERS_LOST (class C). -/
def Ev.ERS_LOST : Nat := 0x2304
/-- ERS_NARROW (class C). -/
def Ev.ERS_NARROW : Nat := 0x2305
/-- ERS_NO_LANE (class D). -/
def Ev.ERS_NO_LANE : Nat := 0x230F
/-- IDX_FPTAG (class N). -/
def Ev.IDX_FPTAG : Nat := 0x2401
/-- AUD_DOUBT (class N). -/
def Ev.AUD_DOUBT : Nat := 0x2402
/-- REF_LEDGER (class C). -/
def Ev.REF_LEDGER : Nat := 0x2403
/-- NVF_CTX_FETCH (class C). -/
def Ev.NVF_CTX_FETCH : Nat := 0x3001
/-- NVF_PAUSE_VIOL (class N). -/
def Ev.NVF_PAUSE_VIOL : Nat := 0x3002
/-- CMD_LEDGER (class C). -/
def Ev.CMD_LEDGER : Nat := 0x3003
/-- WR_MERGE_LOST (class N). -/
def Ev.WR_MERGE_LOST : Nat := 0x3010
/-- WR_FP_COLLIDE (class N). -/
def Ev.WR_FP_COLLIDE : Nat := 0x3011
/-- WR_ROW_BURN (class N). -/
def Ev.WR_ROW_BURN : Nat := 0x3012
/-- WR_STAGE_UE (class C). -/
def Ev.WR_STAGE_UE : Nat := 0x3013
/-- WR_ACCEL (class C). -/
def Ev.WR_ACCEL : Nat := 0x3014
/-- RD_DEAD_REF (class C). -/
def Ev.RD_DEAD_REF : Nat := 0x3020
/-- RD_RETRY (class N). -/
def Ev.RD_RETRY : Nat := 0x3021
/-- RD_RESTART (class C). -/
def Ev.RD_RESTART : Nat := 0x3022
/-- RD_REBUILD (class N). -/
def Ev.RD_REBUILD : Nat := 0x3023
/-- RD_LOST (class C). -/
def Ev.RD_LOST : Nat := 0x3024
/-- RD_DOMAIN (class C). -/
def Ev.RD_DOMAIN : Nat := 0x3025
/-- RD_REPAIR (class N). -/
def Ev.RD_REPAIR : Nat := 0x3026
/-- RD_ACCEL (class C). -/
def Ev.RD_ACCEL : Nat := 0x3027
/-- RD_BAD_LOC (class C). -/
def Ev.RD_BAD_LOC : Nat := 0x3028
/-- REP_TAG (class N). -/
def Ev.REP_TAG : Nat := 0x3030
/-- REP_FP (class C). -/
def Ev.REP_FP : Nat := 0x3031
/-- REP_RPO (class C). -/
def Ev.REP_RPO : Nat := 0x3032
/-- MDL_LEN (class N). -/
def Ev.MDL_LEN : Nat := 0x3401
/-- MDL_TIMEOUT (class N). -/
def Ev.MDL_TIMEOUT : Nat := 0x3402
/-- MDL_PAIRED (class C). -/
def Ev.MDL_PAIRED : Nat := 0x3403
/-- MDL_LINK_FAIL (class C). -/
def Ev.MDL_LINK_FAIL : Nat := 0x3404
/-- MDL_WIRING (class C). -/
def Ev.MDL_WIRING : Nat := 0x3405
/-- MDL_VERSION (class N). -/
def Ev.MDL_VERSION : Nat := 0x3406
/-- MDL_GEOMETRY (class N). -/
def Ev.MDL_GEOMETRY : Nat := 0x3407
/-- MDL_REMOVED (class N). -/
def Ev.MDL_REMOVED : Nat := 0x3408
/-- FT_MD_LOST (class D). -/
def Ev.FT_MD_LOST : Nat := 0x3420
/-- FT_MD_STALL (class N). -/
def Ev.FT_MD_STALL : Nat := 0x3421
/-- FT_NO_TABLE (class N). -/
def Ev.FT_NO_TABLE : Nat := 0x3422
/-- FT_WEAR (class N). -/
def Ev.FT_WEAR : Nat := 0x3423
/-- FT_ERASE_GATE (class C). -/
def Ev.FT_ERASE_GATE : Nat := 0x3424
/-- FT_RETIRE (class N). -/
def Ev.FT_RETIRE : Nat := 0x3425
/-- FT_MEMBER_WEAR (class C). -/
def Ev.FT_MEMBER_WEAR : Nat := 0x3426
/-- FT_SCRUB_PARITY (class C). -/
def Ev.FT_SCRUB_PARITY : Nat := 0x3427
/-- TT_OVERRUN (class C). -/
def Ev.TT_OVERRUN : Nat := 0x3430
/-- TT_COPY (class N). -/
def Ev.TT_COPY : Nat := 0x3431
/-- TT_LOST (class D). -/
def Ev.TT_LOST : Nat := 0x3432
/-- CDT_LEN (class N). -/
def Ev.CDT_LEN : Nat := 0x3601
/-- CDT_PEER_NEW (class N). -/
def Ev.CDT_PEER_NEW : Nat := 0x3602
/-- CDT_PEER_LOST (class N). -/
def Ev.CDT_PEER_LOST : Nat := 0x3603
/-- CDT_DEV_CLASH (class C). -/
def Ev.CDT_DEV_CLASH : Nat := 0x3604
/-- CDT_LEDGER (class C). -/
def Ev.CDT_LEDGER : Nat := 0x3605
/-- DDR_CE (class N). -/
def Ev.DDR_CE : Nat := 0x3801
/-- DDR_UE (class C). -/
def Ev.DDR_UE : Nat := 0x3802
/-- CAS_PEER_LOST (class NP). -/
def Ev.CAS_PEER_LOST : Nat := 0x3C01
/-- PAIR_DIGEST (class C). -/
def Ev.PAIR_DIGEST : Nat := 0x3C02
/-- PAIR_WRONG (class D). -/
def Ev.PAIR_WRONG : Nat := 0x3C03
/-- CAS_LOST_RACE (class D). -/
def Ev.CAS_LOST_RACE : Nat := 0x3C04
/-- CAS_NO_MAJORITY (class C). -/
def Ev.CAS_NO_MAJORITY : Nat := 0x3C05
/-- CAS_CASTLED (class NP). -/
def Ev.CAS_CASTLED : Nat := 0x3C06
/-- CAS_PAIR_NO (class C). -/
def Ev.CAS_PAIR_NO : Nat := 0x3C07
/-- FENCE_PAIRED (class C). -/
def Ev.FENCE_PAIRED : Nat := 0x3C08
/-- PWR_PAIRED (class C). -/
def Ev.PWR_PAIRED : Nat := 0x302
/-- PWR_REFUSED (class N). -/
def Ev.PWR_REFUSED : Nat := 0x303
/-- PWR_THERM_WARN (class N). -/
def Ev.PWR_THERM_WARN : Nat := 0x304
/-- PWR_THROTTLE (class N). -/
def Ev.PWR_THROTTLE : Nat := 0x305
/-- PWR_OVERTEMP (class M). -/
def Ev.PWR_OVERTEMP : Nat := 0x306
/-- PWR_FAIL (class NP). -/
def Ev.PWR_FAIL : Nat := 0x307
/-- PWR_ENV_HELD (class N). -/
def Ev.PWR_ENV_HELD : Nat := 0x308
/-- DDR_TRAIN (class D). -/
def Ev.DDR_TRAIN : Nat := 0x3803

/-- The codes marked NP: Notices kept in the persistent ledger (R587). -/
def npCodes : List Nat := [Ev.SXC_CLAIM, Ev.SXC_CLAIM_IGN, Ev.SXC_MOVE, Ev.SXC_MOVE_FAIL, Ev.FWU_FALLBACK, Ev.FWU_ACT_ABORT, Ev.FWU_ACTIVATE, Ev.CAS_PEER_LOST, Ev.CAS_CASTLED, Ev.PWR_FAIL]

end Sys2Proof.Machine
end

