-- ==== Sys2Proof/Config.lean ====
section
/-!
DEFINITION. The free values of the model: constants with no body, so that nothing in Lean can evaluate them and a
statement holds for every value of them. Each stands for a value the spec leaves open, or for the result of a
published algorithm the spec names without restating (spec/00_scope.md, "Tables, procedures and examples").
-/

namespace Sys2Proof.Config

/-- A fresh open word: the `n`-th free value the device produces. -/
opaque freeWord : Nat → Word

/-- A fresh open number of any size: the `n`-th free choice the device makes. -/
opaque freeNat : Nat → Nat

/-- A fresh string of `len` open bytes (random numbers, nonces, salts). -/
opaque freeBytes : Nat → Nat → Bytes

/-- The initial chaining value of a digest (FIPS 180-4, FIPS 202): 1 SHA-256, 2 SHA-384, 3 SHA-512, 4 SHA3-256. -/
opaque digestInit : Nat → Bytes
/-- The chaining value after whole blocks: function, chaining value, blocks. -/
opaque digestAbsorb : Nat → Bytes → Bytes → Bytes
/-- The digest: function, chaining value, message length in bytes, the partial block. -/
opaque digestFinish : Nat → Bytes → Nat → Bytes → Bytes
/-- One AES block (FIPS 197): encrypt, key, 16 bytes. -/
opaque aesBlock : Bool → Bytes → Bytes → Bytes
/-- The key derivation of SP 800-108 that the SXC uses: key, label and context, output bytes. -/
opaque kdf : Bytes → Bytes → Nat → Bytes
/-- ECDSA P-384 verification (FIPS 186-5): public key, message digest, signature. -/
opaque ecdsaVerify : Bytes → Bytes → Bytes → Bool
/-- ECDSA P-384 signing: private key, message digest, nonce number. -/
opaque ecdsaSign : Bytes → Bytes → Nat → Bytes
/-- ECDH P-384 shared secret: own key, other's public key. -/
opaque ecdh : Bytes → Bytes → Bytes
/-- The public key of a P-384 key. -/
opaque ecPublic : Bytes → Bytes

/-- Zstandard (RFC 8878): the blocks of a single-segment frame: effort, input. -/
opaque zstdBlocks : Nat → Bytes → Bytes
/-- Input bytes a compressor has consumed when its output reaches a limit: effort, input, limit. -/
opaque zstdStop : Nat → Bytes → Nat → Nat
/-- A stream's context after START: effort, checksum. -/
opaque zstdOpen : Nat → Bool → Bytes
/-- A stream's output for more input (context, flags FLUSH and END, input) and its context afterwards. -/
opaque zstdStream : Bytes → Nat → Bytes → Bytes
opaque zstdNext : Bytes → Nat → Bytes → Bytes
/-- The context that holds back the rest of an output at its limit, and that rest. -/
opaque zstdHold : Bytes → Bytes → Bytes
opaque zstdHeld : Bytes → Bytes
/-- The content that the blocks behind a frame header hold, and the bytes the blocks take: window size, input. Nothing when a
block or an entropy description is not valid. When the input ends early the length exceeds the input's. -/
opaque zstdContent : Nat → Bytes → Option (Bytes × Nat)
/-- Where the interleave places an address of DRAM: the channel modulo the channels, eight times the sub-channel above it. -/
opaque dramChannel : Nat → Nat
/-- Head A's serial number as head B knows it before it has heard a beacon of A's (R143). -/
opaque headASerial : Nat
/-- The address of a host port: head × 32 + port (R179). -/
opaque portAddress : Nat → Nat
/-- XXH64 over bytes. -/
opaque xxh64 : Bytes → Nat

/-- What an implementation of the RISC-V privileged architecture fixes: the identity registers (misa, mvendorid, marchid,
mimpid, mhartid, mconfigptr) of a core. -/
opaque csrId : Nat → Nat → Word
/-- Whether mtval holds the encoding after an illegal instruction, and the address after a breakpoint; otherwise 0. -/
opaque mtvalHoldsInsn : Bool
opaque mtvalHoldsBreak : Bool

/-- The bytes of the recovery loader in SXC ROM (Table 18.2). -/
opaque romLoader : Bytes

end Sys2Proof.Config
end

