-- ==== Sys2Proof/Machine/State.lean ====
section
/-!
DEFINITION. The state of the QN8960 head controller as plain data, the reasons it stops, and its state after reset.
Each field's docstring names the rule of spec/ that gives it.
-/

namespace Sys2Proof.Machine

/-! ### Registers -/

/-- A field of a BAR0 register: the register's BAR0 offset, its most and its least significant bit (R7). -/
structure Field where
  off : Nat
  msb : Nat
  lsb : Nat
  deriving DecidableEq, Repr

/-- The access codes of Table 0.4 (R8). -/
inductive Access | ro | rw | wo | w1c | w1s | rc
  deriving DecidableEq, Repr

/-- One row of a register table: offset, two repetitions (stride and count), bits, access code, and the ranges of values
the field may take (empty: all; R10). -/
structure FieldSpec where
  base : Nat
  stride : Nat
  count : Nat
  stride2 : Nat
  count2 : Nat
  msb : Nat
  lsb : Nat
  acc : Access
  legal : List (Nat × Nat)
  deriving DecidableEq, Repr

/-- Who accesses a register: the management endpoint or the fabric (R620, R648). -/
inductive Accessor | management | fabric
  deriving DecidableEq, Repr

/-- A value held with its bitwise complement (R79, R606, R393, R554). -/
structure Paired where
  val : Nat := 0
  comp : Nat := 0
  deriving DecidableEq, Repr

/-! ### Faults and the Scoresheet (chapter 20) -/

/-- The four classes of event, in rising order (Table 20.5). -/
inductive EvClass | notice | check | dcheck | checkmate
  deriving DecidableEq, Repr

/-- A Scoresheet record (Table 20.5). -/
structure ScoreRecord where
  seq : Nat := 0
  tempo : Nat := 0
  sec : Nat := 0
  ns : Nat := 0
  code : Nat := 0
  cls : EvClass := .notice
  escalated : Bool := false
  persist : Bool := false
  held : Bool := false
  unit : Nat := 0
  suppressed : Nat := 0
  lost : Nat := 0
  state : Nat := 0
  data0 : Nat := 0
  data1 : Nat := 0
  boot : Nat := 0
  valid : Bool := false
  deriving DecidableEq, Repr

/-- The recorder's working state beside its registers (R585–R590). -/
structure Scr where
  /-- the volatile ring of 16,384 records (R587). -/
  ring : Tab ScoreRecord := []
  /-- records waiting for the persistent ledger, at most 1,024 (R587). -/
  pqueue : List ScoreRecord := []
  /-- the holding queue of a freeze, at most 256 (R589). -/
  holdq : List ScoreRecord := []
  /-- by code: window number and records written in it (R588). -/
  windows : Tab (Nat × Nat) := []
  /-- by code: events suppressed since the last record of the code (R588). -/
  suppressed : Tab Nat := []
  /-- events lost since the last record written (R589). -/
  lost : Nat := 0
  /-- tempo number at which the freeze in force began (R589). -/
  frozeAt : Nat := 0
  deriving DecidableEq, Repr

/-- An injection armed by FLT_INJ that waits for its target's next write or transfer (R591): target code, index, mask. -/
structure FltInj where
  target : Nat
  index : Nat
  mask : Nat
  deriving DecidableEq, Repr

/-- The fault collector beside its registers. -/
structure Flt where
  /-- the GLB_STATE in which a Checkmate in force was raised (R582). -/
  checkmateIn : Option Nat := none
  /-- the armed FLT_INJ (R591). -/
  inj : Option FltInj := none
  /-- pairs of the escalation limit (R554): value with complement. -/
  escalate : Paired := ⟨2000, 65535 - 2000⟩
  /-- tempi for which the escalation of an open Check entry was held by activations' pauses (R566). -/
  escHold : Tab Nat := []
  deriving DecidableEq, Repr

/-! ### Power (chapter 21) -/

/-- Who asked for power tokens (Table 21.7). -/
inductive TokWho
  | engine (n : Nat)
  | compLane (n : Nat)
  | hostPort (n : Nat)
  | cercoPort (n : Nat)
  | mediaLane (n : Nat)
  | ddr (c : Nat)
  | region (r : Nat)
  deriving DecidableEq, Repr

/-- A token request waiting for a grant round, or a grant held (R604, R605). -/
structure TokReq where
  who : TokWho
  cls : Nat
  cost : Nat
  /-- edges waited so far (R605). -/
  age : Nat := 0
  /-- tempi the hold still runs (R604); 0 for a request that waits. -/
  left : Nat := 0
  /-- its operation is done: the grant is spent. -/
  used : Bool := false
  deriving DecidableEq, Repr

/-- A power region beside its registers (R594–R602). -/
structure Region where
  /-- the level request staged (R650). -/
  reqLvl : Option Nat := none
  /-- the Adjourned-state request staged: 0 wake, 1 ADJ1, 2 ADJ2 (R650). -/
  reqAdj : Option Nat := none
  /-- a raise or a wake that has passed its test and waits for its grant (R595, R599): the level sought. -/
  waiting : Option Nat := none
  /-- what waits is a wake from ADJ2 and no raise (R599). -/
  waitWake : Bool := false
  /-- edges waited for that grant (Table 21.4, ENVELOPE). -/
  waitEdges : Nat := 0
  /-- the ramp under way: the level moved to (R595). -/
  ramp : Option Nat := none
  /-- the level charged during a ramp, the higher of the two (R595). -/
  rampCharge : Nat := 0
  /-- the Adjourned state being entered, 1 or 2 (R598). -/
  entering : Nat := 0
  /-- a wake asked for while an entry is completing (R599). -/
  wakeAfter : Bool := false
  /-- the wake under way ends ADJ2 (R600). -/
  wakingFrom : Nat := 0
  /-- the level in force at entry (R599). -/
  lvlAtEntry : Nat := 2
  /-- the clamps of R602 are engaged. -/
  clamped : Bool := false
  /-- a forced raise of R89 is due at the next edge (R596). -/
  forced : Bool := false
  /-- the forced raise has been made and its crossing has not measured within limits since (R596). -/
  forcedDone : Bool := false
  /-- quarantined (R90). -/
  quar : Bool := false
  deriving DecidableEq, Repr

/-- The power manager and its arbiter beside their registers. -/
structure Pwr where
  /-- VIN present and every rail in regulation (R633). -/
  good : Bool := true
  /-- VIN present. -/
  vin : Bool := true
  /-- VSB present (R633). -/
  vsb : Bool := false
  /-- by region code (Table 21.1). -/
  regions : Tab Region := []
  /-- requests waiting for a grant (R605). -/
  waiting : List TokReq := []
  /-- grants held from earlier edges (R604). -/
  holds : List TokReq := []
  /-- new grants of this tempo (R605). -/
  granted : List TokReq := []
  /-- the totals, with their complements (R606). -/
  totGranted : Paired := ⟨0, 65535⟩
  totBase : Paired := ⟨0, 65535⟩
  totHolds : Paired := ⟨0, 65535⟩
  /-- the envelope in force, in tokens (R46, R607). -/
  envelope : Nat := 4600
  /-- the effective envelope as fixed at the last edge for its tempo, in tokens (R46). -/
  envTempo : Nat := 4600
  /-- a written envelope that has not taken effect, in tokens (R607). -/
  envStaged : Option Nat := none
  /-- edges since time trouble was detected: 0 not in time trouble (R613). -/
  ttEdges : Nat := 0
  /-- the power-fail watch is on, from the first host write of a boot (R636). -/
  pfWatch : Bool := false
  /-- a sensor has exceeded WARN and the Notice of R609 is logged. -/
  warned : Bool := false
  /-- ADJ3 request staged (R598), and ADJ3 in force with its entry time (R597). -/
  adj3Req : Bool := false
  adj3Entering : Bool := false
  adj3 : Bool := false
  adj3Sec : Nat := 0
  adj3WakeS : Nat := 0
  /-- a reset, or TEST, asked for through GLB_CMD waits for the next edge (R623, R624). -/
  resetStaged : Bool := false
  testStaged : Bool := false
  /-- channels that refresh at twice the rate (R643). -/
  ddrHot : List Nat := []
  deriving DecidableEq, Repr

/-! ### The tempo unit (chapter 2) -/

/-- What the last beacon of a device showed (R63, R496). -/
structure BeaconInfo where
  heard : Bool := false
  service : Bool := false
  healthy : Bool := false
  lock : Bool := false
  period : Nat := 0
  boot : Nat := 0
  serial : Nat := 0
  master : Nat := 0
  isMaster : Bool := false
  /-- the FIU owner-table version (Table 15.8). -/
  ownVer : Nat := 0
  lastTempo : Nat := 0
  deriving DecidableEq, Repr

/-- The tempo unit beside its registers (R35–R68). -/
structure Tmp where
  /-- tempo time at the most recent edge, or as a step has set it since (R42, R55). -/
  sec : Nat := 0
  ns : Nat := 0
  /-- the fabric cycle of this tempo up to which time has been counted, and the femtoseconds counted (R55, R59). -/
  atCyc : Nat := 0
  atFs : Int := 0
  /-- the slew still to apply from that cycle on, in femtoseconds (R59). -/
  padjFs : Int := 0
  /-- consecutive offset samples within and outside the threshold (R60, R61). -/
  inRun : Nat := 0
  outRun : Nat := 0
  /-- tempo time in ns of the last offset sample (R61). -/
  lastSample : Nat := 0
  /-- consecutive alignment exchanges within and outside 5 ns (R67). -/
  alIn : Nat := 0
  alOut : Nat := 0
  /-- alignment exchanges missed in a row (R64). -/
  alMissed : Nat := 0
  /-- an ALIGN_REQ awaits its answer: the tempo number it was sent at (R499). -/
  alReq : Option Nat := none
  /-- the master whose period differs, once its Check has been raised (R68). -/
  periodBad : Option Nat := none
  /-- the device follows a tempo master (R649). -/
  following : Bool := false
  /-- a master has been chosen in this boot (R63). -/
  chosen : Bool := false
  /-- the power-up source still stands in TIME_SRC (R649). -/
  powerUpSrc : Bool := true
  /-- the level of PPS_OUT, and the millisecond count at which it falls (R62). -/
  ppsOut : Bool := false
  /-- the latest beacon of each DEV (R63). -/
  beacons : Tab BeaconInfo := []
  deriving DecidableEq, Repr

/-! ### The Board fabric (chapter 3) -/

/-- A request pending at an arbiter, or a grant open there (R71–R75). -/
structure Xfer where
  port : Nat
  write : Bool
  qos : Nat
  addr : Nat
  /-- arrival order at the arbiter (R72). -/
  order : Nat
  /-- raised to QOS level 3 by age (R72). -/
  aged : Bool := false
  /-- the write of a dirty line by a cluster L2 (R116). -/
  line : Bool := false
  /-- write data in the King comparator's buffer (R121); of a performed read, its data, and whether they carry a poison mark (R74, R92). -/
  data : Bytes := []
  bad : Bool := false
  deriving DecidableEq, Repr

/-- One arbiter of a shared target (R71–R77). -/
structure Arb where
  pending : List Xfer := []
  grants : List Xfer := []
  /-- next arrival number. -/
  next : Nat := 0
  /-- ports whose cut transfer's DAT has not arrived (R76). -/
  cut : List Nat := []
  deriving DecidableEq, Repr

/-- A credit ledger's two ends (R78–R82). -/
structure Ledger where
  credits : Paired
  s : Nat
  cr : Nat
  occ : Paired
  rx : Nat
  ct : Nat
  /-- a resynchronisation is under way (R81). -/
  resync : Bool := false
  /-- audits failed in a row (R82). -/
  fails : Nat := 0
  deriving DecidableEq, Repr

/-- The fabric beside its registers. -/
structure Fab where
  arbs : Tab Arb := []
  /-- by unit code × 4 + class; an unlisted ledger is fresh (full credits, counters 0). -/
  ledgers : Tab Ledger := []
  /-- the pool allocator (R86): by partition (Table 1.4, 0–6) the 4 KiB units off the free list. -/
  poolOut : Tab Nat := []
  /-- by unit of the pool its holder plus 1 (R86). -/
  poolHolder : Tab Nat := []
  /-- by bank: lines scrubbed since reset (R93). -/
  scrub : Tab Nat := []
  /-- words whose stored check bits are wrong: the error mask over the 76-bit codeword, by address / 8 (R91, R94). -/
  flips : Tab Nat := []
  /-- banks of each pool partition (Table 1.4, R22). -/
  banks : List Nat := [1, 4, 16, 12, 8, 4, 3]
  /-- 8-byte words of the pool and DRAM marked poisoned (R92), by address / 8. -/
  poison : Tab Bool := []
  deriving DecidableEq, Repr

/-! ### Engines, the King pair and the cluster L2 (chapter 4) -/

/-- A slice (R48–R52, R117). -/
structure Slice where
  id : Nat := 0
  ovr : Nat := 0
  /-- the TEMPO_OVERRUN Check of this slice has been raised (R51). -/
  raised : Bool := false
  /-- tempo number at which it started (Table 20.6). -/
  start : Nat := 0
  deriving DecidableEq, Repr

/-- A core's architectural state (R96, R97, R102, R110). -/
structure Core where
  x : Tab Word := []
  pc : Nat := 0
  csrs : Tab Word := []
  user : Bool := false
  /-- the load-reserved address (RV64A). -/
  resv : Option Nat := none
  /-- the QTEMPO snapshot (R110). -/
  snapNum : Nat := 0
  snapSec : Nat := 0
  snapNs : Nat := 0
  deriving DecidableEq, Repr

/-- A data engine (R117–R120). -/
structure Engine where
  core : Core := {}
  /-- the slice running. -/
  slice : Option Slice := none
  /-- the resume slot: a suspended or deferred slice with its architectural state (R118). -/
  resume : Option (Slice × Core) := none
  /-- the resume slot's slice was deferred in this tempo and waits for the next edge (R113). -/
  deferred : Bool := false
  quar : Bool := false
  /-- tokens granted for this tempo (R112). -/
  tokens : Nat := 0
  /-- a CUT notice for a store, taken at the next instruction boundary (R115): its address. -/
  cutAddr : Option Nat := none
  /-- the instruction L1: lines fetched since the last FENCE.I, by line address (R97). -/
  l1i : Tab Bytes := []
  deriving DecidableEq, Repr

/-- An output of the King pair that writes: its address, its size and its data (R121). -/
structure KingOut where
  addr : Nat
  size : Nat
  data : Nat
  deriving DecidableEq, Repr

/-- A unit of the King pair (R121–R124). -/
structure KingUnit where
  core : Core := {}
  saved : Option Core := none
  flagged : Bool := false
  quar : Bool := false
  l1i : Tab Bytes := []
  /-- the unit's copy of the output that waits at the comparator (R121, R122). -/
  output : Option KingOut := none
  deriving DecidableEq, Repr

/-- The King pair beside GLB_KING. -/
structure King where
  units : Tab KingUnit := []
  /-- outputs are held since this cycle count (R122). -/
  held : Bool := false
  halted : Bool := false
  /-- the comparator holds an output whose two copies disagree (R121). -/
  waits : Bool := false
  /-- read responses that landed in the pair's landing slots while its outputs were held (R122). -/
  landed : List (Bytes × Bool) := []
  /-- the level of PPS_OUT when the hold began (R125). -/
  ppsOut : Bool := false
  /-- parity of the unit's next register write is inverted (R591). -/
  injUnit : Option Nat := none
  deriving DecidableEq, Repr

/-- One line of a cluster L2 (R126). -/
structure L2Line where
  valid : Bool := false
  tag : Nat := 0
  dirty : Bool := false
  /-- the words of the line that carry a poison mark, one bit each (R92). -/
  poison : Nat := 0
  lru : Nat := 0
  data : Bytes := []
  deriving DecidableEq, Repr

/-- A cluster L2 beside its registers. -/
structure L2 where
  /-- by set × 16 + way. -/
  lines : Tab L2Line := []
  /-- the use clock of the least-recently-used order. -/
  clock : Nat := 0
  /-- a drain waits for the running range operation (R136). -/
  drainWaits : Bool := false
  /-- L2_EN was written to 1 during DRAINING (R138). -/
  reenable : Bool := false
  deriving DecidableEq, Repr

/-- Producer and consumer indices of an engine task ring (R628). -/
structure TaskRing where
  prod : Nat := 0
  cons : Nat := 0
  deriving DecidableEq, Repr

/-! ### Pair and castling (chapter 16) -/

/-- How the claim of one member stands (R513). -/
inductive ClaimSt | none | pending | won | lost | unreached
  deriving DecidableEq, Repr

/-- The claim of one member: its state, whether its one retry or re-read is used. -/
structure Claim where
  st : ClaimSt := .none
  retried : Bool := false
  reread : Bool := false
  deriving DecidableEq, Repr

/-- A recheck in progress (R509): each head's result, when known. -/
structure Recheck where
  group : Nat
  window : Nat
  /-- this head owns the group. -/
  own : Bool
  mine : Option Bool := none
  peers : Option Bool := none
  deriving DecidableEq, Repr

/-- The pair logic beside the CAS registers. -/
structure Cas where
  /-- this head has a peer at all (R34). -/
  hasPeer : Bool := true
  /-- heartbeats sent in this boot (Table 16.2). -/
  hbSeq : Nat := 0
  /-- tempo numbers of the heartbeats received that are not yet judged (R504). -/
  hbSeen : List Nat := []
  /-- the last tempo number whose heartbeat has been judged (R504). -/
  hbJudged : Nat := 0
  /-- a heartbeat of the peer has been heard in this boot. -/
  hbHeard : Bool := false
  /-- what the last heartbeat showed (Table 16.2). -/
  peerService : Bool := false
  peerLost : Bool := false
  peerClaiming : Bool := false
  peerCastled : Bool := false
  /-- highest TSNs the peer reported (Table 16.2). -/
  peerCommit : Nat := 0
  peerApplied : Nat := 0
  /-- the last tempo number at which some port had a path to the peer (R505). -/
  pathSeen : Nat := 0
  /-- a RESIGN has arrived from the peer (R505). -/
  resignRx : Bool := false
  /-- PEER_FATAL_N has been low for 1 µs (R505). -/
  fatalRx : Bool := false
  /-- the declaration: tempo number and cause (R505). -/
  declared : Option (Nat × Nat) := none
  /-- head B's claim delay ends at this tempo number (R512). -/
  claimDue : Option Nat := none
  /-- the claim of each member slot (R513). -/
  claims : Tab Claim := []
  claiming : Bool := false
  /-- the claim has been decided: won (R514). -/
  won : Bool := false
  noMajority : Bool := false
  /-- this head has castled: it owns every group (R516). -/
  castled : Bool := false
  /-- the owner table that castling staged applies at its edge (R515). -/
  switchPending : Bool := false
  /-- tempo number of this head's resignation, its cause (R510). -/
  resigned : Option (Nat × Nat) := none
  /-- outputs are held (R511). -/
  outputsHeld : Bool := false
  /-- planned castling: request staged; the edge at which the Change state began; the groups moving (R518). -/
  plannedReq : Bool := false
  plannedAt : Option Nat := none
  /-- the peer announced a planned move to this head (R518). -/
  plannedRx : Bool := false
  /-- groups in the Change state, bit g - 1 (R518). -/
  changing : Nat := 0
  /-- the last DIGEST's TSN_HI (R507). -/
  digestHi : Nat := 0
  /-- DIGEST messages waiting for the peer's records to be applied (R508). -/
  digests : List DigestMsg := []
  /-- the last four windows sent and the last four received: own or not, window, TSN_LO, TSN_HI (R509). -/
  wins : List (Bool × Nat × Nat × Nat) := []
  /-- the SQUARES records applied, of both heads, that a window or a recheck may still name (R507–R509). -/
  hist : List JRecord := []
  rechecks : List Recheck := []
  /-- groups that report Persistent Loss after a double wrong (Table 16.3), bit g - 1. -/
  persistentLoss : Nat := 0
  /-- groups found wrong on both heads whose Persistent Loss takes effect at the next edge (R177). -/
  lossNext : Nat := 0
  /-- this head's command table and the peer's mirrored one (R501). -/
  cmds : Tab CmdRecord := []
  mirrorCmds : Tab CmdRecord := []
  /-- the rejoin of this head waits for REJOIN_GRANT (R519). -/
  rejoining : Bool := false
  /-- a survivor's steps for its returning peer (R519): 0 none, 1 the checkpoint runs, 2 the fence words are written. -/
  rejoinStep : Nat := 0
  /-- roots as they stood when the rejoin checkpoint was asked for: it is done when a later one has been written. -/
  rejoinRoot : Nat := 0
  deriving DecidableEq, Repr


/-! ### What outlives power: fuses, flashes, the SXC's VSB domain (chapters 17–19) -/

/-- A key domain of the Security Policy Table (Table 18.8). -/
structure SptDomain where
  valid : Bool := false
  enc : Bool := false
  opn : Bool := false
  compare : Bool := false
  holders : Nat := 0
  deriving DecidableEq, Repr

/-- A replication peer of the Security Policy Table (Table 18.8, Table 18.10). -/
structure SptPeer where
  valid : Bool := false
  localDomain : Nat := 0
  keyIndex : Nat := 0
  addrs : Bytes := []
  key : Bytes := []
  deriving DecidableEq, Repr

/-- An image key: KEY_ID and public key (Table 18.8). -/
structure ImageKey where
  keyId : Nat
  pub : Bytes
  deriving DecidableEq, Repr

/-- The entries of the Security Policy Table that are stored with their complements (Table 18.13). -/
inductive SptEntry
  | officers | imageKeys | floors | importKek | policy | debug
  | domain (n : Nat) | binding (n : Nat) | peer (n : Nat)
  deriving DecidableEq, Repr

/-- The Security Policy Table (Table 18.8). -/
structure Spt where
  version : Nat := 0
  white : Bytes := []
  black : Bytes := []
  fwKeys : List ImageKey := []
  oimKeys : List ImageKey := []
  oimFloor : Nat := 0
  fwFloor : Nat := 0
  domains : Tab SptDomain := []
  /-- by NSID: the domain plus 1; 0 when none. -/
  bindings : Tab Nat := []
  /-- by NSID: a pending authorisation, the domain plus 1. -/
  pendingBinds : Tab Nat := []
  peers : Tab SptPeer := []
  importKek : Option Bytes := none
  sampling : Nat := 3
  allowFwdl : Bool := false
  debugScope : Nat := 0
  decommissioned : Bool := false
  /-- entries whose two halves disagree (R554). -/
  bad : List SptEntry := []
  deriving DecidableEq, Repr

/-- One stored copy of the table: whether it authenticates. -/
structure SptCopy where
  valid : Bool := false
  table : Spt := {}
  deriving DecidableEq, Repr

/-- A firmware slot's content as programmed (chapter 19). -/
structure FwSlot where
  present : Bool := false
  image : Bytes := []
  /-- a component digest did not match at a boot (R558). -/
  failed : Bool := false
  deriving DecidableEq, Repr

/-- What the SXC keeps in RAM on VSB (R57, R547, R581). -/
structure VsbRam where
  held : Bool := false
  sptVersion : Nat := 0
  sec : Nat := 0
  ns : Nat := 0
  checkmate : Bool := false
  deriving DecidableEq, Repr

/-- What outlives a reset and a power cycle: fuses, the two flashes. -/
structure Nv where
  serial : Nat := 0
  /-- the Device Root Key fuses. -/
  drk : Bytes := []
  /-- the fused Roslen image keys: Opening Image and firmware. -/
  oimKey : ImageKey := ⟨0, []⟩
  fwKey : ImageKey := ⟨0, []⟩
  claimFuses : Nat := 0
  epochFuses : Nat := 0
  /-- Boot Record slots, 1,024 bytes each; an unlisted slot is erased (Table 18.5). -/
  bootSlots : Tab Bytes := []
  /-- slots whose record passes its signature (R541). -/
  bootSigned : Tab Bool := []
  /-- the persistent Scoresheet ledger; an unlisted slot is erased. -/
  scrLedger : Tab ScoreRecord := []
  /-- the two copies of the Security Policy Table. -/
  spt : Tab SptCopy := []
  /-- the two Opening Image regions (R523). -/
  oim : Tab Bytes := []
  /-- firmware slots 1–3 and the directory (chapter 19). -/
  fw : Tab FwSlot := []
  fwActive : Nat := 0
  fwNext : Nat := 0
  /-- the slot ACTIVE before the last change (R559). -/
  fwPrev : Nat := 0
  /-- the strap balls HEAD_SEL and CLAIM_N as the board ties them (R634). -/
  headSel : Bool := false
  claimN : Bool := true
  deriving DecidableEq, Repr

/-- One operation of a move (Table 18.10). -/
structure MoveOp where
  opcode : Nat
  payload : Bytes
  deriving DecidableEq, Repr

/-- A move (Table 18.9). -/
structure Move where
  serial : Nat
  expectVer : Nat
  applyAt : Nat
  targets : Nat
  ops : List MoveOp
  body : Bytes
  deriving DecidableEq, Repr

/-- The security complex beside its registers (chapter 18). -/
structure Sxc where
  ram : VsbRam := {}
  /-- the table in force; none when no copy was accepted (R547). -/
  spt : Option Spt := none
  /-- the challenge held and the tempo-time second it was drawn (R550). -/
  challenge : Option (Bytes × Nat) := none
  /-- the staged move and its edge (R552). -/
  staged : Option (Move × Nat) := none
  /-- debug scope unlocked for this boot (R556). -/
  debugScope : Nat := 0
  /-- the boot cause of this boot (Table 18.7). -/
  cause : Nat := 1
  /-- the previous boot unlocked debug (Table 18.6). -/
  prevDebug : Bool := false
  /-- START-UP has restored a flush image (Table 18.6). -/
  ttRestored : Bool := false
  /-- what ends START-UP in RECOVERY (Table 18.2); 0 none. -/
  recovery : Nat := 0
  /-- START-UP has run to its last step and waits for the Boot Record. -/
  startedUp : Bool := false
  /-- PREV of this boot's record (R543). -/
  prev : Bytes := []
  deriving DecidableEq, Repr

/-- A Firmware Commit in progress or an activation queued (R565–R568). -/
structure Activation where
  slot : Nat
  /-- edge P. -/
  edge : Nat
  /-- 0 queued, 1 paused, 2 switched. -/
  phase : Nat
  /-- the command record to complete. -/
  cmdRec : Nat
  deriving DecidableEq, Repr

/-- The firmware update unit beside its registers (chapter 19). -/
structure Fwu where
  /-- the download buffer: owner, bytes received by dword offset. -/
  owner : Option Nat := none
  buf : Tab Byte := []
  /-- the ranges received: byte offset, length. -/
  ranges : List (Nat × Nat) := []
  act : Option Activation := none
  deriving DecidableEq, Repr

/-! ### Seals of the cipher engine (chapter 9) -/

/-- A sealed range: bytes that only the cipher lanes may reach (R297, R298). -/
structure Seal where
  used : Bool := false
  base : Nat := 0
  len : Nat := 0
  lane : Nat := 0
  deriving DecidableEq, Repr

/-! ### Accelerators (chapters 8, 9 and 13) -/

/-- A lane or pipeline of an accelerator (R257, R258, R287). -/
structure Lane where
  /-- the job it holds: ring and index, running or split. -/
  job : Option (Nat × Nat) := none
  /-- a slice of this tempo runs. -/
  running : Bool := false
  slice : Slice := {}
  /-- the seal its job holds (R297). -/
  sealNo : Option Nat := none
  /-- its job is a preempted one taken up again, whose context is restored first (R303). -/
  restored : Bool := false
  /-- tempo number of its last raise of the lane code (R261). -/
  lastChk : Option Nat := none
  quar : Bool := false
  deriving DecidableEq, Repr

/-- A job in PREEMPTED (R301–R303): its descriptor, its seal, when it started, the LOADSEQ and boot number saved. -/
structure Preempted where
  /-- the lane that ran it last (Table 20.3). -/
  lane : Nat
  ring : Nat
  idx : Nat
  sealNo : Option Nat
  since : Nat
  loadseq : Nat
  boot : Nat
  wrapped : Bool
  deriving DecidableEq, Repr

/-- What a pipeline gives an accelerator a job for: a staged square, the parity of a row, a frame that is read, a granule that a
rotation re-encrypts. -/
inductive PipeFor
  | slot (n : Nat)
  | row (n : Nat)
  | read (j : Nat)
  | rekey (gid : Nat)
  /-- rows of a segment that are copied, scrubbed, rebuilt. -/
  | copy (seg : Nat)
  | scrub (seg : Nat)
  | rebuild (seg : Nat)
  deriving DecidableEq, Repr

/-- A job of a pipeline: the lane that has it, and the lane on which it failed once (R15, R651). -/
structure PipeJob where
  who : PipeFor
  lane : Option Nat := none
  failed : Option Nat := none
  deriving DecidableEq, Repr

/-- An accelerator with rings and lanes: cipher, compression, erasure, digest. -/
structure Accel where
  lanes : Tab Lane := []
  /-- by ring: the index of its oldest unstarted descriptor. -/
  next : Tab Nat := []
  /-- the ring served last, for the rotation of R257. -/
  rot : Nat := 0
  preempted : List Preempted := []
  /-- a lane chosen for preemption at this edge and the descriptor it then takes (R301). -/
  chosen : List (Nat × Nat × Nat) := []
  /-- the jobs of the pipelines (R15). -/
  pipe : List PipeJob := []
  deriving DecidableEq, Repr

/-- An open compression stream, by the address of its context (R270, R271). -/
structure CmpStream where
  opn : Bool := false
  /-- the context in memory is resumable output held back by OUT_LIMIT. -/
  full : Bool := false
  deriving DecidableEq, Repr

/-- A resident key slot's key beside its CIP_KINFO identity (R308, R309). -/
structure KeySlot where
  key : Bytes := []
  /-- the identity word's complement, as stored. -/
  comp : Nat := 2 ^ 64 - 1
  /-- invocation counter of COUNTER IVs (R292). -/
  inv : Nat := 0
  deriving DecidableEq, Repr

/-- An entry of the wrapped key table or the integrity key table (Table 9.9). -/
structure WrappedKey where
  desc : Paired := ⟨0, 2 ^ 64 - 1⟩
  curA : Bytes := []
  curB : Bytes := []
  prevA : Bytes := []
  prevB : Bytes := []
  kmid : Bytes := []
  deriving DecidableEq, Repr

/-- What the rotation scan holds for an old GID (R312): the new one, its image, its fingerprint. -/
structure Rekey where
  /-- 0 none, 1 the new frame lies in a row, 2 it is programmed, 3 the first REKEY has been built, with this TSN. -/
  state : Nat := 0
  newGid : Nat := 0
  gte : Gte := {}
  fp : Bytes := []
  /-- the old GTE was INDEXED. -/
  indexed : Bool := false
  tsn : Nat := 0
  deriving DecidableEq, Repr

/-- The cipher engine's keys and the digest engine's (chapters 8 and 9). -/
structure Keys where
  slots : Tab KeySlot := []
  /-- 4,096 domains (R306). -/
  wkt : Tab WrappedKey := []
  /-- the peer's mirrored copy of the wrapped key table (R307). -/
  wktPeer : Tab WrappedKey := []
  /-- 256 integrity keys, DEV × 32 + POOL. -/
  ikt : Tab WrappedKey := []
  /-- digest key registers (R278). -/
  digest : Tab Bytes := []
  /-- digest contexts whose stream has ended, by address (R267). -/
  digestDead : Tab Bool := []
  /-- digest and cipher state wrapping keys, derived at each boot (R279, R302). -/
  digestWrap : Bytes := []
  cipherWrap : Bytes := []
  /-- vault keys admitted or derived: 0 metadata root, 1 image. -/
  vault : Tab Bytes := []
  /-- a rotation of a domain staged for the next edge (R311). -/
  rotateStaged : List Nat := []
  /-- the rotation map, by old GID (R312). -/
  rotMap : Tab Rekey := []
  deriving DecidableEq, Repr

/-! ### The FIU's queues (chapter 7) -/

/-- For whom the FIU probes: a probe block at an address (R104), a staging slot (R203), an offer of a replication batch (R457). -/
inductive ProbeFor
  | block (addr : Nat)
  | slot (n : Nat)
  | offer (rel batch i : Nat)
  deriving DecidableEq, Repr

/-- A probe's answer (Table 7.5): RESULT (0 HIT, 1 MISS, 2 UNAVAILABLE as the rule numbers them), RFLAGS, hinted slot, GID, bucket,
partition, owner and the version a WRONG_OWNER answer names. -/
structure ProbeAns where
  result : Nat := 2
  flags : Nat := 0
  slot : Nat := 255
  gid : Nat := 0
  bucket : Nat := 0
  part : Nat := 0
  owner : Nat := 0
  ver : Nat := 0
  deriving DecidableEq, Repr

/-- A remote probe under way (R243). -/
structure RemoteProbe where
  tag : Nat
  who : ProbeFor
  fp : Bytes
  kdom : Nat
  due : Nat
  /-- WRONG_OWNER has been answered once; the version to wait for (R233). -/
  retryVer : Option Nat := none
  retried : Bool := false
  owner : Nat := 0
  deriving DecidableEq, Repr

/-- A GID in the retiring set: the slots of either head that it still waits for, by SSN, and whether this head was the allocating one
when it entered (R249, R250). -/
structure Retiring where
  gid : Nat
  own : List Nat
  peer : List Nat
  mine : Bool
  deriving DecidableEq, Repr

/-- A reference-count audit pass (R252, R253): its cut edge, whether the cut has been made, the delta of each GID since it. -/
structure Audit where
  cut : Nat
  made : Bool := false
  delta : Tab Int := []
  /-- INDEXED at the cut, by GID. -/
  indexed : List Nat := []
  /-- references to this device's GIDs counted by this head at the cut, by GID. -/
  counts : Tab Nat := []
  /-- the doubt list at the cut. -/
  doubts : List Nat := []
  deriving DecidableEq, Repr

/-- An INSERT that the write pipeline owes (R246), or a REMOVE of a stale entry (R245): GID, key domain, fingerprint, hinted
slot or the slot of the entry. -/
structure IndexJob where
  gid : Nat
  kdom : Nat
  fp : Bytes
  slot : Nat
  deriving DecidableEq, Repr

/-- An INSERT or REMOVE under way at another device's index window: slots tried, the version it waits for, whether its one retry is used
(R233, R247). -/
structure FarJob where
  tries : Nat := 0
  ver : Nat := 0
  wrong : Bool := false
  deriving DecidableEq, Repr

/-- The FIU beside its registers. -/
structure Fiu where
  /-- probes queued (R104, R203). -/
  probes : List ProbeFor := []
  remote : List RemoteProbe := []
  /-- by ring (8: the pipeline's own queues): the INSERT or REMOVE under way at another device (R233, R247, R248). -/
  jobs : Tab FarJob := []
  nextTag : Nat := 0
  /-- buckets of owned partitions, by partition × 2^22 + bucket: each slot's 32 bytes by slot number (R230, R236). -/
  buckets : Tab (Tab Bytes) := []
  /-- buckets held in the hot set, most recently used first, and which of them are dirty (R238). -/
  hot : List Nat := []
  hotDirty : List Nat := []
  /-- partitions whose filter is being rebuilt (R240). -/
  bypass : List Nat := []
  retiring : List Retiring := []
  /-- GIDs on the doubt list (R252). -/
  doubt : List Nat := []
  /-- the bucket the owner scrub checks next (R251). -/
  scrub : Nat := 0
  audit : Option Audit := none
  inserts : List IndexJob := []
  removes : List IndexJob := []
  deriving DecidableEq, Repr


/-! ### The front end (chapter 5) -/

/-- A packet that waits in a port's context-miss buffer, in 64-byte units (R156, R158). -/
structure MissPkt where
  ctx : Nat
  units : Nat
  prio : Nat
  pkt : HostPkt := .data
  /-- its place in the order of arrival at this head (R156). -/
  order : Nat := 0
  deriving DecidableEq, Repr

/-- A capsule that waits in its context for a free command record, with the opcode of its queue (R502). -/
structure Capsule where
  op : NvmeOp
  cmd : HostCmd
  deriving DecidableEq, Repr

/-- A host context (R152–R157, R182, R183). The generation outlives the queue. -/
structure HostCtx where
  opn : Bool := false
  gen : Nat := 0
  /-- the queue belongs to a discovery controller (R179). -/
  disc : Bool := false
  cntlid : Nat := 0
  qid : Nat := 0
  rdma : Bool := true
  port : Nat := 0
  /-- address and port 4-tuple of a TCP connection (R154). -/
  tuple : Nat := 0
  resident : Bool := false
  /-- the last use, for the least-recently-used order (R155). -/
  used : Nat := 0
  /-- a fetch is under way (R156), and has been reported slow (R157). -/
  fetch : Bool := false
  slow : Bool := false
  /-- transmit rate in units of 0.1 Gb/s, tempo number of its last cut, of the last CNP sent (R182, R183). -/
  rate : Nat := 0
  lastCut : Nat := 0
  lastCnp : Option Nat := none
  /-- of a TCP connection: its congestion window in bytes, and whether its segments echo a CE mark until CWR (R182). -/
  cwnd : Nat := 0
  echo : Bool := false
  deriving DecidableEq, Repr

/-- A host port: its miss buffer, and the priorities that each cause of pause holds (R158, R181). Causes: 0 miss buffer,
1 staging (R193), 2 mirror limit (R32), 3 castling (R178, R506), 4 time trouble (R379), 5 a waiting capsule (R502),
6 activation (R566), 7 resignation (R511). -/
structure HostPort where
  miss : List MissPkt := []
  pauses : Tab Nat := []
  /-- it trains or retrains under a token grant (R141). -/
  training : Bool := false
  /-- its timestamps of the last PTP event messages received and sent: seconds and nanoseconds (R58). -/
  ptpRx : Option (Nat × Nat) := none
  ptpTx : Option (Nat × Nat) := none
  /-- quarantined: its link is held down (Table 20.3). -/
  quar : Bool := false
  deriving DecidableEq, Repr

/-- A controller (R144, R145). -/
structure Controller where
  exists_ : Bool := false
  disc : Bool := false
  /-- host NQN, as a number for the name. -/
  nqn : Nat := 0
  admin : Nat := 0
  /-- controller configuration, and the shutdown status it has reached. -/
  cc : Nat := 0
  shst : Nat := 0
  /-- keep-alive timeout in ms, and ms passed since it was last restarted. -/
  kato : Nat := 0
  /-- features set, by feature identifier. -/
  features : Tab Nat := []
  /-- Asynchronous Event Requests outstanding: command records. -/
  aers : List Nat := []
  /-- events that wait, and event types masked until their log page is read (R659). -/
  events : List Nat := []
  masked : List Nat := []
  deriving DecidableEq, Repr

/-- A command in progress beside its command record (R161–R166). -/
structure FrontCmd where
  op : NvmeOp := .keepAlive
  cmd : HostCmd := {}
  /-- slots given, in square order, and whether it still waits for them (R193). -/
  slots : List Nat := []
  waitSlots : Bool := false
  /-- capacity reserved for it and not yet given to a slot, in bytes (R192). -/
  reserved : Nat := 0
  /-- its data has been asked for (R501). -/
  fetched : Bool := false
  /-- the front-end engine it was handed to (R161). -/
  engine : Nat := 0
  /-- host blocks landed. -/
  landed : List Nat := []
  /-- squares whose reads have ended: status and DNR (0 verified), by square index; verified plaintext. -/
  done : Tab (Nat × Bool) := []
  plain : Tab Bytes := []
  /-- by square index: the units still to come from its granule, and the tag record that applies. -/
  fill : Tab Nat := []
  tags : Tab Bytes := []
  /-- a completion has been posted and waits for delivery (R166). -/
  posted : Bool := false
  /-- DW0 of its completion. -/
  dw0 : Nat := 0
  /-- a completion that waits for the record's acknowledgement (R501): status and DNR. -/
  ready : Option (Nat × Bool) := none
  /-- the context has torn down (R168). -/
  torn : Bool := false
  deriving DecidableEq, Repr

/-- The front end beside its registers. -/
structure Front where
  ctxs : Tab HostCtx := []
  ports : Tab HostPort := []
  ctrls : Tab Controller := []
  cmds : Tab FrontCmd := []
  capsules : List Capsule := []
  /-- attachments that take effect at the next edge: NSID, host NQN, attach (R148). -/
  attach : List (Nat × Nat × Bool) := []
  /-- use clock of the context cache. -/
  clock : Nat := 0
  /-- commands that wait for slots, in order of acceptance (R193). -/
  waiting : List Nat := []
  /-- ANA change count (R177). -/
  anaCount : Nat := 0
  /-- host write bytes landed in this tempo, and the Cerco ports with a path to the peer at its edge (R32). -/
  landedBytes : Nat := 0
  mirrorPaths : Nat := 0
  /-- packets that have entered the miss buffers (R156). -/
  arrivals : Nat := 0
  /-- the host ports of this head that the discovery log lists, by bit (R179, R180). -/
  listed : Nat := 0
  /-- the peer's host ports that it lists (R179, R180). -/
  peerListed : Nat := 0
  /-- commands that this head has carried to the owning head and that have no completion yet: context, CID (R176). -/
  carried : List (Nat × Nat) := []
  deriving DecidableEq, Repr

/-! ### Metadata of the pair (chapters 6, 11, 13, 14) -/

/-! ### Staging, reduction and rows (chapter 6) -/

/-- What a reduction engine holds for the slot it works on. -/
structure Work where
  /-- 0 none, 1 a merge read runs, 2 the digest is due, 3 the index answer is due, 4 a COMPARE read runs, 5 a foreign
  reference add runs, 6 a frame is due, 7 its frame lies in a row, 8 PACKED without a frame, 9 its transaction is built, 10 the cipher
  job of its placed frame runs, 11 HELD is being written, 12 ADD_DONE is being written (R191, R206, R210). -/
  phase : Nat := 0
  square : Bytes := []
  fp : Bytes := []
  action : Nat := 0
  newGid : Nat := 0
  insert : Bool := false
  /-- units zero-filled or listed (R202). -/
  mask : Nat := 0
  /-- swaps made, and the word expected by the next one (R206). -/
  swaps : Nat := 0
  expect_ : Nat := 0
  gte : Option Gte := none
  /-- the payload once its compression has ended: format, whether it saved too little, bytes (R209). -/
  pay : Option (Nat × Bool × Bytes) := none
  /-- the frame that the cipher job is to write (R210, R213). -/
  frame : Bytes := []
  /-- the reduction engine that took the slot. -/
  engine : Nat := 0
  /-- the index slot hinted by the probe (R246). -/
  hint : Nat := 0
  /-- the probe's answer, once it has come. -/
  ans : Option ProbeAns := none
  deriving DecidableEq, Repr

/-- A staging descriptor with its data and tag areas (Table 6.8). -/
structure Slot where
  nsid : Nat := 0
  /-- 0 FREE, 1 FILLING, 2 STAGED, 3 DURABLE, 4 REDUCING, 5 PACKED, 6 COMMITTED. -/
  state : Nat := 0
  kind : Nat := 0
  valid : Nat := 0
  square : Nat := 0
  ssn : Nat := 0
  heldGid : Nat := 0
  durTempo : Nat := 0
  older : Option Nat := none
  held : Bool := false
  addDone : Bool := false
  tags : Bool := false
  lostblk : Bool := false
  tsn : Nat := 0
  cmd : Option Nat := none
  data : Tab Byte := []
  tagArea : Bytes := []
  /-- the first tempo at which it may be taken again after a failure (R202, R205, R228). -/
  after : Nat := 0
  /-- a descriptor write that its next step waits for has not been acknowledged by the peer (R191). -/
  unacked : Bool := false
  /-- the accelerator without a lane that it waits for in DURABLE (R653). -/
  wants : Option Nat := none
  /-- the replication batch it belongs to: relationship × 2^32 + batch (R459). -/
  batch : Option Nat := none
  /-- it holds a capacity reservation (R192). -/
  reserved : Bool := false
  work : Work := {}
  deriving DecidableEq, Repr

/-- A frame placed in a row: GID, slot of the square (none for a copy), offset and length in 16-byte units, its bytes. -/
structure FrameRef where
  gid : Nat
  slot : Option Nat
  off : Nat
  slen : Nat
  bytes : Bytes
  /-- a collection copy's source: segment, row, offset. -/
  src : Option (Nat × Nat × Nat) := none
  deriving DecidableEq, Repr

/-- A row: open, closed or in flight (R215–R220). -/
structure Row where
  /-- 0 host data, 1 collection, 2 metadata, 3 metadata collection, 4 a rebuild row's replacements. -/
  kind : Nat := 0
  engine : Nat := 0
  pool : Nat := 0
  seg : Nat := 0
  row : Nat := 0
  frames : List FrameRef := []
  first : Nat := 0
  /-- 0 none, 1 open, 2 closed and waiting for parity and tokens, 3 issued, 4 requeued frames that wait for a segment (R220). -/
  state : Nat := 0
  data : Bytes := []
  /-- columns by number once issued: 1 success, 2 failed. -/
  cols : Tab Nat := []
  /-- of a rebuild row: how many replacements it programs. -/
  want : Nat := 0
  /-- P and Q stand in row assembly (R218). -/
  parity : Bool := false
  /-- the first tempo at which its parity is computed again after a second failure (R228). -/
  after : Nat := 0
  /-- an earlier row of its segment has burned: it never counts as programmed (R219, R220). -/
  void : Bool := false
  deriving DecidableEq, Repr

/-- A response (Table 12.4) and its data. -/
structure LaneRsp where
  status : Nat
  value : Nat := 0
  unc : Nat := 0
  data : Bytes := []
  deriving DecidableEq, Repr

/-- A page read of a frame (R326): member, block, page, the buckets of the start set, sets tried, state (0 in flight, 1 landed,
2 unreadable), the last set. -/
structure PageRead where
  member : Nat
  block : Nat
  page : Nat
  start : Nat
  tried : List Nat := []
  cur : Nat
  state : Nat := 0
  /-- the result that has come and waits to be taken: the response, or none for TIMEOUT and LINK_LOST. -/
  rsp : Option (Option LaneRsp) := none
  /-- the page's bytes once landed. -/
  data : Bytes := []
  deriving DecidableEq, Repr

/-- For whom a granule is read. -/
inductive ReadWho
  | host (rec : Nat) (i : Nat)
  | merge (slot : Nat)
  | compare (slot : Nat)
  /-- a square whose reference the ledger lost (R253). -/
  | fix
  /-- a square of a cycle or a transaction: to fingerprint it, or to send it (R458). -/
  | repl (rel batch i : Nat) (send_ : Bool)
  /-- a repair request of the other end (R464). -/
  | answer (rel tag : Nat)
  /-- a FRAME_FETCH of another pair's device: device, tag. -/
  | remote (dev tag : Nat)
  | rekey
  deriving DecidableEq, Repr

/-- A granule read in flight (chapter 10). -/
structure ReadJob where
  who : ReadWho
  nsid : Nat := 0
  square : Nat := 0
  gid : Nat
  /-- the lookup image: the GTE at the lookup (R320). -/
  img : Gte
  /-- 0 pages in flight, 1 landed, 2 waits for a key, 3 rebuild on read, 4 foreign fetch, 5 repair from a replica. -/
  state : Nat := 0
  pages : List PageRead := []
  frame : Bytes := []
  /-- the second pass of R332 has been made. -/
  second : Bool := false
  rebuilt : Bool := false
  restarts : Nat := 0
  /-- its cipher job has ended OK (Table 10.2, stage 2). -/
  opened : Bool := false
  /-- tries of a foreign fetch: sent to the second head; sent with REBUILD (R342, R343). -/
  toOther : Bool := false
  askedRebuild : Bool := false
  /-- the fingerprint bits a repair asks for (R344). -/
  want : Option Nat := none
  /-- the relationship a repair asks over. -/
  rel : Nat := 0
  /-- tempo number by which a FRAME_REPLY or a repair's answer must come (R342, R346). -/
  due : Nat := 0
  /-- the end of a read that its requester has still to take: status (0 verified), DNR, plaintext. -/
  res : Option (Nat × Bool × Bytes) := none
  deriving DecidableEq, Repr

/-- What a cut is for: the mailbox; a cycle or an anchor of a SOURCE; the matching snapshot of a TARGET, for a cycle (the source's
SSEQ) or an anchor (head, TSN, SSEQ); the rollback of a resync (R441, R458, R461, R466). -/
inductive CutRole
  | host
  | cycle (rel : Nat)
  | anchor (rel : Nat)
  | target (rel sseq : Nat)
  | mark (rel head tsn sseq : Nat)
  | rollback (rel : Nat)
  deriving DecidableEq, Repr

/-- A cut staged for edge E, or waiting for its older slots, or for its transaction (R441, R442). -/
structure Cut where
  nsids : List Nat
  sseq : Nat
  edge : Nat
  role : CutRole
  tsn : Option Nat := none
  deriving DecidableEq, Repr

/-- A foreign GID to release once after commit (R223). -/
structure ForeignRel where
  gid : Nat
  tsn : Nat
  deriving DecidableEq, Repr

/-- A reference of a held transaction still to be added at its device: GID, swaps made, the word the next swap expects. -/
structure GainAdd where
  gid : Nat
  swaps : Nat := 1
  expect_ : Nat
  deriving DecidableEq, Repr

/-- A transaction that waits for the references it gains on other pairs (R445): namespace, entries, adds still out, GIDs added. -/
structure HeldTx where
  nsid : Nat
  entries : List SqEntry
  adds : List GainAdd
  gains : List Nat
  deriving DecidableEq, Repr

/-- Staging and the write pipeline. -/
structure Stg where
  slots : Tab Slot := []
  mirror : Tab Slot := []
  /-- next staging sequence number (Table 6.8). -/
  ssn : Nat := 1
  /-- R193 restricts admission. -/
  tight : Bool := false
  /-- the row journal since the last checkpoint, and the peer's mirrored one (R421). -/
  journal : List JRecord := []
  mirrorJ : List JRecord := []
  tsnNext : Nat := 1
  /-- rows by number, and the next number. -/
  rows : Tab Row := []
  rowNext : Nat := 1
  reads : Tab ReadJob := []
  readNext : Nat := 1
  /-- foreign releases issued, not yet done (R223). -/
  releases : List ForeignRel := []
  heldTx : Tab HeldTx := []
  heldNext : Nat := 1
  /-- foreign GIDs added for a transaction and still on the doubt list, by TSN (R206, R252). -/
  gained : Tab (List Nat) := []
  /-- capacity reserved by pool, in bytes (R192). -/
  capacity : Tab Nat := []
  /-- what waits for a path to the peer after a mirror write that was reported failed (R197, R228). -/
  left : List MirrorItem := []
  cuts : List Cut := []
  /-- snapshots to be marked DELETING at the next edge (R448). -/
  deletes : List (Nat × Nat) := []
  /-- entries of squares of a replication batch that are ready, by relationship × 2^32 + batch (R459). -/
  batches : Tab (List SqEntry) := []
  deriving DecidableEq, Repr

/-! ### Media Link lanes and flash modules (chapter 12) -/

/-- What a Media Link command is for. -/
inductive LaneUse
  | identify | badList | fenceRead | health | loadTable
  /-- page `i` of a granule read. -/
  | page (read i : Nat)
  /-- column `c` of a row. -/
  | column (row c : Nat)
  | erase (seg : Nat)
  /-- a FENCE_CAS or FENCE_READ of a claim (R513). -/
  | claim
  /-- a FENCE_CAS of a planned castling or of a rejoin (R518, R519). -/
  | fence
  | other
  deriving DecidableEq, Repr

/-- A command outstanding on a lane (Table 12.3): the module's answer once it has executed it. -/
structure LaneCmd where
  opcode : Nat
  block : Nat := 0
  unit : Nat := 0
  npages : Nat := 0
  set : Nat := 0
  arg0 : Nat := 0
  arg1 : Nat := 0
  data : Bytes := []
  use : LaneUse := .other
  /-- it has been issued once more (R398, R399). -/
  again : Bool := false
  rsp : Option LaneRsp := none
  /-- its place among the commands sent on its lane (R396). -/
  stamp : Nat := 0
  deriving DecidableEq, Repr

/-- A transaction frame in a replay buffer: its header's SEQ, TYPE and TAG (R389, Table 12.1). -/
structure MdlSent where
  seq : Nat
  type : Nat := 1
  tag : Nat := 0
  deriving DecidableEq, Repr

/-- A Media Link lane beside its registers (R386–R394, R402). -/
structure Lane12 where
  /-- next SEQ to send and next SEQ expected. -/
  tx : Nat := 0
  rx : Nat := 0
  /-- the replay buffer: frames not yet covered (R389). -/
  unacked : List MdlSent := []
  /-- replays in a row with no ACK advancing (R390). -/
  replays : Nat := 0
  /-- a NAK has been sent and the expected frame has not come since (R388). -/
  nakSent : Bool := false
  /-- an ACK or a CREDIT is due (R387, R392). -/
  ackDue : Bool := false
  /-- credits announced by the module, and the latest cumulative counts received. -/
  cmdAnn : Nat := 0
  dataAnn : Nat := 0
  /-- CMD and DATA credits available (R392, R393). -/
  cmdCred : Paired := ⟨0, 2 ^ 32 - 1⟩
  dataCred : Paired := ⟨0, 2 ^ 32 - 1⟩
  cmdSent : Nat := 0
  dataSent : Nat := 0
  /-- DATA credits that the device has released since HELLO (R392). -/
  dataRel : Nat := 0
  /-- trainings at 32 GT/s that failed in a row (R383). -/
  failed32 : Nat := 0
  /-- seconds of tempo time at which it retrained and reached DOWN lately (R394). -/
  retrains : List Nat := []
  downs : List Nat := []
  cmds : Tab LaneCmd := []
  /-- commands that wait for a CMD credit, in order. -/
  queue : List LaneCmd := []
  /-- tags kept unused until the lane passes through DOWN (R399). -/
  dead : List Nat := []
  /-- tempo-time second since which its member is absent (R402). -/
  absent : Option Nat := none
  /-- the module answered IDENTIFY and may be adopted (R400, R401). -/
  identified : Bool := false
  fence : Paired := ⟨0, 2 ^ 64 - 1⟩
  /-- what BAD_LIST named (R370, R401). -/
  bad : List Nat := []
  deriving DecidableEq, Repr

/-- An erase block inside a module (R396). -/
structure ModBlock where
  next : Nat := 0
  /-- the row whose PROGRAM failed. -/
  failed : Option Nat := none
  pe : Nat := 0
  bad : Bool := false
  deriving DecidableEq, Repr

/-- A flash module: the far end of a lane (R395–R406, Table 12.7). -/
structure Module where
  present : Bool := false
  version : Nat := 1
  mtype : Nat := 0
  serial : Nat := 0
  fwrev : Bytes := []
  nblocks : Nat := 0
  rpb : Nat := 0
  pgsz : Nat := 2
  wlim : Nat := 0
  rdLimit : Nat := 0
  progRate : Nat := 0
  readRate : Nat := 0
  tmax : Nat := 0
  temp : Int := 0
  /-- fence word (R403). -/
  fence : Nat := 3
  /-- a threshold table has been loaded. -/
  table : Bytes := []
  blocks : Tab ModBlock := []
  /-- programmed rows of 64 KiB, by block × 4,096 + row. -/
  rows : Tab Bytes := []
  /-- a power-loss notice is in force (R405). -/
  pln : Bool := false
  /-- factory-bad blocks. -/
  bad : List Nat := []
  deriving DecidableEq, Repr

/-! ### The flash translation layer (chapters 11 and 13) -/

/-- A replacement: the column it replaces, its member and block, rows issued and rows programmed (R426, R427). -/
structure Repl13 where
  col : Nat
  member : Nat
  block : Nat
  issued : Nat := 0
  done : Nat := 0
  deriving DecidableEq, Repr

/-- A checkpoint under way (R350): TSN T, the metadata as of T, the pages it writes, those that have no frame yet, and whether the
page-table pages are being written. -/
structure Ckpt where
  tsn : Nat
  md : Meta
  pages : List Nat
  left : List Nat := []
  table : Bool := false
  deriving DecidableEq, Repr

/-- A segment in the rebuild queue: replacements by column (R426, R427). -/
structure Rebuild where
  seg : Nat
  repl : List Repl13 := []
  /-- its segment-table page is written with the replacements; the PAGE_MAP record has yet to commit (R429). -/
  written : Bool := false
  deriving DecidableEq, Repr

/-- The flush image written in time trouble (R376–R379). -/
structure FlushImage where
  seq : Nat
  boot : Nat
  slots : Tab Slot
  journal : List JRecord
  dirty : Meta
  tsn : Nat
  us : Nat
  /-- index buckets of the owned partitions. -/
  index : Tab (Tab Bytes) := []
  /-- the wrapped key table and the integrity key table, which belong to the metadata (R306). -/
  wkt : Tab WrappedKey := []
  ikt : Tab WrappedKey := []
  /-- chunks written, and whether the manifest is. -/
  chunks : Nat := 0
  manifest : Bool := false
  deriving DecidableEq, Repr

/-- The flash translation layer beside its registers. -/
structure Ftl where
  /-- armed blocks of the erase gate, by member × 2^24 + block (R364). -/
  gate : List Nat := []
  /-- segments queued for relocation, oldest first (R359), and single rows (R375). -/
  reloc : List Nat := []
  relocRows : List (Nat × Nat) := []
  /-- by segment being collected: its next row to scan (R360). -/
  gcRow : Tab Nat := []
  /-- dirty metadata pages (R351). -/
  dirty : List Nat := []
  /-- tempo numbers at which a block's pages needed ladder step 3 or later (R370). -/
  steps : Tab (List Nat) := []
  /-- segments scrubbed in this period: next row (R374). -/
  scrubRow : Tab Nat := []
  /-- the armed flush side, 0 or 1, and the three flush groups (R377). -/
  armed : Option Nat := none
  groups : List (List Nat) := []
  flushSeq : Nat := 0
  /-- tempo number at which time trouble was detected, and the image being flushed (R379). -/
  ttFrom : Option Nat := none
  flush : Option FlushImage := none
  /-- members to declare failed at the next edge (R423). -/
  declare : List Nat := []
  rebuild : List Rebuild := []
  /-- what pages written and not yet named by a PAGE_MAP record newly say, by page (R429, R435). -/
  news : List (Nat × PageNews) := []
  /-- rebuild rows issued in this window of 1,000 tempi (R428): window, rows. -/
  rate : Nat × Nat := (0, 0)
  /-- replacements received by each member in this rebuild (R426). -/
  given : Tab Nat := []
  ckpt : Option Ckpt := none
  /-- pools being collected: below LOW_PCT, not yet at HIGH_PCT (R358). -/
  gcPools : List Nat := []
  /-- the retention pass that scrubRow counts (R374). -/
  scrubPass : Nat := 0
  /-- rows whose parity is never used again (R434). -/
  noParity : List (Nat × Nat) := []
  /-- blocks of the flush sides, by side × 64 + member (R377). -/
  sideBlocks : Tab (List Nat) := []
  /-- segments being closed short, with rows still in flight (R655). -/
  closing : List Nat := []
  /-- ERASEs issued once more (R399), by member × 2^24 + block. -/
  eraseAgain : List Nat := []
  deriving DecidableEq, Repr

/-- What stands on flash and in the modules: it outlives resets and power. -/
structure Outside where
  modules : Tab Module := []
  /-- metadata as of the last checkpoint. -/
  saved : Meta := {}
  /-- index buckets as of the last checkpoint, the wrapped key table and the integrity key table. -/
  index : Tab (Tab Bytes) := []
  wkt : Tab WrappedKey := []
  ikt : Tab WrappedKey := []
  /-- the flush image of each side. -/
  sides : Tab (Option FlushImage) := []
  /-- what the pool roots name: the armed side, the flush groups, the blocks of the sides (R349, R377). -/
  armed : Option Nat := none
  groups : List (List Nat) := []
  sideBlocks : Tab (List Nat) := []
  deriving DecidableEq, Repr

/-- What the Opening Image in force sets that no register shows (Table 17.2). -/
structure OimCfg where
  nqn : Bytes := []
  /-- staging size in GiB. -/
  staging : Nat := 16
  rowAge : Nat := 4000
  /-- FABRIC_FWDL as the image sets it (R549). -/
  fwdl : Bool := false
  /-- threshold tables by module type. -/
  thresh : Tab Bytes := []
  deriving DecidableEq, Repr

/-! ### The Cerco datagram transport (chapter 15) -/

/-- A packet sent on a path and not acknowledged, or one that still waits for the window (R476, R477). -/
structure CdtPkt where
  hdr : CdtHdr
  payload : Bytes := []
  /-- times it has been sent again. -/
  tries : Nat := 0
  /-- answered BUSY: its next sending does not count toward RETRY (R485). -/
  defer_ : Bool := false
  deriving DecidableEq, Repr

/-- The sending side of a path, by destination × 4 + port: next PSN, packets sent and not acknowledged, packets that wait (R477). -/
structure CdtPath where
  next : Nat := 0
  unacked : List CdtPkt := []
  queue : List CdtPkt := []
  /-- tempo number at which a beacon or heartbeat of the DEV last arrived on the port (R470). -/
  heard : Option Nat := none
  /-- down under R477: on a PEER port until the next link-up, elsewhere until the DEV is heard (R470). -/
  down : Bool := false
  deriving DecidableEq, Repr

/-- A message outstanding (R474–R491). -/
structure CdtMsg where
  /-- its ring and descriptor index; none for a message of an internal queue (R652). -/
  desc : Option (Nat × Nat) := none
  /-- 1 SEND, 2 WRITE, 3 READ, 4 ADD, 5 CAS. -/
  op : Nat
  port : Nat
  msn : Nat
  tempo0 : Nat
  len : Nat := 0
  laddr : Nat := 0
  off : Nat := 0
  res : Nat := 0
  intr : Bool := false
  fence : Bool := false
  pkts : Nat := 1
  /-- packets acknowledged, by PIDX. -/
  acked : List Nat := []
  /-- packets of its READ_RESP landed, with their bytes, and the PIDX of the last one. -/
  landed : Tab Nat := []
  lastIdx : Option Nat := none
  deriving DecidableEq, Repr

/-- A destination as the sender knows it (R474, R480, R484). -/
structure CdtDst where
  msnNext : Nat := 1
  msgs : List CdtMsg := []
  /-- messages that failed less than MAX_AGE tempi ago: MSN and edge (R479, R480). -/
  failed : List (Nat × Nat) := []
  boot : Option Nat := none
  /-- the port that the last internal message took (R652). -/
  rot : Nat := 3
  deriving DecidableEq, Repr

/-- A source as the receiver knows it (R481–R483): its boot, floor, delivered MSNs above it, refused messages with their codes, kept
results of atomics, packets of SENDs and WRITEs not yet whole. -/
structure CdtSrc where
  boot : Option Nat := none
  floor : Nat := 0
  done : List Nat := []
  refused : Tab Nat := []
  results : Tab Bytes := []
  parts : Tab (Tab Bytes) := []
  /-- PIDX of the LAST packet of a message, once it has come. -/
  last : Tab Nat := []
  deriving DecidableEq, Repr

/-- The receiving side of a path, by source × 4 + port (R476): next PSN expected, later ones accepted, packets accepted and not yet
acknowledged. -/
structure CdtRx where
  exp : Option Nat := none
  acc : List Nat := []
  pend : Nat := 0
  deriving DecidableEq, Repr

/-- The transport beside its registers. -/
structure Cdt where
  /-- the transport start (R484). -/
  start : Option Nat := none
  dsts : Tab CdtDst := []
  paths : Tab CdtPath := []
  srcs : Tab CdtSrc := []
  rxs : Tab CdtRx := []
  /-- internal messages that wait for the MSN window (R480): destination, op, bytes. -/
  waiting : List (Nat × Nat × Nat × Option Nat) := []
  /-- by ring: the index of its oldest unstarted descriptor; the ring served last (R257). -/
  next : Tab Nat := []
  rot : Nat := 15
  /-- DEVs present (R497). -/
  present : List Nat := []
  /-- by DEV: its bound serial plus 1 (R498); DEV × 4 + port on which beacons show another serial. -/
  serials : Tab (Option Nat) := []
  alien : List Nat := []
  /-- bytes of packets to other pairs that the ports with a path to the peer have sent in this tempo (R32). -/
  clusterBytes : Nat := 0
  /-- windows whose revocation is staged (R494). -/
  revoke : List Nat := []
  /-- windows in REVOKING (R494). -/
  revoking : List Nat := []
  deriving DecidableEq, Repr

/-! ### Replication sessions and the target's batches (chapter 14) -/

/-- A session of one direction of a peer (R453): number, key, packets sent, tempo-time second it began. -/
structure Sess where
  num : Nat
  key : Bytes
  packets : Nat := 0
  since : Nat := 0
  deriving DecidableEq, Repr

/-- The sessions of a peer: this sender's in use and the one that waits for SESSION_ACK; the other end's, and its old one with the
second until which it is accepted (R453). -/
structure PeerSess where
  tx : Option Sess := none
  txNew : Option Sess := none
  rx : Option Sess := none
  rxOld : Option (Sess × Nat) := none
  deriving DecidableEq, Repr

/-- One offered square at the target (R457). -/
structure InItem where
  offer : Offer
  /-- 0 undecided, 1 HIT_LOCAL, 2 HIT_FOREIGN, 3 asked for, 4 staged, 5 its entry is ready, 6 ZERO or UNMAP, 7 a reference add runs. -/
  dec : Nat := 0
  ans : Option ProbeAns := none
  gid : Nat := 0
  swaps : Nat := 0
  expect_ : Nat := 0
  deriving DecidableEq, Repr

/-- A batch that the target works on: an FP_OFFER, or a STREAM_REC (R457, R459). -/
structure InBatch where
  rel : Nat
  num : Nat
  stream : Bool := false
  head : Nat := 0
  tsn : Nat := 0
  /-- ANCHOR: the record asks for a matching snapshot. -/
  anchor : Bool := false
  items : List InItem := []
  /-- FP_NEED has been sent. -/
  asked : Bool := false
  /-- the held transaction that applies it, while one of its reference adds runs (R445). -/
  held : Option Nat := none
  /-- TSN of this head's transaction that applies it. -/
  posted : Option Nat := none
  deriving DecidableEq, Repr

/-- Replication beside its registers and relationships. -/
structure Repl where
  peers : Tab PeerSess := []
  /-- messages that wait for a session: peer, message. -/
  queue : List (Nat × ReplMsg) := []
  nextSess : Nat := 1
  inb : List InBatch := []
  deriving DecidableEq, Repr

/-! ### Reactions that another block carries out before the command ends -/

/-- A reaction that one block owes to another's event, carried out before the same command ends. -/
inductive Todo
  /-- quarantine the unit (R578, Table 20.3). -/
  | quarantine (unit : Nat)
  /-- a Double check of this code was raised: resign where the fault policy or R510 says so. -/
  | castleTest (code unit : Nat)
  /-- tear down every context of a host port (R168). -/
  | portTeardown (port : Nat)
  /-- the link of a Cerco port goes down (R478). -/
  | cercoDown (port : Nat)
  /-- a Media Link lane enters FAILED and its member counts failed (R394, R423). -/
  | laneFailed (lane : Nat)
  /-- a journal record of this head has been applied: what follows from it (R246, R442, R459). -/
  | committed (r : JRecord)
  /-- a command of a Media Link lane has ended: its response, or none for TIMEOUT and LINK_LOST (R398, R399). -/
  | laneEnd (lane : Nat) (c : LaneCmd) (rsp : Option LaneRsp)
  /-- a square read for replication has ended (R458). -/
  | replRead (rel batch i : Nat) (send_ : Bool) (st : Nat) (fmt : Nat) (payload plain : Bytes)
  /-- a repair request's read has ended (R464). -/
  | repairRead (rel tag st fmt : Nat) (payload : Bytes)
  /-- the index has answered an offer, or a batch of offers may have become whole (R457, R459). -/
  | offerAnswer (rel batch i : Nat) (a : ProbeAns)
  | batchReady (rel batch : Nat)
  /-- begin the resignation of this head with a cause of Table 16.4 (R510). -/
  | resign (cause : Nat)
  deriving DecidableEq, Repr

/-! ### What the device sends -/

/-- Output balls. -/
inductive Pin | pwrgood | fatalN | pwrcycReqN | ppsOut | gpio
  deriving DecidableEq, Repr

/-- One thing the device sends or drives outward. -/
inductive Out
  /-- an MSI-X message on a vector (R627). -/
  | msix (v : Nat)
  /-- a ball's new level. -/
  | pin (p : Pin) (high : Bool)
  /-- the value a register read or an engine load returned. -/
  | value (v : Nat)
  /-- an arbiter's GO to a requester port (R72). -/
  | go (target port : Nat)
  /-- an arbiter's CUT notice to a requester port (R75). -/
  | cut (target port : Nat)
  /-- a read's response accepted by its route: its data, and whether they carry a poison mark (R74, R92). -/
  | readData (target port : Nat) (data : Bytes) (poison : Bool)
  /-- a host port's timestamp of a PTP event message: sent or received, tempo time (R58). -/
  | ptpStamp (port : Nat) (sent : Bool) (sec ns : Nat)
  /-- the unit of a pool partition that the allocator gives out (R86). -/
  | poolUnit (part unit : Nat)
  /-- a status an engine instruction wrote to its destination. -/
  | status (v : Nat)
  /-- a RESIGN message with its cause, on every port with a path to the peer (R510). -/
  | resign (cause tempo : Nat)
  /-- an SXC sends a domain's key of a generation to another holder's SXC (R306). -/
  | keyTransfer (dev domain gen : Nat)
  /-- an atomic add of -2^32 on word 2 of a foreign GTE (R223). -/
  | foreignRelease (gid : Nat)
  /-- remote writes into the peer's mirror: a slot, a command record, a journal record (R191, R221, R501); without a peer no packet follows. -/
  | mirrorSlot (slot : Nat)
  | mirrorCmd (rec : Nat)
  | mirrorRecord (tsn : Nat)
  /-- a mirror write issued again over a port (R197). -/
  | mirrorOn (port : Nat) (item : MirrorItem)
  /-- a remote read of the peer's mirror copy of a slot (Table 6.13). -/
  | mirrorRead (slot : Nat)
  /-- a completion posted on a context: CID, status (SCT × 256 + SC), DNR, DW0. -/
  | completion (ctx cid status : Nat) (dnr : Bool) (dw0 : Nat)
  /-- data of a command sent to its host. -/
  | hostData (ctx cid off : Nat) (data : Bytes)
  /-- the device asks a host for write data: RDMA READ or R2T. -/
  | fetchData (ctx cid bytes : Nat)
  /-- a pause frame: port, mask of priorities, quanta; 0 quanta releases (R158, R181). -/
  | pause (port prios quanta : Nat)
  /-- a capsule, with the data it holds, carried to the owning head over Cerco (R176). -/
  | forward (op : NvmeOp) (cmd : HostCmd)
  /-- the owning head's answer to a command that the peer carried here (R176). -/
  | answer (ctx cid : Nat) (a : PeerAnswer)
  /-- CWR on a context's TCP segments: the congestion window has been halved (R182). -/
  | cwr (ctx : Nat)
  /-- a CNP for a context's queue pair (R182). -/
  | cnp (ctx : Nat)
  /-- a packet reaches its context (R156). -/
  | deliver (ctx : Nat)
  /-- a connection request is turned away: a TCP reset, or a RoCEv2 reject (Table 5.9). -/
  | connReject (port : Nat)
  /-- ECE on a context's TCP segments, after a CE mark (R182). -/
  | ece (ctx : Nat)
  /-- a command's terminal state: 0 COMPLETED, 1 UNDELIVERED, 2 TERMINATED (R166). -/
  | terminal (rec kind : Nat)
  /-- the terminal state of a command of the peer's that castling ends: 1 UNDELIVERED, 2 TERMINATED (Table 16.5). -/
  | adopted (rec kind : Nat)
  /-- C2HTermReq with its FES: 1 Invalid Header Field, 4 Data Transfer Out of Range (R170; codes PRESUMED). -/
  | termReq (ctx fes : Nat)
  /-- a Media Link frame: lane, TYPE of Table 12.1, SEQ, TAG, and whether its trailer was inverted (R384, Table 12.10). -/
  | mdlFrame (lane type seq tag : Nat) (bad : Bool)
  /-- HELLO and CREDIT with what they say (R392, R395). -/
  | mdlHello (lane version port cmdCred dataCred rspCred maxPay : Nat)
  | mdlCredit (lane cmd data : Nat)
  /-- PLN, with CLEAR or without. -/
  | mdlPln (lane : Nat) (clear : Bool)
  /-- FRAME_FETCH of a foreign GID: device, GID, the requester's tag, key domain, FLAGS.REBUILD (R341). -/
  | frameFetch (dev gid tag kdom : Nat) (rebuild : Bool)
  /-- the frame written to a requester, and FRAME_REPLY: device, tag, RESULT, frame, GTE image (Table 10.3). -/
  | frameReply (dev tag result : Nat) (frame : Bytes) (gte : Gte)
  /-- admin data: the values the spec gives, in the order of its tables. -/
  | adminData (ctx cid : Nat) (vals : List Nat)
  /-- a change of the pair's metadata that both heads hold, carried to the peer (R148, R151). -/
  | shareCmd (ctx cid : Nat)
  /-- INDEX_PROBE to the partition's owner: device, fingerprint, key domain, version, tag (R243). -/
  | indexProbe (dev : Nat) (fp : Bytes) (kdom ver tag : Nat)
  /-- INDEX_REPLY (R243). -/
  | indexReply (dev tag : Nat) (a : ProbeAns)
  /-- a compare-and-swap pair on another device's index window: insert or remove, the entry, the slot (R247, R248). -/
  | indexSwap (dev : Nat) (insert : Bool) (entry : Bytes) (slot : Nat)
  /-- a compare-and-swap on word 2 of a foreign GTE: GID, value expected (R206). -/
  | refAdd (gid expected : Nat)
  /-- the references this pair holds to GIDs of other pairs, at an audit's cut, with its doubt list (R252, R253). -/
  | auditCounts (counts : List (Nat × Nat)) (doubts : List Nat)
  /-- a replication message to a peer in a session; 0 for session control (R453–R455). -/
  | repl (peer session : Nat) (m : ReplMsg)
  /-- a CDT packet out of a replication packet, passed on (R454). -/
  | replPacket (peer : Nat) (packet : Bytes)
  /-- a CDT packet leaves a port: header, payload, whether CDT_INJ inverted its trailer (Table 15.1). -/
  | cdtPacket (port : Nat) (h : CdtHdr) (payload : Bytes) (bad : Bool)
  /-- PAIR messages to the peer (Table 16.4). -/
  | digest (m : DigestMsg)
  | recheckReq (group window : Nat)
  | recheckAns (group window : Nat) (wrong : Bool)
  | ownerStage (apply own0 own1 : Nat)
  | rejoinReq (boot : Nat)
  | rejoinGrant (covered : Nat)
  /-- a staged move is forwarded to another device's SXC: its body (R553). -/
  | moveForward (dev : Nat) (body : Bytes)
  /-- a target SXC acknowledges a staged move (R553). -/
  | moveAck (dev : Nat)
  /-- an SPDM response: its code, numbers and bytes in the order of the message (R555; codes and order PRESUMED). -/
  | spdm (code : Nat) (vals : List Nat) (data : Bytes)
  /-- a refresh-all command of a DDR5 channel (R604). -/
  | refreshAll (ch : Nat)
  /-- the management endpoint's link is reset (R640). -/
  | linkReset
  /-- the answer to an NVMe-MI request; its bytes are the NVMe-MI specification's (R537). -/
  | miResponse (data : Bytes)
  deriving DecidableEq, Repr

/-! ### The whole device -/

/-- The levels of the device's own output balls (Table 23.4; `true` is high). -/
structure Pins where
  pwrgood : Bool := true
  fatalN : Bool := true
  pwrcycReqN : Bool := true
  /-- GPIO outputs driven in Checkmate: mask and value (Table 20.4). -/
  gpioDrive : Nat := 0
  gpioValue : Nat := 0
  deriving DecidableEq, Repr

/-- The head controller: everything but the queue of commands. -/
structure Dev where
  /-- BAR0 registers by byte offset, 64 bits each (R615, R616). -/
  regs : Tab Word := []
  /-- the pool and DRAM, by physical address (R99). -/
  mem : List Host.Cell := []
  /-- free values drawn so far: the model's own counter. -/
  free : Nat := 0
  /-- what the device sent during the last command: the model's own record. -/
  out : List Out := []
  /-- interrupt levels already reported by a message (R627), by block number. -/
  intrSent : Nat := 0
  pins : Pins := {}
  flt : Flt := {}
  scr : Scr := {}
  pwr : Pwr := {}
  tmp : Tmp := {}
  fab : Fab := {}
  engines : Tab Engine := []
  king : King := {}
  l2s : Tab L2 := []
  taskRings : Tab TaskRing := []
  cas : Cas := {}
  /-- reactions still to carry out in this command; empty between commands: the model's own. -/
  todo : List Todo := []
  nv : Nv := {}
  sxc : Sxc := {}
  fwu : Fwu := {}
  /-- the sixteen seals (R297). -/
  seals : Tab Seal := []
  /-- accelerators by Table 20.2 unit kind: 3 cipher, 4 compression, 5 erasure, 6 digest. -/
  accels : Tab Accel := []
  cmpStreams : Tab CmpStream := []
  keys : Keys := {}
  fiu : Fiu := {}
  front : Front := {}
  md : Meta := {}
  stg : Stg := {}
  lanes12 : Tab Lane12 := []
  ftl : Ftl := {}
  outside : Outside := {}
  oimCfg : OimCfg := {}
  repl : Repl := {}
  /-- the Cerco transport (chapter 15). -/
  cdt : Cdt := {}
  deriving DecidableEq, Repr

/-- The block: the device and the commands that wait, first in first out. -/
structure State where
  dev : Dev
  pending : List Instr
  deriving DecidableEq, Repr

/-- Why the block stops with a fault. -/
inductive Fault
  /-- Raised by no meaning: every command answers a next state whatever its operands. The name is kept for a term that is no command at
  all (`Instr.wf` is false). Safe. -/
  | illFormed
  deriving DecidableEq, Repr

/-- Why a command is refused. -/
inductive Refusal
  /-- Raised by `exec` for a command whose meaning is not written; no arm is left that does. Safe. -/
  | notModelled (mnemonic : String)
  deriving DecidableEq, Repr

/-- The registers whose value at reset is not 0 (the Reset columns of the register tables; OI fields at the default
their Meaning column gives, R12). -/
def resetRegs : Tab Word :=
  [(0x0, 0x896000B1#64), (0x1008, 0x100000000#64), (0x1018, 0x100000000#64),
  (0x1028, 0x100000000#64), (0x1038, 0x100000000#64), (0x1048, 0x100000000#64),
  (0x1058, 0x100000000#64), (0x1068, 0x100000000#64), (0x1078, 0x100000000#64),
  (0x1088, 0x100000000#64), (0x1098, 0x100000000#64), (0x10A8, 0x100000000#64),
  (0x10B8, 0x100000000#64), (0x10C8, 0x100000000#64), (0x10D8, 0x100000000#64),
  (0x10E8, 0x100000000#64), (0x10F8, 0x100000000#64), (0x1108, 0x100000000#64),
  (0x1118, 0x100000000#64), (0x1128, 0x100000000#64), (0x1138, 0x100000000#64),
  (0x1148, 0x100000000#64), (0x1158, 0x100000000#64), (0x1168, 0x100000000#64),
  (0x1178, 0x100000000#64), (0x1188, 0x100000000#64), (0x1198, 0x100000000#64),
  (0x11A8, 0x100000000#64), (0x11B8, 0x100000000#64), (0x11C8, 0x100000000#64)] ++ [
  (0x11D8, 0x100000000#64), (0x11E8, 0x100000000#64), (0x11F8, 0x100000000#64),
  (0x1208, 0x100000000#64), (0x1218, 0x100000000#64), (0x1228, 0x100000000#64),
  (0x1238, 0x100000000#64), (0x1248, 0x100000000#64), (0x1258, 0x100000000#64),
  (0x1268, 0x100000000#64), (0x1278, 0x100000000#64), (0x1288, 0x100000000#64),
  (0x1298, 0x100000000#64), (0x12A8, 0x100000000#64), (0x12B8, 0x100000000#64),
  (0x12C8, 0x100000000#64), (0x12D8, 0x100000000#64), (0x12E8, 0x100000000#64),
  (0x12F8, 0x100000000#64), (0x1308, 0x100000000#64), (0x1318, 0x100000000#64),
  (0x1328, 0x100000000#64), (0x1338, 0x100000000#64), (0x1348, 0x100000000#64),
  (0x1358, 0x100000000#64), (0x1368, 0x100000000#64), (0x1378, 0x100000000#64),
  (0x1388, 0x100000000#64), (0x1398, 0x100000000#64), (0x13A8, 0x100000000#64)] ++ [
  (0x13B8, 0x100000000#64), (0x13C8, 0x100000000#64), (0x13D8, 0x100000000#64),
  (0x13E8, 0x100000000#64), (0x13F8, 0x100000000#64), (0x100000, 0x640064F300#64),
  (0x200000, 0x10084401#64), (0x200048, 0x4000000#64), (0x300000, 0xE6000000000001#64),
  (0x300020, 0x2A30049600000000#64), (0x300028, 0x6469780000000000#64), (0x300100, 0x52#64),
  (0x300108, 0x52#64), (0x300110, 0x52#64), (0x300118, 0x52#64),
  (0x300120, 0x52#64), (0x300128, 0x52#64), (0x300130, 0x52#64),
  (0x300138, 0x52#64), (0x300140, 0x52#64), (0x300148, 0x52#64),
  (0x300150, 0x52#64), (0x300158, 0x52#64), (0x400000, 0x7D0000000000000#64),
  (0x500000, 0x64000803E80000#64), (0x1000000, 0x3#64), (0x1100000, 0x3#64),
  (0x1200000, 0x3#64), (0x1300000, 0x3#64), (0x1400000, 0x3#64)] ++ [
  (0x1500000, 0x3#64), (0x1600000, 0x3#64), (0x1700000, 0x3#64),
  (0x2000000, 0x10FFF#64), (0x2000080, 0x40000000000000#64), (0x2000088, 0x40000000000000#64),
  (0x2000090, 0x40000000000000#64), (0x2000098, 0x40000000000000#64), (0x20000A0, 0x40000000000000#64),
  (0x20000A8, 0x40000000000000#64), (0x20000B0, 0x40000000000000#64), (0x20000B8, 0x40000000000000#64),
  (0x20000C0, 0x40000000000000#64), (0x20000C8, 0x40000000000000#64), (0x20000D0, 0x40000000000000#64),
  (0x20000D8, 0x40000000000000#64), (0x20000E0, 0x40000000000000#64), (0x20000E8, 0x40000000000000#64),
  (0x20000F0, 0x40000000000000#64), (0x20000F8, 0x40000000000000#64), (0x2100000, 0x3#64),
  (0x2100080, 0x40000000000000#64), (0x2100088, 0x40000000000000#64), (0x2100090, 0x40000000000000#64),
  (0x2100098, 0x40000000000000#64), (0x21000A0, 0x40000000000000#64), (0x21000A8, 0x40000000000000#64),
  (0x21000B0, 0x40000000000000#64), (0x21000B8, 0x40000000000000#64), (0x2200000, 0xFFFF#64)] ++ [
  (0x2200080, 0x40000000000000#64), (0x2200088, 0x40000000000000#64), (0x2200090, 0x40000000000000#64),
  (0x2200098, 0x40000000000000#64), (0x22000A0, 0x40000000000000#64), (0x22000A8, 0x40000000000000#64),
  (0x22000B0, 0x40000000000000#64), (0x22000B8, 0x40000000000000#64), (0x22000C0, 0x40000000000000#64),
  (0x22000C8, 0x40000000000000#64), (0x22000D0, 0x40000000000000#64), (0x22000D8, 0x40000000000000#64),
  (0x22000E0, 0x40000000000000#64), (0x22000E8, 0x40000000000000#64), (0x22000F0, 0x40000000000000#64),
  (0x22000F8, 0x40000000000000#64), (0x2300000, 0xF#64), (0x2300028, 0x1E4010001E0002#64),
  (0x2300080, 0x40000000000000#64), (0x2300088, 0x40000000000000#64), (0x2300090, 0x40000000000000#64),
  (0x2300098, 0x40000000000000#64), (0x23000A0, 0x40000000000000#64), (0x23000A8, 0x40000000000000#64),
  (0x23000B0, 0x40000000000000#64), (0x23000B8, 0x40000000000000#64), (0x2300300, 0x1111111100000000#64),
  (0x2300308, 0x3333333322222222#64), (0x2300310, 0x5555555544444444#64), (0x2300318, 0x7777777766666666#64)] ++ [
  (0x2400000, 0x1F40003010000A3#64), (0x3000000, 0x7#64), (0x3004108, 0x3C012C0E103200#64),
  (0x3200000, 0x5555#64), (0x3200008, 0x808FFFF00003200#64), (0x3200010, 0x3232323203200A04#64),
  (0x3400000, 0xFFFFFFFFFFFFFFFF#64), (0x3400010, 0x6400640A280500#64), (0x3400018, 0x5001400320014#64),
  (0x3408000, 0xE108000030C0801#64), (0x3408028, 0x96001400030D40#64), (0x3408030, 0xEA8#64),
  (0x3600000, 0x7D0001470007801#64), (0x3600200, 0x40000000000000#64), (0x3600208, 0x40000000000000#64),
  (0x3600210, 0x40000000000000#64), (0x3600218, 0x40000000000000#64), (0x3600220, 0x40000000000000#64),
  (0x3600228, 0x40000000000000#64), (0x3600230, 0x40000000000000#64), (0x3600238, 0x40000000000000#64),
  (0x3600240, 0x40000000000000#64), (0x3600248, 0x40000000000000#64), (0x3600250, 0x40000000000000#64),
  (0x3600258, 0x40000000000000#64), (0x3600260, 0x40000000000000#64), (0x3600268, 0x40000000000000#64),
  (0x3600270, 0x40000000000000#64), (0x3600278, 0x40000000000000#64), (0x3800000, 0x1#64)] ++ [
  (0x3C00000, 0x5001000000003#64), (0x3C00108, 0xFFFFFFFFFFFFFFFF#64)]

/-- The device when power-on reset has ended and START-UP has not begun (R12, R538). -/
def Dev.reset : Dev := { regs := resetRegs }

/-- The block right after reset: nothing waits. -/
def State.reset : State := { dev := Dev.reset, pending := [] }

end Sys2Proof.Machine
end

