-- ==== Sys2Proof/Machine/Ops.lean ====
section
/-!
DEFINITION. The named operations that every meaning is built from: sparse tables, register fields, memory bytes,
free values, what the device sends, and the frame of a command (`run`).
-/

namespace Sys2Proof.Machine

/-! ### Sparse tables -/

/-- What a table holds at a key; `d` is what an unlisted key reads as. -/
def tget {α : Type} (d : α) : Tab α → Nat → α
  | [], _ => d
  | (k', v) :: r, k => if k' = k then v else tget d r k

/-- Insert a pair before the first greater key. -/
def tins {α : Type} (k : Nat) (v : α) : Tab α → Tab α
  | [] => [(k, v)]
  | (k', v') :: r => if k < k' then (k, v) :: (k', v') :: r else (k', v') :: tins k v r

/-- A table without a key. -/
def tdel {α : Type} (k : Nat) (t : Tab α) : Tab α := t.filter fun p => p.1 != k

/-- Write a key; writing what an unlisted key reads as removes the entry. -/
def tset {α : Type} [DecidableEq α] (d : α) (t : Tab α) (k : Nat) (v : α) : Tab α :=
  if v = d then tdel k t else tins k v (tdel k t)

/-- Change what a key holds. -/
def tmod {α : Type} [DecidableEq α] (d : α) (t : Tab α) (k : Nat) (f : α → α) : Tab α :=
  tset d t k (f (tget d t k))

/-- The canonical form: keys strictly rising, no entry equal to the default. -/
def twf {α : Type} [DecidableEq α] (d : α) : Tab α → Bool
  | [] => true
  | (k, v) :: r => v ≠ d && r.all (fun p => k < p.1) && twf d r

/-- Apply a change for every number of a list, in order. -/
def forEach {σ : Type} (l : List Nat) (f : Nat → σ → σ) (s : σ) : σ := l.foldl (fun s n => f n s) s

/-- The numbers below `n` that satisfy a test. -/
def those (n : Nat) (p : Nat → Bool) : List Nat := (List.range n).filter p

/-! ### Registers -/

/-- The width of a field. -/
def Field.width (f : Field) : Nat := f.msb + 1 - f.lsb

/-- What a field of a 64-bit word reads as. -/
def wordFld (f : Field) (w : Word) : Nat := w.toNat / 2 ^ f.lsb % 2 ^ f.width

/-- A word with one field replaced (the value is taken modulo the field's size). -/
def wordSet (f : Field) (v : Nat) (w : Word) : Word :=
  BitVec.ofNat 64 (w.toNat - wordFld f w * 2 ^ f.lsb + v % 2 ^ f.width * 2 ^ f.lsb)

/-- What a register field reads as (R8). -/
def rd (f : Field) (d : Dev) : Nat := wordFld f (tget 0 d.regs f.off)

/-- Write a register field. -/
def wr (f : Field) (v : Nat) (d : Dev) : Dev :=
  { d with regs := tmod 0 d.regs f.off (wordSet f v) }

/-- A one-bit field as a truth value. -/
def rdb (f : Field) (d : Dev) : Bool := rd f d != 0

/-- Set a one-bit field. -/
def setb (f : Field) (d : Dev) : Dev := wr f 1 d

/-- Clear a field. -/
def clr (f : Field) (d : Dev) : Dev := wr f 0 d

/-- Set one bit of a field of several bits. -/
def setBit (f : Field) (n : Nat) (d : Dev) : Dev :=
  if bitOf (rd f d) n then d else wr f (rd f d + 2 ^ n) d

/-- Clear one bit of a field of several bits. -/
def clrBit (f : Field) (n : Nat) (d : Dev) : Dev :=
  if bitOf (rd f d) n then wr f (rd f d - 2 ^ n) d else d

/-- A whole register. -/
def rdReg (off : Nat) (d : Dev) : Word := tget 0 d.regs off

/-- Write a whole register. -/
def wrReg (off : Nat) (w : Word) (d : Dev) : Dev := { d with regs := tset 0 d.regs off w }

/-! ### Free values, choices and outputs -/

/-- Draw a fresh open number below `n` (0 when `n` is 0). -/
def drawNat (n : Nat) (d : Dev) : Nat × Dev := (Config.freeNat d.free % n, { d with free := d.free + 1 })

/-- Bytes cut, or filled with zeros, to a length. -/
def padTo (n : Nat) (b : Bytes) : Bytes := (b ++ List.replicate (n - b.length) 0).take n

/-- Draw fresh open bytes. -/
def drawBytes (len : Nat) (d : Dev) : Bytes × Dev := (padTo len (Config.freeBytes d.free len), { d with free := d.free + 1 })

/-- The device's own choice among candidates, which the spec leaves open; nothing when there is none. -/
def pickFree (l : List Nat) (d : Dev) : Option Nat × Dev :=
  match l with
  | [] => (none, d)
  | l => let (i, d) := drawNat l.length d; (l[i]?, d)

/-- Raise a counter field. Past the field's largest value the spec states no result: a free value. -/
def bumpBy (f : Field) (n : Nat) (d : Dev) : Dev :=
  if rd f d + n < 2 ^ f.width then wr f (rd f d + n) d
  else let (v, d) := drawNat (2 ^ f.width) d; wr f v d

/-- Raise a counter field by one. -/
def bump (f : Field) (d : Dev) : Dev := bumpBy f 1 d

/-- Raise a field that saturates. -/
def bumpSat (f : Field) (n : Nat) (d : Dev) : Dev := wr f (min (rd f d + n) (2 ^ f.width - 1)) d

/-- Send something outward. -/
def send (o : Out) (d : Dev) : Dev := { d with out := d.out ++ [o] }

/-- Send several things outward, in order. -/
def sendAll (l : List Out) (d : Dev) : Dev := { d with out := d.out ++ l }

/-! ### Memory: the pool and DRAM (R99) -/

/-- The first and the last address of the cached ranges of Table 4.1. -/
def poolBase : Nat := 0x10000000
def poolSize : Nat := 0xC000000
def dramBase : Nat := 0x40000000000
def dramSize : Nat := 0x40000000000

/-- An address in the pool's cached range. -/
def inPool (a : Nat) : Bool := poolBase ≤ a && a < poolBase + poolSize

/-- An address in DRAM's cached range. -/
def inDram (a : Nat) : Bool := dramBase ≤ a && a < dramBase + dramSize

/-- `n` bytes from an address lie whole in the pool or whole in DRAM. -/
def inMem (a n : Nat) : Bool :=
  (poolBase ≤ a && a + n ≤ poolBase + poolSize) || (dramBase ≤ a && a + n ≤ dramBase + dramSize)

/-- What a byte of memory that nothing has written reads as. -/
def memDefault : Byte := 0

/-- One byte. -/
def memByte (d : Dev) (a : Nat) : Byte := tget memDefault d.mem a

/-- `n` bytes from an address. -/
def memRead (d : Dev) (a n : Nat) : Bytes := (List.range n).map fun i => memByte d (a + i)

/-- Store one byte. -/
def memSetByte (a : Nat) (b : Byte) (d : Dev) : Dev := { d with mem := tset memDefault d.mem a b }

/-- Store bytes from an address. -/
def memWrite : Nat → Bytes → Dev → Dev
  | _, [], d => d
  | a, b :: bs, d => memWrite (a + 1) bs (memSetByte a b d)

/-- A little-endian number of `n` bytes (R7). -/
def memNat (d : Dev) (a n : Nat) : Nat := leNat (memRead d a n)

/-- Store a little-endian number of `n` bytes (R7). -/
def memWriteNat (a n v : Nat) (d : Dev) : Dev := memWrite a (leBytes n v) d

/-- The memory's canonical form. -/
def memWf (m : List Host.Cell) : Bool := twf memDefault m

/-! ### The frame of a command -/

/-- Every W1C bit of a block's status registers that raises the block's interrupt (R625): block number, register offset,
mask of W1C bits. -/
structure StatusMask where
  block : Nat
  off : Nat
  mask : Nat
  deriving DecidableEq, Repr

end Sys2Proof.Machine
end

