-- ==== Sys2Proof/Machine/Regs.lean ====
section
/-!
DEFINITION. The register fields of every block's register tables (spec/22_register_index.md, Table 22.4): one
`Field` per named field, and `fieldTable`, which gives each field's access code and the values it may hold (R8, R10).
Offsets, bit numbers and access codes are those of the spec's register tables.
-/

namespace Sys2Proof.Machine

/-- TMP_CTRL.PPS_WIDTH (Table 2.6; RW). -/
def Reg.TMP_CTRL_PPS_WIDTH : Field := ⟨0x100000, 47, 32⟩
/-- TMP_CTRL.LOCK_THR (Table 2.6; RW). -/
def Reg.TMP_CTRL_LOCK_THR : Field := ⟨0x100000, 31, 16⟩
/-- TMP_CTRL.MASTER_DEV (Table 2.6; RO). -/
def Reg.TMP_CTRL_MASTER_DEV : Field := ⟨0x100000, 15, 12⟩
/-- TMP_CTRL.PERIOD (Table 2.6; RO). -/
def Reg.TMP_CTRL_PERIOD : Field := ⟨0x100000, 11, 8⟩
/-- TMP_CTRL.SRC (Table 2.6; RW). -/
def Reg.TMP_CTRL_SRC : Field := ⟨0x100000, 7, 6⟩
/-- TMP_CTRL.PPS_OUT_EN (Table 2.6; RW). -/
def Reg.TMP_CTRL_PPS_OUT_EN : Field := ⟨0x100000, 5, 5⟩
/-- TMP_CTRL.STEP (Table 2.6; WO). -/
def Reg.TMP_CTRL_STEP : Field := ⟨0x100000, 4, 4⟩
/-- TMP_STATUS.LOCK (Table 2.7; RO). -/
def Reg.TMP_STATUS_LOCK : Field := ⟨0x100008, 15, 15⟩
/-- TMP_STATUS.HOLDOVER (Table 2.7; RO). -/
def Reg.TMP_STATUS_HOLDOVER : Field := ⟨0x100008, 14, 14⟩
/-- TMP_STATUS.ALIGNED (Table 2.7; RO). -/
def Reg.TMP_STATUS_ALIGNED : Field := ⟨0x100008, 13, 13⟩
/-- TMP_STATUS.IS_MASTER (Table 2.7; RO). -/
def Reg.TMP_STATUS_IS_MASTER : Field := ⟨0x100008, 12, 12⟩
/-- TMP_STATUS.MASTER (Table 2.7; RO). -/
def Reg.TMP_STATUS_MASTER : Field := ⟨0x100008, 10, 8⟩
/-- TMP_STATUS.TIME_SRC (Table 2.7; RO). -/
def Reg.TMP_STATUS_TIME_SRC : Field := ⟨0x100008, 7, 4⟩
/-- TMP_STATUS.PERIOD_CHK (Table 2.7; W1C). -/
def Reg.TMP_STATUS_PERIOD_CHK : Field := ⟨0x100008, 2, 2⟩
/-- TMP_STATUS.ALIGN_CHK (Table 2.7; W1C). -/
def Reg.TMP_STATUS_ALIGN_CHK : Field := ⟨0x100008, 1, 1⟩
/-- TMP_STATUS.LOCK_LOST (Table 2.7; W1C). -/
def Reg.TMP_STATUS_LOCK_LOST : Field := ⟨0x100008, 0, 0⟩
/-- TMP_NUMBER.NUMBER (Table 2.8; RO). -/
def Reg.TMP_NUMBER_NUMBER : Field := ⟨0x100010, 63, 0⟩
/-- TMP_SNAP.TAKE (Table 2.9; WO). -/
def Reg.TMP_SNAP_TAKE : Field := ⟨0x100018, 0, 0⟩
/-- TMP_SNAP_NUM.NUMBER (Table 2.10; RO). -/
def Reg.TMP_SNAP_NUM_NUMBER : Field := ⟨0x100020, 63, 0⟩
/-- TMP_SNAP_SEC.SEC (Table 2.10; RO). -/
def Reg.TMP_SNAP_SEC_SEC : Field := ⟨0x100028, 47, 0⟩
/-- TMP_SNAP_NS.NS (Table 2.10; RO). -/
def Reg.TMP_SNAP_NS_NS : Field := ⟨0x100030, 31, 0⟩
/-- TMP_FADJ.FADJ (Table 2.10; RW). -/
def Reg.TMP_FADJ_FADJ : Field := ⟨0x100038, 31, 0⟩
/-- TMP_PADJ.PADJ (Table 2.10; RW). -/
def Reg.TMP_PADJ_PADJ : Field := ⟨0x100040, 31, 0⟩
/-- TMP_SET_SEC.SEC (Table 2.10; RW). -/
def Reg.TMP_SET_SEC_SEC : Field := ⟨0x100048, 47, 0⟩
/-- TMP_SET_NS.NS (Table 2.10; RW). -/
def Reg.TMP_SET_NS_NS : Field := ⟨0x100050, 31, 0⟩
/-- TMP_OFFSET.OFFSET (Table 2.10; WO). -/
def Reg.TMP_OFFSET_OFFSET : Field := ⟨0x100058, 31, 0⟩
/-- TMP_PPS_CAPT.NS (Table 2.10; RO). -/
def Reg.TMP_PPS_CAPT_NS : Field := ⟨0x100060, 31, 0⟩
/-- TMP_OVR.LAST_UNIT (Table 2.10; RO). -/
def Reg.TMP_OVR_LAST_UNIT : Field := ⟨0x100068, 47, 32⟩
/-- TMP_OVR.COUNT (Table 2.10; RC). -/
def Reg.TMP_OVR_COUNT : Field := ⟨0x100068, 31, 0⟩
/-- TMP_ALIGN.OFS (Table 2.10; RO). -/
def Reg.TMP_ALIGN_OFS : Field := ⟨0x100070, 15, 0⟩
/-- FAB_CTRL.DEPTH_DAT (Table 3.7; RO). -/
def Reg.FAB_CTRL_DEPTH_DAT : Field := ⟨0x200000, 31, 24⟩
/-- FAB_CTRL.DEPTH_REQ (Table 3.7; RO). -/
def Reg.FAB_CTRL_DEPTH_REQ : Field := ⟨0x200000, 23, 16⟩
/-- FAB_CTRL.DEPTH_GO (Table 3.7; RO). -/
def Reg.FAB_CTRL_DEPTH_GO : Field := ⟨0x200000, 15, 12⟩
/-- FAB_CTRL.DEPTH_ACK (Table 3.7; RO). -/
def Reg.FAB_CTRL_DEPTH_ACK : Field := ⟨0x200000, 11, 8⟩
/-- FAB_CTRL.SCRUB_EN (Table 3.7; RW). -/
def Reg.FAB_CTRL_SCRUB_EN : Field := ⟨0x200000, 0, 0⟩
/-- FAB_STATUS.XING_CHK (Table 3.8; W1C). -/
def Reg.FAB_STATUS_XING_CHK : Field := ⟨0x200008, 5, 5⟩
/-- FAB_STATUS.PAIRED_CHK (Table 3.8; W1C). -/
def Reg.FAB_STATUS_PAIRED_CHK : Field := ⟨0x200008, 4, 4⟩
/-- FAB_STATUS.ECC_UE (Table 3.8; W1C). -/
def Reg.FAB_STATUS_ECC_UE : Field := ⟨0x200008, 3, 3⟩
/-- FAB_STATUS.CUT (Table 3.8; W1C). -/
def Reg.FAB_STATUS_CUT : Field := ⟨0x200008, 2, 2⟩
/-- FAB_STATUS.CREDIT_CHK (Table 3.8; W1C). -/
def Reg.FAB_STATUS_CREDIT_CHK : Field := ⟨0x200008, 1, 1⟩
/-- FAB_STATUS.RESYNC_BUSY (Table 3.8; RO). -/
def Reg.FAB_STATUS_RESYNC_BUSY : Field := ⟨0x200008, 0, 0⟩
/-- FAB_AUDIT.MISMATCHES (Table 3.9; RC). -/
def Reg.FAB_AUDIT_MISMATCHES : Field := ⟨0x200010, 47, 32⟩
/-- FAB_AUDIT.LAST_UNIT (Table 3.9; RO). -/
def Reg.FAB_AUDIT_LAST_UNIT : Field := ⟨0x200010, 21, 12⟩
/-- FAB_AUDIT.LAST_CLASS (Table 3.9; RO). -/
def Reg.FAB_AUDIT_LAST_CLASS : Field := ⟨0x200010, 11, 10⟩
/-- FAB_AUDIT.LAST_TEST (Table 3.9; RO). -/
def Reg.FAB_AUDIT_LAST_TEST : Field := ⟨0x200010, 9, 8⟩
/-- FAB_CUT.COUNT (Table 3.9; RC). -/
def Reg.FAB_CUT_COUNT : Field := ⟨0x200018, 47, 32⟩
/-- FAB_CUT.LATE (Table 3.9; RC). -/
def Reg.FAB_CUT_LATE : Field := ⟨0x200018, 31, 16⟩
/-- FAB_CUT.TARGET (Table 3.9; RO). -/
def Reg.FAB_CUT_TARGET : Field := ⟨0x200018, 15, 8⟩
/-- FAB_CUT.PORT (Table 3.9; RO). -/
def Reg.FAB_CUT_PORT : Field := ⟨0x200018, 6, 0⟩
/-- FAB_CUT_MAP0.PORTS (Table 3.9; W1C). -/
def Reg.FAB_CUT_MAP0_PORTS : Field := ⟨0x200020, 63, 0⟩
/-- FAB_CUT_MAP1.PORTS (Table 3.9; W1C). -/
def Reg.FAB_CUT_MAP1_PORTS : Field := ⟨0x200028, 63, 0⟩
/-- FAB_ECC.CE (Table 3.9; RC). -/
def Reg.FAB_ECC_CE : Field := ⟨0x200030, 63, 32⟩
/-- FAB_ECC.UE (Table 3.9; RC). -/
def Reg.FAB_ECC_UE : Field := ⟨0x200030, 31, 16⟩
/-- FAB_ECC.LAST_UNIT (Table 3.9; RO). -/
def Reg.FAB_ECC_LAST_UNIT : Field := ⟨0x200030, 9, 0⟩
/-- FAB_INJ.UNIT (Table 3.9; RW). -/
def Reg.FAB_INJ_UNIT : Field := ⟨0x200038, 23, 14⟩
/-- FAB_INJ.CLASS (Table 3.9; RW). -/
def Reg.FAB_INJ_CLASS : Field := ⟨0x200038, 13, 12⟩
/-- FAB_INJ.MASK (Table 3.9; RW). -/
def Reg.FAB_INJ_MASK : Field := ⟨0x200038, 11, 0⟩
/-- FAB_INJ_ARM.ARM (Table 3.9; W1S). -/
def Reg.FAB_INJ_ARM_ARM : Field := ⟨0x200040, 0, 0⟩
/-- FAB_SCRUB.INTERVAL (Table 3.9; RW). -/
def Reg.FAB_SCRUB_INTERVAL : Field := ⟨0x200048, 31, 16⟩
/-- FAB_SCRUB.PASSES (Table 3.9; RO). -/
def Reg.FAB_SCRUB_PASSES : Field := ⟨0x200048, 15, 0⟩
/-- FAB_XING.CHECKS (Table 3.9; RC). -/
def Reg.FAB_XING_CHECKS : Field := ⟨0x200050, 31, 24⟩
/-- FAB_XING.REGION_A (Table 3.9; RO). -/
def Reg.FAB_XING_REGION_A : Field := ⟨0x200050, 23, 20⟩
/-- FAB_XING.REGION_B (Table 3.9; RO). -/
def Reg.FAB_XING_REGION_B : Field := ⟨0x200050, 19, 16⟩
/-- FAB_XING.CAUSE (Table 3.9; RO). -/
def Reg.FAB_XING_CAUSE : Field := ⟨0x200050, 15, 12⟩
/-- FAB_XING.DV (Table 3.9; RO). -/
def Reg.FAB_XING_DV : Field := ⟨0x200050, 11, 0⟩
/-- FAB_CONS.CDT (Table 3.9; W1C). -/
def Reg.FAB_CONS_CDT : Field := ⟨0x200058, 6, 6⟩
/-- FAB_CONS.REF (Table 3.9; W1C). -/
def Reg.FAB_CONS_REF : Field := ⟨0x200058, 5, 5⟩
/-- FAB_CONS.CMD (Table 3.9; W1C). -/
def Reg.FAB_CONS_CMD : Field := ⟨0x200058, 4, 4⟩
/-- FAB_CONS.MISS (Table 3.9; W1C). -/
def Reg.FAB_CONS_MISS : Field := ⟨0x200058, 3, 3⟩
/-- FAB_CONS.POOL (Table 3.9; W1C). -/
def Reg.FAB_CONS_POOL : Field := ⟨0x200058, 2, 2⟩
/-- FAB_CONS.TOKEN (Table 3.9; W1C). -/
def Reg.FAB_CONS_TOKEN : Field := ⟨0x200058, 1, 1⟩
/-- FAB_CONS.CREDIT (Table 3.9; W1C). -/
def Reg.FAB_CONS_CREDIT : Field := ⟨0x200058, 0, 0⟩
/-- CLn_CTRL.FUNCTION (Table 4.6; RO). -/
def Reg.CL_CTRL_FUNCTION (n : Nat) : Field := ⟨0x1000000 + 0x100000 * n, 7, 4⟩
/-- CLn_CTRL.PF_EN (Table 4.6; RW). -/
def Reg.CL_CTRL_PF_EN (n : Nat) : Field := ⟨0x1000000 + 0x100000 * n, 1, 1⟩
/-- CLn_CTRL.L2_EN (Table 4.6; RW). -/
def Reg.CL_CTRL_L2_EN (n : Nat) : Field := ⟨0x1000000 + 0x100000 * n, 0, 0⟩
/-- CLn_STATUS.RANGE_DONE (Table 4.7; W1C). -/
def Reg.CL_STATUS_RANGE_DONE (n : Nat) : Field := ⟨0x1000008 + 0x100000 * n, 5, 5⟩
/-- CLn_STATUS.RANGE_BUSY (Table 4.7; RO). -/
def Reg.CL_STATUS_RANGE_BUSY (n : Nat) : Field := ⟨0x1000008 + 0x100000 * n, 4, 4⟩
/-- CLn_STATUS.DRAIN_DONE (Table 4.7; W1C). -/
def Reg.CL_STATUS_DRAIN_DONE (n : Nat) : Field := ⟨0x1000008 + 0x100000 * n, 3, 3⟩
/-- CLn_STATUS.L2_STATE (Table 4.7; RO). -/
def Reg.CL_STATUS_L2_STATE (n : Nat) : Field := ⟨0x1000008 + 0x100000 * n, 1, 0⟩
/-- CLn_L2_LOCK.MASK (Table 4.8; RW). -/
def Reg.CL_L2_LOCK_MASK (n : Nat) : Field := ⟨0x1000010 + 0x100000 * n, 15, 0⟩
/-- CLn_RANGE_BASE.BASE (Table 4.8; RW). -/
def Reg.CL_RANGE_BASE_BASE (n : Nat) : Field := ⟨0x1000018 + 0x100000 * n, 43, 0⟩
/-- CLn_RANGE_LEN.LEN (Table 4.8; RW). -/
def Reg.CL_RANGE_LEN_LEN (n : Nat) : Field := ⟨0x1000020 + 0x100000 * n, 22, 0⟩
/-- CLn_RANGE_OP.IGNORED (Table 4.8; RC). -/
def Reg.CL_RANGE_OP_IGNORED (n : Nat) : Field := ⟨0x1000028 + 0x100000 * n, 31, 16⟩
/-- CLn_RANGE_OP.RESULT (Table 4.8; RO). -/
def Reg.CL_RANGE_OP_RESULT (n : Nat) : Field := ⟨0x1000028 + 0x100000 * n, 15, 14⟩
/-- CLn_RANGE_OP.WAY (Table 4.8; RW). -/
def Reg.CL_RANGE_OP_WAY (n : Nat) : Field := ⟨0x1000028 + 0x100000 * n, 11, 8⟩
/-- CLn_RANGE_OP.OP (Table 4.8; RW). -/
def Reg.CL_RANGE_OP_OP (n : Nat) : Field := ⟨0x1000028 + 0x100000 * n, 2, 1⟩
/-- CLn_RANGE_OP.GO (Table 4.8; W1S). -/
def Reg.CL_RANGE_OP_GO (n : Nat) : Field := ⟨0x1000028 + 0x100000 * n, 0, 0⟩
/-- CLn_L2_CNT.LOCKED_INVAL (Table 4.8; RC). -/
def Reg.CL_L2_CNT_LOCKED_INVAL (n : Nat) : Field := ⟨0x1000030 + 0x100000 * n, 63, 32⟩
/-- CLn_L2_CNT.PREFETCHES (Table 4.8; RC). -/
def Reg.CL_L2_CNT_PREFETCHES (n : Nat) : Field := ⟨0x1000030 + 0x100000 * n, 31, 0⟩
/-- CLn_L2_HIT.HITS (Table 4.8; RC). -/
def Reg.CL_L2_HIT_HITS (n : Nat) : Field := ⟨0x1000038 + 0x100000 * n, 63, 0⟩
/-- CLn_L2_MISS.MISSES (Table 4.8; RC). -/
def Reg.CL_L2_MISS_MISSES (n : Nat) : Field := ⟨0x1000040 + 0x100000 * n, 63, 0⟩
/-- CLn_ENG_STATE.STATE (Table 4.8; RO). -/
def Reg.CL_ENG_STATE_STATE (n : Nat) : Field := ⟨0x1000048 + 0x100000 * n, 15, 0⟩
/-- CLn_TQ_BAD.COUNT (Table 4.8; RC). -/
def Reg.CL_TQ_BAD_COUNT (n : Nat) : Field := ⟨0x1000050 + 0x100000 * n, 31, 0⟩
/-- CLn_TQ_BASEk.BASE (Table 4.8; RO). -/
def Reg.CL_TQ_BASE_BASE (n : Nat) (k : Nat) : Field := ⟨0x1000100 + 0x100000 * n + 0x8 * k, 43, 0⟩
/-- GLB_KING.LAST_GAP (Table 4.9; RO). -/
def Reg.GLB_KING_LAST_GAP : Field := ⟨0x100, 47, 32⟩
/-- GLB_KING.GAPS (Table 4.9; RC). -/
def Reg.GLB_KING_GAPS : Field := ⟨0x100, 31, 24⟩
/-- GLB_KING.RESOLVE (Table 4.9; RO). -/
def Reg.GLB_KING_RESOLVE : Field := ⟨0x100, 3, 2⟩
/-- GLB_KING.SPLIT (Table 4.9; RO). -/
def Reg.GLB_KING_SPLIT : Field := ⟨0x100, 1, 1⟩
/-- GLB_KING.ACTIVE (Table 4.9; RO). -/
def Reg.GLB_KING_ACTIVE : Field := ⟨0x100, 0, 0⟩
/-- NVF_CTRL.FABRIC_FWDL (Table 5.10; RO). -/
def Reg.NVF_CTRL_FABRIC_FWDL : Field := ⟨0x3000000, 3, 3⟩
/-- NVF_CTRL.DISC_EN (Table 5.10; RW). -/
def Reg.NVF_CTRL_DISC_EN : Field := ⟨0x3000000, 2, 2⟩
/-- NVF_CTRL.TCP_EN (Table 5.10; RO). -/
def Reg.NVF_CTRL_TCP_EN : Field := ⟨0x3000000, 1, 1⟩
/-- NVF_CTRL.RDMA_EN (Table 5.10; RO). -/
def Reg.NVF_CTRL_RDMA_EN : Field := ⟨0x3000000, 0, 0⟩
/-- NVF_STATUS.PAUSE_VIOL (Table 5.11; W1C). -/
def Reg.NVF_STATUS_PAUSE_VIOL : Field := ⟨0x3000008, 2, 2⟩
/-- NVF_STATUS.FETCH_CHK (Table 5.11; W1C). -/
def Reg.NVF_STATUS_FETCH_CHK : Field := ⟨0x3000008, 1, 1⟩
/-- NVF_STATUS.CMD_CHK (Table 5.11; W1C). -/
def Reg.NVF_STATUS_CMD_CHK : Field := ⟨0x3000008, 0, 0⟩
/-- NVF_CTX.OPEN (Table 5.12; RO). -/
def Reg.NVF_CTX_OPEN : Field := ⟨0x3000010, 50, 32⟩
/-- NVF_CTX.RESIDENT (Table 5.12; RO). -/
def Reg.NVF_CTX_RESIDENT : Field := ⟨0x3000010, 14, 0⟩
/-- NVF_CTX_MISS.MISSES (Table 5.12; RC). -/
def Reg.NVF_CTX_MISS_MISSES : Field := ⟨0x3000018, 63, 32⟩
/-- NVF_CTX_MISS.SLOW (Table 5.12; RC). -/
def Reg.NVF_CTX_MISS_SLOW : Field := ⟨0x3000018, 15, 0⟩
/-- NVF_LEN.SGL (Table 5.12; RC). -/
def Reg.NVF_LEN_SGL : Field := ⟨0x3000020, 63, 32⟩
/-- NVF_LEN.TRANSPORT (Table 5.12; RC). -/
def Reg.NVF_LEN_TRANSPORT : Field := ⟨0x3000020, 31, 0⟩
/-- NVF_LEN_LAST.DECLARED (Table 5.12; RO). -/
def Reg.NVF_LEN_LAST_DECLARED : Field := ⟨0x3000028, 63, 32⟩
/-- NVF_LEN_LAST.SEEN (Table 5.12; RO). -/
def Reg.NVF_LEN_LAST_SEEN : Field := ⟨0x3000028, 31, 0⟩
/-- NVF_PI.GUARD (Table 5.12; RC). -/
def Reg.NVF_PI_GUARD : Field := ⟨0x3000030, 63, 48⟩
/-- NVF_PI.APP (Table 5.12; RC). -/
def Reg.NVF_PI_APP : Field := ⟨0x3000030, 47, 32⟩
/-- NVF_PI.REF (Table 5.12; RC). -/
def Reg.NVF_PI_REF : Field := ⟨0x3000030, 31, 16⟩
/-- NVF_CMD_OUT.OUTSTANDING (Table 5.12; RO). -/
def Reg.NVF_CMD_OUT_OUTSTANDING : Field := ⟨0x3000038, 31, 0⟩
/-- NVF_CMD_ACC.ACCEPTED (Table 5.12; RO). -/
def Reg.NVF_CMD_ACC_ACCEPTED : Field := ⟨0x3000040, 63, 0⟩
/-- NVF_CMD_TERM.TERMINAL (Table 5.12; RO). -/
def Reg.NVF_CMD_TERM_TERMINAL : Field := ⟨0x3000048, 63, 0⟩
/-- NVF_ABORT.REQUESTS (Table 5.12; RC). -/
def Reg.NVF_ABORT_REQUESTS : Field := ⟨0x3000050, 31, 0⟩
/-- NVF_MISSn.PAUSES (Table 5.12; RC). -/
def Reg.NVF_MISS_PAUSES (n : Nat) : Field := ⟨0x3000100 + 0x8 * n, 63, 48⟩
/-- NVF_MISSn.HIGH (Table 5.12; RC). -/
def Reg.NVF_MISS_HIGH (n : Nat) : Field := ⟨0x3000100 + 0x8 * n, 39, 20⟩
/-- NVF_MISSn.OCC (Table 5.12; RO). -/
def Reg.NVF_MISS_OCC (n : Nat) : Field := ⟨0x3000100 + 0x8 * n, 19, 0⟩
/-- ETH_PORTCFG.GROUPg (Table 5.13; RO). -/
def Reg.ETH_PORTCFG_GROUP (g : Nat) : Field := ⟨0x3200000, 2 * g + 1, 2 * g⟩
/-- ETH_PFC.LOSSLESS (Table 5.14; RO). -/
def Reg.ETH_PFC_LOSSLESS : Field := ⟨0x3200008, 63, 56⟩
/-- ETH_PFC.WRITE_PRIO (Table 5.14; RO). -/
def Reg.ETH_PFC_WRITE_PRIO : Field := ⟨0x3200008, 55, 48⟩
/-- ETH_PFC.QUANTA (Table 5.14; RW). -/
def Reg.ETH_PFC_QUANTA : Field := ⟨0x3200008, 47, 32⟩
/-- ETH_PFC.XON_PCT (Table 5.14; RW). -/
def Reg.ETH_PFC_XON_PCT : Field := ⟨0x3200008, 15, 8⟩
/-- ETH_ECN.MISS_CE_PCT (Table 5.15; RW). -/
def Reg.ETH_ECN_MISS_CE_PCT : Field := ⟨0x3200010, 63, 56⟩
/-- ETH_ECN.CNP_GAP (Table 5.15; RW). -/
def Reg.ETH_ECN_CNP_GAP : Field := ⟨0x3200010, 55, 48⟩
/-- ETH_ECN.CUT_GAP (Table 5.15; RW). -/
def Reg.ETH_ECN_CUT_GAP : Field := ⟨0x3200010, 47, 40⟩
/-- ETH_ECN.RAISE_INT (Table 5.15; RW). -/
def Reg.ETH_ECN_RAISE_INT : Field := ⟨0x3200010, 39, 32⟩
/-- ETH_ECN.RAISE_STEP (Table 5.15; RW). -/
def Reg.ETH_ECN_RAISE_STEP : Field := ⟨0x3200010, 31, 20⟩
/-- ETH_ECN.RATE_MIN (Table 5.15; RW). -/
def Reg.ETH_ECN_RATE_MIN : Field := ⟨0x3200010, 19, 8⟩
/-- ETH_ECN.BETA (Table 5.15; RW). -/
def Reg.ETH_ECN_BETA : Field := ⟨0x3200010, 3, 0⟩
/-- ETH_LINKn.FEC_UNCORR (Table 5.16; RC). -/
def Reg.ETH_LINK_FEC_UNCORR (n : Nat) : Field := ⟨0x3200100 + 0x8 * n, 63, 48⟩
/-- ETH_LINKn.RETRAINS (Table 5.16; RC). -/
def Reg.ETH_LINK_RETRAINS (n : Nat) : Field := ⟨0x3200100 + 0x8 * n, 31, 16⟩
/-- ETH_LINKn.SPEED (Table 5.16; RO). -/
def Reg.ETH_LINK_SPEED (n : Nat) : Field := ⟨0x3200100 + 0x8 * n, 3, 2⟩
/-- ETH_LINKn.PAUSED (Table 5.16; RO). -/
def Reg.ETH_LINK_PAUSED (n : Nat) : Field := ⟨0x3200100 + 0x8 * n, 1, 1⟩
/-- ETH_LINKn.UP (Table 5.16; RO). -/
def Reg.ETH_LINK_UP (n : Nat) : Field := ⟨0x3200100 + 0x8 * n, 0, 0⟩
/-- ETH_DROPn.LEN (Table 5.16; RC). -/
def Reg.ETH_DROP_LEN (n : Nat) : Field := ⟨0x3200200 + 0x8 * n, 63, 48⟩
/-- ETH_DROPn.FCS (Table 5.16; RC). -/
def Reg.ETH_DROP_FCS (n : Nat) : Field := ⟨0x3200200 + 0x8 * n, 47, 32⟩
/-- ETH_DROPn.STALE (Table 5.16; RC). -/
def Reg.ETH_DROP_STALE (n : Nat) : Field := ⟨0x3200200 + 0x8 * n, 31, 16⟩
/-- ETH_DROPn.PAUSE_VIOL (Table 5.16; RC). -/
def Reg.ETH_DROP_PAUSE_VIOL (n : Nat) : Field := ⟨0x3200200 + 0x8 * n, 15, 0⟩
/-- FIU_CTRL.PROBE_TMO (Table 7.8; RW). -/
def Reg.FIU_CTRL_PROBE_TMO : Field := ⟨0x2400000, 63, 48⟩
/-- FIU_CTRL.SAMPLE_MASK (Table 7.8; RO). -/
def Reg.FIU_CTRL_SAMPLE_MASK : Field := ⟨0x2400000, 39, 32⟩
/-- FIU_CTRL.SCRUB_RATE (Table 7.8; RW). -/
def Reg.FIU_CTRL_SCRUB_RATE : Field := ⟨0x2400000, 31, 16⟩
/-- FIU_CTRL.BKT_BITS (Table 7.8; RO). -/
def Reg.FIU_CTRL_BKT_BITS : Field := ⟨0x2400000, 7, 3⟩
/-- FIU_CTRL.SCRUB_EN (Table 7.8; RW). -/
def Reg.FIU_CTRL_SCRUB_EN : Field := ⟨0x2400000, 1, 1⟩
/-- FIU_CTRL.EN (Table 7.8; RO). -/
def Reg.FIU_CTRL_EN : Field := ⟨0x2400000, 0, 0⟩
/-- FIU_STATUS.SAMPLING (Table 7.9; RO). -/
def Reg.FIU_STATUS_SAMPLING : Field := ⟨0x2400008, 7, 7⟩
/-- FIU_STATUS.REBUILDING (Table 7.9; RO). -/
def Reg.FIU_STATUS_REBUILDING : Field := ⟨0x2400008, 6, 6⟩
/-- FIU_STATUS.AUDIT_CHK (Table 7.9; W1C). -/
def Reg.FIU_STATUS_AUDIT_CHK : Field := ⟨0x2400008, 2, 2⟩
/-- FIU_STATUS.TAG_MISM (Table 7.9; W1C). -/
def Reg.FIU_STATUS_TAG_MISM : Field := ⟨0x2400008, 1, 1⟩
/-- FIU_STATUS.TMO (Table 7.9; W1C). -/
def Reg.FIU_STATUS_TMO : Field := ⟨0x2400008, 0, 0⟩
/-- FIU_POP.POPULATION (Table 7.10; RO). -/
def Reg.FIU_POP_POPULATION : Field := ⟨0x2400010, 47, 0⟩
/-- FIU_LIMIT.LIMIT (Table 7.10; RO). -/
def Reg.FIU_LIMIT_LIMIT : Field := ⟨0x2400018, 47, 0⟩
/-- FIU_PRB.HITS (Table 7.10; RC). -/
def Reg.FIU_PRB_HITS : Field := ⟨0x2400020, 63, 32⟩
/-- FIU_PRB.MISSES (Table 7.10; RC). -/
def Reg.FIU_PRB_MISSES : Field := ⟨0x2400020, 31, 0⟩
/-- FIU_PRB2.UNAVAIL (Table 7.10; RC). -/
def Reg.FIU_PRB2_UNAVAIL : Field := ⟨0x2400028, 63, 32⟩
/-- FIU_PRB2.FILTER_NEG (Table 7.10; RC). -/
def Reg.FIU_PRB2_FILTER_NEG : Field := ⟨0x2400028, 31, 0⟩
/-- FIU_INS.OK (Table 7.10; RC). -/
def Reg.FIU_INS_OK : Field := ⟨0x2400030, 63, 32⟩
/-- FIU_INS.REFUSED (Table 7.10; RC). -/
def Reg.FIU_INS_REFUSED : Field := ⟨0x2400030, 31, 0⟩
/-- FIU_INS2.DUPLICATE (Table 7.10; RC). -/
def Reg.FIU_INS2_DUPLICATE : Field := ⟨0x2400038, 63, 32⟩
/-- FIU_INS2.FULL (Table 7.10; RC). -/
def Reg.FIU_INS2_FULL : Field := ⟨0x2400038, 31, 0⟩
/-- FIU_PIN.DROPS (Table 7.10; RC). -/
def Reg.FIU_PIN_DROPS : Field := ⟨0x2400040, 63, 32⟩
/-- FIU_PIN.RETIRING (Table 7.10; RO). -/
def Reg.FIU_PIN_RETIRING : Field := ⟨0x2400040, 31, 0⟩
/-- FIU_STALE.REMOVED (Table 7.10; RC). -/
def Reg.FIU_STALE_REMOVED : Field := ⟨0x2400048, 63, 32⟩
/-- FIU_STALE.LATE (Table 7.10; RC). -/
def Reg.FIU_STALE_LATE : Field := ⟨0x2400048, 31, 0⟩
/-- FIU_AUD.PASSES (Table 7.10; RO). -/
def Reg.FIU_AUD_PASSES : Field := ⟨0x2400050, 63, 48⟩
/-- FIU_AUD.SHORT (Table 7.10; RC). -/
def Reg.FIU_AUD_SHORT : Field := ⟨0x2400050, 47, 32⟩
/-- FIU_AUD.EXCESS (Table 7.10; RC). -/
def Reg.FIU_AUD_EXCESS : Field := ⟨0x2400050, 31, 16⟩
/-- FIU_AUD.DOUBT (Table 7.10; RC). -/
def Reg.FIU_AUD_DOUBT : Field := ⟨0x2400050, 15, 0⟩
/-- FIU_OWN_VER.VERSION (Table 7.10; RO). -/
def Reg.FIU_OWN_VER_VERSION : Field := ⟨0x2400060, 31, 0⟩
/-- FIU_OWN_APPLY.TEMPO (Table 7.10; RW). -/
def Reg.FIU_OWN_APPLY_TEMPO : Field := ⟨0x2400068, 63, 0⟩
/-- FIU_RINGr.CLUSTERS (Table 7.10; RO). -/
def Reg.FIU_RING_CLUSTERS (r : Nat) : Field := ⟨0x2400080 + 0x8 * r, 63, 56⟩
/-- FIU_RINGr.BASE (Table 7.10; RO). -/
def Reg.FIU_RING_BASE (r : Nat) : Field := ⟨0x2400080 + 0x8 * r, 43, 0⟩
/-- FIU_OWNn.OWNERj (Table 7.10; RO). -/
def Reg.FIU_OWN_OWNER (n : Nat) (j : Nat) : Field := ⟨0x2401000 + 0x8 * n, 8 * j + 7, 8 * j⟩
/-- FIU_OWN_STGn.OWNERj (Table 7.10; RW). -/
def Reg.FIU_OWN_STG_OWNER (n : Nat) (j : Nat) : Field := ⟨0x2402000 + 0x8 * n, 8 * j + 7, 8 * j⟩
/-- CMP_CTRL.LANE_EN (Table 8.11; RW). -/
def Reg.CMP_CTRL_LANE_EN : Field := ⟨0x2200000, 15, 0⟩
/-- CMP_STATUS.FORMAT_N (Table 8.12; W1C). -/
def Reg.CMP_STATUS_FORMAT_N : Field := ⟨0x2200008, 34, 34⟩
/-- CMP_STATUS.LEN_N (Table 8.12; W1C). -/
def Reg.CMP_STATUS_LEN_N : Field := ⟨0x2200008, 33, 33⟩
/-- CMP_STATUS.LANE_CHK (Table 8.12; W1C). -/
def Reg.CMP_STATUS_LANE_CHK : Field := ⟨0x2200008, 32, 32⟩
/-- CMP_STATUS.QUAR (Table 8.12; RO). -/
def Reg.CMP_STATUS_QUAR : Field := ⟨0x2200008, 31, 16⟩
/-- CMP_STATUS.BUSY (Table 8.12; RO). -/
def Reg.CMP_STATUS_BUSY : Field := ⟨0x2200008, 15, 0⟩
/-- CMP_CNT.JOBS (Table 8.13; RC). -/
def Reg.CMP_CNT_JOBS : Field := ⟨0x2200010, 63, 32⟩
/-- CMP_CNT.OUT_FULL (Table 8.13; RC). -/
def Reg.CMP_CNT_OUT_FULL : Field := ⟨0x2200010, 31, 0⟩
/-- CMP_ERR.LEN (Table 8.13; RC). -/
def Reg.CMP_ERR_LEN : Field := ⟨0x2200018, 63, 48⟩
/-- CMP_ERR.FORMAT (Table 8.13; RC). -/
def Reg.CMP_ERR_FORMAT : Field := ⟨0x2200018, 47, 32⟩
/-- CMP_ERR.XSUM (Table 8.13; RC). -/
def Reg.CMP_ERR_XSUM : Field := ⟨0x2200018, 31, 16⟩
/-- CMP_ERR.SELF (Table 8.13; RC). -/
def Reg.CMP_ERR_SELF : Field := ⟨0x2200018, 15, 0⟩
/-- CMP_LAST.DECLARED (Table 8.13; RO). -/
def Reg.CMP_LAST_DECLARED : Field := ⟨0x2200020, 63, 32⟩
/-- CMP_LAST.SEEN (Table 8.13; RO). -/
def Reg.CMP_LAST_SEEN : Field := ⟨0x2200020, 31, 0⟩
/-- CMP_LAST2.LSIDE (Table 8.13; RO). -/
def Reg.CMP_LAST2_LSIDE : Field := ⟨0x2200028, 7, 7⟩
/-- CMP_LAST2.LANE (Table 8.13; RO). -/
def Reg.CMP_LAST2_LANE : Field := ⟨0x2200028, 3, 0⟩
/-- CMP_INJ.ARM (Table 8.13; W1S). -/
def Reg.CMP_INJ_ARM : Field := ⟨0x2200030, 8, 8⟩
/-- CMP_INJ.LANE (Table 8.13; RW). -/
def Reg.CMP_INJ_LANE : Field := ⟨0x2200030, 3, 0⟩
/-- CMP_RINGr.CLUSTERS (Table 8.13; RO). -/
def Reg.CMP_RING_CLUSTERS (r : Nat) : Field := ⟨0x2200080 + 0x8 * r, 63, 56⟩
/-- CMP_RINGr.PRIO (Table 8.13; RO). -/
def Reg.CMP_RING_PRIO (r : Nat) : Field := ⟨0x2200080 + 0x8 * r, 55, 54⟩
/-- CMP_RINGr.BASE (Table 8.13; RO). -/
def Reg.CMP_RING_BASE (r : Nat) : Field := ⟨0x2200080 + 0x8 * r, 43, 0⟩
/-- CMP_RPTRr.PROD (Table 8.13; RO). -/
def Reg.CMP_RPTR_PROD (r : Nat) : Field := ⟨0x2200100 + 0x8 * r, 31, 16⟩
/-- CMP_RPTRr.CONS (Table 8.13; RO). -/
def Reg.CMP_RPTR_CONS (r : Nat) : Field := ⟨0x2200100 + 0x8 * r, 15, 0⟩
/-- DIG_CTRL.PIPE_EN (Table 8.14; RW). -/
def Reg.DIG_CTRL_PIPE_EN : Field := ⟨0x2100000, 1, 0⟩
/-- DIG_STATUS.LEN_N (Table 8.15; W1C). -/
def Reg.DIG_STATUS_LEN_N : Field := ⟨0x2100008, 6, 6⟩
/-- DIG_STATUS.UNWRAP_N (Table 8.15; W1C). -/
def Reg.DIG_STATUS_UNWRAP_N : Field := ⟨0x2100008, 5, 5⟩
/-- DIG_STATUS.PIPE_CHK (Table 8.15; W1C). -/
def Reg.DIG_STATUS_PIPE_CHK : Field := ⟨0x2100008, 4, 4⟩
/-- DIG_STATUS.QUAR (Table 8.15; RO). -/
def Reg.DIG_STATUS_QUAR : Field := ⟨0x2100008, 3, 2⟩
/-- DIG_STATUS.BUSY (Table 8.15; RO). -/
def Reg.DIG_STATUS_BUSY : Field := ⟨0x2100008, 1, 0⟩
/-- DIG_CNT.JOBS (Table 8.16; RC). -/
def Reg.DIG_CNT_JOBS : Field := ⟨0x2100010, 63, 32⟩
/-- DIG_CNT.VERIFY_FAIL (Table 8.16; RC). -/
def Reg.DIG_CNT_VERIFY_FAIL : Field := ⟨0x2100010, 31, 0⟩
/-- DIG_ERR.LEN (Table 8.16; RC). -/
def Reg.DIG_ERR_LEN : Field := ⟨0x2100018, 63, 48⟩
/-- DIG_ERR.UNWRAP (Table 8.16; RC). -/
def Reg.DIG_ERR_UNWRAP : Field := ⟨0x2100018, 47, 32⟩
/-- DIG_ERR.MALFORMED (Table 8.16; RC). -/
def Reg.DIG_ERR_MALFORMED : Field := ⟨0x2100018, 31, 16⟩
/-- DIG_ERR.SELF (Table 8.16; RC). -/
def Reg.DIG_ERR_SELF : Field := ⟨0x2100018, 15, 0⟩
/-- DIG_LAST.DECLARED (Table 8.16; RO). -/
def Reg.DIG_LAST_DECLARED : Field := ⟨0x2100020, 63, 32⟩
/-- DIG_LAST.SEEN (Table 8.16; RO). -/
def Reg.DIG_LAST_SEEN : Field := ⟨0x2100020, 31, 0⟩
/-- DIG_KEYSTAT.LOADED (Table 8.16; RO). -/
def Reg.DIG_KEYSTAT_LOADED : Field := ⟨0x2100028, 7, 0⟩
/-- DIG_INJ.ARM (Table 8.16; W1S). -/
def Reg.DIG_INJ_ARM : Field := ⟨0x2100030, 8, 8⟩
/-- DIG_INJ.PIPE (Table 8.16; RW). -/
def Reg.DIG_INJ_PIPE : Field := ⟨0x2100030, 0, 0⟩
/-- DIG_RINGr.CLUSTERS (Table 8.16; RO). -/
def Reg.DIG_RING_CLUSTERS (r : Nat) : Field := ⟨0x2100080 + 0x8 * r, 63, 56⟩
/-- DIG_RINGr.PRIO (Table 8.16; RO). -/
def Reg.DIG_RING_PRIO (r : Nat) : Field := ⟨0x2100080 + 0x8 * r, 55, 54⟩
/-- DIG_RINGr.BASE (Table 8.16; RO). -/
def Reg.DIG_RING_BASE (r : Nat) : Field := ⟨0x2100080 + 0x8 * r, 43, 0⟩
/-- DIG_RPTRr.PROD (Table 8.16; RO). -/
def Reg.DIG_RPTR_PROD (r : Nat) : Field := ⟨0x2100100 + 0x8 * r, 31, 16⟩
/-- DIG_RPTRr.CONS (Table 8.16; RO). -/
def Reg.DIG_RPTR_CONS (r : Nat) : Field := ⟨0x2100100 + 0x8 * r, 15, 0⟩
/-- CIP_CTRL.PREEMPT_EN (Table 9.10; RW). -/
def Reg.CIP_CTRL_PREEMPT_EN : Field := ⟨0x2000000, 16, 16⟩
/-- CIP_CTRL.LANE_EN (Table 9.10; RW). -/
def Reg.CIP_CTRL_LANE_EN : Field := ⟨0x2000000, 11, 0⟩
/-- CIP_STATUS.KPAIRED (Table 9.11; W1C). -/
def Reg.CIP_STATUS_KPAIRED : Field := ⟨0x2000008, 36, 36⟩
/-- CIP_STATUS.SEAL_N (Table 9.11; W1C). -/
def Reg.CIP_STATUS_SEAL_N : Field := ⟨0x2000008, 35, 35⟩
/-- CIP_STATUS.VAULT_N (Table 9.11; W1C). -/
def Reg.CIP_STATUS_VAULT_N : Field := ⟨0x2000008, 34, 34⟩
/-- CIP_STATUS.LEN_N (Table 9.11; W1C). -/
def Reg.CIP_STATUS_LEN_N : Field := ⟨0x2000008, 33, 33⟩
/-- CIP_STATUS.LANE_CHK (Table 9.11; W1C). -/
def Reg.CIP_STATUS_LANE_CHK : Field := ⟨0x2000008, 32, 32⟩
/-- CIP_STATUS.QUAR (Table 9.11; RO). -/
def Reg.CIP_STATUS_QUAR : Field := ⟨0x2000008, 27, 16⟩
/-- CIP_STATUS.BUSY (Table 9.11; RO). -/
def Reg.CIP_STATUS_BUSY : Field := ⟨0x2000008, 11, 0⟩
/-- CIP_CNT.JOBS (Table 9.12; RC). -/
def Reg.CIP_CNT_JOBS : Field := ⟨0x2000010, 63, 32⟩
/-- CIP_CNT.TAG_FAIL (Table 9.12; RC). -/
def Reg.CIP_CNT_TAG_FAIL : Field := ⟨0x2000010, 31, 0⟩
/-- CIP_ERR.LEN (Table 9.12; RC). -/
def Reg.CIP_ERR_LEN : Field := ⟨0x2000018, 63, 48⟩
/-- CIP_ERR.MALFORMED (Table 9.12; RC). -/
def Reg.CIP_ERR_MALFORMED : Field := ⟨0x2000018, 47, 32⟩
/-- CIP_ERR.NOKEY (Table 9.12; RC). -/
def Reg.CIP_ERR_NOKEY : Field := ⟨0x2000018, 31, 16⟩
/-- CIP_ERR.SELF (Table 9.12; RC). -/
def Reg.CIP_ERR_SELF : Field := ⟨0x2000018, 15, 0⟩
/-- CIP_LAST.DECLARED (Table 9.12; RO). -/
def Reg.CIP_LAST_DECLARED : Field := ⟨0x2000020, 63, 32⟩
/-- CIP_LAST.SEEN (Table 9.12; RO). -/
def Reg.CIP_LAST_SEEN : Field := ⟨0x2000020, 31, 0⟩
/-- CIP_LAST2.LANE (Table 9.12; RO). -/
def Reg.CIP_LAST2_LANE : Field := ⟨0x2000028, 3, 0⟩
/-- CIP_PREEMPT.PREEMPTS (Table 9.12; RC). -/
def Reg.CIP_PREEMPT_PREEMPTS : Field := ⟨0x2000030, 63, 32⟩
/-- CIP_PREEMPT.HELD (Table 9.12; RO). -/
def Reg.CIP_PREEMPT_HELD : Field := ⟨0x2000030, 4, 0⟩
/-- CIP_SEAL.VIOL (Table 9.12; RC). -/
def Reg.CIP_SEAL_VIOL : Field := ⟨0x2000038, 63, 32⟩
/-- CIP_SEAL.MAP (Table 9.12; RO). -/
def Reg.CIP_SEAL_MAP : Field := ⟨0x2000038, 15, 0⟩
/-- CIP_INJ.ARM (Table 9.12; W1S). -/
def Reg.CIP_INJ_ARM : Field := ⟨0x2000040, 8, 8⟩
/-- CIP_INJ.LANE (Table 9.12; RW). -/
def Reg.CIP_INJ_LANE : Field := ⟨0x2000040, 3, 0⟩
/-- CIP_KLOAD.SLOT (Table 9.12; RW). -/
def Reg.CIP_KLOAD_SLOT : Field := ⟨0x2000048, 39, 32⟩
/-- CIP_KLOAD.SOURCE (Table 9.12; RW). -/
def Reg.CIP_KLOAD_SOURCE : Field := ⟨0x2000048, 31, 28⟩
/-- CIP_KLOAD.GEN (Table 9.12; RW). -/
def Reg.CIP_KLOAD_GEN : Field := ⟨0x2000048, 27, 20⟩
/-- CIP_KLOAD.INDEX (Table 9.12; RW). -/
def Reg.CIP_KLOAD_INDEX : Field := ⟨0x2000048, 19, 8⟩
/-- CIP_KLOAD.GO (Table 9.12; W1S). -/
def Reg.CIP_KLOAD_GO : Field := ⟨0x2000048, 0, 0⟩
/-- CIP_KLOAD_ST.BUSY (Table 9.12; RO). -/
def Reg.CIP_KLOAD_ST_BUSY : Field := ⟨0x2000050, 7, 7⟩
/-- CIP_KLOAD_ST.RESULT (Table 9.12; RO). -/
def Reg.CIP_KLOAD_ST_RESULT : Field := ⟨0x2000050, 3, 0⟩
/-- CIP_RINGr.CLUSTERS (Table 9.12; RO). -/
def Reg.CIP_RING_CLUSTERS (r : Nat) : Field := ⟨0x2000080 + 0x8 * r, 63, 56⟩
/-- CIP_RINGr.PRIO (Table 9.12; RO). -/
def Reg.CIP_RING_PRIO (r : Nat) : Field := ⟨0x2000080 + 0x8 * r, 55, 54⟩
/-- CIP_RINGr.BASE (Table 9.12; RO). -/
def Reg.CIP_RING_BASE (r : Nat) : Field := ⟨0x2000080 + 0x8 * r, 43, 0⟩
/-- CIP_RPTRr.PROD (Table 9.12; RO). -/
def Reg.CIP_RPTR_PROD (r : Nat) : Field := ⟨0x2000100 + 0x8 * r, 31, 16⟩
/-- CIP_RPTRr.CONS (Table 9.12; RO). -/
def Reg.CIP_RPTR_CONS (r : Nat) : Field := ⟨0x2000100 + 0x8 * r, 15, 0⟩
/-- CIP_KINFOn.LOADSEQ (Table 9.12; RO). -/
def Reg.CIP_KINFO_LOADSEQ (n : Nat) : Field := ⟨0x2001000 + 0x8 * n, 63, 48⟩
/-- CIP_KINFOn.GEN (Table 9.12; RO). -/
def Reg.CIP_KINFO_GEN (n : Nat) : Field := ⟨0x2001000 + 0x8 * n, 39, 32⟩
/-- CIP_KINFOn.INDEX (Table 9.12; RO). -/
def Reg.CIP_KINFO_INDEX (n : Nat) : Field := ⟨0x2001000 + 0x8 * n, 31, 20⟩
/-- CIP_KINFOn.KIND (Table 9.12; RO). -/
def Reg.CIP_KINFO_KIND (n : Nat) : Field := ⟨0x2001000 + 0x8 * n, 15, 13⟩
/-- CIP_KINFOn.CLASS (Table 9.12; RO). -/
def Reg.CIP_KINFO_CLASS (n : Nat) : Field := ⟨0x2001000 + 0x8 * n, 12, 12⟩
/-- CIP_KINFOn.SIZE (Table 9.12; RO). -/
def Reg.CIP_KINFO_SIZE (n : Nat) : Field := ⟨0x2001000 + 0x8 * n, 11, 10⟩
/-- MDL_FT_GC.AHALF (Table 11.10; RW). -/
def Reg.MDL_FT_GC_AHALF : Field := ⟨0x3408000, 63, 48⟩
/-- MDL_FT_GC.KW (Table 11.10; RW). -/
def Reg.MDL_FT_GC_KW : Field := ⟨0x3408000, 47, 40⟩
/-- MDL_FT_GC.CRIT_PCT (Table 11.10; RW). -/
def Reg.MDL_FT_GC_CRIT_PCT : Field := ⟨0x3408000, 31, 24⟩
/-- MDL_FT_GC.HIGH_PCT (Table 11.10; RW). -/
def Reg.MDL_FT_GC_HIGH_PCT : Field := ⟨0x3408000, 23, 16⟩
/-- MDL_FT_GC.LOW_PCT (Table 11.10; RW). -/
def Reg.MDL_FT_GC_LOW_PCT : Field := ⟨0x3408000, 15, 8⟩
/-- MDL_FT_GC.GC_EN (Table 11.10; RW). -/
def Reg.MDL_FT_GC_GC_EN : Field := ⟨0x3408000, 0, 0⟩
/-- MDL_FT_STATUS.CRIT (Table 11.11; RO). -/
def Reg.MDL_FT_STATUS_CRIT : Field := ⟨0x3408008, 7, 7⟩
/-- MDL_FT_STATUS.MD_STALL (Table 11.11; W1C). -/
def Reg.MDL_FT_STATUS_MD_STALL : Field := ⟨0x3408008, 6, 6⟩
/-- MDL_FT_STATUS.TT_OVERRUN (Table 11.11; W1C). -/
def Reg.MDL_FT_STATUS_TT_OVERRUN : Field := ⟨0x3408008, 5, 5⟩
/-- MDL_FT_STATUS.TT_LOST (Table 11.11; W1C). -/
def Reg.MDL_FT_STATUS_TT_LOST : Field := ⟨0x3408008, 4, 4⟩
/-- MDL_FT_STATUS.PARITY (Table 11.11; W1C). -/
def Reg.MDL_FT_STATUS_PARITY : Field := ⟨0x3408008, 3, 3⟩
/-- MDL_FT_STATUS.MEMBER_WEAR (Table 11.11; W1C). -/
def Reg.MDL_FT_STATUS_MEMBER_WEAR : Field := ⟨0x3408008, 2, 2⟩
/-- MDL_FT_STATUS.GATE (Table 11.11; W1C). -/
def Reg.MDL_FT_STATUS_GATE : Field := ⟨0x3408008, 1, 1⟩
/-- MDL_FT_STATUS.GC_ACTIVE (Table 11.11; RO). -/
def Reg.MDL_FT_STATUS_GC_ACTIVE : Field := ⟨0x3408008, 0, 0⟩
/-- MDL_FT_CNT.MOVED (Table 11.11; RC). -/
def Reg.MDL_FT_CNT_MOVED : Field := ⟨0x3408010, 63, 32⟩
/-- MDL_FT_CNT.SEGS (Table 11.11; RC). -/
def Reg.MDL_FT_CNT_SEGS : Field := ⟨0x3408010, 31, 16⟩
/-- MDL_FT_CNT.RETIRED (Table 11.11; RC). -/
def Reg.MDL_FT_CNT_RETIRED : Field := ⟨0x3408010, 15, 0⟩
/-- MDL_FT_LAST.SEG (Table 11.11; RO). -/
def Reg.MDL_FT_LAST_SEG : Field := ⟨0x3408018, 63, 24⟩
/-- MDL_FT_LAST.SCORE (Table 11.11; RO). -/
def Reg.MDL_FT_LAST_SCORE : Field := ⟨0x3408018, 23, 0⟩
/-- MDL_FT_EGATE.REFUSED (Table 11.11; RC). -/
def Reg.MDL_FT_EGATE_REFUSED : Field := ⟨0x3408020, 63, 44⟩
/-- MDL_FT_EGATE.BASE (Table 11.11; RO). -/
def Reg.MDL_FT_EGATE_BASE : Field := ⟨0x3408020, 43, 0⟩
/-- MDL_FT_RET.PE_PCT (Table 11.11; RW). -/
def Reg.MDL_FT_RET_PE_PCT : Field := ⟨0x3408028, 63, 48⟩
/-- MDL_FT_RET.MEMBER_PCT (Table 11.11; RW). -/
def Reg.MDL_FT_RET_MEMBER_PCT : Field := ⟨0x3408028, 47, 32⟩
/-- MDL_FT_RET.RD_LIMIT (Table 11.11; RW). -/
def Reg.MDL_FT_RET_RD_LIMIT : Field := ⟨0x3408028, 31, 0⟩
/-- MDL_FT_SCRUB.AGE_MAX (Table 11.11; RW). -/
def Reg.MDL_FT_SCRUB_AGE_MAX : Field := ⟨0x3408030, 15, 8⟩
/-- MDL_FT_SCRUB.PERIOD (Table 11.11; RW). -/
def Reg.MDL_FT_SCRUB_PERIOD : Field := ⟨0x3408030, 7, 0⟩
/-- MDL_FT_TT.SEQ (Table 11.11; RO). -/
def Reg.MDL_FT_TT_SEQ : Field := ⟨0x3408038, 63, 32⟩
/-- MDL_FT_TT.MS (Table 11.11; RO). -/
def Reg.MDL_FT_TT_MS : Field := ⟨0x3408038, 31, 16⟩
/-- MDL_FT_TT.PHASE (Table 11.11; RO). -/
def Reg.MDL_FT_TT_PHASE : Field := ⟨0x3408038, 1, 0⟩
/-- MDL_FT_TTCAP.CAP (Table 11.11; RO). -/
def Reg.MDL_FT_TTCAP_CAP : Field := ⟨0x3408040, 63, 32⟩
/-- MDL_FT_TTCAP.SLOTS (Table 11.11; RO). -/
def Reg.MDL_FT_TTCAP_SLOTS : Field := ⟨0x3408040, 31, 0⟩
/-- MDL_FT_POOLp.TOTAL (Table 11.11; RO). -/
def Reg.MDL_FT_POOL_TOTAL (p : Nat) : Field := ⟨0x3408100 + 0x8 * p, 63, 32⟩
/-- MDL_FT_POOLp.FREE (Table 11.11; RO). -/
def Reg.MDL_FT_POOL_FREE (p : Nat) : Field := ⟨0x3408100 + 0x8 * p, 31, 0⟩
/-- MDL_TMR.HEALTH (Table 12.9; RW). -/
def Reg.MDL_TMR_HEALTH : Field := ⟨0x3400010, 63, 48⟩
/-- MDL_TMR.DEAD (Table 12.9; RW). -/
def Reg.MDL_TMR_DEAD : Field := ⟨0x3400010, 47, 32⟩
/-- MDL_TMR.KEEP (Table 12.9; RW). -/
def Reg.MDL_TMR_KEEP : Field := ⟨0x3400010, 31, 24⟩
/-- MDL_TMR.REPLAY (Table 12.9; RW). -/
def Reg.MDL_TMR_REPLAY : Field := ⟨0x3400010, 23, 16⟩
/-- MDL_TMR.ACK_DLY (Table 12.9; RW). -/
def Reg.MDL_TMR_ACK_DLY : Field := ⟨0x3400010, 15, 8⟩
/-- MDL_LANE_EN.EN (Table 12.10; RW). -/
def Reg.MDL_LANE_EN_EN : Field := ⟨0x3400000, 63, 0⟩
/-- MDL_CTRL.MAX16 (Table 12.10; RW). -/
def Reg.MDL_CTRL_MAX16 : Field := ⟨0x3400008, 1, 1⟩
/-- MDL_CTRL.PLN_CLEAR (Table 12.10; WO). -/
def Reg.MDL_CTRL_PLN_CLEAR : Field := ⟨0x3400008, 0, 0⟩
/-- MDL_TMO.READ (Table 12.10; RW). -/
def Reg.MDL_TMO_READ : Field := ⟨0x3400018, 63, 48⟩
/-- MDL_TMO.PROG (Table 12.10; RW). -/
def Reg.MDL_TMO_PROG : Field := ⟨0x3400018, 47, 32⟩
/-- MDL_TMO.ERASE (Table 12.10; RW). -/
def Reg.MDL_TMO_ERASE : Field := ⟨0x3400018, 31, 16⟩
/-- MDL_TMO.FENCE (Table 12.10; RW). -/
def Reg.MDL_TMO_FENCE : Field := ⟨0x3400018, 15, 0⟩
/-- MDL_STATUS.VERSION_N (Table 12.10; W1C). -/
def Reg.MDL_STATUS_VERSION_N : Field := ⟨0x3400020, 5, 5⟩
/-- MDL_STATUS.GEOMETRY_N (Table 12.10; W1C). -/
def Reg.MDL_STATUS_GEOMETRY_N : Field := ⟨0x3400020, 4, 4⟩
/-- MDL_STATUS.PAIRED_CHK (Table 12.10; W1C). -/
def Reg.MDL_STATUS_PAIRED_CHK : Field := ⟨0x3400020, 3, 3⟩
/-- MDL_STATUS.WIRING_CHK (Table 12.10; W1C). -/
def Reg.MDL_STATUS_WIRING_CHK : Field := ⟨0x3400020, 2, 2⟩
/-- MDL_STATUS.LINK_CHK (Table 12.10; W1C). -/
def Reg.MDL_STATUS_LINK_CHK : Field := ⟨0x3400020, 1, 1⟩
/-- MDL_STATUS.PRESENCE (Table 12.10; W1C). -/
def Reg.MDL_STATUS_PRESENCE : Field := ⟨0x3400020, 0, 0⟩
/-- MDL_LEN_LAST.DECLARED (Table 12.10; RO). -/
def Reg.MDL_LEN_LAST_DECLARED : Field := ⟨0x3400028, 63, 32⟩
/-- MDL_LEN_LAST.SEEN (Table 12.10; RO). -/
def Reg.MDL_LEN_LAST_SEEN : Field := ⟨0x3400028, 31, 0⟩
/-- MDL_LEN_LAST2.LANE (Table 12.10; RO). -/
def Reg.MDL_LEN_LAST2_LANE : Field := ⟨0x3400030, 15, 10⟩
/-- MDL_LEN_LAST2.TAG (Table 12.10; RO). -/
def Reg.MDL_LEN_LAST2_TAG : Field := ⟨0x3400030, 9, 0⟩
/-- MDL_PRESENT.LANES (Table 12.10; RO). -/
def Reg.MDL_PRESENT_LANES : Field := ⟨0x3400040, 63, 0⟩
/-- MDL_INJ.ARM (Table 12.10; W1S). -/
def Reg.MDL_INJ_ARM : Field := ⟨0x3400048, 8, 8⟩
/-- MDL_INJ.LANE (Table 12.10; RW). -/
def Reg.MDL_INJ_LANE : Field := ⟨0x3400048, 5, 0⟩
/-- MDL_LANEn.TIMEOUTS (Table 12.11; RC). -/
def Reg.MDL_LANE_TIMEOUTS (n : Nat) : Field := ⟨0x3400100 + 0x8 * n, 63, 48⟩
/-- MDL_LANEn.REPLAYS (Table 12.11; RC). -/
def Reg.MDL_LANE_REPLAYS (n : Nat) : Field := ⟨0x3400100 + 0x8 * n, 47, 32⟩
/-- MDL_LANEn.RETRAINS (Table 12.11; RC). -/
def Reg.MDL_LANE_RETRAINS (n : Nat) : Field := ⟨0x3400100 + 0x8 * n, 31, 16⟩
/-- MDL_LANEn.PLN_IN (Table 12.11; RO). -/
def Reg.MDL_LANE_PLN_IN (n : Nat) : Field := ⟨0x3400100 + 0x8 * n, 5, 5⟩
/-- MDL_LANEn.PORT (Table 12.11; RO). -/
def Reg.MDL_LANE_PORT (n : Nat) : Field := ⟨0x3400100 + 0x8 * n, 4, 4⟩
/-- MDL_LANEn.SPEED (Table 12.11; RO). -/
def Reg.MDL_LANE_SPEED (n : Nat) : Field := ⟨0x3400100 + 0x8 * n, 3, 3⟩
/-- MDL_LANEn.STATE (Table 12.11; RO). -/
def Reg.MDL_LANE_STATE (n : Nat) : Field := ⟨0x3400100 + 0x8 * n, 2, 0⟩
/-- MDL_ERRn.CRC (Table 12.11; RC). -/
def Reg.MDL_ERR_CRC (n : Nat) : Field := ⟨0x3400300 + 0x8 * n, 63, 48⟩
/-- MDL_ERRn.LEN (Table 12.11; RC). -/
def Reg.MDL_ERR_LEN (n : Nat) : Field := ⟨0x3400300 + 0x8 * n, 47, 32⟩
/-- MDL_ERRn.NAKS (Table 12.11; RC). -/
def Reg.MDL_ERR_NAKS (n : Nat) : Field := ⟨0x3400300 + 0x8 * n, 31, 16⟩
/-- MDL_ERRn.LATE (Table 12.11; RC). -/
def Reg.MDL_ERR_LATE (n : Nat) : Field := ⟨0x3400300 + 0x8 * n, 15, 0⟩
/-- MDL_TEMPn.TEMP (Table 12.11; RO). -/
def Reg.MDL_TEMP_TEMP (n : Nat) : Field := ⟨0x3400500 + 0x8 * n, 15, 0⟩
/-- MDL_FENCEn.WORD (Table 12.11; RO). -/
def Reg.MDL_FENCE_WORD (n : Nat) : Field := ⟨0x3400700 + 0x8 * n, 63, 0⟩
/-- ERS_CTRL.LANE_EN (Table 13.6; RW). -/
def Reg.ERS_CTRL_LANE_EN : Field := ⟨0x2300000, 3, 0⟩
/-- ERS_STATUS.LOST_CHK (Table 13.7; W1C). -/
def Reg.ERS_STATUS_LOST_CHK : Field := ⟨0x2300008, 12, 12⟩
/-- ERS_STATUS.MEMBER_CHK (Table 13.7; W1C). -/
def Reg.ERS_STATUS_MEMBER_CHK : Field := ⟨0x2300008, 11, 11⟩
/-- ERS_STATUS.UNBAL_N (Table 13.7; W1C). -/
def Reg.ERS_STATUS_UNBAL_N : Field := ⟨0x2300008, 10, 10⟩
/-- ERS_STATUS.LANE_CHK (Table 13.7; W1C). -/
def Reg.ERS_STATUS_LANE_CHK : Field := ⟨0x2300008, 9, 9⟩
/-- ERS_STATUS.REBUILDING (Table 13.7; RO). -/
def Reg.ERS_STATUS_REBUILDING : Field := ⟨0x2300008, 8, 8⟩
/-- ERS_STATUS.QUAR (Table 13.7; RO). -/
def Reg.ERS_STATUS_QUAR : Field := ⟨0x2300008, 7, 4⟩
/-- ERS_STATUS.BUSY (Table 13.7; RO). -/
def Reg.ERS_STATUS_BUSY : Field := ⟨0x2300008, 3, 0⟩
/-- ERS_CNT.JOBS (Table 13.8; RC). -/
def Reg.ERS_CNT_JOBS : Field := ⟨0x2300010, 63, 32⟩
/-- ERS_CNT.VERIFY_FAIL (Table 13.8; RC). -/
def Reg.ERS_CNT_VERIFY_FAIL : Field := ⟨0x2300010, 31, 0⟩
/-- ERS_ERR.MALFORMED (Table 13.8; RC). -/
def Reg.ERS_ERR_MALFORMED : Field := ⟨0x2300018, 63, 48⟩
/-- ERS_ERR.POISON (Table 13.8; RC). -/
def Reg.ERS_ERR_POISON : Field := ⟨0x2300018, 47, 32⟩
/-- ERS_ERR.CUT (Table 13.8; RC). -/
def Reg.ERS_ERR_CUT : Field := ⟨0x2300018, 31, 16⟩
/-- ERS_ERR.SELF (Table 13.8; RC). -/
def Reg.ERS_ERR_SELF : Field := ⟨0x2300018, 15, 0⟩
/-- ERS_INJ.ARM (Table 13.8; W1S). -/
def Reg.ERS_INJ_ARM : Field := ⟨0x2300020, 8, 8⟩
/-- ERS_INJ.LANE (Table 13.8; RW). -/
def Reg.ERS_INJ_LANE : Field := ⟨0x2300020, 1, 0⟩
/-- ERS_RB.RATE (Table 13.8; RW). -/
def Reg.ERS_RB_RATE : Field := ⟨0x2300028, 63, 48⟩
/-- ERS_RB.INFLIGHT (Table 13.8; RW). -/
def Reg.ERS_RB_INFLIGHT : Field := ⟨0x2300028, 47, 40⟩
/-- ERS_RB.SEGS (Table 13.8; RW). -/
def Reg.ERS_RB_SEGS : Field := ⟨0x2300028, 39, 32⟩
/-- ERS_RB.GRACE (Table 13.8; RW). -/
def Reg.ERS_RB_GRACE : Field := ⟨0x2300028, 31, 16⟩
/-- ERS_RB.SPARE (Table 13.8; RO). -/
def Reg.ERS_RB_SPARE : Field := ⟨0x2300028, 1, 0⟩
/-- ERS_RB_ST.SEGS_LEFT (Table 13.8; RO). -/
def Reg.ERS_RB_ST_SEGS_LEFT : Field := ⟨0x2300030, 63, 32⟩
/-- ERS_RB_ST.PHASE (Table 13.8; RO). -/
def Reg.ERS_RB_ST_PHASE : Field := ⟨0x2300030, 7, 6⟩
/-- ERS_RB_ST.MEMBER (Table 13.8; RO). -/
def Reg.ERS_RB_ST_MEMBER : Field := ⟨0x2300030, 5, 0⟩
/-- ERS_RB_ROWS.DONE (Table 13.8; RC). -/
def Reg.ERS_RB_ROWS_DONE : Field := ⟨0x2300038, 63, 0⟩
/-- ERS_LOSS.LOST (Table 13.8; RC). -/
def Reg.ERS_LOSS_LOST : Field := ⟨0x2300040, 63, 32⟩
/-- ERS_LOSS.ROWS (Table 13.8; RC). -/
def Reg.ERS_LOSS_ROWS : Field := ⟨0x2300040, 31, 16⟩
/-- ERS_LOSS.OVERFLOW (Table 13.8; RC). -/
def Reg.ERS_LOSS_OVERFLOW : Field := ⟨0x2300040, 15, 0⟩
/-- ERS_LOSS_CUR.COUNT (Table 13.8; RO). -/
def Reg.ERS_LOSS_CUR_COUNT : Field := ⟨0x2300048, 47, 32⟩
/-- ERS_LOSS_CUR.POOL (Table 13.8; RW). -/
def Reg.ERS_LOSS_CUR_POOL : Field := ⟨0x2300048, 20, 16⟩
/-- ERS_LOSS_CUR.INDEX (Table 13.8; RW). -/
def Reg.ERS_LOSS_CUR_INDEX : Field := ⟨0x2300048, 9, 0⟩
/-- ERS_LOSS_DATAj.BYTES (Table 13.8; RO). -/
def Reg.ERS_LOSS_DATA_BYTES (j : Nat) : Field := ⟨0x2300050 + 0x8 * j, 63, 0⟩
/-- ERS_RINGr.CLUSTERS (Table 13.8; RO). -/
def Reg.ERS_RING_CLUSTERS (r : Nat) : Field := ⟨0x2300080 + 0x8 * r, 63, 56⟩
/-- ERS_RINGr.PRIO (Table 13.8; RO). -/
def Reg.ERS_RING_PRIO (r : Nat) : Field := ⟨0x2300080 + 0x8 * r, 55, 54⟩
/-- ERS_RINGr.BASE (Table 13.8; RO). -/
def Reg.ERS_RING_BASE (r : Nat) : Field := ⟨0x2300080 + 0x8 * r, 43, 0⟩
/-- ERS_RPTRr.PROD (Table 13.8; RO). -/
def Reg.ERS_RPTR_PROD (r : Nat) : Field := ⟨0x2300100 + 0x8 * r, 31, 16⟩
/-- ERS_RPTRr.CONS (Table 13.8; RO). -/
def Reg.ERS_RPTR_CONS (r : Nat) : Field := ⟨0x2300100 + 0x8 * r, 15, 0⟩
/-- ERS_LAYOUTp.LINES (Table 13.8; RO). -/
def Reg.ERS_LAYOUT_LINES (p : Nat) : Field := ⟨0x2300200 + 0x8 * p, 63, 48⟩
/-- ERS_LAYOUTp.SEED (Table 13.8; RO). -/
def Reg.ERS_LAYOUT_SEED (p : Nat) : Field := ⟨0x2300200 + 0x8 * p, 47, 40⟩
/-- ERS_LAYOUTp.GEN (Table 13.8; RO). -/
def Reg.ERS_LAYOUT_GEN (p : Nat) : Field := ⟨0x2300200 + 0x8 * p, 39, 32⟩
/-- ERS_LAYOUTp.FILE_CAP (Table 13.8; RO). -/
def Reg.ERS_LAYOUT_FILE_CAP (p : Nat) : Field := ⟨0x2300200 + 0x8 * p, 31, 24⟩
/-- ERS_LAYOUTp.W (Table 13.8; RO). -/
def Reg.ERS_LAYOUT_W (p : Nat) : Field := ⟨0x2300200 + 0x8 * p, 23, 16⟩
/-- ERS_LAYOUTp.MEMBERS (Table 13.8; RO). -/
def Reg.ERS_LAYOUT_MEMBERS (p : Nat) : Field := ⟨0x2300200 + 0x8 * p, 15, 8⟩
/-- ERS_LAYOUTp.BALANCED (Table 13.8; RO). -/
def Reg.ERS_LAYOUT_BALANCED (p : Nat) : Field := ⟨0x2300200 + 0x8 * p, 0, 0⟩
/-- ERS_FILEn.FILEj (Table 13.8; RO). -/
def Reg.ERS_FILE_FILE (n : Nat) (j : Nat) : Field := ⟨0x2300300 + 0x8 * n, 4 * j + 3, 4 * j⟩
/-- NVF_SNAP_CMD.SSEQ (Table 14.6; RW). -/
def Reg.NVF_SNAP_CMD_SSEQ : Field := ⟨0x3004000, 63, 32⟩
/-- NVF_SNAP_CMD.ACT (Table 14.6; RW). -/
def Reg.NVF_SNAP_CMD_ACT : Field := ⟨0x3004000, 7, 4⟩
/-- NVF_SNAP_CMD.GO (Table 14.6; W1S). -/
def Reg.NVF_SNAP_CMD_GO : Field := ⟨0x3004000, 0, 0⟩
/-- NVF_SNAP_ARG.NSID2 (Table 14.6; RW). -/
def Reg.NVF_SNAP_ARG_NSID2 : Field := ⟨0x3004008, 63, 32⟩
/-- NVF_SNAP_ARG.NSID (Table 14.6; RW). -/
def Reg.NVF_SNAP_ARG_NSID : Field := ⟨0x3004008, 31, 0⟩
/-- NVF_SNAP_LIST.COUNT (Table 14.6; RW). -/
def Reg.NVF_SNAP_LIST_COUNT : Field := ⟨0x3004010, 62, 56⟩
/-- NVF_SNAP_LIST.ADDR (Table 14.6; RW). -/
def Reg.NVF_SNAP_LIST_ADDR : Field := ⟨0x3004010, 43, 0⟩
/-- NVF_SNAP_RES.VALUE (Table 14.6; RO). -/
def Reg.NVF_SNAP_RES_VALUE : Field := ⟨0x3004018, 63, 32⟩
/-- NVF_SNAP_RES.BUSY (Table 14.6; RO). -/
def Reg.NVF_SNAP_RES_BUSY : Field := ⟨0x3004018, 7, 7⟩
/-- NVF_SNAP_RES.RESULT (Table 14.6; RO). -/
def Reg.NVF_SNAP_RES_RESULT : Field := ⟨0x3004018, 3, 0⟩
/-- NVF_REP_SEL.MODE (Table 14.6; RW). -/
def Reg.NVF_REP_SEL_MODE : Field := ⟨0x3004100, 29, 28⟩
/-- NVF_REP_SEL.PEER (Table 14.6; RW). -/
def Reg.NVF_REP_SEL_PEER : Field := ⟨0x3004100, 21, 16⟩
/-- NVF_REP_SEL.REL (Table 14.6; RW). -/
def Reg.NVF_REP_SEL_REL : Field := ⟨0x3004100, 11, 0⟩
/-- NVF_REP_CFG.RPO (Table 14.6; RW). -/
def Reg.NVF_REP_CFG_RPO : Field := ⟨0x3004108, 63, 48⟩
/-- NVF_REP_CFG.INTERVAL (Table 14.6; RW). -/
def Reg.NVF_REP_CFG_INTERVAL : Field := ⟨0x3004108, 47, 32⟩
/-- NVF_REP_CFG.ANCHOR (Table 14.6; RW). -/
def Reg.NVF_REP_CFG_ANCHOR : Field := ⟨0x3004108, 31, 16⟩
/-- NVF_REP_CFG.REPAIR_TMO (Table 14.6; RW). -/
def Reg.NVF_REP_CFG_REPAIR_TMO : Field := ⟨0x3004108, 15, 8⟩
/-- NVF_REP_CFG.THROTTLE (Table 14.6; RW). -/
def Reg.NVF_REP_CFG_THROTTLE : Field := ⟨0x3004108, 0, 0⟩
/-- NVF_REP_ST.LAG (Table 14.6; RO). -/
def Reg.NVF_REP_ST_LAG : Field := ⟨0x3004110, 63, 32⟩
/-- NVF_REP_ST.ROLE (Table 14.6; RO). -/
def Reg.NVF_REP_ST_ROLE : Field := ⟨0x3004110, 7, 7⟩
/-- NVF_REP_ST.MODE (Table 14.6; RO). -/
def Reg.NVF_REP_ST_MODE : Field := ⟨0x3004110, 6, 6⟩
/-- NVF_REP_ST.STATE (Table 14.6; RO). -/
def Reg.NVF_REP_ST_STATE : Field := ⟨0x3004110, 2, 0⟩
/-- NVF_REP_PKT.TAG_FAIL (Table 14.6; RC). -/
def Reg.NVF_REP_PKT_TAG_FAIL : Field := ⟨0x3004118, 63, 32⟩
/-- NVF_REP_PKT.NO_SESSION (Table 14.6; RC). -/
def Reg.NVF_REP_PKT_NO_SESSION : Field := ⟨0x3004118, 31, 0⟩
/-- NVF_REP_STATUS.FP_CHK (Table 14.6; W1C). -/
def Reg.NVF_REP_STATUS_FP_CHK : Field := ⟨0x3004120, 2, 2⟩
/-- NVF_REP_STATUS.RPO_CHK (Table 14.6; W1C). -/
def Reg.NVF_REP_STATUS_RPO_CHK : Field := ⟨0x3004120, 1, 1⟩
/-- NVF_REP_STATUS.TAG_N (Table 14.6; W1C). -/
def Reg.NVF_REP_STATUS_TAG_N : Field := ⟨0x3004120, 0, 0⟩
/-- CDT_CTRL.MAX_AGE (Table 15.9; RO). -/
def Reg.CDT_CTRL_MAX_AGE : Field := ⟨0x3600000, 63, 48⟩
/-- CDT_CTRL.RTO (Table 15.9; RW). -/
def Reg.CDT_CTRL_RTO : Field := ⟨0x3600000, 47, 32⟩
/-- CDT_CTRL.RETRY (Table 15.9; RW). -/
def Reg.CDT_CTRL_RETRY : Field := ⟨0x3600000, 31, 28⟩
/-- CDT_CTRL.VLAN (Table 15.9; RO). -/
def Reg.CDT_CTRL_VLAN : Field := ⟨0x3600000, 27, 16⟩
/-- CDT_CTRL.PCP_DATA (Table 15.9; RO). -/
def Reg.CDT_CTRL_PCP_DATA : Field := ⟨0x3600000, 15, 13⟩
/-- CDT_CTRL.PCP_CTRL (Table 15.9; RO). -/
def Reg.CDT_CTRL_PCP_CTRL : Field := ⟨0x3600000, 12, 10⟩
/-- CDT_CTRL.DEV (Table 15.9; RO). -/
def Reg.CDT_CTRL_DEV : Field := ⟨0x3600000, 6, 4⟩
/-- CDT_CTRL.EN (Table 15.9; RO). -/
def Reg.CDT_CTRL_EN : Field := ⟨0x3600000, 0, 0⟩
/-- CDT_STATUS.CLASH_CHK (Table 15.10; W1C). -/
def Reg.CDT_STATUS_CLASH_CHK : Field := ⟨0x3600008, 5, 5⟩
/-- CDT_STATUS.PEER_NEW (Table 15.10; W1C). -/
def Reg.CDT_STATUS_PEER_NEW : Field := ⟨0x3600008, 4, 4⟩
/-- CDT_STATUS.PEER_LOST (Table 15.10; W1C). -/
def Reg.CDT_STATUS_PEER_LOST : Field := ⟨0x3600008, 3, 3⟩
/-- CDT_STATUS.PATH_DOWN (Table 15.10; W1C). -/
def Reg.CDT_STATUS_PATH_DOWN : Field := ⟨0x3600008, 2, 2⟩
/-- CDT_STATUS.LEN_N (Table 15.10; W1C). -/
def Reg.CDT_STATUS_LEN_N : Field := ⟨0x3600008, 1, 1⟩
/-- CDT_STATUS.REVOKED (Table 15.10; W1C). -/
def Reg.CDT_STATUS_REVOKED : Field := ⟨0x3600008, 0, 0⟩
/-- CDT_PORTn.FCS (Table 15.11; RC). -/
def Reg.CDT_PORT_FCS (n : Nat) : Field := ⟨0x3600010 + 0x8 * n, 63, 48⟩
/-- CDT_PORTn.LEN (Table 15.11; RC). -/
def Reg.CDT_PORT_LEN (n : Nat) : Field := ⟨0x3600010 + 0x8 * n, 47, 32⟩
/-- CDT_PORTn.RETX (Table 15.11; RC). -/
def Reg.CDT_PORT_RETX (n : Nat) : Field := ⟨0x3600010 + 0x8 * n, 31, 16⟩
/-- CDT_PORTn.PATHS (Table 15.11; RO). -/
def Reg.CDT_PORT_PATHS (n : Nat) : Field := ⟨0x3600010 + 0x8 * n, 15, 8⟩
/-- CDT_PORTn.ROLE (Table 15.11; RO). -/
def Reg.CDT_PORT_ROLE (n : Nat) : Field := ⟨0x3600010 + 0x8 * n, 2, 1⟩
/-- CDT_PORTn.UP (Table 15.11; RO). -/
def Reg.CDT_PORT_UP (n : Nat) : Field := ⟨0x3600010 + 0x8 * n, 0, 0⟩
/-- CDT_SENT.COUNT (Table 15.11; RO). -/
def Reg.CDT_SENT_COUNT : Field := ⟨0x3600040, 63, 0⟩
/-- CDT_ACKED.COUNT (Table 15.11; RO). -/
def Reg.CDT_ACKED_COUNT : Field := ⟨0x3600048, 63, 0⟩
/-- CDT_FAILED.COUNT (Table 15.11; RO). -/
def Reg.CDT_FAILED_COUNT : Field := ⟨0x3600050, 63, 0⟩
/-- CDT_OUT.COUNT (Table 15.11; RO). -/
def Reg.CDT_OUT_COUNT : Field := ⟨0x3600058, 31, 0⟩
/-- CDT_FAILR.LINK_DOWN (Table 15.11; RC). -/
def Reg.CDT_FAILR_LINK_DOWN : Field := ⟨0x3600060, 63, 48⟩
/-- CDT_FAILR.RETRY (Table 15.11; RC). -/
def Reg.CDT_FAILR_RETRY : Field := ⟨0x3600060, 47, 32⟩
/-- CDT_FAILR.AGE (Table 15.11; RC). -/
def Reg.CDT_FAILR_AGE : Field := ⟨0x3600060, 31, 16⟩
/-- CDT_FAILR.NAK (Table 15.11; RC). -/
def Reg.CDT_FAILR_NAK : Field := ⟨0x3600060, 15, 0⟩
/-- CDT_RX.DUP (Table 15.11; RC). -/
def Reg.CDT_RX_DUP : Field := ⟨0x3600068, 63, 32⟩
/-- CDT_RX.AGED (Table 15.11; RC). -/
def Reg.CDT_RX_AGED : Field := ⟨0x3600068, 31, 16⟩
/-- CDT_RX.STALE_BOOT (Table 15.11; RC). -/
def Reg.CDT_RX_STALE_BOOT : Field := ⟨0x3600068, 15, 0⟩
/-- CDT_LEN_LAST.DECLARED (Table 15.11; RO). -/
def Reg.CDT_LEN_LAST_DECLARED : Field := ⟨0x3600070, 63, 32⟩
/-- CDT_LEN_LAST.SEEN (Table 15.11; RO). -/
def Reg.CDT_LEN_LAST_SEEN : Field := ⟨0x3600070, 31, 0⟩
/-- CDT_RING_BAD.COUNT (Table 15.11; RC). -/
def Reg.CDT_RING_BAD_COUNT : Field := ⟨0x3600078, 31, 0⟩
/-- CDT_INJ.ARM (Table 15.11; W1S). -/
def Reg.CDT_INJ_ARM : Field := ⟨0x3600080, 8, 8⟩
/-- CDT_INJ.PORT (Table 15.11; RW). -/
def Reg.CDT_INJ_PORT : Field := ⟨0x3600080, 1, 0⟩
/-- CDT_WOPEN_BASE.BASE (Table 15.11; RW). -/
def Reg.CDT_WOPEN_BASE_BASE : Field := ⟨0x3600100, 43, 0⟩
/-- CDT_WOPEN_LEN.LEN (Table 15.11; RW). -/
def Reg.CDT_WOPEN_LEN_LEN : Field := ⟨0x3600108, 47, 0⟩
/-- CDT_WOPEN.INDEX (Table 15.11; RW). -/
def Reg.CDT_WOPEN_INDEX : Field := ⟨0x3600110, 63, 52⟩
/-- CDT_WOPEN.SRCS (Table 15.11; RW). -/
def Reg.CDT_WOPEN_SRCS : Field := ⟨0x3600110, 51, 44⟩
/-- CDT_WOPEN.PERM (Table 15.11; RW). -/
def Reg.CDT_WOPEN_PERM : Field := ⟨0x3600110, 43, 40⟩
/-- CDT_WOPEN.GO (Table 15.11; W1S). -/
def Reg.CDT_WOPEN_GO : Field := ⟨0x3600110, 0, 0⟩
/-- CDT_WOPEN_ST.KEY (Table 15.11; RO). -/
def Reg.CDT_WOPEN_ST_KEY : Field := ⟨0x3600118, 63, 32⟩
/-- CDT_WOPEN_ST.RESULT (Table 15.11; RO). -/
def Reg.CDT_WOPEN_ST_RESULT : Field := ⟨0x3600118, 3, 0⟩
/-- CDT_WREVOKE.GO (Table 15.11; W1S). -/
def Reg.CDT_WREVOKE_GO : Field := ⟨0x3600120, 63, 63⟩
/-- CDT_WREVOKE.INDEX (Table 15.11; RW). -/
def Reg.CDT_WREVOKE_INDEX : Field := ⟨0x3600120, 11, 0⟩
/-- CDT_WREVOKE_ST.EDGE (Table 15.11; RO). -/
def Reg.CDT_WREVOKE_ST_EDGE : Field := ⟨0x3600128, 63, 32⟩
/-- CDT_WREVOKE_ST.LAST (Table 15.11; RO). -/
def Reg.CDT_WREVOKE_ST_LAST : Field := ⟨0x3600128, 31, 20⟩
/-- CDT_WREVOKE_ST.PENDING (Table 15.11; RO). -/
def Reg.CDT_WREVOKE_ST_PENDING : Field := ⟨0x3600128, 19, 8⟩
/-- CDT_WREVOKE_ST.DONE (Table 15.11; W1C). -/
def Reg.CDT_WREVOKE_ST_DONE : Field := ⟨0x3600128, 0, 0⟩
/-- CDT_WTBL.BASE (Table 15.11; RO). -/
def Reg.CDT_WTBL_BASE : Field := ⟨0x3600130, 43, 0⟩
/-- CDT_RINGr.CLUSTERS (Table 15.11; RO). -/
def Reg.CDT_RING_CLUSTERS (r : Nat) : Field := ⟨0x3600200 + 0x8 * r, 63, 56⟩
/-- CDT_RINGr.PRIO (Table 15.11; RO). -/
def Reg.CDT_RING_PRIO (r : Nat) : Field := ⟨0x3600200 + 0x8 * r, 55, 54⟩
/-- CDT_RINGr.BASE (Table 15.11; RO). -/
def Reg.CDT_RING_BASE (r : Nat) : Field := ⟨0x3600200 + 0x8 * r, 43, 0⟩
/-- CDT_RPTRr.PROD (Table 15.11; RW). -/
def Reg.CDT_RPTR_PROD (r : Nat) : Field := ⟨0x3600280 + 0x8 * r, 31, 16⟩
/-- CDT_RPTRr.CONS (Table 15.11; RO). -/
def Reg.CDT_RPTR_CONS (r : Nat) : Field := ⟨0x3600280 + 0x8 * r, 15, 0⟩
/-- CDT_SVCs.PROD (Table 15.11; RO). -/
def Reg.CDT_SVC_PROD (s : Nat) : Field := ⟨0x3600300 + 0x8 * s, 63, 56⟩
/-- CDT_SVCs.CONS (Table 15.11; RW). -/
def Reg.CDT_SVC_CONS (s : Nat) : Field := ⟨0x3600300 + 0x8 * s, 55, 48⟩
/-- CDT_SVCs.BASE (Table 15.11; RO). -/
def Reg.CDT_SVC_BASE (s : Nat) : Field := ⟨0x3600300 + 0x8 * s, 43, 0⟩
/-- CAS_CTRL.CLAIM_DLY (Table 16.7; RW). -/
def Reg.CAS_CTRL_CLAIM_DLY : Field := ⟨0x3C00000, 55, 48⟩
/-- CAS_CTRL.PAIR (Table 16.7; RO). -/
def Reg.CAS_CTRL_PAIR : Field := ⟨0x3C00000, 39, 38⟩
/-- CAS_CTRL.HEAD (Table 16.7; RO). -/
def Reg.CAS_CTRL_HEAD : Field := ⟨0x3C00000, 37, 37⟩
/-- CAS_CTRL.FATAL_IN_EN (Table 16.7; RW). -/
def Reg.CAS_CTRL_FATAL_IN_EN : Field := ⟨0x3C00000, 36, 36⟩
/-- CAS_CTRL.POL_TT_LOST (Table 16.7; RO). -/
def Reg.CAS_CTRL_POL_TT_LOST : Field := ⟨0x3C00000, 2, 2⟩
/-- CAS_CTRL.POL_ACCEL (Table 16.7; RO). -/
def Reg.CAS_CTRL_POL_ACCEL : Field := ⟨0x3C00000, 1, 1⟩
/-- CAS_CTRL.POL_KING (Table 16.7; RO). -/
def Reg.CAS_CTRL_POL_KING : Field := ⟨0x3C00000, 0, 0⟩
/-- CAS_STATUS.LAST_CAUSE (Table 16.8; RO). -/
def Reg.CAS_STATUS_LAST_CAUSE : Field := ⟨0x3C00008, 23, 16⟩
/-- CAS_STATUS.PEER (Table 16.8; RO). -/
def Reg.CAS_STATUS_PEER : Field := ⟨0x3C00008, 15, 13⟩
/-- CAS_STATUS.SELF (Table 16.8; RO). -/
def Reg.CAS_STATUS_SELF : Field := ⟨0x3C00008, 12, 10⟩
/-- CAS_STATUS.WRONG_CHK (Table 16.8; W1C). -/
def Reg.CAS_STATUS_WRONG_CHK : Field := ⟨0x3C00008, 5, 5⟩
/-- CAS_STATUS.DIGEST_CHK (Table 16.8; W1C). -/
def Reg.CAS_STATUS_DIGEST_CHK : Field := ⟨0x3C00008, 4, 4⟩
/-- CAS_STATUS.LOST_RACE (Table 16.8; W1C). -/
def Reg.CAS_STATUS_LOST_RACE : Field := ⟨0x3C00008, 3, 3⟩
/-- CAS_STATUS.NO_MAJ (Table 16.8; W1C). -/
def Reg.CAS_STATUS_NO_MAJ : Field := ⟨0x3C00008, 2, 2⟩
/-- CAS_STATUS.CASTLED (Table 16.8; W1C). -/
def Reg.CAS_STATUS_CASTLED : Field := ⟨0x3C00008, 1, 1⟩
/-- CAS_STATUS.HB_MISS (Table 16.8; W1C). -/
def Reg.CAS_STATUS_HB_MISS : Field := ⟨0x3C00008, 0, 0⟩
/-- CAS_CMD.CLAIM (Table 16.9; WO). -/
def Reg.CAS_CMD_CLAIM : Field := ⟨0x3C00010, 1, 1⟩
/-- CAS_CMD.PLANNED (Table 16.9; WO). -/
def Reg.CAS_CMD_PLANNED : Field := ⟨0x3C00010, 0, 0⟩
/-- CAS_HB.SEQ_RX (Table 16.9; RO). -/
def Reg.CAS_HB_SEQ_RX : Field := ⟨0x3C00018, 63, 32⟩
/-- CAS_HB.MISSED (Table 16.9; RC). -/
def Reg.CAS_HB_MISSED : Field := ⟨0x3C00018, 31, 16⟩
/-- CAS_HB.RUN (Table 16.9; RO). -/
def Reg.CAS_HB_RUN : Field := ⟨0x3C00018, 1, 0⟩
/-- CAS_DIG.WINDOWS (Table 16.9; RC). -/
def Reg.CAS_DIG_WINDOWS : Field := ⟨0x3C00020, 63, 32⟩
/-- CAS_DIG.MISMATCH (Table 16.9; RC). -/
def Reg.CAS_DIG_MISMATCH : Field := ⟨0x3C00020, 31, 16⟩
/-- CAS_DIG.LAST_GROUP (Table 16.9; RO). -/
def Reg.CAS_DIG_LAST_GROUP : Field := ⟨0x3C00020, 7, 0⟩
/-- CAS_LAST.EDGE (Table 16.9; RO). -/
def Reg.CAS_LAST_EDGE : Field := ⟨0x3C00028, 63, 32⟩
/-- CAS_LAST.MS (Table 16.9; RO). -/
def Reg.CAS_LAST_MS : Field := ⟨0x3C00028, 31, 16⟩
/-- CAS_LAST.WON (Table 16.9; RO). -/
def Reg.CAS_LAST_WON : Field := ⟨0x3C00028, 15, 8⟩
/-- CAS_LAST.MEMBERS (Table 16.9; RO). -/
def Reg.CAS_LAST_MEMBERS : Field := ⟨0x3C00028, 7, 0⟩
/-- CAS_ADOPT.SLOTS (Table 16.9; RO). -/
def Reg.CAS_ADOPT_SLOTS : Field := ⟨0x3C00030, 63, 32⟩
/-- CAS_ADOPT.CMDS (Table 16.9; RO). -/
def Reg.CAS_ADOPT_CMDS : Field := ⟨0x3C00030, 31, 0⟩
/-- CAS_CMDT.BASE (Table 16.9; RO). -/
def Reg.CAS_CMDT_BASE : Field := ⟨0x3C00038, 43, 0⟩
/-- CAS_CMDT_M.BASE (Table 16.9; RO). -/
def Reg.CAS_CMDT_M_BASE : Field := ⟨0x3C00040, 43, 0⟩
/-- CAS_ANA_OWN0.OWN (Table 16.9; RO). -/
def Reg.CAS_ANA_OWN0_OWN : Field := ⟨0x3C00100, 63, 0⟩
/-- CAS_ANA_OWN1.OWN (Table 16.9; RO). -/
def Reg.CAS_ANA_OWN1_OWN : Field := ⟨0x3C00108, 63, 0⟩
/-- CAS_ANA_STG0.OWN (Table 16.9; RW). -/
def Reg.CAS_ANA_STG0_OWN : Field := ⟨0x3C00110, 63, 0⟩
/-- CAS_ANA_STG1.OWN (Table 16.9; RW). -/
def Reg.CAS_ANA_STG1_OWN : Field := ⟨0x3C00118, 63, 0⟩
/-- CAS_ANA_APPLY.TEMPO (Table 16.9; RW). -/
def Reg.CAS_ANA_APPLY_TEMPO : Field := ⟨0x3C00120, 63, 0⟩
/-- OIM_STATUS.SEQ_LO (Table 17.7; RO). -/
def Reg.OIM_STATUS_SEQ_LO : Field := ⟨0x700000, 47, 16⟩
/-- OIM_STATUS.R1_RES (Table 17.7; RO). -/
def Reg.OIM_STATUS_R1_RES : Field := ⟨0x700000, 15, 12⟩
/-- OIM_STATUS.R0_RES (Table 17.7; RO). -/
def Reg.OIM_STATUS_R0_RES : Field := ⟨0x700000, 11, 8⟩
/-- OIM_STATUS.INVALID_CHK (Table 17.7; W1C). -/
def Reg.OIM_STATUS_INVALID_CHK : Field := ⟨0x700000, 2, 2⟩
/-- OIM_STATUS.DEFAULTS (Table 17.7; RO). -/
def Reg.OIM_STATUS_DEFAULTS : Field := ⟨0x700000, 1, 1⟩
/-- OIM_STATUS.ACTIVE (Table 17.7; RO). -/
def Reg.OIM_STATUS_ACTIVE : Field := ⟨0x700000, 0, 0⟩
/-- OIM_LOAD.LEN (Table 17.8; RW). -/
def Reg.OIM_LOAD_LEN : Field := ⟨0x700008, 63, 44⟩
/-- OIM_LOAD.ADDR (Table 17.8; RW). -/
def Reg.OIM_LOAD_ADDR : Field := ⟨0x700008, 43, 0⟩
/-- OIM_CMD.OP (Table 17.8; RW). -/
def Reg.OIM_CMD_OP : Field := ⟨0x700010, 1, 1⟩
/-- OIM_CMD.GO (Table 17.8; W1S). -/
def Reg.OIM_CMD_GO : Field := ⟨0x700010, 0, 0⟩
/-- OIM_CMD_ST.IGNORED (Table 17.8; RC). -/
def Reg.OIM_CMD_ST_IGNORED : Field := ⟨0x700018, 63, 48⟩
/-- OIM_CMD_ST.BUSY (Table 17.8; RO). -/
def Reg.OIM_CMD_ST_BUSY : Field := ⟨0x700018, 4, 4⟩
/-- OIM_CMD_ST.RESULT (Table 17.8; RO). -/
def Reg.OIM_CMD_ST_RESULT : Field := ⟨0x700018, 3, 0⟩
/-- OIM_RESULT.OFFSET (Table 17.8; RO). -/
def Reg.OIM_RESULT_OFFSET : Field := ⟨0x700020, 63, 32⟩
/-- OIM_RESULT.TYPE (Table 17.8; RO). -/
def Reg.OIM_RESULT_TYPE : Field := ⟨0x700020, 31, 16⟩
/-- OIM_RESULT.STEP (Table 17.8; RO). -/
def Reg.OIM_RESULT_STEP : Field := ⟨0x700020, 3, 0⟩
/-- OIM_SEQ.SEQ (Table 17.8; RO). -/
def Reg.OIM_SEQ_SEQ : Field := ⟨0x700028, 63, 0⟩
/-- SXC_STATUS.EPOCH_FUSES (Table 18.15; RO). -/
def Reg.SXC_STATUS_EPOCH_FUSES : Field := ⟨0x600000, 39, 32⟩
/-- SXC_STATUS.CLAIMS (Table 18.15; RO). -/
def Reg.SXC_STATUS_CLAIMS : Field := ⟨0x600000, 31, 28⟩
/-- SXC_STATUS.LEDGER_FAIL (Table 18.15; RO). -/
def Reg.SXC_STATUS_LEDGER_FAIL : Field := ⟨0x600000, 11, 11⟩
/-- SXC_STATUS.CHAIN_BREAK (Table 18.15; RO). -/
def Reg.SXC_STATUS_CHAIN_BREAK : Field := ⟨0x600000, 10, 10⟩
/-- SXC_STATUS.DEBUG (Table 18.15; RO). -/
def Reg.SXC_STATUS_DEBUG : Field := ⟨0x600000, 9, 9⟩
/-- SXC_STATUS.CLAIM_OPEN (Table 18.15; RO). -/
def Reg.SXC_STATUS_CLAIM_OPEN : Field := ⟨0x600000, 8, 8⟩
/-- SXC_STATUS.CLAIMED (Table 18.15; RO). -/
def Reg.SXC_STATUS_CLAIMED : Field := ⟨0x600000, 7, 7⟩
/-- SXC_STATUS.MOVE_N (Table 18.15; W1C). -/
def Reg.SXC_STATUS_MOVE_N : Field := ⟨0x600000, 1, 1⟩
/-- SXC_STATUS.PAIRED_CHK (Table 18.15; W1C). -/
def Reg.SXC_STATUS_PAIRED_CHK : Field := ⟨0x600000, 0, 0⟩
/-- SXC_BOOT.BOOT (Table 18.16; RO). -/
def Reg.SXC_BOOT_BOOT : Field := ⟨0x600008, 63, 0⟩
/-- SXC_INFO.SKIPPED (Table 18.16; RO). -/
def Reg.SXC_INFO_SKIPPED : Field := ⟨0x600010, 63, 32⟩
/-- SXC_INFO.SLOT (Table 18.16; RO). -/
def Reg.SXC_INFO_SLOT : Field := ⟨0x600010, 29, 16⟩
/-- SXC_INFO.CAUSE (Table 18.16; RO). -/
def Reg.SXC_INFO_CAUSE : Field := ⟨0x600010, 15, 8⟩
/-- SXC_SPT_VER.VERSION (Table 18.16; RO). -/
def Reg.SXC_SPT_VER_VERSION : Field := ⟨0x600018, 63, 0⟩
/-- SXC_CHAL_CTRL.AGE (Table 18.16; RO). -/
def Reg.SXC_CHAL_CTRL_AGE : Field := ⟨0x600020, 63, 32⟩
/-- SXC_CHAL_CTRL.VALID (Table 18.16; RO). -/
def Reg.SXC_CHAL_CTRL_VALID : Field := ⟨0x600020, 1, 1⟩
/-- SXC_CHAL_CTRL.NEW (Table 18.16; WO). -/
def Reg.SXC_CHAL_CTRL_NEW : Field := ⟨0x600020, 0, 0⟩
/-- SXC_CHALj.WORD (Table 18.16; RO). -/
def Reg.SXC_CHAL_WORD (j : Nat) : Field := ⟨0x600028 + 0x8 * j, 63, 0⟩
/-- SXC_MOVE_ADDR.LEN (Table 18.16; RW). -/
def Reg.SXC_MOVE_ADDR_LEN : Field := ⟨0x600048, 63, 44⟩
/-- SXC_MOVE_ADDR.ADDR (Table 18.16; RW). -/
def Reg.SXC_MOVE_ADDR_ADDR : Field := ⟨0x600048, 43, 0⟩
/-- SXC_MOVE_CMD.KIND (Table 18.16; RW). -/
def Reg.SXC_MOVE_CMD_KIND : Field := ⟨0x600050, 1, 1⟩
/-- SXC_MOVE_CMD.GO (Table 18.16; W1S). -/
def Reg.SXC_MOVE_CMD_GO : Field := ⟨0x600050, 0, 0⟩
/-- SXC_MOVE_ST.APPLY (Table 18.16; RO). -/
def Reg.SXC_MOVE_ST_APPLY : Field := ⟨0x600058, 63, 32⟩
/-- SXC_MOVE_ST.ACKED (Table 18.16; RO). -/
def Reg.SXC_MOVE_ST_ACKED : Field := ⟨0x600058, 31, 24⟩
/-- SXC_MOVE_ST.TARGETS (Table 18.16; RO). -/
def Reg.SXC_MOVE_ST_TARGETS : Field := ⟨0x600058, 23, 16⟩
/-- SXC_MOVE_ST.OPIDX (Table 18.16; RO). -/
def Reg.SXC_MOVE_ST_OPIDX : Field := ⟨0x600058, 15, 8⟩
/-- SXC_MOVE_ST.BUSY (Table 18.16; RO). -/
def Reg.SXC_MOVE_ST_BUSY : Field := ⟨0x600058, 5, 5⟩
/-- SXC_MOVE_ST.STAGED (Table 18.16; RO). -/
def Reg.SXC_MOVE_ST_STAGED : Field := ⟨0x600058, 4, 4⟩
/-- SXC_MOVE_ST.RESULT (Table 18.16; RO). -/
def Reg.SXC_MOVE_ST_RESULT : Field := ⟨0x600058, 3, 0⟩
/-- SXC_MR_EXT.RESULT (Table 18.16; RO). -/
def Reg.SXC_MR_EXT_RESULT : Field := ⟨0x600060, 7, 6⟩
/-- SXC_MR_EXT.GO (Table 18.16; W1S). -/
def Reg.SXC_MR_EXT_GO : Field := ⟨0x600060, 4, 4⟩
/-- SXC_MR_EXT.INDEX (Table 18.16; RW). -/
def Reg.SXC_MR_EXT_INDEX : Field := ⟨0x600060, 3, 0⟩
/-- SXC_MR_DATAj.WORD (Table 18.16; RW). -/
def Reg.SXC_MR_DATA_WORD (j : Nat) : Field := ⟨0x600068 + 0x8 * j, 63, 0⟩
/-- SXC_BREC_SEL.SLOT (Table 18.16; RW). -/
def Reg.SXC_BREC_SEL_SLOT : Field := ⟨0x6000A0, 13, 0⟩
/-- SXC_MRn_j.WORD (Table 18.16; RO). -/
def Reg.SXC_MR_WORD (n : Nat) (j : Nat) : Field := ⟨0x600400 + 0x30 * n + 0x8 * j, 63, 0⟩
/-- SXC_BREC_Ww.WORD (Table 18.16; RO). -/
def Reg.SXC_BREC_W_WORD (w : Nat) : Field := ⟨0x600800 + 0x8 * w, 63, 0⟩
/-- FWU_STATUS.NEXT (Table 19.6; RO). -/
def Reg.FWU_STATUS_NEXT : Field := ⟨0x800000, 23, 20⟩
/-- FWU_STATUS.ACTIVE (Table 19.6; RO). -/
def Reg.FWU_STATUS_ACTIVE : Field := ⟨0x800000, 19, 16⟩
/-- FWU_STATUS.COMPAT (Table 19.6; RO). -/
def Reg.FWU_STATUS_COMPAT : Field := ⟨0x800000, 11, 11⟩
/-- FWU_STATUS.BUF_BUSY (Table 19.6; RO). -/
def Reg.FWU_STATUS_BUF_BUSY : Field := ⟨0x800000, 10, 10⟩
/-- FWU_STATUS.COMMIT_BUSY (Table 19.6; RO). -/
def Reg.FWU_STATUS_COMMIT_BUSY : Field := ⟨0x800000, 9, 9⟩
/-- FWU_STATUS.ACT_BUSY (Table 19.6; RO). -/
def Reg.FWU_STATUS_ACT_BUSY : Field := ⟨0x800000, 8, 8⟩
/-- FWU_STATUS.FALLBACK_N (Table 19.6; W1C). -/
def Reg.FWU_STATUS_FALLBACK_N : Field := ⟨0x800000, 2, 2⟩
/-- FWU_STATUS.ACT_ABORT (Table 19.6; W1C). -/
def Reg.FWU_STATUS_ACT_ABORT : Field := ⟨0x800000, 1, 1⟩
/-- FWU_STATUS.ACTIVATED (Table 19.6; RO). -/
def Reg.FWU_STATUS_ACTIVATED : Field := ⟨0x800000, 0, 0⟩
/-- FWU_BUF.OWNER (Table 19.7; RO). -/
def Reg.FWU_BUF_OWNER : Field := ⟨0x800008, 63, 48⟩
/-- FWU_BUF.BYTES (Table 19.7; RO). -/
def Reg.FWU_BUF_BYTES : Field := ⟨0x800008, 24, 0⟩
/-- FWU_SLOTn.RESULT (Table 19.7; RO). -/
def Reg.FWU_SLOT_RESULT (n : Nat) : Field := ⟨0x800018 + 0x8 * n, 55, 52⟩
/-- FWU_SLOTn.STATE (Table 19.7; RO). -/
def Reg.FWU_SLOT_STATE (n : Nat) : Field := ⟨0x800018 + 0x8 * n, 51, 48⟩
/-- FWU_SLOTn.ROLLBACK (Table 19.7; RO). -/
def Reg.FWU_SLOT_ROLLBACK (n : Nat) : Field := ⟨0x800018 + 0x8 * n, 31, 0⟩
/-- FWU_ACT.COUNT (Table 19.7; RC). -/
def Reg.FWU_ACT_COUNT : Field := ⟨0x800030, 63, 48⟩
/-- FWU_ACT.LAST (Table 19.7; RO). -/
def Reg.FWU_ACT_LAST : Field := ⟨0x800030, 31, 16⟩
/-- FWU_FLOOR.FLOOR (Table 19.7; RO). -/
def Reg.FWU_FLOOR_FLOOR : Field := ⟨0x800038, 63, 0⟩
/-- SCR_CTRL.FREEZE_MAX (Table 20.8; RW). -/
def Reg.SCR_CTRL_FREEZE_MAX : Field := ⟨0x500000, 63, 48⟩
/-- SCR_CTRL.RATE_DEF (Table 20.8; RW). -/
def Reg.SCR_CTRL_RATE_DEF : Field := ⟨0x500000, 47, 32⟩
/-- SCR_CTRL.WINDOW (Table 20.8; RW). -/
def Reg.SCR_CTRL_WINDOW : Field := ⟨0x500000, 31, 16⟩
/-- SCR_CTRL.FREEZE (Table 20.8; RW). -/
def Reg.SCR_CTRL_FREEZE : Field := ⟨0x500000, 0, 0⟩
/-- SCR_STATUS.HOLD (Table 20.9; RO). -/
def Reg.SCR_STATUS_HOLD : Field := ⟨0x500008, 24, 16⟩
/-- SCR_STATUS.PFAIL (Table 20.9; W1C). -/
def Reg.SCR_STATUS_PFAIL : Field := ⟨0x500008, 4, 4⟩
/-- SCR_STATUS.PLOST (Table 20.9; W1C). -/
def Reg.SCR_STATUS_PLOST : Field := ⟨0x500008, 3, 3⟩
/-- SCR_STATUS.LOST (Table 20.9; W1C). -/
def Reg.SCR_STATUS_LOST : Field := ⟨0x500008, 2, 2⟩
/-- SCR_STATUS.FROZE_OUT (Table 20.9; W1C). -/
def Reg.SCR_STATUS_FROZE_OUT : Field := ⟨0x500008, 1, 1⟩
/-- SCR_STATUS.FROZEN (Table 20.9; RO). -/
def Reg.SCR_STATUS_FROZEN : Field := ⟨0x500008, 0, 0⟩
/-- SCR_SEQ.NEXT (Table 20.10; RO). -/
def Reg.SCR_SEQ_NEXT : Field := ⟨0x500010, 63, 0⟩
/-- SCR_PTR.PIDX (Table 20.10; RO). -/
def Reg.SCR_PTR_PIDX : Field := ⟨0x500018, 63, 32⟩
/-- SCR_PTR.VIDX (Table 20.10; RO). -/
def Reg.SCR_PTR_VIDX : Field := ⟨0x500018, 13, 0⟩
/-- SCR_LOSS.LOST (Table 20.10; RC). -/
def Reg.SCR_LOSS_LOST : Field := ⟨0x500020, 63, 32⟩
/-- SCR_LOSS.PLOST (Table 20.10; RC). -/
def Reg.SCR_LOSS_PLOST : Field := ⟨0x500020, 31, 0⟩
/-- SCR_WIN_SEL.SOURCE (Table 20.10; RW). -/
def Reg.SCR_WIN_SEL_SOURCE : Field := ⟨0x500028, 63, 62⟩
/-- SCR_WIN_SEL.CURSOR (Table 20.10; RW). -/
def Reg.SCR_WIN_SEL_CURSOR : Field := ⟨0x500028, 19, 0⟩
/-- SCR_WIN_CTRL.NEXT (Table 20.10; W1S). -/
def Reg.SCR_WIN_CTRL_NEXT : Field := ⟨0x500030, 0, 0⟩
/-- SCR_WIN_Ww.WORD (Table 20.10; RO). -/
def Reg.SCR_WIN_W_WORD (w : Nat) : Field := ⟨0x500040 + 0x8 * w, 63, 0⟩
/-- SCR_RLIMk.CODE (Table 20.10; RW). -/
def Reg.SCR_RLIM_CODE (k : Nat) : Field := ⟨0x500100 + 0x8 * k, 31, 16⟩
/-- SCR_RLIMk.EN (Table 20.10; RW). -/
def Reg.SCR_RLIM_EN (k : Nat) : Field := ⟨0x500100 + 0x8 * k, 8, 8⟩
/-- SCR_RLIMk.LIMIT (Table 20.10; RW). -/
def Reg.SCR_RLIM_LIMIT (k : Nat) : Field := ⟨0x500100 + 0x8 * k, 7, 0⟩
/-- FLT_CTRL.ESCALATE (Table 20.11; RO). -/
def Reg.FLT_CTRL_ESCALATE : Field := ⟨0x400000, 63, 48⟩
/-- FLT_CTRL.HOST_INTR (Table 20.11; RW). -/
def Reg.FLT_CTRL_HOST_INTR : Field := ⟨0x400000, 0, 0⟩
/-- FLT_STATUS.DCHK_OPEN (Table 20.12; RO). -/
def Reg.FLT_STATUS_DCHK_OPEN : Field := ⟨0x400008, 47, 40⟩
/-- FLT_STATUS.CHK_OPEN (Table 20.12; RO). -/
def Reg.FLT_STATUS_CHK_OPEN : Field := ⟨0x400008, 39, 32⟩
/-- FLT_STATUS.DCHK_FULL (Table 20.12; W1C). -/
def Reg.FLT_STATUS_DCHK_FULL : Field := ⟨0x400008, 4, 4⟩
/-- FLT_STATUS.ESC (Table 20.12; W1C). -/
def Reg.FLT_STATUS_ESC : Field := ⟨0x400008, 3, 3⟩
/-- FLT_STATUS.PAIRED_CHK (Table 20.12; W1C). -/
def Reg.FLT_STATUS_PAIRED_CHK : Field := ⟨0x400008, 2, 2⟩
/-- FLT_STATUS.CHK_FULL (Table 20.12; W1C). -/
def Reg.FLT_STATUS_CHK_FULL : Field := ⟨0x400008, 1, 1⟩
/-- FLT_STATUS.CHECKMATE (Table 20.12; RO). -/
def Reg.FLT_STATUS_CHECKMATE : Field := ⟨0x400008, 0, 0⟩
/-- FLT_CNT.NOTICES (Table 20.13; RC). -/
def Reg.FLT_CNT_NOTICES : Field := ⟨0x400010, 63, 32⟩
/-- FLT_CNT.CHECKS (Table 20.13; RC). -/
def Reg.FLT_CNT_CHECKS : Field := ⟨0x400010, 31, 16⟩
/-- FLT_CNT.DCHECKS (Table 20.13; RC). -/
def Reg.FLT_CNT_DCHECKS : Field := ⟨0x400010, 15, 0⟩
/-- FLT_SAFE_GPIO.DRIVE (Table 20.13; RW). -/
def Reg.FLT_SAFE_GPIO_DRIVE : Field := ⟨0x400018, 63, 32⟩
/-- FLT_SAFE_GPIO.VALUE (Table 20.13; RW). -/
def Reg.FLT_SAFE_GPIO_VALUE : Field := ⟨0x400018, 31, 0⟩
/-- FLT_INJ.MASK (Table 20.13; RW). -/
def Reg.FLT_INJ_MASK : Field := ⟨0x400020, 23, 16⟩
/-- FLT_INJ.TARGET (Table 20.13; RW). -/
def Reg.FLT_INJ_TARGET : Field := ⟨0x400020, 15, 12⟩
/-- FLT_INJ.INDEX (Table 20.13; RW). -/
def Reg.FLT_INJ_INDEX : Field := ⟨0x400020, 11, 8⟩
/-- FLT_INJ.ARM (Table 20.13; W1S). -/
def Reg.FLT_INJ_ARM : Field := ⟨0x400020, 0, 0⟩
/-- FLT_CHKk.CODE (Table 20.13; RO). -/
def Reg.FLT_CHK_CODE (k : Nat) : Field := ⟨0x401000 + 0x10 * k, 63, 48⟩
/-- FLT_CHKk.UNIT (Table 20.13; RO). -/
def Reg.FLT_CHK_UNIT (k : Nat) : Field := ⟨0x401000 + 0x10 * k, 47, 32⟩
/-- FLT_CHKk.RECUR (Table 20.13; RO). -/
def Reg.FLT_CHK_RECUR (k : Nat) : Field := ⟨0x401000 + 0x10 * k, 31, 24⟩
/-- FLT_CHKk.OPEN (Table 20.13; W1C). -/
def Reg.FLT_CHK_OPEN (k : Nat) : Field := ⟨0x401000 + 0x10 * k, 0, 0⟩
/-- FLT_CHKk_T.RAISED (Table 20.13; RO). -/
def Reg.FLT_CHK_T_RAISED (k : Nat) : Field := ⟨0x401008 + 0x10 * k, 63, 0⟩
/-- FLT_DCHKj.CODE (Table 20.13; RO). -/
def Reg.FLT_DCHK_CODE (j : Nat) : Field := ⟨0x401400 + 0x10 * j, 63, 48⟩
/-- FLT_DCHKj.UNIT (Table 20.13; RO). -/
def Reg.FLT_DCHK_UNIT (j : Nat) : Field := ⟨0x401400 + 0x10 * j, 47, 32⟩
/-- FLT_DCHKj.RECUR (Table 20.13; RO). -/
def Reg.FLT_DCHK_RECUR (j : Nat) : Field := ⟨0x401400 + 0x10 * j, 31, 24⟩
/-- FLT_DCHKj.ESCALATED (Table 20.13; RO). -/
def Reg.FLT_DCHK_ESCALATED (j : Nat) : Field := ⟨0x401400 + 0x10 * j, 1, 1⟩
/-- FLT_DCHKj.OPEN (Table 20.13; W1C). -/
def Reg.FLT_DCHK_OPEN (j : Nat) : Field := ⟨0x401400 + 0x10 * j, 0, 0⟩
/-- FLT_DCHKj_T.RAISED (Table 20.13; RO). -/
def Reg.FLT_DCHK_T_RAISED (j : Nat) : Field := ⟨0x401408 + 0x10 * j, 63, 0⟩
/-- PWR_CTRL.ENVELOPE (Table 21.10; RW). -/
def Reg.PWR_CTRL_ENVELOPE : Field := ⟨0x300000, 63, 48⟩
/-- PWR_CTRL.THROTTLE_EN (Table 21.10; RW). -/
def Reg.PWR_CTRL_THROTTLE_EN : Field := ⟨0x300000, 0, 0⟩
/-- PWR_STATUS.EFF_ENV (Table 21.11; RO). -/
def Reg.PWR_STATUS_EFF_ENV : Field := ⟨0x300008, 63, 48⟩
/-- PWR_STATUS.VSB (Table 21.11; RO). -/
def Reg.PWR_STATUS_VSB : Field := ⟨0x300008, 7, 7⟩
/-- PWR_STATUS.TT (Table 21.11; RO). -/
def Reg.PWR_STATUS_TT : Field := ⟨0x300008, 6, 6⟩
/-- PWR_STATUS.THROTTLE (Table 21.11; RO). -/
def Reg.PWR_STATUS_THROTTLE : Field := ⟨0x300008, 5, 5⟩
/-- PWR_STATUS.ENV_HELD (Table 21.11; RO). -/
def Reg.PWR_STATUS_ENV_HELD : Field := ⟨0x300008, 4, 4⟩
/-- PWR_STATUS.WARN_N (Table 21.11; W1C). -/
def Reg.PWR_STATUS_WARN_N : Field := ⟨0x300008, 3, 3⟩
/-- PWR_STATUS.PAIRED_CHK (Table 21.11; W1C). -/
def Reg.PWR_STATUS_PAIRED_CHK : Field := ⟨0x300008, 2, 2⟩
/-- PWR_STATUS.TOKEN_CHK (Table 21.11; W1C). -/
def Reg.PWR_STATUS_TOKEN_CHK : Field := ⟨0x300008, 1, 1⟩
/-- PWR_STATUS.REFUSED (Table 21.11; W1C). -/
def Reg.PWR_STATUS_REFUSED : Field := ⟨0x300008, 0, 0⟩
/-- PWR_TOK.GRANTED (Table 21.12; RO). -/
def Reg.PWR_TOK_GRANTED : Field := ⟨0x300010, 63, 48⟩
/-- PWR_TOK.BASE (Table 21.12; RO). -/
def Reg.PWR_TOK_BASE : Field := ⟨0x300010, 47, 32⟩
/-- PWR_TOK.HOLDS (Table 21.12; RO). -/
def Reg.PWR_TOK_HOLDS : Field := ⟨0x300010, 31, 16⟩
/-- PWR_TOK.LEAST (Table 21.12; RO). -/
def Reg.PWR_TOK_LEAST : Field := ⟨0x300010, 15, 0⟩
/-- PWR_TOKCNT.GRANTS (Table 21.12; RC). -/
def Reg.PWR_TOKCNT_GRANTS : Field := ⟨0x300018, 63, 32⟩
/-- PWR_TOKCNT.WAITS (Table 21.12; RC). -/
def Reg.PWR_TOKCNT_WAITS : Field := ⟨0x300018, 31, 0⟩
/-- PWR_PF.PF_MV (Table 21.12; RW). -/
def Reg.PWR_PF_PF_MV : Field := ⟨0x300020, 63, 48⟩
/-- PWR_PF.DEB (Table 21.12; RW). -/
def Reg.PWR_PF_DEB : Field := ⟨0x300020, 47, 40⟩
/-- PWR_PF.TT_ENV (Table 21.12; RW). -/
def Reg.PWR_PF_TT_ENV : Field := ⟨0x300020, 39, 32⟩
/-- PWR_PF.VIN_MV (Table 21.12; RO). -/
def Reg.PWR_PF_VIN_MV : Field := ⟨0x300020, 31, 16⟩
/-- PWR_PF.PF_SRC (Table 21.12; RW). -/
def Reg.PWR_PF_PF_SRC : Field := ⟨0x300020, 0, 0⟩
/-- PWR_THERM.WARN (Table 21.12; RW). -/
def Reg.PWR_THERM_WARN : Field := ⟨0x300028, 63, 56⟩
/-- PWR_THERM.THROTTLE (Table 21.12; RW). -/
def Reg.PWR_THERM_THROTTLE : Field := ⟨0x300028, 55, 48⟩
/-- PWR_THERM.TRIP (Table 21.12; RW). -/
def Reg.PWR_THERM_TRIP : Field := ⟨0x300028, 47, 40⟩
/-- PWR_THERM.TMAX (Table 21.12; RO). -/
def Reg.PWR_THERM_TMAX : Field := ⟨0x300028, 31, 24⟩
/-- PWR_THERM.HOT (Table 21.12; RO). -/
def Reg.PWR_THERM_HOT : Field := ⟨0x300028, 23, 20⟩
/-- PWR_ADJ.REGION (Table 21.12; RW). -/
def Reg.PWR_ADJ_REGION : Field := ⟨0x300030, 7, 4⟩
/-- PWR_ADJ.REQ (Table 21.12; RW). -/
def Reg.PWR_ADJ_REQ : Field := ⟨0x300030, 3, 2⟩
/-- PWR_ADJ.GO (Table 21.12; W1S). -/
def Reg.PWR_ADJ_GO : Field := ⟨0x300030, 0, 0⟩
/-- PWR_ADJ3.WAKE_S (Table 21.12; RW). -/
def Reg.PWR_ADJ3_WAKE_S : Field := ⟨0x300038, 31, 0⟩
/-- PWR_LVLr.TEMP (Table 21.12; RO). -/
def Reg.PWR_LVL_TEMP (r : Nat) : Field := ⟨0x300100 + 0x8 * r, 31, 24⟩
/-- PWR_LVLr.MV (Table 21.12; RO). -/
def Reg.PWR_LVL_MV (r : Nat) : Field := ⟨0x300100 + 0x8 * r, 23, 16⟩
/-- PWR_LVLr.ASTATE (Table 21.12; RO). -/
def Reg.PWR_LVL_ASTATE (r : Nat) : Field := ⟨0x300100 + 0x8 * r, 15, 12⟩
/-- PWR_LVLr.REQ (Table 21.12; RW). -/
def Reg.PWR_LVL_REQ (r : Nat) : Field := ⟨0x300100 + 0x8 * r, 6, 4⟩
/-- PWR_LVLr.LVL (Table 21.12; RO). -/
def Reg.PWR_LVL_LVL (r : Nat) : Field := ⟨0x300100 + 0x8 * r, 2, 0⟩
/-- PWR_REFr.COUNT (Table 21.12; RC). -/
def Reg.PWR_REF_COUNT (r : Nat) : Field := ⟨0x300200 + 0x8 * r, 63, 48⟩
/-- PWR_REFr.CAUSE (Table 21.12; RO). -/
def Reg.PWR_REF_CAUSE (r : Nat) : Field := ⟨0x300200 + 0x8 * r, 47, 44⟩
/-- PWR_REFr.KIND (Table 21.12; RO). -/
def Reg.PWR_REF_KIND (r : Nat) : Field := ⟨0x300200 + 0x8 * r, 43, 40⟩
/-- PWR_REFr.WHO (Table 21.12; RO). -/
def Reg.PWR_REF_WHO (r : Nat) : Field := ⟨0x300200 + 0x8 * r, 31, 0⟩
/-- GLB_ID.PART (Table 22.2; RO). -/
def Reg.GLB_ID_PART : Field := ⟨0x0, 31, 16⟩
/-- GLB_ID.REV_MAJ (Table 22.2; RO). -/
def Reg.GLB_ID_REV_MAJ : Field := ⟨0x0, 7, 4⟩
/-- GLB_ID.REV_MIN (Table 22.2; RO). -/
def Reg.GLB_ID_REV_MIN : Field := ⟨0x0, 3, 0⟩
/-- GLB_STATE.CMD_RES (Table 22.2; RO). -/
def Reg.GLB_STATE_CMD_RES : Field := ⟨0x8, 15, 12⟩
/-- GLB_STATE.RCAUSE (Table 22.2; RO). -/
def Reg.GLB_STATE_RCAUSE : Field := ⟨0x8, 11, 8⟩
/-- GLB_STATE.STATE (Table 22.2; RO). -/
def Reg.GLB_STATE_STATE : Field := ⟨0x8, 1, 0⟩
/-- GLB_SERIAL.SERIAL (Table 22.2; RO). -/
def Reg.GLB_SERIAL_SERIAL : Field := ⟨0x10, 63, 0⟩
/-- GLB_STRAP.VSB (Table 22.2; RO). -/
def Reg.GLB_STRAP_VSB : Field := ⟨0x18, 2, 2⟩
/-- GLB_STRAP.CLAIM (Table 22.2; RO). -/
def Reg.GLB_STRAP_CLAIM : Field := ⟨0x18, 1, 1⟩
/-- GLB_STRAP.HEAD (Table 22.2; RO). -/
def Reg.GLB_STRAP_HEAD : Field := ⟨0x18, 0, 0⟩
/-- GLB_CMD.KEY (Table 22.2; WO). -/
def Reg.GLB_CMD_KEY : Field := ⟨0x20, 31, 16⟩
/-- GLB_CMD.TEST (Table 22.2; WO). -/
def Reg.GLB_CMD_TEST : Field := ⟨0x20, 1, 1⟩
/-- GLB_CMD.RESET (Table 22.2; WO). -/
def Reg.GLB_CMD_RESET : Field := ⟨0x20, 0, 0⟩
/-- GLB_STATUS.ACCERR (Table 22.2; W1C). -/
def Reg.GLB_STATUS_ACCERR : Field := ⟨0x28, 0, 0⟩
/-- GLB_ACCERR.UNMAPPED (Table 22.2; RC). -/
def Reg.GLB_ACCERR_UNMAPPED : Field := ⟨0x30, 63, 48⟩
/-- GLB_ACCERR.WIDTH (Table 22.2; RC). -/
def Reg.GLB_ACCERR_WIDTH : Field := ⟨0x30, 47, 32⟩
/-- GLB_ACCERR.LAST_OFF (Table 22.2; RO). -/
def Reg.GLB_ACCERR_LAST_OFF : Field := ⟨0x30, 25, 0⟩
/-- GLB_INTR_STAT.LEVEL (Table 22.2; RO). -/
def Reg.GLB_INTR_STAT_LEVEL : Field := ⟨0x40, 63, 0⟩
/-- GLB_INTR_HOST.EN (Table 22.2; RW). -/
def Reg.GLB_INTR_HOST_EN : Field := ⟨0x48, 63, 0⟩
/-- GLB_RDONEc.UNIT (Table 22.2; W1C). -/
def Reg.GLB_RDONE_UNIT (c : Nat) : Field := ⟨0x200 + 0x8 * c, 5, 0⟩
/-- DDR_CTRL.SPEED (Table 23.11; RO). -/
def Reg.DDR_CTRL_SPEED : Field := ⟨0x3800000, 7, 4⟩
/-- DDR_CTRL.PATROL_EN (Table 23.11; RW). -/
def Reg.DDR_CTRL_PATROL_EN : Field := ⟨0x3800000, 0, 0⟩
/-- DDR_STATUS.TRAINED (Table 23.12; RO). -/
def Reg.DDR_STATUS_TRAINED : Field := ⟨0x3800008, 23, 16⟩
/-- DDR_STATUS.TRAIN_CHK (Table 23.12; W1C). -/
def Reg.DDR_STATUS_TRAIN_CHK : Field := ⟨0x3800008, 2, 2⟩
/-- DDR_STATUS.UE_CHK (Table 23.12; W1C). -/
def Reg.DDR_STATUS_UE_CHK : Field := ⟨0x3800008, 1, 1⟩
/-- DDR_STATUS.CE_N (Table 23.12; W1C). -/
def Reg.DDR_STATUS_CE_N : Field := ⟨0x3800008, 0, 0⟩
/-- DDR_CHc.GIB (Table 23.13; RO). -/
def Reg.DDR_CH_GIB (c : Nat) : Field := ⟨0x3800100 + 0x8 * c, 63, 48⟩
/-- DDR_CHc.DIMMS (Table 23.13; RO). -/
def Reg.DDR_CH_DIMMS (c : Nat) : Field := ⟨0x3800100 + 0x8 * c, 47, 44⟩
/-- DDR_CHc.RANKS (Table 23.13; RO). -/
def Reg.DDR_CH_RANKS (c : Nat) : Field := ⟨0x3800100 + 0x8 * c, 43, 40⟩
/-- DDR_CHc.TEMP (Table 23.13; RO). -/
def Reg.DDR_CH_TEMP (c : Nat) : Field := ⟨0x3800100 + 0x8 * c, 31, 24⟩
/-- DDR_CHc.RETRAINS (Table 23.13; RC). -/
def Reg.DDR_CH_RETRAINS (c : Nat) : Field := ⟨0x3800100 + 0x8 * c, 23, 16⟩
/-- DDR_CHc.STATE (Table 23.13; RO). -/
def Reg.DDR_CH_STATE (c : Nat) : Field := ⟨0x3800100 + 0x8 * c, 2, 0⟩
/-- DDR_ECCc.CE (Table 23.13; RC). -/
def Reg.DDR_ECC_CE (c : Nat) : Field := ⟨0x3800200 + 0x8 * c, 63, 32⟩
/-- DDR_ECCc.UE (Table 23.13; RC). -/
def Reg.DDR_ECC_UE (c : Nat) : Field := ⟨0x3800200 + 0x8 * c, 31, 16⟩
/-- DDR_ECCc.LAST_SYM (Table 23.13; RO). -/
def Reg.DDR_ECC_LAST_SYM (c : Nat) : Field := ⟨0x3800200 + 0x8 * c, 15, 8⟩
/-- DDR_ECCc.LAST_SUB (Table 23.13; RO). -/
def Reg.DDR_ECC_LAST_SUB (c : Nat) : Field := ⟨0x3800200 + 0x8 * c, 0, 0⟩

/-! The field rows of the spec's register tables, in parts. -/

/-- Fields of the TMP register tables. -/
def fieldsTMP : List FieldSpec := [
  ⟨0x100000, 0x0, 1, 0x0, 1, 47, 32, .rw, [(1, 900)]⟩,
  ⟨0x100000, 0x0, 1, 0x0, 1, 31, 16, .rw, []⟩,
  ⟨0x100000, 0x0, 1, 0x0, 1, 15, 12, .ro, []⟩,
  ⟨0x100000, 0x0, 1, 0x0, 1, 11, 8, .ro, []⟩,
  ⟨0x100000, 0x0, 1, 0x0, 1, 7, 6, .rw, [(0, 2)]⟩,
  ⟨0x100000, 0x0, 1, 0x0, 1, 5, 5, .rw, []⟩,
  ⟨0x100000, 0x0, 1, 0x0, 1, 4, 4, .wo, []⟩,
  ⟨0x100008, 0x0, 1, 0x0, 1, 15, 15, .ro, []⟩,
  ⟨0x100008, 0x0, 1, 0x0, 1, 14, 14, .ro, []⟩,
  ⟨0x100008, 0x0, 1, 0x0, 1, 13, 13, .ro, []⟩,
  ⟨0x100008, 0x0, 1, 0x0, 1, 12, 12, .ro, []⟩,
  ⟨0x100008, 0x0, 1, 0x0, 1, 10, 8, .ro, []⟩,
  ⟨0x100008, 0x0, 1, 0x0, 1, 7, 4, .ro, []⟩,
  ⟨0x100008, 0x0, 1, 0x0, 1, 2, 2, .w1c, []⟩,
  ⟨0x100008, 0x0, 1, 0x0, 1, 1, 1, .w1c, []⟩,
  ⟨0x100008, 0x0, 1, 0x0, 1, 0, 0, .w1c, []⟩,
  ⟨0x100010, 0x0, 1, 0x0, 1, 63, 0, .ro, []⟩,
  ⟨0x100018, 0x0, 1, 0x0, 1, 0, 0, .wo, []⟩,
  ⟨0x100020, 0x0, 1, 0x0, 1, 63, 0, .ro, []⟩,
  ⟨0x100028, 0x0, 1, 0x0, 1, 47, 0, .ro, []⟩,
  ⟨0x100030, 0x0, 1, 0x0, 1, 31, 0, .ro, []⟩,
  ⟨0x100038, 0x0, 1, 0x0, 1, 31, 0, .rw, [(0, 500000000), (3794967296, 4294967295)]⟩,
  ⟨0x100040, 0x0, 1, 0x0, 1, 31, 0, .rw, []⟩,
  ⟨0x100048, 0x0, 1, 0x0, 1, 47, 0, .rw, []⟩,
  ⟨0x100050, 0x0, 1, 0x0, 1, 31, 0, .rw, [(0, 999999999)]⟩,
  ⟨0x100058, 0x0, 1, 0x0, 1, 31, 0, .wo, []⟩,
  ⟨0x100060, 0x0, 1, 0x0, 1, 31, 0, .ro, []⟩,
  ⟨0x100068, 0x0, 1, 0x0, 1, 47, 32, .ro, []⟩,
  ⟨0x100068, 0x0, 1, 0x0, 1, 31, 0, .rc, []⟩,
  ⟨0x100070, 0x0, 1, 0x0, 1, 15, 0, .ro, []⟩]

/-- Fields of the FAB register tables. -/
def fieldsFAB0 : List FieldSpec := [
  ⟨0x200000, 0x0, 1, 0x0, 1, 31, 24, .ro, []⟩,
  ⟨0x200000, 0x0, 1, 0x0, 1, 23, 16, .ro, []⟩,
  ⟨0x200000, 0x0, 1, 0x0, 1, 15, 12, .ro, []⟩,
  ⟨0x200000, 0x0, 1, 0x0, 1, 11, 8, .ro, []⟩,
  ⟨0x200000, 0x0, 1, 0x0, 1, 0, 0, .rw, []⟩,
  ⟨0x200008, 0x0, 1, 0x0, 1, 5, 5, .w1c, []⟩,
  ⟨0x200008, 0x0, 1, 0x0, 1, 4, 4, .w1c, []⟩,
  ⟨0x200008, 0x0, 1, 0x0, 1, 3, 3, .w1c, []⟩,
  ⟨0x200008, 0x0, 1, 0x0, 1, 2, 2, .w1c, []⟩,
  ⟨0x200008, 0x0, 1, 0x0, 1, 1, 1, .w1c, []⟩,
  ⟨0x200008, 0x0, 1, 0x0, 1, 0, 0, .ro, []⟩,
  ⟨0x200010, 0x0, 1, 0x0, 1, 47, 32, .rc, []⟩,
  ⟨0x200010, 0x0, 1, 0x0, 1, 21, 12, .ro, []⟩,
  ⟨0x200010, 0x0, 1, 0x0, 1, 11, 10, .ro, []⟩,
  ⟨0x200010, 0x0, 1, 0x0, 1, 9, 8, .ro, []⟩,
  ⟨0x200018, 0x0, 1, 0x0, 1, 47, 32, .rc, []⟩,
  ⟨0x200018, 0x0, 1, 0x0, 1, 31, 16, .rc, []⟩,
  ⟨0x200018, 0x0, 1, 0x0, 1, 15, 8, .ro, []⟩,
  ⟨0x200018, 0x0, 1, 0x0, 1, 6, 0, .ro, []⟩,
  ⟨0x200020, 0x0, 1, 0x0, 1, 63, 0, .w1c, []⟩,
  ⟨0x200028, 0x0, 1, 0x0, 1, 63, 0, .w1c, []⟩,
  ⟨0x200030, 0x0, 1, 0x0, 1, 63, 32, .rc, []⟩,
  ⟨0x200030, 0x0, 1, 0x0, 1, 31, 16, .rc, []⟩,
  ⟨0x200030, 0x0, 1, 0x0, 1, 9, 0, .ro, []⟩,
  ⟨0x200038, 0x0, 1, 0x0, 1, 23, 14, .rw, []⟩,
  ⟨0x200038, 0x0, 1, 0x0, 1, 13, 12, .rw, []⟩,
  ⟨0x200038, 0x0, 1, 0x0, 1, 11, 0, .rw, []⟩,
  ⟨0x200040, 0x0, 1, 0x0, 1, 0, 0, .w1s, []⟩,
  ⟨0x200048, 0x0, 1, 0x0, 1, 31, 16, .rw, [(64, 65535)]⟩,
  ⟨0x200048, 0x0, 1, 0x0, 1, 15, 0, .ro, []⟩,
  ⟨0x200050, 0x0, 1, 0x0, 1, 31, 24, .rc, []⟩,
  ⟨0x200050, 0x0, 1, 0x0, 1, 23, 20, .ro, []⟩,
  ⟨0x200050, 0x0, 1, 0x0, 1, 19, 16, .ro, []⟩,
  ⟨0x200050, 0x0, 1, 0x0, 1, 15, 12, .ro, []⟩,
  ⟨0x200050, 0x0, 1, 0x0, 1, 11, 0, .ro, []⟩,
  ⟨0x200058, 0x0, 1, 0x0, 1, 6, 6, .w1c, []⟩,
  ⟨0x200058, 0x0, 1, 0x0, 1, 5, 5, .w1c, []⟩,
  ⟨0x200058, 0x0, 1, 0x0, 1, 4, 4, .w1c, []⟩,
  ⟨0x200058, 0x0, 1, 0x0, 1, 3, 3, .w1c, []⟩,
  ⟨0x200058, 0x0, 1, 0x0, 1, 2, 2, .w1c, []⟩]

/-- Fields of the FAB register tables. -/
def fieldsFAB1 : List FieldSpec := [
  ⟨0x200058, 0x0, 1, 0x0, 1, 1, 1, .w1c, []⟩,
  ⟨0x200058, 0x0, 1, 0x0, 1, 0, 0, .w1c, []⟩]

/-- Fields of the CLn register tables. -/
def fieldsCL : List FieldSpec := [
  ⟨0x1000000, 0x100000, 8, 0x0, 1, 7, 4, .ro, []⟩,
  ⟨0x1000000, 0x100000, 8, 0x0, 1, 1, 1, .rw, []⟩,
  ⟨0x1000000, 0x100000, 8, 0x0, 1, 0, 0, .rw, []⟩,
  ⟨0x1000008, 0x100000, 8, 0x0, 1, 5, 5, .w1c, []⟩,
  ⟨0x1000008, 0x100000, 8, 0x0, 1, 4, 4, .ro, []⟩,
  ⟨0x1000008, 0x100000, 8, 0x0, 1, 3, 3, .w1c, []⟩,
  ⟨0x1000008, 0x100000, 8, 0x0, 1, 1, 0, .ro, []⟩,
  ⟨0x1000010, 0x100000, 8, 0x0, 1, 15, 0, .rw, []⟩,
  ⟨0x1000018, 0x100000, 8, 0x0, 1, 43, 0, .rw, []⟩,
  ⟨0x1000020, 0x100000, 8, 0x0, 1, 22, 0, .rw, []⟩,
  ⟨0x1000028, 0x100000, 8, 0x0, 1, 31, 16, .rc, []⟩,
  ⟨0x1000028, 0x100000, 8, 0x0, 1, 15, 14, .ro, []⟩,
  ⟨0x1000028, 0x100000, 8, 0x0, 1, 11, 8, .rw, []⟩,
  ⟨0x1000028, 0x100000, 8, 0x0, 1, 2, 1, .rw, [(0, 2)]⟩,
  ⟨0x1000028, 0x100000, 8, 0x0, 1, 0, 0, .w1s, []⟩,
  ⟨0x1000030, 0x100000, 8, 0x0, 1, 63, 32, .rc, []⟩,
  ⟨0x1000030, 0x100000, 8, 0x0, 1, 31, 0, .rc, []⟩,
  ⟨0x1000038, 0x100000, 8, 0x0, 1, 63, 0, .rc, []⟩,
  ⟨0x1000040, 0x100000, 8, 0x0, 1, 63, 0, .rc, []⟩,
  ⟨0x1000048, 0x100000, 8, 0x0, 1, 15, 0, .ro, []⟩,
  ⟨0x1000050, 0x100000, 8, 0x0, 1, 31, 0, .rc, []⟩,
  ⟨0x1000100, 0x100000, 8, 0x8, 8, 43, 0, .ro, []⟩]

/-- Fields of the GLB register tables. -/
def fieldsGLB : List FieldSpec := [
  ⟨0x100, 0x0, 1, 0x0, 1, 47, 32, .ro, []⟩,
  ⟨0x100, 0x0, 1, 0x0, 1, 31, 24, .rc, []⟩,
  ⟨0x100, 0x0, 1, 0x0, 1, 3, 2, .ro, []⟩,
  ⟨0x100, 0x0, 1, 0x0, 1, 1, 1, .ro, []⟩,
  ⟨0x100, 0x0, 1, 0x0, 1, 0, 0, .ro, []⟩,
  ⟨0x0, 0x0, 1, 0x0, 1, 31, 16, .ro, []⟩,
  ⟨0x0, 0x0, 1, 0x0, 1, 7, 4, .ro, []⟩,
  ⟨0x0, 0x0, 1, 0x0, 1, 3, 0, .ro, []⟩,
  ⟨0x8, 0x0, 1, 0x0, 1, 15, 12, .ro, []⟩,
  ⟨0x8, 0x0, 1, 0x0, 1, 11, 8, .ro, []⟩,
  ⟨0x8, 0x0, 1, 0x0, 1, 1, 0, .ro, []⟩,
  ⟨0x10, 0x0, 1, 0x0, 1, 63, 0, .ro, []⟩,
  ⟨0x18, 0x0, 1, 0x0, 1, 2, 2, .ro, []⟩,
  ⟨0x18, 0x0, 1, 0x0, 1, 1, 1, .ro, []⟩,
  ⟨0x18, 0x0, 1, 0x0, 1, 0, 0, .ro, []⟩,
  ⟨0x20, 0x0, 1, 0x0, 1, 31, 16, .wo, []⟩,
  ⟨0x20, 0x0, 1, 0x0, 1, 1, 1, .wo, []⟩,
  ⟨0x20, 0x0, 1, 0x0, 1, 0, 0, .wo, []⟩,
  ⟨0x28, 0x0, 1, 0x0, 1, 0, 0, .w1c, []⟩,
  ⟨0x30, 0x0, 1, 0x0, 1, 63, 48, .rc, []⟩,
  ⟨0x30, 0x0, 1, 0x0, 1, 47, 32, .rc, []⟩,
  ⟨0x30, 0x0, 1, 0x0, 1, 25, 0, .ro, []⟩,
  ⟨0x40, 0x0, 1, 0x0, 1, 63, 0, .ro, []⟩,
  ⟨0x48, 0x0, 1, 0x0, 1, 63, 0, .rw, []⟩,
  ⟨0x200, 0x8, 8, 0x0, 1, 5, 0, .w1c, []⟩]

/-- Fields of the NVF register tables. -/
def fieldsNVF0 : List FieldSpec := [
  ⟨0x3000000, 0x0, 1, 0x0, 1, 3, 3, .ro, []⟩,
  ⟨0x3000000, 0x0, 1, 0x0, 1, 2, 2, .rw, []⟩,
  ⟨0x3000000, 0x0, 1, 0x0, 1, 1, 1, .ro, []⟩,
  ⟨0x3000000, 0x0, 1, 0x0, 1, 0, 0, .ro, []⟩,
  ⟨0x3000008, 0x0, 1, 0x0, 1, 2, 2, .w1c, []⟩,
  ⟨0x3000008, 0x0, 1, 0x0, 1, 1, 1, .w1c, []⟩,
  ⟨0x3000008, 0x0, 1, 0x0, 1, 0, 0, .w1c, []⟩,
  ⟨0x3000010, 0x0, 1, 0x0, 1, 50, 32, .ro, []⟩,
  ⟨0x3000010, 0x0, 1, 0x0, 1, 14, 0, .ro, []⟩,
  ⟨0x3000018, 0x0, 1, 0x0, 1, 63, 32, .rc, []⟩,
  ⟨0x3000018, 0x0, 1, 0x0, 1, 15, 0, .rc, []⟩,
  ⟨0x3000020, 0x0, 1, 0x0, 1, 63, 32, .rc, []⟩,
  ⟨0x3000020, 0x0, 1, 0x0, 1, 31, 0, .rc, []⟩,
  ⟨0x3000028, 0x0, 1, 0x0, 1, 63, 32, .ro, []⟩,
  ⟨0x3000028, 0x0, 1, 0x0, 1, 31, 0, .ro, []⟩,
  ⟨0x3000030, 0x0, 1, 0x0, 1, 63, 48, .rc, []⟩,
  ⟨0x3000030, 0x0, 1, 0x0, 1, 47, 32, .rc, []⟩,
  ⟨0x3000030, 0x0, 1, 0x0, 1, 31, 16, .rc, []⟩,
  ⟨0x3000038, 0x0, 1, 0x0, 1, 31, 0, .ro, []⟩,
  ⟨0x3000040, 0x0, 1, 0x0, 1, 63, 0, .ro, []⟩,
  ⟨0x3000048, 0x0, 1, 0x0, 1, 63, 0, .ro, []⟩,
  ⟨0x3000050, 0x0, 1, 0x0, 1, 31, 0, .rc, []⟩,
  ⟨0x3000100, 0x8, 32, 0x0, 1, 63, 48, .rc, []⟩,
  ⟨0x3000100, 0x8, 32, 0x0, 1, 39, 20, .rc, []⟩,
  ⟨0x3000100, 0x8, 32, 0x0, 1, 19, 0, .ro, []⟩,
  ⟨0x3004000, 0x0, 1, 0x0, 1, 63, 32, .rw, []⟩,
  ⟨0x3004000, 0x0, 1, 0x0, 1, 7, 4, .rw, [(0, 7)]⟩,
  ⟨0x3004000, 0x0, 1, 0x0, 1, 0, 0, .w1s, []⟩,
  ⟨0x3004008, 0x0, 1, 0x0, 1, 63, 32, .rw, []⟩,
  ⟨0x3004008, 0x0, 1, 0x0, 1, 31, 0, .rw, []⟩,
  ⟨0x3004010, 0x0, 1, 0x0, 1, 62, 56, .rw, [(0, 64)]⟩,
  ⟨0x3004010, 0x0, 1, 0x0, 1, 43, 0, .rw, []⟩,
  ⟨0x3004018, 0x0, 1, 0x0, 1, 63, 32, .ro, []⟩,
  ⟨0x3004018, 0x0, 1, 0x0, 1, 7, 7, .ro, []⟩,
  ⟨0x3004018, 0x0, 1, 0x0, 1, 3, 0, .ro, []⟩,
  ⟨0x3004100, 0x0, 1, 0x0, 1, 29, 28, .rw, [(0, 1)]⟩,
  ⟨0x3004100, 0x0, 1, 0x0, 1, 21, 16, .rw, []⟩,
  ⟨0x3004100, 0x0, 1, 0x0, 1, 11, 0, .rw, []⟩,
  ⟨0x3004108, 0x0, 1, 0x0, 1, 63, 48, .rw, [(1, 65535)]⟩,
  ⟨0x3004108, 0x0, 1, 0x0, 1, 47, 32, .rw, [(1, 65535)]⟩]

/-- Fields of the NVF register tables. -/
def fieldsNVF1 : List FieldSpec := [
  ⟨0x3004108, 0x0, 1, 0x0, 1, 31, 16, .rw, [(60, 65535)]⟩,
  ⟨0x3004108, 0x0, 1, 0x0, 1, 15, 8, .rw, [(1, 255)]⟩,
  ⟨0x3004108, 0x0, 1, 0x0, 1, 0, 0, .rw, []⟩,
  ⟨0x3004110, 0x0, 1, 0x0, 1, 63, 32, .ro, []⟩,
  ⟨0x3004110, 0x0, 1, 0x0, 1, 7, 7, .ro, []⟩,
  ⟨0x3004110, 0x0, 1, 0x0, 1, 6, 6, .ro, []⟩,
  ⟨0x3004110, 0x0, 1, 0x0, 1, 2, 0, .ro, []⟩,
  ⟨0x3004118, 0x0, 1, 0x0, 1, 63, 32, .rc, []⟩,
  ⟨0x3004118, 0x0, 1, 0x0, 1, 31, 0, .rc, []⟩,
  ⟨0x3004120, 0x0, 1, 0x0, 1, 2, 2, .w1c, []⟩,
  ⟨0x3004120, 0x0, 1, 0x0, 1, 1, 1, .w1c, []⟩,
  ⟨0x3004120, 0x0, 1, 0x0, 1, 0, 0, .w1c, []⟩]

/-- Fields of the ETH register tables. -/
def fieldsETH : List FieldSpec := [
  ⟨0x3200000, 0x0, 1, 0x0, 1, 1, 0, .ro, []⟩,
  ⟨0x3200000, 0x0, 1, 0x0, 1, 3, 2, .ro, []⟩,
  ⟨0x3200000, 0x0, 1, 0x0, 1, 5, 4, .ro, []⟩,
  ⟨0x3200000, 0x0, 1, 0x0, 1, 7, 6, .ro, []⟩,
  ⟨0x3200000, 0x0, 1, 0x0, 1, 9, 8, .ro, []⟩,
  ⟨0x3200000, 0x0, 1, 0x0, 1, 11, 10, .ro, []⟩,
  ⟨0x3200000, 0x0, 1, 0x0, 1, 13, 12, .ro, []⟩,
  ⟨0x3200000, 0x0, 1, 0x0, 1, 15, 14, .ro, []⟩,
  ⟨0x3200008, 0x0, 1, 0x0, 1, 63, 56, .ro, []⟩,
  ⟨0x3200008, 0x0, 1, 0x0, 1, 55, 48, .ro, []⟩,
  ⟨0x3200008, 0x0, 1, 0x0, 1, 47, 32, .rw, []⟩,
  ⟨0x3200008, 0x0, 1, 0x0, 1, 15, 8, .rw, [(25, 70)]⟩,
  ⟨0x3200010, 0x0, 1, 0x0, 1, 63, 56, .rw, []⟩,
  ⟨0x3200010, 0x0, 1, 0x0, 1, 55, 48, .rw, []⟩,
  ⟨0x3200010, 0x0, 1, 0x0, 1, 47, 40, .rw, []⟩,
  ⟨0x3200010, 0x0, 1, 0x0, 1, 39, 32, .rw, []⟩,
  ⟨0x3200010, 0x0, 1, 0x0, 1, 31, 20, .rw, []⟩,
  ⟨0x3200010, 0x0, 1, 0x0, 1, 19, 8, .rw, []⟩,
  ⟨0x3200010, 0x0, 1, 0x0, 1, 3, 0, .rw, [(1, 8)]⟩,
  ⟨0x3200100, 0x8, 32, 0x0, 1, 63, 48, .rc, []⟩,
  ⟨0x3200100, 0x8, 32, 0x0, 1, 31, 16, .rc, []⟩,
  ⟨0x3200100, 0x8, 32, 0x0, 1, 3, 2, .ro, []⟩,
  ⟨0x3200100, 0x8, 32, 0x0, 1, 1, 1, .ro, []⟩,
  ⟨0x3200100, 0x8, 32, 0x0, 1, 0, 0, .ro, []⟩,
  ⟨0x3200200, 0x8, 32, 0x0, 1, 63, 48, .rc, []⟩,
  ⟨0x3200200, 0x8, 32, 0x0, 1, 47, 32, .rc, []⟩,
  ⟨0x3200200, 0x8, 32, 0x0, 1, 31, 16, .rc, []⟩,
  ⟨0x3200200, 0x8, 32, 0x0, 1, 15, 0, .rc, []⟩]

/-- Fields of the FIU register tables. -/
def fieldsFIU0 : List FieldSpec := [
  ⟨0x2400000, 0x0, 1, 0x0, 1, 63, 48, .rw, [(1, 65535)]⟩,
  ⟨0x2400000, 0x0, 1, 0x0, 1, 39, 32, .ro, []⟩,
  ⟨0x2400000, 0x0, 1, 0x0, 1, 31, 16, .rw, []⟩,
  ⟨0x2400000, 0x0, 1, 0x0, 1, 7, 3, .ro, []⟩,
  ⟨0x2400000, 0x0, 1, 0x0, 1, 1, 1, .rw, []⟩,
  ⟨0x2400000, 0x0, 1, 0x0, 1, 0, 0, .ro, []⟩,
  ⟨0x2400008, 0x0, 1, 0x0, 1, 7, 7, .ro, []⟩,
  ⟨0x2400008, 0x0, 1, 0x0, 1, 6, 6, .ro, []⟩,
  ⟨0x2400008, 0x0, 1, 0x0, 1, 2, 2, .w1c, []⟩,
  ⟨0x2400008, 0x0, 1, 0x0, 1, 1, 1, .w1c, []⟩,
  ⟨0x2400008, 0x0, 1, 0x0, 1, 0, 0, .w1c, []⟩,
  ⟨0x2400010, 0x0, 1, 0x0, 1, 47, 0, .ro, []⟩,
  ⟨0x2400018, 0x0, 1, 0x0, 1, 47, 0, .ro, []⟩,
  ⟨0x2400020, 0x0, 1, 0x0, 1, 63, 32, .rc, []⟩,
  ⟨0x2400020, 0x0, 1, 0x0, 1, 31, 0, .rc, []⟩,
  ⟨0x2400028, 0x0, 1, 0x0, 1, 63, 32, .rc, []⟩,
  ⟨0x2400028, 0x0, 1, 0x0, 1, 31, 0, .rc, []⟩,
  ⟨0x2400030, 0x0, 1, 0x0, 1, 63, 32, .rc, []⟩,
  ⟨0x2400030, 0x0, 1, 0x0, 1, 31, 0, .rc, []⟩,
  ⟨0x2400038, 0x0, 1, 0x0, 1, 63, 32, .rc, []⟩,
  ⟨0x2400038, 0x0, 1, 0x0, 1, 31, 0, .rc, []⟩,
  ⟨0x2400040, 0x0, 1, 0x0, 1, 63, 32, .rc, []⟩,
  ⟨0x2400040, 0x0, 1, 0x0, 1, 31, 0, .ro, []⟩,
  ⟨0x2400048, 0x0, 1, 0x0, 1, 63, 32, .rc, []⟩,
  ⟨0x2400048, 0x0, 1, 0x0, 1, 31, 0, .rc, []⟩,
  ⟨0x2400050, 0x0, 1, 0x0, 1, 63, 48, .ro, []⟩,
  ⟨0x2400050, 0x0, 1, 0x0, 1, 47, 32, .rc, []⟩,
  ⟨0x2400050, 0x0, 1, 0x0, 1, 31, 16, .rc, []⟩,
  ⟨0x2400050, 0x0, 1, 0x0, 1, 15, 0, .rc, []⟩,
  ⟨0x2400060, 0x0, 1, 0x0, 1, 31, 0, .ro, []⟩,
  ⟨0x2400068, 0x0, 1, 0x0, 1, 63, 0, .rw, []⟩,
  ⟨0x2400080, 0x8, 8, 0x0, 1, 63, 56, .ro, []⟩,
  ⟨0x2400080, 0x8, 8, 0x0, 1, 43, 0, .ro, []⟩,
  ⟨0x2401000, 0x8, 512, 0x0, 1, 7, 0, .ro, []⟩,
  ⟨0x2401000, 0x8, 512, 0x0, 1, 15, 8, .ro, []⟩,
  ⟨0x2401000, 0x8, 512, 0x0, 1, 23, 16, .ro, []⟩,
  ⟨0x2401000, 0x8, 512, 0x0, 1, 31, 24, .ro, []⟩,
  ⟨0x2401000, 0x8, 512, 0x0, 1, 39, 32, .ro, []⟩,
  ⟨0x2401000, 0x8, 512, 0x0, 1, 47, 40, .ro, []⟩,
  ⟨0x2401000, 0x8, 512, 0x0, 1, 55, 48, .ro, []⟩]

/-- Fields of the FIU register tables. -/
def fieldsFIU1 : List FieldSpec := [
  ⟨0x2401000, 0x8, 512, 0x0, 1, 63, 56, .ro, []⟩,
  ⟨0x2402000, 0x8, 512, 0x0, 1, 7, 0, .rw, []⟩,
  ⟨0x2402000, 0x8, 512, 0x0, 1, 15, 8, .rw, []⟩,
  ⟨0x2402000, 0x8, 512, 0x0, 1, 23, 16, .rw, []⟩,
  ⟨0x2402000, 0x8, 512, 0x0, 1, 31, 24, .rw, []⟩,
  ⟨0x2402000, 0x8, 512, 0x0, 1, 39, 32, .rw, []⟩,
  ⟨0x2402000, 0x8, 512, 0x0, 1, 47, 40, .rw, []⟩,
  ⟨0x2402000, 0x8, 512, 0x0, 1, 55, 48, .rw, []⟩,
  ⟨0x2402000, 0x8, 512, 0x0, 1, 63, 56, .rw, []⟩]

/-- Fields of the CMP register tables. -/
def fieldsCMP : List FieldSpec := [
  ⟨0x2200000, 0x0, 1, 0x0, 1, 15, 0, .rw, []⟩,
  ⟨0x2200008, 0x0, 1, 0x0, 1, 34, 34, .w1c, []⟩,
  ⟨0x2200008, 0x0, 1, 0x0, 1, 33, 33, .w1c, []⟩,
  ⟨0x2200008, 0x0, 1, 0x0, 1, 32, 32, .w1c, []⟩,
  ⟨0x2200008, 0x0, 1, 0x0, 1, 31, 16, .ro, []⟩,
  ⟨0x2200008, 0x0, 1, 0x0, 1, 15, 0, .ro, []⟩,
  ⟨0x2200010, 0x0, 1, 0x0, 1, 63, 32, .rc, []⟩,
  ⟨0x2200010, 0x0, 1, 0x0, 1, 31, 0, .rc, []⟩,
  ⟨0x2200018, 0x0, 1, 0x0, 1, 63, 48, .rc, []⟩,
  ⟨0x2200018, 0x0, 1, 0x0, 1, 47, 32, .rc, []⟩,
  ⟨0x2200018, 0x0, 1, 0x0, 1, 31, 16, .rc, []⟩,
  ⟨0x2200018, 0x0, 1, 0x0, 1, 15, 0, .rc, []⟩,
  ⟨0x2200020, 0x0, 1, 0x0, 1, 63, 32, .ro, []⟩,
  ⟨0x2200020, 0x0, 1, 0x0, 1, 31, 0, .ro, []⟩,
  ⟨0x2200028, 0x0, 1, 0x0, 1, 7, 7, .ro, []⟩,
  ⟨0x2200028, 0x0, 1, 0x0, 1, 3, 0, .ro, []⟩,
  ⟨0x2200030, 0x0, 1, 0x0, 1, 8, 8, .w1s, []⟩,
  ⟨0x2200030, 0x0, 1, 0x0, 1, 3, 0, .rw, []⟩,
  ⟨0x2200080, 0x8, 16, 0x0, 1, 63, 56, .ro, []⟩,
  ⟨0x2200080, 0x8, 16, 0x0, 1, 55, 54, .ro, []⟩,
  ⟨0x2200080, 0x8, 16, 0x0, 1, 43, 0, .ro, []⟩,
  ⟨0x2200100, 0x8, 16, 0x0, 1, 31, 16, .ro, []⟩,
  ⟨0x2200100, 0x8, 16, 0x0, 1, 15, 0, .ro, []⟩]

/-- Fields of the DIG register tables. -/
def fieldsDIG : List FieldSpec := [
  ⟨0x2100000, 0x0, 1, 0x0, 1, 1, 0, .rw, []⟩,
  ⟨0x2100008, 0x0, 1, 0x0, 1, 6, 6, .w1c, []⟩,
  ⟨0x2100008, 0x0, 1, 0x0, 1, 5, 5, .w1c, []⟩,
  ⟨0x2100008, 0x0, 1, 0x0, 1, 4, 4, .w1c, []⟩,
  ⟨0x2100008, 0x0, 1, 0x0, 1, 3, 2, .ro, []⟩,
  ⟨0x2100008, 0x0, 1, 0x0, 1, 1, 0, .ro, []⟩,
  ⟨0x2100010, 0x0, 1, 0x0, 1, 63, 32, .rc, []⟩,
  ⟨0x2100010, 0x0, 1, 0x0, 1, 31, 0, .rc, []⟩,
  ⟨0x2100018, 0x0, 1, 0x0, 1, 63, 48, .rc, []⟩,
  ⟨0x2100018, 0x0, 1, 0x0, 1, 47, 32, .rc, []⟩,
  ⟨0x2100018, 0x0, 1, 0x0, 1, 31, 16, .rc, []⟩,
  ⟨0x2100018, 0x0, 1, 0x0, 1, 15, 0, .rc, []⟩,
  ⟨0x2100020, 0x0, 1, 0x0, 1, 63, 32, .ro, []⟩,
  ⟨0x2100020, 0x0, 1, 0x0, 1, 31, 0, .ro, []⟩,
  ⟨0x2100028, 0x0, 1, 0x0, 1, 7, 0, .ro, []⟩,
  ⟨0x2100030, 0x0, 1, 0x0, 1, 8, 8, .w1s, []⟩,
  ⟨0x2100030, 0x0, 1, 0x0, 1, 0, 0, .rw, []⟩,
  ⟨0x2100080, 0x8, 8, 0x0, 1, 63, 56, .ro, []⟩,
  ⟨0x2100080, 0x8, 8, 0x0, 1, 55, 54, .ro, []⟩,
  ⟨0x2100080, 0x8, 8, 0x0, 1, 43, 0, .ro, []⟩,
  ⟨0x2100100, 0x8, 8, 0x0, 1, 31, 16, .ro, []⟩,
  ⟨0x2100100, 0x8, 8, 0x0, 1, 15, 0, .ro, []⟩]

/-- Fields of the CIP register tables. -/
def fieldsCIP0 : List FieldSpec := [
  ⟨0x2000000, 0x0, 1, 0x0, 1, 16, 16, .rw, []⟩,
  ⟨0x2000000, 0x0, 1, 0x0, 1, 11, 0, .rw, []⟩,
  ⟨0x2000008, 0x0, 1, 0x0, 1, 36, 36, .w1c, []⟩,
  ⟨0x2000008, 0x0, 1, 0x0, 1, 35, 35, .w1c, []⟩,
  ⟨0x2000008, 0x0, 1, 0x0, 1, 34, 34, .w1c, []⟩,
  ⟨0x2000008, 0x0, 1, 0x0, 1, 33, 33, .w1c, []⟩,
  ⟨0x2000008, 0x0, 1, 0x0, 1, 32, 32, .w1c, []⟩,
  ⟨0x2000008, 0x0, 1, 0x0, 1, 27, 16, .ro, []⟩,
  ⟨0x2000008, 0x0, 1, 0x0, 1, 11, 0, .ro, []⟩,
  ⟨0x2000010, 0x0, 1, 0x0, 1, 63, 32, .rc, []⟩,
  ⟨0x2000010, 0x0, 1, 0x0, 1, 31, 0, .rc, []⟩,
  ⟨0x2000018, 0x0, 1, 0x0, 1, 63, 48, .rc, []⟩,
  ⟨0x2000018, 0x0, 1, 0x0, 1, 47, 32, .rc, []⟩,
  ⟨0x2000018, 0x0, 1, 0x0, 1, 31, 16, .rc, []⟩,
  ⟨0x2000018, 0x0, 1, 0x0, 1, 15, 0, .rc, []⟩,
  ⟨0x2000020, 0x0, 1, 0x0, 1, 63, 32, .ro, []⟩,
  ⟨0x2000020, 0x0, 1, 0x0, 1, 31, 0, .ro, []⟩,
  ⟨0x2000028, 0x0, 1, 0x0, 1, 3, 0, .ro, []⟩,
  ⟨0x2000030, 0x0, 1, 0x0, 1, 63, 32, .rc, []⟩,
  ⟨0x2000030, 0x0, 1, 0x0, 1, 4, 0, .ro, []⟩,
  ⟨0x2000038, 0x0, 1, 0x0, 1, 63, 32, .rc, []⟩,
  ⟨0x2000038, 0x0, 1, 0x0, 1, 15, 0, .ro, []⟩,
  ⟨0x2000040, 0x0, 1, 0x0, 1, 8, 8, .w1s, []⟩,
  ⟨0x2000040, 0x0, 1, 0x0, 1, 3, 0, .rw, [(0, 11)]⟩,
  ⟨0x2000048, 0x0, 1, 0x0, 1, 39, 32, .rw, []⟩,
  ⟨0x2000048, 0x0, 1, 0x0, 1, 31, 28, .rw, [(1, 4), (7, 7)]⟩,
  ⟨0x2000048, 0x0, 1, 0x0, 1, 27, 20, .rw, []⟩,
  ⟨0x2000048, 0x0, 1, 0x0, 1, 19, 8, .rw, []⟩,
  ⟨0x2000048, 0x0, 1, 0x0, 1, 0, 0, .w1s, []⟩,
  ⟨0x2000050, 0x0, 1, 0x0, 1, 7, 7, .ro, []⟩,
  ⟨0x2000050, 0x0, 1, 0x0, 1, 3, 0, .ro, []⟩,
  ⟨0x2000080, 0x8, 16, 0x0, 1, 63, 56, .ro, []⟩,
  ⟨0x2000080, 0x8, 16, 0x0, 1, 55, 54, .ro, []⟩,
  ⟨0x2000080, 0x8, 16, 0x0, 1, 43, 0, .ro, []⟩,
  ⟨0x2000100, 0x8, 16, 0x0, 1, 31, 16, .ro, []⟩,
  ⟨0x2000100, 0x8, 16, 0x0, 1, 15, 0, .ro, []⟩,
  ⟨0x2001000, 0x8, 256, 0x0, 1, 63, 48, .ro, []⟩,
  ⟨0x2001000, 0x8, 256, 0x0, 1, 39, 32, .ro, []⟩,
  ⟨0x2001000, 0x8, 256, 0x0, 1, 31, 20, .ro, []⟩,
  ⟨0x2001000, 0x8, 256, 0x0, 1, 15, 13, .ro, []⟩]

/-- Fields of the CIP register tables. -/
def fieldsCIP1 : List FieldSpec := [
  ⟨0x2001000, 0x8, 256, 0x0, 1, 12, 12, .ro, []⟩,
  ⟨0x2001000, 0x8, 256, 0x0, 1, 11, 10, .ro, []⟩]

/-- Fields of the MDL register tables. -/
def fieldsMDL0 : List FieldSpec := [
  ⟨0x3408000, 0x0, 1, 0x0, 1, 63, 48, .rw, [(1, 65535)]⟩,
  ⟨0x3408000, 0x0, 1, 0x0, 1, 47, 40, .rw, []⟩,
  ⟨0x3408000, 0x0, 1, 0x0, 1, 31, 24, .rw, [(1, 20)]⟩,
  ⟨0x3408000, 0x0, 1, 0x0, 1, 23, 16, .rw, []⟩,
  ⟨0x3408000, 0x0, 1, 0x0, 1, 15, 8, .rw, []⟩,
  ⟨0x3408000, 0x0, 1, 0x0, 1, 0, 0, .rw, []⟩,
  ⟨0x3408008, 0x0, 1, 0x0, 1, 7, 7, .ro, []⟩,
  ⟨0x3408008, 0x0, 1, 0x0, 1, 6, 6, .w1c, []⟩,
  ⟨0x3408008, 0x0, 1, 0x0, 1, 5, 5, .w1c, []⟩,
  ⟨0x3408008, 0x0, 1, 0x0, 1, 4, 4, .w1c, []⟩,
  ⟨0x3408008, 0x0, 1, 0x0, 1, 3, 3, .w1c, []⟩,
  ⟨0x3408008, 0x0, 1, 0x0, 1, 2, 2, .w1c, []⟩,
  ⟨0x3408008, 0x0, 1, 0x0, 1, 1, 1, .w1c, []⟩,
  ⟨0x3408008, 0x0, 1, 0x0, 1, 0, 0, .ro, []⟩,
  ⟨0x3408010, 0x0, 1, 0x0, 1, 63, 32, .rc, []⟩,
  ⟨0x3408010, 0x0, 1, 0x0, 1, 31, 16, .rc, []⟩,
  ⟨0x3408010, 0x0, 1, 0x0, 1, 15, 0, .rc, []⟩,
  ⟨0x3408018, 0x0, 1, 0x0, 1, 63, 24, .ro, []⟩,
  ⟨0x3408018, 0x0, 1, 0x0, 1, 23, 0, .ro, []⟩,
  ⟨0x3408020, 0x0, 1, 0x0, 1, 63, 44, .rc, []⟩,
  ⟨0x3408020, 0x0, 1, 0x0, 1, 43, 0, .ro, []⟩,
  ⟨0x3408028, 0x0, 1, 0x0, 1, 63, 48, .rw, [(100, 400)]⟩,
  ⟨0x3408028, 0x0, 1, 0x0, 1, 47, 32, .rw, [(5, 200)]⟩,
  ⟨0x3408028, 0x0, 1, 0x0, 1, 31, 0, .rw, []⟩,
  ⟨0x3408030, 0x0, 1, 0x0, 1, 15, 8, .rw, [(1, 15)]⟩,
  ⟨0x3408030, 0x0, 1, 0x0, 1, 7, 0, .rw, [(1, 255)]⟩,
  ⟨0x3408038, 0x0, 1, 0x0, 1, 63, 32, .ro, []⟩,
  ⟨0x3408038, 0x0, 1, 0x0, 1, 31, 16, .ro, []⟩,
  ⟨0x3408038, 0x0, 1, 0x0, 1, 1, 0, .ro, []⟩,
  ⟨0x3408040, 0x0, 1, 0x0, 1, 63, 32, .ro, []⟩,
  ⟨0x3408040, 0x0, 1, 0x0, 1, 31, 0, .ro, []⟩,
  ⟨0x3408100, 0x8, 32, 0x0, 1, 63, 32, .ro, []⟩,
  ⟨0x3408100, 0x8, 32, 0x0, 1, 31, 0, .ro, []⟩,
  ⟨0x3400010, 0x0, 1, 0x0, 1, 63, 48, .rw, [(10, 65535)]⟩,
  ⟨0x3400010, 0x0, 1, 0x0, 1, 47, 32, .rw, [(20, 1000)]⟩,
  ⟨0x3400010, 0x0, 1, 0x0, 1, 31, 24, .rw, [(1, 50)]⟩,
  ⟨0x3400010, 0x0, 1, 0x0, 1, 23, 16, .rw, [(10, 255)]⟩,
  ⟨0x3400010, 0x0, 1, 0x0, 1, 15, 8, .rw, [(1, 40)]⟩,
  ⟨0x3400000, 0x0, 1, 0x0, 1, 63, 0, .rw, []⟩,
  ⟨0x3400008, 0x0, 1, 0x0, 1, 1, 1, .rw, []⟩]

/-- Fields of the MDL register tables. -/
def fieldsMDL1 : List FieldSpec := [
  ⟨0x3400008, 0x0, 1, 0x0, 1, 0, 0, .wo, []⟩,
  ⟨0x3400018, 0x0, 1, 0x0, 1, 63, 48, .rw, []⟩,
  ⟨0x3400018, 0x0, 1, 0x0, 1, 47, 32, .rw, []⟩,
  ⟨0x3400018, 0x0, 1, 0x0, 1, 31, 16, .rw, []⟩,
  ⟨0x3400018, 0x0, 1, 0x0, 1, 15, 0, .rw, []⟩,
  ⟨0x3400020, 0x0, 1, 0x0, 1, 5, 5, .w1c, []⟩,
  ⟨0x3400020, 0x0, 1, 0x0, 1, 4, 4, .w1c, []⟩,
  ⟨0x3400020, 0x0, 1, 0x0, 1, 3, 3, .w1c, []⟩,
  ⟨0x3400020, 0x0, 1, 0x0, 1, 2, 2, .w1c, []⟩,
  ⟨0x3400020, 0x0, 1, 0x0, 1, 1, 1, .w1c, []⟩,
  ⟨0x3400020, 0x0, 1, 0x0, 1, 0, 0, .w1c, []⟩,
  ⟨0x3400028, 0x0, 1, 0x0, 1, 63, 32, .ro, []⟩,
  ⟨0x3400028, 0x0, 1, 0x0, 1, 31, 0, .ro, []⟩,
  ⟨0x3400030, 0x0, 1, 0x0, 1, 15, 10, .ro, []⟩,
  ⟨0x3400030, 0x0, 1, 0x0, 1, 9, 0, .ro, []⟩,
  ⟨0x3400040, 0x0, 1, 0x0, 1, 63, 0, .ro, []⟩,
  ⟨0x3400048, 0x0, 1, 0x0, 1, 8, 8, .w1s, []⟩,
  ⟨0x3400048, 0x0, 1, 0x0, 1, 5, 0, .rw, []⟩,
  ⟨0x3400100, 0x8, 64, 0x0, 1, 63, 48, .rc, []⟩,
  ⟨0x3400100, 0x8, 64, 0x0, 1, 47, 32, .rc, []⟩,
  ⟨0x3400100, 0x8, 64, 0x0, 1, 31, 16, .rc, []⟩,
  ⟨0x3400100, 0x8, 64, 0x0, 1, 5, 5, .ro, []⟩,
  ⟨0x3400100, 0x8, 64, 0x0, 1, 4, 4, .ro, []⟩,
  ⟨0x3400100, 0x8, 64, 0x0, 1, 3, 3, .ro, []⟩,
  ⟨0x3400100, 0x8, 64, 0x0, 1, 2, 0, .ro, []⟩,
  ⟨0x3400300, 0x8, 64, 0x0, 1, 63, 48, .rc, []⟩,
  ⟨0x3400300, 0x8, 64, 0x0, 1, 47, 32, .rc, []⟩,
  ⟨0x3400300, 0x8, 64, 0x0, 1, 31, 16, .rc, []⟩,
  ⟨0x3400300, 0x8, 64, 0x0, 1, 15, 0, .rc, []⟩,
  ⟨0x3400500, 0x8, 64, 0x0, 1, 15, 0, .ro, []⟩,
  ⟨0x3400700, 0x8, 64, 0x0, 1, 63, 0, .ro, []⟩]

/-- Fields of the ERS register tables. -/
def fieldsERS0 : List FieldSpec := [
  ⟨0x2300000, 0x0, 1, 0x0, 1, 3, 0, .rw, []⟩,
  ⟨0x2300008, 0x0, 1, 0x0, 1, 12, 12, .w1c, []⟩,
  ⟨0x2300008, 0x0, 1, 0x0, 1, 11, 11, .w1c, []⟩,
  ⟨0x2300008, 0x0, 1, 0x0, 1, 10, 10, .w1c, []⟩,
  ⟨0x2300008, 0x0, 1, 0x0, 1, 9, 9, .w1c, []⟩,
  ⟨0x2300008, 0x0, 1, 0x0, 1, 8, 8, .ro, []⟩,
  ⟨0x2300008, 0x0, 1, 0x0, 1, 7, 4, .ro, []⟩,
  ⟨0x2300008, 0x0, 1, 0x0, 1, 3, 0, .ro, []⟩,
  ⟨0x2300010, 0x0, 1, 0x0, 1, 63, 32, .rc, []⟩,
  ⟨0x2300010, 0x0, 1, 0x0, 1, 31, 0, .rc, []⟩,
  ⟨0x2300018, 0x0, 1, 0x0, 1, 63, 48, .rc, []⟩,
  ⟨0x2300018, 0x0, 1, 0x0, 1, 47, 32, .rc, []⟩,
  ⟨0x2300018, 0x0, 1, 0x0, 1, 31, 16, .rc, []⟩,
  ⟨0x2300018, 0x0, 1, 0x0, 1, 15, 0, .rc, []⟩,
  ⟨0x2300020, 0x0, 1, 0x0, 1, 8, 8, .w1s, []⟩,
  ⟨0x2300020, 0x0, 1, 0x0, 1, 1, 0, .rw, []⟩,
  ⟨0x2300028, 0x0, 1, 0x0, 1, 63, 48, .rw, [(1, 65535)]⟩,
  ⟨0x2300028, 0x0, 1, 0x0, 1, 47, 40, .rw, [(1, 255)]⟩,
  ⟨0x2300028, 0x0, 1, 0x0, 1, 39, 32, .rw, [(1, 255)]⟩,
  ⟨0x2300028, 0x0, 1, 0x0, 1, 31, 16, .rw, []⟩,
  ⟨0x2300028, 0x0, 1, 0x0, 1, 1, 0, .ro, []⟩,
  ⟨0x2300030, 0x0, 1, 0x0, 1, 63, 32, .ro, []⟩,
  ⟨0x2300030, 0x0, 1, 0x0, 1, 7, 6, .ro, []⟩,
  ⟨0x2300030, 0x0, 1, 0x0, 1, 5, 0, .ro, []⟩,
  ⟨0x2300038, 0x0, 1, 0x0, 1, 63, 0, .rc, []⟩,
  ⟨0x2300040, 0x0, 1, 0x0, 1, 63, 32, .rc, []⟩,
  ⟨0x2300040, 0x0, 1, 0x0, 1, 31, 16, .rc, []⟩,
  ⟨0x2300040, 0x0, 1, 0x0, 1, 15, 0, .rc, []⟩,
  ⟨0x2300048, 0x0, 1, 0x0, 1, 47, 32, .ro, []⟩,
  ⟨0x2300048, 0x0, 1, 0x0, 1, 20, 16, .rw, []⟩,
  ⟨0x2300048, 0x0, 1, 0x0, 1, 9, 0, .rw, []⟩,
  ⟨0x2300050, 0x8, 4, 0x0, 1, 63, 0, .ro, []⟩,
  ⟨0x2300080, 0x8, 8, 0x0, 1, 63, 56, .ro, []⟩,
  ⟨0x2300080, 0x8, 8, 0x0, 1, 55, 54, .ro, []⟩,
  ⟨0x2300080, 0x8, 8, 0x0, 1, 43, 0, .ro, []⟩,
  ⟨0x2300100, 0x8, 8, 0x0, 1, 31, 16, .ro, []⟩,
  ⟨0x2300100, 0x8, 8, 0x0, 1, 15, 0, .ro, []⟩,
  ⟨0x2300200, 0x8, 32, 0x0, 1, 63, 48, .ro, []⟩,
  ⟨0x2300200, 0x8, 32, 0x0, 1, 47, 40, .ro, []⟩,
  ⟨0x2300200, 0x8, 32, 0x0, 1, 39, 32, .ro, []⟩]

/-- Fields of the ERS register tables. -/
def fieldsERS1 : List FieldSpec := [
  ⟨0x2300200, 0x8, 32, 0x0, 1, 31, 24, .ro, []⟩,
  ⟨0x2300200, 0x8, 32, 0x0, 1, 23, 16, .ro, []⟩,
  ⟨0x2300200, 0x8, 32, 0x0, 1, 15, 8, .ro, []⟩,
  ⟨0x2300200, 0x8, 32, 0x0, 1, 0, 0, .ro, []⟩,
  ⟨0x2300300, 0x8, 4, 0x0, 1, 3, 0, .ro, []⟩,
  ⟨0x2300300, 0x8, 4, 0x0, 1, 7, 4, .ro, []⟩,
  ⟨0x2300300, 0x8, 4, 0x0, 1, 11, 8, .ro, []⟩,
  ⟨0x2300300, 0x8, 4, 0x0, 1, 15, 12, .ro, []⟩,
  ⟨0x2300300, 0x8, 4, 0x0, 1, 19, 16, .ro, []⟩,
  ⟨0x2300300, 0x8, 4, 0x0, 1, 23, 20, .ro, []⟩,
  ⟨0x2300300, 0x8, 4, 0x0, 1, 27, 24, .ro, []⟩,
  ⟨0x2300300, 0x8, 4, 0x0, 1, 31, 28, .ro, []⟩,
  ⟨0x2300300, 0x8, 4, 0x0, 1, 35, 32, .ro, []⟩,
  ⟨0x2300300, 0x8, 4, 0x0, 1, 39, 36, .ro, []⟩,
  ⟨0x2300300, 0x8, 4, 0x0, 1, 43, 40, .ro, []⟩,
  ⟨0x2300300, 0x8, 4, 0x0, 1, 47, 44, .ro, []⟩,
  ⟨0x2300300, 0x8, 4, 0x0, 1, 51, 48, .ro, []⟩,
  ⟨0x2300300, 0x8, 4, 0x0, 1, 55, 52, .ro, []⟩,
  ⟨0x2300300, 0x8, 4, 0x0, 1, 59, 56, .ro, []⟩,
  ⟨0x2300300, 0x8, 4, 0x0, 1, 63, 60, .ro, []⟩]

/-- Fields of the CDT register tables. -/
def fieldsCDT0 : List FieldSpec := [
  ⟨0x3600000, 0x0, 1, 0x0, 1, 63, 48, .ro, []⟩,
  ⟨0x3600000, 0x0, 1, 0x0, 1, 47, 32, .rw, [(2, 1000)]⟩,
  ⟨0x3600000, 0x0, 1, 0x0, 1, 31, 28, .rw, [(1, 15)]⟩,
  ⟨0x3600000, 0x0, 1, 0x0, 1, 27, 16, .ro, []⟩,
  ⟨0x3600000, 0x0, 1, 0x0, 1, 15, 13, .ro, []⟩,
  ⟨0x3600000, 0x0, 1, 0x0, 1, 12, 10, .ro, []⟩,
  ⟨0x3600000, 0x0, 1, 0x0, 1, 6, 4, .ro, []⟩,
  ⟨0x3600000, 0x0, 1, 0x0, 1, 0, 0, .ro, []⟩,
  ⟨0x3600008, 0x0, 1, 0x0, 1, 5, 5, .w1c, []⟩,
  ⟨0x3600008, 0x0, 1, 0x0, 1, 4, 4, .w1c, []⟩,
  ⟨0x3600008, 0x0, 1, 0x0, 1, 3, 3, .w1c, []⟩,
  ⟨0x3600008, 0x0, 1, 0x0, 1, 2, 2, .w1c, []⟩,
  ⟨0x3600008, 0x0, 1, 0x0, 1, 1, 1, .w1c, []⟩,
  ⟨0x3600008, 0x0, 1, 0x0, 1, 0, 0, .w1c, []⟩,
  ⟨0x3600010, 0x8, 4, 0x0, 1, 63, 48, .rc, []⟩,
  ⟨0x3600010, 0x8, 4, 0x0, 1, 47, 32, .rc, []⟩,
  ⟨0x3600010, 0x8, 4, 0x0, 1, 31, 16, .rc, []⟩,
  ⟨0x3600010, 0x8, 4, 0x0, 1, 15, 8, .ro, []⟩,
  ⟨0x3600010, 0x8, 4, 0x0, 1, 2, 1, .ro, []⟩,
  ⟨0x3600010, 0x8, 4, 0x0, 1, 0, 0, .ro, []⟩,
  ⟨0x3600040, 0x0, 1, 0x0, 1, 63, 0, .ro, []⟩,
  ⟨0x3600048, 0x0, 1, 0x0, 1, 63, 0, .ro, []⟩,
  ⟨0x3600050, 0x0, 1, 0x0, 1, 63, 0, .ro, []⟩,
  ⟨0x3600058, 0x0, 1, 0x0, 1, 31, 0, .ro, []⟩,
  ⟨0x3600060, 0x0, 1, 0x0, 1, 63, 48, .rc, []⟩,
  ⟨0x3600060, 0x0, 1, 0x0, 1, 47, 32, .rc, []⟩,
  ⟨0x3600060, 0x0, 1, 0x0, 1, 31, 16, .rc, []⟩,
  ⟨0x3600060, 0x0, 1, 0x0, 1, 15, 0, .rc, []⟩,
  ⟨0x3600068, 0x0, 1, 0x0, 1, 63, 32, .rc, []⟩,
  ⟨0x3600068, 0x0, 1, 0x0, 1, 31, 16, .rc, []⟩,
  ⟨0x3600068, 0x0, 1, 0x0, 1, 15, 0, .rc, []⟩,
  ⟨0x3600070, 0x0, 1, 0x0, 1, 63, 32, .ro, []⟩,
  ⟨0x3600070, 0x0, 1, 0x0, 1, 31, 0, .ro, []⟩,
  ⟨0x3600078, 0x0, 1, 0x0, 1, 31, 0, .rc, []⟩,
  ⟨0x3600080, 0x0, 1, 0x0, 1, 8, 8, .w1s, []⟩,
  ⟨0x3600080, 0x0, 1, 0x0, 1, 1, 0, .rw, []⟩,
  ⟨0x3600100, 0x0, 1, 0x0, 1, 43, 0, .rw, []⟩,
  ⟨0x3600108, 0x0, 1, 0x0, 1, 47, 0, .rw, []⟩,
  ⟨0x3600110, 0x0, 1, 0x0, 1, 63, 52, .rw, []⟩,
  ⟨0x3600110, 0x0, 1, 0x0, 1, 51, 44, .rw, []⟩]

/-- Fields of the CDT register tables. -/
def fieldsCDT1 : List FieldSpec := [
  ⟨0x3600110, 0x0, 1, 0x0, 1, 43, 40, .rw, []⟩,
  ⟨0x3600110, 0x0, 1, 0x0, 1, 0, 0, .w1s, []⟩,
  ⟨0x3600118, 0x0, 1, 0x0, 1, 63, 32, .ro, []⟩,
  ⟨0x3600118, 0x0, 1, 0x0, 1, 3, 0, .ro, []⟩,
  ⟨0x3600120, 0x0, 1, 0x0, 1, 63, 63, .w1s, []⟩,
  ⟨0x3600120, 0x0, 1, 0x0, 1, 11, 0, .rw, []⟩,
  ⟨0x3600128, 0x0, 1, 0x0, 1, 63, 32, .ro, []⟩,
  ⟨0x3600128, 0x0, 1, 0x0, 1, 31, 20, .ro, []⟩,
  ⟨0x3600128, 0x0, 1, 0x0, 1, 19, 8, .ro, []⟩,
  ⟨0x3600128, 0x0, 1, 0x0, 1, 0, 0, .w1c, []⟩,
  ⟨0x3600130, 0x0, 1, 0x0, 1, 43, 0, .ro, []⟩,
  ⟨0x3600200, 0x8, 16, 0x0, 1, 63, 56, .ro, []⟩,
  ⟨0x3600200, 0x8, 16, 0x0, 1, 55, 54, .ro, []⟩,
  ⟨0x3600200, 0x8, 16, 0x0, 1, 43, 0, .ro, []⟩,
  ⟨0x3600280, 0x8, 16, 0x0, 1, 31, 16, .rw, []⟩,
  ⟨0x3600280, 0x8, 16, 0x0, 1, 15, 0, .ro, []⟩,
  ⟨0x3600300, 0x8, 32, 0x0, 1, 63, 56, .ro, []⟩,
  ⟨0x3600300, 0x8, 32, 0x0, 1, 55, 48, .rw, []⟩,
  ⟨0x3600300, 0x8, 32, 0x0, 1, 43, 0, .ro, []⟩]

/-- Fields of the CAS register tables. -/
def fieldsCAS : List FieldSpec := [
  ⟨0x3C00000, 0x0, 1, 0x0, 1, 55, 48, .rw, [(1, 5)]⟩,
  ⟨0x3C00000, 0x0, 1, 0x0, 1, 39, 38, .ro, []⟩,
  ⟨0x3C00000, 0x0, 1, 0x0, 1, 37, 37, .ro, []⟩,
  ⟨0x3C00000, 0x0, 1, 0x0, 1, 36, 36, .rw, []⟩,
  ⟨0x3C00000, 0x0, 1, 0x0, 1, 2, 2, .ro, []⟩,
  ⟨0x3C00000, 0x0, 1, 0x0, 1, 1, 1, .ro, []⟩,
  ⟨0x3C00000, 0x0, 1, 0x0, 1, 0, 0, .ro, []⟩,
  ⟨0x3C00008, 0x0, 1, 0x0, 1, 23, 16, .ro, []⟩,
  ⟨0x3C00008, 0x0, 1, 0x0, 1, 15, 13, .ro, []⟩,
  ⟨0x3C00008, 0x0, 1, 0x0, 1, 12, 10, .ro, []⟩,
  ⟨0x3C00008, 0x0, 1, 0x0, 1, 5, 5, .w1c, []⟩,
  ⟨0x3C00008, 0x0, 1, 0x0, 1, 4, 4, .w1c, []⟩,
  ⟨0x3C00008, 0x0, 1, 0x0, 1, 3, 3, .w1c, []⟩,
  ⟨0x3C00008, 0x0, 1, 0x0, 1, 2, 2, .w1c, []⟩,
  ⟨0x3C00008, 0x0, 1, 0x0, 1, 1, 1, .w1c, []⟩,
  ⟨0x3C00008, 0x0, 1, 0x0, 1, 0, 0, .w1c, []⟩,
  ⟨0x3C00010, 0x0, 1, 0x0, 1, 1, 1, .wo, []⟩,
  ⟨0x3C00010, 0x0, 1, 0x0, 1, 0, 0, .wo, []⟩,
  ⟨0x3C00018, 0x0, 1, 0x0, 1, 63, 32, .ro, []⟩,
  ⟨0x3C00018, 0x0, 1, 0x0, 1, 31, 16, .rc, []⟩,
  ⟨0x3C00018, 0x0, 1, 0x0, 1, 1, 0, .ro, []⟩,
  ⟨0x3C00020, 0x0, 1, 0x0, 1, 63, 32, .rc, []⟩,
  ⟨0x3C00020, 0x0, 1, 0x0, 1, 31, 16, .rc, []⟩,
  ⟨0x3C00020, 0x0, 1, 0x0, 1, 7, 0, .ro, []⟩,
  ⟨0x3C00028, 0x0, 1, 0x0, 1, 63, 32, .ro, []⟩,
  ⟨0x3C00028, 0x0, 1, 0x0, 1, 31, 16, .ro, []⟩,
  ⟨0x3C00028, 0x0, 1, 0x0, 1, 15, 8, .ro, []⟩,
  ⟨0x3C00028, 0x0, 1, 0x0, 1, 7, 0, .ro, []⟩,
  ⟨0x3C00030, 0x0, 1, 0x0, 1, 63, 32, .ro, []⟩,
  ⟨0x3C00030, 0x0, 1, 0x0, 1, 31, 0, .ro, []⟩,
  ⟨0x3C00038, 0x0, 1, 0x0, 1, 43, 0, .ro, []⟩,
  ⟨0x3C00040, 0x0, 1, 0x0, 1, 43, 0, .ro, []⟩,
  ⟨0x3C00100, 0x0, 1, 0x0, 1, 63, 0, .ro, []⟩,
  ⟨0x3C00108, 0x0, 1, 0x0, 1, 63, 0, .ro, []⟩,
  ⟨0x3C00110, 0x0, 1, 0x0, 1, 63, 0, .rw, []⟩,
  ⟨0x3C00118, 0x0, 1, 0x0, 1, 63, 0, .rw, []⟩,
  ⟨0x3C00120, 0x0, 1, 0x0, 1, 63, 0, .rw, []⟩]

/-- Fields of the OIM register tables. -/
def fieldsOIM : List FieldSpec := [
  ⟨0x700000, 0x0, 1, 0x0, 1, 47, 16, .ro, []⟩,
  ⟨0x700000, 0x0, 1, 0x0, 1, 15, 12, .ro, []⟩,
  ⟨0x700000, 0x0, 1, 0x0, 1, 11, 8, .ro, []⟩,
  ⟨0x700000, 0x0, 1, 0x0, 1, 2, 2, .w1c, []⟩,
  ⟨0x700000, 0x0, 1, 0x0, 1, 1, 1, .ro, []⟩,
  ⟨0x700000, 0x0, 1, 0x0, 1, 0, 0, .ro, []⟩,
  ⟨0x700008, 0x0, 1, 0x0, 1, 63, 44, .rw, []⟩,
  ⟨0x700008, 0x0, 1, 0x0, 1, 43, 0, .rw, []⟩,
  ⟨0x700010, 0x0, 1, 0x0, 1, 1, 1, .rw, []⟩,
  ⟨0x700010, 0x0, 1, 0x0, 1, 0, 0, .w1s, []⟩,
  ⟨0x700018, 0x0, 1, 0x0, 1, 63, 48, .rc, []⟩,
  ⟨0x700018, 0x0, 1, 0x0, 1, 4, 4, .ro, []⟩,
  ⟨0x700018, 0x0, 1, 0x0, 1, 3, 0, .ro, []⟩,
  ⟨0x700020, 0x0, 1, 0x0, 1, 63, 32, .ro, []⟩,
  ⟨0x700020, 0x0, 1, 0x0, 1, 31, 16, .ro, []⟩,
  ⟨0x700020, 0x0, 1, 0x0, 1, 3, 0, .ro, []⟩,
  ⟨0x700028, 0x0, 1, 0x0, 1, 63, 0, .ro, []⟩]

/-- Fields of the SXC register tables. -/
def fieldsSXC : List FieldSpec := [
  ⟨0x600000, 0x0, 1, 0x0, 1, 39, 32, .ro, []⟩,
  ⟨0x600000, 0x0, 1, 0x0, 1, 31, 28, .ro, []⟩,
  ⟨0x600000, 0x0, 1, 0x0, 1, 11, 11, .ro, []⟩,
  ⟨0x600000, 0x0, 1, 0x0, 1, 10, 10, .ro, []⟩,
  ⟨0x600000, 0x0, 1, 0x0, 1, 9, 9, .ro, []⟩,
  ⟨0x600000, 0x0, 1, 0x0, 1, 8, 8, .ro, []⟩,
  ⟨0x600000, 0x0, 1, 0x0, 1, 7, 7, .ro, []⟩,
  ⟨0x600000, 0x0, 1, 0x0, 1, 1, 1, .w1c, []⟩,
  ⟨0x600000, 0x0, 1, 0x0, 1, 0, 0, .w1c, []⟩,
  ⟨0x600008, 0x0, 1, 0x0, 1, 63, 0, .ro, []⟩,
  ⟨0x600010, 0x0, 1, 0x0, 1, 63, 32, .ro, []⟩,
  ⟨0x600010, 0x0, 1, 0x0, 1, 29, 16, .ro, []⟩,
  ⟨0x600010, 0x0, 1, 0x0, 1, 15, 8, .ro, []⟩,
  ⟨0x600018, 0x0, 1, 0x0, 1, 63, 0, .ro, []⟩,
  ⟨0x600020, 0x0, 1, 0x0, 1, 63, 32, .ro, []⟩,
  ⟨0x600020, 0x0, 1, 0x0, 1, 1, 1, .ro, []⟩,
  ⟨0x600020, 0x0, 1, 0x0, 1, 0, 0, .wo, []⟩,
  ⟨0x600028, 0x8, 4, 0x0, 1, 63, 0, .ro, []⟩,
  ⟨0x600048, 0x0, 1, 0x0, 1, 63, 44, .rw, []⟩,
  ⟨0x600048, 0x0, 1, 0x0, 1, 43, 0, .rw, []⟩,
  ⟨0x600050, 0x0, 1, 0x0, 1, 1, 1, .rw, []⟩,
  ⟨0x600050, 0x0, 1, 0x0, 1, 0, 0, .w1s, []⟩,
  ⟨0x600058, 0x0, 1, 0x0, 1, 63, 32, .ro, []⟩,
  ⟨0x600058, 0x0, 1, 0x0, 1, 31, 24, .ro, []⟩,
  ⟨0x600058, 0x0, 1, 0x0, 1, 23, 16, .ro, []⟩,
  ⟨0x600058, 0x0, 1, 0x0, 1, 15, 8, .ro, []⟩,
  ⟨0x600058, 0x0, 1, 0x0, 1, 5, 5, .ro, []⟩,
  ⟨0x600058, 0x0, 1, 0x0, 1, 4, 4, .ro, []⟩,
  ⟨0x600058, 0x0, 1, 0x0, 1, 3, 0, .ro, []⟩,
  ⟨0x600060, 0x0, 1, 0x0, 1, 7, 6, .ro, []⟩,
  ⟨0x600060, 0x0, 1, 0x0, 1, 4, 4, .w1s, []⟩,
  ⟨0x600060, 0x0, 1, 0x0, 1, 3, 0, .rw, []⟩,
  ⟨0x600068, 0x8, 6, 0x0, 1, 63, 0, .rw, []⟩,
  ⟨0x6000A0, 0x0, 1, 0x0, 1, 13, 0, .rw, []⟩,
  ⟨0x600400, 0x30, 16, 0x8, 6, 63, 0, .ro, []⟩,
  ⟨0x600800, 0x8, 128, 0x0, 1, 63, 0, .ro, []⟩]

/-- Fields of the FWU register tables. -/
def fieldsFWU : List FieldSpec := [
  ⟨0x800000, 0x0, 1, 0x0, 1, 23, 20, .ro, []⟩,
  ⟨0x800000, 0x0, 1, 0x0, 1, 19, 16, .ro, []⟩,
  ⟨0x800000, 0x0, 1, 0x0, 1, 11, 11, .ro, []⟩,
  ⟨0x800000, 0x0, 1, 0x0, 1, 10, 10, .ro, []⟩,
  ⟨0x800000, 0x0, 1, 0x0, 1, 9, 9, .ro, []⟩,
  ⟨0x800000, 0x0, 1, 0x0, 1, 8, 8, .ro, []⟩,
  ⟨0x800000, 0x0, 1, 0x0, 1, 2, 2, .w1c, []⟩,
  ⟨0x800000, 0x0, 1, 0x0, 1, 1, 1, .w1c, []⟩,
  ⟨0x800000, 0x0, 1, 0x0, 1, 0, 0, .ro, []⟩,
  ⟨0x800008, 0x0, 1, 0x0, 1, 63, 48, .ro, []⟩,
  ⟨0x800008, 0x0, 1, 0x0, 1, 24, 0, .ro, []⟩,
  ⟨0x800018, 0x8, 3, 0x0, 1, 55, 52, .ro, []⟩,
  ⟨0x800018, 0x8, 3, 0x0, 1, 51, 48, .ro, []⟩,
  ⟨0x800018, 0x8, 3, 0x0, 1, 31, 0, .ro, []⟩,
  ⟨0x800030, 0x0, 1, 0x0, 1, 63, 48, .rc, []⟩,
  ⟨0x800030, 0x0, 1, 0x0, 1, 31, 16, .ro, []⟩,
  ⟨0x800038, 0x0, 1, 0x0, 1, 63, 0, .ro, []⟩]

/-- Fields of the SCR register tables. -/
def fieldsSCR : List FieldSpec := [
  ⟨0x500000, 0x0, 1, 0x0, 1, 63, 48, .rw, [(1, 65535)]⟩,
  ⟨0x500000, 0x0, 1, 0x0, 1, 47, 32, .rw, []⟩,
  ⟨0x500000, 0x0, 1, 0x0, 1, 31, 16, .rw, [(100, 65535)]⟩,
  ⟨0x500000, 0x0, 1, 0x0, 1, 0, 0, .rw, []⟩,
  ⟨0x500008, 0x0, 1, 0x0, 1, 24, 16, .ro, []⟩,
  ⟨0x500008, 0x0, 1, 0x0, 1, 4, 4, .w1c, []⟩,
  ⟨0x500008, 0x0, 1, 0x0, 1, 3, 3, .w1c, []⟩,
  ⟨0x500008, 0x0, 1, 0x0, 1, 2, 2, .w1c, []⟩,
  ⟨0x500008, 0x0, 1, 0x0, 1, 1, 1, .w1c, []⟩,
  ⟨0x500008, 0x0, 1, 0x0, 1, 0, 0, .ro, []⟩,
  ⟨0x500010, 0x0, 1, 0x0, 1, 63, 0, .ro, []⟩,
  ⟨0x500018, 0x0, 1, 0x0, 1, 63, 32, .ro, []⟩,
  ⟨0x500018, 0x0, 1, 0x0, 1, 13, 0, .ro, []⟩,
  ⟨0x500020, 0x0, 1, 0x0, 1, 63, 32, .rc, []⟩,
  ⟨0x500020, 0x0, 1, 0x0, 1, 31, 0, .rc, []⟩,
  ⟨0x500028, 0x0, 1, 0x0, 1, 63, 62, .rw, [(0, 2)]⟩,
  ⟨0x500028, 0x0, 1, 0x0, 1, 19, 0, .rw, []⟩,
  ⟨0x500030, 0x0, 1, 0x0, 1, 0, 0, .w1s, []⟩,
  ⟨0x500040, 0x8, 8, 0x0, 1, 63, 0, .ro, []⟩,
  ⟨0x500100, 0x8, 64, 0x0, 1, 31, 16, .rw, []⟩,
  ⟨0x500100, 0x8, 64, 0x0, 1, 8, 8, .rw, []⟩,
  ⟨0x500100, 0x8, 64, 0x0, 1, 7, 0, .rw, []⟩]

/-- Fields of the FLT register tables. -/
def fieldsFLT : List FieldSpec := [
  ⟨0x400000, 0x0, 1, 0x0, 1, 63, 48, .ro, []⟩,
  ⟨0x400000, 0x0, 1, 0x0, 1, 0, 0, .rw, []⟩,
  ⟨0x400008, 0x0, 1, 0x0, 1, 47, 40, .ro, []⟩,
  ⟨0x400008, 0x0, 1, 0x0, 1, 39, 32, .ro, []⟩,
  ⟨0x400008, 0x0, 1, 0x0, 1, 4, 4, .w1c, []⟩,
  ⟨0x400008, 0x0, 1, 0x0, 1, 3, 3, .w1c, []⟩,
  ⟨0x400008, 0x0, 1, 0x0, 1, 2, 2, .w1c, []⟩,
  ⟨0x400008, 0x0, 1, 0x0, 1, 1, 1, .w1c, []⟩,
  ⟨0x400008, 0x0, 1, 0x0, 1, 0, 0, .ro, []⟩,
  ⟨0x400010, 0x0, 1, 0x0, 1, 63, 32, .rc, []⟩,
  ⟨0x400010, 0x0, 1, 0x0, 1, 31, 16, .rc, []⟩,
  ⟨0x400010, 0x0, 1, 0x0, 1, 15, 0, .rc, []⟩,
  ⟨0x400018, 0x0, 1, 0x0, 1, 63, 32, .rw, []⟩,
  ⟨0x400018, 0x0, 1, 0x0, 1, 31, 0, .rw, []⟩,
  ⟨0x400020, 0x0, 1, 0x0, 1, 23, 16, .rw, []⟩,
  ⟨0x400020, 0x0, 1, 0x0, 1, 15, 12, .rw, [(0, 3)]⟩,
  ⟨0x400020, 0x0, 1, 0x0, 1, 11, 8, .rw, []⟩,
  ⟨0x400020, 0x0, 1, 0x0, 1, 0, 0, .w1s, []⟩,
  ⟨0x401000, 0x10, 64, 0x0, 1, 63, 48, .ro, []⟩,
  ⟨0x401000, 0x10, 64, 0x0, 1, 47, 32, .ro, []⟩,
  ⟨0x401000, 0x10, 64, 0x0, 1, 31, 24, .ro, []⟩,
  ⟨0x401000, 0x10, 64, 0x0, 1, 0, 0, .w1c, []⟩,
  ⟨0x401008, 0x10, 64, 0x0, 1, 63, 0, .ro, []⟩,
  ⟨0x401400, 0x10, 32, 0x0, 1, 63, 48, .ro, []⟩,
  ⟨0x401400, 0x10, 32, 0x0, 1, 47, 32, .ro, []⟩,
  ⟨0x401400, 0x10, 32, 0x0, 1, 31, 24, .ro, []⟩,
  ⟨0x401400, 0x10, 32, 0x0, 1, 1, 1, .ro, []⟩,
  ⟨0x401400, 0x10, 32, 0x0, 1, 0, 0, .w1c, []⟩,
  ⟨0x401408, 0x10, 32, 0x0, 1, 63, 0, .ro, []⟩]

/-- Fields of the PWR register tables. -/
def fieldsPWR : List FieldSpec := [
  ⟨0x300000, 0x0, 1, 0x0, 1, 63, 48, .rw, [(100, 260)]⟩,
  ⟨0x300000, 0x0, 1, 0x0, 1, 0, 0, .rw, []⟩,
  ⟨0x300008, 0x0, 1, 0x0, 1, 63, 48, .ro, []⟩,
  ⟨0x300008, 0x0, 1, 0x0, 1, 7, 7, .ro, []⟩,
  ⟨0x300008, 0x0, 1, 0x0, 1, 6, 6, .ro, []⟩,
  ⟨0x300008, 0x0, 1, 0x0, 1, 5, 5, .ro, []⟩,
  ⟨0x300008, 0x0, 1, 0x0, 1, 4, 4, .ro, []⟩,
  ⟨0x300008, 0x0, 1, 0x0, 1, 3, 3, .w1c, []⟩,
  ⟨0x300008, 0x0, 1, 0x0, 1, 2, 2, .w1c, []⟩,
  ⟨0x300008, 0x0, 1, 0x0, 1, 1, 1, .w1c, []⟩,
  ⟨0x300008, 0x0, 1, 0x0, 1, 0, 0, .w1c, []⟩,
  ⟨0x300010, 0x0, 1, 0x0, 1, 63, 48, .ro, []⟩,
  ⟨0x300010, 0x0, 1, 0x0, 1, 47, 32, .ro, []⟩,
  ⟨0x300010, 0x0, 1, 0x0, 1, 31, 16, .ro, []⟩,
  ⟨0x300010, 0x0, 1, 0x0, 1, 15, 0, .ro, []⟩,
  ⟨0x300018, 0x0, 1, 0x0, 1, 63, 32, .rc, []⟩,
  ⟨0x300018, 0x0, 1, 0x0, 1, 31, 0, .rc, []⟩,
  ⟨0x300020, 0x0, 1, 0x0, 1, 63, 48, .rw, [(5000, 16000)]⟩,
  ⟨0x300020, 0x0, 1, 0x0, 1, 47, 40, .rw, [(1, 40)]⟩,
  ⟨0x300020, 0x0, 1, 0x0, 1, 39, 32, .rw, [(110, 260)]⟩,
  ⟨0x300020, 0x0, 1, 0x0, 1, 31, 16, .ro, []⟩,
  ⟨0x300020, 0x0, 1, 0x0, 1, 0, 0, .rw, []⟩,
  ⟨0x300028, 0x0, 1, 0x0, 1, 63, 56, .rw, []⟩,
  ⟨0x300028, 0x0, 1, 0x0, 1, 55, 48, .rw, []⟩,
  ⟨0x300028, 0x0, 1, 0x0, 1, 47, 40, .rw, []⟩,
  ⟨0x300028, 0x0, 1, 0x0, 1, 31, 24, .ro, []⟩,
  ⟨0x300028, 0x0, 1, 0x0, 1, 23, 20, .ro, []⟩,
  ⟨0x300030, 0x0, 1, 0x0, 1, 7, 4, .rw, []⟩,
  ⟨0x300030, 0x0, 1, 0x0, 1, 3, 2, .rw, []⟩,
  ⟨0x300030, 0x0, 1, 0x0, 1, 0, 0, .w1s, []⟩,
  ⟨0x300038, 0x0, 1, 0x0, 1, 31, 0, .rw, []⟩,
  ⟨0x300100, 0x8, 12, 0x0, 1, 31, 24, .ro, []⟩,
  ⟨0x300100, 0x8, 12, 0x0, 1, 23, 16, .ro, []⟩,
  ⟨0x300100, 0x8, 12, 0x0, 1, 15, 12, .ro, []⟩,
  ⟨0x300100, 0x8, 12, 0x0, 1, 6, 4, .rw, [(0, 5)]⟩,
  ⟨0x300100, 0x8, 12, 0x0, 1, 2, 0, .ro, []⟩,
  ⟨0x300200, 0x8, 12, 0x0, 1, 63, 48, .rc, []⟩,
  ⟨0x300200, 0x8, 12, 0x0, 1, 47, 44, .ro, []⟩,
  ⟨0x300200, 0x8, 12, 0x0, 1, 43, 40, .ro, []⟩,
  ⟨0x300200, 0x8, 12, 0x0, 1, 31, 0, .ro, []⟩]

/-- Fields of the DDR register tables. -/
def fieldsDDR : List FieldSpec := [
  ⟨0x3800000, 0x0, 1, 0x0, 1, 7, 4, .ro, []⟩,
  ⟨0x3800000, 0x0, 1, 0x0, 1, 0, 0, .rw, []⟩,
  ⟨0x3800008, 0x0, 1, 0x0, 1, 23, 16, .ro, []⟩,
  ⟨0x3800008, 0x0, 1, 0x0, 1, 2, 2, .w1c, []⟩,
  ⟨0x3800008, 0x0, 1, 0x0, 1, 1, 1, .w1c, []⟩,
  ⟨0x3800008, 0x0, 1, 0x0, 1, 0, 0, .w1c, []⟩,
  ⟨0x3800100, 0x8, 8, 0x0, 1, 63, 48, .ro, []⟩,
  ⟨0x3800100, 0x8, 8, 0x0, 1, 47, 44, .ro, []⟩,
  ⟨0x3800100, 0x8, 8, 0x0, 1, 43, 40, .ro, []⟩,
  ⟨0x3800100, 0x8, 8, 0x0, 1, 31, 24, .ro, []⟩,
  ⟨0x3800100, 0x8, 8, 0x0, 1, 23, 16, .rc, []⟩,
  ⟨0x3800100, 0x8, 8, 0x0, 1, 2, 0, .ro, []⟩,
  ⟨0x3800200, 0x8, 8, 0x0, 1, 63, 32, .rc, []⟩,
  ⟨0x3800200, 0x8, 8, 0x0, 1, 31, 16, .rc, []⟩,
  ⟨0x3800200, 0x8, 8, 0x0, 1, 15, 8, .ro, []⟩,
  ⟨0x3800200, 0x8, 8, 0x0, 1, 0, 0, .ro, []⟩]

/-- Every field of every register table of the spec (RSVD bits have no row: they read 0 and ignore writes, R9). -/
def fieldTable : List FieldSpec :=
  fieldsTMP ++ fieldsFAB0 ++ fieldsFAB1 ++ fieldsCL ++ fieldsGLB ++ fieldsNVF0 ++ fieldsNVF1 ++ fieldsETH ++ fieldsFIU0 ++ fieldsFIU1 ++ fieldsCMP ++ fieldsDIG ++ fieldsCIP0 ++ fieldsCIP1 ++ fieldsMDL0 ++ fieldsMDL1 ++ fieldsERS0 ++ fieldsERS1 ++ fieldsCDT0 ++ fieldsCDT1 ++ fieldsCAS ++ fieldsOIM ++ fieldsSXC ++ fieldsFWU ++ fieldsSCR ++ fieldsFLT ++ fieldsPWR ++ fieldsDDR

/-- The W1C bits of each block's status registers (R625): the registers named PREFIX_STATUS and PREFIX_x_STATUS. -/
def statusMasks : List StatusMask := [
  ⟨0x0, 0x28, 0x1⟩,
  ⟨0x1, 0x100008, 0x7⟩,
  ⟨0x2, 0x200008, 0x3E⟩,
  ⟨0x3, 0x300008, 0xF⟩,
  ⟨0x4, 0x400008, 0x1E⟩,
  ⟨0x5, 0x500008, 0x1E⟩,
  ⟨0x6, 0x600000, 0x3⟩,
  ⟨0x7, 0x700000, 0x4⟩,
  ⟨0x8, 0x800000, 0x6⟩,
  ⟨0x10, 0x1000008, 0x28⟩,
  ⟨0x11, 0x1100008, 0x28⟩,
  ⟨0x12, 0x1200008, 0x28⟩,
  ⟨0x13, 0x1300008, 0x28⟩,
  ⟨0x14, 0x1400008, 0x28⟩,
  ⟨0x15, 0x1500008, 0x28⟩,
  ⟨0x16, 0x1600008, 0x28⟩,
  ⟨0x17, 0x1700008, 0x28⟩,
  ⟨0x20, 0x2000008, 0x1F00000000⟩,
  ⟨0x21, 0x2100008, 0x70⟩,
  ⟨0x22, 0x2200008, 0x700000000⟩,
  ⟨0x23, 0x2300008, 0x1E00⟩,
  ⟨0x24, 0x2400008, 0x7⟩,
  ⟨0x30, 0x3000008, 0x7⟩,
  ⟨0x30, 0x3004120, 0x7⟩,
  ⟨0x34, 0x3400020, 0x3F⟩,
  ⟨0x34, 0x3408008, 0x7E⟩,
  ⟨0x36, 0x3600008, 0x3F⟩,
  ⟨0x38, 0x3800008, 0x7⟩,
  ⟨0x3C, 0x3C00008, 0x3F⟩]

end Sys2Proof.Machine
end

