-- ==== Sys2Proof/Machine/Fault.lean ====
section
/-!
DEFINITION. The fault collector and the Scoresheet recorder (spec/20_scoresheet_and_faults.md, R569–R591): raising an
event of each class, Check and Double check entries, records, the rate limit, the freeze and the two stores.
-/

namespace Sys2Proof.Machine

/-- The tempo number of the most recent edge (TMP_NUMBER). -/
def tempoNow (d : Dev) : Nat := rd Reg.TMP_NUMBER_NUMBER d

/-- GLB_STATE.STATE: 0 START-UP, 1 SERVICE, 2 TEST, 3 RECOVERY. -/
def glbState (d : Dev) : Nat := rd Reg.GLB_STATE_STATE d

/-- The device is powered, not in ADJ3 and not in Checkmate: its blocks act. -/
def Dev.live (d : Dev) : Bool := d.pwr.good && !d.pwr.adj3 && d.flt.checkmateIn.isNone

/-- A unit of Table 20.2: kind and index (R571). -/
def unitOf (kind idx : Nat) : Nat := kind * 256 + idx

/-! ### Records -/

/-- The persistent ledger takes records of class Check or higher and of NP codes (R587). -/
def persists (r : ScoreRecord) : Bool := r.cls != .notice || npCodes.contains r.code

/-- Write one record to the volatile ring, and queue it for the persistent ledger where R587 says so; SEQ, SUPPRESSED and
LOST are given as it is written (R585, R588, R589). -/
def writeRecord (r : ScoreRecord) (d : Dev) : Dev :=
  let fits := d.scr.pqueue.length < 1024
  let r := { r with
    seq := rd Reg.SCR_SEQ_NEXT d
    suppressed := min (tget 0 d.scr.suppressed r.code) 65535
    lost := min d.scr.lost 65535
    persist := persists r && fits
    valid := true }
  let idx := rd Reg.SCR_PTR_VIDX d
  let d := { d with scr.ring := tset {} d.scr.ring idx r
                    scr.suppressed := tset 0 d.scr.suppressed r.code 0
                    scr.lost := 0 }
  let d := wr Reg.SCR_PTR_VIDX ((idx + 1) % 16384) d
  let d := wr Reg.SCR_SEQ_NEXT (rd Reg.SCR_SEQ_NEXT d + 1) d
  if persists r then
    if fits then { d with scr.pqueue := d.scr.pqueue ++ [r] }
    else setb Reg.SCR_STATUS_PLOST (bump Reg.SCR_LOSS_PLOST d)
  else d

/-- Count one event lost to a freeze (R589). -/
def countLost (d : Dev) : Dev :=
  setb Reg.SCR_STATUS_LOST (bump Reg.SCR_LOSS_LOST { d with scr.lost := d.scr.lost + 1 })

/-- A record that a full holding queue may give up: a Notice of a code that is not NP. -/
def displaceable (r : ScoreRecord) : Bool := r.cls == .notice && !npCodes.contains r.code

/-- Drop the newest displaceable record of a queue; nothing when there is none. -/
def dropNewest : List ScoreRecord → Option (List ScoreRecord)
  | [] => none
  | r :: rs =>
    match dropNewest rs with
    | some rs' => some (r :: rs')
    | none => if displaceable r then some rs else none

/-- Place a record in the holding queue of a freeze (R589). -/
def holdRecord (r : ScoreRecord) (d : Dev) : Dev :=
  let r := { r with held := true }
  let put q d := wr Reg.SCR_STATUS_HOLD q.length { d with scr.holdq := q }
  if d.scr.holdq.length < 256 then put (d.scr.holdq ++ [r]) d
  else if displaceable r then countLost d
  else match dropNewest d.scr.holdq with
    | some q => put (q ++ [r]) (countLost d)
    | none => countLost d

/-- End a freeze: the holding queue is written out in order (R589). -/
def endFreeze (d : Dev) : Dev :=
  let q := d.scr.holdq
  let d := { d with scr.holdq := [] }
  let d := q.foldl (fun d r => writeRecord r d) d
  clr Reg.SCR_CTRL_FREEZE (clr Reg.SCR_STATUS_FROZEN (clr Reg.SCR_STATUS_HOLD d))

/-- The records of a code that one window admits, 0 for no limit (R588). -/
def rateLimit (code : Nat) (d : Dev) : Nat :=
  match (List.range 64).find? fun k => rdb (Reg.SCR_RLIM_EN k) d && rd (Reg.SCR_RLIM_CODE k) d == code with
  | some k => rd (Reg.SCR_RLIM_LIMIT k) d
  | none => rd Reg.SCR_CTRL_RATE_DEF d

/-- Record an event: rate limit, then the holding queue or the ring and ledger (R588, R589). -/
def recordEvent (cls : EvClass) (code unit data0 data1 : Nat) (escalated : Bool) (d : Dev) : Dev :=
  let win := tempoNow d / rd Reg.SCR_CTRL_WINDOW d
  let (w0, n0) := tget (0, 0) d.scr.windows code
  let n := if w0 = win then n0 else 0
  let never := cls == .dcheck || cls == .checkmate || npCodes.contains code
  let lim := rateLimit code d
  if !never && lim != 0 && n ≥ lim then
    { d with scr.suppressed := tset 0 d.scr.suppressed code (tget 0 d.scr.suppressed code + 1) }
  else
    let d := { d with scr.windows := tset (0, 0) d.scr.windows code (win, n + 1) }
    let r : ScoreRecord :=
      { tempo := tempoNow d, sec := d.tmp.sec, ns := d.tmp.ns, code := code, cls := cls, escalated := escalated,
        unit := unit, state := glbState d, data0 := data0, data1 := data1, boot := rd Reg.SXC_BOOT_BOOT d % 2 ^ 32 }
    if rdb Reg.SCR_STATUS_FROZEN d then holdRecord r d else writeRecord r d

/-! ### The four classes -/

/-- Raise a Notice: a record and nothing else (R572). -/
def notice (code unit data0 data1 : Nat) (d : Dev) : Dev :=
  recordEvent .notice code unit data0 data1 false (bump Reg.FLT_CNT_NOTICES d)

/-- The open Double check entry of a code and unit. -/
def findDchk (code unit : Nat) (d : Dev) : Option Nat :=
  (List.range 32).find? fun j =>
    rdb (Reg.FLT_DCHK_OPEN j) d && rd (Reg.FLT_DCHK_CODE j) d == code && rd (Reg.FLT_DCHK_UNIT j) d == unit

/-- Raise a Double check: a record, an entry, the quarantine of its unit and the test for castling (R578, R510). -/
def raiseD (code unit data0 data1 : Nat) (escalated : Bool) (d : Dev) : Dev :=
  let d := bump Reg.FLT_CNT_DCHECKS d
  let d :=
    match findDchk code unit d with
    | some j => bumpSat (Reg.FLT_DCHK_RECUR j) 1 d
    | none =>
      match pickFree (those 32 fun j => !rdb (Reg.FLT_DCHK_OPEN j) d) d with
      | (none, d) => setb Reg.FLT_STATUS_DCHK_FULL d
      | (some j, d) =>
        let d := wr (Reg.FLT_DCHK_CODE j) code (wr (Reg.FLT_DCHK_UNIT j) unit d)
        let d := wr (Reg.FLT_DCHK_ESCALATED j) (b2n escalated) (clr (Reg.FLT_DCHK_RECUR j) d)
        let d := wr (Reg.FLT_DCHK_T_RAISED j) (tempoNow d) (setb (Reg.FLT_DCHK_OPEN j) d)
        wr Reg.FLT_STATUS_DCHK_OPEN (rd Reg.FLT_STATUS_DCHK_OPEN d + 1) d
  let d := recordEvent .dcheck code unit data0 data1 escalated d
  { d with todo := d.todo ++ [.quarantine unit, .castleTest code unit] }

/-- Close a Check entry. -/
def closeChk (k : Nat) (d : Dev) : Dev :=
  if rdb (Reg.FLT_CHK_OPEN k) d then
    wr Reg.FLT_STATUS_CHK_OPEN (rd Reg.FLT_STATUS_CHK_OPEN d - 1) (clr (Reg.FLT_CHK_OPEN k) d)
  else d

/-- Table 20.6 gives the code's DATA0 and DATA1 a meaning. -/
def dataCovered (code : Nat) : Bool :=
  let n := code % 256
  match code / 256 with
  | 0x01 | 0x04 => n == 1
  | 0x02 => [1, 2, 3, 5, 6, 7].contains n
  | 0x03 => n ≤ 2
  | 0x06 => 6 ≤ n
  | 0x20 => [1, 2, 5].contains n
  | 0x21 | 0x22 => n ≤ 2
  | 0x23 => [1, 4].contains n
  | 0x24 => true
  | 0x30 => [3, 0x31].contains n || (0x10 ≤ n && n < 0x30)
  | 0x34 => n < 0x30
  | 0x36 => [1, 5].contains n
  | 0x38 | 0x3C => true
  | _ => false

/-- DATA0 and DATA1 of an event of which only the code is known: open where Table 20.6 covers the code, 0 elsewhere (R584). -/
def openData (code : Nat) (d : Dev) : Nat × Nat × Dev :=
  if dataCovered code then
    let (a, d) := drawNat (2 ^ 64) d
    let (b, d) := drawNat (2 ^ 64) d
    (a, b, d)
  else (0, 0, d)

/-- Escalate a Check entry: close it and raise a Double check of the same code and unit (R574); the spec does not say whether its record
repeats the Check's data. -/
def escalateChk (k : Nat) (d : Dev) : Dev :=
  let code := rd (Reg.FLT_CHK_CODE k) d
  let unit := rd (Reg.FLT_CHK_UNIT k) d
  let (a, b, d) := openData code d
  raiseD code unit a b true (setb Reg.FLT_STATUS_ESC (closeChk k d))

/-- The open Check entry of a code and unit (R573). -/
def findChk (code unit : Nat) (d : Dev) : Option Nat :=
  (List.range 64).find? fun k =>
    rdb (Reg.FLT_CHK_OPEN k) d && rd (Reg.FLT_CHK_CODE k) d == code && rd (Reg.FLT_CHK_UNIT k) d == unit

/-- The open entry with the lowest RAISED, the lower number on a tie (R575). -/
def oldestChk (d : Dev) : Nat :=
  (List.range 64).foldl (fun b k => if rd (Reg.FLT_CHK_T_RAISED k) d < rd (Reg.FLT_CHK_T_RAISED b) d then k else b) 0

/-- Fill a Check entry. -/
def openChk (k code unit : Nat) (d : Dev) : Dev :=
  let d := wr (Reg.FLT_CHK_CODE k) code (wr (Reg.FLT_CHK_UNIT k) unit (clr (Reg.FLT_CHK_RECUR k) d))
  let d := wr (Reg.FLT_CHK_T_RAISED k) (tempoNow d) (setb (Reg.FLT_CHK_OPEN k) { d with flt.escHold := tset 0 d.flt.escHold k 0 })
  wr Reg.FLT_STATUS_CHK_OPEN (rd Reg.FLT_STATUS_CHK_OPEN d + 1) d

/-- Raise a Check: a record, and an entry opened or recurring; with all 64 open the oldest escalates (R573, R575). -/
def raiseC (code unit data0 data1 : Nat) (d : Dev) : Dev :=
  let d := bump Reg.FLT_CNT_CHECKS d
  let d :=
    match findChk code unit d with
    | some k => bumpSat (Reg.FLT_CHK_RECUR k) 1 d
    | none =>
      match pickFree (those 64 fun k => !rdb (Reg.FLT_CHK_OPEN k) d) d with
      | (some k, d) => openChk k code unit d
      | (none, d) =>
        let k := oldestChk d
        let d := escalateChk k d
        let d := setb Reg.FLT_STATUS_CHK_FULL (notice Ev.FLT_CHK_FULL 0 0 0 d)
        openChk k code unit d
  recordEvent .check code unit data0 data1 false d

/-- Declare a Checkmate: the safe states of Table 20.4, a freeze ended, the record written (R580, R581). -/
def checkmate (code unit data0 data1 : Nat) (d : Dev) : Dev :=
  let d := { d with flt.checkmateIn := some (glbState d)
                    pins.fatalN := false
                    pins.pwrcycReqN := false
                    pins.gpioDrive := rd Reg.FLT_SAFE_GPIO_DRIVE d
                    pins.gpioValue := rd Reg.FLT_SAFE_GPIO_VALUE d
                    tmp.ppsOut := false
                    king.halted := true }
  let d := setb Reg.FLT_STATUS_CHECKMATE d
  let d := if rdb Reg.SCR_STATUS_FROZEN d then endFreeze d else d
  let d := recordEvent .checkmate code unit data0 data1 false d
  sendAll [.pin .fatalN false, .pin .pwrcycReqN false, .pin .ppsOut false, .pin .gpio true] d

/-! ### Paired values (R554, R591) -/

/-- Write a paired value of `w` bits: an injection armed for its class (Table 20.13, FLT_INJ.INDEX) inverts one bit of
the complement, a bit the spec does not name, and is spent. -/
def mkPaired (w cls v : Nat) (d : Dev) : Paired × Dev :=
  let v := v % 2 ^ w
  let c := 2 ^ w - 1 - v
  match d.flt.inj with
  | some i =>
    if i.target = 1 ∧ i.index = cls then
      let (b, d) := drawNat w d
      let c := if bitOf c b then c - 2 ^ b else c + 2 ^ b
      (⟨v, c⟩, clr Reg.FLT_INJ_ARM { d with flt.inj := none })
    else (⟨v, c⟩, d)
  | none => (⟨v, c⟩, d)

/-- A paired value of `w` bits agrees with its complement. -/
def Paired.ok (w : Nat) (p : Paired) : Bool := p.val + p.comp == 2 ^ w - 1

/-- DATA1 of a paired event: the two halves read (Table 20.6). -/
def Paired.data (p : Paired) : Nat := p.val % 2 ^ 32 * 2 ^ 32 + p.comp % 2 ^ 32

/-- The escalation time in tempi, its fail-safe 100 on a paired mismatch (R554, R574). -/
def escalateLimit (d : Dev) : Nat × Dev :=
  if d.flt.escalate.ok 16 then (d.flt.escalate.val, d)
  else (100, setb Reg.FLT_STATUS_PAIRED_CHK (raiseC Ev.FLT_PAIRED 0 0 d.flt.escalate.data d))

/-! ### Interrupts (R625–R627) -/

/-- Any W1C bit of a status register is set. -/
def maskSet (m : StatusMask) (d : Dev) : Bool := (rdReg m.off d).toNat &&& m.mask != 0

/-- The extra causes of the FLT and GLB levels (R625). -/
def fltLevel (d : Dev) : Bool :=
  (List.range 64).any (fun k => rdb (Reg.FLT_CHK_OPEN k) d) || (List.range 32).any (fun j => rdb (Reg.FLT_DCHK_OPEN j) d)

/-- Some GLB_RDONEc is not 0 (R625). -/
def rdoneLevel (d : Dev) : Bool := (List.range 8).any fun c => rdb (Reg.GLB_RDONE_UNIT c) d

/-- The level of every block's interrupt, bit n for block number n (R625). -/
def intrLevels (d : Dev) : Nat :=
  (List.range 64).foldl (fun v n =>
    if statusMasks.any (fun m => m.block == n && maskSet m d) || (n == 4 && fltLevel d) || (n == 0 && rdoneLevel d)
    then v + 2 ^ n else v) 0

/-- Vector `v` is routed to the management host (R627). -/
def intrHost (v : Nat) (d : Dev) : Bool :=
  if v = 4 then rdb Reg.FLT_CTRL_HOST_INTR d else bitOf (rd Reg.GLB_INTR_HOST_EN d) v

/-- The MSI-X table entry's vector control register and the pending-bit array (Table 22.2; layout of the PCI Express
Base Specification 5.0). -/
def msixCtl (v : Nat) : Field := ⟨0x1008 + 16 * v, 32, 32⟩
def msixPba : Field := ⟨0x1400, 63, 0⟩

/-- Send vector `v`'s message, or set its pending bit while it is masked (R627). -/
def msixSend (v : Nat) (d : Dev) : Dev :=
  if rdb (msixCtl v) d then setBit msixPba v d else send (.msix v) d

/-- Bring GLB_INTR_STAT to the levels and send the messages of the levels that rose (R625, R627). -/
def settle (d : Dev) : Dev :=
  let lv := intrLevels d
  let d := forEach (List.range 64) (fun v d =>
    if bitOf lv v && !bitOf d.intrSent v && intrHost v d then msixSend v d else d) d
  wr Reg.GLB_INTR_STAT_LEVEL lv { d with intrSent := lv }

end Sys2Proof.Machine
end

