-- ==== Sys2Proof/Machine/Ecc.lean ====
section
/-!
DEFINITION. The pool's banks (spec/01_head_architecture.md, "The shared pool and its partition"), the symbol code of SRAM and flits, poison marks, and
stores into memory (spec/03_board_fabric.md, R91–R94).
-/

namespace Sys2Proof.Machine

/-! ### Banks of the pool (R22) -/

/-- The first bank of each pool partition (R22). -/
def bankStart (banks : List Nat) (p : Nat) : Nat := (banks.take p).sum

/-- The partition of a bank. -/
def bankPart (banks : List Nat) (b : Nat) : Nat :=
  ((List.range 7).find? fun p => b < bankStart banks (p + 1)).getD 6

/-- The pool address of a line of a bank: partitions follow one another, each interleaved over its banks in 4 KiB units
(chapter 1, "The shared pool and its partition"). -/
def bankAddr (bank line : Nat) (d : Dev) : Nat :=
  let p := bankPart d.fab.banks bank
  let b0 := bankStart d.fab.banks p
  let nb := (d.fab.banks[p]?).getD 1
  poolBase + b0 * 0x400000 + ((line / 64) * nb + (bank - b0)) * 4096 + line % 64 * 64

/-- The FAB unit of a pool address: its bank (Table 3.7). -/
def poolUnit (a : Nat) (d : Dev) : Nat :=
  let off := a - poolBase
  let p := ((List.range 7).find? fun p => off / 0x400000 < bankStart d.fab.banks (p + 1)).getD 6
  let b0 := bankStart d.fab.banks p
  256 + b0 + (off - b0 * 0x400000) / 4096 % ((d.fab.banks[p]?).getD 1)

/-- The unit of Table 20.2 for a FAB unit code (kind in [9:8], index in [7:0]). -/
def fabUnit (u : Nat) : Nat :=
  match u / 256 with
  | 0 => unitOf 0x0C (u % 256)
  | 1 => unitOf 0x0D (u % 256)
  | _ => unitOf 0x0E (u % 256)

/-! ### Poison (R92) -/

/-- Poison marks (R92). -/
def poisoned (addr : Nat) (d : Dev) : Bool := tget false d.fab.poison (addr / 8)
def setPoison (addr : Nat) (p : Bool) (d : Dev) : Dev :=
  { d with fab.poison := tset false d.fab.poison (addr / 8) p }

/-- The 8-byte words of a range touch a word number. -/
def inWords (addr len w : Nat) : Bool := len != 0 && addr / 8 ≤ w && w ≤ (addr + len - 1) / 8

/-- A range covers a whole 8-byte word. -/
def wholeWord (addr len w : Nat) : Bool := addr ≤ 8 * w && 8 * w + 8 ≤ addr + len

/-- Some word of a range is poisoned. -/
def rangePoisoned (addr len : Nat) (d : Dev) : Bool := d.fab.poison.any fun p => inWords addr len p.1 && p.2

/-! ### The symbol code (R91, R92) -/

/-- What the code makes of an error over the 76-bit codeword. -/
inductive Ecc | clean | corrected (symbol : Nat) | uncorrectable | beyond
  deriving DecidableEq, Repr

/-- The symbols of 4 bits that an error touches (R91). -/
def badSymbols (err : Nat) : List Nat := those 19 fun k => err / 2 ^ (4 * k) % 16 != 0

/-- One symbol is corrected; two bits in different symbols are detected; more may go undetected (R91). -/
def classifyEcc (err : Nat) : Ecc :=
  match badSymbols err with
  | [] => .clean
  | [k] => .corrected k
  | _ => if popCount 76 err = 2 then .uncorrectable else .beyond

/-- How data is delivered: as it was; with a poison mark; or, after an error that went undetected, as open data. -/
inductive Fate | whole | marked | changed
  deriving DecidableEq, Repr

/-- An uncorrectable error at an address of a unit: counted, and FAB_ECC_UE raised (R92). -/
def eccUe (u addr : Nat) (d : Dev) : Dev :=
  let d := wr Reg.FAB_ECC_LAST_UNIT u (bump Reg.FAB_ECC_UE d)
  raiseC Ev.FAB_ECC_UE (fabUnit u) addr 0 (setb Reg.FAB_STATUS_ECC_UE d)

/-- A unit delivers a word with an error: corrected and noted, or detected, or, beyond what the code detects, one or the other: an open
choice (R91, R92). -/
def eccMeet (u addr err : Nat) (d : Dev) : Fate × Dev :=
  match classifyEcc err with
  | .clean => (.whole, d)
  | .corrected k => (.whole, notice Ev.FAB_ECC_CE (fabUnit u) addr k (bump Reg.FAB_ECC_CE d))
  | .uncorrectable => (.marked, eccUe u addr d)
  | .beyond => let (x, d) := drawNat 2 d; if x = 0 then (.changed, d) else (.marked, eccUe u addr d)

/-- An access to a word of a unit with an error pattern on top of what the word's stored check bits carry (R91, R92, R94): a corrected
word is written back, a detected one keeps its poison mark, an undetected one holds open data. -/
def eccAccess (u addr err : Nat) (d : Dev) : Dev :=
  let e := err ^^^ tget 0 d.fab.flips (addr / 8)
  let mend (d : Dev) : Dev := { d with fab.flips := tset 0 d.fab.flips (addr / 8) 0 }
  match eccMeet u addr e d with
  | (.whole, d) => if e = 0 then d else mend d
  | (.marked, d) => setPoison addr true d
  | (.changed, d) => let (b, d) := drawBytes 8 d; memWrite (addr / 8 * 8) b (mend d)

/-- The errors stored in the pool words of a range are met by a read of it (R91, R92). -/
def eccRange (addr len : Nat) (d : Dev) : Dev :=
  forEach ((d.fab.flips.filter fun p => inWords addr len p.1 && inPool (8 * p.1)).map (8 * ·.1)) (fun a d => eccAccess (poolUnit a d) a 0 d) d

/-! ### Stores -/

/-- The first word of a range that is written into the bank that an armed FAB_INJ names takes the inverted check bits, which are codeword
bits 64–75, and spends it (R94). -/
def injectStore (addr len : Nat) (d : Dev) : Dev :=
  let u := rd Reg.FAB_INJ_UNIT d
  if rdb Reg.FAB_INJ_ARM_ARM d && u / 256 == 1 then
    match ((List.range ((addr % 8 + len + 7) / 8)).map (addr / 8 + ·)).find? fun w => inPool (8 * w) && poolUnit (8 * w) d == u with
    | some w => clr Reg.FAB_INJ_ARM_ARM { d with fab.flips := tset 0 d.fab.flips w (rd Reg.FAB_INJ_MASK d * 2 ^ 64) }
    | none => d
  else d

/-- Store bytes at their target: a whole word written carries neither poison nor an old error, and an armed injection acts (R92, R94). -/
def storeMem (addr : Nat) (b : Bytes) (d : Dev) : Dev :=
  let d := memWrite addr b d
  injectStore addr b.length { d with
    fab.flips := d.fab.flips.filter fun p => !wholeWord addr b.length p.1
    fab.poison := d.fab.poison.filter fun p => !wholeWord addr b.length p.1 }

/-- Store a little-endian number of `n` bytes at its target (R7). -/
def storeNat (addr n v : Nat) (d : Dev) : Dev := storeMem addr (leBytes n v) d

/-- Mark every word that a range touches. -/
def markRange (addr len : Nat) (d : Dev) : Dev :=
  if len = 0 then d
  else forEach (List.range ((addr % 8 + len + 7) / 8)) (fun i d => setPoison (addr / 8 * 8 + 8 * i) true d) d

end Sys2Proof.Machine
end

