-- ==== Sys2Proof/Machine/Lines.lean ====
section
/-!
DEFINITION. The lines that a cluster L2 holds (spec/04_data_engines.md, R126, R139): where an address lies, and the writeback of a line.
-/

namespace Sys2Proof.Machine

/-- The set of a physical address: A[17:6] ⊕ A[29:18] ⊕ A[41:30] (R126). -/
def l2Set (a : Nat) : Nat := (a / 2 ^ 6 % 4096) ^^^ (a / 2 ^ 18 % 4096) ^^^ (a / 2 ^ 30 % 4096)

/-- The tag of a physical address: A[43:18] (R126). -/
def l2Tag (a : Nat) : Nat := a / 2 ^ 18 % 2 ^ 26

/-- The line address that a set and a tag name. -/
def l2Addr (set tag : Nat) : Nat := tag * 2 ^ 18 + ((set ^^^ (tag % 4096)) ^^^ (tag / 4096 % 4096)) * 64

/-- Change one L2 and one line of it. -/
def modL2 (cl : Nat) (f : L2 → L2) (d : Dev) : Dev := { d with l2s := tmod {} d.l2s cl f }
def getL2 (cl : Nat) (d : Dev) : L2 := tget {} d.l2s cl
def getLine (cl set way : Nat) (d : Dev) : L2Line := tget {} (getL2 cl d).lines (set * 16 + way)
def setLine (cl set way : Nat) (l : L2Line) (d : Dev) : Dev :=
  modL2 cl (fun c => { c with lines := tset {} c.lines (set * 16 + way) l }) d

/-- The way that holds an address. -/
def l2Find (cl a : Nat) (d : Dev) : Option Nat :=
  (List.range 16).find? fun w => let l := getLine cl (l2Set a) w d; l.valid && l.tag == l2Tag a

/-- Write a line back if it is dirty, with the poison marks of its words (R92, R139); it stays, clean. -/
def writeBack (cl set way : Nat) (d : Dev) : Dev :=
  let l := getLine cl set way d
  if l.valid && l.dirty then
    let a := l2Addr set l.tag
    setLine cl set way { l with dirty := false }
      (forEach (those 8 fun i => bitOf l.poison i) (fun i d => setPoison (a + 8 * i) true d) (storeMem a l.data d))
  else d

end Sys2Proof.Machine
end

