-- ==== Sys2Proof/Machine/Budget.lean ====
section
/-!
DEFINITION. The period and the length of a tempo (spec/02_tempo.md, R35, R40), and token requests and grants
(spec/21_power_management.md, R604, R605).
-/

namespace Sys2Proof.Machine

/-- The period in ns of a code of Table 2.1; nothing for a code it does not list. -/
def periodOf (code : Nat) : Option Nat := [500, 625, 800, 1000, 1250, 1600, 2000, 2500, 3125, 4000][code]?

/-- The period in force, in ns (R35). -/
def periodNs (d : Dev) : Nat := (periodOf (rd Reg.TMP_CTRL_PERIOD d)).getD 1000

/-- The tempo number of a time (R40). -/
def tempoNumber (sec ns period : Nat) : Nat := (sec * 1000000000 + ns) / period % 2 ^ 64

/-- Time trouble (R612): nothing new is admitted or built, and every request of a level or state is refused (R379, R613). -/
def inTrouble (d : Dev) : Bool := rdb Reg.PWR_STATUS_TT d

/-- Some cluster of this head serves replication; with none, replication is disabled on it (R20): it sends and takes no replication
message, and starts no session, cycle or anchor. -/
def replOn (d : Dev) : Bool := (List.range 8).any fun c => rd (Reg.CL_CTRL_FUNCTION c) d == 3

/-- The function whose clusters scrub and audit references: replication, or flash translation where none serves replication (R20). -/
def careFn (d : Dev) : Nat := if replOn d then 3 else 2

/-- Tempi that last at least a time in ns at the period in force, rounded up. -/
def tempiFor (ns : Nat) (d : Dev) : Nat := (ns + periodNs d - 1) / periodNs d

/-- Post a token request of a requester, unless it already has one waiting. -/
def postReq (q : TokReq) (d : Dev) : Dev :=
  if d.pwr.waiting.any fun x => x.who == q.who && x.cls == q.cls then d
  else { d with pwr.waiting := d.pwr.waiting ++ [q] }

/-- A requester holds a grant of a class for this tempo: just granted or held. -/
def hasGrant (who : TokWho) (cls : Nat) (d : Dev) : Bool :=
  (d.pwr.granted ++ d.pwr.holds).any fun q => q.who == who && q.cls == cls && !q.used

/-- Tokens a requester holds in a class this tempo. -/
def grantOf (who : TokWho) (cls : Nat) (d : Dev) : Nat :=
  (((d.pwr.granted ++ d.pwr.holds).filter fun q => q.who == who && q.cls == cls).map (·.cost)).sum

/-- A hold ends early when its operation reports that it is done (R604). -/
def endHold (who : TokWho) (cls : Nat) (d : Dev) : Dev :=
  let stop (q : TokReq) : TokReq := if q.who == who && q.cls == cls then { q with left := 1, used := true } else q
  { d with pwr.granted := d.pwr.granted.map stop, pwr.holds := d.pwr.holds.filter fun q => !(q.who == who && q.cls == cls) }


end Sys2Proof.Machine
end

