-- ==== Sys2Proof/Machine/Crypto.lean ====
section
/-!
DEFINITION. The published algorithms that the device computes (spec/08_compression_and_digest.md, spec/09_cipher_and_keys.md,
spec/13_stripes_and_rebuild.md): CRCs, GF(2^8), digests and HMAC over opaque compression functions, AES modes and key wrap over
an opaque block cipher.
-/

namespace Sys2Proof.Machine

/-! ### CRCs and fields -/

/-- One bit of a reflected CRC. -/
def crcBit (poly c : Nat) : Nat := if c % 2 = 1 then (c / 2) ^^^ poly else c / 2

/-- One byte of a reflected CRC. -/
def crcByte (poly c : Nat) (b : Byte) : Nat := (List.range 8).foldl (fun c _ => crcBit poly c) (c ^^^ b.toNat)

/-- The reflected polynomial of the NVM Command Set's 64-bit guard (R109; PRESUMED from that specification). -/
def crc64Poly : Nat := 0x9A6C9329AC4BC9B5

/-- QCRC64's step over bytes: no initial value, no inversion (R109). -/
def crc64Step (c : Nat) (bs : Bytes) : Nat := bs.foldl (crcByte crc64Poly) c

/-- The CRC-64 of the GTE and the granule header: initial all-ones, inverted (R109, R275). -/
def crc64 (bs : Bytes) : Nat := 2 ^ 64 - 1 - crc64Step (2 ^ 64 - 1) bs

/-- CRC-32C over bytes (reflected polynomial PRESUMED). -/
def crc32c (bs : Bytes) : Nat := 2 ^ 32 - 1 - bs.foldl (crcByte 0x82F63B78) (2 ^ 32 - 1)

/-- Multiplication in GF(2^8) modulo x^8 + x^4 + x^3 + x^2 + 1. -/
def gfMul (a b : Nat) : Nat :=
  (List.range 8).foldl (fun v i =>
    let v := if v ≥ 128 then (v * 2) ^^^ 0x11D else v * 2
    if bitOf b (7 - i) then v ^^^ a else v) 0 % 256

/-- Powers and the inverse. -/
def gfPow (a n : Nat) : Nat := (List.range n).foldl (fun v _ => gfMul v a) 1
def gfInv (a : Nat) : Nat := gfPow a 254

/-- Bytes XORed; the shorter one is taken as ending in zeros. -/
def xorBytes : Bytes → Bytes → Bytes
  | [], b => b
  | a, [] => a
  | x :: a, y :: b => (x ^^^ y) :: xorBytes a b

/-! ### Digests (R274) -/

/-- The function under an OP of Table 8.7: 5–7 are HMACs, 8 is SHA-256. -/
def hashOf (op : Nat) : Nat := if op = 8 then 1 else if op ≥ 5 then op - 4 else op

/-- Block length and output length of a function in bytes (Table 8.7). -/
def hashBlock (f : Nat) : Nat := if f = 1 then 64 else if f = 4 then 136 else 128
def hashLen (f : Nat) : Nat := if f = 1 then 32 else if f = 2 then 48 else if f = 3 then 64 else 32

/-- The chaining value's length in bytes, by function. -/
def stateLen (f : Nat) : Nat := if f = 1 then 32 else if f = 4 then 200 else 64

/-- A digest in progress: chaining value, bytes absorbed, partial block (Table 8.9). -/
structure Digest where
  state : Bytes
  total : Nat
  buf : Bytes
  deriving DecidableEq, Repr

/-- A digest with nothing absorbed. -/
def Digest.start (f : Nat) : Digest := ⟨padTo (stateLen f) (Config.digestInit f), 0, []⟩

/-- Absorb bytes. -/
def Digest.absorb (f : Nat) (x : Digest) (m : Bytes) : Digest :=
  let all := x.buf ++ m
  let n := all.length / hashBlock f * hashBlock f
  ⟨if n = 0 then x.state else padTo (stateLen f) (Config.digestAbsorb f x.state (all.take n)), x.total + m.length, all.drop n⟩

/-- The digest. -/
def Digest.finish (f : Nat) (x : Digest) : Bytes := padTo (hashLen f) (Config.digestFinish f x.state x.total x.buf)

/-- A whole message's digest. -/
def hash (f : Nat) (m : Bytes) : Bytes := ((Digest.start f).absorb f m).finish f

/-- SHA-256 and SHA-384. -/
def sha256 (m : Bytes) : Bytes := hash 1 m
def sha384 (m : Bytes) : Bytes := hash 2 m

/-- The HMAC key block (FIPS 198-1): a longer key is hashed first. -/
def hmacKey (f : Nat) (key : Bytes) : Bytes :=
  let k := if key.length > hashBlock f then hash f key else key
  k ++ List.replicate (hashBlock f - k.length) 0

/-- The inner and outer digests of an HMAC with the key absorbed. -/
def hmacInner (f : Nat) (key : Bytes) : Digest := (Digest.start f).absorb f ((hmacKey f key).map (· ^^^ 0x36))
def hmacOuter (f : Nat) (key : Bytes) : Digest := (Digest.start f).absorb f ((hmacKey f key).map (· ^^^ 0x5C))

/-- HMAC of a message. -/
def hmac (f : Nat) (key m : Bytes) : Bytes :=
  ((hmacOuter f key).absorb f (((hmacInner f key).absorb f m).finish f)).finish f

/-! ### Keys and signatures (SP 800-108, FIPS 186-5) -/

/-- A key of a length derived from a key, a label and a context. -/
def kdf (key context : Bytes) (n : Nat) : Bytes := padTo n (Config.kdf key context n)

/-- A P-384 signature, public key (uncompressed point) and shared secret. -/
def ecdsaSign (key hash : Bytes) (nonce : Nat) : Bytes := padTo 96 (Config.ecdsaSign key hash nonce)
def ecPublic (key : Bytes) : Bytes := padTo 97 (Config.ecPublic key)
def ecdh (key other : Bytes) : Bytes := padTo 48 (Config.ecdh key other)

/-! ### AES modes (SP 800-38A, 38D) -/

/-- One AES block: 16 bytes (FIPS 197). -/
def aesBlock (enc : Bool) (key b : Bytes) : Bytes := padTo 16 (Config.aesBlock enc key b)

/-- Bytes as a big-endian number, and back. -/
def beNat (b : Bytes) : Nat := leNat b.reverse
def beBytes (n v : Nat) : Bytes := (leBytes n v).reverse

/-- Bytes in blocks of 16; `n` bounds their number. -/
def blocks16 : Nat → Bytes → List Bytes
  | 0, _ => []
  | n + 1, b => if b.isEmpty then [] else b.take 16 :: blocks16 n (b.drop 16)
def toBlocks (b : Bytes) : List Bytes := blocks16 (b.length / 16 + 1) b

/-- CBC. -/
def cbcEnc (key : Bytes) : Bytes → List Bytes → Bytes
  | _, [] => []
  | iv, p :: ps => let c := aesBlock true key (xorBytes p iv); c ++ cbcEnc key c ps
def cbcDec (key : Bytes) : Bytes → List Bytes → Bytes
  | _, [] => []
  | iv, c :: cs => xorBytes (aesBlock false key c) iv ++ cbcDec key c cs

/-- A block of key stream over a block or a part of one. -/
def xorPart (ks p : Bytes) : Bytes := xorBytes (ks.take p.length) p

/-- CFB128: `enc` whether the output feeds back. -/
def cfb (enc : Bool) (key : Bytes) : Bytes → List Bytes → Bytes
  | _, [] => []
  | iv, p :: ps =>
    let c := xorPart (aesBlock true key iv) p
    c ++ cfb enc key (if enc then c else p) ps

/-- OFB. -/
def ofb (key : Bytes) : Bytes → List Bytes → Bytes
  | _, [] => []
  | iv, p :: ps => let o := aesBlock true key iv; xorPart o p ++ ofb key o ps

/-- A counter block with its low 32 bits increased, big-endian. -/
def ctrInc (cb : Bytes) : Bytes := cb.take 12 ++ beBytes 4 ((beNat (cb.drop 12) + 1) % 2 ^ 32)

/-- CTR from a counter block. -/
def ctr (key : Bytes) : Bytes → List Bytes → Bytes
  | _, [] => []
  | cb, p :: ps => xorPart (aesBlock true key cb) p ++ ctr key (ctrInc cb) ps

/-- Multiplication in GHASH's field, bit 0 the most significant of the first byte. -/
def ghashMul (x y : Nat) : Nat :=
  let step (s : Nat × Nat) (i : Nat) : Nat × Nat :=
    let (z, v) := s
    (if bitOf x (127 - i) then z ^^^ v else z, if v % 2 = 1 then (v / 2) ^^^ (0xE1 * 2 ^ 120) else v / 2)
  ((List.range 128).foldl step (0, y)).1

/-- A string padded with zeros to whole blocks. -/
def pad16 (b : Bytes) : Bytes := b ++ List.replicate ((16 - b.length % 16) % 16) 0

/-- GHASH over whole blocks. -/
def ghash (h : Nat) (b : Bytes) : Nat := (toBlocks b).foldl (fun y x => ghashMul (y ^^^ beNat x) h) 0

/-- The GCM tag of a ciphertext with a 12-byte IV. -/
def gcmTag (key iv aad ct : Bytes) : Bytes :=
  let h := beNat (aesBlock true key (List.replicate 16 0))
  let s := ghash h (pad16 aad ++ pad16 ct ++ beBytes 8 (8 * aad.length) ++ beBytes 8 (8 * ct.length))
  xorBytes (aesBlock true key (iv ++ beBytes 4 1)) (beBytes 16 s)

/-- GCM encryption and decryption of data. -/
def gcmData (key iv data : Bytes) : Bytes := ctr key (iv ++ beBytes 4 2) (toBlocks data)

/-! ### Key wrap (RFC 3394, RFC 5649) -/

/-- Semiblocks of 8 bytes. -/
def semis : Nat → Bytes → List Bytes
  | 0, _ => []
  | n + 1, b => b.take 8 :: semis n (b.drop 8)

/-- One pass of the wrap over the semiblocks: A, step number, semiblocks. -/
def wrapPass (kek : Bytes) : Bytes → Nat → List Bytes → Bytes × List Bytes
  | a, _, [] => (a, [])
  | a, t, r :: rs =>
    let b := aesBlock true kek (a ++ r)
    let (a', rs') := wrapPass kek (xorBytes (b.take 8) (beBytes 8 t)) (t + 1) rs
    (a', b.drop 8 :: rs')

/-- The wrap W of SP 800-38F: initial value, semiblocks. -/
def kwW (kek a : Bytes) (rs : List Bytes) : Bytes :=
  let (a, rs) := (List.range 6).foldl (fun s j => wrapPass kek s.1 (j * rs.length + 1) s.2) (a, rs)
  a ++ rs.flatten

/-- One pass of the unwrap, from the last semiblock to the first: A, step number, semiblocks in reverse. -/
def unwrapPass (kek : Bytes) : Bytes → Nat → List Bytes → Bytes × List Bytes
  | a, _, [] => (a, [])
  | a, t, r :: rs =>
    let b := aesBlock false kek (xorBytes a (beBytes 8 t) ++ r)
    let (a', rs') := unwrapPass kek (b.take 8) (t - 1) rs
    (a', b.drop 8 :: rs')

/-- The unwrap: A and the semiblocks. -/
def kwU (kek c : Bytes) : Bytes × Bytes :=
  let n := c.length / 8 - 1
  let rs := (semis n (c.drop 8)).reverse
  let (a, rs) := (List.range 6).foldl (fun s j => unwrapPass kek s.1 ((6 - j) * n) s.2) (c.take 8, rs)
  (a, rs.reverse.flatten)

/-- KW. -/
def kwWrap (kek p : Bytes) : Bytes := kwW kek (List.replicate 8 0xA6) (semis (p.length / 8) p)
def kwUnwrap (kek c : Bytes) : Option Bytes :=
  let (a, p) := kwU kek c
  if a = List.replicate 8 0xA6 then some p else none

/-- KWP. -/
def kwpWrap (kek p : Bytes) : Bytes :=
  let aiv := [0xA6, 0x59, 0x59, 0xA6] ++ beBytes 4 p.length
  let q := p ++ List.replicate ((8 - p.length % 8) % 8) 0
  if q.length = 8 then aesBlock true kek (aiv ++ q) else kwW kek aiv (semis (q.length / 8) q)
def kwpUnwrap (kek c : Bytes) : Option Bytes :=
  let (a, p) := if c.length = 16 then
      let b := aesBlock false kek c
      (b.take 8, b.drop 8)
    else kwU kek c
  let mli := beNat (a.drop 4)
  if a.take 4 = [0xA6, 0x59, 0x59, 0xA6] ∧ 8 * (p.length / 8 - 1) < mli ∧ mli ≤ p.length
      ∧ (p.drop mli).all (· == 0) then some (p.take mli) else none

end Sys2Proof.Machine
end

