-- ==== Sys2Proof/Machine/Accel.lean ====
section
/-!
DEFINITION. What the accelerators with rings and lanes share (spec/08_compression_and_digest.md, R255–R265;
spec/09_cipher_and_keys.md, R285–R288, R297–R299; spec/13_stripes_and_rebuild.md, R412): their registers, reading and writing
memory with poison and seals, the choice of the next job, how a job ends, lane checkers and quarantine.
-/

namespace Sys2Proof.Machine

/-! ### Seals -/

/-- A transfer touches a sealed range (R298). -/
def inSeal (addr len : Nat) (d : Dev) : Option Nat :=
  (List.range 16).find? fun k =>
    let z := tget {} d.seals k
    z.used && z.base < addr + len && addr < z.base + z.len

/-- A transfer to a sealed range from a port that is not the cipher engine's is refused and its data poisoned; CIP_SEAL
counts it (R298). -/
def sealViolation (k addr : Nat) (d : Dev) : Dev :=
  notice Ev.CIP_SEAL 0 addr k (setb Reg.CIP_STATUS_SEAL_N (bump Reg.CIP_SEAL_VIOL d))

/-- Show which seals are in use. -/
def showSeals (d : Dev) : Dev :=
  wr Reg.CIP_SEAL_MAP (((List.range 16).map fun k => if (tget {} d.seals k).used then 2 ^ k else 0).sum) d

/-- Seal a range, with a free seal. -/
def takeSeal (base len lane : Nat) (d : Dev) : Option Nat × Dev :=
  match (List.range 16).find? fun k => !(tget {} d.seals k).used with
  | none => (none, d)
  | some k => (some k, showSeals { d with seals := tset {} d.seals k ⟨true, base, len, lane⟩ })

/-- Release a seal; with `zero` the whole range is zeroised first (R299). -/
def dropSeal (k : Nat) (zero : Bool) (d : Dev) : Dev :=
  let z := tget {} d.seals k
  let d := if zero then storeMem z.base (List.replicate z.len 0) d else d
  showSeals { d with seals := tset {} d.seals k {} }

/-! ### The registers of an accelerator, by the lane kind of Table 20.2: 3 cipher, 4 compression, 5 erasure, 6 digest -/

def accRings (k : Nat) : Nat := if k = 3 || k = 4 then 16 else 8
def accLanes (k : Nat) : Nat := match k with | 3 => 12 | 4 => 16 | 5 => 4 | _ => 2
def accSize (k : Nat) : Nat := if k = 3 then 128 else 64
/-- The STATUS byte's offset in a descriptor. -/
def accStatus (k : Nat) : Nat := if k = 3 then 112 else 48

def accBase (k r : Nat) : Field := match k with
  | 3 => Reg.CIP_RING_BASE r | 4 => Reg.CMP_RING_BASE r | 5 => Reg.ERS_RING_BASE r | _ => Reg.DIG_RING_BASE r
def accPrio (k r : Nat) : Field := match k with
  | 3 => Reg.CIP_RING_PRIO r | 4 => Reg.CMP_RING_PRIO r | 5 => Reg.ERS_RING_PRIO r | _ => Reg.DIG_RING_PRIO r
def accClusters (k r : Nat) : Field := match k with
  | 3 => Reg.CIP_RING_CLUSTERS r | 4 => Reg.CMP_RING_CLUSTERS r | 5 => Reg.ERS_RING_CLUSTERS r | _ => Reg.DIG_RING_CLUSTERS r
def accProd (k r : Nat) : Field := match k with
  | 3 => Reg.CIP_RPTR_PROD r | 4 => Reg.CMP_RPTR_PROD r | 5 => Reg.ERS_RPTR_PROD r | _ => Reg.DIG_RPTR_PROD r
def accCons (k r : Nat) : Field := match k with
  | 3 => Reg.CIP_RPTR_CONS r | 4 => Reg.CMP_RPTR_CONS r | 5 => Reg.ERS_RPTR_CONS r | _ => Reg.DIG_RPTR_CONS r
def accEnable (k : Nat) : Field := match k with
  | 3 => Reg.CIP_CTRL_LANE_EN | 4 => Reg.CMP_CTRL_LANE_EN | 5 => Reg.ERS_CTRL_LANE_EN | _ => Reg.DIG_CTRL_PIPE_EN
def accBusy (k : Nat) : Field := match k with
  | 3 => Reg.CIP_STATUS_BUSY | 4 => Reg.CMP_STATUS_BUSY | 5 => Reg.ERS_STATUS_BUSY | _ => Reg.DIG_STATUS_BUSY
def accQuar (k : Nat) : Field := match k with
  | 3 => Reg.CIP_STATUS_QUAR | 4 => Reg.CMP_STATUS_QUAR | 5 => Reg.ERS_STATUS_QUAR | _ => Reg.DIG_STATUS_QUAR
def accJobs (k : Nat) : Field := match k with
  | 3 => Reg.CIP_CNT_JOBS | 4 => Reg.CMP_CNT_JOBS | 5 => Reg.ERS_CNT_JOBS | _ => Reg.DIG_CNT_JOBS
def accSelf (k : Nat) : Field := match k with
  | 3 => Reg.CIP_ERR_SELF | 4 => Reg.CMP_ERR_SELF | 5 => Reg.ERS_ERR_SELF | _ => Reg.DIG_ERR_SELF
def accLaneChk (k : Nat) : Field := match k with
  | 3 => Reg.CIP_STATUS_LANE_CHK | 4 => Reg.CMP_STATUS_LANE_CHK | 5 => Reg.ERS_STATUS_LANE_CHK | _ => Reg.DIG_STATUS_PIPE_CHK
def accInjArm (k : Nat) : Field := match k with
  | 3 => Reg.CIP_INJ_ARM | 4 => Reg.CMP_INJ_ARM | 5 => Reg.ERS_INJ_ARM | _ => Reg.DIG_INJ_ARM
def accInjLane (k : Nat) : Field := match k with
  | 3 => Reg.CIP_INJ_LANE | 4 => Reg.CMP_INJ_LANE | 5 => Reg.ERS_INJ_LANE | _ => Reg.DIG_INJ_PIPE
def accLaneCode (k : Nat) : Nat := match k with
  | 3 => Ev.CIP_LANE | 4 => Ev.CMP_LANE | 5 => Ev.ERS_LANE | _ => Ev.DIG_LANE
def accNoLane (k : Nat) : Nat := match k with
  | 3 => Ev.CIP_NO_LANE | 4 => Ev.CMP_NO_LANE | 5 => Ev.ERS_NO_LANE | _ => Ev.DIG_NO_LANE
/-- The bit of GLB_RDONEc (Table 22.2). -/
def accUnit (k : Nat) : Nat := match k with | 3 => 0 | 4 => 2 | 5 => 3 | _ => 1

/-! ### Lanes, rings and descriptors -/

def getAccel (k : Nat) (d : Dev) : Accel := tget {} d.accels k
def modAccel (k : Nat) (f : Accel → Accel) (d : Dev) : Dev := { d with accels := tmod {} d.accels k f }
def getLane (k n : Nat) (d : Dev) : Lane := tget {} (getAccel k d).lanes n
def modLane (k n : Nat) (f : Lane → Lane) (d : Dev) : Dev :=
  modAccel k (fun a => { a with lanes := tmod {} a.lanes n f }) d

/-- Show which lanes hold a running or split job. -/
def showBusy (k : Nat) (d : Dev) : Dev :=
  wr (accBusy k) (((List.range (accLanes k)).map fun n => if (getLane k n d).job.isSome || (getAccel k d).pipe.any (·.lane == some n) then 2 ^ n else 0).sum) d

/-- The address of a descriptor (R628). -/
def descAddr (k r idx : Nat) (d : Dev) : Nat := rd (accBase k r) d + idx % 256 * accSize k

/-- A descriptor's bytes, and little-endian fields of bytes. -/
def descBytes (k r idx : Nat) (d : Dev) : Bytes := memRead d (descAddr k r idx d) (accSize k)
def fld (b : Bytes) (off n : Nat) : Nat := leNat ((b.drop off).take n)
def sub (b : Bytes) (off n : Nat) : Bytes := (b.drop off).take n
/-- Bytes replaced at an offset. -/
def patchBytes (b : Bytes) (off : Nat) (v : Bytes) : Bytes := b.take off ++ v ++ b.drop (off + v.length)
/-- A power region is quarantined (R90). -/
def regionQuar (r : Nat) (d : Dev) : Bool := (tget {} d.pwr.regions r).quar

/-- A lane takes jobs: enabled, not quarantined, its region awake (R258, R578, R598). -/
def laneOpen (k n : Nat) (d : Dev) : Bool :=
  bitOf (rd (accEnable k) d) n && !(getLane k n d).quar && rd (Reg.PWR_LVL_ASTATE 9) d == 0
    && !regionQuar 9 d

/-- A lane that can serve is left (R18, R653). -/
def accAvailable (k : Nat) (d : Dev) : Bool := (List.range (accLanes k)).any fun n => !(getLane k n d).quar

/-- Work that needs an accelerator can be served: a lane of it is left, and its region (R90, R653). -/
def laneServes (k : Nat) (d : Dev) : Bool := accAvailable k d && !regionQuar 9 d

/-- A ring has an unstarted descriptor. -/
def ringHasWork (k r : Nat) (d : Dev) : Bool := tget 0 (getAccel k d).next r != rd (accProd k r) d

/-- An unstarted VAULT decryption needs a free seal to start (R297). -/
def descStartable (k r i : Nat) (d : Dev) : Bool :=
  let vault := k = 3 && fld (descBytes k r i d) 1 1 % 4 = 3
  !vault || (List.range 16).any fun s => !(tget {} d.seals s).used

/-- A ring has work that can start. -/
def ringStartable (k r : Nat) (d : Dev) : Bool := ringHasWork k r d && descStartable k r (tget 0 (getAccel k d).next r) d

/-- Rings in the order of the rotation: after the ring served last. -/
def ringOrder (k : Nat) (d : Dev) : List Nat :=
  (List.range (accRings k)).map fun i => ((getAccel k d).rot + 1 + i) % accRings k

/-- The highest PRIO among startable rings and preempted jobs. -/
def topPrio (k : Nat) (d : Dev) : Option Nat :=
  let ps := ((List.range (accRings k)).filter fun r => ringStartable k r d).map (fun r => rd (accPrio k r) d)
    ++ (getAccel k d).preempted.map fun p => rd (accPrio k p.ring) d
  ps.foldl (fun b p => match b with
    | none => some p
    | some b => some (max b p)) none

/-- A VAULT decryption or unwrap seals its output range as it starts: in the pool, aligned to 64 bytes, at most 262,144 bytes
(R297). A KEYDEST job writes nothing to memory and takes no seal (R300). -/
def sealFor (k n r i : Nat) (d : Dev) : Dev :=
  let b := descBytes k r i d
  let op := fld b 0 1
  let len := if op = 7 ∨ op = 8 then fld b 4 4 - 8 else fld b 4 4
  let out := fld b 16 8
  if k = 3 && fld b 1 1 % 4 = 3 && !bitOf (fld b 2 1) 2 && op != 6 && len != 0 && len ≤ 262144 && out % 64 = 0
      && inPool out && inPool (out + len - 1) then
    let (z, d) := takeSeal out len n d
    modLane k n (fun l => { l with sealNo := z }) d
  else d

/-- Give a lane its next job (R257, R287): among the work of the highest PRIO, preempted jobs before unstarted ones, the older
first; rings of equal PRIO in rotation. -/
def takeJob (k n : Nat) (d : Dev) : Dev :=
  if (getLane k n d).job.isSome || !laneOpen k n d then d
  else match topPrio k d with
    | none => d
    | some p =>
      match (getAccel k d).preempted.find? fun x => rd (accPrio k x.ring) d == p with
      | some x =>
        let d := modAccel k (fun a => { a with preempted := a.preempted.erase x }) d
        let d := if k = 3 then wr Reg.CIP_PREEMPT_HELD (getAccel 3 d).preempted.length d else d
        showBusy k (modLane k n (fun l =>
          { l with job := some (x.ring, x.idx), sealNo := x.sealNo, restored := true, slice := { start := tempoNow d } }) d)
      | none =>
        match (ringOrder k d).find? fun r => ringStartable k r d && rd (accPrio k r) d == p with
        | none => d
        | some r =>
          let i := tget 0 (getAccel k d).next r
          let d := modAccel k (fun a => { a with next := tset 0 a.next r ((i + 1) % 65536), rot := r }) d
          showBusy k (sealFor k n r i (modLane k n (fun l =>
            { l with job := some (r, i), sealNo := none, restored := false, slice := { start := tempoNow d } }) d))

/-- Move a ring's consumer index past every descriptor with a final STATUS (R256, R286). -/
def advanceCons (k r : Nat) : Nat → Dev → Dev
  | 0, d => d
  | n + 1, d =>
    let c := rd (accCons k r) d
    let st := (memByte d (descAddr k r c d + accStatus k)).toNat
    let started := (tget 0 (getAccel k d).next r + 65536 - c) % 65536
    if started = 0 || st = 0 || st = 7 then d else advanceCons k r n (wr (accCons k r) ((c + 1) % 65536) d)

/-- Clusters that a ring's mask names learn of a job with INTR that has ended (Table 22.2). -/
def ringDone (unit mask : Nat) (d : Dev) : Dev :=
  forEach (List.range 8) (fun c d => if bitOf mask c then setBit (Reg.GLB_RDONE_UNIT c) unit d else d) d

/-- The INTR bit of FLAGS. -/
def intrBit (k : Nat) : Nat := match k with | 3 => 1 | 4 => 5 | _ => 4

/-- End a descriptor: bytes after STATUS first, then STATUS (R256, R286); counted, and signalled where INTR asks for it.
Erasure descriptors have no FLAGS. -/
def finishDesc (k r idx status xflags : Nat) (rest : Bytes) (d : Dev) : Dev :=
  let a := descAddr k r idx d
  let d := storeMem (a + accStatus k + 1) (BitVec.ofNat 8 xflags :: rest) d
  let d := storeNat (a + accStatus k) 1 status d
  let d := advanceCons k r 256 (bump (accJobs k) d)
  if k != 5 && bitOf (memByte d (a + 2)).toNat (intrBit k) then ringDone (accUnit k) (rd (accClusters k r) d) d else d

/-- IN_BYTES and OUT_BYTES as they stand behind XFLAGS: two reserved bytes, then two counts and a last word. -/
def counts (inB outB last : Nat) : Bytes := [0, 0] ++ leBytes 4 inB ++ leBytes 4 outB ++ leBytes 4 last

/-- End a lane's job with a status; the lane takes its next one when its slice runs on and nothing is about to quarantine it. -/
def endJob (k n status xflags : Nat) (rest : Bytes) (d : Dev) : Dev :=
  match (getLane k n d).job with
  | none => d
  | some (r, idx) =>
    let d := finishDesc k r idx status xflags rest d
    let d := showBusy k (modLane k n (fun l =>
      { l with job := none, sealNo := none, restored := false, slice := {} }) d)
    if (getLane k n d).running && !d.todo.contains (.quarantine (unitOf k n)) then takeJob k n d else d

/-! ### Lane checkers -/

/-- The TAG of a descriptor. -/
def descTag (k a : Nat) (d : Dev) : Nat :=
  match k with
  | 3 => memNat d (a + 64) 8
  | 6 => memNat d (a + 44) 4
  | _ => memNat d (a + 40) 8

/-- A lane's checker fires in a job: the lane code as a Check, or as a Double check within 1,000 tempi of the lane's last (R261). The
record names the descriptor and its TAG (Table 20.6). -/
def laneFires (k n a tag : Nat) (d : Dev) : Dev :=
  let d := setb (accLaneChk k) (bump (accSelf k) d)
  let again := match (getLane k n d).lastChk with
    | some t => decide (tempoNow d ≤ t + 1000)
    | none => false
  let d := modLane k n (fun l => { l with lastChk := some (tempoNow d) }) d
  if again then raiseD (accLaneCode k) (unitOf k n) a tag false d else raiseC (accLaneCode k) (unitOf k n) a tag d

/-- A lane's checker fires in the job of a ring that it holds. -/
def laneCheck (k n : Nat) (d : Dev) : Dev :=
  match (getLane k n d).job with
  | some (r, i) => laneFires k n (descAddr k r i d) (descTag k (descAddr k r i d) d) d
  | none => laneFires k n 0 0 d

/-! ### Memory as a lane sees it -/

/-- Bytes a lane reads: with the errors and the poison it meets, and a seal that turns other engines away (R91, R92, R298). -/
def laneRead (k addr len : Nat) (d : Dev) : Bytes × Bool × Dev :=
  match if k = 3 then none else inSeal addr len d with
  | some s => (List.replicate len 0, true, sealViolation s addr d)
  | none =>
    let d := eccRange addr len d
    (memRead d addr len, rangePoisoned addr len d, d)

/-- Bytes a lane writes; a seal discards another engine's write (R92, R94, R298). -/
def laneWrite (k addr : Nat) (b : Bytes) (d : Dev) : Dev :=
  match if k = 3 then none else inSeal addr b.length d with
  | some s => sealViolation s addr d
  | none => storeMem addr b d

/-- Zeros over bytes already written (R265, R294). -/
def zeroise (k addr len : Nat) (d : Dev) : Dev := laneWrite k addr (List.replicate len 0) d

/-- The fragments of a gather list (Table 8.3): 1 to 16 entries, each with a non-zero LEN, ending with LAST; addresses in
memory. Nothing when the list is malformed. -/
def gatherList (d : Dev) : Nat → Nat → Option (List (Nat × Nat))
  | _, 0 => none
  | a, n + 1 =>
    let addr := memNat d a 8
    let len := memNat d (a + 8) 4
    let flags := memNat d (a + 12) 4
    if len = 0 || len > 16777215 || flags > 1 || !inMem addr len || !inMem a 16 then none
    else if flags = 1 then some [(addr, len)]
    else (gatherList d (a + 16) n).map ((addr, len) :: ·)

/-- The input of a job: fragments of a contiguous buffer or of a gather list; nothing when malformed (R263). -/
def jobInput (sgl : Bool) (addr len : Nat) (d : Dev) : Option (List (Nat × Nat)) :=
  if sgl then gatherList d addr 16
  else if len = 0 then some [] else if inMem addr len then some [(addr, len)] else none

/-- Read fragments up to a length: bytes, poison, state. -/
def readFrags (k : Nat) : List (Nat × Nat) → Nat → Dev → Bytes × Bool × Dev
  | [], _, d => ([], false, d)
  | (a, l) :: fs, n, d =>
    if n = 0 then ([], false, d)
    else
      let (b, p, d) := laneRead k a (min l n) d
      let (b', p', d) := readFrags k fs (n - min l n) d
      (b ++ b', p || p', d)

/-- The bytes that arrive in all. -/
def fragTotal (fs : List (Nat × Nat)) : Nat := (fs.map (·.2)).sum

/-- An armed injection for the lane is spent on its next transfer (R261). -/
def takeLaneInj (k n : Nat) (d : Dev) : Bool × Dev :=
  if rdb (accInjArm k) d && rd (accInjLane k) d == n then (true, clr (accInjArm k) d) else (false, d)

/-- What happens to a job's transfers beside its data: nothing, a cut-off (R75), the lane's checker (R261). -/
def faultBits (cut self poison : Bool) : Nat := 0x20 * b2n cut + 0x40 * b2n self + 0x10 * b2n poison

end Sys2Proof.Machine
end

