-- ==== Sys2Proof/Machine/Descs.lean ====
section
/-!
DEFINITION. The descriptors of the four accelerators: which command runs one, the limits it is held to, and what a job leaves that ends
CHECK_FAIL (spec/08_compression_and_digest.md, R263, R265, R267; spec/09_cipher_and_keys.md, R289–R295; spec/13_stripes_and_rebuild.md,
R413, R414); the quarantine of a lane (spec/20_scoresheet_and_faults.md, Table 20.3).
-/

namespace Sys2Proof.Machine

/-! ### Compression (Table 8.5) -/

/-- A compression descriptor (Table 8.5) as its command: 0 ONESHOT, 1 START, 2 CONTINUE, 3 decompress; what no table lists goes
with ONESHOT. -/
def cmpKind (b : Bytes) : Nat :=
  let op := fld b 0 1
  let mode := fld b 1 1
  if op = 2 then 3 else if op = 1 ∧ (mode = 1 ∨ mode = 2) then mode else 0

/-- The limits of R263 and Table 8.5. -/
def cmpOk (b : Bytes) (d : Dev) : Bool :=
  let op := fld b 0 1
  let mode := fld b 1 1
  let flags := fld b 2 1
  let inLen := fld b 4 4
  let limit := fld b 16 4
  let decl := fld b 20 4
  let ctx := fld b 32 8
  let streams := op = 1 && (mode = 1 || mode = 2)
  ((op = 1 && mode < 3) || (op = 2 && mode = 0)) && flags < 64 && fld b 3 1 < 4 && fld b 50 2 == 0
    && inLen ≤ 131072 && (inLen != 0 || (op = 1 && mode = 2)) && 1 ≤ limit && limit ≤ 262144
    && (if op = 2 then 1 ≤ decl && decl ≤ 131072 && decl ≤ limit else decl == 0)
    && inMem (fld b 24 8) limit
    && (if streams then ctx % 4096 == 0 && inMem ctx 196608 else ctx == 0)
    && (jobInput (bitOf flags 0) (fld b 8 8) inLen d).isSome

/-! ### Digest (Table 8.8) -/

/-- The output bytes of an OP (Table 8.7). -/
def digestOut (op : Nat) : Nat := if op = 8 then 40 else hashLen (hashOf op)

/-- An OP is an HMAC. -/
def isHmac (op : Nat) : Bool := 5 ≤ op && op ≤ 7

/-- Which command a descriptor belongs to: its OP; what no table lists goes with OP 1. -/
def digKind (b : Bytes) : Nat := if 1 ≤ fld b 0 1 ∧ fld b 0 1 ≤ 8 then fld b 0 1 else 1

/-- The bytes a job outputs or compares. -/
def digestTake (b : Bytes) : Nat := if fld b 3 1 = 0 then digestOut (fld b 0 1) else fld b 3 1

/-- The limits of R263, R275, R276 and Table 8.8. -/
def digOk (b : Bytes) (d : Dev) : Bool :=
  let op := fld b 0 1
  let mode := fld b 1 1
  let flags := fld b 2 1
  let tlen := fld b 3 1
  let len := fld b 4 4
  let keyAddr := fld b 24 8
  let keyLen := fld b 40 2
  let keyNum := fld b 42 1
  let ctx := fld b 32 8
  let keyReg := bitOf flags 2
  1 ≤ op && op ≤ 8 && mode < 4 && (op != 8 || mode == 0) && flags < 32 && (!bitOf flags 1 || op != 8)
    && (tlen == 0 || (16 ≤ tlen && tlen ≤ digestOut op))
    && (len != 0 || mode == 3) && (op != 8 || len ≤ 131072)
    && (if isHmac op && !keyReg then 1 ≤ keyLen && keyLen ≤ 256 && inPool keyAddr && inPool (keyAddr + keyLen - 1)
        else keyLen == 0 && keyAddr == 0)
    && (if isHmac op && keyReg then keyNum < 8 && (tget [] d.keys.digest keyNum) != [] else keyNum == 0 && !keyReg)
    && (if mode = 0 then ctx == 0 else ctx % 64 == 0 && inMem ctx 512)
    && (mode == 1 || mode == 2 || inMem (fld b 16 8) (digestTake b))
    && fld b 43 1 == 0 && fld b 50 2 == 0 && fld b 60 4 == 0
    && (jobInput (bitOf flags 0) (fld b 8 8) len d).isSome

/-! ### Cipher (Table 9.2) -/

/-- The KSLOT and, with KEYDEST, the DSLOT of a descriptor. -/
def jobSlots (b : Bytes) : List Nat := fld b 3 1 :: (if bitOf (fld b 2 1) 2 then [fld b 36 1] else [])

/-- The fields of a cipher descriptor. -/
def cipOp (b : Bytes) : Nat := fld b 0 1
def cipDec (b : Bytes) : Bool := bitOf (fld b 1 1) 0
def cipVault (b : Bytes) : Bool := bitOf (fld b 1 1) 1
def cipIvSrc (b : Bytes) : Nat := fld b 1 1 / 4 % 4
def cipLen (b : Bytes) : Nat := fld b 4 4
def cipAadLen (b : Bytes) : Nat := fld b 32 4
def cipKeyDest (b : Bytes) : Bool := bitOf (fld b 2 1) 2

/-- Which command a descriptor belongs to; what Table 9.1 does not list goes with OP 1. -/
def cipKind (b : Bytes) : Nat := if 1 ≤ cipOp b ∧ cipOp b ≤ 8 then cipOp b else 1

/-- The declared length: a GCM decryption's tag arrives last (R294). -/
def cipDeclared (b : Bytes) : Nat := cipLen b + (if cipOp b = 5 ∧ cipDec b then 16 else 0)

/-- The bytes a job writes at OUT_ADDR when it ends OK. -/
def cipOutLen (b : Bytes) : Nat :=
  match cipOp b with
  | 5 => if cipDec b then cipLen b else cipLen b + 16
  | 6 => 16
  | 7 => if cipDec b then cipLen b - 8 else cipLen b + 8
  | 8 => if cipDec b then cipLen b - 8 else (cipLen b + 7) / 8 * 8 + 8
  | _ => cipLen b

/-- IN_LEN and AAD_LEN within Table 9.1. -/
def cipLenOk (b : Bytes) : Bool :=
  let n := cipLen b
  let a := cipAadLen b
  match cipOp b with
  | 1 => n % 16 == 0 && a == 0
  | 2 => a == 0
  | 3 => a == 0
  | 4 => a == 0
  | 5 => a < 2 ^ 24
  | 6 => n == 0 && 1 ≤ a && a < 2 ^ 24
  | 7 => a == 0 && n % 8 == 0 && (if cipDec b then 24 ≤ n && n ≤ 520 else 16 ≤ n && n ≤ 512)
  | 8 => a == 0 && (if cipDec b then n % 8 == 0 && 16 ≤ n && n ≤ 520 else 1 ≤ n && n ≤ 512)
  | _ => false

/-- IVSRC allowed for the OP and direction, with the reserved bytes of the IV field zero (R291, R293). -/
def cipIvOk (b : Bytes) : Bool :=
  let op := cipOp b
  match cipIvSrc b with
  | 0 => (op < 4 || op > 6 || cipDec b) && (op < 5 || op > 6 || fld b 60 4 == 0)
  | 1 => (op == 5 || op == 6) && fld b 56 8 == 0
  | 2 => (op == 4 || op == 5 || op == 6) && !cipDec b
  | _ => false

/-- The rules of R290 and R297 that do not depend on the key. -/
def cipOk (b : Bytes) (d : Dev) : Bool :=
  let op := cipOp b
  let wrapOp := op == 7 || op == 8
  let ctx := fld b 40 8
  let out := fld b 16 8
  1 ≤ op && op ≤ 8 && fld b 1 1 < 16 && fld b 2 1 < 8 && cipIvSrc b < 3 && cipLenOk b && cipIvOk b
    && fld b 37 3 == 0 && fld b 72 4 < 2 ^ 23 && fld b 80 32 == 0
    && (if cipAadLen b = 0 then fld b 24 8 == 0 else inMem (fld b 24 8) (cipAadLen b))
    && ctx % 256 == 0 && (if ctx = 0 then wrapOp || cipLen b ≤ 65536 else inMem ctx 256)
    && (if cipKeyDest b then wrapOp && cipDec b && cipVault b && fld b 36 1 != fld b 3 1 && fld b 76 4 < 2 ^ 20
        else fld b 36 1 == 0 && fld b 76 4 == 0)
    && (cipKeyDest b || inMem out (cipOutLen b))
    && (cipKeyDest b || !(cipVault b && cipDec b && op != 6)
        || (out % 64 == 0 && inPool out && inPool (out + cipOutLen b - 1) && cipOutLen b ≤ 262144))
    && (jobInput (bitOf (fld b 2 1) 0) (fld b 8 8) (cipDeclared b) d).isSome

/-- The rules of R290 that depend on the key: GID IVs need a DEK or an integrity key, a VAULT-class key needs CONFIG VAULT
(R293, R295). -/
def cipKeyOk (b : Bytes) (kind cls : Nat) : Bool :=
  (cipIvSrc b != 1 || kind == 1 || kind == 2) && (cls == 0 || cipVault b)

/-! ### Erasure (Table 13.2) -/

/-- Which command a descriptor belongs to; an OP that Table 13.2 does not list goes with GEN. -/
def ersKind (b : Bytes) : Nat := if fld b 0 1 = 2 ∨ fld b 0 1 = 3 then fld b 0 1 else 1

/-- The buffer addresses of a row, in column order. -/
def ersColumns (b : Bytes) (d : Dev) : List Nat :=
  (List.range (fld b 1 1 + 2)).map fun c => memNat d (fld b 8 8 + 8 * c) 8

/-- The limits of Table 13.2 and R414. -/
def ersOk (b : Bytes) (d : Dev) : Bool :=
  let op := fld b 0 1
  let w := fld b 1 1
  let m0 := fld b 2 1
  let m1 := fld b 3 1
  let len := fld b 4 4
  let table := fld b 8 8
  1 ≤ op && op ≤ 3 && 8 ≤ w && w ≤ 22
    && (if op = 2 then m0 ≤ w + 1 && (m1 == 255 || (m0 < m1 && m1 ≤ w + 1)) else m0 == 255 && m1 == 255)
    && len % 64 == 0 && 64 ≤ len && len ≤ 65536 && (sub b 16 24).all (· == 0) && fld b 50 2 == 0
    && inPool table && inMem table (8 * (w + 2)) && (ersColumns b d).all fun a => inMem a len

/-- The columns a job writes. -/
def ersOuts (b : Bytes) : List Nat :=
  match ersKind b with
  | 1 => [fld b 1 1, fld b 1 1 + 1]
  | 2 => fld b 2 1 :: (if fld b 3 1 = 255 then [] else [fld b 3 1])
  | _ => []

/-! ### A job that ends CHECK_FAIL -/

/-- A descriptor stands the checks that come before any data is read (R263, R290, R414). -/
def descOk (k : Nat) (b : Bytes) (d : Dev) : Bool :=
  match k with
  | 3 => cipOk b d
  | 4 => cmpOk b d
  | 5 => ersOk b d
  | _ => digOk b d

/-- The input bytes that a descriptor declares. -/
def descMost (k : Nat) (b : Bytes) : Nat :=
  match k with
  | 3 => cipDeclared b
  | 5 => (fld b 1 1 + 2) * fld b 4 4
  | _ => fld b 4 4

/-- A number no larger than a bound that the spec leaves open: how far a job had come when it stopped. -/
def drawUpTo (n : Nat) (d : Dev) : Nat × Dev := drawNat (n + 1) d

/-- A length status or CHECK_FAIL in a START or CONTINUE job ends the stream: a later job that names its context is refused (R267). -/
def endStream (k : Nat) (b : Bytes) (d : Dev) : Dev :=
  let stream := fld b 1 1 = 1 ∨ fld b 1 1 = 2
  match k with
  | 4 => if cmpKind b = 1 ∨ cmpKind b = 2 then { d with cmpStreams := tset {} d.cmpStreams (fld b 32 8) {} } else d
  | 6 => if stream then { d with keys.digestDead := tset false d.keys.digestDead (fld b 32 8) true } else d
  | _ => d

/-- What a job leaves that ends CHECK_FAIL after at most `most` bytes of input: how far it had come is open, what it wrote holds zeros,
and its stream is over (R265, R267, R294, R414). Answers IN_BYTES and OUT_BYTES. -/
def abandon (k : Nat) (b : Bytes) (most : Nat) (d : Dev) : (Nat × Nat) × Dev :=
  let (i, d) := drawUpTo most d
  match k with
  | 3 =>
    let o := if cipKeyDest b then 0 else min i (cipOutLen b)
    ((i, o), zeroise 3 (fld b 16 8) o d)
  | 4 =>
    let (o, d) := drawUpTo (if cmpKind b = 3 then fld b 20 4 else fld b 16 4) d
    ((i, o), endStream 4 b (zeroise 4 (fld b 24 8) o d))
  | 5 =>
    let len := fld b 4 4
    let outs := ersOuts b
    let addrs := ersColumns b d
    let (o, d) := drawUpTo (outs.length * len) d
    ((i, o), (outs.zip (List.range outs.length)).foldl (fun d c =>
      zeroise 5 (addrs.getD c.1 0) (min len (o - c.2 * len)) d) d)
  | _ => ((i, 0), endStream 6 b d)

/-! ### Quarantine -/

/-- Zeroise a sealed range and release its seal. -/
def breakSeal (z : Option Nat) (d : Dev) : Dev :=
  match z with
  | some s => dropSeal s true d
  | none => d

/-- What a job leaves that its lane's quarantine ends; one whose descriptor is refused has done nothing. -/
def abandonJob (k r i : Nat) (z : Option Nat) (d : Dev) : (Nat × Nat) × Dev :=
  let b := descBytes k r i d
  let (c, d) := if descOk k b d then abandon k b (descMost k b) d else ((0, 0), endStream k b d)
  (c, breakSeal z d)

/-- Quarantine a lane (Table 20.3): it takes no job, its running, split and preempted jobs end CHECK_FAIL with SELF, and when no lane is
left the accelerator's own Double check is raised (R17, R18). -/
def quarantineLane (k n : Nat) (d : Dev) : Dev :=
  if n ≥ accLanes k then d
  else
    let d := setBit (accQuar k) n (modLane k n (fun l => { l with quar := true, running := false }) d)
    let d := match (getLane k n d).job with
      | none => d
      | some (r, i) =>
        let (c, d) := abandonJob k r i (getLane k n d).sealNo d
        endJob k n 5 0x40 (counts c.1 c.2 0) d
    let mine := (getAccel k d).preempted.filter (·.lane == n)
    let d := modAccel k (fun a => { a with preempted := a.preempted.filter (·.lane != n) }) d
    let d := if mine.isEmpty then d else wr Reg.CIP_PREEMPT_HELD (getAccel 3 d).preempted.length d
    let d := mine.foldl (fun d p =>
      let (c, d) := abandonJob k p.ring p.idx p.sealNo d
      finishDesc k p.ring p.idx 5 0x40 (counts c.1 c.2 0) d) d
    if accAvailable k d then d else raiseD (accNoLane k) (unitOf k 0xFF) 0 0 false d

end Sys2Proof.Machine
end

