-- ==== Sys2Proof/Machine/Pipe.lean ====
section
/-!
DEFINITION. The jobs that the write and read pipelines give the accelerators (spec/01_head_architecture.md, R15–R18, R653;
spec/06_write_pipeline.md, R228, R651; spec/08_compression_and_digest.md, R259). A job lies in a ring until a lane has it, runs there in
slices, and ends by the command that reports its result. Which ring and descriptor firmware uses for it is left open.
-/

namespace Sys2Proof.Machine

/-- The job of a pipeline at an accelerator. -/
def pipeOf (k : Nat) (w : PipeFor) (d : Dev) : Option PipeJob := (getAccel k d).pipe.find? (·.who == w)

def dropPipe (k : Nat) (w : PipeFor) (d : Dev) : Dev := showBusy k <| modAccel k (fun a => { a with pipe := a.pipe.filter (·.who != w) }) d
def putPipe (k : Nat) (j : PipeJob) (d : Dev) : Dev := showBusy k <| modAccel k (fun a => { a with pipe := a.pipe.filter (·.who != j.who) ++ [j] }) d

/-- Nothing of a pipeline's work is left at any accelerator. -/
def dropPipes (w : PipeFor) (d : Dev) : Dev := forEach [3, 4, 5, 6] (fun k d => dropPipe k w d) d

/-- The lanes that may take a job: one whose job has failed on a lane goes to another, or to the same when there is no other (R651). -/
def pipeLanes (k : Nat) (failed : Option Nat) (d : Dev) : List Nat :=
  let ls := (List.range (accLanes k)).filter fun n => laneOpen k n d
  match failed with
  | none => ls
  | some f => if (ls.filter (· != f)).isEmpty then [f] else ls.filter (· != f)

/-- The job stands at the accelerator, on a lane as soon as one may take it; which of them does is open (R15, R257). -/
def pipePlace (k : Nat) (w : PipeFor) (d : Dev) : PipeJob × Dev :=
  let j := (pipeOf k w d).getD { who := w }
  if j.lane.isSome then (j, d)
  else
    let (l, d) := pickFree (pipeLanes k j.failed d) d
    let j := { j with lane := l }
    (j, putPipe k j d)

/-- Its slice may run: on a lane of an awake region that is not quarantined; a compression lane needs tokens (R16, R90, R259). -/
def pipeRuns (k : Nat) (j : PipeJob) (d : Dev) : Bool :=
  match j.lane with
  | some n => !regionQuar 9 d && rd (Reg.PWR_LVL_ASTATE 9) d == 0 && (k != 4 || hasGrant (.compLane n) 4 d)
  | none => false

/-- What a job of a pipeline has come to. -/
inductive PipeEnd | waits | ok | failed
  deriving DecidableEq, Repr

/-- The checker of a pipeline job's lane fires, by an injection or not (R261); the job's descriptor, which the record names, is open. -/
def pipeFires (k n : Nat) (e : JobEnd) (d : Dev) : Bool × Dev :=
  let (inj, d) := takeLaneInj k n d
  if inj || e = .self then
    let (a, d) := drawNat (2 ^ 44) d
    let (tag, d) := drawNat (2 ^ 32) d
    (true, laneFires k n a tag d)
  else (false, d)

/-- A command reports how the slice of a pipeline's job has ended. A job on a quarantined lane has failed whatever it reports; the first
failure gives a rerun, the second ends the job (R228, R651). A preempted job, of the cipher engine only, goes on later, on any lane
(R260, R301). -/
def pipeStep (k : Nat) (w : PipeFor) (e : JobEnd) (d : Dev) : PipeEnd × Dev :=
  let (j, d) := pipePlace k w d
  if !pipeRuns k j d then (.waits, d)
  else
  let (self, d) := match j.lane with
    | some n => pipeFires k n e d
    | none => (false, d)
  if self || e = .fail || (j.lane.any fun n => (getLane k n d).quar) then
    let d := bump (accJobs k) d
    if j.failed.isSome then (.failed, dropPipe k w d) else (.waits, putPipe k { j with lane := none, failed := j.lane } d)
  else if e = .preempted then (.waits, if k = 3 then putPipe k { j with lane := none } d else d)
  else (.ok, dropPipe k w (bump (accJobs k) d))

/-- The jobs that one piece of the device's own work takes at some accelerators: each needs a lane whose slice runs (R15, R653). Answers
whether all have ended OK. -/
def ownJobs (w : PipeFor) (ks : List Nat) (d : Dev) : Bool × Dev :=
  if !(ks.all fun k => laneServes k d && rd (Reg.PWR_LVL_ASTATE 9) d == 0) then (false, d)
  else
    let d := forEach ks (fun k d => (pipePlace k w d).2) d
    if !(ks.all fun k => (pipeOf k w d).any fun j => pipeRuns k j d) then (false, d)
    else ks.foldl (fun r k => let (e, d) := pipeStep k w .ok r.2; (r.1 && e = .ok, d)) (true, d)

end Sys2Proof.Machine
end

