-- ==== Sys2Proof/Machine/Links.lean ====
section
/-!
DEFINITION. What a block does to another block's unit: quarantine (Table 20.3), resignation (R510, R511), and the teardown
of links.
-/

namespace Sys2Proof.Machine

/-- What the SXC holds in RAM on VSB: its timebase, the version of the table in force, a Checkmate flag (R57, R547, R581). Without VSB
nothing is kept. -/
def vsbRam (d : Dev) : VsbRam :=
  if !d.pwr.vsb then {}
  else if d.pwr.good && !d.pwr.adj3 then {
    held := true, sec := d.tmp.sec, ns := d.tmp.ns, checkmate := d.flt.checkmateIn.isSome
    sptVersion := (d.sxc.spt.map (·.version)).getD d.sxc.ram.sptVersion }
  else d.sxc.ram

/-- FATAL_N and PWRCYC_REQ_N go high at t0 when they were low (R637). -/
def releasePins (d : Dev) : List Out := if d.pins.fatalN then [] else [.pin .fatalN true, .pin .pwrcycReqN true]

/-- The device after a reset or a power cycle with a boot cause of Table 18.7: what is not in fuses, flashes, the modules or
on VSB takes its value at reset (R12, R538, R597). -/
def reboot (cause : Nat) (d : Dev) : Dev :=
  let r : Dev := { Dev.reset with
    nv := d.nv
    outside := d.outside
    free := d.free
    out := d.out ++ releasePins d
    cas.hasPeer := d.cas.hasPeer
    pwr.vsb := d.pwr.vsb
    sxc.ram := { vsbRam d with checkmate := false }
    sxc.cause := cause
    sxc.prevDebug := d.sxc.debugScope != 0 }
  wr Reg.PWR_STATUS_VSB (b2n d.pwr.vsb) (wr Reg.GLB_SERIAL_SERIAL d.nv.serial r)

/-- The number of this device (CDT_CTRL.DEV) and of its peer (R521). -/
def ownDev (d : Dev) : Nat := rd Reg.CDT_CTRL_DEV d
def peerDev (d : Dev) : Nat := ownDev d ^^^ 1

/-- This head's letter, 0 A and 1 B. -/
def ownHead (d : Dev) : Nat := rd Reg.CAS_CTRL_HEAD d

/-- Two bits of CLn_ENG_STATE: 0 idle, 1 running, 2 slice in resume slot, 3 QUAR (Table 4.8). -/
def engStateField (e : Nat) : Field := ⟨(Reg.CL_ENG_STATE_STATE (e / 8)).off, 2 * (e % 8) + 1, 2 * (e % 8)⟩

/-- Bring CLn_ENG_STATE to an engine's state. -/
def showEngine (e : Nat) (d : Dev) : Dev :=
  let g := tget {} d.engines e
  wr (engStateField e) (if g.quar then 3 else if g.slice.isSome then 1 else if g.resume.isSome then 2 else 0) d

/-- The address of a task descriptor: ring 2k high ring at CLn_TQ_BASEk, the low ring 2 KiB after it (Table 4.4). -/
def taskAddr (ring idx : Nat) (d : Dev) : Nat :=
  let e := ring / 2
  rd (Reg.CL_TQ_BASE_BASE (e / 8) (e % 8)) d + (if ring % 2 = 1 then 0 else 2048) + idx % 64 * 32

/-- Quarantine an engine: it stops, its resume slot is discarded, its rings stay (R120). -/
def quarantineEngine (e : Nat) (d : Dev) : Dev :=
  showEngine e { d with engines := tmod {} d.engines e fun g => { g with quar := true, slice := none, resume := none } }

/-- The pause of an activation is in force, from edge P to its release (R566). -/
def activationPaused (d : Dev) : Bool := d.fwu.act.any fun a => a.phase ≥ 1

/-- Between an activation's switch and its release no slice is taken (Table 19.5). -/
def slicesHeld (d : Dev) : Bool := d.fwu.act.any fun a => a.phase == 2

/-- An engine whose quarantine, or its region's, takes it out of service (R90, R120). -/
def engineOut (e : Nat) (d : Dev) : Bool := (tget {} d.engines e).quar || regionQuar (e / 8) d

/-- The de-duplication index serves: enabled, its region not quarantined (R90, R657). -/
def fiuOn (d : Dev) : Bool := rdb Reg.FIU_CTRL_EN d && !regionQuar 9 d

/-- Begin this head's resignation with a cause of Table 16.4 before the command ends (R510). -/
def oweResign (cause : Nat) (d : Dev) : Dev := { d with todo := d.todo ++ [.resign cause] }

/-- A Double check castles where the fault policy's bit is 1 or where R510 says always. -/
def castleTest (code unit : Nat) (d : Dev) : Dev :=
  if code = Ev.KING_SPLIT && rdb Reg.CAS_CTRL_POL_KING d then oweResign 1 d
  else if [Ev.CIP_NO_LANE, Ev.DIG_NO_LANE, Ev.CMP_NO_LANE, Ev.ERS_NO_LANE].contains code && rdb Reg.CAS_CTRL_POL_ACCEL d then
    oweResign 1 d
  else if code = Ev.TT_LOST && rdb Reg.CAS_CTRL_POL_TT_LOST d then oweResign 1 d
  else if code = Ev.FAB_FAIL || code = Ev.FT_MD_LOST then oweResign 1 d
  else if code = Ev.PAIR_WRONG then
    -- wrong on both heads: neither castles (Table 16.3)
    if unit / 256 == 0x11 && bitOf (d.cas.persistentLoss ||| d.cas.lossNext) (unit % 256 - 1) then d else oweResign 2 d
  else if code = Ev.CAS_LOST_RACE then oweResign 3 d
  else d

/-- The quarantine of Table 20.3 by unit kind. -/
def quarantine (unit : Nat) (d : Dev) : Dev :=
  let idx := unit % 256
  match unit / 256 with
  | 0x01 => quarantineEngine idx d
  | 0x02 => { d with king.units := tmod {} d.king.units idx fun u => { u with quar := true } }
  | 0x03 => quarantineLane 3 idx d
  | 0x04 => quarantineLane 4 idx d
  | 0x05 => quarantineLane 5 idx d
  | 0x06 => quarantineLane 6 idx d
  | 0x08 => { d with todo := d.todo ++ [.portTeardown idx] }
  | 0x09 => { d with todo := d.todo ++ [.cercoDown idx] }
  | 0x0A => { d with todo := d.todo ++ [.laneFailed idx] }
  | 0x10 =>
    let d := { d with pwr.regions := tmod {} d.pwr.regions (idx % 16) fun r => { r with quar := true, clamped := true } }
    -- the accelerators' lanes stand still with the jobs they hold
    if idx = 9 then
      forEach [3, 4, 5, 6] (fun k d => forEach (List.range (accLanes k)) (fun n d => modLane k n (fun l => { l with running := false }) d) d) d
    else d
  | _ => d

end Sys2Proof.Machine
end

