-- ==== Sys2Proof/Machine/KeyTab.lean ====
section
/-!
DEFINITION. Reads of the Security Policy Table (spec/18_boot_and_attestation.md, R547, R554), of the wrapped key table and of the
integrity key table (spec/09_cipher_and_keys.md, R306–R308).
-/

namespace Sys2Proof.Machine

/-! ### The Security Policy Table (R554) -/

/-- The number of a table entry in a record of SXC_PAIRED: the model's own numbering. -/
def SptEntry.index : SptEntry → Nat
  | .domain n => n
  | .peer n => 0x1000 + n
  | .officers => 0x2000
  | .imageKeys => 0x2001
  | .floors => 0x2002
  | .importKek => 0x2003
  | .policy => 0x2004
  | .debug => 0x2005
  | .binding n => 0x10000 + n

/-- Read an entry: whether its halves agree; a disagreement raises SXC_PAIRED (R554). With no table in force nothing is
entered. The halves in the record are not part of the model: a free value. -/
def sptRead (e : SptEntry) (d : Dev) : Option Spt × Dev :=
  match d.sxc.spt with
  | none => (none, d)
  | some t =>
    if t.bad.contains e then
      let (h, d) := drawNat (2 ^ 64) d
      (none, raiseC Ev.SXC_PAIRED 0 e.index h (setb Reg.SXC_STATUS_PAIRED_CHK d))
    else (some t, d)

/-- A key domain; VALID 0 when its entry does not stand (R554). -/
def sptDomain (n : Nat) (d : Dev) : SptDomain × Dev :=
  let (t, d) := sptRead (.domain n) d
  ((t.map fun t => tget {} t.domains n).getD {}, d)

/-- The domain an NSID is bound to (R547); none when the binding does not stand. -/
def sptBinding (nsid : Nat) (d : Dev) : Option Nat × Dev :=
  let (t, d) := sptRead (.binding nsid) d
  match t.map fun t => tget 0 t.bindings nsid with
  | some (n + 1) => (some n, d)
  | _ => (none, d)

/-- The import KEK, when one stands. -/
def sptImportKek (d : Dev) : Option Bytes × Dev :=
  let (t, d) := sptRead .importKek d
  (t.bind (·.importKek), d)

/-- An entry is written: its halves agree again, unless an injection armed for the class inverts one bit of the complement
(R554, R591). -/
def sptWrote (e : SptEntry) (d : Dev) : Dev :=
  let flag (on : Bool) (t : Spt) : Spt := { t with bad := t.bad.filter (· != e) ++ if on then [e] else [] }
  match d.flt.inj with
  | some i =>
    if i.target = 1 ∧ i.index = 0 then clr Reg.FLT_INJ_ARM { d with flt.inj := none, sxc.spt := d.sxc.spt.map (flag true) }
    else { d with sxc.spt := d.sxc.spt.map (flag false) }
  | none => { d with sxc.spt := d.sxc.spt.map (flag false) }

/-- Debug is unlocked for this boot (R556). -/
def debugOpen (d : Dev) : Bool := d.sxc.debugScope != 0

/-! ### The wrapped key table (Table 9.9) -/

/-- A Check for two disagreeing halves of a key's description (R307, R309). -/
def keyPaired (index : Nat) (p : Paired) (d : Dev) : Dev :=
  raiseC Ev.CIP_KPAIRED 0 index p.data (setb Reg.CIP_STATUS_KPAIRED d)

/-- What DESC describes. -/
structure KeyDesc where
  domain : Nat
  valid : Bool
  enc : Bool
  prevValid : Bool
  imported : Bool
  curGen : Nat
  prevGen : Nat
  rotating : Bool
  deriving DecidableEq, Repr

/-- DESC as a word, and a word as a DESC. -/
def KeyDesc.word (k : KeyDesc) : Nat :=
  k.domain % 4096 + 2 ^ 12 * b2n k.valid + 2 ^ 13 * b2n k.enc + 2 ^ 14 * b2n k.prevValid + 2 ^ 15 * b2n k.imported
    + 2 ^ 16 * (k.curGen % 256) + 2 ^ 24 * (k.prevGen % 256) + 2 ^ 32 * b2n k.rotating
def keyDescOf (w : Nat) : KeyDesc :=
  ⟨w % 4096, bitOf w 12, bitOf w 13, bitOf w 14, bitOf w 15, w / 2 ^ 16 % 256, w / 2 ^ 24 % 256, bitOf w 32⟩

/-- Read a domain's slot: nothing when DESC and DESC_N disagree, which raises CIP_KPAIRED (R307). -/
def readWkt (n : Nat) (d : Dev) : Option (KeyDesc × WrappedKey) × Dev :=
  let w := tget {} d.keys.wkt n
  if w.desc.ok 64 then (some (keyDescOf w.desc.val, w), d) else (none, keyPaired n w.desc d)

/-- Read an entry of the integrity key table (R307). -/
def readIkt (n : Nat) (d : Dev) : Option (KeyDesc × WrappedKey) × Dev :=
  let w := tget {} d.keys.ikt n
  if w.desc.ok 64 then (some (keyDescOf w.desc.val, w), d) else (none, keyPaired n w.desc d)

/-- Write a domain's slot with DESC and its complement; the peer's mirrored copy follows (R306). -/
def putWkt (n : Nat) (k : KeyDesc) (w : WrappedKey) (d : Dev) : Dev :=
  let (p, d) := mkPaired 64 1 k.word d
  let good : Paired := ⟨k.word, 2 ^ 64 - 1 - k.word⟩
  { d with keys.wkt := tset {} d.keys.wkt n { w with desc := p }
           keys.wktPeer := tset {} d.keys.wktPeer n { w with desc := good } }

/-- The label "QN-KEK". -/
def labelKek : Bytes := [0x51, 0x4E, 0x2D, 0x4B, 0x45, 0x4B]

/-- The KEK of a domain (Table 9.8). -/
def kekOf (n : Nat) (d : Dev) : Bytes := kdf d.nv.drk (labelKek ++ beBytes 2 n) 32

/-- The context under which integrity keys are wrapped: Table 9.8 gives none (the model's own: past the domains). -/
def iktContext (n : Nat) : Nat := 4096 + n

/-- This head's half of a wrapped key, and the two halves with this head's given. -/
def ownWk (a b : Bytes) (d : Dev) : Bytes := if ownHead d = 0 then a else b
def bothWk (own peer : Bytes) (d : Dev) : Bytes × Bytes := if ownHead d = 0 then (own, peer) else (peer, own)

/-! ### Loads (R308) -/

/-- The key a load finds, or the RESULT that refuses it: 3 NO_ENTRY, 4 REFUSED, 5 UNWRAP_FAIL, 6 PAIRED. -/
def findKey (source index gen : Nat) (d : Dev) : Except Nat Bytes × Dev :=
  match source with
  | 1 =>
    match readWkt index d with
    | (none, d) => (.error 6, d)
    | (some (k, w), d) =>
      let (dom, d) := sptDomain index d
      if !k.valid || !k.enc then (.error 3, d)
      else if !dom.valid || !bitOf dom.holders (ownDev d) then (.error 4, d)
      else
        let wrapped := if gen = k.curGen then some (ownWk w.curA w.curB d)
          else if k.prevValid && gen == k.prevGen then some (ownWk w.prevA w.prevB d) else none
        match wrapped with
        | none => (.error 4, d)
        | some c => ((kwUnwrap (kekOf index d) c).elim (.error 5) .ok, d)
  | 2 =>
    if index ≥ 256 then (.error 3, d)
    else match readIkt index d with
      | (none, d) => (.error 6, d)
      | (some (k, w), d) =>
        if !k.valid then (.error 3, d)
        else ((kwUnwrap (kekOf (iktContext index) d) (ownWk w.curA w.curB d)).elim (.error 5) .ok, d)
  | 3 =>
    match d.sxc.spt with
    | none => (.error 3, d)
    | some t =>
      match (List.range 64).find? fun p => (tget {} t.peers p).valid && (tget {} t.peers p).keyIndex == index with
      | none => (.error 3, d)
      | some p =>
        let (t, d) := sptRead (.peer p) d
        (match t with
          | none => .error 3
          | some t => .ok (tget {} t.peers p).key, d)
  | _ =>
    let k := tget [] d.keys.vault index
    (if k.isEmpty then .error 3 else .ok k, d)

/-- The identity word of a resident slot (CIP_KINFOn), and the word with the complement that the engine keeps (R309). -/
def kinfoOff (n : Nat) : Nat := (Reg.CIP_KINFO_KIND n).off
def slotPair (n : Nat) (d : Dev) : Paired := ⟨(rdReg (kinfoOff n) d).toNat, (tget {} d.keys.slots n).comp⟩

/-- The resident slots that name a kind, index and generation. -/
def slotsNaming (kind index gen : Nat) (d : Dev) : List Nat :=
  (List.range 256).filter fun n => rd (Reg.CIP_KINFO_KIND n) d == kind && rd (Reg.CIP_KINFO_INDEX n) d == index
    && rd (Reg.CIP_KINFO_GEN n) d == gen

/-- A resident key of a kind, index and generation; a slot whose halves disagree counts as empty (R308, R309). -/
def residentKey (kind index gen : Nat) (d : Dev) : Option Bytes :=
  ((slotsNaming kind index gen d).find? fun n => (slotPair n d).ok 64).map fun n => (tget {} d.keys.slots n).key

/-- Slots read for a key whose halves disagree raise CIP_KPAIRED (R309). -/
def checkSlots (kind index gen : Nat) (d : Dev) : Dev :=
  forEach ((slotsNaming kind index gen d).filter fun n => !(slotPair n d).ok 64) (fun n d => keyPaired n (slotPair n d) d) d

/-- A key for the device's own use: the resident one, or the one a load finds. -/
def useKey (source index gen : Nat) (d : Dev) : Except Nat Bytes × Dev :=
  let d := checkSlots source index (if source = 1 then gen else 0) d
  match residentKey source index (if source = 1 then gen else 0) d with
  | some k => (.ok k, d)
  | none => findKey source index gen d

/-- The integrity key of a GID's device and pool (R212, R328). -/
def ikIndex (dev pool : Nat) : Nat := dev * 32 + pool

end Sys2Proof.Machine
end

