-- ==== Sys2Proof/Machine/Meta.lean ====
section
/-!
DEFINITION. The pair's metadata: GIDs and Granule Table Entries, the namespace map with copy on write, snapshots and their
lineage, and the application of journal records (spec/06_write_pipeline.md, R184–R189, R221–R225; spec/11_flash_translation.md,
R348–R352, R362, R366, R369; spec/14_snapshots_and_replication.md, R437–R451).
-/

namespace Sys2Proof.Machine

/-! ### Granule IDs (Table 6.2) and their entries -/

/-- The GID of an all-zero square (R185). -/
def gidOnes : Nat := 2 ^ 64 - 1
def gidNil (g : Nat) : Bool := g == 0 || g == gidOnes
def gidDev (g : Nat) : Nat := g / 2 ^ 61 % 8
def gidPool (g : Nat) : Nat := g / 2 ^ 56 % 32
def gidSeq (g : Nat) : Nat := g % 2 ^ 56
def mkGid (dev pool seq : Nat) : Nat := dev * 2 ^ 61 + pool * 2 ^ 56 + seq
/-- A GID of this pair (R188). -/
def gidLocal (g : Nat) (d : Dev) : Bool := gidDev g / 2 == ownDev d / 2

/-- Mark a metadata page dirty; outside map nodes, page numbers are the model's own: kind and place (Table 11.1). -/
def touchPage (kind idx : Nat) (d : Dev) : Dev :=
  let p := kind * 2 ^ 60 + idx
  if d.ftl.dirty.contains p then d else { d with ftl.dirty := d.ftl.dirty ++ [p] }

def getGte (g : Nat) (d : Dev) : Gte := tget {} d.md.gtes g
def putGte (g : Nat) (e : Gte) (d : Dev) : Dev := touchPage 2 (g / 128) { d with md.gtes := tset {} d.md.gtes g e }

/-- The words of a GTE (Tables 6.3–6.6). -/
def gteFlags (e : Gte) : Nat := b2n e.incomp + 2 * b2n e.enc + 4 * b2n e.indexed + 8 * b2n e.lost + 16 * b2n e.moving
def gteW0 (e : Gte) : Nat := e.seg * 2 ^ 24 + e.row * 2 ^ 12 + e.fmt * 2 ^ 10 + gteFlags e
def gteW1 (e : Gte) : Nat := e.off * 2 ^ 47 + e.slen * 2 ^ 37 + e.kdom * 2 ^ 25 + e.gen * 2 ^ 17
def gteW2 (e : Gte) : Nat := e.refcnt * 2 ^ 32 + e.fptag
def gteBytes (e : Gte) : Bytes := leBytes 8 (gteW0 e) ++ leBytes 8 (gteW1 e) ++ leBytes 8 (gteW2 e) ++ leBytes 8 e.crc

def getSeg (s : Nat) (d : Dev) : Seg := tget {} d.md.segs s
/-- Change a segment's entry. That of a metadata segment changes with every page that is written; it dirties no page (DESIGN CHOICE,
log entry 133). -/
def modSeg (s : Nat) (f : Seg → Seg) (d : Dev) : Dev :=
  let d := { d with md.segs := tmod {} d.md.segs s f }
  if (getSeg s d).isMeta then d else touchPage 3 (s / 32) d
/-- Change a segment's count of live 16-byte units (Table 11.3). -/
def addLive (s n : Nat) (d : Dev) : Dev := modSeg s (fun g => { g with live := g.live + n }) d
def subLive (s n : Nat) (d : Dev) : Dev := modSeg s (fun g => { g with live := g.live - n }) d

def blkKey (member block : Nat) : Nat := member * 2 ^ 24 + block
def getBlk (member block : Nat) (d : Dev) : Blk := tget {} d.md.blocks (blkKey member block)
def modBlk (member block : Nat) (f : Blk → Blk) (d : Dev) : Dev :=
  touchPage 4 (blkKey member block / 256) { d with md.blocks := tmod {} d.md.blocks (blkKey member block) f }

/-- Put a GID on the doubt list (R227). -/
def doubt (g : Nat) (d : Dev) : Dev :=
  if d.fiu.doubt.contains g then d else { d with fiu.doubt := d.fiu.doubt ++ [g] }

/-- Every dirty hot bucket goes into the page cache, two buckets to a page (R238). -/
def flushHot (d : Dev) : Dev := forEach d.fiu.hotDirty (fun k => touchPage 5 (k / 2)) { d with fiu.hotDirty := [] }

def getPool (p : Nat) (d : Dev) : Pool := tget {} d.md.pools p
def modPool (p : Nat) (f : Pool → Pool) (d : Dev) : Dev := { d with md.pools := tmod {} d.md.pools p f }
def getNs (n : Nat) (d : Dev) : Ns := tget {} d.md.ns n
def modNs (n : Nat) (f : Ns → Ns) (d : Dev) : Dev := { d with md.ns := tmod {} d.md.ns n f }
def snapKey (nsid sseq : Nat) : Nat := nsid * 2 ^ 32 + sseq
def getSnap (nsid sseq : Nat) (d : Dev) : Snap := tget {} d.md.snaps (snapKey nsid sseq)
def modSnap (nsid sseq : Nat) (f : Snap → Snap) (d : Dev) : Dev :=
  { d with md.snaps := tmod {} d.md.snaps (snapKey nsid sseq) f }

def getSlot (n : Nat) (d : Dev) : Slot := tget {} d.stg.slots n
def modSlot (n : Nat) (f : Slot → Slot) (d : Dev) : Dev := { d with stg.slots := tmod {} d.stg.slots n f }

/-- Slots of a table in REDUCING or PACKED, by SSN. -/
def slotsInReduction (t : Tab Slot) : List Nat := (t.filter fun p => p.2.state == 4 || p.2.state == 5).map (·.2.ssn)

/-- A GID enters the retiring set with the slots it waits for (R249, R250). -/
def enterRetiring (g : Nat) (d : Dev) : Dev :=
  if d.fiu.retiring.any (·.gid == g) then d
  else
    let l := d.fiu.retiring ++ [⟨g, slotsInReduction d.stg.slots, slotsInReduction d.stg.mirror, gidDev g == ownDev d || d.cas.castled⟩]
    wr Reg.FIU_PIN_RETIRING l.length { d with fiu.retiring := l }

/-- Record a change of REFCNT in the delta log of an audit pass whose cut has been made (R252). -/
def auditDelta (g : Nat) (n : Int) (d : Dev) : Dev :=
  match d.fiu.audit with
  | some a => if a.made then { d with fiu.audit := some { a with delta := tmod 0 a.delta g (· + n) } } else d
  | none => d

/-- Show the selected entry of the loss ring (Table 13.8). -/
def showLoss (d : Dev) : Dev :=
  let p := rd Reg.ERS_LOSS_CUR_POOL d
  let ring := (getPool p d).loss
  let e := tget {} ring (rd Reg.ERS_LOSS_CUR_INDEX d)
  let d := wr Reg.ERS_LOSS_CUR_COUNT (ring.filter fun x => x.2.state == 1).length d
  wr (Reg.ERS_LOSS_DATA_BYTES 0) e.gid (wr (Reg.ERS_LOSS_DATA_BYTES 1) e.loc (wr (Reg.ERS_LOSS_DATA_BYTES 2) e.tempo
    (wr (Reg.ERS_LOSS_DATA_BYTES 3) (e.cause + 256 * e.state + 65536 * e.missing) d)))

/-- A place for a new entry: an empty one, else the oldest CLEARED one (R436). -/
def lossPlace (ring : Tab LossEntry) : Option Nat :=
  match (List.range (min 1024 (ring.length + 1))).find? fun i => (tget {} ring i).state == 0 with
  | some i => some i
  | none => ((ring.filter fun e => e.2.state == 2).foldl (fun (b : Option (Nat × LossEntry)) c =>
      match b with
      | none => some c
      | some q => if c.2.tempo < q.2.tempo then some c else b) none).map (·.1)

/-- An entry enters its pool's loss ring; a full one counts it (R435, R436). -/
def addLoss (e : LossEntry) (d : Dev) : Dev :=
  match lossPlace (getPool (gidPool e.gid) d).loss with
  | some i => showLoss (modPool (gidPool e.gid) (fun p => { p with loss := tset {} p.loss i e }) d)
  | none => bump Reg.ERS_LOSS_OVERFLOW d

/-- The loss-ring entry of a GID that dies becomes CLEARED (R436). -/
def clearLoss (g : Nat) (d : Dev) : Dev :=
  modPool (gidPool g) (fun p => { p with loss := p.loss.map fun e =>
    if e.2.gid = g ∧ e.2.state = 1 then (e.1, { e.2 with state := 2 }) else e }) d

/-- One reference of a pair-local GID goes (R223): at 0 the GTE is dead, its other words as they were, and its frame invalid space
(R189). -/
def dropRef (g : Nat) (d : Dev) : Dev :=
  let e := getGte g d
  if e.refcnt = 0 then d
  else
    let d := auditDelta g (-1) d
    let d := putGte g { e with refcnt := e.refcnt - 1 } d
    if e.refcnt = 1 then clearLoss g (subLive e.seg e.slen d) else d

/-- An INDEXED GTE that has been left with REFCNT 1 enters the retiring set (R249). -/
def retireLast (g : Nat) (d : Dev) : Dev :=
  let e := getGte g d
  if e.refcnt = 1 && e.indexed then enterRetiring g d else d

/-- One reference of a pair-local GID is taken; a dead GTE's count is never raised (R189). -/
def takeRef (g : Nat) (d : Dev) : Dev :=
  let e := getGte g d
  if e.refcnt = 0 then d else auditDelta g 1 (putGte g { e with refcnt := e.refcnt + 1 } d)

/-- Release a GID: a pair-local one at once; a foreign one by an atomic add that the owning head issues once (R223). -/
def releaseGid (own : Bool) (tsn g : Nat) (d : Dev) : Dev :=
  if gidNil g then d
  else if gidLocal g d then dropRef g d
  else if own then send (.foreignRelease g) { d with stg.releases := d.stg.releases ++ [⟨g, tsn⟩] }
  else d

/-! ### The namespace map (R184, R185, R437–R444) -/

def refNode (w : Nat) : Nat := w / 4096
def refShared (w : Nat) : Bool := bitOf w 1
def refValid (w : Nat) : Bool := bitOf w 0
def mkRef (node : Nat) (shared : Bool) : Nat := node * 4096 + 2 * b2n shared + 1
def shareRef (w : Nat) : Nat := if refValid w then mkRef (refNode w) true else w

def getNode (n : Nat) (d : Dev) : Node := tget {} d.md.nodes n
def putNode (n : Nat) (x : Node) (d : Dev) : Dev := touchPage 1 n { d with md.nodes := tset {} d.md.nodes n x }

/-- A new node number of a head (R437); the peer's counter advances with its records (R447). -/
def newNode (h : Nat) (d : Dev) : Nat × Dev :=
  if h = 0 then (d.md.nodeA + 1, { d with md.nodeA := d.md.nodeA + 1 })
  else (2 ^ 51 + d.md.nodeB + 1, { d with md.nodeB := d.md.nodeB + 1 })

/-- A node is older than a root with these watermarks (R438). -/
def olderNode (n wmA wmB : Nat) : Bool := if n < 2 ^ 51 then n ≤ wmA else n - 2 ^ 51 ≤ wmB

/-- The depth of a new map (R184). -/
def mapDepth (size : Nat) : Nat :=
  if size ≤ 512 then 1 else if size ≤ 512 ^ 2 then 2 else if size ≤ 512 ^ 3 then 3 else if size ≤ 512 ^ 4 then 4 else 5

/-- The leaf of a square below a reference, nothing when no node holds it. -/
def leafOf (d : Dev) : Nat → Nat → Nat → Option Nat
  | 0, _, _ => none
  | 1, w, _ => if refValid w then some (refNode w) else none
  | k + 2, w, sq =>
    if refValid w then leafOf d (k + 1) (tget 0 (getNode (refNode w) d).ent (sq / 512 ^ (k + 1) % 512)) sq else none

/-- A square's map entry and tag record below a root (R185). -/
def mapGet (root depth sq : Nat) (d : Dev) : Nat :=
  match leafOf d depth root sq with
  | some n => tget 0 (getNode n d).ent (sq % 512)
  | none => 0
def tagsGet (root depth sq : Nat) (d : Dev) : Bytes :=
  match leafOf d depth root sq with
  | some n => tget [] (getNode n d).tags (sq % 512)
  | none => []

/-- The leaves below a reference: first square, node. -/
def leafList (d : Dev) : Nat → Nat → Nat → List (Nat × Nat)
  | 0, _, _ => []
  | 1, w, b => if refValid w then [(512 * b, refNode w)] else []
  | k + 2, w, b =>
    if refValid w then (getNode (refNode w) d).ent.flatMap fun p => leafList d (k + 1) p.2 (512 * b + p.1) else []

/-- Every listed square below a root, with its map entry. -/
def mapAll (root depth : Nat) (d : Dev) : List (Nat × Nat) :=
  (leafList d depth root 0).flatMap fun l => (getNode l.2 d).ent.map fun p => (l.1 + p.1, p.2)

/-- The squares of live roots that map a GID: NSID and square. -/
def squaresOfGid (g : Nat) (d : Dev) : List (Nat × Nat) :=
  (d.md.ns.filter fun n => n.2.exists_).flatMap fun n =>
    ((mapAll n.2.root n.2.depth d).filter fun p => p.2 == g).map fun p => (n.1, p.1)

/-- What a change of the map has done so far: leaves copied by this transaction, GIDs that a leaf copy gained (R444, R445). -/
structure Copied where
  leaves : List Nat := []
  gains : List Nat := []
  deriving DecidableEq, Repr

/-- Set a square's entry below a reference, copying shared nodes from the top down (R444): `h` the head whose transaction it is,
`repl` the squares that the transaction replaces. Answers the new reference. -/
def mapSet (h : Nat) (repl : List Nat) (sq g : Nat) (tags : Bytes) :
    Nat → Nat → Copied → Dev → Nat × Copied × Dev
  | 0, w, c, d => (w, c, d)
  | k + 1, w, c, d =>
    let n := refNode w
    let x := getNode n d
    let (n', x, c, d) :=
      if !refValid w then
        let (m, d) := newNode h d
        (m, { leaf := k == 0 }, if k = 0 then { c with leaves := m :: c.leaves } else c, d)
      else if refShared w then
        let (m, d) := newNode h d
        if k = 0 then
          let base := sq / 512 * 512
          let gains := (x.ent.filter fun p => !gidNil p.2 && !repl.contains (base + p.1)).map (·.2)
          (m, x, { leaves := m :: c.leaves, gains := c.gains ++ gains }, d)
        else (m, { x with ent := x.ent.map fun p => (p.1, shareRef p.2) }, c, d)
      else (n, x, c, d)
    if k = 0 then
      let x := { x with ent := tset 0 x.ent (sq % 512) g
                        tags := if tags.isEmpty then x.tags else tset [] x.tags (sq % 512) tags }
      (mkRef n' false, c, putNode n' x d)
    else
      let i := sq / 512 ^ k % 512
      let (w', c, d) := mapSet h repl sq g tags k (tget 0 x.ent i) c d
      (mkRef n' false, c, putNode n' { x with ent := tset 0 x.ent i w' } d)

/-! ### Roots and lineage (R437–R451) -/

/-- The watermarks of a root's predecessor; nothing when it has none (R439). -/
def predMarks (p : Nat × Nat) (d : Dev) : Option (Nat × Nat) :=
  if p = (0, 0) then none else let s := getSnap p.1 p.2 d; if s.exists_ then some (s.wmA, s.wmB) else none

/-- The successors of a root: snapshots and deleted live roots by NSID and SSEQ, then live roots, marked. -/
def successors (p : Nat × Nat) (d : Dev) : List (Nat × Nat × Bool) :=
  ((d.md.snaps.filter fun q => q.2.exists_ && q.2.pred == p).map fun q => (q.2.nsid, q.2.sseq, false))
  ++ ((d.md.ns.filter fun q => q.2.exists_ && q.2.pred == p).map fun q => (q.1, 0, true))

/-- The snapshots of a namespace. -/
def snapsOf (nsid : Nat) (d : Dev) : List Snap := (d.md.snaps.filter fun q => q.2.exists_ && q.2.nsid == nsid).map (·.2)

/-- NSUCC of a snapshot changes. -/
def addSucc (p : Nat × Nat) (d : Dev) : Dev := if p = (0, 0) then d else modSnap p.1 p.2 (fun s => { s with nsucc := s.nsucc + 1 }) d
def subSucc (p : Nat × Nat) (d : Dev) : Dev := if p = (0, 0) then d else modSnap p.1 p.2 (fun s => { s with nsucc := s.nsucc - 1 }) d

/-- Apply a CUT entry: a snapshot of a namespace (R442), or the live root of a clone (SSEQ 0, R443). -/
def applyCut (s : Snap) (d : Dev) : Dev :=
  if s.sseq = 0 then
    let o := getSnap s.pred.1 s.pred.2 d
    addSucc s.pred (modNs s.nsid (fun n => { n with root := shareRef o.root, depth := o.depth, pred := s.pred, unread := o.unread }) d)
  else
    let n := getNs s.nsid d
    let t : Snap := { s with
      exists_ := true, root := shareRef n.root, wmA := d.md.nodeA, wmB := d.md.nodeB, pred := n.pred, depth := n.depth
      nsucc := 1, unread := n.unread }
    let d := { d with md.snaps := tset {} d.md.snaps (snapKey s.nsid s.sseq) t }
    modNs s.nsid (fun n => { n with root := shareRef n.root, pred := (s.nsid, s.sseq) }) d

/-- Apply GONE for a root: it leaves the lineage (R449). -/
def applyGone (nsid sseq : Nat) (d : Dev) : Dev :=
  let s := getSnap nsid sseq d
  let d := { d with md.snaps := tset {} d.md.snaps (snapKey nsid sseq) {} }
  match successors (nsid, sseq) d with
  | (a, _, true) :: _ => modNs a (fun n => { n with pred := s.pred }) d
  | (a, b, false) :: _ => modSnap a b (fun t => { t with pred := s.pred }) d
  | [] => subSucc s.pred d

/-- The namespace whose live root succeeds the root that a walk's transaction names in PROGRESS (R449, Table 14.2). -/
def walkHeir (r : JRecord) (d : Dev) : Nat :=
  match r.body with
  | .squares es => match es.find? (·.action == 9) with
    | some e => (((successors (r.nsid, e.page) d).find? (·.2.2)).map (·.1)).getD r.nsid
    | none => r.nsid
  | _ => r.nsid

/-- Apply UNSHARE: SHARED clears on a reference of a live tree (R449); a reference with no parent is the live root's. -/
def applyUnshare (nsid page sub : Nat) (d : Dev) : Dev :=
  let clear (w : Nat) : Nat := if refValid w then mkRef (refNode w) false else w
  if page = 0 then modNs nsid (fun n => { n with root := clear n.root }) d
  else
    let x := getNode page d
    putNode page { x with ent := tset 0 x.ent sub (clear (tget 0 x.ent sub)) } d

/-- A namespace's unreadable-block mask of a square is replaced (R202). -/
def putMask (nsid sq mask : Nat) (d : Dev) : Dev := modNs nsid (fun n => { n with unread := tset 0 n.unread sq mask }) d

/-! ### Applying journal records (R221, R222, R362, R366, R369) -/

/-- Release a staging slot: its reservation returns, it is FREE, the chain of its square closes over it (R192, R221). -/
def freeSlot (n : Nat) (d : Dev) : Dev :=
  let s := getSlot n d
  let pool := (getNs s.nsid d).pool
  let d := if s.reserved then { d with stg.capacity := tset 0 d.stg.capacity pool (tget 0 d.stg.capacity pool - 8240) } else d
  { d with stg.slots := (tset {} d.stg.slots n {}).map fun (p : Nat × Slot) =>
      (p.1, if p.2.older = some n then { p.2 with older := s.older } else p.2) }

/-- The slot of an entry: this head's own, or the peer's mirrored one while that still holds the entry's square. -/
def entrySlot (own : Bool) (slot : Option Nat) (nsid sq tsn : Nat) (d : Dev) : Dev :=
  match slot with
  | none => d
  | some n =>
    let m := tget {} d.stg.mirror n
    if own then freeSlot n (modSlot n (fun s => { s with state := 6, tsn := tsn }) d)
    else if m.state < 5 || m.nsid != nsid || m.square != sq then d
    else { d with stg.mirror := (tset {} d.stg.mirror n {}).map fun (p : Nat × Slot) =>
      (p.1, if p.2.older = some n then { p.2 with older := none } else p.2) }

/-- The streaming relationship that a namespace is the source of (R460). -/
def streamRel (nsid : Nat) (d : Dev) : Option Nat :=
  if !replOn d then none else (d.md.rels.find? fun r => r.2.nsid == nsid && !r.2.target && r.2.streaming && (r.2.state == 1 || r.2.state == 2)).map (·.1)

/-- Release the GID that a square's entry replaces (R221); in a SOURCE namespace that streams it waits in the stream hold (R460). -/
def releaseOld (own : Bool) (r : JRecord) (g : Nat) (d : Dev) : Dev :=
  match streamRel r.nsid d with
  | some k =>
    if !own || gidNil g then d
    else { d with md.rels := tmod {} d.md.rels k fun x => { x with hold := x.hold ++ [(g, r.tsn)] } }
  | none => releaseGid own r.tsn g d

/-- Apply REKEY (R312): while the leaf's entry still is the old GID, it becomes the new one in place, whose count rises by 1, and the
old GID is released. -/
def applyRekey (own : Bool) (r : JRecord) (e : SqEntry) (d : Dev) : Dev :=
  let x := getNode e.page d
  if tget 0 x.ent (e.square % 512) ≠ e.oldGid then d
  else
    let d := match e.gte with
      | some g => addLive g.seg g.slen (auditDelta e.newGid g.refcnt (putGte e.newGid g d))
      | none => takeRef e.newGid d
    releaseOld own r e.oldGid (putNode e.page { x with ent := tset 0 x.ent (e.square % 512) e.newGid } d)

/-- Apply one entry of a SQUARES record (Tables 6.12 and 14.2). -/
def applySquare (own : Bool) (r : JRecord) (repl : List Nat) (e : SqEntry) (acc : Copied × Dev) : Copied × Dev :=
  let (c, d) := acc
  if e.action ≤ 4 then
    let n := getNs r.nsid d
    let d := match e.action, e.gte with
      | 0, some g => addLive g.seg g.slen (auditDelta e.newGid g.refcnt (putGte e.newGid g d))
      | 1, _ => takeRef e.newGid d
      | _, _ => d
    let (w, c', d) := mapSet r.head repl e.square e.newGid e.tags n.depth n.root c d
    let d := modNs r.nsid (fun n => { n with root := w }) d
    let leaf := (leafOf d n.depth w e.square).getD 0
    let d := if c'.leaves.contains leaf then d else releaseOld own r e.oldGid d
    (c', entrySlot own e.slot r.nsid e.square r.tsn (putMask r.nsid e.square e.mask d))
  else match e.action with
    | 5 => (c, match e.snap with
      | some s => applyCut s d
      | none => d)
    | 6 => (c, releaseGid own r.tsn e.oldGid d)
    | 7 => (c, { d with md.nodes := tset {} d.md.nodes e.page {} })
    | 8 => (c, applyUnshare (walkHeir r d) e.page e.sub d)
    | 9 => (c, modSnap r.nsid e.page (fun s => { s with walked := e.square + 1 }) d)
    | 10 => (c, applyGone r.nsid e.page d)
    | 11 => (c, applyRekey own r e d)
    | _ => (c, entrySlot own e.slot r.nsid e.square r.tsn d)

/-- A leaf created or copied by a transaction before its first entry needs no release of what the entry replaces only when it is
a copy: a new leaf held nothing. The references that leaf copies gained are taken for pair-local GIDs (R445). -/
def applySquares (own : Bool) (r : JRecord) (es : List SqEntry) (d : Dev) : Dev :=
  let repl := (es.filter fun e => e.action ≤ 4).map (·.square)
  let (c, d) := es.foldl (fun acc e => applySquare own r repl e acc) ({}, d)
  c.gains.foldl (fun d g => if gidLocal g d then takeRef g d else d) d

/-- Move a granule under GC_MOVE when its GTE is live and still names OLD (R362). -/
def applyMove (m : Nat × (Nat × Nat × Nat) × (Nat × Nat × Nat)) (d : Dev) : Dev :=
  let (g, (s, r, o), (s', r', o')) := m
  let e := getGte g d
  if e.refcnt ≠ 0 ∧ e.seg = s ∧ e.row = r ∧ e.off = o then
    let d := putGte g { e with seg := s', row := r', off := o', moving := false } d
    bump Reg.MDL_FT_CNT_MOVED (addLive s' e.slen (subLive s e.slen d))
  else d

/-- Drop an index pin (R250): INDEXED clears, REFCNT falls by 1. -/
def applyPinDrop (g : Nat) (d : Dev) : Dev :=
  let e := getGte g d
  let l := d.fiu.retiring.filter (·.gid != g)
  let d := wr Reg.FIU_PIN_RETIRING l.length { d with fiu.retiring := l }
  if e.refcnt = 0 || !e.indexed then d else dropRef g (putGte g { e with indexed := false } d)

/-- Apply a page's new location: a new version, or a move while the page table still names the old one (R349, R366). -/
def applyPageMap (m : Nat × Nat × Nat) (d : Dev) : Dev :=
  let (page, new, old) := m
  let cur := tget 0 d.md.pages page
  if old = 0 || cur = old then
    let d := if cur = 0 then d else subLive (cur / 2 ^ 24) 260 d
    addLive (new / 2 ^ 24) 260 { d with md.pages := tset 0 d.md.pages page new }
  else d

/-- A segment closes (R352, R371): with no row programmed it is DRAINED at once. -/
def applyClose (seg rows : Nat) (short : Bool) (tempo : Nat) (d : Dev) : Dev :=
  modSeg seg (fun g =>
    let pes := g.cols.map fun c => (getBlk c.member c.block d).pe
    let n := max 1 pes.length
    let wf := (g.cols.map fun c =>
      let lim := (tget {} d.md.members c.member).wlim
      if lim = 0 then 0 else (getBlk c.member c.block d).pe * 65536 / lim).sum / n
    { g with state := if rows = 0 then 4 else 2, rows := rows, short := short, closeTempo := tempo, peMean := pes.sum / n,
             wf := min 65536 wf }) d

/-- Blocks of a segment take a state. -/
def segBlocks (g : Seg) (f : Blk → Blk) (d : Dev) : Dev := g.cols.foldl (fun d c => modBlk c.member c.block f d) d

/-- Reread a page that a PAGE_MAP record names: a granule is LOST, with its entry in the loss ring; a rebuilt segment has its new columns,
whose blocks are IN_USE (R429, R435, R436). -/
def applyNews (x : PageNews) (d : Dev) : Dev :=
  match x with
  | .lost e =>
    let g := getGte e.gid d
    if g.refcnt = 0 || g.lost then d
    else
      let d := putGte e.gid { g with lost := true } d
      if (getPool (gidPool e.gid) d).loss.any (fun y => y.2.gid == e.gid && y.2.state == 1) then d else addLoss e d
  | .columns s cols =>
    let g := getSeg s d
    if g.state = 0 ∨ g.state = 4 then d
    else segBlocks { g with cols := cols.filter fun c => !g.cols.contains c } (fun b => { b with state := 1, seg := s })
      (modSeg s (fun g => { g with cols := cols }) d)

/-- The GIDs whose counts a record lowers. -/
def lowered (r : JRecord) : List Nat :=
  match r.body with
  | .squares es => es.map (·.oldGid)
  | .refFix l => l.map (·.1)
  | _ => []

/-- Apply one record of either head (R221, R369). -/
def applyRecord (r : JRecord) (d : Dev) : Dev :=
  let own := r.head == ownHead d
  let d := match r.body with
    | .squares es =>
      let d := applySquares own r es d
      if d.cas.hasPeer then { d with cas.hist := d.cas.hist ++ [r] } else d
    | .releaseDone gs => if own then { d with stg.releases := gs.foldl (fun l g => l.eraseP fun x => x.gid == g) d.stg.releases } else d
    | .gidMark gs => gs.foldl (fun d g => modPool (gidPool g) (fun p =>
        if own then { p with seqMark := max p.seqMark (gidSeq g) } else { p with peerMark := max p.peerMark (gidSeq g) }) d) d
    | .gcMove ms =>
      let d := ms.foldl (fun d m => applyMove m d) d
      if d.cas.hasPeer then { d with cas.hist := d.cas.hist ++ [r] } else d
    | .pinDrop gs => gs.foldl (fun d g => applyPinDrop g d) d
    | .segOpen s e =>
      if (getSeg s d).state ≠ 0 then d else segBlocks e (fun b => { b with state := 1, seg := s }) (modSeg s (fun _ => e) d)
    | .segClose s rows short => applyClose s rows short r.tempo d
    | .segDrain s => modSeg s (fun g => { g with state := 4 }) d
    | .eraseDone s =>
      let d := if own then d else segBlocks (getSeg s d) (fun b => { b with state := if b.state = 1 then 0 else b.state, seg := 0, pe := b.pe + 1 }) d
      modSeg s (fun _ => {}) d
    | .blockRetire m b cause => modBlk m b (fun x => { x with state := if cause = 5 then 3 else 2 }) d
    | .checkpoint _ covered => { d with
        stg.journal := if own then d.stg.journal.filter (fun x => x.tsn > covered) else d.stg.journal
        stg.mirrorJ := if own then d.stg.mirrorJ else d.stg.mirrorJ.filter (fun x => x.tsn > covered) }
    | .pageMap ms => r.news.foldl (fun d x => applyNews x d) (ms.foldl (fun d m => applyPageMap m d) d)
    | .refFix l => l.foldl (fun (d : Dev) (x : Nat × Int) =>
        let e := getGte x.1 d
        if e.refcnt = 0 then d
        else
          let n := (((e.refcnt : Nat) : Int) + x.2).toNat
          let d := putGte x.1 { e with refcnt := n } d
          if n = 0 then clearLoss x.1 (subLive e.seg e.slen d) else d) d
  let d := (lowered r).foldl (fun d g => if gidLocal g d then retireLast g d else d) d
  if own then { d with md.tsnOwn := max d.md.tsnOwn r.tsn } else { d with md.tsnPeer := max d.md.tsnPeer r.tsn }

/-- Apply the peer's records that this head has acknowledged, in TSN order, stopping at one whose CRC-64 fails (R222, R225). -/
def applyPeerRecords : Nat → Dev → Dev
  | 0, d => d
  | n + 1, d =>
    match d.stg.mirrorJ.filter fun r => r.tsn > d.md.tsnPeer with
    | [] => d
    | r :: rs =>
      let r := rs.foldl (fun a b => if b.tsn < a.tsn then b else a) r
      if r.good then applyPeerRecords n (applyRecord r d) else d

/-- Catch up with the peer's acknowledged records. -/
def catchUp (d : Dev) : Dev := applyPeerRecords d.stg.mirrorJ.length d

end Sys2Proof.Machine
end

