-- ==== Sys2Proof/Machine/Stage.lean ====
section
/-!
DEFINITION. Staging slots, command records, completions and the row journal: what the write pipeline, the front end and the
pair logic share (spec/06_write_pipeline.md, R190–R197, R221, R225; spec/05_nvme_front_end.md, R158, R161, R166, R168, R181;
spec/16_castling_and_cascade.md, R500–R502, R506).
-/

namespace Sys2Proof.Machine

/-! ### Pauses (R158, R178, R181, R193) -/

def getPort (p : Nat) (d : Dev) : HostPort := tget {} d.front.ports p
def modPort (p : Nat) (f : HostPort → HostPort) (d : Dev) : Dev := { d with front.ports := tmod {} d.front.ports p f }

/-- The priorities a port pauses, whatever the cause. -/
def pausedPrios (p : Nat) (d : Dev) : Nat := (getPort p d).pauses.foldl (fun m c => m ||| c.2) 0

/-- A cause of pause takes hold of priorities of a port, or of none; a priority is released only when no cause holds it
(R181). -/
def setPause (p cause mask : Nat) (d : Dev) : Dev :=
  let before := pausedPrios p d
  let d := modPort p (fun x => { x with pauses := tset 0 x.pauses cause mask }) d
  let after := pausedPrios p d
  let d := wr (Reg.ETH_LINK_PAUSED p) (if after = 0 then 0 else 1) d
  let fresh := after - (after &&& before)
  let gone := before - (before &&& after)
  let d := if fresh = 0 then d else send (.pause p fresh (rd Reg.ETH_PFC_QUANTA d)) d
  if gone = 0 then d else send (.pause p gone 0) d

/-- The lanes of host port `p` under its group's mode: 0 when the port does not exist (Table 5.1). -/
def portLanes (p : Nat) (d : Dev) : Nat :=
  match rd (Reg.ETH_PORTCFG_GROUP (p / 4)) d with
  | 1 => if p % 4 = 0 then 4 else 0
  | 2 => if p % 2 = 0 then 2 else 0
  | 3 => 1
  | _ => 0

/-- The ports that exist (R140). -/
def hostPorts (d : Dev) : List Nat := those 32 fun p => portLanes p d != 0

/-- A cause of pause on every port. -/
def pauseAll (cause mask : Nat) (d : Dev) : Dev := forEach (hostPorts d) (fun p d => setPause p cause mask d) d

/-! ### The context-miss buffers (R26, R158) -/

/-- A port's share of the context-miss partition in 64-byte slots (R26). -/
def missSlots (p : Nat) (d : Dev) : Nat :=
  let lanes := ((List.range 32).map fun q => portLanes q d).sum
  if lanes = 0 then 0 else (d.fab.banks[1]?).getD 0 * 0x400000 * portLanes p d / lanes / 64

/-- The occupancy of a port's miss buffer in 64-byte units (R158). -/
def missOcc (p : Nat) (d : Dev) : Nat := ((getPort p d).miss.map (·.units)).sum

/-- Bring NVF_MISSn to the occupancy. -/
def showMiss (p : Nat) (d : Dev) : Dev :=
  let o := missOcc p d
  wr (Reg.NVF_MISS_OCC p) o (wr (Reg.NVF_MISS_HIGH p) (max o (rd (Reg.NVF_MISS_HIGH p) d)) d)

/-- A percentage of a port's miss-buffer share is passed. -/
def missAbove (p pct : Nat) (d : Dev) : Bool := 100 * missOcc p d > pct * missSlots p d

/-- Release the pauses of the miss buffer when the occupancy is below XON_PCT (R158). -/
def missXon (p : Nat) (d : Dev) : Dev :=
  if 100 * missOcc p d < rd Reg.ETH_PFC_XON_PCT d * missSlots p d then setPause p 0 0 d else d

/-! ### The peer and what may proceed without it (R34, R195, R506) -/

def peerLost (d : Dev) : Bool := d.cas.declared.isSome

/-- The adopted members of a pool, by lane (R407). -/
def poolMembers (p : Nat) (d : Dev) : List Nat := those 64 fun m => let x := tget {} d.md.members m; x.adopted && x.pool == p

/-- This head holds WON on more than half of a pool's members (R195, R514). -/
def poolWon (p : Nat) (d : Dev) : Bool :=
  let ms := poolMembers p d
  ms.length < 2 * (ms.filter fun m => (tget {} d.cas.claims m).st == .won).length

/-- STAGED is durable, and a record in the local journal is committed, without the peer (R195, R221). -/
def aloneFor (pool : Nat) (d : Dev) : Bool :=
  !d.cas.hasPeer || (peerLost d && (d.cas.won || d.cas.castled || (d.cas.noMajority && poolWon pool d)))
def alone (d : Dev) : Bool := !d.cas.hasPeer || (peerLost d && (d.cas.won || d.cas.castled))

/-- The owner of an ANA group, 1–128 (R34, R500). -/
def groupOwner (g : Nat) (d : Dev) : Nat :=
  if !d.cas.hasPeer then ownHead d
  else if g ≤ 64 then b2n (bitOf (rd Reg.CAS_ANA_OWN0_OWN d) (g - 1)) else b2n (bitOf (rd Reg.CAS_ANA_OWN1_OWN d) (g - 65))
def ownsGroup (g : Nat) (d : Dev) : Bool := groupOwner g d == ownHead d
def ownsNs (nsid : Nat) (d : Dev) : Bool := ownsGroup (getNs nsid d).group d

/-- A member of a pool that holds the namespaces of a group is LOST (R660). -/
def groupHasLost (g : Nat) (d : Dev) : Bool :=
  let pools := ((d.md.ns.filter fun n => n.2.exists_ && n.2.group == g).map fun n => n.2.pool)
  pools.any fun p => (poolMembers p d).any fun m => (tget {} d.cas.claims m).st == .lost

/-- The head starts no host command at all (R506, R511, R566, R613): outputs are held, time trouble, the pause of an
activation, or the peer is lost and the claim not decided. -/
def hostHeld (d : Dev) : Bool :=
  d.cas.outputsHeld || rdb Reg.PWR_STATUS_TT d || (d.fwu.act.any fun a => a.phase ≥ 1)
    || (peerLost d && !d.cas.castled && !d.cas.noMajority)

/-- Under CAS_NO_MAJORITY a group of this head's own is not served while a member of its pools is LOST (R660). -/
def groupHeld (g : Nat) (d : Dev) : Bool :=
  peerLost d && !d.cas.won && !d.cas.castled && d.cas.noMajority && ownsGroup g d && groupHasLost g d

/-! ### Command records (Table 16.1, R501, R502) -/

def getCmd (n : Nat) (d : Dev) : CmdRecord := tget {} d.cas.cmds n
def modCmd (n : Nat) (f : CmdRecord → CmdRecord) (d : Dev) : Dev := { d with cas.cmds := tmod {} d.cas.cmds n f }
def getFc (n : Nat) (d : Dev) : FrontCmd := tget {} d.front.cmds n
def modFc (n : Nat) (f : FrontCmd → FrontCmd) (d : Dev) : Dev := { d with front.cmds := tmod {} d.front.cmds n f }

/-- A free record, when one of the 1,048,576 is. -/
def freeRecord (d : Dev) : Option Nat :=
  if d.cas.cmds.length ≥ 1048576 then none
  else (List.range (d.cas.cmds.length + 1)).find? fun n => (getCmd n d).state == 0

/-- Opcode and CLASS of a command (Table 16.1; the opcodes are PRESUMED from NVMe Base 2.0). -/
def opOpc : NvmeOp → Nat
  | .identify => 0x06 | .getLogPage => 0x02 | .setFeatures => 0x09 | .getFeatures => 0x0A | .asyncEvent => 0x0C
  | .keepAlive => 0x18 | .abort => 0x08 | .nsManage => 0x0D | .nsAttach => 0x15 | .fwDownload => 0x11 | .fwCommit _ => 0x10
  | .propertyGet => 0x7F | .propertySet => 0x7F | .disconnect => 0x7F
  | .read => 0x02 | .write => 0x01 | .compare => 0x05 | .verify => 0x0C | .writeZeroes => 0x08 | .flush => 0x00 | .dsm => 0x09
  | .resvRegister => 0x0D | .resvReport => 0x0E | .resvAcquire => 0x11 | .resvRelease => 0x15
def opCls : NvmeOp → Nat
  | .read | .compare | .verify | .identify | .getLogPage | .getFeatures | .keepAlive | .abort | .asyncEvent | .propertyGet => 0
  | .write | .writeZeroes | .dsm => 1
  | _ => 2

/-- Accept a command (R501): its record is written and mirrored; it counts in the command ledger (R85). -/
def acceptCmd (n : Nat) (op : NvmeOp) (c : HostCmd) (nsq square : Nat) (d : Dev) : Dev :=
  let r : CmdRecord := {
    state := 1, cls := opCls op, opc := opOpc op, ctx := c.ctx, cid := c.cid, nsq := nsq, nsid := c.nsid
    square := square, accTempo := tempoNow d, acked := alone d }
  let d := { d with cas.cmds := tset {} d.cas.cmds n r, front.cmds := tset {} d.front.cmds n { op := op, cmd := c }
                    pwr.pfWatch := d.pwr.pfWatch || opCls op == 1 }
  send (.mirrorCmd n) (bump Reg.NVF_CMD_ACC_ACCEPTED (bump Reg.NVF_CMD_OUT_OUTSTANDING d))

/-- A command reaches its terminal state, 0 COMPLETED, 1 UNDELIVERED, 2 TERMINATED: TERMINAL, then FREE, both mirrored (R166,
R501). -/
def endCmd (n kind : Nat) (d : Dev) : Dev :=
  if (getCmd n d).state ≠ 1 then d
  else
    let f := getFc n d
    let pool := (getNs f.cmd.nsid d).pool
    let d := { d with cas.cmds := tset {} d.cas.cmds n {}, front.cmds := tset {} d.front.cmds n {}
                      front.waiting := d.front.waiting.filter (· != n)
                      stg.capacity := if f.reserved = 0 then d.stg.capacity
                        else tset 0 d.stg.capacity pool (tget 0 d.stg.capacity pool - f.reserved) }
    let d := send (.terminal n kind) (send (.mirrorCmd n) (send (.mirrorCmd n) d))
    bump Reg.NVF_CMD_TERM_TERMINAL (wr Reg.NVF_CMD_OUT_OUTSTANDING (rd Reg.NVF_CMD_OUT_OUTSTANDING d - 1) d)

/-- An output to the host of a command: nothing leaves while outputs are held (R178, R511); a command that the peer has carried here is
answered over Cerco (R176). -/
def hostOut (c : HostCmd) (own : Out) (a : PeerAnswer) (d : Dev) : Dev :=
  if d.cas.outputsHeld then d else send (if c.viaPeer then .answer c.ctx c.cid a else own) d

/-- Data for the host of a command, at an offset of its buffer. -/
def sendData (c : HostCmd) (off : Nat) (b : Bytes) (d : Dev) : Dev := hostOut c (.hostData c.ctx c.cid off b) (.data off b) d

/-- Post a completion once the peer has acknowledged the record and while outputs are not held (R166, R501, R511). -/
def postCompletion (n : Nat) (d : Dev) : Dev :=
  let r := getCmd n d
  let f := getFc n d
  match f.ready with
  | some (st, dnr) =>
    if r.acked && !d.cas.outputsHeld && !f.posted then
      if f.torn then endCmd n 1 d
      else
        let dw0 := if f.op = .abort then 1 else f.dw0
        hostOut { f.cmd with ctx := r.ctx, cid := r.cid } (.completion r.ctx r.cid st dnr dw0) (.done st dnr dw0)
          (modFc n (fun f => { f with posted := true }) d)
    else d
  | none => d

/-- A command is done with a status (SCT × 256 + SC). -/
def complete (n st : Nat) (dnr : Bool) (d : Dev) : Dev :=
  if (getFc n d).ready.isSome then d else postCompletion n (modFc n (fun f => { f with ready := some (st, dnr) }) d)

/-- A command is done with a status whose Do Not Retry bit the spec does not state. -/
def completeOpen (n st : Nat) (d : Dev) : Dev :=
  if st = 0 then complete n 0 false d else let (b, d) := drawNat 2 d; complete n st (b = 1) d

/-! ### Slots (R190–R196) -/

/-- The lowest program rate of the three flush groups, in MB/s; a member that the peer's groups also use is the environment's
(R376). -/
def groupRate (d : Dev) : Nat :=
  match d.ftl.groups.map fun g => (g.map fun m => (tget {} d.md.members m).progRate).sum with
  | [] => 0
  | r :: rs => rs.foldl min r

/-- The flush capacity in MiB, and the slots it leaves beside 6.5 GiB of metadata and 1 GiB of journal (R376). -/
def flushCapMiB (d : Dev) : Nat := min 24576 (405 * groupRate d * 1000000 / 1000 / 1048576)
def flushSlots (d : Dev) : Nat := (flushCapMiB d - 7680) * 1048576 / 8384

/-- How many slots this head may use (R190, R376, R381). -/
def slotLimit (d : Dev) : Nat := if d.ftl.armed.isNone then 0 else min (d.oimCfg.staging * 131072) (flushSlots d)

/-- Slots in use: slots that are not FREE. -/
def slotsUsed (d : Dev) : Nat := d.stg.slots.length

/-- R193 restricts admission below 1/16 free, and frees it at 1/8. -/
def showTight (d : Dev) : Dev :=
  let lim := slotLimit d
  let free := lim - slotsUsed d
  let tight := if d.stg.tight then 8 * free < lim else 16 * free < lim
  if tight = d.stg.tight then d
  else
    let d := { d with stg.tight := tight }
    pauseAll 1 (if tight then rd Reg.ETH_PFC_WRITE_PRIO d else 0) d

/-- The newest slot of a square that is not FREE, by SSN (R192). -/
def newestSlot (nsid sq : Nat) (t : Tab Slot) : Option Nat :=
  ((t.filter fun p => p.2.state != 0 && p.2.nsid == nsid && p.2.square == sq).foldl (fun (b : Option (Nat × Slot)) p =>
    match b with
    | none => some p
    | some q => if q.2.ssn < p.2.ssn then some p else b) none).map (·.1)

/-- The slots of a square from the newest along the OLDER chain; `fuel` bounds its length (R315). -/
def slotChain (t : Tab Slot) : Nat → Option Nat → List Nat
  | 0, _ => []
  | _, none => []
  | k + 1, some n => n :: slotChain t k (tget {} t n).older

/-- Slots that this head would have to flush, were it to adopt the peer's now: its own and those of the mirror (R190, DEDUCED,
log entry 143). -/
def slotsHeld (d : Dev) : Nat := slotsUsed d + d.stg.mirror.length

/-- A free slot number. -/
def freeSlotNo (d : Dev) : Option Nat :=
  if slotsHeld d ≥ slotLimit d then none
  else (List.range (slotsUsed d + 1)).find? fun n => (getSlot n d).state == 0

/-- Give a command one new slot for a square (R192): it chains to the square's newest slot. -/
def giveSlot (n nsid sq kind : Nat) (cmd : Option Nat) (d : Dev) : Dev :=
  let s : Slot := {
    nsid := nsid, state := 1, kind := kind, square := sq, ssn := d.stg.ssn, cmd := cmd
    older := newestSlot nsid sq d.stg.slots }
  send (.mirrorSlot n) { d with stg.slots := tset {} d.stg.slots n s, stg.ssn := d.stg.ssn + 1 }

/-- The 16-bit mask of the 512-byte units of a range of bytes in a square. -/
def unitMask (off len : Nat) : Nat :=
  (((List.range 16).filter fun b => off ≤ 512 * b && 512 * (b + 1) ≤ off + len).map fun b => 2 ^ b).sum

/-! ### Formats (Table 5.7, R163) -/

/-- Data bytes and metadata bytes of a block of an LBA format. -/
def blockSize (lbaf : Nat) : Nat := if lbaf % 2 = 0 then 512 else 4096
def metaSize (lbaf : Nat) : Nat := if lbaf < 2 then 0 else if lbaf < 4 then 8 else 16
/-- Blocks of a square, and the 512-byte units of block `b` of a square. -/
def blocksPerSquare (lbaf : Nat) : Nat := 8192 / blockSize lbaf
def blockMask (lbaf b : Nat) : Nat := unitMask (blockSize lbaf * b) (blockSize lbaf)

/-- A tag record entry with all-ones tags: bits [63:48] are 0 in a 16-bit guard format (Table 5.8). -/
def blankTag (lbaf : Nat) : Bytes := if metaSize lbaf = 8 then List.replicate 6 255 ++ [0, 0] else List.replicate 8 255

/-- Land bytes in a slot's data area. -/
def landBytes (n off : Nat) (b : Bytes) (d : Dev) : Dev :=
  modSlot n (fun s => { s with
    data := (b.zip (List.range b.length)).foldl (fun t p => tset 0 t (off + p.2) p.1) s.data
    valid := s.valid ||| unitMask off b.length }) d

/-- A slot's 8 KiB, bytes that nothing landed in as zeros. -/
def slotData (s : Slot) : Bytes := (List.range 8192).map fun i => tget 0 s.data i

def modWork (n : Nat) (f : Work → Work) (d : Dev) : Dev := modSlot n (fun s => { s with work := f s.work }) d

/-- What R195 lets a slot do without the peer. -/
def slotAlone (n : Nat) (d : Dev) : Bool := aloneFor (getNs (getSlot n d).nsid d).pool d

/-- Write a slot's descriptor where its next step waits until the peer has acknowledged it (R191); without a peer to wait for it is done
at once (R195). -/
def awaitPeer (n : Nat) (d : Dev) : Dev := send (.mirrorSlot n) (modSlot n (fun s => { s with unacked := !slotAlone n d }) d)

/-- A slot is PACKED without a frame (R200, R210). -/
def packSlot (n action gid : Nat) (d : Dev) : Dev :=
  awaitPeer n (modSlot n (fun s => { s with
    state := 5, work := { s.work with phase := 8, action := action, newGid := gid, insert := false } }) d)

/-- Issue a swap of a reference add (R206). -/
def issueAdd (n g expect_ swaps : Nat) (d : Dev) : Dev :=
  send (.refAdd g expect_) (modWork n (fun w => { w with phase := 5, swaps := swaps, expect_ := expect_ }) d)

/-- The word that a reference add of a GID expects first, with the FPTAG that the fingerprint gives (R206). -/
def firstWord (fptag : Nat) : Nat := 2 ^ 32 + fptag

/-- A fingerprint's bits [255:224] (R229). -/
def fpTag (fp : Bytes) : Nat := beNat (fp.take 4)

/-- A descriptor write of a slot has been done: behind HELD the first swap goes, behind ADD_DONE the slot is PACKED (R191, R206). -/
def slotWritten (n : Nat) (d : Dev) : Dev :=
  let s := getSlot n d
  let d := modSlot n (fun s => { s with unacked := false }) d
  if s.state ≠ 4 then d
  else match s.work.phase with
    | 11 => issueAdd n s.heldGid (firstWord (fpTag s.work.fp)) 1 d
    | 12 => packSlot n 2 s.heldGid d
    | _ => d

/-- The step that follows HELD or ADD_DONE: at once, or when the peer has acknowledged the write. -/
def afterWritten (n phase : Nat) (d : Dev) : Dev :=
  let d := awaitPeer n (modWork n (fun w => { w with phase := phase }) d)
  if (getSlot n d).unacked then d else slotWritten n d

/-- A slot becomes DURABLE (R191, R195, R196): only now, and with none of its command's other slots behind, does the write complete to
its host (R27); later steps delay no completion (R29). -/
def makeDurable (n : Nat) (d : Dev) : Dev :=
  let s := getSlot n d
  if s.state ≠ 2 then d
  else
    let d := send (.mirrorSlot n) (modSlot n (fun s => { s with state := 3, durTempo := tempoNow d }) d)
    match s.cmd with
    | none => d
    | some c =>
      if (getFc c d).slots.all fun m => let t := getSlot m d; t.cmd != some c || t.state ≥ 3 then complete c 0 false d else d

/-- A slot's last block has landed: STAGED, and its mirror write is issued with the descriptor behind the data (R191); with no
peer to wait for it is DURABLE at once (R195). -/
def stageSlot (n : Nat) (d : Dev) : Dev :=
  let d := modSlot n (fun s => { s with state := 2 }) d
  if aloneFor (getNs (getSlot n d).nsid d).pool d then makeDurable n d else send (.mirrorSlot n) d

/-- What R195 lets go on when it comes to apply: this head's STAGED slots are DURABLE, and descriptor writes that waited for the peer are
done. -/
def durableAlone (d : Dev) : Dev :=
  let ready (st : Bool) : List Nat := (d.stg.slots.filter fun p => (if st then p.2.state == 2 else p.2.unacked) && slotAlone p.1 d).map (·.1)
  forEach (ready false) slotWritten (forEach (ready true) makeDurable d)

/-- The frame of a slot, if one is placed, is nobody's: invalid space (R213, R226). -/
def abandonFrame (n : Nat) (d : Dev) : Dev :=
  { d with stg.rows := d.stg.rows.map fun r => (r.1, { r.2 with
      frames := r.2.frames.map fun f => if f.slot = some n then { f with slot := none } else f }) }

/-- A slot leaves reduction and waits in DURABLE again: it keeps DUR_TEMPO, its GID is abandoned, its jobs go, and no pin waits for it
(R226, R228, R250). A reference add without ADD_DONE leaves its GID doubtful (R227). -/
def backToDurable (n : Nat) (d : Dev) : Dev :=
  let s := getSlot n d
  let lost := s.held && !s.addDone
  let d := if lost then doubt s.heldGid d else d
  let d := dropPipes (.slot n) (abandonFrame n d)
  send (.mirrorSlot n) (modSlot n (fun s => { s with
      state := 3, work := {}, unacked := false, held := s.held && !lost, heldGid := if lost then 0 else s.heldGid })
    { d with fiu.retiring := d.fiu.retiring.map fun r => { r with own := r.own.filter (· != s.ssn) } })

/-- Free the slots of a command (R165, R168). -/
def freeSlots (n : Nat) (d : Dev) : Dev :=
  showTight (forEach (getFc n d).slots (fun m d => if (getSlot m d).cmd = some n then send (.mirrorSlot m) (freeSlot m d) else d) d)

/-! ### The row journal (R221, R225) -/

/-- Apply this head's committed records in TSN order, after the peer's acknowledged ones (R221, R222). -/
def applyOwn : Nat → Dev → Dev
  | 0, d => d
  | k + 1, d =>
    match d.stg.journal.find? fun r => r.tsn == d.md.tsnOwn + 1 with
    | some r =>
      if r.committed && r.good then
        let d := applyRecord r (catchUp d)
        applyOwn k { d with todo := d.todo ++ [.committed r] }
      else d
    | none => d

/-- The pool that a record belongs to: that of its slots, or of the GIDs, segment or member it names. -/
def recordPool (r : JRecord) (d : Dev) : Option Nat :=
  match r.body with
  | .squares _ => some (getNs r.nsid d).pool
  | .gidMark gs | .pinDrop gs => gs.head?.map gidPool
  | .gcMove ms => ms.head?.map fun m => gidPool m.1
  | .segOpen _ e => some e.pool
  | .segClose s _ _ | .segDrain s | .eraseDone s => some (getSeg s d).pool
  | .blockRetire m _ _ => some (tget {} d.md.members m).pool
  | .pageMap l => l.head?.map fun m => (getSeg (m.2.1 / 2 ^ 24) d).pool
  | .refFix l => l.head?.map fun m => gidPool m.1
  | _ => none

/-- R195 commits a record without the peer (R221, R660). -/
def recordAlone (r : JRecord) (d : Dev) : Bool :=
  match recordPool r d with
  | some p => aloneFor p d
  | none => alone d

/-- Commit what the peer has acknowledged, and what R195 lets commit without it. -/
def commitReady (d : Dev) : Dev :=
  let d := { d with stg.journal := d.stg.journal.map fun r => { r with committed := r.committed || recordAlone r d } }
  showTight (applyOwn (d.stg.journal.length + 1) d)

/-- Build a record: it enters the local journal and its copy goes to the peer (R221). `news` is what the pages it names newly say. -/
def postNews (nsid : Nat) (body : JBody) (news : List PageNews) (d : Dev) : Dev :=
  let r : JRecord := { tsn := d.stg.tsnNext, tempo := tempoNow d, nsid := nsid, head := ownHead d, body := body, news := news }
  let d := { d with stg.journal := d.stg.journal ++ [r], stg.tsnNext := d.stg.tsnNext + 1 }
  commitReady (send (.mirrorRecord r.tsn) d)

def postRecord (nsid : Nat) (body : JBody) (d : Dev) : Dev := postNews nsid body [] d

/-- The length of a record in bytes (Tables 6.11, 6.12, 11.7). -/
def recordLen (r : JRecord) : Nat :=
  48 + match r.body with
  | .squares es => (es.map fun e => 96 + e.tags.length + (if e.mask = 0 then 0 else 16)).sum
  | .releaseDone gs => 16 * gs.length
  | .gidMark gs => 16 * gs.length
  | .gcMove ms => 32 * ms.length
  | .pinDrop gs => 16 * gs.length
  | .segOpen _ _ => 144
  | .segClose _ _ _ => 16
  | .segDrain _ => 16
  | .eraseDone _ => 16
  | .blockRetire _ _ _ => 16
  | .checkpoint _ _ => 16
  | .pageMap l => 32 * l.length
  | .refFix l => 16 * l.length

/-- Bytes of the journal since the last checkpoint, and of dirty metadata pages (R351). -/
def journalBytes (d : Dev) : Nat := (d.stg.journal.map recordLen).sum
def dirtyBytes (d : Dev) : Nat := 4096 * d.ftl.dirty.length

/-- A checkpoint is due, or the bound at which nothing new commits has been reached (R351). -/
def checkpointDue (d : Dev) : Bool := dirtyBytes d ≥ 6 * 2 ^ 30 || journalBytes d ≥ 768 * 2 ^ 20
def metaStalled (d : Dev) : Bool := dirtyBytes d ≥ 13 * 2 ^ 29 || journalBytes d ≥ 2 ^ 30

/-! ### Teardown of a context (R166, R168) -/

/-- A slot of a command has been left by it: it holds another's data, or it is whole in staging or beyond (R168). -/
def slotWhole (n m : Nat) (d : Dev) : Bool := (getSlot m d).cmd != some n || 2 ≤ (getSlot m d).state

/-- Take the read jobs of a command away. -/
def stopReads (n : Nat) (d : Dev) : Dev :=
  { d with stg.reads := d.stg.reads.filter fun r => match r.2.who with
      | .host rec _ => rec != n
      | _ => true }

/-- End a command whose context tears down (R166, R168): a write that is durable ends UNDELIVERED with its slots kept, one whole in staging
runs on, one still receiving ends and frees its slots (a deallocation is a write whose data is all in staging at once); a Read, Compare or
Verify stops; anything else has taken effect or not. -/
def tearCmd (n : Nat) (d : Dev) : Dev :=
  let f := getFc n d
  let okay := f.ready.any (·.1 == 0)
  if f.posted then endCmd n 1 d
  else if opCls f.op = 1 then
    if okay then endCmd n 1 d
    else if !f.slots.isEmpty && f.slots.all (fun m => slotWhole n m d) then modFc n (fun f => { f with torn := true }) d
    else endCmd n 2 (freeSlots n d)
  else match f.op with
    | .read | .compare | .verify => endCmd n 2 (stopReads n d)
    | _ => endCmd n (if okay || (getCmd n d).effect then 1 else 2) d

/-- Show the counts of open and resident contexts (Table 5.12). -/
def showCtx (d : Dev) : Dev :=
  wr Reg.NVF_CTX_OPEN (d.front.ctxs.filter fun c => c.2.opn).length
    (wr Reg.NVF_CTX_RESIDENT (d.front.ctxs.filter fun c => c.2.resident).length d)

/-- Close one context: its own commands end, not those that the peer has carried here, its waiting packets and capsules go; its number keeps the generation (R152, R168). -/
def closeCtx (c : Nat) (d : Dev) : Dev :=
  let recs := (d.cas.cmds.filter fun r => r.2.state == 1 && r.2.ctx == c && !(getFc r.1 d).cmd.viaPeer).map (·.1)
  let d := forEach recs tearCmd d
  let x := tget {} d.front.ctxs c
  let d := forEach (those 32 fun p => (getPort p d).miss.any (·.ctx == c)) (fun p d =>
    missXon p (showMiss p (modPort p (fun q => { q with miss := q.miss.filter (·.ctx != c) }) d))) d
  showCtx { d with front.ctxs := tset {} d.front.ctxs c { gen := x.gen }
                   front.capsules := d.front.capsules.filter fun q => q.cmd.ctx != c || q.cmd.viaPeer
                   front.carried := d.front.carried.filter fun q => q.1 != c }

/-- The contexts of a controller. -/
def ctrlCtxs (id : Nat) (d : Dev) : List Nat := (d.front.ctxs.filter fun c => c.2.opn && c.2.cntlid == id).map (·.1)

/-- The firmware download buffer is emptied (R561). -/
def emptyFwBuf (d : Dev) : Dev :=
  wr Reg.FWU_STATUS_BUF_BUSY 0 (wr Reg.FWU_BUF_OWNER 0 (wr Reg.FWU_BUF_BYTES 0
    { d with fwu.owner := none, fwu.buf := [], fwu.ranges := [] }))

/-- Tear down a context; an admin queue takes every I/O queue of its controller with it (R168). -/
def teardown (c : Nat) (d : Dev) : Dev :=
  let x := tget {} d.front.ctxs c
  if !x.opn then d
  else if x.qid = 0 then
    let d := forEach (ctrlCtxs x.cntlid d) closeCtx d
    let d := if d.fwu.owner = some x.cntlid then emptyFwBuf d else d
    { d with front.ctrls := tset {} d.front.ctrls x.cntlid {} }
  else closeCtx c d

/-- Quarantine a host port: its link is held down and every context of it tears down (R168, Table 20.3). -/
def portTeardown (p : Nat) (d : Dev) : Dev :=
  forEach ((d.front.ctxs.filter fun c => c.2.opn && c.2.port == p).map (·.1)) teardown
    (clr (Reg.ETH_LINK_UP p) (modPort p (fun x => { x with quar := true }) d))

/-! ### Asynchronous events (R659) -/

/-- What an asynchronous event's completion carries in DW0: a notice, its information, its log page (NVMe Base 2.0; PRESUMED). -/
def eventDw0 (e : Nat) : Nat := match e with | 1 => 0x040002 | 2 => 0x030102 | 3 => 0x0C0302 | _ => 0x70F002

/-- The bit of feature 0x0B, Asynchronous Event Configuration, that enables an event (NVMe Base 2.0; PRESUMED, log entry 142). -/
def eventBit (e : Nat) : Nat := match e with | 1 => 8 | 2 => 9 | 3 => 11 | _ => 31

/-- Complete an outstanding request with the first waiting event whose type is not masked. The type is masked until its log page is read. -/
def giveEvent (id : Nat) (d : Dev) : Dev :=
  let k := tget {} d.front.ctrls id
  match k.events.find? fun e => !k.masked.contains e, k.aers with
  | some e, a :: as =>
    let d := { d with front.ctrls := tset {} d.front.ctrls id { k with events := k.events.erase e, aers := as, masked := e :: k.masked } }
    complete a 0 false (modFc a (fun f => { f with dw0 := eventDw0 e }) d)
  | _, _ => d

/-- Event types of the model's own numbering: 1 Namespace Attribute Changed, 2 Firmware Activation Starting, 3 ANA Change,
4 Discovery Log Page Change. Those that wait together are reported once. -/
def raiseEvent (e : Nat) (p : Controller → Bool) (d : Dev) : Dev :=
  forEach ((d.front.ctrls.filter fun k => k.2.exists_ && p k.2 && bitOf (tget 0 k.2.features 0x0B) (eventBit e)).map (·.1)) (fun id d =>
    let k := tget {} d.front.ctrls id
    let k := if k.events.contains e then k else { k with events := k.events ++ [e] }
    giveEvent id { d with front.ctrls := tset {} d.front.ctrls id k }) d

/-- The ANA states of some groups change at this edge: the log page counts it and every controller hears of it (R177). -/
def anaChanged (d : Dev) : Dev := raiseEvent 3 (fun _ => true) { d with front.anaCount := d.front.anaCount + 1 }

end Sys2Proof.Machine
end

