-- ==== Sys2Proof/Machine/Lanes.lean ====
section
/-!
DEFINITION. The device's end of the Media Link lanes: frames and credits, commands, link states
(spec/12_media_link.md, R383–R406).
-/

namespace Sys2Proof.Machine

def getLink (n : Nat) (d : Dev) : Lane12 := tget {} d.lanes12 n
def modLink (n : Nat) (f : Lane12 → Lane12) (d : Dev) : Dev := { d with lanes12 := tmod {} d.lanes12 n f }
def getMod (n : Nat) (d : Dev) : Module := tget {} d.outside.modules n
def modMod (n : Nat) (f : Module → Module) (d : Dev) : Dev := { d with outside.modules := tmod {} d.outside.modules n f }

/-- Lane states (Table 12.2). -/
def laneState (n : Nat) (d : Dev) : Nat := rd (Reg.MDL_LANE_STATE n) d
def laneUp (n : Nat) (d : Dev) : Bool := laneState n d == 4

/-- Tempo time in seconds. -/
def nowSec (d : Dev) : Nat := d.tmp.sec

/-- A member that may be used: adopted, not declared failed (R423), its lane not DOWN (R402). -/
def memberOk (m : Nat) (d : Dev) : Bool :=
  let x := tget {} d.md.members m
  x.adopted && !x.declared && (laneUp m d || laneState m d == 5)

/-! ### Frames and credits -/

/-- Transmit a transaction frame, for the first time or again; an armed MDL_INJ inverts the trailer of its lane's next one. -/
def transmit (n : Nat) (f : MdlSent) (d : Dev) : Dev :=
  let bad := rdb Reg.MDL_INJ_ARM d && rd Reg.MDL_INJ_LANE d == n
  send (.mdlFrame n f.type f.seq f.tag bad) (if bad then clr Reg.MDL_INJ_ARM d else d)

/-- Send a frame. A transaction frame takes the next SEQ and enters the replay buffer (R386, R389). -/
def sendFrame (n type tag : Nat) (d : Dev) : Dev :=
  let x := getLink n d
  if type ≤ 3 then
    let f : MdlSent := { seq := x.tx, type := type, tag := tag }
    transmit n f (modLink n (fun x => { x with tx := (x.tx + 1) % 4096, unacked := x.unacked ++ [f] }) d)
  else send (.mdlFrame n type ((x.rx + 4095) % 4096) tag false) d

/-- Send CREDIT: the device grants no CMD credits; its DATA credits return as their frames are taken (R392, R395). -/
def sendCredit (n : Nat) (d : Dev) : Dev := send (.mdlCredit n 0 ((getLink n d).dataRel % 2 ^ 32)) d

/-- Take a lane out of service: its member is absent, its presence goes, its commands end LINK_LOST, sequence numbers and
credits clear (R399, R402, Table 12.2). -/
def clearLane (n : Nat) (d : Dev) : Dev :=
  let x := getLink n d
  let was := laneState n d == 4 || laneState n d == 5
  let d := if bitOf (rd Reg.MDL_PRESENT_LANES d) n then setb Reg.MDL_STATUS_PRESENCE (clrBit Reg.MDL_PRESENT_LANES n d) else d
  let d := if was then notice Ev.MDL_REMOVED (unitOf 0xA n) 0 0 d else d
  let ended := (x.cmds.map (·.2)) ++ x.queue
  let y : Lane12 := {
    failed32 := x.failed32, retrains := x.retrains, downs := x.downs, fence := x.fence
    absent := if x.absent.isSome then x.absent else some (nowSec d) }
  { modMod n (fun x => { x with pln := false }) (modLink n (fun _ => y) (clr (Reg.MDL_LANE_PLN_IN n) d)) with
    todo := d.todo ++ ended.map fun c => .laneEnd n c none
    pwr.waiting := d.pwr.waiting.filter fun q => q.who != .mediaLane n || q.cls != 5 }

/-- A lane enters FAILED, and its member counts as failed from the next edge (R394, R423). -/
def putFailed (n : Nat) (d : Dev) : Dev :=
  let d := if laneState n d = 0 ∨ laneState n d = 7 then d else clearLane n d
  let d := wr (Reg.MDL_LANE_STATE n) 7 d
  if (tget {} d.md.members n).adopted && !(tget {} d.md.members n).declared && !d.ftl.declare.contains n then
    { d with ftl.declare := d.ftl.declare ++ [n] }
  else d

/-- R394's Check. -/
def linkFail (n : Nat) (d : Dev) : Dev :=
  raiseC Ev.MDL_LINK_FAIL (unitOf 0xA n) 0 0 (setb Reg.MDL_STATUS_LINK_CHK (putFailed n d))

/-- The instants of a list that lie within the last second, with this one. -/
def withinSecond (l : List Nat) (d : Dev) : List Nat := (l.filter fun t => tempoNow d < t + tempiFor 1000000000 d) ++ [tempoNow d]

/-- A lane goes DOWN and on to DETECT; at its fourth time within a second it enters FAILED (R394, R402). -/
def laneDown (n : Nat) (d : Dev) : Dev :=
  let l := withinSecond (getLink n d).downs d
  let d := modLink n (fun x => { x with downs := l }) (clearLane n d)
  if l.length ≥ 4 then linkFail n d else wr (Reg.MDL_LANE_STATE n) 1 d

/-- A lane retrains, keeping its state; the eighth time within a second it enters FAILED (R390, R394). -/
def laneRetrain (n : Nat) (d : Dev) : Dev :=
  if laneState n d ≠ 4 then d
  else
    let l := withinSecond (getLink n d).retrains d
    let d := bump (Reg.MDL_LANE_RETRAINS n) (modLink n (fun x => { x with retrains := l, replays := 0 }) d)
    if l.length ≥ 8 then linkFail n d
    else postReq { who := .mediaLane n, cls := 5, cost := 10 } (wr (Reg.MDL_LANE_STATE n) 5 d)

/-- Store a credit count with its complement (R392). -/
def setCredit (n cls v : Nat) (d : Dev) : Dev :=
  let (p, d) := mkPaired 32 4 v d
  modLink n (fun x => if cls = 0 then { x with cmdCred := p } else { x with dataCred := p }) d

/-- Read a credit count: nothing, and the lane goes DOWN, when its complement disagrees (R393). -/
def readCredit (n cls : Nat) (d : Dev) : Option Nat × Dev :=
  let p := if cls = 0 then (getLink n d).cmdCred else (getLink n d).dataCred
  if p.ok 32 then (some p.val, d)
  else (none, laneDown n (raiseC Ev.MDL_PAIRED (unitOf 0xA n) cls p.data (setb Reg.MDL_STATUS_PAIRED_CHK d)))

/-- The DATA frames that a command's data takes. -/
def dataFrames (c : LaneCmd) : Nat := (c.data.length + 4095) / 4096

/-- The lowest tag neither outstanding nor kept unused (R399). -/
def freeTag (x : Lane12) : Option Nat :=
  (List.range 1024).find? fun t => !(x.cmds.any fun c => c.1 == t) && !x.dead.contains t

/-- Send one queued command with its data, when its tag, its credits and the replay buffer allow (R389, R392). -/
def pumpOne (n : Nat) (d : Dev) : Option Dev :=
  let x := getLink n d
  if laneState n d ≠ 4 then none
  else match x.queue, freeTag x with
    | c :: rest, some tag =>
      let k := dataFrames c
      match readCredit n 0 d with
      | (none, d) => some d
      | (some a, d) => match readCredit n 1 d with
        | (none, d) => some d
        | (some b, d) =>
          if a = 0 ∨ b < k ∨ x.unacked.length + 1 + k > 512 then none
          else
            let d := modLink n (fun x => { x with
              queue := rest, cmds := tset { opcode := 0 } x.cmds tag { c with stamp := x.cmdSent }, cmdSent := x.cmdSent + 1, dataSent := x.dataSent + k }) d
            let d := setCredit n 0 (a - 1) d
            let d := if k = 0 then d else setCredit n 1 (b - k) d
            some (forEach (List.range k) (fun _ d => sendFrame n 3 tag d) (sendFrame n 1 tag d))
    | _, _ => none

/-- Send what can be sent. -/
def pump (n : Nat) : Nat → Dev → Dev
  | 0, d => d
  | k + 1, d => match pumpOne n d with
    | some d => pump n k d
    | none => d

/-- Issue a command on a lane. On a lane that is not UP, or whose module has sent PLN, it ends LINK_LOST at once (R406). -/
def laneIssue (n : Nat) (c : LaneCmd) (d : Dev) : Dev :=
  if laneState n d = 5 then modLink n (fun x => { x with queue := x.queue ++ [c] }) d
  else if laneState n d ≠ 4 || rdb (Reg.MDL_LANE_PLN_IN n) d then { d with todo := d.todo ++ [.laneEnd n c none] }
  else
    let d := modLink n (fun x => { x with queue := x.queue ++ [c] }) d
    pump n ((getLink n d).queue.length + 1) d

/-- The commands outstanding on a lane or waiting there whose use satisfies a test. -/
def laneHas (n : Nat) (p : LaneUse → Bool) (d : Dev) : Bool :=
  let x := getLink n d
  x.cmds.any (fun c => p c.2.use) || x.queue.any (fun c => p c.use)

/-- The copy of a lane's fence word; where its halves disagree, FENCE_PAIRED and the word with this head's bit clear, and a
FENCE_READ goes ahead of what follows (Table 18.13). -/
def readFence (n : Nat) (d : Dev) : Nat × Dev :=
  let p := (getLink n d).fence
  if p.ok 64 then (p.val, d)
  else
    let own := 2 ^ ownHead d
    let v := if bitOf p.val (ownHead d) then p.val - own else p.val
    (v, laneIssue n { opcode := 0x04, use := .fenceRead } (raiseC Ev.FENCE_PAIRED (unitOf 0xA n) n p.data d))

/-- Issue a PROGRAM or an ERASE: the fence copy is read first (Table 18.13). -/
def issueWrite (n : Nat) (c : LaneCmd) (d : Dev) : Dev := laneIssue n c (readFence n d).2

/-- MDL_FENCEn with its complement (Table 18.13). -/
def setFence (n v : Nat) (d : Dev) : Dev :=
  let (p, d) := mkPaired 64 5 v d
  wr (Reg.MDL_FENCE_WORD n) v (modLink n (fun x => { x with fence := p }) d)

end Sys2Proof.Machine
end

