-- ==== Sys2Proof/Machine/Parity.lean ====
section
/-!
DEFINITION. P and Q of a row and the recovery of missing columns (spec/13_stripes_and_rebuild.md, R410, R411).
-/

namespace Sys2Proof.Machine

/-! ### Columns as vectors over GF(2^8) (R410, R411) -/

/-- A column scaled by a field element. -/
def colScale (c : Nat) (b : Bytes) : Bytes := b.map fun x => BitVec.ofNat 8 (gfMul c x.toNat)

/-- The sum of columns of `len` bytes. -/
def colSum (len : Nat) (cs : List Bytes) : Bytes := cs.foldl xorBytes (List.replicate len 0)

/-- P over data columns; Q over the data columns numbered as given (R410). -/
def parityP (len : Nat) (cs : List (Nat × Bytes)) : Bytes := colSum len (cs.map (·.2))
def parityQ (len : Nat) (cs : List (Nat × Bytes)) : Bytes := colSum len (cs.map fun c => colScale (gfPow 2 c.1) c.2)

/-- g^(-x). -/
def gInv (x : Nat) : Nat := gfInv (gfPow 2 x)

/-- The columns read to recover a missing set of a row of `w` data columns (Table 13.1). -/
def columnsRead (w m0 m1 : Nat) : List Nat :=
  let data := (List.range w).filter fun c => c != m0 && c != m1
  if w ≤ m0 then data
  else if m1 < w then data ++ [w, w + 1]
  else if m1 = w then data ++ [w + 1]
  else data ++ [w]

/-- The missing columns, recovered from those read (Table 13.1); `m1` is 255 when one column is missing. -/
def recoverColumns (w m0 m1 len : Nat) (cols : List (Nat × Bytes)) : List (Nat × Bytes) :=
  let data := cols.filter fun c => c.1 < w
  let col (n : Nat) : Bytes := ((cols.find? fun c => c.1 == n).map (·.2)).getD []
  let a := xorBytes (col w) (parityP len data)
  let b := xorBytes (col (w + 1)) (parityQ len data)
  let parity (n : Nat) (all : List (Nat × Bytes)) : Bytes := if n = w then parityP len all else parityQ len all
  if w ≤ m0 then (m0, parity m0 data) :: (if m1 = 255 then [] else [(m1, parity m1 data)])
  else if m1 < w then
    let gyx := gfPow 2 (m1 - m0)
    let dx := colScale (gfInv (gyx ^^^ 1)) (xorBytes (colScale gyx a) (colScale (gInv m0) b))
    [(m0, dx), (m1, xorBytes a dx)]
  else
    let dx := if m1 = w then colScale (gInv m0) b else a
    (m0, dx) :: (if m1 = 255 then [] else [(m1, parity m1 ((m0, dx) :: data))])

end Sys2Proof.Machine
end

