-- ==== Sys2Proof/Machine/Flash.lean ====
section
/-!
DEFINITION. Blocks, segments, rows and their programming: what the flash-translation engines do
(spec/11_flash_translation.md, R348–R372; spec/13_stripes_and_rebuild.md, R407–R436; spec/06_write_pipeline.md, R214–R221).
-/

namespace Sys2Proof.Machine

/-! ### Threshold sets (R324–R326, R355) -/

/-- The age of a block's first programming in seconds, and its bucket (R355). -/
def blockAge (b : Blk) (d : Dev) : Nat := (tempoNow d / 2 ^ 20 - b.stamp) * 2 ^ 20 * periodNs d / 1000000000
def ageBucket (b : Blk) (d : Dev) : Nat := if blockAge b d < 300 then 0 else min 15 (1 + Nat.log2 (blockAge b d / 300))

/-- The temperature bucket of a difference (R355). -/
def tempBucket (t : Int) : Nat := (([-30, -15, -5, 5, 15, 30, 45] : List Int).filter fun l => t > l).length

/-- The start set of a block: the hinted one, else that of its buckets (R324, R325). -/
def startSet (m b : Nat) (d : Dev) : Nat :=
  let r := getBlk m b d
  match r.hint with
  | some h => h
  | none =>
    let t := tempBucket (signedOf 16 (rd (Reg.MDL_TEMP_TEMP m) d) - r.temp)
    let w := max 1 (tget {} d.md.members m).wlim
    64 * ageBucket r d + 8 * t + min 7 (8 * r.pe / w)

/-- The steps of the retry ladder that are in range: step number and set (Table 10.1). -/
def ladder (start : Nat) : List (Nat × Nat) :=
  let a := start / 64
  let t := start / 8 % 8
  let p := start % 8
  [(0, start)] ++ (if a < 15 then [(1, start + 64)] else []) ++ (if a > 0 then [(2, start - 64)] else [])
    ++ (if t < 7 then [(3, start + 8)] else []) ++ (if t > 0 then [(4, start - 8)] else [])
    ++ (if p < 7 then [(5, start + 1)] else []) ++ (if a < 14 then [(6, start + 128)] else [])

/-! ### Free blocks (R356, R358, R419, R654) -/

/-- This head may allocate a block: its own parity, or either while it has castled or has no peer (R654). -/
def parityOk (b : Nat) (d : Dev) : Bool := d.cas.castled || !d.cas.hasPeer || b % 2 == ownHead d

/-- The records of a member's blocks. -/
def blkRecords (m : Nat) (d : Dev) : List (Nat × Blk) :=
  (d.md.blocks.filter fun p => p.1 / 2 ^ 24 == m).map fun p => (p.1 % 2 ^ 24, p.2)

/-- How many blocks of a member are FREE, and how many are not RETIRED, FACTORY_BAD or RESERVED. -/
def memberFree (m : Nat) (d : Dev) : Nat :=
  (tget {} d.md.members m).nblocks - ((blkRecords m d).filter fun b => b.2.state != 0).length
def memberBlocks (m : Nat) (d : Dev) : Nat :=
  (tget {} d.md.members m).nblocks - ((blkRecords m d).filter fun b => b.2.state ≥ 2).length

/-- The live members of a pool: not declared failed (R409, R415). -/
def liveMembers (p : Nat) (d : Dev) : List Nat := (poolMembers p d).filter fun m => !(tget {} d.md.members m).declared

/-- A member's rebuild reserve in blocks (R419). -/
def reserveOf (m : Nat) (d : Dev) : Nat :=
  let spare := rd Reg.ERS_RB_SPARE d
  let n := (liveMembers (tget {} d.md.members m).pool d).length
  if n ≤ spare then 0 else (spare * memberBlocks m d + (n - spare) - 1) / (n - spare)

/-- Counted and free blocks of a pool (R358, R420). -/
def poolTotal (p : Nat) (d : Dev) : Nat := ((liveMembers p d).map fun m => memberBlocks m d - reserveOf m d).sum
def poolFree (p : Nat) (d : Dev) : Nat :=
  ((liveMembers p d).map fun m => memberFree m d).sum - ((liveMembers p d).map fun m => reserveOf m d).sum
/-- The free fraction is below a percentage (R358). -/
def freeBelow (p pct : Nat) (d : Dev) : Bool := 100 * poolFree p d < pct * poolTotal p d

/-- Bring MDL_FT_POOLp and MDL_FT_STATUS.CRIT to the pools' blocks. -/
def showPools (d : Dev) : Dev :=
  let ps := (d.md.pools.filter fun p => p.2.exists_).map (·.1)
  let d := forEach ps (fun p d => wr (Reg.MDL_FT_POOL_TOTAL p) (poolTotal p d)
    (wr (Reg.MDL_FT_POOL_FREE p) ((liveMembers p d).map fun m => memberFree m d).sum d)) d
  wr Reg.MDL_FT_STATUS_CRIT (b2n (ps.any fun p => freeBelow p (rd Reg.MDL_FT_GC_CRIT_PCT d) d)) d

/-- The FREE block of a member with the lowest PE, ties to the lower number; the reserve only for replacements (R356, R419). -/
def pickBlock (m : Nat) (fromReserve : Bool) (d : Dev) : Option Nat :=
  let x := tget {} d.md.members m
  if !memberOk m d || memberFree m d ≤ (if fromReserve then 0 else reserveOf m d) then none
  else
    let recs := blkRecords m d
    let fresh := (List.range (min x.nblocks (2 * recs.length + 6))).find? fun b =>
      2 ≤ b && parityOk b d && !(recs.any fun r => r.1 == b)
    let worn := (recs.filter fun r => r.2.state == 0 && parityOk r.1 d).map fun r => (r.2.pe, r.1)
    let all := worn ++ (match fresh with
      | some b => [(0, b)]
      | none => [])
    (all.foldl (fun (b : Option (Nat × Nat)) c =>
      match b with
      | none => some c
      | some q => if c.1 < q.1 ∨ (c.1 = q.1 ∧ c.2 < q.2) then some c else b) none).map (·.2)

/-! ### Layout (R415–R418) -/

/-- The file of a slot (ERS_FILEn). -/
def fileOf (m : Nat) (d : Dev) : Nat := (rdReg ((Reg.ERS_FILE_FILE (m / 16) 0).off) d).toNat / 2 ^ (4 * (m % 16)) % 16

/-- The file cap of a pool for lines of `k` members: members over files that hold live ones (R415). -/
def fileCap (p k : Nat) (d : Dev) : Nat :=
  let fs := ((liveMembers p d).map fun m => fileOf m d).eraseDups.length
  (k + fs - 1) / max 1 fs

/-- How many lines each pair of members, and each member, lies in so far. -/
structure Uses where
  pair : Tab Nat := []
  use : Tab Nat := []
  deriving DecidableEq, Repr

/-- A line is counted. -/
def Uses.add (u : Uses) (set : List Nat) : Uses := {
  pair := (set.flatMap fun a => (set.filter (· != a)).map fun b => a * 64 + b).foldl (fun t k => tmod 0 t k (· + 1)) u.pair
  use := set.foldl (fun t m => tmod 0 t m (· + 1)) u.use }
/-- A line is taken out again. -/
def Uses.drop (u : Uses) (set : List Nat) : Uses := {
  pair := (set.flatMap fun a => (set.filter (· != a)).map fun b => a * 64 + b).foldl (fun t k => tmod 0 t k (· - 1)) u.pair
  use := set.foldl (fun t m => tmod 0 t m (· - 1)) u.use }
def Uses.ofLines (ls : List (List Nat)) : Uses := ls.foldl (fun u l => u.add l) {}

/-- The bytes that R416's tie-break hashes: seed, line and member as 8-byte values (DEDUCED, log entry 72). -/
def tieKey (seed line m : Nat) : Nat := crc64 (leBytes 8 seed ++ leBytes 8 line ++ leBytes 8 m)

/-- A candidate is better than another (R416). -/
def lexLess (a b : Nat × Nat × Nat × Nat) : Bool :=
  a.1 < b.1 || (a.1 == b.1 && (a.2.1 < b.2.1 || (a.2.1 == b.2.1 && (a.2.2.1 < b.2.2.1 || (a.2.2.1 == b.2.2.1 && a.2.2.2 < b.2.2.2)))))

/-- Fill one line up to `k` members (R416). -/
def fillLine (live : List Nat) (file : Nat → Nat) (cap seed line : Nat) (u : Uses) : Nat → List Nat → List Nat
  | 0, set => set
  | k + 1, set =>
    let cand := live.filter fun m => !set.contains m && (set.filter fun s => file s == file m).length < cap
    let keyed := cand.map fun m => ((set.map fun s => tget 0 u.pair (m * 64 + s)).sum, tget 0 u.use m, tieKey seed line m, m)
    match keyed.foldl (fun (b : Option (Nat × Nat × Nat × Nat)) c => match b with
        | none => some c
        | some q => if lexLess c q then some c else b) none with
    | none => set
    | some q => fillLine live file cap seed line u k (set ++ [q.2.2.2])

/-- A table meets R415. -/
def layoutOk (live : List Nat) (k : Nat) (ls : List (List Nat)) : Bool :=
  let u := Uses.ofLines ls
  let n := live.length
  let near (v num den : Nat) : Bool := v * den ≤ num + den && num ≤ v * den + den
  (live.all fun m => near (tget 0 u.use m) (1024 * k) n)
    && (live.all fun a => live.all fun b => b ≤ a || near (tget 0 u.pair (a * 64 + b)) (1024 * k * (k - 1)) (n * (n - 1)))

/-- The largest distance of a pair's count from λ, scaled by n(n − 1) (R416). -/
def worst (live : List Nat) (k : Nat) (u : Uses) : Nat :=
  let n := live.length
  let lam := 1024 * k * (k - 1)
  (live.flatMap fun a => (live.filter fun b => a < b).map fun b =>
    let v := tget 0 u.pair (a * 64 + b) * (n * (n - 1))
    if v < lam then lam - v else v - lam).foldl max 0

/-- One exchange on a line of a table with its counts, when one lowers the largest distance (R416): the one that lowers it most, on a tie
the lowest pair of slots. -/
def exchangeLine (live : List Nat) (file : Nat → Nat) (cap k i : Nat) (t : List (List Nat) × Uses) : List (List Nat) × Uses :=
  let l := (t.1[i]?).getD []
  let rest := t.2.drop l
  let tries := l.flatMap fun a => ((live.filter fun m => !l.contains m).filter fun m =>
      (l.filter fun s => s != a && file s == file m).length < cap).map fun m =>
    let l' := live.filter fun s => s == m || (s != a && l.contains s)
    (worst live k (rest.add l'), a, m, l')
  match tries.foldl (fun (b : Option (Nat × Nat × Nat × List Nat)) c => match b with
      | none => some c
      | some q => if lexLess (c.1, c.2.1, c.2.2.1, 0) (q.1, q.2.1, q.2.2.1, 0) then some c else b) none with
  | some q => if q.1 < worst live k t.2 then (t.1.set i q.2.2.2, rest.add q.2.2.2) else t
  | none => t

/-- The passes over a table; the number left bounds them. A pass that exchanges nothing is the last: each later one would find the same
table. -/
def exchangePasses (live : List Nat) (file : Nat → Nat) (cap k : Nat) : Nat → List (List Nat) → List (List Nat) × Bool
  | 0, ls => (ls, false)
  | p + 1, ls =>
    if layoutOk live k ls then (ls, true)
    else
      let ls' := ((List.range 1024).foldl (fun t i => exchangeLine live file cap k i t) (ls, Uses.ofLines ls)).1
      if ls' = ls then (ls, false) else exchangePasses live file cap k p ls'

/-- The table of one seed, and whether it meets R415. A line lists its members in increasing slot order, as `live` does. -/
def layoutOfSeed (live : List Nat) (file : Nat → Nat) (cap k seed : Nat) : List (List Nat) × Bool :=
  let ls := ((List.range 1024).foldl (fun (acc : Uses × List (List Nat)) i =>
    let set := fillLine live file cap seed i acc.1 k []
    let l := live.filter set.contains
    (acc.1.add l, acc.2 ++ [l])) ({}, [])).2
  exchangePasses live file cap k 64 ls

/-- The first seed that meets R415, else the table of the last. -/
def buildLayout (live : List Nat) (file : Nat → Nat) (cap k : Nat) : Nat → Nat → List (List Nat) × Nat × Bool
  | 0, seed => ((layoutOfSeed live file cap k (seed - 1)).1, seed - 1, false)
  | n + 1, seed =>
    let (ls, ok) := layoutOfSeed live file cap k seed
    if ok then (ls, seed, true) else buildLayout live file cap k n (seed + 1)

/-- Effective width of a pool (R409). -/
def effWidth (p : Nat) (d : Dev) : Nat := (liveMembers p d).length - 2

/-- Show a pool's layout in force (Table 13.8). -/
def showLayout (p : Nat) (d : Dev) : Dev :=
  let q := getPool p d
  wr (Reg.ERS_LAYOUT_LINES p) q.lines.length (wr (Reg.ERS_LAYOUT_SEED p) q.seed (wr (Reg.ERS_LAYOUT_GEN p) q.gen
    (wr (Reg.ERS_LAYOUT_FILE_CAP p) (fileCap p (min q.w (effWidth p d) + 2) d) (wr (Reg.ERS_LAYOUT_W p) q.w
      (wr (Reg.ERS_LAYOUT_MEMBERS p) (liveMembers p d).length (wr (Reg.ERS_LAYOUT_BALANCED p) (b2n q.balanced) d))))))

/-- A generation that has been built takes effect: its number rises, the line pointers start again (R417, R418). -/
def takeLayout (p : Nat) (d : Dev) : Dev :=
  match (getPool p d).built with
  | some (ls, seed, ok) =>
    showLayout p (modPool p (fun q => { q with
      lines := ls, seed := seed, gen := q.gen + 1, balanced := ok, built := none
      linePtr := if ownHead d = 0 then 0 else 512 }) d)
  | none => d

/-- Build a new layout generation of a pool (R416–R418). Lines hold W + 2 members, or every live member of a smaller pool. It takes
effect with the next checkpoint; the first generation, before which no page can be written, at once. -/
def newLayout (p : Nat) (d : Dev) : Dev :=
  let q := getPool p d
  let live := liveMembers p d
  let k := min q.w (effWidth p d) + 2
  let (ls, seed, ok) := buildLayout live (fun m => fileOf m d) (fileCap p k d) k 64 0
  let d := modPool p (fun q => { q with built := some (ls, seed, ok) }) d
  let d := wr (Reg.ERS_LAYOUT_MEMBERS p) live.length (if q.gen = 0 then takeLayout p d else d)
  if ok then d else notice Ev.ERS_UNBALANCED 0 p 0 (setb Reg.ERS_STATUS_UNBAL_N d)

/-! ### Opening segments (R408, R409, R418) -/

/-- The pool is too narrow for data segments (R409). -/
def showNarrow (p : Nat) (d : Dev) : Dev :=
  let q := getPool p d
  let narrow := q.exists_ && effWidth p d < 8
  if narrow = q.narrow then d
  else
    let d := modPool p (fun q => { q with narrow := narrow }) d
    if narrow then raiseC Ev.ERS_NARROW 0 p (effWidth p d) d else d

/-- The columns of a segment on a line: column c on the member at place (c + SEG) mod k; nothing when a member has no block. -/
def lineColumns (line : List Nat) (seg w : Nat) (d : Dev) : Option (List Col) :=
  let k := line.length
  (List.range (w + 2)).foldr (fun c acc =>
    match acc, (line)[(c + seg) % max 1 k]? with
    | some l, some m => (pickBlock m false d).map fun b => { member := m, block := b } :: l
    | _, _ => none) (some [])

/-- The W of a segment that opens now (R409); no more than the lines of the generation in force hold (log entry 71). -/
def segWidth (p : Nat) (d : Dev) : Nat := min (min (getPool p d).w (effWidth p d)) (((getPool p d).lines.head?.getD []).length - 2)

/-- The members of a line that are not declared failed since its generation was built. -/
def liveLine (q : Pool) (i : Nat) (d : Dev) : List Nat :=
  ((q.lines[i % 1024]?).getD []).filter fun m => !(tget {} d.md.members m).declared

/-- The first line from the pointer on which a segment can open, and the tries it took (R418). -/
def findLine (q : Pool) (seg w : Nat) (d : Dev) : Nat → Nat → Option (Nat × List Col)
  | 0, _ => none
  | n + 1, i =>
    if (liveLine q i d).length ≠ w + 2 then findLine q seg w d n (i + 1)
    else match lineColumns (liveLine q i d) seg w d with
      | some cs => some (i, cs)
      | none => findLine q seg w d n (i + 1)

/-- Open a segment of a pool: data, collection or metadata. Nothing when R358, R409 or R418 forbids it. -/
def openSegment (p : Nat) (gc isMeta : Bool) (d : Dev) : Option (Nat × Dev) :=
  let q := getPool p d
  let w := segWidth p d
  if !q.exists_ || q.lines.isEmpty || (!isMeta && effWidth p d < 8) || (!gc && freeBelow p (rd Reg.MDL_FT_GC_CRIT_PCT d) d)
  then none
  else
    let seg := ownHead d * 2 ^ 39 + d.md.segNext
    match findLine q seg w d 1024 q.linePtr with
    | none => none
    | some (i, cs) =>
      let rpb := (cs.map fun c => (tget {} d.md.members c.member).rpb).foldl min 4096
      let e : Seg := { state := 1, w := w, pool := p, isMeta := isMeta, gc := gc, rpb := rpb, cols := cs }
      let d := { modPool p (fun q => { q with linePtr := (i + 1) % 1024 }) d with md.segNext := d.md.segNext + 1 }
      let d := segBlocks e (fun b => { b with state := 1, seg := seg }) (modSeg seg (fun _ => e) d)
      some (seg, postRecord 0 (.segOpen seg e) (showPools d))

/-- This head opened the segment, or has taken it over (Table 11.3). -/
def ownSeg (s : Nat) (d : Dev) : Bool := s / 2 ^ 39 == ownHead d || d.cas.won || d.cas.castled

/-! ### Rows (R214–R217) -/

/-- A frame header (Table 6.10). -/
def frameHeader (fmt flags slenB gid crc kdom padn : Nat) : Bytes :=
  [0xA7, 0x51] ++ leBytes 1 fmt ++ leBytes 1 flags ++ leBytes 2 slenB ++ leBytes 2 8192 ++ leBytes 8 gid ++ leBytes 8 crc
    ++ leBytes 2 kdom ++ leBytes 1 1 ++ leBytes 1 padn ++ leBytes 4 0

/-- PADN of a payload (R214). -/
def padOf (slenB : Nat) : Nat := (16 - slenB % 16) % 16

/-- Padding frames over the free bytes of a row (R217); fewer than 48 bytes are zeros. -/
def padding : Nat → Nat → Bytes
  | 0, _ => []
  | n + 1, f =>
    if f < 48 then List.replicate f 0
    else
      let l := min f 65568
      let l := if 0 < f - l ∧ f - l < 48 then f - 48 else l
      frameHeader 0 4 (l - 48) 0 0 0 0 ++ List.replicate (l - 32) 0 ++ padding n (f - l)

/-- The segment flags of a row's kind: GC for 1 and 3, META for 2 and 3. -/
def kindGc (kind : Nat) : Bool := kind == 1 || kind == 3
def kindMeta (kind : Nat) : Bool := kind == 2 || kind == 3

/-- The bytes a row has used, and may hold. -/
def rowUsed (r : Row) : Nat := (r.frames.map fun f => 16 * f.slen).sum
def rowSpace (r : Row) (d : Dev) : Nat := (getSeg r.seg d).w * 65536

/-- The data space of a row (R215, R217, R366). -/
def rowBytes (r : Row) (d : Dev) : Bytes :=
  let used := r.frames.flatMap (·.bytes)
  let f := rowSpace r d - used.length
  used ++ (if kindMeta r.kind then List.replicate f 0 else padding (f / 48 + 2) f)

/-- The W + 2 columns of a row (R215, R410). -/
def rowColumns (r : Row) (d : Dev) : List Bytes :=
  let w := (getSeg r.seg d).w
  let b := rowBytes r d
  let data := (List.range w).map fun c => (c, (b.drop (65536 * c)).take 65536)
  data.map (·.2) ++ [parityP 65536 data, parityQ 65536 data]

def getRow (n : Nat) (d : Dev) : Row := tget {} d.stg.rows n
def modRow (n : Nat) (f : Row → Row) (d : Dev) : Dev := { d with stg.rows := tmod {} d.stg.rows n f }

/-- The open segment that a row of a kind goes to. -/
def rowSegment (p kind : Nat) (d : Dev) : Option (Nat × Dev) :=
  match d.md.segs.find? fun s => s.2.state == 1 && s.2.pool == p && s.2.gc == kindGc kind && s.2.isMeta == kindMeta kind
      && !d.ftl.closing.contains s.1 && s.1 / 2 ^ 39 == ownHead d && s.2.nextRow < s.2.rpb with
  | some s => some (s.1, d)
  | none => openSegment p (kindGc kind) (kindMeta kind) d

/-- The open row of an engine and kind (R216, R360). -/
def openRowOf (engine kind : Nat) (d : Dev) : Option Nat :=
  (d.stg.rows.find? fun r => r.2.state == 1 && r.2.engine == engine && r.2.kind == kind).map (·.1)

/-- A frame of a row whose cipher job still runs: its payload and tag are not written (R210). -/
def unsealed (r : Row) (d : Dev) : Bool := r.frames.any fun f => f.slot.any fun n =>
  let s := getSlot n d
  s.state == 4 && s.work.phase == 10

/-- Close a row: it waits for parity, tokens and its turn (R217, R218). A row without frames goes. -/
def closeRow (n : Nat) (d : Dev) : Dev :=
  if (getRow n d).frames.isEmpty then { d with stg.rows := tset {} d.stg.rows n {} } else modRow n (fun r => { r with state := 2 }) d

/-- Open a row for an engine in the next row of the segment in use. -/
def openRow (engine p kind : Nat) (d : Dev) : Option (Nat × Dev) :=
  match rowSegment p kind d with
  | none => none
  | some (s, d) =>
    let n := d.stg.rowNext
    let r : Row := { kind := kind, engine := engine, pool := p, seg := s, row := (getSeg s d).nextRow, state := 1, first := tempoNow d }
    some (n, { modSeg s (fun g => { g with nextRow := g.nextRow + 1 }) d with
      stg.rows := tset {} d.stg.rows n r, stg.rowNext := n + 1 })

/-- Place a frame at the next offset of the engine's open row, closing the row first when it does not fit or belongs to another
pool (R210, R216, R217). Answers the row; without one the frame is not placed. -/
def placeFrame (engine p kind : Nat) (f : FrameRef) (d : Dev) : Option Nat × Dev :=
  let d := match openRowOf engine kind d with
    | some n =>
      let r := getRow n d
      if r.pool != p || rowUsed r + 16 * f.slen > rowSpace r d then closeRow n d else d
    | none => d
  let go : Option (Nat × Dev) := match openRowOf engine kind d with
    | some n => some (n, d)
    | none => openRow engine p kind d
  match go with
  | some (n, d) => (some n, modRow n (fun r => { r with
      frames := r.frames ++ [{ f with off := rowUsed r / 16 }], first := if r.frames.isEmpty then tempoNow d else r.first }) d)
  | none => (none, d)

/-- Frames in rows of a size, in their order, each at its offset in its row. -/
def packRows (space : Nat) (fs : List FrameRef) : List (List FrameRef) :=
  let used (g : List FrameRef) : Nat := (g.map fun f => f.slen).sum
  (fs.foldl (fun (acc : List (List FrameRef)) f => match acc with
    | g :: gs => if 16 * (used g + f.slen) ≤ space then (g ++ [{ f with off := used g }]) :: gs else [{ f with off := 0 }] :: g :: gs
    | [] => [[{ f with off := 0 }]]) []).reverse

/-- The frames of a row enter closed rows of a segment unchanged (R220). -/
def refillRows (r : Row) (s : Nat) (d : Dev) : Dev :=
  (packRows ((getSeg s d).w * 65536) r.frames).foldl (fun d fs =>
    let n := d.stg.rowNext
    let x : Row := { kind := r.kind, engine := r.engine, pool := r.pool, seg := s, row := (getSeg s d).nextRow, frames := fs, first := r.first, state := 2 }
    { modSeg s (fun g => { g with nextRow := g.nextRow + 1 }) d with stg.rows := tset {} d.stg.rows n x, stg.rowNext := n + 1 }) d

/-- Requeue the frames of rows unchanged, with GID and ciphertext, into rows of a newly opened segment; while none opens they wait, and
their slots stay PACKED (R220, R655). -/
def requeueRows (l : List Nat) (d : Dev) : Dev :=
  (l.foldl (fun (acc : Option Nat × Dev) n =>
    let (s, d) := acc
    let r := getRow n d
    let d := dropPipe 5 (.row n) { d with stg.rows := tset {} d.stg.rows n {} }
    if r.frames.isEmpty then (s, d)
    else match s with
      | some s => (some s, refillRows r s d)
      | none => match openSegment r.pool (kindGc r.kind) (kindMeta r.kind) d with
        | some (s, d) => (some s, refillRows r s d)
        | none => (none, { d with stg.rows := tset {} d.stg.rows n {
            kind := r.kind, engine := r.engine, pool := r.pool, frames := r.frames, first := r.first, state := 4 } })) (none, d)).2

/-! ### Closing segments and retiring blocks (R355, R370–R372, R655) -/

/-- Commit SEG_CLOSE of a segment that waits for no row. -/
def commitClose (s : Nat) (short : Bool) (d : Dev) : Dev :=
  postRecord 0 (.segClose s (getSeg s d).rows short) { d with ftl.closing := d.ftl.closing.filter (· != s) }

/-- Rows of a segment that are issued, and rows that are not. -/
def rowsOf (s : Nat) (issued : Bool) (d : Dev) : List Nat :=
  (d.stg.rows.filter fun r => r.2.seg == s && r.2.state != 0 && (r.2.state == 3) == issued).map (·.1)

/-- A segment that is being closed short closes when its last issued row has ended (R655). -/
def closeWhenIdle (s : Nat) (d : Dev) : Dev :=
  if d.ftl.closing.contains s && (rowsOf s true d).isEmpty then commitClose s true d else d

/-- Close an OPEN segment short (R655). -/
def closeShort (s : Nat) (d : Dev) : Dev :=
  if (getSeg s d).state ≠ 1 ∨ d.ftl.closing.contains s then d
  else
    let d := { d with ftl.closing := d.ftl.closing ++ [s] }
    closeWhenIdle s (requeueRows (rowsOf s false d) d)

/-- Queue a segment for relocation (R359). -/
def queueReloc (s : Nat) (d : Dev) : Dev :=
  if d.ftl.reloc.contains s || (getSeg s d).state != 2 then d
  else { modSeg s (fun g => { g with relocate := true }) d with ftl.reloc := d.ftl.reloc ++ [s] }

/-- A column of a segment counts FAILED: its bit is set, its member is declared (R424). -/
def colFailed (c : Col) (d : Dev) : Bool := c.failed || (tget {} d.md.members c.member).declared
def failedCols (s : Nat) (d : Dev) : Nat := ((getSeg s d).cols.filter fun c => colFailed c d).length

/-- Show the rebuild queue (Table 13.8). -/
def showRebuild (d : Dev) : Dev :=
  let two := d.ftl.rebuild.any fun r => failedCols r.seg d ≥ 2
  let grace := d.lanes12.any fun l => l.2.absent.isSome && (tget {} d.md.members l.1).adopted && !(tget {} d.md.members l.1).declared
  let phase := if d.ftl.rebuild.isEmpty then b2n grace else if two then 3 else 2
  wr Reg.ERS_RB_ST_PHASE phase (wr Reg.ERS_RB_ST_SEGS_LEFT d.ftl.rebuild.length
    (wr Reg.ERS_STATUS_REBUILDING (b2n !d.ftl.rebuild.isEmpty) d))

/-- A segment comes before another in the rebuild queue (R425). -/
def rebuildBefore (a b : Rebuild) (d : Dev) : Bool :=
  let x := getSeg a.seg d
  let y := getSeg b.seg d
  let p := failedCols a.seg d
  let q := failedCols b.seg d
  q < p || (p == q && ((x.isMeta && !y.isMeta) || (x.isMeta == y.isMeta && (y.live < x.live || (x.live == y.live && a.seg < b.seg)))))

/-- Insert in rank order. -/
def rankIn (r : Rebuild) (d : Dev) : List Rebuild → List Rebuild
  | [] => [r]
  | x :: xs => if rebuildBefore r x d then r :: x :: xs else x :: rankIn r d xs
def rerank (d : Dev) : Dev := showRebuild { d with ftl.rebuild := d.ftl.rebuild.foldl (fun l r => rankIn r d l) [] }

/-- A segment with a FAILED column enters the rebuild queue of the head that opened it (R424, R425). -/
def queueRebuild (s : Nat) (d : Dev) : Dev :=
  let g := getSeg s d
  if g.state != 2 || failedCols s d = 0 || !ownSeg s d then d
  else rerank (if d.ftl.rebuild.any (·.seg == s) then d else { d with ftl.rebuild := d.ftl.rebuild ++ [{ seg := s }] })

/-- Retire a block (R370–R372): causes of Table 11.7. -/
def retireBlock (m b cause : Nat) (d : Dev) : Dev :=
  let x := getBlk m b d
  if x.state = 2 || x.state = 3 then d
  else
    let d := modBlk m b (fun x => { x with state := if cause = 5 then 3 else 2 }) d
    let d := bump Reg.MDL_FT_CNT_RETIRED (postRecord 0 (.blockRetire m b cause) d)
    let d := notice Ev.FT_RETIRE (unitOf 0xA m) b cause d
    let g := getSeg x.seg d
    let d := if x.state ≠ 1 then d
      else if g.state = 1 then closeShort x.seg d
      else if g.state = 2 then
        let d := modSeg x.seg (fun g => { g with
          cols := g.cols.map fun c => if c.member = m ∧ c.block = b then { c with failed := true } else c }) d
        queueRebuild x.seg (queueReloc x.seg d)
      else d
    let gone := ((blkRecords m d).filter fun r => r.2.state == 2).length
    let mem := tget {} d.md.members m
    if cause ≠ 5 ∧ 1000 * gone > rd Reg.MDL_FT_RET_MEMBER_PCT d * mem.nblocks ∧ !mem.declared ∧ !d.ftl.declare.contains m then
      raiseC Ev.FT_MEMBER_WEAR (unitOf 0xA m) b 0 (setb Reg.MDL_FT_STATUS_MEMBER_WEAR { d with ftl.declare := d.ftl.declare ++ [m] })
    else showPools d

/-! ### Lost granules (R340, R434–R436) -/

/-- The pool whose segments hold a metadata page: that of a GTE page's GIDs, else the lowest pool (the model's own). -/
def pagePool (page : Nat) (d : Dev) : Nat :=
  if page / 2 ^ 60 = 2 then gidPool (page % 2 ^ 60 * 128) else ((d.md.pools.find? fun p => p.2.exists_).map (·.1)).getD 0

/-- Write a metadata page: its frame goes into a row of a metadata segment; the bytes of the page's image are left open. Engine
number 64 stands for the flash-translation engines; `kind` is the row's, 3 for a page that collection or rebuild writes (R358). -/
def placePage (kind page : Nat) (d : Dev) : Bool × Dev :=
  let (bytes, d) := drawBytes 4160 d
  match placeFrame 64 (pagePool page d) kind ⟨page, none, 0, 260, bytes, none⟩ d with
  | (some _, d) => (true, { d with ftl.dirty := d.ftl.dirty.filter (· != page) })
  | (none, d) => (false, d)

/-- Write pages; those that no segment takes are left. -/
def writePages (ps : List Nat) (d : Dev) : List Nat × Dev :=
  ps.foldl (fun acc p => match placePage 2 p acc.2 with
    | (true, d) => (acc.1, d)
    | (false, d) => (acc.1 ++ [p], d)) ([], d)

/-- Write one page that collection or rebuild calls for, with what it newly says, and have its row programmed; answers whether a segment
took it (R429, R435). -/
def writeNews (page : Nat) (x : PageNews) (d : Dev) : Bool × Dev :=
  let (ok, d) := placePage 3 page { d with ftl.news := d.ftl.news ++ [(page, x)] }
  (ok, match openRowOf 64 3 d with
    | some n => closeRow n d
    | none => d)

/-- Mark a granule LOST (R340, R434, R435, R436). -/
def markLost (g cause missing : Nat) (d : Dev) : Dev :=
  let e := getGte g d
  if e.refcnt = 0 || e.lost then d
  else
    let x : LossEntry := ⟨g, e.seg * 2 ^ 24 + e.row * 2 ^ 12, tempoNow d, cause, 1, missing⟩
    let d := (writeNews (2 * 2 ^ 60 + g / 128) (.lost x) (putGte g { e with lost := true } d)).2
    addLoss x (bump Reg.ERS_LOSS_LOST d)

/-! ### Issuing and ending rows (R218–R220, R353) -/

/-- The engines of the clusters that serve a function, but those quarantined (R20). -/
def engines (f : Nat) (d : Dev) : List Nat := those 64 fun e => rd (Reg.CL_CTRL_FUNCTION (e / 8)) d == f && !engineOut e d

/-- The flash-translation engine that issues a row (a choice of the model's own among the engines of their clusters). -/
def rowEngine (n : Nat) (d : Dev) : Nat :=
  let es := engines 2 d
  (es[n % max 1 es.length]?).getD 0

/-- The engine that scrubs a segment: of a replication cluster, or of a flash-translation cluster where no cluster serves replication
(R20; which engine is a choice of the model's own). -/
def scrubEngine (n : Nat) (d : Dev) : Nat :=
  let es := engines (careFn d) d
  (es[n % max 1 es.length]?).getD 0

/-- A closed row whose turn it is: earlier rows of its segment are issued or done, and fewer than two are in flight (R219). -/
def rowTurn (n : Nat) (d : Dev) : Bool :=
  let r := getRow n d
  r.state == 2 && !(d.stg.rows.any fun x => x.2.seg == r.seg && x.2.row < r.row && (x.2.state == 1 || x.2.state == 2))
    && (rowsOf r.seg true d).length < 2

/-- Issue the program of all columns of a row (R218). -/
def issueRow (n : Nat) (d : Dev) : Dev :=
  let r := getRow n d
  let g := getSeg r.seg d
  let cs := rowColumns r d
  let d := modRow n (fun r => { r with state := 3 }) d
  (g.cols.zip (List.range g.cols.length)).foldl (fun d c =>
    issueWrite c.1.member { opcode := 0x11, block := c.1.block, unit := r.row, data := (cs[c.2]?).getD [], use := .column n c.2 } d) d

/-! ### Transactions (R201, R202, R221, R658) -/

/-- The mask of listed units of an entry (R202). -/
def entryMask (s : Slot) (d : Dev) : Nat :=
  if s.kind ≠ 0 then 0
  else if s.valid = 65535 then s.work.mask
  else
    let listed := tget 0 (getNs s.nsid d).unread s.square
    (listed &&& (65535 - s.valid)) ||| s.work.mask

/-- The tag record that a slot's transaction writes in a format with protection information: for the units the slot holds its tags, or
all-ones where it came without (a replica's square, parts zeroed; R173, Table 17.6 rule 9); for the others the square's, or all-ones
where the square is unmapped or all-zero (R174). -/
def entryTags (s : Slot) (d : Dev) : Bytes :=
  let ns := getNs s.nsid d
  if s.kind ≠ 0 || metaSize ns.lbaf = 0 then []
  else
    let old := if gidNil (mapGet ns.root ns.depth s.square d) then [] else tagsGet ns.root ns.depth s.square d
    let own := if s.tags then s.tagArea else []
    let entry (rec : Bytes) (b : Nat) : Bytes := if rec.isEmpty then blankTag ns.lbaf else (rec.drop (8 * b)).take 8
    (List.range (blocksPerSquare ns.lbaf)).flatMap fun b =>
      entry (if bitOf s.valid (blockSize ns.lbaf * b / 512) then own else old) b

/-- The SQUARES entry of a PACKED slot; its frame's place when it has one. -/
def slotEntry (n : Nat) (place : Option (Nat × Nat × FrameRef)) (d : Dev) : SqEntry :=
  let s := getSlot n d
  let w := s.work
  let ns := getNs s.nsid d
  if w.action = 12 then { square := s.square, slot := some n, action := 12 }
  else
    let gte := match place, w.gte with
      | some (seg, row, f), some g => some { g with
          seg := seg, row := row, off := f.off, slen := f.slen, refcnt := if w.insert then 2 else 1, indexed := w.insert }
      | _, _ => none
    { square := s.square, newGid := w.newGid, oldGid := mapGet ns.root ns.depth s.square d, slot := some n, action := w.action
      insert := w.insert, mask := entryMask s d, tags := entryTags s d, gte := gte
      fp := if w.action = 3 ∨ w.action = 4 then [] else w.fp, sub := w.hint }

/-- Cut a list into pieces of at most 64. -/
def pieces : Nat → List SqEntry → List (List SqEntry)
  | 0, _ => []
  | _, [] => []
  | k + 1, l => l.take 64 :: pieces k (l.drop 64)

/-- The foreign GIDs that the leaf copies of a transaction would gain (R444, R445). -/
def foreignGains (nsid : Nat) (es : List SqEntry) (d : Dev) : List Nat :=
  let r : JRecord := { tsn := 0, tempo := 0, nsid := nsid, head := ownHead d, body := .squares es }
  let repl := (es.filter fun e => e.action ≤ 4).map (·.square)
  let (c, _) := (es.filter fun e => e.action ≤ 4).foldl (fun acc e => applySquare false r repl e acc) ({}, d)
  c.gains.filter fun g => !gidLocal g d

/-- Post a transaction; one whose leaf copies gain foreign GIDs waits for their reference adds, and the GIDs stand on the doubt list
until it commits (R445). The FPTAG of a foreign GTE is not held here: an add without it expects an open word. -/
def postTx (nsid : Nat) (es : List SqEntry) (d : Dev) : Dev :=
  match foreignGains nsid es d with
  | [] => postRecord nsid (.squares es) d
  | gs =>
    let d := { d with fiu.doubt := (d.fiu.doubt ++ gs).eraseDups }
    let (adds, d) := gs.foldl (fun (acc : List GainAdd × Dev) g =>
      let (v, d) := drawNat (2 ^ 32) acc.2
      (acc.1 ++ [{ gid := g, expect_ := firstWord v }], send (.refAdd g (firstWord v)) d)) ([], d)
    { d with stg.heldTx := tset ⟨0, [], [], []⟩ d.stg.heldTx d.stg.heldNext ⟨nsid, es, adds, gs⟩, stg.heldNext := d.stg.heldNext + 1 }

/-- Build the transactions of some entries: by namespace, at most 64 entries each (R221). Entries of a replication batch wait for the
batch's own transaction (R459). -/
def postSquares (es : List (Nat × SqEntry)) (d : Dev) : Dev :=
  let batch (e : SqEntry) : Option Nat := e.slot.bind fun n => (getSlot n d).batch
  let d := es.foldl (fun d e => match batch e.2 with
    | some b => { d with
        stg.batches := tset [] d.stg.batches b (tget [] d.stg.batches b ++ [e.2])
        todo := d.todo ++ [.batchReady (b / 2 ^ 32) (b % 2 ^ 32)] }
    | none => d) d
  let es := es.filter fun e => (batch e.2).isNone
  forEach ((es.map (·.1)).eraseDups) (fun ns d =>
    let mine := (es.filter fun e => e.1 == ns).map (·.2)
    (pieces (mine.length + 1) mine).foldl (fun d p => postTx ns p d) d) d

/-- PACKED slots of an engine without a frame, that state's write acknowledged (R191, R658). -/
def frameless (engine : Nat) (d : Dev) : List Nat :=
  (d.stg.slots.filter fun s => s.2.state == 5 && !s.2.unacked && s.2.work.phase == 8 && s.2.work.engine == engine).map (·.1)

/-- A slot's transaction is built: it is no longer among the frameless ones. -/
def marked (l : List Nat) (d : Dev) : Dev := forEach l (fun n d => modSlot n (fun s => { s with work := { s.work with phase := 9 } }) d) d

/-- The frame of a re-encrypted granule is programmed: its image has its place (R312). -/
def rekeyed (r : Row) (f : FrameRef) (d : Dev) : Dev :=
  { d with keys.rotMap := d.keys.rotMap.map fun (x : Nat × Rekey) =>
      if x.2.newGid = f.gid ∧ x.2.state = 1 then
        (x.1, { x.2 with state := 2, gte := { x.2.gte with seg := r.seg, row := r.row, off := f.off } })
      else x }

/-- The transactions of a programmed host row (R221). -/
def commitRow (r : Row) (d : Dev) : Dev :=
  let framed := (r.frames.filterMap fun f => f.slot.map fun s => (s, some (r.seg, r.row, f))).filter fun x => (getSlot x.1 d).state == 5
  let free := (frameless r.engine d).map fun s => (s, (none : Option (Nat × Nat × FrameRef)))
  let es := (framed ++ free).map fun x => ((getSlot x.1 d).nsid, slotEntry x.1 x.2 d)
  let d := (r.frames.filter (·.slot.isNone)).foldl (fun d f => rekeyed r f d) d
  postSquares es (marked (free.map (·.1)) d)

/-- A row is programmed (R219): its blocks' stamps, its segment's row count, its transactions (R221, R349, R353, R362). -/
def rowDone (n : Nat) (d : Dev) : Dev :=
  let r := getRow n d
  let d := { d with stg.rows := tset {} d.stg.rows n {} }
  let d := modSeg r.seg (fun g => { g with rows := r.row + 1 }) d
  let d := if r.row ≠ 0 then d else (getSeg r.seg d).cols.foldl (fun d c =>
    let t := signedOf 16 (rd (Reg.MDL_TEMP_TEMP c.member) d)
    modBlk c.member c.block (fun b => { b with stamp := tempoNow d / 2 ^ 20, temp := t, hint := none }) d) d
  let d := match r.kind with
    | 0 => commitRow r d
    | 1 =>
      let moves := r.frames.filterMap fun f => f.src.map fun s => (f.gid, s, (r.seg, r.row, f.off))
      if moves.isEmpty then d else postRecord 0 (.gcMove moves) d
    | _ =>
      let named (x : Nat × PageNews) : Bool := r.frames.any (·.gid == x.1)
      postNews 0 (.pageMap (r.frames.map fun f =>
        (f.gid, r.seg * 2 ^ 24 + r.row * 2 ^ 12 + f.off / 260,
          match f.src with
          | some (s, w, o) => s * 2 ^ 24 + w * 2 ^ 12 + o
          | none => 0))) ((d.ftl.news.filter named).map (·.2)) { d with ftl.news := d.ftl.news.filter fun x => !named x }
  let g := getSeg r.seg d
  if d.ftl.closing.contains r.seg then closeWhenIdle r.seg d
  else if g.rows = g.rpb then commitClose r.seg false d else d

/-- Burn a row (R220): its frames are requeued unchanged, its segment closes short. A later row of the segment that is in flight can no
longer count as programmed (R219): its frames are requeued when its programs have ended. -/
def burnRow (n : Nat) (d : Dev) : Dev :=
  let r := getRow n d
  let d := if d.ftl.closing.contains r.seg then d else { d with ftl.closing := d.ftl.closing ++ [r.seg] }
  let d := requeueRows (n :: rowsOf r.seg false d) d
  let d := forEach (rowsOf r.seg true d) (modRow · fun x => { x with void := true }) d
  closeWhenIdle r.seg (notice Ev.WR_ROW_BURN 0 (r.seg * 2 ^ 24 + r.row * 2 ^ 12) r.frames.length d)

/-! ### Flush groups (R377, R422, R654) -/

/-- How many blocks of a member of a group hold one side of the flush image: chunks are spread evenly over the group. -/
def sideNeed (g : List Nat) (m : Nat) (d : Dev) : Nat :=
  let blk := (tget {} d.md.members m).rpb * 65536 * g.length
  if blk = 0 then 0 else (flushCapMiB d * 2 ^ 20 + blk - 1) / blk

/-- Reserve `k` blocks of a member for a side of the flush image; answers them. -/
def reserveSide (m : Nat) : Nat → List Nat → Dev → List Nat × Dev
  | 0, l, d => (l, d)
  | k + 1, l, d =>
    match pickBlock m false d with
    | some b => reserveSide m k (l ++ [b]) (modBlk m b (fun x => { x with state := 4 }) d)
    | none => (l, d)

/-- Reserve the blocks of both sides on a member that has none (R377). -/
def reserveSides (g : List Nat) (m : Nat) (d : Dev) : Dev :=
  forEach [0, 1] (fun side d =>
    let key := side * 64 + m
    if (tget [] d.ftl.sideBlocks key).isEmpty then
      let (l, d) := reserveSide m (sideNeed g m d) [] d
      { d with ftl.sideBlocks := tset [] d.ftl.sideBlocks key l }
    else d) d

/-- The flush groups of this head: adopted members of its lane parity, by file modulo 3 (a choice of the model's own; R377, R422). A
first armed side needs three groups with members; its blocks are FREE ones, which are erased. -/
def chooseGroups (d : Dev) : Dev :=
  let ms := (d.md.members.filter fun m => m.2.adopted && !m.2.declared && (!d.cas.hasPeer || m.1 % 2 == ownHead d)).map (·.1)
  let d := { d with ftl.groups := (List.range 3).map fun g => ms.filter fun m => fileOf m d % 3 == g }
  let d := wr Reg.MDL_FT_TTCAP_CAP (flushCapMiB d) (wr Reg.MDL_FT_TTCAP_SLOTS (flushSlots d) d)
  let d := d.ftl.groups.foldl (fun d g => forEach g (reserveSides g) d) d
  if d.ftl.armed.isNone && d.ftl.groups.all (fun g => !g.isEmpty) then { d with ftl.armed := some 0 } else d

/-! ### Rebuild rows (R427) -/

def getRebuild (s : Nat) (d : Dev) : Option Rebuild := d.ftl.rebuild.find? (·.seg == s)
def modRebuild (s : Nat) (f : Rebuild → Rebuild) (d : Dev) : Dev :=
  { d with ftl.rebuild := d.ftl.rebuild.map fun r => if r.seg = s then f r else r }

/-- A rebuild row's programs have all ended (R427). In success each replacement holds one row more. Otherwise every replacement of the
segment is given up: its blocks are armed for erase, and the rebuild starts again from row 0 (the spec names no other course). -/
def rebuildRowEnded (n : Nat) (d : Dev) : Dev :=
  let r := getRow n d
  if r.kind ≠ 4 ∨ r.cols.length ≠ r.want then d
  else
    let d := endHold (.engine r.engine) 3 { d with stg.rows := tset {} d.stg.rows n {} }
    if r.cols.all (·.2 == 1) then
      let hit := r.cols.map (·.1)
      bump Reg.ERS_RB_ROWS_DONE (modRebuild r.seg (fun b => { b with
        repl := (b.repl.zip (List.range b.repl.length)).map fun x => if hit.contains x.2 then { x.1 with done := r.row + 1 } else x.1 }) d)
    else
      let old := ((getRebuild r.seg d).map (·.repl)).getD []
      let keys := (old.filter fun x => (getBlk x.member x.block d).state == 1).map fun x => blkKey x.member x.block
      modRebuild r.seg (fun b => { b with repl := [] }) { d with ftl.gate := d.ftl.gate ++ keys }

end Sys2Proof.Machine
end

