-- ==== Sys2Proof/Machine/Sessions.lean ====
section
/-!
DEFINITION. Replication sessions and messages (spec/14_snapshots_and_replication.md, R452–R455).
-/

namespace Sys2Proof.Machine

def getPeer (p : Nat) (d : Dev) : PeerSess := tget {} d.repl.peers p
def modPeer (p : Nat) (f : PeerSess → PeerSess) (d : Dev) : Dev := { d with repl.peers := tmod {} d.repl.peers p f }

/-- An admitted replication peer (R452). -/
def sptPeer (p : Nat) (d : Dev) : Option SptPeer × Dev :=
  let (t, d) := sptRead (.peer p) d
  match t with
  | some t => let e := tget {} t.peers p; (if e.valid then some e else none, d)
  | none => (none, d)

/-- The sender opens a session (R453): a fresh key, wrapped under the replication-peer key. Nothing while the peer is not admitted or
its key cannot be used. -/
def openSession (p : Nat) (d : Dev) : Dev :=
  match sptPeer p d with
  | (none, d) => d
  | (some e, d) => match useKey 3 e.keyIndex 0 d with
    | (.error _, d) => d
    | (.ok kek, d) =>
      let (k, d) := drawBytes 32 d
      let n := d.repl.nextSess
      let d := modPeer p (fun x => { x with txNew := some { num := n, key := k, since := d.tmp.sec } }) d
      send (.repl p 0 (.sessionOpen n (kwpWrap kek k))) { d with repl.nextSess := n + 1 }

/-- Send a message in the peer's session; without one it waits, and a session is opened (R453, R454). -/
def sendRepl (p : Nat) (m : ReplMsg) (d : Dev) : Dev :=
  if !replOn d then d
  else match (getPeer p d).tx with
  | some s => send (.repl p s.num m) (modPeer p (fun x => { x with tx := some { s with packets := s.packets + 1 } }) d)
  | none =>
    let d := { d with repl.queue := d.repl.queue ++ [(p, m)] }
    if (getPeer p d).txNew.isSome then d else openSession p d

/-- The messages that waited for a peer's session go. -/
def flushQueue (p : Nat) (d : Dev) : Dev :=
  let mine := d.repl.queue.filter fun q => q.1 == p
  mine.foldl (fun d q => sendRepl p q.2 d) { d with repl.queue := d.repl.queue.filter fun q => q.1 != p }

end Sys2Proof.Machine
end

