-- ==== Sys2Proof/Machine/Zstd.lean ====
section
/-!
DEFINITION. Zstandard frames (spec/08_compression_and_digest.md, R268, R272).
-/

namespace Sys2Proof.Machine

/-- The low 32 bits of XXH64. -/
def xsum (m : Bytes) : Nat := Config.xxh64 m % 2 ^ 32

/-- The frame of a ONESHOT job (R268): single segment, content size of 1, 2 or 4 bytes, checksum when asked for. -/
def zstdFrame (effort : Nat) (chk : Bool) (m : Bytes) : Bytes :=
  let n := m.length
  let fcs := if n < 256 then leBytes 1 n else if n < 65792 then leBytes 2 (n - 256) else leBytes 4 n
  let flag := if n < 256 then 0 else if n < 65792 then 0x40 else 0x80
  [0x28, 0xB5, 0x2F, 0xFD] ++ leBytes 1 (flag + 0x20 + 4 * b2n chk) ++ fcs ++ Config.zstdBlocks effort m
    ++ (if chk then leBytes 4 (xsum m) else [])

/-- A frame header (RFC 8878): its length, the content size it gives, the window size, whether a checksum follows; nothing for a
format outside the accepted subset (R272). The input may end inside it. -/
def zstdHeader (m : Bytes) : Option (Nat × Option Nat × Nat × Bool) :=
  let fhd := fld m 4 1
  let single := bitOf fhd 5
  let dictLen := (([0, 1, 2, 4] : List Nat)[fhd % 4]?).getD 0
  let fcsLen := if fhd / 64 = 0 then b2n single else 2 ^ (fhd / 64)
  let w0 := 5 + b2n (!single)
  let wd := fld m 5 1
  let fcs0 := fld m (w0 + dictLen) fcsLen
  let fcs := if fcsLen = 2 then fcs0 + 256 else fcs0
  let window := if single then fcs else 2 ^ (10 + wd / 8) + 2 ^ (10 + wd / 8) / 8 * (wd % 8)
  if fld m 0 4 ≠ 0xFD2FB528 || bitOf fhd 3 || fld m w0 dictLen ≠ 0 then none
  else some (w0 + dictLen + fcsLen, if fcsLen = 0 then none else some fcs, window, bitOf fhd 2)

/-- The content of a whole frame with the content size and the checksum that a frame of the device carries (R209, R330). -/
def zstdOpenFrame (m : Bytes) (size : Nat) : Option Bytes :=
  match zstdHeader m with
  | none => none
  | some (hdr, fcs, window, chk) =>
    if fcs != some size || window > 131072 || !chk then none
    else match Config.zstdContent window (m.drop hdr) with
      | none => none
      | some (c, used) => if c.length == size && hdr + used + 4 == m.length && fld m (hdr + used) 4 == xsum c then some c else none

end Sys2Proof.Machine
end

