-- ==== Sys2Proof/Machine/ReadOps.lean ====
section
/-!
DEFINITION. Reads of granules: where a square's data comes from, page reads, verification, rebuild on read, lost granules, foreign
granules, repair, and the end of a host read (spec/10_read_pipeline.md, R315–R347).
-/

namespace Sys2Proof.Machine

/-- The squares a range of blocks touches: square, its first byte in the square, its bytes (R192). -/
def squaresOf (lbaf slba n : Nat) : List (Nat × Nat × Nat) :=
  let lo := slba * blockSize lbaf
  let hi := (slba + n) * blockSize lbaf
  if n = 0 then []
  else (List.range ((hi - 1) / 8192 + 1 - lo / 8192)).map fun i =>
    let k := lo / 8192 + i
    let a := max lo (8192 * k) - 8192 * k
    let b := min hi (8192 * (k + 1)) - 8192 * k
    (k, a, b - a)

/-! ### Read jobs -/

def getJob (j : Nat) (d : Dev) : ReadJob := tget { who := .rekey, gid := 0, img := {} } d.stg.reads j
def modJob (j : Nat) (f : ReadJob → ReadJob) (d : Dev) : Dev :=
  { d with stg.reads := tmod { who := .rekey, gid := 0, img := {} } d.stg.reads j f }
def dropJob (j : Nat) (d : Dev) : Dev := { d with stg.reads := tdel j d.stg.reads }

/-- An erase block has reader references (R321). -/
def hasReaders (m b : Nat) (d : Dev) : Bool :=
  d.stg.reads.any fun r => r.2.state == 0 && r.2.res.isNone && r.2.pages.any fun p => p.member == m && p.block == b

/-- The data columns that a frame covers, with its first byte and length in each (R322). -/
def frameColumns (e : Gte) : List (Nat × Nat × Nat) :=
  let b := 16 * e.off
  let l := 16 * e.slen
  let c := b / 65536
  let first := min l (65536 * (c + 1) - b)
  (c, b % 65536, first) :: (if first < l then [(c + 1, 0, l - first)] else [])

/-- The bytes of a module page. -/
def pageSize (m : Nat) (d : Dev) : Nat := 2 ^ (10 + (tget {} d.md.members m).pgsz)

/-- The pages of one column that hold bytes of the frame. -/
def columnPages (e : Gte) (c : Col) (lo len : Nat) (d : Dev) : List PageRead :=
  let ps := pageSize c.member d
  let a := e.row * 65536 + lo
  let s := startSet c.member c.block d
  (List.range ((a + len - 1) / ps + 1 - a / ps)).map fun i => {
    member := c.member, block := c.block, page := a / ps + i, start := s, tried := [s], cur := s }

/-- Issue the read of page `i` of a job with its current set (R324). -/
def readPage (j i : Nat) (d : Dev) : Dev :=
  match (getJob j d).pages[i]? with
  | some p => laneIssue p.member { opcode := 0x10, block := p.block, unit := p.page, npages := 1, set := p.cur, use := .page j i } d
  | none => d

/-- Read the pages of a job's frame (R321, R322); a column whose member is failed or absent goes to rebuild on read (R323). -/
def readPages (j : Nat) (d : Dev) : Dev :=
  let r := getJob j d
  let g := getSeg r.img.seg d
  let cols := (frameColumns r.img).map fun c => (((g.cols)[c.1]?).getD {}, c)
  if cols.any fun c => colFailed c.1 d || !memberOk c.1.member d then modJob j (fun r => { r with state := 3 }) d
  else
    let ps := cols.flatMap fun c => columnPages r.img c.1 c.2.2.1 c.2.2.2 d
    forEach (List.range ps.length) (readPage j) (modJob j (fun r => { r with state := 0, pages := ps }) d)

/-! ### Guards and tags (R172–R174) -/

/-- CRC-16 with polynomial 0x8BB7, most significant bit first (T10 DIF; PRESUMED). -/
def crc16 (b : Bytes) : Nat :=
  b.foldl (fun c x => (List.range 8).foldl (fun c i =>
    let t := bitOf c 15 != bitOf x.toNat (7 - i)
    if t then (c * 2 % 65536) ^^^ 0x8BB7 else c * 2 % 65536) c) 0

/-- The guard of a block's data (R173, R174). -/
def guardOf (lbaf : Nat) (b : Bytes) : Nat := if metaSize lbaf = 8 then crc16 b else crc64 b

/-- A block's protection information as it travels: guard, application tag, reference tag, big-endian (PRESUMED, NVM Command Set
2.0), and its parts. -/
def piBytes (lbaf guard app ref : Nat) : Bytes :=
  if metaSize lbaf = 8 then beBytes 2 guard ++ beBytes 2 app ++ beBytes 4 ref
  else if metaSize lbaf = 16 then beBytes 8 guard ++ beBytes 2 app ++ beBytes 6 ref else []
def piParts (lbaf : Nat) (b : Bytes) : Nat × Nat × Nat :=
  if metaSize lbaf = 8 then (beNat (b.take 2), beNat ((b.drop 2).take 2), beNat ((b.drop 4).take 4))
  else (beNat (b.take 8), beNat ((b.drop 8).take 2), beNat ((b.drop 10).take 6))

/-- The tags of block `b` in a square's tag record: reference and application tag (Table 5.8); all ones without a record. -/
def tagOf (lbaf : Nat) (rec : Bytes) (b : Nat) : Nat × Nat :=
  if rec.isEmpty then (2 ^ (if metaSize lbaf = 8 then 32 else 48) - 1, 65535)
  else
    let v := leNat ((rec.drop (8 * b)).take 8)
    (v / 65536 % 2 ^ (if metaSize lbaf = 8 then 32 else 48), v % 65536)

/-- The escape value that disables a block's checks: the application tag for types 1 and 2, with the reference tag for type 3. -/
def escaped (pi lbaf ref app : Nat) : Bool :=
  app == 65535 && (pi != 3 || ref == 2 ^ (if metaSize lbaf = 8 then 32 else 48) - 1)

/-- The status of the first check of PRCHK that a block fails, and which: guard 0x282, application 0x283, reference 0x284; `i` the
block's place in the command. -/
def piCheck (ns : Ns) (c : HostCmd) (i : Nat) (guardOk : Bool) (ref app : Nat) : Option Nat :=
  if escaped ns.pi ns.lbaf ref app then none
  else if bitOf c.prchk 2 && !guardOk then some 0x282
  else if bitOf c.prchk 1 && app &&& c.appMask != c.appTag &&& c.appMask then some 0x283
  else if bitOf c.prchk 0 && ns.pi != 3 && ref != (c.refTag + i) % 2 ^ (if metaSize ns.lbaf = 8 then 32 else 48) then some 0x284
  else none

/-- Count a failed check (Table 5.12). -/
def countPi (st : Nat) (d : Dev) : Dev :=
  if st = 0x282 then bump Reg.NVF_PI_GUARD d else if st = 0x283 then bump Reg.NVF_PI_APP d
  else if st = 0x284 then bump Reg.NVF_PI_REF d else d

/-! ### The end of a host read (R333–R336, R347) -/

/-- The blocks of a square that a command covers: place in the command, place in the square. -/
def squareBlocks (ns : Ns) (c : HostCmd) (i : Nat) : List (Nat × Nat) :=
  let n := blocksPerSquare ns.lbaf
  let sq := c.slba / n + i
  ((List.range n).filter fun b => c.slba ≤ sq * n + b && sq * n + b ≤ c.slba + c.nlb).map fun b => (sq * n + b - c.slba, b)

/-- One block of a verified square: data, and the protection information when it travels. -/
def blockOut (ns : Ns) (c : HostCmd) (plain tags : Bytes) (b : Nat) : Bytes :=
  let data := (plain.drop (blockSize ns.lbaf * b)).take (blockSize ns.lbaf)
  let (ref, app) := tagOf ns.lbaf tags b
  data ++ (if c.pract then [] else piBytes ns.lbaf (guardOf ns.lbaf data) app ref)

/-- What a square sends: its blocks that the command covers. -/
def squareOut (n i : Nat) (d : Dev) : Bytes :=
  let f := getFc n d
  let ns := getNs f.cmd.nsid d
  (squareBlocks ns f.cmd i).flatMap fun b => blockOut ns f.cmd (tget [] f.plain i) (tget [] f.tags i) b.2

/-- Where a square's bytes lie in a command's data. -/
def squareOffset (n i : Nat) (d : Dev) : Nat :=
  let f := getFc n d
  let ns := getNs f.cmd.nsid d
  let unit := blockSize ns.lbaf + (if f.cmd.pract then 0 else metaSize ns.lbaf)
  ((List.range i).map fun k => (squareBlocks ns f.cmd k).length * unit).sum

/-- Send the verified squares that may leave as square `i` ends: over RDMA that one; over TCP in increasing order of their offsets, so
one waits until those before it have ended (R333, R334). The transport of a command that the peer has carried here is the peer's to
know; its squares go in order too. -/
def sendSquares (n i : Nat) (d : Dev) : Dev :=
  let f := getFc n d
  let ended (k : Nat) : Bool := f.done.any (·.1 == k)
  let send_ (d : Dev) (k : Nat) : Dev :=
    if f.done.contains (k, (0, false)) then sendData f.cmd (squareOffset n k d) (squareOut n k d) d else d
  if (tget {} d.front.ctxs f.cmd.ctx).rdma && !f.cmd.viaPeer then send_ d i
  else if (List.range i).all ended then
    (i :: ((List.range f.done.length).map (i + 1 + ·)).takeWhile ended).foldl send_ d
  else d

/-- The first failed check of R174 over a command's squares. -/
def readPi (n : Nat) (d : Dev) : Option Nat :=
  let f := getFc n d
  let ns := getNs f.cmd.nsid d
  if metaSize ns.lbaf = 0 then none
  else (f.done.map (·.1)).foldl (fun (r : Option Nat) i =>
    match r with
    | some _ => r
    | none => (squareBlocks ns f.cmd i).foldl (fun (r : Option Nat) b =>
      match r with
      | some _ => r
      | none => let (ref, app) := tagOf ns.lbaf (tget [] f.tags i) b.2; piCheck ns f.cmd b.1 true ref app) none) none

/-- The squares a Read, Compare or Verify touches. -/
def cmdSquares (n : Nat) (d : Dev) : List (Nat × Nat × Nat) :=
  let f := getFc n d
  squaresOf (getNs f.cmd.nsid d).lbaf f.cmd.slba (f.cmd.nlb + 1)

/-- Every square of a command has ended, or a Compare has met a mismatch (R336): the status of the failing square with the lowest number (R347), else the checks of R174,
the comparison of R336, the data (R334). No byte of a square that was not verified goes to a host (R31). -/
def finishRead (n : Nat) (d : Dev) : Dev :=
  let f := getFc n d
  let idx := List.range (cmdSquares n d).length
  match idx.findSome? fun i => let r := tget (0, false) f.done i; if r.1 ≠ 0 then some r else none with
  | some (st, dnr) => complete n st dnr d
  | none =>
    match readPi n d with
    | some st => complete n st true (countPi st d)
    | none =>
      let out := idx.flatMap fun i => squareOut n i d
      match f.op with
      | .compare | .verify => complete n 0 false d
      | _ =>
        let d := if f.cmd.prchk ≠ 0 then sendData f.cmd 0 out d else d
        complete n 0 false d

/-- A square of a host command has ended: verified with its plaintext, or with a status. A verified square of a Read without
checks is sent at once (R333, R334); one of a Compare is compared with the host's data, and the first mismatch ends it (R336). -/
def squareDone (n i st : Nat) (dnr : Bool) (plain : Bytes) (d : Dev) : Dev :=
  let f := getFc n d
  if (getCmd n d).state ≠ 1 || f.ready.isSome then d
  else
    let mask := tget 0 f.fill i
    let base := tget [] f.plain i
    let sq := (List.range 8192).map fun b => if bitOf mask (b / 512) then (plain[b]?).getD 0 else (base[b]?).getD 0
    let d := modFc n (fun f => { f with plain := if st = 0 then tset [] f.plain i sq else f.plain }) d
    let out := squareOut n i d
    let differs := f.op = .compare ∧ st = 0 ∧ out ≠ (f.cmd.data.drop (squareOffset n i d)).take out.length
    let r : Nat × Bool := if differs then (0x285, true) else (st, dnr)
    let d := modFc n (fun f => { f with done := (i, r) :: f.done.filter (·.1 != i) }) d
    let d := if f.op = .read ∧ f.cmd.prchk = 0 then sendSquares n i d else d
    if differs ∨ (getFc n d).done.length = (cmdSquares n d).length then finishRead n d else d

/-- The source, index and generation of the key that stage 2 needs (R328). -/
def frameKey (gid : Nat) (e : Gte) : Nat × Nat × Nat :=
  if e.enc then (1, e.kdom, e.gen) else (2, ikIndex (gidDev gid) (gidPool gid), 0)

/-- The IV of a GID (R211). -/
def gidIv (g : Nat) : Bytes := beBytes 8 g ++ [0, 0, 0, 1]

/-- The payload of a job's frame after decryption, with its format (Table 14.4); the plaintext raw when there is no compressed
frame. -/
def payloadOf (r : ReadJob) (plain : Bytes) (d : Dev) : Nat × Bytes :=
  if r.img.fmt = 0 || r.frame.isEmpty then (0, plain)
  else
    let body := (r.frame.drop 32).take (leNat ((r.frame.drop 4).take 2))
    let (s, i, g) := frameKey r.gid r.img
    (1, if r.img.enc then gcmData ((residentKey s i g d).getD []) (gidIv r.gid) body else body)

/-- A read job ends. A host square takes the result at once; a remote fetch is answered with the frame that stands (R341); one
that an accelerator has failed stays unanswered, since no RESULT says so (R332, R342); a square whose reference the ledger lost and
no replica repairs has its blocks listed (R253); replication takes its own before the command ends; the other requesters take it by their own
command. -/
def endRead (j st : Nat) (dnr : Bool) (plain : Bytes) (d : Dev) : Dev :=
  let r := getJob j d
  match r.who with
  | .host n i => squareDone n i st dnr plain (dropJob j d)
  | .remote dev tag => (if st = 0 then send (.frameReply dev tag 0 r.frame (getGte r.gid d)) else id) (dropJob j d)
  | .fix =>
    let d := dropJob j d
    if st = 0 then d else postTx r.nsid [{ square := r.square, action := 4, mask := 65535 }] d
  | .repl rel b i send_ =>
    let (fmt, pay) := payloadOf r plain d
    { dropJob j d with todo := d.todo ++ [.replRead rel b i send_ st fmt pay plain] }
  | .answer rel tag =>
    let (fmt, pay) := payloadOf r plain d
    { dropJob j d with todo := d.todo ++ [.repairRead rel tag st fmt pay] }
  | _ => modJob j (fun r => { r with state := 6, pages := [], frame := [], res := some (st, dnr, plain) }) d

/-! ### Repair from a replica (R344–R346) -/

/-- FPH and KDOM of the index entry of a GID in the partitions this device serves (R344, Table 7.1). -/
def indexEntryOf (g : Nat) (d : Dev) : Option (Nat × Nat) :=
  d.fiu.buckets.findSome? fun b => b.2.findSome? fun s =>
    if leNat ((s.2.drop 20).take 8) = g && bitOf (leNat ((s.2.drop 28).take 2)) 12 then
      some (beNat (s.2.take 20), leNat ((s.2.drop 28).take 2) % 4096)
    else none

/-- The relationship that a namespace's repair goes over: one of which it is the source. -/
def repairRel (nsid : Nat) (d : Dev) : Option Nat :=
  if !replOn d then none else (d.md.rels.find? fun r => r.2.state != 0 && !r.2.target && r.2.nsid == nsid).map (·.1)

/-- Go to "Repair from a replica", or fail when there is no relationship (R344, R346). A remote fetch is answered DEAD or LOST instead
(R343). -/
def goRepair (j : Nat) (d : Dev) : Dev :=
  let r := getJob j d
  match r.who, repairRel r.nsid d with
  | .remote dev tag, _ => send (.frameReply dev tag (if (getGte r.gid d).refcnt = 0 then 1 else 2) [] (getGte r.gid d)) (dropJob j d)
  | _, none => endRead j 0x281 true [] d
  | _, some k =>
    let e := indexEntryOf r.gid d
    let x := tget {} d.md.rels k
    let due := tempoNow d + tempiFor (x.repairTmo * 1000000) d
    let d := modJob j (fun r => { r with state := 5, rel := k, want := e.map (·.1), pages := [], due := due }) d
    sendRepl x.peer (.repairReq k j (e.map (·.1)) r.square r.img.fptag r.img.crc) d

/-- Repair a square whose granule is dead from a replica by fingerprint, or list its blocks (R253, R445). -/
def fixSquare (g nsid sq : Nat) (d : Dev) : Dev :=
  let j := d.stg.readNext
  let r : ReadJob := { who := .fix, nsid := nsid, square := sq, gid := g, img := getGte g d }
  goRepair j { d with stg.reads := d.stg.reads ++ [(j, r)], stg.readNext := j + 1 }

/-- Repair every square of a live root that maps a dead GID. -/
def fixSquares (g : Nat) (d : Dev) : Dev := (squaresOfGid g d).foldl (fun d x => fixSquare g x.1 x.2 d) d

/-- The data words of a read's event (Table 20.6). -/
def rdData1 (r : ReadJob) : Nat := r.nsid * 2 ^ 32 + r.square % 2 ^ 32

/-- A granule is unrecoverable (R340). -/
def unrecoverable (j : Nat) (d : Dev) : Dev :=
  let r := getJob j d
  let d := markLost r.gid 1 0 d
  let d := raiseC Ev.RD_LOST 0 r.gid (rdData1 r) d
  match r.who with
  | .remote dev tag => send (.frameReply dev tag 4 [] (getGte r.gid d)) (dropJob j d)
  | _ => goRepair j d

/-! ### Lookup (R318–R322, R341) -/

/-- The tempo number by which a FRAME_REPLY must come: 5 ms (R342). -/
def fetchDue (d : Dev) : Nat := tempoNow d + tempiFor 5000000 d

/-- Begin the media read of a job whose image stands: its segment must be in the table (R322). -/
def locate (j : Nat) (d : Dev) : Dev :=
  let r := getJob j d
  if (getSeg r.img.seg d).state = 0 then unrecoverable j (raiseC Ev.RD_BAD_LOC 0 r.gid (rdData1 r) d) else readPages j d

/-- Start reading a granule (R320, R341). -/
def startGranule (who : ReadWho) (nsid sq g restarts : Nat) (d : Dev) : Dev :=
  let j := d.stg.readNext
  let e := getGte g d
  let r : ReadJob := { who := who, nsid := nsid, square := sq, gid := g, img := e, restarts := restarts }
  let d := { d with stg.reads := d.stg.reads ++ [(j, r)], stg.readNext := j + 1 }
  if !gidLocal g d then
    send (.frameFetch (gidDev g) g j (getNs nsid d).domain false) (modJob j (fun r => { r with state := 4, due := fetchDue d }) d)
  else if e.refcnt = 0 then goRepair j (raiseC Ev.RD_DEAD_REF 0 g (rdData1 r) d)
  else if e.lost then goRepair j d
  else locate j d

/-- The newest qualifying slot for a block of a square (R315); slots in FILLING give no data (R165). -/
def blockSlot (nsid sq mask : Nat) (d : Dev) : Option Nat :=
  (slotChain d.stg.slots (d.stg.slots.length + 1) (newestSlot nsid sq d.stg.slots)).find? fun n =>
    let s := getSlot n d
    s.state ≥ 2 && (s.kind != 0 || s.valid &&& mask == mask)

/-- The namespace is the TARGET of a relationship that has not been promoted (R456). -/
def isTarget (nsid : Nat) (d : Dev) : Bool := d.md.rels.any fun r => r.2.target && r.2.nsid == nsid && r.2.state != 0 && r.2.state != 4

/-- The newest snapshot of a namespace with a non-zero XTAG (R456, R465). -/
def xtagSnap (nsid : Nat) (d : Dev) : Option Snap :=
  ((snapsOf nsid d).filter fun s => s.xtag != 0 && !s.deleting).foldl (fun (b : Option Snap) s =>
    match b with
    | none => some s
    | some q => if q.sseq < s.sseq then some s else b) none

/-- The namespace as reads see it: a TARGET's newest matched snapshot, otherwise the live root (R456). -/
def servedNs (nsid : Nat) (d : Dev) : Ns :=
  let n := getNs nsid d
  if !isTarget nsid d then n
  else match xtagSnap nsid d with
    | some s => { n with root := s.root, depth := s.depth, unread := s.unread }
    | none => { n with root := 0, unread := [] }

/-- What DRAM has lost of a block that a slot supplies (R317). -/
def slotLoss (f : FrontCmd) (s : Option Nat) (mask : Nat) (d : Dev) : Option SlotLoss :=
  s.bind fun n => if (getSlot n d).kind = 0 then f.cmd.losses.find? fun l => l.slot == n && l.bad.toNat &&& mask != 0 else none

/-- Look up square `i` of a host read: slots, the unreadable-block list, zeros, or the granule (R315–R320). A block that DRAM has lost
comes from the peer's mirror copy, or counts as unreadable (R317). -/
def lookupSquare (n i restarts : Nat) (d : Dev) : Dev :=
  let f := getFc n d
  let ns := servedNs f.cmd.nsid d
  let k := f.cmd.slba / blocksPerSquare ns.lbaf + i
  let bs := (squareBlocks ns f.cmd i).map (·.2)
  let src := bs.map fun b => (b, if isTarget f.cmd.nsid d then none else blockSlot f.cmd.nsid k (blockMask ns.lbaf b) d)
  let asked := d.cas.hasPeer && !peerLost d
  let lost := src.filterMap fun x => (slotLoss f x.2 (blockMask ns.lbaf x.1) d).map fun l => (x.1, if asked then l.copy else none)
  let d := if asked then
      forEach ((src.filterMap fun x => (slotLoss f x.2 (blockMask ns.lbaf x.1) d).map (·.slot)).eraseDups) (fun s d => send (.mirrorRead s) d) d
    else d
  let fromMap := (src.filter fun x => x.2.isNone).map (·.1)
  let plain := (List.range 8192).map fun x =>
    match src.find? fun y => y.1 == x / blockSize ns.lbaf with
    | some (b, some s) => match lost.find? (·.1 == b) with
      | some (_, some y) => (y[x]?).getD 0
      | _ => if (getSlot s d).kind = 0 then tget 0 (getSlot s d).data x else 0
    | _ => 0
  let mapTags := if gidNil (mapGet ns.root ns.depth k d) then [] else tagsGet ns.root ns.depth k d
  let tags := if metaSize ns.lbaf = 0 then [] else (List.range (blocksPerSquare ns.lbaf)).flatMap fun b =>
    match src.find? fun y => y.1 == b with
    | some (_, some s) =>
      if (getSlot s d).tags then ((getSlot s d).tagArea.drop (8 * b)).take 8 else blankTag ns.lbaf
    | _ => if mapTags.isEmpty then blankTag ns.lbaf else (mapTags.drop (8 * b)).take 8
  let fill := (fromMap.map fun b => blockMask ns.lbaf b).foldl (· ||| ·) 0
  let d := modFc n (fun f => { f with plain := tset [] f.plain i plain, tags := tset [] f.tags i tags, fill := tset 0 f.fill i fill }) d
  if lost.any (·.2.isNone) then squareDone n i 0x281 true [] d
  else if fromMap.isEmpty then squareDone n i 0 false [] d
  else if tget 0 ns.unread k &&& fill != 0 then squareDone n i 0x281 true [] d
  else
    let g := mapGet ns.root ns.depth k d
    if gidNil g then squareDone n i 0 false (List.replicate 8192 0) d
    else startGranule (.host n i) f.cmd.nsid k g restarts d

/-- Restart a square (R322, R332): at most three times. -/
def restartJob (j : Nat) (d : Dev) : Option Dev :=
  let r := getJob j d
  if r.restarts ≥ 3 then none
  else match r.who with
    | .host n i => some (lookupSquare n i (r.restarts + 1) (dropJob j d))
    | .merge s =>
      let ns := getNs r.nsid d
      let g := mapGet ns.root ns.depth r.square d
      let d := dropJob j d
      some (if gidNil g then
          let k := d.stg.readNext
          let z : ReadJob := { who := .merge s, nsid := r.nsid, square := r.square, gid := g, img := {}, state := 6
                               res := some (0, false, List.replicate 8192 0) }
          { d with stg.reads := d.stg.reads ++ [(k, z)], stg.readNext := k + 1 }
        else startGranule (.merge s) r.nsid r.square g (r.restarts + 1) d)
    | w => some (startGranule w r.nsid r.square r.gid (r.restarts + 1) (dropJob j d))

/-! ### Pages (R326, R327, R373) -/

/-- Count a page read of a block; at the limit its segment is queued for relocation (R373). -/
def countRead (m b : Nat) (d : Dev) : Dev :=
  let k := blkKey m b
  let v := tget 0 d.md.reads k + 1
  let d := { d with md.reads := tset 0 d.md.reads k v }
  let lim := (tget {} d.md.members m).rdLimit
  let lim := if lim = 0 then rd Reg.MDL_FT_RET_RD_LIMIT d else lim
  if v ≥ lim then queueReloc (getBlk m b d).seg d else d

/-- A block needed ladder step 3 or later: four times within 2^20 tempi retire it (R370). -/
def lateStep (m b : Nat) (d : Dev) : Dev :=
  let k := blkKey m b
  let l := ((tget [] d.ftl.steps k).filter fun t => tempoNow d < t + 2 ^ 20) ++ [tempoNow d]
  let d := { d with ftl.steps := tset [] d.ftl.steps k l }
  if l.length ≥ 4 then retireBlock m b 3 d else d

/-- A set's step in the ladder of a start set. -/
def stepOf (start set : Nat) : Nat := (((ladder start).find? fun s => s.2 == set).map (·.1)).getD 0

/-- A page read succeeded with its current set: a step other than 0 becomes the block's hint and queues a scrub of its segment's
row (R327, R375). -/
def pageGood (j i : Nat) (p : PageRead) (b : Bytes) (d : Dev) : Dev :=
  let r := getJob j d
  let d := modJob j (fun r => { r with pages := r.pages.set i { p with state := 1, data := b, rsp := none } }) d
  let step := stepOf p.start p.cur
  if step = 0 then d
  else
    let d := modBlk p.member p.block (fun x => { x with hint := some p.cur }) d
    let d := notice Ev.RD_RETRY (unitOf 0xA p.member) p.block (p.page * 2 ^ 32 + p.cur) d
    let d := if d.ftl.relocRows.contains (r.img.seg, r.img.row) then d
      else { d with ftl.relocRows := d.ftl.relocRows ++ [(r.img.seg, r.img.row)] }
    if step ≥ 3 then lateStep p.member p.block d else d

/-- A page read failed: the next set of the ladder that has not been tried, or the page is unreadable (R326, R327). -/
def pageBad (j i : Nat) (p : PageRead) (d : Dev) : Dev :=
  match (ladder p.start).find? fun s => !p.tried.contains s.2 with
  | some (_, s) =>
    readPage j i (modJob j (fun r => { r with pages := r.pages.set i { p with cur := s, tried := p.tried ++ [s], rsp := none } }) d)
  | none =>
    let d := modJob j (fun r => { r with pages := r.pages.set i { p with state := 2, rsp := none } }) d
    retireBlock p.member p.block 2 (lateStep p.member p.block d)

/-- The frame's bytes out of its landed pages (R322). -/
def assemble (r : ReadJob) (d : Dev) : Bytes :=
  let g := getSeg r.img.seg d
  (frameColumns r.img).flatMap fun c =>
    let col := ((g.cols)[c.1]?).getD {}
    let ps := pageSize col.member d
    let a := r.img.row * 65536 + c.2.1
    let mine := r.pages.filter fun p => p.member == col.member && p.block == col.block
    ((mine.flatMap (·.data)).drop (a % ps)).take c.2.2

/-- All pages of a job have ended: the frame has landed, or a column is rebuilt (R326). A remote fetch is answered (R341). -/
def settlePages (j : Nat) (d : Dev) : Dev :=
  let r := getJob j d
  if r.state ≠ 0 || r.pages.any (·.state == 0) then d
  else if r.pages.any (·.state == 2) then modJob j (fun r => { r with state := 3 }) d
  else
    let f := assemble r d
    match r.who with
    | .remote dev tag => send (.frameReply dev tag 0 f (getGte r.gid d)) (dropJob j d)
    | _ => modJob j (fun r => { r with state := 1, frame := f }) d

/-! ### Verification (Table 10.2, R328–R332) -/

/-- How a frame's verification ends: its plaintext, the key it needs first, or a failure. -/
inductive Verdict
  | good (plain : Bytes)
  | needKey
  | bad
  deriving DecidableEq, Repr

/-- Stage 1 (Table 10.2). -/
def headerOk (gid : Nat) (e : Gte) (f : Bytes) : Bool :=
  let n := leNat ((f.drop 4).take 2)
  let fmt := leNat ((f.drop 2).take 1)
  f.take 2 == [0xA7, 0x51] && fmt == e.fmt && leNat ((f.drop 3).take 1) == b2n e.enc + 2 * b2n e.incomp
    && leNat ((f.drop 6).take 2) == 8192 && leNat ((f.drop 8).take 8) == gid && leNat ((f.drop 16).take 8) == e.crc
    && leNat ((f.drop 24).take 2) == e.kdom && leNat ((f.drop 26).take 1) == 1 && leNat ((f.drop 27).take 1) == padOf n
    && (if fmt = 0 then n == 8192 else fmt == 1 && n ≤ 7680) && 48 + n + padOf n == 16 * e.slen && f.length == 16 * e.slen

/-- Stage 2 over a frame with its key: the GCM or GMAC tag agrees (R328). -/
def frameTagOk (gid : Nat) (e : Gte) (key f : Bytes) : Bool :=
  let n := leNat ((f.drop 4).take 2)
  let h := f.take 32
  let body := (f.drop 32).take n
  let tag := (f.drop (32 + n)).take 16
  if e.enc then gcmTag key (gidIv gid) h body == tag else gcmTag key (gidIv gid) (h ++ body) [] == tag

/-- The four stages over a frame with its key (R328–R331). -/
def openFrame (gid : Nat) (e : Gte) (key f : Bytes) : Option Bytes :=
  if !headerOk gid e f || !frameTagOk gid e key f then none
  else
    let body := (f.drop 32).take (leNat ((f.drop 4).take 2))
    let pay := if e.enc then gcmData key (gidIv gid) body else body
    match if e.fmt = 0 then some pay else zstdOpenFrame pay 8192 with
    | none => none
    | some p => if p.length == 8192 && crc64 p == e.crc then some p else none

/-- Verify a job's frame. -/
def verify (r : ReadJob) (d : Dev) : Verdict :=
  let (s, i, g) := frameKey r.gid r.img
  if !headerOk r.gid r.img r.frame then .bad
  else match residentKey s i g d with
    | none => .needKey
    | some k => match openFrame r.gid r.img k r.frame with
      | some p => .good p
      | none => .bad

/-- A GTE has changed or died since its lookup image: words 0, 1 and 3 (R320, R332). -/
def imageChanged (r : ReadJob) (d : Dev) : Bool :=
  let e := getGte r.gid d
  e.refcnt == 0 || gteW0 e != gteW0 r.img || gteW1 e != gteW1 r.img || e.crc != r.img.crc

/-- A frame's verification failed (R332, R340, R343). -/
def frameBad (j : Nat) (d : Dev) : Dev :=
  let r := getJob j d
  if !gidLocal r.gid d then
    if r.askedRebuild then goRepair j d
    else send (.frameFetch (gidDev r.gid) r.gid j r.img.kdom true) (modJob j (fun r => { r with state := 4, askedRebuild := true, toOther := false, due := fetchDue d }) d)
  else if imageChanged r d then
    match restartJob j d with
    | some d => d
    | none => (if r.rebuilt then unrecoverable j else modJob j fun r => { r with state := 3 }) (raiseC Ev.RD_RESTART 0 r.gid (rdData1 r) d)
  else if r.rebuilt then unrecoverable j d
  else if r.second then modJob j (fun r => { r with state := 3 }) d
  else
    let ps := r.pages.map fun p => { p with state := 0, data := [], start := p.cur, tried := [p.cur] }
    forEach (List.range ps.length) (readPage j) (modJob j (fun r => { r with second := true, state := 0, pages := ps }) d)

/-- A frame is verified: its square is served; one rebuilt on read is logged and its row relocated (R339). -/
def frameGood (j : Nat) (p : Bytes) (d : Dev) : Dev :=
  let r := getJob j d
  let d := if r.rebuilt then
      let d := notice Ev.RD_REBUILD 0 r.gid (rdData1 r) d
      if d.ftl.relocRows.contains (r.img.seg, r.img.row) then d
      else { d with ftl.relocRows := d.ftl.relocRows ++ [(r.img.seg, r.img.row)] }
    else d
  endRead j 0 false p d

/-- Verify and act (R328–R332). -/
def verifyJob (j : Nat) (d : Dev) : Dev :=
  match verify (getJob j d) d with
  | .good p => frameGood j p d
  | .needKey => modJob j (fun r => { r with state := 2 }) d
  | .bad => frameBad j d

/-! ### Columns read straight from the modules: rebuild, collection, scrub (R337, R427) -/

/-- The 64 KiB of a row in a column; nothing when the member is failed or absent, the block FAILED or not programmed there, or the
read's ladder fails (`bad` lists the columns whose ladder fails). -/
def readColumn (g : Seg) (row c : Nat) (bad : List Nat) (d : Dev) : Option Bytes :=
  let col := ((g.cols)[c]?).getD {}
  let x := getMod col.member d
  let b := tget {} x.blocks col.block
  if c ≥ g.cols.length || bad.contains c || colFailed col d || !memberOk col.member d || row ≥ b.next || b.failed.any (· ≤ row)
  then none
  else let v := tget [] x.rows (col.block * 4096 + row); if v.length = 65536 then some v else none

/-- The columns of a row: those readable, and the missing ones. -/
def readRow (g : Seg) (row : Nat) (bad : List Nat) (d : Dev) : List (Nat × Bytes) × List Nat :=
  let all := (List.range (g.w + 2)).map fun c => (c, readColumn g row c bad d)
  (all.filterMap fun c => c.2.map fun b => (c.1, b), (all.filter fun c => c.2.isNone).map (·.1))

/-- The data space of a row with up to two missing columns recovered (R411); nothing with more. -/
def recoverRow (g : Seg) (row : Nat) (bad : List Nat) (d : Dev) : Option (List (Nat × Bytes)) :=
  let (have_, miss) := readRow g row bad d
  match miss with
  | [] => some have_
  | [m] => some (have_ ++ recoverColumns g.w m 255 65536 (have_.filter fun c => (columnsRead g.w m 255).contains c.1))
  | [m, n] => some (have_ ++ recoverColumns g.w m n 65536 (have_.filter fun c => (columnsRead g.w m n).contains c.1))
  | _ => none

/-- The same for a row of a segment by number; a row whose parity is never used again has no recovery (R434). -/
def recoverAt (s row : Nat) (bad : List Nat) (d : Dev) : Option (List (Nat × Bytes)) :=
  if d.ftl.noParity.contains (s, row) && !(readRow (getSeg s d) row bad d).2.isEmpty then none
  else recoverRow (getSeg s d) row bad d

/-- The frame at a place in recovered columns. -/
def frameIn (e : Gte) (cols : List (Nat × Bytes)) : Bytes :=
  (frameColumns e).flatMap fun c =>
    ((((cols.find? fun x => x.1 == c.1).map (·.2)).getD []).drop c.2.1).take c.2.2

end Sys2Proof.Machine
end

