-- ==== Sys2Proof/Machine/CastleOps.lean ====
section
/-!
DEFINITION. Castling: resignation, the claim of the fences, and what the winner does (spec/16_castling_and_cascade.md,
R505–R517), with the return of slots to DURABLE (spec/06_write_pipeline.md, R226, R227).
-/

namespace Sys2Proof.Machine

/-! ### Resignation (R510, R511) -/

/-- The pause of an activation ends: escalation timers go on, later by as long as it held them (R566). -/
def endActivation (d : Dev) : Dev :=
  let d := match d.fwu.act with
    | some a => if a.phase = 0 then d
      else forEach (those 64 fun k => rdb (Reg.FLT_CHK_OPEN k) d) (fun k d =>
        let held := tempoNow d - max a.edge (rd (Reg.FLT_CHK_T_RAISED k) d)
        { d with flt.escHold := tmod 0 d.flt.escHold k (· + held) }) d
    | none => d
  clr Reg.FWU_STATUS_ACT_BUSY (pauseAll 6 0 { d with fwu.act := none })

/-- This head resigns: outputs held, every priority paused, RESIGN on every path (R510, R511). A head that has resigned does not
resign again. -/
def resignNow (cause : Nat) (d : Dev) : Dev :=
  if d.cas.resigned.isSome || !d.cas.hasPeer then d
  else
    -- a resignation before the switch ends an activation (R567)
    let d := if slicesHeld d || d.fwu.act.isNone then d else endActivation d
    let d := { d with cas.resigned := some (tempoNow d, cause), cas.outputsHeld := true }
    pauseAll 7 255 (send (.resign cause (tempoNow d)) (wr Reg.CAS_STATUS_SELF (if cause = 3 then 2 else 1) d))

/-! ### Slots restored or adopted (R226, R227) -/

/-- Capacity of a pool in bytes that no reservation holds: the FREE blocks outside the reserve and the rows left in open segments,
as data bytes; 0 while the pool is too narrow (R192, R409). -/
def poolSpace (p : Nat) (d : Dev) : Nat :=
  let q := getPool p d
  if !q.exists_ || q.narrow then 0
  else
    let w := min q.w (effWidth p d)
    let rpb := ((liveMembers p d).map fun m => (tget {} d.md.members m).rpb).foldl min 4096
    let open_ := (d.md.segs.filter fun s => s.2.state == 1 && s.2.pool == p && !s.2.isMeta && !s.2.gc).map fun s =>
      (s.2.rpb - s.2.nextRow) * s.2.w * 65536
    poolFree p d * rpb * 65536 * w / (w + 2) + open_.sum

/-- Bytes of a pool's free capacity not yet reserved. -/
def freeCapacity (p : Nat) (d : Dev) : Nat := poolSpace p d - tget 0 d.stg.capacity p

/-- Reserve bytes of a pool (R192). -/
def reserve (p n : Nat) (d : Dev) : Dev := { d with stg.capacity := tmod 0 d.stg.capacity p (· + n) }

/-- A slot of a restart by its state (R226, R227): `n` its number here. -/
def restoreSlot (n : Nat) (s : Slot) (d : Dev) : Dev :=
  if s.state ≤ 1 then { d with stg.slots := tset {} d.stg.slots n {} }
  else
    let lost := s.held && !s.addDone
    let d := if lost then doubt s.heldGid d else d
    let pool := (getNs s.nsid d).pool
    let keep := s.kind == 0 && freeCapacity pool d ≥ 8240
    let d := if keep then reserve pool 8240 d else d
    let s := { s with
      state := 3, cmd := none, work := {}, batch := none, reserved := keep, unacked := false, wants := none, held := s.held && !lost
      heldGid := if lost then 0 else s.heldGid }
    { d with stg.slots := tset {} d.stg.slots n s }

/-- A checkpoint of the other head as this head holds it: what is its own there is the peer's here. This head's GIDs and segments go on
above every mark of it that either head has seen (R188, R380, R520). -/
def adoptSaved (saved own : Meta) : Meta :=
  { saved with
    tsnOwn := saved.tsnPeer, tsnPeer := saved.tsnOwn, segNext := max own.segNext saved.segNext
    pools := saved.pools.map fun p =>
      let q : Pool := tget {} own.pools p.1
      let mark := max q.seqMark p.2.peerMark
      (p.1, { p.2 with
        seqMark := mark, peerMark := max q.peerMark p.2.seqMark, seqNext := max q.seqNext (mark + 1), linePtr := q.linePtr }) }

/-- The records of a journal that have committed: none behind one whose CRC-64 fails (R225). The peer's are those this head has. -/
def committedIn (own : Bool) (d : Dev) : List JRecord :=
  let js := if own then d.stg.journal else d.stg.mirrorJ
  js.filter fun r => (r.committed || !own) && !(js.any fun b => !b.good && b.tsn ≤ r.tsn)

/-- A slot's TSN is that of a committed record: it is released (R226). -/
def slotCommitted (own : Bool) (s : Slot) (d : Dev) : Bool := s.tsn != 0 && (committedIn own d).any (·.tsn == s.tsn)

/-- Foreign GIDs that committed entries release and no RELEASE_DONE reports: they are doubtful, and are not released again (R227). -/
def doubtReleases (own : Bool) (d : Dev) : Dev :=
  let js := committedIn own d
  let olds := js.flatMap fun r => match r.body with
    | .squares es => (es.filter fun e => (e.action ≤ 4 || e.action == 6 || e.action == 11) && !gidNil e.oldGid && !gidLocal e.oldGid d).map (·.oldGid)
    | _ => []
  let done := js.flatMap fun r => match r.body with
    | .releaseDone gs => gs
    | _ => []
  (done.foldl (fun l g => l.erase g) olds).foldl (fun d g => doubt g d) d

/-! ### The winner's steps (R515) -/

/-- The number under which a slot of the peer's is held after adoption: the mirror region keeps its numbering (R515). -/
def adoptedNo (n : Nat) : Nat := 2 ^ 24 + n

/-- Step 2: close short the OPEN segments that the peer opened. ROWS becomes the highest row that holds a frame of a committed
record: one that a live GTE or a metadata page names. -/
def closePeerSegment (s : Nat) (d : Dev) : Dev :=
  let rows := ((d.md.gtes.filter fun g => g.2.seg == s && g.2.refcnt != 0).map fun g => g.2.row + 1)
    ++ ((d.md.pages.filter fun p => p.2 / 2 ^ 24 == s).map fun p => p.2 / 2 ^ 12 % 4096 + 1)
  postRecord 0 (.segClose s (rows.foldl max 0) true) d

/-- Blocks IN_USE that their segment does not name: replacements never committed. They are armed for erase (R430). -/
def armOrphans (d : Dev) : Dev :=
  let bad := d.md.blocks.filter fun b => b.2.state == 1 &&
    !((getSeg b.2.seg d).cols.any fun c => blkKey c.member c.block == b.1)
    && !(d.ftl.rebuild.any fun r => r.repl.any fun x => blkKey x.member x.block == b.1)
  bad.foldl (fun d b => if d.ftl.gate.contains b.1 then d else { d with ftl.gate := d.ftl.gate ++ [b.1] }) d

/-- Step 3: adopt every mirror slot (R226, R515). -/
def adoptSlots (d : Dev) : Dev :=
  let l := d.stg.mirror.filter fun p => p.2.state ≥ 2 && !slotCommitted false p.2 d
  let d := { doubtReleases false d with stg.mirror := [] }
  let d := l.foldl (fun d p => restoreSlot (adoptedNo p.1) { p.2 with older := p.2.older.map adoptedNo } d) d
  wr Reg.CAS_ADOPT_SLOTS l.length (showTight d)

/-- The terminal state of a command of the peer's (Table 16.5): 1 UNDELIVERED, 2 TERMINATED. A write none of whose slots is in the
mirror meets both its rows: which of the two holds is open. -/
def adoptedKind (mirror : Tab Slot) (n : Nat) (r : CmdRecord) (d : Dev) : Nat × Dev :=
  match r.cls with
  | 0 => (2, d)
  | 1 =>
    let mine := mirror.filter fun s => s.2.cmd == some n && s.2.state != 0
    if mine.isEmpty then let (b, d) := drawNat 2 d; (1 + b, d)
    else (if mine.any fun s => s.2.state ≥ 2 then 1 else 2, d)
  | _ => (if r.effect && r.tsn ≤ d.md.tsnPeer then 1 else 2, d)

/-- Step 4: end every OPEN record of the mirrored command table (Table 16.5); the commands count as accepted and terminal, and no
completion of them is posted (R517). `mirror`: the mirror region as it was before its slots were adopted. -/
def endPeerCommands (mirror : Tab Slot) (d : Dev) : Dev :=
  let l := d.cas.mirrorCmds.filter fun r => r.2.state == 1
  let n := l.length
  let d := l.foldl (fun d r => let (k, d) := adoptedKind mirror r.1 r.2 d; send (.adopted r.1 k) d) { d with cas.mirrorCmds := [] }
  wr Reg.CAS_ADOPT_CMDS n (bumpBy Reg.NVF_CMD_ACC_ACCEPTED n (bumpBy Reg.NVF_CMD_TERM_TERMINAL n d))

/-- Step 2 after a claim: the peer's OPEN segments close short, and replacement blocks never committed are armed for erase. -/
def closePeers (d : Dev) : Dev :=
  armOrphans (forEach ((d.md.segs.filter fun s => s.2.state == 1 && s.1 / 2 ^ 39 != ownHead d).map (·.1)) closePeerSegment d)

/-- Steps 1–6 after a claim, or 1 and 3–6 after a planned move: records applied, segments closed, slots adopted, commands ended, the
owner table staged for the next edge (R515, R518). -/
def takeOver (claimed : Bool) (own0 own1 : Nat) (d : Dev) : Dev :=
  let d := catchUp d
  let d := if claimed then closePeers d else d
  let d := endPeerCommands d.stg.mirror (adoptSlots d)
  let d := forEach ((d.md.segs.filter fun s => s.2.state == 2).map (·.1)) queueRebuild d
  wr Reg.CAS_ANA_STG0_OWN own0 (wr Reg.CAS_ANA_STG1_OWN own1 (wr Reg.CAS_ANA_APPLY_TEMPO (tempoNow d + 1)
    { d with cas.switchPending := true }))

/-- Every group to this head. -/
def allMine (d : Dev) : Nat := if ownHead d = 0 then 0 else 2 ^ 64 - 1

/-- CAS_LAST shows the members claimed and those WON, the ones that end after the decision included (Table 16.6). -/
def showClaims (d : Dev) : Dev :=
  wr Reg.CAS_LAST_WON (d.cas.claims.filter fun c => c.2.st == .won).length (wr Reg.CAS_LAST_MEMBERS d.cas.claims.length d)

/-- The claim is won (R514, R515). This head's own groups resume at the switch, which is the next edge; those it serves under R660 go on. -/
def claimWon (d : Dev) : Dev :=
  let d := wr Reg.CAS_STATUS_PEER 3 { d with cas.won := true, cas.claiming := true }
  durableAlone (commitReady (takeOver true (allMine d) (allMine d) (commitReady d)))

/-! ### The claim (R513, R514) -/

/-- The pools that exist. -/
def poolList (d : Dev) : List Nat := (d.md.pools.filter fun p => p.2.exists_).map (·.1)

/-- Decide the claim (R514). -/
def claimDecide (d : Dev) : Dev :=
  let d := showClaims d
  if d.cas.won || d.cas.resigned.isSome || d.cas.declared.isNone || d.cas.claims.isEmpty then d
  else
    let cs := d.cas.claims
    if cs.any fun c => c.2.st == .lost then
      raiseD Ev.CAS_LOST_RACE 0 (d.cas.declared.getD (0, 0)).2 (d.cas.declared.getD (0, 0)).1 false (setb Reg.CAS_STATUS_LOST_RACE d)
    else if (poolList d).all fun p => poolWon p d then claimWon d
    else if cs.any fun c => c.2.st == .pending then d
    else if d.cas.noMajority then durableAlone (commitReady d)
    else
      let d := raiseC Ev.CAS_NO_MAJORITY 0 (d.cas.declared.getD (0, 0)).2 (d.cas.declared.getD (0, 0)).1 (setb Reg.CAS_STATUS_NO_MAJ { d with cas.noMajority := true })
      durableAlone (commitReady (pauseAll 3 0 d))

/-- The word a claim writes: EPOCH one higher, only this head's bit (R513). -/
def claimWord (w : Nat) (d : Dev) : Nat := (w / 65536 + 1) % 2 ^ 48 * 65536 + 2 ^ ownHead d

def modClaim (m : Nat) (f : Claim → Claim) (d : Dev) : Dev := { d with cas.claims := tmod {} d.cas.claims m f }

/-- Issue a claim's FENCE_CAS from a word. -/
def issueClaim (m w : Nat) (d : Dev) : Dev :=
  laneIssue m { opcode := 0x05, arg0 := w, arg1 := claimWord w d, use := .claim } d

/-- Claim a member from its MDL_FENCEn word. -/
def claimMember (m : Nat) (d : Dev) : Dev :=
  let (w, d) := readFence m (modClaim m (fun _ => { st := .pending }) d)
  issueClaim m w d

/-- Begin the claim of every adopted member of every pool (R513). A pair without members decides at once. -/
def startClaim (d : Dev) : Dev :=
  if d.cas.resigned.isSome || d.cas.declared.isNone || d.cas.won || !d.cas.claims.isEmpty then d
  else
    let ms := (d.md.members.filter fun m => m.2.adopted).map (·.1)
    let d := { d with cas.claimDue := none }
    if ms.isEmpty then claimWon (showClaims d) else showClaims (forEach ms claimMember d)

/-- Claim again the members still UNREACHED (R514). -/
def repeatClaim (d : Dev) : Dev :=
  if !d.cas.noMajority || d.cas.won then d
  else forEach ((d.cas.claims.filter fun c => c.2.st == .unreached).map (·.1)) claimMember d

/-- The winner claims a member that it did not reach, as its lane returns (R514). -/
def claimReturned (m : Nat) (d : Dev) : Dev :=
  if d.cas.won && d.cas.declared.isSome && (tget {} d.cas.claims m).st == .unreached then claimMember m d else d

/-- A claim's command has ended (R513). -/
def claimResult (m : Nat) (c : LaneCmd) (rsp : Option LaneRsp) (d : Dev) : Dev :=
  let cl := tget {} d.cas.claims m
  let unreached (d : Dev) : Dev := claimDecide (modClaim m (fun c => { c with st := .unreached }) d)
  match rsp with
  | none => unreached d
  | some r =>
    let d := setFence m r.value d
    if c.opcode = 0x04 then
      if r.status = 0 then issueClaim m r.value d else unreached d
    else match r.status with
      | 0 => claimDecide (modClaim m (fun c => { c with st := .won }) d)
      | 4 => claimDecide (modClaim m (fun c => { c with st := .lost }) d)
      | 5 =>
        if !bitOf r.value (ownHead d) then claimDecide (modClaim m (fun c => { c with st := .lost }) d)
        else if cl.retried then unreached d
        else issueClaim m r.value (modClaim m (fun c => { c with retried := true }) d)
      | 10 =>
        if cl.reread then unreached d
        else laneIssue m { opcode := 0x04, use := .claim } (modClaim m (fun c => { c with reread := true }) d)
      | _ => unreached d

/-! ### Declaring the peer lost (R505, R506, R512) -/

/-- Ports pause the lossless priorities (R178, R506). -/
def pauseLossless (d : Dev) : Dev := pauseAll 3 (rd Reg.ETH_PFC_LOSSLESS d) d

/-- At an edge: declare the peer lost with a cause of R505. A head that has resigned makes no claim, and its ANA states and pauses stay as they
are (R178, R511, R512). -/
def declareLost (cause : Nat) (d : Dev) : Dev :=
  if !d.cas.hasPeer || d.cas.declared.isSome || rdb Reg.PWR_STATUS_TT d then d
  else
    let d := { d with cas.declared := some (tempoNow d, cause), cas.claims := [], cas.won := false, cas.noMajority := false, stg.left := [] }
    let d := wr Reg.CAS_STATUS_LAST_CAUSE cause (wr Reg.CAS_STATUS_PEER 2 (wr Reg.CAS_LAST_EDGE (tempoNow d) d))
    let d := notice Ev.CAS_PEER_LOST 0 cause (tempoNow d) d
    if d.cas.resigned.isSome then d
    else
    let d := anaChanged (pauseLossless { d with cas.changing := 0 })
    if ownHead d = 1 ∧ (cause = 1 ∨ cause = 4 ∨ cause = 5) then
      { d with cas.claimDue := some (tempoNow d + tempiFor (rd Reg.CAS_CTRL_CLAIM_DLY d * 1000000) d) }
    else startClaim d

end Sys2Proof.Machine
end

