-- ==== Sys2Proof/Machine/MediaEnd.lean ====
section
/-!
DEFINITION. What follows when a Media Link command has ended: pages, columns, erases, fences, module data
(spec/12_media_link.md, R398–R401; spec/11_flash_translation.md, R353, R357, R365, R370).
-/

namespace Sys2Proof.Machine

/-- The mean P/E count of a member is above its rated endurance. -/
def wornOut (m : Nat) (d : Dev) : Bool :=
  let x := tget {} d.md.members m
  ((blkRecords m d).map fun b => b.2.pe).sum > x.wlim * x.nblocks

/-- Every block of a DRAINED segment is erased, or lies on a member declared failed (R365). -/
def allErased (g : Seg) (d : Dev) : Bool :=
  g.state == 4 && g.cols.all fun c => g.erased.contains (blkKey c.member c.block) || (tget {} d.md.members c.member).declared

/-- A DRAINED segment whose blocks are erased commits ERASE_DONE, once (R365). -/
def finishErase (seg : Nat) (d : Dev) : Dev :=
  if allErased (getSeg seg d) d && !(d.stg.journal.any fun r => r.body == .eraseDone seg && r.tsn > d.md.tsnOwn) then
    showPools (postRecord 0 (.eraseDone seg) (bump Reg.MDL_FT_CNT_SEGS d))
  else showPools d

/-- An erase has completed (R353, R357, R365): PE rises, the block is FREE, its gate bit clears; a segment whose blocks are all
erased is EMPTY. -/
def eraseEnded (m b seg : Nat) (d : Dev) : Dev :=
  let k := blkKey m b
  let before := wornOut m d
  let d := { d with ftl.gate := d.ftl.gate.filter (· != k), ftl.eraseAgain := d.ftl.eraseAgain.filter (· != k)
                    md.reads := tset 0 d.md.reads k 0 }
  let d := modBlk m b (fun x => { x with pe := x.pe + 1, state := if x.state = 1 then 0 else x.state, seg := 0, hint := none }) d
  let d := if !before && wornOut m d then notice Ev.FT_WEAR (unitOf 0xA m) b 0 d else d
  let w := (tget {} d.md.members m).wlim
  let d := if (getBlk m b d).state = 0 ∧ 100 * (getBlk m b d).pe ≥ w * rd Reg.MDL_FT_RET_PE_PCT d then retireBlock m b 4 d else d
  if seg = 0 then showPools d
  else finishErase seg (modSeg seg (fun g => { g with erased := g.erased ++ [k] }) d)

/-- An erase failed (R370): the block is retired; it no longer holds its segment back. -/
def eraseFailed (m b seg : Nat) (d : Dev) : Dev :=
  let k := blkKey m b
  let d := retireBlock m b 1 { d with ftl.gate := d.ftl.gate.filter (· != k), ftl.eraseAgain := d.ftl.eraseAgain.filter (· != k) }
  if seg = 0 then d
  else finishErase seg (modSeg seg (fun g => { g with erased := g.erased ++ [k] }) d)

/-- The geometry that R400 asks for. -/
def geometryOk (x : Module) : Bool :=
  256 ≤ x.rpb && x.rpb ≤ 4096 && 2 ≤ x.pgsz && x.pgsz ≤ 4 && x.nblocks * x.rpb * 65536 ≤ 2 ^ 47 && x.wlim != 0 && x.progRate != 0

/-- IDENTIFY has answered (R400, R401): the module is present, and may be adopted when its geometry stands. -/
def identified (n : Nat) (d : Dev) : Dev :=
  let d := setb Reg.MDL_STATUS_PRESENCE (setBit Reg.MDL_PRESENT_LANES n d)
  if geometryOk (getMod n d) then modLink n (fun x => { x with identified := true, absent := none }) d
  else notice Ev.MDL_GEOMETRY (unitOf 0xA n) 0 0 (setb Reg.MDL_STATUS_GEOMETRY_N d)

/-- Whole 4-byte numbers of a list of bytes. -/
def words4 : Nat → Bytes → List Nat
  | 0, _ => []
  | n + 1, b => if b.length < 4 then [] else leNat (b.take 4) :: words4 n (b.drop 4)

/-- A command has ended: its response, or none for TIMEOUT and LINK_LOST (R398, R399). -/
def laneEnded (n : Nat) (c : LaneCmd) (rsp : Option LaneRsp) (d : Dev) : Dev :=
  match c.use with
  | .page j i =>
    match (getJob j d).pages[i]? with
    | some p => modJob j (fun r => { r with pages := r.pages.set i { p with rsp := some rsp } }) d
    | none => d
  | .column row k =>
    let ok := rsp.any (·.status == 0)
    let d := if (getRow row d).state = 3 then modRow row (fun r => { r with cols := tset 0 r.cols k (if ok then 1 else 2) }) d else d
    rebuildRowEnded row (if rsp.any (·.status == 2) then retireBlock n c.block 0 d else d)
  | .erase seg =>
    match rsp with
    | some r =>
      if r.status = 0 then eraseEnded n c.block seg d
      else if r.status = 3 || r.status = 6 then eraseFailed n c.block seg d
      else d
    | none =>
      let k := blkKey n c.block
      if d.ftl.eraseAgain.contains k then eraseFailed n c.block seg d
      else
        let d := { d with ftl.eraseAgain := d.ftl.eraseAgain ++ [k] }
        if laneUp n d then issueWrite n { c with rsp := none } d else d
  | .claim => claimResult n c rsp d
  | .fence => match rsp with
    | some r =>
      let d := setFence n r.value d
      -- the word had changed: once more, from the word returned
      if r.status = 5 && !c.again then
        let keep := if c.arg1 % 4 = 3 then 3 else r.value % 4 &&& c.arg1 % 4
        laneIssue n { opcode := 0x05, arg0 := r.value, arg1 := (r.value / 65536 + 1) % 2 ^ 48 * 65536 + keep, use := .fence, again := true } d
      else d
    | none => d
  | .identify => if rsp.any (·.status == 0) then identified n d else d
  | .badList => match rsp with
    | some r => if r.status = 0 then modLink n (fun x => { x with bad := words4 16384 r.data }) d else d
    | none => d
  | .fenceRead => match rsp with
    | some r => if r.status = 0 then claimReturned n (setFence n r.value d) else d
    | none => d
  | .health => match rsp with
    | some r => if r.status = 0 then wr (Reg.MDL_TEMP_TEMP n) (leNat (r.data.take 2)) d else d
    | none => d
  | .loadTable | .other => d

end Sys2Proof.Machine
end

