-- ==== Sys2Proof/Machine/WriteOps.lean ====
section
/-!
DEFINITION. The reduction of staged squares: taking slots, merging, fingerprints, the index decision, reference adds, and the
placement of frames (spec/06_write_pipeline.md, R187, R188, R198–R214, R227, R228; spec/07_dedup_index.md, R244, R245).
-/

namespace Sys2Proof.Machine

/-! ### Taking slots (R198–R200) -/

/-- The reference ledger fails: the Check, its bit in FAB_CONS, and AUDIT_CHK (R85, R252). -/
def refLedger (expected found : Nat) (d : Dev) : Dev :=
  setb Reg.FAB_CONS_REF (raiseC Ev.REF_LEDGER 0 expected found (setb Reg.FIU_STATUS_AUDIT_CHK d))

/-- The reduction engines that are not quarantined. -/
def redEngines (d : Dev) : List Nat := engines 1 d

/-- The engine that all slots of a square go to (R198). -/
def engineFor (nsid sq : Nat) (d : Dev) : Option Nat :=
  let es := redEngines d
  es[crc64 (leBytes 4 nsid ++ leBytes 8 sq) % max 1 es.length]?

/-- A cut of the namespace at an edge E waits, and a tempo number is E or later (R200, R441). -/
def behindCut (nsid tempo : Nat) (d : Dev) : Bool := d.stg.cuts.any fun c => c.nsids.contains nsid && c.edge ≤ tempo && c.edge ≤ tempoNow d

/-- A newer DURABLE slot replaces the whole square, and no cut lies between the two (R200). -/
def superseded (s : Slot) (d : Dev) : Bool :=
  d.stg.slots.any fun p =>
    let t := p.2
    t.nsid == s.nsid && t.square == s.square && s.ssn < t.ssn && t.state == 3 && (t.kind != 0 || t.valid == 65535)
      && !behindCut s.nsid t.durTempo d

/-- The accelerators that a slot needs can serve it: the digest for a data slot, and one that it waits for (R653). -/
def laneReady (s : Slot) (d : Dev) : Bool :=
  s.kind != 0 || superseded s d || (laneServes 6 d && (match s.wants with
    | some k => laneServes k d
    | none => true))

/-- A slot may be taken (R198, R441, R653). -/
def takeable (s : Slot) (d : Dev) : Bool :=
  s.state == 3 && s.after ≤ tempoNow d && !behindCut s.nsid s.durTempo d && laneReady s d
    && (match s.older with
      | none => true
      | some o => let t := getSlot o d; t.state == 0 || t.state == 6)

/-- The slot that an engine takes next: the oldest DUR_TEMPO, then the lower SSN (R198). -/
def nextSlot (e : Nat) (d : Dev) : Option Nat :=
  ((d.stg.slots.filter fun p => takeable p.2 d && engineFor p.2.nsid p.2.square d == some e).foldl (fun (b : Option (Nat × Slot)) p =>
    match b with
    | none => some p
    | some q => if p.2.durTempo < q.2.durTempo ∨ (p.2.durTempo = q.2.durTempo ∧ p.2.ssn < q.2.ssn) then some p else b) none).map (·.1)

/-- A slot waits in DURABLE for a later tempo (R202, R205, R228). -/
def deferSlot (n : Nat) (d : Dev) : Dev := modSlot n (fun s => { s with after := tempoNow d + 1 }) (backToDurable n d)

/-- A job of an accelerator failed for a slot a second time: a Check, and the slot waits for the next tempo (R228, R651). Descriptor and tag
of the job, which the Check names, are open. -/
def accelFails (n : Nat) (d : Dev) : Dev :=
  let (a, d) := drawNat (2 ^ 64) d
  let (b, d) := drawNat (2 ^ 64) d
  deferSlot n (raiseC Ev.WR_ACCEL 0 a b d)

/-- No lane is left of an accelerator that a slot needs: it waits in DURABLE until one is (R653). -/
def awaitLane (k n : Nat) (d : Dev) : Dev := modSlot n (fun s => { s with wants := some k }) (backToDurable n d)

/-- The data words of a write's event (Table 20.6). -/
def wrData1 (s : Slot) : Nat := s.nsid * 2 ^ 32 + s.square % 2 ^ 32

/-- The digest job is due: the merged square stands. -/
def digestDue (n : Nat) (sq : Bytes) (d : Dev) : Dev := modWork n (fun w => { w with square := sq, phase := 2 }) d

/-- The square with the units that the slot does not hold taken from elsewhere (R201). -/
def mergeWith (s : Slot) (base : Bytes) : Bytes :=
  (List.range 8192).map fun i => if bitOf s.valid (i / 512) then tget 0 s.data i else (base[i]?).getD 0

/-- DRAM has lost units of a slot's data: the peer's mirror copy is read; with no copy they are listed, with a Check (Table 6.13). `copy`:
what the remote read brings, nothing when it fails. -/
def restoreUnits (n gone : Nat) (copy : Option Bytes) (d : Dev) : Dev :=
  if gone = 0 then d
  else
    let asked := d.cas.hasPeer && !peerLost d
    let d := if asked then send (.mirrorRead n) d else d
    let s := getSlot n d
    match if asked then copy else none with
    | some b => modSlot n (fun s => { s with
        data := ((List.range 8192).filter fun i => bitOf gone (i / 512)).foldl (fun t i => tset 0 t i ((b[i]?).getD 0)) s.data }) d
    | none =>
      let d := modSlot n (fun s => { s with
        lostblk := true, work := { s.work with mask := gone }, data := s.data.filter fun p => !bitOf gone (p.1 / 512) }) d
      raiseC Ev.WR_STAGE_UE 0 0 (wrData1 s) (send (.mirrorSlot n) d)

/-- An engine takes a slot (R199–R201). `bad` are the units of its data that DRAM has lost. -/
def takeSlot (e n bad : Nat) (copy : Option Bytes) (d : Dev) : Dev :=
  let s := getSlot n d
  let up := superseded s d
  let d := send (.mirrorSlot n) (modSlot n (fun s => { s with state := 4, wants := none, work := { engine := e } }) d)
  if up then packSlot n 12 0 d
  else if s.kind = 1 then packSlot n 3 gidOnes d
  else if s.kind = 2 then packSlot n 4 0 d
  else
    let d := restoreUnits n (bad &&& s.valid) copy d
    let s := getSlot n d
    let ns := getNs s.nsid d
    let g := mapGet ns.root ns.depth s.square d
    if s.valid = 65535 || gidNil g then digestDue n (mergeWith s []) d
    else startGranule (.merge n) s.nsid s.square g 0 (modWork n (fun w => { w with phase := 1 }) d)

/-- The read job of a slot's merge or comparison. -/
def slotJob (who : ReadWho) (d : Dev) : Option (Nat × ReadJob) := d.stg.reads.find? fun r => r.2.who == who

/-- A merge read has ended (R201, R202). -/
def mergeEnded (n : Nat) (d : Dev) : Dev :=
  let s := getSlot n d
  match slotJob (.merge n) d with
  | some (j, r) => match r.res with
    | some (st, dnr, p) =>
      let d := dropJob j d
      if s.state ≠ 4 ∨ s.work.phase ≠ 1 then d
      else if st = 0 then digestDue n (mergeWith s p) d
      else if !dnr then deferSlot n d
      else
        let d := modSlot n (fun s => { s with lostblk := true, work := { s.work with mask := s.work.mask ||| (65535 - s.valid) } }) d
        digestDue n (mergeWith s []) (notice Ev.WR_MERGE_LOST 0 r.gid (wrData1 s) (send (.mirrorSlot n) d))
    | none => d
  | none => d

/-! ### The index decision (R203–R207, R227, R244, R245) -/

/-- The square becomes a new granule; `hint` is the slot that the probe gave (R207, R246). -/
def newGranule (n : Nat) (insert : Bool) (hint : Nat) (d : Dev) : Dev :=
  modWork n (fun w => { w with phase := 6, action := 0, insert := insert, hint := hint }) d

/-- The digest job has ended well (R203, R204, R227). -/
def digestEnded (n : Nat) (d : Dev) : Dev :=
  let s := getSlot n d
  let fp := sha256 s.work.square
  let d := modWork n (fun w => { w with fp := fp }) d
  let ns := getNs s.nsid d
  if s.held && s.addDone then packSlot n 2 s.heldGid d
  else if fp = sha256 (List.replicate 8192 0) then packSlot n 3 gidOnes d
  else if !ns.dedup then newGranule n false 0xFF d
  else
    let d := modWork n (fun w => { w with phase := 3, ans := none }) d
    { d with fiu.probes := d.fiu.probes ++ [.slot n] }

/-- FPTAG differs from the fingerprint (R206, R244). -/
def tagMismatch (s : Slot) (g : Nat) (d : Dev) : Dev :=
  notice Ev.IDX_FPTAG 0 g (wrData1 s) (setb Reg.FIU_STATUS_TAG_MISM d)

/-- A HIT has proved stale: its entry is to be removed (R245). -/
def staleHit (s : Slot) (g : Nat) (a : ProbeAns) (d : Dev) : Dev :=
  { d with fiu.removes := d.fiu.removes ++ [⟨g, (getNs s.nsid d).domain, s.work.fp, a.slot⟩] }

/-- Take a HIT whose checks have passed (R206): a foreign one's first swap goes when the peer has acknowledged HELD. The square is neither compressed, encrypted nor placed (R30). -/
def takeHit (n : Nat) (a : ProbeAns) (d : Dev) : Dev :=
  if gidLocal a.gid d then packSlot n 1 a.gid d
  else
    afterWritten n 11 (modSlot n (fun s => { s with held := true, addDone := false, heldGid := a.gid }) d)

/-- A GTE stands under the generation that a rotation leaves: a HIT on it is a MISS without insert (R313). -/
def leavingGen (e : Gte) (d : Dev) : Bool :=
  let k := keyDescOf (tget {} d.keys.wkt e.kdom).desc.val
  e.enc && k.rotating && e.gen == k.prevGen

/-- R244: a pair-local HIT that is a MISS without insert, or nothing. A differing FPTAG is reported whatever else holds. -/
def hitRefused (n : Nat) (a : ProbeAns) (d : Dev) : Option Dev :=
  let s := getSlot n d
  let e := getGte a.gid d
  let other := e.fptag != fpTag s.work.fp
  if !gidLocal a.gid d then none
  else if e.refcnt == 0 || e.lost || leavingGen e d || d.fiu.retiring.any (·.gid == a.gid) || e.kdom != (getNs s.nsid d).domain || other then
    let d := if other then tagMismatch s a.gid d else d
    some (newGranule n false 0xFF (if e.refcnt = 0 then staleHit s a.gid a d else d))
  else none

/-- The verify policy of a namespace is COMPARE (R205): its own, or its key domain's. -/
def comparePolicy (ns : Ns) (d : Dev) : Bool × Dev :=
  let (k, d) := sptDomain ns.domain d
  (ns.compare || k.compare, d)

/-- The probe's answer stands, or the comparison has ended (R205, R206, R244). -/
def decideIndex (n : Nat) (d : Dev) : Dev :=
  let s := getSlot n d
  match s.work.phase, s.work.ans with
  | 3, some a =>
    if a.result = 1 then newGranule n (bitOf a.flags 0) (if a.slot > 63 then 0xFF else a.slot) d
    else if a.result ≠ 0 then newGranule n false 0xFF d
    else match hitRefused n a d with
      | some d => d
      | none =>
        let (cmp, d) := comparePolicy (getNs s.nsid d) d
        if cmp then startGranule (.compare n) s.nsid s.square a.gid 0 (modWork n (fun w => { w with phase := 4 }) d)
        else takeHit n a d
  | 4, some a =>
    match slotJob (.compare n) d with
    | some (j, r) => match r.res with
      | some (st, dnr, p) =>
        let d := dropJob j d
        if st ≠ 0 then (if dnr then newGranule n false 0xFF d else deferSlot n d)
        else if p ≠ s.work.square then newGranule n false 0xFF (notice Ev.WR_FP_COLLIDE 0 a.gid (wrData1 s) d)
        else match hitRefused n a d with
          | some d => d
          | none => takeHit n a d
      | none => d
    | none => d
  | _, _ => d

/-- A sampling owner would still index the fingerprint (R242). -/
def sampledIn (fp : Bytes) (d : Dev) : Bool := beNat (fp.drop 31) &&& rd Reg.FIU_CTRL_SAMPLE_MASK d == 0

/-- HELD is cleared (R206). -/
def clearHeld (n : Nat) (d : Dev) : Dev :=
  send (.mirrorSlot n) (modSlot n (fun s => { s with held := false, addDone := false, heldGid := 0 }) d)

/-- A swap of a slot's reference add has returned the word it found, or the message was reported failed (R206, R207). -/
def addReturned (n : Nat) (old : Option Nat) (d : Dev) : Dev :=
  let s := getSlot n d
  let w := s.work
  if s.state ≠ 4 ∨ w.phase ≠ 5 then d
  else match old with
    | none => newGranule n false 0xFF (clearHeld n d)
    | some v =>
      if v = w.expect_ then
        afterWritten n 12 (modSlot n (fun s => { s with addDone := true }) d)
      else if v / 2 ^ 32 = 0 then
        let a := w.ans.getD {}
        newGranule n (!bitOf a.flags 1 || sampledIn w.fp d) 0xFF (staleHit s s.heldGid a (clearHeld n d))
      else if v % 2 ^ 32 ≠ fpTag w.fp then newGranule n false 0xFF (tagMismatch s s.heldGid (clearHeld n d))
      else if w.swaps ≥ 8 then newGranule n false 0xFF (clearHeld n d)
      else issueAdd n s.heldGid v (w.swaps + 1) d

def getTx (k : Nat) (d : Dev) : HeldTx := tget ⟨0, [], [], []⟩ d.stg.heldTx k

/-- A held transaction whose reference adds have all ended is built; its GIDs leave the doubt list when it commits (R445). -/
def releaseTx (k : Nat) (d : Dev) : Dev :=
  let h := getTx k d
  if !h.adds.isEmpty then d
  else
    let t := d.stg.tsnNext
    let d := { d with stg.heldTx := tdel k d.stg.heldTx, stg.gained := tset [] d.stg.gained t h.gains
                      repl.inb := d.repl.inb.map fun b => if b.held = some k then { b with held := none, posted := some t } else b }
    postRecord h.nsid (.squares h.entries) d

/-- A swap of a held transaction's reference add has returned (R445). A failed add is issued again; on a dead GTE the entry is
copied without a reference, and the squares that map it are repaired. The FPTAG is that of the GTE, which this device does not hold:
it is taken from the word returned. -/
def txReturned (k g : Nat) (old : Option Nat) (d : Dev) : Dev :=
  let h := getTx k d
  match h.adds.find? (·.gid == g) with
  | none => d
  | some a =>
    let put (l : List GainAdd) (d : Dev) : Dev := { d with stg.heldTx := tset ⟨0, [], [], []⟩ d.stg.heldTx k { h with adds := l } }
    let others := h.adds.erase a
    match old with
    | none => send (.refAdd g a.expect_) d
    | some v =>
      if v = a.expect_ then releaseTx k (put others d)
      else if v / 2 ^ 32 = 0 then
        let d := fixSquares g (refLedger 1 0 d)
        releaseTx k (put others d)
      else send (.refAdd g v) (put (others ++ [{ a with swaps := a.swaps + 1, expect_ := v }]) d)

/-! ### GIDs, frames and rows (R187, R188, R208–R217) -/

/-- The next GID of a pool, when its block is reserved; otherwise the GID_MARK of the next block is built, once (R187, R188). -/
def nextGid (p : Nat) (d : Dev) : Option Nat × Dev :=
  let q := getPool p d
  if q.seqNext ≥ 2 ^ 56 - 1 then (none, d)
  else if q.seqNext ≤ q.seqMark then (some (mkGid (ownDev d) p q.seqNext), d)
  else
    let mark := mkGid (ownDev d) p (q.seqNext / 65536 * 65536 + 65535)
    let d := if d.stg.journal.any fun r => !r.committed && r.body == .gidMark [mark] then d else postRecord 0 (.gidMark [mark]) d
    if q.seqNext ≤ (getPool p d).seqMark then (some (mkGid (ownDev d) p q.seqNext), d) else (none, d)

/-- The payload of a new granule: format, whether compression saved too little, the bytes (R208, R209). Without a compression lane every
granule is raw (R653). The effort that the device compresses with is open. -/
def reducedPayload (ns : Ns) (sq : Bytes) (d : Dev) : (Nat × Bool × Bytes) × Dev :=
  if !ns.compress || !accAvailable 4 d then ((0, false, sq), d)
  else
    let (effort, d) := drawNat 4 d
    let z := zstdFrame effort true sq
    (if z.length ≤ 7680 then (1, false, z) else (0, true, sq), d)

/-- The compression of a slot's square has ended (R208, R209, R228). -/
def compressStep (n : Nat) (e : JobEnd) (d : Dev) : PipeEnd × Dev :=
  let s := getSlot n d
  let ns := getNs s.nsid d
  let keep (d : Dev) : Dev := let (p, d) := reducedPayload ns s.work.square d; modWork n (fun w => { w with pay := some p }) d
  if s.work.pay.isSome then (.ok, d)
  else if !ns.compress || !accAvailable 4 d then (.ok, keep (dropPipe 4 (.slot n) d))
  else match pipeStep 4 (.slot n) e d with
    | (.ok, d) => (.ok, keep d)
    | x => x

/-- The key of a new frame: encryption, generation, key; nothing while no key can be used (R211, R212). -/
def writeKey (ns : Ns) (d : Dev) : Option (Bool × Nat × Bytes) × Dev :=
  let (k, d) := readWkt ns.domain d
  match k with
  | some (k, _) =>
    if k.valid && k.enc then
      match useKey 1 ns.domain k.curGen d with
      | (.ok b, d) => (some (true, k.curGen, b), d)
      | (.error _, d) => (none, d)
    else
      match useKey 2 (ikIndex (ownDev d) ns.pool) 0 d with
      | (.ok b, d) => (some (false, 0, b), d)
      | (.error _, d) => (none, d)
  | none => (none, d)

/-- A frame (R211, R212, R214). -/
def sealFrame (gid : Nat) (e : Gte) (key pay : Bytes) : Bytes :=
  let h := frameHeader e.fmt (b2n e.enc + 2 * b2n e.incomp) pay.length gid e.crc e.kdom (padOf pay.length)
  let iv := gidIv gid
  let body := if e.enc then gcmData key iv pay else pay
  let tag := if e.enc then gcmTag key iv h body else gcmTag key iv (h ++ pay) []
  h ++ body ++ tag ++ List.replicate (padOf pay.length) 0

/-- The GTE image of a new granule, but for its place and count. -/
def newGte (fmt : Nat) (incomp enc : Bool) (kdom gen slenB : Nat) (sq fp : Bytes) : Gte :=
  { fmt := fmt, incomp := incomp, enc := enc, kdom := kdom, gen := gen, slen := (48 + slenB + padOf slenB) / 16
    fptag := fpTag fp, crc := crc64 sq }

/-- Place a new granule's frame in its engine's open row, its header first; the cipher job is due (R210). Without a row, a GID or a key
the slot waits. -/
def placeGranule (n : Nat) (d : Dev) : Dev :=
  let s := getSlot n d
  let ns := getNs s.nsid d
  match s.work.pay with
  | none => d
  | some (fmt, incomp, pay) =>
    match writeKey ns d with
    | (none, d) => d
    | (some (enc, gen, key), d) =>
      match nextGid ns.pool d with
      | (none, d) => d
      | (some gid, d) =>
        let e := newGte fmt incomp enc ns.domain gen pay.length s.work.square s.work.fp
        let f := sealFrame gid e key pay
        match placeFrame s.work.engine ns.pool 0 ⟨gid, some n, 0, e.slen, padTo f.length (f.take 32), none⟩ d with
        | (none, d) => d
        | (some _, d) =>
          let d := modPool ns.pool (fun p => { p with seqNext := p.seqNext + 1 }) d
          modWork n (fun w => { w with phase := 10, action := 0, newGid := gid, gte := some e, frame := f }) d

/-- The cipher job of a placed frame ends: the payload and the tag stand behind the header, and the slot is PACKED (R210). A rerun keeps
the GID, because its payload is the same (R213). -/
def sealStep (n : Nat) (e : JobEnd) (d : Dev) : Dev :=
  let s := getSlot n d
  if s.state ≠ 4 ∨ s.work.phase ≠ 10 then d
  else if !laneServes 3 d then awaitLane 3 n d
  else match pipeStep 3 (.slot n) e d with
    | (.waits, d) => d
    | (.failed, d) => accelFails n d
    | (.ok, d) =>
      let d := { d with stg.rows := d.stg.rows.map fun r => (r.1, { r.2 with
        frames := r.2.frames.map fun f => if f.slot = some n ∧ f.gid = s.work.newGid then { f with bytes := s.work.frame } else f }) }
      awaitPeer n (modSlot n (fun s => { s with state := 5, work := { s.work with phase := 7, pay := none, frame := [] } }) d)

end Sys2Proof.Machine
end

