-- ==== Sys2Proof/Machine/IndexOps.lean ====
section
/-!
DEFINITION. The de-duplication index: partitions and owners, buckets and filters, probes, inserts and removals, the audit of
reference counts (spec/07_dedup_index.md, R229–R254, R656, R657).
-/

namespace Sys2Proof.Machine

/-! ### Partitions (R229–R237, R656, R657) -/

/-- b, the partition and the bucket of a fingerprint. -/
def bktBits (d : Dev) : Nat := rd Reg.FIU_CTRL_BKT_BITS d
def partOf (fp : Nat) : Nat := fp / 2 ^ 244
def bucketOf (fp : Nat) (d : Dev) : Nat := fp / 2 ^ (244 - bktBits d) % 2 ^ bktBits d
def bucketKey (p k : Nat) : Nat := p * 2 ^ 22 + k

/-- A partition's owner byte in force (Table 7.2). -/
def ownByte (p : Nat) (d : Dev) : Nat := rd (Reg.FIU_OWN_OWNER (p / 8) (p % 8)) d
def ownValid (p : Nat) (d : Dev) : Bool := bitOf (ownByte p d) 7
def ownMoving (p : Nat) (d : Dev) : Bool := bitOf (ownByte p d) 3
def ownerOf (p : Nat) (d : Dev) : Nat := ownByte p d % 8

/-- This device serves a partition: as its owner, or for the head it has castled (R235, R657). -/
def servesPart (p : Nat) (d : Dev) : Bool :=
  fiuOn d && ownValid p d && (ownerOf p d == ownDev d || (d.cas.castled && ownerOf p d == peerDev d))

/-- The partitions this device serves. -/
def servedParts (d : Dev) : List Nat := those 4096 fun p => servesPart p d

def getBucket (key : Nat) (d : Dev) : Tab Bytes := tget [] d.fiu.buckets key
def entryValid (b : Bytes) : Bool := bitOf (fld b 28 2) 12
def entryKdom (b : Bytes) : Nat := fld b 28 2 % 4096
def entryGid (b : Bytes) : Nat := fld b 20 8
/-- An entry's fingerprint; bits [95:0], which it does not hold, as zeros. -/
def entryFp (b : Bytes) : Nat := beNat (b.take 20) * 2 ^ 96

/-- An index entry (Table 7.1). -/
def mkEntry (fp : Bytes) (gid kdom : Nat) (sampled : Bool) : Bytes :=
  fp.take 20 ++ leBytes 8 gid ++ leBytes 2 (kdom % 4096 + 4096 + 8192 * b2n sampled) ++ [0, 0]

/-- An entry matches a probe (R230, R231). -/
def entryMatches (b fp : Bytes) (kdom : Nat) : Bool := entryValid b && b.take 20 == fp.take 20 && entryKdom b == kdom

/-- VALID entries of a bucket. -/
def validIn (t : Tab Bytes) : Nat := (t.filter fun e => entryValid e.2).length

/-- Bring the population, the limit and sampling up to date (R237). -/
def showIndex (d : Dev) : Dev :=
  let ps := servedParts d
  let pop := ((d.fiu.buckets.filter fun b => ps.contains (b.1 / 2 ^ 22)).map fun b => validIn b.2).sum
  let limit := min (2 ^ 37) (64 * 2 ^ bktBits d * ps.length * 3 / 4)
  let d := wr Reg.FIU_POP_POPULATION pop (wr Reg.FIU_LIMIT_LIMIT limit d)
  let d := if limit < pop then setb Reg.FIU_STATUS_SAMPLING d
    else if 16 * pop < 15 * limit then clr Reg.FIU_STATUS_SAMPLING d else d
  wr Reg.FIU_STATUS_REBUILDING (b2n !d.fiu.bypass.isEmpty) d

/-- This device begins to serve partitions: their index pages are those that the flash or the copy holds, and their filters are in bypass
(R233, R235, R240). The list in bypass is in rising order. -/
def acquireParts (ps : List Nat) (pages : Tab (Tab Bytes)) (d : Dev) : Dev :=
  let served := servedParts d
  let kept := d.fiu.buckets.filter fun b => !ps.contains (b.1 / 2 ^ 22)
  { d with
    fiu.buckets := (pages.filter fun b => ps.contains (b.1 / 2 ^ 22)).foldl (fun t b => tset [] t b.1 b.2) kept
    fiu.bypass := served.filter fun p => d.fiu.bypass.contains p || ps.contains p }

/-- The staged owner table takes effect (R232, R240). -/
def applyOwners (pages : Tab (Tab Bytes)) (d : Dev) : Dev :=
  let before := servedParts d
  let d := forEach (List.range 512) (fun n d => wrReg (Reg.FIU_OWN_OWNER n 0).off (rdReg (Reg.FIU_OWN_STG_OWNER n 0).off d) d) d
  let d := wr Reg.FIU_OWN_VER_VERSION (rd Reg.FIU_OWN_VER_VERSION d + 1) (clr Reg.FIU_OWN_APPLY_TEMPO d)
  showIndex (acquireParts ((servedParts d).filter fun p => !before.contains p) pages d)

/-! ### The hot set (R238) -/

/-- Buckets that the hot set holds: 2 KiB each in the partition's 4 MiB banks. -/
def hotLimit (d : Dev) : Nat := (d.fab.banks[4]?).getD 0 * 2048

/-- A bucket is touched: it enters the hot set as the most recently used; the least recently used leaves, and a dirty one's page is
written back into the page cache. -/
def touchBucket (key : Nat) (dirty : Bool) (d : Dev) : Dev :=
  let hot := key :: d.fiu.hot.filter (· != key)
  let out := hot.drop (hotLimit d)
  let hd := if dirty && !d.fiu.hotDirty.contains key then d.fiu.hotDirty ++ [key] else d.fiu.hotDirty
  let d := { d with fiu.hot := hot.take (hotLimit d), fiu.hotDirty := hd.filter fun k => !out.contains k }
  forEach (hd.filter fun k => out.contains k) (fun k => touchPage 5 (k / 2)) d

/-! ### Probes (R239–R243) -/

/-- The filter reports "absent": no entry of the partition has the same quotient and remainder, and the filter is not in bypass
(R239, R240). -/
def filterAbsent (fp : Nat) (d : Dev) : Bool :=
  let p := partOf fp
  let s := 229 - bktBits d
  !d.fiu.bypass.contains p
    && !((getBucket (bucketKey p (bucketOf fp d)) d).any fun e => entryValid e.2 && entryFp e.2 / 2 ^ s == fp / 2 ^ s)

/-- An insert is asked for on a MISS (R242). -/
def wantsInsert (fp : Nat) (d : Dev) : Bool :=
  !rdb Reg.FIU_STATUS_SAMPLING d || fp % 256 &&& rd Reg.FIU_CTRL_SAMPLE_MASK d == 0

/-- The first empty slot of a bucket from a slot on. -/
def emptySlot (t : Tab Bytes) : Nat := ((List.range 64).find? fun i => (tget [] t i).isEmpty).getD 0xFFFF

/-- The owner answers a probe (R242). -/
def ownerProbe (fpb : Bytes) (kdom : Nat) (d : Dev) : ProbeAns × Dev :=
  let fp := beNat fpb
  let p := partOf fp
  let k := bucketOf fp d
  let base : ProbeAns := {
    result := 1, flags := b2n (wantsInsert fp d) + 2 * rd Reg.FIU_STATUS_SAMPLING d, bucket := k, part := p, owner := ownDev d
    ver := rd Reg.FIU_OWN_VER_VERSION d, slot := 0xFFFF }
  if filterAbsent fp d then ({ base with flags := base.flags + 4 }, d)
  else
    let t := getBucket (bucketKey p k) d
    let d := touchBucket (bucketKey p k) false d
    match t.find? fun e => entryMatches e.2 fpb kdom with
    | some (i, e) => ({ base with result := 0, flags := base.flags / 2 * 2, slot := i, gid := entryGid e }, d)
    | none => ({ base with slot := emptySlot t }, d)

/-- The answer UNAVAILABLE for a fingerprint. -/
def unavailable (fpb : Bytes) (d : Dev) : ProbeAns :=
  let fp := beNat fpb
  { result := 2, slot := 0, bucket := bucketOf fp d, part := partOf fp, owner := ownDev d, ver := rd Reg.FIU_OWN_VER_VERSION d }

/-- Give an answer to whom it is for: a probe block's result fields before DONE (R241), a slot's work, an offer. -/
def giveAnswer (who : ProbeFor) (a : ProbeAns) (d : Dev) : Dev :=
  let d := match a.result with
    | 0 => bump Reg.FIU_PRB_HITS d
    | 1 => bump Reg.FIU_PRB_MISSES (if bitOf a.flags 2 then bump Reg.FIU_PRB2_FILTER_NEG d else d)
    | _ => bump Reg.FIU_PRB2_UNAVAIL d
  match who with
  | .block b =>
    let d := storeMem (b + 36) (leBytes 1 a.result ++ leBytes 1 a.flags ++ leBytes 2 a.slot ++ leBytes 8 a.gid ++ leBytes 4 a.bucket
      ++ leBytes 2 a.part ++ leBytes 1 a.owner ++ [0] ++ leBytes 4 a.ver) d
    storeNat (b + 35) 1 1 d
  | .slot n => if (getSlot n d).state = 4 ∧ (getSlot n d).work.phase = 3 then modWork n (fun w => { w with ans := some a }) d else d
  | .offer r b i => { d with todo := d.todo ++ [.offerAnswer r b i a] }

/-- The fingerprint and key domain of a probe, and whether its block is malformed (R241). -/
def probeOf (who : ProbeFor) (d : Dev) : Bytes × Nat × Bool :=
  match who with
  | .block b =>
    let kf := memNat d (b + 32) 2
    (memRead d b 32, kf % 4096, kf ≥ 4096 || memNat d (b + 34) 1 != 0 || memNat d (b + 55) 1 != 0 || memNat d (b + 60) 4 != 0)
  | .slot n => ((getSlot n d).work.fp, (getNs (getSlot n d).nsid d).domain, false)
  | .offer r b i =>
    let o := ((d.repl.inb.find? fun x => x.rel == r && x.num == b).bind fun x => x.items[i]?).map (·.offer.fp)
    (o.getD [], (getNs (tget {} d.md.rels r).nsid d).domain, false)

/-- Probe a fingerprint: the answer here, or an INDEX_PROBE to the owner (R242, R243, R657). -/
def startProbe (who : ProbeFor) (retried : Bool) (d : Dev) : Dev :=
  let (fp, kdom, bad) := probeOf who d
  let p := partOf (beNat fp)
  let un := unavailable fp d
  if bad then giveAnswer who { un with flags := 16 } d
  else if !fiuOn d || !ownValid p d then giveAnswer who un d
  else if servesPart p d then let (a, d) := ownerProbe fp kdom d; giveAnswer who a d
  else
    let t := d.fiu.nextTag
    let r : RemoteProbe := {
      tag := t, who := who, fp := fp, kdom := kdom, due := tempoNow d + rd Reg.FIU_CTRL_PROBE_TMO d, retried := retried
      owner := ownerOf p d }
    send (.indexProbe (ownerOf p d) fp kdom (rd Reg.FIU_OWN_VER_VERSION d) t)
      { d with fiu.nextTag := t + 1, fiu.remote := d.fiu.remote ++ [r] }

/-- A remote probe ends UNAVAILABLE. -/
def probeLost (r : RemoteProbe) (d : Dev) : Dev :=
  giveAnswer r.who { unavailable r.fp d with flags := 8, owner := r.owner } { d with fiu.remote := d.fiu.remote.erase r }

/-! ### Inserts and removals (R244–R248, R254) -/

/-- STATUS of a job (Table 7.7). -/
inductive FiuEnd | ok | full | duplicate | moved | unavailable | notFound | refused
  deriving DecidableEq, Repr
def FiuEnd.status : FiuEnd → Nat
  | .ok => 1 | .full => 2 | .duplicate => 3 | .moved => 4 | .unavailable => 5 | .notFound => 6 | .refused => 7

/-- Write or clear a slot of a bucket. -/
def putEntry (key slot : Nat) (b : Bytes) (d : Dev) : Dev :=
  let t := tset [] (getBucket key d) slot b
  showIndex (touchBucket key true { d with fiu.buckets := tset [] d.fiu.buckets key t })

/-- The slots tried from a hint (R247): at most 64. -/
def tryInsert (key : Nat) (e fp : Bytes) (kdom : Nat) : Nat → Nat → Dev → FiuEnd × Dev
  | 0, _, d => (.full, touchBucket key false d)
  | n + 1, i, d =>
    let b := tget [] (getBucket key d) i
    if b.isEmpty then (.ok, putEntry key i e d)
    else if entryMatches b fp kdom then (.duplicate, touchBucket key false d)
    else tryInsert key e fp kdom n ((i + 1) % 64) d

/-- Where a job's operation goes. -/
inductive FiuWay | here | away | none
  deriving DecidableEq, Repr
def fiuWay (p : Nat) (d : Dev) : FiuWay :=
  if !fiuOn d || !ownValid p d then .none else if servesPart p d then .here else .away

/-- A job waits for its own version of the owner table (R233). -/
def farWaits (ring : Nat) (d : Dev) : Bool :=
  let x := tget {} d.fiu.jobs ring
  x.wrong && rd Reg.FIU_OWN_VER_VERSION d < x.ver

/-- What a swap at another device's window has brought, short of the bytes it found: a second WRONG_OWNER ends the job UNAVAILABLE, the
first lets it wait for the version named (R233). -/
def farEnd (ring : Nat) (far : FiuReport) (d : Dev) : Option FiuEnd × Dev :=
  let x := tget {} d.fiu.jobs ring
  let ended : Dev := { d with fiu.jobs := tdel ring d.fiu.jobs }
  match far with
  | .wrongOwner v => if x.wrong then (some .unavailable, ended)
    else (none, { d with fiu.jobs := tset {} d.fiu.jobs ring { x with wrong := true, ver := v } })
  | .moved => (some .moved, ended)
  | _ => (some .unavailable, ended)

/-- One swap of an INSERT at another device: the hinted slot, or slot 0 without a hint, then the next ones, at most 64 (R247). -/
def farInsert (ring p : Nat) (j : IndexJob) (far : FiuReport) (d : Dev) : Option FiuEnd × Dev :=
  let x := tget {} d.fiu.jobs ring
  let (s, d) := drawNat 2 d
  let e := mkEntry j.fp j.gid j.kdom (s = 1)
  let d := send (.indexSwap (ownerOf p d) true e (((if j.slot > 63 then 0 else j.slot) + x.tries) % 64)) d
  let ended : Dev := { d with fiu.jobs := tdel ring d.fiu.jobs }
  match far with
  | .found old =>
    if old.all (· == 0) then (some .ok, ended)
    else if entryMatches old j.fp j.kdom then (some .duplicate, ended)
    else if x.tries ≥ 63 then (some .full, ended)
    else (none, { d with fiu.jobs := tset {} d.fiu.jobs ring { x with tries := x.tries + 1 } })
  | r => farEnd ring r d

/-- Perform an INSERT (R246–R248). At another device a command is one swap, and `far` what it brings. -/
def doInsert (ring : Nat) (j : IndexJob) (far : FiuReport) (d : Dev) : Option FiuEnd × Dev :=
  let fp := beNat j.fp
  let p := partOf fp
  match fiuWay p d with
  | .none => (some .unavailable, { d with fiu.jobs := tdel ring d.fiu.jobs })
  | .here =>
    let d := { d with fiu.jobs := tdel ring d.fiu.jobs }
    if ownMoving p d then (some .moved, d)
    else
      let e := mkEntry j.fp j.gid j.kdom (rdb Reg.FIU_STATUS_SAMPLING d)
      let (r, d) := tryInsert (bucketKey p (bucketOf fp d)) e j.fp j.kdom 64 (if j.slot > 63 then 0 else j.slot) d
      (some r, d)
  | .away => if farWaits ring d then (none, d) else farInsert ring p j far d

/-- An INSERT has ended: it is counted; one that is not OK drops the pin of a GID that this head allocates, at once (R249). -/
def insertEnded (gid : Nat) (e : FiuEnd) (d : Dev) : Dev :=
  if e = .ok then bump Reg.FIU_INS_OK d
  else
    let d := bump Reg.FIU_INS_REFUSED d
    let d := if e = .duplicate then bump Reg.FIU_INS2_DUPLICATE d else if e = .full then bump Reg.FIU_INS2_FULL d else d
    let mine := gidDev gid == ownDev d || (d.cas.castled && gidDev gid == peerDev d)
    if mine && (getGte gid d).indexed && (getGte gid d).refcnt ≠ 0 then postRecord 0 (.pinDrop [gid]) d else d

/-- Perform a REMOVE of an entry that satisfies a test (R248). -/
def doRemove (ring p key slot : Nat) (want : Bytes) (is : Bytes → Bool) (far : FiuReport) (d : Dev) : Option FiuEnd × Dev :=
  match fiuWay p d with
  | .none => (some .unavailable, { d with fiu.jobs := tdel ring d.fiu.jobs })
  | .here =>
    let d := { d with fiu.jobs := tdel ring d.fiu.jobs }
    if ownMoving p d then (some .moved, d)
    else if is (tget [] (getBucket key d) slot) then (some .ok, putEntry key slot [] (bump Reg.FIU_STALE_REMOVED d))
    else (some .notFound, touchBucket key false d)
  | .away =>
    if farWaits ring d then (none, d)
    else
      let d := send (.indexSwap (ownerOf p d) false want slot) d
      match far with
      | .found old =>
        let d := { d with fiu.jobs := tdel ring d.fiu.jobs }
        if is old then (some .ok, bump Reg.FIU_STALE_REMOVED d) else (some .notFound, d)
      | r => farEnd ring r d

/-! ### The audit (R252, R253) -/

/-- The references that this head's roots hold: each leaf that a root of a namespace it owns reaches counts once (R446). -/
def rootLeaves (d : Dev) : List Nat :=
  let live := (d.md.ns.filter fun n => n.2.exists_ && ownsGroup n.2.group d).flatMap fun n => leafList d n.2.depth n.2.root 0
  let snaps := (d.md.snaps.filter fun s => s.2.exists_ && ownsNs s.2.nsid d).flatMap fun s => leafList d s.2.depth s.2.root 0
  ((live ++ snaps).map (·.2)).eraseDups

/-- Count one reference. -/
def countRef (t : Tab Nat) (g : Nat) : Tab Nat := if gidNil g then t else tmod 0 t g (· + 1)

/-- Every reference that this head holds at a cut: map entries, held slots, releases not done, stream holds (R252, R460). -/
def headCounts (d : Dev) : Tab Nat :=
  let maps := (rootLeaves d).foldl (fun t n => (getNode n d).ent.foldl (fun t p => countRef t p.2) t) []
  let held := d.stg.slots.foldl (fun t s => if s.2.held && s.2.addDone && s.2.state < 6 then countRef t s.2.heldGid else t) maps
  let rel := d.stg.releases.foldl (fun t r => countRef t r.gid) held
  d.md.rels.foldl (fun t r => r.2.hold.foldl (fun t h => countRef t h.1) t) rel

/-- The cut of an audit pass: counts are taken, those of other devices' GIDs go to them, the delta log begins. It belongs to the clusters
that scrub; without an engine of theirs in service no pass is made (R20). -/
def auditCut (d : Dev) : Dev :=
  match d.fiu.audit with
  | some a =>
    if a.made || a.cut ≠ tempoNow d then d
    else if (engines (careFn d) d).isEmpty then { d with fiu.audit := none }
    else
      let all := headCounts d
      let (mine, others) := all.partition fun c => gidDev c.1 == ownDev d
      let idx := (d.md.gtes.filter fun g => gidDev g.1 == ownDev d && g.2.refcnt != 0 && g.2.indexed).map (·.1)
      send (.auditCounts others d.fiu.doubt)
        { d with fiu.audit := some { a with made := true, delta := [], indexed := idx, counts := mine, doubts := d.fiu.doubt } }
  | none => d

/-- Compare one GID (R252, R253). `doubtful`: it was on some head's doubt list. -/
def auditOne (g expected found : Nat) (doubtful : Bool) (d : Dev) : Dev :=
  if found = expected then d
  else
    let fix := postRecord 0 (.refFix [(g, (expected : Int) - (found : Int))])
    if expected < found then
      if doubtful then bump Reg.FIU_AUD_DOUBT (notice Ev.AUD_DOUBT 0 g 0 (fix d))
      else bump Reg.FIU_AUD_EXCESS (refLedger expected found (fix d))
    else
      let d := bump Reg.FIU_AUD_SHORT (refLedger expected found d)
      if (getGte g d).refcnt = 0 then fixSquares g d else fix d

/-- REFCNT of a GID at the cut: the current count less the delta log. -/
def refAtCut (a : Audit) (g : Nat) (d : Dev) : Nat := (((getGte g d).refcnt : Int) - tget 0 a.delta g).toNat

/-- The comparison of a pass whose cut has been made (R252, R253): `others` are the counts that other heads sent, `doubtful` the GIDs
on their doubt lists. -/
def auditCompare (others : List (Nat × Nat)) (doubtful : List Nat) (d : Dev) : Dev :=
  match d.fiu.audit with
  | some a =>
    if !a.made then d
    else
      let total (g : Nat) : Nat := tget 0 a.counts g + ((others.filter (·.1 == g)).map (·.2)).sum + b2n (a.indexed.contains g)
      let gs := ((d.md.gtes.filter fun g => gidDev g.1 == ownDev d).map (·.1) ++ a.counts.map (·.1) ++ a.delta.map (·.1)
        ++ others.map (·.1)).eraseDups.filter fun g => gidDev g == ownDev d
      let jobs := gs.map fun g => (g, total g, refAtCut a g d)
      let d := { d with fiu.audit := none, fiu.doubt := d.fiu.doubt.filter fun g => !a.doubts.contains g }
      let d := jobs.foldl (fun d j => auditOne j.1 j.2.1 j.2.2 (a.doubts.contains j.1 || doubtful.contains j.1) d) d
      wr Reg.FIU_AUD_PASSES (rd Reg.FIU_AUD_PASSES d + 1) d
  | none => d

end Sys2Proof.Machine
end

