-- ==== Sys2Proof/Machine/FwuOps.lean ====
section
/-!
DEFINITION. Firmware images, the download buffer and the slots (spec/19_firmware_update.md, R557–R565).
-/

namespace Sys2Proof.Machine

/-! ### Images (Tables 19.1–19.3) -/

/-- Bytes of an image are all 0. -/
def zeros (b : Bytes) (off n : Nat) : Bool := (sub b off n).all (· == 0)

/-- A component entry: TYPE, OFFSET, LEN, DIGEST (Table 19.2). -/
structure FwComp where
  type : Nat
  off : Nat
  len : Nat
  digest : Bytes
  deriving DecidableEq, Repr

def fwComp (b : Bytes) (i : Nat) : FwComp :=
  let o := 64 + 64 * i
  ⟨fld b o 1, fld b (o + 4) 4, fld b (o + 8) 4, sub b (o + 16) 48⟩

def imgLen (b : Bytes) : Nat := fld b 8 4
def imgRollback (b : Bytes) : Nat := fld b 24 8
def imgHandoff (b : Bytes) : Nat := fld b 20 4

/-- Step 1 HEADER. -/
def fwHeaderOk (b : Bytes) : Bool :=
  let cs := (List.range 3).map (fwComp b)
  fld b 0 4 == 0x57464E51 && fld b 4 2 == 1 && fld b 6 2 == 3 && imgLen b ≤ 16777216 && fld b 12 2 / 2 == 0 && fld b 14 1 / 4 == 0
    && zeros b 15 1 && zeros b 256 128 && zeros b 480 32
    && (cs.zip [1, 2, 3]).all (fun c => c.1.type == c.2 && c.1.off % 4096 == 0 && 4096 ≤ c.1.off && c.1.off + c.1.len ≤ imgLen b)
    && (List.range 3).all (fun i => zeros b (65 + 64 * i) 3 && zeros b (76 + 64 * i) 4)
    && (fwComp b 0).len ≤ 1048576
    && (List.range 3).all (fun i => (List.range 3).all fun j => i == j ||
        (let x := fwComp b i; let y := fwComp b j; x.off + x.len ≤ y.off || y.off + y.len ≤ x.off))

/-- Step 2 TARGET. -/
def fwTargetOk (b : Bytes) (d : Dev) : Bool :=
  fld b 16 4 == (rdReg 0 d).toNat % 2 ^ 32 && (fld b 40 8 == 0 || fld b 40 8 == d.nv.serial) && bitOf (fld b 14 1) (b2n d.nv.headSel)

/-- The firmware key that an image names (step 3). -/
def fwKeyOf (b : Bytes) (d : Dev) : Option Bytes × Dev :=
  let id := fld b 32 8
  if fld b 12 2 = 0 then (if d.nv.fwKey.keyId = id then some d.nv.fwKey.pub else none, d)
  else
    let (t, d) := sptRead .imageKeys d
    (t.bind fun t => (t.fwKeys.find? fun k => k.keyId == id).map (·.pub), d)

/-- The firmware rollback floor: 0 with no table, 2^64 - 1 when its halves disagree (R547, R554). -/
def fwFloor (d : Dev) : Nat × Dev :=
  if d.sxc.spt.isNone then (0, d)
  else let (t, d) := sptRead .floors d; ((t.map (·.fwFloor)).getD (2 ^ 64 - 1), d)

/-- Verify an image up to a step: the code of Table 19.3, 1 when every step passes. -/
def verifyFw (b : Bytes) (steps : Nat) (d : Dev) : Nat × Dev :=
  if !fwHeaderOk b then (2, d)
  else if !fwTargetOk b d then (3, d)
  else match fwKeyOf b d with
    | (none, d) => (4, d)
    | (some k, d) =>
      if !Config.ecdsaVerify k (sha384 (b.take 384)) (sub b 384 96) then (5, d)
      else
        let (fl, d) := fwFloor d
        if imgRollback b < fl then (6, d)
        else if steps ≥ 6 && !((List.range 3).all fun i => let c := fwComp b i; sha384 (sub b c.off c.len) == c.digest) then (7, d)
        else (1, d)

/-! ### Slots and the buffer -/

def getFwSlot (n : Nat) (d : Dev) : FwSlot := tget {} d.nv.fw n

/-- Bring FWU_SLOTn to a slot, with a verification result. -/
def showSlot (n result : Nat) (d : Dev) : Dev :=
  let s := getFwSlot n d
  wr (Reg.FWU_SLOT_STATE (n - 1)) (b2n s.present) (wr (Reg.FWU_SLOT_ROLLBACK (n - 1)) (if s.present then imgRollback s.image else 0)
    (wr (Reg.FWU_SLOT_RESULT (n - 1)) result d))

/-- The running slot; 0 the recovery loader. -/
def runSlot (d : Dev) : Nat := rd Reg.FWU_STATUS_ACTIVE d

/-- Write the slot directory (R559). -/
def putDirectory (active next : Nat) (d : Dev) : Dev :=
  wr Reg.FWU_STATUS_NEXT next { d with nv.fwActive := active, nv.fwNext := next }

/-- Bytes received without a gap from offset 0. -/
def contiguous : Nat → List (Nat × Nat) → Nat → Nat
  | 0, _, n => n
  | k + 1, rs, n =>
    match rs.find? fun r => r.1 ≤ n && n < r.1 + r.2 with
    | some r => contiguous k rs (r.1 + r.2)
    | none => n
def bufBytes (d : Dev) : Nat := contiguous (d.fwu.ranges.length + 1) d.fwu.ranges 0

/-- The buffer's bytes from 0. -/
def bufRead (n : Nat) (d : Dev) : Bytes := (List.range n).map fun i => tget 0 d.fwu.buf i

/-- Place a block in the buffer (R560–R562): the status it ends with. -/
def downloadBlock (cntlid off : Nat) (data : Bytes) (d : Dev) : Nat × Dev :=
  if off % 4096 ≠ 0 ∨ data.length % 4096 ≠ 0 ∨ off + data.length > 2 ^ 24 then (0x02, d)
  else if d.fwu.owner.isSome ∧ d.fwu.owner ≠ some cntlid then (0x0C, d)
  else
    let d := if off = 0 then emptyFwBuf d else d
    if d.fwu.ranges.any fun r => off < r.1 + r.2 && r.1 < off + data.length then (0x114, d)
    else
      let (ok, d) := if off = 0 && rdb Reg.FWU_STATUS_COMPAT d then verifyFw data 5 d else (1, d)
      if ok ≠ 1 then (0x107, emptyFwBuf d)
      else
        let buf := (data.zip (List.range data.length)).foldl (fun t p => tset 0 t (off + p.2) p.1) d.fwu.buf
        let d := { d with fwu.owner := some cntlid, fwu.buf := buf, fwu.ranges := d.fwu.ranges ++ [(off, data.length)] }
        (0, wr Reg.FWU_STATUS_BUF_BUSY 1 (wr Reg.FWU_BUF_OWNER cntlid (wr Reg.FWU_BUF_BYTES (min (bufBytes d) (2 ^ 24)) d)))

/-- The slot that FS names (R563). -/
def commitSlotNo (ca fs : Nat) (d : Dev) : Nat :=
  if ca ≤ 1 ∧ fs = 0 then
    let free := [1, 2, 3].filter fun n => n != runSlot d
    ((free.find? fun n => !(getFwSlot n d).present).getD (free.head?.getD 1))
  else fs

/-- Write the buffer to a slot (R564): the status. -/
def writeSlot (n : Nat) (readBack : Bool) (d : Dev) : Nat × Dev :=
  let have_ := bufBytes d
  let len := imgLen (bufRead 512 d)
  if have_ < 512 ∨ len < 512 ∨ have_ < len then (0x107, d)
  else
    let d := { d with nv.fw := tset {} d.nv.fw n (if readBack then { present := true, image := bufRead len d } else {}) }
    (if readBack then 0 else 0x107, showSlot n 0 d)

/-- Firmware Commit of CA 0, 1 or 2, and the refusals of every CA (R563): the status, nothing for a CA 3 that goes on. -/
def commitFw (ca fs : Nat) (readBack : Bool) (d : Dev) : Option Nat × Dev :=
  let n := commitSlotNo ca fs d
  if d.fwu.act.isSome then (some 0x0C, d)
  else if n > 3 ∨ n = runSlot d ∨ (ca ≥ 2 ∧ !(getFwSlot n d).present) then (some 0x106, d)
  else match ca with
    | 0 => let (st, d) := writeSlot n readBack d; (some st, d)
    | 1 =>
      let (st, d) := writeSlot n readBack d
      (some st, if st = 0 then putDirectory d.nv.fwActive n d else d)
    | 2 => (some 0, putDirectory d.nv.fwActive n d)
    | _ => (none, d)

/-- The conditions and the verification of CA 3 (R565): the status, 0 when the activation may be queued. -/
def mayActivate (n : Nat) (d : Dev) : Nat × Dev :=
  let b := (getFwSlot n d).image
  if glbState d ≠ 1 ∨ rd Reg.CAS_STATUS_PEER d > 1 ∨ rdb Reg.PWR_STATUS_TT d then (0x113, d)
  else if imgHandoff b ≠ imgHandoff (getFwSlot (runSlot d) d).image then (0x10B, d)
  else
    let (r, d) := verifyFw b 6 d
    (if r = 1 then 0 else 0x107, showSlot n r d)

end Sys2Proof.Machine
end

