-- ==== Sys2Proof/Machine/SnapOps.lean ====
section
/-!
DEFINITION. Deleting roots (spec/14_snapshots_and_replication.md, R448, R449): snapshots and live roots that a walk then takes away.
-/

namespace Sys2Proof.Machine

/-- The live root of a namespace becomes a deleted root, to be walked under R449: the model holds it as the namespace's
snapshot of SSEQ 0. -/
def buryRoot (nsid : Nat) (d : Dev) : Dev :=
  let n := getNs nsid d
  let s : Snap := { exists_ := true, nsid := nsid, sseq := 0, root := n.root, pred := n.pred, depth := n.depth, deleting := true }
  { d with md.snaps := tset {} d.md.snaps (snapKey nsid 0) s }

/-- A slot of a namespace that is deleted goes, with what is being done for it. -/
def dropSlot (n : Nat) (d : Dev) : Dev :=
  let d := { d with stg.reads := d.stg.reads.filter fun r => r.2.who != .merge n && r.2.who != .compare n }
  send (.mirrorSlot n) (freeSlot n d)

/-- An I/O command of a namespace that is deleted ends: Invalid Namespace or Format. -/
def endNsCmd (n : Nat) (d : Dev) : Dev :=
  if (getFc n d).ready.isSome then d
  else
    let d := { d with stg.reads := d.stg.reads.filter fun r => match r.2.who with
      | .host rec _ => rec != n
      | _ => true }
    completeOpen n 0x0B (modFc n (fun f => { f with slots := [] }) { d with front.waiting := d.front.waiting.filter (· != n) })

/-- The accepted I/O commands that name a namespace. -/
def nsCmds (nsid : Nat) (d : Dev) : List Nat :=
  (d.front.cmds.filter fun f => f.2.cmd.nsid == nsid && match f.2.op with
    | .read | .compare | .verify | .write | .writeZeroes | .dsm => true
    | _ => false).map (·.1)

/-- Namespace Management delete: the live root and every snapshot are deleted (R448), the binding is freed (R548), relationships
of the namespace end, and so do its commands. The group and the pool stay with the NSID until its roots are walked. -/
def deleteNs (nsid : Nat) (d : Dev) : Dev :=
  let d := forEach ((d.stg.slots.filter fun s => s.2.nsid == nsid).map (·.1)) dropSlot d
  let d := forEach (nsCmds nsid d) endNsCmd d
  let d := buryRoot nsid (showTight d)
  let d := { d with
    md.snaps := d.md.snaps.map fun (s : Nat × Snap) => if s.2.nsid = nsid then (s.1, { s.2 with deleting := true, repl := false, retained := s.2.nsucc ≥ 2 }) else s
    md.ns := tset {} d.md.ns nsid { group := (getNs nsid d).group, pool := (getNs nsid d).pool }
    md.rels := d.md.rels.filter fun r => r.2.nsid != nsid }
  let free (t : Spt) : Spt := { t with bindings := tset 0 t.bindings nsid 0 }
  { d with
    sxc.spt := d.sxc.spt.map free
    nv.spt := d.nv.spt.map fun (c : Nat × SptCopy) => (c.1, { c.2 with table := free c.2.table }) }

end Sys2Proof.Machine
end

