-- ==== Sys2Proof/Machine/NvmeOps.lean ====
section
/-!
DEFINITION. NVMe commands: acceptance, the checks of Table 5.6, slots and data of writes, reservations, the admin commands
(spec/05_nvme_front_end.md, R143–R151, R161–R174, R659; spec/06_write_pipeline.md, R192–R194).
-/

namespace Sys2Proof.Machine

/-! ### Contexts and controllers -/

/-- The context number that stands for the management endpoint's admin queue (the model's own: past the contexts, R145). -/
def mgmtCtx : Nat := 262144
def mgmtCntlid (d : Dev) : Nat := ownHead d * 32768

/-- The controller of a context. -/
def cntlidOf (c : HostCmd) (d : Dev) : Nat := if c.ctx = mgmtCtx then mgmtCntlid d else (tget {} d.front.ctxs c.ctx).cntlid
def getCtrl (k : Nat) (d : Dev) : Controller := tget {} d.front.ctrls k
def modCtrl (k : Nat) (f : Controller → Controller) (d : Dev) : Dev := { d with front.ctrls := tmod {} d.front.ctrls k f }

/-- The host NQN a command comes from. -/
def hostOf (c : HostCmd) (d : Dev) : Nat := if c.viaPeer then c.host else (getCtrl (cntlidOf c d) d).nqn

/-- Admin commands (Table 5.4). -/
def isAdmin : NvmeOp → Bool
  | .read | .write | .compare | .verify | .writeZeroes | .flush | .dsm => false
  | .resvRegister | .resvReport | .resvAcquire | .resvRelease => false
  | _ => true

def isResv : NvmeOp → Bool
  | .resvRegister | .resvReport | .resvAcquire | .resvRelease => true
  | _ => false

/-- The opcode is listed for its queue (row 1; R145, R179, R537, R560). -/
def opListed (op : NvmeOp) (c : HostCmd) (d : Dev) : Bool × Dev :=
  if c.viaPeer then (true, d)
  else if c.ctx = mgmtCtx then
    let limited := glbState d != 1
    (match op with
      | .identify | .getLogPage | .fwDownload | .fwCommit _ => true
      | .nsAttach | .propertyGet | .propertySet | .disconnect => false
      | o => isAdmin o && !limited, d)
  else
    let x := tget {} d.front.ctxs c.ctx
    if isAdmin op != (x.qid == 0) then (false, d)
    else match op with
      | .fwDownload | .fwCommit _ =>
        let (t, d) := sptRead .policy d
        (rdb Reg.NVF_CTRL_FABRIC_FWDL d && (t.map (·.allowFwdl)).getD false, d)
      | _ => (true, d)

/-! ### Checks (Table 5.6) -/

/-- Blocks that a command names with SLBA and NLB. -/
def cmdBlocks (c : HostCmd) : Nat := c.nlb + 1

/-- The command length (R163). -/
def cmdLength (ns : Ns) (c : HostCmd) : Nat := cmdBlocks c * (blockSize ns.lbaf + if c.pract then 0 else metaSize ns.lbaf)

/-- The namespace is attached to the command's controller. -/
def attached (c : HostCmd) (d : Dev) : Bool :=
  let ns := getNs c.nsid d
  ns.exists_ && ns.hosts.contains (hostOf c d)

/-- A path's ANA state allows nothing: the status (row 7, Table 5.9). A head that had resigned before it declared its peer lost keeps the states
it had (R178, R511). -/
def anaStatus (g : Nat) (d : Dev) : Option Nat :=
  if glbState d = 2 || glbState d = 3 || bitOf d.cas.persistentLoss (g - 1) then some 0x301
  else if bitOf d.cas.changing (g - 1) then some 0x303
  else if !ownsGroup g d && peerLost d && !(match d.cas.resigned, d.cas.declared with
      | some r, some l => decide (r.1 < l.1)
      | _, _ => false) then some 0x302
  else none

/-- A reservation keeps this host's command out (row 8; NVMe Base 2.0, PRESUMED). -/
def resvConflict (op : NvmeOp) (ns : Ns) (host : Nat) : Bool :=
  let r := ns.resv
  let reg := r.keys.any (·.1 == host)
  let allReg := r.rtype == 5 || r.rtype == 6
  let holder := r.holder == some host || (allReg && reg)
  if r.rtype = 0 || isResv op then false
  else match op with
    | .read | .compare | .verify => (r.rtype == 2 || r.rtype == 4 || r.rtype == 6) && !holder && !(r.rtype == 4 && reg)
    | _ => !holder && !((r.rtype == 3 || r.rtype == 4) && reg)

/-- The range test of row 5. -/
def lbaRangeOk (op : NvmeOp) (ns : Ns) (c : HostCmd) : Bool :=
  let n := ns.size * blocksPerSquare ns.lbaf
  match op with
  | .read | .write | .compare | .verify | .writeZeroes => c.slba + cmdBlocks c ≤ n
  | .dsm => c.ranges.all fun r => r.1 + r.2 ≤ n
  | _ => true

/-- The first failed check of rows 1–8 (row 2 does not apply to the PRPs of the management endpoint's queue, R145; in-capsule data beyond 8 KiB
fails it, Table 5.2, log entry 142), a domain that does not stand (R554), and a write to a TARGET namespace (R456). -/
def checkCmd (op : NvmeOp) (c : HostCmd) (d : Dev) : Nat × Dev :=
  let (listed, d) := opListed op c d
  let ns := getNs c.nsid d
  let isData := match op with
    | .read | .write | .compare => true
    | _ => false
  let hasLen := isData || op == .verify
  if !listed then (0x01, d)
  else if c.ctx ≠ mgmtCtx && (!c.sglOk || (op == .write && c.data.length > 8192)) then (0x11, d)
  else if !c.fieldsOk || (isData && attached c d && cmdLength ns c > 1048576) then (0x02, d)
  else if isAdmin op then (0, d)
  else if !attached c d then (0x0B, d)
  else if !lbaRangeOk op ns c then (0x80, d)
  else if hasLen && c.sglLen != cmdLength ns c then
    (0x0F, bump Reg.NVF_LEN_SGL (wr Reg.NVF_LEN_LAST_DECLARED (cmdLength ns c) (wr Reg.NVF_LEN_LAST_SEEN c.sglLen d)))
  else match anaStatus ns.group d with
    | some st => (st, d)
    | none =>
      if resvConflict op ns (hostOf c d) then (0x18, d)
      else
        let (dom, d) := sptDomain ns.domain d
        let (bound, d) := sptBinding c.nsid d
        if !dom.valid || bound != some ns.domain then (0x286, d)
        else if opCls op = 1 && isTarget c.nsid d then (0x20, d)
        else (0, d)

/-! ### Slots and data of writes (R192–R194, R150) -/

/-- The slots a command needs: square, KIND, first byte in the square, bytes. -/
def needsOf (f : FrontCmd) (d : Dev) : List (Nat × Nat × Nat × Nat) :=
  let ns := getNs f.cmd.nsid d
  let part (whole slba n : Nat) := (squaresOf ns.lbaf slba n).map fun q =>
    (q.1, if q.2.2 = 8192 then whole else 0, q.2.1, q.2.2)
  match f.op with
  | .write => part 0 f.cmd.slba (cmdBlocks f.cmd)
  | .writeZeroes => part 1 f.cmd.slba (cmdBlocks f.cmd)
  | .dsm => if bitOf f.cmd.val 2 then f.cmd.ranges.flatMap fun r => part 2 r.1 r.2 else []
  | _ => []

/-- The bytes that data slots reserve (R192, R194). -/
def needBytes (l : List (Nat × Nat × Nat × Nat)) : Nat := 8240 * (l.filter fun q => q.2.1 == 0).length

/-- Ask the host for a write's data, once its slots are given and its record is acknowledged (R192, R501). -/
def fetchWrite (n : Nat) (d : Dev) : Dev :=
  let f := getFc n d
  if f.op == .write && f.cmd.data.isEmpty && !f.slots.isEmpty && !f.fetched && (getCmd n d).acked && f.ready.isNone then
    hostOut f.cmd (.fetchData f.cmd.ctx f.cmd.cid f.cmd.sglLen) (.fetch f.cmd.sglLen) (modFc n (fun f => { f with fetched := true }) d)
  else d

/-- The slot of a command that holds a square. -/
def slotOfSquare (n sq : Nat) (d : Dev) : Option Nat :=
  (getFc n d).slots.find? fun m => (getSlot m d).square == sq && (getSlot m d).cmd == some n

/-- A slot's tag area with one entry set. -/
def putTag (lbaf b ref app : Nat) (t : Bytes) : Bytes :=
  let len := 8 * blocksPerSquare lbaf
  let t := if t.length = len then t else (List.range (blocksPerSquare lbaf)).flatMap fun _ => blankTag lbaf
  patchBytes t (8 * b) (leBytes 8 (ref * 65536 + app))

/-- Every slot of a command is whole in staging: STAGED (R191). -/
def stageAll (n : Nat) (d : Dev) : Dev := forEach (getFc n d).slots stageSlot d

/-- Host write bytes land: beyond what the Cerco ports with a path to the peer can mirror in this tempo, 50 GB/s each less the cluster
traffic they carry, the write-carrying priorities pause (R32). -/
def mirrorLimit (n : Nat) (d : Dev) : Dev :=
  let d := { d with front.landedBytes := d.front.landedBytes + n }
  if !alone d && d.front.landedBytes + d.cdt.clusterBytes ≥ 50 * periodNs d * d.front.mirrorPaths then pauseAll 2 (rd Reg.ETH_PFC_WRITE_PRIO d) d else d

/-- Land block `i` of a write (R165, R173, R194). A block that fails its check frees the command's slots and ends it. -/
def landBlock (n i : Nat) (b : Bytes) (d : Dev) : Dev :=
  let f := getFc n d
  let ns := getNs f.cmd.nsid d
  let bs := blockSize ns.lbaf
  let ms := metaSize ns.lbaf
  let lba := f.cmd.slba + i
  let k := lba % blocksPerSquare ns.lbaf
  if f.op != .write || f.cmd.nlb < i || f.ready.isSome || f.landed.contains i || b.length != bs + (if f.cmd.pract then 0 else ms) then d
  else match slotOfSquare n (lba / blocksPerSquare ns.lbaf) d with
    | none => d
    | some m =>
      if (getSlot m d).state ≠ 1 then d
      else
        let data := b.take bs
        let (g, app, ref) := piParts ns.lbaf (b.drop bs)
        let bad := if ms = 0 || f.cmd.pract then none else piCheck ns f.cmd i (g == guardOf ns.lbaf data) ref app
        match bad with
        | some st => completeOpen n st (modFc n (fun f => { f with slots := [] }) (freeSlots n (countPi st d)))
        | none =>
          let (ref, app) := if f.cmd.pract then ((f.cmd.refTag + if ns.pi = 3 then 0 else i) % 2 ^ (if ms = 8 then 32 else 48), f.cmd.appTag) else (ref, app)
          let d := mirrorLimit bs (landBytes m (bs * k) data d)
          let d := if ms = 0 then d else modSlot m (fun s => { s with tags := true, tagArea := putTag ns.lbaf k ref app s.tagArea }) d
          let d := modFc n (fun f => { f with landed := f.landed ++ [i] }) d
          if (getFc n d).landed.length = cmdBlocks f.cmd then stageAll n d else d

/-- The data of a write lands from its capsule. -/
def landCapsule (n : Nat) (d : Dev) : Dev :=
  let f := getFc n d
  let ns := getNs f.cmd.nsid d
  let unit := blockSize ns.lbaf + (if f.cmd.pract then 0 else metaSize ns.lbaf)
  forEach (List.range (cmdBlocks f.cmd)) (fun i d => landBlock n i ((f.cmd.data.drop (unit * i)).take unit) d) d

/-- Zero slots: KIND 1 and 2 stand for the whole square; parts hold zeros as data. -/
def landZeros (n : Nat) (needs : List (Nat × Nat × Nat × Nat)) (d : Dev) : Dev :=
  let l := (getFc n d).slots.zip needs
  stageAll n (l.foldl (fun d x => if x.2.2.1 = 0 then landBytes x.1 x.2.2.2.1 (List.replicate x.2.2.2.2 0) d
    else modSlot x.1 (fun s => { s with valid := 65535 }) d) d)

/-- Give a command its slots, all at once (R192), and go on with its data. -/
def giveSlots (n : Nat) (d : Dev) : Dev :=
  let f := getFc n d
  let needs := needsOf f d
  let d := needs.foldl (fun d q =>
    match freeSlotNo d with
    | none => d
    | some m =>
      let d := modSlot m (fun s => { s with reserved := q.2.1 == 0 }) (giveSlot m f.cmd.nsid q.1 q.2.1 (some n) d)
      modFc n (fun f => { f with slots := f.slots ++ [m] }) d) d
  let d := modFc n (fun f => { f with reserved := 0, waitSlots := false }) { d with front.waiting := d.front.waiting.filter (· != n) }
  let d := showTight d
  if f.op != .write then landZeros n needs d
  else if f.cmd.data.isEmpty then fetchWrite n d else landCapsule n d

/-- A replication relationship holds the namespace's writes back (R462). -/
def throttled (nsid : Nat) (d : Dev) : Bool := d.md.rels.any fun r => r.2.nsid == nsid && r.2.held && r.2.throttle

/-- A command may take its slots now (R192, R193, R462). -/
def slotsFor (n : Nat) (d : Dev) : Bool :=
  let f := getFc n d
  let inCapsule := f.op == .write && !f.cmd.data.isEmpty
  (needsOf f d).length + slotsHeld d ≤ slotLimit d && (!d.stg.tight || inCapsule) && !throttled f.cmd.nsid d

/-- A command's earlier companions of its context still wait for slots; a capsule's data does not wait behind others while
admission is restricted. -/
def waitsBehind (n : Nat) (d : Dev) : Bool :=
  let f := getFc n d
  let inCapsule := f.op == .write && !f.cmd.data.isEmpty
  !(d.stg.tight && inCapsule) && ((d.front.waiting.takeWhile (· != n)).any fun m => (getFc m d).cmd.ctx == f.cmd.ctx)

/-- Row 9, then slots or a wait for them (R192, R193). -/
def startWrite (n : Nat) (d : Dev) : Dev :=
  let f := getFc n d
  let needs := needsOf f d
  let pool := (getNs f.cmd.nsid d).pool
  if needs.isEmpty then complete n 0 false d
  else if freeCapacity pool d < needBytes needs then completeOpen n 0x81 d
  else
    let d := modFc n (fun f => { f with reserved := needBytes needs, waitSlots := true }) (reserve pool (needBytes needs) d)
    let d := { d with front.waiting := d.front.waiting ++ [n] }
    if slotsFor n d && !waitsBehind n d then giveSlots n d else d

/-! ### Reads -/

/-- Look up every square of a Read, Compare or Verify (R315). -/
def startRead (n : Nat) (d : Dev) : Dev := forEach (List.range (cmdSquares n d).length) (fun i d => lookupSquare n i 0 d) d

/-! ### Reservations (R151; their rules are those of NVMe Base 2.0, PRESUMED) -/

def modResv (nsid : Nat) (f : Reservation → Reservation) (d : Dev) : Dev := modNs nsid (fun n => { n with resv := f n.resv }) d

/-- Key plus 1 of a registrant; 0 when the host is none. -/
def resvKey (r : Reservation) (host : Nat) : Nat := tget 0 r.keys host

/-- A registrant leaves: its reservation goes with it, one of all registrants with the last. -/
def unregister (host : Nat) (r : Reservation) : Reservation :=
  let keys := tset 0 r.keys host 0
  let gone := if r.rtype ≥ 5 then keys.isEmpty else r.holder == some host
  { r with keys := keys, gen := r.gen + 1, rtype := if gone then 0 else r.rtype, holder := if gone then none else r.holder }

/-- Reservation Register: the status. -/
def resvRegister (c : HostCmd) (d : Dev) : Nat × Dev :=
  let h := hostOf c d
  let r := (getNs c.nsid d).resv
  let key := resvKey r h
  let iekey := bitOf c.sel 3
  match c.sel % 8 with
  | 0 =>
    if key = 0 || key = c.val2 + 1 then (0, modResv c.nsid (fun r => { r with keys := tset 0 r.keys h (c.val2 + 1), gen := r.gen + 1 }) d)
    else (0x18, d)
  | 1 => if key ≠ 0 && (iekey || key = c.val + 1) then (0, modResv c.nsid (unregister h) d) else (0x18, d)
  | 2 =>
    if key ≠ 0 && (iekey || key = c.val + 1) then
      (0, modResv c.nsid (fun r => { r with keys := tset 0 r.keys h (c.val2 + 1), gen := r.gen + 1 }) d)
    else (0x18, d)
  | _ => (0x02, d)

/-- Reservation Acquire: acquire, preempt, preempt and abort (which aborts nothing, R167): the status. -/
def resvAcquire (c : HostCmd) (d : Dev) : Nat × Dev :=
  let h := hostOf c d
  let r := (getNs c.nsid d).resv
  let rtype := c.sel / 256 % 256
  if rtype = 0 || rtype > 6 || c.sel % 8 > 2 then (0x02, d)
  else if resvKey r h ≠ c.val + 1 then (0x18, d)
  else if c.sel % 8 = 0 then
    if r.rtype = 0 then (0, modResv c.nsid (fun r => { r with rtype := rtype, holder := some h }) d)
    else if r.rtype = rtype && (r.holder == some h || r.rtype ≥ 5) then (0, d)
    else (0x18, d)
  else
    let named := (r.keys.filter fun k => k.2 == c.val2 + 1).map (·.1)
    let taking := r.rtype ≠ 0 && (if r.rtype ≥ 5 then c.val2 == 0 || !named.isEmpty else (r.holder.any fun x => resvKey r x == c.val2 + 1))
    let all := if r.rtype ≥ 5 && c.val2 == 0 then r.keys.map (·.1) else named
    if all.isEmpty && !taking then (0x18, d)
    else (0, modResv c.nsid (fun r =>
      let r := { r with keys := r.keys.filter fun k => k.1 == h || !all.contains k.1, gen := r.gen + 1 }
      if taking then { r with rtype := rtype, holder := some h } else r) d)

/-- Reservation Release: release or clear: the status. -/
def resvRelease (c : HostCmd) (d : Dev) : Nat × Dev :=
  let h := hostOf c d
  let r := (getNs c.nsid d).resv
  if c.sel % 8 > 1 then (0x02, d)
  else if resvKey r h ≠ c.val + 1 then (0x18, d)
  else if c.sel % 8 = 1 then (0, modResv c.nsid (fun r => { r with keys := [], rtype := 0, holder := none, gen := r.gen + 1 }) d)
  else if r.holder == some h || (r.rtype ≥ 5 && resvKey r h ≠ 0) then
    if r.rtype ≠ c.sel / 256 % 256 then (0x02, d) else (0, modResv c.nsid (fun r => { r with rtype := 0, holder := none }) d)
  else (0, d)

/-! ### Namespaces (R147, R148, R548) -/

/-- The NSID that a create takes: one with a pending authorisation for the domain, else a free one of an OPEN domain. -/
def pickNsid (dom : Nat) (opn : Bool) (t : Spt) (d : Dev) : Option Nat :=
  let free (n : Nat) : Bool := !(getNs n d).exists_ && !(getSnap n 0 d).exists_
  match t.pendingBinds.find? fun b => b.2 == dom + 1 && free b.1 with
  | some b => some b.1
  | none =>
    if !opn then none
    else ((List.range (d.md.ns.length + d.md.snaps.length + t.pendingBinds.length + 2)).map (· + 1)).find? fun n =>
      n ≤ 65535 && free n && tget 0 t.pendingBinds n == 0

/-- Change the table in force and its stored copy (R548). -/
def modSpt (f : Spt → Spt) (d : Dev) : Dev :=
  match d.sxc.spt with
  | none => d
  | some t => { d with
      sxc.spt := some (f t)
      nv.spt := d.nv.spt.map fun c => if c.2.valid && c.2.table.version == t.version then (c.1, { c.2 with table := f c.2.table }) else c }

/-- Create a namespace: the status and its NSID. -/
def createNs (x : NsSpec) (d : Dev) : Nat × Nat × Dev :=
  let (dom, d) := sptDomain x.domain d
  let bps := blocksPerSquare x.lbaf
  if x.blocks = 0 ∨ x.blocks % bps ≠ 0 ∨ x.lbaf > 5 ∨ (if x.lbaf < 2 then x.pi ≠ 0 else x.pi = 0 ∨ x.pi > 3)
      ∨ x.group = 0 ∨ x.group > 128 ∨ !(getPool x.pool d).exists_ then (0x02, 0, d)
  else match d.sxc.spt with
    | none => (0x286, 0, d)
    | some t =>
      if !dom.valid then (0x286, 0, d)
      else match pickNsid x.domain dom.opn t d with
        | none => (0x286, 0, d)
        | some n =>
          let sq := x.blocks / bps
          let ns : Ns := { exists_ := true, size := sq, lbaf := x.lbaf, pi := x.pi, pool := x.pool, domain := x.domain, group := x.group
                           dedup := x.dedup, compare := x.compare, compress := x.compress, depth := mapDepth sq }
          let d := modSpt (fun t => { t with
            bindings := tset 0 t.bindings n (x.domain + 1), pendingBinds := tset 0 t.pendingBinds n 0 }) d
          (0, n, modNs n (fun _ => ns) (sptWrote (.binding n) d))

/-! ### Data that admin commands return -/

/-- The NQN of the subsystem (R143): the image's, else the default with head A's serial number; head B knows it from A's beacons, and before
the first of a boot in a way that the spec does not state. -/
def hexDigits : Nat → Nat → Bytes
  | 0, _ => []
  | n + 1, v => hexDigits n (v / 16) ++ [BitVec.ofNat 8 (if v % 16 < 10 then 48 + v % 16 else 87 + v % 16)]
def nqnPrefix : Bytes :=
  [0x6E, 0x71, 0x6E, 0x2E, 0x32, 0x30, 0x31, 0x36, 0x2D, 0x30, 0x34, 0x2E, 0x63, 0x6F, 0x6D, 0x2E, 0x72, 0x6F, 0x73, 0x6C, 0x65,
   0x6E, 0x73, 0x69, 0x6C, 0x69, 0x63, 0x6F, 0x6E, 0x3A, 0x71, 0x6E, 0x38, 0x39, 0x36, 0x30, 0x3A]
def subNqn (d : Dev) : Bytes :=
  if !d.oimCfg.nqn.isEmpty then d.oimCfg.nqn
  else
    let heard := (tget {} d.tmp.beacons (peerDev d)).serial
    let serial := if ownHead d = 0 then d.nv.serial else if heard = 0 then Config.headASerial else heard
    nqnPrefix ++ hexDigits 16 serial

/-- A controller's parameters in the order of Table 5.3, then FWUG, the firmware revision, the subsystem's NQN. -/
def controllerData (d : Dev) : List Nat :=
  [8, 128, 1023, 32, 516, 1, 0, 1, 65535, 65535, 128, 128, 2, 1, 0xAD, 1,
   leNat (sub (getFwSlot (runSlot d) d).image 48 8), leNat (subNqn d)]

/-- Reservation capabilities: PTPLS and every type (R151; the bits are NVMe Base 2.0's, PRESUMED). -/
def resCap : Nat := 0x7F

/-- A namespace's size in blocks, format, protection type, ANA group, reservation capabilities. -/
def namespaceData (nsid : Nat) (d : Dev) : List Nat :=
  let n := getNs nsid d
  if !n.exists_ then [0, 0, 0, 0, 0] else [n.size * blocksPerSquare n.lbaf, n.lbaf, n.pi, n.group, resCap]

/-- ANA states as the ANA log page codes them: 1 optimized, 2 non-optimized, 3 inaccessible, 4 persistent loss, 15 change
(Table 5.9; the codes are PRESUMED). -/
def anaState (g : Nat) (d : Dev) : Nat :=
  match anaStatus g d with
  | some 0x301 => 4
  | some 0x303 => 15
  | some _ => 3
  | none => if ownsGroup g d then 1 else 2

/-- The discovery entries: the subsystem's NQN, then port ID, transport (1 RDMA, 2 TCP), service port and port address for every host port that
was up at the last edge, this head's first (R179, R180). A port's address is open: the spec gives no field that sets it. -/
def discoveryData (d : Dev) : List Nat :=
  let entries (head p : Nat) : List Nat :=
    let a := Config.portAddress (head * 32 + p)
    [head * 32 + p, 1, 4420, a, head * 32 + p, 2, 4420, a]
  leNat (subNqn d) :: (those 32 fun p => bitOf d.front.listed p).flatMap (entries (ownHead d))
    ++ (if d.cas.hasPeer then (those 32 fun p => bitOf d.front.peerListed p).flatMap (entries (1 - ownHead d)) else [])

/-- The event type that a log page unmasks (R659). -/
def logEvent (lid : Nat) : Nat := match lid with | 0x04 => 1 | 0x03 => 2 | 0x0C => 3 | 0x70 => 4 | _ => 0

end Sys2Proof.Machine
end

