-- ==== Sys2Proof/Machine/ReplOps.lean ====
section
/-!
DEFINITION. Cuts, deletion walks, and the two ends of replication (spec/14_snapshots_and_replication.md, R437–R466).
-/

namespace Sys2Proof.Machine

def getRel (k : Nat) (d : Dev) : Rel := tget {} d.md.rels k
def modRel (k : Nat) (f : Rel → Rel) (d : Dev) : Dev := { d with md.rels := tmod {} d.md.rels k f }

/-- Tempo time in milliseconds. -/
def nowMs (d : Dev) : Nat := d.tmp.sec * 1000 + d.tmp.ns / 1000000

/-- The lag of a relationship in ms (R462): since the oldest transaction that the other end has not acknowledged. -/
def lagOf (x : Rel) (d : Dev) : Nat :=
  if x.target then 0
  else match (if x.streaming then (x.unacked.head?).map (·.ms) else x.oldest) with
    | some t => nowMs d - t
    | none => 0

/-- Show the selected relationship (Table 14.6). -/
def showRel (d : Dev) : Dev :=
  let x := getRel (rd Reg.NVF_REP_SEL_REL d) d
  let d := wr Reg.NVF_REP_CFG_RPO x.rpo (wr Reg.NVF_REP_CFG_INTERVAL x.interval (wr Reg.NVF_REP_CFG_ANCHOR x.anchor
    (wr Reg.NVF_REP_CFG_REPAIR_TMO x.repairTmo (wr Reg.NVF_REP_CFG_THROTTLE (b2n x.throttle) d))))
  wr Reg.NVF_REP_ST_STATE x.state (wr Reg.NVF_REP_ST_ROLE (b2n x.target) (wr Reg.NVF_REP_ST_MODE (b2n x.streaming)
    (wr Reg.NVF_REP_ST_LAG (min (lagOf x d) (2 ^ 32 - 1)) d)))

/-- NVF_REP_CFG has been written: its fields act on the relationship selected. -/
def takeRelCfg (d : Dev) : Dev :=
  modRel (rd Reg.NVF_REP_SEL_REL d) (fun x => { x with
    rpo := rd Reg.NVF_REP_CFG_RPO d, interval := rd Reg.NVF_REP_CFG_INTERVAL d, anchor := rd Reg.NVF_REP_CFG_ANCHOR d
    repairTmo := rd Reg.NVF_REP_CFG_REPAIR_TMO d, throttle := rdb Reg.NVF_REP_CFG_THROTTLE d }) d

/-! ### The mailbox (Table 14.6) -/

/-- Start a mailbox request; nothing while one runs (R621). -/
def mailStart (act sseq : Nat) (d : Dev) : Option Dev :=
  if rdb Reg.NVF_SNAP_CMD_GO d then none
  else some (setb Reg.NVF_SNAP_CMD_GO (setb Reg.NVF_SNAP_RES_BUSY (clr Reg.NVF_SNAP_RES_RESULT (clr Reg.NVF_SNAP_RES_VALUE
    (wr Reg.NVF_SNAP_CMD_ACT act (wr Reg.NVF_SNAP_CMD_SSEQ sseq d))))))

/-- End the mailbox request with a RESULT and a VALUE. -/
def mailEnd (result value : Nat) (d : Dev) : Dev :=
  clr Reg.NVF_SNAP_CMD_GO (clr Reg.NVF_SNAP_RES_BUSY (wr Reg.NVF_SNAP_RES_RESULT result (wr Reg.NVF_SNAP_RES_VALUE value d)))

/-! ### Cuts (R441, R442) -/

/-- Snapshots that count against the limits of R440. -/
def counted (d : Dev) : List Snap := (d.md.snaps.filter fun s => s.2.exists_ && !s.2.audit && s.2.sseq != 0).map (·.2)

/-- Stage a cut for the next edge. -/
def stageCut (nsids : List Nat) (role : CutRole) (d : Dev) : Dev :=
  { d with stg.cuts := d.stg.cuts ++ [{ nsids := nsids, sseq := d.md.sseqNext, edge := tempoNow d + 1, role := role }]
           md.sseqNext := d.md.sseqNext + 1 }

/-- A cut's edge has come and every slot of its namespaces older than the edge is COMMITTED or FREE (R442). -/
def cutReady (c : Cut) (d : Dev) : Bool :=
  c.tsn.isNone && c.edge ≤ tempoNow d
    && !(d.stg.slots.any fun p => c.nsids.contains p.2.nsid && 3 ≤ p.2.state && p.2.state < 6 && p.2.durTempo < c.edge)

/-- The descriptor that a cut's entry holds for a namespace. -/
def cutSnap (c : Cut) (nsid : Nat) (d : Dev) : Snap :=
  let tag (rel s : Nat) : Nat := (getRel rel d).remote * 2 ^ 32 + s
  { nsid := nsid, sseq := c.sseq, cutTempo := c.edge
    repl := match c.role with
      | .cycle _ => true
      | .anchor _ => true
      | _ => false
    xtag := match c.role with
      | .target rel s => tag rel s
      | .mark rel _ _ s => tag rel s
      | _ => 0 }

/-- Build the CUT transaction of a cut. -/
def commitCut (c : Cut) (d : Dev) : Dev :=
  let t := d.stg.tsnNext
  let es := c.nsids.map fun n => ({ action := 5, snap := some (cutSnap c n d) } : SqEntry)
  postRecord ((c.nsids.head?).getD 0) (.squares es) { d with stg.cuts := d.stg.cuts.map fun x => if x = c then { x with tsn := some t } else x }

/-- A snapshot that replication held is to be deleted. -/
def dropHeld (nsid sseq : Nat) (d : Dev) : Dev :=
  if sseq = 0 || !(getSnap nsid sseq d).exists_ then d
  else { modSnap nsid sseq (fun s => { s with repl := false }) d with stg.deletes := d.stg.deletes ++ [(nsid, sseq)] }

/-- The snapshots to be deleted are DELETING from this edge, RETAINED while they have two successors (R448). -/
def applyDeletes (d : Dev) : Dev :=
  d.stg.deletes.foldl (fun d x => modSnap x.1 x.2 (fun s => { s with deleting := true, retained := s.nsucc ≥ 2 }) d) { d with stg.deletes := [] }

/-! ### Sources: suspension and stream holds (R456, R458–R462) -/

/-- Build the DROP entries of GIDs, at most 64 to a transaction. -/
def postDrops (nsid : Nat) (gs : List Nat) (d : Dev) : Dev :=
  let es := gs.map fun g => ({ action := 6, oldGid := g } : SqEntry)
  (pieces (es.length + 1) es).foldl (fun d p => postRecord nsid (.squares p) d) d

/-- Release what a stream hold keeps, up to a TSN. -/
def releaseHold (k tsn : Nat) (d : Dev) : Dev :=
  let x := getRel k d
  let (go, stay) := x.hold.partition fun h => h.2 ≤ tsn
  if go.isEmpty then d else postDrops x.nsid (go.map (·.1)) (modRel k (fun x => { x with hold := stay }) d)

/-- A relationship enters SUSPENDED; a streaming one releases its hold and forgets what it has not sent. -/
def suspendRel (k : Nat) (d : Dev) : Dev :=
  let x := getRel k d
  if x.state ≠ 1 ∧ x.state ≠ 2 then d
  else
    let top := x.hold.foldl (fun m h => max m h.2) 0
    showRel (releaseHold k top (modRel k (fun x => { x with state := 3, unacked := [] }) d))

/-- Send what has not been sent of a stream (R459). -/
def pumpStream (k : Nat) (d : Dev) : Dev :=
  let x := getRel k d
  if x.state ≠ 2 then d
  else
    let d := (x.unacked.filter fun u => !u.sent).foldl (fun d u =>
      sendRepl x.peer (.streamRec k u.head u.tsn (u.anchor ≠ 0) (u.items.map (·.1))) d) d
    modRel k (fun x => { x with unacked := x.unacked.map fun u => { u with sent := true } }) d

/-- What a square's map entry is offered as: data, zero or unmapped. -/
def offerKind (g : Nat) : Nat := if g = gidOnes then 1 else if g = 0 then 2 else 0

/-- The squares whose entries differ between two roots, with the newer entry (R458). -/
def diffItems (new old : Snap) (d : Dev) : List (Offer × Nat) :=
  let a := mapAll new.root new.depth d
  let b := mapAll old.root old.depth d
  let at_ (l : List (Nat × Nat)) (sq : Nat) : Nat := ((l.find? fun p => p.1 == sq).map (·.2)).getD 0
  (((a ++ b).map (·.1)).eraseDups.filter fun sq => at_ a sq != at_ b sq).map fun sq =>
    ({ square := sq, kind := offerKind (at_ a sq) }, at_ a sq)

/-- DELTA_COMMIT, when every batch is answered and every GRANULE sent (R458). -/
def checkCycle (k : Nat) (d : Dev) : Dev :=
  let x := getRel k d
  match x.cycle with
  | some c =>
    if c.phase = 2 ∧ c.batches.isEmpty ∧ c.granules = 0 then
      sendRepl x.peer (.deltaCommit k c.sseq c.items.length) (modRel k (fun x => { x with cycle := some { c with phase := 3 } }) d)
    else d
  | none => d

/-- Offer every square of a cycle, 32 to a batch. -/
def offerAll (k : Nat) (d : Dev) : Dev :=
  let x := getRel k d
  match x.cycle with
  | some c =>
    let bs := List.range ((c.items.length + 31) / 32)
    let d := modRel k (fun x => { x with cycle := some { c with phase := 2, batches := bs } }) d
    checkCycle k (forEach bs (fun b d => sendRepl x.peer (.fpOffer k b (((c.items.drop (32 * b)).take 32).map (·.1))) d) d)
  | none => d

/-- Compare a cycle's snapshot with its base and read what differs (R458). -/
def compareCycle (k : Nat) (d : Dev) : Dev :=
  let x := getRel k d
  match x.cycle with
  | some c =>
    let items := diffItems (getSnap x.nsid c.sseq d) (if x.base = 0 then {} else getSnap x.nsid x.base d) d
    let data := (List.range items.length).filter fun i => (items[i]?).any fun q => q.1.kind == 0
    let d := modRel k (fun x => { x with cycle := some { c with
      phase := 1, items := items, reads := data.length, batches := [], granules := 0 } }) d
    if data.isEmpty then offerAll k d
    else forEach data (fun i d => match items[i]? with
      | some q => startGranule (.repl k 0 i false) x.nsid q.1.square q.2 0 d
      | none => d) d
  | none => d

/-- A square read for replication has ended (R458, R459). -/
def replRead (k batch i : Nat) (send_ : Bool) (st fmt : Nat) (pay plain : Bytes) (d : Dev) : Dev :=
  let x := getRel k d
  if st ≠ 0 then suspendRel k d
  else if send_ then
    let sq := if batch < 2 ^ 40 then x.cycle.bind fun c => (c.items[i]?).map fun q => q.1.square
      else (x.unacked.find? fun u => u.tsn == batch - 2 ^ 40).bind fun u => (u.items[i]?).map fun q => q.1.square
    match sq with
    | none => d
    | some sq =>
      let d := sendRepl x.peer (.granule k sq fmt pay) d
      if batch < 2 ^ 40 then checkCycle k (modRel k (fun x => { x with cycle := x.cycle.map fun c => { c with granules := c.granules - 1 } }) d)
      else d
  else match x.cycle with
    | some c =>
      if c.phase ≠ 1 then d
      else
        let items := c.items.modify i fun q => ({ q.1 with fp := sha256 plain }, q.2)
        let d := modRel k (fun x => { x with cycle := some { c with items := items, reads := c.reads - 1 } }) d
        if c.reads = 1 then offerAll k d else d
    | none => d

/-- A transaction of a SOURCE namespace has committed: it joins the stream, or dates the lag (R459, R462). -/
def noteSource (r : JRecord) (es : List SqEntry) (d : Dev) : Dev :=
  let es := es.filter fun e => e.action ≤ 4
  if es.isEmpty || !replOn d then d
  else forEach ((d.md.rels.filter fun x => x.2.nsid == r.nsid && !x.2.target && (x.2.state == 1 || x.2.state == 2)).map (·.1)) (fun k d =>
    let x := getRel k d
    if x.streaming then
      let u : OutTx := { head := r.head, tsn := r.tsn, ms := nowMs d, items := es.map fun e =>
        ({ square := e.square, kind := if e.action ≤ 2 then 0 else e.action - 2, fp := e.fp }, e.newGid) }
      let d := pumpStream k (modRel k (fun x => { x with unacked := x.unacked ++ [u] }) d)
      if (getRel k d).hold.length > 2 ^ 24 then suspendRel k d else d
    else if x.cycle.any (·.phase ≠ 0) then modRel k (fun x => { x with newer := x.newer.or (some (nowMs d)) }) d
    else modRel k (fun x => { x with oldest := x.oldest.or (some (nowMs d)) }) d) d

/-! ### Targets (R457, R459) -/

def getIn (k num : Nat) (d : Dev) : Option InBatch := d.repl.inb.find? fun b => b.rel == k && b.num == num
def modIn (k num : Nat) (f : InBatch → InBatch) (d : Dev) : Dev :=
  { d with repl.inb := d.repl.inb.map fun b => if b.rel = k ∧ b.num = num then f b else b }
def dropIn (k num : Nat) (d : Dev) : Dev := { d with repl.inb := d.repl.inb.filter fun b => !(b.rel == k && b.num == num) }
def modItem (k num i : Nat) (f : InItem → InItem) (d : Dev) : Dev := modIn k num (fun b => { b with items := b.items.modify i f }) d

/-- A pair-local HIT of an offer stands (R244), under a policy that lets it stand without the data (R457). -/
def offerHit (k g : Nat) (fp : Bytes) (d : Dev) : Bool × Dev :=
  let ns := getNs (getRel k d).nsid d
  let (cmp, d) := comparePolicy ns d
  let e := getGte g d
  (!cmp && (!gidLocal g d || (e.refcnt != 0 && !e.lost && !leavingGen e d && !(d.fiu.retiring.any (·.gid == g)) && e.kdom == ns.domain && e.fptag == fpTag fp)), d)

/-- The entry of a decided square. -/
def itemEntry (nsid : Nat) (x : InItem) (d : Dev) : SqEntry :=
  let ns := getNs nsid d
  let old := mapGet ns.root ns.depth x.offer.square d
  if x.dec = 6 then
    { square := x.offer.square, newGid := if x.offer.kind = 1 then gidOnes else 0, oldGid := old, action := 2 + x.offer.kind }
  else { square := x.offer.square, newGid := x.gid, oldGid := old, action := x.dec, fp := x.offer.fp }

/-- FP_NEED's bitmap: the squares asked for. -/
def needMap (b : InBatch) : Nat := (((List.range b.items.length).filter fun i => (b.items[i]?).any (·.dec == 3)).map (2 ^ ·)).sum

/-- The first batch of a stream that has no transaction yet (R459). -/
def streamFirst (k : Nat) (d : Dev) : Option InBatch :=
  (d.repl.inb.filter fun b => b.rel == k && b.stream).foldl (fun (m : Option InBatch) b =>
    match m with
    | none => some b
    | some q => if b.tsn < q.tsn then some b else m) none

/-- Build the one transaction of a stream batch whose squares are all decided, in TSN order (R459). An anchor without squares is cut at
once. -/
def applyStream (k : Nat) (d : Dev) : Dev :=
  match streamFirst k d with
  | none => d
  | some b =>
    let nsid := (getRel k d).nsid
    if !b.asked || b.posted.isSome || b.held.isSome || b.items.any fun x => x.dec == 0 || x.dec == 3 || x.dec == 4 || x.dec == 7 then d
    else if b.items.isEmpty then
      if b.anchor then let (v, d) := drawNat (2 ^ 32) d; stageCut [nsid] (.mark k b.head b.tsn v) (dropIn k b.num d)
      else sendRepl (getRel k d).peer (.streamAck k b.head b.tsn) (dropIn k b.num d)
    else
      let key := k * 2 ^ 32 + b.num
      let ready := tget [] d.stg.batches key
      let ns := getNs nsid d
      let es := b.items.map fun x =>
        match if x.dec = 5 then ready.find? (fun e => e.square == x.offer.square) else none with
        | some e => { e with oldGid := mapGet ns.root ns.depth e.square d }
        | none => itemEntry nsid x d
      let t := d.stg.tsnNext
      let h := d.stg.heldNext
      let d := postTx nsid es { d with stg.batches := tdel key d.stg.batches }
      modIn k b.num (fun b => if d.stg.tsnNext = t then { b with held := some h } else { b with posted := some t }) d

/-- A batch's squares are decided: FP_NEED goes out once; a cycle's hits, zeros and unmaps are applied (R457). -/
def settleBatch (k num : Nat) (d : Dev) : Dev :=
  match getIn k num d with
  | none => d
  | some b =>
    let x := getRel k d
    if b.items.any fun i => i.dec == 0 || i.dec == 7 then d
    else
      let d := if b.asked then d else sendRepl x.peer (.fpNeed k num (needMap b)) (modIn k num (fun b => { b with asked := true }) d)
      if b.stream then applyStream k d
      else
        let es := (b.items.filter fun i => i.dec == 1 || i.dec == 2 || i.dec == 6).map fun i => itemEntry x.nsid i d
        let rest := b.items.filter fun i => i.dec == 3
        let d := if rest.isEmpty then dropIn k num d else modIn k num (fun b => { b with items := rest }) d
        if es.isEmpty then d else postTx x.nsid es d

/-- The index has answered an offer (R457). -/
def offerAnswer (k num i : Nat) (a : ProbeAns) (d : Dev) : Dev :=
  match (getIn k num d).bind fun b => b.items[i]? with
  | none => d
  | some x =>
    if x.dec ≠ 0 then d
    else if a.result ≠ 0 then settleBatch k num (modItem k num i (fun x => { x with dec := 3 }) d)
    else
      let (ok, d) := offerHit k a.gid x.offer.fp d
      if !ok then settleBatch k num (modItem k num i (fun x => { x with dec := 3 }) d)
      else if gidLocal a.gid d then settleBatch k num (modItem k num i (fun x => { x with dec := 1, gid := a.gid }) d)
      else
        let w := firstWord (fpTag x.offer.fp)
        send (.refAdd a.gid w) (modItem k num i (fun x => { x with dec := 7, ans := some a, gid := a.gid, swaps := 1, expect_ := w }) d)

/-- A swap of an offer's reference add has returned (R206, R457). -/
def offerAdded (k num i : Nat) (old : Option Nat) (d : Dev) : Dev :=
  match (getIn k num d).bind fun b => b.items[i]? with
  | none => d
  | some x =>
    let need := settleBatch k num (modItem k num i (fun x => { x with dec := 3 }) d)
    if x.dec ≠ 7 then d
    else match old with
      | none => need
      | some v =>
        if v = x.expect_ then settleBatch k num (modItem k num i (fun x => { x with dec := 2 }) d)
        else if v / 2 ^ 32 = 0 || v % 2 ^ 32 ≠ fpTag x.offer.fp || x.swaps ≥ 8 then need
        else send (.refAdd x.gid v) (modItem k num i (fun x => { x with swaps := x.swaps + 1, expect_ := v }) d)

/-- A whole square enters staging as an internal write (R345, R457); nothing while no slot is free. -/
def stageInternal (nsid sq : Nat) (plain : Bytes) (batch : Option Nat) (d : Dev) : Option Dev :=
  match freeSlotNo d with
  | none => none
  | some n =>
    let pool := (getNs nsid d).pool
    let keep := freeCapacity pool d ≥ 8240
    let d := if keep then reserve pool 8240 d else d
    let d := modSlot n (fun s => { s with batch := batch, reserved := keep }) (giveSlot n nsid sq 0 none d)
    some (showTight (stageSlot n (landBytes n 0 plain d)))

/-- A payload of a GRANULE or a REPAIR_ANS as plaintext. -/
def payloadPlain (fmt : Nat) (pay : Bytes) : Option Bytes :=
  if fmt = 0 then (if pay.length = 8192 then some pay else none) else if fmt = 1 then zstdOpenFrame pay 8192 else none

/-- The target gives up what a source has under way. -/
def abandonIn (k : Nat) (d : Dev) : Dev :=
  modRel k (fun x => { x with wantCut := none, inSseq := 0 }) { d with repl.inb := d.repl.inb.filter fun b => b.rel != k }

/-- The matching snapshot is cut when every square of the delta is COMMITTED (R458). -/
def tryTargetCut (k : Nat) (d : Dev) : Dev :=
  let x := getRel k d
  match x.wantCut with
  | some s =>
    if (d.repl.inb.any fun b => b.rel == k) || (d.stg.slots.any fun p => p.2.nsid == x.nsid)
        || (d.stg.journal.any fun r => r.nsid == x.nsid && r.tsn > d.md.tsnOwn) || (d.stg.heldTx.any fun h => h.2.nsid == x.nsid) then d
    else stageCut [x.nsid] (.target k s) (modRel k (fun x => { x with wantCut := none }) d)
  | none => d

/-! ### What follows a cut (R442, R458, R461, R466) -/

/-- The live root is replaced by a snapshot's root; the old one is deleted (R465, R466). -/
def rollTo (nsid sseq : Nat) (d : Dev) : Dev :=
  postRecord nsid (.squares [{ action := 5, snap := some { nsid := nsid, sseq := 0, pred := (nsid, sseq) } }]) (buryRoot nsid d)

/-- The newest local snapshot whose XTAG names one of the other end's (R466). -/
def commonBase (k : Nat) (d : Dev) : Option Nat :=
  let x := getRel k d
  ((snapsOf x.nsid d).filter fun s => s.xtag / 2 ^ 32 == x.remote && s.xtag != 0 && !s.deleting).foldl (fun (m : Option Nat) s =>
    match m with
    | none => some s.sseq
    | some q => if q < s.sseq then some s.sseq else m) none

/-- A cut's transaction has been applied. -/
def cutApplied (c : Cut) (d : Dev) : Dev :=
  let d := { d with stg.cuts := d.stg.cuts.filter (· != c) }
  match c.role with
  | .host => mailEnd 1 c.sseq d
  | .cycle k =>
    let x := getRel k d
    if x.state ≠ 1 ∧ x.state ≠ 2 then d
    else
      let d := modRel k (fun x => { x with newer := none, unacked := [] }) d
      compareCycle k (sendRepl x.peer (.deltaBegin k c.sseq x.base) d)
  | .anchor k =>
    let u : OutTx := { head := ownHead d, tsn := c.tsn.getD 0, ms := nowMs d, anchor := c.sseq }
    pumpStream k (modRel k (fun x => { x with unacked := x.unacked ++ [u] }) d)
  | .target k s =>
    let x := getRel k d
    showRel (sendRepl x.peer (.deltaDone k s c.sseq 0) (modRel k (fun x => { x with base := c.sseq, state := if x.state = 1 then 2 else x.state }) d))
  | .mark k head tsn _ => sendRepl (getRel k d).peer (.streamAck k head tsn) d
  | .rollback k =>
    let x := getRel k d
    let d := modRel k (fun x => { x with target := true, state := 1, cycle := none, unacked := [] }) d
    let d := match commonBase k d with
      | some s => rollTo x.nsid s (modRel k (fun x => { x with base := s }) d)
      | none => modRel k (fun x => { x with base := 0 }) d
    showRel (mailEnd 1 c.sseq d)

/-- What follows an applied SQUARES record of this head: cuts, streams, batches. -/
def squaresApplied (r : JRecord) (es : List SqEntry) (d : Dev) : Dev :=
  let d := match d.stg.cuts.find? fun c => c.tsn == some r.tsn with
    | some c => cutApplied c d
    | none => d
  let d := noteSource r es d
  match d.repl.inb.find? fun b => b.posted == some r.tsn with
  | some b =>
    let d := dropIn b.rel b.num d
    let (v, d) := drawNat (2 ^ 32) d
    let d := if b.anchor then stageCut [r.nsid] (.mark b.rel b.head b.tsn v) d
      else sendRepl (getRel b.rel d).peer (.streamAck b.rel b.head b.tsn) d
    { d with todo := d.todo ++ [.batchReady b.rel b.num] }
  | none => d

/-- Squares of a batch have become ready: their entries stand. -/
def batchReady (k num : Nat) (d : Dev) : Dev :=
  let ready := (tget [] d.stg.batches (k * 2 ^ 32 + num)).map (·.square)
  let take (x : InItem) : InItem := if x.dec = 4 ∧ ready.contains x.offer.square then { x with dec := 5 } else x
  applyStream k (modIn k num (fun b => { b with items := b.items.map take }) d)

/-! ### The deletion walk (R448–R451) -/

/-- A step of a walk: the last square that is complete with it, and its entry. -/
abbrev WalkStep := Nat × SqEntry

/-- The walk of a deleted root against its successor's tree (R449): `k` levels from here, `marks` the predecessor's watermarks, `live`
the successor is a live root, `up` the successor's parent node and slot of the reference. -/
def walkTree (d : Dev) (marks : Option (Nat × Nat)) (live : Bool) : Nat → Nat → Nat → Nat → Nat × Nat → List WalkStep
  | 0, _, _, _, _ => []
  | k + 1, dref, qref, base, up =>
    let n := refNode dref
    let lastSq := (base + 1) * 512 ^ (k + 1) - 1
    if !refValid dref || marks.any (fun m => olderNode n m.1 m.2) then []
    else if refValid qref && refNode qref == n then
      if live then [(lastSq, { square := base * 512 ^ (k + 1), action := 8, page := up.1, sub := up.2 })] else []
    else
      let x := getNode n d
      let qn := if refValid qref then refNode qref else 0
      let inner : List WalkStep :=
        if k = 0 then (x.ent.filter fun e => !gidNil e.2).map fun e =>
          (base * 512 + e.1, { square := base * 512 + e.1, oldGid := e.2, action := 6 })
        else x.ent.flatMap fun e =>
          walkTree d marks live k e.2 (if refValid qref then tget 0 (getNode qn d).ent e.1 else 0) (base * 512 + e.1) (qn, e.1)
      inner ++ [(lastSq, { action := 7, page := n })]

/-- The sole successor of a root: its root reference, whether it is live, its namespace. -/
def walkQ (s : Snap) (d : Dev) : Nat × Bool × Nat :=
  match successors (s.nsid, s.sseq) d with
  | (a, _, true) :: _ => ((getNs a d).root, true, a)
  | (a, b, false) :: _ => ((getSnap a b d).root, false, a)
  | [] => (0, false, s.nsid)

/-- What is left of the walk of a deleted root. -/
def walkLeft (s : Snap) (d : Dev) : List WalkStep :=
  let (q, live, _) := walkQ s d
  (walkTree d (predMarks s.pred d) live s.depth s.root q 0 (0, 0)).filter fun w => s.walked ≤ w.1

/-- The steps of one transaction: whole squares, at most 63 steps. -/
def walkPiece (l : List WalkStep) : List WalkStep :=
  if l.length ≤ 63 then l
  else
    let next := ((l[63]?).map (·.1)).getD 0
    (l.take 63).filter fun w => w.1 < next

/-- A deleted root that this head may walk (R448): at most one successor. -/
def walkable (d : Dev) : Option Snap :=
  (d.md.snaps.find? fun s => s.2.exists_ && s.2.deleting && s.2.nsucc ≤ 1 && ownsNs s.2.nsid d
    && (successors (s.2.nsid, s.2.sseq) d).length ≤ 1).map (·.2)

/-- A record of this head for a namespace is built and not yet applied, or held (R450). -/
def nsBusy (nsid : Nat) (d : Dev) : Bool :=
  (d.stg.journal.any fun r => r.nsid == nsid && r.tsn > d.md.tsnOwn && (match r.body with
    | .squares _ => true
    | _ => false)) || d.stg.heldTx.any fun h => h.2.nsid == nsid

/-- One transaction of the walk of a deleted root; GONE when nothing is left (R449, R450). -/
def walkOnce (s : Snap) (d : Dev) : Dev :=
  let (_, _, q) := walkQ s d
  if nsBusy s.nsid d || nsBusy q d then d
  else match walkPiece (walkLeft s d) with
    | [] => postRecord s.nsid (.squares [{ action := 10, page := s.sseq }]) d
    | l =>
      let last := (l.getLast?.map (·.1)).getD 0
      postRecord s.nsid (.squares (l.map (·.2) ++ [{ square := last, action := 9, page := s.sseq }])) d

/-- A walk's transaction is not yet applied that a namespace's own transactions must wait for (R450). -/
def walkHolds (nsid : Nat) (d : Dev) : Bool :=
  d.stg.journal.any fun r => r.tsn > d.md.tsnOwn && (match r.body with
    | .squares es => es.any (fun e => e.action == 9) && (r.nsid == nsid || (d.md.snaps.any fun s =>
        s.2.nsid == r.nsid && s.2.deleting && (walkQ s.2 d).2.2 == nsid))
    | _ => false)

end Sys2Proof.Machine
end

