-- ==== Sys2Proof/Machine/AfterCommit.lean ====
section
/-!
DEFINITION. What follows when a record of this head has been applied: INSERT jobs (spec/07_dedup_index.md,
R246), pin drops (R250), rebuilt segments (R429), cuts, streams and batches (R442, R458–R461), GIDs that leave the doubt list (spec/14_snapshots_and_replication.md, R445).
-/

namespace Sys2Proof.Machine

/-- The INSERT jobs of an applied SQUARES record (R246), with the slot that the probe hinted. -/
def owedInserts (es : List SqEntry) : List IndexJob :=
  (es.filter fun e => (e.action == 0 || e.action == 11) && e.insert).map fun e =>
    ⟨e.newGid, (e.gte.map (·.kdom)).getD 0, e.fp, if e.sub > 63 then 0xFF else e.sub⟩

/-- Arm the erase gate for the blocks of a DRAINED segment (R363, R352). -/
def armSegment (s : Nat) (d : Dev) : Dev :=
  let keys := (getSeg s d).cols.map fun c => blkKey c.member c.block
  { d with ftl.gate := d.ftl.gate ++ keys.filter fun k => !d.ftl.gate.contains k }

/-- The columns of a rebuilt segment are in force (R429): it leaves the rebuild queue, unless a further column has failed since. -/
def endRebuild (s : Nat) (d : Dev) : Dev :=
  let d := { d with ftl.rebuild := d.ftl.rebuild.filter (·.seg != s) }
  let d := if d.ftl.rebuild.isEmpty then { d with ftl.given := [] } else d
  queueRebuild s (showRebuild d)

/-- A record of this head has been applied. -/
def afterCommit (r : JRecord) (d : Dev) : Dev :=
  match r.body with
  | .squares es =>
    let gone := tget [] d.stg.gained r.tsn
    squaresApplied r es { d with
      fiu.inserts := d.fiu.inserts ++ owedInserts es
      fiu.doubt := d.fiu.doubt.filter fun g => !gone.contains g
      stg.gained := tdel r.tsn d.stg.gained }
  | .segDrain s => armSegment s d
  | .segClose s rows _ => if rows = 0 then armSegment s d else queueRebuild s d
  | .pageMap _ => r.news.foldl (fun d x => match x with
      | .columns s _ => endRebuild s d
      | .lost _ => d) d
  | .pinDrop gs => bumpBy Reg.FIU_PIN_DROPS gs.length d
  | _ => d

end Sys2Proof.Machine
end

