-- ==== Sys2Proof/Machine/CdtOps.lean ====
section
/-!
DEFINITION. The Cerco datagram transport (spec/15_cerco_transport.md, R470–R495, R652): paths, sequence numbers, messages and
their reports, the receiver's filter, windows and services.
-/

namespace Sys2Proof.Machine

/-! ### Tables and arithmetic (R474) -/

def getDst (n : Nat) (d : Dev) : CdtDst := tget {} d.cdt.dsts n
def modDst (n : Nat) (f : CdtDst → CdtDst) (d : Dev) : Dev := { d with cdt.dsts := tmod {} d.cdt.dsts n f }
def pathKey (dev port : Nat) : Nat := dev * 4 + port
def getPath (dev port : Nat) (d : Dev) : CdtPath := tget {} d.cdt.paths (pathKey dev port)
def modPath (dev port : Nat) (f : CdtPath → CdtPath) (d : Dev) : Dev :=
  { d with cdt.paths := tmod {} d.cdt.paths (pathKey dev port) f }
def getSrc (n : Nat) (d : Dev) : CdtSrc := tget {} d.cdt.srcs n
def modSrc (n : Nat) (f : CdtSrc → CdtSrc) (d : Dev) : Dev := { d with cdt.srcs := tmod {} d.cdt.srcs n f }
def getRx (dev port : Nat) (d : Dev) : CdtRx := tget {} d.cdt.rxs (pathKey dev port)
def modRx (dev port : Nat) (f : CdtRx → CdtRx) (d : Dev) : Dev := { d with cdt.rxs := tmod {} d.cdt.rxs (pathKey dev port) f }

/-- The distance from `b` up to `a`, modulo 2^32; `a` at or above `b`; `a` newer than `b`. -/
def distFrom (a b : Nat) : Nat := (a % 2 ^ 32 + 2 ^ 32 - b % 2 ^ 32) % 2 ^ 32
def atOrAbove (a b : Nat) : Bool := distFrom a b < 2 ^ 31
def newer (a b : Nat) : Bool := distFrom a b != 0 && atOrAbove a b

def maxAge (d : Dev) : Nat := rd Reg.CDT_CTRL_MAX_AGE d
/-- The low 32 bits of this device's boot number. -/
def bootLow (d : Dev) : Nat := rd Reg.SXC_BOOT_BOOT d % 2 ^ 32

/-! ### Paths and presence (R470, R497) -/

def portRole (p : Nat) (d : Dev) : Nat := rd (Reg.CDT_PORT_ROLE p) d

/-- A port has a path to a DEV (R470). -/
def hasPath (dev p : Nat) (d : Dev) : Bool :=
  let x := getPath dev p d
  portRole p d != 0 && rdb (Reg.CDT_PORT_UP p) d && !x.down && dev != ownDev d
    && ((portRole p d == 1 && d.cas.hasPeer && dev == peerDev d)
      || (match x.heard with | some t => decide (tempoNow d ≤ t + 3000) | none => false))

/-- The ports with a path to a DEV. -/
def pathPorts (dev : Nat) (d : Dev) : List Nat := those 4 fun p => hasPath dev p d

/-- Issue again on a returned path what waited for one (R197). -/
def resendMirror (port : Nat) (d : Dev) : Dev :=
  sendAll (d.stg.left.map fun i => Out.mirrorOn port i) { d with stg.left := [] }

/-- Every pool integrity key of this pair, sent to a device that has become present (R306). -/
def sendPoolKeys (dev : Nat) (d : Dev) : Dev :=
  sendAll ((those 32 fun p => (getPool p d).exists_).map fun p => .keyTransfer dev (4096 + ownDev d * 32 + p) 0) d

/-- Bring CDT_PORTn.PATHS and the set of present DEVs up to date; the Notices of R497. A path to the peer that stands before or after
the change has stood in this tempo (R505). -/
def showPaths (d : Dev) : Dev :=
  let had := those 4 fun p => bitOf (rd (Reg.CDT_PORT_PATHS p) d) (peerDev d)
  let d := if had.isEmpty && (pathPorts (peerDev d) d).isEmpty then d else { d with cas.pathSeen := tempoNow d }
  let d := forEach (List.range 4) (fun p d =>
    wr (Reg.CDT_PORT_PATHS p) (((those 8 fun v => hasPath v p d).map fun v => 2 ^ v).sum) d) d
  let now := those 8 fun v => !(pathPorts v d).isEmpty
  let before := d.cdt.present
  let d := { d with cdt.present := now }
  let d := forEach (before.filter fun v => !now.contains v) (fun v d =>
    setb Reg.CDT_STATUS_PEER_LOST (notice Ev.CDT_PEER_LOST (unitOf 0x13 v) v 0 d)) d
  let d := forEach (now.filter fun v => !before.contains v) (fun v d =>
    sendPoolKeys v (setb Reg.CDT_STATUS_PEER_NEW (notice Ev.CDT_PEER_NEW (unitOf 0x13 v) v 0 d))) d
  match (pathPorts (peerDev d) d).find? fun p => !had.contains p with
  | some p => if d.cas.hasPeer && !peerLost d then resendMirror p d else d
  | none => d

/-! ### Sending (R474–R477, R480) -/

/-- The floor for a destination (R479, R480): the lowest MSN outstanding or failed less than MAX_AGE tempi ago. -/
def floorOf (n : Nat) (d : Dev) : Nat :=
  let t := getDst n d
  let l := t.msgs.map (·.msn) ++ (t.failed.filter fun f => tempoNow d < f.2 + maxAge d).map (·.1)
  l.foldl (fun b m => if distFrom t.msnNext b < distFrom t.msnNext m then m else b) t.msnNext

/-- One more MSN fits the window of 4,096 (R480). -/
def msnRoom (n : Nat) (d : Dev) : Bool := distFrom (getDst n d).msnNext (floorOf n d) < 4096

/-- The tag of a packet: the PCP of its kind, and none while CDT_CTRL.VLAN is 0 (R471). -/
def pktTag (reliable : Bool) (d : Dev) : Option (Nat × Nat) :=
  let v := rd Reg.CDT_CTRL_VLAN d
  if v == 0 then none
  else some (if reliable then rd Reg.CDT_CTRL_PCP_DATA d else rd Reg.CDT_CTRL_PCP_CTRL d, v)

/-- A packet to another pair, 48 bytes of header and 4 of trailer around its payload, counts against the mirror limit on a port that reaches
the peer (R32). -/
def countCluster (dst port len : Nat) (d : Dev) : Dev :=
  if dst != peerDev d && (pathPorts (peerDev d) d).contains port then { d with cdt.clusterBytes := d.cdt.clusterBytes + 52 + len } else d

/-- A packet leaves its port with its tag (R471); an armed CDT_INJ inverts the trailer of the next reliable one (R472). -/
def emitPkt (dst port : Nat) (h : CdtHdr) (payload : Bytes) (reliable : Bool) (d : Dev) : Dev :=
  let d := countCluster dst port payload.length d
  let h := { h with src := ownDev d, dst := dst, port := port, boot := bootLow d, floor := floorOf dst d, tag := pktTag reliable d }
  if reliable && rdb Reg.CDT_INJ_ARM d && rd Reg.CDT_INJ_PORT d == port then
    send (.cdtPacket port h payload true) (clr Reg.CDT_INJ_ARM d)
  else send (.cdtPacket port h payload false) d

/-- Send the packets that wait on a path, as far as its window of 1,024 allows (R477). -/
def pumpPath (dst port : Nat) : Nat → Dev → Dev
  | 0, d => d
  | n + 1, d =>
    let x := getPath dst port d
    match x.queue with
    | [] => d
    | q :: qs =>
      if x.unacked.length ≥ 1024 then d
      else
        let q := { q with hdr := { q.hdr with psn := x.next } }
        let d := modPath dst port (fun x => { x with next := (x.next + 1) % 2 ^ 32, unacked := x.unacked ++ [q], queue := qs }) d
        pumpPath dst port n (emitPkt dst port q.hdr q.payload true d)

/-- Give a path packets to send. -/
def sendPkts (dst port : Nat) (l : List CdtPkt) (d : Dev) : Dev :=
  let d := modPath dst port (fun x => { x with queue := x.queue ++ l }) d
  pumpPath dst port ((getPath dst port d).queue.length) d

/-- Cut bytes into payloads of at most 8,192 (R475): at least one. -/
def chunks (b : Bytes) : List Bytes :=
  if b.isEmpty then [[]] else (List.range ((b.length + 8191) / 8192)).map fun i => (b.drop (8192 * i)).take 8192

/-- The packets of a message of one type: `off` gives OFF by PIDX. -/
def packetsOf (type key msn tempo0 : Nat) (off : Nat → Nat) (l : List Bytes) : List CdtPkt :=
  (l.zip (List.range l.length)).map fun p =>
    { hdr := { type := type, key := key, msn := msn, tempo0 := tempo0, len := p.1.length, pidx := p.2, off := off p.2
               first := p.2 == 0, last := p.2 + 1 == l.length }
      payload := p.1 }

/-- A message takes the next MSN of its destination and counts as created (R474, R492). -/
def openMsg (dst : Nat) (m : CdtMsg) (d : Dev) : CdtMsg × Dev :=
  let t := getDst dst d
  let m := { m with msn := t.msnNext, tempo0 := tempoNow d }
  let d := modDst dst (fun t => { t with msnNext := (t.msnNext + 1) % 2 ^ 32, msgs := t.msgs ++ [m] }) d
  (m, bump Reg.CDT_OUT_COUNT (bump Reg.CDT_SENT_COUNT d))

/-! ### Reports (R256, R489, R491, R492) -/

def cdtDesc (r i : Nat) (d : Dev) : Nat := rd (Reg.CDT_RING_BASE r) d + i % 256 * 64

/-- The consumer index moves past every started descriptor with a final STATUS (R256). -/
def advanceCdt (r : Nat) : Nat → Dev → Dev
  | 0, d => d
  | n + 1, d =>
    let c := rd (Reg.CDT_RPTR_CONS r) d
    let started := (tget 0 d.cdt.next r + 65536 - c) % 65536
    if started = 0 || (memByte d (cdtDesc r c d + 48)).toNat = 0 then d
    else advanceCdt r n (wr (Reg.CDT_RPTR_CONS r) ((c + 1) % 65536) d)

/-- End a descriptor: bytes behind STATUS first, then STATUS; the interrupt that INTR asks for (R256, R491). -/
def reportDesc (r i status reason nak outcome bytes : Nat) (intr : Bool) (d : Dev) : Dev :=
  let a := cdtDesc r i d
  let d := storeMem (a + 49) (leBytes 1 reason ++ leBytes 1 nak ++ leBytes 1 outcome ++ leBytes 4 bytes) d
  let d := advanceCdt r 256 (storeNat (a + 48) 1 status d)
  if intr then ringDone 5 (rd (Reg.CDT_RING_CLUSTERS r) d) d else d

/-- A message ends with its one report (R491, R492). `ok`: STATUS OK; otherwise FAILED with REASON, NAK code and OUTCOME. -/
def endMsg (dst : Nat) (m : CdtMsg) (ok : Bool) (reason nak outcome bytes : Nat) (d : Dev) : Dev :=
  let d := modDst dst (fun t => { t with
    msgs := t.msgs.filter (·.msn != m.msn)
    failed := if ok then t.failed else (t.failed.filter fun f => tempoNow d < f.2 + maxAge d) ++ [(m.msn, tempoNow d)] }) d
  let d := wr Reg.CDT_OUT_COUNT (rd Reg.CDT_OUT_COUNT d - 1) d
  let d := if ok then bump Reg.CDT_ACKED_COUNT d else bump Reg.CDT_FAILED_COUNT d
  let d := match if ok then 0 else reason with
    | 1 => bump Reg.CDT_FAILR_LINK_DOWN d
    | 2 => bump Reg.CDT_FAILR_RETRY d
    | 3 => bump Reg.CDT_FAILR_AGE d
    | 4 => bump Reg.CDT_FAILR_NAK d
    | _ => d
  match m.desc with
  | some (r, i) => reportDesc r i (if ok then 1 else 2) (if ok then 0 else reason) nak outcome bytes m.intr d
  | none => d

/-- Bytes of a message that have been acknowledged (WRITE, SEND) or landed (READ). -/
def bytesDone (m : CdtMsg) : Nat :=
  if m.op = 3 then (m.landed.map (·.2)).sum
  else (m.acked.map fun i => min 8192 (m.len - 8192 * i)).sum

/-- A message fails for a reason other than a NAK: NOT_DONE when no packet left the port, otherwise UNKNOWN (R491). Its packets that
have no PSN yet are dropped. -/
def failMsg (dst reason : Nat) (m : CdtMsg) (d : Dev) : Dev :=
  let mine (q : CdtPkt) : Bool := q.hdr.msn == m.msn && q.hdr.type != 4 && q.hdr.type != 6
  let unsent := ((getPath dst m.port d).queue.filter mine).length
  let d := modPath dst m.port (fun x => { x with queue := x.queue.filter fun q => !mine q }) d
  endMsg dst m false reason 0 (if unsent = m.pkts then 1 else 3) (if m.op ≤ 3 then bytesDone m else 0) d

/-- Every outstanding message of a destination on a port fails. -/
def failPath (dst port reason : Nat) (d : Dev) : Dev :=
  ((getDst dst d).msgs.filter (·.port == port)).foldl (fun d m => failMsg dst reason m d) d

/-- A path reaches the retry limit (R470, R477): it goes down, and every message outstanding on it fails. -/
def pathDown (dst port : Nat) (d : Dev) : Dev :=
  let d := failPath dst port 2 (setb Reg.CDT_STATUS_PATH_DOWN d)
  showPaths (modPath dst port (fun x => { x with
    down := true, heard := none, unacked := x.unacked.map fun q => { q with tries := 0, defer_ := false } }) d)

/-- A Cerco port's link goes down: every message outstanding on it fails (R478). -/
def cercoDown (p : Nat) (d : Dev) : Dev :=
  showPaths (forEach (List.range 8) (fun v d => failPath v p 1 d) (clr (Reg.CDT_PORT_UP p) d))

/-- A destination has rebooted (R484): what is outstanding fails; MSNs start at 1 and PSNs at 0 on each path. -/
def peerReboot (dst boot : Nat) (d : Dev) : Dev :=
  match (getDst dst d).boot with
  | none => modDst dst (fun t => { t with boot := some boot }) d
  | some b =>
    if !newer boot b then d
    else
      let d := (getDst dst d).msgs.foldl (fun d m => failMsg dst 5 m d) d
      let d := modDst dst (fun t => { t with msnNext := 1, failed := [], boot := some boot }) d
      forEach (List.range 4) (fun p d => modPath dst p (fun x => { x with next := 0, unacked := [], queue := [] }) d) d

/-! ### Messages of the internal queues (R652) -/

/-- The messages that an output stands for: destination, op, bytes. What an output is sent to by firmware over a ring or by a block
over its internal queue is one message each. -/
def messagesOf (o : Out) (d : Dev) : List (Nat × Nat × Nat) :=
  let peer : List Nat := if d.cas.hasPeer then [peerDev d] else []
  match o with
  | .mirrorSlot _ => peer.map fun v => (v, 2, 8384)
  | .mirrorCmd _ => peer.map fun v => (v, 2, 64)
  | .mirrorRecord _ => peer.map fun v => (v, 2, 8192)
  | .mirrorOn _ (.slot _) => peer.map fun v => (v, 2, 8384)
  | .mirrorOn _ (.cmd _) => peer.map fun v => (v, 2, 64)
  | .mirrorOn _ (.record _) => peer.map fun v => (v, 2, 8192)
  | .mirrorRead _ => peer.map fun v => (v, 3, 8192)
  | .resign _ _ => peer.map fun v => (v, 1, 64)
  | .shareCmd _ _ => peer.map fun v => (v, 1, 64)
  | .forward _ c => peer.map fun v => (v, 1, 64 + c.data.length)
  | .answer _ _ (.data _ b) => peer.map fun v => (v, 1, 64 + b.length)
  | .answer _ _ _ => peer.map fun v => (v, 1, 64)
  | .foreignRelease g => [(gidDev g, 4, 8)]
  | .refAdd g _ => [(gidDev g, 5, 8)]
  | .indexProbe v _ _ _ _ => [(v, 1, 64)]
  | .indexReply v _ _ => [(v, 1, 64)]
  | .indexSwap v _ _ _ => [(v, 5, 32)]
  | .frameFetch v _ _ _ _ => [(v, 1, 64)]
  | .frameReply v _ _ _ _ => [(v, 1, 64)]
  | .auditCounts _ _ => (d.cdt.present.filter fun v => v / 2 != ownDev d / 2).map fun v => (v, 1, 8192)
  | .keyTransfer v _ _ => [(v, 1, 256)]
  | .digest m => peer.map fun v => (v, 1, 32 + 36 * m.entries.length)
  | .recheckReq _ _ | .recheckAns _ _ _ | .ownerStage _ _ _ | .rejoinReq _ | .rejoinGrant _ => peer.map fun v => (v, 1, 64)
  | _ => []

/-- The port that an output asks for (R197). -/
def portAsked (o : Out) : Option Nat :=
  match o with
  | .mirrorOn p _ => some p
  | _ => none

/-- Create an internal message: on the port asked for, or on the ports with a path to its destination in rotation; with none it fails with NO_PATH (R491,
R652). Its packets carry what the output that stands for it shows. -/
def createInternal (x : Nat × Nat × Nat × Option Nat) (d : Dev) : Dev :=
  let (v, op, len, port) := x
  match pathPorts v d with
  | [] => let (m, d) := openMsg v { op := op, port := 0, msn := 0, tempo0 := 0, len := len } d; endMsg v m false 6 0 1 0 d
  | ps =>
    let r := (getDst v d).rot
    let p := (port.filter ps.contains).getD ((ps.find? fun p => r < p).getD (ps.headD 0))
    let n := (len + 8191) / 8192
    let (m, d) := openMsg v { op := op, port := p, msn := 0, tempo0 := 0, len := len, pkts := n } (modDst v (fun t => { t with rot := p }) d)
    let type := if op ≤ 2 then op else 5
    let l := (List.range n).map fun i => ({
      hdr := { type := type, msn := m.msn, tempo0 := m.tempo0, pidx := i, len := min 8192 (len - 8192 * i), first := i == 0
               last := i + 1 == n } } : CdtPkt)
    sendPkts v p l d

/-- Internal messages that waited for the MSN window, while it has room (R480). -/
def pumpWaiting : Nat → Dev → Dev
  | 0, d => d
  | n + 1, d =>
    match d.cdt.waiting.find? fun x => msnRoom x.1 d with
    | none => d
    | some x => pumpWaiting n (createInternal x { d with cdt.waiting := d.cdt.waiting.erase x })

/-- The transport runs (CDT_CTRL.EN, R484). -/
def cdtRuns (d : Dev) : Bool := rdb Reg.CDT_CTRL_EN d && d.cdt.start.isSome

/-- What the command's outputs hand to the transport. -/
def takeMessages (d : Dev) : Dev :=
  if !cdtRuns d then d
  else
    let l := d.out.flatMap fun o => (messagesOf o d).map fun m => (m.1, m.2.1, m.2.2, portAsked o)
    if l.isEmpty && d.cdt.waiting.isEmpty then d
    else
      let d := { d with cdt.waiting := d.cdt.waiting ++ l }
      pumpWaiting d.cdt.waiting.length d

/-! ### Request rings (R489, R490, Table 15.5) -/

/-- An earlier message of the ring to the same destination is not final (R490). -/
def fenceBlocks (r dst : Nat) (d : Dev) : Bool :=
  (getDst dst d).msgs.any fun m => match m.desc with | some (r', _) => r' == r | none => false

/-- The input of a SEND or WRITE descriptor: fragments whose lengths total LEN. -/
def cdtInput (b : Bytes) (d : Dev) : Option (List (Nat × Nat)) :=
  match jobInput (bitOf (fld b 3 1) 0) (fld b 8 8) (fld b 4 4) d with
  | some fs => if fragTotal fs = fld b 4 4 then some fs else none
  | none => none

/-- A descriptor breaks Table 15.5 (R475, R487, R489). -/
def cdtBad (b : Bytes) (d : Dev) : Bool :=
  let op := fld b 0 1
  let len := fld b 4 4
  let atomic := op == 4 || op == 5
  op < 1 || op > 5 || fld b 1 1 > 7 || (fld b 2 1 > 3 && fld b 2 1 != 0xFF) || fld b 3 1 ≥ 8
    || (bitOf (fld b 3 1) 0 && op > 2) || fld b 28 4 != 0 || (!atomic && fld b 32 8 != 0)
    || (match op with
      | 1 => len > 16320 || fld b 16 8 != 0 || fld b 24 4 ≥ 256 || (cdtInput b d).isNone
      | 2 => len > 1048576 || (cdtInput b d).isNone
      | 3 => len > 1048576 || (len != 0 && !inMem (fld b 8 8) len)
      | 4 => len != 8 || !inMem (fld b 8 8) 8 || !inMem (fld b 32 8) 8
      | _ => !([8, 16, 32].contains len) || !inMem (fld b 8 8) (2 * len) || !inMem (fld b 32 8) len)

/-- A ring's oldest unstarted descriptor can be taken: its FENCE is met and its MSN window has room (R480, R490). -/
def cdtStartable (r : Nat) (d : Dev) : Bool :=
  let i := tget 0 d.cdt.next r
  if i = rd (Reg.CDT_RPTR_PROD r) d then false
  else
    let b := memRead d (cdtDesc r i d) 64
    cdtBad b d || (msnRoom (fld b 1 1) d && !(bitOf (fld b 3 1) 2 && fenceBlocks r (fld b 1 1) d))

/-- The ring whose descriptor is taken next: the highest PRIO with work, rings of equal PRIO in rotation (R257, R489). -/
def cdtRing (d : Dev) : Option Nat :=
  let l := ((List.range 16).map fun i => (d.cdt.rot + 1 + i) % 16).filter fun r => cdtStartable r d
  l.foldl (fun b r => match b with
    | none => some r
    | some q => if rd (Reg.CDT_RING_PRIO q) d < rd (Reg.CDT_RING_PRIO r) d then some r else b) none

/-- The payloads of a request's packets, and whether a source read met poison (R475, R491). -/
def cdtPayload (op : Nat) (b : Bytes) (d : Dev) : List Bytes × Bool × Dev :=
  let len := fld b 4 4
  match op with
  | 1 | 2 => let (x, p, d) := readFrags 0 ((cdtInput b d).getD []) len d; (chunks x, p, d)
  | 3 => ([leBytes 4 len ++ leBytes 4 0], false, d)
  | _ =>
    let n := if op = 4 then 8 else 2 * len
    let (x, p, d) := laneRead 0 (fld b 8 8) n d
    ([leBytes 1 (if op = 4 then 1 else 2) ++ leBytes 1 len ++ List.replicate 6 0 ++ x], p, d)

/-- Take the next descriptor when its OP is `op`; one that lists no OP of Table 15.5 goes to SEND. It ends REFUSED, or its message is
created and transmitted (R487, R489–R491). `cut`: a source read is cut off. -/
def cdtTake (op : Nat) (cut : Bool) (d : Dev) : Dev :=
  if !cdtRuns d then d
  else match cdtRing d with
  | none => d
  | some r =>
    let i := tget 0 d.cdt.next r
    let b := memRead d (cdtDesc r i d) 64
    let o := fld b 0 1
    if (if 1 ≤ o ∧ o ≤ 5 then o else 1) ≠ op then d
    else
      let d := { d with cdt.next := tset 0 d.cdt.next r ((i + 1) % 65536), cdt.rot := r }
      let intr := bitOf (fld b 3 1) 1
      if cdtBad b d then reportDesc r i 3 0 0 0 0 intr d
      else
        let dst := fld b 1 1
        let ports := if fld b 2 1 = 0xFF then pathPorts dst d else (pathPorts dst d).filter (· == fld b 2 1)
        let (pick, d) := pickFree ports d
        let (l, poison, d) := cdtPayload op b d
        let m : CdtMsg := {
          desc := some (r, i), op := op, port := pick.getD 0, msn := 0, tempo0 := 0, len := fld b 4 4, laddr := fld b 8 8
          off := fld b 16 8, res := fld b 32 8, intr := intr, fence := bitOf (fld b 3 1) 2, pkts := l.length }
        let (m, d) := openMsg dst m d
        let d := storeNat (cdtDesc r i d + 56) 8 m.tempo0 d
        match pick with
        | none => endMsg dst m false 6 0 1 0 d
        | some p =>
          if cut || poison then endMsg dst m false 7 0 1 0 d
          else
            let type := match op with | 1 => 1 | 2 => 2 | 3 => 3 | _ => 5
            let key := if op = 1 then fld b 24 4 % 256 else fld b 24 4
            let off (i : Nat) : Nat := if op = 1 then m.len else if op = 2 then m.off + 8192 * i else m.off
            sendPkts dst p (packetsOf type key m.msn m.tempo0 off l) d

/-! ### Acknowledgements at the sender (R476, R477, R484) -/

/-- An ACK or NAK covers a PSN. -/
def ackCovers (cum : Nat) (sack : Nat) (psn : Nat) : Bool :=
  !atOrAbove psn cum || (distFrom psn cum ≥ 1 && distFrom psn cum ≤ 64 && bitOf sack (distFrom psn cum - 1))

/-- A packet of a message has been acknowledged; a SEND or WRITE whose packets all are ends OK (R491). -/
def ackPkt (dst : Nat) (q : CdtPkt) (d : Dev) : Dev :=
  if q.hdr.type = 4 ∨ q.hdr.type = 6 then d
  else match (getDst dst d).msgs.find? (·.msn == q.hdr.msn) with
  | none => d
  | some m =>
    let m' := { m with acked := if m.acked.contains q.hdr.pidx then m.acked else m.acked ++ [q.hdr.pidx] }
    let d := modDst dst (fun t => { t with msgs := t.msgs.map fun x => if x.msn = m.msn then m' else x }) d
    if m.op ≤ 2 && m'.acked.length == m.pkts then endMsg dst m' true 0 0 0 (bytesDone m') d else d

/-- Send a packet again with RETX set (R477). -/
def resendPkt (dst port : Nat) (q : CdtPkt) (count : Bool) (d : Dev) : Dev :=
  let q' := { q with hdr := { q.hdr with retx := true }, tries := q.tries + b2n count, defer_ := false }
  let d := modPath dst port (fun x => { x with unacked := x.unacked.map fun y => if y.hdr.psn = q.hdr.psn then q' else y }) d
  bump (Reg.CDT_PORT_RETX port) (emitPkt dst port q'.hdr q'.payload true d)

/-- The time in µs that a packet waits for its ACK before it is sent again: RTO, doubled for each retransmission up to 8 × RTO; RTO after
BUSY (R477, R485). -/
def rtoOf (q : CdtPkt) (d : Dev) : Nat := rd Reg.CDT_CTRL_RTO d * if q.defer_ then 1 else min 8 (2 ^ q.tries)

/-- One more retransmission, or the path goes down at the limit (R477). A packet answered BUSY is sent again without counting (R485). -/
def retry (dst port : Nat) (q : CdtPkt) (d : Dev) : Dev :=
  if q.defer_ then resendPkt dst port q false d
  else if q.tries ≥ rd Reg.CDT_CTRL_RETRY d then pathDown dst port d
  else resendPkt dst port q true d

/-- The packets that an ACK or NAK covers are released; a missing one with three later ones accepted is sent again at once (R477). -/
def takeAck (dst port cum sack : Nat) (d : Dev) : Dev :=
  let x := getPath dst port d
  let got := x.unacked.filter fun q => ackCovers cum sack q.hdr.psn
  let rest := x.unacked.filter fun q => !ackCovers cum sack q.hdr.psn
  let d := modPath dst port (fun x => { x with unacked := rest }) d
  let d := got.foldl (fun d q => ackPkt dst q d) d
  let late (q : CdtPkt) : Bool :=
    3 ≤ ((List.range 64).filter fun i => bitOf sack i && newer (cum + 1 + i) q.hdr.psn).length
  let d := (rest.filter fun q => late q && !q.defer_).foldl (fun d q =>
    if (getPath dst port d).unacked.any (·.hdr.psn == q.hdr.psn) then retry dst port q d else d) d
  pumpPath dst port ((getPath dst port d).queue.length) d

/-- A NAK (R485, R491): BUSY defers the message's packets; any other code fails the message: NOT_DONE when nothing of it was performed,
otherwise PARTIAL. -/
def takeNak (dst port msn code pidx cum : Nat) (d : Dev) : Dev :=
  let d := if code = 7 then
      modPath dst port (fun x => { x with unacked := x.unacked.map fun q =>
        if q.hdr.msn = msn ∧ q.hdr.type = 1 then { q with defer_ := true } else q }) d
    else modPath dst port (fun x => { x with unacked := x.unacked.filter fun q =>
        !(q.hdr.msn == msn && q.hdr.pidx == pidx && q.hdr.type != 4 && q.hdr.type != 6) }) d
  let d := takeAck dst port cum 0 d
  if code = 7 then d
  else match (getDst dst d).msgs.find? (·.msn == msn) with
  | none => d
  | some m =>
    let done := bytesDone m
    let part := (m.op == 2 || m.op == 3) && done != 0
    let d := modPath dst m.port (fun x => { x with queue := x.queue.filter fun q =>
      !(q.hdr.msn == msn && q.hdr.type != 4 && q.hdr.type != 6) }) d
    endMsg dst m false 4 code (if part then 2 else 1) (if m.op ≤ 3 then done else 0) d

/-! ### Receiving (R472, R476, R479, R481, R483, R484) -/

/-- A frame's checks as it arrives (R472): it goes on, or is discarded. -/
def frameWhole (f : CdtFrame) (d : Dev) : Bool × Dev :=
  let p := f.port % 4
  if !rdb Reg.CDT_CTRL_EN d || !rdb (Reg.CDT_PORT_UP p) d then (false, d)
  else if !f.crcOk then (false, bump (Reg.CDT_PORT_FCS p) d)
  else if !f.listed then (false, d)
  else if f.hdr.len ≠ f.payload.length then
    let d := wr Reg.CDT_LEN_LAST_DECLARED f.hdr.len (wr Reg.CDT_LEN_LAST_SEEN f.payload.length (bump (Reg.CDT_PORT_LEN p) d))
    (false, setb Reg.CDT_STATUS_LEN_N (notice Ev.CDT_LEN (unitOf 9 p) f.hdr.len f.payload.length d))
  else (f.hdr.src < 8, d)

/-- A frame's checks before its sequence numbers: those of R472, and R498's on a DEV number that another device has bound. -/
def frameOk (f : CdtFrame) (d : Dev) : Bool × Dev :=
  let (ok, d) := frameWhole f d
  (ok && !d.cdt.alien.contains (pathKey f.hdr.src (f.port % 4)), d)

/-- The ACK that a path owes: its cumulative PSN and the SACK bitmap (R476). -/
def sendAck (src port : Nat) (d : Dev) : Dev :=
  let x := getRx src port d
  let e := x.exp.getD 0
  let sack := ((List.range 64).map fun i => if x.acc.contains ((e + 1 + i) % 2 ^ 32) then 2 ^ i else 0).sum
  emitPkt src port { type := 8, psn := e, tempo0 := tempoNow d, len := 8 } (leBytes 8 sack) false
    (modRx src port (fun x => { x with pend := 0 }) d)

/-- A NAK: code and PIDX of the refused packet, with the cumulative PSN (Table 15.2). -/
def sendNak (f : CdtFrame) (code : Nat) (d : Dev) : Dev :=
  let src := f.hdr.src
  let p := f.port % 4
  emitPkt src p { type := 9, psn := (getRx src p d).exp.getD f.hdr.psn, msn := f.hdr.msn, tempo0 := tempoNow d, len := 8 }
    (leBytes 1 code ++ leBytes 2 f.hdr.pidx ++ List.replicate 5 0) false d

/-- Move the expected PSN over packets accepted out of order. -/
def settleRx : Nat → CdtRx → CdtRx
  | 0, x => x
  | n + 1, x =>
    let e := x.exp.getD 0
    if x.acc.contains e then settleRx n { x with exp := some ((e + 1) % 2 ^ 32), acc := x.acc.filter (· != e) } else x

/-- Accept a PSN on its path; the ACK goes after 16 packets (R476). -/
def acceptPsn (src port psn : Nat) (d : Dev) : Dev :=
  let d := modRx src port (fun x =>
    settleRx 1025 { x with exp := some (x.exp.getD psn), acc := x.acc ++ [psn], pend := x.pend + 1 }) d
  if (getRx src port d).pend ≥ 16 then sendAck src port d else d

/-- What becomes of a reliable packet before its message is looked at. -/
inductive Arrival | gone | fresh
  deriving DecidableEq, Repr

/-- Age, boot, transport start and PSN of a reliable packet (R476, R479, R483, R484). A fresh packet is not yet accepted. A newer
boot also ends what this device has outstanding to that source (spec/95_what_each_step_holds.md: CDT_PEER_REBOOT also within
CDT_SEND_RECEIVE and CDT_WRITE_RECEIVE). -/
def arrive (f : CdtFrame) (d : Dev) : Arrival × Dev :=
  let (ok, d) := frameOk f d
  let h := f.hdr
  let p := f.port % 4
  if !ok then (.gone, d)
  else if tempoNow d + 1 ≥ h.tempo0 + maxAge d then (.gone, bump Reg.CDT_RX_AGED d)
  else match d.cdt.start with
  | none => (.gone, sendNak f 8 d)
  | some t0 =>
    let b := (getSrc h.src d).boot
    if (match b with | some b => newer b h.boot | none => false) then (.gone, bump Reg.CDT_RX_STALE_BOOT d)
    else if h.tempo0 < t0 && h.type != 4 && h.type != 6 then (.gone, sendNak f 8 d)
    else
      let d := if b = some h.boot then d
        else
          let d := modSrc h.src (fun _ => { boot := some h.boot, floor := h.floor }) d
          peerReboot h.src h.boot (forEach (List.range 4) (fun q d => modRx h.src q (fun _ => {}) d) d)
      let x := getRx h.src p d
      let e := x.exp.getD h.psn
      let dist := distFrom h.psn e
      if dist ≥ 2 ^ 31 || x.acc.contains h.psn then (.gone, sendAck h.src p d)
      else if dist ≥ 1024 then (.gone, d)
      else (.fresh, d)

/-- A message's bit is set; the floor moves past each run of set bits (R481). -/
def raiseFloor : Nat → CdtSrc → CdtSrc
  | 0, s => s
  | n + 1, s =>
    if s.done.contains s.floor then raiseFloor n { s with floor := (s.floor + 1) % 2 ^ 32, done := s.done.filter (· != s.floor) } else s
def setDone (src msn : Nat) (d : Dev) : Dev :=
  modSrc src (fun s => raiseFloor 8192 { s with
    done := if s.done.contains msn then s.done else s.done ++ [msn], parts := tdel msn s.parts, last := tdel msn s.last }) d

/-- The FLOOR of an accepted packet (R481, R482): what lies below it is forgotten. -/
def takeFloor (src fl : Nat) (d : Dev) : Dev :=
  let keep {α : Type} (t : Tab α) : Tab α := t.filter fun p => atOrAbove p.1 fl
  modSrc src (fun s =>
    let s := if newer fl s.floor then { s with floor := fl, done := s.done.filter fun m => atOrAbove m fl } else s
    raiseFloor 8192 { s with refused := keep s.refused, results := keep s.results, parts := keep s.parts, last := keep s.last }) d

/-- A packet's message is below the floor, or its bit is set (R481). -/
def isDup (src msn : Nat) (d : Dev) : Bool :=
  let s := getSrc src d
  !atOrAbove msn s.floor || s.done.contains msn

/-- Refuse a packet: the NAK, the message's bit, and the code for its later packets (R481, R488). -/
def refusePkt (f : CdtFrame) (code : Nat) (d : Dev) : Dev :=
  let d := modSrc f.hdr.src (fun s => { s with refused := tset 0 s.refused f.hdr.msn code }) d
  sendNak f code (setDone f.hdr.src f.hdr.msn d)

/-- What a request's packet meets after its PSN: refused with an earlier code, a duplicate, or to be performed. -/
inductive Filter | refused (code : Nat) | dup | perform
  deriving DecidableEq, Repr

/-- Accept a fresh request packet and look at its message (R481, R488). -/
def filterPkt (f : CdtFrame) (d : Dev) : Filter × Dev :=
  let h := f.hdr
  let d := takeFloor h.src h.floor (acceptPsn h.src (f.port % 4) h.psn d)
  let code := tget 0 (getSrc h.src d).refused h.msn
  if code ≠ 0 then (.refused code, sendNak f code d)
  else if isDup h.src h.msn d then (.dup, bump Reg.CDT_RX_DUP d)
  else (.perform, d)

/-! ### Services (R485, R486) -/

def svcBase (s : Nat) (d : Dev) : Nat := rd (Reg.CDT_SVC_BASE s) d

/-- A service has a receiver (R485): the FIU or the SXC, or a receive ring. -/
def svcServed (s : Nat) (d : Dev) : Bool :=
  [1, 2, 6].contains s || (((3 ≤ s && s ≤ 9) || (16 ≤ s && s ≤ 31)) && svcBase s d != 0)

/-- The receive ring of a service is full. PROD and CONS are 8-bit counts, so that 255 entries in use fill it. -/
def svcFull (s : Nat) (d : Dev) : Bool :=
  !([1, 2, 6].contains s) && (rd (Reg.CDT_SVC_PROD s) d + 1) % 256 == rd (Reg.CDT_SVC_CONS s) d

/-- Deliver a whole SEND: into the ring, its header's VALID last (R485). The FIU and the SXC take theirs by their own commands. -/
def deliverSend (f : CdtFrame) (b : Bytes) (d : Dev) : Dev :=
  let s := f.hdr.key % 256
  if [1, 2, 6].contains s then d
  else
    let p := rd (Reg.CDT_SVC_PROD s) d
    let a := svcBase s d + p * 16384
    let hd := leBytes 1 f.hdr.src ++ leBytes 1 s ++ [0, 0] ++ leBytes 4 b.length ++ leBytes 4 f.hdr.msn ++ leBytes 4 0
      ++ leBytes 8 f.hdr.tempo0 ++ List.replicate 39 0
    wr (Reg.CDT_SVC_PROD s) ((p + 1) % 256) (storeNat (a + 63) 1 1 (storeMem (a + 64) b (storeMem a hd d)))

/-! ### Windows (R493–R495, Table 15.6) -/

def winAddr (i : Nat) (d : Dev) : Nat := rd Reg.CDT_WTBL_BASE d + 32 * i
def winBase (i : Nat) (d : Dev) : Nat := memNat d (winAddr i d) 8
def winLen (i : Nat) (d : Dev) : Nat := memNat d (winAddr i d + 8) 8
def winPerm (i : Nat) (d : Dev) : Nat := memNat d (winAddr i d + 16) 1
def winSrcs (i : Nat) (d : Dev) : Nat := memNat d (winAddr i d + 17) 1
def winGen (i : Nat) (d : Dev) : Nat := memNat d (winAddr i d + 18) 1
def winState (i : Nat) (d : Dev) : Nat := memNat d (winAddr i d + 19) 1
def winCheck (i : Nat) (d : Dev) : Nat := memNat d (winAddr i d + 20) 2
def winEdge (i : Nat) (d : Dev) : Nat := memNat d (winAddr i d + 24) 8

/-- A window key (R493). -/
def winKey (i : Nat) (d : Dev) : Nat := i * 2 ^ 20 + winGen i d * 2 ^ 12 + winCheck i d

/-- Checks 4–7 of Table 15.4 on an operation: `perm` is its bit of PERM; 0 when all pass. The index window takes reads and atomics
under its own bit (R248). -/
def checkWindow (h : CdtHdr) (perm len : Nat) (d : Dev) : Nat :=
  let i := h.key / 2 ^ 20
  let gen := h.key / 2 ^ 12 % 256
  if winState i d = 0 || winCheck i d ≠ h.key % 4096 then 1
  else if winState i d ≠ 1 || gen ≠ winGen i d then
    if (winState i d = 2 || winState i d = 3) && gen = (winGen i d + 255) % 256 then 2 else 1
  else if !(bitOf (winPerm i d) perm || (perm != 1 && bitOf (winPerm i d) 3)) || !bitOf (winSrcs i d) h.src then 4
  else if winLen i d < h.off + len then 3
  else 0

def isFiuWin (h : CdtHdr) (d : Dev) : Bool := bitOf (winPerm (h.key / 2 ^ 20) d) 3

/-- Partition, bucket and slot at an offset of the index window (R248). -/
def fiuPlace (off : Nat) (d : Dev) : Nat × Nat × Nat :=
  (off / 2048 / 2 ^ bktBits d, off / 2048 % 2 ^ bktBits d, off % 2048 / 32)

/-- The partition and the bucket key of page `i` of a read: past the last bucket of a partition comes the next partition (R248). -/
def fiuPage (off i : Nat) (d : Dev) : Nat × Nat :=
  let (p, k, _) := fiuPlace (off + 2048 * i) d
  (p, bucketKey p k)

/-- The bytes of an index page (R236, R248). -/
def bucketPage (key : Nat) (d : Dev) : Bytes := (List.range 64).flatMap fun s => padTo 32 (tget [] (getBucket key d) s)

/-- A window in the table changes its STATE. -/
def winSetState (i st : Nat) (d : Dev) : Dev := storeNat (winAddr i d + 19) 1 st d

/-- PENDING: revocations staged or REVOKING, saturating (Table 15.11). -/
def showPending (d : Dev) : Dev :=
  wr Reg.CDT_WREVOKE_ST_PENDING (min 4095 (d.cdt.revoke.length + d.cdt.revoking.length)) d

/-- Cycle E of an edge (R494): the windows REVOKING since the last edge become COOLING and are reported; the staged ones are
bumped. -/
def windowEdge (d : Dev) : Dev :=
  let done := d.cdt.revoking
  let d := forEach done (fun i d =>
    setb Reg.CDT_STATUS_REVOKED (setb Reg.CDT_WREVOKE_ST_DONE (wr Reg.CDT_WREVOKE_ST_LAST i (winSetState i 3 d)))) d
  let new := d.cdt.revoke
  let d := forEach new (fun i d =>
    let d := storeNat (winAddr i d + 18) 1 ((winGen i d + 1) % 256) (winSetState i 2 d)
    wr Reg.CDT_WREVOKE_ST_EDGE (tempoNow d) (storeNat (winAddr i d + 24) 8 (tempoNow d) d)) d
  showPending { d with cdt.revoking := new, cdt.revoke := [] }

/-! ### The peer's mirror writes (R191, R221, R501) -/

/-- A slot as its image describes it. -/
def slotOf (s : SlotImage) : Slot := {
  nsid := s.nsid, state := s.state, kind := s.kind, valid := s.valid, square := s.square, ssn := s.ssn, heldGid := s.heldGid
  durTempo := s.durTempo, older := s.older, held := s.held, addDone := s.addDone, tags := s.tags, lostblk := s.lostblk, tsn := s.tsn
  cmd := s.cmd
  data := (s.data.zip (List.range s.data.length)).foldl (fun t p => tset 0 t p.2 p.1) [], tagArea := s.tagArea }

/-- A WRITE of the peer lands in this head's mirror. A slot that leaves REDUCING and PACKED is no longer waited for (R250). -/
def takeMirror (m : MirrorData) (d : Dev) : Dev :=
  match m with
  | .slot n s =>
    let k := (tget {} d.stg.mirror n).ssn
    let d := if s.state = 4 ∨ s.state = 5 then d
      else { d with fiu.retiring := d.fiu.retiring.map fun r => { r with peer := r.peer.filter fun x => x != k && x != s.ssn } }
    { d with stg.mirror := if s.state = 0 then tdel n d.stg.mirror else tset {} d.stg.mirror n (slotOf s) }
  | .cmd n c => { d with cas.mirrorCmds := if c.state = 0 then tdel n d.cas.mirrorCmds else tset {} d.cas.mirrorCmds n c }
  | .record r =>
    if d.stg.mirrorJ.any (·.tsn == r.tsn) then d else { d with stg.mirrorJ := d.stg.mirrorJ ++ [r] }

end Sys2Proof.Machine
end

