-- ==== Sys2Proof/Machine/Finish.lean ====
section
/-!
DEFINITION. How every command ends: the reactions owed by other blocks are carried out, interrupt levels settle, and the
next state is answered.
-/

namespace Sys2Proof.Machine

/-- What firmware on the remaining reduction engines does when one of them is quarantined (R120): the slots it held REDUCING return to
DURABLE, and its open row closes. -/
def reductionLost (unit : Nat) (d : Dev) : Dev :=
  let e := unit % 256
  if unit / 256 != 1 || e ≥ 64 || rd (Reg.CL_CTRL_FUNCTION (e / 8)) d != 1 then d
  else
    let d := forEach ((d.stg.slots.filter fun s => s.2.state == 4 && s.2.work.engine == e).map (·.1)) backToDurable d
    match openRowOf e 0 d with
    | some n => closeRow n d
    | none => d

/-- Carry out one reaction. -/
def react (t : Todo) (d : Dev) : Dev :=
  match t with
  | .quarantine unit => reductionLost unit (quarantine unit d)
  | .castleTest code unit => castleTest code unit d
  | .portTeardown p => portTeardown p d
  | .cercoDown p => cercoDown p d
  | .laneFailed n => putFailed n d
  | .laneEnd n c r => laneEnded n c r d
  | .resign c => resignNow c d
  | .committed r => afterCommit r d
  | .replRead k b i s st fmt pay plain => replRead k b i s st fmt pay plain d
  | .repairRead k tag st fmt pay => sendRepl (getRel k d).peer (.repairAns tag (if st = 0 then 0 else 2) fmt (if st = 0 then pay else [])) d
  | .offerAnswer k b i a => offerAnswer k b i a d
  | .batchReady k b => batchReady k b d

/-- Carry out the reactions owed, those that they owe in turn included; `fuel` bounds the chain. -/
def drain : Nat → Dev → Dev
  | 0, d => { d with todo := [] }
  | n + 1, d =>
    match d.todo with
    | [] => d
    | t :: ts => drain n (react t { d with todo := ts })

/-- What follows a command's effect: the reactions owed, and the messages they hand to the Cerco transport, while the device is powered
and out of Checkmate; then the interrupt levels. -/
def finish (d : Dev) : Dev :=
  let d := drain 4096 d
  settle { (if d.live then takeMessages d else d) with todo := [] }

/-- The device with nothing sent yet. -/
def Dev.quiet (d : Dev) : Dev := { d with out := [] }

/-- The frame of a command: what it sends starts empty; its effect; what follows. -/
def run (f : Dev → Dev) (s : State) : Host.Outcome State Fault Refusal :=
  .next { dev := finish (f s.dev.quiet), pending := s.pending }

/-- A command of a block that acts only while the device is powered, out of reset and out of Checkmate (R580, R597,
R633, R635): otherwise nothing happens. -/
def runLive (f : Dev → Dev) (s : State) : Host.Outcome State Fault Refusal :=
  run (fun d => if d.live then f d else d) s

end Sys2Proof.Machine
end

