-- ==== Sys2Proof/Machine/Tempo.lean ====
section
/-!
DEFINITION. The tempo unit (spec/02_tempo.md): tempo time, tempo numbers, discipline, and the commands on them. What an edge
does is put together in Machine/Edge.lean from the operations here and in the other blocks' files.
-/

namespace Sys2Proof.Machine

/-- Femtoseconds of slew applied in some fabric cycles after the last one counted: 500 ppm of 0.5 ns each, no more than is pending
(R42, R59). -/
def slewFs (cyc : Nat) (d : Dev) : Int :=
  let m := min (d.tmp.padjFs.natAbs) (cyc * 250)
  if d.tmp.padjFs < 0 then -(m : Int) else m

/-- Tempo time of one fabric cycle, without the slew, in units of 10^-12 fs (R55). -/
def cycleRate (d : Dev) : Int := 500000 * (1000000000000 + signedOf 32 (rd Reg.TMP_FADJ_FADJ d))

/-- Femtoseconds of tempo time from the edge to a fabric cycle, with the frequency adjustment and the slew; what has been counted
stands (R55, R59). -/
def timeFs (cyc : Nat) (d : Dev) : Int :=
  let c := cyc - d.tmp.atCyc
  d.tmp.atFs + c * cycleRate d / 1000000000000 + slewFs c d

/-- Count the time up to a fabric cycle: what is written then acts from there (R59). -/
def countTime (cyc : Nat) (d : Dev) : Dev :=
  let c := max cyc d.tmp.atCyc
  { d with tmp.atFs := timeFs c d, tmp.padjFs := d.tmp.padjFs - slewFs (c - d.tmp.atCyc) d, tmp.atCyc := c }

/-- Nanoseconds of tempo time in `cyc` fabric cycles after the edge (R55). -/
def elapsedNs (cyc : Nat) (d : Dev) : Nat := (timeFs cyc d / 1000000).toNat

/-- A quotient rounded up, for a positive divisor. -/
def ceilDiv (a b : Int) : Int := -(-a / b)

/-- Fabric cycles from a cycle of the tempo to the next edge, the first at which the nanoseconds reach a multiple of the period: with the
slew to the edge where it lasts so long, else with all of it (R37, R110). -/
def cyclesToEdge (cyc : Nat) (d : Dev) : Nat :=
  let p := periodNs d
  let left : Int := ((p - d.tmp.ns % p : Nat) : Int) * 1000000 - timeFs cyc d
  let pend := d.tmp.padjFs - slewFs (cyc - d.tmp.atCyc) d
  let one : Int := if pend < 0 then -250000000000000 else 250000000000000
  let n := ceilDiv (left * 1000000000000) (cycleRate d + one)
  (if n * 250 ≤ pend.natAbs then n else ceilDiv ((left - pend) * 1000000000000) (cycleRate d)).toNat

/-- Tempo time `cyc` cycles after the most recent edge: seconds and nanoseconds (R55). -/
def timeAt (cyc : Nat) (d : Dev) : Nat × Nat :=
  let n := d.tmp.ns + elapsedNs cyc d
  ((d.tmp.sec + n / 1000000000) % 2 ^ 48, n % 1000000000)

/-- Bring TMP_STATUS.TIME_SRC to the source in force (R649). -/
def showTimeSrc (d : Dev) : Dev :=
  if d.tmp.powerUpSrc then d
  else wr Reg.TMP_STATUS_TIME_SRC (if d.tmp.following then 6 else 3 + rd Reg.TMP_CTRL_SRC d) d

/-- The power-up source of R57 no longer stands (R649). -/
def endPowerUpSrc (d : Dev) : Dev := showTimeSrc { d with tmp.powerUpSrc := false }

/-- Move the clock to its next edge: the next multiple of the period (R37, R41). -/
def advanceClock (d : Dev) : Dev :=
  let p := periodNs d
  let n := (d.tmp.ns / p + 1) * p
  let d := countTime (d.tmp.atCyc + cyclesToEdge d.tmp.atCyc d) d
  let d := { d with tmp.sec := (d.tmp.sec + n / 1000000000) % 2 ^ 48
                    tmp.ns := n % 1000000000
                    tmp.atCyc := 0
                    tmp.atFs := 0 }
  let d := wr Reg.TMP_PADJ_PADJ (twosOf 32 (d.tmp.padjFs.tdiv 1000000)) d
  wr Reg.TMP_NUMBER_NUMBER (tempoNow d + 1) d

/-- PPS_OUT takes a level; while the King pair's outputs are held the ball keeps the one it had (R62, R125). -/
def setPpsOut (v : Bool) (d : Dev) : Dev :=
  let d := { d with tmp.ppsOut := v }
  if d.king.held then d else send (.pin .ppsOut v) d

/-- PPS_OUT rises at the edge of every whole second (R62). -/
def ppsRise (d : Dev) : Dev :=
  if rdb Reg.TMP_CTRL_PPS_OUT_EN d && d.tmp.ns = 0 then setPpsOut true d else d

/-- TMP_SNAP_TAKE: number, seconds and nanoseconds of one cycle are captured (R56). -/
def execTmpSnapTake (cyc : Nat) (s : State) : Host.Outcome State Fault Refusal :=
  runLive (fun d =>
    let (sec, ns) := timeAt cyc d
    wr Reg.TMP_SNAP_NUM_NUMBER (tempoNow d) (wr Reg.TMP_SNAP_SEC_SEC sec (wr Reg.TMP_SNAP_NS_NS ns d))) s

/-- Step tempo time in a fabric cycle of the tempo and recompute the tempo number (R42). The transport starts anew: its start follows any
step (R484). -/
def stepTime (sec ns cyc : Nat) (d : Dev) : Dev :=
  let d := { countTime cyc d with tmp.sec := sec, tmp.ns := ns, tmp.atFs := 0, cdt.start := none }
  endPowerUpSrc (wr Reg.TMP_NUMBER_NUMBER (tempoNumber sec ns (periodNs d)) d)

/-- TEMPO_STEP: TMP_CTRL.STEP steps tempo time to TMP_SET_SEC and TMP_SET_NS; ignored outside START-UP (R42). -/
def execTempoStep (cyc : Nat) (s : State) : Host.Outcome State Fault Refusal :=
  runLive (fun d =>
    if glbState d = 0 then stepTime (rd Reg.TMP_SET_SEC_SEC d) (rd Reg.TMP_SET_NS_NS d) cyc d else d) s

/-- TMP_FADJ_WRITE in a fabric cycle of the tempo: a frequency adjustment within ±500,000,000 acts from the next cycle (R10, R59,
R61). -/
def execTmpFadjWrite (v : BitVec 32) (cyc : Nat) (s : State) : Host.Outcome State Fault Refusal :=
  runLive (fun d => if v.toInt.natAbs ≤ 500000000 then wr Reg.TMP_FADJ_FADJ v.toNat (countTime (cyc + 1) d) else d) s

/-- TMP_PADJ_WRITE in a fabric cycle of the tempo: a phase correction replaces any slew still pending, from the next cycle on (R59). -/
def execTmpPadjWrite (v : BitVec 32) (cyc : Nat) (s : State) : Host.Outcome State Fault Refusal :=
  runLive (fun d => wr Reg.TMP_PADJ_PADJ v.toNat { countTime (cyc + 1) d with tmp.padjFs := v.toInt * 1000000 }) s

/-- LOCK clears: LOCK_LOST and HOLDOVER are set, and a Notice is logged (R61). -/
def loseLock (d : Dev) : Dev :=
  if rdb Reg.TMP_STATUS_LOCK d then
    notice Ev.TEMPO_LOCK 0 0 0
      (setb Reg.TMP_STATUS_HOLDOVER (setb Reg.TMP_STATUS_LOCK_LOST (clr Reg.TMP_STATUS_LOCK d)))
  else d

/-- Tempo time in ns `cyc` fabric cycles after the most recent edge. -/
def nsAt (cyc : Nat) (d : Dev) : Nat := (timeAt cyc d).1 * 1000000000 + (timeAt cyc d).2

/-- OFFSET_SAMPLE: a sample written to TMP_OFFSET updates the runs of R60 and R61, and LOCK. -/
def execOffsetSample (v : BitVec 32) (cyc : Nat) (s : State) : Host.Outcome State Fault Refusal :=
  runLive (fun d =>
    let d := endPowerUpSrc { d with tmp.lastSample := nsAt cyc d }
    if v.toInt.natAbs ≤ rd Reg.TMP_CTRL_LOCK_THR d then
      let d := { d with tmp.inRun := min (d.tmp.inRun + 1) 16, tmp.outRun := 0 }
      if d.tmp.inRun = 16 then clr Reg.TMP_STATUS_HOLDOVER (setb Reg.TMP_STATUS_LOCK d) else d
    else
      let d := { d with tmp.inRun := 0, tmp.outRun := min (d.tmp.outRun + 1) 4 }
      if d.tmp.outRun = 4 then loseLock d else d) s

/-- OFFSET_SAMPLE_TIMEOUT: no sample for 3 s of tempo time clears LOCK, which then takes 16 samples again; while LOCK is clear a gap
among samples changes nothing (R60, R61). -/
def execOffsetSampleTimeout (cyc : Nat) (s : State) : Host.Outcome State Fault Refusal :=
  runLive (fun d =>
    if rdb Reg.TMP_STATUS_LOCK d && nsAt cyc d ≥ d.tmp.lastSample + 3000000000 then loseLock { d with tmp.inRun := 0 } else d) s

/-- The timestamp that a host port takes of a PTP event message: tempo time in the cycle in which its first bit passes the ball, to within
2 ns (R58). -/
def ptpStamp (p : Nat) (sent : Bool) (cyc : Nat) (d : Dev) : Dev :=
  let (v, d) := drawNat 5 d
  let n := nsAt cyc d + v - 2
  let t := (n / 1000000000 % 2 ^ 48, n % 1000000000)
  send (.ptpStamp p sent t.1 t.2) { d with
    front.ports := tmod {} d.front.ports p fun x => if sent then { x with ptpTx := some t } else { x with ptpRx := some t } }

/-- PPS_IN_EDGE: a rising edge is timestamped into TMP_PPS_CAPT (R640). -/
def execPpsInEdge (cyc : Nat) (s : State) : Host.Outcome State Fault Refusal :=
  runLive (fun d => wr Reg.TMP_PPS_CAPT_NS (timeAt cyc d).2 d) s

/-- PPS_OUT_WIDTH_END: PPS_WIDTH ms after the whole second PPS_OUT falls (R62). -/
def execPpsOutWidthEnd (ms : Nat) (s : State) : Host.Outcome State Fault Refusal :=
  runLive (fun d =>
    if d.tmp.ppsOut && ms ≥ rd Reg.TMP_CTRL_PPS_WIDTH d then setPpsOut false d
    else d) s

end Sys2Proof.Machine
end

