-- ==== Sys2Proof/Machine/Fabric.lean ====
section
/-!
DEFINITION. The Board fabric (spec/03_board_fabric.md): arbiters and cut-offs, the symbol code, credit ledgers and their
audit, the pool's banks and scrub, and the commands on them.
-/

namespace Sys2Proof.Machine

/-! ### Nodes and routes -/

/-- The node (4y + x) a requester port sits on (Table 3.1, Table 3.3). Table 3.1 does not list the Scoresheet recorder, port 119: the model
puts it with the fault collector (DESIGN CHOICE, log entry 137). -/
def portNode (port : Nat) : Nat :=
  if port < 64 then port / 8 % 4 + 4 * (port / 32)
  else if port < 66 then 0
  else if port < 78 then 2
  else if port < 94 then 3
  else if port < 98 then 4
  else if port < 101 then 1
  else if port < 105 then 8
  else if port < 109 then 11
  else if port < 113 then 10
  else if port < 117 then 11
  else 10

/-- The local port of its node that a requester port uses. The spec does not number local ports: 0 is the cluster of a compute node, 1 to 6
are its banks, 7 and 8 the other endpoints in the order of Table 3.1; on an I/O node 0 is the first endpoint, 1 and 2 the DDR5 channels, the
rest follow (DESIGN CHOICE, log entry 137). -/
def portLocal (port : Nat) : Nat :=
  if port < 64 then 0
  else if port < 100 then 7
  else if port = 100 then 8
  else if port < 105 then 0
  else if port < 109 then 3
  else if port < 117 then 0
  else if port = 117 then 3
  else if port = 118 then 4
  else 5

/-- The node a shared target sits on: 0–47 pool banks, 48–55 DRAM channels, 56 cipher, 57 digest, 58 compression,
59 erasure, 60 FIU (Table 3.1, Table 3.9). -/
def targetNode (t : Nat) : Nat :=
  if t < 48 then t / 6 else if t < 56 then 8 + (t - 48) / 2
  else if t = 56 then 2 else if t = 57 then 1 else if t = 58 then 3 else if t = 59 then 4 else 1

/-- The local port of a shared target (log entry 137). -/
def targetLocal (t : Nat) : Nat :=
  if t < 48 then 1 + t % 6 else if t < 56 then 1 + (t - 48) % 2 else if t = 60 then 8 else 7

/-- The unit codes of the links a flit crosses: along the row to the destination's column, then along the column (R69). -/
def route (src dst : Nat) : List Nat :=
  let mid := 4 * (src / 4) + dst % 4
  (if src = mid then [] else [src * 16 + mid]) ++ (if mid = dst then [] else [mid * 16 + dst])

/-- The unit code of a local port. -/
def localUnit (node n : Nat) : Nat := 512 + node * 16 + n

/-- The units whose ledgers a flit between a requester port and a target passes, in the order of its way: the sender's local port, the links,
the receiver's local port. A bridge channel is the column link that runs over it (R13, R69). -/
def wayTo (port t : Nat) : List Nat :=
  localUnit (portNode port) (portLocal port) :: route (portNode port) (targetNode t) ++ [localUnit (targetNode t) (targetLocal t)]
def wayBack (t port : Nat) : List Nat :=
  localUnit (targetNode t) (targetLocal t) :: route (targetNode t) (portNode port) ++ [localUnit (portNode port) (portLocal port)]

/-- The unit of Table 20.2 that issues on a requester port; the device where the table names none. -/
def portUnit (port : Nat) : Nat :=
  if port < 64 then unitOf 1 port else if port < 66 then unitOf 2 (port - 64)
  else if port < 78 then unitOf 3 (port - 66) else if port < 94 then unitOf 4 (port - 78)
  else if port < 98 then unitOf 5 (port - 94) else if port < 100 then unitOf 6 (port - 98)
  else if port = 100 then unitOf 7 0
  else if 105 ≤ port ∧ port < 109 then unitOf 9 (port - 105) else 0

/-! ### The DDR5 code (R645) -/

/-- The symbols of an error over the ten 8-bit symbols of a DDR5 sub-channel (Table 23.13). -/
def ddrSymbols (err : Nat) : List Nat := those 10 fun k => err / 256 ^ k % 256 != 0

/-- The error that an injection armed for a channel adds to its next burst, and the injection spent (R591): the check bits are the
devices 8 and 9, four bits of MASK each (DEDUCED). -/
def takeDdrInj (ch : Nat) (d : Dev) : Nat × Dev :=
  match d.flt.inj with
  | some i =>
    if i.target = 3 ∧ i.index % 8 = ch then
      (i.mask % 16 * 256 ^ 8 + i.mask / 16 % 16 * 256 ^ 9, clr Reg.FLT_INJ_ARM { d with flt.inj := none })
    else (0, d)
  | none => (0, d)

/-- A burst of a channel with an error over its symbols, at sub-channel `sub` (chapter 20, R645): one symbol is corrected, more mark
the word, or the `words` of a line, poisoned. -/
def ddrBurst (ch sub addr words err : Nat) (d : Dev) : Dev :=
  let (inj, d) := takeDdrInj ch d
  let bad := ddrSymbols (err ^^^ inj)
  match bad with
  | [] => d
  | k :: more =>
    let d := wr (Reg.DDR_ECC_LAST_SYM ch) k (wr (Reg.DDR_ECC_LAST_SUB ch) sub d)
    if more.isEmpty then
      notice Ev.DDR_CE (unitOf 0xB ch) addr k (setb Reg.DDR_STATUS_CE_N (bump (Reg.DDR_ECC_CE ch) d))
    else
      let d := forEach (List.range words) (fun i d => setPoison (addr / 8 * 8 + 8 * i) true d) d
      raiseC Ev.DDR_UE (unitOf 0xB ch) addr k (setb Reg.DDR_STATUS_UE_CHK (bump (Reg.DDR_ECC_UE ch) d))

/-- The channel and the sub-channel that hold an address of DRAM: the trained channels are interleaved (R644); how is not stated. -/
def dramPlace (a : Nat) (d : Dev) : Nat × Nat :=
  let cs := those 8 fun c => bitOf (rd Reg.DDR_STATUS_TRAINED d) c
  ((cs[Config.dramChannel a % max 1 cs.length]?).getD 0, Config.dramChannel a / 8 % 2)

/-! ### Credit ledgers (R78–R83) -/

/-- The depth D of a class's buffers: REQ 0, GO 1, DAT 2, ACK 3 (Table 3.7). -/
def classDepth (cls : Nat) (d : Dev) : Nat :=
  match cls with
  | 0 => rd Reg.FAB_CTRL_DEPTH_REQ d
  | 1 => rd Reg.FAB_CTRL_DEPTH_GO d
  | 2 => rd Reg.FAB_CTRL_DEPTH_DAT d
  | _ => rd Reg.FAB_CTRL_DEPTH_ACK d

/-- A ledger with full credits and zeroed counters (R83). -/
def freshLedger (depth : Nat) : Ledger := ⟨⟨depth, 255 - depth⟩, 0, 0, ⟨0, 255⟩, 0, 0, false, 0⟩

/-- A ledger's key in the table of ledgers. -/
def ledgerKey (unit cls : Nat) : Nat := unit * 4 + cls

/-- One credit ledger. -/
def getLedger (unit cls : Nat) (d : Dev) : Ledger := tget (freshLedger (classDepth cls d)) d.fab.ledgers (ledgerKey unit cls)
def setLedger (unit cls : Nat) (l : Ledger) (d : Dev) : Dev :=
  { d with fab.ledgers := tset (freshLedger (classDepth cls d)) d.fab.ledgers (ledgerKey unit cls) l }

/-- RESYNC_BUSY shows whether any ledger resynchronises (Table 3.8). -/
def showResync (d : Dev) : Dev := wr Reg.FAB_STATUS_RESYNC_BUSY (b2n (d.fab.ledgers.any fun p => p.2.resync)) d

/-- Read a ledger's paired counts: one that disagrees with its complement raises FAB_PAIRED and takes its fail-safe default, 0 credits at
the sender or D occupied slots at the receiver, so that nothing more is sent in the class (R79). -/
def readLedger (unit cls : Nat) (d : Dev) : Ledger × Dev :=
  let l := getLedger unit cls d
  if l.credits.ok 8 && l.occ.ok 8 then (l, d)
  else
    let depth := classDepth cls d
    let bad (p : Paired) (d : Dev) : Dev :=
      if p.ok 8 then d
      else setb Reg.FAB_STATUS_PAIRED_CHK (raiseC Ev.FAB_PAIRED (fabUnit unit) unit p.data d)
    let d := bad l.occ (bad l.credits d)
    let l := { l with credits := if l.credits.ok 8 then l.credits else ⟨0, 255⟩
                      occ := if l.occ.ok 8 then l.occ else ⟨depth, 255 - depth⟩ }
    (l, setLedger unit cls l d)

/-- A sender may send a flit: it has a credit, the receiver a free slot, and no resync runs (R78, R79, R81). -/
def ledgerOpen (unit cls : Nat) (d : Dev) : Bool × Dev :=
  let (l, d) := readLedger unit cls d
  (!l.resync && l.credits.val != 0 && l.occ.val < classDepth cls d, d)

/-- Every ledger of a way lets a flit of a class pass. -/
def wayOpen (us : List Nat) (cls : Nat) (d : Dev) : Bool × Dev :=
  us.foldl (fun x u => let (b, d) := ledgerOpen u cls x.2; (x.1 && b, d)) (true, d)

/-- A flit passes a ledger and its credit comes back: one more sent, received and returned at each end; the sender's credits and the occupied
slots stand as before (R78). -/
def chargeFlit (unit cls : Nat) (d : Dev) : Dev :=
  let l := getLedger unit cls d
  let up (n : Nat) : Nat := (n + 1) % 2 ^ 32
  let (p, d) := mkPaired 8 3 l.credits.val d
  setLedger unit cls { l with credits := p, s := up l.s, cr := up l.cr, rx := up l.rx, ct := up l.ct } d

/-- A flit meets an armed injection on a link or at a local port: the code at its far end delivers it so (R91, R94). -/
def flitError (unit cls addr : Nat) (d : Dev) : Fate × Dev :=
  if rdb Reg.FAB_INJ_ARM_ARM d && rd Reg.FAB_INJ_UNIT d == unit && unit / 256 != 1 && rd Reg.FAB_INJ_CLASS d == cls then
    eccMeet unit addr (rd Reg.FAB_INJ_MASK d * 2 ^ 64) (clr Reg.FAB_INJ_ARM_ARM d)
  else (.whole, d)

/-- A flit of a class travels a way: every ledger counts it, and an armed injection is met on it (R78, R91, R94). The fate of its data. -/
def flitTravels (us : List Nat) (cls addr : Nat) (d : Dev) : Fate × Dev :=
  us.foldl (fun x u =>
    let (f, d) := flitError u cls addr (chargeFlit u cls x.2)
    (if x.1 = .whole then f else x.1, d)) (.whole, d)

/-- Send a flit whose data no one reads. -/
def sendFlit (us : List Nat) (cls addr : Nat) (d : Dev) : Dev := (flitTravels us cls addr d).2

/-! ### Arbiters -/

/-- The grants an arbiter holds open at once (R71). -/
def grantLimit (t : Nat) : Nat := if 48 ≤ t ∧ t < 56 then 16 else 4

/-- A request's QOS level, raised by age (R72). -/
def Xfer.level (x : Xfer) : Nat := if x.aged then 3 else x.qos

/-- `a` is granted before `b`: higher level, then older, then the lower port (R72). -/
def Xfer.before (a b : Xfer) : Bool :=
  b.level < a.level || (a.level == b.level && (a.order < b.order || (a.order == b.order && a.port < b.port)))

/-- The request an arbiter grants next (R72). -/
def pickRequest : List Xfer → Option Xfer
  | [] => none
  | x :: xs => match pickRequest xs with
    | none => some x
    | some y => some (if y.before x then y else x)

/-- Change one arbiter. -/
def modArb (t : Nat) (f : Arb → Arb) (d : Dev) : Dev := { d with fab.arbs := tmod {} d.fab.arbs t f }

/-- A port of the King pair (Table 3.3). -/
def kingPort (port : Nat) : Bool := port = 64 || port = 65

/-- TRANSFER_REQUEST: a REQ waits in one of the two slots that the arbiter reserves for its port; a port keeps at most two requests
outstanding at one arbiter (R73, R74). `same`: it arrives in the cycle of the request before it, and is as old (R72). `line`: it is an
engine cluster's L2 that writes a line back (R116). `buffer`: the data of a King write, kept in the comparator (R121). While a ledger of
its way lets no REQ pass, or the King pair's outputs are held, it does not arrive (R79, R81, R122). -/
def execTransferRequest (target : Fin 61) (port : Fin 120) (write : Bool) (qos : Fin 4) (addr : Nat) (same line : Bool) (buffer : List Byte)
    (s : State) : Host.Outcome State Fault Refusal :=
  runLive (fun d =>
    let a := tget {} d.fab.arbs target
    if kingPort port && d.king.held then d
    else if (a.pending ++ a.grants).countP (fun x => x.port == port.val) < 2 then
      match wayOpen (wayTo port target) 0 d with
      | (false, d) => d
      | (true, d) =>
        let n := if same then a.next - 1 else a.next
        let x : Xfer := { port := port, write := write, qos := qos, addr := addr, order := n, line := write && line && port.val < 64
                          data := if write && kingPort port then buffer else [] }
        modArb target (fun a => { a with pending := a.pending ++ [x], next := n + 1 })
          (sendFlit (wayTo port target) 0 addr d)
    else d) s

/-- A port of the cipher engine (Table 3.3). -/
def cipherPort (port : Nat) : Bool := 66 ≤ port && port < 78

/-- The bytes of a read's access at a target: one line of the pool or of DRAM, with the errors met there (R74, R91, R92, R298, R645). The
accelerator queues answer a read with open bytes: the spec gives none. -/
def readAccess (t : Nat) (x : Xfer) (err : Nat) (d : Dev) : Bytes × Bool × Dev :=
  match inSeal x.addr 64 d with
  | some k =>
    if cipherPort x.port then (memRead d x.addr 64, rangePoisoned x.addr 64 d, d)
    else (List.replicate 64 0, true, sealViolation k x.addr d)
  | none =>
    if t ≥ 56 then let (b, d) := drawBytes 64 d; (b, false, d)
    else
      let d := if t < 48 then eccRange (x.addr + 8) 56 (eccAccess (256 + t) x.addr err d) else ddrBurst (t - 48) (dramPlace x.addr d).2 x.addr 8 err d
      (memRead d x.addr 64, rangePoisoned x.addr 64 d, d)

/-- A read's response reaches its requester; the King pair's lands in a slot while its outputs are held (R74, R122). -/
def landResponse (t : Nat) (x : Xfer) (data : Bytes) (bad : Bool) (d : Dev) : Dev :=
  let d := if kingPort x.port && d.king.held then { d with king.landed := d.king.landed ++ [(data, bad)] } else d
  send (.readData t x.port data bad) d

/-- A read's response travels to its requester (R74, R91). -/
def sendResponse (t : Nat) (x : Xfer) (d : Dev) : Dev :=
  let (f, d) := flitTravels (wayBack t x.port) 2 x.addr d
  if f = .changed then let (b, d) := drawBytes 64 d; landResponse t x b x.bad d
  else landResponse t x x.data (x.bad || f == .marked) d

/-- ARBITER_GRANT: with a free grant slot, the highest and oldest request is granted: a write gets GO and holds the slot, a
read is performed (R71, R72, R74). A read's slot stays open while its response is not accepted by its route; with
`accepted`, reads whose response waited here complete too. A flit that no ledger of its way lets pass is not accepted, and a write whose GO
cannot leave is not granted yet. -/
def execArbiterGrant (target : Fin 61) (err : BitVec 76) (accepted : Bool) (s : State) : Host.Outcome State Fault Refusal :=
  runLive (fun d =>
    let t := target.val
    let waited := (tget {} d.fab.arbs t).grants.filter fun x => !x.write
    let d := if accepted then
        waited.foldl (fun d x => match wayOpen (wayBack t x.port) 2 d with
          | (true, d) => sendResponse t x (modArb t (fun a => { a with grants := a.grants.erase x }) d)
          | (false, d) => d) d
      else d
    let a := tget {} d.fab.arbs t
    if a.grants.length < grantLimit t then
      match pickRequest a.pending with
      | none => d
      | some x =>
        let taken (d : Dev) : Dev := modArb t (fun a => { a with pending := a.pending.erase x }) d
        if x.write then
          match wayOpen (wayBack t x.port) 1 d with
          | (false, d) => d
          | (true, d) =>
            send (.go t x.port) (modArb t (fun a => { a with grants := a.grants ++ [x] }) (sendFlit (wayBack t x.port) 1 x.addr (taken d)))
        else
          let (b, bad, d) := readAccess t x err.toNat (taken d)
          let x := { x with data := b, bad := bad }
          match wayOpen (wayBack t x.port) 2 d with
          | (true, d) => if accepted then sendResponse t x d else modArb t (fun a => { a with grants := a.grants ++ [x] }) d
          | (false, d) => modArb t (fun a => { a with grants := a.grants ++ [x] }) d
    else d) s

/-- REQUEST_AGE_RAISE: a request pending for 256 cycles is raised to QOS level 3 (R72). -/
def execRequestAgeRaise (target : Fin 61) (order : Nat) (s : State) : Host.Outcome State Fault Refusal :=
  runLive (modArb target fun a =>
    { a with pending := a.pending.map fun x => if x.order = order then { x with aged := true } else x }) s

/-- The oldest open grant of a port. -/
def openGrant (t port : Nat) (write : Bool) (d : Dev) : Option Xfer :=
  (tget {} d.fab.arbs t).grants.find? fun x => x.port == port && x.write == write

/-- A write's data at its target: stored, with the poison mark its flit has met, or as open data (R74, R91, R92, R298). -/
def writeAccess (t : Nat) (x : Xfer) (data : Bytes) (f : Fate) (d : Dev) : Dev :=
  let data := data.take 64
  let (data, d) := if f = .changed then drawBytes data.length d else (data, d)
  let store (d : Dev) : Dev := let d := storeMem x.addr data d; if f = .marked then markRange x.addr data.length d else d
  match inSeal x.addr data.length d with
  | some k => if cipherPort x.port then store d else sealViolation k x.addr d
  | none => if t < 56 then store d else d

/-- The line that a writeback carries, while the L2 holds it. -/
def lineOf (x : Xfer) (d : Dev) : Option Nat := if x.line then l2Find (x.port / 8) x.addr d else none

/-- A granted write's data arrive: a writeback's are its line's, the King pair's those of the comparator's buffer (R74, R116, R121). -/
def writeArrives (t : Nat) (x : Xfer) (data : Bytes) (f : Fate) (d : Dev) : Dev :=
  if x.line then
    match lineOf x d with
    | some w =>
      let d := writeBack (x.port / 8) (l2Set x.addr) w d
      if f = .marked then markRange (x.addr / 64 * 64) 64 d
      else if f = .changed then let (b, d) := drawBytes 64 d; storeMem (x.addr / 64 * 64) b d
      else d
    | none => d
  else writeAccess t x (if kingPort x.port then x.data else data) f d

/-- WRITE_DATA_ARRIVE: the DAT flit of a granted write reaches its target, at most 64 bytes; the transfer completes, and its ACK returns
(R74, Table 3.2). -/
def execWriteDataArrive (target : Fin 61) (port : Fin 120) (data : List Byte) (s : State) :
    Host.Outcome State Fault Refusal :=
  runLive (fun d =>
    match openGrant target port true d with
    | none => d
    | some x => match wayOpen (wayTo port target) 2 d with
      | (false, d) => d
      | (true, d) =>
        let (f, d) := flitTravels (wayTo port target) 2 x.addr (modArb target (fun a => { a with grants := a.grants.erase x }) d)
        sendFlit (wayBack target port) 3 x.addr (writeArrives target x data f d)) s

/-- GRANT_CUT_OFF: the arbiter closes a grant that has waited on its requester for 64 cycles, discards the transfer, sends
an ACK flit with status CUT, marks the port and raises FAB_GRANT_HOLD (R75). A cut-off blocks no later request (R77). The line of a writeback
that is cut stays dirty, and the L2 issues the writeback again (R116). -/
def execGrantCutOff (target : Fin 61) (port : Fin 120) (s : State) : Host.Outcome State Fault Refusal :=
  runLive (fun d =>
    match (tget {} d.fab.arbs target).grants.find? fun x => x.port == port.val with
    | none => d
    | some x =>
      let d := modArb target (fun a =>
        { a with grants := a.grants.erase x, cut := if x.write then a.cut ++ [x.port] else a.cut }) d
      let d := if x.line && (lineOf x d).isSome then
          modArb target (fun a => { a with pending := a.pending ++ [{ x with order := a.next, aged := false }], next := a.next + 1 }) d
        else d
      let d := send (.cut target port) (sendFlit (wayBack target port) 3 x.addr d)
      let d := if port.val < 64 then setBit Reg.FAB_CUT_MAP0_PORTS port d else setBit Reg.FAB_CUT_MAP1_PORTS (port - 64) d
      let d := wr Reg.FAB_CUT_TARGET target (wr Reg.FAB_CUT_PORT port (bump Reg.FAB_CUT_COUNT d))
      raiseC Ev.FAB_GRANT_HOLD (portUnit port) target port (setb Reg.FAB_STATUS_CUT d)) s

/-- LATE_DAT_DISCARD: the DAT flit of a transfer that was cut off arrives, is discarded and counted, and its credits return (R76). -/
def execLateDatDiscard (target : Fin 61) (port : Fin 120) (s : State) : Host.Outcome State Fault Refusal :=
  runLive (fun d =>
    if (tget {} d.fab.arbs target).cut.contains port.val then
      bump Reg.FAB_CUT_LATE (modArb target (fun a => { a with cut := a.cut.erase port.val }) (sendFlit (wayTo port target) 2 0 d))
    else d) s

/-- CUT_NOTICE_RECEIVE: an engine receives the CUT notice of a store, which it takes at its next instruction boundary
(R115). -/
def execCutNoticeReceive (e : Fin 64) (addr : Nat) (s : State) : Host.Outcome State Fault Refusal :=
  runLive (fun d => { d with engines := tmod {} d.engines e fun g => { g with cutAddr := some addr } }) s

/-- POOL_SCRUB_LINE: with SCRUB_EN, a bank reads and rewrites the eight words of its next line, one of them with an error `err`, and a
whole-pool pass is counted when the last bank ends it (R93). -/
def execPoolScrubLine (bank : Fin 48) (word : Fin 8) (err : BitVec 76) (s : State) : Host.Outcome State Fault Refusal :=
  runLive (fun d =>
    if rdb Reg.FAB_CTRL_SCRUB_EN d then
      let n := tget 0 d.fab.scrub bank
      let a := bankAddr bank (n % 65536) d
      let d := forEach (List.range 8) (fun i d => eccAccess (256 + bank) (a + 8 * i) (if i = word.val then err.toNat else 0) d) d
      let passes (d : Dev) := ((List.range 48).map fun b => tget 0 d.fab.scrub b / 65536).foldl min (n / 65536 + 1)
      let d := { d with fab.scrub := tset 0 d.fab.scrub bank (n + 1) }
      wr Reg.FAB_SCRUB_PASSES (passes d) d
    else d) s

/-- FAB_INJ_ARM: the injection that FAB_INJ describes is armed (R94). -/
def execFabInjArm (s : State) : Host.Outcome State Fault Refusal := runLive (setb Reg.FAB_INJ_ARM_ARM) s

/-! ### The audit of the credit ledgers (R80–R83) -/

/-- The first test of R80 that a ledger fails, numbered from 0. The spec does not say which one LAST_TEST names when several fail: the
lowest-numbered one (DESIGN CHOICE, log entry 138). -/
def ledgerTest (depth : Nat) (l : Ledger) : Option Nat :=
  let m := 2 ^ 32
  let sub a b := (a + m - b % m) % m
  if l.credits.val % m ≠ (sub depth l.s + l.cr) % m then some 0
  else if l.occ.val % m ≠ sub l.rx l.ct then some 1
  else if sub l.s l.rx > 11 then some 2
  else if sub l.ct l.cr > 11 then some 3
  else none

/-- A ledger fails its audit (R84): FAB_CREDIT, FAB_AUDIT, and a resynchronisation, for which the sender's credits are 0; three failures
in a row are FAB_FAIL (R81, R82, R85). -/
def ledgerFails (unit cls test : Nat) (expected found : Nat) (l : Ledger) (d : Dev) : Dev :=
  let d := bump Reg.FAB_AUDIT_MISMATCHES d
  let d := wr Reg.FAB_AUDIT_LAST_UNIT unit (wr Reg.FAB_AUDIT_LAST_CLASS cls (wr Reg.FAB_AUDIT_LAST_TEST test d))
  let d := setb Reg.FAB_CONS_CREDIT (setb Reg.FAB_STATUS_CREDIT_CHK d)
  let d := raiseC Ev.FAB_CREDIT (fabUnit unit) expected found d
  let l := { l with credits := ⟨0, 255⟩, resync := true, fails := l.fails + 1 }
  let d := showResync (setLedger unit cls l d)
  if l.fails ≥ 3 then raiseD Ev.FAB_FAIL (fabUnit unit) 0 0 false d else d

/-- Test one ledger as latched: its paired counts (R79), then the tests of R80. Of the range tests the Check's expected value is the bound 11
(DESIGN CHOICE, log entry 138). -/
def auditLedger (unit cls : Nat) (d : Dev) : Dev :=
  let (l, d) := readLedger unit cls d
  let depth := classDepth cls d
  match ledgerTest depth l with
  | some t =>
    let m := 2 ^ 32
    let sub a b := (a + m - b % m) % m
    let ef := match t with
      | 0 => ((sub depth l.s + l.cr) % m, l.credits.val)
      | 1 => (sub l.rx l.ct, l.occ.val)
      | 2 => (11, sub l.s l.rx)
      | _ => (11, sub l.ct l.cr)
    ledgerFails unit cls t ef.1 ef.2 l d
  | none => if l.fails = 0 then d else setLedger unit cls { l with fails := 0 } d

/-- The region at the far end of a local port's ledger, other than the fabric and the I/O die (R83): the clusters, and the accelerators of
Table 3.1. -/
def portRegion (unit : Nat) : Option Nat :=
  let n := unit / 16 % 16
  let p := unit % 16
  if unit / 256 ≠ 2 then none
  else if p = 0 ∧ n < 8 then some n
  else if [(1, 7), (1, 8), (2, 7), (3, 7), (4, 7)].contains (n, p) then some 9
  else none

/-- A ledger whose region is off is left out of the audit (R83). -/
def ledgerOff (unit : Nat) (d : Dev) : Bool :=
  match portRegion unit with
  | some r => let a := rd (Reg.PWR_LVL_ASTATE r) d; a == 2 || a == 3
  | none => false

/-- Every ledger of a region is at full credits (R83). -/
def ledgersFull (region : Nat) (d : Dev) : Bool :=
  d.fab.ledgers.all fun p => portRegion (p.1 / 4) != some region || (!p.2.resync && p.2.credits.val == classDepth (p.1 % 4) d)

/-- What an upset has left in a ledger's two ends when they are latched. -/
def upsetLedger (x : LedgerSample) (d : Dev) : Dev :=
  let l := getLedger x.unit x.cls d
  if l.resync || ledgerOff x.unit d then d
  else setLedger x.unit x.cls { l with credits := ⟨x.credits, x.creditsC⟩, s := x.s, cr := x.cr, occ := ⟨x.occ, x.occC⟩, rx := x.rx, ct := x.ct } d

/-- Cycle E: each end of every ledger latches its values (R80). -/
def latchLedgers (xs : List LedgerSample) (d : Dev) : Dev := xs.foldl (fun d x => upsetLedger x d) d

/-- E+64: a resync still open is FAB_FAIL; every other ledger is tested. An unlisted ledger is fresh and passes; one whose region is off is
left out (R80–R83). -/
def auditLedgers (d : Dev) : Dev :=
  forEach ((d.fab.ledgers.filter fun p => !ledgerOff (p.1 / 4) d).map (·.1)) (fun k d =>
    if (getLedger (k / 4) (k % 4) d).resync then raiseD Ev.FAB_FAIL (fabUnit (k / 4)) 0 0 false d
    else auditLedger (k / 4) (k % 4) d) d

/-- CREDIT_RESYNC_DONE: with no slot occupied at the receiver and no return in flight, the credits go to D, the counters align, and
sending resumes (R81). -/
def execCreditResyncDone (unit : Nat) (cls : Fin 4) (occupied returns : Nat) (s : State) : Host.Outcome State Fault Refusal :=
  runLive (fun d =>
    let l := getLedger unit cls d
    if l.resync && occupied == 0 && returns == 0 then
      let (p, d) := mkPaired 8 3 (classDepth cls d) d
      showResync (setLedger unit cls { l with credits := p, cr := l.s, occ := ⟨0, 255⟩, rx := l.s, ct := l.s, resync := false } d)
    else d) s

/-- Every crossing ledger of a region gets full credits and zeroed counters (R83, R600). -/
def initLedgers (region : Nat) (d : Dev) : Dev :=
  showResync { d with fab.ledgers := d.fab.ledgers.filter fun p => portRegion (p.1 / 4) != some region }

/-- Raise the Check of a conservation ledger and set its bit in FAB_CONS (R85). -/
def consFails (code : Nat) (bit : Field) (unit expected found : Nat) (d : Dev) : Dev :=
  raiseC code unit expected found (setb bit d)

/-! ### The pool allocator (R86) -/

/-- The 4 KiB units of a pool partition: 1,024 a bank. -/
def poolUnits (p : Nat) (d : Dev) : Nat := (d.fab.banks[p]?).getD 0 * 1024

/-- A unit's key: its partition and its number there. -/
def unitKey (p u : Nat) : Nat := p * 2 ^ 20 + u

/-- The holder of a unit plus 1; 0 while it is on its partition's free list. -/
def unitHolder (p u : Nat) (d : Dev) : Nat := tget 0 d.fab.poolHolder (unitKey p u)

/-- The units of a partition that are held. -/
def poolHeld (p : Nat) (d : Dev) : Nat := d.fab.poolHolder.countP fun x => x.1 / 2 ^ 20 == p

/-- Give a free unit of a partition to a holder; which one is open (R86). Nothing when none is free. -/
def poolTake (p holder : Nat) (d : Dev) : Option Nat × Dev :=
  match pickFree (those (poolUnits p d) fun u => unitHolder p u d == 0) d with
  | (none, d) => (none, d)
  | (some u, d) => (some u, { d with
      fab.poolHolder := tset 0 d.fab.poolHolder (unitKey p u) (holder + 1)
      fab.poolOut := tmod 0 d.fab.poolOut p (· + 1) })

/-- A holder gives its unit back to the free list; no other holder can (R86). -/
def poolGive (p u holder : Nat) (d : Dev) : Dev :=
  if unitHolder p u d = holder + 1 then { d with
    fab.poolHolder := tset 0 d.fab.poolHolder (unitKey p u) 0
    fab.poolOut := tmod 0 d.fab.poolOut p (· - 1) }
  else d

/-- BUFFER_LEDGER_AUDIT: every 64 tempi, in each pool partition free and held units add up to the partition's 4 KiB units,
and on each host port free and occupied miss-buffer slots add up to the port's slots (R43, R85, R86, Table 3.5). `poolErr` and `missErr` are
what an upset has added to the counts. -/
def execBufferLedgerAudit (poolErr missErr : List Int) (s : State) : Host.Outcome State Fault Refusal :=
  runLive (fun d =>
    if tempoNow d % 64 = 0 then
      let d := forEach (List.range 7) (fun p d =>
        let units := poolUnits p d
        let found := (((units - tget 0 d.fab.poolOut p + poolHeld p d : Nat) : Int) + (poolErr[p]?).getD 0).toNat
        if found = units then d else consFails Ev.BUF_LEDGER Reg.FAB_CONS_POOL 0 units found d) d
      forEach (List.range 32) (fun p d =>
        let slots := missSlots p d
        let found := (((slots - missOcc p d + missOcc p d : Nat) : Int) + (missErr[p]?).getD 0).toNat
        if found = slots then d else consFails Ev.BUF_LEDGER Reg.FAB_CONS_MISS (unitOf 8 p) slots found d) d
    else d) s

end Sys2Proof.Machine
end

