-- ==== Sys2Proof/Machine/Power.lean ====
section
/-!
DEFINITION. The power manager and the power arbiter (spec/21_power_management.md): levels, Adjourned states, base charges,
the grant round, the envelope, throttling, and the commands on them.
-/

namespace Sys2Proof.Machine

/-! ### Regions, levels and crossings -/

/-- Change one region. -/
def modRegion (r : Nat) (f : Region → Region) (d : Dev) : Dev := { d with pwr.regions := tmod {} d.pwr.regions r f }
def getRegion (r : Nat) (d : Dev) : Region := tget {} d.pwr.regions r

/-- The level and the Adjourned state of a region (PWR_LVLr). -/
def levelOf (r : Nat) (d : Dev) : Nat := rd (Reg.PWR_LVL_LVL r) d
def astateOf (r : Nat) (d : Dev) : Nat := rd (Reg.PWR_LVL_ASTATE r) d

/-- Rail voltage in mV of a level (R593, Table 21.2), by the region codes of R592. -/
def levelMv (r lvl : Nat) : Nat :=
  let t := if r < 8 then [600, 650, 700, 760, 820, 900] else if r < 10 then [600, 630, 670, 720, 780, 850]
    else if r = 10 then [600, 630, 660, 700, 750, 800] else [700, 720, 740, 760, 780, 800]
  (t[lvl]?).getD 0

/-- Clock in MHz of a level (R593, Table 21.2). -/
def levelMhz (r lvl : Nat) : Nat :=
  let t := if r < 8 then [400, 800, 1200, 1600, 2000, 2400] else if r < 11 then [250, 500, 800, 1200, 1600, 2000]
    else [100, 150, 200, 300, 400, 500]
  (t[lvl]?).getD 1

/-- The adjacent region pairs (chapter 3, "Region crossings"). -/
def adjacent : List (Nat × Nat) := ((List.range 8).map fun c => (c, 8)) ++ [(9, 8), (10, 8), (11, 10)]

/-- The regions adjacent to one. -/
def neighbours (r : Nat) : List Nat :=
  adjacent.filterMap fun p => if p.1 = r then some p.2 else if p.2 = r then some p.1 else none

/-- Two levels of adjacent regions break Table 3.6 for voltage, clock ratio or level difference (R88). -/
def crossingBreach (r l r' l' : Nat) : Bool :=
  let dv := (levelMv r l : Int) - levelMv r' l'
  let (f, f') := (levelMhz r l, levelMhz r' l')
  dv.natAbs > 250 || f > 4 * f' || f' > 4 * f || l > l' + 3 || l' > l + 3

/-- The levels in force and staged in a region (R595, R650): in ADJ2 none is in force, but a level or a wake may be staged. -/
def levelsOf (r : Nat) (d : Dev) : List Nat :=
  let g := getRegion r d
  let staged := g.reqLvl.toList ++ g.waiting.toList ++ g.ramp.toList
  if astateOf r d = 2 then staged ++ (if g.reqAdj = some 0 then [g.lvlAtEntry] else []) else levelOf r d :: staged

/-- An adjacent region that a new level would breach, against the levels in force and staged there (R88, R595). Which of several WHO names is
not stated: the first in the order of chapter 3's list of crossings (DESIGN CHOICE, log entry 139). -/
def levelBreach (r l : Nat) (d : Dev) : Option Nat :=
  (neighbours r).find? fun r' => (levelsOf r' d).any fun l' => crossingBreach r l r' l'

/-! ### Base charges (R603, Table 21.6) -/

/-- Tokens per tempo of a cluster or of the accelerators at a level. -/
def baseAt (r lvl : Nat) : Nat :=
  if r < 8 then ([30, 40, 55, 80, 110, 150][lvl]?).getD 0 else ([110, 160, 230, 340, 470, 640][lvl]?).getD 0

/-- The I/O die's base: the sum of its parts as configured. -/
def ioBase (d : Dev) : Nat :=
  300 + 40 * ((List.range 8).countP fun g => rd (Reg.ETH_PORTCFG_GROUP g) d != 0)
    + 35 * ((List.range 4).countP fun p => rd (Reg.CDT_PORT_ROLE p) d != 0)
    + 30 * ((List.range 8).countP fun g => rd Reg.MDL_LANE_EN_EN d / 2 ^ (8 * g) % 256 != 0)
    + 45 * ((List.range 8).countP fun c => rd (Reg.DDR_CH_DIMMS c) d != 0)

/-- The base charge of a region: at the higher of two levels during a ramp (R595), at the Adjourned state's charge in one. -/
def chargeOf (r : Nat) (d : Dev) : Nat :=
  if r = 8 then 750 else if r = 10 then ioBase d else if r = 11 then 10
  else
    let g := getRegion r d
    match astateOf r d with
    | 1 => if r < 8 then 12 else 30
    | 2 => if r < 8 then 2 else 5
    | 3 => 0
    | _ => baseAt r (if g.ramp.isSome then g.rampCharge else levelOf r d)

/-- The base charges of every region. -/
def baseTotal (d : Dev) : Nat := ((List.range 12).map fun r => chargeOf r d).sum

/-- The least base charge of the structure in force (R608). -/
def leastBase (d : Dev) : Nat := ioBase d + 750 + 10 + 8 * 55 + 230

/-- The base charges with each region counted at the level it is moving to (R610). -/
def baseMoving (d : Dev) : Nat :=
  ((List.range 12).map fun r =>
    match (getRegion r d).ramp with
    | some l => if (r < 8 || r = 9) && astateOf r d = 0 then baseAt r l else chargeOf r d
    | none => chargeOf r d).sum

/-! ### Refusals (R598) -/

/-- Count a refusal of a region: cause, kind (1 level, 2 ADJ1, 3 ADJ2, 4 ADJ3, 5 wake) and refuser. A code of PWR_ADJ that is no region
(the device, 15, among them) has no PWR_REFr of its own: which one takes it is open. -/
def refuse (r cause kind who : Nat) (d : Dev) : Dev :=
  let (reg, d) := if r ≤ 11 then (r, d) else drawNat 12 d
  let d := wr (Reg.PWR_REF_CAUSE reg) cause (wr (Reg.PWR_REF_KIND reg) kind (wr (Reg.PWR_REF_WHO reg) who d))
  notice Ev.PWR_REFUSED (unitOf 0x10 r) 0 0 (setb Reg.PWR_STATUS_REFUSED (bump (Reg.PWR_REF_COUNT reg) d))

/-- A region is entering, waking or ramping (Table 21.4, BUSY). -/
def regionBusy (r : Nat) (d : Dev) : Bool := astateOf r d == 4 || astateOf r d == 5 || (getRegion r d).ramp.isSome

/-- The level request for the fabric, the I/O die or the SXC that R594 forbids. -/
def levelForbidden (r l : Nat) (d : Dev) : Bool :=
  glbState d == 1 && (r == 8 || r == 10 || r == 11) && l != 5

/-! ### Staging requests (R650) -/

/-- A new request for a region replaces the one staged; a waiting raise or wake withdraws from the rounds. -/
def stageRegion (r : Nat) (lvl adj : Option Nat) (d : Dev) : Dev :=
  let d := { d with pwr.waiting := d.pwr.waiting.filter fun q => q.who != .region r }
  modRegion r (fun g => { g with reqLvl := lvl, reqAdj := adj, waiting := none, waitWake := false, waitEdges := 0 }) d

/-- LEVEL_REQUEST: a write of PWR_LVLr.REQ stages or replaces a level request (R595, R650); 6 and 7 are reserved (R10). -/
def execLevelRequest (r : Fin 12) (lvl : Fin 8) (s : State) : Host.Outcome State Fault Refusal :=
  runLive (fun d =>
    if lvl.val > 5 then d
    else
      let d := wr (Reg.PWR_LVL_REQ r) lvl d
      if inTrouble d then refuse r 7 1 (glbState d) d else stageRegion r (some lvl) none d) s

/-- A write of PWR_ADJ with GO: the fields take the request, and it is staged for the region (R598, R650). -/
def adjRequest (r req kind : Nat) (d : Dev) : Dev :=
  let d := setb Reg.PWR_ADJ_GO (wr Reg.PWR_ADJ_REGION r (wr Reg.PWR_ADJ_REQ req d))
  if inTrouble d then clr Reg.PWR_ADJ_GO (refuse r 7 kind (glbState d) d)
  else stageRegion r none (some req) d

/-- ADJ_WAKE_REQUEST: PWR_ADJ REQ 0 wakes a region (R599). A wake asked for while an entry completes begins when it has. -/
def execAdjWakeRequest (r : Fin 16) (s : State) : Host.Outcome State Fault Refusal := runLive (adjRequest r 0 5) s

/-- ADJ1_REQUEST: tested at the next edge (R598). -/
def execAdj1Request (r : Fin 16) (s : State) : Host.Outcome State Fault Refusal := runLive (adjRequest r 1 2) s

/-- ADJ2_REQUEST: tested at the next edge (R598). -/
def execAdj2Request (r : Fin 16) (s : State) : Host.Outcome State Fault Refusal := runLive (adjRequest r 2 3) s

/-- ADJ3_REQUEST: the device is asked into ADJ3; the conditions are tested at the next edge (R598, R601). -/
def execAdj3Request (s : State) : Host.Outcome State Fault Refusal :=
  runLive (fun d =>
    let d := setb Reg.PWR_ADJ_GO (wr Reg.PWR_ADJ_REGION 15 (wr Reg.PWR_ADJ_REQ 3 d))
    if inTrouble d then clr Reg.PWR_ADJ_GO (refuse 15 7 4 (glbState d) d) else { d with pwr.adj3Req := true }) s

/-! ### The tests of an edge (R595, R598) -/

/-- Begin to move a region down at cycle E: the clock switches first, the region is charged at the higher level until the
ramp ends (R595). -/
def lowerRegion (r l : Nat) (d : Dev) : Dev :=
  let old := levelOf r d
  wr (Reg.PWR_LVL_LVL r) l (modRegion r (fun g => { g with reqLvl := none, ramp := some l, rampCharge := max old l }) d)

/-- The test of a staged level request (R595). -/
def testLevel (r : Nat) (d : Dev) : Dev :=
  match (getRegion r d).reqLvl with
  | none => d
  | some l =>
    let d0 := modRegion r (fun g => { g with reqLvl := none }) d
    if levelForbidden r l d then refuse r 7 1 (glbState d) d0
    else if regionBusy r d then refuse r 8 1 0 d0
    else match levelBreach r l d0 with
      | some r' => refuse r 5 1 r' d0
      | none =>
        if l < levelOf r d then lowerRegion r l d0
        else if l = levelOf r d then d0
        else
          let need := if r < 8 || r = 9 then baseAt r l - baseAt r (levelOf r d) else 0
          modRegion r (fun g => { g with waiting := some l, waitEdges := 0 })
            { d0 with pwr.waiting := d0.pwr.waiting ++ [{ who := .region r, cls := 7, cost := need }] }

/-- A region begins to wake from ADJ1 (R597). -/
def beginWake (r from_ : Nat) (d : Dev) : Dev :=
  wr (Reg.PWR_LVL_ASTATE r) 5 (modRegion r (fun g => { g with wakingFrom := from_, waiting := none, waitWake := false, wakeAfter := false }) d)

/-- A wake from ADJ2 waits for the grant of its base charge as class LEVEL (R599). -/
def askWake (r : Nat) (d : Dev) : Dev :=
  let l := (getRegion r d).lvlAtEntry
  modRegion r (fun g => { g with waiting := some l, waitWake := true, waitEdges := 0, wakeAfter := false })
    { d with pwr.waiting := d.pwr.waiting ++ [{ who := .region r, cls := 7, cost := baseAt r l - chargeOf r d }] }

/-- The test of a staged Adjourned-state request. `conditions r st` gives the first condition of SLICES, CONTEXTS, WINDOWS
and DIRTY that refuses entry of region `r` to ADJ`st`: cause and refuser (Table 21.4). Codes of PWR_ADJ other than the clusters' and
the accelerators' are refused with STATE (Table 21.12). -/
def testAdj (conditions : Nat → Nat → Dev → Option (Nat × Nat)) (r : Nat) (d : Dev) : Dev :=
  match (getRegion r d).reqAdj with
  | none => d
  | some q =>
    let d := clr Reg.PWR_ADJ_GO (modRegion r (fun g => { g with reqAdj := none }) d)
    if !(r < 8 || r = 9) then refuse r 7 (if q = 0 then 5 else q + 1) (glbState d) d
    else if q = 0 then
      match astateOf r d with
      | 1 => beginWake r 1 d
      | 2 => askWake r d
      | 4 => modRegion r (fun g => { g with wakeAfter := true }) d
      | _ => if regionBusy r d then refuse r 8 5 0 d else d
    else if regionBusy r d then refuse r 8 (q + 1) 0 d
    else match conditions r q d with
      | some (cause, who) => refuse r cause (q + 1) who d
      | none =>
        wr (Reg.PWR_LVL_ASTATE r) 4 (modRegion r (fun g =>
          { g with entering := q, clamped := true, lvlAtEntry := levelOf r d }) d)

/-- The test of an ADJ3 request: VSB present, no ANA group owned, not in START-UP, then the conditions given (Table 21.4). -/
def testAdj3 (ownsGroup : Dev → Bool) (conditions : Dev → Option (Nat × Option Nat)) (d : Dev) : Dev :=
  if d.pwr.adj3Req then
    let d := clr Reg.PWR_ADJ_GO { d with pwr.adj3Req := false }
    if !d.pwr.vsb || ownsGroup d || glbState d = 0 then refuse 15 7 4 (glbState d) d
    else if (List.range 12).any fun r => regionBusy r d then refuse 15 8 4 0 d
    else match conditions d with
      | some (cause, some who) => refuse 15 cause 4 who d
      | some (cause, none) => let (who, d) := drawNat (2 ^ 32) d; refuse 15 cause 4 who d
      | none => { d with pwr.adj3Entering := true }
  else d

/-- LEVEL_RAMP_DONE: the ramp ends; the region is at its new level and charged there (R595). -/
def execLevelRampDone (r : Fin 12) (s : State) : Host.Outcome State Fault Refusal :=
  runLive (fun d =>
    match (getRegion r d).ramp with
    | none => d
    | some l => wr (Reg.PWR_LVL_LVL r) l (modRegion r (fun g => { g with ramp := none, rampCharge := l }) d)) s

/-- ENVELOPE_WRITE: an envelope of 100–260 W takes effect at the next edge (R607); others are reserved (R10). -/
def execEnvelopeWrite (watts : BitVec 16) (s : State) : Host.Outcome State Fault Refusal :=
  runLive (fun d =>
    if 100 ≤ watts.toNat ∧ watts.toNat ≤ 260 then
      wr Reg.PWR_CTRL_ENVELOPE watts.toNat { d with pwr.envStaged := some (watts.toNat * 20) }
    else d) s

/-- Some sensor lies above a threshold; every sensor lies below one. The sensors are the regions' hottest as last read. -/
def sensorAbove (t : Int) (d : Dev) : Bool := (List.range 12).any fun r => signedOf 8 (rd (Reg.PWR_LVL_TEMP r) d) > t
def sensorsBelow (t : Int) (d : Dev) : Bool := (List.range 12).all fun r => signedOf 8 (rd (Reg.PWR_LVL_TEMP r) d) < t

/-- Show whether the effective envelope lies below ENVELOPE. -/
def showThrottle (d : Dev) : Dev :=
  wr Reg.PWR_STATUS_THROTTLE (b2n (rd Reg.PWR_STATUS_EFF_ENV d < d.pwr.envelope)) d

/-- THROTTLE_STEP: at edges whose number is a multiple of 1,000 the effective envelope steps by 5 % of ENVELOPE (one token
a watt), down to the least base charge or up to ENVELOPE (R609). The grants of the tempo that the edge has begun stand under the envelope
fixed at its cycle E; the step governs from the next edge (R46). -/
def execThrottleStep (s : State) : Host.Outcome State Fault Refusal :=
  runLive (fun d =>
    if tempoNow d % 1000 = 0 then
      let step := rd Reg.PWR_CTRL_ENVELOPE d
      let eff := rd Reg.PWR_STATUS_EFF_ENV d
      let thr : Int := rd Reg.PWR_THERM_THROTTLE d
      if rdb Reg.PWR_CTRL_THROTTLE_EN d && sensorAbove thr d then
        let d := if rdb Reg.PWR_STATUS_THROTTLE d then d else notice Ev.PWR_THROTTLE 0 0 0 d
        showThrottle (wr Reg.PWR_STATUS_EFF_ENV (max (eff - step) (leastBase d)) d)
      else if sensorsBelow (thr - 5) d && eff < d.pwr.envelope then
        showThrottle (wr Reg.PWR_STATUS_EFF_ENV (min (eff + step) d.pwr.envelope) d)
      else d
    else d) s

/-! ### What an edge does (Table 2.3, power arbiter) -/

/-- Sensors read at an edge: temperatures, rail voltages, VIN (R609, Table 21.12). -/
def readSensors (temps : List Int) (mv : List Nat) (vinMv : Nat) (d : Dev) : Dev :=
  let d := forEach (List.range 12) (fun r d =>
    if astateOf r d = 2 then d  -- the last value before the clamp (Table 21.5)
    else wr (Reg.PWR_LVL_TEMP r) (twosOf 8 ((temps[r]?).getD 0)) (wr (Reg.PWR_LVL_MV r) ((mv[r]?).getD 0 / 5) d)) d
  let hot := (List.range 12).foldl (fun b r =>
    if signedOf 8 (rd (Reg.PWR_LVL_TEMP r) d) > signedOf 8 (rd (Reg.PWR_LVL_TEMP b) d) then r else b) 0
  wr Reg.PWR_PF_VIN_MV vinMv (wr Reg.PWR_THERM_HOT hot (wr Reg.PWR_THERM_TMAX (rd (Reg.PWR_LVL_TEMP hot) d) d))

/-- The warning Notice when a sensor first exceeds WARN, and the Checkmate above TRIP (R609, R611). -/
def thermalChecks (d : Dev) : Dev :=
  let warm := sensorAbove (rd Reg.PWR_THERM_WARN d : Int) d
  let d := if warm && !d.pwr.warned then setb Reg.PWR_STATUS_WARN_N (notice Ev.PWR_THERM_WARN 0 0 0 d) else d
  let d := { d with pwr.warned := warm }
  if sensorAbove (rd Reg.PWR_THERM_TRIP d : Int) d then checkmate Ev.PWR_OVERTEMP 0 0 0 d else d

/-- The measurement of one crossing (R89, R90, R596). When both sides measure the same voltage and only the temperature is beyond its limit,
no side is the lower one: the second of the pair is raised (DESIGN CHOICE, log entry 139). -/
def measureCrossing (temps : List Int) (mv : List Nat) (p : Nat × Nat) (d : Dev) : Dev :=
  let (a, b) := p
  if astateOf a d = 2 || astateOf a d = 3 then d
  else
    let va : Int := (mv[a]?).getD 0
    let vb : Int := (mv[b]?).getD 0
    let dv := (va - vb).natAbs
    let dt := ((temps[a]?).getD 0 - (temps[b]?).getD 0).natAbs
    let low := if va < vb then a else b
    if dv > 250 || dt > 30 then
      let cause := b2n (dv > 250) + 2 * b2n (dt > 30)
      let d := wr Reg.FAB_XING_REGION_A a (wr Reg.FAB_XING_REGION_B b (wr Reg.FAB_XING_CAUSE cause (wr Reg.FAB_XING_DV dv d)))
      let d := raiseC Ev.FAB_XING (unitOf 0x10 a) 0 0 (setb Reg.FAB_STATUS_XING_CHK (bump Reg.FAB_XING_CHECKS d))
      let d := if (getRegion low d).forcedDone then d else modRegion low (fun g => { g with forced := true }) d
      if dv > 300 || dt > 40 then
        if a = 10 then checkmate Ev.FAB_GUARD (unitOf 0x10 a) 0 0 d
        else raiseD Ev.FAB_GUARD (unitOf 0x10 a) 0 0 false d
      else d
    else modRegion low (fun g => { g with forcedDone := false }) d

/-- The forced raise of R89 due at this edge: charged before any grant, on the reserve (R596). -/
def forceRaises (d : Dev) : Dev :=
  forEach (List.range 12) (fun r d =>
    let g := getRegion r d
    if g.forced then
      let l := levelOf r d
      if l < 5 then modRegion r (fun g => { g with forced := false, forcedDone := true, ramp := some (l + 1), rampCharge := l + 1 }) d
      else modRegion r (fun g => { g with forced := false, forcedDone := true }) d
    else d) d

/-- The total of the holds. -/
def holdTotal (d : Dev) : Nat := (d.pwr.holds.map (·.cost)).sum

/-- A written envelope takes effect; a lower one waits while base charges and holds exceed it (R607). -/
def applyEnvelope (d : Dev) : Dev :=
  match d.pwr.envStaged with
  | none => d
  | some e =>
    if e < d.pwr.envelope && baseTotal d + holdTotal d > e then
      if rdb Reg.PWR_STATUS_ENV_HELD d then d
      else notice Ev.PWR_ENV_HELD 0 0 0 (setb Reg.PWR_STATUS_ENV_HELD d)
    else
      let eff := rd Reg.PWR_STATUS_EFF_ENV d
      let eff' := if rdb Reg.PWR_STATUS_THROTTLE d then min eff e else e
      showThrottle (clr Reg.PWR_STATUS_ENV_HELD (wr Reg.PWR_STATUS_EFF_ENV eff'
        { d with pwr.envelope := e, pwr.envStaged := none }))

/-- The previous tempo's grants return; those of a longer hold run on, and a region's raise is part of its base charge from
now on (R604, R606). What an engine still holds is granted to it again (R112). -/
def returnGrants (d : Dev) : Dev :=
  let again := (d.pwr.granted ++ d.pwr.holds).filterMap fun q =>
    if q.left > 1 then some { q with left := q.left - 1 } else none
  let d := { d with pwr.granted := [], pwr.holds := again }
  forEach (List.range 64) (fun e d => { d with engines := tmod {} d.engines e fun g =>
    { g with tokens := ((again.filter fun q => q.who == .engine e).map (·.cost)).sum } }) d

/-- The tempi that a class's hold lasts (Table 21.7); LEVEL is carried by the base charge. -/
def holdTempi (cls : Nat) (d : Dev) : Nat :=
  match cls with
  | 1 => tempiFor 20000 d
  | 3 => tempiFor 60000 d
  | 5 => tempiFor 100000000 d
  | _ => 1

/-- A class's place in the round (R605). -/
def classRank (cls : Nat) : Nat :=
  match cls with
  | 6 => 0 | 5 => 1 | 1 => 2 | 2 => 3 | 3 => 4 | 4 => 5 | _ => 6

/-- The requester port of a token request, for ties (R605, Table 3.3). Requests of the power manager and the DDR5
controllers, which have no port there, come after. -/
def TokWho.port : TokWho → Nat
  | .engine n => n
  | .compLane n => 78 + n
  | .hostPort n => 101 + n / 8
  | .cercoPort n => 105 + n
  | .mediaLane n => 109 + n / 8
  | .ddr c => 120 + c
  | .region r => 128 + r

/-- A request comes before another in the round (R605, steps 3 and 4). -/
def TokReq.before (a b : TokReq) : Bool :=
  let aged (q : TokReq) := decide (q.age ≥ 64)
  if aged a != aged b then aged a
  else if aged a then b.age < a.age || (a.age == b.age && a.who.port < b.who.port)
  else if classRank a.cls != classRank b.cls then classRank a.cls < classRank b.cls
  else b.age < a.age || (a.age == b.age && a.who.port < b.who.port)

/-- Insert a request in the order of the round. -/
def insertReq (q : TokReq) : List TokReq → List TokReq
  | [] => [q]
  | x :: xs => if q.before x then q :: x :: xs else x :: insertReq q xs

/-- The round over requests in order, with `room` tokens: granted and waiting; an aged request that does not fit blocks all
later ones (R605). -/
def grantList : Nat → List TokReq → List TokReq × List TokReq
  | _, [] => ([], [])
  | room, q :: qs =>
    if q.cost ≤ room then
      let (g, w) := grantList (room - q.cost) qs
      (q :: g, w)
    else if q.age ≥ 64 then ([], q :: qs)
    else
      let (g, w) := grantList room qs
      (g, q :: w)

/-- What a grant starts: an engine's tokens, a region's raise or wake (R595, R599, R112). -/
def takeGrant (q : TokReq) (d : Dev) : Dev :=
  match q.who with
  | .engine n => { d with engines := tmod {} d.engines n fun g => { g with tokens := g.tokens + q.cost } }
  | .region r =>
    match (getRegion r d).waiting with
    | none => d
    | some l =>
      if (getRegion r d).waitWake then beginWake r 2 d
      else modRegion r (fun g => { g with waiting := none, ramp := some l, rampCharge := l }) d
  | _ => d

/-- A raise or wake that has waited 1,000 edges is refused with ENVELOPE (Table 21.4). -/
def expireRaises (short : Nat) (d : Dev) : Dev :=
  forEach (List.range 12) (fun r d =>
    let g := getRegion r d
    if g.waiting.isSome then
      if g.waitEdges + 1 ≥ 1000 then
        let kind := if g.waitWake then 5 else 1
        refuse r 6 kind short (stageRegion r none none d)
      else modRegion r (fun g => { g with waitEdges := g.waitEdges + 1 }) d
    else d) d

/-- The audit of the token totals of the tempo that ends (R606). -/
def auditTokens (d : Dev) : Dev :=
  let t := d.pwr
  let new := (t.granted.map (·.cost)).sum
  let sum := t.totBase.val + t.totHolds.val + new
  if t.totGranted.val ≠ sum || (new ≠ 0 && t.totGranted.val > t.envTempo) then
    raiseC Ev.PWR_TOKEN 0 sum t.totGranted.val (setb Reg.FAB_CONS_TOKEN (setb Reg.PWR_STATUS_TOKEN_CHK d))
  else d

/-- The grant round at E+8 (R605, R606, R607, R610): charges first, then waiting requests within the envelope and outside
the reserve; nothing new when a paired total disagrees or the charges exceed the envelope. -/
def grantRound (d : Dev) : Dev :=
  let t := d.pwr
  let firstBad := [t.totGranted, t.totBase, t.totHolds].find? fun p => !p.ok 16
  let d := match firstBad with
    | some p =>
      let (i, d) := drawNat (2 ^ 64) d
      raiseC Ev.PWR_PAIRED 0 i p.data (setb Reg.PWR_STATUS_PAIRED_CHK d)
    | none => d
  let base := baseTotal d
  let holds := holdTotal d
  let eff := d.pwr.envTempo
  let cap := match d.pwr.envStaged with
    | some e => if rdb Reg.PWR_STATUS_ENV_HELD d then min e eff else eff
    | none => eff
  let room := if firstBad.isSome then 0 else cap - 200 - base - holds
  let sorted := d.pwr.waiting.foldr insertReq []
  let (g, w) := if room = 0 then ([], sorted) else grantList room sorted
  let g := g.map fun q => { q with left := holdTempi q.cls d }
  let w := w.map fun q => { q with age := q.age + 1 }
  let new := (g.map (·.cost)).sum
  let d := g.foldl (fun d q => takeGrant q d) { d with pwr.waiting := w, pwr.granted := g }
  let d := expireRaises (w.foldl (fun m q => max m (q.cost - room)) 0) d
  let d := bumpBy Reg.PWR_TOKCNT_GRANTS g.length (bumpBy Reg.PWR_TOKCNT_WAITS w.length d)
  let (pg, d) := mkPaired 16 2 (base + holds + new) d
  let (pb, d) := mkPaired 16 2 base d
  let (ph, d) := mkPaired 16 2 holds d
  let d := { d with pwr.totGranted := pg, pwr.totBase := pb, pwr.totHolds := ph }
  wr Reg.PWR_TOK_GRANTED (base + holds + new) (wr Reg.PWR_TOK_BASE base (wr Reg.PWR_TOK_HOLDS holds
    (wr Reg.PWR_TOK_LEAST (leastBase d) d)))

/-- The cluster whose level is lowered next: the highest level above PL2, the highest number among equals (R610). -/
def nextLower (d : Dev) : Option Nat :=
  let moving r := ((getRegion r d).ramp).getD (levelOf r d)
  (List.range 8).foldl (fun b c =>
    if moving c > 2 && astateOf c d = 0 then
      match b with
      | none => some c
      | some b' => if moving c ≥ moving b' then some c else b
    else b) none

/-- When the effective envelope lies below charges and holds, one level of one region goes down at each edge (R610). -/
def lowerForEnvelope (d : Dev) : Dev :=
  if rd Reg.PWR_STATUS_EFF_ENV d < baseMoving d + holdTotal d then
    match nextLower d with
    | some c => lowerRegion c (((getRegion c d).ramp).getD (levelOf c d) - 1) d
    | none =>
      let l := ((getRegion 9 d).ramp).getD (levelOf 9 d)
      if l > 2 && astateOf 9 d = 0 then lowerRegion 9 (l - 1) d else d
  else d

/-- At the edges after detection: the TT envelope, then clusters other than flash translation to ADJ1, those to PL2, the
accelerators to PL3 (R613). -/
def troubleEdge (d : Dev) : Dev :=
  match d.pwr.ttEdges with
  | 1 => { d with pwr.ttEdges := 2, pwr.envStaged := some (rd Reg.PWR_PF_TT_ENV d * 20) }
  | 2 =>
    let d := forEach (List.range 8) (fun c d =>
      if rd (Reg.CL_CTRL_FUNCTION c) d = 2 then
        if levelOf c d > 2 then lowerRegion c 2 d else d
      else wr (Reg.PWR_LVL_ASTATE c) 1 (modRegion c (fun g => { g with ramp := none }) d)) d
    let d := if levelOf 9 d > 3 then lowerRegion 9 3 d else d
    { d with pwr.ttEdges := 3 }
  | _ => d

/-! ### Waking from ADJ3 -/

/-- The device leaves ADJ3 and enters START-UP with boot cause 6 (R597, R601). -/
def wakeAdj3 (d : Dev) : Dev := if d.pwr.adj3 then reboot 6 d else d

/-- WAKE_N_ASSERT: a low of 10 µs or longer wakes the device from ADJ3 and is ignored in every other state (R640). -/
def execWakeNAssert (lowUs : Nat) (s : State) : Host.Outcome State Fault Refusal :=
  run (fun d => if lowUs ≥ 10 then wakeAdj3 d else d) s

/-- ADJ3_WAKE_TIMER: WAKE_S seconds of tempo time after entry the SXC wakes the device; 0 never (Table 21.12). -/
def execAdj3WakeTimer (sec : Nat) (s : State) : Host.Outcome State Fault Refusal :=
  run (fun d => if d.pwr.adj3WakeS ≠ 0 ∧ sec ≥ d.pwr.adj3Sec + d.pwr.adj3WakeS then wakeAdj3 d else d) s

end Sys2Proof.Machine
end

