-- ==== Sys2Proof/Machine/RegAccess.lean ====
section
/-!
DEFINITION. Access to BAR0 registers (spec/22_register_index.md, R615–R622, R648; spec/00_scope.md, R8–R12), from the management
endpoint and from the fabric.
-/

namespace Sys2Proof.Machine

/-- A field row covers the register at an offset. -/
def FieldSpec.covers (f : FieldSpec) (off : Nat) : Bool :=
  if off < f.base then false
  else
    let r := off - f.base
    if f.stride = 0 then r == 0
    else
      let i := r / f.stride
      let r' := r % f.stride
      i < f.count && (if f.stride2 = 0 then r' == 0 else r' % f.stride2 == 0 && r' / f.stride2 < f.count2)

/-- The field rows of the register at an 8-byte offset. -/
def fieldsAt (off : Nat) : List FieldSpec := fieldTable.filter fun f => f.covers off

/-- The MSI-X table and its pending-bit array (Table 22.2). -/
def inMsix (off : Nat) : Bool := 0x1000 ≤ off && off ≤ 0x1400

/-- A value that a field's table lists (R10); a field of one bit takes either. -/
def legalValue (f : FieldSpec) (v : Nat) : Bool :=
  f.legal.isEmpty || f.legal.any fun p => p.1 ≤ v && v ≤ p.2

/-- Some register table of a block defines the offset (R618). -/
def mapped (off : Nat) : Bool := inMsix off || fieldTable.any fun f => f.covers off

/-- The blocks that TEST and RECOVERY serve to the management endpoint: GLB, SXC, OIM, FWU, SCR, FLT (R537, R648). -/
def servedInRecovery (off : Nat) : Bool := [0x00, 0x06, 0x07, 0x08, 0x05, 0x04].contains (off / 0x100000)

/-- The registers of a region in ADJ2: reads return 0 and writes are discarded, but for CLn_CTRL, CLn_STATUS and
CLn_L2_LOCK (R597, R599). -/
def asleep (off : Nat) (d : Dev) : Bool :=
  let b := off / 0x100000
  if 0x10 ≤ b ∧ b < 0x18 then astateOf (b - 0x10) d == 2 && !([0, 8, 0x10].contains (off % 0x100000))
  else if 0x20 ≤ b ∧ b ≤ 0x24 then astateOf 9 d == 2
  else false

/-- The ETH registers of a port that does not exist read 0 (R140). -/
def noPort (off : Nat) (d : Dev) : Bool :=
  let r := off - 0x3200000
  0x3200100 ≤ off && off < 0x3200300 && portLanes (r % 0x100 / 8) d == 0

/-- Count an access error (R616, R618). -/
def accErr (fld : Field) (off : Nat) (d : Dev) : Dev :=
  wr Reg.GLB_ACCERR_LAST_OFF (off % 2 ^ 26) (setb Reg.GLB_STATUS_ACCERR (bump fld d))

/-- What a register shows where it shows another store: the Boot Record window (Table 18.16), the loaded digest key registers
(R278). -/
def shown (off : Nat) (d : Dev) : Word :=
  if 0x600800 ≤ off ∧ off < 0x600C00 then
    let slot := tget (List.replicate 1024 0xFF) d.nv.bootSlots (rd Reg.SXC_BREC_SEL_SLOT d)
    BitVec.ofNat 64 (leNat ((slot.drop (off - 0x600800)).take 8))
  else if off = Reg.DIG_KEYSTAT_LOADED.off then
    BitVec.ofNat 64 (((those 8 fun n => !(tget [] d.keys.digest n).isEmpty).map (2 ^ ·)).sum)
  else rdReg off d

/-- What a register's word reads as: WO fields and reserved bits read 0 (R8). -/
def readWord (off : Nat) (d : Dev) : Nat :=
  if inMsix off then (rdReg off d).toNat
  else
    let w := shown off d
    (fieldsAt off).foldl (fun v f =>
      if f.acc = .wo then v else v + wordFld ⟨off, f.msb, f.lsb⟩ w * 2 ^ f.lsb) 0

/-- The bits that an RC field loses by a read of the bits [hi:lo]: a field is cleared only when every bit of it is read
(R617); `inc` are the increments of the same cycle, which the field then holds (R577). -/
def clearRead (off lo hi inc : Nat) (d : Dev) : Dev :=
  (fieldsAt off).foldl (fun d f =>
    if f.acc = .rc ∧ lo ≤ f.lsb ∧ f.msb ≤ hi then
      let fl : Field := ⟨off, f.msb, f.lsb⟩
      wr fl (wordFld fl (BitVec.ofNat 64 inc)) d
    else d) d

/-- A read of `size` bytes at an offset: the value and the state after (R616–R618, R648, Table 20.4). -/
def regRead (who : Accessor) (off size inc : Nat) (d : Dev) : Nat × Dev :=
  let mgmt := who == .management
  if mgmt && d.flt.checkmateIn.isSome && !([0x00, 0x04, 0x05].contains (off / 0x100000)) then (2 ^ (8 * size) - 1, d)
  else if !((size = 4 || size = 8) && off % size = 0) then (0, accErr Reg.GLB_ACCERR_WIDTH off d)
  else
    let reg := off / 8 * 8
    if !mapped reg || (mgmt && (glbState d == 2 || glbState d == 3) && !servedInRecovery reg) then
      (0, accErr Reg.GLB_ACCERR_UNMAPPED off d)
    else if asleep reg d || noPort reg d then (0, d)
    else
      let lo := 8 * (off % 8)
      let v := readWord reg d / 2 ^ lo % 2 ^ (8 * size)
      (v, clearRead reg lo (lo + 8 * size - 1) inc d)

/-- Fields whose write has a row of its own in the opcode table: register offset and bits. A plain register write leaves
them to that row. -/
def ownRow : List Field :=
  [Reg.TMP_CTRL_STEP, Reg.TMP_SNAP_TAKE, Reg.TMP_FADJ_FADJ, Reg.TMP_PADJ_PADJ, Reg.TMP_OFFSET_OFFSET, Reg.FAB_INJ_ARM_ARM,
   Reg.NVF_SNAP_CMD_GO, Reg.PWR_CTRL_ENVELOPE, Reg.PWR_ADJ_GO, Reg.PWR_ADJ_REGION, Reg.PWR_ADJ_REQ, Reg.SCR_CTRL_FREEZE,
   Reg.SCR_WIN_SEL_SOURCE, Reg.SCR_WIN_SEL_CURSOR, Reg.SCR_WIN_CTRL_NEXT, Reg.FLT_INJ_ARM, Reg.CMP_INJ_ARM, Reg.DIG_INJ_ARM,
   Reg.CIP_INJ_ARM, Reg.ERS_INJ_ARM, Reg.MDL_INJ_ARM, Reg.CDT_INJ_ARM, Reg.FIU_OWN_APPLY_TEMPO, Reg.CAS_ANA_APPLY_TEMPO,
   Reg.CAS_CMD_CLAIM, Reg.CAS_CMD_PLANNED, Reg.OIM_CMD_GO, Reg.SXC_CHAL_CTRL_NEW, Reg.SXC_MOVE_CMD_GO, Reg.SXC_MR_EXT_GO,
   Reg.GLB_CMD_RESET, Reg.GLB_CMD_TEST, Reg.GLB_CMD_KEY, Reg.MDL_LANE_EN_EN, Reg.MDL_CTRL_PLN_CLEAR, Reg.CDT_WOPEN_GO,
   Reg.CDT_WREVOKE_GO, Reg.CIP_KLOAD_GO]
  ++ (List.range 12).map (fun r => Reg.PWR_LVL_REQ r)
  ++ (List.range 8).flatMap (fun n => [Reg.CL_CTRL_L2_EN n, Reg.CL_L2_LOCK_MASK n, Reg.CL_RANGE_OP_GO n])
  ++ (List.range 16).map (fun r => Reg.CDT_RPTR_PROD r)
  ++ (List.range 64).map (fun k => Reg.FLT_CHK_OPEN k)
  ++ (List.range 32).map (fun j => Reg.FLT_DCHK_OPEN j)

/-- A unit code that the kinds of Table 3.7's text list: a link of two nodes, a bank, a local port of a node (R10). -/
def fabUnitListed (u : Nat) : Bool :=
  match u / 256 with
  | 0 => u / 16 % 16 < 12 && u % 16 < 12
  | 1 => u % 256 < 48
  | 2 => u / 16 % 16 < 12
  | _ => false

/-- The highest index that Table 20.13 lists for a target of FLT_INJ. -/
def injIndexMax : Nat → Nat
  | 1 => 6
  | 2 => 1
  | _ => 7

/-- Limits that span fields, and the lists of FAB_INJ.UNIT and FLT_INJ.INDEX (R10, Tables 11.10, 12.10, 20.13): LOW_PCT lies below HIGH_PCT
and above CRIT_PCT; KEEP lies below DEAD. `w` is the word written: its values are compared with one another, and a write that breaks such a
limit leaves LOW_PCT, or KEEP, alone while the other fields take theirs (DESIGN CHOICE, log entry 140). INDEX is judged by the TARGET in
force after the write. -/
def legalTogether (f : Field) (v : Nat) (w : Word) (d : Dev) : Bool :=
  if f = Reg.MDL_FT_GC_LOW_PCT then v < wordFld Reg.MDL_FT_GC_HIGH_PCT w && wordFld Reg.MDL_FT_GC_CRIT_PCT w < v
  else if f = Reg.MDL_TMR_KEEP then v < wordFld Reg.MDL_TMR_DEAD w
  else if f = Reg.FAB_INJ_UNIT then fabUnitListed v
  else if f = Reg.FLT_INJ_INDEX then v ≤ injIndexMax (let t := wordFld Reg.FLT_INJ_TARGET w; if t < 4 then t else rd Reg.FLT_INJ_TARGET d)
  else true

/-- The write of one field by its access code; `set` are the bits hardware sets in the same cycle, and a set wins (R8, R10,
R577). -/
def writeField (off : Nat) (w : Word) (set : Word) (f : FieldSpec) (d : Dev) : Dev :=
  let fl : Field := ⟨off, f.msb, f.lsb⟩
  let v := wordFld fl w
  let hw := wordFld fl set
  if ownRow.contains fl then d
  else match f.acc with
    | .rw => if legalValue f v && legalTogether fl v w d then wr fl v d else d
    | .w1c => wr fl ((rd fl d &&& (2 ^ fl.width - 1 - v)) ||| hw) d
    | .w1s => wr fl (rd fl d ||| v) d
    | _ => d

/-- Some W1C bit of the register was cleared between two states. -/
def clearedCause (off : Nat) (d d' : Dev) : Bool :=
  (fieldsAt off).any fun f => f.acc == .w1c && (rd ⟨off, f.msb, f.lsb⟩ d) != (rd ⟨off, f.msb, f.lsb⟩ d')

/-- What follows a write of particular registers: bit 4 of GLB_INTR_HOST and FLT_CTRL.HOST_INTR are one store (Table 22.2),
and TIME_SRC follows TMP_CTRL.SRC (R649). -/
def afterWrite (off : Nat) (d : Dev) : Dev :=
  if off = 0x48 then wr Reg.FLT_CTRL_HOST_INTR (b2n (bitOf (rd Reg.GLB_INTR_HOST_EN d) 4)) d
  else if off = 0x400000 then
    if rdb Reg.FLT_CTRL_HOST_INTR d then setBit Reg.GLB_INTR_HOST_EN 4 d else clrBit Reg.GLB_INTR_HOST_EN 4 d
  else if off = 0x100000 then showTimeSrc d
  else if off = 0x3004100 then showRel d
  else if off = 0x3004108 then takeRelCfg d
  else d

/-- A write to the MSI-X table: unmasking a vector whose message is pending sends it (R627). The pending bits are the
device's own. -/
def writeMsix (off : Nat) (w : Word) (d : Dev) : Dev :=
  if off = 0x1400 then d
  else
    let d := wrReg off w d
    let v := (off - 0x1000) / 16
    if !rdb (msixCtl v) d && bitOf (rd msixPba d) v then send (.msix v) (clrBit msixPba v d) else d

/-- A write of `size` bytes at an offset (R616–R620, R627, R648, Table 20.4). -/
def regWrite (who : Accessor) (off size : Nat) (w set : Word) (d : Dev) : Dev :=
  let mgmt := who == .management
  if mgmt && d.flt.checkmateIn.isSome then d
  else if !(size = 8 && off % 8 = 0) then accErr Reg.GLB_ACCERR_WIDTH off d
  else if !mapped off || (mgmt && (glbState d == 2 || glbState d == 3) && !servedInRecovery off) then
    accErr Reg.GLB_ACCERR_UNMAPPED off d
  else if asleep off d || noPort off d then d
  else if inMsix off then writeMsix off w d
  else
    let d' := afterWrite off ((fieldsAt off).foldl (fun d f => writeField off w set f d) d)
    let b := off / 0x100000
    if clearedCause off d d' && bitOf (intrLevels d') b && intrHost b d' then msixSend b d' else d'

/-- The management endpoint can be reached: it has power (R648). -/
def endpointUp (d : Dev) : Bool := d.pwr.good && !d.pwr.adj3

/-- REGISTER_WRITE: a write from the management endpoint or the fabric (R616, R618–R620, R648). -/
def execRegisterWrite (mgmt : Bool) (off size : Nat) (v hwSet : BitVec 64) (s : State) : Host.Outcome State Fault Refusal :=
  run (fun d =>
    if mgmt then if endpointUp d then regWrite .management off size v hwSet d else d
    else if d.live then regWrite .fabric off size v hwSet d else d) s

/-- REGISTER_READ_CLEAR: a read that completes returns the value and clears the RC fields it reads whole (R11, R617). -/
def execRegisterReadClear (mgmt : Bool) (off size : Nat) (hwInc : BitVec 64) (s : State) :
    Host.Outcome State Fault Refusal :=
  run (fun d =>
    let reach := if mgmt then endpointUp d else d.live
    if reach then
      let (v, d) := regRead (if mgmt then .management else .fabric) off size hwInc.toNat d
      send (.value v) d
    else d) s

end Sys2Proof.Machine
end

