-- ==== Sys2Proof/Machine/Cache.lean ====
section
/-!
DEFINITION. The cluster L2 (spec/04_data_engines.md, R126–R139): lines and their replacement, accesses, range operations, way
locking and the drain.
-/

namespace Sys2Proof.Machine

/-- The state of an L2: 0 ENABLED, 1 DRAINING, 2 DISABLED (Table 4.7). -/
def l2State (cl : Nat) (d : Dev) : Nat := rd (Reg.CL_STATUS_L2_STATE cl) d

/-- A way is locked (R134). -/
def wayLocked (cl w : Nat) (d : Dev) : Bool := bitOf (rd (Reg.CL_L2_LOCK_MASK cl) d) w

/-- The L1s hold no copy of a line that the L2 evicts or invalidates (the L2 is inclusive). -/
def dropL1 (cl a : Nat) (d : Dev) : Dev :=
  forEach (List.range 8) (fun k d =>
    { d with engines := tmod {} d.engines (8 * cl + k) fun g => { g with l1i := tset [] g.l1i (a / 64 * 64) [] } }) d

/-- Write a line back if dirty, then invalidate it; a locked way's entry is counted (R135). -/
def invalidateLine (cl set way : Nat) (d : Dev) : Dev :=
  let l := getLine cl set way d
  if l.valid then
    let d := dropL1 cl (l2Addr set l.tag) (setLine cl set way {} (writeBack cl set way d))
    if wayLocked cl way d then bump (Reg.CL_L2_CNT_LOCKED_INVAL cl) d else d
  else d

/-- Mark a line as just used. -/
def touchLine (cl set way : Nat) (d : Dev) : Dev :=
  let c := (getL2 cl d).clock
  setLine cl set way { getLine cl set way d with lru := c + 1 } (modL2 cl (fun x => { x with clock := c + 1 }) d)

/-- The unlocked way that replacement takes: an empty one, else the least recently used (R127). -/
def victim (cl set : Nat) (d : Dev) : Option Nat :=
  (those 16 fun w => !wayLocked cl w d).foldl (fun b w =>
    match b with
    | none => some w
    | some b' =>
      let x := getLine cl set w d
      let y := getLine cl set b' d
      if y.valid && (!x.valid || x.lru < y.lru) then some w else b) none

/-- An error pattern met at an address of the pool (R91, R92). The DDR5 channels carry a code of their own (R645). -/
def eccAt (a err : Nat) (d : Dev) : Dev :=
  if inPool a then eccAccess (poolUnit a d) a err d
  else if inDram a then let p := dramPlace a d; ddrBurst p.1 p.2 a 1 err d
  else d

/-- The errors of a read of a range at its target: `err` in its first word, and those stored in the pool (R91, R92). -/
def meetErrors (a n err : Nat) (d : Dev) : Dev := eccRange (a / 8 * 8 + 8) (n - 8) (eccAt a err d)

/-- The words of a range that carry a poison mark, one bit each. -/
def poisonMask (a n : Nat) (d : Dev) : Nat :=
  (those ((a % 8 + n + 7) / 8) fun i => poisoned (a + 8 * i) d).foldl (fun m i => m + 2 ^ i) 0

/-- Fill a line into a way from its target, `err` met at the address. A line that a PRELOAD displaces from its locked way is invalidated by
that range operation and counts in LOCKED_INVAL (R135; DEDUCED, log entry 139). -/
def fillWay (cl way a err : Nat) (d : Dev) : Dev :=
  let set := l2Set a
  let la := a / 64 * 64
  let w := a / 8 * 8
  let d := eccAt a err (eccRange la (w - la) (eccRange (w + 8) (la + 56 - w) (invalidateLine cl set way d)))
  touchLine cl set way (setLine cl set way ⟨true, l2Tag a, false, poisonMask la 64 d, 0, memRead d la 64⟩ d)

/-- Replace bytes at an offset of a line. -/
def patch (data : Bytes) (off : Nat) (b : Bytes) : Bytes := data.take off ++ b ++ data.drop (off + b.length)

/-- The unit whose code an L2's SRAM reports errors under: its cluster's local port (DESIGN CHOICE, log entry 137). -/
def l2Unit (cl : Nat) : Nat := localUnit cl 0

/-- An error in a word that an L2 holds: a detected one leaves a poison mark on the word, an undetected one open data (R91, R92, R139). -/
def lineError (cl way a err : Nat) (d : Dev) : Dev :=
  match eccMeet (l2Unit cl) a err d with
  | (.whole, d) => d
  | (.marked, d) =>
    let l := getLine cl (l2Set a) way d
    setLine cl (l2Set a) way { l with poison := l.poison ||| 2 ^ (a / 8 % 8) } d
  | (.changed, d) =>
    let (b, d) := drawBytes 8 d
    let l := getLine cl (l2Set a) way d
    setLine cl (l2Set a) way { l with data := patch l.data (a / 8 % 8 * 8) b } d

/-- The next-line prefetch of a demand miss, and when it is skipped (R128). -/
def prefetch (cl a : Nat) (d : Dev) : Dev :=
  let n := a / 64 * 64 + 64
  let dirtyAll := (those 16 fun w => !wayLocked cl w d).all fun w => (getLine cl (l2Set n) w d).dirty
  if rdb (Reg.CL_CTRL_PF_EN cl) d && n / 4096 = a / 4096 && (l2Find cl n d).isNone && !dirtyAll then
    match victim cl (l2Set n) d with
    | some w => bump (Reg.CL_L2_CNT_PREFETCHES cl) (fillWay cl w n 0 d)
    | none => d
  else d

/-- The way that serves a hit. -/
def l2Hit (cl w a err : Nat) (d : Dev) : Dev :=
  lineError cl w a err (touchLine cl (l2Set a) w (bump (Reg.CL_L2_HIT_HITS cl) d))

/-- A line for a demand access in ENABLED: the way that holds it after a hit or a fill; none when every way is locked. The error `err` is
met where the access finds its data, in the L2 or at the target. -/
def l2Demand (cl a err : Nat) (d : Dev) : Option Nat × Dev :=
  match l2Find cl a d with
  | some w => (some w, l2Hit cl w a err d)
  | none =>
    let d := bump (Reg.CL_L2_MISS_MISSES cl) d
    match victim cl (l2Set a) d with
    | some w => (some w, prefetch cl a (fillWay cl w a err d))
    | none => (none, d)

/-- Read `n` bytes of the target past every cache: data, poisoned words, state after. -/
def readStraight (a n err : Nat) (d : Dev) : Bytes × Nat × Dev :=
  let d := meetErrors a n err d
  (memRead d a n, poisonMask a n d, d)

/-- Read `n` bytes inside one line through the L2: data, poisoned words, state after (R127, R136, R137). -/
def l2Read (cl a n err : Nat) (d : Dev) : Bytes × Nat × Dev :=
  let fromWay (w : Nat) (d : Dev) :=
    let l := getLine cl (l2Set a) w d
    ((l.data.drop (a % 64)).take n, l.poison / 2 ^ (a / 8 % 8) % 2 ^ ((a % 8 + n + 7) / 8), d)
  match l2State cl d with
  | 0 => match l2Demand cl a err d with
    | (some w, d) => fromWay w d
    | (none, d) => readStraight a n err d
  | 1 => match l2Find cl a d with
    | some w => fromWay w (l2Hit cl w a err d)
    | none => readStraight a n err (bump (Reg.CL_L2_MISS_MISSES cl) d)
  | _ => readStraight a n err d

/-- Store bytes inside one line through the L2: a whole word written carries no poison. In DRAINING a hit goes through to the target and
leaves the line clean; what does not hit is an uncached store (R92, R127, R136, R137). -/
def l2Write (cl a : Nat) (b : Bytes) (d : Dev) : Dev :=
  let set := l2Set a
  let put (w : Nat) (dirty : Bool) (d : Dev) : Dev :=
    let l := getLine cl set w d
    let whole := (those 8 fun i => wholeWord (a % 64) b.length i).foldl (fun m i => m + 2 ^ i) 0
    setLine cl set w { l with data := patch l.data (a % 64) b, dirty := l.dirty || dirty, poison := l.poison &&& (255 - whole) } d
  match l2State cl d with
  | 0 => match l2Demand cl a 0 d with
    | (some w, d) => put w true d
    | (none, d) => storeMem a b d
  | 1 => match l2Find cl a d with
    | some w =>
      let d := put w false (l2Hit cl w a 0 d)
      if (getLine cl set w d).dirty then writeBack cl set w d else storeMem a b d
    | none => storeMem a b (bump (Reg.CL_L2_MISS_MISSES cl) d)
  | _ => storeMem a b d

/-! ### Range operations (R131–R133) -/

/-- Whether the range in CLn_RANGE_BASE and CLn_RANGE_LEN is within the limits of R132 for an operation. -/
def rangeOk (cl op : Nat) (d : Dev) : Bool :=
  let b := rd (Reg.CL_RANGE_BASE_BASE cl) d
  let n := rd (Reg.CL_RANGE_LEN_LEN cl) d
  b % 64 == 0 && n != 0 && n % 64 == 0 && n ≤ 0x400000 && (op != 2 || n ≤ 0x40000)

/-- End a range operation at once without touching a line (R132, R133, R137). -/
def rangeRefused (cl : Nat) (d : Dev) : Dev :=
  wr (Reg.CL_RANGE_OP_RESULT cl) 2 (clr (Reg.CL_RANGE_OP_GO cl) (setb (Reg.CL_STATUS_RANGE_DONE cl) d))

/-- The lines of the range, as addresses. -/
def rangeLines (cl : Nat) (d : Dev) : List Nat :=
  (List.range (rd (Reg.CL_RANGE_LEN_LEN cl) d / 64)).map fun i => rd (Reg.CL_RANGE_BASE_BASE cl) d + 64 * i

/-- Start a range operation: ignored and counted while one runs; refused outside the limits or outside ENABLED; else its
lines are processed and RANGE_BUSY stands until RANGE_OP_DONE (R131, R132, R137). -/
def startRange (cl op : Nat) (allowed : Bool) (f : Nat → Dev → Dev) (d : Dev) : Dev :=
  if rdb (Reg.CL_STATUS_RANGE_BUSY cl) d then bump (Reg.CL_RANGE_OP_IGNORED cl) d
  else
    let d := setb (Reg.CL_RANGE_OP_GO cl) (wr (Reg.CL_RANGE_OP_OP cl) op d)
    if !rangeOk cl op d || !allowed || l2State cl d != 0 then rangeRefused cl d
    else setb (Reg.CL_STATUS_RANGE_BUSY cl) ((rangeLines cl d).foldl (fun d a => f a d) d)

/-- RANGE_WRITEBACK: dirty lines of the range are written back and kept (R131). -/
def execRangeWriteback (cl : Fin 8) (s : State) : Host.Outcome State Fault Refusal :=
  runLive (startRange cl 0 true fun a d =>
    match l2Find cl a d with
    | some w => writeBack cl (l2Set a) w d
    | none => d) s

/-- RANGE_INVALIDATE: lines of the range are written back if dirty and invalidated (R131, R135). -/
def execRangeInvalidate (cl : Fin 8) (s : State) : Host.Outcome State Fault Refusal :=
  runLive (startRange cl 1 true fun a d =>
    match l2Find cl a d with
    | some w => invalidateLine cl (l2Set a) w d
    | none => d) s

/-- RANGE_PRELOAD: each line of the range is filled into the named way, which must be locked (R133). -/
def execRangePreload (cl : Fin 8) (way : Fin 16) (s : State) : Host.Outcome State Fault Refusal :=
  runLive (fun d =>
    let d := if rdb (Reg.CL_STATUS_RANGE_BUSY cl) d then d else wr (Reg.CL_RANGE_OP_WAY cl) way d
    startRange cl 2 (wayLocked cl way d) (fun a d =>
      match l2Find cl a d with
      | some w => if w = way.val then d else fillWay cl way a 0 (invalidateLine cl (l2Set a) w d)
      | none => fillWay cl way a 0 d) d) s

/-- Start draining: dirty lines begin to go back (R136). -/
def beginDrain (cl : Nat) (d : Dev) : Dev := wr (Reg.CL_STATUS_L2_STATE cl) 1 (modL2 cl (fun c => { c with drainWaits := false }) d)

/-- RANGE_OP_DONE: the operation ends with RESULT OK and RANGE_DONE; a drain that waited for it starts (R131, R136). -/
def execRangeOpDone (cl : Fin 8) (s : State) : Host.Outcome State Fault Refusal :=
  runLive (fun d =>
    if rdb (Reg.CL_STATUS_RANGE_BUSY cl) d then
      let d := wr (Reg.CL_RANGE_OP_RESULT cl) 1 (clr (Reg.CL_RANGE_OP_GO cl) (clr (Reg.CL_STATUS_RANGE_BUSY cl) d))
      let d := setb (Reg.CL_STATUS_RANGE_DONE cl) d
      if (getL2 cl d).drainWaits then beginDrain cl d else d
    else d) s

/-- L2_LOCK_WRITE: at most 12 ways may be locked; a write of more leaves MASK (R134). -/
def execL2LockWrite (cl : Fin 8) (mask : BitVec 16) (s : State) : Host.Outcome State Fault Refusal :=
  runLive (fun d => if popCount 16 mask.toNat ≤ 12 then wr (Reg.CL_L2_LOCK_MASK cl) mask.toNat d else d) s

/-- L2_DRAIN_START: writing L2_EN 0 starts a drain, after a running range operation (R136). -/
def execL2DrainStart (cl : Fin 8) (s : State) : Host.Outcome State Fault Refusal :=
  runLive (fun d =>
    let d := clr (Reg.CL_CTRL_L2_EN cl) d
    if l2State cl d = 0 then
      if rdb (Reg.CL_STATUS_RANGE_BUSY cl) d then modL2 cl (fun c => { c with drainWaits := true }) d
      else beginDrain cl d
    else if l2State cl d = 1 then modL2 cl (fun c => { c with reenable := false }) d
    else d) s

/-- L2_DRAIN_DONE: the last dirty line is written back, every line is invalidated, DRAIN_DONE is set, and the L2 is DISABLED,
or ENABLED again when L2_EN was written to 1 meanwhile (R136, R138). A line is written back with the poison marks of the errors `errs` that
its words meet, by address (R139). -/
def execL2DrainDone (cl : Fin 8) (errs : List (Nat × BitVec 76)) (s : State) : Host.Outcome State Fault Refusal :=
  runLive (fun d =>
    if l2State cl d = 1 then
      let again := (getL2 cl d).reenable
      let d := errs.foldl (fun d p => match l2Find cl p.1 d with
        | some w => lineError cl w p.1 p.2.toNat d
        | none => d) d
      let d := (getL2 cl d).lines.foldl (fun d p => dropL1 cl (l2Addr (p.1 / 16) p.2.tag) (writeBack cl (p.1 / 16) (p.1 % 16) d)) d
      let d := modL2 cl (fun c => { c with lines := [], reenable := false }) d
      wr (Reg.CL_STATUS_L2_STATE cl) (if again then 0 else 2) (setb (Reg.CL_STATUS_DRAIN_DONE cl) d)
    else d) s

/-- L2_ENABLE: writing L2_EN 1 returns the L2 to ENABLED with every way empty; during a drain, once it has completed
(R138). -/
def execL2Enable (cl : Fin 8) (s : State) : Host.Outcome State Fault Refusal :=
  runLive (fun d =>
    let d := setb (Reg.CL_CTRL_L2_EN cl) d
    match l2State cl d with
    | 2 => wr (Reg.CL_STATUS_L2_STATE cl) 0 (modL2 cl (fun c => { c with lines := [] }) d)
    | 1 => modL2 cl (fun c => { c with reenable := true }) d
    | _ => modL2 cl (fun c => { c with drainWaits := false }) d) s

end Sys2Proof.Machine
end

