-- ==== Sys2Proof/Machine/Rv64.lean ====
section
/-!
DEFINITION. The standard instructions of the engines and the King units: RV64IMAC with Zicsr, Zifencei, Zba, Zbb, Zbc and Zbs as
RISC-V International ratified them (spec/04_data_engines.md, R96–R98). The spec names the architecture and does not restate it:
every encoding and effect here is PRESUMED from it (notes/assumptions/20.md).
-/

namespace Sys2Proof.Machine

/-! ### Registers, modes and traps -/

/-- Register `n`; x0 reads as zero. -/
def Core.get (c : Core) (n : Nat) : Word := if n = 0 then 0 else tget 0 c.x n

/-- Write register `n`; writes of x0 are discarded. -/
def Core.set (c : Core) (n : Nat) (v : Word) : Core := if n = 0 then c else { c with x := tset 0 c.x n v }

/-- A control and status register as stored. -/
def Core.csr (c : Core) (n : Nat) : Nat := (tget 0 c.csrs n).toNat
def Core.setCsr (c : Core) (n v : Nat) : Core := { c with csrs := tset 0 c.csrs n (BitVec.ofNat 64 v) }

/-- Replace the bits of a number that a mask selects. -/
def setBits (old mask new : Nat) : Nat := (old &&& (2 ^ 64 - 1 - mask)) ||| (new &&& mask)

/-- Take an exception: mepc, mcause and mtval, the interrupt enable and the mode stacked in mstatus, machine mode, and the pc
at the trap vector's base, or for an interrupt in vectored mode (mtvec.MODE 1) four times its cause beyond it. -/
def Core.trap (c : Core) (cause tval : Nat) : Core :=
  let ms := c.csr 0x300
  let ms := setBits ms 0x1888 ((if bitOf ms 3 then 0x80 else 0) + (if c.user then 0 else 0x1800))
  let c := (((c.setCsr 0x341 c.pc).setCsr 0x342 cause).setCsr 0x343 tval).setCsr 0x300 ms
  let base := c.csr 0x305 / 4 * 4
  let pc := if c.csr 0x305 % 4 = 1 && 2 ^ 63 ≤ cause then (base + 4 * (cause % 2 ^ 63)) % 2 ^ 64 else base
  { c with user := false, pc := pc, resv := none }

/-- Return from a trap (MRET). -/
def Core.mret (c : Core) : Core :=
  let ms := c.csr 0x300
  let toUser := ms / 0x800 % 4 = 0
  let ms' := setBits ms 0x1888 (0x80 + (if bitOf ms 7 then 8 else 0))
  let ms' := if toUser then setBits ms' 0x20000 0 else ms'
  { c.setCsr 0x300 ms' with pc := c.csr 0x341, user := toUser }

/-! ### Control and status registers -/

/-- The registers an identity constant answers for. -/
def csrIdent (n : Nat) : Bool := [0x301, 0xF11, 0xF12, 0xF13, 0xF14, 0xF15].contains n

/-- The registers implemented: machine mode and user mode without supervisor mode (R97), and qxperm (R102). -/
def csrExists (n : Nat) : Bool :=
  csrIdent n || [0x300, 0x304, 0x305, 0x306, 0x30A, 0x320, 0x340, 0x341, 0x342, 0x343, 0x344, 0x3A0, 0x3A2, 0x7C0,
    0xB00, 0xB02].contains n
  || (0x323 ≤ n && n < 0x340) || (0x3B0 ≤ n && n < 0x3C0) || (0xB03 ≤ n && n < 0xB20)

/-- What a register reads as. `fresh` is an open value: the cycle and instruction counters are not modelled. -/
def csrRead (hart : Nat) (fresh : Word) (c : Core) (n : Nat) : Word :=
  if csrIdent n then Config.csrId hart n
  else if n = 0xB00 || n = 0xB02 then fresh
  else if n = 0x300 then BitVec.ofNat 64 (c.csr 0x300 + 2 * 2 ^ 32)
  else BitVec.ofNat 64 (c.csr n)

/-- A PMP configuration byte a write leaves alone because its entry is locked. -/
def pmpMerge : Nat → Nat → Nat → Nat
  | 0, _, _ => 0
  | k + 1, old, new =>
    let b := if bitOf old 7 then old % 256 else new % 256 &&& 0x9F
    b + 256 * pmpMerge k (old / 256) (new / 256)

/-- The value a register takes for a value written to it. -/
def csrLegal (c : Core) (n v : Nat) : Nat :=
  let old := c.csr n
  if n = 0x300 then
    let v' := setBits 0 0x220088 v
    let mpp := v / 0x800 % 4
    v' + (if mpp = 0 || mpp = 3 then mpp * 0x800 else old / 0x800 % 4 * 0x800)
  else if n = 0x304 then setBits 0 0x888 v
  else if n = 0x305 then if v % 4 < 2 then v else v / 4 * 4
  else if n = 0x341 then v / 2 * 2
  else if n = 0x306 || n = 0x320 then v % 2 ^ 32
  else if n = 0x30A then v % 2
  else if n = 0x344 then old
  else if n = 0x3A0 || n = 0x3A2 then pmpMerge 8 old v
  else if 0x3B0 ≤ n && n < 0x3C0 then
    let i := n - 0x3B0
    let cfg (i : Nat) := c.csr (if i < 8 then 0x3A0 else 0x3A2) / 2 ^ (8 * (i % 8)) % 256
    if bitOf (cfg i) 7 || (i < 15 && bitOf (cfg (i + 1)) 7 && cfg (i + 1) / 8 % 4 = 1) then old else v % 2 ^ 54
  else if n = 0x7C0 then v % 256
  else if (0x323 ≤ n && n < 0x340) || (0xB03 ≤ n && n < 0xB20) then 0
  else v

/-! ### Physical memory protection (R97) -/

/-- The number of trailing ones of a number, at most `n`. -/
def trailingOnes : Nat → Nat → Nat
  | 0, _ => 0
  | n + 1, v => if v % 2 = 1 then trailingOnes n (v / 2) + 1 else 0

/-- The byte range of PMP entry `i`: first address and the address past it; nothing when it is off. -/
def pmpRange (c : Core) (i : Nat) : Option (Nat × Nat) :=
  let cfg := c.csr (if i < 8 then 0x3A0 else 0x3A2) / 2 ^ (8 * (i % 8)) % 256
  let a := c.csr (0x3B0 + i)
  match cfg / 8 % 4 with
  | 1 => some (if i = 0 then 0 else c.csr (0x3B0 + i - 1) * 4, a * 4)
  | 2 => some (a * 4, a * 4 + 4)
  | 3 => let k := trailingOnes 54 a; some (a / 2 ^ (k + 1) * 2 ^ (k + 1) * 4, (a / 2 ^ (k + 1) + 1) * 2 ^ (k + 1) * 4)
  | _ => none

/-- An access of `n` bytes is allowed: kind 0 read, 1 write, 2 execute. -/
def pmpAllows (c : Core) (user : Bool) (kind a n : Nat) : Bool :=
  match (List.range 16).find? (fun i => match pmpRange c i with
    | some (lo, hi) => decide (lo < hi) && decide (a < hi) && decide (lo < a + n)
    | none => false) with
  | none => !user
  | some i =>
    let cfg := c.csr (if i < 8 then 0x3A0 else 0x3A2) / 2 ^ (8 * (i % 8)) % 256
    match pmpRange c i with
    | some (lo, hi) => decide (lo ≤ a) && decide (a + n ≤ hi) && ((!user && !bitOf cfg 7) || bitOf cfg kind)
    | none => false

/-- The privilege a data access runs with: mstatus.MPRV lends machine mode the stacked one. -/
def Core.dataUser (c : Core) : Bool :=
  c.user || (bitOf (c.csr 0x300) 17 && c.csr 0x300 / 0x800 % 4 == 0)

/-! ### Arithmetic -/

/-- A 32-bit value sign-extended to 64 bits. -/
def sext32 (w : Word) : Word := (w.setWidth 32).signExtend 64

/-- A value of `n` bits sign-extended. -/
def sextN (n v : Nat) : Word := BitVec.ofInt 64 (signedOf n v)

/-- Signed and unsigned division and remainder with RISC-V's corners. -/
def divS (a b : Word) : Word := if b = 0 then BitVec.allOnes 64 else BitVec.ofInt 64 (a.toInt.tdiv b.toInt)
def divU (a b : Word) : Word := if b = 0 then BitVec.allOnes 64 else a / b
def remS (a b : Word) : Word := if b = 0 then a else BitVec.ofInt 64 (a.toInt.tmod b.toInt)
def remU (a b : Word) : Word := if b = 0 then a else a % b

/-- The same on the low 32 bits. -/
def divSW (a b : Word) : Word :=
  let x := (a.setWidth 32).toInt
  let y := (b.setWidth 32).toInt
  if y = 0 then BitVec.allOnes 64 else sext32 (BitVec.ofInt 64 (x.tdiv y))
def divUW (a b : Word) : Word :=
  let y := b.toNat % 2 ^ 32
  if y = 0 then BitVec.allOnes 64 else sext32 (BitVec.ofNat 64 (a.toNat % 2 ^ 32 / y))
def remSW (a b : Word) : Word :=
  let x := (a.setWidth 32).toInt
  let y := (b.setWidth 32).toInt
  if y = 0 then sext32 a else sext32 (BitVec.ofInt 64 (x.tmod y))
def remUW (a b : Word) : Word :=
  let y := b.toNat % 2 ^ 32
  if y = 0 then sext32 a else sext32 (BitVec.ofNat 64 (a.toNat % 2 ^ 32 % y))

/-- Bits `hi` of the exact product. -/
def mulHi (x y : Int) : Word := BitVec.ofInt 64 (x * y / ((2 ^ 64 : Nat) : Int))

/-- The carry-less product of two words, up to 127 bits. -/
def clmulNat (a b : Nat) : Nat := (List.range 64).foldl (fun v i => if bitOf b i then v ^^^ (a * 2 ^ i) else v) 0

/-- Leading zeros of the low `n` bits. -/
def clz : Nat → Nat → Nat
  | 0, _ => 0
  | n + 1, v => if bitOf v n then 0 else clz n v + 1

/-- Trailing zeros of the low `n` bits. -/
def ctz : Nat → Nat → Nat
  | 0, _ => 0
  | n + 1, v => if v % 2 = 1 then 0 else ctz n (v / 2) + 1

/-- Rotate right. -/
def ror64 (a : Word) (n : Nat) : Word := a.rotateRight (n % 64)
def ror32 (a : Word) (n : Nat) : Word := ((a.setWidth 32).rotateRight (n % 32)).signExtend 64

/-- Bytes reversed; bytes that are not zero made all ones. -/
def rev8 (a : Word) : Word := BitVec.ofNat 64 (leNat (leBytes 8 a.toNat).reverse)
def orcB (a : Word) : Word :=
  BitVec.ofNat 64 (leNat ((leBytes 8 a.toNat).map fun b => if b = 0 then 0 else 0xFF#8))

/-- Register-register operations of opcode 0x33 by funct7 and funct3; nothing where the extensions list none. -/
def aluOp (f7 f3 : Nat) (a b : Word) : Option Word :=
  let sh := b.toNat % 64
  match f7, f3 with
  | 0x00, 0 => some (a + b)
  | 0x20, 0 => some (a - b)
  | 0x00, 1 => some (a <<< sh)
  | 0x00, 2 => some (if a.toInt < b.toInt then 1 else 0)
  | 0x00, 3 => some (if a.toNat < b.toNat then 1 else 0)
  | 0x00, 4 => some (a ^^^ b)
  | 0x00, 5 => some (a >>> sh)
  | 0x20, 5 => some (a.sshiftRight sh)
  | 0x00, 6 => some (a ||| b)
  | 0x00, 7 => some (a &&& b)
  | 0x01, 0 => some (a * b)
  | 0x01, 1 => some (mulHi a.toInt b.toInt)
  | 0x01, 2 => some (mulHi a.toInt b.toNat)
  | 0x01, 3 => some (mulHi a.toNat b.toNat)
  | 0x01, 4 => some (divS a b)
  | 0x01, 5 => some (divU a b)
  | 0x01, 6 => some (remS a b)
  | 0x01, 7 => some (remU a b)
  | 0x10, 2 => some (b + (a <<< 1))
  | 0x10, 4 => some (b + (a <<< 2))
  | 0x10, 6 => some (b + (a <<< 3))
  | 0x20, 7 => some (a &&& ~~~b)
  | 0x20, 6 => some (a ||| ~~~b)
  | 0x20, 4 => some (~~~(a ^^^ b))
  | 0x05, 4 => some (if a.toInt < b.toInt then a else b)
  | 0x05, 5 => some (if a.toNat < b.toNat then a else b)
  | 0x05, 6 => some (if a.toInt < b.toInt then b else a)
  | 0x05, 7 => some (if a.toNat < b.toNat then b else a)
  | 0x30, 1 => some (a.rotateLeft sh)
  | 0x30, 5 => some (ror64 a sh)
  | 0x05, 1 => some (BitVec.ofNat 64 (clmulNat a.toNat b.toNat))
  | 0x05, 2 => some (BitVec.ofNat 64 (clmulNat a.toNat b.toNat / 2 ^ 63))
  | 0x05, 3 => some (BitVec.ofNat 64 (clmulNat a.toNat b.toNat / 2 ^ 64))
  | 0x24, 1 => some (a &&& ~~~(1#64 <<< sh))
  | 0x24, 5 => some ((a >>> sh) &&& 1)
  | 0x34, 1 => some (a ^^^ (1#64 <<< sh))
  | 0x14, 1 => some (a ||| (1#64 <<< sh))
  | _, _ => none

/-- Word operations of opcode 0x3B. `rs2` is the register number, which ZEXT.H fixes at 0. -/
def aluOpW (f7 f3 rs2 : Nat) (a b : Word) : Option Word :=
  let sh := b.toNat % 32
  let uw := BitVec.ofNat 64 (a.toNat % 2 ^ 32)
  match f7, f3 with
  | 0x00, 0 => some (sext32 (a + b))
  | 0x20, 0 => some (sext32 (a - b))
  | 0x00, 1 => some (sext32 (a <<< sh))
  | 0x00, 5 => some (sext32 (uw >>> sh))
  | 0x20, 5 => some (((a.setWidth 32).sshiftRight sh).signExtend 64)
  | 0x01, 0 => some (sext32 (a * b))
  | 0x01, 4 => some (divSW a b)
  | 0x01, 5 => some (divUW a b)
  | 0x01, 6 => some (remSW a b)
  | 0x01, 7 => some (remUW a b)
  | 0x04, 0 => some (b + uw)
  | 0x04, 4 => if rs2 = 0 then some (BitVec.ofNat 64 (a.toNat % 2 ^ 16)) else none
  | 0x10, 2 => some (b + (uw <<< 1))
  | 0x10, 4 => some (b + (uw <<< 2))
  | 0x10, 6 => some (b + (uw <<< 3))
  | 0x30, 1 => some (((a.setWidth 32).rotateLeft sh).signExtend 64)
  | 0x30, 5 => some (ror32 a sh)
  | _, _ => none

/-- Register-immediate operations of opcode 0x13; `imm` is the 12-bit field. -/
def aluImm (f3 imm : Nat) (a : Word) : Option Word :=
  let s := sextN 12 imm
  let sh := imm % 64
  match f3 with
  | 0 => some (a + s)
  | 2 => some (if a.toInt < s.toInt then 1 else 0)
  | 3 => some (if a.toNat < s.toNat then 1 else 0)
  | 4 => some (a ^^^ s)
  | 6 => some (a ||| s)
  | 7 => some (a &&& s)
  | 1 =>
    match imm / 64 with
    | 0x00 => some (a <<< sh)
    | 0x12 => some (a &&& ~~~(1#64 <<< sh))
    | 0x1A => some (a ^^^ (1#64 <<< sh))
    | 0x0A => some (a ||| (1#64 <<< sh))
    | 0x18 =>
      match sh with
      | 0 => some (BitVec.ofNat 64 (clz 64 a.toNat))
      | 1 => some (BitVec.ofNat 64 (ctz 64 a.toNat))
      | 2 => some (BitVec.ofNat 64 (popCount 64 a.toNat))
      | 4 => some (sextN 8 a.toNat)
      | 5 => some (sextN 16 a.toNat)
      | _ => none
    | _ => none
  | _ =>
    match imm / 64 with
    | 0x00 => some (a >>> sh)
    | 0x10 => some (a.sshiftRight sh)
    | 0x12 => some ((a >>> sh) &&& 1)
    | 0x18 => some (ror64 a sh)
    | _ => if imm = 0x6B8 then some (rev8 a) else if imm = 0x287 then some (orcB a) else none

/-- Register-immediate word operations of opcode 0x1B. -/
def aluImmW (f3 imm : Nat) (a : Word) : Option Word :=
  let sh := imm % 32
  let uw := BitVec.ofNat 64 (a.toNat % 2 ^ 32)
  match f3 with
  | 0 => some (sext32 (a + sextN 12 imm))
  | 1 =>
    if imm / 32 = 0 then some (sext32 (a <<< sh))
    else if imm / 64 = 2 then some (uw <<< (imm % 64))
    else if imm = 0x600 then some (BitVec.ofNat 64 (clz 32 a.toNat))
    else if imm = 0x601 then some (BitVec.ofNat 64 (ctz 32 a.toNat))
    else if imm = 0x602 then some (BitVec.ofNat 64 (popCount 32 a.toNat))
    else none
  | 5 =>
    if imm / 32 = 0 then some (sext32 (uw >>> sh))
    else if imm / 32 = 0x20 then some (((a.setWidth 32).sshiftRight sh).signExtend 64)
    else if imm / 32 = 0x30 then some (ror32 a sh)
    else none
  | _ => none

/-- A conditional branch's test by funct3. -/
def branchTaken (f3 : Nat) (a b : Word) : Option Bool :=
  match f3 with
  | 0 => some (a == b)
  | 1 => some (a != b)
  | 4 => some (decide (a.toInt < b.toInt))
  | 5 => some (decide (b.toInt ≤ a.toInt))
  | 6 => some (decide (a.toNat < b.toNat))
  | 7 => some (decide (b.toNat ≤ a.toNat))
  | _ => none

/-! ### Compressed encodings: each expands to a 32-bit one -/

/-- The 32-bit formats. -/
def encR (f7 rs2 rs1 f3 rd op : Nat) : Nat :=
  f7 * 2 ^ 25 + rs2 * 2 ^ 20 + rs1 * 2 ^ 15 + f3 * 2 ^ 12 + rd * 2 ^ 7 + op
def encI (imm rs1 f3 rd op : Nat) : Nat := imm % 4096 * 2 ^ 20 + rs1 * 2 ^ 15 + f3 * 2 ^ 12 + rd * 2 ^ 7 + op
def encS (imm rs2 rs1 f3 op : Nat) : Nat :=
  imm / 32 % 128 * 2 ^ 25 + rs2 * 2 ^ 20 + rs1 * 2 ^ 15 + f3 * 2 ^ 12 + imm % 32 * 2 ^ 7 + op
def encB (imm rs2 rs1 f3 : Nat) : Nat :=
  imm / 4096 % 2 * 2 ^ 31 + imm / 32 % 64 * 2 ^ 25 + rs2 * 2 ^ 20 + rs1 * 2 ^ 15 + f3 * 2 ^ 12
    + imm / 2 % 16 * 2 ^ 8 + imm / 2048 % 2 * 2 ^ 7 + 0x63
def encJ (imm rd : Nat) : Nat :=
  imm / 2 ^ 20 % 2 * 2 ^ 31 + imm / 2 % 1024 * 2 ^ 21 + imm / 2048 % 2 * 2 ^ 20 + imm / 4096 % 256 * 2 ^ 12 + rd * 2 ^ 7 + 0x6F

/-- Bits `hi` down to `lo` of a number. -/
def bits (v hi lo : Nat) : Nat := v / 2 ^ lo % 2 ^ (hi + 1 - lo)

/-- The 32-bit instruction that a 16-bit one stands for; nothing for a reserved one and for those of extensions that are not
implemented (the floating-point loads and stores). -/
def rvcExpand (h : Nat) : Option Nat :=
  let rd := bits h 11 7
  let rs2 := bits h 6 2
  let rd' := 8 + bits h 4 2
  let rs1' := 8 + bits h 9 7
  let imm6 := twosOf 12 (signedOf 6 (bits h 12 12 * 32 + bits h 6 2))
  let uimm6 := bits h 12 12 * 32 + bits h 6 2
  let lwImm := bits h 5 5 * 64 + bits h 12 10 * 8 + bits h 6 6 * 4
  let ldImm := bits h 6 5 * 64 + bits h 12 10 * 8
  match h % 4, bits h 15 13 with
  | 0, 0 =>
    let imm := bits h 10 7 * 64 + bits h 12 11 * 16 + bits h 5 5 * 8 + bits h 6 6 * 4
    if imm = 0 then none else some (encI imm 2 0 rd' 0x13)
  | 0, 2 => some (encI lwImm rs1' 2 rd' 0x03)
  | 0, 3 => some (encI ldImm rs1' 3 rd' 0x03)
  | 0, 6 => some (encS lwImm rd' rs1' 2 0x23)
  | 0, 7 => some (encS ldImm rd' rs1' 3 0x23)
  | 1, 0 => some (encI imm6 rd 0 rd 0x13)
  | 1, 1 => if rd = 0 then none else some (encI imm6 rd 0 rd 0x1B)
  | 1, 2 => some (encI imm6 0 0 rd 0x13)
  | 1, 3 =>
    if rd = 2 then
      let imm := bits h 12 12 * 512 + bits h 4 3 * 128 + bits h 5 5 * 64 + bits h 2 2 * 32 + bits h 6 6 * 16
      if imm = 0 then none else some (encI (twosOf 12 (signedOf 10 imm)) 2 0 2 0x13)
    else if uimm6 = 0 then none
    else some (twosOf 20 (signedOf 6 uimm6) * 2 ^ 12 + rd * 2 ^ 7 + 0x37)
  | 1, 4 =>
    match bits h 11 10 with
    | 0 => some (encI uimm6 rs1' 5 rs1' 0x13)
    | 1 => some (encI (0x400 + uimm6) rs1' 5 rs1' 0x13)
    | 2 => some (encI imm6 rs1' 7 rs1' 0x13)
    | _ =>
      match bits h 12 12, bits h 6 5 with
      | 0, 0 => some (encR 0x20 rd' rs1' 0 rs1' 0x33)
      | 0, 1 => some (encR 0 rd' rs1' 4 rs1' 0x33)
      | 0, 2 => some (encR 0 rd' rs1' 6 rs1' 0x33)
      | 0, 3 => some (encR 0 rd' rs1' 7 rs1' 0x33)
      | 1, 0 => some (encR 0x20 rd' rs1' 0 rs1' 0x3B)
      | 1, 1 => some (encR 0 rd' rs1' 0 rs1' 0x3B)
      | _, _ => none
  | 1, 5 =>
    let imm := bits h 12 12 * 2048 + bits h 8 8 * 1024 + bits h 10 9 * 256 + bits h 6 6 * 128 + bits h 7 7 * 64
      + bits h 2 2 * 32 + bits h 11 11 * 16 + bits h 5 3 * 2
    some (encJ (twosOf 21 (signedOf 12 imm)) 0)
  | 1, 6 | 1, 7 =>
    let imm := bits h 12 12 * 256 + bits h 6 5 * 64 + bits h 2 2 * 32 + bits h 11 10 * 8 + bits h 4 3 * 2
    some (encB (twosOf 13 (signedOf 9 imm)) 0 rs1' (bits h 15 13 - 6))
  | 2, 0 => some (encI uimm6 rd 1 rd 0x13)
  | 2, 2 => if rd = 0 then none else some (encI (bits h 3 2 * 64 + bits h 12 12 * 32 + bits h 6 4 * 4) 2 2 rd 0x03)
  | 2, 3 => if rd = 0 then none else some (encI (bits h 4 2 * 64 + bits h 12 12 * 32 + bits h 6 5 * 8) 2 3 rd 0x03)
  | 2, 4 =>
    if bits h 12 12 = 0 then
      if rs2 = 0 then (if rd = 0 then none else some (encI 0 rd 0 0 0x67)) else some (encR 0 rs2 0 0 rd 0x33)
    else if rs2 = 0 then (if rd = 0 then some 0x00100073 else some (encI 0 rd 0 1 0x67))
    else some (encR 0 rs2 rd 0 rd 0x33)
  | 2, 6 => some (encS (bits h 8 7 * 64 + bits h 12 9 * 4) rs2 2 2 0x23)
  | 2, 7 => some (encS (bits h 9 7 * 64 + bits h 12 10 * 8) rs2 2 3 0x23)
  | _, _ => none

/-! ### Execution -/

/-- What an instruction asks of the core's memory path, or the state it leaves. -/
inductive RvOut
  | next (c : Core)
  | trap (cause tval : Nat)
  | load (rd size : Nat) (signed : Bool) (addr : Nat)
  | store (size addr : Nat) (v : Word)
  /-- LR, SC and the AMOs: funct5. -/
  | amo (op rd size addr : Nat) (v : Word)
  | fenceI
  /-- an instruction of the custom-0 opcode (R101). -/
  | xqsto
  deriving DecidableEq, Repr

/-- mtval of an illegal instruction and of a breakpoint. -/
def illegalTval (insn : Nat) : Nat := if Config.mtvalHoldsInsn then insn else 0

/-- Write a result and go on behind an instruction of `len` bytes. -/
def Core.retire (c : Core) (len rd : Nat) (v : Word) : Core := { c.set rd v with pc := (c.pc + len) % 2 ^ 64 }

/-- Jump, with the address behind the instruction in a link register. -/
def Core.jump (c : Core) (len rd target : Nat) : Core := { c.set rd (BitVec.ofNat 64 (c.pc + len)) with pc := target % 2 ^ 64 }

/-- The effect of a CSR instruction: funct3, register or immediate number, CSR, destination. -/
def csrInsn (hart : Nat) (fresh : Word) (c : Core) (len insn f3 rs1 n rd : Nat) : RvOut :=
  let src := if f3 ≥ 4 then BitVec.ofNat 64 rs1 else c.get rs1
  let writes := f3 % 4 = 1 || rs1 != 0
  if !csrExists n || (c.user && n / 0x100 % 4 != 0) || (writes && n / 0x400 = 3) then .trap 2 (illegalTval insn)
  else
    let old := csrRead hart fresh c n
    let new := match f3 % 4 with
      | 1 => src
      | 2 => old ||| src
      | _ => old &&& ~~~src
    let c' := if writes && !csrIdent n then c.setCsr n (csrLegal c n new.toNat) else c
    .next (c'.retire len rd old)

/-- One 32-bit instruction (an expanded one with `len` 2): `insn` is the encoding as fetched, for mtval. -/
def rvExec (hart : Nat) (fresh : Word) (c : Core) (len insn w : Nat) : RvOut :=
  let rd := bits w 11 7
  let rs1 := bits w 19 15
  let rs2 := bits w 24 20
  let f3 := bits w 14 12
  let f7 := bits w 31 25
  let iImm := bits w 31 20
  let a := c.get rs1
  let b := c.get rs2
  let ill := RvOut.trap 2 (illegalTval insn)
  let res (r : Option Word) := match r with
    | some v => RvOut.next (c.retire len rd v)
    | none => ill
  match w % 128 with
  | 0x37 => .next (c.retire len rd (sextN 32 (w / 4096 * 4096)))
  | 0x17 => .next (c.retire len rd (BitVec.ofNat 64 c.pc + sextN 32 (w / 4096 * 4096)))
  | 0x6F =>
    let imm := bits w 31 31 * 2 ^ 20 + bits w 19 12 * 2 ^ 12 + bits w 20 20 * 2 ^ 11 + bits w 30 21 * 2
    .next (c.jump len rd (BitVec.ofNat 64 c.pc + sextN 21 imm).toNat)
  | 0x67 => if f3 = 0 then .next (c.jump len rd ((a + sextN 12 iImm).toNat / 2 * 2)) else ill
  | 0x63 =>
    let imm := bits w 31 31 * 4096 + bits w 7 7 * 2048 + bits w 30 25 * 32 + bits w 11 8 * 2
    match branchTaken f3 a b with
    | none => ill
    | some true => .next { c with pc := (BitVec.ofNat 64 c.pc + sextN 13 imm).toNat }
    | some false => .next { c with pc := (c.pc + len) % 2 ^ 64 }
  | 0x03 => if f3 = 7 then ill else .load rd (2 ^ (f3 % 4)) (f3 < 4) (a + sextN 12 iImm).toNat
  | 0x23 => if f3 > 3 then ill else .store (2 ^ f3) (a + sextN 12 (bits w 31 25 * 32 + bits w 11 7)).toNat b
  | 0x13 => res (aluImm f3 iImm a)
  | 0x1B => res (aluImmW f3 iImm a)
  | 0x33 => res (aluOp f7 f3 a b)
  | 0x3B => res (aluOpW f7 f3 rs2 a b)
  | 0x2F =>
    let op := f7 / 4
    if (f3 = 2 || f3 = 3) && ([0, 1, 3, 4, 8, 12, 16, 20, 24, 28].contains op || (op = 2 && rs2 = 0)) then
      .amo op rd (2 ^ f3) a.toNat b
    else ill
  | 0x0F => if f3 = 0 then .next { c with pc := (c.pc + len) % 2 ^ 64 } else if f3 = 1 then .fenceI else ill
  | 0x0B => .xqsto
  | 0x73 =>
    if f3 = 0 then
      if w = 0x00000073 then .trap (if c.user then 8 else 11) 0
      else if w = 0x00100073 then .trap 3 (if Config.mtvalHoldsBreak then c.pc else 0)
      else if w = 0x30200073 then (if c.user then ill else .next c.mret)
      else if w = 0x10500073 then
        (if c.user && bitOf (c.csr 0x300) 21 then ill else .next { c with pc := (c.pc + len) % 2 ^ 64 })
      else ill
    else if f3 = 4 then ill
    else csrInsn hart fresh c len insn f3 rs1 iImm rd
  | _ => ill

/-- The value an AMO stores, by funct5. -/
def amoValue (op size : Nat) (old v : Word) : Word :=
  let s (x : Word) : Int := if size = 4 then signedOf 32 x.toNat else x.toInt
  let u (x : Word) : Nat := if size = 4 then x.toNat % 2 ^ 32 else x.toNat
  match op with
  | 0 => old + v
  | 1 => v
  | 4 => old ^^^ v
  | 8 => old ||| v
  | 12 => old &&& v
  | 16 => if s old < s v then old else v
  | 20 => if s old < s v then v else old
  | 24 => if u old < u v then old else v
  | 28 => if u old < u v then v else old
  | _ => v

end Sys2Proof.Machine
end

