-- ==== Sys2Proof/Machine/Engine.lean ====
section
/-!
DEFINITION. The data engines and the King pair (spec/04_data_engines.md, R96–R125): the address map, loads and stores, the
Xqsto instructions, slices, and the King pair's comparator.
-/

namespace Sys2Proof.Machine

/-! ### Cores: 0–63 the engines, 64 the King pair -/

def getEngine (e : Nat) (d : Dev) : Engine := tget {} d.engines e
def modEngine (e : Nat) (f : Engine → Engine) (d : Dev) : Dev := { d with engines := tmod {} d.engines e f }

/-- The unit of the King pair that issues (Table 4.9). -/
def activeUnit (d : Dev) : Nat := rd Reg.GLB_KING_ACTIVE d

/-- The state of a core. -/
def getCore (e : Nat) (d : Dev) : Core :=
  if e < 64 then (getEngine e d).core else (tget {} d.king.units (activeUnit d)).core

/-- Write a core's state. The standby King unit executes the same instruction, so that both units agree while they run under
comparison (R121). An armed injection inverts the parity of a unit's register write, which that unit's checker then flags (R591): after a
split that is a Checkmate (R124). A quarantined unit writes no register. -/
def setCore (e : Nat) (c : Core) (d : Dev) : Dev :=
  if e < 64 then modEngine e (fun g => { g with core := c }) d
  else
    let d := forEach [0, 1] (fun u d =>
      if (tget {} d.king.units u).quar then d
      else { d with king.units := tmod {} d.king.units u fun k => { k with core := c } }) d
    match d.king.injUnit with
    | none => d
    | some u =>
      if (tget {} d.king.units u).quar then d
      else
        let d := clr Reg.FLT_INJ_ARM { d with king.injUnit := none
                                              flt.inj := none
                                              king.units := tmod {} d.king.units u fun k => { k with flagged := true } }
        if rdb Reg.GLB_KING_SPLIT d then checkmate Ev.KING_CHECKMATE (unitOf 2 u) 0 0 d else d

/-- The instruction L1 of a core, by line address. -/
def getL1i (e : Nat) (d : Dev) : Tab Bytes :=
  if e < 64 then (getEngine e d).l1i else (tget {} d.king.units (activeUnit d)).l1i
def setL1i (e : Nat) (t : Tab Bytes) (d : Dev) : Dev :=
  if e < 64 then modEngine e (fun g => { g with l1i := t }) d
  else { d with king.units := tmod {} d.king.units (activeUnit d) fun k => { k with l1i := t } }

/-- The requester port of a core (Table 3.3). -/
def corePort (e : Nat) : Nat := e

/-- The cluster of an engine; the King pair has none. -/
def clusterOf (e : Nat) : Nat := e / 8

/-- An engine that is not quarantined, in an awake region (R120). -/
def engineUp (e : Nat) (d : Dev) : Bool :=
  !engineOut e d && rd (Reg.PWR_LVL_ASTATE (clusterOf e)) d == 0

/-- A core executes: an engine runs a slice in an awake region and is not quarantined; the King pair is neither held nor
halted, and no output of it waits at the comparator (R117, R120, R121, R122). -/
def coreRuns (e : Nat) (d : Dev) : Bool :=
  if e < 64 then (getEngine e d).slice.isSome && engineUp e d
  else !d.king.held && !d.king.halted && !d.king.waits

/-- Take an exception on a core. -/
def trapCore (e cause tval : Nat) (d : Dev) : Dev := setCore e ((getCore e d).trap cause tval) d

/-- The machine external interrupt of a core: GLB_RDONEc for an engine, any block's level for the King pair (R626). -/
def extInterrupt (e : Nat) (d : Dev) : Bool :=
  if e < 64 then rdb (Reg.GLB_RDONE_UNIT (clusterOf e)) d else intrLevels d != 0

/-! ### The address map (Table 4.1) -/

/-- Where an access lands. -/
inductive Place
  | cached (a : Nat)
  | uncached (a : Nat)
  | device (off : Nat)
  deriving DecidableEq, Repr

/-- The target of `n` bytes at an address; nothing outside the listed ranges (R99). -/
def place (a n : Nat) : Option Place :=
  if inMem a n then some (.cached a)
  else if 0x20000000 ≤ a ∧ a + n ≤ 0x2C000000 then some (.uncached (a - 0x10000000))
  else if 0x40000000 ≤ a ∧ a + n ≤ 0x44000000 then some (.device (a - 0x40000000))
  else if 0x80000000000 ≤ a ∧ a + n ≤ 0xC0000000000 then some (.uncached (a - 0x40000000000))
  else none

/-- Code is fetched from the two cached ranges (R100). -/
def fetchable (a n : Nat) : Bool := inMem a n

/-- Stores by one core end the reservations of the others on the line. -/
def dropReservations (e a : Nat) (d : Dev) : Dev :=
  let other (c : Core) : Bool := match c.resv with
    | some r => decide (r / 64 = a / 64)
    | none => false
  let d := forEach (List.range 64) (fun k d =>
    if k ≠ e ∧ other (getEngine k d).core then modEngine k (fun g => { g with core := { g.core with resv := none } }) d else d) d
  if e ≠ 64 ∧ other (getCore 64 d) then setCore 64 { getCore 64 d with resv := none } d else d

/-- Bytes of plain memory as a core reads them, and the words that carry a poison mark: through its cluster's L2 when the range is cached,
straight to the target otherwise (R127, R137); a sealed range answers with poison (R298). The King pair has no L2. -/
def memLoad (e : Nat) (cached : Bool) (a n err : Nat) (d : Dev) : Bytes × Nat × Dev :=
  match inSeal a n d with
  | some k => (List.replicate n 0, 255, sealViolation k a d)
  | none => if cached && e < 64 then l2Read (clusterOf e) a n err d else readStraight a n err d

/-- Store bytes of plain memory. -/
def memStore (e : Nat) (cached : Bool) (a : Nat) (b : Bytes) (d : Dev) : Dev :=
  match inSeal a b.length d with
  | some k => sealViolation k a d
  | none =>
    let d := dropReservations e a d
    if cached && e < 64 then l2Write (clusterOf e) a b d else storeMem a b d

/-- The outcome of a load: a value, or an exception's cause. -/
inductive Got
  | value (v : Nat)
  | cause (c : Nat)
  deriving DecidableEq, Repr

/-- A load of `n` bytes (R98, R99, R115). -/
def coreLoad (e a n err : Nat) (cut : Bool) (d : Dev) : Got × Dev :=
  let c := getCore e d
  if a % n ≠ 0 then (.cause 4, d)
  else if !pmpAllows c c.dataUser 0 a n then (.cause 5, d)
  else match place a n with
    | none => (.cause 5, d)
    | some _ =>
      if cut then (.cause 25, d)
      else match place a n with
        | some (.device off) =>
          let (v, d) := regRead .fabric off n 0 d
          (.value v, d)
        | some (.cached p) =>
          let (b, bad, d) := memLoad e true p n err d
          (if bad != 0 then .cause 24 else .value (leNat b), d)
        | some (.uncached p) =>
          let (b, bad, d) := memLoad e false p n err d
          (if bad != 0 then .cause 24 else .value (leNat b), d)
        | none => (.cause 5, d)

/-- Perform a write of a core at its place. -/
def coreWrite (e a n v : Nat) (d : Dev) : Dev :=
  match place a n with
  | some (.device off) => regWrite .fabric off n (BitVec.ofNat 64 v) 0 d
  | some (.cached p) => memStore e true p (leBytes n v) d
  | some (.uncached p) => memStore e false p (leBytes n v) d
  | none => d

/-- The comparator holds an output of the King pair whose two copies disagree (R121). -/
def holdOutput (a n v : Nat) (o : Nat × BitVec 64) (d : Dev) : Dev :=
  let u := activeUnit d
  let out (x : KingOut) (k : KingUnit) : KingUnit := { k with output := some x }
  { d with king.waits := true
           king.units := tmod {} (tmod {} d.king.units u (out ⟨a, n, v⟩)) (1 - u) (out ⟨o.1, n, o.2.toNat % 2 ^ (8 * n)⟩) }

/-- A store of `n` bytes: an exception's cause, or the state after. A store that is cut off is not performed; its exception
follows with the CUT notice (R115). `other`: the standby King unit's copy, its address and data, where it disagrees (R121). -/
def coreStore (e a n v : Nat) (cut : Bool) (other : Option (Nat × BitVec 64)) (d : Dev) : Option Nat × Dev :=
  let c := getCore e d
  if a % n ≠ 0 then (some 6, d)
  else if !pmpAllows c c.dataUser 1 a n then (some 7, d)
  else match place a n with
    | none => (some 7, d)
    | some _ =>
      if cut then (none, d)
      else match other with
        | some o => (none, holdOutput a n v o d)
        | none => (none, coreWrite e a n v d)

/-- A fetch meets an error where its word lies: in the L2's line, or at the target (R91). -/
def fetchError (e a err : Nat) (d : Dev) : Dev :=
  if e < 64 && l2State (clusterOf e) d < 2 then
    match l2Find (clusterOf e) a d with
    | some w => lineError (clusterOf e) w a err d
    | none => eccAt a err d
  else eccAt a err d

/-- Fetch 2 bytes of code through the instruction L1, which holds lines until FENCE.I or until its L2 drops them (R97, R100). It takes a line
that carries no poison mark, and of an engine's L2 only one that the L2 holds, being inclusive of it (R136, R137). -/
def fetchHalf (e a err : Nat) (cut : Bool) (d : Dev) : Got × Dev :=
  let c := getCore e d
  if !pmpAllows c c.user 2 a 2 then (.cause 1, d)
  else if !fetchable a 2 then (.cause 1, d)
  else
    let line := a / 64 * 64
    match tget [] (getL1i e d) line with
    | [] =>
      if cut then (.cause 25, d)
      else
        let (b, bad, d) := memLoad e true line 64 0 (fetchError e a err d)
        if bitOf bad (a % 64 / 8) then (.cause 24, d)
        else
          let keep := bad == 0 && (e ≥ 64 || (l2Find (clusterOf e) a d).isSome)
          (.value (leNat ((b.drop (a % 64)).take 2)), if keep then setL1i e (tset [] (getL1i e d) line b) d else d)
    | b => (.value (leNat ((b.drop (a % 64)).take 2)), d)

/-! ### Xqsto -/

/-- The encoding of an Xqsto instruction (R101). -/
def qInsn (f7 rs2 rs1 f3 rd : Nat) : Nat := encR f7 rs2 rs1 f3 rd 0x0B

/-- An Xqsto instruction of a core that runs: in user mode, only with its bit of qxperm (R102). -/
def qGuard (e f3 insn : Nat) (f : Dev → Dev) (d : Dev) : Dev :=
  if !coreRuns e d then d
  else
    let c := getCore e d
    if c.user && f3 != 6 && !bitOf (c.csr 0x7C0) f3 then trapCore e 2 (illegalTval insn) d else f d

/-- Write an instruction's result and go on behind it. -/
def qRetire (e rd : Nat) (v : Nat) (d : Dev) : Dev :=
  send (.status v) (setCore e ((getCore e d).retire 4 rd (BitVec.ofNat 64 v)) d)

/-- A ring's consumer index, producer index and size, by QDOOR target; nothing where the target or ring is not this core's
(R103, R255, R285, R412). FIU rings and task rings have no index registers. -/
def ringOf (e target ring : Nat) (d : Dev) : Option (Nat × Nat) :=
  let fromAcc (k : Nat) :=
    if ring < accRings k && e < 64 && bitOf (rd (accClusters k ring) d) (clusterOf e) then
      some (rd (accCons k ring) d, 256) else none
  match target with
  | 0 => fromAcc 3
  | 1 => fromAcc 6
  | 2 => fromAcc 4
  | 3 => fromAcc 5
  | 4 =>
    if ring < 8 && e < 64 && bitOf (rd (Reg.FIU_RING_CLUSTERS ring) d) (clusterOf e) then
      some ((tget {} d.taskRings (128 + ring)).cons, 256) else none
  | 15 => if ring < 128 then some ((tget {} d.taskRings ring).cons, 64) else none
  | _ => none

/-- Set a ring's producer index. -/
def setProd (target ring v : Nat) (d : Dev) : Dev :=
  let own (n : Nat) : Dev := { d with taskRings := tmod {} d.taskRings n fun t => { t with prod := v } }
  match target with
  | 0 => wr (accProd 3 ring) v d
  | 1 => wr (accProd 6 ring) v d
  | 2 => wr (accProd 4 ring) v d
  | 3 => wr (accProd 5 ring) v d
  | 4 => own (128 + ring)
  | _ => own ring

/-- The region a doorbell is for. -/
def doorRegion (target ring : Nat) : Nat := if target = 15 then ring / 16 else 9

/-- Work written for a region in ADJ1 wakes it (R597, R599). -/
def wakeForWork (r : Nat) (d : Dev) : Dev := if astateOf r d = 1 then beginWake r 1 d else d

/-- QDOOR's effect (R103, R628). -/
def doQdoor (e rdN rs1 rs2 : Nat) (cut : Bool) (d : Dev) : Dev :=
  let c := getCore e d
  let a := (c.get rs1).toNat
  let target := a % 16
  let ring := a / 256 % 256
  let prod := (c.get rs2).toNat % 65536
  if cut then qRetire e rdN 3 d
  else match ringOf e target ring d with
    | none => qRetire e rdN 1 d
    | some (cons, size) =>
      if (prod + 65536 - cons) % 65536 > size then qRetire e rdN 2 d
      else qRetire e rdN 0 (wakeForWork (doorRegion target ring) (setProd target ring prod d))

/-- A probe block's address in the pool; nothing where it is not aligned or lies elsewhere (R104). -/
def probeBlock (a : Nat) : Option Nat :=
  if a % 64 ≠ 0 then none
  else match place a 64 with
    | some (.cached p) => if inPool p then some p else none
    | some (.uncached p) => if inPool p then some p else none
    | _ => none

/-- Answer a probe block UNAVAILABLE (R241, R243, R657): RESULT, RFLAGS and the owner-table version, then DONE. -/
def probeUnavailable (block rflags : Nat) (d : Dev) : Dev :=
  let d := storeNat (block + 36) 1 2 d
  let d := storeNat (block + 37) 1 rflags d
  let d := storeNat (block + 56) 4 (rd Reg.FIU_OWN_VER_VERSION d) d
  storeNat (block + 35) 1 1 (bump Reg.FIU_PRB2_UNAVAIL d)

/-- QPROBE's effect (R15, R104); an FIU that is not enabled answers at once (R657). -/
def doQprobe (e rdN rs1 : Nat) (full : Bool) (d : Dev) : Dev :=
  match probeBlock ((getCore e d).get rs1).toNat with
  | none => qRetire e rdN 2 d
  | some b =>
    if !fiuOn d then qRetire e rdN 0 (probeUnavailable b 0 d)
    else if full then qRetire e rdN 1 d
    else qRetire e rdN 0 (wakeForWork 9 { d with fiu.probes := d.fiu.probes ++ [.block b] })

/-- A register pair as one 128-bit number. -/
def pairOf (c : Core) (n : Nat) : Nat := (c.get n).toNat + (c.get (n + 1)).toNat * 2 ^ 64

/-- The memory side of QCAS128: one transfer at the bank or channel; a held line goes back first (R106, R108, R135). -/
def cas128At (e a : Nat) (cached : Bool) (cmp new : Nat) (d : Dev) : Nat × Dev :=
  let d := if cached && e < 64 then
      match l2Find (clusterOf e) a d with
      | some w => invalidateLine (clusterOf e) (l2Set a) w d
      | none => d
    else d
  match inSeal a 16 d with
  | some k => (0, sealViolation k a d)
  | none =>
    let d := eccRange a 16 d
    let old := memNat d a 16
    (old, if old = cmp then storeNat a 16 new (dropReservations e a d) else d)

/-- QCAS128's effect (R105–R108). -/
def doQcas (e rdN rs1 rs2 : Nat) (insn : Nat) (d : Dev) : Dev :=
  let c := getCore e d
  let a := (c.get rs1).toNat
  if rdN % 2 = 1 || rs2 % 2 = 1 then trapCore e 2 (illegalTval insn) d
  else if a % 16 ≠ 0 then trapCore e 6 a d
  else if !pmpAllows c c.dataUser 1 a 16 then trapCore e 7 a d
  else
    let go (p : Nat) (cached : Bool) : Dev :=
      let (old, d) := cas128At e p cached (pairOf c rdN) (pairOf c rs2) d
      let c := getCore e d
      let c := (c.set rdN (BitVec.ofNat 64 old)).set (rdN + 1) (BitVec.ofNat 64 (old / 2 ^ 64))
      send (.value old) (setCore e { c with pc := (c.pc + 4) % 2 ^ 64 } d)
    match place a 16 with
    | some (.cached p) => go p true
    | some (.uncached p) => go p false
    | _ => trapCore e 7 a d

/-- QCRC64's effect: `len` is funct7, 1, 2, 4 or 8 bytes (R109). -/
def doQcrc (e rdN rs1 rs2 len : Nat) (d : Dev) : Dev :=
  let c := getCore e d
  qRetire e rdN (crc64Step (c.get rs1).toNat (leBytes (2 ^ len) (c.get rs2).toNat)) d

/-- QTEMPO's effect (R110): `cyc` fabric cycles have passed since the edge. -/
def doQtempo (e rdN f7 cyc : Nat) (d : Dev) : Dev :=
  let c := getCore e d
  match f7 with
  | 0 =>
    let (s, n) := timeAt cyc d
    let d := setCore e { c with snapNum := tempoNow d, snapSec := s, snapNs := n } d
    qRetire e rdN (tempoNow d) d
  | 1 => qRetire e rdN c.snapSec d
  | 2 => qRetire e rdN c.snapNs d
  | _ => qRetire e rdN (cyclesToEdge cyc d) d

/-- A request of this core waits for a grant round. -/
def tokPending (e : Nat) (d : Dev) : Bool := d.pwr.waiting.any fun q => q.who == .engine e

/-- QPTOK request's effect (R111, R604): classes above 4 come only from hardware, and the spec states no status for one. -/
def doQptok (e rdN rs1 : Nat) (d : Dev) : Dev :=
  let v := ((getCore e d).get rs1).toNat
  let count := v % 65536
  let cls := v / 65536 % 16
  if count = 0 then
    qRetire e rdN 0 { d with pwr.waiting := d.pwr.waiting.filter fun q => q.who != .engine e }
  else if tokPending e d then qRetire e rdN 1 d
  else if count > d.pwr.envelope then qRetire e rdN 2 d
  else if cls = 0 || cls > 4 then
    let (s, d) := drawNat (2 ^ 64) d
    qRetire e rdN s d
  else qRetire e rdN 0 { d with pwr.waiting := d.pwr.waiting ++ [{ who := .engine e, cls := cls, cost := count }] }

/-- QPTOK query's effect (R112). -/
def doQptokQuery (e rdN : Nat) (d : Dev) : Dev :=
  qRetire e rdN ((getEngine e d).tokens % 2 ^ 32 + (if tokPending e d then 2 ^ 32 else 0)) d

/-- QYIELD's effect: disposition 0 ends the slice, 1 parks it in the resume slot (R113, R114, R118). -/
def doQyield (e disp insn : Nat) (d : Dev) : Dev :=
  if e ≥ 64 then trapCore e 2 (illegalTval insn) d
  else match (getEngine e d).slice with
    | none => trapCore e 2 (illegalTval insn) d
    | some sl =>
      let d := setCore e ((getCore e d).retire 4 0 0) d
      if disp = 0 then showEngine e (modEngine e (fun g => { g with slice := none }) d)
      else if disp = 1 then
        showEngine e (modEngine e (fun g => { g with slice := none, resume := some (sl, g.core), deferred := true }) d)
      else d

/-- One Xqsto encoding (Table 4.2): every field the table fixes is checked (R101, R113). -/
def doXqsto (e insn cyc : Nat) (full cut : Bool) (d : Dev) : Dev :=
  let rdN := bits insn 11 7
  let rs1 := bits insn 19 15
  let rs2 := bits insn 24 20
  let f7 := bits insn 31 25
  let ill (d : Dev) := trapCore e 2 (illegalTval insn) d
  let f3 := bits insn 14 12
  qGuard e f3 insn (fun d =>
    match f3 with
    | 0 => if f7 = 0 then doQdoor e rdN rs1 rs2 cut d else ill d
    | 1 => if f7 = 0 && rs2 = 0 then doQprobe e rdN rs1 full d else ill d
    | 2 => if f7 = 0 then doQcas e rdN rs1 rs2 insn d else ill d
    | 3 => if f7 < 4 then doQcrc e rdN rs1 rs2 f7 d else ill d
    | 4 => if f7 < 4 && rs1 = 0 && rs2 = 0 then doQtempo e rdN f7 cyc d else ill d
    | 5 =>
      if f7 = 0 && rs2 = 0 then doQptok e rdN rs1 d
      else if f7 = 1 && rs1 = 0 && rs2 = 0 then doQptokQuery e rdN d else ill d
    | 6 =>
      let disp := ((getCore e d).get rs1).toNat
      if f7 = 0 && rdN = 0 && rs2 = 0 && disp < 2 then doQyield e disp insn d else ill d
    | _ => ill d) d

/-- QDOOR: ring a doorbell and receive a status (R103). -/
def execQdoor (e : Fin 65) (rd rs1 rs2 : Fin 32) (cut : Bool) (s : State) : Host.Outcome State Fault Refusal :=
  runLive (qGuard e 0 (qInsn 0 rs2 rs1 0 rd) (doQdoor e rd rs1 rs2 cut)) s

/-- QPROBE: queue a probe block to the FIU (R104). -/
def execQprobe (e : Fin 65) (rd rs1 : Fin 32) (full : Bool) (s : State) : Host.Outcome State Fault Refusal :=
  runLive (qGuard e 1 (qInsn 0 0 rs1 1 rd) (doQprobe e rd rs1 full)) s

/-- QCAS128: the 128-bit compare-and-swap (R105–R108). -/
def execQcas128 (e : Fin 65) (rd rs1 rs2 : Fin 32) (s : State) : Host.Outcome State Fault Refusal :=
  runLive (qGuard e 2 (qInsn 0 rs2 rs1 2 rd) (doQcas e rd rs1 rs2 (qInsn 0 rs2 rs1 2 rd))) s

/-- QCRC64: a CRC-64 step over 1, 2, 4 or 8 bytes (R109). -/
def execQcrc64 (e : Fin 65) (rd rs1 rs2 : Fin 32) (len : Fin 4) (s : State) : Host.Outcome State Fault Refusal :=
  runLive (qGuard e 3 (qInsn len rs2 rs1 3 rd) (doQcrc e rd rs1 rs2 len)) s

/-- QTEMPO with funct7 0: a snapshot, and its number (R110). -/
def execQtempoSnapshot (e : Fin 65) (rd : Fin 32) (cyc : Nat) (s : State) : Host.Outcome State Fault Refusal :=
  runLive (qGuard e 4 (qInsn 0 0 0 4 rd) (doQtempo e rd 0 cyc)) s

/-- QTEMPO with funct7 1: the snapshot's seconds (R110). -/
def execQtempoSeconds (e : Fin 65) (rd : Fin 32) (s : State) : Host.Outcome State Fault Refusal :=
  runLive (qGuard e 4 (qInsn 1 0 0 4 rd) (doQtempo e rd 1 0)) s

/-- QTEMPO with funct7 2: the snapshot's nanoseconds (R110). -/
def execQtempoNanoseconds (e : Fin 65) (rd : Fin 32) (s : State) : Host.Outcome State Fault Refusal :=
  runLive (qGuard e 4 (qInsn 2 0 0 4 rd) (doQtempo e rd 2 0)) s

/-- QTEMPO with funct7 3: fabric cycles left before the next edge (R110). -/
def execQtempoCyclesToEdge (e : Fin 65) (rd : Fin 32) (cyc : Nat) (s : State) : Host.Outcome State Fault Refusal :=
  runLive (qGuard e 4 (qInsn 3 0 0 4 rd) (doQtempo e rd 3 cyc)) s

/-- QPTOK request: post, replace or cancel a token request (R111). -/
def execQptokRequest (e : Fin 65) (rd rs1 : Fin 32) (s : State) : Host.Outcome State Fault Refusal :=
  runLive (qGuard e 5 (qInsn 0 0 rs1 5 rd) (doQptok e rd rs1)) s

/-- QPTOK query: tokens granted, and whether a request waits (R112). -/
def execQptokQuery (e : Fin 65) (rd : Fin 32) (s : State) : Host.Outcome State Fault Refusal :=
  runLive (qGuard e 5 (qInsn 1 0 0 5 rd) (doQptokQuery e rd)) s

/-- An engine outside a slice can still meet a QYIELD (R114). -/
def yieldGuard (e : Nat) (f : Dev → Dev) (d : Dev) : Dev :=
  if (if e < 64 then engineUp e d else coreRuns e d) then f d else d

/-- QYIELD with rs1 0: the slice is complete; its overrun counter goes with it (R50, R52, R113). Outside a slice it is illegal (R114). -/
def execQyieldComplete (e : Fin 65) (s : State) : Host.Outcome State Fault Refusal :=
  runLive (yieldGuard e (doQyield e 0 (qInsn 0 0 0 6 0))) s

/-- QYIELD with rs1 1: the slice waits in the resume slot for the next tempo (R50, R113). The disposition's register is not
named here; mtval outside a slice is that of the encoding with x1. -/
def execQyieldDefer (e : Fin 65) (s : State) : Host.Outcome State Fault Refusal :=
  runLive (yieldGuard e (doQyield e 1 (qInsn 0 0 1 6 0))) s

/-! ### Standard instructions -/

/-- Complete what an instruction asked of memory. -/
def rvFinish (e len insn cyc err : Nat) (full cut : Bool) (other : Option (Nat × BitVec 64)) (o : RvOut) (d : Dev) : Dev :=
  let c := getCore e d
  let next (c : Core) : Core := { c with pc := (c.pc + len) % 2 ^ 64 }
  match o with
  | .next c => setCore e c d
  | .trap cause tval => trapCore e cause tval d
  | .fenceI => setCore e (next c) (setL1i e [] d)
  | .xqsto => doXqsto e insn cyc full cut d
  | .load rdN size signed a =>
    match coreLoad e a size err cut d with
    | (.cause k, d) => trapCore e k a d
    | (.value v, d) =>
      setCore e (next ((getCore e d).set rdN (if signed then sextN (8 * size) v else BitVec.ofNat 64 v))) d
  | .store size a v =>
    match coreStore e a size (v.toNat % 2 ^ (8 * size)) cut other d with
    | (some k, d) => trapCore e k a d
    | (none, d) => setCore e (next (getCore e d)) d
  | .amo op rdN size a v =>
    let kind := if op = 2 then 0 else 1
    let lo := if op = 2 then 4 else 6
    if a % size ≠ 0 then trapCore e lo a d
    else if !pmpAllows c c.dataUser kind a size then trapCore e (lo + 1) a d
    else
      let go (p : Nat) (cached : Bool) : Dev :=
        if cut then trapCore e 25 a d
        else if op = 3 then
          if c.resv = some p then
            let d := memStore e cached p (leBytes size v.toNat) d
            setCore e (next { (getCore e d).set rdN 0 with resv := none }) d
          else setCore e (next { c.set rdN 1 with resv := none }) d
        else
          let (b, bad, d) := memLoad e cached p size err d
          if bad != 0 then trapCore e 24 a d
          else
            let old := sextN (8 * size) (leNat b)
            if op = 2 then setCore e (next { (getCore e d).set rdN old with resv := some p }) d
            else
              let d := memStore e cached p (leBytes size (amoValue op size old v).toNat) d
              setCore e (next ((getCore e d).set rdN old)) d
      match place a size with
      | some (.cached p) => go p true
      | some (.uncached p) => go p false
      | _ => trapCore e (lo + 1) a d

/-- Fetch and execute one instruction. -/
def coreStep (e cyc err : Nat) (full cut : Bool) (other : Option (Nat × BitVec 64)) (d : Dev) : Dev :=
  let pc := (getCore e d).pc
  match fetchHalf e pc err cut d with
  | (.cause k, d) => trapCore e k pc d
  | (.value lo, d) =>
    let (fresh, d) := drawNat (2 ^ 64) d
    let go (len insn : Nat) (w : Option Nat) (d : Dev) : Dev :=
      match w with
      | none => trapCore e 2 (illegalTval insn) d
      | some w => rvFinish e len insn cyc err full cut other (rvExec e (BitVec.ofNat 64 fresh) (getCore e d) len insn w) d
    if lo % 4 = 3 then
      match fetchHalf e (pc + 2) err cut d with
      | (.cause k, d) => trapCore e k (pc + 2) d
      | (.value hi, d) => go 4 (lo + hi * 65536) (if lo % 32 = 31 then none else some (lo + hi * 65536)) d
    else go 2 lo (rvcExpand lo) d

/-- The machine external interrupt is taken: pending, enabled in mie, and not masked by machine mode's MIE (R626). -/
def interruptTaken (e : Nat) (d : Dev) : Bool :=
  let c := getCore e d
  extInterrupt e d && bitOf (c.csr 0x304) 11 && (c.user || bitOf (c.csr 0x300) 3)

/-- Bring mip.MEIP to the interrupt's level. -/
def showMip (e : Nat) (d : Dev) : Dev :=
  setCore e ((getCore e d).setCsr 0x344 (if extInterrupt e d then 0x800 else 0)) d

/-- The comparator compares the King pair's outputs while both units run (R121, R124). -/
def compared (e : Nat) (other : Option (Nat × BitVec 64)) (d : Dev) : Option (Nat × BitVec 64) :=
  if e = 64 && !rdb Reg.GLB_KING_SPLIT d then other else none

/-- An instruction of the pair whose output disagrees: a store is done but for its output; any other instruction's request waits with the
instruction, which runs when the pair resumes (R121, R122). -/
def heldBack (other : Option (Nat × BitVec 64)) (before after : Dev) : Dev :=
  if other.isSome && !after.king.waits then { before with king.waits := true } else after

/-- The CUT notice of a store waits for this instruction boundary (R115). -/
def takeCut (e : Nat) (d : Dev) : Option Nat × Dev :=
  if e < 64 then
    match (getEngine e d).cutAddr with
    | some a => (some a, modEngine e (fun g => { g with cutAddr := none }) d)
    | none => (none, d)
  else (none, d)

/-- ENGINE_INSTRUCTION: one instruction of a running core, or the exception or interrupt due at its boundary (R96, R115, R120,
R124, R626). With `checker`, a parity or residue checker of the core fires. `other`: the standby King unit's copy of the output disagrees. -/
def execEngineInstruction (e : Fin 65) (checker : Bool) (cyc : Nat) (full : Bool) (err : BitVec 76) (cut : Bool)
    (other : Option (Nat × BitVec 64)) (s : State) : Host.Outcome State Fault Refusal :=
  runLive (fun d =>
    let other := compared e other d
    if !coreRuns e d then d
    else if checker then
      if e.val < 64 then raiseD (Ev.ENG_FAULT (clusterOf e)) (unitOf 1 e) 0 0 false d
      else if rdb Reg.GLB_KING_SPLIT d then checkmate Ev.KING_CHECKMATE (unitOf 2 (activeUnit d)) 0 0 d
      else { d with king.units := tmod {} d.king.units (activeUnit d) fun u => { u with flagged := true } }
    else match takeCut e d with
      | (some a, d) => trapCore e 25 a d
      | (none, d) =>
        let d := showMip e d
        if interruptTaken e d then trapCore e (2 ^ 63 + 11) 0 d
        else heldBack other d (coreStep e cyc err.toNat full cut other d)) s

/-- ENGINE_LOAD_STORE: one access of a running core under the address map (R98–R100, R115, R126–R129). A load writes the
register, a store stores it, a fetch fills the instruction L1; an exception is taken at the pc. -/
def execEngineLoadStore (e : Fin 65) (kind : MemKind) (reg : Fin 32) (addr : Nat) (sizeLog : Fin 4) (signed : Bool)
    (err : BitVec 76) (cut : Bool) (other : Option (Nat × BitVec 64)) (s : State) : Host.Outcome State Fault Refusal :=
  runLive (fun d =>
    let n := 2 ^ sizeLog.val
    let other := compared e other d
    if !coreRuns e d then d
    else heldBack other d <| match kind with
      | .load =>
        match coreLoad e addr n err.toNat cut d with
        | (.cause k, d) => trapCore e k addr d
        | (.value v, d) =>
          send (.value v) (setCore e ((getCore e d).set reg (if signed then sextN (8 * n) v else BitVec.ofNat 64 v)) d)
      | .store =>
        match coreStore e addr n (((getCore e d).get reg).toNat % 2 ^ (8 * n)) cut other d with
        | (some k, d) => trapCore e k addr d
        | (none, d) => d
      | .fetch =>
        match fetchHalf e (addr / 2 * 2) err.toNat cut d with
        | (.cause k, d) => trapCore e k addr d
        | (.value v, d) => send (.value v) d) s

/-! ### Slices (R48–R52, R117–R119) -/

/-- A descriptor that can run: reserved fields 0, ENTRY in a fetchable range (R119). -/
def taskOk (b : Bytes) : Bool :=
  fld b 20 1 < 2 && fld b 21 3 == 0 && fld b 26 6 == 0 && fetchable (fld b 0 8) 2

/-- Load a descriptor: a0 the argument, a1 the slice identity, the mode FLAGS names (R117). -/
def startSlice (e : Nat) (b : Bytes) (d : Dev) : Dev :=
  let c := getCore e d
  let c := (c.set 10 (BitVec.ofNat 64 (fld b 8 8))).set 11 (BitVec.ofNat 64 (fld b 16 4))
  let c := { c with pc := fld b 0 8, user := fld b 20 1 % 2 == 1, resv := none }
  showEngine e (modEngine e (fun g =>
    { g with core := c, slice := some { id := fld b 16 4, start := tempoNow d } }) d)

/-- Take the oldest descriptor of a ring. -/
def takeTask (e ring : Nat) (d : Dev) : Dev :=
  let t := tget {} d.taskRings ring
  let b := memRead d (taskAddr ring t.cons d) 32
  let d := { d with taskRings := tmod {} d.taskRings ring fun t => { t with cons := (t.cons + 1) % 65536 } }
  if taskOk b then startSlice e b d
  else notice (Ev.TQ_BAD (clusterOf e)) (unitOf 1 e) 0 0 (bump (Reg.CL_TQ_BAD_COUNT (clusterOf e)) d)

/-- A ring holds a descriptor. -/
def ringFull (ring : Nat) (d : Dev) : Bool :=
  let t := tget {} d.taskRings ring
  t.prod != t.cons

/-- ENGINE_TAKE_SLICE: an idle engine takes the slice in its resume slot, else the oldest descriptor of its high ring, else of
its low ring (R49, R117–R119). A slice deferred in this tempo waits for the next (R113); none is taken behind an activation's switch. -/
def execEngineTakeSlice (e : Fin 64) (s : State) : Host.Outcome State Fault Refusal :=
  runLive (fun d =>
    let g := getEngine e d
    if g.slice.isSome || g.deferred || !engineUp e d || slicesHeld d then d
    else match g.resume with
      | some (sl, c) => showEngine e (modEngine e (fun g => { g with core := c, slice := some sl, resume := none }) d)
      | none =>
        if ringFull (2 * e + 1) d then takeTask e (2 * e + 1) d
        else if ringFull (2 * e) d then takeTask e (2 * e) d
        else d) s

/-- One running slice at an edge: its counter rises to at most 3, TMP_OVR counts it, TEMPO_OVERRUN is raised once at 3, and it
is suspended into the resume slot (R49, R51, R54, R118). -/
def overrun (sl : Slice) (unit : Nat) (d : Dev) : Slice × Dev :=
  let sl' := { sl with ovr := min (sl.ovr + 1) 3 }
  let d := wr Reg.TMP_OVR_LAST_UNIT unit (bump Reg.TMP_OVR_COUNT d)
  if sl'.ovr = 3 && !sl'.raised then
    ({ sl' with raised := true }, raiseC Ev.TEMPO_OVERRUN unit sl.id sl.start d)
  else (sl', d)

/-- Suspend every running slice at an edge; a slice deferred before it may run again (R44, R49, R113). -/
def suspendSlices (d : Dev) : Dev :=
  forEach (List.range 64) (fun e d =>
    let d := modEngine e (fun g => { g with deferred := false }) d
    match (getEngine e d).slice with
    | none => d
    | some sl =>
      let (sl, d) := overrun sl (unitOf 1 e) d
      showEngine e (modEngine e (fun g => { g with slice := none, resume := some (sl, g.core) }) d)) d

/-! ### The King pair (R121–R124) -/

/-- A saved state read back out of its save area, under the SRAM code: an undetected error leaves one register open (R91, R122). -/
def restoreCore (u err : Nat) (d : Dev) : Dev :=
  let k := tget {} d.king.units u
  let c := k.saved.getD k.core
  let put (c : Core) (d : Dev) : Dev :=
    { d with king.units := tmod {} d.king.units u fun k => { k with core := c, saved := none, flagged := false, l1i := [] } }
  match eccMeet (localUnit 0 0) 0 err d with
  | (.changed, d) =>
    let (r, d) := drawNat 32 d
    let (v, d) := drawNat (2 ^ 64) d
    put (c.set r (BitVec.ofNat 64 v)) d
  | (_, d) => put c d

/-- The survivor's held output leaves, first of all (R122). -/
def releaseOutput (u : Nat) (d : Dev) : Dev :=
  let o := (tget {} d.king.units u).output
  let d := { d with king.waits := false
                    king.units := forEach [0, 1] (fun v t => tmod {} t v fun k => { k with output := none }) d.king.units }
  match o with
  | some o => coreWrite 64 o.addr o.size o.data d
  | none => d

/-- The hold ends: the landed responses are taken, and PPS_OUT shows the level it has by now (R122, R125). -/
def endKingHold (d : Dev) : Dev :=
  let was := d.king.ppsOut
  let d := { d with king.held := false, king.landed := [] }
  if d.tmp.ppsOut == was then d else send (.pin .ppsOut d.tmp.ppsOut) d

/-- One unit survives: its L1s are invalidated, it resumes, its held output is released, and KING_SPLIT is raised against the other (R122).
`how` is GLB_KING.RESOLVE, `gap` the duration in units of 0.1 µs, `err` an error in the survivor's save area. -/
def kingSplit (survivor how gap err : Nat) (d : Dev) : Dev :=
  let d := endKingHold (restoreCore survivor err d)
  let d := wr Reg.GLB_KING_LAST_GAP (min gap 65535) (bump Reg.GLB_KING_GAPS d)
  let d := wr Reg.GLB_KING_ACTIVE survivor (setb Reg.GLB_KING_SPLIT (wr Reg.GLB_KING_RESOLVE how d))
  raiseD Ev.KING_SPLIT (unitOf 2 (1 - survivor)) 0 0 false (releaseOutput survivor d)

/-- KING_MISMATCH: outputs are held, each unit saves its state, and the checkers decide when exactly one unit has flagged
itself; both flagged is a Checkmate; with none the self-tests run (R122, R123). -/
def execKingMismatch (flag0 flag1 : Bool) (gap : Nat) (err : BitVec 76) (s : State) : Host.Outcome State Fault Refusal :=
  runLive (fun d =>
    if d.king.held || rdb Reg.GLB_KING_SPLIT d then d
    else
      let f0 := flag0 || (tget {} d.king.units 0).flagged
      let f1 := flag1 || (tget {} d.king.units 1).flagged
      let save (u : KingUnit) : KingUnit := { u with saved := some u.core }
      let d := { d with king.held := true
                        king.ppsOut := d.tmp.ppsOut
                        king.units := tmod {} (tmod {} d.king.units 0 save) 1 save }
      match f0, f1 with
      | true, true => checkmate Ev.KING_CHECKMATE 0 0 0 d
      | true, false => kingSplit 1 1 gap err.toNat d
      | false, true => kingSplit 0 1 gap err.toNat d
      | false, false => d) s

/-- KING_SELF_TEST_DONE: exactly one unit passes and survives; otherwise a Checkmate (R122, R123). -/
def execKingSelfTestDone (pass0 pass1 : Bool) (gap : Nat) (err : BitVec 76) (s : State) : Host.Outcome State Fault Refusal :=
  runLive (fun d =>
    if d.king.held then
      match pass0, pass1 with
      | true, false => kingSplit 0 2 gap err.toNat d
      | false, true => kingSplit 1 2 gap err.toNat d
      | _, _ => checkmate Ev.KING_CHECKMATE 0 0 0 d
    else d) s

end Sys2Proof.Machine
end

