-- ==== Sys2Proof/Machine/Compress.lean ====
section
/-!
DEFINITION. The compression engine (spec/08_compression_and_digest.md, R255–R273): compression jobs in one part and in streams,
decompression, the slices of lanes.
-/

namespace Sys2Proof.Machine

/-- The lane holds a job of its slice, taking the next one when it holds none (R257, R258). -/
def withJob (k n : Nat) (f : Nat → Nat → Bytes → Dev → Dev) (d : Dev) : Dev :=
  if !(getLane k n d).running || rd (Reg.PWR_LVL_ASTATE 9) d != 0 then d
  else
    let d := takeJob k n d
    match (getLane k n d).job with
    | none => d
    | some (r, i) => f r i (descBytes k r i d) d

/-- End a job CHECK_FAIL for poison, a cut-off or the lane's checker: its output is zeroised (R261, R265). -/
def cmpFault (n : Nat) (b : Bytes) (bits : Nat) (d : Dev) : Dev :=
  let (c, d) := abandon 4 b (fld b 4 4) d
  let d := if bitOf bits 6 then laneCheck 4 n d else d
  endJob 4 n 5 bits (counts c.1 c.2 0) d

/-- End a job with a length status: 2 short, 3 long; LSIDE 0 input, 1 output (R264, R265, R267). -/
def cmpLength (n : Nat) (b : Bytes) (status side inB outB declared seen : Nat) (d : Dev) : Dev :=
  let d := endStream 4 b (zeroise 4 (fld b 24 8) outB d)
  let d := wr Reg.CMP_LAST_DECLARED declared (wr Reg.CMP_LAST_SEEN seen d)
  let d := wr Reg.CMP_LAST2_LSIDE side (wr Reg.CMP_LAST2_LANE n d)
  let d := notice Ev.CMP_LEN (unitOf 4 n) declared seen (setb Reg.CMP_STATUS_LEN_N (bump Reg.CMP_ERR_LEN d))
  endJob 4 n status side (counts inB outB 0) d

/-- Output of a stream job: within OUT_LIMIT it ends OK; past it, OUT_FULL, and with RESUME the rest waits in the context
(R270, R271). -/
def streamOut (n : Nat) (b : Bytes) (m out ctx' : Bytes) (d : Dev) : Dev :=
  let flags := fld b 2 1
  let limit := fld b 16 4
  let ctx := fld b 32 8
  let last := bitOf flags 2
  let inB := m.length
  if out.length ≤ limit then
    let d := laneWrite 4 (fld b 24 8) out d
    if last then
      endJob 4 n 1 0 (counts inB out.length (xsum m)) { d with cmpStreams := tset {} d.cmpStreams ctx {} }
    else
      let d := laneWrite 4 ctx (padTo 196608 ctx') d
      endJob 4 n 1 2 (counts inB out.length (xsum m)) { d with cmpStreams := tset {} d.cmpStreams ctx ⟨true, false⟩ }
  else
    let d := bump Reg.CMP_CNT_OUT_FULL (laneWrite 4 (fld b 24 8) (out.take limit) d)
    if bitOf flags 3 then
      let d := laneWrite 4 ctx (padTo 196608 (Config.zstdHold ctx' (out.drop limit))) d
      endJob 4 n 4 2 (counts inB limit (xsum m)) { d with cmpStreams := tset {} d.cmpStreams ctx ⟨true, true⟩ }
    else endJob 4 n 4 0 (counts inB limit (xsum m)) { d with cmpStreams := tset {} d.cmpStreams ctx {} }

/-- FLUSH and END as the compressor takes them: END covers both (R270). -/
def streamFlags (b : Bytes) : Nat := if bitOf (fld b 2 1) 2 then 2 else b2n (bitOf (fld b 2 1) 1)

/-- A compress job of a kind: 0 ONESHOT, 1 START, 2 CONTINUE from the context `c` (R268–R271). -/
def compressJob (n kind : Nat) (b m c : Bytes) (total : Nat) (d : Dev) : Dev :=
  let inLen := fld b 4 4
  let limit := fld b 16 4
  let effort := fld b 3 1
  let chk := bitOf (fld b 2 1) 4
  let ctx := fld b 32 8
  if kind = 0 then
    let f := zstdFrame effort chk m
    if f.length > limit then
      let i := min (Config.zstdStop effort m limit) m.length
      endJob 4 n 4 0 (counts i limit (xsum (m.take i)))
        (bump Reg.CMP_CNT_OUT_FULL (laneWrite 4 (fld b 24 8) (f.take limit) d))
    else if total ≠ inLen then
      cmpLength n b (if total < inLen then 2 else 3) 0 m.length f.length inLen total (laneWrite 4 (fld b 24 8) f d)
    else endJob 4 n 1 0 (counts m.length f.length (xsum m)) (laneWrite 4 (fld b 24 8) f d)
  else if total ≠ inLen then
    let (o, d) := drawUpTo limit d
    cmpLength n b (if total < inLen then 2 else 3) 0 m.length o inLen total d
  else if kind = 1 then
    let c := Config.zstdOpen effort chk
    streamOut n b m (Config.zstdStream c (streamFlags b) m) (Config.zstdNext c (streamFlags b) m) d
  else
    let st := tget {} d.cmpStreams ctx
    if st.full then streamOut n b [] (Config.zstdHeld c) (Config.zstdNext c (streamFlags b) []) d
    else streamOut n b m (Config.zstdStream c (streamFlags b) m) (Config.zstdNext c (streamFlags b) m) d

/-- End a decompression CHECK_FAIL for FORMAT (R272). -/
def cmpFormat (n : Nat) (b : Bytes) (d : Dev) : Dev :=
  let (c, d) := abandon 4 b (fld b 4 4) d
  let d := notice Ev.CMP_FORMAT (unitOf 4 n) 0 0 (setb Reg.CMP_STATUS_FORMAT_N (bump Reg.CMP_ERR_FORMAT d))
  endJob 4 n 5 4 (counts c.1 c.2 0) d

/-- A decompression job (R264, R266, R272, R273): the first disagreement met in stream order decides. -/
def decompressJob (n : Nat) (b m : Bytes) (total : Nat) (d : Dev) : Dev :=
  let inLen := fld b 4 4
  let decl := fld b 20 4
  let out := fld b 24 8
  match zstdHeader m with
  | none => if m.length < 4 then cmpLength n b 2 0 m.length 0 inLen m.length d else cmpFormat n b d
  | some (hdr, fcs, window, chk) =>
    -- the descriptor byte and the window lie ahead of the content size
    if 5 ≤ m.length && bitOf (fld b 2 1) 4 && !chk || 6 ≤ m.length && !bitOf (fld m 4 1) 5 && window > 131072 then cmpFormat n b d
    else if m.length < hdr then cmpLength n b 2 0 m.length 0 inLen m.length d
    else if fcs.any (· < decl) then cmpLength n b 2 1 hdr 0 decl (fcs.getD 0) d
    else if fcs.any (· > decl) then cmpLength n b 3 1 hdr 0 decl (fcs.getD 0) d
    else match Config.zstdContent window (m.drop hdr) with
      | none => cmpFormat n b d
      | some (c, used) =>
        let need := hdr + used + (if chk then 4 else 0)
        if c.length > decl then
          let (i, d) := drawUpTo (min need m.length) d
          cmpLength n b 3 1 i decl decl c.length (laneWrite 4 out (c.take decl) d)
        else if need > m.length then
          cmpLength n b 2 0 m.length c.length inLen m.length (laneWrite 4 out c d)
        else if chk && fld m (hdr + used) 4 != xsum c then
          let d := bump Reg.CMP_ERR_XSUM (zeroise 4 out c.length d)
          endJob 4 n 5 8 (counts need c.length 0) d
        else if c.length < decl then cmpLength n b 2 1 need c.length decl c.length (laneWrite 4 out c d)
        else if need < inLen ∨ total > inLen then
          cmpLength n b 3 0 need c.length inLen (if need < inLen then need else total) (laneWrite 4 out c d)
        else endJob 4 n 1 0 (counts need c.length (xsum c)) (laneWrite 4 out c d)

/-- A job of the compression engine, of the kind its command names, to its end. -/
def runCompress (kind n : Nat) (cut self : Bool) (d : Dev) : Dev :=
  withJob 4 n (fun _ _ b d =>
    if cmpKind b ≠ kind then d
    else if !cmpOk b d || (kind = 2 && !(tget {} d.cmpStreams (fld b 32 8)).opn) then
      endJob 4 n 5 0x80 (counts 0 0 0) (endStream 4 b d)
    else
      let (inj, d) := takeLaneInj 4 n d
      let fs := (jobInput (bitOf (fld b 2 1) 0) (fld b 8 8) (fld b 4 4) d).getD []
      let (m, p1, d) := readFrags 4 fs (fld b 4 4) d
      let (c, p2, d) := if kind = 2 then laneRead 4 (fld b 32 8) 196608 d else ([], false, d)
      let bits := faultBits cut (self || inj) (p1 || p2)
      if bits ≠ 0 then cmpFault n b bits d
      else if kind = 3 then decompressJob n b m (fragTotal fs) d
      else compressJob n kind b m c (fragTotal fs) d) d

/-- COMPRESS_ONESHOT: a lane runs a ONESHOT compress job to its end (R261–R269). -/
def execCompressOneshot (lane : Fin 16) (cut self : Bool) (s : State) : Host.Outcome State Fault Refusal :=
  runLive (runCompress 0 lane cut self) s

/-- COMPRESS_START: a lane runs a START job, which opens a stream (R270, R271). -/
def execCompressStart (lane : Fin 16) (cut self : Bool) (s : State) : Host.Outcome State Fault Refusal :=
  runLive (runCompress 1 lane cut self) s

/-- COMPRESS_CONTINUE: a lane runs a CONTINUE job on an open stream (R267, R270, R271). -/
def execCompressContinue (lane : Fin 16) (cut self : Bool) (s : State) : Host.Outcome State Fault Refusal :=
  runLive (runCompress 2 lane cut self) s

/-- DECOMPRESS: a lane decompresses one Zstandard frame (R264–R266, R272, R273). -/
def execDecompress (lane : Fin 16) (cut self : Bool) (s : State) : Host.Outcome State Fault Refusal :=
  runLive (runCompress 3 lane cut self) s

/-- Arm an injection for a lane. -/
def armInj (k n : Nat) (d : Dev) : Dev := setb (accInjArm k) (wr (accInjLane k) n d)

/-- CMP_INJ_ARM: the lane's next transfer fails its checker (R261, Table 8.13). -/
def execCmpInjArm (lane : Fin 16) (s : State) : Host.Outcome State Fault Refusal := runLive (armInj 4 lane) s

/-! ### Slices of lanes (R47, R49, R53, R257–R259) -/

/-- A lane has a job, split or suspended, or there is one to take. -/
def laneHasWork (k n : Nat) (d : Dev) : Bool :=
  (getLane k n d).job.isSome || (topPrio k d).isSome || (getAccel k d).pipe.any (·.lane == some n)

/-- At an edge, a lane whose job still runs is suspended: an overrun (R49, R51, R54, R258). Its part after the edge is a new slice (R53), so a
lane's counter never passes 1, and TEMPO_OVERRUN, whose DATA0 numbers a slice, names engines only (DEDUCED, log entry 135). -/
def suspendLanes (d : Dev) : Dev :=
  forEach [3, 4, 5, 6] (fun k d =>
    forEach (List.range (accLanes k)) (fun n d =>
      let l := getLane k n d
      if l.running then
        let d := modLane k n (fun l => { l with running := false }) d
        match l.job with
        | none => d
        | some _ =>
          let (_, d) := overrun l.slice (unitOf k n) d
          modLane k n (fun l => { l with slice := {} }) d
      else d) d) d

/-- At each edge the compression engine posts one token request for every lane that has work (R259): class 4, 20 tokens. -/
def postLaneTokens (d : Dev) : Dev :=
  let d := { d with pwr.waiting := d.pwr.waiting.filter fun q => q.cls != 4 || (match q.who with
    | .compLane _ => false
    | _ => true) }
  forEach (List.range 16) (fun n d =>
    if laneOpen 4 n d && laneHasWork 4 n d then postReq { who := .compLane n, cls := 4, cost := 20 } d else d) d

/-- At E+16 slices start: a suspended or split job first, then the next of R257; a compression lane needs its grant (R47,
R53, R259). A lane that is no longer enabled still finishes the job it holds. -/
def startLanes (d : Dev) : Dev :=
  if rd (Reg.PWR_LVL_ASTATE 9) d != 0 || regionQuar 9 d || slicesHeld d then d
  else
    forEach [3, 4, 5, 6] (fun k d =>
      forEach (List.range (accLanes k)) (fun n d =>
        let held := (getLane k n d).job.isSome
        let may := (held && !(getLane k n d).quar) || laneOpen k n d
        if may && (held || (topPrio k d).isSome) && (k != 4 || hasGrant (.compLane n) 4 d) then
          let d := modLane k n (fun l => { l with running := true, slice := if held then { start := tempoNow d } else l.slice }) d
          takeJob k n d
        else d) d) d

/-- The lane kind that a number of ACCEL_SLICE_BUDGET_END names. -/
def accKind (k : Nat) : Nat := k + 3

/-- ACCEL_SLICE_BUDGET_END: the slice's budget ends: the lane splits its job and holds it; its next part is a new slice (R53, R258). A
split is no overrun. -/
def execAccelSliceBudgetEnd (k : Fin 4) (lane : Fin 16) (s : State) : Host.Outcome State Fault Refusal :=
  runLive (fun d =>
    if (getLane (accKind k) lane d).running then
      modLane (accKind k) lane (fun l => { l with running := false, slice := {} }) d
    else d) s

end Sys2Proof.Machine
end

