-- ==== Sys2Proof/Machine/DigestEngine.lean ====
section
/-!
DEFINITION. The digest engine (spec/08_compression_and_digest.md, R274–R282): jobs in one part and in several, keyed digests,
wrapped contexts, verification.
-/

namespace Sys2Proof.Machine

/-- End a job MALFORMED (R263, R277, R278). -/
def digMalformed (n : Nat) (d : Dev) : Dev := endJob 6 n 5 0x80 (counts 0 0 0) (bump Reg.DIG_ERR_MALFORMED d)

/-- A context record (Table 8.9) of a digest in progress, wrapped or clear (R279). -/
def digestRecord (op : Nat) (x : Digest) (outer : Bytes) (wrapped : Bool) (d : Dev) : Bytes :=
  let body := leBytes 8 (x.total - if isHmac op then hashBlock (hashOf op) else 0) ++ leBytes 2 x.buf.length ++ leBytes 1 op ++ leBytes 5 0
    ++ padTo 200 x.state ++ padTo 64 outer ++ padTo 136 x.buf
  let head := leBytes 2 0xD1C7 ++ leBytes 1 op ++ leBytes 1 (b2n wrapped)
  if wrapped then
    padTo 512 (head ++ leBytes 2 424 ++ leBytes 2 0 ++ leBytes 8 (rdReg Reg.SXC_BOOT_BOOT.off d).toNat ++ leBytes 16 0
      ++ kwpWrap d.keys.digestWrap body)
  else padTo 512 (head ++ leBytes 12 0 ++ leBytes 16 0 ++ body)

/-- What a restore of a context gives: the digest and the outer chaining value; a wrapped one that fails; another OP's. -/
inductive Restored
  | got (x : Digest) (outer : Bytes)
  | unwrapFail
  | malformed
  deriving DecidableEq, Repr

/-- Read a context record back (R277, R280). -/
def digestRestore (op : Nat) (r : Bytes) (d : Dev) : Restored :=
  let body :=
    if fld r 3 1 = 1 then
      if fld r 8 8 ≠ (rdReg Reg.SXC_BOOT_BOOT.off d).toNat then none else kwpUnwrap d.keys.digestWrap (sub r 32 424)
    else some (sub r 32 416)
  match body with
  | none => .unwrapFail
  | some w =>
    if fld w 10 1 ≠ op then .malformed
    else .got ⟨sub w 16 (stateLen (hashOf op)), fld w 0 8 + (if isHmac op then hashBlock (hashOf op) else 0),
        sub w 280 (fld w 8 2)⟩ (sub w 216 64)

/-- Write or compare a finished digest (R265, R276, R282). -/
def digestDeliver (n : Nat) (b : Bytes) (result : Bytes) (inB : Nat) (d : Dev) : Dev :=
  let t := digestTake b
  let out := fld b 16 8
  if bitOf (fld b 2 1) 1 then
    let (e, poison, d) := laneRead 6 out t d
    if poison then endJob 6 n 5 0x10 (counts inB 0 0) d
    else if e = result.take t then endJob 6 n 1 0 (counts inB 0 0) d
    else endJob 6 n 6 0 (counts inB 0 0) (bump Reg.DIG_CNT_VERIFY_FAIL d)
  else endJob 6 n 1 0 (counts inB t 0) (laneWrite 6 out (result.take t) d)

/-- The result of a job's last part. -/
def digestResult (op : Nat) (x : Digest) (outer m : Bytes) : Bytes :=
  let f := hashOf op
  if isHmac op then ((⟨outer.take (stateLen f), hashBlock f, []⟩ : Digest).absorb f (x.finish f)).finish f
  else if op = 8 then x.finish f ++ leBytes 8 (crc64 m)
  else x.finish f

/-- The digest a job begins with: a START or ONESHOT from nothing or from the key, a CONTINUE or FINISH from its context's record. -/
def digestBegin (b key record : Bytes) (d : Dev) : Restored :=
  let op := fld b 0 1
  let f := hashOf op
  if fld b 1 1 = 0 ∨ fld b 1 1 = 1 then
    if isHmac op then .got (hmacInner f key) (hmacOuter f key).state else .got (Digest.start f) []
  else if tget false d.keys.digestDead (fld b 32 8) then .malformed
  else digestRestore op record d

/-- A job past its checks, its input read (R264, R265, R274–R282). -/
def digestJob (n : Nat) (b key record m : Bytes) (total : Nat) (d : Dev) : Dev :=
  let op := fld b 0 1
  let len := fld b 4 4
  match digestBegin b key record d with
  | .malformed => digMalformed n (endStream 6 b d)
  | .unwrapFail =>
    let d := notice Ev.DIG_UNWRAP (unitOf 6 n) 0 0 (setb Reg.DIG_STATUS_UNWRAP_N (bump Reg.DIG_ERR_UNWRAP d))
    endJob 6 n 6 4 (counts 0 0 0) d
  | .got x outer =>
    if total ≠ len then
      let d := wr Reg.DIG_LAST_DECLARED len (wr Reg.DIG_LAST_SEEN total (endStream 6 b d))
      let d := notice Ev.DIG_LEN (unitOf 6 n) len total (setb Reg.DIG_STATUS_LEN_N (bump Reg.DIG_ERR_LEN d))
      endJob 6 n (if total < len then 2 else 3) 0 (counts m.length 0 0) d
    else
      let x := x.absorb (hashOf op) m
      if fld b 1 1 = 1 ∨ fld b 1 1 = 2 then
        let wrapped := bitOf (fld b 2 1) 2 || bitOf (fld b 2 1) 3
        let d := laneWrite 6 (fld b 32 8) (digestRecord op x outer wrapped d) d
        endJob 6 n 1 2 (counts m.length 0 0) { d with keys.digestDead := tset false d.keys.digestDead (fld b 32 8) false }
      else digestDeliver n b (digestResult op x outer m) m.length d

/-- A job of the digest engine, of the OP its command names, to its end. -/
def runDigest (op n : Nat) (cut self : Bool) (d : Dev) : Dev :=
  withJob 6 n (fun _ _ b d =>
    if digKind b ≠ op then d
    else if !digOk b d then digMalformed n (endStream 6 b d)
    else
      let (inj, d) := takeLaneInj 6 n d
      let fs := (jobInput (bitOf (fld b 2 1) 0) (fld b 8 8) (fld b 4 4) d).getD []
      let (m, p1, d) := readFrags 6 fs (fld b 4 4) d
      let (key, p2, d) :=
        if isHmac op && !bitOf (fld b 2 1) 2 then laneRead 6 (fld b 24 8) (fld b 40 2) d
        else (tget [] d.keys.digest (fld b 42 1), false, d)
      let (record, p3, d) :=
        if fld b 1 1 = 2 ∨ fld b 1 1 = 3 then laneRead 6 (fld b 32 8) 512 d else ([], false, d)
      let bits := faultBits cut (self || inj) (p1 || p2 || p3)
      if bits ≠ 0 then
        let (c, d) := abandon 6 b m.length d
        let d := if bitOf bits 6 then laneCheck 6 n d else d
        endJob 6 n 5 bits (counts c.1 c.2 0) d
      else digestJob n b key record m (fragTotal fs) d) d

/-- DIGEST_SHA256: an OP 1 job in any mode (R274–R280). -/
def execDigestSha256 (pipe : Fin 2) (cut self : Bool) (s : State) : Host.Outcome State Fault Refusal :=
  runLive (runDigest 1 pipe cut self) s

/-- DIGEST_SHA384: an OP 2 job (R274). -/
def execDigestSha384 (pipe : Fin 2) (cut self : Bool) (s : State) : Host.Outcome State Fault Refusal :=
  runLive (runDigest 2 pipe cut self) s

/-- DIGEST_SHA512: an OP 3 job (R274). -/
def execDigestSha512 (pipe : Fin 2) (cut self : Bool) (s : State) : Host.Outcome State Fault Refusal :=
  runLive (runDigest 3 pipe cut self) s

/-- DIGEST_SHA3_256: an OP 4 job (R274). -/
def execDigestSha3256 (pipe : Fin 2) (cut self : Bool) (s : State) : Host.Outcome State Fault Refusal :=
  runLive (runDigest 4 pipe cut self) s

/-- DIGEST_HMAC_SHA256: an OP 5 job, keyed from the pool or from a key register (R274, R278). -/
def execDigestHmacSha256 (pipe : Fin 2) (cut self : Bool) (s : State) : Host.Outcome State Fault Refusal :=
  runLive (runDigest 5 pipe cut self) s

/-- DIGEST_HMAC_SHA384: an OP 6 job (R274, R278). -/
def execDigestHmacSha384 (pipe : Fin 2) (cut self : Bool) (s : State) : Host.Outcome State Fault Refusal :=
  runLive (runDigest 6 pipe cut self) s

/-- DIGEST_HMAC_SHA512: an OP 7 job (R274, R278). -/
def execDigestHmacSha512 (pipe : Fin 2) (cut self : Bool) (s : State) : Host.Outcome State Fault Refusal :=
  runLive (runDigest 7 pipe cut self) s

/-- DIGEST_SHA256_CRC64: SHA-256 and CRC-64 in one pass (R275). -/
def execDigestSha256Crc64 (pipe : Fin 2) (cut self : Bool) (s : State) : Host.Outcome State Fault Refusal :=
  runLive (runDigest 8 pipe cut self) s

/-- DIG_INJ_ARM: the pipeline's next transfer fails its checker (R261, Table 8.16). -/
def execDigInjArm (pipe : Fin 2) (s : State) : Host.Outcome State Fault Refusal := runLive (armInj 6 pipe) s

end Sys2Proof.Machine
end

