-- ==== Sys2Proof/Machine/Cipher.lean ====
section
/-!
DEFINITION. The cipher engine's jobs (spec/09_cipher_and_keys.md, R283–R304): keys and IVs, the modes,
STREAM and VAULT, preemption of long messages.
-/

namespace Sys2Proof.Machine

/-! ### Resident slots (R308, R309) -/

/-- Write a slot's identity with its complement; an armed injection inverts a bit of the complement (R309, R591). -/
def putKinfo (n kind cls index gen loadseq size : Nat) (d : Dev) : Dev :=
  let w := loadseq * 2 ^ 48 + gen * 2 ^ 32 + index * 2 ^ 20 + kind * 2 ^ 13 + cls * 2 ^ 12 + size * 2 ^ 10
  let (p, d) := mkPaired 64 1 w d
  let d := wrReg (kinfoOff n) (BitVec.ofNat 64 w) d
  { d with keys.slots := tmod {} d.keys.slots n fun k => { k with comp := p.comp } }

/-- The kind of a resident slot as a job or a load reads it: 0 empty; disagreeing halves raise CIP_KPAIRED and read as empty
(R309). -/
def slotKind (n : Nat) (d : Dev) : Nat × Dev :=
  let p := slotPair n d
  if p.ok 64 then (rd (Reg.CIP_KINFO_KIND n) d, d) else (0, keyPaired n p d)

/-- A running, split or preempted job holds a slot; `self` leaves one lane out. -/
def slotHeld (n : Nat) (self : Option Nat) (d : Dev) : Bool :=
  (List.range 12).any (fun l => some l != self && match (getLane 3 l d).job with
    | some (r, i) => (jobSlots (descBytes 3 r i d)).contains n
    | none => false)
  || (getAccel 3 d).preempted.any fun p => (jobSlots (descBytes 3 p.ring p.idx d)).contains n

/-- Load a key into a slot: a new LOADSEQ, the invocation counter from 0 (R308). -/
def loadSlot (n kind cls index gen : Nat) (key : Bytes) (d : Dev) : Dev :=
  let d := putKinfo n kind cls index gen (rd (Reg.CIP_KINFO_LOADSEQ n) d + 1) (key.length / 8 - 2) d
  { d with keys.slots := tmod {} d.keys.slots n fun k => { k with key := key, inv := 0 } }

/-- Zeroise a slot; LOADSEQ never repeats within a boot (R292). -/
def zeroSlot (n : Nat) (d : Dev) : Dev :=
  let d := putKinfo n 0 0 0 0 (rd (Reg.CIP_KINFO_LOADSEQ n) d) 0 d
  { d with keys.slots := tmod {} d.keys.slots n fun k => { k with key := [], inv := 0 } }

/-! ### How a job ends -/

/-- Release a job's seal; with `zero` the sealed range is zeroised first (R294, R299). -/
def cipUnseal (n : Nat) (zero : Bool) (d : Dev) : Dev :=
  match (getLane 3 n d).sealNo with
  | some k => dropSeal k zero d
  | none => d

/-- A job that fails after it has read data leaves no output: the range it wrote and the range it sealed are zeroised (R294, R299). -/
def cipLeave (n : Nat) (b : Bytes) (status bits : Nat) (d : Dev) : Dev :=
  let (c, d) := abandon 3 b (cipDeclared b) d
  endJob 3 n status bits (counts c.1 c.2 0) (cipUnseal n true d)

/-- A job ends where it would begin: one that has not begun has written nothing, and a preempted one leaves zeros (R289, R290, R303). -/
def cipStop (n : Nat) (b : Bytes) (status bits : Nat) (d : Dev) : Dev :=
  if (getLane 3 n d).restored && cipOk b d then cipLeave n b status bits d
  else endJob 3 n status bits (counts 0 0 0) (cipUnseal n false d)

/-- CHECK_FAIL with MALFORMED (R290) and with NOKEY (R289). -/
def cipMalformed (n : Nat) (b : Bytes) (d : Dev) : Dev := cipStop n b 5 0x80 (bump Reg.CIP_ERR_MALFORMED d)
def cipNoKey (n : Nat) (b : Bytes) (d : Dev) : Dev := cipStop n b 5 0x08 (bump Reg.CIP_ERR_NOKEY d)

/-! ### IVs (R291, R292) -/

/-- The IV a job uses: 12 bytes for GCM and GMAC, 16 for the others. -/
def cipIv (b : Bytes) (d : Dev) : Bytes :=
  let slot := fld b 3 1
  match cipIvSrc b with
  | 1 => (sub b 48 8).reverse ++ beBytes 4 1
  | 2 =>
    let iv := beBytes 12 ((rdReg Reg.SXC_BOOT_BOOT.off d).toNat % 2 ^ 32 * 2 ^ 64 + slot * 2 ^ 56
      + rd (Reg.CIP_KINFO_LOADSEQ slot) d * 2 ^ 40 + (tget {} d.keys.slots slot).inv)
    if cipOp b = 4 then iv ++ beBytes 4 1 else iv
  | _ => if cipOp b = 5 ∨ cipOp b = 6 then sub b 48 12 else sub b 48 16

/-- A COUNTER job, however it ends, writes its IV into the descriptor and counts one invocation (Table 9.4, R292). -/
def cipIvDone (n : Nat) (b iv : Bytes) (d : Dev) : Dev :=
  if cipIvSrc b = 2 then
    let slot := fld b 3 1
    let d := { d with keys.slots := tmod {} d.keys.slots slot fun k => { k with inv := k.inv + 1 } }
    match (getLane 3 n d).job with
    | some (r, i) => storeMem (descAddr 3 r i d + 48) (iv.take 12 ++ leBytes 4 0) d
    | none => d
  else d

/-! ### The modes -/

/-- Data out of a job without a tag (OP 1–4). -/
def cipModes (op : Nat) (dec : Bool) (key iv m : Bytes) : Bytes :=
  match op with
  | 1 => if dec then cbcDec key iv (toBlocks m) else cbcEnc key iv (toBlocks m)
  | 2 => cfb (!dec) key iv (toBlocks m)
  | 3 => ofb key iv (toBlocks m)
  | _ => ctr key iv (toBlocks m)

/-- A tag or integrity check fails (R296, R299): STREAM output stays; a VAULT range is zeroised, with a Notice where the job decrypts or
unwraps. -/
def cipTagFail (n : Nat) (b : Bytes) (inB written : Nat) (d : Dev) : Dev :=
  let d := bump Reg.CIP_CNT_TAG_FAIL d
  if cipVault b && cipOp b != 6 then
    let d := notice Ev.CIP_VAULT_FAIL (unitOf 3 n) 0 0 (setb Reg.CIP_STATUS_VAULT_N d)
    endJob 3 n 6 0 (counts inB written 0) (cipUnseal n true d)
  else endJob 3 n 6 0 (counts inB written 0) d

/-- An unwrapped key goes into DSLOT (R300). -/
def cipKeyInto (n : Nat) (b key : Bytes) (d : Dev) : Dev :=
  let slot := fld b 36 1
  if slotHeld slot (some n) d || rd (Reg.CIP_KINFO_LOADSEQ slot) d = 65535 then cipNoKey n b d
  else if [16, 24, 32].contains key.length then
    endJob 3 n 1 0 (counts (cipLen b) 0 0) (loadSlot slot 5 0 (fld b 76 4 % 4096) (fld b 76 4 / 4096 % 256) key d)
  else endJob 3 n 5 4 (counts (cipLen b) 0 0) d

/-- A job past its checks (R291–R300): `m` is the declared input. -/
def cipherJob (n : Nat) (b key iv aad m : Bytes) (d : Dev) : Dev :=
  let op := cipOp b
  let dec := cipDec b
  let out := fld b 16 8
  let ok (o : Bytes) (d : Dev) : Dev :=
    endJob 3 n 1 0 (counts m.length o.length 0) (cipUnseal n false (laneWrite 3 out o d))
  match op with
  | 5 =>
    if dec then
      let ct := m.take (cipLen b)
      let p := gcmData key iv ct
      let d := laneWrite 3 out p d
      if gcmTag key iv aad ct = m.drop (cipLen b) then
        endJob 3 n 1 0 (counts m.length p.length 0) (cipUnseal n false d)
      else cipTagFail n b m.length p.length d
    else
      let ct := gcmData key iv m
      ok (ct ++ gcmTag key iv aad ct) d
  | 6 =>
    let tag := gcmTag key iv aad []
    if dec then
      let (t, _, d) := laneRead 3 out 16 d
      if t = tag then endJob 3 n 1 0 (counts 0 0 0) d else cipTagFail n b 0 0 d
    else ok tag d
  | 7 =>
    if dec then
      match kwUnwrap key m with
      | none => cipTagFail n b m.length 0 d
      | some p => if cipKeyDest b then cipKeyInto n b p d else ok p d
    else ok (kwWrap key m) d
  | 8 =>
    if dec then
      match kwpUnwrap key m with
      | none => cipTagFail n b m.length 0 d
      | some p => if cipKeyDest b then cipKeyInto n b p d else ok p d
    else ok (kwpWrap key m) d
  | _ => ok (cipModes op dec key iv m) d

/-- A preempted job's context record is restored before it goes on (R303): nothing when it may; else the status and XFLAGS. -/
def cipRestore (b r : Bytes) (d : Dev) : Option (Nat × Nat) :=
  if fld r 16 2 ≠ rd (Reg.CIP_KINFO_LOADSEQ (fld b 3 1)) d then some (5, 0x08)
  else if fld r 3 1 = 1
      && (fld r 8 8 != (rdReg Reg.SXC_BOOT_BOOT.off d).toNat || (kwpUnwrap d.keys.cipherWrap (sub r 32 104)).isNone) then
    some (6, 0x04)
  else none

/-- A job of the cipher engine, of the OP its command names, to its end (R288–R300). -/
def runCipher (op n : Nat) (cut self : Bool) (d : Dev) : Dev :=
  withJob 3 n (fun _ _ b d =>
    if cipKind b ≠ op then d
    else if !cipOk b d then cipMalformed n b d
    else
      let slot := fld b 3 1
      let kid := fld b 72 4
      let (kind, d) := slotKind slot d
      if kind = 0 || kind ≠ kid / 2 ^ 20 || rd (Reg.CIP_KINFO_INDEX slot) d ≠ kid % 4096
          || rd (Reg.CIP_KINFO_GEN slot) d ≠ kid / 4096 % 256
          || (cipIvSrc b = 2 && (tget {} d.keys.slots slot).inv ≥ 2 ^ 40 - 1) then cipNoKey n b d
      else if !cipKeyOk b kind (rd (Reg.CIP_KINFO_CLASS slot) d) then cipMalformed n b d
      else
        let (r, p0, d) := if (getLane 3 n d).restored then laneRead 3 (fld b 40 8) 256 d else ([], false, d)
        match if (getLane 3 n d).restored && !p0 then cipRestore b r d else none with
        | some (status, bits) =>
          cipLeave n b status bits (if bits = 8 then bump Reg.CIP_ERR_NOKEY d else bump Reg.CIP_CNT_TAG_FAIL d)
        | none =>
          let (inj, d) := takeLaneInj 3 n d
          let fs := (jobInput (bitOf (fld b 2 1) 0) (fld b 8 8) (cipDeclared b) d).getD []
          let (m, p1, d) := readFrags 3 fs (cipDeclared b) d
          let (aad, p2, d) := laneRead 3 (fld b 24 8) (cipAadLen b) d
          let bits := faultBits cut (self || inj) (p0 || p1 || p2)
          let iv := cipIv b d
          let d := cipIvDone n b iv d
          if bits ≠ 0 then cipLeave n b 5 bits (if bitOf bits 6 then laneCheck 3 n d else d)
          else if fragTotal fs ≠ cipDeclared b then
            let total := fragTotal fs
            let d := wr Reg.CIP_LAST_DECLARED (cipDeclared b) (wr Reg.CIP_LAST_SEEN total (wr Reg.CIP_LAST2_LANE n d))
            let d := notice Ev.CIP_LEN (unitOf 3 n) (cipDeclared b) total (setb Reg.CIP_STATUS_LEN_N (bump Reg.CIP_ERR_LEN d))
            let o := if cipKeyDest b then 0 else min m.length (cipOutLen b)
            endJob 3 n (if total < cipDeclared b then 2 else 3) 0 (counts m.length o 0)
              (cipUnseal n true (zeroise 3 (fld b 16 8) o d))
          else cipherJob n b (tget {} d.keys.slots slot).key iv aad m d) d

/-- CIPHER_CBC: an OP 1 job (R284, R290–R294). -/
def execCipherCbc (lane : Fin 12) (cut self : Bool) (s : State) : Host.Outcome State Fault Refusal :=
  runLive (runCipher 1 lane cut self) s

/-- CIPHER_CFB128: an OP 2 job (R284). -/
def execCipherCfb128 (lane : Fin 12) (cut self : Bool) (s : State) : Host.Outcome State Fault Refusal :=
  runLive (runCipher 2 lane cut self) s

/-- CIPHER_OFB: an OP 3 job (R284). -/
def execCipherOfb (lane : Fin 12) (cut self : Bool) (s : State) : Host.Outcome State Fault Refusal :=
  runLive (runCipher 3 lane cut self) s

/-- CIPHER_CTR: an OP 4 job (R291–R293). -/
def execCipherCtr (lane : Fin 12) (cut self : Bool) (s : State) : Host.Outcome State Fault Refusal :=
  runLive (runCipher 4 lane cut self) s

/-- CIPHER_GCM: an OP 5 job, in STREAM or VAULT (R291–R299). -/
def execCipherGcm (lane : Fin 12) (cut self : Bool) (s : State) : Host.Outcome State Fault Refusal :=
  runLive (runCipher 5 lane cut self) s

/-- CIPHER_GMAC: an OP 6 job: a tag written or compared (R296). -/
def execCipherGmac (lane : Fin 12) (cut self : Bool) (s : State) : Host.Outcome State Fault Refusal :=
  runLive (runCipher 6 lane cut self) s

/-- CIPHER_KW: an OP 7 job, with KEYDEST into a key slot (R299, R300). -/
def execCipherKw (lane : Fin 12) (cut self : Bool) (s : State) : Host.Outcome State Fault Refusal :=
  runLive (runCipher 7 lane cut self) s

/-- CIPHER_KWP: an OP 8 job, with KEYDEST into a key slot (R299, R300). -/
def execCipherKwp (lane : Fin 12) (cut self : Bool) (s : State) : Host.Outcome State Fault Refusal :=
  runLive (runCipher 8 lane cut self) s

/-- CIP_INJ_ARM: the lane's next transfer fails its checker (R288, Table 9.12). -/
def execCipInjArm (lane : Fin 12) (s : State) : Host.Outcome State Fault Refusal := runLive (armInj 3 lane) s

/-! ### Preemption (R301, R302) -/

/-- The lane preempted for a job of PRIO `p`: its held split job has the lowest PRIO, below `p`, a context slot, and is no key
wrap; the most recently started among equals (R301). -/
def preemptLane (p : Nat) (done : List Nat) (d : Dev) : Option Nat :=
  let prioOf (n : Nat) : Option (Nat × Nat) := match (getLane 3 n d).job with
    | none => none
    | some (r, i) =>
      let b := descBytes 3 r i d
      if rd (accPrio 3 r) d < p && fld b 40 8 != 0 && cipOp b != 7 && cipOp b != 8 && !done.contains n then
        some (rd (accPrio 3 r) d, (getLane 3 n d).slice.start)
      else none
  (List.range 12).foldl (fun best n => match prioOf n, best with
    | none, _ => best
    | some _, none => some n
    | some (q, t), some m => match prioOf m with
      | some (q', t') => if q < q' || (q == q' && t > t') then some n else best
      | none => some n) none

/-- Unstarted descriptors in the order the engine takes them, highest PRIO first: ring and index. One that waits for a seal waits for no
lane (R297). -/
def waitingJobs (d : Dev) : List (Nat × Nat) :=
  [3, 2, 1, 0].flatMap fun p => (List.range 16).flatMap fun r =>
    if rd (accPrio 3 r) d = p then
      let a := tget 0 (getAccel 3 d).next r
      ((List.range ((rd (accProd 3 r) d + 65536 - a) % 65536)).map fun i => (r, (a + i) % 65536)).filter fun j => descStartable 3 j.1 j.2 d
    else []

/-- CIPHER_PREEMPT_DECIDE at an edge: with PREEMPT_EN and every enabled lane holding a job, a lane per waiting job (R301). -/
def decidePreempt (d : Dev) : Dev :=
  let full := (List.range 12).all fun n => (getLane 3 n d).job.isSome || !laneOpen 3 n d
  if rdb Reg.CIP_CTRL_PREEMPT_EN d && full then
    let r := (waitingJobs d).foldl (fun (acc : List (Nat × Nat × Nat)) j =>
      match preemptLane (rd (accPrio 3 j.1) d) (acc.map (·.1)) d with
      | some n => acc ++ [(n, j.1, j.2)]
      | none => acc) []
    modAccel 3 (fun a => { a with chosen := r }) d
  else modAccel 3 (fun a => { a with chosen := [] }) d

/-- The context record of a job that is preempted after `done` bytes of input (Table 9.6): its AAD comes first; how far it has come in
that and its chaining values are open. -/
def cipContext (b : Bytes) (done : Nat) (sealNo : Option Nat) (wrapped : Bool) (d : Dev) : Bytes × Dev :=
  let slot := fld b 3 1
  let (aad, d) := if done = 0 then drawUpTo (cipAadLen b) d else (cipAadLen b, d)
  let (chain, d) := drawBytes 80 d
  let body := leBytes 8 done ++ leBytes 8 aad ++ padTo 80 chain
  let head := leBytes 2 0xC1F7 ++ leBytes 1 (cipOp b) ++ leBytes 1 (b2n wrapped) ++ leBytes 2 (if wrapped then 104 else 0)
    ++ leBytes 1 slot ++ leBytes 1 (sealNo.getD 0xFF) ++ leBytes 8 (rdReg Reg.SXC_BOOT_BOOT.off d).toNat
    ++ leBytes 2 (rd (Reg.CIP_KINFO_LOADSEQ slot) d) ++ leBytes 14 0
  (padTo 256 (head ++ (if wrapped then kwpWrap d.keys.cipherWrap body else body)), d)

/-- CIPHER_PREEMPT_SAVE: the chosen lane saves its job's context, writes XFLAGS with the counts and then PREEMPTED, and takes the job that
caused it (R286, R302, R304). -/
def savePreempt (d : Dev) : Dev :=
  (getAccel 3 d).chosen.foldl (fun d c =>
    let (n, ring, idx) := c
    match (getLane 3 n d).job with
    | none => d
    | some (r, i) =>
      let b := descBytes 3 r i d
      let slot := fld b 3 1
      let wrapped := rd (Reg.CIP_KINFO_CLASS slot) d = 1
      let z := (getLane 3 n d).sealNo
      let (done, d) := drawUpTo (cipLen b) d
      let (o, d) := drawUpTo (min done (cipOutLen b)) d
      let (rec_, d) := cipContext b done z wrapped d
      let a := descAddr 3 r i d
      let d := storeMem (fld b 40 8) rec_ d
      let d := storeNat (a + 112) 1 7 (storeMem (a + 113) (2 :: counts done o 0) d)
      let p : Preempted := ⟨n, r, i, z, (getLane 3 n d).slice.start, rd (Reg.CIP_KINFO_LOADSEQ slot) d,
        (rdReg Reg.SXC_BOOT_BOOT.off d).toNat, wrapped⟩
      let d := modAccel 3 (fun a => { a with preempted := a.preempted ++ [p] }) d
      let d := bump Reg.CIP_PREEMPT_PREEMPTS (wr Reg.CIP_PREEMPT_HELD (getAccel 3 d).preempted.length d)
      let d := modLane 3 n (fun l => { l with job := none, sealNo := none, restored := false }) d
      if tget 0 (getAccel 3 d).next ring = idx ∧ descStartable 3 ring idx d then
        let d := modAccel 3 (fun a => { a with next := tset 0 a.next ring ((idx + 1) % 65536), rot := ring }) d
        showBusy 3 (sealFor 3 n ring idx (modLane 3 n (fun l =>
          { l with job := some (ring, idx), slice := { start := tempoNow d } }) d))
      else showBusy 3 d) d

end Sys2Proof.Machine
end

