-- ==== Sys2Proof/Machine/Adjourn.lean ====
section
/-!
DEFINITION. The conditions of entry to an Adjourned state and the ends of entries and wakes (spec/21_power_management.md, R597–R602),
and the DDR5 controllers (spec/23_electrical_and_package.md, R643, R645; spec/21_power_management.md, R604).
-/

namespace Sys2Proof.Machine

/-! ### The conditions of Table 21.4: SLICES, CONTEXTS, WINDOWS, DIRTY -/

/-- The rings of a cluster's engine hold a descriptor. -/
def engineHasWork (e : Nat) (d : Dev) : Bool :=
  (getEngine e d).slice.isSome || (getEngine e d).resume.isSome || ringFull (2 * e) d || ringFull (2 * e + 1) d

/-- A ring of an accelerator is not empty: its consumer index has not reached its producer index. -/
def accRingBusy (k : Nat) (d : Dev) : Bool := (List.range (accRings k)).any fun r => rd (accCons k r) d != rd (accProd k r) d

/-- The first engine of a cluster, or the first lane of the accelerators, that SLICES finds, as a unit code. For a ring that is not
empty the model names lane 0 of its accelerator, or the FIU. -/
def slicesCond (r : Nat) (d : Dev) : Option Nat :=
  if r < 8 then ((List.range 8).map (8 * r + ·)).find? (fun e => engineHasWork e d) |>.map (unitOf 1)
  else
    let lanes := [3, 4, 5, 6].flatMap fun k => (List.range (accLanes k)).map fun n => (k, n)
    match lanes.find? fun x => (getLane x.1 x.2 d).job.isSome with
    | some x => some (unitOf x.1 x.2)
    | none => match [3, 4, 5, 6].find? fun k => accRingBusy k d with
      | some k => some (unitOf k 0)
      | none => if (List.range 8).any fun r => ringFull (128 + r) d then some (unitOf 7 0) else none

/-- What CONTEXTS finds: a context number, or a unit code with bit 31 set. -/
def contextsCond (r : Nat) (d : Dev) : Option Nat :=
  if r < 8 then
    if rd (Reg.CL_CTRL_FUNCTION r) d ≠ 0 then none
    else ((d.cas.cmds.find? fun c => c.2.state == 1 && (getFc c.1 d).engine / 8 == r).map (·.2.ctx))
  else if !(getAccel 3 d).preempted.isEmpty then some (2 ^ 31 + unitOf 3 0)
  else (d.seals.find? fun s => s.2.used).map fun s => 2 ^ 31 + unitOf 3 s.2.lane

/-- The first window that is not CLOSED and satisfies a test. -/
def openWindow (p : Nat → Bool) (d : Dev) : Option Nat := (those 4096 fun i => winState i d != 0 && p i).head?

/-- The conditions of a region's entry into ADJ`st`, after STATE and BUSY (Table 21.4): cause and refuser. -/
def adjConditions (r st : Nat) (d : Dev) : Option (Nat × Nat) :=
  match slicesCond r d with
  | some w => some (1, w)
  | none => match contextsCond r d with
    | some w => some (4, w)
    | none => match (if r = 9 then openWindow (fun i => bitOf (winPerm i d) 3) d else none) with
      | some w => some (3, w)
      | none => if r < 8 ∧ st = 2 ∧ l2State r d ≠ 2 then some (2, r) else none

/-- The conditions of ADJ3 after STATE and BUSY (Table 21.4). For a dirty page or hot bucket Table 21.4 names no refuser. -/
def adj3Conditions (d : Dev) : Option (Nat × Option Nat) :=
  match ((List.range 8) ++ [9]).find? fun r => astateOf r d != 2 with
  | some r => some (1, some (if r < 8 then unitOf 1 (8 * r) else unitOf 3 0))
  | none => match d.front.ctxs.find? fun c => c.2.opn with
    | some c => some (4, some c.1)
    | none => match openWindow (fun _ => true) d with
      | some w => some (3, some w)
      | none => match d.stg.slots.find? fun s => s.2.state != 0 with
        | some s => some (2, some s.1)
        | none => if !d.ftl.dirty.isEmpty || !d.fiu.hotDirty.isEmpty then some (2, none) else none

/-! ### Entry and wake (R597–R602) -/

/-- What a cluster loses in ADJ2: the state of its engines and the contents of its L2. -/
def loseCluster (c : Nat) (d : Dev) : Dev :=
  let d := forEach ((List.range 8).map (8 * c + ·)) (fun e d =>
    showEngine e (modEngine e (fun g => { quar := g.quar }) d)) d
  modL2 c (fun l => { l with lines := [] }) d

/-- What the accelerators lose in ADJ2: the resident key slots and the digest key registers read empty after the wake. -/
def loseKeys (d : Dev) : Dev := forEach (List.range 256) zeroSlot { d with keys.digest := [] }

/-- Work that came for a region while it entered (R599). -/
def workWaits (r : Nat) (d : Dev) : Bool := (slicesCond r d).isSome

/-- The device is in ADJ3 (R597, R601): every crossing is closed, the balls are driven, the rails fall; the SXC stays on VSB at PL0
(R594) and keeps its timebase. -/
def enterAdj3 (d : Dev) : Dev :=
  let d := forEach (List.range 11) (fun r d => wr (Reg.PWR_LVL_ASTATE r) 3 (modRegion r (fun g => { g with clamped := true }) d)) d
  let d := wr (Reg.PWR_LVL_LVL 11) 0 { d with
    sxc.ram := vsbRam d, pwr.adj3Entering := false, pwr.adj3 := true, pwr.adj3Sec := d.tmp.sec, pwr.adj3WakeS := rd Reg.PWR_ADJ3_WAKE_S d
    pins.fatalN := true, pins.pwrcycReqN := true, pins.gpioDrive := 0, pins.pwrgood := false, tmp.ppsOut := false }
  sendAll [.pin .fatalN true, .pin .pwrcycReqN true, .pin .ppsOut false, .pin .gpio false, .pin .pwrgood false] d

/-- ADJ_ENTRY_DONE: a region finishes entering ADJ1 or ADJ2, region 15 (the device) ADJ3; in ADJ1 waiting work wakes it at once, and a
wake asked for meanwhile begins (R597–R599). Into ADJ2 a region goes only with its ledgers at full credits (R83). -/
def execAdjEntryDone (r : Fin 16) (s : State) : Host.Outcome State Fault Refusal :=
  runLive (fun d =>
    if r.val = 15 then (if d.pwr.adj3Entering then enterAdj3 d else d)
    else if astateOf r d ≠ 4 ∨ ((getRegion r d).entering = 2 ∧ !ledgersFull r d) then d
    else
      let g := getRegion r d
      let d := wr (Reg.PWR_LVL_ASTATE r) g.entering (modRegion r (fun g => { g with entering := 0 }) d)
      if g.entering = 2 then
        let d := if r.val < 8 then loseCluster r d else loseKeys d
        if g.wakeAfter then askWake r d else d
      else if g.wakeAfter || workWaits r d then beginWake r 1 d
      else d) s

/-- ADJ_WAKE_DONE: a region takes work again; after ADJ2 its crossing ledgers are initialised before the clamps release (R600, R602). -/
def execAdjWakeDone (r : Fin 12) (s : State) : Host.Outcome State Fault Refusal :=
  runLive (fun d =>
    if astateOf r d ≠ 5 then d
    else
      let d := if (getRegion r d).wakingFrom = 2 then initLedgers r d else d
      clr (Reg.PWR_LVL_ASTATE r) (modRegion r (fun g => { g with clamped := false, wakingFrom := 0 }) d)) s

/-! ### DDR5 (R604, R643, R645) -/

/-- DDR_THERMAL_POLL: every 1,000 tempi each channel's hottest DIMM sensor is read; above 85 °C the channel refreshes at twice the rate
(R643). -/
def execDdrThermalPoll (temps : List Int) (s : State) : Host.Outcome State Fault Refusal :=
  runLive (fun d =>
    if tempoNow d % 1000 ≠ 0 then d
    else
      let cs := those 8 fun c => rd (Reg.DDR_CH_DIMMS c) d != 0
      let t (c : Nat) : Int := (temps[c]?).getD 0
      let d := { d with pwr.ddrHot := cs.filter fun c => t c > 85 }
      forEach cs (fun c d => wr (Reg.DDR_CH_TEMP c) (twosOf 8 (t c)) d) d) s

/-- DDR_PATROL_LINE: with PATROL_EN a trained channel reads a line; `err` is the error over the symbols of the burst at sub-channel `sub`
(R645). -/
def execDdrPatrolLine (ch : Fin 8) (line : Nat) (err : BitVec 80) (sub : Bool) (s : State) : Host.Outcome State Fault Refusal :=
  runLive (fun d =>
    if rdb Reg.DDR_CTRL_PATROL_EN d && rd (Reg.DDR_CH_STATE ch) d == 2 then
      ddrBurst ch (b2n sub) (dramBase + line % 2 ^ 36 * 64) 8 err.toNat d
    else d) s

/-- DDR_REFRESH_ALL: a refresh-all starts only under a grant of class REFRESH, 60 tokens (R16, R604). -/
def execDdrRefreshAll (ch : Fin 8) (s : State) : Host.Outcome State Fault Refusal :=
  runLive (fun d =>
    if rd (Reg.DDR_CH_STATE ch) d ≠ 2 then d
    else if hasGrant (.ddr ch) 6 d then send (.refreshAll ch) (endHold (.ddr ch) 6 d)
    else postReq { who := .ddr ch, cls := 6, cost := 60 } d) s

end Sys2Proof.Machine
end

