-- ==== Sys2Proof/Machine/PairOps.lean ====
section
/-!
DEFINITION. The pair (spec/16_castling_and_cascade.md): heartbeats, the comparison of metadata, planned castling, the switch of owner
tables, rejoining.
-/

namespace Sys2Proof.Machine

/-! ### RECOVERY (R511, R537, Table 18.2) -/

/-- A resigned head enters RECOVERY: GLB_STATE and RCAUSE 7. Every path reports Persistent Loss there (R511, R537). -/
def enterRecovery (d : Dev) : Dev := wr Reg.GLB_STATE_RCAUSE 7 (wr Reg.GLB_STATE_STATE 3 d)

/-- Tear down every context without a completion (R511). -/
def teardownAll (d : Dev) : Dev :=
  let d := { d with cas.outputsHeld := true }
  forEach ((d.front.ctxs.filter (·.2.opn)).map (·.1)) teardown d

/-- A resigning head's hold ends (R511). -/
def endHoldRecovery (d : Dev) : Dev := enterRecovery (teardownAll d)

/-! ### Heartbeats (R503–R505, Table 16.2) -/

/-- Highest own TSN committed. -/
def tsnCommitted (d : Dev) : Nat := (d.stg.journal.filter (·.committed)).foldl (fun m r => max m r.tsn) d.md.tsnOwn

/-- The payload of Table 16.2. -/
def heartbeatBytes (d : Dev) : Bytes :=
  let flags := b2n (glbState d == 1) + 2 * b2n d.cas.declared.isSome + 4 * b2n (d.cas.claiming && !d.cas.castled)
    + 8 * b2n d.cas.castled + 16 * b2n d.cas.resigned.isSome + 32 * b2n (rdb Reg.PWR_STATUS_TT d)
  leBytes 1 (ownDev d) ++ leBytes 1 flags ++ leBytes 1 (glbState d) ++ [0] ++ leBytes 4 d.cas.hbSeq ++ leBytes 8 (tempoNow d)
    ++ leBytes 8 (tsnCommitted d) ++ leBytes 8 d.md.tsnPeer

/-- A frame that no ACK answers, to a DEV on a port. -/
def sendFrameTo (dst port type : Nat) (b : Bytes) (d : Dev) : Dev :=
  emitPkt dst port { type := type, tempo0 := tempoNow d, len := b.length } b false d

/-- A beacon or heartbeat of a DEV has come on a port (R470). -/
def hearDev (dev port : Nat) (d : Dev) : Dev :=
  showPaths (modPath dev port (fun x => { x with
    heard := some (tempoNow d), down := x.down && portRole port d == 1 }) d)

/-! ### Comparison (R507–R509, Table 16.3) -/

/-- The entries of a window: ACTION 0–4 of the SQUARES records of a head between two TSNs, by group (R507). -/
def windowEntries (head lo hi group : Nat) (d : Dev) : List (Nat × SqEntry) :=
  (d.cas.hist.filter fun r => r.head == head && lo < r.tsn && r.tsn ≤ hi && (getNs r.nsid d).group == group).flatMap fun r =>
    match r.body with
    | .squares es => (es.filter fun e => e.action ≤ 4).map fun e => (r.nsid, e)
    | _ => []

/-- The groups with entries in a window. -/
def windowGroups (head lo hi : Nat) (d : Dev) : List Nat :=
  ((d.cas.hist.filter fun r => r.head == head && lo < r.tsn && r.tsn ≤ hi && (windowEntries head lo hi (getNs r.nsid d).group d).length != 0).map
    fun r => (getNs r.nsid d).group).eraseDups

/-- The map value that an entry writes. -/
def entryValue (e : SqEntry) : Nat := if e.action = 3 then gidOnes else if e.action = 4 then 0 else e.newGid

/-- The map entry of a square as it stands. -/
def mapNow (nsid sq : Nat) (d : Dev) : Nat := mapGet (getNs nsid d).root (getNs nsid d).depth sq d

/-- The values to which the rekeyings applied since have changed a map entry of value `v` in place, `v` among them (R312). -/
def rekeyedTo (v : Nat) (d : Dev) : List Nat :=
  d.cas.hist.foldl (fun l r => match r.body with
    | .squares es => es.foldl (fun l e => if e.action = 11 ∧ l.contains e.oldGid then e.newGid :: l else l) l
    | _ => l) [v]

/-- A new granule's GTE as the moves applied since have placed it (R362). -/
def movedGte (gid : Nat) (g : Gte) (d : Dev) : Gte :=
  d.cas.hist.foldl (fun g r => match r.body with
    | .gcMove ms => ms.foldl (fun (g : Gte) m =>
        if m.1 = gid ∧ (g.seg, g.row, g.off) = m.2.1 then { g with seg := m.2.2.1, row := m.2.2.2.1, off := m.2.2.2.2 } else g) g
    | _ => g) g

/-- A new granule's GTE agrees with its record, once moves applied since are reckoned in: words 0, 1 and 3 without the flags INDEXED, LOST and
MOVING, which change under other rules. -/
def gteAgrees (gid : Nat) (w : Gte) (d : Dev) : Bool :=
  let g := getGte gid d
  let w := { movedGte gid w d with indexed := g.indexed, lost := g.lost, moving := g.moving }
  g.refcnt == 0 || gteW0 g == gteW0 w && gteW1 g == gteW1 w && g.crc == w.crc

/-- One entry's 44 bytes (R507), as the head read them back after it applied the entry: where state and record agree, once later records are
reckoned in, these are the record's values. -/
def entryString (later : List (Nat × SqEntry)) (x : Nat × SqEntry) (d : Dev) : Bytes :=
  let (n, e) := x
  let newest := !later.any fun y => y.1 == n && y.2.square == e.square
  let now := mapNow n e.square d
  let m := if newest && !(rekeyedTo (entryValue e) d).contains now then now else entryValue e
  let g := match e.gte with
    | some w => if gteAgrees e.newGid w d then w else getGte e.newGid d
    | none => getGte e.newGid d
  leBytes 4 n ++ leBytes 8 e.square ++ leBytes 8 m
    ++ (if e.action = 0 then leBytes 8 (gteW0 g) ++ leBytes 8 (gteW1 g) ++ leBytes 8 g.crc else List.replicate 24 0)

/-- The strings of a list of entries, in order. -/
def entryStrings (d : Dev) : List (Nat × SqEntry) → Bytes
  | [] => []
  | x :: xs => entryString xs x d ++ entryStrings d xs

/-- A group's digest over a window (R507). -/
def groupDigest (head lo hi group : Nat) (d : Dev) : Bytes := sha256 (entryStrings d (windowEntries head lo hi group d))

/-- Keep the last four windows of each side, and the records that they or later ones need. -/
def keepWindows (own : Bool) (window lo hi : Nat) (d : Dev) : Dev :=
  let mine := (d.cas.wins.filter fun w => w.1 == own) ++ [(own, window, lo, hi)]
  let wins := (d.cas.wins.filter fun w => w.1 != own) ++ mine.drop (mine.length - 4)
  let head := if own then ownHead d else 1 - ownHead d
  let low := (wins.filter fun w => w.1 == own).foldl (fun m w => min m w.2.2.1) lo
  { d with cas.wins := wins, cas.hist := d.cas.hist.filter fun r => r.head != head || low < r.tsn }

/-- A head rechecks a group's window (R509): it is wrong when a square's map entry, or a new granule's GTE words 0, 1 and 3, disagree with
the newest record for it, once the moves and rekeyings applied since are reckoned in. INDEXED, LOST and MOVING, which change under other
rules, are left out (log entry 97). -/
def recheckWrong (group window : Nat) (d : Dev) : Bool :=
  match d.cas.wins.find? fun w => w.2.1 == window && !(windowEntries (if w.1 then ownHead d else 1 - ownHead d) w.2.2.1 w.2.2.2 group d).isEmpty with
  | none => false
  | some w =>
    let head := if w.1 then ownHead d else 1 - ownHead d
    let all := d.cas.hist.flatMap fun r => match r.body with
      | .squares es => (es.filter fun e => e.action ≤ 4).map fun e => (r.nsid, e)
      | _ => []
    (windowEntries head w.2.2.1 w.2.2.2 group d).any fun x =>
      match (all.filter fun y => y.1 == x.1 && y.2.square == x.2.square).getLast? with
      | none => false
      | some (n, e) =>
        !(rekeyedTo (entryValue e) d).contains (mapNow n e.square d)
          || (e.action == 0 && (e.gte.any fun w => !gteAgrees e.newGid w d))

def modRecheck (group window : Nat) (f : Recheck → Recheck) (d : Dev) : Dev :=
  { d with cas.rechecks := d.cas.rechecks.map fun r => if r.group = group ∧ r.window = window then f r else r }

/-- Begin a recheck here, unless it runs: this head's result goes to the peer in RECHECK_ANS (R509). -/
def beginRecheck (group window : Nat) (d : Dev) : Dev :=
  if d.cas.rechecks.any fun r => r.group == group && r.window == window && r.mine.isSome then d
  else
    let w := recheckWrong group window d
    let d := if d.cas.rechecks.any fun r => r.group == group && r.window == window then d
      else { d with cas.rechecks := d.cas.rechecks ++ [{ group := group, window := window, own := ownsGroup group d }] }
    send (.recheckAns group window w) (modRecheck group window (fun r => { r with mine := some w }) d)

/-- The outcome of Table 16.3 on this head, once both results are known. Persistent Loss takes effect at the next edge (R177). -/
def decideRecheck (group window : Nat) (d : Dev) : Dev :=
  match d.cas.rechecks.find? fun r => r.group == group && r.window == window with
  | some r => match r.mine, r.peers with
    | some m, some p =>
      let d := { d with cas.rechecks := d.cas.rechecks.filter fun r => !(r.group == group && r.window == window) }
      if !m then d
      else
        let d := if p then { d with cas.lossNext := d.cas.lossNext ||| 2 ^ (group - 1) } else d
        raiseD Ev.PAIR_WRONG (unitOf 0x11 group) group window false (setb Reg.CAS_STATUS_WRONG_CHK d)
    | _, _ => d
  | none => d

/-- Compare the DIGEST messages whose records have been applied (R508). -/
def compareDigests (d : Dev) : Dev :=
  let (ready, wait) := d.cas.digests.partition fun m => m.hi ≤ d.md.tsnPeer
  let d := { d with cas.digests := wait }
  ready.foldl (fun (d : Dev) (m : DigestMsg) =>
    let d := keepWindows false m.window m.lo m.hi d
    let peer := 1 - ownHead d
    let gs := (m.entries.map (·.1) ++ windowGroups peer m.lo m.hi d).eraseDups
    forEach gs (fun (g : Nat) (d : Dev) =>
      let mine : Option Bytes := if (windowEntries peer m.lo m.hi g d).isEmpty then none else some (groupDigest peer m.lo m.hi g d)
      let theirs : Option Bytes := (m.entries.find? (·.1 == g)).map (·.2)
      let d := bump Reg.CAS_DIG_WINDOWS d
      if mine == theirs then d
      else
        let d := wr Reg.CAS_DIG_LAST_GROUP g (bump Reg.CAS_DIG_MISMATCH d)
        let d := raiseC Ev.PAIR_DIGEST (unitOf 0x11 g) g m.window (setb Reg.CAS_STATUS_DIGEST_CHK d)
        beginRecheck g m.window (send (.recheckReq g m.window) d)) d) d

/-! ### The owner table (R500, R516, R518, R622) -/

/-- Stage a table: CAS_ANA_APPLY takes a tempo number above the most recent edge's; 0 cancels (R622). -/
def stageOwners (v : Nat) (d : Dev) : Dev :=
  if v = 0 || tempoNow d < v then wr Reg.CAS_ANA_APPLY_TEMPO v d else d

/-- Tempi as units of 0.1 ms. -/
def tenthsMs (tempi : Nat) (d : Dev) : Nat := tempi * periodNs d / 100000

/-- The leaving head's part of the switch (R518): its slots are the peer's, which has adopted them; it is LEFT. -/
def leave (d : Dev) : Dev :=
  let d := { d with
    stg.slots := [], stg.reads := d.stg.reads.filter fun r => match r.2.who with | .merge _ | .compare _ => false | _ => true
    stg.capacity := [], cas.changing := 0, cas.plannedAt := none }
  wr Reg.CAS_STATUS_SELF 3 (showTight d)

/-- The groups a head owns, bit g - 1 of 128. -/
def ownGroups (d : Dev) : Nat := ((those 128 fun i => ownsGroup (i + 1) d).map fun i => 2 ^ i).sum

/-- The survivor sends the streams again (R463): every source transaction that no STREAM_ACK has covered, those of the peer from the mirrored
journal. A relationship whose acknowledged TSN of the peer lies before the last checkpoint is suspended: the mirror may lack records. -/
def resendStreams (d : Dev) : Dev :=
  let peer := 1 - ownHead d
  forEach ((d.md.rels.filter fun x => !x.2.target && x.2.streaming && x.2.state == 2).map (·.1)) (fun k d =>
    let x := getRel k d
    let ack := if peer = 0 then x.ackA else x.ackB
    if ack < d.outside.saved.tsnPeer && bitOf (ownGroups d) ((getNs x.nsid d).group - 1) = false then suspendRel k d
    else
      let recs := d.stg.mirrorJ.filter fun r => r.good && r.nsid == x.nsid && ack < r.tsn
      let more := recs.filterMap fun r => match r.body with
        | .squares es =>
          let es := es.filter fun e => e.action ≤ 4
          if es.isEmpty then none
          else some ({ head := peer, tsn := r.tsn, ms := nowMs d, items := es.map fun e =>
            ({ square := e.square, kind := if e.action ≤ 2 then 0 else e.action - 2, fp := e.fp }, e.newGid) } : OutTx)
        | _ => none
      pumpStream k (modRel k (fun x => { x with unacked := more ++ x.unacked.map fun u => { u with sent := false } }) d)) d

/-- The switch of R516 on the survivor: CASTLED, its Notice, the pauses of R506 released, the peer's partitions served (R235). -/
def switchOver (planned : Bool) (pages : Tab (Tab Bytes)) (d : Dev) : Dev :=
  let (t, cause) := d.cas.declared.getD (tempoNow d, 4)
  let d := pauseAll 3 0 { d with cas.castled := true, cas.switchPending := false, cas.noMajority := false, cas.changing := 0, cas.plannedRx := false }
  let d := setb Reg.CAS_STATUS_CASTLED (notice Ev.CAS_CASTLED 0 cause t d)
  let d := wr Reg.CAS_LAST_MS (tenthsMs (tempoNow d - t) d) d
  let d := if planned then d else wr Reg.CAS_STATUS_PEER 4 d
  showIndex (acquireParts ((servedParts d).filter fun p => ownerOf p d == peerDev d) pages d)

/-- A staged owner table applies at its edge (R500): the ANA Change event, a leaving head's switch, a survivor's switch. A
head that has resigned keeps every ANA state (R178, R511). -/
def applyAnaOwners (pages : Tab (Tab Bytes)) (d : Dev) : Dev :=
  if rd Reg.CAS_ANA_APPLY_TEMPO d = 0 || rd Reg.CAS_ANA_APPLY_TEMPO d ≠ tempoNow d || d.cas.resigned.isSome then d
  else
    let d := if d.cas.switchPending then resendStreams d else d
    let o0 := rd Reg.CAS_ANA_STG0_OWN d
    let o1 := rd Reg.CAS_ANA_STG1_OWN d
    let d := wr Reg.CAS_ANA_OWN0_OWN o0 (wr Reg.CAS_ANA_OWN1_OWN o1 (clr Reg.CAS_ANA_APPLY_TEMPO { d with md.owners := o0 + o1 * 2 ^ 64 }))
    let d := if d.cas.switchPending then switchOver d.cas.declared.isNone pages d
      else if d.cas.plannedAt.isSome then leave { d with cas.castled := false }
      else { d with cas.castled := d.cas.castled && o0 == allMine d && o1 == allMine d }
    anaChanged d

/-! ### Planned castling (R518) -/

/-- At the edge after the request: the head's groups report Change (R518). -/
def beginPlanned (d : Dev) : Dev :=
  if !d.cas.plannedReq then d
  else
    let d := { d with cas.plannedReq := false, cas.plannedAt := some (tempoNow d), cas.changing := ownGroups d }
    anaChanged d

/-- What changes the ANA states at this edge besides the owner table: a group wrong on both heads (Table 16.3), and the peer's groups while they
move here (R175, R177, R518). -/
def anaEdge (peerMoves : Bool) (d : Dev) : Dev :=
  let d := if d.cas.lossNext = 0 then d
    else anaChanged { d with cas.persistentLoss := d.cas.persistentLoss ||| d.cas.lossNext, cas.lossNext := 0 }
  if peerMoves && d.cas.hasPeer && glbState d == 1 && d.cas.declared.isNone && d.cas.resigned.isNone && !d.cas.castled then
    anaChanged { d with cas.changing := 2 ^ 128 - 1 - ownGroups d }
  else d

/-- A command of the moving groups is outstanding. -/
def plannedBusy (d : Dev) : Bool :=
  (d.cas.cmds.any fun r => r.2.state == 1 && r.2.nsid != 0 && bitOf d.cas.changing ((getNs r.2.nsid d).group - 1))
    || d.stg.rows.any (fun r => r.2.state != 0 && r.2.kind != 4)
    || d.stg.slots.any (fun s => s.2.state == 4 || s.2.state == 5)
    || d.stg.journal.any (fun r => !r.committed) || !d.stg.heldTx.isEmpty

/-- Every adopted member's fence word is written by FENCE_CAS with EPOCH raised by one (R518, R519). -/
def writeFences (bits : Nat → Nat) (d : Dev) : Dev :=
  forEach ((d.md.members.filter fun m => m.2.adopted).map (·.1)) (fun m d =>
    let (w, d) := readFence m d
    laneIssue m { opcode := 0x05, arg0 := w, arg1 := (w / 65536 + 1) % 2 ^ 48 * 65536 + bits (w % 4), use := .fence } d) d

/-- Some FENCE_CAS of that kind is outstanding. -/
def fencesOpen (d : Dev) : Bool :=
  d.lanes12.any fun l => l.2.cmds.any (fun c => c.2.use == .fence) || l.2.queue.any (fun c => c.use == .fence)

/-- The leaving head goes on once its commands have ended (R518): open rows close, built transactions commit; then RESIGN with cause 4
and its own bit leaves every fence word. -/
def advancePlanned (d : Dev) : Dev :=
  match d.cas.plannedAt with
  | none => d
  | some _ =>
    if d.cas.plannedRx then d
    else
      let d := forEach ((d.stg.rows.filter fun r => r.2.state == 1).map (·.1)) closeRow d
      if plannedBusy d then d
      else
        let d := send (.resign 4 (tempoNow d)) { d with cas.plannedRx := true }
        writeFences (fun w => w &&& (3 - 2 ^ ownHead d)) d

/-- The peer of a leaving head takes over without a claim, and stages the table on both heads (R500, R518). -/
def takePlanned (d : Dev) : Dev :=
  let all := allMine d
  let d := takeOver false all all (commitReady d)
  send (.ownerStage (rd Reg.CAS_ANA_APPLY_TEMPO d) all all) d

/-! ### Rejoining (R519, R520) -/

/-- The newest root of any pool. -/
def newestRoot (d : Dev) : Nat := ((poolList d).map fun p => (getPool p d).rootSeq).foldl max 0

/-- Copy what is not yet in the returning head's mirror: slots, command records, the journal since the checkpoint (R519). -/
def copyMirrors (d : Dev) : Dev :=
  let slots := (d.stg.slots.map (·.1)).map fun (n : Nat) => Out.mirrorSlot n
  let cmds := (d.cas.cmds.map (·.1)).map fun (n : Nat) => Out.mirrorCmd n
  let recs := (d.stg.journal.map (·.tsn)).map fun (n : Nat) => Out.mirrorRecord n
  sendAll (slots ++ cmds ++ recs) d

/-- The survivor's steps go on (R519): after its checkpoint the mirrors are copied and new writes mirrored; both port bits are set in
every fence word; then REJOIN_GRANT. -/
def advanceRejoin (d : Dev) : Dev :=
  match d.cas.rejoinStep with
  | 1 =>
    if d.ftl.ckpt.isSome || newestRoot d ≤ d.cas.rejoinRoot && !(poolList d).isEmpty then d
    else
      let d := { d with cas.declared := none, cas.claims := [], cas.claiming := false, cas.won := false, cas.noMajority := false
                        cas.rejoinStep := 2, cas.hbSeen := [], cas.resignRx := false, cas.fatalRx := false
                        cas.peerLost := false, cas.peerClaiming := false }
      writeFences (fun _ => 3) (copyMirrors d)
  | 2 =>
    if fencesOpen d then d
    else
      let covered := ((poolList d).map fun p => (getPool p d).covered).foldl max 0
      wr Reg.CAS_STATUS_PEER 1 (send (.rejoinGrant covered) { d with cas.rejoinStep := 0 })
  | _ => d

end Sys2Proof.Machine
end

