-- ==== Sys2Proof/Machine/Align.lean ====
section
/-!
DEFINITION. Beacons, the choice of the tempo master, and alignment (spec/02_tempo.md, R63–R68; spec/15_cerco_transport.md,
R496–R499).
-/

namespace Sys2Proof.Machine

/-! ### Health and the choice of the master (R63, R64, R68) -/

/-- A Double check against the tempo unit or the Cerco transport: Table 20.2 has no kind for either, so it is a code of block 0x01 or 0x36
that names no engine and no lane, or any code that names a Cerco port (DEDUCED, log entry 155). -/
def againstTempo (code unit : Nat) : Bool :=
  ((code / 256 == 0x01 || code / 256 == 0x36) && !([0x01, 0x03, 0x04, 0x05, 0x06].contains (unit / 256))) || unit / 256 == 0x09

/-- Such a Double check stands open (R63). -/
def tempoFaulty (d : Dev) : Bool :=
  (List.range 32).any fun j => rdb (Reg.FLT_DCHK_OPEN j) d
    && againstTempo (rd (Reg.FLT_DCHK_CODE j) d) (rd (Reg.FLT_DCHK_UNIT j) d)

/-- A mismatch of period stands: the device does not follow and is never healthy (R68). -/
def periodDiffers (d : Dev) : Bool :=
  let m := rd Reg.TMP_STATUS_MASTER d
  d.tmp.chosen && m != ownDev d && (tget {} d.tmp.beacons m).period != rd Reg.TMP_CTRL_PERIOD d

/-- This device is healthy for tempo purposes. -/
def tempoHealthy (d : Dev) : Bool :=
  glbState d == 1 && !tempoFaulty d && d.flt.checkmateIn.isNone && !periodDiffers d
    && (rdb Reg.TMP_STATUS_IS_MASTER d || rdb Reg.TMP_STATUS_ALIGNED d)

/-- A device of the cluster as its latest beacon shows it; this device as it stands. -/
def tempoInfo (v : Nat) (d : Dev) : BeaconInfo :=
  if v = ownDev d then
    { heard := true, service := glbState d == 1, healthy := tempoHealthy d, lock := rdb Reg.TMP_STATUS_LOCK d
      period := rd Reg.TMP_CTRL_PERIOD d }
  else if d.cdt.present.contains v then tget {} d.tmp.beacons v else {}

/-- The master that the rules of R63 choose, a lost one left out (R64). -/
def masterChoice (skip : Option Nat) (d : Dev) : Option Nat :=
  let c := those 8 fun v => (tempoInfo v d).heard && skip != some v
  if c == [ownDev d] then some (ownDev d)
  else
    let named := rd Reg.TMP_CTRL_MASTER_DEV d
    let healthy (v : Nat) : Bool := (tempoInfo v d).healthy
    if c.contains named && healthy named then some named
    else match c.find? fun v => healthy v && (tempoInfo v d).lock with
      | some v => some v
      | none => match c.find? healthy with
        | some v => some v
        | none => c.find? fun v => (tempoInfo v d).service

/-- This device is its own source: the master, or one that does not follow (R63, R68). -/
def stopFollowing (d : Dev) : Dev := showTimeSrc { d with tmp.following := false, tmp.alReq := none, tmp.alMissed := 0 }

/-- Take a master (R63, R67, R68). A device that begins to follow is aligned only after four exchanges. -/
def takeMaster (m : Nat) (d : Dev) : Dev :=
  let d := wr Reg.TMP_STATUS_MASTER m { d with tmp.chosen := true }
  if m = ownDev d then
    wr Reg.TMP_ALIGN_OFS 0 (stopFollowing (setb Reg.TMP_STATUS_ALIGNED (setb Reg.TMP_STATUS_IS_MASTER { d with tmp.periodBad := none })))
  else
    let began := rdb Reg.TMP_STATUS_IS_MASTER d || !d.tmp.following
    let d := clr Reg.TMP_STATUS_IS_MASTER d
    if periodDiffers d then
      let d := stopFollowing (clr Reg.TMP_STATUS_ALIGNED d)
      if d.tmp.periodBad ≠ some m then
        raiseC Ev.TEMPO_PERIOD (unitOf 0x13 m) 0 0 (setb Reg.TMP_STATUS_PERIOD_CHK { d with tmp.periodBad := some m })
      else d
    else
      let d := if began then clr Reg.TMP_STATUS_ALIGNED { d with tmp.alIn := 0, tmp.alOut := 0 } else d
      endPowerUpSrc ({ d with tmp.following := true, tmp.periodBad := none, tmp.alMissed := 0 })

/-- At a beacon edge the choice is made (R64). -/
def chooseMaster (d : Dev) : Dev :=
  match masterChoice none d with
  | some m => takeMaster m d
  | none => d

/-- At an alignment edge after three missed exchanges the choice is repeated without the lost master (R64). -/
def loseMaster (d : Dev) : Dev :=
  if d.tmp.alMissed < 3 then d
  else match masterChoice (some (rd Reg.TMP_STATUS_MASTER d)) d with
    | some m => takeMaster m { d with tmp.alMissed := 0, tmp.following := false }
    | none => stopFollowing d

/-! ### Beacons (R496–R498) -/

/-- The payload of Table 15.8. -/
def beaconBytes (d : Dev) : Bytes :=
  let flags := b2n (tempoHealthy d) + 2 * b2n (rdb Reg.TMP_STATUS_LOCK d) + 4 * b2n (rdb Reg.TMP_STATUS_IS_MASTER d)
    + 8 * b2n (glbState d == 1) + 16 * ownHead d
  let ports := ((those 4 fun p => rdb (Reg.CDT_PORT_UP p) d).map fun p => 2 ^ p).sum
  leBytes 1 (ownDev d) ++ leBytes 1 flags ++ leBytes 1 (rd Reg.TMP_CTRL_PERIOD d) ++ leBytes 1 ports
    ++ leBytes 4 (rd Reg.FIU_OWN_VER_VERSION d) ++ leBytes 8 d.nv.serial ++ leBytes 8 (tempoNow d)
    ++ leBytes 1 (rd Reg.TMP_CTRL_MASTER_DEV d) ++ List.replicate 7 0

/-- BEACON_SEND: at every edge whose number is a multiple of 1,000, on each port whose role is not UNUSED (R496). -/
def execBeaconSend (s : State) : Host.Outcome State Fault Refusal :=
  runLive (fun d =>
    if !rdb Reg.CDT_CTRL_EN d || tempoNow d % 1000 != 0 then d
    else
      let b := beaconBytes d
      forEach (those 4 fun p => portRole p d != 0 && rdb (Reg.CDT_PORT_UP p) d) (fun p d => sendFrameTo 0xFE p 0x10 b d) d) s

/-- BEACON: presence, the data of R63, and the binding of a DEV number to a SERIAL (R497, R498). -/
def execBeacon (f : CdtFrame) (s : State) : Host.Outcome State Fault Refusal :=
  runLive (fun d =>
    let (ok, d) := frameWhole f d
    let b := f.payload
    let v := fld b 0 1
    let p := f.port % 4
    if !ok || f.hdr.type != 0x10 || b.length != 32 || v ≥ 8 || v == ownDev d then d
    else
      let bound := tget none d.cdt.serials v
      if bound.isSome && bound != some (fld b 8 8) then
        let seen := d.cdt.alien.any fun k => k / 4 == v
        let d := { d with cdt.alien := if d.cdt.alien.contains (pathKey v p) then d.cdt.alien else d.cdt.alien ++ [pathKey v p] }
        if seen then d
        else raiseC Ev.CDT_DEV_CLASH (unitOf 0x13 v) v 0 (setb Reg.CDT_STATUS_CLASH_CHK d)
      else
        let fl := fld b 1 1
        let info : BeaconInfo := {
          heard := true, healthy := bitOf fl 0, lock := bitOf fl 1, isMaster := bitOf fl 2, service := bitOf fl 3
          period := fld b 2 1, boot := f.hdr.boot, serial := fld b 8 8, master := fld b 24 1, ownVer := fld b 4 4
          lastTempo := fld b 16 8 }
        let d := { d with
          cdt.serials := tset none d.cdt.serials v (some (fld b 8 8))
          cdt.alien := d.cdt.alien.filter (· != pathKey v p)
          tmp.beacons := tset {} d.tmp.beacons v info }
        hearDev v p d) s

/-! ### Alignment (R65–R67, R499) -/

/-- A 12-byte timestamp in units of 2^-16 ns: seconds, nanoseconds, fraction. -/
def stampOf (b : Bytes) : Int := ((fld b 0 6 * 1000000000 + fld b 6 4) * 65536 + fld b 10 2 : Nat)

/-- PERIODIC_ALIGN_EXCHANGE: every 16 tempi a follower sends ALIGN_REQ on its lowest-numbered port with a path to the master, its
departure stamp `t1` in it (R499). Without a path the exchange goes unanswered. -/
def execPeriodicAlignExchange (t1 : BitVec 96) (s : State) : Host.Outcome State Fault Refusal :=
  runLive (fun d =>
    if !d.tmp.following || tempoNow d % 16 != 0 then d
    else
      let m := rd Reg.TMP_STATUS_MASTER d
      let d := { d with tmp.alReq := some (tempoNow d) }
      match pathPorts m d with
      | p :: _ => sendFrameTo m p 0x11 (leBytes 12 t1.toNat) d
      | [] => d) s

/-- ALIGN_REQ: the master answers on the same port with t1, its arrival stamp `t2` and its departure stamp `t3` (R499). -/
def execAlignReq (f : CdtFrame) (t2 t3 : BitVec 96) (s : State) : Host.Outcome State Fault Refusal :=
  runLive (fun d =>
    let (ok, d) := frameOk f d
    if !ok || f.hdr.type != 0x11 || f.payload.length != 12 || !rdb Reg.TMP_STATUS_IS_MASTER d then d
    else sendFrameTo f.hdr.src (f.port % 4) 0x12 (f.payload ++ leBytes 12 t2.toNat ++ leBytes 12 t3.toNat) d) s

/-- An exchange has given an offset, in units of 2^-16 ns, in a fabric cycle of the tempo: the slew (R65), TMP_ALIGN.OFS in units of
0.125 ns, the runs of R67. -/
def takeOffset (ofs : Int) (cyc : Nat) (d : Dev) : Dev :=
  let d := { countTime cyc d with tmp.alReq := none, tmp.alMissed := 0, tmp.padjFs := ofs * 1000000 / 65536 }
  let d := wr Reg.TMP_PADJ_PADJ (twosOf 32 (d.tmp.padjFs.tdiv 1000000)) d
  let e := ofs.tdiv 8192
  let d := if -32768 ≤ e ∧ e ≤ 32767 then wr Reg.TMP_ALIGN_OFS (twosOf 16 e) d
    else let (v, d) := drawNat 65536 d; wr Reg.TMP_ALIGN_OFS v d
  if ofs.natAbs ≤ 5 * 65536 then
    let d := { d with tmp.alIn := min 4 (d.tmp.alIn + 1), tmp.alOut := 0 }
    if d.tmp.alIn = 4 then setb Reg.TMP_STATUS_ALIGNED d else d
  else
    let n := d.tmp.alOut + 1
    let d := { d with tmp.alIn := 0, tmp.alOut := min 5 n }
    if n = 4 then raiseC Ev.TEMPO_ALIGN 0 0 0 (setb Reg.TMP_STATUS_ALIGN_CHK (clr Reg.TMP_STATUS_ALIGNED d)) else d

/-- ALIGN_RESP: the offset ((t2 - t1) - (t4 - t3)) / 2 from the master, `t4` the arrival stamp (R65, R499). -/
def execAlignResp (f : CdtFrame) (t4 : BitVec 96) (cyc : Nat) (s : State) : Host.Outcome State Fault Refusal :=
  runLive (fun d =>
    let (ok, d) := frameOk f d
    let m := rd Reg.TMP_STATUS_MASTER d
    match d.tmp.alReq with
    | none => d
    | some t =>
      if !ok || f.hdr.type != 0x12 || f.payload.length != 36 || !d.tmp.following || f.hdr.src != m || t + 8 ≤ tempoNow d then d
      else
        let st (i : Nat) : Int := stampOf (f.payload.drop (12 * i))
        takeOffset (((st 1 - st 0) - (stampOf (leBytes 12 t4.toNat) - st 2)) / 2) cyc d) s

/-- ALIGN_EXCHANGE_MISSED: no ALIGN_RESP within 8 tempi; three in a row repeat the choice at the next alignment edge (R64, R499). Whether
a missed exchange breaks the runs of R67 is not stated: both runs stand (DESIGN CHOICE, log entry 134). -/
def execAlignExchangeMissed (s : State) : Host.Outcome State Fault Refusal :=
  runLive (fun d =>
    match d.tmp.alReq with
    | some t => if tempoNow d ≥ t + 8 then { d with tmp.alReq := none, tmp.alMissed := min 3 (d.tmp.alMissed + 1) } else d
    | none => d) s

end Sys2Proof.Machine
end

