-- ==== Sys2Proof/Machine/Ftl.lean ====
section
/-!
DEFINITION. The commands of flash translation and of rebuild: checkpoints, segments, collection, erases, scrubbing, time trouble, members
(spec/11_flash_translation.md; spec/13_stripes_and_rebuild.md).
-/

namespace Sys2Proof.Machine

/-! ### Checkpoints (R348–R351, R373, R417, R422) -/

/-- The page-table pages above some pages: a radix tree of 512 locations a page (R348). -/
def tablePages (ps : List Nat) : List Nat :=
  ((List.range 7).flatMap fun l => ps.map fun p => 9 * 2 ^ 60 + l * 2 ^ 56 + p / 512 ^ (l + 1)).eraseDups

/-- Close the open metadata row, so that its pages are programmed. -/
def closeMeta (d : Dev) : Dev :=
  match openRowOf 64 2 d with
  | some n => closeRow n d
  | none => d

/-- Some metadata page written is not yet programmed. -/
def metaInFlight (d : Dev) : Bool := d.stg.rows.any fun r => r.2.kind == 2 && r.2.state != 0

/-- Write pages of a checkpoint; those left wait for a segment. -/
def ckptPages (c : Ckpt) (ps : List Nat) (d : Dev) : Dev :=
  let (l, d) := writePages ps d
  closeMeta { d with ftl.ckpt := some { c with left := l } }

/-- Begin a checkpoint at the TSN applied (R350): dirty hot buckets and read counters come into pages, and every dirty page is
written. -/
def beginCheckpoint (d : Dev) : Dev :=
  let d := flushHot d
  let d := d.md.reads.foldl (fun d r => touchPage 8 (r.1 / 1024) d) d
  let c : Ckpt := { tsn := d.md.tsnOwn, md := d.md, pages := d.ftl.dirty }
  ckptPages c c.pages d

/-- The pool roots are written and CHECKPOINT is built (R350): the roots name the armed side, and the other is erased (R380); the layout
generations take effect. -/
def writeRoots (c : Ckpt) (d : Dev) : Dev :=
  let ps := poolList d
  let root (t : Tab Pool) : Tab Pool := t.map fun (p : Nat × Pool) =>
    (p.1, { p.2 with rootSeq := p.2.rootSeq + (if p.2.exists_ then 1 else 0), covered := c.tsn })
  let seq := ((ps.map fun p => (getPool p d).rootSeq).foldl max 0) + 1
  let d := chooseGroups (forEach ps takeLayout { d with md.pools := root d.md.pools, ftl.ckpt := none })
  let saved : Meta := { c.md with pools := d.md.pools, members := d.md.members }
  postRecord 0 (.checkpoint seq c.tsn) { d with
    outside.saved := saved, outside.index := d.fiu.buckets, outside.armed := d.ftl.armed, outside.groups := d.ftl.groups
    outside.sideBlocks := d.ftl.sideBlocks, outside.wkt := d.keys.wkt, outside.ikt := d.keys.ikt
    outside.sides := match d.ftl.armed with
      | some a => tset none d.outside.sides (1 - a) none
      | none => d.outside.sides }

/-- CHECKPOINT: the next part of a checkpoint: the dirty pages; once they are programmed, the page-table pages; once those are, the
pool roots (R350). -/
def execCheckpoint (s : State) : Host.Outcome State Fault Refusal :=
  runLive (fun d =>
    if inTrouble d || (poolList d).isEmpty then d
    else match d.ftl.ckpt with
      | none => beginCheckpoint d
      | some c =>
        if metaInFlight d then d
        else if !c.left.isEmpty then ckptPages c c.left d
        else if !c.table then ckptPages { c with table := true } (tablePages c.pages) d
        else writeRoots c d) s

/-! ### Segments -/

/-- SEGMENT_OPEN: a head takes a layout line and the least-worn blocks of its parity; `kind` as a row's (R356, R358, R408, R409, R418,
R654). -/
def execSegmentOpen (pool : Fin 32) (kind : Fin 4) (s : State) : Host.Outcome State Fault Refusal :=
  runLive (fun d =>
    if inTrouble d then d
    else match openSegment pool (kindGc kind) (kindMeta kind) d with
      | some (_, d) => d
      | none => d) s

/-- SEGMENT_CLOSE_SHORT: issued rows complete, rows not issued are requeued, SEG_CLOSE commits (R655). -/
def execSegmentCloseShort (seg : Nat) (s : State) : Host.Outcome State Fault Refusal :=
  runLive (fun d => if ownSeg seg d then closeShort seg d else d) s

/-! ### Collection (R358–R363, R366, R375, R431) -/

/-- A score as a fraction (R359, R352). -/
def gcScore (g : Seg) (d : Dev) : Nat × Nat :=
  let t := g.rows * g.w * 4096
  let l := min g.live t
  let h := rd Reg.MDL_FT_GC_AHALF d * 1000000000
  let a := (tempoNow d - g.closeTempo) * periodNs d
  ((t - l) * min (4 * h) (h + a) * (256 * 65536 + rd Reg.MDL_FT_GC_KW d * (65536 - g.wf)), (t + l) * h * (256 * 65536))

/-- A rebuild of the segment has begun (R431). -/
def rebuildBegun (s : Nat) (d : Dev) : Bool :=
  d.stg.rows.any (fun r => r.2.kind == 4 && r.2.seg == s) || (getRebuild s d).any fun r => r.repl.any fun x => x.issued != 0

/-- A CLOSED segment of this head's that may be collected. -/
def collectable (s : Nat) (d : Dev) : Bool := (getSeg s d).state == 2 && ownSeg s d && !rebuildBegun s d

/-- The highest score of a pool's segments, META ones or the others, ties to the lower number (R359, R366). -/
def bestScore (p : Nat) (isMeta : Bool) (d : Dev) : Option (Nat × (Nat × Nat)) :=
  let cs := (d.md.segs.filter fun s => collectable s.1 d && s.2.pool == p && s.2.isMeta == isMeta && !s.2.gc).map fun s =>
    (s.1, gcScore s.2 d)
  cs.foldl (fun (b : Option (Nat × (Nat × Nat))) c =>
    match b with
    | none => some c
    | some q => if q.2.1 * c.2.2 < c.2.1 * q.2.2 ∨ (q.2.1 * c.2.2 = c.2.1 * q.2.2 ∧ c.1 < q.1) then some c else b) none

/-- Show whether a collection runs (Table 11.11). -/
def showGc (d : Dev) : Dev :=
  wr Reg.MDL_FT_STATUS_GC_ACTIVE (b2n (d.md.segs.any fun s => s.2.state == 3 && ownSeg s.1 d)) d

/-- Choose a segment: it is COLLECTING, leaves the relocation queue and the rebuild queue (R359, R360, R431). -/
def takeSegment (s score : Nat) (d : Dev) : Dev :=
  let d := { modSeg s (fun g => { g with state := 3 }) d with
    ftl.reloc := d.ftl.reloc.filter (· != s), ftl.gcRow := tset 0 d.ftl.gcRow s 0
    ftl.rebuild := d.ftl.rebuild.filter (·.seg != s) }
  let d := dropPipe 5 (.scrub s) (dropPipe 5 (.rebuild s) d)
  showRebuild (showGc (wr Reg.MDL_FT_LAST_SEG s (wr Reg.MDL_FT_LAST_SCORE score d)))

/-- A pool is collected from below LOW_PCT until it reaches HIGH_PCT (R358). -/
def noteCollecting (p : Nat) (d : Dev) : Dev :=
  if freeBelow p (rd Reg.MDL_FT_GC_LOW_PCT d) d then { d with ftl.gcPools := (d.ftl.gcPools ++ [p]).eraseDups }
  else if freeBelow p (rd Reg.MDL_FT_GC_HIGH_PCT d) d then d
  else { d with ftl.gcPools := d.ftl.gcPools.filter (· != p) }

/-- GC_SELECT: the oldest segment queued for relocation, else the one with the highest score (R358, R359, R366). One segment of a pool
and kind is collected at a time. -/
def execGcSelect (pool : Fin 32) (isMeta : Bool) (s : State) : Host.Outcome State Fault Refusal :=
  runLive (fun d =>
    let d := noteCollecting pool d
    let mine (s : Nat) : Bool := (getSeg s d).pool == pool.val && (getSeg s d).isMeta == isMeta
    if !rdb Reg.MDL_FT_GC_GC_EN d || inTrouble d || d.md.segs.any (fun x => x.2.state == 3 && ownSeg x.1 d && mine x.1) then d
    else match d.ftl.reloc.find? fun s => mine s && collectable s d with
      | some s => takeSegment s 0xFFFFFF d
      | none =>
        if !d.ftl.gcPools.contains pool.val then d
        else match bestScore pool isMeta d with
          | some (s, n, m) => takeSegment s (if m = 0 then 0 else n * 65536 / m) d
          | none => d) s

/-- A frame's header and tag stand under a key; without one only the header is looked at (R361, Table 10.2). -/
def frameStands (gid : Nat) (e : Gte) (key : Option Bytes) (f : Bytes) : Bool :=
  headerOk gid e f && match key with
    | none => true
    | some k => frameTagOk gid e k f

/-- The key for stage 2 of a copy: none for a domain that has been removed; nothing while the key cannot be used (R361). -/
def copyKey (gid : Nat) (e : Gte) (d : Dev) : Option (Option Bytes) × Dev :=
  let (s, i, g) := frameKey gid e
  let (dom, d) := sptDomain i d
  if s = 1 ∧ !dom.valid then (some none, d)
  else match useKey s i g d with
    | (.ok k, d) => (some (some k), d)
    | (.error _, d) => (none, d)

/-- How the copy of one frame stands: its bytes, waiting for its key, or unrecoverable. -/
inductive CopyPlan | bytes (b : Bytes) | wait | lost
  deriving DecidableEq, Repr

/-- The columns of a frame all lie among those read. -/
def covers (e : Gte) (cols : List (Nat × Bytes)) : Bool := (frameColumns e).all fun c => cols.any fun x => x.1 == c.1

/-- Read a frame of a row and verify it; a frame that fails goes through its row's other columns (R361, R337–R340). -/
def planCopy (s row : Nat) (bad : List Nat) (gid : Nat) (e : Gte) (d : Dev) : CopyPlan × Dev :=
  let direct := (readRow (getSeg s d) row bad d).1
  match copyKey gid e d with
  | (none, d) => (.wait, d)
  | (some key, d) =>
    if covers e direct && frameStands gid e key (frameIn e direct) then (.bytes (frameIn e direct), d)
    else
      let worse := if covers e direct then bad ++ (frameColumns e).map (·.1) else bad
      if !laneServes 5 d then (.wait, d)
      else match recoverAt s row worse d with
      | some cols => if frameStands gid e key (frameIn e cols) then (.bytes (frameIn e cols), d) else (.lost, d)
      | none => (.lost, d)

/-- Count the page reads of a frame (R373). -/
def countFrame (s : Nat) (e : Gte) (d : Dev) : Dev :=
  let g := getSeg s d
  ((frameColumns e).flatMap fun c => columnPages e (((g.cols)[c.1]?).getD {}) c.2.1 c.2.2 d).foldl
    (fun d p => countRead p.member p.block d) d

/-- Copy one granule's frame into the engine's collection row: MOVING is set (R360); an unrecoverable one is LOST (R361). Answers
whether the scan goes on. -/
def copyGranule (e s row : Nat) (bad : List Nat) (gid : Nat) (acc : Bool × Dev) : Bool × Dev :=
  let (ok, d) := acc
  let x := getGte gid d
  match planCopy s row bad gid x (countFrame s x d) with
  | (.bytes b, d) =>
    match placeFrame e (getSeg s d).pool 1 ⟨gid, none, 0, x.slen, b, some (s, row, x.off)⟩ d with
    | (some _, d) => (ok, putGte gid { getGte gid d with moving := true } d)
    | (none, d) => (false, d)
  | (.wait, d) => (false, d)
  | (.lost, d) =>
    let missing := (readRow (getSeg s d) row bad d).2.length
    (ok, raiseC Ev.RD_LOST 0 gid 0 (markLost gid 3 missing d))

/-- Copy one metadata page (R366); one that cannot be rebuilt is lost (R349). -/
def copyPage (e s row : Nat) (bad : List Nat) (page : Nat × Nat) (acc : Bool × Dev) : Bool × Dev :=
  let (ok, d) := acc
  let slot := page.2 % 4096
  let place : Gte := { seg := s, row := row, off := 260 * slot, slen := 260 }
  match recoverAt s row bad d with
  | some cols =>
    match placeFrame e (getSeg s d).pool 3 ⟨page.1, none, 0, 260, frameIn place cols, some (s, row, slot)⟩ (countFrame s place d) with
    | (some _, d) => (ok, d)
    | (none, d) => (false, d)
  | none => (ok, raiseD Ev.FT_MD_LOST 0 page.2 page.1 false d)

/-- The frames of a row's data space from an offset in 16-byte units, header by header: each is stepped over by its length, padding too,
and the scan ends at the first header whose MAGIC is not 0x51A7 (R217). Answers offset and GID of those that are not padding. -/
def chainFrames (w : Nat) (cols : List (Nat × Bytes)) : Nat → Nat → List (Nat × Nat)
  | 0, _ => []
  | n + 1, off =>
    if 16 * off + 32 > 65536 * w then []
    else
      let h := frameIn { off := off, slen := 2 } cols
      let len := leNat ((h.drop 4).take 2)
      if h.take 2 != [0xA7, 0x51] then []
      else
        let rest := chainFrames w cols n (off + (48 + len + padOf len) / 16)
        if bitOf (leNat ((h.drop 3).take 1)) 2 then rest else (off, leNat ((h.drop 8).take 8)) :: rest

/-- The live granules of a row that are not being copied (R360): those that the scan of the row meets, in its order; then those whose
frames it does not reach because a header before them is bad or unreadable (DESIGN CHOICE, log entry 75). -/
def liveGranules (s row : Nat) (cols : List (Nat × Bytes)) (d : Dev) : List Nat :=
  let live := (d.md.gtes.filter fun g => g.2.seg == s && g.2.row == row && g.2.refcnt != 0 && !g.2.lost && !g.2.moving).map (·.1)
  let w := (getSeg s d).w
  let met := (chainFrames w cols (4096 * w) 0).filterMap fun x => if live.contains x.2 && (getGte x.2 d).off == x.1 then some x.2 else none
  met ++ live.filter fun g => !met.contains g

/-- The live pages of a row that are not being copied (R366). -/
def livePages (s row : Nat) (d : Dev) : List (Nat × Nat) :=
  d.md.pages.filter fun p => p.2 / 4096 == s * 4096 + row && !(d.stg.rows.any fun r => r.2.kind == 3 && r.2.frames.any (·.gid == p.1))

/-- The accelerators whose jobs the copy of a row's frames takes: the cipher engine for stage 2, the erasure engine for columns that do
not read straight (R361, R653). -/
def copyJobs (s row : Nat) (bad : List Nat) (d : Dev) : List Nat :=
  let g := getSeg s d
  let (cols, miss) := readRow g row bad d
  let gs := if g.isMeta then [] else liveGranules s row cols d
  (if gs.any fun x => (copyKey x (getGte x d) d).1 != some none then [3] else [])
    ++ if miss.isEmpty || miss.length > 2 || (if g.isMeta then (livePages s row d).isEmpty else gs.isEmpty) then [] else [5]

/-- Scan one row of a segment. Columns that do not read straight cost a rebuild-row grant (R338). Answers whether the row is
finished; it waits while a job it takes has no lane. -/
def scanRow (e s row : Nat) (bad : List Nat) (d : Dev) : Bool × Dev :=
  let g := getSeg s d
  let miss := (readRow g row bad d).2
  let who := TokWho.engine e
  if !miss.isEmpty && miss.length ≤ 2 && !hasGrant who 3 d then
    (false, postReq { who := who, cls := 3, cost := (columnsRead g.w ((miss[0]?).getD 255) ((miss[1]?).getD 255)).length } d)
  else
    match ownJobs (.copy s) (copyJobs s row bad d) d with
    | (false, d) => (false, d)
    | (true, d) =>
    let d := if miss.isEmpty then d else endHold who 3 d
    if g.isMeta then (livePages s row d).foldl (fun acc p => copyPage e s row bad p acc) (true, d)
    else (liveGranules s row (readRow g row bad d).1 d).foldl (fun acc p => copyGranule e s row bad p acc) (true, d)

/-- GC_COPY: a flash-translation engine scans the next row of a segment: a row queued by itself, ahead of scored segments, or the next
row of a COLLECTING one; `bad` lists columns whose pages end their ladder unreadable (R360, R361, R366, R375). -/
def execGcCopy (e : Fin 64) (seg : Nat) (bad : List Nat) (s : State) : Host.Outcome State Fault Refusal :=
  runLive (fun d =>
    if inTrouble d || rd (Reg.CL_CTRL_FUNCTION (e.val / 8)) d != 2 || engineOut e d || !ownSeg seg d then d
    else
      let g := getSeg seg d
      match if g.state == 2 then d.ftl.relocRows.find? (·.1 == seg) else none with
      | some (_, row) =>
        let (ok, d) := scanRow e seg row bad d
        if ok then { d with ftl.relocRows := d.ftl.relocRows.filter (· != (seg, row)) } else d
      | none =>
        let row := tget 0 d.ftl.gcRow seg
        if g.state ≠ 3 || (!g.relocate && d.ftl.relocRows.any fun r => (getSeg r.1 d).state == 2 && ownSeg r.1 d) then d
        else if row ≥ g.rows then
          (if g.live ≠ 0 && !(d.stg.rows.any fun r => r.2.frames.any fun f => f.src.any (·.1 == seg)) then
            { d with ftl.gcRow := tset 0 d.ftl.gcRow seg 0 } else d)
        else
          let (ok, d) := scanRow e seg row bad d
          if ok then { d with ftl.gcRow := tset 0 d.ftl.gcRow seg (row + 1) } else d) s

/-- Every column of a row has ended in success. -/
def rowWhole (r : Row) (d : Dev) : Bool := (List.range (getSeg r.seg d).cols.length).all fun c => tget 0 r.cols c == 1

/-- GC_MOVE_COMMIT: a collection row is programmed; GC_MOVE, or PAGE_MAP for metadata, is built for its frames (R362, R366). -/
def execGcMoveCommit (row : Nat) (s : State) : Host.Outcome State Fault Refusal :=
  runLive (fun d =>
    let r := getRow row d
    if r.state = 3 ∧ r.void ∧ rowWhole r d then closeWhenIdle r.seg (requeueRows [row] (endHold (.engine (rowEngine row d)) 1 d))
    else if r.state ≠ 3 ∨ (r.kind ≠ 1 ∧ r.kind ≠ 3) ∨ inTrouble d ∨ metaStalled d ∨ !rowWhole r d
        ∨ (rowsOf r.seg true d).any (fun n => (getRow n d).row < r.row) then d
    else rowDone row (endHold (.engine (rowEngine row d)) 1 d)) s

/-- A move out of a segment is built and not yet applied on both heads (R363). -/
def movesOpen (s : Nat) (d : Dev) : Bool :=
  d.stg.journal.any fun r =>
    (r.tsn > d.md.tsnOwn || (!alone d && r.tsn > d.cas.peerApplied)) && match r.body with
      | .gcMove ms => ms.any fun m => m.2.1.1 == s
      | .pageMap ms => ms.any fun m => m.2.2 / 2 ^ 24 == s
      | .segDrain t => t == s
      | _ => false

/-- SEG_DRAIN: a source segment with LIVE 0 whose moves are applied on both heads is drained; its gate is armed when the record has
committed (R363). -/
def execSegDrain (seg : Nat) (s : State) : Host.Outcome State Fault Refusal :=
  runLive (fun d =>
    let g := getSeg seg d
    if g.state = 3 ∧ ownSeg seg d ∧ g.live = 0 ∧ !movesOpen seg d ∧ !inTrouble d then showGc (postRecord 0 (.segDrain seg) d) else d) s

/-! ### Erases and retirement (R364, R365, R370) -/

/-- ERASE_GATE_REFUSE: an erase is asked for a block that is not armed (R364). -/
def execEraseGateRefuse (member : Fin 64) (block : Nat) (s : State) : Host.Outcome State Fault Refusal :=
  runLive (fun d =>
    if d.ftl.gate.contains (blkKey member block) then d
    else raiseC Ev.FT_ERASE_GATE (unitOf 0xA member) block 0 (setb Reg.MDL_FT_STATUS_GATE (bump Reg.MDL_FT_EGATE_REFUSED d))) s

/-- Armed blocks of a segment that an erase may be issued for now (R321, R365); segment 0 stands for blocks of none. -/
def erasable (seg : Nat) (d : Dev) : List Nat :=
  (d.ftl.gate.filter fun k =>
    let m := k / 2 ^ 24
    let b := k % 2 ^ 24
    (getBlk m b d).seg == seg && memberOk m d && !hasReaders m b d
      && !((getLink m d).cmds.any fun c => c.2.opcode == 0x12 && c.2.block == b)
      && !((getLink m d).queue.any fun c => c.opcode == 0x12 && c.block == b)).take 64

/-- SEGMENT_ERASE: a burst of armed blocks is erased under a grant (R16, R364, R365). A segment that has no block left to erase
commits ERASE_DONE. -/
def execSegmentErase (seg : Nat) (s : State) : Host.Outcome State Fault Refusal :=
  runLive (fun d =>
    let who := TokWho.engine (rowEngine seg d)
    let l := erasable seg d
    if inTrouble d then d
    else if l.isEmpty then (if allErased (getSeg seg d) d then finishErase seg d else d)
    else if !hasGrant who 2 d then postReq { who := who, cls := 2, cost := 1 } d
    else
      let use := if (getSeg seg d).state = 4 then seg else 0
      forEach l (fun k d => issueWrite (k / 2 ^ 24) { opcode := 0x12, block := k % 2 ^ 24, use := .erase use } d) (endHold who 2 d)) s

/-- The cause of a retirement holds, where the state shows it: retry rate, wear, the module's list (R357, R370). -/
def retireCause (m b cause : Nat) (d : Dev) : Bool :=
  match cause with
  | 3 => (tget [] d.ftl.steps (blkKey m b)).length ≥ 4
  | 4 => 100 * (getBlk m b d).pe ≥ (tget {} d.md.members m).wlim * rd Reg.MDL_FT_RET_PE_PCT d
  | 5 => (getLink m d).bad.contains b
  | _ => true

/-- BLOCK_RETIRE (R357, R370–R372). -/
def execBlockRetire (member : Fin 64) (block : Nat) (cause : Fin 6) (s : State) : Host.Outcome State Fault Refusal :=
  runLive (fun d =>
    let x := tget {} d.md.members member
    if x.adopted && block < x.nblocks && retireCause member block cause d then retireBlock member block cause d else d) s

/-! ### Scrubbing (R374) -/

/-- A column of a scrubbed row has been read; `step` is the highest ladder step that a page of it needed, 7 when one is unreadable
(R327, R370, R373, R374). -/
def scrubColumn (seg row : Nat) (c : Col) (step : Nat) (d : Dev) : Dev :=
  let pages := 65536 / pageSize c.member d
  let d := forEach (List.range pages) (fun _ d => countRead c.member c.block d) d
  if step = 0 then d
  else if step ≥ 7 then retireBlock c.member c.block 2 (lateStep c.member c.block (queueReloc seg d))
  else
    let set := (((ladder (startSet c.member c.block d)).find? fun x => x.1 == step).map (·.2)).getD 0
    let d := modBlk c.member c.block (fun x => { x with hint := some set }) d
    let d := notice Ev.RD_RETRY (unitOf 0xA c.member) c.block (row * pages * 2 ^ 32 + set) d
    if step ≥ 3 then lateStep c.member c.block (queueReloc seg d) else d

/-- A new pass begins every PERIOD hours of tempo time (R374). -/
def scrubPassNow (d : Dev) : Dev :=
  let p := d.tmp.sec / (3600 * max 1 (rd Reg.MDL_FT_SCRUB_PERIOD d))
  if p = d.ftl.scrubPass then d else { d with ftl.scrubPass := p, ftl.scrubRow := [] }

/-- RETENTION_SCRUB: the next row of a CLOSED segment is read under a grant, P and Q too, and verified by a VERIFY job; `steps` gives each
column's ladder step. An engine of the scrubbing clusters reads it, and it waits while no erasure lane runs the job (R20, R374, R653). -/
def execRetentionScrub (seg : Nat) (steps : List Nat) (s : State) : Host.Outcome State Fault Refusal :=
  runLive (fun d =>
    let d := scrubPassNow d
    let g := getSeg seg d
    let row := tget 0 d.ftl.scrubRow seg
    let who := TokWho.engine (scrubEngine seg d)
    if g.state ≠ 2 ∨ !ownSeg seg d ∨ row ≥ g.rows ∨ inTrouble d ∨ !laneServes 5 d then d
    else if !hasGrant who 3 d then postReq { who := who, cls := 3, cost := g.w + 2 } d
    else match ownJobs (.scrub seg) [5] d with
      | (false, d) => d
      | (true, d) =>
      let d := { endHold who 3 d with ftl.scrubRow := tset 0 d.ftl.scrubRow seg (row + 1) }
      let (cols, miss) := readRow g row [] d
      let old := g.cols.any fun c => ageBucket (getBlk c.member c.block d) d ≥ rd Reg.MDL_FT_SCRUB_AGE_MAX d
      let clean := miss.isEmpty && (List.range (g.w + 2)).all fun c => (steps[c]?).getD 0 == 0
      let data := cols.filter fun c => c.1 < g.w
      let agree := (cols.find? fun c => c.1 == g.w).map (·.2) == some (parityP 65536 data)
        && (cols.find? fun c => c.1 == g.w + 1).map (·.2) == some (parityQ 65536 data)
      let d := (cols.map (·.1)).foldl (fun d c => scrubColumn seg row (((g.cols)[c]?).getD {}) ((steps[c]?).getD 0) d) d
      let d := if old then queueReloc seg d else d
      if clean && !agree then
        queueReloc seg (raiseC Ev.FT_SCRUB_PARITY 0 (seg * 2 ^ 24 + row * 2 ^ 12) 0 (setb Reg.MDL_FT_STATUS_PARITY d))
      else d) s

/-! ### Time trouble (R376–R379, R405, R612, R613) -/

/-- Requests that are staged at detection are withdrawn; waiting grants but PROG and REFRESH are cancelled (R613). -/
def withdrawRequests (d : Dev) : Dev :=
  { d with
    pwr.waiting := d.pwr.waiting.filter fun q => q.cls == 1 || q.cls == 6
    pwr.adj3Req := false
    pwr.regions := d.pwr.regions.map fun (r : Nat × Region) => (r.1, { r.2 with reqLvl := none, reqAdj := none, waiting := none, waitWake := false }) }

/-- PLN on every UP lane (R405). -/
def plnAll (d : Dev) : Dev :=
  forEach (List.range 64) (fun n d =>
    if laneUp n d then send (.mdlPln n false) (modMod n (fun x => { x with pln := true }) d) else d) d

/-- Time trouble begins (R379, R613, Table 11.9): no new command, every priority paused, slots in FILLING abandoned, open rows closed, dirty hot
buckets in the page cache (R238). -/
def beginTrouble (d : Dev) : Dev :=
  let d := notice Ev.PWR_FAIL 0 0 0 (setb Reg.PWR_STATUS_TT d)
  let d := { withdrawRequests d with pwr.ttEdges := 1, ftl.ttFrom := some (tempoNow d) }
  let d := pauseAll 4 255 (plnAll d)
  let d := forEach ((d.stg.slots.filter fun x => x.2.state == 1).map (·.1)) (fun n d => send (.mirrorSlot n) (freeSlot n d)) d
  let d := forEach ((d.stg.rows.filter fun r => r.2.state == 1).map (·.1)) closeRow d
  wr Reg.MDL_FT_TT_PHASE 1 (flushHot d)

/-- POWER_FAIL_DETECT: VIN has lain below PF_MV, or PF_N low, for `halfUs` half microseconds (R612). The power manager watches from the
first host write of a boot (R636). -/
def execPowerFailDetect (vinMv : Nat) (pfN : Bool) (halfUs : Nat) (s : State) : Host.Outcome State Fault Refusal :=
  runLive (fun d =>
    let fails := if rdb Reg.PWR_PF_PF_SRC d then !pfN else vinMv < rd Reg.PWR_PF_PF_MV d
    if inTrouble d || !d.pwr.pfWatch || !fails || halfUs < rd Reg.PWR_PF_DEB d then d else beginTrouble d) s

/-- The flush image as it stands (R376). -/
def flushImageOf (d : Dev) : FlushImage := {
  seq := d.ftl.flushSeq + 1, boot := rd Reg.SXC_BOOT_BOOT d, slots := d.stg.slots, journal := d.stg.journal, dirty := d.md
  tsn := d.md.tsnOwn, us := 0, index := d.fiu.buckets, wkt := d.keys.wkt, ikt := d.keys.ikt }

/-- Chunks that bytes of one kind take (Table 11.8), and those of an image but its manifest. -/
def chunksFor (n : Nat) : Nat := (n + 65455) / 65456
def flushTotal (i : FlushImage) (d : Dev) : Nat :=
  chunksFor (8384 * i.slots.length) + chunksFor ((i.journal.map recordLen).sum) + chunksFor (4096 * d.ftl.dirty.length)

/-- FLUSH_CHUNKS: the next `n` chunks are written to the three flush groups under a grant (R376, R377). -/
def execFlushChunks (n : Nat) (s : State) : Host.Outcome State Fault Refusal :=
  runLive (fun d =>
    let who := TokWho.engine (rowEngine 0 d)
    if !inTrouble d || d.ftl.ttFrom.isNone then d
    else if !hasGrant who 1 d then postReq { who := who, cls := 1, cost := 3 } d
    else
      let i := d.ftl.flush.getD (flushImageOf d)
      let i := { i with chunks := min (flushTotal i d) (i.chunks + n) }
      wr Reg.MDL_FT_TT_PHASE 2 { d with ftl.flush := some i }) s

/-- FLUSH_MANIFEST_WRITTEN: the manifest stands in all three groups, `ms` after detection; the device resets (R378, R379). -/
def execFlushManifestWritten (ms : Nat) (s : State) : Host.Outcome State Fault Refusal :=
  runLive (fun d =>
    match d.ftl.flush with
    | none => d
    | some i =>
      if i.chunks < flushTotal i d then d
      else
        let i := { i with manifest := true, us := 1000 * ms }
        let d := wr Reg.MDL_FT_TT_PHASE 3 (wr Reg.MDL_FT_TT_MS ms (wr Reg.MDL_FT_TT_SEQ i.seq (pauseAll 4 0 d)))
        let d := match d.ftl.armed with
          | some side => { d with outside.sides := tset none d.outside.sides side (some i) }
          | none => d
        reboot 5 d) s

/-! ### Members and rebuild (R423–R434) -/

/-- Close short every OPEN segment with a column on a member (R423). -/
def closeMember (m : Nat) (d : Dev) : Dev :=
  forEach ((d.md.segs.filter fun s => s.2.state == 1 && ownSeg s.1 d && s.2.cols.any (·.member == m)).map (·.1)) closeShort d

/-- MEMBER_GRACE_EXPIRE: an absent member is declared failed from the next edge (R423). -/
def execMemberGraceExpire (n : Fin 64) (s : State) : Host.Outcome State Fault Refusal :=
  runLive (fun d =>
    let x := tget {} d.md.members n
    match (getLink n d).absent with
    | some t =>
      if x.adopted && !x.declared && !d.ftl.declare.contains n.val && t + rd Reg.ERS_RB_GRACE d ≤ nowSec d then
        closeMember n { d with ftl.declare := d.ftl.declare ++ [n.val] }
      else d
    | none => d) s

/-- A member for a replacement of a segment (R426): live, outside the segment and its other replacements, its file within the cap;
fewest replacements received, then the block of lowest PE, then the lower slot. -/
def pickReplacement (s col : Nat) (d : Dev) : Option (Nat × Nat) :=
  let g := getSeg s d
  let taken := ((getRebuild s d).map fun r => r.repl.map (·.member)).getD []
  let kept := ((g.cols.zip (List.range g.cols.length)).filter fun c => c.2 != col && !colFailed c.1 d).map (·.1.member)
  let cap := fileCap g.pool g.cols.length d
  let cands := (liveMembers g.pool d).filter fun m =>
    !(g.cols.any (·.member == m)) && !taken.contains m && ((kept ++ taken).filter fun k => fileOf k d == fileOf m d).length < cap
  let keyed := cands.filterMap fun m => (pickBlock m true d).map fun b => (tget 0 d.ftl.given m, (getBlk m b d).pe, m, b)
  (keyed.foldl (fun (b : Option (Nat × Nat × Nat × Nat)) c =>
    match b with
    | none => some c
    | some q => if lexLess c q then some c else b) none).map fun q => (q.2.2.1, q.2.2.2)

/-- The columns of a segment counted FAILED. -/
def missingCols (s : Nat) (d : Dev) : List Nat :=
  let g := getSeg s d
  (List.range g.cols.length).filter fun c => ((g.cols)[c]?).any fun x => colFailed x d

/-- Give every missing column a replacement (R426). -/
def chooseReplacements (s : Nat) (d : Dev) : Dev :=
  forEach (missingCols s d) (fun c d =>
    if (getRebuild s d).any fun r => r.repl.any (·.col == c) then d
    else match pickReplacement s c d with
      | some (m, b) =>
        let d := modBlk m b (fun x => { x with state := 1, seg := s }) { d with ftl.given := tmod 0 d.ftl.given m (· + 1) }
        modRebuild s (fun r => { r with repl := r.repl ++ [{ col := c, member := m, block := b }] }) d
      | none => d) d

/-- The 64 KiB of a row in a block of a module, whatever its column counts as. -/
def blockRow (m b row : Nat) (d : Dev) : Option Bytes :=
  let x := getMod m d
  let k := tget {} x.blocks b
  let v := tget [] x.rows (b * 4096 + row)
  if (laneUp m d || laneState m d = 5) && row < k.next && !k.failed.any (· ≤ row) && v.length = 65536 then some v else none

/-- A column of a rebuild row: from the segment, from a replacement that holds the row already, or straight from a member declared
failing that still reads (R427). -/
def rebuildColumn (s row c : Nat) (bad : List Nat) (d : Dev) : Option Bytes :=
  let g := getSeg s d
  let col := ((g.cols)[c]?).getD {}
  match ((getRebuild s d).bind fun r => r.repl.find? fun x => x.col == c && row < x.done) with
  | some x => blockRow x.member x.block row d
  | none =>
    if colFailed col d then (if bad.contains c || col.failed then none else blockRow col.member col.block row d)
    else readColumn g row c bad d

/-- The row goes out to the replacements that lack it (R427). -/
def programReplacements (s row e : Nat) (cols : List (Nat × Bytes)) (d : Dev) : Dev :=
  let rs := ((getRebuild s d).map (·.repl)).getD []
  let targets := (rs.zip (List.range rs.length)).filter fun x => x.1.issued == row
  let n := d.stg.rowNext
  let r : Row := { kind := 4, engine := e, pool := (getSeg s d).pool, seg := s, row := row, state := 3, want := targets.length }
  let d := { d with stg.rows := tset {} d.stg.rows n r, stg.rowNext := n + 1 }
  let d := modRebuild s (fun r => { r with repl := r.repl.map fun x => if x.issued = row then { x with issued := row + 1 } else x }) d
  targets.foldl (fun d x =>
    let b := ((cols.find? fun c => c.1 == x.1.col).map (·.2)).getD (List.replicate 65536 0)
    issueWrite x.1.member { opcode := 0x11, block := x.1.block, unit := row, data := b, use := .column n x.2 } d) d

/-- A row with three or more missing columns (R434): every live granule that touches a missing data column is LOST. -/
def rowLost (s row : Nat) (miss : List Nat) (d : Dev) : Dev :=
  let gs := (d.md.gtes.filter fun g => g.2.seg == s && g.2.row == row && g.2.refcnt != 0 && !g.2.lost
    && (frameColumns g.2).any fun c => miss.contains c.1).map (·.1)
  let d := forEach gs (fun g d => markLost g 0 miss.length d) d
  let d := queueReloc s { d with ftl.noParity := d.ftl.noParity ++ [(s, row)] }
  raiseC Ev.ERS_LOST 0 (s * 2 ^ 24 + row * 2 ^ 12) gs.length (setb Reg.ERS_STATUS_LOST_CHK (bump Reg.ERS_LOSS_ROWS d))

/-- The columns of a rebuild row that do not read. -/
def rebuildMissing (s row : Nat) (bad : List Nat) (d : Dev) : List Nat :=
  (List.range ((getSeg s d).w + 2)).filter fun c => (rebuildColumn s row c bad d).isNone

/-- Rebuild one row under its grant (R427, R433, R434). -/
def rebuildOne (s row e : Nat) (bad : List Nat) (d : Dev) : Dev :=
  let g := getSeg s d
  let d := bad.foldl (fun d c => match (g.cols)[c]? with
    | some x => retireBlock x.member x.block 2 d
    | none => d) d
  let all := (List.range (g.w + 2)).map fun c => (c, rebuildColumn s row c bad d)
  let cols := all.filterMap fun c => c.2.map fun b => (c.1, b)
  let miss := (all.filter fun c => c.2.isNone).map (·.1)
  let d := cols.foldl (fun d c => match (g.cols)[c.1]? with
    | some x => if colFailed x d then d else forEach (List.range (65536 / pageSize x.member d)) (fun _ d => countRead x.member x.block d) d
    | none => d) d
  match miss with
  | [] => programReplacements s row e cols d
  | [m] => programReplacements s row e
      (cols ++ recoverColumns g.w m 255 65536 (cols.filter fun c => (columnsRead g.w m 255).contains c.1)) d
  | [m, n] => programReplacements s row e
      (cols ++ recoverColumns g.w m n 65536 (cols.filter fun c => (columnsRead g.w m n).contains c.1)) d
  | l => programReplacements s row e [] (rowLost s row l d)

/-- Rebuild rows issued in the window of 1,000 tempi that this tempo lies in (R428). -/
def rowsThisWindow (d : Dev) : Nat := if d.ftl.rate.1 = tempoNow d / 1000 then d.ftl.rate.2 else 0

/-- REBUILD_ROW: the next row of one of the highest-ranked segments is read under a grant, rebuilt and programmed into its replacements;
`bad` lists columns whose pages end their ladder unreadable. A row with columns missing takes a REBUILD job, and waits while no lane runs
one (R425–R428, R431–R434, R653). -/
def execRebuildRow (seg : Nat) (bad : List Nat) (s : State) : Host.Outcome State Fault Refusal :=
  runLive (fun d =>
    let g := getSeg seg d
    let first := (d.ftl.rebuild.take (rd Reg.ERS_RB_SEGS d)).any (·.seg == seg)
    let flying := (d.stg.rows.filter fun r => r.2.kind == 4).length
    let mine := (d.stg.rows.filter fun r => r.2.kind == 4 && r.2.seg == seg).length
    if inTrouble d || !first || g.state != 2 || (getRebuild seg d).any (·.written) || mine ≥ 2 || flying ≥ rd Reg.ERS_RB_INFLIGHT d || rowsThisWindow d ≥ rd Reg.ERS_RB_RATE d
    then d
    else
      let d := chooseReplacements seg d
      let rs := ((getRebuild seg d).map (·.repl)).getD []
      let row := (rs.map (·.issued)).foldl min g.rows
      let e := rowEngine (seg + row) d
      let who := TokWho.engine e
      let miss := missingCols seg d
      let cost := (columnsRead g.w ((miss[0]?).getD 255) ((miss[1]?).getD 255)).length + 2 * rs.length
      if rs.isEmpty || row ≥ g.rows || (d.stg.rows.any fun r => r.2.kind == 4 && r.2.engine == e) then d
      else if !hasGrant who 3 d then postReq { who := who, cls := 3, cost := cost } d
      else match if (rebuildMissing seg row bad d).isEmpty then (true, d) else ownJobs (.rebuild seg) [5] d with
        | (false, d) => d
        | (true, d) => rebuildOne seg row e bad { d with ftl.rate := (tempoNow d / 1000, rowsThisWindow d + 1) }) s

/-- The columns of a segment with its replacements (R429). -/
def newColumns (seg : Nat) (r : Rebuild) (d : Dev) : List Col :=
  let cs := (getSeg seg d).cols
  (cs.zip (List.range cs.length)).map fun c =>
    match r.repl.find? fun x => x.col == c.2 with
    | some x => { member := x.member, block := x.block }
    | none => c.1

/-- REBUILD_COMMIT: every replacement of a segment holds all its rows; the segment-table page is written with the new columns. They are in
force from the commit of its PAGE_MAP record; until then reads rebuild (R429). -/
def execRebuildCommit (seg : Nat) (s : State) : Host.Outcome State Fault Refusal :=
  runLive (fun d =>
    let g := getSeg seg d
    match getRebuild seg d with
    | none => d
    | some r =>
      if inTrouble d || r.written || !(missingCols seg d).all (fun c => r.repl.any fun x => x.col == c && x.done == g.rows) || r.repl.isEmpty
          || r.repl.any (fun x => x.done != g.rows) then d
      else match writeNews (3 * 2 ^ 60 + seg / 32) (.columns seg (newColumns seg r d)) d with
        | (true, e) => modRebuild seg (fun r => { r with written := true }) e
        | (false, _) => d) s

end Sys2Proof.Machine
end

