-- ==== Sys2Proof/Machine/Castle.lean ====
section
/-!
DEFINITION. The commands of the pair (spec/16_castling_and_cascade.md): heartbeats and the peer's loss, the comparison of metadata,
resignation, the claim, owner tables, planned castling and rejoining.
-/

namespace Sys2Proof.Machine

/-! ### Heartbeats and the loss of a peer (R503–R506) -/

/-- HEARTBEAT_SEND: at every edge whose number is a multiple of 100, on every UP port whose role is PEER or BOTH and on every port
with a path to the peer (R503). -/
def execHeartbeatSend (s : State) : Host.Outcome State Fault Refusal :=
  runLive (fun d =>
    if !d.cas.hasPeer || !rdb Reg.CDT_CTRL_EN d || tempoNow d % 100 != 0 then d
    else
      let d := { d with cas.hbSeq := (d.cas.hbSeq + 1) % 2 ^ 32 }
      let b := heartbeatBytes d
      let ports := those 4 fun p => rdb (Reg.CDT_PORT_UP p) d
        && (portRole p d == 1 || portRole p d == 3 || hasPath (peerDev d) p d)
      forEach ports (fun p d => sendFrameTo (peerDev d) p 0x13 b d) d) s

/-- What a heartbeat's flags show (Table 16.2). -/
def takeFlags (b : Bytes) (d : Dev) : Dev :=
  let fl := fld b 1 1
  let d := { d with
    cas.hbHeard := true, cas.peerService := bitOf fl 0, cas.peerLost := bitOf fl 1, cas.peerClaiming := bitOf fl 2
    cas.peerCastled := bitOf fl 3, cas.peerCommit := fld b 16 8, cas.peerApplied := fld b 24 8 }
  if d.cas.declared.isSome || d.cas.castled then d
  else wr Reg.CAS_STATUS_PEER (if bitOf fl 3 then 4 else if bitOf fl 2 then 3 else 1) d

/-- HEARTBEAT: a peer's heartbeat ends a run of misses and shows the peer's state (R504, R521). A head in START-UP that sees CASTLED
asks to rejoin (R519). -/
def execHeartbeat (f : CdtFrame) (s : State) : Host.Outcome State Fault Refusal :=
  runLive (fun d =>
    let (ok, d) := frameOk f d
    if !ok || f.hdr.type != 0x13 || f.payload.length != 32 || !d.cas.hasPeer then d
    else
      let dev := fld f.payload 0 1
      if dev ≠ peerDev d then raiseC Ev.CAS_PAIR_NO 0 dev (tempoNow d) d
      else
        let h := fld f.payload 8 8
        let d := hearDev dev (f.port % 4) d
        let d := wr Reg.CAS_HB_RUN 0 (wr Reg.CAS_HB_SEQ_RX (fld f.payload 4 4) d)
        let d := if h ≤ d.cas.hbJudged || d.cas.hbSeen.contains h then d else { d with cas.hbSeen := d.cas.hbSeen ++ [h] }
        let d := takeFlags f.payload d
        if glbState d == 0 && d.cas.peerCastled && !d.cas.rejoining then
          send (.rejoinReq (rd Reg.SXC_BOOT_BOOT d)) { d with cas.rejoining := true }
        else d) s

/-- HEARTBEAT_MISSED: at edge H + 100 the heartbeat of edge H has not arrived on any port; after three in a row the peer is silent and
is declared lost at this edge (R504, R505). -/
def execHeartbeatMissed (s : State) : Host.Outcome State Fault Refusal :=
  runLive (fun d =>
    let h := tempoNow d - 100
    if !d.cas.hasPeer || tempoNow d % 100 != 0 || h ≤ d.cas.hbJudged || !(d.cas.hbHeard || glbState d == 1) then d
    else
      let seen := d.cas.hbSeen.contains h
      let d := { d with cas.hbJudged := h, cas.hbSeen := d.cas.hbSeen.filter (h < ·) }
      if seen then d
      else
        let d := setb Reg.CAS_STATUS_HB_MISS (bump Reg.CAS_HB_MISSED d)
        let d := wr Reg.CAS_HB_RUN (min 3 (rd Reg.CAS_HB_RUN d + 1)) d
        if rd Reg.CAS_HB_RUN d = 3 then declareLost 1 d else d) s

/-- PEER_FATAL_ASSERT: PEER_FATAL_N has been low for 1 µs while FATAL_IN_EN is 1: cause 3 at the next edge (R505). -/
def execPeerFatalAssert (lowNs : Nat) (s : State) : Host.Outcome State Fault Refusal :=
  runLive (fun d =>
    if d.cas.hasPeer && rdb Reg.CAS_CTRL_FATAL_IN_EN d && lowNs ≥ 1000 then { d with cas.fatalRx := true } else d) s

/-- RESIGN: a resignation of the peer declares it lost at the next edge (R505); cause 4 announces a planned move (R518). -/
def execResign (cause : Fin 5) (_tempo : Nat) (s : State) : Host.Outcome State Fault Refusal :=
  runLive (fun d =>
    if !d.cas.hasPeer || cause.val = 0 then d
    else if cause.val = 4 then
      if d.cas.declared.isSome || d.cas.resigned.isSome || d.cas.castled then d else takePlanned d
    else { d with cas.resignRx := true }) s

/-- RESIGN_HOLD_END: a resigned head's hold ends when a heartbeat shows CASTLED or 100 ms have passed: contexts torn down without
completions, RECOVERY (R511). -/
def execResignHoldEnd (s : State) : Host.Outcome State Fault Refusal :=
  runLive (fun d =>
    match d.cas.resigned with
    | none => d
    | some (t, _) =>
      if glbState d = 1 ∧ (d.cas.peerCastled ∨ tempoNow d ≥ t + tempiFor 100000000 d) then endHoldRecovery d else d) s

/-! ### Comparison of metadata (R507–R509) -/

/-- DIGEST_SEND: at every edge whose number is a multiple of 64, the digests of the owned groups with entries in the window (R507); none
during the pause of an activation, and the next one covers every TSN since the last (R566). -/
def execDigestSend (s : State) : Host.Outcome State Fault Refusal :=
  runLive (fun d =>
    let w := tempoNow d
    if !d.cas.hasPeer || glbState d != 1 || activationPaused d || w % 64 != 0 || d.cas.wins.any (fun x => x.1 && x.2.1 == w) then d
    else
      let lo := d.cas.digestHi
      let hi := tsnCommitted d
      let gs := (windowGroups (ownHead d) lo hi d).filter fun g => ownsGroup g d
      let m : DigestMsg := { window := w, lo := lo, hi := hi, entries := gs.map fun g => (g, groupDigest (ownHead d) lo hi g d) }
      send (.digest m) (keepWindows true w lo hi { d with cas.digestHi := hi })) s

/-- DIGEST: compared once the peer's records through TSN_HI have been applied (R508). -/
def execDigest (m : DigestMsg) (s : State) : Host.Outcome State Fault Refusal :=
  runLive (fun d =>
    if !d.cas.hasPeer then d else compareDigests (catchUp { d with cas.digests := d.cas.digests ++ [m] })) s

/-- RECHECK_REQ: this head rechecks the window and reports its result (R509). -/
def execRecheckReq (group window : Nat) (s : State) : Host.Outcome State Fault Refusal :=
  runLive (fun d => if 1 ≤ group ∧ group ≤ 128 ∧ d.cas.hasPeer then decideRecheck group window (beginRecheck group window d) else d) s

/-- RECHECK_ANS: the peer's result of a recheck; both results decide (R509, Table 16.3). -/
def execRecheckAns (group window : Nat) (wrong : Bool) (s : State) : Host.Outcome State Fault Refusal :=
  runLive (fun d => decideRecheck group window (modRecheck group window (fun r => { r with peers := some wrong }) d)) s

/-! ### The claim (R512–R514) -/

/-- CLAIM_DELAY_EXPIRE: head B's CLAIM_DLY has run: its claim begins (R512). -/
def execClaimDelayExpire (s : State) : Host.Outcome State Fault Refusal :=
  runLive (fun d =>
    match d.cas.claimDue with
    | some t => if tempoNow d ≥ t then startClaim { d with cas.claimDue := none } else d
    | none => d) s

/-- CLAIM_REPEAT: at each edge whose number is a multiple of 1,000 the claim of UNREACHED members is repeated (R514). -/
def execClaimRepeat (s : State) : Host.Outcome State Fault Refusal :=
  runLive (fun d => if tempoNow d % 1000 = 0 then repeatClaim d else d) s

/-- CAS_CMD_CLAIM: a write of 1 to CAS_CMD.CLAIM repeats it at once; ignored unless PEER is LOST (R514, Table 16.9). -/
def execCasCmdClaim (s : State) : Host.Outcome State Fault Refusal :=
  runLive (fun d => if rd Reg.CAS_STATUS_PEER d = 2 then repeatClaim d else d) s

/-! ### Owner tables and planned castling (R500, R518, R622) -/

/-- CAS_ANA_APPLY_WRITE: a tempo number stages the table of CAS_ANA_STG0 and CAS_ANA_STG1; 0 cancels (R500, R622). -/
def execCasAnaApplyWrite (v : BitVec 64) (s : State) : Host.Outcome State Fault Refusal :=
  runLive (stageOwners v.toNat) s

/-- OWNER_STAGE: the peer's message stages the same table with the same tempo number here (R500). -/
def execOwnerStage (apply own0 own1 : BitVec 64) (s : State) : Host.Outcome State Fault Refusal :=
  runLive (fun d =>
    if d.cas.hasPeer then
      stageOwners apply.toNat (wr Reg.CAS_ANA_STG0_OWN own0.toNat (wr Reg.CAS_ANA_STG1_OWN own1.toNat d))
    else d) s

/-- PLANNED_CASTLING: a write of 1 to CAS_CMD.PLANNED acts at the next edge; ignored unless PEER is UP (R518). -/
def execPlannedCastling (s : State) : Host.Outcome State Fault Refusal :=
  runLive (fun d =>
    if rd Reg.CAS_STATUS_PEER d = 1 && glbState d == 1 && d.cas.plannedAt.isNone then { d with cas.plannedReq := true } else d) s

/-- PLANNED_CHANGE_TIMEOUT: a Change state that has lasted 100 ms turns the move into unplanned castling: the leaving head resigns
(R518). -/
def execPlannedChangeTimeout (s : State) : Host.Outcome State Fault Refusal :=
  runLive (fun d =>
    match d.cas.plannedAt with
    | some t => if tempoNow d ≥ t + tempiFor 100000000 d then resignNow 1 { d with cas.plannedAt := none, cas.changing := 0 } else d
    | none => d) s

/-! ### Rejoining (R519, R520) -/

/-- REJOIN_REQ: the survivor begins the rejoin checkpoint; the later steps follow at edges (R519). -/
def execRejoinReq (_boot : Nat) (s : State) : Host.Outcome State Fault Refusal :=
  runLive (fun d =>
    if !d.cas.castled || d.cas.rejoinStep != 0 then d
    else
      let d := wr Reg.CAS_STATUS_PEER 5 { d with cas.rejoinStep := 1, cas.rejoinRoot := newestRoot d }
      if d.ftl.ckpt.isSome then d else beginCheckpoint d) s

/-- REJOIN_GRANT: the returning head discards what it restored, reads the roots of the rejoin checkpoint, and owns no group; it leaves
START-UP with its Boot Record (R520). -/
def execRejoinGrant (covered : Nat) (saved : Meta) (s : State) : Host.Outcome State Fault Refusal :=
  runLive (fun d =>
    if !d.cas.rejoining then d
    else
      let all := if ownHead d = 0 then 2 ^ 64 - 1 else 0
      let own := ((poolList d).map fun p => (getPool p d).covered).foldl max 0
      let md := adoptSaved saved d.md
      let d := { d with
        md := md
        stg.slots := [], stg.capacity := []
        stg.journal := d.stg.journal.filter (·.tsn ≤ own)
        stg.mirrorJ := d.stg.mirrorJ.filter (·.tsn > covered)
        stg.tsnNext := max d.stg.tsnNext (md.tsnOwn + 1)
        cas.cmds := [], cas.rejoining := false, cas.declared := none, cas.claims := [], cas.resigned := none }
      let d := wr Reg.CAS_ANA_OWN0_OWN all (wr Reg.CAS_ANA_OWN1_OWN all (wr Reg.CAS_STATUS_PEER 1 d))
      showTight (catchUp d)) s

end Sys2Proof.Machine
end

