-- ==== Sys2Proof/Machine/Cdt.lean ====
section
/-!
DEFINITION. The commands of the Cerco datagram transport (spec/15_cerco_transport.md).
-/

namespace Sys2Proof.Machine

/-! ### Request rings -/

/-- CDT_REQUEST_DOORBELL: a write of CDT_RPTRr.PROD from a cluster; one from outside CLUSTERS, or more than 256 entries beyond CONS, is
ignored and counted (R489). -/
def execCdtRequestDoorbell (cluster : Fin 8) (r : Fin 16) (prod : BitVec 16) (s : State) : Host.Outcome State Fault Refusal :=
  runLive (fun d =>
    let ahead := (prod.toNat + 65536 - rd (Reg.CDT_RPTR_CONS r) d) % 65536
    if !bitOf (rd (Reg.CDT_RING_CLUSTERS r) d) cluster || ahead > 256 then bump Reg.CDT_RING_BAD_COUNT d
    else wr (Reg.CDT_RPTR_PROD r) prod.toNat d) s

/-- CDT_SEND: the next descriptor is a SEND (R485, R489–R491); one whose OP Table 15.5 does not list ends REFUSED here. -/
def execCdtSend (cut : Bool) (s : State) : Host.Outcome State Fault Refusal := runLive (cdtTake 1 cut) s

/-- CDT_WRITE: the next descriptor is a WRITE (R487, R489–R491). -/
def execCdtWrite (cut : Bool) (s : State) : Host.Outcome State Fault Refusal := runLive (cdtTake 2 cut) s

/-- CDT_READ: the next descriptor is a READ (R487, R489–R491). -/
def execCdtRead (s : State) : Host.Outcome State Fault Refusal := runLive (cdtTake 3 false) s

/-- CDT_ADD: the next descriptor is an ADD (R487, R489–R491). -/
def execCdtAdd (cut : Bool) (s : State) : Host.Outcome State Fault Refusal := runLive (cdtTake 4 cut) s

/-- CDT_CAS: the next descriptor is a CAS (R487, R489–R491). -/
def execCdtCas (cut : Bool) (s : State) : Host.Outcome State Fault Refusal := runLive (cdtTake 5 cut) s

/-! ### Requests from other devices -/

/-- The packets of a message that is being put together, with one more. -/
def addPart (f : CdtFrame) (d : Dev) : Dev :=
  let h := f.hdr
  modSrc h.src (fun s => { s with
    parts := tmod [] s.parts h.msn (fun t => (tdel h.pidx t) ++ [(h.pidx, f.payload)])
    last := if h.last then tset 0 s.last h.msn (h.pidx + 1) else s.last }) d

/-- Every packet of a message has come: its LAST one, and each before it. -/
def wholeMsg (src msn : Nat) (d : Dev) : Option Bytes :=
  let s := getSrc src d
  let n := tget 0 s.last msn
  let t := tget [] s.parts msn
  if n != 0 && (List.range n).all (fun i => t.any (·.1 == i)) then some ((List.range n).flatMap fun i => tget [] t i) else none

/-- CDT_SEND_RECEIVE: a packet of a SEND (R476, R481, R485, R488). A service with no receiver and a whole message of another length
are refused; with a full ring the packet is answered BUSY and not accepted; a whole SEND is delivered at once. -/
def execCdtSendReceive (f : CdtFrame) (s : State) : Host.Outcome State Fault Refusal :=
  runLive (fun d =>
    if f.hdr.type ≠ 1 then d
    else
      let (a, d) := arrive f d
      let h := f.hdr
      let sv := h.key % 256
      if a = .gone then d
      else if svcServed sv d && svcFull sv d && !isDup h.src h.msn d && tget 0 (getSrc h.src d).refused h.msn == 0 then
        sendNak f 7 d
      else match filterPkt f d with
      | (.refused _, d) => d
      | (.dup, d) => d
      | (.perform, d) =>
        if !svcServed sv d then refusePkt f 6 d
        else
          let d := addPart f d
          match wholeMsg h.src h.msn d with
          | none => d
          | some b => if b.length ≠ h.off then refusePkt f 9 d else setDone h.src h.msn (deliverSend f b d)) s

/-- Note a packet of a WRITE as placed; the message's bit is set with its last operation (R481). -/
def wrotePart (f : CdtFrame) (d : Dev) : Dev :=
  let d := addPart { f with payload := [] } d
  match wholeMsg f.hdr.src f.hdr.msn d with
  | some _ => setDone f.hdr.src f.hdr.msn d
  | none => d

/-- CDT_WRITE_RECEIVE: a WRITE packet is checked against its window and placed (R481, R487, R488, R495). `mirror`: what a write of the
peer to this head's mirror regions says. -/
def execCdtWriteReceive (f : CdtFrame) (mirror : Option MirrorData) (s : State) : Host.Outcome State Fault Refusal :=
  runLive (fun d =>
    if f.hdr.type ≠ 2 then d
    else
      let (a, d) := arrive f d
      let h := f.hdr
      if a = .gone then d
      else match filterPkt f d with
      | (.refused _, d) => d
      | (.dup, d) => d
      | (.perform, d) =>
        let code := checkWindow h 1 h.len d
        if code ≠ 0 then refusePkt f code d
        else
          let d := match mirror with
            | some m => if d.cas.hasPeer && h.src == peerDev d then takeMirror m d else d
            | none => laneWrite 0 (winBase (h.key / 2 ^ 20) d + h.off) f.payload d
          wrotePart f d) s

/-- CDT_READ_REQ: the window is checked, and READ_RESP packets go out in this device's own PSN series (R487, R488, R495). The index
window is read in whole pages (R248). -/
def execCdtReadReq (f : CdtFrame) (s : State) : Host.Outcome State Fault Refusal :=
  runLive (fun d =>
    if f.hdr.type ≠ 3 then d
    else
      let (a, d) := arrive f d
      let h := f.hdr
      if a = .gone then d
      else match filterPkt f d with
      | (.refused _, d) => d
      | (.dup, d) => d
      | (.perform, d) =>
        let len := fld f.payload 0 4
        let code := checkWindow h 0 len d
        let fiu := isFiuWin h d
        let pages := List.range (len / 2048)
        let code := if code ≠ 0 then code
          else if fiu && (h.off % 2048 != 0 || len % 2048 != 0) then 4
          else if fiu && !(pages.all fun i => servesPart (fiuPage h.off i d).1 d) then 10 else 0
        if code ≠ 0 then refusePkt f code d
        else
          let data := if fiu then pages.flatMap fun i => bucketPage (fiuPage h.off i d).2 d
            else memRead d (winBase (h.key / 2 ^ 20) d + h.off) len
          let d := if fiu then forEach pages (fun i d => touchBucket (fiuPage h.off i d).2 false d) d else d
          sendPkts h.src (f.port % 4) (packetsOf 4 0 h.msn h.tempo0 (fun i => h.off + 8192 * i) (chunks data)) (setDone h.src h.msn d)) s

/-- Perform an atomic on the owner's index (R247, R248): the slot's old value. -/
def fiuAtomic (off : Nat) (cmp new : Bytes) (d : Dev) : Bytes × Dev :=
  let (p, k, sl) := fiuPlace off d
  let key := bucketKey p k
  let old := padTo 32 (tget [] (getBucket key d) sl)
  if old = cmp then (old, putEntry key sl (if new.all (· == 0) then [] else new) d) else (old, touchBucket key false d)

/-- Perform an atomic on word 2 of a GTE (R206, R223): a swap raises a live count, an add of -2^32 releases one reference. -/
def gteAtomic (g op : Nat) (x : Bytes) (d : Dev) : Bytes × Dev :=
  let old := gteW2 (getGte g d)
  let bytes := leBytes 8 old
  if op = 1 then
    (bytes, if leNat x = 2 ^ 64 - 2 ^ 32 then retireLast g (dropRef g d) else d)
  else if x.take 8 = bytes then
    let r := leNat (x.drop 8) / 2 ^ 32
    (bytes, if r = (getGte g d).refcnt + 1 then takeRef g d else d)
  else (bytes, d)

/-- Perform an atomic in memory (R487). -/
def memAtomic (addr op size : Nat) (x : Bytes) (d : Dev) : Bytes × Dev :=
  let old := memRead d addr size
  if op = 1 then (old, laneWrite 0 addr (leBytes 8 (leNat old + leNat x)) d)
  else if x.take size = old then (old, laneWrite 0 addr (x.drop size) d)
  else (old, d)

/-- CDT_ATOMIC_REQ: performed once, a duplicate answered from the kept result (R482, R487, R488). `gte`: the GID whose word 2 the window
offset names, where it names a GTE of this device. -/
def execCdtAtomicReq (f : CdtFrame) (gte : Option Nat) (s : State) : Host.Outcome State Fault Refusal :=
  runLive (fun d =>
    if f.hdr.type ≠ 5 then d
    else
      let (a, d) := arrive f d
      let h := f.hdr
      let answer (r : Bytes) (d : Dev) : Dev := sendPkts h.src (f.port % 4) (packetsOf 6 0 h.msn h.tempo0 (fun _ => h.off) [r]) d
      if a = .gone then d
      else
        let kept := tget [] (getSrc h.src d).results h.msn
        match filterPkt f d with
        | (.refused _, d) => d
        | (.dup, d) => if kept.isEmpty then d else answer kept d
        | (.perform, d) =>
          let op := fld f.payload 0 1
          let size := fld f.payload 1 1
          let x := f.payload.drop 8
          let fiu := isFiuWin h d
          let code := checkWindow h 2 size d
          let sizeOk := if fiu then op == 2 && size == 32 else (op == 1 && size == 8) || (op == 2 && (size == 8 || size == 16))
          let (p, _, _) := fiuPlace h.off d
          let code := if code ≠ 0 then code
            else if !sizeOk || h.off % size != 0 || x.length != (if op = 1 then 8 else 2 * size) then 5
            else if fiu && (!servesPart p d || ownMoving p d) then 10 else 0
          if code ≠ 0 then refusePkt f code d
          else
            let (old, d) := if fiu then fiuAtomic h.off (x.take 32) (x.drop 32) d
              else match gte with
                | some g => gteAtomic g op x d
                | none => memAtomic (winBase (h.key / 2 ^ 20) d + h.off) op size x d
            let d := modSrc h.src (fun s => { s with results := tset [] s.results h.msn old }) d
            answer old (setDone h.src h.msn d)) s

/-! ### Answers to this device's requests -/

/-- A response is accepted on its path, and its boot and FLOOR are looked at (R476, R484). -/
def respArrive (f : CdtFrame) (d : Dev) : Option CdtMsg × Dev :=
  let (a, d) := arrive f d
  let h := f.hdr
  if a = .gone then (none, d)
  else
    let d := peerReboot h.src h.boot (acceptPsn h.src (f.port % 4) h.psn d)
    ((getDst h.src d).msgs.find? (·.msn == h.msn), d)

/-- CDT_READ_RESP: the bytes land in the requester's buffer; when every packet has come the READ ends, FAILED with LENGTH when they total
other than LEN (R491). -/
def execCdtReadResp (f : CdtFrame) (s : State) : Host.Outcome State Fault Refusal :=
  runLive (fun d =>
    if f.hdr.type ≠ 4 then d
    else match respArrive f d with
    | (none, d) => d
    | (some m, d) =>
      let h := f.hdr
      if m.op ≠ 3 then d
      else
        let at_ := h.off - m.off
        let d := if m.off ≤ h.off && at_ + h.len ≤ m.len then laneWrite 0 (m.laddr + at_) f.payload d else d
        let m' := { m with landed := (tdel h.pidx m.landed) ++ [(h.pidx, h.len)], lastIdx := if h.last then some h.pidx else m.lastIdx }
        let d := modDst h.src (fun t => { t with msgs := t.msgs.map fun x => if x.msn = m.msn then m' else x }) d
        match m'.lastIdx with
        | none => d
        | some n =>
          if !((List.range (n + 1)).all fun i => m'.landed.any (·.1 == i)) then d
          else if bytesDone m' = m.len then endMsg h.src m' true 0 0 0 m.len d
          else endMsg h.src m' false 8 0 3 (bytesDone m') d) s

/-- CDT_ATOMIC_RESP: the old value goes to RES_ADDR and the message ends OK (R491). -/
def execCdtAtomicResp (f : CdtFrame) (s : State) : Host.Outcome State Fault Refusal :=
  runLive (fun d =>
    if f.hdr.type ≠ 6 then d
    else match respArrive f d with
    | (none, d) => d
    | (some m, d) =>
      if m.op < 4 then d
      else endMsg f.hdr.src m true 0 0 0 0 (if m.desc.isSome then laneWrite 0 m.res f.payload d else d)) s

/-- CDT_ACK: releases packets, sends missing ones again, completes messages (R477, R484, R491). -/
def execCdtAck (f : CdtFrame) (s : State) : Host.Outcome State Fault Refusal :=
  runLive (fun d =>
    if f.hdr.type ≠ 8 then d
    else
      let (ok, d) := frameOk f d
      if !ok then d
      else
        let h := f.hdr
        let stale := match (getDst h.src d).boot with | some b => newer b h.boot | none => false
        let fresh := match (getDst h.src d).boot with | some b => newer h.boot b | none => false
        if stale then bump Reg.CDT_RX_STALE_BOOT d
        else
          let d := peerReboot h.src h.boot d
          let d := if fresh then d else takeAck h.src (f.port % 4) h.psn (fld f.payload 0 8) d
          pumpWaiting d.cdt.waiting.length d) s

/-- CDT_NAK: fails a message with its code or, for BUSY, defers its resend (R484, R485, R491). -/
def execCdtNak (f : CdtFrame) (s : State) : Host.Outcome State Fault Refusal :=
  runLive (fun d =>
    if f.hdr.type ≠ 9 then d
    else
      let (ok, d) := frameOk f d
      if !ok then d
      else
        let h := f.hdr
        let stale := match (getDst h.src d).boot with | some b => newer b h.boot | none => false
        let fresh := match (getDst h.src d).boot with | some b => newer h.boot b | none => false
        if stale then bump Reg.CDT_RX_STALE_BOOT d
        else
          let d := peerReboot h.src h.boot d
          let d := if fresh then d else takeNak h.src (f.port % 4) h.msn (fld f.payload 0 1) (fld f.payload 1 2) h.psn d
          pumpWaiting d.cdt.waiting.length d) s

/-! ### Timers and links -/

/-- CDT_ACK_DELAY_EXPIRE: 2 µs after the first unacknowledged packet of a path its ACK goes (R476). -/
def execCdtAckDelayExpire (src : Fin 8) (port : Fin 4) (s : State) : Host.Outcome State Fault Refusal :=
  runLive (fun d => if (getRx src port d).pend = 0 then d else sendAck src port d) s

/-- CDT_RETRANSMIT_TIMEOUT: a packet unacknowledged for its timeout is sent again with RETX, or the path goes down; `waited` are the µs
since it was last sent (R477). -/
def execCdtRetransmitTimeout (dst : Fin 8) (port : Fin 4) (psn waited : BitVec 32) (s : State) : Host.Outcome State Fault Refusal :=
  runLive (fun d =>
    match (getPath dst port d).unacked.find? (·.hdr.psn == psn.toNat) with
    | some q => if rdb (Reg.CDT_PORT_UP port) d && rtoOf q d ≤ waited.toNat then retry dst port q d else d
    | none => d) s

/-- CDT_MAX_AGE_EXPIRE: at TEMPO0 + MAX_AGE an outstanding message fails (R479); the floor moves past what failed MAX_AGE tempi ago. -/
def execCdtMaxAgeExpire (dst : Fin 8) (s : State) : Host.Outcome State Fault Refusal :=
  runLive (fun d =>
    let d := ((getDst dst d).msgs.filter fun m => m.tempo0 + maxAge d ≤ tempoNow d).foldl (fun d m => failMsg dst 3 m d) d
    let d := modDst dst (fun t => { t with failed := t.failed.filter fun f => tempoNow d < f.2 + maxAge d }) d
    pumpWaiting d.cdt.waiting.length d) s

/-- CERCO_LINK_DOWN: the messages of the port fail, its paths end (R470, R478, R497). -/
def execCercoLinkDown (p : Fin 4) (s : State) : Host.Outcome State Fault Refusal :=
  runLive (fun d => if rdb (Reg.CDT_PORT_UP p) d then cercoDown p d else d) s

/-- CERCO_LINK_UP: a port with a role comes up under a token grant for its training (R467, R470, R604); a PEER path that was down is
restored. -/
def execCercoLinkUp (p : Fin 4) (s : State) : Host.Outcome State Fault Refusal :=
  runLive (fun d =>
    if portRole p d = 0 || rdb (Reg.CDT_PORT_UP p) d || !rdb Reg.CDT_CTRL_EN d then d
    else if !hasGrant (.cercoPort p) 5 d then postReq { who := .cercoPort p, cls := 5, cost := 40 } d
    else
      let d := setb (Reg.CDT_PORT_UP p) (endHold (.cercoPort p) 5 d)
      let d := if portRole p d = 1 then forEach (List.range 8) (fun v d => modPath v p (fun x => { x with down := false }) d) d else d
      showPaths d) s

/-- PATH_EXPIRE: no beacon or heartbeat of a DEV on a port for 3,000 tempi (R470). -/
def execPathExpire (dev : Fin 8) (p : Fin 4) (s : State) : Host.Outcome State Fault Refusal :=
  runLive (fun d =>
    match (getPath dev p d).heard with
    | some t => if t + 3000 < tempoNow d then showPaths (modPath dev p (fun x => { x with heard := none }) d) else d
    | none => d) s

/-! ### Windows -/

/-- WINDOW_OPEN: the entry that CDT_WOPEN names opens when it is CLOSED, with a fresh CHECK (R493, R657). -/
def execWindowOpen (s : State) : Host.Outcome State Fault Refusal :=
  runLive (fun d =>
    let i := rd Reg.CDT_WOPEN_INDEX d
    let base := rd Reg.CDT_WOPEN_BASE_BASE d
    let len := rd Reg.CDT_WOPEN_LEN_LEN d
    let perm := rd Reg.CDT_WOPEN_PERM d
    let fiu := bitOf perm 3
    let bad := len = 0 || perm = 0 || (fiu && perm != 8) || (fiu && !fiuOn d) || (!fiu && !inMem base len)
    if winState i d ≠ 0 then wr Reg.CDT_WOPEN_ST_RESULT 2 d
    else if bad then wr Reg.CDT_WOPEN_ST_RESULT 3 d
    else
      let (c, d) := drawNat 4096 d
      let a := winAddr i d
      let g := winGen i d
      let d := storeMem a (leBytes 8 (if fiu then 0 else base) ++ leBytes 8 len ++ leBytes 1 perm ++ leBytes 1 (rd Reg.CDT_WOPEN_SRCS d)
        ++ leBytes 1 g ++ leBytes 1 1 ++ leBytes 2 c ++ leBytes 2 0) d
      wr Reg.CDT_WOPEN_ST_KEY (winKey i d) (wr Reg.CDT_WOPEN_ST_RESULT 1 d)) s

/-- WINDOW_REVOKE: a revocation of an OPEN entry is staged (R494). -/
def execWindowRevoke (s : State) : Host.Outcome State Fault Refusal :=
  runLive (fun d =>
    let i := rd Reg.CDT_WREVOKE_INDEX d
    if winState i d ≠ 1 || d.cdt.revoke.contains i then d
    else showPending { d with cdt.revoke := d.cdt.revoke ++ [i] }) s

/-- WINDOW_COOLING_EXPIRE: at edge E + MAX_AGE a COOLING entry becomes CLOSED (R494). -/
def execWindowCoolingExpire (i : Fin 4096) (s : State) : Host.Outcome State Fault Refusal :=
  runLive (fun d => if winState i d = 3 && winEdge i d + maxAge d ≤ tempoNow d then winSetState i 0 d else d) s

/-- CDT_INJ_ARM: the trailer of the next reliable packet on the port named is inverted (Table 15.11). -/
def execCdtInjArm (s : State) : Host.Outcome State Fault Refusal := runLive (setb Reg.CDT_INJ_ARM) s

end Sys2Proof.Machine
end

