-- ==== Sys2Proof/Machine/Dedup.lean ====
section
/-!
DEFINITION. The commands of the de-duplication index (spec/07_dedup_index.md).
-/

namespace Sys2Proof.Machine

/-! ### Probes -/

/-- FIU_PROBE: the FIU takes the oldest queued probe (R242, R243). -/
def execFiuProbe (s : State) : Host.Outcome State Fault Refusal :=
  runLive (fun d =>
    match d.fiu.probes with
    | p :: ps => startProbe p false { d with fiu.probes := ps }
    | [] => d) s

/-- INDEX_PROBE_RECEIVE: another device's probe is answered, or refused with WRONG_OWNER (R233, R242, R657). -/
def execIndexProbeReceive (dev : Fin 8) (fp : List Byte) (kdom : Fin 4096) (tag : Nat) (s : State) :
    Host.Outcome State Fault Refusal :=
  runLive (fun d =>
    let fp := padTo 32 fp
    if servesPart (partOf (beNat fp)) d then
      let (a, d) := ownerProbe fp kdom d
      send (.indexReply dev tag a) d
    else send (.indexReply dev tag { result := 3, slot := 0, ver := rd Reg.FIU_OWN_VER_VERSION d }) d) s

/-- INDEX_REPLY_RECEIVE: the reply of a remote probe, or the transport's report that its message failed; a late reply is counted
(R233, R243). -/
def execIndexReplyReceive (tag : Nat) (r : Option IndexReply) (s : State) : Host.Outcome State Fault Refusal :=
  runLive (fun d =>
    match d.fiu.remote.find? (·.tag == tag), r with
    | none, some _ => bump Reg.FIU_STALE_LATE d
    | none, none => d
    | some p, none => if p.retryVer.isSome then d else probeLost p d
    | some p, some r =>
      if p.retryVer.isSome then bump Reg.FIU_STALE_LATE d
      else if r.result = 3 then
        if p.retried then probeLost p d
        else { d with fiu.remote := d.fiu.remote.map fun x => if x.tag = tag then { x with retryVer := some r.ver } else x }
      else
        let d := { d with fiu.remote := d.fiu.remote.erase p }
        giveAnswer p.who {
          result := r.result, flags := r.flags % 8 + 8, slot := r.slot, gid := if r.result = 0 then r.gid else 0, bucket := r.bucket
          part := partOf (beNat p.fp), owner := p.owner, ver := rd Reg.FIU_OWN_VER_VERSION d } d) s

/-- PROBE_TIMEOUT: no reply within PROBE_TMO tempi (R243). -/
def execProbeTimeout (tag : Nat) (s : State) : Host.Outcome State Fault Refusal :=
  runLive (fun d =>
    match d.fiu.remote.find? (·.tag == tag) with
    | some p => if p.retryVer.isNone && p.due ≤ tempoNow d then probeLost p (setb Reg.FIU_STATUS_TMO d) else d
    | none => d) s

/-- WRONG_OWNER_RETRY: this device's table has reached the version that a WRONG_OWNER reply named, and the probe is made once more
(R233). -/
def execWrongOwnerRetry (tag : Nat) (s : State) : Host.Outcome State Fault Refusal :=
  runLive (fun d =>
    match d.fiu.remote.find? (·.tag == tag) with
    | some p => match p.retryVer with
      | some v =>
        if rd Reg.FIU_OWN_VER_VERSION d < v then d
        else startProbe p.who true { d with fiu.remote := d.fiu.remote.erase p }
      | none => d
    | none => d) s

/-! ### Job rings -/

/-- The address of the oldest descriptor of an FIU ring, when there is one. -/
def fiuDesc (r : Nat) (d : Dev) : Option Nat :=
  let t := tget {} d.taskRings (128 + r)
  if t.prod = t.cons then none else some (rd (Reg.FIU_RING_BASE r) d + 32 * (t.cons % 256))

/-- A descriptor is refused (R254). -/
def fiuBad (b : Bytes) : Bool :=
  let op := fld b 0 1
  !(op == 1 || op == 2) || fld b 2 2 ≥ 4096 || fld b 5 3 != 0 || fld b 24 8 != 0
    || (fld b 4 1 > 63 && !(op == 1 && fld b 4 1 == 0xFF))

/-- End the oldest descriptor of a ring. -/
def endFiu (r a : Nat) (e : FiuEnd) (d : Dev) : Dev :=
  let d := storeNat (a + 1) 1 e.status d
  { d with taskRings := tmod {} d.taskRings (128 + r) fun t => { t with cons := (t.cons + 1) % 65536 } }

/-- FIU_INSERT: the oldest job of a ring when it is an INSERT, or one that the ring's rules refuse; ring 8 stands for the jobs that
the write pipeline posts. `far` is how another device's index window ends it (R246, R247, R254). -/
def execFiuInsert (ring : Fin 9) (far : FiuReport) (s : State) : Host.Outcome State Fault Refusal :=
  runLive (fun d =>
    if ring.val = 8 then
      match d.fiu.inserts with
      | j :: js => match doInsert 8 j far d with
        | (some e, d) => insertEnded j.gid e { d with fiu.inserts := js }
        | (none, d) => d
      | [] => d
    else match fiuDesc ring d with
      | none => d
      | some a =>
        let b := memRead d a 32
        let gid := fld b 8 8
        if fiuBad b then (if fld b 0 1 = 1 then insertEnded gid .refused (endFiu ring a .refused d) else endFiu ring a .refused d)
        else if fld b 0 1 = 2 then d
        else match doInsert ring ⟨gid, fld b 2 2, memRead d (fld b 16 8) 32, fld b 4 1⟩ far d with
          | (some e, d) => insertEnded gid e (endFiu ring a e d)
          | (none, d) => d) s

/-- FIU_REMOVE: the oldest job of a ring when it is a REMOVE; ring 8 stands for the stale entries that the write pipeline removes
(R245, R248). -/
def execFiuRemove (ring : Fin 9) (far : FiuReport) (s : State) : Host.Outcome State Fault Refusal :=
  runLive (fun d =>
    if ring.val = 8 then
      match d.fiu.removes with
      | j :: js =>
        let fp := beNat j.fp
        match doRemove 8 (partOf fp) (bucketKey (partOf fp) (bucketOf fp d)) j.slot (mkEntry j.fp j.gid j.kdom false)
          (fun b => entryMatches b j.fp j.kdom && entryGid b == j.gid) far d with
        | (some _, d) => { d with fiu.removes := js }
        | (none, d) => d
      | [] => d
    else match fiuDesc ring d with
      | none => d
      | some a =>
        let b := memRead d a 32
        if fiuBad b || fld b 0 1 ≠ 2 then d
        else
          let want := memRead d (fld b 16 8) 32
          let fp := entryFp want
          match doRemove ring (partOf fp) (bucketKey (partOf fp) (bucketOf fp d)) (fld b 4 1) want (fun x => x == want) far d with
          | (some e, d) => endFiu ring a e d
          | (none, d) => d) s

/-! ### Owners, filters, pins -/

/-- FILTER_REBUILD_DONE: the lowest partition in bypass leaves it (R240). -/
def execFilterRebuildDone (s : State) : Host.Outcome State Fault Refusal :=
  runLive (fun d => showIndex { d with fiu.bypass := d.fiu.bypass.drop 1 }) s

/-- FIU_OWN_APPLY_WRITE: the staged owner table is to apply at an edge, or at none (R232, R622). -/
def execFiuOwnApplyWrite (v : BitVec 64) (s : State) : Host.Outcome State Fault Refusal :=
  runLive (fun d => if v = 0 ∨ tempoNow d < v.toNat then wr Reg.FIU_OWN_APPLY_TEMPO v.toNat d else d) s

/-- A pin drop of the GID is built and not yet applied. -/
def pinBuilt (g : Nat) (d : Dev) : Bool :=
  d.stg.journal.any fun r => r.tsn > d.md.tsnOwn && (match r.body with
    | .pinDrop gs => gs.contains g
    | _ => false)

/-- PIN_DROP: the allocating head drops the pin of a GID in the retiring set, once every slot that it waits for has left reduction
(R250). -/
def execPinDrop (gid : Nat) (s : State) : Host.Outcome State Fault Refusal :=
  runLive (fun d =>
    match d.fiu.retiring.find? (·.gid == gid) with
    | none => d
    | some r =>
      let busy (t : Tab Slot) (l : List Nat) : Bool := t.any fun p => l.contains p.2.ssn && (p.2.state == 4 || p.2.state == 5)
      if !(r.mine || d.cas.castled || gidDev gid == ownDev d) || busy d.stg.slots r.own || busy d.stg.mirror r.peer || pinBuilt gid d
      then d else postRecord 0 (.pinDrop [gid]) d) s

/-- OWNER_SCRUB: every 1,000 tempi the next SCRUB_RATE buckets are checked; entries whose GTE is dead are removed. `dead` are the
foreign GIDs that their devices report dead (R251). -/
def execOwnerScrub (dead : List Nat) (s : State) : Host.Outcome State Fault Refusal :=
  runLive (fun d =>
    let ps := servedParts d
    let total := ps.length * 2 ^ bktBits d
    if !rdb Reg.FIU_CTRL_SCRUB_EN d || tempoNow d % 1000 ≠ 0 || total = 0 then d
    else
      let rate := rd Reg.FIU_CTRL_SCRUB_RATE d
      let pos (key : Nat) : Nat := (ps.takeWhile (· != key / 2 ^ 22)).length * 2 ^ bktBits d + key % 2 ^ 22
      let due := d.fiu.buckets.filter fun b => ps.contains (b.1 / 2 ^ 22) && (pos b.1 + total - d.fiu.scrub % total) % total < rate
      let gone := due.flatMap fun b => (b.2.filter fun e => entryValid e.2 &&
        (if gidLocal (entryGid e.2) d then (getGte (entryGid e.2) d).refcnt == 0 else dead.contains (entryGid e.2))).map fun e => (b.1, e.1)
      let d := gone.foldl (fun d x => putEntry x.1 x.2 [] (bump Reg.FIU_STALE_REMOVED d)) d
      { d with fiu.scrub := (d.fiu.scrub + rate) % total }) s

/-- REF_AUDIT_COMPARE: the counts of every head are in; each GTE of this device is compared and corrected (R252, R253). -/
def execRefAuditCompare (others : List (Nat × Nat)) (doubtful : List Nat) (s : State) : Host.Outcome State Fault Refusal :=
  runLive (auditCompare others doubtful) s

end Sys2Proof.Machine
end

