-- ==== Sys2Proof/Machine/Resets.lean ====
section
/-!
DEFINITION. Supplies, sideband balls and resets (spec/23_electrical_and_package.md, R633–R640; spec/20_scoresheet_and_faults.md, R580–R582;
spec/22_register_index.md, R623, R624). A reset or a power-up leaves the device in START-UP at t0, before the first step of Table 18.3.
-/

namespace Sys2Proof.Machine

/-- The jobs of an accelerator that a reset ends: running, split, and for the cipher engine preempted ones (R262, R288, R414). -/
def jobsAtReset (k : Nat) (d : Dev) : List (Nat × Nat) :=
  let a := getAccel k d
  (a.lanes.filterMap fun l => l.2.job) ++ if k = 3 then a.preempted.map fun p => (p.ring, p.idx) else []

/-- Every job, index job and Cerco message in progress at a reset ends ABORTED_RESET in its descriptor: 8, or 4 for a message; sealed
ranges are zeroised first (R254, R262, R288, R492). -/
def abortJobs (d : Dev) : Dev :=
  let d := forEach (those 16 fun k => (tget {} d.seals k).used) (fun k d => dropSeal k true d) d
  let d := forEach [3, 4, 5, 6] (fun k d => (jobsAtReset k d).foldl (fun d j => finishDesc k j.1 j.2 8 0 (counts 0 0 0) d) d) d
  let d := forEach (those 8 fun r => d.fiu.jobs.any (·.1 == r)) (fun r d =>
    match fiuDesc r d with
    | some a => storeNat (a + 1) 1 8 d
    | none => d) d
  (d.cdt.dsts.flatMap fun t => t.2.msgs.filterMap (·.desc)).foldl (fun d j => reportDesc j.1 j.2 4 0 0 0 0 false d) d

/-- A reset: one that clears a Checkmate raised outside SERVICE has cause 7 (R582, R623). The rails stay up: the pool and DRAM keep what they
hold, with what `abortJobs` writes. -/
def resetDevice (cause : Nat) (d : Dev) : Dev :=
  let e := abortJobs d
  let r := reboot (if d.flt.checkmateIn.isSome then 7 else cause) d
  { r with mem := e.mem, fab.flips := e.fab.flips, fab.poison := e.fab.poison }

/-- A Checkmate raised in SERVICE is in force: no reset is taken (R582). -/
def serviceCheckmate (d : Dev) : Bool := d.flt.checkmateIn == some 1

/-- POWER_GOOD: PWRGOOD is asserted (R633). With RESET_N high this is t0: power-on, cause 1, or 2 when VSB kept a Checkmate flag
(Table 18.7). A Checkmate that VIN's removal has not cleared stays. -/
def execPowerGood (s : State) : Host.Outcome State Fault Refusal :=
  run (fun d =>
    if d.pwr.good then d
    else
      let d := send (.pin .pwrgood true) d
      if d.flt.checkmateIn.isSome then { d with pwr.good := true, pins.pwrgood := true }
      else reboot (if d.sxc.ram.checkmate then 2 else 1) d) s

/-- The rails are down: PWRGOOD is deasserted; what VSB feeds keeps its state. -/
def railsDown (d : Dev) : Dev :=
  send (.pin .pwrgood false) { d with sxc.ram := vsbRam d, pwr.good := false, pins.pwrgood := false, tmp.ppsOut := false }

/-- POWER_GOOD_LOST: a rail leaves regulation (R633). -/
def execPowerGoodLost (s : State) : Host.Outcome State Fault Refusal :=
  run (fun d => if d.pwr.good && !d.pwr.adj3 then railsDown d else d) s

/-- Nothing feeds the VSB domain: the SXC's RAM is lost, FATAL_N and PWRCYC_REQ_N float to their pull-ups (R637, R638). -/
def standbyLost (d : Dev) : Dev :=
  if d.pwr.vsb || d.pwr.vin then d
  else
    let o := releasePins d
    sendAll o { d with sxc.ram := {}, pins.fatalN := true, pins.pwrcycReqN := true }

/-- VIN_REMOVED: a Checkmate is cleared and the device powers down (R582). -/
def execVinRemoved (s : State) : Host.Outcome State Fault Refusal :=
  run (fun d =>
    let d := if d.pwr.good then railsDown d else d
    standbyLost { d with pwr.vin := false, pwr.adj3 := false, flt.checkmateIn := none }) s

/-- VSB_PRESENCE_CHANGE: PWR_STATUS.VSB follows; without VSB and VIN the VSB domain loses what it held (R633). -/
def execVsbPresenceChange (present : Bool) (s : State) : Host.Outcome State Fault Refusal :=
  run (fun d => standbyLost (wr Reg.PWR_STATUS_VSB (b2n present) { d with pwr.vsb := present })) s

/-- RESET_N_ASSERT: a low of `lowNs` and its release. One of 1 µs or longer resets the device, but not under a Checkmate raised in
SERVICE; in time trouble the reset of R379 stands for it (R635). -/
def execResetNAssert (lowNs : Nat) (s : State) : Host.Outcome State Fault Refusal :=
  run (fun d => if lowNs < 1000 || !d.pwr.good || serviceCheckmate d || inTrouble d then d else resetDevice 3 d) s

/-- PERST_N_ASSERT: only the management endpoint's link is reset; no boot (R640). -/
def execPerstNAssert (s : State) : Host.Outcome State Fault Refusal :=
  run (fun d => if endpointUp d then send .linkReset d else d) s

/-- GLB_RESET: a write of GLB_CMD with RESET 1; taken from the management endpoint with KEY 0x5E7A alone, not in time trouble nor under a
Checkmate raised in SERVICE; it acts at the next edge (R623). -/
def execGlbReset (key : BitVec 16) (mgmt : Bool) (s : State) : Host.Outcome State Fault Refusal :=
  run (fun d =>
    if mgmt && key == 0x5E7A && endpointUp d && !inTrouble d && !serviceCheckmate d then { d with pwr.resetStaged := true } else d) s

/-- GLB_TEST: a write of GLB_CMD with TEST 1; it acts at the next edge (R624). -/
def execGlbTest (_mgmt : Bool) (s : State) : Host.Outcome State Fault Refusal :=
  runLive (fun d => { d with pwr.testStaged := true }) s

/-- NVME_MI_REQUEST: a management request over MCTP is answered, in TEST and RECOVERY too (R537). What it asks and what the answer holds is
the NVMe-MI specification's: open bytes. -/
def execNvmeMiRequest (_req : List Byte) (s : State) : Host.Outcome State Fault Refusal :=
  runLive (fun d =>
    let (n, d) := drawNat 4224 d
    let (b, d) := drawBytes n d
    send (.miResponse b) d) s

end Sys2Proof.Machine
end

