-- ==== Sys2Proof/Machine/Keys.lean ====
section
/-!
DEFINITION. Keys: the wrapped key table, loads of resident slots, import, transfer, rotation and removal of a domain's keys
(spec/09_cipher_and_keys.md, R305–R314), and the entries of the Security Policy Table they rest on
(spec/18_boot_and_attestation.md, R547, R554).
-/

namespace Sys2Proof.Machine

/-- Wrap a key under both heads' KEKs (R310); the peer's KEK is its own SXC's: a free value. -/
def wrapBoth (ctx : Nat) (key : Bytes) (d : Dev) : Bytes × Bytes × Dev :=
  let (peer, d) := drawBytes 40 d
  let (a, b) := bothWk (kwWrap (kekOf ctx d) key) peer d
  (a, b, d)

/-- CIP_KLOAD's effect: the load's RESULT, the slot left as it is when the load refuses (R308, R556). -/
def keyLoad (slot source index gen : Nat) (d : Dev) : Dev :=
  if asleep 0x2000048 d then d
  else
    let d := wr Reg.CIP_KLOAD_SLOT slot (wr Reg.CIP_KLOAD_SOURCE source (wr Reg.CIP_KLOAD_GEN gen (wr Reg.CIP_KLOAD_INDEX index d)))
    let result (r : Nat) (d : Dev) : Dev := wr Reg.CIP_KLOAD_ST_RESULT r d
    if slotHeld slot none d then result 2 d
    else if source = 7 then result 1 (zeroSlot slot d)
    else if debugOpen d || rd (Reg.CIP_KINFO_LOADSEQ slot) d = 65535 then result 4 d
    else match findKey source index gen d with
      | (.error r, d) => result r d
      | (.ok key, d) =>
        let kind := source
        let cls := if source ≥ 3 then 1 else 0
        result 1 (loadSlot slot kind cls index (if source = 1 then gen else 0) key d)

/-- KEY_LOAD_DEK: CIP_KLOAD with SOURCE 1 (R308). -/
def execKeyLoadDek (slot : Fin 256) (index : Fin 4096) (gen : Fin 256) (s : State) : Host.Outcome State Fault Refusal :=
  runLive (keyLoad slot 1 index gen) s

/-- KEY_LOAD_INTEGRITY: CIP_KLOAD with SOURCE 2 (R308). -/
def execKeyLoadIntegrity (slot : Fin 256) (index : Fin 4096) (s : State) : Host.Outcome State Fault Refusal :=
  runLive (keyLoad slot 2 index 0) s

/-- KEY_LOAD_REPL_PEER: CIP_KLOAD with SOURCE 3 (R308). -/
def execKeyLoadReplPeer (slot : Fin 256) (index : Fin 4096) (s : State) : Host.Outcome State Fault Refusal :=
  runLive (keyLoad slot 3 index 0) s

/-- KEY_LOAD_VAULT: CIP_KLOAD with SOURCE 4 (R308). -/
def execKeyLoadVault (slot : Fin 256) (index : Fin 4096) (s : State) : Host.Outcome State Fault Refusal :=
  runLive (keyLoad slot 4 index 0) s

/-- KEY_ZEROISE: CIP_KLOAD with SOURCE 7 (R308). -/
def execKeyZeroise (slot : Fin 256) (s : State) : Host.Outcome State Fault Refusal :=
  runLive (keyLoad slot 7 0 0) s

/-! ### Import and transfer (R306, R310) -/

/-- The key of a new generation takes CUR; what was CUR becomes PREV, and the domain rotates (R311). -/
def nextGeneration (n : Nat) (k : KeyDesc) (w : WrappedKey) (imported : Bool) (kmid a b : Bytes) (d : Dev) : Dev :=
  putWkt n { k with prevValid := true, rotating := true, prevGen := k.curGen, curGen := (k.curGen + 1) % 256, imported := imported }
    { w with curA := a, curB := b, prevA := w.curA, prevB := w.curB, kmid := kmid } d

/-- Distribute a domain's current key to the other holders (R306); none leaves while debug is unlocked (R556). -/
def distribute (n gen : Nat) (d : Dev) : Dev :=
  let (dom, d) := sptDomain n d
  if debugOpen d then d
  else sendAll ((those 8 fun v => bitOf dom.holders v && v != ownDev d).map fun v => .keyTransfer v n gen) d

/-- A key manager's Key Block, unwrapped: KW or KWP, 32 bytes (R310). -/
def openKeyBlock (kek blob : Bytes) : Option Bytes :=
  match (kwUnwrap kek blob).orElse fun _ => kwpUnwrap kek blob with
  | some k => if k.length = 32 then some k else none
  | none => none

/-- KEY_IMPORT's effect: a new generation for an existing domain, or a Notice when the Key Block does not unwrap (R310). -/
def keyImport (n : Nat) (blob unique : Bytes) (d : Dev) : Dev :=
  let (kek, d) := sptImportKek d
  match kek.bind fun k => openKeyBlock k blob with
  | none => notice Ev.CIP_IMPORT 0 n 0 d
  | some key =>
    match readWkt n d with
    | (none, d) => d
    | (some (k, w), d) =>
      if !k.valid || k.prevValid then d
      else
        let (a, b, d) := wrapBoth n key d
        distribute n ((k.curGen + 1) % 256) (nextGeneration n k w true ((sha256 unique).take 16) a b d)

/-- KEY_IMPORT: a Key Block that the management host relays (R310). -/
def execKeyImport (domain : Fin 4096) (blob unique : List Byte) (s : State) : Host.Outcome State Fault Refusal :=
  runLive (keyImport domain blob unique) s

/-- Store a DEK received from another holder under this SXC's KEK (R306). -/
def receiveDek (n gen : Nat) (key : Bytes) (d : Dev) : Dev :=
  match readWkt n d with
  | (none, d) => d
  | (some (k, w), d) =>
    let (a, b, d) := wrapBoth n key d
    if !k.valid then
      putWkt n ⟨n, true, true, false, false, gen, 0, false⟩ { w with curA := a, curB := b, kmid := List.replicate 16 0 } d
    else if gen = k.curGen then putWkt n k { w with curA := a, curB := b } d
    else if k.prevValid then (if gen = k.prevGen then putWkt n k { w with prevA := a, prevB := b } d else d)
    else if gen = (k.curGen + 1) % 256 then nextGeneration n k w k.imported w.kmid a b d
    else d

/-- KEY_TRANSFER_RECEIVE's effect: the other SXC's chain stands, and for a DEK both devices are holders (R305, R306). -/
def keyTransfer (n : Nat) (integrity : Bool) (gen fromDev : Nat) (key : Bytes) (chainOk : Bool) (d : Dev) : Dev :=
  if !chainOk || debugOpen d || key.length ≠ 32 then d
  else if integrity then
    if n ≥ 256 then d
    else
      let (a, b, d) := wrapBoth (iktContext n) key d
      let k : KeyDesc := ⟨n, true, true, false, false, 0, 0, false⟩
      let (p, d) := mkPaired 64 1 k.word d
      { d with keys.ikt := tset {} d.keys.ikt n { curA := a, curB := b, desc := p } }
  else
    let (dom, d) := sptDomain n d
    if n < 4096 && dom.valid && bitOf dom.holders fromDev && bitOf dom.holders (ownDev d) then receiveDek n gen key d else d

/-- KEY_TRANSFER_RECEIVE: a DEK, or an integrity key by its entry DEV × 32 + POOL, arrives SXC to SXC (R306). -/
def execKeyTransferReceive (entry : Fin 4096) (integrity : Bool) (gen : Fin 256) (fromDev : Fin 8) (key : List Byte)
    (chainOk : Bool) (s : State) : Host.Outcome State Fault Refusal :=
  runLive (keyTransfer entry integrity gen fromDev key chainOk) s

/-! ### Rotation and removal (R311, R313, R314) -/

/-- ROTATION_START: at the edge after King firmware asked for it, while PREV_VALID is 0 (R311). -/
def rotateDomain (n : Nat) (d : Dev) : Dev :=
  match readWkt n d with
  | (none, d) => d
  | (some (k, w), d) =>
    if !k.valid || !k.enc || k.prevValid then d
    else
      let (key, d) := drawBytes 32 d
      let (a, b, d) := wrapBoth n key d
      distribute n ((k.curGen + 1) % 256) (nextGeneration n k w false (List.replicate 16 0) a b d)

/-- Zeroise the resident slots whose identity satisfies a test. -/
def zeroSlotsWhere (p : Nat → Nat → Nat → Bool) (d : Dev) : Dev :=
  forEach (List.range 256) (fun n d =>
    if p (rd (Reg.CIP_KINFO_KIND n) d) (rd (Reg.CIP_KINFO_INDEX n) d) (rd (Reg.CIP_KINFO_GEN n) d) then zeroSlot n d else d) d

/-- End a rotation: the PREV fields and the PREV resident slots are zeroised, ROTATING clears (R313). -/
def endRotation (n : Nat) (d : Dev) : Dev :=
  match readWkt n d with
  | (none, d) => d
  | (some (k, w), d) =>
    if !k.rotating then d
    else
      let d := zeroSlotsWhere (fun kind i g => kind == 1 && i == n && g == k.prevGen) d
      putWkt n { k with prevValid := false, prevGen := 0, rotating := false }
        { w with prevA := List.replicate 40 0, prevB := List.replicate 40 0 } d

/-- DOMAIN_REMOVE: the domain's wrapped keys on both heads and its resident keys are zeroised (R314). -/
def removeDomainKeys (n : Nat) (d : Dev) : Dev :=
  zeroSlotsWhere (fun kind i _ => kind == 1 && i == n)
    { d with keys.wkt := tset {} d.keys.wkt n {}, keys.wktPeer := tset {} d.keys.wktPeer n {} }

/-- King firmware restores a slot from the peer's copy (R307). -/
def restoreWkt (n : Nat) (d : Dev) : Dev :=
  let w := tget {} d.keys.wktPeer n
  putWkt n (keyDescOf w.desc.val) w d

end Sys2Proof.Machine
end

