-- ==== Sys2Proof/Machine/Rotate.lean ====
section
/-!
DEFINITION. The rotation scan and the end of a rotation (spec/09_cipher_and_keys.md, R311–R313).
-/

namespace Sys2Proof.Machine

/-- The leaves of a namespace's roots, its live root's and its snapshots': the first square and the node of each. -/
def scanLeaves (nsid : Nat) (d : Dev) : List (Nat × Nat) :=
  let n := getNs nsid d
  leafList d n.depth n.root 0 ++ (snapsOf nsid d).flatMap fun s => leafList d s.depth s.root 0

/-- The domain of a rotation that a namespace's scan serves here: its DESC, while ROTATING. -/
def rotating (dom : Nat) (d : Dev) : Option KeyDesc :=
  let w := tget {} d.keys.wkt dom
  let k := keyDescOf w.desc.val
  if w.desc.ok 64 && k.rotating then some k else none

/-- A GTE is one that a rotation moves. -/
def toRekey (dom : Nat) (k : KeyDesc) (e : Gte) : Bool := e.enc && e.kdom == dom && e.gen == k.prevGen

/-- A REKEY of that leaf entry is built and not yet applied. -/
def rekeyOpen (leaf i : Nat) (d : Dev) : Bool :=
  d.stg.journal.any fun r => r.tsn > d.md.tsnOwn && match r.body with
    | .squares es => es.any fun e => e.action == 11 && e.page == leaf && e.square % 512 == i
    | _ => false

/-- Build the REKEY of a leaf entry; the first of a new GID carries its image, INDEXED with the pin counted and owed an INSERT when
the old one was (R312). -/
def postRekey (nsid leaf sq old : Nat) (r : Rekey) (d : Dev) : Dev :=
  let first := r.state == 2
  let e : SqEntry := {
    square := sq, newGid := r.newGid, oldGid := old, action := 11, page := leaf, sub := 0xFF, fp := r.fp
    insert := first && r.indexed
    gte := if first then some { r.gte with refcnt := if r.indexed then 2 else 1, indexed := r.indexed } else none }
  let r := if first then { r with state := 3, tsn := d.stg.tsnNext } else r
  postRecord nsid (.squares [e]) { d with keys.rotMap := tset {} d.keys.rotMap old r }

/-- The jobs that re-encrypting a granule takes: the digest, compression where it is on, and the cipher (R312, R653). Each needs a lane
whose slice runs. -/
def rekeyJobs (compress : Bool) (old : Nat) (d : Dev) : Bool × Dev :=
  ownJobs (.rekey old) ([6, 3] ++ if compress && accAvailable 4 d then [4] else []) d

/-- Re-encrypt a granule that has been read: compressed and encrypted into a new GID of this pair, its frame placed in an engine's
open row (R208–R214, R312). -/
def rekeyGranule (engine : Nat) (ns : Ns) (old : Nat) (img : Gte) (plain : Bytes) (d : Dev) : Option Dev :=
  let fp := sha256 plain
  let ((fmt, incomp, pay), d) := reducedPayload ns plain d
  match writeKey ns d with
  | (none, _) => none
  | (some (enc, gen, key), d) =>
    match nextGid ns.pool d with
    | (none, d) => some d
    | (some gid, d) =>
      let e := newGte fmt incomp enc ns.domain gen pay.length plain fp
      match placeFrame engine ns.pool 0 ⟨gid, none, 0, e.slen, sealFrame gid e key pay, none⟩ d with
      | (none, _) => none
      | (some _, d) =>
        let d := modPool ns.pool (fun p => { p with seqNext := p.seqNext + 1 }) d
        some { d with keys.rotMap := tset {} d.keys.rotMap old { state := 1, newGid := gid, gte := e, fp := fp, indexed := img.indexed } }

/-- The read of an old granule for the scan. -/
def rekeyJob (g : Nat) (d : Dev) : Option (Nat × ReadJob) := d.stg.reads.find? fun r => r.2.who == .rekey && r.2.gid == g

/-- The new GID of an old one still stands: its first REKEY is to be built, is not applied yet, or has left it alive. -/
def rekeyStands (r : Rekey) (d : Dev) : Bool :=
  r.state == 2 || (r.state == 3 && (r.tsn > d.md.tsnOwn || (getGte r.newGid d).refcnt != 0))

/-- Go on with one entry of a leaf as far as it can (R312): the granule is read, re-encrypted and placed; once it is programmed the REKEY
commits. A foreign GID's image is known once its frame has come. -/
def rekeyEntry (engine nsid leaf sq g : Nat) (k : KeyDesc) (d : Dev) : Dev :=
  let ns := getNs nsid d
  let r := tget {} d.keys.rotMap g
  if rekeyStands r d then postRekey nsid leaf sq g r d
  else if r.state = 1 then d
  else if gidLocal g d && ((getGte g d).refcnt == 0 || !toRekey ns.domain k (getGte g d)) then d
  else match rekeyJob g d with
    | none => startGranule .rekey nsid sq g 0 d
    | some (j, x) =>
      match x.res with
      | none => d
      | some (st, _, plain) =>
        if st ≠ 0 || !toRekey ns.domain k x.img then dropJob j d
        else
          let (ok, d) := rekeyJobs ns.compress g d
          if !ok then d
          else match rekeyGranule engine ns g x.img plain d with
            | some d => if (tget {} d.keys.rotMap g).state = 1 then dropJob j d else d
            | none => d

/-- ROTATION_SCAN_ENTRY: entry `i` of a leaf that a root of a namespace this head owns reaches (R312); `engine` carries the granule
through reduction. -/
def execRotationScanEntry (nsid leaf : Nat) (i : Fin 512) (engine : Fin 64) (s : State) : Host.Outcome State Fault Refusal :=
  runLive (fun d =>
    let ns := getNs nsid d
    match rotating ns.domain d, (scanLeaves nsid d).find? fun l => l.2 == leaf with
    | some k, some (base, _) =>
      let g := tget 0 (getNode leaf d).ent i
      if !ns.exists_ || !ownsGroup ns.group d || gidNil g || rekeyOpen leaf i d || walkHolds nsid d || inTrouble d || metaStalled d
          || !(redEngines d).contains engine.val then d
      else rekeyEntry engine nsid leaf (base + i) g k d
    | _, _ => d) s

/-- ROTATION_END: no live GTE of the domain stands at PREV_GEN here, and the other holders report none (`othersClear`): King firmware
ends the rotation (R313). -/
def execRotationEnd (domain : Fin 4096) (othersClear : Bool) (s : State) : Host.Outcome State Fault Refusal :=
  runLive (fun d =>
    match rotating domain d with
    | some k =>
      if !othersClear || d.md.gtes.any (fun g => g.2.refcnt != 0 && toRekey domain k g.2) then d
      else endRotation domain { d with keys.rotMap := d.keys.rotMap.filter fun (x : Nat × Rekey) => x.2.gte.kdom != domain.val }
    | none => d) s

end Sys2Proof.Machine
end

