-- ==== Sys2Proof/Machine/Oim.lean ====
section
/-!
DEFINITION. The Opening Image (spec/17_opening_image.md): its layout, its validation, what it sets, and the commands of the OIM block.
-/

namespace Sys2Proof.Machine

/-! ### Layout (Tables 17.1 and 17.2, R527–R529) -/

/-- A failure of validation: step, section TYPE, byte offset (R530). -/
structure OimFail where
  step : Nat
  type : Nat := 0
  off : Nat := 0
  deriving DecidableEq, Repr

/-- A section: TYPE, offset of its payload, payload. -/
structure OimSec where
  type : Nat
  off : Nat
  body : Bytes
  deriving DecidableEq, Repr

/-- A RINGS entry. -/
structure OimRing where
  unit : Nat
  index : Nat
  clusters : Nat
  prio : Nat
  place : Nat
  deriving DecidableEq, Repr

/-- Bytes of a string are 0. -/
def noBytes (b : Bytes) (off n : Nat) : Bool := (sub b off n).all (· == 0)

/-- The first failing test of a list: tests with the TYPE and offset of what they look at. -/
def firstBad (step : Nat) (l : List (Bool × Nat × Nat)) : Option OimFail :=
  (l.find? fun x => !x.1).map fun x => ⟨step, x.2.1, x.2.2⟩

def oimLen (b : Bytes) : Nat := fld b 8 4
def oimSeq (b : Bytes) : Nat := fld b 24 8

/-- Step HEADER. -/
def oimHeader (b : Bytes) : Option OimFail :=
  firstBad 2 [
    (b.length ≥ 256 && fld b 0 4 == 0x4D494F51, 0, 0), (fld b 4 2 == 1, 0, 4), (fld b 6 2 == 256, 0, 6),
    (oimLen b % 8 == 0 && 256 ≤ oimLen b && oimLen b + 128 ≤ 4194304 && oimLen b + 128 ≤ b.length, 0, 8),
    (fld b 12 2 ≤ 96, 0, 12), (fld b 14 2 / 2 == 0, 0, 14), (noBytes b 20 4, 0, 20), (oimSeq b != 0, 0, 24),
    (fld b 48 1 / 4 == 0, 0, 48), (noBytes b 49 7, 0, 49), (noBytes b 96 160, 0, 96)]

/-- Step TARGET. -/
def oimTarget (b : Bytes) (d : Dev) : Option OimFail :=
  firstBad 3 [
    (fld b 16 4 == (rdReg 0 d).toNat % 2 ^ 32, 0, 16), (fld b 40 8 == 0 || fld b 40 8 == d.nv.serial, 0, 40),
    (bitOf (fld b 48 1) (b2n d.nv.headSel), 0, 48)]

/-- The key that an image names (step KEY). -/
def oimKeyOf (b : Bytes) (d : Dev) : Option Bytes × Dev :=
  let id := fld b 32 8
  if fld b 14 2 = 0 then (if d.nv.oimKey.keyId = id then some d.nv.oimKey.pub else none, d)
  else
    let (t, d) := sptRead .imageKeys d
    (t.bind fun t => (t.oimKeys.find? fun k => k.keyId == id).map (·.pub), d)

/-- The Opening Image floor: 0 with no table, 2^64 - 1 when its halves disagree (R547, R554). -/
def oimFloor (d : Dev) : Nat × Dev :=
  if d.sxc.spt.isNone then (0, d)
  else let (t, d) := sptRead .floors d; ((t.map (·.oimFloor)).getD (2 ^ 64 - 1), d)

/-- A payload length that Table 17.2 gives for a TYPE; nothing for an unlisted TYPE. -/
def secLen (type len : Nat) : Option Bool :=
  match type with
  | 0x01 => some (len == 232)
  | 0x02 => some (len == 24)
  | 0x03 | 0x04 | 0x06 | 0x07 | 0x08 | 0x09 | 0x0A | 0x0B | 0x0C => some (len == 8)
  | 0x05 => some (len % 8 == 0 && 8 ≤ len && len ≤ 1024)
  | 0x0D => some (len == 32)
  | 0x10 => some (len == 16392)
  | _ => none

/-- Step SECTION from an offset on: the sections so far in reverse, the last TYPE, the number seen. -/
def oimWalk (b : Bytes) : Nat → Nat → List OimSec → Nat → Nat → Except OimFail (List OimSec)
  | 0, o, _, _, _ => .error ⟨7, 0, o⟩
  | n + 1, o, acc, last, seen =>
    if o = oimLen b then if seen = fld b 12 2 then .ok acc.reverse else .error ⟨7, 0, 12⟩
    else if oimLen b < o + 16 then .error ⟨7, 0, o⟩
    else
      let t := fld b o 2
      let len := fld b (o + 4) 4
      let bad (i : Nat) : Except OimFail (List OimSec) := .error ⟨7, t, o + i⟩
      let many := t == 0x10 && last == 0x10
      if t < last || (t == last && !many) then bad 0
      else if fld b (o + 2) 2 ≠ 1 then bad 2
      else if len % 8 ≠ 0 ∨ oimLen b < o + 16 + len then bad 4
      else if fld b (o + 8) 4 / 2 ≠ 0 then bad 8
      else if !noBytes b (o + 12) 4 then bad 12
      else match secLen t len with
        | none => if bitOf (fld b (o + 8) 4) 0 then oimWalk b n (o + 16 + len) acc t (seen + 1) else bad 0
        | some false => bad 4
        | some true =>
          let s : OimSec := ⟨t, o + 16, sub b (o + 16) len⟩
          if many && (match acc with | p :: _ => fld s.body 0 2 ≤ fld p.body 0 2 | [] => false) then bad 16
          else if t = 0x10 ∧ (acc.filter (·.type == 0x10)).length ≥ 64 then bad 0
          else oimWalk b n (o + 16 + len) (s :: acc) t (seen + 1)

/-! ### The values (Table 17.2) -/

/-- A section's payload, or its defaults. -/
def secBody (l : List OimSec) (type : Nat) (dflt : Bytes) : Bytes := ((l.find? (·.type == type)).map (·.body)).getD dflt

def defIdentity : Bytes := leBytes 2 0x0F00 ++ List.replicate 230 0
def defLanes : Bytes := List.replicate 8 1 ++ List.replicate 8 0 ++ List.replicate 8 0xFF
/-- The lanes of R525: host groups in mode 0, ports UNUSED. -/
def dumbLanes : Bytes := List.replicate 16 0 ++ List.replicate 8 0xFF
def defClusters : Bytes := [0, 0, 1, 1, 1, 2, 2, 3]
def defPool : Bytes := [1, 4, 16, 12, 8, 4, 3, 0]
def defTempo : Bytes := [3, 0, 0, 0, 0, 0, 0, 0]
def defFabric : Bytes := [16, 8, 4, 4, 0, 0, 0, 0]
def defPower : Bytes := leBytes 2 230 ++ List.replicate 6 0
def defFault : Bytes := [3, 0] ++ leBytes 2 2000 ++ List.replicate 4 0
def defStorage : Bytes := [16, 20, 2, 0] ++ leBytes 2 4000 ++ [0, 0]
def defNetwork : Bytes := [8, 8, 3, 6, 0, 0] ++ leBytes 2 2000
def defFeatures : Bytes := [0x37, 0, 0, 0, 0, 0, 0, 0]
def defFiles : Bytes := (List.range 32).map fun i => BitVec.ofNat 8 (i / 4 * 17)

/-- Rings of each UNIT, their size and alignment, in bytes. -/
def ringCount (u : Nat) : Nat := ([16, 8, 16, 8, 8, 16, 32][u]?).getD 0
def ringSize (u : Nat) : Nat := ([32768, 16384, 16384, 16384, 8192, 16384, 4194304][u]?).getD 1
def ringAlign (u : Nat) : Nat := ([32768, 16384, 16384, 16384, 8192, 16384, 16384][u]?).getD 1

/-- The entries of a RINGS section; nothing when it is absent. -/
def oimRings (l : List OimSec) : Option (List OimRing) :=
  (l.find? (·.type == 5)).map fun s => (List.range (s.body.length / 8)).map fun i =>
    let e := sub s.body (8 * i) 8
    ⟨fld e 0 1, fld e 1 1, fld e 2 1, fld e 3 1, fld e 4 4⟩

/-- The rings of an image without RINGS: every ring of every unit open to all clusters at PRIO 1, packed in unit and index order
(R486). -/
def packedRings : List OimRing :=
  let units := (List.range 6).flatMap fun u => (List.range (ringCount u)).map fun i => (u, i)
  let (l, _) := units.foldl (fun (acc : List OimRing × Nat) x =>
    let a := (acc.2 + ringAlign x.1 - 1) / ringAlign x.1 * ringAlign x.1
    (acc.1 ++ [⟨x.1, x.2, 0xFF, 1, a / 4096⟩], a + ringSize x.1)) ([], 0)
  l ++ [3, 4, 5, 7, 8, 9].map fun s => ⟨6, s, 0xFF, 1, s * 1024⟩

/-- The VALUE tests of single fields (the queue depths of Table 3.7 among them, R95; the staging and bucket sizes, R236): outcome, TYPE,
offset in the payload. -/
def oimFields (s : OimSec) : List (Bool × Nat × Nat) :=
  let b := s.body
  let byte (i : Nat) : Nat := fld b i 1
  let at_ (l : List (Bool × Nat)) : List (Bool × Nat × Nat) := l.map fun x => (x.1, s.type, s.off + x.2)
  let below (off n top : Nat) : List (Bool × Nat) := (List.range n).map fun i => (byte (off + i) ≤ top, off + i)
  match s.type with
  | 0x01 => at_ [(byte 0 ≤ 3, 0), (byte 1 ≤ 7 || byte 1 == 0xF, 1), (fld b 2 2 ≤ 223, 2), (noBytes b 4 4, 4),
      ((sub b 8 (fld b 2 2)).all (·.toNat < 128) && noBytes b (8 + fld b 2 2) (224 - fld b 2 2), 8)]
  | 0x02 => at_ (below 0 8 3 ++ below 8 4 3 ++ [(noBytes b 12 4, 12)])
  | 0x03 => at_ (below 0 8 3)
  | 0x04 => at_ [(noBytes b 7 1, 7)]
  | 0x05 => at_ ((List.range (b.length / 8)).flatMap fun i =>
      let o := 8 * i
      [(byte o ≤ 6, o),
       (byte (o + 1) < ringCount (byte o) && (byte o != 6 || [3, 4, 5, 7, 8, 9].contains (byte (o + 1)) || 16 ≤ byte (o + 1)), o + 1),
       (byte (o + 3) ≤ 3, o + 3)])
  | 0x06 => at_ [((periodOf (byte 0)).isSome, 0), (byte 1 ≤ 2, 1), (byte 2 ≤ 1, 2), (noBytes b 3 5, 3)]
  | 0x07 => at_ [(12 ≤ byte 0 && byte 0 ≤ 32, 0), (4 ≤ byte 1 && byte 1 ≤ 16, 1), (2 ≤ byte 2 && byte 2 ≤ 8, 2),
      (2 ≤ byte 3 && byte 3 ≤ 8, 3), (noBytes b 4 4, 4)]
  | 0x08 => at_ [(100 ≤ fld b 0 2 && fld b 0 2 ≤ 260, 0), (noBytes b 2 6, 2)]
  | 0x09 => at_ [(byte 0 ≤ 7, 0), (noBytes b 1 1, 1), (100 ≤ fld b 2 2, 2), (noBytes b 4 4, 4)]
  | 0x0A => at_ [(1 ≤ byte 0 && byte 0 ≤ 16, 0), (10 ≤ byte 1 && byte 1 ≤ 22, 1), (byte 2 ≤ 2, 2), (noBytes b 3 1, 3),
      (500 ≤ fld b 4 2, 4), (noBytes b 6 2, 6)]
  | 0x0B => at_ [(byte 2 ≤ 7, 2), (byte 3 ≤ 7, 3), (fld b 4 2 ≤ 4094, 4), (200 ≤ fld b 6 2, 6)]
  | 0x0C => at_ [(byte 0 < 128, 0), (noBytes b 1 7, 1)]
  | 0x10 => at_ [(noBytes b 2 6, 2)]
  | _ => []

/-- The cross-checks of R531 but the power envelope's; among them the functions of R22 and the bank sums and minimum sizes of R23 and
R24, which leave the image invalid (R25). -/
def oimCross (l : List OimSec) : List (Bool × Nat × Nat) :=
  let off (t : Nat) : Nat := ((l.find? (·.type == t)).map (·.off)).getD 0
  let fn := (secBody l 3 defClusters).map (·.toNat)
  let banks := ((secBody l 4 defPool).take 7).map (·.toNat)
  let net := secBody l 0x0B defNetwork
  let feat := fld (secBody l 0x0C defFeatures) 0 1
  let lanes := secBody l 2 defLanes
  let rs := (oimRings l).getD []
  let area (u : Nat) : Nat := if u = 6 then 0x8000000 else (banks[5]?).getD 0 * 0x400000
  let inside (r : OimRing) : Bool := r.place * 4096 % ringAlign r.unit == 0 && r.place * 4096 + ringSize r.unit ≤ area r.unit
  let apart (x y : OimRing) : Bool := (x.unit == 6) != (y.unit == 6)
    || x.place * 4096 + ringSize x.unit ≤ y.place * 4096 || y.place * 4096 + ringSize y.unit ≤ x.place * 4096
  let ix := rs.zip (List.range rs.length)
  [([0, 1, 2].all (fun f => fn.contains f), 3, off 3),
   (banks.sum == 48 && banks.head? == some 1 && (banks.zip [1, 2, 4, 4, 2, 2, 1]).all (fun p => p.2 ≤ p.1), 4, off 4),
   (ix.all (fun p => inside p.1 && ix.all fun q => p.2 == q.2 || apart p.1 q.1), 5, off 5),
   (rs.all (fun r => r.unit != 4 || (List.range 8).all fun c => !bitOf r.clusters c || (fn[c]?).getD 0 == 1 || (fn[c]?).getD 0 == 2), 5, off 5),
   (fld net 1 1 &&& fld net 0 1 == fld net 1 1, 0x0B, off 0x0B),
   (feat % 4 != 0, 0x0C, off 0x0C),
   (bitOf feat 5 || noBytes lanes 8 4, 0x02, off 2)]

/-! ### What an image sets -/

/-- Place a ring (R486). -/
def placeRing (r : OimRing) (d : Dev) : Dev :=
  let scratch := poolBase + (d.fab.banks.take 5).sum * 0x400000
  let base := (if r.unit = 6 then dramBase else scratch) + r.place * 4096
  let put (b c p : Field) (d : Dev) : Dev := wr b base (wr c r.clusters (wr p r.prio d))
  match r.unit with
  | 0 => put (Reg.CIP_RING_BASE r.index) (Reg.CIP_RING_CLUSTERS r.index) (Reg.CIP_RING_PRIO r.index) d
  | 1 => put (Reg.DIG_RING_BASE r.index) (Reg.DIG_RING_CLUSTERS r.index) (Reg.DIG_RING_PRIO r.index) d
  | 2 => put (Reg.CMP_RING_BASE r.index) (Reg.CMP_RING_CLUSTERS r.index) (Reg.CMP_RING_PRIO r.index) d
  | 3 => put (Reg.ERS_RING_BASE r.index) (Reg.ERS_RING_CLUSTERS r.index) (Reg.ERS_RING_PRIO r.index) d
  | 4 => wr (Reg.FIU_RING_BASE r.index) base (wr (Reg.FIU_RING_CLUSTERS r.index) r.clusters d)
  | 5 => put (Reg.CDT_RING_BASE r.index) (Reg.CDT_RING_CLUSTERS r.index) (Reg.CDT_RING_PRIO r.index) d
  | _ => wr (Reg.CDT_SVC_BASE r.index) base d

/-- NVF_CTRL.FABRIC_FWDL: the image's and ALLOW_FABRIC_FWDL (R549, R554). -/
def showFwdl (d : Dev) : Dev :=
  let (t, d) := if d.oimCfg.fwdl then sptRead .policy d else (d.sxc.spt, d)
  wr Reg.NVF_CTRL_FABRIC_FWDL (b2n (d.oimCfg.fwdl && (t.map (·.allowFwdl)).getD false)) d

/-- Every OI field takes its value from an image's sections (R12, R468, R524), at boot only (R526); `lanes` the payload used where LANES
is absent (R525). -/
def applyOim (lanes : Bytes) (l : List OimSec) (d : Dev) : Dev :=
  let body (t : Nat) (dflt : Bytes) (i n : Nat) : Nat := fld (secBody l t dflt) i n
  let id := secBody l 1 defIdentity
  let la := secBody l 2 lanes
  let cl := secBody l 3 defClusters
  let fi := secBody l 0x0D defFiles
  let feat := body 0x0C defFeatures 0 1
  let d := wr Reg.CAS_CTRL_PAIR (fld id 0 1) (wr Reg.TMP_CTRL_MASTER_DEV (fld id 1 1) d)
  let d := wr Reg.CDT_CTRL_DEV (2 * (fld id 0 1 % 4) + b2n d.nv.headSel) (wr Reg.CAS_CTRL_HEAD (b2n d.nv.headSel) d)
  let d := forEach (List.range 8) (fun g d => wr (Reg.ETH_PORTCFG_GROUP g) (fld la g 1) d) d
  let d := forEach (List.range 4) (fun p d => wr (Reg.CDT_PORT_ROLE p) (fld la (8 + p) 1) d) d
  let d := wr Reg.MDL_LANE_EN_EN (fld la 16 8) d
  let d := forEach (List.range 8) (fun c d => wr (Reg.CL_CTRL_FUNCTION c) (fld cl c 1) d) d
  let d := { d with fab.banks := ((secBody l 4 defPool).take 7).map (·.toNat) }
  let d := ((oimRings l).getD packedRings).foldl (fun d r => placeRing r d) d
  let d := wr Reg.TMP_CTRL_PERIOD (body 6 defTempo 0 1) (wr Reg.TMP_CTRL_SRC (body 6 defTempo 1 1) (wr Reg.TMP_CTRL_PPS_OUT_EN (body 6 defTempo 2 1) d))
  let d := wr Reg.FAB_CTRL_DEPTH_DAT (body 7 defFabric 0 1) (wr Reg.FAB_CTRL_DEPTH_REQ (body 7 defFabric 1 1)
    (wr Reg.FAB_CTRL_DEPTH_GO (body 7 defFabric 2 1) (wr Reg.FAB_CTRL_DEPTH_ACK (body 7 defFabric 3 1) d)))
  let watts := body 8 defPower 0 2
  let d := wr Reg.PWR_CTRL_ENVELOPE watts (wr Reg.PWR_STATUS_EFF_ENV (20 * watts) { d with pwr.envelope := 20 * watts, pwr.envTempo := 20 * watts })
  let pol := body 9 defFault 0 1
  let d := wr Reg.CAS_CTRL_POL_KING (pol % 2) (wr Reg.CAS_CTRL_POL_ACCEL (pol / 2) (wr Reg.CAS_CTRL_POL_TT_LOST (pol / 4) d))
  let (esc, d) := mkPaired 16 6 (body 9 defFault 2 2) d
  let d := wr Reg.FLT_CTRL_ESCALATE esc.val { d with flt.escalate := esc }
  let d := wr Reg.FIU_CTRL_BKT_BITS (body 0x0A defStorage 1 1) (wr Reg.ERS_RB_SPARE (body 0x0A defStorage 2 1) d)
  let d := wr Reg.ETH_PFC_LOSSLESS (body 0x0B defNetwork 0 1) (wr Reg.ETH_PFC_WRITE_PRIO (body 0x0B defNetwork 1 1) d)
  let d := wr Reg.CDT_CTRL_PCP_DATA (body 0x0B defNetwork 2 1) (wr Reg.CDT_CTRL_PCP_CTRL (body 0x0B defNetwork 3 1)
    (wr Reg.CDT_CTRL_VLAN (body 0x0B defNetwork 4 2) (wr Reg.CDT_CTRL_MAX_AGE (body 0x0B defNetwork 6 2) d)))
  let d := wr Reg.NVF_CTRL_RDMA_EN (feat % 2) (wr Reg.NVF_CTRL_TCP_EN (feat / 2) (wr Reg.NVF_CTRL_DISC_EN (feat / 4)
    (wr Reg.FIU_CTRL_EN (feat / 16) (wr Reg.CDT_CTRL_EN (feat / 32) (wr Reg.FWU_STATUS_COMPAT (feat / 64) d)))))
  let d := forEach (List.range 64) (fun n d => wr (Reg.ERS_FILE_FILE (n / 16) (n % 16)) (fld fi (n / 2) 1 / 16 ^ (n % 2)) d) d
  showFwdl { d with oimCfg := {
    nqn := sub id 8 (fld id 2 2), staging := body 0x0A defStorage 0 1, rowAge := body 0x0A defStorage 4 2, fwdl := bitOf feat 3
    thresh := (l.filter (·.type == 0x10)).foldl (fun t s => tset [] t (fld s.body 0 2) (s.body.drop 8)) [] } }

/-! ### Validation (R530, R531, Table 17.3) -/

/-- Validate an image: its sections, or the failure. -/
def validateOim (b : Bytes) (d : Dev) : Except OimFail (List OimSec) × Dev :=
  match (oimHeader b).orElse fun _ => oimTarget b d with
  | some f => (.error f, d)
  | none =>
    match oimKeyOf b d with
    | (none, d) => (.error ⟨4, 0, 32⟩, d)
    | (some k, d) =>
      if !Config.ecdsaVerify k (sha384 (b.take (oimLen b))) (sub b (oimLen b) 96) then (.error ⟨5, 0, oimLen b⟩, d)
      else
        let (fl, d) := oimFloor d
        if oimSeq b < fl then (.error ⟨6, 0, 24⟩, d)
        else match oimWalk b 98 256 [] 0 0 with
          | .error f => (.error f, d)
          | .ok l =>
            let watts := fld (secBody l 8 defPower) 0 2
            let base := leastBase (applyOim defLanes l { d with oimCfg := {}, sxc.spt := none })
            let env : Bool × Nat × Nat := (decide (base ≤ 20 * watts), 8, ((l.find? (·.type == 8)).map (·.off)).getD 0)
            match firstBad 8 (l.flatMap oimFields ++ oimCross l ++ [env]) with
            | some f => (.error f, d)
            | none => (.ok l, d)

/-- The result code of a validation: 1 valid, else the failing step (Tables 17.7 and 17.8). -/
def oimCode (r : Except OimFail (List OimSec)) : Nat := match r with | .ok _ => 1 | .error f => f.step

/-- Show a failed validation in OIM_RESULT. -/
def showOimFail (f : OimFail) (d : Dev) : Dev :=
  wr Reg.OIM_RESULT_OFFSET f.off (wr Reg.OIM_RESULT_TYPE f.type (wr Reg.OIM_RESULT_STEP f.step d))

/-- The image that OIM_LOAD names in DRAM. -/
def oimLoaded (d : Dev) : Bytes := memRead d (rd Reg.OIM_LOAD_ADDR d) (8 * rd Reg.OIM_LOAD_LEN d)

/-- A write of OIM_CMD.GO: ignored and counted while a command runs (R533); otherwise the command, to its end. -/
def oimCommand (op : Nat) (f : Dev → Nat × Dev) (d : Dev) : Dev :=
  if rdb Reg.OIM_CMD_ST_BUSY d then bump Reg.OIM_CMD_ST_IGNORED d
  else
    let (r, d) := f (wr Reg.OIM_CMD_OP op d)
    wr Reg.OIM_CMD_ST_RESULT r d

/-- OIM_VALIDATE: the steps of R530 on the image in DRAM; nothing changes (R532). -/
def execOimValidate (s : State) : Host.Outcome State Fault Refusal :=
  runLive (oimCommand 0 fun d =>
    match validateOim (oimLoaded d) d with
    | (.ok _, d) => (1, d)
    | (.error f, d) => (f.step, showOimFail f d)) s

/-- OIM_COMMIT: the same steps, then SEQ above the running image's, then the other region is erased and programmed and read back
(R532). `good`: the flash programs and reads back; without it the region's header is never programmed. -/
def execOimCommit (good : Bool) (s : State) : Host.Outcome State Fault Refusal :=
  runLive (oimCommand 1 fun d =>
    let b := oimLoaded d
    match validateOim b d with
    | (.error f, d) => (f.step, showOimFail f d)
    | (.ok _, d) =>
      if oimSeq b ≤ rd Reg.OIM_SEQ_SEQ d then (9, showOimFail ⟨9, 0, 24⟩ d)
      else
        let region := 1 - rd Reg.OIM_STATUS_ACTIVE d
        let d := { d with nv.oim := tset [] d.nv.oim region (if good then b.take (oimLen b + 128) else []) }
        (if good then 1 else 10, d)) s

/-- A free place for a table: a multiple of 4 KiB in a memory of so many bytes. -/
def freePlace (base size : Nat) (f : Field) (d : Dev) : Dev :=
  let (i, d) := drawNat (size / 4096) d
  wr f (base + 4096 * i) d

/-- The tables whose place no section of an image states (R12): the engines' task rings in the pool; the command tables, the window table
and the erase-gate bitmaps in DRAM. Where the Opening Image's load puts them is open. -/
def placeTables (d : Dev) : Dev :=
  let d := forEach (List.range 64) (fun e d => freePlace poolBase poolSize (Reg.CL_TQ_BASE_BASE (e / 8) (e % 8)) d) d
  [Reg.CAS_CMDT_BASE, Reg.CAS_CMDT_M_BASE, Reg.CDT_WTBL_BASE, Reg.MDL_FT_EGATE_BASE].foldl (fun d f => freePlace dramBase dramSize f d) d

/-- START-UP's choice (R524): both regions validated, the higher SEQ runs, region 0 on a tie; the defaults when neither is valid
(R525). Answers whether an image runs, and its bytes. -/
def chooseOim (d : Dev) : Option Bytes × Dev :=
  let b0 := tget [] d.nv.oim 0
  let b1 := tget [] d.nv.oim 1
  let (r0, d) := validateOim b0 d
  let (r1, d) := validateOim b1 d
  let shown (r : Except OimFail (List OimSec)) (d : Dev) : Dev := match r with | .ok _ => d | .error f => showOimFail f d
  let d := shown r1 (shown r0 d)
  let d := wr Reg.OIM_STATUS_R0_RES (oimCode r0) (wr Reg.OIM_STATUS_R1_RES (oimCode r1) d)
  let use (n : Nat) (b : Bytes) (l : List OimSec) (d : Dev) : Option Bytes × Dev :=
    let d := wr Reg.OIM_STATUS_ACTIVE n (wr Reg.OIM_STATUS_SEQ_LO (oimSeq b) (wr Reg.OIM_SEQ_SEQ (oimSeq b) d))
    (some b, applyOim defLanes l d)
  match r0, r1 with
  | .ok l0, .ok l1 => if oimSeq b0 < oimSeq b1 then use 1 b1 l1 d else use 0 b0 l0 d
  | .ok l0, .error _ => use 0 b0 l0 d
  | .error _, .ok l1 => use 1 b1 l1 d
  | .error _, .error _ =>
    let d := applyOim dumbLanes [] (setb Reg.OIM_STATUS_DEFAULTS d)
    (none, raiseC Ev.OIM_INVALID 0 0 0 (setb Reg.OIM_STATUS_INVALID_CHK d))

end Sys2Proof.Machine
end

