-- ==== Sys2Proof/Machine/SxcOps.lean ====
section
/-!
DEFINITION. The security complex (spec/18_boot_and_attestation.md): measurement registers, identity keys, the Security Policy Table
and officer moves (R540, R546–R556).
-/

namespace Sys2Proof

/-- The stored bytes of a Security Policy Table: the spec gives its entries, no layout. -/
opaque Config.sptBytes : Machine.Spt → Bytes
/-- A certificate chain: slot (0 Alias, 1 Ledger), the key it certifies, MR0–MR5 as the Alias certificate carries them. -/
opaque Config.certChain : Nat → Bytes → Bytes → Bytes

end Sys2Proof

namespace Sys2Proof.Machine

/-! ### Measurement registers (R540) -/

/-- The 48 bytes of six registers. -/
def words6 (f : Nat → Field) (d : Dev) : Bytes := (List.range 6).flatMap fun j => leBytes 8 (rd (f j) d)

/-- MRn. -/
def mrRead (n : Nat) (d : Dev) : Bytes := words6 (Reg.SXC_MR_WORD n) d

/-- Extend MRn with a digest. -/
def mrExtend (n : Nat) (x : Bytes) (d : Dev) : Dev :=
  let v := sha384 (mrRead n d ++ x)
  forEach (List.range 6) (fun j d => wr (Reg.SXC_MR_WORD n j) (fld v (8 * j) 8) d) d

/-- Firmware may extend MRn in the device's state (Table 18.4). -/
def mrAllowed (n : Nat) (d : Dev) : Bool :=
  (8 ≤ n && n ≤ 14) || ([1, 2, 6, 7].contains n && glbState d == 0)

/-! ### Identity keys (Table 18.14) -/

def labelDevId : Bytes := [0x51, 0x4E, 0x2D, 0x44, 0x45, 0x56, 0x49, 0x44]
def labelCdi : Bytes := [0x51, 0x4E, 0x2D, 0x43, 0x44, 0x49]
def labelLedger : Bytes := [0x51, 0x4E, 0x2D, 0x4C, 0x45, 0x44, 0x47, 0x45, 0x52]
def labelIkek : Bytes := [0x51, 0x4E, 0x2D, 0x49, 0x4B, 0x45, 0x4B]

def deviceIdKey (d : Dev) : Bytes := kdf d.nv.drk labelDevId 48
def aliasKey (d : Dev) : Bytes :=
  kdf d.nv.drk (labelCdi ++ sha384 (mrRead 0 d ++ mrRead 1 d ++ mrRead 2 d ++ mrRead 3 d ++ mrRead 5 d)) 48
def brecKey (d : Dev) : Bytes := kdf d.nv.drk labelLedger 48

/-! ### The table in force and its copies (R547) -/

/-- Bring what shows the table up to date: SXC_SPT_VER, SXC_STATUS, the sampling mask, FABRIC_FWDL (R549, R554). -/
def showSpt (d : Dev) : Dev :=
  let claimed := match d.sxc.spt with | some t => !t.white.isEmpty && !t.black.isEmpty | none => false
  let d := wr Reg.SXC_SPT_VER_VERSION ((d.sxc.spt.map (·.version)).getD 0) (wr Reg.SXC_STATUS_CLAIMED (b2n claimed) d)
  let d := wr Reg.SXC_STATUS_DEBUG (b2n (debugOpen d)) (wr Reg.SXC_STATUS_CLAIMS d.nv.claimFuses d)
  let mask := match d.sxc.spt with
    | some t => if t.bad.contains .policy then 0xFF else t.sampling
    | none => 3
  let floor := match d.sxc.spt with
    | some t => if t.bad.contains .floors then 2 ^ 64 - 1 else t.fwFloor
    | none => 0
  showFwdl (wr Reg.FWU_FLOOR_FLOOR floor (wr Reg.FIU_CTRL_SAMPLE_MASK mask d))

/-- The copy that does not hold a version. -/
def otherCopy (v : Nat) (d : Dev) : Nat :=
  let c := tget {} d.nv.spt 0
  if c.valid && c.table.version == v then 1 else 0

/-- Write the table in force to the copy that does not hold the version before it; VSB keeps the version (R547). -/
def storeSpt (before : Nat) (d : Dev) : Dev :=
  match d.sxc.spt with
  | none => d
  | some t =>
    let d := { d with nv.spt := tset {} d.nv.spt (otherCopy before d) { valid := true, table := { t with bad := [] } } }
    showSpt (if d.pwr.vsb then { d with sxc.ram.held := true, sxc.ram.sptVersion := t.version } else d)

/-! ### Moves (Tables 18.9–18.11) -/

/-- Payload lengths of Table 18.10; nothing for an unlisted opcode. DOMAIN_ADD with IMPORT carries a Key Block. -/
def moveLen (op : Nat) (p : Bytes) : Option Nat :=
  match op with
  | 0x01 => some (if bitOf (fld p 2 2) 3 then 48 else 8)
  | 0x02 | 0x03 | 0x04 | 0x08 | 0x0A | 0x0C | 0x0D | 0x0E => some (if op = 0x08 then 16 else 8)
  | 0x05 | 0x06 | 0x09 => some 112
  | 0x07 => some 16
  | 0x0B => some 144
  | _ => none

/-- The reserved bytes of a payload are 0. -/
def moveReserved (op : Nat) (p : Bytes) : Bool :=
  match op with
  | 0x01 | 0x02 => noBytes p 5 3 && fld p 2 2 / 16 == 0 && (op == 1 || !bitOf (fld p 2 2) 3)
  | 0x03 => noBytes p 2 6
  | 0x04 => noBytes p 6 2
  | 0x05 | 0x06 => noBytes p 1 7 && noBytes p 105 7
  | 0x07 | 0x08 => noBytes p 1 7
  | 0x09 => noBytes p 1 1 && noBytes p 5 3
  | 0x0A | 0x0D => noBytes p 1 7
  | 0x0B => noBytes p 97 7
  | 0x0C => fld p 1 1 / 2 == 0 && noBytes p 2 6
  | _ => noBytes p 0 8

/-- The operations from an offset on: all of them, or the index of the one that is not as Table 18.10 gives it. -/
def moveOps (b : Bytes) (len : Nat) : Nat → Nat → Nat → Except Nat (List MoveOp)
  | 0, i, o => if o = len then .ok [] else .error i
  | n + 1, i, o =>
    let l := fld b (o + 2) 2
    let op := fld b o 2
    let p := sub b (o + 8) l
    if len < o + 8 + l ∨ l % 8 ≠ 0 ∨ !noBytes b (o + 4) 4 ∨ moveLen op p ≠ some l ∨ !moveReserved op p then .error i
    else match moveOps b len n (i + 1) (o + 8 + l) with
      | .ok r => .ok (⟨op, p⟩ :: r)
      | .error e => .error e

/-- Order 1: a body as Tables 18.9 and 18.10 give it, or the failing operation's index. -/
def parseMove (b : Bytes) : Except Nat Move :=
  let len := fld b 8 4
  let n := fld b 6 2
  if fld b 0 4 ≠ 0x564D4E51 ∨ fld b 4 2 ≠ 1 ∨ n = 0 ∨ 64 < n ∨ len % 8 ≠ 0 ∨ 65536 < len ∨ b.length < len
      ∨ !noBytes b 12 4 ∨ !noBytes b 41 23 then .error 0
  else match moveOps b len n 0 64 with
    | .error i => .error i
    | .ok ops => .ok { serial := fld b 16 8, expectVer := fld b 24 8, applyAt := fld b 32 8, targets := fld b 40 1, ops := ops
                       body := b.take len }

/-- The key that IMPORT_KEK_SET wraps. -/
def unwrapKek (p : Bytes) (d : Dev) : Option Bytes :=
  match kwpUnwrap (kdf (ecdh (deviceIdKey d) (p.take 97)) labelIkek 32) (sub p 104 40) with
  | some k => if k.length = 32 then some k else none
  | none => none

/-- KEY_ID of a public key (Table 17.1). -/
def keyIdOf (pub : Bytes) : Nat := fld (sha384 pub) 0 8

/-- Order 7 for one operation: values in range, wrapped keys unwrap, officer keys distinct, floors not falling. -/
def moveValue (t : Spt) (kek : Option Bytes) (o : MoveOp) (d : Dev) : Bool :=
  let p := o.payload
  let opens (b : Bytes) : Bool := match kek with | some k => (openKeyBlock k b).isSome | none => false
  match o.opcode with
  | 0x01 => fld p 0 2 < 4096 && (!bitOf (fld p 2 2) 3 || opens (sub p 8 40))
  | 0x02 | 0x03 => fld p 0 2 < 4096
  | 0x04 => 1 ≤ fld p 0 4 && fld p 0 4 ≤ 65535 && fld p 4 2 < 4096
  | 0x05 => fld p 0 1 ≤ 1 && sub p 8 97 != (if fld p 0 1 = 0 then t.black else t.white)
  | 0x06 => fld p 0 1 ≤ 1 && (if fld p 0 1 = 0 then t.fwKeys else t.oimKeys).length < 8
  | 0x07 => fld p 0 1 ≤ 1
  | 0x08 => fld p 0 1 ≤ 1 && (if fld p 0 1 = 0 then t.fwFloor else t.oimFloor) ≤ fld p 8 8
  | 0x09 => fld p 0 1 < 64 && fld p 2 2 < 4096 && opens (sub p 72 40)
  | 0x0A => fld p 0 1 < 64
  | 0x0B => (unwrapKek p d).isSome
  | 0x0D => fld p 0 1 ≤ 3
  | _ => true

/-- What the operations that follow one see of it: the table and the import KEK as it will leave them (R552). -/
def moveSees (o : MoveOp) (t : Spt) (kek : Option Bytes) (d : Dev) : Spt × Option Bytes :=
  let p := o.payload
  let first := fld p 0 1 = 0
  let key : ImageKey := ⟨keyIdOf (sub p 8 97), sub p 8 97⟩
  let keep (l : List ImageKey) : List ImageKey := l.filter fun k => k.keyId != fld p 8 8
  match o.opcode with
  | 0x05 => (if first then { t with white := sub p 8 97 } else { t with black := sub p 8 97 }, kek)
  | 0x06 => (if first then { t with fwKeys := t.fwKeys ++ [key] } else { t with oimKeys := t.oimKeys ++ [key] }, kek)
  | 0x07 => (if first then { t with fwKeys := keep t.fwKeys } else { t with oimKeys := keep t.oimKeys }, kek)
  | 0x08 => (if first then { t with fwFloor := fld p 8 8 } else { t with oimFloor := fld p 8 8 }, kek)
  | 0x0B => (t, unwrapKek p d)
  | _ => (t, kek)

/-- The first operation, from an index on, whose values are not in range beside those before it (order 7). -/
def badValue : List MoveOp → Nat → Spt → Option Bytes → Dev → Option Nat
  | [], _, _, _, _ => none
  | o :: os, i, t, kek, d =>
    if moveValue t kek o d then let (t, kek) := moveSees o t kek d; badValue os (i + 1) t kek d else some i

/-- APPLY_AT is 0, or lies 1,000 to 2^30 tempi ahead; at least 1,000 ahead when another device is a target (order 7). -/
def applyAtOk (m : Move) (d : Dev) : Bool :=
  let others := (List.range 8).any fun v => bitOf m.targets v && v != ownDev d
  if m.applyAt = 0 then !others else tempoNow d + 1000 ≤ m.applyAt && m.applyAt ≤ tempoNow d + 2 ^ 30

/-- Orders 3–9 of Table 18.11: RESULT and OPIDX; 1 OK. -/
def verifyMove (m : Move) (sigs chal : Bytes) (d : Dev) : Nat × Nat × Dev :=
  let h := sha384 (m.body ++ chal)
  if m.serial ≠ d.nv.serial then (4, 0, d)
  else
    let (o, d) := sptRead .officers d
    match o with
    | none => (5, 0, d)
    | some t =>
      if debugOpen d then (9, 0, d)
      else if !Config.ecdsaVerify t.white h (sigs.take 96) then (5, 0, d)
      else if !Config.ecdsaVerify t.black h (sub sigs 96 96) then (6, 0, d)
      else if m.expectVer ≠ t.version then (7, 0, d)
      else
        let (kek, d) := sptImportKek d
        match badValue m.ops 0 t kek d with
        | some i => (8, i, d)
        | none =>
          if !applyAtOk m d || !bitOf m.targets (ownDev d) then (8, 0, d)
          else match (m.ops.zip (List.range m.ops.length)).find? fun x => x.1.opcode == 0x0D && glbState d != 2 with
            | some x => (9, x.2, d)
            | none => if d.sxc.staged.isSome then (10, 0, d) else (1, 0, d)

/-! ### Applying a move (R552, Table 18.10) -/

/-- Change the table in force. -/
def editSpt (e : SptEntry) (f : Spt → Spt) (d : Dev) : Dev := sptWrote e { d with sxc.spt := d.sxc.spt.map f }

/-- The SXC gives a domain its key at DOMAIN_ADD or when its encryption is switched on: the verifying device draws it, or takes
the imported one, and distributes it; other holders receive it (R306, R310). A domain without encryption has none (R307). -/
def keyForDomain (n : Nat) (enc verifier : Bool) (blob : Option Bytes) (d : Dev) : Dev :=
  let (dom, d) := sptDomain n d
  let zero := List.replicate 40 (0 : Byte)
  if !enc then putWkt n ⟨n, true, false, false, false, 0, 0, false⟩ { curA := zero, curB := zero, prevA := zero, prevB := zero } d
  else if !verifier then d
  else
    let (kek, d) := sptImportKek d
    let (key, kmid, d) := match blob with
      | some b => let (u, d) := drawBytes 16 d; ((kek.bind fun k => openKeyBlock k b).getD [], u, d)
      | none => let (k, d) := drawBytes 32 d; (k, List.replicate 16 0, d)
    let (a, b, d) := wrapBoth n key d
    let d := if bitOf dom.holders (ownDev d) then
        putWkt n ⟨n, true, true, false, blob.isSome, 0, 0, false⟩ { curA := a, curB := b, prevA := zero, prevB := zero, kmid := kmid } d
      else d
    distribute n 0 d

/-- Zeroise every resident slot and digest key register, and open debug for this boot (R556). -/
def unlockDebug (scope : Nat) (d : Dev) : Dev :=
  let d := forEach (List.range 256) (fun n d => zeroSlot n d) { d with keys.digest := [], sxc.debugScope := scope }
  let (x, d) := drawBytes 48 d
  mrExtend 15 x (setb Reg.SXC_STATUS_DEBUG d)

/-- Write a key domain's entry. -/
def setDomain (n : Nat) (x : SptDomain) (d : Dev) : Dev :=
  editSpt (.domain n) (fun t => { t with domains := tset {} t.domains n x }) d

/-- Write a replication peer's entry. Its sessions end: nothing goes to, or comes from, an address of the entry that stood (R452). -/
def setPeer (n : Nat) (x : SptPeer) (d : Dev) : Dev :=
  editSpt (.peer n) (fun t => { t with peers := tset {} t.peers n x }) { d with
    repl.peers := tdel n d.repl.peers, repl.queue := d.repl.queue.filter fun q => q.1 != n }

/-- Remove a domain (R314). -/
def removeDomain (n : Nat) (d : Dev) : Dev :=
  removeDomainKeys n (setDomain n {} d)

/-- One operation takes effect; `verifier` on the device that verified the move. -/
def applyOp (verifier : Bool) (o : MoveOp) (d : Dev) : Dev :=
  let p := o.payload
  let n := fld p 0 2
  let fl := fld p 2 2
  match o.opcode with
  | 0x01 =>
    let d := setDomain n { valid := true, enc := bitOf fl 0, opn := bitOf fl 1, compare := bitOf fl 2, holders := fld p 4 1 } d
    keyForDomain n (bitOf fl 0) verifier (if bitOf fl 3 then some (sub p 8 40) else none) d
  | 0x02 =>
    let was := (d.sxc.spt.map fun t => tget {} t.domains n).getD {}
    let d := setDomain n { valid := was.valid, enc := bitOf fl 0, opn := bitOf fl 1, compare := bitOf fl 2, holders := fld p 4 1 } d
    if !was.valid then d
    else if was.enc != bitOf fl 0 then keyForDomain n (bitOf fl 0) verifier none d
    else if verifier && was.enc && was.holders != fld p 4 1 then
      match readWkt n d with
      | (some (k, _), d) => distribute n k.curGen d
      | (none, d) => d
    else d
  | 0x03 => removeDomain n d
  | 0x04 => editSpt (.binding (fld p 0 4)) (fun t => { t with pendingBinds := tset 0 t.pendingBinds (fld p 0 4) (fld p 4 2 + 1) }) d
  | 0x05 => editSpt .officers (fun t => if fld p 0 1 = 0 then { t with white := sub p 8 97 } else { t with black := sub p 8 97 }) d
  | 0x06 =>
    let k : ImageKey := ⟨keyIdOf (sub p 8 97), sub p 8 97⟩
    editSpt .imageKeys (fun t => if fld p 0 1 = 0 then { t with fwKeys := t.fwKeys ++ [k] } else { t with oimKeys := t.oimKeys ++ [k] }) d
  | 0x07 =>
    let keep (l : List ImageKey) : List ImageKey := l.filter fun k => k.keyId != fld p 8 8
    editSpt .imageKeys (fun t => if fld p 0 1 = 0 then { t with fwKeys := keep t.fwKeys } else { t with oimKeys := keep t.oimKeys }) d
  | 0x08 => editSpt .floors (fun t => if fld p 0 1 = 0 then { t with fwFloor := fld p 8 8 } else { t with oimFloor := fld p 8 8 }) d
  | 0x09 =>
    let (kek, d) := sptImportKek d
    let key := (kek.bind fun k => openKeyBlock k (sub p 72 40)).getD []
    setPeer (fld p 0 1) { valid := true, localDomain := fld p 2 2, keyIndex := fld p 4 1, addrs := sub p 8 64, key := key } d
  | 0x0A => setPeer (fld p 0 1) {} d
  | 0x0B =>
    let k := unwrapKek p d
    editSpt .importKek (fun t => { t with importKek := k }) d
  | 0x0C => editSpt .policy (fun t => { t with sampling := fld p 0 1, allowFwdl := bitOf (fld p 1 1) 0 }) d
  | 0x0D => unlockDebug (fld p 0 1) (editSpt .debug (fun t => t) d)
  | _ =>
    let ds := (d.sxc.spt.map fun t => t.domains.map (·.1)).getD []
    let d := forEach ds removeDomain d
    { d with sxc.spt := d.sxc.spt.map fun t => { t with decommissioned := true } }

/-- DATA of SXC_MOVE and SXC_MOVE_FAIL: RESULT and OPIDX side by side (Table 20.6). -/
def moveData (result opidx : Nat) : Nat := result * 256 + opidx

/-- At cycle E of its edge a staged move takes effect whole (R552). -/
def applyStaged (d : Dev) : Dev :=
  match d.sxc.staged with
  | none => d
  | some (m, t) =>
    if t ≠ tempoNow d then d
    else
      let v := (d.sxc.spt.map (·.version)).getD 0
      let d := m.ops.foldl (fun d o => applyOp (m.serial == d.nv.serial) o d) { d with sxc.staged := none }
      let d := { d with sxc.spt := d.sxc.spt.map fun t => { t with version := v + 1 } }
      let d := clr Reg.SXC_MOVE_ST_STAGED (storeSpt v (mrExtend 15 (sha384 m.body) d))
      notice Ev.SXC_MOVE 0 (v + 1) (moveData 1 0) (setb Reg.SXC_STATUS_MOVE_N d)

/-- Stage a verified move (R552). -/
def stageMove (m : Move) (d : Dev) : Dev :=
  let t := if m.applyAt = 0 then tempoNow d + 1 else m.applyAt
  setb Reg.SXC_MOVE_ST_STAGED (wr Reg.SXC_MOVE_ST_APPLY t { d with sxc.staged := some (m, t) })

/-- The body and the signatures that SXC_MOVE_ADDR names. -/
def moveLoaded (d : Dev) : Bytes := memRead d (rd Reg.SXC_MOVE_ADDR_ADDR d) (rd Reg.SXC_MOVE_ADDR_LEN d)

/-- Take the challenge for a submission: it is consumed whatever follows (R550). -/
def takeChallenge (d : Dev) : Option Bytes × Dev :=
  (d.sxc.challenge.map (·.1), clr Reg.SXC_CHAL_CTRL_VALID { d with sxc.challenge := none })

/-- A submission ends: SXC_MOVE_ST, and SXC_MOVE_FAIL on a failure (R551). -/
def endMove (result opidx : Nat) (d : Dev) : Dev :=
  let d := wr Reg.SXC_MOVE_ST_RESULT result (wr Reg.SXC_MOVE_ST_OPIDX opidx d)
  if result = 1 then d
  else notice Ev.SXC_MOVE_FAIL 0 ((d.sxc.spt.map (·.version)).getD 0) (moveData result opidx) d

end Sys2Proof.Machine
end

