-- ==== Sys2Proof/Machine/Sxc.lean ====
section
/-!
DEFINITION. The commands of the security complex (spec/18_boot_and_attestation.md): measurement, challenge, moves, claims, SPDM.
-/

namespace Sys2Proof.Machine

/-- MR_EXTEND: a write of SXC_MR_EXT.GO extends the register INDEX with SXC_MR_DATA0–5, or is refused (R540). -/
def execMrExtend (index : Fin 16) (s : State) : Host.Outcome State Fault Refusal :=
  runLive (fun d =>
    let d := wr Reg.SXC_MR_EXT_INDEX index.val d
    if mrAllowed index.val d then
      wr Reg.SXC_MR_EXT_RESULT 1 (mrExtend index.val (words6 (fun j => Reg.SXC_MR_DATA_WORD j) d) d)
    else wr Reg.SXC_MR_EXT_RESULT 2 d) s

/-- CHALLENGE_NEW: a fresh challenge of 32 bytes from the DRBG replaces any earlier one (R550). -/
def execChallengeNew (s : State) : Host.Outcome State Fault Refusal :=
  runLive (fun d =>
    let (c, d) := drawBytes 32 d
    let d := { d with sxc.challenge := some (c, d.tmp.sec) }
    let d := forEach (List.range 4) (fun j d => wr (Reg.SXC_CHAL_WORD j) (fld c (8 * j) 8) d) d
    setb Reg.SXC_CHAL_CTRL_VALID (clr Reg.SXC_CHAL_CTRL_AGE d)) s

/-- CHALLENGE_LAPSE: 600 s of tempo time after it was drawn the challenge lapses (R550). -/
def execChallengeLapse (s : State) : Host.Outcome State Fault Refusal :=
  runLive (fun d =>
    match d.sxc.challenge with
    | some (_, t) => if t + 600 ≤ d.tmp.sec then clr Reg.SXC_CHAL_CTRL_VALID { d with sxc.challenge := none } else d
    | none => d) s

/-- MOVE_SUBMIT: SXC_MOVE_CMD with KIND 0: verified in the order of Table 18.11, staged, and forwarded to the other targets (R551–R553). -/
def execMoveSubmit (s : State) : Host.Outcome State Fault Refusal :=
  runLive (fun d =>
    let b := moveLoaded d
    let (c, d) := takeChallenge (wr Reg.SXC_MOVE_CMD_KIND 0 d)
    match parseMove b with
    | .error i => endMove 2 i d
    | .ok m =>
      let d := wr Reg.SXC_MOVE_ST_TARGETS m.targets (clr Reg.SXC_MOVE_ST_ACKED d)
      if b.length < m.body.length + 192 then endMove 2 0 d
      else match c with
        | none => endMove 3 0 d
        | some chal =>
          let (r, i, d) := verifyMove m (sub b m.body.length 192) chal d
          let d := endMove r i d
          if r ≠ 1 then d
          else
            let others := those 8 fun v => bitOf m.targets v && v != ownDev d
            sendAll (others.map fun v => .moveForward v m.body) (wr Reg.SXC_MOVE_ST_ACKED (2 ^ ownDev d) (stageMove m d))) s

/-- The claim that a body holds: the two officer keys (R546). -/
def claimKeys (m : Move) : Option (Bytes × Bytes) :=
  match m.ops with
  | [a, b] =>
    if a.opcode = 5 ∧ fld a.payload 0 1 = 0 ∧ b.opcode = 5 ∧ fld b.payload 0 1 = 1 then some (sub a.payload 8 97, sub b.payload 8 97) else none
  | _ => none

/-- The outcome of a claim: its RESULT, and the two keys. -/
def judgeClaim (b : Bytes) (c : Option Bytes) (d : Dev) : Nat × Option (Move × Bytes × Bytes) :=
  match parseMove b with
  | .error _ => (2, none)
  | .ok m =>
    match claimKeys m, c with
    | none, _ => (2, none)
    | some _, none => (3, none)
    | some (w, k), some chal =>
      let h := sha384 (m.body ++ chal)
      if b.length < m.body.length + 192 then (2, none)
      else if m.serial ≠ d.nv.serial then (4, none)
      else if !rdb Reg.SXC_STATUS_CLAIM_OPEN d || w == k then (11, none)
      else if !Config.ecdsaVerify w h (sub b m.body.length 96) then (5, none)
      else if !Config.ecdsaVerify k h (sub b (m.body.length + 96) 96) then (6, none)
      else if m.expectVer ≠ 0 then (7, none)
      else if m.applyAt ≠ 0 then (8, none)
      else (1, some (m, w, k))

/-- CLAIM_SUBMIT: SXC_MOVE_CMD with KIND 1: while a claim is open, a valid claim burns the next claim fuse and writes version 1 of the
table with both officer keys and the defaults (R546). -/
def execClaimSubmit (s : State) : Host.Outcome State Fault Refusal :=
  runLive (fun d =>
    let b := moveLoaded d
    let (c, d) := takeChallenge (wr Reg.SXC_MOVE_CMD_KIND 1 d)
    match judgeClaim b c d with
    | (r, none) => endMove r 0 d
    | (_, some (m, w, k)) =>
      let old := (d.sxc.spt.map (·.version)).getD 0
      let d := { d with nv.claimFuses := min 15 (d.nv.claimFuses + 1), sxc.spt := some { version := 1, white := w, black := k } }
      let d := storeSpt old (clr Reg.SXC_STATUS_CLAIM_OPEN (sptWrote .officers d))
      notice Ev.SXC_CLAIM 0 1 (moveData 1 0) (endMove 1 0 (mrExtend 15 (sha384 m.body) d))) s

/-- MOVE_FORWARD_RECEIVE: a target checks the version and that nothing is staged, refuses a move less than 100 tempi ahead, stages it
and acknowledges; the verifier records an acknowledgement (R553, R556). -/
def execMoveForwardReceive (m : MoveMsg) (s : State) : Host.Outcome State Fault Refusal :=
  runLive (fun d =>
    match m with
    | .ack v => if v < 8 && d.sxc.staged.isSome then setBit Reg.SXC_MOVE_ST_ACKED v d else d
    | .forward ok b =>
      match parseMove b with
      | .error _ => d
      | .ok m =>
        let (t, d) := sptRead .officers d
        let fits := match t with | some t => m.expectVer == t.version | none => false
        if !ok || debugOpen d || !fits || d.sxc.staged.isSome || !bitOf m.targets (ownDev d) || m.applyAt < tempoNow d + 100 then d
        else send (.moveAck (ownDev d)) (stageMove m (wr Reg.SXC_MOVE_ST_TARGETS m.targets d))) s

/-! ### SPDM (R555): codes of DSP0274, PRESUMED -/

/-- Answer a request, or ERROR Busy when one is in progress. SPDM is served in Checkmate too (Table 20.4). -/
def spdmAnswer (overlap : Bool) (f : Dev → Dev) (s : State) : Host.Outcome State Fault Refusal :=
  run (fun d => if !d.pwr.good || d.pwr.adj3 then d else if overlap then send (.spdm 0x7F [3] []) d else f d) s

/-- A chain: slot 0 Alias, slot 1 Ledger. -/
def chainOf (slot : Nat) (d : Dev) : Bytes :=
  let mrs := (List.range 6).flatMap fun n => mrRead n d
  if slot = 0 then Config.certChain 0 (ecPublic (aliasKey d)) mrs else Config.certChain 1 (ecPublic (brecKey d)) []

/-- Sign a transcript with the Alias key. -/
def aliasSign (transcript : Bytes) (d : Dev) : Bytes × Dev :=
  let (n, d) := drawNat (2 ^ 384) d
  (ecdsaSign (aliasKey d) (sha384 transcript) n, d)

/-- SPDM_GET_VERSION: version 1.2. -/
def execSpdmGetVersion (overlap : Bool) (s : State) : Host.Outcome State Fault Refusal :=
  spdmAnswer overlap (send (.spdm 0x04 [0x1200] [])) s

/-- SPDM_GET_CAPABILITIES: certificates, challenge, signed measurements; no sessions, no mutual authentication. -/
def execSpdmGetCapabilities (overlap : Bool) (s : State) : Host.Outcome State Fault Refusal :=
  spdmAnswer overlap (send (.spdm 0x61 [0x16] [])) s

/-- SPDM_NEGOTIATE_ALGORITHMS: ECDSA P-384 and SHA-384 when the requester offers them, otherwise none is selected. -/
def execSpdmNegotiateAlgorithms (overlap common : Bool) (s : State) : Host.Outcome State Fault Refusal :=
  spdmAnswer overlap (send (.spdm 0x63 (if common then [0x80, 0x02] else [0, 0]) [])) s

/-- SPDM_GET_DIGESTS: the digests of the chains in slots 0 and 1. -/
def execSpdmGetDigests (overlap : Bool) (s : State) : Host.Outcome State Fault Refusal :=
  spdmAnswer overlap (fun d => send (.spdm 0x01 [0x03] (sha384 (chainOf 0 d) ++ sha384 (chainOf 1 d))) d) s

/-- SPDM_GET_CERTIFICATE: a part of the Alias or the Ledger chain, with the bytes that remain. -/
def execSpdmGetCertificate (overlap : Bool) (slot off len : Nat) (s : State) : Host.Outcome State Fault Refusal :=
  spdmAnswer overlap (fun d =>
    let c := chainOf slot d
    if slot > 1 ∨ c.length < off then send (.spdm 0x7F [1] []) d
    else
      let p := sub c off (min len (c.length - off))
      send (.spdm 0x02 [slot, p.length, c.length - off - p.length] p) d) s

/-- SPDM_CHALLENGE: a challenge of slot 0 is signed with the Alias key; the Ledger key signs Boot Records only (R545). -/
def execSpdmChallenge (overlap : Bool) (r : SpdmSigned) (s : State) : Host.Outcome State Fault Refusal :=
  spdmAnswer overlap (fun d =>
    if r.slot ≠ 0 then send (.spdm 0x7F [1] []) d
    else
      let (nonce, d) := drawBytes 32 d
      let (sig, d) := aliasSign (r.transcript ++ nonce) d
      send (.spdm 0x03 [0] (sha384 (chainOf 0 d) ++ nonce ++ sig)) d) s

/-- The last signed Boot Record. -/
def lastSigned (d : Dev) : Option Bytes :=
  let l := (d.nv.bootSigned.filter (·.2)).map fun x => tget [] d.nv.bootSlots x.1
  l.foldl (fun b x => match b with | none => some x | some y => if fld y 8 8 < fld x 8 8 then some x else some y) none

/-- A measurement: 1–16 the registers, 17 the last signed Boot Record, 18 the table's version and digest. -/
def measurement (i : Nat) (d : Dev) : Bytes :=
  if 1 ≤ i ∧ i ≤ 16 then mrRead (i - 1) d
  else if i = 17 then (lastSigned d).getD []
  else match d.sxc.spt with
    | some t => leBytes 8 t.version ++ sha384 (Config.sptBytes t)
    | none => leBytes 8 0 ++ sha384 []

/-- SPDM_GET_MEASUREMENTS: index 0 the number of measurements, 1–18 one, 0xFF all; signed by the Alias key on request. -/
def execSpdmGetMeasurements (overlap : Bool) (index : Nat) (sign : Bool) (r : SpdmSigned) (s : State) : Host.Outcome State Fault Refusal :=
  spdmAnswer overlap (fun d =>
    if !(index ≤ 18 || index == 0xFF) || (sign && r.slot != 0) then send (.spdm 0x7F [1] []) d
    else
      let is := if index = 0 then [] else if index = 0xFF then (List.range 18).map (· + 1) else [index]
      let data := is.flatMap fun i => measurement i d
      let n := if index = 0 then 18 else is.length
      if !sign then send (.spdm 0x60 (n :: is) data) d
      else
        let (nonce, d) := drawBytes 32 d
        let (sig, d) := aliasSign (r.transcript ++ data ++ nonce) d
        send (.spdm 0x60 (n :: is) (data ++ nonce ++ sig)) d) s

end Sys2Proof.Machine
end

