-- ==== Sys2Proof/Machine/Edge.lean ====
section
/-!
DEFINITION. The tempo edge (spec/02_tempo.md, R44–R47, Table 2.3): the actions of every block in the order of the table.
-/

namespace Sys2Proof.Machine

/-! ### Cycle E: the tempo number, staged policy, windows (R45) -/

/-- SXC_CHAL_CTRL.AGE counts the seconds since the challenge held was drawn (Table 18.14). -/
def ageChallenge (d : Dev) : Dev :=
  match d.sxc.challenge with
  | some (_, t) => wr Reg.SXC_CHAL_CTRL_AGE (min (d.tmp.sec - t) (2 ^ 32 - 1)) d
  | none => d

/-- TEST asked for through GLB_CMD (R624): in SERVICE, with no ANA group owned and no adopted slot held. -/
def testEdge (d : Dev) : Dev :=
  if !d.pwr.testStaged then d
  else
    let d := { d with pwr.testStaged := false }
    if glbState d == 1 && ownGroups d == 0 && !(d.stg.slots.any fun s => s.1 ≥ 2 ^ 24) then
      anaChanged (wr Reg.GLB_STATE_STATE 2 (wr Reg.GLB_STATE_RCAUSE 9 (wr Reg.GLB_STATE_CMD_RES 1 d)))
    else wr Reg.GLB_STATE_CMD_RES 2 d

/-- The owner tables staged for this edge take effect: the index's (R232) and the ANA groups' (R500). -/
def ownersEdge (pages : Tab (Tab Bytes)) (d : Dev) : Dev :=
  let t := rd Reg.FIU_OWN_APPLY_TEMPO d
  applyAnaOwners pages (if t ≠ 0 ∧ t = tempoNow d then applyOwners pages d else d)

/-- One attachment change takes effect (R148); the host's controllers hear of it (R659). -/
def attachOne (x : Nat × Nat × Bool) (d : Dev) : Dev :=
  let (nsid, host, add) := x
  let d := modNs nsid (fun n => { n with hosts := if add then (n.hosts ++ [host]).eraseDups else n.hosts.filter (· != host) }) d
  raiseEvent 1 (fun k => !k.disc && k.nqn == host) d

/-- The host ports that are up are listed from this edge; a change raises the event on the discovery controllers (R179, R180). -/
def listPorts (d : Dev) : Dev :=
  let up := ((hostPorts d).filter fun p => rdb (Reg.ETH_LINK_UP p) d).foldl (fun m p => m + 2 ^ p) 0
  if up = d.front.listed then d else raiseEvent 4 (fun k => k.disc) { d with front.listed := up }

/-- The peer's listed ports change (R179, R180). -/
def listPeer (m : Option (BitVec 32)) (d : Dev) : Dev :=
  match m with
  | some m => if m.toNat = d.front.peerListed then d else raiseEvent 4 (fun k => k.disc) { d with front.peerListed := m.toNat }
  | none => d

/-- The front end's changes take effect: attachments (R148), the discovery log's event (R180), the pause of an activation at its edge P
(R566). -/
def frontEdge (d : Dev) : Dev :=
  let l := d.front.attach
  let d := l.foldl (fun d x => attachOne x d) { d with front.attach := [] }
  let d := listPorts d
  match d.fwu.act with
  | some a => if a.phase = 0 then
      pauseAll 6 255 (raiseEvent 2 (fun _ => true) { d with fwu.act := some { a with phase := 1, edge := tempoNow d } })
    else d
  | none => d

/-- The write bandwidth of the tempo that begins: the ports with a path to the peer (R32). -/
def mirrorEdge (d : Dev) : Dev :=
  let n := (pathPorts (peerDev d) d).length
  let d := { d with front.landedBytes := 0, cdt.clusterBytes := 0, front.mirrorPaths := n }
  pauseAll 2 (if glbState d == 1 && !alone d && n == 0 then rd Reg.ETH_PFC_WRITE_PRIO d else 0) d

/-- Snapshots marked for deletion are DELETING, and the mailbox request that asked for it ends (R448, Table 14.6); the cuts of targets
whose delta has committed are staged (R458); the lag shown is brought up to date (R462). -/
def snapEdge (d : Dev) : Dev :=
  let d := applyDeletes d
  let d := if rdb Reg.NVF_SNAP_CMD_GO d && rd Reg.NVF_SNAP_CMD_ACT d == 1 then mailEnd 1 (rd Reg.NVF_SNAP_CMD_SSEQ d) d else d
  showRel (forEach ((d.md.rels.filter fun x => x.2.wantCut.isSome).map (·.1)) tryTargetCut d)

/-- One member is declared failed (R424): every column on it counts as FAILED, the Check, a new layout generation; the segments with a column
on it enter the rebuild queue (R425). -/
def declareMember (m : Nat) (d : Dev) : Dev :=
  let x := tget {} d.md.members m
  if !x.adopted || x.declared then d
  else
    let d := closeMember m d
    let d := { d with
      md.members := tmod {} d.md.members m (fun x => { x with declared := true })
      ftl.given := if d.ftl.rebuild.isEmpty then [] else d.ftl.given
    }
    let d := wr Reg.ERS_RB_ST_MEMBER m (raiseC Ev.ERS_MEMBER_FAILED (unitOf 0xA m) 0 0 (setb Reg.ERS_STATUS_MEMBER_CHK d))
    let d := showPools (showNarrow x.pool (newLayout x.pool d))
    forEach ((d.md.segs.filter fun s => s.2.cols.any (·.member == m)).map (·.1)) queueRebuild d

/-- The members to declare are declared at this edge (R423, R424). -/
def membersEdge (d : Dev) : Dev := forEach d.ftl.declare declareMember { d with ftl.declare := [] }

/-- The peer is declared lost by a cause of R505 other than its silence, in SERVICE. -/
def peerEdge (d : Dev) : Dev :=
  let path := !(pathPorts (peerDev d) d).isEmpty
  let d := if path || glbState d != 1 then { d with cas.pathSeen := tempoNow d } else d
  if glbState d != 1 then d
  else
    let d := if d.cas.resignRx then declareLost 2 d else d
    let d := if d.cas.fatalRx then declareLost 3 d else d
    let d := if tempoNow d > d.cas.pathSeen + 300 then declareLost 4 d else d
    if d.cas.peerLost || d.cas.peerClaiming then declareLost 5 d else d

/-- What King firmware asked for: a rotation waits for the next edge (R311); an audit's cut lies 1,000 tempi ahead or later (R252); a unit of
the pool is given out or comes back (R86). -/
def takeRequest (q : FwRequest) (d : Dev) : Dev :=
  match q with
  | .audit cut => if cut ≥ tempoNow d + 1000 ∧ d.fiu.audit.isNone then { d with fiu.audit := some { cut := cut } } else d
  | .rotate n => { d with keys.rotateStaged := (d.keys.rotateStaged ++ [n.val]).eraseDups }
  | .restoreKey n => restoreWkt n d
  | .ptpSend _ _ => d
  | .poolTake p h => match poolTake p h d with
    | (some u, d) => send (.poolUnit p u) d
    | (none, d) => d
  | .poolGive p u h => poolGive p u h d

/-- The PTP event messages that firmware has sent during the tempo that ends (R58). -/
def ptpSends (l : List FwRequest) (d : Dev) : Dev :=
  l.foldl (fun d q => match q with
    | .ptpSend p cyc => if rdb (Reg.ETH_LINK_UP p) d then ptpStamp p true cyc d else d
    | _ => d) d

/-- Cycle E of the policy and windows column (R45), with what takes effect at an edge elsewhere. -/
def policyEdge (e : EdgeSample) (d : Dev) : Dev :=
  let d := windowEdge (ownersEdge e.pages (anaEdge e.peerMoves (testEdge (ageChallenge (applyStaged d)))))
  let d := forEach d.keys.rotateStaged rotateDomain { d with keys.rotateStaged := [] }
  let d := peerEdge (advanceRejoin (advancePlanned (beginPlanned d)))
  snapEdge (auditCut (membersEdge (mirrorEdge (frontEdge (listPeer e.peerPorts d)))))

/-! ### Power (R46, R80, R89, R605–R613) -/

/-- The envelope in force is fixed for the tempo (R46). -/
def fixEnvelope (d : Dev) : Dev := { d with pwr.envTempo := rd Reg.PWR_STATUS_EFF_ENV d }

/-- Cycle E of the power arbiter's column: the audit of the tempo that ends, the return of its grants, the envelope in force; the raises that
the last edge's measurements force; the sensors and crossings; then the requests staged are tested. -/
def powerEdge (e : EdgeSample) (d : Dev) : Dev :=
  let d := fixEnvelope (applyEnvelope (troubleEdge (returnGrants (auditTokens d))))
  let d := thermalChecks (readSensors e.temps e.mv e.vinMv (forceRaises d))
  let d := adjacent.foldl (fun d p => measureCrossing e.temps e.mv p d) d
  let d := lowerForEnvelope d
  let d := forEach (List.range 12) testLevel d
  let d := forEach (List.range 16) (testAdj adjConditions) d
  testAdj3 (fun d => ownGroups d != 0) adj3Conditions d

/-- E+1 to E+8: the compression lanes' requests join the others, and grants are computed and posted (R259, R605). -/
def grantEdge (d : Dev) : Dev := grantRound (postLaneTokens d)

/-! ### Slices and lane jobs (R47–R54) -/

/-- By E+16 the lane jobs are suspended, with preemption; at E+16 the lanes' slices start (R47, R301). The engines' slices are suspended by
E+32. Table 2.3 gives the rows; which of an engine and a lane that overrun at one edge comes last, and so stands in TMP_OVR.LAST_UNIT, it
does not say: the model takes the rows' order, the engine (DESIGN CHOICE, log entry 136). -/
def lanesEdge (d : Dev) : Dev := startLanes (savePreempt (decidePreempt (suspendLanes d)))

/-! ### The ledgers of Table 3.5 audited at every edge -/

/-- Commands: accepted equal terminal plus outstanding. -/
def auditCommands (d : Dev) : Dev :=
  let expected := rd Reg.NVF_CMD_ACC_ACCEPTED d
  let found := (rd Reg.NVF_CMD_TERM_TERMINAL d + rd Reg.NVF_CMD_OUT_OUTSTANDING d) % 2 ^ 64
  if found = expected then d
  else setb Reg.NVF_STATUS_CMD_CHK (consFails Ev.CMD_LEDGER Reg.FAB_CONS_CMD 0 expected found d)

/-- Cerco messages: sent equal acknowledged plus failed plus outstanding (R492). -/
def auditMessages (d : Dev) : Dev :=
  let expected := rd Reg.CDT_SENT_COUNT d
  let found := (rd Reg.CDT_ACKED_COUNT d + rd Reg.CDT_FAILED_COUNT d + rd Reg.CDT_OUT_COUNT d) % 2 ^ 64
  if found = expected then d else consFails Ev.CDT_LEDGER Reg.FAB_CONS_CDT 0 expected found d

/-! ### E+32: the Cerco transport (R43, R484) -/

/-- The transport starts with the first edge at which it runs after any step of tempo time (R484); the periodic choices of Table 2.2. The messages of Table 2.2 are sent by
commands of their own. -/
def cercoEdge (d : Dev) : Dev :=
  let d := if rdb Reg.CDT_CTRL_EN d && d.cdt.start.isNone then { d with cdt.start := some (tempoNow d) } else d
  let d := if tempoNow d % 16 = 0 then loseMaster d else d
  let d := if tempoNow d % 1000 = 0 then chooseMaster d else d
  compareDigests d

/-- One tempo edge in the order of Table 2.3: cycle E; the grants of E+1 to E+8; the lanes at E+16; the engines by E+32; the transport at
E+32; the audits of E+64. -/
def edge (e : EdgeSample) (d : Dev) : Dev :=
  let d := policyEdge e (ppsRise (advanceClock (ptpSends e.firmware d)))
  let d := latchLedgers e.ledgers (powerEdge e d)
  let d := suspendSlices (lanesEdge (grantEdge d))
  let d := auditMessages (auditCommands (auditLedgers (cercoEdge d)))
  e.firmware.foldl (fun d q => takeRequest q d) d

/-- TEMPO_EDGE: a reset asked for through GLB_CMD takes effect (R623), but not in time trouble or under a Checkmate raised in SERVICE that came
after the request (R582); otherwise the actions of Table 2.3, while the device is powered and in neither Checkmate nor ADJ3. -/
def execTempoEdge (e : EdgeSample) (s : State) : Host.Outcome State Fault Refusal :=
  run (fun d =>
    if d.pwr.resetStaged && endpointUp d && !serviceCheckmate d && !inTrouble d then resetDevice 4 d
    else if d.live then edge e d else d) s

end Sys2Proof.Machine
end

