-- ==== Sys2Proof/Machine/Erasure.lean ====
section
/-!
DEFINITION. The erasure engine's jobs (spec/13_stripes_and_rebuild.md, R410–R414): parity of a row, recovery of missing
columns, verification.
-/

namespace Sys2Proof.Machine

/-- Read columns of `len` bytes: their bytes by number, poison, the state after. -/
def readColumns (addrs : List Nat) (len : Nat) : List Nat → Dev → List (Nat × Bytes) × Bool × Dev
  | [], d => ([], false, d)
  | c :: cs, d =>
    let (b, p, d) := laneRead 5 (addrs.getD c 0) len d
    let (r, p', d) := readColumns addrs len cs d
    ((c, b) :: r, p || p', d)

/-- The first offset at which two columns differ. -/
def firstDiff (a b : Bytes) : Option Nat := (List.range a.length).find? fun i => a[i]? != b[i]?

/-- MISMATCH of a VERIFY job: the first mismatching byte, whether P and whether Q differs (Table 13.2); 0 when both agree. -/
def ersMismatch (w len : Nat) (cols : List (Nat × Bytes)) : Nat :=
  let data := cols.filter fun c => c.1 < w
  let col (n : Nat) : Bytes := ((cols.find? fun c => c.1 == n).map (·.2)).getD []
  match firstDiff (col w) (parityP len data), firstDiff (col (w + 1)) (parityQ len data) with
  | none, none => 0
  | some i, none => i + 2 ^ 16
  | none, some j => j + 2 ^ 17
  | some i, some j => min i j + 2 ^ 16 + 2 ^ 17

/-- Count what ended a job CHECK_FAIL (ERS_ERR). -/
def ersErr (bits : Nat) (d : Dev) : Dev :=
  let d := if bitOf bits 4 then bump Reg.ERS_ERR_POISON d else d
  if bitOf bits 5 then bump Reg.ERS_ERR_CUT d else d

/-- An erasure job past its checks (R413). -/
def erasureJob (n : Nat) (b : Bytes) (addrs : List Nat) (cols : List (Nat × Bytes)) (d : Dev) : Dev :=
  let w := fld b 1 1
  let len := fld b 4 4
  let inB := cols.length * len
  let out (l : List (Nat × Bytes)) (d : Dev) : Dev :=
    endJob 5 n 1 0 (counts inB (l.length * len) 0) (l.foldl (fun d c => laneWrite 5 (addrs.getD c.1 0) c.2 d) d)
  match fld b 0 1 with
  | 1 => out [(w, parityP len cols), (w + 1, parityQ len cols)] d
  | 2 => out (recoverColumns w (fld b 2 1) (fld b 3 1) len cols) d
  | _ =>
    let m := ersMismatch w len cols
    if m = 0 then endJob 5 n 1 0 (counts inB 0 0) d
    else endJob 5 n 6 0 (counts inB 0 m) (bump Reg.ERS_CNT_VERIFY_FAIL d)

/-- An erasure job of the OP its command names, to its end (R412–R414). A job that ends CHECK_FAIL leaves zeros in what it
wrote. -/
def runErasure (op n : Nat) (cut self : Bool) (d : Dev) : Dev :=
  withJob 5 n (fun _ _ b d =>
    if ersKind b ≠ op then d
    else if !ersOk b d then endJob 5 n 5 0x80 (counts 0 0 0) (bump Reg.ERS_ERR_MALFORMED d)
    else
      let w := fld b 1 1
      let len := fld b 4 4
      let addrs := ersColumns b d
      let reads := match op with
        | 1 => List.range w
        | 2 => columnsRead w (fld b 2 1) (fld b 3 1)
        | _ => List.range (w + 2)
      let (inj, d) := takeLaneInj 5 n d
      let (cols, p, d) := readColumns addrs len reads d
      let bits := faultBits cut (self || inj) p
      if bits = 0 then erasureJob n b addrs cols d
      else
        let (c, d) := abandon 5 b (cols.length * len) d
        let d := if bitOf bits 6 then laneCheck 5 n d else d
        endJob 5 n 5 bits (counts c.1 c.2 0) (ersErr bits d)) d

/-- ERASURE_GEN: a GEN job: P and Q of a row (R410, R413). -/
def execErasureGen (lane : Fin 4) (cut self : Bool) (s : State) : Host.Outcome State Fault Refusal :=
  runLive (runErasure 1 lane cut self) s

/-- ERASURE_REBUILD: a REBUILD job: one or two missing columns recovered (R411, R413). -/
def execErasureRebuild (lane : Fin 4) (cut self : Bool) (s : State) : Host.Outcome State Fault Refusal :=
  runLive (runErasure 2 lane cut self) s

/-- ERASURE_VERIFY: a VERIFY job: TAG_FAIL with MISMATCH when P or Q disagrees (R413). -/
def execErasureVerify (lane : Fin 4) (cut self : Bool) (s : State) : Host.Outcome State Fault Refusal :=
  runLive (runErasure 3 lane cut self) s

/-- ERS_INJ_ARM: the lane's next transfer fails its checker (Table 13.8). -/
def execErsInjArm (lane : Fin 4) (s : State) : Host.Outcome State Fault Refusal := runLive (armInj 5 lane) s

end Sys2Proof.Machine
end

