-- ==== Sys2Proof/Machine/Front.lean ====
section
/-!
DEFINITION. The host ports and contexts of the NVMe fabric front end (spec/05_nvme_front_end.md, R140–R183): frames, the context
cache and its miss path, pauses, congestion, Connect, teardown, links.
-/

namespace Sys2Proof.Machine

def getCtx (c : Nat) (d : Dev) : HostCtx := tget {} d.front.ctxs c
def modCtx (c : Nat) (f : HostCtx → HostCtx) (d : Dev) : Dev := { d with front.ctxs := tmod {} d.front.ctxs c f }

/-- A context is used: the newest in the least-recently-used order (R155). -/
def touchCtx (c : Nat) (d : Dev) : Dev :=
  { modCtx c (fun x => { x with used := d.front.clock + 1 }) d with front.clock := d.front.clock + 1 }

/-- A data transfer of a command is in progress: host blocks have been asked for and not all have landed, or some of a Read's squares have been
sent and not all (R155). -/
def transferring (n : Nat) (f : FrontCmd) (d : Dev) : Bool :=
  f.ready.isNone && (match f.op with
    | .write => f.fetched && f.slots.any fun m => (getSlot m d).cmd == some n && (getSlot m d).state == 1
    | .read | .compare => !f.done.isEmpty
    | _ => false)

/-- A context that may be evicted: no packet of it waits, no transfer of it is in progress, and no command of it has its completion still to
post (R155). -/
def evictable (c : Nat) (x : HostCtx) (d : Dev) : Bool :=
  x.resident && !((hostPorts d).any fun p => (getPort p d).miss.any (·.ctx == c))
    && !(d.front.cmds.any fun f => f.2.cmd.ctx == c && !f.2.cmd.viaPeer && (transferring f.1 f.2 d || (f.2.ready.isSome && !f.2.posted)))

/-- The least recently used context that may be evicted (R155). -/
def victimCtx (d : Dev) : Option Nat :=
  ((d.front.ctxs.filter fun c => evictable c.1 c.2 d).foldl (fun (b : Option (Nat × HostCtx)) c =>
    match b with
    | none => some c
    | some q => if c.2.used < q.2.used then some c else b) none).map (·.1)

/-- Bring a context into the cache, evicting one when all 16,384 slots are taken (R155); nothing when none may go. -/
def makeResident (c : Nat) (d : Dev) : Option Dev :=
  let put (d : Dev) : Dev := showCtx (touchCtx c (modCtx c (fun x => { x with resident := true, fetch := false, slow := false }) d))
  if (d.front.ctxs.filter fun x => x.2.resident).length < 16384 then some (put d)
  else (victimCtx d).map fun v => put (modCtx v (fun x => { x with resident := false }) d)

/-- A CE-marked RoCEv2 packet sends a CNP, at most once per CNP_GAP tempi per context (R182). -/
def markCe (c : Nat) (d : Dev) : Dev :=
  let x := getCtx c d
  let due := match x.lastCnp with
    | none => true
    | some t => tempoNow d ≥ t + rd Reg.ETH_ECN_CNP_GAP d
  if due then send (.cnp c) (modCtx c (fun x => { x with lastCnp := some (tempoNow d) }) d) else d

/-- Record a transport length violation and tear the context down (R170, R171). -/
def lengthViolation (c declared seen : Nat) (d : Dev) : Dev :=
  let d := wr Reg.NVF_LEN_LAST_DECLARED declared (wr Reg.NVF_LEN_LAST_SEEN seen d)
  teardown c (bump Reg.NVF_LEN_TRANSPORT d)

/-- Nothing of a write is staged: its slots are freed and it ends before it has taken effect (R142, R171). -/
def dropWrite (n c : Nat) (d : Dev) : Dev :=
  let f := getFc n d
  if f.cmd.ctx = c ∧ f.op = .write ∧ f.ready.isNone ∧ !f.posted then endCmd n 2 (freeSlots n d) else d

/-- A packet reaches its context (R142, R169–R171). A header digest that disagrees, and an H2CData PDU of more than MAXH2CDATA bytes, end the
connection with C2HTermReq; a data digest that disagrees ends its write Transient Transport Error (codes PRESUMED, log entry 142). -/
def dispatch (c : Nat) (f : HostPkt) (d : Dev) : Dev :=
  let d := send (.deliver c) (touchCtx c d)
  match f with
  | .data => d
  | .readResp n a b => if a = b then d else lengthViolation c a b (dropWrite n c d)
  | .pdu a b ok =>
    if a ≠ b then lengthViolation c a b (send (.termReq c 1) d)
    else if ok then d else teardown c (send (.termReq c 3) d)
  | .h2cData n bytes ok =>
    if bytes > 131072 then lengthViolation c 131072 bytes (send (.termReq c 5) d)
    else if ok then d
    else if (getFc n d).cmd.ctx = c ∧ (getFc n d).op = .write ∧ (getFc n d).ready.isNone then
      completeOpen n 0x22 (modFc n (fun f => { f with slots := [] }) (freeSlots n d))
    else d
  | .h2cRange a b => lengthViolation c a b (send (.termReq c 4) d)

/-- The context a frame names: an open one of this generation, or the connection of the 4-tuple (R152–R154). -/
def frameCtx (f : HostFrame) (d : Dev) : Option Nat :=
  if f.rdma then
    let c := f.qpn % 2 ^ 18
    let x := getCtx c d
    if x.opn && x.rdma && x.gen == f.qpn / 2 ^ 18 then some c else none
  else (d.front.ctxs.find? fun c => c.2.opn && !c.2.rdma && c.2.tuple == f.tuple).map (·.1)

/-- Above 75 % of the share a port pauses the priority of each packet that arrives (R158). -/
def missPause (p prio : Nat) (d : Dev) : Dev :=
  let held := tget 0 (getPort p d).pauses 0
  if missAbove p 75 d && !bitOf held prio then bump (Reg.NVF_MISS_PAUSES p) (setPause p 0 (held + 2 ^ prio) d) else d

/-- A packet of a context that is not resident enters the miss buffer; a fetch starts with the first (R156, R158, R159). -/
def missPacket (p c : Nat) (f : HostFrame) (d : Dev) : Dev :=
  let u := (f.len + 63) / 64
  if missOcc p d + u > missSlots p d then
    missPause p f.prio (notice Ev.NVF_PAUSE_VIOL (unitOf 8 p) c f.prio (setb Reg.NVF_STATUS_PAUSE_VIOL (bump (Reg.ETH_DROP_PAUSE_VIOL p) d)))
  else
    let d := showMiss p (modPort p (fun x => { x with miss := x.miss ++ [⟨c, u, f.prio, f.pkt, d.front.arrivals⟩] })
      { d with front.arrivals := d.front.arrivals + 1 })
    let d := if (getCtx c d).fetch then d
      else bump Reg.NVF_CTX_MISS_MISSES (modCtx c (fun x => { x with fetch := true }) d)
    missPause p f.prio d

/-- A port that the device listens on for TCP: 4420, the subsystem's, and 8009, the discovery controllers' (R154, R179). -/
def listens (port : Nat) (d : Dev) : Bool :=
  rdb Reg.NVF_CTRL_TCP_EN d && (port == 4420 || (port == 8009 && rdb Reg.NVF_CTRL_DISC_EN d))

/-- A TCP segment's congestion signals (R182, RFC 3168): a CE mark is echoed with ECE on every segment sent until CWR arrives; ECE from the
host halves the window, once per round trip, and CWR tells so. -/
def tcpEcn (c : Nat) (f : HostFrame) (d : Dev) : Dev :=
  let d := modCtx c (fun x => { x with echo := (x.echo && !f.cwr) || f.ce }) d
  let d := if (getCtx c d).echo then send (.ece c) d else d
  if f.ece && f.roundTrip then send (.cwr c) (modCtx c (fun x => { x with cwnd := x.cwnd / 2 }) d) else d

/-- The ECN field of the IP packet that an output goes out in: ECT(0) on every one (R182). Other outputs are no IP packets. -/
def ipEcn : Out → Option (BitVec 2)
  | .completion .. | .hostData .. | .fetchData .. | .cnp _ | .ece _ | .cwr _ | .termReq .. | .connReject _ | .adminData .. => some 2
  | _ => none

/-- HOST_FRAME_RECEIVE's effect. The length checks of a packet that waits are made when its context is there. -/
def receiveFrame (p : Nat) (f : HostFrame) (d : Dev) : Dev :=
  let d := if portLanes p d = 0 then d else bumpBy (Reg.ETH_LINK_FEC_UNCORR p) f.fecUncorr d
  if portLanes p d = 0 || !rdb (Reg.ETH_LINK_UP p) d then d
  else if f.len > 9216 then bump (Reg.ETH_DROP_LEN p) d
  else if !f.fcsOk then bump (Reg.ETH_DROP_FCS p) d
  else if f.fragment || !f.lensOk then bump (Reg.ETH_DROP_LEN p) d
  else match f.ptp with
  | some cyc => ptpStamp p false cyc d
  | none => match frameCtx f d with
    | none =>
      match f.syn with
      | some port =>
        if f.rdma || !listens port d then bump (Reg.ETH_DROP_STALE p) d
        else if glbState d = 0 then send (.connReject p) (bump (Reg.ETH_DROP_STALE p) d)
        else d
      | none => bump (Reg.ETH_DROP_STALE p) d
    | some c =>
      let d := if f.rdma then (if f.ce || missAbove p (rd Reg.ETH_ECN_MISS_CE_PCT d) d then markCe c d else d) else tcpEcn c f d
      if (getCtx c d).resident then dispatch c f.pkt d else missPacket p c f d

/-- HOST_FRAME_RECEIVE: a frame is checked, and dispatched, timestamped, held in the miss buffer, or dropped (R58, R141, R153–R159, R169–R171,
R182). -/
def execHostFrameReceive (p : Fin 32) (f : HostFrame) (s : State) : Host.Outcome State Fault Refusal :=
  runLive (receiveFrame p f) s

/-- Put a packet into its place in the order of arrival. -/
def insertPkt (q : MissPkt) : List MissPkt → List MissPkt
  | [] => [q]
  | x :: xs => if q.order < x.order then q :: x :: xs else x :: insertPkt q xs

/-- The packets of a context that wait, on whichever ports they came, in their order of arrival (R156). -/
def waitingPkts (c : Nat) (d : Dev) : List MissPkt :=
  ((hostPorts d).flatMap fun p => (getPort p d).miss.filter (·.ctx == c)).foldr insertPkt []

/-- CONTEXT_FETCH_DONE: the context is resident and its waiting packets are processed in order (R155–R158). -/
def execContextFetchDone (c : Fin 262144) (s : State) : Host.Outcome State Fault Refusal :=
  runLive (fun d =>
    let x := getCtx c.val d
    if !x.fetch then d
    else match makeResident c d with
      | none => d
      | some d =>
        let mine := waitingPkts c d
        let ps := (hostPorts d).filter fun p => (getPort p d).miss.any (·.ctx == c.val)
        let d := forEach ps (fun p d => modPort p (fun q => { q with miss := q.miss.filter (·.ctx != c.val) }) d) d
        let d := mine.foldl (fun d q => if (getCtx c d).opn then dispatch c q.pkt d else d) d
        forEach ps (fun p d => missXon p (showMiss p d)) d) s

/-- CONTEXT_FETCH_SLOW: a fetch has not completed after 8 µs (R157). -/
def execContextFetchSlow (c : Fin 262144) (s : State) : Host.Outcome State Fault Refusal :=
  runLive (fun d =>
    let x := getCtx c d
    if x.fetch && !x.slow then
      let d := bump Reg.NVF_CTX_MISS_SLOW (modCtx c (fun x => { x with slow := true }) d)
      raiseC Ev.NVF_CTX_FETCH (unitOf 8 x.port) c 0 (setb Reg.NVF_STATUS_FETCH_CHK d)
    else d) s

/-- PFC_PAUSE_REFRESH: every half QUANTA a port refreshes each pause it asserts (R181). -/
def execPfcPauseRefresh (p : Fin 32) (s : State) : Host.Outcome State Fault Refusal :=
  runLive (fun d =>
    let m := pausedPrios p d
    if m = 0 then d else send (.pause p m (rd Reg.ETH_PFC_QUANTA d)) d) s

/-- CNP_RECEIVE: the context's rate is cut, at most once per CUT_GAP tempi (R183). -/
def execCnpReceive (c : Fin 262144) (s : State) : Host.Outcome State Fault Refusal :=
  runLive (fun d =>
    let x := getCtx c d
    if x.opn && x.rdma && tempoNow d ≥ x.lastCut + rd Reg.ETH_ECN_CUT_GAP d then
      modCtx c (fun x => { x with rate := max (rd Reg.ETH_ECN_RATE_MIN d) (x.rate - x.rate * rd Reg.ETH_ECN_BETA d / 16)
                                  lastCut := tempoNow d }) d
    else d) s

/-- A port's line rate in units of 0.1 Gb/s: 100 Gb/s a lane (Table 5.1). -/
def lineRate (p : Nat) (d : Dev) : Nat := 1000 * portLanes p d

/-- RATE_RAISE: at each RAISE_INT edge, a context below line rate that was not cut since the last raises its rate (R183). -/
def execRateRaise (s : State) : Host.Outcome State Fault Refusal :=
  runLive (fun d =>
    let int := rd Reg.ETH_ECN_RAISE_INT d
    if int = 0 ∨ tempoNow d % int ≠ 0 then d
    else forEach ((d.front.ctxs.filter fun c => c.2.opn && c.2.rdma && c.2.rate < lineRate c.2.port d
        && c.2.lastCut + int < tempoNow d).map (·.1))
      (fun c d => modCtx c (fun x => { x with rate := min (lineRate x.port d) (x.rate + rd Reg.ETH_ECN_RAISE_STEP d) }) d) d) s

/-! ### Connect and teardown (R144, R146, R152, R168) -/

/-- The lowest free context number, and a free controller identifier of this head. -/
def freeCtx (d : Dev) : Option Nat :=
  if (d.front.ctxs.filter fun c => c.2.opn).length ≥ 262144 then none
  else (List.range (d.front.ctxs.length + 1)).find? fun c => !(getCtx c d).opn
def freeCntlid (d : Dev) : Option Nat :=
  if (d.front.ctrls.filter fun k => k.2.exists_).length ≥ 8191 then none
  else ((List.range (d.front.ctrls.length + 1)).map fun i => ownHead d * 32768 + 1 + i).find? fun k =>
    !(tget {} d.front.ctrls k).exists_

/-- A Connect cannot be met: Controller Busy (SCT 1, SC 0x81); no state is kept (R146). -/
def connectBusy (r : ConnectReq) (c : Nat) (d : Dev) : Dev := send (.completion c r.cid 0x181 false 0) d

/-- Open a context for a queue (R152). A TCP connection's first congestion window is open: the spec gives none. -/
def openCtx (c : Nat) (r : ConnectReq) (cntlid : Nat) (d : Dev) : Dev :=
  let d := modCtx c (fun x => {
    gen := (x.gen + 1) % 64, opn := true, disc := r.disc, cntlid := cntlid, qid := r.qid, rdma := r.rdma
    port := r.port, tuple := r.tuple, rate := lineRate r.port d }) d
  let d := if r.rdma then d else let (w, d) := drawNat (2 ^ 32) d; modCtx c (fun x => { x with cwnd := w }) d
  let d := (makeResident c d).getD (showCtx d)
  send (.completion c r.cid 0 false cntlid) d

/-- FABRICS_CONNECT's effect. Discovery listens on TCP port 8009 and RoCEv2 port 4420, the subsystem on 4420 (R179). -/
def connect (r : ConnectReq) (d : Dev) : Dev :=
  let enabled := rdb (if r.rdma then Reg.NVF_CTRL_RDMA_EN else Reg.NVF_CTRL_TCP_EN) d && (!r.disc || rdb Reg.NVF_CTRL_DISC_EN d)
  if glbState d = 0 then (if rdb (Reg.ETH_LINK_UP r.port) d then send (.connReject r.port) d else d)
  else if (r.service == if r.disc && !r.rdma then 8009 else 4420) == false then
    (if rdb (Reg.ETH_LINK_UP r.port) d then send (.connReject r.port) d else d)
  else if !enabled || !rdb (Reg.ETH_LINK_UP r.port) d || d.cas.outputsHeld then d
  else match freeCtx d with
    | none => connectBusy r 0 d
    | some c =>
      if r.qid = 0 then
        match freeCntlid d with
        | none => connectBusy r c d
        | some k =>
          if r.entries > 32 then connectBusy r c d
          else
            let ctrl : Controller := { exists_ := true, disc := r.disc, nqn := r.nqn, admin := c, kato := r.kato }
            openCtx c r k { d with front.ctrls := tset {} d.front.ctrls k ctrl }
      else if r.qid > 128 || r.entries > 1024 then connectBusy r c d
      else
        let k := tget {} d.front.ctrls r.cntlid
        if k.exists_ && k.nqn == r.nqn && !k.disc && !((ctrlCtxs r.cntlid d).any fun q => (getCtx q d).qid == r.qid) then
          openCtx c r r.cntlid d
        else send (.completion c r.cid 0x182 true 0) d

/-- FABRICS_CONNECT: a controller or a queue context is created, or the Connect ends Controller Busy (R144, R146, R152, R179).
A queue of an unknown controller ends Connect Invalid Parameters. -/
def execFabricsConnect (r : ConnectReq) (s : State) : Host.Outcome State Fault Refusal := runLive (connect r) s

/-- FABRICS_DISCONNECT: the context tears down (R168). -/
def execFabricsDisconnect (c : HostCmd) (s : State) : Host.Outcome State Fault Refusal :=
  runLive (fun d => if (getCtx c.ctx d).opn then teardown c.ctx (send (.completion c.ctx c.cid 0 false 0) d) else d) s

/-- KEEP_ALIVE_EXPIRE: `ms` have passed since the timer was last restarted; past the timeout the admin queue tears down (R168). The
timer is held during the pause of an activation, which `ms` leaves out (R566). -/
def execKeepAliveExpire (cntlid : Fin 65536) (ms : Nat) (s : State) : Host.Outcome State Fault Refusal :=
  runLive (fun d =>
    let k := tget {} d.front.ctrls cntlid.val
    if k.exists_ && k.kato != 0 && ms ≥ k.kato && !activationPaused d then teardown k.admin d else d) s

/-- TRANSPORT_CONNECTION_LOSS: the connection or queue pair of a context fails (R168). -/
def execTransportConnectionLoss (c : Fin 262144) (s : State) : Host.Outcome State Fault Refusal := runLive (teardown c) s

/-- COMPLETION_DELIVERED: the transport confirms a completion, and the command is COMPLETED (R166). -/
def execCompletionDelivered (rec : Fin 1048576) (s : State) : Host.Outcome State Fault Refusal :=
  runLive (fun d => if (getFc rec d).posted then endCmd rec 0 d else d) s

/-! ### Links of host ports -/

/-- SPEED of a port that exists (Table 5.16). -/
def portSpeed (p : Nat) (d : Dev) : Nat := match portLanes p d with | 1 => 1 | 2 => 2 | 4 => 3 | _ => 0

/-- HOST_LINK_RETRAIN: training starts once the port's grant is held: 10 tokens a lane (R16, R141, Table 21.7). -/
def execHostLinkRetrain (p : Fin 32) (s : State) : Host.Outcome State Fault Refusal :=
  runLive (fun d =>
    let lanes := portLanes p d
    if lanes = 0 || (getPort p d).quar then d
    else if hasGrant (.hostPort p) 5 d then
      bump (Reg.ETH_LINK_RETRAINS p) (modPort p (fun x => { x with training := true }) d)
    else postReq { who := .hostPort p, cls := 5, cost := 10 * lanes } d) s

/-- HOST_LINK_UP: training ends, its hold ends, and the port's discovery entries are listed from the next edge (R179, R180). -/
def execHostLinkUp (p : Fin 32) (s : State) : Host.Outcome State Fault Refusal :=
  runLive (fun d =>
    if portLanes p d = 0 || (getPort p d).quar || !(getPort p d).training then d
    else
      let d := endHold (.hostPort p) 5 (modPort p (fun x => { x with training := false }) d)
      wr (Reg.ETH_LINK_SPEED p) (portSpeed p d) (setb (Reg.ETH_LINK_UP p) d)) s

/-- HOST_LINK_DOWN: UP clears, and the port's discovery entries go from the next edge (R179, R180). -/
def execHostLinkDown (p : Fin 32) (s : State) : Host.Outcome State Fault Refusal :=
  runLive (fun d => clr (Reg.ETH_LINK_UP p) d) s

end Sys2Proof.Machine
end

