-- ==== Sys2Proof/Machine/Media.lean ====
section
/-!
DEFINITION. The commands on the Media Link lanes and on the flash modules behind them (spec/12_media_link.md, R383–R406).
-/

namespace Sys2Proof.Machine

/-! ### Link states (Table 12.2, R383, R394, R395) -/

/-- LANE_ENABLE: MDL_LANE_EN is written. A bit that becomes 1 moves its lane from OFF or FAILED to DETECT; a lane whose bit
becomes 0 goes OFF through DOWN, but for a FAILED one (R394). -/
def execLaneEnable (lanes : BitVec 64) (s : State) : Host.Outcome State Fault Refusal :=
  runLive (fun d =>
    let old := rd Reg.MDL_LANE_EN_EN d
    let d := wr Reg.MDL_LANE_EN_EN lanes.toNat d
    forEach (List.range 64) (fun n d =>
      let st := laneState n d
      if bitOf lanes.toNat n && !bitOf old n then (if st = 0 ∨ st = 7 then wr (Reg.MDL_LANE_STATE n) 1 d else d)
      else if !bitOf lanes.toNat n && bitOf old n && st != 7 then wr (Reg.MDL_LANE_STATE n) 0 (if st ≥ 4 then clearLane n d else d)
      else d) d) s

/-- A module as it left manufacture, or as it was when the slot last held it (Table 12.7, R396). -/
def plugIn (n : Nat) (i : ModInfo) (d : Dev) : Dev :=
  modMod n (fun x =>
    if x.present ∧ x.serial = i.serial then x
    else {
      present := true, version := i.version, mtype := i.mtype, serial := i.serial, nblocks := i.nblocks, rpb := i.rpb
      pgsz := i.pgsz, wlim := i.wlim, rdLimit := i.rdLimit, progRate := i.progRate, readRate := i.readRate, tmax := i.tmax
      fence := i.fence, bad := i.bad }) d

/-- LANE_DETECT: detection finds a load and the lane trains, once its grant of 10 tokens is held (R16, R383). -/
def execLaneDetect (n : Fin 64) (load : Option ModInfo) (s : State) : Host.Outcome State Fault Refusal :=
  runLive (fun d =>
    match load with
    | none => d
    | some i =>
      if laneState n d ≠ 1 then d
      else
        let d := plugIn n i d
        if hasGrant (.mediaLane n) 5 d then wr (Reg.MDL_LANE_STATE n) 2 d
        else postReq { who := .mediaLane n, cls := 5, cost := 10 } d) s

/-- LANE_TRAIN_DONE: training ends in HELLO, where the device says its own (R395), or back in DETECT; after two failures in a row at 32 GT/s the lane runs at 16 GT/s
(R383). -/
def execLaneTrainDone (n : Fin 64) (locked : Bool) (s : State) : Host.Outcome State Fault Refusal :=
  runLive (fun d =>
    if laneState n d ≠ 2 then d
    else
      let d := endHold (.mediaLane n) 5 d
      let slow := rdb Reg.MDL_CTRL_MAX16 d || (getLink n d).failed32 ≥ 2
      if locked then
        send (.mdlHello n 1 (ownHead d) 0 64 256 4096)
          (wr (Reg.MDL_LANE_SPEED n) (b2n slow) (wr (Reg.MDL_LANE_STATE n) 3 (modLink n (fun x => { x with failed32 := 0 }) d)))
      else
        wr (Reg.MDL_LANE_STATE n) 1 (modLink n (fun x => { x with failed32 := if slow then x.failed32 else x.failed32 + 1 }) d)) s

/-- HELLO: the module's HELLO is checked; the lane is UP, FAILED for its wiring, or back in DETECT for its version (R395). -/
def execHello (n : Fin 64) (version port cmdCred dataCred : Nat) (s : State) : Host.Outcome State Fault Refusal :=
  runLive (fun d =>
    if laneState n d ≠ 3 then d
    else
      let d := wr (Reg.MDL_LANE_PORT n) port d
      if port ≠ ownHead d then putFailed n (raiseC Ev.MDL_WIRING (unitOf 0xA n) port 0 (setb Reg.MDL_STATUS_WIRING_CHK d))
      else if version ≠ 1 then
        wr (Reg.MDL_LANE_STATE n) 1 (notice Ev.MDL_VERSION (unitOf 0xA n) version 0 (setb Reg.MDL_STATUS_VERSION_N d))
      else
        let d := modLink n (fun x => { x with
          tx := 0, rx := 0, unacked := [], replays := 0, cmdAnn := cmdCred, dataAnn := dataCred, cmdSent := 0, dataSent := 0
          dataRel := 0 }) d
        wr (Reg.MDL_LANE_STATE n) 4 (setCredit n 0 cmdCred (setCredit n 1 dataCred d))) s

/-- MDL_HELLO_TIMEOUT: HELLO not exchanged within 1 ms; the lane returns to DETECT (Table 12.2). -/
def execMdlHelloTimeout (n : Fin 64) (s : State) : Host.Outcome State Fault Refusal :=
  runLive (fun d => if laneState n d = 3 then wr (Reg.MDL_LANE_STATE n) 1 d else d) s

/-- LANE_DOWN: loss of lock or electrical idle takes the lane DOWN (R402). -/
def execLaneDown (n : Fin 64) (s : State) : Host.Outcome State Fault Refusal :=
  runLive (fun d => if laneState n d = 4 ∨ laneState n d = 5 then laneDown n d else d) s

/-- LANE_RETRAIN_DONE: the retrain ends with every unacknowledged frame replayed, or DOWN (R390). It takes its grant first. -/
def execLaneRetrainDone (n : Fin 64) (ok : Bool) (s : State) : Host.Outcome State Fault Refusal :=
  runLive (fun d =>
    if laneState n d ≠ 5 then d
    else if !ok then laneDown n (endHold (.mediaLane n) 5 d)
    else if !hasGrant (.mediaLane n) 5 d then d
    else
      let d := wr (Reg.MDL_LANE_STATE n) 4 (endHold (.mediaLane n) 5 d)
      let d := (getLink n d).unacked.foldl (fun d f => transmit n f d) d
      pump n ((getLink n d).queue.length + 1) d) s

/-! ### Adoption (R354, R400, R401, R407) -/

/-- The pool a member joins exists once it has W + 2 members; each adoption builds a new layout generation, before which a
checkpoint is written (R407, R417): every dirty page is due. -/
def joinPool (p w : Nat) (d : Dev) : Dev :=
  let d := modPool p (fun q => if q.w = 0 then { q with w := w } else q) d
  let q := getPool p d
  if (liveMembers p d).length < q.w + 2 then d
  else showNarrow p (newLayout p (modPool p (fun q => { q with exists_ := true }) d))

/-- Adopt a module as a new member, or as the member its serial number names (R400, R401, R423, R424). -/
def adopt (n : Nat) (dest : Option (Nat × Nat)) (d : Dev) : Dev :=
  let x := getMod n d
  let m := tget {} d.md.members n
  let again := m.adopted && m.serial == x.serial && !m.declared
  if !again && dest.isNone then d
  else
    let t := tget [] d.oimCfg.thresh x.mtype
    if t.isEmpty then notice Ev.FT_NO_TABLE (unitOf 0xA n) x.mtype 0 d
    else
      let d := laneIssue n { opcode := 0x06, data := t, use := .loadTable } d
      if again then showRebuild d
      else
        let (p, w) := dest.getD (0, 0)
        let y : Member := {
          adopted := true, pool := p, serial := x.serial, nblocks := x.nblocks, rpb := x.rpb, pgsz := x.pgsz, wlim := x.wlim
          rdLimit := x.rdLimit, progRate := x.progRate }
        let d := { d with md.members := tset {} d.md.members n y
                          md.blocks := d.md.blocks.filter fun b => b.1 / 2 ^ 24 != n }
        let d := modBlk n 0 (fun b => { b with state := 4 }) (modBlk n 1 (fun b => { b with state := 4 }) d)
        let d := forEach (getLink n d).bad (fun b d => retireBlock n b 5 d) d
        let used := ((x.blocks.filter fun b => b.2.next ≠ 0 || b.2.failed.isSome).map (·.1)).filter fun b => 2 ≤ b
        let d := forEach used (fun b d =>
          { modBlk n b (fun r => { r with state := 1, seg := 0 }) d with ftl.gate := d.ftl.gate ++ [blkKey n b] }) d
        showRebuild (showPools (chooseGroups (joinPool p w d)))

/-- LANE_UP_IDENTIFY: an UP lane issues IDENTIFY, BAD_LIST, FENCE_READ and HEALTH; once the module is identified, King firmware
adopts it: `dest` names the pool and, for a pool not yet created, its W less 8 (R400, R401, R407). -/
def execLaneUpIdentify (n : Fin 64) (dest : Option (Fin 32 × Fin 15)) (s : State) : Host.Outcome State Fault Refusal :=
  runLive (fun d =>
    if laneState n d ≠ 4 then d
    else if (getLink n d).identified then claimReturned n (adopt n (dest.map fun x => (x.1.val, 8 + x.2.val)) d)
    else if bitOf (rd Reg.MDL_PRESENT_LANES d) n || laneHas n (· == .identify) d then d
    else
      laneIssue n { opcode := 0x02, use := .health } (laneIssue n { opcode := 0x04, use := .fenceRead }
        (laneIssue n { opcode := 0x03, use := .badList } (laneIssue n { opcode := 0x01, use := .identify } d)))) s

/-- MDL_HEALTH_TIMER: every HEALTH ms the device issues HEALTH (R401). -/
def execMdlHealthTimer (n : Fin 64) (s : State) : Host.Outcome State Fault Refusal :=
  runLive (fun d => if laneUp n d then laneIssue n { opcode := 0x02, use := .health } d else d) s

/-! ### Frames from the module (R385–R392) -/

/-- MDL_TRANSACTION_FRAME: a transaction frame is discarded, or accepted in sequence; a discarded or out-of-order one is NAKed
once (R385–R388). -/
def execMdlTransactionFrame (n : Fin 64) (seq : Fin 4096) (crcOk typeOk lenOk : Bool) (s : State) :
    Host.Outcome State Fault Refusal :=
  runLive (fun d =>
    if laneState n d ≠ 4 then d
    else
      let x := getLink n d
      let nak (d : Dev) : Dev :=
        if (getLink n d).nakSent then d
        else bump (Reg.MDL_ERR_NAKS n) (sendFrame n 0x09 0 (modLink n (fun x => { x with nakSent := true }) d))
      if !crcOk then nak (bump (Reg.MDL_ERR_CRC n) d)
      else if !lenOk then nak (bump (Reg.MDL_ERR_LEN n) d)
      else if !typeOk then nak d
      else if seq.val = x.rx then modLink n (fun x => { x with rx := (x.rx + 1) % 4096, nakSent := false, ackDue := true }) d
      else if (x.rx + 4096 - seq.val) % 4096 ≤ 2048 then sendFrame n 0x08 0 d
      else nak d) s

/-- An ACK or NAK naming `seq` covers every frame up to it (R389); an ACK that covers none does not advance. -/
def covered (n seq : Nat) (d : Dev) : Dev :=
  let x := getLink n d
  if x.unacked.any (·.seq == seq) then
    let rest := (x.unacked.dropWhile (·.seq != seq)).drop 1
    pump n (x.queue.length + 1) (modLink n (fun x => { x with unacked := rest, replays := 0 }) d)
  else d

/-- Send every unacknowledged frame again (R389). -/
def replay (n : Nat) (d : Dev) : Dev :=
  bump (Reg.MDL_LANE_REPLAYS n) ((getLink n d).unacked.foldl (fun d f => transmit n f d) d)

/-- MDL_ACK: replay buffer entries are released (R389). -/
def execMdlAck (n : Fin 64) (seq : Fin 4096) (s : State) : Host.Outcome State Fault Refusal :=
  runLive (fun d => if laneState n d = 4 then covered n seq d else d) s

/-- MDL_NAK: every frame after the named SEQ is sent again (R389); the fourth replay in a row with no advance retrains (R390). -/
def execMdlNak (n : Fin 64) (seq : Fin 4096) (s : State) : Host.Outcome State Fault Refusal :=
  runLive (fun d =>
    if laneState n d ≠ 4 then d
    else
      let d := covered n seq d
      if (getLink n d).unacked.isEmpty then d
      else
        let d := replay n (modLink n (fun x => { x with replays := x.replays + 1 }) d)
        if (getLink n d).replays ≥ 4 then laneRetrain n d else d) s

/-- MDL_REPLAY_TIMEOUT: no ACK advanced; every unacknowledged frame is sent again, and the fourth time in a row the lane retrains
(R389, R390). -/
def execMdlReplayTimeout (n : Fin 64) (s : State) : Host.Outcome State Fault Refusal :=
  runLive (fun d =>
    if laneState n d ≠ 4 || (getLink n d).unacked.isEmpty then d
    else
      let d := replay n (modLink n (fun x => { x with replays := x.replays + 1 }) d)
      if (getLink n d).replays ≥ 4 then laneRetrain n d else d) s

/-- The credits available: the announced and the cumulative count received, minus the frames sent, modulo 2^32 (R392). -/
def available (ann released sent : Nat) : Nat := (ann + released + (2 ^ 32 - sent % 2 ^ 32)) % 2 ^ 32

/-- MDL_CREDIT: cumulative counts of credits released; available are the announced plus the released minus the sent (R392). -/
def execMdlCredit (n : Fin 64) (cmd data : Nat) (s : State) : Host.Outcome State Fault Refusal :=
  runLive (fun d =>
    if laneState n d ≠ 4 then d
    else
      let x := getLink n d
      let d := setCredit n 0 (available x.cmdAnn cmd x.cmdSent) (setCredit n 1 (available x.dataAnn data x.dataSent) d)
      pump n (x.queue.length + 1) d) s

/-- MDL_KEEP: the frame shows only that the link is alive (R391). -/
def execMdlKeep (n : Fin 64) (s : State) : Host.Outcome State Fault Refusal :=
  let _ := n
  runLive (fun d => d) s

/-- MDL_ACK_DELAY_EXPIRE: ACK and CREDIT are sent (R387, R392). -/
def execMdlAckDelayExpire (n : Fin 64) (s : State) : Host.Outcome State Fault Refusal :=
  runLive (fun d =>
    if laneState n d = 4 && (getLink n d).ackDue then
      sendCredit n (sendFrame n 0x08 0 (modLink n (fun x => { x with ackDue := false }) d))
    else d) s

/-- MDL_DEAD_TIMEOUT: no frame for DEAD; the lane retrains (R391). -/
def execMdlDeadTimeout (n : Fin 64) (s : State) : Host.Outcome State Fault Refusal := runLive (laneRetrain n) s

/-- MDL_KEEP_TIMEOUT: a silent side sends KEEP, CREDIT and ACK (R391). -/
def execMdlKeepTimeout (n : Fin 64) (s : State) : Host.Outcome State Fault Refusal :=
  runLive (fun d => if laneState n d = 4 then sendFrame n 0x08 0 (sendCredit n (sendFrame n 0x0B 0 d)) else d) s

/-! ### What a module does with a command (R396, R397, R403–R405, Tables 12.5 and 12.6) -/

/-- A command of this head to the same block came before one and has not been executed (R396). -/
def blockWaits (n : Nat) (c : LaneCmd) (d : Dev) : Bool :=
  c.opcode ≥ 0x10 && (getLink n d).cmds.any fun x =>
    x.2.opcode ≥ 0x10 && x.2.block == c.block && x.2.stamp < c.stamp && x.2.rsp.isNone

/-- The command of a request, and the port it came on. A module executes the commands to one block in their order of arrival (R396). -/
def reqCmd (n opcode : Nat) (r : ModReq) (d : Dev) : Option (Nat × LaneCmd) :=
  match r with
  | .own t =>
    match (getLink n d).cmds.find? fun c => c.1 == t with
    | some c => if c.2.opcode = opcode && c.2.rsp.isNone && !blockWaits n c.2 d then some (ownHead d, c.2) else none
    | none => none
  | .peer c => some (1 - ownHead d, {
      opcode := opcode, block := c.block, unit := c.unit, npages := c.npages, set := c.set, arg0 := c.arg0, arg1 := c.arg1
      data := c.data })

/-- The module answers. -/
def answer (n : Nat) (r : ModReq) (p : LaneRsp) (d : Dev) : Dev :=
  match r with
  | .own t => modLink n (fun x => { x with cmds := x.cmds.map fun c => if c.1 = t then (c.1, { c.2 with rsp := some p }) else c }) d
  | .peer _ => d

/-- A module executes one command: `needs` says that it takes the port's fence bit. -/
def modExec (n opcode : Nat) (needs : Bool) (r : ModReq) (f : Nat → LaneCmd → Dev → LaneRsp × Dev) (d : Dev) : Dev :=
  match reqCmd n opcode r d with
  | none => d
  | some (port, c) =>
    if !(getMod n d).present then d
    else if needs && !bitOf (getMod n d).fence port then answer n r { status := 4, value := if opcode = 5 then (getMod n d).fence else 0 } d
    else let (p, d) := f port c d; answer n r p d

/-- MDL_IDENTIFY: the module returns its IDENTIFY data (Table 12.7). -/
def execMdlIdentify (n : Fin 64) (r : ModReq) (s : State) : Host.Outcome State Fault Refusal :=
  runLive (modExec n 0x01 false r fun _ _ d => ({ status := 0 }, d)) s

/-- MDL_HEALTH: the module returns its die temperature and a block's P/E count. -/
def execMdlHealth (n : Fin 64) (r : ModReq) (temp : Int) (s : State) : Host.Outcome State Fault Refusal :=
  runLive (modExec n 0x02 false r fun _ c d =>
    ({ status := 0, value := (tget {} (getMod n d).blocks c.block).pe, data := leBytes 2 (twosOf 16 temp) ++ List.replicate 62 0 },
      modMod n (fun x => { x with temp := temp }) d)) s

/-- MDL_BAD_LIST: the module returns its bad blocks. -/
def execMdlBadList (n : Fin 64) (r : ModReq) (s : State) : Host.Outcome State Fault Refusal :=
  runLive (modExec n 0x03 false r fun _ _ d => ({ status := 0, data := (getMod n d).bad.flatMap fun b => leBytes 4 b }, d)) s

/-- MDL_FENCE_READ: the module returns its fence word (R403). -/
def execMdlFenceRead (n : Fin 64) (r : ModReq) (s : State) : Host.Outcome State Fault Refusal :=
  runLive (modExec n 0x04 false r fun _ _ d => ({ status := 0, value := (getMod n d).fence }, d)) s

/-- Commands of this head's port that need the bit and have not started end FENCED (R404). -/
def fenceOff (n : Nat) (d : Dev) : Dev :=
  modLink n (fun x => { x with cmds := x.cmds.map fun c =>
    if c.2.rsp.isNone && [0x05, 0x06, 0x11, 0x12].contains c.2.opcode then (c.1, { c.2 with rsp := some { status := 4 } }) else c }) d

/-- MDL_FENCE_CAS: FENCED, CAS_MISMATCH, INVALID, or the new word (R403, R404). -/
def execMdlFenceCas (n : Fin 64) (r : ModReq) (s : State) : Host.Outcome State Fault Refusal :=
  runLive (modExec n 0x05 true r fun _ c d =>
    let w := (getMod n d).fence
    if w ≠ c.arg0 then ({ status := 5, value := w }, d)
    else if c.arg1 / 65536 ≠ (c.arg0 / 65536 + 1) % 2 ^ 48 ∨ c.arg1 % 65536 ≥ 4 then ({ status := 10, value := w }, d)
    else
      let d := modMod n (fun x => { x with fence := c.arg1 }) d
      let d := if bitOf w (ownHead d) && !bitOf c.arg1 (ownHead d) then fenceOff n d else d
      ({ status := 0, value := c.arg0 }, d)) s

/-- MDL_LOAD_TABLE: 16,384 bytes become the table in force; another length ends LENGTH (R354, R397). -/
def execMdlLoadTable (n : Fin 64) (r : ModReq) (s : State) : Host.Outcome State Fault Refusal :=
  runLive (modExec n 0x06 true r fun _ c d =>
    if c.data.length = 16384 then ({ status := 0 }, modMod n (fun x => { x with table := c.data }) d) else ({ status := 8 }, d)) s

/-- A block a module may use. -/
def modBlockOk (x : Module) (b : Nat) : Bool := b < x.nblocks && !x.bad.contains b && !(tget {} x.blocks b).bad

/-- MDL_READ: 1–16 pages; pages not programmed, of a failed row, or named in `unc` are uncorrectable (R396). -/
def execMdlRead (n : Fin 64) (r : ModReq) (unc : Nat) (s : State) : Host.Outcome State Fault Refusal :=
  runLive (modExec n 0x10 false r fun _ c d =>
    let x := getMod n d
    let ps := 2 ^ (10 + x.pgsz)
    if x.table.isEmpty || c.npages = 0 || c.npages > 16 || c.set > 1023 then ({ status := 10 }, d)
    else if !modBlockOk x c.block || (c.unit + c.npages) * ps > x.rpb * 65536 then ({ status := 6 }, d)
    else
      let b := tget {} x.blocks c.block
      let page (i : Nat) : Option Bytes :=
        let row := (c.unit + i) * ps / 65536
        let v := tget [] x.rows (c.block * 4096 + row)
        if bitOf unc i || row ≥ b.next || b.failed.any (· ≤ row) || v.length ≠ 65536 then none
        else some ((v.drop ((c.unit + i) * ps % 65536)).take ps)
      let got := (List.range c.npages).map page
      let mask := ((List.range c.npages).map fun i => if (page i).isNone then 2 ^ i else 0).sum
      ({ status := if mask = 0 then 0 else 1, unc := mask, data := got.flatMap (·.getD []) }, d)) s

/-- MDL_PROGRAM: the next row of a block (R396, R397). -/
def execMdlProgram (n : Fin 64) (r : ModReq) (ok : Bool) (s : State) : Host.Outcome State Fault Refusal :=
  runLive (modExec n 0x11 true r fun _ c d =>
    let x := getMod n d
    let b := tget {} x.blocks c.block
    if c.data.length ≠ 65536 then ({ status := 8 }, d)
    else if !modBlockOk x c.block || c.unit ≥ x.rpb then ({ status := 6 }, d)
    else if c.unit ≠ b.next || b.failed.isSome then ({ status := 7 }, d)
    else
      let put (y : ModBlock) (rows : Tab Bytes) (d : Dev) : Dev :=
        modMod n (fun x => { x with blocks := tset {} x.blocks c.block y, rows := rows }) d
      if ok then ({ status := 0 }, put { b with next := b.next + 1 } (tset [] x.rows (c.block * 4096 + c.unit) c.data) d)
      else ({ status := 2 }, put { b with failed := some c.unit } x.rows d)) s

/-- MDL_ERASE: a block's rows go and its next row is 0; under a power-loss notice it ends ABORTED (R396, R405). -/
def execMdlErase (n : Fin 64) (r : ModReq) (ok : Bool) (s : State) : Host.Outcome State Fault Refusal :=
  runLive (modExec n 0x12 true r fun _ c d =>
    let x := getMod n d
    if x.pln then ({ status := 9 }, d)
    else if !modBlockOk x c.block then ({ status := 6 }, d)
    else if !ok then ({ status := 3 }, d)
    else
      let b := tget {} x.blocks c.block
      ({ status := 0 }, modMod n (fun x => { x with
        blocks := tset {} x.blocks c.block { pe := b.pe + 1 }
        rows := x.rows.filter fun p => p.1 / 4096 != c.block }) d)) s

/-! ### Ends of commands (R398, R399, R406) -/

/-- Take a command off a lane. -/
def takeCmd (n tag : Nat) (d : Dev) : Option (LaneCmd × Dev) :=
  match (getLink n d).cmds.find? fun c => c.1 == tag with
  | some c => some (c.2, modLink n (fun x => { x with cmds := tdel tag x.cmds }) d)
  | none => none

/-- Record a READ whose data disagrees with its counts (R398). -/
def lenMismatch (n tag declared seen : Nat) (d : Dev) : Dev :=
  let d := wr Reg.MDL_LEN_LAST_DECLARED declared (wr Reg.MDL_LEN_LAST_SEEN seen d)
  let d := wr Reg.MDL_LEN_LAST2_LANE n (wr Reg.MDL_LEN_LAST2_TAG tag d)
  notice Ev.MDL_LEN (unitOf 0xA n) declared seen d

/-- MDL_RESPONSE: a response completes its command; `seen` is how many bytes of data came when not all did. A READ whose data
disagrees is issued once more, and the second time counts as uncorrectable (R398). A late response is discarded (R399). -/
def execMdlResponse (n : Fin 64) (tag : Fin 1024) (seen : Option Nat) (s : State) : Host.Outcome State Fault Refusal :=
  runLive (fun d =>
    if (getLink n d).dead.contains tag.val then bump (Reg.MDL_ERR_LATE n) d
    else match takeCmd n tag d with
      | none => d
      | some (c, d') =>
        match c.rsp with
        | none => d
        | some r =>
          let d' := modLink n (fun x => { x with dataRel := x.dataRel + (seen.getD r.data.length + 4095) / 4096, ackDue := true }) d'
          let ps := 2 ^ (10 + (getMod n d).pgsz)
          let good := c.opcode ≠ 0x10 || r.status ≥ 2 || (r.data.length = (c.npages - popCount 16 r.unc) * ps && seen.isNone)
          if good then laneEnded n c (some r) d'
          else
            let d := lenMismatch n tag r.data.length (seen.getD r.data.length) d'
            if c.again then laneEnded n c (some { status := 1, unc := 65535 }) d
            else laneIssue n { c with again := true, rsp := none } d) s

/-- MDL_COMMAND_TIMEOUT: no response within the timeout; the command ends TIMEOUT and its tag stays unused (R399). -/
def execMdlCommandTimeout (n : Fin 64) (tag : Fin 1024) (s : State) : Host.Outcome State Fault Refusal :=
  runLive (fun d =>
    match takeCmd n tag d with
    | none => d
    | some (c, d) =>
      let d := bump (Reg.MDL_LANE_TIMEOUTS n) (modLink n (fun x => { x with dead := x.dead ++ [tag.val] }) d)
      laneEnded n c none (notice Ev.MDL_TIMEOUT (unitOf 0xA n) c.block c.opcode d)) s

/-- PLN_RECEIVE: nothing further is issued to the module; commands not yet sent end LINK_LOST (R406). -/
def execPlnReceive (n : Fin 64) (s : State) : Host.Outcome State Fault Refusal :=
  runLive (fun d =>
    if laneState n d ≠ 4 then d
    else
      let q := (getLink n d).queue
      let d := modLink n (fun x => { x with queue := [] }) (setb (Reg.MDL_LANE_PLN_IN n) d)
      { d with todo := d.todo ++ q.map fun c => .laneEnd n c none }) s

/-- PLN on every UP lane, with CLEAR or without (R405). -/
def sendPln (clear : Bool) (d : Dev) : Dev :=
  forEach (List.range 64) (fun n d =>
    if laneUp n d then send (.mdlPln n clear) (modMod n (fun x => { x with pln := !clear }) d) else d) d

/-- PLN_CLEAR: MDL_CTRL.PLN_CLEAR sends PLN with CLEAR on every UP lane (R405). -/
def execPlnClear (s : State) : Host.Outcome State Fault Refusal := runLive (sendPln true) s

/-- MDL_INJ_ARM: the lane's next transmitted transaction frame carries an inverted trailer (Table 12.10). -/
def execMdlInjArm (lane : Fin 64) (s : State) : Host.Outcome State Fault Refusal :=
  runLive (fun d => setb Reg.MDL_INJ_ARM (wr Reg.MDL_INJ_LANE lane d)) s

end Sys2Proof.Machine
end

