-- ==== Sys2Proof/Machine/NvmeRun.lean ====
section
/-!
DEFINITION. Running an NVMe command from its capsule to its first wait or its status (spec/05_nvme_front_end.md, R142–R151,
R161–R168, R176; spec/16_castling_and_cascade.md, R501, R502; spec/19_firmware_update.md, R560–R565).
-/

namespace Sys2Proof.Machine

/-! ### Effects that both heads apply -/

/-- Namespace Management: status and NSID (R147, R448, R548). -/
def nsManage (c : HostCmd) (d : Dev) : Nat × Nat × Dev :=
  match c.sel with
  | 0 => createNs c.create d
  | 1 =>
    let gone := fun (n : Nat) (d : Dev) =>
      let hosts := (getNs n d).hosts
      deleteNs n (raiseEvent 1 (fun k => hosts.contains k.nqn) d)
    if c.nsid = 0xFFFFFFFF then (0, 0, forEach ((d.md.ns.filter fun n => n.2.exists_).map (·.1)) gone d)
    else if (getNs c.nsid d).exists_ then (0, 0, gone c.nsid d) else (0x0B, 0, d)
  | _ => (0x02, 0, d)

/-- Namespace Attachment: staged for the next edge (R148). -/
def nsAttach (c : HostCmd) (d : Dev) : Nat × Dev :=
  let k := getCtrl c.val d
  let nqn := if c.val / 32768 = ownHead d && !c.viaPeer then k.nqn else c.host
  let ns := getNs c.nsid d
  if !ns.exists_ then (0x0B, d)
  else if c.val / 32768 = ownHead d && !c.viaPeer && !k.exists_ then (0x11C, d)
  else match c.sel with
    | 0 => if ns.hosts.contains nqn then (0x118, d) else (0, { d with front.attach := d.front.attach ++ [(c.nsid, nqn, true)] })
    | 1 => if ns.hosts.contains nqn then (0, { d with front.attach := d.front.attach ++ [(c.nsid, nqn, false)] }) else (0x11A, d)
    | _ => (0x02, d)

/-- The effect of a command that changes metadata which both heads hold, and its status; nothing for any other command. -/
def sharedEffect (op : NvmeOp) (c : HostCmd) (d : Dev) : Option (Nat × Dev) :=
  match op with
  | .nsManage => let (st, n, d) := nsManage c d
                 some (st, if st = 0 && c.sel = 0 && !c.viaPeer then send (.adminData c.ctx c.cid [n]) d else d)
  | .nsAttach => some (nsAttach c d)
  | .resvRegister => some (resvRegister c d)
  | .resvAcquire => some (resvAcquire c d)
  | .resvRelease => some (resvRelease c d)
  | _ => none

/-! ### Commands -/

/-- Identify: the controller, a namespace, the attached namespaces; of other structures the spec states nothing: open bytes. -/
def identifyData (c : HostCmd) (d : Dev) : Dev :=
  match c.sel with
  | 0 => send (.adminData c.ctx c.cid (namespaceData c.nsid d)) d
  | 1 => send (.adminData c.ctx c.cid (controllerData d)) d
  | 2 => send (.adminData c.ctx c.cid
      ((d.md.ns.filter fun n => n.2.exists_ && n.2.hosts.contains (hostOf c d) && c.nsid < n.1).map (·.1))) d
  | _ => let (b, d) := drawBytes 4096 d; sendData c 0 b d

/-- Get Log Page: the log's content, and its event type unmasked (R659, R179; spec/18_boot_and_attestation.md, Boot Records). -/
def logData (c : HostCmd) (d : Dev) : Dev :=
  let d := match c.sel with
    | 0xC8 =>
      let newest := rd Reg.SXC_BOOT_BOOT d
      sendData c 0 (tget [] d.nv.bootSlots ((newest + 16384 - c.val % 16384) % 16384)) d
    | 0x0C => send (.adminData c.ctx c.cid (d.front.anaCount :: (List.range 128).map fun g => anaState (g + 1) d)) d
    | 0x70 => send (.adminData c.ctx c.cid (discoveryData d)) d
    | 0x03 => send (.adminData c.ctx c.cid ([runSlot d, d.nv.fwNext] ++
        [1, 2, 3].map fun n => leNat (sub (getFwSlot n d).image 48 8))) d
    | 0x04 => send (.adminData c.ctx c.cid
        ((d.md.ns.filter fun n => n.2.exists_ && n.2.hosts.contains (hostOf c d)).map (·.1))) d
    | _ => let (b, d) := drawBytes 512 d; sendData c 0 b d
  let e := logEvent c.sel
  let k := cntlidOf c d
  if e = 0 then d else giveEvent k (modCtrl k (fun x => { x with masked := x.masked.filter (· != e) }) d)

/-- A controller property (R142, Table 5.3). Bits that the spec does not give are open. -/
def propertyData (c : HostCmd) (d : Dev) : Option (Nat × Dev) :=
  let k := getCtrl (cntlidOf c d) d
  match c.sel with
  | 0x00 => let (f, d) := drawNat (2 ^ 48) d; some (f * 65536 + 1023, d)
  | 0x08 => some (0x20000, d)
  | 0x14 => some (k.cc, d)
  | 0x1C => some (k.cc % 2 + 4 * k.shst, d)
  | _ => none

/-- A property is written (R142, R168): CC.EN 0, and a shutdown, tear the controller down. -/
def propertyWrite (n : Nat) (c : HostCmd) (d : Dev) : Dev :=
  if c.sel ≠ 0x14 then completeOpen n 0x02 d
  else
    let stop := c.val % 2 = 0 || c.val / 2 ^ 14 % 4 != 0
    let d := modCtrl (cntlidOf c d) (fun k => { k with cc := c.val, shst := if c.val / 2 ^ 14 % 4 = 0 then 0 else 2 }) d
    let d := complete n 0 false d
    if stop then teardown c.ctx d else d

/-- A feature is set; the number of queues granted is 128 of each (Table 5.3). -/
def setFeature (c : HostCmd) (d : Dev) : Dev :=
  let v := if c.sel = 0x07 then 0x7F007F else c.val
  modCtrl (cntlidOf c d) (fun k => { k with
    features := tset 0 k.features c.sel v, kato := if c.sel = 0x0F then c.val else k.kato }) d

/-- Firmware Commit (R563–R565). -/
def fwCommit (n ca : Nat) (c : HostCmd) (d : Dev) : Dev :=
  let slot := commitSlotNo ca c.sel d
  let (st, d) := commitFw ca c.sel c.readBack d
  let d := emptyFwBuf d
  match st with
  | some st => completeOpen n st d
  | none =>
    let (st, d) := mayActivate slot d
    if st ≠ 0 then completeOpen n st d
    else setb Reg.FWU_STATUS_ACT_BUSY { d with fwu.act := some { slot := slot, edge := 0, phase := 0, cmdRec := n } }

/-- Run an accepted command: the checks, then its effect. -/
def perform (op : NvmeOp) (n : Nat) (d : Dev) : Dev :=
  let c := (getFc n d).cmd
  let (st, d) := checkCmd op c d
  if st ≠ 0 then completeOpen n st d
  else match sharedEffect op c d with
    | some (st, d) =>
      completeOpen n st (if st = 0 then send (.shareCmd c.ctx c.cid) (send (.mirrorCmd n) (modCmd n (fun r => { r with effect := true }) d)) else d)
    | none =>
      match op with
      | .identify => complete n 0 false (identifyData c d)
      | .getLogPage => complete n 0 false (logData c d)
      | .setFeatures => complete n 0 false (setFeature c d)
      | .getFeatures =>
        complete n 0 false (send (.adminData c.ctx c.cid [tget 0 (getCtrl (cntlidOf c d) d).features c.sel]) d)
      | .asyncEvent =>
        let k := cntlidOf c d
        giveEvent k (modCtrl k (fun x => { x with aers := x.aers ++ [n] }) d)
      | .abort => complete n 0 false d
      | .fwDownload => let (st, d) := downloadBlock (cntlidOf c d) c.val2 c.data d; completeOpen n st d
      | .fwCommit ca => fwCommit n ca c d
      | .propertyGet =>
        match propertyData c d with
        | some (v, d) => complete n 0 false (send (.adminData c.ctx c.cid [v]) d)
        | none => completeOpen n 0x02 d
      | .propertySet => propertyWrite n c d
      | .read | .compare | .verify => startRead n d
      | .write | .writeZeroes | .dsm => startWrite n d
      | .resvReport =>
        let r := (getNs c.nsid d).resv
        complete n 0 false (send (.adminData c.ctx c.cid
          ([r.gen, r.rtype, r.keys.length, 1] ++ r.keys.flatMap fun k => [k.1, k.2 - 1, b2n (r.holder == some k.1 || r.rtype ≥ 5)])) d)
      | _ => complete n 0 false d

/-! ### Acceptance -/

/-- The front-end engine of a context (R161): the model's 0 when none is left. -/
def frontEngine (ctx : Nat) (d : Dev) : Nat :=
  let es := those 64 fun e => rd (Reg.CL_CTRL_FUNCTION (e / 8)) d == 0 && !engineOut e d
  (es[ctx % max 1 es.length]?).getD 0

/-- Hand an I/O command to the high task ring of its engine (R161): a descriptor with the front end's port as ISSUER (Tables 3.3, 4.4). What
firmware's slice is told of it, and what happens while the ring is full, the spec does not say: open bytes, and no descriptor then. -/
def handTask (e port : Nat) (d : Dev) : Dev :=
  let ring := 2 * e + 1
  let t := tget {} d.taskRings ring
  let a := taskAddr ring t.prod d
  if (t.prod + 65536 - t.cons) % 65536 ≥ 64 || !inMem a 32 then d
  else
    let (b, d) := drawBytes 20 d
    let (u, d) := drawNat 2 d
    storeMem a (b ++ [BitVec.ofNat 8 u, 0, 0, 0] ++ leBytes 2 (101 + port / 8) ++ List.replicate 6 0)
      { d with taskRings := tmod {} d.taskRings ring fun t => { t with prod := (t.prod + 1) % 65536 } }

/-- The squares a command touches and the first of them (Table 16.1). -/
def cmdSpan (op : NvmeOp) (c : HostCmd) (d : Dev) : Nat × Nat :=
  let l := needsOf { op := op, cmd := c } d
  (l.length, ((l.head?).map (·.1)).getD 0)

/-- Pauses of the priorities whose capsules wait for a record (R502). -/
def showCapsules (p : Nat) (d : Dev) : Dev :=
  let m := (d.front.capsules.filter fun q => (tget {} d.front.ctxs q.cmd.ctx).port == p).foldl (fun m q => m ||| 2 ^ (q.cmd.prio % 8)) 0
  setPause p 5 (if (freeRecord d).isNone then m else 0) d

/-- A capsule whose command may not start yet waits in its context (R502, R506). -/
def park (op : NvmeOp) (c : HostCmd) (d : Dev) : Dev :=
  let d := { d with front.capsules := d.front.capsules ++ [⟨op, c⟩] }
  if c.ctx < mgmtCtx ∧ !c.viaPeer then showCapsules (tget {} d.front.ctxs c.ctx).port d else d

/-- The head does not start this command now. -/
def mustWait (op : NvmeOp) (c : HostCmd) (d : Dev) : Bool :=
  hostHeld d || (!isAdmin op && (getNs c.nsid d).exists_ && groupHeld (getNs c.nsid d).group d)

/-- Accept a command and run it (R161, R501). -/
def acceptAndRun (op : NvmeOp) (n : Nat) (c : HostCmd) (d : Dev) : Dev :=
  let (nsq, sq) := cmdSpan op c d
  let d := acceptCmd n op c (if opCls op = 1 then nsq else 0) (if opCls op = 1 then sq else 0) d
  let e := frontEngine c.ctx d
  let d := if isAdmin op then d else handTask e (tget {} d.front.ctxs c.ctx).port d
  perform op n (modFc n (fun f => { f with engine := e }) d)

/-- The command's path is Non-Optimized: the owning head runs it (R176), and makes its checks beyond row 1 of Table 5.6 (R162). -/
def isForwarded (op : NvmeOp) (c : HostCmd) (d : Dev) : Bool :=
  let ns := getNs c.nsid d
  !c.viaPeer && !isAdmin op && (opListed op c d).1 && attached c d && !ownsGroup ns.group d && (anaStatus ns.group d).isNone

/-- Carry a command to the owning head (R176). -/
def carry (op : NvmeOp) (c : HostCmd) (d : Dev) : Dev :=
  send (.forward op c) { d with front.carried := d.front.carried ++ [(c.ctx, c.cid)] }

/-- The owning head's answer reaches the host of a command that was carried there (R176). -/
def takeAnswer (c : HostCmd) (a : PeerAnswer) (d : Dev) : Dev :=
  if !d.front.carried.contains (c.ctx, c.cid) || d.cas.outputsHeld then d
  else match a with
    | .fetch n => send (.fetchData c.ctx c.cid n) d
    | .data off b => send (.hostData c.ctx c.cid off b) d
    | .done st dnr dw0 => send (.completion c.ctx c.cid st dnr dw0) { d with front.carried := d.front.carried.erase (c.ctx, c.cid) }

/-- Each Abort received is counted (R167). -/
def countAbort (op : NvmeOp) (d : Dev) : Dev := if op = .abort then bump Reg.NVF_ABORT_REQUESTS d else d

/-- A command capsule has been parsed, or the owning head has answered one that was carried there. -/
def submit (op : NvmeOp) (c : HostCmd) (d : Dev) : Dev :=
  let known := c.viaPeer || c.ctx = mgmtCtx || (tget {} d.front.ctxs c.ctx).opn
  if !known || glbState d = 0 then d
  else match c.answer with
  | some a => takeAnswer c a d
  | none =>
    let d := countAbort op d
    if c.viaPeer && (sharedEffect op c d).isSome && !(isResv op && ownsNs c.nsid d) then ((sharedEffect op c d).map (·.2)).getD d
    else if mustWait op c d then park op c d
    else if isForwarded op c d then carry op c d
    else match freeRecord d with
      | none => park op c d
      | some n => acceptAndRun op n c d

/-- The first capsule that waits and may start. -/
def nextCapsule (d : Dev) : Option Capsule := d.front.capsules.find? fun q => !mustWait q.op q.cmd d

end Sys2Proof.Machine
end

