-- ==== Sys2Proof/Machine/Nvme.lean ====
section
/-!
DEFINITION. The NVMe commands of Table 5.4 and of "Firmware Update", and what makes a waiting one go on.
-/

namespace Sys2Proof.Machine

/-- PROPERTY_GET returns a controller property (R142). -/
def execPropertyGet (c : HostCmd) (s : State) : Host.Outcome State Fault Refusal := runLive (submit .propertyGet c) s

/-- PROPERTY_SET writes a controller property; CC.EN 0 and a shutdown tear the controller down (R142, R168). -/
def execPropertySet (c : HostCmd) (s : State) : Host.Outcome State Fault Refusal := runLive (submit .propertySet c) s

/-- IDENTIFY returns controller or namespace data (R145, Table 5.3). -/
def execIdentify (c : HostCmd) (s : State) : Host.Outcome State Fault Refusal := runLive (submit .identify c) s

/-- GET_LOG_PAGE returns a log and unmasks the event type it names (R659, R179). -/
def execGetLogPage (c : HostCmd) (s : State) : Host.Outcome State Fault Refusal := runLive (submit .getLogPage c) s

/-- SET_FEATURES sets a feature (R142). -/
def execSetFeatures (c : HostCmd) (s : State) : Host.Outcome State Fault Refusal := runLive (submit .setFeatures c) s

/-- GET_FEATURES returns a feature (R142). -/
def execGetFeatures (c : HostCmd) (s : State) : Host.Outcome State Fault Refusal := runLive (submit .getFeatures c) s

/-- ASYNC_EVENT_REQUEST is held, or completed with a waiting event (R659). -/
def execAsyncEventRequest (c : HostCmd) (s : State) : Host.Outcome State Fault Refusal := runLive (submit .asyncEvent c) s

/-- KEEP_ALIVE completes; the time that KEEP_ALIVE_EXPIRE names counts from it (R142, R168). -/
def execKeepAlive (c : HostCmd) (s : State) : Host.Outcome State Fault Refusal := runLive (submit .keepAlive c) s

/-- ABORT completes with DW0[0] 1 and aborts nothing (R167). -/
def execAbort (c : HostCmd) (s : State) : Host.Outcome State Fault Refusal := runLive (submit .abort c) s

/-- NAMESPACE_MANAGEMENT creates a namespace of whole squares under its domain's binding, or deletes one (R147, R448, R548). -/
def execNamespaceManagement (c : HostCmd) (s : State) : Host.Outcome State Fault Refusal := runLive (submit .nsManage c) s

/-- NAMESPACE_ATTACHMENT attaches or detaches a host NQN from the next edge (R148). -/
def execNamespaceAttachment (c : HostCmd) (s : State) : Host.Outcome State Fault Refusal := runLive (submit .nsAttach c) s

/-- FIRMWARE_IMAGE_DOWNLOAD places a block in the download buffer (R560–R562). -/
def execFirmwareImageDownload (c : HostCmd) (s : State) : Host.Outcome State Fault Refusal := runLive (submit .fwDownload c) s

/-- FIRMWARE_COMMIT_SLOT, CA 0: the buffer is written to a slot (R563, R564). -/
def execFirmwareCommitSlot (c : HostCmd) (s : State) : Host.Outcome State Fault Refusal := runLive (submit (.fwCommit 0) c) s

/-- FIRMWARE_COMMIT_SLOT_NEXT, CA 1: the buffer is written to a slot and NEXT names it (R563, R564). -/
def execFirmwareCommitSlotNext (c : HostCmd) (s : State) : Host.Outcome State Fault Refusal := runLive (submit (.fwCommit 1) c) s

/-- FIRMWARE_COMMIT_NEXT, CA 2: NEXT names the slot (R563). -/
def execFirmwareCommitNext (c : HostCmd) (s : State) : Host.Outcome State Fault Refusal := runLive (submit (.fwCommit 2) c) s

/-- FIRMWARE_COMMIT_ACTIVATE, CA 3: the slot is verified and its activation queued from the next edge (R565). -/
def execFirmwareCommitActivate (c : HostCmd) (s : State) : Host.Outcome State Fault Refusal := runLive (submit (.fwCommit 3) c) s

/-- NVME_READ: each square is served from staging, zeros or verified media data (R315–R334). -/
def execNvmeRead (c : HostCmd) (s : State) : Host.Outcome State Fault Refusal := runLive (submit .read c) s

/-- NVME_WRITE: one slot per square, a capacity reservation, then its data (R192–R194). -/
def execNvmeWrite (c : HostCmd) (s : State) : Host.Outcome State Fault Refusal := runLive (submit .write c) s

/-- NVME_COMPARE verifies each square and compares it with the host's data (R336). -/
def execNvmeCompare (c : HostCmd) (s : State) : Host.Outcome State Fault Refusal := runLive (submit .compare c) s

/-- NVME_VERIFY runs every read step and check and transfers nothing (R336). -/
def execNvmeVerify (c : HostCmd) (s : State) : Host.Outcome State Fault Refusal := runLive (submit .verify c) s

/-- WRITE_ZEROES stages KIND 1 slots for whole squares and zeros for parts (R194). -/
def execWriteZeroes (c : HostCmd) (s : State) : Host.Outcome State Fault Refusal := runLive (submit .writeZeroes c) s

/-- FLUSH completes at once (R149). -/
def execFlush (c : HostCmd) (s : State) : Host.Outcome State Fault Refusal := runLive (submit .flush c) s

/-- DATASET_MANAGEMENT: deallocation unmaps whole squares and writes zeros into parts (R150). -/
def execDatasetManagement (c : HostCmd) (s : State) : Host.Outcome State Fault Refusal := runLive (submit .dsm c) s

/-- RESERVATION_REGISTER changes a registrant (R151). -/
def execReservationRegister (c : HostCmd) (s : State) : Host.Outcome State Fault Refusal := runLive (submit .resvRegister c) s

/-- RESERVATION_REPORT returns the reservation's state (R151). -/
def execReservationReport (c : HostCmd) (s : State) : Host.Outcome State Fault Refusal := runLive (submit .resvReport c) s

/-- RESERVATION_ACQUIRE takes or preempts a reservation (R151). -/
def execReservationAcquire (c : HostCmd) (s : State) : Host.Outcome State Fault Refusal := runLive (submit .resvAcquire c) s

/-- RESERVATION_RELEASE releases or clears a reservation (R151). -/
def execReservationRelease (c : HostCmd) (s : State) : Host.Outcome State Fault Refusal := runLive (submit .resvRelease c) s

/-- COMMAND_RECORD_WAIT: the first waiting capsule that may start is accepted once a record is free (R502). -/
def execCommandRecordWait (s : State) : Host.Outcome State Fault Refusal :=
  runLive (fun d =>
    match nextCapsule d, freeRecord d with
    | some q, some n =>
      let d := { d with front.capsules := d.front.capsules.erase q }
      let d := if q.cmd.ctx < mgmtCtx ∧ !q.cmd.viaPeer then showCapsules (tget {} d.front.ctxs q.cmd.ctx).port d else d
      if isForwarded q.op q.cmd d then carry q.op q.cmd d else acceptAndRun q.op n q.cmd d
    | _, _ => d) s

/-- SLOT_ADMIT_WAIT: the first waiting write that may have its slots is given them (R193, R462). -/
def execSlotAdmitWait (s : State) : Host.Outcome State Fault Refusal :=
  runLive (fun d =>
    match d.front.waiting.find? fun n => slotsFor n d && !waitsBehind n d with
    | some n => giveSlots n d
    | none => d) s

/-- WRITE_DATA_LAND: host block `i` of a write lands after its check; with the last, the slots are STAGED (R165, R173, R191,
R194). Data lands only for a write whose data has been asked for. -/
def execWriteDataLand (rec : Fin 1048576) (i : Nat) (data : List Byte) (s : State) : Host.Outcome State Fault Refusal :=
  runLive (fun d => if (getFc rec d).fetched then landBlock rec i data d else d) s

/-! ### Activation (R566–R568) -/

/-- The engines and accelerators are idle, every accepted command but the commit is terminal, every L2 is written back
(Table 19.5). -/
def activationIdle (rec : Nat) (d : Dev) : Bool :=
  !(d.cas.cmds.any fun r => r.2.state == 1 && r.1 != rec)
    && !(d.engines.any fun e => e.2.slice.isSome || e.2.resume.isSome)
    && !(d.accels.any fun a => !a.2.preempted.isEmpty || a.2.lanes.any fun l => l.2.job.isSome)
    && !(d.l2s.any fun l => l.2.lines.any fun x => x.2.valid && x.2.dirty)

/-- Both King units restart at the new firmware's entry with their instruction L1s empty (Table 19.5). The entry is the image's own: a free
value. -/
def restartKing (d : Dev) : Dev :=
  let (e, d) := drawNat (2 ^ 64) d
  forEach [0, 1] (fun u d => { d with king.units := tmod {} d.king.units u fun k =>
    if k.quar then k else { k with core := { pc := e }, l1i := [] } }) d

/-- ACTIVATION_IDLE_DEADLINE, at P + 20 ms: the switch, or the activation is abandoned (R566, R567). -/
def execActivationIdleDeadline (s : State) : Host.Outcome State Fault Refusal :=
  runLive (fun d =>
    match d.fwu.act with
    | some a =>
      if a.phase ≠ 1 then d
      else if activationIdle a.cmdRec d then
        wr Reg.FWU_STATUS_ACTIVE a.slot <| restartKing { d with
          fwu.act := some { a with phase := 2 }
          nv.fwPrev := d.nv.fwActive
          nv.fwActive := a.slot
          engines := d.engines.map fun e => (e.1, { e.2 with l1i := [] }) }
      else completeOpen a.cmdRec 0x113 (notice Ev.FWU_ACT_ABORT 0 a.slot 0 (setb Reg.FWU_STATUS_ACT_ABORT (endActivation d)))
    | none => d) s

/-- ACTIVATION_RELEASE: the new firmware has read its handoff block, the pause of so many tenths of a millisecond ends, and the
commit completes (R568). -/
def execActivationRelease (tenthsMs : Nat) (s : State) : Host.Outcome State Fault Refusal :=
  runLive (fun d =>
    match d.fwu.act with
    | some a =>
      if a.phase ≠ 2 then d
      else
        let h := sha384 ((getFwSlot a.slot d).image.take 384)
        let d := notice Ev.FWU_ACTIVATE 0 a.slot (beNat (h.take 8)) (setb Reg.FWU_STATUS_ACTIVATED (endActivation d))
        complete a.cmdRec 0 false (bump Reg.FWU_ACT_COUNT (wr Reg.FWU_ACT_LAST tenthsMs d))
    | none => d) s

end Sys2Proof.Machine
end

