-- ==== Sys2Proof/Machine/Read.lean ====
section
/-!
DEFINITION. The commands of the read pipeline (spec/10_read_pipeline.md; spec/14_snapshots_and_replication.md, R464).
-/

namespace Sys2Proof.Machine

/-- The job of a read that stands in a state. -/
def jobIn (j st : Nat) (d : Dev) : Bool := (d.stg.reads.any fun r => r.1 == j) && (getJob j d).state == st && (getJob j d).res.isNone

/-- MEDIA_PAGE_READ_RESULT: the module has answered the read of page `i` of a job, or the command ended TIMEOUT or LINK_LOST (R326,
R327, R373, R399). -/
def execMediaPageReadResult (job i : Nat) (s : State) : Host.Outcome State Fault Refusal :=
  runLive (fun d =>
    match (getJob job d).pages[i]? with
    | none => d
    | some p => match p.rsp with
      | none => d
      | some rsp =>
        let d := countRead p.member p.block d
        let good := match rsp with
          | some r => r.status == 0 && !bitOf r.unc 0 && r.data.length == pageSize p.member d
          | none => false
        settlePages job (if good then pageGood job i p ((rsp.map (·.data)).getD []) d else pageBad job i p d)) s

/-- A job of an accelerator is lost to a read: its rerun failed too, or no lane is left. A rerun of stage 2 or 3 that fails with POISON is
the frame's fault; otherwise the square fails and nothing is marked (R332, R653). -/
def accelLost (j : Nat) (poison : Bool) (d : Dev) : Dev :=
  if poison then frameBad j (modJob j (fun r => { r with opened := false }) d)
  else endRead j 0x281 false [] (raiseC Ev.RD_ACCEL 0 (getJob j d).gid (rdData1 (getJob j d)) (dropPipes (.read j) d))

/-- The end of a read's job at an accelerator. -/
def jobEndOf (f : ReadFault) : JobEnd :=
  match f with
  | .none => .ok
  | .self => .self
  | _ => .fail

/-- Stage 3 of a frame whose tag stands, then the verdict (R330–R332). -/
def inflateStep (j : Nat) (fault : ReadFault) (d : Dev) : Dev :=
  let r := getJob j d
  let (s, i, g) := frameKey r.gid r.img
  let whole := (residentKey s i g d).any fun k => frameTagOk r.gid r.img k r.frame
  if r.img.fmt = 0 || !whole then verifyJob j (modJob j (fun r => { r with opened := false }) d)
  else if !laneServes 4 d then accelLost j false d
  else match pipeStep 4 (.read j) (jobEndOf fault) d with
    | (.waits, d) => d
    | (.failed, d) => accelLost j (fault = .poison) d
    | (.ok, d) => verifyJob j (modJob j (fun r => { r with opened := false }) d)

/-- The stages of a landed frame: its header, the cipher job, the decompression; `fault`: how the job of stage 2, or of stage 3, has
failed (R328–R332, R651, R653). -/
def verifyStep (j : Nat) (fault : ReadFault) (stage3 : Bool) (d : Dev) : Dev :=
  let r := getJob j d
  let (s, i, g) := frameKey r.gid r.img
  let d := checkSlots s i g d
  let f3 : ReadFault := if stage3 then fault else .none
  if !headerOk r.gid r.img r.frame || (residentKey s i g d).isNone then verifyJob j d
  else if r.opened then inflateStep j f3 d
  else if !laneServes 3 d then accelLost j false d
  else match pipeStep 3 (.read j) (if stage3 then .ok else jobEndOf fault) d with
    | (.waits, d) => d
    | (.failed, d) => accelLost j (fault = .poison) d
    | (.ok, d) => inflateStep j f3 (modJob j (fun r => { r with opened := true }) d)

/-- FRAME_VERIFY: a landed frame goes through the four stages (R328–R332). -/
def execFrameVerify (job : Nat) (fault : ReadFault) (stage3 : Bool) (s : State) : Host.Outcome State Fault Refusal :=
  runLive (fun d => if !jobIn job 1 d then d else verifyStep job fault stage3 d) s

/-- READ_KEY_WAIT_END: the key of a waiting read is resident, or its load fails (R308, R329). -/
def execReadKeyWaitEnd (job : Nat) (s : State) : Host.Outcome State Fault Refusal :=
  runLive (fun d =>
    if !jobIn job 2 d then d
    else
      let r := getJob job d
      let (k, i, g) := frameKey r.gid r.img
      if (residentKey k i g d).isSome then verifyStep job .none false (modJob job (fun r => { r with state := 1 }) d)
      else match findKey k i g d with
        | (.ok _, d) => d
        | (.error e, d) =>
          if (e = 3 ∨ e = 4) ∧ k = 1 then
            let (dom, d) := sptDomain i d
            if dom.valid then endRead job 0x281 false [] d else endRead job 0x286 true [] d
          else endRead job 0x281 false [] d) s

/-- The columns of a frame that its own reads have found bad: those with an unreadable page, or all after a second pass, here or
at the device that asks for a rebuild (R326, R332, R343). -/
def badColumns (r : ReadJob) (d : Dev) : List Nat :=
  let g := getSeg r.img.seg d
  let mine := (frameColumns r.img).map (·.1)
  if r.pages.any (·.state == 2) then
    mine.filter fun c => r.pages.any fun p => p.state == 2 && ((g.cols)[c]?).any fun x => x.member == p.member && x.block == p.block
  else if r.pages.isEmpty && !r.second then [] else mine

/-- REBUILD_ON_READ: under a token grant the row's other columns are read, `bad` naming those whose ladder fails, the missing ones
rebuilt, and the frame verified again (R337–R340). A remote fetch is answered with the verified frame, or UNREADABLE (R341, R343). A granule that has moved since its
lookup is looked up again, as far as restarts allow (R322, R332). -/
def execRebuildOnRead (job : Nat) (bad : List Nat) (fault : ReadFault) (s : State) : Host.Outcome State Fault Refusal :=
  runLive (fun d =>
    if !jobIn job 3 d then d
    else match if imageChanged (getJob job d) d then restartJob job (dropPipes (.read job) (endHold (.engine (rowEngine job d)) 3 d)) else none with
    | some d => d
    | none =>
      let r := getJob job d
      let g := getSeg r.img.seg d
      let bad := bad ++ badColumns r d
      let miss := (readRow g r.img.row bad d).2
      let who := TokWho.engine (rowEngine job d)
      if miss.length > 2 then unrecoverable job d
      else if !hasGrant who 3 d then
        postReq { who := who, cls := 3, cost := (columnsRead g.w ((miss[0]?).getD 255) ((miss[1]?).getD 255)).length } d
      else if !laneServes 5 d then accelLost job false d
      else match pipeStep 5 (.read job) (jobEndOf fault) d with
      | (.waits, d) => d
      | (.failed, d) => accelLost job false d
      | (.ok, d) =>
        let d := endHold who 3 d
        match recoverAt r.img.seg r.img.row bad d with
        | none => unrecoverable job d
        | some cols =>
          verifyStep job .none false (modJob job (fun r => { r with frame := frameIn r.img cols, rebuilt := true, opened := false, state := 1 }) d)) s

/-! ### Granules of another pair (R341–R343) -/

/-- FRAME_FETCH_RECEIVE: another device asks for a frame of this pair's (R341). -/
def execFrameFetchReceive (dev : Fin 8) (gid : BitVec 64) (tag : Nat) (kdom : Fin 4096) (rebuild : Bool) (s : State) :
    Host.Outcome State Fault Refusal :=
  runLive (fun d =>
    let g := gid.toNat
    let e := getGte g d
    if !gidLocal g d then d
    else if e.refcnt = 0 then send (.frameReply dev tag 1 [] e) d
    else if e.lost then send (.frameReply dev tag 2 [] e) d
    else if e.kdom ≠ kdom.val then send (.frameReply dev tag 3 [] e) d
    else
      let j := d.stg.readNext
      let r : ReadJob := { who := .remote dev tag, gid := g, img := e }
      let d := { d with stg.reads := d.stg.reads ++ [(j, r)], stg.readNext := j + 1 }
      if rebuild then modJob j (fun r => { r with state := 3, second := true }) d else locate j d) s

/-- FRAME_REPLY_RECEIVE: the frame of a foreign GID has been written, or why not (R341, R343, Table 10.3). -/
def execFrameReplyReceive (tag : Nat) (result : Nat) (frame : List Byte) (gte : Gte) (s : State) : Host.Outcome State Fault Refusal :=
  runLive (fun d =>
    if !jobIn tag 4 d then d
    else
      let r := getJob tag d
      match result with
      | 0 => modJob tag (fun r => { r with frame := frame, img := gte, state := 1 }) d
      | 1 => goRepair tag (raiseC Ev.RD_DEAD_REF 0 r.gid (rdData1 r) (modJob tag (fun r => { r with img := gte }) d))
      | 3 => endRead tag 0x281 true [] (raiseC Ev.RD_DOMAIN 0 r.gid (rdData1 r) d)
      | _ => goRepair tag (modJob tag (fun r => { r with img := gte }) d)) s

/-- FRAME_FETCH_TIMEOUT: no FRAME_REPLY within 5 ms, or the transport reports the fetch failed. It goes once to the other head of that
pair (R342). -/
def execFrameFetchTimeout (tag : Nat) (failed : Bool) (s : State) : Host.Outcome State Fault Refusal :=
  runLive (fun d =>
    let r := getJob tag d
    if !jobIn tag 4 d || !(failed || r.due ≤ tempoNow d) then d
    else if r.toOther then endRead tag 0x281 false [] d
    else send (.frameFetch (gidDev r.gid ^^^ 1) r.gid tag (getNs r.nsid d).domain r.askedRebuild)
      (modJob tag (fun r => { r with toOther := true, due := fetchDue d }) d)) s

/-! ### Repair from a replica (R344–R346, R464) -/

/-- REPAIR_REQ: the other end of a relationship asks for a square by fingerprint bits, or by the square of the replica namespace; it is
read through this end's own pipeline (R464). -/
def execRepairReq (rel : Fin 4096) (tag : Nat) (fph : Option Nat) (square : Nat) (s : State) : Host.Outcome State Fault Refusal :=
  runLive (fun d => if !replOn d then d else
    let x := getRel rel d
    let ns := servedNs x.nsid d
    let answer (result : Nat) (pay : Bytes) (d : Dev) : Dev := sendRepl x.peer (.repairAns tag result 0 pay) d
    if x.state = 0 then d
    else match fph with
      | some h =>
        let hit := d.fiu.buckets.findSome? fun b => b.2.findSome? fun e =>
          if entryValid e.2 && beNat (e.2.take 20) == h && entryKdom e.2 == ns.domain then some (entryGid e.2) else none
        match hit with
        | some g => startGranule (.answer rel tag) x.nsid square g 0 d
        | none => answer 1 [] d
      | none =>
        let g := mapGet ns.root ns.depth square d
        if g = 0 then answer 1 [] d
        else if g = gidOnes then answer 0 (List.replicate 8192 0) d
        else startGranule (.answer rel tag) x.nsid square g 0 d) s

/-- REPAIR_ANS: a returned square is accepted, served and staged, or the square fails (R345, R346). While the square has a newer copy in
staging nothing is staged; while no slot is free the answer waits. -/
def execRepairAns (tag : Nat) (result fmt : Nat) (payload : List Byte) (s : State) : Host.Outcome State Fault Refusal :=
  runLive (fun d => if !replOn d then d else
    if !jobIn tag 5 d then d
    else
      let r := getJob tag d
      match if result = 0 then payloadPlain fmt payload else none with
      | none => endRead tag 0x281 true [] d
      | some p =>
        let h := sha256 p
        if beNat (h.take 4) ≠ r.img.fptag ∨ r.want.any (· != beNat (h.take 20)) ∨ crc64 p ≠ r.img.crc then endRead tag 0x281 true [] d
        else
          let ok (d : Dev) : Dev := endRead tag 0 false p (notice Ev.RD_REPAIR 0 r.gid (rdData1 r) d)
          if (newestSlot r.nsid r.square d.stg.slots).isSome then ok d
          else match stageInternal r.nsid r.square p none d with
            | some d => ok d
            | none => d) s

/-- REPAIR_TIMEOUT: no answer within REPAIR_TMO ms (R346, R464). -/
def execRepairTimeout (tag : Nat) (s : State) : Host.Outcome State Fault Refusal :=
  runLive (fun d => if jobIn tag 5 d && (getJob tag d).due ≤ tempoNow d then endRead tag 0x281 true [] d else d) s

end Sys2Proof.Machine
end

