-- ==== Sys2Proof/Machine/Score.lean ====
section
/-!
DEFINITION. The commands of the fault collector and the Scoresheet recorder (spec/20_scoresheet_and_faults.md).
-/

namespace Sys2Proof.Machine

/-- CHECK_ESCALATE: an entry still open at RAISED + ESCALATE becomes a Double check (R574). The pause of an activation holds the timer
(R566). -/
def execCheckEscalate (k : Fin 64) (s : State) : Host.Outcome State Fault Refusal :=
  runLive (fun d =>
    let (lim, d) := escalateLimit d
    let due := rd (Reg.FLT_CHK_T_RAISED k) d + lim + tget 0 d.flt.escHold k
    if rdb (Reg.FLT_CHK_OPEN k) d && !activationPaused d && tempoNow d ≥ due then escalateChk k d else d) s

/-- CHECK_ENTRY_CLEAR: writing 1 to OPEN closes the entry, unless hardware sets it in the same cycle: then it stays open
and RECUR rises (R574, R577). -/
def execCheckEntryClear (k : Fin 64) (collide : Bool) (s : State) : Host.Outcome State Fault Refusal :=
  runLive (fun d =>
    if rdb (Reg.FLT_CHK_OPEN k) d then
      if collide then
        let (x, y, d) := openData (rd (Reg.FLT_CHK_CODE k) d) d
        recordEvent .check (rd (Reg.FLT_CHK_CODE k) d) (rd (Reg.FLT_CHK_UNIT k) d) x y false
          (bumpSat (Reg.FLT_CHK_RECUR k) 1 (bump Reg.FLT_CNT_CHECKS d))
      else
        let d := closeChk k d
        if fltLevel d && intrHost 4 d then msixSend 4 d else d
    else d) s

/-- DCHECK_ENTRY_CLEAR: only the management endpoint closes a Double check entry; the unit stays quarantined (R579). In a
Checkmate a write to FLT_DCHKj is still served (Table 20.4). -/
def execDcheckEntryClear (j : Fin 32) (mgmt : Bool) (s : State) : Host.Outcome State Fault Refusal :=
  run (fun d =>
    if d.pwr.good && !d.pwr.adj3 && mgmt && rdb (Reg.FLT_DCHK_OPEN j) d then
      let code := rd (Reg.FLT_DCHK_CODE j) d
      let d := clr (Reg.FLT_DCHK_OPEN j) d
      let d := wr Reg.FLT_STATUS_DCHK_OPEN (rd Reg.FLT_STATUS_DCHK_OPEN d - 1) d
      -- both heads report Persistent Loss until the management host clears PAIR_WRONG (Table 16.3)
      let d := if code = Ev.PAIR_WRONG then { d with cas.persistentLoss := 0, cas.lossNext := 0 } else d
      if fltLevel d && intrHost 4 d then msixSend 4 d else d
    else d) s

/-- Program the record at the head of the queue into the next persistent slot, erasing a sector at its first slot; a
failure raises SCR_LEDGER_FAIL and goes on in the next sector (R586, R587). -/
def programLedger (eraseOk programOk : Bool) (d : Dev) : Dev :=
  match d.scr.pqueue with
  | [] => d
  | r :: rest =>
    let slot := rd Reg.SCR_PTR_PIDX d
    let newSector := slot % 64 = 0
    let nextSector := (slot / 64 + 1) * 64 % 524288
    let fail (d : Dev) : Dev :=
      setb Reg.SCR_STATUS_PFAIL (raiseC Ev.SCR_LEDGER_FAIL 0 0 0 (wr Reg.SCR_PTR_PIDX nextSector d))
    let erased (d : Dev) : Dev :=
      if newSector then
        { d with nv.scrLedger := d.nv.scrLedger.filter fun p => p.1 / 64 != slot / 64 } else d
    if newSector && !eraseOk then fail d
    else if !programOk then fail (erased d)
    else
      let d := erased { d with scr.pqueue := rest }
      let d := { d with nv.scrLedger := tset {} d.nv.scrLedger slot r }
      wr Reg.SCR_PTR_PIDX ((slot + 1) % 524288) d

/-- LEDGER_RECORD_PROGRAM: a queued persistent record is programmed (R586, R587). It completes in a Checkmate (R581). -/
def execLedgerRecordProgram (eraseOk programOk : Bool) (s : State) : Host.Outcome State Fault Refusal :=
  run (fun d => if d.pwr.good && !d.pwr.adj3 then programLedger eraseOk programOk d else d) s

/-- SCR_FREEZE: recording stops and events go to the holding queue (R589). -/
def execScrFreeze (s : State) : Host.Outcome State Fault Refusal :=
  runLive (fun d =>
    if rdb Reg.SCR_STATUS_FROZEN d then d
    else setb Reg.SCR_STATUS_FROZEN (setb Reg.SCR_CTRL_FREEZE { d with scr.frozeAt := tempoNow d })) s

/-- SCR_UNFREEZE: writing FREEZE 0 ends the freeze and writes the holding queue out in order (R589). -/
def execScrUnfreeze (s : State) : Host.Outcome State Fault Refusal :=
  runLive (fun d => if rdb Reg.SCR_STATUS_FROZEN d then endFreeze d else d) s

/-- SCR_FREEZE_TIMEOUT: a freeze that has lasted FREEZE_MAX × 1,000 tempi ends and sets FROZE_OUT (R589). -/
def execScrFreezeTimeout (s : State) : Host.Outcome State Fault Refusal :=
  runLive (fun d =>
    if rdb Reg.SCR_STATUS_FROZEN d && tempoNow d ≥ d.scr.frozeAt + rd Reg.SCR_CTRL_FREEZE_MAX d * 1000 then
      setb Reg.SCR_STATUS_FROZE_OUT (endFreeze d)
    else d) s

/-- The eight words of a Scoresheet record (Table 20.5). -/
def recordBytes (r : ScoreRecord) : Bytes :=
  let cls := match r.cls with | .notice => 0 | .check => 1 | .dcheck => 2 | .checkmate => 3
  let flags := b2n r.escalated + 2 * b2n r.persist + 4 * b2n r.held
  leBytes 8 r.seq ++ leBytes 8 r.tempo ++ leBytes 8 r.sec ++ leBytes 4 r.ns ++ leBytes 2 r.code ++ leBytes 1 cls
    ++ leBytes 1 flags ++ leBytes 2 r.unit ++ leBytes 2 r.suppressed ++ leBytes 2 r.lost ++ leBytes 1 r.state ++ [0]
    ++ leBytes 8 r.data0 ++ leBytes 8 r.data1 ++ leBytes 4 r.boot ++ [0, 0, 0] ++ [if r.valid then 0x5A else 0]

/-- The number of units of a window source (R590). -/
def windowSize (source : Nat) : Nat :=
  if source = 0 then 16384 else if source = 1 then 524288 else 16384 * 16

/-- The 64 bytes of a unit (R590). An erased slot of either flash reads all-ones. -/
def windowUnit (source cursor : Nat) (d : Dev) : Bytes :=
  if source = 0 then recordBytes (tget {} d.scr.ring cursor)
  else if source = 1 then
    match d.nv.scrLedger.find? fun p => p.1 == cursor with
    | some p => recordBytes p.2
    | none => List.replicate 64 0xFF
  else ((tget (List.replicate 1024 0xFF) d.nv.bootSlots (cursor / 16)).drop (cursor % 16 * 64)).take 64

/-- Copy one unit into the window in a single cycle (R590). -/
def loadWindow (d : Dev) : Dev :=
  let b := windowUnit (rd Reg.SCR_WIN_SEL_SOURCE d) (rd Reg.SCR_WIN_SEL_CURSOR d) d
  forEach (List.range 8) (fun w d => wr (Reg.SCR_WIN_W_WORD w) (leNat ((b.drop (8 * w)).take 8)) d) d

/-- SCR_WINDOW_SELECT: a write of SCR_WIN_SEL; a reserved source or a cursor beyond the source leaves its field (R10, R590).
The SCR block's reads are served in a Checkmate, its writes are not (Table 20.4). -/
def execScrWindowSelect (source : Fin 4) (cursor : BitVec 20) (s : State) : Host.Outcome State Fault Refusal :=
  runLive (fun d =>
    let d := if source.val < 3 then wr Reg.SCR_WIN_SEL_SOURCE source d else d
    let d := if cursor.toNat < windowSize (rd Reg.SCR_WIN_SEL_SOURCE d) then wr Reg.SCR_WIN_SEL_CURSOR cursor.toNat d else d
    loadWindow d) s

/-- SCR_WINDOW_NEXT: CURSOR advances by 1, modulo the source's size, and the window loads (R590). -/
def execScrWindowNext (s : State) : Host.Outcome State Fault Refusal :=
  runLive (fun d =>
    let n := windowSize (rd Reg.SCR_WIN_SEL_SOURCE d)
    loadWindow (wr Reg.SCR_WIN_SEL_CURSOR ((rd Reg.SCR_WIN_SEL_CURSOR d + 1) % n) d)) s

/-- FLT_INJ_ARM: the injection that FLT_INJ names waits for the next write or transfer of its target (R591). TARGET 0 names
nothing: there is nothing to act on. -/
def execFltInjArm (s : State) : Host.Outcome State Fault Refusal :=
  runLive (fun d =>
    let t := rd Reg.FLT_INJ_TARGET d
    let i := rd Reg.FLT_INJ_INDEX d
    let d := setb Reg.FLT_INJ_ARM { d with flt.inj := some ⟨t, i, rd Reg.FLT_INJ_MASK d⟩ }
    if t = 2 then { d with king.injUnit := some (i % 2) } else d) s

end Sys2Proof.Machine
end

