-- ==== Sys2Proof/Machine/Snap.lean ====
section
/-!
DEFINITION. The commands of snapshots, clones and replication (spec/14_snapshots_and_replication.md).
-/

namespace Sys2Proof.Machine

/-! ### The mailbox (R441–R448, Table 14.6) -/

/-- A command of replication: nothing while replication is disabled on this head (R20). -/
def runRepl (f : Dev → Dev) (s : State) : Host.Outcome State Fault Refusal := runLive (fun d => if replOn d then f d else d) s

/-- Run a mailbox request: GO is written with an ACT and an SSEQ argument. -/
def mailbox (act : Nat) (sseq : BitVec 32) (f : Dev → Dev) (s : State) : Host.Outcome State Fault Refusal :=
  runLive (fun d => match mailStart act sseq.toNat d with
    | some d => f d
    | none => d) s

/-- The namespaces that a create names. -/
def createList (d : Dev) : List Nat :=
  let n := rd Reg.NVF_SNAP_LIST_COUNT d
  if n = 0 then [rd Reg.NVF_SNAP_ARG_NSID d]
  else ((List.range n).map fun i => memNat d (rd Reg.NVF_SNAP_LIST_ADDR d + 4 * i) 4).eraseDups

/-- SNAP_CREATE: the cut of 1 to 64 namespaces of one head is staged for the next edge (R440, R441). -/
def execSnapCreate (sseq : BitVec 32) (s : State) : Host.Outcome State Fault Refusal :=
  mailbox 0 sseq (fun d =>
    let ns := createList d
    let mine := ns.filter fun n => ownsNs n d
    if rd Reg.NVF_SNAP_LIST_COUNT d > 64 then mailEnd 8 0 d
    else if ns.any fun n => !(getNs n d).exists_ then mailEnd 3 0 d
    else if mine.isEmpty then mailEnd 4 0 d
    else if mine.length < ns.length then mailEnd 5 0 d
    else if (counted d).length + ns.length > 262144 || ns.any (fun n => ((counted d).filter (·.nsid == n)).length ≥ 1023) then mailEnd 2 0 d
    else stageCut ns .host d) s

/-- SNAPSHOT_CUT_COMMIT: a cut whose older slots are COMMITTED gets its transaction (R442). -/
def execSnapshotCutCommit (s : State) : Host.Outcome State Fault Refusal :=
  runLive (fun d => match d.stg.cuts.find? fun c => cutReady c d with
    | some c => if metaStalled d then d else commitCut c d
    | none => d) s

/-- The snapshot that a request names, or the RESULT that refuses it: NOT_FOUND, WRONG_HEAD. -/
def mailSnap (sseq : Nat) (d : Dev) : Except Nat Snap :=
  let n := rd Reg.NVF_SNAP_ARG_NSID d
  let x := getSnap n sseq d
  if !x.exists_ || x.deleting || x.audit || sseq = 0 then .error 3
  else if !ownsNs n d then .error 4
  else .ok x

/-- SNAP_DELETE: DELETING from the next edge, or HELD (R448). -/
def execSnapDelete (sseq : BitVec 32) (s : State) : Host.Outcome State Fault Refusal :=
  mailbox 1 sseq (fun d =>
    match mailSnap sseq.toNat d with
    | .error e => mailEnd e 0 d
    | .ok x => if x.repl then mailEnd 6 0 d else { d with stg.deletes := d.stg.deletes ++ [(x.nsid, x.sseq)] }) s

/-- DELETE_WALK: one transaction of a deleted root's walk (R449, R450). -/
def execDeleteWalk (s : State) : Host.Outcome State Fault Refusal :=
  runLive (fun d => match walkable d with
    | some x => if metaStalled d then d else walkOnce x d
    | none => d) s

/-- SNAP_CLONE: a namespace whose live root begins as a snapshot's root (R443). -/
def execSnapClone (sseq : BitVec 32) (s : State) : Host.Outcome State Fault Refusal :=
  mailbox 2 sseq (fun d =>
    match mailSnap sseq.toNat d with
    | .error e => mailEnd e 0 d
    | .ok x =>
      let o := getNs x.nsid d
      let want := rd Reg.NVF_SNAP_ARG_NSID2 d
      let (dom, d) := sptDomain o.domain d
      if (d.md.ns.filter fun n => n.2.exists_).length ≥ 65535 then mailEnd 2 0 d
      else match d.sxc.spt with
        | none => mailEnd 7 0 d
        | some t =>
          let free (n : Nat) : Bool := !(getNs n d).exists_ && !(getSnap n 0 d).exists_
          let pend := tget 0 t.pendingBinds want
          let pick := if want = 0 then pickNsid o.domain dom.opn t d
            else if want ≤ 65535 && free want && (pend == o.domain + 1 || (dom.opn && pend == 0)) then some want else none
          match pick with
          | none => mailEnd 7 0 d
          | some n =>
            let d := modSpt (fun t => { t with
              bindings := tset 0 t.bindings n (o.domain + 1), pendingBinds := tset 0 t.pendingBinds n 0 }) d
            let d := modNs n (fun _ => { o with hosts := [], resv := {}, root := 0, pred := (0, 0), unread := [] }) d
            mailEnd 1 n (postRecord n (.squares [{ action := 5, snap := some {
              nsid := n, sseq := 0, pred := (x.nsid, x.sseq), cutTempo := tempoNow d } }]) d)) s

/-- A snapshot descriptor (Table 14.1). -/
def snapBytes (x : Snap) : Bytes :=
  leBytes 4 x.nsid ++ leBytes 4 x.sseq ++ leBytes 8 x.root ++ leBytes 8 x.cutTempo ++ leBytes 8 x.wmA ++ leBytes 8 x.wmB
    ++ leBytes 4 x.pred.1 ++ leBytes 4 x.pred.2 ++ leBytes 8 x.xtag ++ leBytes 1 x.depth
    ++ leBytes 1 (b2n x.retained + 2 * b2n x.deleting + 4 * b2n x.audit + 8 * b2n x.repl) ++ leBytes 2 x.nsucc ++ leBytes 4 0

/-- SNAP_LIST: descriptors of a namespace from an SSEQ on are written to DRAM, in order of SSEQ (Table 14.6). -/
def execSnapList (sseq : BitVec 32) (s : State) : Host.Outcome State Fault Refusal :=
  mailbox 3 sseq (fun d =>
    let n := rd Reg.NVF_SNAP_ARG_NSID d
    if !(getNs n d).exists_ then mailEnd 3 0 d
    else if !ownsNs n d then mailEnd 4 0 d
    else
      let l := ((snapsOf n d).filter fun x => !x.deleting && !x.audit && sseq.toNat ≤ x.sseq && x.sseq != 0).take (rd Reg.NVF_SNAP_LIST_COUNT d)
      mailEnd 1 l.length (storeMem (rd Reg.NVF_SNAP_LIST_ADDR d) (l.flatMap snapBytes) d)) s

/-- REL_BIND: a relationship of which this end is the source; REL_OPEN goes to the peer (R20, R456). -/
def execRelBind (sseq : BitVec 32) (s : State) : Host.Outcome State Fault Refusal :=
  mailbox 4 sseq (fun d =>
    let k := rd Reg.NVF_REP_SEL_REL d
    let n := rd Reg.NVF_SNAP_ARG_NSID d
    let p := rd Reg.NVF_REP_SEL_PEER d
    let ns := getNs n d
    let (e, d) := sptPeer p d
    if !ns.exists_ then mailEnd 3 0 d
    else if !ownsNs n d then mailEnd 4 0 d
    else if !replOn d || (getRel k d).state ≠ 0 || e.isNone || rd Reg.NVF_REP_SEL_MODE d > 1 then mailEnd 8 0 d
    else
      let r := rd Reg.NVF_SNAP_ARG_NSID2 d
      let d := modRel k (fun x => { x with
        state := 1, target := false, streaming := rd Reg.NVF_REP_SEL_MODE d == 1, peer := p, nsid := n, remote := r }) d
      mailEnd 1 0 (showRel (sendRepl p (.relOpen k r ns.size ns.lbaf ns.pi) d))) s

/-- REL_PROMOTE: the target becomes writable from its newest matched snapshot (R465). -/
def execRelPromote (sseq : BitVec 32) (s : State) : Host.Outcome State Fault Refusal :=
  mailbox 5 sseq (fun d =>
    let k := rd Reg.NVF_REP_SEL_REL d
    let x := getRel k d
    if x.state = 0 then mailEnd 3 0 d
    else if !ownsNs x.nsid d then mailEnd 4 0 d
    else if !x.target || x.state = 4 || (getSnap x.nsid 0 d).exists_ then mailEnd 8 0 d
    else match xtagSnap x.nsid d with
      | none => mailEnd 3 0 d
      | some q =>
        let d := rollTo x.nsid q.sseq (abandonIn k d)
        mailEnd 1 q.sseq (showRel (modRel k (fun x => { x with state := 4 }) d))) s

/-- REL_RESYNC: this end becomes the target; its live root is cut and kept, then rolled back to the common base (R466). -/
def execRelResync (sseq : BitVec 32) (s : State) : Host.Outcome State Fault Refusal :=
  mailbox 6 sseq (fun d =>
    let k := rd Reg.NVF_REP_SEL_REL d
    let x := getRel k d
    if x.state = 0 then mailEnd 3 0 d
    else if !ownsNs x.nsid d then mailEnd 4 0 d
    else if !replOn d || (getSnap x.nsid 0 d).exists_ then mailEnd 8 0 d
    else stageCut [x.nsid] (.rollback k) (abandonIn k d)) s

/-- REL_UNBIND: the relationship goes; what it held is released (R456). -/
def execRelUnbind (sseq : BitVec 32) (s : State) : Host.Outcome State Fault Refusal :=
  mailbox 7 sseq (fun d =>
    let k := rd Reg.NVF_REP_SEL_REL d
    let x := getRel k d
    if x.state = 0 then mailEnd 3 0 d
    else if !ownsNs x.nsid d then mailEnd 4 0 d
    else
      let d := abandonIn k (suspendRel k d)
      let held := (d.md.snaps.filter fun q => q.2.exists_ && q.2.repl && q.2.nsid == x.nsid
        && (q.2.sseq == x.base || (x.cycle.any fun c => c.sseq == q.2.sseq))).map fun q => q.2.sseq
      let d := forEach held (fun q d => modSnap x.nsid q (fun y => { y with repl := false }) d) d
      mailEnd 1 0 (showRel { d with md.rels := tdel k d.md.rels })) s

/-! ### Sessions and packets (R452–R455) -/

/-- An address stands in an admitted entry: four IPv6 addresses of 16 bytes. -/
def addrOf (e : SptPeer) (a : Bytes) : Bool :=
  a.length == 16 && (List.range 4).any fun i => ((e.addrs.drop (16 * i)).take 16) == a

/-- A packet's session cannot be used, or its tag fails. -/
def packetBad (f : Field) (d : Dev) : Dev := notice Ev.REP_TAG 0 0 0 (setb Reg.NVF_REP_STATUS_TAG_N (bump f d))

/-- What may travel in session 0: a SEND of SESSION_OPEN or SESSION_ACK, and the transport's ACK and NAK (R455, R473, Table 15.1). -/
def sessionControl (body : Bytes) : Bool :=
  let type := body[3]?
  type == some 8 || type == some 9 || (type == some 1 && (body[48]? == some 1 || body[48]? == some 2))

/-- REPLICATION_PACKET_RECEIVE: a packet from an address; its CDT packet is passed on when its tag stands (R169, R452, R454, R455). -/
def execReplicationPacketReceive (port : Fin 32) (peer : Fin 64) (addr hdr body : List Byte) (lensOk : Bool) (s : State) :
    Host.Outcome State Fault Refusal :=
  runRepl (fun d =>
    let (e, d) := sptPeer peer d
    let hdr := padTo 24 hdr
    let n := beNat (sub hdr 4 4)
    if !lensOk || beNat (sub hdr 20 2) ≠ body.length then bump (Reg.ETH_DROP_LEN port) d
    else if !(e.any fun e => addrOf e addr) || beNat (sub hdr 0 2) ≠ 0x5250 || beNat (sub hdr 2 1) ≠ 1 then d
    else if n = 0 then (if sessionControl body then send (.replPacket peer body) d else d)
    else
      let x := getPeer peer d
      let key := match x.rx with
        | some q => if q.num = n then some q.key else none
        | none => none
      let old := match x.rxOld with
        | some (q, t) => if q.num = n ∧ d.tmp.sec ≤ t then some q.key else none
        | none => none
      match key.or old with
      | none => packetBad Reg.NVF_REP_PKT_NO_SESSION d
      | some k =>
        let ct := body.take (body.length - 16)
        if body.length < 16 ∨ gcmTag k (sub hdr 8 12) hdr ct ≠ body.drop (body.length - 16) then packetBad Reg.NVF_REP_PKT_TAG_FAIL d
        else send (.replPacket peer (gcmData k (sub hdr 8 12) ct)) d) s

/-- SESSION_OPEN: this end installs the sender's key and answers; the old session is accepted for 10 s more (R453). -/
def execSessionOpen (peer : Fin 64) (session : BitVec 32) (blob : List Byte) (s : State) : Host.Outcome State Fault Refusal :=
  runRepl (fun d =>
    let (e, d) := sptPeer peer d
    match e with
    | none => d
    | some e =>
      let (k, d) := useKey 3 e.keyIndex 0 d
      let key := match k with
        | .ok kek => kwpUnwrap kek blob
        | .error _ => none
      match key with
      | none => send (.repl peer 0 (.sessionAck session.toNat 1)) d
      | some k =>
        let d := modPeer peer (fun x => { x with
          rx := some { num := session.toNat, key := k, since := d.tmp.sec }
          rxOld := x.rx.map fun q => (q, d.tmp.sec + 10) }) d
        send (.repl peer 0 (.sessionAck session.toNat 0)) d) s

/-- SESSION_ACK: the sender goes over to the new session; a refusal suspends the peer's relationships (R453, Table 14.5). -/
def execSessionAck (peer : Fin 64) (session : BitVec 32) (result : Nat) (s : State) : Host.Outcome State Fault Refusal :=
  runRepl (fun d =>
    match (getPeer peer d).txNew with
    | some q =>
      if q.num ≠ session.toNat then d
      else if result = 0 then flushQueue peer (modPeer peer (fun x => { x with tx := some q, txNew := none }) d)
      else
        let d := modPeer peer (fun x => { x with txNew := none }) { d with repl.queue := d.repl.queue.filter fun q => q.1 != peer.val }
        if (getPeer peer d).tx.isSome then d
        else forEach ((d.md.rels.filter fun r => r.2.peer == peer.val).map (·.1)) suspendRel d
    | none => d) s

/-- SESSION_RENEW: after 2^31 packets or 3,600 s the sender opens a new session (R453). -/
def execSessionRenew (peer : Fin 64) (s : State) : Host.Outcome State Fault Refusal :=
  runRepl (fun d =>
    let x := getPeer peer d
    match x.tx with
    | some q => if x.txNew.isNone && (q.packets ≥ 2 ^ 31 || d.tmp.sec ≥ q.since + 3600) then openSession peer d else d
    | none => d) s

/-! ### Relationships (R456) -/

/-- REL_OPEN: the target accepts a relationship, creates the namespace when asked to, or refuses (R456, Table 14.4). -/
def execRelOpen (peer : Fin 64) (rel : Fin 4096) (remote : BitVec 32) (size lbaf pi : Nat) (s : State) : Host.Outcome State Fault Refusal :=
  runRepl (fun d =>
    let answer (n result : Nat) (d : Dev) : Dev := sendRepl peer (.relReply rel n result) d
    let (e, d) := sptPeer peer d
    match e with
    | none => d
    | some e =>
      let accept (n : Nat) (d : Dev) : Dev :=
        showRel (answer n 0 (modRel rel (fun x => { x with state := 1, target := true, opened := true, peer := peer, nsid := n }) d))
      if (getRel rel d).state ≠ 0 then answer remote.toNat 1 d
      else if remote = 0 then
        let group := ((List.range 128).map (· + 1)).find? fun g => ownsGroup g d
        let pool := (d.md.pools.find? fun p => p.2.exists_).map (·.1)
        match group, pool with
        | some g, some p =>
          match createNs { blocks := size * blocksPerSquare lbaf, lbaf := lbaf, pi := pi, pool := p, domain := e.localDomain, group := g } d with
          | (0, n, d) => accept n d
          | (_, _, d) => answer 0 1 d
        | _, _ => answer 0 1 d
      else
        let ns := getNs remote.toNat d
        if !ns.exists_ || !ownsNs remote.toNat d || isTarget remote.toNat d then answer remote.toNat 1 d
        else if ns.size ≠ size ∨ ns.lbaf ≠ lbaf ∨ ns.pi ≠ pi ∨ ns.domain ≠ e.localDomain then answer remote.toNat 2 d
        else accept remote.toNat d) s

/-- REL_REPLY: the target's answer (R456). -/
def execRelReply (rel : Fin 4096) (remote : BitVec 32) (result : Nat) (s : State) : Host.Outcome State Fault Refusal :=
  runRepl (fun d =>
    let x := getRel rel d
    if x.state = 0 || x.target || x.opened then d
    else if result = 0 then showRel (modRel rel (fun x => { x with remote := remote.toNat, opened := true }) d)
    else showRel { d with md.rels := tdel rel d.md.rels }) s

/-- REL_SUSPENDED_RETRY: every 1,000 tempi each suspended source tries again: a session, then its cycle from the same snapshot or a new
one (R456, R458, R463, Table 14.5). -/
def execRelSuspendedRetry (s : State) : Host.Outcome State Fault Refusal :=
  runRepl (fun d =>
    if tempoNow d % 1000 ≠ 0 then d
    else forEach ((d.md.rels.filter fun r => r.2.state == 3 && ownsNs r.2.nsid d).map (·.1)) (fun k d =>
      let x := getRel k d
      if (getPeer x.peer d).tx.isNone then (if (getPeer x.peer d).txNew.isSome then d else openSession x.peer d)
      else
        let d := showRel (modRel k (fun x => { x with state := if x.base = 0 || x.streaming then 1 else 2 }) d)
        if x.target || !x.opened then d
        else match x.cycle with
          | some c => if c.phase = 0 then d else compareCycle k (sendRepl x.peer (.deltaBegin k c.sseq x.base) d)
          | none =>
            if x.streaming then stageCut [x.nsid] (.cycle k) (modRel k (fun x => { x with cycle := some { sseq := d.md.sseqNext } }) d)
            else d) d) s

/-! ### Periodic cycles (R457, R458) -/

/-- REPL_CYCLE_START: every INTERVAL seconds the source cuts a snapshot for a cycle; the first cycle starts at once (R458). -/
def execReplCycleStart (rel : Fin 4096) (s : State) : Host.Outcome State Fault Refusal :=
  runRepl (fun d =>
    let x := getRel rel d
    if x.target || !x.opened || !(x.state == 1 || x.state == 2) || x.cycle.isSome || !ownsNs x.nsid d
        || (x.streaming && x.state == 2) || (x.base != 0 && !x.streaming && d.tmp.sec < x.lastStart + x.interval) then d
    else
      stageCut [x.nsid] (.cycle rel) (modRel rel (fun x => { x with
        cycle := some { sseq := d.md.sseqNext }, lastStart := d.tmp.sec }) d)) s

/-- DELTA_BEGIN: the target begins a cycle (R458). -/
def execDeltaBegin (rel : Fin 4096) (sseq _base : BitVec 32) (s : State) : Host.Outcome State Fault Refusal :=
  runRepl (fun d =>
    let x := getRel rel d
    if !x.target || x.state = 0 || x.state = 4 then d
    else modRel rel (fun x => { x with inSseq := sseq.toNat }) (abandonIn rel d)) s

/-- Take the squares of a batch and probe those that carry data. -/
def takeBatch (b : InBatch) (d : Dev) : Dev :=
  let d := { d with repl.inb := d.repl.inb ++ [b] }
  let data := (List.range b.items.length).filter fun i => (b.items[i]?).any fun x => x.dec == 0
  settleBatch b.rel b.num { d with fiu.probes := d.fiu.probes ++ data.map fun i => .offer b.rel b.num i }

/-- The squares of a message as they are decided at first. -/
def inItems (l : List Offer) : List InItem := l.map fun o => { offer := o, dec := if o.kind = 0 then 0 else 6 }

/-- FP_OFFER: the target probes the offered squares (R457). -/
def execFpOffer (rel : Fin 4096) (batch : BitVec 32) (l : List Offer) (s : State) : Host.Outcome State Fault Refusal :=
  runRepl (fun d =>
    let x := getRel rel d
    if !x.target || x.state = 0 || x.state = 4 || (getIn rel batch.toNat d).isSome then d
    else takeBatch { rel := rel, num := batch.toNat, items := inItems l } d) s

/-- FP_NEED: the source reads and sends the GRANULEs asked for (R458, R459). -/
def execFpNeed (rel : Fin 4096) (batch bitmap : BitVec 32) (s : State) : Host.Outcome State Fault Refusal :=
  runRepl (fun d =>
    let x := getRel rel d
    let b := batch.toNat
    let want := those 32 fun i => bitOf bitmap.toNat i
    match x.cycle with
    | some c =>
      if c.phase = 2 ∧ c.batches.contains b then
        let items := want.filterMap fun i => (c.items[32 * b + i]?).map fun q => (32 * b + i, q)
        let d := modRel rel (fun x => { x with cycle := some { c with batches := c.batches.filter (· != b), granules := c.granules + items.length } }) d
        checkCycle rel (items.foldl (fun d q => startGranule (.repl rel 0 q.1 true) x.nsid q.2.1.square q.2.2 0 d) d)
      else d
    | none =>
      match x.unacked.find? fun u => u.sent && u.tsn % 2 ^ 32 == b with
      | some u =>
        let items := want.filterMap fun i => (u.items[i]?).map fun q => (i, q)
        items.foldl (fun d q => startGranule (.repl rel (2 ^ 40 + u.tsn) q.1 true) x.nsid q.2.1.square q.2.2 0 d) d
      | none => d) s

/-- GRANULE: a square that the target asked for; staged once its fingerprint is the offered one (R457). A mismatch abandons the cycle. -/
def execGranule (rel : Fin 4096) (square : Nat) (fmt : Nat) (payload : List Byte) (s : State) : Host.Outcome State Fault Refusal :=
  runRepl (fun d =>
    let x := getRel rel d
    match d.repl.inb.find? fun b => b.rel == rel.val && b.items.any fun i => i.dec == 3 && i.offer.square == square with
    | none => d
    | some b =>
      let i := (b.items.findIdx? fun i => i.dec == 3 && i.offer.square == square).getD 0
      let fp := ((b.items[i]?).map (·.offer.fp)).getD []
      match payloadPlain fmt payload with
      | some p =>
        if sha256 p = fp then
          match stageInternal x.nsid square p (if b.stream then some (rel * 2 ^ 32 + b.num) else none) d with
          | none => d
          | some d =>
            if b.stream then modItem rel b.num i (fun x => { x with dec := 4 }) d
            else
              let rest := b.items.eraseIdx i
              if rest.isEmpty then dropIn rel b.num d else modIn rel b.num (fun b => { b with items := rest }) d
        else
          let d := raiseC Ev.REP_FP 0 0 (x.nsid * 2 ^ 32 + square % 2 ^ 32) (setb Reg.NVF_REP_STATUS_FP_CHK d)
          if b.stream then suspendRel rel (abandonIn rel d)
          else sendRepl x.peer (.deltaDone rel x.inSseq 0 1) (abandonIn rel d)
      | none =>
        let d := raiseC Ev.REP_FP 0 0 (x.nsid * 2 ^ 32 + square % 2 ^ 32) (setb Reg.NVF_REP_STATUS_FP_CHK d)
        if b.stream then suspendRel rel (abandonIn rel d)
        else sendRepl x.peer (.deltaDone rel x.inSseq 0 1) (abandonIn rel d)) s

/-- DELTA_COMMIT: the target's matching snapshot is to be cut when every square of the delta is COMMITTED (R458). -/
def execDeltaCommit (rel : Fin 4096) (sseq : BitVec 32) (_offered : Nat) (s : State) : Host.Outcome State Fault Refusal :=
  runRepl (fun d =>
    let x := getRel rel d
    if !x.target || x.inSseq ≠ sseq.toNat || x.state = 4 then d
    else tryTargetCut rel (modRel rel (fun x => { x with wantCut := some sseq.toNat }) d)) s

/-- DELTA_DONE: the new snapshot becomes the base and the old one is deleted; a mismatch abandons the cycle (R457, R458). -/
def execDeltaDone (rel : Fin 4096) (sseq target : BitVec 32) (result : Nat) (s : State) : Host.Outcome State Fault Refusal :=
  runRepl (fun d =>
    let x := getRel rel d
    match x.cycle with
    | some c =>
      if c.sseq ≠ sseq.toNat || c.phase = 0 then d
      else if result = 0 then
        let d := modSnap x.nsid c.sseq (fun y => { y with xtag := x.remote * 2 ^ 32 + target.toNat }) (dropHeld x.nsid x.base d)
        let d := modRel rel (fun x => { x with
          base := c.sseq, cycle := none, state := 2, oldest := x.newer, newer := none, lastAnchor := d.tmp.sec }) d
        showRel (pumpStream rel d)
      else dropHeld x.nsid c.sseq (modRel rel (fun x => { x with cycle := none }) d)
    | none => d) s

/-! ### Streaming (R459–R462) -/

/-- STREAM_REC: the target takes one source transaction, or an anchor (R459, R461). -/
def execStreamRec (rel : Fin 4096) (head : Fin 2) (tsn : BitVec 64) (anchor : Bool) (l : List Offer) (s : State) :
    Host.Outcome State Fault Refusal :=
  runRepl (fun d =>
    let x := getRel rel d
    let num := tsn.toNat % 2 ^ 32
    if !x.target || x.state = 0 || x.state = 4 || (getIn rel num d).isSome then d
    else takeBatch { rel := rel, num := num, stream := true, head := head, tsn := tsn.toNat, anchor := anchor, items := inItems l } d) s

/-- STREAM_ACK: the stream hold is released up to the TSN; an anchor acknowledged replaces the one before (R460, R461). -/
def execStreamAck (rel : Fin 4096) (head : Fin 2) (tsn : BitVec 64) (s : State) : Host.Outcome State Fault Refusal :=
  runRepl (fun d =>
    let x := getRel rel d
    if x.target || !x.streaming then d
    else
      let (done, rest) := x.unacked.partition fun u => u.head == head.val && u.tsn ≤ tsn.toNat
      let d := modRel rel (fun x => { x with
        unacked := rest
        ackA := if head.val = 0 then max x.ackA tsn.toNat else x.ackA
        ackB := if head.val = 1 then max x.ackB tsn.toNat else x.ackB }) d
      let d := if head.val = ownHead d then releaseHold rel tsn.toNat d else d
      let d := (done.filter (·.anchor != 0)).foldl (fun d u =>
        let old := (getRel rel d).base
        modRel rel (fun x => { x with base := u.anchor }) (dropHeld x.nsid old d)) d
      showRel d) s

/-- ANCHOR_CUT: every ANCHOR seconds a streaming source cuts an anchor (R461). -/
def execAnchorCut (rel : Fin 4096) (s : State) : Host.Outcome State Fault Refusal :=
  runRepl (fun d =>
    let x := getRel rel d
    if x.target || !x.streaming || x.state ≠ 2 || !ownsNs x.nsid d || d.tmp.sec < x.lastAnchor + x.anchor
        || (d.stg.cuts.any fun c => c.role == .anchor rel) then d
    else stageCut [x.nsid] (.anchor rel) (modRel rel (fun x => { x with lastAnchor := d.tmp.sec }) d)) s

/-- RPO_LAG_CHECK: lag beyond RPO raises REP_RPO once, and holds the namespace's writes under THROTTLE until it falls below half
(R462). -/
def execRpoLagCheck (rel : Fin 4096) (s : State) : Host.Outcome State Fault Refusal :=
  runRepl (fun d =>
    let x := getRel rel d
    let lag := lagOf x d
    if x.state = 0 || x.target then d
    else if !x.held && lag > x.rpo * 1000 then
      showRel (raiseC Ev.REP_RPO 0 rel lag (setb Reg.NVF_REP_STATUS_RPO_CHK (modRel rel (fun x => { x with held := true }) d)))
    else if x.held && 2 * lag < x.rpo * 1000 then showRel (modRel rel (fun x => { x with held := false }) d)
    else showRel d) s

end Sys2Proof.Machine
end

