-- ==== Sys2Proof/Machine/Startup.lean ====
section
/-!
DEFINITION. START-UP in the order of Table 18.3 and the Boot Record that ends it (spec/18_boot_and_attestation.md, R536–R547), with the
recovery of the pools (spec/11_flash_translation.md, R380–R382).
-/

namespace Sys2Proof.Machine

/-- Note a cause of Table 18.2; of several the first of the table stands. -/
def noteRecovery (c : Nat) (d : Dev) : Dev :=
  { d with sxc.recovery := if d.sxc.recovery = 0 then c else min c d.sxc.recovery }

/-! ### Straps, the record series, tempo time (R57, R585, R594, R634) -/

/-- At t0 the straps are sampled; the fabric, the I/O die and the SXC go to PL5 (R594, R634). -/
def sampleStraps (d : Dev) : Dev :=
  let d := wr Reg.GLB_STRAP_HEAD (b2n d.nv.headSel) (wr Reg.GLB_STRAP_CLAIM (b2n !d.nv.claimN) (wr Reg.GLB_STRAP_VSB (b2n d.pwr.vsb) d))
  forEach [8, 10, 11] (fun r d => wr (Reg.PWR_LVL_LVL r) 5 d) d

/-- The slot with the highest SEQ of the persistent ledger. -/
def newestLedger (d : Dev) : Option (Nat × Nat) :=
  d.nv.scrLedger.foldl (fun (b : Option (Nat × Nat)) p =>
    match b with
    | some x => if x.1 < p.2.seq then some (p.2.seq, p.1) else some x
    | none => some (p.2.seq, p.1)) none

/-- The record series resumes above the highest SEQ of the persistent ledger (R585). -/
def resumeSeries (d : Dev) : Dev :=
  match newestLedger d with
  | some (seq, slot) => wr Reg.SCR_SEQ_NEXT (seq + 1) (wr Reg.SCR_PTR_PIDX ((slot + 1) % 524288) d)
  | none => d

/-- Tempo time at power-up: seconds, nanoseconds, source as Table 2.7 codes it (R57). -/
def powerUpTime (offNs : Nat) (d : Dev) : Nat × Nat × Nat :=
  if d.sxc.ram.held then
    let n := d.sxc.ram.ns + offNs
    (d.sxc.ram.sec + n / 1000000000, n % 1000000000, 1)
  else match lastSigned d with
    | some r => (fld r 64 8 % 2 ^ 48 + 1, fld r 72 4, 2)
    | none => (0, 0, 0)

/-- Tempo time stands at the edge before an instant, with its tempo number (R37, R40). -/
def placeTime (sec ns : Nat) (d : Dev) : Dev :=
  let p := periodNs d
  let e := ns / p * p
  wr Reg.TMP_NUMBER_NUMBER (tempoNumber sec e p) { d with tmp.sec := sec % 2 ^ 48, tmp.ns := e, tmp.atCyc := 0, tmp.atFs := 0 }

/-- Take tempo time from its power-up source (R57, R649). -/
def takePowerUpTime (offNs : Nat) (d : Dev) : Dev :=
  let (sec, ns, src) := powerUpTime offNs d
  wr Reg.TMP_STATUS_TIME_SRC src (placeTime sec ns { d with tmp.powerUpSrc := true })

/-! ### The boot number and its slot (R541–R544) -/

/-- A slot header is intact (R541). -/
def headerIntact (b : Bytes) : Bool := fld b 0 4 == 0x42524E51 && fld b 56 8 == crc64 (b.take 56)

/-- BOOT of the last signed record; 0 when there is none. -/
def lastBoot (d : Dev) : Nat := ((lastSigned d).map fun r => fld r 8 8).getD 0

/-- The highest boot number reserved: by an intact header, or, for another slot that is not erased, the number that its position implies
after the last signed record (R542). -/
def highestBoot (d : Dev) : Nat :=
  let n := lastBoot d + 1
  d.nv.bootSlots.foldl (fun m x =>
    max m (if headerIntact x.2 then fld x.2 8 8 else n + (x.1 + 16384 - n % 16384) % 16384)) 0

/-- The ledger breaks its chain: no signed record, or one at or above what the epoch fuses allow (R544). -/
def chainBroken (d : Dev) : Bool := (lastSigned d).isNone || lastBoot d ≥ (d.nv.epochFuses + 1) * 2 ^ 24

/-- Reserved boots that were never signed since the last signed record (R543). -/
def skippedBoots (d : Dev) : Nat :=
  if (lastSigned d).isNone then d.nv.bootSlots.length else highestBoot d - lastBoot d

/-- The bytes of a slot header (Table 18.6). -/
def bootHeader (boot : Nat) (broken restored : Bool) (d : Dev) : Bytes :=
  let flags := b2n broken + 2 * b2n d.sxc.prevDebug + 4 * b2n d.sxc.ram.held + 8 * b2n restored
  let h := leBytes 4 0x42524E51 ++ leBytes 2 1 ++ leBytes 2 flags ++ leBytes 8 boot ++ leBytes 8 d.nv.serial ++ leBytes 1 d.sxc.cause
    ++ leBytes 1 d.nv.epochFuses ++ leBytes 1 d.nv.claimFuses ++ List.replicate 29 0
  h ++ leBytes 8 (crc64 h)

/-- Program the header of the boot's slot; with boot numbers divisible by 4 the slot's sector is erased first (R542). -/
def reserveSlot (boot : Nat) (header : Bytes) (d : Dev) : Dev :=
  let s := boot % 16384
  let gone (k : Nat) : Bool := boot % 4 == 0 && s ≤ k && k < s + 4
  { d with
    nv.bootSlots := tset [] (d.nv.bootSlots.filter fun x => !gone x.1) s header
    nv.bootSigned := tset false (d.nv.bootSigned.filter fun x => !gone x.1) s false }

/-- The SXC fixes and reserves the boot number (R539, R542–R544). `restored`: a flush image will be restored. A chain break with every fuse
burned burns none and takes the next number; the device then ends in RECOVERY. -/
def fixBoot (restored : Bool) (d : Dev) : Dev :=
  let broken := chainBroken d
  let out := broken && d.nv.epochFuses ≥ 255
  let jump := broken && !out
  let next := highestBoot d + 1
  let boot := if jump then (d.nv.epochFuses + 1) * 2 ^ 24 else next
  let burn := jump || (d.nv.epochFuses < 255 && next ≥ (d.nv.epochFuses + 1) * 2 ^ 24)
  let prev := if jump then List.replicate 48 0 else match lastSigned d with
    | some r => sha384 r
    | none => List.replicate 48 0
  let skipped := skippedBoots d
  let d := { d with nv.epochFuses := d.nv.epochFuses + b2n burn, sxc.prev := prev }
  let d := wr Reg.SXC_BOOT_BOOT boot (wr Reg.SXC_INFO_SLOT (boot % 16384) (wr Reg.SXC_INFO_CAUSE d.sxc.cause
    (wr Reg.SXC_INFO_SKIPPED skipped (wr Reg.SXC_STATUS_EPOCH_FUSES d.nv.epochFuses d))))
  let d := reserveSlot boot (bootHeader boot jump restored d) d
  let d := if jump then raiseC Ev.SXC_CHAIN_BREAK 0 0 0 (setb Reg.SXC_STATUS_CHAIN_BREAK d) else d
  if out then noteRecovery 6 d else d

/-! ### The Security Policy Table and the claim (R546, R547) -/

/-- The lowest version that is accepted (R547). -/
def sptFloor (d : Dev) : Nat :=
  max (((lastSigned d).map fun r => fld r 80 8).getD 0) (if d.sxc.ram.held then d.sxc.ram.sptVersion else 0)

/-- The valid copy with the highest version that qualifies (R547). -/
def bestSpt (d : Dev) : Option Spt :=
  let l := ([0, 1].map fun i => tget ({} : SptCopy) d.nv.spt i).filter fun c => c.valid && c.table.version ≥ sptFloor d
  l.foldl (fun (b : Option Spt) c =>
    match b with
    | some t => if t.version < c.table.version then some c.table else some t
    | none => some c.table) none

/-- A claim is open (R546). -/
def claimOpen (d : Dev) : Bool :=
  rdb Reg.GLB_STRAP_CLAIM d && (match d.sxc.spt with
    | some t => t.decommissioned
    | none => d.nv.claimFuses < 15)

/-- The table is read and accepted, MR4 extended, the claim judged (R546, R547). `best`: the copy chosen before the boot's slot was reserved. -/
def takeSpt (best : Option Spt) (d : Dev) : Dev :=
  let d := showSpt { d with sxc.spt := best.map fun t => { t with debugScope := 0, bad := [] } }
  let d := match d.sxc.spt with
    | some t => mrExtend 4 (sha384 (Config.sptBytes t)) d
    | none =>
      let d := raiseC Ev.SXC_SPT_LOST 0 0 0 d
      if d.nv.claimFuses ≥ 1 then noteRecovery 4 d else if d.nv.claimN then noteRecovery 3 d else d
  let d := wr Reg.SXC_STATUS_CLAIM_OPEN (b2n (claimOpen d)) d
  if rdb Reg.GLB_STRAP_CLAIM d && rdb Reg.SXC_STATUS_CLAIMED d && !claimOpen d then notice Ev.SXC_CLAIM_IGN 0 0 0 d else d

/-! ### Firmware (R558, R559) -/

/-- The slots in the order they are tried (R559). -/
def slotOrder (d : Dev) : List Nat := ([d.nv.fwNext, d.nv.fwActive, 1, 2, 3].filter fun n => 1 ≤ n && n ≤ 3).eraseDups

/-- Try slots until one passes every step of Table 19.3 (R558, R559). A loader that the SXC loads is measured in MR0: that of a slot whose
header passes, even when a component then fails. -/
def trySlots : List Nat → Dev → Option Nat × Dev
  | [], d => (none, d)
  | n :: ns, d =>
    let b := (getFwSlot n d).image
    if !(getFwSlot n d).present then trySlots ns (showSlot n 0 d)
    else
      let (r, d) := verifyFw b 6 d
      let d := { d with nv.fw := tmod {} d.nv.fw n fun s => { s with failed := r == 7 } }
      let d := showSlot n r (if r = 1 || r = 7 then mrExtend 0 (sha384 (sub b (fwComp b 0).off (fwComp b 0).len)) d else d)
      if r = 1 then (some n, d) else trySlots ns d

/-- The first-stage loader and the firmware slot that runs; without one the recovery loader of the ROM runs (R559, Table 18.2). -/
def bootFirmware (d : Dev) : Dev :=
  let order := slotOrder d
  match trySlots order d with
  | (some n, d) =>
    let d := { d with nv.fwPrev := if d.nv.fwActive = n then d.nv.fwPrev else d.nv.fwActive }
    let d := wr Reg.FWU_STATUS_ACTIVE n (putDirectory n 0 d)
    if order.head? = some n then d else notice Ev.FWU_FALLBACK 0 0 0 (setb Reg.FWU_STATUS_FALLBACK_N d)
  | (none, d) =>
    noteRecovery 1 (wr Reg.FWU_STATUS_ACTIVE 0 (wr Reg.FWU_STATUS_NEXT d.nv.fwNext (mrExtend 0 (sha384 Config.romLoader) d)))

/-! ### DDR5 (R644) -/

/-- One channel as it trains; a channel without DIMMs is absent. -/
def trainChannel (c : Nat) (x : DdrSample) (d : Dev) : Dev :=
  let d := wr (Reg.DDR_CH_GIB c) x.gib (wr (Reg.DDR_CH_DIMMS c) x.dimms (wr (Reg.DDR_CH_RANKS c) x.ranks d))
  if x.dimms = 0 then d
  else if x.trained then wr (Reg.DDR_CH_STATE c) 2 (setBit Reg.DDR_STATUS_TRAINED c d)
  else raiseD Ev.DDR_TRAIN (unitOf 0xB c) 0 0 false (setb Reg.DDR_STATUS_TRAIN_CHK (wr (Reg.DDR_CH_STATE c) 3 d))

/-- Train the channels; fewer than four are a Checkmate (R644). -/
def trainDdr (l : List DdrSample) (speed : Nat) (d : Dev) : Dev :=
  let d := (l.zip (List.range 8)).foldl (fun d x => trainChannel x.2 x.1 d) (wr Reg.DDR_CTRL_SPEED speed d)
  if (those 8 fun c => rd (Reg.DDR_CH_STATE c) d == 2).length < 4 then
    checkmate Ev.DDR_TRAIN 0 0 0 (setb Reg.DDR_STATUS_TRAIN_CHK d)
  else d

/-! ### The Opening Image and what follows from it (R34, R525, Table 18.4) -/

/-- MR5's configuration string (Table 18.4). -/
def bootConfig (d : Dev) : Bytes :=
  leBytes 1 (b2n d.nv.headSel) ++ leBytes 1 (b2n d.nv.claimN) ++ leBytes 1 (b2n d.pwr.vsb) ++ leBytes 1 d.nv.claimFuses
    ++ leBytes 1 d.nv.epochFuses ++ List.replicate 11 0

/-- The Opening Image is chosen and applied, MR3 and MR5 are extended. -/
def bootImage (d : Dev) : Dev :=
  let (b, d) := chooseOim d
  let d := placeTables d
  let d := match b with
    | some b => mrExtend 3 (sha384 (b.take (oimLen b))) d
    | none => noteRecovery 2 (mrExtend 3 (List.replicate 48 0) d)
  mrExtend 5 (sha384 (bootConfig d)) d

/-- A head whose image names no port to a peer is the sole owner (R34); the management controller exists; the enabled lanes look for modules
(R383). -/
def bootPorts (d : Dev) : Dev :=
  let peer := !(those 4 fun p => portRole p d == 1 || portRole p d == 3).isEmpty
  let d := { d with cas.hasPeer := peer, front.ctrls := tset {} d.front.ctrls (mgmtCntlid d) { exists_ := true, admin := mgmtCtx } }
  let d := if peer then d else wr Reg.CAS_ANA_OWN0_OWN (allMine d) (wr Reg.CAS_ANA_OWN1_OWN (allMine d) d)
  forEach (those 64 fun n => bitOf (rd Reg.MDL_LANE_EN_EN d) n) (fun n d => wr (Reg.MDL_LANE_STATE n) 1 d) d

/-! ### Recovery of the pools (R380–R382) -/

/-- A pool root can be read: some adopted member holds its module. -/
def rootReadable (d : Dev) : Bool :=
  d.outside.saved.members.any fun m =>
    m.2.adopted && (tget {} d.outside.modules m.1).present && (tget {} d.outside.modules m.1).serial == m.2.serial

/-- The newest root of metadata. -/
def rootOf (m : Meta) : Nat := (m.pools.map fun p => p.2.rootSeq).foldl max 0

/-- The complete flush image with the highest FLUSH_SEQ that was written after the newest root (R380, step 2). -/
def imageToRestore (d : Dev) : Option FlushImage :=
  if !rootReadable d then none
  else
    let l := ([0, 1].filterMap fun s => tget none d.outside.sides s).filter fun i => i.manifest && rootOf d.outside.saved ≤ rootOf i.dirty
    l.foldl (fun (b : Option FlushImage) i =>
      match b with
      | some x => if x.seq < i.seq then some i else some x
      | none => some i) none

/-- After an unclean restart a block's read counter resumes a quarter of its limit higher (R373). -/
def agedReads (d : Dev) : Tab Nat :=
  (d.md.blocks.filter fun b => b.2.state == 1).foldl (fun t b =>
    let lim := (tget {} d.md.members (b.1 / 2 ^ 24)).rdLimit
    let lim := if lim = 0 then rd Reg.MDL_FT_RET_RD_LIMIT d else lim
    tmod 0 t b.1 (· + lim / 4)) d.md.reads

/-- Steps 1–3: metadata, index and journal come from the image, or from the last checkpoint. -/
def loadImage (img : Option FlushImage) (d : Dev) : Dev :=
  match img with
  | some i =>
    let d := wr Reg.MDL_FT_TT_SEQ i.seq (wr Reg.MDL_FT_TT_MS (i.us / 1000) { d with
      md := i.dirty, fiu.buckets := i.index, keys.wkt := i.wkt, keys.wktPeer := i.wkt, keys.ikt := i.ikt
      stg.journal := (i.journal.filter (·.committed)).takeWhile (·.good), ftl.flushSeq := i.seq, sxc.ttRestored := true })
    if i.us > 450000 then raiseC Ev.TT_OVERRUN 0 0 0 (setb Reg.MDL_FT_STATUS_TT_OVERRUN d) else d
  | none =>
    let o := d.outside
    let d := { d with md := o.saved, fiu.buckets := o.index, keys.wkt := o.wkt, keys.wktPeer := o.wkt, keys.ikt := o.ikt }
    { d with md.reads := agedReads d }

/-- After the replay GIDs and TSNs go on above what was used: every block that a GID_MARK names counts as used (R188). -/
def resumeNumbers (d : Dev) : Dev :=
  let tsn := (d.stg.journal.map (·.tsn)).foldl max d.md.tsnOwn
  { d with
    md.pools := d.md.pools.map fun p => (p.1, { p.2 with seqNext := p.2.seqMark + 1 })
    stg.tsnNext := tsn + 1 }

/-- Step 4: committed records replay in TSN order with the rules of Table 11.6: no granule is moving, and a COLLECTING segment is CLOSED
again. A foreign release is not issued again: its GID is doubtful (R227). -/
def replayJournal (d : Dev) : Dev :=
  let sent := d.out
  let d := doubtReleases true (applyOwn d.stg.journal.length d)
  let d := { d with stg.releases := [], out := sent }
  let d := forEach ((d.md.gtes.filter (·.2.moving)).map (·.1)) (fun g d =>
    { d with md.gtes := tmod {} d.md.gtes g fun e => { e with moving := false } }) d
  forEach ((d.md.segs.filter fun s => s.2.state == 3).map (·.1)) (fun s d => modSeg s (fun g => { g with state := 2 }) d) d

/-- Steps 5 and 6: open segments of this head close short; blocks of DRAINED segments and replacements never committed are armed for erase
(R380, R430). -/
def settleSegments (d : Dev) : Dev :=
  let mine (st : Nat) (d : Dev) := (d.md.segs.filter fun s => s.2.state == st && s.1 / 2 ^ 39 == ownHead d).map (·.1)
  let d := forEach (mine 1 d) closePeerSegment d
  armOrphans (forEach (mine 4 d) armSegment d)

/-- A slot that no copy holds: its host blocks are unreadable (R382). -/
def loseSlot (s : Slot) (d : Dev) : Dev :=
  putMask s.nsid s.square (tget 0 (getNs s.nsid d).unread s.square ||| s.valid) d

/-- Step 7: the restored slots under R226 and R227; slots of a chunk without a valid copy are lost (R382). -/
def restoreSlots (i : FlushImage) (lost : List Nat) (d : Dev) : Dev :=
  let l := i.slots.filter fun s => s.2.state ≥ 2 && !slotCommitted true s.2 d
  let (gone, kept) := l.partition fun s => lost.contains s.1
  let d := { d with stg.ssn := (i.slots.map (·.2.ssn)).foldl max 0 + 1 }
  let d := kept.foldl (fun d s => restoreSlot s.1 s.2 d) d
  if gone.isEmpty then d
  else raiseD Ev.TT_LOST 0 0 0 false (setb Reg.MDL_FT_STATUS_TT_LOST (gone.foldl (fun d s => loseSlot s.2 d) d))

/-- Step 8: the side that is not armed is erased and armed, and a checkpoint begins, whose roots name it (R380). -/
def armOtherSide (d : Dev) : Dev :=
  let d := { d with ftl.groups := d.outside.groups, ftl.sideBlocks := d.outside.sideBlocks }
  let d := match d.outside.armed with
    | some a => { d with ftl.armed := some (1 - a), outside.sides := tset none d.outside.sides (1 - a) none }
    | none => d
  let d := wr Reg.MDL_FT_TTCAP_CAP (flushCapMiB d) (wr Reg.MDL_FT_TTCAP_SLOTS (flushSlots d) d)
  if (poolList d).isEmpty then d else beginCheckpoint d

/-- Bring what shows the metadata up to date: owner table (R34), layouts, free space, index, rebuild queue. -/
def showMeta (d : Dev) : Dev :=
  let d := if d.cas.hasPeer then
      wr Reg.CAS_ANA_OWN0_OWN (d.md.owners % 2 ^ 64) (wr Reg.CAS_ANA_OWN1_OWN (d.md.owners / 2 ^ 64) d)
    else d
  let d := forEach (poolList d) (fun p d => showNarrow p (showLayout p d)) d
  let d := forEach ((d.md.segs.filter fun s => s.2.state == 2).map (·.1)) queueRebuild (showPools d)
  showIndex { d with fiu.bypass := servedParts d }

/-- Pool recovery (R380): the roots, the flush image, replay, segments, slots, the side to arm. Sessions of replication are lost with the
boot (R453): sources are SUSPENDED. -/
def recoverPools (b : BootSample) (d : Dev) : Dev :=
  if !rootReadable d then d
  else
    let img := imageToRestore d
    let d := forEach b.badCopies (fun c d => notice Ev.TT_COPY 0 (c / 2 ^ 32) (c % 2 ^ 32) d) (loadImage img d)
    let d := settleSegments (resumeNumbers (replayJournal d))
    let d := forEach ((d.md.rels.filter fun x => !x.2.target).map (·.1)) suspendRel d
    let d := match img with
      | some i => restoreSlots i b.lostSlots d
      | none => d
    showTight (armOtherSide (showMeta d))

/-! ### START-UP and its end -/

/-- Clusters and accelerators are to reach their requested level, in the order of the grant rounds (R594): the request is staged for the
next edge. -/
def stageLevels (d : Dev) : Dev :=
  forEach [0, 1, 2, 3, 4, 5, 6, 7, 9] (fun r d =>
    let q := rd (Reg.PWR_LVL_REQ r) d
    if levelOf r d = q ∨ (getRegion r d).reqLvl.isSome then d else stageRegion r (some q) none d) d

/-- The SXC loads the digest key registers over its own path, which no bus reads (R19, R278). -/
def loadDigestKeys (l : List Bytes) (d : Dev) : Dev :=
  { d with keys.digest := ((l.take 8).zip (List.range 8)).foldl (fun t k => tset [] t k.2 k.1) d.keys.digest }

/-- Table 18.3 in order. A Checkmate on the way ends it. -/
def startUp (b : BootSample) (d : Dev) : Dev :=
  let d := match b.saved with
    | some m => { d with outside.saved := adoptSaved m d.outside.saved }
    | none => d
  let best := bestSpt d
  let (sec, ns, _) := powerUpTime b.offNs d
  let d := takePowerUpTime b.offNs (resumeSeries (sampleStraps d))
  let d := fixBoot (imageToRestore d).isSome d
  let (k1, d) := drawBytes 32 d
  let (k2, d) := drawBytes 32 d
  let d := takeSpt best (loadDigestKeys b.digestKeys { d with keys.digestWrap := k1, keys.cipherWrap := k2 })
  let d := trainDdr b.ddr b.ddrSpeed (bootFirmware d)
  if !d.live then d
  else
    let d := placeTime sec ns (bootImage d)
    let d := stageLevels (recoverPools b (bootPorts d))
    { d with sxc.startedUp := true }

/-- START_UP: from t0 to the last step before the Boot Record (R538). -/
def execStartUp (b : BootSample) (s : State) : Host.Outcome State Fault Refusal :=
  runLive (fun d => if glbState d = 0 ∧ !d.sxc.startedUp then startUp b d else d) s

/-- The state that START-UP ends in, and its RCAUSE (R546, Tables 18.1 and 18.2). -/
def endState (d : Dev) : Nat × Nat :=
  let c := d.sxc.recovery
  if c ≠ 0 ∧ !(claimOpen d && (c = 3 || c = 4)) then (3, c)
  else if claimOpen d then (2, 8)
  else (1, 0)

/-- Bytes 64–927 of the Boot Record of a state (Table 18.6). -/
def recordBody (state : Nat) (d : Dev) : Bytes :=
  let oim := if rdb Reg.OIM_STATUS_DEFAULTS d then 0xFF else rd Reg.OIM_STATUS_ACTIVE d
  leBytes 8 d.tmp.sec ++ leBytes 4 d.tmp.ns ++ leBytes 1 (rd Reg.TMP_STATUS_TIME_SRC d) ++ leBytes 1 state ++ leBytes 1 oim ++ [0]
    ++ leBytes 8 ((d.sxc.spt.map (·.version)).getD 0) ++ leBytes 8 (((newestLedger d).map (·.1)).getD 0)
    ++ d.sxc.prev ++ ((List.range 16).flatMap fun n => mrRead n d) ++ leBytes 4 (rd Reg.SXC_INFO_SKIPPED d) ++ List.replicate 12 0

/-- The whole Boot Record, signed with the Ledger key (R543, R545). -/
def bootRecord (state : Nat) (d : Dev) : Bytes × Dev :=
  let body := tget [] d.nv.bootSlots (rd Reg.SXC_INFO_SLOT d) ++ recordBody state d
  let (nonce, d) := drawNat (2 ^ 384) d
  (body ++ ecdsaSign (brecKey d) (sha384 body) nonce, d)

/-- Leave START-UP for a state (R536, R649). -/
def leaveStartUp (state cause : Nat) (d : Dev) : Dev :=
  endPowerUpSrc (wr Reg.GLB_STATE_STATE state (wr Reg.GLB_STATE_RCAUSE cause d))

/-- BOOT_RECORD_WRITE: the SXC programs and reads back the Boot Record, `good` when both succeed, and GLB_STATE leaves START-UP; a head that
rejoins waits for its grant. A failure is LEDGER_FAIL (R520, R543, Table 18.2). -/
def execBootRecordWrite (good : Bool) (s : State) : Host.Outcome State Fault Refusal :=
  runLive (fun d =>
    if glbState d ≠ 0 ∨ !d.sxc.startedUp ∨ d.cas.rejoining then d
    else if good then
      let (st, cause) := endState d
      let (rec_, d) := bootRecord st d
      let slot := rd Reg.SXC_INFO_SLOT d
      leaveStartUp st cause { d with
        nv.bootSlots := tset [] d.nv.bootSlots slot rec_, nv.bootSigned := tset false d.nv.bootSigned slot true }
    else
      let d := raiseD Ev.SXC_LEDGER_FAIL 0 0 0 false (setb Reg.SXC_STATUS_LEDGER_FAIL (noteRecovery 5 d))
      let (st, cause) := endState d
      leaveStartUp st cause d) s

end Sys2Proof.Machine
end

