-- ==== Sys2Proof/Machine/Write.lean ====
section
/-!
DEFINITION. The commands of the write pipeline (spec/06_write_pipeline.md).
-/

namespace Sys2Proof.Machine

/-! ### The mirror (R191, R196, R197, R501) -/

/-- MIRROR_ACK: the peer has a slot or a command record in its DRAM. The slot becomes DURABLE, the record acknowledged; what waits on
it goes on (R191, R196, R501). -/
def execMirrorAck (item : MirrorItem) (s : State) : Host.Outcome State Fault Refusal :=
  runLive (fun d =>
    match item with
    | .slot n => if (getSlot n d).state = 2 then makeDurable n d else slotWritten n d
    | .cmd n => if (getCmd n d).state = 1 then fetchWrite n (postCompletion n (modCmd n (fun r => { r with acked := true }) d)) else d
    | .record tsn => commitReady { d with stg.journal := d.stg.journal.map fun r => if r.tsn = tsn then { r with committed := true } else r }) s

/-- A mirror write still has something to bring to the peer. -/
def mirrorWanted (item : MirrorItem) (d : Dev) : Bool :=
  match item with
  | .slot n => (getSlot n d).state != 0
  | .cmd n => (getCmd n d).state == 1 && !(getCmd n d).acked
  | .record tsn => d.stg.journal.any fun r => r.tsn == tsn && !r.committed

/-- MIRROR_WRITE_FAILED: the write is issued again over another port with a path to the peer; when no such port is left, it waits until a
path returns (R197, R228). -/
def execMirrorWriteFailed (item : MirrorItem) (port : Fin 4) (s : State) : Host.Outcome State Fault Refusal :=
  runLive (fun d =>
    if !d.cas.hasPeer || peerLost d || !mirrorWanted item d then d
    else match (pathPorts (peerDev d) d).filter (· != port.val) with
      | [] => { d with stg.left := d.stg.left.filter (· != item) ++ [item] }
      | p :: _ => send (.mirrorOn p item) d) s

/-! ### Reduction -/

/-- REDUCTION_TAKE_SLOT: a reduction engine takes the slot whose turn it is, supersedes it, starts its merge or its digest
(R198–R201). -/
def execReductionTakeSlot (e : Fin 64) (bad : BitVec 16) (copy : Option (List Byte)) (s : State) : Host.Outcome State Fault Refusal :=
  runLive (fun d =>
    match if inTrouble d then none else nextSlot e d with
    | some n => takeSlot e n bad.toNat copy d
    | none => d) s

/-- MERGE_READ_RESULT (R201, R202). -/
def execMergeReadResult (slot : Nat) (s : State) : Host.Outcome State Fault Refusal := runLive (mergeEnded slot) s

/-- FINGERPRINT_RESULT: the digest job of a slot has ended, well or with CHECK_FAIL (R203, R204, R228, R653). -/
def execFingerprintResult (slot : Nat) (ending : JobEnd) (s : State) : Host.Outcome State Fault Refusal :=
  runLive (fun d =>
    let x := getSlot slot d
    if x.state ≠ 4 ∨ x.work.phase ≠ 2 then d
    else if !laneServes 6 d then awaitLane 6 slot d
    else match pipeStep 6 (.slot slot) ending d with
      | (.waits, d) => d
      | (.failed, d) => accelFails slot d
      | (.ok, d) => digestEnded slot d) s

/-- INDEX_DECISION (R205–R207, R244). -/
def execIndexDecision (slot : Nat) (s : State) : Host.Outcome State Fault Refusal :=
  runLive (fun d => if (getSlot slot d).state = 4 ∧ !inTrouble d then decideIndex slot d else d) s

/-- REFERENCE_ADD_RESULT: a swap on a foreign GTE's word 2 returns the word it found, or its message failed (R206, R445, R457). -/
def execReferenceAddResult (who : AddFor) (old : Option (BitVec 64)) (s : State) : Host.Outcome State Fault Refusal :=
  runLive (fun d =>
    match who with
    | .slot n => addReturned n (old.map (·.toNat)) d
    | .tx k g => txReturned k g (old.map (·.toNat)) d
    | .offer k b i => offerAdded k b i (old.map (·.toNat)) d) s

/-- FRAME_PLACEMENT: the compression job of a new granule has ended, its frame is placed, and its cipher job has ended; or the cipher job
of a placed frame has (R208–R214, R228, R653). -/
def execFramePlacement (slot : Nat) (compress cipher : JobEnd) (s : State) : Host.Outcome State Fault Refusal :=
  runLive (fun d =>
    let x := getSlot slot d
    if x.state ≠ 4 ∨ inTrouble d then d
    else if x.work.phase = 10 then sealStep slot cipher d
    else if x.work.phase ≠ 6 then d
    else if !laneServes 3 d then awaitLane 3 slot d
    else match compressStep slot compress d with
      | (.waits, d) => d
      | (.failed, d) => accelFails slot d
      | (.ok, d) => sealStep slot cipher (placeGranule slot d)) s

/-! ### Rows -/

/-- ROW_AGE_EXPIRE: an open row closes ROW_AGE tempi after its first frame (R217). -/
def execRowAgeExpire (row : Nat) (s : State) : Host.Outcome State Fault Refusal :=
  runLive (fun d =>
    let r := getRow row d
    if r.state = 1 ∧ !r.frames.isEmpty ∧ r.first + d.oimCfg.rowAge ≤ tempoNow d then closeRow row d else d) s

/-- The engine that would issue a row has one in flight. -/
def engineBusy (row : Nat) (d : Dev) : Bool :=
  d.stg.rows.any fun x => x.1 != row && x.2.state == 3 && rowEngine x.1 d == rowEngine row d

/-- The erasure job of a closed row has ended: P and Q stand, or it is computed again, after a second failure in the next tempo (R218,
R228, R653). Every frame of the row has its payload by then. -/
def parityStep (row : Nat) (e : JobEnd) (d : Dev) : Bool × Dev :=
  let r := getRow row d
  if r.parity then (true, d)
  else if !laneServes 5 d || unsealed r d then (false, d)
  else match pipeStep 5 (.row row) e d with
    | (.waits, d) => (false, d)
    | (.failed, d) =>
      let (a, d) := drawNat (2 ^ 64) d
      let (b, d) := drawNat (2 ^ 64) d
      (false, raiseC Ev.WR_ACCEL 0 a b (modRow row (fun r => { r with after := tempoNow d + 1 }) d))
    | (.ok, d) => (true, modRow row (fun r => { r with parity := true }) d)

/-- ROW_PROGRAM_ISSUE: the parity job of a closed row has ended as `parity` says. Its columns are issued under a token grant, in
row order, at most two rows of a segment at once (R16, R218, R219, R228). Requeued frames take a segment that now opens (R220). -/
def execRowProgramIssue (row : Nat) (parity : JobEnd) (s : State) : Host.Outcome State Fault Refusal :=
  runLive (fun d =>
    let r := getRow row d
    if r.state = 4 then requeueRows [row] d
    else if r.state ≠ 2 ∨ tempoNow d < r.after then d
    else match parityStep row parity d with
      | (false, d) => d
      | (true, d) =>
        let who := TokWho.engine (rowEngine row d)
        if engineBusy row d || !rowTurn row d then d
        else if hasGrant who 1 d then issueRow row d
        else postReq { who := who, cls := 1, cost := (getSeg r.seg d).cols.length } d) s

/-- Every column of a row has ended in success. -/
def rowSuccess (r : Row) (d : Dev) : Bool := (List.range (getSeg r.seg d).cols.length).all fun c => tget 0 r.cols c == 1

/-- ROW_PROGRAMMED: every column of the row and every earlier row of its segment report success; its transactions are built. At
the bounds of R351 nothing new commits, and the row waits; so it does behind a deletion walk (R219, R221, R351, R450). -/
def execRowProgrammed (row : Nat) (s : State) : Host.Outcome State Fault Refusal :=
  runLive (fun d =>
    let r := getRow row d
    if r.state = 3 ∧ r.void ∧ rowSuccess r d then closeWhenIdle r.seg (requeueRows [row] (endHold (.engine (rowEngine row d)) 1 d))
    else if r.state ≠ 3 ∨ (r.kind ≠ 0 ∧ r.kind ≠ 2) ∨ inTrouble d ∨ !rowSuccess r d ∨ (r.frames.any fun f => f.slot.any fun n => (getSlot n d).unacked) ∨ (r.frames.any fun f => f.slot.any fun n => walkHolds (getSlot n d).nsid d) ∨ (rowsOf r.seg true d).any (fun n => (getRow n d).row < r.row) then d
    else if r.kind ≠ 2 && metaStalled d then
      if rdb Reg.MDL_FT_STATUS_MD_STALL d then d else notice Ev.FT_MD_STALL 0 0 0 (setb Reg.MDL_FT_STATUS_MD_STALL d)
    else rowDone row (endHold (.engine (rowEngine row d)) 1 d)) s

/-- ROW_PROGRAM_FAIL: a column of the row failed; the row is burned (R220). -/
def execRowProgramFail (row : Nat) (s : State) : Host.Outcome State Fault Refusal :=
  runLive (fun d =>
    let r := getRow row d
    if r.state = 3 ∧ r.kind ≠ 4 ∧ r.cols.any (·.2 == 2) then burnRow row (endHold (.engine (rowEngine row d)) 1 d) else d) s

/-! ### Transactions -/

/-- FRAMELESS_TRANSACTION: a reduction engine's open row holds no frame, and its frameless PACKED slots get a transaction (R658). -/
def execFramelessTransaction (e : Fin 64) (s : State) : Host.Outcome State Fault Refusal :=
  runLive (fun d =>
    let free := frameless e d
    if inTrouble d || free.isEmpty || (openRowOf e 0 d).any (fun n => !(getRow n d).frames.isEmpty) || metaStalled d
        || free.any (fun n => walkHolds (getSlot n d).nsid d) then d
    else postSquares (free.map fun n => ((getSlot n d).nsid, slotEntry n none d)) (marked free d)) s

/-- TRANSACTION_COMMIT: the peer acknowledges its copy of a record, which commits, is applied in TSN order, and releases its slots
(R221, R222). -/
def execTransactionCommit (tsn : Nat) (s : State) : Host.Outcome State Fault Refusal :=
  runLive (fun d =>
    commitReady { d with stg.journal := d.stg.journal.map fun r => if r.tsn = tsn then { r with committed := true } else r }) s

/-- PEER_RECORD_APPLY: the peer's acknowledged records are applied in TSN order, and their mirror slots released (R221, R222). -/
def execPeerRecordApply (s : State) : Host.Outcome State Fault Refusal := runLive catchUp s

/-- How many RELEASE_DONE of a GID are built and not yet applied. -/
def releasesBuilt (g : Nat) (d : Dev) : Nat :=
  ((d.stg.journal.filter fun r => r.tsn > d.md.tsnOwn).map fun r =>
    match r.body with
    | .releaseDone gs => (gs.filter (· == g)).length
    | _ => 0).sum

/-- FOREIGN_RELEASE_DONE: a release's atomic add has completed; a RELEASE_DONE record is built (R223). -/
def execForeignReleaseDone (gid tsn : Nat) (s : State) : Host.Outcome State Fault Refusal :=
  runLive (fun d =>
    if d.stg.releases.contains ⟨gid, tsn⟩ && releasesBuilt gid d < (d.stg.releases.filter (·.gid == gid)).length then
      postRecord 0 (.releaseDone [gid]) d
    else d) s

end Sys2Proof.Machine
end

