-- ==== Sys2Proof/Machine/Dispatch.lean ====
section
/-!
DEFINITION. `exec`: one arm per command, each a direct call of its meaning.
-/

namespace Sys2Proof.Machine

/-- The effect of a command on everything but the queue. -/
def exec (i : Instr) (s : State) : Host.Outcome State Fault Refusal :=
  match i with
  | .powerGood => Sys2Proof.Machine.execPowerGood s
  | .powerGoodLost => Sys2Proof.Machine.execPowerGoodLost s
  | .resetNAssert lowNs => Sys2Proof.Machine.execResetNAssert lowNs s
  | .perstNAssert => Sys2Proof.Machine.execPerstNAssert s
  | .vinRemoved => Sys2Proof.Machine.execVinRemoved s
  | .startUp b => Sys2Proof.Machine.execStartUp b s
  | .bootRecordWrite good => Sys2Proof.Machine.execBootRecordWrite good s
  | .tempoEdge e => Sys2Proof.Machine.execTempoEdge e s
  | .creditResyncDone unit cls occupied returns => Sys2Proof.Machine.execCreditResyncDone unit cls occupied returns s
  | .accelSliceBudgetEnd k lane => Sys2Proof.Machine.execAccelSliceBudgetEnd k lane s
  | .periodicAlignExchange t1 => Sys2Proof.Machine.execPeriodicAlignExchange t1 s
  | .alignExchangeMissed => Sys2Proof.Machine.execAlignExchangeMissed s
  | .beaconSend => Sys2Proof.Machine.execBeaconSend s
  | .heartbeatSend => Sys2Proof.Machine.execHeartbeatSend s
  | .digestSend => Sys2Proof.Machine.execDigestSend s
  | .ppsOutWidthEnd ms => Sys2Proof.Machine.execPpsOutWidthEnd ms s
  | .ppsInEdge cyc => Sys2Proof.Machine.execPpsInEdge cyc s
  | .tmpSnapTake cyc => Sys2Proof.Machine.execTmpSnapTake cyc s
  | .tempoStep cyc => Sys2Proof.Machine.execTempoStep cyc s
  | .tmpFadjWrite v cyc => Sys2Proof.Machine.execTmpFadjWrite v cyc s
  | .tmpPadjWrite v cyc => Sys2Proof.Machine.execTmpPadjWrite v cyc s
  | .offsetSample v cyc => Sys2Proof.Machine.execOffsetSample v cyc s
  | .offsetSampleTimeout cyc => Sys2Proof.Machine.execOffsetSampleTimeout cyc s
  | .transferRequest target port write qos addr same line buffer => Sys2Proof.Machine.execTransferRequest target port write qos addr same line buffer s
  | .arbiterGrant target err accepted => Sys2Proof.Machine.execArbiterGrant target err accepted s
  | .requestAgeRaise target order => Sys2Proof.Machine.execRequestAgeRaise target order s
  | .writeDataArrive target port data => Sys2Proof.Machine.execWriteDataArrive target port data s
  | .grantCutOff target port => Sys2Proof.Machine.execGrantCutOff target port s
  | .lateDatDiscard target port => Sys2Proof.Machine.execLateDatDiscard target port s
  | .cutNoticeReceive e addr => Sys2Proof.Machine.execCutNoticeReceive e addr s
  | .poolScrubLine bank word err => Sys2Proof.Machine.execPoolScrubLine bank word err s
  | .fabInjArm => Sys2Proof.Machine.execFabInjArm s
  | .bufferLedgerAudit poolErr missErr => Sys2Proof.Machine.execBufferLedgerAudit poolErr missErr s
  | .engineTakeSlice e => Sys2Proof.Machine.execEngineTakeSlice e s
  | .engineInstruction e checker cyc full err cut other => Sys2Proof.Machine.execEngineInstruction e checker cyc full err cut other s
  | .engineLoadStore e kind reg addr sizeLog signed err cut other => Sys2Proof.Machine.execEngineLoadStore e kind reg addr sizeLog signed err cut other s
  | .qdoor e rd rs1 rs2 cut => Sys2Proof.Machine.execQdoor e rd rs1 rs2 cut s
  | .qprobe e rd rs1 full => Sys2Proof.Machine.execQprobe e rd rs1 full s
  | .qcas128 e rd rs1 rs2 => Sys2Proof.Machine.execQcas128 e rd rs1 rs2 s
  | .qcrc64 e rd rs1 rs2 len => Sys2Proof.Machine.execQcrc64 e rd rs1 rs2 len s
  | .qtempoSnapshot e rd cyc => Sys2Proof.Machine.execQtempoSnapshot e rd cyc s
  | .qtempoSeconds e rd => Sys2Proof.Machine.execQtempoSeconds e rd s
  | .qtempoNanoseconds e rd => Sys2Proof.Machine.execQtempoNanoseconds e rd s
  | .qtempoCyclesToEdge e rd cyc => Sys2Proof.Machine.execQtempoCyclesToEdge e rd cyc s
  | .qptokRequest e rd rs1 => Sys2Proof.Machine.execQptokRequest e rd rs1 s
  | .qptokQuery e rd => Sys2Proof.Machine.execQptokQuery e rd s
  | .qyieldComplete e => Sys2Proof.Machine.execQyieldComplete e s
  | .qyieldDefer e => Sys2Proof.Machine.execQyieldDefer e s
  | .kingMismatch flag0 flag1 gap err => Sys2Proof.Machine.execKingMismatch flag0 flag1 gap err s
  | .kingSelfTestDone pass0 pass1 gap err => Sys2Proof.Machine.execKingSelfTestDone pass0 pass1 gap err s
  | .rangeWriteback cl => Sys2Proof.Machine.execRangeWriteback cl s
  | .rangeInvalidate cl => Sys2Proof.Machine.execRangeInvalidate cl s
  | .rangePreload cl way => Sys2Proof.Machine.execRangePreload cl way s
  | .rangeOpDone cl => Sys2Proof.Machine.execRangeOpDone cl s
  | .l2LockWrite cl mask => Sys2Proof.Machine.execL2LockWrite cl mask s
  | .l2DrainStart cl => Sys2Proof.Machine.execL2DrainStart cl s
  | .l2DrainDone cl errs => Sys2Proof.Machine.execL2DrainDone cl errs s
  | .l2Enable cl => Sys2Proof.Machine.execL2Enable cl s
  | .hostFrameReceive p f => Sys2Proof.Machine.execHostFrameReceive p f s
  | .contextFetchDone c => Sys2Proof.Machine.execContextFetchDone c s
  | .contextFetchSlow c => Sys2Proof.Machine.execContextFetchSlow c s
  | .pfcPauseRefresh p => Sys2Proof.Machine.execPfcPauseRefresh p s
  | .cnpReceive c => Sys2Proof.Machine.execCnpReceive c s
  | .rateRaise => Sys2Proof.Machine.execRateRaise s
  | .hostLinkRetrain p => Sys2Proof.Machine.execHostLinkRetrain p s
  | .fabricsConnect r => Sys2Proof.Machine.execFabricsConnect r s
  | .fabricsDisconnect c => Sys2Proof.Machine.execFabricsDisconnect c s
  | .propertyGet c => Sys2Proof.Machine.execPropertyGet c s
  | .propertySet c => Sys2Proof.Machine.execPropertySet c s
  | .identify c => Sys2Proof.Machine.execIdentify c s
  | .getLogPage c => Sys2Proof.Machine.execGetLogPage c s
  | .setFeatures c => Sys2Proof.Machine.execSetFeatures c s
  | .getFeatures c => Sys2Proof.Machine.execGetFeatures c s
  | .asyncEventRequest c => Sys2Proof.Machine.execAsyncEventRequest c s
  | .keepAlive c => Sys2Proof.Machine.execKeepAlive c s
  | .keepAliveExpire cntlid ms => Sys2Proof.Machine.execKeepAliveExpire cntlid ms s
  | .abort c => Sys2Proof.Machine.execAbort c s
  | .namespaceManagement c => Sys2Proof.Machine.execNamespaceManagement c s
  | .namespaceAttachment c => Sys2Proof.Machine.execNamespaceAttachment c s
  | .firmwareImageDownload c => Sys2Proof.Machine.execFirmwareImageDownload c s
  | .firmwareCommitSlot c => Sys2Proof.Machine.execFirmwareCommitSlot c s
  | .firmwareCommitSlotNext c => Sys2Proof.Machine.execFirmwareCommitSlotNext c s
  | .firmwareCommitNext c => Sys2Proof.Machine.execFirmwareCommitNext c s
  | .firmwareCommitActivate c => Sys2Proof.Machine.execFirmwareCommitActivate c s
  | .activationIdleDeadline => Sys2Proof.Machine.execActivationIdleDeadline s
  | .activationRelease tenthsMs => Sys2Proof.Machine.execActivationRelease tenthsMs s
  | .nvmeRead c => Sys2Proof.Machine.execNvmeRead c s
  | .nvmeWrite c => Sys2Proof.Machine.execNvmeWrite c s
  | .nvmeCompare c => Sys2Proof.Machine.execNvmeCompare c s
  | .nvmeVerify c => Sys2Proof.Machine.execNvmeVerify c s
  | .writeZeroes c => Sys2Proof.Machine.execWriteZeroes c s
  | .flush c => Sys2Proof.Machine.execFlush c s
  | .datasetManagement c => Sys2Proof.Machine.execDatasetManagement c s
  | .reservationRegister c => Sys2Proof.Machine.execReservationRegister c s
  | .reservationReport c => Sys2Proof.Machine.execReservationReport c s
  | .reservationAcquire c => Sys2Proof.Machine.execReservationAcquire c s
  | .reservationRelease c => Sys2Proof.Machine.execReservationRelease c s
  | .commandRecordWait => Sys2Proof.Machine.execCommandRecordWait s
  | .slotAdmitWait => Sys2Proof.Machine.execSlotAdmitWait s
  | .writeDataLand rec i_ data => Sys2Proof.Machine.execWriteDataLand rec i_ data s
  | .mirrorAck item => Sys2Proof.Machine.execMirrorAck item s
  | .mirrorWriteFailed item port => Sys2Proof.Machine.execMirrorWriteFailed item port s
  | .completionDelivered rec => Sys2Proof.Machine.execCompletionDelivered rec s
  | .transportConnectionLoss c => Sys2Proof.Machine.execTransportConnectionLoss c s
  | .reductionTakeSlot e bad copy => Sys2Proof.Machine.execReductionTakeSlot e bad copy s
  | .mergeReadResult slot => Sys2Proof.Machine.execMergeReadResult slot s
  | .fingerprintResult slot ending => Sys2Proof.Machine.execFingerprintResult slot ending s
  | .indexDecision slot => Sys2Proof.Machine.execIndexDecision slot s
  | .referenceAddResult who old => Sys2Proof.Machine.execReferenceAddResult who old s
  | .framePlacement slot compress cipher => Sys2Proof.Machine.execFramePlacement slot compress cipher s
  | .rowAgeExpire row => Sys2Proof.Machine.execRowAgeExpire row s
  | .rowProgramIssue row parity => Sys2Proof.Machine.execRowProgramIssue row parity s
  | .rowProgrammed row => Sys2Proof.Machine.execRowProgrammed row s
  | .rowProgramFail row => Sys2Proof.Machine.execRowProgramFail row s
  | .framelessTransaction e => Sys2Proof.Machine.execFramelessTransaction e s
  | .transactionCommit tsn => Sys2Proof.Machine.execTransactionCommit tsn s
  | .peerRecordApply => Sys2Proof.Machine.execPeerRecordApply s
  | .foreignReleaseDone gid tsn => Sys2Proof.Machine.execForeignReleaseDone gid tsn s
  | .fiuProbe => Sys2Proof.Machine.execFiuProbe s
  | .indexProbeReceive dev fp kdom tag => Sys2Proof.Machine.execIndexProbeReceive dev fp kdom tag s
  | .indexReplyReceive tag r => Sys2Proof.Machine.execIndexReplyReceive tag r s
  | .probeTimeout tag => Sys2Proof.Machine.execProbeTimeout tag s
  | .wrongOwnerRetry tag => Sys2Proof.Machine.execWrongOwnerRetry tag s
  | .fiuInsert ring far => Sys2Proof.Machine.execFiuInsert ring far s
  | .fiuRemove ring far => Sys2Proof.Machine.execFiuRemove ring far s
  | .filterRebuildDone => Sys2Proof.Machine.execFilterRebuildDone s
  | .fiuOwnApplyWrite v => Sys2Proof.Machine.execFiuOwnApplyWrite v s
  | .pinDrop gid => Sys2Proof.Machine.execPinDrop gid s
  | .ownerScrub dead => Sys2Proof.Machine.execOwnerScrub dead s
  | .refAuditCompare others doubtful => Sys2Proof.Machine.execRefAuditCompare others doubtful s
  | .compressOneshot lane cut self => Sys2Proof.Machine.execCompressOneshot lane cut self s
  | .compressStart lane cut self => Sys2Proof.Machine.execCompressStart lane cut self s
  | .compressContinue lane cut self => Sys2Proof.Machine.execCompressContinue lane cut self s
  | .decompress lane cut self => Sys2Proof.Machine.execDecompress lane cut self s
  | .digestSha256 pipe cut self => Sys2Proof.Machine.execDigestSha256 pipe cut self s
  | .digestSha384 pipe cut self => Sys2Proof.Machine.execDigestSha384 pipe cut self s
  | .digestSha512 pipe cut self => Sys2Proof.Machine.execDigestSha512 pipe cut self s
  | .digestSha3256 pipe cut self => Sys2Proof.Machine.execDigestSha3256 pipe cut self s
  | .digestHmacSha256 pipe cut self => Sys2Proof.Machine.execDigestHmacSha256 pipe cut self s
  | .digestHmacSha384 pipe cut self => Sys2Proof.Machine.execDigestHmacSha384 pipe cut self s
  | .digestHmacSha512 pipe cut self => Sys2Proof.Machine.execDigestHmacSha512 pipe cut self s
  | .digestSha256Crc64 pipe cut self => Sys2Proof.Machine.execDigestSha256Crc64 pipe cut self s
  | .cipherCbc lane cut self => Sys2Proof.Machine.execCipherCbc lane cut self s
  | .cipherCfb128 lane cut self => Sys2Proof.Machine.execCipherCfb128 lane cut self s
  | .cipherOfb lane cut self => Sys2Proof.Machine.execCipherOfb lane cut self s
  | .cipherCtr lane cut self => Sys2Proof.Machine.execCipherCtr lane cut self s
  | .cipherGcm lane cut self => Sys2Proof.Machine.execCipherGcm lane cut self s
  | .cipherGmac lane cut self => Sys2Proof.Machine.execCipherGmac lane cut self s
  | .cipherKw lane cut self => Sys2Proof.Machine.execCipherKw lane cut self s
  | .cipherKwp lane cut self => Sys2Proof.Machine.execCipherKwp lane cut self s
  | .erasureGen lane cut self => Sys2Proof.Machine.execErasureGen lane cut self s
  | .erasureRebuild lane cut self => Sys2Proof.Machine.execErasureRebuild lane cut self s
  | .erasureVerify lane cut self => Sys2Proof.Machine.execErasureVerify lane cut self s
  | .keyLoadDek slot index gen => Sys2Proof.Machine.execKeyLoadDek slot index gen s
  | .keyLoadIntegrity slot index => Sys2Proof.Machine.execKeyLoadIntegrity slot index s
  | .keyLoadReplPeer slot index => Sys2Proof.Machine.execKeyLoadReplPeer slot index s
  | .keyLoadVault slot index => Sys2Proof.Machine.execKeyLoadVault slot index s
  | .keyZeroise slot => Sys2Proof.Machine.execKeyZeroise slot s
  | .keyImport domain blob unique => Sys2Proof.Machine.execKeyImport domain blob unique s
  | .keyTransferReceive entry integrity gen fromDev key chainOk => Sys2Proof.Machine.execKeyTransferReceive entry integrity gen fromDev key chainOk s
  | .rotationScanEntry nsid leaf i_ engine => Sys2Proof.Machine.execRotationScanEntry nsid leaf i_ engine s
  | .rotationEnd domain othersClear => Sys2Proof.Machine.execRotationEnd domain othersClear s
  | .mediaPageReadResult job i_ => Sys2Proof.Machine.execMediaPageReadResult job i_ s
  | .frameVerify job fault stage3 => Sys2Proof.Machine.execFrameVerify job fault stage3 s
  | .readKeyWaitEnd job => Sys2Proof.Machine.execReadKeyWaitEnd job s
  | .rebuildOnRead job bad fault => Sys2Proof.Machine.execRebuildOnRead job bad fault s
  | .frameFetchReceive dev gid tag kdom rebuild => Sys2Proof.Machine.execFrameFetchReceive dev gid tag kdom rebuild s
  | .frameReplyReceive tag result frame gte => Sys2Proof.Machine.execFrameReplyReceive tag result frame gte s
  | .frameFetchTimeout tag failed => Sys2Proof.Machine.execFrameFetchTimeout tag failed s
  | .repairReq rel tag fph square => Sys2Proof.Machine.execRepairReq rel tag fph square s
  | .repairAns tag result fmt payload => Sys2Proof.Machine.execRepairAns tag result fmt payload s
  | .repairTimeout tag => Sys2Proof.Machine.execRepairTimeout tag s
  | .checkpoint => Sys2Proof.Machine.execCheckpoint s
  | .segmentOpen pool kind => Sys2Proof.Machine.execSegmentOpen pool kind s
  | .segmentCloseShort seg => Sys2Proof.Machine.execSegmentCloseShort seg s
  | .gcSelect pool isMeta => Sys2Proof.Machine.execGcSelect pool isMeta s
  | .gcCopy e seg bad => Sys2Proof.Machine.execGcCopy e seg bad s
  | .gcMoveCommit row => Sys2Proof.Machine.execGcMoveCommit row s
  | .segDrain seg => Sys2Proof.Machine.execSegDrain seg s
  | .eraseGateRefuse member block => Sys2Proof.Machine.execEraseGateRefuse member block s
  | .segmentErase seg => Sys2Proof.Machine.execSegmentErase seg s
  | .blockRetire member block cause => Sys2Proof.Machine.execBlockRetire member block cause s
  | .retentionScrub seg steps => Sys2Proof.Machine.execRetentionScrub seg steps s
  | .powerFailDetect vinMv pfN halfUs => Sys2Proof.Machine.execPowerFailDetect vinMv pfN halfUs s
  | .flushChunks n => Sys2Proof.Machine.execFlushChunks n s
  | .flushManifestWritten ms => Sys2Proof.Machine.execFlushManifestWritten ms s
  | .laneEnable lanes => Sys2Proof.Machine.execLaneEnable lanes s
  | .laneDetect n load => Sys2Proof.Machine.execLaneDetect n load s
  | .laneTrainDone n locked => Sys2Proof.Machine.execLaneTrainDone n locked s
  | .hello n version port cmdCred dataCred => Sys2Proof.Machine.execHello n version port cmdCred dataCred s
  | .laneUpIdentify n adopt => Sys2Proof.Machine.execLaneUpIdentify n adopt s
  | .laneDown n => Sys2Proof.Machine.execLaneDown n s
  | .mdlTransactionFrame n seq crcOk typeOk lenOk => Sys2Proof.Machine.execMdlTransactionFrame n seq crcOk typeOk lenOk s
  | .mdlAck n seq => Sys2Proof.Machine.execMdlAck n seq s
  | .mdlNak n seq => Sys2Proof.Machine.execMdlNak n seq s
  | .mdlCredit n cmd data => Sys2Proof.Machine.execMdlCredit n cmd data s
  | .mdlKeep n => Sys2Proof.Machine.execMdlKeep n s
  | .mdlAckDelayExpire n => Sys2Proof.Machine.execMdlAckDelayExpire n s
  | .mdlReplayTimeout n => Sys2Proof.Machine.execMdlReplayTimeout n s
  | .mdlDeadTimeout n => Sys2Proof.Machine.execMdlDeadTimeout n s
  | .mdlKeepTimeout n => Sys2Proof.Machine.execMdlKeepTimeout n s
  | .laneRetrainDone n ok => Sys2Proof.Machine.execLaneRetrainDone n ok s
  | .mdlIdentify n r => Sys2Proof.Machine.execMdlIdentify n r s
  | .mdlHealth n r temp => Sys2Proof.Machine.execMdlHealth n r temp s
  | .mdlHealthTimer n => Sys2Proof.Machine.execMdlHealthTimer n s
  | .mdlBadList n r => Sys2Proof.Machine.execMdlBadList n r s
  | .mdlFenceRead n r => Sys2Proof.Machine.execMdlFenceRead n r s
  | .mdlFenceCas n r => Sys2Proof.Machine.execMdlFenceCas n r s
  | .mdlLoadTable n r => Sys2Proof.Machine.execMdlLoadTable n r s
  | .mdlRead n r unc => Sys2Proof.Machine.execMdlRead n r unc s
  | .mdlProgram n r ok => Sys2Proof.Machine.execMdlProgram n r ok s
  | .mdlErase n r ok => Sys2Proof.Machine.execMdlErase n r ok s
  | .mdlResponse n tag seen => Sys2Proof.Machine.execMdlResponse n tag seen s
  | .mdlCommandTimeout n tag => Sys2Proof.Machine.execMdlCommandTimeout n tag s
  | .plnReceive n => Sys2Proof.Machine.execPlnReceive n s
  | .plnClear => Sys2Proof.Machine.execPlnClear s
  | .mdlInjArm lane => Sys2Proof.Machine.execMdlInjArm lane s
  | .memberGraceExpire n => Sys2Proof.Machine.execMemberGraceExpire n s
  | .rebuildRow seg bad => Sys2Proof.Machine.execRebuildRow seg bad s
  | .rebuildCommit seg => Sys2Proof.Machine.execRebuildCommit seg s
  | .snapCreate sseq => Sys2Proof.Machine.execSnapCreate sseq s
  | .snapshotCutCommit => Sys2Proof.Machine.execSnapshotCutCommit s
  | .snapDelete sseq => Sys2Proof.Machine.execSnapDelete sseq s
  | .deleteWalk => Sys2Proof.Machine.execDeleteWalk s
  | .snapClone sseq => Sys2Proof.Machine.execSnapClone sseq s
  | .snapList sseq => Sys2Proof.Machine.execSnapList sseq s
  | .relBind sseq => Sys2Proof.Machine.execRelBind sseq s
  | .relPromote sseq => Sys2Proof.Machine.execRelPromote sseq s
  | .relResync sseq => Sys2Proof.Machine.execRelResync sseq s
  | .relUnbind sseq => Sys2Proof.Machine.execRelUnbind sseq s
  | .replicationPacketReceive port peer addr hdr body lensOk => Sys2Proof.Machine.execReplicationPacketReceive port peer addr hdr body lensOk s
  | .sessionOpen peer session blob => Sys2Proof.Machine.execSessionOpen peer session blob s
  | .sessionAck peer session result => Sys2Proof.Machine.execSessionAck peer session result s
  | .sessionRenew peer => Sys2Proof.Machine.execSessionRenew peer s
  | .relOpen peer rel remote size lbaf pi => Sys2Proof.Machine.execRelOpen peer rel remote size lbaf pi s
  | .relReply rel remote result => Sys2Proof.Machine.execRelReply rel remote result s
  | .replCycleStart rel => Sys2Proof.Machine.execReplCycleStart rel s
  | .deltaBegin rel sseq base => Sys2Proof.Machine.execDeltaBegin rel sseq base s
  | .fpOffer rel batch l => Sys2Proof.Machine.execFpOffer rel batch l s
  | .fpNeed rel batch bitmap => Sys2Proof.Machine.execFpNeed rel batch bitmap s
  | .granule rel square fmt payload => Sys2Proof.Machine.execGranule rel square fmt payload s
  | .deltaCommit rel sseq offered => Sys2Proof.Machine.execDeltaCommit rel sseq offered s
  | .deltaDone rel sseq target result => Sys2Proof.Machine.execDeltaDone rel sseq target result s
  | .streamRec rel head tsn anchor l => Sys2Proof.Machine.execStreamRec rel head tsn anchor l s
  | .streamAck rel head tsn => Sys2Proof.Machine.execStreamAck rel head tsn s
  | .anchorCut rel => Sys2Proof.Machine.execAnchorCut rel s
  | .rpoLagCheck rel => Sys2Proof.Machine.execRpoLagCheck rel s
  | .relSuspendedRetry => Sys2Proof.Machine.execRelSuspendedRetry s
  | .cdtRequestDoorbell cluster r prod => Sys2Proof.Machine.execCdtRequestDoorbell cluster r prod s
  | .cdtSend cut => Sys2Proof.Machine.execCdtSend cut s
  | .cdtWrite cut => Sys2Proof.Machine.execCdtWrite cut s
  | .cdtRead => Sys2Proof.Machine.execCdtRead s
  | .cdtAdd cut => Sys2Proof.Machine.execCdtAdd cut s
  | .cdtCas cut => Sys2Proof.Machine.execCdtCas cut s
  | .cdtSendReceive f => Sys2Proof.Machine.execCdtSendReceive f s
  | .cdtWriteReceive f mirror => Sys2Proof.Machine.execCdtWriteReceive f mirror s
  | .cdtReadReq f => Sys2Proof.Machine.execCdtReadReq f s
  | .cdtReadResp f => Sys2Proof.Machine.execCdtReadResp f s
  | .cdtAtomicReq f gte => Sys2Proof.Machine.execCdtAtomicReq f gte s
  | .cdtAtomicResp f => Sys2Proof.Machine.execCdtAtomicResp f s
  | .cdtAck f => Sys2Proof.Machine.execCdtAck f s
  | .cdtNak f => Sys2Proof.Machine.execCdtNak f s
  | .cdtAckDelayExpire src port => Sys2Proof.Machine.execCdtAckDelayExpire src port s
  | .cdtRetransmitTimeout dst port psn waited => Sys2Proof.Machine.execCdtRetransmitTimeout dst port psn waited s
  | .cdtMaxAgeExpire dst => Sys2Proof.Machine.execCdtMaxAgeExpire dst s
  | .cercoLinkDown p => Sys2Proof.Machine.execCercoLinkDown p s
  | .cercoLinkUp p => Sys2Proof.Machine.execCercoLinkUp p s
  | .pathExpire dev p => Sys2Proof.Machine.execPathExpire dev p s
  | .windowOpen => Sys2Proof.Machine.execWindowOpen s
  | .windowRevoke => Sys2Proof.Machine.execWindowRevoke s
  | .windowCoolingExpire i_ => Sys2Proof.Machine.execWindowCoolingExpire i_ s
  | .cdtInjArm => Sys2Proof.Machine.execCdtInjArm s
  | .beacon f => Sys2Proof.Machine.execBeacon f s
  | .alignReq f t2 t3 => Sys2Proof.Machine.execAlignReq f t2 t3 s
  | .alignResp f t4 cyc => Sys2Proof.Machine.execAlignResp f t4 cyc s
  | .heartbeat f => Sys2Proof.Machine.execHeartbeat f s
  | .heartbeatMissed => Sys2Proof.Machine.execHeartbeatMissed s
  | .peerFatalAssert lowNs => Sys2Proof.Machine.execPeerFatalAssert lowNs s
  | .digest m => Sys2Proof.Machine.execDigest m s
  | .recheckReq group window => Sys2Proof.Machine.execRecheckReq group window s
  | .recheckAns group window wrong => Sys2Proof.Machine.execRecheckAns group window wrong s
  | .resign cause tempo => Sys2Proof.Machine.execResign cause tempo s
  | .resignHoldEnd => Sys2Proof.Machine.execResignHoldEnd s
  | .claimDelayExpire => Sys2Proof.Machine.execClaimDelayExpire s
  | .claimRepeat => Sys2Proof.Machine.execClaimRepeat s
  | .casCmdClaim => Sys2Proof.Machine.execCasCmdClaim s
  | .casAnaApplyWrite v => Sys2Proof.Machine.execCasAnaApplyWrite v s
  | .ownerStage apply own0 own1 => Sys2Proof.Machine.execOwnerStage apply own0 own1 s
  | .plannedCastling => Sys2Proof.Machine.execPlannedCastling s
  | .plannedChangeTimeout => Sys2Proof.Machine.execPlannedChangeTimeout s
  | .rejoinReq boot => Sys2Proof.Machine.execRejoinReq boot s
  | .rejoinGrant covered saved => Sys2Proof.Machine.execRejoinGrant covered saved s
  | .oimValidate => Sys2Proof.Machine.execOimValidate s
  | .oimCommit good => Sys2Proof.Machine.execOimCommit good s
  | .mrExtend index => Sys2Proof.Machine.execMrExtend index s
  | .challengeNew => Sys2Proof.Machine.execChallengeNew s
  | .challengeLapse => Sys2Proof.Machine.execChallengeLapse s
  | .moveSubmit => Sys2Proof.Machine.execMoveSubmit s
  | .claimSubmit => Sys2Proof.Machine.execClaimSubmit s
  | .moveForwardReceive m => Sys2Proof.Machine.execMoveForwardReceive m s
  | .spdmGetVersion overlap => Sys2Proof.Machine.execSpdmGetVersion overlap s
  | .spdmGetCapabilities overlap => Sys2Proof.Machine.execSpdmGetCapabilities overlap s
  | .spdmNegotiateAlgorithms overlap common => Sys2Proof.Machine.execSpdmNegotiateAlgorithms overlap common s
  | .spdmGetDigests overlap => Sys2Proof.Machine.execSpdmGetDigests overlap s
  | .spdmGetCertificate overlap slot off len => Sys2Proof.Machine.execSpdmGetCertificate overlap slot off len s
  | .spdmChallenge overlap r => Sys2Proof.Machine.execSpdmChallenge overlap r s
  | .spdmGetMeasurements overlap index sign r => Sys2Proof.Machine.execSpdmGetMeasurements overlap index sign r s
  | .checkEscalate k => Sys2Proof.Machine.execCheckEscalate k s
  | .checkEntryClear k collide => Sys2Proof.Machine.execCheckEntryClear k collide s
  | .dcheckEntryClear j mgmt => Sys2Proof.Machine.execDcheckEntryClear j mgmt s
  | .ledgerRecordProgram eraseOk programOk => Sys2Proof.Machine.execLedgerRecordProgram eraseOk programOk s
  | .scrFreeze => Sys2Proof.Machine.execScrFreeze s
  | .scrUnfreeze => Sys2Proof.Machine.execScrUnfreeze s
  | .scrFreezeTimeout => Sys2Proof.Machine.execScrFreezeTimeout s
  | .scrWindowSelect source cursor => Sys2Proof.Machine.execScrWindowSelect source cursor s
  | .scrWindowNext => Sys2Proof.Machine.execScrWindowNext s
  | .fltInjArm => Sys2Proof.Machine.execFltInjArm s
  | .cmpInjArm lane => Sys2Proof.Machine.execCmpInjArm lane s
  | .digInjArm pipe => Sys2Proof.Machine.execDigInjArm pipe s
  | .cipInjArm lane => Sys2Proof.Machine.execCipInjArm lane s
  | .ersInjArm lane => Sys2Proof.Machine.execErsInjArm lane s
  | .levelRequest r lvl => Sys2Proof.Machine.execLevelRequest r lvl s
  | .levelRampDone r => Sys2Proof.Machine.execLevelRampDone r s
  | .adjWakeRequest r => Sys2Proof.Machine.execAdjWakeRequest r s
  | .adj1Request r => Sys2Proof.Machine.execAdj1Request r s
  | .adj2Request r => Sys2Proof.Machine.execAdj2Request r s
  | .adj3Request => Sys2Proof.Machine.execAdj3Request s
  | .adjEntryDone r => Sys2Proof.Machine.execAdjEntryDone r s
  | .adjWakeDone r => Sys2Proof.Machine.execAdjWakeDone r s
  | .wakeNAssert lowUs => Sys2Proof.Machine.execWakeNAssert lowUs s
  | .adj3WakeTimer sec => Sys2Proof.Machine.execAdj3WakeTimer sec s
  | .envelopeWrite watts => Sys2Proof.Machine.execEnvelopeWrite watts s
  | .throttleStep => Sys2Proof.Machine.execThrottleStep s
  | .glbReset key mgmt => Sys2Proof.Machine.execGlbReset key mgmt s
  | .glbTest mgmt => Sys2Proof.Machine.execGlbTest mgmt s
  | .registerWrite mgmt off size v hwSet => Sys2Proof.Machine.execRegisterWrite mgmt off size v hwSet s
  | .registerReadClear mgmt off size hwInc => Sys2Proof.Machine.execRegisterReadClear mgmt off size hwInc s
  | .ddrThermalPoll temps => Sys2Proof.Machine.execDdrThermalPoll temps s
  | .ddrPatrolLine ch line err sub => Sys2Proof.Machine.execDdrPatrolLine ch line err sub s
  | .ddrRefreshAll ch => Sys2Proof.Machine.execDdrRefreshAll ch s
  | .hostLinkDown p => Sys2Proof.Machine.execHostLinkDown p s
  | .hostLinkUp p => Sys2Proof.Machine.execHostLinkUp p s
  | .mdlHelloTimeout n => Sys2Proof.Machine.execMdlHelloTimeout n s
  | .vsbPresenceChange present => Sys2Proof.Machine.execVsbPresenceChange present s
  | .nvmeMiRequest req => Sys2Proof.Machine.execNvmeMiRequest req s

end Sys2Proof.Machine
end

