-- ==== Sys2Proof/Safety.lean ====
section
/-!
DEFINITION. What counts as a sound state of the block, in the terms the statements use.
-/

namespace Sys2Proof.Machine

/-- GLB_INTR_STAT shows the level of every block's interrupt (R625). -/
abbrev State.levelsShown (s : State) : Prop := rd Reg.GLB_INTR_STAT_LEVEL s.dev = intrLevels s.dev

/-- Between commands no reaction is owed. -/
abbrev State.settled (s : State) : Prop := s.dev.todo = []

/-- Every ledger of a flit's way takes a flit of a class at once: its counts agree with their complements, no resync runs, a credit and a
slot are free (R78, R79, R81). -/
abbrev wayFree (us : List Nat) (cls : Nat) (d : Dev) : Prop :=
  ∀ u ∈ us, let l := getLedger u cls d
    l.credits.ok 8 = true ∧ l.occ.ok 8 = true ∧ l.resync = false ∧ l.credits.val ≠ 0 ∧ l.occ.val < classDepth cls d

/-- The block acts and owes no reaction. -/
abbrev State.ready (s : State) : Prop := s.dev.live = true ∧ s.dev.todo = []

/-- A Check entry is free (R573). -/
abbrev State.checkRoom (s : State) : Prop := ∃ k < 64, rd (Reg.FLT_CHK_OPEN k) s.dev = 0

/-- A Double check entry is free (R578). -/
abbrev State.dcheckRoom (s : State) : Prop := ∃ j < 32, rd (Reg.FLT_DCHK_OPEN j) s.dev = 0

/-- A core runs and may execute the Xqsto instruction of a funct3 (R102). -/
abbrev mayRun (e f3 : Nat) (d : Dev) : Prop :=
  coreRuns e d = true ∧ ((getCore e d).user = true → f3 ≠ 6 → bitOf ((getCore e d).csr 0x7C0) f3 = true)

/-- A core's results are kept: an engine's always; the King pair's while the active unit is in service and no injection is armed on it
(R121, R124, R591). -/
abbrev coreKeeps (e : Nat) (d : Dev) : Prop :=
  e < 64 ∨ ((tget {} d.king.units (activeUnit d)).quar = false ∧ d.king.injUnit = none)

/-- A capsule from a host is accepted at once, in a record (R161, R501, R502): its context is open, nothing holds host commands back,
this head owns its path, a record is free; it is the host's own capsule and not the owning head's answer to one (R176). -/
abbrev capsuleTaken (op : NvmeOp) (c : HostCmd) (n : Nat) (d : Dev) : Prop :=
  glbState d ≠ 0 ∧ c.viaPeer = false ∧ c.answer = none ∧ (c.ctx = mgmtCtx ∨ (getCtx c.ctx d).opn = true) ∧ mustWait op c d = false ∧
  isForwarded op c d = false ∧ freeRecord d = some n ∧ (∀ k ∈ d.front.ctrls, n ∉ k.2.aers)

/-- Every check of Table 5.6 before row 9 passes, and changes nothing. -/
abbrev checksPass (op : NvmeOp) (c : HostCmd) (d : Dev) : Prop := checkCmd op c d = (0, d)

/-- A command has ended with a status: its completion is ready, and posted when nothing of the peer's is waited for (R166, R501). -/
def Ended (c : HostCmd) (n st dw0 : Nat) (d e : Dev) : Prop :=
  (∃ dnr, (getFc n e).ready = some (st, dnr) ∧ (alone d = true → Out.completion c.ctx c.cid st dnr dw0 ∈ e.out))

/-- A job of a pipeline at an accelerator runs on the lane that it has, or on every lane that it may be given: the region is awake, the lane
is in service and without an armed injection, and a compression lane holds its tokens (R16, R90, R259, R261, R651). -/
abbrev pipeReady (k : Nat) (w : PipeFor) (d : Dev) : Prop :=
  let ls := match (pipeOf k w d).bind (·.lane) with
    | some n => [n]
    | none => pipeLanes k ((pipeOf k w d).bind (·.failed)) d
  regionQuar 9 d = false ∧ rd (Reg.PWR_LVL_ASTATE 9) d = 0 ∧ ls ≠ [] ∧
    ∀ n ∈ ls, (getLane k n d).quar = false ∧ (rdb (accInjArm k) d && rd (accInjLane k) d == n) = false ∧ (k = 4 → hasGrant (.compLane n) 4 d = true)

/-- A peer acknowledges this head's records, and none that has committed waits to be applied (R221, R222). -/
abbrev journalQuiet (d : Dev) : Prop :=
  (∀ p, aloneFor p d = false) ∧ ∀ r ∈ d.stg.journal, r.tsn = d.md.tsnOwn + 1 → r.committed = false

/-- A lane of an accelerator runs its slice and holds a descriptor (R257, R258), and no injection is armed. -/
abbrev laneHolds (k n r i : Nat) (d : Dev) : Prop :=
  (getLane k n d).running = true ∧ rd (Reg.PWR_LVL_ASTATE 9) d = 0 ∧ (getLane k n d).job = some (r, i) ∧
  rdb (accInjArm k) d = false

/-- Requesters that take a read's result from its job by a command of their own: a merge, a comparison, a re-encryption. -/
def keepsResult : ReadWho → Bool
  | .merge _ | .compare _ | .rekey => true
  | _ => false

/-- The input of a job, from its buffer or from the fragments of its gather list. -/
abbrev jobBytes (sgl : Bool) (addr len : Nat) (d : Dev) : Bytes :=
  ((((jobInput sgl addr len d).getD []).flatMap fun f => memRead d f.1 f.2)).take len

/-- The input of a job is as long as declared, and no word of memory carries an error or, in the input, poison (R91, R92, R264). -/
abbrev jobClean (sgl : Bool) (addr len : Nat) (d : Dev) : Prop :=
  d.fab.flips = [] ∧ fragTotal ((jobInput sgl addr len d).getD []) = len ∧
    ∀ f ∈ (jobInput sgl addr len d).getD [], rangePoisoned f.1 f.2 d = false

/-- A job has ended: its STATUS and XFLAGS stand in the descriptor, and it is counted (R256, R286). -/
def JobEnded (k r i status xflags : Nat) (d e : Dev) : Prop :=
  (memByte e (descAddr k r i d + accStatus k)).toNat = status ∧ (memByte e (descAddr k r i d + accStatus k + 1)).toNat = xflags ∧
  (rd (accJobs k) d + 1 < 2 ^ (accJobs k).width → rd (accJobs k) e = rd (accJobs k) d + 1)

/-- Two ranges of memory share no byte. -/
abbrev rangesApart (a n b m : Nat) : Prop := a + n ≤ b ∨ b + m ≤ a

/-- The registers that creating internal messages writes (R492): three counters, and the injection that a packet spends (R472). -/
def messageRegs : List Nat :=
  [Reg.CDT_OUT_COUNT.off, Reg.CDT_SENT_COUNT.off, Reg.CDT_FAILED_COUNT.off, Reg.CDT_INJ_ARM.off]

/-- The registers that settling writes: the interrupt levels (R625) and the pending bits of the MSI-X table (R627). -/
def settleRegs : List Nat := [Reg.GLB_INTR_STAT_LEVEL.off, msixPba.off]

/-- The registers that may move at the end of any command, whatever it does: messages that waited for the transport are sent
as soon as they can be (R480, R652), and the interrupt levels are brought up to date (R625, R627). -/
def ambientRegs : List Nat := messageRegs ++ settleRegs

/-- Every register but those listed, and those that may move at the end of any command, reads as before. -/
def RegsKept (but : List Nat) (d e : Dev) : Prop :=
  ∀ o, o ∉ but → o ∉ ambientRegs → rdReg o e = rdReg o d

/-- Every byte of memory reads as before. -/
def MemKept (d e : Dev) : Prop := ∀ a, memByte e a = memByte d a

/-- The command is carried out: it answers a next state, leaves the queue as it is, and the device is then as `P` says. -/
def Answers (c : Instr) (s : State) (P : Dev → Prop) : Prop :=
  ∃ t, exec c s = .next t ∧ t.pending = s.pending ∧ P t.dev

/-- The commands that owe no reaction of another block, store nothing to memory, and leave the fuses, the flashes, the keys and the pins as they
are: the blocks of BAR0 (R615, by block number) whose registers each may write. -/
def blocksTouched (c : Instr) : Option (List Nat) :=
  match c with
  | .perstNAssert | .accelSliceBudgetEnd _ _ | .alignExchangeMissed | .digestSend | .ppsOutWidthEnd _ | .requestAgeRaise _ _
  | .cutNoticeReceive _ _ | .pfcPauseRefresh _ | .cnpReceive _ | .rateRaise | .mirrorWriteFailed _ _ | .rowAgeExpire _
  | .indexProbeReceive _ _ _ _ | .mdlKeep _ | .mdlIdentify _ _ | .mdlHealth _ _ _ | .mdlBadList _ _ | .mdlFenceRead _ _
  | .mdlFenceCas _ _ | .mdlLoadTable _ _ | .mdlRead _ _ _ | .mdlProgram _ _ _ | .mdlErase _ _ _ | .plnClear | .replCycleStart _
  | .deltaBegin _ _ _ | .deltaCommit _ _ _ | .anchorCut _ | .peerFatalAssert _ | .plannedCastling | .spdmGetVersion _
  | .spdmGetCapabilities _ | .spdmNegotiateAlgorithms _ _ | .spdmGetDigests _ | .spdmGetCertificate _ _ _ _ | .spdmChallenge _ _
  | .spdmGetMeasurements _ _ _ _ | .glbReset _ _ | .glbTest _ | .ddrRefreshAll _ | .nvmeMiRequest _ => some []
  | .ppsInEdge _ | .tmpSnapTake _ | .tempoStep _ | .tmpFadjWrite _ _ | .tmpPadjWrite _ _ => some [0x01]
  | .fabInjArm => some [0x02]
  | .levelRampDone _ | .envelopeWrite _ => some [0x03]
  | .qcrc64 e _ _ _ _ | .qtempoSnapshot e _ _ | .qtempoSeconds e _ | .qtempoNanoseconds e _ | .qtempoCyclesToEdge e _ _
  | .qptokRequest e _ _ | .qptokQuery e _ => if e.val < 64 then some [0x04] else none
  | .dcheckEntryClear _ _ | .fltInjArm => some [0x04]
  | .scrFreeze | .scrUnfreeze | .scrFreezeTimeout | .scrWindowSelect _ _ | .scrWindowNext => some [0x05]
  | .mrExtend _ | .challengeNew | .challengeLapse => some [0x06]
  | .rangeOpDone _ | .l2LockWrite _ _ | .l2DrainStart _ | .l2Enable _ => some [0x10, 0x11, 0x12, 0x13, 0x14, 0x15, 0x16, 0x17]
  | .filterRebuildDone | .fiuOwnApplyWrite _ | .ownerScrub _ => some [0x24]
  | .fabricsConnect _ | .completionDelivered _ | .snapCreate _ | .snapDelete _ | .relResync _ | .relReply _ _ _ => some [0x30]
  | .hostLinkRetrain _ | .hostLinkDown _ | .hostLinkUp _ => some [0x32]
  | .flushChunks _ | .laneDetect _ _ | .laneTrainDone _ _ | .mdlTransactionFrame _ _ _ _ _ | .mdlAckDelayExpire _
  | .mdlKeepTimeout _ | .mdlInjArm _ | .mdlHelloTimeout _ => some [0x34]
  | .periodicAlignExchange _ | .beaconSend | .heartbeatSend | .cdtRequestDoorbell _ _ _ | .cdtAckDelayExpire _ _ | .windowRevoke
  | .cdtInjArm => some [0x36]
  | .ddrThermalPoll _ => some [0x38]
  | .casAnaApplyWrite _ | .ownerStage _ _ _ => some [0x3C]
  | .adjWakeDone _ => some [0x02, 0x03]
  | .creditResyncDone _ _ _ _ => some [0x02, 0x04]
  | .checkEntryClear _ _ => some [0x04, 0x05]
  | .mergeReadResult _ => some [0x04, 0x05, 0x20, 0x21, 0x22, 0x23]
  | .qyieldComplete e | .qyieldDefer e => if e.val < 64 then some [0x04, 0x10, 0x11, 0x12, 0x13, 0x14, 0x15, 0x16, 0x17] else none
  | .gcSelect _ _ => some [0x23, 0x34]
  | .peerRecordApply => some [0x24, 0x34]
  | .slotAdmitWait | .writeDataLand _ _ _ => some [0x30, 0x32]
  | .plannedChangeTimeout => some [0x32, 0x3C]
  | .offsetSample _ _ | .offsetSampleTimeout _ => some [0x01, 0x04, 0x05]
  | .levelRequest _ _ | .adjWakeRequest _ | .adj1Request _ | .adj2Request _ | .adj3Request | .throttleStep => some [0x03, 0x04, 0x05]
  | .engineTakeSlice _ => some [0x04, 0x05, 0x10, 0x11, 0x12, 0x13, 0x14, 0x15, 0x16, 0x17]
  | .cercoLinkUp _ | .pathExpire _ _ | .alignReq _ _ _ => some [0x04, 0x05, 0x36]
  | .contextFetchDone _ | .fabricsDisconnect _ | .keepAliveExpire _ _ | .transportConnectionLoss _ => some [0x08, 0x30, 0x32]
  | .resignHoldEnd => some [0x00, 0x08, 0x30, 0x32]
  | .cmpInjArm _ | .digInjArm _ | .cipInjArm _ | .ersInjArm _ => some [0x20, 0x21, 0x22, 0x23]
  | .rejoinGrant _ _ => some [0x24, 0x32, 0x34, 0x3C]
  | .powerFailDetect _ _ _ => some [0x03, 0x04, 0x05, 0x32, 0x34]
  | .hostFrameReceive _ _ | .activationRelease _ => some [0x04, 0x05, 0x08, 0x30, 0x32]
  | .qdoor e _ _ _ _ => if e.val < 64 then some [0x03, 0x04, 0x20, 0x21, 0x22, 0x23] else none
  | _ => none

/-- The other commands that owe no reaction where no word of memory carries an error: they may store to memory. -/
def storesPlainly (c : Instr) : Bool :=
  match c with
  | .qprobe _ _ _ _ | .qcas128 _ _ _ _ | .rangeWriteback _ | .rangeInvalidate _ | .rangePreload _ _ | .cdtReadReq _
  | .fiuRemove _ _ | .snapList _ | .cdtSend _ | .cdtWrite _ | .cdtRead | .cdtAdd _ | .cdtCas _ | .cdtSendReceive _
  | .cdtWriteReceive _ _ | .cdtReadResp _ | .cdtAtomicReq _ _ | .cdtAtomicResp _ | .cdtAck _ | .cdtNak _
  | .cdtRetransmitTimeout _ _ _ _ | .cdtMaxAgeExpire _ | .cercoLinkDown _ | .windowOpen | .windowCoolingExpire _ => true
  | .l2DrainDone _ errs => errs.isEmpty
  | _ => false

/-- No word of the pool carries an error in its check bits, and none is armed (R94, R591). -/
abbrev errorFree (d : Dev) : Prop := d.fab.flips = [] ∧ d.flt.inj = none

/-- The commands that may reset the device (R57, R538, R597, R633). -/
def resetsDevice (c : Instr) : Bool :=
  match c with
  | .adj3WakeTimer _ | .flushManifestWritten _ | .powerGood | .resetNAssert _ | .tempoEdge _ | .wakeNAssert _ => true
  | _ => false

/-- The commands that may write a cluster's L2 (R125–R139). -/
def writesL2 (c : Instr) : Bool :=
  match c with
  | .adjEntryDone _ | .engineInstruction _ _ _ _ _ _ _ | .engineLoadStore _ _ _ _ _ _ _ _ _ | .l2DrainDone _ _ | .l2DrainStart _ | .l2Enable _
  | .qcas128 _ _ _ _ | .rangeInvalidate _ | .rangeOpDone _ | .rangePreload _ _ | .rangeWriteback _ | .writeDataArrive _ _ _
  | .kingMismatch _ _ _ _ | .kingSelfTestDone _ _ _ _ => true
  | _ => false

/-- The commands that may move an engine's task ring (R117, R118, R628). -/
def writesTaskRing (c : Instr) : Bool :=
  match c with
  | .engineInstruction _ _ _ _ _ _ _ | .engineTakeSlice _ | .fiuInsert _ _ | .fiuRemove _ _ | .qdoor _ _ _ _ _ | .commandRecordWait
  | .propertyGet _ | .propertySet _ | .identify _ | .getLogPage _ | .setFeatures _ | .getFeatures _ | .asyncEventRequest _ | .keepAlive _
  | .abort _ | .namespaceManagement _ | .namespaceAttachment _ | .firmwareImageDownload _ | .firmwareCommitSlot _
  | .firmwareCommitSlotNext _ | .firmwareCommitNext _ | .firmwareCommitActivate _ | .nvmeRead _ | .nvmeWrite _ | .nvmeCompare _
  | .nvmeVerify _ | .writeZeroes _ | .flush _ | .datasetManagement _ | .reservationRegister _ | .reservationReport _
  | .reservationAcquire _ | .reservationRelease _ => true
  | _ => false

/-- The commands that may write a compression stream (R270, R271). -/
def writesStream (c : Instr) : Bool :=
  match c with
  | .compressContinue _ _ _ | .compressOneshot _ _ _ | .compressStart _ _ _ | .decompress _ _ _ => true
  | _ => false

end Sys2Proof.Machine
end

