-- ==== Sys2Proof/WellFormed.lean ====
section
/-!
DEFINITION. Which terms of `Instr` are commands at all: operands that are plain numbers or lists here fit the field, the flit, the
capsule or the sample that carries them. `exec` does not rest on it: it gives every term a meaning.
-/

namespace Sys2Proof

/-- A capsule's numbers fit the fields of an NVMe command (Table 5.4's commands): the context table's index or the management endpoint's, a 16-bit
command identifier, one of eight priorities, a 32-bit NSID, a 64-bit first block, a 16-bit count. -/
def HostCmd.wf (c : HostCmd) : Bool :=
  c.ctx ≤ 262144 && c.cid < 2 ^ 16 && c.prio < 8 && c.nsid < 2 ^ 32 && c.slba < 2 ^ 64 && c.nlb < 2 ^ 16

/-- A packet's numbers fit the CDT header (Table 15.1): one of four ports, device numbers, PSN and MSN, the length of the payload. -/
def CdtFrame.wf (f : CdtFrame) : Bool :=
  f.port < 4 && f.hdr.type < 2 ^ 8 && f.hdr.src < 2 ^ 8 && f.hdr.dst < 2 ^ 8 && f.hdr.psn < 2 ^ 32 && f.hdr.msn < 2 ^ 32 && f.hdr.len < 2 ^ 16

/-- The operands are within what the command can carry. -/
def Instr.wf : Instr → Bool
  | .tempoEdge e => e.temps.length == 12 && e.mv.length == 12
  | .writeDataArrive _ _ data => data.length ≤ 64
  | .bufferLedgerAudit poolErr missErr => poolErr.length == 7 && missErr.length == 32
  | .indexProbeReceive _ fp _ _ => fp.length == 32
  | .keyTransferReceive _ _ _ _ key _ => key.length == 32
  | .hello _ version port cmdCred dataCred => version < 2 ^ 16 && port < 2 ^ 8 && cmdCred < 2 ^ 16 && dataCred < 2 ^ 16
  | .mdlCredit _ cmd data => cmd < 2 ^ 32 && data < 2 ^ 32
  | .replicationPacketReceive _ _ addr _ _ _ => addr.length == 16
  | .registerWrite _ _ size _ _ => size ≤ 64
  | .registerReadClear _ _ size _ => size ≤ 64
  | .fabricsDisconnect c | .propertyGet c | .propertySet c | .identify c | .getLogPage c | .setFeatures c | .getFeatures c
  | .asyncEventRequest c | .keepAlive c | .abort c | .namespaceManagement c | .namespaceAttachment c | .firmwareImageDownload c
  | .firmwareCommitSlot c | .firmwareCommitSlotNext c | .firmwareCommitNext c | .firmwareCommitActivate c | .nvmeRead c | .nvmeWrite c
  | .nvmeCompare c | .nvmeVerify c | .writeZeroes c | .flush c | .datasetManagement c | .reservationRegister c | .reservationReport c
  | .reservationAcquire c | .reservationRelease c => c.wf
  | .cdtSendReceive f | .cdtReadReq f | .cdtReadResp f | .cdtAtomicResp f | .cdtAck f | .cdtNak f | .beacon f | .heartbeat f => f.wf
  | .cdtWriteReceive f _ | .cdtAtomicReq f _ => f.wf
  | .alignReq f _ _ | .alignResp f _ _ => f.wf
  | _ => true

end Sys2Proof
end

