-- ==== Sys2Proof/Certificates/Slice0/Obligations.lean ====
section
/-! DEFINITION. The statements for the provers: what commands do, what they leave alone, and what every step keeps. -/

open Sys2Proof Sys2Proof.Machine

/-- A step runs the command at the front of the queue on the queue's rest. For every state and command: with the command at the
front of the queue, a step answers what exec answers on the state with the queue's rest; on an empty queue the block idles,
which is the model's choice (assumption log). (spec/01_head_architecture.md, How the blocks lean on one another;
spec/22_register_index.md, Rules of access; R619) -/
def Obligations.StepRunsFront : Prop :=
  (∀ (s : State) (c : Instr) (q : List Instr), step { s with pending := c :: q } = exec c { s with pending := q }) ∧
  (∀ d : Dev, step ⟨d, []⟩ = .next ⟨d, []⟩)

/-- The machine after reset: START-UP, memory empty, the registers at the values their tables state, both invariants hold.
State.reset waits for no command, owes no reaction, shows the levels of every interrupt and holds empty memory in canonical
form; the device acts, in START-UP, with no Check and no challenge, FATAL_N and PWRCYC_REQ_N high; and a selection of registers
from every group of blocks reads the reset value of its table. (spec/22_register_index.md, Global and identity registers;
spec/20_scoresheet_and_faults.md, SCR registers; spec/21_power_management.md, PWR registers; spec/23_electrical_and_package.md,
DDR5; R12; R536; R550) -/
def Obligations.ResetLeavesTheTables : Prop :=
  let d := State.reset.dev
  State.reset.pending = [] ∧ State.reset.ready ∧ State.reset.levelsShown ∧ d.mem = [] ∧ memWf d.mem = true ∧ glbState d = 0 ∧
  d.sxc.challenge = none ∧ d.flt.checkmateIn = none ∧ d.pins.fatalN = true ∧ d.pins.pwrcycReqN = true ∧
  (∀ k < 64, rdb (Reg.FLT_CHK_OPEN k) d = false) ∧ (∀ j < 32, rdb (Reg.FLT_DCHK_OPEN j) d = false) ∧
  (∀ x ∈ [(Reg.GLB_ID_PART, 0x8960), (Reg.GLB_ID_REV_MAJ, 0xB), (Reg.GLB_ID_REV_MIN, 1), (Reg.GLB_STATE_RCAUSE, 0),
      (Reg.SCR_CTRL_FREEZE_MAX, 100), (Reg.SCR_CTRL_RATE_DEF, 8), (Reg.SCR_CTRL_WINDOW, 1000), (Reg.SCR_CTRL_FREEZE, 0), (Reg.SCR_SEQ_NEXT, 0),
      (Reg.PWR_CTRL_THROTTLE_EN, 1), (Reg.PWR_PF_PF_MV, 10800), (Reg.PWR_PF_DEB, 4), (Reg.PWR_PF_TT_ENV, 150), (Reg.PWR_PF_PF_SRC, 0),
      (Reg.PWR_THERM_WARN, 100), (Reg.PWR_THERM_THROTTLE, 105), (Reg.PWR_THERM_TRIP, 120), (Reg.DDR_CTRL_PATROL_EN, 1), (Reg.SXC_STATUS_CLAIMED, 0),
      (Reg.OIM_CMD_ST_RESULT, 0), (Reg.FWU_STATUS_ACTIVE, 0), (Reg.GLB_INTR_HOST_EN, 0)], rd x.1 d = x.2) ∧
  (∀ r < 12, rd (Reg.PWR_LVL_REQ r) d = 5 ∧ rd (Reg.PWR_LVL_LVL r) d = 2 ∧ rd (Reg.PWR_LVL_ASTATE r) d = 0) ∧
  (∀ n < 16, ∀ j < 6, rd (Reg.SXC_MR_WORD n j) d = 0)

/-- Every command completes, shows the interrupt levels and leaves no reaction owed; a step takes exactly the front of the queue.
For every state in which GLB_INTR_STAT shows the level of every block's interrupt and no reaction is owed, and every next state
of a step: it shows the levels again, owes no reaction, and its queue is the rest of the queue before. Every command, with any
operands, answers a next state from every state, with the first two and the queue as it was: the spec gives none a stop. That
they hold after reset is part of ResetLeavesTheTables. (spec/22_register_index.md, Interrupts; R625) -/
def Obligations.EveryStepSettles : Prop :=
  (∀ s t : State, s.levelsShown → s.settled → step s = .next t → t.levelsShown ∧ t.settled ∧ t.pending = s.pending.tail) ∧
  (∀ (c : Instr) (s : State), ∃ t, exec c s = .next t ∧ t.levelsShown ∧ t.settled ∧ t.pending = s.pending)

/-- A Checkmate raised in SERVICE stands until VIN is removed, and every other command leaves the stopped device as it is. For every
settled state outside ADJ3 with a Checkmate raised in SERVICE: every command but the removal of VIN answers a next state in
which that Checkmate still stands, DRAM, the engines, the accelerators, the resident keys, the staging slots, the metadata and
the device's state are as before, and FATAL_N and PWRCYC_REQ_N are as before as long as VIN or VSB is present; a run of any
commands without a removal of VIN and without a change of VSB therefore stays in it. The removal of VIN ends it.
(spec/20_scoresheet_and_faults.md, Checkmate; R580; R582; R623; R635; R648) -/
def Obligations.ServiceCheckmateStands : Prop :=
  (∀ (c : Instr) (s : State), s.settled → s.dev.flt.checkmateIn = some 1 → s.dev.pwr.adj3 = false → c ≠ .vinRemoved →
    Answers c s fun d => d.flt.checkmateIn = some 1 ∧ d.pwr.adj3 = false ∧ d.live = false ∧ MemKept s.dev d ∧ d.engines = s.dev.engines ∧
      d.accels = s.dev.accels ∧ d.keys = s.dev.keys ∧ d.stg = s.dev.stg ∧ d.md = s.dev.md ∧ glbState d = glbState s.dev ∧
      ((∀ p, c ≠ .vsbPresenceChange p) → d.pins.fatalN = s.dev.pins.fatalN ∧ d.pins.pwrcycReqN = s.dev.pins.pwrcycReqN)) ∧
  (∀ s : State, s.settled → Answers .vinRemoved s fun d => d.flt.checkmateIn = none)

/-- The commands that owe no reaction write registers of their own blocks alone, store nothing, and keep fuses, flashes, keys and
pins. For every settled state and each command that blocksTouched lists, whatever its operands: it answers a next state in which
every byte of memory reads as before, every register of a block that is not listed for it reads as before (but for the interrupt
levels, the pending bits of MSI-X and the counters of messages that waited for the transport, which any command's end may move),
and the fuses and flashes, the resident and wrapped keys and the pins are unchanged. (spec/22_register_index.md, Block map;
spec/00_scope.md, Notation; R8; R615; R619) -/
def Obligations.QuietCommandsKeepTheRest : Prop :=
  ∀ (s : State) (c : Instr) (bs : List Nat), s.settled → blocksTouched c = some bs → Answers c s fun d =>
    MemKept s.dev d ∧ d.pins = s.dev.pins ∧ d.nv = s.dev.nv ∧ d.keys = s.dev.keys ∧
      ∀ o, o / 0x100000 ∉ bs → o ∉ ambientRegs → rdReg o d = rdReg o s.dev

/-- Commands that owe no reaction keep the memory in its canonical form, those that store to it included. For every settled state
whose memory is in canonical form (addresses strictly rising, no entry equal to what an unlisted address reads as) and each
command that blocksTouched lists, or that storesPlainly lists where no word of the pool carries an error and no injection is
armed: it answers a next state whose memory is in canonical form. The form of the memory is the model's (assumption log).
(spec/04_data_engines.md, QCAS128 — 128-bit compare-and-swap; spec/00_scope.md, Notation; R7) -/
def Obligations.MemoryStaysCanonical : Prop :=
  ∀ (s : State) (c : Instr), s.settled → memWf s.dev.mem = true → (blocksTouched c ≠ none ∨ (storesPlainly c = true ∧ errorFree s.dev)) →
    Answers c s fun d => memWf d.mem = true

/-- Fuses, ledgers, image regions, cluster L2s, task rings and compression streams are written by their own commands alone. For
every state and every command that answers a next state: the serial number, the Device Root Key, the fused image keys and the
two straps are as before; the claim fuses but for CLAIM_SUBMIT, which burns at most one; the epoch fuses but for START_UP, which
burns at most one of 255; the Boot Record slots but for START_UP and BOOT_RECORD_WRITE; the persistent Scoresheet ledger but for
LEDGER_RECORD_PROGRAM; the Opening Image regions but for OIM_COMMIT; the slot active before but for START_UP and
ACTIVATION_IDLE_DEADLINE. The resets and the power commands keep them all. But for the commands that reset the device: a
cluster's L2 changes only by an engine's or a King unit's access, a range operation, a write's data, a King unit's mismatch and
self-test, a drain, an enable or the end of an adjournment's entry; a task ring only by a doorbell, an engine's instruction, an
engine taking a slice, a fingerprint job's answer and a host command given to its engine; a compression stream only by its
lanes' jobs. (spec/04_data_engines.md, The cluster L2; spec/04_data_engines.md, Task queues and slices;
spec/08_compression_and_digest.md, Streams, flush and resumption; spec/18_boot_and_attestation.md, The Boot Record and its
chain; spec/18_boot_and_attestation.md, Claiming and officers; spec/17_opening_image.md, Committing a new image;
spec/20_scoresheet_and_faults.md, The volatile ring and the persistent ledger) -/
def Obligations.StoresHaveFewWriters : Prop :=
  ∀ (c : Instr) (s t : State), exec c s = .next t →
    let n := s.dev.nv
    let m := t.dev.nv
    (m.serial = n.serial ∧ m.drk = n.drk ∧ m.oimKey = n.oimKey ∧ m.fwKey = n.fwKey ∧ m.headSel = n.headSel ∧ m.claimN = n.claimN) ∧
    (c ≠ .claimSubmit → m.claimFuses = n.claimFuses) ∧
    (m.claimFuses = n.claimFuses ∨ m.claimFuses = min 15 (n.claimFuses + 1)) ∧
    ((∀ b, c ≠ .startUp b) → m.epochFuses = n.epochFuses) ∧
    (m.epochFuses = n.epochFuses ∨ (m.epochFuses = n.epochFuses + 1 ∧ n.epochFuses < 255)) ∧
    ((∀ b, c ≠ .startUp b) → (∀ g, c ≠ .bootRecordWrite g) → m.bootSlots = n.bootSlots ∧ m.bootSigned = n.bootSigned) ∧
    ((∀ g h, c ≠ .ledgerRecordProgram g h) → m.scrLedger = n.scrLedger) ∧
    ((∀ g, c ≠ .oimCommit g) → m.oim = n.oim) ∧
    ((∀ b, c ≠ .startUp b) → c ≠ .activationIdleDeadline → m.fwPrev = n.fwPrev) ∧
    (resetsDevice c = false → (writesL2 c = false → t.dev.l2s = s.dev.l2s) ∧ (writesTaskRing c = false → t.dev.taskRings = s.dev.taskRings) ∧
      (writesStream c = false → t.dev.cmpStreams = s.dev.cmpStreams))

/-- The captures, the step and the corrections of tempo time carry out what their registers say. For every ready state:
TMP_SNAP_TAKE captures number, seconds and nanoseconds of one cycle; TEMPO_STEP in START-UP sets tempo time to TMP_SET_SEC and
TMP_SET_NS and recomputes the tempo number, and outside START-UP changes no time; TMP_FADJ_WRITE keeps a value within
±500,000,000 and leaves TMP_FADJ alone for any other; TMP_PADJ_WRITE replaces the pending slew; neither moves the time already
passed in the tempo; PPS_IN_EDGE captures the nanoseconds; PPS_OUT_WIDTH_END at PPS_WIDTH ms drives PPS_OUT low (while the King
pair's outputs are held the ball keeps its level, the model's reading of R125, assumption log 141). Commands that it shows to
complete: ppsOutWidthEnd, ppsInEdge, tmpSnapTake, tempoStep, tmpFadjWrite, tmpPadjWrite. (spec/02_tempo.md, Tempo time;
spec/02_tempo.md, Discipline to IEEE 1588; spec/02_tempo.md, TMP registers) -/
def Obligations.TempoTimeCommands : Prop :=
  ∀ s : State, s.ready →
    (∀ cyc, Answers (.tmpSnapTake cyc) s fun d =>
      rd Reg.TMP_SNAP_NUM_NUMBER d = tempoNow s.dev ∧ rd Reg.TMP_SNAP_SEC_SEC d = (timeAt cyc s.dev).1 ∧
      rd Reg.TMP_SNAP_NS_NS d = (timeAt cyc s.dev).2) ∧
    (∀ cyc, glbState s.dev = 0 → Answers (.tempoStep cyc) s fun d =>
      d.tmp.sec = rd Reg.TMP_SET_SEC_SEC s.dev ∧ d.tmp.ns = rd Reg.TMP_SET_NS_NS s.dev ∧
      tempoNow d = tempoNumber d.tmp.sec d.tmp.ns (periodNs s.dev)) ∧
    (∀ cyc, glbState s.dev ≠ 0 → Answers (.tempoStep cyc) s fun d => d.tmp = s.dev.tmp ∧ tempoNow d = tempoNow s.dev) ∧
    (∀ (v : BitVec 32) (cyc : Nat), Answers (.tmpFadjWrite v cyc) s fun d =>
      rd Reg.TMP_FADJ_FADJ d = (if v.toInt.natAbs ≤ 500000000 then v.toNat else rd Reg.TMP_FADJ_FADJ s.dev) ∧
      (s.dev.tmp.atCyc ≤ cyc + 1 → timeAt (cyc + 1) d = timeAt (cyc + 1) s.dev)) ∧
    (∀ (v : BitVec 32) (cyc : Nat), Answers (.tmpPadjWrite v cyc) s fun d =>
      rd Reg.TMP_PADJ_PADJ d = v.toNat ∧ d.tmp.padjFs = v.toInt * 1000000 ∧
      (s.dev.tmp.atCyc ≤ cyc + 1 → timeAt (cyc + 1) d = timeAt (cyc + 1) s.dev)) ∧
    (∀ cyc, Answers (.ppsInEdge cyc) s fun d => rd Reg.TMP_PPS_CAPT_NS d = (timeAt cyc s.dev).2) ∧
    (∀ ms, s.dev.tmp.ppsOut = true → rd Reg.TMP_CTRL_PPS_WIDTH s.dev ≤ ms →
      Answers (.ppsOutWidthEnd ms) s fun d =>
        d.tmp.ppsOut = false ∧ (s.dev.king.held = false → Out.pin .ppsOut false ∈ d.out))

/-- The captures and corrections of tempo time change their own registers, and no byte of memory. When TMP_SNAP_TAKE,
TMP_FADJ_WRITE, TMP_PADJ_WRITE or PPS_IN_EDGE answers a next state, every register but its own (and those that may move at the
end of any command) reads as before, every byte of memory reads as before, and tempo time stands; the two corrections also count
the time of the tempo so far and the slew it used. Commands that it shows to complete: ppsInEdge, tmpSnapTake, tmpFadjWrite,
tmpPadjWrite. (spec/02_tempo.md, Tempo time; spec/02_tempo.md, TMP registers) -/
def Obligations.TempoCommandsFrame : Prop :=
  ∀ s t : State, s.settled →
    (∀ cyc, exec (.tmpSnapTake cyc) s = .next t →
      RegsKept [Reg.TMP_SNAP_NUM_NUMBER.off, Reg.TMP_SNAP_SEC_SEC.off, Reg.TMP_SNAP_NS_NS.off] s.dev t.dev ∧
      MemKept s.dev t.dev ∧ t.dev.tmp = s.dev.tmp) ∧
    (∀ v cyc, exec (.tmpFadjWrite v cyc) s = .next t →
      RegsKept [Reg.TMP_FADJ_FADJ.off] s.dev t.dev ∧ MemKept s.dev t.dev ∧
      t.dev.tmp = { s.dev.tmp with atFs := t.dev.tmp.atFs, atCyc := t.dev.tmp.atCyc, padjFs := t.dev.tmp.padjFs }) ∧
    (∀ v cyc, exec (.tmpPadjWrite v cyc) s = .next t →
      RegsKept [Reg.TMP_PADJ_PADJ.off] s.dev t.dev ∧ MemKept s.dev t.dev ∧
      t.dev.tmp = { s.dev.tmp with atFs := t.dev.tmp.atFs, atCyc := t.dev.tmp.atCyc, padjFs := t.dev.tmp.padjFs }) ∧
    (∀ cyc, exec (.ppsInEdge cyc) s = .next t →
      RegsKept [Reg.TMP_PPS_CAPT_NS.off] s.dev t.dev ∧ MemKept s.dev t.dev ∧ t.dev.tmp = s.dev.tmp)

/-- The sixteenth sample in a row within the threshold sets LOCK; the fourth in a row outside it, or 3 s without one, clears it. For
every ready state: every OFFSET_SAMPLE is taken with its time; one within ±LOCK_THR lengthens the run inside and ends the run
outside, and the sixteenth in a row sets LOCK and clears HOLDOVER; one outside it lengthens the run outside and ends the run
inside, and the fourth in a row clears LOCK and, where LOCK was set, sets LOCK_LOST and HOLDOVER; no other sample moves LOCK.
OFFSET_SAMPLE_TIMEOUT with LOCK set, 3 s of tempo time after the last sample, clears LOCK and sets LOCK_LOST and HOLDOVER;
sooner, or with LOCK clear, it changes no time and not LOCK (R61). Commands that it shows to complete: offsetSample,
offsetSampleTimeout. (R60) -/
def Obligations.OffsetSamplesSetAndClearLock : Prop :=
  ∀ s : State, s.ready →
    (∀ (v : BitVec 32) (cyc : Nat), Answers (.offsetSample v cyc) s fun d =>
      d.tmp.lastSample = nsAt cyc s.dev ∧
      (v.toInt.natAbs ≤ rd Reg.TMP_CTRL_LOCK_THR s.dev →
        d.tmp.inRun = min (s.dev.tmp.inRun + 1) 16 ∧ d.tmp.outRun = 0 ∧
        (15 ≤ s.dev.tmp.inRun → rd Reg.TMP_STATUS_LOCK d = 1 ∧ rd Reg.TMP_STATUS_HOLDOVER d = 0) ∧
        (s.dev.tmp.inRun < 15 → rd Reg.TMP_STATUS_LOCK d = rd Reg.TMP_STATUS_LOCK s.dev)) ∧
      (rd Reg.TMP_CTRL_LOCK_THR s.dev < v.toInt.natAbs →
        d.tmp.inRun = 0 ∧ d.tmp.outRun = min (s.dev.tmp.outRun + 1) 4 ∧
        (3 ≤ s.dev.tmp.outRun → rd Reg.TMP_STATUS_LOCK d = 0 ∧
          (rd Reg.TMP_STATUS_LOCK s.dev = 1 → rd Reg.TMP_STATUS_LOCK_LOST d = 1 ∧ rd Reg.TMP_STATUS_HOLDOVER d = 1)) ∧
        (s.dev.tmp.outRun < 3 → rd Reg.TMP_STATUS_LOCK d = rd Reg.TMP_STATUS_LOCK s.dev))) ∧
    (∀ cyc, s.dev.tmp.lastSample + 3000000000 ≤ nsAt cyc s.dev → rd Reg.TMP_STATUS_LOCK s.dev = 1 →
      Answers (.offsetSampleTimeout cyc) s fun d =>
        rd Reg.TMP_STATUS_LOCK d = 0 ∧ rd Reg.TMP_STATUS_LOCK_LOST d = 1 ∧ rd Reg.TMP_STATUS_HOLDOVER d = 1) ∧
    (∀ cyc, nsAt cyc s.dev < s.dev.tmp.lastSample + 3000000000 ∨ rd Reg.TMP_STATUS_LOCK s.dev = 0 →
      Answers (.offsetSampleTimeout cyc) s fun d => d.tmp = s.dev.tmp ∧ rd Reg.TMP_STATUS_LOCK d = rd Reg.TMP_STATUS_LOCK s.dev)

/-- At every edge of a live device the tempo number rises by exactly one and tempo time comes to the next multiple of the period.
For every ready state with no reset staged and every sample of the edge, TEMPO_EDGE answers a next state whose tempo number is
one more, modulo 2^64, and whose tempo time is the next whole multiple of the period (R37). Commands that it shows to complete:
tempoEdge. (R41) -/
def Obligations.EdgeAdvancesTempoNumber : Prop :=
  ∀ (s : State) (e : EdgeSample), s.ready → s.dev.pwr.resetStaged = false →
    Answers (.tempoEdge e) s fun d =>
      tempoNow d = (tempoNow s.dev + 1) % 2 ^ 64 ∧
      (let n := (s.dev.tmp.ns / periodNs s.dev + 1) * periodNs s.dev
       d.tmp.sec = (s.dev.tmp.sec + n / 1000000000) % 2 ^ 48 ∧ d.tmp.ns = n % 1000000000)

/-- Beacons bind a DEV and update its data; a follower's exchanges are sent, answered, taken and missed as R499 says. For every
ready state: BEACON_SEND at a multiple of 1,000 with the transport enabled puts the beacon of Table 15.8 on every used port that
is up; a whole BEACON of another DEV, unbound or bound to the same SERIAL, binds it and keeps its data; a follower's exchange at
a multiple of 16 begins, and sends ALIGN_REQ with its stamp on its lowest port with a path to the master; an exchange open for 8
tempi counts as missed, three at most; with the transport enabled the master answers a whole ALIGN_REQ with both stamps, and an
ALIGN_RESP within 8 tempi ends the exchange and replaces the slew by half the difference that R65 states. Commands that it shows
to complete: periodicAlignExchange, alignExchangeMissed, beaconSend, beacon, alignReq, alignResp. (spec/15_cerco_transport.md,
Beacons and alignment; spec/02_tempo.md, Tempo master and alignment in a cluster) -/
def Obligations.BeaconsAndAlignment : Prop :=
  ∀ s : State, s.ready →
    (tempoNow s.dev % 1000 = 0 → rd Reg.CDT_CTRL_EN s.dev = 1 → Answers .beaconSend s fun d =>
      ∀ p < 4, rd (Reg.CDT_PORT_ROLE p) s.dev ≠ 0 → rd (Reg.CDT_PORT_UP p) s.dev = 1 →
        ∃ h, Out.cdtPacket p h (beaconBytes s.dev) false ∈ d.out ∧ h.type = 0x10) ∧
    (∀ f : CdtFrame, rd Reg.CDT_CTRL_EN s.dev = 1 → f.port < 4 → rd (Reg.CDT_PORT_UP f.port) s.dev = 1 → f.crcOk = true →
      f.listed = true → f.hdr.len = 32 → f.payload.length = 32 → f.hdr.src < 8 → f.hdr.type = 0x10 →
      fld f.payload 0 1 < 8 → fld f.payload 0 1 ≠ ownDev s.dev →
      (tget none s.dev.cdt.serials (fld f.payload 0 1) = none ∨
        tget none s.dev.cdt.serials (fld f.payload 0 1) = some (fld f.payload 8 8)) →
      Answers (.beacon f) s fun d =>
        tget none d.cdt.serials (fld f.payload 0 1) = some (fld f.payload 8 8) ∧
        (tget {} d.tmp.beacons (fld f.payload 0 1)).heard = true ∧
        (tget {} d.tmp.beacons (fld f.payload 0 1)).lastTempo = fld f.payload 16 8) ∧
    (∀ t1 : BitVec 96, s.dev.tmp.following = true → tempoNow s.dev % 16 = 0 →
      Answers (.periodicAlignExchange t1) s fun d =>
        d.tmp.alReq = some (tempoNow s.dev) ∧
        ∀ p ps, pathPorts (rd Reg.TMP_STATUS_MASTER s.dev) s.dev = p :: ps →
          ∃ h, Out.cdtPacket p h (leBytes 12 t1.toNat) false ∈ d.out ∧ h.type = 0x11 ∧ h.dst = rd Reg.TMP_STATUS_MASTER s.dev) ∧
    (∀ t, s.dev.tmp.alReq = some t → t + 8 ≤ tempoNow s.dev →
      Answers .alignExchangeMissed s fun d => d.tmp.alReq = none ∧ d.tmp.alMissed = min 3 (s.dev.tmp.alMissed + 1)) ∧
    (∀ (f : CdtFrame) (t2 t3 : BitVec 96), rd Reg.CDT_CTRL_EN s.dev = 1 → f.port < 4 →
      rd (Reg.CDT_PORT_UP f.port) s.dev = 1 → f.crcOk = true →
      f.listed = true → f.hdr.len = 12 → f.payload.length = 12 → f.hdr.src < 8 → f.hdr.type = 0x11 →
      s.dev.cdt.alien.contains (pathKey f.hdr.src f.port) = false → rd Reg.TMP_STATUS_IS_MASTER s.dev = 1 →
      Answers (.alignReq f t2 t3) s fun d =>
        ∃ h, Out.cdtPacket f.port h (f.payload ++ leBytes 12 t2.toNat ++ leBytes 12 t3.toNat) false ∈ d.out ∧
          h.type = 0x12 ∧ h.dst = f.hdr.src) ∧
    (∀ (f : CdtFrame) (t4 : BitVec 96) (cyc t : Nat), rd Reg.CDT_CTRL_EN s.dev = 1 → f.port < 4 →
      rd (Reg.CDT_PORT_UP f.port) s.dev = 1 → f.crcOk = true →
      f.listed = true → f.hdr.len = 36 → f.payload.length = 36 → f.hdr.src < 8 → f.hdr.type = 0x12 →
      s.dev.cdt.alien.contains (pathKey f.hdr.src f.port) = false → s.dev.tmp.alReq = some t →
      tempoNow s.dev < t + 8 → s.dev.tmp.following = true → f.hdr.src = rd Reg.TMP_STATUS_MASTER s.dev →
      Answers (.alignResp f t4 cyc) s fun d =>
        d.tmp.alReq = none ∧ d.tmp.alMissed = 0 ∧
        d.tmp.padjFs = (((stampOf (f.payload.drop 12) - stampOf f.payload)
          - (stampOf (leBytes 12 t4.toNat) - stampOf (f.payload.drop 24))) / 2) * 1000000 / 65536)

/-- Requests wait, are granted highest and oldest first, are raised by age, and a granted write lands its data. For every ready
state with no injection armed: a port with fewer than two requests outstanding whose way takes a REQ gets it into the arbiter's
queue, in the order of its arrival; with a free grant slot the arbiter grants the request that its order picks: a write whose
way takes a GO gets GO and an open grant, a read whose way takes its response is answered, and a pool bank's line without error
outside every seal is answered with its bytes and its poison; REQUEST_AGE_RAISE leaves the request at level 3; WRITE_DATA_ARRIVE
to a pool bank outside every seal, whose way takes it, closes the grant and lands its 64 bytes, and every other byte of memory
reads as before. The ways stand free as R78 to R81 say; the King pair's writes and writebacks, whose data is not the flit's, are
not of this statement's last clause. Commands that it shows to complete: transferRequest, arbiterGrant, requestAgeRaise,
writeDataArrive. (spec/03_board_fabric.md, Arbitration at a shared target) -/
def Obligations.ArbitersRequestGrantAndComplete : Prop :=
  ∀ s : State, s.ready → rd Reg.FAB_INJ_ARM_ARM s.dev = 0 → s.dev.flt.inj = none →
    (∀ (target : Fin 61) (port : Fin 120) (write : Bool) (qos : Fin 4) (addr : Nat) (same line : Bool) (buffer : List Byte),
      ((tget {} s.dev.fab.arbs target).pending ++ (tget {} s.dev.fab.arbs target).grants).countP
        (fun x => x.port == port.val) < 2 → (kingPort port = true → s.dev.king.held = false) →
      wayFree (wayTo port target) 0 s.dev →
      Answers (.transferRequest target port write qos addr same line buffer) s fun d =>
        ∃ x ∈ (tget {} d.fab.arbs target).pending, x.port = port ∧ x.write = write ∧ x.qos = qos ∧ x.addr = addr ∧
          x.order = if same then (tget {} s.dev.fab.arbs target).next - 1 else (tget {} s.dev.fab.arbs target).next) ∧
    (∀ (target : Fin 61) (err : BitVec 76) (x : Xfer), (tget {} s.dev.fab.arbs target).grants.length < grantLimit target →
      pickRequest (tget {} s.dev.fab.arbs target).pending = some x →
      (x.write = true → wayFree (wayBack target x.port) 1 s.dev → Answers (.arbiterGrant target err false) s fun d =>
        Out.go target x.port ∈ d.out ∧ x ∈ (tget {} d.fab.arbs target).grants ∧
        (tget {} d.fab.arbs target).pending = (tget {} s.dev.fab.arbs target).pending.erase x) ∧
      (x.write = false → wayFree (wayBack target x.port) 2 s.dev → (∀ y ∈ (tget {} s.dev.fab.arbs target).grants, y.write = true) →
        Answers (.arbiterGrant target err true) s fun d =>
          (∃ b bad, Out.readData target x.port b bad ∈ d.out) ∧
          (tget {} d.fab.arbs target).pending = (tget {} s.dev.fab.arbs target).pending.erase x ∧
          (target.val < 48 → err = 0 → s.dev.fab.flips = [] → inSeal x.addr 64 s.dev = none →
            Out.readData target x.port (memRead s.dev x.addr 64) (rangePoisoned x.addr 64 s.dev) ∈ d.out))) ∧
    (∀ (target : Fin 61) (order : Nat), Answers (.requestAgeRaise target order) s fun d =>
      (∀ x ∈ (tget {} d.fab.arbs target).pending, x.order = order → x.level = 3) ∧
      (tget {} d.fab.arbs target).pending.map (·.port) = (tget {} s.dev.fab.arbs target).pending.map (·.port)) ∧
    (∀ (target : Fin 61) (port : Fin 120) (data : List Byte) (x : Xfer), target.val < 48 → data.length = 64 →
      openGrant target port true s.dev = some x → x.line = false → kingPort port = false → inSeal x.addr 64 s.dev = none →
      wayFree (wayTo port target) 2 s.dev →
      Answers (.writeDataArrive target port data) s fun d =>
        (∀ i (hi : i < 64) (hd : i < data.length), memByte d (x.addr + i) = data[i]) ∧
        (∀ a, a < x.addr ∨ x.addr + 64 ≤ a → memByte d a = memByte s.dev a) ∧
        (tget {} d.fab.arbs target).grants = (tget {} s.dev.fab.arbs target).grants.erase x)

/-- Cut-offs, late data, CUT notices, the scrub, armed injections and the ledgers act as the fabric's rules say. For every ready
state with a Check entry free: GRANT_CUT_OFF closes the grant, sends CUT, marks the port and names port and target in FAB_CUT;
LATE_DAT_DISCARD removes the late transfer and counts it; CUT_NOTICE_RECEIVE leaves the address with the engine; POOL_SCRUB_LINE
with SCRUB_EN moves the bank's scrub on by one line and, with no error, keeps memory; FAB_INJ_ARM arms; BUFFER_LEDGER_AUDIT at a
multiple of 64, where the allocator's and the miss buffers' own counts agree, sets FAB_CONS.POOL or FAB_CONS.MISS when units or
slots are found too many and leaves both alone when all add up; CREDIT_RESYNC_DONE with no slot occupied and no return in flight
restores D credits and aligns the counters. Commands that it shows to complete: creditResyncDone, grantCutOff, lateDatDiscard,
cutNoticeReceive, poolScrubLine, fabInjArm, bufferLedgerAudit. (spec/03_board_fabric.md, Arbitration at a shared target;
spec/03_board_fabric.md, Credit ledgers and the tempo audit; spec/03_board_fabric.md, Conservation guarantees;
spec/03_board_fabric.md, Protection of SRAM and flits) -/
def Obligations.CutOffsScrubAndLedgers : Prop :=
  ∀ s : State, s.ready → s.checkRoom →
    (∀ (target : Fin 61) (port : Fin 120) (x : Xfer),
      ((tget {} s.dev.fab.arbs target).grants.find? fun x => x.port == port.val) = some x →
      Answers (.grantCutOff target port) s fun d =>
        (tget {} d.fab.arbs target).grants = (tget {} s.dev.fab.arbs target).grants.erase x ∧
        Out.cut target port ∈ d.out ∧ rd Reg.FAB_CUT_TARGET d = target ∧ rd Reg.FAB_CUT_PORT d = port ∧
        rd Reg.FAB_STATUS_CUT d = 1 ∧
        (if port.val < 64 then bitOf (rd Reg.FAB_CUT_MAP0_PORTS d) port
         else bitOf (rd Reg.FAB_CUT_MAP1_PORTS d) (port.val - 64)) = true) ∧
    (∀ (target : Fin 61) (port : Fin 120), port.val ∈ (tget {} s.dev.fab.arbs target).cut →
      rd Reg.FAB_CUT_LATE s.dev < 65535 → Answers (.lateDatDiscard target port) s fun d =>
        rd Reg.FAB_CUT_LATE d = rd Reg.FAB_CUT_LATE s.dev + 1 ∧
        (tget {} d.fab.arbs target).cut = (tget {} s.dev.fab.arbs target).cut.erase port.val) ∧
    (∀ (e : Fin 64) (addr : Nat), Answers (.cutNoticeReceive e addr) s fun d =>
      (tget {} d.engines e).cutAddr = some addr) ∧
    (∀ (bank : Fin 48) (word : Fin 8) (err : BitVec 76), rd Reg.FAB_CTRL_SCRUB_EN s.dev = 1 →
      Answers (.poolScrubLine bank word err) s fun d =>
        tget 0 d.fab.scrub bank = tget 0 s.dev.fab.scrub bank + 1 ∧ (err = 0 → s.dev.fab.flips = [] → MemKept s.dev d)) ∧
    (Answers .fabInjArm s fun d => rd Reg.FAB_INJ_ARM_ARM d = 1) ∧
    (∀ poolErr missErr : List Int, tempoNow s.dev % 64 = 0 →
      (∀ p < 7, tget 0 s.dev.fab.poolOut p = poolHeld p s.dev ∧ poolHeld p s.dev ≤ poolUnits p s.dev) →
      (∀ p < 32, missOcc p s.dev ≤ missSlots p s.dev) →
      Answers (.bufferLedgerAudit poolErr missErr) s fun d =>
        ((∃ p : Nat, p < 7 ∧ 0 < (poolErr[p]?).getD 0) → rd Reg.FAB_CONS_POOL d = 1) ∧
        ((∃ p : Nat, p < 32 ∧ 0 < (missErr[p]?).getD 0) → rd Reg.FAB_CONS_MISS d = 1) ∧
        ((∀ p : Nat, (poolErr[p]?).getD 0 = 0) → (∀ p : Nat, (missErr[p]?).getD 0 = 0) →
          rd Reg.FAB_CONS_POOL d = rd Reg.FAB_CONS_POOL s.dev ∧ rd Reg.FAB_CONS_MISS d = rd Reg.FAB_CONS_MISS s.dev)) ∧
    (∀ (unit : Nat) (cls : Fin 4), (getLedger unit cls s.dev).resync = true → s.dev.flt.inj = none →
      Answers (.creditResyncDone unit cls 0 0) s fun d =>
        (getLedger unit cls d).resync = false ∧ (getLedger unit cls d).credits.val = classDepth cls s.dev ∧
        (getLedger unit cls d).s = (getLedger unit cls s.dev).s ∧ (getLedger unit cls d).cr = (getLedger unit cls s.dev).s ∧
        (getLedger unit cls d).rx = (getLedger unit cls s.dev).s ∧ (getLedger unit cls d).ct = (getLedger unit cls s.dev).s ∧
        (getLedger unit cls d).occ.val = 0)

/-- Each Xqsto instruction of a core that may run it has its result and moves the pc by four. For every ready state and core that
may run the instruction, engine or King pair (without an injection armed on it): QDOOR answers 3 where its write was cut off, 2
where a task ring's index would pass its size, and 0 with the producer index set otherwise; QPROBE answers 2 for an address that
is no block, 1 when the FIU's queue is full, and 0 with the block queued otherwise; QCRC64 steps the CRC; QTEMPO captures and
returns number, seconds, nanoseconds and the cycles left; QPTOK posts a request of class 1 to 4 within the envelope, answers 1
while one is pending and 2 above the envelope, a count of 0 cancels, and a query returns the grant; QYIELD ends the slice or
parks it in the resume slot. Commands that it shows to complete: qdoor, qprobe, qcrc64, qtempoSnapshot, qtempoSeconds,
qtempoNanoseconds, qtempoCyclesToEdge, qptokRequest, qptokQuery, qyieldComplete, qyieldDefer. (spec/04_data_engines.md, The
Xqsto extension) -/
def Obligations.XqstoInstructionsRetire : Prop :=
  ∀ (s : State) (e : Fin 65), s.ready → coreKeeps e s.dev →
    (∀ (rd rs1 rs2 : Fin 32) (cut : Bool), mayRun e 0 s.dev → Answers (.qdoor e rd rs1 rs2 cut) s fun d =>
      let a := ((getCore e s.dev).get rs1).toNat
      let v := ((getCore e s.dev).get rs2).toNat % 65536
      let ahead := (v + 65536 - (tget {} s.dev.taskRings (a / 256 % 256)).cons) % 65536
      (getCore e d).pc = ((getCore e s.dev).pc + 4) % 2 ^ 64 ∧ (cut = true → Out.status 3 ∈ d.out) ∧
      (cut = false → a % 16 = 15 → a / 256 % 256 < 128 →
        (64 < ahead → Out.status 2 ∈ d.out) ∧
        (ahead ≤ 64 → Out.status 0 ∈ d.out ∧ (tget {} d.taskRings (a / 256 % 256)).prod = v))) ∧
    (∀ (x rs1 : Fin 32) (full : Bool), mayRun e 1 s.dev → Answers (.qprobe e x rs1 full) s fun d =>
      (getCore e d).pc = ((getCore e s.dev).pc + 4) % 2 ^ 64 ∧
      (probeBlock ((getCore e s.dev).get rs1).toNat = none → Out.status 2 ∈ d.out) ∧
      (∀ b, probeBlock ((getCore e s.dev).get rs1).toNat = some b → fiuOn s.dev = true →
        (full = true → Out.status 1 ∈ d.out) ∧
        (full = false → Out.status 0 ∈ d.out ∧ d.fiu.probes = s.dev.fiu.probes ++ [.block b]))) ∧
    (∀ (rd rs1 rs2 : Fin 32) (len : Fin 4), mayRun e 3 s.dev → Answers (.qcrc64 e rd rs1 rs2 len) s fun d =>
      getCore e d = (getCore e s.dev).retire 4 rd (BitVec.ofNat 64
        (crc64Step ((getCore e s.dev).get rs1).toNat (leBytes (2 ^ len.val) ((getCore e s.dev).get rs2).toNat)))) ∧
    (∀ (rd : Fin 32) (cyc : Nat), mayRun e 4 s.dev →
      (Answers (.qtempoSnapshot e rd cyc) s fun d =>
        Out.status (tempoNow s.dev) ∈ d.out ∧ (getCore e d).snapNum = tempoNow s.dev ∧
        (getCore e d).snapSec = (timeAt cyc s.dev).1 ∧ (getCore e d).snapNs = (timeAt cyc s.dev).2) ∧
      (Answers (.qtempoSeconds e rd) s fun d =>
        getCore e d = (getCore e s.dev).retire 4 rd (BitVec.ofNat 64 (getCore e s.dev).snapSec)) ∧
      (Answers (.qtempoNanoseconds e rd) s fun d =>
        getCore e d = (getCore e s.dev).retire 4 rd (BitVec.ofNat 64 (getCore e s.dev).snapNs)) ∧
      (Answers (.qtempoCyclesToEdge e rd cyc) s fun d =>
        getCore e d = (getCore e s.dev).retire 4 rd (BitVec.ofNat 64 (cyclesToEdge cyc s.dev)))) ∧
    (∀ rd rs1 : Fin 32, mayRun e 5 s.dev →
      (Answers (.qptokRequest e rd rs1) s fun d =>
        let v := ((getCore e s.dev).get rs1).toNat
        (getCore e d).pc = ((getCore e s.dev).pc + 4) % 2 ^ 64 ∧
        (v % 65536 = 0 → Out.status 0 ∈ d.out ∧ tokPending e d = false) ∧
        (0 < v % 65536 → tokPending e s.dev = true → Out.status 1 ∈ d.out ∧ d.pwr.waiting = s.dev.pwr.waiting) ∧
        (s.dev.pwr.envelope < v % 65536 → tokPending e s.dev = false → Out.status 2 ∈ d.out ∧ tokPending e d = false) ∧
        (0 < v % 65536 → v % 65536 ≤ s.dev.pwr.envelope → tokPending e s.dev = false → 1 ≤ v / 65536 % 16 → v / 65536 % 16 ≤ 4 →
          Out.status 0 ∈ d.out ∧
          d.pwr.waiting = s.dev.pwr.waiting ++ [{ who := .engine e, cls := v / 65536 % 16, cost := v % 65536 }])) ∧
      (Answers (.qptokQuery e rd) s fun d =>
        getCore e d = (getCore e s.dev).retire 4 rd (BitVec.ofNat 64
          ((getEngine e s.dev).tokens % 2 ^ 32 + (if tokPending e s.dev then 2 ^ 32 else 0))))) ∧
    (∀ sl, mayRun e 6 s.dev → e.val < 64 → (getEngine e s.dev).slice = some sl →
      (Answers (.qyieldComplete e) s fun d =>
        (getEngine e d).slice = none ∧ (getEngine e d).resume = (getEngine e s.dev).resume) ∧
      (Answers (.qyieldDefer e) s fun d =>
        (getEngine e d).slice = none ∧ (getEngine e d).deferred = true ∧
        (getEngine e d).resume = some (sl, (getCore e s.dev).retire 4 0 0)))

/-- QCAS128 returns the 16 bytes it read and writes the new pair exactly when they equal the compare pair. For every ready state
whose pool carries no error and every permitted core, with even register numbers and an address aligned to 16, allowed by PMP
and outside every seal, in an uncached range or in a cached one whose line the cluster's L2 does not hold: QCAS128 answers a
next state that sends the old 16 bytes, holds the new pair at the address when the old bytes equal the compare pair and the old
bytes otherwise, and leaves every other byte of memory as before; a core's rd and rd+1 hold the old bytes, but that x0 stays
zero. Commands that it shows to complete: qcas128. (R106) -/
def Obligations.CompareAndSwap128 : Prop :=
  ∀ (s : State) (e : Fin 65) (rd rs1 rs2 : Fin 32) (p : Nat), s.ready → s.dev.fab.flips = [] → mayRun e 2 s.dev →
    rd.val % 2 = 0 → rs2.val % 2 = 0 → ((getCore e s.dev).get rs1).toNat % 16 = 0 →
    (place ((getCore e s.dev).get rs1).toNat 16 = some (.uncached p) ∨
      (place ((getCore e s.dev).get rs1).toNat 16 = some (.cached p) ∧ (e.val < 64 → l2Find (clusterOf e) p s.dev = none))) →
    pmpAllows (getCore e s.dev) (getCore e s.dev).dataUser 1 ((getCore e s.dev).get rs1).toNat 16 = true →
    inSeal p 16 s.dev = none →
    Answers (.qcas128 e rd rs1 rs2) s fun d =>
      Out.value (memNat s.dev p 16) ∈ d.out ∧
      memNat d p 16 = (if memNat s.dev p 16 = pairOf (getCore e s.dev) rd then pairOf (getCore e s.dev) rs2
        else memNat s.dev p 16) ∧
      (∀ a, a < p ∨ p + 16 ≤ a → memByte d a = memByte s.dev a) ∧
      (coreKeeps e s.dev → (rd.val ≠ 0 → pairOf (getCore e d) rd = memNat s.dev p 16) ∧
        ((getCore e d).get (rd.val + 1)).toNat = memNat s.dev p 16 / 2 ^ 64)

/-- In user mode an Xqsto instruction other than QYIELD without its bit of qxperm takes the illegal-instruction exception. For every
ready state and engine running in user mode whose bit of qxperm is 0, each of QDOOR, QPROBE, QCAS128, QCRC64, QTEMPO and QPTOK
answers a next state with mcause 2, mepc at the instruction and the engine in machine mode, and leaves every byte of memory as
before. (R102) -/
def Obligations.UserModeNeedsPermission : Prop :=
  ∀ (s : State) (e : Fin 65) (rd rs1 rs2 : Fin 32) (len : Fin 4) (cyc : Nat) (b : Bool), s.ready → e.val < 64 →
    coreRuns e s.dev = true → (getCore e s.dev).user = true → (getCore e s.dev).pc < 2 ^ 64 →
    ∀ c ∈ [(0, Instr.qdoor e rd rs1 rs2 b), (1, Instr.qprobe e rd rs1 b), (2, Instr.qcas128 e rd rs1 rs2),
        (3, Instr.qcrc64 e rd rs1 rs2 len), (4, Instr.qtempoSnapshot e rd cyc), (4, Instr.qtempoSeconds e rd),
        (4, Instr.qtempoNanoseconds e rd), (4, Instr.qtempoCyclesToEdge e rd cyc), (5, Instr.qptokRequest e rd rs1),
        (5, Instr.qptokQuery e rd)],
      bitOf ((getCore e s.dev).csr 0x7C0) c.1 = false →
      Answers c.2 s fun d =>
        (getCore e d).csr 0x342 = 2 ∧ (getCore e d).csr 0x341 = (getCore e s.dev).pc ∧ (getCore e d).user = false ∧
        MemKept s.dev d

/-- A running engine executes a standard instruction, loads and stores, and an idle engine takes its next slice. For every ready
state: an engine in machine mode without interrupt or CUT notice whose L1 holds at the pc a 32-bit instruction that asks nothing
of memory is afterwards as that instruction leaves it; an aligned load of 1 to 8 bytes from the uncached pool, outside every
seal and without error or poison, writes the register, extended as the instruction says, and keeps memory; an aligned store
there stores the register's low bytes and keeps every other byte; an idle engine in service resumes the slice of its resume
slot, or else starts the oldest good descriptor of its high ring, or of its low ring when the high one is empty, with ENTRY,
ARG, SLICE_ID and the mode that FLAGS names. Commands that it shows to complete: engineTakeSlice, engineInstruction,
engineLoadStore. (spec/04_data_engines.md, Engine profile; spec/04_data_engines.md, Task queues and slices) -/
def Obligations.EnginesExecuteAndAccessMemory : Prop :=
  ∀ s : State, s.ready →
    (∀ (e : Fin 65) (cyc w : Nat) (full : Bool) (other : Option (Nat × BitVec 64)) (c : Core), e.val < 64 → coreRuns e s.dev = true →
      (getEngine e s.dev).cutAddr = none →
      rd (Reg.GLB_RDONE_UNIT (clusterOf e)) s.dev = 0 → (getCore e s.dev).pc % 64 ≤ 60 → (getCore e s.dev).pc % 4 = 0 →
      fetchable (getCore e s.dev).pc 4 = true → (getCore e s.dev).user = false →
      pmpAllows (getCore e s.dev) false 2 (getCore e s.dev).pc 2 = true →
      pmpAllows (getCore e s.dev) false 2 ((getCore e s.dev).pc + 2) 2 = true →
      w < 2 ^ 32 → w % 4 = 3 → w % 32 ≠ 31 →
      (((tget [] (getL1i e s.dev) ((getCore e s.dev).pc / 64 * 64)).drop ((getCore e s.dev).pc % 64)).take 4 = leBytes 4 w) →
      (∀ fresh, rvExec e fresh ((getCore e s.dev).setCsr 0x344 0) 4 w w = .next c) →
      Answers (.engineInstruction e false cyc full 0 false other) s fun d => getCore e d = c) ∧
    (∀ (e : Fin 65) (reg : Fin 32) (addr p : Nat) (sz : Fin 4) (signed : Bool) (other : Option (Nat × BitVec 64)), e.val < 64 →
      coreRuns e s.dev = true → addr % 2 ^ sz.val = 0 →
      place addr (2 ^ sz.val) = some (.uncached p) → inPool p = true → inSeal p (2 ^ sz.val) s.dev = none →
      (pmpAllows (getCore e s.dev) (getCore e s.dev).dataUser 0 addr (2 ^ sz.val) = true → poisoned p s.dev = false →
        s.dev.fab.flips = [] →
        Answers (.engineLoadStore e .load reg addr sz signed 0 false other) s fun d =>
          (reg.val ≠ 0 → (getCore e d).get reg = if signed then sextN (8 * 2 ^ sz.val) (memNat s.dev p (2 ^ sz.val))
            else BitVec.ofNat 64 (memNat s.dev p (2 ^ sz.val))) ∧ (getCore e d).get 0 = 0 ∧ MemKept s.dev d) ∧
      (pmpAllows (getCore e s.dev) (getCore e s.dev).dataUser 1 addr (2 ^ sz.val) = true →
        Answers (.engineLoadStore e .store reg addr sz signed 0 false other) s fun d =>
          memNat d p (2 ^ sz.val) = ((getCore e s.dev).get reg).toNat % 2 ^ (8 * 2 ^ sz.val) ∧
          (∀ a, a < p ∨ p + 2 ^ sz.val ≤ a → memByte d a = memByte s.dev a))) ∧
    (∀ e : Fin 64, (getEngine e s.dev).slice = none → engineUp e s.dev = true → (getEngine e s.dev).deferred = false → slicesHeld s.dev = false →
      (∀ sl c, (getEngine e s.dev).resume = some (sl, c) → Answers (.engineTakeSlice e) s fun d =>
        (getEngine e d).slice = some sl ∧ (getEngine e d).core = c ∧ (getEngine e d).resume = none) ∧
      (∀ ring, (getEngine e s.dev).resume = none → ringFull ring s.dev = true →
        (ring = 2 * e.val + 1 ∨ (ring = 2 * e.val ∧ ringFull (2 * e.val + 1) s.dev = false)) →
        let b := memRead s.dev (taskAddr ring (tget {} s.dev.taskRings ring).cons s.dev) 32
        taskOk b = true → Answers (.engineTakeSlice e) s fun d =>
          (getEngine e d).slice = some { id := fld b 16 4, start := tempoNow s.dev } ∧ (getCore e d).pc = fld b 0 8 ∧
          ((getCore e d).get 10).toNat = fld b 8 8 ∧ ((getCore e d).get 11).toNat = fld b 16 4 ∧
          (getCore e d).user = (fld b 20 1 % 2 == 1)))

/-- A King mismatch holds the pair; one flagged or failed unit leaves the other as survivor; otherwise Checkmate. For every ready
state with a Double check entry free whose fault policy does not castle on KING_SPLIT, no output of unit 0 waiting at the
comparator and no error in the save areas: a mismatch that no checker flags holds the outputs; one that flags only unit 1 leaves
unit 0 active with SPLIT and RESOLVE self-flag; a self-test that only unit 0 passes leaves it active with RESOLVE self-test and
the outputs released; a self-test that both pass or both fail declares a Checkmate. Commands that it shows to complete:
kingMismatch, kingSelfTestDone. (spec/04_data_engines.md, The King pair) -/
def Obligations.KingPairResolvesMismatches : Prop :=
  ∀ (s : State) (gap : Nat), s.ready → s.dcheckRoom → rd Reg.CAS_CTRL_POL_KING s.dev = 0 →
    (tget {} s.dev.king.units 0).output = none →
    (s.dev.king.held = false → rd Reg.GLB_KING_SPLIT s.dev = 0 → (tget {} s.dev.king.units 0).flagged = false →
      (tget {} s.dev.king.units 1).flagged = false →
      (Answers (.kingMismatch false false gap 0) s fun d =>
        d.king.held = true ∧ (tget {} d.king.units 0).saved = some (tget {} s.dev.king.units 0).core) ∧
      (Answers (.kingMismatch false true gap 0) s fun d =>
        d.king.held = false ∧ rd Reg.GLB_KING_ACTIVE d = 0 ∧ rd Reg.GLB_KING_SPLIT d = 1 ∧ rd Reg.GLB_KING_RESOLVE d = 1 ∧
        (tget {} d.king.units 1).quar = true)) ∧
    (s.dev.king.held = true →
      (Answers (.kingSelfTestDone true false gap 0) s fun d =>
        d.king.held = false ∧ rd Reg.GLB_KING_ACTIVE d = 0 ∧ rd Reg.GLB_KING_SPLIT d = 1 ∧ rd Reg.GLB_KING_RESOLVE d = 2 ∧
        (tget {} d.king.units 1).quar = true) ∧
      (∀ b, Answers (.kingSelfTestDone b b gap 0) s fun d =>
        d.flt.checkmateIn = some (glbState s.dev) ∧ d.pins.fatalN = false))

/-- Range operations, way locking and the drain of a cluster L2 act as R131 to R138 say. For every ready state and cluster: on an
idle enabled L2 with a good range, WRITEBACK leaves no line it finds in the range dirty, INVALIDATE of one line that one way
holds leaves it absent, and PRELOAD of one absent line into a locked way fills that way, each with RANGE_BUSY; RANGE_OP_DONE
ends with RESULT OK; a lock mask of at most 12 ways is taken and any other leaves MASK; writing L2_EN 0 starts a drain, its end
empties the L2 and sets DRAIN_DONE, and L2_ENABLE returns it empty. Commands that it shows to complete: rangeWriteback,
rangeInvalidate, rangePreload, rangeOpDone, l2LockWrite, l2DrainStart, l2DrainDone, l2Enable. (spec/04_data_engines.md, Range
operations; spec/04_data_engines.md, Way locking; spec/04_data_engines.md, Disabling the L2) -/
def Obligations.ClusterCacheOperations : Prop :=
  ∀ (s : State) (cl : Fin 8), s.ready →
    (rd (Reg.CL_STATUS_RANGE_BUSY cl) s.dev = 0 → l2State cl s.dev = 0 →
      (rangeOk cl 0 s.dev = true → Answers (.rangeWriteback cl) s fun d =>
        rd (Reg.CL_STATUS_RANGE_BUSY cl) d = 1 ∧
        ∀ a ∈ rangeLines cl s.dev, ∀ w, l2Find cl a d = some w → (getLine cl (l2Set a) w d).dirty = false) ∧
      (∀ a w, rangeOk cl 1 s.dev = true → rangeLines cl s.dev = [a] → l2Find cl a s.dev = some w →
        (∀ v, v < 16 → (getLine cl (l2Set a) v s.dev).valid = true → (getLine cl (l2Set a) v s.dev).tag = l2Tag a → v = w) →
        Answers (.rangeInvalidate cl) s fun d => rd (Reg.CL_STATUS_RANGE_BUSY cl) d = 1 ∧ l2Find cl a d = none) ∧
      (∀ (a : Nat) (way : Fin 16), rangeOk cl 2 s.dev = true → rangeLines cl s.dev = [a] → wayLocked cl way s.dev = true →
        l2Find cl a s.dev = none → Answers (.rangePreload cl way) s fun d =>
          rd (Reg.CL_STATUS_RANGE_BUSY cl) d = 1 ∧ rd (Reg.CL_RANGE_OP_WAY cl) d = way ∧ l2Find cl a d = some way.val)) ∧
    (rd (Reg.CL_STATUS_RANGE_BUSY cl) s.dev = 1 → (getL2 cl s.dev).drainWaits = false →
      Answers (.rangeOpDone cl) s fun d =>
        rd (Reg.CL_STATUS_RANGE_BUSY cl) d = 0 ∧ rd (Reg.CL_STATUS_RANGE_DONE cl) d = 1 ∧
        rd (Reg.CL_RANGE_OP_RESULT cl) d = 1 ∧ rd (Reg.CL_RANGE_OP_GO cl) d = 0) ∧
    (∀ mask : BitVec 16, Answers (.l2LockWrite cl mask) s fun d =>
      rd (Reg.CL_L2_LOCK_MASK cl) d = if popCount 16 mask.toNat ≤ 12 then mask.toNat else rd (Reg.CL_L2_LOCK_MASK cl) s.dev) ∧
    (l2State cl s.dev = 0 → rd (Reg.CL_STATUS_RANGE_BUSY cl) s.dev = 0 → Answers (.l2DrainStart cl) s fun d =>
      l2State cl d = 1 ∧ rd (Reg.CL_CTRL_L2_EN cl) d = 0) ∧
    (∀ errs, l2State cl s.dev = 1 → (getL2 cl s.dev).reenable = false → Answers (.l2DrainDone cl errs) s fun d =>
      l2State cl d = 2 ∧ rd (Reg.CL_STATUS_DRAIN_DONE cl) d = 1 ∧ (getL2 cl d).lines = []) ∧
    (l2State cl s.dev = 2 → Answers (.l2Enable cl) s fun d =>
      l2State cl d = 0 ∧ rd (Reg.CL_CTRL_L2_EN cl) d = 1 ∧ (getL2 cl d).lines = [])

/-- Host frames are dropped, stamped, delivered or held for a fetch; fetches end; rates and pauses follow the congestion rules. For
every ready state and frame on a port that exists and is up: a frame above 9,216 bytes, one whose frame check fails, one with
disagreeing lengths and one of no open context that is no SYN are counted and change nothing else of the front end; a PTP event
message is stamped; a packet of a resident context is delivered to it; one of any other context waits in the miss buffer when it
fits, with a fetch begun. A fetch that ends, with room in the cache or a context to evict, delivers the packets that waited on
every port, in which case the context is resident; a slow one is marked; a refresh repeats the pauses held; a CNP cuts the rate;
RATE_RAISE raises every rate that R183 names. Commands that it shows to complete: hostFrameReceive, contextFetchDone,
contextFetchSlow, pfcPauseRefresh, cnpReceive, rateRaise. (spec/05_nvme_front_end.md, Host ports; spec/05_nvme_front_end.md,
Host contexts; spec/05_nvme_front_end.md, The context-miss path; spec/05_nvme_front_end.md, Transport length rules;
spec/05_nvme_front_end.md, Congestion; spec/02_tempo.md, Tempo time) -/
def Obligations.HostFramesAndContexts : Prop :=
  ∀ s : State, s.ready →
    (∀ (p : Fin 32) (f : HostFrame), portLanes p s.dev ≠ 0 → rd (Reg.ETH_LINK_UP p) s.dev = 1 →
      (9216 < f.len → Answers (.hostFrameReceive p f) s fun d =>
        (rd (Reg.ETH_DROP_LEN p) s.dev < 65535 → rd (Reg.ETH_DROP_LEN p) d = rd (Reg.ETH_DROP_LEN p) s.dev + 1) ∧
        d.front = s.dev.front) ∧
      (f.len ≤ 9216 → f.fcsOk = false → Answers (.hostFrameReceive p f) s fun d =>
        (rd (Reg.ETH_DROP_FCS p) s.dev < 65535 → rd (Reg.ETH_DROP_FCS p) d = rd (Reg.ETH_DROP_FCS p) s.dev + 1) ∧
        d.front = s.dev.front) ∧
      (f.len ≤ 9216 → f.fcsOk = true → (f.fragment = true ∨ f.lensOk = false) → Answers (.hostFrameReceive p f) s fun d =>
        (rd (Reg.ETH_DROP_LEN p) s.dev < 65535 → rd (Reg.ETH_DROP_LEN p) d = rd (Reg.ETH_DROP_LEN p) s.dev + 1) ∧
        d.front = s.dev.front) ∧
      (f.len ≤ 9216 → f.fcsOk = true → f.fragment = false → f.lensOk = true →
        (∀ cyc, f.ptp = some cyc → Answers (.hostFrameReceive p f) s fun d => ∃ sec ns, Out.ptpStamp p false sec ns ∈ d.out) ∧
        (f.ptp = none →
          (frameCtx f s.dev = none → (f.rdma = true ∨ f.syn = none) → Answers (.hostFrameReceive p f) s fun d =>
            (rd (Reg.ETH_DROP_STALE p) s.dev < 65535 → rd (Reg.ETH_DROP_STALE p) d = rd (Reg.ETH_DROP_STALE p) s.dev + 1) ∧
            d.front = s.dev.front) ∧
          (∀ c, frameCtx f s.dev = some c →
            ((getCtx c s.dev).resident = true → Answers (.hostFrameReceive p f) s fun d =>
              Out.deliver c ∈ d.out ∧ (f.pkt = .data → (getCtx c d).resident = true)) ∧
            ((getCtx c s.dev).resident = false → missOcc p s.dev + (f.len + 63) / 64 ≤ missSlots p s.dev →
              Answers (.hostFrameReceive p f) s fun d =>
                (getPort p d).miss =
                  (getPort p s.dev).miss ++ [⟨c, (f.len + 63) / 64, f.prio, f.pkt, s.dev.front.arrivals⟩] ∧
                (getCtx c d).fetch = true))))) ∧
    (∀ c : Fin 262144, (getCtx c s.dev).fetch = true →
      ((s.dev.front.ctxs.filter fun x => x.2.resident).length < 16384 ∨ victimCtx s.dev ≠ none) →
        Answers (.contextFetchDone c) s fun d =>
          (getCtx c d).fetch = false ∧ (∀ p ∈ hostPorts s.dev, ∀ m ∈ (getPort p d).miss, m.ctx ≠ c.val) ∧
          ((getCtx c s.dev).opn = true → (∃ p ∈ hostPorts s.dev, ∃ m ∈ (getPort p s.dev).miss, m.ctx = c.val) →
            Out.deliver c.val ∈ d.out) ∧
          ((∀ p ∈ hostPorts s.dev, ∀ m ∈ (getPort p s.dev).miss, m.ctx = c.val → m.pkt = .data) →
            (getCtx c d).resident = true)) ∧
    (∀ c : Fin 262144, (getCtx c s.dev).fetch = true → (getCtx c s.dev).slow = false → s.checkRoom →
      Answers (.contextFetchSlow c) s fun d => (getCtx c d).slow = true ∧ rd Reg.NVF_STATUS_FETCH_CHK d = 1) ∧
    (∀ p : Fin 32, pausedPrios p s.dev ≠ 0 → Answers (.pfcPauseRefresh p) s fun d =>
      Out.pause p (pausedPrios p s.dev) (rd Reg.ETH_PFC_QUANTA s.dev) ∈ d.out) ∧
    (∀ c : Fin 262144, (getCtx c s.dev).opn = true → (getCtx c s.dev).rdma = true →
      (getCtx c s.dev).lastCut + rd Reg.ETH_ECN_CUT_GAP s.dev ≤ tempoNow s.dev → Answers (.cnpReceive c) s fun d =>
        (getCtx c d).rate = max (rd Reg.ETH_ECN_RATE_MIN s.dev)
          ((getCtx c s.dev).rate - (getCtx c s.dev).rate * rd Reg.ETH_ECN_BETA s.dev / 16) ∧
        (getCtx c d).lastCut = tempoNow s.dev) ∧
    (0 < rd Reg.ETH_ECN_RAISE_INT s.dev → tempoNow s.dev % rd Reg.ETH_ECN_RAISE_INT s.dev = 0 →
      (s.dev.front.ctxs.map (·.1)).Nodup → Answers .rateRaise s fun d =>
        ∀ c, (getCtx c s.dev).opn = true → (getCtx c s.dev).rdma = true →
          (getCtx c s.dev).rate < lineRate (getCtx c s.dev).port s.dev →
          (getCtx c s.dev).lastCut + rd Reg.ETH_ECN_RAISE_INT s.dev < tempoNow s.dev →
          (getCtx c d).rate = min (lineRate (getCtx c s.dev).port s.dev)
            ((getCtx c s.dev).rate + rd Reg.ETH_ECN_RAISE_STEP s.dev))

/-- Connect creates a controller or a queue with its context, the causes of teardown close contexts, and ports train, rise and fall.
For every ready state: a Connect over an enabled transport, to the service port of its subsystem, on a port that is up, with a
free context opens that context with its generation raised by one: one of the admin queue with a free CNTLID creates the
controller and answers the CNTLID, one of an I/O queue joins the host's own controller. Disconnect of an open context, loss of
its connection, and expiry of a controller's keep-alive timeout close it; a retrain starts under its grant and otherwise asks
for 10 tokens a lane; HOST_LINK_UP sets UP and SPEED after training; HOST_LINK_DOWN clears UP; COMPLETION_DELIVERED frees the
record of a posted command, COMPLETED. Commands that it shows to complete: hostLinkRetrain, fabricsConnect, fabricsDisconnect,
keepAliveExpire, completionDelivered, transportConnectionLoss, hostLinkDown, hostLinkUp. (spec/05_nvme_front_end.md, Subsystem,
controllers and queues; spec/05_nvme_front_end.md, Aborts and teardown; spec/05_nvme_front_end.md, Host ports;
spec/05_nvme_front_end.md, Discovery; R152) -/
def Obligations.ConnectionsAndLinks : Prop :=
  ∀ s : State, s.ready →
    (∀ (r : ConnectReq) (c : Nat), glbState s.dev ≠ 0 →
      rd (if r.rdma then Reg.NVF_CTRL_RDMA_EN else Reg.NVF_CTRL_TCP_EN) s.dev = 1 →
      (r.disc = false ∨ rd Reg.NVF_CTRL_DISC_EN s.dev = 1) → r.service = (if r.disc && !r.rdma then 8009 else 4420) →
      rd (Reg.ETH_LINK_UP r.port) s.dev = 1 → s.dev.cas.outputsHeld = false → freeCtx s.dev = some c →
      (∀ k, r.qid = 0 → r.entries ≤ 32 → freeCntlid s.dev = some k → Answers (.fabricsConnect r) s fun d =>
        (getCtx c d).opn = true ∧ (getCtx c d).cntlid = k ∧ (getCtx c d).gen = ((getCtx c s.dev).gen + 1) % 64 ∧
        (getCtrl k d).exists_ = true ∧ (getCtrl k d).nqn = r.nqn ∧ (getCtrl k d).admin = c ∧
        Out.completion c r.cid 0 false k ∈ d.out) ∧
      (1 ≤ r.qid → r.qid ≤ 128 → r.entries ≤ 1024 → (getCtrl r.cntlid s.dev).exists_ = true →
        (getCtrl r.cntlid s.dev).nqn = r.nqn → (getCtrl r.cntlid s.dev).disc = false →
        (∀ q ∈ ctrlCtxs r.cntlid s.dev, (getCtx q s.dev).qid ≠ r.qid) → Answers (.fabricsConnect r) s fun d =>
          (getCtx c d).opn = true ∧ (getCtx c d).cntlid = r.cntlid ∧ (getCtx c d).qid = r.qid ∧
          (getCtx c d).gen = ((getCtx c s.dev).gen + 1) % 64 ∧ Out.completion c r.cid 0 false r.cntlid ∈ d.out)) ∧
    (∀ c : HostCmd, (getCtx c.ctx s.dev).opn = true → Answers (.fabricsDisconnect c) s fun d =>
      (getCtx c.ctx d).opn = false ∧ Out.completion c.ctx c.cid 0 false 0 ∈ d.out) ∧
    (∀ c : Fin 262144, Answers (.transportConnectionLoss c) s fun d => (getCtx c d).opn = false) ∧
    (∀ (k : Fin 65536) (ms : Nat), (getCtrl k s.dev).exists_ = true → (getCtrl k s.dev).kato ≠ 0 →
      (getCtrl k s.dev).kato ≤ ms → activationPaused s.dev = false → Answers (.keepAliveExpire k ms) s fun d =>
        (getCtx (getCtrl k s.dev).admin d).opn = false) ∧
    (∀ p : Fin 32, portLanes p s.dev ≠ 0 → (getPort p s.dev).quar = false →
      (hasGrant (.hostPort p) 5 s.dev = true → Answers (.hostLinkRetrain p) s fun d => (getPort p d).training = true) ∧
      (hasGrant (.hostPort p) 5 s.dev = false →
        (∀ q ∈ s.dev.pwr.waiting, q.who = .hostPort p → q.cls ≠ 5) → Answers (.hostLinkRetrain p) s fun d =>
          d.pwr.waiting = s.dev.pwr.waiting ++ [{ who := .hostPort p, cls := 5, cost := 10 * portLanes p s.dev }]) ∧
      ((getPort p s.dev).training = true → Answers (.hostLinkUp p) s fun d =>
        rd (Reg.ETH_LINK_UP p) d = 1 ∧ rd (Reg.ETH_LINK_SPEED p) d = portSpeed p s.dev ∧ (getPort p d).training = false)) ∧
    (∀ p : Fin 32, Answers (.hostLinkDown p) s fun d => rd (Reg.ETH_LINK_UP p) d = 0) ∧
    (∀ n : Fin 1048576, (getFc n s.dev).posted = true → (getCmd n s.dev).state = 1 → Answers (.completionDelivered n) s fun d =>
      (getCmd n d).state = 0 ∧ Out.terminal n 0 ∈ d.out ∧
      rd Reg.NVF_CMD_OUT_OUTSTANDING d = rd Reg.NVF_CMD_OUT_OUTSTANDING s.dev - 1)

/-- The admin commands of Table 5.4 that pass their checks have their effect and complete successfully. For every ready state and
capsule taken at once in record n whose checks pass: Keep Alive, Identify, Get Log Page and Get Features complete successfully;
Get Features answers the feature that Set Features set; Abort completes with DW0 1 and counts; Property Get of VS and CC answers
them, Property Set of CC without disable or shutdown stores it; an Asynchronous Event Request is held while no event waits and
completes with one otherwise; Namespace Management create and delete, and Namespace Attachment, have their effect. Commands that
it shows to complete: propertyGet, propertySet, identify, getLogPage, setFeatures, getFeatures, asyncEventRequest, keepAlive,
abort, namespaceManagement, namespaceAttachment. (spec/05_nvme_front_end.md, Subsystem, controllers and queues;
spec/05_nvme_front_end.md, Command flow; spec/05_nvme_front_end.md, Aborts and teardown; spec/05_nvme_front_end.md, Asymmetric
namespace access) -/
def Obligations.AdminCommandsComplete : Prop :=
  ∀ (s : State) (c : HostCmd) (n : Nat), s.ready →
    (∀ x ∈ [(NvmeOp.keepAlive, Instr.keepAlive c), (.identify, .identify c), (.getLogPage, .getLogPage c)],
      capsuleTaken x.1 c n s.dev → checksPass x.1 c s.dev → Answers x.2 s fun d => Ended c n 0 0 s.dev d) ∧
    (capsuleTaken .abort c n s.dev → checksPass .abort c s.dev → Answers (.abort c) s fun d =>
      Ended c n 0 1 s.dev d ∧
      (rd Reg.NVF_ABORT_REQUESTS s.dev < 2 ^ 32 - 1 → rd Reg.NVF_ABORT_REQUESTS d = rd Reg.NVF_ABORT_REQUESTS s.dev + 1)) ∧
    (capsuleTaken .setFeatures c n s.dev → checksPass .setFeatures c s.dev → Answers (.setFeatures c) s fun d =>
      Ended c n 0 0 s.dev d ∧ tget 0 (getCtrl (cntlidOf c s.dev) d).features c.sel = if c.sel = 7 then 0x7F007F else c.val) ∧
    (capsuleTaken .getFeatures c n s.dev → checksPass .getFeatures c s.dev → Answers (.getFeatures c) s fun d =>
      Ended c n 0 0 s.dev d ∧
      Out.adminData c.ctx c.cid [tget 0 (getCtrl (cntlidOf c s.dev) s.dev).features c.sel] ∈ d.out) ∧
    (capsuleTaken .propertyGet c n s.dev → checksPass .propertyGet c s.dev →
      (c.sel = 0x08 → Answers (.propertyGet c) s fun d => Ended c n 0 0 s.dev d ∧ Out.adminData c.ctx c.cid [0x20000] ∈ d.out) ∧
      (c.sel = 0x14 → Answers (.propertyGet c) s fun d =>
        Ended c n 0 0 s.dev d ∧ Out.adminData c.ctx c.cid [(getCtrl (cntlidOf c s.dev) s.dev).cc] ∈ d.out)) ∧
    (capsuleTaken .propertySet c n s.dev → checksPass .propertySet c s.dev → c.sel = 0x14 → c.val % 2 = 1 →
      c.val / 2 ^ 14 % 4 = 0 → Answers (.propertySet c) s fun d =>
        Ended c n 0 0 s.dev d ∧ (getCtrl (cntlidOf c s.dev) d).cc = c.val) ∧
    (capsuleTaken .asyncEvent c n s.dev → checksPass .asyncEvent c s.dev →
      let k := getCtrl (cntlidOf c s.dev) s.dev
      ((∀ e ∈ k.events, e ∈ k.masked) → Answers (.asyncEventRequest c) s fun d =>
        (getCtrl (cntlidOf c s.dev) d).aers = k.aers ++ [n] ∧ (getFc n d).ready = none) ∧
      (∀ e, k.events.find? (fun e => !k.masked.contains e) = some e → k.aers = [] → Answers (.asyncEventRequest c) s fun d =>
        Ended c n 0 (eventDw0 e) s.dev d ∧ (getCtrl (cntlidOf c s.dev) d).events = k.events.erase e ∧
        e ∈ (getCtrl (cntlidOf c s.dev) d).masked)) ∧
    (capsuleTaken .nsManage c n s.dev → checksPass .nsManage c s.dev →
      (c.sel = 1 → c.nsid ≠ 0xFFFFFFFF → (getNs c.nsid s.dev).exists_ = true → Answers (.namespaceManagement c) s fun d =>
        Ended c n 0 0 s.dev d ∧ (getNs c.nsid d).exists_ = false) ∧
      (c.sel = 1 → c.nsid = 0xFFFFFFFF → Answers (.namespaceManagement c) s fun d =>
        Ended c n 0 0 s.dev d ∧ ∀ m, (getNs m d).exists_ = false) ∧
      (∀ (t : Spt) (id : Nat), c.sel = 0 → s.dev.sxc.spt = some t → t.bad = [] → s.dev.flt.inj = none →
        (tget {} t.domains c.create.domain).valid = true →
        pickNsid c.create.domain (tget {} t.domains c.create.domain).opn t s.dev = some id →
        c.create.blocks ≠ 0 → c.create.blocks % blocksPerSquare c.create.lbaf = 0 → c.create.lbaf ≤ 5 →
        (if c.create.lbaf < 2 then c.create.pi = 0 else 1 ≤ c.create.pi ∧ c.create.pi ≤ 3) →
        1 ≤ c.create.group → c.create.group ≤ 128 → (getPool c.create.pool s.dev).exists_ = true →
        Answers (.namespaceManagement c) s fun d =>
          Ended c n 0 0 s.dev d ∧ Out.adminData c.ctx c.cid [id] ∈ d.out ∧ (getNs id d).exists_ = true ∧
          (getNs id d).size = c.create.blocks / blocksPerSquare c.create.lbaf ∧ (getNs id d).domain = c.create.domain)) ∧
    (capsuleTaken .nsAttach c n s.dev → checksPass .nsAttach c s.dev → (getNs c.nsid s.dev).exists_ = true →
      c.val / 32768 = ownHead s.dev → (getCtrl c.val s.dev).exists_ = true →
      (c.sel = 0 → (getCtrl c.val s.dev).nqn ∉ (getNs c.nsid s.dev).hosts → Answers (.namespaceAttachment c) s fun d =>
        Ended c n 0 0 s.dev d ∧ d.front.attach = s.dev.front.attach ++ [(c.nsid, (getCtrl c.val s.dev).nqn, true)]) ∧
      (c.sel = 1 → (getCtrl c.val s.dev).nqn ∈ (getNs c.nsid s.dev).hosts → Answers (.namespaceAttachment c) s fun d =>
        Ended c n 0 0 s.dev d ∧ d.front.attach = s.dev.front.attach ++ [(c.nsid, (getCtrl c.val s.dev).nqn, false)]))

/-- I/O commands that pass their checks take slots, read unmapped squares as zeros, change reservations, and complete. For every
ready state, every command capsule taken at once is accepted in record n, which is mirrored, and counted (R161, R501). If its
checks pass: Flush completes; a write without data that fits takes one FILLING slot per square and, with no peer to wait for,
asks for its data; Write Zeroes and deallocation of whole squares leave slots of KIND 1 and 2 staged; Read, Compare and Verify
of an unmapped namespace without tags complete, a Read within one square with zeros; reservation commands report, register,
replace, unregister, acquire, release and clear. A waiting capsule, and a write that waits for slots, go on when they may; a
block of data lands, the last of a command stages its slots, and one whose guard fails ends the write and frees its slots.
Commands that it shows to complete: propertyGet, propertySet, identify, getLogPage, setFeatures, getFeatures, asyncEventRequest,
keepAlive, abort, namespaceManagement, namespaceAttachment, firmwareImageDownload, firmwareCommitSlot, firmwareCommitSlotNext,
firmwareCommitNext, firmwareCommitActivate, nvmeRead, nvmeWrite, nvmeCompare, nvmeVerify, writeZeroes, flush, datasetManagement,
reservationRegister, reservationReport, reservationAcquire, reservationRelease, commandRecordWait, slotAdmitWait, writeDataLand.
(spec/05_nvme_front_end.md, Command flow; spec/05_nvme_front_end.md, Subsystem, controllers and queues;
spec/06_write_pipeline.md, Staging; spec/10_read_pipeline.md, Where a square's data comes from) -/
def Obligations.IoCommandsStart : Prop :=
  ∀ (s : State) (c : HostCmd) (n : Nat), s.ready →
    (∀ x ∈ [(NvmeOp.nsManage, Instr.namespaceManagement c), (.nsAttach, .namespaceAttachment c), (.identify, .identify c),
        (.getLogPage, .getLogPage c), (.setFeatures, .setFeatures c), (.getFeatures, .getFeatures c), (.abort, .abort c),
        (.asyncEvent, .asyncEventRequest c), (.keepAlive, .keepAlive c), (.propertyGet, .propertyGet c), (.propertySet, .propertySet c),
        (.fwDownload, .firmwareImageDownload c), (.fwCommit 0, .firmwareCommitSlot c), (.fwCommit 1, .firmwareCommitSlotNext c),
        (.fwCommit 2, .firmwareCommitNext c), (.fwCommit 3, .firmwareCommitActivate c), (.read, .nvmeRead c), (.write, .nvmeWrite c),
        (.compare, .nvmeCompare c), (.verify, .nvmeVerify c), (.writeZeroes, .writeZeroes c), (.flush, .flush c),
        (.dsm, .datasetManagement c), (.resvRegister, .reservationRegister c), (.resvReport, .reservationReport c),
        (.resvAcquire, .reservationAcquire c), (.resvRelease, .reservationRelease c)],
      capsuleTaken x.1 c n s.dev → Answers x.2 s fun d =>
        Out.mirrorCmd n ∈ d.out ∧
        (rd Reg.NVF_CMD_ACC_ACCEPTED s.dev < 2 ^ 64 - 1 → rd Reg.NVF_CMD_ACC_ACCEPTED d = rd Reg.NVF_CMD_ACC_ACCEPTED s.dev + 1)) ∧
    (∀ x ∈ [(NvmeOp.flush, Instr.flush c), (.resvReport, .reservationReport c)],
      capsuleTaken x.1 c n s.dev → checksPass x.1 c s.dev → Answers x.2 s fun d => Ended c n 0 0 s.dev d) ∧
    (∀ x ∈ [(NvmeOp.write, Instr.nvmeWrite c, 0), (.writeZeroes, .writeZeroes c, 1), (.dsm, .datasetManagement c, 2)],
      capsuleTaken x.1 c n s.dev → checksPass x.1 c s.dev → c.data = [] → s.dev.stg.tight = false →
      (∀ m ∈ s.dev.front.waiting, (getFc m s.dev).cmd.ctx ≠ c.ctx) →
      needsOf { op := x.1, cmd := c } s.dev ≠ [] →
      (x.2.2 ≠ 0 → ∀ q ∈ needsOf { op := x.1, cmd := c } s.dev, q.2.1 = x.2.2) →
      needBytes (needsOf { op := x.1, cmd := c } s.dev) ≤ freeCapacity (getNs c.nsid s.dev).pool s.dev →
      (needsOf { op := x.1, cmd := c } s.dev).length + slotsHeld s.dev ≤ slotLimit s.dev → throttled c.nsid s.dev = false →
      Answers x.2.1 s fun d =>
        (getFc n d).slots.length = (needsOf { op := x.1, cmd := c } s.dev).length ∧
        (∀ m ∈ (getFc n d).slots, (getSlot m d).nsid = c.nsid ∧ (getSlot m d).kind = x.2.2 ∧
          (getSlot m d).cmd = some n ∧ (x.2.2 = 0 → (getSlot m d).state = 1) ∧ (x.2.2 ≠ 0 → 2 ≤ (getSlot m d).state)) ∧
        (x.2.2 = 0 → alone s.dev = true → Out.fetchData c.ctx c.cid c.sglLen ∈ d.out)) ∧
    (∀ x ∈ [(NvmeOp.read, Instr.nvmeRead c), (.compare, .nvmeCompare c), (.verify, .nvmeVerify c)],
      capsuleTaken x.1 c n s.dev → checksPass x.1 c s.dev → c.prchk = 0 → metaSize (getNs c.nsid s.dev).lbaf = 0 →
      (∀ p ∈ s.dev.stg.slots, p.2.nsid ≠ c.nsid) → (servedNs c.nsid s.dev).unread = [] →
      (∀ k, gidNil (mapGet (servedNs c.nsid s.dev).root (servedNs c.nsid s.dev).depth k s.dev) = true) →
      (x.1 = .compare → c.data = List.replicate (cmdLength (getNs c.nsid s.dev) c) 0) →
      Answers x.2 s fun d => Ended c n 0 0 s.dev d ∧
        (x.1 = .read → (squaresOf (getNs c.nsid s.dev).lbaf c.slba (c.nlb + 1)).length = 1 →
          Out.hostData c.ctx c.cid 0 (List.replicate (cmdLength (getNs c.nsid s.dev) c) 0) ∈ d.out)) ∧
    (capsuleTaken .resvRegister c n s.dev → checksPass .resvRegister c s.dev →
      let key := resvKey (getNs c.nsid s.dev).resv (hostOf c s.dev)
      (c.sel % 8 = 0 → (key = 0 ∨ key = c.val2 + 1) → Answers (.reservationRegister c) s fun d =>
        Ended c n 0 0 s.dev d ∧ resvKey (getNs c.nsid d).resv (hostOf c s.dev) = c.val2 + 1) ∧
      (c.sel % 8 = 1 → key = c.val + 1 → Answers (.reservationRegister c) s fun d =>
        Ended c n 0 0 s.dev d ∧ resvKey (getNs c.nsid d).resv (hostOf c s.dev) = 0) ∧
      (c.sel % 8 = 2 → key = c.val + 1 → Answers (.reservationRegister c) s fun d =>
        Ended c n 0 0 s.dev d ∧ resvKey (getNs c.nsid d).resv (hostOf c s.dev) = c.val2 + 1)) ∧
    (capsuleTaken .resvAcquire c n s.dev → checksPass .resvAcquire c s.dev → c.sel % 8 = 0 → 1 ≤ c.sel / 256 % 256 →
      c.sel / 256 % 256 ≤ 6 → resvKey (getNs c.nsid s.dev).resv (hostOf c s.dev) = c.val + 1 →
      (getNs c.nsid s.dev).resv.rtype = 0 → Answers (.reservationAcquire c) s fun d =>
        Ended c n 0 0 s.dev d ∧ (getNs c.nsid d).resv.rtype = c.sel / 256 % 256 ∧
        (getNs c.nsid d).resv.holder = some (hostOf c s.dev)) ∧
    (capsuleTaken .resvRelease c n s.dev → checksPass .resvRelease c s.dev →
      resvKey (getNs c.nsid s.dev).resv (hostOf c s.dev) = c.val + 1 →
      (c.sel % 8 = 0 → (getNs c.nsid s.dev).resv.holder = some (hostOf c s.dev) →
        (getNs c.nsid s.dev).resv.rtype = c.sel / 256 % 256 → Answers (.reservationRelease c) s fun d =>
          Ended c n 0 0 s.dev d ∧ (getNs c.nsid d).resv.rtype = 0 ∧ (getNs c.nsid d).resv.holder = none) ∧
      (c.sel % 8 = 1 → Answers (.reservationRelease c) s fun d =>
        Ended c n 0 0 s.dev d ∧ (getNs c.nsid d).resv.rtype = 0 ∧ (getNs c.nsid d).resv.keys = [])) ∧
    (∀ q, nextCapsule s.dev = some q → freeRecord s.dev = some n → isForwarded q.op q.cmd s.dev = false →
      Answers .commandRecordWait s fun d =>
        Out.mirrorCmd n ∈ d.out ∧ (q.op ≠ .propertySet → d.front.capsules = s.dev.front.capsules.erase q)) ∧
    ((s.dev.front.waiting.find? fun n => slotsFor n s.dev && !waitsBehind n s.dev) = some n → Answers .slotAdmitWait s fun d =>
      n ∉ d.front.waiting ∧ (getFc n d).waitSlots = false ∧
      ((getFc n s.dev).op = .write → (getFc n s.dev).cmd.data = [] →
        (getFc n d).slots.length = (getFc n s.dev).slots.length + (needsOf (getFc n s.dev) s.dev).length)) ∧
    (∀ (r : Fin 1048576) (i m : Nat) (data : List Byte), (getFc r s.dev).op = .write → (getFc r s.dev).fetched = true →
      (getFc r s.dev).ready = none → i ≤ (getFc r s.dev).cmd.nlb → i ∉ (getFc r s.dev).landed →
      slotOfSquare r (((getFc r s.dev).cmd.slba + i) / blocksPerSquare (getNs (getFc r s.dev).cmd.nsid s.dev).lbaf) s.dev = some m →
      (getSlot m s.dev).state = 1 →
      let ns := getNs (getFc r s.dev).cmd.nsid s.dev
      (metaSize ns.lbaf = 0 ∨ (getFc r s.dev).cmd.pract = true ∨ (getFc r s.dev).cmd.prchk = 0 →
        data.length = blockSize ns.lbaf + (if (getFc r s.dev).cmd.pract then 0 else metaSize ns.lbaf) →
        Answers (.writeDataLand r i data) s fun d =>
          ((getFc r s.dev).landed.length + 1 < cmdBlocks (getFc r s.dev).cmd →
            (getFc r d).landed = (getFc r s.dev).landed ++ [i]) ∧
          ((getFc r s.dev).landed.length + 1 = cmdBlocks (getFc r s.dev).cmd →
            ∀ m' ∈ (getFc r s.dev).slots, 2 ≤ (getSlot m' d).state) ∧
          ∀ j (h : j < data.length), j < blockSize ns.lbaf → tget 0 (getSlot m d).data
            (blockSize ns.lbaf * (((getFc r s.dev).cmd.slba + i) % blocksPerSquare ns.lbaf) + j) = data[j]) ∧
      (metaSize ns.lbaf = 8 → (getFc r s.dev).cmd.pract = false →
        bitOf (getFc r s.dev).cmd.prchk 2 = true →
        data.length = blockSize ns.lbaf + 8 →
        beNat ((data.drop (data.length - 8)).take 2) ≠ crc16 (data.take (data.length - 8)) →
        beNat ((data.drop (data.length - 6)).take 2) ≠ 65535 → Answers (.writeDataLand r i data) s fun d =>
          (getFc r d).slots = [] ∧ ∃ dnr, (getFc r d).ready = some (0x282, dnr)))

/-- A staged slot becomes durable, is taken, merged, fingerprinted, decided, referenced and placed, step by step. For every ready
state and slot: MIRROR_ACK makes a STAGED slot DURABLE and ends a write whose other slots are durable, and acknowledges a
command's record; MIRROR_WRITE_FAILED issues the write again over another port with a path, or leaves it until one returns;
outside time trouble REDUCTION_TAKE_SLOT supersedes the due slot, packs zeros and unmaps, starts the digest of a whole square or
the merge read of a partial one; a merge read that ended completes the square, lists its blocks as lost, or defers the slot; a
good fingerprint is kept and an all-zero square packed under the all-ones GID; a digest that fails runs again, and without a
lane the slot waits in DURABLE; MISS asks for a frame with the insert that the answer allows, a usable pair-local HIT is packed,
a foreign one HELD, a compared one read; a reference add that swaps sets ADD_DONE and packs the slot once that is written, one
that fails makes a new granule; FRAME_PLACEMENT places the frame in the open row under the next GID, and packs the slot when its
cipher job ends. Commands that it shows to complete: mirrorAck, mirrorWriteFailed, reductionTakeSlot, mergeReadResult,
fingerprintResult, indexDecision, referenceAddResult, framePlacement. (spec/06_write_pipeline.md, Mirror and completion;
spec/06_write_pipeline.md, Reduction; spec/06_write_pipeline.md, Fingerprint and zero detection; spec/06_write_pipeline.md,
Index decision; spec/06_write_pipeline.md, Placement and encryption; R191; R196; R197; R651; R653) -/
def Obligations.ReductionStepsAdvanceSlots : Prop :=
  ∀ (s : State) (n : Nat), s.ready →
    ((getSlot n s.dev).state = 2 → Answers (.mirrorAck (.slot n)) s fun d =>
      (getSlot n d).state = 3 ∧ (getSlot n d).durTempo = tempoNow s.dev ∧
      ∀ c, (getSlot n s.dev).cmd = some c → (getFc c s.dev).ready = none →
        (∀ m ∈ (getFc c s.dev).slots, m = n ∨ 3 ≤ (getSlot m s.dev).state) → (getFc c d).ready = some (0, false) ∨ (getCmd c d).state = 0) ∧
    ((getCmd n s.dev).state = 1 → (getFc n s.dev).torn = false → Answers (.mirrorAck (.cmd n)) s fun d => (getCmd n d).acked = true) ∧
    (∀ (item : MirrorItem) (port : Fin 4), s.dev.cas.hasPeer = true → peerLost s.dev = false → mirrorWanted item s.dev = true →
      Answers (.mirrorWriteFailed item port) s fun d =>
        (∀ p ps, (pathPorts (peerDev s.dev) s.dev).filter (· != port.val) = p :: ps → Out.mirrorOn p item ∈ d.out) ∧
        ((pathPorts (peerDev s.dev) s.dev).filter (· != port.val) = [] → item ∈ d.stg.left)) ∧
    (∀ (e : Fin 64) (bad : BitVec 16) (copy : Option (List Byte)), inTrouble s.dev = false → nextSlot e s.dev = some n →
      let x := getSlot n s.dev
      let g := mapGet (getNs x.nsid s.dev).root (getNs x.nsid s.dev).depth x.square s.dev
      (superseded x s.dev = true → Answers (.reductionTakeSlot e bad copy) s fun d =>
        (getSlot n d).state = 5 ∧ (getSlot n d).work.action = 12) ∧
      (superseded x s.dev = false → x.kind = 1 → Answers (.reductionTakeSlot e bad copy) s fun d =>
        (getSlot n d).state = 5 ∧ (getSlot n d).work.newGid = gidOnes) ∧
      (superseded x s.dev = false → x.kind = 2 → Answers (.reductionTakeSlot e bad copy) s fun d =>
        (getSlot n d).state = 5 ∧ (getSlot n d).work.newGid = 0) ∧
      (superseded x s.dev = false → x.kind = 0 → bad.toNat &&& x.valid = 0 → (x.valid = 65535 ∨ gidNil g = true) →
        Answers (.reductionTakeSlot e bad copy) s fun d =>
          (getSlot n d).state = 4 ∧ (getSlot n d).work.phase = 2 ∧ (getSlot n d).work.engine = e.val ∧
          (getSlot n d).work.square = mergeWith x []) ∧
      (superseded x s.dev = false → x.kind = 0 → bad.toNat &&& x.valid = 0 → x.valid ≠ 65535 → gidNil g = false →
        gidLocal g s.dev = true → (getGte g s.dev).refcnt ≠ 0 → (getGte g s.dev).lost = false →
        (getSeg (getGte g s.dev).seg s.dev).state ≠ 0 → Answers (.reductionTakeSlot e bad copy) s fun d =>
          (getSlot n d).state = 4 ∧ (getSlot n d).work.phase = 1 ∧ (getSlot n d).work.engine = e.val ∧
          slotJob (.merge n) d ≠ none)) ∧
    ((getSlot n s.dev).state = 4 →
      ((getSlot n s.dev).work.phase = 1 → ∀ j r p, slotJob (.merge n) s.dev = some (j, r) →
        (∀ dnr, r.res = some (0, dnr, p) → Answers (.mergeReadResult n) s fun d =>
          (getSlot n d).work.phase = 2 ∧ (getSlot n d).work.square = mergeWith (getSlot n s.dev) p) ∧
        (∀ st, st ≠ 0 → r.res = some (st, true, p) → Answers (.mergeReadResult n) s fun d =>
          (getSlot n d).work.phase = 2 ∧ (getSlot n d).lostblk = true ∧
          (getSlot n d).work.square = mergeWith (getSlot n s.dev) []) ∧
        (∀ st, st ≠ 0 → r.res = some (st, false, p) → Answers (.mergeReadResult n) s fun d =>
          (getSlot n d).state = 3 ∧ (getSlot n d).durTempo = (getSlot n s.dev).durTempo)) ∧
      ((getSlot n s.dev).work.phase = 2 →
        (laneServes 6 s.dev = true → pipeReady 6 (.slot n) s.dev → Answers (.fingerprintResult n .ok) s fun d =>
          (getSlot n d).work.fp = sha256 (getSlot n s.dev).work.square ∧
          ((getSlot n s.dev).work.square = List.replicate 8192 0 → (getSlot n s.dev).held = false →
            (getSlot n d).state = 5 ∧ (getSlot n d).work.newGid = gidOnes)) ∧
        (laneServes 6 s.dev = true → pipeReady 6 (.slot n) s.dev → ((pipeOf 6 (.slot n) s.dev).bind (·.failed)) = none →
          Answers (.fingerprintResult n .fail) s fun d =>
            (getSlot n d).state = 4 ∧ (getSlot n d).work.phase = 2 ∧ ((pipeOf 6 (.slot n) d).bind (·.failed)) ≠ none) ∧
        (∀ ending, laneServes 6 s.dev = false → Answers (.fingerprintResult n ending) s fun d =>
          (getSlot n d).state = 3 ∧ (getSlot n d).wants = some 6)) ∧
      (∀ a, (getSlot n s.dev).work.phase = 3 → (getSlot n s.dev).work.ans = some a → inTrouble s.dev = false →
        (a.result = 1 → Answers (.indexDecision n) s fun d =>
          (getSlot n d).work.phase = 6 ∧ (getSlot n d).work.action = 0 ∧ (getSlot n d).work.insert = bitOf a.flags 0) ∧
        (1 < a.result → Answers (.indexDecision n) s fun d =>
          (getSlot n d).work.phase = 6 ∧ (getSlot n d).work.insert = false) ∧
        (a.result = 0 → hitRefused n a s.dev.quiet = none →
          ((comparePolicy (getNs (getSlot n s.dev).nsid s.dev) s.dev.quiet).1 = false → Answers (.indexDecision n) s fun d =>
            (gidLocal a.gid s.dev = true →
              (getSlot n d).state = 5 ∧ (getSlot n d).work.action = 1 ∧ (getSlot n d).work.newGid = a.gid) ∧
            (gidLocal a.gid s.dev = false →
              (getSlot n d).state = 4 ∧ (getSlot n d).held = true ∧ (getSlot n d).heldGid = a.gid ∧
              (slotAlone n s.dev = true → (getSlot n d).work.phase = 5 ∧
                Out.refAdd a.gid (firstWord (fpTag (getSlot n s.dev).work.fp)) ∈ d.out))) ∧
          ((comparePolicy (getNs (getSlot n s.dev).nsid s.dev) s.dev.quiet).1 = true → gidLocal a.gid s.dev = true →
            (getSeg (getGte a.gid s.dev).seg s.dev).state ≠ 0 → Answers (.indexDecision n) s fun d =>
              (getSlot n d).work.phase = 4 ∧ slotJob (.compare n) d ≠ none))) ∧
      ((getSlot n s.dev).work.phase = 5 →
        (∀ v : BitVec 64, v.toNat = (getSlot n s.dev).work.expect_ → Answers (.referenceAddResult (.slot n) (some v)) s fun d =>
          (getSlot n d).addDone = true ∧
          (slotAlone n s.dev = true → (getSlot n d).state = 5 ∧ (getSlot n d).work.action = 2 ∧
            (getSlot n d).work.newGid = (getSlot n s.dev).heldGid) ∧
          (slotAlone n s.dev = false → (getSlot n d).work.phase = 12 ∧ (getSlot n d).unacked = true)) ∧
        (Answers (.referenceAddResult (.slot n) none) s fun d =>
          (getSlot n d).held = false ∧ (getSlot n d).work.phase = 6 ∧ (getSlot n d).work.insert = false)) ∧
      ((getSlot n s.dev).work.phase = 12 → Answers (.mirrorAck (.slot n)) s fun d =>
        (getSlot n d).state = 5 ∧ (getSlot n d).work.action = 2 ∧ (getSlot n d).work.newGid = (getSlot n s.dev).heldGid) ∧
      (∀ (compress : JobEnd) (b incomp : Bool) (gen gid row fmt : Nat) (key pay : Bytes) (d1 e : Dev),
        (getSlot n s.dev).work.phase = 6 → inTrouble s.dev = false → laneServes 3 s.dev = true → pipeOf 3 (.slot n) s.dev = none →
        let ns := getNs (getSlot n s.dev).nsid s.dev
        let slen := (48 + pay.length + padOf pay.length) / 16
        compressStep n compress s.dev.quiet = (.ok, d1) → (getSlot n d1).work.pay = some (fmt, incomp, pay) →
        writeKey ns d1 = (some (b, gen, key), e) → nextGid ns.pool e = (some gid, e) → e.todo = [] →
        openRowOf (getSlot n s.dev).work.engine 0 e = some row → (getRow row e).pool = ns.pool →
        rowUsed (getRow row e) + 16 * slen ≤ rowSpace (getRow row e) e → Answers (.framePlacement n compress .ok) s fun d =>
          ((getSlot n d).state = 5 ∨ ((getSlot n d).state = 4 ∧ (getSlot n d).work.phase = 10)) ∧ (getSlot n d).work.newGid = gid ∧
          (getPool ns.pool d).seqNext = (getPool ns.pool e).seqNext + 1 ∧
          ∃ f ∈ (getRow row d).frames, f.gid = gid ∧ f.slot = some n ∧ f.slen = slen ∧ f.off = rowUsed (getRow row e) / 16) ∧
      (∀ compress, (getSlot n s.dev).work.phase = 10 → inTrouble s.dev = false → laneServes 3 s.dev = true →
        pipeReady 3 (.slot n) s.dev → Answers (.framePlacement n compress .ok) s fun d =>
          (getSlot n d).state = 5 ∧ (getSlot n d).work.newGid = (getSlot n s.dev).work.newGid ∧
          ∀ r, ∀ f ∈ (getRow r d).frames, f.slot = some n → f.gid = (getSlot n s.dev).work.newGid →
            f.bytes = (getSlot n s.dev).work.frame))

/-- Open rows close by age, are issued under a grant, are programmed or burned, and records commit in TSN order. For every ready
state: an open row with a frame closes once ROW_AGE tempi have passed since its first; a closed row whose turn it is and whose
parity job ends well waits for tokens or, with a grant, is issued, and a parity job that fails runs again; a row whose columns
all succeeded, and whose transactions nothing holds back, leaves assembly, one without a slot's frame counting in its segment; a
row with a failed column leaves its segment. While a peer acknowledges and no committed record waits to be applied: every
frameless PACKED slot outside a batch gets its transaction, a single one its record; the end of a foreign release is journalled;
an acknowledged record commits, and a GID_MARK that is next in TSN order is applied and raises its pool's mark; the peer's next
is applied too. Commands that it shows to complete: rowAgeExpire, rowProgramIssue, rowProgrammed, rowProgramFail,
framelessTransaction, transactionCommit, peerRecordApply, foreignReleaseDone. (spec/06_write_pipeline.md, Granule frames and
rows; spec/06_write_pipeline.md, Parity and programming; spec/06_write_pipeline.md, Metadata transaction and journal record) -/
def Obligations.RowsAndTransactions : Prop :=
  ∀ s : State, s.ready →
    (∀ row : Nat,
      ((getRow row s.dev).state = 1 → (getRow row s.dev).frames ≠ [] →
        (getRow row s.dev).first + s.dev.oimCfg.rowAge ≤ tempoNow s.dev →
        Answers (.rowAgeExpire row) s fun d => (getRow row d).state = 2) ∧
      ((getRow row s.dev).state = 2 → (getRow row s.dev).after ≤ tempoNow s.dev → laneServes 5 s.dev = true →
        unsealed (getRow row s.dev) s.dev = false → pipeReady 5 (.row row) s.dev →
        (∀ parity : JobEnd, (parity = .ok ∨ (getRow row s.dev).parity = true) → engineBusy row s.dev = false → rowTurn row s.dev = true →
          (hasGrant (.engine (rowEngine row s.dev)) 1 s.dev = true → Answers (.rowProgramIssue row parity) s fun d =>
            (getRow row d).state = 3) ∧
          (hasGrant (.engine (rowEngine row s.dev)) 1 s.dev = false →
            (∀ q ∈ s.dev.pwr.waiting, q.who = .engine (rowEngine row s.dev) → q.cls ≠ 1) →
            Answers (.rowProgramIssue row parity) s fun d =>
              (getRow row d).state = 2 ∧ (getRow row d).parity = true ∧ d.pwr.waiting = s.dev.pwr.waiting ++
                [{ who := .engine (rowEngine row s.dev), cls := 1, cost := (getSeg (getRow row s.dev).seg s.dev).cols.length }])) ∧
        ((getRow row s.dev).parity = false → ((pipeOf 5 (.row row) s.dev).bind (·.failed)) = none →
          Answers (.rowProgramIssue row .fail) s fun d =>
            (getRow row d).state = 2 ∧ ((pipeOf 5 (.row row) d).bind (·.failed)) ≠ none)) ∧
      ((getRow row s.dev).state = 3 → (getRow row s.dev).void = false → inTrouble s.dev = false →
        rowSuccess (getRow row s.dev) s.dev = true → row < s.dev.stg.rowNext →
        (∀ f ∈ (getRow row s.dev).frames, ∀ m, f.slot = some m →
          (getSlot m s.dev).unacked = false ∧ walkHolds (getSlot m s.dev).nsid s.dev = false) →
        (∀ m ∈ rowsOf (getRow row s.dev).seg true s.dev, (getRow row s.dev).row ≤ (getRow m s.dev).row) →
        ((getRow row s.dev).kind = 2 ∨ ((getRow row s.dev).kind = 0 ∧ metaStalled s.dev = false) →
          Answers (.rowProgrammed row) s fun d => (getRow row d).state = 0) ∧
        ((getRow row s.dev).kind = 0 → metaStalled s.dev = false → (∀ f ∈ (getRow row s.dev).frames, f.slot = none) →
          frameless (getRow row s.dev).engine s.dev = [] → journalQuiet s.dev → Answers (.rowProgrammed row) s fun d =>
            (getSeg (getRow row s.dev).seg d).rows = (getRow row s.dev).row + 1)) ∧
      ((getRow row s.dev).state = 3 → (getRow row s.dev).kind ≠ 4 → row < s.dev.stg.rowNext →
        (getRow row s.dev).cols.any (fun c => c.2 == 2) = true → Answers (.rowProgramFail row) s fun d =>
          (getRow row d).state ≠ 3)) ∧
    (∀ e : Fin 64, inTrouble s.dev = false → frameless e s.dev ≠ [] →
      (openRowOf e 0 s.dev).all (fun r => (getRow r s.dev).frames.isEmpty) = true → metaStalled s.dev = false →
      (∀ n ∈ frameless e s.dev, (getSlot n s.dev).batch = none ∧ walkHolds (getSlot n s.dev).nsid s.dev = false) →
      journalQuiet s.dev →
      (Answers (.framelessTransaction e) s fun d => ∀ n ∈ frameless e s.dev, (getSlot n d).work.phase = 9) ∧
      (∀ n, frameless e s.dev = [n] →
        foreignGains (getSlot n s.dev).nsid [slotEntry n none s.dev] (marked [n] s.dev.quiet) = [] →
        Answers (.framelessTransaction e) s fun d => d.stg.journal = s.dev.stg.journal ++
          [{ tsn := s.dev.stg.tsnNext, tempo := tempoNow s.dev, nsid := (getSlot n s.dev).nsid,
             head := ownHead s.dev, body := .squares [slotEntry n none s.dev] }])) ∧
    (∀ (gid tsn : Nat), ⟨gid, tsn⟩ ∈ s.dev.stg.releases → journalQuiet s.dev →
      releasesBuilt gid s.dev < (s.dev.stg.releases.filter (·.gid == gid)).length →
      Answers (.foreignReleaseDone gid tsn) s fun d => d.stg.journal = s.dev.stg.journal ++
        [{ tsn := s.dev.stg.tsnNext, tempo := tempoNow s.dev, nsid := 0, head := ownHead s.dev, body := .releaseDone [gid] }]) ∧
    (∀ tsn, journalQuiet s.dev → tsn ≠ s.dev.md.tsnOwn + 1 → Answers (.transactionCommit tsn) s fun d =>
      d.stg.journal = s.dev.stg.journal.map fun r => if r.tsn = tsn then { r with committed := true } else r) ∧
    (∀ r : JRecord, s.dev.stg.journal = [r] → r.tsn = s.dev.md.tsnOwn + 1 → r.head = ownHead s.dev → r.good = true →
      s.dev.stg.mirrorJ = [] → ∀ g, r.body = .gidMark [g] → Answers (.transactionCommit r.tsn) s fun d =>
        d.md.tsnOwn = r.tsn ∧ (getPool (gidPool g) d).seqMark = gidSeq g ∧ d.stg.journal = [{ r with committed := true }]) ∧
    (∀ r : JRecord, s.dev.stg.mirrorJ = [r] → s.dev.md.tsnPeer < r.tsn → r.head ≠ ownHead s.dev → r.good = true →
      ∀ g, r.body = .gidMark [g] → Answers .peerRecordApply s fun d => d.md.tsnPeer = r.tsn)

/-- Probes are answered by the filter, the bucket, the owner's reply or a time-out, and a WRONG_OWNER is retried once. For every
ready state and a slot of its that waits for an answer: FIU_PROBE leaves the queue and answers UNAVAILABLE without an owner,
MISS when the filter reports absent, HIT with the slot and the GID of the first match, MISS with the first empty slot otherwise,
and sends INDEX_PROBE to another owner; a probe block gets its result and DONE. INDEX_PROBE_RECEIVE answers WRONG_OWNER for a
partition that this device does not serve, and as its owner for one it serves. INDEX_REPLY_RECEIVE gives the reply to the slot,
waits for the named version after the first WRONG_OWNER, ends UNAVAILABLE after the second or a failed message, and counts a
late reply. PROBE_TIMEOUT at the due edge ends UNAVAILABLE and sets TMO; WRONG_OWNER_RETRY, once the version is reached, probes
again. Commands that it shows to complete: fiuProbe, indexProbeReceive, indexReplyReceive, probeTimeout, wrongOwnerRetry.
(spec/07_dedup_index.md, Probing; spec/07_dedup_index.md, Partitions and their owners; R233; R242; R243; R657) -/
def Obligations.IndexProbesAnswered : Prop :=
  ∀ s : State, s.ready →
    (∀ n : Nat, (getSlot n s.dev).state = 4 → (getSlot n s.dev).work.phase = 3 →
      let fp := (getSlot n s.dev).work.fp
      let kdom := (getNs (getSlot n s.dev).nsid s.dev).domain
      let part := partOf (beNat fp)
      let bucket := getBucket (bucketKey part (bucketOf (beNat fp) s.dev)) s.dev
      let answered (r : Nat) (d : Dev) : Prop := ∃ a, (getSlot n d).work.ans = some a ∧ a.result = r
      (∀ ps, s.dev.fiu.probes = .slot n :: ps →
        (ownValid part s.dev = false → Answers .fiuProbe s fun d => d.fiu.probes = ps ∧ answered 2 d) ∧
        (servesPart part s.dev = true → filterAbsent (beNat fp) s.dev = true →
          Answers .fiuProbe s fun d => d.fiu.probes = ps ∧ answered 1 d) ∧
        (servesPart part s.dev = true → filterAbsent (beNat fp) s.dev = false →
          (∀ i b, bucket.find? (fun e => entryMatches e.2 fp kdom) = some (i, b) →
            Answers .fiuProbe s fun d => ∃ a, (getSlot n d).work.ans = some a ∧ a.result = 0 ∧ a.slot = i ∧ a.gid = entryGid b) ∧
          (bucket.find? (fun e => entryMatches e.2 fp kdom) = none →
            Answers .fiuProbe s fun d => ∃ a, (getSlot n d).work.ans = some a ∧ a.result = 1 ∧ a.slot = emptySlot bucket)) ∧
        (fiuOn s.dev = true → ownValid part s.dev = true → servesPart part s.dev = false →
          Answers .fiuProbe s fun d => d.fiu.probes = ps ∧ d.fiu.nextTag = s.dev.fiu.nextTag + 1 ∧
            Out.indexProbe (ownerOf part s.dev) fp kdom (rd Reg.FIU_OWN_VER_VERSION s.dev) s.dev.fiu.nextTag ∈ d.out)) ∧
      (∀ (tag : Nat) (p : RemoteProbe), s.dev.fiu.remote.find? (·.tag == tag) = some p → p.who = .slot n →
        (p.retryVer = none →
          (∀ r : IndexReply, r.result ≠ 3 → Answers (.indexReplyReceive tag (some r)) s fun d =>
            d.fiu.remote = s.dev.fiu.remote.erase p ∧
            ∃ a, (getSlot n d).work.ans = some a ∧ a.result = r.result ∧ (r.result = 0 → a.gid = r.gid) ∧ bitOf a.flags 3 = true) ∧
          (∀ r : IndexReply, r.result = 3 → p.retried = false → Answers (.indexReplyReceive tag (some r)) s fun d =>
            d.fiu.remote = s.dev.fiu.remote.map fun x => if x.tag = tag then { x with retryVer := some r.ver } else x) ∧
          (∀ r : IndexReply, r.result = 3 → p.retried = true → Answers (.indexReplyReceive tag (some r)) s fun d =>
            d.fiu.remote = s.dev.fiu.remote.erase p ∧ answered 2 d) ∧
          (Answers (.indexReplyReceive tag none) s fun d => d.fiu.remote = s.dev.fiu.remote.erase p ∧ answered 2 d) ∧
          (p.due ≤ tempoNow s.dev → Answers (.probeTimeout tag) s fun d =>
            d.fiu.remote = s.dev.fiu.remote.erase p ∧ rdb Reg.FIU_STATUS_TMO d = true ∧ answered 2 d)) ∧
        (∀ v, p.retryVer = some v → v ≤ rd Reg.FIU_OWN_VER_VERSION s.dev →
          (ownValid part s.dev = false → Answers (.wrongOwnerRetry tag) s fun d =>
            d.fiu.remote = s.dev.fiu.remote.erase p ∧ answered 2 d) ∧
          (servesPart part s.dev = true → Answers (.wrongOwnerRetry tag) s fun d =>
            d.fiu.remote = s.dev.fiu.remote.erase p ∧ (getSlot n d).work.ans ≠ none) ∧
          (fiuOn s.dev = true → ownValid part s.dev = true → servesPart part s.dev = false → Answers (.wrongOwnerRetry tag) s fun d =>
            d.fiu.nextTag = s.dev.fiu.nextTag + 1 ∧
            Out.indexProbe (ownerOf part s.dev) fp kdom (rd Reg.FIU_OWN_VER_VERSION s.dev) s.dev.fiu.nextTag ∈ d.out)))) ∧
    (∀ (b : Nat) (ps : List ProbeFor), s.dev.fiu.probes = .block b :: ps → (probeOf (.block b) s.dev).2.2 = false →
      servesPart (partOf (beNat (memRead s.dev b 32))) s.dev = true → filterAbsent (beNat (memRead s.dev b 32)) s.dev = true →
      Answers .fiuProbe s fun d => d.fiu.probes = ps ∧ memByte d (b + 35) = 1 ∧ memByte d (b + 36) = 1) ∧
    (∀ (dev : Fin 8) (q : List Byte) (k : Fin 4096) (tag : Nat),
      (servesPart (partOf (beNat (padTo 32 q))) s.dev = false → Answers (.indexProbeReceive dev q k tag) s fun d =>
        ∃ a, Out.indexReply dev tag a ∈ d.out ∧ a.result = 3 ∧ a.ver = rd Reg.FIU_OWN_VER_VERSION s.dev) ∧
      (servesPart (partOf (beNat (padTo 32 q))) s.dev = true → Answers (.indexProbeReceive dev q k tag) s fun d =>
        Out.indexReply dev tag (ownerProbe (padTo 32 q) k s.dev.quiet).1 ∈ d.out ∧
        (filterAbsent (beNat (padTo 32 q)) s.dev = true → (ownerProbe (padTo 32 q) k s.dev.quiet).1.result = 1))) ∧
    (∀ (tag : Nat) (r : IndexReply), (∀ p ∈ s.dev.fiu.remote, p.tag ≠ tag) → rd Reg.FIU_STALE_LATE s.dev < 2 ^ 32 - 1 →
      Answers (.indexReplyReceive tag (some r)) s fun d => rd Reg.FIU_STALE_LATE d = rd Reg.FIU_STALE_LATE s.dev + 1)

/-- INSERT and REMOVE change one slot of a bucket, and the scrub, the pin drop, the owner table and the audit keep the index sound.
For every ready state: an INSERT of this head, or of a ring, whose hinted slot is empty in a served partition that is not moving
writes the new entry there and ends OK; a REMOVE, of this head or of a ring, whose slot holds the entry clears it; one at
another device sends its swap and ends as the window says; a ring's descriptor that R254 refuses ends with STATUS 7 and is
consumed; FILTER_REBUILD_DONE takes the lowest partition out of bypass; FIU_OWN_APPLY accepts 0 and any later tempo; PIN_DROP of
a GID that no slot waits for is journalled; the scrub moves on and clears a due entry whose GTE is dead; an audit's comparison
ends the pass, and one GID with an excess on the doubt list is counted and corrected. Commands that it shows to complete:
fiuInsert, fiuRemove, filterRebuildDone, fiuOwnApplyWrite, pinDrop, ownerScrub, refAuditCompare. (spec/07_dedup_index.md,
Insertion; spec/07_dedup_index.md, The index pin; spec/07_dedup_index.md, Reference-count audit; R232; R240; R247; R248; R250;
R251; R252; R254) -/
def Obligations.IndexEntriesChange : Prop :=
  ∀ (s : State) (far : FiuReport), s.ready →
    (∀ (j : IndexJob) (js : List IndexJob),
      let part := partOf (beNat j.fp)
      let key := bucketKey part (bucketOf (beNat j.fp) s.dev)
      let at_ := if j.slot > 63 then 0 else j.slot
      (servesPart part s.dev = true → ownMoving part s.dev = false →
        (s.dev.fiu.inserts = j :: js → tget [] (getBucket key s.dev) at_ = [] →
          Answers (.fiuInsert 8 far) s fun d => d.fiu.inserts = js ∧
            (rd Reg.FIU_INS_OK s.dev < 2 ^ 32 - 1 → rd Reg.FIU_INS_OK d = rd Reg.FIU_INS_OK s.dev + 1) ∧
            tget [] (getBucket key d) at_ = mkEntry j.fp j.gid j.kdom (rdb Reg.FIU_STATUS_SAMPLING s.dev) ∧
            ∀ i, i ≠ at_ → tget [] (getBucket key d) i = tget [] (getBucket key s.dev) i) ∧
        (s.dev.fiu.removes = j :: js → entryMatches (tget [] (getBucket key s.dev) j.slot) j.fp j.kdom = true →
          entryGid (tget [] (getBucket key s.dev) j.slot) = j.gid →
          Answers (.fiuRemove 8 far) s fun d => d.fiu.removes = js ∧ tget [] (getBucket key d) j.slot = [] ∧
            ∀ i, i ≠ j.slot → tget [] (getBucket key d) i = tget [] (getBucket key s.dev) i)) ∧
      (fiuWay part s.dev = .away → farWaits 8 s.dev = false → s.dev.fiu.removes = j :: js →
        (∀ old, far = .found old → Answers (.fiuRemove 8 far) s fun d => d.fiu.removes = js ∧
          Out.indexSwap (ownerOf part s.dev) false (mkEntry j.fp j.gid j.kdom false) j.slot ∈ d.out))) ∧
    (∀ (r : Fin 9) (a : Nat), r.val < 8 → fiuDesc r s.dev = some a →
      let b := memRead s.dev a 32
      let consumed (st : Byte) (d : Dev) : Prop := memByte d (a + 1) = st ∧ (∀ x, x ≠ a + 1 → memByte d x = memByte s.dev x) ∧
        (tget {} d.taskRings (128 + r)).cons = ((tget {} s.dev.taskRings (128 + r)).cons + 1) % 65536
      (fiuBad b = true → fld b 0 1 ≠ 1 → Answers (.fiuInsert r far) s (consumed 7)) ∧
      (fiuBad b = false → fld b 0 1 = 1 →
        let fp := memRead s.dev (fld b 16 8) 32
        let part := partOf (beNat fp)
        servesPart part s.dev = true → ownMoving part s.dev = false →
        tget [] (getBucket (bucketKey part (bucketOf (beNat fp) s.dev)) s.dev) (if fld b 4 1 > 63 then 0 else fld b 4 1) = [] →
        Answers (.fiuInsert r far) s (consumed 1)) ∧
      (fiuBad b = false → fld b 0 1 = 2 →
        let want := memRead s.dev (fld b 16 8) 32
        let part := partOf (entryFp want)
        let key := bucketKey part (bucketOf (entryFp want) s.dev)
        servesPart part s.dev = true → ownMoving part s.dev = false →
        tget [] (getBucket key s.dev) (fld b 4 1) = want → Answers (.fiuRemove r far) s fun d =>
          consumed 1 d ∧ tget [] (getBucket key d) (fld b 4 1) = [])) ∧
    (∀ p ps, s.dev.fiu.bypass = p :: ps → Answers .filterRebuildDone s fun d =>
      d.fiu.bypass = ps ∧ (rd Reg.FIU_STATUS_REBUILDING d = 0 ↔ ps = [])) ∧
    (∀ v : BitVec 64, v = 0 ∨ tempoNow s.dev < v.toNat →
      Answers (.fiuOwnApplyWrite v) s fun d => rd Reg.FIU_OWN_APPLY_TEMPO d = v.toNat) ∧
    (∀ g r, s.dev.fiu.retiring.find? (·.gid == g) = some r → (r.mine = true ∨ gidDev g = ownDev s.dev) → r.own = [] → r.peer = [] →
      pinBuilt g s.dev = false → journalQuiet s.dev → Answers (.pinDrop g) s fun d => d.stg.journal = s.dev.stg.journal ++
        [{ tsn := s.dev.stg.tsnNext, tempo := tempoNow s.dev, nsid := 0, head := ownHead s.dev, body := .pinDrop [g] }]) ∧
    (∀ dead, rdb Reg.FIU_CTRL_SCRUB_EN s.dev = true → tempoNow s.dev % 1000 = 0 → servedParts s.dev ≠ [] →
      let total := (servedParts s.dev).length * 2 ^ bktBits s.dev
      (Answers (.ownerScrub dead) s fun d => d.fiu.scrub = (s.dev.fiu.scrub + rd Reg.FIU_CTRL_SCRUB_RATE s.dev) % total) ∧
      (∀ key slot, key / 2 ^ 22 ∈ servedParts s.dev → total ≤ rd Reg.FIU_CTRL_SCRUB_RATE s.dev →
        entryValid (tget [] (getBucket key s.dev) slot) = true → gidLocal (entryGid (tget [] (getBucket key s.dev) slot)) s.dev = true →
        (getGte (entryGid (tget [] (getBucket key s.dev) slot)) s.dev).refcnt = 0 →
        Answers (.ownerScrub dead) s fun d => tget [] (getBucket key d) slot = [])) ∧
    (∀ (a : Audit) others doubtful, s.dev.fiu.audit = some a → a.made = true → journalQuiet s.dev →
      (Answers (.refAuditCompare others doubtful) s fun d => d.fiu.audit = none ∧
        rd Reg.FIU_AUD_PASSES d = (rd Reg.FIU_AUD_PASSES s.dev + 1) % 65536) ∧
      (∀ (g n : Nat) (e : Gte), others = [] → a.counts = [(g, n)] → a.delta = [] → a.indexed = [] → a.doubts = [g] →
        s.dev.md.gtes = [(g, e)] → gidDev g = ownDev s.dev → n < e.refcnt →
        Answers (.refAuditCompare others doubtful) s fun d =>
          (rd Reg.FIU_AUD_DOUBT s.dev < 65535 → rd Reg.FIU_AUD_DOUBT d = rd Reg.FIU_AUD_DOUBT s.dev + 1) ∧
          d.stg.journal.map (·.body) = s.dev.stg.journal.map (·.body) ++ [.refFix [(g, (n : Int) - e.refcnt)]]))

/-- A lane ends its compression job: malformed, cut off, one frame within OUT_LIMIT, a stream's part, or one decompressed frame. For
every ready state and lane that holds a compression descriptor of the command's kind: a descriptor that R263 refuses ends
CHECK_FAIL with MALFORMED, so does CONTINUE without an open stream; a cut-off transfer ends it with CUT; a ONESHOT job whose
input is clean and as long as declared, contiguous or gathered, writes the frame and ends OK when it fits OUT_LIMIT, and
OUT_FULL otherwise; START and CONTINUE write the stream's next output when it fits, with CTX_SAVED while the stream stays open;
DECOMPRESS of a frame whose header agrees ends FORMAT, XSUM or OK as its content and checksum say. The Zstandard coding itself
is a free function (assumption log). A slice budget's end splits the lane's job; the injection commands arm their lane. Commands
that it shows to complete: accelSliceBudgetEnd, compressOneshot, compressStart, compressContinue, decompress, cmpInjArm,
digInjArm, cipInjArm, ersInjArm. (spec/08_compression_and_digest.md, Compression; spec/08_compression_and_digest.md,
Decompression; spec/08_compression_and_digest.md, Rings, lanes and slices; R263; R268; R269; R270; R272; R273) -/
def Obligations.CompressionJobsEnd : Prop :=
  ∀ s : State, s.ready →
    (∀ (n : Fin 16) (r i : Nat), laneHolds 4 n r i s.dev →
      let b := descBytes 4 r i s.dev
      let m := jobBytes (bitOf (fld b 2 1) 0) (fld b 8 8) (fld b 4 4) s.dev
      let limit := fld b 16 4
      let out := fld b 24 8
      let ctx := fld b 32 8
      let chk := bitOf (fld b 2 1) 4
      let plain := (∀ k, (tget {} s.dev.seals k).used = false) ∧ cmpOk b s.dev = true ∧
        jobClean (bitOf (fld b 2 1) 0) (fld b 8 8) (fld b 4 4) s.dev ∧ (cmpKind b = 2 → rangePoisoned ctx 196608 s.dev = false) ∧
        rangesApart out limit (descAddr 4 r i s.dev) 64 ∧ (ctx ≠ 0 → rangesApart out limit ctx 196608)
      (∀ p ∈ [(0, Instr.compressOneshot n false false), (1, .compressStart n false false), (2, .compressContinue n false false),
          (3, .decompress n false false)], cmpKind b = p.1 →
        cmpOk b s.dev = false ∨ p.1 = 2 ∧ (tget {} s.dev.cmpStreams ctx).opn = false →
        Answers p.2 s fun d => JobEnded 4 r i 5 0x80 s.dev d) ∧
      (∀ p ∈ [(0, Instr.compressOneshot n true false), (1, .compressStart n true false), (2, .compressContinue n true false),
          (3, .decompress n true false)], cmpKind b = p.1 → plain → (p.1 = 2 → (tget {} s.dev.cmpStreams ctx).opn = true) →
        Answers p.2 s fun d => JobEnded 4 r i 5 0x20 s.dev d) ∧
      (cmpKind b = 0 → plain → Answers (.compressOneshot n false false) s fun d =>
        let f := zstdFrame (fld b 3 1) chk m
        if f.length ≤ limit then JobEnded 4 r i 1 0 s.dev d ∧ memRead d out f.length = f
        else JobEnded 4 r i 4 0 s.dev d ∧ memRead d out limit = f.take limit) ∧
      (cmpKind b = 1 → plain → Answers (.compressStart n false false) s fun d =>
        let x := Config.zstdStream (Config.zstdOpen (fld b 3 1) chk) (streamFlags b) m
        x.length ≤ limit → memRead d out x.length = x ∧ (tget {} d.cmpStreams ctx).opn = !bitOf (fld b 2 1) 2 ∧
          JobEnded 4 r i 1 (if bitOf (fld b 2 1) 2 then 0 else 2) s.dev d) ∧
      (cmpKind b = 2 → plain → tget {} s.dev.cmpStreams ctx = ⟨true, false⟩ → Answers (.compressContinue n false false) s fun d =>
        let x := Config.zstdStream (memRead s.dev ctx 196608) (streamFlags b) m
        x.length ≤ limit → memRead d out x.length = x ∧ (tget {} d.cmpStreams ctx).opn = !bitOf (fld b 2 1) 2 ∧
          JobEnded 4 r i 1 (if bitOf (fld b 2 1) 2 then 0 else 2) s.dev d) ∧
      (∀ hdr fcs window sum, cmpKind b = 3 → plain → zstdHeader m = some (hdr, fcs, window, sum) → hdr ≤ m.length →
        fcs.all (· == fld b 20 4) = true → window ≤ 131072 → (chk = true → sum = true) →
        Answers (.decompress n false false) s fun d =>
          match Config.zstdContent window (m.drop hdr) with
          | none => JobEnded 4 r i 5 4 s.dev d
          | some (c, used) => c.length = fld b 20 4 → hdr + used + (if sum then 4 else 0) = fld b 4 4 →
            if sum = true ∧ fld m (hdr + used) 4 ≠ xsum c then JobEnded 4 r i 5 8 s.dev d
            else JobEnded 4 r i 1 0 s.dev d ∧ memRead d out c.length = c)) ∧
    (∀ (k : Fin 4) (n : Fin 16), (getLane (accKind k) n s.dev).running = true → Answers (.accelSliceBudgetEnd k n) s fun d =>
      getLane (accKind k) n d = { getLane (accKind k) n s.dev with running := false, slice := {} }) ∧
    (∀ n : Fin 16, Answers (.cmpInjArm n) s fun d => rdb Reg.CMP_INJ_ARM d = true ∧ rd Reg.CMP_INJ_LANE d = n) ∧
    (∀ n : Fin 2, Answers (.digInjArm n) s fun d => rdb Reg.DIG_INJ_ARM d = true ∧ rd Reg.DIG_INJ_PIPE d = n) ∧
    (∀ n : Fin 12, Answers (.cipInjArm n) s fun d => rdb Reg.CIP_INJ_ARM d = true ∧ rd Reg.CIP_INJ_LANE d = n) ∧
    (∀ n : Fin 4, Answers (.ersInjArm n) s fun d => rdb Reg.ERS_INJ_ARM d = true ∧ rd Reg.ERS_INJ_LANE d = n)

/-- A digest pipeline ends its job: malformed, cut off, digest written, VERIFY compared, or a context saved. For every ready state
and pipeline that holds a digest descriptor of the command's OP: a descriptor that R263 refuses ends CHECK_FAIL with MALFORMED;
a cut-off transfer ends it CUT; with a clean input, contiguous or gathered, a ONESHOT job of OP 1 to 4 writes the first TLEN
bytes of the digest, OP 8 the digest and the CRC-64, and the three HMAC jobs the keyed digest, a FINISH job the digest that its
context has begun; with VERIFY nothing is written and equality decides OK or TAG_FAIL; a START or CONTINUE job writes the
context record and CTX_SAVED. Commands that it shows to complete: digestSha256, digestSha384, digestSha512, digestSha3256,
digestHmacSha256, digestHmacSha384, digestHmacSha512, digestSha256Crc64. (spec/08_compression_and_digest.md, Digest;
spec/08_compression_and_digest.md, Multi-part messages and keyed state; spec/08_compression_and_digest.md, Verification in
constant time; R263; R274; R275; R276; R279; R282) -/
def Obligations.DigestJobsEnd : Prop :=
  ∀ (s : State) (n : Fin 2) (r i : Nat), s.ready → laneHolds 6 n r i s.dev →
    let b := descBytes 6 r i s.dev
    let op := fld b 0 1
    let m := jobBytes (bitOf (fld b 2 1) 0) (fld b 8 8) (fld b 4 4) s.dev
    let out := fld b 16 8
    let t := digestTake b
    let key := if isHmac op && !bitOf (fld b 2 1) 2 then memRead s.dev (fld b 24 8) (fld b 40 2) else tget [] s.dev.keys.digest (fld b 42 1)
    let commands (cut : Bool) := [(1, Instr.digestSha256 n cut false), (2, .digestSha384 n cut false), (3, .digestSha512 n cut false),
      (4, .digestSha3256 n cut false), (5, .digestHmacSha256 n cut false), (6, .digestHmacSha384 n cut false),
      (7, .digestHmacSha512 n cut false), (8, .digestSha256Crc64 n cut false)]
    let plain := (∀ k, (tget {} s.dev.seals k).used = false) ∧ digOk b s.dev = true ∧ s.dev.fab.poison = [] ∧
      jobClean (bitOf (fld b 2 1) 0) (fld b 8 8) (fld b 4 4) s.dev
    (∀ p ∈ commands false, digKind b = p.1 → digOk b s.dev = false → Answers p.2 s fun d => JobEnded 6 r i 5 0x80 s.dev d) ∧
    (∀ p ∈ commands true, digKind b = p.1 → plain → Answers p.2 s fun d => JobEnded 6 r i 5 0x20 s.dev d) ∧
    (∀ p ∈ commands false, digKind b = p.1 → plain → ∀ result x outer,
      (fld b 1 1 = 0 ∧ result = (if op ≤ 4 then hash op m else if op = 8 then sha256 m ++ leBytes 8 (crc64 m)
        else digestResult op ((hmacInner (hashOf op) key).absorb (hashOf op) m) (hmacOuter (hashOf op) key).state m)) ∨
      (fld b 1 1 = 3 ∧ digestBegin b key (memRead s.dev (fld b 32 8) 512) s.dev = .got x outer ∧ result = digestResult op (x.absorb (hashOf op) m) outer m) →
      (bitOf (fld b 2 1) 1 = false → rangesApart out t (descAddr 6 r i s.dev) 64 → Answers p.2 s fun d =>
        JobEnded 6 r i 1 0 s.dev d ∧ memRead d out (result.take t).length = result.take t) ∧
      (bitOf (fld b 2 1) 1 = true → Answers p.2 s fun d =>
        if memRead s.dev out t = result.take t then JobEnded 6 r i 1 0 s.dev d else JobEnded 6 r i 6 0 s.dev d)) ∧
    (∀ p ∈ commands false, digKind b = p.1 → plain → ∀ x outer, digestBegin b key (memRead s.dev (fld b 32 8) 512) s.dev = .got x outer →
      (fld b 1 1 = 1 ∨ fld b 1 1 = 2) → rangesApart (fld b 32 8) 512 (descAddr 6 r i s.dev) 64 →
      Answers p.2 s fun d => JobEnded 6 r i 1 2 s.dev d ∧ memRead d (fld b 32 8) 512 =
        digestRecord op (x.absorb (hashOf op) m) outer (bitOf (fld b 2 1) 2 || bitOf (fld b 2 1) 3) s.dev)

/-- A cipher lane ends its job: malformed, without its key, cut off, encrypted, decrypted under a checked tag, wrapped or unwrapped.
For every ready state and cipher lane that holds a descriptor of the command's OP, started afresh or with a context that
restores: a descriptor that R290 refuses ends CHECK_FAIL with MALFORMED; one whose KSLOT does not hold the key that KID names
ends with NOKEY; a cut-off transfer ends it CUT; otherwise, with a clean input, contiguous or gathered, OP 1 to 4, an
encryption, a tag or a wrap ends OK with its output; a GCM or GMAC check decides OK or TAG_FAIL; an unwrap that fails ends
TAG_FAIL, and one that passes gives the key to memory, or with KEYDEST into DSLOT. The AES block is a free function (assumption
log). Commands that it shows to complete: cipherCbc, cipherCfb128, cipherOfb, cipherCtr, cipherGcm, cipherGmac, cipherKw,
cipherKwp. (spec/09_cipher_and_keys.md, Rings and descriptors; spec/09_cipher_and_keys.md, IV construction;
spec/09_cipher_and_keys.md, STREAM and VAULT; R289; R290; R296; R299; R300) -/
def Obligations.CipherJobsEnd : Prop :=
  ∀ (s : State) (n : Fin 12) (r i : Nat), s.ready → laneHolds 3 n r i s.dev →
    let b := descBytes 3 r i s.dev
    let op := cipOp b
    let dec := cipDec b
    let slot := fld b 3 1
    let kid := fld b 72 4
    let out := fld b 16 8
    let m := jobBytes (bitOf (fld b 2 1) 0) (fld b 8 8) (cipDeclared b) s.dev
    let aad := memRead s.dev (fld b 24 8) (cipAadLen b)
    let key := (tget {} s.dev.keys.slots slot).key
    let iv := cipIv b s.dev
    let identity := (slotKind slot s.dev).1 ≠ 0 ∧ (slotKind slot s.dev).1 = kid / 2 ^ 20 ∧
      rd (Reg.CIP_KINFO_INDEX slot) s.dev = kid % 4096 ∧ rd (Reg.CIP_KINFO_GEN slot) s.dev = kid / 4096 % 256
    let keyed := identity ∧ (cipIvSrc b = 2 → (tget {} s.dev.keys.slots slot).inv < 2 ^ 40 - 1) ∧
      cipKeyOk b (slotKind slot s.dev).1 (rd (Reg.CIP_KINFO_CLASS slot) s.dev) = true
    let begun := (getLane 3 n s.dev).restored = false ∨ cipRestore b (memRead s.dev (fld b 40 8) 256) s.dev = none
    let commands (cut : Bool) := [(1, Instr.cipherCbc n cut false), (2, .cipherCfb128 n cut false), (3, .cipherOfb n cut false),
      (4, .cipherCtr n cut false), (5, .cipherGcm n cut false), (6, .cipherGmac n cut false), (7, .cipherKw n cut false),
      (8, .cipherKwp n cut false)]
    let plain := cipOk b s.dev = true ∧ keyed ∧ begun ∧ s.dev.fab.poison = [] ∧
      jobClean (bitOf (fld b 2 1) 0) (fld b 8 8) (cipDeclared b) s.dev
    (∀ p ∈ commands false, cipKind b = p.1 → cipOk b s.dev = false → Answers p.2 s fun d => JobEnded 3 r i 5 0x80 s.dev d) ∧
    (∀ p ∈ commands false, cipKind b = p.1 → cipOk b s.dev = true → (slotKind slot s.dev).2 = s.dev → ¬ identity →
      Answers p.2 s fun d => JobEnded 3 r i 5 0x08 s.dev d) ∧
    (∀ p ∈ commands true, cipKind b = p.1 → plain → Answers p.2 s fun d => JobEnded 3 r i 5 0x20 s.dev d) ∧
    (∀ p ∈ commands false, cipKind b = p.1 → plain → rangesApart out (cipOutLen b) (descAddr 3 r i s.dev) 128 →
      let given (x : Bytes) (d : Dev) : Prop :=
        JobEnded 3 r i 1 0 s.dev d ∧ (x.length ≤ cipOutLen b → memRead d out x.length = x)
      (op ≤ 4 → Answers p.2 s (given (cipModes op dec key iv m))) ∧
      (op = 5 → dec = false → Answers p.2 s (given (gcmData key iv m ++ gcmTag key iv aad (gcmData key iv m)))) ∧
      (op = 5 → dec = true → Answers p.2 s fun d =>
        if gcmTag key iv aad (m.take (cipLen b)) = m.drop (cipLen b) then given (gcmData key iv (m.take (cipLen b))) d
        else JobEnded 3 r i 6 0 s.dev d) ∧
      (op = 6 → dec = false → Answers p.2 s (given (gcmTag key iv aad []))) ∧
      (op = 6 → dec = true → Answers p.2 s fun d =>
        if memRead s.dev out 16 = gcmTag key iv aad [] then JobEnded 3 r i 1 0 s.dev d else JobEnded 3 r i 6 0 s.dev d) ∧
      (op = 7 → dec = false → Answers p.2 s (given (kwWrap key m))) ∧
      (op = 8 → dec = false → Answers p.2 s (given (kwpWrap key m))) ∧
      (7 ≤ op → dec = true →
        let opened := if op = 7 then kwUnwrap key m else kwpUnwrap key m
        (cipKeyDest b = false → Answers p.2 s fun d =>
          match opened with
          | none => JobEnded 3 r i 6 0 s.dev d
          | some x => given x d) ∧
        (cipKeyDest b = true → slotHeld (fld b 36 1) (some n) s.dev = false → rd (Reg.CIP_KINFO_LOADSEQ (fld b 36 1)) s.dev < 65535 →
          Answers p.2 s fun d =>
            match opened with
            | none => JobEnded 3 r i 6 0 s.dev d
            | some x => if x.length = 16 ∨ x.length = 24 ∨ x.length = 32 then
                JobEnded 3 r i 1 0 s.dev d ∧ (tget {} d.keys.slots (fld b 36 1)).key = x ∧ rd (Reg.CIP_KINFO_KIND (fld b 36 1)) d = 5 ∧
                  rd (Reg.CIP_KINFO_INDEX (fld b 36 1)) d = fld b 76 4 % 4096
              else JobEnded 3 r i 5 4 s.dev d)))

/-- An erasure lane ends its job: malformed, cut off, parity written, missing columns recovered, or a row verified. For every ready
state and erasure lane that holds a descriptor of the command's OP: a descriptor outside Table 13.2 ends CHECK_FAIL with
MALFORMED; a cut-off transfer ends it CUT; with no poison and no sealed range, GEN writes P and Q over the data columns, REBUILD
writes each missing column as recovered from those Table 13.1 reads, and VERIFY ends OK when both parities agree and TAG_FAIL
otherwise. Commands that it shows to complete: erasureGen, erasureRebuild, erasureVerify. (spec/13_stripes_and_rebuild.md, The
erasure engine; R410; R411; R413; R414) -/
def Obligations.ErasureJobsEnd : Prop :=
  ∀ (s : State) (n : Fin 4) (r i : Nat), s.ready → laneHolds 5 n r i s.dev →
    let b := descBytes 5 r i s.dev
    let w := fld b 1 1
    let len := fld b 4 4
    let m0 := fld b 2 1
    let m1 := fld b 3 1
    let addrs := ersColumns b s.dev
    let cols (l : List Nat) := l.map fun c => (c, memRead s.dev (addrs.getD c 0) len)
    let commands (cut : Bool) := [(1, Instr.erasureGen n cut false), (2, .erasureRebuild n cut false), (3, .erasureVerify n cut false)]
    let plain := (∀ k, (tget {} s.dev.seals k).used = false) ∧ s.dev.fab.poison = [] ∧ s.dev.fab.flips = [] ∧ ersOk b s.dev = true
    let away (c : Nat) := rangesApart (addrs.getD c 0) len (descAddr 5 r i s.dev) 64
    (∀ p ∈ commands false, ersKind b = p.1 → ersOk b s.dev = false → Answers p.2 s fun d => JobEnded 5 r i 5 0x80 s.dev d) ∧
    (∀ p ∈ commands true, ersKind b = p.1 → plain → Answers p.2 s fun d => JobEnded 5 r i 5 0x20 s.dev d) ∧
    (ersKind b = 1 → plain → away w → away (w + 1) → rangesApart (addrs.getD w 0) len (addrs.getD (w + 1) 0) len →
      Answers (.erasureGen n false false) s fun d => JobEnded 5 r i 1 0 s.dev d ∧
        memRead d (addrs.getD w 0) len = parityP len (cols (List.range w)) ∧
        memRead d (addrs.getD (w + 1) 0) len = parityQ len (cols (List.range w))) ∧
    (ersKind b = 2 → plain → away m0 → (m1 ≠ 255 → away m1 ∧ rangesApart (addrs.getD m0 0) len (addrs.getD m1 0) len) →
      Answers (.erasureRebuild n false false) s fun d => JobEnded 5 r i 1 0 s.dev d ∧
        ∀ c ∈ recoverColumns w m0 m1 len (cols (columnsRead w m0 m1)), memRead d (addrs.getD c.1 0) len = c.2) ∧
    (ersKind b = 3 → plain → Answers (.erasureVerify n false false) s fun d =>
      if ersMismatch w len (cols (List.range (w + 2))) = 0 then JobEnded 5 r i 1 0 s.dev d else JobEnded 5 r i 6 0 s.dev d)

/-- Resident slots load, refuse and zeroise; keys are imported, received and rotated. For every ready state whose accelerator region
is awake: a load of a slot that a job holds ends SLOT_BUSY; otherwise, while debug is locked and LOADSEQ can rise, each of the
four sources loads the key that the tables give, with its identity, LOADSEQ one higher and the invocation counter 0, or reports
NO_ENTRY, REFUSED or UNWRAP_FAIL and leaves the slot. KEY_ZEROISE empties the slot. An import without an import KEK changes no
key and logs a Notice; with one, it makes the next generation when the Key Block opens. An integrity key received under a good
chain is stored, wrapped, and none under a bad one. ROTATION_SCAN_ENTRY of an entry whose new granule is programmed journals its
REKEY; ROTATION_END clears ROTATING when no holder has a live GTE of the old generation. Commands that it shows to complete:
keyLoadDek, keyLoadIntegrity, keyLoadReplPeer, keyLoadVault, keyZeroise, keyImport, keyTransferReceive, rotationScanEntry,
rotationEnd. (spec/09_cipher_and_keys.md, Key hierarchy; spec/09_cipher_and_keys.md, Resident slots; spec/09_cipher_and_keys.md,
Import; spec/09_cipher_and_keys.md, Rotation; R308; R310; R312; R313) -/
def Obligations.KeysLoadImportAndRotate : Prop :=
  ∀ s : State, s.ready →
    (∀ slot : Fin 256, asleep 0x2000048 s.dev = false →
      (slotHeld slot none s.dev = true → ∀ x : Fin 4096, Answers (.keyLoadIntegrity slot x) s fun d =>
        rd Reg.CIP_KLOAD_ST_RESULT d = 2 ∧ rdReg (kinfoOff slot) d = rdReg (kinfoOff slot) s.dev) ∧
      (slotHeld slot none s.dev = false → Answers (.keyZeroise slot) s fun d =>
        rd Reg.CIP_KLOAD_ST_RESULT d = 1 ∧ rd (Reg.CIP_KINFO_KIND slot) d = 0 ∧ (tget {} d.keys.slots slot).key = []) ∧
      (∀ (x : Fin 4096) (gen : Fin 256), slotHeld slot none s.dev = false → debugOpen s.dev = false →
        rd (Reg.CIP_KINFO_LOADSEQ slot) s.dev < 65535 →
        ∀ p ∈ [(1, gen.val, Instr.keyLoadDek slot x gen), (2, 0, .keyLoadIntegrity slot x), (3, 0, .keyLoadReplPeer slot x),
            (4, 0, .keyLoadVault slot x)],
          Answers p.2.2 s fun d =>
            match findKey p.1 x p.2.1 s.dev with
            | (.ok k, _) => rd Reg.CIP_KLOAD_ST_RESULT d = 1 ∧ rd (Reg.CIP_KINFO_KIND slot) d = p.1 ∧
                rd (Reg.CIP_KINFO_INDEX slot) d = x ∧ rd (Reg.CIP_KINFO_GEN slot) d = p.2.1 ∧
                rd (Reg.CIP_KINFO_CLASS slot) d = (if 3 ≤ p.1 then 1 else 0) ∧
                rd (Reg.CIP_KINFO_LOADSEQ slot) d = rd (Reg.CIP_KINFO_LOADSEQ slot) s.dev + 1 ∧
                (tget {} d.keys.slots slot).key = k ∧ (tget {} d.keys.slots slot).inv = 0
            | (.error e, same) => same = s.dev → rd Reg.CIP_KLOAD_ST_RESULT d = e ∧ rdReg (kinfoOff slot) d = rdReg (kinfoOff slot) s.dev)) ∧
    (∀ (n : Fin 4096) (blob unique : List Byte),
      (s.dev.sxc.spt = none → Answers (.keyImport n blob unique) s fun d => d.keys = s.dev.keys) ∧
      (∀ kek k w, sptImportKek s.dev = (some kek, s.dev) → readWkt n s.dev = (some (k, w), s.dev) → k.valid = true →
        k.prevValid = false → (sptDomain n s.dev).2 = s.dev → Answers (.keyImport n blob unique) s fun d =>
          match openKeyBlock kek blob with
          | none => d.keys = s.dev.keys
          | some _ => let e := keyDescOf (tget {} d.keys.wkt n).desc.val
            e.curGen = (k.curGen + 1) % 256 ∧ e.prevGen = k.curGen ∧ e.prevValid = true ∧ e.rotating = true ∧ e.imported = true)) ∧
    (∀ (n : Fin 4096) (gen : Fin 256) (dev : Fin 8) (key : List Byte),
      (Answers (.keyTransferReceive n true gen dev key false) s fun d => d.keys = s.dev.keys) ∧
      (n.val < 256 → debugOpen s.dev = false → key.length = 32 → Answers (.keyTransferReceive n true gen dev key true) s fun d =>
        (keyDescOf (tget {} d.keys.ikt n).desc.val).valid = true ∧
        ownWk (tget {} d.keys.ikt n).curA (tget {} d.keys.ikt n).curB s.dev = kwWrap (kekOf (iktContext n) s.dev) key)) ∧
    (∀ (nsid leaf : Nat) (i : Fin 512) (engine : Fin 64) (k : KeyDesc) (base : Nat),
      let ns := getNs nsid s.dev
      let g := tget 0 (getNode leaf s.dev).ent i
      let r := tget {} s.dev.keys.rotMap g
      rotating ns.domain s.dev = some k → (scanLeaves nsid s.dev).find? (fun l => l.2 == leaf) = some (base, leaf) →
      ns.exists_ = true → ownsGroup ns.group s.dev = true → gidNil g = false → rekeyOpen leaf i s.dev = false →
      walkHolds nsid s.dev = false → inTrouble s.dev = false → metaStalled s.dev = false → engine.val ∈ redEngines s.dev →
      r.state = 2 → journalQuiet s.dev →
      Answers (.rotationScanEntry nsid leaf i engine) s fun d => ∃ e, d.stg.journal.map (·.body) = s.dev.stg.journal.map (·.body) ++ [.squares [e]] ∧
        e.action = 11 ∧ e.newGid = r.newGid ∧ e.oldGid = g ∧ e.page = leaf ∧ e.square = base + i) ∧
    (∀ (n : Fin 4096) (k : KeyDesc), rotating n s.dev = some k →
      (∀ g ∈ s.dev.md.gtes, g.2.refcnt = 0 ∨ toRekey n k g.2 = false) → Answers (.rotationEnd n true) s fun d =>
        rotating n d = none ∧ (keyDescOf (tget {} d.keys.wkt n).desc.val).prevValid = false)

/-- A granule's read climbs the ladder, is verified, waits for its key, is rebuilt, fetched from another pair, or repaired. For
every ready state and read job: a page read well keeps its data, and the last one with its start set lands the frame; a page
that fails is tried with another set of the ladder; FRAME_VERIFY, with its lanes in service, gives a verified frame's plaintext
to the requester, waits for an absent key, reads the pages once more for a bad header, runs a failed accelerator job once more,
and ends 0x281 when that fails too or no lane is left; a key wait ends when the key is resident, or 0x281 when its load fails; a
rebuild of an unchanged granule waits for a token grant and, with one, verifies the rebuilt frame: a remote fetch is answered
with it where it stands and UNREADABLE where its header is bad; FRAME_FETCH of a dead, lost or foreign-domain granule is refused
by its RESULT, any other is read, or rebuilt when it says so; a FRAME_REPLY lands the frame; a fetch that fails or is due goes
once to the other head, then ends 0x281; a repair request is answered by zeros, by its absence, or by a read; a repair's answer
is served when its fingerprint and CRC agree and ends 0x281 otherwise, as does its time-out, and a host command of one square
ends with that status. Commands that it shows to complete: mediaPageReadResult, frameVerify, readKeyWaitEnd, rebuildOnRead,
frameFetchReceive, frameReplyReceive, frameFetchTimeout, repairReq, repairAns, repairTimeout. (spec/10_read_pipeline.md, Reading
the pages; spec/10_read_pipeline.md, Landing and verification; spec/10_read_pipeline.md, Rebuild on read;
spec/10_read_pipeline.md, Granules of another pair; spec/10_read_pipeline.md, Repair from a replica; R326; R332; R341; R342;
R346; R651; R653) -/
def Obligations.ReadJobsAdvance : Prop :=
  ∀ (s : State) (j : Nat), s.ready →
    let r := getJob j s.dev
    (∀ p x, r.state = 0 → x.status = 0 → bitOf x.unc 0 = false → x.data.length = pageSize p.member s.dev → p.cur = p.start →
      p.rsp = some (some x) →
      (∀ i : Nat, r.pages[i]? = some p → (∃ k : Nat, k ≠ i ∧ ((r.pages[k]?).map (·.state)) = some 0) →
        Answers (.mediaPageReadResult j i) s fun d =>
          (getJob j d).pages[i]? = some { p with state := 1, data := x.data, rsp := none }) ∧
      (∀ ps qs, r.pages = ps ++ p :: qs → (∀ q ∈ ps ++ qs, q.state = 1) → (∀ dev tag, r.who ≠ .remote dev tag) →
        Answers (.mediaPageReadResult j ps.length) s fun d => (getJob j d).state = 1 ∧
          (getJob j d).frame = assemble { r with pages := ps ++ { p with state := 1, data := x.data, rsp := none } :: qs } s.dev)) ∧
    (∀ p, r.pages = [p] → r.state = 0 → p.rsp = some none → (∃ q ∈ ladder p.start, q.2 ∉ p.tried) →
      Answers (.mediaPageReadResult j 0) s fun d =>
        ∃ q ∈ ladder p.start, q.2 ∉ p.tried ∧ (getJob j d).pages.map (·.cur) = [q.2] ∧ (getJob j d).pages.map (·.tried) = [p.tried ++ [q.2]]) ∧
    (jobIn j 1 s.dev = true →
      let held := (residentKey (frameKey r.gid r.img).1 (frameKey r.gid r.img).2.1 (frameKey r.gid r.img).2.2 s.dev).isSome
      let whole := headerOk r.gid r.img r.frame = true ∧ held = true
      let lane (k : Nat) := laneServes k s.dev = true ∧ pipeReady k (.read j) s.dev
      (∀ p stage3, verify r s.dev = .good p → r.rebuilt = false → lane 3 → (r.img.fmt ≠ 0 → lane 4) →
        (keepsResult r.who = true → Answers (.frameVerify j .none stage3) s fun d => (getJob j d).res = some (0, false, p)) ∧
        (∀ n i, r.who = .host n i → (getCmd n s.dev).state = 1 → (getFc n s.dev).ready = none → (getFc n s.dev).op ≠ .compare →
          (getFc n s.dev).torn = false → Answers (.frameVerify j .none stage3) s fun d =>
            tget (1, true) (getFc n d).done i = (0, false))) ∧
      (∀ fault stage3, verify r s.dev = .needKey → Answers (.frameVerify j fault stage3) s fun d => (getJob j d).state = 2) ∧
      (∀ fault stage3, headerOk r.gid r.img r.frame = false → gidLocal r.gid s.dev = true → r.rebuilt = false →
        imageChanged r s.dev = false →
        (r.second = false → Answers (.frameVerify j fault stage3) s fun d => (getJob j d).second = true ∧ (getJob j d).state = 0) ∧
        (r.second = true → Answers (.frameVerify j fault stage3) s fun d => (getJob j d).state = 3)) ∧
      (∀ fault, fault = ReadFault.poison ∨ fault = ReadFault.check → whole → r.opened = false → lane 3 →
        (((pipeOf 3 (.read j) s.dev).bind (·.failed)) = none → Answers (.frameVerify j fault false) s fun d =>
          getJob j d = r ∧ ((pipeOf 3 (.read j) d).bind (·.failed)) ≠ none) ∧
        (((pipeOf 3 (.read j) s.dev).bind (·.failed)) ≠ none → fault = .check → keepsResult r.who = true →
          Answers (.frameVerify j fault false) s fun d => (getJob j d).res = some (0x281, false, []))) ∧
      (∀ fault stage3, whole → r.opened = false → laneServes 3 s.dev = false → keepsResult r.who = true →
        Answers (.frameVerify j fault stage3) s fun d => (getJob j d).res = some (0x281, false, []))) ∧
    (jobIn j 2 s.dev = true → keepsResult r.who = true →
      (∀ p, verify r s.dev = .good p → r.rebuilt = false → laneServes 3 s.dev = true → pipeReady 3 (.read j) s.dev →
        (r.img.fmt ≠ 0 → laneServes 4 s.dev = true ∧ pipeReady 4 (.read j) s.dev) →
        Answers (.readKeyWaitEnd j) s fun d => (getJob j d).res = some (0, false, p)) ∧
      (∀ e, r.img.enc = false → findKey 2 (ikIndex (gidDev r.gid) (gidPool r.gid)) 0 s.dev.quiet = (.error e, s.dev.quiet) →
        residentKey 2 (ikIndex (gidDev r.gid) (gidPool r.gid)) 0 s.dev = none →
        Answers (.readKeyWaitEnd j) s fun d => (getJob j d).res = some (0x281, false, []))) ∧
    (∀ (bad : List Nat), jobIn j 3 s.dev = true →
      let g := getSeg r.img.seg s.dev
      let off := bad ++ badColumns r s.dev
      let miss := (readRow g r.img.row off s.dev).2
      let who := TokWho.engine (rowEngine j s.dev)
      imageChanged r s.dev = false → miss.length ≤ 2 →
      (∀ fault, hasGrant who 3 s.dev = false → (∀ q ∈ s.dev.pwr.waiting, q.who = who → q.cls ≠ 3) →
        Answers (.rebuildOnRead j bad fault) s fun d =>
          d.pwr.waiting.map (fun q => (q.who, q.cls)) = s.dev.pwr.waiting.map (fun q => (q.who, q.cls)) ++ [(who, 3)]) ∧
      (∀ cols, hasGrant who 3 s.dev = true → laneServes 5 s.dev = true → pipeReady 5 (.read j) s.dev →
        recoverAt r.img.seg r.img.row off s.dev = some cols →
        (∀ dev tag, r.who = .remote dev tag →
          let f := frameIn r.img cols
          (∀ p, verify { r with frame := f } s.dev = .good p → laneServes 3 s.dev = true → pipeReady 3 (.read j) s.dev →
            (r.img.fmt ≠ 0 → laneServes 4 s.dev = true ∧ pipeReady 4 (.read j) s.dev) → Answers (.rebuildOnRead j bad .none) s fun d =>
            Out.frameReply dev tag 0 f (getGte r.gid s.dev) ∈ d.out) ∧
          (headerOk r.gid r.img f = false → gidLocal r.gid s.dev = true → Answers (.rebuildOnRead j bad .none) s fun d =>
            ∃ e, Out.frameReply dev tag 4 [] e ∈ d.out)) ∧
        (keepsResult r.who = true → Answers (.rebuildOnRead j bad .none) s fun d => (getJob j d).rebuilt = true))) ∧
    (∀ (dev : Fin 8) (gid : BitVec 64) (tag : Nat) (kdom : Fin 4096) (rebuild : Bool), gidLocal gid.toNat s.dev = true →
      let e := getGte gid.toNat s.dev
      (e.refcnt = 0 → Answers (.frameFetchReceive dev gid tag kdom rebuild) s fun d => Out.frameReply dev tag 1 [] e ∈ d.out) ∧
      (e.refcnt ≠ 0 → e.lost = true → Answers (.frameFetchReceive dev gid tag kdom rebuild) s fun d => Out.frameReply dev tag 2 [] e ∈ d.out) ∧
      (e.refcnt ≠ 0 → e.lost = false → e.kdom ≠ kdom.val →
        Answers (.frameFetchReceive dev gid tag kdom rebuild) s fun d => Out.frameReply dev tag 3 [] e ∈ d.out) ∧
      (e.refcnt ≠ 0 → e.lost = false → e.kdom = kdom.val → (rebuild = true ∨ (getSeg e.seg s.dev).state ≠ 0) →
        (∀ x ∈ s.dev.stg.reads, x.1 ≠ s.dev.stg.readNext) →
        Answers (.frameFetchReceive dev gid tag kdom rebuild) s fun d => (rebuild = true → (getJob s.dev.stg.readNext d).state = 3 ∧ (getJob s.dev.stg.readNext d).second = true) ∧
          (getJob s.dev.stg.readNext d).who = .remote dev tag ∧ (getJob s.dev.stg.readNext d).gid = gid.toNat)) ∧
    (jobIn j 4 s.dev = true →
      (∀ (frame : List Byte) (gte : Gte), Answers (.frameReplyReceive j 0 frame gte) s fun d =>
        (getJob j d).state = 1 ∧ (getJob j d).frame = frame ∧ (getJob j d).img = gte) ∧
      (∀ (frame : List Byte) (gte : Gte), repairRel r.nsid s.dev = none → keepsResult r.who = true →
        Answers (.frameReplyReceive j 2 frame gte) s fun d => (getJob j d).res = some (0x281, true, [])) ∧
      (∀ failed, (failed = true ∨ r.due ≤ tempoNow s.dev) →
        (r.toOther = false → Answers (.frameFetchTimeout j failed) s fun d => (getJob j d).toOther = true ∧
          Out.frameFetch (gidDev r.gid ^^^ 1) r.gid j (getNs r.nsid s.dev).domain r.askedRebuild ∈ d.out) ∧
        (r.toOther = true → keepsResult r.who = true →
          Answers (.frameFetchTimeout j failed) s fun d => (getJob j d).res = some (0x281, false, [])))) ∧
    (∀ (k : Fin 4096) (tag sq : Nat) (x : Sess), replOn s.dev = true → (getRel k s.dev).state ≠ 0 → (getPeer (getRel k s.dev).peer s.dev).tx = some x →
      let ns := servedNs (getRel k s.dev).nsid s.dev
      let g := mapGet ns.root ns.depth sq s.dev
      (g = 0 → Answers (.repairReq k tag none sq) s fun d =>
        Out.repl (getRel k s.dev).peer x.num (.repairAns tag 1 0 []) ∈ d.out) ∧
      (g = gidOnes → Answers (.repairReq k tag none sq) s fun d =>
        Out.repl (getRel k s.dev).peer x.num (.repairAns tag 0 0 (List.replicate 8192 0)) ∈ d.out) ∧
      (gidNil g = false → gidLocal g s.dev = true → (getGte g s.dev).refcnt ≠ 0 → (getGte g s.dev).lost = false →
        (getSeg (getGte g s.dev).seg s.dev).state ≠ 0 → (∀ x ∈ s.dev.stg.reads, x.1 ≠ s.dev.stg.readNext) →
        Answers (.repairReq k tag none sq) s fun d => (getJob s.dev.stg.readNext d).who = .answer k tag ∧
          (getJob s.dev.stg.readNext d).gid = g)) ∧
    (jobIn j 5 s.dev = true → replOn s.dev = true →
      (keepsResult r.who = true → ∀ (fmt : Nat) (pay : List Byte) (p : Bytes), payloadPlain fmt pay = some p →
        (newestSlot r.nsid r.square s.dev.stg.slots).isSome = true → Answers (.repairAns j 0 fmt pay) s fun d =>
          if beNat ((sha256 p).take 4) = r.img.fptag ∧ r.want.all (· == beNat ((sha256 p).take 20)) = true ∧ crc64 p = r.img.crc then
            (getJob j d).res = some (0, false, p)
          else (getJob j d).res = some (0x281, true, [])) ∧
      (keepsResult r.who = true → ∀ (result fmt : Nat) (pay : List Byte), result ≠ 0 →
        Answers (.repairAns j result fmt pay) s fun d => (getJob j d).res = some (0x281, true, []))) ∧
    (jobIn j 5 s.dev = true → r.due ≤ tempoNow s.dev →
      (keepsResult r.who = true → Answers (.repairTimeout j) s fun d => (getJob j d).res = some (0x281, true, [])) ∧
      (∀ n i, r.who = .host n i → (getCmd n s.dev).state = 1 → (getFc n s.dev).ready = none → (getFc n s.dev).done = [] →
        (cmdSquares n s.dev).length = 1 → i = 0 → (getFc n s.dev).torn = false → Answers (.repairTimeout j) s fun d =>
          (getFc n d).ready = some (0x281, true)))

/-- Checkpoints run to their root; segments open, close short, are chosen, copied, moved, drained, erased; blocks retire. For every
ready state out of time trouble: a checkpoint begins at the TSN applied, goes on to its page-table pages, and its last part
posts CHECKPOINT; SEGMENT_OPEN makes the next segment OPEN over the line's columns and posts SEG_OPEN; an OPEN segment without
rows posts SEG_CLOSE with SHORT, one with rows in flight waits for them; GC_SELECT takes a queued segment with score 0xFFFFFF,
else the best score; GC_COPY goes past a row without live frames, and a live frame that reads straight enters a row unchanged
and is MOVING; a collection row all of whose columns succeeded posts its GC_MOVE or PAGE_MAP, a void one is requeued; a
COLLECTING segment with LIVE 0 and no open move posts SEG_DRAIN; an erase of an unarmed block is refused and counted; a burst of
erases waits for tokens and goes out under them; a DRAINED segment whose blocks are erased posts ERASE_DONE; a good block of an
adopted member retires. What is posted is said for a head whose peer acknowledges. Commands that it shows to complete:
checkpoint, segmentOpen, segmentCloseShort, gcSelect, gcCopy, gcMoveCommit, segDrain, eraseGateRefuse, segmentErase,
blockRetire. (spec/11_flash_translation.md, Metadata pages; spec/11_flash_translation.md, Allocation and wear;
spec/11_flash_translation.md, Garbage collection; spec/11_flash_translation.md, Copy, commit and erase; R350; R359; R362; R363;
R364; R365; R370; R655) -/
def Obligations.SegmentsLiveAndDie : Prop :=
  ∀ s : State, s.ready → inTrouble s.dev = false →
    let posts (b : JBody) (d : Dev) : Prop := journalQuiet s.dev → d.stg.journal.map (·.body) = s.dev.stg.journal.map (·.body) ++ [b] ∧
      d.stg.tsnNext = s.dev.stg.tsnNext + 1
    let postsFirst (b : JBody) (d : Dev) : Prop :=
      journalQuiet s.dev → ∃ l, d.stg.journal.map (·.body) = s.dev.stg.journal.map (·.body) ++ b :: l
    (poolList s.dev ≠ [] →
      (s.dev.ftl.ckpt = none → Answers .checkpoint s fun d =>
        ∃ c, d.ftl.ckpt = some c ∧ c.tsn = s.dev.md.tsnOwn ∧ ∀ p ∈ s.dev.ftl.dirty, p ∈ c.pages) ∧
      (∀ c, s.dev.ftl.ckpt = some c → metaInFlight s.dev = false → c.left = [] →
        (c.table = false → Answers .checkpoint s fun d => ∃ c', d.ftl.ckpt = some c' ∧ c'.table = true ∧ c'.tsn = c.tsn) ∧
        (c.table = true → Answers .checkpoint s fun d => d.ftl.ckpt = none ∧ (journalQuiet s.dev → ∃ seq, posts (.checkpoint seq c.tsn) d)))) ∧
    (∀ (p : Fin 32) (kind : Fin 4) (i : Nat) (cs : List Col),
      let q := getPool p s.dev
      let w := segWidth p s.dev
      let n := ownHead s.dev * 2 ^ 39 + s.dev.md.segNext
      q.exists_ = true → q.lines ≠ [] → (kindMeta kind = true ∨ 8 ≤ effWidth p s.dev) →
      (kindGc kind = true ∨ freeBelow p (rd Reg.MDL_FT_GC_CRIT_PCT s.dev) s.dev = false) →
      findLine q n w s.dev 1024 q.linePtr = some (i, cs) → Answers (.segmentOpen p kind) s fun d =>
        d.md.segNext = s.dev.md.segNext + 1 ∧
        (journalQuiet s.dev → (getSeg n d).state = 1 ∧ (getSeg n d).w = w ∧ (getSeg n d).pool = p ∧ (getSeg n d).cols = cs ∧
          (getSeg n d).gc = kindGc kind ∧ (getSeg n d).isMeta = kindMeta kind ∧ ∃ e, posts (.segOpen n e) d)) ∧
    (∀ n, ownSeg n s.dev = true → (getSeg n s.dev).state = 1 → n ∉ s.dev.ftl.closing →
      (rowsOf n true s.dev = [] → rowsOf n false s.dev = [] →
        Answers (.segmentCloseShort n) s (posts (.segClose n (getSeg n s.dev).rows true))) ∧
      (rowsOf n true s.dev ≠ [] → (∀ r ∈ rowsOf n true s.dev, r < s.dev.stg.rowNext) →
        Answers (.segmentCloseShort n) s fun d => journalQuiet s.dev → n ∈ d.ftl.closing)) ∧
    (∀ (p : Fin 32) (isMeta : Bool), rdb Reg.MDL_FT_GC_GC_EN s.dev = true →
      (∀ x ∈ s.dev.md.segs, ¬ (x.2.state = 3 ∧ ownSeg x.1 s.dev = true ∧ (getSeg x.1 s.dev).pool = p ∧ (getSeg x.1 s.dev).isMeta = isMeta)) →
      let mine (n : Nat) : Bool := (getSeg n s.dev).pool == p.val && (getSeg n s.dev).isMeta == isMeta && collectable n s.dev
      (∀ n, s.dev.ftl.reloc.find? mine = some n →
        Answers (.gcSelect p isMeta) s fun d => (getSeg n d).state = 3 ∧ d.ftl.reloc = s.dev.ftl.reloc.filter (· != n) ∧
          rd Reg.MDL_FT_LAST_SCORE d = 0xFFFFFF ∧ rd Reg.MDL_FT_LAST_SEG d = n % 2 ^ 40) ∧
      (∀ n sc, s.dev.ftl.reloc.find? mine = none → (freeBelow p (rd Reg.MDL_FT_GC_LOW_PCT s.dev) s.dev = true ∨
          (p.val ∈ s.dev.ftl.gcPools ∧ freeBelow p (rd Reg.MDL_FT_GC_HIGH_PCT s.dev) s.dev = true)) →
        bestScore p isMeta s.dev = some (n, sc) →
        Answers (.gcSelect p isMeta) s fun d => (getSeg n d).state = 3 ∧ rd Reg.MDL_FT_LAST_SEG d = n % 2 ^ 40)) ∧
    (∀ (e : Fin 64) (n : Nat) (bad : List Nat),
      let g := getSeg n s.dev
      let row := tget 0 s.dev.ftl.gcRow n
      rd (Reg.CL_CTRL_FUNCTION (e.val / 8)) s.dev = 2 → engineOut e s.dev = false → ownSeg n s.dev = true →
      g.state = 3 → row < g.rows → g.isMeta = false →
      (g.relocate = true ∨ ∀ r ∈ s.dev.ftl.relocRows, ¬ ((getSeg r.1 s.dev).state = 2 ∧ ownSeg r.1 s.dev = true)) →
      let cols := (readRow g row bad s.dev).1
      let miss := (readRow g row bad s.dev).2
      (liveGranules n row cols s.dev = [] → (miss = [] ∨ 2 < miss.length ∨ hasGrant (.engine e) 3 s.dev = true) →
        Answers (.gcCopy e n bad) s fun d => tget 0 d.ftl.gcRow n = row + 1) ∧
      (miss ≠ [] → miss.length ≤ 2 → hasGrant (.engine e) 3 s.dev = false →
        (∀ q ∈ s.dev.pwr.waiting, q.who = .engine e → q.cls ≠ 3) → Answers (.gcCopy e n bad) s fun d =>
          d.pwr.waiting.map (fun q => (q.who, q.cls)) = s.dev.pwr.waiting.map (fun q => (q.who, q.cls)) ++ [(.engine e, 3)] ∧
          tget 0 d.ftl.gcRow n = row) ∧
      (∀ gid b d1 d2 r, let x := getGte gid s.dev
        miss = [] → liveGranules n row cols s.dev = [gid] →
        (copyJobs n row bad s.dev.quiet = [] ∨ (copyJobs n row bad s.dev.quiet = [3] ∧ laneServes 3 s.dev = true ∧ pipeReady 3 (.copy n) s.dev)) →
        let e0 := (ownJobs (.copy n) (copyJobs n row bad s.dev.quiet) s.dev.quiet).2
        planCopy n row bad gid x (countFrame n x e0) = (.bytes b, d1) →
        placeFrame e (getSeg n d1).pool 1 ⟨gid, none, 0, x.slen, b, some (n, row, x.off)⟩ d1 = (some r, d2) → d2.todo = [] →
        Answers (.gcCopy e n bad) s fun d => (getGte gid d).moving = true ∧ tget 0 d.ftl.gcRow n = row + 1 ∧
          ∃ f ∈ (getRow r d).frames, f.gid = gid ∧ f.bytes = b ∧ f.slen = x.slen ∧ f.src = some (n, row, x.off))) ∧
    (∀ row, let r := getRow row s.dev
      r.state = 3 → rowWhole r s.dev = true → row < s.dev.stg.rowNext →
      (r.void = false → metaStalled s.dev = false →
        (rowsOf r.seg true s.dev).all (fun n => !((getRow n s.dev).row < r.row)) = true →
        (r.kind = 1 → ∀ ms, r.frames.filterMap (fun f => f.src.map fun x => (f.gid, x, (r.seg, r.row, f.off))) = ms → ms ≠ [] →
          Answers (.gcMoveCommit row) s fun d => (getRow row d).state = 0 ∧ postsFirst (.gcMove ms) d) ∧
        (r.kind = 3 → Answers (.gcMoveCommit row) s fun d => (getRow row d).state = 0 ∧
          ∀ l, (l = r.frames.map fun f => (f.gid, r.seg * 2 ^ 24 + r.row * 2 ^ 12 + f.off / 260, match f.src with
            | some (x, w, o) => x * 2 ^ 24 + w * 2 ^ 12 + o
            | none => 0)) → postsFirst (.pageMap l) d)) ∧
      (r.void = true → Answers (.gcMoveCommit row) s fun d => (getRow row d).state ≠ 3)) ∧
    (∀ n, (getSeg n s.dev).state = 3 → ownSeg n s.dev = true → (getSeg n s.dev).live = 0 → movesOpen n s.dev = false →
      Answers (.segDrain n) s (posts (.segDrain n))) ∧
    (∀ (m : Fin 64) (b : Nat), blkKey m b ∉ s.dev.ftl.gate →
      Answers (.eraseGateRefuse m b) s fun d => s.checkRoom → rdb Reg.MDL_FT_STATUS_GATE d = true ∧ d.ftl.gate = s.dev.ftl.gate ∧
        (rd Reg.MDL_FT_EGATE_REFUSED s.dev < 2 ^ 20 - 1 → rd Reg.MDL_FT_EGATE_REFUSED d = rd Reg.MDL_FT_EGATE_REFUSED s.dev + 1)) ∧
    (∀ n, let who := TokWho.engine (rowEngine n s.dev)
      erasable n s.dev ≠ [] →
      (hasGrant who 2 s.dev = false → (∀ q ∈ s.dev.pwr.waiting, q.who = who → q.cls ≠ 2) →
        Answers (.segmentErase n) s fun d => d.pwr.waiting = s.dev.pwr.waiting ++ [{ who := who, cls := 2, cost := 1 }]) ∧
      (hasGrant who 2 s.dev = true → s.dev.flt.inj = none → (∀ k ∈ erasable n s.dev, let l := getLink (k / 2 ^ 24) s.dev
          l.fence.ok 64 = true ∧ l.cmdCred.ok 32 = true ∧ l.dataCred.ok 32 = true ∧ (laneState (k / 2 ^ 24) s.dev = 5 ∨
            (laneState (k / 2 ^ 24) s.dev = 4 ∧ rdb (Reg.MDL_LANE_PLN_IN (k / 2 ^ 24)) s.dev = false))) →
        Answers (.segmentErase n) s fun d => ∀ k ∈ erasable n s.dev,
          let goes (c : LaneCmd) : Bool := c.opcode == 0x12 && c.block == k % 2 ^ 24
          (getLink (k / 2 ^ 24) d).cmds.any (fun c => goes c.2) = true ∨ (getLink (k / 2 ^ 24) d).queue.any goes = true)) ∧
    (∀ n, erasable n s.dev = [] → allErased (getSeg n s.dev) s.dev = true →
      (∀ r ∈ s.dev.stg.journal, r.body = .eraseDone n → r.tsn ≤ s.dev.md.tsnOwn) → Answers (.segmentErase n) s (posts (.eraseDone n))) ∧
    (∀ (m : Fin 64) (b : Nat) (cause : Fin 6), (tget {} s.dev.md.members m).adopted = true → b < (tget {} s.dev.md.members m).nblocks →
      retireCause m b cause s.dev = true → (getBlk m b s.dev).state ≠ 2 → (getBlk m b s.dev).state ≠ 3 →
      Answers (.blockRetire m b cause) s fun d => journalQuiet s.dev →
        (getBlk m b d).state = (if cause.val = 5 then 3 else 2) ∧ postsFirst (.blockRetire m b cause) d)

/-- A power fail begins time trouble, chunks and manifest are written; a scrub row waits for tokens. For every ready state: VIN
below PF_MV, or PF_N low, for the debounce time begins time trouble when the manager watches; once it has begun, FLUSH_CHUNKS
waits for a PROG grant, and under one it fixes the flush image and writes up to n chunks, in phase 2; when every chunk is
written the manifest completes the flush on the armed side, records its duration and resets the device. A CLOSED segment's next
row waits for a rebuild-row grant before it is scrubbed, while an erasure lane serves, and with one is counted as read; a new
pass begins with the row 0. Commands that it shows to complete: retentionScrub, powerFailDetect, flushChunks,
flushManifestWritten. (spec/11_flash_translation.md, Time trouble; spec/11_flash_translation.md, Scrubbing; R374; R376; R378;
R379; R612; R613) -/
def Obligations.TimeTroubleFlushes : Prop :=
  ∀ s : State, s.ready →
    (∀ (vin : Nat) (pfN : Bool) (t : Nat), inTrouble s.dev = false → s.dev.pwr.pfWatch = true → rd Reg.PWR_PF_DEB s.dev ≤ t →
      (if rdb Reg.PWR_PF_PF_SRC s.dev then pfN = false else vin < rd Reg.PWR_PF_PF_MV s.dev) →
      Answers (.powerFailDetect vin pfN t) s fun d => inTrouble d = true ∧ d.ftl.ttFrom = some (tempoNow s.dev) ∧
        rd Reg.MDL_FT_TT_PHASE d = 1 ∧ ∀ x ∈ d.stg.slots, x.2.state ≠ 1) ∧
    (∀ n : Nat, inTrouble s.dev = true → s.dev.ftl.ttFrom ≠ none →
      let who := TokWho.engine (rowEngine 0 s.dev)
      (hasGrant who 1 s.dev = false → (∀ q ∈ s.dev.pwr.waiting, q.who = who → q.cls ≠ 1) → Answers (.flushChunks n) s fun d =>
        d.pwr.waiting = s.dev.pwr.waiting ++ [{ who := who, cls := 1, cost := 3 }]) ∧
      (hasGrant who 1 s.dev = true → Answers (.flushChunks n) s fun d =>
        let i := s.dev.ftl.flush.getD (flushImageOf s.dev)
        d.ftl.flush = some { i with chunks := min (flushTotal i s.dev) (i.chunks + n) } ∧ rd Reg.MDL_FT_TT_PHASE d = 2)) ∧
    (∀ (ms : Nat) (i : FlushImage), s.dev.ftl.flush = some i → flushTotal i s.dev ≤ i.chunks →
      Answers (.flushManifestWritten ms) s fun d => inTrouble d = false ∧ ∀ side, s.dev.ftl.armed = some side →
        tget none d.outside.sides side = some { i with manifest := true, us := 1000 * ms }) ∧
    (∀ (n : Nat) (steps : List Nat), inTrouble s.dev = false → (getSeg n s.dev).state = 2 → ownSeg n s.dev = true → laneServes 5 s.dev = true →
      let pass := s.dev.tmp.sec / (3600 * max 1 (rd Reg.MDL_FT_SCRUB_PERIOD s.dev))
      let row := if s.dev.ftl.scrubPass = pass then tget 0 s.dev.ftl.scrubRow n else 0
      let who := TokWho.engine (scrubEngine n s.dev)
      row < (getSeg n s.dev).rows →
      (hasGrant who 3 s.dev = false → (∀ q ∈ s.dev.pwr.waiting, q.who = who → q.cls ≠ 3) → Answers (.retentionScrub n steps) s fun d =>
        d.pwr.waiting = s.dev.pwr.waiting ++ [{ who := who, cls := 3, cost := (getSeg n s.dev).w + 2 }]) ∧
      (hasGrant who 3 s.dev = true → pipeReady 5 (.scrub n) s.dev →
        Answers (.retentionScrub n steps) s fun d => d.ftl.scrubPass = pass ∧ (s.checkRoom → tget 0 d.ftl.scrubRow n = row + 1)))

/-- Media lanes detect, train, say HELLO, go DOWN, retrain, and carry, acknowledge and replay frames. For every ready state and lane
n: an enabled lane in OFF or FAILED goes to DETECT and a disabled one below UP goes OFF; detection asks for 10 tokens, then
trains; training locked ends in HELLO, with the device's own sent, not locked in DETECT; a HELLO of version 1 and this head's
port brings UP with the announced credits and nothing unacknowledged, another version or the timeout brings DETECT, another port
FAILED; lock lost goes through DOWN to DETECT, its member absent; a retrain ends UP or in DETECT; a lane that fails too often
within a second is FAILED. On an UP lane: a frame in sequence is accepted and an ACK is due, one already seen is acknowledged
again, one ahead or spoilt is NAKed once; an ACK releases the frames up to its SEQ; a NAK, or no ACK, replays the rest and
counts it; CREDIT makes announced plus released minus sent available; the timers send ACK and CREDIT, or KEEP, CREDIT and ACK; a
dead lane retrains; KEEP changes nothing. Commands that it shows to complete: laneEnable, laneDetect, laneTrainDone, hello,
laneDown, mdlTransactionFrame, mdlAck, mdlNak, mdlCredit, mdlKeep, mdlAckDelayExpire, mdlReplayTimeout, mdlDeadTimeout,
mdlKeepTimeout, laneRetrainDone, mdlHelloTimeout. (spec/12_media_link.md, Link layer; R383; R385; R387; R388; R389; R390; R391;
R392; R394; R395; R402) -/
def Obligations.LanesTrainAndCarryFrames : Prop :=
  ∀ (s : State) (n : Fin 64), s.ready →
    let x := getLink n s.dev
    let st := laneState n s.dev
    let frames (l : List (Nat × Nat)) (d : Dev) : Prop := ∀ y ∈ l, Out.mdlFrame n y.1 y.2 0 false ∈ d.out
    let again (l : List MdlSent) (d : Dev) : Prop := ∀ f ∈ l, Out.mdlFrame n f.type f.seq f.tag false ∈ d.out
    let clean : Prop := rdb Reg.MDL_INJ_ARM s.dev = false ∨ rd Reg.MDL_INJ_LANE s.dev ≠ n
    let has (q : Fin 4096) : Bool := x.unacked.any (·.seq == q.val)
    let after (q : Fin 4096) : List MdlSent := (x.unacked.dropWhile (·.seq != q.val)).drop 1
    let credit (d : Dev) : Prop := Out.mdlCredit n 0 (x.dataRel % 2 ^ 32) ∈ d.out
    let steady : Prop := x.queue = [] ∨ (x.cmdCred.ok 32 = true ∧ x.dataCred.ok 32 = true ∧ s.dev.flt.inj = none)
    (∀ lanes : BitVec 64, Answers (.laneEnable lanes) s fun d => rd Reg.MDL_LANE_EN_EN d = lanes.toNat ∧
      ((∀ k < 64, bitOf (rd Reg.MDL_LANE_EN_EN s.dev) k = true → bitOf lanes.toNat k = false → laneState k s.dev < 4 ∨ laneState k s.dev = 7 ∨
          ((getLink k s.dev).cmds = [] ∧ (getLink k s.dev).queue = [])) → ∀ k < 64, laneState k d =
        (if bitOf lanes.toNat k = true then
          (if bitOf (rd Reg.MDL_LANE_EN_EN s.dev) k = false ∧ (laneState k s.dev = 0 ∨ laneState k s.dev = 7) then 1 else laneState k s.dev)
        else if bitOf (rd Reg.MDL_LANE_EN_EN s.dev) k = true ∧ laneState k s.dev ≠ 7 then 0 else laneState k s.dev))) ∧
    (∀ i : ModInfo, st = 1 →
      (hasGrant (.mediaLane n) 5 s.dev = false → (∀ q ∈ s.dev.pwr.waiting, q.who = .mediaLane n → q.cls ≠ 5) →
        Answers (.laneDetect n (some i)) s fun d => d.pwr.waiting = s.dev.pwr.waiting ++ [{ who := .mediaLane n, cls := 5, cost := 10 }] ∧
          (getMod n d).present = true ∧ (getMod n d).serial = i.serial) ∧
      (hasGrant (.mediaLane n) 5 s.dev = true → Answers (.laneDetect n (some i)) s fun d => laneState n d = 2)) ∧
    (st = 2 → Answers (.laneTrainDone n true) s (fun d => laneState n d = 3 ∧ (getLink n d).failed32 = 0 ∧
        Out.mdlHello n 1 (ownHead s.dev) 0 64 256 4096 ∈ d.out ∧
        rd (Reg.MDL_LANE_SPEED n) d = b2n (rdb Reg.MDL_CTRL_MAX16 s.dev || x.failed32 ≥ 2)) ∧
      Answers (.laneTrainDone n false) s fun d => laneState n d = 1) ∧
    (st = 3 → (∀ cmd data : Nat, cmd < 2 ^ 32 → data < 2 ^ 32 → Answers (.hello n 1 (ownHead s.dev) cmd data) s fun d => laneState n d = 4 ∧
        (getLink n d).cmdCred.val = cmd ∧ (getLink n d).dataCred.val = data ∧ (getLink n d).unacked = [] ∧
        (s.dev.flt.inj = none → (getLink n d).cmdCred.ok 32 = true ∧ (getLink n d).dataCred.ok 32 = true)) ∧
      (∀ v cmd data : Nat, v ≠ 1 → Answers (.hello n v (ownHead s.dev) cmd data) s fun d => laneState n d = 1) ∧
      (∀ v port cmd data : Nat, port ≠ ownHead s.dev → Answers (.hello n v port cmd data) s fun d =>
        s.checkRoom → laneState n d = 7 ∧ rdb Reg.MDL_STATUS_WIRING_CHK d = true) ∧
      Answers (.mdlHelloTimeout n) s fun d => laneState n d = 1) ∧
    (st = 4 ∨ st = 5 → Answers (.laneDown n) s fun d => bitOf (rd Reg.MDL_PRESENT_LANES d) n = false ∧ (getLink n d).unacked = [] ∧
      ((withinSecond x.downs s.dev).length < 4 → laneState n d = 1 ∧ (getLink n d).absent ≠ none) ∧
      (4 ≤ (withinSecond x.downs s.dev).length → s.checkRoom → laneState n d = 7)) ∧
    (st = 5 → (hasGrant (.mediaLane n) 5 s.dev = true → Answers (.laneRetrainDone n true) s fun d => steady →
        laneState n d = 4 ∧ (clean → again x.unacked d)) ∧
      Answers (.laneRetrainDone n false) s fun d => (withinSecond x.downs s.dev).length < 4 → laneState n d = 1) ∧
    (st = 4 →
      (∀ (q : Fin 4096), q.val = x.rx → Answers (.mdlTransactionFrame n q true true true) s fun d =>
        (getLink n d).rx = (x.rx + 1) % 4096 ∧ (getLink n d).ackDue = true ∧ (getLink n d).nakSent = false) ∧
      (∀ (q : Fin 4096), q.val ≠ x.rx → (x.rx + 4096 - q.val) % 4096 ≤ 2048 →
        Answers (.mdlTransactionFrame n q true true true) s fun d => getLink n d = x ∧ frames [(8, (x.rx + 4095) % 4096)] d) ∧
      (∀ (q : Fin 4096) (crc type len : Bool), (crc && type && len) = false ∨ (q.val ≠ x.rx ∧ 2048 < (x.rx + 4096 - q.val) % 4096) →
        Answers (.mdlTransactionFrame n q crc type len) s fun d => (getLink n d).rx = x.rx ∧ (getLink n d).nakSent = true ∧
          (x.nakSent = false → frames [(9, (x.rx + 4095) % 4096)] d)) ∧
      (∀ q : Fin 4096, has q = true → Answers (.mdlAck n q) s fun d => steady → (getLink n d).replays = 0 ∧
        ∃ l, (getLink n d).unacked = after q ++ l ∧ (x.queue = [] → l = [])) ∧
      (∀ q : Fin 4096,
        let rest := if has q then after q else x.unacked
        let k := if has q then 0 else x.replays
        rest ≠ [] → k < 3 → Answers (.mdlNak n q) s fun d => x.queue = [] →
          (clean → again rest d) ∧ (getLink n d).replays = k + 1 ∧
          (rd (Reg.MDL_LANE_REPLAYS n) s.dev < 2 ^ 16 - 1 → rd (Reg.MDL_LANE_REPLAYS n) d = rd (Reg.MDL_LANE_REPLAYS n) s.dev + 1)) ∧
      (x.unacked ≠ [] → Answers (.mdlReplayTimeout n) s fun d =>
        (clean → again x.unacked d) ∧ (x.replays < 3 → (getLink n d).replays = x.replays + 1) ∧
        (3 ≤ x.replays → (withinSecond x.retrains s.dev).length < 8 → laneState n d = 5)) ∧
      (∀ cmd data : Nat, Answers (.mdlCredit n cmd data) s fun d => x.queue = [] →
        (getLink n d).cmdCred.val = available x.cmdAnn cmd x.cmdSent ∧ (getLink n d).dataCred.val = available x.dataAnn data x.dataSent) ∧
      (∀ ann rel sent : Nat, sent ≤ ann + rel → available ann rel sent = (ann + rel - sent) % 2 ^ 32) ∧
      (x.ackDue = true → Answers (.mdlAckDelayExpire n) s fun d => (getLink n d).ackDue = false ∧
        frames [(8, (x.rx + 4095) % 4096)] d ∧ credit d) ∧
      Answers (.mdlKeepTimeout n) s (fun d => frames [(11, (x.rx + 4095) % 4096), (8, (x.rx + 4095) % 4096)] d ∧ credit d) ∧
      Answers (.mdlDeadTimeout n) s fun d => ((withinSecond x.retrains s.dev).length < 8 → laneState n d = 5) ∧
        (8 ≤ (withinSecond x.retrains s.dev).length → s.checkRoom → laneState n d = 7)) ∧
    Answers (.mdlKeep n) s fun d => s.dev.lanes12 = d.lanes12 ∧ RegsKept [] s.dev d ∧ MemKept s.dev d

/-- Flash modules execute their commands and answer; the device identifies, adopts, times out and stops for PLN. For every ready
state and a request that reaches a present module: IDENTIFY, HEALTH, BAD_LIST and FENCE_READ answer status 0; FENCE_CAS by a
port with its bit set replaces the word when the comparand holds and the new word is legal, answering the old one, else it
answers CAS_MISMATCH or INVALID; LOAD_TABLE of 16,384 bytes puts the table in force; a READ past the block ends ADDRESS, one of
programmed pages returns them, one of pages not programmed is uncorrectable; PROGRAM of the next row of a good block stores it,
and failing it ends the block; ERASE removes the block's rows, fails, or is ABORTED after a power-loss notice; a port without
its bit is FENCED. An UP lane issues IDENTIFY, BAD_LIST, FENCE_READ and HEALTH, and LOAD_TABLE when its module is adopted, anew
or again; a response completes its command, one that disagrees with its length is recorded, a late one is counted, a timeout
leaves the tag unused; PLN stops the lane, PLN_CLEAR tells every UP lane; arming an injection names its lane. Commands that it
shows to complete: identify, laneUpIdentify, mdlIdentify, mdlHealth, mdlHealthTimer, mdlBadList, mdlFenceRead, mdlFenceCas,
mdlLoadTable, mdlRead, mdlProgram, mdlErase, mdlResponse, mdlCommandTimeout, plnReceive, plnClear, mdlInjArm.
(spec/12_media_link.md, Commands; R354; R396; R397; R398; R399; R400; R401; R403; R404; R405; R406) -/
def Obligations.ModulesExecuteAndAnswer : Prop :=
  ∀ (s : State) (n : Fin 64), s.ready →
    let x := getMod n s.dev
    let l := getLink n s.dev
    (∀ (r : ModReq) (c : LaneCmd) (port : Nat), x.present = true →
      let told (p : LaneRsp) (d : Dev) : Prop := ∀ t, r = .own t →
        ∃ c', (getLink n d).cmds.find? (fun c => c.1 == t) = some (t, c') ∧ c'.rsp = some p
      let asks (op : Nat) : Prop := reqCmd n op r s.dev = some (port, c)
      let b := tget {} x.blocks c.block
      (asks 1 → Answers (.mdlIdentify n r) s (told { status := 0 })) ∧
      (∀ temp, asks 2 → Answers (.mdlHealth n r temp) s fun d => (getMod n d).temp = temp ∧
        told { status := 0, value := b.pe, data := leBytes 2 (twosOf 16 temp) ++ List.replicate 62 0 } d) ∧
      (asks 3 → Answers (.mdlBadList n r) s (told { status := 0, data := x.bad.flatMap fun b => leBytes 4 b })) ∧
      (asks 4 → Answers (.mdlFenceRead n r) s (told { status := 0, value := x.fence })) ∧
      (asks 5 → bitOf x.fence port = true →
        (if x.fence ≠ c.arg0 then Answers (.mdlFenceCas n r) s fun d => told { status := 5, value := x.fence } d ∧ (getMod n d).fence = x.fence
        else if c.arg1 / 65536 ≠ (c.arg0 / 65536 + 1) % 2 ^ 48 ∨ c.arg1 % 65536 ≥ 4 then
          Answers (.mdlFenceCas n r) s fun d => told { status := 10, value := x.fence } d ∧ (getMod n d).fence = x.fence
        else Answers (.mdlFenceCas n r) s fun d => told { status := 0, value := c.arg0 } d ∧ (getMod n d).fence = c.arg1)) ∧
      (asks 6 → bitOf x.fence port = true → Answers (.mdlLoadTable n r) s fun d =>
        if c.data.length = 16384 then told { status := 0 } d ∧ (getMod n d).table = c.data
        else told { status := 8 } d ∧ (getMod n d).table = x.table) ∧
      (∀ unc, asks 0x10 → x.table ≠ [] → 1 ≤ c.npages → c.npages ≤ 16 → c.set ≤ 1023 →
        let ps := 2 ^ (10 + x.pgsz)
        let rows (i : Nat) := (c.unit + i) * ps / 65536
        (modBlockOk x c.block = false ∨ x.rpb * 65536 < (c.unit + c.npages) * ps →
          Answers (.mdlRead n r unc) s (told { status := 6 })) ∧
        (modBlockOk x c.block = true → (c.unit + c.npages) * ps ≤ x.rpb * 65536 → (∀ i < c.npages, b.next ≤ rows i) →
          Answers (.mdlRead n r unc) s (told { status := 1, unc := 2 ^ c.npages - 1, data := [] })) ∧
        (modBlockOk x c.block = true → (c.unit + c.npages) * ps ≤ x.rpb * 65536 → b.failed = none →
          (∀ i < c.npages, bitOf unc i = false ∧ rows i < b.next ∧ (tget [] x.rows (c.block * 4096 + rows i)).length = 65536) →
          Answers (.mdlRead n r unc) s (told { status := 0, data := (List.range c.npages).flatMap fun i =>
            ((tget [] x.rows (c.block * 4096 + rows i)).drop ((c.unit + i) * ps % 65536)).take ps }))) ∧
      (∀ ok, asks 0x11 → bitOf x.fence port = true → c.data.length = 65536 → modBlockOk x c.block = true → c.unit < x.rpb →
        c.unit = b.next → b.failed = none → Answers (.mdlProgram n r ok) s fun d => told { status := if ok then 0 else 2 } d ∧
          (tget {} (getMod n d).blocks c.block).next = (if ok then b.next + 1 else b.next) ∧
          (tget {} (getMod n d).blocks c.block).failed = (if ok then none else some c.unit) ∧
          (ok = true → tget [] (getMod n d).rows (c.block * 4096 + c.unit) = c.data)) ∧
      (asks 0x12 → bitOf x.fence port = true →
        (∀ ok, x.pln = true → Answers (.mdlErase n r ok) s fun d => told { status := 9 } d ∧ getMod n d = x) ∧
        (x.pln = false → modBlockOk x c.block = true →
          Answers (.mdlErase n r false) s (fun d => told { status := 3 } d ∧ getMod n d = x) ∧
          Answers (.mdlErase n r true) s fun d => told { status := 0 } d ∧ tget {} (getMod n d).blocks c.block = { pe := b.pe + 1 } ∧
            ∀ row < 4096, tget [] (getMod n d).rows (c.block * 4096 + row) = [])) ∧
      (∀ ok, bitOf x.fence port = false → asks 0x11 → Answers (.mdlProgram n r ok) s fun d => told { status := 4 } d ∧ getMod n d = x)) ∧
    (laneState n s.dev = 4 → rdb (Reg.MDL_LANE_PLN_IN n) s.dev = false →
      let fair : Prop := l.cmdCred.ok 32 = true ∧ l.dataCred.ok 32 = true ∧ s.dev.flt.inj = none
      let issued (us : List LaneUse) (d : Dev) : Prop := fair → ∀ u ∈ us, laneHas n (· == u) d = true
      (∀ dest, l.identified = false → bitOf (rd Reg.MDL_PRESENT_LANES s.dev) n = false → laneHas n (· == .identify) s.dev = false →
        Answers (.laneUpIdentify n dest) s (issued [.identify, .badList, .fenceRead, .health])) ∧
      (l.identified = true → tget [] s.dev.oimCfg.thresh x.mtype ≠ [] →
        let m := tget {} s.dev.md.members n
        (∀ dest, m.adopted = true → m.serial = x.serial → m.declared = false →
          Answers (.laneUpIdentify n dest) s (issued [.loadTable])) ∧
        (∀ p w, ¬ (m.adopted = true ∧ m.serial = x.serial ∧ m.declared = false) →
          Answers (.laneUpIdentify n (some (p, w))) s fun d => (tget {} d.md.members n).adopted = true ∧
            (tget {} d.md.members n).pool = p ∧ (tget {} d.md.members n).serial = x.serial ∧ issued [.loadTable] d)) ∧
      Answers (.mdlHealthTimer n) s (issued [.health])) ∧
    (∀ (t : Fin 1024) (c : LaneCmd), l.cmds.find? (fun c => c.1 == t.val) = some (t.val, c) →
      (∀ p, t.val ∉ l.dead → c.rsp = some p →
        (c.opcode ≠ 0x10 → ∀ seen, p.status = 0 →
          (c.use = .health → Answers (.mdlResponse n t seen) s fun d => (getLink n d).cmds.all (fun c => c.1 != t.val) = true ∧
            rd (Reg.MDL_TEMP_TEMP n) d = leNat (p.data.take 2) % 2 ^ 16) ∧
          (c.use = .badList → Answers (.mdlResponse n t seen) s fun d => (getLink n d).cmds.all (fun c => c.1 != t.val) = true ∧
            (getLink n d).bad = words4 16384 p.data) ∧
          (c.use = .fenceRead → Answers (.mdlResponse n t seen) s fun d => (getLink n d).cmds.all (fun c => c.1 != t.val) = true ∧
            rd (Reg.MDL_FENCE_WORD n) d = p.value % 2 ^ 64) ∧
          (c.use = .identify → Answers (.mdlResponse n t seen) s fun d => (getLink n d).cmds.all (fun c => c.1 != t.val) = true ∧
            bitOf (rd Reg.MDL_PRESENT_LANES d) n = true ∧ (geometryOk x = true → (getLink n d).identified = true))) ∧
        (c.opcode = 0x10 → p.status < 2 →
          (∀ j i g, c.use = .page j i → (getJob j s.dev).pages[i]? = some g → p.data.length = (c.npages - popCount 16 p.unc) * 2 ^ (10 + x.pgsz) →
            Answers (.mdlResponse n t none) s fun d => (getJob j d).pages[i]? = some { g with rsp := some (some p) }) ∧
          (∀ seen, (seen ≠ none ∨ p.data.length ≠ (c.npages - popCount 16 p.unc) * 2 ^ (10 + x.pgsz)) →
            Answers (.mdlResponse n t seen) s fun d => rd Reg.MDL_LEN_LAST2_LANE d = n.val ∧ rd Reg.MDL_LEN_LAST2_TAG d = t.val))) ∧
      Answers (.mdlCommandTimeout n t) s fun d => (getLink n d).cmds.all (fun c => c.1 != t.val) = true ∧
        (rd (Reg.MDL_LANE_TIMEOUTS n) s.dev < 2 ^ 16 - 1 → rd (Reg.MDL_LANE_TIMEOUTS n) d = rd (Reg.MDL_LANE_TIMEOUTS n) s.dev + 1) ∧
        (c.use = .health ∨ c.use = .identify ∨ c.use = .badList ∨ c.use = .fenceRead ∨ c.use = .loadTable → t.val ∈ (getLink n d).dead)) ∧
    (∀ (t : Fin 1024) seen, t.val ∈ l.dead → Answers (.mdlResponse n t seen) s fun d => getLink n d = l ∧
      (rd (Reg.MDL_ERR_LATE n) s.dev < 2 ^ 16 - 1 → rd (Reg.MDL_ERR_LATE n) d = rd (Reg.MDL_ERR_LATE n) s.dev + 1)) ∧
    (laneState n s.dev = 4 → Answers (.plnReceive n) s fun d => rdb (Reg.MDL_LANE_PLN_IN n) d = true ∧ (l.queue = [] → (getLink n d).queue = [])) ∧
    (Answers .plnClear s fun d => laneUp n s.dev = true → Out.mdlPln n true ∈ d.out ∧ (getMod n d).pln = false) ∧
    (Answers (.mdlInjArm n) s fun d => rdb Reg.MDL_INJ_ARM d = true ∧ rd Reg.MDL_INJ_LANE d = n.val)

/-- An absent member is declared after its grace; rebuild rows take a grant and program replacements; the last row commits them. For
every ready state out of time trouble: an adopted member absent for GRACE seconds is declared failed from the next edge. The
next row of one of the highest-ranked segments that has a replacement waits for a rebuild-row grant of its engine; with the
grant and an erasure lane where a column does not read, it is counted against RATE, and where every column reads, at most two of
them missing, and the replacements' lanes are UP, a program of it goes to each replacement that lacks it. When the replacements
hold every row and a metadata segment takes the segment-table page, its row says the new columns; they are in force, and the
segment leaves the queue, once the PAGE_MAP record is applied. Commands that it shows to complete: memberGraceExpire,
rebuildRow, rebuildCommit. (spec/13_stripes_and_rebuild.md, Member failure and rebuild; R411; R423; R425; R426; R427; R428;
R429; R431) -/
def Obligations.MembersFailAndRebuild : Prop :=
  ∀ s : State, s.ready → inTrouble s.dev = false →
    (∀ (n : Fin 64) (t : Nat), (getLink n s.dev).absent = some t → (tget {} s.dev.md.members n).adopted = true →
      (tget {} s.dev.md.members n).declared = false → n.val ∉ s.dev.ftl.declare → t + rd Reg.ERS_RB_GRACE s.dev ≤ nowSec s.dev →
      Answers (.memberGraceExpire n) s fun d => n.val ∈ d.ftl.declare) ∧
    (∀ (seg : Nat) (bad : List Nat),
      let g := getSeg seg s.dev
      let e0 := chooseReplacements seg s.dev.quiet
      let rs := ((getRebuild seg e0).map (·.repl)).getD []
      let row := (rs.map (·.issued)).foldl min g.rows
      let e := rowEngine (seg + row) s.dev
      let who := TokWho.engine e
      (s.dev.ftl.rebuild.take (rd Reg.ERS_RB_SEGS s.dev)).any (fun r => r.seg == seg) = true → g.state = 2 → (∀ x, getRebuild seg s.dev = some x → x.written = false) →
      (s.dev.stg.rows.filter fun r => r.2.kind == 4 && r.2.seg == seg).length < 2 →
      (s.dev.stg.rows.filter fun r => r.2.kind == 4).length < rd Reg.ERS_RB_INFLIGHT s.dev →
      rowsThisWindow s.dev < rd Reg.ERS_RB_RATE s.dev → rs ≠ [] → row < g.rows →
      (∀ r ∈ s.dev.stg.rows, r.2.kind = 4 → r.2.engine ≠ e) →
      (hasGrant who 3 s.dev = false → (∀ q ∈ s.dev.pwr.waiting, q.who = who → q.cls ≠ 3) → Answers (.rebuildRow seg bad) s fun d =>
        d.pwr.waiting.map (fun q => (q.who, q.cls)) = s.dev.pwr.waiting.map (fun q => (q.who, q.cls)) ++ [(who, 3)] ∧
        (∀ c x, missingCols seg s.dev = [c] → rs = [x] → ∀ q ∈ d.pwr.waiting, q.who = who → q.cls = 3 →
          q.cost = (columnsRead g.w c 255).length + 2)) ∧
      (hasGrant who 3 s.dev = true → (rebuildMissing seg row bad e0 = [] ∨ (laneServes 5 s.dev = true ∧ pipeReady 5 (.rebuild seg) s.dev)) →
        Answers (.rebuildRow seg bad) s fun d =>
        d.ftl.rate = (tempoNow s.dev / 1000, rowsThisWindow s.dev + 1) ∧
        (bad = [] → s.dev.flt.inj = none → ((List.range (g.w + 2)).filter fun k => (rebuildColumn seg row k [] e0).isNone).length ≤ 2 →
          (∀ y ∈ rs, y.issued = row → let l := getLink y.member s.dev
            laneState y.member s.dev = 4 ∧ rdb (Reg.MDL_LANE_PLN_IN y.member) s.dev = false ∧
            l.cmdCred.ok 32 = true ∧ l.dataCred.ok 32 = true ∧ l.fence.ok 64 = true) →
          (getRebuild seg d).map (·.repl) = some (rs.map fun y => if y.issued = row then { y with issued := row + 1 } else y) ∧
          ∀ y ∈ rs, y.issued = row →
            let goes (c : LaneCmd) : Bool := c.opcode == 0x11 && c.block == y.block && c.unit == row
            (getLink y.member d).cmds.any (fun c => goes c.2) = true ∨ (getLink y.member d).queue.any goes = true))) ∧
    (∀ (seg : Nat) (r : Rebuild), getRebuild seg s.dev = some r → r.repl ≠ [] →
      (∀ c ∈ missingCols seg s.dev, ∃ x ∈ r.repl, x.col = c) → (∀ x ∈ r.repl, x.done = (getSeg seg s.dev).rows) → r.written = false →
      (writeNews (3 * 2 ^ 60 + seg / 32) (.columns seg (newColumns seg r s.dev)) s.dev.quiet).1 = true →
      journalQuiet s.dev → Answers (.rebuildCommit seg) s fun d => getRebuild seg d = some { r with written := true } ∧
        ((3 * 2 ^ 60 + seg / 32, PageNews.columns seg (newColumns seg r s.dev)) ∈ d.ftl.news)) ∧
    (∀ (seg : Nat) (r : Rebuild) (q : JRecord), (getSeg seg s.dev).state = 2 → (∀ y ∈ newColumns seg r s.dev, colFailed y s.dev = false) →
      q.news = [.columns seg (newColumns seg r s.dev)] → (∃ l, q.body = .pageMap l) →
      (getSeg seg (applyNews (.columns seg (newColumns seg r s.dev)) s.dev)).cols = newColumns seg r s.dev ∧
      getRebuild seg (afterCommit q (applyNews (.columns seg (newColumns seg r s.dev)) s.dev)) = none)

/-- Mailbox requests cut, delete, clone, list, bind, promote, resync and unbind; cuts commit and deleted roots are walked. For every
ready state, whatever the mailbox's argument: with the mailbox idle, a create of up to 64 owned namespaces within the limits
stages one cut for the next edge and stays BUSY, others end BAD_ARG, NOT_FOUND, WRONG_HEAD, SPLIT or LIMIT; a delete of a listed
snapshot is staged, HELD when replication holds it; a clone onto an NSID that the domain may bind answers it and posts a CUT of
SSEQ 0, at 65,535 namespaces it ends LIMIT; a list writes the descriptors from SSEQ on; a bind makes this end the source and
sends REL_OPEN; a promote rolls to the newest matched snapshot; a resync stages a cut; an unbind frees the relationship; those
of none end NOT_FOUND. The first ready cut posts its CUT entries; a walk with nothing left posts GONE, else its steps and
PROGRESS. What is posted is said for a head whose peer acknowledges. Commands that it shows to complete: snapCreate,
snapshotCutCommit, snapDelete, deleteWalk, snapClone, snapList, relBind, relPromote, relResync, relUnbind, relOpen.
(spec/14_snapshots_and_replication.md, Cutting a snapshot; spec/14_snapshots_and_replication.md, Deletion and space return;
spec/14_snapshots_and_replication.md, Relationships; R440; R441; R443; R448; R449; R456; R465; R466) -/
def Obligations.SnapshotMailboxRequests : Prop :=
  ∀ (s : State) (q : BitVec 32), s.ready →
    let n := rd Reg.NVF_SNAP_ARG_NSID s.dev
    let k := rd Reg.NVF_REP_SEL_REL s.dev
    let x := getRel k s.dev
    let o := getSnap n q.toNat s.dev
    let answered (r v : Nat) (d : Dev) : Prop := rd Reg.NVF_SNAP_RES_RESULT d = r ∧ rd Reg.NVF_SNAP_RES_VALUE d = v % 2 ^ 32 ∧
      rdb Reg.NVF_SNAP_RES_BUSY d = false ∧ rdb Reg.NVF_SNAP_CMD_GO d = false
    let posts (es : List SqEntry) (d : Dev) : Prop := d.stg.journal.map (·.body) = s.dev.stg.journal.map (·.body) ++ [.squares es]
    let staged (role : CutRole) (ns : List Nat) (d : Dev) : Prop := d.stg.cuts = s.dev.stg.cuts ++
        [{ nsids := ns, sseq := s.dev.md.sseqNext, edge := tempoNow s.dev + 1, role := role }] ∧
      d.md.sseqNext = s.dev.md.sseqNext + 1 ∧ rdb Reg.NVF_SNAP_RES_BUSY d = true
    (rdb Reg.NVF_SNAP_CMD_GO s.dev = false →
      (let ns := createList s.dev
        let full : Prop := 262144 < (counted s.dev).length + ns.length ∨ ∃ m ∈ ns, 1023 ≤ ((counted s.dev).filter (fun y => y.nsid == m)).length;
        (64 < rd Reg.NVF_SNAP_LIST_COUNT s.dev → Answers (.snapCreate q) s (answered 8 0)) ∧
        (rd Reg.NVF_SNAP_LIST_COUNT s.dev ≤ 64 →
          ((∃ m ∈ ns, (getNs m s.dev).exists_ = false) → Answers (.snapCreate q) s (answered 3 0)) ∧
          ((∀ m ∈ ns, (getNs m s.dev).exists_ = true) →
            ((∀ m ∈ ns, ownsNs m s.dev = false) → Answers (.snapCreate q) s (answered 4 0)) ∧
            ((∃ m ∈ ns, ownsNs m s.dev = true) → (∃ m ∈ ns, ownsNs m s.dev = false) → Answers (.snapCreate q) s (answered 5 0)) ∧
            ((∀ m ∈ ns, ownsNs m s.dev = true) → (full → Answers (.snapCreate q) s (answered 2 0)) ∧
              (¬ full → Answers (.snapCreate q) s (staged .host ns)))))) ∧
      (o.exists_ = false ∨ o.deleting = true ∨ o.audit = true ∨ q.toNat = 0 →
        Answers (.snapDelete q) s (answered 3 0) ∧ Answers (.snapClone q) s (answered 3 0)) ∧
      (o.exists_ = true → o.deleting = false → o.audit = false → q.toNat ≠ 0 →
        (ownsNs n s.dev = false → Answers (.snapDelete q) s (answered 4 0) ∧ Answers (.snapClone q) s (answered 4 0)) ∧
        (ownsNs n s.dev = true →
          (o.repl = true → Answers (.snapDelete q) s (answered 6 0)) ∧
          (o.repl = false → Answers (.snapDelete q) s fun d => d.stg.deletes = s.dev.stg.deletes ++ [(o.nsid, o.sseq)]) ∧
          (∀ t, s.dev.sxc.spt = some t → let dom := (getNs o.nsid s.dev).domain
            t.bad.contains (.domain dom) = false →
            let many := (s.dev.md.ns.filter fun m => m.2.exists_).length
            let want := rd Reg.NVF_SNAP_ARG_NSID2 s.dev
            (65535 ≤ many → Answers (.snapClone q) s (answered 2 0)) ∧
            (∀ m, many < 65535 → (if want = 0 then pickNsid dom (tget {} t.domains dom).opn t s.dev = some m
                else m = want ∧ want ≤ 65535 ∧ (getNs want s.dev).exists_ = false ∧ (getSnap want 0 s.dev).exists_ = false ∧
                  (tget 0 t.pendingBinds want = dom + 1 ∨ ((tget {} t.domains dom).opn = true ∧ tget 0 t.pendingBinds want = 0))) →
              Answers (.snapClone q) s fun d => journalQuiet s.dev → answered 1 m d ∧
                (getNs m d).exists_ = (getNs o.nsid s.dev).exists_ ∧ (getNs m d).domain = dom ∧ (getNs m d).size = (getNs o.nsid s.dev).size ∧
                posts [{ action := 5, snap := some { nsid := m, pred := (o.nsid, o.sseq), cutTempo := tempoNow s.dev } }] d)))) ∧
      ((getNs n s.dev).exists_ = false → Answers (.snapList q) s (answered 3 0) ∧ Answers (.relBind q) s (answered 3 0)) ∧
      ((getNs n s.dev).exists_ = true → ownsNs n s.dev = false → Answers (.snapList q) s (answered 4 0) ∧ Answers (.relBind q) s (answered 4 0)) ∧
      ((getNs n s.dev).exists_ = true → ownsNs n s.dev = true →
        (let l := ((snapsOf n s.dev).filter fun y => !y.deleting && !y.audit && q.toNat ≤ y.sseq && y.sseq != 0).take (rd Reg.NVF_SNAP_LIST_COUNT s.dev);
          Answers (.snapList q) s fun d => answered 1 l.length d ∧
            memRead d (rd Reg.NVF_SNAP_LIST_ADDR s.dev) (l.flatMap snapBytes).length = l.flatMap snapBytes) ∧
        (∀ t : Spt, replOn s.dev = true → x.state = 0 → s.dev.sxc.spt = some t →
          let p := rd Reg.NVF_REP_SEL_PEER s.dev
          t.bad.contains (.peer p) = false → (tget {} t.peers p).valid = true → rd Reg.NVF_REP_SEL_MODE s.dev ≤ 1 → Answers (.relBind q) s fun d =>
            answered 1 0 d ∧ (getRel k d).state = 1 ∧ (getRel k d).target = false ∧ (getRel k d).nsid = n ∧ (getRel k d).peer = p ∧
            ∀ e, (getPeer p s.dev).tx = some e →
              Out.repl p e.num (.relOpen k (rd Reg.NVF_SNAP_ARG_NSID2 s.dev) (getNs n s.dev).size (getNs n s.dev).lbaf (getNs n s.dev).pi) ∈ d.out)) ∧
      (x.state = 0 → Answers (.relPromote q) s (answered 3 0) ∧ Answers (.relResync q) s (answered 3 0) ∧ Answers (.relUnbind q) s (answered 3 0)) ∧
      (x.state ≠ 0 → ownsNs x.nsid s.dev = true →
        (∀ b, x.target = true → x.state ≠ 4 → (getSnap x.nsid 0 s.dev).exists_ = false → xtagSnap x.nsid s.dev = some b →
          Answers (.relPromote q) s fun d => journalQuiet s.dev → answered 1 b.sseq d ∧ (getRel k d).state = 4 ∧
            posts [{ action := 5, snap := some { nsid := x.nsid, pred := (x.nsid, b.sseq) } }] d) ∧
        (replOn s.dev = true → (getSnap x.nsid 0 s.dev).exists_ = false → Answers (.relResync q) s (staged (.rollback k) [x.nsid])) ∧
        Answers (.relUnbind q) s fun d => journalQuiet s.dev → answered 1 0 d ∧ getRel k d = {})) ∧
    (∀ c, s.dev.stg.cuts.find? (fun c => cutReady c s.dev) = some c → metaStalled s.dev = false →
      Answers .snapshotCutCommit s fun d => journalQuiet s.dev →
        posts (c.nsids.map fun m => { action := 5, snap := some (cutSnap c m s.dev) }) d) ∧
    (∀ y, walkable s.dev = some y → metaStalled s.dev = false → nsBusy y.nsid s.dev = false → nsBusy (walkQ y s.dev).2.2 s.dev = false →
      Answers .deleteWalk s fun d => journalQuiet s.dev →
        posts (match walkPiece (walkLeft y s.dev) with
          | [] => [{ action := 10, page := y.sseq }]
          | w :: l => ((w :: l).map (·.2)) ++ [{ square := (((w :: l).getLast?).map (·.1)).getD 0, action := 9, page := y.sseq }]) d)

/-- Replication sessions open and renew; cycles, streams and anchors run between source and target; lag past RPO is raised. For
every ready state of a head with replication: a packet whose length disagrees is dropped and counted, one of an unknown session
is discarded and counted, a SESSION_OPEN or SESSION_ACK of session 0 from an admitted address is passed on, one of the peer's
session is decrypted when its tag stands and counted when not; SESSION_OPEN installs the unwrapped key or refuses; SESSION_ACK
goes over to the new session with what waited, a refusal drops it; a session of 3,600 s or 2^31 packets is renewed. The target
answers REL_OPEN, makes the namespace when asked to, begins a cycle, probes offered data, asks for what it needs, stages a
GRANULE whose fingerprint agrees and refuses another, cuts when all is committed, acknowledges an empty stream record; the
source takes REL_REPLY, starts cycles, answers FP_NEED, takes DELTA_DONE and STREAM_ACK, cuts anchors, retries when suspended;
lag past RPO holds the relationship and raises REP_RPO. Commands that it shows to complete: replicationPacketReceive,
sessionOpen, sessionAck, sessionRenew, relOpen, relReply, replCycleStart, deltaBegin, fpOffer, fpNeed, granule, deltaCommit,
deltaDone, streamRec, streamAck, anchorCut, rpoLagCheck, relSuspendedRetry. (spec/14_snapshots_and_replication.md, Replication
peers and packets; spec/14_snapshots_and_replication.md, Relationships; R20; R453; R454; R455; R456; R457; R458; R459; R461;
R462) -/
def Obligations.ReplicationEndsWork : Prop :=
  ∀ (s : State) (p : Fin 64) (k : Fin 4096), s.ready → replOn s.dev = true →
    let x := getRel k s.dev
    let sees (m : ReplMsg) (d : Dev) : Prop := ∀ e, (getPeer x.peer s.dev).tx = some e → Out.repl x.peer e.num m ∈ d.out
    let tells (m : ReplMsg) (d : Dev) : Prop := ∀ e, (getPeer p s.dev).tx = some e → Out.repl p e.num m ∈ d.out
    let counts (f : Field) (d : Dev) : Prop := rd f s.dev < 2 ^ 32 - 1 → rd f d = rd f s.dev + 1
    (∀ (t : Spt) (e : SptPeer), s.dev.sxc.spt = some t → t.bad.contains (.peer p) = false → tget {} t.peers p = e → e.valid = true →
      (∀ (port : Fin 32) (addr hdr body : List Byte),
        let h := padTo 24 hdr
        let sess := beNat (sub h 4 4)
        let y := getPeer p s.dev
        let packet (P : Dev → Prop) : Prop := Answers (.replicationPacketReceive port p addr hdr body true) s P
        (∀ ok, ok = false ∨ beNat (sub h 20 2) ≠ body.length →
          Answers (.replicationPacketReceive port p addr hdr body ok) s (counts (Reg.ETH_DROP_LEN port))) ∧
        (beNat (sub h 20 2) = body.length → addrOf e addr = true → beNat (sub h 0 2) = 0x5250 → beNat (sub h 2 1) = 1 →
          (sess = 0 → sessionControl body = true → packet fun d => Out.replPacket p body ∈ d.out) ∧
          (sess ≠ 0 → (∀ q, y.rx = some q → q.num ≠ sess) → (∀ q u, y.rxOld = some (q, u) → q.num = sess → u < s.dev.tmp.sec) →
            packet fun d => counts Reg.NVF_REP_PKT_NO_SESSION d ∧ rdb Reg.NVF_REP_STATUS_TAG_N d = true) ∧
          (∀ q, sess ≠ 0 → y.rx = some q → q.num = sess →
            let ct := body.take (body.length - 16)
            let good : Prop := 16 ≤ body.length ∧ gcmTag q.key (sub h 8 12) h ct = body.drop (body.length - 16)
            (good → packet fun d => Out.replPacket p (gcmData q.key (sub h 8 12) ct) ∈ d.out) ∧
            (¬ good → packet fun d => counts Reg.NVF_REP_PKT_TAG_FAIL d ∧ rdb Reg.NVF_REP_STATUS_TAG_N d = true)))) ∧
      (∀ (n : BitVec 32) (blob : List Byte) (kek : Bytes), useKey 3 e.keyIndex 0 s.dev.quiet = (.ok kek, s.dev.quiet) →
        (Answers (.sessionOpen p n blob) s fun d => match kwpUnwrap kek blob with
          | none => Out.repl p 0 (.sessionAck n.toNat 1) ∈ d.out
          | some key => Out.repl p 0 (.sessionAck n.toNat 0) ∈ d.out ∧
            (getPeer p d).rx = some { num := n.toNat, key := key, since := s.dev.tmp.sec }) ∧
        (∀ q, (getPeer p s.dev).tx = some q → (getPeer p s.dev).txNew = none → (2 ^ 31 ≤ q.packets ∨ q.since + 3600 ≤ s.dev.tmp.sec) →
          Answers (.sessionRenew p) s fun d => ((getPeer p d).txNew).map (·.num) = some s.dev.repl.nextSess)) ∧
      (∀ (n : BitVec 32) (blob : List Byte) err d1, useKey 3 e.keyIndex 0 s.dev.quiet = (.error err, d1) →
        Answers (.sessionOpen p n blob) s fun d => Out.repl p 0 (.sessionAck n.toNat 1) ∈ d.out) ∧
      (∀ (m : BitVec 32) (size lbaf pi : Nat),
        (x.state ≠ 0 → Answers (.relOpen p k m size lbaf pi) s (tells (.relReply k m.toNat 1))) ∧
        (x.state = 0 → m.toNat ≠ 0 →
          let fits : Prop := (getNs m.toNat s.dev).exists_ = true ∧ ownsNs m.toNat s.dev = true ∧ isTarget m.toNat s.dev = false
          let same : Prop := (getNs m.toNat s.dev).size = size ∧ (getNs m.toNat s.dev).lbaf = lbaf ∧ (getNs m.toNat s.dev).pi = pi ∧
            (getNs m.toNat s.dev).domain = e.localDomain
          (¬ fits → Answers (.relOpen p k m size lbaf pi) s fun d => tells (.relReply k m.toNat 1) d ∧ getRel k d = x) ∧
          (fits → same → Answers (.relOpen p k m size lbaf pi) s fun d => tells (.relReply k m.toNat 0) d ∧
            (getRel k d).state = 1 ∧ (getRel k d).target = true ∧ (getRel k d).nsid = m.toNat ∧ (getRel k d).peer = p) ∧
          (fits → ¬ same → Answers (.relOpen p k m size lbaf pi) s fun d => tells (.relReply k m.toNat 2) d ∧ getRel k d = x)) ∧
        (∀ g pl n d1, x.state = 0 → m.toNat = 0 → ((List.range 128).map (· + 1)).find? (fun g => ownsGroup g s.dev) = some g →
          (s.dev.md.pools.find? fun y => y.2.exists_).map (·.1) = some pl →
          createNs { blocks := size * blocksPerSquare lbaf, lbaf := lbaf, pi := pi, pool := pl, domain := e.localDomain, group := g }
            s.dev.quiet = (0, n, d1) → Answers (.relOpen p k m size lbaf pi) s fun d => tells (.relReply k n 0) d ∧
              (getRel k d).state = 1 ∧ (getRel k d).target = true ∧ (getRel k d).nsid = n))) ∧
    (∀ (q : Sess) (n : BitVec 32), (getPeer p s.dev).txNew = some q → q.num = n.toNat →
      (Answers (.sessionAck p n 0) s fun d => (getPeer p d).txNew = none ∧ (∃ y, (getPeer p d).tx = some y ∧ y.num = q.num ∧ y.key = q.key) ∧
        ∀ m, (p.val, m) ∈ s.dev.repl.queue → Out.repl p q.num m ∈ d.out) ∧
      (∀ r, r ≠ 0 → Answers (.sessionAck p n r) s fun d => journalQuiet s.dev → (getPeer p d).txNew = none ∧ ∀ m, (p.val, m) ∉ d.repl.queue)) ∧
    (∀ m : BitVec 32, x.state ≠ 0 → x.target = false → x.opened = false →
      Answers (.relReply k m 0) s (fun d => (getRel k d).opened = true ∧ (getRel k d).remote = m.toNat) ∧
      ∀ r, r ≠ 0 → Answers (.relReply k m r) s fun d => getRel k d = {}) ∧
    (x.target = false → x.opened = true → ownsNs x.nsid s.dev = true →
      let cut (role : CutRole) (d : Dev) : Prop := d.stg.cuts = s.dev.stg.cuts ++
        [{ nsids := [x.nsid], sseq := s.dev.md.sseqNext, edge := tempoNow s.dev + 1, role := role }]
      ((x.state = 1 ∨ (x.state = 2 ∧ x.streaming = false)) → x.cycle = none →
        (x.base = 0 ∨ x.streaming = true ∨ x.lastStart + x.interval ≤ s.dev.tmp.sec) → Answers (.replCycleStart k) s fun d => cut (.cycle k) d ∧
          (getRel k d).cycle = some { sseq := s.dev.md.sseqNext } ∧ (getRel k d).lastStart = s.dev.tmp.sec) ∧
      (x.streaming = true → x.state = 2 → x.lastAnchor + x.anchor ≤ s.dev.tmp.sec → (∀ c ∈ s.dev.stg.cuts, c.role ≠ .anchor k) →
        Answers (.anchorCut k) s (cut (.anchor k))) ∧
      (tempoNow s.dev % 1000 = 0 → (∃ y ∈ s.dev.md.rels, y = (k.val, x)) → x.state = 3 → (getPeer x.peer s.dev).tx ≠ none →
        (∀ c, x.cycle = some c → c.phase = 0) → Answers .relSuspendedRetry s fun d =>
          (getRel k d).state = if x.base = 0 ∨ x.streaming = true then 1 else 2) ∧
      (∀ c (b : BitVec 32), x.cycle = some c → c.phase = 2 → b.toNat ∈ c.batches →
        (∀ m : BitVec 32, Answers (.fpNeed k b m) s fun d =>
          ((getRel k d).cycle).map (·.batches) = some (c.batches.filter (· != b.toNat)) ∧
          s.dev.stg.readNext + ((those 32 fun i => bitOf m.toNat i).filter fun i => 32 * b.toNat + i < c.items.length).length ≤ d.stg.readNext) ∧
        (c.batches.filter (· != b.toNat) = [] → c.granules = 0 → Answers (.fpNeed k b 0) s fun d =>
          sees (.deltaCommit k c.sseq c.items.length) d ∧ ((getRel k d).cycle).map (·.phase) = some 3)) ∧
      (∀ u (b m : BitVec 32), x.cycle = none → x.unacked.find? (fun u => u.sent && u.tsn % 2 ^ 32 == b.toNat) = some u →
        Answers (.fpNeed k b m) s fun d => s.dev.stg.readNext +
          ((those 32 fun i => bitOf m.toNat i).filter fun i => i < u.items.length).length ≤ d.stg.readNext) ∧
      (∀ c (q u : BitVec 32), x.cycle = some c → c.phase ≠ 0 → c.sseq = q.toNat →
        (Answers (.deltaDone k q u 0) s fun d => (getRel k d).base = c.sseq ∧ (getRel k d).cycle = none ∧ (getRel k d).state = 2) ∧
        ∀ r, r ≠ 0 → Answers (.deltaDone k q u r) s fun d => (getRel k d).cycle = none) ∧
      (∀ (h : Fin 2) (t : BitVec 64), x.streaming = true → Answers (.streamAck k h t) s fun d => journalQuiet s.dev →
        (getRel k d).unacked = x.unacked.filter fun u => !(u.head == h.val && u.tsn ≤ t.toNat))) ∧
    (x.target = true → x.state ≠ 0 → x.state ≠ 4 →
      (∀ q b : BitVec 32, Answers (.deltaBegin k q b) s fun d => (getRel k d).inSseq = q.toNat ∧ ∀ i ∈ d.repl.inb, i.rel ≠ k.val) ∧
      (∀ (b : BitVec 32) (l : List Offer), getIn k b.toNat s.dev = none →
        (Answers (.fpOffer k b l) s fun d => ∀ i y, l[i]? = some y → y.kind = 0 → ProbeFor.offer k b.toNat i ∈ d.fiu.probes) ∧
        ((∀ y ∈ l, y.kind ≠ 0) → Answers (.fpOffer k b l) s (sees (.fpNeed k b.toNat 0)))) ∧
      (∀ (h : Fin 2) (t : BitVec 64) (anchor : Bool) (l : List Offer), getIn k (t.toNat % 2 ^ 32) s.dev = none →
        (Answers (.streamRec k h t anchor l) s fun d =>
          ∀ i y, l[i]? = some y → y.kind = 0 → ProbeFor.offer k (t.toNat % 2 ^ 32) i ∈ d.fiu.probes) ∧
        ((∀ i ∈ s.dev.repl.inb, i.rel ≠ k.val) → l = [] →
          (anchor = false → Answers (.streamRec k h t false []) s fun d =>
            sees (.fpNeed k (t.toNat % 2 ^ 32) 0) d ∧ sees (.streamAck k h t.toNat) d ∧ d.repl.inb = s.dev.repl.inb) ∧
          (anchor = true → Answers (.streamRec k h t true []) s fun d => d.stg.cuts.length = s.dev.stg.cuts.length + 1))) ∧
      (∀ (q : BitVec 32) (n : Nat), x.inSseq = q.toNat → (∀ i ∈ s.dev.repl.inb, i.rel ≠ k.val) → (∀ y ∈ s.dev.stg.slots, y.2.nsid ≠ x.nsid) →
        (∀ r ∈ s.dev.stg.journal, r.nsid = x.nsid → r.tsn ≤ s.dev.md.tsnOwn) → (∀ y ∈ s.dev.stg.heldTx, y.2.nsid ≠ x.nsid) →
        Answers (.deltaCommit k q n) s fun d => d.stg.cuts = s.dev.stg.cuts ++
          [{ nsids := [x.nsid], sseq := s.dev.md.sseqNext, edge := tempoNow s.dev + 1, role := .target k q.toNat }]) ∧
      (∀ (sq fmt : Nat) (pay : List Byte) (b : InBatch) (it : InItem),
        s.dev.repl.inb.find? (fun b => b.rel == k.val && b.items.any fun i => i.dec == 3 && i.offer.square == sq) = some b →
        b.items.find? (fun i => i.dec == 3 && i.offer.square == sq) = some it →
        (∀ m plain, payloadPlain fmt pay = some plain → sha256 plain = it.offer.fp → freeSlotNo s.dev = some m →
          Answers (.granule k sq fmt pay) s fun d => (getSlot m d).nsid = x.nsid ∧ (getSlot m d).square = sq ∧ 2 ≤ (getSlot m d).state) ∧
        ((∀ plain, payloadPlain fmt pay = some plain → sha256 plain ≠ it.offer.fp) →
          Answers (.granule k sq fmt pay) s fun d => rdb Reg.NVF_REP_STATUS_FP_CHK d = true ∧
            (b.stream = false → sees (.deltaDone k x.inSseq 0 1) d ∧ ∀ i ∈ d.repl.inb, i.rel ≠ k.val)))) ∧
    (x.state ≠ 0 → x.target = false →
      (x.held = false → x.rpo * 1000 < lagOf x s.dev → Answers (.rpoLagCheck k) s fun d =>
        (getRel k d).held = true ∧ rdb Reg.NVF_REP_STATUS_RPO_CHK d = true) ∧
      (x.held = true → 2 * lagOf x s.dev < x.rpo * 1000 → Answers (.rpoLagCheck k) s fun d => (getRel k d).held = false))

/-- Datagram requests become numbered messages; acknowledgements, responses, refusals, age, retries and link losses end them. For
every ready state: a doorbell from a cluster of the ring, at most 256 ahead, moves PROD, any other is counted. While the
transport runs, the ring's next descriptor, if well formed, becomes the destination's next MSN at this tempo and writes TEMPO0,
and with a path and room in its window its first packet leaves; a malformed one ends REFUSED, one without a path or whose source
read is cut or poisoned ends FAILED. A READ_RESP lands its bytes and the last ends the READ OK, as do an atomic's response and
an ACK of a single-packet message; a NAK ends a message FAILED with its code, BUSY defers its packets; at MAX_AGE it fails; a
packet that waited its timeout, RTO doubled by each retry to at most 8 RTO, is resent below RETRY with RETX, at RETRY its path
goes down; a link's loss fails what was outstanding on it; a link comes up under its grant; a path not heard for 3,000 tempi
expires; an injection can be armed. Counters are exact where no internal message waits for its window. Commands that it shows to
complete: cdtRequestDoorbell, cdtSend, cdtWrite, cdtRead, cdtAdd, cdtCas, cdtReadResp, cdtAtomicResp, cdtAck, cdtNak,
cdtRetransmitTimeout, cdtMaxAgeExpire, cercoLinkDown, cercoLinkUp, pathExpire, cdtInjArm. (spec/15_cerco_transport.md, Request
rings and reports; spec/15_cerco_transport.md, Reliable delivery; R470; R474; R477; R478; R479; R485; R489; R491; R492) -/
def Obligations.DatagramRequestsEnd : Prop :=
  ∀ s : State, s.ready →
    let calm : Prop := s.dev.cdt.waiting = []
    let counts (f : Field) (k : Nat) (d : Dev) : Prop := rd f s.dev + k < 2 ^ f.width → rd f d = rd f s.dev + k
    (∀ (c : Fin 8) (r : Fin 16) (prod : BitVec 16),
      let ahead := (prod.toNat + 65536 - rd (Reg.CDT_RPTR_CONS r) s.dev) % 65536
      (bitOf (rd (Reg.CDT_RING_CLUSTERS r) s.dev) c = true → ahead ≤ 256 →
        Answers (.cdtRequestDoorbell c r prod) s fun d => rd (Reg.CDT_RPTR_PROD r) d = prod.toNat) ∧
      (bitOf (rd (Reg.CDT_RING_CLUSTERS r) s.dev) c = false ∨ 256 < ahead → Answers (.cdtRequestDoorbell c r prod) s fun d =>
        counts Reg.CDT_RING_BAD_COUNT 1 d ∧ rd (Reg.CDT_RPTR_PROD r) d = rd (Reg.CDT_RPTR_PROD r) s.dev)) ∧
    (∀ (r op : Nat) (cut : Bool), cdtRuns s.dev = true → cdtRing s.dev = some r →
      let i := tget 0 s.dev.cdt.next r
      let a := cdtDesc r i s.dev
      let b := memRead s.dev a 64
      let v := fld b 1 1
      let t := getDst v s.dev
      let ports := if fld b 2 1 = 0xFF then pathPorts v s.dev else (pathPorts v s.dev).filter (· == fld b 2 1)
      let poisoned := (cdtPayload op b s.dev).2.1
      let takes (P : Dev → Prop) : Prop := (op = 1 → Answers (.cdtSend cut) s P) ∧ (op = 2 → Answers (.cdtWrite cut) s P) ∧
        (op = 3 → cut = false → Answers .cdtRead s P) ∧ (op = 4 → Answers (.cdtAdd cut) s P) ∧ (op = 5 → Answers (.cdtCas cut) s P)
      let created (d : Dev) : Prop := memRead d (a + 56) 8 = leBytes 8 (tempoNow s.dev) ∧
        (calm → counts Reg.CDT_SENT_COUNT 1 d ∧ (getDst v d).msnNext = (t.msnNext + 1) % 2 ^ 32)
      let status (st reason : Nat) (d : Dev) : Prop := (memByte d (a + 48)).toNat = st ∧ (memByte d (a + 49)).toNat = reason
      (cdtBad b s.dev = true → (op = if 1 ≤ fld b 0 1 ∧ fld b 0 1 ≤ 5 then fld b 0 1 else 1) → takes (status 3 0)) ∧
      (cdtBad b s.dev = false → fld b 0 1 = op →
        (ports = [] → takes fun d => created d ∧ status 2 6 d) ∧
        (ports ≠ [] → (cut = true ∨ (poisoned = true ∧ s.dev.fab.flips = [])) → op ≠ 3 → takes fun d => created d ∧ status 2 7 d) ∧
        (ports ≠ [] → cut = false → poisoned = false → s.dev.fab.flips = [] →
          (∀ p, (getPath v p s.dev).unacked.length < 1024 ∧ (getPath v p s.dev).queue = []) → takes fun d => created d ∧
            (calm → counts Reg.CDT_OUT_COUNT 1 d ∧ ∃ m, (getDst v d).msgs = t.msgs ++ [m] ∧ m.op = op ∧ m.msn = t.msnNext ∧
              m.tempo0 = tempoNow s.dev ∧ m.len = fld b 4 4) ∧
            ∃ p ∈ ports, ∃ h x, Out.cdtPacket p h ((cdtPayload op b s.dev).1.headD []) x ∈ d.out ∧
              h.type = (if op ≤ 3 then op else 5) ∧ h.msn = t.msnNext))) ∧
    (∀ (f : CdtFrame) (m : CdtMsg) (r i : Nat) (e : Dev),
      let h := f.hdr
      let a := cdtDesc r i s.dev
      let y := getPath h.src (f.port % 4) s.dev
      let single : Prop := (getDst h.src s.dev).msgs = [m]
      (getDst h.src s.dev).msgs.find? (·.msn == h.msn) = some m → m.desc = some (r, i) →
      ((getDst h.src s.dev).boot = some h.boot ∨ (getDst h.src s.dev).boot = none) →
      let gone (d : Dev) : Prop := calm → (∀ z ∈ (getDst h.src d).msgs, z.msn ≠ m.msn) ∧
        (single → rd Reg.CDT_OUT_COUNT d = rd Reg.CDT_OUT_COUNT s.dev - 1)
      let ended (st reason nak : Nat) (d : Dev) : Prop := gone d ∧ (memByte d (a + 48)).toNat = st ∧
        (memByte d (a + 49)).toNat = reason ∧ (memByte d (a + 50)).toNat = nak
      (arrive f s.dev.quiet = (.fresh, e) → (getDst h.src e).msgs = (getDst h.src s.dev).msgs → e.mem = s.dev.mem →
        inSeal m.laddr f.payload.length s.dev = none → inSeal (m.laddr + (h.off - m.off)) f.payload.length s.dev = none →
        inSeal m.res f.payload.length s.dev = none →
        (h.type = 4 → m.op = 3 → m.off ≤ h.off → h.off - m.off + h.len ≤ m.len → h.len = f.payload.length →
          rangesApart (m.laddr + (h.off - m.off)) h.len a 64 →
          let l := tdel h.pidx m.landed ++ [(h.pidx, h.len)]
          let n := if h.last then some h.pidx else m.lastIdx
          Answers (.cdtReadResp f) s fun d => memRead d (m.laddr + (h.off - m.off)) h.len = f.payload ∧
            (∀ k, n = some k → (∀ j ≤ k, ∃ z ∈ l, z.1 = j) → (l.map (·.2)).sum = m.len →
              ended 1 0 0 d ∧ (calm → counts Reg.CDT_ACKED_COUNT 1 d))) ∧
        (h.type = 6 → (m.op = 4 ∨ m.op = 5) → rangesApart m.res f.payload.length a 64 → Answers (.cdtAtomicResp f) s fun d =>
          ended 1 0 0 d ∧ memRead d m.res f.payload.length = f.payload)) ∧
      (frameOk f s.dev.quiet = (true, s.dev.quiet) → (m.op = 1 ∨ m.op = 2) → m.acked = [] →
        (∀ q, h.type = 8 → m.pkts = 1 → q ∈ y.unacked → q.hdr.msn = m.msn → (q.hdr.type = 1 ∨ q.hdr.type = 2) →
          ackCovers h.psn (fld f.payload 0 8) q.hdr.psn = true → Answers (.cdtAck f) s fun d => gone d ∧ (single → ended 1 0 0 d) ∧
            (calm → y.queue = [] → ∀ z ∈ (getPath h.src (f.port % 4) d).unacked, ackCovers h.psn (fld f.payload 0 8) z.hdr.psn = true → z ∉ y.unacked)) ∧
        (h.type = 9 → fld f.payload 0 1 ≠ 7 → (∀ q ∈ y.unacked, q.hdr.msn = m.msn → q.hdr.pidx = fld f.payload 1 2) →
          Answers (.cdtNak f) s fun d => gone d ∧ (single → ended 2 4 (fld f.payload 0 1) d ∧ (memByte d (a + 51)).toNat = 1)) ∧
        (h.type = 9 → fld f.payload 0 1 = 7 → y.queue = [] → Answers (.cdtNak f) s fun d =>
          calm → ∀ z ∈ (getPath h.src (f.port % 4) d).unacked, z.hdr.msn = h.msn → z.hdr.type = 1 → z.defer_ = true))) ∧
    (∀ v : Fin 8, Answers (.cdtMaxAgeExpire v) s fun d => ∀ m ∈ (getDst v s.dev).msgs, m.tempo0 + maxAge s.dev ≤ tempoNow s.dev →
      (calm → ∀ z ∈ (getDst v d).msgs, z.msn ≠ m.msn) ∧ ((getDst v s.dev).msgs = [m] → (calm → counts Reg.CDT_FAILR_AGE 1 d) ∧
        ∀ r i, m.desc = some (r, i) → (memByte d (cdtDesc r i s.dev + 48)).toNat = 2 ∧ (memByte d (cdtDesc r i s.dev + 49)).toNat = 3)) ∧
    (∀ (v : Fin 8) (p : Fin 4) (n t : BitVec 32) (q : CdtPkt), (getPath v p s.dev).unacked.find? (fun q => q.hdr.psn == n.toNat) = some q →
      rdb (Reg.CDT_PORT_UP p) s.dev = true →
      (t.toNat < rtoOf q s.dev → Answers (.cdtRetransmitTimeout v p n t) s fun d => calm → getPath v p d = getPath v p s.dev) ∧
      (rtoOf q s.dev ≤ t.toNat → q.tries < rd Reg.CDT_CTRL_RETRY s.dev ∨ q.defer_ = true → Answers (.cdtRetransmitTimeout v p n t) s fun d =>
        (∃ h x, Out.cdtPacket p h q.payload x ∈ d.out ∧ h.retx = true ∧ h.psn = n.toNat) ∧
        (calm → counts (Reg.CDT_PORT_RETX p) 1 d ∧ ∀ z ∈ (getPath v p d).unacked, z.hdr.psn = n.toNat →
          z.hdr.retx = true ∧ z.tries = q.tries + b2n (!q.defer_))) ∧
      (rtoOf q s.dev ≤ t.toNat → rd Reg.CDT_CTRL_RETRY s.dev ≤ q.tries → q.defer_ = false → Answers (.cdtRetransmitTimeout v p n t) s fun d =>
        (getPath v p d).down = true ∧ rdb Reg.CDT_STATUS_PATH_DOWN d = true)) ∧
    (∀ p : Fin 4,
      (rdb (Reg.CDT_PORT_UP p) s.dev = true → Answers (.cercoLinkDown p) s fun d =>
        rdb (Reg.CDT_PORT_UP p) d = false ∧ rd (Reg.CDT_PORT_PATHS p) d = 0 ∧ (calm → counts Reg.CDT_FAILR_LINK_DOWN
          ((List.range 8).map fun v => ((getDst v s.dev).msgs.filter fun m => m.port == p.val).length).sum d)) ∧
      (portRole p s.dev ≠ 0 → rdb (Reg.CDT_PORT_UP p) s.dev = false → rdb Reg.CDT_CTRL_EN s.dev = true →
        (hasGrant (.cercoPort p) 5 s.dev = true → Answers (.cercoLinkUp p) s fun d => rdb (Reg.CDT_PORT_UP p) d = true) ∧
        (hasGrant (.cercoPort p) 5 s.dev = false → (∀ q ∈ s.dev.pwr.waiting, q.who = .cercoPort p → q.cls ≠ 5) →
          Answers (.cercoLinkUp p) s fun d => d.pwr.waiting = s.dev.pwr.waiting ++ [{ who := .cercoPort p, cls := 5, cost := 40 }])) ∧
      (∀ (v : Fin 8) (t : Nat), (getPath v p s.dev).heard = some t → t + 3000 < tempoNow s.dev →
        Answers (.pathExpire v p) s fun d => (getPath v p d).heard = none)) ∧
    (Answers .cdtInjArm s fun d => calm → rdb Reg.CDT_INJ_ARM d = true)

/-- A receiver delivers, places, reads and performs each message once, refuses by Table 15.4, and opens and revokes its windows. For
every ready state and a fresh request packet f: one of a message refused before is NAKed with the same code, a duplicate is
counted and an atomic's kept result answered. Otherwise it is performed: a SEND that is whole lands in the ring's next entry
behind its header, VALID set, and PROD rises; to a full ring it is NAKed BUSY, without a receiver NO_SERVICE, of another length
LENGTH. A WRITE packet that passes its window check stands in memory, or in the mirror that it names, one that fails is NAKed
with the check's code; a READ_REQ answers the first bytes of its range, of memory or of the index's pages; an ADD of 8 bytes
stores the sum, a CAS of 8 or 16 swaps where the comparand holds, a swap of the index or of a GTE acts on it, and each answers
the old value. An ACK owed goes out at its delay. Opening a CLOSED entry on a range in memory, or on the index, makes it OPEN
under the key reported, an open entry answers BUSY, a wrong one BAD; a revocation is staged and pends; a COOLING entry closes at
MAX_AGE. Commands that it shows to complete: cdtSendReceive, cdtWriteReceive, cdtReadReq, cdtAtomicReq, cdtAckDelayExpire,
windowOpen, windowRevoke, windowCoolingExpire. (spec/15_cerco_transport.md, Operations; spec/15_cerco_transport.md, Memory
windows; R476; R481; R482; R485; R487; R488; R493; R494) -/
def Obligations.DatagramsReceivedAndWindows : Prop :=
  ∀ s : State, s.ready →
    (∀ (f : CdtFrame) (e0 e : Dev),
      let h := f.hdr
      let p := f.port % 4
      let sv := h.key % 256
      let a := winBase (h.key / 2 ^ 20) e + h.off
      let naks (code : Nat) (d : Dev) : Prop := ∃ k b, Out.cdtPacket p k (leBytes 1 code ++ leBytes 2 h.pidx ++ List.replicate 5 0) b ∈ d.out ∧ k.type = 9
      let answers (type : Nat) (l : Bytes) (d : Dev) : Prop := (getPath h.src p e).unacked.length < 1024 → (getPath h.src p e).queue = [] →
        ∃ k b, Out.cdtPacket p k l b ∈ d.out ∧ k.type = type ∧ k.msn = h.msn
      arrive f s.dev.quiet = (.fresh, e0) →
      (h.type = 1 → svcServed sv e0 = true → svcFull sv e0 = true → isDup h.src h.msn e0 = false → tget 0 (getSrc h.src e0).refused h.msn = 0 →
        Answers (.cdtSendReceive f) s (naks 7)) ∧
      (let takes (P : Dev → Prop) : Prop := (h.type = 1 → svcFull sv e0 = false → Answers (.cdtSendReceive f) s P) ∧
          (h.type = 2 → ∀ mirror, Answers (.cdtWriteReceive f mirror) s P) ∧ (h.type = 3 → Answers (.cdtReadReq f) s P) ∧
          (h.type = 5 → ∀ gte, Answers (.cdtAtomicReq f gte) s P);
        (∀ c, filterPkt f e0 = (.refused c, e) → takes (naks c)) ∧
        (filterPkt f e0 = (.dup, e) → takes fun d => rd Reg.CDT_RX_DUP e0 + 1 < 2 ^ Reg.CDT_RX_DUP.width → rd Reg.CDT_RX_DUP d = rd Reg.CDT_RX_DUP e0 + 1) ∧
        (filterPkt f e0 = (.dup, e) → h.type = 5 → tget [] (getSrc h.src e0).results h.msn ≠ [] →
          ∀ gte, Answers (.cdtAtomicReq f gte) s (answers 6 (tget [] (getSrc h.src e0).results h.msn)))) ∧
      (filterPkt f e0 = (.perform, e) →
        (h.type = 1 → svcFull sv e0 = false →
          (svcServed sv e = false → Answers (.cdtSendReceive f) s (naks 6)) ∧
          (svcServed sv e = true → ∀ b, wholeMsg h.src h.msn (addPart f e) = some b →
            (b.length ≠ h.off → Answers (.cdtSendReceive f) s (naks 9)) ∧
            (b.length = h.off → sv ∉ [1, 2, 6] →
              let k := svcBase sv e + rd (Reg.CDT_SVC_PROD sv) e * 16384
              Answers (.cdtSendReceive f) s fun d => rd (Reg.CDT_SVC_PROD sv) d = (rd (Reg.CDT_SVC_PROD sv) e + 1) % 256 ∧
                memRead d (k + 64) b.length = b ∧ (memByte d (k + 63)).toNat = 1 ∧ memRead d (k + 8) 4 = leBytes 4 h.msn))) ∧
        (h.type = 2 →
          (∀ mirror, checkWindow h 1 h.len e ≠ 0 → Answers (.cdtWriteReceive f mirror) s fun d =>
            naks (checkWindow h 1 h.len e) d ∧ MemKept e d) ∧
          (checkWindow h 1 h.len e = 0 →
            (inSeal a f.payload.length e = none → Answers (.cdtWriteReceive f none) s fun d =>
              memRead d a f.payload.length = f.payload) ∧
            (e.cas.hasPeer = true → h.src = peerDev e →
              (∀ n im, im.state ≠ 0 → Answers (.cdtWriteReceive f (some (.slot n im))) s fun d => tget {} d.stg.mirror n = slotOf im) ∧
              (∀ n c, c.state ≠ 0 → Answers (.cdtWriteReceive f (some (.cmd n c))) s fun d => tget {} d.cas.mirrorCmds n = c) ∧
              (∀ r, (∀ x ∈ e.stg.mirrorJ, x.tsn ≠ r.tsn) → Answers (.cdtWriteReceive f (some (.record r))) s fun d =>
                d.stg.mirrorJ = e.stg.mirrorJ ++ [r])))) ∧
        (h.type = 3 →
          let n := fld f.payload 0 4
          let pages := List.range (n / 2048)
          (checkWindow h 0 n e ≠ 0 → Answers (.cdtReadReq f) s fun d => naks (checkWindow h 0 n e) d ∧ MemKept e d) ∧
          (checkWindow h 0 n e = 0 →
            (isFiuWin h e = false → Answers (.cdtReadReq f) s fun d => answers 4 ((chunks (memRead e a n)).headD []) d ∧ MemKept e d) ∧
            (isFiuWin h e = true → h.off % 2048 = 0 → n % 2048 = 0 → (∀ i ∈ pages, servesPart (fiuPage h.off i e).1 e = true) →
              Answers (.cdtReadReq f) s (answers 4 ((chunks (pages.flatMap fun i => bucketPage (fiuPage h.off i e).2 e)).headD []))))) ∧
        (h.type = 5 →
          let op := fld f.payload 0 1
          let size := fld f.payload 1 1
          let x := f.payload.drop 8
          let place := fiuPlace h.off e
          let key := bucketKey place.1 place.2.1
          (∀ gte, checkWindow h 2 size e ≠ 0 → Answers (.cdtAtomicReq f gte) s (naks (checkWindow h 2 size e))) ∧
          (checkWindow h 2 size e = 0 → h.off % size = 0 →
            (isFiuWin h e = false → inSeal a size e = none →
              (op = 1 → size = 8 → x.length = 8 → Answers (.cdtAtomicReq f none) s fun d =>
                answers 6 (memRead e a 8) d ∧ memNat d a 8 = (memNat e a 8 + leNat x) % 2 ^ 64) ∧
              (op = 2 → (size = 8 ∨ size = 16) → x.length = 2 * size → Answers (.cdtAtomicReq f none) s fun d =>
                answers 6 (memRead e a size) d ∧
                memRead d a size = if x.take size = memRead e a size then x.drop size else memRead e a size)) ∧
            (∀ g, isFiuWin h e = false → op = 2 → size = 8 → x.length = 16 → Answers (.cdtAtomicReq f (some g)) s fun d =>
              answers 6 (leBytes 8 (gteW2 (getGte g e))) d ∧ (x.take 8 = leBytes 8 (gteW2 (getGte g e)) →
                leNat (x.drop 8) / 2 ^ 32 = (getGte g e).refcnt + 1 → (getGte g d).refcnt = (getGte g e).refcnt + 1)) ∧
            (isFiuWin h e = true → op = 2 → size = 32 → x.length = 64 → servesPart place.1 e = true → ownMoving place.1 e = false →
              let old := padTo 32 (tget [] (getBucket key e) place.2.2)
              ∀ gte, Answers (.cdtAtomicReq f gte) s fun d => answers 6 old d ∧
                (x.take 32 = old → tget [] (getBucket key d) place.2.2 =
                  if (x.drop 32).all (· == 0) then [] else x.drop 32)))))) ∧
    (∀ (v : Fin 8) (p : Fin 4), (getRx v p s.dev).pend ≠ 0 → Answers (.cdtAckDelayExpire v p) s fun d => (getRx v p d).pend = 0 ∧
      ∃ h l, Out.cdtPacket p h l false ∈ d.out ∧ h.type = 8 ∧ h.psn = (getRx v p s.dev).exp.getD 0) ∧
    (let i := rd Reg.CDT_WOPEN_INDEX s.dev
     let base := rd Reg.CDT_WOPEN_BASE_BASE s.dev
     let len := rd Reg.CDT_WOPEN_LEN_LEN s.dev
     let perm := rd Reg.CDT_WOPEN_PERM s.dev
     let good : Prop := len ≠ 0 ∧ perm ≠ 0 ∧ if bitOf perm 3 then perm = 8 ∧ fiuOn s.dev = true else inMem base len = true
     (winState i s.dev ≠ 0 → Answers .windowOpen s fun d => rd Reg.CDT_WOPEN_ST_RESULT d = 2 ∧ MemKept s.dev d) ∧
     (winState i s.dev = 0 → ¬ good → Answers .windowOpen s fun d => rd Reg.CDT_WOPEN_ST_RESULT d = 3 ∧ MemKept s.dev d) ∧
     (winState i s.dev = 0 → good → Answers .windowOpen s fun d =>
         rd Reg.CDT_WOPEN_ST_RESULT d = 1 ∧ winState i d = 1 ∧ rd Reg.CDT_WOPEN_ST_KEY d = winKey i d ∧ winGen i d = winGen i s.dev ∧
         winBase i d = (if bitOf perm 3 then 0 else base) ∧ winLen i d = len ∧
         winPerm i d = perm ∧ winSrcs i d = rd Reg.CDT_WOPEN_SRCS s.dev)) ∧
    (let i := rd Reg.CDT_WREVOKE_INDEX s.dev
     winState i s.dev = 1 → i ∉ s.dev.cdt.revoke → Answers .windowRevoke s fun d => d.cdt.revoke = s.dev.cdt.revoke ++ [i] ∧
       rd Reg.CDT_WREVOKE_ST_PENDING d = min 4095 (s.dev.cdt.revoke.length + 1 + s.dev.cdt.revoking.length)) ∧
    (∀ i : Fin 4096, winState i s.dev = 3 → winEdge i s.dev + maxAge s.dev ≤ tempoNow s.dev →
      Answers (.windowCoolingExpire i) s fun d => winState i d = 0)

/-- Heartbeats are sent, heard and missed; the peer is declared lost; digests are sent, compared and rechecked; a resigned head's
hold ends. For every ready state of a head with a peer: at tempi divisible by 100 a HEARTBEAT leaves every UP port of role PEER
or BOTH and every port with a path to the peer; one from the peer ends the run of misses and is noted, one in START-UP that
shows CASTLED brings REJOIN_REQ, one with another DEV raises CAS_PAIR_NO; a missed one is counted, and the third in a row
declares the peer lost with cause 1; PEER_FATAL_N low for 1 µs and a RESIGN are noted, a RESIGN of cause 4 takes over; the hold
of a resigned head ends in RECOVERY. At tempi divisible by 64 a DIGEST of the owned groups leaves; one whose records are not yet
applied waits, each group that differs is rechecked; a RECHECK_REQ is answered; a clean head whose peer has answered is done, a
wrong one raises PAIR_WRONG. Commands that it shows to complete: heartbeatSend, digestSend, heartbeat, heartbeatMissed,
peerFatalAssert, digest, recheckReq, recheckAns, resign, resignHoldEnd. (spec/16_castling_and_cascade.md, Heartbeats and the
loss of a peer; spec/16_castling_and_cascade.md, Comparison of metadata; R503; R504; R505; R507; R508; R509; R511; R518; R521) -/
def Obligations.HeadsWatchAndCompare : Prop :=
  ∀ s : State, s.ready → s.dev.cas.hasPeer = true →
    let counts (f : Field) (d : Dev) : Prop := rd f s.dev + 1 < 2 ^ f.width → rd f d = rd f s.dev + 1
    (rdb Reg.CDT_CTRL_EN s.dev = true → tempoNow s.dev % 100 = 0 → Answers .heartbeatSend s fun d =>
      d.cas.hbSeq = (s.dev.cas.hbSeq + 1) % 2 ^ 32 ∧ ∀ p < 4, rdb (Reg.CDT_PORT_UP p) s.dev = true →
        (portRole p s.dev = 1 ∨ portRole p s.dev = 3 ∨ hasPath (peerDev s.dev) p s.dev = true) →
          ∃ h b, Out.cdtPacket p h b false ∈ d.out ∧ h.type = 0x13 ∧ h.dst = peerDev s.dev ∧
            b = heartbeatBytes { s.dev with cas.hbSeq := (s.dev.cas.hbSeq + 1) % 2 ^ 32 }) ∧
    (∀ f : CdtFrame, frameOk f s.dev.quiet = (true, s.dev.quiet) → f.hdr.type = 0x13 → f.payload.length = 32 →
      let h := fld f.payload 8 8
      let flag (i : Nat) : Bool := bitOf (fld f.payload 1 1) i
      (fld f.payload 0 1 = peerDev s.dev → Answers (.heartbeat f) s fun d => rd Reg.CAS_HB_RUN d = 0 ∧
        (getPath (peerDev s.dev) (f.port % 4) d).heard = some (tempoNow s.dev) ∧ (s.dev.cas.hbJudged < h → h ∈ d.cas.hbSeen) ∧
        d.cas.peerApplied = fld f.payload 24 8 ∧ d.cas.peerCastled = flag 3 ∧
        (s.dev.cas.declared = none → s.dev.cas.castled = false →
          rd Reg.CAS_STATUS_PEER d = if flag 3 then 4 else if flag 2 then 3 else 1) ∧
        (glbState s.dev = 0 → flag 3 = true → s.dev.cas.rejoining = false →
          d.cas.rejoining = true ∧ Out.rejoinReq (rd Reg.SXC_BOOT_BOOT s.dev) ∈ d.out)) ∧
      (fld f.payload 0 1 ≠ peerDev s.dev → Answers (.heartbeat f) s fun d => d.cas.hbSeen = s.dev.cas.hbSeen ∧
        rd Reg.CAS_HB_RUN d = rd Reg.CAS_HB_RUN s.dev ∧
        (s.checkRoom → ∃ k < 64, rd (Reg.FLT_CHK_OPEN k) d = 1 ∧ rd (Reg.FLT_CHK_CODE k) d = Ev.CAS_PAIR_NO))) ∧
    (tempoNow s.dev % 100 = 0 → s.dev.cas.hbJudged < tempoNow s.dev - 100 → (s.dev.cas.hbHeard = true ∨ glbState s.dev = 1) →
      ((tempoNow s.dev - 100) ∈ s.dev.cas.hbSeen → Answers .heartbeatMissed s fun d =>
        d.cas.hbJudged = tempoNow s.dev - 100 ∧ rd Reg.CAS_HB_RUN d = rd Reg.CAS_HB_RUN s.dev) ∧
      ((tempoNow s.dev - 100) ∉ s.dev.cas.hbSeen →
        (rd Reg.CAS_HB_RUN s.dev < 2 → Answers .heartbeatMissed s fun d => rd Reg.CAS_HB_RUN d = rd Reg.CAS_HB_RUN s.dev + 1 ∧
          counts Reg.CAS_HB_MISSED d ∧ rdb Reg.CAS_STATUS_HB_MISS d = true) ∧
        (2 ≤ rd Reg.CAS_HB_RUN s.dev → s.dev.cas.declared = none → inTrouble s.dev = false →
          Answers .heartbeatMissed s fun d => d.cas.declared = some (tempoNow s.dev, 1) ∧ rd Reg.CAS_STATUS_LAST_CAUSE d = 1 ∧
            rd Reg.CAS_LAST_EDGE d = tempoNow s.dev % 2 ^ Reg.CAS_LAST_EDGE.width ∧
            (ownHead s.dev = 1 → rd Reg.CAS_STATUS_PEER d = 2 ∧
              (s.dev.cas.resigned = none → ∃ t, d.cas.claimDue = some t ∧ tempoNow s.dev ≤ t))))) ∧
    (∀ ns : Nat, rdb Reg.CAS_CTRL_FATAL_IN_EN s.dev = true → 1000 ≤ ns → Answers (.peerFatalAssert ns) s fun d => d.cas.fatalRx = true) ∧
    (∀ (c : Fin 5) (t : Nat), (1 ≤ c.val → c.val ≤ 3 → Answers (.resign c t) s fun d => d.cas.resignRx = true) ∧
      (c.val = 4 → s.dev.cas.declared = none → s.dev.cas.resigned = none → s.dev.cas.castled = false →
        Answers (.resign c t) s fun d => d.cas.switchPending = true ∧
          rd Reg.CAS_ANA_APPLY_TEMPO d = (tempoNow s.dev + 1) % 2 ^ 64 ∧ rd Reg.CAS_ANA_STG0_OWN d = allMine s.dev ∧
          rd Reg.CAS_ANA_STG1_OWN d = allMine s.dev ∧
          Out.ownerStage ((tempoNow s.dev + 1) % 2 ^ 64) (allMine s.dev) (allMine s.dev) ∈ d.out)) ∧
    (∀ t c, s.dev.cas.resigned = some (t, c) → glbState s.dev = 1 → (s.dev.cas.peerCastled = true ∨ t + tempiFor 100000000 s.dev ≤ tempoNow s.dev) →
      Answers .resignHoldEnd s fun d => glbState d = 3 ∧ rd Reg.GLB_STATE_RCAUSE d = 7) ∧
    (glbState s.dev = 1 → activationPaused s.dev = false → tempoNow s.dev % 64 = 0 → (∀ x ∈ s.dev.cas.wins, ¬ (x.1 = true ∧ x.2.1 = tempoNow s.dev)) → Answers .digestSend s fun d =>
      d.cas.digestHi = tsnCommitted s.dev ∧ Out.digest { window := tempoNow s.dev, lo := s.dev.cas.digestHi, hi := tsnCommitted s.dev, entries :=
        ((windowGroups (ownHead s.dev) s.dev.cas.digestHi (tsnCommitted s.dev) s.dev).filter fun g => ownsGroup g s.dev).map fun g =>
          (g, groupDigest (ownHead s.dev) s.dev.cas.digestHi (tsnCommitted s.dev) g s.dev) } ∈ d.out) ∧
    (∀ m : DigestMsg,
      let e := catchUp { s.dev.quiet with cas.digests := s.dev.cas.digests ++ [m] }
      let peer := 1 - ownHead s.dev
      let mine (g : Nat) : Option Bytes := if (windowEntries peer m.lo m.hi g e).isEmpty then none else some (groupDigest peer m.lo m.hi g e)
      (e.md.tsnPeer < m.hi → Answers (.digest m) s fun d => m ∈ d.cas.digests) ∧
      (m.hi ≤ e.md.tsnPeer → s.dev.cas.digests = [] → Answers (.digest m) s fun d =>
        d.cas.digests = [] ∧ ∀ g ∈ m.entries.map (·.1) ++ windowGroups peer m.lo m.hi e,
          mine g ≠ (m.entries.find? (·.1 == g)).map (·.2) → rdb Reg.CAS_STATUS_DIGEST_CHK d = true ∧ Out.recheckReq g m.window ∈ d.out)) ∧
    (∀ g w : Nat, 1 ≤ g → g ≤ 128 → (∀ r ∈ s.dev.cas.rechecks, r.group = g → r.window = w → r.mine = none) →
      Answers (.recheckReq g w) s fun d => Out.recheckAns g w (recheckWrong g w s.dev) ∈ d.out) ∧
    (∀ (g w : Nat) (x : Bool) (r : Recheck), s.dev.cas.rechecks.find? (fun r => r.group == g && r.window == w) = some r →
      let left (d : Dev) : Prop := ∀ y ∈ d.cas.rechecks, ¬ (y.group = g ∧ y.window = w)
      (r.mine = some false → Answers (.recheckAns g w x) s left) ∧
      (r.mine = some true → Answers (.recheckAns g w x) s fun d => left d ∧ rdb Reg.CAS_STATUS_WRONG_CHK d = true ∧
        (x = true → 1 ≤ g → bitOf d.cas.lossNext (g - 1) = true)) ∧
      (r.mine = none → Answers (.recheckAns g w x) s fun d => { r with peers := some x } ∈ d.cas.rechecks))

/-- Claims issue FENCE_CAS and are repeated; owner tables are staged; planned moves begin and time out; a head rejoins. For every
ready state: with its delay run out, a head that has declared its peer lost claims every adopted member on an UP lane by a
FENCE_CAS with EPOCH one higher and only its own bit; under CAS_NO_MAJORITY an unreached member is claimed again at tempi
divisible by 1,000, and at once on CAS_CMD.CLAIM while PEER is LOST. A write of CAS_ANA_APPLY takes a tempo number above the
last edge, or 0; the peer's OWNER_STAGE stages the same table. PLANNED is noted while PEER is UP in SERVICE; a Change state of
100 ms ends in resignation. A castled head begins a rejoin; a returning head that is granted takes the survivor's metadata,
drops its slots and owns no group. Commands that it shows to complete: claimDelayExpire, claimRepeat, casCmdClaim,
casAnaApplyWrite, ownerStage, plannedCastling, plannedChangeTimeout, rejoinReq, rejoinGrant. (spec/16_castling_and_cascade.md,
Claiming the fences; spec/16_castling_and_cascade.md, Planned castling; spec/16_castling_and_cascade.md, Rejoining; R500; R512;
R513; R514; R518; R519; R520; R622) -/
def Obligations.ClaimsAndOwnerTables : Prop :=
  ∀ s : State, s.ready →
    (let reached (m : Nat) : Prop := let l := getLink m s.dev
        laneState m s.dev = 4 ∧ rdb (Reg.MDL_LANE_PLN_IN m) s.dev = false ∧ l.cmdCred.ok 32 = true ∧ l.dataCred.ok 32 = true ∧ l.fence.ok 64 = true
      let claimed (m : Nat) (d : Dev) : Prop :=
        let w := (getLink m s.dev).fence.val
        let goes (c : LaneCmd) : Bool := c.opcode == 5 && c.arg0 == w && c.arg1 == claimWord w s.dev && c.use == .claim
        (tget {} d.cas.claims m).st = .pending ∧ ((getLink m d).cmds.any (fun c => goes c.2) = true ∨ (getLink m d).queue.any goes = true);
      (∀ t, s.dev.cas.claimDue = some t → t ≤ tempoNow s.dev → s.dev.cas.resigned = none → s.dev.cas.declared ≠ none → s.dev.cas.won = false →
        s.dev.cas.claims = [] → Answers .claimDelayExpire s fun d => d.cas.claimDue = none ∧
          (s.dev.flt.inj = none → ∀ y ∈ s.dev.md.members, y.2.adopted = true → reached y.1 → claimed y.1 d)) ∧
      (s.dev.cas.noMajority = true →
        let again (d : Dev) : Prop := s.dev.flt.inj = none → ∀ y ∈ s.dev.cas.claims, y.2.st = .unreached → reached y.1 → claimed y.1 d
        (tempoNow s.dev % 1000 = 0 → Answers .claimRepeat s again) ∧
        (rd Reg.CAS_STATUS_PEER s.dev = 2 → Answers .casCmdClaim s again))) ∧
    (∀ v : BitVec 64, Answers (.casAnaApplyWrite v) s fun d =>
      rd Reg.CAS_ANA_APPLY_TEMPO d = if v.toNat = 0 ∨ tempoNow s.dev < v.toNat then v.toNat else rd Reg.CAS_ANA_APPLY_TEMPO s.dev) ∧
    (∀ v a b : BitVec 64, s.dev.cas.hasPeer = true → Answers (.ownerStage v a b) s fun d => rd Reg.CAS_ANA_STG0_OWN d = a.toNat ∧
      rd Reg.CAS_ANA_STG1_OWN d = b.toNat ∧ (tempoNow s.dev < v.toNat → rd Reg.CAS_ANA_APPLY_TEMPO d = v.toNat)) ∧
    (rd Reg.CAS_STATUS_PEER s.dev = 1 → glbState s.dev = 1 → s.dev.cas.plannedAt = none →
      Answers .plannedCastling s fun d => d.cas.plannedReq = true) ∧
    (∀ t, s.dev.cas.plannedAt = some t → t + tempiFor 100000000 s.dev ≤ tempoNow s.dev → s.dev.cas.hasPeer = true → s.dev.cas.resigned = none →
      Answers .plannedChangeTimeout s fun d => d.cas.resigned = some (tempoNow s.dev, 1) ∧ rd Reg.CAS_STATUS_SELF d = 1 ∧
        d.cas.outputsHeld = true ∧ Out.resign 1 (tempoNow s.dev) ∈ d.out) ∧
    (∀ b : Nat, s.dev.cas.castled = true → s.dev.cas.rejoinStep = 0 → Answers (.rejoinReq b) s fun d =>
      d.cas.rejoinStep = 1 ∧ rd Reg.CAS_STATUS_PEER d = 5 ∧ d.cas.rejoinRoot = newestRoot s.dev ∧ d.ftl.ckpt ≠ none) ∧
    (∀ (t : Nat) (m : Meta), s.dev.cas.rejoining = true → Answers (.rejoinGrant t m) s fun d =>
      d.stg.slots = [] ∧ d.cas.rejoining = false ∧ d.cas.declared = none ∧ rd Reg.CAS_STATUS_PEER d = 1 ∧
      ((∀ r ∈ s.dev.stg.mirrorJ, r.tsn ≤ t) → d.md = adoptSaved m s.dev.md) ∧
      rd Reg.CAS_ANA_OWN0_OWN d = (if ownHead s.dev = 0 then 2 ^ 64 - 1 else 0) ∧ rd Reg.CAS_ANA_OWN1_OWN d = if ownHead s.dev = 0 then 2 ^ 64 - 1 else 0)

/-- OIM_CMD validates an image step by step and shows the first failure; COMMIT takes a higher SEQ into the region that does not
run. For every ready state with no OIM command running, and no entry of the table in force that the images need out of step:
VALIDATE and COMMIT test the image that OIM_LOAD names by HEADER, TARGET, KEY, SIGNATURE, FLOOR, SECTION and VALUE, in that
order. The first failure gives OIM_CMD_ST.RESULT its step and OIM_RESULT its step, TYPE and offset, and nothing else changes. An
image that passes gives RESULT 1 under VALIDATE, with nothing else changed. Under COMMIT a SEQ not above the running image's
gives RESULT 9; another one is programmed into the region that does not hold the running image, or that region is left empty
with RESULT 10 when the flash fails; the running image's region and every other register stand. GO while a command runs is
counted and ignored. The signature check is a free function (assumption log). Commands that it shows to complete: oimValidate,
oimCommit. (spec/17_opening_image.md, Validation; spec/17_opening_image.md, Committing a new image; R527; R528; R529; R530;
R532; R533) -/
def Obligations.ImagesValidateAndCommit : Prop :=
  ∀ s : State, s.ready →
    let b := oimLoaded s.dev
    let key : Option Bytes := if fld b 14 2 = 0 then (if s.dev.nv.oimKey.keyId = fld b 32 8 then some s.dev.nv.oimKey.pub else none)
      else s.dev.sxc.spt.bind fun t => (t.oimKeys.find? fun k => k.keyId == fld b 32 8).map (·.pub)
    let floor := (s.dev.sxc.spt.map (·.oimFloor)).getD 0
    let base (op : Nat) (l : List OimSec) : Nat := leastBase (applyOim defLanes l { wr Reg.OIM_CMD_OP op s.dev.quiet with oimCfg := {}, sxc.spt := none })
    let env (op : Nat) (l : List OimSec) : Bool × Nat × Nat :=
      (decide (base op l ≤ 20 * fld (secBody l 8 defPower) 0 2), 8, ((l.find? (·.type == 8)).map (·.off)).getD 0)
    let later (op : Nat) (k : Bytes) : Option OimFail :=
      if Config.ecdsaVerify k (sha384 (b.take (oimLen b))) (sub b (oimLen b) 96) = false then some ⟨5, 0, oimLen b⟩
      else if oimSeq b < floor then some ⟨6, 0, 24⟩
      else match oimWalk b 98 256 [] 0 0 with
        | .error f => some f
        | .ok l => firstBad 8 (l.flatMap oimFields ++ oimCross l ++ [env op l])
    let failure (op : Nat) : Option OimFail := ((oimHeader b).orElse fun _ => oimTarget b s.dev).orElse fun _ =>
      match key with
      | none => some ⟨4, 0, 32⟩
      | some k => later op k
    let regs := [Reg.OIM_CMD_OP.off, Reg.OIM_CMD_ST_RESULT.off, Reg.OIM_RESULT_STEP.off]
    let shown (f : OimFail) (d : Dev) : Prop := rd Reg.OIM_CMD_ST_RESULT d = f.step % 16 ∧ rd Reg.OIM_RESULT_STEP d = f.step % 16 ∧
      rd Reg.OIM_RESULT_TYPE d = f.type % 2 ^ 16 ∧ rd Reg.OIM_RESULT_OFFSET d = f.off % 2 ^ 32 ∧ d.nv = s.dev.nv
    (∀ t, s.dev.sxc.spt = some t → SptEntry.imageKeys ∉ t.bad ∧ SptEntry.floors ∉ t.bad) →
    (rdb Reg.OIM_CMD_ST_BUSY s.dev = false →
      (Answers .oimValidate s fun d => RegsKept regs s.dev d ∧ MemKept s.dev d ∧ match failure 0 with
        | some f => shown f d
        | none => rd Reg.OIM_CMD_ST_RESULT d = 1 ∧ d.nv = s.dev.nv) ∧
      (∀ good : Bool, Answers (.oimCommit good) s fun d => RegsKept regs s.dev d ∧ MemKept s.dev d ∧ match failure 1 with
        | some f => shown f d
        | none => if oimSeq b ≤ rd Reg.OIM_SEQ_SEQ s.dev then shown ⟨9, 0, 24⟩ d
          else rd Reg.OIM_CMD_ST_RESULT d = (if good then 1 else 10) ∧
            tget [] d.nv.oim (1 - rd Reg.OIM_STATUS_ACTIVE s.dev) = (if good then b.take (oimLen b + 128) else []) ∧
            tget [] d.nv.oim (rd Reg.OIM_STATUS_ACTIVE s.dev) = tget [] s.dev.nv.oim (rd Reg.OIM_STATUS_ACTIVE s.dev))) ∧
    (rdb Reg.OIM_CMD_ST_BUSY s.dev = true → ∀ c : Instr, (c = .oimValidate ∨ c = .oimCommit true ∨ c = .oimCommit false) →
      Answers c s fun d => (rd Reg.OIM_CMD_ST_IGNORED s.dev + 1 < 2 ^ 16 → rd Reg.OIM_CMD_ST_IGNORED d = rd Reg.OIM_CMD_ST_IGNORED s.dev + 1) ∧ RegsKept [Reg.OIM_CMD_ST_RESULT.off] s.dev d ∧
        MemKept s.dev d ∧ d.nv = s.dev.nv)

/-- SXC_MR_EXT extends exactly the registers and in exactly the states of Table 18.4; challenges are drawn, replaced and lapse. For
every ready state: a request through SXC_MR_EXT for MR1, MR2, MR6 or MR7 in START-UP, or for MR8 to MR14 in any state, sets that
register to the SHA-384 of itself and SXC_MR_DATA and ends OK; every other request ends REFUSED and leaves all sixteen registers
unchanged. SXC_CHAL_CTRL.NEW replaces the challenge by a fresh one of age 0, drawn at the tempo time, and shows its bytes; 600 s
later it lapses, and not before. Nothing else changes. The hash is a free function (assumption log). Commands that it shows to
complete: mrExtend, challengeNew, challengeLapse. (spec/18_boot_and_attestation.md, Measurement registers;
spec/18_boot_and_attestation.md, Challenge; R540; R550) -/
def Obligations.RegistersExtendAndChallenges : Prop :=
  ∀ s : State, s.ready →
    (∀ n : Fin 16, Answers (.mrExtend n) s fun d => rd Reg.SXC_MR_EXT_INDEX d = n.val ∧ MemKept s.dev d ∧
      let allowed := n.val ∈ [8, 9, 10, 11, 12, 13, 14] ∨ (n.val ∈ [1, 2, 6, 7] ∧ glbState s.dev = 0)
      let v := sha384 (mrRead n.val s.dev ++ words6 (fun j => Reg.SXC_MR_DATA_WORD j) s.dev)
      (allowed → rd Reg.SXC_MR_EXT_RESULT d = 1 ∧ (∀ j < 6, rd (Reg.SXC_MR_WORD n.val j) d = fld v (8 * j) 8 % 2 ^ 64) ∧
        RegsKept (Reg.SXC_MR_EXT_INDEX.off :: (List.range 6).map fun j => (Reg.SXC_MR_WORD n.val j).off) s.dev d) ∧
      (¬ allowed → rd Reg.SXC_MR_EXT_RESULT d = 2 ∧ RegsKept [Reg.SXC_MR_EXT_INDEX.off] s.dev d)) ∧
    (Answers .challengeNew s fun d => rdb Reg.SXC_CHAL_CTRL_VALID d = true ∧ rd Reg.SXC_CHAL_CTRL_AGE d = 0 ∧
      RegsKept (Reg.SXC_CHAL_CTRL_VALID.off :: (List.range 4).map fun j => (Reg.SXC_CHAL_WORD j).off) s.dev d ∧ MemKept s.dev d ∧
      ∃ c, c.length = 32 ∧ d.sxc = { s.dev.sxc with challenge := some (c, s.dev.tmp.sec) } ∧
        ∀ j < 4, rd (Reg.SXC_CHAL_WORD j) d = fld c (8 * j) 8) ∧
    (Answers .challengeLapse s fun d => RegsKept [Reg.SXC_CHAL_CTRL_VALID.off] s.dev d ∧ MemKept s.dev d ∧ match s.dev.sxc.challenge with
      | some (_, t) => if t + 600 ≤ s.dev.tmp.sec then d.sxc = { s.dev.sxc with challenge := none } ∧ rdb Reg.SXC_CHAL_CTRL_VALID d = false
          else d.sxc = s.dev.sxc ∧ rdReg Reg.SXC_CHAL_CTRL_VALID.off d = rdReg Reg.SXC_CHAL_CTRL_VALID.off s.dev
      | none => d.sxc = s.dev.sxc)

/-- An officer move is verified in the order of Table 18.11, consumes the challenge, and is staged; a forwarded move is staged and
acknowledged. For every ready state whose table, if one is in force, has sound entries: a submitted move consumes the challenge
whatever its result; it ends with the RESULT and operation index of the first check of Table 18.11 that fails, and then the
table, the staged move and the measurement registers are unchanged; a move that passes all is staged for APPLY_AT, or for the
next edge, with RESULT OK, and is forwarded to every other target. Without a table in force a move for this device fails
SIG_WHITE, and under debug it ends REFUSED. A target stages a forwarded move of its version whose signatures hold and
acknowledges it; it refuses one less than 100 tempi ahead, while another is staged, under debug, or of another target; the
verifier records an acknowledgement of a staged move. That TARGETS without the verifier fails VALUE is the model's reading
(assumption log). The signature check is a free function. Commands that it shows to complete: moveSubmit, moveForwardReceive.
(spec/18_boot_and_attestation.md, Verification and application; spec/18_boot_and_attestation.md, Officer moves; R550; R551;
R552; R553; R556) -/
def Obligations.MovesVerifiedAndStaged : Prop :=
  ∀ s : State, s.ready → (∀ t, s.dev.sxc.spt = some t → t.bad = []) →
    let b := moveLoaded s.dev
    let ended (r i : Nat) (d : Dev) : Prop := rd Reg.SXC_MOVE_ST_RESULT d = r ∧ rd Reg.SXC_MOVE_ST_OPIDX d = i % 256 ∧
      d.sxc.challenge = none ∧ rdb Reg.SXC_CHAL_CTRL_VALID d = false ∧ d.sxc.spt = s.dev.sxc.spt ∧ d.nv = s.dev.nv ∧ MemKept s.dev d ∧
      ∀ n < 16, mrRead n d = mrRead n s.dev
    let failed (r i : Nat) (d : Dev) : Prop := ended r i d ∧ d.sxc.staged = s.dev.sxc.staged
    let bad (t : Spt) (m : Move) : Option Nat := badValue m.ops 0 t t.importKek s.dev
    let unlock (m : Move) : Option (MoveOp × Nat) := (m.ops.zip (List.range m.ops.length)).find? fun x => x.1.opcode == 0x0D && glbState s.dev != 2
    let verdict (m : Move) (c : Bytes) : Nat × Nat :=
      let h := sha384 (m.body ++ c)
      if m.serial ≠ s.dev.nv.serial then (4, 0) else match s.dev.sxc.spt with
      | none => (5, 0)
      | some t => if debugOpen s.dev = true then (9, 0)
      else if Config.ecdsaVerify t.white h (sub b m.body.length 96) = false then (5, 0)
      else if Config.ecdsaVerify t.black h (sub b (m.body.length + 96) 96) = false then (6, 0)
      else if m.expectVer ≠ t.version then (7, 0)
      else match bad t m with
        | some i => (8, i)
        | none => if applyAtOk m s.dev = false ∨ bitOf m.targets (ownDev s.dev) = false then (8, 0)
          else match unlock m with
            | some x => (9, x.2)
            | none => if s.dev.sxc.staged.isSome then (10, 0) else (1, 0)
    (∀ i, parseMove b = .error i → Answers .moveSubmit s (failed 2 i)) ∧
    (∀ m, parseMove b = .ok m →
      (b.length < m.body.length + 192 → Answers .moveSubmit s (failed 2 0)) ∧
      (m.body.length + 192 ≤ b.length →
        (s.dev.sxc.challenge = none → Answers .moveSubmit s (failed 3 0)) ∧
        (∀ c x, s.dev.sxc.challenge = some (c, x) → Answers .moveSubmit s fun d =>
          if (verdict m c).1 = 1 then
            let e := if m.applyAt = 0 then tempoNow s.dev + 1 else m.applyAt
            ended 1 0 d ∧ d.sxc.staged = some (m, e) ∧ rdb Reg.SXC_MOVE_ST_STAGED d = true ∧ rd Reg.SXC_MOVE_ST_APPLY d = e % 2 ^ 32 ∧
              rd Reg.SXC_MOVE_ST_ACKED d = 2 ^ ownDev s.dev % 256 ∧ rd Reg.SXC_MOVE_ST_TARGETS d = m.targets % 256 ∧
              ∀ v < 8, v ≠ ownDev s.dev → bitOf m.targets v = true → Out.moveForward v m.body ∈ d.out
          else failed (verdict m c).1 (verdict m c).2 d))) ∧
    (∀ (ok : Bool) (x : Bytes) (i : Nat), parseMove x = .error i →
      Answers (.moveForwardReceive (.forward ok x)) s fun d => d.sxc = s.dev.sxc ∧ RegsKept [] s.dev d ∧ MemKept s.dev d) ∧
    (∀ (ok : Bool) (x : Bytes) (m : Move), parseMove x = .ok m →
      let fits := ok = true ∧ bitOf m.targets (ownDev s.dev) = true ∧ debugOpen s.dev = false ∧ (∃ t, s.dev.sxc.spt = some t ∧ m.expectVer = t.version) ∧ s.dev.sxc.staged = none ∧ tempoNow s.dev + 100 ≤ m.applyAt
      (fits → Answers (.moveForwardReceive (.forward ok x)) s fun d => d.sxc = { s.dev.sxc with staged := some (m, m.applyAt) } ∧
        rdb Reg.SXC_MOVE_ST_STAGED d = true ∧ Out.moveAck (ownDev s.dev) ∈ d.out ∧
        RegsKept [Reg.SXC_MOVE_ST_STAGED.off] s.dev d ∧ MemKept s.dev d) ∧
      (¬ fits → Answers (.moveForwardReceive (.forward ok x)) s fun d => d.sxc = s.dev.sxc ∧ RegsKept [] s.dev d ∧ MemKept s.dev d)) ∧
    (∀ v, Answers (.moveForwardReceive (.ack v)) s fun d => (v < 8 → s.dev.sxc.staged ≠ none → bitOf (rd Reg.SXC_MOVE_ST_ACKED d) v = true) ∧
      ((8 ≤ v ∨ s.dev.sxc.staged = none) → RegsKept [] s.dev d) ∧ d.sxc = s.dev.sxc ∧ RegsKept [Reg.SXC_MOVE_ST_ACKED.off] s.dev d ∧ MemKept s.dev d)

/-- A claim ends with the result of its first failing check, or burns one claim fuse and writes version 1 of the table with both
officers. For every ready state: CLAIM_SUBMIT consumes the challenge. A claim that fails ends with its RESULT, and the fuses and
the table stand. One that passes ends OK: the next claim fuse is burned, the table in force is version 1 with the two officer
keys and the defaults of Table 18.8, it is stored in the copy that does not hold the version before it, CLAIM_OPEN reads 0 and
CLAIMED reads 1 for keys that are not empty. The order among the checks of a claim is the model's (assumption log). Commands
that it shows to complete: claimSubmit. (spec/18_boot_and_attestation.md, Claiming and officers; R546; R550) -/
def Obligations.ClaimsTakeOfficers : Prop :=
  ∀ s : State, s.ready →
    let b := moveLoaded s.dev
    Answers .claimSubmit s fun d => d.sxc.challenge = none ∧ rdb Reg.SXC_CHAL_CTRL_VALID d = false ∧ MemKept s.dev d ∧
      match judgeClaim b (s.dev.sxc.challenge.map (·.1)) s.dev with
      | (r, none) => rd Reg.SXC_MOVE_ST_RESULT d = r ∧ d.nv = s.dev.nv ∧ d.sxc.spt = s.dev.sxc.spt
      | (_, some (_, w, k)) => rd Reg.SXC_MOVE_ST_RESULT d = 1 ∧ d.nv.claimFuses = min 15 (s.dev.nv.claimFuses + 1) ∧
          d.sxc.spt = some { version := 1, white := w, black := k } ∧ rdb Reg.SXC_STATUS_CLAIM_OPEN d = false ∧
          rd Reg.SXC_SPT_VER_VERSION d = 1 ∧ (w ≠ [] → k ≠ [] → rdb Reg.SXC_STATUS_CLAIMED d = true) ∧
          (tget {} d.nv.spt (otherCopy ((s.dev.sxc.spt.map (·.version)).getD 0) s.dev)).table = { version := 1, white := w, black := k }

/-- The SXC answers SPDM 1.2 requests one at a time: versions, capabilities, algorithms, digests, certificates, challenges and
measurements. For every settled state with power good and outside ADJ3, live or not: a request that arrives while another is in
progress gets ERROR Busy. Otherwise GET_VERSION, GET_CAPABILITIES and NEGOTIATE_ALGORITHMS are answered; GET_DIGESTS gives the
digests of the Alias and the Ledger chain; GET_CERTIFICATE gives the asked part of a chain and the bytes that remain; CHALLENGE
of slot 0 is answered with a signature by the Alias key; GET_MEASUREMENTS gives registers 0 to 15 at indices 1 to 16, the last
signed Boot Record at 17 and the table's version and digest at 18, signed by the Alias key when asked. No register, no memory
and nothing of the SXC changes. The codes of DSP0274 are the model's (assumption log). Commands that it shows to complete:
spdmGetVersion, spdmGetCapabilities, spdmNegotiateAlgorithms, spdmGetDigests, spdmGetCertificate, spdmChallenge,
spdmGetMeasurements. (spec/18_boot_and_attestation.md, Attestation; R545; R555) -/
def Obligations.SpdmAnswered : Prop :=
  ∀ s : State, s.settled → s.dev.pwr.good = true → s.dev.pwr.adj3 = false →
    let kept (d : Dev) : Prop := RegsKept [] s.dev d ∧ MemKept s.dev d ∧ d.sxc = s.dev.sxc ∧ d.nv = s.dev.nv
    let answersWith (c : Instr) (code : Nat) (ps : List Nat) (x : Bytes) : Prop := Answers c s fun d => Out.spdm code ps x ∈ d.out ∧ kept d
    (∀ (co : Bool) (k o l i : Nat) (sg : Bool) (r : SpdmSigned), ∀ c ∈ [Instr.spdmGetVersion true, .spdmGetCapabilities true,
        .spdmNegotiateAlgorithms true co, .spdmGetDigests true, .spdmGetCertificate true k o l, .spdmChallenge true r,
        .spdmGetMeasurements true i sg r], answersWith c 0x7F [3] []) ∧
    answersWith (.spdmGetVersion false) 0x04 [0x1200] [] ∧ answersWith (.spdmGetCapabilities false) 0x61 [0x16] [] ∧
    answersWith (.spdmNegotiateAlgorithms false true) 0x63 [0x80, 0x02] [] ∧ answersWith (.spdmNegotiateAlgorithms false false) 0x63 [0, 0] [] ∧
    answersWith (.spdmGetDigests false) 0x01 [0x03] (sha384 (chainOf 0 s.dev) ++ sha384 (chainOf 1 s.dev)) ∧
    (∀ slot off len : Nat, let c := chainOf slot s.dev
      (slot ≤ 1 → off ≤ c.length → answersWith (.spdmGetCertificate false slot off len) 0x02
        [slot, (sub c off (min len (c.length - off))).length, c.length - off - (sub c off (min len (c.length - off))).length]
        (sub c off (min len (c.length - off)))) ∧
      (1 < slot → answersWith (.spdmGetCertificate false slot off len) 0x7F [1] [])) ∧
    (∀ r : SpdmSigned, (r.slot ≠ 0 → answersWith (.spdmChallenge false r) 0x7F [1] []) ∧
      (r.slot = 0 → Answers (.spdmChallenge false r) s fun d => kept d ∧ ∃ nonce k, nonce.length = 32 ∧
        Out.spdm 0x03 [0] (sha384 (chainOf 0 s.dev) ++ nonce ++ ecdsaSign (aliasKey s.dev) (sha384 (r.transcript ++ nonce)) k) ∈ d.out)) ∧
    (∀ (i : Nat) (r : SpdmSigned),
      (1 ≤ i → i ≤ 18 → answersWith (.spdmGetMeasurements false i false r) 0x60 [1, i] (measurement i s.dev)) ∧
      answersWith (.spdmGetMeasurements false 0 false r) 0x60 [18] [] ∧
      (18 < i → i ≠ 0xFF → answersWith (.spdmGetMeasurements false i false r) 0x7F [1] []) ∧
      (1 ≤ i → i ≤ 18 → r.slot = 0 → Answers (.spdmGetMeasurements false i true r) s fun d => kept d ∧ ∃ nonce k, nonce.length = 32 ∧
        Out.spdm 0x60 [1, i] (measurement i s.dev ++ nonce ++
          ecdsaSign (aliasKey s.dev) (sha384 (r.transcript ++ measurement i s.dev ++ nonce)) k) ∈ d.out))

/-- START-UP fixes the boot number, above every reserved one, and reserves its slot; the Boot Record ends it in SERVICE, TEST or
RECOVERY. For every ready state in START-UP that has not yet run it, whatever the tables, flashes and modules hold: START_UP
takes the boot number after the highest reserved one, or, where the chain of signed records is broken and an epoch fuse is left,
the first number of the next epoch, burning that fuse; it shows it in SXC_BOOT and reserves its slot with an intact header for
it, not yet signed. No claim fuse burns. With no Check open, no root to recover and four trained channels it ends still in
START-UP, and counts as run; elsewhere START_UP does nothing. Once it has run, BOOT_RECORD_WRITE with a good flash leaves a
signed record in the slot, whose first bytes are the reserved header, and GLB_STATE leaves START-UP for the state that the
recovery causes and an open claim give; a record that cannot be written sets LEDGER_FAIL and leaves none signed, and with a free
Double check entry the head ends in RECOVERY unless a lower cause stands for it already. A head that rejoins waits. What of
several causes RCAUSE shows is the model's reading (assumption log). Commands that it shows to complete: startUp,
bootRecordWrite. (spec/18_boot_and_attestation.md, The Boot Record and its chain; spec/18_boot_and_attestation.md, Device
states; R536; R542; R543; R544; R545; R546) -/
def Obligations.StartUpEndsInARecord : Prop :=
  ∀ s : State, s.ready →
    ((s.dev.sxc.startedUp = true ∨ glbState s.dev ≠ 0) → ∀ b, Answers (.startUp b) s fun d => RegsKept [] s.dev d ∧ MemKept s.dev d ∧ d.nv = s.dev.nv) ∧
    (glbState s.dev = 0 → s.dev.sxc.startedUp = false → ∀ b : BootSample,
      let o := { s.dev with outside.saved := (b.saved.map fun m => adoptSaved m s.dev.outside.saved).getD s.dev.outside.saved }
      let fuses := s.dev.nv.epochFuses
      let jump := chainBroken s.dev = true ∧ fuses < 255
      let boot := if jump then (fuses + 1) * 2 ^ 24 else highestBoot s.dev + 1
      let burned := fuses + (if jump ∨ (fuses < 255 ∧ (fuses + 1) * 2 ^ 24 ≤ highestBoot s.dev + 1) then 1 else 0)
      Answers (.startUp b) s fun d => rd Reg.SXC_BOOT_BOOT d = boot % 2 ^ 64 ∧ rd Reg.SXC_INFO_SLOT d = boot % 16384 ∧
        d.nv.epochFuses = burned ∧ d.nv.claimFuses = s.dev.nv.claimFuses ∧
        tget [] d.nv.bootSlots (boot % 16384) =
          bootHeader boot (decide jump) (imageToRestore o).isSome { s.dev with nv.epochFuses := burned } ∧
        tget true d.nv.bootSigned (boot % 16384) = false ∧
        ((∀ k < 64, rd (Reg.FLT_CHK_OPEN k) s.dev = 0) → rootReadable o = false → b.ddr.length = 8 →
          4 ≤ (b.ddr.filter fun x => x.trained && x.dimms != 0).length → d.sxc.startedUp = true ∧ glbState d = 0)) ∧
    (glbState s.dev = 0 → s.dev.sxc.startedUp = true → s.dev.cas.rejoining = false →
      let slot := rd Reg.SXC_INFO_SLOT s.dev
      (∃ n : Nat, let body := tget [] s.dev.nv.bootSlots slot ++ recordBody (endState s.dev).1 s.dev
        Answers (.bootRecordWrite true) s fun d => glbState d = (endState s.dev).1 ∧ rd Reg.GLB_STATE_RCAUSE d = (endState s.dev).2 % 16 ∧
          tget [] d.nv.bootSlots slot = body ++ ecdsaSign (brecKey s.dev) (sha384 body) n ∧ tget false d.nv.bootSigned slot = true ∧
          MemKept s.dev d) ∧
      Answers (.bootRecordWrite false) s fun d => d.nv.bootSigned = s.dev.nv.bootSigned ∧ rdb Reg.SXC_STATUS_LEDGER_FAIL d = true ∧
        (s.dcheckRoom → (glbState d, rd Reg.GLB_STATE_RCAUSE d) = endState (noteRecovery 5 s.dev))) ∧
    ((glbState s.dev ≠ 0 ∨ s.dev.sxc.startedUp = false ∨ s.dev.cas.rejoining = true) → ∀ g,
      Answers (.bootRecordWrite g) s fun d => glbState d = glbState s.dev ∧ d.nv = s.dev.nv ∧ RegsKept [] s.dev d)

/-- Firmware Image Download fills the buffer of its owner, Firmware Commit writes slots and NEXT, CA 3 queues an activation. For
every ready state whose table, if one is in force, has sound entries, and capsule taken at once in record n whose checks pass: a
block whose offset or length is not a multiple of 4 KiB, or that ends beyond 16 MiB, ends Invalid Field in Command; one from
another controller than the buffer's owner Command Sequence Error; one that overlaps Overlapping Range; these leave the buffer
as it is. A block at offset 0 starts the buffer again, any other one is added; both end in success; in compatible mode a first
block whose image fails an earlier step of Table 19.3 ends Invalid Firmware Image. A commit while an activation runs, of a slot
above 3, of the running slot, or of an EMPTY slot under CA 2 and 3 is refused; every commit empties the buffer. CA 0 and 1 write
a buffer without a gap to the slot, CA 1 and 2 set NEXT; a gap or a failed read-back ends Invalid Firmware Image, the latter
with the slot EMPTY. CA 3 ends with the status of the first condition of R565 that fails, or queues the activation. The
signature check is a free function. Commands that it shows to complete: firmwareImageDownload, firmwareCommitSlot,
firmwareCommitSlotNext, firmwareCommitNext, firmwareCommitActivate. (spec/19_firmware_update.md, Download;
spec/19_firmware_update.md, Commit; spec/19_firmware_update.md, Activation; R560; R561; R563; R564; R565) -/
def Obligations.FirmwareImagesAreStored : Prop :=
  ∀ (s : State) (c : HostCmd) (n : Nat), s.ready → (∀ t, s.dev.sxc.spt = some t → t.bad = []) →
    (capsuleTaken .fwDownload c n s.dev → checksPass .fwDownload c s.dev →
      let off := c.val2
      let same (d : Dev) : Prop := d.fwu = s.dev.fwu
      let shaped := off % 4096 = 0 ∧ c.data.length % 4096 = 0 ∧ off + c.data.length ≤ 2 ^ 24
      let mine := s.dev.fwu.owner = none ∨ s.dev.fwu.owner = some (cntlidOf c s.dev)
      let overlaps := ∃ r ∈ s.dev.fwu.ranges, off < r.1 + r.2 ∧ r.1 < off + c.data.length
      let stored (rs : List (Nat × Nat)) (d : Dev) : Prop := Ended c n 0 0 s.dev d ∧ d.fwu.ranges = rs ++ [(off, c.data.length)] ∧
        d.fwu.owner = some (cntlidOf c s.dev) ∧ rdb Reg.FWU_STATUS_BUF_BUSY d = true ∧
        ∀ i < c.data.length, tget 0 d.fwu.buf (off + i) = (c.data[i]?).getD 0
      (¬ shaped → Answers (.firmwareImageDownload c) s fun d => Ended c n 0x02 0 s.dev d ∧ same d) ∧
      (shaped → ¬ mine → Answers (.firmwareImageDownload c) s fun d => Ended c n 0x0C 0 s.dev d ∧ same d) ∧
      (shaped → mine → off ≠ 0 → overlaps → Answers (.firmwareImageDownload c) s fun d => Ended c n 0x114 0 s.dev d ∧ same d) ∧
      (shaped → mine → off ≠ 0 → ¬ overlaps → Answers (.firmwareImageDownload c) s (stored s.dev.fwu.ranges)) ∧
      (shaped → mine → off = 0 → (rdb Reg.FWU_STATUS_COMPAT s.dev = false ∨ (verifyFw c.data 5 s.dev).1 = 1) → Answers (.firmwareImageDownload c) s (stored [])) ∧
      (shaped → mine → off = 0 → rdb Reg.FWU_STATUS_COMPAT s.dev = true → (verifyFw c.data 5 s.dev).1 ≠ 1 →
        Answers (.firmwareImageDownload c) s fun d => Ended c n 0x107 0 s.dev d ∧ d.fwu.ranges = [] ∧ d.fwu.owner = none)) ∧
    (∀ ca : Fin 4, capsuleTaken (.fwCommit ca.val) c n s.dev → checksPass (.fwCommit ca.val) c s.dev →
      let slot := commitSlotNo ca.val c.sel s.dev
      let cmd : Instr := match ca with
        | 0 => .firmwareCommitSlot c
        | 1 => .firmwareCommitSlotNext c
        | 2 => .firmwareCommitNext c
        | 3 => .firmwareCommitActivate c
      let emptied (d : Dev) : Prop := d.fwu.owner = none ∧ d.fwu.ranges = [] ∧ rdb Reg.FWU_STATUS_BUF_BUSY d = false ∧ rd Reg.FWU_BUF_BYTES d = 0
      let kept (d : Dev) : Prop := d.nv = s.dev.nv ∧ emptied d
      let bad := 3 < slot ∨ slot = runSlot s.dev ∨ (2 ≤ ca.val ∧ (getFwSlot slot s.dev).present = false)
      let whole := 512 ≤ bufBytes s.dev ∧ 512 ≤ imgLen (bufRead 512 s.dev) ∧ imgLen (bufRead 512 s.dev) ≤ bufBytes s.dev
      let image := (getFwSlot slot s.dev).image
      (s.dev.fwu.act ≠ none → Answers cmd s fun d => Ended c n 0x0C 0 s.dev d ∧ kept d) ∧
      (s.dev.fwu.act = none → bad → Answers cmd s fun d => Ended c n 0x106 0 s.dev d ∧ kept d) ∧
      (s.dev.fwu.act = none → ¬ bad →
        (ca.val < 2 → ¬ whole → Answers cmd s fun d => Ended c n 0x107 0 s.dev d ∧ kept d) ∧
        (ca.val < 2 → whole → c.readBack = false → Answers cmd s fun d => Ended c n 0x107 0 s.dev d ∧ emptied d ∧ (getFwSlot slot d).present = false ∧
          d.nv.fwNext = s.dev.nv.fwNext) ∧
        (ca.val < 2 → whole → c.readBack = true → Answers cmd s fun d => Ended c n 0 0 s.dev d ∧ emptied d ∧
          getFwSlot slot d = { present := true, image := bufRead (imgLen (bufRead 512 s.dev)) s.dev } ∧ rd (Reg.FWU_SLOT_STATE (slot - 1)) d = 1 ∧
          d.nv.fwNext = (if ca.val = 1 then slot else s.dev.nv.fwNext) ∧ d.nv.fwActive = s.dev.nv.fwActive) ∧
        (ca.val = 2 → Answers cmd s fun d => Ended c n 0 0 s.dev d ∧ emptied d ∧ d.nv = { s.dev.nv with fwNext := slot } ∧
          rd Reg.FWU_STATUS_NEXT d = slot) ∧
        (ca.val = 3 →
          let fit := glbState s.dev = 1 ∧ rd Reg.CAS_STATUS_PEER s.dev ≤ 1 ∧ rdb Reg.PWR_STATUS_TT s.dev = false
          let same := imgHandoff image = imgHandoff (getFwSlot (runSlot s.dev) s.dev).image
          (¬ fit → Answers cmd s fun d => Ended c n 0x113 0 s.dev d ∧ kept d) ∧
          (fit → ¬ same → Answers cmd s fun d => Ended c n 0x10B 0 s.dev d ∧ kept d) ∧
          (fit → same → Answers cmd s fun d => kept d ∧
            if (verifyFw image 6 s.dev).1 = 1 then (getFc n d).ready = none ∧ rdb Reg.FWU_STATUS_ACT_BUSY d = true ∧
              d.fwu.act = some { slot := slot, edge := 0, phase := 0, cmdRec := n }
            else Ended c n 0x107 0 s.dev d ∧ d.fwu.act = none))))

/-- At P + 20 ms an activation switches the firmware or is abandoned; at its release the commit completes. For every ready state
with an activation past its edge P: at P + 20 ms, with every accepted command but the commit terminal and every engine,
accelerator and L2 idle, the slot becomes the running one and ACTIVE of the directory, and both King units restart at one entry;
otherwise the activation ends, ACT_ABORT is set, and the commit ends Firmware Activation Prohibited with the old firmware
running. At the release of a switched activation ACTIVATED is set, LAST shows the pause, the activation is counted and the
commit ends in success. Without an activation in that phase both commands change nothing. Commands that it shows to complete:
activationIdleDeadline, activationRelease. (spec/19_firmware_update.md, Activation; R566; R567; R568) -/
def Obligations.ActivationsSwitchOrEnd : Prop :=
  ∀ s : State, s.ready →
    (∀ a, s.dev.fwu.act = some a → a.phase = 1 →
      let c := (getFc a.cmdRec s.dev).cmd
      (activationIdle a.cmdRec s.dev = true → Answers .activationIdleDeadline s fun d => d.fwu.act = some { a with phase := 2 } ∧
        runSlot d = a.slot % 16 ∧ d.nv.fwActive = a.slot ∧ (∀ e ∈ d.engines, e.2.l1i = []) ∧ MemKept s.dev d ∧
        (∃ pc, ∀ u < 2, (tget {} s.dev.king.units u).quar = false → (tget {} d.king.units u).core = { pc := pc } ∧ (tget {} d.king.units u).l1i = []) ∧
        RegsKept [Reg.FWU_STATUS_ACTIVE.off] s.dev d) ∧
      (activationIdle a.cmdRec s.dev = false → Answers .activationIdleDeadline s fun d =>
        d.fwu.act = none ∧ rdb Reg.FWU_STATUS_ACT_BUSY d = false ∧ rdb Reg.FWU_STATUS_ACT_ABORT d = true ∧ ((getFc a.cmdRec s.dev).ready = none → Ended c a.cmdRec 0x113 0 s.dev d) ∧
        runSlot d = runSlot s.dev ∧ d.nv.fwActive = s.dev.nv.fwActive)) ∧
    (∀ (a : Activation) (t : Nat), s.dev.fwu.act = some a → a.phase = 2 →
      Answers (.activationRelease t) s fun d => d.fwu.act = none ∧ rdb Reg.FWU_STATUS_ACT_BUSY d = false ∧ rdb Reg.FWU_STATUS_ACTIVATED d = true ∧
        rd Reg.FWU_ACT_LAST d = t % 2 ^ 16 ∧
        (rd Reg.FWU_ACT_COUNT s.dev + 1 < 2 ^ 16 → rd Reg.FWU_ACT_COUNT d = rd Reg.FWU_ACT_COUNT s.dev + 1) ∧
        ((getFc a.cmdRec s.dev).ready = none → Ended (getFc a.cmdRec s.dev).cmd a.cmdRec 0 0 s.dev d) ∧ runSlot d = runSlot s.dev) ∧
    (let quiet (d : Dev) : Prop := d.fwu = s.dev.fwu ∧ d.nv = s.dev.nv ∧ RegsKept [] s.dev d ∧ MemKept s.dev d
    ((∀ a, s.dev.fwu.act = some a → a.phase ≠ 1) → Answers .activationIdleDeadline s quiet) ∧
    ((∀ a, s.dev.fwu.act = some a → a.phase ≠ 2) → ∀ t, Answers (.activationRelease t) s quiet))

/-- A Check entry open too long becomes a Double check; OPEN bits are cleared, a Double check's only by the management endpoint. For
every ready state whose escalation time agrees with its complement, and every Check entry: still open at RAISED plus the
escalation time and the tempi held by activations, and none paused, it sets ESC and becomes a Double check: with room for one
whose unit nothing quarantines and whose code castles no head it is closed, and the Double check's entry shows its code and unit
with ESCALATED and the tempo number, and is counted; open for less time, held or closed, it stands with every register. Writing
1 to OPEN closes an open entry and lowers CHK_OPEN, and clears no W1C bit of the block that raised it; in the cycle of a new
raise it stays open and RECUR rises, up to 255. In every settled state of a powered device outside ADJ3, Checkmate included, the
management endpoint closes a Double check entry, and no other writer does; no unit leaves its quarantine. Commands that it shows
to complete: checkEscalate, checkEntryClear, dcheckEntryClear. (spec/20_scoresheet_and_faults.md, Reaction by class; R573; R574;
R576; R577; R578; R579) -/
def Obligations.ChecksEscalateAndClose : Prop :=
  (∀ (s : State) (k : Fin 64), s.ready → rdb (Reg.FLT_CHK_OPEN k) s.dev = true →
    let code := rd (Reg.FLT_CHK_CODE k) s.dev
    let unit := rd (Reg.FLT_CHK_UNIT k) s.dev
    let due := rd (Reg.FLT_CHK_T_RAISED k) s.dev + s.dev.flt.escalate.val + tget 0 s.dev.flt.escHold k
    (s.dev.flt.escalate.ok 16 = true → activationPaused s.dev = false → due ≤ tempoNow s.dev → Answers (.checkEscalate k) s fun d => rdb Reg.FLT_STATUS_ESC d = true ∧
      (s.dcheckRoom → findDchk code unit s.dev = none →
      unit / 256 ∈ [0x00, 0x07, 0x0B, 0x0C, 0x0D, 0x0E, 0x11, 0x12, 0x13] →
      code ∉ [Ev.KING_SPLIT, Ev.CIP_NO_LANE, Ev.DIG_NO_LANE, Ev.CMP_NO_LANE, Ev.ERS_NO_LANE, Ev.TT_LOST, Ev.FAB_FAIL, Ev.FT_MD_LOST, Ev.PAIR_WRONG,
        Ev.CAS_LOST_RACE] →
        rdb (Reg.FLT_CHK_OPEN k) d = false ∧
        (rd Reg.FLT_CNT_DCHECKS s.dev + 1 < 2 ^ 16 → rd Reg.FLT_CNT_DCHECKS d = rd Reg.FLT_CNT_DCHECKS s.dev + 1) ∧ MemKept s.dev d ∧ d.pins = s.dev.pins ∧
        ∃ j < 32, rdb (Reg.FLT_DCHK_OPEN j) s.dev = false ∧ rdb (Reg.FLT_DCHK_OPEN j) d = true ∧ rd (Reg.FLT_DCHK_CODE j) d = code ∧
          rd (Reg.FLT_DCHK_UNIT j) d = unit ∧ rdb (Reg.FLT_DCHK_ESCALATED j) d = true ∧ rd (Reg.FLT_DCHK_T_RAISED j) d = tempoNow s.dev)) ∧
    (s.dev.flt.escalate.ok 16 = true → activationPaused s.dev = true ∨ tempoNow s.dev < due → Answers (.checkEscalate k) s fun d =>
      RegsKept [] s.dev d ∧ MemKept s.dev d ∧ d.scr = s.dev.scr) ∧
    (Answers (.checkEntryClear k false) s fun d => rdb (Reg.FLT_CHK_OPEN k) d = false ∧ MemKept s.dev d ∧ d.scr = s.dev.scr ∧
      (0 < rd Reg.FLT_STATUS_CHK_OPEN s.dev → rd Reg.FLT_STATUS_CHK_OPEN d = rd Reg.FLT_STATUS_CHK_OPEN s.dev - 1) ∧
      RegsKept [(Reg.FLT_CHK_OPEN k).off, Reg.FLT_STATUS_CHK_OPEN.off] s.dev d) ∧
    (Answers (.checkEntryClear k true) s fun d => rdb (Reg.FLT_CHK_OPEN k) d = true ∧
      rd (Reg.FLT_CHK_RECUR k) d = min 255 (rd (Reg.FLT_CHK_RECUR k) s.dev + 1) ∧ rd (Reg.FLT_CHK_T_RAISED k) d = rd (Reg.FLT_CHK_T_RAISED k) s.dev ∧
      MemKept s.dev d)) ∧
  (∀ (s : State) (k : Fin 64), s.ready → rdb (Reg.FLT_CHK_OPEN k) s.dev = false → s.dev.flt.escalate.ok 16 = true →
    ∀ c ∈ [Instr.checkEscalate k, .checkEntryClear k false, .checkEntryClear k true], Answers c s fun d =>
      RegsKept [] s.dev d ∧ MemKept s.dev d ∧ d.scr = s.dev.scr) ∧
  (∀ (s : State) (j : Fin 32), s.settled → s.dev.pwr.good = true → s.dev.pwr.adj3 = false →
    (Answers (.dcheckEntryClear j true) s fun d => rdb (Reg.FLT_DCHK_OPEN j) d = false ∧ d.engines = s.dev.engines ∧ d.accels = s.dev.accels ∧
      d.king = s.dev.king ∧ d.pwr = s.dev.pwr ∧ RegsKept [(Reg.FLT_DCHK_OPEN j).off, Reg.FLT_STATUS_DCHK_OPEN.off] s.dev d ∧ MemKept s.dev d ∧
      (rdb (Reg.FLT_DCHK_OPEN j) s.dev = true → 0 < rd Reg.FLT_STATUS_DCHK_OPEN s.dev →
        rd Reg.FLT_STATUS_DCHK_OPEN d = rd Reg.FLT_STATUS_DCHK_OPEN s.dev - 1) ∧ (rdb (Reg.FLT_DCHK_OPEN j) s.dev = false → RegsKept [] s.dev d)) ∧
    (Answers (.dcheckEntryClear j false) s fun d => RegsKept [] s.dev d ∧ MemKept s.dev d ∧ d.cas = s.dev.cas))

/-- The persistent ledger takes its queued records in slots; a freeze begins, ends and times out; the window shows one unit;
injections arm. For every settled state of a powered device outside ADJ3, Checkmate included: the record at the head of the
queue is programmed at PIDX, whose sector is erased first at its first slot, and PIDX advances; a failed erase or program sets
PFAIL, raises SCR_LEDGER_FAIL, leaves the record queued and goes on in the next sector; an empty queue changes nothing. For
every ready state: SCR_FREEZE sets FREEZE and FROZEN and notes when; writing 0, and the end of FREEZE_MAX times 1,000 tempi,
which also sets FROZE_OUT, empty the holding queue into the ring, one SEQ each; a freeze that stands, an end where none stands
and an early timeout change nothing; SCR_WIN_SEL and NEXT show the unit at CURSOR, modulo the source's size, and a reserved
SOURCE or a CURSOR beyond the source leaves its field; FLT_INJ.ARM notes the target, its index and the mask. Commands that it
shows to complete: ledgerRecordProgram, scrFreeze, scrUnfreeze, scrFreezeTimeout, scrWindowSelect, scrWindowNext, fltInjArm.
(spec/20_scoresheet_and_faults.md, The volatile ring and the persistent ledger; spec/20_scoresheet_and_faults.md, Freeze and the
holding queue; spec/20_scoresheet_and_faults.md, Reading; spec/20_scoresheet_and_faults.md, Fault injection; R586; R587; R589;
R590; R591) -/
def Obligations.RecorderFreezesAndPrograms : Prop :=
  (∀ (s : State) (r : ScoreRecord) (l : List ScoreRecord), s.settled → s.dev.pwr.good = true → s.dev.pwr.adj3 = false →
    s.dev.scr.pqueue = r :: l →
    let slot := rd Reg.SCR_PTR_PIDX s.dev
    (∀ e : Bool, (slot % 64 = 0 → e = true) → slot < 524288 → Answers (.ledgerRecordProgram e true) s fun d =>
      tget {} d.nv.scrLedger slot = r ∧ d.scr.pqueue = l ∧ rd Reg.SCR_PTR_PIDX d = (slot + 1) % 524288 ∧
      (∀ n, n ≠ slot → n / 64 ≠ slot / 64 ∨ slot % 64 ≠ 0 → tget {} d.nv.scrLedger n = tget {} s.dev.nv.scrLedger n) ∧
      (slot % 64 = 0 → ∀ n, n ≠ slot → n / 64 = slot / 64 → tget {} d.nv.scrLedger n = {}) ∧
      RegsKept [Reg.SCR_PTR_PIDX.off] s.dev d ∧ MemKept s.dev d) ∧
    (∀ e p : Bool, p = false ∨ (slot % 64 = 0 ∧ e = false) → slot < 524288 → Answers (.ledgerRecordProgram e p) s fun d =>
      rdb Reg.SCR_STATUS_PFAIL d = true ∧ rd Reg.SCR_PTR_PIDX d = (slot / 64 + 1) * 64 % 524288 ∧ (∃ l', d.scr.pqueue = r :: l ++ l') ∧
      (s.checkRoom → ∃ k < 64, rd (Reg.FLT_CHK_OPEN k) d = 1 ∧ rd (Reg.FLT_CHK_CODE k) d = Ev.SCR_LEDGER_FAIL) ∧ MemKept s.dev d)) ∧
  (∀ (s : State) (e p : Bool), s.settled → s.dev.scr.pqueue = [] → Answers (.ledgerRecordProgram e p) s fun d =>
    d.nv = s.dev.nv ∧ d.scr = s.dev.scr ∧ RegsKept [] s.dev d ∧ MemKept s.dev d) ∧
  (∀ s : State, s.ready →
    let ended (d : Dev) : Prop := rdb Reg.SCR_STATUS_FROZEN d = false ∧ rdb Reg.SCR_CTRL_FREEZE d = false ∧ rd Reg.SCR_STATUS_HOLD d = 0 ∧
      d.scr.holdq = [] ∧ rd Reg.SCR_SEQ_NEXT d = (rd Reg.SCR_SEQ_NEXT s.dev + s.dev.scr.holdq.length) % 2 ^ 64 ∧ MemKept s.dev d
    let quiet (d : Dev) : Prop := d.scr = s.dev.scr ∧ RegsKept [] s.dev d ∧ MemKept s.dev d
    (rdb Reg.SCR_STATUS_FROZEN s.dev = true → Answers .scrFreeze s quiet) ∧
    (rdb Reg.SCR_STATUS_FROZEN s.dev = false → Answers .scrUnfreeze s quiet ∧ Answers .scrFreezeTimeout s quiet ∧ Answers .scrFreeze s fun d => rdb Reg.SCR_STATUS_FROZEN d = true ∧
      rdb Reg.SCR_CTRL_FREEZE d = true ∧ d.scr = { s.dev.scr with frozeAt := tempoNow s.dev } ∧
      RegsKept [Reg.SCR_STATUS_FROZEN.off, Reg.SCR_CTRL_FREEZE.off] s.dev d ∧ MemKept s.dev d) ∧
    (rdb Reg.SCR_STATUS_FROZEN s.dev = true → Answers .scrUnfreeze s ended ∧
      (s.dev.scr.frozeAt + rd Reg.SCR_CTRL_FREEZE_MAX s.dev * 1000 ≤ tempoNow s.dev → Answers .scrFreezeTimeout s fun d =>
        ended d ∧ rdb Reg.SCR_STATUS_FROZE_OUT d = true) ∧
      (tempoNow s.dev < s.dev.scr.frozeAt + rd Reg.SCR_CTRL_FREEZE_MAX s.dev * 1000 → Answers .scrFreezeTimeout s quiet)) ∧
    (∀ (n : Fin 4) (c : BitVec 20),
      let src := if n.val < 3 then n.val else rd Reg.SCR_WIN_SEL_SOURCE s.dev
      let cur := if c.toNat < windowSize src then c.toNat else rd Reg.SCR_WIN_SEL_CURSOR s.dev
      Answers (.scrWindowSelect n c) s fun d =>
        rd Reg.SCR_WIN_SEL_SOURCE d = src ∧ rd Reg.SCR_WIN_SEL_CURSOR d = cur ∧ MemKept s.dev d ∧ d.scr = s.dev.scr ∧
        (∀ w < 8, rd (Reg.SCR_WIN_W_WORD w) d = leNat (((windowUnit src cur s.dev).drop (8 * w)).take 8)) ∧
        RegsKept (Reg.SCR_WIN_SEL_SOURCE.off :: (List.range 8).map fun w => (Reg.SCR_WIN_W_WORD w).off) s.dev d) ∧
    (Answers .scrWindowNext s fun d =>
      let src := rd Reg.SCR_WIN_SEL_SOURCE s.dev
      let c := (rd Reg.SCR_WIN_SEL_CURSOR s.dev + 1) % windowSize src
      rd Reg.SCR_WIN_SEL_SOURCE d = src ∧ rd Reg.SCR_WIN_SEL_CURSOR d = c ∧
      ∀ w < 8, rd (Reg.SCR_WIN_W_WORD w) d = leNat (((windowUnit src c s.dev).drop (8 * w)).take 8)) ∧
    (Answers .fltInjArm s fun d => rdb Reg.FLT_INJ_ARM d = true ∧
      d.flt.inj = some ⟨rd Reg.FLT_INJ_TARGET s.dev, rd Reg.FLT_INJ_INDEX s.dev, rd Reg.FLT_INJ_MASK s.dev⟩ ∧
      (rd Reg.FLT_INJ_TARGET s.dev = 2 → d.king.injUnit = some (rd Reg.FLT_INJ_INDEX s.dev % 2)) ∧
      RegsKept [Reg.FLT_INJ_ARM.off] s.dev d ∧ MemKept s.dev d))

/-- Level and Adjourned-state requests are staged, or refused in time trouble; ramps, entries and wakes end. For every ready state:
a level request of 0 to 5 outside time trouble is the region's one staged request, and a raise or wake of it that waited leaves
the grant rounds; a reserved level changes nothing. A request of PWR_ADJ for a region is staged likewise; in time trouble it is
refused with STATE, counted, and shows its kind and the device's state (for a code that is no region in a PWR_REFr that is left
open). ADJ3 is asked for outside time trouble and refused in it. A ramp that ends leaves the region at its new level. An entry
that ends puts the region in its state: ADJ2 loses a cluster's engines' state and its L2, or the accelerators' keys; work that
waits, or a wake asked for, wakes a region from ADJ1 at once, and one in ADJ2 waits for its grant. A region enters ADJ2 only
with full credits in its ledgers. A wake that ends leaves it active with its clamps released. A ramp, an entry or a wake that is
not in progress ends nothing. Commands that it shows to complete: levelRequest, levelRampDone, adjWakeRequest, adj1Request,
adj2Request, adj3Request, adjEntryDone, adjWakeDone. (spec/21_power_management.md, Regions and performance levels;
spec/21_power_management.md, Adjourned states; R595; R597; R598; R599; R600; R613; R650) -/
def Obligations.LevelsAndStatesRequested : Prop :=
  ∀ s : State, s.ready →
    let staged (r : Nat) (l q : Option Nat) (d : Dev) : Prop := (getRegion r d).reqLvl = l ∧ (getRegion r d).reqAdj = q ∧
      (getRegion r d).waiting = none ∧ d.pwr.waiting = s.dev.pwr.waiting.filter (fun x => x.who != .region r) ∧
      (∀ r', r' ≠ r → getRegion r' d = getRegion r' s.dev) ∧ MemKept s.dev d
    let refused (r kind : Nat) (d : Dev) : Prop := d.pwr = s.dev.pwr ∧ rd (Reg.PWR_REF_CAUSE r) d = 7 ∧ rd (Reg.PWR_REF_KIND r) d = kind ∧
      rd (Reg.PWR_REF_WHO r) d = glbState s.dev ∧ rdb Reg.PWR_STATUS_REFUSED d = true ∧ MemKept s.dev d ∧
      (rd (Reg.PWR_REF_COUNT r) s.dev + 1 < 2 ^ 16 → rd (Reg.PWR_REF_COUNT r) d = rd (Reg.PWR_REF_COUNT r) s.dev + 1)
    let refusedElsewhere (kind : Nat) (d : Dev) : Prop := d.pwr = s.dev.pwr ∧ rdb Reg.PWR_STATUS_REFUSED d = true ∧
      rdb Reg.PWR_ADJ_GO d = false ∧ MemKept s.dev d ∧
      ∃ r < 12, rd (Reg.PWR_REF_CAUSE r) d = 7 ∧ rd (Reg.PWR_REF_KIND r) d = kind ∧ rd (Reg.PWR_REF_WHO r) d = glbState s.dev
    let quiet (d : Dev) : Prop := d.pwr = s.dev.pwr ∧ RegsKept [] s.dev d ∧ MemKept s.dev d
    (∀ (r : Fin 12) (l : Fin 8),
      (l.val ≤ 5 → inTrouble s.dev = false → Answers (.levelRequest r l) s fun d => staged r (some l.val) none d ∧
        rd (Reg.PWR_LVL_REQ r) d = l.val ∧ RegsKept [(Reg.PWR_LVL_REQ r).off] s.dev d) ∧
      (l.val ≤ 5 → inTrouble s.dev = true → Answers (.levelRequest r l) s (refused r 1)) ∧
      (5 < l.val → Answers (.levelRequest r l) s quiet)) ∧
    (∀ r : Fin 16, ∀ x ∈ [(Instr.adjWakeRequest r, 0, 5), (.adj1Request r, 1, 2), (.adj2Request r, 2, 3)],
      (inTrouble s.dev = false → Answers x.1 s fun d => staged r none (some x.2.1) d ∧
        rdb Reg.PWR_ADJ_GO d = true ∧ RegsKept [Reg.PWR_ADJ_GO.off] s.dev d) ∧
      (r.val ≤ 11 → inTrouble s.dev = true → Answers x.1 s fun d => refused r x.2.2 d ∧ rdb Reg.PWR_ADJ_GO d = false) ∧
      (11 < r.val → inTrouble s.dev = true → Answers x.1 s (refusedElsewhere x.2.2))) ∧
    (inTrouble s.dev = true → Answers .adj3Request s (refusedElsewhere 4)) ∧
    (inTrouble s.dev = false → Answers .adj3Request s fun d => d.pwr = { s.dev.pwr with adj3Req := true } ∧ rdb Reg.PWR_ADJ_GO d = true ∧
      RegsKept [Reg.PWR_ADJ_GO.off] s.dev d ∧ MemKept s.dev d) ∧
    (∀ (r : Fin 12) (l : Nat), (getRegion r s.dev).ramp = some l → l ≤ 5 → Answers (.levelRampDone r) s fun d => levelOf r d = l ∧
      getRegion r d = { getRegion r s.dev with ramp := none, rampCharge := l } ∧ RegsKept [(Reg.PWR_LVL_LVL r).off] s.dev d ∧ MemKept s.dev d) ∧
    (∀ r : Fin 12, (getRegion r s.dev).ramp = none → Answers (.levelRampDone r) s quiet) ∧
    (∀ r : Fin 16, r.val < 15 → (astateOf r s.dev ≠ 4 ∨ ((getRegion r s.dev).entering = 2 ∧ ledgersFull r s.dev = false)) →
      Answers (.adjEntryDone r) s quiet) ∧
    (s.dev.pwr.adj3Entering = false → Answers (.adjEntryDone 15) s quiet) ∧
    (s.dev.pwr.adj3Entering = true → Answers (.adjEntryDone 15) s fun d => d.pwr.adj3 = true ∧ d.sxc.ram = vsbRam s.dev ∧
      d.pwr.adj3Sec = s.dev.tmp.sec ∧ d.pins.fatalN = true ∧ d.pins.pwrcycReqN = true ∧ d.pins.pwrgood = false ∧ d.nv = s.dev.nv ∧
      ∀ r < 11, rd (Reg.PWR_LVL_ASTATE r) d = 3) ∧
    (∀ r : Fin 12, astateOf r s.dev ≠ 5 → Answers (.adjWakeDone r) s quiet) ∧
    (∀ r : Fin 16, r.val < 12 → astateOf r s.dev = 4 →
      ((getRegion r s.dev).entering = 1 → (getRegion r s.dev).wakeAfter = false → workWaits r s.dev = false → Answers (.adjEntryDone r) s fun d =>
        astateOf r d = 1 ∧ RegsKept [(Reg.PWR_LVL_ASTATE r).off] s.dev d ∧ MemKept s.dev d ∧ d.engines = s.dev.engines ∧ d.l2s = s.dev.l2s) ∧
      ((getRegion r s.dev).entering = 1 → ((getRegion r s.dev).wakeAfter = true ∨ workWaits r s.dev = true) → Answers (.adjEntryDone r) s fun d =>
        astateOf r d = 5 ∧ (getRegion r d).wakingFrom = 1 ∧ RegsKept [(Reg.PWR_LVL_ASTATE r).off] s.dev d ∧ MemKept s.dev d) ∧
      ((getRegion r s.dev).entering = 2 → ledgersFull r s.dev = true → Answers (.adjEntryDone r) s fun d => astateOf r d = 2 ∧ MemKept s.dev d ∧
        (r.val < 8 → (∀ e, e / 8 = r.val → getEngine e d = { quar := (getEngine e s.dev).quar }) ∧ (tget {} d.l2s r.val).lines = []) ∧
        (r.val = 9 → d.keys.digest = [] ∧ ∀ n < 256, (tget {} d.keys.slots n).key = []) ∧
        ((getRegion r s.dev).wakeAfter = true → (getRegion r d).waiting = some (getRegion r s.dev).lvlAtEntry))) ∧
    (∀ r : Fin 12, astateOf r s.dev = 5 → Answers (.adjWakeDone r) s fun d => astateOf r d = 0 ∧ (getRegion r d).clamped = false ∧ MemKept s.dev d ∧
      ((getRegion r s.dev).wakingFrom = 2 → ∀ l ∈ d.fab.ledgers, portRegion (l.1 / 4) ≠ some r.val))

/-- An envelope is staged, throttling steps the effective envelope within its bounds, and WAKE_N or the timer wakes the device from
ADJ3. For every ready state: a write of 100 to 260 W to PWR_CTRL.ENVELOPE is staged in tokens, 20 a watt, and any other value
changes nothing; at a tempo number divisible by 1,000, with THROTTLE_EN and a sensor above THROTTLE, EFF_ENV falls by one token
a watt of ENVELOPE, never below the least base charge, and with every sensor below THROTTLE less 5 °C it rises by as much, never
above the envelope in force; at other edges nothing changes. For every settled state in ADJ3: WAKE_N low for 10 µs, or WAKE_S
seconds after entry when it is not 0, brings the device to START-UP with boot cause 6, DRAM empty and fuses and flashes as they
were; a shorter low, an earlier time, and both outside ADJ3, change nothing. Commands that it shows to complete: wakeNAssert,
adj3WakeTimer, envelopeWrite, throttleStep. (spec/21_power_management.md, Power tokens; spec/21_power_management.md, Thermal
throttling; R597; R601; R607; R608; R609) -/
def Obligations.EnvelopeThrottlesAndWakes : Prop :=
  (∀ s : State, s.ready →
    (∀ w : BitVec 16,
      (100 ≤ w.toNat → w.toNat ≤ 260 → Answers (.envelopeWrite w) s fun d => rd Reg.PWR_CTRL_ENVELOPE d = w.toNat ∧
        d.pwr = { s.dev.pwr with envStaged := some (20 * w.toNat) } ∧ RegsKept [Reg.PWR_CTRL_ENVELOPE.off] s.dev d ∧ MemKept s.dev d) ∧
      (w.toNat < 100 ∨ 260 < w.toNat → Answers (.envelopeWrite w) s fun d => d.pwr = s.dev.pwr ∧ RegsKept [] s.dev d ∧ MemKept s.dev d)) ∧
    (tempoNow s.dev % 1000 = 0 →
      let eff := rd Reg.PWR_STATUS_EFF_ENV s.dev
      let watts := rd Reg.PWR_CTRL_ENVELOPE s.dev
      let thr : Int := rd Reg.PWR_THERM_THROTTLE s.dev
      let hot := rdb Reg.PWR_CTRL_THROTTLE_EN s.dev = true ∧ sensorAbove thr s.dev = true
      (hot → Answers .throttleStep s fun d => MemKept s.dev d ∧ d.pwr = s.dev.pwr ∧
        (leastBase s.dev ≤ eff → rd Reg.PWR_STATUS_EFF_ENV d = max (eff - watts) (leastBase s.dev) ∧
          (rdb Reg.PWR_STATUS_THROTTLE d = true ↔ max (eff - watts) (leastBase s.dev) < s.dev.pwr.envelope))) ∧
      (¬ hot → sensorsBelow (thr - 5) s.dev = true → eff < s.dev.pwr.envelope → Answers .throttleStep s fun d => d.pwr = s.dev.pwr ∧
        (s.dev.pwr.envelope ≤ 5200 → rd Reg.PWR_STATUS_EFF_ENV d = min (eff + watts) s.dev.pwr.envelope) ∧
        RegsKept [Reg.PWR_STATUS_EFF_ENV.off] s.dev d ∧ MemKept s.dev d) ∧
      (¬ hot → ¬ (sensorsBelow (thr - 5) s.dev = true ∧ eff < s.dev.pwr.envelope) → Answers .throttleStep s fun d =>
        d.pwr = s.dev.pwr ∧ RegsKept [] s.dev d ∧ MemKept s.dev d)) ∧
    (tempoNow s.dev % 1000 ≠ 0 → Answers .throttleStep s fun d => d.pwr = s.dev.pwr ∧ RegsKept [] s.dev d ∧ MemKept s.dev d)) ∧
  (∀ s : State, s.settled →
    let woken (d : Dev) : Prop := d.pwr.adj3 = false ∧ glbState d = 0 ∧ d.sxc.cause = 6 ∧ d.mem = [] ∧ d.nv = s.dev.nv ∧ d.outside = s.dev.outside
    let same (d : Dev) : Prop := d.pwr = s.dev.pwr ∧ RegsKept [] s.dev d ∧ MemKept s.dev d
    (s.dev.pwr.adj3 = true → (∀ us, 10 ≤ us → Answers (.wakeNAssert us) s woken) ∧ (∀ us, us < 10 → Answers (.wakeNAssert us) s same) ∧
      (∀ sec, s.dev.pwr.adj3WakeS ≠ 0 → s.dev.pwr.adj3Sec + s.dev.pwr.adj3WakeS ≤ sec → Answers (.adj3WakeTimer sec) s woken) ∧
      (∀ sec, s.dev.pwr.adj3WakeS = 0 ∨ sec < s.dev.pwr.adj3Sec + s.dev.pwr.adj3WakeS → Answers (.adj3WakeTimer sec) s same)) ∧
    (s.dev.pwr.adj3 = false → ∀ n, Answers (.wakeNAssert n) s same ∧ Answers (.adj3WakeTimer n) s same))

/-- A register write takes each field by its access code, a read clears exactly the RC fields it returns whole, errors are counted.
For every settled state with a requester that is served: an access that is not 4 or 8 bytes aligned, a write that is not 8 bytes
aligned, an undefined offset, and in TEST and RECOVERY a management access to a block that R537 does not list, read 0 or write
nothing, and are counted with their offset. A write of a register, but for the five that show another store and those that
settle at the end of a command, gives each RW field without a row of its own the value written when its table lists it and keeps
it otherwise, leaves in each W1C field the old bits that were not cleared and those that hardware sets in the same cycle, and
keeps every RO and RC field; no other register and no memory changes. A read of a register returns its bytes, with WO and
reserved bits 0; an RC field read whole holds the increments of that cycle, and every other field keeps its value. In Checkmate
the management endpoint writes nothing and reads all-ones outside GLB, FLT and SCR; without power nothing happens. Bit 4 of
GLB_INTR_HOST shows in FLT_CTRL.HOST_INTR. Commands that it shows to complete: registerWrite, registerReadClear.
(spec/22_register_index.md, Rules of access; spec/00_scope.md, Notation; R8; R10; R577; R616; R617; R618; R648) -/
def Obligations.RegistersFollowAccessCodes : Prop :=
  ∀ (s : State) (mgmt : Bool) (off : Nat) (w hw : BitVec 64), s.settled →
    let served := (if mgmt then endpointUp s.dev = true ∧ s.dev.flt.checkmateIn = none else s.dev.live = true)
    let hidden := mapped (off / 8 * 8) = false ∨ (mgmt = true ∧ (glbState s.dev = 2 ∨ glbState s.dev = 3) ∧ servedInRecovery (off / 8 * 8) = false)
    let quiet (d : Dev) : Prop := RegsKept [] s.dev d ∧ MemKept s.dev d
    let counted (f : Field) (d : Dev) : Prop := rd Reg.GLB_ACCERR_LAST_OFF d = off % 2 ^ 26 ∧ rdb Reg.GLB_STATUS_ACCERR d = true ∧
      (rd f s.dev + 1 < 2 ^ 16 → rd f d = rd f s.dev + 1) ∧ RegsKept [Reg.GLB_ACCERR_LAST_OFF.off, Reg.GLB_STATUS_ACCERR.off] s.dev d ∧ MemKept s.dev d
    let plain := mapped off = true ∧ ¬ hidden ∧ asleep off s.dev = false ∧ noPort off s.dev = false ∧ inMsix off = false ∧ off ∉ ambientRegs
    let field (f : FieldSpec) : Field := ⟨off, f.msb, f.lsb⟩
    (served →
      (∀ size, ¬ (size = 8 ∧ off % 8 = 0) → Answers (.registerWrite mgmt off size w hw) s (counted Reg.GLB_ACCERR_WIDTH)) ∧
      (∀ size, ¬ ((size = 4 ∨ size = 8) ∧ off % size = 0) → Answers (.registerReadClear mgmt off size hw) s fun d =>
        counted Reg.GLB_ACCERR_WIDTH d ∧ Out.value 0 ∈ d.out) ∧
      (off % 8 = 0 → hidden → Answers (.registerWrite mgmt off 8 w hw) s (counted Reg.GLB_ACCERR_UNMAPPED) ∧
        Answers (.registerReadClear mgmt off 8 hw) s fun d => counted Reg.GLB_ACCERR_UNMAPPED d ∧ Out.value 0 ∈ d.out) ∧
      (off % 8 = 0 → plain → off ∉ [0x48, 0x400000, 0x100000, 0x3004100, 0x3004108] → Answers (.registerWrite mgmt off 8 w hw) s fun d =>
        RegsKept [off] s.dev d ∧ MemKept s.dev d ∧ ∀ f ∈ fieldsAt off,
          let old := rd (field f) s.dev
          let v := wordFld (field f) w
          (f.acc = .rw → field f ∉ ownRow → legalTogether (field f) v w s.dev = true → rd (field f) d = if legalValue f v = true then v else old) ∧
          (f.acc = .w1c → field f ∉ ownRow → rd (field f) d = (old &&& (2 ^ (field f).width - 1 - v)) ||| wordFld (field f) hw) ∧
          (f.acc = .ro ∨ f.acc = .rc → rd (field f) d = old)) ∧
      (∀ size, size = 4 ∨ size = 8 → off % size = 0 → (mapped (off / 8 * 8) = true ∧ ¬ hidden ∧ asleep (off / 8 * 8) s.dev = false ∧
          noPort (off / 8 * 8) s.dev = false ∧ inMsix (off / 8 * 8) = false ∧ off / 8 * 8 ∉ ambientRegs) →
        Answers (.registerReadClear mgmt off size hw) s fun d =>
          Out.value (readWord (off / 8 * 8) s.dev / 2 ^ (8 * (off % 8)) % 2 ^ (8 * size)) ∈ d.out ∧ RegsKept [off / 8 * 8] s.dev d ∧ MemKept s.dev d ∧
          ∀ f ∈ fieldsAt (off / 8 * 8),
            let fl : Field := ⟨off / 8 * 8, f.msb, f.lsb⟩
            let whole := 8 * (off % 8) ≤ f.lsb ∧ f.msb < 8 * (off % 8) + 8 * size
            (f.acc = .rc → whole → rd fl d = wordFld fl hw) ∧ (¬ (f.acc = .rc ∧ whole) → rd fl d = rd fl s.dev)) ∧
      (Answers (.registerWrite mgmt 0x48 8 w hw) s fun d =>
        rd Reg.GLB_INTR_HOST_EN d = w.toNat ∧ rdb Reg.FLT_CTRL_HOST_INTR d = bitOf w.toNat 4)) ∧
    (mgmt = true → endpointUp s.dev = true → s.dev.flt.checkmateIn ≠ none →
      (∀ size, Answers (.registerWrite mgmt off size w hw) s quiet) ∧
      (off / 0x100000 ∉ [0, 4, 5] → ∀ size, Answers (.registerReadClear mgmt off size hw) s fun d => quiet d ∧ Out.value (2 ^ (8 * size) - 1) ∈ d.out)) ∧
    (mgmt = true → endpointUp s.dev = false → ∀ size, Answers (.registerWrite mgmt off size w hw) s quiet ∧ Answers (.registerReadClear mgmt off size hw) s quiet)

/-- GLB_CMD stages a reset or TEST; DDR5 channels are polled, patrolled and refreshed under grants; NVMe-MI requests are answered.
For every settled state: GLB_CMD.RESET from the management endpoint with KEY 0x5E7A, outside time trouble and outside a
Checkmate raised in SERVICE, is staged for the next edge; with another KEY or from the fabric nothing changes. For every ready
state: GLB_CMD.TEST is staged; an NVMe-MI request is answered. At tempo numbers divisible by 1,000 each populated channel shows
its hottest DIMM sensor, and those above 85 °C refresh at twice the rate. A patrol read of a trained channel without an armed
injection raises nothing for a clean line, counts and records one bad symbol as corrected, and counts two bad symbols as
uncorrectable, marks the line poisoned and raises DDR_UE. A refresh-all starts under its grant, which it spends, and otherwise
asks once for 60 tokens in class REFRESH. At other edges, for a channel that is not trained, and without PATROL_EN nothing
changes. How an uncorrectable line's error is given, and the interleaving, are the model's (assumption log). Commands that it
shows to complete: glbReset, glbTest, ddrThermalPoll, ddrPatrolLine, ddrRefreshAll, nvmeMiRequest. (spec/22_register_index.md,
Global and identity registers; spec/23_electrical_and_package.md, DDR5; R537; R604; R623; R624; R643; R645) -/
def Obligations.ResetsAndMemoryCare : Prop :=
  (∀ (s : State) (k : BitVec 16) (m : Bool), s.settled →
    let fit := m = true ∧ k = 0x5E7A ∧ endpointUp s.dev = true ∧ inTrouble s.dev = false ∧ serviceCheckmate s.dev = false
    Answers (.glbReset k m) s fun d => RegsKept [] s.dev d ∧ MemKept s.dev d ∧
      (fit → d.pwr = { s.dev.pwr with resetStaged := true }) ∧ (¬ fit → d.pwr = s.dev.pwr)) ∧
  (∀ s : State, s.ready →
    let quiet (d : Dev) : Prop := d.pwr = s.dev.pwr ∧ d.fab = s.dev.fab ∧ RegsKept [] s.dev d ∧ MemKept s.dev d
    (∀ m, Answers (.glbTest m) s fun d => d.pwr = { s.dev.pwr with testStaged := true } ∧ RegsKept [] s.dev d ∧ MemKept s.dev d) ∧
    (∀ q, Answers (.nvmeMiRequest q) s fun d => (∃ b, Out.miResponse b ∈ d.out) ∧ d.pwr = s.dev.pwr ∧ RegsKept [] s.dev d ∧ MemKept s.dev d) ∧
    (∀ temps : List Int, tempoNow s.dev % 1000 = 0 → Answers (.ddrThermalPoll temps) s fun d => MemKept s.dev d ∧
      RegsKept ((List.range 8).map fun c => (Reg.DDR_CH_TEMP c).off) s.dev d ∧ ∀ c < 8,
        (rd (Reg.DDR_CH_DIMMS c) s.dev ≠ 0 → rd (Reg.DDR_CH_TEMP c) d = twosOf 8 ((temps[c]?).getD 0) % 256 ∧
          (c ∈ d.pwr.ddrHot ↔ 85 < (temps[c]?).getD 0)) ∧
        (rd (Reg.DDR_CH_DIMMS c) s.dev = 0 → c ∉ d.pwr.ddrHot ∧ rd (Reg.DDR_CH_TEMP c) d = rd (Reg.DDR_CH_TEMP c) s.dev)) ∧
    (∀ temps : List Int, tempoNow s.dev % 1000 ≠ 0 → Answers (.ddrThermalPoll temps) s quiet) ∧
    (∀ (c : Fin 8) (line : Nat) (err : BitVec 80) (sub : Bool), ¬ (rdb Reg.DDR_CTRL_PATROL_EN s.dev = true ∧ rd (Reg.DDR_CH_STATE c) s.dev = 2) →
      Answers (.ddrPatrolLine c line err sub) s quiet) ∧
    (∀ c : Fin 8, rd (Reg.DDR_CH_STATE c) s.dev ≠ 2 → Answers (.ddrRefreshAll c) s quiet) ∧
    (∀ (c : Fin 8) (line : Nat) (err : BitVec 80) (sub : Bool), rdb Reg.DDR_CTRL_PATROL_EN s.dev = true → rd (Reg.DDR_CH_STATE c) s.dev = 2 →
      s.dev.flt.inj = none →
      (ddrSymbols err.toNat = [] → Answers (.ddrPatrolLine c line err sub) s fun d => RegsKept [] s.dev d ∧ MemKept s.dev d ∧ d.fab = s.dev.fab) ∧
      (∀ k, ddrSymbols err.toNat = [k] → Answers (.ddrPatrolLine c line err sub) s fun d =>
        (rd (Reg.DDR_ECC_CE c) s.dev + 1 < 2 ^ 32 → rd (Reg.DDR_ECC_CE c) d = rd (Reg.DDR_ECC_CE c) s.dev + 1) ∧ rd (Reg.DDR_ECC_LAST_SYM c) d = k % 256 ∧
        rd (Reg.DDR_ECC_LAST_SUB c) d = b2n sub ∧ rdb Reg.DDR_STATUS_CE_N d = true ∧ MemKept s.dev d ∧ d.fab = s.dev.fab) ∧
      (∀ k l m, ddrSymbols err.toNat = k :: l :: m →
        Answers (.ddrPatrolLine c line err sub) s fun d =>
          (rd (Reg.DDR_ECC_UE c) s.dev + 1 < 2 ^ 16 → rd (Reg.DDR_ECC_UE c) d = rd (Reg.DDR_ECC_UE c) s.dev + 1) ∧
          rdb Reg.DDR_STATUS_UE_CHK d = true ∧ MemKept s.dev d ∧
          (s.checkRoom → ∃ n < 64, rd (Reg.FLT_CHK_OPEN n) d = 1 ∧ rd (Reg.FLT_CHK_CODE n) d = Ev.DDR_UE ∧ rd (Reg.FLT_CHK_UNIT n) d = unitOf 0xB c) ∧
          ∀ i < 8, poisoned (dramBase + line % 2 ^ 36 * 64 + 8 * i) d = true)) ∧
    (∀ c : Fin 8, rd (Reg.DDR_CH_STATE c) s.dev = 2 →
      (hasGrant (.ddr c) 6 s.dev = true → Answers (.ddrRefreshAll c) s fun d => Out.refreshAll c.val ∈ d.out ∧ hasGrant (.ddr c) 6 d = false ∧
        RegsKept [] s.dev d ∧ MemKept s.dev d) ∧
      (hasGrant (.ddr c) 6 s.dev = false → (∃ q ∈ s.dev.pwr.waiting, q.who = .ddr c ∧ q.cls = 6) → Answers (.ddrRefreshAll c) s quiet) ∧
      (hasGrant (.ddr c) 6 s.dev = false → (∀ q ∈ s.dev.pwr.waiting, q.who = .ddr c → q.cls ≠ 6) → Answers (.ddrRefreshAll c) s fun d =>
        d.pwr = { s.dev.pwr with waiting := s.dev.pwr.waiting ++ [{ who := .ddr c, cls := 6, cost := 60 }] } ∧ RegsKept [] s.dev d ∧
        MemKept s.dev d)))

/-- PWRGOOD, RESET_N, PERST_N, VIN and VSB: what starts the device again, what stops it, and what VSB keeps. For every settled
state: PWRGOOD, without a Checkmate in force, starts the device in START-UP with boot cause 2 when VSB kept a Checkmate flag and
1 otherwise, DRAM empty, fuses, flashes and modules as they were; with one in force the Checkmate stands. PWRGOOD lost stops the
device; VSB keeps the timebase, the table's version and the Checkmate flag, and without VSB nothing is kept. VIN removed clears
a Checkmate and stops the device; without VSB the standby domain loses what it held and FATAL_N and PWRCYC_REQ_N float high.
VSB's presence shows in PWR_STATUS. RESET_N low for 1 µs, outside a Checkmate raised in SERVICE and time trouble, starts the
device again with cause 3, or 7 when it clears a Checkmate, memory as it was but for the ends of the jobs in progress,
ABORTED_RESET; a shorter low and the two exceptions change nothing. PWRGOOD where it stands, and its loss where it does not,
change nothing. PERST_N resets the management link and nothing else. Commands that it shows to complete: powerGood,
powerGoodLost, resetNAssert, perstNAssert, vinRemoved, vsbPresenceChange. (spec/23_electrical_and_package.md, Power-up, reset
and power cycle; spec/20_scoresheet_and_faults.md, Checkmate; spec/18_boot_and_attestation.md, Power-up and boot sequence; R581;
R582; R633; R635; R637; R640) -/
def Obligations.SuppliesAndResetsTakeEffect : Prop :=
  ∀ s : State, s.settled →
    let same (d : Dev) : Prop := d.pwr = s.dev.pwr ∧ d.flt = s.dev.flt ∧ d.nv = s.dev.nv ∧ RegsKept [] s.dev d ∧ MemKept s.dev d
    let started (cause : Nat) (m : List Host.Cell) (d : Dev) : Prop := d.live = true ∧ glbState d = 0 ∧ d.sxc.cause = cause ∧ d.mem = m ∧ d.nv = s.dev.nv ∧
      d.outside = s.dev.outside ∧ d.pwr.vsb = s.dev.pwr.vsb ∧ d.pins.fatalN = true ∧ d.pins.pwrcycReqN = true
    let kept (d : Dev) : Prop := d.sxc.ram = vsbRam s.dev ∧ d.pwr.good = false ∧ d.pins.pwrgood = false ∧ d.nv = s.dev.nv ∧ MemKept s.dev d
    (s.dev.pwr.good = false →
      (s.dev.flt.checkmateIn = none → Answers .powerGood s (started (if s.dev.sxc.ram.checkmate then 2 else 1) [])) ∧
      (s.dev.flt.checkmateIn ≠ none → Answers .powerGood s fun d => d.pwr = { s.dev.pwr with good := true } ∧ d.flt = s.dev.flt ∧
        d.pins.fatalN = s.dev.pins.fatalN ∧ RegsKept [] s.dev d ∧ MemKept s.dev d)) ∧
    (s.dev.pwr.good = true → Answers .powerGood s same) ∧ (s.dev.pwr.good = false ∨ s.dev.pwr.adj3 = true → Answers .powerGoodLost s same) ∧
    (s.dev.pwr.good = true → s.dev.pwr.adj3 = false → Answers .powerGoodLost s fun d => kept d ∧ d.flt = s.dev.flt ∧ Out.pin .pwrgood false ∈ d.out ∧
      RegsKept [] s.dev d) ∧
    (Answers .vinRemoved s fun d => d.flt.checkmateIn = none ∧ d.pwr.vin = false ∧ d.pwr.good = false ∧ d.live = false ∧
      d.nv = s.dev.nv ∧ (s.dev.pwr.vsb = true → d.sxc.ram = (if s.dev.pwr.good then vsbRam s.dev else s.dev.sxc.ram) ∧ d.pins.fatalN = s.dev.pins.fatalN) ∧
      (s.dev.pwr.vsb = false → d.sxc.ram = {} ∧ d.pins.fatalN = true ∧ d.pins.pwrcycReqN = true)) ∧
    (∀ p : Bool, Answers (.vsbPresenceChange p) s fun d => d.pwr = { s.dev.pwr with vsb := p } ∧ rdb Reg.PWR_STATUS_VSB d = p ∧
      RegsKept [Reg.PWR_STATUS_VSB.off] s.dev d ∧ MemKept s.dev d ∧
      (p = true ∨ s.dev.pwr.vin = true → d.sxc = s.dev.sxc ∧ d.pins = s.dev.pins) ∧ (p = false → s.dev.pwr.vin = false → d.sxc.ram = {})) ∧
    (∀ ns : Nat,
      (1000 ≤ ns → s.dev.pwr.good = true → serviceCheckmate s.dev = false → inTrouble s.dev = false →
        Answers (.resetNAssert ns) s (started (if s.dev.flt.checkmateIn.isSome then 7 else 3) (abortJobs s.dev).mem)) ∧
      (ns < 1000 ∨ s.dev.pwr.good = false ∨ serviceCheckmate s.dev = true ∨ inTrouble s.dev = true → Answers (.resetNAssert ns) s same)) ∧
    (endpointUp s.dev = false → Answers .perstNAssert s same) ∧ (endpointUp s.dev = true → Answers .perstNAssert s fun d => same d ∧ Out.linkReset ∈ d.out)
end

