-- ==== Sys2Proof/Laws/Bytes.lean ====
section
/-!
SUPPORT. The lengths of what the published algorithms give, and bytes of numbers: what holds of them whatever the free values are.
-/

namespace Sys2Proof.Laws

open Sys2Proof Sys2Proof.Machine

@[simp] theorem padTo_length (n : Nat) (b : Bytes) : (padTo n b).length = n := by
  rw [padTo, List.length_take, List.length_append, List.length_replicate]; omega
@[simp] theorem aesBlock_length (e : Bool) (k b : Bytes) : (aesBlock e k b).length = 16 := padTo_length _ _
@[simp] theorem kdf_length (k c : Bytes) (n : Nat) : (kdf k c n).length = n := padTo_length _ _
@[simp] theorem ecdsaSign_length (k h : Bytes) (n : Nat) : (ecdsaSign k h n).length = 96 := padTo_length _ _
@[simp] theorem finish_length (f : Nat) (x : Digest) : (x.finish f).length = hashLen f := padTo_length _ _
@[simp] theorem drawBytes_length (n : Nat) (d : Dev) : (drawBytes n d).1.length = n := padTo_length _ _

@[simp] theorem leBytes_length (n v : Nat) : (leBytes n v).length = n := by
  induction n generalizing v with
  | zero => rfl
  | succ n ih => simp [leBytes, ih]
@[simp] theorem beBytes_length (n v : Nat) : (beBytes n v).length = n := by simp [beBytes]

/-- A number that fits comes back from its bytes (R7). -/
theorem leNat_leBytes (n v : Nat) (h : v < 256 ^ n) : leNat (leBytes n v) = v := by
  induction n generalizing v with
  | zero => simp at h; simp [leBytes, leNat, h]
  | succ n ih => rw [leBytes, leNat, ih _ (by rw [Nat.pow_succ] at h; omega)]; simp; omega

@[simp] theorem xorBytes_length (a b : Bytes) : (xorBytes a b).length = max a.length b.length := by
  induction a, b using xorBytes.induct with
  | case1 b => simp [xorBytes]
  | case2 a h => cases a <;> simp_all [xorBytes]
  | case3 x a y b ih => simp [xorBytes, ih]

@[simp] theorem gcmTag_length (k iv a c : Bytes) : (gcmTag k iv a c).length = 16 := by simp [gcmTag]

theorem crc64_lt (b : Bytes) : crc64 b < 256 ^ 8 := by unfold crc64; omega

end Sys2Proof.Laws
end

