-- ==== Sys2Proof/Laws/Tab.lean ====
section
/-!
SUPPORT. Sparse tables: reading back what was written, other keys untouched, and the canonical form kept.
-/

namespace Sys2Proof.Machine

variable {α : Type} {d v : α} {t : Tab α} {k j : Nat}

@[simp] theorem tget_nil : tget d [] k = d := rfl

theorem tget_cons (p : Nat × α) : tget d (p :: t) k = if p.1 = k then p.2 else tget d t k := rfl

/-- Deleting a key leaves every other key as it was, and that key at the default. -/
theorem tget_tdel : tget d (tdel k t) j = if j = k then d else tget d t j := by
  induction t with
  | nil => simp [tdel]
  | cons p r ih =>
    have hd : tdel k (p :: r) = if p.1 = k then tdel k r else p :: tdel k r := by
      by_cases h : p.1 = k <;> simp [tdel, h]
    rw [hd]
    by_cases h : p.1 = k
    · simp only [h, if_true, ih, tget_cons]
      by_cases hj : j = k
      · simp [hj]
      · simp [hj, Ne.symm hj]
    · simp only [h, if_false, tget_cons, ih]
      by_cases hj : j = k
      · subst hj; simp [h]
      · simp [hj]

/-- Inserting a key that the table does not list. -/
theorem tget_tins (hk : ∀ p ∈ t, p.1 ≠ k) :
    tget d (tins k v t) j = if j = k then v else tget d t j := by
  induction t with
  | nil =>
    simp only [tins, tget_cons, tget_nil]
    by_cases hj : j = k
    · simp [hj]
    · simp [hj, Ne.symm hj]
  | cons p r ih =>
    have hp : p.1 ≠ k := hk p (by simp)
    have hr : ∀ q ∈ r, q.1 ≠ k := fun q hq => hk q (by simp [hq])
    by_cases hlt : k < p.1
    · simp only [tins, hlt, if_true, tget_cons]
      by_cases hj : j = k
      · simp [hj]
      · simp [hj, Ne.symm hj]
    · simp only [tins, hlt, if_false, tget_cons, ih hr]
      by_cases hj : j = k
      · subst hj; simp [hp]
      · simp [hj]

theorem tdel_not_mem : ∀ p ∈ tdel k t, p.1 ≠ k := by
  intro p hp; simp [tdel] at hp; exact hp.2

/-- A read after a write: the value at the key written, what stood before at every other key. -/
theorem tget_tset [DecidableEq α] : tget d (tset d t k v) j = if j = k then v else tget d t j := by
  unfold tset
  by_cases hv : v = d
  · simp [hv, tget_tdel]
  · rw [if_neg hv, tget_tins tdel_not_mem, tget_tdel]
    by_cases hj : j = k <;> simp [hj]

@[simp] theorem tget_tset_same [DecidableEq α] : tget d (tset d t k v) k = v := by simp [tget_tset]

theorem tget_tset_ne [DecidableEq α] (h : j ≠ k) : tget d (tset d t k v) j = tget d t j := by simp [tget_tset, h]

theorem tget_tmod [DecidableEq α] {f : α → α} :
    tget d (tmod d t k f) j = if j = k then f (tget d t k) else tget d t j := by simp [tmod, tget_tset]

/-! ### The canonical form -/

theorem twf_cons [DecidableEq α] (p : Nat × α) :
    twf d (p :: t) = true ↔ p.2 ≠ d ∧ (∀ q ∈ t, p.1 < q.1) ∧ twf d t = true := by
  simp [twf, and_assoc]

theorem twf_tdel [DecidableEq α] (h : twf d t = true) : twf d (tdel k t) = true := by
  induction t with
  | nil => simp [tdel, twf]
  | cons p r ih =>
    obtain ⟨h1, h2, h3⟩ := (twf_cons p).1 h
    have hd : tdel k (p :: r) = if p.1 = k then tdel k r else p :: tdel k r := by
      by_cases h : p.1 = k <;> simp [tdel, h]
    rw [hd]
    by_cases hp : p.1 = k
    · simpa [hp] using ih h3
    · simp only [hp, if_false]
      exact (twf_cons p).2 ⟨h1, fun q hq => h2 q (List.mem_filter.1 hq).1, ih h3⟩

theorem mem_tins {p : Nat × α} : p ∈ tins k v t → p = (k, v) ∨ p ∈ t := by
  induction t with
  | nil => simp [tins]
  | cons q r ih =>
    by_cases hlt : k < q.1
    · simp [tins, hlt]
    · simp only [tins, hlt, if_false, List.mem_cons]
      rintro (h | h)
      · exact .inr (.inl h)
      · rcases ih h with h | h
        · exact .inl h
        · exact .inr (.inr h)

theorem twf_tins [DecidableEq α] (h : twf d t = true) (hv : v ≠ d) (hk : ∀ p ∈ t, p.1 ≠ k) :
    twf d (tins k v t) = true := by
  induction t with
  | nil => simp [tins, twf, hv]
  | cons p r ih =>
    obtain ⟨h1, h2, h3⟩ := (twf_cons p).1 h
    by_cases hlt : k < p.1
    · simp only [tins, hlt, if_true]
      refine (twf_cons _).2 ⟨hv, ?_, h⟩
      intro q hq
      rcases List.mem_cons.1 hq with rfl | hq
      · exact hlt
      · exact Nat.lt_trans hlt (h2 q hq)
    · simp only [tins, hlt, if_false]
      refine (twf_cons _).2 ⟨h1, ?_, ih h3 fun q hq => hk q (by simp [hq])⟩
      intro q hq
      rcases mem_tins hq with rfl | hq
      · have := hk p (by simp); show p.1 < k; omega
      · exact h2 q hq

/-- A write keeps the canonical form. -/
theorem twf_tset [DecidableEq α] (h : twf d t = true) : twf d (tset d t k v) = true := by
  unfold tset
  by_cases hv : v = d
  · simpa [hv] using twf_tdel h
  · rw [if_neg hv]; exact twf_tins (twf_tdel h) hv tdel_not_mem

theorem twf_tmod [DecidableEq α] {f : α → α} (h : twf d t = true) : twf d (tmod d t k f) = true := twf_tset h

end Sys2Proof.Machine
end

