-- ==== Sys2Proof/Laws/Field.lean ====
section
/-!
SUPPORT. Register fields: what a field reads as after it, or another field, has been written.
-/

namespace Sys2Proof.Machine

/-- A field lies inside a 64-bit register. -/
def Field.fits (f : Field) : Bool := f.lsb ≤ f.msb && f.msb < 64

/-- Two fields share no bit. -/
def Field.apart (f g : Field) : Bool := f.off ≠ g.off || f.msb < g.lsb || g.msb < f.lsb

theorem Field.size_mul {f : Field} (h : f.fits) : 2 ^ f.lsb * 2 ^ f.width * 2 ^ (63 - f.msb) = 2 ^ 64 := by
  simp [Field.fits] at h
  rw [← pow_add, ← pow_add]; congr 1; simp [Field.width]; omega

/-- A number as what lies above a field, the field, and what lies below. -/
theorem split_at (w L W : Nat) : w = w / (L * W) * (L * W) + w / L % W * L + w % L := by
  have h1 := Nat.div_add_mod w L
  have h2 := Nat.div_add_mod (w / L) W
  rw [Nat.div_div_eq_div_mul] at h2
  have h3 : w / L * L = (W * (w / (L * W)) + w / L % W) * L := by rw [h2]
  rw [Nat.add_mul] at h3
  have h4 : W * (w / (L * W)) * L = w / (L * W) * (L * W) := by ring
  have h5 : L * (w / L) = w / L * L := by ring
  omega

/-- The word that `wordSet` makes, as a number. -/
theorem wordSet_toNat {f : Field} (h : f.fits) (v : Nat) (w : Word) :
    (wordSet f v w).toNat
      = w.toNat / (2 ^ f.lsb * 2 ^ f.width) * (2 ^ f.lsb * 2 ^ f.width) + v % 2 ^ f.width * 2 ^ f.lsb
        + w.toNat % 2 ^ f.lsb := by
  have hs := split_at w.toNat (2 ^ f.lsb) (2 ^ f.width)
  have hsz := Field.size_mul h
  have hL : 0 < 2 ^ f.lsb := by positivity
  have hW : 0 < 2 ^ f.width := by positivity
  have hw : w.toNat < 2 ^ 64 := w.isLt
  have he : w.toNat - wordFld f w * 2 ^ f.lsb
      = w.toNat / (2 ^ f.lsb * 2 ^ f.width) * (2 ^ f.lsb * 2 ^ f.width) + w.toNat % 2 ^ f.lsb := by
    simp only [wordFld]; omega
  simp only [wordSet, BitVec.toNat_ofNat]
  rw [he]
  generalize hA : 2 ^ f.lsb = L at *
  generalize hB : 2 ^ f.width = W at *
  generalize hC : 2 ^ (63 - f.msb) = C at *
  have hq : w.toNat / (L * W) < C := by
    rw [Nat.div_lt_iff_lt_mul (by positivity)]
    calc w.toNat < 2 ^ 64 := hw
      _ = C * (L * W) := by rw [← hsz]; ring
  have hv : v % W < W := Nat.mod_lt _ hW
  have hr : w.toNat % L < L := Nat.mod_lt _ hL
  have hlt : w.toNat / (L * W) * (L * W) + w.toNat % L + v % W * L < 2 ^ 64 := by
    have h1 : v % W * L + w.toNat % L < W * L := by
      have : (v % W + 1) * L ≤ W * L := Nat.mul_le_mul_right _ hv
      rw [Nat.add_mul] at this; omega
    have h2 : (w.toNat / (L * W) + 1) * (L * W) ≤ C * (L * W) := Nat.mul_le_mul_right _ hq
    rw [Nat.add_mul, show C * (L * W) = 2 ^ 64 by rw [← hsz]; ring] at h2
    have h3 : W * L = L * W := by ring
    omega
  rw [Nat.mod_eq_of_lt hlt]; omega

/-- A field reads as what was written to it, modulo its size. -/
theorem wordFld_wordSet {f : Field} (h : f.fits) (v : Nat) (w : Word) :
    wordFld f (wordSet f v w) = v % 2 ^ f.width := by
  have hL : 0 < 2 ^ f.lsb := by positivity
  rw [wordFld, wordSet_toNat h]
  have e : ∀ q x r L W : Nat, q * (L * W) + x * L + r = r + L * (x + W * q) := by intros; ring
  rw [e, Nat.add_mul_div_left _ _ hL, Nat.div_eq_of_lt (Nat.mod_lt _ hL), Nat.zero_add,
    Nat.add_mul_mod_self_left, Nat.mod_mod]

/-- Another field of the same word keeps its value. -/
theorem wordFld_wordSet_apart {f g : Field} (h : f.fits) (hg : g.fits) (ha : f.msb < g.lsb ∨ g.msb < f.lsb) (v : Nat)
    (w : Word) : wordFld g (wordSet f v w) = wordFld g w := by
  have hL : 0 < 2 ^ f.lsb := by positivity
  have hW : 0 < 2 ^ f.width := by positivity
  have hr : w.toNat % 2 ^ f.lsb < 2 ^ f.lsb := Nat.mod_lt _ hL
  have hv : v % 2 ^ f.width < 2 ^ f.width := Nat.mod_lt _ hW
  simp [Field.fits] at h hg
  unfold wordFld
  rw [wordSet_toNat (by simp [Field.fits, h])]
  rcases ha with ha | ha
  · have hd : 2 ^ g.lsb = 2 ^ f.lsb * 2 ^ f.width * 2 ^ (g.lsb - f.msb - 1) := by
      rw [← pow_add, ← pow_add]; congr 1; simp [Field.width]; omega
    have key : ∀ x r, x < 2 ^ f.width → r < 2 ^ f.lsb →
        (w.toNat / (2 ^ f.lsb * 2 ^ f.width) * (2 ^ f.lsb * 2 ^ f.width) + x * 2 ^ f.lsb + r) / 2 ^ g.lsb
          = w.toNat / (2 ^ f.lsb * 2 ^ f.width) / 2 ^ (g.lsb - f.msb - 1) := by
      intro x r hx hr
      rw [hd, ← Nat.div_div_eq_div_mul]
      congr 1
      generalize 2 ^ f.lsb = L at *
      generalize 2 ^ f.width = W at *
      have h1 : x * L + r < L * W := by
        have : (x + 1) * L ≤ W * L := Nat.mul_le_mul_right _ hx
        rw [Nat.add_mul] at this
        have h3 : W * L = L * W := by ring
        omega
      rw [Nat.add_assoc, Nat.add_comm, Nat.add_mul_div_right _ _ (by positivity), Nat.div_eq_of_lt h1, Nat.zero_add]
    rw [key _ _ hv hr]
    conv_rhs => rw [split_at w.toNat (2 ^ f.lsb) (2 ^ f.width)]
    rw [key _ _ (Nat.mod_lt _ hW) hr]
  · have hd : 2 ^ f.lsb = 2 ^ g.lsb * (2 ^ g.width * 2 ^ (f.lsb - g.msb - 1)) := by
      rw [← pow_add, ← pow_add]; congr 1; simp [Field.width]; omega
    have key : ∀ q x, (q * (2 ^ f.lsb * 2 ^ f.width) + x * 2 ^ f.lsb + w.toNat % 2 ^ f.lsb) / 2 ^ g.lsb % 2 ^ g.width
        = w.toNat % 2 ^ f.lsb / 2 ^ g.lsb % 2 ^ g.width := by
      intro q x
      have e : q * (2 ^ f.lsb * 2 ^ f.width) + x * 2 ^ f.lsb + w.toNat % 2 ^ f.lsb
          = w.toNat % 2 ^ f.lsb + 2 ^ g.lsb * (2 ^ g.width * (2 ^ (f.lsb - g.msb - 1) * (q * 2 ^ f.width + x))) := by
        conv_lhs => rw [show q * (2 ^ f.lsb * 2 ^ f.width) + x * 2 ^ f.lsb = 2 ^ f.lsb * (q * 2 ^ f.width + x) by ring]
        conv_lhs => enter [1, 1]; rw [hd]
        ring
      rw [e, Nat.add_mul_div_left _ _ (by positivity), Nat.add_mul_mod_self_left]
    rw [key]
    conv_rhs => rw [split_at w.toNat (2 ^ f.lsb) (2 ^ f.width)]
    rw [key]

/-! ### Registers of the device -/

/-- Reading back a field just written. -/
theorem rd_wr_same {f : Field} (h : f.fits) (v : Nat) (d : Dev) : rd f (wr f v d) = v % 2 ^ f.width := by
  simp [rd, wr, tget_tmod, wordFld_wordSet h]

/-- Another field keeps its value. -/
theorem rd_wr_apart {f g : Field} (h : f.fits) (hg : g.fits) (ha : f.apart g) (v : Nat) (d : Dev) :
    rd g (wr f v d) = rd g d := by
  simp only [rd, wr, tget_tmod]
  by_cases ho : g.off = f.off
  · rw [if_pos ho, ho]
    simp [Field.apart, ho] at ha
    exact wordFld_wordSet_apart h hg ha v _
  · rw [if_neg ho]

/-- A field of another register keeps its value. -/
theorem rd_wr_off {f g : Field} (ho : g.off ≠ f.off) (v : Nat) (d : Dev) : rd g (wr f v d) = rd g d := by
  simp [rd, wr, tget_tmod, ho]

/-- A register that is not written keeps its word. -/
theorem rdReg_wr_off {f : Field} {o : Nat} (ho : o ≠ f.off) (v : Nat) (d : Dev) : rdReg o (wr f v d) = rdReg o d := by
  simp [rdReg, wr, tget_tmod, ho]

/-- A field never reads above its size. -/
theorem rd_lt (f : Field) (d : Dev) : rd f d < 2 ^ f.width := Nat.mod_lt _ (by positivity)

/-! ### Memory -/

/-- A byte read after a byte stored. -/
theorem memByte_memSetByte (a x : Nat) (b : Byte) (d : Dev) :
    memByte (memSetByte a b d) x = if x = a then b else memByte d x := by
  simp [memByte, memSetByte, tget_tset]

/-- A byte outside what was stored. -/
theorem memByte_memWrite_out (x : Nat) (l : Bytes) : ∀ (a : Nat) (d : Dev), (x < a ∨ a + l.length ≤ x) →
    memByte (memWrite a l d) x = memByte d x := by
  induction l with
  | nil => intros; rfl
  | cons b bs ih =>
    intro a d h
    simp only [List.length_cons] at h
    rw [memWrite, ih (a + 1) _ (by omega), memByte_memSetByte, if_neg (by omega)]

/-- A byte inside what was stored. -/
theorem memByte_memWrite_in (l : Bytes) : ∀ (a i : Nat) (d : Dev) (hi : i < l.length),
    memByte (memWrite a l d) (a + i) = l[i] := by
  induction l with
  | nil => intro a i d hi; simp at hi
  | cons b bs ih =>
    intro a i d hi
    rw [memWrite]
    cases i with
    | zero => rw [memByte_memWrite_out _ _ _ _ (.inl (by omega)), memByte_memSetByte]; simp
    | succ n =>
      have := ih (a + 1) n (memSetByte a b d) (by simpa using hi)
      rw [show a + (n + 1) = a + 1 + n by omega, this]; simp

/-- Storing a byte keeps the memory's canonical form. -/
theorem memWf_memSetByte (a : Nat) (b : Byte) (d : Dev) (h : memWf d.mem) : memWf (memSetByte a b d).mem := twf_tset h

/-- Storing bytes keeps the memory's canonical form. -/
theorem memWf_memWrite (l : Bytes) : ∀ (a : Nat) (d : Dev), memWf d.mem → memWf (memWrite a l d).mem := by
  induction l with
  | nil => intro a d h; exact h
  | cons b bs ih => intro a d h; exact ih _ _ (memWf_memSetByte a b d h)

end Sys2Proof.Machine
end

