-- ==== Sys2Proof/Laws/State.lean ====
section
/-!
SUPPORT. Field laws of the state: what each basic update leaves as it was.
-/

namespace Sys2Proof.Machine

@[simp] theorem State.reset_pending : State.reset.pending = [] := rfl
@[simp] theorem State.reset_mem : State.reset.dev.mem = [] := rfl
@[simp] theorem State.reset_todo : State.reset.dev.todo = [] := rfl
@[simp] theorem State.reset_regs : State.reset.dev.regs = resetRegs := rfl

@[simp] theorem send_out (o : Out) (d : Dev) : (send o d).out = d.out ++ [o] := rfl
@[simp] theorem sendAll_out (l : List Out) (d : Dev) : (sendAll l d).out = d.out ++ l := rfl
theorem setb_eq (f : Field) (d : Dev) : setb f d = wr f 1 d := rfl
theorem clr_eq (f : Field) (d : Dev) : clr f d = wr f 0 d := rfl
theorem bump_eq (f : Field) (d : Dev) : bump f d = bumpBy f 1 d := rfl
theorem bumpSat_eq (f : Field) (n : Nat) (d : Dev) :
    bumpSat f n d = wr f (min (rd f d + n) (2 ^ f.width - 1)) d := rfl

@[simp] theorem wr_mem (f : Field) (v : Nat) (d : Dev) : (wr f v d).mem = d.mem := rfl
@[simp] theorem wr_free (f : Field) (v : Nat) (d : Dev) : (wr f v d).free = d.free := rfl
@[simp] theorem wr_out (f : Field) (v : Nat) (d : Dev) : (wr f v d).out = d.out := rfl
@[simp] theorem wr_intrSent (f : Field) (v : Nat) (d : Dev) : (wr f v d).intrSent = d.intrSent := rfl
@[simp] theorem wr_pins (f : Field) (v : Nat) (d : Dev) : (wr f v d).pins = d.pins := rfl
@[simp] theorem wr_flt (f : Field) (v : Nat) (d : Dev) : (wr f v d).flt = d.flt := rfl
@[simp] theorem wr_scr (f : Field) (v : Nat) (d : Dev) : (wr f v d).scr = d.scr := rfl
@[simp] theorem wr_pwr (f : Field) (v : Nat) (d : Dev) : (wr f v d).pwr = d.pwr := rfl
@[simp] theorem wr_tmp (f : Field) (v : Nat) (d : Dev) : (wr f v d).tmp = d.tmp := rfl
@[simp] theorem wr_fab (f : Field) (v : Nat) (d : Dev) : (wr f v d).fab = d.fab := rfl
@[simp] theorem wr_engines (f : Field) (v : Nat) (d : Dev) : (wr f v d).engines = d.engines := rfl
@[simp] theorem wr_king (f : Field) (v : Nat) (d : Dev) : (wr f v d).king = d.king := rfl
@[simp] theorem wr_l2s (f : Field) (v : Nat) (d : Dev) : (wr f v d).l2s = d.l2s := rfl
@[simp] theorem wr_taskRings (f : Field) (v : Nat) (d : Dev) : (wr f v d).taskRings = d.taskRings := rfl
@[simp] theorem wr_cas (f : Field) (v : Nat) (d : Dev) : (wr f v d).cas = d.cas := rfl
@[simp] theorem wr_todo (f : Field) (v : Nat) (d : Dev) : (wr f v d).todo = d.todo := rfl
@[simp] theorem wr_nv (f : Field) (v : Nat) (d : Dev) : (wr f v d).nv = d.nv := rfl
@[simp] theorem wr_sxc (f : Field) (v : Nat) (d : Dev) : (wr f v d).sxc = d.sxc := rfl
@[simp] theorem wr_fwu (f : Field) (v : Nat) (d : Dev) : (wr f v d).fwu = d.fwu := rfl
@[simp] theorem wr_seals (f : Field) (v : Nat) (d : Dev) : (wr f v d).seals = d.seals := rfl
@[simp] theorem wr_accels (f : Field) (v : Nat) (d : Dev) : (wr f v d).accels = d.accels := rfl
@[simp] theorem wr_cmpStreams (f : Field) (v : Nat) (d : Dev) : (wr f v d).cmpStreams = d.cmpStreams := rfl
@[simp] theorem wr_keys (f : Field) (v : Nat) (d : Dev) : (wr f v d).keys = d.keys := rfl
@[simp] theorem wr_fiu (f : Field) (v : Nat) (d : Dev) : (wr f v d).fiu = d.fiu := rfl
@[simp] theorem wr_front (f : Field) (v : Nat) (d : Dev) : (wr f v d).front = d.front := rfl
@[simp] theorem wr_md (f : Field) (v : Nat) (d : Dev) : (wr f v d).md = d.md := rfl
@[simp] theorem wr_stg (f : Field) (v : Nat) (d : Dev) : (wr f v d).stg = d.stg := rfl
@[simp] theorem wr_lanes12 (f : Field) (v : Nat) (d : Dev) : (wr f v d).lanes12 = d.lanes12 := rfl
@[simp] theorem wr_ftl (f : Field) (v : Nat) (d : Dev) : (wr f v d).ftl = d.ftl := rfl
@[simp] theorem wr_outside (f : Field) (v : Nat) (d : Dev) : (wr f v d).outside = d.outside := rfl
@[simp] theorem wr_oimCfg (f : Field) (v : Nat) (d : Dev) : (wr f v d).oimCfg = d.oimCfg := rfl
@[simp] theorem wr_repl (f : Field) (v : Nat) (d : Dev) : (wr f v d).repl = d.repl := rfl
@[simp] theorem wr_cdt (f : Field) (v : Nat) (d : Dev) : (wr f v d).cdt = d.cdt := rfl

@[simp] theorem wrReg_mem (o : Nat) (w : Word) (d : Dev) : (wrReg o w d).mem = d.mem := rfl
@[simp] theorem wrReg_free (o : Nat) (w : Word) (d : Dev) : (wrReg o w d).free = d.free := rfl
@[simp] theorem wrReg_out (o : Nat) (w : Word) (d : Dev) : (wrReg o w d).out = d.out := rfl
@[simp] theorem wrReg_intrSent (o : Nat) (w : Word) (d : Dev) : (wrReg o w d).intrSent = d.intrSent := rfl
@[simp] theorem wrReg_pins (o : Nat) (w : Word) (d : Dev) : (wrReg o w d).pins = d.pins := rfl
@[simp] theorem wrReg_flt (o : Nat) (w : Word) (d : Dev) : (wrReg o w d).flt = d.flt := rfl
@[simp] theorem wrReg_scr (o : Nat) (w : Word) (d : Dev) : (wrReg o w d).scr = d.scr := rfl
@[simp] theorem wrReg_pwr (o : Nat) (w : Word) (d : Dev) : (wrReg o w d).pwr = d.pwr := rfl
@[simp] theorem wrReg_tmp (o : Nat) (w : Word) (d : Dev) : (wrReg o w d).tmp = d.tmp := rfl
@[simp] theorem wrReg_fab (o : Nat) (w : Word) (d : Dev) : (wrReg o w d).fab = d.fab := rfl
@[simp] theorem wrReg_engines (o : Nat) (w : Word) (d : Dev) : (wrReg o w d).engines = d.engines := rfl
@[simp] theorem wrReg_king (o : Nat) (w : Word) (d : Dev) : (wrReg o w d).king = d.king := rfl
@[simp] theorem wrReg_l2s (o : Nat) (w : Word) (d : Dev) : (wrReg o w d).l2s = d.l2s := rfl
@[simp] theorem wrReg_taskRings (o : Nat) (w : Word) (d : Dev) : (wrReg o w d).taskRings = d.taskRings := rfl
@[simp] theorem wrReg_cas (o : Nat) (w : Word) (d : Dev) : (wrReg o w d).cas = d.cas := rfl
@[simp] theorem wrReg_todo (o : Nat) (w : Word) (d : Dev) : (wrReg o w d).todo = d.todo := rfl
@[simp] theorem wrReg_nv (o : Nat) (w : Word) (d : Dev) : (wrReg o w d).nv = d.nv := rfl
@[simp] theorem wrReg_sxc (o : Nat) (w : Word) (d : Dev) : (wrReg o w d).sxc = d.sxc := rfl
@[simp] theorem wrReg_fwu (o : Nat) (w : Word) (d : Dev) : (wrReg o w d).fwu = d.fwu := rfl
@[simp] theorem wrReg_seals (o : Nat) (w : Word) (d : Dev) : (wrReg o w d).seals = d.seals := rfl
@[simp] theorem wrReg_accels (o : Nat) (w : Word) (d : Dev) : (wrReg o w d).accels = d.accels := rfl
@[simp] theorem wrReg_cmpStreams (o : Nat) (w : Word) (d : Dev) : (wrReg o w d).cmpStreams = d.cmpStreams := rfl
@[simp] theorem wrReg_keys (o : Nat) (w : Word) (d : Dev) : (wrReg o w d).keys = d.keys := rfl
@[simp] theorem wrReg_fiu (o : Nat) (w : Word) (d : Dev) : (wrReg o w d).fiu = d.fiu := rfl
@[simp] theorem wrReg_front (o : Nat) (w : Word) (d : Dev) : (wrReg o w d).front = d.front := rfl
@[simp] theorem wrReg_md (o : Nat) (w : Word) (d : Dev) : (wrReg o w d).md = d.md := rfl
@[simp] theorem wrReg_stg (o : Nat) (w : Word) (d : Dev) : (wrReg o w d).stg = d.stg := rfl
@[simp] theorem wrReg_lanes12 (o : Nat) (w : Word) (d : Dev) : (wrReg o w d).lanes12 = d.lanes12 := rfl
@[simp] theorem wrReg_ftl (o : Nat) (w : Word) (d : Dev) : (wrReg o w d).ftl = d.ftl := rfl
@[simp] theorem wrReg_outside (o : Nat) (w : Word) (d : Dev) : (wrReg o w d).outside = d.outside := rfl
@[simp] theorem wrReg_oimCfg (o : Nat) (w : Word) (d : Dev) : (wrReg o w d).oimCfg = d.oimCfg := rfl
@[simp] theorem wrReg_repl (o : Nat) (w : Word) (d : Dev) : (wrReg o w d).repl = d.repl := rfl
@[simp] theorem wrReg_cdt (o : Nat) (w : Word) (d : Dev) : (wrReg o w d).cdt = d.cdt := rfl

@[simp] theorem setBit_mem (f : Field) (n : Nat) (d : Dev) : (setBit f n d).mem = d.mem := by unfold setBit; split <;> rfl
@[simp] theorem setBit_free (f : Field) (n : Nat) (d : Dev) : (setBit f n d).free = d.free := by unfold setBit; split <;> rfl
@[simp] theorem setBit_out (f : Field) (n : Nat) (d : Dev) : (setBit f n d).out = d.out := by unfold setBit; split <;> rfl
@[simp] theorem setBit_intrSent (f : Field) (n : Nat) (d : Dev) : (setBit f n d).intrSent = d.intrSent := by unfold setBit; split <;> rfl
@[simp] theorem setBit_pins (f : Field) (n : Nat) (d : Dev) : (setBit f n d).pins = d.pins := by unfold setBit; split <;> rfl
@[simp] theorem setBit_flt (f : Field) (n : Nat) (d : Dev) : (setBit f n d).flt = d.flt := by unfold setBit; split <;> rfl
@[simp] theorem setBit_scr (f : Field) (n : Nat) (d : Dev) : (setBit f n d).scr = d.scr := by unfold setBit; split <;> rfl
@[simp] theorem setBit_pwr (f : Field) (n : Nat) (d : Dev) : (setBit f n d).pwr = d.pwr := by unfold setBit; split <;> rfl
@[simp] theorem setBit_tmp (f : Field) (n : Nat) (d : Dev) : (setBit f n d).tmp = d.tmp := by unfold setBit; split <;> rfl
@[simp] theorem setBit_fab (f : Field) (n : Nat) (d : Dev) : (setBit f n d).fab = d.fab := by unfold setBit; split <;> rfl
@[simp] theorem setBit_engines (f : Field) (n : Nat) (d : Dev) : (setBit f n d).engines = d.engines := by unfold setBit; split <;> rfl
@[simp] theorem setBit_king (f : Field) (n : Nat) (d : Dev) : (setBit f n d).king = d.king := by unfold setBit; split <;> rfl
@[simp] theorem setBit_l2s (f : Field) (n : Nat) (d : Dev) : (setBit f n d).l2s = d.l2s := by unfold setBit; split <;> rfl
@[simp] theorem setBit_taskRings (f : Field) (n : Nat) (d : Dev) : (setBit f n d).taskRings = d.taskRings := by unfold setBit; split <;> rfl
@[simp] theorem setBit_cas (f : Field) (n : Nat) (d : Dev) : (setBit f n d).cas = d.cas := by unfold setBit; split <;> rfl
@[simp] theorem setBit_todo (f : Field) (n : Nat) (d : Dev) : (setBit f n d).todo = d.todo := by unfold setBit; split <;> rfl
@[simp] theorem setBit_nv (f : Field) (n : Nat) (d : Dev) : (setBit f n d).nv = d.nv := by unfold setBit; split <;> rfl
@[simp] theorem setBit_sxc (f : Field) (n : Nat) (d : Dev) : (setBit f n d).sxc = d.sxc := by unfold setBit; split <;> rfl
@[simp] theorem setBit_fwu (f : Field) (n : Nat) (d : Dev) : (setBit f n d).fwu = d.fwu := by unfold setBit; split <;> rfl
@[simp] theorem setBit_seals (f : Field) (n : Nat) (d : Dev) : (setBit f n d).seals = d.seals := by unfold setBit; split <;> rfl
@[simp] theorem setBit_accels (f : Field) (n : Nat) (d : Dev) : (setBit f n d).accels = d.accels := by unfold setBit; split <;> rfl
@[simp] theorem setBit_cmpStreams (f : Field) (n : Nat) (d : Dev) : (setBit f n d).cmpStreams = d.cmpStreams := by unfold setBit; split <;> rfl
@[simp] theorem setBit_keys (f : Field) (n : Nat) (d : Dev) : (setBit f n d).keys = d.keys := by unfold setBit; split <;> rfl
@[simp] theorem setBit_fiu (f : Field) (n : Nat) (d : Dev) : (setBit f n d).fiu = d.fiu := by unfold setBit; split <;> rfl
@[simp] theorem setBit_front (f : Field) (n : Nat) (d : Dev) : (setBit f n d).front = d.front := by unfold setBit; split <;> rfl
@[simp] theorem setBit_md (f : Field) (n : Nat) (d : Dev) : (setBit f n d).md = d.md := by unfold setBit; split <;> rfl
@[simp] theorem setBit_stg (f : Field) (n : Nat) (d : Dev) : (setBit f n d).stg = d.stg := by unfold setBit; split <;> rfl
@[simp] theorem setBit_lanes12 (f : Field) (n : Nat) (d : Dev) : (setBit f n d).lanes12 = d.lanes12 := by unfold setBit; split <;> rfl
@[simp] theorem setBit_ftl (f : Field) (n : Nat) (d : Dev) : (setBit f n d).ftl = d.ftl := by unfold setBit; split <;> rfl
@[simp] theorem setBit_outside (f : Field) (n : Nat) (d : Dev) : (setBit f n d).outside = d.outside := by unfold setBit; split <;> rfl
@[simp] theorem setBit_oimCfg (f : Field) (n : Nat) (d : Dev) : (setBit f n d).oimCfg = d.oimCfg := by unfold setBit; split <;> rfl
@[simp] theorem setBit_repl (f : Field) (n : Nat) (d : Dev) : (setBit f n d).repl = d.repl := by unfold setBit; split <;> rfl
@[simp] theorem setBit_cdt (f : Field) (n : Nat) (d : Dev) : (setBit f n d).cdt = d.cdt := by unfold setBit; split <;> rfl

@[simp] theorem clrBit_mem (f : Field) (n : Nat) (d : Dev) : (clrBit f n d).mem = d.mem := by unfold clrBit; split <;> rfl
@[simp] theorem clrBit_free (f : Field) (n : Nat) (d : Dev) : (clrBit f n d).free = d.free := by unfold clrBit; split <;> rfl
@[simp] theorem clrBit_out (f : Field) (n : Nat) (d : Dev) : (clrBit f n d).out = d.out := by unfold clrBit; split <;> rfl
@[simp] theorem clrBit_intrSent (f : Field) (n : Nat) (d : Dev) : (clrBit f n d).intrSent = d.intrSent := by unfold clrBit; split <;> rfl
@[simp] theorem clrBit_pins (f : Field) (n : Nat) (d : Dev) : (clrBit f n d).pins = d.pins := by unfold clrBit; split <;> rfl
@[simp] theorem clrBit_flt (f : Field) (n : Nat) (d : Dev) : (clrBit f n d).flt = d.flt := by unfold clrBit; split <;> rfl
@[simp] theorem clrBit_scr (f : Field) (n : Nat) (d : Dev) : (clrBit f n d).scr = d.scr := by unfold clrBit; split <;> rfl
@[simp] theorem clrBit_pwr (f : Field) (n : Nat) (d : Dev) : (clrBit f n d).pwr = d.pwr := by unfold clrBit; split <;> rfl
@[simp] theorem clrBit_tmp (f : Field) (n : Nat) (d : Dev) : (clrBit f n d).tmp = d.tmp := by unfold clrBit; split <;> rfl
@[simp] theorem clrBit_fab (f : Field) (n : Nat) (d : Dev) : (clrBit f n d).fab = d.fab := by unfold clrBit; split <;> rfl
@[simp] theorem clrBit_engines (f : Field) (n : Nat) (d : Dev) : (clrBit f n d).engines = d.engines := by unfold clrBit; split <;> rfl
@[simp] theorem clrBit_king (f : Field) (n : Nat) (d : Dev) : (clrBit f n d).king = d.king := by unfold clrBit; split <;> rfl
@[simp] theorem clrBit_l2s (f : Field) (n : Nat) (d : Dev) : (clrBit f n d).l2s = d.l2s := by unfold clrBit; split <;> rfl
@[simp] theorem clrBit_taskRings (f : Field) (n : Nat) (d : Dev) : (clrBit f n d).taskRings = d.taskRings := by unfold clrBit; split <;> rfl
@[simp] theorem clrBit_cas (f : Field) (n : Nat) (d : Dev) : (clrBit f n d).cas = d.cas := by unfold clrBit; split <;> rfl
@[simp] theorem clrBit_todo (f : Field) (n : Nat) (d : Dev) : (clrBit f n d).todo = d.todo := by unfold clrBit; split <;> rfl
@[simp] theorem clrBit_nv (f : Field) (n : Nat) (d : Dev) : (clrBit f n d).nv = d.nv := by unfold clrBit; split <;> rfl
@[simp] theorem clrBit_sxc (f : Field) (n : Nat) (d : Dev) : (clrBit f n d).sxc = d.sxc := by unfold clrBit; split <;> rfl
@[simp] theorem clrBit_fwu (f : Field) (n : Nat) (d : Dev) : (clrBit f n d).fwu = d.fwu := by unfold clrBit; split <;> rfl
@[simp] theorem clrBit_seals (f : Field) (n : Nat) (d : Dev) : (clrBit f n d).seals = d.seals := by unfold clrBit; split <;> rfl
@[simp] theorem clrBit_accels (f : Field) (n : Nat) (d : Dev) : (clrBit f n d).accels = d.accels := by unfold clrBit; split <;> rfl
@[simp] theorem clrBit_cmpStreams (f : Field) (n : Nat) (d : Dev) : (clrBit f n d).cmpStreams = d.cmpStreams := by unfold clrBit; split <;> rfl
@[simp] theorem clrBit_keys (f : Field) (n : Nat) (d : Dev) : (clrBit f n d).keys = d.keys := by unfold clrBit; split <;> rfl
@[simp] theorem clrBit_fiu (f : Field) (n : Nat) (d : Dev) : (clrBit f n d).fiu = d.fiu := by unfold clrBit; split <;> rfl
@[simp] theorem clrBit_front (f : Field) (n : Nat) (d : Dev) : (clrBit f n d).front = d.front := by unfold clrBit; split <;> rfl
@[simp] theorem clrBit_md (f : Field) (n : Nat) (d : Dev) : (clrBit f n d).md = d.md := by unfold clrBit; split <;> rfl
@[simp] theorem clrBit_stg (f : Field) (n : Nat) (d : Dev) : (clrBit f n d).stg = d.stg := by unfold clrBit; split <;> rfl
@[simp] theorem clrBit_lanes12 (f : Field) (n : Nat) (d : Dev) : (clrBit f n d).lanes12 = d.lanes12 := by unfold clrBit; split <;> rfl
@[simp] theorem clrBit_ftl (f : Field) (n : Nat) (d : Dev) : (clrBit f n d).ftl = d.ftl := by unfold clrBit; split <;> rfl
@[simp] theorem clrBit_outside (f : Field) (n : Nat) (d : Dev) : (clrBit f n d).outside = d.outside := by unfold clrBit; split <;> rfl
@[simp] theorem clrBit_oimCfg (f : Field) (n : Nat) (d : Dev) : (clrBit f n d).oimCfg = d.oimCfg := by unfold clrBit; split <;> rfl
@[simp] theorem clrBit_repl (f : Field) (n : Nat) (d : Dev) : (clrBit f n d).repl = d.repl := by unfold clrBit; split <;> rfl
@[simp] theorem clrBit_cdt (f : Field) (n : Nat) (d : Dev) : (clrBit f n d).cdt = d.cdt := by unfold clrBit; split <;> rfl

@[simp] theorem bumpBy_mem (f : Field) (n : Nat) (d : Dev) : (bumpBy f n d).mem = d.mem := by unfold bumpBy; split <;> rfl
@[simp] theorem bumpBy_out (f : Field) (n : Nat) (d : Dev) : (bumpBy f n d).out = d.out := by unfold bumpBy; split <;> rfl
@[simp] theorem bumpBy_intrSent (f : Field) (n : Nat) (d : Dev) : (bumpBy f n d).intrSent = d.intrSent := by unfold bumpBy; split <;> rfl
@[simp] theorem bumpBy_pins (f : Field) (n : Nat) (d : Dev) : (bumpBy f n d).pins = d.pins := by unfold bumpBy; split <;> rfl
@[simp] theorem bumpBy_flt (f : Field) (n : Nat) (d : Dev) : (bumpBy f n d).flt = d.flt := by unfold bumpBy; split <;> rfl
@[simp] theorem bumpBy_scr (f : Field) (n : Nat) (d : Dev) : (bumpBy f n d).scr = d.scr := by unfold bumpBy; split <;> rfl
@[simp] theorem bumpBy_pwr (f : Field) (n : Nat) (d : Dev) : (bumpBy f n d).pwr = d.pwr := by unfold bumpBy; split <;> rfl
@[simp] theorem bumpBy_tmp (f : Field) (n : Nat) (d : Dev) : (bumpBy f n d).tmp = d.tmp := by unfold bumpBy; split <;> rfl
@[simp] theorem bumpBy_fab (f : Field) (n : Nat) (d : Dev) : (bumpBy f n d).fab = d.fab := by unfold bumpBy; split <;> rfl
@[simp] theorem bumpBy_engines (f : Field) (n : Nat) (d : Dev) : (bumpBy f n d).engines = d.engines := by unfold bumpBy; split <;> rfl
@[simp] theorem bumpBy_king (f : Field) (n : Nat) (d : Dev) : (bumpBy f n d).king = d.king := by unfold bumpBy; split <;> rfl
@[simp] theorem bumpBy_l2s (f : Field) (n : Nat) (d : Dev) : (bumpBy f n d).l2s = d.l2s := by unfold bumpBy; split <;> rfl
@[simp] theorem bumpBy_taskRings (f : Field) (n : Nat) (d : Dev) : (bumpBy f n d).taskRings = d.taskRings := by unfold bumpBy; split <;> rfl
@[simp] theorem bumpBy_cas (f : Field) (n : Nat) (d : Dev) : (bumpBy f n d).cas = d.cas := by unfold bumpBy; split <;> rfl
@[simp] theorem bumpBy_todo (f : Field) (n : Nat) (d : Dev) : (bumpBy f n d).todo = d.todo := by unfold bumpBy; split <;> rfl
@[simp] theorem bumpBy_nv (f : Field) (n : Nat) (d : Dev) : (bumpBy f n d).nv = d.nv := by unfold bumpBy; split <;> rfl
@[simp] theorem bumpBy_sxc (f : Field) (n : Nat) (d : Dev) : (bumpBy f n d).sxc = d.sxc := by unfold bumpBy; split <;> rfl
@[simp] theorem bumpBy_fwu (f : Field) (n : Nat) (d : Dev) : (bumpBy f n d).fwu = d.fwu := by unfold bumpBy; split <;> rfl
@[simp] theorem bumpBy_seals (f : Field) (n : Nat) (d : Dev) : (bumpBy f n d).seals = d.seals := by unfold bumpBy; split <;> rfl
@[simp] theorem bumpBy_accels (f : Field) (n : Nat) (d : Dev) : (bumpBy f n d).accels = d.accels := by unfold bumpBy; split <;> rfl
@[simp] theorem bumpBy_cmpStreams (f : Field) (n : Nat) (d : Dev) : (bumpBy f n d).cmpStreams = d.cmpStreams := by unfold bumpBy; split <;> rfl
@[simp] theorem bumpBy_keys (f : Field) (n : Nat) (d : Dev) : (bumpBy f n d).keys = d.keys := by unfold bumpBy; split <;> rfl
@[simp] theorem bumpBy_fiu (f : Field) (n : Nat) (d : Dev) : (bumpBy f n d).fiu = d.fiu := by unfold bumpBy; split <;> rfl
@[simp] theorem bumpBy_front (f : Field) (n : Nat) (d : Dev) : (bumpBy f n d).front = d.front := by unfold bumpBy; split <;> rfl
@[simp] theorem bumpBy_md (f : Field) (n : Nat) (d : Dev) : (bumpBy f n d).md = d.md := by unfold bumpBy; split <;> rfl
@[simp] theorem bumpBy_stg (f : Field) (n : Nat) (d : Dev) : (bumpBy f n d).stg = d.stg := by unfold bumpBy; split <;> rfl
@[simp] theorem bumpBy_lanes12 (f : Field) (n : Nat) (d : Dev) : (bumpBy f n d).lanes12 = d.lanes12 := by unfold bumpBy; split <;> rfl
@[simp] theorem bumpBy_ftl (f : Field) (n : Nat) (d : Dev) : (bumpBy f n d).ftl = d.ftl := by unfold bumpBy; split <;> rfl
@[simp] theorem bumpBy_outside (f : Field) (n : Nat) (d : Dev) : (bumpBy f n d).outside = d.outside := by unfold bumpBy; split <;> rfl
@[simp] theorem bumpBy_oimCfg (f : Field) (n : Nat) (d : Dev) : (bumpBy f n d).oimCfg = d.oimCfg := by unfold bumpBy; split <;> rfl
@[simp] theorem bumpBy_repl (f : Field) (n : Nat) (d : Dev) : (bumpBy f n d).repl = d.repl := by unfold bumpBy; split <;> rfl
@[simp] theorem bumpBy_cdt (f : Field) (n : Nat) (d : Dev) : (bumpBy f n d).cdt = d.cdt := by unfold bumpBy; split <;> rfl

@[simp] theorem send_regs (o : Out) (d : Dev) : (send o d).regs = d.regs := rfl
@[simp] theorem send_mem (o : Out) (d : Dev) : (send o d).mem = d.mem := rfl
@[simp] theorem send_free (o : Out) (d : Dev) : (send o d).free = d.free := rfl
@[simp] theorem send_intrSent (o : Out) (d : Dev) : (send o d).intrSent = d.intrSent := rfl
@[simp] theorem send_pins (o : Out) (d : Dev) : (send o d).pins = d.pins := rfl
@[simp] theorem send_flt (o : Out) (d : Dev) : (send o d).flt = d.flt := rfl
@[simp] theorem send_scr (o : Out) (d : Dev) : (send o d).scr = d.scr := rfl
@[simp] theorem send_pwr (o : Out) (d : Dev) : (send o d).pwr = d.pwr := rfl
@[simp] theorem send_tmp (o : Out) (d : Dev) : (send o d).tmp = d.tmp := rfl
@[simp] theorem send_fab (o : Out) (d : Dev) : (send o d).fab = d.fab := rfl
@[simp] theorem send_engines (o : Out) (d : Dev) : (send o d).engines = d.engines := rfl
@[simp] theorem send_king (o : Out) (d : Dev) : (send o d).king = d.king := rfl
@[simp] theorem send_l2s (o : Out) (d : Dev) : (send o d).l2s = d.l2s := rfl
@[simp] theorem send_taskRings (o : Out) (d : Dev) : (send o d).taskRings = d.taskRings := rfl
@[simp] theorem send_cas (o : Out) (d : Dev) : (send o d).cas = d.cas := rfl
@[simp] theorem send_todo (o : Out) (d : Dev) : (send o d).todo = d.todo := rfl
@[simp] theorem send_nv (o : Out) (d : Dev) : (send o d).nv = d.nv := rfl
@[simp] theorem send_sxc (o : Out) (d : Dev) : (send o d).sxc = d.sxc := rfl
@[simp] theorem send_fwu (o : Out) (d : Dev) : (send o d).fwu = d.fwu := rfl
@[simp] theorem send_seals (o : Out) (d : Dev) : (send o d).seals = d.seals := rfl
@[simp] theorem send_accels (o : Out) (d : Dev) : (send o d).accels = d.accels := rfl
@[simp] theorem send_cmpStreams (o : Out) (d : Dev) : (send o d).cmpStreams = d.cmpStreams := rfl
@[simp] theorem send_keys (o : Out) (d : Dev) : (send o d).keys = d.keys := rfl
@[simp] theorem send_fiu (o : Out) (d : Dev) : (send o d).fiu = d.fiu := rfl
@[simp] theorem send_front (o : Out) (d : Dev) : (send o d).front = d.front := rfl
@[simp] theorem send_md (o : Out) (d : Dev) : (send o d).md = d.md := rfl
@[simp] theorem send_stg (o : Out) (d : Dev) : (send o d).stg = d.stg := rfl
@[simp] theorem send_lanes12 (o : Out) (d : Dev) : (send o d).lanes12 = d.lanes12 := rfl
@[simp] theorem send_ftl (o : Out) (d : Dev) : (send o d).ftl = d.ftl := rfl
@[simp] theorem send_outside (o : Out) (d : Dev) : (send o d).outside = d.outside := rfl
@[simp] theorem send_oimCfg (o : Out) (d : Dev) : (send o d).oimCfg = d.oimCfg := rfl
@[simp] theorem send_repl (o : Out) (d : Dev) : (send o d).repl = d.repl := rfl
@[simp] theorem send_cdt (o : Out) (d : Dev) : (send o d).cdt = d.cdt := rfl

@[simp] theorem sendAll_regs (l : List Out) (d : Dev) : (sendAll l d).regs = d.regs := rfl
@[simp] theorem sendAll_mem (l : List Out) (d : Dev) : (sendAll l d).mem = d.mem := rfl
@[simp] theorem sendAll_free (l : List Out) (d : Dev) : (sendAll l d).free = d.free := rfl
@[simp] theorem sendAll_intrSent (l : List Out) (d : Dev) : (sendAll l d).intrSent = d.intrSent := rfl
@[simp] theorem sendAll_pins (l : List Out) (d : Dev) : (sendAll l d).pins = d.pins := rfl
@[simp] theorem sendAll_flt (l : List Out) (d : Dev) : (sendAll l d).flt = d.flt := rfl
@[simp] theorem sendAll_scr (l : List Out) (d : Dev) : (sendAll l d).scr = d.scr := rfl
@[simp] theorem sendAll_pwr (l : List Out) (d : Dev) : (sendAll l d).pwr = d.pwr := rfl
@[simp] theorem sendAll_tmp (l : List Out) (d : Dev) : (sendAll l d).tmp = d.tmp := rfl
@[simp] theorem sendAll_fab (l : List Out) (d : Dev) : (sendAll l d).fab = d.fab := rfl
@[simp] theorem sendAll_engines (l : List Out) (d : Dev) : (sendAll l d).engines = d.engines := rfl
@[simp] theorem sendAll_king (l : List Out) (d : Dev) : (sendAll l d).king = d.king := rfl
@[simp] theorem sendAll_l2s (l : List Out) (d : Dev) : (sendAll l d).l2s = d.l2s := rfl
@[simp] theorem sendAll_taskRings (l : List Out) (d : Dev) : (sendAll l d).taskRings = d.taskRings := rfl
@[simp] theorem sendAll_cas (l : List Out) (d : Dev) : (sendAll l d).cas = d.cas := rfl
@[simp] theorem sendAll_todo (l : List Out) (d : Dev) : (sendAll l d).todo = d.todo := rfl
@[simp] theorem sendAll_nv (l : List Out) (d : Dev) : (sendAll l d).nv = d.nv := rfl
@[simp] theorem sendAll_sxc (l : List Out) (d : Dev) : (sendAll l d).sxc = d.sxc := rfl
@[simp] theorem sendAll_fwu (l : List Out) (d : Dev) : (sendAll l d).fwu = d.fwu := rfl
@[simp] theorem sendAll_seals (l : List Out) (d : Dev) : (sendAll l d).seals = d.seals := rfl
@[simp] theorem sendAll_accels (l : List Out) (d : Dev) : (sendAll l d).accels = d.accels := rfl
@[simp] theorem sendAll_cmpStreams (l : List Out) (d : Dev) : (sendAll l d).cmpStreams = d.cmpStreams := rfl
@[simp] theorem sendAll_keys (l : List Out) (d : Dev) : (sendAll l d).keys = d.keys := rfl
@[simp] theorem sendAll_fiu (l : List Out) (d : Dev) : (sendAll l d).fiu = d.fiu := rfl
@[simp] theorem sendAll_front (l : List Out) (d : Dev) : (sendAll l d).front = d.front := rfl
@[simp] theorem sendAll_md (l : List Out) (d : Dev) : (sendAll l d).md = d.md := rfl
@[simp] theorem sendAll_stg (l : List Out) (d : Dev) : (sendAll l d).stg = d.stg := rfl
@[simp] theorem sendAll_lanes12 (l : List Out) (d : Dev) : (sendAll l d).lanes12 = d.lanes12 := rfl
@[simp] theorem sendAll_ftl (l : List Out) (d : Dev) : (sendAll l d).ftl = d.ftl := rfl
@[simp] theorem sendAll_outside (l : List Out) (d : Dev) : (sendAll l d).outside = d.outside := rfl
@[simp] theorem sendAll_oimCfg (l : List Out) (d : Dev) : (sendAll l d).oimCfg = d.oimCfg := rfl
@[simp] theorem sendAll_repl (l : List Out) (d : Dev) : (sendAll l d).repl = d.repl := rfl
@[simp] theorem sendAll_cdt (l : List Out) (d : Dev) : (sendAll l d).cdt = d.cdt := rfl

@[simp] theorem memSetByte_regs (a : Nat) (b : Byte) (d : Dev) : (memSetByte a b d).regs = d.regs := rfl
@[simp] theorem memSetByte_free (a : Nat) (b : Byte) (d : Dev) : (memSetByte a b d).free = d.free := rfl
@[simp] theorem memSetByte_out (a : Nat) (b : Byte) (d : Dev) : (memSetByte a b d).out = d.out := rfl
@[simp] theorem memSetByte_intrSent (a : Nat) (b : Byte) (d : Dev) : (memSetByte a b d).intrSent = d.intrSent := rfl
@[simp] theorem memSetByte_pins (a : Nat) (b : Byte) (d : Dev) : (memSetByte a b d).pins = d.pins := rfl
@[simp] theorem memSetByte_flt (a : Nat) (b : Byte) (d : Dev) : (memSetByte a b d).flt = d.flt := rfl
@[simp] theorem memSetByte_scr (a : Nat) (b : Byte) (d : Dev) : (memSetByte a b d).scr = d.scr := rfl
@[simp] theorem memSetByte_pwr (a : Nat) (b : Byte) (d : Dev) : (memSetByte a b d).pwr = d.pwr := rfl
@[simp] theorem memSetByte_tmp (a : Nat) (b : Byte) (d : Dev) : (memSetByte a b d).tmp = d.tmp := rfl
@[simp] theorem memSetByte_fab (a : Nat) (b : Byte) (d : Dev) : (memSetByte a b d).fab = d.fab := rfl
@[simp] theorem memSetByte_engines (a : Nat) (b : Byte) (d : Dev) : (memSetByte a b d).engines = d.engines := rfl
@[simp] theorem memSetByte_king (a : Nat) (b : Byte) (d : Dev) : (memSetByte a b d).king = d.king := rfl
@[simp] theorem memSetByte_l2s (a : Nat) (b : Byte) (d : Dev) : (memSetByte a b d).l2s = d.l2s := rfl
@[simp] theorem memSetByte_taskRings (a : Nat) (b : Byte) (d : Dev) : (memSetByte a b d).taskRings = d.taskRings := rfl
@[simp] theorem memSetByte_cas (a : Nat) (b : Byte) (d : Dev) : (memSetByte a b d).cas = d.cas := rfl
@[simp] theorem memSetByte_todo (a : Nat) (b : Byte) (d : Dev) : (memSetByte a b d).todo = d.todo := rfl
@[simp] theorem memSetByte_nv (a : Nat) (b : Byte) (d : Dev) : (memSetByte a b d).nv = d.nv := rfl
@[simp] theorem memSetByte_sxc (a : Nat) (b : Byte) (d : Dev) : (memSetByte a b d).sxc = d.sxc := rfl
@[simp] theorem memSetByte_fwu (a : Nat) (b : Byte) (d : Dev) : (memSetByte a b d).fwu = d.fwu := rfl
@[simp] theorem memSetByte_seals (a : Nat) (b : Byte) (d : Dev) : (memSetByte a b d).seals = d.seals := rfl
@[simp] theorem memSetByte_accels (a : Nat) (b : Byte) (d : Dev) : (memSetByte a b d).accels = d.accels := rfl
@[simp] theorem memSetByte_cmpStreams (a : Nat) (b : Byte) (d : Dev) : (memSetByte a b d).cmpStreams = d.cmpStreams := rfl
@[simp] theorem memSetByte_keys (a : Nat) (b : Byte) (d : Dev) : (memSetByte a b d).keys = d.keys := rfl
@[simp] theorem memSetByte_fiu (a : Nat) (b : Byte) (d : Dev) : (memSetByte a b d).fiu = d.fiu := rfl
@[simp] theorem memSetByte_front (a : Nat) (b : Byte) (d : Dev) : (memSetByte a b d).front = d.front := rfl
@[simp] theorem memSetByte_md (a : Nat) (b : Byte) (d : Dev) : (memSetByte a b d).md = d.md := rfl
@[simp] theorem memSetByte_stg (a : Nat) (b : Byte) (d : Dev) : (memSetByte a b d).stg = d.stg := rfl
@[simp] theorem memSetByte_lanes12 (a : Nat) (b : Byte) (d : Dev) : (memSetByte a b d).lanes12 = d.lanes12 := rfl
@[simp] theorem memSetByte_ftl (a : Nat) (b : Byte) (d : Dev) : (memSetByte a b d).ftl = d.ftl := rfl
@[simp] theorem memSetByte_outside (a : Nat) (b : Byte) (d : Dev) : (memSetByte a b d).outside = d.outside := rfl
@[simp] theorem memSetByte_oimCfg (a : Nat) (b : Byte) (d : Dev) : (memSetByte a b d).oimCfg = d.oimCfg := rfl
@[simp] theorem memSetByte_repl (a : Nat) (b : Byte) (d : Dev) : (memSetByte a b d).repl = d.repl := rfl
@[simp] theorem memSetByte_cdt (a : Nat) (b : Byte) (d : Dev) : (memSetByte a b d).cdt = d.cdt := rfl

@[simp] theorem memWrite_regs (l : Bytes) : ∀ (a : Nat) (d : Dev), (memWrite a l d).regs = d.regs := by
  induction l with
  | nil => intros; rfl
  | cons b bs ih => intro a d; rw [memWrite, ih]; rfl
@[simp] theorem memWrite_free (l : Bytes) : ∀ (a : Nat) (d : Dev), (memWrite a l d).free = d.free := by
  induction l with
  | nil => intros; rfl
  | cons b bs ih => intro a d; rw [memWrite, ih]; rfl
@[simp] theorem memWrite_out (l : Bytes) : ∀ (a : Nat) (d : Dev), (memWrite a l d).out = d.out := by
  induction l with
  | nil => intros; rfl
  | cons b bs ih => intro a d; rw [memWrite, ih]; rfl
@[simp] theorem memWrite_intrSent (l : Bytes) : ∀ (a : Nat) (d : Dev), (memWrite a l d).intrSent = d.intrSent := by
  induction l with
  | nil => intros; rfl
  | cons b bs ih => intro a d; rw [memWrite, ih]; rfl
@[simp] theorem memWrite_pins (l : Bytes) : ∀ (a : Nat) (d : Dev), (memWrite a l d).pins = d.pins := by
  induction l with
  | nil => intros; rfl
  | cons b bs ih => intro a d; rw [memWrite, ih]; rfl
@[simp] theorem memWrite_flt (l : Bytes) : ∀ (a : Nat) (d : Dev), (memWrite a l d).flt = d.flt := by
  induction l with
  | nil => intros; rfl
  | cons b bs ih => intro a d; rw [memWrite, ih]; rfl
@[simp] theorem memWrite_scr (l : Bytes) : ∀ (a : Nat) (d : Dev), (memWrite a l d).scr = d.scr := by
  induction l with
  | nil => intros; rfl
  | cons b bs ih => intro a d; rw [memWrite, ih]; rfl
@[simp] theorem memWrite_pwr (l : Bytes) : ∀ (a : Nat) (d : Dev), (memWrite a l d).pwr = d.pwr := by
  induction l with
  | nil => intros; rfl
  | cons b bs ih => intro a d; rw [memWrite, ih]; rfl
@[simp] theorem memWrite_tmp (l : Bytes) : ∀ (a : Nat) (d : Dev), (memWrite a l d).tmp = d.tmp := by
  induction l with
  | nil => intros; rfl
  | cons b bs ih => intro a d; rw [memWrite, ih]; rfl
@[simp] theorem memWrite_fab (l : Bytes) : ∀ (a : Nat) (d : Dev), (memWrite a l d).fab = d.fab := by
  induction l with
  | nil => intros; rfl
  | cons b bs ih => intro a d; rw [memWrite, ih]; rfl
@[simp] theorem memWrite_engines (l : Bytes) : ∀ (a : Nat) (d : Dev), (memWrite a l d).engines = d.engines := by
  induction l with
  | nil => intros; rfl
  | cons b bs ih => intro a d; rw [memWrite, ih]; rfl
@[simp] theorem memWrite_king (l : Bytes) : ∀ (a : Nat) (d : Dev), (memWrite a l d).king = d.king := by
  induction l with
  | nil => intros; rfl
  | cons b bs ih => intro a d; rw [memWrite, ih]; rfl
@[simp] theorem memWrite_l2s (l : Bytes) : ∀ (a : Nat) (d : Dev), (memWrite a l d).l2s = d.l2s := by
  induction l with
  | nil => intros; rfl
  | cons b bs ih => intro a d; rw [memWrite, ih]; rfl
@[simp] theorem memWrite_taskRings (l : Bytes) : ∀ (a : Nat) (d : Dev), (memWrite a l d).taskRings = d.taskRings := by
  induction l with
  | nil => intros; rfl
  | cons b bs ih => intro a d; rw [memWrite, ih]; rfl
@[simp] theorem memWrite_cas (l : Bytes) : ∀ (a : Nat) (d : Dev), (memWrite a l d).cas = d.cas := by
  induction l with
  | nil => intros; rfl
  | cons b bs ih => intro a d; rw [memWrite, ih]; rfl
@[simp] theorem memWrite_todo (l : Bytes) : ∀ (a : Nat) (d : Dev), (memWrite a l d).todo = d.todo := by
  induction l with
  | nil => intros; rfl
  | cons b bs ih => intro a d; rw [memWrite, ih]; rfl
@[simp] theorem memWrite_nv (l : Bytes) : ∀ (a : Nat) (d : Dev), (memWrite a l d).nv = d.nv := by
  induction l with
  | nil => intros; rfl
  | cons b bs ih => intro a d; rw [memWrite, ih]; rfl
@[simp] theorem memWrite_sxc (l : Bytes) : ∀ (a : Nat) (d : Dev), (memWrite a l d).sxc = d.sxc := by
  induction l with
  | nil => intros; rfl
  | cons b bs ih => intro a d; rw [memWrite, ih]; rfl
@[simp] theorem memWrite_fwu (l : Bytes) : ∀ (a : Nat) (d : Dev), (memWrite a l d).fwu = d.fwu := by
  induction l with
  | nil => intros; rfl
  | cons b bs ih => intro a d; rw [memWrite, ih]; rfl
@[simp] theorem memWrite_seals (l : Bytes) : ∀ (a : Nat) (d : Dev), (memWrite a l d).seals = d.seals := by
  induction l with
  | nil => intros; rfl
  | cons b bs ih => intro a d; rw [memWrite, ih]; rfl
@[simp] theorem memWrite_accels (l : Bytes) : ∀ (a : Nat) (d : Dev), (memWrite a l d).accels = d.accels := by
  induction l with
  | nil => intros; rfl
  | cons b bs ih => intro a d; rw [memWrite, ih]; rfl
@[simp] theorem memWrite_cmpStreams (l : Bytes) : ∀ (a : Nat) (d : Dev), (memWrite a l d).cmpStreams = d.cmpStreams := by
  induction l with
  | nil => intros; rfl
  | cons b bs ih => intro a d; rw [memWrite, ih]; rfl
@[simp] theorem memWrite_keys (l : Bytes) : ∀ (a : Nat) (d : Dev), (memWrite a l d).keys = d.keys := by
  induction l with
  | nil => intros; rfl
  | cons b bs ih => intro a d; rw [memWrite, ih]; rfl
@[simp] theorem memWrite_fiu (l : Bytes) : ∀ (a : Nat) (d : Dev), (memWrite a l d).fiu = d.fiu := by
  induction l with
  | nil => intros; rfl
  | cons b bs ih => intro a d; rw [memWrite, ih]; rfl
@[simp] theorem memWrite_front (l : Bytes) : ∀ (a : Nat) (d : Dev), (memWrite a l d).front = d.front := by
  induction l with
  | nil => intros; rfl
  | cons b bs ih => intro a d; rw [memWrite, ih]; rfl
@[simp] theorem memWrite_md (l : Bytes) : ∀ (a : Nat) (d : Dev), (memWrite a l d).md = d.md := by
  induction l with
  | nil => intros; rfl
  | cons b bs ih => intro a d; rw [memWrite, ih]; rfl
@[simp] theorem memWrite_stg (l : Bytes) : ∀ (a : Nat) (d : Dev), (memWrite a l d).stg = d.stg := by
  induction l with
  | nil => intros; rfl
  | cons b bs ih => intro a d; rw [memWrite, ih]; rfl
@[simp] theorem memWrite_lanes12 (l : Bytes) : ∀ (a : Nat) (d : Dev), (memWrite a l d).lanes12 = d.lanes12 := by
  induction l with
  | nil => intros; rfl
  | cons b bs ih => intro a d; rw [memWrite, ih]; rfl
@[simp] theorem memWrite_ftl (l : Bytes) : ∀ (a : Nat) (d : Dev), (memWrite a l d).ftl = d.ftl := by
  induction l with
  | nil => intros; rfl
  | cons b bs ih => intro a d; rw [memWrite, ih]; rfl
@[simp] theorem memWrite_outside (l : Bytes) : ∀ (a : Nat) (d : Dev), (memWrite a l d).outside = d.outside := by
  induction l with
  | nil => intros; rfl
  | cons b bs ih => intro a d; rw [memWrite, ih]; rfl
@[simp] theorem memWrite_oimCfg (l : Bytes) : ∀ (a : Nat) (d : Dev), (memWrite a l d).oimCfg = d.oimCfg := by
  induction l with
  | nil => intros; rfl
  | cons b bs ih => intro a d; rw [memWrite, ih]; rfl
@[simp] theorem memWrite_repl (l : Bytes) : ∀ (a : Nat) (d : Dev), (memWrite a l d).repl = d.repl := by
  induction l with
  | nil => intros; rfl
  | cons b bs ih => intro a d; rw [memWrite, ih]; rfl
@[simp] theorem memWrite_cdt (l : Bytes) : ∀ (a : Nat) (d : Dev), (memWrite a l d).cdt = d.cdt := by
  induction l with
  | nil => intros; rfl
  | cons b bs ih => intro a d; rw [memWrite, ih]; rfl

end Sys2Proof.Machine
end

