-- ==== Sys2Proof/Laws/Finish.lean ====
section
/-!
SUPPORT. How every command ends: what the hand-over to the transport and the settling of the interrupt levels can change.
-/

namespace Sys2Proof.Machine

/-- Whatever each turn of a loop keeps, the loop keeps. -/
theorem forEach_keeps {σ α : Type} (P : σ → α) (f : Nat → σ → σ) (h : ∀ n s, P (f n s) = P s) (l : List Nat) :
    ∀ s, P (forEach l f s) = P s := by
  induction l with
  | nil => intro s; rfl
  | cons n r ih => intro s; exact (ih (f n s)).trans (h n s)

/-! ### What the hand-over to the transport can change -/

/-- Only the transport, its counters, free values and further outputs differ. -/
structure SentFrom (d e : Dev) : Prop where
  rest : e = { d with regs := e.regs, free := e.free, out := e.out, cdt := e.cdt }
  regs : ∀ o, o ∉ messageRegs → rdReg o e = rdReg o d
  out : ∃ l, e.out = d.out ++ l

theorem SentFrom.refl (d : Dev) : SentFrom d d := ⟨rfl, fun _ _ => rfl, [], by simp⟩

theorem SentFrom.trans {a b c : Dev} (h : SentFrom a b) (g : SentFrom b c) : SentFrom a c := by
  refine ⟨?_, fun o ho => (g.regs o ho).trans (h.regs o ho), ?_⟩
  · rw [g.rest, h.rest]
  · obtain ⟨l, hl⟩ := h.out
    obtain ⟨m, hm⟩ := g.out
    exact ⟨l ++ m, by rw [hm, hl, List.append_assoc]⟩

theorem SentFrom.wr (f : Field) (v : Nat) (d : Dev) (h : f.off ∈ messageRegs) : SentFrom d (wr f v d) :=
  ⟨rfl, fun o ho => rdReg_wr_off (by rintro rfl; exact ho h) v d, [], by simp⟩

theorem SentFrom.bump (f : Field) (d : Dev) (h : f.off ∈ messageRegs) : SentFrom d (Machine.bump f d) := by
  unfold Machine.bump bumpBy
  split
  · exact .wr f _ d h
  · show SentFrom d (Machine.wr f (drawNat (2 ^ f.width) d).1 (drawNat (2 ^ f.width) d).2)
    exact .trans (b := (drawNat (2 ^ f.width) d).2) ⟨rfl, fun _ _ => rfl, [], by simp [drawNat]⟩ (.wr f _ _ h)

theorem SentFrom.send (o : Out) (d : Dev) : SentFrom d (Machine.send o d) := ⟨rfl, fun _ _ => rfl, [o], rfl⟩

theorem SentFrom.modDst (n : Nat) (f : CdtDst → CdtDst) (d : Dev) : SentFrom d (Machine.modDst n f d) :=
  ⟨rfl, fun _ _ => rfl, [], by simp [Machine.modDst]⟩

theorem SentFrom.modPath (a b : Nat) (f : CdtPath → CdtPath) (d : Dev) : SentFrom d (Machine.modPath a b f d) :=
  ⟨rfl, fun _ _ => rfl, [], by simp [Machine.modPath]⟩

theorem SentFrom.countCluster (a b n : Nat) (d : Dev) : SentFrom d (Machine.countCluster a b n d) := by
  unfold Machine.countCluster
  split
  · exact ⟨rfl, fun _ _ => rfl, [], by simp⟩
  · exact .refl d

theorem SentFrom.emitPkt (a b : Nat) (h : CdtHdr) (p : Bytes) (r : Bool) (d : Dev) :
    SentFrom d (Machine.emitPkt a b h p r d) := by
  unfold Machine.emitPkt
  dsimp only
  refine .trans (.countCluster a b p.length d) ?_
  split
  · exact .trans (.wr Reg.CDT_INJ_ARM 0 _ (by decide)) (.send _ _)
  · exact .send _ _

theorem SentFrom.pumpPath (a b : Nat) : ∀ (n : Nat) (d : Dev), SentFrom d (Machine.pumpPath a b n d) := by
  intro n
  induction n with
  | zero => intro d; exact .refl d
  | succ n ih =>
    intro d
    unfold Machine.pumpPath
    dsimp only
    split
    · exact .refl d
    · split
      · exact .refl d
      · exact .trans (.trans (.modPath _ _ _ d) (.emitPkt _ _ _ _ _ _)) (ih _)

theorem SentFrom.sendPkts (a b : Nat) (l : List CdtPkt) (d : Dev) : SentFrom d (Machine.sendPkts a b l d) :=
  .trans (.modPath _ _ _ d) (.pumpPath _ _ _ _)

theorem SentFrom.openMsg (n : Nat) (m : CdtMsg) (d : Dev) : SentFrom d (Machine.openMsg n m d).2 :=
  .trans (.modDst _ _ d) (.trans (.bump Reg.CDT_SENT_COUNT _ (by decide)) (.bump Reg.CDT_OUT_COUNT _ (by decide)))

/-- A message that no descriptor asked for, ended without a path. -/
theorem SentFrom.endMsg (n : Nat) (m : CdtMsg) (h : m.desc = none) (d : Dev) :
    SentFrom d (Machine.endMsg n m false 6 0 1 0 d) := by
  unfold Machine.endMsg
  simp only [h, Bool.false_eq_true, if_false]
  refine .trans ?_ (.bump Reg.CDT_FAILED_COUNT _ (by decide))
  refine .trans ?_ (.wr Reg.CDT_OUT_COUNT _ _ (by decide))
  exact .modDst _ _ d

theorem SentFrom.createInternal (x : Nat × Nat × Nat × Option Nat) (d : Dev) : SentFrom d (Machine.createInternal x d) := by
  unfold Machine.createInternal
  dsimp only
  split
  · exact .trans (.openMsg _ _ d) (.endMsg _ _ rfl _)
  · exact .trans (.trans (.modDst _ _ d) (.openMsg _ _ _)) (.sendPkts _ _ _ _)

theorem SentFrom.setWaiting (w : List (Nat × Nat × Nat × Option Nat)) (d : Dev) : SentFrom d { d with cdt.waiting := w } :=
  ⟨rfl, fun _ _ => rfl, [], by simp⟩

theorem SentFrom.pumpWaiting : ∀ (n : Nat) (d : Dev), SentFrom d (Machine.pumpWaiting n d) := by
  intro n
  induction n with
  | zero => intro d; exact .refl d
  | succ n ih =>
    intro d
    unfold Machine.pumpWaiting
    dsimp only
    split
    · exact .refl d
    · exact .trans (.trans (.setWaiting _ d) (.createInternal _ _)) (ih _)

/-- What the hand-over to the transport changes. -/
theorem SentFrom.takeMessages (d : Dev) : SentFrom d (Machine.takeMessages d) := by
  unfold Machine.takeMessages
  split
  · exact .refl d
  · dsimp only
    split
    · exact .refl d
    · exact (SentFrom.setWaiting _ d).trans (.pumpWaiting _ _)

/-! ### What settling can change -/

/-- Only the interrupt levels, the pending bits and further MSI-X messages differ. -/
structure SettledFrom (d e : Dev) : Prop where
  rest : e = { d with regs := e.regs, out := e.out, intrSent := e.intrSent }
  regs : ∀ o, o ∉ settleRegs → rdReg o e = rdReg o d
  out : ∃ l, e.out = d.out ++ l

theorem SettledFrom.refl (d : Dev) : SettledFrom d d := ⟨rfl, fun _ _ => rfl, [], by simp⟩

theorem SettledFrom.trans {a b c : Dev} (h : SettledFrom a b) (g : SettledFrom b c) : SettledFrom a c := by
  refine ⟨?_, fun o ho => (g.regs o ho).trans (h.regs o ho), ?_⟩
  · rw [g.rest, h.rest]
  · obtain ⟨l, hl⟩ := h.out
    obtain ⟨m, hm⟩ := g.out
    exact ⟨l ++ m, by rw [hm, hl, List.append_assoc]⟩

theorem SettledFrom.wr (f : Field) (v : Nat) (d : Dev) (h : f.off ∈ settleRegs) : SettledFrom d (Machine.wr f v d) :=
  ⟨rfl, fun o ho => rdReg_wr_off (by rintro rfl; exact ho h) v d, [], by simp⟩

theorem SettledFrom.msixSend (v : Nat) (d : Dev) : SettledFrom d (Machine.msixSend v d) := by
  unfold Machine.msixSend
  split
  · unfold setBit
    split
    · exact .refl d
    · exact .wr msixPba _ d (by decide)
  · exact ⟨rfl, fun _ _ => rfl, [_], rfl⟩

theorem SettledFrom.forEach (f : Nat → Dev → Dev) (h : ∀ n d, SettledFrom d (f n d)) (l : List Nat) :
    ∀ d, SettledFrom d (Machine.forEach l f d) := by
  induction l with
  | nil => intro d; exact .refl d
  | cons n r ih => intro d; exact .trans (h n d) (ih _)

/-- What settling changes. -/
theorem SettledFrom.settle (d : Dev) : SettledFrom d (Machine.settle d) := by
  have h : ∀ n e, SettledFrom e
      (if bitOf (intrLevels d) n && !bitOf e.intrSent n && intrHost n e then Machine.msixSend n e else e) := by
    intro n e; split
    · exact .msixSend n e
    · exact .refl e
  have h1 := SettledFrom.forEach _ h (List.range 64) d
  unfold Machine.settle
  dsimp only
  generalize Machine.forEach _ _ d = e at h1 ⊢
  have h2 : SettledFrom e { e with intrSent := intrLevels d } := ⟨rfl, fun _ _ => rfl, [], by simp⟩
  exact h1.trans (h2.trans (.wr Reg.GLB_INTR_STAT_LEVEL _ _ (by decide)))

/-! ### The end of a command that owes no reaction -/

/-- What the end of a command changes when it owes no reaction: the transport, its counters, free values, further outputs,
the interrupt levels and the pending bits. -/
structure EndedFrom (d e : Dev) : Prop where
  rest : e = { d with regs := e.regs, free := e.free, out := e.out, intrSent := e.intrSent, cdt := e.cdt }
  regs : ∀ o, o ∉ ambientRegs → rdReg o e = rdReg o d
  out : ∃ l, e.out = d.out ++ l

theorem EndedFrom.finish (d : Dev) (h : d.todo = []) : EndedFrom d (Machine.finish d) := by
  have hd : drain 4096 d = d := by unfold drain; rw [h]
  have hs : SentFrom d (if d.live then takeMessages d else d) := by
    split
    · exact .takeMessages d
    · exact .refl d
  unfold Machine.finish
  rw [hd]
  dsimp only
  generalize (if d.live then takeMessages d else d) = e at hs ⊢
  have he : { e with todo := [] } = e := by
    have : e.todo = [] := by rw [hs.rest]; exact h
    cases e; simp_all
  have hg := SettledFrom.settle e
  refine ⟨?_, ?_, ?_⟩
  · rw [he, hg.rest, hs.rest]
  · intro o ho
    simp only [ambientRegs, List.mem_append, not_or] at ho
    rw [he]
    exact (hg.regs o ho.2).trans (hs.regs o ho.1)
  · obtain ⟨l, hl⟩ := hs.out
    obtain ⟨m, hm⟩ := hg.out
    exact ⟨l ++ m, by rw [he, hm, hl, List.append_assoc]⟩

variable {d e : Dev}

theorem EndedFrom.mem (h : EndedFrom d e) : e.mem = d.mem := by rw [h.rest]
theorem EndedFrom.pins (h : EndedFrom d e) : e.pins = d.pins := by rw [h.rest]
theorem EndedFrom.flt (h : EndedFrom d e) : e.flt = d.flt := by rw [h.rest]
theorem EndedFrom.scr (h : EndedFrom d e) : e.scr = d.scr := by rw [h.rest]
theorem EndedFrom.pwr (h : EndedFrom d e) : e.pwr = d.pwr := by rw [h.rest]
theorem EndedFrom.tmp (h : EndedFrom d e) : e.tmp = d.tmp := by rw [h.rest]
theorem EndedFrom.fab (h : EndedFrom d e) : e.fab = d.fab := by rw [h.rest]
theorem EndedFrom.engines (h : EndedFrom d e) : e.engines = d.engines := by rw [h.rest]
theorem EndedFrom.king (h : EndedFrom d e) : e.king = d.king := by rw [h.rest]
theorem EndedFrom.l2s (h : EndedFrom d e) : e.l2s = d.l2s := by rw [h.rest]
theorem EndedFrom.taskRings (h : EndedFrom d e) : e.taskRings = d.taskRings := by rw [h.rest]
theorem EndedFrom.cas (h : EndedFrom d e) : e.cas = d.cas := by rw [h.rest]
theorem EndedFrom.todo (h : EndedFrom d e) : e.todo = d.todo := by rw [h.rest]
theorem EndedFrom.nv (h : EndedFrom d e) : e.nv = d.nv := by rw [h.rest]
theorem EndedFrom.sxc (h : EndedFrom d e) : e.sxc = d.sxc := by rw [h.rest]
theorem EndedFrom.fwu (h : EndedFrom d e) : e.fwu = d.fwu := by rw [h.rest]
theorem EndedFrom.seals (h : EndedFrom d e) : e.seals = d.seals := by rw [h.rest]
theorem EndedFrom.accels (h : EndedFrom d e) : e.accels = d.accels := by rw [h.rest]
theorem EndedFrom.cmpStreams (h : EndedFrom d e) : e.cmpStreams = d.cmpStreams := by rw [h.rest]
theorem EndedFrom.keys (h : EndedFrom d e) : e.keys = d.keys := by rw [h.rest]
theorem EndedFrom.fiu (h : EndedFrom d e) : e.fiu = d.fiu := by rw [h.rest]
theorem EndedFrom.front (h : EndedFrom d e) : e.front = d.front := by rw [h.rest]
theorem EndedFrom.md (h : EndedFrom d e) : e.md = d.md := by rw [h.rest]
theorem EndedFrom.stg (h : EndedFrom d e) : e.stg = d.stg := by rw [h.rest]
theorem EndedFrom.lanes12 (h : EndedFrom d e) : e.lanes12 = d.lanes12 := by rw [h.rest]
theorem EndedFrom.ftl (h : EndedFrom d e) : e.ftl = d.ftl := by rw [h.rest]
theorem EndedFrom.outside (h : EndedFrom d e) : e.outside = d.outside := by rw [h.rest]
theorem EndedFrom.oimCfg (h : EndedFrom d e) : e.oimCfg = d.oimCfg := by rw [h.rest]
theorem EndedFrom.repl (h : EndedFrom d e) : e.repl = d.repl := by rw [h.rest]

theorem EndedFrom.rdReg {o : Nat} (h : EndedFrom d e) (ho : o ∉ ambientRegs) : Machine.rdReg o e = Machine.rdReg o d := h.regs o ho

theorem EndedFrom.rd {f : Field} (h : EndedFrom d e) (ho : f.off ∉ ambientRegs) : Machine.rd f e = Machine.rd f d := by
  have := h.regs f.off ho
  simp only [Machine.rdReg] at this
  simp only [Machine.rd, this]

theorem EndedFrom.mem_out {o : Out} (h : EndedFrom d e) (ho : o ∈ d.out) : o ∈ e.out := by
  obtain ⟨l, hl⟩ := h.out
  rw [hl]; exact List.mem_append_left _ ho

/-! ### The frame of a command -/

@[simp] theorem quiet_regs (d : Dev) : d.quiet.regs = d.regs := rfl
@[simp] theorem quiet_mem (d : Dev) : d.quiet.mem = d.mem := rfl
@[simp] theorem quiet_free (d : Dev) : d.quiet.free = d.free := rfl
@[simp] theorem quiet_intrSent (d : Dev) : d.quiet.intrSent = d.intrSent := rfl
@[simp] theorem quiet_pins (d : Dev) : d.quiet.pins = d.pins := rfl
@[simp] theorem quiet_flt (d : Dev) : d.quiet.flt = d.flt := rfl
@[simp] theorem quiet_scr (d : Dev) : d.quiet.scr = d.scr := rfl
@[simp] theorem quiet_pwr (d : Dev) : d.quiet.pwr = d.pwr := rfl
@[simp] theorem quiet_tmp (d : Dev) : d.quiet.tmp = d.tmp := rfl
@[simp] theorem quiet_fab (d : Dev) : d.quiet.fab = d.fab := rfl
@[simp] theorem quiet_engines (d : Dev) : d.quiet.engines = d.engines := rfl
@[simp] theorem quiet_king (d : Dev) : d.quiet.king = d.king := rfl
@[simp] theorem quiet_l2s (d : Dev) : d.quiet.l2s = d.l2s := rfl
@[simp] theorem quiet_taskRings (d : Dev) : d.quiet.taskRings = d.taskRings := rfl
@[simp] theorem quiet_cas (d : Dev) : d.quiet.cas = d.cas := rfl
@[simp] theorem quiet_todo (d : Dev) : d.quiet.todo = d.todo := rfl
@[simp] theorem quiet_nv (d : Dev) : d.quiet.nv = d.nv := rfl
@[simp] theorem quiet_sxc (d : Dev) : d.quiet.sxc = d.sxc := rfl
@[simp] theorem quiet_fwu (d : Dev) : d.quiet.fwu = d.fwu := rfl
@[simp] theorem quiet_seals (d : Dev) : d.quiet.seals = d.seals := rfl
@[simp] theorem quiet_accels (d : Dev) : d.quiet.accels = d.accels := rfl
@[simp] theorem quiet_cmpStreams (d : Dev) : d.quiet.cmpStreams = d.cmpStreams := rfl
@[simp] theorem quiet_keys (d : Dev) : d.quiet.keys = d.keys := rfl
@[simp] theorem quiet_fiu (d : Dev) : d.quiet.fiu = d.fiu := rfl
@[simp] theorem quiet_front (d : Dev) : d.quiet.front = d.front := rfl
@[simp] theorem quiet_md (d : Dev) : d.quiet.md = d.md := rfl
@[simp] theorem quiet_stg (d : Dev) : d.quiet.stg = d.stg := rfl
@[simp] theorem quiet_lanes12 (d : Dev) : d.quiet.lanes12 = d.lanes12 := rfl
@[simp] theorem quiet_ftl (d : Dev) : d.quiet.ftl = d.ftl := rfl
@[simp] theorem quiet_outside (d : Dev) : d.quiet.outside = d.outside := rfl
@[simp] theorem quiet_oimCfg (d : Dev) : d.quiet.oimCfg = d.oimCfg := rfl
@[simp] theorem quiet_repl (d : Dev) : d.quiet.repl = d.repl := rfl
@[simp] theorem quiet_cdt (d : Dev) : d.quiet.cdt = d.cdt := rfl
@[simp] theorem quiet_out (d : Dev) : d.quiet.out = [] := rfl
@[simp] theorem quiet_rd (f : Field) (d : Dev) : Machine.rd f d.quiet = Machine.rd f d := rfl
@[simp] theorem quiet_rdReg (o : Nat) (d : Dev) : Machine.rdReg o d.quiet = Machine.rdReg o d := rfl
@[simp] theorem quiet_memByte (a : Nat) (d : Dev) : memByte d.quiet a = memByte d a := rfl
@[simp] theorem quiet_live (d : Dev) : d.quiet.live = d.live := rfl

theorem run_eq (f : Dev → Dev) (s : State) : run f s = .next ⟨finish (f s.dev.quiet), s.pending⟩ := rfl

theorem runLive_eq (f : Dev → Dev) (s : State) (h : s.dev.live = true) :
    runLive f s = .next ⟨finish (f s.dev.quiet), s.pending⟩ := by
  simp [runLive, run, h]

theorem runLive_dead (f : Dev → Dev) (s : State) (h : s.dev.live = false) :
    runLive f s = .next ⟨finish s.dev.quiet, s.pending⟩ := by
  simp [runLive, run, h]

/-- A command that runs and owes no reaction carries out what its effect and the end of a command leave. -/
theorem answers_run {c : Instr} {s : State} {f : Dev → Dev} {P : Dev → Prop} (hx : exec c s = run f s)
    (ht : (f s.dev.quiet).todo = []) (hp : ∀ e, EndedFrom (f s.dev.quiet) e → P e) : Answers c s P :=
  ⟨⟨finish (f s.dev.quiet), s.pending⟩, hx, rfl, hp _ (EndedFrom.finish _ ht)⟩

/-- The same for a command of a live device. -/
theorem answers_live {c : Instr} {s : State} {f : Dev → Dev} {P : Dev → Prop} (hx : exec c s = runLive f s)
    (h : s.dev.live = true) (ht : (f s.dev.quiet).todo = []) (hp : ∀ e, EndedFrom (f s.dev.quiet) e → P e) :
    Answers c s P :=
  ⟨⟨finish (f s.dev.quiet), s.pending⟩, hx.trans (runLive_eq f s h), rfl, hp _ (EndedFrom.finish _ ht)⟩

end Sys2Proof.Machine
end

