-- ==== Sys2Proof/Laws/Exec.lean ====
section
/-!
SUPPORT. Every command is a run of one effect on the device: it answers a next state and leaves the queue.
-/

namespace Sys2Proof.Machine

/-- An outcome is a run of some effect on the device. -/
def IsRun (o : Host.Outcome State Fault Refusal) (s : State) : Prop := ∃ f : Dev → Dev, o = run f s

theorem isRun_run (f : Dev → Dev) (s : State) : IsRun (run f s) s := ⟨f, rfl⟩
theorem isRun_runLive (f : Dev → Dev) (s : State) : IsRun (runLive f s) s := ⟨_, rfl⟩

theorem execPowerGood_isRun (s : State) : IsRun (execPowerGood s) s :=
  isRun_run _ s
theorem execPowerGoodLost_isRun (s : State) : IsRun (execPowerGoodLost s) s :=
  isRun_run _ s
theorem execResetNAssert_isRun (lowNs : Nat) (s : State) : IsRun (execResetNAssert lowNs s) s :=
  isRun_run _ s
theorem execPerstNAssert_isRun (s : State) : IsRun (execPerstNAssert s) s :=
  isRun_run _ s
theorem execVinRemoved_isRun (s : State) : IsRun (execVinRemoved s) s :=
  isRun_run _ s
theorem execStartUp_isRun (b : BootSample) (s : State) : IsRun (execStartUp b s) s :=
  isRun_runLive _ s
theorem execBootRecordWrite_isRun (good : Bool) (s : State) : IsRun (execBootRecordWrite good s) s :=
  isRun_runLive _ s
theorem execTempoEdge_isRun (e : EdgeSample) (s : State) : IsRun (execTempoEdge e s) s :=
  isRun_run _ s
theorem execCreditResyncDone_isRun (unit : Nat) (cls : Fin 4) (occupied returns : Nat) (s : State) : IsRun (execCreditResyncDone unit cls occupied returns s) s :=
  isRun_runLive _ s
theorem execAccelSliceBudgetEnd_isRun (k : Fin 4) (lane : Fin 16) (s : State) : IsRun (execAccelSliceBudgetEnd k lane s) s :=
  isRun_runLive _ s
theorem execPeriodicAlignExchange_isRun (t1 : BitVec 96) (s : State) : IsRun (execPeriodicAlignExchange t1 s) s :=
  isRun_runLive _ s
theorem execAlignExchangeMissed_isRun (s : State) : IsRun (execAlignExchangeMissed s) s :=
  isRun_runLive _ s
theorem execBeaconSend_isRun (s : State) : IsRun (execBeaconSend s) s :=
  isRun_runLive _ s
theorem execHeartbeatSend_isRun (s : State) : IsRun (execHeartbeatSend s) s :=
  isRun_runLive _ s
theorem execDigestSend_isRun (s : State) : IsRun (execDigestSend s) s :=
  isRun_runLive _ s
theorem execPpsOutWidthEnd_isRun (ms : Nat) (s : State) : IsRun (execPpsOutWidthEnd ms s) s :=
  isRun_runLive _ s
theorem execPpsInEdge_isRun (cyc : Nat) (s : State) : IsRun (execPpsInEdge cyc s) s :=
  isRun_runLive _ s
theorem execTmpSnapTake_isRun (cyc : Nat) (s : State) : IsRun (execTmpSnapTake cyc s) s :=
  isRun_runLive _ s
theorem execTempoStep_isRun (cyc : Nat) (s : State) : IsRun (execTempoStep cyc s) s :=
  isRun_runLive _ s
theorem execTmpFadjWrite_isRun (v : BitVec 32) (cyc : Nat) (s : State) : IsRun (execTmpFadjWrite v cyc s) s :=
  isRun_runLive _ s
theorem execTmpPadjWrite_isRun (v : BitVec 32) (cyc : Nat) (s : State) : IsRun (execTmpPadjWrite v cyc s) s :=
  isRun_runLive _ s
theorem execOffsetSample_isRun (v : BitVec 32) (cyc : Nat) (s : State) : IsRun (execOffsetSample v cyc s) s :=
  isRun_runLive _ s
theorem execOffsetSampleTimeout_isRun (cyc : Nat) (s : State) : IsRun (execOffsetSampleTimeout cyc s) s :=
  isRun_runLive _ s
theorem execTransferRequest_isRun (target : Fin 61) (port : Fin 120) (write : Bool) (qos : Fin 4) (addr : Nat) (same line : Bool) (buffer : List Byte) (s : State) : IsRun (execTransferRequest target port write qos addr same line buffer s) s :=
  isRun_runLive _ s
theorem execArbiterGrant_isRun (target : Fin 61) (err : BitVec 76) (accepted : Bool) (s : State) : IsRun (execArbiterGrant target err accepted s) s :=
  isRun_runLive _ s
theorem execRequestAgeRaise_isRun (target : Fin 61) (order : Nat) (s : State) : IsRun (execRequestAgeRaise target order s) s :=
  isRun_runLive _ s
theorem execWriteDataArrive_isRun (target : Fin 61) (port : Fin 120) (data : List Byte) (s : State) : IsRun (execWriteDataArrive target port data s) s :=
  isRun_runLive _ s
theorem execGrantCutOff_isRun (target : Fin 61) (port : Fin 120) (s : State) : IsRun (execGrantCutOff target port s) s :=
  isRun_runLive _ s
theorem execLateDatDiscard_isRun (target : Fin 61) (port : Fin 120) (s : State) : IsRun (execLateDatDiscard target port s) s :=
  isRun_runLive _ s
theorem execCutNoticeReceive_isRun (e : Fin 64) (addr : Nat) (s : State) : IsRun (execCutNoticeReceive e addr s) s :=
  isRun_runLive _ s
theorem execPoolScrubLine_isRun (bank : Fin 48) (word : Fin 8) (err : BitVec 76) (s : State) : IsRun (execPoolScrubLine bank word err s) s :=
  isRun_runLive _ s
theorem execFabInjArm_isRun (s : State) : IsRun (execFabInjArm s) s :=
  isRun_runLive _ s
theorem execBufferLedgerAudit_isRun (poolErr missErr : List Int) (s : State) : IsRun (execBufferLedgerAudit poolErr missErr s) s :=
  isRun_runLive _ s
theorem execEngineTakeSlice_isRun (e : Fin 64) (s : State) : IsRun (execEngineTakeSlice e s) s :=
  isRun_runLive _ s
theorem execEngineInstruction_isRun (e : Fin 65) (checker : Bool) (cyc : Nat) (full : Bool) (err : BitVec 76) (cut : Bool) (other : Option (Nat × BitVec 64)) (s : State) : IsRun (execEngineInstruction e checker cyc full err cut other s) s :=
  isRun_runLive _ s
theorem execEngineLoadStore_isRun (e : Fin 65) (kind : MemKind) (reg : Fin 32) (addr : Nat) (sizeLog : Fin 4) (signed : Bool) (err : BitVec 76) (cut : Bool) (other : Option (Nat × BitVec 64)) (s : State) : IsRun (execEngineLoadStore e kind reg addr sizeLog signed err cut other s) s :=
  isRun_runLive _ s
theorem execQdoor_isRun (e : Fin 65) (rd rs1 rs2 : Fin 32) (cut : Bool) (s : State) : IsRun (execQdoor e rd rs1 rs2 cut s) s :=
  isRun_runLive _ s
theorem execQprobe_isRun (e : Fin 65) (rd rs1 : Fin 32) (full : Bool) (s : State) : IsRun (execQprobe e rd rs1 full s) s :=
  isRun_runLive _ s
theorem execQcas128_isRun (e : Fin 65) (rd rs1 rs2 : Fin 32) (s : State) : IsRun (execQcas128 e rd rs1 rs2 s) s :=
  isRun_runLive _ s
theorem execQcrc64_isRun (e : Fin 65) (rd rs1 rs2 : Fin 32) (len : Fin 4) (s : State) : IsRun (execQcrc64 e rd rs1 rs2 len s) s :=
  isRun_runLive _ s
theorem execQtempoSnapshot_isRun (e : Fin 65) (rd : Fin 32) (cyc : Nat) (s : State) : IsRun (execQtempoSnapshot e rd cyc s) s :=
  isRun_runLive _ s
theorem execQtempoSeconds_isRun (e : Fin 65) (rd : Fin 32) (s : State) : IsRun (execQtempoSeconds e rd s) s :=
  isRun_runLive _ s
theorem execQtempoNanoseconds_isRun (e : Fin 65) (rd : Fin 32) (s : State) : IsRun (execQtempoNanoseconds e rd s) s :=
  isRun_runLive _ s
theorem execQtempoCyclesToEdge_isRun (e : Fin 65) (rd : Fin 32) (cyc : Nat) (s : State) : IsRun (execQtempoCyclesToEdge e rd cyc s) s :=
  isRun_runLive _ s
theorem execQptokRequest_isRun (e : Fin 65) (rd rs1 : Fin 32) (s : State) : IsRun (execQptokRequest e rd rs1 s) s :=
  isRun_runLive _ s
theorem execQptokQuery_isRun (e : Fin 65) (rd : Fin 32) (s : State) : IsRun (execQptokQuery e rd s) s :=
  isRun_runLive _ s
theorem execQyieldComplete_isRun (e : Fin 65) (s : State) : IsRun (execQyieldComplete e s) s :=
  isRun_runLive _ s
theorem execQyieldDefer_isRun (e : Fin 65) (s : State) : IsRun (execQyieldDefer e s) s :=
  isRun_runLive _ s
theorem execKingMismatch_isRun (flag0 flag1 : Bool) (gap : Nat) (err : BitVec 76) (s : State) : IsRun (execKingMismatch flag0 flag1 gap err s) s :=
  isRun_runLive _ s
theorem execKingSelfTestDone_isRun (pass0 pass1 : Bool) (gap : Nat) (err : BitVec 76) (s : State) : IsRun (execKingSelfTestDone pass0 pass1 gap err s) s :=
  isRun_runLive _ s
theorem execRangeWriteback_isRun (cl : Fin 8) (s : State) : IsRun (execRangeWriteback cl s) s :=
  isRun_runLive _ s
theorem execRangeInvalidate_isRun (cl : Fin 8) (s : State) : IsRun (execRangeInvalidate cl s) s :=
  isRun_runLive _ s
theorem execRangePreload_isRun (cl : Fin 8) (way : Fin 16) (s : State) : IsRun (execRangePreload cl way s) s :=
  isRun_runLive _ s
theorem execRangeOpDone_isRun (cl : Fin 8) (s : State) : IsRun (execRangeOpDone cl s) s :=
  isRun_runLive _ s
theorem execL2LockWrite_isRun (cl : Fin 8) (mask : BitVec 16) (s : State) : IsRun (execL2LockWrite cl mask s) s :=
  isRun_runLive _ s
theorem execL2DrainStart_isRun (cl : Fin 8) (s : State) : IsRun (execL2DrainStart cl s) s :=
  isRun_runLive _ s
theorem execL2DrainDone_isRun (cl : Fin 8) (errs : List (Nat × BitVec 76)) (s : State) : IsRun (execL2DrainDone cl errs s) s :=
  isRun_runLive _ s
theorem execL2Enable_isRun (cl : Fin 8) (s : State) : IsRun (execL2Enable cl s) s :=
  isRun_runLive _ s
theorem execHostFrameReceive_isRun (p : Fin 32) (f : HostFrame) (s : State) : IsRun (execHostFrameReceive p f s) s :=
  isRun_runLive _ s
theorem execContextFetchDone_isRun (c : Fin 262144) (s : State) : IsRun (execContextFetchDone c s) s :=
  isRun_runLive _ s
theorem execContextFetchSlow_isRun (c : Fin 262144) (s : State) : IsRun (execContextFetchSlow c s) s :=
  isRun_runLive _ s
theorem execPfcPauseRefresh_isRun (p : Fin 32) (s : State) : IsRun (execPfcPauseRefresh p s) s :=
  isRun_runLive _ s
theorem execCnpReceive_isRun (c : Fin 262144) (s : State) : IsRun (execCnpReceive c s) s :=
  isRun_runLive _ s
theorem execRateRaise_isRun (s : State) : IsRun (execRateRaise s) s :=
  isRun_runLive _ s
theorem execHostLinkRetrain_isRun (p : Fin 32) (s : State) : IsRun (execHostLinkRetrain p s) s :=
  isRun_runLive _ s
theorem execFabricsConnect_isRun (r : ConnectReq) (s : State) : IsRun (execFabricsConnect r s) s :=
  isRun_runLive _ s
theorem execFabricsDisconnect_isRun (c : HostCmd) (s : State) : IsRun (execFabricsDisconnect c s) s :=
  isRun_runLive _ s
theorem execPropertyGet_isRun (c : HostCmd) (s : State) : IsRun (execPropertyGet c s) s :=
  isRun_runLive _ s
theorem execPropertySet_isRun (c : HostCmd) (s : State) : IsRun (execPropertySet c s) s :=
  isRun_runLive _ s
theorem execIdentify_isRun (c : HostCmd) (s : State) : IsRun (execIdentify c s) s :=
  isRun_runLive _ s
theorem execGetLogPage_isRun (c : HostCmd) (s : State) : IsRun (execGetLogPage c s) s :=
  isRun_runLive _ s
theorem execSetFeatures_isRun (c : HostCmd) (s : State) : IsRun (execSetFeatures c s) s :=
  isRun_runLive _ s
theorem execGetFeatures_isRun (c : HostCmd) (s : State) : IsRun (execGetFeatures c s) s :=
  isRun_runLive _ s
theorem execAsyncEventRequest_isRun (c : HostCmd) (s : State) : IsRun (execAsyncEventRequest c s) s :=
  isRun_runLive _ s
theorem execKeepAlive_isRun (c : HostCmd) (s : State) : IsRun (execKeepAlive c s) s :=
  isRun_runLive _ s
theorem execKeepAliveExpire_isRun (cntlid : Fin 65536) (ms : Nat) (s : State) : IsRun (execKeepAliveExpire cntlid ms s) s :=
  isRun_runLive _ s
theorem execAbort_isRun (c : HostCmd) (s : State) : IsRun (execAbort c s) s :=
  isRun_runLive _ s
theorem execNamespaceManagement_isRun (c : HostCmd) (s : State) : IsRun (execNamespaceManagement c s) s :=
  isRun_runLive _ s
theorem execNamespaceAttachment_isRun (c : HostCmd) (s : State) : IsRun (execNamespaceAttachment c s) s :=
  isRun_runLive _ s
theorem execFirmwareImageDownload_isRun (c : HostCmd) (s : State) : IsRun (execFirmwareImageDownload c s) s :=
  isRun_runLive _ s
theorem execFirmwareCommitSlot_isRun (c : HostCmd) (s : State) : IsRun (execFirmwareCommitSlot c s) s :=
  isRun_runLive _ s
theorem execFirmwareCommitSlotNext_isRun (c : HostCmd) (s : State) : IsRun (execFirmwareCommitSlotNext c s) s :=
  isRun_runLive _ s
theorem execFirmwareCommitNext_isRun (c : HostCmd) (s : State) : IsRun (execFirmwareCommitNext c s) s :=
  isRun_runLive _ s
theorem execFirmwareCommitActivate_isRun (c : HostCmd) (s : State) : IsRun (execFirmwareCommitActivate c s) s :=
  isRun_runLive _ s
theorem execActivationIdleDeadline_isRun (s : State) : IsRun (execActivationIdleDeadline s) s :=
  isRun_runLive _ s
theorem execActivationRelease_isRun (tenthsMs : Nat) (s : State) : IsRun (execActivationRelease tenthsMs s) s :=
  isRun_runLive _ s
theorem execNvmeRead_isRun (c : HostCmd) (s : State) : IsRun (execNvmeRead c s) s :=
  isRun_runLive _ s
theorem execNvmeWrite_isRun (c : HostCmd) (s : State) : IsRun (execNvmeWrite c s) s :=
  isRun_runLive _ s
theorem execNvmeCompare_isRun (c : HostCmd) (s : State) : IsRun (execNvmeCompare c s) s :=
  isRun_runLive _ s
theorem execNvmeVerify_isRun (c : HostCmd) (s : State) : IsRun (execNvmeVerify c s) s :=
  isRun_runLive _ s
theorem execWriteZeroes_isRun (c : HostCmd) (s : State) : IsRun (execWriteZeroes c s) s :=
  isRun_runLive _ s
theorem execFlush_isRun (c : HostCmd) (s : State) : IsRun (execFlush c s) s :=
  isRun_runLive _ s
theorem execDatasetManagement_isRun (c : HostCmd) (s : State) : IsRun (execDatasetManagement c s) s :=
  isRun_runLive _ s
theorem execReservationRegister_isRun (c : HostCmd) (s : State) : IsRun (execReservationRegister c s) s :=
  isRun_runLive _ s
theorem execReservationReport_isRun (c : HostCmd) (s : State) : IsRun (execReservationReport c s) s :=
  isRun_runLive _ s
theorem execReservationAcquire_isRun (c : HostCmd) (s : State) : IsRun (execReservationAcquire c s) s :=
  isRun_runLive _ s
theorem execReservationRelease_isRun (c : HostCmd) (s : State) : IsRun (execReservationRelease c s) s :=
  isRun_runLive _ s
theorem execCommandRecordWait_isRun (s : State) : IsRun (execCommandRecordWait s) s :=
  isRun_runLive _ s
theorem execSlotAdmitWait_isRun (s : State) : IsRun (execSlotAdmitWait s) s :=
  isRun_runLive _ s
theorem execWriteDataLand_isRun (rec : Fin 1048576) (i : Nat) (data : List Byte) (s : State) : IsRun (execWriteDataLand rec i data s) s :=
  isRun_runLive _ s
theorem execMirrorAck_isRun (item : MirrorItem) (s : State) : IsRun (execMirrorAck item s) s :=
  isRun_runLive _ s
theorem execMirrorWriteFailed_isRun (item : MirrorItem) (port : Fin 4) (s : State) : IsRun (execMirrorWriteFailed item port s) s :=
  isRun_runLive _ s
theorem execCompletionDelivered_isRun (rec : Fin 1048576) (s : State) : IsRun (execCompletionDelivered rec s) s :=
  isRun_runLive _ s
theorem execTransportConnectionLoss_isRun (c : Fin 262144) (s : State) : IsRun (execTransportConnectionLoss c s) s :=
  isRun_runLive _ s
theorem execReductionTakeSlot_isRun (e : Fin 64) (bad : BitVec 16) (copy : Option (List Byte)) (s : State) : IsRun (execReductionTakeSlot e bad copy s) s :=
  isRun_runLive _ s
theorem execMergeReadResult_isRun (slot : Nat) (s : State) : IsRun (execMergeReadResult slot s) s :=
  isRun_runLive _ s
theorem execFingerprintResult_isRun (slot : Nat) (ending : JobEnd) (s : State) : IsRun (execFingerprintResult slot ending s) s :=
  isRun_runLive _ s
theorem execIndexDecision_isRun (slot : Nat) (s : State) : IsRun (execIndexDecision slot s) s :=
  isRun_runLive _ s
theorem execReferenceAddResult_isRun (who : AddFor) (old : Option (BitVec 64)) (s : State) : IsRun (execReferenceAddResult who old s) s :=
  isRun_runLive _ s
theorem execFramePlacement_isRun (slot : Nat) (compress cipher : JobEnd) (s : State) : IsRun (execFramePlacement slot compress cipher s) s :=
  isRun_runLive _ s
theorem execRowAgeExpire_isRun (row : Nat) (s : State) : IsRun (execRowAgeExpire row s) s :=
  isRun_runLive _ s
theorem execRowProgramIssue_isRun (row : Nat) (parity : JobEnd) (s : State) : IsRun (execRowProgramIssue row parity s) s :=
  isRun_runLive _ s
theorem execRowProgrammed_isRun (row : Nat) (s : State) : IsRun (execRowProgrammed row s) s :=
  isRun_runLive _ s
theorem execRowProgramFail_isRun (row : Nat) (s : State) : IsRun (execRowProgramFail row s) s :=
  isRun_runLive _ s
theorem execFramelessTransaction_isRun (e : Fin 64) (s : State) : IsRun (execFramelessTransaction e s) s :=
  isRun_runLive _ s
theorem execTransactionCommit_isRun (tsn : Nat) (s : State) : IsRun (execTransactionCommit tsn s) s :=
  isRun_runLive _ s
theorem execPeerRecordApply_isRun (s : State) : IsRun (execPeerRecordApply s) s :=
  isRun_runLive _ s
theorem execForeignReleaseDone_isRun (gid tsn : Nat) (s : State) : IsRun (execForeignReleaseDone gid tsn s) s :=
  isRun_runLive _ s
theorem execFiuProbe_isRun (s : State) : IsRun (execFiuProbe s) s :=
  isRun_runLive _ s
theorem execIndexProbeReceive_isRun (dev : Fin 8) (fp : List Byte) (kdom : Fin 4096) (tag : Nat) (s : State) : IsRun (execIndexProbeReceive dev fp kdom tag s) s :=
  isRun_runLive _ s
theorem execIndexReplyReceive_isRun (tag : Nat) (r : Option IndexReply) (s : State) : IsRun (execIndexReplyReceive tag r s) s :=
  isRun_runLive _ s
theorem execProbeTimeout_isRun (tag : Nat) (s : State) : IsRun (execProbeTimeout tag s) s :=
  isRun_runLive _ s
theorem execWrongOwnerRetry_isRun (tag : Nat) (s : State) : IsRun (execWrongOwnerRetry tag s) s :=
  isRun_runLive _ s
theorem execFiuInsert_isRun (ring : Fin 9) (far : FiuReport) (s : State) : IsRun (execFiuInsert ring far s) s :=
  isRun_runLive _ s
theorem execFiuRemove_isRun (ring : Fin 9) (far : FiuReport) (s : State) : IsRun (execFiuRemove ring far s) s :=
  isRun_runLive _ s
theorem execFilterRebuildDone_isRun (s : State) : IsRun (execFilterRebuildDone s) s :=
  isRun_runLive _ s
theorem execFiuOwnApplyWrite_isRun (v : BitVec 64) (s : State) : IsRun (execFiuOwnApplyWrite v s) s :=
  isRun_runLive _ s
theorem execPinDrop_isRun (gid : Nat) (s : State) : IsRun (execPinDrop gid s) s :=
  isRun_runLive _ s
theorem execOwnerScrub_isRun (dead : List Nat) (s : State) : IsRun (execOwnerScrub dead s) s :=
  isRun_runLive _ s
theorem execRefAuditCompare_isRun (others : List (Nat × Nat)) (doubtful : List Nat) (s : State) : IsRun (execRefAuditCompare others doubtful s) s :=
  isRun_runLive _ s
theorem execCompressOneshot_isRun (lane : Fin 16) (cut self : Bool) (s : State) : IsRun (execCompressOneshot lane cut self s) s :=
  isRun_runLive _ s
theorem execCompressStart_isRun (lane : Fin 16) (cut self : Bool) (s : State) : IsRun (execCompressStart lane cut self s) s :=
  isRun_runLive _ s
theorem execCompressContinue_isRun (lane : Fin 16) (cut self : Bool) (s : State) : IsRun (execCompressContinue lane cut self s) s :=
  isRun_runLive _ s
theorem execDecompress_isRun (lane : Fin 16) (cut self : Bool) (s : State) : IsRun (execDecompress lane cut self s) s :=
  isRun_runLive _ s
theorem execDigestSha256_isRun (pipe : Fin 2) (cut self : Bool) (s : State) : IsRun (execDigestSha256 pipe cut self s) s :=
  isRun_runLive _ s
theorem execDigestSha384_isRun (pipe : Fin 2) (cut self : Bool) (s : State) : IsRun (execDigestSha384 pipe cut self s) s :=
  isRun_runLive _ s
theorem execDigestSha512_isRun (pipe : Fin 2) (cut self : Bool) (s : State) : IsRun (execDigestSha512 pipe cut self s) s :=
  isRun_runLive _ s
theorem execDigestSha3256_isRun (pipe : Fin 2) (cut self : Bool) (s : State) : IsRun (execDigestSha3256 pipe cut self s) s :=
  isRun_runLive _ s
theorem execDigestHmacSha256_isRun (pipe : Fin 2) (cut self : Bool) (s : State) : IsRun (execDigestHmacSha256 pipe cut self s) s :=
  isRun_runLive _ s
theorem execDigestHmacSha384_isRun (pipe : Fin 2) (cut self : Bool) (s : State) : IsRun (execDigestHmacSha384 pipe cut self s) s :=
  isRun_runLive _ s
theorem execDigestHmacSha512_isRun (pipe : Fin 2) (cut self : Bool) (s : State) : IsRun (execDigestHmacSha512 pipe cut self s) s :=
  isRun_runLive _ s
theorem execDigestSha256Crc64_isRun (pipe : Fin 2) (cut self : Bool) (s : State) : IsRun (execDigestSha256Crc64 pipe cut self s) s :=
  isRun_runLive _ s
theorem execCipherCbc_isRun (lane : Fin 12) (cut self : Bool) (s : State) : IsRun (execCipherCbc lane cut self s) s :=
  isRun_runLive _ s
theorem execCipherCfb128_isRun (lane : Fin 12) (cut self : Bool) (s : State) : IsRun (execCipherCfb128 lane cut self s) s :=
  isRun_runLive _ s
theorem execCipherOfb_isRun (lane : Fin 12) (cut self : Bool) (s : State) : IsRun (execCipherOfb lane cut self s) s :=
  isRun_runLive _ s
theorem execCipherCtr_isRun (lane : Fin 12) (cut self : Bool) (s : State) : IsRun (execCipherCtr lane cut self s) s :=
  isRun_runLive _ s
theorem execCipherGcm_isRun (lane : Fin 12) (cut self : Bool) (s : State) : IsRun (execCipherGcm lane cut self s) s :=
  isRun_runLive _ s
theorem execCipherGmac_isRun (lane : Fin 12) (cut self : Bool) (s : State) : IsRun (execCipherGmac lane cut self s) s :=
  isRun_runLive _ s
theorem execCipherKw_isRun (lane : Fin 12) (cut self : Bool) (s : State) : IsRun (execCipherKw lane cut self s) s :=
  isRun_runLive _ s
theorem execCipherKwp_isRun (lane : Fin 12) (cut self : Bool) (s : State) : IsRun (execCipherKwp lane cut self s) s :=
  isRun_runLive _ s
theorem execErasureGen_isRun (lane : Fin 4) (cut self : Bool) (s : State) : IsRun (execErasureGen lane cut self s) s :=
  isRun_runLive _ s
theorem execErasureRebuild_isRun (lane : Fin 4) (cut self : Bool) (s : State) : IsRun (execErasureRebuild lane cut self s) s :=
  isRun_runLive _ s
theorem execErasureVerify_isRun (lane : Fin 4) (cut self : Bool) (s : State) : IsRun (execErasureVerify lane cut self s) s :=
  isRun_runLive _ s
theorem execKeyLoadDek_isRun (slot : Fin 256) (index : Fin 4096) (gen : Fin 256) (s : State) : IsRun (execKeyLoadDek slot index gen s) s :=
  isRun_runLive _ s
theorem execKeyLoadIntegrity_isRun (slot : Fin 256) (index : Fin 4096) (s : State) : IsRun (execKeyLoadIntegrity slot index s) s :=
  isRun_runLive _ s
theorem execKeyLoadReplPeer_isRun (slot : Fin 256) (index : Fin 4096) (s : State) : IsRun (execKeyLoadReplPeer slot index s) s :=
  isRun_runLive _ s
theorem execKeyLoadVault_isRun (slot : Fin 256) (index : Fin 4096) (s : State) : IsRun (execKeyLoadVault slot index s) s :=
  isRun_runLive _ s
theorem execKeyZeroise_isRun (slot : Fin 256) (s : State) : IsRun (execKeyZeroise slot s) s :=
  isRun_runLive _ s
theorem execKeyImport_isRun (domain : Fin 4096) (blob : List Byte) (unique : List Byte) (s : State) : IsRun (execKeyImport domain blob unique s) s :=
  isRun_runLive _ s
theorem execKeyTransferReceive_isRun (entry : Fin 4096) (integrity : Bool) (gen : Fin 256) (fromDev : Fin 8) (key : List Byte) (chainOk : Bool) (s : State) : IsRun (execKeyTransferReceive entry integrity gen fromDev key chainOk s) s :=
  isRun_runLive _ s
theorem execRotationScanEntry_isRun (nsid leaf : Nat) (i : Fin 512) (engine : Fin 64) (s : State) : IsRun (execRotationScanEntry nsid leaf i engine s) s :=
  isRun_runLive _ s
theorem execRotationEnd_isRun (domain : Fin 4096) (othersClear : Bool) (s : State) : IsRun (execRotationEnd domain othersClear s) s :=
  isRun_runLive _ s
theorem execMediaPageReadResult_isRun (job i : Nat) (s : State) : IsRun (execMediaPageReadResult job i s) s :=
  isRun_runLive _ s
theorem execFrameVerify_isRun (job : Nat) (fault : ReadFault) (stage3 : Bool) (s : State) : IsRun (execFrameVerify job fault stage3 s) s :=
  isRun_runLive _ s
theorem execReadKeyWaitEnd_isRun (job : Nat) (s : State) : IsRun (execReadKeyWaitEnd job s) s :=
  isRun_runLive _ s
theorem execRebuildOnRead_isRun (job : Nat) (bad : List Nat) (fault : ReadFault) (s : State) : IsRun (execRebuildOnRead job bad fault s) s :=
  isRun_runLive _ s
theorem execFrameFetchReceive_isRun (dev : Fin 8) (gid : BitVec 64) (tag : Nat) (kdom : Fin 4096) (rebuild : Bool) (s : State) : IsRun (execFrameFetchReceive dev gid tag kdom rebuild s) s :=
  isRun_runLive _ s
theorem execFrameReplyReceive_isRun (tag : Nat) (result : Nat) (frame : List Byte) (gte : Gte) (s : State) : IsRun (execFrameReplyReceive tag result frame gte s) s :=
  isRun_runLive _ s
theorem execFrameFetchTimeout_isRun (tag : Nat) (failed : Bool) (s : State) : IsRun (execFrameFetchTimeout tag failed s) s :=
  isRun_runLive _ s
theorem execRepairReq_isRun (rel : Fin 4096) (tag : Nat) (fph : Option Nat) (square : Nat) (s : State) : IsRun (execRepairReq rel tag fph square s) s :=
  isRun_runLive _ s
theorem execRepairAns_isRun (tag : Nat) (result fmt : Nat) (payload : List Byte) (s : State) : IsRun (execRepairAns tag result fmt payload s) s :=
  isRun_runLive _ s
theorem execRepairTimeout_isRun (tag : Nat) (s : State) : IsRun (execRepairTimeout tag s) s :=
  isRun_runLive _ s
theorem execCheckpoint_isRun (s : State) : IsRun (execCheckpoint s) s :=
  isRun_runLive _ s
theorem execSegmentOpen_isRun (pool : Fin 32) (kind : Fin 4) (s : State) : IsRun (execSegmentOpen pool kind s) s :=
  isRun_runLive _ s
theorem execSegmentCloseShort_isRun (seg : Nat) (s : State) : IsRun (execSegmentCloseShort seg s) s :=
  isRun_runLive _ s
theorem execGcSelect_isRun (pool : Fin 32) (isMeta : Bool) (s : State) : IsRun (execGcSelect pool isMeta s) s :=
  isRun_runLive _ s
theorem execGcCopy_isRun (e : Fin 64) (seg : Nat) (bad : List Nat) (s : State) : IsRun (execGcCopy e seg bad s) s :=
  isRun_runLive _ s
theorem execGcMoveCommit_isRun (row : Nat) (s : State) : IsRun (execGcMoveCommit row s) s :=
  isRun_runLive _ s
theorem execSegDrain_isRun (seg : Nat) (s : State) : IsRun (execSegDrain seg s) s :=
  isRun_runLive _ s
theorem execEraseGateRefuse_isRun (member : Fin 64) (block : Nat) (s : State) : IsRun (execEraseGateRefuse member block s) s :=
  isRun_runLive _ s
theorem execSegmentErase_isRun (seg : Nat) (s : State) : IsRun (execSegmentErase seg s) s :=
  isRun_runLive _ s
theorem execBlockRetire_isRun (member : Fin 64) (block : Nat) (cause : Fin 6) (s : State) : IsRun (execBlockRetire member block cause s) s :=
  isRun_runLive _ s
theorem execRetentionScrub_isRun (seg : Nat) (steps : List Nat) (s : State) : IsRun (execRetentionScrub seg steps s) s :=
  isRun_runLive _ s
theorem execPowerFailDetect_isRun (vinMv : Nat) (pfN : Bool) (halfUs : Nat) (s : State) : IsRun (execPowerFailDetect vinMv pfN halfUs s) s :=
  isRun_runLive _ s
theorem execFlushChunks_isRun (n : Nat) (s : State) : IsRun (execFlushChunks n s) s :=
  isRun_runLive _ s
theorem execFlushManifestWritten_isRun (ms : Nat) (s : State) : IsRun (execFlushManifestWritten ms s) s :=
  isRun_runLive _ s
theorem execLaneEnable_isRun (lanes : BitVec 64) (s : State) : IsRun (execLaneEnable lanes s) s :=
  isRun_runLive _ s
theorem execLaneDetect_isRun (n : Fin 64) (load : Option ModInfo) (s : State) : IsRun (execLaneDetect n load s) s :=
  isRun_runLive _ s
theorem execLaneTrainDone_isRun (n : Fin 64) (locked : Bool) (s : State) : IsRun (execLaneTrainDone n locked s) s :=
  isRun_runLive _ s
theorem execHello_isRun (n : Fin 64) (version port cmdCred dataCred : Nat) (s : State) : IsRun (execHello n version port cmdCred dataCred s) s :=
  isRun_runLive _ s
theorem execLaneUpIdentify_isRun (n : Fin 64) (adopt : Option (Fin 32 × Fin 15)) (s : State) : IsRun (execLaneUpIdentify n adopt s) s :=
  isRun_runLive _ s
theorem execLaneDown_isRun (n : Fin 64) (s : State) : IsRun (execLaneDown n s) s :=
  isRun_runLive _ s
theorem execMdlTransactionFrame_isRun (n : Fin 64) (seq : Fin 4096) (crcOk typeOk lenOk : Bool) (s : State) : IsRun (execMdlTransactionFrame n seq crcOk typeOk lenOk s) s :=
  isRun_runLive _ s
theorem execMdlAck_isRun (n : Fin 64) (seq : Fin 4096) (s : State) : IsRun (execMdlAck n seq s) s :=
  isRun_runLive _ s
theorem execMdlNak_isRun (n : Fin 64) (seq : Fin 4096) (s : State) : IsRun (execMdlNak n seq s) s :=
  isRun_runLive _ s
theorem execMdlCredit_isRun (n : Fin 64) (cmd data : Nat) (s : State) : IsRun (execMdlCredit n cmd data s) s :=
  isRun_runLive _ s
theorem execMdlKeep_isRun (n : Fin 64) (s : State) : IsRun (execMdlKeep n s) s :=
  by unfold execMdlKeep; exact isRun_runLive _ s
theorem execMdlAckDelayExpire_isRun (n : Fin 64) (s : State) : IsRun (execMdlAckDelayExpire n s) s :=
  isRun_runLive _ s
theorem execMdlReplayTimeout_isRun (n : Fin 64) (s : State) : IsRun (execMdlReplayTimeout n s) s :=
  isRun_runLive _ s
theorem execMdlDeadTimeout_isRun (n : Fin 64) (s : State) : IsRun (execMdlDeadTimeout n s) s :=
  isRun_runLive _ s
theorem execMdlKeepTimeout_isRun (n : Fin 64) (s : State) : IsRun (execMdlKeepTimeout n s) s :=
  isRun_runLive _ s
theorem execLaneRetrainDone_isRun (n : Fin 64) (ok : Bool) (s : State) : IsRun (execLaneRetrainDone n ok s) s :=
  isRun_runLive _ s
theorem execMdlIdentify_isRun (n : Fin 64) (r : ModReq) (s : State) : IsRun (execMdlIdentify n r s) s :=
  isRun_runLive _ s
theorem execMdlHealth_isRun (n : Fin 64) (r : ModReq) (temp : Int) (s : State) : IsRun (execMdlHealth n r temp s) s :=
  isRun_runLive _ s
theorem execMdlHealthTimer_isRun (n : Fin 64) (s : State) : IsRun (execMdlHealthTimer n s) s :=
  isRun_runLive _ s
theorem execMdlBadList_isRun (n : Fin 64) (r : ModReq) (s : State) : IsRun (execMdlBadList n r s) s :=
  isRun_runLive _ s
theorem execMdlFenceRead_isRun (n : Fin 64) (r : ModReq) (s : State) : IsRun (execMdlFenceRead n r s) s :=
  isRun_runLive _ s
theorem execMdlFenceCas_isRun (n : Fin 64) (r : ModReq) (s : State) : IsRun (execMdlFenceCas n r s) s :=
  isRun_runLive _ s
theorem execMdlLoadTable_isRun (n : Fin 64) (r : ModReq) (s : State) : IsRun (execMdlLoadTable n r s) s :=
  isRun_runLive _ s
theorem execMdlRead_isRun (n : Fin 64) (r : ModReq) (unc : Nat) (s : State) : IsRun (execMdlRead n r unc s) s :=
  isRun_runLive _ s
theorem execMdlProgram_isRun (n : Fin 64) (r : ModReq) (ok : Bool) (s : State) : IsRun (execMdlProgram n r ok s) s :=
  isRun_runLive _ s
theorem execMdlErase_isRun (n : Fin 64) (r : ModReq) (ok : Bool) (s : State) : IsRun (execMdlErase n r ok s) s :=
  isRun_runLive _ s
theorem execMdlResponse_isRun (n : Fin 64) (tag : Fin 1024) (seen : Option Nat) (s : State) : IsRun (execMdlResponse n tag seen s) s :=
  isRun_runLive _ s
theorem execMdlCommandTimeout_isRun (n : Fin 64) (tag : Fin 1024) (s : State) : IsRun (execMdlCommandTimeout n tag s) s :=
  isRun_runLive _ s
theorem execPlnReceive_isRun (n : Fin 64) (s : State) : IsRun (execPlnReceive n s) s :=
  isRun_runLive _ s
theorem execPlnClear_isRun (s : State) : IsRun (execPlnClear s) s :=
  isRun_runLive _ s
theorem execMdlInjArm_isRun (lane : Fin 64) (s : State) : IsRun (execMdlInjArm lane s) s :=
  isRun_runLive _ s
theorem execMemberGraceExpire_isRun (n : Fin 64) (s : State) : IsRun (execMemberGraceExpire n s) s :=
  isRun_runLive _ s
theorem execRebuildRow_isRun (seg : Nat) (bad : List Nat) (s : State) : IsRun (execRebuildRow seg bad s) s :=
  isRun_runLive _ s
theorem execRebuildCommit_isRun (seg : Nat) (s : State) : IsRun (execRebuildCommit seg s) s :=
  isRun_runLive _ s
theorem execSnapCreate_isRun (sseq : BitVec 32) (s : State) : IsRun (execSnapCreate sseq s) s :=
  by unfold execSnapCreate mailbox; exact isRun_runLive _ s
theorem execSnapshotCutCommit_isRun (s : State) : IsRun (execSnapshotCutCommit s) s :=
  isRun_runLive _ s
theorem execSnapDelete_isRun (sseq : BitVec 32) (s : State) : IsRun (execSnapDelete sseq s) s :=
  by unfold execSnapDelete mailbox; exact isRun_runLive _ s
theorem execDeleteWalk_isRun (s : State) : IsRun (execDeleteWalk s) s :=
  isRun_runLive _ s
theorem execSnapClone_isRun (sseq : BitVec 32) (s : State) : IsRun (execSnapClone sseq s) s :=
  by unfold execSnapClone mailbox; exact isRun_runLive _ s
theorem execSnapList_isRun (sseq : BitVec 32) (s : State) : IsRun (execSnapList sseq s) s :=
  by unfold execSnapList mailbox; exact isRun_runLive _ s
theorem execRelBind_isRun (sseq : BitVec 32) (s : State) : IsRun (execRelBind sseq s) s :=
  by unfold execRelBind mailbox; exact isRun_runLive _ s
theorem execRelPromote_isRun (sseq : BitVec 32) (s : State) : IsRun (execRelPromote sseq s) s :=
  by unfold execRelPromote mailbox; exact isRun_runLive _ s
theorem execRelResync_isRun (sseq : BitVec 32) (s : State) : IsRun (execRelResync sseq s) s :=
  by unfold execRelResync mailbox; exact isRun_runLive _ s
theorem execRelUnbind_isRun (sseq : BitVec 32) (s : State) : IsRun (execRelUnbind sseq s) s :=
  by unfold execRelUnbind mailbox; exact isRun_runLive _ s
theorem execReplicationPacketReceive_isRun (port : Fin 32) (peer : Fin 64) (addr hdr body : List Byte) (lensOk : Bool) (s : State) : IsRun (execReplicationPacketReceive port peer addr hdr body lensOk s) s :=
  by unfold execReplicationPacketReceive runRepl; exact isRun_runLive _ s
theorem execSessionOpen_isRun (peer : Fin 64) (session : BitVec 32) (blob : List Byte) (s : State) : IsRun (execSessionOpen peer session blob s) s :=
  by unfold execSessionOpen runRepl; exact isRun_runLive _ s
theorem execSessionAck_isRun (peer : Fin 64) (session : BitVec 32) (result : Nat) (s : State) : IsRun (execSessionAck peer session result s) s :=
  by unfold execSessionAck runRepl; exact isRun_runLive _ s
theorem execSessionRenew_isRun (peer : Fin 64) (s : State) : IsRun (execSessionRenew peer s) s :=
  by unfold execSessionRenew runRepl; exact isRun_runLive _ s
theorem execRelOpen_isRun (peer : Fin 64) (rel : Fin 4096) (remote : BitVec 32) (size lbaf pi : Nat) (s : State) : IsRun (execRelOpen peer rel remote size lbaf pi s) s :=
  by unfold execRelOpen runRepl; exact isRun_runLive _ s
theorem execRelReply_isRun (rel : Fin 4096) (remote : BitVec 32) (result : Nat) (s : State) : IsRun (execRelReply rel remote result s) s :=
  by unfold execRelReply runRepl; exact isRun_runLive _ s
theorem execReplCycleStart_isRun (rel : Fin 4096) (s : State) : IsRun (execReplCycleStart rel s) s :=
  by unfold execReplCycleStart runRepl; exact isRun_runLive _ s
theorem execDeltaBegin_isRun (rel : Fin 4096) (sseq base : BitVec 32) (s : State) : IsRun (execDeltaBegin rel sseq base s) s :=
  by unfold execDeltaBegin runRepl; exact isRun_runLive _ s
theorem execFpOffer_isRun (rel : Fin 4096) (batch : BitVec 32) (l : List Offer) (s : State) : IsRun (execFpOffer rel batch l s) s :=
  by unfold execFpOffer runRepl; exact isRun_runLive _ s
theorem execFpNeed_isRun (rel : Fin 4096) (batch bitmap : BitVec 32) (s : State) : IsRun (execFpNeed rel batch bitmap s) s :=
  by unfold execFpNeed runRepl; exact isRun_runLive _ s
theorem execGranule_isRun (rel : Fin 4096) (square : Nat) (fmt : Nat) (payload : List Byte) (s : State) : IsRun (execGranule rel square fmt payload s) s :=
  by unfold execGranule runRepl; exact isRun_runLive _ s
theorem execDeltaCommit_isRun (rel : Fin 4096) (sseq : BitVec 32) (offered : Nat) (s : State) : IsRun (execDeltaCommit rel sseq offered s) s :=
  by unfold execDeltaCommit runRepl; exact isRun_runLive _ s
theorem execDeltaDone_isRun (rel : Fin 4096) (sseq target : BitVec 32) (result : Nat) (s : State) : IsRun (execDeltaDone rel sseq target result s) s :=
  by unfold execDeltaDone runRepl; exact isRun_runLive _ s
theorem execStreamRec_isRun (rel : Fin 4096) (head : Fin 2) (tsn : BitVec 64) (anchor : Bool) (l : List Offer) (s : State) : IsRun (execStreamRec rel head tsn anchor l s) s :=
  by unfold execStreamRec runRepl; exact isRun_runLive _ s
theorem execStreamAck_isRun (rel : Fin 4096) (head : Fin 2) (tsn : BitVec 64) (s : State) : IsRun (execStreamAck rel head tsn s) s :=
  by unfold execStreamAck runRepl; exact isRun_runLive _ s
theorem execAnchorCut_isRun (rel : Fin 4096) (s : State) : IsRun (execAnchorCut rel s) s :=
  by unfold execAnchorCut runRepl; exact isRun_runLive _ s
theorem execRpoLagCheck_isRun (rel : Fin 4096) (s : State) : IsRun (execRpoLagCheck rel s) s :=
  by unfold execRpoLagCheck runRepl; exact isRun_runLive _ s
theorem execRelSuspendedRetry_isRun (s : State) : IsRun (execRelSuspendedRetry s) s :=
  by unfold execRelSuspendedRetry runRepl; exact isRun_runLive _ s
theorem execCdtRequestDoorbell_isRun (cluster : Fin 8) (r : Fin 16) (prod : BitVec 16) (s : State) : IsRun (execCdtRequestDoorbell cluster r prod s) s :=
  isRun_runLive _ s
theorem execCdtSend_isRun (cut : Bool) (s : State) : IsRun (execCdtSend cut s) s :=
  isRun_runLive _ s
theorem execCdtWrite_isRun (cut : Bool) (s : State) : IsRun (execCdtWrite cut s) s :=
  isRun_runLive _ s
theorem execCdtRead_isRun (s : State) : IsRun (execCdtRead s) s :=
  isRun_runLive _ s
theorem execCdtAdd_isRun (cut : Bool) (s : State) : IsRun (execCdtAdd cut s) s :=
  isRun_runLive _ s
theorem execCdtCas_isRun (cut : Bool) (s : State) : IsRun (execCdtCas cut s) s :=
  isRun_runLive _ s
theorem execCdtSendReceive_isRun (f : CdtFrame) (s : State) : IsRun (execCdtSendReceive f s) s :=
  isRun_runLive _ s
theorem execCdtWriteReceive_isRun (f : CdtFrame) (mirror : Option MirrorData) (s : State) : IsRun (execCdtWriteReceive f mirror s) s :=
  isRun_runLive _ s
theorem execCdtReadReq_isRun (f : CdtFrame) (s : State) : IsRun (execCdtReadReq f s) s :=
  isRun_runLive _ s
theorem execCdtReadResp_isRun (f : CdtFrame) (s : State) : IsRun (execCdtReadResp f s) s :=
  isRun_runLive _ s
theorem execCdtAtomicReq_isRun (f : CdtFrame) (gte : Option Nat) (s : State) : IsRun (execCdtAtomicReq f gte s) s :=
  isRun_runLive _ s
theorem execCdtAtomicResp_isRun (f : CdtFrame) (s : State) : IsRun (execCdtAtomicResp f s) s :=
  isRun_runLive _ s
theorem execCdtAck_isRun (f : CdtFrame) (s : State) : IsRun (execCdtAck f s) s :=
  isRun_runLive _ s
theorem execCdtNak_isRun (f : CdtFrame) (s : State) : IsRun (execCdtNak f s) s :=
  isRun_runLive _ s
theorem execCdtAckDelayExpire_isRun (src : Fin 8) (port : Fin 4) (s : State) : IsRun (execCdtAckDelayExpire src port s) s :=
  isRun_runLive _ s
theorem execCdtRetransmitTimeout_isRun (dst : Fin 8) (port : Fin 4) (psn waited : BitVec 32) (s : State) : IsRun (execCdtRetransmitTimeout dst port psn waited s) s :=
  isRun_runLive _ s
theorem execCdtMaxAgeExpire_isRun (dst : Fin 8) (s : State) : IsRun (execCdtMaxAgeExpire dst s) s :=
  isRun_runLive _ s
theorem execCercoLinkDown_isRun (p : Fin 4) (s : State) : IsRun (execCercoLinkDown p s) s :=
  isRun_runLive _ s
theorem execCercoLinkUp_isRun (p : Fin 4) (s : State) : IsRun (execCercoLinkUp p s) s :=
  isRun_runLive _ s
theorem execPathExpire_isRun (dev : Fin 8) (p : Fin 4) (s : State) : IsRun (execPathExpire dev p s) s :=
  isRun_runLive _ s
theorem execWindowOpen_isRun (s : State) : IsRun (execWindowOpen s) s :=
  isRun_runLive _ s
theorem execWindowRevoke_isRun (s : State) : IsRun (execWindowRevoke s) s :=
  isRun_runLive _ s
theorem execWindowCoolingExpire_isRun (i : Fin 4096) (s : State) : IsRun (execWindowCoolingExpire i s) s :=
  isRun_runLive _ s
theorem execCdtInjArm_isRun (s : State) : IsRun (execCdtInjArm s) s :=
  isRun_runLive _ s
theorem execBeacon_isRun (f : CdtFrame) (s : State) : IsRun (execBeacon f s) s :=
  isRun_runLive _ s
theorem execAlignReq_isRun (f : CdtFrame) (t2 t3 : BitVec 96) (s : State) : IsRun (execAlignReq f t2 t3 s) s :=
  isRun_runLive _ s
theorem execAlignResp_isRun (f : CdtFrame) (t4 : BitVec 96) (cyc : Nat) (s : State) : IsRun (execAlignResp f t4 cyc s) s :=
  isRun_runLive _ s
theorem execHeartbeat_isRun (f : CdtFrame) (s : State) : IsRun (execHeartbeat f s) s :=
  isRun_runLive _ s
theorem execHeartbeatMissed_isRun (s : State) : IsRun (execHeartbeatMissed s) s :=
  isRun_runLive _ s
theorem execPeerFatalAssert_isRun (lowNs : Nat) (s : State) : IsRun (execPeerFatalAssert lowNs s) s :=
  isRun_runLive _ s
theorem execDigest_isRun (m : DigestMsg) (s : State) : IsRun (execDigest m s) s :=
  isRun_runLive _ s
theorem execRecheckReq_isRun (group : Nat) (window : Nat) (s : State) : IsRun (execRecheckReq group window s) s :=
  isRun_runLive _ s
theorem execRecheckAns_isRun (group : Nat) (window : Nat) (wrong : Bool) (s : State) : IsRun (execRecheckAns group window wrong s) s :=
  isRun_runLive _ s
theorem execResign_isRun (cause : Fin 5) (tempo : Nat) (s : State) : IsRun (execResign cause tempo s) s :=
  isRun_runLive _ s
theorem execResignHoldEnd_isRun (s : State) : IsRun (execResignHoldEnd s) s :=
  isRun_runLive _ s
theorem execClaimDelayExpire_isRun (s : State) : IsRun (execClaimDelayExpire s) s :=
  isRun_runLive _ s
theorem execClaimRepeat_isRun (s : State) : IsRun (execClaimRepeat s) s :=
  isRun_runLive _ s
theorem execCasCmdClaim_isRun (s : State) : IsRun (execCasCmdClaim s) s :=
  isRun_runLive _ s
theorem execCasAnaApplyWrite_isRun (v : BitVec 64) (s : State) : IsRun (execCasAnaApplyWrite v s) s :=
  isRun_runLive _ s
theorem execOwnerStage_isRun (apply own0 own1 : BitVec 64) (s : State) : IsRun (execOwnerStage apply own0 own1 s) s :=
  isRun_runLive _ s
theorem execPlannedCastling_isRun (s : State) : IsRun (execPlannedCastling s) s :=
  isRun_runLive _ s
theorem execPlannedChangeTimeout_isRun (s : State) : IsRun (execPlannedChangeTimeout s) s :=
  isRun_runLive _ s
theorem execRejoinReq_isRun (boot : Nat) (s : State) : IsRun (execRejoinReq boot s) s :=
  isRun_runLive _ s
theorem execRejoinGrant_isRun (covered : Nat) (saved : Meta) (s : State) : IsRun (execRejoinGrant covered saved s) s :=
  isRun_runLive _ s
theorem execOimValidate_isRun (s : State) : IsRun (execOimValidate s) s :=
  isRun_runLive _ s
theorem execOimCommit_isRun (good : Bool) (s : State) : IsRun (execOimCommit good s) s :=
  isRun_runLive _ s
theorem execMrExtend_isRun (index : Fin 16) (s : State) : IsRun (execMrExtend index s) s :=
  isRun_runLive _ s
theorem execChallengeNew_isRun (s : State) : IsRun (execChallengeNew s) s :=
  isRun_runLive _ s
theorem execChallengeLapse_isRun (s : State) : IsRun (execChallengeLapse s) s :=
  isRun_runLive _ s
theorem execMoveSubmit_isRun (s : State) : IsRun (execMoveSubmit s) s :=
  isRun_runLive _ s
theorem execClaimSubmit_isRun (s : State) : IsRun (execClaimSubmit s) s :=
  isRun_runLive _ s
theorem execMoveForwardReceive_isRun (m : MoveMsg) (s : State) : IsRun (execMoveForwardReceive m s) s :=
  isRun_runLive _ s
theorem execSpdmGetVersion_isRun (overlap : Bool) (s : State) : IsRun (execSpdmGetVersion overlap s) s :=
  by unfold execSpdmGetVersion spdmAnswer; exact isRun_run _ s
theorem execSpdmGetCapabilities_isRun (overlap : Bool) (s : State) : IsRun (execSpdmGetCapabilities overlap s) s :=
  by unfold execSpdmGetCapabilities spdmAnswer; exact isRun_run _ s
theorem execSpdmNegotiateAlgorithms_isRun (overlap common : Bool) (s : State) : IsRun (execSpdmNegotiateAlgorithms overlap common s) s :=
  by unfold execSpdmNegotiateAlgorithms spdmAnswer; exact isRun_run _ s
theorem execSpdmGetDigests_isRun (overlap : Bool) (s : State) : IsRun (execSpdmGetDigests overlap s) s :=
  by unfold execSpdmGetDigests spdmAnswer; exact isRun_run _ s
theorem execSpdmGetCertificate_isRun (overlap : Bool) (slot off len : Nat) (s : State) : IsRun (execSpdmGetCertificate overlap slot off len s) s :=
  by unfold execSpdmGetCertificate spdmAnswer; exact isRun_run _ s
theorem execSpdmChallenge_isRun (overlap : Bool) (r : SpdmSigned) (s : State) : IsRun (execSpdmChallenge overlap r s) s :=
  by unfold execSpdmChallenge spdmAnswer; exact isRun_run _ s
theorem execSpdmGetMeasurements_isRun (overlap : Bool) (index : Nat) (sign : Bool) (r : SpdmSigned) (s : State) : IsRun (execSpdmGetMeasurements overlap index sign r s) s :=
  by unfold execSpdmGetMeasurements spdmAnswer; exact isRun_run _ s
theorem execCheckEscalate_isRun (k : Fin 64) (s : State) : IsRun (execCheckEscalate k s) s :=
  isRun_runLive _ s
theorem execCheckEntryClear_isRun (k : Fin 64) (collide : Bool) (s : State) : IsRun (execCheckEntryClear k collide s) s :=
  isRun_runLive _ s
theorem execDcheckEntryClear_isRun (j : Fin 32) (mgmt : Bool) (s : State) : IsRun (execDcheckEntryClear j mgmt s) s :=
  isRun_run _ s
theorem execLedgerRecordProgram_isRun (eraseOk programOk : Bool) (s : State) : IsRun (execLedgerRecordProgram eraseOk programOk s) s :=
  isRun_run _ s
theorem execScrFreeze_isRun (s : State) : IsRun (execScrFreeze s) s :=
  isRun_runLive _ s
theorem execScrUnfreeze_isRun (s : State) : IsRun (execScrUnfreeze s) s :=
  isRun_runLive _ s
theorem execScrFreezeTimeout_isRun (s : State) : IsRun (execScrFreezeTimeout s) s :=
  isRun_runLive _ s
theorem execScrWindowSelect_isRun (source : Fin 4) (cursor : BitVec 20) (s : State) : IsRun (execScrWindowSelect source cursor s) s :=
  isRun_runLive _ s
theorem execScrWindowNext_isRun (s : State) : IsRun (execScrWindowNext s) s :=
  isRun_runLive _ s
theorem execFltInjArm_isRun (s : State) : IsRun (execFltInjArm s) s :=
  isRun_runLive _ s
theorem execCmpInjArm_isRun (lane : Fin 16) (s : State) : IsRun (execCmpInjArm lane s) s :=
  isRun_runLive _ s
theorem execDigInjArm_isRun (pipe : Fin 2) (s : State) : IsRun (execDigInjArm pipe s) s :=
  isRun_runLive _ s
theorem execCipInjArm_isRun (lane : Fin 12) (s : State) : IsRun (execCipInjArm lane s) s :=
  isRun_runLive _ s
theorem execErsInjArm_isRun (lane : Fin 4) (s : State) : IsRun (execErsInjArm lane s) s :=
  isRun_runLive _ s
theorem execLevelRequest_isRun (r : Fin 12) (lvl : Fin 8) (s : State) : IsRun (execLevelRequest r lvl s) s :=
  isRun_runLive _ s
theorem execLevelRampDone_isRun (r : Fin 12) (s : State) : IsRun (execLevelRampDone r s) s :=
  isRun_runLive _ s
theorem execAdjWakeRequest_isRun (r : Fin 16) (s : State) : IsRun (execAdjWakeRequest r s) s :=
  isRun_runLive _ s
theorem execAdj1Request_isRun (r : Fin 16) (s : State) : IsRun (execAdj1Request r s) s :=
  isRun_runLive _ s
theorem execAdj2Request_isRun (r : Fin 16) (s : State) : IsRun (execAdj2Request r s) s :=
  isRun_runLive _ s
theorem execAdj3Request_isRun (s : State) : IsRun (execAdj3Request s) s :=
  isRun_runLive _ s
theorem execAdjEntryDone_isRun (r : Fin 16) (s : State) : IsRun (execAdjEntryDone r s) s :=
  isRun_runLive _ s
theorem execAdjWakeDone_isRun (r : Fin 12) (s : State) : IsRun (execAdjWakeDone r s) s :=
  isRun_runLive _ s
theorem execWakeNAssert_isRun (lowUs : Nat) (s : State) : IsRun (execWakeNAssert lowUs s) s :=
  isRun_run _ s
theorem execAdj3WakeTimer_isRun (sec : Nat) (s : State) : IsRun (execAdj3WakeTimer sec s) s :=
  isRun_run _ s
theorem execEnvelopeWrite_isRun (watts : BitVec 16) (s : State) : IsRun (execEnvelopeWrite watts s) s :=
  isRun_runLive _ s
theorem execThrottleStep_isRun (s : State) : IsRun (execThrottleStep s) s :=
  isRun_runLive _ s
theorem execGlbReset_isRun (key : BitVec 16) (mgmt : Bool) (s : State) : IsRun (execGlbReset key mgmt s) s :=
  isRun_run _ s
theorem execGlbTest_isRun (mgmt : Bool) (s : State) : IsRun (execGlbTest mgmt s) s :=
  isRun_runLive _ s
theorem execRegisterWrite_isRun (mgmt : Bool) (off size : Nat) (v hwSet : BitVec 64) (s : State) : IsRun (execRegisterWrite mgmt off size v hwSet s) s :=
  isRun_run _ s
theorem execRegisterReadClear_isRun (mgmt : Bool) (off size : Nat) (hwInc : BitVec 64) (s : State) : IsRun (execRegisterReadClear mgmt off size hwInc s) s :=
  isRun_run _ s
theorem execDdrThermalPoll_isRun (temps : List Int) (s : State) : IsRun (execDdrThermalPoll temps s) s :=
  isRun_runLive _ s
theorem execDdrPatrolLine_isRun (ch : Fin 8) (line : Nat) (err : BitVec 80) (sub : Bool) (s : State) : IsRun (execDdrPatrolLine ch line err sub s) s :=
  isRun_runLive _ s
theorem execDdrRefreshAll_isRun (ch : Fin 8) (s : State) : IsRun (execDdrRefreshAll ch s) s :=
  isRun_runLive _ s
theorem execHostLinkDown_isRun (p : Fin 32) (s : State) : IsRun (execHostLinkDown p s) s :=
  isRun_runLive _ s
theorem execHostLinkUp_isRun (p : Fin 32) (s : State) : IsRun (execHostLinkUp p s) s :=
  isRun_runLive _ s
theorem execMdlHelloTimeout_isRun (n : Fin 64) (s : State) : IsRun (execMdlHelloTimeout n s) s :=
  isRun_runLive _ s
theorem execVsbPresenceChange_isRun (present : Bool) (s : State) : IsRun (execVsbPresenceChange present s) s :=
  isRun_run _ s
theorem execNvmeMiRequest_isRun (req : List Byte) (s : State) : IsRun (execNvmeMiRequest req s) s :=
  isRun_runLive _ s

/-- Every command is one effect on the device, followed by what follows every command: it answers a next state and leaves the queue. -/
theorem exec_is_run (c : Instr) (s : State) : IsRun (exec c s) s :=
  match c with
  | .powerGood => execPowerGood_isRun s
  | .powerGoodLost => execPowerGoodLost_isRun s
  | .resetNAssert lowNs => execResetNAssert_isRun lowNs s
  | .perstNAssert => execPerstNAssert_isRun s
  | .vinRemoved => execVinRemoved_isRun s
  | .startUp b => execStartUp_isRun b s
  | .bootRecordWrite good => execBootRecordWrite_isRun good s
  | .tempoEdge e => execTempoEdge_isRun e s
  | .creditResyncDone unit cls occupied returns => execCreditResyncDone_isRun unit cls occupied returns s
  | .accelSliceBudgetEnd k lane => execAccelSliceBudgetEnd_isRun k lane s
  | .periodicAlignExchange t1 => execPeriodicAlignExchange_isRun t1 s
  | .alignExchangeMissed => execAlignExchangeMissed_isRun s
  | .beaconSend => execBeaconSend_isRun s
  | .heartbeatSend => execHeartbeatSend_isRun s
  | .digestSend => execDigestSend_isRun s
  | .ppsOutWidthEnd ms => execPpsOutWidthEnd_isRun ms s
  | .ppsInEdge cyc => execPpsInEdge_isRun cyc s
  | .tmpSnapTake cyc => execTmpSnapTake_isRun cyc s
  | .tempoStep cyc => execTempoStep_isRun cyc s
  | .tmpFadjWrite v cyc => execTmpFadjWrite_isRun v cyc s
  | .tmpPadjWrite v cyc => execTmpPadjWrite_isRun v cyc s
  | .offsetSample v cyc => execOffsetSample_isRun v cyc s
  | .offsetSampleTimeout cyc => execOffsetSampleTimeout_isRun cyc s
  | .transferRequest target port write qos addr same line buffer => execTransferRequest_isRun target port write qos addr same line buffer s
  | .arbiterGrant target err accepted => execArbiterGrant_isRun target err accepted s
  | .requestAgeRaise target order => execRequestAgeRaise_isRun target order s
  | .writeDataArrive target port data => execWriteDataArrive_isRun target port data s
  | .grantCutOff target port => execGrantCutOff_isRun target port s
  | .lateDatDiscard target port => execLateDatDiscard_isRun target port s
  | .cutNoticeReceive e addr => execCutNoticeReceive_isRun e addr s
  | .poolScrubLine bank word err => execPoolScrubLine_isRun bank word err s
  | .fabInjArm => execFabInjArm_isRun s
  | .bufferLedgerAudit poolErr missErr => execBufferLedgerAudit_isRun poolErr missErr s
  | .engineTakeSlice e => execEngineTakeSlice_isRun e s
  | .engineInstruction e checker cyc full err cut other => execEngineInstruction_isRun e checker cyc full err cut other s
  | .engineLoadStore e kind reg addr sizeLog signed err cut other => execEngineLoadStore_isRun e kind reg addr sizeLog signed err cut other s
  | .qdoor e rd rs1 rs2 cut => execQdoor_isRun e rd rs1 rs2 cut s
  | .qprobe e rd rs1 full => execQprobe_isRun e rd rs1 full s
  | .qcas128 e rd rs1 rs2 => execQcas128_isRun e rd rs1 rs2 s
  | .qcrc64 e rd rs1 rs2 len => execQcrc64_isRun e rd rs1 rs2 len s
  | .qtempoSnapshot e rd cyc => execQtempoSnapshot_isRun e rd cyc s
  | .qtempoSeconds e rd => execQtempoSeconds_isRun e rd s
  | .qtempoNanoseconds e rd => execQtempoNanoseconds_isRun e rd s
  | .qtempoCyclesToEdge e rd cyc => execQtempoCyclesToEdge_isRun e rd cyc s
  | .qptokRequest e rd rs1 => execQptokRequest_isRun e rd rs1 s
  | .qptokQuery e rd => execQptokQuery_isRun e rd s
  | .qyieldComplete e => execQyieldComplete_isRun e s
  | .qyieldDefer e => execQyieldDefer_isRun e s
  | .kingMismatch flag0 flag1 gap err => execKingMismatch_isRun flag0 flag1 gap err s
  | .kingSelfTestDone pass0 pass1 gap err => execKingSelfTestDone_isRun pass0 pass1 gap err s
  | .rangeWriteback cl => execRangeWriteback_isRun cl s
  | .rangeInvalidate cl => execRangeInvalidate_isRun cl s
  | .rangePreload cl way => execRangePreload_isRun cl way s
  | .rangeOpDone cl => execRangeOpDone_isRun cl s
  | .l2LockWrite cl mask => execL2LockWrite_isRun cl mask s
  | .l2DrainStart cl => execL2DrainStart_isRun cl s
  | .l2DrainDone cl errs => execL2DrainDone_isRun cl errs s
  | .l2Enable cl => execL2Enable_isRun cl s
  | .hostFrameReceive p f => execHostFrameReceive_isRun p f s
  | .contextFetchDone c => execContextFetchDone_isRun c s
  | .contextFetchSlow c => execContextFetchSlow_isRun c s
  | .pfcPauseRefresh p => execPfcPauseRefresh_isRun p s
  | .cnpReceive c => execCnpReceive_isRun c s
  | .rateRaise => execRateRaise_isRun s
  | .hostLinkRetrain p => execHostLinkRetrain_isRun p s
  | .fabricsConnect r => execFabricsConnect_isRun r s
  | .fabricsDisconnect c => execFabricsDisconnect_isRun c s
  | .propertyGet c => execPropertyGet_isRun c s
  | .propertySet c => execPropertySet_isRun c s
  | .identify c => execIdentify_isRun c s
  | .getLogPage c => execGetLogPage_isRun c s
  | .setFeatures c => execSetFeatures_isRun c s
  | .getFeatures c => execGetFeatures_isRun c s
  | .asyncEventRequest c => execAsyncEventRequest_isRun c s
  | .keepAlive c => execKeepAlive_isRun c s
  | .keepAliveExpire cntlid ms => execKeepAliveExpire_isRun cntlid ms s
  | .abort c => execAbort_isRun c s
  | .namespaceManagement c => execNamespaceManagement_isRun c s
  | .namespaceAttachment c => execNamespaceAttachment_isRun c s
  | .firmwareImageDownload c => execFirmwareImageDownload_isRun c s
  | .firmwareCommitSlot c => execFirmwareCommitSlot_isRun c s
  | .firmwareCommitSlotNext c => execFirmwareCommitSlotNext_isRun c s
  | .firmwareCommitNext c => execFirmwareCommitNext_isRun c s
  | .firmwareCommitActivate c => execFirmwareCommitActivate_isRun c s
  | .activationIdleDeadline => execActivationIdleDeadline_isRun s
  | .activationRelease tenthsMs => execActivationRelease_isRun tenthsMs s
  | .nvmeRead c => execNvmeRead_isRun c s
  | .nvmeWrite c => execNvmeWrite_isRun c s
  | .nvmeCompare c => execNvmeCompare_isRun c s
  | .nvmeVerify c => execNvmeVerify_isRun c s
  | .writeZeroes c => execWriteZeroes_isRun c s
  | .flush c => execFlush_isRun c s
  | .datasetManagement c => execDatasetManagement_isRun c s
  | .reservationRegister c => execReservationRegister_isRun c s
  | .reservationReport c => execReservationReport_isRun c s
  | .reservationAcquire c => execReservationAcquire_isRun c s
  | .reservationRelease c => execReservationRelease_isRun c s
  | .commandRecordWait => execCommandRecordWait_isRun s
  | .slotAdmitWait => execSlotAdmitWait_isRun s
  | .writeDataLand rec i_ data => execWriteDataLand_isRun rec i_ data s
  | .mirrorAck item => execMirrorAck_isRun item s
  | .mirrorWriteFailed item port => execMirrorWriteFailed_isRun item port s
  | .completionDelivered rec => execCompletionDelivered_isRun rec s
  | .transportConnectionLoss c => execTransportConnectionLoss_isRun c s
  | .reductionTakeSlot e bad copy => execReductionTakeSlot_isRun e bad copy s
  | .mergeReadResult slot => execMergeReadResult_isRun slot s
  | .fingerprintResult slot ending => execFingerprintResult_isRun slot ending s
  | .indexDecision slot => execIndexDecision_isRun slot s
  | .referenceAddResult who old => execReferenceAddResult_isRun who old s
  | .framePlacement slot compress cipher => execFramePlacement_isRun slot compress cipher s
  | .rowAgeExpire row => execRowAgeExpire_isRun row s
  | .rowProgramIssue row parity => execRowProgramIssue_isRun row parity s
  | .rowProgrammed row => execRowProgrammed_isRun row s
  | .rowProgramFail row => execRowProgramFail_isRun row s
  | .framelessTransaction e => execFramelessTransaction_isRun e s
  | .transactionCommit tsn => execTransactionCommit_isRun tsn s
  | .peerRecordApply => execPeerRecordApply_isRun s
  | .foreignReleaseDone gid tsn => execForeignReleaseDone_isRun gid tsn s
  | .fiuProbe => execFiuProbe_isRun s
  | .indexProbeReceive dev fp kdom tag => execIndexProbeReceive_isRun dev fp kdom tag s
  | .indexReplyReceive tag r => execIndexReplyReceive_isRun tag r s
  | .probeTimeout tag => execProbeTimeout_isRun tag s
  | .wrongOwnerRetry tag => execWrongOwnerRetry_isRun tag s
  | .fiuInsert ring far => execFiuInsert_isRun ring far s
  | .fiuRemove ring far => execFiuRemove_isRun ring far s
  | .filterRebuildDone => execFilterRebuildDone_isRun s
  | .fiuOwnApplyWrite v => execFiuOwnApplyWrite_isRun v s
  | .pinDrop gid => execPinDrop_isRun gid s
  | .ownerScrub dead => execOwnerScrub_isRun dead s
  | .refAuditCompare others doubtful => execRefAuditCompare_isRun others doubtful s
  | .compressOneshot lane cut self => execCompressOneshot_isRun lane cut self s
  | .compressStart lane cut self => execCompressStart_isRun lane cut self s
  | .compressContinue lane cut self => execCompressContinue_isRun lane cut self s
  | .decompress lane cut self => execDecompress_isRun lane cut self s
  | .digestSha256 pipe cut self => execDigestSha256_isRun pipe cut self s
  | .digestSha384 pipe cut self => execDigestSha384_isRun pipe cut self s
  | .digestSha512 pipe cut self => execDigestSha512_isRun pipe cut self s
  | .digestSha3256 pipe cut self => execDigestSha3256_isRun pipe cut self s
  | .digestHmacSha256 pipe cut self => execDigestHmacSha256_isRun pipe cut self s
  | .digestHmacSha384 pipe cut self => execDigestHmacSha384_isRun pipe cut self s
  | .digestHmacSha512 pipe cut self => execDigestHmacSha512_isRun pipe cut self s
  | .digestSha256Crc64 pipe cut self => execDigestSha256Crc64_isRun pipe cut self s
  | .cipherCbc lane cut self => execCipherCbc_isRun lane cut self s
  | .cipherCfb128 lane cut self => execCipherCfb128_isRun lane cut self s
  | .cipherOfb lane cut self => execCipherOfb_isRun lane cut self s
  | .cipherCtr lane cut self => execCipherCtr_isRun lane cut self s
  | .cipherGcm lane cut self => execCipherGcm_isRun lane cut self s
  | .cipherGmac lane cut self => execCipherGmac_isRun lane cut self s
  | .cipherKw lane cut self => execCipherKw_isRun lane cut self s
  | .cipherKwp lane cut self => execCipherKwp_isRun lane cut self s
  | .erasureGen lane cut self => execErasureGen_isRun lane cut self s
  | .erasureRebuild lane cut self => execErasureRebuild_isRun lane cut self s
  | .erasureVerify lane cut self => execErasureVerify_isRun lane cut self s
  | .keyLoadDek slot index gen => execKeyLoadDek_isRun slot index gen s
  | .keyLoadIntegrity slot index => execKeyLoadIntegrity_isRun slot index s
  | .keyLoadReplPeer slot index => execKeyLoadReplPeer_isRun slot index s
  | .keyLoadVault slot index => execKeyLoadVault_isRun slot index s
  | .keyZeroise slot => execKeyZeroise_isRun slot s
  | .keyImport domain blob unique => execKeyImport_isRun domain blob unique s
  | .keyTransferReceive entry integrity gen fromDev key chainOk => execKeyTransferReceive_isRun entry integrity gen fromDev key chainOk s
  | .rotationScanEntry nsid leaf i_ engine => execRotationScanEntry_isRun nsid leaf i_ engine s
  | .rotationEnd domain othersClear => execRotationEnd_isRun domain othersClear s
  | .mediaPageReadResult job i_ => execMediaPageReadResult_isRun job i_ s
  | .frameVerify job fault stage3 => execFrameVerify_isRun job fault stage3 s
  | .readKeyWaitEnd job => execReadKeyWaitEnd_isRun job s
  | .rebuildOnRead job bad fault => execRebuildOnRead_isRun job bad fault s
  | .frameFetchReceive dev gid tag kdom rebuild => execFrameFetchReceive_isRun dev gid tag kdom rebuild s
  | .frameReplyReceive tag result frame gte => execFrameReplyReceive_isRun tag result frame gte s
  | .frameFetchTimeout tag failed => execFrameFetchTimeout_isRun tag failed s
  | .repairReq rel tag fph square => execRepairReq_isRun rel tag fph square s
  | .repairAns tag result fmt payload => execRepairAns_isRun tag result fmt payload s
  | .repairTimeout tag => execRepairTimeout_isRun tag s
  | .checkpoint => execCheckpoint_isRun s
  | .segmentOpen pool kind => execSegmentOpen_isRun pool kind s
  | .segmentCloseShort seg => execSegmentCloseShort_isRun seg s
  | .gcSelect pool isMeta => execGcSelect_isRun pool isMeta s
  | .gcCopy e seg bad => execGcCopy_isRun e seg bad s
  | .gcMoveCommit row => execGcMoveCommit_isRun row s
  | .segDrain seg => execSegDrain_isRun seg s
  | .eraseGateRefuse member block => execEraseGateRefuse_isRun member block s
  | .segmentErase seg => execSegmentErase_isRun seg s
  | .blockRetire member block cause => execBlockRetire_isRun member block cause s
  | .retentionScrub seg steps => execRetentionScrub_isRun seg steps s
  | .powerFailDetect vinMv pfN halfUs => execPowerFailDetect_isRun vinMv pfN halfUs s
  | .flushChunks n => execFlushChunks_isRun n s
  | .flushManifestWritten ms => execFlushManifestWritten_isRun ms s
  | .laneEnable lanes => execLaneEnable_isRun lanes s
  | .laneDetect n load => execLaneDetect_isRun n load s
  | .laneTrainDone n locked => execLaneTrainDone_isRun n locked s
  | .hello n version port cmdCred dataCred => execHello_isRun n version port cmdCred dataCred s
  | .laneUpIdentify n adopt => execLaneUpIdentify_isRun n adopt s
  | .laneDown n => execLaneDown_isRun n s
  | .mdlTransactionFrame n seq crcOk typeOk lenOk => execMdlTransactionFrame_isRun n seq crcOk typeOk lenOk s
  | .mdlAck n seq => execMdlAck_isRun n seq s
  | .mdlNak n seq => execMdlNak_isRun n seq s
  | .mdlCredit n cmd data => execMdlCredit_isRun n cmd data s
  | .mdlKeep n => execMdlKeep_isRun n s
  | .mdlAckDelayExpire n => execMdlAckDelayExpire_isRun n s
  | .mdlReplayTimeout n => execMdlReplayTimeout_isRun n s
  | .mdlDeadTimeout n => execMdlDeadTimeout_isRun n s
  | .mdlKeepTimeout n => execMdlKeepTimeout_isRun n s
  | .laneRetrainDone n ok => execLaneRetrainDone_isRun n ok s
  | .mdlIdentify n r => execMdlIdentify_isRun n r s
  | .mdlHealth n r temp => execMdlHealth_isRun n r temp s
  | .mdlHealthTimer n => execMdlHealthTimer_isRun n s
  | .mdlBadList n r => execMdlBadList_isRun n r s
  | .mdlFenceRead n r => execMdlFenceRead_isRun n r s
  | .mdlFenceCas n r => execMdlFenceCas_isRun n r s
  | .mdlLoadTable n r => execMdlLoadTable_isRun n r s
  | .mdlRead n r unc => execMdlRead_isRun n r unc s
  | .mdlProgram n r ok => execMdlProgram_isRun n r ok s
  | .mdlErase n r ok => execMdlErase_isRun n r ok s
  | .mdlResponse n tag seen => execMdlResponse_isRun n tag seen s
  | .mdlCommandTimeout n tag => execMdlCommandTimeout_isRun n tag s
  | .plnReceive n => execPlnReceive_isRun n s
  | .plnClear => execPlnClear_isRun s
  | .mdlInjArm lane => execMdlInjArm_isRun lane s
  | .memberGraceExpire n => execMemberGraceExpire_isRun n s
  | .rebuildRow seg bad => execRebuildRow_isRun seg bad s
  | .rebuildCommit seg => execRebuildCommit_isRun seg s
  | .snapCreate sseq => execSnapCreate_isRun sseq s
  | .snapshotCutCommit => execSnapshotCutCommit_isRun s
  | .snapDelete sseq => execSnapDelete_isRun sseq s
  | .deleteWalk => execDeleteWalk_isRun s
  | .snapClone sseq => execSnapClone_isRun sseq s
  | .snapList sseq => execSnapList_isRun sseq s
  | .relBind sseq => execRelBind_isRun sseq s
  | .relPromote sseq => execRelPromote_isRun sseq s
  | .relResync sseq => execRelResync_isRun sseq s
  | .relUnbind sseq => execRelUnbind_isRun sseq s
  | .replicationPacketReceive port peer addr hdr body lensOk => execReplicationPacketReceive_isRun port peer addr hdr body lensOk s
  | .sessionOpen peer session blob => execSessionOpen_isRun peer session blob s
  | .sessionAck peer session result => execSessionAck_isRun peer session result s
  | .sessionRenew peer => execSessionRenew_isRun peer s
  | .relOpen peer rel remote size lbaf pi => execRelOpen_isRun peer rel remote size lbaf pi s
  | .relReply rel remote result => execRelReply_isRun rel remote result s
  | .replCycleStart rel => execReplCycleStart_isRun rel s
  | .deltaBegin rel sseq base => execDeltaBegin_isRun rel sseq base s
  | .fpOffer rel batch l => execFpOffer_isRun rel batch l s
  | .fpNeed rel batch bitmap => execFpNeed_isRun rel batch bitmap s
  | .granule rel square fmt payload => execGranule_isRun rel square fmt payload s
  | .deltaCommit rel sseq offered => execDeltaCommit_isRun rel sseq offered s
  | .deltaDone rel sseq target result => execDeltaDone_isRun rel sseq target result s
  | .streamRec rel head tsn anchor l => execStreamRec_isRun rel head tsn anchor l s
  | .streamAck rel head tsn => execStreamAck_isRun rel head tsn s
  | .anchorCut rel => execAnchorCut_isRun rel s
  | .rpoLagCheck rel => execRpoLagCheck_isRun rel s
  | .relSuspendedRetry => execRelSuspendedRetry_isRun s
  | .cdtRequestDoorbell cluster r prod => execCdtRequestDoorbell_isRun cluster r prod s
  | .cdtSend cut => execCdtSend_isRun cut s
  | .cdtWrite cut => execCdtWrite_isRun cut s
  | .cdtRead => execCdtRead_isRun s
  | .cdtAdd cut => execCdtAdd_isRun cut s
  | .cdtCas cut => execCdtCas_isRun cut s
  | .cdtSendReceive f => execCdtSendReceive_isRun f s
  | .cdtWriteReceive f mirror => execCdtWriteReceive_isRun f mirror s
  | .cdtReadReq f => execCdtReadReq_isRun f s
  | .cdtReadResp f => execCdtReadResp_isRun f s
  | .cdtAtomicReq f gte => execCdtAtomicReq_isRun f gte s
  | .cdtAtomicResp f => execCdtAtomicResp_isRun f s
  | .cdtAck f => execCdtAck_isRun f s
  | .cdtNak f => execCdtNak_isRun f s
  | .cdtAckDelayExpire src port => execCdtAckDelayExpire_isRun src port s
  | .cdtRetransmitTimeout dst port psn waited => execCdtRetransmitTimeout_isRun dst port psn waited s
  | .cdtMaxAgeExpire dst => execCdtMaxAgeExpire_isRun dst s
  | .cercoLinkDown p => execCercoLinkDown_isRun p s
  | .cercoLinkUp p => execCercoLinkUp_isRun p s
  | .pathExpire dev p => execPathExpire_isRun dev p s
  | .windowOpen => execWindowOpen_isRun s
  | .windowRevoke => execWindowRevoke_isRun s
  | .windowCoolingExpire i_ => execWindowCoolingExpire_isRun i_ s
  | .cdtInjArm => execCdtInjArm_isRun s
  | .beacon f => execBeacon_isRun f s
  | .alignReq f t2 t3 => execAlignReq_isRun f t2 t3 s
  | .alignResp f t4 cyc => execAlignResp_isRun f t4 cyc s
  | .heartbeat f => execHeartbeat_isRun f s
  | .heartbeatMissed => execHeartbeatMissed_isRun s
  | .peerFatalAssert lowNs => execPeerFatalAssert_isRun lowNs s
  | .digest m => execDigest_isRun m s
  | .recheckReq group window => execRecheckReq_isRun group window s
  | .recheckAns group window wrong => execRecheckAns_isRun group window wrong s
  | .resign cause tempo => execResign_isRun cause tempo s
  | .resignHoldEnd => execResignHoldEnd_isRun s
  | .claimDelayExpire => execClaimDelayExpire_isRun s
  | .claimRepeat => execClaimRepeat_isRun s
  | .casCmdClaim => execCasCmdClaim_isRun s
  | .casAnaApplyWrite v => execCasAnaApplyWrite_isRun v s
  | .ownerStage apply own0 own1 => execOwnerStage_isRun apply own0 own1 s
  | .plannedCastling => execPlannedCastling_isRun s
  | .plannedChangeTimeout => execPlannedChangeTimeout_isRun s
  | .rejoinReq boot => execRejoinReq_isRun boot s
  | .rejoinGrant covered saved => execRejoinGrant_isRun covered saved s
  | .oimValidate => execOimValidate_isRun s
  | .oimCommit good => execOimCommit_isRun good s
  | .mrExtend index => execMrExtend_isRun index s
  | .challengeNew => execChallengeNew_isRun s
  | .challengeLapse => execChallengeLapse_isRun s
  | .moveSubmit => execMoveSubmit_isRun s
  | .claimSubmit => execClaimSubmit_isRun s
  | .moveForwardReceive m => execMoveForwardReceive_isRun m s
  | .spdmGetVersion overlap => execSpdmGetVersion_isRun overlap s
  | .spdmGetCapabilities overlap => execSpdmGetCapabilities_isRun overlap s
  | .spdmNegotiateAlgorithms overlap common => execSpdmNegotiateAlgorithms_isRun overlap common s
  | .spdmGetDigests overlap => execSpdmGetDigests_isRun overlap s
  | .spdmGetCertificate overlap slot off len => execSpdmGetCertificate_isRun overlap slot off len s
  | .spdmChallenge overlap r => execSpdmChallenge_isRun overlap r s
  | .spdmGetMeasurements overlap index sign r => execSpdmGetMeasurements_isRun overlap index sign r s
  | .checkEscalate k => execCheckEscalate_isRun k s
  | .checkEntryClear k collide => execCheckEntryClear_isRun k collide s
  | .dcheckEntryClear j mgmt => execDcheckEntryClear_isRun j mgmt s
  | .ledgerRecordProgram eraseOk programOk => execLedgerRecordProgram_isRun eraseOk programOk s
  | .scrFreeze => execScrFreeze_isRun s
  | .scrUnfreeze => execScrUnfreeze_isRun s
  | .scrFreezeTimeout => execScrFreezeTimeout_isRun s
  | .scrWindowSelect source cursor => execScrWindowSelect_isRun source cursor s
  | .scrWindowNext => execScrWindowNext_isRun s
  | .fltInjArm => execFltInjArm_isRun s
  | .cmpInjArm lane => execCmpInjArm_isRun lane s
  | .digInjArm pipe => execDigInjArm_isRun pipe s
  | .cipInjArm lane => execCipInjArm_isRun lane s
  | .ersInjArm lane => execErsInjArm_isRun lane s
  | .levelRequest r lvl => execLevelRequest_isRun r lvl s
  | .levelRampDone r => execLevelRampDone_isRun r s
  | .adjWakeRequest r => execAdjWakeRequest_isRun r s
  | .adj1Request r => execAdj1Request_isRun r s
  | .adj2Request r => execAdj2Request_isRun r s
  | .adj3Request => execAdj3Request_isRun s
  | .adjEntryDone r => execAdjEntryDone_isRun r s
  | .adjWakeDone r => execAdjWakeDone_isRun r s
  | .wakeNAssert lowUs => execWakeNAssert_isRun lowUs s
  | .adj3WakeTimer sec => execAdj3WakeTimer_isRun sec s
  | .envelopeWrite watts => execEnvelopeWrite_isRun watts s
  | .throttleStep => execThrottleStep_isRun s
  | .glbReset key mgmt => execGlbReset_isRun key mgmt s
  | .glbTest mgmt => execGlbTest_isRun mgmt s
  | .registerWrite mgmt off size v hwSet => execRegisterWrite_isRun mgmt off size v hwSet s
  | .registerReadClear mgmt off size hwInc => execRegisterReadClear_isRun mgmt off size hwInc s
  | .ddrThermalPoll temps => execDdrThermalPoll_isRun temps s
  | .ddrPatrolLine ch line err sub => execDdrPatrolLine_isRun ch line err sub s
  | .ddrRefreshAll ch => execDdrRefreshAll_isRun ch s
  | .hostLinkDown p => execHostLinkDown_isRun p s
  | .hostLinkUp p => execHostLinkUp_isRun p s
  | .mdlHelloTimeout n => execMdlHelloTimeout_isRun n s
  | .vsbPresenceChange present => execVsbPresenceChange_isRun present s
  | .nvmeMiRequest req => execNvmeMiRequest_isRun req s

end Sys2Proof.Machine
end

