-- ==== Sys2Proof/Laws/Quiet.lean ====
section
/-!
SUPPORT. Effects that store nothing, owe no reaction, and write registers of listed blocks alone: what each shared operation keeps, and
what a command made of them answers.
-/

namespace Sys2Proof.Machine

/-- Memory, pins, fuses and flashes, keys and the reactions owed are as before, and so is every register outside the listed blocks that does
not move at the end of any command. -/
structure KeptBut (bs : List Nat) (d e : Dev) : Prop where
  mem : e.mem = d.mem
  pins : e.pins = d.pins
  nv : e.nv = d.nv
  keys : e.keys = d.keys
  todo : e.todo = d.todo
  regs : ∀ o, o / 0x100000 ∉ bs → o ∉ ambientRegs → rdReg o e = rdReg o d

variable {bs : List Nat}

theorem KeptBut.refl (d : Dev) : KeptBut bs d d := ⟨rfl, rfl, rfl, rfl, rfl, fun _ _ _ => rfl⟩

theorem KeptBut.trans {a b c : Dev} (h : KeptBut bs a b) (g : KeptBut bs b c) : KeptBut bs a c :=
  ⟨g.mem.trans h.mem, g.pins.trans h.pins, g.nv.trans h.nv, g.keys.trans h.keys, g.todo.trans h.todo,
    fun o ho ha => (g.regs o ho ha).trans (h.regs o ho ha)⟩

/-- What is kept outside fewer blocks is kept outside more. -/
theorem KeptBut.mono {cs : List Nat} {d e : Dev} (h : KeptBut bs d e) (hb : ∀ b ∈ bs, b ∈ cs) : KeptBut cs d e :=
  ⟨h.mem, h.pins, h.nv, h.keys, h.todo, fun o ho ha => h.regs o (fun hm => ho (hb _ hm)) ha⟩

theorem KeptBut.wr (f : Field) (v : Nat) (d : Dev) (hf : f.off / 0x100000 ∈ bs) : KeptBut bs d (Machine.wr f v d) :=
  ⟨rfl, rfl, rfl, rfl, rfl, fun _ ho _ => rdReg_wr_off (by rintro rfl; exact ho hf) v d⟩

theorem KeptBut.setb (f : Field) (d : Dev) (hf : f.off / 0x100000 ∈ bs) : KeptBut bs d (Machine.setb f d) := .wr f 1 d hf
theorem KeptBut.clr (f : Field) (d : Dev) (hf : f.off / 0x100000 ∈ bs) : KeptBut bs d (Machine.clr f d) := .wr f 0 d hf

theorem KeptBut.setBit (f : Field) (n : Nat) (d : Dev) (hf : f.off / 0x100000 ∈ bs) : KeptBut bs d (Machine.setBit f n d) := by
  unfold Machine.setBit; split
  · exact .refl d
  · exact .wr f _ d hf

theorem KeptBut.clrBit (f : Field) (n : Nat) (d : Dev) (hf : f.off / 0x100000 ∈ bs) : KeptBut bs d (Machine.clrBit f n d) := by
  unfold Machine.clrBit; split
  · exact .wr f _ d hf
  · exact .refl d

theorem KeptBut.drawNat (n : Nat) (d : Dev) : KeptBut bs d (Machine.drawNat n d).2 := ⟨rfl, rfl, rfl, rfl, rfl, fun _ _ _ => rfl⟩
theorem KeptBut.drawBytes (n : Nat) (d : Dev) : KeptBut bs d (Machine.drawBytes n d).2 := ⟨rfl, rfl, rfl, rfl, rfl, fun _ _ _ => rfl⟩

theorem KeptBut.pickFree (l : List Nat) (d : Dev) : KeptBut bs d (Machine.pickFree l d).2 := by
  unfold Machine.pickFree; split
  · exact .refl d
  · exact .drawNat l.length d

theorem KeptBut.bumpBy (f : Field) (n : Nat) (d : Dev) (hf : f.off / 0x100000 ∈ bs) : KeptBut bs d (Machine.bumpBy f n d) := by
  unfold Machine.bumpBy; split
  · exact .wr f _ d hf
  · exact .trans (b := (Machine.drawNat (2 ^ f.width) d).2) (.drawNat _ d) (.wr f _ _ hf)

theorem KeptBut.bump (f : Field) (d : Dev) (hf : f.off / 0x100000 ∈ bs) : KeptBut bs d (Machine.bump f d) := .bumpBy f 1 d hf
theorem KeptBut.bumpSat (f : Field) (n : Nat) (d : Dev) (hf : f.off / 0x100000 ∈ bs) : KeptBut bs d (Machine.bumpSat f n d) := .wr f _ d hf
theorem KeptBut.send (o : Out) (d : Dev) : KeptBut bs d (Machine.send o d) := ⟨rfl, rfl, rfl, rfl, rfl, fun _ _ _ => rfl⟩
theorem KeptBut.sendAll (l : List Out) (d : Dev) : KeptBut bs d (Machine.sendAll l d) := ⟨rfl, rfl, rfl, rfl, rfl, fun _ _ _ => rfl⟩
theorem KeptBut.quiet (d : Dev) : KeptBut bs d d.quiet := ⟨rfl, rfl, rfl, rfl, rfl, fun _ _ _ => rfl⟩

theorem KeptBut.ite {d e g : Dev} (p : Prop) [Decidable p] (h : p → KeptBut bs d e) (k : ¬p → KeptBut bs d g) :
    KeptBut bs d (if p then e else g) := by
  split
  · exact h ‹_›
  · exact k ‹_›

/-- A loop keeps what each turn keeps. -/
theorem KeptBut.forEach (f : Nat → Dev → Dev) (h : ∀ n d, KeptBut bs d (f n d)) (l : List Nat) : ∀ d, KeptBut bs d (Machine.forEach l f d) := by
  induction l with
  | nil => exact .refl
  | cons n r ih => exact fun d => .trans (h n d) (ih _)

/-- A command whose effect keeps this, and of which nothing is owed before, answers a state that has kept it. -/
theorem answers_kept {c : Instr} {s : State} {f : Dev → Dev} (hx : exec c s = run f s) (hs : s.settled)
    (hk : ∀ d, KeptBut bs d (f d)) : Answers c s fun d =>
      MemKept s.dev d ∧ d.pins = s.dev.pins ∧ d.nv = s.dev.nv ∧ d.keys = s.dev.keys ∧
        ∀ o, o / 0x100000 ∉ bs → o ∉ ambientRegs → rdReg o d = rdReg o s.dev := by
  have h := (KeptBut.quiet (bs := bs) s.dev).trans (hk s.dev.quiet)
  refine answers_run hx (h.todo.trans hs) fun e he => ⟨fun a => ?_, he.pins.trans h.pins, he.nv.trans h.nv, he.keys.trans h.keys,
    fun o ho ha => (he.rdReg ha).trans (h.regs o ho ha)⟩
  simp only [memByte, he.mem, h.mem]

end Sys2Proof.Machine
end

