-- ==== Sys2Proof/Tests/Slice0.lean ====
section
/-!
SUPPORT. Tests: the operand checks refuse what they must; every statement's hypotheses are met by a small state; the operands and the
codes of a few commands, by hand from the spec's tables.
-/

namespace Sys2Proof.Tests

open Sys2Proof Sys2Proof.Machine

set_option Elab.async false

/-- A device with some register fields written. -/
def withRegs (l : List (Field × Nat)) (d : Dev) : Dev := l.foldl (fun d x => wr x.1 x.2 d) d

/-- A device with nothing waiting. -/
def only (d : Dev) : State := ⟨d, []⟩

/-- Bytes of memory from addresses. -/
def withMem (l : List (Nat × Bytes)) (d : Dev) : Dev := l.foldl (fun d x => memWrite x.1 x.2 d) d

/-! ### The operand checks refuse an ill-formed term each -/

def edgeOk : EdgeSample := { temps := List.replicate 12 40, mv := List.replicate 12 800, vinMv := 12000, ledgers := [] }

theorem test_wf_refuses :
    (Instr.tempoEdge { edgeOk with temps := [40] }).wf = false ∧ (Instr.tempoEdge { edgeOk with mv := [] }).wf = false ∧
    (Instr.writeDataArrive 0 0 (List.replicate 65 0)).wf = false ∧ (Instr.bufferLedgerAudit [1] []).wf = false ∧
    (Instr.indexProbeReceive 1 [] 0 0).wf = false ∧ (Instr.keyTransferReceive 0 true 0 1 [1] true).wf = false ∧
    (Instr.hello 0 65536 0 0 0).wf = false ∧ (Instr.hello 0 1 256 0 0).wf = false ∧ (Instr.hello 0 1 0 65536 0).wf = false ∧
    (Instr.hello 0 1 0 0 65536).wf = false ∧ (Instr.mdlCredit 0 (2 ^ 32) 0).wf = false ∧
    (Instr.mdlCredit 0 0 (2 ^ 32)).wf = false ∧ (Instr.replicationPacketReceive 0 0 [] [] [] true).wf = false ∧
    (Instr.registerWrite true 0 65 0 0).wf = false ∧ (Instr.registerReadClear true 0 65 0).wf = false ∧
    (Instr.nvmeRead { ctx := 262145 }).wf = false ∧ (Instr.nvmeWrite { cid := 65536 }).wf = false ∧ (Instr.flush { prio := 8 }).wf = false ∧
    (Instr.identify { nsid := 2 ^ 32 }).wf = false ∧ (Instr.nvmeCompare { slba := 2 ^ 64 }).wf = false ∧
    (Instr.nvmeVerify { nlb := 65536 }).wf = false ∧ (Instr.beacon { port := 4 }).wf = false ∧
    (Instr.cdtAck { hdr := { type := 256 } }).wf = false ∧ (Instr.cdtNak { hdr := { src := 256 } }).wf = false ∧
    (Instr.cdtReadReq { hdr := { dst := 256 } }).wf = false ∧ (Instr.heartbeat { hdr := { psn := 2 ^ 32 } }).wf = false ∧
    (Instr.cdtSendReceive { hdr := { msn := 2 ^ 32 } }).wf = false ∧ (Instr.alignReq { hdr := { len := 65536 } } 0 0).wf = false := by
  decide +kernel

theorem test_wf_takes :
    (Instr.tempoEdge edgeOk).wf = true ∧ (Instr.writeDataArrive 0 0 (List.replicate 64 0)).wf = true ∧ (Instr.nvmeRead {}).wf = true ∧
    (Instr.beacon {}).wf = true ∧ (Instr.powerGood).wf = true := by
  decide +kernel

/-! ### Chapter 5 -/

def frontDev : Dev := { withRegs [(Reg.GLB_STATE_STATE, 1), (Reg.ETH_PORTCFG_GROUP 0, 3), (Reg.ETH_LINK_UP 0, 1),
    (Reg.NVF_CTRL_RDMA_EN, 1), (Reg.ETH_ECN_RAISE_INT, 10)] {} with
  cas.hasPeer := false
  front.ctxs := [(5, { opn := true, cntlid := 1, rdma := true, resident := true, rate := 1000 }),
    (6, { opn := true, qid := 1, cntlid := 1, rdma := true, fetch := true, rate := 500 })]
  front.ctrls := [(1, { exists_ := true, nqn := 77, admin := 5, kato := 10 })]
  front.ports := [(0, { miss := [⟨6, 3, 2, .data, 0⟩, ⟨9, 3, 2, .data, 1⟩] })]
  fab.banks := [1, 4, 1, 1, 1, 1] }

/-- Hypotheses of HostFramesAndContexts: a port, frames at the length limit, contexts 5 (resident) and 6 (being fetched). -/
theorem test_HostFramesAndContexts :
    let d := frontDev
    let r := wr Reg.TMP_NUMBER_NUMBER 20 d
    (only d).ready ∧ (only d).checkRoom ∧ portLanes 0 d ≠ 0 ∧ rd (Reg.ETH_LINK_UP 0) d = 1 ∧ rd (Reg.ETH_DROP_LEN 0) d < 65535 ∧
    rd (Reg.ETH_DROP_STALE 0) d < 65535 ∧ frameCtx { len := 9216, qpn := 9 } d = none ∧ frameCtx { qpn := 5 } d = some 5 ∧
    (getCtx 5 d).resident = true ∧ frameCtx { qpn := 6 } d = some 6 ∧ (getCtx 6 d).resident = false ∧
    missOcc 0 d + (64 + 63) / 64 ≤ missSlots 0 d ∧ (getCtx 6 d).fetch = true ∧ (getCtx 6 d).opn = true ∧
    (d.front.ctxs.filter fun x => x.2.resident).length < 16384 ∧
    (∀ m ∈ (getPort (getCtx 6 d).port d).miss, m.ctx = 6 → m.pkt = .data) ∧ (getCtx 6 d).slow = false ∧
    pausedPrios 0 (setPause 0 2 8 d) ≠ 0 ∧ (only (setPause 0 2 8 d)).ready ∧
    (∀ p ∈ hostPorts d, ∀ m ∈ (getPort p d).miss, m.ctx = 6 → m.pkt = .data) ∧ 0 ∈ hostPorts d ∧ ⟨6, 3, 2, .data, 0⟩ ∈ (getPort 0 d).miss ∧
    (getCtx 5 d).opn = true ∧ (getCtx 5 d).rdma = true ∧ (getCtx 6 r).opn = true ∧ (getCtx 6 r).rdma = true ∧ (getCtx 6 r).rate < lineRate (getCtx 6 r).port r ∧ (only r).ready ∧
    (getCtx 6 r).lastCut + rd Reg.ETH_ECN_RAISE_INT r < tempoNow r ∧ tempoNow r % rd Reg.ETH_ECN_RAISE_INT r = 0 ∧
    (getCtx 5 d).lastCut + rd Reg.ETH_ECN_CUT_GAP d ≤ tempoNow d ∧ tempoNow d % rd Reg.ETH_ECN_RAISE_INT d = 0 ∧
    0 < rd Reg.ETH_ECN_RAISE_INT d ∧ (d.front.ctxs.map (·.1)).Nodup := by
  intros
  and_intros <;> decide +kernel

/-- Hypotheses of ConnectionsAndLinks. -/
theorem test_ConnectionsAndLinks :
    let d := frontDev
    let g : Dev := { d with pwr.granted := [{ who := .hostPort 0, cls := 5, cost := 10 }] }
    let t : Dev := { d with front.ports := [(0, { training := true })] }
    let p : Dev := { d with front.cmds := [(4, { posted := true })], cas.cmds := [(4, { state := 1 })] }
    (only d).ready ∧ (only g).ready ∧ (only t).ready ∧ glbState d ≠ 0 ∧ rd Reg.NVF_CTRL_RDMA_EN d = 1 ∧ rd (Reg.ETH_LINK_UP 0) d = 1 ∧
    (getCtrl 1 d).nqn = 77 ∧ (getCtrl 1 d).disc = false ∧ (∀ q ∈ ctrlCtxs 1 d, (getCtx q d).qid ≠ 2) ∧
    (getCtx (getCtrl 1 d).admin d).opn = true ∧ d.cas.outputsHeld = false ∧ freeCtx d = some 0 ∧
    freeCntlid d = some 2 ∧ (getCtx 5 d).opn = true ∧ (getCtrl 1 d).exists_ = true ∧ (getCtrl 1 d).kato = 10 ∧ activationPaused d = false ∧
    portLanes 0 d ≠ 0 ∧ (getPort 0 d).quar = false ∧ hasGrant (.hostPort 0) 5 d = false ∧ d.pwr.waiting = [] ∧
    hasGrant (.hostPort 0) 5 g = true ∧ (getPort 0 t).training = true ∧ (only p).ready ∧ (getFc 4 p).posted = true ∧
    (getCmd 4 p).state = 1 := by
  intros
  and_intros <;> decide +kernel

def adminCmd : HostCmd := { ctx := 5, cid := 11 }
def nsDev : Dev := { frontDev with
  sxc.spt := some { domains := [(2, { valid := true, opn := true })], bindings := [(7, 3)] }
  md.pools := [(1, { exists_ := true, w := 2 })]
  md.ns := [(7, { exists_ := true, size := 10, domain := 2, pool := 1, hosts := [77] }), (8, { exists_ := true, domain := 2 })] }

/-- Hypotheses of AdminCommandsComplete. -/
theorem test_AdminCommandsComplete :
    let d := nsDev
    let c := adminCmd
    let create : NsSpec := { blocks := 32, domain := 2, pool := 1 }
    (only d).ready ∧ (∀ op ∈ [NvmeOp.keepAlive, .identify, .getLogPage, .abort, .setFeatures, .getFeatures, .propertyGet, .propertySet,
      .asyncEvent, .nsManage, .nsAttach], capsuleTaken op c 0 d ∧ checksPass op c d) ∧
    capsuleTaken .nsManage { c with sel := 1, nsid := 7 } 0 d ∧ checksPass .nsManage { c with sel := 1, nsid := 7 } d ∧
    (getNs 7 d).exists_ = true ∧ capsuleTaken .nsManage { c with create := create } 0 d ∧
    pickNsid 2 true { domains := [(2, { valid := true, opn := true })], bindings := [(7, 3)] } d = some 1 ∧
    32 % blocksPerSquare 0 = 0 ∧ (getPool 1 d).exists_ = true ∧ (getNs 8 d).exists_ = true ∧ 1 / 32768 = ownHead d ∧
    (getCtrl 1 d).exists_ = true ∧ (getCtrl 1 d).nqn ∉ (getNs 8 d).hosts ∧ (getCtrl 1 d).nqn ∈ (getNs 7 d).hosts ∧ d.flt.inj = none ∧
    capsuleTaken .nsManage { c with sel := 1, nsid := 0xFFFFFFFF } 0 d ∧ checksPass .nsManage { c with sel := 1, nsid := 0xFFFFFFFF } d ∧
    checksPass .nsManage { c with create := create } d ∧ capsuleTaken .nsAttach { c with nsid := 8, val := 1 } 0 d ∧
    checksPass .nsAttach { c with nsid := 8, val := 1 } d ∧ capsuleTaken .nsAttach { c with nsid := 7, val := 1, sel := 1 } 0 d ∧
    checksPass .nsAttach { c with nsid := 7, val := 1, sel := 1 } d ∧ create.blocks ≠ 0 ∧ create.lbaf ≤ 5 ∧ create.pi = 0 ∧ 1 ≤ create.group ∧
    (∀ e ∈ (getCtrl (cntlidOf c d) d).events, e ∈ (getCtrl (cntlidOf c d) d).masked) ∧ checksPass .propertySet { c with sel := 0x14, val := 1 } d ∧
    checksPass .propertyGet { c with sel := 0x08 } d ∧ checksPass .propertyGet { c with sel := 0x14 } d := by
  intros
  and_intros <;> decide +kernel

/-- Hypotheses of AdminCommandsComplete about events. -/
theorem test_AdminCommandsComplete_events :
    let d : Dev := { frontDev with front.ctrls := [(1, { exists_ := true, admin := 5, events := [3, 1] })] }
    capsuleTaken .asyncEvent adminCmd 0 d ∧ checksPass .asyncEvent adminCmd d ∧ (getCtrl (cntlidOf adminCmd d) d).events = [3, 1] ∧
    (getCtrl (cntlidOf adminCmd d) d).aers = [] ∧ 3 ∉ (getCtrl (cntlidOf adminCmd d) d).masked := by
  intros
  and_intros <;> decide +kernel

def ioCmd : HostCmd := { ctx := 6, cid := 12, nsid := 7 }
def ioDev : Dev := { nsDev with
  oimCfg.staging := 1
  ftl.armed := some 0
  ftl.groups := [[0, 1], [2], [3]]
  md.members := (List.range 4).map fun i => (i, { adopted := true, pool := 1, nblocks := 100, rpb := 1024, progRate := 1000000 }) }
def resvDev (r : Reservation) : Dev := { ioDev with md.ns := tmod {} nsDev.md.ns 7 fun x => { x with resv := r } }

/-- Hypotheses of IoCommandsStart: commands that start. -/
theorem test_IoCommandsStart :
    let d := ioDev
    let w : HostCmd := { ioCmd with nlb := 15, sglLen := 8192 }
    let z : HostCmd := { ioCmd with nlb := 31 }
    let u : HostCmd := { ioCmd with ranges := [(16, 16)], val := 4 }
    let r : HostCmd := { ioCmd with nlb := 1, sglLen := 1024 }
    (only d).ready ∧ (∀ op ∈ [NvmeOp.nsManage, .nsAttach, .identify, .getLogPage, .setFeatures, .getFeatures, .abort, .asyncEvent, .keepAlive,
      .propertyGet, .propertySet, .fwDownload, .fwCommit 0, .fwCommit 1, .fwCommit 2, .fwCommit 3], capsuleTaken op adminCmd 0 d) ∧
    (∀ op ∈ [NvmeOp.read, .write, .compare, .verify, .writeZeroes, .flush, .dsm, .resvRegister, .resvReport, .resvAcquire, .resvRelease],
      capsuleTaken op ioCmd 0 d) ∧
    (∀ op ∈ [NvmeOp.flush, .resvReport, .resvRegister], checksPass op ioCmd d) ∧
    (∀ x ∈ [(NvmeOp.write, w, 0), (.writeZeroes, z, 1), (.dsm, u, 2)], capsuleTaken x.1 x.2.1 0 d ∧ checksPass x.1 x.2.1 d ∧
      needsOf { op := x.1, cmd := x.2.1 } d ≠ [] ∧
      (x.2.2 ≠ 0 → ∀ q ∈ needsOf { op := x.1, cmd := x.2.1 } d, q.2.1 = x.2.2) ∧
      needBytes (needsOf { op := x.1, cmd := x.2.1 } d) ≤ freeCapacity 1 d ∧
      (needsOf { op := x.1, cmd := x.2.1 } d).length + slotsHeld d ≤ slotLimit d) ∧ alone d = true ∧
    d.stg.tight = false ∧ d.front.waiting = [] ∧ throttled 7 d = false ∧
    (∀ op ∈ [NvmeOp.read, .verify], capsuleTaken op r 0 d ∧ checksPass op r d) ∧
    metaSize (getNs 7 d).lbaf = 0 ∧ d.stg.slots = [] ∧ (servedNs 7 d).unread = [] ∧ (servedNs 7 d).root = 0 ∧
    (squaresOf 0 0 2).length = 1 ∧ resvKey (getNs 7 d).resv (hostOf ioCmd d) = 0 := by
  intros
  and_intros <;> decide +kernel

/-- An unmapped namespace maps no square. -/
theorem test_IoCommandsStart_unmapped (k : Nat) : gidNil (mapGet (servedNs 7 ioDev).root (servedNs 7 ioDev).depth k ioDev) = true := by
  rfl

/-- Hypotheses of IoCommandsStart: Compare, reservations, waiting capsules. -/
theorem test_IoCommandsStart_more :
    let r : HostCmd := { ioCmd with sglLen := 512, data := List.replicate 512 0 }
    let a : HostCmd := { ioCmd with val := 5, sel := 256 }
    let d1 := resvDev { keys := [(77, 6)] }
    let u : HostCmd := { ioCmd with sel := 1, val := 5 }
    let x : HostCmd := { ioCmd with sel := 2, val := 5, val2 := 8 }
    let k : HostCmd := { ioCmd with sel := 1, val := 5 }
    let d2 := resvDev { keys := [(77, 6)], rtype := 1, holder := some 77 }
    let d3 : Dev := { ioDev with front.capsules := [⟨.keepAlive, adminCmd⟩] }
    (only d1).ready ∧ (only d2).ready ∧ (only d3).ready ∧ (∀ y ∈ [u, x], capsuleTaken .resvRegister y 0 d1 ∧ checksPass .resvRegister y d1 ∧
      resvKey (getNs 7 d1).resv (hostOf y d1) = y.val + 1) ∧ capsuleTaken .resvRelease k 0 d1 ∧ checksPass .resvRelease k d1 ∧
    freeRecord d3 = some 0 ∧ isForwarded .keepAlive adminCmd d3 = false ∧ NvmeOp.keepAlive ≠ .propertySet ∧
    capsuleTaken .compare r 0 ioDev ∧ checksPass .compare r ioDev ∧
    cmdLength (getNs 7 ioDev) r = 512 ∧ capsuleTaken .resvAcquire a 0 d1 ∧ checksPass .resvAcquire a d1 ∧
    resvKey (getNs 7 d1).resv (hostOf a d1) = 6 ∧ (getNs 7 d1).resv.rtype = 0 ∧ capsuleTaken .resvRelease a 0 d2 ∧
    checksPass .resvRelease a d2 ∧ (getNs 7 d2).resv.holder = some (hostOf a d2) ∧ (getNs 7 d2).resv.rtype = 1 ∧
    nextCapsule d3 = some ⟨.keepAlive, adminCmd⟩ ∧ capsuleTaken .keepAlive adminCmd 0 d3 ∧ checksPass .keepAlive adminCmd d3 := by
  intros
  and_intros <;> decide +kernel

/-- Hypotheses of IoCommandsStart: a write that waits for slots, and blocks that land. -/
theorem test_IoCommandsStart_land :
    let d4 : Dev := { ioDev with
      front.waiting := [4], front.cmds := [(4, { op := .write, cmd := { ioCmd with nlb := 15 }, waitSlots := true })] }
    let d5 : Dev := { ioDev with
      front.cmds := [(4, { op := .write, cmd := { ioCmd with nlb := 15, prchk := 4 }, fetched := true, slots := [0] })]
      stg.slots := [(0, { nsid := 7, state := 1, cmd := some 4 })] }
    let d6 : Dev := { d5 with md.ns := tmod {} d5.md.ns 7 fun x => { x with lbaf := 2, pi := 1 } }
    (only d4).ready ∧ (only d5).ready ∧ (only d6).ready ∧ (getFc 4 d5).op = .write ∧ (getFc 4 d5).ready = none ∧ (getFc 4 d4).op = .write ∧
    (getFc 4 d5).landed = [] ∧ metaSize (getNs 7 d5).lbaf = 0 ∧ (getFc 4 d6).op = .write ∧ (getFc 4 d6).ready = none ∧ (getFc 4 d6).fetched = true ∧
    (getFc 4 d6).landed = [] ∧ (getSlot 0 d6).state = 1 ∧ (getFc 4 d6).cmd.pract = false ∧
    (d4.front.waiting.find? fun n => slotsFor n d4 && !waitsBehind n d4) = some 4 ∧ (getFc 4 d5).fetched = true ∧
    slotOfSquare 4 (15 / blocksPerSquare 0) d5 = some 0 ∧ (getSlot 0 d5).state = 1 ∧ 15 ≤ (getFc 4 d5).cmd.nlb ∧
    blockSize (getNs 7 d5).lbaf = 512 ∧ (getFc 4 d5).landed.length + 1 < cmdBlocks (getFc 4 d5).cmd ∧
    slotOfSquare 4 (15 / blocksPerSquare 2) d6 = some 0 ∧ metaSize (getNs 7 d6).lbaf = 8 ∧ bitOf (getFc 4 d6).cmd.prchk 2 = true ∧
    beNat (List.replicate 2 (7 : Byte)) ≠ 0 ∧ beNat (List.replicate 2 (7 : Byte)) ≠ 65535 := by
  intros
  and_intros <;> decide +kernel

/-- The guard of a block of zeros is 0: a block of zeros under a guard of other bytes fails its check. -/
theorem test_IoCommandsStart_guard (n : Nat) : crc16 (List.replicate n 0) = 0 := by
  unfold crc16
  induction n with
  | zero => rfl
  | succ n ih => rw [List.replicate_succ, List.foldl_cons]; exact ih

/-! ### Chapter 6 -/

def stageDev (x : Slot) : Dev := { withRegs [(Reg.GLB_STATE_STATE, 1), (Reg.CL_CTRL_FUNCTION 0, 1), (Reg.CL_CTRL_FUNCTION 1, 2),
    (Reg.TMP_NUMBER_NUMBER, 5), (Reg.CIP_KINFO_KIND 3, 2), (Reg.CIP_KINFO_INDEX 3, 1),
    (accEnable 3, 4095), (accEnable 5, 15), (accEnable 6, 3)] {} with
  stg.slots := [(9, x)]
  md.ns := [(7, { exists_ := true, size := 10, pool := 1, domain := 2, compress := false })] }
def baseSlot : Slot := { nsid := 7, square := 3, state := 2, cmd := some 2 }

/-- Hypotheses of ReductionStepsAdvanceSlots: the mirror, and the take of each kind of slot. -/
theorem test_ReductionStepsAdvanceSlots :
    let d : Dev := { stageDev baseSlot with
      cas.cmds := [(2, { state := 1, acked := true })], front.cmds := [(2, { op := .write, slots := [9] })] }
    let a := stageDev { baseSlot with state := 3, valid := 65535 }
    let z := stageDev { baseSlot with state := 3, kind := 1 }
    let u := stageDev { baseSlot with state := 3, kind := 2 }
    let p : Dev := { a with stg.slots := [(9, { baseSlot with state := 3, valid := 1 }),
      (10, { baseSlot with state := 3, valid := 65535, ssn := 4, older := some 9 })] }
    (only d).ready ∧ (getSlot 9 d).state = 2 ∧ (getSlot 9 d).cmd = some 2 ∧ (getFc 2 d).ready = none ∧
    (∀ m ∈ (getFc 2 d).slots, m = 9 ∨ 3 ≤ (getSlot m d).state) ∧ inTrouble a = false ∧ nextSlot 2 a = some 9 ∧
    superseded (getSlot 9 a) a = false ∧ nextSlot 2 z = some 9 ∧ superseded (getSlot 9 z) z = false ∧ nextSlot 2 u = some 9 ∧
    superseded (getSlot 9 u) u = false ∧ nextSlot 2 p = some 9 ∧ superseded (getSlot 9 p) p = true := by
  intros
  and_intros <;> decide +kernel

/-- Hypotheses of ReductionStepsAdvanceSlots: acknowledgements, failed mirror writes, a slot that merges. -/
theorem test_ReductionStepsAdvanceSlots_mirror :
    let d : Dev := { stageDev baseSlot with cas.cmds := [(2, { state := 1 })], front.cmds := [(2, { op := .write, slots := [9] })] }
    let o := mkGid 0 1 5
    let g : Dev := { stageDev { baseSlot with state := 3, valid := 1 } with
      md.ns := [(7, { exists_ := true, size := 10, pool := 1, domain := 2, depth := 1, root := mkRef 5 false })]
      md.nodes := [(5, { ent := [(3, o)] })]
      md.gtes := [(o, { refcnt := 1, seg := 4 })], md.segs := [(4, { state := 1 })] }
    let w := stageDev { baseSlot with state := 4, held := true, heldGid := 6, work.phase := 12, unacked := true }
    (only d).ready ∧ (getCmd 2 d).state = 1 ∧ (getFc 2 d).torn = false ∧ d.cas.hasPeer = true ∧ peerLost d = false ∧
    mirrorWanted (.slot 9) d = true ∧ (pathPorts (peerDev d) d).filter (· != 0) = [] ∧ (only g).ready ∧ nextSlot 2 g = some 9 ∧
    superseded (getSlot 9 g) g = false ∧ (0 : BitVec 16).toNat &&& (getSlot 9 g).valid = 0 ∧ (getSlot 9 g).valid ≠ 65535 ∧
    mapGet (getNs 7 g).root (getNs 7 g).depth 3 g = o ∧ gidNil o = false ∧ gidLocal o g = true ∧ (getGte o g).refcnt ≠ 0 ∧
    (getGte o g).lost = false ∧ (getSeg (getGte o g).seg g).state ≠ 0 ∧ (only w).ready ∧ (getSlot 9 w).state = 4 ∧
    (getSlot 9 w).work.phase = 12 := by
  intros
  and_intros <;> decide +kernel

/-- Hypotheses of ReductionStepsAdvanceSlots: slots in reduction. -/
theorem test_ReductionStepsAdvanceSlots_work :
    let m (r : Option (Nat × Bool × Bytes)) : Dev := { stageDev { baseSlot with state := 4, valid := 1, work.phase := 1 } with
      stg.reads := [(0, { who := .merge 9, gid := 5, img := {}, res := r })] }
    let n (a : ProbeAns) : Dev := stageDev { baseSlot with state := 4, work.phase := 3, work.ans := some a }
    let h : Dev := { n { result := 0, gid := mkGid 0 1 77 } with md.gtes := [(mkGid 0 1 77, { refcnt := 1, kdom := 2 })] }
    let f := n { result := 0, gid := mkGid 2 1 77 }
    let v : Dev := { h with md.ns := [(7, { exists_ := true, size := 10, pool := 1, domain := 2, compare := true })], md.segs := [(0, { state := 1 })] }
    let p (e : Nat) (q : List PipeJob) : Dev := { wr (accEnable 6) e (stageDev { baseSlot with state := 4, work.phase := 2, work.square := List.replicate 8192 0 }) with
      accels := [(6, { pipe := q })] }
    let z : Dev := { p 3 [] with accels := [(6, { lanes := [(0, { quar := true }), (1, { quar := true })] })] }
    (∃ r, slotJob (.merge 9) (m (some (0, false, []))) = some (0, r) ∧ r.res = some (0, false, [])) ∧
    (∃ r, slotJob (.merge 9) (m (some (5, false, []))) = some (0, r) ∧ r.res = some (5, false, [])) ∧
    (getSlot 9 (n { result := 1, flags := 1 })).work.ans = some { result := 1, flags := 1 } ∧
    ((only h).ready ∧ (only f).ready ∧ inTrouble f = false ∧ gidLocal (mkGid 2 1 77) f = false ∧ hitRefused 9 { result := 0, gid := mkGid 2 1 77 } f.quiet = none ∧
      slotAlone 9 { f with cas.hasPeer := false } = true ∧ hitRefused 9 { result := 0, gid := mkGid 0 1 77 } v.quiet = none ∧
      (comparePolicy (getNs 7 v) v.quiet).1 = true ∧ gidLocal (mkGid 0 1 77) v = true ∧ (getSeg (getGte (mkGid 0 1 77) v).seg v).state ≠ 0 ∧
      (only (p 3 [])).ready ∧ laneServes 6 (p 3 []) = true ∧ pipeReady 6 (.slot 9) (p 3 []) ∧ ((pipeOf 6 (.slot 9) (p 3 [])).bind (·.failed)) = none ∧
      laneServes 6 z = false ∧ (getSlot 9 z).work.phase = 2 ∧ (getSlot 9 z).state = 4) ∧
    gidLocal (mkGid 0 1 77) h = true ∧ hitRefused 9 { result := 0, gid := mkGid 0 1 77 } h.quiet = none ∧
    comparePolicy (getNs 7 h) h.quiet = (false, h.quiet) ∧
    (getSlot 9 (stageDev { baseSlot with state := 4, held := true, heldGid := 6, work.phase := 5, work.expect_ := 55 })).work.phase = 5 := by
  intros
  refine ⟨⟨_, rfl, rfl⟩, ⟨_, rfl, rfl⟩, rfl, ?_, ?_, ?_, ?_, rfl⟩ <;> first | decide +kernel | (and_intros <;> decide +kernel)

def placeDev (sq : Bytes) : Dev := { stageDev { baseSlot with state := 4, work.phase := 6, work.square := sq } with
  keys.wkt := [(2, { desc := ⟨4096, 2 ^ 64 - 1 - 4096⟩ })]
  keys.slots := [(3, { key := [1], comp := 2 ^ 64 - 1 - (2 ^ 20 + 2 * 2 ^ 13) })]
  md.pools := [(1, { exists_ := true, seqNext := 5, seqMark := 9 })]
  md.segs := [(4, { state := 1, w := 2, cols := [{ member := 0 }, { member := 1 }, { member := 2 }, { member := 3 }], rpb := 10 })]
  stg.rows := [(0, { state := 1, pool := 1, seg := 4, first := 2 })]
  stg.rowNext := 1 }

/-- Hypotheses of ReductionStepsAdvanceSlots: a frame is placed under the pool's integrity key, and sealed. -/
theorem test_ReductionStepsAdvanceSlots_place :
    let d := placeDev [1, 2]
    let e := (compressStep 9 .ok d.quiet).2
    let q := modSlot 9 (fun s => { s with work := { s.work with phase := 10 } }) d
    (only d).ready ∧ (getSlot 9 d).state = 4 ∧ (getSlot 9 d).work.phase = 6 ∧ (getNs 7 d).compress = false ∧ inTrouble d = false ∧
    laneServes 3 d = true ∧ pipeOf 3 (.slot 9) d = none ∧ (compressStep 9 .ok d.quiet).1 = .ok ∧ (getSlot 9 e).work.pay = some (0, false, [1, 2]) ∧
    writeKey (getNs 7 d) e = (some (false, 0, [1]), e) ∧ nextGid 1 e = (some (mkGid 0 1 5), e) ∧
    openRowOf 0 0 e = some 0 ∧ (getRow 0 e).pool = 1 ∧
    rowUsed (getRow 0 e) + 16 * ((48 + 2 + padOf 2) / 16) ≤ rowSpace (getRow 0 e) e ∧ e.todo = [] ∧
    (only q).ready ∧ (getSlot 9 q).state = 4 ∧ (getSlot 9 q).work.phase = 10 ∧ inTrouble q = false ∧ laneServes 3 q = true ∧
    pipeReady 3 (.slot 9) q := by
  intros
  and_intros <;> decide +kernel

def rowDev (r : Row) : Dev := { placeDev [] with stg.slots := [], stg.rows := [(0, r)], oimCfg.rowAge := 3 }
def oneFrame : Row := { state := 1, pool := 1, seg := 4, first := 2,
                        frames := [{ gid := 5, slot := none, off := 0, slen := 3, bytes := [], src := none }] }

/-- Hypotheses of RowsAndTransactions: rows. -/
theorem test_RowsAndTransactions :
    let a := rowDev oneFrame
    let b := rowDev { oneFrame with state := 2 }
    let g : Dev := { b with pwr.granted := [{ who := .engine 8, cls := 1, cost := 4 }] }
    let c := rowDev { oneFrame with state := 3, cols := [(0, 1), (1, 1), (2, 1), (3, 1)] }
    let f := rowDev { oneFrame with state := 3, cols := [(0, 2)] }
    let w : Dev := { wr (accEnable 5) 15 b with accels := [] }
    (only a).ready ∧ (only b).ready ∧ (only g).ready ∧ (only c).ready ∧ (only f).ready ∧ (getRow 0 b).after ≤ tempoNow b ∧ laneServes 5 b = true ∧
    unsealed (getRow 0 b) b = false ∧ pipeReady 5 (.row 0) b ∧ pipeReady 5 (.row 0) g ∧ unsealed (getRow 0 g) g = false ∧ (getRow 0 w).parity = false ∧
    ((pipeOf 5 (.row 0) w).bind (·.failed)) = none ∧ (getRow 0 c).void = false ∧ inTrouble c = false ∧ 0 < c.stg.rowNext ∧
    (∀ m ∈ rowsOf (getRow 0 c).seg true c, (getRow 0 c).row ≤ (getRow m c).row) ∧ (getRow 0 c).kind = 0 ∧ journalQuiet c ∧
    (getRow 0 f).state = 3 ∧ (getRow 0 f).kind ≠ 4 ∧
    (getRow 0 a).state = 1 ∧ (getRow 0 a).frames ≠ [] ∧ (getRow 0 a).first + a.oimCfg.rowAge ≤ tempoNow a ∧
    engineBusy 0 b = false ∧ rowTurn 0 b = true ∧ hasGrant (.engine (rowEngine 0 b)) 1 b = false ∧ b.pwr.waiting = [] ∧
    hasGrant (.engine (rowEngine 0 g)) 1 g = true ∧ rowTurn 0 g = true ∧ engineBusy 0 g = false ∧
    rowSuccess (getRow 0 c) c = true ∧ (∀ x ∈ (getRow 0 c).frames, x.slot = none) ∧ frameless 0 c = [] ∧
    (rowsOf 4 true c).all (fun n => !((getRow n c).row < (getRow 0 c).row)) = true ∧ metaStalled c = false ∧ alone c = false ∧
    c.stg.journal = [] ∧ 0 < f.stg.rowNext ∧ (getRow 0 f).cols.any (fun c => c.2 == 2) = true := by
  intros
  and_intros <;> first | decide +kernel | (intro p; rfl)

/-- Hypotheses of RowsAndTransactions: records. -/
theorem test_RowsAndTransactions_records :
    let d := stageDev { baseSlot with state := 5, work.phase := 8, work.action := 4, work.engine := 3 }
    let c : Dev := { d with stg.journal := [{ tsn := 1, tempo := 0, nsid := 0, head := 0, body := .gidMark [mkGid 0 1 77] }] }
    let p : Dev := { d with stg.mirrorJ := [{ tsn := 1, tempo := 0, nsid := 0, head := 1, body := .gidMark [mkGid 0 1 77] }] }
    let l : Dev := { d with stg.releases := [⟨3, 4⟩] }
    (only d).ready ∧ (only c).ready ∧ (only p).ready ∧ (only l).ready ∧ inTrouble d = false ∧ journalQuiet d ∧ journalQuiet l ∧
    releasesBuilt 3 l < (l.stg.releases.filter (·.gid == 3)).length ∧ 1 ≠ d.md.tsnOwn ∧
    frameless 3 d = [9] ∧ (getSlot 9 d).batch = none ∧ (openRowOf 3 0 d).all (fun r => (getRow r d).frames.isEmpty) = true ∧
    metaStalled d = false ∧ walkHolds 7 d = false ∧ foreignGains 7 [slotEntry 9 none d] (marked [9] d.quiet) = [] ∧
    alone d = false ∧ d.stg.journal = [] ∧ c.md.tsnOwn + 1 = 1 ∧ ownHead c = 0 ∧ c.stg.mirrorJ = [] ∧ p.md.tsnPeer < 1 := by
  intros
  and_intros <;> first | decide +kernel | (intro p; rfl)

/-! ### Chapter 7 -/

def fp11 : Bytes := List.replicate 32 0x11
/-- A slot waits for the answer to its probe, whose partition has an owner byte. -/
def indexDev (own : Nat) : Dev := { withRegs [(Reg.GLB_STATE_STATE, 1), (Reg.TMP_NUMBER_NUMBER, 5), (Reg.FIU_CTRL_EN, 1),
    (Reg.FIU_CTRL_BKT_BITS, 10), (Reg.FIU_CTRL_SCRUB_RATE, 2000), (Reg.FIU_OWN_VER_VERSION, 3), (Reg.FIU_OWN_OWNER 34 1, own)] {} with
  stg.slots := [(9, { nsid := 7, state := 4, work.phase := 3, work.fp := fp11 })]
  fiu.probes := [.slot 9]
  md.ns := [(7, { exists_ := true, size := 10, pool := 1, domain := 2 })] }
def withBucket (l : Tab Bytes) (d : Dev) : Dev := { d with fiu.buckets := [(bucketKey 273 68, l)] }
def rprobe : RemoteProbe := { tag := 4, who := .slot 9, fp := fp11, kdom := 2, due := 5, owner := 3 }

/-- Hypotheses of IndexProbesAnswered. -/
theorem test_IndexProbesAnswered :
    let d := indexDev 0
    let v := indexDev 0x80
    let h := withBucket [(3, mkEntry fp11 77 2 false)] v
    let m := withBucket [(0, mkEntry fp11 77 3 false)] v
    let f := indexDev 0x83
    let w : Dev := { d with fiu.remote := [{ rprobe with retryVer := some 3 }] }
    (only d).ready ∧ (getSlot 9 d).state = 4 ∧ (getSlot 9 d).work.phase = 3 ∧ ownValid 273 d = false ∧ partOf (beNat fp11) = 273 ∧
    servesPart 273 v = true ∧ filterAbsent (beNat fp11) v = true ∧ filterAbsent (beNat fp11) h = false ∧ servesPart 273 h = true ∧
    (getBucket (bucketKey 273 68) h).find? (fun e => entryMatches e.2 fp11 2) = some (3, mkEntry fp11 77 2 false) ∧
    filterAbsent (beNat fp11) m = false ∧ (getBucket (bucketKey 273 68) m).find? (fun e => entryMatches e.2 fp11 2) = none ∧
    rdb Reg.FIU_CTRL_EN f = true ∧ ownValid 273 f = true ∧ servesPart 273 f = false ∧ servesPart 273 d = false ∧
    rprobe.retryVer = none ∧ rprobe.due ≤ tempoNow d ∧ 3 ≤ rd Reg.FIU_OWN_VER_VERSION w ∧ (∀ p ∈ w.fiu.remote, p.tag ≠ 5) ∧
    rd Reg.FIU_STALE_LATE w < 2 ^ 32 - 1 := by
  intros
  and_intros <;> decide +kernel

def scrubDev : Dev := withRegs [(Reg.TMP_NUMBER_NUMBER, 5000), (Reg.FIU_CTRL_SCRUB_EN, 1)]
  (withBucket [(3, mkEntry fp11 77 2 false)] (indexDev 0x80))
def ringBadDev : Dev := memWriteNat 0x10000000 1 2 (memWriteNat 0x10000005 1 1
  (withRegs [(Reg.FIU_RING_BASE 3, 0x10000000)] { indexDev 0 with taskRings := [(131, { prod := 1 })] }))
def auditDev : Dev := { indexDev 0 with
  md.gtes := [(77, { refcnt := 5 })], fiu.audit := some { cut := 1, made := true, counts := [(77, 2)], doubts := [77] } }

/-- Hypotheses of IndexEntriesChange. -/
theorem test_IndexEntriesChange :
    let d := indexDev 0x80
    let h := withBucket [(3, mkEntry fp11 77 2 false)] d
    (only d).ready ∧ servesPart 273 d = true ∧ ownMoving 273 d = false ∧ tget [] (getBucket (bucketKey 273 68) d) 3 = [] ∧
    rd Reg.FIU_INS_OK d < 2 ^ 32 - 1 ∧ entryMatches (tget [] (getBucket (bucketKey 273 68) h) 3) fp11 2 = true ∧
    entryGid (tget [] (getBucket (bucketKey 273 68) h) 3) = 77 ∧ bucketOf (beNat fp11) d = 68 ∧
    fiuDesc 3 ringBadDev = some 0x10000000 ∧ fiuBad (memRead ringBadDev 0x10000000 32) = true ∧
    fld (memRead ringBadDev 0x10000000 32) 0 1 ≠ 1 ∧ tempoNow d < (9 : BitVec 64).toNat ∧ alone d = false ∧ d.stg.journal = [] ∧
    tempoNow scrubDev % 1000 = 0 ∧ bucketKey 273 68 / 2 ^ 22 ∈ servedParts scrubDev ∧ rdb Reg.FIU_CTRL_SCRUB_EN scrubDev = true ∧
    (servedParts scrubDev).length * 2 ^ bktBits scrubDev ≤ rd Reg.FIU_CTRL_SCRUB_RATE scrubDev ∧
    entryValid (tget [] (getBucket (bucketKey 273 68) scrubDev) 3) = true ∧ gidLocal 77 scrubDev = true ∧
    (getGte 77 scrubDev).refcnt = 0 ∧ gidDev 77 = ownDev auditDev ∧ alone auditDev = false ∧ rd Reg.FIU_AUD_DOUBT auditDev < 65535 := by
  intros
  and_intros <;> decide +kernel

/-- Hypotheses of IndexProbesAnswered and IndexEntriesChange: replies, retries, blocks of memory, another device's partitions. -/
theorem test_IndexProbesAnswered_more :
    let q (own : Nat) (p : RemoteProbe) : Dev := { indexDev own with fiu.remote := [p] }
    let b : Dev := withMem [(0x10002000, fp11 ++ [2, 0])] { indexDev 0x80 with fiu.probes := [.block 0x10002000] }
    let a : Dev := { indexDev 0x83 with fiu.removes := [⟨77, 2, fp11, 3⟩] }
    (only (q 0 rprobe)).ready ∧ ((q 0 rprobe).fiu.remote.find? (·.tag == 4)) = some rprobe ∧ rprobe.who = .slot 9 ∧ rprobe.retried = false ∧
    (q 0 { rprobe with retried := true }).fiu.remote.find? (·.tag == 4) = some { rprobe with retried := true } ∧
    3 ≤ rd Reg.FIU_OWN_VER_VERSION (q 0 { rprobe with retryVer := some 3 }) ∧ ownValid 273 (q 0 rprobe) = false ∧ servesPart 273 (q 0x80 rprobe) = true ∧
    fiuOn (q 0x83 rprobe) = true ∧ ownValid 273 (q 0x83 rprobe) = true ∧ servesPart 273 (q 0x83 rprobe) = false ∧
    (only b).ready ∧ (probeOf (.block 0x10002000) b).2.2 = false ∧ partOf (beNat (memRead b 0x10002000 32)) = 273 ∧ servesPart 273 b = true ∧
    filterAbsent (beNat (memRead b 0x10002000 32)) b = true ∧ (only a).ready ∧ fiuWay 273 a = .away ∧ farWaits 8 a = false := by
  intros
  and_intros <;> decide +kernel

/-- Hypotheses of IndexEntriesChange: descriptors, retiring GIDs, the filter, the audit. -/
theorem test_IndexEntriesChange_more :
    let ring (b : Bytes) (l : Tab Bytes) : Dev := withMem [(0x10000000, b), (0x10002000, fp11), (0x10003000, mkEntry fp11 77 2 false)]
      (withBucket l (withRegs [(Reg.FIU_RING_BASE 3, 0x10000000)] { indexDev 0x80 with taskRings := [(131, { prod := 1 })] }))
    let i := ring ([1, 0, 2, 0, 0xFF, 0, 0, 0] ++ leBytes 8 77 ++ leBytes 8 0x10002000) []
    let m := ring ([2, 0, 2, 0, 3, 0, 0, 0] ++ leBytes 8 0 ++ leBytes 8 0x10003000) [(3, mkEntry fp11 77 2 false)]
    let p : Dev := { indexDev 0x80 with fiu.retiring := [⟨44, [], [], true⟩], fiu.bypass := [4, 5] }
    (only i).ready ∧ fiuDesc 3 i = some 0x10000000 ∧ fiuBad (memRead i 0x10000000 32) = false ∧ fld (memRead i 0x10000000 32) 0 1 = 1 ∧
    partOf (beNat (memRead i (fld (memRead i 0x10000000 32) 16 8) 32)) = 273 ∧ servesPart 273 i = true ∧ ownMoving 273 i = false ∧
    fld (memRead i 0x10000000 32) 4 1 > 63 ∧ tget [] (getBucket (bucketKey 273 68) i) 0 = [] ∧
    (only m).ready ∧ fiuBad (memRead m 0x10000000 32) = false ∧ fld (memRead m 0x10000000 32) 0 1 = 2 ∧
    partOf (entryFp (memRead m (fld (memRead m 0x10000000 32) 16 8) 32)) = 273 ∧ servesPart 273 m = true ∧
    tget [] (getBucket (bucketKey 273 (bucketOf (entryFp (mkEntry fp11 77 2 false)) m)) m) 3 = memRead m 0x10003000 32 ∧
    (only p).ready ∧ p.fiu.retiring.find? (·.gid == 44) = some ⟨44, [], [], true⟩ ∧ pinBuilt 44 p = false ∧ journalQuiet p ∧
    p.fiu.bypass = [4, 5] ∧ (only auditDev).ready ∧ journalQuiet auditDev := by
  intros
  and_intros <;> first | decide +kernel | (intro p; rfl)

/-! ### Chapter 8 -/

def desc0 : Nat := 0x10000000
def buf0 : Nat := 0x10010000
def out0 : Nat := 0x10020000
def ctx0 : Nat := 0x10040000
/-- A lane whose descriptor begins with 48 given bytes. -/
def laneDev (k n : Nat) (b : Bytes) : Dev := withMem [(desc0, b), (buf0, [1, 2, 3, 4])] (withRegs
  [(Reg.GLB_STATE_STATE, 1), (accBase k 0, desc0), (accProd k 0, 1), (accEnable k, 3)]
  { accels := [(k, { lanes := [(n, { running := true, job := some (0, 0) })], next := [(0, 1)] })] })
def cmpDesc (op mode flags inLen decl : Nat) (ctx : Nat) : Bytes :=
  leBytes 1 op ++ leBytes 1 mode ++ leBytes 1 flags ++ leBytes 1 0 ++ leBytes 4 inLen ++ leBytes 8 buf0 ++ leBytes 4 100 ++ leBytes 4 decl
    ++ leBytes 8 out0 ++ leBytes 8 ctx ++ leBytes 8 77

/-- Hypotheses of CompressionJobsEnd. -/
theorem test_CompressionJobsEnd :
    let o := laneDev 4 1 (cmpDesc 1 0 0 4 0 0)
    let s := laneDev 4 1 (cmpDesc 1 1 2 4 0 ctx0)
    let c : Dev := { laneDev 4 1 (cmpDesc 1 2 4 4 0 ctx0) with cmpStreams := [(ctx0, ⟨true, false⟩)] }
    let x := laneDev 4 1 (cmpDesc 9 0 0 4 0 0)
    let q := laneDev 4 1 (cmpDesc 1 2 4 4 0 ctx0)
    (only o).ready ∧ laneHolds 4 1 0 0 o ∧ rangePoisoned ctx0 196608 c = false ∧ o.seals = [] ∧ cmpKind (descBytes 4 0 0 o) = 0 ∧ cmpOk (descBytes 4 0 0 o) o = true ∧
    jobClean (bitOf (fld (descBytes 4 0 0 o) 2 1) 0) buf0 4 o ∧ jobClean (bitOf (fld (descBytes 4 0 0 s) 2 1) 0) buf0 4 s ∧ (only s).ready ∧
    jobClean (bitOf (fld (descBytes 4 0 0 c) 2 1) 0) buf0 4 c ∧ (only c).ready ∧ (only x).ready ∧ (only q).ready ∧ laneHolds 4 1 0 0 c ∧ laneHolds 4 1 0 0 x ∧
    bitOf (fld (descBytes 4 0 0 o) 2 1) 0 = false ∧ rangesApart out0 100 desc0 64 ∧
    rangesApart out0 100 ctx0 196608 ∧ cmpKind (descBytes 4 0 0 s) = 1 ∧ cmpOk (descBytes 4 0 0 s) s = true ∧ laneHolds 4 1 0 0 s ∧
    cmpKind (descBytes 4 0 0 c) = 2 ∧ cmpOk (descBytes 4 0 0 c) c = true ∧ tget {} c.cmpStreams ctx0 = ⟨true, false⟩ ∧
    cmpKind (descBytes 4 0 0 x) = 0 ∧ cmpOk (descBytes 4 0 0 x) x = false ∧ cmpKind (descBytes 4 0 0 q) = 2 ∧
    (tget {} q.cmpStreams ctx0).opn = false ∧ fld (descBytes 4 0 0 q) 32 8 = ctx0 := by
  intros
  and_intros <;> decide +kernel

/-- A granule frame's first bytes: content size 4, checksum (RFC 8878). -/
def frame4 : Bytes := [0x28, 0xB5, 0x2F, 0xFD, 0x24, 4, 0, 0, 0, 0]
def unzDev : Dev := withMem [(buf0, frame4)] (laneDev 4 1 (cmpDesc 2 0 16 10 4 0))

theorem test_CompressionJobsEnd_decompress :
    (only unzDev).ready ∧ jobClean false buf0 10 unzDev ∧ bitOf (fld (descBytes 4 0 0 unzDev) 2 1) 0 = false ∧
    6 ≤ (memRead unzDev buf0 10).length ∧ 4 ≤ 131072 ∧ cmpKind (descBytes 4 0 0 unzDev) = 3 ∧ cmpOk (descBytes 4 0 0 unzDev) unzDev = true ∧ laneHolds 4 1 0 0 unzDev ∧
    zstdHeader (memRead unzDev buf0 10) = some (6, some 4, 4, true) ∧ (some 4).all (· == fld (descBytes 4 0 0 unzDev) 20 4) = true ∧
    (getLane (accKind 1) 1 unzDev).running = true := by
  and_intros <;> decide +kernel

def digDesc (op mode flags tlen len : Nat) (key ctx keyLen keyNum : Nat) : Bytes :=
  leBytes 1 op ++ leBytes 1 mode ++ leBytes 1 flags ++ leBytes 1 tlen ++ leBytes 4 len ++ leBytes 8 buf0 ++ leBytes 8 out0
    ++ leBytes 8 key ++ leBytes 8 ctx ++ leBytes 2 keyLen ++ leBytes 1 keyNum ++ [0, 1, 1, 1, 1]

/-- Hypotheses of DigestJobsEnd. -/
theorem test_DigestJobsEnd :
    let p := laneDev 6 1 (digDesc 1 0 0 0 4 0 0 0 0)
    let v := laneDev 6 1 (digDesc 5 0 2 16 4 buf0 0 4 0)
    let c := laneDev 6 1 (digDesc 8 0 0 0 4 0 0 0 0)
    let s := laneDev 6 1 (digDesc 4 1 8 0 4 0 ctx0 0 0)
    let x := laneDev 6 1 (digDesc 1 0 0 5 4 0 0 0 0)
    let e := withMem [(ctx0 + 42, [1])] (laneDev 6 1 (digDesc 1 3 0 0 4 0 ctx0 0 0))
    (only e).ready ∧ laneHolds 6 1 0 0 e ∧ digKind (descBytes 6 0 0 e) = 1 ∧ fld (descBytes 6 0 0 e) 1 1 = 3 ∧ digOk (descBytes 6 0 0 e) e = true ∧
    jobClean false buf0 4 e ∧ (match digestBegin (descBytes 6 0 0 e) [] (memRead e ctx0 512) e with | .got _ _ => true | _ => false) = true ∧
    jobClean false buf0 4 p ∧ jobClean false buf0 4 v ∧ jobClean false buf0 4 s ∧ (only v).ready ∧ (only s).ready ∧ (only x).ready ∧
    (match digestBegin (descBytes 6 0 0 s) [] (memRead s ctx0 512) s with | .got _ _ => true | _ => false) = true ∧
    (only p).ready ∧ laneHolds 6 1 0 0 p ∧ p.seals = [] ∧ digKind (descBytes 6 0 0 p) = 1 ∧ digOk (descBytes 6 0 0 p) p = true ∧ p.fab.poison = [] ∧
    bitOf (fld (descBytes 6 0 0 p) 2 1) 0 = false ∧ rangesApart out0 32 desc0 64 ∧ digKind (descBytes 6 0 0 v) = 5 ∧
    digOk (descBytes 6 0 0 v) v = true ∧ bitOf (fld (descBytes 6 0 0 v) 2 1) 1 = true ∧ laneHolds 6 1 0 0 v ∧
    digKind (descBytes 6 0 0 c) = 8 ∧ digOk (descBytes 6 0 0 c) c = true ∧ digKind (descBytes 6 0 0 s) = 4 ∧
    digOk (descBytes 6 0 0 s) s = true ∧ fld (descBytes 6 0 0 s) 1 1 = 1 ∧ rangesApart ctx0 512 desc0 64 ∧
    digKind (descBytes 6 0 0 x) = 1 ∧ digOk (descBytes 6 0 0 x) x = false := by
  intros
  and_intros <;> decide +kernel

/-! ### Chapters 9 and 13: the cipher and erasure engines, keys -/

def cipDesc (op mode flags kslot inLen aadLen dslot kid dkid : Nat) (iv : Bytes) : Bytes :=
  leBytes 1 op ++ leBytes 1 mode ++ leBytes 1 flags ++ leBytes 1 kslot ++ leBytes 4 inLen ++ leBytes 8 buf0 ++ leBytes 8 out0
    ++ leBytes 8 (if aadLen = 0 then 0 else buf0) ++ leBytes 4 aadLen ++ leBytes 1 dslot ++ leBytes 3 0 ++ leBytes 8 0 ++ iv
    ++ leBytes 8 0 ++ leBytes 4 kid ++ leBytes 4 dkid
/-- A cipher lane with a descriptor, and slot 5 holding the DEK of domain 3 at generation 0. -/
def cipDev (b : Bytes) : Dev := loadSlot 5 1 0 3 0 (List.replicate 32 1) (laneDev 3 1 b)
def kid5 : Nat := 3 + 2 ^ 20

/-- Hypotheses of CipherJobsEnd: plain modes, GCM, GMAC. -/
theorem test_CipherJobsEnd :
    let c := cipDev (cipDesc 1 1 0 5 16 0 0 kid5 0 (leBytes 16 9))
    let g := cipDev (cipDesc 5 4 0 5 4 0 0 kid5 0 (leBytes 16 9))
    let h := cipDev (cipDesc 5 5 0 5 4 0 0 kid5 0 (leBytes 16 9))
    let m := cipDev (cipDesc 6 4 0 5 0 4 0 kid5 0 (leBytes 16 9))
    let v := cipDev (cipDesc 6 5 0 5 0 4 0 kid5 0 (leBytes 16 9))
    (only c).ready ∧ laneHolds 3 1 0 0 c ∧ cipKind (descBytes 3 0 0 c) = 1 ∧ cipOk (descBytes 3 0 0 c) c = true ∧
    (slotKind 5 c).1 = 1 ∧ kid5 / 2 ^ 20 = 1 ∧ rd (Reg.CIP_KINFO_INDEX 5) c = kid5 % 4096 ∧ rd (Reg.CIP_KINFO_GEN 5) c = kid5 / 4096 % 256 ∧
    cipKeyOk (descBytes 3 0 0 c) 1 (rd (Reg.CIP_KINFO_CLASS 5) c) = true ∧ (getLane 3 1 c).restored = false ∧ c.fab.poison = [] ∧
    rangesApart out0 (cipOutLen (descBytes 3 0 0 g)) desc0 128 ∧ cipKind (descBytes 3 0 0 g) = 5 ∧ cipOk (descBytes 3 0 0 g) g = true ∧
    cipKeyOk (descBytes 3 0 0 g) 1 0 = true ∧ cipDec (descBytes 3 0 0 g) = false ∧ cipDec (descBytes 3 0 0 h) = true ∧
    cipOk (descBytes 3 0 0 h) h = true ∧ cipOk (descBytes 3 0 0 m) m = true ∧ cipOk (descBytes 3 0 0 v) v = true := by
  intros
  and_intros <;> decide +kernel

/-- Hypotheses of CipherJobsEnd: key wraps, refusals. -/
theorem test_CipherJobsEnd_keys :
    let w := cipDev (cipDesc 7 0 0 5 16 0 0 kid5 0 (leBytes 16 0))
    let u := cipDev (cipDesc 8 1 0 5 24 0 0 kid5 0 (leBytes 16 0))
    let k := cipDev (cipDesc 7 3 4 5 24 0 6 kid5 7 (leBytes 16 0))
    let x := cipDev (cipDesc 9 0 0 5 16 0 0 kid5 0 (leBytes 16 0))
    let y := cipDev (cipDesc 2 1 0 6 16 0 0 kid5 0 (leBytes 16 0))
    cipOk (descBytes 3 0 0 w) w = true ∧ cipOk (descBytes 3 0 0 u) u = true ∧ cipKeyDest (descBytes 3 0 0 u) = false ∧
    cipOk (descBytes 3 0 0 k) k = true ∧ cipKeyDest (descBytes 3 0 0 k) = true ∧ slotHeld 6 (some 1) k = false ∧
    rd (Reg.CIP_KINFO_LOADSEQ 6) k < 65535 ∧ cipKind (descBytes 3 0 0 x) = 1 ∧ cipOk (descBytes 3 0 0 x) x = false ∧
    cipOk (descBytes 3 0 0 y) y = true ∧ (slotKind 6 y).2 = y ∧ (slotKind 6 y).1 = 0 := by
  intros
  and_intros <;> decide +kernel

/-- Columns of 64 bytes of a row of 8 data columns. -/
def colAddr (c : Nat) : Nat := 0x10100000 + 64 * c
def ersDesc (op m0 m1 : Nat) : Bytes := leBytes 1 op ++ leBytes 1 8 ++ leBytes 1 m0 ++ leBytes 1 m1 ++ leBytes 4 64 ++ leBytes 8 out0
def ersDev (b : Bytes) : Dev := withMem ((colAddr 2, [7]) :: (colAddr 8, [7]) :: (List.range 10).map fun c => (out0 + 8 * c, leBytes 8 (colAddr c)))
  (laneDev 5 1 b)

/-- Hypotheses of ErasureJobsEnd. -/
theorem test_ErasureJobsEnd :
    let g := ersDev (ersDesc 1 255 255)
    let r := ersDev (ersDesc 2 3 9)
    let v := ersDev (ersDesc 3 255 255)
    let x := ersDev (ersDesc 2 9 3)
    (only g).ready ∧ laneHolds 5 1 0 0 g ∧ ersKind (descBytes 5 0 0 g) = 1 ∧ ersOk (descBytes 5 0 0 g) g = true ∧ g.seals = [] ∧
    g.fab.poison = [] ∧ (ersColumns (descBytes 5 0 0 g) g).getD 8 0 = colAddr 8 ∧ rangesApart (colAddr 8) 64 desc0 64 ∧
    rangesApart (colAddr 9) 64 desc0 64 ∧ rangesApart (colAddr 8) 64 (colAddr 9) 64 ∧ ersKind (descBytes 5 0 0 r) = 2 ∧
    ersOk (descBytes 5 0 0 r) r = true ∧ rangesApart (colAddr 3) 64 (colAddr 9) 64 ∧ rangesApart (colAddr 3) 64 desc0 64 ∧
    ersKind (descBytes 5 0 0 v) = 3 ∧ ersOk (descBytes 5 0 0 v) v = true ∧ ersKind (descBytes 5 0 0 x) = 2 ∧
    ersOk (descBytes 5 0 0 x) x = false := by
  intros
  and_intros <;> decide +kernel

def wkDesc (k : KeyDesc) : Paired := ⟨k.word, 2 ^ 64 - 1 - k.word⟩
def keysDev : Dev := { cipDev (cipDesc 1 1 0 5 16 0 0 kid5 0 (leBytes 16 9)) with
  keys.wkt := [(3, { desc := wkDesc ⟨3, true, true, false, false, 0, 0, false⟩, curA := [1] })]
  keys.vault := [(0, List.replicate 32 2)]
  sxc.spt := some { importKek := some [9], domains := [(3, { valid := true, enc := true, holders := 1 })],
                    peers := [(1, { valid := true, keyIndex := 4, key := List.replicate 32 3 })] } }

/-- Hypotheses of KeysLoadImportAndRotate: loads, import, transfer. -/
theorem test_KeysLoadImportAndRotate :
    let d := keysDev
    let e : Dev := { d with sxc.spt := none }
    (only d).ready ∧ asleep 0x2000048 d = false ∧ slotHeld 5 none d = true ∧ slotHeld 7 none d = false ∧ debugOpen d = false ∧
    rd (Reg.CIP_KINFO_LOADSEQ 7) d < 65535 ∧ (findKey 3 4 0 d).1.toOption = some (List.replicate 32 3) ∧
    (findKey 4 0 0 d).1.toOption = some (List.replicate 32 2) ∧ (findKey 1 9 0 d).1.toOption = none ∧ (findKey 1 9 0 d).2 = d ∧
    e.sxc.spt = none ∧ sptImportKek d = (some [9], d) ∧
    readWkt 3 d = (some (⟨3, true, true, false, false, 0, 0, false⟩, tget {} d.keys.wkt 3), d) ∧ (sptDomain 3 d).2 = d := by
  intros
  and_intros <;> decide +kernel

def rotDev : Dev := { withRegs [(Reg.GLB_STATE_STATE, 1), (Reg.CL_CTRL_FUNCTION 0, 1)] {} with
  keys.wkt := [(3, { desc := wkDesc ⟨3, true, true, true, false, 1, 0, true⟩ })]
  keys.rotMap := [(mkGid 0 1 77, { state := 2, newGid := mkGid 0 1 78 })]
  md.ns := [(7, { exists_ := true, size := 10, pool := 1, domain := 3, depth := 1, root := mkRef 5 false })]
  md.nodes := [(5, { ent := [(2, mkGid 0 1 77)] })] }

/-- Hypotheses of KeysLoadImportAndRotate: rotation. -/
theorem test_KeysLoadImportAndRotate_rotation :
    let d := rotDev
    rotating 3 d = some ⟨3, true, true, true, false, 1, 0, true⟩ ∧ (scanLeaves 7 d).find? (fun l => l.2 == 5) = some (0, 5) ∧
    ownsGroup (getNs 7 d).group d = true ∧ gidNil (tget 0 (getNode 5 d).ent 2) = false ∧ rekeyOpen 5 2 d = false ∧
    walkHolds 7 d = false ∧ inTrouble d = false ∧ metaStalled d = false ∧ 3 ∈ redEngines d ∧ alone d = false ∧ d.stg.journal = [] ∧
    (tget {} d.keys.rotMap (mkGid 0 1 77)).state = 2 ∧ (∀ g ∈ d.md.gtes, g.2.refcnt = 0 ∨ toRekey 3 ⟨3, true, true, true, false, 1, 0, true⟩ g.2 = false) := by
  intros
  and_intros <;> decide +kernel

/-- Hypotheses of CipherJobsEnd and ErasureJobsEnd: clean inputs, ready states, each clause's own. -/
theorem test_CipherJobsEnd_more :
    let c := cipDev (cipDesc 1 1 0 5 16 0 0 kid5 0 (leBytes 16 9))
    let g := cipDev (cipDesc 5 4 0 5 4 0 0 kid5 0 (leBytes 16 9))
    let u := cipDev (cipDesc 8 1 0 5 24 0 0 kid5 0 (leBytes 16 0))
    let k := cipDev (cipDesc 7 3 4 5 24 0 6 kid5 7 (leBytes 16 0))
    let x := cipDev (cipDesc 9 0 0 5 16 0 0 kid5 0 (leBytes 16 0))
    let y := cipDev (cipDesc 2 1 0 6 16 0 0 kid5 0 (leBytes 16 0))
    let e := ersDev (ersDesc 2 3 9)
    jobClean false buf0 (cipDeclared (descBytes 3 0 0 c)) c ∧ jobClean false buf0 (cipDeclared (descBytes 3 0 0 g)) g ∧
    jobClean false buf0 (cipDeclared (descBytes 3 0 0 u)) u ∧ jobClean false buf0 (cipDeclared (descBytes 3 0 0 k)) k ∧
    bitOf (fld (descBytes 3 0 0 c) 2 1) 0 = false ∧ fld (descBytes 3 0 0 c) 8 8 = buf0 ∧ cipIvSrc (descBytes 3 0 0 c) ≠ 2 ∧
    rangesApart out0 (cipOutLen (descBytes 3 0 0 u)) desc0 128 ∧ rangesApart out0 (cipOutLen (descBytes 3 0 0 k)) desc0 128 ∧
    cipDec (descBytes 3 0 0 u) = true ∧ (only u).ready ∧ (only k).ready ∧ (only x).ready ∧ (only y).ready ∧ laneHolds 3 1 0 0 y ∧
    (only e).ready ∧ e.fab.flips = [] ∧ laneHolds 5 1 0 0 e := by
  intros
  and_intros <;> decide +kernel

/-- Hypotheses of KeysLoadImportAndRotate: a ready state, a quiet journal, an unheld slot. -/
theorem test_KeysLoadImportAndRotate_more :
    (only rotDev).ready ∧ journalQuiet rotDev ∧ (getNs 7 rotDev).exists_ = true ∧
    slotHeld 5 none { keysDev with accels := [] } = false ∧ (List.replicate 32 (1 : Byte)).length = 32 ∧
    (⟨3, true, true, false, false, 0, 0, false⟩ : KeyDesc).valid = true := by
  and_intros <;> first | decide +kernel | (intro p; rfl)

/-! ### Chapter 10 -/

/-- A read job in a state, for the rotation scan. -/
def readDev (x : ReadJob) : Dev := { withRegs [(Reg.GLB_STATE_STATE, 1), (Reg.CL_CTRL_FUNCTION 7, 3), (Reg.TMP_NUMBER_NUMBER, 9),
    (accEnable 3, 4095), (accEnable 4, 1), (accEnable 5, 1)] {} with
  stg.reads := [(3, x)]
  stg.readNext := 4
  md.gtes := [(mkGid 0 1 77, { refcnt := 1, kdom := 2, slen := 3 }), (mkGid 0 1 78, { refcnt := 1, lost := true })] }
def readJob0 : ReadJob := { who := .rekey, gid := mkGid 0 1 77, img := { refcnt := 1, kdom := 2, slen := 3 } }

/-- Hypotheses of ReadJobsAdvance: pages and verification. -/
theorem test_ReadJobsAdvance :
    let p : PageRead := { member := 2, block := 5, page := 0, start := 0, tried := [0], cur := 0, rsp := some none }
    let a := readDev { readJob0 with pages := [p] }
    let v := readDev { readJob0 with state := 1, frame := [1] }
    (only a).ready ∧ (getJob 3 a).pages = [p] ∧ (getJob 3 a).state = 0 ∧ (getJob 3 a).who = .rekey ∧ (∃ q ∈ ladder p.start, q.2 ∉ p.tried) ∧
    jobIn 3 1 v = true ∧ headerOk readJob0.gid readJob0.img [1] = false ∧ gidLocal readJob0.gid v = true ∧
    imageChanged (getJob 3 v) v = false ∧ (getJob 3 v).second = false := by
  intros
  and_intros <;> decide +kernel

theorem test_ReadJobsAdvance_page : (List.replicate 1024 (0 : Byte)).length = pageSize 2 (readDev readJob0) := by
  rw [List.length_replicate]; decide

/-- A raw frame's header with an absent key. -/
def rawHead : Bytes := [0xA7, 0x51, 0, 1] ++ leBytes 2 8192 ++ leBytes 2 8192 ++ leBytes 8 (mkGid 0 1 77) ++ leBytes 8 0 ++ leBytes 2 2
  ++ [1, 0] ++ leBytes 4 0

/-- Hypotheses of ReadJobsAdvance: the key, the rebuild, fetches. -/
theorem test_ReadJobsAdvance_rest :
    let k := readDev { readJob0 with state := 2 }
    let b := readDev { readJob0 with who := .remote 2 8, state := 3 }
    let g : Dev := { b with pwr.granted := [{ who := .engine (rowEngine 3 b), cls := 3, cost := 1 }] }
    let f := readDev { readJob0 with state := 4, gid := mkGid 3 1 77 }
    jobIn 3 2 k = true ∧ residentKey 2 (ikIndex 0 1) 0 k = none ∧ (findKey 2 (ikIndex 0 1) 0 k.quiet).1.toOption = none ∧
    (findKey 2 (ikIndex 0 1) 0 k.quiet).2 = k.quiet ∧ jobIn 3 3 b = true ∧
    imageChanged (getJob 3 b) b = false ∧ imageChanged (getJob 3 g) g = false ∧ (readRow (getSeg 0 b) 0 ([] ++ badColumns (getJob 3 b) b) b).2.length ≤ 2 ∧
    hasGrant (.engine (rowEngine 3 b)) 3 b = false ∧ hasGrant (.engine (rowEngine 3 g)) 3 g = true ∧
    gidLocal (mkGid 0 1 77) b = true ∧ (getGte (mkGid 0 1 79) b).refcnt = 0 ∧ (getGte (mkGid 0 1 78) b).lost = true ∧
    (getGte (mkGid 0 1 77) b).kdom = 2 ∧ (∀ x ∈ b.stg.reads, x.1 ≠ b.stg.readNext) ∧ jobIn 3 4 f = true ∧ repairRel 0 f = none ∧
    (getJob 3 f).toOther = false := by
  intros
  and_intros <;> decide +kernel

/-- Hypotheses of ReadJobsAdvance: repair. -/
theorem test_ReadJobsAdvance_repair :
    let d : Dev := { readDev { readJob0 with state := 5, square := 4, nsid := 7 } with
      md.rels := [(6, { state := 1, peer := 2, nsid := 7 })], repl.peers := [(2, { tx := some { num := 5, key := [1], since := 0 } })]
      stg.slots := [(1, { state := 2, nsid := 7, square := 4 })] }
    let h : Dev := { readDev { readJob0 with state := 5, who := .host 2 0 } with
      cas.cmds := [(2, { state := 1, acked := false })], front.cmds := [(2, { op := .read, cmd := { nsid := 7 } })] }
    replOn d = true ∧ (getRel 6 d).state ≠ 0 ∧ (getPeer (getRel 6 d).peer d).tx = some { num := 5, key := [1], since := 0 } ∧
    mapGet (servedNs 7 d).root (servedNs 7 d).depth 4 d = 0 ∧ jobIn 3 5 d = true ∧ (newestSlot 7 4 d.stg.slots).isSome = true ∧
    jobIn 3 5 h = true ∧ (getJob 3 h).due ≤ tempoNow h ∧ (getCmd 2 h).state = 1 ∧ (getFc 2 h).ready = none ∧ (getFc 2 h).done = [] ∧
    (cmdSquares 2 h).length = 1 ∧ (getFc 2 h).torn = false := by
  intros
  and_intros <;> decide +kernel

/-- A raw frame that the pool's integrity key verifies, whatever the block cipher computes. -/
def zeroPage : Bytes := List.replicate 8192 0
def ownKey : Bytes := List.replicate 32 1
def goodHead : Bytes := [0xA7, 0x51, 0, 0] ++ leBytes 2 8192 ++ leBytes 2 8192 ++ leBytes 8 (mkGid 0 1 77) ++ leBytes 8 (crc64 zeroPage)
  ++ leBytes 2 2 ++ [1, 0] ++ leBytes 4 0
def goodFrame : Bytes := goodHead ++ (zeroPage ++ gcmTag ownKey (gidIv (mkGid 0 1 77)) (goodHead ++ zeroPage) [])
def goodJob : ReadJob := { readJob0 with state := 1, frame := goodFrame, img := { refcnt := 1, kdom := 2, slen := 515, crc := crc64 zeroPage } }
def goodDev (r : ReadJob) : Dev := loadSlot 4 2 0 (ikIndex 0 1) 0 ownKey (readDev r)

theorem goodFrame_body : (goodFrame.drop 32).take 8192 = zeroPage := by
  have h : goodFrame.drop 32 = zeroPage ++ gcmTag ownKey (gidIv (mkGid 0 1 77)) (goodHead ++ zeroPage) [] := rfl
  rw [h, List.take_left' (by rw [zeroPage, List.length_replicate])]
theorem goodFrame_tag : (goodFrame.drop (32 + 8192)).take 16 = gcmTag ownKey (gidIv (mkGid 0 1 77)) (goodHead ++ zeroPage) [] := by
  have h : goodFrame.drop 32 = zeroPage ++ gcmTag ownKey (gidIv (mkGid 0 1 77)) (goodHead ++ zeroPage) [] := rfl
  rw [← List.drop_drop, h, List.drop_left' (by rw [zeroPage, List.length_replicate]), List.take_of_length_le (by simp)]
theorem goodFrame_head : goodFrame.take 32 = goodHead := rfl
theorem goodFrame_length : goodFrame.length = 8240 := by
  simp only [goodFrame, List.length_append, Laws.gcmTag_length, zeroPage, List.length_replicate]; rfl
theorem goodFrame_n : leNat ((goodFrame.drop 4).take 2) = 8192 := by decide +kernel
theorem goodFrame_crc : leNat ((goodFrame.drop 16).take 8) = crc64 zeroPage := Laws.leNat_leBytes 8 _ (Laws.crc64_lt _)

theorem openFrame_raw {gid : Nat} {e : Gte} {key f z : Bytes} (hh : headerOk gid e f = true) (ht : frameTagOk gid e key f = true)
    (h0 : e.fmt = 0) (he : e.enc = false) (hb : (f.drop 32).take (leNat ((f.drop 4).take 2)) = z) (hz : z.length = 8192)
    (hc : e.crc = crc64 z) : openFrame gid e key f = some z := by
  simp [openFrame, hh, ht, h0, he, hb, hz, hc]

/-- Hypotheses of ReadJobsAdvance: a frame that is verified. -/
theorem test_goodFrame : openFrame goodJob.gid goodJob.img ownKey goodFrame = some zeroPage := by
  have hh : headerOk goodJob.gid goodJob.img goodFrame = true := by
    unfold headerOk
    simp only [goodFrame_crc, goodFrame_length, goodFrame_n]
    simp only [goodJob, readJob0, beq_self_eq_true, Bool.and_true]
    decide +kernel
  have ht : frameTagOk goodJob.gid goodJob.img ownKey goodFrame = true := by
    unfold frameTagOk
    simp only [goodFrame_n, goodFrame_body, goodFrame_tag, goodFrame_head]
    exact beq_self_eq_true _
  exact openFrame_raw hh ht rfl rfl (by rw [goodFrame_n, goodFrame_body]) (by rw [zeroPage, List.length_replicate]) rfl

theorem test_ReadJobsAdvance_payload : payloadPlain 0 (List.replicate 8192 0) = some (List.replicate 8192 0) := by
  rw [payloadPlain, if_pos rfl, List.length_replicate, if_pos rfl]

/-- Hypotheses of ReadJobsAdvance: lanes in service, the key, other requesters, a later page. -/
theorem test_ReadJobsAdvance_more :
    let v := goodDev goodJob
    let k := goodDev { goodJob with state := 2 }
    let p0 : PageRead := { member := 2, block := 5, page := 0, start := 0, tried := [0], cur := 0, rsp := some (some { status := 0 }) }
    let two := readDev { readJob0 with pages := [p0, { p0 with page := 1 }] }
    let h : Dev := { goodDev { goodJob with who := .host 2 0 } with
      cas.cmds := [(2, { state := 1, acked := false })], front.cmds := [(2, { op := .read, cmd := { nsid := 7 } })] }
    let q : Dev := modLane 3 0 (fun l => { l with quar := true }) <| forEach (List.range 12) (fun n d => modLane 3 n (fun l => { l with quar := true }) d) v
    let b := readDev { readJob0 with who := .remote 2 8, state := 3 }
    (only v).ready ∧ (only k).ready ∧ (only two).ready ∧ (only h).ready ∧ jobIn 3 1 v = true ∧ jobIn 3 2 k = true ∧
    residentKey 2 (ikIndex 0 1) 0 v = some ownKey ∧ frameKey (mkGid 0 1 77) goodJob.img = (2, ikIndex 0 1, 0) ∧
    laneServes 3 v = true ∧ pipeReady 3 (.read 3) v ∧ laneServes 3 k = true ∧ pipeReady 3 (.read 3) k ∧ keepsResult .rekey = true ∧
    ((pipeOf 3 (.read 3) v).bind (·.failed)) = none ∧ laneServes 3 q = false ∧ (getJob 3 q).state = 1 ∧
    ((getJob 3 two).pages[1]?).map (·.state) = some 0 ∧ (getJob 3 two).state = 0 ∧ jobIn 3 1 h = true ∧ (getCmd 2 h).state = 1 ∧
    (getFc 2 h).ready = none ∧ (getFc 2 h).op = .read ∧ (getFc 2 h).torn = false ∧
    (∀ q ∈ b.pwr.waiting, q.who = .engine (rowEngine 3 b) → q.cls ≠ 3) ∧ laneServes 5 b = true ∧ pipeReady 5 (.read 3) b := by
  intros
  and_intros <;> decide +kernel

/-- Hypotheses of ReadJobsAdvance: a fetch and a repair request of a granule that is read. -/
theorem test_ReadJobsAdvance_reads :
    let d : Dev := { readDev { readJob0 with state := 5, square := 4, nsid := 7 } with
      md.rels := [(6, { state := 1, peer := 2, nsid := 7 })], repl.peers := [(2, { tx := some { num := 5, key := [1], since := 0 } })]
      md.ns := [(7, { exists_ := true, size := 10, pool := 1, domain := 3, depth := 1, root := mkRef 5 false })]
      md.nodes := [(5, { ent := [(4, mkGid 0 1 77), (5, gidOnes)] })], md.segs := [(0, { state := 2, pool := 1 })] }
    (only d).ready ∧ replOn d = true ∧ mapGet (servedNs 7 d).root (servedNs 7 d).depth 4 d = mkGid 0 1 77 ∧
    mapGet (servedNs 7 d).root (servedNs 7 d).depth 5 d = gidOnes ∧ gidNil (mkGid 0 1 77) = false ∧ gidLocal (mkGid 0 1 77) d = true ∧
    (getGte (mkGid 0 1 77) d).refcnt ≠ 0 ∧ (getGte (mkGid 0 1 77) d).lost = false ∧ (getSeg (getGte (mkGid 0 1 77) d).seg d).state ≠ 0 ∧
    (∀ x ∈ d.stg.reads, x.1 ≠ d.stg.readNext) ∧ keepsResult (getJob 3 d).who = true ∧ (getJob 3 d).due ≤ tempoNow d := by
  intros
  and_intros <;> decide +kernel

/-- A column whose row 0 begins with that frame, and a remote fetch of it at its rebuild. -/
def column10 : Bytes := goodFrame ++ List.replicate 57296 0
theorem goodFrame_len : goodFrame.length = 8240 := by
  simp only [goodFrame, List.length_append, Laws.gcmTag_length, zeroPage, List.length_replicate]; rfl
theorem column10_length : column10.length = 65536 := by rw [column10, List.length_append, goodFrame_len, List.length_replicate]
def fetchedJob : ReadJob := { goodJob with who := .remote 2 8, state := 3, frame := [] }
def fetchDev : Dev :=
  let b : Dev := { goodDev fetchedJob with
    md.gtes := [(mkGid 0 1 77, fetchedJob.img)]
    md.members := [(2, { adopted := true })], md.segs := [(0, { state := 2, w := 1, cols := [{ member := 2, block := 5 }] })]
    outside.modules := [(2, { present := true, blocks := [(5, { next := 1 })], rows := [(5 * 4096, column10)] })] }
  wr (Reg.MDL_LANE_STATE 2) 4 { b with pwr.granted := [{ who := .engine (rowEngine 3 b), cls := 3, cost := 1 }] }

theorem column10_read : readColumn (getSeg 0 fetchDev) 0 0 [] fetchDev = some column10 := by
  have h : tget [] (getMod 2 fetchDev).rows (5 * 4096 + 0) = column10 := rfl
  unfold readColumn
  rw [if_neg (by decide +kernel)]
  exact (congrArg (fun v : Bytes => if v.length = 65536 then some v else none) h).trans (if_pos column10_length)

theorem row10_read : readRow (getSeg 0 fetchDev) 0 [] fetchDev = ([(0, column10)], [1, 2]) := by
  have h1 : readColumn (getSeg 0 fetchDev) 0 1 [] fetchDev = none := by unfold readColumn; exact if_pos (by decide +kernel)
  have h2 : readColumn (getSeg 0 fetchDev) 0 2 [] fetchDev = none := by unfold readColumn; exact if_pos (by decide +kernel)
  have hr : List.range ((getSeg 0 fetchDev).w + 2) = [0, 1, 2] := by decide +kernel
  simp only [readRow, hr, List.map_cons, List.map_nil, column10_read, h1, h2]
  rfl

theorem row10_recovered : recoverAt 0 0 [] fetchDev =
    some ([(0, column10)] ++ recoverColumns 1 1 2 65536 ([(0, column10)].filter fun c => (columnsRead 1 1 2).contains c.1)) := by
  unfold recoverAt recoverRow
  rw [row10_read]
  exact if_neg (by decide +kernel)

theorem frame10_recovered (t : List (Nat × Bytes)) : frameIn fetchedJob.img ([(0, column10)] ++ t) = goodFrame := by
  have hc : frameColumns fetchedJob.img = [(0, 0, 8240)] := by decide +kernel
  have hf : ([(0, column10)] ++ t).find? (fun x => x.1 == 0) = some (0, column10) := rfl
  simp only [frameIn, hc, List.flatMap_cons, List.flatMap_nil, hf, Option.map_some, Option.getD_some, List.drop_zero, List.append_nil]
  rw [column10, ← goodFrame_len, List.take_left']
  rfl

theorem imageChanged_same {r : ReadJob} {d : Dev} (h : getGte r.gid d = r.img) (h0 : r.img.refcnt = 1) : imageChanged r d = false := by
  simp [imageChanged, h, h0]

/-- The same fetch of a frame of length 0. -/
def emptyJob : ReadJob := { fetchedJob with img := { fetchedJob.img with slen := 0 } }
def emptyDev : Dev := { fetchDev with stg.reads := [(3, emptyJob)], md.gtes := [(mkGid 0 1 77, emptyJob.img)] }

/-- Hypotheses of ReadJobsAdvance: a remote fetch rebuilt on read, with a frame that stands. -/
theorem test_ReadJobsAdvance_fetched :
    (only fetchDev).ready ∧ jobIn 3 3 fetchDev = true ∧ badColumns fetchedJob fetchDev = [] ∧ fetchedJob.img.row = 0 ∧ fetchedJob.img.seg = 0 ∧
    hasGrant (.engine (rowEngine 3 fetchDev)) 3 fetchDev = true ∧ laneServes 5 fetchDev = true ∧ pipeReady 5 (.read 3) fetchDev ∧
    laneServes 3 fetchDev = true ∧ pipeReady 3 (.read 3) fetchDev ∧ fetchedJob.img.fmt = 0 ∧
    residentKey 2 (ikIndex 0 1) 0 fetchDev = some ownKey ∧ frameKey (mkGid 0 1 77) fetchedJob.img = (2, ikIndex 0 1, 0) := by
  and_intros <;> decide +kernel

theorem test_ReadJobsAdvance_fetchedJob : getJob 3 fetchDev = fetchedJob ∧ imageChanged fetchedJob fetchDev = false ∧
    getJob 3 emptyDev = emptyJob ∧ imageChanged emptyJob emptyDev = false :=
  ⟨rfl, imageChanged_same rfl rfl, rfl, imageChanged_same rfl rfl⟩

theorem readColumn_congr {g : Seg} {row c : Nat} {bad : List Nat} {d e : Dev} (hm : d.md.members = e.md.members) (hr : d.regs = e.regs)
    (ho : d.outside = e.outside) : readColumn g row c bad d = readColumn g row c bad e := by
  simp only [readColumn, getMod, colFailed, memberOk, laneUp, laneState, rd, hm, hr, ho]
  rfl

theorem row10_recovers : (recoverAt 0 0 [] emptyDev).isSome = true := by
  have h : readRow (getSeg 0 emptyDev) 0 [] emptyDev = readRow (getSeg 0 fetchDev) 0 [] fetchDev := by
    have hs : getSeg 0 emptyDev = getSeg 0 fetchDev := rfl
    have hc : ∀ g c, readColumn g 0 c [] emptyDev = readColumn g 0 c [] fetchDev := fun g c => readColumn_congr rfl rfl rfl
    simp only [readRow, hs, hc]
  unfold recoverAt recoverRow
  rw [h, row10_read, if_neg (by decide +kernel)]
  rfl

/-- Hypotheses of ReadJobsAdvance: a remote fetch rebuilt on read, whose header is bad. -/
theorem test_ReadJobsAdvance_refused : gidLocal (mkGid 0 1 77) emptyDev = true ∧
    (recoverAt 0 0 [] emptyDev).isSome = true ∧ hasGrant (.engine (rowEngine 3 emptyDev)) 3 emptyDev = true ∧
    pipeReady 5 (.read 3) emptyDev ∧ ∀ cols, headerOk emptyJob.gid emptyJob.img (frameIn emptyJob.img cols) = false := by
  refine ⟨by decide +kernel, row10_recovers, by decide +kernel, by and_intros <;> decide +kernel, fun cols => ?_⟩
  have hc : frameColumns emptyJob.img = [(0, 0, 0)] := by decide +kernel
  simp only [frameIn, hc, List.flatMap_cons, List.flatMap_nil, List.take_zero, List.append_nil]
  decide +kernel

/-! ### Chapter 11 -/

/-- A pool of four members with a layout of one line, a segment, and a block of it. -/
def flashDev (g : Seg) : Dev := { withRegs ([(Reg.GLB_STATE_STATE, 1), (Reg.CL_CTRL_FUNCTION 0, 2), (Reg.MDL_FT_GC_GC_EN, 1)]
      ++ (List.range 4).map fun m => (Reg.MDL_LANE_STATE m, 4)) {} with
  md.members := (List.range 4).map fun m => (m, { adopted := true, pool := 1, nblocks := 20, rpb := 256, wlim := 100 })
  md.pools := [(1, { exists_ := true, w := 2, lines := [[0, 1, 2, 3]] })]
  md.segNext := 9
  md.segs := [(5, g)] }
def seg5 : Seg := { state := 2, w := 2, pool := 1, rows := 3, rpb := 256, cols := (List.range 4).map fun m => { member := m, block := 2 } }
def gcRow2 : Row :=
  { kind := 1, state := 3, seg := 6, pool := 1, cols := [(0, 1), (1, 1), (2, 1), (3, 1)],
    frames := [{ gid := 77, slot := none, off := 0, slen := 3, bytes := [], src := some (5, 0, 0) }] }
def gcRowDev : Dev := { flashDev { seg5 with state := 3, live := 3 } with
  md.segs := [(5, { seg5 with state := 3, live := 3 }), (6, { seg5 with state := 1, gc := true })]
  stg.rows := [(2, gcRow2)]
  md.gtes := [(77, { refcnt := 1, seg := 5, slen := 3, moving := true })] }

/-- Hypotheses of SegmentsLiveAndDie: checkpoints, opening, closing, choosing. -/
theorem test_SegmentsLiveAndDie :
    let d := flashDev seg5
    let c : Dev := { d with ftl.ckpt := some { tsn := 4, md := d.md, pages := [], table := true } }
    let o := flashDev { seg5 with state := 1, rows := 0 }
    let r : Dev := { d with ftl.reloc := [5] }
    (only d).ready ∧ inTrouble d = false ∧ alone d = false ∧ d.stg.journal = [] ∧ poolList d ≠ [] ∧ d.ftl.ckpt = none ∧
    d.fiu.hotDirty = [] ∧ d.md.reads = [] ∧ d.ftl.dirty = [] ∧ metaInFlight c = false ∧ (getPool 1 d).exists_ = true ∧
    (getPool 1 d).lines ≠ [] ∧ segWidth 1 d = 2 ∧ (findLine (getPool 1 d) 9 2 d 1024 0).isSome = true ∧
    ownSeg 5 o = true ∧ (getSeg 5 o).state = 1 ∧ o.ftl.closing = [] ∧ o.stg.rows = [] ∧
    (∀ x ∈ r.md.segs, ¬ (x.2.state = 3 ∧ ownSeg x.1 r = true ∧ (getSeg x.1 r).pool = 1 ∧ (getSeg x.1 r).isMeta = false)) ∧
    collectable 5 r = true ∧ (bestScore 1 false d).isSome = true ∧ rdb Reg.MDL_FT_GC_GC_EN d = true := by
  intros
  and_intros <;> decide +kernel

/-- Hypotheses of SegmentsLiveAndDie: the free fraction lies below LOW_PCT. -/
theorem test_SegmentsLiveAndDie_low :
    let d : Dev := { flashDev seg5 with md.members := (List.range 4).map fun m => (m, { adopted := true, pool := 1, nblocks := 2 })
                                        md.blocks := [(0, { state := 1 }), (1, { state := 1 })] }
    freeBelow 1 (rd Reg.MDL_FT_GC_LOW_PCT (wr Reg.MDL_FT_GC_LOW_PCT 90 d)) (wr Reg.MDL_FT_GC_LOW_PCT 90 d) = true := by
  decide +kernel

/-- Hypotheses of SegmentsLiveAndDie: copying, moving, draining. -/
theorem test_SegmentsLiveAndDie_move :
    let d := flashDev { seg5 with state := 3 }
    let g := gcRowDev
    rd (Reg.CL_CTRL_FUNCTION 0) d = 2 ∧ (tget {} d.engines 0).quar = false ∧ tget 0 d.ftl.gcRow 5 < (getSeg 5 d).rows ∧
    d.ftl.relocRows = [] ∧ liveGranules 5 0 (readRow (getSeg 5 d) 0 [] d).1 d = [] ∧ 2 < (readRow (getSeg 5 d) 0 [] d).2.length ∧ (getSeg 5 d).live = 0 ∧
    (only g).ready ∧ inTrouble g = false ∧ alone g = false ∧ (getRow 2 g).state = 3 ∧ metaStalled g = false ∧ rowWhole (getRow 2 g) g = true ∧
    (rowsOf 6 true g).all (fun n => !((getRow n g).row < (getRow 2 g).row)) = true ∧ 6 ∉ g.ftl.closing ∧ (getRow 2 g).row + 1 ≠ (getSeg 6 g).rpb := by
  intros
  and_intros <;> decide +kernel

/-- Hypotheses of SegmentsLiveAndDie: erases and retirement. -/
theorem test_SegmentsLiveAndDie_erase :
    let d := flashDev { seg5 with state := 4 }
    let e : Dev := { d with ftl.gate := [blkKey 1 2], md.blocks := [(blkKey 1 2, { state := 1, seg := 5 })] }
    let f := flashDev { seg5 with state := 4, erased := (List.range 4).map fun m => blkKey m 2 }
    let m : Dev := { d with md.members := [(3, { adopted := true, declared := true, nblocks := 20 })] }
    blkKey 1 2 ∉ d.ftl.gate ∧ (only d).checkRoom ∧ rd Reg.MDL_FT_EGATE_REFUSED d < 2 ^ 20 - 1 ∧ erasable 5 e ≠ [] ∧
    hasGrant (.engine (rowEngine 5 e)) 2 e = false ∧ e.pwr.waiting = [] ∧ erasable 5 f = [] ∧ allErased (getSeg 5 f) f = true ∧
    (tget {} m.md.members 3).adopted = true ∧ (tget {} m.md.members 3).declared = true ∧ retireCause 3 4 0 m = true ∧ (getBlk 3 4 m).state = 0 := by
  intros
  and_intros <;> decide +kernel

/-- A device in time trouble. -/
def ttDev : Dev := { setb Reg.PWR_STATUS_TT (flashDev seg5) with pwr.ttEdges := 1, ftl.ttFrom := some 3, ftl.armed := some 1 }

/-- Hypotheses of TimeTroubleFlushes. -/
theorem test_TimeTroubleFlushes :
    let d := flashDev seg5
    let w : Dev := { withRegs [(Reg.PWR_PF_PF_MV, 10800)] d with pwr.pfWatch := true }
    let g (n c : Nat) (d : Dev) : Dev := { d with pwr.granted := [{ who := .engine (rowEngine n d), cls := c, cost := 1 }] }
    let i : FlushImage := flushImageOf ttDev
    (only w).ready ∧ inTrouble w = false ∧ w.pwr.pfWatch = true ∧ 1000 < rd Reg.PWR_PF_PF_MV w ∧ rdb Reg.PWR_PF_PF_SRC w = false ∧
    rd Reg.PWR_PF_DEB w ≤ 4096 ∧ (only ttDev).ready ∧ inTrouble ttDev = true ∧ ttDev.ftl.ttFrom ≠ none ∧
    hasGrant (.engine (rowEngine 0 ttDev)) 1 ttDev = false ∧ ttDev.pwr.waiting = [] ∧ hasGrant (.engine (rowEngine 0 ttDev)) 1 (g 0 1 ttDev) = true ∧
    flushTotal i ttDev ≤ i.chunks ∧ ttDev.ftl.armed = some 1 ∧ (getSeg 5 d).state = 2 ∧ ownSeg 5 d = true ∧
    d.ftl.scrubPass = d.tmp.sec / (3600 * max 1 (rd Reg.MDL_FT_SCRUB_PERIOD d)) ∧ tget 0 d.ftl.scrubRow 5 < (getSeg 5 d).rows ∧
    hasGrant (.engine (rowEngine 5 d)) 3 d = false ∧ hasGrant (.engine (rowEngine 5 d)) 3 (g 5 3 d) = true ∧
    (readRow (getSeg 5 d) 0 [] (g 5 3 d)).1 = [] := by
  intros
  and_intros <;> decide +kernel

/-- The device of a collection: an 8-wide pool is not needed, for the segment is a collection segment; the frame's domain has gone. -/
@[irreducible] def zeroCol : Bytes := List.replicate (64 * 1024) 0
theorem zeroCol_length : zeroCol.length = 65536 := by rw [zeroCol, List.length_replicate]
@[irreducible] def copyCol : Bytes := rawHead ++ List.replicate 65504 0
def copyGte : Gte := { refcnt := 1, kdom := 2, slen := 515, seg := 5, enc := true }
def copyMod (b : Bytes) : Module := { present := true, nblocks := 20, rpb := 256, pgsz := 4, blocks := [(2, { next := 3 })], rows := [(2 * 4096, b)] }
def copyDev : Dev := { flashDev { seg5 with state := 3, live := 515 } with
  md.segs := [(5, { seg5 with state := 3, live := 515 }), (6, { seg5 with state := 1, gc := true })]
  md.gtes := [(mkGid 0 1 77, copyGte)]
  outside.modules := (0, copyMod copyCol) :: (List.range 3).map fun m => (m + 1, copyMod zeroCol)
  stg.rows := [(7, { kind := 1, engine := 0, state := 1, seg := 6, pool := 1 })], stg.rowNext := 8 }

/-- Hypotheses of SegmentsLiveAndDie: a frame that reads straight. -/
theorem test_SegmentsLiveAndDie_copy :
    let d := copyDev
    (only d).ready ∧ inTrouble d = false ∧ rd (Reg.CL_CTRL_FUNCTION 0) d = 2 ∧ engineOut 0 d = false ∧ ownSeg 5 d = true ∧
    (getSeg 5 d).state = 3 ∧ tget 0 d.ftl.gcRow 5 < (getSeg 5 d).rows ∧ (getSeg 5 d).isMeta = false ∧ d.ftl.relocRows = [] := by
  intros
  and_intros <;> decide +kernel

theorem copyCol_length : copyCol.length = 65536 := by
  rw [copyCol, List.length_append, List.length_replicate, show rawHead.length = 32 from rfl]

theorem readColumn_of {g : Seg} {row c : Nat} {bad : List Nat} {d : Dev} {v : Bytes}
    (h : ¬ (c ≥ g.cols.length || bad.contains c || colFailed ((g.cols[c]?).getD {}) d || !memberOk ((g.cols[c]?).getD {}).member d ||
      row ≥ (tget {} (getMod ((g.cols[c]?).getD {}).member d).blocks ((g.cols[c]?).getD {}).block).next ||
      (tget {} (getMod ((g.cols[c]?).getD {}).member d).blocks ((g.cols[c]?).getD {}).block).failed.any (· ≤ row)) = true)
    (hv : tget [] (getMod ((g.cols[c]?).getD {}).member d).rows (((g.cols[c]?).getD {}).block * 4096 + row) = v) (hl : v.length = 65536) :
    readColumn g row c bad d = some v := by
  unfold readColumn
  rw [if_neg h, hv, if_pos hl]

theorem foldl_keeps {α β : Type} (g : Dev → α) (f : Dev → β → Dev) (h : ∀ d b, g (f d b) = g d) (l : List β) (d : Dev) :
    g (l.foldl f d) = g d := by
  induction l generalizing d with
  | nil => rfl
  | cons b l ih => rw [List.foldl_cons, ih, h]
theorem touchPage_outside (k n : Nat) (d : Dev) : (touchPage k n d).outside = d.outside := by
  unfold touchPage; dsimp only; split <;> rfl
theorem modSeg_outside (s : Nat) (f : Seg → Seg) (d : Dev) : (modSeg s f d).outside = d.outside := by
  unfold modSeg; dsimp only; split
  · rfl
  · exact touchPage_outside _ _ _
theorem queueReloc_outside (s : Nat) (d : Dev) : (queueReloc s d).outside = d.outside := by
  unfold queueReloc; split
  · rfl
  · exact modSeg_outside _ _ _
theorem countFrame_outside (s : Nat) (e : Gte) (d : Dev) : (countFrame s e d).outside = d.outside :=
  foldl_keeps (·.outside) (fun d (p : PageRead) => countRead p.member p.block d)
    (fun d p => by unfold countRead; dsimp only; repeat' (first | rfl | rw [queueReloc_outside] | split)) _ _

set_option maxRecDepth 20000 in
theorem copyRow (d : Dev) (hd : d = copyDev ∨ d = countFrame 5 copyGte copyDev.quiet ∨ d = copyDev.quiet) :
    readRow (getSeg 5 d) 0 [] d = ([(0, copyCol), (1, zeroCol), (2, zeroCol), (3, zeroCol)], []) := by
  have hm (m : Nat) : getMod m d = getMod m copyDev := by
    rcases hd with rfl | rfl | rfl
    · rfl
    · unfold getMod; rw [countFrame_outside]; rfl
    · rfl
  have hs : getSeg 5 d = getSeg 5 copyDev := by rcases hd with rfl | rfl | rfl <;> decide +kernel
  rw [hs]
  have hw : List.range ((getSeg 5 copyDev).w + 2) = [0, 1, 2, 3] := rfl
  have h0 : readColumn (getSeg 5 copyDev) 0 0 [] d = some copyCol := by
    exact readColumn_of (by rcases hd with rfl | rfl | rfl <;> decide +kernel) (by rw [hm]; rfl) copyCol_length
  have h1 : readColumn (getSeg 5 copyDev) 0 1 [] d = some zeroCol := by
    exact readColumn_of (by rcases hd with rfl | rfl | rfl <;> decide +kernel) (by rw [hm]; rfl) zeroCol_length
  have h2 : readColumn (getSeg 5 copyDev) 0 2 [] d = some zeroCol := by
    exact readColumn_of (by rcases hd with rfl | rfl | rfl <;> decide +kernel) (by rw [hm]; rfl) zeroCol_length
  have h3 : readColumn (getSeg 5 copyDev) 0 3 [] d = some zeroCol := by
    exact readColumn_of (by rcases hd with rfl | rfl | rfl <;> decide +kernel) (by rw [hm]; rfl) zeroCol_length
  unfold readRow
  rw [hw]
  simp only [List.map, h0, h1, h2, h3, List.filterMap, Option.map, List.filter, Option.isNone]

def copyFrame : Bytes := rawHead ++ List.replicate 8208 0
theorem copyFrame_length : copyFrame.length = 8240 := by
  rw [copyFrame, List.length_append, List.length_replicate, show rawHead.length = 32 from rfl]

theorem copyFrameIn : frameIn copyGte [(0, copyCol), (1, zeroCol), (2, zeroCol), (3, zeroCol)] = copyFrame := by
  have h : frameIn copyGte [(0, copyCol), (1, zeroCol), (2, zeroCol), (3, zeroCol)] = copyCol.take 8240 ++ [] := rfl
  rw [h, List.append_nil, copyCol, copyFrame, List.take_append, show rawHead.length = 32 from rfl,
    List.take_of_length_le (by decide), List.take_replicate]
  rfl

theorem copyStands : frameStands (mkGid 0 1 77) copyGte none copyFrame = true := by
  have h4 : (copyFrame.drop 4).take 2 = [0, 32] := rfl
  have hh : headerOk (mkGid 0 1 77) copyGte copyFrame = true := by
    unfold headerOk
    simp only [copyFrame_length]
    decide +kernel
  rw [frameStands, hh]; rfl

set_option maxRecDepth 100000 in
/-- Hypotheses of SegmentsLiveAndDie: the frame is read whole and enters a row. -/
theorem test_SegmentsLiveAndDie_frame :
    let d := copyDev
    let d1 := countFrame 5 copyGte d.quiet
    let f : FrameRef := ⟨mkGid 0 1 77, none, 0, copyGte.slen, copyFrame, some (5, 0, copyGte.off)⟩
    (readRow (getSeg 5 d) 0 [] d).2 = [] ∧ planCopy 5 0 [] (mkGid 0 1 77) copyGte d1 = (.bytes copyFrame, d1) ∧
    liveGranules 5 0 (readRow (getSeg 5 d) 0 [] d).1 d = [mkGid 0 1 77] ∧
    (placeFrame 0 (getSeg 5 d1).pool 1 f d1).1 = some 7 ∧ (placeFrame 0 (getSeg 5 d1).pool 1 f d1).2.todo = [] := by
  intro d d1 f
  have hk : copyKey (mkGid 0 1 77) copyGte d1 = (some none, d1) := by decide +kernel
  refine ⟨congrArg Prod.snd (copyRow d (.inl rfl)), ?_, ?_, by decide +kernel, by decide +kernel⟩
  · unfold planCopy
    rw [hk, copyRow d1 (.inr (.inl rfl))]
    simp only [copyFrameIn, copyStands]
    rfl
  · rw [show (readRow (getSeg 5 d) 0 [] d).1 = _ from congrArg Prod.fst (copyRow d (.inl rfl))]
    decide +kernel

set_option maxRecDepth 100000 in
/-- Hypotheses of SegmentsLiveAndDie: the copy takes no job, for the frame's domain has gone and its row reads straight. -/
theorem test_SegmentsLiveAndDie_jobs : copyJobs 5 0 [] copyDev.quiet = [] ∧ (ownJobs (.copy 5) [] copyDev.quiet).2 = copyDev.quiet := by
  refine ⟨?_, rfl⟩
  unfold copyJobs
  dsimp only
  rw [copyRow copyDev.quiet (.inr (.inr rfl))]
  decide +kernel

/-- Hypotheses of SegmentsLiveAndDie: rows in flight, a column missing, a void row, erases under a grant, closing a checkpoint. -/
theorem test_SegmentsLiveAndDie_more :
    let o : Dev := { flashDev { seg5 with state := 1 } with stg.rows := [(2, { kind := 0, state := 3, seg := 5 })], stg.rowNext := 3 }
    let m : Dev := { copyDev with md.members := [] }
    let v : Dev := { gcRowDev with stg.rows := [(2, { gcRow2 with void := true })], stg.rowNext := 3 }
    let k : Dev := { gcRowDev with stg.rows := [(2, { gcRow2 with kind := 3 })], stg.rowNext := 3 }
    let d := flashDev { seg5 with state := 4 }
    let e : Dev := { d with ftl.gate := [blkKey 1 2], md.blocks := [(blkKey 1 2, { state := 1, seg := 5 })] }
    let g : Dev := { e with pwr.granted := [{ who := .engine (rowEngine 5 e), cls := 2, cost := 1 }] }
    let c : Dev := { d with ftl.ckpt := some { tsn := 4, md := d.md, pages := [], table := false } }
    (only o).ready ∧ ownSeg 5 o = true ∧ 5 ∉ o.ftl.closing ∧ rowsOf 5 true o = [2] ∧ 2 < o.stg.rowNext ∧
    (getRow 2 v).void = true ∧ (getRow 2 v).state = 3 ∧ rowWhole (getRow 2 v) v = true ∧ (getRow 2 k).kind = 3 ∧ (getRow 2 k).void = false ∧
    (getRow 2 gcRowDev).frames.filterMap (fun f => f.src.map fun x => (f.gid, x, ((getRow 2 gcRowDev).seg, (getRow 2 gcRowDev).row, f.off))) ≠ [] ∧
    journalQuiet gcRowDev ∧ movesOpen 5 (flashDev { seg5 with state := 3 }) = false ∧
    (∀ q ∈ e.pwr.waiting, q.who = .engine (rowEngine 5 e) → q.cls ≠ 2) ∧ hasGrant (.engine (rowEngine 5 g)) 2 g = true ∧ g.flt.inj = none ∧
    erasable 5 g = [blkKey 1 2] ∧ (getLink 1 g).fence.ok 64 = true ∧ (getLink 1 g).cmdCred.ok 32 = true ∧ (getLink 1 g).dataCred.ok 32 = true ∧
    laneState 1 g = 4 ∧ rdb (Reg.MDL_LANE_PLN_IN 1) g = false ∧ c.ftl.ckpt = some { tsn := 4, md := d.md, pages := [], table := false } ∧
    metaInFlight c = false ∧ poolList c ≠ [] ∧ (readRow (getSeg 5 m) 0 [2] copyDev).2.length ≤ 2 ∧
    hasGrant (.engine 0) 3 copyDev = false ∧ kindMeta 2 = true ∧ kindGc 1 = true := by
  intros
  and_intros <;> first | decide +kernel | (intro p; rfl)

/-- Hypotheses of TimeTroubleFlushes: the PF_N pin, the manifest's side, a pass, lanes. -/
theorem test_TimeTroubleFlushes_more :
    let d := flashDev seg5
    let w : Dev := { setb Reg.PWR_PF_PF_SRC d with pwr.pfWatch := true }
    let f : Dev := { ttDev with ftl.flush := some (flushImageOf ttDev) }
    let l : Dev := withRegs [(Reg.ERS_CTRL_LANE_EN, 1)] d
    rdb Reg.PWR_PF_PF_SRC w = true ∧ inTrouble w = false ∧ (only w).ready ∧ (only f).ready ∧ f.ftl.flush = some (flushImageOf ttDev) ∧
    flushTotal (flushImageOf ttDev) f ≤ (flushImageOf ttDev).chunks ∧ laneServes 5 l = true ∧ pipeReady 5 (.scrub 5) l ∧ (only d).checkRoom ∧
    (∀ q ∈ d.pwr.waiting, q.who = .engine (scrubEngine 5 d) → q.cls ≠ 3) ∧
    (∀ q ∈ ttDev.pwr.waiting, q.who = .engine (rowEngine 0 ttDev) → q.cls ≠ 1) ∧ hasGrant (.engine (scrubEngine 5 d)) 3 d = false := by
  intros
  and_intros <;> decide +kernel

/-! ### Chapter 12 -/

/-- A device with a lane in a state, and a module behind it. -/
def laneAt (state : Nat) (l : Lane12) (m : Module) (d : Dev := {}) : Dev :=
  { withRegs [(Reg.GLB_STATE_STATE, 1), (Reg.MDL_LANE_STATE 3, state)] d with lanes12 := [(3, l)], outside.modules := [(3, m)] }
def mod3 : Module := { present := true, serial := 9, nblocks := 8, rpb := 256, pgsz := 4, wlim := 10, table := [1] }

/-- Hypotheses of LanesTrainAndCarryFrames. -/
theorem test_LanesTrainAndCarryFrames :
    let d (k : Nat) := laneAt k {} mod3
    let g (k : Nat) : Dev := { d k with pwr.granted := [{ who := .mediaLane 3, cls := 5, cost := 10 }] }
    let u := laneAt 4 { tx := 8, rx := 5, unacked := [{ seq := 6 }, { seq := 7, type := 3 }], ackDue := true } mod3
    let r := laneAt 4 { unacked := [{ seq := 6 }, { seq := 7, type := 3 }], replays := 3 } mod3
    (only (d 1)).ready ∧ (getLink 3 (d 1)).queue = [] ∧ laneState 3 (d 1) = 1 ∧ hasGrant (.mediaLane 3) 5 (d 1) = false ∧
    (d 1).pwr.waiting = [] ∧ hasGrant (.mediaLane 3) 5 (g 1) = true ∧ laneState 3 (d 2) = 2 ∧ laneState 3 (d 3) = 3 ∧
    (∀ k < 64, bitOf (rd Reg.MDL_LANE_EN_EN (d 0)) k = true → laneState k (d 0) < 4) ∧ laneState 3 (d 4) = 4 ∧
    (getLink 3 (d 4)).cmds = [] ∧ (withinSecond (getLink 3 (d 4)).downs (d 4)).length < 4 ∧ laneState 3 (g 5) = 5 ∧
    hasGrant (.mediaLane 3) 5 (g 5) = true ∧ (getLink 3 u).rx = 5 ∧ (5 + 4096 - 4) % 4096 ≤ 2048 ∧ 2048 < (5 + 4096 - 6) % 4096 ∧
    (getLink 3 u).unacked.any (·.seq == 6) = true ∧ (getLink 3 u).unacked.any (·.seq == 9) = false ∧ (getLink 3 u).unacked ≠ [] ∧ (getLink 3 u).replays < 3 ∧
    rd (Reg.MDL_LANE_REPLAYS 3) u < 2 ^ 16 - 1 ∧ (getLink 3 r).replays = 3 ∧ (withinSecond (getLink 3 r).retrains r).length < 8 ∧
    (getLink 3 u).ackDue = true := by
  intros
  and_intros <;> decide +kernel

/-- A lane with a command outstanding, tag 2. -/
def askDev (c : LaneCmd) (m : Module := mod3) : Dev := laneAt 4 { cmds := [(2, c)] } m

/-- Hypotheses of ModulesExecuteAndAnswer: the module's commands. -/
theorem test_ModulesExecuteAndAnswer :
    let c (op : Nat) : LaneCmd := { opcode := op, block := 2, npages := 1, arg0 := 3, arg1 := 65536 + 1 }
    let m : Module := { mod3 with fence := 2 }
    (only (askDev (c 1))).ready ∧ mod3.present = true ∧ reqCmd 3 1 (.own 2) (askDev (c 1)) = some (0, c 1) ∧
    reqCmd 3 2 (.own 2) (askDev (c 2)) = some (0, c 2) ∧ reqCmd 3 3 (.own 2) (askDev (c 3)) = some (0, c 3) ∧
    reqCmd 3 4 (.own 2) (askDev (c 4)) = some (0, c 4) ∧ reqCmd 3 5 (.own 2) (askDev (c 5)) = some (0, c 5) ∧
    reqCmd 3 6 (.own 2) (askDev (c 6)) = some (0, c 6) ∧ reqCmd 3 16 (.own 2) (askDev (c 16)) = some (0, c 16) ∧
    reqCmd 3 17 (.own 2) (askDev (c 17)) = some (0, c 17) ∧ reqCmd 3 18 (.own 2) (askDev (c 18)) = some (0, c 18) ∧
    bitOf mod3.fence 0 = true ∧ mod3.fence = (c 5).arg0 ∧ (c 5).arg1 / 65536 = ((c 5).arg0 / 65536 + 1) % 2 ^ 48 ∧
    (c 5).arg1 % 65536 < 4 ∧ mod3.table ≠ [] ∧ modBlockOk mod3 2 = true ∧ modBlockOk mod3 9 = false ∧
    (0 + 1) * 2 ^ (10 + mod3.pgsz) ≤ mod3.rpb * 65536 ∧ (tget {} mod3.blocks 2).next = 0 ∧ (tget {} mod3.blocks 2).failed = none ∧
    (c 17).unit < mod3.rpb ∧ mod3.pln = false ∧ bitOf m.fence 0 = false := by
  intros
  and_intros <;> decide +kernel

theorem test_ModulesExecuteAndAnswer_data :
    reqCmd 3 17 (.peer { data := List.replicate 65536 0 }) (askDev { opcode := 1 }) = some (1, { opcode := 17, npages := 1, data := List.replicate 65536 0 })
    ∧ (List.replicate 65536 (0 : Byte)).length = 65536 := by
  have h : ownHead (askDev { opcode := 1 }) = 0 := by decide +kernel
  refine ⟨?_, by rw [List.length_replicate]⟩
  simp only [reqCmd, h, Nat.sub_zero]

/-- Hypotheses of ModulesExecuteAndAnswer: the device's side. -/
theorem test_ModulesExecuteAndAnswer_device :
    let d := laneAt 4 { dead := [5], cmds := [(2, { opcode := 2, use := .health, rsp := some { status := 0, data := [60, 0] } })] } mod3
    let a : Dev := { laneAt 4 { identified := true } mod3 with
      oimCfg.thresh := [(0, [1])], md.members := [(3, { adopted := true, serial := 9 })] }
    laneState 3 d = 4 ∧ rdb (Reg.MDL_LANE_PLN_IN 3) d = false ∧ (getLink 3 d).cmdCred = ⟨0, 2 ^ 32 - 1⟩ ∧
    (getLink 3 d).dataCred = ⟨0, 2 ^ 32 - 1⟩ ∧ (getLink 3 d).identified = false ∧ bitOf (rd Reg.MDL_PRESENT_LANES d) 3 = false ∧
    laneHas 3 (· == .identify) d = false ∧ (getLink 3 a).identified = true ∧ tget [] a.oimCfg.thresh (getMod 3 a).mtype ≠ [] ∧
    (tget {} a.md.members 3).adopted = true ∧ (tget {} a.md.members 3).serial = (getMod 3 a).serial ∧
    (tget {} a.md.members 3).declared = false ∧ 2 ∉ (getLink 3 d).dead ∧ 5 ∈ (getLink 3 d).dead ∧
    ((getLink 3 d).cmds.find? (fun c => c.1 == 2)).isSome = true ∧ rd (Reg.MDL_LANE_TIMEOUTS 3) d < 2 ^ 16 - 1 ∧
    rd (Reg.MDL_ERR_LATE 3) d < 2 ^ 16 - 1 ∧ (getLink 3 d).queue = [] ∧ laneUp 3 d = true := by
  intros
  and_intros <;> decide +kernel

/-- Hypotheses of LanesTrainAndCarryFrames: credits in order, a wrong port, too many failures. -/
theorem test_LanesTrainAndCarryFrames_more :
    let u := laneAt 4 { tx := 8, rx := 5, unacked := [{ seq := 6 }, { seq := 7, type := 3 }], ackDue := true } mod3
    let f := laneAt 4 { downs := [0, 0, 0, 0], retrains := [0, 0, 0, 0, 0, 0, 0, 0] } mod3
    (only u).ready ∧ (getLink 3 u).queue = [] ∧ (getLink 3 u).cmdCred.ok 32 = true ∧ (getLink 3 u).dataCred.ok 32 = true ∧ u.flt.inj = none ∧
    1 ≠ ownHead u ∧ (only f).ready ∧ (only f).checkRoom ∧ 4 ≤ (withinSecond (getLink 3 f).downs f).length ∧
    8 ≤ (withinSecond (getLink 3 f).retrains f).length ∧ (if (getLink 3 u).unacked.any (·.seq == 6) then 0 else (getLink 3 u).replays) < 3 ∧
    ((getLink 3 u).unacked.dropWhile (·.seq != 6)).drop 1 ≠ [] ∧ rdb Reg.MDL_INJ_ARM u = false ∧ (getLink 3 u).nakSent = false ∧
    (∀ q ∈ (laneAt 1 {} mod3).pwr.waiting, q.who = .mediaLane 3 → q.cls ≠ 5) := by
  intros
  and_intros <;> decide +kernel

/-- A module with a programmed row. -/
def rowMod : Module := { mod3 with blocks := [(2, { next := 1 })], rows := [(2 * 4096, zeroCol)] }

/-- Hypotheses of ModulesExecuteAndAnswer: pages programmed, a power-loss notice, each answer's use. -/
theorem test_ModulesExecuteAndAnswer_more :
    let c : LaneCmd := { opcode := 0x10, block := 2, npages := 2, unit := 1 }
    let r := askDev c rowMod
    let p : Module := { mod3 with pln := true }
    let g (op : Nat) (u : LaneUse) : Dev := laneAt 4 { cmds := [(2, { opcode := op, use := u, rsp := some { status := 0, data := [], unc := 0 } })] } mod3
    let j : Dev := { g 0x10 (.page 3 0) with
      stg.reads := [(3, { readJob0 with pages := [{ member := 3, block := 5, page := 0, start := 0, tried := [0], cur := 0 }] })] }
    let n : Dev := { laneAt 4 { identified := true } mod3 with oimCfg.thresh := [(0, [1])] }
    (only r).ready ∧ reqCmd 3 0x10 (.own 2) r = some (0, c) ∧ modBlockOk rowMod 2 = true ∧ (1 + 2) * 2 ^ (10 + rowMod.pgsz) ≤ rowMod.rpb * 65536 ∧
    (tget {} rowMod.blocks 2).failed = none ∧ (∀ i < 2, bitOf 0 i = false ∧ (1 + i) * 2 ^ (10 + rowMod.pgsz) / 65536 < (tget {} rowMod.blocks 2).next) ∧
    bitOf p.fence 0 = true ∧ p.pln = true ∧ modBlockOk mod3 2 = true ∧ (g 3 .badList).flt.inj = none ∧
    ((getLink 3 (g 3 .badList)).cmds.find? (fun c => c.1 == 2)).map (fun c => (c.2.use, c.2.opcode)) = some (.badList, 3) ∧
    ((getLink 3 (g 4 .fenceRead)).cmds.find? (fun c => c.1 == 2)).map (·.2.use) = some .fenceRead ∧
    ((getLink 3 (g 1 .identify)).cmds.find? (fun c => c.1 == 2)).map (·.2.use) = some .identify ∧
    geometryOk { mod3 with progRate := 1, readRate := 1 } = true ∧ ((getJob 3 j).pages[0]?).isSome = true ∧ (only j).ready ∧
    ¬ ((tget {} n.md.members 3).adopted = true ∧ (tget {} n.md.members 3).serial = (getMod 3 n).serial ∧ (tget {} n.md.members 3).declared = false) ∧
    (getLink 3 n).cmdCred.ok 32 = true ∧ (getLink 3 n).dataCred.ok 32 = true ∧ laneState 3 n = 4 := by
  intros
  and_intros <;> decide +kernel

theorem test_ModulesExecuteAndAnswer_row : (tget [] rowMod.rows (2 * 4096 + 0)).length = 65536 := by
  show zeroCol.length = 65536
  rw [zeroCol, List.length_replicate]

/-! ### Chapter 13 -/

/-- A segment of five rows with a column on a declared member, and a replacement for it. -/
def lossDev (x : Repl13) : Dev := { withRegs [(Reg.GLB_STATE_STATE, 1), (Reg.ERS_RB_RATE, 30), (Reg.ERS_RB_SEGS, 4), (Reg.ERS_RB_INFLIGHT, 4),
    (Reg.MDL_LANE_STATE 9, 4)] {} with
  md.members := (1, { adopted := true, declared := true }) :: [2, 3, 4, 9].map fun m => (m, { adopted := true })
  md.segNext := 8
  md.segs := [(5, { state := 2, w := 2, rows := 5, cols := (List.range 4).map fun c => { member := c + 1, block := 2 } })]
  ftl.rebuild := [{ seg := 5, repl := [x] }] }

/-- Hypotheses of MembersFailAndRebuild. -/
theorem test_MembersFailAndRebuild :
    let a : Dev := { lossDev { col := 0, member := 9, block := 3 } with md.segs := [], tmp.sec := 99, lanes12 := [(3, { absent := some 5 })] }
    let d := lossDev { col := 0, member := 9, block := 3 }
    let e := lossDev { col := 0, member := 9, block := 3, issued := 5, done := 5 }
    (only a).ready ∧ inTrouble a = false ∧ (getLink 3 a).absent = some 5 ∧ (tget {} a.md.members 3).adopted = true ∧
    (tget {} a.md.members 3).declared = false ∧ 3 ∉ a.ftl.declare ∧ 5 + rd Reg.ERS_RB_GRACE a ≤ nowSec a ∧
    (only d).ready ∧ getRebuild 5 d = some { seg := 5, repl := [{ col := 0, member := 9, block := 3 }] } ∧
    (d.ftl.rebuild.take (rd Reg.ERS_RB_SEGS d)).any (fun r => r.seg == 5) = true ∧ (getSeg 5 d).state = 2 ∧ missingCols 5 d = [0] ∧
    rowsThisWindow d < rd Reg.ERS_RB_RATE d ∧ d.pwr.waiting = [] ∧ hasGrant (.engine (rowEngine (5 + 0) d)) 3 d = false ∧
    laneState 9 d = 4 ∧ (getLink 9 d).queue = [] ∧ (getLink 9 d).cmdCred = ⟨0, 2 ^ 32 - 1⟩ ∧ (getLink 9 d).dataCred = ⟨0, 2 ^ 32 - 1⟩ ∧
    (getLink 9 d).fence.ok 64 = true ∧ (∀ c ∈ missingCols 5 e, c = 0) := by
  intros
  and_intros <;> decide +kernel

/-- A programmed row of 64 KiB, and the modules that hold it. -/
def col64 : Bytes := List.replicate 65536 7
def mod64 : Module := { present := true, blocks := [(2, { next := 5 })], rows := [(8192, col64)] }
def readableDev : Dev := { withRegs [(Reg.MDL_LANE_STATE 2, 4), (Reg.MDL_LANE_STATE 3, 4)] (lossDev { col := 0, member := 9, block := 3 }) with
  outside.modules := [(2, mod64), (3, mod64)] }

theorem col64_length : col64.length = 65536 := by rw [col64, List.length_replicate]

theorem rebuildColumn_one : (rebuildColumn 5 0 1 [] readableDev).isNone = false := by
  have h1 : (getRebuild 5 readableDev).bind (fun r => r.repl.find? fun x => x.col == 1 && decide (0 < x.done)) = none := by decide +kernel
  have h2 : getSeg 5 readableDev = { state := 2, w := 2, rows := 5, cols := (List.range 4).map fun c => { member := c + 1, block := 2 } } := by
    decide +kernel
  have h3 : colFailed { member := 2, block := 2 } readableDev = false := by decide +kernel
  have h4 : memberOk 2 readableDev = true := by decide +kernel
  have h5 : getMod 2 readableDev = mod64 := rfl
  simp only [rebuildColumn, h1, h2]
  simp [readColumn, h3, h4, h5, mod64, tget, col64_length, List.range, List.range.loop]

theorem rebuildColumn_two : (rebuildColumn 5 0 2 [] readableDev).isNone = false := by
  have h1 : (getRebuild 5 readableDev).bind (fun r => r.repl.find? fun x => x.col == 2 && decide (0 < x.done)) = none := by decide +kernel
  have h2 : getSeg 5 readableDev = { state := 2, w := 2, rows := 5, cols := (List.range 4).map fun c => { member := c + 1, block := 2 } } := by
    decide +kernel
  have h3 : colFailed { member := 3, block := 2 } readableDev = false := by decide +kernel
  have h4 : memberOk 3 readableDev = true := by decide +kernel
  have h5 : getMod 3 readableDev = mod64 := rfl
  simp only [rebuildColumn, h1, h2]
  simp [readColumn, h3, h4, h5, mod64, tget, col64_length, List.range, List.range.loop]

/-- Hypotheses of MembersFailAndRebuild: at most two columns of a row are missing. -/
theorem test_MembersFailAndRebuild_row :
    ((List.range (2 + 2)).filter fun k => (rebuildColumn 5 0 k [] readableDev).isNone).length ≤ 2 := by
  simp only [List.range, List.range.loop, List.filter, rebuildColumn_one, rebuildColumn_two]
  split <;> split <;> simp

/-- With a lane of the erasure engine in service. -/
def rebLane (d : Dev) : Dev := withRegs [(Reg.ERS_CTRL_LANE_EN, 1)] d

/-- Hypotheses of MembersFailAndRebuild: a metadata segment takes the page of a rebuilt segment; its columns then stand. -/
theorem test_MembersFailAndRebuild_commit :
    let x : Repl13 := { col := 0, member := 9, block := 3, issued := 5, done := 5 }
    let r : Rebuild := { seg := 5, repl := [x] }
    let f := lossDev x
    let g : Dev := { f with
      md.pools := [(0, { exists_ := true })]
      md.segs := f.md.segs ++ [(6, { state := 1, w := 2, rpb := 9, isMeta := true, gc := true, cols := (List.range 4).map fun c => { member := c + 1, block := 3 } })] }
    (only g).ready ∧ inTrouble g = false ∧ getRebuild 5 g = some r ∧ r.written = false ∧ journalQuiet g ∧
    (writeNews (3 * 2 ^ 60 + 5 / 32) (.columns 5 (newColumns 5 r g)) g.quiet).1 = true ∧ (getSeg 5 g).state = 2 ∧
    (∀ y ∈ newColumns 5 r g, colFailed y g = false) := by
  intros
  and_intros <;> first | decide +kernel | (intro p; rfl)

/-- Hypotheses of MembersFailAndRebuild: the replacement stands, the row is next, the grant. -/
theorem test_MembersFailAndRebuild_more :
    let d := lossDev { col := 0, member := 9, block := 3 }
    let e0 := chooseReplacements 5 d.quiet
    let e := rowEngine (5 + 0) d
    let g : Dev := { d with pwr.granted := [{ who := .engine e, cls := 3, cost := 1 }] }
    let f := lossDev { col := 0, member := 9, block := 3, issued := 5, done := 5 }
    (getRebuild 5 e0).map (·.repl) = some [{ col := 0, member := 9, block := 3 }] ∧
    laneServes 5 (rebLane d) = true ∧ pipeReady 5 (.rebuild 5) (rebLane d) ∧ (d.stg.rows.filter fun r => r.2.kind == 4).length < rd Reg.ERS_RB_INFLIGHT d ∧ 0 < (getSeg 5 d).rows ∧
    (∀ r ∈ d.stg.rows, r.2.kind = 4 → r.2.engine ≠ e) ∧ (∀ q ∈ d.pwr.waiting, q.who = .engine e → q.cls ≠ 3) ∧
    hasGrant (.engine e) 3 g = true ∧ g.flt.inj = none ∧ laneState 9 g = 4 ∧ rdb (Reg.MDL_LANE_PLN_IN 9) g = false ∧
    (getLink 9 g).cmdCred.ok 32 = true ∧ (getLink 9 g).dataCred.ok 32 = true ∧ (getLink 9 g).fence.ok 64 = true ∧
    (chooseReplacements 5 g.quiet).md = g.md ∧ (chooseReplacements 5 g.quiet).ftl = g.ftl ∧
    getRebuild 5 f = some { seg := 5, repl := [{ col := 0, member := 9, block := 3, issued := 5, done := 5 }] } ∧ journalQuiet f ∧ (only f).ready := by
  intros
  and_intros <;> first | decide +kernel | (intro p; rfl)

/-! ### Chapter 14 -/

/-- A namespace, a snapshot of it, a relationship and its peer. -/
def snapDev (x : Rel) (q : Snap) : Dev := { withRegs [(Reg.GLB_STATE_STATE, 1), (Reg.CL_CTRL_FUNCTION 7, 3), (Reg.NVF_SNAP_ARG_NSID, 7),
    (Reg.NVF_SNAP_ARG_NSID2, 8), (Reg.NVF_REP_SEL_REL, 4), (Reg.NVF_SNAP_LIST_ADDR, 0x90000), (Reg.NVF_REP_SEL_PEER, 2)] {} with
  md.ns := [(7, { exists_ := true, size := 10, domain := 2, group := 1 })]
  md.owners := 0
  md.sseqNext := 12
  md.snaps := [(snapKey 7 9, q)]
  md.rels := [(4, x)]
  sxc.spt := some { pendingBinds := [(8, 3)], peers := [(2, { valid := true, localDomain := 2, keyIndex := 1, addrs := List.replicate 16 1 })] }
  repl.peers := [(2, { tx := some { num := 5, key := [1], since := 0 } })] }
def snap9 : Snap := { exists_ := true, nsid := 7, sseq := 9, xtag := 5 }
def source : Rel := { state := 1, peer := 2, nsid := 7, opened := true }
def target : Rel := { state := 1, target := true, peer := 2, nsid := 7, opened := true }

/-- Hypotheses of SnapshotMailboxRequests. -/
theorem test_SnapshotMailboxRequests :
    let d := snapDev { state := 0 } snap9
    let o : Dev := wr Reg.CAS_ANA_OWN0_OWN 1 d
    let c : Dev := { d with stg.cuts := [{ nsids := [7], sseq := 11, edge := 0, role := .host }] }
    let w := snapDev { state := 0 } { snap9 with deleting := true }
    let t := snapDev target snap9
    (only d).ready ∧ rdb Reg.NVF_SNAP_CMD_GO d = false ∧ alone d = false ∧ d.stg.journal = [] ∧ (getNs 7 d).exists_ = true ∧
    rd Reg.NVF_SNAP_LIST_COUNT d = 0 ∧ ownsNs 7 d = true ∧ (counted d).length < 1023 ∧ ownsNs 7 o = false ∧ (getSnap 7 9 d).exists_ = true ∧
    (getSnap 7 9 d).deleting = false ∧ (getSnap 7 9 d).audit = false ∧ (getSnap 7 9 d).repl = false ∧ rd Reg.NVF_SNAP_ARG_NSID2 d = 8 ∧
    (getNs 8 d).exists_ = false ∧ (getSnap 8 0 d).exists_ = false ∧ (d.sxc.spt.map fun t => (t.bad, tget 0 t.pendingBinds 8)) = some ([], 3) ∧
    rd Reg.NVF_REP_SEL_REL d = 4 ∧ (getRel 4 d).state = 0 ∧ replOn d = true ∧ rd Reg.NVF_REP_SEL_PEER d = 2 ∧
    ((d.sxc.spt).map fun t => (tget {} t.peers 2).valid) = some true ∧ rd Reg.NVF_REP_SEL_MODE d ≤ 1 ∧
    (c.stg.cuts.find? fun x => cutReady x c).isSome = true ∧ metaStalled c = false ∧ walkable w = some { snap9 with deleting := true } ∧
    w.stg.heldTx = [] ∧ (getRel 4 t).state = 1 ∧ (getRel 4 t).target = true ∧ (getSnap 7 0 t).exists_ = false ∧
    xtagSnap 7 t = some snap9 := by
  intros
  and_intros <;> decide +kernel

/-- Hypotheses of ReplicationEndsWork: packets, sessions, binding. -/
theorem test_ReplicationEndsWork :
    let d := snapDev { state := 0 } snap9
    let h : Bytes := [0x52, 0x50, 1, 0] ++ List.replicate 20 0
    let g : Bytes := [0x52, 0x50, 1, 0, 0, 0, 0, 9] ++ List.replicate 16 0
    let c : Bytes := [0x70, 0xCD, 1, 1] ++ List.replicate 44 0 ++ [1]
    let o : Bytes := [0x52, 0x50, 1, 0] ++ List.replicate 16 0 ++ [0, 49, 0, 0]
    let n : Dev := { d with repl.peers := [(2, { tx := some { num := 5, key := [1], since := 0 }, txNew := some { num := 6, key := [2], since := 0 } })] }
    let r : Dev := { d with tmp.sec := 4000 }
    (only d).ready ∧ replOn d = true ∧ alone d = false ∧ h.length = 24 ∧ beNat (sub h 20 2) = 0 ∧ beNat (sub h 0 2) = 0x5250 ∧
    beNat (sub h 2 1) = 1 ∧ beNat (sub h 4 4) = 0 ∧ beNat (sub (padTo 24 o) 20 2) = c.length ∧ sessionControl c = true ∧ beNat (sub g 4 4) ≠ 0 ∧ addrOf { addrs := List.replicate 16 1 } (List.replicate 16 1) = true ∧
    (getPeer 2 d).rx = none ∧ (getPeer 2 d).rxOld = none ∧ rd Reg.NVF_REP_PKT_NO_SESSION d < 2 ^ 32 - 1 ∧ rd (Reg.ETH_DROP_LEN 3) d < 2 ^ 32 - 1 ∧
    (getPeer 2 n).txNew = some { num := 6, key := [2], since := 0 } ∧ n.repl.queue = [] ∧ 0 + 3600 ≤ r.tmp.sec ∧ (getPeer 2 r).txNew = none ∧
    (getRel 4 d).state = 0 ∧ ownsNs 7 d = true ∧ isTarget 7 d = false ∧ (getNs 7 d).size = 10 ∧ (getNs 7 d).domain = 2 := by
  intros
  and_intros <;> decide +kernel

/-- Hypotheses of ReplicationEndsWork: the key of a session under the replication-peer key. -/
def kekDev : Dev := loadSlot 6 3 0 1 0 (List.replicate 32 9) (snapDev source snap9)
theorem test_ReplicationEndsWork_kek :
    useKey 3 1 0 kekDev.quiet = (.ok (List.replicate 32 9), kekDev.quiet) := by
  have h : residentKey 3 1 0 kekDev.quiet = some (List.replicate 32 9) := by decide +kernel
  have g : (slotsNaming 3 1 0 kekDev.quiet).filter (fun n => !(slotPair n kekDev.quiet).ok 64) = [] := by decide +kernel
  simp [useKey, checkSlots, g, forEach, h]

/-- Hypotheses of ReplicationEndsWork: source and target. -/
theorem test_ReplicationEndsWork_ends :
    let a := snapDev { source with opened := false } snap9
    let b := snapDev source snap9
    let c := snapDev { source with streaming := true, state := 2, unacked := [{ head := 0, tsn := 4, ms := 1 }] } snap9
    let e := snapDev { source with state := 3 } snap9
    let f := snapDev { source with cycle := some { sseq := 9, phase := 2, batches := [0] } } snap9
    let t := snapDev target snap9
    let g : Dev := { t with oimCfg := ioDev.oimCfg, ftl := ioDev.ftl, md.members := ioDev.md.members, repl.inb := [{ rel := 4, num := 1, items := [{ offer := { square := 3, kind := 0, fp := [1] }, dec := 3 }] }] }
    let l : Dev := { snapDev { source with oldest := some 0, rpo := 1 } snap9 with tmp.sec := 4000 }
    (only a).ready ∧ (getRel 4 a).opened = false ∧ (getRel 4 b).cycle = none ∧ (getRel 4 b).base = 0 ∧ ownsNs 7 b = true ∧
    (getRel 4 c).streaming = true ∧ (getRel 4 c).lastAnchor + (getRel 4 c).anchor ≤ 3600 ∧ c.stg.cuts = [] ∧ (getRel 4 c).hold = [] ∧
    (∀ u ∈ (getRel 4 c).unacked, u.anchor = 0) ∧ tempoNow e % 1000 = 0 ∧ (getRel 4 e).state = 3 ∧ e.md.rels = [(4, getRel 4 e)] ∧
    ((getRel 4 f).cycle).map (fun y => (y.phase, y.batches, y.granules, y.sseq)) = some (2, [0], 0, 9) ∧ (getRel 4 t).target = true ∧
    getIn 4 1 t = none ∧ t.repl.inb = [] ∧ t.stg.slots = [] ∧ t.stg.heldTx = [] ∧ (getRel 4 t).inSseq = 0 ∧ (freeSlotNo g).isSome = true ∧
    (only g).checkRoom ∧ (getRel 4 l).rpo * 1000 < lagOf (getRel 4 l) l ∧ 2 * lagOf (getRel 4 b) b < (getRel 4 b).rpo * 1000 := by
  intros
  and_intros <;> decide +kernel

/-- Hypotheses of SnapshotMailboxRequests: the refusals, limits, choices. -/
theorem test_SnapshotMailboxRequests_more :
    let d := snapDev { state := 0 } snap9
    let big : Dev := wr Reg.NVF_SNAP_LIST_COUNT 65 d
    let o : Dev := wr Reg.CAS_ANA_OWN0_OWN 1 d
    let g : Dev := wr Reg.NVF_SNAP_ARG_NSID 9 d
    let w := snapDev { state := 0 } { snap9 with deleting := true }
    let t := snapDev target snap9
    let c : Dev := { d with stg.cuts := [{ nsids := [7], sseq := 11, edge := 0, role := .host }] }
    64 < rd Reg.NVF_SNAP_LIST_COUNT big ∧ createList d = [7] ∧ (∀ m ∈ createList o, ownsNs m o = false) ∧
    (∃ m ∈ createList g, (getNs m g).exists_ = false) ∧ (getSnap 7 3 d).exists_ = false ∧ (snapDev { state := 0 } { snap9 with repl := true }).md.snaps ≠ [] ∧
    (getSnap 7 9 (snapDev { state := 0 } { snap9 with repl := true })).repl = true ∧ (getNs 9 g).exists_ = false ∧
    (d.md.ns.filter fun m => m.2.exists_).length < 65535 ∧ tget 0 [(8, 3)] 8 = (getNs 7 d).domain + 1 ∧
    (getRel 4 t).state ≠ 0 ∧ (getRel 4 t).state ≠ 4 ∧ ownsNs (getRel 4 t).nsid t = true ∧ replOn t = true ∧ journalQuiet d ∧ journalQuiet c ∧
    nsBusy 7 w = false ∧ nsBusy (walkQ { snap9 with deleting := true } w).2.2 w = false ∧ metaStalled w = false ∧ (only w).ready := by
  intros
  and_intros <;> first | (intro p; rfl) | decide +kernel

/-- Hypotheses of ReplicationEndsWork: sessions, openings, answers, batches, anchors. -/
theorem test_ReplicationEndsWork_more :
    let d := snapDev { state := 0 } snap9
    let h : Bytes := [0x52, 0x50, 1, 0, 0, 0, 0, 9] ++ List.replicate 16 0
    let e : Dev := { d with repl.peers := [(2, { rx := some { num := 9, key := [2], since := 0 } })] }
    let f := snapDev { source with cycle := some { sseq := 9, phase := 2, batches := [0, 1] } } snap9
    let u := snapDev { source with unacked := [{ head := 0, tsn := 4, ms := 1, sent := true }] } snap9
    let y := snapDev { source with state := 2, lastStart := 0, interval := 0, base := 3 } snap9
    let n : Dev := { d with md.pools := [(1, { exists_ := true })], sxc.spt := some { domains := [(2, { valid := true, opn := true })] } }
    let b : Dev := { d with sxc.spt := some { bad := [.peer 1], peers := [(1, { valid := true, keyIndex := 1 }), (2, { valid := true, keyIndex := 1 })] } }
    let t := snapDev target snap9
    (only e).ready ∧ (getPeer 2 e).rx = some { num := 9, key := [2], since := 0 } ∧ padTo 24 h = h ∧ beNat (sub h 4 4) = 9 ∧
    ¬ (16 ≤ ([] : Bytes).length) ∧ (∀ q, (getPeer 2 d).rx = some q → q.num ≠ 9) ∧
    (getNs 8 d).exists_ = false ∧ (getRel 4 f).state ≠ 0 ∧ (match (useKey 3 1 0 b.quiet).1 with | .error _ => true | _ => false) = true ∧
    ((getRel 4 f).cycle).map (·.batches) = some [0, 1] ∧ 1 ∈ [0, 1] ∧ (getRel 4 u).cycle = none ∧
    ((getRel 4 u).unacked.find? (fun u => u.sent && u.tsn % 2 ^ 32 == 4)).isSome = true ∧ (getRel 4 y).lastStart + (getRel 4 y).interval ≤ y.tmp.sec ∧
    (getRel 4 y).state = 2 ∧ (getRel 4 y).streaming = false ∧ ((List.range 128).map (· + 1)).find? (fun g => ownsGroup g n) = some 1 ∧
    (n.md.pools.find? fun y => y.2.exists_).map (·.1) = some 1 ∧
    (createNs { blocks := 10 * blocksPerSquare 0, lbaf := 0, pi := 0, pool := 1, domain := 2, group := 1 } n.quiet).1 = 0 ∧
    getIn 4 6 t = none ∧ (∀ i ∈ t.repl.inb, i.rel ≠ 4) ∧ (∀ y ∈ t.stg.slots, y.2.nsid ≠ 7) ∧ journalQuiet f ∧
    (∀ m, (getRel 4 (snapDev { source with cycle := some { sseq := 9, phase := 3 } } snap9)).cycle = some m → m.phase ≠ 0) := by
  intros
  and_intros <;> first | (intro p; rfl) | (intro q h; cases h; decide) | decide +kernel

/-! ### Chapter 15 -/

/-- The transport runs; port 1 is a PEER port with its link up. -/
def cdtDev (c : Cdt) : Dev := { withRegs [(Reg.GLB_STATE_STATE, 1), (Reg.CDT_CTRL_EN, 1), (Reg.CDT_CTRL_MAX_AGE, 2000), (Reg.CDT_CTRL_RETRY, 7), (Reg.CDT_CTRL_RTO, 20),
    (Reg.CDT_PORT_ROLE 1, 1), (Reg.CDT_PORT_UP 1, 1), (Reg.CDT_RING_BASE 2, 0x10000000), (Reg.CDT_RING_CLUSTERS 2, 1), (Reg.TMP_NUMBER_NUMBER, 9000),
    (Reg.CDT_WTBL_BASE, 0x10100000), (Reg.CDT_SVC_BASE 5, 0x40001400000), (Reg.CDT_WOPEN_INDEX, 4), (Reg.CDT_WOPEN_LEN_LEN, 64),
    (Reg.CDT_WOPEN_PERM, 1), (Reg.CDT_WOPEN_BASE_BASE, 0x40000000000)] {} with cdt := c }
def run15 : Cdt := { start := some 0 }
/-- A descriptor: a WRITE of 4 bytes to the peer by any port. -/
def cdtDescr (op len : Nat) : Bytes := [BitVec.ofNat 8 op, 1, 0xFF, 0] ++ leBytes 4 len ++ leBytes 8 0x10200000 ++ leBytes 8 0 ++ leBytes 4 (if op = 1 then 5 else 0)
  ++ leBytes 4 0 ++ leBytes 8 (if op < 4 then 0 else 0x10300000) ++ leBytes 8 7 ++ List.replicate 16 0
def askCdt (op len : Nat) : Dev := withMem [(0x10000000, cdtDescr op len)] (wr (Reg.CDT_RPTR_PROD 2) 1 (cdtDev run15))
/-- A message outstanding to DEV 1, its packet on port 1, and a frame from DEV 1. -/
def waitCdt (m : CdtMsg) (q : List CdtPkt) : Dev := wr Reg.CDT_OUT_COUNT 1 (cdtDev { run15 with
  dsts := [(1, { msgs := [m], boot := some 0 })], paths := [(5, { unacked := q })], srcs := [(1, { boot := some 0 })] })
def msg15 : CdtMsg := { desc := some (2, 0), op := 2, port := 1, msn := 1, tempo0 := 8999, len := 1, laddr := 0x10200000, res := 0x10300000 }
def pkt15 : CdtPkt := { hdr := { type := 2, msn := 1, len := 1 } }
def from1 (h : CdtHdr) (pay : Bytes) : CdtFrame :=
  { port := 1, hdr := { h with src := 1, msn := 1, tempo0 := 8999, len := pay.length }, payload := pay }

/-- Hypotheses of DatagramRequestsEnd: requests. -/
theorem test_DatagramRequestsEnd :
    let d := cdtDev run15
    let b (op len : Nat) := memRead (askCdt op len) (cdtDesc 2 0 (askCdt op len)) 64
    (only d).ready ∧ cdtRuns d = true ∧ d.cdt.waiting = [] ∧ bitOf (rd (Reg.CDT_RING_CLUSTERS 2) d) 0 = true ∧
    bitOf (rd (Reg.CDT_RING_CLUSTERS 2) d) 1 = false ∧ (1 + 65536 - rd (Reg.CDT_RPTR_CONS 2) d) % 65536 ≤ 256 ∧
    cdtRing (askCdt 1 4) = some 2 ∧ cdtBad (b 1 4) (askCdt 1 4) = false ∧ cdtBad (b 2 4) (askCdt 2 4) = false ∧
    cdtBad (b 3 4) (askCdt 3 4) = false ∧ cdtBad (b 4 8) (askCdt 4 8) = false ∧ cdtBad (b 5 16) (askCdt 5 16) = false ∧
    fld (b 1 4) 2 1 = 0xFF ∧ pathPorts 1 (askCdt 1 4) ≠ [] ∧ (cdtPayload 1 (b 1 4) (askCdt 1 4)).2.1 = false ∧
    (cdtPayload 5 (b 5 16) (askCdt 5 16)).2.1 = false ∧ (askCdt 1 4).cdt.paths = [] := by
  intros
  and_intros <;> decide +kernel

/-- Hypotheses of DatagramRequestsEnd: ends. -/
theorem test_DatagramRequestsEnd_ends :
    let w := waitCdt msg15 [pkt15]
    let r := waitCdt { msg15 with op := 3 } []
    let u := waitCdt { msg15 with tempo0 := 5000 } [{ pkt15 with tries := 7 }]
    let x := from1 { type := 4 } [5]
    let y := from1 { type := 6 } (leBytes 8 3)
    let k := from1 { type := 8, psn := 1 } (leBytes 8 0)
    let n := from1 { type := 9, psn := 0 } ([1, 0, 0] ++ List.replicate 5 0)
    (only w).ready ∧ cdtRuns w = true ∧ w.cdt.waiting = [] ∧ (getDst 1 w).msgs = [msg15] ∧ (getDst 1 w).boot = some 0 ∧
    arrive x r.quiet = (.fresh, r.quiet) ∧ arrive y r.quiet = (.fresh, r.quiet) ∧ inSeal 0x10200000 1 r = none ∧
    rangePoisoned 0x10200000 1 r = false ∧ rangesApart 0x10200000 1 (cdtDesc 2 0 r) 64 ∧ rangesApart 0x10300000 8 (cdtDesc 2 0 r) 64 ∧
    frameOk k w.quiet = (true, w.quiet) ∧ frameOk n w.quiet = (true, w.quiet) ∧ getPath 1 1 w = { unacked := [pkt15] } ∧
    ackCovers 1 0 0 = true ∧ fld n.payload 0 1 = 1 ∧ fld n.payload 1 2 = 0 ∧ 5000 + maxAge u ≤ tempoNow u ∧ rd Reg.CDT_OUT_COUNT w ≠ 0 ∧
    rdb (Reg.CDT_PORT_UP 1) w = true ∧ 0 < rd Reg.CDT_CTRL_RETRY w ∧ rd Reg.CDT_CTRL_RETRY u ≤ 7 ∧
    19 < rtoOf pkt15 w ∧ rtoOf pkt15 w ≤ 20 ∧ rtoOf { pkt15 with tries := 7 } u = 160 ∧
    rd (Reg.CDT_PORT_RETX 1) w < 2 ^ 16 - 1 ∧ rd Reg.CDT_FAILR_LINK_DOWN w + 1 < 2 ^ 16 := by
  intros
  and_intros <;> decide +kernel

/-- Hypotheses of DatagramRequestsEnd: links. -/
theorem test_DatagramRequestsEnd_links :
    let d := clr (Reg.CDT_PORT_UP 1) (cdtDev { run15 with paths := [(9, { heard := some 5 })] })
    let g : Dev := { d with pwr.granted := [{ who := .cercoPort 1, cls := 5, cost := 40 }] }
    portRole 1 d ≠ 0 ∧ rdb (Reg.CDT_PORT_UP 1) d = false ∧ hasGrant (.cercoPort 1) 5 d = false ∧ d.pwr.waiting = [] ∧
    hasGrant (.cercoPort 1) 5 g = true ∧ (getPath 2 1 d).heard = some 5 ∧ 5 + 3000 < tempoNow d := by
  intros
  and_intros <;> decide +kernel

/-- Window 4 in a state, its range 64 bytes at the start of DRAM, open for DEV 1. -/
def winDev (perm st : Nat) : Dev := withMem [(0x10100080, leBytes 8 0x40000000000 ++ leBytes 8 64 ++ leBytes 1 perm ++ leBytes 1 2 ++ leBytes 1 0 ++ leBytes 1 st
  ++ leBytes 2 7)] (wr Reg.CDT_WREVOKE_INDEX 4 (cdtDev { run15 with srcs := [(1, { boot := some 0 })] }))
def key4 : Nat := 4 * 2 ^ 20 + 7

/-- Hypotheses of DatagramsReceivedAndWindows. -/
theorem test_DatagramsReceivedAndWindows :
    let d := winDev 7 1
    let m := from1 { type := 1, key := 5, off := 2 } [3, 4]
    let n := from1 { type := 1, key := 20, off := 2 } [3, 4]
    let w := from1 { type := 2, key := key4 } [3, 4]
    let v := from1 { type := 2, key := key4 + 1 } [3, 4]
    let r := from1 { type := 3, key := key4 } (leBytes 4 8 ++ leBytes 4 0)
    let a := from1 { type := 5, key := key4, off := 8 } ([1, 8] ++ List.replicate 6 0 ++ leBytes 8 5)
    let p := cdtDev { run15 with rxs := [(5, { exp := some 4, pend := 1 })] }
    (only d).ready ∧ arrive m d.quiet = (.fresh, d.quiet) ∧ arrive w d.quiet = (.fresh, d.quiet) ∧ arrive a d.quiet = (.fresh, d.quiet) ∧
    getSrc 1 d = { boot := some 0 } ∧ atOrAbove 1 0 = true ∧ newer 0 0 = false ∧ getPath 1 1 d = {} ∧ svcServed 5 d = true ∧ svcFull 5 d = false ∧
    m.hdr.off = m.payload.length ∧ svcServed n.hdr.key d = false ∧ checkWindow w.hdr 1 2 d = 0 ∧ checkWindow v.hdr 1 2 d ≠ 0 ∧
    inSeal 0x40000000000 8 d = none ∧ rangePoisoned 0x40000000000 8 d = false ∧ isFiuWin r.hdr d = false ∧ checkWindow r.hdr 0 8 d = 0 ∧
    fld r.payload 0 4 = 8 ∧ checkWindow a.hdr 2 8 d = 0 ∧ a.payload.length = 16 ∧ fld a.payload 0 1 = 1 ∧ fld a.payload 1 1 = 8 ∧
    (getRx 1 1 p).pend ≠ 0 ∧ winState 4 (winDev 7 0) = 0 ∧ rd Reg.CDT_WOPEN_INDEX (winDev 7 0) = 4 ∧
    inMem (rd Reg.CDT_WOPEN_BASE_BASE d) (rd Reg.CDT_WOPEN_LEN_LEN d) = true ∧ rd Reg.CDT_WOPEN_PERM d < 8 ∧ rd Reg.CDT_WOPEN_PERM d ≠ 0 ∧
    winState 4 d = 1 ∧ rd Reg.CDT_WREVOKE_INDEX d = 4 ∧ d.cdt.revoke = [] ∧ winState 4 (winDev 7 3) = 3 ∧
    winEdge 4 (winDev 7 3) + maxAge (winDev 7 3) ≤ tempoNow (winDev 7 3) := by
  intros
  and_intros <;> decide +kernel

/-- Hypotheses of DatagramRequestsEnd: refusals, cuts, defers, ages. -/
theorem test_DatagramRequestsEnd_more :
    let bad := withMem [(0x10000000, [9])] (askCdt 1 4)
    let none' := clr (Reg.CDT_PORT_ROLE 1) (askCdt 2 4)
    let w := waitCdt msg15 [pkt15]
    let u := waitCdt msg15 [{ pkt15 with hdr := { type := 1, msn := 1, len := 1 }, defer_ := true, tries := 9 }]
    let r := waitCdt { msg15 with op := 3 } []
    let x := from1 { type := 4, last := true } [5]
    let n := from1 { type := 9, psn := 0 } ([7, 0, 0] ++ List.replicate 5 0)
    cdtBad (memRead bad (cdtDesc 2 0 bad) 64) bad = true ∧ (only bad).ready ∧ cdtRuns bad = true ∧ cdtRing bad = some 2 ∧
    pathPorts 1 none' = [] ∧ cdtBad (memRead none' (cdtDesc 2 0 none') 64) none' = false ∧ (askCdt 1 4).fab.flips = [] ∧
    (getPath 1 1 (askCdt 1 4)).unacked.length < 1024 ∧ (getPath 1 1 (askCdt 1 4)).queue = [] ∧
    (getDst 1 r).msgs.find? (·.msn == 1) = some { msg15 with op := 3 } ∧ arrive x r.quiet = (.fresh, r.quiet) ∧
    [] ++ [(0, 1)] = tdel x.hdr.pidx msg15.landed ++ [(x.hdr.pidx, 1)] ∧ ([(0, 1)].map (·.2)).sum = msg15.len ∧
    inSeal 0x10200000 1 r = none ∧ inSeal 0x10300000 1 r = none ∧ fld n.payload 0 1 = 7 ∧ frameOk n u.quiet = (true, u.quiet) ∧
    (getPath 1 1 u).queue = [] ∧ ((getPath 1 1 u).unacked.find? (fun q => q.hdr.psn == 0)).map (·.defer_) = some true ∧
    (getPath 1 1 w).queue = [] ∧ rdb Reg.CDT_CTRL_EN w = true ∧ rd Reg.CDT_FAILR_AGE w + 1 < 2 ^ Reg.CDT_FAILR_AGE.width := by
  intros
  and_intros <;> decide +kernel

/-- Window 4 onto the index, for DEV 1. -/
def fiuWinDev (src : CdtSrc := { boot := some 0 }) : Dev := withRegs [(Reg.FIU_CTRL_EN, 1), (Reg.FIU_CTRL_BKT_BITS, 10), (Reg.FIU_OWN_OWNER 0 0, 0x80)]
  { winDev 8 1 with fiu.buckets := [(bucketKey 0 0, [(1, [5])])], cas.hasPeer := true, cdt := { run15 with srcs := [(1, src)] } }
def casReq (off size : Nat) (a b : Bytes) : CdtFrame := from1 { type := 5, key := key4, off := off } ([2, BitVec.ofNat 8 size] ++ List.replicate 6 0 ++ padTo size a ++ padTo size b)

/-- Hypotheses of DatagramsReceivedAndWindows: messages refused, seen, whole, of another length; mirrored data; the index; compare and swap. -/
theorem test_DatagramsReceivedAndWindows_more :
    let d := winDev 7 1
    let m := from1 { type := 1, key := 5, off := 2, last := true } [3, 4]
    let l := from1 { type := 1, key := 5, off := 3, last := true } [3, 4]
    let r := fiuWinDev { boot := some 0, refused := [(1, 4)] }
    let p := fiuWinDev { boot := some 0, done := [1], results := [(1, [7])] }
    let full := wr (Reg.CDT_SVC_PROD 5) 255 d
    let e (x : Dev) (f : CdtFrame) : Dev := (filterPkt f (arrive f x.quiet).2).2
    let q := from1 { type := 3, key := key4, off := 0 } (leBytes 4 2048 ++ leBytes 4 0)
    (only d).ready ∧ (arrive m d.quiet).1 = .fresh ∧ (filterPkt m (arrive m d.quiet).2).1 = .perform ∧ svcServed 5 (e d m) = true ∧
    wholeMsg 1 1 (addPart m (e d m)) = some [3, 4] ∧ m.hdr.off = 2 ∧ wholeMsg 1 1 (addPart l (e d l)) = some [3, 4] ∧ l.hdr.off = 3 ∧
    svcFull 5 full = true ∧ isDup 1 1 full = false ∧ (filterPkt m (arrive m r.quiet).2).1 = .refused 4 ∧
    (filterPkt m (arrive m p.quiet).2).1 = .dup ∧ tget [] (getSrc 1 (arrive m p.quiet).2).results 1 = [7] ∧
    (filterPkt (casReq 8 16 [] [9]) (arrive (casReq 8 16 [] [9]) d.quiet).2).1 = .perform ∧
    checkWindow (casReq 0 16 [] [9]).hdr 2 16 (e d (casReq 0 16 [] [9])) = 0 ∧ isFiuWin (casReq 0 16 [] [9]).hdr d = false ∧
    inSeal 0x40000000000 16 d = none ∧ fld (casReq 0 16 [] [9]).payload 1 1 = 16 ∧ ((casReq 0 16 [] [9]).payload.drop 8).length = 2 * 16 ∧
    isFiuWin q.hdr fiuWinDev = true ∧ checkWindow q.hdr 0 2048 fiuWinDev = 3 ∧ checkWindow { q.hdr with off := 0 } 0 64 fiuWinDev = 0 ∧
    servesPart 0 fiuWinDev = true ∧ ownMoving 0 fiuWinDev = false ∧ checkWindow (casReq 32 32 [5] [9]).hdr 2 32 fiuWinDev = 0 ∧
    padTo 32 (tget [] (getBucket (bucketKey 0 0) fiuWinDev) 1) = ((casReq 32 32 [5] [9]).payload.drop 8).take 32 ∧
    fiuWinDev.cas.hasPeer = true ∧ peerDev fiuWinDev = 1 ∧ winState 4 fiuWinDev ≠ 0 ∧ fiuOn fiuWinDev = true := by
  intros
  and_intros <;> decide +kernel

/-- Hypotheses of DatagramsReceivedAndWindows: a page of the index lies in the window. -/
theorem test_DatagramsReceivedAndWindows_page :
    let d : Dev := withMem [(0x10100088, leBytes 8 4096)] fiuWinDev
    let q := from1 { type := 3, key := key4, off := 0 } (leBytes 4 2048 ++ leBytes 4 0)
    checkWindow q.hdr 0 2048 d = 0 ∧ isFiuWin q.hdr d = true ∧ (∀ i ∈ List.range 1, servesPart (fiuPage 0 i d).1 d = true) ∧
    (arrive q d.quiet).1 = .fresh ∧ (filterPkt q (arrive q d.quiet).2).1 = .perform := by
  intros
  and_intros <;> decide +kernel

/-! ### Chapter 16 -/

/-- Head A of DEV 0, tempo 64,000; port 1 is a PEER port that is up. -/
def pairDev (c : Cas) : Dev := { wr Reg.TMP_NUMBER_NUMBER 64000 (cdtDev run15) with cas := c }
def headB (c : Cas) : Dev := { wr Reg.CAS_CTRL_HEAD 1 (pairDev c) with pins := {} }
def beatBytes (dev flags : Nat) : Bytes :=
  leBytes 1 dev ++ leBytes 1 flags ++ leBytes 2 1 ++ leBytes 4 7 ++ leBytes 8 63900 ++ leBytes 8 3 ++ leBytes 8 4
def beat (dev flags : Nat) : CdtFrame :=
  { port := 1, hdr := { type := 0x13, src := 1, len := 32 }, payload := beatBytes dev flags }

/-- Hypotheses of HeadsWatchAndCompare. -/
theorem test_HeadsWatchAndCompare :
    let d := pairDev {}
    let u : Dev := wr Reg.GLB_STATE_STATE 0 d
    let m := headB { hbHeard := true }
    let n := wr Reg.CAS_HB_RUN 2 (headB { hbHeard := true })
    let r := pairDev { resigned := some (5, 1), peerCastled := true }
    let k := pairDev { rechecks := [{ group := 3, window := 64, own := true, mine := some false }] }
    (only d).ready ∧ d.cas.hasPeer = true ∧ rdb Reg.CDT_CTRL_EN d = true ∧ tempoNow d % 100 = 0 ∧ rdb (Reg.CDT_PORT_UP 1) d = true ∧
    portRole 1 d = 1 ∧ frameOk (beat 1 1) d.quiet = (true, d.quiet) ∧ (beat 1 1).payload.length = 32 ∧ fld (beat 1 1).payload 0 1 = peerDev d ∧
    d.cas.declared = none ∧ d.cas.castled = false ∧ glbState u = 0 ∧ bitOf (fld (beat 1 8).payload 1 1) 3 = true ∧
    frameOk (beat 1 8) u.quiet = (true, u.quiet) ∧ fld (beat 2 1).payload 0 1 ≠ peerDev d ∧ frameOk (beat 2 1) d.quiet = (true, d.quiet) ∧
    (only d).checkRoom ∧ m.cas.hbJudged < tempoNow m - 100 ∧ rd Reg.CAS_HB_RUN m < 2 ∧ rd Reg.CAS_HB_RUN n = 2 ∧ ownHead n = 1 ∧
    inTrouble n = false ∧ n.front.ctrls = [] ∧ rd Reg.CAS_HB_MISSED n < 2 ^ Reg.CAS_HB_MISSED.width - 1 ∧
    rdb Reg.CAS_CTRL_FATAL_IN_EN (setb Reg.CAS_CTRL_FATAL_IN_EN d) = true ∧ d.stg.mirrorJ = [] ∧ d.stg.mirror = [] ∧ d.md.segs = [] ∧
    r.cas.resigned = some (5, 1) ∧ glbState r = 1 ∧ r.front.ctxs = [] ∧ tempoNow d % 64 = 0 ∧ activationPaused d = false ∧ d.cas.wins = [] ∧ d.cas.digests = [] ∧
    d.cas.hist = [] ∧ rd Reg.CAS_DIG_MISMATCH d < 2 ^ Reg.CAS_DIG_MISMATCH.width - 1 ∧ d.cas.rechecks = [] ∧
    k.cas.rechecks.length = 1 := by
  intros
  and_intros <;> decide +kernel

/-- Hypotheses of ClaimsAndOwnerTables. -/
theorem test_ClaimsAndOwnerTables :
    let d (c : Cas) : Dev := { laneAt 4 { fence := ⟨3, 2 ^ 64 - 4⟩ } mod3 (pairDev c) with md.members := [(3, { adopted := true })] }
    let e := d { claimDue := some 5, declared := some (4, 1) }
    let f := wr Reg.CAS_STATUS_PEER 2 (d { noMajority := true, claims := [(3, { st := .unreached })] })
    let g := wr Reg.CAS_STATUS_PEER 1 (pairDev {})
    let p := wr Reg.TMP_NUMBER_NUMBER (4 + 10 ^ 9) (pairDev { plannedAt := some 4 })
    let r : Dev := { pairDev { castled := true } with ftl.ckpt := some { tsn := 1, md := {}, pages := [] } }
    (only e).ready ∧ laneState 3 e = 4 ∧ rdb (Reg.MDL_LANE_PLN_IN 3) e = false ∧ (getLink 3 e).queue = [] ∧
    (getLink 3 e).cmdCred = ⟨0, 2 ^ 32 - 1⟩ ∧ (getLink 3 e).dataCred = ⟨0, 2 ^ 32 - 1⟩ ∧ (getLink 3 e).fence.ok 64 = true ∧ 5 ≤ tempoNow e ∧
    tempoNow f % 1000 = 0 ∧ rd Reg.CAS_STATUS_PEER f = 2 ∧ f.cas.noMajority = true ∧ rd Reg.CAS_STATUS_PEER g = 1 ∧ glbState g = 1 ∧
    g.cas.plannedAt = none ∧ 4 + tempiFor 100000000 p ≤ tempoNow p ∧ p.cas.hasPeer = true ∧ p.cas.resigned = none ∧
    r.cas.rejoinStep = 0 ∧ r.ftl.ckpt ≠ none ∧ (pairDev { rejoining := true }).stg.mirrorJ = [] := by
  intros
  and_intros <;> decide +kernel

/-- Hypotheses of HeadsWatchAndCompare: a heartbeat that came, lists with entries, rechecks of each kind. -/
theorem test_HeadsWatchAndCompare_more :
    let s := headB { hbHeard := true, hbSeen := [63900] }
    let b := wr (Reg.CDT_PORT_ROLE 1) 3 (pairDev {})
    let m (x : Option Bool) := pairDev { rechecks := [{ group := 3, window := 64, own := true, mine := x }] }
    let g : DigestMsg := { window := 64, lo := 0, hi := 0, entries := [(3, [1])] }
    let e := catchUp { (pairDev {}).quiet with cas.digests := [g] }
    (tempoNow s - 100) ∈ s.cas.hbSeen ∧ s.cas.hbJudged < tempoNow s - 100 ∧ (only s).ready ∧ portRole 1 b = 3 ∧ (only b).ready ∧
    s.cas.resigned = none ∧ (m none).cas.rechecks.find? (fun r => r.group == 3 && r.window == 64) = some { group := 3, window := 64, own := true } ∧
    ((m (some true)).cas.rechecks.find? (fun r => r.group == 3 && r.window == 64)).map (·.mine) = some (some true) ∧
    (∀ r ∈ (pairDev {}).cas.rechecks, r.group = 3 → r.window = 64 → r.mine = none) ∧ g.hi ≤ e.md.tsnPeer ∧
    e.md.tsnPeer < ({ g with hi := 5 } : DigestMsg).hi ∧ (g.entries.find? (·.1 == 3)).map (·.2) = some [1] ∧
    (windowEntries 1 0 0 3 e).isEmpty = true := by
  intros
  and_intros <;> decide +kernel

/-- Hypotheses of ClaimsAndOwnerTables: the lane's checks, the states of a claim. -/
theorem test_ClaimsAndOwnerTables_more :
    let d (c : Cas) : Dev := { laneAt 4 { fence := ⟨3, 2 ^ 64 - 4⟩ } mod3 (pairDev c) with md.members := [(3, { adopted := true })] }
    let e := d { claimDue := some 5, declared := some (4, 1) }
    let f := d { noMajority := true, claims := [(3, { st := .unreached })] }
    e.cas.claims = [] ∧ e.cas.won = false ∧ e.cas.resigned = none ∧ e.flt.inj = none ∧ (getLink 3 e).cmdCred.ok 32 = true ∧
    (getLink 3 e).dataCred.ok 32 = true ∧ (tget {} f.cas.claims 3).st = .unreached ∧ (only f).ready ∧
    (pairDev { castled := true }).cas.rejoinStep = 0 ∧ (pairDev { rejoining := true }).cas.rejoining = true := by
  intros
  and_intros <;> decide +kernel

/-! ### Chapter 17 -/

/-- An image of 384 bytes for any device: the header, no section, a signature block; KEY_ID 9. -/
def smallImage (len : Nat) : Bytes := leBytes 4 0x4D494F51 ++ leBytes 2 1 ++ leBytes 2 256 ++ leBytes 4 len ++ leBytes 2 0 ++ leBytes 2 0
  ++ leBytes 8 0 ++ leBytes 8 5 ++ leBytes 8 9 ++ leBytes 8 0 ++ leBytes 1 3
def imageDev (b : Bytes) (key : Nat) : Dev :=
  let d := withMem [(0x1000, b)] (withRegs [(Reg.OIM_LOAD_ADDR, 0x1000), (Reg.OIM_LOAD_LEN, 48)] {})
  { d with nv.oimKey := { keyId := key, pub := [1] } }

/-- Hypotheses of ImagesValidateAndCommit. -/
theorem test_ImagesValidateAndCommit :
    let d := imageDev (smallImage 256) 9
    let e := imageDev (smallImage 260) 9
    let busy := wr Reg.OIM_CMD_ST_BUSY 1 d
    (only d).ready ∧ d.sxc.spt = none ∧ rdb Reg.OIM_CMD_ST_BUSY d = false ∧ oimHeader (oimLoaded d) = none ∧
    oimTarget (oimLoaded d) d = none ∧ fld (oimLoaded d) 14 2 = 0 ∧ d.nv.oimKey.keyId = fld (oimLoaded d) 32 8 ∧
    oimHeader (oimLoaded e) = some ⟨2, 0, 8⟩ ∧ (only busy).ready ∧ rdb Reg.OIM_CMD_ST_BUSY busy = true ∧
    rd Reg.OIM_CMD_ST_IGNORED busy + 1 < 2 ^ 16 := by
  intros
  and_intros <;> decide +kernel

/-- Hypotheses of ImagesValidateAndCommit: a table in force with sound entries, and its keys. -/
theorem test_ImagesValidateAndCommit_more :
    let t : Spt := { oimFloor := 4, oimKeys := [⟨9, [2]⟩] }
    let d : Dev := { imageDev (smallImage 256) 8 with sxc.spt := some t }
    (only d).ready ∧ d.sxc.spt = some t ∧ SptEntry.imageKeys ∉ t.bad ∧ SptEntry.floors ∉ t.bad ∧ rdb Reg.OIM_CMD_ST_BUSY d = false ∧
    oimHeader (oimLoaded d) = none ∧ (t.oimKeys.find? fun k => k.keyId == fld (oimLoaded d) 32 8).isSome = true := by
  intros
  and_intros <;> decide +kernel

/-! ### Chapter 18 -/

/-- A table of version 41 in force, debug locked, and a move of `len` bytes in DRAM with room for its signatures. -/
def sxcDev (x : Bytes) (c : Option (Bytes × Nat)) : Dev :=
  let d := withMem [(0x1000, x)] (withRegs [(Reg.SXC_MOVE_ADDR_ADDR, 0x1000), (Reg.SXC_MOVE_ADDR_LEN, 300), (Reg.TMP_NUMBER_NUMBER, 64000)] {})
  { d with nv.serial := 7, sxc.challenge := c, sxc.spt := some { version := 41, white := [1], black := [2] } }
/-- A move of one POLICY_SET for the next edge, by DEV 0. -/
def policyMove (at_ : Nat) : Bytes := leBytes 4 0x564D4E51 ++ leBytes 2 1 ++ leBytes 2 1 ++ leBytes 4 80 ++ leBytes 4 0 ++ leBytes 8 7 ++ leBytes 8 41
  ++ leBytes 8 at_ ++ leBytes 1 1 ++ List.replicate 23 0 ++ leBytes 2 0x0C ++ leBytes 2 8 ++ leBytes 4 0 ++ leBytes 2 0x103 ++ List.replicate 6 0
/-- Two OFFICER_SET operations. -/
def claimBody : Bytes :=
  let set (w : Nat) (k : Byte) : Bytes := leBytes 4 0x00700005 ++ leBytes 4 0 ++ leBytes 8 w ++ List.replicate 97 k ++ List.replicate 7 0
  leBytes 4 0x564D4E51 ++ leBytes 2 1 ++ leBytes 2 2 ++ leBytes 4 304 ++ leBytes 4 0 ++ leBytes 8 7 ++ leBytes 8 0 ++ leBytes 8 0 ++ List.replicate 24 0
    ++ set 0 4 ++ set 1 5

/-- Hypotheses of RegistersExtendAndChallenges. -/
theorem test_RegistersExtendAndChallenges :
    let d : Dev := { ({} : Dev) with tmp.sec := 700, sxc.challenge := some ([1], 100) }
    (only d).ready ∧ glbState d = 0 ∧ d.sxc.challenge = some ([1], 100) ∧ 100 + 600 ≤ d.tmp.sec := by
  intros
  and_intros <;> decide +kernel

/-- Hypotheses of MovesVerifiedAndStaged. -/
theorem test_MovesVerifiedAndStaged :
    let d := sxcDev (policyMove 0) (some ([9], 0))
    let b := moveLoaded d
    let ok (x : Bytes) (p : Move → Bool) : Bool := match parseMove x with | .ok m => p m | .error _ => false
    (only d).ready ∧ d.sxc.spt ≠ none ∧ debugOpen d = false ∧ d.sxc.staged = none ∧ d.sxc.challenge ≠ none ∧
    ok b (fun m => b.length ≥ m.body.length + 192 && m.serial == d.nv.serial && m.expectVer == 41 && applyAtOk m d && bitOf m.targets (ownDev d)) ∧
    ok (b.take 100) (fun m => (b.take 100).length < m.body.length + 192) ∧ (ok (moveLoaded (sxcDev [] none)) fun _ => true) = false ∧
    ok (policyMove 64100) (fun m => bitOf m.targets (ownDev d) && tempoNow d + 100 ≤ m.applyAt) ∧
    ok (policyMove 64099) (fun m => bitOf m.targets (ownDev d) && m.applyAt < tempoNow d + 100) ∧
    { d with sxc.staged := some (⟨7, 41, 0, 1, [], []⟩, 5) }.sxc.staged ≠ none := by
  intros
  and_intros <;> decide +kernel

/-- Hypotheses of ClaimsTakeOfficers and of SpdmAnswered: a state in which a claim reaches its signatures. -/
theorem test_ClaimsTakeOfficers :
    let d := withRegs [(Reg.SXC_STATUS_CLAIM_OPEN, 1), (Reg.SXC_MOVE_ADDR_LEN, 496)] (sxcDev claimBody (some ([9], 0)))
    (only d).ready ∧ (only d).settled ∧ d.pwr.good = true ∧ d.pwr.adj3 = false ∧ rdb Reg.SXC_STATUS_CLAIM_OPEN d = true ∧
    (match parseMove (moveLoaded d) with
      | .ok m => m.serial == 7 && (claimKeys m).isSome && m.expectVer == 0 && m.applyAt == 0
      | .error _ => false) = true ∧ (moveLoaded d).length = 304 + 192 := by
  intros
  and_intros <;> decide +kernel

/-- A ledger whose last signed record is that of boot 5. -/
def bootDev : Dev :=
  { ({} : Dev) with nv.bootSlots := [(5, List.replicate 8 0 ++ leBytes 8 5)], nv.bootSigned := [(5, true)] }
def boot18 : BootSample := { ddr := List.replicate 8 ⟨true, 16, 1, 1⟩ }

/-- Hypotheses of StartUpEndsInARecord. -/
theorem test_StartUpEndsInARecord :
    let d := bootDev
    let e : Dev := { d with sxc.startedUp := true }
    (only d).ready ∧ glbState d = 0 ∧ d.sxc.startedUp = false ∧ boot18.saved = none ∧ rootReadable d = false ∧ chainBroken d = false ∧
    highestBoot d + 1 < (d.nv.epochFuses + 1) * 2 ^ 24 ∧ boot18.ddr.length = 8 ∧ (∀ x ∈ boot18.ddr, x.trained = true) ∧
    4 ≤ (boot18.ddr.filter fun x => x.dimms != 0).length ∧ (∀ k < 64, rd (Reg.FLT_CHK_OPEN k) d = 0) ∧ (only e).ready ∧ glbState e = 0 ∧
    e.sxc.startedUp = true ∧ e.cas.rejoining = false ∧ (only e).dcheckRoom ∧ ({ d with cas.rejoining := true } : Dev).cas.rejoining = true := by
  intros
  and_intros <;> decide +kernel

/-- Hypotheses of MovesVerifiedAndStaged: the table's entries, a body that does not parse, acknowledgements. -/
theorem test_MovesVerifiedAndStaged_more :
    let d := sxcDev (policyMove 64100) (some ([9], 0))
    let s : Dev := { d with sxc.staged := some (⟨7, 41, 0, 1, [], []⟩, 5) }
    (only d).ready ∧ (d.sxc.spt.map (·.bad)) = some [] ∧ (match parseMove [1, 2] with | .error _ => true | .ok _ => false) = true ∧
    (match parseMove (policyMove 64100) with
      | .ok m => bitOf m.targets (ownDev d) && !debugOpen d && decide (d.sxc.staged = none) && decide (tempoNow d + 100 ≤ m.applyAt)
      | .error _ => false) = true ∧ s.sxc.staged ≠ none ∧ (only s).ready := by
  intros
  and_intros <;> decide +kernel

/-- Hypotheses of StartUpEndsInARecord: a broken chain with an epoch fuse left, a record that fails. -/
theorem test_StartUpEndsInARecord_more :
    let d : Dev := { ({} : Dev) with nv.bootSlots := [(5, List.replicate 8 0 ++ leBytes 8 5)] }
    let e : Dev := { bootDev with sxc.startedUp := true }
    let r : Dev := { e with cas.rejoining := true }
    (only d).ready ∧ glbState d = 0 ∧ d.sxc.startedUp = false ∧ d.nv.epochFuses < 255 ∧ (only e).ready ∧ e.sxc.startedUp = true ∧
    (only e).dcheckRoom ∧ r.cas.rejoining = true ∧ (only r).ready ∧ 4 ≤ (boot18.ddr.filter fun x => x.trained && x.dimms != 0).length := by
  intros
  and_intros <;> decide +kernel

/-! ### Chapter 19 -/

def fwCmd (off len : Nat) : HostCmd := { adminCmd with val2 := off, data := List.replicate len 1 }
/-- The management endpoint's controller and command. -/
def fwDev (f : Fwu) : Dev := withRegs [(Reg.FWU_STATUS_ACTIVE, 1)] { frontDev with
  fwu := f, nv.fw := [(1, { present := true }), (2, { present := true })], front.ctrls := tset {} frontDev.front.ctrls (mgmtCntlid frontDev) { exists_ := true, admin := mgmtCtx } }
def mgmtCmd : HostCmd := { ctx := mgmtCtx, cid := 3, sel := 3 }
/-- A buffer with an image of 512 bytes. -/
def fullBuf : Fwu := { owner := some 32768, ranges := [(0, 512)], buf := [(9, 2)] }

/-- Hypotheses of FirmwareImagesAreStored: downloads. -/
theorem test_FirmwareImagesAreStored :
    let d := fwDev {}
    let c (off : Nat) : HostCmd := { mgmtCmd with val2 := off, data := [] }
    let e := fwDev { owner := some 9, ranges := [(4096, 4096)] }
    let f := fwDev { owner := some (cntlidOf mgmtCmd d), ranges := [(4096, 4096)] }
    (only d).ready ∧ (∀ x ∈ [d, e, f], capsuleTaken .fwDownload (c 4096) 0 x ∧ checksPass .fwDownload (c 4096) x) ∧
    (c 4096).val2 % 4096 = 0 ∧ (c 4096).data.length % 4096 = 0 ∧ capsuleTaken .fwDownload (c 5) 0 d ∧ checksPass .fwDownload (c 5) d ∧
    d.fwu.owner = none ∧ d.fwu.ranges = [] ∧ e.fwu.owner ≠ some (cntlidOf mgmtCmd e) ∧ f.fwu.owner = some (cntlidOf mgmtCmd f) ∧
    rdb Reg.FWU_STATUS_COMPAT d = false := by
  intros
  and_intros <;> decide +kernel

/-- A block of 4 KiB is not empty, and a block at 4,096 + 2,048 would overlap one at 4,096. -/
theorem test_FirmwareImagesAreStored_block : (List.replicate 4096 (1 : Byte)).length = 4096 ∧ (4096 < 4096 + 4096 ∧ 4096 < 8192) := by
  constructor
  · exact List.length_replicate
  · decide

/-- Hypotheses of FirmwareImagesAreStored: commits. -/
theorem test_FirmwareImagesAreStored_commits :
    let d := fwDev fullBuf
    let e := fwDev { act := some { slot := 2, edge := 0, phase := 0, cmdRec := 0 } }
    let c (n : Nat) : HostCmd := { mgmtCmd with sel := n }
    (∀ ca < 4, ∀ n ∈ [1, 2, 3], capsuleTaken (.fwCommit ca) (c n) 0 d ∧ checksPass (.fwCommit ca) (c n) d) ∧ d.fwu.act = none ∧
    (∀ ca < 4, commitSlotNo ca 2 d = 2 ∧ commitSlotNo ca 1 d = runSlot d) ∧ (getFwSlot 2 d).present = true ∧ (getFwSlot 3 d).present = false ∧
    capsuleTaken (.fwCommit 1) (c 2) 0 e ∧ checksPass (.fwCommit 1) (c 2) e ∧ e.fwu.act ≠ none ∧ bufBytes d = 512 ∧
    imgLen (bufRead 512 d) = 512 ∧ bufBytes (fwDev {}) = 0 ∧ glbState d = 1 ∧ rd Reg.CAS_STATUS_PEER d ≤ 1 ∧
    rdb Reg.PWR_STATUS_TT d = false ∧ imgHandoff (getFwSlot 2 d).image = imgHandoff (getFwSlot (runSlot d) d).image ∧ d.sxc.spt = none := by
  intros
  and_intros <;> decide +kernel

/-- Hypotheses of ActivationsSwitchOrEnd. -/
theorem test_ActivationsSwitchOrEnd :
    let d (p : Nat) := fwDev { act := some { slot := 2, edge := 0, phase := p, cmdRec := 5 } }
    let e : Dev := { d 1 with cas.cmds := [(5, { state := 1 }), (6, { state := 1 })] }
    (only (d 1)).ready ∧ activationIdle 5 (d 1) = true ∧ activationIdle 5 e = false ∧ (getFc 5 e).ready = none ∧
    (getFc 5 (d 2)).ready = none ∧ rd Reg.FWU_ACT_COUNT (d 2) + 1 < 2 ^ 16 ∧ (fwDev {}).fwu.act = none := by
  intros
  and_intros <;> decide +kernel

/-- Hypotheses of FirmwareImagesAreStored: a table in force, compatible mode. -/
theorem test_FirmwareImagesAreStored_more :
    let d : Dev := { fwDev {} with sxc.spt := some {} }
    let k := setb Reg.FWU_STATUS_COMPAT (fwDev {})
    let c : HostCmd := { mgmtCmd with val2 := 0, data := [] }
    (only d).ready ∧ (d.sxc.spt.map (·.bad)) = some [] ∧ capsuleTaken .fwDownload c 0 d ∧ checksPass .fwDownload c d ∧
    rdb Reg.FWU_STATUS_COMPAT k = true ∧ (verifyFw c.data 5 k).1 ≠ 1 ∧ capsuleTaken .fwDownload c 0 k ∧ checksPass .fwDownload c k ∧ (only k).ready := by
  intros
  and_intros <;> decide +kernel

/-- Hypotheses of ActivationsSwitchOrEnd: the phases. -/
theorem test_ActivationsSwitchOrEnd_more :
    let d (p : Nat) := fwDev { act := some { slot := 2, edge := 0, phase := p, cmdRec := 5 } }
    (only (d 2)).ready ∧ (d 2).fwu.act = some { slot := 2, edge := 0, phase := 2, cmdRec := 5 } ∧ (d 2).fwu.act.map (·.phase) ≠ some 1 ∧
    (d 1).fwu.act.map (·.phase) = some 1 := by
  intros
  and_intros <;> decide +kernel

/-! ### Chapter 20 -/

/-- An open Check in entry 5 of a code at RAISED 4,003, the escalation time 2,000. -/
def chkDev (t : Nat) : Dev :=
  { withRegs [(Reg.FLT_CHK_OPEN 5, 1), (Reg.FLT_CHK_CODE 5, 0x101), (Reg.FLT_CHK_UNIT 5, 0), (Reg.FLT_CHK_T_RAISED 5, 4003),
      (Reg.FLT_STATUS_CHK_OPEN, 1), (Reg.TMP_NUMBER_NUMBER, t), (Reg.FLT_DCHK_OPEN 3, 1), (Reg.FLT_STATUS_DCHK_OPEN, 1)] {} with
    flt.escalate := ⟨2000, 63535⟩ }

/-- Hypotheses of ChecksEscalateAndClose. -/
theorem test_ChecksEscalateAndClose :
    let d := chkDev 6003
    (only d).ready ∧ (only d).settled ∧ rdb (Reg.FLT_CHK_OPEN 5) d = true ∧ activationPaused d = false ∧ d.flt.escalate.ok 16 = true ∧
    rd (Reg.FLT_CHK_T_RAISED 5) d + d.flt.escalate.val = tempoNow d ∧ (only d).dcheckRoom ∧ findDchk 0x101 0 d = none ∧
    rd Reg.FLT_CNT_DCHECKS d + 1 < 2 ^ 16 ∧ 0x101 ≠ Ev.KING_SPLIT ∧ 0x101 ≠ Ev.TT_LOST ∧
    tempoNow (chkDev 6002) < rd (Reg.FLT_CHK_T_RAISED 5) (chkDev 6002) + (chkDev 6002).flt.escalate.val ∧
    0 < rd Reg.FLT_STATUS_CHK_OPEN d ∧ d.pwr.good = true ∧ d.pwr.adj3 = false ∧ rdb (Reg.FLT_DCHK_OPEN 3) d = true ∧
    0 < rd Reg.FLT_STATUS_DCHK_OPEN d := by
  intros
  and_intros <;> decide +kernel

/-- Hypotheses of RecorderFreezesAndPrograms. -/
theorem test_RecorderFreezesAndPrograms :
    let d (n : Nat) : Dev := { withRegs [(Reg.SCR_PTR_PIDX, n), (Reg.SCR_CTRL_FREEZE_MAX, 1), (Reg.TMP_NUMBER_NUMBER, 6003)] {} with
      scr.pqueue := [{ seq := 4, valid := true }] }
    let f := wr Reg.SCR_STATUS_FROZEN 1 (d 0)
    let g : Dev := { f with scr.frozeAt := 6000 }
    (only (d 64)).settled ∧ (only (d 64)).ready ∧ (d 64).pwr.good = true ∧ (d 64).pwr.adj3 = false ∧ (d 64).scr.pqueue ≠ [] ∧
    rd Reg.SCR_PTR_PIDX (d 64) % 64 = 0 ∧ rd Reg.SCR_PTR_PIDX (d 65) % 64 ≠ 0 ∧ rd Reg.SCR_PTR_PIDX (d 524287) < 524288 ∧ (only (d 64)).checkRoom ∧
    rdb Reg.SCR_STATUS_FROZEN (d 0) = false ∧ rdb Reg.SCR_STATUS_FROZEN f = true ∧ f.scr.lost < 65536 ∧
    f.scr.frozeAt + rd Reg.SCR_CTRL_FREEZE_MAX f * 1000 ≤ tempoNow f ∧ tempoNow g < g.scr.frozeAt + rd Reg.SCR_CTRL_FREEZE_MAX g * 1000 ∧
    (5 : BitVec 20).toNat < windowSize 2 ∧ rd Reg.SCR_WIN_SEL_SOURCE f < 3 := by
  intros
  and_intros <;> decide +kernel

/-- The closed entry of ChecksEscalateAndClose: entry 6 of a device with entry 5 open; its Double-check entry 4; and a Checkmate. -/
theorem test_ChecksEscalateAndClose_more :
    let d := chkDev 6003
    let m : Dev := { d with flt.checkmateIn := some 1 }
    rdb (Reg.FLT_CHK_OPEN 6) d = false ∧ rdb (Reg.FLT_DCHK_OPEN 4) d = false ∧ d.flt.escalate.ok 16 = true ∧ (only m).settled ∧
    m.pwr.good = true ∧ m.pwr.adj3 = false ∧ 0x00 ∈ [0x00, 0x07, 0x0B, 0x0C, 0x0D, 0x0E, 0x11, 0x12, 0x13] := by
  intros
  and_intros <;> decide +kernel

/-- The other clauses of RecorderFreezesAndPrograms: an empty queue, Checkmate, a freeze not due, a reserved source, a cursor beyond. -/
theorem test_RecorderFreezesAndPrograms_more :
    let d : Dev := {}
    let m : Dev := { d with flt.checkmateIn := some 1, scr.pqueue := [{ seq := 4, valid := true }] }
    let g : Dev := { wr Reg.SCR_STATUS_FROZEN 1 (wr Reg.TMP_NUMBER_NUMBER 6003 (wr Reg.SCR_CTRL_FREEZE_MAX 1 d)) with scr.frozeAt := 6000 }
    d.scr.pqueue = [] ∧ (only m).settled ∧ m.scr.pqueue ≠ [] ∧ (only g).ready ∧ rdb Reg.SCR_STATUS_FROZEN g = true ∧
    ¬ (3 < 3) ∧ ¬ (524288 : BitVec 20).toNat < windowSize 1 ∧ (524287 : BitVec 20).toNat < windowSize 1 ∧
    rd Reg.FLT_INJ_TARGET (wr Reg.FLT_INJ_TARGET 2 d) = 2 := by
  intros
  and_intros <;> decide +kernel

/-! ### Chapter 21 -/

def regionDev (r : Nat) (a : Nat) (g : Region) : Dev := { wr (Reg.PWR_LVL_ASTATE r) a ({} : Dev) with pwr.regions := [(r, g)] }

/-- Hypotheses of LevelsAndStatesRequested. -/
theorem test_LevelsAndStatesRequested :
    let d : Dev := {}
    let t := wr Reg.PWR_STATUS_TT 1 d
    let m := regionDev 3 0 { ramp := some 4, rampCharge := 5 }
    let a := regionDev 3 4 { entering := 1 }
    let b := regionDev 3 4 { entering := 1, wakeAfter := true }
    let c := regionDev 9 4 { entering := 2, wakeAfter := true, lvlAtEntry := 5 }
    let w := regionDev 3 5 { wakingFrom := 2, clamped := true }
    (only d).ready ∧ inTrouble d = false ∧ (only t).ready ∧ inTrouble t = true ∧ rd (Reg.PWR_REF_COUNT 11) t + 1 < 2 ^ 16 ∧
    (getRegion 3 m).ramp = some 4 ∧ astateOf 3 a = 4 ∧ (getRegion 3 a).entering = 1 ∧ (getRegion 3 a).wakeAfter = false ∧ workWaits 3 a = false ∧
    (getRegion 3 b).wakeAfter = true ∧ astateOf 9 c = 4 ∧ (getRegion 9 c).entering = 2 ∧ astateOf 3 w = 5 ∧ (getRegion 3 w).wakingFrom = 2 := by
  intros
  and_intros <;> decide +kernel

/-- Hypotheses of EnvelopeThrottlesAndWakes. -/
theorem test_EnvelopeThrottlesAndWakes :
    let d (t : Nat) : Dev := { withRegs [(Reg.TMP_NUMBER_NUMBER, 3000), (Reg.PWR_STATUS_EFF_ENV, 2300), (Reg.PWR_CTRL_ENVELOPE, 230),
      (Reg.PWR_THERM_THROTTLE, 105), (Reg.PWR_CTRL_THROTTLE_EN, 1), (Reg.PWR_LVL_TEMP 2, t)] {} with pwr.envelope := 4600 }
    let a : Dev := { ({} : Dev) with pwr.adj3 := true, pwr.adj3WakeS := 5, pwr.adj3Sec := 100 }
    (only (d 106)).ready ∧ tempoNow (d 106) % 1000 = 0 ∧ rdb Reg.PWR_CTRL_THROTTLE_EN (d 106) = true ∧ sensorAbove 105 (d 106) = true ∧
    leastBase (d 106) ≤ 2300 ∧ sensorAbove 105 (d 99) = false ∧ sensorsBelow 100 (d 99) = true ∧ 2300 < (d 99).pwr.envelope ∧
    (d 99).pwr.envelope ≤ 5200 ∧ (only a).settled ∧ a.pwr.adj3 = true ∧ a.pwr.adj3WakeS ≠ 0 ∧ ({} : Dev).pwr.adj3 = false ∧
    tempoNow (wr Reg.TMP_NUMBER_NUMBER 3001 (d 99)) % 1000 ≠ 0 := by
  intros
  and_intros <;> decide +kernel

/-- The other clauses of LevelsAndStatesRequested: no ramp, a region that neither enters nor wakes, an entry held back by its ledgers,
ADJ3 entering, work that waits, and a wake from ADJ2 with a ledger of the region. -/
theorem test_LevelsAndStatesRequested_more :
    let d : Dev := {}
    let x : Dev := { d with pwr.adj3Entering := true }
    let c := regionDev 3 4 { entering := 2 }
    let u : Dev := { c with fab.ledgers := [(ledgerKey 0x230 1, { freshLedger 16 with credits := ⟨3, 252⟩ })] }
    let k : Dev := { regionDev 9 4 { entering := 1 } with accels := [(3, { lanes := [(0, { job := some (0, 0) })] })] }
    (getRegion 3 d).ramp = none ∧ astateOf 3 d ≠ 4 ∧ astateOf 3 d ≠ 5 ∧ d.pwr.adj3Entering = false ∧ (only x).ready ∧ x.pwr.adj3Entering = true ∧
    (only c).ready ∧ (getRegion 3 c).entering = 2 ∧ ledgersFull 3 c = true ∧ (only u).ready ∧ ledgersFull 3 u = false ∧
    (only k).ready ∧ workWaits 9 k = true := by
  intros
  and_intros <;> decide +kernel

/-- The other clauses of EnvelopeThrottlesAndWakes: a throttle neither hot nor cool, and no wake timer. -/
theorem test_EnvelopeThrottlesAndWakes_more :
    let d := withRegs [(Reg.TMP_NUMBER_NUMBER, 3000), (Reg.PWR_STATUS_EFF_ENV, 2300), (Reg.PWR_CTRL_ENVELOPE, 230),
      (Reg.PWR_THERM_THROTTLE, 105), (Reg.PWR_CTRL_THROTTLE_EN, 1), (Reg.PWR_LVL_TEMP 2, 103)] ({ pwr := { envelope := 4600 } } : Dev)
    let a : Dev := { ({} : Dev) with pwr.adj3 := true, pwr.adj3Sec := 100 }
    (only d).ready ∧ sensorAbove 105 d = false ∧ sensorsBelow 100 d = false ∧ a.pwr.adj3WakeS = 0 ∧ (only a).settled := by
  intros
  and_intros <;> decide +kernel

/-! ### Chapters 22 and 23 -/

/-- Hypotheses of RegistersFollowAccessCodes: SCR_CTRL, SCR_LOSS and FLT_STATUS as plain registers, an undefined offset, OIM in TEST. -/
theorem test_RegistersFollowAccessCodes :
    let d : Dev := {}
    let t := wr Reg.GLB_STATE_STATE 2 d
    let m : Dev := { d with flt.checkmateIn := some 1 }
    let o : Dev := { d with pwr.good := false }
    let plain (off : Nat) : Prop := mapped off = true ∧ asleep off d = false ∧ noPort off d = false ∧ inMsix off = false ∧ off ∉ ambientRegs
    (only d).settled ∧ endpointUp d = true ∧ d.flt.checkmateIn = none ∧ d.live = true ∧ mapped 0x500 = false ∧ plain 0x500000 ∧ plain 0x500020 ∧
    plain 0x400008 ∧ glbState d = 0 ∧ glbState t = 2 ∧ mapped 0x100000 = true ∧ servedInRecovery 0x100000 = false ∧
    (∃ f ∈ fieldsAt 0x500000, f.acc = .rw ∧ (⟨0x500000, f.msb, f.lsb⟩ : Field) ∉ ownRow ∧ legalValue f 500 = true ∧ legalValue f 0 = false) ∧
    (∃ f ∈ fieldsAt 0x400008, f.acc = .w1c ∧ (⟨0x400008, f.msb, f.lsb⟩ : Field) ∉ ownRow) ∧ (∃ f ∈ fieldsAt 0x500020, f.acc = .rc ∧ f.msb < 32) ∧
    endpointUp m = true ∧ m.flt.checkmateIn ≠ none ∧ endpointUp o = false := by
  intros
  and_intros <;> decide +kernel

/-- Hypotheses of ResetsAndMemoryCare. -/
theorem test_ResetsAndMemoryCare :
    let d := withRegs [(Reg.TMP_NUMBER_NUMBER, 3000), (Reg.DDR_CH_DIMMS 2, 1), (Reg.DDR_CH_STATE 2, 2), (Reg.DDR_CTRL_PATROL_EN, 1)] {}
    let g : Dev := { d with pwr.granted := [{ who := .ddr 2, cls := 6, cost := 60 }] }
    (only d).settled ∧ (only d).ready ∧ endpointUp d = true ∧ inTrouble d = false ∧ serviceCheckmate d = false ∧ tempoNow d % 1000 = 0 ∧
    rd (Reg.DDR_CH_DIMMS 2) d ≠ 0 ∧ rd (Reg.DDR_CH_DIMMS 3) d = 0 ∧ rdb Reg.DDR_CTRL_PATROL_EN d = true ∧ rd (Reg.DDR_CH_STATE 2) d = 2 ∧
    d.flt.inj = none ∧ ddrSymbols 0 = [] ∧ ddrSymbols 0x300 = [1] ∧ ddrSymbols 0x10300 = [1, 2] ∧ rd (Reg.DDR_ECC_CE 2) d + 1 < 2 ^ 32 ∧
    rd (Reg.DDR_ECC_UE 2) d + 1 < 2 ^ 16 ∧ (only d).checkRoom ∧ hasGrant (.ddr 2) 6 g = true ∧ hasGrant (.ddr 2) 6 d = false ∧
    d.pwr.waiting = [] := by
  intros
  and_intros <;> decide +kernel

/-- Hypotheses of SuppliesAndResetsTakeEffect. -/
theorem test_SuppliesAndResetsTakeEffect :
    let d : Dev := {}
    let o : Dev := { d with pwr.good := false }
    let m : Dev := { d with flt.checkmateIn := some 1 }
    let v : Dev := { d with pwr.vsb := true }
    (only d).settled ∧ (only o).settled ∧ o.pwr.good = false ∧ o.flt.checkmateIn = none ∧ { o with flt.checkmateIn := some 1 }.flt.checkmateIn ≠ none ∧
    d.pwr.good = true ∧ d.pwr.adj3 = false ∧ v.pwr.vsb = true ∧ d.pwr.vsb = false ∧ serviceCheckmate d = false ∧ inTrouble d = false ∧
    serviceCheckmate m = true ∧ inTrouble (wr Reg.PWR_STATUS_TT 1 d) = true ∧ { d with pwr.vin := false }.pwr.vin = false ∧ endpointUp d = true := by
  intros
  and_intros <;> decide +kernel

/-- The other clauses of ResetsAndMemoryCare: an edge that polls nothing, a channel not trained, no patrol, a refresh asked for already. -/
theorem test_ResetsAndMemoryCare_more :
    let d := withRegs [(Reg.TMP_NUMBER_NUMBER, 3001), (Reg.DDR_CH_DIMMS 2, 1), (Reg.DDR_CH_STATE 2, 2)] {}
    let w : Dev := { d with pwr.waiting := [{ who := .ddr 2, cls := 6, cost := 60 }] }
    (only d).ready ∧ tempoNow d % 1000 ≠ 0 ∧ rdb Reg.DDR_CTRL_PATROL_EN d = false ∧ rd (Reg.DDR_CH_STATE 3) d ≠ 2 ∧ (only w).ready ∧
    hasGrant (.ddr 2) 6 w = false ∧ w.pwr.waiting = [{ who := .ddr 2, cls := 6, cost := 60 }] ∧
    inTrouble (wr Reg.PWR_STATUS_TT 1 d) = true ∧ serviceCheckmate { d with flt.checkmateIn := some 1 } = true := by
  intros
  and_intros <;> decide +kernel

/-- The other clauses of SuppliesAndResetsTakeEffect: no power, ADJ3, a Checkmate outside SERVICE that a reset clears. -/
theorem test_SuppliesAndResetsTakeEffect_more :
    let a : Dev := { ({} : Dev) with pwr.adj3 := true }
    let m : Dev := { ({} : Dev) with flt.checkmateIn := some 0 }
    let o : Dev := { ({} : Dev) with pwr.good := false, sxc.ram.checkmate := true }
    (only a).settled ∧ a.pwr.adj3 = true ∧ endpointUp a = false ∧ (only m).settled ∧ serviceCheckmate m = false ∧ m.flt.checkmateIn.isSome = true ∧
    inTrouble m = false ∧ (only o).settled ∧ endpointUp o = false ∧ o.sxc.ram.checkmate = true ∧ o.flt.checkmateIn = none := by
  intros
  and_intros <;> decide +kernel

/-! ### Chapters 2 to 4 -/

def tempoDev (x : Tmp) : Dev := { withRegs [(Reg.GLB_STATE_STATE, 1), (Reg.TMP_CTRL_LOCK_THR, 100), (Reg.TMP_CTRL_PPS_WIDTH, 100), (Reg.TMP_STATUS_LOCK, 1),
    (Reg.TMP_NUMBER_NUMBER, 7000), (Reg.TMP_SET_SEC_SEC, 5), (Reg.TMP_SET_NS_NS, 2500)] {} with tmp := x }

/-- Hypotheses of TempoTimeCommands, TempoCommandsFrame, OffsetSamplesSetAndClearLock and EdgeAdvancesTempoNumber. -/
theorem test_TempoTimeCommands :
    let d := tempoDev { ppsOut := true, inRun := 15, outRun := 3, sec := 3 }
    let e := tempoDev { inRun := 14, outRun := 2, sec := 3, lastSample := 2900000000 }
    let u := wr Reg.TMP_STATUS_LOCK 0 d
    (only d).ready ∧ (only d).settled ∧ (only {}).ready ∧ glbState {} = 0 ∧ glbState d ≠ 0 ∧ d.tmp.atCyc ≤ 700 + 1 ∧ d.tmp.ppsOut = true ∧
    rd Reg.TMP_CTRL_PPS_WIDTH d ≤ 100 ∧ d.king.held = false ∧
    (100 : BitVec 32).toInt.natAbs ≤ rd Reg.TMP_CTRL_LOCK_THR d ∧ 15 ≤ d.tmp.inRun ∧ rd Reg.TMP_CTRL_LOCK_THR d < (-101 : BitVec 32).toInt.natAbs ∧
    3 ≤ d.tmp.outRun ∧ e.tmp.inRun < 15 ∧ e.tmp.outRun < 3 ∧ rd Reg.TMP_STATUS_LOCK d = 1 ∧ d.tmp.lastSample + 3000000000 ≤ nsAt 0 d ∧
    nsAt 0 e < e.tmp.lastSample + 3000000000 ∧ rd Reg.TMP_STATUS_LOCK u = 0 ∧ d.pwr.resetStaged = false := by
  intros
  and_intros <;> decide +kernel

/-- The transport runs at an edge divisible by 1,000 and by 16; `x` is tempo time's state. -/
def alignDev (m : Nat) (x : Tmp) : Dev := { wr Reg.TMP_STATUS_IS_MASTER m (wr Reg.TMP_STATUS_MASTER 1 (wr Reg.TMP_NUMBER_NUMBER 16000 (cdtDev { run15 with
    serials := [(1, some 77)] }))) with tmp := x }
def alignFrame (ty len : Nat) : CdtFrame := { port := 1, hdr := { type := ty, src := 1, len := len }, payload := leBytes len 3 }

/-- Hypotheses of BeaconsAndAlignment. -/
theorem test_BeaconsAndAlignment :
    let d := alignDev 0 { following := true, alReq := some 15995 }
    let m := alignDev 1 {}
    let u := { d with cdt.serials := [] }
    let l := alignDev 0 { alReq := some 15992 }
    (only d).ready ∧ (only m).ready ∧ rd Reg.CDT_CTRL_EN d = 1 ∧ tempoNow d % 1000 = 0 ∧ rd (Reg.CDT_PORT_ROLE 1) d ≠ 0 ∧ rd (Reg.CDT_PORT_UP 1) d = 1 ∧
    (alignFrame 0x10 32).crcOk = true ∧ (alignFrame 0x10 32).payload.length = 32 ∧ (only u).ready ∧ (only l).ready ∧ fld (alignFrame 0x10 32).payload 0 1 = 3 ∧ 3 ≠ ownDev d ∧
    tget none u.cdt.serials 3 = none ∧ pathPorts 1 d = 1 :: [] ∧ tempoNow d % 16 = 0 ∧ (alignFrame 0x11 12).payload.length = 12 ∧
    d.cdt.alien.contains (pathKey 1 1) = false ∧ rd Reg.TMP_STATUS_IS_MASTER m = 1 ∧ (alignFrame 0x12 36).payload.length = 36 ∧
    tempoNow d < 15995 + 8 ∧ 1 = rd Reg.TMP_STATUS_MASTER d ∧ l.tmp.alReq = some 15992 ∧ 15992 + 8 ≤ tempoNow l := by
  intros
  and_intros <;> decide +kernel

def xfer (port : Nat) (write : Bool) : Xfer := { port := port, write := write, qos := 1, addr := 0x10000040, order := 4 }
/-- One arbiter, target 5, with requests pending and grants open. -/
def arbDev (p g : List Xfer) : Dev := { withRegs [(Reg.GLB_STATE_STATE, 1), (Reg.FAB_CTRL_SCRUB_EN, 1), (Reg.TMP_NUMBER_NUMBER, 640),
    (Reg.FAB_CTRL_DEPTH_REQ, 4), (Reg.FAB_CTRL_DEPTH_GO, 4), (Reg.FAB_CTRL_DEPTH_DAT, 4), (Reg.FAB_CTRL_DEPTH_ACK, 4)] {} with
    fab := { arbs := [(5, { pending := p, grants := g, cut := [9] })] } }

/-- Hypotheses of ArbitersRequestGrantAndComplete. -/
theorem test_ArbitersRequestGrantAndComplete :
    let d := arbDev [xfer 7 true] [xfer 8 true]
    let r := arbDev [xfer 7 false] []
    (only d).ready ∧ (only r).ready ∧ rd Reg.FAB_INJ_ARM_ARM d = 0 ∧ d.flt.inj = none ∧ kingPort 7 = false ∧ wayFree (wayTo 7 5) 0 d ∧
    wayFree (wayBack 5 7) 1 d ∧ wayFree (wayBack 5 7) 2 r ∧ (∀ y ∈ (tget {} r.fab.arbs 5).grants, y.write = true) ∧ r.fab.flips = [] ∧
    kingPort 8 = false ∧ (xfer 8 true).line = false ∧ wayFree (wayTo 8 5) 2 d ∧ inSeal (xfer 8 true).addr 64 d = none ∧ (5 : Fin 61).val < 48 ∧
    ((tget {} d.fab.arbs 5).pending ++ (tget {} d.fab.arbs 5).grants).countP (fun x => x.port == 7) < 2 ∧
    (tget {} d.fab.arbs 5).grants.length < grantLimit 5 ∧ pickRequest (tget {} d.fab.arbs 5).pending = some (xfer 7 true) ∧
    pickRequest (tget {} r.fab.arbs 5).pending = some (xfer 7 false) ∧ inSeal (xfer 7 false).addr 64 r = none ∧ (List.replicate 64 (1 : Byte)).length = 64 ∧ openGrant 5 8 true d = some (xfer 8 true) := by
  intros
  and_intros <;> decide +kernel

/-- Hypotheses of CutOffsScrubAndLedgers. -/
theorem test_CutOffsScrubAndLedgers :
    let d := arbDev [] [xfer 8 true]
    let l := setLedger 3 1 { freshLedger 4 with resync := true, s := 6 } d
    (only d).ready ∧ (only d).checkRoom ∧ (only l).ready ∧ (only l).checkRoom ∧
    ((tget {} d.fab.arbs 5).grants.find? fun x => x.port == 8) = some (xfer 8 true) ∧
    9 ∈ (tget {} d.fab.arbs 5).cut ∧ rd Reg.FAB_CUT_LATE d < 65535 ∧ rd Reg.FAB_CTRL_SCRUB_EN d = 1 ∧ d.fab.flips = [] ∧ tempoNow d % 64 = 0 ∧
    (∀ p < 7, tget 0 d.fab.poolOut p = poolHeld p d ∧ poolHeld p d ≤ poolUnits p d) ∧ (∀ p < 32, missOcc p d ≤ missSlots p d) ∧
    (∃ p : Nat, p < 7 ∧ 0 < ((([1] : List Int))[p]?).getD 0) ∧ (∀ p : Nat, ((([] : List Int))[p]?).getD 0 = 0) ∧
    (getLedger 3 1 l).resync = true ∧ l.flt.inj = none := by
  intros
  and_intros <;> first | decide +kernel | (intro p; simp) | exact ⟨0, by decide⟩

/-- Engine 10 (cluster 1) runs a slice in machine mode with some registers; `g` adjusts it. -/
def engDev (rs : List (Nat × Nat)) (g : Engine → Engine) : Dev :=
  { withRegs [(Reg.GLB_STATE_STATE, 1), (Reg.FIU_CTRL_EN, 1), (Reg.TMP_NUMBER_NUMBER, 640), (Reg.CL_TQ_BASE_BASE 1 2, 0x10020000)] {} with
    engines := [(10, g { core := { pc := 0x10001000, x := rs.map fun p => (p.1, BitVec.ofNat 64 p.2) }, slice := some { id := 3 } })], pwr.envelope := 100 }

/-- Hypotheses of XqstoInstructionsRetire. -/
theorem test_XqstoInstructionsRetire :
    let q := engDev [(6, 0x170F), (7, 5)] id
    let p := engDev [(6, 0x10002000)] id
    let t := engDev [(6, 0x10005)] id
    let z := engDev [] id
    let f := engDev [(6, 0x170F), (7, 65)] id
    let w : Dev := { t with pwr.waiting := [{ who := .engine 10, cls := 1, cost := 5 }] }
    let e := engDev [(6, 0x10065)] id
    let k : Dev := wr Reg.GLB_STATE_STATE 1 {}
    (only q).ready ∧ (only p).ready ∧ (only t).ready ∧ (only z).ready ∧ coreKeeps 10 q ∧ mayRun 10 0 q ∧ mayRun 10 1 q ∧ mayRun 10 3 q ∧ mayRun 10 4 q ∧ mayRun 10 5 q ∧ mayRun 10 6 q ∧
    ((getCore 10 q).get 6).toNat % 16 = 15 ∧ ((getCore 10 q).get 6).toNat / 256 % 256 < 128 ∧
    (((getCore 10 q).get 7).toNat % 65536 + 65536 - (tget {} q.taskRings (((getCore 10 q).get 6).toNat / 256 % 256)).cons) % 65536 ≤ 64 ∧
    probeBlock ((getCore 10 p).get 6).toNat = some 0x10002000 ∧ fiuOn p = true ∧ probeBlock ((getCore 10 z).get 6).toNat = none ∧ ((getCore 10 z).get 6).toNat % 65536 = 0 ∧
    0 < ((getCore 10 t).get 6).toNat % 65536 ∧ ((getCore 10 t).get 6).toNat % 65536 ≤ t.pwr.envelope ∧ tokPending 10 t = false ∧
    1 ≤ ((getCore 10 t).get 6).toNat / 65536 % 16 ∧ ((getCore 10 t).get 6).toNat / 65536 % 16 ≤ 4 ∧
    64 < (((getCore 10 f).get 7).toNat % 65536 + 65536 - (tget {} f.taskRings (((getCore 10 f).get 6).toNat / 256 % 256)).cons) % 65536 ∧
    tokPending 10 w = true ∧ 0 < ((getCore 10 w).get 6).toNat % 65536 ∧ e.pwr.envelope < ((getCore 10 e).get 6).toNat % 65536 ∧
    tokPending 10 e = false ∧ (getEngine 10 q).slice = some { id := 3 } ∧ coreKeeps 64 k ∧ mayRun 64 0 k := by
  intros
  and_intros <;> decide +kernel

/-- Hypotheses of CompareAndSwap128 and UserModeNeedsPermission. -/
theorem test_CompareAndSwap128 :
    let d := engDev [(4, 1), (6, 0x20000010)] id
    let u := engDev [] fun g => { g with core := { g.core with user := true } }
    let c := engDev [(6, 0x10000010)] id
    (only d).ready ∧ (only c).ready ∧ (only u).ready ∧ d.fab.flips = [] ∧ coreKeeps 10 d ∧ mayRun 10 2 c ∧ place ((getCore 10 c).get 6).toNat 16 = some (.cached 0x10000010) ∧
    l2Find (clusterOf 10) 0x10000010 c = none ∧ pmpAllows (getCore 10 c) (getCore 10 c).dataUser 1 ((getCore 10 c).get 6).toNat 16 = true ∧
    mayRun 10 2 d ∧ ((getCore 10 d).get 6).toNat % 16 = 0 ∧
    place ((getCore 10 d).get 6).toNat 16 = some (.uncached 0x10000010) ∧
    pmpAllows (getCore 10 d) (getCore 10 d).dataUser 1 ((getCore 10 d).get 6).toNat 16 = true ∧ inSeal 0x10000010 16 d = none ∧
    coreRuns 10 u = true ∧ (getCore 10 u).user = true ∧ (getCore 10 u).pc < 2 ^ 64 ∧ bitOf ((getCore 10 u).csr 0x7C0) 0 = false ∧
    bitOf ((getCore 10 u).csr 0x7C0) 5 = false := by
  intros
  and_intros <;> decide +kernel

/-- Hypotheses of EnginesExecuteAndAccessMemory. -/
theorem test_EnginesExecuteAndAccessMemory :
    let d := engDev [(6, 41)] fun g => { g with l1i := [(0x10001000, [0x93, 0x02, 0x13, 0x00])] }
    let r := engDev [] fun g => { g with slice := none, resume := some ({ id := 4 }, { pc := 12 }) }
    let t : Dev := withMem [(0x10020000, leBytes 8 0x10001000 ++ leBytes 8 7 ++ leBytes 4 9 ++ [1])]
      { engDev [] (fun g => { g with slice := none }) with taskRings := [(21, { prod := 1 })] }
    (only d).ready ∧ (only r).ready ∧ (only t).ready ∧ coreRuns 10 d = true ∧ (getEngine 10 d).cutAddr = none ∧ rd (Reg.GLB_RDONE_UNIT (clusterOf 10)) d = 0 ∧
    (getCore 10 d).pc % 64 ≤ 60 ∧ (getCore 10 d).pc % 4 = 0 ∧ fetchable (getCore 10 d).pc 4 = true ∧ (getCore 10 d).user = false ∧
    pmpAllows (getCore 10 d) false 2 (getCore 10 d).pc 2 = true ∧ pmpAllows (getCore 10 d) false 2 ((getCore 10 d).pc + 2) 2 = true ∧
    ((tget [] (getL1i 10 d) ((getCore 10 d).pc / 64 * 64)).drop ((getCore 10 d).pc % 64)).take 4 = [0x93, 0x02, 0x13, 0x00] ∧
    place 0x20000008 8 = some (.uncached 0x10000008) ∧ inPool 0x10000008 = true ∧ inSeal 0x10000008 8 d = none ∧
    pmpAllows (getCore 10 d) (getCore 10 d).dataUser 0 0x20000008 8 = true ∧ pmpAllows (getCore 10 d) (getCore 10 d).dataUser 1 0x20000008 8 = true ∧
    poisoned 0x10000008 d = false ∧ d.fab.flips = [] ∧ 0x20000008 % 2 ^ (3 : Fin 4).val = 0 ∧
    (getEngine 10 r).slice = none ∧ engineUp 10 r = true ∧ (getEngine 10 r).deferred = false ∧ slicesHeld r = false ∧ (getEngine 10 t).slice = none ∧ engineUp 10 t = true ∧ (getEngine 10 t).deferred = false ∧
    (getEngine 10 r).resume = some ({ id := 4 }, { pc := 12 }) ∧ (getEngine 10 t).resume = none ∧ ringFull (2 * 10 + 1) t = true ∧
    taskOk (memRead t (taskAddr (2 * 10 + 1) (tget {} t.taskRings (2 * 10 + 1)).cons t) 32) = true := by
  intros
  and_intros <;> decide +kernel

/-- Hypotheses of KingPairResolvesMismatches. -/
theorem test_KingPairResolvesMismatches :
    let d : Dev := wr Reg.GLB_STATE_STATE 1 {}
    let h : Dev := { d with king := { held := true } }
    (only d).ready ∧ (only d).dcheckRoom ∧ rd Reg.CAS_CTRL_POL_KING d = 0 ∧ d.king.held = false ∧ rd Reg.GLB_KING_SPLIT d = 0 ∧
    (tget {} d.king.units 0).flagged = false ∧ (tget {} d.king.units 1).flagged = false ∧ (only h).ready ∧ (only h).dcheckRoom ∧ h.king.held = true ∧ (tget {} d.king.units 0).output = none := by
  intros
  and_intros <;> decide +kernel

/-- Cluster 2's L2 in a state, one dirty line of 0x10000040 in a way, and the registers of a range operation. -/
def l2Dev (st busy len lock : Nat) : Dev :=
  setLine 2 (l2Set 0x10000040) 5 { valid := true, tag := l2Tag 0x10000040, dirty := true, data := List.replicate 64 7 }
    (withRegs [(Reg.CL_STATUS_L2_STATE 2, st), (Reg.CL_CTRL_L2_EN 2, if st = 0 then 1 else 0), (Reg.CL_STATUS_RANGE_BUSY 2, busy), (Reg.CL_RANGE_BASE_BASE 2, 0x10000040),
      (Reg.CL_RANGE_LEN_LEN 2, len), (Reg.CL_L2_LOCK_MASK 2, lock), (Reg.CL_RANGE_OP_GO 2, busy)] {})

/-- Hypotheses of ClusterCacheOperations. -/
theorem test_ClusterCacheOperations :
    let d := l2Dev 0 0 64 8
    let p := wr (Reg.CL_RANGE_BASE_BASE 2) 0x10000080 d
    let b := l2Dev 0 1 64 0
    let s1 := l2Dev 1 0 64 0
    let s2 := l2Dev 2 0 64 0
    (only d).ready ∧ (only p).ready ∧ (only b).ready ∧ (only s1).ready ∧ (only s2).ready ∧ rd (Reg.CL_STATUS_RANGE_BUSY 2) d = 0 ∧ l2State 2 d = 0 ∧ rangeOk 2 0 d = true ∧ rangeOk 2 1 d = true ∧
    rangeLines 2 d = [0x10000040] ∧ l2Find 2 0x10000040 d = some 5 ∧
    (∀ v < 16, (getLine 2 (l2Set 0x10000040) v d).valid = true → (getLine 2 (l2Set 0x10000040) v d).tag = l2Tag 0x10000040 → v = 5) ∧
    rangeOk 2 2 p = true ∧ rangeLines 2 p = [0x10000080] ∧ wayLocked 2 3 p = true ∧ l2Find 2 0x10000080 p = none ∧
    rd (Reg.CL_STATUS_RANGE_BUSY 2) b = 1 ∧ (getL2 2 b).drainWaits = false ∧ l2State 2 s1 = 1 ∧ (getL2 2 s1).reenable = false ∧
    l2State 2 s2 = 2 := by
  intros
  and_intros <;> decide +kernel

/-! ### Single commands, their results by hand from the spec -/

/-- The device a command leaves behind. -/
def after (c : Instr) (d : Dev) : Dev := match exec c ⟨d, []⟩ with | .next t => t.dev | _ => {}

/-- Table 2.1's default period of 500 ns: 5.0000025 s are 10,000,005 tempi (R40). -/
theorem test_tempo_number : tempoNow (after (.tempoStep 0) (withRegs [(Reg.TMP_SET_SEC_SEC, 5), (Reg.TMP_SET_NS_NS, 2500)] {})) = 10000005 := by
  decide +kernel

/-- R59: an out-of-range FADJ is not taken; −500,000,000 is. -/
theorem test_fadj_bounds :
    rd Reg.TMP_FADJ_FADJ (after (.tmpFadjWrite 500000001 0) {}) = 0 ∧ rd Reg.TMP_FADJ_FADJ (after (.tmpFadjWrite (-500000000) 0) {}) = 3794967296 := by
  decide +kernel

/-- R134: 12 ways may be locked, 13 not. -/
theorem test_lock_mask :
    rd (Reg.CL_L2_LOCK_MASK 2) (after (.l2LockWrite 2 0xFFF) {}) = 0xFFF ∧ rd (Reg.CL_L2_LOCK_MASK 2) (after (.l2LockWrite 2 0x1FFF) {}) = 0 := by
  decide +kernel

/-- R10, R619: a register write of 500 to SCR_CTRL.WINDOW and 7 to FREEZE_MAX; a value outside a field's range leaves that field. -/
theorem test_register_write :
    let d := after (.registerWrite true 0x500000 8 (BitVec.ofNat 64 (7 * 2 ^ 48 + 500 * 2 ^ 16)) 0) {}
    rd Reg.SCR_CTRL_FREEZE_MAX d = 7 ∧ rd Reg.SCR_CTRL_WINDOW d = 500 := by
  decide +kernel

/-- R620: a write to an undefined offset changes nothing but GLB_ACCERR. -/
theorem test_register_unmapped :
    rd Reg.GLB_ACCERR_UNMAPPED (after (.registerWrite true 0x500 8 8 0) {}) = 1 ∧
    rd Reg.GLB_ACCERR_LAST_OFF (after (.registerWrite true 0x500 8 8 0) {}) = 0x500 := by
  decide +kernel

/-! ### The machine as a whole -/

/-- Hypotheses of EveryStepSettles: both invariants hold of a state with a command in front, and its step answers a next state. -/
theorem test_EveryStepSettles :
    let s : State := ⟨{}, [.glbTest true, .perstNAssert]⟩
    s.levelsShown ∧ s.settled ∧ (match step s with | .next t => decide (t.pending = [.perstNAssert]) | _ => false) = true := by
  intros
  and_intros <;> decide +kernel

/-- Hypotheses of ServiceCheckmateStands. -/
theorem test_ServiceCheckmateStands :
    let d : Dev := { wr Reg.GLB_STATE_STATE 1 {} with flt.checkmateIn := some 1 }
    (only d).settled ∧ d.flt.checkmateIn = some 1 ∧ d.pwr.adj3 = false ∧ Instr.perstNAssert ≠ .vinRemoved ∧
    ∀ p, Instr.perstNAssert ≠ .vsbPresenceChange p := by
  intros
  and_intros <;> decide +kernel

/-- Hypotheses of QuietCommandsKeepTheRest and MemoryStaysCanonical: a command of each list, and a byte of memory. -/
theorem test_QuietCommandsKeepTheRest :
    let d : Dev := { ({} : Dev) with mem := [(3, 7)] }
    (only d).settled ∧ memWf d.mem = true ∧ blocksTouched .plnClear = some [] ∧ blocksTouched (.digestSend) ≠ none ∧
    storesPlainly .cdtRead = true ∧ errorFree d ∧ (0x100000 / 0x100000 ∉ ([] : List Nat)) ∧ (0x100000 ∉ ambientRegs) := by
  intros
  and_intros <;> decide +kernel

/-- Hypotheses of StoresHaveFewWriters. -/
theorem test_StoresHaveFewWriters :
    (match exec .perstNAssert ⟨{}, []⟩ with | .next _ => true | _ => false) = true ∧ Instr.perstNAssert ≠ .claimSubmit ∧
    (∀ b, Instr.perstNAssert ≠ .startUp b) ∧ (∀ g, Instr.perstNAssert ≠ .bootRecordWrite g) ∧ (∀ g h, Instr.perstNAssert ≠ .ledgerRecordProgram g h) ∧
    (∀ g, Instr.perstNAssert ≠ .oimCommit g) ∧ Instr.perstNAssert ≠ .activationIdleDeadline ∧ resetsDevice .perstNAssert = false ∧
    writesL2 .perstNAssert = false ∧ writesTaskRing .perstNAssert = false ∧ writesStream .perstNAssert = false := by
  and_intros <;> first | decide +kernel | (intros; simp)

end Sys2Proof.Tests
end

/-!
PROOFS. O41 is refuted: its clause on packets of disagreeing length bounds ETH_DROPn.LEN by 2^32 - 1, where Table 5.16 gives the field 16 bits.
-/

namespace Sys2Proof.Proofs

open Sys2Proof Sys2Proof.Machine

/-- ETH_DROPn.LEN is bits 63 to 48 of its register (Table 5.16): no state shows a count of 65,536. -/
theorem ethDropLen_lt (port : Nat) (d : Dev) : rd (Reg.ETH_DROP_LEN port) d < 65536 := rd_lt (Reg.ETH_DROP_LEN port) d

/-- A table in force that admits peer 0 and has no unsound entry. -/
def admittingSpt : Spt := { peers := [(0, { valid := true })] }

/-- A head with replication, on cluster 7, whose port 0 has counted 65,535 drops: as many as ETH_DROP0.LEN can show. -/
def dropsFullDev : Dev :=
  wr (Reg.ETH_DROP_LEN 0) 65535 (wr (Reg.CL_CTRL_FUNCTION 7) 3 { ({} : Dev) with sxc.spt := some admittingSpt })

theorem dropsFullDev_ready : (State.mk dropsFullDev []).ready := by decide +kernel
theorem dropsFullDev_replOn : replOn dropsFullDev = true := by decide +kernel
theorem dropsFullDev_spt : dropsFullDev.sxc.spt = some admittingSpt := rfl
theorem dropsFullDev_dropLen : rd (Reg.ETH_DROP_LEN 0) dropsFullDev = 65535 := by decide +kernel

/-- Refutes O41: it asks that a packet of disagreeing length raise ETH_DROPn.LEN by one from any count below 2^32 - 1. From 65,535,
which a head reaches by dropping that many packets, this is 65,536, and the 16-bit field holds no such count. -/
theorem not_replicationEndsWork : ¬ Obligations.ReplicationEndsWork := by
  unfold Obligations.ReplicationEndsWork
  intro h
  obtain ⟨hpeer, -⟩ := h ⟨dropsFullDev, []⟩ 0 0 dropsFullDev_ready dropsFullDev_replOn
  obtain ⟨hpacket, -⟩ := hpeer admittingSpt { valid := true } dropsFullDev_spt rfl rfl rfl
  obtain ⟨hlength, -⟩ := hpacket 0 [] [] []
  obtain ⟨t, -, -, hcount⟩ := hlength false (.inl rfl)
  have hnext : rd (Reg.ETH_DROP_LEN 0) t.dev = rd (Reg.ETH_DROP_LEN 0) dropsFullDev + 1 :=
    hcount (by show rd (Reg.ETH_DROP_LEN 0) dropsFullDev < 2 ^ 32 - 1; rw [dropsFullDev_dropLen]; decide)
  have hlt := ethDropLen_lt 0 t.dev
  rw [hnext, dropsFullDev_dropLen] at hlt
  exact absurd hlt (by decide)

end Sys2Proof.Proofs

/-!
PROOFS. O11: one edge advances the tempo number and tempo time once. TMP_NUMBER and tempo time have one writer in an edge, `advanceClock`;
everything else that an edge runs, and the reactions that follow it, keeps them. One frame lemma for each function of the edge says so, in
the order of the model, so that each rests on those before it.
-/

namespace Sys2Proof.Proofs

open Sys2Proof Sys2Proof.Machine

/-! ### What is kept, and of which registers it says nothing -/

/-- The tempo number, and tempo time at the most recent edge (R41, R42): what one edge moves once. -/
def clock (d : Dev) : Nat × Nat × Nat := (tempoNow d, d.tmp.sec, d.tmp.ns)

/-- The field is not in TMP_NUMBER's register. -/
abbrev OffNumber (f : Field) : Prop := f.off ≠ Reg.TMP_NUMBER_NUMBER.off

/-! The lemmas of this part are tagged `simp ↓`: a nested update is peeled from the outside, before `simp` looks at its arguments. -/

@[simp ↓] theorem clock_mk (d : Dev) (mem free out intrSent pins flt scr pwr fab engines king l2s taskRings cas todo nv sxc fwu seals
    accels cmpStreams keys fiu front md stg lanes12 ftl outside oimCfg repl cdt) :
    clock (Dev.mk d.regs mem free out intrSent pins flt scr pwr d.tmp fab engines king l2s taskRings cas todo nv sxc fwu seals accels
      cmpStreams keys fiu front md stg lanes12 ftl outside oimCfg repl cdt) = clock d := by
  simp only [clock, tempoNow, rd]

@[simp ↓] theorem clock_mk_tmp (d : Dev) (mem free out intrSent pins flt scr pwr fab engines king l2s taskRings cas todo nv sxc fwu seals
    accels cmpStreams keys fiu front md stg lanes12 ftl outside oimCfg repl cdt)
    (atCyc atFs padjFs inRun outRun lastSample alIn alOut alMissed alReq periodBad following chosen powerUpSrc ppsOut beacons) :
    clock (Dev.mk d.regs mem free out intrSent pins flt scr pwr
      (Tmp.mk d.tmp.sec d.tmp.ns atCyc atFs padjFs inRun outRun lastSample alIn alOut alMissed alReq periodBad following chosen powerUpSrc
        ppsOut beacons)
      fab engines king l2s taskRings cas todo nv sxc fwu seals accels cmpStreams keys fiu front md stg lanes12 ftl outside oimCfg repl
      cdt) = clock d := by
  simp only [clock, tempoNow, rd]

@[simp ↓] theorem clock_ite (p : Prop) {_ : Decidable p} (d e : Dev) :
    clock (if p then d else e) = if p then clock d else clock e :=
  apply_ite clock p d e

@[simp ↓] theorem clock_ite_snd {α : Type} (p : Prop) {_ : Decidable p} (x y : α × Dev) :
    clock (if p then x else y).2 = if p then clock x.2 else clock y.2 := by
  split <;> rfl

theorem clock_of_ite {p : Prop} {_ : Decidable p} {d e g : Dev} (hd : clock d = clock g) (he : clock e = clock g) :
    clock (if p then d else e) = clock g := by
  split <;> assumption

theorem clock_snd {α : Type} {p : α × Dev} {a : α} {e : Dev} (h : p = (a, e)) : clock e = clock p.2 := by rw [h]

/-! ### Writes of registers, free values and loops -/

@[simp ↓] theorem clock_wr (f : Field) (v : Nat) (d : Dev) (h : OffNumber f) : clock (wr f v d) = clock d := by
  simp only [clock, tempoNow, rd_wr_off h.symm, wr_tmp]

@[simp ↓] theorem clock_setb (f : Field) (d : Dev) (h : OffNumber f) : clock (setb f d) = clock d := clock_wr f _ d h

@[simp ↓] theorem clock_clr (f : Field) (d : Dev) (h : OffNumber f) : clock (clr f d) = clock d := clock_wr f _ d h

@[simp ↓] theorem clock_drawNat (n : Nat) (d : Dev) : clock (drawNat n d).2 = clock d := by simp [drawNat]

@[simp ↓] theorem clock_drawBytes (n : Nat) (d : Dev) : clock (drawBytes n d).2 = clock d := by simp [drawBytes]

@[simp ↓] theorem clock_pickFree (l : List Nat) (d : Dev) : clock (pickFree l d).2 = clock d := by
  unfold pickFree
  split <;> simp

@[simp ↓] theorem clock_bumpBy (f : Field) (n : Nat) (d : Dev) (h : OffNumber f) : clock (bumpBy f n d) = clock d := by
  simp [bumpBy, h]

@[simp ↓] theorem clock_bump (f : Field) (d : Dev) (h : OffNumber f) : clock (bump f d) = clock d := clock_bumpBy f 1 d h

@[simp ↓] theorem clock_bumpSat (f : Field) (n : Nat) (d : Dev) (h : OffNumber f) : clock (bumpSat f n d) = clock d := clock_wr f _ d h

@[simp ↓] theorem clock_setBit (f : Field) (n : Nat) (d : Dev) (h : OffNumber f) : clock (setBit f n d) = clock d := by
  simp [setBit, h]

@[simp ↓] theorem clock_clrBit (f : Field) (n : Nat) (d : Dev) (h : OffNumber f) : clock (clrBit f n d) = clock d := by
  simp [clrBit, h]

@[simp ↓] theorem clock_wrReg (o : Nat) (w : Word) (d : Dev) (h : o ≠ Reg.TMP_NUMBER_NUMBER.off) : clock (wrReg o w d) = clock d := by
  simp [clock, wrReg, tempoNow, rd, tget_tset_ne (j := Reg.TMP_NUMBER_NUMBER.off) h.symm]

@[simp ↓] theorem clock_forEach (l : List Nat) (f : Nat → Dev → Dev) (d : Dev) (h : ∀ n e, clock (f n e) = clock e) :
    clock (forEach l f d) = clock d := forEach_keeps clock f h l d

theorem clock_foldl_of_mem {α : Type} (l : List α) (f : Dev → α → Dev) (d : Dev) (h : ∀ a ∈ l, ∀ e, clock (f e a) = clock e) :
    clock (l.foldl f d) = clock d := by
  induction l generalizing d with
  | nil => rfl
  | cons a r ih => exact (ih _ fun b hb => h b (List.mem_cons_of_mem a hb)).trans (h a List.mem_cons_self d)

@[simp ↓] theorem clock_foldl {α : Type} (l : List α) (f : Dev → α → Dev) (d : Dev) (h : ∀ e a, clock (f e a) = clock e) :
    clock (l.foldl f d) = clock d := clock_foldl_of_mem l f d fun a _ e => h e a

@[simp ↓] theorem clock_foldl_snd {α β : Type} (l : List α) (f : β × Dev → α → β × Dev) (p : β × Dev)
    (h : ∀ q a, clock (f q a).2 = clock q.2) : clock (l.foldl f p).2 = clock p.2 := by
  induction l generalizing p with
  | nil => rfl
  | cons a r ih => exact (ih _).trans (h p a)

/-! ### The registers that an edge and its reactions write are none of TMP_NUMBER, block by block -/

@[simp] theorem scrRegs_offNumber :
    OffNumber Reg.SCR_PTR_VIDX ∧ OffNumber Reg.SCR_SEQ_NEXT ∧ OffNumber Reg.SCR_STATUS_PLOST ∧ OffNumber Reg.SCR_LOSS_PLOST ∧
    OffNumber Reg.SCR_STATUS_LOST ∧ OffNumber Reg.SCR_LOSS_LOST ∧ OffNumber Reg.SCR_STATUS_HOLD ∧ OffNumber Reg.SCR_CTRL_FREEZE ∧
    OffNumber Reg.SCR_STATUS_FROZEN := by decide

@[simp] theorem fltRegs_offNumber :
    OffNumber Reg.FLT_CNT_NOTICES ∧ OffNumber Reg.FLT_CNT_DCHECKS ∧ OffNumber Reg.FLT_STATUS_DCHK_FULL ∧
    OffNumber Reg.FLT_STATUS_DCHK_OPEN ∧ OffNumber Reg.FLT_STATUS_CHK_OPEN ∧ OffNumber Reg.FLT_STATUS_ESC ∧
    OffNumber Reg.FLT_CNT_CHECKS ∧ OffNumber Reg.FLT_STATUS_CHK_FULL ∧ OffNumber Reg.FLT_STATUS_CHECKMATE ∧
    OffNumber Reg.FLT_INJ_ARM := by decide

@[simp] theorem fltIndexedRegs_offNumber (n : Nat) :
    OffNumber (Reg.FLT_DCHK_RECUR n) ∧ OffNumber (Reg.FLT_DCHK_CODE n) ∧ OffNumber (Reg.FLT_DCHK_UNIT n) ∧
    OffNumber (Reg.FLT_DCHK_ESCALATED n) ∧ OffNumber (Reg.FLT_DCHK_T_RAISED n) ∧ OffNumber (Reg.FLT_DCHK_OPEN n) ∧
    OffNumber (Reg.FLT_CHK_OPEN n) ∧ OffNumber (Reg.FLT_CHK_CODE n) ∧ OffNumber (Reg.FLT_CHK_UNIT n) ∧
    OffNumber (Reg.FLT_CHK_RECUR n) ∧ OffNumber (Reg.FLT_CHK_T_RAISED n) := by
  simp only [OffNumber, Reg.TMP_NUMBER_NUMBER, Reg.FLT_DCHK_RECUR, Reg.FLT_DCHK_CODE, Reg.FLT_DCHK_UNIT, Reg.FLT_DCHK_ESCALATED,
    Reg.FLT_DCHK_T_RAISED, Reg.FLT_DCHK_OPEN, Reg.FLT_CHK_OPEN, Reg.FLT_CHK_CODE, Reg.FLT_CHK_UNIT, Reg.FLT_CHK_RECUR,
    Reg.FLT_CHK_T_RAISED]
  omega

@[simp] theorem glbRegs_offNumber :
    OffNumber Reg.GLB_INTR_STAT_LEVEL ∧ OffNumber Reg.GLB_STATE_STATE ∧ OffNumber Reg.GLB_STATE_RCAUSE ∧
    OffNumber Reg.GLB_STATE_CMD_RES := by decide

@[simp] theorem fabRegs_offNumber :
    OffNumber Reg.FAB_INJ_ARM_ARM ∧ OffNumber Reg.FAB_STATUS_RESYNC_BUSY ∧ OffNumber Reg.FAB_STATUS_PAIRED_CHK ∧
    OffNumber Reg.FAB_AUDIT_MISMATCHES ∧ OffNumber Reg.FAB_AUDIT_LAST_UNIT ∧ OffNumber Reg.FAB_AUDIT_LAST_CLASS ∧
    OffNumber Reg.FAB_AUDIT_LAST_TEST ∧ OffNumber Reg.FAB_CONS_CREDIT ∧ OffNumber Reg.FAB_STATUS_CREDIT_CHK ∧
    OffNumber Reg.FAB_XING_REGION_A ∧ OffNumber Reg.FAB_XING_REGION_B ∧ OffNumber Reg.FAB_XING_CAUSE ∧
    OffNumber Reg.FAB_XING_DV ∧ OffNumber Reg.FAB_STATUS_XING_CHK ∧ OffNumber Reg.FAB_XING_CHECKS ∧
    OffNumber Reg.FAB_CONS_TOKEN ∧ OffNumber Reg.FAB_CONS_CMD ∧ OffNumber Reg.FAB_CONS_CDT := by decide

@[simp] theorem cipRegs_offNumber :
    OffNumber Reg.CIP_STATUS_SEAL_N ∧ OffNumber Reg.CIP_SEAL_VIOL ∧ OffNumber Reg.CIP_SEAL_MAP ∧ OffNumber Reg.CIP_PREEMPT_HELD ∧
    OffNumber Reg.CIP_STATUS_KPAIRED ∧ OffNumber Reg.CIP_PREEMPT_PREEMPTS := by decide

@[simp] theorem sxcRegs_offNumber :
    OffNumber Reg.SXC_STATUS_PAIRED_CHK ∧ OffNumber Reg.SXC_SPT_VER_VERSION ∧ OffNumber Reg.SXC_STATUS_CLAIMED ∧
    OffNumber Reg.SXC_STATUS_DEBUG ∧ OffNumber Reg.SXC_STATUS_CLAIMS ∧ OffNumber Reg.SXC_MOVE_ST_STAGED ∧
    OffNumber Reg.SXC_STATUS_MOVE_N ∧ OffNumber Reg.SXC_CHAL_CTRL_AGE := by decide

@[simp] theorem sxcIndexed2Regs_offNumber (n j : Nat) :
    OffNumber (Reg.SXC_MR_WORD n j) := by
  simp only [OffNumber, Reg.TMP_NUMBER_NUMBER, Reg.SXC_MR_WORD]
  omega

@[simp] theorem fiuRegs_offNumber :
    OffNumber Reg.FIU_PIN_RETIRING ∧ OffNumber Reg.FIU_POP_POPULATION ∧ OffNumber Reg.FIU_LIMIT_LIMIT ∧
    OffNumber Reg.FIU_STATUS_SAMPLING ∧ OffNumber Reg.FIU_STATUS_REBUILDING ∧ OffNumber Reg.FIU_OWN_VER_VERSION ∧
    OffNumber Reg.FIU_OWN_APPLY_TEMPO ∧ OffNumber Reg.FIU_PIN_DROPS ∧ OffNumber Reg.FIU_CTRL_SAMPLE_MASK := by decide

@[simp] theorem ersRegs_offNumber :
    OffNumber Reg.ERS_LOSS_CUR_COUNT ∧ OffNumber Reg.ERS_LOSS_OVERFLOW ∧ OffNumber Reg.ERS_STATUS_UNBAL_N ∧
    OffNumber Reg.ERS_RB_ST_PHASE ∧ OffNumber Reg.ERS_RB_ST_SEGS_LEFT ∧ OffNumber Reg.ERS_STATUS_REBUILDING ∧
    OffNumber Reg.ERS_LOSS_LOST ∧ OffNumber Reg.ERS_RB_ROWS_DONE ∧ OffNumber Reg.ERS_RB_ST_MEMBER ∧
    OffNumber Reg.ERS_STATUS_MEMBER_CHK := by decide

@[simp] theorem ersIndexedRegs_offNumber (n : Nat) :
    OffNumber (Reg.ERS_LOSS_DATA_BYTES n) ∧ OffNumber (Reg.ERS_LAYOUT_LINES n) ∧ OffNumber (Reg.ERS_LAYOUT_SEED n) ∧
    OffNumber (Reg.ERS_LAYOUT_GEN n) ∧ OffNumber (Reg.ERS_LAYOUT_FILE_CAP n) ∧ OffNumber (Reg.ERS_LAYOUT_W n) ∧
    OffNumber (Reg.ERS_LAYOUT_MEMBERS n) ∧ OffNumber (Reg.ERS_LAYOUT_BALANCED n) := by
  simp only [OffNumber, Reg.TMP_NUMBER_NUMBER, Reg.ERS_LOSS_DATA_BYTES, Reg.ERS_LAYOUT_LINES, Reg.ERS_LAYOUT_SEED, Reg.ERS_LAYOUT_GEN,
    Reg.ERS_LAYOUT_FILE_CAP, Reg.ERS_LAYOUT_W, Reg.ERS_LAYOUT_MEMBERS, Reg.ERS_LAYOUT_BALANCED]
  omega

@[simp] theorem mdlRegs_offNumber :
    OffNumber Reg.MDL_FT_CNT_MOVED ∧ OffNumber Reg.MDL_INJ_ARM ∧ OffNumber Reg.MDL_STATUS_PRESENCE ∧
    OffNumber Reg.MDL_PRESENT_LANES ∧ OffNumber Reg.MDL_STATUS_LINK_CHK ∧ OffNumber Reg.MDL_STATUS_PAIRED_CHK ∧
    OffNumber Reg.MDL_FT_STATUS_CRIT ∧ OffNumber Reg.MDL_FT_CNT_RETIRED ∧ OffNumber Reg.MDL_FT_STATUS_MEMBER_WEAR ∧
    OffNumber Reg.MDL_FT_CNT_SEGS ∧ OffNumber Reg.MDL_STATUS_GEOMETRY_N := by decide

@[simp] theorem mdlIndexedRegs_offNumber (n : Nat) :
    OffNumber (Reg.MDL_LANE_PLN_IN n) ∧ OffNumber (Reg.MDL_LANE_STATE n) ∧ OffNumber (Reg.MDL_FENCE_WORD n) ∧
    OffNumber (Reg.MDL_FT_POOL_TOTAL n) ∧ OffNumber (Reg.MDL_FT_POOL_FREE n) ∧ OffNumber (Reg.MDL_TEMP_TEMP n) := by
  simp only [OffNumber, Reg.TMP_NUMBER_NUMBER, Reg.MDL_LANE_PLN_IN, Reg.MDL_LANE_STATE, Reg.MDL_FENCE_WORD, Reg.MDL_FT_POOL_TOTAL,
    Reg.MDL_FT_POOL_FREE, Reg.MDL_TEMP_TEMP]
  omega

@[simp] theorem ethIndexedRegs_offNumber (n : Nat) :
    OffNumber (Reg.ETH_LINK_PAUSED n) ∧ OffNumber (Reg.ETH_LINK_UP n) := by
  simp only [OffNumber, Reg.TMP_NUMBER_NUMBER, Reg.ETH_LINK_PAUSED, Reg.ETH_LINK_UP]
  omega

@[simp] theorem nvfRegs_offNumber :
    OffNumber Reg.NVF_CMD_TERM_TERMINAL ∧ OffNumber Reg.NVF_CMD_OUT_OUTSTANDING ∧ OffNumber Reg.NVF_CTX_OPEN ∧
    OffNumber Reg.NVF_CTX_RESIDENT ∧ OffNumber Reg.NVF_PI_GUARD ∧ OffNumber Reg.NVF_PI_APP ∧ OffNumber Reg.NVF_PI_REF ∧
    OffNumber Reg.NVF_CMD_ACC_ACCEPTED ∧ OffNumber Reg.NVF_REP_CFG_RPO ∧ OffNumber Reg.NVF_REP_CFG_INTERVAL ∧
    OffNumber Reg.NVF_REP_CFG_ANCHOR ∧ OffNumber Reg.NVF_REP_CFG_REPAIR_TMO ∧ OffNumber Reg.NVF_REP_CFG_THROTTLE ∧
    OffNumber Reg.NVF_REP_ST_STATE ∧ OffNumber Reg.NVF_REP_ST_ROLE ∧ OffNumber Reg.NVF_REP_ST_MODE ∧
    OffNumber Reg.NVF_REP_ST_LAG ∧ OffNumber Reg.NVF_SNAP_CMD_GO ∧ OffNumber Reg.NVF_SNAP_RES_BUSY ∧
    OffNumber Reg.NVF_SNAP_RES_RESULT ∧ OffNumber Reg.NVF_SNAP_RES_VALUE ∧ OffNumber Reg.NVF_CTRL_FABRIC_FWDL ∧
    OffNumber Reg.NVF_STATUS_CMD_CHK := by decide

@[simp] theorem nvfIndexedRegs_offNumber (n : Nat) :
    OffNumber (Reg.NVF_MISS_OCC n) ∧ OffNumber (Reg.NVF_MISS_HIGH n) := by
  simp only [OffNumber, Reg.TMP_NUMBER_NUMBER, Reg.NVF_MISS_OCC, Reg.NVF_MISS_HIGH]
  omega

@[simp] theorem fwuRegs_offNumber :
    OffNumber Reg.FWU_STATUS_BUF_BUSY ∧ OffNumber Reg.FWU_BUF_OWNER ∧ OffNumber Reg.FWU_BUF_BYTES ∧
    OffNumber Reg.FWU_STATUS_ACT_BUSY ∧ OffNumber Reg.FWU_FLOOR_FLOOR := by decide

@[simp] theorem casRegs_offNumber :
    OffNumber Reg.CAS_STATUS_SELF ∧ OffNumber Reg.CAS_ADOPT_SLOTS ∧ OffNumber Reg.CAS_ADOPT_CMDS ∧
    OffNumber Reg.CAS_ANA_STG0_OWN ∧ OffNumber Reg.CAS_ANA_STG1_OWN ∧ OffNumber Reg.CAS_ANA_APPLY_TEMPO ∧
    OffNumber Reg.CAS_LAST_WON ∧ OffNumber Reg.CAS_LAST_MEMBERS ∧ OffNumber Reg.CAS_STATUS_PEER ∧
    OffNumber Reg.CAS_STATUS_LOST_RACE ∧ OffNumber Reg.CAS_STATUS_NO_MAJ ∧ OffNumber Reg.CAS_STATUS_LAST_CAUSE ∧
    OffNumber Reg.CAS_LAST_EDGE ∧ OffNumber Reg.CAS_DIG_WINDOWS ∧ OffNumber Reg.CAS_DIG_LAST_GROUP ∧
    OffNumber Reg.CAS_DIG_MISMATCH ∧ OffNumber Reg.CAS_STATUS_DIGEST_CHK ∧ OffNumber Reg.CAS_STATUS_CASTLED ∧
    OffNumber Reg.CAS_LAST_MS ∧ OffNumber Reg.CAS_ANA_OWN0_OWN ∧ OffNumber Reg.CAS_ANA_OWN1_OWN := by decide

@[simp] theorem cdtRegs_offNumber :
    OffNumber Reg.CDT_STATUS_PEER_LOST ∧ OffNumber Reg.CDT_STATUS_PEER_NEW ∧ OffNumber Reg.CDT_INJ_ARM ∧
    OffNumber Reg.CDT_OUT_COUNT ∧ OffNumber Reg.CDT_SENT_COUNT ∧ OffNumber Reg.CDT_ACKED_COUNT ∧ OffNumber Reg.CDT_FAILED_COUNT ∧
    OffNumber Reg.CDT_FAILR_LINK_DOWN ∧ OffNumber Reg.CDT_FAILR_RETRY ∧ OffNumber Reg.CDT_FAILR_AGE ∧
    OffNumber Reg.CDT_FAILR_NAK ∧ OffNumber Reg.CDT_WREVOKE_ST_PENDING ∧ OffNumber Reg.CDT_STATUS_REVOKED ∧
    OffNumber Reg.CDT_WREVOKE_ST_DONE ∧ OffNumber Reg.CDT_WREVOKE_ST_LAST ∧ OffNumber Reg.CDT_WREVOKE_ST_EDGE := by decide

@[simp] theorem cdtIndexedRegs_offNumber (n : Nat) :
    OffNumber (Reg.CDT_PORT_PATHS n) ∧ OffNumber (Reg.CDT_RPTR_CONS n) ∧ OffNumber (Reg.CDT_PORT_UP n) := by
  simp only [OffNumber, Reg.TMP_NUMBER_NUMBER, Reg.CDT_PORT_PATHS, Reg.CDT_RPTR_CONS, Reg.CDT_PORT_UP]
  omega

@[simp] theorem tmpRegs_offNumber :
    OffNumber Reg.TMP_STATUS_TIME_SRC ∧ OffNumber Reg.TMP_PADJ_PADJ ∧ OffNumber Reg.TMP_OVR_LAST_UNIT ∧
    OffNumber Reg.TMP_OVR_COUNT ∧ OffNumber Reg.TMP_STATUS_MASTER ∧ OffNumber Reg.TMP_ALIGN_OFS ∧
    OffNumber Reg.TMP_STATUS_ALIGNED ∧ OffNumber Reg.TMP_STATUS_IS_MASTER ∧ OffNumber Reg.TMP_STATUS_PERIOD_CHK := by decide

@[simp] theorem pwrRegs_offNumber :
    OffNumber Reg.PWR_STATUS_REFUSED ∧ OffNumber Reg.PWR_ADJ_GO ∧ OffNumber Reg.PWR_STATUS_THROTTLE ∧
    OffNumber Reg.PWR_PF_VIN_MV ∧ OffNumber Reg.PWR_THERM_HOT ∧ OffNumber Reg.PWR_THERM_TMAX ∧ OffNumber Reg.PWR_STATUS_WARN_N ∧
    OffNumber Reg.PWR_STATUS_ENV_HELD ∧ OffNumber Reg.PWR_STATUS_EFF_ENV ∧ OffNumber Reg.PWR_STATUS_TOKEN_CHK ∧
    OffNumber Reg.PWR_STATUS_PAIRED_CHK ∧ OffNumber Reg.PWR_TOKCNT_GRANTS ∧ OffNumber Reg.PWR_TOKCNT_WAITS ∧
    OffNumber Reg.PWR_TOK_GRANTED ∧ OffNumber Reg.PWR_TOK_BASE ∧ OffNumber Reg.PWR_TOK_HOLDS ∧
    OffNumber Reg.PWR_TOK_LEAST := by decide

@[simp] theorem pwrIndexedRegs_offNumber (n : Nat) :
    OffNumber (Reg.PWR_REF_CAUSE n) ∧ OffNumber (Reg.PWR_REF_KIND n) ∧ OffNumber (Reg.PWR_REF_WHO n) ∧
    OffNumber (Reg.PWR_REF_COUNT n) ∧ OffNumber (Reg.PWR_LVL_LVL n) ∧ OffNumber (Reg.PWR_LVL_ASTATE n) ∧
    OffNumber (Reg.PWR_LVL_TEMP n) ∧ OffNumber (Reg.PWR_LVL_MV n) := by
  simp only [OffNumber, Reg.TMP_NUMBER_NUMBER, Reg.PWR_REF_CAUSE, Reg.PWR_REF_KIND, Reg.PWR_REF_WHO, Reg.PWR_REF_COUNT, Reg.PWR_LVL_LVL,
    Reg.PWR_LVL_ASTATE, Reg.PWR_LVL_TEMP, Reg.PWR_LVL_MV]
  omega

@[simp] theorem accRegs_offNumber (k : Nat) :
    OffNumber (accBusy k) ∧ OffNumber (accQuar k) ∧ OffNumber (accJobs k) := by
  refine ⟨?_, ?_, ?_⟩
  · unfold accBusy; split <;> decide
  · unfold accQuar; split <;> decide
  · unfold accJobs; split <;> decide

@[simp] theorem accCons_offNumber (k r : Nat) : OffNumber (accCons k r) := by
  unfold accCons
  simp only [OffNumber, Reg.TMP_NUMBER_NUMBER, Reg.CIP_RPTR_CONS, Reg.CMP_RPTR_CONS, Reg.ERS_RPTR_CONS, Reg.DIG_RPTR_CONS]
  split <;> dsimp only <;> omega

@[simp] theorem engStateField_offNumber (e : Nat) : OffNumber (engStateField e) := by
  simp only [engStateField, Reg.CL_ENG_STATE_STATE, OffNumber, Reg.TMP_NUMBER_NUMBER]
  omega
@[simp] theorem kinfo_offNumber (n : Nat) : OffNumber (Reg.CIP_KINFO_KIND n) := by
  simp only [OffNumber, Reg.TMP_NUMBER_NUMBER, Reg.CIP_KINFO_KIND]
  omega
theorem fiuOwn_offNumber (n j : Nat) : OffNumber (Reg.FIU_OWN_OWNER n j) := by
  simp only [OffNumber, Reg.TMP_NUMBER_NUMBER, Reg.FIU_OWN_OWNER]
  omega
@[simp] theorem msixPba_offNumber : OffNumber msixPba := by decide

/-! ### Free values, choices and outputs -/

@[simp ↓] theorem clock_send (o : Out) (d : Dev) : clock (send o d) = clock d := by
  dsimp only [send]
  simp

@[simp ↓] theorem clock_sendAll (l : List Out) (d : Dev) : clock (sendAll l d) = clock d := by
  dsimp only [sendAll]
  simp

/-! ### Memory: the pool and DRAM (R99) -/

@[simp ↓] theorem clock_memSetByte (a : Nat) (b : Byte) (d : Dev) : clock (memSetByte a b d) = clock d := by
  dsimp only [memSetByte]
  simp

@[simp ↓] theorem clock_memWrite (a : Nat) (l : Bytes) (d : Dev) : clock (memWrite a l d) = clock d := by
  simp [clock, tempoNow, rd]

/-! ### Records -/

@[simp ↓] theorem clock_writeRecord (r : ScoreRecord) (d : Dev) : clock (writeRecord r d) = clock d := by
  dsimp only [writeRecord]
  simp

@[simp ↓] theorem clock_countLost (d : Dev) : clock (countLost d) = clock d := by
  dsimp only [countLost]
  simp

@[simp ↓] theorem clock_holdRecord (r : ScoreRecord) (d : Dev) : clock (holdRecord r d) = clock d := by
  dsimp only [holdRecord]
  simp
  split <;> simp

@[simp ↓] theorem clock_endFreeze (d : Dev) : clock (endFreeze d) = clock d := by
  dsimp only [endFreeze]
  simp

@[simp ↓] theorem clock_recordEvent (cls : EvClass) (code unit data0 data1 : Nat) (escalated : Bool) (d : Dev) :
    clock (recordEvent cls code unit data0 data1 escalated d) = clock d := by
  dsimp only [recordEvent]
  simp

/-! ### The four classes -/

@[simp ↓] theorem clock_notice (code unit data0 data1 : Nat) (d : Dev) : clock (notice code unit data0 data1 d) = clock d := by
  dsimp only [notice]
  simp

@[simp ↓] theorem clock_raiseD (code unit data0 data1 : Nat) (escalated : Bool) (d : Dev) :
    clock (raiseD code unit data0 data1 escalated d) = clock d := by
  dsimp only [raiseD]
  simp
  split
  · simp
  · split <;> simp [clock_snd ‹pickFree _ _ = _›]

@[simp ↓] theorem clock_closeChk (k : Nat) (d : Dev) : clock (closeChk k d) = clock d := by
  dsimp only [closeChk]
  simp

@[simp ↓] theorem clock_openData (code : Nat) (d : Dev) : clock (openData code d).2.2 = clock d := by
  dsimp only [openData]
  split <;> simp

@[simp ↓] theorem clock_escalateChk (k : Nat) (d : Dev) : clock (escalateChk k d) = clock d := by
  dsimp only [escalateChk]
  simp

@[simp ↓] theorem clock_openChk (k code unit : Nat) (d : Dev) : clock (openChk k code unit d) = clock d := by
  dsimp only [openChk]
  simp

@[simp ↓] theorem clock_raiseC (code unit data0 data1 : Nat) (d : Dev) : clock (raiseC code unit data0 data1 d) = clock d := by
  dsimp only [raiseC]
  simp
  split
  · simp
  · split <;> simp [clock_snd ‹pickFree _ _ = _›]

@[simp ↓] theorem clock_checkmate (code unit data0 data1 : Nat) (d : Dev) : clock (checkmate code unit data0 data1 d) = clock d := by
  dsimp only [checkmate]
  simp

/-! ### Paired values (R554, R591) -/

@[simp ↓] theorem clock_mkPaired (w cls v : Nat) (d : Dev) : clock (mkPaired w cls v d).2 = clock d := by
  dsimp only [mkPaired]
  split <;> simp

/-! ### Interrupts (R625–R627) -/

@[simp ↓] theorem clock_msixSend (v : Nat) (d : Dev) : clock (msixSend v d) = clock d := by
  dsimp only [msixSend]
  simp

@[simp ↓] theorem clock_settle (d : Dev) : clock (settle d) = clock d := by
  dsimp only [settle]
  simp

/-! ### Stores -/

@[simp ↓] theorem clock_injectStore (addr len : Nat) (d : Dev) : clock (injectStore addr len d) = clock d := by
  dsimp only [injectStore]
  simp
  split <;> simp

@[simp ↓] theorem clock_storeMem (addr : Nat) (b : Bytes) (d : Dev) : clock (storeMem addr b d) = clock d := by
  dsimp only [storeMem]
  simp

@[simp ↓] theorem clock_storeNat (addr n v : Nat) (d : Dev) : clock (storeNat addr n v d) = clock d := by
  dsimp only [storeNat]
  simp

/-! ### Requests and holds of tokens -/

@[simp ↓] theorem clock_postReq (q : TokReq) (d : Dev) : clock (postReq q d) = clock d := by
  dsimp only [postReq]
  simp

@[simp ↓] theorem clock_endHold (who : TokWho) (cls : Nat) (d : Dev) : clock (endHold who cls d) = clock d := by
  dsimp only [endHold]
  simp

/-! ### Seals -/

@[simp ↓] theorem clock_sealViolation (k addr : Nat) (d : Dev) : clock (sealViolation k addr d) = clock d := by
  dsimp only [sealViolation]
  simp

@[simp ↓] theorem clock_showSeals (d : Dev) : clock (showSeals d) = clock d := by
  dsimp only [showSeals]
  simp

@[simp ↓] theorem clock_takeSeal (base len lane : Nat) (d : Dev) : clock (takeSeal base len lane d).2 = clock d := by
  dsimp only [takeSeal]
  split <;> simp

@[simp ↓] theorem clock_dropSeal (k : Nat) (zero : Bool) (d : Dev) : clock (dropSeal k zero d) = clock d := by
  dsimp only [dropSeal]
  simp

/-! ### Lanes, rings and descriptors -/

@[simp ↓] theorem clock_modAccel (k : Nat) (f : Accel → Accel) (d : Dev) : clock (modAccel k f d) = clock d := by
  dsimp only [modAccel]
  simp

@[simp ↓] theorem clock_modLane (k n : Nat) (f : Lane → Lane) (d : Dev) : clock (modLane k n f d) = clock d := by
  dsimp only [modLane]
  simp

@[simp ↓] theorem clock_showBusy (k : Nat) (d : Dev) : clock (showBusy k d) = clock d := by
  dsimp only [showBusy]
  simp

@[simp ↓] theorem clock_sealFor (k n r i : Nat) (d : Dev) : clock (sealFor k n r i d) = clock d := by
  dsimp only [sealFor]
  simp

@[simp ↓] theorem clock_takeJob (k n : Nat) (d : Dev) : clock (takeJob k n d) = clock d := by
  dsimp only [takeJob]
  refine clock_of_ite rfl ?_
  split
  · rfl
  · split
    · simp
    · split <;> simp

@[simp ↓] theorem clock_advanceCons (k r m : Nat) (d : Dev) : clock (advanceCons k r m d) = clock d := by
  induction m generalizing d with
  | zero => rfl
  | succ m ih => rw [advanceCons]; simp [ih]

theorem glbRdone_offNumber {c : Nat} (h : c < 8) : OffNumber (Reg.GLB_RDONE_UNIT c) := by
  simp only [Reg.GLB_RDONE_UNIT, OffNumber, Reg.TMP_NUMBER_NUMBER]
  omega

@[simp ↓] theorem clock_ringDone (unit mask : Nat) (d : Dev) : clock (ringDone unit mask d) = clock d :=
  clock_foldl_of_mem _ _ d fun c hc e => by
    simp [glbRdone_offNumber (List.mem_range.1 hc)]

@[simp ↓] theorem clock_finishDesc (k r idx status xflags : Nat) (rest : Bytes) (d : Dev) :
    clock (finishDesc k r idx status xflags rest d) = clock d := by
  dsimp only [finishDesc]
  simp

@[simp ↓] theorem clock_endJob (k n status xflags : Nat) (rest : Bytes) (d : Dev) :
    clock (endJob k n status xflags rest d) = clock d := by
  dsimp only [endJob]
  split <;> simp

/-! ### Memory as a lane sees it -/

@[simp ↓] theorem clock_laneWrite (k addr : Nat) (b : Bytes) (d : Dev) : clock (laneWrite k addr b d) = clock d := by
  dsimp only [laneWrite]
  split <;> simp

@[simp ↓] theorem clock_zeroise (k addr len : Nat) (d : Dev) : clock (zeroise k addr len d) = clock d := by
  dsimp only [zeroise]
  simp

/-! ### A job that ends CHECK_FAIL -/

@[simp ↓] theorem clock_drawUpTo (n : Nat) (d : Dev) : clock (drawUpTo n d).2 = clock d := by
  dsimp only [drawUpTo]
  simp

@[simp ↓] theorem clock_endStream (k : Nat) (b : Bytes) (d : Dev) : clock (endStream k b d) = clock d := by
  dsimp only [endStream]
  split <;> simp

@[simp ↓] theorem clock_abandon (k : Nat) (b : Bytes) (most : Nat) (d : Dev) : clock (abandon k b most d).2 = clock d := by
  dsimp only [abandon]
  split <;> simp

/-! ### Quarantine -/

@[simp ↓] theorem clock_breakSeal (z : Option Nat) (d : Dev) : clock (breakSeal z d) = clock d := by
  dsimp only [breakSeal]
  split <;> simp

@[simp ↓] theorem clock_abandonJob (k r i : Nat) (z : Option Nat) (d : Dev) : clock (abandonJob k r i z d).2 = clock d := by
  dsimp only [abandonJob]
  simp

@[simp ↓] theorem clock_quarantineLane (k n : Nat) (d : Dev) : clock (quarantineLane k n d) = clock d := by
  dsimp only [quarantineLane]
  simp
  intro _
  split <;> simp

/-! ### Pipelines (R98) -/

@[simp ↓] theorem clock_dropPipe (k : Nat) (w : PipeFor) (d : Dev) : clock (dropPipe k w d) = clock d := by
  dsimp only [dropPipe]
  simp

@[simp ↓] theorem clock_dropPipes (w : PipeFor) (d : Dev) : clock (dropPipes w d) = clock d := by
  dsimp only [dropPipes]
  simp

/-! ### Engines and their links -/

@[simp ↓] theorem clock_showEngine (e : Nat) (d : Dev) : clock (showEngine e d) = clock d := by
  dsimp only [showEngine]
  simp

@[simp ↓] theorem clock_quarantineEngine (e : Nat) (d : Dev) : clock (quarantineEngine e d) = clock d := by
  dsimp only [quarantineEngine]
  simp

@[simp ↓] theorem clock_oweResign (cause : Nat) (d : Dev) : clock (oweResign cause d) = clock d := by
  dsimp only [oweResign]
  simp

@[simp ↓] theorem clock_castleTest (code unit : Nat) (d : Dev) : clock (castleTest code unit d) = clock d := by
  dsimp only [castleTest]
  simp

@[simp ↓] theorem clock_quarantine (unit : Nat) (d : Dev) : clock (quarantine unit d) = clock d := by
  dsimp only [quarantine]
  split <;> simp

/-! ### The Security Policy Table (R554) -/

@[simp ↓] theorem clock_sptRead (e : SptEntry) (d : Dev) : clock (sptRead e d).2 = clock d := by
  dsimp only [sptRead]
  split <;> simp

@[simp ↓] theorem clock_sptDomain (n : Nat) (d : Dev) : clock (sptDomain n d).2 = clock d := by
  dsimp only [sptDomain]
  simp

@[simp ↓] theorem clock_sptImportKek (d : Dev) : clock (sptImportKek d).2 = clock d := by
  dsimp only [sptImportKek]
  simp

@[simp ↓] theorem clock_sptWrote (e : SptEntry) (d : Dev) : clock (sptWrote e d) = clock d := by
  dsimp only [sptWrote]
  split <;> simp

/-! ### The wrapped key table (Table 9.9) -/

@[simp ↓] theorem clock_keyPaired (index : Nat) (p : Paired) (d : Dev) : clock (keyPaired index p d) = clock d := by
  dsimp only [keyPaired]
  simp

@[simp ↓] theorem clock_readWkt (n : Nat) (d : Dev) : clock (readWkt n d).2 = clock d := by
  dsimp only [readWkt]
  split <;> simp

@[simp ↓] theorem clock_readIkt (n : Nat) (d : Dev) : clock (readIkt n d).2 = clock d := by
  dsimp only [readIkt]
  split <;> simp

@[simp ↓] theorem clock_putWkt (n : Nat) (k : KeyDesc) (w : WrappedKey) (d : Dev) : clock (putWkt n k w d) = clock d := by
  dsimp only [putWkt]
  simp

/-! ### Loads (R308) -/

@[simp ↓] theorem clock_findKey (source index gen : Nat) (d : Dev) : clock (findKey source index gen d).2 = clock d := by
  dsimp only [findKey]
  split
  · split
    · simp [clock_snd ‹readWkt _ _ = _›]
    · have hread := clock_snd ‹readWkt _ _ = _›
      split
      · simp [hread]
      · split
        · simp [hread]
        · split <;> simp [hread]
  · split
    · rfl
    · split
      · simp [clock_snd ‹readIkt _ _ = _›]
      · split <;> simp [clock_snd ‹readIkt _ _ = _›]
  · split
    · rfl
    · split <;> simp
  · rfl

@[simp ↓] theorem clock_checkSlots (kind index gen : Nat) (d : Dev) : clock (checkSlots kind index gen d) = clock d := by
  dsimp only [checkSlots]
  simp

@[simp ↓] theorem clock_useKey (source index gen : Nat) (d : Dev) : clock (useKey source index gen d).2 = clock d := by
  dsimp only [useKey]
  split <;> simp

/-! ### Granule IDs (Table 6.2) and their entries -/

@[simp ↓] theorem clock_touchPage (kind idx : Nat) (d : Dev) : clock (touchPage kind idx d) = clock d := by
  dsimp only [touchPage]
  simp

@[simp ↓] theorem clock_putGte (g : Nat) (e : Gte) (d : Dev) : clock (putGte g e d) = clock d := by
  dsimp only [putGte]
  simp

@[simp ↓] theorem clock_modSeg (s : Nat) (f : Seg → Seg) (d : Dev) : clock (modSeg s f d) = clock d := by
  dsimp only [modSeg]
  simp

@[simp ↓] theorem clock_addLive (s n : Nat) (d : Dev) : clock (addLive s n d) = clock d := by
  dsimp only [addLive]
  simp

@[simp ↓] theorem clock_subLive (s n : Nat) (d : Dev) : clock (subLive s n d) = clock d := by
  dsimp only [subLive]
  simp

@[simp ↓] theorem clock_modBlk (member block : Nat) (f : Blk → Blk) (d : Dev) : clock (modBlk member block f d) = clock d := by
  dsimp only [modBlk]
  simp

@[simp ↓] theorem clock_doubt (g : Nat) (d : Dev) : clock (doubt g d) = clock d := by
  dsimp only [doubt]
  simp

@[simp ↓] theorem clock_modPool (p : Nat) (f : Pool → Pool) (d : Dev) : clock (modPool p f d) = clock d := by
  dsimp only [modPool]
  simp

@[simp ↓] theorem clock_modNs (n : Nat) (f : Ns → Ns) (d : Dev) : clock (modNs n f d) = clock d := by
  dsimp only [modNs]
  simp

@[simp ↓] theorem clock_modSnap (nsid sseq : Nat) (f : Snap → Snap) (d : Dev) : clock (modSnap nsid sseq f d) = clock d := by
  dsimp only [modSnap]
  simp

@[simp ↓] theorem clock_modSlot (n : Nat) (f : Slot → Slot) (d : Dev) : clock (modSlot n f d) = clock d := by
  dsimp only [modSlot]
  simp

@[simp ↓] theorem clock_enterRetiring (g : Nat) (d : Dev) : clock (enterRetiring g d) = clock d := by
  dsimp only [enterRetiring]
  simp

@[simp ↓] theorem clock_auditDelta (g : Nat) (n : Int) (d : Dev) : clock (auditDelta g n d) = clock d := by
  dsimp only [auditDelta]
  split <;> simp

@[simp ↓] theorem clock_showLoss (d : Dev) : clock (showLoss d) = clock d := by
  dsimp only [showLoss]
  simp

@[simp ↓] theorem clock_addLoss (e : LossEntry) (d : Dev) : clock (addLoss e d) = clock d := by
  dsimp only [addLoss]
  split <;> simp

@[simp ↓] theorem clock_clearLoss (g : Nat) (d : Dev) : clock (clearLoss g d) = clock d := by
  dsimp only [clearLoss]
  simp

@[simp ↓] theorem clock_dropRef (g : Nat) (d : Dev) : clock (dropRef g d) = clock d := by
  dsimp only [dropRef]
  simp

@[simp ↓] theorem clock_retireLast (g : Nat) (d : Dev) : clock (retireLast g d) = clock d := by
  dsimp only [retireLast]
  simp

@[simp ↓] theorem clock_takeRef (g : Nat) (d : Dev) : clock (takeRef g d) = clock d := by
  dsimp only [takeRef]
  simp

@[simp ↓] theorem clock_releaseGid (own : Bool) (tsn g : Nat) (d : Dev) : clock (releaseGid own tsn g d) = clock d := by
  dsimp only [releaseGid]
  simp

/-! ### The namespace map (R184, R185, R437–R444) -/

@[simp ↓] theorem clock_putNode (n : Nat) (x : Node) (d : Dev) : clock (putNode n x d) = clock d := by
  dsimp only [putNode]
  simp

@[simp ↓] theorem clock_newNode (h : Nat) (d : Dev) : clock (newNode h d).2 = clock d := by
  dsimp only [newNode]
  simp

@[simp ↓] theorem clock_mapSet (h : Nat) (repl : List Nat) (sq g : Nat) (tags : Bytes) (m w : Nat) (c : Copied) (d : Dev) :
    clock (mapSet h repl sq g tags m w c d).2.2 = clock d := by
  induction m generalizing w c d with
  | zero => rfl
  | succ m ih =>
    rw [mapSet]
    dsimp only
    split
    all_goals
      simp [ih]
      split
      · simp
      · split
        · simp
        · rfl

/-! ### Roots and lineage (R437–R451) -/

@[simp ↓] theorem clock_addSucc (p : Nat × Nat) (d : Dev) : clock (addSucc p d) = clock d := by
  dsimp only [addSucc]
  simp

@[simp ↓] theorem clock_subSucc (p : Nat × Nat) (d : Dev) : clock (subSucc p d) = clock d := by
  dsimp only [subSucc]
  simp

@[simp ↓] theorem clock_applyCut (s : Snap) (d : Dev) : clock (applyCut s d) = clock d := by
  dsimp only [applyCut]
  simp

@[simp ↓] theorem clock_applyGone (nsid sseq : Nat) (d : Dev) : clock (applyGone nsid sseq d) = clock d := by
  dsimp only [applyGone]
  split <;> simp

@[simp ↓] theorem clock_applyUnshare (nsid page sub : Nat) (d : Dev) : clock (applyUnshare nsid page sub d) = clock d := by
  dsimp only [applyUnshare]
  simp

@[simp ↓] theorem clock_putMask (nsid sq mask : Nat) (d : Dev) : clock (putMask nsid sq mask d) = clock d := by
  dsimp only [putMask]
  simp

/-! ### Applying journal records (R221, R222, R362, R366, R369) -/

@[simp ↓] theorem clock_freeSlot (n : Nat) (d : Dev) : clock (freeSlot n d) = clock d := by
  dsimp only [freeSlot]
  simp

@[simp ↓] theorem clock_entrySlot (own : Bool) (slot : Option Nat) (nsid sq tsn : Nat) (d : Dev) :
    clock (entrySlot own slot nsid sq tsn d) = clock d := by
  dsimp only [entrySlot]
  split <;> simp

@[simp ↓] theorem clock_releaseOld (own : Bool) (r : JRecord) (g : Nat) (d : Dev) : clock (releaseOld own r g d) = clock d := by
  dsimp only [releaseOld]
  split <;> simp

@[simp ↓] theorem clock_applyRekey (own : Bool) (r : JRecord) (e : SqEntry) (d : Dev) : clock (applyRekey own r e d) = clock d := by
  dsimp only [applyRekey]
  simp
  split <;> simp

@[simp ↓] theorem clock_applySquare (own : Bool) (r : JRecord) (repl : List Nat) (e : SqEntry) (acc : Copied × Dev) :
    clock (applySquare own r repl e acc).2 = clock acc.2 := by
  dsimp only [applySquare]
  split
  · simp
    split <;> simp
  · split
    · dsimp only
      split <;> simp
    all_goals simp

@[simp ↓] theorem clock_applySquares (own : Bool) (r : JRecord) (es : List SqEntry) (d : Dev) :
    clock (applySquares own r es d) = clock d := by
  dsimp only [applySquares]
  simp

@[simp ↓] theorem clock_applyMove (m : Nat × (Nat × Nat × Nat) × (Nat × Nat × Nat)) (d : Dev) :
    clock (applyMove m d) = clock d := by
  dsimp only [applyMove]
  simp

@[simp ↓] theorem clock_applyPinDrop (g : Nat) (d : Dev) : clock (applyPinDrop g d) = clock d := by
  dsimp only [applyPinDrop]
  simp

@[simp ↓] theorem clock_applyPageMap (m : Nat × Nat × Nat) (d : Dev) : clock (applyPageMap m d) = clock d := by
  dsimp only [applyPageMap]
  simp

@[simp ↓] theorem clock_applyClose (seg rows : Nat) (short : Bool) (tempo : Nat) (d : Dev) :
    clock (applyClose seg rows short tempo d) = clock d := by
  dsimp only [applyClose]
  simp

@[simp ↓] theorem clock_segBlocks (g : Seg) (f : Blk → Blk) (d : Dev) : clock (segBlocks g f d) = clock d := by
  dsimp only [segBlocks]
  simp

@[simp ↓] theorem clock_applyNews (x : PageNews) (d : Dev) : clock (applyNews x d) = clock d := by
  dsimp only [applyNews]
  split <;> simp

@[simp ↓] theorem clock_applyRecord (r : JRecord) (d : Dev) : clock (applyRecord r d) = clock d := by
  dsimp only [applyRecord]
  simp
  split <;> simp

@[simp ↓] theorem clock_applyPeerRecords (m : Nat) (d : Dev) : clock (applyPeerRecords m d) = clock d := by
  induction m generalizing d with
  | zero => rfl
  | succ m ih =>
    rw [applyPeerRecords]
    split
    · rfl
    · simp [ih]

@[simp ↓] theorem clock_catchUp (d : Dev) : clock (catchUp d) = clock d := by
  dsimp only [catchUp]
  simp

/-! ### Pauses (R158, R178, R181, R193) -/

@[simp ↓] theorem clock_modPort (p : Nat) (f : HostPort → HostPort) (d : Dev) : clock (modPort p f d) = clock d := by
  dsimp only [modPort]
  simp

@[simp ↓] theorem clock_setPause (p cause mask : Nat) (d : Dev) : clock (setPause p cause mask d) = clock d := by
  dsimp only [setPause]
  simp

@[simp ↓] theorem clock_pauseAll (cause mask : Nat) (d : Dev) : clock (pauseAll cause mask d) = clock d := by
  dsimp only [pauseAll]
  simp

/-! ### The context-miss buffers (R26, R158) -/

@[simp ↓] theorem clock_showMiss (p : Nat) (d : Dev) : clock (showMiss p d) = clock d := by
  dsimp only [showMiss]
  simp

@[simp ↓] theorem clock_missXon (p : Nat) (d : Dev) : clock (missXon p d) = clock d := by
  dsimp only [missXon]
  simp

/-! ### Command records (Table 16.1, R501, R502) -/

@[simp ↓] theorem clock_modFc (n : Nat) (f : FrontCmd → FrontCmd) (d : Dev) : clock (modFc n f d) = clock d := by
  dsimp only [modFc]
  simp

@[simp ↓] theorem clock_endCmd (n kind : Nat) (d : Dev) : clock (endCmd n kind d) = clock d := by
  dsimp only [endCmd]
  simp

@[simp ↓] theorem clock_hostOut (c : HostCmd) (own : Out) (a : PeerAnswer) (d : Dev) : clock (hostOut c own a d) = clock d := by
  dsimp only [hostOut]
  simp

@[simp ↓] theorem clock_sendData (c : HostCmd) (off : Nat) (b : Bytes) (d : Dev) : clock (sendData c off b d) = clock d := by
  dsimp only [sendData]
  simp

@[simp ↓] theorem clock_postCompletion (n : Nat) (d : Dev) : clock (postCompletion n d) = clock d := by
  dsimp only [postCompletion]
  split <;> simp

@[simp ↓] theorem clock_complete (n st : Nat) (dnr : Bool) (d : Dev) : clock (complete n st dnr d) = clock d := by
  dsimp only [complete]
  simp

/-! ### Slots (R190–R196) -/

@[simp ↓] theorem clock_showTight (d : Dev) : clock (showTight d) = clock d := by
  dsimp only [showTight]
  simp

/-! ### Formats (Table 5.7, R163) -/

@[simp ↓] theorem clock_modWork (n : Nat) (f : Work → Work) (d : Dev) : clock (modWork n f d) = clock d := by
  dsimp only [modWork]
  simp

@[simp ↓] theorem clock_awaitPeer (n : Nat) (d : Dev) : clock (awaitPeer n d) = clock d := by
  dsimp only [awaitPeer]
  simp

@[simp ↓] theorem clock_packSlot (n action gid : Nat) (d : Dev) : clock (packSlot n action gid d) = clock d := by
  dsimp only [packSlot]
  simp

@[simp ↓] theorem clock_issueAdd (n g expect_ swaps : Nat) (d : Dev) : clock (issueAdd n g expect_ swaps d) = clock d := by
  dsimp only [issueAdd]
  simp

@[simp ↓] theorem clock_slotWritten (n : Nat) (d : Dev) : clock (slotWritten n d) = clock d := by
  dsimp only [slotWritten]
  simp
  split <;> simp

@[simp ↓] theorem clock_makeDurable (n : Nat) (d : Dev) : clock (makeDurable n d) = clock d := by
  dsimp only [makeDurable]
  simp
  split <;> simp

@[simp ↓] theorem clock_durableAlone (d : Dev) : clock (durableAlone d) = clock d := by
  dsimp only [durableAlone]
  simp

@[simp ↓] theorem clock_abandonFrame (n : Nat) (d : Dev) : clock (abandonFrame n d) = clock d := by
  dsimp only [abandonFrame]
  simp

@[simp ↓] theorem clock_backToDurable (n : Nat) (d : Dev) : clock (backToDurable n d) = clock d := by
  dsimp only [backToDurable]
  simp

@[simp ↓] theorem clock_freeSlots (n : Nat) (d : Dev) : clock (freeSlots n d) = clock d := by
  dsimp only [freeSlots]
  simp

/-! ### The row journal (R221, R225) -/

@[simp ↓] theorem clock_applyOwn (m : Nat) (d : Dev) : clock (applyOwn m d) = clock d := by
  induction m generalizing d with
  | zero => rfl
  | succ m ih =>
    rw [applyOwn]
    split
    · simp [ih]
    · rfl

@[simp ↓] theorem clock_commitReady (d : Dev) : clock (commitReady d) = clock d := by
  dsimp only [commitReady]
  simp

@[simp ↓] theorem clock_postNews (nsid : Nat) (body : JBody) (news : List PageNews) (d : Dev) :
    clock (postNews nsid body news d) = clock d := by
  dsimp only [postNews]
  simp

@[simp ↓] theorem clock_postRecord (nsid : Nat) (body : JBody) (d : Dev) : clock (postRecord nsid body d) = clock d := by
  dsimp only [postRecord]
  simp

/-! ### Teardown of a context (R166, R168) -/

@[simp ↓] theorem clock_stopReads (n : Nat) (d : Dev) : clock (stopReads n d) = clock d := by
  dsimp only [stopReads]
  simp

@[simp ↓] theorem clock_tearCmd (n : Nat) (d : Dev) : clock (tearCmd n d) = clock d := by
  dsimp only [tearCmd]
  simp
  split <;> simp

@[simp ↓] theorem clock_showCtx (d : Dev) : clock (showCtx d) = clock d := by
  dsimp only [showCtx]
  simp

@[simp ↓] theorem clock_closeCtx (c : Nat) (d : Dev) : clock (closeCtx c d) = clock d := by
  dsimp only [closeCtx]
  simp

@[simp ↓] theorem clock_emptyFwBuf (d : Dev) : clock (emptyFwBuf d) = clock d := by
  dsimp only [emptyFwBuf]
  simp

@[simp ↓] theorem clock_teardown (c : Nat) (d : Dev) : clock (teardown c d) = clock d := by
  dsimp only [teardown]
  simp

@[simp ↓] theorem clock_portTeardown (p : Nat) (d : Dev) : clock (portTeardown p d) = clock d := by
  dsimp only [portTeardown]
  simp

/-! ### Asynchronous events (R659) -/

@[simp ↓] theorem clock_giveEvent (id : Nat) (d : Dev) : clock (giveEvent id d) = clock d := by
  dsimp only [giveEvent]
  split <;> simp

@[simp ↓] theorem clock_raiseEvent (e : Nat) (p : Controller → Bool) (d : Dev) : clock (raiseEvent e p d) = clock d := by
  dsimp only [raiseEvent]
  simp

@[simp ↓] theorem clock_anaChanged (d : Dev) : clock (anaChanged d) = clock d := by
  dsimp only [anaChanged]
  simp

/-! ### Lanes of the flash modules -/

@[simp ↓] theorem clock_modLink (n : Nat) (f : Lane12 → Lane12) (d : Dev) : clock (modLink n f d) = clock d := by
  dsimp only [modLink]
  simp

@[simp ↓] theorem clock_modMod (n : Nat) (f : Module → Module) (d : Dev) : clock (modMod n f d) = clock d := by
  dsimp only [modMod]
  simp

/-! ### Frames and credits -/

@[simp ↓] theorem clock_transmit (n : Nat) (f : MdlSent) (d : Dev) : clock (transmit n f d) = clock d := by
  dsimp only [transmit]
  simp

@[simp ↓] theorem clock_sendFrame (n type tag : Nat) (d : Dev) : clock (sendFrame n type tag d) = clock d := by
  dsimp only [sendFrame]
  simp

@[simp ↓] theorem clock_clearLane (n : Nat) (d : Dev) : clock (clearLane n d) = clock d := by
  dsimp only [clearLane]
  simp

@[simp ↓] theorem clock_putFailed (n : Nat) (d : Dev) : clock (putFailed n d) = clock d := by
  dsimp only [putFailed]
  simp

@[simp ↓] theorem clock_linkFail (n : Nat) (d : Dev) : clock (linkFail n d) = clock d := by
  dsimp only [linkFail]
  simp

@[simp ↓] theorem clock_laneDown (n : Nat) (d : Dev) : clock (laneDown n d) = clock d := by
  dsimp only [laneDown]
  simp

@[simp ↓] theorem clock_setCredit (n cls v : Nat) (d : Dev) : clock (setCredit n cls v d) = clock d := by
  dsimp only [setCredit]
  simp

@[simp ↓] theorem clock_readCredit (n cls : Nat) (d : Dev) : clock (readCredit n cls d).2 = clock d := by
  dsimp only [readCredit]
  simp

theorem clock_pumpOne {n : Nat} {d e : Dev} (h : pumpOne n d = some e) : clock e = clock d := by
  unfold pumpOne at h
  dsimp only at h
  split at h
  · cases h
  · split at h
    · split at h
      · cases h
        simp [clock_snd ‹readCredit _ _ _ = _›]
      · have h0 := clock_snd ‹readCredit n 0 d = _›
        split at h
        · cases h
          simp [clock_snd ‹readCredit n 1 _ = _›, h0]
        · have h1 := clock_snd ‹readCredit n 1 _ = _›
          split at h
          · cases h
          · cases h
            simp [h1, h0]
    · cases h

@[simp ↓] theorem clock_pump (n m : Nat) (d : Dev) : clock (pump n m d) = clock d := by
  induction m generalizing d with
  | zero => rfl
  | succ m ih =>
    rw [pump]
    split
    · rw [ih, clock_pumpOne ‹_›]
    · rfl

@[simp ↓] theorem clock_laneIssue (n : Nat) (c : LaneCmd) (d : Dev) : clock (laneIssue n c d) = clock d := by
  dsimp only [laneIssue]
  simp

@[simp ↓] theorem clock_readFence (n : Nat) (d : Dev) : clock (readFence n d).2 = clock d := by
  dsimp only [readFence]
  simp

@[simp ↓] theorem clock_issueWrite (n : Nat) (c : LaneCmd) (d : Dev) : clock (issueWrite n c d) = clock d := by
  dsimp only [issueWrite]
  simp

@[simp ↓] theorem clock_setFence (n v : Nat) (d : Dev) : clock (setFence n v d) = clock d := by
  dsimp only [setFence]
  simp

/-! ### Free blocks (R356, R358, R419, R654) -/

@[simp ↓] theorem clock_showPools (d : Dev) : clock (showPools d) = clock d := by
  dsimp only [showPools]
  simp

/-! ### Layout (R415–R418) -/

@[simp ↓] theorem clock_showLayout (p : Nat) (d : Dev) : clock (showLayout p d) = clock d := by
  dsimp only [showLayout]
  simp

@[simp ↓] theorem clock_takeLayout (p : Nat) (d : Dev) : clock (takeLayout p d) = clock d := by
  dsimp only [takeLayout]
  split <;> simp

@[simp ↓] theorem clock_newLayout (p : Nat) (d : Dev) : clock (newLayout p d) = clock d := by
  dsimp only [newLayout]
  simp

/-! ### Opening segments (R408, R409, R418) -/

@[simp ↓] theorem clock_showNarrow (p : Nat) (d : Dev) : clock (showNarrow p d) = clock d := by
  dsimp only [showNarrow]
  simp

theorem clock_openSegment {p s : Nat} {gc isMeta : Bool} {d e : Dev} (h : Machine.openSegment p gc isMeta d = some (s, e)) :
    clock e = clock d := by
  unfold Machine.openSegment at h
  dsimp only at h
  split at h
  · cases h
  · split at h
    · cases h
    · cases h
      simp

/-! ### Rows (R214–R217) -/

@[simp ↓] theorem clock_modRow (n : Nat) (f : Row → Row) (d : Dev) : clock (modRow n f d) = clock d := by
  dsimp only [modRow]
  simp

theorem clock_rowSegment {p kind s : Nat} {d e : Dev} (h : rowSegment p kind d = some (s, e)) : clock e = clock d := by
  dsimp only [rowSegment] at h
  split at h
  · cases h; rfl
  · exact clock_openSegment h

@[simp ↓] theorem clock_closeRow (n : Nat) (d : Dev) : clock (closeRow n d) = clock d := by
  dsimp only [closeRow]
  simp

theorem clock_openRow {engine p kind n : Nat} {d e : Dev} (h : openRow engine p kind d = some (n, e)) : clock e = clock d := by
  dsimp only [openRow] at h
  split at h
  · cases h
  · cases h
    simp [clock_rowSegment ‹rowSegment _ _ _ = _›]

@[simp ↓] theorem clock_placeFrame (engine p kind : Nat) (f : FrameRef) (d : Dev) : clock (placeFrame engine p kind f d).2 = clock d := by
  dsimp only [placeFrame]
  split
  next h =>
    split at h
    · cases h
      simp
      split <;> simp
    · simp [clock_openRow h]
      split <;> simp
  next =>
    simp
    split <;> simp

@[simp ↓] theorem clock_refillRows (r : Row) (s : Nat) (d : Dev) : clock (refillRows r s d) = clock d := by
  dsimp only [refillRows]
  simp

@[simp ↓] theorem clock_requeueRows (l : List Nat) (d : Dev) : clock (requeueRows l d) = clock d := by
  dsimp only [requeueRows]
  refine clock_foldl_snd _ _ _ fun acc n => ?_
  split
  · simp
  · split
    · simp
    · split
      · simp [clock_openSegment ‹_›]
      · simp

/-! ### Closing segments and retiring blocks (R355, R370–R372, R655) -/

@[simp ↓] theorem clock_commitClose (s : Nat) (short : Bool) (d : Dev) : clock (commitClose s short d) = clock d := by
  dsimp only [commitClose]
  simp

@[simp ↓] theorem clock_closeWhenIdle (s : Nat) (d : Dev) : clock (closeWhenIdle s d) = clock d := by
  dsimp only [closeWhenIdle]
  simp

@[simp ↓] theorem clock_closeShort (s : Nat) (d : Dev) : clock (closeShort s d) = clock d := by
  dsimp only [closeShort]
  simp

@[simp ↓] theorem clock_queueReloc (s : Nat) (d : Dev) : clock (queueReloc s d) = clock d := by
  dsimp only [queueReloc]
  simp

@[simp ↓] theorem clock_showRebuild (d : Dev) : clock (showRebuild d) = clock d := by
  dsimp only [showRebuild]
  simp

@[simp ↓] theorem clock_rerank (d : Dev) : clock (rerank d) = clock d := by
  dsimp only [rerank]
  simp

@[simp ↓] theorem clock_queueRebuild (s : Nat) (d : Dev) : clock (queueRebuild s d) = clock d := by
  dsimp only [queueRebuild]
  simp

@[simp ↓] theorem clock_retireBlock (m b cause : Nat) (d : Dev) : clock (retireBlock m b cause d) = clock d := by
  dsimp only [retireBlock]
  simp

/-! ### Lost granules (R340, R434–R436) -/

@[simp ↓] theorem clock_placePage (kind page : Nat) (d : Dev) : clock (placePage kind page d).2 = clock d := by
  dsimp only [placePage]
  split <;> simp [clock_snd ‹placeFrame _ _ _ _ _ = _›]

@[simp ↓] theorem clock_writeNews (page : Nat) (x : PageNews) (d : Dev) : clock (writeNews page x d).2 = clock d := by
  dsimp only [writeNews]
  split <;> simp

@[simp ↓] theorem clock_markLost (g cause missing : Nat) (d : Dev) : clock (markLost g cause missing d) = clock d := by
  dsimp only [markLost]
  simp

/-! ### Transactions (R201, R202, R221, R658) -/

@[simp ↓] theorem clock_postTx (nsid : Nat) (es : List SqEntry) (d : Dev) : clock (postTx nsid es d) = clock d := by
  dsimp only [postTx]
  split <;> simp

/-! ### Rebuild rows (R427) -/

@[simp ↓] theorem clock_modRebuild (s : Nat) (f : Rebuild → Rebuild) (d : Dev) : clock (modRebuild s f d) = clock d := by
  dsimp only [modRebuild]
  simp

@[simp ↓] theorem clock_rebuildRowEnded (n : Nat) (d : Dev) : clock (rebuildRowEnded n d) = clock d := by
  dsimp only [rebuildRowEnded]
  simp

/-! ### Sessions with peers -/

@[simp ↓] theorem clock_modPeer (p : Nat) (f : PeerSess → PeerSess) (d : Dev) : clock (modPeer p f d) = clock d := by
  dsimp only [modPeer]
  simp

@[simp ↓] theorem clock_sptPeer (p : Nat) (d : Dev) : clock (sptPeer p d).2 = clock d := by
  dsimp only [sptPeer]
  split <;> simp

@[simp ↓] theorem clock_openSession (p : Nat) (d : Dev) : clock (openSession p d) = clock d := by
  dsimp only [openSession]
  split
  · simp [clock_snd ‹sptPeer _ _ = _›]
  · split <;> simp [clock_snd ‹useKey _ _ _ _ = _›, clock_snd ‹sptPeer _ _ = _›]

@[simp ↓] theorem clock_sendRepl (p : Nat) (m : ReplMsg) (d : Dev) : clock (sendRepl p m d) = clock d := by
  dsimp only [sendRepl]
  simp
  split <;> simp

/-! ### Read jobs -/

@[simp ↓] theorem clock_modJob (j : Nat) (f : ReadJob → ReadJob) (d : Dev) : clock (modJob j f d) = clock d := by
  dsimp only [modJob]
  simp

@[simp ↓] theorem clock_dropJob (j : Nat) (d : Dev) : clock (dropJob j d) = clock d := by
  dsimp only [dropJob]
  simp

@[simp ↓] theorem clock_readPage (j i : Nat) (d : Dev) : clock (readPage j i d) = clock d := by
  dsimp only [readPage]
  split <;> simp

@[simp ↓] theorem clock_readPages (j : Nat) (d : Dev) : clock (readPages j d) = clock d := by
  dsimp only [readPages]
  simp

/-! ### Guards and tags (R172–R174) -/

@[simp ↓] theorem clock_countPi (st : Nat) (d : Dev) : clock (countPi st d) = clock d := by
  dsimp only [countPi]
  simp

/-! ### The end of a host read (R333–R336, R347) -/

@[simp ↓] theorem clock_sendSquares (n i : Nat) (d : Dev) : clock (sendSquares n i d) = clock d := by
  dsimp only [sendSquares]
  simp

@[simp ↓] theorem clock_finishRead (n : Nat) (d : Dev) : clock (finishRead n d) = clock d := by
  dsimp only [finishRead]
  split
  · simp
  · split
    · simp
    · split <;> simp

@[simp ↓] theorem clock_squareDone (n i st : Nat) (dnr : Bool) (plain : Bytes) (d : Dev) :
    clock (squareDone n i st dnr plain d) = clock d := by
  dsimp only [squareDone]
  simp

@[simp ↓] theorem clock_endRead (j st : Nat) (dnr : Bool) (plain : Bytes) (d : Dev) : clock (endRead j st dnr plain d) = clock d := by
  dsimp only [endRead]
  split
  case h_2 => split <;> simp
  all_goals simp

/-! ### Repair from a replica (R344–R346) -/

@[simp ↓] theorem clock_goRepair (j : Nat) (d : Dev) : clock (goRepair j d) = clock d := by
  dsimp only [goRepair]
  split <;> simp

@[simp ↓] theorem clock_unrecoverable (j : Nat) (d : Dev) : clock (unrecoverable j d) = clock d := by
  dsimp only [unrecoverable]
  split <;> simp

/-! ### Lookup (R318–R322, R341) -/

@[simp ↓] theorem clock_locate (j : Nat) (d : Dev) : clock (locate j d) = clock d := by
  dsimp only [locate]
  simp

@[simp ↓] theorem clock_startGranule (who : ReadWho) (nsid sq g restarts : Nat) (d : Dev) :
    clock (startGranule who nsid sq g restarts d) = clock d := by
  dsimp only [startGranule]
  simp

/-! ### Resignation (R510, R511) -/

@[simp ↓] theorem clock_endActivation (d : Dev) : clock (endActivation d) = clock d := by
  dsimp only [endActivation]
  split <;> simp

@[simp ↓] theorem clock_resignNow (cause : Nat) (d : Dev) : clock (resignNow cause d) = clock d := by
  dsimp only [resignNow]
  simp

/-! ### Slots restored or adopted (R226, R227) -/

@[simp ↓] theorem clock_reserve (p n : Nat) (d : Dev) : clock (reserve p n d) = clock d := by
  dsimp only [reserve]
  simp

@[simp ↓] theorem clock_restoreSlot (n : Nat) (s : Slot) (d : Dev) : clock (restoreSlot n s d) = clock d := by
  dsimp only [restoreSlot]
  simp

@[simp ↓] theorem clock_doubtReleases (own : Bool) (d : Dev) : clock (doubtReleases own d) = clock d := by
  dsimp only [doubtReleases]
  simp

/-! ### The winner's steps (R515) -/

@[simp ↓] theorem clock_closePeerSegment (s : Nat) (d : Dev) : clock (closePeerSegment s d) = clock d := by
  dsimp only [closePeerSegment]
  simp

@[simp ↓] theorem clock_armOrphans (d : Dev) : clock (armOrphans d) = clock d := by
  dsimp only [armOrphans]
  simp

@[simp ↓] theorem clock_adoptSlots (d : Dev) : clock (adoptSlots d) = clock d := by
  dsimp only [adoptSlots]
  simp

@[simp ↓] theorem clock_adoptedKind (mirror : Tab Slot) (n : Nat) (r : CmdRecord) (d : Dev) :
    clock (adoptedKind mirror n r d).2 = clock d := by
  dsimp only [adoptedKind]
  split <;> simp

@[simp ↓] theorem clock_endPeerCommands (mirror : Tab Slot) (d : Dev) : clock (endPeerCommands mirror d) = clock d := by
  dsimp only [endPeerCommands]
  simp

@[simp ↓] theorem clock_closePeers (d : Dev) : clock (closePeers d) = clock d := by
  dsimp only [closePeers]
  simp

@[simp ↓] theorem clock_takeOver (claimed : Bool) (own0 own1 : Nat) (d : Dev) : clock (takeOver claimed own0 own1 d) = clock d := by
  dsimp only [takeOver]
  simp

@[simp ↓] theorem clock_showClaims (d : Dev) : clock (showClaims d) = clock d := by
  dsimp only [showClaims]
  simp

@[simp ↓] theorem clock_claimWon (d : Dev) : clock (claimWon d) = clock d := by
  dsimp only [claimWon]
  simp

/-! ### The claim (R513, R514) -/

@[simp ↓] theorem clock_claimDecide (d : Dev) : clock (claimDecide d) = clock d := by
  dsimp only [claimDecide]
  simp

@[simp ↓] theorem clock_modClaim (m : Nat) (f : Claim → Claim) (d : Dev) : clock (modClaim m f d) = clock d := by
  dsimp only [modClaim]
  simp

@[simp ↓] theorem clock_issueClaim (m w : Nat) (d : Dev) : clock (issueClaim m w d) = clock d := by
  dsimp only [issueClaim]
  simp

@[simp ↓] theorem clock_claimMember (m : Nat) (d : Dev) : clock (claimMember m d) = clock d := by
  dsimp only [claimMember]
  simp

@[simp ↓] theorem clock_startClaim (d : Dev) : clock (startClaim d) = clock d := by
  dsimp only [startClaim]
  simp

@[simp ↓] theorem clock_claimReturned (m : Nat) (d : Dev) : clock (claimReturned m d) = clock d := by
  dsimp only [claimReturned]
  simp

@[simp ↓] theorem clock_claimResult (m : Nat) (c : LaneCmd) (rsp : Option LaneRsp) (d : Dev) :
    clock (claimResult m c rsp d) = clock d := by
  dsimp only [claimResult]
  split
  · simp
  · refine clock_of_ite (by simp) ?_
    split <;> simp

/-! ### Declaring the peer lost (R505, R506, R512) -/

@[simp ↓] theorem clock_pauseLossless (d : Dev) : clock (pauseLossless d) = clock d := by
  dsimp only [pauseLossless]
  simp

@[simp ↓] theorem clock_declareLost (cause : Nat) (d : Dev) : clock (declareLost cause d) = clock d := by
  dsimp only [declareLost]
  simp

/-! ### The end of erases, writes and lane commands -/

@[simp ↓] theorem clock_finishErase (seg : Nat) (d : Dev) : clock (finishErase seg d) = clock d := by
  dsimp only [finishErase]
  simp

@[simp ↓] theorem clock_eraseEnded (m b seg : Nat) (d : Dev) : clock (eraseEnded m b seg d) = clock d := by
  dsimp only [eraseEnded]
  simp

@[simp ↓] theorem clock_eraseFailed (m b seg : Nat) (d : Dev) : clock (eraseFailed m b seg d) = clock d := by
  dsimp only [eraseFailed]
  simp

@[simp ↓] theorem clock_identified (n : Nat) (d : Dev) : clock (identified n d) = clock d := by
  dsimp only [identified]
  simp

@[simp ↓] theorem clock_laneEnded (n : Nat) (c : LaneCmd) (rsp : Option LaneRsp) (d : Dev) : clock (laneEnded n c rsp d) = clock d := by
  dsimp only [laneEnded]
  split
  case h_1 => split <;> simp
  case h_3 => split <;> simp
  case h_5 => split <;> simp
  case h_7 => split <;> simp
  case h_8 => split <;> simp
  case h_9 => split <;> simp
  all_goals simp

/-! ### The index decision (R203–R207, R227, R244, R245) -/

@[simp ↓] theorem clock_comparePolicy (ns : Ns) (d : Dev) : clock (comparePolicy ns d).2 = clock d := by
  dsimp only [comparePolicy]
  simp

/-! ### Partitions (R229–R237, R656, R657) -/

@[simp ↓] theorem clock_showIndex (d : Dev) : clock (showIndex d) = clock d := by
  dsimp only [showIndex]
  simp

@[simp ↓] theorem clock_acquireParts (ps : List Nat) (pages : Tab (Tab Bytes)) (d : Dev) : clock (acquireParts ps pages d) = clock d := by
  dsimp only [acquireParts]
  simp

@[simp ↓] theorem clock_applyOwners (pages : Tab (Tab Bytes)) (d : Dev) : clock (applyOwners pages d) = clock d := by
  dsimp only [applyOwners]
  simp
  exact clock_forEach _ _ _ fun n e => clock_wrReg _ _ _ (fiuOwn_offNumber n 0)

/-! ### The audit (R252, R253) -/

@[simp ↓] theorem clock_auditCut (d : Dev) : clock (auditCut d) = clock d := by
  dsimp only [auditCut]
  split <;> simp

/-! ### Roots and snapshots -/

@[simp ↓] theorem clock_buryRoot (nsid : Nat) (d : Dev) : clock (buryRoot nsid d) = clock d := by
  dsimp only [buryRoot]
  simp

/-! ### Relations -/

@[simp ↓] theorem clock_modRel (k : Nat) (f : Rel → Rel) (d : Dev) : clock (modRel k f d) = clock d := by
  dsimp only [modRel]
  simp

@[simp ↓] theorem clock_showRel (d : Dev) : clock (showRel d) = clock d := by
  dsimp only [showRel]
  simp

/-! ### The mailbox (Table 14.6) -/

@[simp ↓] theorem clock_mailEnd (result value : Nat) (d : Dev) : clock (mailEnd result value d) = clock d := by
  dsimp only [mailEnd]
  simp

/-! ### Cuts (R441, R442) -/

@[simp ↓] theorem clock_stageCut (nsids : List Nat) (role : CutRole) (d : Dev) : clock (stageCut nsids role d) = clock d := by
  dsimp only [stageCut]
  simp

@[simp ↓] theorem clock_applyDeletes (d : Dev) : clock (applyDeletes d) = clock d := by
  dsimp only [applyDeletes]
  simp

/-! ### Sources: suspension and stream holds (R456, R458–R462) -/

@[simp ↓] theorem clock_postDrops (nsid : Nat) (gs : List Nat) (d : Dev) : clock (postDrops nsid gs d) = clock d := by
  dsimp only [postDrops]
  simp

@[simp ↓] theorem clock_releaseHold (k tsn : Nat) (d : Dev) : clock (releaseHold k tsn d) = clock d := by
  dsimp only [releaseHold]
  simp

@[simp ↓] theorem clock_suspendRel (k : Nat) (d : Dev) : clock (suspendRel k d) = clock d := by
  dsimp only [suspendRel]
  simp

@[simp ↓] theorem clock_pumpStream (k : Nat) (d : Dev) : clock (pumpStream k d) = clock d := by
  dsimp only [pumpStream]
  simp

@[simp ↓] theorem clock_checkCycle (k : Nat) (d : Dev) : clock (checkCycle k d) = clock d := by
  dsimp only [checkCycle]
  split <;> simp

@[simp ↓] theorem clock_offerAll (k : Nat) (d : Dev) : clock (offerAll k d) = clock d := by
  dsimp only [offerAll]
  split <;> simp

@[simp ↓] theorem clock_compareCycle (k : Nat) (d : Dev) : clock (compareCycle k d) = clock d := by
  dsimp only [compareCycle]
  split
  · refine clock_of_ite (by simp) ((clock_forEach _ _ _ fun i e => ?_).trans (by simp))
    split <;> simp
  · rfl

@[simp ↓] theorem clock_replRead (k batch i : Nat) (send_ : Bool) (st fmt : Nat) (pay plain : Bytes) (d : Dev) :
    clock (replRead k batch i send_ st fmt pay plain d) = clock d := by
  dsimp only [replRead]
  refine clock_of_ite (by simp) (clock_of_ite ?_ ?_)
  · split <;> simp
  · split <;> simp

@[simp ↓] theorem clock_noteSource (r : JRecord) (es : List SqEntry) (d : Dev) : clock (noteSource r es d) = clock d := by
  dsimp only [noteSource]
  simp

/-! ### Targets (R457, R459) -/

@[simp ↓] theorem clock_modIn (k num : Nat) (f : InBatch → InBatch) (d : Dev) : clock (modIn k num f d) = clock d := by
  dsimp only [modIn]
  simp

@[simp ↓] theorem clock_dropIn (k num : Nat) (d : Dev) : clock (dropIn k num d) = clock d := by
  dsimp only [dropIn]
  simp

@[simp ↓] theorem clock_modItem (k num i : Nat) (f : InItem → InItem) (d : Dev) : clock (modItem k num i f d) = clock d := by
  dsimp only [modItem]
  simp

@[simp ↓] theorem clock_offerHit (k g : Nat) (fp : Bytes) (d : Dev) : clock (offerHit k g fp d).2 = clock d := by
  dsimp only [offerHit]
  simp

@[simp ↓] theorem clock_applyStream (k : Nat) (d : Dev) : clock (applyStream k d) = clock d := by
  dsimp only [applyStream]
  split <;> simp

@[simp ↓] theorem clock_settleBatch (k num : Nat) (d : Dev) : clock (settleBatch k num d) = clock d := by
  dsimp only [settleBatch]
  split <;> simp

@[simp ↓] theorem clock_offerAnswer (k num i : Nat) (a : ProbeAns) (d : Dev) : clock (offerAnswer k num i a d) = clock d := by
  dsimp only [offerAnswer]
  split <;> simp

@[simp ↓] theorem clock_tryTargetCut (k : Nat) (d : Dev) : clock (tryTargetCut k d) = clock d := by
  dsimp only [tryTargetCut]
  split <;> simp

/-! ### What follows a cut (R442, R458, R461, R466) -/

@[simp ↓] theorem clock_rollTo (nsid sseq : Nat) (d : Dev) : clock (rollTo nsid sseq d) = clock d := by
  dsimp only [rollTo]
  simp

@[simp ↓] theorem clock_cutApplied (c : Cut) (d : Dev) : clock (cutApplied c d) = clock d := by
  dsimp only [cutApplied]
  split
  case h_6 => split <;> simp
  all_goals simp

@[simp ↓] theorem clock_squaresApplied (r : JRecord) (es : List SqEntry) (d : Dev) : clock (squaresApplied r es d) = clock d := by
  dsimp only [squaresApplied]
  split
  · split
    · simp
      split <;> simp
    · simp
      split <;> simp
  · simp
    split <;> simp

@[simp ↓] theorem clock_batchReady (k num : Nat) (d : Dev) : clock (batchReady k num d) = clock d := by
  dsimp only [batchReady]
  simp

/-! ### What follows a commit -/

@[simp ↓] theorem clock_armSegment (s : Nat) (d : Dev) : clock (armSegment s d) = clock d := by
  dsimp only [armSegment]
  simp

@[simp ↓] theorem clock_endRebuild (s : Nat) (d : Dev) : clock (endRebuild s d) = clock d := by
  dsimp only [endRebuild]
  simp

@[simp ↓] theorem clock_afterCommit (r : JRecord) (d : Dev) : clock (afterCommit r d) = clock d := by
  dsimp only [afterCommit]
  split
  case h_4 =>
    refine clock_foldl _ _ _ fun e x => ?_
    split <;> simp
  all_goals simp

/-! ### Tables and arithmetic (R474) -/

@[simp ↓] theorem clock_modDst (n : Nat) (f : CdtDst → CdtDst) (d : Dev) : clock (modDst n f d) = clock d := by
  dsimp only [modDst]
  simp

@[simp ↓] theorem clock_modPath (dev port : Nat) (f : CdtPath → CdtPath) (d : Dev) : clock (modPath dev port f d) = clock d := by
  dsimp only [modPath]
  simp

/-! ### Paths and presence (R470, R497) -/

@[simp ↓] theorem clock_resendMirror (port : Nat) (d : Dev) : clock (resendMirror port d) = clock d := by
  dsimp only [resendMirror]
  simp

@[simp ↓] theorem clock_sendPoolKeys (dev : Nat) (d : Dev) : clock (sendPoolKeys dev d) = clock d := by
  dsimp only [sendPoolKeys]
  simp

@[simp ↓] theorem clock_showPaths (d : Dev) : clock (showPaths d) = clock d := by
  dsimp only [showPaths]
  simp
  split <;> simp

/-! ### Sending (R474–R477, R480) -/

@[simp ↓] theorem clock_countCluster (dst port len : Nat) (d : Dev) : clock (countCluster dst port len d) = clock d := by
  dsimp only [countCluster]
  simp

@[simp ↓] theorem clock_emitPkt (dst port : Nat) (h : CdtHdr) (payload : Bytes) (reliable : Bool) (d : Dev) :
    clock (emitPkt dst port h payload reliable d) = clock d := by
  dsimp only [emitPkt]
  simp

@[simp ↓] theorem clock_pumpPath (dst port m : Nat) (d : Dev) : clock (pumpPath dst port m d) = clock d := by
  induction m generalizing d with
  | zero => rfl
  | succ m ih =>
    rw [pumpPath]
    dsimp only
    split <;> simp [ih]

@[simp ↓] theorem clock_sendPkts (dst port : Nat) (l : List CdtPkt) (d : Dev) : clock (sendPkts dst port l d) = clock d := by
  dsimp only [sendPkts]
  simp

@[simp ↓] theorem clock_openMsg (dst : Nat) (m : CdtMsg) (d : Dev) : clock (openMsg dst m d).2 = clock d := by
  dsimp only [openMsg]
  simp

/-! ### Reports (R256, R489, R491, R492) -/

@[simp ↓] theorem clock_advanceCdt (r m : Nat) (d : Dev) : clock (advanceCdt r m d) = clock d := by
  induction m generalizing d with
  | zero => rfl
  | succ m ih => rw [advanceCdt]; simp [ih]

@[simp ↓] theorem clock_reportDesc (r i status reason nak outcome bytes : Nat) (intr : Bool) (d : Dev) :
    clock (reportDesc r i status reason nak outcome bytes intr d) = clock d := by
  dsimp only [reportDesc]
  simp

@[simp ↓] theorem clock_endMsg (dst : Nat) (m : CdtMsg) (ok : Bool) (reason nak outcome bytes : Nat) (d : Dev) :
    clock (endMsg dst m ok reason nak outcome bytes d) = clock d := by
  dsimp only [endMsg]
  split
  · simp only [clock_reportDesc]
    split <;> simp
  · split <;> simp

@[simp ↓] theorem clock_failMsg (dst reason : Nat) (m : CdtMsg) (d : Dev) : clock (failMsg dst reason m d) = clock d := by
  dsimp only [failMsg]
  simp

@[simp ↓] theorem clock_failPath (dst port reason : Nat) (d : Dev) : clock (failPath dst port reason d) = clock d := by
  dsimp only [failPath]
  simp

@[simp ↓] theorem clock_cercoDown (p : Nat) (d : Dev) : clock (cercoDown p d) = clock d := by
  dsimp only [cercoDown]
  simp

/-! ### Messages of the internal queues (R652) -/

@[simp ↓] theorem clock_createInternal (x : Nat × Nat × Nat × Option Nat) (d : Dev) : clock (createInternal x d) = clock d := by
  dsimp only [createInternal]
  split <;> simp

@[simp ↓] theorem clock_pumpWaiting (m : Nat) (d : Dev) : clock (pumpWaiting m d) = clock d := by
  induction m generalizing d with
  | zero => rfl
  | succ m ih =>
    rw [pumpWaiting]
    split <;> simp [ih]

@[simp ↓] theorem clock_takeMessages (d : Dev) : clock (takeMessages d) = clock d := by
  dsimp only [takeMessages]
  simp

/-! ### Windows (R493–R495, Table 15.6) -/

@[simp ↓] theorem clock_winSetState (i st : Nat) (d : Dev) : clock (winSetState i st d) = clock d := by
  dsimp only [winSetState]
  simp

@[simp ↓] theorem clock_showPending (d : Dev) : clock (showPending d) = clock d := by
  dsimp only [showPending]
  simp

@[simp ↓] theorem clock_windowEdge (d : Dev) : clock (windowEdge d) = clock d := by
  dsimp only [windowEdge]
  simp

/-! ### What follows a command -/

@[simp ↓] theorem clock_reductionLost (unit : Nat) (d : Dev) : clock (reductionLost unit d) = clock d := by
  dsimp only [reductionLost]
  simp
  split <;> simp

@[simp ↓] theorem clock_react (t : Todo) (d : Dev) : clock (react t d) = clock d := by
  dsimp only [react]
  split <;> simp

@[simp ↓] theorem clock_drain (m : Nat) (d : Dev) : clock (drain m d) = clock d := by
  induction m generalizing d with
  | zero => rw [drain]; simp
  | succ m ih =>
    rw [drain]
    split <;> simp [ih]

/-! ### Tempo time -/

@[simp ↓] theorem clock_showTimeSrc (d : Dev) : clock (showTimeSrc d) = clock d := by
  dsimp only [showTimeSrc]
  simp

@[simp ↓] theorem clock_endPowerUpSrc (d : Dev) : clock (endPowerUpSrc d) = clock d := by
  dsimp only [endPowerUpSrc]
  simp

@[simp ↓] theorem clock_setPpsOut (v : Bool) (d : Dev) : clock (setPpsOut v d) = clock d := by
  dsimp only [setPpsOut]
  simp

@[simp ↓] theorem clock_ppsRise (d : Dev) : clock (ppsRise d) = clock d := by
  dsimp only [ppsRise]
  simp

@[simp ↓] theorem clock_ptpStamp (p : Nat) (sent : Bool) (cyc : Nat) (d : Dev) : clock (ptpStamp p sent cyc d) = clock d := by
  dsimp only [ptpStamp]
  simp

/-! ### Credit ledgers (R78–R83) -/

@[simp ↓] theorem clock_setLedger (unit cls : Nat) (l : Ledger) (d : Dev) : clock (setLedger unit cls l d) = clock d := by
  dsimp only [setLedger]
  simp

@[simp ↓] theorem clock_showResync (d : Dev) : clock (showResync d) = clock d := by
  dsimp only [showResync]
  simp

@[simp ↓] theorem clock_readLedger (unit cls : Nat) (d : Dev) : clock (readLedger unit cls d).2 = clock d := by
  dsimp only [readLedger]
  simp

/-! ### The audit of the credit ledgers (R80–R83) -/

@[simp ↓] theorem clock_ledgerFails (unit cls test : Nat) (expected found : Nat) (l : Ledger) (d : Dev) :
    clock (ledgerFails unit cls test expected found l d) = clock d := by
  dsimp only [ledgerFails]
  simp

@[simp ↓] theorem clock_auditLedger (unit cls : Nat) (d : Dev) : clock (auditLedger unit cls d) = clock d := by
  dsimp only [auditLedger]
  split <;> simp

@[simp ↓] theorem clock_upsetLedger (x : LedgerSample) (d : Dev) : clock (upsetLedger x d) = clock d := by
  dsimp only [upsetLedger]
  simp

@[simp ↓] theorem clock_latchLedgers (xs : List LedgerSample) (d : Dev) : clock (latchLedgers xs d) = clock d := by
  dsimp only [latchLedgers]
  simp

@[simp ↓] theorem clock_auditLedgers (d : Dev) : clock (auditLedgers d) = clock d := by
  dsimp only [auditLedgers]
  simp

@[simp ↓] theorem clock_consFails (code : Nat) (bit : Field) (unit expected found : Nat) (d : Dev) (h : OffNumber bit) :
    clock (consFails code bit unit expected found d) = clock d := by
  simp [consFails, h]

/-! ### The pool allocator (R86) -/

@[simp ↓] theorem clock_poolTake (p holder : Nat) (d : Dev) : clock (poolTake p holder d).2 = clock d := by
  dsimp only [poolTake]
  split <;> simp [clock_snd ‹pickFree _ _ = _›]

@[simp ↓] theorem clock_poolGive (p u holder : Nat) (d : Dev) : clock (poolGive p u holder d) = clock d := by
  dsimp only [poolGive]
  simp

/-! ### Regions, levels and crossings -/

@[simp ↓] theorem clock_modRegion (r : Nat) (f : Region → Region) (d : Dev) : clock (modRegion r f d) = clock d := by
  dsimp only [modRegion]
  simp

/-! ### Refusals (R598) -/

@[simp ↓] theorem clock_refuse (r cause kind who : Nat) (d : Dev) : clock (refuse r cause kind who d) = clock d := by
  dsimp only [refuse]
  simp

/-! ### Staging requests (R650) -/

@[simp ↓] theorem clock_stageRegion (r : Nat) (lvl adj : Option Nat) (d : Dev) : clock (stageRegion r lvl adj d) = clock d := by
  dsimp only [stageRegion]
  simp

/-! ### The tests of an edge (R595, R598) -/

@[simp ↓] theorem clock_lowerRegion (r l : Nat) (d : Dev) : clock (lowerRegion r l d) = clock d := by
  dsimp only [lowerRegion]
  simp

@[simp ↓] theorem clock_testLevel (r : Nat) (d : Dev) : clock (testLevel r d) = clock d := by
  dsimp only [testLevel]
  split
  · rfl
  · refine clock_of_ite (by simp) (clock_of_ite (by simp) ?_)
    split <;> simp

@[simp ↓] theorem clock_beginWake (r from_ : Nat) (d : Dev) : clock (beginWake r from_ d) = clock d := by
  dsimp only [beginWake]
  simp

@[simp ↓] theorem clock_askWake (r : Nat) (d : Dev) : clock (askWake r d) = clock d := by
  dsimp only [askWake]
  simp

@[simp ↓] theorem clock_testAdj (conditions : Nat → Nat → Dev → Option (Nat × Nat)) (r : Nat) (d : Dev) :
    clock (testAdj conditions r d) = clock d := by
  dsimp only [testAdj]
  split
  · rfl
  · refine clock_of_ite (by simp) (clock_of_ite ?_ (clock_of_ite (by simp) ?_))
    · split <;> simp
    · split <;> simp

@[simp ↓] theorem clock_testAdj3 (ownsGroup : Dev → Bool) (conditions : Dev → Option (Nat × Option Nat)) (d : Dev) :
    clock (testAdj3 ownsGroup conditions d) = clock d := by
  dsimp only [testAdj3]
  simp
  split <;> simp

@[simp ↓] theorem clock_showThrottle (d : Dev) : clock (showThrottle d) = clock d := by
  dsimp only [showThrottle]
  simp

/-! ### What an edge does (Table 2.3, power arbiter) -/

@[simp ↓] theorem clock_readSensors (temps : List Int) (mv : List Nat) (vinMv : Nat) (d : Dev) :
    clock (readSensors temps mv vinMv d) = clock d := by
  dsimp only [readSensors]
  simp

@[simp ↓] theorem clock_thermalChecks (d : Dev) : clock (thermalChecks d) = clock d := by
  dsimp only [thermalChecks]
  simp

@[simp ↓] theorem clock_measureCrossing (temps : List Int) (mv : List Nat) (p : Nat × Nat) (d : Dev) :
    clock (measureCrossing temps mv p d) = clock d := by
  dsimp only [measureCrossing]
  simp

@[simp ↓] theorem clock_forceRaises (d : Dev) : clock (forceRaises d) = clock d := by
  dsimp only [forceRaises]
  simp

@[simp ↓] theorem clock_applyEnvelope (d : Dev) : clock (applyEnvelope d) = clock d := by
  dsimp only [applyEnvelope]
  split <;> simp

@[simp ↓] theorem clock_returnGrants (d : Dev) : clock (returnGrants d) = clock d := by
  dsimp only [returnGrants]
  simp

@[simp ↓] theorem clock_takeGrant (q : TokReq) (d : Dev) : clock (takeGrant q d) = clock d := by
  dsimp only [takeGrant]
  split
  · simp
  · split <;> simp
  · rfl

@[simp ↓] theorem clock_expireRaises (short : Nat) (d : Dev) : clock (expireRaises short d) = clock d := by
  dsimp only [expireRaises]
  simp

@[simp ↓] theorem clock_auditTokens (d : Dev) : clock (auditTokens d) = clock d := by
  dsimp only [auditTokens]
  simp

@[simp ↓] theorem clock_grantRound (d : Dev) : clock (grantRound d) = clock d := by
  dsimp only [grantRound]
  simp
  split <;> simp

@[simp ↓] theorem clock_lowerForEnvelope (d : Dev) : clock (lowerForEnvelope d) = clock d := by
  dsimp only [lowerForEnvelope]
  simp
  split <;> simp

@[simp ↓] theorem clock_troubleEdge (d : Dev) : clock (troubleEdge d) = clock d := by
  dsimp only [troubleEdge]
  split <;> simp

/-! ### Cores: 0–63 the engines, 64 the King pair -/

@[simp ↓] theorem clock_modEngine (e : Nat) (f : Engine → Engine) (d : Dev) : clock (modEngine e f d) = clock d := by
  dsimp only [modEngine]
  simp

/-! ### Slices (R48–R52, R117–R119) -/

@[simp ↓] theorem clock_overrun (sl : Slice) (unit : Nat) (d : Dev) : clock (overrun sl unit d).2 = clock d := by
  dsimp only [overrun]
  simp

@[simp ↓] theorem clock_suspendSlices (d : Dev) : clock (suspendSlices d) = clock d := by
  dsimp only [suspendSlices]
  refine clock_forEach _ _ _ fun e d => ?_
  split <;> simp

/-! ### Slices of lanes (R47, R49, R53, R257–R259) -/

@[simp ↓] theorem clock_suspendLanes (d : Dev) : clock (suspendLanes d) = clock d := by
  dsimp only [suspendLanes]
  refine clock_forEach _ _ _ fun k d => clock_forEach _ _ _ fun n d => ?_
  split
  · split <;> simp
  · rfl

@[simp ↓] theorem clock_postLaneTokens (d : Dev) : clock (postLaneTokens d) = clock d := by
  dsimp only [postLaneTokens]
  simp

@[simp ↓] theorem clock_startLanes (d : Dev) : clock (startLanes d) = clock d := by
  dsimp only [startLanes]
  simp

/-! ### Resident slots (R308, R309) -/

@[simp ↓] theorem clock_putKinfo (n kind cls index gen loadseq size : Nat) (d : Dev) :
    clock (putKinfo n kind cls index gen loadseq size d) = clock d := by
  dsimp only [putKinfo]
  simp [kinfoOff]

@[simp ↓] theorem clock_zeroSlot (n : Nat) (d : Dev) : clock (zeroSlot n d) = clock d := by
  dsimp only [zeroSlot]
  simp

/-! ### Preemption (R301, R302) -/

@[simp ↓] theorem clock_decidePreempt (d : Dev) : clock (decidePreempt d) = clock d := by
  dsimp only [decidePreempt]
  simp

@[simp ↓] theorem clock_cipContext (b : Bytes) (done : Nat) (sealNo : Option Nat) (wrapped : Bool) (d : Dev) :
    clock (cipContext b done sealNo wrapped d).2 = clock d := by
  dsimp only [cipContext]
  simp

@[simp ↓] theorem clock_savePreempt (d : Dev) : clock (savePreempt d) = clock d := by
  dsimp only [savePreempt]
  refine clock_foldl _ _ _ fun d c => ?_
  split <;> simp

/-! ### Comparison (R507–R509, Table 16.3) -/

@[simp ↓] theorem clock_keepWindows (own : Bool) (window lo hi : Nat) (d : Dev) : clock (keepWindows own window lo hi d) = clock d := by
  dsimp only [keepWindows]
  simp

@[simp ↓] theorem clock_modRecheck (group window : Nat) (f : Recheck → Recheck) (d : Dev) :
    clock (modRecheck group window f d) = clock d := by
  dsimp only [modRecheck]
  simp

@[simp ↓] theorem clock_beginRecheck (group window : Nat) (d : Dev) : clock (beginRecheck group window d) = clock d := by
  dsimp only [beginRecheck]
  simp

@[simp ↓] theorem clock_compareDigests (d : Dev) : clock (compareDigests d) = clock d := by
  dsimp only [compareDigests]
  refine (clock_foldl _ _ _ fun d m => ?_).trans (by simp)
  refine (clock_forEach _ _ _ fun g d => ?_).trans (by simp)
  split <;> simp

/-! ### The owner table (R500, R516, R518, R622) -/

@[simp ↓] theorem clock_leave (d : Dev) : clock (leave d) = clock d := by
  dsimp only [leave]
  simp

@[simp ↓] theorem clock_resendStreams (d : Dev) : clock (resendStreams d) = clock d := by
  dsimp only [resendStreams]
  simp

@[simp ↓] theorem clock_switchOver (planned : Bool) (pages : Tab (Tab Bytes)) (d : Dev) :
    clock (switchOver planned pages d) = clock d := by
  dsimp only [switchOver]
  simp

@[simp ↓] theorem clock_applyAnaOwners (pages : Tab (Tab Bytes)) (d : Dev) : clock (applyAnaOwners pages d) = clock d := by
  dsimp only [applyAnaOwners]
  simp

/-! ### Planned castling (R518) -/

@[simp ↓] theorem clock_beginPlanned (d : Dev) : clock (beginPlanned d) = clock d := by
  dsimp only [beginPlanned]
  simp

@[simp ↓] theorem clock_anaEdge (peerMoves : Bool) (d : Dev) : clock (anaEdge peerMoves d) = clock d := by
  dsimp only [anaEdge]
  simp

@[simp ↓] theorem clock_writeFences (bits : Nat → Nat) (d : Dev) : clock (writeFences bits d) = clock d := by
  dsimp only [writeFences]
  simp

@[simp ↓] theorem clock_advancePlanned (d : Dev) : clock (advancePlanned d) = clock d := by
  dsimp only [advancePlanned]
  split <;> simp

/-! ### Rejoining (R519, R520) -/

@[simp ↓] theorem clock_copyMirrors (d : Dev) : clock (copyMirrors d) = clock d := by
  dsimp only [copyMirrors]
  simp

@[simp ↓] theorem clock_advanceRejoin (d : Dev) : clock (advanceRejoin d) = clock d := by
  dsimp only [advanceRejoin]
  split <;> simp

/-! ### Health and the choice of the master (R63, R64, R68) -/

@[simp ↓] theorem clock_stopFollowing (d : Dev) : clock (stopFollowing d) = clock d := by
  dsimp only [stopFollowing]
  simp

@[simp ↓] theorem clock_takeMaster (m : Nat) (d : Dev) : clock (takeMaster m d) = clock d := by
  dsimp only [takeMaster]
  simp

@[simp ↓] theorem clock_chooseMaster (d : Dev) : clock (chooseMaster d) = clock d := by
  dsimp only [chooseMaster]
  split <;> simp

@[simp ↓] theorem clock_loseMaster (d : Dev) : clock (loseMaster d) = clock d := by
  dsimp only [loseMaster]
  simp
  split <;> simp

/-! ### Members and rebuild (R423–R434) -/

@[simp ↓] theorem clock_closeMember (m : Nat) (d : Dev) : clock (closeMember m d) = clock d := by
  dsimp only [closeMember]
  simp

/-! ### Wrapped keys -/

@[simp ↓] theorem clock_wrapBoth (ctx : Nat) (key : Bytes) (d : Dev) : clock (wrapBoth ctx key d).2.2 = clock d := by
  dsimp only [wrapBoth]
  simp

/-! ### Import and transfer (R306, R310) -/

@[simp ↓] theorem clock_nextGeneration (n : Nat) (k : KeyDesc) (w : WrappedKey) (imported : Bool) (kmid a b : Bytes) (d : Dev) :
    clock (nextGeneration n k w imported kmid a b d) = clock d := by
  dsimp only [nextGeneration]
  simp

@[simp ↓] theorem clock_distribute (n gen : Nat) (d : Dev) : clock (distribute n gen d) = clock d := by
  dsimp only [distribute]
  simp

/-! ### Rotation and removal (R311, R313, R314) -/

@[simp ↓] theorem clock_rotateDomain (n : Nat) (d : Dev) : clock (rotateDomain n d) = clock d := by
  dsimp only [rotateDomain]
  split
  · simp [clock_snd ‹readWkt _ _ = _›]
  · split <;> simp [clock_snd ‹readWkt _ _ = _›]

@[simp ↓] theorem clock_zeroSlotsWhere (p : Nat → Nat → Nat → Bool) (d : Dev) : clock (zeroSlotsWhere p d) = clock d := by
  dsimp only [zeroSlotsWhere]
  simp

@[simp ↓] theorem clock_removeDomainKeys (n : Nat) (d : Dev) : clock (removeDomainKeys n d) = clock d := by
  dsimp only [removeDomainKeys]
  simp

@[simp ↓] theorem clock_restoreWkt (n : Nat) (d : Dev) : clock (restoreWkt n d) = clock d := by
  dsimp only [restoreWkt]
  simp

/-! ### What an image sets -/

@[simp ↓] theorem clock_showFwdl (d : Dev) : clock (showFwdl d) = clock d := by
  dsimp only [showFwdl]
  simp

/-! ### Measurement registers (R540) -/

@[simp ↓] theorem clock_mrExtend (n : Nat) (x : Bytes) (d : Dev) : clock (mrExtend n x d) = clock d := by
  dsimp only [mrExtend]
  simp

/-! ### The table in force and its copies (R547) -/

@[simp ↓] theorem clock_showSpt (d : Dev) : clock (showSpt d) = clock d := by
  dsimp only [showSpt]
  simp

@[simp ↓] theorem clock_storeSpt (before : Nat) (d : Dev) : clock (storeSpt before d) = clock d := by
  dsimp only [storeSpt]
  split <;> simp

/-! ### Applying a move (R552, Table 18.10) -/

@[simp ↓] theorem clock_editSpt (e : SptEntry) (f : Spt → Spt) (d : Dev) : clock (editSpt e f d) = clock d := by
  dsimp only [editSpt]
  simp

@[simp ↓] theorem clock_keyForDomain (n : Nat) (enc verifier : Bool) (blob : Option Bytes) (d : Dev) :
    clock (keyForDomain n enc verifier blob d) = clock d := by
  dsimp only [keyForDomain]
  simp
  split <;> simp

@[simp ↓] theorem clock_unlockDebug (scope : Nat) (d : Dev) : clock (unlockDebug scope d) = clock d := by
  dsimp only [unlockDebug]
  simp

@[simp ↓] theorem clock_setDomain (n : Nat) (x : SptDomain) (d : Dev) : clock (setDomain n x d) = clock d := by
  dsimp only [setDomain]
  simp

@[simp ↓] theorem clock_setPeer (n : Nat) (x : SptPeer) (d : Dev) : clock (setPeer n x d) = clock d := by
  dsimp only [setPeer]
  simp

@[simp ↓] theorem clock_removeDomain (n : Nat) (d : Dev) : clock (removeDomain n d) = clock d := by
  dsimp only [removeDomain]
  simp

@[simp ↓] theorem clock_applyOp (verifier : Bool) (o : MoveOp) (d : Dev) : clock (applyOp verifier o d) = clock d := by
  dsimp only [applyOp]
  split
  case h_2 =>
    split
    · simp
    · split
      · simp
      · split
        · split <;> simp [clock_snd ‹readWkt _ _ = _›]
        · simp
  all_goals simp

@[simp ↓] theorem clock_applyStaged (d : Dev) : clock (applyStaged d) = clock d := by
  dsimp only [applyStaged]
  split <;> simp

/-! ### Cycle E: the tempo number, staged policy, windows (R45) -/

@[simp ↓] theorem clock_ageChallenge (d : Dev) : clock (ageChallenge d) = clock d := by
  dsimp only [ageChallenge]
  split <;> simp

@[simp ↓] theorem clock_testEdge (d : Dev) : clock (testEdge d) = clock d := by
  dsimp only [testEdge]
  simp

@[simp ↓] theorem clock_ownersEdge (pages : Tab (Tab Bytes)) (d : Dev) : clock (ownersEdge pages d) = clock d := by
  dsimp only [ownersEdge]
  simp

@[simp ↓] theorem clock_attachOne (x : Nat × Nat × Bool) (d : Dev) : clock (attachOne x d) = clock d := by
  dsimp only [attachOne]
  simp

@[simp ↓] theorem clock_listPorts (d : Dev) : clock (listPorts d) = clock d := by
  dsimp only [listPorts]
  simp

@[simp ↓] theorem clock_listPeer (m : Option (BitVec 32)) (d : Dev) : clock (listPeer m d) = clock d := by
  dsimp only [listPeer]
  split <;> simp

@[simp ↓] theorem clock_frontEdge (d : Dev) : clock (frontEdge d) = clock d := by
  dsimp only [frontEdge]
  split <;> simp

@[simp ↓] theorem clock_mirrorEdge (d : Dev) : clock (mirrorEdge d) = clock d := by
  dsimp only [mirrorEdge]
  simp

@[simp ↓] theorem clock_snapEdge (d : Dev) : clock (snapEdge d) = clock d := by
  dsimp only [snapEdge]
  simp

@[simp ↓] theorem clock_declareMember (m : Nat) (d : Dev) : clock (declareMember m d) = clock d := by
  dsimp only [declareMember]
  simp

@[simp ↓] theorem clock_membersEdge (d : Dev) : clock (membersEdge d) = clock d := by
  dsimp only [membersEdge]
  simp

@[simp ↓] theorem clock_peerEdge (d : Dev) : clock (peerEdge d) = clock d := by
  dsimp only [peerEdge]
  simp

@[simp ↓] theorem clock_takeRequest (q : FwRequest) (d : Dev) : clock (takeRequest q d) = clock d := by
  dsimp only [takeRequest]
  split
  case h_5 => split <;> simp [clock_snd ‹poolTake _ _ _ = _›]
  all_goals simp

@[simp ↓] theorem clock_ptpSends (l : List FwRequest) (d : Dev) : clock (ptpSends l d) = clock d := by
  dsimp only [ptpSends]
  refine clock_foldl _ _ _ fun e q => ?_
  split <;> simp

@[simp ↓] theorem clock_policyEdge (e : EdgeSample) (d : Dev) : clock (policyEdge e d) = clock d := by
  dsimp only [policyEdge]
  simp

/-! ### Power (R46, R80, R89, R605–R613) -/

@[simp ↓] theorem clock_fixEnvelope (d : Dev) : clock (fixEnvelope d) = clock d := by
  dsimp only [fixEnvelope]
  simp

@[simp ↓] theorem clock_powerEdge (e : EdgeSample) (d : Dev) : clock (powerEdge e d) = clock d := by
  dsimp only [powerEdge]
  simp

@[simp ↓] theorem clock_grantEdge (d : Dev) : clock (grantEdge d) = clock d := by
  dsimp only [grantEdge]
  simp

/-! ### Slices and lane jobs (R47–R54) -/

@[simp ↓] theorem clock_lanesEdge (d : Dev) : clock (lanesEdge d) = clock d := by
  dsimp only [lanesEdge]
  simp

/-! ### The ledgers of Table 3.5 audited at every edge -/

@[simp ↓] theorem clock_auditCommands (d : Dev) : clock (auditCommands d) = clock d := by
  dsimp only [auditCommands]
  simp

@[simp ↓] theorem clock_auditMessages (d : Dev) : clock (auditMessages d) = clock d := by
  dsimp only [auditMessages]
  simp

/-! ### E+32: the Cerco transport (R43, R484) -/

@[simp ↓] theorem clock_cercoEdge (d : Dev) : clock (cercoEdge d) = clock d := by
  dsimp only [cercoEdge]
  simp

/-! ### The edge (R41) -/

theorem ptpSends_regs (l : List FwRequest) (d : Dev) : (ptpSends l d).regs = d.regs := by
  unfold ptpSends
  induction l generalizing d with
  | nil => rfl
  | cons q r ih =>
    rw [List.foldl_cons, ih]
    split
    · split <;> rfl
    · rfl

theorem periodNs_ptpSends (l : List FwRequest) (d : Dev) : periodNs (ptpSends l d) = periodNs d := by
  simp only [periodNs, rd, ptpSends_regs]

/-- What one edge makes of the clock: the next number, and the next whole multiple of the period `p` (R37, R41). -/
def nextClock (p : Nat) (c : Nat × Nat × Nat) : Nat × Nat × Nat :=
  let n := (c.2.2 / p + 1) * p
  ((c.1 + 1) % 2 ^ 64, (c.2.1 + n / 1000000000) % 2 ^ 48, n % 1000000000)

theorem tempoNow_advanceClock (d : Dev) : tempoNow (advanceClock d) = (tempoNow d + 1) % 2 ^ 64 := by
  dsimp only [tempoNow, advanceClock]
  rw [rd_wr_same (by decide), rd_wr_off (by decide)]
  rfl

theorem clock_advanceClock (d : Dev) : clock (advanceClock d) = nextClock (periodNs d) (clock d) := by
  rw [clock, tempoNow_advanceClock]
  rfl

theorem clock_edge (e : EdgeSample) (d : Dev) : clock (edge e d) = nextClock (periodNs d) (clock d) := by
  have hsends : clock (advanceClock (ptpSends e.firmware d)) = nextClock (periodNs d) (clock d) := by
    rw [clock_advanceClock, periodNs_ptpSends, clock_ptpSends]
  dsimp only [edge]
  simp [hsends]

theorem clock_finish (d : Dev) : clock (finish d) = clock d := by
  dsimp only [finish]
  simp

theorem execTempoEdge_live (e : EdgeSample) (s : State) (hlive : s.dev.live = true) (hreset : s.dev.pwr.resetStaged = false) :
    execTempoEdge e s = .next ⟨finish (edge e s.dev.quiet), s.pending⟩ := by
  have hquiet : s.dev.quiet.live = true := hlive
  simp [execTempoEdge, run_eq, hquiet, hreset]

/-- Settles O11. The clock moves once, at the head of the edge (`advanceClock`); the firmware's departures before it, the rest of the edge
and the reactions that follow keep it. -/
theorem edgeAdvancesTempoNumber : Obligations.EdgeAdvancesTempoNumber := by
  unfold Obligations.EdgeAdvancesTempoNumber
  intro s e hready hreset
  refine ⟨_, execTempoEdge_live e s hready.1 hreset, rfl, ?_⟩
  have hclock : clock (finish (edge e s.dev.quiet)) = nextClock (periodNs s.dev) (clock s.dev) :=
    (clock_finish _).trans (clock_edge e s.dev.quiet)
  simpa only [clock, nextClock, Prod.mk.injEq] using hclock

end Sys2Proof.Proofs

/-!
PROOFS. O10: the runs of R60 and R61, and LOCK. What a Notice keeps; what ends the power-up source of the time; what one sample and one
time-out do to the runs and to TMP_STATUS; then the commands.
-/

namespace Sys2Proof.Proofs

open Sys2Proof Sys2Proof.Machine

/-! ### A Notice keeps tempo time, the reactions owed and every register outside the fault unit and the Scoresheet -/

theorem keptBut_setScr {bs : List Nat} (d : Dev) (x : Scr) : KeptBut bs d { d with scr := x } :=
  ⟨rfl, rfl, rfl, rfl, rfl, fun _ _ _ => rfl⟩

theorem keptBut_countLost (d : Dev) : KeptBut [4, 5] d (countLost d) :=
  (keptBut_setScr d { d.scr with lost := d.scr.lost + 1 }).trans ((KeptBut.bump _ _ (by decide)).trans (.setb _ _ (by decide)))

theorem keptBut_holdRecord (r : ScoreRecord) (d : Dev) : KeptBut [4, 5] d (holdRecord r d) := by
  have hput (q : List ScoreRecord) (e : Dev) : KeptBut [4, 5] e (wr Reg.SCR_STATUS_HOLD q.length { e with scr.holdq := q }) :=
    (keptBut_setScr e { e.scr with holdq := q }).trans (.wr _ _ _ (by decide))
  unfold holdRecord
  refine .ite _ (fun _ => hput _ d) fun _ => .ite _ (fun _ => keptBut_countLost d) fun _ => ?_
  split
  · exact (keptBut_countLost d).trans (hput _ _)
  · exact keptBut_countLost d

theorem keptBut_writeRecord (r : ScoreRecord) (d : Dev) : KeptBut [4, 5] d (writeRecord r d) := by
  have hplaced (x : Scr) (i n : Nat) : KeptBut [4, 5] d (wr Reg.SCR_SEQ_NEXT n (wr Reg.SCR_PTR_VIDX i { d with scr := x })) :=
    (keptBut_setScr d x).trans ((KeptBut.wr _ i _ (by decide)).trans (.wr _ n _ (by decide)))
  unfold writeRecord
  refine .ite _ (fun _ => .ite _ (fun _ => ?_) fun _ => ?_) fun _ => hplaced _ _ _
  · exact (hplaced _ _ _).trans (keptBut_setScr _ _)
  · exact (hplaced _ _ _).trans ((KeptBut.bump _ _ (by decide)).trans (.setb _ _ (by decide)))

theorem keptBut_recordEvent (cls : EvClass) (code unit data0 data1 : Nat) (escalated : Bool) (d : Dev) :
    KeptBut [4, 5] d (recordEvent cls code unit data0 data1 escalated d) := by
  unfold recordEvent
  refine .ite _ (fun _ => keptBut_setScr d _) fun _ => .ite _ (fun _ => ?_) fun _ => ?_
  · exact (keptBut_setScr d _).trans (keptBut_holdRecord _ _)
  · exact (keptBut_setScr d _).trans (keptBut_writeRecord _ _)

theorem keptBut_notice (code unit data0 data1 : Nat) (d : Dev) : KeptBut [4, 5] d (notice code unit data0 data1 d) :=
  .trans (KeptBut.bump _ _ (by decide)) (keptBut_recordEvent _ _ _ _ _ _ _)

@[simp] theorem setb_tmp (f : Field) (d : Dev) : (setb f d).tmp = d.tmp := rfl
@[simp] theorem clr_tmp (f : Field) (d : Dev) : (clr f d).tmp = d.tmp := rfl
@[simp] theorem setb_todo (f : Field) (d : Dev) : (setb f d).todo = d.todo := rfl
@[simp] theorem clr_todo (f : Field) (d : Dev) : (clr f d).todo = d.todo := rfl
@[simp] theorem bump_tmp (f : Field) (d : Dev) : (bump f d).tmp = d.tmp := bumpBy_tmp f 1 d
@[simp] theorem countLost_tmp (d : Dev) : (countLost d).tmp = d.tmp := by simp [countLost]

@[simp] theorem holdRecord_tmp (r : ScoreRecord) (d : Dev) : (holdRecord r d).tmp = d.tmp := by
  have hput (q : List ScoreRecord) (e : Dev) : (wr Reg.SCR_STATUS_HOLD q.length { e with scr.holdq := q }).tmp = e.tmp := by
    rw [wr_tmp]
  dsimp only [holdRecord]
  split
  · exact hput _ d
  · split
    · exact countLost_tmp d
    · split
      · exact (hput _ _).trans (countLost_tmp d)
      · exact countLost_tmp d

@[simp] theorem writeRecord_tmp (r : ScoreRecord) (d : Dev) : (writeRecord r d).tmp = d.tmp := by
  dsimp only [writeRecord]
  simp [apply_ite Dev.tmp]

@[simp] theorem recordEvent_tmp (cls : EvClass) (code unit data0 data1 : Nat) (escalated : Bool) (d : Dev) :
    (recordEvent cls code unit data0 data1 escalated d).tmp = d.tmp := by
  dsimp only [recordEvent]
  simp [apply_ite Dev.tmp]

@[simp] theorem notice_tmp (code unit data0 data1 : Nat) (d : Dev) : (notice code unit data0 data1 d).tmp = d.tmp := by
  simp [notice]

@[simp] theorem notice_todo (code unit data0 data1 : Nat) (d : Dev) : (notice code unit data0 data1 d).todo = d.todo :=
  (keptBut_notice code unit data0 data1 d).todo

theorem rd_notice {f : Field} (hb : f.off / 0x100000 ∉ [4, 5]) (ha : f.off ∉ ambientRegs) (code unit data0 data1 : Nat) (d : Dev) :
    rd f (notice code unit data0 data1 d) = rd f d := by
  have hreg := (keptBut_notice code unit data0 data1 d).regs f.off hb ha
  simp only [rdReg] at hreg
  simp only [rd, hreg]

/-! ### LOCK clears (R61) -/

theorem lock_eq_one {d : Dev} (h : rd Reg.TMP_STATUS_LOCK d ≠ 0) : rd Reg.TMP_STATUS_LOCK d = 1 := by
  have hlt : rd Reg.TMP_STATUS_LOCK d < 2 := rd_lt Reg.TMP_STATUS_LOCK d
  omega

theorem loseLock_of_clear {d : Dev} (h : rd Reg.TMP_STATUS_LOCK d = 0) : loseLock d = d := by simp [loseLock, rdb, h]

theorem loseLock_of_set {d : Dev} (h : rd Reg.TMP_STATUS_LOCK d = 1) :
    loseLock d = notice Ev.TEMPO_LOCK 0 0 0
      (setb Reg.TMP_STATUS_HOLDOVER (setb Reg.TMP_STATUS_LOCK_LOST (clr Reg.TMP_STATUS_LOCK d))) := by
  simp [loseLock, rdb, h]

@[simp] theorem loseLock_tmp (d : Dev) : (loseLock d).tmp = d.tmp := by
  rw [loseLock, apply_ite Dev.tmp, notice_tmp, setb_tmp, setb_tmp, clr_tmp, ite_self]

@[simp] theorem loseLock_todo (d : Dev) : (loseLock d).todo = d.todo := by
  rw [loseLock, apply_ite Dev.todo, notice_todo, setb_todo, setb_todo, clr_todo, ite_self]

/-- With LOCK set: LOCK clears, LOCK_LOST and HOLDOVER are set. -/
theorem rd_loseLock_of_set {d : Dev} (h : rd Reg.TMP_STATUS_LOCK d = 1) :
    rd Reg.TMP_STATUS_LOCK (loseLock d) = 0 ∧ rd Reg.TMP_STATUS_LOCK_LOST (loseLock d) = 1 ∧
      rd Reg.TMP_STATUS_HOLDOVER (loseLock d) = 1 := by
  rw [loseLock_of_set h, rd_notice (by decide) (by decide), rd_notice (by decide) (by decide), rd_notice (by decide) (by decide)]
  refine ⟨?_, ?_, ?_⟩
  · rw [setb, rd_wr_apart (by decide) (by decide) (by decide), setb, rd_wr_apart (by decide) (by decide) (by decide), clr,
      rd_wr_same (by decide)]
    rfl
  · rw [setb, rd_wr_apart (by decide) (by decide) (by decide), setb, rd_wr_same (by decide)]
    rfl
  · rw [setb, rd_wr_same (by decide)]
    rfl

theorem lock_loseLock (d : Dev) : rd Reg.TMP_STATUS_LOCK (loseLock d) = 0 := by
  by_cases h : rd Reg.TMP_STATUS_LOCK d = 0
  · rw [loseLock_of_clear h, h]
  · exact (rd_loseLock_of_set (lock_eq_one h)).1

/-! ### The power-up source of the time ends (R649) -/

theorem endPowerUpSrc_eq (d : Dev) : endPowerUpSrc d =
    wr Reg.TMP_STATUS_TIME_SRC (if d.tmp.following then 6 else 3 + rd Reg.TMP_CTRL_SRC d) { d with tmp.powerUpSrc := false } := rfl

theorem rd_endPowerUpSrc {f : Field} (hf : f.fits) (ha : Reg.TMP_STATUS_TIME_SRC.apart f) (d : Dev) :
    rd f (endPowerUpSrc d) = rd f d := by
  rw [endPowerUpSrc_eq, rd_wr_apart (by decide) hf ha]
  rfl

/-! ### One sample (R60, R61) -/

/-- The sample is taken, with its time; the power-up source ends. -/
def takeSample (cyc : Nat) (d : Dev) : Dev := endPowerUpSrc { d with tmp.lastSample := nsAt cyc d }

/-- One more sample in a row within the threshold. -/
def countInside (d : Dev) : Dev :=
  if min (d.tmp.inRun + 1) 16 = 16 then
    clr Reg.TMP_STATUS_HOLDOVER (setb Reg.TMP_STATUS_LOCK { d with tmp.inRun := min (d.tmp.inRun + 1) 16, tmp.outRun := 0 })
  else { d with tmp.inRun := min (d.tmp.inRun + 1) 16, tmp.outRun := 0 }

/-- One more sample in a row outside the threshold. -/
def countOutside (d : Dev) : Dev :=
  if min (d.tmp.outRun + 1) 4 = 4 then loseLock { d with tmp.inRun := 0, tmp.outRun := min (d.tmp.outRun + 1) 4 }
  else { d with tmp.inRun := 0, tmp.outRun := min (d.tmp.outRun + 1) 4 }

/-- OFFSET_SAMPLE in these parts. -/
def offsetEffect (v : BitVec 32) (cyc : Nat) (d : Dev) : Dev :=
  if v.toInt.natAbs ≤ rd Reg.TMP_CTRL_LOCK_THR (takeSample cyc d) then countInside (takeSample cyc d) else countOutside (takeSample cyc d)

theorem exec_offsetSample (v : BitVec 32) (cyc : Nat) (s : State) :
    exec (.offsetSample v cyc) s = runLive (offsetEffect v cyc) s := rfl

theorem takeSample_tmp (cyc : Nat) (d : Dev) :
    (takeSample cyc d).tmp = { d.tmp with lastSample := nsAt cyc d, powerUpSrc := false } := rfl

theorem takeSample_todo (cyc : Nat) (d : Dev) : (takeSample cyc d).todo = d.todo := rfl

theorem rd_takeSample {f : Field} (hf : f.fits) (ha : Reg.TMP_STATUS_TIME_SRC.apart f) (cyc : Nat) (d : Dev) :
    rd f (takeSample cyc d) = rd f d := rd_endPowerUpSrc hf ha _

theorem countInside_tmp (d : Dev) : (countInside d).tmp = { d.tmp with inRun := min (d.tmp.inRun + 1) 16, outRun := 0 } := by
  unfold countInside
  split <;> rfl

theorem countInside_todo (d : Dev) : (countInside d).todo = d.todo := by
  rw [countInside, apply_ite Dev.todo, clr_todo, setb_todo, ite_self]

theorem rd_countInside_sixteenth {d : Dev} (h : 15 ≤ d.tmp.inRun) :
    rd Reg.TMP_STATUS_LOCK (countInside d) = 1 ∧ rd Reg.TMP_STATUS_HOLDOVER (countInside d) = 0 := by
  rw [countInside, if_pos (by omega)]
  constructor
  · rw [clr, rd_wr_apart (by decide) (by decide) (by decide), setb, rd_wr_same (by decide)]
    rfl
  · rw [clr, rd_wr_same (by decide)]
    rfl

theorem lock_countInside_sooner {d : Dev} (h : d.tmp.inRun < 15) :
    rd Reg.TMP_STATUS_LOCK (countInside d) = rd Reg.TMP_STATUS_LOCK d := by
  rw [countInside, if_neg (by omega)]
  rfl

theorem countOutside_tmp (d : Dev) : (countOutside d).tmp = { d.tmp with inRun := 0, outRun := min (d.tmp.outRun + 1) 4 } := by
  unfold countOutside
  split <;> simp

theorem countOutside_todo (d : Dev) : (countOutside d).todo = d.todo := by
  unfold countOutside
  split <;> simp

theorem rd_countOutside_fourth {d : Dev} (h : 3 ≤ d.tmp.outRun) : rd Reg.TMP_STATUS_LOCK (countOutside d) = 0 ∧
    (rd Reg.TMP_STATUS_LOCK d = 1 →
      rd Reg.TMP_STATUS_LOCK_LOST (countOutside d) = 1 ∧ rd Reg.TMP_STATUS_HOLDOVER (countOutside d) = 1) := by
  rw [countOutside, if_pos (by omega)]
  exact ⟨lock_loseLock _, fun hlock =>
    (rd_loseLock_of_set (d := { d with tmp.inRun := 0, tmp.outRun := min (d.tmp.outRun + 1) 4 }) hlock).2⟩

theorem lock_countOutside_sooner {d : Dev} (h : d.tmp.outRun < 3) :
    rd Reg.TMP_STATUS_LOCK (countOutside d) = rd Reg.TMP_STATUS_LOCK d := by
  rw [countOutside, if_neg (by omega)]
  rfl

theorem offsetEffect_of_inside {v : BitVec 32} {d : Dev} (h : v.toInt.natAbs ≤ rd Reg.TMP_CTRL_LOCK_THR d) (cyc : Nat) :
    offsetEffect v cyc d = countInside (takeSample cyc d) := by
  rw [offsetEffect, rd_takeSample (by decide) (by decide), if_pos h]

theorem offsetEffect_of_outside {v : BitVec 32} {d : Dev} (h : rd Reg.TMP_CTRL_LOCK_THR d < v.toInt.natAbs) (cyc : Nat) :
    offsetEffect v cyc d = countOutside (takeSample cyc d) := by
  rw [offsetEffect, rd_takeSample (by decide) (by decide), if_neg (by omega)]

theorem offsetEffect_lastSample (v : BitVec 32) (cyc : Nat) (d : Dev) : (offsetEffect v cyc d).tmp.lastSample = nsAt cyc d := by
  unfold offsetEffect
  split
  · rw [countInside_tmp, takeSample_tmp]
  · rw [countOutside_tmp, takeSample_tmp]

theorem offsetEffect_todo (v : BitVec 32) (cyc : Nat) (d : Dev) : (offsetEffect v cyc d).todo = d.todo := by
  unfold offsetEffect
  split
  · rw [countInside_todo, takeSample_todo]
  · rw [countOutside_todo, takeSample_todo]

/-! ### 3 s without a sample (R61) -/

/-- OFFSET_SAMPLE_TIMEOUT. -/
def timeoutEffect (cyc : Nat) (d : Dev) : Dev :=
  if rdb Reg.TMP_STATUS_LOCK d && nsAt cyc d ≥ d.tmp.lastSample + 3000000000 then loseLock { d with tmp.inRun := 0 } else d

theorem exec_offsetSampleTimeout (cyc : Nat) (s : State) :
    exec (.offsetSampleTimeout cyc) s = runLive (timeoutEffect cyc) s := rfl

theorem timeoutEffect_of_due {cyc : Nat} {d : Dev} (hdue : d.tmp.lastSample + 3000000000 ≤ nsAt cyc d)
    (hlock : rd Reg.TMP_STATUS_LOCK d = 1) : timeoutEffect cyc d = loseLock { d with tmp.inRun := 0 } := by
  simp [timeoutEffect, rdb, hlock, hdue]

theorem timeoutEffect_of_not_due {cyc : Nat} {d : Dev}
    (h : nsAt cyc d < d.tmp.lastSample + 3000000000 ∨ rd Reg.TMP_STATUS_LOCK d = 0) : timeoutEffect cyc d = d := by
  obtain hsoon | hclear := h
  · simp [timeoutEffect, hsoon]
  · simp [timeoutEffect, rdb, hclear]

/-! ### The commands -/

theorem offsetSample_answers (s : State) (hready : s.ready) (v : BitVec 32) (cyc : Nat) : Answers (.offsetSample v cyc) s fun d =>
    d.tmp.lastSample = nsAt cyc s.dev ∧
    (v.toInt.natAbs ≤ rd Reg.TMP_CTRL_LOCK_THR s.dev →
      d.tmp.inRun = min (s.dev.tmp.inRun + 1) 16 ∧ d.tmp.outRun = 0 ∧
      (15 ≤ s.dev.tmp.inRun → rd Reg.TMP_STATUS_LOCK d = 1 ∧ rd Reg.TMP_STATUS_HOLDOVER d = 0) ∧
      (s.dev.tmp.inRun < 15 → rd Reg.TMP_STATUS_LOCK d = rd Reg.TMP_STATUS_LOCK s.dev)) ∧
    (rd Reg.TMP_CTRL_LOCK_THR s.dev < v.toInt.natAbs →
      d.tmp.inRun = 0 ∧ d.tmp.outRun = min (s.dev.tmp.outRun + 1) 4 ∧
      (3 ≤ s.dev.tmp.outRun → rd Reg.TMP_STATUS_LOCK d = 0 ∧
        (rd Reg.TMP_STATUS_LOCK s.dev = 1 → rd Reg.TMP_STATUS_LOCK_LOST d = 1 ∧ rd Reg.TMP_STATUS_HOLDOVER d = 1)) ∧
      (s.dev.tmp.outRun < 3 → rd Reg.TMP_STATUS_LOCK d = rd Reg.TMP_STATUS_LOCK s.dev)) := by
  obtain ⟨hlive, htodo⟩ := hready
  have htaken : rd Reg.TMP_STATUS_LOCK (takeSample cyc s.dev.quiet) = rd Reg.TMP_STATUS_LOCK s.dev :=
    rd_takeSample (by decide) (by decide) cyc s.dev.quiet
  have hinRun : (takeSample cyc s.dev.quiet).tmp.inRun = s.dev.tmp.inRun := by rw [takeSample_tmp, quiet_tmp]
  have houtRun : (takeSample cyc s.dev.quiet).tmp.outRun = s.dev.tmp.outRun := by rw [takeSample_tmp, quiet_tmp]
  refine answers_live (exec_offsetSample v cyc s) hlive ((offsetEffect_todo ..).trans htodo) fun e he => ?_
  rw [he.tmp, he.rd (f := Reg.TMP_STATUS_LOCK) (by decide), he.rd (f := Reg.TMP_STATUS_LOCK_LOST) (by decide),
    he.rd (f := Reg.TMP_STATUS_HOLDOVER) (by decide)]
  refine ⟨offsetEffect_lastSample .., fun hin => ?_, fun hout => ?_⟩
  · rw [offsetEffect_of_inside (d := s.dev.quiet) hin, countInside_tmp, ← htaken, ← hinRun]
    exact ⟨rfl, rfl, rd_countInside_sixteenth, lock_countInside_sooner⟩
  · rw [offsetEffect_of_outside (d := s.dev.quiet) hout, countOutside_tmp, ← htaken, ← houtRun]
    exact ⟨rfl, rfl, rd_countOutside_fourth, lock_countOutside_sooner⟩

theorem offsetSampleTimeout_answers_of_due (s : State) (hready : s.ready) (cyc : Nat)
    (hdue : s.dev.tmp.lastSample + 3000000000 ≤ nsAt cyc s.dev) (hlock : rd Reg.TMP_STATUS_LOCK s.dev = 1) :
    Answers (.offsetSampleTimeout cyc) s fun d =>
      rd Reg.TMP_STATUS_LOCK d = 0 ∧ rd Reg.TMP_STATUS_LOCK_LOST d = 1 ∧ rd Reg.TMP_STATUS_HOLDOVER d = 1 := by
  obtain ⟨hlive, htodo⟩ := hready
  have heffect : timeoutEffect cyc s.dev.quiet = loseLock { s.dev.quiet with tmp.inRun := 0 } := timeoutEffect_of_due hdue hlock
  refine answers_live (exec_offsetSampleTimeout cyc s) hlive ?_ fun e he => ?_
  · rw [heffect, loseLock_todo]
    exact htodo
  · rw [he.rd (f := Reg.TMP_STATUS_LOCK) (by decide), he.rd (f := Reg.TMP_STATUS_LOCK_LOST) (by decide),
      he.rd (f := Reg.TMP_STATUS_HOLDOVER) (by decide), heffect]
    exact rd_loseLock_of_set hlock

theorem offsetSampleTimeout_answers_of_not_due (s : State) (hready : s.ready) (cyc : Nat)
    (h : nsAt cyc s.dev < s.dev.tmp.lastSample + 3000000000 ∨ rd Reg.TMP_STATUS_LOCK s.dev = 0) :
    Answers (.offsetSampleTimeout cyc) s fun d => d.tmp = s.dev.tmp ∧ rd Reg.TMP_STATUS_LOCK d = rd Reg.TMP_STATUS_LOCK s.dev := by
  obtain ⟨hlive, htodo⟩ := hready
  have heffect : timeoutEffect cyc s.dev.quiet = s.dev.quiet := timeoutEffect_of_not_due h
  refine answers_live (exec_offsetSampleTimeout cyc s) hlive ?_ fun e he => ?_
  · rw [heffect]
    exact htodo
  · rw [he.tmp, he.rd (f := Reg.TMP_STATUS_LOCK) (by decide), heffect]
    exact ⟨rfl, rfl⟩

/-- Settles O10, by what a sample and a time-out do to the runs and to TMP_STATUS; the end of a command moves neither. -/
theorem offsetSamplesSetAndClearLock : Obligations.OffsetSamplesSetAndClearLock := by
  unfold Obligations.OffsetSamplesSetAndClearLock
  exact fun s hready => ⟨offsetSample_answers s hready, offsetSampleTimeout_answers_of_due s hready,
    offsetSampleTimeout_answers_of_not_due s hready⟩

end Sys2Proof.Proofs

/-!
PROOFS. O16 and O17: QCAS128, and the permission of user mode. What a write of a core's registers leaves to be read and what it keeps, for
an engine and for the King pair; what a store leaves in memory; then the compare-and-swap and the trap made of them.
-/

namespace Sys2Proof.Proofs

open Sys2Proof Sys2Proof.Machine

/-! ### Registers of one core -/

theorem get_set_same {n : Nat} (hn : n ≠ 0) (c : Core) (v : Word) : (c.set n v).get n = v := by
  simp [Core.get, Core.set, hn]

theorem get_set_ne {n m : Nat} (h : m ≠ n) (c : Core) (v : Word) : (c.set n v).get m = c.get m := by
  by_cases hn : n = 0
  · simp [Core.set, hn]
  · simp [Core.get, Core.set, hn, tget_tset_ne h]

theorem pairOf_lt (c : Core) (n : Nat) : pairOf c n < 2 ^ 128 := by
  have hlow := (c.get n).isLt
  have hhigh := (c.get (n + 1)).isLt
  unfold pairOf
  omega

/-- A pair read back after a 128-bit number has been written to it; of the pair of x0 and x1 only the upper half is. -/
theorem pairOf_set_pair {n v : Nat} (hn : n ≠ 0) (hv : v < 2 ^ 128) (c : Core) :
    pairOf ((c.set n (BitVec.ofNat 64 v)).set (n + 1) (BitVec.ofNat 64 (v / 2 ^ 64))) n = v := by
  rw [pairOf, get_set_ne (by omega), get_set_same hn, get_set_same (by omega), BitVec.toNat_ofNat, BitVec.toNat_ofNat]
  omega

theorem get_set_upper {v : Nat} (hv : v < 2 ^ 128) (n : Nat) (c : Core) :
    ((c.set (n + 1) (BitVec.ofNat 64 (v / 2 ^ 64))).get (n + 1)).toNat = v / 2 ^ 64 := by
  rw [get_set_same (by omega), BitVec.toNat_ofNat]
  omega

theorem csr_setCsr (c : Core) (n v m : Nat) : (c.setCsr n v).csr m = if m = n then v % 2 ^ 64 else c.csr m := by
  by_cases h : m = n
  · simp [Core.csr, Core.setCsr, h]
  · simp [Core.csr, Core.setCsr, tget_tset_ne h, h]

/-- A trap's mepc, mcause and mode. -/
theorem trap_effect {c : Core} {cause : Nat} (hpc : c.pc < 2 ^ 64) (hcause : cause < 2 ^ 64) (tval : Nat) :
    (c.trap cause tval).csr 0x342 = cause ∧ (c.trap cause tval).csr 0x341 = c.pc ∧ (c.trap cause tval).user = false := by
  have hcsrs (n : Nat) : (c.trap cause tval).csr n = ((((c.setCsr 0x341 c.pc).setCsr 0x342 cause).setCsr 0x343 tval).setCsr 0x300
      (setBits (c.csr 0x300) 0x1888 ((if bitOf (c.csr 0x300) 3 then 0x80 else 0) + (if c.user then 0 else 0x1800)))).csr n := rfl
  exact ⟨by simpa [hcsrs, csr_setCsr] using hcause, by simpa [hcsrs, csr_setCsr] using hpc, rfl⟩

/-! ### What a write of a core keeps: memory and the reactions owed, even where it ends in a Checkmate (R124) -/

/-- Memory and the reactions owed. -/
def memTodo (d : Dev) : List Host.Cell × List Todo := (d.mem, d.todo)

theorem memTodo_of_kept {bs : List Nat} {d e : Dev} (h : KeptBut bs d e) : memTodo e = memTodo d :=
  Prod.ext h.mem h.todo

theorem memTodo_clr (f : Field) (d : Dev) : memTodo (clr f d) = memTodo d := rfl
theorem memTodo_setFab (d : Dev) (x : Fab) : memTodo { d with fab := x } = memTodo d := rfl

theorem memTodo_endFreeze (d : Dev) : memTodo (endFreeze d) = memTodo d := by
  have hfold (l : List ScoreRecord) : ∀ e : Dev, memTodo (l.foldl (fun e r => writeRecord r e) e) = memTodo e := by
    induction l with
    | nil => exact fun _ => rfl
    | cons r l ih => exact fun e => (ih _).trans (memTodo_of_kept (keptBut_writeRecord r e))
  exact hfold d.scr.holdq { d with scr.holdq := [] }

theorem memTodo_checkmate (code unit data0 data1 : Nat) (d : Dev) : memTodo (checkmate code unit data0 data1 d) = memTodo d := by
  unfold checkmate
  refine (memTodo_of_kept (keptBut_recordEvent ..)).trans ?_
  rw [apply_ite memTodo, memTodo_endFreeze, ite_self]
  rfl

/-- One unit of the King pair takes a core's state; in quarantine it takes none (R124). -/
def writeUnit (c : Core) (u : Nat) (d : Dev) : Dev :=
  if (tget {} d.king.units u).quar then d
  else { d with king.units := tmod {} d.king.units u fun k => { k with core := c } }

theorem memTodo_writeUnit (c : Core) (u : Nat) (d : Dev) : memTodo (writeUnit c u d) = memTodo d := by
  rw [writeUnit, apply_ite memTodo]
  exact ite_self _

theorem setCore_engine {e : Nat} (he : e < 64) (c : Core) (d : Dev) : setCore e c d = modEngine e (fun g => { g with core := c }) d :=
  if_pos he

/-- An injection armed on a unit of the pair is spent on a register write: the unit is flagged, and after a split that is a Checkmate
(R124, R591). -/
def spendKingInj (d : Dev) : Dev :=
  match d.king.injUnit with
  | none => d
  | some u =>
    if (tget {} d.king.units u).quar then d
    else
      let d := clr Reg.FLT_INJ_ARM { d with king.injUnit := none
                                            flt.inj := none
                                            king.units := tmod {} d.king.units u fun k => { k with flagged := true } }
      if rdb Reg.GLB_KING_SPLIT d then checkmate Ev.KING_CHECKMATE (unitOf 2 u) 0 0 d else d

theorem spendKingInj_of_unarmed {d : Dev} (h : d.king.injUnit = none) : spendKingInj d = d := by
  simp [spendKingInj, h]

theorem memTodo_spendKingInj (d : Dev) : memTodo (spendKingInj d) = memTodo d := by
  unfold spendKingInj
  split
  · rfl
  · dsimp only
    rw [apply_ite memTodo, apply_ite memTodo, memTodo_checkmate, ite_self, memTodo_clr]
    exact ite_self _

/-- The two units take the state; then an armed injection acts. -/
theorem setCore_king {e : Nat} (he : ¬e < 64) (c : Core) (d : Dev) :
    setCore e c d = spendKingInj (writeUnit c 1 (writeUnit c 0 d)) := if_neg he

theorem memTodo_setCore (e : Nat) (c : Core) (d : Dev) : memTodo (setCore e c d) = memTodo d := by
  by_cases he : e < 64
  · rw [setCore_engine he]
    rfl
  · rw [setCore_king he, memTodo_spendKingInj, memTodo_writeUnit, memTodo_writeUnit]

theorem memTodo_modEngine (e : Nat) (f : Engine → Engine) (d : Dev) : memTodo (modEngine e f d) = memTodo d := rfl
theorem modEngine_king (e : Nat) (f : Engine → Engine) (d : Dev) : (modEngine e f d).king = d.king := rfl
theorem activeUnit_modEngine (e : Nat) (f : Engine → Engine) (d : Dev) : activeUnit (modEngine e f d) = activeUnit d := rfl

/-! ### What is read of a core after a write -/

@[simp] theorem getEngine_modEngine_same (e : Nat) (f : Engine → Engine) (d : Dev) :
    getEngine e (modEngine e f d) = f (getEngine e d) := by simp [getEngine, modEngine, tget_tmod]

@[simp] theorem writeUnit_injUnit (c : Core) (u : Nat) (d : Dev) : (writeUnit c u d).king.injUnit = d.king.injUnit := by
  unfold writeUnit
  split <;> rfl

@[simp] theorem activeUnit_writeUnit (c : Core) (u : Nat) (d : Dev) : activeUnit (writeUnit c u d) = activeUnit d := by
  unfold writeUnit
  split <;> rfl

theorem units_writeUnit_ne {u v : Nat} (h : v ≠ u) (c : Core) (d : Dev) :
    tget {} (writeUnit c u d).king.units v = tget {} d.king.units v := by
  unfold writeUnit
  split
  · rfl
  · simp [tget_tmod, h]

theorem core_writeUnit_same {u : Nat} {d : Dev} (h : (tget {} d.king.units u).quar = false) (c : Core) :
    (tget {} (writeUnit c u d).king.units u).core = c := by
  simp [writeUnit, h, tget_tmod]

theorem activeUnit_of_regs {d e : Dev} (h : e.regs = d.regs) : activeUnit e = activeUnit d := by
  rw [activeUnit, activeUnit, rd, rd, h]

theorem activeUnit_setFab (d : Dev) (x : Fab) : activeUnit { d with fab := x } = activeUnit d := rfl

theorem activeUnit_clr {f : Field} (h : Reg.GLB_KING_ACTIVE.off ≠ f.off) (d : Dev) : activeUnit (clr f d) = activeUnit d :=
  rd_wr_off h 0 d

theorem activeUnit_lt (d : Dev) : activeUnit d < 2 := rd_lt Reg.GLB_KING_ACTIVE d

/-- A core reads as it was written, where its results are kept. -/
theorem getCore_setCore {e : Nat} {d : Dev} (h : coreKeeps e d) (c : Core) : getCore e (setCore e c d) = c := by
  by_cases he : e < 64
  · simp [getCore, he, setCore_engine he]
  · obtain ⟨hquar, hinj⟩ := h.resolve_left he
    have hset : setCore e c d = writeUnit c 1 (writeUnit c 0 d) := by
      rw [setCore_king he, spendKingInj_of_unarmed (by simpa using hinj)]
    rw [getCore, if_neg he, hset, activeUnit_writeUnit, activeUnit_writeUnit]
    obtain hactive | hactive : activeUnit d = 0 ∨ activeUnit d = 1 := by have := activeUnit_lt d; omega
    · rw [hactive] at hquar ⊢
      rw [units_writeUnit_ne (by decide), core_writeUnit_same hquar]
    · rw [hactive] at hquar ⊢
      exact core_writeUnit_same ((congrArg _ (units_writeUnit_ne (by decide) c d)).trans hquar) c

/-- The end of a command leaves every core as it was. -/
theorem getCore_ended {d e : Dev} (h : EndedFrom d e) (n : Nat) : getCore n e = getCore n d := by
  have hactive : activeUnit e = activeUnit d := h.rd (by decide)
  rw [getCore, getCore, getEngine, getEngine, h.engines, h.king, hactive]

/-! ### Memory after a store -/

theorem leNat_lt (b : Bytes) : leNat b < 256 ^ b.length := by
  induction b with
  | nil => exact Nat.one_pos
  | cons x b ih =>
    have hx := x.isLt
    rw [leNat, List.length_cons, Nat.pow_succ]
    omega

theorem memNat_lt (d : Dev) (a n : Nat) : memNat d a n < 256 ^ n := by
  simpa [memNat, memRead] using leNat_lt (memRead d a n)

theorem memByte_of_mem {d e : Dev} (h : e.mem = d.mem) (a : Nat) : memByte e a = memByte d a := by
  rw [memByte, memByte, h]

theorem memNat_of_mem {d e : Dev} (h : e.mem = d.mem) (a n : Nat) : memNat e a n = memNat d a n := by
  simp only [memNat, memRead, memByte_of_mem h]

theorem memRead_memWrite (a : Nat) (l : Bytes) (d : Dev) : memRead (memWrite a l d) a l.length = l := by
  refine List.ext_getElem (by simp [memRead]) fun i _ hi => ?_
  simp [memRead, memByte_memWrite_in l a i d hi]

/-- An injection into a store (R94) inverts check bits alone. -/
theorem injectStore_kept (addr len : Nat) (d : Dev) : memTodo (injectStore addr len d) = memTodo d ∧
    (injectStore addr len d).king = d.king ∧ activeUnit (injectStore addr len d) = activeUnit d := by
  unfold injectStore
  dsimp only
  split
  · split
    · exact ⟨(memTodo_clr ..).trans (memTodo_setFab d _), rfl, (activeUnit_clr (by decide) _).trans (activeUnit_setFab d _)⟩
    · exact ⟨rfl, rfl, rfl⟩
  · exact ⟨rfl, rfl, rfl⟩

theorem storeMem_mem (a : Nat) (b : Bytes) (d : Dev) : (storeMem a b d).mem = (memWrite a b d).mem :=
  congrArg Prod.fst (injectStore_kept ..).1

theorem storeNat_todo (a n v : Nat) (d : Dev) : (storeNat a n v d).todo = d.todo :=
  (congrArg Prod.snd (injectStore_kept ..).1).trans (memWrite_todo ..)

theorem storeNat_king (a n v : Nat) (d : Dev) : (storeNat a n v d).king = d.king :=
  (injectStore_kept ..).2.1.trans (memWrite_king ..)

theorem activeUnit_storeNat (a n v : Nat) (d : Dev) : activeUnit (storeNat a n v d) = activeUnit d :=
  (injectStore_kept ..).2.2.trans (activeUnit_of_regs (memWrite_regs ..))

theorem memNat_storeNat {n v : Nat} (hv : v < 256 ^ n) (a : Nat) (d : Dev) : memNat (storeNat a n v d) a n = v := by
  have hread := memRead_memWrite a (leBytes n v) d
  rw [Laws.leBytes_length] at hread
  rw [storeNat, memNat_of_mem (storeMem_mem ..), memNat, hread, Laws.leNat_leBytes n v hv]

theorem memByte_storeNat_out {a n x : Nat} (h : x < a ∨ a + n ≤ x) (v : Nat) (d : Dev) :
    memByte (storeNat a n v d) x = memByte d x := by
  rw [storeNat, memByte_of_mem (storeMem_mem ..), memByte_memWrite_out x _ a d (by rwa [Laws.leBytes_length])]

/-! ### Reservations -/

theorem memTodo_dropReservations (e a : Nat) (d : Dev) : memTodo (dropReservations e a d) = memTodo d := by
  unfold dropReservations
  dsimp only
  rw [apply_ite memTodo, memTodo_setCore, ite_self]
  refine forEach_keeps memTodo _ (fun k d => ?_) _ d
  rw [apply_ite memTodo, memTodo_modEngine, ite_self]

/-- A store of the King pair ends reservations of engines alone. -/
theorem dropReservations_king {e : Nat} (he : e = 64) (a : Nat) (d : Dev) :
    (dropReservations e a d).king = d.king ∧ activeUnit (dropReservations e a d) = activeUnit d := by
  subst he
  unfold dropReservations
  dsimp only
  rw [if_neg (by simp)]
  constructor
  · refine forEach_keeps Dev.king _ (fun k d => ?_) _ d
    rw [apply_ite Dev.king, modEngine_king, ite_self]
  · refine forEach_keeps activeUnit _ (fun k d => ?_) _ d
    rw [apply_ite activeUnit, activeUnit_modEngine, ite_self]

/-! ### QCAS128 (R105–R108) -/

/-- What the swap leaves: the new pair stored where the old bytes equal the compare pair. -/
def casSwap (e p cmp new : Nat) (d : Dev) : Dev :=
  if memNat d p 16 = cmp then storeNat p 16 new (dropReservations e p d) else d

/-- The old bytes go to the register pair and out. -/
def casReturn (e rdN old : Nat) (d : Dev) : Dev :=
  let c := ((getCore e d).set rdN (BitVec.ofNat 64 old)).set (rdN + 1) (BitVec.ofNat 64 (old / 2 ^ 64))
  send (.value old) (setCore e { c with pc := (c.pc + 4) % 2 ^ 64 } d)

/-- Without a line to give back, a seal or an error, the transfer is the swap. -/
theorem cas128At_eq_casSwap {e p : Nat} {cached : Bool} {d : Dev} (hl2 : cached = true → e < 64 → l2Find (clusterOf e) p d = none)
    (hseal : inSeal p 16 d = none) (hflips : d.fab.flips = []) (cmp new : Nat) :
    cas128At e p cached cmp new d = (memNat d p 16, casSwap e p cmp new d) := by
  have hclean : eccRange p 16 d = d := by simp [eccRange, hflips, forEach]
  by_cases hline : cached = true ∧ e < 64
  · obtain ⟨hcached, he⟩ := hline
    simp [cas128At, hcached, he, hl2 hcached he, hseal, hclean, casSwap]
  · simp [cas128At, hline, hseal, hclean, casSwap]

/-- QCAS128 with even pairs and an aligned, allowed address: the swap at its place, then the return of the old bytes. -/
theorem doQcas_eq_casReturn {e rdN rs1 rs2 p : Nat} {d : Dev} (hrd : rdN % 2 = 0) (hrs2 : rs2 % 2 = 0)
    (halign : ((getCore e d).get rs1).toNat % 16 = 0)
    (hplace : place ((getCore e d).get rs1).toNat 16 = some (.uncached p) ∨
      (place ((getCore e d).get rs1).toNat 16 = some (.cached p) ∧ (e < 64 → l2Find (clusterOf e) p d = none)))
    (hpmp : pmpAllows (getCore e d) (getCore e d).dataUser 1 ((getCore e d).get rs1).toNat 16 = true)
    (hseal : inSeal p 16 d = none) (hflips : d.fab.flips = []) (insn : Nat) :
    doQcas e rdN rs1 rs2 insn d =
      casReturn e rdN (memNat d p 16) (casSwap e p (pairOf (getCore e d) rdN) (pairOf (getCore e d) rs2) d) := by
  obtain huncached | ⟨hcached, hl2⟩ := hplace
  · simp [doQcas, hrd, hrs2, halign, hpmp, huncached, cas128At_eq_casSwap (cached := false) (by simp) hseal hflips, casReturn]
  · simp [doQcas, hrd, hrs2, halign, hpmp, hcached, cas128At_eq_casSwap (cached := true) (fun _ => hl2) hseal hflips, casReturn]

theorem memNat_casSwap {new : Nat} (hnew : new < 2 ^ 128) (e p cmp : Nat) (d : Dev) :
    memNat (casSwap e p cmp new d) p 16 = if memNat d p 16 = cmp then new else memNat d p 16 := by
  rw [casSwap, apply_ite (memNat · p 16), memNat_storeNat (by omega)]

theorem memByte_casSwap_out {p x : Nat} (h : x < p ∨ p + 16 ≤ x) (e cmp new : Nat) (d : Dev) :
    memByte (casSwap e p cmp new d) x = memByte d x := by
  have hdrop : (dropReservations e p d).mem = d.mem := congrArg Prod.fst (memTodo_dropReservations e p d)
  rw [casSwap, apply_ite (memByte · x), memByte_storeNat_out h, memByte_of_mem hdrop, ite_self]

theorem casSwap_todo (e p cmp new : Nat) (d : Dev) : (casSwap e p cmp new d).todo = d.todo := by
  have hdrop : (dropReservations e p d).todo = d.todo := congrArg Prod.snd (memTodo_dropReservations e p d)
  rw [casSwap, apply_ite Dev.todo, storeNat_todo, hdrop, ite_self]

theorem coreKeeps_casSwap {e : Fin 65} {d : Dev} (h : coreKeeps e d) (p cmp new : Nat) : coreKeeps e (casSwap e p cmp new d) := by
  by_cases he : e.val < 64
  · exact .inl he
  · obtain ⟨hking, hactive⟩ := dropReservations_king (e := e) (by omega) p d
    unfold casSwap
    split
    · rw [coreKeeps, storeNat_king, activeUnit_storeNat, hking, hactive]
      exact h
    · exact h

theorem memTodo_casReturn (e rdN old : Nat) (d : Dev) : memTodo (casReturn e rdN old d) = memTodo d :=
  memTodo_setCore e _ d

theorem casReturn_mem (e rdN old : Nat) (d : Dev) : (casReturn e rdN old d).mem = d.mem :=
  congrArg Prod.fst (memTodo_casReturn e rdN old d)

theorem casReturn_todo (e rdN old : Nat) (d : Dev) : (casReturn e rdN old d).todo = d.todo :=
  congrArg Prod.snd (memTodo_casReturn e rdN old d)

theorem value_mem_casReturn (e rdN old : Nat) (d : Dev) : Out.value old ∈ (casReturn e rdN old d).out :=
  List.mem_append_right _ (List.mem_singleton_self _)

/-- Where a core's results are kept, the old bytes stand in its register pair. -/
theorem getCore_casReturn {e rdN old : Nat} {d : Dev} (h : coreKeeps e d) (hold : old < 2 ^ 128) :
    (rdN ≠ 0 → pairOf (getCore e (casReturn e rdN old d)) rdN = old) ∧
      ((getCore e (casReturn e rdN old d)).get (rdN + 1)).toNat = old / 2 ^ 64 := by
  have hcore : getCore e (casReturn e rdN old d) = _ := getCore_setCore h _
  rw [hcore]
  exact ⟨fun hn => pairOf_set_pair hn hold (getCore e d), get_set_upper hold rdN _⟩

/-! ### The guard of the Xqsto instructions (R102) -/

theorem qGuard_of_mayRun {e f3 : Nat} {d : Dev} (h : mayRun e f3 d) (insn : Nat) (f : Dev → Dev) : qGuard e f3 insn f d = f d := by
  obtain ⟨hruns, hbit⟩ := h
  by_cases huser : (getCore e d).user = true
  · by_cases hf3 : f3 = 6
    · simp [qGuard, hruns, hf3]
    · simp [qGuard, hruns, hbit huser hf3]
  · simp [qGuard, hruns, huser]

theorem qGuard_of_forbidden {e f3 : Nat} {d : Dev} (hruns : coreRuns e d = true) (huser : (getCore e d).user = true) (hf3 : f3 ≠ 6)
    (hbit : bitOf ((getCore e d).csr 0x7C0) f3 = false) (insn : Nat) (f : Dev → Dev) :
    qGuard e f3 insn f d = trapCore e 2 (illegalTval insn) d := by
  simp [qGuard, hruns, huser, hf3, hbit]

/-- A guarded command of an engine in user mode without the permission ends in the trap. -/
theorem forbidden_answers {c : Instr} {s : State} {e f3 insn : Nat} {f : Dev → Dev} (hx : exec c s = runLive (qGuard e f3 insn f) s)
    (hready : s.ready) (he : e < 64) (hruns : coreRuns e s.dev = true) (huser : (getCore e s.dev).user = true)
    (hpc : (getCore e s.dev).pc < 2 ^ 64) (hf3 : f3 ≠ 6) (hbit : bitOf ((getCore e s.dev).csr 0x7C0) f3 = false) :
    Answers c s fun d => (getCore e d).csr 0x342 = 2 ∧ (getCore e d).csr 0x341 = (getCore e s.dev).pc ∧
      (getCore e d).user = false ∧ MemKept s.dev d := by
  obtain ⟨hlive, htodo⟩ := hready
  have htrap : qGuard e f3 insn f s.dev.quiet = setCore e ((getCore e s.dev).trap 2 (illegalTval insn)) s.dev.quiet :=
    qGuard_of_forbidden (d := s.dev.quiet) hruns huser hf3 hbit insn f
  have hkept : memTodo (qGuard e f3 insn f s.dev.quiet) = memTodo s.dev := by
    rw [htrap]
    exact memTodo_setCore e _ _
  refine answers_live hx hlive ((congrArg Prod.snd hkept).trans htodo) fun d hd => ?_
  have hcore : getCore e d = (getCore e s.dev).trap 2 (illegalTval insn) := by
    rw [getCore_ended hd, htrap, getCore_setCore (.inl he)]
  obtain ⟨hcause, hepc, hmode⟩ := trap_effect hpc (by decide : 2 < 2 ^ 64) (illegalTval insn)
  rw [hcore]
  exact ⟨hcause, hepc, hmode, memByte_of_mem (hd.mem.trans (congrArg Prod.fst hkept))⟩

/-! ### The obligations -/

/-- Settles O16: the command is the swap followed by the return of the old bytes; each of memory, outputs and registers is read off
the one of the two that writes it. -/
theorem compareAndSwap128 : Obligations.CompareAndSwap128 := by
  unfold Obligations.CompareAndSwap128
  intro s e rdN rs1 rs2 p hready hflips hrun hrd hrs2 halign hplace hpmp hseal
  obtain ⟨hlive, htodo⟩ := hready
  have heffect : qGuard e 2 (qInsn 0 rs2 rs1 2 rdN) (doQcas e rdN rs1 rs2 (qInsn 0 rs2 rs1 2 rdN)) s.dev.quiet =
      casReturn e rdN (memNat s.dev p 16)
        (casSwap e p (pairOf (getCore e s.dev) rdN) (pairOf (getCore e s.dev) rs2) s.dev.quiet) :=
    (qGuard_of_mayRun (d := s.dev.quiet) hrun _ _).trans
      (doQcas_eq_casReturn (d := s.dev.quiet) hrd hrs2 halign hplace hpmp hseal hflips _)
  refine answers_live (f := qGuard e 2 _ (doQcas e rdN rs1 rs2 _)) rfl hlive ?_ fun d hd => ?_
  · rw [heffect, casReturn_todo, casSwap_todo]
    exact htodo
  · rw [heffect] at hd
    have hmem := hd.mem.trans (casReturn_mem ..)
    refine ⟨hd.mem_out (value_mem_casReturn ..), ?_, fun a ha => ?_, fun hkeeps => ?_⟩
    · rw [memNat_of_mem hmem, memNat_casSwap (pairOf_lt _ _)]
      rfl
    · rw [memByte_of_mem hmem, memByte_casSwap_out ha, quiet_memByte]
    · rw [getCore_ended hd]
      exact getCore_casReturn (coreKeeps_casSwap (d := s.dev.quiet) hkeeps ..) (memNat_lt s.dev p 16)

/-- Settles O17: each of the ten is a guarded command, and the guard without the permission is the trap. -/
theorem userModeNeedsPermission : Obligations.UserModeNeedsPermission := by
  unfold Obligations.UserModeNeedsPermission
  intro s e rdN rs1 rs2 len cyc b hready he hruns huser hpc c hc hbit
  simp only [List.mem_cons, List.not_mem_nil, or_false] at hc
  rcases hc with rfl | rfl | rfl | rfl | rfl | rfl | rfl | rfl | rfl | rfl <;>
    exact forbidden_answers rfl hready he hruns huser hpc (by decide) hbit

end Sys2Proof.Proofs

/-!
PROOFS. O22: Connect, the causes of teardown, and the links of the host ports. Ending commands, making a context resident and evicting
another leave what names each context (`ctxIdent`) as it was; so a teardown is seen to close the contexts it lists and no more, and a
Connect to open the one it takes.
-/

namespace Sys2Proof.Proofs

open Sys2Proof Sys2Proof.Machine

/-! ### What an effect owes and sends -/

/-- The second device owes the same reactions and has sent what the first had, and perhaps more. -/
structure SendsMore (d e : Dev) : Prop where
  todo : e.todo = d.todo
  out : d.out ⊆ e.out

theorem SendsMore.refl (d : Dev) : SendsMore d d := ⟨rfl, List.Subset.refl _⟩

theorem SendsMore.trans {a b c : Dev} (h : SendsMore a b) (g : SendsMore b c) : SendsMore a c :=
  ⟨g.todo.trans h.todo, fun _ ho => g.out (h.out ho)⟩

/-- A loop keeps any relation to where it started that each of its turns keeps. -/
theorem forEach_invariant {σ : Type} {P : σ → Prop} {f : Nat → σ → σ} (h : ∀ n s, P s → P (f n s)) (l : List Nat) :
    ∀ {s}, P s → P (forEach l f s) := by
  induction l with
  | nil => exact id
  | cons n r ih => exact fun hs => ih (h n _ hs)

theorem forEach_cons {σ : Type} (n : Nat) (l : List Nat) (f : Nat → σ → σ) (s : σ) :
    forEach (n :: l) f s = forEach l f (f n s) := rfl

/-! ### What names a context -/

/-- What names a context to its host: whether it is open, its controller, its queue and its generation (R152). -/
def ctxIdent (x : HostCtx) : Bool × Nat × Nat × Nat := (x.opn, x.cntlid, x.qid, x.gen)

/-- No controller appears or goes, and no context opens, closes or changes its name. -/
structure CtxsKept (d e : Dev) : Prop extends SendsMore d e where
  ctrls : e.front.ctrls = d.front.ctrls
  ident : ∀ c, ctxIdent (getCtx c e) = ctxIdent (getCtx c d)

theorem CtxsKept.refl (d : Dev) : CtxsKept d d := ⟨.refl d, rfl, fun _ => rfl⟩

theorem CtxsKept.trans {a b c : Dev} (h : CtxsKept a b) (g : CtxsKept b c) : CtxsKept a c :=
  ⟨h.toSendsMore.trans g.toSendsMore, g.ctrls.trans h.ctrls, fun x => (g.ident x).trans (h.ident x)⟩

theorem CtxsKept.opn {d e : Dev} (h : CtxsKept d e) (c : Nat) : (getCtx c e).opn = (getCtx c d).opn := congrArg (·.1) (h.ident c)

theorem CtxsKept.forEach {f : Nat → Dev → Dev} (h : ∀ n e, CtxsKept e (f n e)) (l : List Nat) (d : Dev) :
    CtxsKept d (Machine.forEach l f d) :=
  forEach_invariant (P := CtxsKept d) (fun n e he => he.trans (h n e)) l (.refl d)

/-- What leaves the tables of contexts and controllers, the reactions owed and the outputs alone. -/
theorem ctxsKept_of_eq {d e : Dev} (hctxs : e.front.ctxs = d.front.ctxs) (hctrls : e.front.ctrls = d.front.ctrls)
    (htodo : e.todo = d.todo) (hout : e.out = d.out) : CtxsKept d e :=
  ⟨⟨htodo, hout ▸ List.Subset.refl _⟩, hctrls, fun c => by simp only [getCtx, hctxs]⟩

theorem ctxsKept_wr (f : Field) (v : Nat) (d : Dev) : CtxsKept d (wr f v d) := ctxsKept_of_eq rfl rfl rfl rfl

theorem ctxsKept_bump (f : Field) (d : Dev) : CtxsKept d (bump f d) :=
  ctxsKept_of_eq (by simp [bump_eq]) (by simp [bump_eq]) (by simp [bump_eq]) (by simp [bump_eq])

theorem ctxsKept_send (o : Out) (d : Dev) : CtxsKept d (send o d) := ⟨⟨rfl, fun _ => List.mem_append_left _⟩, rfl, fun _ => rfl⟩

theorem ctxsKept_modPort (p : Nat) (f : HostPort → HostPort) (d : Dev) : CtxsKept d (modPort p f d) := ctxsKept_of_eq rfl rfl rfl rfl

theorem ctxsKept_modFc (n : Nat) (f : FrontCmd → FrontCmd) (d : Dev) : CtxsKept d (modFc n f d) := ctxsKept_of_eq rfl rfl rfl rfl

/-! ### The commands and waiting packets of a context end -/

theorem ctxsKept_setPause (p cause mask : Nat) (d : Dev) : CtxsKept d (setPause p cause mask d) := by
  have hwritten (v : Nat) : CtxsKept d
      (wr (Reg.ETH_LINK_PAUSED p) v (modPort p (fun x => { x with pauses := tset 0 x.pauses cause mask }) d)) :=
    (ctxsKept_modPort ..).trans (ctxsKept_wr ..)
  unfold setPause
  dsimp only
  split <;> split
  · exact hwritten _
  · exact (hwritten _).trans (ctxsKept_send ..)
  · exact (hwritten _).trans (ctxsKept_send ..)
  · exact ((hwritten _).trans (ctxsKept_send ..)).trans (ctxsKept_send ..)

theorem ctxsKept_pauseAll (cause mask : Nat) (d : Dev) : CtxsKept d (pauseAll cause mask d) :=
  .forEach (fun p e => ctxsKept_setPause p cause mask e) _ d

theorem ctxsKept_missXon (p : Nat) (d : Dev) : CtxsKept d (missXon p d) := by
  unfold missXon
  split
  · exact ctxsKept_setPause ..
  · exact .refl d

theorem ctxsKept_showMiss (p : Nat) (d : Dev) : CtxsKept d (showMiss p d) := (ctxsKept_wr ..).trans (ctxsKept_wr ..)

theorem ctxsKept_showTight (d : Dev) : CtxsKept d (showTight d) := by
  have hset (t : Bool) : CtxsKept d { d with stg.tight := t } := ctxsKept_of_eq rfl rfl rfl rfl
  unfold showTight
  dsimp only
  split <;> (split; exacts [.refl d, (hset _).trans (ctxsKept_pauseAll ..)])

theorem ctxsKept_freeSlot (n : Nat) (d : Dev) : CtxsKept d (freeSlot n d) := by
  unfold freeSlot
  dsimp only
  split <;> exact ctxsKept_of_eq rfl rfl rfl rfl

theorem ctxsKept_freeSlots (n : Nat) (d : Dev) : CtxsKept d (freeSlots n d) := by
  refine .trans (.forEach (fun m e => ?_) _ d) (ctxsKept_showTight _)
  split
  · exact (ctxsKept_freeSlot m e).trans (ctxsKept_send ..)
  · exact .refl e

theorem ctxsKept_endCmd (n kind : Nat) (d : Dev) : CtxsKept d (endCmd n kind d) := by
  unfold endCmd
  split
  · exact .refl d
  · dsimp only
    refine .trans (.trans (.trans (.trans (.trans ?_ (ctxsKept_send ..)) (ctxsKept_send ..)) (ctxsKept_send ..)) (ctxsKept_wr ..))
      (ctxsKept_bump ..)
    exact ctxsKept_of_eq rfl rfl rfl rfl

theorem ctxsKept_stopReads (n : Nat) (d : Dev) : CtxsKept d (stopReads n d) := ctxsKept_of_eq rfl rfl rfl rfl

theorem ctxsKept_tearCmd (n : Nat) (d : Dev) : CtxsKept d (tearCmd n d) := by
  unfold tearCmd
  dsimp only
  split
  · exact ctxsKept_endCmd ..
  · split
    · split
      · exact ctxsKept_endCmd ..
      · split
        · exact ctxsKept_modFc ..
        · exact (ctxsKept_freeSlots n d).trans (ctxsKept_endCmd ..)
    · have hread : CtxsKept d (endCmd n 2 (stopReads n d)) := (ctxsKept_stopReads n d).trans (ctxsKept_endCmd ..)
      split
      exacts [hread, hread, hread, ctxsKept_endCmd ..]

/-- The counts of open and resident contexts are shown in a register. -/
theorem ctxsKept_showCtx (d : Dev) : CtxsKept d (showCtx d) := (ctxsKept_wr ..).trans (ctxsKept_wr ..)

/-! ### Teardown (R168) -/

/-- What a context's closing ends before the context itself: its commands, then its packets in the miss buffers. -/
def endWork (c : Nat) (d : Dev) : Dev :=
  let d := forEach ((d.cas.cmds.filter fun r => r.2.state == 1 && r.2.ctx == c && !(getFc r.1 d).cmd.viaPeer).map (·.1)) tearCmd d
  forEach (those 32 fun p => (getPort p d).miss.any (·.ctx == c)) (fun p d =>
    missXon p (showMiss p (modPort p (fun q => { q with miss := q.miss.filter (·.ctx != c) }) d))) d

theorem ctxsKept_endWork (c : Nat) (d : Dev) : CtxsKept d (endWork c d) :=
  .trans (.forEach (fun _ _ => ctxsKept_tearCmd ..) _ d)
    (.forEach (fun _ _ => .trans (.trans (ctxsKept_modPort ..) (ctxsKept_showMiss ..)) (ctxsKept_missXon ..)) _ _)

/-- A context goes from the table, with its capsules and what it has carried; its number keeps a generation. -/
def forgetCtx (c gen : Nat) (d : Dev) : Dev :=
  { d with front.ctxs := tset {} d.front.ctxs c { gen := gen }
           front.capsules := d.front.capsules.filter fun q => q.cmd.ctx != c || q.cmd.viaPeer
           front.carried := d.front.carried.filter fun q => q.1 != c }

theorem opn_forgetCtx (c gen j : Nat) (d : Dev) :
    (getCtx j (forgetCtx c gen d)).opn = if j = c then false else (getCtx j d).opn := by
  simp only [getCtx, forgetCtx, tget_tset]
  split <;> rfl

/-- A context closes: its work ends, and it goes from the table. -/
theorem closeCtx_eq (c : Nat) (d : Dev) : ∃ gen e, closeCtx c d = showCtx (forgetCtx c gen e) ∧ CtxsKept d e := by
  have hwork := ctxsKept_endWork c d
  unfold endWork at hwork
  unfold closeCtx
  dsimp only at hwork ⊢
  generalize forEach (those _ _) _ _ = e at hwork ⊢
  exact ⟨_, e, rfl, hwork⟩

theorem sendsMore_closeCtx (c : Nat) (d : Dev) : SendsMore d (closeCtx c d) := by
  obtain ⟨gen, e, heq, hwork⟩ := closeCtx_eq c d
  have hforget : SendsMore e (forgetCtx c gen e) := ⟨rfl, List.Subset.refl _⟩
  rw [heq]
  exact (hwork.toSendsMore.trans hforget).trans (ctxsKept_showCtx _).toSendsMore

/-- A context that closes is closed; every other one is open if it was. -/
theorem opn_closeCtx (c j : Nat) (d : Dev) : (getCtx j (closeCtx c d)).opn = if j = c then false else (getCtx j d).opn := by
  obtain ⟨gen, e, heq, hwork⟩ := closeCtx_eq c d
  rw [heq, (ctxsKept_showCtx _).opn, opn_forgetCtx, hwork.opn]

/-- Closing contexts closes those listed, and reopens none. -/
theorem opn_forEach_closeCtx {c : Nat} (l : List Nat) : ∀ {d : Dev}, c ∈ l ∨ (getCtx c d).opn = false →
    (getCtx c (forEach l closeCtx d)).opn = false := by
  induction l with
  | nil => simp [forEach]
  | cons j r ih =>
    intro d h
    rw [forEach_cons]
    refine ih ?_
    rw [opn_closeCtx]
    rw [List.mem_cons] at h
    by_cases hj : c = j
    · simp [hj]
    · simpa [hj] using h

/-- A table lists each key that does not read as the default. -/
theorem mem_of_tget_ne {α : Type} {d : α} {t : Tab α} {k : Nat} (h : tget d t k ≠ d) : (k, tget d t k) ∈ t := by
  induction t with
  | nil => exact absurd rfl h
  | cons p r ih =>
    rw [tget_cons] at *
    split at h
    · next hk => simp [← hk]
    · next hk => simpa [hk] using .inr (ih h)

/-- An open context is one of its controller's. -/
theorem mem_ctrlCtxs_of_opn {c : Nat} {d : Dev} (h : (getCtx c d).opn = true) : c ∈ ctrlCtxs (getCtx c d).cntlid d := by
  have hlisted : (c, getCtx c d) ∈ d.front.ctxs :=
    mem_of_tget_ne fun hdefault => by simp [getCtx, hdefault] at h
  exact List.mem_map.2 ⟨_, List.mem_filter.2 ⟨hlisted, by simp [h]⟩, rfl⟩

theorem ctxsKept_emptyFwBuf (d : Dev) : CtxsKept d (emptyFwBuf d) := by
  have hset : CtxsKept d { d with fwu.owner := none, fwu.buf := [], fwu.ranges := [] } := ctxsKept_of_eq rfl rfl rfl rfl
  exact ((hset.trans (ctxsKept_wr ..)).trans (ctxsKept_wr ..)).trans (ctxsKept_wr ..)

/-- A controller goes from the table. -/
def dropCtrl (k : Nat) (d : Dev) : Dev := { d with front.ctrls := tset {} d.front.ctrls k {} }

theorem getCtx_dropCtrl (k c : Nat) (d : Dev) : getCtx c (dropCtrl k d) = getCtx c d := rfl

theorem sendsMore_dropCtrl (k : Nat) (d : Dev) : SendsMore d (dropCtrl k d) := ⟨rfl, List.Subset.refl _⟩

/-- A controller gives up the firmware download buffer, if it holds it (R561). -/
def leaveFwBuf (k : Nat) (d : Dev) : Dev := if d.fwu.owner = some k then emptyFwBuf d else d

theorem ctxsKept_leaveFwBuf (k : Nat) (d : Dev) : CtxsKept d (leaveFwBuf k d) := by
  unfold leaveFwBuf
  split
  · exact ctxsKept_emptyFwBuf d
  · exact .refl d

/-- A teardown by what it finds: nothing open, an admin queue, an I/O queue. -/
theorem teardown_eq (c : Nat) (d : Dev) : teardown c d =
    if !(getCtx c d).opn then d
    else if (getCtx c d).qid = 0 then
      dropCtrl (getCtx c d).cntlid (leaveFwBuf (getCtx c d).cntlid (forEach (ctrlCtxs (getCtx c d).cntlid d) closeCtx d))
    else closeCtx c d := by
  unfold teardown dropCtrl leaveFwBuf
  rfl

theorem sendsMore_teardown (c : Nat) (d : Dev) : SendsMore d (teardown c d) := by
  rw [teardown_eq]
  split
  · exact .refl d
  · split
    · have hclosed : SendsMore d (forEach (ctrlCtxs (getCtx c d).cntlid d) closeCtx d) :=
        forEach_invariant (P := SendsMore d) (fun j e he => he.trans (sendsMore_closeCtx j e)) _ (.refl d)
      exact (hclosed.trans (ctxsKept_leaveFwBuf ..).toSendsMore).trans (sendsMore_dropCtrl ..)
    · exact sendsMore_closeCtx c d

/-- A context that is torn down is closed: an admin queue's with its controller's others, an I/O queue's alone. -/
theorem opn_teardown (c : Nat) (d : Dev) : (getCtx c (teardown c d)).opn = false := by
  rw [teardown_eq]
  split
  · next hclosed => simpa using hclosed
  · next hopn =>
    split
    · rw [getCtx_dropCtrl, (ctxsKept_leaveFwBuf ..).opn]
      exact opn_forEach_closeCtx _ (.inl (mem_ctrlCtxs_of_opn (by simpa using hopn)))
    · exact (opn_closeCtx c c d).trans (if_pos rfl)

/-! ### A Connect opens a context (R144, R146, R152) -/

theorem getCtx_modCtx (c j : Nat) (f : HostCtx → HostCtx) (d : Dev) :
    getCtx j (modCtx c f d) = if j = c then f (getCtx c d) else getCtx j d := tget_tmod

theorem ctxsKept_modCtx (c : Nat) (f : HostCtx → HostCtx) (d : Dev)
    (hf : ∀ x, ctxIdent (f x) = ctxIdent x := by exact fun _ => rfl) : CtxsKept d (modCtx c f d) := by
  refine ⟨⟨rfl, List.Subset.refl _⟩, rfl, fun j => ?_⟩
  rw [getCtx_modCtx]
  split
  · next h => rw [hf, h]
  · rfl

theorem ctxsKept_touchCtx (c : Nat) (d : Dev) : CtxsKept d (touchCtx c d) :=
  .trans (ctxsKept_modCtx c (fun x => { x with used := d.front.clock + 1 }) d) (ctxsKept_of_eq rfl rfl rfl rfl)

/-- A context takes a place in the cache. -/
def cacheCtx (c : Nat) (d : Dev) : Dev :=
  showCtx (touchCtx c (modCtx c (fun x => { x with resident := true, fetch := false, slow := false }) d))

theorem ctxsKept_cacheCtx (c : Nat) (d : Dev) : CtxsKept d (cacheCtx c d) :=
  .trans (.trans (ctxsKept_modCtx ..) (ctxsKept_touchCtx ..)) (ctxsKept_showCtx _)

/-- A context takes a free place in the cache, or one that another leaves. -/
theorem makeResident_eq (c : Nat) (d : Dev) : makeResident c d =
    if (d.front.ctxs.filter fun x => x.2.resident).length < 16384 then some (cacheCtx c d)
    else (victimCtx d).map fun v => cacheCtx c (modCtx v (fun x => { x with resident := false }) d) := rfl

theorem ctxsKept_makeResident {c : Nat} {d e : Dev} (h : makeResident c d = some e) : CtxsKept d e := by
  rw [makeResident_eq] at h
  split at h
  · exact Option.some.inj h ▸ ctxsKept_cacheCtx c d
  · obtain ⟨v, -, rfl⟩ := Option.map_eq_some_iff.1 h
    exact .trans (ctxsKept_modCtx v (fun x => { x with resident := false }) d) (ctxsKept_cacheCtx c _)

/-- The context as a Connect opens it, before its first congestion window and its place in the cache. -/
def nameCtx (c : Nat) (r : ConnectReq) (cntlid : Nat) (d : Dev) : Dev :=
  modCtx c (fun x => {
    gen := (x.gen + 1) % 64, opn := true, disc := r.disc, cntlid := cntlid, qid := r.qid, rdma := r.rdma
    port := r.port, tuple := r.tuple, rate := lineRate r.port d }) d

/-- A TCP connection's first congestion window is drawn. -/
def openWindow (c : Nat) (r : ConnectReq) (d : Dev) : Dev :=
  if r.rdma then d else modCtx c (fun x => { x with cwnd := (drawNat (2 ^ 32) d).1 }) (drawNat (2 ^ 32) d).2

theorem ctxsKept_openWindow (c : Nat) (r : ConnectReq) (d : Dev) : CtxsKept d (openWindow c r d) := by
  have hdraw : CtxsKept d (drawNat (2 ^ 32) d).2 := ctxsKept_of_eq rfl rfl rfl rfl
  unfold openWindow
  split
  · exact .refl d
  · exact hdraw.trans (ctxsKept_modCtx ..)

/-- A context is named, given its window and its place in the cache, and its Connect is answered. -/
theorem openCtx_eq (c : Nat) (r : ConnectReq) (cntlid : Nat) (d : Dev) : openCtx c r cntlid d =
    let named := openWindow c r (nameCtx c r cntlid d)
    send (.completion c r.cid 0 false cntlid) ((makeResident c named).getD (showCtx named)) := rfl

/-- The device after a Connect that opened context `c`. -/
structure Opened (c : Nat) (r : ConnectReq) (cntlid : Nat) (d e : Dev) : Prop where
  ident : ctxIdent (getCtx c e) = (true, cntlid, r.qid, ((getCtx c d).gen + 1) % 64)
  ctrls : e.front.ctrls = d.front.ctrls
  todo : e.todo = d.todo
  completion : Out.completion c r.cid 0 false cntlid ∈ e.out

theorem opened_openCtx (c : Nat) (r : ConnectReq) (cntlid : Nat) (d : Dev) : Opened c r cntlid d (openCtx c r cntlid d) := by
  have hkept : CtxsKept (nameCtx c r cntlid d) (openCtx c r cntlid d) := by
    rw [openCtx_eq]
    dsimp only
    refine .trans (.trans (ctxsKept_openWindow c r _) ?_) (ctxsKept_send ..)
    cases hres : makeResident c (openWindow c r (nameCtx c r cntlid d)) with
    | none => exact ctxsKept_showCtx _
    | some e => exact ctxsKept_makeResident hres
  refine ⟨(hkept.ident c).trans ?_, hkept.ctrls, hkept.todo, ?_⟩
  · simp [nameCtx, getCtx_modCtx, ctxIdent]
  · rw [openCtx_eq]
    simp

/-- What a Connect to the right place finds: the device answers it, over an enabled transport, on a port that is up, and `c` is free. -/
structure ConnectAdmitted (r : ConnectReq) (c : Nat) (d : Dev) : Prop where
  state : glbState d ≠ 0
  transport : rd (if r.rdma then Reg.NVF_CTRL_RDMA_EN else Reg.NVF_CTRL_TCP_EN) d = 1
  discovery : r.disc = false ∨ rd Reg.NVF_CTRL_DISC_EN d = 1
  service : r.service = if r.disc && !r.rdma then 8009 else 4420
  up : rd (Reg.ETH_LINK_UP r.port) d = 1
  outputs : d.cas.outputsHeld = false
  free : freeCtx d = some c

/-- The controller of an admin queue's Connect enters the table. -/
def addCtrl (k c : Nat) (r : ConnectReq) (d : Dev) : Dev :=
  { d with front.ctrls := tset {} d.front.ctrls k { exists_ := true, disc := r.disc, nqn := r.nqn, admin := c, kato := r.kato } }

section
variable {r : ConnectReq} {c : Nat} {d : Dev}

/-- Sending is not what a Connect looks at. -/
theorem ConnectAdmitted.quiet (h : ConnectAdmitted r c d) : ConnectAdmitted r c d.quiet :=
  ⟨h.state, h.transport, h.discovery, h.service, h.up, h.outputs, h.free⟩

theorem ConnectAdmitted.enabled (h : ConnectAdmitted r c d) :
    (rdb (if r.rdma then Reg.NVF_CTRL_RDMA_EN else Reg.NVF_CTRL_TCP_EN) d && (!r.disc || rdb Reg.NVF_CTRL_DISC_EN d)) = true := by
  rcases h.discovery with hdisc | hdisc <;> simp [rdb, h.transport, hdisc]

theorem ConnectAdmitted.rightService (h : ConnectAdmitted r c d) :
    ((r.service == if r.disc && !r.rdma then 8009 else 4420) == false) = false := by simp [h.service]

theorem ConnectAdmitted.linkUp (h : ConnectAdmitted r c d) : rdb (Reg.ETH_LINK_UP r.port) d = true := by simp [rdb, h.up]

/-- A Connect of an admin queue creates a controller (R144). -/
theorem connect_admin {k : Nat} (h : ConnectAdmitted r c d) (hqid : r.qid = 0) (hentries : r.entries ≤ 32)
    (hk : freeCntlid d = some k) : connect r d = openCtx c r k (addCtrl k c r d) := by
  simp only [connect, if_neg h.state, h.rightService, h.enabled, h.linkUp, h.outputs, h.free, hqid, hk, Nat.not_lt.2 hentries, gt_iff_lt,
    Bool.not_true, Bool.or_false, Bool.false_eq_true, if_false, if_true, addCtrl]

/-- A Connect of an I/O queue joins the host's own controller, which has no such queue yet (R144). -/
theorem connect_io (h : ConnectAdmitted r c d) (hlow : 1 ≤ r.qid) (hhigh : r.qid ≤ 128) (hentries : r.entries ≤ 1024)
    (hexists : (getCtrl r.cntlid d).exists_ = true) (hnqn : (getCtrl r.cntlid d).nqn = r.nqn)
    (hdisc : (getCtrl r.cntlid d).disc = false) (hnew : ∀ q ∈ ctrlCtxs r.cntlid d, (getCtx q d).qid ≠ r.qid) :
    connect r d = openCtx c r r.cntlid d := by
  have hqid : ¬r.qid = 0 := by omega
  have hsizes : ¬(decide (r.qid > 128) || decide (r.entries > 1024)) = true := by simp; omega
  have hjoins : ((getCtrl r.cntlid d).exists_ && (getCtrl r.cntlid d).nqn == r.nqn && !(getCtrl r.cntlid d).disc &&
      !((ctrlCtxs r.cntlid d).any fun q => (getCtx q d).qid == r.qid)) = true := by
    simpa [hexists, hnqn, hdisc] using hnew
  rw [getCtrl] at hjoins
  simp only [connect, if_neg h.state, h.rightService, h.enabled, h.linkUp, h.outputs, h.free, if_neg hqid, if_neg hsizes, hjoins,
    Bool.not_true, Bool.or_false, Bool.false_eq_true, if_false, if_true]

end

/-! ### Links of host ports (R141, R179) -/

theorem getPort_modPort_same (p : Nat) (f : HostPort → HostPort) (d : Dev) : getPort p (modPort p f d) = f (getPort p d) := by
  simp [getPort, modPort, tget_tmod]

/-- A host port's link register is not one that moves at the end of any command. -/
theorem linkReg_not_ambient (p : Fin 32) : 0x3200100 + 0x8 * p.val ∉ ambientRegs := by
  simp only [ambientRegs, messageRegs, settleRegs, Reg.CDT_OUT_COUNT, Reg.CDT_SENT_COUNT, Reg.CDT_FAILED_COUNT, Reg.CDT_INJ_ARM,
    Reg.GLB_INTR_STAT_LEVEL, msixPba, List.mem_append, List.mem_cons, List.not_mem_nil, or_false]
  omega

theorem portSpeed_lt (p : Nat) (d : Dev) : portSpeed p d < 4 := by
  unfold portSpeed
  split <;> decide

/-! ### The commands -/

theorem fabricsConnect_answers_admin {s : State} (hready : s.ready) {r : ConnectReq} {c k : Nat} (h : ConnectAdmitted r c s.dev)
    (hqid : r.qid = 0) (hentries : r.entries ≤ 32) (hk : freeCntlid s.dev = some k) : Answers (.fabricsConnect r) s fun d =>
      (getCtx c d).opn = true ∧ (getCtx c d).cntlid = k ∧ (getCtx c d).gen = ((getCtx c s.dev).gen + 1) % 64 ∧
      (getCtrl k d).exists_ = true ∧ (getCtrl k d).nqn = r.nqn ∧ (getCtrl k d).admin = c ∧
      Out.completion c r.cid 0 false k ∈ d.out := by
  obtain ⟨hlive, htodo⟩ := hready
  have heffect : connect r s.dev.quiet = openCtx c r k (addCtrl k c r s.dev.quiet) :=
    connect_admin h.quiet hqid hentries hk
  obtain ⟨hident, hctrls, hkept, hcompletion⟩ := opened_openCtx c r k (addCtrl k c r s.dev.quiet)
  rw [← heffect] at hident hctrls hkept hcompletion
  refine answers_live (f := connect r) rfl hlive (hkept.trans htodo) fun e he => ?_
  have hctx : getCtx c e = getCtx c (connect r s.dev.quiet) := by simp only [getCtx, he.front]
  have hctrl : getCtrl k e = { exists_ := true, disc := r.disc, nqn := r.nqn, admin := c, kato := r.kato } := by
    simp [getCtrl, he.front, hctrls, addCtrl]
  obtain ⟨hopn, hcntlid, -, hgen⟩ := by simpa only [ctxIdent, Prod.mk.injEq] using hident
  rw [hctx, hctrl]
  exact ⟨hopn, hcntlid, hgen, rfl, rfl, rfl, he.mem_out hcompletion⟩

theorem fabricsConnect_answers_io {s : State} (hready : s.ready) {r : ConnectReq} {c : Nat} (h : ConnectAdmitted r c s.dev)
    (hlow : 1 ≤ r.qid) (hhigh : r.qid ≤ 128) (hentries : r.entries ≤ 1024) (hexists : (getCtrl r.cntlid s.dev).exists_ = true)
    (hnqn : (getCtrl r.cntlid s.dev).nqn = r.nqn) (hdisc : (getCtrl r.cntlid s.dev).disc = false)
    (hnew : ∀ q ∈ ctrlCtxs r.cntlid s.dev, (getCtx q s.dev).qid ≠ r.qid) : Answers (.fabricsConnect r) s fun d =>
      (getCtx c d).opn = true ∧ (getCtx c d).cntlid = r.cntlid ∧ (getCtx c d).qid = r.qid ∧
      (getCtx c d).gen = ((getCtx c s.dev).gen + 1) % 64 ∧ Out.completion c r.cid 0 false r.cntlid ∈ d.out := by
  obtain ⟨hlive, htodo⟩ := hready
  have heffect : connect r s.dev.quiet = openCtx c r r.cntlid s.dev.quiet :=
    connect_io h.quiet hlow hhigh hentries hexists hnqn hdisc hnew
  obtain ⟨hident, -, hkept, hcompletion⟩ := opened_openCtx c r r.cntlid s.dev.quiet
  rw [← heffect] at hident hkept hcompletion
  refine answers_live (f := connect r) rfl hlive (hkept.trans htodo) fun e he => ?_
  have hctx : getCtx c e = getCtx c (connect r s.dev.quiet) := by simp only [getCtx, he.front]
  obtain ⟨hopn, hcntlid, hqid, hgen⟩ := by simpa only [ctxIdent, Prod.mk.injEq] using hident
  rw [hctx]
  exact ⟨hopn, hcntlid, hqid, hgen, he.mem_out hcompletion⟩

/-- A command that tears a context down, after outputs that leave what is owed, closes it and keeps those outputs. -/
theorem teardown_answers {x : Instr} {s : State} {f : Dev → Dev} {P : Dev → Prop} {c : Nat} {d : Dev} (hx : exec x s = runLive f s)
    (hready : s.ready) (heffect : f s.dev.quiet = teardown c d) (hd : SendsMore s.dev.quiet d)
    (hp : ∀ e, (getCtx c e).opn = false → (∀ o ∈ d.out, o ∈ e.out) → P e) : Answers x s P := by
  obtain ⟨hlive, htodo⟩ := hready
  have hkept := sendsMore_teardown c d
  refine answers_live hx hlive ?_ fun e he => ?_
  · rw [heffect]
    exact (hkept.todo.trans hd.todo).trans htodo
  · rw [heffect] at he
    have hctx : getCtx c e = getCtx c (teardown c d) := by simp only [getCtx, he.front]
    exact hp e (hctx ▸ opn_teardown c d) fun o ho => he.mem_out (hkept.out ho)

theorem fabricsDisconnect_answers {s : State} (hready : s.ready) (c : HostCmd) (hopn : (getCtx c.ctx s.dev).opn = true) :
    Answers (.fabricsDisconnect c) s fun d => (getCtx c.ctx d).opn = false ∧ Out.completion c.ctx c.cid 0 false 0 ∈ d.out :=
  teardown_answers (f := fun d => if (getCtx c.ctx d).opn then teardown c.ctx (send (.completion c.ctx c.cid 0 false 0) d) else d)
    rfl hready (if_pos hopn) (ctxsKept_send ..).toSendsMore fun _ hclosed hout => ⟨hclosed, hout _ (by simp)⟩

theorem transportConnectionLoss_answers {s : State} (hready : s.ready) (c : Fin 262144) :
    Answers (.transportConnectionLoss c) s fun d => (getCtx c d).opn = false :=
  teardown_answers (f := teardown c) rfl hready rfl (.refl _) fun _ hclosed _ => hclosed

theorem keepAliveExpire_answers {s : State} (hready : s.ready) (k : Fin 65536) (ms : Nat) (hexists : (getCtrl k s.dev).exists_ = true)
    (hon : (getCtrl k s.dev).kato ≠ 0) (hpast : (getCtrl k s.dev).kato ≤ ms) (hpaused : activationPaused s.dev = false) :
    Answers (.keepAliveExpire k ms) s fun d => (getCtx (getCtrl k s.dev).admin d).opn = false := by
  have hdue : ((getCtrl k s.dev).exists_ && (getCtrl k s.dev).kato != 0 && ms ≥ (getCtrl k s.dev).kato &&
      !activationPaused s.dev) = true := by simp [hexists, hon, hpast, hpaused]
  exact teardown_answers (f := fun d =>
    if (getCtrl k d).exists_ && (getCtrl k d).kato != 0 && ms ≥ (getCtrl k d).kato && !activationPaused d
      then teardown (getCtrl k d).admin d else d) rfl hready (if_pos hdue) (.refl _) fun _ hclosed _ => hclosed

/-- The effect of HOST_LINK_RETRAIN. -/
def retrainEffect (p : Nat) (d : Dev) : Dev :=
  if portLanes p d = 0 || (getPort p d).quar then d
  else if hasGrant (.hostPort p) 5 d then bump (Reg.ETH_LINK_RETRAINS p) (modPort p (fun x => { x with training := true }) d)
  else postReq { who := .hostPort p, cls := 5, cost := 10 * portLanes p d } d

theorem exec_hostLinkRetrain (p : Fin 32) (s : State) : exec (.hostLinkRetrain p) s = runLive (retrainEffect p) s := rfl

theorem hostLinkRetrain_answers_granted {s : State} (hready : s.ready) (p : Fin 32) (hlanes : portLanes p s.dev ≠ 0)
    (hquar : (getPort p s.dev).quar = false) (hgrant : hasGrant (.hostPort p) 5 s.dev = true) :
    Answers (.hostLinkRetrain p) s fun d => (getPort p d).training = true := by
  obtain ⟨hlive, htodo⟩ := hready
  have heffect : retrainEffect p s.dev.quiet =
      bump (Reg.ETH_LINK_RETRAINS p) (modPort p (fun x => { x with training := true }) s.dev.quiet) :=
    (if_neg (by simpa using ⟨hlanes, hquar⟩)).trans (if_pos hgrant)
  refine answers_live (exec_hostLinkRetrain p s) hlive ?_ fun e he => ?_
  · rw [heffect, bump_eq, bumpBy_todo]
    exact htodo
  · rw [heffect] at he
    have hport : getPort p e = getPort p (modPort p (fun x => { x with training := true }) s.dev.quiet) := by
      simp only [getPort, he.front, bump_eq, bumpBy_front]
    rw [hport, getPort_modPort_same]

theorem hostLinkRetrain_answers_waiting {s : State} (hready : s.ready) (p : Fin 32) (hlanes : portLanes p s.dev ≠ 0)
    (hquar : (getPort p s.dev).quar = false) (hgrant : hasGrant (.hostPort p) 5 s.dev = false)
    (hnone : ∀ q ∈ s.dev.pwr.waiting, q.who = .hostPort p → q.cls ≠ 5) :
    Answers (.hostLinkRetrain p) s fun d =>
      d.pwr.waiting = s.dev.pwr.waiting ++ [{ who := .hostPort p, cls := 5, cost := 10 * portLanes p s.dev }] := by
  obtain ⟨hlive, htodo⟩ := hready
  have heffect : retrainEffect p s.dev.quiet = { s.dev.quiet with
      pwr.waiting := s.dev.pwr.waiting ++ [{ who := .hostPort p, cls := 5, cost := 10 * portLanes p s.dev }] } :=
    ((if_neg (by simpa using ⟨hlanes, hquar⟩)).trans (if_neg (Bool.eq_false_iff.1 hgrant))).trans
      (if_neg (by simpa using hnone))
  refine answers_live (exec_hostLinkRetrain p s) hlive ?_ fun e he => ?_
  · rw [heffect]
    exact htodo
  · rw [he.pwr, heffect]

/-- Training ends in a link that is up. -/
def endTraining (p : Nat) (d : Dev) : Dev :=
  let d := endHold (.hostPort p) 5 (modPort p (fun x => { x with training := false }) d)
  wr (Reg.ETH_LINK_SPEED p) (portSpeed p d) (setb (Reg.ETH_LINK_UP p) d)

/-- The effect of HOST_LINK_UP. -/
def linkUpEffect (p : Nat) (d : Dev) : Dev :=
  if portLanes p d = 0 || (getPort p d).quar || !(getPort p d).training then d else endTraining p d

theorem exec_hostLinkUp (p : Fin 32) (s : State) : exec (.hostLinkUp p) s = runLive (linkUpEffect p) s := rfl

theorem hostLinkUp_answers {s : State} (hready : s.ready) (p : Fin 32) (hlanes : portLanes p s.dev ≠ 0)
    (hquar : (getPort p s.dev).quar = false) (htraining : (getPort p s.dev).training = true) :
    Answers (.hostLinkUp p) s fun d =>
      rd (Reg.ETH_LINK_UP p) d = 1 ∧ rd (Reg.ETH_LINK_SPEED p) d = portSpeed p s.dev ∧ (getPort p d).training = false := by
  obtain ⟨hlive, htodo⟩ := hready
  have heffect : linkUpEffect p s.dev.quiet = endTraining p s.dev.quiet := if_neg (by simpa using ⟨⟨hlanes, hquar⟩, htraining⟩)
  refine answers_live (exec_hostLinkUp p s) hlive (heffect ▸ htodo) fun e he => ?_
  rw [heffect] at he
  refine ⟨?_, ?_, ?_⟩
  · rw [he.rd (linkReg_not_ambient p), endTraining, rd_wr_apart rfl rfl (by simp [Field.apart, Reg.ETH_LINK_SPEED, Reg.ETH_LINK_UP]),
      setb_eq, rd_wr_same rfl]
    rfl
  · rw [he.rd (linkReg_not_ambient p), endTraining, rd_wr_same rfl]
    exact Nat.mod_eq_of_lt (portSpeed_lt p _)
  · have hport : getPort p e = getPort p (modPort p (fun x => { x with training := false }) s.dev.quiet) := by
      have hfront : (endTraining p s.dev.quiet).front = (modPort p (fun x => { x with training := false }) s.dev.quiet).front := rfl
      simp only [getPort, he.front, hfront]
    rw [hport, getPort_modPort_same]

theorem hostLinkDown_answers {s : State} (hready : s.ready) (p : Fin 32) :
    Answers (.hostLinkDown p) s fun d => rd (Reg.ETH_LINK_UP p) d = 0 := by
  obtain ⟨hlive, htodo⟩ := hready
  refine answers_live (f := clr (Reg.ETH_LINK_UP p)) rfl hlive htodo fun e he => ?_
  rw [he.rd (linkReg_not_ambient p), clr_eq, rd_wr_same rfl]
  rfl

/-! ### A completion delivered (R166) -/

/-- A counter that rises leaves every field of another register. -/
theorem rd_bump_off {f g : Field} (h : g.off ≠ f.off) (d : Dev) : rd g (bump f d) = rd g d := by
  rw [bump_eq, bumpBy]
  split
  · exact rd_wr_off h _ d
  · exact rd_wr_off h _ _

/-- A command in progress ends: its record is free, the terminal state is sent, and one fewer is outstanding. -/
theorem endCmd_effect {n : Nat} {d : Dev} (h : (getCmd n d).state = 1) (kind : Nat) :
    (getCmd n (endCmd n kind d)).state = 0 ∧ Out.terminal n kind ∈ (endCmd n kind d).out ∧
    rd Reg.NVF_CMD_OUT_OUTSTANDING (endCmd n kind d) = rd Reg.NVF_CMD_OUT_OUTSTANDING d - 1 := by
  have hlt : rd Reg.NVF_CMD_OUT_OUTSTANDING d - 1 < 2 ^ Reg.NVF_CMD_OUT_OUTSTANDING.width := (Nat.sub_le ..).trans_lt (rd_lt _ d)
  simp only [endCmd, h, ne_eq, not_true_eq_false, if_false]
  refine ⟨?_, ?_, ?_⟩
  · simp [getCmd, bump_eq]
  · simp [bump_eq]
  · rw [rd_bump_off (by decide), rd_wr_same rfl]
    exact Nat.mod_eq_of_lt hlt

theorem completionDelivered_answers {s : State} (hready : s.ready) (n : Fin 1048576) (hposted : (getFc n s.dev).posted = true)
    (hstate : (getCmd n s.dev).state = 1) : Answers (.completionDelivered n) s fun d =>
      (getCmd n d).state = 0 ∧ Out.terminal n 0 ∈ d.out ∧
      rd Reg.NVF_CMD_OUT_OUTSTANDING d = rd Reg.NVF_CMD_OUT_OUTSTANDING s.dev - 1 := by
  obtain ⟨hlive, htodo⟩ := hready
  have heffect : (if (getFc n s.dev.quiet).posted then endCmd n 0 s.dev.quiet else s.dev.quiet) = endCmd n 0 s.dev.quiet :=
    if_pos hposted
  obtain ⟨hfree, hterminal, hcount⟩ := endCmd_effect (d := s.dev.quiet) hstate 0
  refine answers_live (f := fun d => if (getFc n d).posted then endCmd n 0 d else d) rfl hlive ?_ fun e he => ?_
  · rw [heffect, (ctxsKept_endCmd ..).todo]
    exact htodo
  · rw [heffect] at he
    have hcmd : getCmd n e = getCmd n (endCmd n 0 s.dev.quiet) := by simp only [getCmd, he.cas]
    exact ⟨hcmd ▸ hfree, he.mem_out hterminal, (he.rd (by decide)).trans hcount⟩

/-- Settles O22, command by command. The context and the CNTLID that a Connect takes are the lowest free ones (`freeCtx`, `freeCntlid`),
a choice of the model (log entry 9). -/
theorem connectionsAndLinks : Obligations.ConnectionsAndLinks := by
  unfold Obligations.ConnectionsAndLinks
  intro s hready
  refine ⟨fun r c hstate htransport hdiscovery hservice hup houtputs hfree => ?_, fun c => fabricsDisconnect_answers hready c,
    fun c => transportConnectionLoss_answers hready c, fun k ms => keepAliveExpire_answers hready k ms, fun p hlanes hquar => ?_,
    fun p => hostLinkDown_answers hready p, fun n => completionDelivered_answers hready n⟩
  · have hadmitted : ConnectAdmitted r c s.dev := ⟨hstate, htransport, hdiscovery, hservice, hup, houtputs, hfree⟩
    exact ⟨fun k => fabricsConnect_answers_admin hready hadmitted, fabricsConnect_answers_io hready hadmitted⟩
  · exact ⟨hostLinkRetrain_answers_granted hready p hlanes hquar, hostLinkRetrain_answers_waiting hready p hlanes hquar,
      hostLinkUp_answers hready p hlanes hquar⟩

end Sys2Proof.Proofs

/-!
PROOFS. O25 is refuted: a foreign HIT need not leave its slot HELD. The index decision reads the key domain's entry of the Security Policy
Table (R205, R554); when its halves disagree, SXC_PAIRED is raised, and with all 64 Check entries open the oldest one escalates (R575). When
that one's unit is the engine that holds the slot, the engine is quarantined (R578) and the slot returns to DURABLE (R120).
-/

namespace Sys2Proof.Proofs

open Sys2Proof Sys2Proof.Machine

/-- Engines 0 to 63 have a Check open each, of a tempo overrun in the same tempo (R51). -/
def openEngineChecks (d : Dev) : Dev :=
  forEach (List.range 64) (fun k d =>
    setb (Reg.FLT_CHK_OPEN k) (wr (Reg.FLT_CHK_UNIT k) (unitOf 1 k) (wr (Reg.FLT_CHK_CODE k) Ev.TEMPO_OVERRUN d))) d

/-- Media Link lanes 0 to 31 have a Double check open each: FLT_DCHKj has no entry left, so that no free choice of one is met. -/
def openLaneDoubleChecks (d : Dev) : Dev :=
  forEach (List.range 32) (fun j d =>
    setb (Reg.FLT_DCHK_OPEN j) (wr (Reg.FLT_DCHK_UNIT j) (unitOf 0xA j) (wr (Reg.FLT_DCHK_CODE j) Ev.MDL_LINK_FAIL d))) d

/-- A HIT on a GID that device 2 allocated. -/
def foreignHit : ProbeAns := { result := 0, gid := mkGid 2 0 1 }

/-- Both lists are full; slot 9 is REDUCING at engine 0, of a reduction cluster, with a foreign HIT; the halves of its key domain's entry
disagree. -/
def crowdedDev : Dev :=
  openLaneDoubleChecks (openEngineChecks (wr (Reg.CL_CTRL_FUNCTION 0) 1 { ({} : Dev) with
    sxc.spt := some { bad := [.domain 0] }
    stg.slots := [(9, { state := 4, work := { phase := 3, ans := some foreignHit, engine := 0 } })] }))

theorem crowdedDev_ready : (State.mk crowdedDev []).ready := by decide +kernel
theorem crowdedDev_state : (getSlot 9 crowdedDev).state = 4 := by decide +kernel
theorem crowdedDev_phase : (getSlot 9 crowdedDev).work.phase = 3 := by decide +kernel
theorem crowdedDev_ans : (getSlot 9 crowdedDev).work.ans = some foreignHit := by decide +kernel
theorem crowdedDev_noTrouble : inTrouble crowdedDev = false := by decide +kernel
theorem crowdedDev_hitStands : hitRefused 9 foreignHit crowdedDev.quiet = none := by decide +kernel
theorem crowdedDev_trusts : (comparePolicy (getNs (getSlot 9 crowdedDev).nsid crowdedDev) crowdedDev.quiet).1 = false := by decide +kernel
theorem foreignHit_foreign : gidLocal foreignHit.gid crowdedDev = false := by decide +kernel

/-- INDEX_DECISION takes the HIT; the reactions that SXC_PAIRED owes then return the slot to DURABLE. -/
theorem indexDecision_crowdedDev : ∃ t, exec (.indexDecision 9) ⟨crowdedDev, []⟩ = .next t ∧ (getSlot 9 t.dev).state = 3 :=
  ⟨_, rfl, by decide +kernel⟩

/-- Refutes O25: it asks that a foreign HIT of a good answer leave its slot REDUCING and HELD. On `crowdedDev` the decision's read of the
key domain raises SXC_PAIRED, the Check of engine 0, the oldest of 64, escalates, and the slot that engine 0 held is DURABLE again. The
clause does not ask that a Check entry be free (`State.checkRoom`). -/
theorem not_reductionStepsAdvanceSlots : ¬ Obligations.ReductionStepsAdvanceSlots := by
  unfold Obligations.ReductionStepsAdvanceSlots
  intro h
  obtain ⟨-, -, -, -, hreducing⟩ := h ⟨crowdedDev, []⟩ 9 crowdedDev_ready
  obtain ⟨-, -, hdecision, -⟩ := hreducing crowdedDev_state
  obtain ⟨-, -, hhit⟩ := hdecision foreignHit crowdedDev_phase crowdedDev_ans crowdedDev_noTrouble
  obtain ⟨htrust, -⟩ := hhit rfl crowdedDev_hitStands
  obtain ⟨t, hnext, -, -, hforeign⟩ := htrust crowdedDev_trusts
  obtain ⟨hheld, -⟩ := hforeign foreignHit_foreign
  obtain ⟨u, hu, hdurable⟩ := indexDecision_crowdedDev
  rw [hnext] at hu
  injection hu with htu
  rw [htu, hdurable] at hheld
  exact absurd hheld (by decide)

end Sys2Proof.Proofs

/-!
PROOFS. O27: probes. Giving an answer counts it and writes it to the slot's work or to the probe block; the owner's answer follows the order
of R242; so a probe that starts is answered here or sent to the owner, and the five commands are read off these.
-/

namespace Sys2Proof.Proofs

open Sys2Proof Sys2Proof.Machine

/-- The command ends as its effect, `e`, and the end of every command leave. -/
def RunsTo (c : Instr) (s : State) (e : Dev) : Prop := exec c s = .next ⟨finish e, s.pending⟩

theorem runsTo_of_live {c : Instr} {s : State} {f : Dev → Dev} {e : Dev} (o : Host.Outcome State Fault Refusal) (hx : exec c s = o)
    (ho : o = runLive f s) (hready : s.ready) (heffect : f s.dev.quiet = e) : RunsTo c s e := by
  rw [RunsTo, hx, ho, runLive_eq f s hready.1, heffect]

theorem RunsTo.answers {c : Instr} {s : State} {e : Dev} {P : Dev → Prop} (hruns : RunsTo c s e) (htodo : e.todo = [])
    (hp : ∀ d, EndedFrom e d → P d) : Answers c s P :=
  ⟨⟨finish e, s.pending⟩, hruns, rfl, hp _ (EndedFrom.finish e htodo)⟩

theorem rd_of_regs {d e : Dev} (h : e.regs = d.regs) (f : Field) : rd f e = rd f d := by rw [rd, rd, h]

theorem rd_bump_same {f : Field} (hf : f.fits) {d : Dev} (h : rd f d + 1 < 2 ^ f.width) : rd f (bump f d) = rd f d + 1 := by
  rw [bump_eq, bumpBy, if_pos h, rd_wr_same hf, Nat.mod_eq_of_lt h]

/-! ### Giving an answer (R241) -/

/-- Only registers and free values differ, and of the registers only those listed. -/
structure CountedIn (os : List Nat) (d e : Dev) : Prop where
  rest : e = { d with regs := e.regs, free := e.free }
  rd : ∀ f : Field, f.off ∉ os → Machine.rd f e = Machine.rd f d

theorem CountedIn.refl {os : List Nat} (d : Dev) : CountedIn os d d := ⟨rfl, fun _ _ => rfl⟩

theorem CountedIn.trans {os : List Nat} {a b c : Dev} (h : CountedIn os a b) (g : CountedIn os b c) : CountedIn os a c :=
  ⟨by rw [g.rest, h.rest], fun f hf => (g.rd f hf).trans (h.rd f hf)⟩

theorem countedIn_bump {os : List Nat} (f : Field) (d : Dev) (hf : f.off ∈ os) : CountedIn os d (bump f d) := by
  refine ⟨?_, fun g hg => rd_bump_off (fun h => hg (by rw [h]; exact hf)) d⟩
  rw [bump_eq, bumpBy]
  split <;> rfl

/-- The counters of answered probes (Table 7.10). -/
def probeCounters : List Nat := [Reg.FIU_PRB_HITS.off, Reg.FIU_PRB2_UNAVAIL.off]

/-- An answer is counted by its RESULT. -/
def countAnswer (a : ProbeAns) (d : Dev) : Dev :=
  match a.result with
  | 0 => bump Reg.FIU_PRB_HITS d
  | 1 => bump Reg.FIU_PRB_MISSES (if bitOf a.flags 2 then bump Reg.FIU_PRB2_FILTER_NEG d else d)
  | _ => bump Reg.FIU_PRB2_UNAVAIL d

theorem countedIn_countAnswer (a : ProbeAns) (d : Dev) : CountedIn probeCounters d (countAnswer a d) := by
  unfold countAnswer
  split
  · exact countedIn_bump _ d (by decide)
  · refine .trans ?_ (countedIn_bump _ _ (by decide))
    split
    · exact countedIn_bump _ d (by decide)
    · exact .refl d
  · exact countedIn_bump _ d (by decide)

/-- The slot waits for the answer to its probe. -/
abbrev waitsForAnswer (n : Nat) (d : Dev) : Prop := (getSlot n d).state = 4 ∧ (getSlot n d).work.phase = 3

theorem giveAnswer_slot {n : Nat} {d : Dev} (hwait : waitsForAnswer n d) (a : ProbeAns) :
    giveAnswer (.slot n) a d = modWork n (fun w => { w with ans := some a }) (countAnswer a d) := by
  have hwait' : waitsForAnswer n (countAnswer a d) := by rw [(countedIn_countAnswer a d).rest]; exact hwait
  exact if_pos hwait'

/-- The slot has its answer; nothing is owed beyond what was, and the FIU is as it was. -/
structure AnsweredFrom (n : Nat) (a : ProbeAns) (d e : Dev) : Prop where
  todo : e.todo = d.todo
  probes : e.fiu.probes = d.fiu.probes
  remote : e.fiu.remote = d.fiu.remote
  rd : ∀ f : Field, f.off ∉ probeCounters → Machine.rd f e = Machine.rd f d
  ans : (getSlot n e).work.ans = some a

theorem answeredFrom_giveAnswer {n : Nat} {d : Dev} (hwait : waitsForAnswer n d) (a : ProbeAns) :
    AnsweredFrom n a d (giveAnswer (.slot n) a d) := by
  have hcount := countedIn_countAnswer a d
  rw [giveAnswer_slot hwait]
  refine ⟨?_, ?_, ?_, fun f hf => hcount.rd f hf, ?_⟩
  · rw [hcount.rest]; rfl
  · rw [hcount.rest]; rfl
  · rw [hcount.rest]; rfl
  · simp [modWork, modSlot, getSlot, tget_tmod]

/-- The result fields of a probe block (Table 7.4), from RESULT on. -/
def answerFields (a : ProbeAns) : Bytes :=
  leBytes 1 a.result ++ leBytes 1 a.flags ++ leBytes 2 a.slot ++ leBytes 8 a.gid ++ leBytes 4 a.bucket ++ leBytes 2 a.part ++
    leBytes 1 a.owner ++ [0] ++ leBytes 4 a.ver

theorem giveAnswer_block (b : Nat) (a : ProbeAns) (d : Dev) :
    giveAnswer (.block b) a d = storeNat (b + 35) 1 1 (storeMem (b + 36) (answerFields a) (countAnswer a d)) := rfl

theorem memByte_storeMem_out {a x : Nat} {b : Bytes} (h : x < a ∨ a + b.length ≤ x) (d : Dev) :
    memByte (storeMem a b d) x = memByte d x := by
  rw [memByte_of_mem (storeMem_mem ..), memByte_memWrite_out x b a d h]

theorem memByte_storeMem_head (a : Nat) (x : Byte) (b : Bytes) (d : Dev) : memByte (storeMem a (x :: b) d) a = x := by
  rw [memByte_of_mem (storeMem_mem ..)]
  exact memByte_memWrite_in (x :: b) a 0 d (by simp)

theorem memWrite_rest (b : Bytes) : ∀ (a : Nat) (d : Dev), memWrite a b d = { d with mem := (memWrite a b d).mem } := by
  induction b with
  | nil => intros; rfl
  | cons x b ih =>
    intro a d
    rw [memWrite, ih]
    rfl

/-- A store changes memory, its marks, and a register where an injection is spent. -/
theorem storeMem_rest (a : Nat) (b : Bytes) (d : Dev) :
    storeMem a b d = { d with regs := (storeMem a b d).regs, mem := (storeMem a b d).mem, fab := (storeMem a b d).fab } := by
  have hwrite := memWrite_rest b a d
  unfold storeMem injectStore
  dsimp only
  generalize memWrite a b d = e at hwrite ⊢
  rw [hwrite]
  split
  · split <;> rfl
  · rfl

theorem storeMem_fiu (a : Nat) (b : Bytes) (d : Dev) : (storeMem a b d).fiu = d.fiu := by rw [storeMem_rest]
theorem storeMem_todo (a : Nat) (b : Bytes) (d : Dev) : (storeMem a b d).todo = d.todo := by rw [storeMem_rest]
theorem storeMem_taskRings (a : Nat) (b : Bytes) (d : Dev) : (storeMem a b d).taskRings = d.taskRings := by rw [storeMem_rest]

/-- A probe block has its RESULT, and DONE stands. -/
theorem giveAnswer_block_effect (b : Nat) {a : ProbeAns} {x : Byte} (hx : leBytes 1 a.result = [x]) (d : Dev) :
    (giveAnswer (.block b) a d).todo = d.todo ∧ (giveAnswer (.block b) a d).fiu = d.fiu ∧
      memByte (giveAnswer (.block b) a d) (b + 35) = 1 ∧ memByte (giveAnswer (.block b) a d) (b + 36) = x := by
  have hrest := (countedIn_countAnswer a d).rest
  rw [giveAnswer_block, storeNat]
  refine ⟨?_, ?_, memByte_storeMem_head .., ?_⟩
  · rw [storeMem_todo, storeMem_todo, hrest]
  · rw [storeMem_fiu, storeMem_fiu, hrest]
  · rw [memByte_storeMem_out (.inr (by rw [Laws.leBytes_length])), answerFields, hx]
    exact memByte_storeMem_head ..

/-! ### The hot set (R238) -/

/-- Only the hot set and the dirty metadata pages differ. -/
def HotFrom (d e : Dev) : Prop := e = { d with fiu.hot := e.fiu.hot, fiu.hotDirty := e.fiu.hotDirty, ftl := e.ftl }

theorem hotFrom_touchPage (kind idx : Nat) (d : Dev) : HotFrom d (touchPage kind idx d) := by
  unfold touchPage HotFrom
  dsimp only
  split <;> rfl

theorem hotFrom_touchBucket (key : Nat) (dirty : Bool) (d : Dev) : HotFrom d (touchBucket key dirty d) :=
  forEach_invariant (P := HotFrom d) (fun n e (he : HotFrom d e) => by
    have hpage : HotFrom e (touchPage 5 (n / 2) e) := hotFrom_touchPage ..
    unfold HotFrom at *
    rw [hpage, he]) _ rfl

/-! ### The owner's answer (R242) -/

theorem ownerProbe_absent {fp : Bytes} {d : Dev} (h : filterAbsent (beNat fp) d = true) (kdom : Nat) :
    (ownerProbe fp kdom d).1.result = 1 := by
  simp [ownerProbe, h]

theorem ownerProbe_hit {fp : Bytes} {kdom i : Nat} {b : Bytes} {d : Dev} (h : filterAbsent (beNat fp) d = false)
    (hfind : (getBucket (bucketKey (partOf (beNat fp)) (bucketOf (beNat fp) d)) d).find? (fun e => entryMatches e.2 fp kdom) = some (i, b)) :
    (ownerProbe fp kdom d).1.result = 0 ∧ (ownerProbe fp kdom d).1.slot = i ∧ (ownerProbe fp kdom d).1.gid = entryGid b := by
  simp [ownerProbe, h, hfind]

theorem ownerProbe_miss {fp : Bytes} {kdom : Nat} {d : Dev} (h : filterAbsent (beNat fp) d = false)
    (hfind : (getBucket (bucketKey (partOf (beNat fp)) (bucketOf (beNat fp) d)) d).find? (fun e => entryMatches e.2 fp kdom) = none) :
    (ownerProbe fp kdom d).1.result = 1 ∧
      (ownerProbe fp kdom d).1.slot = emptySlot (getBucket (bucketKey (partOf (beNat fp)) (bucketOf (beNat fp) d)) d) := by
  simp [ownerProbe, h, hfind]

theorem hotFrom_ownerProbe (fp : Bytes) (kdom : Nat) (d : Dev) : HotFrom d (ownerProbe fp kdom d).2 := by
  unfold ownerProbe
  dsimp only
  split
  · exact rfl
  · split <;> exact hotFrom_touchBucket ..

/-! ### A probe starts (R242, R243, R657) -/

theorem served_valid {p : Nat} {d : Dev} (h : servesPart p d = true) : fiuOn d = true ∧ ownValid p d = true := by
  simp only [servesPart, Bool.and_eq_true] at h
  exact h.1

theorem startProbe_unowned {who : ProbeFor} {d : Dev} (hgood : (probeOf who d).2.2 = false)
    (hown : ownValid (partOf (beNat (probeOf who d).1)) d = false) (retried : Bool) :
    startProbe who retried d = giveAnswer who (unavailable (probeOf who d).1 d) d := by
  simp [startProbe, hgood, hown]

theorem startProbe_here {who : ProbeFor} {d : Dev} (hgood : (probeOf who d).2.2 = false)
    (hserves : servesPart (partOf (beNat (probeOf who d).1)) d = true) (retried : Bool) :
    startProbe who retried d = giveAnswer who (ownerProbe (probeOf who d).1 (probeOf who d).2.1 d).1
      (ownerProbe (probeOf who d).1 (probeOf who d).2.1 d).2 := by
  obtain ⟨hon, hown⟩ := served_valid hserves
  simp [startProbe, hgood, hon, hown, hserves]

/-- The probe that waits for another device's reply (R243). -/
def sentProbe (who : ProbeFor) (retried : Bool) (d : Dev) : RemoteProbe := {
  tag := d.fiu.nextTag, who := who, fp := (probeOf who d).1, kdom := (probeOf who d).2.1
  due := tempoNow d + rd Reg.FIU_CTRL_PROBE_TMO d, retried := retried, owner := ownerOf (partOf (beNat (probeOf who d).1)) d }

theorem startProbe_away {who : ProbeFor} {d : Dev} (hgood : (probeOf who d).2.2 = false) (hon : fiuOn d = true)
    (hown : ownValid (partOf (beNat (probeOf who d).1)) d = true) (haway : servesPart (partOf (beNat (probeOf who d).1)) d = false)
    (retried : Bool) : startProbe who retried d =
      send (.indexProbe (ownerOf (partOf (beNat (probeOf who d).1)) d) (probeOf who d).1 (probeOf who d).2.1
        (rd Reg.FIU_OWN_VER_VERSION d) d.fiu.nextTag)
        { d with fiu.nextTag := d.fiu.nextTag + 1, fiu.remote := d.fiu.remote ++ [sentProbe who retried d] } := by
  simp [startProbe, sentProbe, hgood, hon, hown, haway]

theorem answeredFrom_startProbe_unowned {n : Nat} {d : Dev} (hwait : waitsForAnswer n d)
    (hown : ownValid (partOf (beNat (getSlot n d).work.fp)) d = false) (retried : Bool) :
    AnsweredFrom n (unavailable (getSlot n d).work.fp d) d (startProbe (.slot n) retried d) := by
  rw [startProbe_unowned (who := .slot n) rfl hown]
  exact answeredFrom_giveAnswer hwait _

theorem answeredFrom_startProbe_here {n : Nat} {d : Dev} (hwait : waitsForAnswer n d)
    (hserves : servesPart (partOf (beNat (getSlot n d).work.fp)) d = true) (retried : Bool) :
    AnsweredFrom n (ownerProbe (getSlot n d).work.fp (getNs (getSlot n d).nsid d).domain d).1 d (startProbe (.slot n) retried d) := by
  have hhot := hotFrom_ownerProbe (getSlot n d).work.fp (getNs (getSlot n d).nsid d).domain d
  have hslot : waitsForAnswer n (ownerProbe (getSlot n d).work.fp (getNs (getSlot n d).nsid d).domain d).2 := by
    rw [hhot]; exact hwait
  rw [startProbe_here (who := .slot n) rfl hserves]
  obtain ⟨htodo, hprobes, hremote, hrd, hans⟩ := answeredFrom_giveAnswer hslot
    (ownerProbe (getSlot n d).work.fp (getNs (getSlot n d).nsid d).domain d).1
  refine ⟨htodo.trans ?_, hprobes.trans ?_, hremote.trans ?_, fun f hf => (hrd f hf).trans (rd_of_regs ?_ f), hans⟩ <;> rw [hhot]

/-- A remote probe that is lost gives its slot UNAVAILABLE (R243). -/
theorem answeredFrom_probeLost {n : Nat} {d : Dev} {p : RemoteProbe} (hwait : waitsForAnswer n d) (hp : p.who = .slot n) :
    AnsweredFrom n { unavailable p.fp d with flags := 8, owner := p.owner } { d with fiu.remote := d.fiu.remote.erase p } (probeLost p d) := by
  rw [probeLost, hp]
  exact answeredFrom_giveAnswer (d := { d with fiu.remote := d.fiu.remote.erase p }) hwait _

/-! ### The commands -/

theorem getSlot_ended {d e : Dev} (h : EndedFrom d e) (n : Nat) : getSlot n e = getSlot n d := by rw [getSlot, getSlot, h.stg]

/-- A command whose effect gives a slot its answer. -/
theorem RunsTo.answered {c : Instr} {s : State} {n : Nat} {a : ProbeAns} {d e : Dev} {P : Dev → Prop} (hruns : RunsTo c s e)
    (hans : AnsweredFrom n a d e) (htodo : d.todo = [])
    (hp : ∀ g : Dev, g.fiu.probes = d.fiu.probes → g.fiu.remote = d.fiu.remote → (getSlot n g).work.ans = some a →
      rd Reg.FIU_STATUS_TMO g = rd Reg.FIU_STATUS_TMO d → P g) : Answers c s P := by
  refine hruns.answers (hans.todo.trans htodo) fun g hg => hp g ?_ ?_ ?_ ?_
  · rw [hg.fiu, hans.probes]
  · rw [hg.fiu, hans.remote]
  · rw [getSlot_ended hg, hans.ans]
  · exact (hg.rd (by decide)).trans (hans.rd _ (by decide))

theorem fiuProbe_runsTo {s : State} (hready : s.ready) {p : ProbeFor} {ps : List ProbeFor} (h : s.dev.fiu.probes = p :: ps) :
    RunsTo .fiuProbe s (startProbe p false { s.dev.quiet with fiu.probes := ps }) :=
  runsTo_of_live (execFiuProbe s) rfl rfl hready (by simp only [quiet_fiu, h])

theorem indexProbeReceive_runsTo_here {s : State} (hready : s.ready) (dev : Fin 8) (q : List Byte) (k : Fin 4096) (tag : Nat)
    (hserves : servesPart (partOf (beNat (padTo 32 q))) s.dev = true) :
    RunsTo (.indexProbeReceive dev q k tag) s
      (send (.indexReply dev tag (ownerProbe (padTo 32 q) k s.dev.quiet).1) (ownerProbe (padTo 32 q) k s.dev.quiet).2) :=
  runsTo_of_live (execIndexProbeReceive dev q k tag s) rfl rfl hready (if_pos hserves)

theorem indexProbeReceive_runsTo_away {s : State} (hready : s.ready) (dev : Fin 8) (q : List Byte) (k : Fin 4096) (tag : Nat)
    (haway : servesPart (partOf (beNat (padTo 32 q))) s.dev = false) :
    RunsTo (.indexProbeReceive dev q k tag) s
      (send (.indexReply dev tag { result := 3, slot := 0, ver := rd Reg.FIU_OWN_VER_VERSION s.dev }) s.dev.quiet) :=
  runsTo_of_live (execIndexProbeReceive dev q k tag s) rfl rfl hready (if_neg (by rw [show servesPart _ s.dev.quiet = false from haway]; decide))

section reply

variable {s : State} {tag : Nat} {p : RemoteProbe}

/-- The answer that a reply gives to the requester (Table 7.4). -/
def replyAnswer (p : RemoteProbe) (r : IndexReply) (d : Dev) : ProbeAns := {
  result := r.result, flags := r.flags % 8 + 8, slot := r.slot, gid := if r.result = 0 then r.gid else 0, bucket := r.bucket
  part := partOf (beNat p.fp), owner := p.owner, ver := rd Reg.FIU_OWN_VER_VERSION d }

theorem indexReplyReceive_runsTo_late (hready : s.ready) (h : s.dev.fiu.remote.find? (·.tag == tag) = none) (r : IndexReply) :
    RunsTo (.indexReplyReceive tag (some r)) s (bump Reg.FIU_STALE_LATE s.dev.quiet) :=
  runsTo_of_live (execIndexReplyReceive tag (some r) s) rfl rfl hready (by simp [h])

theorem indexReplyReceive_runsTo_failed (hready : s.ready) (h : s.dev.fiu.remote.find? (·.tag == tag) = some p)
    (hfresh : p.retryVer = none) : RunsTo (.indexReplyReceive tag none) s (probeLost p s.dev.quiet) :=
  runsTo_of_live (execIndexReplyReceive tag none s) rfl rfl hready (by simp [h, hfresh])

theorem indexReplyReceive_runsTo_answer (hready : s.ready) (h : s.dev.fiu.remote.find? (·.tag == tag) = some p)
    (hfresh : p.retryVer = none) {r : IndexReply} (hr : r.result ≠ 3) :
    RunsTo (.indexReplyReceive tag (some r)) s
      (giveAnswer p.who (replyAnswer p r s.dev) { s.dev.quiet with fiu.remote := s.dev.fiu.remote.erase p }) :=
  runsTo_of_live (execIndexReplyReceive tag (some r) s) rfl rfl hready (by simp [h, hfresh, hr]; rfl)

theorem indexReplyReceive_runsTo_retry (hready : s.ready) (h : s.dev.fiu.remote.find? (·.tag == tag) = some p)
    (hfresh : p.retryVer = none) {r : IndexReply} (hr : r.result = 3) (hfirst : p.retried = false) :
    RunsTo (.indexReplyReceive tag (some r)) s { s.dev.quiet with
      fiu.remote := s.dev.fiu.remote.map fun x => if x.tag = tag then { x with retryVer := some r.ver } else x } :=
  runsTo_of_live (execIndexReplyReceive tag (some r) s) rfl rfl hready (by simp [h, hfresh, hr, hfirst])

theorem indexReplyReceive_runsTo_lost (hready : s.ready) (h : s.dev.fiu.remote.find? (·.tag == tag) = some p)
    (hfresh : p.retryVer = none) {r : IndexReply} (hr : r.result = 3) (hsecond : p.retried = true) :
    RunsTo (.indexReplyReceive tag (some r)) s (probeLost p s.dev.quiet) :=
  runsTo_of_live (execIndexReplyReceive tag (some r) s) rfl rfl hready (by simp [h, hfresh, hr, hsecond])

theorem probeTimeout_runsTo (hready : s.ready) (h : s.dev.fiu.remote.find? (·.tag == tag) = some p) (hfresh : p.retryVer = none)
    (hdue : p.due ≤ tempoNow s.dev) : RunsTo (.probeTimeout tag) s (probeLost p (setb Reg.FIU_STATUS_TMO s.dev.quiet)) := by
  have hdue' : p.due ≤ tempoNow s.dev.quiet := hdue
  exact runsTo_of_live (execProbeTimeout tag s) rfl rfl hready (by simp [h, hfresh, hdue'])

theorem wrongOwnerRetry_runsTo (hready : s.ready) (h : s.dev.fiu.remote.find? (·.tag == tag) = some p) {v : Nat}
    (hwaits : p.retryVer = some v) (hv : v ≤ rd Reg.FIU_OWN_VER_VERSION s.dev) : RunsTo (.wrongOwnerRetry tag) s
      (startProbe p.who true { s.dev.quiet with fiu.remote := s.dev.fiu.remote.erase p }) :=
  runsTo_of_live (execWrongOwnerRetry tag s) rfl rfl hready (by simp [h, hwaits, Nat.not_lt.2 hv])

end reply

/-! ### What the commands answer -/

section slot

variable {s : State} {n : Nat}

/-- The partition, and the bucket, of the fingerprint that a slot probes. -/
abbrev slotPart (n : Nat) (d : Dev) : Nat := partOf (beNat (getSlot n d).work.fp)
abbrev slotBucket (n : Nat) (d : Dev) : Tab Bytes :=
  getBucket (bucketKey (slotPart n d) (bucketOf (beNat (getSlot n d).work.fp) d)) d
abbrev slotDomain (n : Nat) (d : Dev) : Nat := (getNs (getSlot n d).nsid d).domain

/-- The slot has an answer with a RESULT. -/
abbrev answeredWith (n r : Nat) (d : Dev) : Prop := ∃ a, (getSlot n d).work.ans = some a ∧ a.result = r

theorem fiuProbe_answers_unowned (hready : s.ready) (hwait : waitsForAnswer n s.dev) {ps : List ProbeFor}
    (hprobes : s.dev.fiu.probes = .slot n :: ps) (hown : ownValid (slotPart n s.dev) s.dev = false) :
    Answers .fiuProbe s fun d => d.fiu.probes = ps ∧ answeredWith n 2 d :=
  (fiuProbe_runsTo hready hprobes).answered
    (answeredFrom_startProbe_unowned (d := { s.dev.quiet with fiu.probes := ps }) hwait hown false) hready.2
    fun _ hps _ hans _ => ⟨hps, _, hans, rfl⟩

/-- The owner's own answer reaches the slot. -/
theorem fiuProbe_answers_here (hready : s.ready) (hwait : waitsForAnswer n s.dev) {ps : List ProbeFor}
    (hprobes : s.dev.fiu.probes = .slot n :: ps) (hserves : servesPart (slotPart n s.dev) s.dev = true) :
    Answers .fiuProbe s fun d => d.fiu.probes = ps ∧ (getSlot n d).work.ans =
      some (ownerProbe (getSlot n s.dev).work.fp (slotDomain n s.dev) { s.dev.quiet with fiu.probes := ps }).1 :=
  (fiuProbe_runsTo hready hprobes).answered
    (answeredFrom_startProbe_here (d := { s.dev.quiet with fiu.probes := ps }) hwait hserves false) hready.2
    fun _ hps _ hans _ => ⟨hps, hans⟩

theorem answers_imp {c : Instr} {P Q : Dev → Prop} (h : Answers c s P) (himp : ∀ d, P d → Q d) : Answers c s Q := by
  obtain ⟨t, hnext, hpending, hp⟩ := h
  exact ⟨t, hnext, hpending, himp _ hp⟩

theorem fiuProbe_answers_away (hready : s.ready) {ps : List ProbeFor} (hprobes : s.dev.fiu.probes = .slot n :: ps)
    (hon : fiuOn s.dev = true) (hown : ownValid (slotPart n s.dev) s.dev = true)
    (haway : servesPart (slotPart n s.dev) s.dev = false) :
    Answers .fiuProbe s fun d => d.fiu.probes = ps ∧ d.fiu.nextTag = s.dev.fiu.nextTag + 1 ∧
      Out.indexProbe (ownerOf (slotPart n s.dev) s.dev) (getSlot n s.dev).work.fp (slotDomain n s.dev)
        (rd Reg.FIU_OWN_VER_VERSION s.dev) s.dev.fiu.nextTag ∈ d.out := by
  have hruns := fiuProbe_runsTo hready hprobes
  rw [startProbe_away (who := .slot n) (d := { s.dev.quiet with fiu.probes := ps }) rfl hon hown haway] at hruns
  refine hruns.answers hready.2 fun d hd => ⟨?_, ?_, hd.mem_out (List.mem_append_right _ (List.mem_singleton.2 rfl))⟩
  · rw [hd.fiu]; rfl
  · rw [hd.fiu]; rfl

variable {tag : Nat} {p : RemoteProbe}

theorem indexReplyReceive_answers_lost (hready : s.ready) (hwait : waitsForAnswer n s.dev) (hp : p.who = .slot n) {r : Option IndexReply}
    (hruns : RunsTo (.indexReplyReceive tag r) s (probeLost p s.dev.quiet)) :
    Answers (.indexReplyReceive tag r) s fun d => d.fiu.remote = s.dev.fiu.remote.erase p ∧ answeredWith n 2 d :=
  hruns.answered (answeredFrom_probeLost (d := s.dev.quiet) hwait hp) hready.2 fun _ _ hremote hans _ => ⟨hremote, _, hans, rfl⟩

theorem indexReplyReceive_answers (hready : s.ready) (hwait : waitsForAnswer n s.dev) (hp : p.who = .slot n)
    (hfind : s.dev.fiu.remote.find? (·.tag == tag) = some p) (hfresh : p.retryVer = none) {r : IndexReply} (hr : r.result ≠ 3) :
    Answers (.indexReplyReceive tag (some r)) s fun d => d.fiu.remote = s.dev.fiu.remote.erase p ∧
      ∃ a, (getSlot n d).work.ans = some a ∧ a.result = r.result ∧ (r.result = 0 → a.gid = r.gid) ∧ bitOf a.flags 3 = true := by
  have hruns := indexReplyReceive_runsTo_answer hready hfind hfresh hr
  rw [hp] at hruns
  refine hruns.answered (answeredFrom_giveAnswer (d := { s.dev.quiet with fiu.remote := s.dev.fiu.remote.erase p }) hwait _) hready.2
    fun _ _ hremote hans _ => ⟨hremote, _, hans, rfl, fun h => if_pos h, ?_⟩
  simp [replyAnswer, bitOf]

theorem probeTimeout_answers (hready : s.ready) (hwait : waitsForAnswer n s.dev) (hp : p.who = .slot n)
    (hfind : s.dev.fiu.remote.find? (·.tag == tag) = some p) (hfresh : p.retryVer = none) (hdue : p.due ≤ tempoNow s.dev) :
    Answers (.probeTimeout tag) s fun d =>
      d.fiu.remote = s.dev.fiu.remote.erase p ∧ rdb Reg.FIU_STATUS_TMO d = true ∧ answeredWith n 2 d :=
  (probeTimeout_runsTo hready hfind hfresh hdue).answered
    (answeredFrom_probeLost (d := setb Reg.FIU_STATUS_TMO s.dev.quiet) hwait hp) hready.2 fun d _ hremote hans htmo => by
      have hset : rd Reg.FIU_STATUS_TMO d = 1 := htmo.trans (rd_wr_same (by decide) 1 s.dev.quiet)
      exact ⟨hremote, by rw [rdb, hset]; rfl, _, hans, rfl⟩

theorem wrongOwnerRetry_answers_unowned (hready : s.ready) (hwait : waitsForAnswer n s.dev) (hp : p.who = .slot n)
    (hfind : s.dev.fiu.remote.find? (·.tag == tag) = some p) {v : Nat} (hwaits : p.retryVer = some v)
    (hv : v ≤ rd Reg.FIU_OWN_VER_VERSION s.dev) (hown : ownValid (slotPart n s.dev) s.dev = false) :
    Answers (.wrongOwnerRetry tag) s fun d => d.fiu.remote = s.dev.fiu.remote.erase p ∧ answeredWith n 2 d := by
  have hruns := wrongOwnerRetry_runsTo hready hfind hwaits hv
  rw [hp] at hruns
  exact hruns.answered (answeredFrom_startProbe_unowned (d := { s.dev.quiet with fiu.remote := s.dev.fiu.remote.erase p }) hwait hown true)
    hready.2 fun _ _ hremote hans _ => ⟨hremote, _, hans, rfl⟩

theorem wrongOwnerRetry_answers_here (hready : s.ready) (hwait : waitsForAnswer n s.dev) (hp : p.who = .slot n)
    (hfind : s.dev.fiu.remote.find? (·.tag == tag) = some p) {v : Nat} (hwaits : p.retryVer = some v)
    (hv : v ≤ rd Reg.FIU_OWN_VER_VERSION s.dev) (hserves : servesPart (slotPart n s.dev) s.dev = true) :
    Answers (.wrongOwnerRetry tag) s fun d => d.fiu.remote = s.dev.fiu.remote.erase p ∧ (getSlot n d).work.ans ≠ none := by
  have hruns := wrongOwnerRetry_runsTo hready hfind hwaits hv
  rw [hp] at hruns
  refine hruns.answered (answeredFrom_startProbe_here (d := { s.dev.quiet with fiu.remote := s.dev.fiu.remote.erase p }) hwait hserves true)
    hready.2 fun _ _ hremote hans _ => ⟨hremote, ?_⟩
  rw [hans]
  exact Option.some_ne_none _

theorem wrongOwnerRetry_answers_away (hready : s.ready) (hp : p.who = .slot n)
    (hfind : s.dev.fiu.remote.find? (·.tag == tag) = some p) {v : Nat} (hwaits : p.retryVer = some v)
    (hv : v ≤ rd Reg.FIU_OWN_VER_VERSION s.dev) (hon : fiuOn s.dev = true) (hown : ownValid (slotPart n s.dev) s.dev = true)
    (haway : servesPart (slotPart n s.dev) s.dev = false) :
    Answers (.wrongOwnerRetry tag) s fun d => d.fiu.nextTag = s.dev.fiu.nextTag + 1 ∧
      Out.indexProbe (ownerOf (slotPart n s.dev) s.dev) (getSlot n s.dev).work.fp (slotDomain n s.dev)
        (rd Reg.FIU_OWN_VER_VERSION s.dev) s.dev.fiu.nextTag ∈ d.out := by
  have hruns := wrongOwnerRetry_runsTo hready hfind hwaits hv
  rw [hp, startProbe_away (who := .slot n) (d := { s.dev.quiet with fiu.remote := s.dev.fiu.remote.erase p }) rfl hon hown haway] at hruns
  refine hruns.answers hready.2 fun d hd => ⟨?_, hd.mem_out (List.mem_append_right _ (List.mem_singleton.2 rfl))⟩
  rw [hd.fiu]
  rfl

end slot

/-- A probe block whose fingerprint the filter reports absent gets MISS and DONE. -/
theorem fiuProbe_answers_block {s : State} (hready : s.ready) {b : Nat} {ps : List ProbeFor} (hprobes : s.dev.fiu.probes = .block b :: ps)
    (hgood : (probeOf (.block b) s.dev).2.2 = false) (hserves : servesPart (partOf (beNat (memRead s.dev b 32))) s.dev = true)
    (habsent : filterAbsent (beNat (memRead s.dev b 32)) s.dev = true) :
    Answers .fiuProbe s fun d => d.fiu.probes = ps ∧ memByte d (b + 35) = 1 ∧ memByte d (b + 36) = 1 := by
  have hruns := fiuProbe_runsTo hready hprobes
  rw [startProbe_here (who := .block b) (d := { s.dev.quiet with fiu.probes := ps }) hgood hserves] at hruns
  have hhot := hotFrom_ownerProbe (probeOf (.block b) { s.dev.quiet with fiu.probes := ps }).1
    (probeOf (.block b) { s.dev.quiet with fiu.probes := ps }).2.1 { s.dev.quiet with fiu.probes := ps }
  have hmiss : (ownerProbe (probeOf (.block b) { s.dev.quiet with fiu.probes := ps }).1
      (probeOf (.block b) { s.dev.quiet with fiu.probes := ps }).2.1 { s.dev.quiet with fiu.probes := ps }).1.result = 1 :=
    ownerProbe_absent (d := { s.dev.quiet with fiu.probes := ps }) habsent _
  generalize ownerProbe _ _ _ = x at hruns hhot hmiss
  obtain ⟨htodo, hfiu, hdone, hresult⟩ := giveAnswer_block_effect b (a := x.1) (x := 1) (by rw [hmiss]; rfl) x.2
  refine hruns.answers ?_ fun d hd => ⟨?_, ?_, ?_⟩
  · rw [htodo, hhot]; exact hready.2
  · rw [hd.fiu, hfiu, hhot]
  · rw [memByte_of_mem hd.mem, hdone]
  · rw [memByte_of_mem hd.mem, hresult]

theorem indexReplyReceive_answers_late {s : State} (hready : s.ready) {tag : Nat} (r : IndexReply)
    (hnone : ∀ p ∈ s.dev.fiu.remote, p.tag ≠ tag) (hlt : rd Reg.FIU_STALE_LATE s.dev < 2 ^ 32 - 1) :
    Answers (.indexReplyReceive tag (some r)) s fun d => rd Reg.FIU_STALE_LATE d = rd Reg.FIU_STALE_LATE s.dev + 1 := by
  have hfind : s.dev.fiu.remote.find? (·.tag == tag) = none := by
    rw [List.find?_eq_none]
    exact fun p hp => by simpa using hnone p hp
  have hroom : rd Reg.FIU_STALE_LATE s.dev.quiet + 1 < 2 ^ Reg.FIU_STALE_LATE.width := Nat.add_lt_of_lt_sub hlt
  refine (indexReplyReceive_runsTo_late hready hfind r).answers ?_ fun d hd => ?_
  · rw [(countedIn_bump (os := [Reg.FIU_STALE_LATE.off]) _ _ (by decide)).rest]; exact hready.2
  · rw [hd.rd (by decide), rd_bump_same (by decide) hroom]; rfl

/-- Settles O27: each clause is what one command answers. -/
theorem indexProbesAnswered : Obligations.IndexProbesAnswered := by
  unfold Obligations.IndexProbesAnswered
  intro s hready
  refine ⟨fun n hstate hphase => ⟨fun ps hprobes => ⟨?_, ?_, ?_, ?_⟩, fun tag p hfind hp => ⟨fun hfresh => ⟨?_, ?_, ?_, ?_, ?_⟩,
    fun v hwaits hv => ⟨?_, ?_, ?_⟩⟩⟩, ?_, ?_, ?_⟩
  · exact fiuProbe_answers_unowned hready ⟨hstate, hphase⟩ hprobes
  · intro hserves habsent
    exact answers_imp (fiuProbe_answers_here hready ⟨hstate, hphase⟩ hprobes hserves)
      fun d ⟨hps, hans⟩ => ⟨hps, _, hans, ownerProbe_absent (d := { s.dev.quiet with fiu.probes := ps }) habsent _⟩
  · intro hserves hpresent
    have hhere := fiuProbe_answers_here hready ⟨hstate, hphase⟩ hprobes hserves
    exact ⟨fun i b hfound => answers_imp hhere fun d ⟨_, hans⟩ =>
        ⟨_, hans, ownerProbe_hit (d := { s.dev.quiet with fiu.probes := ps }) hpresent hfound⟩,
      fun hfound => answers_imp hhere fun d ⟨_, hans⟩ =>
        ⟨_, hans, ownerProbe_miss (d := { s.dev.quiet with fiu.probes := ps }) hpresent hfound⟩⟩
  · exact fiuProbe_answers_away hready hprobes
  · exact fun r => indexReplyReceive_answers hready ⟨hstate, hphase⟩ hp hfind hfresh
  · intro r hr hfirst
    refine (indexReplyReceive_runsTo_retry hready hfind hfresh hr hfirst).answers hready.2 fun d hd => ?_
    rw [hd.fiu]
  · exact fun r hr hsecond => indexReplyReceive_answers_lost hready ⟨hstate, hphase⟩ hp
      (indexReplyReceive_runsTo_lost hready hfind hfresh hr hsecond)
  · exact indexReplyReceive_answers_lost hready ⟨hstate, hphase⟩ hp (indexReplyReceive_runsTo_failed hready hfind hfresh)
  · exact probeTimeout_answers hready ⟨hstate, hphase⟩ hp hfind hfresh
  · exact wrongOwnerRetry_answers_unowned hready ⟨hstate, hphase⟩ hp hfind hwaits hv
  · exact wrongOwnerRetry_answers_here hready ⟨hstate, hphase⟩ hp hfind hwaits hv
  · exact wrongOwnerRetry_answers_away hready hp hfind hwaits hv
  · exact fun b ps hprobes hgood => fiuProbe_answers_block hready hprobes hgood
  · refine fun dev q k tag => ⟨fun haway => ?_, fun hserves => ?_⟩
    · refine (indexProbeReceive_runsTo_away hready dev q k tag haway).answers hready.2 fun d hd =>
        ⟨_, hd.mem_out (List.mem_append_right _ (List.mem_singleton.2 rfl)), rfl, rfl⟩
    · refine (indexProbeReceive_runsTo_here hready dev q k tag hserves).answers ?_ fun d hd =>
        ⟨hd.mem_out (List.mem_append_right _ (List.mem_singleton.2 rfl)), fun habsent => ownerProbe_absent (d := s.dev.quiet) habsent _⟩
      rw [send_todo, hotFrom_ownerProbe]
      exact hready.2
  · exact fun tag r hnone hlt => indexReplyReceive_answers_late hready r hnone hlt

end Sys2Proof.Proofs

/-!
PROOFS. O28, what a pass of the audit leaves: comparing its GIDs may raise the Check of the reference ledger, whose escalation sets off
any reaction, and may start repairs. None of these starts a pass or counts one: one frame lemma for each function that a comparison or
a reaction runs, in the order of the model, so that each rests on those before it.
-/

namespace Sys2Proof.Proofs

open Sys2Proof Sys2Proof.Machine

/-! ### What is kept, and which fields may be written -/

/-- Whether a pass is under way (R252), and the passes counted (Table 7.10). -/
def auditState (d : Dev) : Bool × Nat := (d.fiu.audit.isNone, rd Reg.FIU_AUD_PASSES d)

/-- The field shares no bit with FIU_AUD.PASSES. -/
def offPasses (f : Field) : Bool := decide (f.off ≠ Reg.FIU_AUD_PASSES.off ∨ f.lsb ≤ f.msb ∧ f.msb < Reg.FIU_AUD_PASSES.lsb)

theorem offPasses_iff {f : Field} : offPasses f ↔ f.off ≠ Reg.FIU_AUD_PASSES.off ∨ f.lsb ≤ f.msb ∧ f.msb < Reg.FIU_AUD_PASSES.lsb :=
  decide_eq_true_iff

theorem rd_passes_wr {f : Field} (h : offPasses f) (v : Nat) (d : Dev) : rd Reg.FIU_AUD_PASSES (wr f v d) = rd Reg.FIU_AUD_PASSES d := by
  rcases offPasses_iff.1 h with hoff | ⟨hfits, hbelow⟩
  · exact rd_wr_off hoff.symm v d
  · have hlt : f.msb < 64 := hbelow.trans (by decide)
    exact rd_wr_apart (by simp [Field.fits, hfits, hlt]) (by decide) (by simp [Field.apart, hbelow]) v d

/-! The lemmas of this part are tagged `simp ↓`: a nested update is peeled from the outside, before `simp` looks at its arguments. -/

@[simp ↓] theorem auditState_mk (d : Dev) (mem free out intrSent pins flt scr pwr tmp fab engines king l2s taskRings cas
    todo nv sxc fwu seals
    accels cmpStreams keys front md stg lanes12 ftl outside oimCfg repl cdt) :
    auditState (Dev.mk d.regs mem free out intrSent pins flt scr pwr tmp fab engines king l2s taskRings cas todo nv sxc fwu seals accels
      cmpStreams keys d.fiu front md stg lanes12 ftl outside oimCfg repl cdt) = auditState d := by
  simp only [auditState, rd]

@[simp ↓] theorem auditState_mk_fiu (d : Dev) (mem free out intrSent pins flt scr pwr tmp fab engines king l2s taskRings cas todo nv sxc fwu
    seals accels cmpStreams keys front md stg lanes12 ftl outside oimCfg repl cdt)
    (probes remote jobs nextTag buckets hot hotDirty bypass retiring doubt scrub inserts removes) :
    auditState (Dev.mk d.regs mem free out intrSent pins flt scr pwr tmp fab engines king l2s taskRings cas todo nv sxc fwu seals accels
      cmpStreams keys
      (Fiu.mk probes remote jobs nextTag buckets hot hotDirty bypass retiring doubt scrub d.fiu.audit inserts removes)
      front md stg lanes12 ftl outside oimCfg repl cdt) = auditState d := by
  simp only [auditState, rd]

@[simp ↓] theorem auditState_ite (p : Prop) {_ : Decidable p} (d e : Dev) :
    auditState (if p then d else e) = if p then auditState d else auditState e :=
  apply_ite auditState p d e

@[simp ↓] theorem auditState_ite_snd {α : Type} (p : Prop) {_ : Decidable p} (x y : α × Dev) :
    auditState (if p then x else y).2 = if p then auditState x.2 else auditState y.2 := by
  split <;> rfl

theorem auditState_of_ite {p : Prop} {_ : Decidable p} {d e g : Dev} (hd : auditState d = auditState g) (he : auditState e = auditState g) :
    auditState (if p then d else e) = auditState g := by
  split <;> assumption

theorem auditState_snd {α : Type} {p : α × Dev} {a : α} {e : Dev} (h : p = (a, e)) : auditState e = auditState p.2 := by rw [h]

/-! ### Writes of registers, free values and loops -/

@[simp ↓] theorem auditState_wr (f : Field) (v : Nat) (d : Dev) (h : offPasses f) : auditState (wr f v d) = auditState d := by
  simp only [auditState, rd_passes_wr h, wr_fiu]

@[simp ↓] theorem auditState_setb (f : Field) (d : Dev) (h : offPasses f) : auditState (setb f d) = auditState d := auditState_wr f _ d h

@[simp ↓] theorem auditState_clr (f : Field) (d : Dev) (h : offPasses f) : auditState (clr f d) = auditState d := auditState_wr f _ d h

@[simp ↓] theorem auditState_drawNat (n : Nat) (d : Dev) : auditState (drawNat n d).2 = auditState d := by simp [drawNat]

@[simp ↓] theorem auditState_drawBytes (n : Nat) (d : Dev) : auditState (drawBytes n d).2 = auditState d := by simp [drawBytes]

@[simp ↓] theorem auditState_pickFree (l : List Nat) (d : Dev) : auditState (pickFree l d).2 = auditState d := by
  unfold pickFree
  split <;> simp

@[simp ↓] theorem auditState_bumpBy (f : Field) (n : Nat) (d : Dev) (h : offPasses f) : auditState (bumpBy f n d) = auditState d := by
  simp [bumpBy, h]

@[simp ↓] theorem auditState_bump (f : Field) (d : Dev) (h : offPasses f) :
    auditState (bump f d) = auditState d := auditState_bumpBy f 1 d h

@[simp ↓] theorem auditState_bumpSat (f : Field) (n : Nat) (d : Dev) (h : offPasses f) : auditState (bumpSat f n d) = auditState d :=
  auditState_wr f _ d h

@[simp ↓] theorem auditState_setBit (f : Field) (n : Nat) (d : Dev) (h : offPasses f) : auditState (setBit f n d) = auditState d := by
  simp [setBit, h]

@[simp ↓] theorem auditState_clrBit (f : Field) (n : Nat) (d : Dev) (h : offPasses f) : auditState (clrBit f n d) = auditState d := by
  simp [clrBit, h]

@[simp ↓] theorem auditState_forEach (l : List Nat) (f : Nat → Dev → Dev) (d : Dev) (h : ∀ n e, auditState (f n e) = auditState e) :
    auditState (forEach l f d) = auditState d := forEach_keeps auditState f h l d

@[simp ↓] theorem auditState_foldl {α : Type} (l : List α) (f : Dev → α → Dev) (d : Dev) (h : ∀ e a, auditState (f e a) = auditState e) :
    auditState (l.foldl f d) = auditState d := by
  induction l generalizing d with
  | nil => rfl
  | cons a r ih => exact (ih _).trans (h d a)

@[simp ↓] theorem auditState_foldl_snd {α β : Type} (l : List α) (f : β × Dev → α → β × Dev) (p : β × Dev)
    (h : ∀ q a, auditState (f q a).2 = auditState q.2) : auditState (l.foldl f p).2 = auditState p.2 := by
  induction l generalizing p with
  | nil => rfl
  | cons a r ih => exact (ih _).trans (h p a)

/-! ### The registers that a comparison and the reactions write share no bit with FIU_AUD.PASSES, block by block -/

@[simp] theorem scrRegs_offPasses :
    offPasses Reg.SCR_PTR_VIDX ∧ offPasses Reg.SCR_SEQ_NEXT ∧ offPasses Reg.SCR_STATUS_PLOST ∧ offPasses Reg.SCR_LOSS_PLOST ∧
    offPasses Reg.SCR_STATUS_LOST ∧ offPasses Reg.SCR_LOSS_LOST ∧ offPasses Reg.SCR_STATUS_HOLD ∧
    offPasses Reg.SCR_STATUS_FROZEN := by decide

@[simp] theorem fltRegs_offPasses :
    offPasses Reg.FLT_CNT_NOTICES ∧ offPasses Reg.FLT_CNT_DCHECKS ∧ offPasses Reg.FLT_STATUS_DCHK_FULL ∧
    offPasses Reg.FLT_STATUS_DCHK_OPEN ∧ offPasses Reg.FLT_STATUS_CHK_OPEN ∧ offPasses Reg.FLT_STATUS_ESC ∧
    offPasses Reg.FLT_CNT_CHECKS ∧ offPasses Reg.FLT_STATUS_CHK_FULL ∧ offPasses Reg.FLT_INJ_ARM := by decide

@[simp] theorem glbRegs_offPasses :
    offPasses Reg.GLB_INTR_STAT_LEVEL ∧ offPasses Reg.GLB_STATE_STATE := by decide

@[simp] theorem fabRegs_offPasses : offPasses Reg.FAB_INJ_ARM_ARM := by decide

@[simp] theorem cipRegs_offPasses :
    offPasses Reg.CIP_STATUS_SEAL_N ∧ offPasses Reg.CIP_SEAL_VIOL ∧ offPasses Reg.CIP_SEAL_MAP ∧ offPasses Reg.CIP_PREEMPT_HELD ∧
    offPasses Reg.CIP_STATUS_KPAIRED := by decide

@[simp] theorem sxcRegs_offPasses : offPasses Reg.SXC_STATUS_PAIRED_CHK := by decide

@[simp] theorem fiuRegs_offPasses :
    offPasses Reg.FIU_PIN_RETIRING ∧ offPasses Reg.FIU_PIN_DROPS := by decide

@[simp] theorem ersRegs_offPasses :
    offPasses Reg.ERS_LOSS_CUR_COUNT ∧ offPasses Reg.ERS_LOSS_OVERFLOW ∧ offPasses Reg.ERS_RB_ST_PHASE ∧
    offPasses Reg.ERS_RB_ST_SEGS_LEFT ∧ offPasses Reg.ERS_STATUS_REBUILDING ∧ offPasses Reg.ERS_LOSS_LOST ∧
    offPasses Reg.ERS_RB_ROWS_DONE := by decide

@[simp] theorem mdlRegs_offPasses :
    offPasses Reg.MDL_FT_CNT_MOVED ∧ offPasses Reg.MDL_INJ_ARM ∧ offPasses Reg.MDL_STATUS_PRESENCE ∧ offPasses Reg.MDL_PRESENT_LANES ∧
    offPasses Reg.MDL_STATUS_LINK_CHK ∧ offPasses Reg.MDL_STATUS_PAIRED_CHK ∧ offPasses Reg.MDL_FT_STATUS_CRIT ∧
    offPasses Reg.MDL_FT_CNT_RETIRED ∧ offPasses Reg.MDL_FT_STATUS_MEMBER_WEAR ∧ offPasses Reg.MDL_FT_CNT_SEGS ∧
    offPasses Reg.MDL_STATUS_GEOMETRY_N := by decide

@[simp] theorem nvfRegs_offPasses :
    offPasses Reg.NVF_CMD_TERM_TERMINAL ∧ offPasses Reg.NVF_CMD_OUT_OUTSTANDING ∧ offPasses Reg.NVF_CTX_OPEN ∧
    offPasses Reg.NVF_CTX_RESIDENT ∧ offPasses Reg.NVF_PI_GUARD ∧ offPasses Reg.NVF_PI_APP ∧ offPasses Reg.NVF_PI_REF ∧
    offPasses Reg.NVF_CMD_ACC_ACCEPTED ∧ offPasses Reg.NVF_REP_CFG_RPO ∧ offPasses Reg.NVF_REP_CFG_INTERVAL ∧
    offPasses Reg.NVF_REP_CFG_ANCHOR ∧ offPasses Reg.NVF_REP_CFG_REPAIR_TMO ∧ offPasses Reg.NVF_REP_CFG_THROTTLE ∧
    offPasses Reg.NVF_REP_ST_STATE ∧ offPasses Reg.NVF_REP_ST_ROLE ∧ offPasses Reg.NVF_REP_ST_MODE ∧ offPasses Reg.NVF_REP_ST_LAG ∧
    offPasses Reg.NVF_SNAP_CMD_GO ∧ offPasses Reg.NVF_SNAP_RES_BUSY ∧ offPasses Reg.NVF_SNAP_RES_RESULT ∧
    offPasses Reg.NVF_SNAP_RES_VALUE := by decide

@[simp] theorem fwuRegs_offPasses :
    offPasses Reg.FWU_STATUS_BUF_BUSY ∧ offPasses Reg.FWU_BUF_OWNER ∧ offPasses Reg.FWU_BUF_BYTES ∧
    offPasses Reg.FWU_STATUS_ACT_BUSY := by decide

@[simp] theorem casRegs_offPasses :
    offPasses Reg.CAS_STATUS_SELF ∧ offPasses Reg.CAS_ADOPT_SLOTS ∧ offPasses Reg.CAS_ADOPT_CMDS ∧ offPasses Reg.CAS_ANA_STG0_OWN ∧
    offPasses Reg.CAS_ANA_STG1_OWN ∧ offPasses Reg.CAS_ANA_APPLY_TEMPO ∧ offPasses Reg.CAS_LAST_WON ∧ offPasses Reg.CAS_LAST_MEMBERS ∧
    offPasses Reg.CAS_STATUS_PEER ∧ offPasses Reg.CAS_STATUS_LOST_RACE ∧ offPasses Reg.CAS_STATUS_NO_MAJ := by decide

@[simp] theorem cdtRegs_offPasses :
    offPasses Reg.CDT_STATUS_PEER_LOST ∧ offPasses Reg.CDT_STATUS_PEER_NEW ∧ offPasses Reg.CDT_INJ_ARM ∧ offPasses Reg.CDT_OUT_COUNT ∧
    offPasses Reg.CDT_SENT_COUNT ∧ offPasses Reg.CDT_ACKED_COUNT ∧ offPasses Reg.CDT_FAILED_COUNT ∧ offPasses Reg.CDT_FAILR_LINK_DOWN ∧
    offPasses Reg.CDT_FAILR_RETRY ∧ offPasses Reg.CDT_FAILR_AGE ∧ offPasses Reg.CDT_FAILR_NAK := by decide

@[simp] theorem fltIndexedRegs_offPasses (n : Nat) :
    offPasses (Reg.FLT_DCHK_RECUR n) ∧ offPasses (Reg.FLT_DCHK_UNIT n) ∧ offPasses (Reg.FLT_DCHK_ESCALATED n) ∧
    offPasses (Reg.FLT_DCHK_T_RAISED n) ∧ offPasses (Reg.FLT_DCHK_OPEN n) ∧ offPasses (Reg.FLT_CHK_OPEN n) ∧
    offPasses (Reg.FLT_CHK_UNIT n) ∧ offPasses (Reg.FLT_CHK_RECUR n) ∧ offPasses (Reg.FLT_CHK_T_RAISED n) := by
  simp only [offPasses_iff, Reg.FIU_AUD_PASSES,
    Reg.FLT_DCHK_RECUR, Reg.FLT_DCHK_UNIT, Reg.FLT_DCHK_ESCALATED, Reg.FLT_DCHK_T_RAISED, Reg.FLT_DCHK_OPEN, Reg.FLT_CHK_OPEN,
    Reg.FLT_CHK_UNIT, Reg.FLT_CHK_RECUR, Reg.FLT_CHK_T_RAISED]
  omega

@[simp] theorem mdlIndexedRegs_offPasses (n : Nat) :
    offPasses (Reg.MDL_LANE_PLN_IN n) ∧ offPasses (Reg.MDL_LANE_STATE n) ∧ offPasses (Reg.MDL_FENCE_WORD n) ∧
    offPasses (Reg.MDL_FT_POOL_TOTAL n) ∧ offPasses (Reg.MDL_FT_POOL_FREE n) ∧ offPasses (Reg.MDL_TEMP_TEMP n) := by
  simp only [offPasses_iff, Reg.FIU_AUD_PASSES,
    Reg.MDL_LANE_PLN_IN, Reg.MDL_LANE_STATE, Reg.MDL_FENCE_WORD, Reg.MDL_FT_POOL_TOTAL, Reg.MDL_FT_POOL_FREE, Reg.MDL_TEMP_TEMP]
  omega

@[simp] theorem ethIndexedRegs_offPasses (n : Nat) :
    offPasses (Reg.ETH_LINK_PAUSED n) ∧ offPasses (Reg.ETH_LINK_UP n) := by
  simp only [offPasses_iff, Reg.FIU_AUD_PASSES, Reg.ETH_LINK_PAUSED, Reg.ETH_LINK_UP]
  omega

@[simp] theorem nvfIndexedRegs_offPasses (n : Nat) :
    offPasses (Reg.NVF_MISS_OCC n) ∧ offPasses (Reg.NVF_MISS_HIGH n) := by
  simp only [offPasses_iff, Reg.FIU_AUD_PASSES, Reg.NVF_MISS_OCC, Reg.NVF_MISS_HIGH]
  omega

@[simp] theorem cdtIndexedRegs_offPasses (n : Nat) :
    offPasses (Reg.CDT_PORT_PATHS n) ∧ offPasses (Reg.CDT_RPTR_CONS n) ∧ offPasses (Reg.CDT_PORT_UP n) := by
  simp only [offPasses_iff, Reg.FIU_AUD_PASSES, Reg.CDT_PORT_PATHS, Reg.CDT_RPTR_CONS, Reg.CDT_PORT_UP]
  omega

@[simp] theorem pwrIndexedRegs_offPasses (n : Nat) : offPasses (Reg.PWR_LVL_ASTATE n) := by
  simp only [offPasses_iff, Reg.FIU_AUD_PASSES, Reg.PWR_LVL_ASTATE]
  omega

@[simp] theorem kinfo_offPasses (n : Nat) : offPasses (Reg.CIP_KINFO_KIND n) := by
  simp only [offPasses_iff, Reg.FIU_AUD_PASSES, Reg.CIP_KINFO_KIND]
  omega

@[simp] theorem glbRdone_offPasses (n : Nat) : offPasses (Reg.GLB_RDONE_UNIT n) := by
  simp only [offPasses_iff, Reg.FIU_AUD_PASSES, Reg.GLB_RDONE_UNIT]
  omega

/-- The CODE of an entry reaches into bits 63:48; the entries in use lie below the index unit's registers. -/
theorem fltCode_offPasses {n : Nat} (h : n < 64) : offPasses (Reg.FLT_DCHK_CODE n) ∧ offPasses (Reg.FLT_CHK_CODE n) := by
  simp only [offPasses_iff, Reg.FIU_AUD_PASSES, Reg.FLT_DCHK_CODE, Reg.FLT_CHK_CODE]
  omega

@[simp] theorem lossData_offPasses :
    offPasses (Reg.ERS_LOSS_DATA_BYTES 0) ∧ offPasses (Reg.ERS_LOSS_DATA_BYTES 1) ∧ offPasses (Reg.ERS_LOSS_DATA_BYTES 2) ∧
    offPasses (Reg.ERS_LOSS_DATA_BYTES 3) := by decide

@[simp] theorem accCons_offPasses (k r : Nat) : offPasses (accCons k r) := by
  unfold accCons
  split <;> exact offPasses_iff.2 (.inr (by decide : 0 ≤ 15 ∧ 15 < 48))

@[simp] theorem accBits_offPasses (k : Nat) : offPasses (accBusy k) ∧ offPasses (accQuar k) ∧ offPasses (accJobs k) := by
  refine ⟨?_, ?_, ?_⟩
  · unfold accBusy; split <;> decide
  · unfold accQuar; split <;> decide
  · unfold accJobs; split <;> decide

@[simp] theorem engStateField_offPasses (e : Nat) : offPasses (engStateField e) := by
  refine offPasses_iff.2 (.inl ?_)
  simp only [engStateField, Reg.CL_ENG_STATE_STATE, Reg.FIU_AUD_PASSES]
  omega

@[simp] theorem msixPba_offPasses : offPasses msixPba := by decide

@[simp] theorem auditRegs_offPasses :
    offPasses Reg.FIU_STATUS_AUDIT_CHK ∧ offPasses Reg.FAB_CONS_REF ∧ offPasses Reg.FIU_AUD_DOUBT ∧ offPasses Reg.FIU_AUD_EXCESS ∧
    offPasses Reg.FIU_AUD_SHORT := by decide

/-! ### Free values, choices and outputs -/

@[simp ↓] theorem auditState_send (o : Out) (d : Dev) : auditState (send o d) = auditState d := by
  dsimp only [send]; simp

@[simp ↓] theorem auditState_sendAll (l : List Out) (d : Dev) : auditState (sendAll l d) = auditState d := by
  dsimp only [sendAll]; simp

/-! ### Memory: the pool and DRAM (R99) -/

@[simp ↓] theorem auditState_memSetByte (a : Nat) (b : Byte) (d : Dev) : auditState (memSetByte a b d) = auditState d := by
  dsimp only [memSetByte]; simp

@[simp ↓] theorem auditState_memWrite (a : Nat) (l : Bytes) (d : Dev) : auditState (memWrite a l d) = auditState d := by
  simp [auditState, rd]

/-! ### Records -/

@[simp ↓] theorem auditState_writeRecord (r : ScoreRecord) (d : Dev) : auditState (writeRecord r d) = auditState d := by
  dsimp only [writeRecord]; simp

@[simp ↓] theorem auditState_countLost (d : Dev) : auditState (countLost d) = auditState d := by
  dsimp only [countLost]; simp

@[simp ↓] theorem auditState_holdRecord (r : ScoreRecord) (d : Dev) : auditState (holdRecord r d) = auditState d := by
  dsimp only [holdRecord]
  simp
  split <;> simp

@[simp ↓] theorem auditState_recordEvent (cls : EvClass) (code unit data0 data1 : Nat) (escalated : Bool) (d : Dev) :
    auditState (recordEvent cls code unit data0 data1 escalated d) = auditState d := by
  dsimp only [recordEvent]; simp

/-! ### The four classes -/

theorem pickFree_those_lt {n k : Nat} {p : Nat → Bool} {d e : Dev} (h : pickFree (those n p) d = (some k, e)) : k < n := by
  unfold pickFree at h
  split at h
  · cases h
  · have hmem := List.mem_of_getElem? (Prod.mk.inj h).1
    exact List.mem_range.1 (List.mem_filter.1 hmem).1

@[simp ↓] theorem auditState_notice (code unit data0 data1 : Nat) (d : Dev) :
    auditState (notice code unit data0 data1 d) = auditState d := by
  dsimp only [notice]; simp

@[simp ↓] theorem auditState_raiseD (code unit data0 data1 : Nat) (escalated : Bool) (d : Dev) :
    auditState (raiseD code unit data0 data1 escalated d) = auditState d := by
  dsimp only [raiseD]
  simp
  split
  · simp
  · split
    next hpick => simp [auditState_snd hpick]
    next hpick => simp [(fltCode_offPasses ((pickFree_those_lt hpick).trans (by decide))).1, auditState_snd hpick]

@[simp ↓] theorem auditState_closeChk (k : Nat) (d : Dev) : auditState (closeChk k d) = auditState d := by
  dsimp only [closeChk]; simp

@[simp ↓] theorem auditState_openData (code : Nat) (d : Dev) : auditState (openData code d).2.2 = auditState d := by
  dsimp only [openData]
  split <;> simp

@[simp ↓] theorem auditState_escalateChk (k : Nat) (d : Dev) : auditState (escalateChk k d) = auditState d := by
  dsimp only [escalateChk]; simp

theorem auditState_openChk {k : Nat} (hk : k < 64) (code unit : Nat) (d : Dev) : auditState (openChk k code unit d) = auditState d := by
  dsimp only [openChk]
  simp [(fltCode_offPasses hk).2]

theorem oldestChk_lt (d : Dev) : oldestChk d < 64 := by
  refine List.foldlRecOn _ _ (motive := (· < 64)) (by decide) fun b hb k hk => ?_
  split
  · exact List.mem_range.1 hk
  · exact hb

@[simp ↓] theorem auditState_raiseC (code unit data0 data1 : Nat) (d : Dev) :
    auditState (raiseC code unit data0 data1 d) = auditState d := by
  dsimp only [raiseC]
  simp
  split
  · simp
  · split
    next hpick => rw [auditState_openChk (pickFree_those_lt hpick), auditState_snd hpick]; simp
    next hpick => rw [auditState_openChk (oldestChk_lt _)]; simp [auditState_snd hpick]

/-! ### Paired values (R554, R591) -/

@[simp ↓] theorem auditState_mkPaired (w cls v : Nat) (d : Dev) : auditState (mkPaired w cls v d).2 = auditState d := by
  dsimp only [mkPaired]
  split <;> simp

/-! ### Interrupts (R625–R627) -/

@[simp ↓] theorem auditState_msixSend (v : Nat) (d : Dev) : auditState (msixSend v d) = auditState d := by
  dsimp only [msixSend]; simp

@[simp ↓] theorem auditState_settle (d : Dev) : auditState (settle d) = auditState d := by
  dsimp only [settle]; simp

/-! ### Stores -/

@[simp ↓] theorem auditState_injectStore (addr len : Nat) (d : Dev) : auditState (injectStore addr len d) = auditState d := by
  dsimp only [injectStore]
  simp
  split <;> simp

@[simp ↓] theorem auditState_storeMem (addr : Nat) (b : Bytes) (d : Dev) : auditState (storeMem addr b d) = auditState d := by
  dsimp only [storeMem]; simp

@[simp ↓] theorem auditState_storeNat (addr n v : Nat) (d : Dev) : auditState (storeNat addr n v d) = auditState d := by
  dsimp only [storeNat]; simp

/-! ### Requests and holds of tokens -/

@[simp ↓] theorem auditState_endHold (who : TokWho) (cls : Nat) (d : Dev) : auditState (endHold who cls d) = auditState d := by
  dsimp only [endHold]; simp

/-! ### Seals -/

@[simp ↓] theorem auditState_sealViolation (k addr : Nat) (d : Dev) : auditState (sealViolation k addr d) = auditState d := by
  dsimp only [sealViolation]; simp

@[simp ↓] theorem auditState_showSeals (d : Dev) : auditState (showSeals d) = auditState d := by
  dsimp only [showSeals]; simp

@[simp ↓] theorem auditState_takeSeal (base len lane : Nat) (d : Dev) : auditState (takeSeal base len lane d).2 = auditState d := by
  dsimp only [takeSeal]
  split <;> simp

@[simp ↓] theorem auditState_dropSeal (k : Nat) (zero : Bool) (d : Dev) : auditState (dropSeal k zero d) = auditState d := by
  dsimp only [dropSeal]; simp

/-! ### Lanes, rings and descriptors -/

@[simp ↓] theorem auditState_modAccel (k : Nat) (f : Accel → Accel) (d : Dev) : auditState (modAccel k f d) = auditState d := by
  dsimp only [modAccel]; simp

@[simp ↓] theorem auditState_modLane (k n : Nat) (f : Lane → Lane) (d : Dev) : auditState (modLane k n f d) = auditState d := by
  dsimp only [modLane]; simp

@[simp ↓] theorem auditState_showBusy (k : Nat) (d : Dev) : auditState (showBusy k d) = auditState d := by
  dsimp only [showBusy]; simp

@[simp ↓] theorem auditState_sealFor (k n r i : Nat) (d : Dev) : auditState (sealFor k n r i d) = auditState d := by
  dsimp only [sealFor]; simp

@[simp ↓] theorem auditState_takeJob (k n : Nat) (d : Dev) : auditState (takeJob k n d) = auditState d := by
  dsimp only [takeJob]
  refine auditState_of_ite rfl ?_
  split
  · rfl
  · split
    · simp
    · split <;> simp

@[simp ↓] theorem auditState_advanceCons (k r m : Nat) (d : Dev) : auditState (advanceCons k r m d) = auditState d := by
  induction m generalizing d with
  | zero => rfl
  | succ m ih => rw [advanceCons]; simp [ih]

@[simp ↓] theorem auditState_ringDone (unit mask : Nat) (d : Dev) : auditState (ringDone unit mask d) = auditState d := by
  dsimp only [ringDone]; simp

@[simp ↓] theorem auditState_finishDesc (k r idx status xflags : Nat) (rest : Bytes) (d : Dev) :
    auditState (finishDesc k r idx status xflags rest d) = auditState d := by
  dsimp only [finishDesc]; simp

@[simp ↓] theorem auditState_endJob (k n status xflags : Nat) (rest : Bytes) (d : Dev) :
    auditState (endJob k n status xflags rest d) = auditState d := by
  dsimp only [endJob]
  split <;> simp

/-! ### Memory as a lane sees it -/

@[simp ↓] theorem auditState_laneWrite (k addr : Nat) (b : Bytes) (d : Dev) : auditState (laneWrite k addr b d) = auditState d := by
  dsimp only [laneWrite]
  split <;> simp

@[simp ↓] theorem auditState_zeroise (k addr len : Nat) (d : Dev) : auditState (zeroise k addr len d) = auditState d := by
  dsimp only [zeroise]; simp

/-! ### A job that ends CHECK_FAIL -/

@[simp ↓] theorem auditState_drawUpTo (n : Nat) (d : Dev) : auditState (drawUpTo n d).2 = auditState d := by
  dsimp only [drawUpTo]; simp

@[simp ↓] theorem auditState_endStream (k : Nat) (b : Bytes) (d : Dev) : auditState (endStream k b d) = auditState d := by
  dsimp only [endStream]
  split <;> simp

@[simp ↓] theorem auditState_abandon (k : Nat) (b : Bytes) (most : Nat) (d : Dev) : auditState (abandon k b most d).2 = auditState d := by
  dsimp only [abandon]
  split <;> simp

/-! ### Quarantine -/

@[simp ↓] theorem auditState_breakSeal (z : Option Nat) (d : Dev) : auditState (breakSeal z d) = auditState d := by
  dsimp only [breakSeal]
  split <;> simp

@[simp ↓] theorem auditState_abandonJob (k r i : Nat) (z : Option Nat) (d : Dev) :
    auditState (abandonJob k r i z d).2 = auditState d := by
  dsimp only [abandonJob]; simp

@[simp ↓] theorem auditState_quarantineLane (k n : Nat) (d : Dev) : auditState (quarantineLane k n d) = auditState d := by
  dsimp only [quarantineLane]
  simp
  intro _
  split <;> simp

/-! ### Pipelines (R98) -/

@[simp ↓] theorem auditState_dropPipe (k : Nat) (w : PipeFor) (d : Dev) : auditState (dropPipe k w d) = auditState d := by
  dsimp only [dropPipe]; simp

@[simp ↓] theorem auditState_dropPipes (w : PipeFor) (d : Dev) : auditState (dropPipes w d) = auditState d := by
  dsimp only [dropPipes]; simp

/-! ### Engines and their links -/

@[simp ↓] theorem auditState_showEngine (e : Nat) (d : Dev) : auditState (showEngine e d) = auditState d := by
  dsimp only [showEngine]; simp

@[simp ↓] theorem auditState_quarantineEngine (e : Nat) (d : Dev) : auditState (quarantineEngine e d) = auditState d := by
  dsimp only [quarantineEngine]; simp

@[simp ↓] theorem auditState_oweResign (cause : Nat) (d : Dev) : auditState (oweResign cause d) = auditState d := by
  dsimp only [oweResign]; simp

@[simp ↓] theorem auditState_castleTest (code unit : Nat) (d : Dev) : auditState (castleTest code unit d) = auditState d := by
  dsimp only [castleTest]; simp

@[simp ↓] theorem auditState_quarantine (unit : Nat) (d : Dev) : auditState (quarantine unit d) = auditState d := by
  dsimp only [quarantine]
  split <;> simp

/-! ### The Security Policy Table (R554) -/

@[simp ↓] theorem auditState_sptRead (e : SptEntry) (d : Dev) : auditState (sptRead e d).2 = auditState d := by
  dsimp only [sptRead]
  split <;> simp

@[simp ↓] theorem auditState_sptDomain (n : Nat) (d : Dev) : auditState (sptDomain n d).2 = auditState d := by
  dsimp only [sptDomain]; simp

/-! ### The wrapped key table (Table 9.9) -/

@[simp ↓] theorem auditState_keyPaired (index : Nat) (p : Paired) (d : Dev) : auditState (keyPaired index p d) = auditState d := by
  dsimp only [keyPaired]; simp

@[simp ↓] theorem auditState_readWkt (n : Nat) (d : Dev) : auditState (readWkt n d).2 = auditState d := by
  dsimp only [readWkt]
  split <;> simp

@[simp ↓] theorem auditState_readIkt (n : Nat) (d : Dev) : auditState (readIkt n d).2 = auditState d := by
  dsimp only [readIkt]
  split <;> simp

/-! ### Loads (R308) -/

@[simp ↓] theorem auditState_findKey (source index gen : Nat) (d : Dev) : auditState (findKey source index gen d).2 = auditState d := by
  dsimp only [findKey]
  split
  · split
    · simp [auditState_snd ‹readWkt _ _ = _›]
    · have hread := auditState_snd ‹readWkt _ _ = _›
      split
      · simp [hread]
      · split
        · simp [hread]
        · split <;> simp [hread]
  · split
    · rfl
    · split
      · simp [auditState_snd ‹readIkt _ _ = _›]
      · split <;> simp [auditState_snd ‹readIkt _ _ = _›]
  · split
    · rfl
    · split <;> simp
  · rfl

@[simp ↓] theorem auditState_checkSlots (kind index gen : Nat) (d : Dev) : auditState (checkSlots kind index gen d) = auditState d := by
  dsimp only [checkSlots]; simp

@[simp ↓] theorem auditState_useKey (source index gen : Nat) (d : Dev) : auditState (useKey source index gen d).2 = auditState d := by
  dsimp only [useKey]
  split <;> simp

/-! ### Granule IDs (Table 6.2) and their entries -/

@[simp ↓] theorem auditState_touchPage (kind idx : Nat) (d : Dev) : auditState (touchPage kind idx d) = auditState d := by
  dsimp only [touchPage]; simp

@[simp ↓] theorem auditState_putGte (g : Nat) (e : Gte) (d : Dev) : auditState (putGte g e d) = auditState d := by
  dsimp only [putGte]; simp

@[simp ↓] theorem auditState_modSeg (s : Nat) (f : Seg → Seg) (d : Dev) : auditState (modSeg s f d) = auditState d := by
  dsimp only [modSeg]; simp

@[simp ↓] theorem auditState_addLive (s n : Nat) (d : Dev) : auditState (addLive s n d) = auditState d := by
  dsimp only [addLive]; simp

@[simp ↓] theorem auditState_subLive (s n : Nat) (d : Dev) : auditState (subLive s n d) = auditState d := by
  dsimp only [subLive]; simp

@[simp ↓] theorem auditState_modBlk (member block : Nat) (f : Blk → Blk) (d : Dev) :
    auditState (modBlk member block f d) = auditState d := by
  dsimp only [modBlk]; simp

@[simp ↓] theorem auditState_doubt (g : Nat) (d : Dev) : auditState (doubt g d) = auditState d := by
  dsimp only [doubt]; simp

@[simp ↓] theorem auditState_modPool (p : Nat) (f : Pool → Pool) (d : Dev) : auditState (modPool p f d) = auditState d := by
  dsimp only [modPool]; simp

@[simp ↓] theorem auditState_modNs (n : Nat) (f : Ns → Ns) (d : Dev) : auditState (modNs n f d) = auditState d := by
  dsimp only [modNs]; simp

@[simp ↓] theorem auditState_modSnap (nsid sseq : Nat) (f : Snap → Snap) (d : Dev) :
    auditState (modSnap nsid sseq f d) = auditState d := by
  dsimp only [modSnap]; simp

@[simp ↓] theorem auditState_modSlot (n : Nat) (f : Slot → Slot) (d : Dev) : auditState (modSlot n f d) = auditState d := by
  dsimp only [modSlot]; simp

@[simp ↓] theorem auditState_enterRetiring (g : Nat) (d : Dev) : auditState (enterRetiring g d) = auditState d := by
  dsimp only [enterRetiring]; simp

@[simp ↓] theorem auditState_auditDelta (g : Nat) (n : Int) (d : Dev) : auditState (auditDelta g n d) = auditState d := by
  dsimp only [auditDelta]
  split
  next a haudit =>
    split
    · simp [auditState, rd, haudit]
    · rfl
  next => rfl

@[simp ↓] theorem auditState_showLoss (d : Dev) : auditState (showLoss d) = auditState d := by
  dsimp only [showLoss]; simp

@[simp ↓] theorem auditState_addLoss (e : LossEntry) (d : Dev) : auditState (addLoss e d) = auditState d := by
  dsimp only [addLoss]
  split <;> simp

@[simp ↓] theorem auditState_clearLoss (g : Nat) (d : Dev) : auditState (clearLoss g d) = auditState d := by
  dsimp only [clearLoss]; simp

@[simp ↓] theorem auditState_dropRef (g : Nat) (d : Dev) : auditState (dropRef g d) = auditState d := by
  dsimp only [dropRef]; simp

@[simp ↓] theorem auditState_retireLast (g : Nat) (d : Dev) : auditState (retireLast g d) = auditState d := by
  dsimp only [retireLast]; simp

@[simp ↓] theorem auditState_takeRef (g : Nat) (d : Dev) : auditState (takeRef g d) = auditState d := by
  dsimp only [takeRef]; simp

@[simp ↓] theorem auditState_releaseGid (own : Bool) (tsn g : Nat) (d : Dev) : auditState (releaseGid own tsn g d) = auditState d := by
  dsimp only [releaseGid]; simp

/-! ### The namespace map (R184, R185, R437–R444) -/

@[simp ↓] theorem auditState_putNode (n : Nat) (x : Node) (d : Dev) : auditState (putNode n x d) = auditState d := by
  dsimp only [putNode]; simp

@[simp ↓] theorem auditState_newNode (h : Nat) (d : Dev) : auditState (newNode h d).2 = auditState d := by
  dsimp only [newNode]; simp

@[simp ↓] theorem auditState_mapSet (h : Nat) (repl : List Nat) (sq g : Nat) (tags : Bytes) (m w : Nat) (c : Copied) (d : Dev) :
    auditState (mapSet h repl sq g tags m w c d).2.2 = auditState d := by
  induction m generalizing w c d with
  | zero => rfl
  | succ m ih =>
    rw [mapSet]
    dsimp only
    split
    all_goals
      simp [ih]
      split
      · simp
      · split
        · simp
        · rfl

/-! ### Roots and lineage (R437–R451) -/

@[simp ↓] theorem auditState_addSucc (p : Nat × Nat) (d : Dev) : auditState (addSucc p d) = auditState d := by
  dsimp only [addSucc]; simp

@[simp ↓] theorem auditState_subSucc (p : Nat × Nat) (d : Dev) : auditState (subSucc p d) = auditState d := by
  dsimp only [subSucc]; simp

@[simp ↓] theorem auditState_applyCut (s : Snap) (d : Dev) : auditState (applyCut s d) = auditState d := by
  dsimp only [applyCut]; simp

@[simp ↓] theorem auditState_applyGone (nsid sseq : Nat) (d : Dev) : auditState (applyGone nsid sseq d) = auditState d := by
  dsimp only [applyGone]
  split <;> simp

@[simp ↓] theorem auditState_applyUnshare (nsid page sub : Nat) (d : Dev) : auditState (applyUnshare nsid page sub d) = auditState d := by
  dsimp only [applyUnshare]; simp

@[simp ↓] theorem auditState_putMask (nsid sq mask : Nat) (d : Dev) : auditState (putMask nsid sq mask d) = auditState d := by
  dsimp only [putMask]; simp

/-! ### Applying journal records (R221, R222, R362, R366, R369) -/

@[simp ↓] theorem auditState_freeSlot (n : Nat) (d : Dev) : auditState (freeSlot n d) = auditState d := by
  dsimp only [freeSlot]; simp

@[simp ↓] theorem auditState_entrySlot (own : Bool) (slot : Option Nat) (nsid sq tsn : Nat) (d : Dev) :
    auditState (entrySlot own slot nsid sq tsn d) = auditState d := by
  dsimp only [entrySlot]
  split <;> simp

@[simp ↓] theorem auditState_releaseOld (own : Bool) (r : JRecord) (g : Nat) (d : Dev) :
    auditState (releaseOld own r g d) = auditState d := by
  dsimp only [releaseOld]
  split <;> simp

@[simp ↓] theorem auditState_applyRekey (own : Bool) (r : JRecord) (e : SqEntry) (d : Dev) :
    auditState (applyRekey own r e d) = auditState d := by
  dsimp only [applyRekey]
  simp
  split <;> simp

@[simp ↓] theorem auditState_applySquare (own : Bool) (r : JRecord) (repl : List Nat) (e : SqEntry) (acc : Copied × Dev) :
    auditState (applySquare own r repl e acc).2 = auditState acc.2 := by
  dsimp only [applySquare]
  split
  · simp
    split <;> simp
  · split
    · dsimp only
      split <;> simp
    all_goals simp

@[simp ↓] theorem auditState_applySquares (own : Bool) (r : JRecord) (es : List SqEntry) (d : Dev) :
    auditState (applySquares own r es d) = auditState d := by
  dsimp only [applySquares]; simp

@[simp ↓] theorem auditState_applyMove (m : Nat × (Nat × Nat × Nat) × (Nat × Nat × Nat)) (d : Dev) :
    auditState (applyMove m d) = auditState d := by
  dsimp only [applyMove]; simp

@[simp ↓] theorem auditState_applyPinDrop (g : Nat) (d : Dev) : auditState (applyPinDrop g d) = auditState d := by
  dsimp only [applyPinDrop]; simp

@[simp ↓] theorem auditState_applyPageMap (m : Nat × Nat × Nat) (d : Dev) : auditState (applyPageMap m d) = auditState d := by
  dsimp only [applyPageMap]; simp

@[simp ↓] theorem auditState_applyClose (seg rows : Nat) (short : Bool) (tempo : Nat) (d : Dev) :
    auditState (applyClose seg rows short tempo d) = auditState d := by
  dsimp only [applyClose]; simp

@[simp ↓] theorem auditState_segBlocks (g : Seg) (f : Blk → Blk) (d : Dev) : auditState (segBlocks g f d) = auditState d := by
  dsimp only [segBlocks]; simp

@[simp ↓] theorem auditState_applyNews (x : PageNews) (d : Dev) : auditState (applyNews x d) = auditState d := by
  dsimp only [applyNews]
  split <;> simp

@[simp ↓] theorem auditState_applyRecord (r : JRecord) (d : Dev) : auditState (applyRecord r d) = auditState d := by
  dsimp only [applyRecord]
  simp
  split <;> simp

@[simp ↓] theorem auditState_applyPeerRecords (m : Nat) (d : Dev) : auditState (applyPeerRecords m d) = auditState d := by
  induction m generalizing d with
  | zero => rfl
  | succ m ih =>
    rw [applyPeerRecords]
    split
    · rfl
    · simp [ih]

@[simp ↓] theorem auditState_catchUp (d : Dev) : auditState (catchUp d) = auditState d := by
  dsimp only [catchUp]; simp

/-! ### Pauses (R158, R178, R181, R193) -/

@[simp ↓] theorem auditState_modPort (p : Nat) (f : HostPort → HostPort) (d : Dev) : auditState (modPort p f d) = auditState d := by
  dsimp only [modPort]; simp

@[simp ↓] theorem auditState_setPause (p cause mask : Nat) (d : Dev) : auditState (setPause p cause mask d) = auditState d := by
  dsimp only [setPause]; simp

@[simp ↓] theorem auditState_pauseAll (cause mask : Nat) (d : Dev) : auditState (pauseAll cause mask d) = auditState d := by
  dsimp only [pauseAll]; simp

/-! ### The context-miss buffers (R26, R158) -/

@[simp ↓] theorem auditState_showMiss (p : Nat) (d : Dev) : auditState (showMiss p d) = auditState d := by
  dsimp only [showMiss]; simp

@[simp ↓] theorem auditState_missXon (p : Nat) (d : Dev) : auditState (missXon p d) = auditState d := by
  dsimp only [missXon]; simp

/-! ### Command records (Table 16.1, R501, R502) -/

@[simp ↓] theorem auditState_modFc (n : Nat) (f : FrontCmd → FrontCmd) (d : Dev) : auditState (modFc n f d) = auditState d := by
  dsimp only [modFc]; simp

@[simp ↓] theorem auditState_endCmd (n kind : Nat) (d : Dev) : auditState (endCmd n kind d) = auditState d := by
  dsimp only [endCmd]; simp

@[simp ↓] theorem auditState_hostOut (c : HostCmd) (own : Out) (a : PeerAnswer) (d : Dev) :
    auditState (hostOut c own a d) = auditState d := by
  dsimp only [hostOut]; simp

@[simp ↓] theorem auditState_sendData (c : HostCmd) (off : Nat) (b : Bytes) (d : Dev) :
    auditState (sendData c off b d) = auditState d := by
  dsimp only [sendData]; simp

@[simp ↓] theorem auditState_postCompletion (n : Nat) (d : Dev) : auditState (postCompletion n d) = auditState d := by
  dsimp only [postCompletion]
  split <;> simp

@[simp ↓] theorem auditState_complete (n st : Nat) (dnr : Bool) (d : Dev) : auditState (complete n st dnr d) = auditState d := by
  dsimp only [complete]; simp

/-! ### Slots (R190–R196) -/

@[simp ↓] theorem auditState_showTight (d : Dev) : auditState (showTight d) = auditState d := by
  dsimp only [showTight]; simp

/-! ### Formats (Table 5.7, R163) -/

@[simp ↓] theorem auditState_modWork (n : Nat) (f : Work → Work) (d : Dev) : auditState (modWork n f d) = auditState d := by
  dsimp only [modWork]; simp

@[simp ↓] theorem auditState_awaitPeer (n : Nat) (d : Dev) : auditState (awaitPeer n d) = auditState d := by
  dsimp only [awaitPeer]; simp

@[simp ↓] theorem auditState_packSlot (n action gid : Nat) (d : Dev) : auditState (packSlot n action gid d) = auditState d := by
  dsimp only [packSlot]; simp

@[simp ↓] theorem auditState_issueAdd (n g expect_ swaps : Nat) (d : Dev) : auditState (issueAdd n g expect_ swaps d) = auditState d := by
  dsimp only [issueAdd]; simp

@[simp ↓] theorem auditState_slotWritten (n : Nat) (d : Dev) : auditState (slotWritten n d) = auditState d := by
  dsimp only [slotWritten]
  simp
  split <;> simp

@[simp ↓] theorem auditState_makeDurable (n : Nat) (d : Dev) : auditState (makeDurable n d) = auditState d := by
  dsimp only [makeDurable]
  simp
  split <;> simp

@[simp ↓] theorem auditState_durableAlone (d : Dev) : auditState (durableAlone d) = auditState d := by
  dsimp only [durableAlone]; simp

@[simp ↓] theorem auditState_abandonFrame (n : Nat) (d : Dev) : auditState (abandonFrame n d) = auditState d := by
  dsimp only [abandonFrame]; simp

@[simp ↓] theorem auditState_backToDurable (n : Nat) (d : Dev) : auditState (backToDurable n d) = auditState d := by
  dsimp only [backToDurable]; simp

@[simp ↓] theorem auditState_freeSlots (n : Nat) (d : Dev) : auditState (freeSlots n d) = auditState d := by
  dsimp only [freeSlots]; simp

/-! ### The row journal (R221, R225) -/

@[simp ↓] theorem auditState_applyOwn (m : Nat) (d : Dev) : auditState (applyOwn m d) = auditState d := by
  induction m generalizing d with
  | zero => rfl
  | succ m ih =>
    rw [applyOwn]
    split
    · simp [ih]
    · rfl

@[simp ↓] theorem auditState_commitReady (d : Dev) : auditState (commitReady d) = auditState d := by
  dsimp only [commitReady]; simp

@[simp ↓] theorem auditState_postNews (nsid : Nat) (body : JBody) (news : List PageNews) (d : Dev) :
    auditState (postNews nsid body news d) = auditState d := by
  dsimp only [postNews]; simp

@[simp ↓] theorem auditState_postRecord (nsid : Nat) (body : JBody) (d : Dev) : auditState (postRecord nsid body d) = auditState d := by
  dsimp only [postRecord]; simp

/-! ### Teardown of a context (R166, R168) -/

@[simp ↓] theorem auditState_stopReads (n : Nat) (d : Dev) : auditState (stopReads n d) = auditState d := by
  dsimp only [stopReads]; simp

@[simp ↓] theorem auditState_tearCmd (n : Nat) (d : Dev) : auditState (tearCmd n d) = auditState d := by
  dsimp only [tearCmd]
  simp
  split <;> simp

@[simp ↓] theorem auditState_showCtx (d : Dev) : auditState (showCtx d) = auditState d := by
  dsimp only [showCtx]; simp

@[simp ↓] theorem auditState_closeCtx (c : Nat) (d : Dev) : auditState (closeCtx c d) = auditState d := by
  dsimp only [closeCtx]; simp

@[simp ↓] theorem auditState_emptyFwBuf (d : Dev) : auditState (emptyFwBuf d) = auditState d := by
  dsimp only [emptyFwBuf]; simp

@[simp ↓] theorem auditState_teardown (c : Nat) (d : Dev) : auditState (teardown c d) = auditState d := by
  dsimp only [teardown]; simp

@[simp ↓] theorem auditState_portTeardown (p : Nat) (d : Dev) : auditState (portTeardown p d) = auditState d := by
  dsimp only [portTeardown]; simp

/-! ### Lanes of the flash modules -/

@[simp ↓] theorem auditState_modLink (n : Nat) (f : Lane12 → Lane12) (d : Dev) : auditState (modLink n f d) = auditState d := by
  dsimp only [modLink]; simp

@[simp ↓] theorem auditState_modMod (n : Nat) (f : Module → Module) (d : Dev) : auditState (modMod n f d) = auditState d := by
  dsimp only [modMod]; simp

/-! ### Frames and credits -/

@[simp ↓] theorem auditState_transmit (n : Nat) (f : MdlSent) (d : Dev) : auditState (transmit n f d) = auditState d := by
  dsimp only [transmit]; simp

@[simp ↓] theorem auditState_sendFrame (n type tag : Nat) (d : Dev) : auditState (sendFrame n type tag d) = auditState d := by
  dsimp only [sendFrame]; simp

@[simp ↓] theorem auditState_clearLane (n : Nat) (d : Dev) : auditState (clearLane n d) = auditState d := by
  dsimp only [clearLane]; simp

@[simp ↓] theorem auditState_putFailed (n : Nat) (d : Dev) : auditState (putFailed n d) = auditState d := by
  dsimp only [putFailed]; simp

@[simp ↓] theorem auditState_linkFail (n : Nat) (d : Dev) : auditState (linkFail n d) = auditState d := by
  dsimp only [linkFail]; simp

@[simp ↓] theorem auditState_laneDown (n : Nat) (d : Dev) : auditState (laneDown n d) = auditState d := by
  dsimp only [laneDown]; simp

@[simp ↓] theorem auditState_setCredit (n cls v : Nat) (d : Dev) : auditState (setCredit n cls v d) = auditState d := by
  dsimp only [setCredit]; simp

@[simp ↓] theorem auditState_readCredit (n cls : Nat) (d : Dev) : auditState (readCredit n cls d).2 = auditState d := by
  dsimp only [readCredit]; simp

theorem auditState_pumpOne {n : Nat} {d e : Dev} (h : pumpOne n d = some e) : auditState e = auditState d := by
  unfold pumpOne at h
  dsimp only at h
  split at h
  · cases h
  · split at h
    · split at h
      · cases h
        simp [auditState_snd ‹readCredit _ _ _ = _›]
      · have h0 := auditState_snd ‹readCredit n 0 d = _›
        split at h
        · cases h
          simp [auditState_snd ‹readCredit n 1 _ = _›, h0]
        · have h1 := auditState_snd ‹readCredit n 1 _ = _›
          split at h
          · cases h
          · cases h
            simp [h1, h0]
    · cases h

@[simp ↓] theorem auditState_pump (n m : Nat) (d : Dev) : auditState (pump n m d) = auditState d := by
  induction m generalizing d with
  | zero => rfl
  | succ m ih =>
    rw [pump]
    split
    · rw [ih, auditState_pumpOne ‹_›]
    · rfl

@[simp ↓] theorem auditState_laneIssue (n : Nat) (c : LaneCmd) (d : Dev) : auditState (laneIssue n c d) = auditState d := by
  dsimp only [laneIssue]; simp

@[simp ↓] theorem auditState_readFence (n : Nat) (d : Dev) : auditState (readFence n d).2 = auditState d := by
  dsimp only [readFence]; simp

@[simp ↓] theorem auditState_issueWrite (n : Nat) (c : LaneCmd) (d : Dev) : auditState (issueWrite n c d) = auditState d := by
  dsimp only [issueWrite]; simp

@[simp ↓] theorem auditState_setFence (n v : Nat) (d : Dev) : auditState (setFence n v d) = auditState d := by
  dsimp only [setFence]; simp

/-! ### Free blocks (R356, R358, R419, R654) -/

@[simp ↓] theorem auditState_showPools (d : Dev) : auditState (showPools d) = auditState d := by
  dsimp only [showPools]; simp

/-! ### Opening segments (R408, R409, R418) -/

theorem auditState_openSegment {p s : Nat} {gc isMeta : Bool} {d e : Dev} (h : Machine.openSegment p gc isMeta d = some (s, e)) :
    auditState e = auditState d := by
  unfold Machine.openSegment at h
  dsimp only at h
  split at h
  · cases h
  · split at h
    · cases h
    · cases h
      simp

/-! ### Rows (R214–R217) -/

@[simp ↓] theorem auditState_modRow (n : Nat) (f : Row → Row) (d : Dev) : auditState (modRow n f d) = auditState d := by
  dsimp only [modRow]; simp

theorem auditState_rowSegment {p kind s : Nat} {d e : Dev} (h : rowSegment p kind d = some (s, e)) : auditState e = auditState d := by
  dsimp only [rowSegment] at h
  split at h
  · cases h; rfl
  · exact auditState_openSegment h

@[simp ↓] theorem auditState_closeRow (n : Nat) (d : Dev) : auditState (closeRow n d) = auditState d := by
  dsimp only [closeRow]; simp

theorem auditState_openRow {engine p kind n : Nat} {d e : Dev} (h : openRow engine p kind d = some (n, e)) :
    auditState e = auditState d := by
  dsimp only [openRow] at h
  split at h
  · cases h
  · cases h
    simp [auditState_rowSegment ‹rowSegment _ _ _ = _›]

@[simp ↓] theorem auditState_placeFrame (engine p kind : Nat) (f : FrameRef) (d : Dev) :
    auditState (placeFrame engine p kind f d).2 = auditState d := by
  dsimp only [placeFrame]
  split
  next h =>
    split at h
    · cases h
      simp
      split <;> simp
    · simp [auditState_openRow h]
      split <;> simp
  next =>
    simp
    split <;> simp

@[simp ↓] theorem auditState_refillRows (r : Row) (s : Nat) (d : Dev) : auditState (refillRows r s d) = auditState d := by
  dsimp only [refillRows]; simp

@[simp ↓] theorem auditState_requeueRows (l : List Nat) (d : Dev) : auditState (requeueRows l d) = auditState d := by
  dsimp only [requeueRows]
  refine auditState_foldl_snd _ _ _ fun acc n => ?_
  split
  · simp
  · split
    · simp
    · split
      · simp [auditState_openSegment ‹_›]
      · simp

/-! ### Closing segments and retiring blocks (R355, R370–R372, R655) -/

@[simp ↓] theorem auditState_commitClose (s : Nat) (short : Bool) (d : Dev) : auditState (commitClose s short d) = auditState d := by
  dsimp only [commitClose]; simp

@[simp ↓] theorem auditState_closeWhenIdle (s : Nat) (d : Dev) : auditState (closeWhenIdle s d) = auditState d := by
  dsimp only [closeWhenIdle]; simp

@[simp ↓] theorem auditState_closeShort (s : Nat) (d : Dev) : auditState (closeShort s d) = auditState d := by
  dsimp only [closeShort]; simp

@[simp ↓] theorem auditState_queueReloc (s : Nat) (d : Dev) : auditState (queueReloc s d) = auditState d := by
  dsimp only [queueReloc]; simp

@[simp ↓] theorem auditState_showRebuild (d : Dev) : auditState (showRebuild d) = auditState d := by
  dsimp only [showRebuild]; simp

@[simp ↓] theorem auditState_rerank (d : Dev) : auditState (rerank d) = auditState d := by
  dsimp only [rerank]; simp

@[simp ↓] theorem auditState_queueRebuild (s : Nat) (d : Dev) : auditState (queueRebuild s d) = auditState d := by
  dsimp only [queueRebuild]; simp

@[simp ↓] theorem auditState_retireBlock (m b cause : Nat) (d : Dev) : auditState (retireBlock m b cause d) = auditState d := by
  dsimp only [retireBlock]; simp

/-! ### Lost granules (R340, R434–R436) -/

@[simp ↓] theorem auditState_placePage (kind page : Nat) (d : Dev) : auditState (placePage kind page d).2 = auditState d := by
  dsimp only [placePage]
  split <;> simp [auditState_snd ‹placeFrame _ _ _ _ _ = _›]

@[simp ↓] theorem auditState_writeNews (page : Nat) (x : PageNews) (d : Dev) : auditState (writeNews page x d).2 = auditState d := by
  dsimp only [writeNews]
  split <;> simp

@[simp ↓] theorem auditState_markLost (g cause missing : Nat) (d : Dev) : auditState (markLost g cause missing d) = auditState d := by
  dsimp only [markLost]; simp

/-! ### Transactions (R201, R202, R221, R658) -/

@[simp ↓] theorem auditState_postTx (nsid : Nat) (es : List SqEntry) (d : Dev) : auditState (postTx nsid es d) = auditState d := by
  dsimp only [postTx]
  split <;> simp

/-! ### Rebuild rows (R427) -/

@[simp ↓] theorem auditState_modRebuild (s : Nat) (f : Rebuild → Rebuild) (d : Dev) : auditState (modRebuild s f d) = auditState d := by
  dsimp only [modRebuild]; simp

@[simp ↓] theorem auditState_rebuildRowEnded (n : Nat) (d : Dev) : auditState (rebuildRowEnded n d) = auditState d := by
  dsimp only [rebuildRowEnded]; simp

/-! ### Sessions with peers -/

@[simp ↓] theorem auditState_modPeer (p : Nat) (f : PeerSess → PeerSess) (d : Dev) : auditState (modPeer p f d) = auditState d := by
  dsimp only [modPeer]; simp

@[simp ↓] theorem auditState_sptPeer (p : Nat) (d : Dev) : auditState (sptPeer p d).2 = auditState d := by
  dsimp only [sptPeer]
  split <;> simp

@[simp ↓] theorem auditState_openSession (p : Nat) (d : Dev) : auditState (openSession p d) = auditState d := by
  dsimp only [openSession]
  split
  · simp [auditState_snd ‹sptPeer _ _ = _›]
  · split <;> simp [auditState_snd ‹useKey _ _ _ _ = _›, auditState_snd ‹sptPeer _ _ = _›]

@[simp ↓] theorem auditState_sendRepl (p : Nat) (m : ReplMsg) (d : Dev) : auditState (sendRepl p m d) = auditState d := by
  dsimp only [sendRepl]
  simp
  split <;> simp

/-! ### Read jobs -/

@[simp ↓] theorem auditState_modJob (j : Nat) (f : ReadJob → ReadJob) (d : Dev) : auditState (modJob j f d) = auditState d := by
  dsimp only [modJob]; simp

@[simp ↓] theorem auditState_dropJob (j : Nat) (d : Dev) : auditState (dropJob j d) = auditState d := by
  dsimp only [dropJob]; simp

@[simp ↓] theorem auditState_readPage (j i : Nat) (d : Dev) : auditState (readPage j i d) = auditState d := by
  dsimp only [readPage]
  split <;> simp

@[simp ↓] theorem auditState_readPages (j : Nat) (d : Dev) : auditState (readPages j d) = auditState d := by
  dsimp only [readPages]; simp

/-! ### Guards and tags (R172–R174) -/

@[simp ↓] theorem auditState_countPi (st : Nat) (d : Dev) : auditState (countPi st d) = auditState d := by
  dsimp only [countPi]; simp

/-! ### The end of a host read (R333–R336, R347) -/

@[simp ↓] theorem auditState_sendSquares (n i : Nat) (d : Dev) : auditState (sendSquares n i d) = auditState d := by
  dsimp only [sendSquares]; simp

@[simp ↓] theorem auditState_finishRead (n : Nat) (d : Dev) : auditState (finishRead n d) = auditState d := by
  dsimp only [finishRead]
  split
  · simp
  · split
    · simp
    · split <;> simp

@[simp ↓] theorem auditState_squareDone (n i st : Nat) (dnr : Bool) (plain : Bytes) (d : Dev) :
    auditState (squareDone n i st dnr plain d) = auditState d := by
  dsimp only [squareDone]; simp

@[simp ↓] theorem auditState_endRead (j st : Nat) (dnr : Bool) (plain : Bytes) (d : Dev) :
    auditState (endRead j st dnr plain d) = auditState d := by
  dsimp only [endRead]
  split
  case h_2 => split <;> simp
  all_goals simp

/-! ### Repair from a replica (R344–R346) -/

@[simp ↓] theorem auditState_goRepair (j : Nat) (d : Dev) : auditState (goRepair j d) = auditState d := by
  dsimp only [goRepair]
  split <;> simp

@[simp ↓] theorem auditState_unrecoverable (j : Nat) (d : Dev) : auditState (unrecoverable j d) = auditState d := by
  dsimp only [unrecoverable]
  split <;> simp

/-! ### Lookup (R318–R322, R341) -/

@[simp ↓] theorem auditState_locate (j : Nat) (d : Dev) : auditState (locate j d) = auditState d := by
  dsimp only [locate]; simp

@[simp ↓] theorem auditState_startGranule (who : ReadWho) (nsid sq g restarts : Nat) (d : Dev) :
    auditState (startGranule who nsid sq g restarts d) = auditState d := by
  dsimp only [startGranule]; simp

/-! ### Resignation (R510, R511) -/

@[simp ↓] theorem auditState_endActivation (d : Dev) : auditState (endActivation d) = auditState d := by
  dsimp only [endActivation]
  split <;> simp

@[simp ↓] theorem auditState_resignNow (cause : Nat) (d : Dev) : auditState (resignNow cause d) = auditState d := by
  dsimp only [resignNow]; simp

/-! ### Slots restored or adopted (R226, R227) -/

@[simp ↓] theorem auditState_reserve (p n : Nat) (d : Dev) : auditState (reserve p n d) = auditState d := by
  dsimp only [reserve]; simp

@[simp ↓] theorem auditState_restoreSlot (n : Nat) (s : Slot) (d : Dev) : auditState (restoreSlot n s d) = auditState d := by
  dsimp only [restoreSlot]; simp

@[simp ↓] theorem auditState_doubtReleases (own : Bool) (d : Dev) : auditState (doubtReleases own d) = auditState d := by
  dsimp only [doubtReleases]; simp

/-! ### The winner's steps (R515) -/

@[simp ↓] theorem auditState_closePeerSegment (s : Nat) (d : Dev) : auditState (closePeerSegment s d) = auditState d := by
  dsimp only [closePeerSegment]; simp

@[simp ↓] theorem auditState_armOrphans (d : Dev) : auditState (armOrphans d) = auditState d := by
  dsimp only [armOrphans]; simp

@[simp ↓] theorem auditState_adoptSlots (d : Dev) : auditState (adoptSlots d) = auditState d := by
  dsimp only [adoptSlots]; simp

@[simp ↓] theorem auditState_adoptedKind (mirror : Tab Slot) (n : Nat) (r : CmdRecord) (d : Dev) :
    auditState (adoptedKind mirror n r d).2 = auditState d := by
  dsimp only [adoptedKind]
  split <;> simp

@[simp ↓] theorem auditState_endPeerCommands (mirror : Tab Slot) (d : Dev) : auditState (endPeerCommands mirror d) = auditState d := by
  dsimp only [endPeerCommands]; simp

@[simp ↓] theorem auditState_closePeers (d : Dev) : auditState (closePeers d) = auditState d := by
  dsimp only [closePeers]; simp

@[simp ↓] theorem auditState_takeOver (claimed : Bool) (own0 own1 : Nat) (d : Dev) :
    auditState (takeOver claimed own0 own1 d) = auditState d := by
  dsimp only [takeOver]; simp

@[simp ↓] theorem auditState_showClaims (d : Dev) : auditState (showClaims d) = auditState d := by
  dsimp only [showClaims]; simp

@[simp ↓] theorem auditState_claimWon (d : Dev) : auditState (claimWon d) = auditState d := by
  dsimp only [claimWon]; simp

/-! ### The claim (R513, R514) -/

@[simp ↓] theorem auditState_claimDecide (d : Dev) : auditState (claimDecide d) = auditState d := by
  dsimp only [claimDecide]; simp

@[simp ↓] theorem auditState_modClaim (m : Nat) (f : Claim → Claim) (d : Dev) : auditState (modClaim m f d) = auditState d := by
  dsimp only [modClaim]; simp

@[simp ↓] theorem auditState_issueClaim (m w : Nat) (d : Dev) : auditState (issueClaim m w d) = auditState d := by
  dsimp only [issueClaim]; simp

@[simp ↓] theorem auditState_claimMember (m : Nat) (d : Dev) : auditState (claimMember m d) = auditState d := by
  dsimp only [claimMember]; simp

@[simp ↓] theorem auditState_claimReturned (m : Nat) (d : Dev) : auditState (claimReturned m d) = auditState d := by
  dsimp only [claimReturned]; simp

@[simp ↓] theorem auditState_claimResult (m : Nat) (c : LaneCmd) (rsp : Option LaneRsp) (d : Dev) :
    auditState (claimResult m c rsp d) = auditState d := by
  dsimp only [claimResult]
  split
  · simp
  · refine auditState_of_ite (by simp) ?_
    split <;> simp

/-! ### The end of erases, writes and lane commands -/

@[simp ↓] theorem auditState_finishErase (seg : Nat) (d : Dev) : auditState (finishErase seg d) = auditState d := by
  dsimp only [finishErase]; simp

@[simp ↓] theorem auditState_eraseEnded (m b seg : Nat) (d : Dev) : auditState (eraseEnded m b seg d) = auditState d := by
  dsimp only [eraseEnded]; simp

@[simp ↓] theorem auditState_eraseFailed (m b seg : Nat) (d : Dev) : auditState (eraseFailed m b seg d) = auditState d := by
  dsimp only [eraseFailed]; simp

@[simp ↓] theorem auditState_identified (n : Nat) (d : Dev) : auditState (identified n d) = auditState d := by
  dsimp only [identified]; simp

@[simp ↓] theorem auditState_laneEnded (n : Nat) (c : LaneCmd) (rsp : Option LaneRsp) (d : Dev) :
    auditState (laneEnded n c rsp d) = auditState d := by
  dsimp only [laneEnded]
  split
  case h_1 => split <;> simp
  case h_3 => split <;> simp
  case h_5 => split <;> simp
  case h_7 => split <;> simp
  case h_8 => split <;> simp
  case h_9 => split <;> simp
  all_goals simp

/-! ### The index decision (R203–R207, R227, R244, R245) -/

@[simp ↓] theorem auditState_comparePolicy (ns : Ns) (d : Dev) : auditState (comparePolicy ns d).2 = auditState d := by
  dsimp only [comparePolicy]; simp

/-! ### Roots and snapshots -/

@[simp ↓] theorem auditState_buryRoot (nsid : Nat) (d : Dev) : auditState (buryRoot nsid d) = auditState d := by
  dsimp only [buryRoot]; simp

/-! ### Relations -/

@[simp ↓] theorem auditState_modRel (k : Nat) (f : Rel → Rel) (d : Dev) : auditState (modRel k f d) = auditState d := by
  dsimp only [modRel]; simp

@[simp ↓] theorem auditState_showRel (d : Dev) : auditState (showRel d) = auditState d := by
  dsimp only [showRel]; simp

/-! ### The mailbox (Table 14.6) -/

@[simp ↓] theorem auditState_mailEnd (result value : Nat) (d : Dev) : auditState (mailEnd result value d) = auditState d := by
  dsimp only [mailEnd]; simp

/-! ### Cuts (R441, R442) -/

@[simp ↓] theorem auditState_stageCut (nsids : List Nat) (role : CutRole) (d : Dev) :
    auditState (stageCut nsids role d) = auditState d := by
  dsimp only [stageCut]; simp

/-! ### Sources: suspension and stream holds (R456, R458–R462) -/

@[simp ↓] theorem auditState_postDrops (nsid : Nat) (gs : List Nat) (d : Dev) : auditState (postDrops nsid gs d) = auditState d := by
  dsimp only [postDrops]; simp

@[simp ↓] theorem auditState_releaseHold (k tsn : Nat) (d : Dev) : auditState (releaseHold k tsn d) = auditState d := by
  dsimp only [releaseHold]; simp

@[simp ↓] theorem auditState_suspendRel (k : Nat) (d : Dev) : auditState (suspendRel k d) = auditState d := by
  dsimp only [suspendRel]; simp

@[simp ↓] theorem auditState_pumpStream (k : Nat) (d : Dev) : auditState (pumpStream k d) = auditState d := by
  dsimp only [pumpStream]; simp

@[simp ↓] theorem auditState_checkCycle (k : Nat) (d : Dev) : auditState (checkCycle k d) = auditState d := by
  dsimp only [checkCycle]
  split <;> simp

@[simp ↓] theorem auditState_offerAll (k : Nat) (d : Dev) : auditState (offerAll k d) = auditState d := by
  dsimp only [offerAll]
  split <;> simp

@[simp ↓] theorem auditState_compareCycle (k : Nat) (d : Dev) : auditState (compareCycle k d) = auditState d := by
  dsimp only [compareCycle]
  split
  · refine auditState_of_ite (by simp) ((auditState_forEach _ _ _ fun i e => ?_).trans (by simp))
    split <;> simp
  · rfl

@[simp ↓] theorem auditState_replRead (k batch i : Nat) (send_ : Bool) (st fmt : Nat) (pay plain : Bytes) (d : Dev) :
    auditState (replRead k batch i send_ st fmt pay plain d) = auditState d := by
  dsimp only [replRead]
  refine auditState_of_ite (by simp) (auditState_of_ite ?_ ?_)
  · split <;> simp
  · split <;> simp

@[simp ↓] theorem auditState_noteSource (r : JRecord) (es : List SqEntry) (d : Dev) : auditState (noteSource r es d) = auditState d := by
  dsimp only [noteSource]; simp

/-! ### Targets (R457, R459) -/

@[simp ↓] theorem auditState_modIn (k num : Nat) (f : InBatch → InBatch) (d : Dev) : auditState (modIn k num f d) = auditState d := by
  dsimp only [modIn]; simp

@[simp ↓] theorem auditState_dropIn (k num : Nat) (d : Dev) : auditState (dropIn k num d) = auditState d := by
  dsimp only [dropIn]; simp

@[simp ↓] theorem auditState_modItem (k num i : Nat) (f : InItem → InItem) (d : Dev) :
    auditState (modItem k num i f d) = auditState d := by
  dsimp only [modItem]; simp

@[simp ↓] theorem auditState_offerHit (k g : Nat) (fp : Bytes) (d : Dev) : auditState (offerHit k g fp d).2 = auditState d := by
  dsimp only [offerHit]; simp

@[simp ↓] theorem auditState_applyStream (k : Nat) (d : Dev) : auditState (applyStream k d) = auditState d := by
  dsimp only [applyStream]
  split <;> simp

@[simp ↓] theorem auditState_settleBatch (k num : Nat) (d : Dev) : auditState (settleBatch k num d) = auditState d := by
  dsimp only [settleBatch]
  split <;> simp

@[simp ↓] theorem auditState_offerAnswer (k num i : Nat) (a : ProbeAns) (d : Dev) :
    auditState (offerAnswer k num i a d) = auditState d := by
  dsimp only [offerAnswer]
  split <;> simp

/-! ### What follows a cut (R442, R458, R461, R466) -/

@[simp ↓] theorem auditState_rollTo (nsid sseq : Nat) (d : Dev) : auditState (rollTo nsid sseq d) = auditState d := by
  dsimp only [rollTo]; simp

@[simp ↓] theorem auditState_cutApplied (c : Cut) (d : Dev) : auditState (cutApplied c d) = auditState d := by
  dsimp only [cutApplied]
  split
  case h_6 => split <;> simp
  all_goals simp

@[simp ↓] theorem auditState_squaresApplied (r : JRecord) (es : List SqEntry) (d : Dev) :
    auditState (squaresApplied r es d) = auditState d := by
  dsimp only [squaresApplied]
  split
  · split
    · simp
      split <;> simp
    · simp
      split <;> simp
  · simp
    split <;> simp

@[simp ↓] theorem auditState_batchReady (k num : Nat) (d : Dev) : auditState (batchReady k num d) = auditState d := by
  dsimp only [batchReady]; simp

/-! ### What follows a commit -/

@[simp ↓] theorem auditState_armSegment (s : Nat) (d : Dev) : auditState (armSegment s d) = auditState d := by
  dsimp only [armSegment]; simp

@[simp ↓] theorem auditState_endRebuild (s : Nat) (d : Dev) : auditState (endRebuild s d) = auditState d := by
  dsimp only [endRebuild]; simp

@[simp ↓] theorem auditState_afterCommit (r : JRecord) (d : Dev) : auditState (afterCommit r d) = auditState d := by
  dsimp only [afterCommit]
  split
  case h_4 =>
    refine auditState_foldl _ _ _ fun e x => ?_
    split <;> simp
  all_goals simp

/-! ### Tables and arithmetic (R474) -/

@[simp ↓] theorem auditState_modDst (n : Nat) (f : CdtDst → CdtDst) (d : Dev) : auditState (modDst n f d) = auditState d := by
  dsimp only [modDst]; simp

@[simp ↓] theorem auditState_modPath (dev port : Nat) (f : CdtPath → CdtPath) (d : Dev) :
    auditState (modPath dev port f d) = auditState d := by
  dsimp only [modPath]; simp

/-! ### Paths and presence (R470, R497) -/

@[simp ↓] theorem auditState_resendMirror (port : Nat) (d : Dev) : auditState (resendMirror port d) = auditState d := by
  dsimp only [resendMirror]; simp

@[simp ↓] theorem auditState_sendPoolKeys (dev : Nat) (d : Dev) : auditState (sendPoolKeys dev d) = auditState d := by
  dsimp only [sendPoolKeys]; simp

@[simp ↓] theorem auditState_showPaths (d : Dev) : auditState (showPaths d) = auditState d := by
  dsimp only [showPaths]
  simp
  split <;> simp

/-! ### Sending (R474–R477, R480) -/

@[simp ↓] theorem auditState_countCluster (dst port len : Nat) (d : Dev) : auditState (countCluster dst port len d) = auditState d := by
  dsimp only [countCluster]; simp

@[simp ↓] theorem auditState_emitPkt (dst port : Nat) (h : CdtHdr) (payload : Bytes) (reliable : Bool) (d : Dev) :
    auditState (emitPkt dst port h payload reliable d) = auditState d := by
  dsimp only [emitPkt]; simp

@[simp ↓] theorem auditState_pumpPath (dst port m : Nat) (d : Dev) : auditState (pumpPath dst port m d) = auditState d := by
  induction m generalizing d with
  | zero => rfl
  | succ m ih =>
    rw [pumpPath]
    dsimp only
    split <;> simp [ih]

@[simp ↓] theorem auditState_sendPkts (dst port : Nat) (l : List CdtPkt) (d : Dev) :
    auditState (sendPkts dst port l d) = auditState d := by
  dsimp only [sendPkts]; simp

@[simp ↓] theorem auditState_openMsg (dst : Nat) (m : CdtMsg) (d : Dev) : auditState (openMsg dst m d).2 = auditState d := by
  dsimp only [openMsg]; simp

/-! ### Reports (R256, R489, R491, R492) -/

@[simp ↓] theorem auditState_advanceCdt (r m : Nat) (d : Dev) : auditState (advanceCdt r m d) = auditState d := by
  induction m generalizing d with
  | zero => rfl
  | succ m ih => rw [advanceCdt]; simp [ih]

@[simp ↓] theorem auditState_reportDesc (r i status reason nak outcome bytes : Nat) (intr : Bool) (d : Dev) :
    auditState (reportDesc r i status reason nak outcome bytes intr d) = auditState d := by
  dsimp only [reportDesc]; simp

@[simp ↓] theorem auditState_endMsg (dst : Nat) (m : CdtMsg) (ok : Bool) (reason nak outcome bytes : Nat) (d : Dev) :
    auditState (endMsg dst m ok reason nak outcome bytes d) = auditState d := by
  dsimp only [endMsg]
  split
  · simp only [auditState_reportDesc]
    split <;> simp
  · split <;> simp

@[simp ↓] theorem auditState_failMsg (dst reason : Nat) (m : CdtMsg) (d : Dev) : auditState (failMsg dst reason m d) = auditState d := by
  dsimp only [failMsg]; simp

@[simp ↓] theorem auditState_failPath (dst port reason : Nat) (d : Dev) : auditState (failPath dst port reason d) = auditState d := by
  dsimp only [failPath]; simp

@[simp ↓] theorem auditState_cercoDown (p : Nat) (d : Dev) : auditState (cercoDown p d) = auditState d := by
  dsimp only [cercoDown]; simp

/-! ### Messages of the internal queues (R652) -/

@[simp ↓] theorem auditState_createInternal (x : Nat × Nat × Nat × Option Nat) (d : Dev) :
    auditState (createInternal x d) = auditState d := by
  dsimp only [createInternal]
  split <;> simp

@[simp ↓] theorem auditState_pumpWaiting (m : Nat) (d : Dev) : auditState (pumpWaiting m d) = auditState d := by
  induction m generalizing d with
  | zero => rfl
  | succ m ih =>
    rw [pumpWaiting]
    split <;> simp [ih]

@[simp ↓] theorem auditState_takeMessages (d : Dev) : auditState (takeMessages d) = auditState d := by
  dsimp only [takeMessages]; simp

/-! ### What follows a command -/

@[simp ↓] theorem auditState_reductionLost (unit : Nat) (d : Dev) : auditState (reductionLost unit d) = auditState d := by
  dsimp only [reductionLost]
  simp
  split <;> simp

@[simp ↓] theorem auditState_react (t : Todo) (d : Dev) : auditState (react t d) = auditState d := by
  dsimp only [react]
  split <;> simp

@[simp ↓] theorem auditState_drain (m : Nat) (d : Dev) : auditState (drain m d) = auditState d := by
  induction m generalizing d with
  | zero => rw [drain]; simp
  | succ m ih =>
    rw [drain]
    split <;> simp [ih]

@[simp ↓] theorem auditState_finish (d : Dev) : auditState (finish d) = auditState d := by
  dsimp only [finish]; simp

/-! ### The comparison of one GID (R252, R253) -/

@[simp ↓] theorem auditState_fixSquares (g : Nat) (d : Dev) : auditState (fixSquares g d) = auditState d := by
  dsimp only [fixSquares, fixSquare]; simp

@[simp ↓] theorem auditState_refLedger (expected found : Nat) (d : Dev) : auditState (refLedger expected found d) = auditState d := by
  dsimp only [refLedger]; simp

@[simp ↓] theorem auditState_auditOne (g expected found : Nat) (doubtful : Bool) (d : Dev) :
    auditState (auditOne g expected found doubtful d) = auditState d := by
  dsimp only [auditOne]; simp

end Sys2Proof.Proofs

/-!
PROOFS. O28: the index's entries. One operation writes a slot of a bucket, `putEntry`; an INSERT or REMOVE of this device's partitions is
that operation followed by the end of its job.
-/

namespace Sys2Proof.Proofs

open Sys2Proof Sys2Proof.Machine

/-! ### One slot of a bucket is written (R230, R237, R238) -/

/-- Only the buckets, what is shown of them, counters and what they dirty differ; of the registers only those listed. -/
structure IndexMoved (os : List Nat) (d e : Dev) : Prop where
  rest : e = { d with
    regs := e.regs, free := e.free, ftl := e.ftl, fiu.buckets := e.fiu.buckets, fiu.hot := e.fiu.hot, fiu.hotDirty := e.fiu.hotDirty }
  rd : ∀ f : Field, f.off ∉ os → Machine.rd f e = Machine.rd f d

theorem IndexMoved.trans {os : List Nat} {a b c : Dev} (h : IndexMoved os a b) (g : IndexMoved os b c) : IndexMoved os a c :=
  ⟨by rw [g.rest, h.rest], fun f hf => (g.rd f hf).trans (h.rd f hf)⟩

theorem IndexMoved.refl {os : List Nat} (d : Dev) : IndexMoved os d d := ⟨rfl, fun _ _ => rfl⟩

theorem CountedIn.indexMoved {os : List Nat} {d e : Dev} (h : CountedIn os d e) : IndexMoved os d e := ⟨by rw [h.rest], h.rd⟩

theorem HotFrom.indexMoved {os : List Nat} {d e : Dev} (h : HotFrom d e) : IndexMoved os d e := by
  refine ⟨?_, fun f _ => rd_of_regs ?_ f⟩ <;> rw [h]

/-- The registers that show the index (Tables 7.9 and 7.10). -/
def indexRegs : List Nat :=
  [Reg.FIU_STATUS_SAMPLING.off, Reg.FIU_POP_POPULATION.off, Reg.FIU_LIMIT_LIMIT.off, Reg.FIU_STALE_REMOVED.off]

theorem countedIn_wr {os : List Nat} (f : Field) (v : Nat) (d : Dev) (hf : f.off ∈ os) : CountedIn os d (wr f v d) :=
  ⟨rfl, fun g hg => rd_wr_off (fun h => hg (by rw [h]; exact hf)) v d⟩

theorem countedIn_showIndex (d : Dev) : CountedIn indexRegs d (showIndex d) := by
  have hlimit (l : Nat) : CountedIn indexRegs d (wr Reg.FIU_LIMIT_LIMIT l d) := countedIn_wr _ _ _ (by decide)
  have hshown (p l : Nat) : CountedIn indexRegs d (wr Reg.FIU_POP_POPULATION p (wr Reg.FIU_LIMIT_LIMIT l d)) :=
    (hlimit l).trans (countedIn_wr _ _ _ (by decide))
  unfold showIndex
  dsimp only
  refine .trans ?_ (countedIn_wr _ _ _ (by decide))
  split
  · exact (hshown _ _).trans (countedIn_wr _ _ _ (by decide))
  · split
    · exact (hshown _ _).trans (countedIn_wr _ _ _ (by decide))
    · exact hshown _ _

theorem indexMoved_putEntry (key slot : Nat) (b : Bytes) (d : Dev) : IndexMoved indexRegs d (putEntry key slot b d) :=
  .trans (.trans (b := { d with fiu.buckets := tset [] d.fiu.buckets key (tset [] (getBucket key d) slot b) }) ⟨rfl, fun _ _ => rfl⟩
    (hotFrom_touchBucket ..).indexMoved) (countedIn_showIndex _).indexMoved

theorem putEntry_buckets (key slot : Nat) (b : Bytes) (d : Dev) :
    (putEntry key slot b d).fiu.buckets = tset [] d.fiu.buckets key (tset [] (getBucket key d) slot b) := by
  unfold putEntry
  rw [(countedIn_showIndex _).rest, hotFrom_touchBucket]

/-- The slot written holds what was written; every other slot of every bucket stands. -/
theorem tget_putEntry (key slot k i : Nat) (b : Bytes) (d : Dev) : tget [] (getBucket k (putEntry key slot b d)) i =
    if k = key ∧ i = slot then b else tget [] (getBucket k d) i := by
  rw [getBucket, putEntry_buckets, tget_tset]
  by_cases hk : k = key
  · subst hk
    rw [if_pos rfl, tget_tset]
    simp [getBucket]
  · rw [if_neg hk, if_neg fun h => hk h.1, getBucket]

theorem getBucket_of_buckets {d e : Dev} (h : e.fiu.buckets = d.fiu.buckets) (k : Nat) : getBucket k e = getBucket k d := by
  rw [getBucket, getBucket, h]

@[simp] theorem bump_fiu (f : Field) (d : Dev) : (bump f d).fiu = d.fiu := bumpBy_fiu f 1 d
@[simp] theorem bump_todo (f : Field) (d : Dev) : (bump f d).todo = d.todo := bumpBy_todo f 1 d

/-! ### INSERT and REMOVE at this device (R247, R248) -/

theorem fiuWay_here {p : Nat} {d : Dev} (h : servesPart p d = true) : fiuWay p d = .here := by
  obtain ⟨hon, hown⟩ := served_valid h
  simp [fiuWay, hon, hown, h]

/-- The bucket of a fingerprint. -/
abbrev keyOf (fp : Nat) (d : Dev) : Nat := bucketKey (partOf fp) (bucketOf fp d)

/-- The slot that an INSERT tries first (R247). -/
abbrev hintedSlot (n : Nat) : Nat := if n > 63 then 0 else n

/-- A job ends its hold of another device's window. -/
def jobLeft (ring : Nat) (d : Dev) : Dev := { d with fiu.jobs := tdel ring d.fiu.jobs }

theorem tryInsert_empty {key i : Nat} {d : Dev} (h : tget [] (getBucket key d) i = []) (e fp : Bytes) (kdom n : Nat) :
    tryInsert key e fp kdom (n + 1) i d = (.ok, putEntry key i e d) := by
  simp [tryInsert, h]

theorem doInsert_here {ring : Nat} {j : IndexJob} {d : Dev} (h : fiuWay (partOf (beNat j.fp)) d = .here) (far : FiuReport) :
    doInsert ring j far d = if ownMoving (partOf (beNat j.fp)) d then (some .moved, jobLeft ring d) else
      (fun x => (some x.1, x.2)) (tryInsert (keyOf (beNat j.fp) d) (mkEntry j.fp j.gid j.kdom (rdb Reg.FIU_STATUS_SAMPLING d)) j.fp j.kdom 64
        (hintedSlot j.slot) (jobLeft ring d)) := by
  simp only [doInsert, h]
  rfl

/-- An INSERT whose hinted slot is empty writes it. -/
theorem doInsert_empty {j : IndexJob} {d : Dev} (hserves : servesPart (partOf (beNat j.fp)) d = true)
    (hstays : ownMoving (partOf (beNat j.fp)) d = false) (hempty : tget [] (getBucket (keyOf (beNat j.fp) d) d) (hintedSlot j.slot) = [])
    (ring : Nat) (far : FiuReport) : doInsert ring j far d = (some .ok, putEntry (keyOf (beNat j.fp) d) (hintedSlot j.slot)
      (mkEntry j.fp j.gid j.kdom (rdb Reg.FIU_STATUS_SAMPLING d)) (jobLeft ring d)) := by
  rw [doInsert_here (fiuWay_here hserves), hstays, if_neg Bool.false_ne_true, tryInsert_empty (d := jobLeft ring d) hempty]

theorem doRemove_here {p : Nat} {d : Dev} (h : fiuWay p d = .here) (ring key slot : Nat) (want : Bytes) (is : Bytes → Bool)
    (far : FiuReport) : doRemove ring p key slot want is far d = if ownMoving p d then (some .moved, jobLeft ring d)
      else if is (tget [] (getBucket key d) slot) then (some .ok, putEntry key slot [] (bump Reg.FIU_STALE_REMOVED (jobLeft ring d)))
      else (some .notFound, touchBucket key false (jobLeft ring d)) := by
  simp only [doRemove, h]
  rfl

/-- A REMOVE whose slot holds the entry clears it. -/
theorem doRemove_found {p key slot : Nat} {is : Bytes → Bool} {d : Dev} (hserves : servesPart p d = true) (hstays : ownMoving p d = false)
    (hfound : is (tget [] (getBucket key d) slot) = true) (ring : Nat) (want : Bytes) (far : FiuReport) :
    doRemove ring p key slot want is far d = (some .ok, putEntry key slot [] (bump Reg.FIU_STALE_REMOVED (jobLeft ring d))) := by
  rw [doRemove_here (fiuWay_here hserves), hstays, if_neg Bool.false_ne_true, if_pos hfound]

/-- A REMOVE at another device's window that brings what it found ends, and its swap is sent. -/
theorem doRemove_away {p ring : Nat} {d : Dev} (h : fiuWay p d = .away) (hfree : farWaits ring d = false) (key slot : Nat) (want : Bytes)
    (is : Bytes → Bool) (old : Bytes) : doRemove ring p key slot want is (.found old) d =
      if is old then (some .ok, bump Reg.FIU_STALE_REMOVED (jobLeft ring (send (.indexSwap (ownerOf p d) false want slot) d)))
      else (some .notFound, jobLeft ring (send (.indexSwap (ownerOf p d) false want slot) d)) := by
  simp only [doRemove, h, hfree]
  rfl

theorem insertEnded_ok (gid : Nat) (d : Dev) : insertEnded gid .ok d = bump Reg.FIU_INS_OK d := if_pos rfl

/-! ### The pipeline's own jobs -/

section jobs

variable {s : State} {j : IndexJob} {js : List IndexJob}

/-- A slot holds the entry that a REMOVE of the pipeline names. -/
def holdsEntry (j : IndexJob) (b : Bytes) : Bool := entryMatches b j.fp j.kdom && entryGid b == j.gid

theorem fiuInsert_runsTo (hready : s.ready) (hjobs : s.dev.fiu.inserts = j :: js) {far : FiuReport} {x : FiuEnd} {e : Dev}
    (hdone : doInsert 8 j far s.dev.quiet = (some x, e)) :
    RunsTo (.fiuInsert 8 far) s (insertEnded j.gid x { e with fiu.inserts := js }) :=
  runsTo_of_live (execFiuInsert 8 far s) rfl rfl hready (by simp [hjobs, hdone])

theorem fiuRemove_runsTo (hready : s.ready) (hjobs : s.dev.fiu.removes = j :: js) {far : FiuReport} {x : FiuEnd} {e : Dev}
    (hdone : doRemove 8 (partOf (beNat j.fp)) (keyOf (beNat j.fp) s.dev) j.slot (mkEntry j.fp j.gid j.kdom false) (holdsEntry j)
      far s.dev.quiet = (some x, e)) :
    RunsTo (.fiuRemove 8 far) s { e with fiu.removes := js } := by
  have hdone' : doRemove 8 (partOf (beNat j.fp)) (bucketKey (partOf (beNat j.fp)) (bucketOf (beNat j.fp) s.dev.quiet)) j.slot
    (mkEntry j.fp j.gid j.kdom false) (fun b => entryMatches b j.fp j.kdom && entryGid b == j.gid) far s.dev.quiet = (some x, e) := hdone
  exact runsTo_of_live (execFiuRemove 8 far s) rfl rfl hready (by simp [hjobs, hdone'])

theorem fiuInsert_answers (hready : s.ready) (hjobs : s.dev.fiu.inserts = j :: js)
    (hserves : servesPart (partOf (beNat j.fp)) s.dev = true) (hstays : ownMoving (partOf (beNat j.fp)) s.dev = false)
    (hempty : tget [] (getBucket (keyOf (beNat j.fp) s.dev) s.dev) (hintedSlot j.slot) = []) (far : FiuReport) :
    Answers (.fiuInsert 8 far) s fun d => d.fiu.inserts = js ∧
      (rd Reg.FIU_INS_OK s.dev < 2 ^ 32 - 1 → rd Reg.FIU_INS_OK d = rd Reg.FIU_INS_OK s.dev + 1) ∧
      tget [] (getBucket (keyOf (beNat j.fp) s.dev) d) (hintedSlot j.slot) =
        mkEntry j.fp j.gid j.kdom (rdb Reg.FIU_STATUS_SAMPLING s.dev) ∧
      ∀ i, i ≠ hintedSlot j.slot → tget [] (getBucket (keyOf (beNat j.fp) s.dev) d) i =
        tget [] (getBucket (keyOf (beNat j.fp) s.dev) s.dev) i := by
  have hruns := fiuInsert_runsTo hready hjobs (doInsert_empty (d := s.dev.quiet) hserves hstays hempty 8 far)
  have hslot (i : Nat) := tget_putEntry (keyOf (beNat j.fp) s.dev.quiet) (hintedSlot j.slot) (keyOf (beNat j.fp) s.dev) i
    (mkEntry j.fp j.gid j.kdom (rdb Reg.FIU_STATUS_SAMPLING s.dev.quiet)) (jobLeft 8 s.dev.quiet)
  obtain ⟨hrest, hrd⟩ := indexMoved_putEntry (keyOf (beNat j.fp) s.dev.quiet) (hintedSlot j.slot)
    (mkEntry j.fp j.gid j.kdom (rdb Reg.FIU_STATUS_SAMPLING s.dev.quiet)) (jobLeft 8 s.dev.quiet)
  rw [insertEnded_ok] at hruns
  generalize putEntry _ _ _ _ = e at hruns hslot hrest hrd
  refine hruns.answers ?_ fun d hd => ?_
  · rw [bump_todo, hrest]
    exact hready.2
  · have hfiu : d.fiu = { e.fiu with inserts := js } := by rw [hd.fiu, bump_fiu]
    have hbucket (k : Nat) : getBucket k d = getBucket k e := getBucket_of_buckets (by rw [hfiu]) k
    refine ⟨by rw [hfiu], fun hlt => ?_, ?_, fun i hi => ?_⟩
    · have hok : rd Reg.FIU_INS_OK e = rd Reg.FIU_INS_OK s.dev := hrd _ (by decide)
      rw [hd.rd (by decide), rd_bump_same (by decide)]
      · exact congrArg (· + 1) hok
      · exact Nat.add_lt_of_lt_sub (hok ▸ hlt)
    · rw [hbucket, hslot, if_pos ⟨rfl, rfl⟩]
      rfl
    · rw [hbucket, hslot, if_neg fun h => hi h.2]
      rfl

theorem fiuRemove_answers (hready : s.ready) (hjobs : s.dev.fiu.removes = j :: js)
    (hserves : servesPart (partOf (beNat j.fp)) s.dev = true) (hstays : ownMoving (partOf (beNat j.fp)) s.dev = false)
    (hmatches : entryMatches (tget [] (getBucket (keyOf (beNat j.fp) s.dev) s.dev) j.slot) j.fp j.kdom = true)
    (hgid : entryGid (tget [] (getBucket (keyOf (beNat j.fp) s.dev) s.dev) j.slot) = j.gid) (far : FiuReport) :
    Answers (.fiuRemove 8 far) s fun d => d.fiu.removes = js ∧ tget [] (getBucket (keyOf (beNat j.fp) s.dev) d) j.slot = [] ∧
      ∀ i, i ≠ j.slot → tget [] (getBucket (keyOf (beNat j.fp) s.dev) d) i =
        tget [] (getBucket (keyOf (beNat j.fp) s.dev) s.dev) i := by
  have hfound : holdsEntry j (tget [] (getBucket (keyOf (beNat j.fp) s.dev) s.dev) j.slot) = true := by
    simp only [holdsEntry, hmatches, hgid, beq_self_eq_true, Bool.and_self]
  have hruns := fiuRemove_runsTo hready hjobs (doRemove_found (d := s.dev.quiet) hserves hstays hfound 8 _ far)
  have hslot (i : Nat) := tget_putEntry (keyOf (beNat j.fp) s.dev) j.slot (keyOf (beNat j.fp) s.dev) i []
    (bump Reg.FIU_STALE_REMOVED (jobLeft 8 s.dev.quiet))
  obtain ⟨hrest, -⟩ := indexMoved_putEntry (keyOf (beNat j.fp) s.dev) j.slot [] (bump Reg.FIU_STALE_REMOVED (jobLeft 8 s.dev.quiet))
  generalize putEntry _ _ _ _ = e at hruns hslot hrest
  refine hruns.answers ?_ fun d hd => ?_
  · rw [hrest]
    exact (bump_todo ..).trans hready.2
  · have hbucket (k : Nat) : getBucket k d = getBucket k e := getBucket_of_buckets (by rw [hd.fiu]) k
    have hcount (k : Nat) : getBucket k (bump Reg.FIU_STALE_REMOVED (jobLeft 8 s.dev.quiet)) = getBucket k s.dev :=
      getBucket_of_buckets (by rw [bump_fiu]; rfl) k
    refine ⟨by rw [hd.fiu], ?_, fun i hi => ?_⟩
    · rw [hbucket, hslot, if_pos ⟨rfl, rfl⟩]
    · rw [hbucket, hslot, if_neg fun h => hi h.2, hcount]

theorem fiuRemove_answers_away (hready : s.ready) (hjobs : s.dev.fiu.removes = j :: js)
    (hway : fiuWay (partOf (beNat j.fp)) s.dev = .away) (hfree : farWaits 8 s.dev = false) (old : Bytes) :
    Answers (.fiuRemove 8 (.found old)) s fun d => d.fiu.removes = js ∧
      Out.indexSwap (ownerOf (partOf (beNat j.fp)) s.dev) false (mkEntry j.fp j.gid j.kdom false) j.slot ∈ d.out := by
  have hruns {x : FiuEnd} {e : Dev} := fiuRemove_runsTo (x := x) (e := e) (far := .found old) hready hjobs
  rw [doRemove_away (d := s.dev.quiet) hway hfree] at hruns
  have hsent : Out.indexSwap (ownerOf (partOf (beNat j.fp)) s.dev) false (mkEntry j.fp j.gid j.kdom false) j.slot ∈
      (jobLeft 8 (send (.indexSwap (ownerOf (partOf (beNat j.fp)) s.dev) false (mkEntry j.fp j.gid j.kdom false) j.slot) s.dev.quiet)).out :=
    List.mem_singleton.2 rfl
  split at hruns
  · refine (hruns rfl).answers ((bump_todo ..).trans hready.2) fun d hd => ⟨by rw [hd.fiu], hd.mem_out ?_⟩
    exact (bumpBy_out Reg.FIU_STALE_REMOVED 1 _).symm ▸ hsent
  · exact (hruns rfl).answers hready.2 fun d hd => ⟨by rw [hd.fiu], hd.mem_out hsent⟩

end jobs

/-! ### The jobs of a ring (R254) -/

/-- A descriptor of a ring has its STATUS, no other byte of memory has changed, and the ring has moved on. -/
abbrev Consumed (r a : Nat) (st : Byte) (d e : Dev) : Prop :=
  memByte e (a + 1) = st ∧ (∀ x, x ≠ a + 1 → memByte e x = memByte d x) ∧
    (tget {} e.taskRings (128 + r)).cons = ((tget {} d.taskRings (128 + r)).cons + 1) % 65536

theorem endFiu_todo (r a : Nat) (x : FiuEnd) (d : Dev) : (endFiu r a x d).todo = d.todo := storeMem_todo ..
theorem endFiu_fiu (r a : Nat) (x : FiuEnd) (d : Dev) : (endFiu r a x d).fiu = d.fiu := storeMem_fiu ..

theorem endFiu_taskRings (r a : Nat) (x : FiuEnd) (d : Dev) :
    (endFiu r a x d).taskRings = tmod {} d.taskRings (128 + r) fun t => { t with cons := (t.cons + 1) % 65536 } :=
  congrArg (fun t => tmod ({} : TaskRing) t (128 + r) fun x => { x with cons := (x.cons + 1) % 65536 }) (storeMem_taskRings ..)

theorem consumed_endFiu (r a : Nat) (x : FiuEnd) (d : Dev) : Consumed r a (BitVec.ofNat 8 x.status) d (endFiu r a x d) := by
  have hmem : (endFiu r a x d).mem = (storeNat (a + 1) 1 x.status d).mem := rfl
  refine ⟨?_, fun y hy => ?_, ?_⟩
  · rw [memByte_of_mem hmem]
    exact memByte_storeMem_head ..
  · rw [memByte_of_mem hmem, memByte_storeNat_out (by omega)]
  · rw [endFiu_taskRings, tget_tmod, if_pos rfl]

theorem Consumed.of_eq {r a : Nat} {st : Byte} {d e g : Dev} (h : Consumed r a st d e) (hmem : g.mem = e.mem)
    (hrings : g.taskRings = e.taskRings) : Consumed r a st d g := by
  obtain ⟨hst, hkept, hcons⟩ := h
  exact ⟨(memByte_of_mem hmem _).trans hst, fun x hx => (memByte_of_mem hmem _).trans (hkept x hx), by rw [hrings]; exact hcons⟩

section rings

variable {s : State} {r : Fin 9} {a : Nat}

/-- The job that an INSERT descriptor names (Table 7.7). -/
abbrev descJob (a : Nat) (d : Dev) : IndexJob :=
  ⟨fld (memRead d a 32) 8 8, fld (memRead d a 32) 2 2, memRead d (fld (memRead d a 32) 16 8) 32, fld (memRead d a 32) 4 1⟩

theorem fiuInsert_runsTo_refused (hready : s.ready) (hr : r.val < 8) (hdesc : fiuDesc r s.dev = some a)
    (hbad : fiuBad (memRead s.dev a 32) = true) (hop : fld (memRead s.dev a 32) 0 1 ≠ 1) (far : FiuReport) :
    RunsTo (.fiuInsert r far) s (endFiu r a .refused s.dev.quiet) := by
  have hdesc' : fiuDesc r s.dev.quiet = some a := hdesc
  have hbad' : fiuBad (memRead s.dev.quiet a 32) = true := hbad
  have hop' : fld (memRead s.dev.quiet a 32) 0 1 ≠ 1 := hop
  exact runsTo_of_live (execFiuInsert r far s) rfl rfl hready (by simp [hr.ne, hdesc', hbad', hop'])

theorem fiuInsert_runsTo_desc (hready : s.ready) (hr : r.val < 8) (hdesc : fiuDesc r s.dev = some a)
    (hgood : fiuBad (memRead s.dev a 32) = false) (hop : fld (memRead s.dev a 32) 0 1 = 1) {far : FiuReport} {x : FiuEnd} {e : Dev}
    (hdone : doInsert r (descJob a s.dev) far s.dev.quiet = (some x, e)) :
    RunsTo (.fiuInsert r far) s (insertEnded (fld (memRead s.dev a 32) 8 8) x (endFiu r a x e)) := by
  have hdesc' : fiuDesc r s.dev.quiet = some a := hdesc
  have hgood' : fiuBad (memRead s.dev.quiet a 32) = false := hgood
  have hop' : fld (memRead s.dev.quiet a 32) 0 1 = 1 := hop
  have hdone' : doInsert r (descJob a s.dev.quiet) far s.dev.quiet = (some x, e) := hdone
  exact runsTo_of_live (execFiuInsert r far s) rfl rfl hready (by simp [hr.ne, hdesc', hgood', hop', hdone']; rfl)

theorem fiuRemove_runsTo_desc (hready : s.ready) (hr : r.val < 8) (hdesc : fiuDesc r s.dev = some a)
    (hgood : fiuBad (memRead s.dev a 32) = false) (hop : fld (memRead s.dev a 32) 0 1 = 2) {want : Bytes}
    (hwant : memRead s.dev (fld (memRead s.dev a 32) 16 8) 32 = want) {far : FiuReport} {x : FiuEnd} {e : Dev}
    (hdone : doRemove r (partOf (entryFp want)) (keyOf (entryFp want) s.dev) (fld (memRead s.dev a 32) 4 1) want (fun y => y == want) far
      s.dev.quiet = (some x, e)) :
    RunsTo (.fiuRemove r far) s (endFiu r a x e) := by
  have hdesc' : fiuDesc r s.dev.quiet = some a := hdesc
  have hgood' : fiuBad (memRead s.dev.quiet a 32) = false := hgood
  have hop' : fld (memRead s.dev.quiet a 32) 0 1 = 2 := hop
  have hwant' : memRead s.dev.quiet (fld (memRead s.dev.quiet a 32) 16 8) 32 = want := hwant
  have hdone' : doRemove r (partOf (entryFp want)) (keyOf (entryFp want) s.dev.quiet) (fld (memRead s.dev.quiet a 32) 4 1) want
    (fun y => y == want) far s.dev.quiet = (some x, e) := hdone
  exact runsTo_of_live (execFiuRemove r far s) rfl rfl hready (by simp [hr.ne, hdesc', hgood', hop', hwant', hdone'])

/-- Work on the index leaves memory and the rings as they were. -/
theorem Consumed.of_indexMoved {os : List Nat} {st : Byte} {c d e : Dev} {n : Nat} (h : Consumed n a st d e) (hmoved : IndexMoved os c d) :
    Consumed n a st c e := by
  rw [hmoved.rest] at h
  exact h

theorem fiuInsert_answers_refused (hready : s.ready) (hr : r.val < 8) (hdesc : fiuDesc r s.dev = some a)
    (hbad : fiuBad (memRead s.dev a 32) = true) (hop : fld (memRead s.dev a 32) 0 1 ≠ 1) (far : FiuReport) :
    Answers (.fiuInsert r far) s (Consumed r a 7 s.dev) :=
  (fiuInsert_runsTo_refused hready hr hdesc hbad hop far).answers ((endFiu_todo ..).trans hready.2) fun _ hd =>
    (consumed_endFiu r a .refused s.dev.quiet).of_eq hd.mem hd.taskRings

theorem fiuInsert_answers_desc (hready : s.ready) (hr : r.val < 8) (hdesc : fiuDesc r s.dev = some a)
    (hgood : fiuBad (memRead s.dev a 32) = false) (hop : fld (memRead s.dev a 32) 0 1 = 1)
    (hserves : servesPart (partOf (beNat (descJob a s.dev).fp)) s.dev = true)
    (hstays : ownMoving (partOf (beNat (descJob a s.dev).fp)) s.dev = false)
    (hempty : tget [] (getBucket (keyOf (beNat (descJob a s.dev).fp) s.dev) s.dev) (hintedSlot (descJob a s.dev).slot) = [])
    (far : FiuReport) : Answers (.fiuInsert r far) s (Consumed r a 1 s.dev) := by
  have hruns := fiuInsert_runsTo_desc hready hr hdesc hgood hop
    (doInsert_empty (d := s.dev.quiet) (j := descJob a s.dev) hserves hstays hempty r far)
  have hmoved := indexMoved_putEntry (keyOf (beNat (descJob a s.dev).fp) s.dev.quiet) (hintedSlot (descJob a s.dev).slot)
    (mkEntry (descJob a s.dev).fp (descJob a s.dev).gid (descJob a s.dev).kdom (rdb Reg.FIU_STATUS_SAMPLING s.dev.quiet))
    (jobLeft r s.dev.quiet)
  rw [insertEnded_ok] at hruns
  generalize putEntry _ _ _ _ = e at hruns hmoved
  refine hruns.answers ?_ fun d hd => ?_
  · rw [bump_todo, endFiu_todo, hmoved.rest]
    exact hready.2
  · have hconsumed : Consumed r a 1 (jobLeft r s.dev.quiet) (endFiu r a .ok e) := (consumed_endFiu r a .ok e).of_indexMoved hmoved
    exact Consumed.of_eq hconsumed (hd.mem.trans (bumpBy_mem ..)) (hd.taskRings.trans (bumpBy_taskRings ..))

theorem fiuRemove_answers_desc (hready : s.ready) (hr : r.val < 8) (hdesc : fiuDesc r s.dev = some a)
    (hgood : fiuBad (memRead s.dev a 32) = false) (hop : fld (memRead s.dev a 32) 0 1 = 2) {want : Bytes}
    (hwant : memRead s.dev (fld (memRead s.dev a 32) 16 8) 32 = want)
    (hserves : servesPart (partOf (entryFp want)) s.dev = true) (hstays : ownMoving (partOf (entryFp want)) s.dev = false)
    (hfound : tget [] (getBucket (keyOf (entryFp want) s.dev) s.dev) (fld (memRead s.dev a 32) 4 1) = want) (far : FiuReport) :
    Answers (.fiuRemove r far) s fun d =>
      Consumed r a 1 s.dev d ∧ tget [] (getBucket (keyOf (entryFp want) s.dev) d) (fld (memRead s.dev a 32) 4 1) = [] := by
  have hholds : (fun y => y == want) (tget [] (getBucket (keyOf (entryFp want) s.dev) s.dev) (fld (memRead s.dev a 32) 4 1)) = true :=
    beq_iff_eq.2 hfound
  have hruns := fiuRemove_runsTo_desc hready hr hdesc hgood hop hwant
    (doRemove_found (d := s.dev.quiet) (is := fun y => y == want) hserves hstays hholds r want far)
  have hslot := tget_putEntry (keyOf (entryFp want) s.dev) (fld (memRead s.dev a 32) 4 1) (keyOf (entryFp want) s.dev)
    (fld (memRead s.dev a 32) 4 1) [] (bump Reg.FIU_STALE_REMOVED (jobLeft r s.dev.quiet))
  have hmoved := (countedIn_bump (os := indexRegs) Reg.FIU_STALE_REMOVED (jobLeft r s.dev.quiet) (by decide)).indexMoved.trans
    (indexMoved_putEntry (keyOf (entryFp want) s.dev) (fld (memRead s.dev a 32) 4 1) []
      (bump Reg.FIU_STALE_REMOVED (jobLeft r s.dev.quiet)))
  generalize putEntry _ _ _ _ = e at hruns hslot hmoved
  refine hruns.answers ?_ fun d hd => ⟨?_, ?_⟩
  · rw [endFiu_todo, hmoved.rest]
    exact hready.2
  · have hconsumed : Consumed r a 1 (jobLeft r s.dev.quiet) (endFiu r a .ok e) := (consumed_endFiu r a .ok e).of_indexMoved hmoved
    exact Consumed.of_eq hconsumed hd.mem hd.taskRings
  · rw [getBucket_of_buckets (d := e) (by rw [hd.fiu, endFiu_fiu]), hslot, if_pos ⟨rfl, rfl⟩]

end rings

/-! ### The filter, the owner table, the pin (R232, R240, R250) -/

theorem rd_rebuilding_showIndex (d : Dev) : rd Reg.FIU_STATUS_REBUILDING (showIndex d) = b2n !d.fiu.bypass.isEmpty := by
  unfold showIndex
  dsimp only
  rw [rd_wr_same (by decide)]
  simp only [apply_ite Dev.fiu, setb_eq, clr_eq, wr_fiu, ite_self]
  cases d.fiu.bypass.isEmpty <;> rfl

theorem filterRebuildDone_answers {s : State} (hready : s.ready) {p : Nat} {ps : List Nat} (hbypass : s.dev.fiu.bypass = p :: ps) :
    Answers .filterRebuildDone s fun d => d.fiu.bypass = ps ∧ (rd Reg.FIU_STATUS_REBUILDING d = 0 ↔ ps = []) := by
  have hruns : RunsTo .filterRebuildDone s (showIndex { s.dev.quiet with fiu.bypass := ps }) :=
    runsTo_of_live (execFilterRebuildDone s) rfl rfl hready (by simp [hbypass])
  have hrest := (countedIn_showIndex { s.dev.quiet with fiu.bypass := ps }).rest
  refine hruns.answers ?_ fun d hd => ⟨?_, ?_⟩
  · rw [hrest]
    exact hready.2
  · rw [hd.fiu, hrest]
  · rw [hd.rd (by decide), rd_rebuilding_showIndex]
    cases ps <;> simp [b2n]

theorem fiuOwnApplyWrite_answers {s : State} (hready : s.ready) {v : BitVec 64} (hv : v = 0 ∨ tempoNow s.dev < v.toNat) :
    Answers (.fiuOwnApplyWrite v) s fun d => rd Reg.FIU_OWN_APPLY_TEMPO d = v.toNat := by
  have hruns : RunsTo (.fiuOwnApplyWrite v) s (wr Reg.FIU_OWN_APPLY_TEMPO v.toNat s.dev.quiet) :=
    runsTo_of_live (execFiuOwnApplyWrite v s) rfl rfl hready (if_pos hv)
  refine hruns.answers hready.2 fun d hd => ?_
  rw [hd.rd (by decide), rd_wr_same (by decide)]
  exact Nat.mod_eq_of_lt v.isLt

/-! ### The scrub (R251) -/

theorem ne_nil_of_entryValid {b : Bytes} (h : entryValid b = true) : b ≠ [] := by
  rintro rfl
  exact absurd h (by decide)

/-- The scrub removes entries one by one. -/
def clearEntries (l : List (Nat × Nat)) (d : Dev) : Dev := l.foldl (fun d x => putEntry x.1 x.2 [] (bump Reg.FIU_STALE_REMOVED d)) d

theorem indexMoved_clearOne (x : Nat × Nat) (d : Dev) : IndexMoved indexRegs d (putEntry x.1 x.2 [] (bump Reg.FIU_STALE_REMOVED d)) :=
  (countedIn_bump Reg.FIU_STALE_REMOVED d (by decide)).indexMoved.trans (indexMoved_putEntry ..)

theorem clearEntries_cons (x : Nat × Nat) (l : List (Nat × Nat)) (d : Dev) :
    clearEntries (x :: l) d = clearEntries l (putEntry x.1 x.2 [] (bump Reg.FIU_STALE_REMOVED d)) := by
  simp only [clearEntries, List.foldl_cons]

theorem indexMoved_clearEntries (l : List (Nat × Nat)) : ∀ d, IndexMoved indexRegs d (clearEntries l d) := by
  induction l with
  | nil => exact .refl
  | cons x l ih =>
    intro d
    rw [clearEntries_cons]
    exact (indexMoved_clearOne x d).trans (ih _)

theorem tget_clearOne (x : Nat × Nat) (k i : Nat) (d : Dev) :
    tget [] (getBucket k (putEntry x.1 x.2 [] (bump Reg.FIU_STALE_REMOVED d))) i =
      if k = x.1 ∧ i = x.2 then [] else tget [] (getBucket k d) i := by
  rw [tget_putEntry, getBucket_of_buckets (d := d) (by rw [bump_fiu])]

/-- A slot that is empty stays so, and every slot of the list becomes so. -/
theorem clearEntries_clears {k i : Nat} (l : List (Nat × Nat)) : ∀ d, tget [] (getBucket k d) i = [] ∨ (k, i) ∈ l →
    tget [] (getBucket k (clearEntries l d)) i = [] := by
  induction l with
  | nil => exact fun d h => h.resolve_right List.not_mem_nil
  | cons x l ih =>
    intro d h
    rw [clearEntries_cons]
    apply ih
    rw [tget_clearOne]
    by_cases hx : k = x.1 ∧ i = x.2
    · exact .inl (if_pos hx)
    · rw [if_neg hx]
      have hne : (k, i) ≠ x := fun heq => hx ⟨congrArg Prod.fst heq, congrArg Prod.snd heq⟩
      exact h.imp_right fun hmem => (List.mem_cons.1 hmem).resolve_left hne

/-- The buckets that this device serves, in all. -/
abbrev scrubTotal (d : Dev) : Nat := (servedParts d).length * 2 ^ bktBits d

/-- A bucket's place in the scrub's order. -/
def scrubPlace (key : Nat) (d : Dev) : Nat :=
  ((servedParts d).takeWhile (· != key / 2 ^ 22)).length * 2 ^ bktBits d + key % 2 ^ 22

/-- A bucket is checked in this pass. -/
def scrubDue (key : Nat) (d : Dev) : Bool :=
  (servedParts d).contains (key / 2 ^ 22) &&
    (scrubPlace key d + scrubTotal d - d.fiu.scrub % scrubTotal d) % scrubTotal d < rd Reg.FIU_CTRL_SCRUB_RATE d

/-- The scrub removes an entry: it is VALID, and its GTE is dead. -/
def scrubStale (dead : List Nat) (b : Bytes) (d : Dev) : Bool :=
  entryValid b && if gidLocal (entryGid b) d then (getGte (entryGid b) d).refcnt == 0 else dead.contains (entryGid b)

/-- The entries that a pass of the scrub removes. -/
def scrubGone (dead : List Nat) (d : Dev) : List (Nat × Nat) :=
  (d.fiu.buckets.filter fun b => scrubDue b.1 d).flatMap fun b =>
    (b.2.filter fun e => scrubStale dead e.2 d).map fun e => (b.1, e.1)

theorem ownerScrub_runsTo {s : State} (hready : s.ready) (hon : rdb Reg.FIU_CTRL_SCRUB_EN s.dev = true) (htime : tempoNow s.dev % 1000 = 0)
    (hparts : servedParts s.dev ≠ []) (dead : List Nat) : RunsTo (.ownerScrub dead) s
      { clearEntries (scrubGone dead s.dev.quiet) s.dev.quiet with fiu.scrub :=
        ((clearEntries (scrubGone dead s.dev.quiet) s.dev.quiet).fiu.scrub + rd Reg.FIU_CTRL_SCRUB_RATE s.dev) % scrubTotal s.dev } := by
  have hskip : ¬((!rdb Reg.FIU_CTRL_SCRUB_EN s.dev.quiet || tempoNow s.dev.quiet % 1000 ≠ 0 ||
      (servedParts s.dev.quiet).length * 2 ^ bktBits s.dev.quiet = 0) = true) := by
    have hlen : (servedParts s.dev.quiet).length ≠ 0 := fun h => hparts (List.length_eq_zero_iff.1 h)
    have hon' : rdb Reg.FIU_CTRL_SCRUB_EN s.dev.quiet = true := hon
    have htime' : tempoNow s.dev.quiet % 1000 = 0 := htime
    simp [hon', htime', hlen]
  exact runsTo_of_live (execOwnerScrub dead s) rfl rfl hready (if_neg hskip)

/-- When a pass covers every bucket, a bucket that this device serves is checked. -/
theorem scrubDue_of_total_le {key : Nat} {d : Dev} (hpart : key / 2 ^ 22 ∈ servedParts d)
    (hrate : scrubTotal d ≤ rd Reg.FIU_CTRL_SCRUB_RATE d) : scrubDue key d = true := by
  have hpos : 0 < scrubTotal d := Nat.mul_pos (List.length_pos_of_mem hpart) (Nat.two_pow_pos _)
  have hlt := (Nat.mod_lt (scrubPlace key d + scrubTotal d - d.fiu.scrub % scrubTotal d) hpos).trans_le hrate
  rw [scrubDue, List.contains_iff_mem.2 hpart, decide_eq_true hlt, Bool.and_self]

theorem mem_scrubGone {key slot : Nat} {dead : List Nat} {d : Dev} (hdue : scrubDue key d = true)
    (hstale : scrubStale dead (tget [] (getBucket key d) slot) d = true) : (key, slot) ∈ scrubGone dead d := by
  have hvalid : entryValid (tget [] (getBucket key d) slot) = true := (Bool.and_eq_true_iff.1 hstale).1
  have hslot : (slot, tget [] (getBucket key d) slot) ∈ getBucket key d := mem_of_tget_ne (ne_nil_of_entryValid hvalid)
  have hbucket : (key, getBucket key d) ∈ d.fiu.buckets := mem_of_tget_ne (List.ne_nil_of_mem hslot)
  exact List.mem_flatMap.2 ⟨_, List.mem_filter.2 ⟨hbucket, hdue⟩, List.mem_map.2 ⟨_, List.mem_filter.2 ⟨hslot, hstale⟩, rfl⟩⟩

section scrub

variable {s : State}

theorem ownerScrub_answers (hready : s.ready) (hon : rdb Reg.FIU_CTRL_SCRUB_EN s.dev = true) (htime : tempoNow s.dev % 1000 = 0)
    (hparts : servedParts s.dev ≠ []) (dead : List Nat) : Answers (.ownerScrub dead) s fun d =>
      d.fiu.scrub = (s.dev.fiu.scrub + rd Reg.FIU_CTRL_SCRUB_RATE s.dev) % scrubTotal s.dev ∧
      ∀ key slot, tget [] (getBucket key s.dev) slot = [] ∨ (key, slot) ∈ scrubGone dead s.dev → tget [] (getBucket key d) slot = [] := by
  have hruns := ownerScrub_runsTo hready hon htime hparts dead
  have hmoved := (indexMoved_clearEntries (scrubGone dead s.dev.quiet) s.dev.quiet).rest
  have hclears (key slot : Nat) := clearEntries_clears (k := key) (i := slot) (scrubGone dead s.dev.quiet) s.dev.quiet
  generalize clearEntries _ _ = e at hruns hmoved hclears
  refine hruns.answers ?_ fun d hd => ⟨?_, fun key slot h => ?_⟩
  · rw [hmoved]
    exact hready.2
  · rw [hd.fiu, hmoved]
    rfl
  · rw [getBucket_of_buckets (d := e) (by rw [hd.fiu])]
    exact hclears key slot h

theorem ownerScrub_answers_cleared (hready : s.ready) (hon : rdb Reg.FIU_CTRL_SCRUB_EN s.dev = true) (htime : tempoNow s.dev % 1000 = 0)
    (dead : List Nat) {key slot : Nat} (hpart : key / 2 ^ 22 ∈ servedParts s.dev)
    (hrate : scrubTotal s.dev ≤ rd Reg.FIU_CTRL_SCRUB_RATE s.dev) (hvalid : entryValid (tget [] (getBucket key s.dev) slot) = true)
    (hlocal : gidLocal (entryGid (tget [] (getBucket key s.dev) slot)) s.dev = true)
    (hdead : (getGte (entryGid (tget [] (getBucket key s.dev) slot)) s.dev).refcnt = 0) :
    Answers (.ownerScrub dead) s fun d => tget [] (getBucket key d) slot = [] := by
  have hstale : scrubStale dead (tget [] (getBucket key s.dev) slot) s.dev = true := by simp [scrubStale, hvalid, hlocal, hdead]
  exact answers_imp (ownerScrub_answers hready hon htime (List.ne_nil_of_mem hpart) dead) fun d h =>
    h.2 key slot (.inr (mem_scrubGone (scrubDue_of_total_le hpart hrate) hstale))

end scrub

/-! ### A record while a peer acknowledges and none waits to be applied (R221) -/

/-- Only the reserve's mark, the pauses that follow it, and what says so to the hosts differ (R193). -/
structure PausedFrom (d e : Dev) : Prop where
  rest : e = { d with regs := e.regs, out := e.out, front := e.front, stg.tight := e.stg.tight }
  rd : ∀ f : Field, f.off < (Reg.ETH_LINK_PAUSED 0).off → Machine.rd f e = Machine.rd f d

theorem PausedFrom.refl (d : Dev) : PausedFrom d d := ⟨rfl, fun _ _ => rfl⟩

theorem PausedFrom.trans {a b c : Dev} (h : PausedFrom a b) (g : PausedFrom b c) : PausedFrom a c :=
  ⟨by rw [g.rest, h.rest], fun f hf => (g.rd f hf).trans (h.rd f hf)⟩

theorem pausedFrom_send (o : Out) (d : Dev) : PausedFrom d (send o d) := ⟨rfl, fun _ _ => rfl⟩

theorem pausedFrom_setPause (p cause mask : Nat) (d : Dev) : PausedFrom d (setPause p cause mask d) := by
  have hwritten (v : Nat) : PausedFrom d
      (wr (Reg.ETH_LINK_PAUSED p) v (modPort p (fun x => { x with pauses := tset 0 x.pauses cause mask }) d)) :=
    ⟨rfl, fun f hf => rd_wr_off (by simp only [Reg.ETH_LINK_PAUSED] at hf ⊢; omega) _ _⟩
  unfold setPause
  dsimp only
  split <;> split
  · exact hwritten _
  · exact (hwritten _).trans (pausedFrom_send ..)
  · exact (hwritten _).trans (pausedFrom_send ..)
  · exact ((hwritten _).trans (pausedFrom_send ..)).trans (pausedFrom_send ..)

theorem pausedFrom_showTight (d : Dev) : PausedFrom d (showTight d) := by
  have hall (t : Bool) (mask : Nat) : PausedFrom d (pauseAll 1 mask { d with stg.tight := t }) :=
    .trans (b := { d with stg.tight := t }) ⟨rfl, fun _ _ => rfl⟩
      (forEach_invariant (P := PausedFrom _) (fun p e he => he.trans (pausedFrom_setPause p 1 mask e)) _ (.refl _))
  unfold showTight
  dsimp only
  split <;> (split; exacts [.refl d, hall _ _])

/-- The record that a transaction builds (Table 6.11). -/
def newRecord (nsid : Nat) (body : JBody) (d : Dev) : JRecord :=
  { tsn := d.stg.tsnNext, tempo := tempoNow d, nsid := nsid, head := ownHead d, body := body }

theorem alone_of_aloneFor {d : Dev} (h : ∀ p, aloneFor p d = false) : alone d = false := by
  have himp : alone d = true → aloneFor 0 d = true := by
    simp only [alone, aloneFor, Bool.or_eq_true, Bool.and_eq_true]
    tauto
  rw [h 0] at himp
  exact Bool.eq_false_iff.2 fun halone => Bool.false_ne_true (himp halone)

theorem recordAlone_false {d : Dev} (h : ∀ p, aloneFor p d = false) (r : JRecord) : recordAlone r d = false := by
  unfold recordAlone
  split
  · exact h _
  · exact alone_of_aloneFor h

theorem applyOwn_waiting {d : Dev} (h : ∀ r ∈ d.stg.journal, r.tsn = d.md.tsnOwn + 1 → r.committed = false) (n : Nat) :
    applyOwn n d = d := by
  cases n with
  | zero => rfl
  | succ n =>
    rw [applyOwn]
    split
    next r hfind =>
      have hwaits : r.committed = false := h r (List.mem_of_find?_eq_some hfind) (by simpa using List.find?_some hfind)
      rw [hwaits]
      rfl
    · rfl

/-- Nothing commits: what the peer has not acknowledged stays, and no record applies. -/
theorem commitReady_quiet {d : Dev} (h : journalQuiet d) : commitReady d = showTight d := by
  obtain ⟨hpeer, hwaits⟩ := h
  have hmap : d.stg.journal.map (fun r => { r with committed := r.committed || recordAlone r d }) = d.stg.journal := by
    refine (List.map_congr_left fun r _ => ?_).trans (List.map_id _)
    rw [recordAlone_false hpeer, Bool.or_false]
    rfl
  unfold commitReady
  simp only [hmap]
  exact congrArg showTight (applyOwn_waiting (d := d) hwaits _)

/-- The device with a record that waits for the peer. -/
def withRecord (nsid : Nat) (body : JBody) (d : Dev) : Dev :=
  { d with stg.journal := d.stg.journal ++ [newRecord nsid body d], stg.tsnNext := d.stg.tsnNext + 1 }

theorem postRecord_quiet {d : Dev} (h : journalQuiet d) (nsid : Nat) (body : JBody) :
    postRecord nsid body d = showTight (send (.mirrorRecord d.stg.tsnNext) (withRecord nsid body d)) := by
  obtain ⟨hpeer, hwaits⟩ := h
  refine commitReady_quiet (d := send (.mirrorRecord d.stg.tsnNext) (withRecord nsid body d)) ⟨hpeer, fun r hr htsn => ?_⟩
  rcases List.mem_append.1 hr with hold | hnew
  · exact hwaits r hold htsn
  · rw [List.mem_singleton.1 hnew]
    rfl

/-- What a record built leaves: the journal has it, and of the rest only the pauses move. -/
theorem pausedFrom_postRecord {d : Dev} (h : journalQuiet d) (nsid : Nat) (body : JBody) :
    PausedFrom (withRecord nsid body d) (postRecord nsid body d) := by
  rw [postRecord_quiet h]
  exact (pausedFrom_send ..).trans (pausedFrom_showTight _)

/-! ### The pin drop (R250) -/

theorem pinDrop_runsTo {s : State} (hready : s.ready) {g : Nat} {r : Retiring} (hfind : s.dev.fiu.retiring.find? (·.gid == g) = some r)
    (hmine : r.mine = true ∨ gidDev g = ownDev s.dev) (hown : r.own = []) (hpeer : r.peer = []) (hbuilt : pinBuilt g s.dev = false) :
    RunsTo (.pinDrop g) s (postRecord 0 (.pinDrop [g]) s.dev.quiet) := by
  have hbuilt' : pinBuilt g s.dev.quiet = false := hbuilt
  have hmine' : (r.mine || s.dev.quiet.cas.castled || gidDev g == ownDev s.dev.quiet) = true := by
    rcases hmine with h | h
    · rw [h, Bool.true_or, Bool.true_or]
    · rw [show (gidDev g == ownDev s.dev.quiet) = true from beq_iff_eq.2 h, Bool.or_true]
  exact runsTo_of_live (execPinDrop g s) rfl rfl hready (by simp only [quiet_fiu, hfind, hown, hpeer, hbuilt', hmine']; simp)

theorem pinDrop_answers {s : State} (hready : s.ready) {g : Nat} {r : Retiring} (hfind : s.dev.fiu.retiring.find? (·.gid == g) = some r)
    (hmine : r.mine = true ∨ gidDev g = ownDev s.dev) (hown : r.own = []) (hpeer : r.peer = []) (hbuilt : pinBuilt g s.dev = false)
    (hquiet : journalQuiet s.dev) : Answers (.pinDrop g) s fun d => d.stg.journal = s.dev.stg.journal ++
      [{ tsn := s.dev.stg.tsnNext, tempo := tempoNow s.dev, nsid := 0, head := ownHead s.dev, body := .pinDrop [g] }] := by
  have hpost := (pausedFrom_postRecord (d := s.dev.quiet) hquiet 0 (.pinDrop [g])).rest
  refine (pinDrop_runsTo hready hfind hmine hown hpeer hbuilt).answers ?_ fun d hd => ?_
  · rw [hpost]
    exact hready.2
  · rw [hd.stg, hpost]
    rfl

/-! ### The audit's comparison (R252, R253) -/

/-- The GIDs that a pass compares, with the count expected and the count found at the cut. -/
def auditJobs (a : Audit) (others : List (Nat × Nat)) (d : Dev) : List (Nat × Nat × Nat) :=
  (((d.md.gtes.filter fun g => gidDev g.1 == ownDev d).map (·.1) ++ a.counts.map (·.1) ++ a.delta.map (·.1) ++
    others.map (·.1)).eraseDups.filter fun g => gidDev g == ownDev d).map fun g =>
      (g, tget 0 a.counts g + ((others.filter (·.1 == g)).map (·.2)).sum + b2n (a.indexed.contains g), refAtCut a g d)

/-- The pass is over, and its doubts are settled. -/
def auditClosed (a : Audit) (d : Dev) : Dev :=
  { d with fiu.audit := none, fiu.doubt := d.fiu.doubt.filter fun g => !a.doubts.contains g }

/-- Each GID is compared in turn. -/
def auditEach (doubts doubtful : List Nat) (jobs : List (Nat × Nat × Nat)) (d : Dev) : Dev :=
  jobs.foldl (fun d j => auditOne j.1 j.2.1 j.2.2 (doubts.contains j.1 || doubtful.contains j.1) d) d

/-- One more pass is counted (modulo 2^16, Table 7.10). -/
def countPass (d : Dev) : Dev := wr Reg.FIU_AUD_PASSES (rd Reg.FIU_AUD_PASSES d + 1) d

theorem auditCompare_made {a : Audit} {d : Dev} (haudit : d.fiu.audit = some a) (hmade : a.made = true) (others : List (Nat × Nat))
    (doubtful : List Nat) :
    auditCompare others doubtful d = countPass (auditEach a.doubts doubtful (auditJobs a others d) (auditClosed a d)) := by
  simp only [auditCompare, haudit, hmade]
  rfl

theorem refAuditCompare_runsTo {s : State} (hready : s.ready) {a : Audit} (haudit : s.dev.fiu.audit = some a) (hmade : a.made = true)
    (others : List (Nat × Nat)) (doubtful : List Nat) : RunsTo (.refAuditCompare others doubtful) s
      (countPass (auditEach a.doubts doubtful (auditJobs a others s.dev) (auditClosed a s.dev.quiet))) :=
  runsTo_of_live (execRefAuditCompare others doubtful s) rfl rfl hready
    (auditCompare_made (d := s.dev.quiet) haudit hmade others doubtful)

/-- A pass that is compared is over, whatever its comparisons set off. -/
theorem auditState_auditEach (a : Audit) (doubtful : List Nat) (jobs : List (Nat × Nat × Nat)) (d : Dev) :
    auditState (auditEach a.doubts doubtful jobs (auditClosed a d)) = (true, rd Reg.FIU_AUD_PASSES d) := by
  rw [auditEach, auditState_foldl _ _ _ fun e j => auditState_auditOne ..]
  rfl

theorem auditState_countPass (d : Dev) : auditState (countPass d) = ((auditState d).1, ((auditState d).2 + 1) % 65536) := by
  have hwidth : 2 ^ Reg.FIU_AUD_PASSES.width = 65536 := by decide
  rw [auditState, countPass, rd_wr_same (by decide), hwidth, wr_fiu, auditState]

theorem audit_of_auditState {d : Dev} {n : Nat} (h : auditState d = (true, n)) : d.fiu.audit = none ∧ rd Reg.FIU_AUD_PASSES d = n := by
  obtain ⟨hnone, hcount⟩ := Prod.mk.inj h
  exact ⟨Option.isNone_iff_eq_none.1 hnone, hcount⟩

theorem refAuditCompare_answers {s : State} (hready : s.ready) {a : Audit} (haudit : s.dev.fiu.audit = some a) (hmade : a.made = true)
    (others : List (Nat × Nat)) (doubtful : List Nat) : Answers (.refAuditCompare others doubtful) s fun d => d.fiu.audit = none ∧
      rd Reg.FIU_AUD_PASSES d = (rd Reg.FIU_AUD_PASSES s.dev + 1) % 65536 := by
  refine ⟨_, refAuditCompare_runsTo hready haudit hmade others doubtful, rfl, audit_of_auditState ?_⟩
  rw [auditState_finish, auditState_countPass, auditState_auditEach]
  rfl

theorem countLost_stg (d : Dev) : (countLost d).stg = d.stg := by simp [countLost, setb_eq, bump_eq]

theorem holdRecord_stg (r : ScoreRecord) (d : Dev) : (holdRecord r d).stg = d.stg := by
  have hput (q : List ScoreRecord) (e : Dev) : (wr Reg.SCR_STATUS_HOLD q.length { e with scr.holdq := q }).stg = e.stg := by
    rw [wr_stg]
  dsimp only [holdRecord]
  split
  · exact hput _ d
  · split
    · exact countLost_stg d
    · split
      · exact (hput _ _).trans (countLost_stg d)
      · exact countLost_stg d

theorem writeRecord_stg (r : ScoreRecord) (d : Dev) : (writeRecord r d).stg = d.stg := by
  dsimp only [writeRecord]
  simp [apply_ite Dev.stg, setb_eq, bump_eq]

theorem notice_stg (code unit data0 data1 : Nat) (d : Dev) : (notice code unit data0 data1 d).stg = d.stg := by
  dsimp only [notice, recordEvent]
  simp [apply_ite Dev.stg, holdRecord_stg, writeRecord_stg, bump_eq]

/-- The only GID of the pass, with more references than are counted. -/
theorem auditJobs_single {a : Audit} {g n : Nat} {e : Gte} {d : Dev} (hcounts : a.counts = [(g, n)]) (hdelta : a.delta = [])
    (hindexed : a.indexed = []) (hgtes : d.md.gtes = [(g, e)]) (hown : gidDev g = ownDev d) : auditJobs a [] d = [(g, n, e.refcnt)] := by
  simp [auditJobs, hcounts, hdelta, hindexed, hgtes, hown, refAtCut, getGte, tget_cons, b2n, List.eraseDups_cons]

theorem auditOne_excess {g expected found : Nat} (h : expected < found) (d : Dev) : auditOne g expected found true d =
    bump Reg.FIU_AUD_DOUBT (notice Ev.AUD_DOUBT 0 g 0 (postRecord 0 (.refFix [(g, (expected : Int) - (found : Int))]) d)) := by
  simp [auditOne, h, h.ne']

theorem refAuditCompare_answers_excess {s : State} (hready : s.ready) {a : Audit} (haudit : s.dev.fiu.audit = some a)
    (hmade : a.made = true) (hquiet : journalQuiet s.dev) {g n : Nat} {e : Gte} (hcounts : a.counts = [(g, n)]) (hdelta : a.delta = [])
    (hindexed : a.indexed = []) (hdoubts : a.doubts = [g]) (hgtes : s.dev.md.gtes = [(g, e)]) (hown : gidDev g = ownDev s.dev)
    (hexcess : n < e.refcnt) (doubtful : List Nat) : Answers (.refAuditCompare [] doubtful) s fun d =>
      (rd Reg.FIU_AUD_DOUBT s.dev < 65535 → rd Reg.FIU_AUD_DOUBT d = rd Reg.FIU_AUD_DOUBT s.dev + 1) ∧
      d.stg.journal.map (·.body) = s.dev.stg.journal.map (·.body) ++ [.refFix [(g, (n : Int) - e.refcnt)]] := by
  have hruns := refAuditCompare_runsTo hready haudit hmade [] doubtful
  have heach : auditEach a.doubts doubtful [(g, n, e.refcnt)] (auditClosed a s.dev.quiet) =
      auditOne g n e.refcnt true (auditClosed a s.dev.quiet) := by simp [auditEach, hdoubts]
  rw [auditJobs_single hcounts hdelta hindexed hgtes hown, heach, auditOne_excess hexcess] at hruns
  obtain ⟨hpost, hrd⟩ := pausedFrom_postRecord (d := auditClosed a s.dev.quiet) hquiet 0 (.refFix [(g, (n : Int) - e.refcnt)])
  generalize postRecord _ _ _ = p at hruns hpost hrd
  refine hruns.answers ?_ fun d hd => ⟨fun hlt => ?_, ?_⟩
  · rw [countPass, wr_todo, bump_todo, notice_todo, hpost]
    exact hready.2
  · have hnoted : rd Reg.FIU_AUD_DOUBT (notice Ev.AUD_DOUBT 0 g 0 p) = rd Reg.FIU_AUD_DOUBT s.dev :=
      (rd_notice (by decide) (by decide) ..).trans (hrd _ (by decide))
    rw [hd.rd (by decide), countPass, rd_wr_apart (by decide) (by decide) (by decide), rd_bump_same (by decide), hnoted]
    rw [hnoted]
    exact Nat.succ_lt_succ hlt
  · rw [hd.stg, countPass, wr_stg, bump_eq, bumpBy_stg, notice_stg, hpost]
    exact List.map_append

/-- Settles O28: each clause is what one command answers. -/
theorem indexEntriesChange : Obligations.IndexEntriesChange := by
  unfold Obligations.IndexEntriesChange
  intro s far hready
  refine ⟨fun j js => ⟨fun hserves hstays => ⟨?_, ?_⟩, ?_⟩, fun r a hr hdesc => ⟨?_, ?_, ?_⟩, ?_, ?_, ?_,
    fun dead hon htime hparts => ⟨?_, ?_⟩, fun a others doubtful haudit hmade hquiet => ⟨?_, ?_⟩⟩
  · exact fun hjobs hempty => fiuInsert_answers hready hjobs hserves hstays hempty far
  · exact fun hjobs hmatches hgid => fiuRemove_answers hready hjobs hserves hstays hmatches hgid far
  · rintro haway hfree hjobs old rfl
    exact fiuRemove_answers_away hready hjobs haway hfree old
  · exact fun hbad hop => fiuInsert_answers_refused hready hr hdesc hbad hop far
  · exact fun hgood hop hserves hstays hempty => fiuInsert_answers_desc hready hr hdesc hgood hop hserves hstays hempty far
  · exact fun hgood hop hserves hstays hfound => fiuRemove_answers_desc hready hr hdesc hgood hop rfl hserves hstays hfound far
  · exact fun p ps hbypass => filterRebuildDone_answers hready hbypass
  · exact fun v hv => fiuOwnApplyWrite_answers hready hv
  · exact fun g r hfind hmine hown hpeer hbuilt hquiet => pinDrop_answers hready hfind hmine hown hpeer hbuilt hquiet
  · exact answers_imp (ownerScrub_answers hready hon htime hparts dead) fun d ⟨hscrub, _⟩ => hscrub
  · exact fun key slot hpart hrate hvalid hlocal hdead =>
      ownerScrub_answers_cleared hready hon htime dead hpart hrate hvalid hlocal hdead
  · exact refAuditCompare_answers hready haudit hmade others doubtful
  · rintro g n e rfl hcounts hdelta hindexed hdoubts hgtes hown hexcess
    exact refAuditCompare_answers_excess hready haudit hmade hquiet hcounts hdelta hindexed hdoubts hgtes hown hexcess doubtful

end Sys2Proof.Proofs

/-!
PROOFS. What the accelerators' jobs share (spec/08_compression_and_digest.md, R255–R265). Two frames meet at a job's end: what runs before
it leaves the reactions owed, the lanes, the rings' bases and the count of jobs; what runs after it leaves memory, the reactions owed, the
streams and the count. So a command that comes to a job's end answers with STATUS and XFLAGS in the descriptor and the job counted.
-/

namespace Sys2Proof.Proofs

open Sys2Proof Sys2Proof.Machine

/-- Both branches agree in a view, so the choice between them does. -/
theorem view_ite {α β : Type} {v : α → β} {p : Prop} {_ : Decidable p} {x y : α} {b : β} (hx : v x = b) (hy : v y = b) :
    v (if p then x else y) = b := by
  split <;> assumption

/-! ### On the way to a job's end: what names the lane's descriptor, and the count of jobs -/

/-- What the end of a job is taken from: the reactions owed, the lanes, the bases of the rings, the jobs counted. -/
def jobHeld (k : Nat) (d : Dev) : List Todo × Tab Accel × (Nat → Nat) × Nat :=
  (d.todo, d.accels, fun r => rd (accBase k r) d, rd (accJobs k) d)

/-- Writing the field leaves the bases of an accelerator's rings and its count of jobs. -/
def sparesRings (k : Nat) (f : Field) : Bool := f.off < (accBase k 0).off && f.fits && f.apart (accJobs k)

theorem accBase_off_le (k r : Nat) : (accBase k 0).off ≤ (accBase k r).off := by
  unfold accBase
  split <;> simp [Reg.CIP_RING_BASE, Reg.CMP_RING_BASE, Reg.ERS_RING_BASE, Reg.DIG_RING_BASE]

theorem accJobs_fits (k : Nat) : (accJobs k).fits := by
  unfold accJobs
  split <;> rfl

/-- The accelerators' registers are those of the blocks from 0x20 on (R615). -/
theorem accJobs_off_ne_of_lt {f : Field} (hoff : f.off < 0x2000000) (k : Nat) : f.off ≠ (accJobs k).off := by
  have hjobs : 0x2000000 ≤ (accJobs k).off := by unfold accJobs; split <;> decide
  omega

theorem sparesRings_of_lt {f : Field} (hfits : f.fits) (hoff : f.off < 0x2000000) (k : Nat) : sparesRings k f := by
  have hbase : 0x2000000 ≤ (accBase k 0).off := by unfold accBase; split <;> decide
  simp [sparesRings, hfits, Field.apart, accJobs_off_ne_of_lt hoff k, hoff.trans_le hbase]

theorem jobHeld_wr {k : Nat} {f : Field} (h : sparesRings k f) (v : Nat) (d : Dev) : jobHeld k (wr f v d) = jobHeld k d := by
  simp only [sparesRings, Bool.and_eq_true, decide_eq_true_eq] at h
  obtain ⟨⟨hoff, hfits⟩, hapart⟩ := h
  have hbase (r : Nat) : rd (accBase k r) (wr f v d) = rd (accBase k r) d :=
    rd_wr_off (by have := accBase_off_le k r; omega) v d
  simp only [jobHeld, wr_todo, wr_accels, hbase, rd_wr_apart hfits (accJobs_fits k) hapart]

theorem jobHeld_of_regs {d e : Dev} (hregs : e.regs = d.regs) (htodo : e.todo = d.todo) (haccels : e.accels = d.accels) (k : Nat) :
    jobHeld k e = jobHeld k d := by
  simp only [jobHeld, rd, hregs, htodo, haccels]

theorem jobHeld_bump {k : Nat} {f : Field} (h : sparesRings k f) (d : Dev) : jobHeld k (bump f d) = jobHeld k d := by
  rw [bump_eq, bumpBy]
  split
  · exact jobHeld_wr h _ d
  · exact jobHeld_wr h _ _

theorem jobHeld_setScr (k : Nat) (d : Dev) (x : Scr) : jobHeld k { d with scr := x } = jobHeld k d := rfl

theorem jobHeld_countLost (k : Nat) (d : Dev) : jobHeld k (countLost d) = jobHeld k d :=
  (jobHeld_wr (sparesRings_of_lt rfl (by decide) k) 1 _).trans
    (jobHeld_bump (sparesRings_of_lt rfl (by decide) k) { d with scr.lost := d.scr.lost + 1 })

theorem jobHeld_holdRecord (k : Nat) (r : ScoreRecord) (d : Dev) : jobHeld k (holdRecord r d) = jobHeld k d := by
  have hput (q : List ScoreRecord) (e : Dev) : jobHeld k (wr Reg.SCR_STATUS_HOLD q.length { e with scr.holdq := q }) = jobHeld k e :=
    jobHeld_wr (sparesRings_of_lt rfl (by decide) k) _ { e with scr.holdq := q }
  unfold holdRecord
  refine view_ite (hput _ d) (view_ite (jobHeld_countLost k d) ?_)
  split
  · exact (hput _ _).trans (jobHeld_countLost k d)
  · exact jobHeld_countLost k d

theorem jobHeld_writeRecord (k : Nat) (r : ScoreRecord) (d : Dev) : jobHeld k (writeRecord r d) = jobHeld k d := by
  have hplaced (x : Scr) (i n : Nat) : jobHeld k (wr Reg.SCR_SEQ_NEXT n (wr Reg.SCR_PTR_VIDX i { d with scr := x })) = jobHeld k d :=
    (jobHeld_wr (sparesRings_of_lt rfl (by decide) k) n _).trans (jobHeld_wr (sparesRings_of_lt rfl (by decide) k) i { d with scr := x })
  unfold writeRecord
  exact view_ite (view_ite ((jobHeld_setScr k _ _).trans (hplaced _ _ _))
    (((jobHeld_wr (sparesRings_of_lt rfl (by decide) k) 1 _).trans
      (jobHeld_bump (sparesRings_of_lt rfl (by decide) k) _)).trans (hplaced _ _ _))) (hplaced _ _ _)

theorem jobHeld_recordEvent (k : Nat) (cls : EvClass) (code unit data0 data1 : Nat) (escalated : Bool) (d : Dev) :
    jobHeld k (recordEvent cls code unit data0 data1 escalated d) = jobHeld k d := by
  unfold recordEvent
  exact view_ite (jobHeld_setScr k d _)
    (view_ite ((jobHeld_holdRecord k _ _).trans (jobHeld_setScr k d _)) ((jobHeld_writeRecord k _ _).trans (jobHeld_setScr k d _)))

/-- A Notice is a record and nothing else (R572). -/
theorem jobHeld_notice (k code unit data0 data1 : Nat) (d : Dev) : jobHeld k (notice code unit data0 data1 d) = jobHeld k d :=
  (jobHeld_recordEvent ..).trans (jobHeld_bump (sparesRings_of_lt rfl (by decide) k) d)

theorem jobHeld_storeMem (k a : Nat) (b : Bytes) (d : Dev) : jobHeld k (storeMem a b d) = jobHeld k d := by
  have hwrite (x : Fab) : jobHeld k { memWrite a b d with fab := x } = jobHeld k d :=
    jobHeld_of_regs (memWrite_regs b a d) (memWrite_todo b a d) (memWrite_accels b a d) k
  unfold storeMem injectStore
  dsimp only
  split
  · split
    · exact (jobHeld_wr (sparesRings_of_lt rfl (by decide) k) 0 _).trans (hwrite _)
    · exact hwrite _
  · exact hwrite _

theorem jobHeld_endStream (k j : Nat) (b : Bytes) (d : Dev) : jobHeld k (endStream j b d) = jobHeld k d := by
  unfold endStream
  dsimp only
  split
  · split <;> rfl
  · split <;> rfl
  · rfl

/-! ### Past a job's end: the descriptor as it was written, and the count -/

/-- What a command answers for of a job that has ended: memory, the reactions owed, the open streams, the jobs counted. -/
def jobEnd (k : Nat) (d : Dev) : List Host.Cell × List Todo × Tab CmpStream × Nat := (d.mem, d.todo, d.cmpStreams, rd (accJobs k) d)

theorem jobEnd_wr {k : Nat} {f : Field} (h : f.off ≠ (accJobs k).off) (v : Nat) (d : Dev) : jobEnd k (wr f v d) = jobEnd k d := by
  simp only [jobEnd, wr_mem, wr_todo, wr_cmpStreams, rd_wr_off h.symm]

theorem jobEnd_setBit {k : Nat} {f : Field} (h : f.off ≠ (accJobs k).off) (n : Nat) (d : Dev) : jobEnd k (setBit f n d) = jobEnd k d := by
  unfold setBit
  split
  · rfl
  · exact jobEnd_wr h _ d

theorem accBusy_off_ne (k : Nat) : (accBusy k).off ≠ (accJobs k).off := by
  unfold accBusy accJobs
  split <;> decide

theorem accCons_off_ne (k r : Nat) : (accCons k r).off ≠ (accJobs k).off := by
  unfold accCons accJobs
  split <;> simp only [Reg.CIP_RPTR_CONS, Reg.CMP_RPTR_CONS, Reg.ERS_RPTR_CONS, Reg.DIG_RPTR_CONS, Reg.CIP_CNT_JOBS, Reg.CMP_CNT_JOBS,
    Reg.ERS_CNT_JOBS, Reg.DIG_CNT_JOBS] <;> omega

theorem cipherRegs_off_ne (k : Nat) : Reg.CIP_SEAL_MAP.off ≠ (accJobs k).off ∧ Reg.CIP_PREEMPT_HELD.off ≠ (accJobs k).off := by
  unfold accJobs
  split <;> decide

theorem jobEnd_modAccel (k j : Nat) (f : Accel → Accel) (d : Dev) : jobEnd k (modAccel j f d) = jobEnd k d := rfl
theorem jobEnd_modLane (k j n : Nat) (f : Lane → Lane) (d : Dev) : jobEnd k (modLane j n f d) = jobEnd k d := rfl

theorem jobEnd_showBusy (k : Nat) (d : Dev) : jobEnd k (showBusy k d) = jobEnd k d := jobEnd_wr (accBusy_off_ne k) _ d

theorem jobEnd_takeSeal (k base len lane : Nat) (d : Dev) : jobEnd k (takeSeal base len lane d).2 = jobEnd k d := by
  unfold takeSeal
  split
  · rfl
  · exact jobEnd_wr (cipherRegs_off_ne k).1 _ _

theorem jobEnd_sealFor (k n r i : Nat) (d : Dev) : jobEnd k (sealFor k n r i d) = jobEnd k d := by
  unfold sealFor
  exact view_ite ((jobEnd_modLane ..).trans (jobEnd_takeSeal ..)) rfl

theorem jobEnd_takeJob (k n : Nat) (d : Dev) : jobEnd k (takeJob k n d) = jobEnd k d := by
  unfold takeJob
  split
  · rfl
  · split
    · rfl
    · split
      · refine (jobEnd_showBusy ..).trans ((jobEnd_modLane ..).trans ?_)
        split
        · exact jobEnd_wr (cipherRegs_off_ne k).2 _ _
        · rfl
      · split
        · rfl
        · exact (jobEnd_showBusy ..).trans (jobEnd_sealFor ..)

theorem jobEnd_advanceCons (k r n : Nat) (d : Dev) : jobEnd k (advanceCons k r n d) = jobEnd k d := by
  induction n generalizing d with
  | zero => rfl
  | succ n ih =>
    rw [advanceCons]
    exact view_ite rfl ((ih _).trans (jobEnd_wr (accCons_off_ne k r) _ d))

theorem jobEnd_ringDone (k unit mask : Nat) (d : Dev) : jobEnd k (ringDone unit mask d) = jobEnd k d := by
  refine List.foldlRecOn _ _ (motive := fun e => jobEnd k e = jobEnd k d) rfl fun e he c hc => ?_
  have hlow : (Reg.GLB_RDONE_UNIT c).off < 0x2000000 := by
    have := List.mem_range.1 hc
    simp only [Reg.GLB_RDONE_UNIT]
    omega
  exact view_ite ((jobEnd_setBit (accJobs_off_ne_of_lt hlow k) ..).trans he) he

/-- A descriptor's last two stores: what follows STATUS, then STATUS (R256, R286). -/
def writeEnd (k a status xflags : Nat) (rest : Bytes) (d : Dev) : Dev :=
  storeNat (a + accStatus k) 1 status (storeMem (a + accStatus k + 1) (BitVec.ofNat 8 xflags :: rest) d)

theorem jobEnd_finishDesc (k r idx status xflags : Nat) (rest : Bytes) (d : Dev) :
    jobEnd k (finishDesc k r idx status xflags rest d) =
      jobEnd k (bump (accJobs k) (writeEnd k (descAddr k r idx d) status xflags rest d)) := by
  unfold finishDesc
  exact view_ite ((jobEnd_ringDone ..).trans (jobEnd_advanceCons ..)) (jobEnd_advanceCons ..)

theorem jobEnd_endJob {k n r i : Nat} {d : Dev} (hjob : (getLane k n d).job = some (r, i)) (status xflags : Nat) (rest : Bytes) :
    jobEnd k (endJob k n status xflags rest d) =
      jobEnd k (bump (accJobs k) (writeEnd k (descAddr k r i d) status xflags rest d)) := by
  simp only [endJob, hjob]
  exact (view_ite ((jobEnd_takeJob ..).trans (jobEnd_showBusy ..)) (jobEnd_showBusy ..)).trans (jobEnd_finishDesc ..)

/-! ### Reading memory after a store -/

/-- A part of a range lies apart from what the range does. -/
theorem rangesApart_of_le {a n m b l : Nat} (h : rangesApart a n b l) (hle : m ≤ n) : rangesApart a m b l := by omega

theorem memRead_quiet (d : Dev) (a n : Nat) : memRead d.quiet a n = memRead d a n := rfl

theorem memRead_of_mem {d e : Dev} (h : e.mem = d.mem) (a n : Nat) : memRead e a n = memRead d a n := by
  simp only [memRead, memByte_of_mem h]

theorem memRead_congr {d e : Dev} {a n : Nat} (h : ∀ x, a ≤ x → x < a + n → memByte e x = memByte d x) :
    memRead e a n = memRead d a n :=
  List.map_congr_left fun i hi => h (a + i) (by omega) (by have := List.mem_range.1 hi; omega)

theorem memRead_storeMem (a : Nat) (b : Bytes) (d : Dev) : memRead (storeMem a b d) a b.length = b :=
  (memRead_of_mem (storeMem_mem ..) ..).trans (memRead_memWrite ..)

theorem memRead_storeMem_apart {a n c : Nat} {b : Bytes} (h : rangesApart a n c b.length) (d : Dev) :
    memRead (storeMem c b d) a n = memRead d a n :=
  memRead_congr fun x hlo hhi => memByte_storeMem_out (by omega) d

theorem bump_mem (f : Field) (d : Dev) : (bump f d).mem = d.mem := bumpBy_mem f 1 d
theorem bump_cmpStreams (f : Field) (d : Dev) : (bump f d).cmpStreams = d.cmpStreams := bumpBy_cmpStreams f 1 d
theorem storeMem_seals (a : Nat) (b : Bytes) (d : Dev) : (storeMem a b d).seals = d.seals := by rw [storeMem_rest]
theorem storeMem_cmpStreams (a : Nat) (b : Bytes) (d : Dev) : (storeMem a b d).cmpStreams = d.cmpStreams := by rw [storeMem_rest]

/-! ### A lane's transfers while no range is sealed (R298) -/

/-- No seal is in use. -/
abbrev Unsealed (d : Dev) : Prop := ∀ k, (tget {} d.seals k).used = false

theorem inSeal_of_unsealed {d : Dev} (h : Unsealed d) (a n : Nat) : inSeal a n d = none := by
  simp [inSeal, h]

theorem laneWrite_of_unsealed {d : Dev} (h : Unsealed d) (k a : Nat) (b : Bytes) : laneWrite k a b d = storeMem a b d := by
  simp [laneWrite, inSeal_of_unsealed h]

theorem laneRead_of_unsealed {d : Dev} (h : Unsealed d) (hflips : d.fab.flips = []) (k a n : Nat) :
    laneRead k a n d = (memRead d a n, rangePoisoned a n d, d) := by
  simp [laneRead, inSeal_of_unsealed h, eccRange, hflips, forEach]

theorem Unsealed.storeMem {d : Dev} (h : Unsealed d) (a : Nat) (b : Bytes) : Unsealed (storeMem a b d) := by
  rw [Unsealed, storeMem_seals]
  exact h

theorem jobHeld_zeroise {d : Dev} (h : Unsealed d) (k j a n : Nat) : jobHeld k (zeroise j a n d) = jobHeld k d := by
  rw [zeroise, laneWrite_of_unsealed h, jobHeld_storeMem]

/-- A part of a range without poison has none. -/
theorem rangePoisoned_of_le {a m n : Nat} {d : Dev} (h : rangePoisoned a n d = false) (hle : m ≤ n) : rangePoisoned a m d = false := by
  simp only [rangePoisoned, List.any_eq_false, Bool.and_eq_true, not_and] at h ⊢
  refine fun p hp hin => h p hp ?_
  simp only [inWords, Bool.and_eq_true, bne_iff_ne, decide_eq_true_eq] at hin ⊢
  obtain ⟨⟨hne, hlo⟩, hhi⟩ := hin
  have : (a + m - 1) / 8 ≤ (a + n - 1) / 8 := Nat.div_le_div_right (by omega)
  omega

theorem memRead_take (d : Dev) (a n m : Nat) : (memRead d a n).take m = memRead d a (min n m) := by
  simp [memRead, ← List.map_take, List.take_range, Nat.min_comm n m]

theorem memRead_length (d : Dev) (a n : Nat) : (memRead d a n).length = n := by simp [memRead]

theorem rangePoisoned_of_unpoisoned {d : Dev} (h : d.fab.poison = []) (a n : Nat) : rangePoisoned a n d = false := by
  simp [rangePoisoned, h]

/-- Fragments without errors and poison are read whole, one after the other, up to the length asked for. -/
theorem readFrags_clean {d : Dev} (h : Unsealed d) (hflips : d.fab.flips = []) (k : Nat) {fs : List (Nat × Nat)}
    (hclean : ∀ f ∈ fs, rangePoisoned f.1 f.2 d = false) (n : Nat) :
    readFrags k fs n d = ((fs.flatMap fun f => memRead d f.1 f.2).take n, false, d) := by
  induction fs generalizing n with
  | nil => simp [readFrags]
  | cons f fs ih =>
    obtain ⟨a, l⟩ := f
    have hhead := rangePoisoned_of_le (hclean (a, l) List.mem_cons_self) (Nat.min_le_left l n)
    have htail := ih (fun f hf => hclean f (List.mem_cons_of_mem _ hf)) (n - min l n)
    by_cases hn : n = 0
    · simp [readFrags, hn]
    · have hleft : n - min l n = n - l := by omega
      rw [hleft] at htail
      simp [readFrags, hn, laneRead_of_unsealed h hflips, hhead, hleft, htail, List.take_append, memRead_length, memRead_take]

theorem jobBytes_length {sgl : Bool} {addr len : Nat} {d : Dev} (h : jobClean sgl addr len d) : (jobBytes sgl addr len d).length = len := by
  obtain ⟨-, htotal, -⟩ := h
  rw [fragTotal] at htotal
  simp [jobBytes, memRead_length, List.length_flatMap, htotal]

/-! ### The lane that holds a job -/

theorem job_of_holds {k n r i : Nat} {d : Dev} (h : laneHolds k n r i d) : (getLane k n d).job = some (r, i) := by
  obtain ⟨-, -, hjob, -⟩ := h
  exact hjob

theorem withJob_of_holds {k n r i : Nat} {d : Dev} (h : laneHolds k n r i d) (f : Nat → Nat → Bytes → Dev → Dev) :
    withJob k n f d = f r i (descBytes k r i d) d := by
  obtain ⟨hruns, hawake, hjob, -⟩ := h
  have htake : takeJob k n d = d := by simp [takeJob, hjob]
  simp [withJob, hruns, hawake, htake, hjob]

theorem takeLaneInj_of_holds {k n r i : Nat} {d : Dev} (h : laneHolds k n r i d) (m : Nat) : takeLaneInj k m d = (false, d) := by
  obtain ⟨-, -, -, harm⟩ := h
  simp [takeLaneInj, harm]

theorem descBytes_quiet (k r i : Nat) (d : Dev) : descBytes k r i d.quiet = descBytes k r i d := rfl

/-! ### A job's end, read against the state its command found -/

theorem jobHeld_eq_iff {k : Nat} {d e : Dev} : jobHeld k e = jobHeld k d ↔
    e.todo = d.todo ∧ e.accels = d.accels ∧ (∀ r, rd (accBase k r) e = rd (accBase k r) d) ∧
      rd (accJobs k) e = rd (accJobs k) d := by
  simp [jobHeld, funext_iff]

theorem jobHeld_writeEnd (k a status xflags : Nat) (rest : Bytes) (d : Dev) : jobHeld k (writeEnd k a status xflags rest d) = jobHeld k d :=
  (jobHeld_storeMem ..).trans (jobHeld_storeMem ..)

theorem writeEnd_cmpStreams (k a status xflags : Nat) (rest : Bytes) (d : Dev) :
    (writeEnd k a status xflags rest d).cmpStreams = d.cmpStreams :=
  (storeMem_cmpStreams ..).trans (storeMem_cmpStreams ..)

theorem memByte_writeEnd_status (k a status xflags : Nat) (rest : Bytes) (d : Dev) :
    memByte (writeEnd k a status xflags rest d) (a + accStatus k) = BitVec.ofNat 8 status :=
  memByte_storeMem_head ..

theorem memByte_writeEnd_xflags (k a status xflags : Nat) (rest : Bytes) (d : Dev) :
    memByte (writeEnd k a status xflags rest d) (a + accStatus k + 1) = BitVec.ofNat 8 xflags :=
  (memByte_storeNat_out (.inr le_rfl) ..).trans (memByte_storeMem_head ..)

theorem counts_fill (k inB outB last : Nat) : accStatus k + 2 + (counts inB outB last).length = accSize k := by
  have hlen : (counts inB outB last).length = 14 := by simp [counts]
  unfold accStatus accSize
  split <;> omega

/-- What ends a descriptor stays within it. -/
theorem memRead_writeEnd {k a b n : Nat} (h : rangesApart b n a (accSize k)) (status xflags inB outB last : Nat) (d : Dev) :
    memRead (writeEnd k a status xflags (counts inB outB last) d) b n = memRead d b n := by
  have hfill := counts_fill k inB outB last
  have hone : (leBytes 1 status).length = 1 := Laws.leBytes_length ..
  exact (memRead_storeMem_apart (by omega) _).trans (memRead_storeMem_apart (by simp only [List.length_cons]; omega) _)

/-- A lane's job of ring `r` has ended as its command did: against the state `d` that the command found and the state `e` in which the
job met its end. -/
structure EndedJob (k r i status xflags : Nat) (d e g : Dev) : Prop where
  ended : JobEnded k r i status xflags d g
  streams : g.cmpStreams = e.cmpStreams
  read : ∀ b n, rangesApart b n (descAddr k r i d) (accSize k) → memRead g b n = memRead e b n

/-- The last stores, the count, and nothing after them that a job's end is read from. -/
theorem endedJob_of_written {k r i status xflags inB outB last : Nat} {d e g : Dev} (hheld : jobHeld k e = jobHeld k d)
    (hend : jobEnd k g = jobEnd k (bump (accJobs k) (writeEnd k (descAddr k r i d) status xflags (counts inB outB last) e)))
    (hstatus : status < 256) (hxflags : xflags < 256) : EndedJob k r i status xflags d e g := by
  obtain ⟨-, -, -, hjobs⟩ := jobHeld_eq_iff.1 ((jobHeld_writeEnd k (descAddr k r i d) status xflags (counts inB outB last) e).trans hheld)
  simp only [jobEnd, Prod.mk.injEq, bump_mem, bump_cmpStreams] at hend
  obtain ⟨hmem, -, hstreams, hcount⟩ := hend
  refine ⟨⟨?_, ?_, fun hlt => ?_⟩, ?_, fun b m h => ?_⟩
  · rw [memByte_of_mem hmem, memByte_writeEnd_status, BitVec.toNat_ofNat, Nat.mod_eq_of_lt hstatus]
  · rw [memByte_of_mem hmem, memByte_writeEnd_xflags, BitVec.toNat_ofNat, Nat.mod_eq_of_lt hxflags]
  · rw [hcount, rd_bump_same (accJobs_fits k) (by rw [hjobs]; exact hlt), hjobs]
  · rw [hstreams, writeEnd_cmpStreams]
  · rw [memRead_of_mem hmem, memRead_writeEnd h]

theorem accJobs_not_ambient (k : Nat) : (accJobs k).off ∉ ambientRegs := by
  unfold accJobs
  split <;> decide

theorem jobEnd_of_ended {d e : Dev} (h : EndedFrom d e) (k : Nat) : jobEnd k e = jobEnd k d := by
  simp only [jobEnd, h.mem, h.todo, h.cmpStreams, h.rd (accJobs_not_ambient k)]

/-- A lane's job ends in the state `e`, which becomes `g`. -/
def EndsIn (k n status xflags : Nat) (e g : Dev) : Prop := ∃ inB outB last, g = endJob k n status xflags (counts inB outB last) e

/-- A command that comes to a job's end answers with the job ended. -/
theorem answers_endJob {c : Instr} {s : State} {f : Dev → Dev} {k n r i status xflags : Nat} {e : Dev} {P : Dev → Prop}
    (hx : exec c s = runLive f s) (hready : s.ready) (hjob : (getLane k n s.dev).job = some (r, i))
    (heffect : EndsIn k n status xflags e (f s.dev.quiet)) (hheld : jobHeld k e = jobHeld k s.dev.quiet)
    (hstatus : status < 256) (hxflags : xflags < 256) (hp : ∀ g, EndedJob k r i status xflags s.dev e g → P g) : Answers c s P := by
  obtain ⟨hlive, htodo⟩ := hready
  obtain ⟨inB, outB, last, heffect⟩ := heffect
  have hend : jobEnd k (f s.dev.quiet) =
      jobEnd k (bump (accJobs k) (writeEnd k (descAddr k r i s.dev) status xflags (counts inB outB last) e)) := by
    obtain ⟨-, haccels, hbase, -⟩ := jobHeld_eq_iff.1 hheld
    have hjob' : (getLane k n e).job = some (r, i) := by rw [getLane, getAccel, haccels]; exact hjob
    have haddr : descAddr k r i e = descAddr k r i s.dev := by rw [descAddr, hbase, quiet_rd, descAddr]
    rw [heffect, jobEnd_endJob hjob', haddr]
  have howed : (f s.dev.quiet).todo = [] := by
    obtain ⟨hwritten, -⟩ := jobHeld_eq_iff.1
      ((jobHeld_writeEnd k (descAddr k r i s.dev) status xflags (counts inB outB last) e).trans hheld)
    simp only [jobEnd, Prod.mk.injEq, bump_todo] at hend
    obtain ⟨-, hkept, -⟩ := hend
    exact hkept.trans (hwritten.trans htodo)
  exact answers_live hx hlive howed fun g hg =>
    hp g (endedJob_of_written (d := s.dev) hheld ((jobEnd_of_ended hg k).trans hend) hstatus hxflags)

/-- A live device answers its commands, whatever is asked of the state after. -/
theorem answers_of_imp {c : Instr} {s : State} {f : Dev → Dev} {p : Prop} {P : Dev → Prop} (hx : exec c s = runLive f s)
    (hready : s.ready) (h : p → Answers c s P) : Answers c s fun d => p → P d := by
  by_cases hp : p
  · exact answers_imp (h hp) fun _ hP _ => hP
  · exact ⟨_, hx.trans (runLive_eq f s hready.1), rfl, fun hp' => absurd hp' hp⟩

end Sys2Proof.Proofs

/-!
PROOFS. O29: compression jobs. What a clean job comes to, by its kind; then the commands, and those that split a job or arm a lane.
-/

namespace Sys2Proof.Proofs

open Sys2Proof Sys2Proof.Machine

/-! ### A compression job comes to its end (R263–R273) -/

/-- A lane holds a compression descriptor of a kind that stands the checks of R263, no range is sealed, its input and, for CONTINUE, its
context are clean, a CONTINUE's stream is open, and its output lies apart from its descriptor and its context. -/
structure CleanCompress (kind n r i : Nat) (d : Dev) : Prop where
  holds : laneHolds 4 n r i d
  kind_eq : cmpKind (descBytes 4 r i d) = kind
  unsealed : Unsealed d
  ok : cmpOk (descBytes 4 r i d) d = true
  clean : jobClean (bitOf (fld (descBytes 4 r i d) 2 1) 0) (fld (descBytes 4 r i d) 8 8) (fld (descBytes 4 r i d) 4 4) d
  context : kind = 2 → rangePoisoned (fld (descBytes 4 r i d) 32 8) 196608 d = false
  stream : kind = 2 → (tget {} d.cmpStreams (fld (descBytes 4 r i d) 32 8)).opn = true
  apartDesc : rangesApart (fld (descBytes 4 r i d) 24 8) (fld (descBytes 4 r i d) 16 4) (descAddr 4 r i d) 64
  apartContext : fld (descBytes 4 r i d) 32 8 ≠ 0 →
    rangesApart (fld (descBytes 4 r i d) 24 8) (fld (descBytes 4 r i d) 16 4) (fld (descBytes 4 r i d) 32 8) 196608

/-- The input of a lane's compression job. -/
abbrev cmpInput (r i : Nat) (d : Dev) : Bytes :=
  jobBytes (bitOf (fld (descBytes 4 r i d) 2 1) 0) (fld (descBytes 4 r i d) 8 8) (fld (descBytes 4 r i d) 4 4) d

theorem runCompress_refused {kind n r i : Nat} {d : Dev} (hholds : laneHolds 4 n r i d) (hkind : cmpKind (descBytes 4 r i d) = kind)
    (hbad : cmpOk (descBytes 4 r i d) d = false ∨ kind = 2 ∧ (tget {} d.cmpStreams (fld (descBytes 4 r i d) 32 8)).opn = false)
    (cut self : Bool) : EndsIn 4 n 5 0x80 (endStream 4 (descBytes 4 r i d) d) (runCompress kind n cut self d) := by
  refine ⟨0, 0, 0, ?_⟩
  rw [runCompress, withJob_of_holds hholds, if_neg (not_not_intro hkind), if_pos]
  rcases hbad with hbad | ⟨rfl, hclosed⟩
  · simp [hbad]
  · simp [hclosed]

/-- What runs once the checks are passed and the input is read. -/
theorem runCompress_clean {kind n r i : Nat} {d : Dev} (h : CleanCompress kind n r i d) (cut : Bool) :
    runCompress kind n cut false d =
      if cut then cmpFault n (descBytes 4 r i d) 0x20 d
      else if kind = 3 then decompressJob n (descBytes 4 r i d) (cmpInput r i d) (fld (descBytes 4 r i d) 4 4) d
      else compressJob n kind (descBytes 4 r i d) (cmpInput r i d)
        (if kind = 2 then memRead d (fld (descBytes 4 r i d) 32 8) 196608 else []) (fld (descBytes 4 r i d) 4 4) d := by
  obtain ⟨hflips, htotal, hpoison⟩ := h.clean
  have hread := readFrags_clean h.unsealed hflips 4 hpoison (fld (descBytes 4 r i d) 4 4)
  have hpass : (!cmpOk (descBytes 4 r i d) d ||
      (decide (kind = 2) && !(tget {} d.cmpStreams (fld (descBytes 4 r i d) 32 8)).opn)) = false := by
    by_cases hkind : kind = 2
    · simp [h.ok, h.stream hkind]
    · simp [h.ok, hkind]
  have hcontext : (if kind = 2 then laneRead 4 (fld (descBytes 4 r i d) 32 8) 196608 d else ([], false, d)) =
      (if kind = 2 then memRead d (fld (descBytes 4 r i d) 32 8) 196608 else [], false, d) := by
    by_cases hkind : kind = 2
    · simp only [if_pos hkind, laneRead_of_unsealed h.unsealed hflips, h.context hkind]
    · simp only [if_neg hkind]
  rw [runCompress, withJob_of_holds h.holds, if_neg (not_not_intro h.kind_eq), hpass, if_neg Bool.false_ne_true]
  simp only [takeLaneInj_of_holds h.holds, hread, hcontext, htotal]
  cases cut
  · simp [faultBits, b2n]
  · simp [faultBits, b2n]

theorem CleanCompress.quiet {kind n r i : Nat} {d : Dev} (h : CleanCompress kind n r i d) : CleanCompress kind n r i d.quiet :=
  ⟨h.holds, h.kind_eq, h.unsealed, h.ok, h.clean, h.context, h.stream, h.apartDesc, h.apartContext⟩

theorem cmpInput_quiet (r i : Nat) (d : Dev) : cmpInput r i d.quiet = cmpInput r i d := rfl

theorem jobHeld_abandon_compress {d : Dev} (h : Unsealed d) (b : Bytes) (most : Nat) : jobHeld 4 (abandon 4 b most d).2 = jobHeld 4 d := by
  have hzeroise (o : Nat) (e : Dev) (he : Unsealed e) : jobHeld 4 (endStream 4 b (zeroise 4 (fld b 24 8) o e)) = jobHeld 4 e :=
    (jobHeld_endStream ..).trans (jobHeld_zeroise he ..)
  exact hzeroise _ (drawUpTo (if cmpKind b = 3 then fld b 20 4 else fld b 16 4) (drawUpTo most d).2).2 h

theorem cmpFault_cut (n : Nat) (b : Bytes) (d : Dev) : EndsIn 4 n 5 0x20 (abandon 4 b (fld b 4 4) d).2 (cmpFault n b 0x20 d) :=
  ⟨_, _, _, rfl⟩

/-- The frame of a ONESHOT job. -/
abbrev cmpFrame (b m : Bytes) : Bytes := zstdFrame (fld b 3 1) (bitOf (fld b 2 1) 4) m

theorem compressJob_oneshot_ok {b m : Bytes} {d : Dev} (h : Unsealed d) (hfits : (cmpFrame b m).length ≤ fld b 16 4) (n : Nat)
    (c : Bytes) :
    EndsIn 4 n 1 0 (storeMem (fld b 24 8) (cmpFrame b m) d) (compressJob n 0 b m c (fld b 4 4) d) := by
  refine ⟨m.length, (cmpFrame b m).length, xsum m, ?_⟩
  simp [compressJob, not_lt.2 hfits, laneWrite_of_unsealed h]

theorem compressJob_oneshot_full {b m : Bytes} {d : Dev} (h : Unsealed d) (hfull : fld b 16 4 < (cmpFrame b m).length) (n : Nat)
    (c : Bytes) :
    EndsIn 4 n 4 0 (bump Reg.CMP_CNT_OUT_FULL (storeMem (fld b 24 8) ((cmpFrame b m).take (fld b 16 4)) d))
      (compressJob n 0 b m c (fld b 4 4) d) := by
  simp only [compressJob, if_true, gt_iff_lt, if_pos hfull, laneWrite_of_unsealed h]
  exact ⟨_, _, _, rfl⟩

/-- Output within OUT_LIMIT of a job with END: it is written, and the stream is over (R270). -/
theorem streamOut_last {b out : Bytes} {d : Dev} (h : Unsealed d) (hfits : out.length ≤ fld b 16 4) (hlast : bitOf (fld b 2 1) 2 = true)
    (n : Nat) (m ctx : Bytes) :
    EndsIn 4 n 1 0 { storeMem (fld b 24 8) out d with cmpStreams := tset {} d.cmpStreams (fld b 32 8) {} } (streamOut n b m out ctx d) := by
  refine ⟨m.length, out.length, xsum m, ?_⟩
  simp [streamOut, hfits, hlast, laneWrite_of_unsealed h, storeMem_cmpStreams]

/-- Without END the output is followed by the context, and the stream stays open. -/
theorem streamOut_open {b out : Bytes} {d : Dev} (h : Unsealed d) (hfits : out.length ≤ fld b 16 4) (hlast : bitOf (fld b 2 1) 2 = false)
    (n : Nat) (m ctx : Bytes) :
    EndsIn 4 n 1 2 { storeMem (fld b 32 8) (padTo 196608 ctx) (storeMem (fld b 24 8) out d) with
      cmpStreams := tset {} d.cmpStreams (fld b 32 8) ⟨true, false⟩ } (streamOut n b m out ctx d) := by
  refine ⟨m.length, out.length, xsum m, ?_⟩
  simp [streamOut, hfits, hlast, laneWrite_of_unsealed h, laneWrite_of_unsealed (h.storeMem _ _), storeMem_cmpStreams]

theorem compressJob_start (n : Nat) (b m ctx : Bytes) (d : Dev) : compressJob n 1 b m ctx (fld b 4 4) d =
    streamOut n b m (Config.zstdStream (Config.zstdOpen (fld b 3 1) (bitOf (fld b 2 1) 4)) (streamFlags b) m)
      (Config.zstdNext (Config.zstdOpen (fld b 3 1) (bitOf (fld b 2 1) 4)) (streamFlags b) m) d := by
  simp [compressJob]

theorem compressJob_continue {b : Bytes} {d : Dev} (hstream : tget {} d.cmpStreams (fld b 32 8) = ⟨true, false⟩) (n : Nat)
    (m ctx : Bytes) :
    compressJob n 2 b m ctx (fld b 4 4) d =
      streamOut n b m (Config.zstdStream ctx (streamFlags b) m) (Config.zstdNext ctx (streamFlags b) m) d := by
  simp [compressJob, hstream]

/-- The header of a frame to decompress is whole and within the accepted subset, and agrees with its descriptor (R272). -/
structure GoodHeader (b m : Bytes) (hdr : Nat) (fcs : Option Nat) (window : Nat) (sum : Bool) : Prop where
  parsed : zstdHeader m = some (hdr, fcs, window, sum)
  whole : hdr ≤ m.length
  size : fcs.all (· == fld b 20 4) = true
  window_le : window ≤ 131072
  checksum : bitOf (fld b 2 1) 4 = true → sum = true

section decompress

variable {b m : Bytes} {hdr : Nat} {fcs : Option Nat} {window : Nat} {sum : Bool}

/-- No test of the header alone ends the job. -/
theorem GoodHeader.passes (h : GoodHeader b m hdr fcs window sum) :
    (decide (5 ≤ m.length) && bitOf (fld b 2 1) 4 && !sum || decide (6 ≤ m.length) && !bitOf (fld m 4 1) 5 && decide (window > 131072)) =
      false ∧ fcs.any (· < fld b 20 4) = false ∧ fcs.any (· > fld b 20 4) = false := by
  refine ⟨?_, ?_, ?_⟩
  · have hsum := h.checksum
    have hwindow : decide (window > 131072) = false := decide_eq_false (not_lt.2 h.window_le)
    cases hchk : bitOf (fld b 2 1) 4
    · simp [hwindow]
    · simp [hwindow, hsum hchk]
  · have hsize := h.size
    cases fcs <;> simp_all
  · have hsize := h.size
    cases fcs <;> simp_all

theorem decompressJob_format (h : GoodHeader b m hdr fcs window sum) (hcontent : Config.zstdContent window (m.drop hdr) = none)
    (n total : Nat) (d : Dev) : EndsIn 4 n 5 4 (notice Ev.CMP_FORMAT (unitOf 4 n) 0 0 (setb Reg.CMP_STATUS_FORMAT_N
      (bump Reg.CMP_ERR_FORMAT (abandon 4 b (fld b 4 4) d).2))) (decompressJob n b m total d) := by
  obtain ⟨hformat, hless, hmore⟩ := h.passes
  simp only [decompressJob, h.parsed, hformat, not_lt.2 h.whole, hless, hmore, hcontent, if_false, Bool.false_eq_true]
  exact ⟨_, _, _, rfl⟩

/-- A frame whose content and length are as declared: only its checksum is left to decide. -/
theorem decompressJob_content {c : Bytes} {used : Nat} (h : GoodHeader b m hdr fcs window sum)
    (hcontent : Config.zstdContent window (m.drop hdr) = some (c, used)) (hsize : c.length = fld b 20 4)
    (hlen : m.length = fld b 4 4) (hwhole : hdr + used + (if sum then 4 else 0) = fld b 4 4) (n : Nat) (d : Dev) :
    decompressJob n b m (fld b 4 4) d =
      if sum && fld m (hdr + used) 4 != xsum c then
        endJob 4 n 5 8 (counts (fld b 4 4) c.length 0) (bump Reg.CMP_ERR_XSUM (zeroise 4 (fld b 24 8) c.length d))
      else endJob 4 n 1 0 (counts (fld b 4 4) c.length (xsum c)) (laneWrite 4 (fld b 24 8) c d) := by
  obtain ⟨hformat, hless, hmore⟩ := h.passes
  simp only [decompressJob, h.parsed, hformat, not_lt.2 h.whole, hless, hmore, hcontent, if_false, Bool.false_eq_true]
  simp only [hsize, hlen, hwhole, gt_iff_lt, lt_irrefl, or_self, if_false]

end decompress

theorem cmpKind_of_stream {b : Bytes} (h : cmpKind b = 1 ∨ cmpKind b = 2) : fld b 0 1 = 1 ∧ (fld b 1 1 = 1 ∨ fld b 1 1 = 2) := by
  unfold cmpKind at h
  dsimp only at h
  split at h
  · omega
  · split at h
    · assumption
    · omega

theorem cmpKind_of_decompress {b : Bytes} (h : cmpKind b = 3) : fld b 0 1 = 2 := by
  unfold cmpKind at h
  dsimp only at h
  split at h
  · assumption
  · split at h <;> omega

/-- The context of a stream lies in memory, and nothing at address 0 does (Table 8.5). -/
theorem context_ne_zero {b : Bytes} {d : Dev} (hok : cmpOk b d = true) (hkind : cmpKind b = 1 ∨ cmpKind b = 2) : fld b 32 8 ≠ 0 := by
  obtain ⟨hop, hmode⟩ := cmpKind_of_stream hkind
  intro hzero
  rcases hmode with hmode | hmode <;> simp [cmpOk, hop, hmode, hzero, inMem, poolBase, dramBase] at hok

/-- A frame's declared content fits its output buffer (Table 8.5). -/
theorem declared_le_limit {b : Bytes} {d : Dev} (hok : cmpOk b d = true) (hkind : cmpKind b = 3) : fld b 20 4 ≤ fld b 16 4 := by
  simp only [cmpOk, cmpKind_of_decompress hkind, if_true, Bool.and_eq_true, decide_eq_true_eq, and_assoc] at hok
  obtain ⟨-, -, -, -, -, -, -, -, -, -, hle, -⟩ := hok
  exact hle

/-- Each command of the compression engine runs the job of its kind. -/
theorem exec_compress {n : Fin 16} {cut : Bool} {p : Nat × Instr}
    (hp : p ∈ [(0, Instr.compressOneshot n cut false), (1, .compressStart n cut false), (2, .compressContinue n cut false),
      (3, .decompress n cut false)]) (s : State) : exec p.2 s = runLive (runCompress p.1 n cut false) s := by
  simp only [List.mem_cons, List.not_mem_nil, or_false] at hp
  rcases hp with rfl | rfl | rfl | rfl
  · exact Eq.refl (execCompressOneshot n cut false s)
  · exact Eq.refl (execCompressStart n cut false s)
  · exact Eq.refl (execCompressContinue n cut false s)
  · exact Eq.refl (execDecompress n cut false s)

/-- A stream's next output `x` is written; with END the stream is closed, and otherwise its context is saved (R270). -/
abbrev StreamWritten (r i : Nat) (x : Bytes) (d e : Dev) : Prop :=
  memRead e (fld (descBytes 4 r i d) 24 8) x.length = x ∧
  (tget {} e.cmpStreams (fld (descBytes 4 r i d) 32 8)).opn = !bitOf (fld (descBytes 4 r i d) 2 1) 2 ∧
  JobEnded 4 r i 1 (if bitOf (fld (descBytes 4 r i d) 2 1) 2 then 0 else 2) d e

section compress

variable {c : Instr} {s : State} {kind : Nat} {n : Fin 16} {r i : Nat}

theorem compress_answers_refused (hx : exec c s = runLive (runCompress kind n false false) s) (hready : s.ready)
    (hholds : laneHolds 4 n r i s.dev) (hkind : cmpKind (descBytes 4 r i s.dev) = kind)
    (hbad : cmpOk (descBytes 4 r i s.dev) s.dev = false ∨
      kind = 2 ∧ (tget {} s.dev.cmpStreams (fld (descBytes 4 r i s.dev) 32 8)).opn = false) :
    Answers c s fun d => JobEnded 4 r i 5 0x80 s.dev d :=
  answers_endJob hx hready (job_of_holds hholds) (runCompress_refused (d := s.dev.quiet) hholds hkind hbad false false)
    (jobHeld_endStream 4 4 _ s.dev.quiet) (by decide) (by decide) fun _ hg => hg.ended

theorem compress_answers_cut (hx : exec c s = runLive (runCompress kind n true false) s) (hready : s.ready)
    (h : CleanCompress kind n r i s.dev) : Answers c s fun d => JobEnded 4 r i 5 0x20 s.dev d := by
  have hend := cmpFault_cut n (descBytes 4 r i s.dev) s.dev.quiet
  have hrun := runCompress_clean h.quiet true
  rw [if_pos rfl, descBytes_quiet] at hrun
  rw [← hrun] at hend
  exact answers_endJob hx hready (job_of_holds h.holds) hend (jobHeld_abandon_compress (d := s.dev.quiet) h.unsealed ..) (by decide)
    (by decide) fun _ hg => hg.ended

variable (hx : exec c s = runLive (runCompress kind n false false) s) (hready : s.ready) (h : CleanCompress kind n r i s.dev)

include hx hready h

theorem oneshot_answers (hkind : kind = 0) : Answers c s fun d =>
    let b := descBytes 4 r i s.dev
    let f := cmpFrame b (cmpInput r i s.dev)
    if f.length ≤ fld b 16 4 then JobEnded 4 r i 1 0 s.dev d ∧ memRead d (fld b 24 8) f.length = f
    else JobEnded 4 r i 4 0 s.dev d ∧ memRead d (fld b 24 8) (fld b 16 4) = f.take (fld b 16 4) := by
  subst hkind
  have hrun := runCompress_clean h.quiet false
  rw [if_neg Bool.false_ne_true, if_neg (by decide), if_neg (by decide), descBytes_quiet, cmpInput_quiet] at hrun
  by_cases hfits : (cmpFrame (descBytes 4 r i s.dev) (cmpInput r i s.dev)).length ≤ fld (descBytes 4 r i s.dev) 16 4
  · have hend := compressJob_oneshot_ok (d := s.dev.quiet) h.unsealed hfits n []
    rw [← hrun] at hend
    refine answers_endJob hx hready (job_of_holds h.holds) hend (jobHeld_storeMem ..) (by decide) (by decide) fun g hg => ?_
    dsimp only
    rw [if_pos hfits]
    have hdesc := rangesApart_of_le h.apartDesc hfits
    exact ⟨hg.ended, (hg.read _ _ hdesc).trans (memRead_storeMem ..)⟩
  · have hend := compressJob_oneshot_full (d := s.dev.quiet) h.unsealed (not_le.1 hfits) n []
    rw [← hrun] at hend
    refine answers_endJob hx hready (job_of_holds h.holds) hend ((jobHeld_bump (by decide) _).trans (jobHeld_storeMem ..))
      (by decide) (by decide) fun g hg => ?_
    dsimp only
    rw [if_neg hfits]
    have hstored := memRead_storeMem (fld (descBytes 4 r i s.dev) 24 8)
      ((cmpFrame (descBytes 4 r i s.dev) (cmpInput r i s.dev)).take (fld (descBytes 4 r i s.dev) 16 4)) s.dev.quiet
    rw [List.length_take_of_le (not_le.1 hfits).le] at hstored
    exact ⟨hg.ended, (hg.read _ _ h.apartDesc).trans ((memRead_of_mem (bump_mem ..) ..).trans hstored)⟩

/-- A START or CONTINUE job whose compressor gives `x` next. -/
theorem stream_answers (hkind : kind = 1 ∨ kind = 2) {x ctx : Bytes}
    (hrun : runCompress kind n false false s.dev.quiet = streamOut n (descBytes 4 r i s.dev) (cmpInput r i s.dev) x ctx s.dev.quiet) :
    Answers c s fun d => x.length ≤ fld (descBytes 4 r i s.dev) 16 4 → StreamWritten r i x s.dev d := by
  refine answers_of_imp hx hready fun hfits => ?_
  have hcontext : fld (descBytes 4 r i s.dev) 32 8 ≠ 0 :=
    context_ne_zero h.ok (h.kind_eq.symm ▸ hkind)
  have hapart := rangesApart_of_le (h.apartContext hcontext) hfits
  have hdesc := rangesApart_of_le h.apartDesc hfits
  have hout := memRead_storeMem (fld (descBytes 4 r i s.dev) 24 8) x s.dev.quiet
  unfold StreamWritten
  cases hlast : bitOf (fld (descBytes 4 r i s.dev) 2 1) 2
  · have hend := streamOut_open (d := s.dev.quiet) h.unsealed hfits hlast n (cmpInput r i s.dev) ctx
    have hheld := (jobHeld_storeMem 4 (fld (descBytes 4 r i s.dev) 32 8) (padTo 196608 ctx) _).trans
      (jobHeld_storeMem 4 (fld (descBytes 4 r i s.dev) 24 8) x s.dev.quiet)
    have hkept := memRead_storeMem_apart (b := padTo 196608 ctx) (by rw [Laws.padTo_length]; exact hapart)
      (storeMem (fld (descBytes 4 r i s.dev) 24 8) x s.dev.quiet)
    rw [← hrun] at hend
    refine answers_endJob hx hready (job_of_holds h.holds) hend hheld (by decide) (by decide) fun g hg => ⟨?_, ?_, hg.ended⟩
    · exact (hg.read _ _ hdesc).trans (hkept.trans hout)
    · rw [hg.streams, tget_tset_same]
      rfl
  · have hend := streamOut_last (d := s.dev.quiet) h.unsealed hfits hlast n (cmpInput r i s.dev) ctx
    rw [← hrun] at hend
    refine answers_endJob hx hready (job_of_holds h.holds) hend (jobHeld_storeMem ..) (by decide) (by decide)
      fun g hg => ⟨?_, ?_, hg.ended⟩
    · exact (hg.read _ _ hdesc).trans hout
    · rw [hg.streams, tget_tset_same]
      rfl

theorem start_answers (hkind : kind = 1) : Answers c s fun d =>
    let b := descBytes 4 r i s.dev
    let x := Config.zstdStream (Config.zstdOpen (fld b 3 1) (bitOf (fld b 2 1) 4)) (streamFlags b) (cmpInput r i s.dev)
    x.length ≤ fld b 16 4 → StreamWritten r i x s.dev d := by
  subst hkind
  have hrun := runCompress_clean h.quiet false
  rw [if_neg Bool.false_ne_true, if_neg (by decide), if_neg (by decide), descBytes_quiet, cmpInput_quiet, compressJob_start] at hrun
  exact stream_answers hx hready h (.inl rfl) hrun

theorem continue_answers (hkind : kind = 2)
    (hstream : tget {} s.dev.cmpStreams (fld (descBytes 4 r i s.dev) 32 8) = ⟨true, false⟩) : Answers c s fun d =>
    let b := descBytes 4 r i s.dev
    let x := Config.zstdStream (memRead s.dev (fld b 32 8) 196608) (streamFlags b) (cmpInput r i s.dev)
    x.length ≤ fld b 16 4 → StreamWritten r i x s.dev d := by
  subst hkind
  have hrun := runCompress_clean h.quiet false
  rw [if_neg Bool.false_ne_true, if_neg (by decide), if_pos rfl, descBytes_quiet, cmpInput_quiet, memRead_quiet,
    compressJob_continue (d := s.dev.quiet) hstream] at hrun
  exact stream_answers hx hready h (.inr rfl) hrun

section decompress

variable {hdr : Nat} {fcs : Option Nat} {window : Nat} {sum : Bool}

theorem decompress_answers_format (hkind : kind = 3)
    (hgood : GoodHeader (descBytes 4 r i s.dev) (cmpInput r i s.dev) hdr fcs window sum)
    (hcontent : Config.zstdContent window ((cmpInput r i s.dev).drop hdr) = none) : Answers c s fun d => JobEnded 4 r i 5 4 s.dev d := by
  have hrun := runCompress_clean h.quiet false
  rw [if_neg Bool.false_ne_true, if_pos hkind, descBytes_quiet, cmpInput_quiet] at hrun
  have hend := decompressJob_format hgood hcontent n (fld (descBytes 4 r i s.dev) 4 4) s.dev.quiet
  rw [← hrun] at hend
  refine answers_endJob hx hready (job_of_holds h.holds) hend ?_ (by decide) (by decide) fun _ hg => hg.ended
  rw [jobHeld_notice, setb_eq, jobHeld_wr (by decide), jobHeld_bump (by decide),
    jobHeld_abandon_compress (d := s.dev.quiet) h.unsealed]

theorem decompress_answers_content (hkind : kind = 3)
    (hgood : GoodHeader (descBytes 4 r i s.dev) (cmpInput r i s.dev) hdr fcs window sum) {m : Bytes} {used : Nat}
    (hcontent : Config.zstdContent window ((cmpInput r i s.dev).drop hdr) = some (m, used))
    (hsize : m.length = fld (descBytes 4 r i s.dev) 20 4)
    (hwhole : hdr + used + (if sum then 4 else 0) = fld (descBytes 4 r i s.dev) 4 4) : Answers c s fun d =>
      if sum = true ∧ fld (cmpInput r i s.dev) (hdr + used) 4 ≠ xsum m then JobEnded 4 r i 5 8 s.dev d
      else JobEnded 4 r i 1 0 s.dev d ∧ memRead d (fld (descBytes 4 r i s.dev) 24 8) m.length = m := by
  have hrun := runCompress_clean h.quiet false
  rw [if_neg Bool.false_ne_true, if_pos hkind, descBytes_quiet, cmpInput_quiet,
    decompressJob_content hgood hcontent hsize (jobBytes_length h.clean) hwhole] at hrun
  by_cases hbad : sum = true ∧ fld (cmpInput r i s.dev) (hdr + used) 4 ≠ xsum m
  · rw [if_pos (by simpa using hbad)] at hrun
    simp only [if_pos hbad]
    exact answers_endJob hx hready (job_of_holds h.holds) ⟨_, _, _, hrun⟩
      ((jobHeld_bump (by decide) _).trans (jobHeld_zeroise (d := s.dev.quiet) h.unsealed ..)) (by decide) (by decide) fun _ hg => hg.ended
  · rw [if_neg (by simpa using hbad), laneWrite_of_unsealed (d := s.dev.quiet) h.unsealed] at hrun
    simp only [if_neg hbad]
    have hfits : m.length ≤ fld (descBytes 4 r i s.dev) 16 4 := hsize.le.trans (declared_le_limit h.ok (h.kind_eq.trans hkind))
    have hdesc := rangesApart_of_le h.apartDesc hfits
    exact answers_endJob hx hready (job_of_holds h.holds) ⟨_, _, _, hrun⟩ (jobHeld_storeMem ..) (by decide) (by decide)
      fun g hg => ⟨hg.ended, (hg.read _ _ hdesc).trans (memRead_storeMem ..)⟩

end decompress

end compress

/-! ### A slice's end, and armed injections (R53, R258, R261) -/

theorem getLane_modLane (k n : Nat) (f : Lane → Lane) (d : Dev) : getLane k n (modLane k n f d) = f (getLane k n d) := by
  simp [getLane, getAccel, modLane, modAccel, tget_tmod]

theorem sliceBudgetEnd_answers {s : State} (hready : s.ready) {k : Fin 4} {n : Fin 16}
    (hruns : (getLane (accKind k) n s.dev).running = true) :
    Answers (.accelSliceBudgetEnd k n) s fun d =>
      getLane (accKind k) n d = { getLane (accKind k) n s.dev with running := false, slice := {} } := by
  have hruns' : (getLane (accKind k) n s.dev.quiet).running = true := hruns
  refine (runsTo_of_live (execAccelSliceBudgetEnd k n s) rfl rfl hready (if_pos hruns')).answers hready.2 fun d hd => ?_
  rw [getLane, getAccel, hd.accels]
  exact getLane_modLane ..

theorem accInj_fields (k : Nat) : (accInjArm k).fits ∧ (accInjArm k).width = 1 ∧ (accInjLane k).fits ∧ (accInjArm k).apart (accInjLane k) ∧
    (accInjArm k).off ∉ ambientRegs ∧ (accInjLane k).off ∉ ambientRegs := by
  unfold accInjArm accInjLane
  split <;> decide

theorem armInj_answers {c : Instr} {s : State} {k n : Nat} (hready : s.ready) (hruns : RunsTo c s (armInj k n s.dev.quiet))
    (hn : n < 2 ^ (accInjLane k).width) : Answers c s fun d => rdb (accInjArm k) d = true ∧ rd (accInjLane k) d = n := by
  obtain ⟨harm, hbit, hlane, hapart, harmEnd, hlaneEnd⟩ := accInj_fields k
  refine hruns.answers hready.2 fun d hd => ⟨?_, ?_⟩
  · rw [rdb, hd.rd harmEnd, armInj, setb_eq, rd_wr_same harm, hbit]
    rfl
  · rw [hd.rd hlaneEnd, armInj, setb_eq, rd_wr_apart harm hlane hapart, rd_wr_same hlane, Nat.mod_eq_of_lt hn]

/-- Settles O29: a lane's job is refused, cut off, or run by its kind; each way leads to one job's end, from which the answer is read. -/
theorem compressionJobsEnd : Obligations.CompressionJobsEnd := by
  unfold Obligations.CompressionJobsEnd
  intro s hready
  refine ⟨fun n r i hholds => ?_, fun k n hruns => sliceBudgetEnd_answers hready hruns, fun n => ?_, fun n => ?_, fun n => ?_, fun n => ?_⟩
  · intro b m limit out ctx chk plain
    have hclean {kind : Nat} (hkind : cmpKind b = kind) (hplain : plain) (hopen : kind = 2 → (tget {} s.dev.cmpStreams ctx).opn = true) :
        CleanCompress kind n r i s.dev := by
      obtain ⟨hunsealed, hok, hinput, hcontext, hdesc, hapart⟩ := hplain
      exact ⟨hholds, hkind, hunsealed, hok, hinput, fun hk => hcontext (hkind.trans hk), hopen, hdesc, hapart⟩
    refine ⟨fun p hp hkind hbad => ?_, fun p hp hkind hplain hopen => ?_, fun hkind hplain => ?_, fun hkind hplain => ?_,
      fun hkind hplain hstream => ?_, fun hdr fcs window sum hkind hplain hheader hwhole hsize hwindow hsum => ?_⟩
    · exact compress_answers_refused (exec_compress hp s) hready hholds hkind hbad
    · exact compress_answers_cut (exec_compress hp s) hready (hclean hkind hplain hopen)
    · have h := hclean hkind hplain fun hk => absurd hk (by decide)
      exact oneshot_answers (exec_compress (n := n) (p := (0, _)) (by simp) s) hready h rfl
    · have h := hclean hkind hplain fun hk => absurd hk (by decide)
      exact start_answers (exec_compress (n := n) (p := (1, _)) (by simp) s) hready h rfl
    · have h := hclean hkind hplain fun _ => by rw [hstream]
      exact continue_answers (exec_compress (n := n) (p := (2, _)) (by simp) s) hready h rfl hstream
    · have h := hclean hkind hplain fun hk => absurd hk (by decide)
      have hx := exec_compress (n := n) (cut := false) (p := (3, .decompress n false false)) (by simp) s
      have hgood : GoodHeader b m hdr fcs window sum := ⟨hheader, hwhole, hsize, hwindow, hsum⟩
      rcases hcontent : Config.zstdContent window (m.drop hdr) with _ | ⟨c, used⟩
      · exact decompress_answers_format hx hready h rfl hgood hcontent
      · exact answers_of_imp hx hready fun hc => answers_of_imp hx hready fun hused =>
          decompress_answers_content hx hready h rfl hgood hcontent hc hused
  · exact armInj_answers (k := 4) hready (runsTo_of_live (execCmpInjArm n s) rfl rfl hready rfl) n.isLt
  · exact armInj_answers (k := 6) hready (runsTo_of_live (execDigInjArm n s) rfl rfl hready rfl) n.isLt
  · exact armInj_answers (k := 3) hready (runsTo_of_live (execCipInjArm n s) rfl rfl hready rfl) (n.isLt.trans (by decide))
  · exact armInj_answers (k := 5) hready (runsTo_of_live (execErsInjArm n s) rfl rfl hready rfl) n.isLt

end Sys2Proof.Proofs

/-!
PROOFS. O30: digest jobs. What a clean job comes to, by its MODE and VERIFY; then the eight commands, which differ in the OP alone.
-/

namespace Sys2Proof.Proofs

open Sys2Proof Sys2Proof.Machine

/-! ### A digest job comes to its end (R263, R274–R282) -/

/-- A pipeline holds a digest descriptor that stands the checks of R263, no range is sealed, and its input and memory are clean. -/
structure CleanDigest (n r i : Nat) (d : Dev) : Prop where
  holds : laneHolds 6 n r i d
  unsealed : Unsealed d
  ok : digOk (descBytes 6 r i d) d = true
  unpoisoned : d.fab.poison = []
  clean : jobClean (bitOf (fld (descBytes 6 r i d) 2 1) 0) (fld (descBytes 6 r i d) 8 8) (fld (descBytes 6 r i d) 4 4) d

theorem CleanDigest.quiet {n r i : Nat} {d : Dev} (h : CleanDigest n r i d) : CleanDigest n r i d.quiet :=
  ⟨h.holds, h.unsealed, h.ok, h.unpoisoned, h.clean⟩

/-- The message of a pipeline's job. -/
abbrev digInput (r i : Nat) (d : Dev) : Bytes :=
  jobBytes (bitOf (fld (descBytes 6 r i d) 2 1) 0) (fld (descBytes 6 r i d) 8 8) (fld (descBytes 6 r i d) 4 4) d

/-- The key that a descriptor names, in memory or in a key register (R278). -/
abbrev digKey (b : Bytes) (d : Dev) : Bytes :=
  if isHmac (fld b 0 1) && !bitOf (fld b 2 1) 2 then memRead d (fld b 24 8) (fld b 40 2) else tget [] d.keys.digest (fld b 42 1)

theorem digInput_quiet (r i : Nat) (d : Dev) : digInput r i d.quiet = digInput r i d := rfl
theorem digKey_quiet (b : Bytes) (d : Dev) : digKey b d.quiet = digKey b d := rfl
theorem digestBegin_quiet (b key record : Bytes) (d : Dev) : digestBegin b key record d.quiet = digestBegin b key record d := rfl

theorem digOk_fields {b : Bytes} {d : Dev} (h : digOk b d = true) : 1 ≤ fld b 0 1 ∧ fld b 0 1 ≤ 8 ∧ fld b 1 1 < 4 := by
  simp only [digOk, Bool.and_eq_true, decide_eq_true_eq, and_assoc] at h
  obtain ⟨hlow, hhigh, hmode, -⟩ := h
  exact ⟨hlow, hhigh, hmode⟩

theorem digKind_of_ok {b : Bytes} {d : Dev} (h : digOk b d = true) : digKind b = fld b 0 1 := by
  obtain ⟨hlow, hhigh, -⟩ := digOk_fields h
  exact if_pos ⟨hlow, hhigh⟩

theorem runDigest_refused {op n r i : Nat} {d : Dev} (hholds : laneHolds 6 n r i d) (hkind : digKind (descBytes 6 r i d) = op)
    (hbad : digOk (descBytes 6 r i d) d = false) (cut self : Bool) :
    EndsIn 6 n 5 0x80 (bump Reg.DIG_ERR_MALFORMED (endStream 6 (descBytes 6 r i d) d)) (runDigest op n cut self d) := by
  refine ⟨0, 0, 0, ?_⟩
  rw [runDigest, withJob_of_holds hholds, if_neg (not_not_intro hkind), if_pos (by simp [hbad])]
  rfl

/-- What runs once the checks are passed and the message, the key and the context are read. -/
theorem runDigest_clean {op n r i : Nat} {d : Dev} (h : CleanDigest n r i d) (hkind : digKind (descBytes 6 r i d) = op) (cut : Bool) :
    runDigest op n cut false d =
      if cut then endJob 6 n 5 0x20 (counts (abandon 6 (descBytes 6 r i d) (digInput r i d).length d).1.1
        (abandon 6 (descBytes 6 r i d) (digInput r i d).length d).1.2 0) (abandon 6 (descBytes 6 r i d) (digInput r i d).length d).2
      else digestJob n (descBytes 6 r i d) (digKey (descBytes 6 r i d) d)
        (if fld (descBytes 6 r i d) 1 1 = 2 ∨ fld (descBytes 6 r i d) 1 1 = 3 then memRead d (fld (descBytes 6 r i d) 32 8) 512 else [])
        (digInput r i d) (fld (descBytes 6 r i d) 4 4) d := by
  obtain ⟨hflips, htotal, hpoison⟩ := h.clean
  have hop : op = fld (descBytes 6 r i d) 0 1 := hkind.symm.trans (digKind_of_ok h.ok)
  have hread := readFrags_clean h.unsealed hflips 6 hpoison (fld (descBytes 6 r i d) 4 4)
  have hrange (a m : Nat) : laneRead 6 a m d = (memRead d a m, false, d) := by
    rw [laneRead_of_unsealed h.unsealed hflips, rangePoisoned_of_unpoisoned h.unpoisoned]
  have hkey : (if isHmac op && !bitOf (fld (descBytes 6 r i d) 2 1) 2 then
        laneRead 6 (fld (descBytes 6 r i d) 24 8) (fld (descBytes 6 r i d) 40 2) d
      else (tget [] d.keys.digest (fld (descBytes 6 r i d) 42 1), false, d)) = (digKey (descBytes 6 r i d) d, false, d) := by
    rw [hop, hrange, digKey]
    split <;> rfl
  have hrecord : (if fld (descBytes 6 r i d) 1 1 = 2 ∨ fld (descBytes 6 r i d) 1 1 = 3 then
        laneRead 6 (fld (descBytes 6 r i d) 32 8) 512 d else ([], false, d)) =
      (if fld (descBytes 6 r i d) 1 1 = 2 ∨ fld (descBytes 6 r i d) 1 1 = 3 then memRead d (fld (descBytes 6 r i d) 32 8) 512 else [],
        false, d) := by
    rw [hrange]
    split <;> rfl
  rw [runDigest, withJob_of_holds h.holds, if_neg (not_not_intro hkind), if_neg (by simp [h.ok])]
  simp only [takeLaneInj_of_holds h.holds, hread, hkey, hrecord, htotal]
  cases cut
  · simp [faultBits, b2n]
  · simp [faultBits, b2n, bitOf]

theorem jobHeld_abandon_digest (k : Nat) (b : Bytes) (most : Nat) (d : Dev) : jobHeld k (abandon 6 b most d).2 = jobHeld k d :=
  jobHeld_endStream k 6 b (drawUpTo most d).2

/-- Only CONTINUE and FINISH look at the context's record. -/
theorem digestBegin_record {b : Bytes} (hmode : fld b 1 1 < 4) (key record : Bytes) (e : Dev) :
    digestBegin b key (if fld b 1 1 = 2 ∨ fld b 1 1 = 3 then record else []) e = digestBegin b key record e := by
  by_cases hlater : fld b 1 1 = 2 ∨ fld b 1 1 = 3
  · rw [if_pos hlater]
  · have hfirst : fld b 1 1 = 0 ∨ fld b 1 1 = 1 := by omega
    simp only [digestBegin, if_pos hfirst]

/-- A context's record is written, and the context stands. -/
def contextSaved (a : Nat) (record : Bytes) (d : Dev) : Dev :=
  let d := storeMem a record d
  { d with keys.digestDead := tset false d.keys.digestDead a false }

theorem digestRecord_length (op : Nat) (x : Digest) (outer : Bytes) (wrapped : Bool) (d : Dev) :
    (digestRecord op x outer wrapped d).length = 512 := by
  unfold digestRecord
  dsimp only
  split <;> exact Laws.padTo_length ..

/-- A START or CONTINUE job saves its context (R277, R279). -/
theorem digestJob_saves {b key record m outer : Bytes} {x : Digest} {d : Dev} (h : Unsealed d)
    (hbegin : digestBegin b key record d = .got x outer) (hmode : fld b 1 1 = 1 ∨ fld b 1 1 = 2) (n : Nat) :
    EndsIn 6 n 1 2 (contextSaved (fld b 32 8) (digestRecord (fld b 0 1) (x.absorb (hashOf (fld b 0 1)) m) outer
      (bitOf (fld b 2 1) 2 || bitOf (fld b 2 1) 3) d) d) (digestJob n b key record m (fld b 4 4) d) := by
  refine ⟨m.length, 0, 0, ?_⟩
  simp [digestJob, hbegin, hmode, laneWrite_of_unsealed h, contextSaved]

/-- A ONESHOT or FINISH job delivers its digest. -/
theorem digestJob_delivers {b key record m outer : Bytes} {x : Digest} {d : Dev} (hbegin : digestBegin b key record d = .got x outer)
    (hmode : fld b 1 1 = 0 ∨ fld b 1 1 = 3) (n : Nat) : digestJob n b key record m (fld b 4 4) d =
      digestDeliver n b (digestResult (fld b 0 1) (x.absorb (hashOf (fld b 0 1)) m) outer m) m.length d := by
  have hlast : ¬(fld b 1 1 = 1 ∨ fld b 1 1 = 2) := by omega
  simp [digestJob, hbegin, hlast]

theorem digestDeliver_written {b : Bytes} {d : Dev} (h : Unsealed d) (hverify : bitOf (fld b 2 1) 1 = false) (n : Nat) (result : Bytes)
    (inB : Nat) : EndsIn 6 n 1 0 (storeMem (fld b 16 8) (result.take (digestTake b)) d) (digestDeliver n b result inB d) := by
  refine ⟨inB, digestTake b, 0, ?_⟩
  simp [digestDeliver, hverify, laneWrite_of_unsealed h]

/-- VERIFY writes nothing, and equality decides (R282). -/
theorem digestDeliver_verified {b : Bytes} {d : Dev} (h : Unsealed d) (hflips : d.fab.flips = []) (hpoison : d.fab.poison = [])
    (hverify : bitOf (fld b 2 1) 1 = true) (n : Nat) (result : Bytes) (inB : Nat) : digestDeliver n b result inB d =
      if memRead d (fld b 16 8) (digestTake b) = result.take (digestTake b) then endJob 6 n 1 0 (counts inB 0 0) d
      else endJob 6 n 6 0 (counts inB 0 0) (bump Reg.DIG_CNT_VERIFY_FAIL d) := by
  simp [digestDeliver, hverify, laneRead_of_unsealed h hflips, rangePoisoned_of_unpoisoned hpoison]

/-- The digest that a ONESHOT job begins with gives, with the message absorbed, the digest of the whole message (R274, R275). -/
theorem digestBegin_oneshot {b : Bytes} {d : Dev} (hok : digOk b d = true) (hmode : fld b 1 1 = 0) (key record m : Bytes) :
    ∃ x outer, digestBegin b key record d = .got x outer ∧
      digestResult (fld b 0 1) (x.absorb (hashOf (fld b 0 1)) m) outer m =
        if fld b 0 1 ≤ 4 then hash (fld b 0 1) m else if fld b 0 1 = 8 then sha256 m ++ leBytes 8 (crc64 m)
        else digestResult (fld b 0 1) ((hmacInner (hashOf (fld b 0 1)) key).absorb (hashOf (fld b 0 1)) m)
          (hmacOuter (hashOf (fld b 0 1)) key).state m := by
  obtain ⟨hlow, hhigh, -⟩ := digOk_fields hok
  by_cases hkeyed : isHmac (fld b 0 1) = true
  · have hrange : 5 ≤ fld b 0 1 ∧ fld b 0 1 ≤ 7 := by simpa [isHmac] using hkeyed
    refine ⟨_, _, by simp only [digestBegin, hmode, true_or, if_true, if_pos hkeyed]; rfl, ?_⟩
    rw [if_neg (by omega), if_neg (by omega)]
  · refine ⟨Digest.start (hashOf (fld b 0 1)), [], by simp [digestBegin, hmode, hkeyed], ?_⟩
    have hrange : ¬(5 ≤ fld b 0 1 ∧ fld b 0 1 ≤ 7) := by simpa [isHmac] using hkeyed
    by_cases hplain : fld b 0 1 ≤ 4
    · have hhash : hashOf (fld b 0 1) = fld b 0 1 := by rw [hashOf, if_neg (by omega), if_neg (by omega)]
      rw [if_pos hplain, Machine.hash, digestResult, if_neg hkeyed, if_neg (by omega), hhash]
    · have height : fld b 0 1 = 8 := by omega
      rw [if_neg hplain, if_pos height, digestResult, if_neg hkeyed, if_pos height, height]
      rfl

/-- Each command of the digest engine runs the job of its OP. -/
theorem exec_digest {n : Fin 2} {cut : Bool} {p : Nat × Instr}
    (hp : p ∈ [(1, Instr.digestSha256 n cut false), (2, .digestSha384 n cut false), (3, .digestSha512 n cut false),
      (4, .digestSha3256 n cut false), (5, .digestHmacSha256 n cut false), (6, .digestHmacSha384 n cut false),
      (7, .digestHmacSha512 n cut false), (8, .digestSha256Crc64 n cut false)]) (s : State) :
    exec p.2 s = runLive (runDigest p.1 n cut false) s := by
  simp only [List.mem_cons, List.not_mem_nil, or_false] at hp
  rcases hp with rfl | rfl | rfl | rfl | rfl | rfl | rfl | rfl
  · exact Eq.refl (execDigestSha256 n cut false s)
  · exact Eq.refl (execDigestSha384 n cut false s)
  · exact Eq.refl (execDigestSha512 n cut false s)
  · exact Eq.refl (execDigestSha3256 n cut false s)
  · exact Eq.refl (execDigestHmacSha256 n cut false s)
  · exact Eq.refl (execDigestHmacSha384 n cut false s)
  · exact Eq.refl (execDigestHmacSha512 n cut false s)
  · exact Eq.refl (execDigestSha256Crc64 n cut false s)

section digest

variable {c : Instr} {s : State} {op : Nat} {n : Fin 2} {r i : Nat}

theorem digest_answers_refused (hx : exec c s = runLive (runDigest op n false false) s) (hready : s.ready)
    (hholds : laneHolds 6 n r i s.dev) (hkind : digKind (descBytes 6 r i s.dev) = op)
    (hbad : digOk (descBytes 6 r i s.dev) s.dev = false) : Answers c s fun d => JobEnded 6 r i 5 0x80 s.dev d :=
  answers_endJob hx hready (job_of_holds hholds) (runDigest_refused (d := s.dev.quiet) hholds hkind hbad false false)
    ((jobHeld_bump (by decide) _).trans (jobHeld_endStream ..)) (by decide) (by decide) fun _ hg => hg.ended

theorem digest_answers_cut (hx : exec c s = runLive (runDigest op n true false) s) (hready : s.ready) (h : CleanDigest n r i s.dev)
    (hkind : digKind (descBytes 6 r i s.dev) = op) : Answers c s fun d => JobEnded 6 r i 5 0x20 s.dev d := by
  have hrun := runDigest_clean h.quiet hkind true
  rw [if_pos rfl] at hrun
  exact answers_endJob hx hready (job_of_holds h.holds) ⟨_, _, _, hrun⟩ (jobHeld_abandon_digest ..) (by decide) (by decide)
    fun _ hg => hg.ended

variable (hx : exec c s = runLive (runDigest op n false false) s) (hready : s.ready) (h : CleanDigest n r i s.dev)
  (hkind : digKind (descBytes 6 r i s.dev) = op) {x : Digest} {outer : Bytes}
  (hbegin : digestBegin (descBytes 6 r i s.dev) (digKey (descBytes 6 r i s.dev) s.dev)
    (memRead s.dev (fld (descBytes 6 r i s.dev) 32 8) 512) s.dev = .got x outer)

/-- The record that a clean job reads begins it as the context in memory does. -/
theorem CleanDigest.begins (h : CleanDigest n r i s.dev)
    (hbegin : digestBegin (descBytes 6 r i s.dev) (digKey (descBytes 6 r i s.dev) s.dev)
      (memRead s.dev (fld (descBytes 6 r i s.dev) 32 8) 512) s.dev = .got x outer) :
    digestBegin (descBytes 6 r i s.dev) (digKey (descBytes 6 r i s.dev) s.dev)
      (if fld (descBytes 6 r i s.dev) 1 1 = 2 ∨ fld (descBytes 6 r i s.dev) 1 1 = 3 then
        memRead s.dev (fld (descBytes 6 r i s.dev) 32 8) 512 else []) s.dev.quiet = .got x outer := by
  obtain ⟨-, -, hmode⟩ := digOk_fields h.ok
  rw [digestBegin_quiet, digestBegin_record hmode, hbegin]

include hx hready h hkind hbegin

theorem digest_answers_saved (hmode : fld (descBytes 6 r i s.dev) 1 1 = 1 ∨ fld (descBytes 6 r i s.dev) 1 1 = 2)
    (hapart : rangesApart (fld (descBytes 6 r i s.dev) 32 8) 512 (descAddr 6 r i s.dev) 64) : Answers c s fun d =>
      let b := descBytes 6 r i s.dev
      JobEnded 6 r i 1 2 s.dev d ∧ memRead d (fld b 32 8) 512 = digestRecord (fld b 0 1)
        (x.absorb (hashOf (fld b 0 1)) (digInput r i s.dev)) outer (bitOf (fld b 2 1) 2 || bitOf (fld b 2 1) 3) s.dev := by
  have hrun := runDigest_clean h.quiet hkind false
  rw [if_neg Bool.false_ne_true, descBytes_quiet, digInput_quiet, digKey_quiet, memRead_quiet] at hrun
  have hend := digestJob_saves (m := digInput r i s.dev) h.quiet.unsealed (h.begins hbegin) hmode n
  rw [← hrun] at hend
  refine answers_endJob hx hready (job_of_holds h.holds) hend (jobHeld_storeMem ..) (by decide) (by decide) fun g hg => ⟨hg.ended, ?_⟩
  have hstored := memRead_storeMem (fld (descBytes 6 r i s.dev) 32 8) (digestRecord (fld (descBytes 6 r i s.dev) 0 1)
    (x.absorb (hashOf (fld (descBytes 6 r i s.dev) 0 1)) (digInput r i s.dev)) outer
    (bitOf (fld (descBytes 6 r i s.dev) 2 1) 2 || bitOf (fld (descBytes 6 r i s.dev) 2 1) 3) s.dev) s.dev.quiet
  rw [digestRecord_length] at hstored
  exact (hg.read _ _ hapart).trans hstored

/-- What a ONESHOT or FINISH job does with its digest: written within TLEN, or with VERIFY compared. -/
theorem digest_answers_delivered (hmode : fld (descBytes 6 r i s.dev) 1 1 = 0 ∨ fld (descBytes 6 r i s.dev) 1 1 = 3) {result : Bytes}
    (hresult : digestResult (fld (descBytes 6 r i s.dev) 0 1)
      (x.absorb (hashOf (fld (descBytes 6 r i s.dev) 0 1)) (digInput r i s.dev)) outer (digInput r i s.dev) = result) :
    let b := descBytes 6 r i s.dev
    let t := digestTake b
    (bitOf (fld b 2 1) 1 = false → rangesApart (fld b 16 8) t (descAddr 6 r i s.dev) 64 → Answers c s fun d =>
      JobEnded 6 r i 1 0 s.dev d ∧ memRead d (fld b 16 8) (result.take t).length = result.take t) ∧
    (bitOf (fld b 2 1) 1 = true → Answers c s fun d =>
      if memRead s.dev (fld b 16 8) t = result.take t then JobEnded 6 r i 1 0 s.dev d else JobEnded 6 r i 6 0 s.dev d) := by
  intro b t
  have hrun := runDigest_clean h.quiet hkind false
  rw [if_neg Bool.false_ne_true, descBytes_quiet, digInput_quiet, digKey_quiet, memRead_quiet,
    digestJob_delivers (h.begins hbegin) hmode, hresult] at hrun
  refine ⟨fun hverify hapart => ?_, fun hverify => ?_⟩
  · have hend := digestDeliver_written h.quiet.unsealed hverify n result (digInput r i s.dev).length
    rw [← hrun] at hend
    have hdesc := rangesApart_of_le hapart (List.length_take_le t result)
    exact answers_endJob hx hready (job_of_holds h.holds) hend (jobHeld_storeMem ..) (by decide) (by decide)
      fun g hg => ⟨hg.ended, (hg.read _ _ hdesc).trans (memRead_storeMem ..)⟩
  · obtain ⟨hflips, -, -⟩ := h.quiet.clean
    rw [digestDeliver_verified h.quiet.unsealed hflips h.quiet.unpoisoned hverify, memRead_quiet] at hrun
    by_cases hequal : memRead s.dev (fld b 16 8) t = result.take t
    · rw [if_pos hequal] at hrun
      simp only [if_pos hequal]
      exact answers_endJob hx hready (job_of_holds h.holds) ⟨_, _, _, hrun⟩ rfl (by decide) (by decide) fun _ hg => hg.ended
    · rw [if_neg hequal] at hrun
      simp only [if_neg hequal]
      exact answers_endJob hx hready (job_of_holds h.holds) ⟨_, _, _, hrun⟩ (jobHeld_bump (by decide) _) (by decide) (by decide)
        fun _ hg => hg.ended

end digest

/-- Settles O30: a job is refused, cut off, saves its context or delivers its digest; the OP enters through the digest alone. -/
theorem digestJobsEnd : Obligations.DigestJobsEnd := by
  unfold Obligations.DigestJobsEnd
  intro s n r i hready hholds b op m out t key commands plain
  have hclean (hplain : plain) : CleanDigest n r i s.dev := by
    obtain ⟨hunsealed, hok, hunpoisoned, hinput⟩ := hplain
    exact ⟨hholds, hunsealed, hok, hunpoisoned, hinput⟩
  refine ⟨fun p hp hkind hbad => ?_, fun p hp hkind hplain => ?_, fun p hp hkind hplain result x outer hresult => ?_,
    fun p hp hkind hplain x outer hbegin hmode hapart => ?_⟩
  · exact digest_answers_refused (exec_digest hp s) hready hholds hkind hbad
  · exact digest_answers_cut (exec_digest hp s) hready (hclean hplain) hkind
  · have h := hclean hplain
    rcases hresult with ⟨hmode, rfl⟩ | ⟨hmode, hbegin, rfl⟩
    · obtain ⟨x, outer, hbegin, hresult⟩ := digestBegin_oneshot h.ok hmode key (memRead s.dev (fld b 32 8) 512) m
      exact digest_answers_delivered (exec_digest hp s) hready h hkind hbegin (.inl hmode) hresult
    · exact digest_answers_delivered (exec_digest hp s) hready h hkind hbegin (.inr hmode) rfl
  · exact digest_answers_saved (exec_digest hp s) hready (hclean hplain) hkind hbegin hmode hapart

end Sys2Proof.Proofs

/-!
PROOFS. O33 is refuted: its clause on loads bounds no key's length, and CIP_KINFOn keeps a key's size beside the key's CLASS and KIND in a
field of two bits (Table 9.12), which a size above 256 bits overflows.
-/

namespace Sys2Proof.Proofs

open Sys2Proof Sys2Proof.Machine

/-- Vault key 0 has 48 bytes: its size, 48 / 8 - 2 = 4, takes three bits. -/
def longVaultKeyDev : Dev := { ({} : Dev) with keys.vault := [(0, List.replicate 48 0)] }

theorem longVaultKeyDev_ready : (State.mk longVaultKeyDev []).ready := by decide +kernel
theorem longVaultKeyDev_awake : asleep 0x2000048 longVaultKeyDev = false := by decide +kernel
theorem longVaultKeyDev_unheld : slotHeld 0 none longVaultKeyDev = false := by decide +kernel
theorem longVaultKeyDev_locked : debugOpen longVaultKeyDev = false := by decide +kernel
theorem longVaultKeyDev_loadseq : rd (Reg.CIP_KINFO_LOADSEQ 0) longVaultKeyDev < 65535 := by decide +kernel

/-- The vault holds the key that the load names: the load is not refused. -/
theorem longVaultKeyDev_findKey : findKey 4 0 0 longVaultKeyDev = (.ok (List.replicate 48 0), longVaultKeyDev) := rfl

/-- KEY_LOAD_VAULT loads the key; the third bit of its size carries through CLASS, and KIND shows 5, a session key. -/
theorem keyLoadVault_longVaultKeyDev :
    ∃ t, exec (.keyLoadVault 0 0) ⟨longVaultKeyDev, []⟩ = .next t ∧ rd (Reg.CIP_KINFO_KIND 0) t.dev = 5 :=
  ⟨_, rfl, by decide +kernel⟩

/-- Refutes O33: it asks that a load of SOURCE 4 leave KIND 4 whatever key the vault holds. On `longVaultKeyDev` the load succeeds with a key
of 48 bytes, whose size does not fit its field, and KIND reads 5. No hypothesis of the clause keeps the vault to keys of 16, 24 or 32 bytes. -/
theorem not_keysLoadImportAndRotate : ¬ Obligations.KeysLoadImportAndRotate := by
  unfold Obligations.KeysLoadImportAndRotate
  intro h
  obtain ⟨hslot, -⟩ := h ⟨longVaultKeyDev, []⟩ longVaultKeyDev_ready
  obtain ⟨-, -, hload⟩ := hslot 0 longVaultKeyDev_awake
  have hvault := hload 0 0 longVaultKeyDev_unheld longVaultKeyDev_locked longVaultKeyDev_loadseq (4, 0, .keyLoadVault 0 0) (by simp)
  obtain ⟨t, hnext, -, hloaded⟩ := hvault
  simp only [Fin.val_zero, longVaultKeyDev_findKey] at hloaded
  obtain ⟨-, hkind, -⟩ := hloaded
  obtain ⟨u, hu, hsession⟩ := keyLoadVault_longVaultKeyDev
  rw [hnext] at hu
  injection hu with htu
  rw [htu] at hkind
  exact absurd (hkind.symm.trans hsession) (by decide)

end Sys2Proof.Proofs

/-!
PROOFS. O34 is refuted: its clauses on FRAME_VERIFY leave room for a Check that escalates. With all 64 Check entries open, a Check raised
while a frame is verified makes the oldest entry a Double check (R575), which quarantines its unit (R578). Where that unit is the host port
over which the read came, the port's contexts tear down and their reads stop (R168): the job of the read is gone when the command ends.
-/

namespace Sys2Proof.Proofs

open Sys2Proof Sys2Proof.Machine

/-- Every Check entry and every Double check entry is open; entry 0, the oldest Check, is a late context fetch of host port 0. -/
def entriesFullDev : Dev :=
  wr (Reg.FLT_CHK_CODE 0) Ev.NVF_CTX_FETCH <| wr (Reg.FLT_CHK_UNIT 0) (unitOf 8 0) <|
    forEach (List.range 64) (fun k => setb (Reg.FLT_CHK_OPEN k)) <| forEach (List.range 32) (fun j => setb (Reg.FLT_DCHK_OPEN j)) {}

/-- A live granule of pool 0, and the read of it for the only square of command 2: its second pass has landed a frame without a header. -/
def headlessGte : Gte := { refcnt := 1 }
def headlessJob : ReadJob := { who := .host 2 0, gid := mkGid 0 0 77, img := headlessGte, state := 1, second := true }

/-- Command 2 is a Read that came over host port 0. Resident slot 0 names the integrity key of pool 0 and its halves disagree, so that
looking for the key raises CIP_KPAIRED (R309). -/
def lastEntryDev : Dev :=
  wr (Reg.CIP_KINFO_KIND 0) 2 { entriesFullDev with
    front.ctxs := [(1, { opn := true, qid := 1, port := 0 })]
    front.cmds := [(2, { op := .read, cmd := { ctx := 1, nsid := 7 } })]
    cas.cmds := [(2, { state := 1, ctx := 1 })]
    stg.reads := [(3, headlessJob)]
    md.gtes := [(mkGid 0 0 77, headlessGte)] }

theorem lastEntryDev_ready : (State.mk lastEntryDev []).ready := by decide +kernel
theorem lastEntryDev_landed : jobIn 3 1 lastEntryDev = true := by decide +kernel
theorem headlessJob_header : headerOk headlessJob.gid headlessJob.img headlessJob.frame = false := by decide +kernel
theorem lastEntryDev_local : gidLocal headlessJob.gid lastEntryDev = true := by decide +kernel
theorem lastEntryDev_unchanged : imageChanged headlessJob lastEntryDev = false := by decide +kernel

/-- The verification sends job 3 to rebuild on read, but it owes the quarantine of host port 0; once that has been carried out no job 3 is
left, and its state reads 0. -/
theorem frameVerify_lastEntryDev :
    ∃ t, exec (.frameVerify 3 .none false) ⟨lastEntryDev, []⟩ = .next t ∧ (getJob 3 t.dev).state = 0 :=
  ⟨_, rfl, by decide +kernel⟩

/-- Refutes O34: it asks that a bad header in the second pass leave the job in rebuild on read (state 3), whoever reads and whatever Checks
are open. On `lastEntryDev` the port of the reading host is quarantined before the command ends, and its job is gone. No hypothesis of the
clause keeps a Check entry free, as `State.checkRoom` does elsewhere. -/
theorem not_readJobsAdvance : ¬ Obligations.ReadJobsAdvance := by
  unfold Obligations.ReadJobsAdvance
  intro h
  obtain ⟨-, -, hverify, -⟩ := h ⟨lastEntryDev, []⟩ 3 lastEntryDev_ready
  obtain ⟨-, -, hheader, -⟩ := hverify lastEntryDev_landed
  obtain ⟨-, hsecond⟩ := hheader .none false headlessJob_header lastEntryDev_local rfl lastEntryDev_unchanged
  obtain ⟨t, hnext, -, hrebuild⟩ := hsecond rfl
  obtain ⟨u, hu, hgone⟩ := frameVerify_lastEntryDev
  rw [hnext] at hu
  injection hu with htu
  rw [htu, hgone] at hrebuild
  exact absurd hrebuild (by decide)

end Sys2Proof.Proofs

/-!
PROOFS. O35 is refuted: its clause on retirement leaves room for a Check that escalates. A retirement may find its member worn out and raise
FT_MEMBER_WEAR (R372); with all 64 Check entries open the oldest becomes a Double check (R575), and where that one names a media lane the
lane fails and its commands end LINK_LOST (R402). When one of them is the claim on whose end the head wins (R514), the head's records commit
without the peer (R195), and a checkpoint among them takes the records it covers out of the journal.
-/

namespace Sys2Proof.Proofs

open Sys2Proof Sys2Proof.Machine

/-- This head's journal: a record applied long ago, and a checkpoint that covers it, which the peer has not acknowledged. -/
def checkpointWaits : List JRecord :=
  [{ tsn := 1, tempo := 0, nsid := 0, head := 0, body := .releaseDone [], committed := true },
   { tsn := 2, tempo := 0, nsid := 0, head := 0, body := .checkpoint 1 1 }]

/-- The peer is lost and this head claims member 5, on whose lane the FENCE_CAS is outstanding; no pool asks for a majority. Every Check
entry and every Double check entry is open; entry 0, the oldest Check, names lane 5. -/
def claimingDev : Dev :=
  wr (Reg.FLT_CHK_CODE 0) Ev.MDL_LINK_FAIL <| wr (Reg.FLT_CHK_UNIT 0) (unitOf 0xA 5) <| wr (Reg.MDL_LANE_STATE 5) 4 { entriesFullDev with
    lanes12 := [(5, { cmds := [(0, { opcode := 0x05, use := .claim })] })]
    cas.declared := some (0, 1)
    cas.claims := [(5, { st := .pending })]
    md.members := [(0, { adopted := true, nblocks := 8 })]
    md.tsnOwn := 1
    stg.journal := checkpointWaits
    stg.tsnNext := 3 }

theorem claimingDev_ready : (State.mk claimingDev []).ready := by decide +kernel
theorem claimingDev_calm : inTrouble claimingDev = false := by decide +kernel
theorem claimingDev_blockFree : (getBlk 0 2 claimingDev).state = 0 := by decide +kernel
theorem claimingDev_journalQuiet : journalQuiet claimingDev := ⟨fun _ => rfl, by decide +kernel⟩

/-- BLOCK_RETIRE of block 2 of member 0 wears the member out: lane 5 fails, the claim is won, the checkpoint is applied, and two records
stand in the journal where two stood before the retirement's was posted. -/
theorem blockRetire_claimingDev :
    ∃ t, exec (.blockRetire 0 2 0) ⟨claimingDev, []⟩ = .next t ∧ t.dev.stg.journal.length = 2 :=
  ⟨_, rfl, by decide +kernel⟩

/-- Refutes O35: it asks that a retirement leave every earlier record in the journal, with its own behind them, whatever Checks are open. On
`claimingDev` the Check that it raises makes the head win its claim before the command ends, and the checkpoint prunes the journal. No
hypothesis of the clause keeps a Check entry free, as `State.checkRoom` does in the clause on refused erases. -/
theorem not_segmentsLiveAndDie : ¬ Obligations.SegmentsLiveAndDie := by
  unfold Obligations.SegmentsLiveAndDie
  intro h
  obtain ⟨-, -, -, -, -, -, -, -, -, -, hretire⟩ := h ⟨claimingDev, []⟩ claimingDev_ready claimingDev_calm
  obtain ⟨t, hnext, -, hretired⟩ := hretire 0 2 0 rfl (by decide) rfl (by simp [claimingDev_blockFree]) (by simp [claimingDev_blockFree])
  obtain ⟨-, hfirst⟩ := hretired claimingDev_journalQuiet
  obtain ⟨l, hbodies⟩ := hfirst claimingDev_journalQuiet
  obtain ⟨u, hu, hpruned⟩ := blockRetire_claimingDev
  rw [hnext] at hu
  injection hu with htu
  have hlength := congrArg List.length hbodies
  have hbefore : claimingDev.stg.journal.length = 2 := rfl
  simp only [List.length_map, List.length_append, List.length_cons, htu, hpruned, hbefore] at hlength
  omega

end Sys2Proof.Proofs

/-!
PROOFS. O38 is refuted: its clause on answered FENCE_READs says that the command's tag is free when the command ends. A head that has won
its claim without reaching a member claims the member as its lane returns (R514): the fence word that the response brings is claimed at once,
by a FENCE_CAS that takes the lowest free tag (R399), and that is the tag the FENCE_READ has just left.
-/

namespace Sys2Proof.Proofs

open Sys2Proof Sys2Proof.Machine

/-- A FENCE_READ that the module has answered: each head may write. -/
def fenceReadAnswered : LaneCmd := { opcode := 0x04, use := .fenceRead, rsp := some { status := 0, value := 3 } }

/-- This head has won its claim without reaching member 3, whose lane is UP again with credits for 16 commands; the FENCE_READ holds tag 0. -/
def memberBackDev : Dev :=
  wr (Reg.MDL_LANE_STATE 3) 4 { ({} : Dev) with
    lanes12 := [(3, { cmds := [(0, fenceReadAnswered)], cmdCred := ⟨16, 2 ^ 32 - 17⟩ })]
    cas.declared := some (0, 1)
    cas.won := true
    cas.claims := [(3, { st := .unreached })] }

theorem memberBackDev_ready : (State.mk memberBackDev []).ready := by decide +kernel
theorem memberBackDev_outstanding : (getLink 3 memberBackDev).cmds.find? (fun c => c.1 == 0) = some (0, fenceReadAnswered) := by
  decide +kernel
theorem memberBackDev_tagLives : 0 ∉ (getLink 3 memberBackDev).dead := by decide +kernel

/-- MDL_RESPONSE ends the FENCE_READ, and a command holds tag 0 again: the claim's FENCE_CAS. -/
theorem mdlResponse_memberBackDev :
    ∃ t, exec (.mdlResponse 3 0 none) ⟨memberBackDev, []⟩ = .next t ∧ (getLink 3 t.dev).cmds.all (fun c => c.1 != 0) = false :=
  ⟨_, rfl, by decide +kernel⟩

/-- Refutes O38: it asks that no command hold the tag of a FENCE_READ once its response has completed it, whether or not the head owes the
member a claim. On `memberBackDev` the claim goes out on that tag before the command ends. -/
theorem not_modulesExecuteAndAnswer : ¬ Obligations.ModulesExecuteAndAnswer := by
  unfold Obligations.ModulesExecuteAndAnswer
  intro h
  obtain ⟨-, -, hcommand, -⟩ := h ⟨memberBackDev, []⟩ 3 memberBackDev_ready
  obtain ⟨hresponse, -⟩ := hcommand 0 fenceReadAnswered memberBackDev_outstanding
  obtain ⟨huse, -⟩ := hresponse { status := 0, value := 3 } memberBackDev_tagLives rfl
  obtain ⟨-, -, hfenceRead, -⟩ := huse (by decide) none rfl
  obtain ⟨t, hnext, -, hfree, -⟩ := hfenceRead rfl
  obtain ⟨u, hu, hheld⟩ := mdlResponse_memberBackDev
  rw [hnext] at hu
  injection hu with htu
  rw [htu] at hfree
  exact absurd (hfree.symm.trans hheld) (by decide)

end Sys2Proof.Proofs

/-!
PROOFS. O36, what a scrub of a row leaves: reading its columns may retire a block, queue a segment and raise a Check, whose escalation sets
off any reaction. None of these moves the scrub's pass or its rows: one frame lemma for each function that they or a reaction runs, in
the order of the model, so that each rests on those before it.
-/

namespace Sys2Proof.Proofs

open Sys2Proof Sys2Proof.Machine

/-! ### What is kept -/

/-- The pass of the retention scrub, and by segment the row that it reads next (R374). -/
def scrubState (d : Dev) : Nat × Tab Nat := (d.ftl.scrubPass, d.ftl.scrubRow)

/-! The lemmas of this part are tagged `simp ↓`: a nested update is peeled from the outside, before `simp` looks at its arguments. -/

@[simp ↓] theorem scrubState_mk (d : Dev) (regs mem free out intrSent pins flt scr pwr tmp fab engines king l2s taskRings cas todo nv sxc fwu
    seals accels cmpStreams keys fiu front md stg lanes12 outside oimCfg repl cdt) :
    scrubState (Dev.mk regs mem free out intrSent pins flt scr pwr tmp fab engines king l2s taskRings cas todo nv sxc fwu seals accels
      cmpStreams keys fiu front md stg lanes12 d.ftl outside oimCfg repl cdt) = scrubState d := by
  simp only [scrubState]

@[simp ↓] theorem scrubState_mk_ftl (d : Dev) (regs mem free out intrSent pins flt scr pwr tmp fab engines king l2s taskRings cas todo nv sxc
    fwu seals accels cmpStreams keys fiu front md stg lanes12 outside oimCfg repl cdt)
    (gate reloc relocRows gcRow dirty steps armed groups flushSeq ttFrom flush declare rebuild news rate given ckpt gcPools noParity
      sideBlocks closing eraseAgain) :
    scrubState (Dev.mk regs mem free out intrSent pins flt scr pwr tmp fab engines king l2s taskRings cas todo nv sxc fwu seals accels
      cmpStreams keys fiu front md stg lanes12
      (Ftl.mk gate reloc relocRows gcRow dirty steps d.ftl.scrubRow armed groups flushSeq ttFrom flush declare rebuild news rate given ckpt
        gcPools d.ftl.scrubPass noParity sideBlocks closing eraseAgain)
      outside oimCfg repl cdt) = scrubState d := by
  simp only [scrubState]

@[simp ↓] theorem scrubState_ite (p : Prop) {_ : Decidable p} (d e : Dev) :
    scrubState (if p then d else e) = if p then scrubState d else scrubState e :=
  apply_ite scrubState p d e

@[simp ↓] theorem scrubState_ite_snd {α : Type} (p : Prop) {_ : Decidable p} (x y : α × Dev) :
    scrubState (if p then x else y).2 = if p then scrubState x.2 else scrubState y.2 := by
  split <;> rfl

theorem scrubState_of_ite {p : Prop} {_ : Decidable p} {d e g : Dev} (hd : scrubState d = scrubState g) (he : scrubState e = scrubState g) :
    scrubState (if p then d else e) = scrubState g := by
  split <;> assumption

theorem scrubState_snd {α : Type} {p : α × Dev} {a : α} {e : Dev} (h : p = (a, e)) : scrubState e = scrubState p.2 := by rw [h]

/-! ### Writes of registers, free values and loops -/

@[simp ↓] theorem scrubState_wr (f : Field) (v : Nat) (d : Dev) : scrubState (wr f v d) = scrubState d := by
  simp [wr]

@[simp ↓] theorem scrubState_setb (f : Field) (d : Dev) : scrubState (setb f d) = scrubState d := scrubState_wr f _ d

@[simp ↓] theorem scrubState_clr (f : Field) (d : Dev) : scrubState (clr f d) = scrubState d := scrubState_wr f _ d

@[simp ↓] theorem scrubState_drawNat (n : Nat) (d : Dev) : scrubState (drawNat n d).2 = scrubState d := by simp [drawNat]

@[simp ↓] theorem scrubState_drawBytes (n : Nat) (d : Dev) : scrubState (drawBytes n d).2 = scrubState d := by simp [drawBytes]

@[simp ↓] theorem scrubState_pickFree (l : List Nat) (d : Dev) : scrubState (pickFree l d).2 = scrubState d := by
  unfold pickFree
  split <;> simp

@[simp ↓] theorem scrubState_bumpBy (f : Field) (n : Nat) (d : Dev) : scrubState (bumpBy f n d) = scrubState d := by
  simp [bumpBy]

@[simp ↓] theorem scrubState_bump (f : Field) (d : Dev) :
    scrubState (bump f d) = scrubState d := scrubState_bumpBy f 1 d

@[simp ↓] theorem scrubState_bumpSat (f : Field) (n : Nat) (d : Dev) : scrubState (bumpSat f n d) = scrubState d :=
  scrubState_wr f _ d

@[simp ↓] theorem scrubState_setBit (f : Field) (n : Nat) (d : Dev) : scrubState (setBit f n d) = scrubState d := by
  simp [setBit]

@[simp ↓] theorem scrubState_clrBit (f : Field) (n : Nat) (d : Dev) : scrubState (clrBit f n d) = scrubState d := by
  simp [clrBit]

@[simp ↓] theorem scrubState_forEach (l : List Nat) (f : Nat → Dev → Dev) (d : Dev) (h : ∀ n e, scrubState (f n e) = scrubState e) :
    scrubState (forEach l f d) = scrubState d := forEach_keeps scrubState f h l d

@[simp ↓] theorem scrubState_foldl {α : Type} (l : List α) (f : Dev → α → Dev) (d : Dev) (h : ∀ e a, scrubState (f e a) = scrubState e) :
    scrubState (l.foldl f d) = scrubState d := by
  induction l generalizing d with
  | nil => rfl
  | cons a r ih => exact (ih _).trans (h d a)

@[simp ↓] theorem scrubState_foldl_snd {α β : Type} (l : List α) (f : β × Dev → α → β × Dev) (p : β × Dev)
    (h : ∀ q a, scrubState (f q a).2 = scrubState q.2) : scrubState (l.foldl f p).2 = scrubState p.2 := by
  induction l generalizing p with
  | nil => rfl
  | cons a r ih => exact (ih _).trans (h p a)

/-! ### Free values, choices and outputs -/

@[simp ↓] theorem scrubState_send (o : Out) (d : Dev) : scrubState (send o d) = scrubState d := by
  dsimp only [send]; simp

@[simp ↓] theorem scrubState_sendAll (l : List Out) (d : Dev) : scrubState (sendAll l d) = scrubState d := by
  dsimp only [sendAll]; simp

/-! ### Memory: the pool and DRAM (R99) -/

@[simp ↓] theorem scrubState_memWrite (a : Nat) (l : Bytes) (d : Dev) : scrubState (memWrite a l d) = scrubState d := by
  simp [scrubState]

/-! ### Records -/

@[simp ↓] theorem scrubState_writeRecord (r : ScoreRecord) (d : Dev) : scrubState (writeRecord r d) = scrubState d := by
  dsimp only [writeRecord]; simp

@[simp ↓] theorem scrubState_countLost (d : Dev) : scrubState (countLost d) = scrubState d := by
  dsimp only [countLost]; simp

@[simp ↓] theorem scrubState_holdRecord (r : ScoreRecord) (d : Dev) : scrubState (holdRecord r d) = scrubState d := by
  dsimp only [holdRecord]
  simp
  split <;> simp

@[simp ↓] theorem scrubState_recordEvent (cls : EvClass) (code unit data0 data1 : Nat) (escalated : Bool) (d : Dev) :
    scrubState (recordEvent cls code unit data0 data1 escalated d) = scrubState d := by
  dsimp only [recordEvent]; simp

/-! ### The four classes -/

@[simp ↓] theorem scrubState_notice (code unit data0 data1 : Nat) (d : Dev) :
    scrubState (notice code unit data0 data1 d) = scrubState d := by
  dsimp only [notice]; simp

@[simp ↓] theorem scrubState_raiseD (code unit data0 data1 : Nat) (escalated : Bool) (d : Dev) :
    scrubState (raiseD code unit data0 data1 escalated d) = scrubState d := by
  dsimp only [raiseD]
  simp
  split
  · simp
  · split
    next hpick => simp [scrubState_snd hpick]
    next hpick => simp [scrubState_snd hpick]

@[simp ↓] theorem scrubState_closeChk (k : Nat) (d : Dev) : scrubState (closeChk k d) = scrubState d := by
  dsimp only [closeChk]; simp

@[simp ↓] theorem scrubState_openData (code : Nat) (d : Dev) : scrubState (openData code d).2.2 = scrubState d := by
  dsimp only [openData]
  split <;> simp

@[simp ↓] theorem scrubState_escalateChk (k : Nat) (d : Dev) : scrubState (escalateChk k d) = scrubState d := by
  dsimp only [escalateChk]; simp

@[simp ↓] theorem scrubState_openChk (k code unit : Nat) (d : Dev) : scrubState (openChk k code unit d) = scrubState d := by
  dsimp only [openChk]
  simp

@[simp ↓] theorem scrubState_raiseC (code unit data0 data1 : Nat) (d : Dev) :
    scrubState (raiseC code unit data0 data1 d) = scrubState d := by
  dsimp only [raiseC]
  simp
  split
  · simp
  · split
    next hpick => simp [scrubState_snd hpick]
    next hpick => simp [scrubState_snd hpick]

/-! ### Paired values (R554, R591) -/

@[simp ↓] theorem scrubState_mkPaired (w cls v : Nat) (d : Dev) : scrubState (mkPaired w cls v d).2 = scrubState d := by
  dsimp only [mkPaired]
  split <;> simp

/-! ### Interrupts (R625–R627) -/

@[simp ↓] theorem scrubState_msixSend (v : Nat) (d : Dev) : scrubState (msixSend v d) = scrubState d := by
  dsimp only [msixSend]; simp

@[simp ↓] theorem scrubState_settle (d : Dev) : scrubState (settle d) = scrubState d := by
  dsimp only [settle]; simp

/-! ### Stores -/

@[simp ↓] theorem scrubState_injectStore (addr len : Nat) (d : Dev) : scrubState (injectStore addr len d) = scrubState d := by
  dsimp only [injectStore]
  simp
  split <;> simp

@[simp ↓] theorem scrubState_storeMem (addr : Nat) (b : Bytes) (d : Dev) : scrubState (storeMem addr b d) = scrubState d := by
  dsimp only [storeMem]; simp

@[simp ↓] theorem scrubState_storeNat (addr n v : Nat) (d : Dev) : scrubState (storeNat addr n v d) = scrubState d := by
  dsimp only [storeNat]; simp

/-! ### Requests and holds of tokens -/

@[simp ↓] theorem scrubState_endHold (who : TokWho) (cls : Nat) (d : Dev) : scrubState (endHold who cls d) = scrubState d := by
  dsimp only [endHold]; simp

/-! ### Seals -/

@[simp ↓] theorem scrubState_sealViolation (k addr : Nat) (d : Dev) : scrubState (sealViolation k addr d) = scrubState d := by
  dsimp only [sealViolation]; simp

@[simp ↓] theorem scrubState_showSeals (d : Dev) : scrubState (showSeals d) = scrubState d := by
  dsimp only [showSeals]; simp

@[simp ↓] theorem scrubState_takeSeal (base len lane : Nat) (d : Dev) : scrubState (takeSeal base len lane d).2 = scrubState d := by
  dsimp only [takeSeal]
  split <;> simp

@[simp ↓] theorem scrubState_dropSeal (k : Nat) (zero : Bool) (d : Dev) : scrubState (dropSeal k zero d) = scrubState d := by
  dsimp only [dropSeal]; simp

/-! ### Lanes, rings and descriptors -/

@[simp ↓] theorem scrubState_modAccel (k : Nat) (f : Accel → Accel) (d : Dev) : scrubState (modAccel k f d) = scrubState d := by
  dsimp only [modAccel]; simp

@[simp ↓] theorem scrubState_modLane (k n : Nat) (f : Lane → Lane) (d : Dev) : scrubState (modLane k n f d) = scrubState d := by
  dsimp only [modLane]; simp

@[simp ↓] theorem scrubState_showBusy (k : Nat) (d : Dev) : scrubState (showBusy k d) = scrubState d := by
  dsimp only [showBusy]; simp

@[simp ↓] theorem scrubState_sealFor (k n r i : Nat) (d : Dev) : scrubState (sealFor k n r i d) = scrubState d := by
  dsimp only [sealFor]; simp

@[simp ↓] theorem scrubState_takeJob (k n : Nat) (d : Dev) : scrubState (takeJob k n d) = scrubState d := by
  dsimp only [takeJob]
  refine scrubState_of_ite rfl ?_
  split
  · rfl
  · split
    · simp
    · split <;> simp

@[simp ↓] theorem scrubState_advanceCons (k r m : Nat) (d : Dev) : scrubState (advanceCons k r m d) = scrubState d := by
  induction m generalizing d with
  | zero => rfl
  | succ m ih => rw [advanceCons]; simp [ih]

@[simp ↓] theorem scrubState_ringDone (unit mask : Nat) (d : Dev) : scrubState (ringDone unit mask d) = scrubState d := by
  dsimp only [ringDone]; simp

@[simp ↓] theorem scrubState_finishDesc (k r idx status xflags : Nat) (rest : Bytes) (d : Dev) :
    scrubState (finishDesc k r idx status xflags rest d) = scrubState d := by
  dsimp only [finishDesc]; simp

@[simp ↓] theorem scrubState_endJob (k n status xflags : Nat) (rest : Bytes) (d : Dev) :
    scrubState (endJob k n status xflags rest d) = scrubState d := by
  dsimp only [endJob]
  split <;> simp

/-! ### Memory as a lane sees it -/

@[simp ↓] theorem scrubState_laneWrite (k addr : Nat) (b : Bytes) (d : Dev) : scrubState (laneWrite k addr b d) = scrubState d := by
  dsimp only [laneWrite]
  split <;> simp

@[simp ↓] theorem scrubState_zeroise (k addr len : Nat) (d : Dev) : scrubState (zeroise k addr len d) = scrubState d := by
  dsimp only [zeroise]; simp

/-! ### A job that ends CHECK_FAIL -/

@[simp ↓] theorem scrubState_drawUpTo (n : Nat) (d : Dev) : scrubState (drawUpTo n d).2 = scrubState d := by
  dsimp only [drawUpTo]; simp

@[simp ↓] theorem scrubState_endStream (k : Nat) (b : Bytes) (d : Dev) : scrubState (endStream k b d) = scrubState d := by
  dsimp only [endStream]
  split <;> simp

@[simp ↓] theorem scrubState_abandon (k : Nat) (b : Bytes) (most : Nat) (d : Dev) : scrubState (abandon k b most d).2 = scrubState d := by
  dsimp only [abandon]
  split <;> simp

/-! ### Quarantine -/

@[simp ↓] theorem scrubState_breakSeal (z : Option Nat) (d : Dev) : scrubState (breakSeal z d) = scrubState d := by
  dsimp only [breakSeal]
  split <;> simp

@[simp ↓] theorem scrubState_abandonJob (k r i : Nat) (z : Option Nat) (d : Dev) :
    scrubState (abandonJob k r i z d).2 = scrubState d := by
  dsimp only [abandonJob]; simp

@[simp ↓] theorem scrubState_quarantineLane (k n : Nat) (d : Dev) : scrubState (quarantineLane k n d) = scrubState d := by
  dsimp only [quarantineLane]
  simp
  intro _
  split <;> simp

/-! ### Pipelines (R98) -/

@[simp ↓] theorem scrubState_dropPipe (k : Nat) (w : PipeFor) (d : Dev) : scrubState (dropPipe k w d) = scrubState d := by
  dsimp only [dropPipe]; simp

@[simp ↓] theorem scrubState_dropPipes (w : PipeFor) (d : Dev) : scrubState (dropPipes w d) = scrubState d := by
  dsimp only [dropPipes]; simp

/-! ### Engines and their links -/

@[simp ↓] theorem scrubState_showEngine (e : Nat) (d : Dev) : scrubState (showEngine e d) = scrubState d := by
  dsimp only [showEngine]; simp

@[simp ↓] theorem scrubState_quarantineEngine (e : Nat) (d : Dev) : scrubState (quarantineEngine e d) = scrubState d := by
  dsimp only [quarantineEngine]; simp

@[simp ↓] theorem scrubState_oweResign (cause : Nat) (d : Dev) : scrubState (oweResign cause d) = scrubState d := by
  dsimp only [oweResign]; simp

@[simp ↓] theorem scrubState_castleTest (code unit : Nat) (d : Dev) : scrubState (castleTest code unit d) = scrubState d := by
  dsimp only [castleTest]; simp

@[simp ↓] theorem scrubState_quarantine (unit : Nat) (d : Dev) : scrubState (quarantine unit d) = scrubState d := by
  dsimp only [quarantine]
  split <;> simp

/-! ### The Security Policy Table (R554) -/

@[simp ↓] theorem scrubState_sptRead (e : SptEntry) (d : Dev) : scrubState (sptRead e d).2 = scrubState d := by
  dsimp only [sptRead]
  split <;> simp

@[simp ↓] theorem scrubState_sptDomain (n : Nat) (d : Dev) : scrubState (sptDomain n d).2 = scrubState d := by
  dsimp only [sptDomain]; simp

/-! ### The wrapped key table (Table 9.9) -/

@[simp ↓] theorem scrubState_keyPaired (index : Nat) (p : Paired) (d : Dev) : scrubState (keyPaired index p d) = scrubState d := by
  dsimp only [keyPaired]; simp

@[simp ↓] theorem scrubState_readWkt (n : Nat) (d : Dev) : scrubState (readWkt n d).2 = scrubState d := by
  dsimp only [readWkt]
  split <;> simp

@[simp ↓] theorem scrubState_readIkt (n : Nat) (d : Dev) : scrubState (readIkt n d).2 = scrubState d := by
  dsimp only [readIkt]
  split <;> simp

/-! ### Loads (R308) -/

@[simp ↓] theorem scrubState_findKey (source index gen : Nat) (d : Dev) : scrubState (findKey source index gen d).2 = scrubState d := by
  dsimp only [findKey]
  split
  · split
    · simp [scrubState_snd ‹readWkt _ _ = _›]
    · have hread := scrubState_snd ‹readWkt _ _ = _›
      split
      · simp [hread]
      · split
        · simp [hread]
        · split <;> simp [hread]
  · split
    · rfl
    · split
      · simp [scrubState_snd ‹readIkt _ _ = _›]
      · split <;> simp [scrubState_snd ‹readIkt _ _ = _›]
  · split
    · rfl
    · split <;> simp
  · rfl

@[simp ↓] theorem scrubState_checkSlots (kind index gen : Nat) (d : Dev) : scrubState (checkSlots kind index gen d) = scrubState d := by
  dsimp only [checkSlots]; simp

@[simp ↓] theorem scrubState_useKey (source index gen : Nat) (d : Dev) : scrubState (useKey source index gen d).2 = scrubState d := by
  dsimp only [useKey]
  split <;> simp

/-! ### Granule IDs (Table 6.2) and their entries -/

@[simp ↓] theorem scrubState_touchPage (kind idx : Nat) (d : Dev) : scrubState (touchPage kind idx d) = scrubState d := by
  dsimp only [touchPage]; simp

@[simp ↓] theorem scrubState_putGte (g : Nat) (e : Gte) (d : Dev) : scrubState (putGte g e d) = scrubState d := by
  dsimp only [putGte]; simp

@[simp ↓] theorem scrubState_modSeg (s : Nat) (f : Seg → Seg) (d : Dev) : scrubState (modSeg s f d) = scrubState d := by
  dsimp only [modSeg]; simp

@[simp ↓] theorem scrubState_addLive (s n : Nat) (d : Dev) : scrubState (addLive s n d) = scrubState d := by
  dsimp only [addLive]; simp

@[simp ↓] theorem scrubState_subLive (s n : Nat) (d : Dev) : scrubState (subLive s n d) = scrubState d := by
  dsimp only [subLive]; simp

@[simp ↓] theorem scrubState_modBlk (member block : Nat) (f : Blk → Blk) (d : Dev) :
    scrubState (modBlk member block f d) = scrubState d := by
  dsimp only [modBlk]; simp

@[simp ↓] theorem scrubState_doubt (g : Nat) (d : Dev) : scrubState (doubt g d) = scrubState d := by
  dsimp only [doubt]; simp

@[simp ↓] theorem scrubState_modPool (p : Nat) (f : Pool → Pool) (d : Dev) : scrubState (modPool p f d) = scrubState d := by
  dsimp only [modPool]; simp

@[simp ↓] theorem scrubState_modNs (n : Nat) (f : Ns → Ns) (d : Dev) : scrubState (modNs n f d) = scrubState d := by
  dsimp only [modNs]; simp

@[simp ↓] theorem scrubState_modSnap (nsid sseq : Nat) (f : Snap → Snap) (d : Dev) :
    scrubState (modSnap nsid sseq f d) = scrubState d := by
  dsimp only [modSnap]; simp

@[simp ↓] theorem scrubState_modSlot (n : Nat) (f : Slot → Slot) (d : Dev) : scrubState (modSlot n f d) = scrubState d := by
  dsimp only [modSlot]; simp

@[simp ↓] theorem scrubState_enterRetiring (g : Nat) (d : Dev) : scrubState (enterRetiring g d) = scrubState d := by
  dsimp only [enterRetiring]; simp

@[simp ↓] theorem scrubState_auditDelta (g : Nat) (n : Int) (d : Dev) : scrubState (auditDelta g n d) = scrubState d := by
  dsimp only [auditDelta]
  split
  next a haudit =>
    split
    · simp [scrubState]
    · rfl
  next => rfl

@[simp ↓] theorem scrubState_showLoss (d : Dev) : scrubState (showLoss d) = scrubState d := by
  dsimp only [showLoss]; simp

@[simp ↓] theorem scrubState_addLoss (e : LossEntry) (d : Dev) : scrubState (addLoss e d) = scrubState d := by
  dsimp only [addLoss]
  split <;> simp

@[simp ↓] theorem scrubState_clearLoss (g : Nat) (d : Dev) : scrubState (clearLoss g d) = scrubState d := by
  dsimp only [clearLoss]; simp

@[simp ↓] theorem scrubState_dropRef (g : Nat) (d : Dev) : scrubState (dropRef g d) = scrubState d := by
  dsimp only [dropRef]; simp

@[simp ↓] theorem scrubState_retireLast (g : Nat) (d : Dev) : scrubState (retireLast g d) = scrubState d := by
  dsimp only [retireLast]; simp

@[simp ↓] theorem scrubState_takeRef (g : Nat) (d : Dev) : scrubState (takeRef g d) = scrubState d := by
  dsimp only [takeRef]; simp

@[simp ↓] theorem scrubState_releaseGid (own : Bool) (tsn g : Nat) (d : Dev) : scrubState (releaseGid own tsn g d) = scrubState d := by
  dsimp only [releaseGid]; simp

/-! ### The namespace map (R184, R185, R437–R444) -/

@[simp ↓] theorem scrubState_putNode (n : Nat) (x : Node) (d : Dev) : scrubState (putNode n x d) = scrubState d := by
  dsimp only [putNode]; simp

@[simp ↓] theorem scrubState_newNode (h : Nat) (d : Dev) : scrubState (newNode h d).2 = scrubState d := by
  dsimp only [newNode]; simp

@[simp ↓] theorem scrubState_mapSet (h : Nat) (repl : List Nat) (sq g : Nat) (tags : Bytes) (m w : Nat) (c : Copied) (d : Dev) :
    scrubState (mapSet h repl sq g tags m w c d).2.2 = scrubState d := by
  induction m generalizing w c d with
  | zero => rfl
  | succ m ih =>
    rw [mapSet]
    dsimp only
    split
    all_goals
      simp [ih]
      split
      · simp
      · split
        · simp
        · rfl

/-! ### Roots and lineage (R437–R451) -/

@[simp ↓] theorem scrubState_addSucc (p : Nat × Nat) (d : Dev) : scrubState (addSucc p d) = scrubState d := by
  dsimp only [addSucc]; simp

@[simp ↓] theorem scrubState_subSucc (p : Nat × Nat) (d : Dev) : scrubState (subSucc p d) = scrubState d := by
  dsimp only [subSucc]; simp

@[simp ↓] theorem scrubState_applyCut (s : Snap) (d : Dev) : scrubState (applyCut s d) = scrubState d := by
  dsimp only [applyCut]; simp

@[simp ↓] theorem scrubState_applyGone (nsid sseq : Nat) (d : Dev) : scrubState (applyGone nsid sseq d) = scrubState d := by
  dsimp only [applyGone]
  split <;> simp

@[simp ↓] theorem scrubState_applyUnshare (nsid page sub : Nat) (d : Dev) : scrubState (applyUnshare nsid page sub d) = scrubState d := by
  dsimp only [applyUnshare]; simp

@[simp ↓] theorem scrubState_putMask (nsid sq mask : Nat) (d : Dev) : scrubState (putMask nsid sq mask d) = scrubState d := by
  dsimp only [putMask]; simp

/-! ### Applying journal records (R221, R222, R362, R366, R369) -/

@[simp ↓] theorem scrubState_freeSlot (n : Nat) (d : Dev) : scrubState (freeSlot n d) = scrubState d := by
  dsimp only [freeSlot]; simp

@[simp ↓] theorem scrubState_entrySlot (own : Bool) (slot : Option Nat) (nsid sq tsn : Nat) (d : Dev) :
    scrubState (entrySlot own slot nsid sq tsn d) = scrubState d := by
  dsimp only [entrySlot]
  split <;> simp

@[simp ↓] theorem scrubState_releaseOld (own : Bool) (r : JRecord) (g : Nat) (d : Dev) :
    scrubState (releaseOld own r g d) = scrubState d := by
  dsimp only [releaseOld]
  split <;> simp

@[simp ↓] theorem scrubState_applyRekey (own : Bool) (r : JRecord) (e : SqEntry) (d : Dev) :
    scrubState (applyRekey own r e d) = scrubState d := by
  dsimp only [applyRekey]
  simp
  split <;> simp

@[simp ↓] theorem scrubState_applySquare (own : Bool) (r : JRecord) (repl : List Nat) (e : SqEntry) (acc : Copied × Dev) :
    scrubState (applySquare own r repl e acc).2 = scrubState acc.2 := by
  dsimp only [applySquare]
  split
  · simp
    split <;> simp
  · split
    · dsimp only
      split <;> simp
    all_goals simp

@[simp ↓] theorem scrubState_applySquares (own : Bool) (r : JRecord) (es : List SqEntry) (d : Dev) :
    scrubState (applySquares own r es d) = scrubState d := by
  dsimp only [applySquares]; simp

@[simp ↓] theorem scrubState_applyMove (m : Nat × (Nat × Nat × Nat) × (Nat × Nat × Nat)) (d : Dev) :
    scrubState (applyMove m d) = scrubState d := by
  dsimp only [applyMove]; simp

@[simp ↓] theorem scrubState_applyPinDrop (g : Nat) (d : Dev) : scrubState (applyPinDrop g d) = scrubState d := by
  dsimp only [applyPinDrop]; simp

@[simp ↓] theorem scrubState_applyPageMap (m : Nat × Nat × Nat) (d : Dev) : scrubState (applyPageMap m d) = scrubState d := by
  dsimp only [applyPageMap]; simp

@[simp ↓] theorem scrubState_applyClose (seg rows : Nat) (short : Bool) (tempo : Nat) (d : Dev) :
    scrubState (applyClose seg rows short tempo d) = scrubState d := by
  dsimp only [applyClose]; simp

@[simp ↓] theorem scrubState_segBlocks (g : Seg) (f : Blk → Blk) (d : Dev) : scrubState (segBlocks g f d) = scrubState d := by
  dsimp only [segBlocks]; simp

@[simp ↓] theorem scrubState_applyNews (x : PageNews) (d : Dev) : scrubState (applyNews x d) = scrubState d := by
  dsimp only [applyNews]
  split <;> simp

@[simp ↓] theorem scrubState_applyRecord (r : JRecord) (d : Dev) : scrubState (applyRecord r d) = scrubState d := by
  dsimp only [applyRecord]
  simp
  split <;> simp

@[simp ↓] theorem scrubState_applyPeerRecords (m : Nat) (d : Dev) : scrubState (applyPeerRecords m d) = scrubState d := by
  induction m generalizing d with
  | zero => rfl
  | succ m ih =>
    rw [applyPeerRecords]
    split
    · rfl
    · simp [ih]

@[simp ↓] theorem scrubState_catchUp (d : Dev) : scrubState (catchUp d) = scrubState d := by
  dsimp only [catchUp]; simp

/-! ### Pauses (R158, R178, R181, R193) -/

@[simp ↓] theorem scrubState_modPort (p : Nat) (f : HostPort → HostPort) (d : Dev) : scrubState (modPort p f d) = scrubState d := by
  dsimp only [modPort]; simp

@[simp ↓] theorem scrubState_setPause (p cause mask : Nat) (d : Dev) : scrubState (setPause p cause mask d) = scrubState d := by
  dsimp only [setPause]; simp

@[simp ↓] theorem scrubState_pauseAll (cause mask : Nat) (d : Dev) : scrubState (pauseAll cause mask d) = scrubState d := by
  dsimp only [pauseAll]; simp

/-! ### The context-miss buffers (R26, R158) -/

@[simp ↓] theorem scrubState_showMiss (p : Nat) (d : Dev) : scrubState (showMiss p d) = scrubState d := by
  dsimp only [showMiss]; simp

@[simp ↓] theorem scrubState_missXon (p : Nat) (d : Dev) : scrubState (missXon p d) = scrubState d := by
  dsimp only [missXon]; simp

/-! ### Command records (Table 16.1, R501, R502) -/

@[simp ↓] theorem scrubState_modFc (n : Nat) (f : FrontCmd → FrontCmd) (d : Dev) : scrubState (modFc n f d) = scrubState d := by
  dsimp only [modFc]; simp

@[simp ↓] theorem scrubState_endCmd (n kind : Nat) (d : Dev) : scrubState (endCmd n kind d) = scrubState d := by
  dsimp only [endCmd]; simp

@[simp ↓] theorem scrubState_hostOut (c : HostCmd) (own : Out) (a : PeerAnswer) (d : Dev) :
    scrubState (hostOut c own a d) = scrubState d := by
  dsimp only [hostOut]; simp

@[simp ↓] theorem scrubState_sendData (c : HostCmd) (off : Nat) (b : Bytes) (d : Dev) :
    scrubState (sendData c off b d) = scrubState d := by
  dsimp only [sendData]; simp

@[simp ↓] theorem scrubState_postCompletion (n : Nat) (d : Dev) : scrubState (postCompletion n d) = scrubState d := by
  dsimp only [postCompletion]
  split <;> simp

@[simp ↓] theorem scrubState_complete (n st : Nat) (dnr : Bool) (d : Dev) : scrubState (complete n st dnr d) = scrubState d := by
  dsimp only [complete]; simp

/-! ### Slots (R190–R196) -/

@[simp ↓] theorem scrubState_showTight (d : Dev) : scrubState (showTight d) = scrubState d := by
  dsimp only [showTight]; simp

/-! ### Formats (Table 5.7, R163) -/

@[simp ↓] theorem scrubState_modWork (n : Nat) (f : Work → Work) (d : Dev) : scrubState (modWork n f d) = scrubState d := by
  dsimp only [modWork]; simp

@[simp ↓] theorem scrubState_awaitPeer (n : Nat) (d : Dev) : scrubState (awaitPeer n d) = scrubState d := by
  dsimp only [awaitPeer]; simp

@[simp ↓] theorem scrubState_packSlot (n action gid : Nat) (d : Dev) : scrubState (packSlot n action gid d) = scrubState d := by
  dsimp only [packSlot]; simp

@[simp ↓] theorem scrubState_issueAdd (n g expect_ swaps : Nat) (d : Dev) : scrubState (issueAdd n g expect_ swaps d) = scrubState d := by
  dsimp only [issueAdd]; simp

@[simp ↓] theorem scrubState_slotWritten (n : Nat) (d : Dev) : scrubState (slotWritten n d) = scrubState d := by
  dsimp only [slotWritten]
  simp
  split <;> simp

@[simp ↓] theorem scrubState_makeDurable (n : Nat) (d : Dev) : scrubState (makeDurable n d) = scrubState d := by
  dsimp only [makeDurable]
  simp
  split <;> simp

@[simp ↓] theorem scrubState_durableAlone (d : Dev) : scrubState (durableAlone d) = scrubState d := by
  dsimp only [durableAlone]; simp

@[simp ↓] theorem scrubState_abandonFrame (n : Nat) (d : Dev) : scrubState (abandonFrame n d) = scrubState d := by
  dsimp only [abandonFrame]; simp

@[simp ↓] theorem scrubState_backToDurable (n : Nat) (d : Dev) : scrubState (backToDurable n d) = scrubState d := by
  dsimp only [backToDurable]; simp

@[simp ↓] theorem scrubState_freeSlots (n : Nat) (d : Dev) : scrubState (freeSlots n d) = scrubState d := by
  dsimp only [freeSlots]; simp

/-! ### The row journal (R221, R225) -/

@[simp ↓] theorem scrubState_applyOwn (m : Nat) (d : Dev) : scrubState (applyOwn m d) = scrubState d := by
  induction m generalizing d with
  | zero => rfl
  | succ m ih =>
    rw [applyOwn]
    split
    · simp [ih]
    · rfl

@[simp ↓] theorem scrubState_commitReady (d : Dev) : scrubState (commitReady d) = scrubState d := by
  dsimp only [commitReady]; simp

@[simp ↓] theorem scrubState_postNews (nsid : Nat) (body : JBody) (news : List PageNews) (d : Dev) :
    scrubState (postNews nsid body news d) = scrubState d := by
  dsimp only [postNews]; simp

@[simp ↓] theorem scrubState_postRecord (nsid : Nat) (body : JBody) (d : Dev) : scrubState (postRecord nsid body d) = scrubState d := by
  dsimp only [postRecord]; simp

/-! ### Teardown of a context (R166, R168) -/

@[simp ↓] theorem scrubState_stopReads (n : Nat) (d : Dev) : scrubState (stopReads n d) = scrubState d := by
  dsimp only [stopReads]; simp

@[simp ↓] theorem scrubState_tearCmd (n : Nat) (d : Dev) : scrubState (tearCmd n d) = scrubState d := by
  dsimp only [tearCmd]
  simp
  split <;> simp

@[simp ↓] theorem scrubState_showCtx (d : Dev) : scrubState (showCtx d) = scrubState d := by
  dsimp only [showCtx]; simp

@[simp ↓] theorem scrubState_closeCtx (c : Nat) (d : Dev) : scrubState (closeCtx c d) = scrubState d := by
  dsimp only [closeCtx]; simp

@[simp ↓] theorem scrubState_emptyFwBuf (d : Dev) : scrubState (emptyFwBuf d) = scrubState d := by
  dsimp only [emptyFwBuf]; simp

@[simp ↓] theorem scrubState_teardown (c : Nat) (d : Dev) : scrubState (teardown c d) = scrubState d := by
  dsimp only [teardown]; simp

@[simp ↓] theorem scrubState_portTeardown (p : Nat) (d : Dev) : scrubState (portTeardown p d) = scrubState d := by
  dsimp only [portTeardown]; simp

/-! ### Lanes of the flash modules -/

@[simp ↓] theorem scrubState_modLink (n : Nat) (f : Lane12 → Lane12) (d : Dev) : scrubState (modLink n f d) = scrubState d := by
  dsimp only [modLink]; simp

@[simp ↓] theorem scrubState_modMod (n : Nat) (f : Module → Module) (d : Dev) : scrubState (modMod n f d) = scrubState d := by
  dsimp only [modMod]; simp

/-! ### Frames and credits -/

@[simp ↓] theorem scrubState_transmit (n : Nat) (f : MdlSent) (d : Dev) : scrubState (transmit n f d) = scrubState d := by
  dsimp only [transmit]; simp

@[simp ↓] theorem scrubState_sendFrame (n type tag : Nat) (d : Dev) : scrubState (sendFrame n type tag d) = scrubState d := by
  dsimp only [sendFrame]; simp

@[simp ↓] theorem scrubState_clearLane (n : Nat) (d : Dev) : scrubState (clearLane n d) = scrubState d := by
  dsimp only [clearLane]; simp

@[simp ↓] theorem scrubState_putFailed (n : Nat) (d : Dev) : scrubState (putFailed n d) = scrubState d := by
  dsimp only [putFailed]; simp

@[simp ↓] theorem scrubState_linkFail (n : Nat) (d : Dev) : scrubState (linkFail n d) = scrubState d := by
  dsimp only [linkFail]; simp

@[simp ↓] theorem scrubState_laneDown (n : Nat) (d : Dev) : scrubState (laneDown n d) = scrubState d := by
  dsimp only [laneDown]; simp

@[simp ↓] theorem scrubState_setCredit (n cls v : Nat) (d : Dev) : scrubState (setCredit n cls v d) = scrubState d := by
  dsimp only [setCredit]; simp

@[simp ↓] theorem scrubState_readCredit (n cls : Nat) (d : Dev) : scrubState (readCredit n cls d).2 = scrubState d := by
  dsimp only [readCredit]; simp

theorem scrubState_pumpOne {n : Nat} {d e : Dev} (h : pumpOne n d = some e) : scrubState e = scrubState d := by
  unfold pumpOne at h
  dsimp only at h
  split at h
  · cases h
  · split at h
    · split at h
      · cases h
        simp [scrubState_snd ‹readCredit _ _ _ = _›]
      · have h0 := scrubState_snd ‹readCredit n 0 d = _›
        split at h
        · cases h
          simp [scrubState_snd ‹readCredit n 1 _ = _›, h0]
        · have h1 := scrubState_snd ‹readCredit n 1 _ = _›
          split at h
          · cases h
          · cases h
            simp [h1, h0]
    · cases h

@[simp ↓] theorem scrubState_pump (n m : Nat) (d : Dev) : scrubState (pump n m d) = scrubState d := by
  induction m generalizing d with
  | zero => rfl
  | succ m ih =>
    rw [pump]
    split
    · rw [ih, scrubState_pumpOne ‹_›]
    · rfl

@[simp ↓] theorem scrubState_laneIssue (n : Nat) (c : LaneCmd) (d : Dev) : scrubState (laneIssue n c d) = scrubState d := by
  dsimp only [laneIssue]; simp

@[simp ↓] theorem scrubState_readFence (n : Nat) (d : Dev) : scrubState (readFence n d).2 = scrubState d := by
  dsimp only [readFence]; simp

@[simp ↓] theorem scrubState_issueWrite (n : Nat) (c : LaneCmd) (d : Dev) : scrubState (issueWrite n c d) = scrubState d := by
  dsimp only [issueWrite]; simp

@[simp ↓] theorem scrubState_setFence (n v : Nat) (d : Dev) : scrubState (setFence n v d) = scrubState d := by
  dsimp only [setFence]; simp

/-! ### Free blocks (R356, R358, R419, R654) -/

@[simp ↓] theorem scrubState_showPools (d : Dev) : scrubState (showPools d) = scrubState d := by
  dsimp only [showPools]; simp

/-! ### Opening segments (R408, R409, R418) -/

theorem scrubState_openSegment {p s : Nat} {gc isMeta : Bool} {d e : Dev} (h : Machine.openSegment p gc isMeta d = some (s, e)) :
    scrubState e = scrubState d := by
  unfold Machine.openSegment at h
  dsimp only at h
  split at h
  · cases h
  · split at h
    · cases h
    · cases h
      simp

/-! ### Rows (R214–R217) -/

@[simp ↓] theorem scrubState_modRow (n : Nat) (f : Row → Row) (d : Dev) : scrubState (modRow n f d) = scrubState d := by
  dsimp only [modRow]; simp

theorem scrubState_rowSegment {p kind s : Nat} {d e : Dev} (h : rowSegment p kind d = some (s, e)) : scrubState e = scrubState d := by
  dsimp only [rowSegment] at h
  split at h
  · cases h; rfl
  · exact scrubState_openSegment h

@[simp ↓] theorem scrubState_closeRow (n : Nat) (d : Dev) : scrubState (closeRow n d) = scrubState d := by
  dsimp only [closeRow]; simp

theorem scrubState_openRow {engine p kind n : Nat} {d e : Dev} (h : openRow engine p kind d = some (n, e)) :
    scrubState e = scrubState d := by
  dsimp only [openRow] at h
  split at h
  · cases h
  · cases h
    simp [scrubState_rowSegment ‹rowSegment _ _ _ = _›]

@[simp ↓] theorem scrubState_placeFrame (engine p kind : Nat) (f : FrameRef) (d : Dev) :
    scrubState (placeFrame engine p kind f d).2 = scrubState d := by
  dsimp only [placeFrame]
  split
  next h =>
    split at h
    · cases h
      simp
      split <;> simp
    · simp [scrubState_openRow h]
      split <;> simp
  next =>
    simp
    split <;> simp

@[simp ↓] theorem scrubState_refillRows (r : Row) (s : Nat) (d : Dev) : scrubState (refillRows r s d) = scrubState d := by
  dsimp only [refillRows]; simp

@[simp ↓] theorem scrubState_requeueRows (l : List Nat) (d : Dev) : scrubState (requeueRows l d) = scrubState d := by
  dsimp only [requeueRows]
  refine scrubState_foldl_snd _ _ _ fun acc n => ?_
  split
  · simp
  · split
    · simp
    · split
      · simp [scrubState_openSegment ‹_›]
      · simp

/-! ### Closing segments and retiring blocks (R355, R370–R372, R655) -/

@[simp ↓] theorem scrubState_commitClose (s : Nat) (short : Bool) (d : Dev) : scrubState (commitClose s short d) = scrubState d := by
  dsimp only [commitClose]; simp

@[simp ↓] theorem scrubState_closeWhenIdle (s : Nat) (d : Dev) : scrubState (closeWhenIdle s d) = scrubState d := by
  dsimp only [closeWhenIdle]; simp

@[simp ↓] theorem scrubState_closeShort (s : Nat) (d : Dev) : scrubState (closeShort s d) = scrubState d := by
  dsimp only [closeShort]; simp

@[simp ↓] theorem scrubState_queueReloc (s : Nat) (d : Dev) : scrubState (queueReloc s d) = scrubState d := by
  dsimp only [queueReloc]; simp

@[simp ↓] theorem scrubState_showRebuild (d : Dev) : scrubState (showRebuild d) = scrubState d := by
  dsimp only [showRebuild]; simp

@[simp ↓] theorem scrubState_rerank (d : Dev) : scrubState (rerank d) = scrubState d := by
  dsimp only [rerank]; simp

@[simp ↓] theorem scrubState_queueRebuild (s : Nat) (d : Dev) : scrubState (queueRebuild s d) = scrubState d := by
  dsimp only [queueRebuild]; simp

@[simp ↓] theorem scrubState_retireBlock (m b cause : Nat) (d : Dev) : scrubState (retireBlock m b cause d) = scrubState d := by
  dsimp only [retireBlock]; simp

/-! ### Lost granules (R340, R434–R436) -/

@[simp ↓] theorem scrubState_placePage (kind page : Nat) (d : Dev) : scrubState (placePage kind page d).2 = scrubState d := by
  dsimp only [placePage]
  split <;> simp [scrubState_snd ‹placeFrame _ _ _ _ _ = _›]

@[simp ↓] theorem scrubState_writeNews (page : Nat) (x : PageNews) (d : Dev) : scrubState (writeNews page x d).2 = scrubState d := by
  dsimp only [writeNews]
  split <;> simp

@[simp ↓] theorem scrubState_markLost (g cause missing : Nat) (d : Dev) : scrubState (markLost g cause missing d) = scrubState d := by
  dsimp only [markLost]; simp

/-! ### Transactions (R201, R202, R221, R658) -/

@[simp ↓] theorem scrubState_postTx (nsid : Nat) (es : List SqEntry) (d : Dev) : scrubState (postTx nsid es d) = scrubState d := by
  dsimp only [postTx]
  split <;> simp

/-! ### Rebuild rows (R427) -/

@[simp ↓] theorem scrubState_modRebuild (s : Nat) (f : Rebuild → Rebuild) (d : Dev) : scrubState (modRebuild s f d) = scrubState d := by
  dsimp only [modRebuild]; simp

@[simp ↓] theorem scrubState_rebuildRowEnded (n : Nat) (d : Dev) : scrubState (rebuildRowEnded n d) = scrubState d := by
  dsimp only [rebuildRowEnded]; simp

/-! ### Sessions with peers -/

@[simp ↓] theorem scrubState_modPeer (p : Nat) (f : PeerSess → PeerSess) (d : Dev) : scrubState (modPeer p f d) = scrubState d := by
  dsimp only [modPeer]; simp

@[simp ↓] theorem scrubState_sptPeer (p : Nat) (d : Dev) : scrubState (sptPeer p d).2 = scrubState d := by
  dsimp only [sptPeer]
  split <;> simp

@[simp ↓] theorem scrubState_openSession (p : Nat) (d : Dev) : scrubState (openSession p d) = scrubState d := by
  dsimp only [openSession]
  split
  · simp [scrubState_snd ‹sptPeer _ _ = _›]
  · split <;> simp [scrubState_snd ‹useKey _ _ _ _ = _›, scrubState_snd ‹sptPeer _ _ = _›]

@[simp ↓] theorem scrubState_sendRepl (p : Nat) (m : ReplMsg) (d : Dev) : scrubState (sendRepl p m d) = scrubState d := by
  dsimp only [sendRepl]
  simp
  split <;> simp

/-! ### Read jobs -/

@[simp ↓] theorem scrubState_modJob (j : Nat) (f : ReadJob → ReadJob) (d : Dev) : scrubState (modJob j f d) = scrubState d := by
  dsimp only [modJob]; simp

@[simp ↓] theorem scrubState_dropJob (j : Nat) (d : Dev) : scrubState (dropJob j d) = scrubState d := by
  dsimp only [dropJob]; simp

@[simp ↓] theorem scrubState_readPage (j i : Nat) (d : Dev) : scrubState (readPage j i d) = scrubState d := by
  dsimp only [readPage]
  split <;> simp

@[simp ↓] theorem scrubState_readPages (j : Nat) (d : Dev) : scrubState (readPages j d) = scrubState d := by
  dsimp only [readPages]; simp

/-! ### Guards and tags (R172–R174) -/

@[simp ↓] theorem scrubState_countPi (st : Nat) (d : Dev) : scrubState (countPi st d) = scrubState d := by
  dsimp only [countPi]; simp

/-! ### The end of a host read (R333–R336, R347) -/

@[simp ↓] theorem scrubState_sendSquares (n i : Nat) (d : Dev) : scrubState (sendSquares n i d) = scrubState d := by
  dsimp only [sendSquares]; simp

@[simp ↓] theorem scrubState_finishRead (n : Nat) (d : Dev) : scrubState (finishRead n d) = scrubState d := by
  dsimp only [finishRead]
  split
  · simp
  · split
    · simp
    · split <;> simp

@[simp ↓] theorem scrubState_squareDone (n i st : Nat) (dnr : Bool) (plain : Bytes) (d : Dev) :
    scrubState (squareDone n i st dnr plain d) = scrubState d := by
  dsimp only [squareDone]; simp

@[simp ↓] theorem scrubState_endRead (j st : Nat) (dnr : Bool) (plain : Bytes) (d : Dev) :
    scrubState (endRead j st dnr plain d) = scrubState d := by
  dsimp only [endRead]
  split
  case h_2 => split <;> simp
  all_goals simp

/-! ### Repair from a replica (R344–R346) -/

@[simp ↓] theorem scrubState_goRepair (j : Nat) (d : Dev) : scrubState (goRepair j d) = scrubState d := by
  dsimp only [goRepair]
  split <;> simp

@[simp ↓] theorem scrubState_unrecoverable (j : Nat) (d : Dev) : scrubState (unrecoverable j d) = scrubState d := by
  dsimp only [unrecoverable]
  split <;> simp

/-! ### Lookup (R318–R322, R341) -/

@[simp ↓] theorem scrubState_locate (j : Nat) (d : Dev) : scrubState (locate j d) = scrubState d := by
  dsimp only [locate]; simp

@[simp ↓] theorem scrubState_startGranule (who : ReadWho) (nsid sq g restarts : Nat) (d : Dev) :
    scrubState (startGranule who nsid sq g restarts d) = scrubState d := by
  dsimp only [startGranule]; simp

/-! ### Resignation (R510, R511) -/

@[simp ↓] theorem scrubState_endActivation (d : Dev) : scrubState (endActivation d) = scrubState d := by
  dsimp only [endActivation]
  split <;> simp

@[simp ↓] theorem scrubState_resignNow (cause : Nat) (d : Dev) : scrubState (resignNow cause d) = scrubState d := by
  dsimp only [resignNow]; simp

/-! ### Slots restored or adopted (R226, R227) -/

@[simp ↓] theorem scrubState_reserve (p n : Nat) (d : Dev) : scrubState (reserve p n d) = scrubState d := by
  dsimp only [reserve]; simp

@[simp ↓] theorem scrubState_restoreSlot (n : Nat) (s : Slot) (d : Dev) : scrubState (restoreSlot n s d) = scrubState d := by
  dsimp only [restoreSlot]; simp

@[simp ↓] theorem scrubState_doubtReleases (own : Bool) (d : Dev) : scrubState (doubtReleases own d) = scrubState d := by
  dsimp only [doubtReleases]; simp

/-! ### The winner's steps (R515) -/

@[simp ↓] theorem scrubState_closePeerSegment (s : Nat) (d : Dev) : scrubState (closePeerSegment s d) = scrubState d := by
  dsimp only [closePeerSegment]; simp

@[simp ↓] theorem scrubState_armOrphans (d : Dev) : scrubState (armOrphans d) = scrubState d := by
  dsimp only [armOrphans]; simp

@[simp ↓] theorem scrubState_adoptSlots (d : Dev) : scrubState (adoptSlots d) = scrubState d := by
  dsimp only [adoptSlots]; simp

@[simp ↓] theorem scrubState_adoptedKind (mirror : Tab Slot) (n : Nat) (r : CmdRecord) (d : Dev) :
    scrubState (adoptedKind mirror n r d).2 = scrubState d := by
  dsimp only [adoptedKind]
  split <;> simp

@[simp ↓] theorem scrubState_endPeerCommands (mirror : Tab Slot) (d : Dev) : scrubState (endPeerCommands mirror d) = scrubState d := by
  dsimp only [endPeerCommands]; simp

@[simp ↓] theorem scrubState_closePeers (d : Dev) : scrubState (closePeers d) = scrubState d := by
  dsimp only [closePeers]; simp

@[simp ↓] theorem scrubState_takeOver (claimed : Bool) (own0 own1 : Nat) (d : Dev) :
    scrubState (takeOver claimed own0 own1 d) = scrubState d := by
  dsimp only [takeOver]; simp

@[simp ↓] theorem scrubState_showClaims (d : Dev) : scrubState (showClaims d) = scrubState d := by
  dsimp only [showClaims]; simp

@[simp ↓] theorem scrubState_claimWon (d : Dev) : scrubState (claimWon d) = scrubState d := by
  dsimp only [claimWon]; simp

/-! ### The claim (R513, R514) -/

@[simp ↓] theorem scrubState_claimDecide (d : Dev) : scrubState (claimDecide d) = scrubState d := by
  dsimp only [claimDecide]; simp

@[simp ↓] theorem scrubState_modClaim (m : Nat) (f : Claim → Claim) (d : Dev) : scrubState (modClaim m f d) = scrubState d := by
  dsimp only [modClaim]; simp

@[simp ↓] theorem scrubState_issueClaim (m w : Nat) (d : Dev) : scrubState (issueClaim m w d) = scrubState d := by
  dsimp only [issueClaim]; simp

@[simp ↓] theorem scrubState_claimMember (m : Nat) (d : Dev) : scrubState (claimMember m d) = scrubState d := by
  dsimp only [claimMember]; simp

@[simp ↓] theorem scrubState_claimReturned (m : Nat) (d : Dev) : scrubState (claimReturned m d) = scrubState d := by
  dsimp only [claimReturned]; simp

@[simp ↓] theorem scrubState_claimResult (m : Nat) (c : LaneCmd) (rsp : Option LaneRsp) (d : Dev) :
    scrubState (claimResult m c rsp d) = scrubState d := by
  dsimp only [claimResult]
  split
  · simp
  · refine scrubState_of_ite (by simp) ?_
    split <;> simp

/-! ### The end of erases, writes and lane commands -/

@[simp ↓] theorem scrubState_finishErase (seg : Nat) (d : Dev) : scrubState (finishErase seg d) = scrubState d := by
  dsimp only [finishErase]; simp

@[simp ↓] theorem scrubState_eraseEnded (m b seg : Nat) (d : Dev) : scrubState (eraseEnded m b seg d) = scrubState d := by
  dsimp only [eraseEnded]; simp

@[simp ↓] theorem scrubState_eraseFailed (m b seg : Nat) (d : Dev) : scrubState (eraseFailed m b seg d) = scrubState d := by
  dsimp only [eraseFailed]; simp

@[simp ↓] theorem scrubState_identified (n : Nat) (d : Dev) : scrubState (identified n d) = scrubState d := by
  dsimp only [identified]; simp

@[simp ↓] theorem scrubState_laneEnded (n : Nat) (c : LaneCmd) (rsp : Option LaneRsp) (d : Dev) :
    scrubState (laneEnded n c rsp d) = scrubState d := by
  dsimp only [laneEnded]
  split
  case h_1 => split <;> simp
  case h_3 => split <;> simp
  case h_5 => split <;> simp
  case h_7 => split <;> simp
  case h_8 => split <;> simp
  case h_9 => split <;> simp
  all_goals simp

/-! ### The index decision (R203–R207, R227, R244, R245) -/

@[simp ↓] theorem scrubState_comparePolicy (ns : Ns) (d : Dev) : scrubState (comparePolicy ns d).2 = scrubState d := by
  dsimp only [comparePolicy]; simp

/-! ### Roots and snapshots -/

@[simp ↓] theorem scrubState_buryRoot (nsid : Nat) (d : Dev) : scrubState (buryRoot nsid d) = scrubState d := by
  dsimp only [buryRoot]; simp

/-! ### Relations -/

@[simp ↓] theorem scrubState_modRel (k : Nat) (f : Rel → Rel) (d : Dev) : scrubState (modRel k f d) = scrubState d := by
  dsimp only [modRel]; simp

@[simp ↓] theorem scrubState_showRel (d : Dev) : scrubState (showRel d) = scrubState d := by
  dsimp only [showRel]; simp

/-! ### The mailbox (Table 14.6) -/

@[simp ↓] theorem scrubState_mailEnd (result value : Nat) (d : Dev) : scrubState (mailEnd result value d) = scrubState d := by
  dsimp only [mailEnd]; simp

/-! ### Cuts (R441, R442) -/

@[simp ↓] theorem scrubState_stageCut (nsids : List Nat) (role : CutRole) (d : Dev) :
    scrubState (stageCut nsids role d) = scrubState d := by
  dsimp only [stageCut]; simp

/-! ### Sources: suspension and stream holds (R456, R458–R462) -/

@[simp ↓] theorem scrubState_postDrops (nsid : Nat) (gs : List Nat) (d : Dev) : scrubState (postDrops nsid gs d) = scrubState d := by
  dsimp only [postDrops]; simp

@[simp ↓] theorem scrubState_releaseHold (k tsn : Nat) (d : Dev) : scrubState (releaseHold k tsn d) = scrubState d := by
  dsimp only [releaseHold]; simp

@[simp ↓] theorem scrubState_suspendRel (k : Nat) (d : Dev) : scrubState (suspendRel k d) = scrubState d := by
  dsimp only [suspendRel]; simp

@[simp ↓] theorem scrubState_pumpStream (k : Nat) (d : Dev) : scrubState (pumpStream k d) = scrubState d := by
  dsimp only [pumpStream]; simp

@[simp ↓] theorem scrubState_checkCycle (k : Nat) (d : Dev) : scrubState (checkCycle k d) = scrubState d := by
  dsimp only [checkCycle]
  split <;> simp

@[simp ↓] theorem scrubState_offerAll (k : Nat) (d : Dev) : scrubState (offerAll k d) = scrubState d := by
  dsimp only [offerAll]
  split <;> simp

@[simp ↓] theorem scrubState_compareCycle (k : Nat) (d : Dev) : scrubState (compareCycle k d) = scrubState d := by
  dsimp only [compareCycle]
  split
  · refine scrubState_of_ite (by simp) ((scrubState_forEach _ _ _ fun i e => ?_).trans (by simp))
    split <;> simp
  · rfl

@[simp ↓] theorem scrubState_replRead (k batch i : Nat) (send_ : Bool) (st fmt : Nat) (pay plain : Bytes) (d : Dev) :
    scrubState (replRead k batch i send_ st fmt pay plain d) = scrubState d := by
  dsimp only [replRead]
  refine scrubState_of_ite (by simp) (scrubState_of_ite ?_ ?_)
  · split <;> simp
  · split <;> simp

@[simp ↓] theorem scrubState_noteSource (r : JRecord) (es : List SqEntry) (d : Dev) : scrubState (noteSource r es d) = scrubState d := by
  dsimp only [noteSource]; simp

/-! ### Targets (R457, R459) -/

@[simp ↓] theorem scrubState_modIn (k num : Nat) (f : InBatch → InBatch) (d : Dev) : scrubState (modIn k num f d) = scrubState d := by
  dsimp only [modIn]; simp

@[simp ↓] theorem scrubState_dropIn (k num : Nat) (d : Dev) : scrubState (dropIn k num d) = scrubState d := by
  dsimp only [dropIn]; simp

@[simp ↓] theorem scrubState_modItem (k num i : Nat) (f : InItem → InItem) (d : Dev) :
    scrubState (modItem k num i f d) = scrubState d := by
  dsimp only [modItem]; simp

@[simp ↓] theorem scrubState_offerHit (k g : Nat) (fp : Bytes) (d : Dev) : scrubState (offerHit k g fp d).2 = scrubState d := by
  dsimp only [offerHit]; simp

@[simp ↓] theorem scrubState_applyStream (k : Nat) (d : Dev) : scrubState (applyStream k d) = scrubState d := by
  dsimp only [applyStream]
  split <;> simp

@[simp ↓] theorem scrubState_settleBatch (k num : Nat) (d : Dev) : scrubState (settleBatch k num d) = scrubState d := by
  dsimp only [settleBatch]
  split <;> simp

@[simp ↓] theorem scrubState_offerAnswer (k num i : Nat) (a : ProbeAns) (d : Dev) :
    scrubState (offerAnswer k num i a d) = scrubState d := by
  dsimp only [offerAnswer]
  split <;> simp

/-! ### What follows a cut (R442, R458, R461, R466) -/

@[simp ↓] theorem scrubState_rollTo (nsid sseq : Nat) (d : Dev) : scrubState (rollTo nsid sseq d) = scrubState d := by
  dsimp only [rollTo]; simp

@[simp ↓] theorem scrubState_cutApplied (c : Cut) (d : Dev) : scrubState (cutApplied c d) = scrubState d := by
  dsimp only [cutApplied]
  split
  case h_6 => split <;> simp
  all_goals simp

@[simp ↓] theorem scrubState_squaresApplied (r : JRecord) (es : List SqEntry) (d : Dev) :
    scrubState (squaresApplied r es d) = scrubState d := by
  dsimp only [squaresApplied]
  split
  · split
    · simp
      split <;> simp
    · simp
      split <;> simp
  · simp
    split <;> simp

@[simp ↓] theorem scrubState_batchReady (k num : Nat) (d : Dev) : scrubState (batchReady k num d) = scrubState d := by
  dsimp only [batchReady]; simp

/-! ### What follows a commit -/

@[simp ↓] theorem scrubState_armSegment (s : Nat) (d : Dev) : scrubState (armSegment s d) = scrubState d := by
  dsimp only [armSegment]; simp

@[simp ↓] theorem scrubState_endRebuild (s : Nat) (d : Dev) : scrubState (endRebuild s d) = scrubState d := by
  dsimp only [endRebuild]; simp

@[simp ↓] theorem scrubState_afterCommit (r : JRecord) (d : Dev) : scrubState (afterCommit r d) = scrubState d := by
  dsimp only [afterCommit]
  split
  case h_4 =>
    refine scrubState_foldl _ _ _ fun e x => ?_
    split <;> simp
  all_goals simp

/-! ### Tables and arithmetic (R474) -/

@[simp ↓] theorem scrubState_modDst (n : Nat) (f : CdtDst → CdtDst) (d : Dev) : scrubState (modDst n f d) = scrubState d := by
  dsimp only [modDst]; simp

@[simp ↓] theorem scrubState_modPath (dev port : Nat) (f : CdtPath → CdtPath) (d : Dev) :
    scrubState (modPath dev port f d) = scrubState d := by
  dsimp only [modPath]; simp

/-! ### Paths and presence (R470, R497) -/

@[simp ↓] theorem scrubState_resendMirror (port : Nat) (d : Dev) : scrubState (resendMirror port d) = scrubState d := by
  dsimp only [resendMirror]; simp

@[simp ↓] theorem scrubState_sendPoolKeys (dev : Nat) (d : Dev) : scrubState (sendPoolKeys dev d) = scrubState d := by
  dsimp only [sendPoolKeys]; simp

@[simp ↓] theorem scrubState_showPaths (d : Dev) : scrubState (showPaths d) = scrubState d := by
  dsimp only [showPaths]
  simp
  split <;> simp

/-! ### Sending (R474–R477, R480) -/

@[simp ↓] theorem scrubState_countCluster (dst port len : Nat) (d : Dev) : scrubState (countCluster dst port len d) = scrubState d := by
  dsimp only [countCluster]; simp

@[simp ↓] theorem scrubState_emitPkt (dst port : Nat) (h : CdtHdr) (payload : Bytes) (reliable : Bool) (d : Dev) :
    scrubState (emitPkt dst port h payload reliable d) = scrubState d := by
  dsimp only [emitPkt]; simp

@[simp ↓] theorem scrubState_pumpPath (dst port m : Nat) (d : Dev) : scrubState (pumpPath dst port m d) = scrubState d := by
  induction m generalizing d with
  | zero => rfl
  | succ m ih =>
    rw [pumpPath]
    dsimp only
    split <;> simp [ih]

@[simp ↓] theorem scrubState_sendPkts (dst port : Nat) (l : List CdtPkt) (d : Dev) :
    scrubState (sendPkts dst port l d) = scrubState d := by
  dsimp only [sendPkts]; simp

@[simp ↓] theorem scrubState_openMsg (dst : Nat) (m : CdtMsg) (d : Dev) : scrubState (openMsg dst m d).2 = scrubState d := by
  dsimp only [openMsg]; simp

/-! ### Reports (R256, R489, R491, R492) -/

@[simp ↓] theorem scrubState_advanceCdt (r m : Nat) (d : Dev) : scrubState (advanceCdt r m d) = scrubState d := by
  induction m generalizing d with
  | zero => rfl
  | succ m ih => rw [advanceCdt]; simp [ih]

@[simp ↓] theorem scrubState_reportDesc (r i status reason nak outcome bytes : Nat) (intr : Bool) (d : Dev) :
    scrubState (reportDesc r i status reason nak outcome bytes intr d) = scrubState d := by
  dsimp only [reportDesc]; simp

@[simp ↓] theorem scrubState_endMsg (dst : Nat) (m : CdtMsg) (ok : Bool) (reason nak outcome bytes : Nat) (d : Dev) :
    scrubState (endMsg dst m ok reason nak outcome bytes d) = scrubState d := by
  dsimp only [endMsg]
  split
  · simp only [scrubState_reportDesc]
    split <;> simp
  · split <;> simp

@[simp ↓] theorem scrubState_failMsg (dst reason : Nat) (m : CdtMsg) (d : Dev) : scrubState (failMsg dst reason m d) = scrubState d := by
  dsimp only [failMsg]; simp

@[simp ↓] theorem scrubState_failPath (dst port reason : Nat) (d : Dev) : scrubState (failPath dst port reason d) = scrubState d := by
  dsimp only [failPath]; simp

@[simp ↓] theorem scrubState_cercoDown (p : Nat) (d : Dev) : scrubState (cercoDown p d) = scrubState d := by
  dsimp only [cercoDown]; simp

/-! ### Messages of the internal queues (R652) -/

@[simp ↓] theorem scrubState_createInternal (x : Nat × Nat × Nat × Option Nat) (d : Dev) :
    scrubState (createInternal x d) = scrubState d := by
  dsimp only [createInternal]
  split <;> simp

@[simp ↓] theorem scrubState_pumpWaiting (m : Nat) (d : Dev) : scrubState (pumpWaiting m d) = scrubState d := by
  induction m generalizing d with
  | zero => rfl
  | succ m ih =>
    rw [pumpWaiting]
    split <;> simp [ih]

@[simp ↓] theorem scrubState_takeMessages (d : Dev) : scrubState (takeMessages d) = scrubState d := by
  dsimp only [takeMessages]; simp

/-! ### What follows a command -/

@[simp ↓] theorem scrubState_reductionLost (unit : Nat) (d : Dev) : scrubState (reductionLost unit d) = scrubState d := by
  dsimp only [reductionLost]
  simp
  split <;> simp

@[simp ↓] theorem scrubState_react (t : Todo) (d : Dev) : scrubState (react t d) = scrubState d := by
  dsimp only [react]
  split <;> simp

@[simp ↓] theorem scrubState_drain (m : Nat) (d : Dev) : scrubState (drain m d) = scrubState d := by
  induction m generalizing d with
  | zero => rw [drain]; simp
  | succ m ih =>
    rw [drain]
    split <;> simp [ih]

@[simp ↓] theorem scrubState_finish (d : Dev) : scrubState (finish d) = scrubState d := by
  dsimp only [finish]; simp

/-! ### The device's own jobs (R15, R651, R653) -/

@[simp ↓] theorem scrubState_putPipe (k : Nat) (j : PipeJob) (d : Dev) : scrubState (putPipe k j d) = scrubState d := by
  dsimp only [putPipe]; simp

@[simp ↓] theorem scrubState_pipePlace (k : Nat) (w : PipeFor) (d : Dev) : scrubState (pipePlace k w d).2 = scrubState d := by
  dsimp only [pipePlace]; simp

@[simp ↓] theorem scrubState_takeLaneInj (k n : Nat) (d : Dev) : scrubState (takeLaneInj k n d).2 = scrubState d := by
  dsimp only [takeLaneInj]; simp

@[simp ↓] theorem scrubState_laneFires (k n a tag : Nat) (d : Dev) : scrubState (laneFires k n a tag d) = scrubState d := by
  dsimp only [laneFires]; simp

@[simp ↓] theorem scrubState_pipeFires (k n : Nat) (e : JobEnd) (d : Dev) : scrubState (pipeFires k n e d).2 = scrubState d := by
  dsimp only [pipeFires]; simp

@[simp ↓] theorem scrubState_pipeStep (k : Nat) (w : PipeFor) (e : JobEnd) (d : Dev) : scrubState (pipeStep k w e d).2 = scrubState d := by
  dsimp only [pipeStep]
  simp
  intro _
  split <;> simp

@[simp ↓] theorem scrubState_ownJobs (w : PipeFor) (ks : List Nat) (d : Dev) : scrubState (ownJobs w ks d).2 = scrubState d := by
  dsimp only [ownJobs]; simp

/-! ### A column that has been read (R370, R373, R374) -/

@[simp ↓] theorem scrubState_countRead (m b : Nat) (d : Dev) : scrubState (countRead m b d) = scrubState d := by
  dsimp only [countRead]; simp

@[simp ↓] theorem scrubState_lateStep (m b : Nat) (d : Dev) : scrubState (lateStep m b d) = scrubState d := by
  dsimp only [lateStep]; simp

@[simp ↓] theorem scrubState_scrubColumn (seg row : Nat) (c : Col) (step : Nat) (d : Dev) :
    scrubState (scrubColumn seg row c step d) = scrubState d := by
  dsimp only [scrubColumn]; simp

end Sys2Proof.Proofs

/-!
PROOFS. O36: time trouble and the scrub's row. A job of the device's own ends OK on a lane that is ready; then what the three commands of
the flush and RETENTION_SCRUB leave.
-/

namespace Sys2Proof.Proofs

open Sys2Proof Sys2Proof.Machine

/-! ### A job whose accelerator stands ready ends (R15, R257, R651) -/

/-- The job stands at its accelerator on lane `n`, and its slice runs there to its end. -/
structure PipePlaced (k : Nat) (w : PipeFor) (n : Nat) (j : PipeJob) (d : Dev) : Prop where
  lane : j.lane = some n
  stands : pipeOf k w d = some j
  region : regionQuar 9 d = false
  awake : rd (Reg.PWR_LVL_ASTATE 9) d = 0
  quar : (getLane k n d).quar = false
  inj : (rdb (accInjArm k) d && rd (accInjLane k) d == n) = false
  grant : k = 4 → hasGrant (.compLane n) 4 d = true

theorem pickFree_mem {l : List Nat} (h : l ≠ []) (d : Dev) : ∃ n ∈ l, pickFree l d = (some n, { d with free := d.free + 1 }) := by
  obtain ⟨a, r, rfl⟩ := List.exists_cons_of_ne_nil h
  have hlt : Config.freeNat d.free % (a :: r).length < (a :: r).length := Nat.mod_lt _ (by simp)
  exact ⟨_, List.getElem_mem hlt, by simp only [pickFree, drawNat, List.getElem?_eq_getElem hlt]⟩

theorem accBusy_apart (k : Nat) :
    (Reg.PWR_LVL_ASTATE 9).off ≠ (accBusy k).off ∧ (accInjArm k).off ≠ (accBusy k).off ∧ (accInjLane k).off ≠ (accBusy k).off := by
  unfold accBusy accInjArm accInjLane
  split <;> decide

theorem rd_putPipe {f : Field} {k : Nat} (h : f.off ≠ (accBusy k).off) (j : PipeJob) (d : Dev) : rd f (putPipe k j d) = rd f d := by
  dsimp only [putPipe, showBusy]
  rw [rd_wr_off h]; rfl

theorem getAccel_putPipe (k : Nat) (j : PipeJob) (d : Dev) :
    getAccel k (putPipe k j d) = { getAccel k d with pipe := (getAccel k d).pipe.filter (·.who != j.who) ++ [j] } := by
  dsimp only [putPipe, showBusy, getAccel, wr, modAccel]
  rw [tget_tmod, if_pos rfl]

theorem getLane_putPipe (k n : Nat) (j : PipeJob) (d : Dev) : getLane k n (putPipe k j d) = getLane k n d := by
  rw [getLane, getAccel_putPipe]; rfl

theorem pipeOf_putPipe (k : Nat) (j : PipeJob) (d : Dev) : pipeOf k j.who (putPipe k j d) = some j := by
  have hgone : ((getAccel k d).pipe.filter (·.who != j.who)).find? (·.who == j.who) = none := by simp
  rw [pipeOf, getAccel_putPipe, List.find?_append, hgone]
  simp

theorem who_of_pipeOf {k : Nat} {w : PipeFor} {j : PipeJob} {d : Dev} (h : pipeOf k w d = some j) : j.who = w := by
  simpa using List.find?_some h

/-- A job that has its lane stays on it. -/
theorem pipePlaced_of_lane {k n : Nat} {w : PipeFor} {j : PipeJob} {d : Dev} (hj : pipeOf k w d = some j) (hl : j.lane = some n)
    (h : pipeReady k w d) : pipePlace k w d = (j, d) ∧ PipePlaced k w n j d := by
  obtain ⟨hregion, hawake, -, hlanes⟩ := h
  obtain ⟨hquar, hinj, hgrant⟩ := hlanes n (by simp [hj, hl])
  exact ⟨by simp [pipePlace, hj, hl], hl, hj, hregion, hawake, hquar, hinj, hgrant⟩

/-- What a ready job needs of the device does not change when it is put on its lane. -/
theorem pipePlaced_putPipe {k n : Nat} {j : PipeJob} {d : Dev} (hlane : j.lane = some n) (hregion : regionQuar 9 d = false)
    (hawake : rd (Reg.PWR_LVL_ASTATE 9) d = 0) (hquar : (getLane k n d).quar = false)
    (hinj : (rdb (accInjArm k) d && rd (accInjLane k) d == n) = false) (hgrant : k = 4 → hasGrant (.compLane n) 4 d = true) :
    PipePlaced k j.who n j (putPipe k j d) := by
  obtain ⟨hlvl, harm, hto⟩ := accBusy_apart k
  refine ⟨hlane, pipeOf_putPipe k j d, hregion, ?_, ?_, ?_, hgrant⟩
  · rw [rd_putPipe hlvl, hawake]
  · rw [getLane_putPipe, hquar]
  · rw [rdb, rd_putPipe harm, rd_putPipe hto]
    exact hinj

/-- The job as it stands at the accelerator, or as it comes there. -/
theorem pipeOf_getD (k : Nat) (w : PipeFor) (d : Dev) : ((pipeOf k w d).getD { who := w }).who = w ∧
    ((pipeOf k w d).getD { who := w }).lane = (pipeOf k w d).bind (·.lane) ∧
    ((pipeOf k w d).getD { who := w }).failed = (pipeOf k w d).bind (·.failed) := by
  rcases hof : pipeOf k w d with _ | j
  · exact ⟨rfl, rfl, rfl⟩
  · exact ⟨who_of_pipeOf hof, rfl, rfl⟩

/-- A job without a lane is put on one of those that may take it. -/
theorem pipePlaced_of_no_lane {k : Nat} {w : PipeFor} {d : Dev} (hl : (pipeOf k w d).bind (·.lane) = none) (h : pipeReady k w d) :
    ∃ n, PipePlaced k w n (pipePlace k w d).1 (pipePlace k w d).2 := by
  obtain ⟨hregion, hawake, hsome, hlanes⟩ := h
  rw [hl] at hsome hlanes
  obtain ⟨hwho, hlane, hfailed⟩ := pipeOf_getD k w d
  obtain ⟨n, hn, hpick⟩ := pickFree_mem hsome d
  obtain ⟨hquar, hinj, hgrant⟩ := hlanes n hn
  have hnone : ¬((pipeOf k w d).getD { who := w }).lane.isSome := by simp [hlane, hl]
  rw [← hfailed] at hpick
  unfold pipePlace
  generalize (pipeOf k w d).getD { who := w } = j at hwho hnone hpick ⊢
  subst hwho
  dsimp only
  rw [if_neg hnone, hpick]
  exact ⟨n, pipePlaced_putPipe (j := { j with lane := some n }) (d := { d with free := d.free + 1 }) rfl hregion hawake hquar hinj hgrant⟩

/-- A ready job is placed. -/
theorem pipePlaced_of_ready {k : Nat} {w : PipeFor} {d : Dev} (h : pipeReady k w d) :
    ∃ n, PipePlaced k w n (pipePlace k w d).1 (pipePlace k w d).2 := by
  rcases hl : (pipeOf k w d).bind (·.lane) with _ | n
  · exact pipePlaced_of_no_lane hl h
  · obtain ⟨j, hj, hn⟩ := Option.bind_eq_some_iff.1 hl
    obtain ⟨hplace, hplaced⟩ := pipePlaced_of_lane hj hn h
    rw [hplace]
    exact ⟨n, hplaced⟩

section
variable {k n : Nat} {w : PipeFor} {j : PipeJob} {d : Dev}

theorem PipePlaced.pipePlace (h : PipePlaced k w n j d) : Machine.pipePlace k w d = (j, d) := by
  simp [Machine.pipePlace, h.stands, h.lane]

theorem PipePlaced.runs (h : PipePlaced k w n j d) : pipeRuns k j d = true := by
  have hgrant : (k != 4 || hasGrant (.compLane n) 4 d) = true := by
    by_cases hk : k = 4
    · simp [h.grant hk]
    · simp [hk]
  simp [pipeRuns, h.lane, h.region, h.awake, hgrant]

theorem PipePlaced.fires (h : PipePlaced k w n j d) : pipeFires k n .ok d = (false, d) := by
  simp [pipeFires, takeLaneInj, h.inj]

theorem PipePlaced.step (h : PipePlaced k w n j d) : (pipeStep k w .ok d).1 = .ok := by
  simp [pipeStep, h.pipePlace, h.runs, h.lane, h.fires, h.quar]

end

/-- The device's own job at one accelerator that stands ready ends OK. -/
theorem ownJobs_of_ready {k : Nat} {w : PipeFor} {d : Dev} (hserves : laneServes k d = true) (h : pipeReady k w d) :
    (ownJobs w [k] d).1 = true := by
  obtain ⟨n, hplaced⟩ := pipePlaced_of_ready h
  obtain ⟨-, hawake, -⟩ := h
  simp [ownJobs, hserves, hawake, forEach, hplaced.stands, hplaced.runs, hplaced.step]

/-! ### Requests -/

/-- A requester that waits for nothing of a class is put at the end of those that wait. -/
theorem postReq_of_new {q : TokReq} {d : Dev} (h : ∀ x ∈ d.pwr.waiting, x.who = q.who → x.cls ≠ q.cls) :
    postReq q d = { d with pwr.waiting := d.pwr.waiting ++ [q] } := by
  unfold postReq
  rw [if_neg]
  simpa using h

theorem waiting_finish_postReq {q : TokReq} {d : Dev} (htodo : d.todo = []) (h : ∀ x ∈ d.pwr.waiting, x.who = q.who → x.cls ≠ q.cls) :
    (finish (postReq q d)).pwr.waiting = d.pwr.waiting ++ [q] := by
  rw [postReq_of_new h]
  exact congrArg Pwr.waiting (EndedFrom.finish { d with pwr.waiting := d.pwr.waiting ++ [q] } htodo).pwr

/-! ### The scrub's row (R374) -/

/-- The pass of the retention scrub at a time, and the row that it reads next in a segment. -/
def scrubPassAt (d : Dev) : Nat := d.tmp.sec / (3600 * max 1 (rd Reg.MDL_FT_SCRUB_PERIOD d))
def scrubRowAt (n : Nat) (d : Dev) : Nat := if d.ftl.scrubPass = scrubPassAt d then tget 0 d.ftl.scrubRow n else 0

theorem scrubPassNow_eq (d : Dev) : scrubPassNow d =
    { d with ftl.scrubPass := scrubPassAt d, ftl.scrubRow := if d.ftl.scrubPass = scrubPassAt d then d.ftl.scrubRow else [] } := by
  by_cases h : d.ftl.scrubPass = scrubPassAt d
  · have h' : d.tmp.sec / (3600 * max 1 (rd Reg.MDL_FT_SCRUB_PERIOD d)) = d.ftl.scrubPass := h.symm
    rw [scrubPassNow]
    dsimp only
    rw [if_pos h', if_pos h, ← h]
  · have h' : ¬d.tmp.sec / (3600 * max 1 (rd Reg.MDL_FT_SCRUB_PERIOD d)) = d.ftl.scrubPass := Ne.symm h
    rw [scrubPassNow]
    dsimp only
    rw [if_neg h', if_neg h]
    rfl

theorem tget_scrubRow_scrubPassNow (n : Nat) (d : Dev) : tget 0 (scrubPassNow d).ftl.scrubRow n = scrubRowAt n d := by
  rw [scrubPassNow_eq, scrubRowAt]
  dsimp only
  split <;> rfl

/-- The segment is scrubbed now: it is CLOSED, this head's, and has rows left in the pass; an erasure lane serves. -/
structure Scrubs (n : Nat) (d : Dev) : Prop where
  calm : inTrouble d = false
  closed : (getSeg n d).state = 2
  own : ownSeg n d = true
  serves : laneServes 5 d = true
  left : scrubRowAt n d < (getSeg n d).rows

theorem Scrubs.quiet {n : Nat} {d : Dev} (h : Scrubs n d) : Scrubs n d.quiet := ⟨h.calm, h.closed, h.own, h.serves, h.left⟩

/-- A new pass changes nothing that the rest of the command looks at. -/
theorem scrubPassNow_keeps {α : Type} (P : Dev → α)
    (h : ∀ d p r, P { d with ftl.scrubPass := p, ftl.scrubRow := r } = P d) (d : Dev) : P (scrubPassNow d) = P d := by
  rw [scrubPassNow_eq, h]

theorem getSeg_scrubPassNow (n : Nat) (d : Dev) : getSeg n (scrubPassNow d) = getSeg n d :=
  scrubPassNow_keeps (getSeg n) (fun _ _ _ => rfl) d

theorem ownSeg_scrubPassNow (n : Nat) (d : Dev) : ownSeg n (scrubPassNow d) = ownSeg n d :=
  scrubPassNow_keeps (ownSeg n) (fun _ _ _ => rfl) d

theorem inTrouble_scrubPassNow (d : Dev) : inTrouble (scrubPassNow d) = inTrouble d :=
  scrubPassNow_keeps inTrouble (fun _ _ _ => rfl) d

theorem laneServes_scrubPassNow (k : Nat) (d : Dev) : laneServes k (scrubPassNow d) = laneServes k d :=
  scrubPassNow_keeps (laneServes k) (fun _ _ _ => rfl) d

theorem hasGrant_scrubPassNow (who : TokWho) (cls : Nat) (d : Dev) : hasGrant who cls (scrubPassNow d) = hasGrant who cls d :=
  scrubPassNow_keeps (hasGrant who cls) (fun _ _ _ => rfl) d

theorem scrubEngine_scrubPassNow (n : Nat) (d : Dev) : scrubEngine n (scrubPassNow d) = scrubEngine n d :=
  scrubPassNow_keeps (scrubEngine n) (fun _ _ _ => rfl) d

theorem pipeReady_scrubPassNow {k : Nat} {w : PipeFor} {d : Dev} (h : pipeReady k w d) : pipeReady k w (scrubPassNow d) := by
  rw [scrubPassNow_eq]; exact h

/-- The new pass does not end the segment's turn. -/
theorem Scrubs.goes_on {n : Nat} {d : Dev} (h : Scrubs n d) :
    ¬((getSeg n (scrubPassNow d)).state ≠ 2 ∨ !ownSeg n (scrubPassNow d) ∨
      tget 0 (scrubPassNow d).ftl.scrubRow n ≥ (getSeg n (scrubPassNow d)).rows ∨ inTrouble (scrubPassNow d) ∨
      !laneServes 5 (scrubPassNow d)) := by
  simp [getSeg_scrubPassNow, ownSeg_scrubPassNow, tget_scrubRow_scrubPassNow, inTrouble_scrubPassNow, laneServes_scrubPassNow,
    h.closed, h.own, h.left, h.calm, h.serves]

section
variable {n : Nat} {steps : List Nat} {s : State}

theorem scrubState_setScrubRow (who : TokWho) (cls : Nat) (t : Tab Nat) (d : Dev) :
    scrubState { endHold who cls d with ftl.scrubRow := t } = (d.ftl.scrubPass, t) := rfl

/-- Without a grant the command asks for one (R374). -/
theorem exec_retentionScrub_of_no_grant (hlive : s.dev.live = true) (h : Scrubs n s.dev)
    (hgrant : hasGrant (.engine (scrubEngine n s.dev)) 3 s.dev = false) :
    exec (.retentionScrub n steps) s = .next ⟨finish (postReq
      { who := .engine (scrubEngine n s.dev), cls := 3, cost := (getSeg n s.dev).w + 2 } (scrubPassNow s.dev.quiet)), s.pending⟩ := by
  show execRetentionScrub n steps s = _
  have hno : (!hasGrant (.engine (scrubEngine n (scrubPassNow s.dev.quiet))) 3 (scrubPassNow s.dev.quiet)) = true := by
    rw [hasGrant_scrubPassNow, scrubEngine_scrubPassNow]
    exact congrArg (!·) hgrant
  rw [execRetentionScrub, runLive_eq _ s hlive]
  dsimp only
  rw [if_neg h.quiet.goes_on, if_pos hno, scrubEngine_scrubPassNow, getSeg_scrubPassNow]
  rfl

/-- Under a grant, with a VERIFY job that ends OK, the segment's next row is the one after it (R374). -/
theorem exec_retentionScrub_of_grant (hlive : s.dev.live = true) (h : Scrubs n s.dev)
    (hgrant : hasGrant (.engine (scrubEngine n s.dev)) 3 s.dev = true) (hready : pipeReady 5 (.scrub n) s.dev) :
    ∃ e, exec (.retentionScrub n steps) s = .next ⟨finish e, s.pending⟩ ∧
      scrubState e = (scrubPassAt s.dev, tset 0 (scrubPassNow s.dev.quiet).ftl.scrubRow n (scrubRowAt n s.dev + 1)) := by
  have hyes : (!hasGrant (.engine (scrubEngine n (scrubPassNow s.dev.quiet))) 3 (scrubPassNow s.dev.quiet)) = false := by
    rw [hasGrant_scrubPassNow, scrubEngine_scrubPassNow]
    exact congrArg (!·) hgrant
  have hjobs : (ownJobs (.scrub n) [5] (scrubPassNow s.dev.quiet)).1 = true := by
    refine ownJobs_of_ready ?_ (pipeReady_scrubPassNow hready)
    rw [laneServes_scrubPassNow]
    exact h.serves
  have hkept : scrubState (ownJobs (.scrub n) [5] (scrubPassNow s.dev.quiet)).2 = scrubState (scrubPassNow s.dev.quiet) :=
    scrubState_ownJobs _ _ _
  show ∃ e, execRetentionScrub n steps s = _ ∧ _
  rw [execRetentionScrub, runLive_eq _ s hlive]
  dsimp only
  rw [if_neg h.quiet.goes_on, if_neg (Bool.eq_false_iff.1 hyes)]
  rcases hown : ownJobs (.scrub n) [5] (scrubPassNow s.dev.quiet) with ⟨ok, e⟩
  rw [hown] at hjobs hkept
  obtain rfl : ok = true := hjobs
  refine ⟨_, rfl, ?_⟩
  obtain ⟨hpass, hrow⟩ := Prod.mk.inj hkept
  simp only [tget_scrubRow_scrubPassNow]
  simp
  rw [scrubState_setScrubRow, hpass, hrow, scrubPassNow_eq]
  rfl

theorem retentionScrub_waits (hready : s.ready) (h : Scrubs n s.dev)
    (hgrant : hasGrant (.engine (scrubEngine n s.dev)) 3 s.dev = false)
    (hnew : ∀ q ∈ s.dev.pwr.waiting, q.who = .engine (scrubEngine n s.dev) → q.cls ≠ 3) :
    Answers (.retentionScrub n steps) s fun d =>
      d.pwr.waiting = s.dev.pwr.waiting ++ [{ who := .engine (scrubEngine n s.dev), cls := 3, cost := (getSeg n s.dev).w + 2 }] := by
  have hpwr : (scrubPassNow s.dev.quiet).pwr = s.dev.pwr := scrubPassNow_keeps Dev.pwr (fun _ _ _ => rfl) _
  have htodo : (scrubPassNow s.dev.quiet).todo = [] := (scrubPassNow_keeps Dev.todo (fun _ _ _ => rfl) _).trans hready.2
  refine ⟨_, exec_retentionScrub_of_no_grant hready.1 h hgrant, rfl, ?_⟩
  refine (waiting_finish_postReq htodo ?_).trans (by rw [hpwr])
  rw [hpwr]
  exact hnew

theorem retentionScrub_reads (hready : s.ready) (h : Scrubs n s.dev)
    (hgrant : hasGrant (.engine (scrubEngine n s.dev)) 3 s.dev = true) (hpipe : pipeReady 5 (.scrub n) s.dev) :
    Answers (.retentionScrub n steps) s fun d =>
      d.ftl.scrubPass = scrubPassAt s.dev ∧ tget 0 d.ftl.scrubRow n = scrubRowAt n s.dev + 1 := by
  obtain ⟨e, hexec, he⟩ := exec_retentionScrub_of_grant (steps := steps) hready.1 h hgrant hpipe
  obtain ⟨hpass, hrow⟩ := Prod.mk.inj ((scrubState_finish e).trans he)
  exact ⟨_, hexec, rfl, hpass, by rw [hrow, tget_tset_same]⟩

end

/-! ### Time trouble begins (R379, R613) -/

/-- Time trouble and its start stand as they were, no reaction is owed anew, and no staging slot appears or changes its state. -/
structure TroubleKept (d e : Dev) : Prop where
  tt : rd Reg.PWR_STATUS_TT e = rd Reg.PWR_STATUS_TT d
  ttFrom : e.ftl.ttFrom = d.ftl.ttFrom
  todo : e.todo = d.todo
  slots : ∀ x ∈ e.stg.slots, ∃ y ∈ d.stg.slots, y.1 = x.1 ∧ y.2.state = x.2.state

theorem TroubleKept.trans {a b c : Dev} (h : TroubleKept a b) (g : TroubleKept b c) : TroubleKept a c := by
  refine ⟨g.tt.trans h.tt, g.ttFrom.trans h.ttFrom, g.todo.trans h.todo, fun x hx => ?_⟩
  obtain ⟨y, hy, hkey, hstate⟩ := g.slots x hx
  obtain ⟨z, hz, hkey', hstate'⟩ := h.slots y hy
  exact ⟨z, hz, hkey'.trans hkey, hstate'.trans hstate⟩

theorem TroubleKept.forEach {f : Nat → Dev → Dev} (h : ∀ n e, TroubleKept e (f n e)) (l : List Nat) (d : Dev) :
    TroubleKept d (Machine.forEach l f d) :=
  forEach_invariant (P := TroubleKept d) (fun n e he => he.trans (h n e)) l
    ⟨rfl, rfl, rfl, fun x hx => ⟨x, hx, rfl, rfl⟩⟩

theorem troubleKept_of_eq {d e : Dev} (htt : rd Reg.PWR_STATUS_TT e = rd Reg.PWR_STATUS_TT d) (hfrom : e.ftl.ttFrom = d.ftl.ttFrom)
    (htodo : e.todo = d.todo) (hslots : e.stg.slots = d.stg.slots) : TroubleKept d e :=
  ⟨htt, hfrom, htodo, fun x hx => ⟨x, hslots ▸ hx, rfl, rfl⟩⟩

theorem TroubleKept.refl (d : Dev) : TroubleKept d d := troubleKept_of_eq rfl rfl rfl rfl

theorem troubleKept_wr {f : Field} (h : Reg.PWR_STATUS_TT.off ≠ f.off) (v : Nat) (d : Dev) : TroubleKept d (wr f v d) :=
  troubleKept_of_eq (rd_wr_off h v d) rfl rfl rfl

theorem troubleKept_send (o : Out) (d : Dev) : TroubleKept d (send o d) := troubleKept_of_eq rfl rfl rfl rfl

theorem pausedReg_apart (p : Nat) : Reg.PWR_STATUS_TT.off ≠ (Reg.ETH_LINK_PAUSED p).off := by
  simp only [Reg.PWR_STATUS_TT, Reg.ETH_LINK_PAUSED]
  omega

theorem troubleKept_setPause (p cause mask : Nat) (d : Dev) : TroubleKept d (setPause p cause mask d) := by
  have hport : TroubleKept d (modPort p (fun x => { x with pauses := tset 0 x.pauses cause mask }) d) :=
    troubleKept_of_eq rfl rfl rfl rfl
  have hwritten (v : Nat) := hport.trans (troubleKept_wr (pausedReg_apart p) v _)
  unfold setPause
  dsimp only
  split <;> split
  · exact hwritten _
  · exact (hwritten _).trans (troubleKept_send ..)
  · exact (hwritten _).trans (troubleKept_send ..)
  · exact ((hwritten _).trans (troubleKept_send ..)).trans (troubleKept_send ..)

theorem troubleKept_pauseAll (cause mask : Nat) (d : Dev) : TroubleKept d (pauseAll cause mask d) :=
  .forEach (fun p e => troubleKept_setPause p cause mask e) _ d

theorem troubleKept_plnAll (d : Dev) : TroubleKept d (plnAll d) := by
  refine .forEach (fun n e => ?_) _ d
  split
  · exact troubleKept_of_eq rfl rfl rfl rfl
  · exact .refl e

theorem troubleKept_closeRow (n : Nat) (d : Dev) : TroubleKept d (closeRow n d) := by
  unfold closeRow
  split <;> exact troubleKept_of_eq rfl rfl rfl rfl

theorem troubleKept_flushHot (d : Dev) : TroubleKept d (flushHot d) := by
  refine .trans (b := { d with fiu.hotDirty := [] }) (troubleKept_of_eq rfl rfl rfl rfl) (.forEach (fun n e => ?_) _ _)
  unfold touchPage
  dsimp only
  split <;> exact troubleKept_of_eq rfl rfl rfl rfl

theorem slots_freeSlot (n : Nat) (d : Dev) : (freeSlot n d).stg.slots =
    (tdel n d.stg.slots).map fun p => (p.1, if p.2.older = some n then { p.2 with older := (getSlot n d).older } else p.2) := by
  have hreturned (p : Prop) [Decidable p] (c : Tab Nat) : (if p then { d with stg.capacity := c } else d).stg.slots = d.stg.slots := by
    split <;> rfl
  simp only [freeSlot, hreturned, tset, if_true]

theorem mem_slots_freeSlot {n : Nat} {d : Dev} {x : Nat × Slot} (hx : x ∈ (freeSlot n d).stg.slots) :
    x.1 ≠ n ∧ ∃ y ∈ d.stg.slots, y.1 = x.1 ∧ y.2.state = x.2.state := by
  rw [slots_freeSlot] at hx
  obtain ⟨y, hy, rfl⟩ := List.mem_map.1 hx
  refine ⟨tdel_not_mem y hy, y, List.mem_of_mem_filter hy, rfl, ?_⟩
  dsimp only
  split <;> rfl

theorem troubleKept_freeSlot (n : Nat) (d : Dev) : TroubleKept d (freeSlot n d) := by
  refine ⟨?_, ?_, (ctxsKept_freeSlot n d).todo, fun x hx => (mem_slots_freeSlot hx).2⟩ <;>
  · unfold freeSlot
    dsimp only
    split <;> rfl

/-- The slots of a list are withdrawn, and the mirror is told (R379). -/
abbrev withdrawSlots (l : List Nat) (d : Dev) : Dev := forEach l (fun n d => send (.mirrorSlot n) (freeSlot n d)) d

theorem troubleKept_withdraw (n : Nat) (d : Dev) : TroubleKept d (send (.mirrorSlot n) (freeSlot n d)) :=
  (troubleKept_freeSlot n d).trans (troubleKept_send _ _)

/-- None of the slots of the list is left. -/
theorem notMem_of_mem_withdrawSlots {l : List Nat} {d : Dev} {x : Nat × Slot} (hx : x ∈ (withdrawSlots l d).stg.slots) : x.1 ∉ l := by
  induction l generalizing d with
  | nil => exact List.not_mem_nil
  | cons n r ih =>
    obtain ⟨y, hy, hkey, -⟩ := (TroubleKept.forEach troubleKept_withdraw r _).slots x hx
    exact List.not_mem_cons_of_ne_of_not_mem (hkey ▸ (mem_slots_freeSlot hy).1) (ih hx)

/-- When the slots in state FILLING are withdrawn, none is left in that state. -/
theorem state_of_mem_withdrawSlots {d : Dev} {x : Nat × Slot}
    (hx : x ∈ (withdrawSlots ((d.stg.slots.filter fun x => x.2.state == 1).map (·.1)) d).stg.slots) : x.2.state ≠ 1 := by
  intro hfilling
  obtain ⟨y, hy, hkey, hstate⟩ := (TroubleKept.forEach troubleKept_withdraw _ d).slots x hx
  refine notMem_of_mem_withdrawSlots hx (List.mem_map.2 ⟨y, List.mem_filter.2 ⟨hy, ?_⟩, hkey⟩)
  simp [hstate, hfilling]

/-- The device as time trouble is detected: TT is set, requests are withdrawn, the time is noted, lanes and hosts are told. -/
abbrev troubleNoted (d : Dev) : Dev :=
  let e := notice Ev.PWR_FAIL 0 0 0 (setb Reg.PWR_STATUS_TT d)
  pauseAll 4 255 (plnAll { withdrawRequests e with pwr.ttEdges := 1, ftl.ttFrom := some (tempoNow e) })

theorem tempoNow_troubleNotice (d : Dev) : tempoNow (notice Ev.PWR_FAIL 0 0 0 (setb Reg.PWR_STATUS_TT d)) = tempoNow d := by
  rw [tempoNow, rd_notice (by decide) (by decide), setb, rd_wr_off (by decide)]
  rfl

theorem troubleNoted_spec (d : Dev) : rd Reg.PWR_STATUS_TT (troubleNoted d) = 1 ∧ (troubleNoted d).ftl.ttFrom = some (tempoNow d) ∧
    (troubleNoted d).todo = d.todo := by
  have hkept := (troubleKept_plnAll { withdrawRequests (notice Ev.PWR_FAIL 0 0 0 (setb Reg.PWR_STATUS_TT d)) with
    pwr.ttEdges := 1, ftl.ttFrom := some (tempoNow (notice Ev.PWR_FAIL 0 0 0 (setb Reg.PWR_STATUS_TT d))) }).trans
      (troubleKept_pauseAll 4 255 _)
  refine ⟨hkept.tt.trans ?_, hkept.ttFrom.trans ?_, hkept.todo.trans ?_⟩
  · refine (rd_notice (by decide) (by decide) Ev.PWR_FAIL 0 0 0 _).trans ?_
    rw [setb, rd_wr_same (by decide)]
    rfl
  · exact congrArg some (tempoNow_troubleNotice d)
  · exact notice_todo _ _ _ _ _

theorem beginTrouble_eq (d : Dev) : beginTrouble d =
    let e := withdrawSlots (((troubleNoted d).stg.slots.filter fun x => x.2.state == 1).map (·.1)) (troubleNoted d)
    wr Reg.MDL_FT_TT_PHASE 1 (flushHot (forEach ((e.stg.rows.filter fun r => r.2.state == 1).map (·.1)) closeRow e)) := rfl

/-- After the slots are withdrawn, what remains of the reaction keeps what it has done. -/
theorem beginTrouble_spec (d : Dev) : rd Reg.PWR_STATUS_TT (beginTrouble d) = 1 ∧ (beginTrouble d).ftl.ttFrom = some (tempoNow d) ∧
    (beginTrouble d).todo = d.todo ∧ rd Reg.MDL_FT_TT_PHASE (beginTrouble d) = 1 ∧ ∀ x ∈ (beginTrouble d).stg.slots, x.2.state ≠ 1 := by
  obtain ⟨htt, hfrom, htodo⟩ := troubleNoted_spec d
  rw [beginTrouble_eq]
  generalize troubleNoted d = a at htt hfrom htodo ⊢
  dsimp only
  have hslots := @state_of_mem_withdrawSlots a
  have hwithdrawn : TroubleKept a (withdrawSlots ((a.stg.slots.filter fun x => x.2.state == 1).map (·.1)) a) :=
    .forEach troubleKept_withdraw _ a
  generalize withdrawSlots ((a.stg.slots.filter fun x => x.2.state == 1).map (·.1)) a = e at hslots hwithdrawn ⊢
  have hrest := ((TroubleKept.forEach troubleKept_closeRow ((e.stg.rows.filter fun r => r.2.state == 1).map (·.1)) e).trans
    (troubleKept_flushHot _)).trans (troubleKept_wr (f := Reg.MDL_FT_TT_PHASE) (by decide) 1 _)
  have hall := hwithdrawn.trans hrest
  refine ⟨hall.tt.trans htt, hall.ttFrom.trans hfrom, hall.todo.trans htodo, rd_wr_same (by decide) _ _, fun x hx => ?_⟩
  obtain ⟨y, hy, -, hstate⟩ := hrest.slots x hx
  exact hstate ▸ hslots hy

theorem powerFailDetect_begins {s : State} (hready : s.ready) {vin t : Nat} {pfN : Bool} (hcalm : inTrouble s.dev = false)
    (hwatch : s.dev.pwr.pfWatch = true) (hdeb : rd Reg.PWR_PF_DEB s.dev ≤ t)
    (hfails : if rdb Reg.PWR_PF_PF_SRC s.dev then pfN = false else vin < rd Reg.PWR_PF_PF_MV s.dev) :
    Answers (.powerFailDetect vin pfN t) s fun d => inTrouble d = true ∧ d.ftl.ttFrom = some (tempoNow s.dev) ∧
      rd Reg.MDL_FT_TT_PHASE d = 1 ∧ ∀ x ∈ d.stg.slots, x.2.state ≠ 1 := by
  obtain ⟨htt, hfrom, htodo, hphase, hslots⟩ := beginTrouble_spec s.dev.quiet
  have hlow : (if rdb Reg.PWR_PF_PF_SRC s.dev.quiet then !pfN else vin < rd Reg.PWR_PF_PF_MV s.dev.quiet) = true := by
    rw [show rdb Reg.PWR_PF_PF_SRC s.dev.quiet = rdb Reg.PWR_PF_PF_SRC s.dev from rfl]
    split <;> simp_all
  have hnot : ¬(inTrouble s.dev.quiet || !s.dev.quiet.pwr.pfWatch ||
      !(if rdb Reg.PWR_PF_PF_SRC s.dev.quiet then !pfN else vin < rd Reg.PWR_PF_PF_MV s.dev.quiet) ||
      decide (t < rd Reg.PWR_PF_DEB s.dev.quiet)) = true := by
    rw [hlow, show inTrouble s.dev.quiet = false from hcalm, show s.dev.quiet.pwr.pfWatch = true from hwatch]
    simp only [Bool.false_or, Bool.not_true, decide_eq_true_eq]
    exact Nat.not_lt.2 hdeb
  have hexec : exec (.powerFailDetect vin pfN t) s = .next ⟨finish (beginTrouble s.dev.quiet), s.pending⟩ := by
    show execPowerFailDetect vin pfN t s = _
    rw [execPowerFailDetect, runLive_eq _ s hready.1]
    dsimp only
    rw [if_neg hnot]
  have he := EndedFrom.finish _ (htodo.trans hready.2)
  refine ⟨_, hexec, rfl, ?_, ?_, ?_, ?_⟩
  · rw [inTrouble, rdb, he.rd (by decide), htt]
    rfl
  · rw [he.ftl, hfrom]
    rfl
  · rw [he.rd (by decide), hphase]
  · rw [he.stg]
    exact hslots

/-! ### The chunks of the flush (R376, R377) -/

/-- The flush image with `n` more of its chunks written. -/
abbrev imageAfter (n : Nat) (d : Dev) : FlushImage :=
  let i := d.ftl.flush.getD (flushImageOf d)
  { i with chunks := min (flushTotal i d) (i.chunks + n) }

section
variable {s : State} {n : Nat}

/-- In time trouble the command asks for a PROG grant, or has one and writes chunks. -/
theorem exec_flushChunks (hlive : s.dev.live = true) (htrouble : inTrouble s.dev = true) (hfrom : s.dev.ftl.ttFrom ≠ none) :
    exec (.flushChunks n) s = .next ⟨finish (if !hasGrant (.engine (rowEngine 0 s.dev)) 1 s.dev then
      postReq { who := .engine (rowEngine 0 s.dev), cls := 1, cost := 3 } s.dev.quiet
      else wr Reg.MDL_FT_TT_PHASE 2 { s.dev.quiet with ftl.flush := some (imageAfter n s.dev) }), s.pending⟩ := by
  show execFlushChunks n s = _
  have hgoes : ¬(!inTrouble s.dev.quiet || s.dev.quiet.ftl.ttFrom.isNone) = true := by
    rw [show inTrouble s.dev.quiet = true from htrouble]
    simpa using hfrom
  rw [execFlushChunks, runLive_eq _ s hlive]
  dsimp only
  rw [if_neg hgoes]
  rfl

theorem flushChunks_waits (hready : s.ready) (htrouble : inTrouble s.dev = true) (hfrom : s.dev.ftl.ttFrom ≠ none)
    (hgrant : hasGrant (.engine (rowEngine 0 s.dev)) 1 s.dev = false)
    (hnew : ∀ q ∈ s.dev.pwr.waiting, q.who = .engine (rowEngine 0 s.dev) → q.cls ≠ 1) :
    Answers (.flushChunks n) s fun d =>
      d.pwr.waiting = s.dev.pwr.waiting ++ [{ who := .engine (rowEngine 0 s.dev), cls := 1, cost := 3 }] := by
  refine ⟨_, exec_flushChunks hready.1 htrouble hfrom, rfl, ?_⟩
  rw [hgrant]
  exact waiting_finish_postReq hready.2 hnew

theorem flushChunks_writes (hready : s.ready) (htrouble : inTrouble s.dev = true) (hfrom : s.dev.ftl.ttFrom ≠ none)
    (hgrant : hasGrant (.engine (rowEngine 0 s.dev)) 1 s.dev = true) :
    Answers (.flushChunks n) s fun d => d.ftl.flush = some (imageAfter n s.dev) ∧ rd Reg.MDL_FT_TT_PHASE d = 2 := by
  refine ⟨_, exec_flushChunks hready.1 htrouble hfrom, rfl, ?_⟩
  rw [hgrant]
  have he := EndedFrom.finish (wr Reg.MDL_FT_TT_PHASE 2 { s.dev.quiet with ftl.flush := some (imageAfter n s.dev) }) hready.2
  exact ⟨congrArg Ftl.flush he.ftl, (he.rd (by decide)).trans (rd_wr_same (by decide) _ _)⟩

end

/-! ### The manifest ends the flush (R378, R379) -/

theorem rd_tt_reset : rd Reg.PWR_STATUS_TT Dev.reset = 0 := by decide

theorem inTrouble_reboot (cause : Nat) (d : Dev) : inTrouble (reboot cause d) = false := by
  rw [inTrouble, rdb, reboot, rd_wr_apart (by decide) (by decide) (by decide), rd_wr_off (by decide)]
  exact congrArg (· != 0) rd_tt_reset

theorem outside_reboot (cause : Nat) (d : Dev) : (reboot cause d).outside = d.outside := rfl

theorem ftlOutside_pauseAll (cause mask : Nat) (d : Dev) :
    ((pauseAll cause mask d).ftl, (pauseAll cause mask d).outside) = (d.ftl, d.outside) := by
  refine forEach_keeps (fun d => (d.ftl, d.outside)) _ (fun p e => ?_) _ d
  unfold setPause
  dsimp only
  split <;> split <;> rfl

theorem flushManifestWritten_ends {s : State} (hready : s.ready) {ms : Nat} {i : FlushImage} (hflush : s.dev.ftl.flush = some i)
    (hdone : flushTotal i s.dev ≤ i.chunks) :
    Answers (.flushManifestWritten ms) s fun d => inTrouble d = false ∧ ∀ side, s.dev.ftl.armed = some side →
      tget none d.outside.sides side = some { i with manifest := true, us := 1000 * ms } := by
  have hnot : ¬i.chunks < flushTotal i s.dev.quiet := Nat.not_lt.2 hdone
  have hexec : ∃ e, exec (.flushManifestWritten ms) s = .next ⟨finish (reboot 5 e), s.pending⟩ ∧ ∀ side, s.dev.ftl.armed = some side →
      tget none e.outside.sides side = some { i with manifest := true, us := 1000 * ms } := by
    show ∃ e, execFlushManifestWritten ms s = _ ∧ _
    rw [execFlushManifestWritten, runLive_eq _ s hready.1]
    dsimp only
    rw [show s.dev.quiet.ftl.flush = some i from hflush]
    dsimp only
    rw [if_neg hnot]
    refine ⟨_, rfl, fun side hside => ?_⟩
    obtain ⟨hftl, -⟩ := Prod.mk.inj (ftlOutside_pauseAll 4 0 s.dev.quiet)
    have harmed : (pauseAll 4 0 s.dev.quiet).ftl.armed = some side := (congrArg Ftl.armed hftl).trans hside
    simp only [wr_ftl, harmed, tget_tset_same]
  obtain ⟨e, hexec, hside⟩ := hexec
  have he := EndedFrom.finish (reboot 5 e) rfl
  refine ⟨_, hexec, rfl, ?_, fun side h => ?_⟩
  · rw [inTrouble, rdb, he.rd (by decide)]
    exact inTrouble_reboot 5 e
  · rw [he.outside, outside_reboot]
    exact hside side h

/-- Settles O36. A power fail runs one reaction of the model, `beginTrouble`, after which no slot is FILLING; a chunk's write and the manifest
are one assignment each, and the manifest's ends in a reset, where TT reads 0. Under a grant the scrub's VERIFY job ends OK, as its lane is
ready; the pass and the row then set stand through the columns read, the reactions and the end of the command (`scrubState_finish`),
whether or not a Check entry is free. FLUSH_CHUNKS' grant, direct row reads and the scrub's pass and turn are the model's choices (log
entries 74, 75 and 77). -/
theorem timeTroubleFlushes : Obligations.TimeTroubleFlushes := by
  unfold Obligations.TimeTroubleFlushes
  intro s hready
  refine ⟨fun vin pfN t hcalm hwatch hdeb hfails => powerFailDetect_begins hready hcalm hwatch hdeb hfails,
    fun n htrouble hfrom => ⟨fun hgrant hnew => flushChunks_waits hready htrouble hfrom hgrant hnew,
      fun hgrant => flushChunks_writes hready htrouble hfrom hgrant⟩,
    fun ms i hflush hdone => flushManifestWritten_ends hready hflush hdone,
    fun n steps hcalm hclosed hown hserves => ?_⟩
  intro pass row who hleft
  have hscrubs : Scrubs n s.dev := ⟨hcalm, hclosed, hown, hserves, hleft⟩
  refine ⟨fun hgrant hnew => retentionScrub_waits hready hscrubs hgrant hnew, fun hgrant hpipe => ?_⟩
  obtain ⟨e, hexec, hpending, hpass, hrow⟩ := retentionScrub_reads (steps := steps) hready hscrubs hgrant hpipe
  exact ⟨e, hexec, hpending, hpass, fun _ => hrow⟩

end Sys2Proof.Proofs

/-!
PROOFS. O1 and O3: a step is `exec` on the queue's rest, and every command ends in `finish`, which settles the interrupt levels last and
drops what a chain of reactions leaves owed.
-/

namespace Sys2Proof.Proofs

open Sys2Proof Sys2Proof.Machine

/-- Settles O1: both parts are the two branches of `step`. -/
theorem stepRunsFront : Obligations.StepRunsFront := by
  unfold Obligations.StepRunsFront
  exact ⟨fun _ _ _ => rfl, fun _ => rfl⟩

/-! ### The levels that settling shows are those of the state that it leaves (R625) -/

theorem statusMasks_off_not_settled : ∀ m ∈ statusMasks, m.off ∉ settleRegs := by decide

theorem chkOpen_not_settled (k : Nat) : (Reg.FLT_CHK_OPEN k).off ∉ settleRegs := by
  simp [settleRegs, Reg.FLT_CHK_OPEN, Reg.GLB_INTR_STAT_LEVEL, msixPba]; omega

theorem dchkOpen_not_settled (j : Nat) : (Reg.FLT_DCHK_OPEN j).off ∉ settleRegs := by
  simp [settleRegs, Reg.FLT_DCHK_OPEN, Reg.GLB_INTR_STAT_LEVEL, msixPba]; omega

theorem rdoneUnit_not_settled {c : Nat} (h : c < 8) : (Reg.GLB_RDONE_UNIT c).off ∉ settleRegs := by
  simp [settleRegs, Reg.GLB_RDONE_UNIT, Reg.GLB_INTR_STAT_LEVEL, msixPba]; omega

theorem any_congr {α : Type} {l : List α} {p q : α → Bool} (h : ∀ a ∈ l, p a = q a) : l.any p = l.any q := by
  rw [Bool.eq_iff_iff, List.any_eq_true, List.any_eq_true]
  exact exists_congr fun a => and_congr_right fun ha => by rw [h a ha]

/-- No level depends on what settling writes. -/
theorem intrLevels_of_settledFrom {d e : Dev} (h : SettledFrom d e) : intrLevels e = intrLevels d := by
  have hrdb : ∀ {f : Field}, f.off ∉ settleRegs → rdb f e = rdb f d := fun hf => by simp only [rdb, rd, ← rdReg.eq_1, h.regs _ hf]
  have hmask : ∀ n, statusMasks.any (fun m => m.block == n && maskSet m e) = statusMasks.any (fun m => m.block == n && maskSet m d) :=
    fun n => any_congr fun m hm => by rw [maskSet, maskSet, h.regs _ (statusMasks_off_not_settled m hm)]
  have hflt : fltLevel e = fltLevel d := by
    simp only [fltLevel, hrdb (chkOpen_not_settled _), hrdb (dchkOpen_not_settled _)]
  have hrdone : rdoneLevel e = rdoneLevel d := any_congr fun c hc => hrdb (rdoneUnit_not_settled (List.mem_range.1 hc))
  simp only [intrLevels, hmask, hflt, hrdone]

theorem foldl_levels_lt (p : Nat → Bool) : ∀ n, (List.range n).foldl (fun v k => if p k then v + 2 ^ k else v) 0 < 2 ^ n := by
  intro n
  induction n with
  | zero => simp
  | succ n ih =>
    rw [List.range_succ, List.foldl_append, List.foldl_cons, List.foldl_nil, pow_succ]
    split <;> omega

theorem intrLevels_lt (d : Dev) : intrLevels d < 2 ^ 64 := foldl_levels_lt _ 64

theorem levelsShown_settle (d : Dev) : rd Reg.GLB_INTR_STAT_LEVEL (settle d) = intrLevels (settle d) := by
  rw [intrLevels_of_settledFrom (SettledFrom.settle d), settle, rd_wr_same (by decide)]
  exact Nat.mod_eq_of_lt (intrLevels_lt d)

/-! ### Every command -/

theorem todo_finish (d : Dev) : (finish d).todo = [] := by
  unfold finish
  rw [(SettledFrom.settle _).rest]

theorem levelsShown_finish (d : Dev) : rd Reg.GLB_INTR_STAT_LEVEL (finish d) = intrLevels (finish d) := levelsShown_settle _

theorem exec_settles (c : Instr) (s : State) : ∃ t, exec c s = .next t ∧ t.levelsShown ∧ t.settled ∧ t.pending = s.pending := by
  obtain ⟨f, hrun⟩ := exec_is_run c s
  exact ⟨_, hrun.trans (run_eq f s), levelsShown_finish _, todo_finish _, rfl⟩

/-- Settles O3: every command is a run of one effect (`exec_is_run`) and ends in `finish`; a step on an empty queue idles. -/
theorem everyStepSettles : Obligations.EveryStepSettles := by
  unfold Obligations.EveryStepSettles
  refine ⟨fun s t hshown hsettled hstep => ?_, exec_settles⟩
  obtain ⟨d, queue⟩ := s
  cases queue with
  | nil =>
    cases hstep
    exact ⟨hshown, hsettled, rfl⟩
  | cons c rest =>
    obtain ⟨t', hexec, hshown', hsettled', hpending⟩ := exec_settles c ⟨d, rest⟩
    cases hstep.symm.trans hexec
    exact ⟨hshown', hsettled', hpending⟩

end Sys2Proof.Proofs

/-!
PROOFS. O4 is refuted: a stopped device still programs its persistent ledger (R581), and a failed programming raises SCR_LEDGER_FAIL (R587).
With all 64 Check entries open the oldest becomes a Double check (R575), and the unit that it names is quarantined (R578), Checkmate or not.
-/

namespace Sys2Proof.Proofs

-- The kernel evaluations below are long; one after another they hold fewer stacks at once.
set_option Elab.async false

open Sys2Proof Sys2Proof.Machine

/-- A Checkmate raised in SERVICE is in force, a record waits for the persistent ledger, and every Check entry and every Double check entry is
open; entry 0, the oldest Check, names engine 0. -/
def stoppedDev : Dev :=
  openLaneDoubleChecks (openEngineChecks { ({} : Dev) with flt.checkmateIn := some 1, scr.pqueue := [{}] })

theorem stoppedDev_settled : (State.mk stoppedDev []).settled := by decide +kernel
theorem stoppedDev_checkmate : stoppedDev.flt.checkmateIn = some 1 := by decide +kernel
theorem stoppedDev_awake : stoppedDev.pwr.adj3 = false := by decide +kernel
theorem stoppedDev_engine : (tget {} stoppedDev.engines 0).quar = false := by decide +kernel

/-- LEDGER_RECORD_PROGRAM whose programming fails: engine 0 is quarantined before the command ends. -/
theorem ledgerRecordProgram_stoppedDev :
    ∃ t, exec (.ledgerRecordProgram true false) ⟨stoppedDev, []⟩ = .next t ∧ (tget {} t.dev.engines 0).quar = true :=
  ⟨_, rfl, by decide +kernel⟩

/-- Refutes O4: it asks that under a Checkmate raised in SERVICE no command but the removal of VIN change the engines. On `stoppedDev` a
failed programming of the persistent ledger escalates the oldest Check, and engine 0 is quarantined. No hypothesis keeps a Check entry free
(`State.checkRoom`) or the medium good. -/
theorem not_serviceCheckmateStands : ¬ Obligations.ServiceCheckmateStands := by
  unfold Obligations.ServiceCheckmateStands
  rintro ⟨hstands, -⟩
  obtain ⟨t, hnext, -, -, -, -, -, hengines, -⟩ :=
    hstands (.ledgerRecordProgram true false) ⟨stoppedDev, []⟩ stoppedDev_settled stoppedDev_checkmate stoppedDev_awake (by decide)
  obtain ⟨u, hu, hquar⟩ := ledgerRecordProgram_stoppedDev
  rw [hnext] at hu
  injection hu with htu
  rw [← htu, hengines] at hquar
  exact absurd (hquar.symm.trans stoppedDev_engine) (by decide)

end Sys2Proof.Proofs

/-!
PROOFS. O7 is refuted: a compression stream is also written when a lane is quarantined. A quarantine ends the lane's job CHECK_FAIL
(Table 20.3), and a START job that ends so ends its stream (R267); what quarantines the lane may be any command that raises a Double check.
-/

namespace Sys2Proof.Proofs

open Sys2Proof Sys2Proof.Machine

/-- Compression lane 0 holds a START descriptor of ring 0 whose context, at address 0, is an open stream, and a Check of that lane was raised
2,000 tempi ago; every Double check entry is open. -/
def streamOpenDev : Dev :=
  wr Reg.TMP_NUMBER_NUMBER 2000 <| setb (Reg.FLT_CHK_OPEN 0) <| wr (Reg.FLT_CHK_UNIT 0) (unitOf 4 0) <|
    wr (Reg.FLT_CHK_CODE 0) Ev.CMP_LANE <| openLaneDoubleChecks { ({} : Dev) with
      mem := [(0, 1), (1, 1)]
      accels := [(4, { lanes := [(0, { job := some (0, 0) })] })]
      cmpStreams := [(0, { opn := true })] }

theorem streamOpenDev_streams : streamOpenDev.cmpStreams = [(0, { opn := true })] := by decide +kernel

/-- CHECK_ESCALATE of that Check quarantines the lane, and the stream is gone. -/
theorem checkEscalate_streamOpenDev : ∃ t, exec (.checkEscalate 0) ⟨streamOpenDev, []⟩ = .next t ∧ t.dev.cmpStreams = [] :=
  ⟨_, rfl, by decide +kernel⟩

/-- Refutes O7: it asks that compression streams change by the jobs of their lanes alone. On `streamOpenDev` the escalation of a Check of
compression lane 0 quarantines the lane, and its START job's end closes the stream. -/
theorem not_storesHaveFewWriters : ¬ Obligations.StoresHaveFewWriters := by
  unfold Obligations.StoresHaveFewWriters
  intro h
  obtain ⟨t, hnext, hgone⟩ := checkEscalate_streamOpenDev
  obtain ⟨-, -, -, -, -, -, -, -, -, hvolatile⟩ := h _ _ _ hnext
  obtain ⟨-, -, hstreams⟩ := hvolatile rfl
  have hkept := hstreams rfl
  rw [hgone, streamOpenDev_streams] at hkept
  exact absurd hkept (by decide)

end Sys2Proof.Proofs

/-!
PROOFS. O8 and O9: the captures, the step and the corrections of tempo time. Each is one effect on the tempo unit that owes no reaction, so
what it answers is read off its effect through `EndedFrom`.
-/

namespace Sys2Proof.Proofs

open Sys2Proof Sys2Proof.Machine

/-! ### What a command without reactions answers -/

/-- What a live command that owes nothing answers, when it answers a next state. -/
theorem endedFrom_of_runLive {f : Dev → Dev} {s t : State} (hf : (f s.dev.quiet).todo = []) (hs : s.settled) (h : runLive f s = .next t) :
    EndedFrom (f s.dev.quiet) t.dev ∨ EndedFrom s.dev.quiet t.dev := by
  cases hlive : s.dev.live with
  | true =>
    cases (runLive_eq f s hlive).symm.trans h
    exact .inl (.finish _ hf)
  | false =>
    cases (runLive_dead f s hlive).symm.trans h
    exact .inr (.finish _ hs)

/-! ### Time counted up to a cycle (R55, R59) -/

theorem slewFs_zero (d : Dev) : slewFs 0 d = 0 := by simp [slewFs]

theorem timeAt_congr {cyc : Nat} {d e : Dev} (hsec : e.tmp.sec = d.tmp.sec) (hns : e.tmp.ns = d.tmp.ns)
    (hfs : timeFs cyc e = timeFs cyc d) : timeAt cyc e = timeAt cyc d := by
  simp only [timeAt, elapsedNs, hsec, hns, hfs]

/-- At the cycle up to which time has been counted, what counts is what has been counted. -/
theorem timeFs_at {cyc : Nat} {d : Dev} (h : d.tmp.atCyc = cyc) : timeFs cyc d = d.tmp.atFs := by
  simp [timeFs, h, slewFs_zero]

/-- A correction in a cycle moves no time that has passed: whatever slew and rate it sets, time in the next cycle is as counted. -/
theorem timeAt_of_counted {cyc : Nat} {d e : Dev} (hle : d.tmp.atCyc ≤ cyc) (hsec : e.tmp.sec = d.tmp.sec) (hns : e.tmp.ns = d.tmp.ns)
    (hcyc : e.tmp.atCyc = (countTime cyc d).tmp.atCyc) (hfs : e.tmp.atFs = (countTime cyc d).tmp.atFs) : timeAt cyc e = timeAt cyc d := by
  have hmax : max cyc d.tmp.atCyc = cyc := Nat.max_eq_left hle
  refine timeAt_congr hsec hns ?_
  rw [timeFs_at (hcyc.trans hmax), hfs]
  simp only [countTime, hmax]

theorem timeAt_ended {d e : Dev} (h : EndedFrom d e) (cyc : Nat) : timeAt cyc e = timeAt cyc d := by
  have hfadj : rd Reg.TMP_FADJ_FADJ e = rd Reg.TMP_FADJ_FADJ d := h.rd (by decide)
  refine timeAt_congr (by rw [h.tmp]) (by rw [h.tmp]) ?_
  simp only [timeFs, cycleRate, slewFs, h.tmp, hfadj]

/-! ### The effects -/

/-- Number, seconds and nanoseconds of one cycle are captured (R56). -/
def takeSnap (cyc : Nat) (d : Dev) : Dev :=
  wr Reg.TMP_SNAP_NUM_NUMBER (tempoNow d) (wr Reg.TMP_SNAP_SEC_SEC (timeAt cyc d).1 (wr Reg.TMP_SNAP_NS_NS (timeAt cyc d).2 d))

def setFadj (v : BitVec 32) (cyc : Nat) (d : Dev) : Dev :=
  if v.toInt.natAbs ≤ 500000000 then wr Reg.TMP_FADJ_FADJ v.toNat (countTime (cyc + 1) d) else d

def setPadj (v : BitVec 32) (cyc : Nat) (d : Dev) : Dev :=
  wr Reg.TMP_PADJ_PADJ v.toNat { countTime (cyc + 1) d with tmp.padjFs := v.toInt * 1000000 }

def capturePps (cyc : Nat) (d : Dev) : Dev := wr Reg.TMP_PPS_CAPT_NS (timeAt cyc d).2 d

theorem exec_tmpSnapTake (cyc : Nat) (s : State) : exec (.tmpSnapTake cyc) s = runLive (takeSnap cyc) s := rfl
theorem exec_tmpFadjWrite (v : BitVec 32) (cyc : Nat) (s : State) : exec (.tmpFadjWrite v cyc) s = runLive (setFadj v cyc) s := rfl
theorem exec_tmpPadjWrite (v : BitVec 32) (cyc : Nat) (s : State) : exec (.tmpPadjWrite v cyc) s = runLive (setPadj v cyc) s := rfl
theorem exec_ppsInEdge (cyc : Nat) (s : State) : exec (.ppsInEdge cyc) s = runLive (capturePps cyc) s := rfl

theorem timeAt_snd_lt (cyc : Nat) (d : Dev) : (timeAt cyc d).2 < 1000000000 := Nat.mod_lt _ (by decide)
theorem timeAt_fst_lt (cyc : Nat) (d : Dev) : (timeAt cyc d).1 < 2 ^ 48 := Nat.mod_lt _ (by decide)

theorem rd_takeSnap (cyc : Nat) (d : Dev) : rd Reg.TMP_SNAP_NUM_NUMBER (takeSnap cyc d) = tempoNow d ∧
    rd Reg.TMP_SNAP_SEC_SEC (takeSnap cyc d) = (timeAt cyc d).1 ∧ rd Reg.TMP_SNAP_NS_NS (takeSnap cyc d) = (timeAt cyc d).2 := by
  refine ⟨?_, ?_, ?_⟩ <;> unfold takeSnap
  · rw [rd_wr_same (by decide)]
    exact Nat.mod_eq_of_lt (rd_lt Reg.TMP_NUMBER_NUMBER d)
  · rw [rd_wr_off (by decide), rd_wr_same (by decide)]
    exact Nat.mod_eq_of_lt (Nat.lt_of_lt_of_le (timeAt_fst_lt cyc d) (by decide))
  · rw [rd_wr_off (by decide), rd_wr_off (by decide), rd_wr_same (by decide)]
    exact Nat.mod_eq_of_lt (Nat.lt_of_lt_of_le (timeAt_snd_lt cyc d) (by decide))

/-! ### The step (R42) -/

theorem tmp_endPowerUpSrc (d : Dev) : (endPowerUpSrc d).tmp = { d.tmp with powerUpSrc := false } := by rw [endPowerUpSrc_eq, wr_tmp]

theorem todo_endPowerUpSrc (d : Dev) : (endPowerUpSrc d).todo = d.todo := by rw [endPowerUpSrc_eq, wr_todo]

/-- The time set, before the number is recomputed. -/
def setTime (sec ns cyc : Nat) (d : Dev) : Dev :=
  { countTime cyc d with tmp.sec := sec, tmp.ns := ns, tmp.atFs := 0, cdt.start := none }

theorem stepTime_eq (sec ns cyc : Nat) (d : Dev) : stepTime sec ns cyc d =
    endPowerUpSrc (wr Reg.TMP_NUMBER_NUMBER (tempoNumber sec ns (periodNs (setTime sec ns cyc d))) (setTime sec ns cyc d)) := rfl

theorem periodNs_setTime (sec ns cyc : Nat) (d : Dev) : periodNs (setTime sec ns cyc d) = periodNs d := rfl

theorem tempoNumber_lt (sec ns p : Nat) : tempoNumber sec ns p < 2 ^ 64 := Nat.mod_lt _ (by positivity)

theorem tempoNow_stepTime (sec ns cyc : Nat) (d : Dev) : tempoNow (stepTime sec ns cyc d) = tempoNumber sec ns (periodNs d) := by
  rw [stepTime_eq, tempoNow, rd_endPowerUpSrc (by decide) (by decide), rd_wr_same (by decide), periodNs_setTime]
  exact Nat.mod_eq_of_lt (Nat.lt_of_lt_of_le (tempoNumber_lt ..) (by decide))

theorem stepTime_time (sec ns cyc : Nat) (d : Dev) : (stepTime sec ns cyc d).tmp.sec = sec ∧ (stepTime sec ns cyc d).tmp.ns = ns ∧
    (stepTime sec ns cyc d).todo = d.todo := by
  rw [stepTime_eq, tmp_endPowerUpSrc, todo_endPowerUpSrc, wr_tmp, wr_todo]
  exact ⟨rfl, rfl, rfl⟩

/-! ### The commands -/

section answers

variable {s : State} (hready : s.ready)
include hready

theorem tmpSnapTake_answers (cyc : Nat) : Answers (.tmpSnapTake cyc) s fun d =>
    rd Reg.TMP_SNAP_NUM_NUMBER d = tempoNow s.dev ∧ rd Reg.TMP_SNAP_SEC_SEC d = (timeAt cyc s.dev).1 ∧
      rd Reg.TMP_SNAP_NS_NS d = (timeAt cyc s.dev).2 := by
  refine answers_live (exec_tmpSnapTake cyc s) hready.1 hready.2 fun e he => ?_
  rw [he.rd (by decide), he.rd (by decide), he.rd (by decide)]
  exact rd_takeSnap cyc s.dev.quiet

theorem tempoStep_answers_startUp (cyc : Nat) (hstate : glbState s.dev = 0) : Answers (.tempoStep cyc) s fun d =>
    d.tmp.sec = rd Reg.TMP_SET_SEC_SEC s.dev ∧ d.tmp.ns = rd Reg.TMP_SET_NS_NS s.dev ∧
      tempoNow d = tempoNumber d.tmp.sec d.tmp.ns (periodNs s.dev) := by
  have hruns : RunsTo (.tempoStep cyc) s (stepTime (rd Reg.TMP_SET_SEC_SEC s.dev) (rd Reg.TMP_SET_NS_NS s.dev) cyc s.dev.quiet) :=
    runsTo_of_live (execTempoStep cyc s) rfl rfl hready (if_pos hstate)
  obtain ⟨hsec, hns, htodo⟩ := stepTime_time (rd Reg.TMP_SET_SEC_SEC s.dev) (rd Reg.TMP_SET_NS_NS s.dev) cyc s.dev.quiet
  refine hruns.answers (htodo.trans hready.2) fun e he => ?_
  rw [he.tmp, hsec, hns, tempoNow, he.rd (by decide)]
  exact ⟨rfl, rfl, tempoNow_stepTime ..⟩

theorem tempoStep_answers_later (cyc : Nat) (hstate : glbState s.dev ≠ 0) : Answers (.tempoStep cyc) s fun d =>
    d.tmp = s.dev.tmp ∧ tempoNow d = tempoNow s.dev := by
  have hruns : RunsTo (.tempoStep cyc) s s.dev.quiet := runsTo_of_live (execTempoStep cyc s) rfl rfl hready (if_neg hstate)
  exact hruns.answers hready.2 fun e he => ⟨he.tmp, he.rd (by decide)⟩

theorem tmpFadjWrite_answers (v : BitVec 32) (cyc : Nat) : Answers (.tmpFadjWrite v cyc) s fun d =>
    rd Reg.TMP_FADJ_FADJ d = (if v.toInt.natAbs ≤ 500000000 then v.toNat else rd Reg.TMP_FADJ_FADJ s.dev) ∧
      (s.dev.tmp.atCyc ≤ cyc + 1 → timeAt (cyc + 1) d = timeAt (cyc + 1) s.dev) := by
  by_cases h : v.toInt.natAbs ≤ 500000000
  · have heffect : setFadj v cyc s.dev.quiet = wr Reg.TMP_FADJ_FADJ v.toNat (countTime (cyc + 1) s.dev.quiet) := if_pos h
    refine answers_live (exec_tmpFadjWrite v cyc s) hready.1 (by rw [heffect]; exact hready.2) fun e he => ?_
    rw [heffect] at he
    refine ⟨?_, fun hle => (timeAt_ended he _).trans (timeAt_of_counted (d := s.dev.quiet) hle rfl rfl rfl rfl)⟩
    rw [if_pos h, he.rd (by decide), rd_wr_same (by decide)]
    exact Nat.mod_eq_of_lt v.isLt
  · have heffect : setFadj v cyc s.dev.quiet = s.dev.quiet := if_neg h
    refine answers_live (exec_tmpFadjWrite v cyc s) hready.1 (by rw [heffect]; exact hready.2) fun e he => ?_
    rw [heffect] at he
    exact ⟨by rw [if_neg h, he.rd (by decide)]; rfl, fun _ => timeAt_ended he _⟩

theorem tmpPadjWrite_answers (v : BitVec 32) (cyc : Nat) : Answers (.tmpPadjWrite v cyc) s fun d =>
    rd Reg.TMP_PADJ_PADJ d = v.toNat ∧ d.tmp.padjFs = v.toInt * 1000000 ∧
      (s.dev.tmp.atCyc ≤ cyc + 1 → timeAt (cyc + 1) d = timeAt (cyc + 1) s.dev) := by
  refine answers_live (exec_tmpPadjWrite v cyc s) hready.1 hready.2 fun e he => ⟨?_, by rw [he.tmp]; rfl, fun hle => ?_⟩
  · rw [he.rd (by decide), setPadj, rd_wr_same (by decide)]
    exact Nat.mod_eq_of_lt v.isLt
  · exact (timeAt_ended he _).trans (timeAt_of_counted (d := s.dev.quiet) hle rfl rfl rfl rfl)

theorem ppsInEdge_answers (cyc : Nat) : Answers (.ppsInEdge cyc) s fun d => rd Reg.TMP_PPS_CAPT_NS d = (timeAt cyc s.dev).2 := by
  refine answers_live (exec_ppsInEdge cyc s) hready.1 hready.2 fun e he => ?_
  rw [he.rd (by decide), capturePps, rd_wr_same (by decide)]
  exact Nat.mod_eq_of_lt (Nat.lt_of_lt_of_le (timeAt_snd_lt cyc s.dev.quiet) (by decide))

theorem ppsOutWidthEnd_answers (ms : Nat) (hhigh : s.dev.tmp.ppsOut = true) (hdue : rd Reg.TMP_CTRL_PPS_WIDTH s.dev ≤ ms) :
    Answers (.ppsOutWidthEnd ms) s fun d => d.tmp.ppsOut = false ∧ (s.dev.king.held = false → Out.pin .ppsOut false ∈ d.out) := by
  have hruns : RunsTo (.ppsOutWidthEnd ms) s (setPpsOut false s.dev.quiet) :=
    runsTo_of_live (execPpsOutWidthEnd ms s) rfl rfl hready (if_pos (by simp [hhigh, hdue]))
  cases hheld : s.dev.king.held with
  | true =>
    have heffect : setPpsOut false s.dev.quiet = { s.dev.quiet with tmp.ppsOut := false } := if_pos hheld
    rw [heffect] at hruns
    exact hruns.answers hready.2 fun e he => ⟨by rw [he.tmp], nofun⟩
  | false =>
    have heffect : setPpsOut false s.dev.quiet = send (.pin .ppsOut false) { s.dev.quiet with tmp.ppsOut := false } :=
      if_neg (by simp [hheld])
    rw [heffect] at hruns
    exact hruns.answers hready.2 fun e he => ⟨by rw [he.tmp]; rfl, fun _ => he.mem_out (by simp)⟩

end answers

/-- Settles O8, command by command. A correction counts the time up to the cycle in which it acts, so that what has passed stands. -/
theorem tempoTimeCommands : Obligations.TempoTimeCommands := by
  unfold Obligations.TempoTimeCommands
  intro s hready
  exact ⟨tmpSnapTake_answers hready, tempoStep_answers_startUp hready, tempoStep_answers_later hready, tmpFadjWrite_answers hready,
    tmpPadjWrite_answers hready, ppsInEdge_answers hready, ppsOutWidthEnd_answers hready⟩

/-! ### What the captures and corrections leave as it was -/

/-- Registers but those listed, and memory, are as before; of tempo time only what a correction counts may differ. -/
structure TempoKept (but : List Nat) (d e : Dev) : Prop where
  regs : ∀ o, o ∉ but → rdReg o e = rdReg o d
  mem : e.mem = d.mem
  todo : e.todo = d.todo

theorem tempoKept_wr {but : List Nat} {d e : Dev} (h : TempoKept but d e) (f : Field) (v : Nat) (hf : f.off ∈ but) :
    TempoKept but d (wr f v e) :=
  ⟨fun o ho => (rdReg_wr_off (by rintro rfl; exact ho hf) v e).trans (h.regs o ho), h.mem, h.todo⟩

theorem TempoKept.ended {but : List Nat} {d e g : Dev} (h : TempoKept but d e) (he : EndedFrom e g) : RegsKept but d g ∧ MemKept d g :=
  ⟨fun o ho ha => (he.rdReg ha).trans (h.regs o ho), fun a => by rw [memByte, he.mem, h.mem]; rfl⟩

theorem tempoKept_quiet (but : List Nat) (d : Dev) : TempoKept but d d.quiet := ⟨fun _ _ => rfl, rfl, rfl⟩

/-- A live command of the tempo unit that keeps what `TempoKept` names, in whatever state the device is. -/
theorem tempo_frame {but : List Nat} {f : Dev → Dev} {s t : State} {P : Tmp → Prop} (hs : s.settled) (hnext : runLive f s = .next t)
    (hkept : TempoKept but s.dev (f s.dev.quiet)) (htmp : P (f s.dev.quiet).tmp) (hstands : P s.dev.tmp) :
    RegsKept but s.dev t.dev ∧ MemKept s.dev t.dev ∧ P t.dev.tmp := by
  rcases endedFrom_of_runLive (hkept.todo.trans hs) hs hnext with he | he
  · obtain ⟨hregs, hmem⟩ := hkept.ended he
    exact ⟨hregs, hmem, by rw [he.tmp]; exact htmp⟩
  · obtain ⟨hregs, hmem⟩ := (tempoKept_quiet but s.dev).ended he
    exact ⟨hregs, hmem, by rw [he.tmp]; exact hstands⟩

/-- Settles O9: each command writes the registers listed for it and nothing else but the time that a correction counts; a device that does
not act keeps everything. -/
theorem tempoCommandsFrame : Obligations.TempoCommandsFrame := by
  unfold Obligations.TempoCommandsFrame
  intro s t hs
  refine ⟨fun cyc h => ?_, fun v cyc h => ?_, fun v cyc h => ?_, fun cyc h => ?_⟩
  · rw [exec_tmpSnapTake] at h
    exact tempo_frame (P := (· = s.dev.tmp)) hs h
      (tempoKept_wr (tempoKept_wr (tempoKept_wr (tempoKept_quiet _ _) _ _ (by simp)) _ _ (by simp)) _ _ (by simp)) rfl rfl
  · rw [exec_tmpFadjWrite] at h
    have hcount : TempoKept [Reg.TMP_FADJ_FADJ.off] s.dev (countTime (cyc + 1) s.dev.quiet) := ⟨fun _ _ => rfl, rfl, rfl⟩
    refine tempo_frame (P := fun x => x = { s.dev.tmp with atFs := x.atFs, atCyc := x.atCyc, padjFs := x.padjFs }) hs h ?_ ?_ rfl
    all_goals unfold setFadj; split
    · exact tempoKept_wr hcount _ _ (by simp)
    · exact tempoKept_quiet _ _
    · rfl
    · rfl
  · rw [exec_tmpPadjWrite] at h
    have hcount : TempoKept [Reg.TMP_PADJ_PADJ.off] s.dev { countTime (cyc + 1) s.dev.quiet with tmp.padjFs := v.toInt * 1000000 } :=
      ⟨fun _ _ => rfl, rfl, rfl⟩
    exact tempo_frame (P := fun x => x = { s.dev.tmp with atFs := x.atFs, atCyc := x.atCyc, padjFs := x.padjFs }) hs h
      (tempoKept_wr hcount _ _ (List.mem_singleton.2 rfl)) rfl rfl
  · rw [exec_ppsInEdge] at h
    exact tempo_frame (P := (· = s.dev.tmp)) hs h (tempoKept_wr (tempoKept_quiet _ _) _ _ (by simp)) rfl rfl

end Sys2Proof.Proofs

/-!
PROOFS. O55 and O59 are refuted by one obstacle. Each states of a command that raises a Check that it keeps memory, and no hypothesis keeps a
Check entry free (`State.checkRoom`). With all 64 open the oldest becomes a Double check (R575); where that names an accelerator's lane, the
lane is quarantined and its job ends CHECK_FAIL, which is a store to memory: the STATUS of the job's descriptor (Table 20.3, R256).
-/

namespace Sys2Proof.Proofs

-- The kernel evaluations below are long; one after another they hold fewer stacks at once.
set_option Elab.async false

open Sys2Proof Sys2Proof.Machine

/-- Every entry of FLT_CHKk is open, each for compression lane 0. -/
def openCompressionChecks (d : Dev) : Dev :=
  forEach (List.range 64) (fun k d =>
    setb (Reg.FLT_CHK_OPEN k) (wr (Reg.FLT_CHK_UNIT k) (unitOf 4 0) (wr (Reg.FLT_CHK_CODE k) Ev.CMP_LANE d))) d

/-- Both lists are full, and compression lane 0 runs the first descriptor of ring 0, whose STATUS is at address 48. -/
def compressingDev (d : Dev) : Dev :=
  openLaneDoubleChecks (openCompressionChecks { d with accels := [(4, { lanes := [(0, { job := some (0, 0) })] })] })

/-! ### O55: a failed programming of the persistent ledger -/

/-- On top, a record waits for the persistent ledger. -/
def recordWaitsDev : Dev := compressingDev { ({} : Dev) with scr.pqueue := [{}] }

theorem recordWaitsDev_settled : (State.mk recordWaitsDev []).settled := by decide +kernel
theorem recordWaitsDev_good : recordWaitsDev.pwr.good = true := by decide +kernel
theorem recordWaitsDev_awake : recordWaitsDev.pwr.adj3 = false := by decide +kernel
theorem recordWaitsDev_queue : recordWaitsDev.scr.pqueue = [{}] := by decide +kernel
theorem recordWaitsDev_slot : rd Reg.SCR_PTR_PIDX recordWaitsDev = 0 := by decide +kernel
theorem recordWaitsDev_status : memByte recordWaitsDev 48 = 0 := by decide +kernel

theorem ledgerRecordProgram_recordWaitsDev :
    ∃ t, exec (.ledgerRecordProgram true false) ⟨recordWaitsDev, []⟩ = .next t ∧ memByte t.dev 48 = 5 :=
  ⟨_, rfl, by decide +kernel⟩

/-- Refutes O55: it asks that a failed programming of the persistent ledger keep memory. On `recordWaitsDev` SCR_LEDGER_FAIL finds no free Check
entry, the oldest Check escalates, compression lane 0 is quarantined, and the STATUS of its job's descriptor is written. -/
theorem not_recorderFreezesAndPrograms : ¬ Obligations.RecorderFreezesAndPrograms := by
  unfold Obligations.RecorderFreezesAndPrograms
  rintro ⟨hprogram, -, -⟩
  obtain ⟨-, hfails⟩ := hprogram ⟨recordWaitsDev, []⟩ {} [] recordWaitsDev_settled recordWaitsDev_good recordWaitsDev_awake
    recordWaitsDev_queue
  have hslot : rd Reg.SCR_PTR_PIDX recordWaitsDev < 524288 := by rw [recordWaitsDev_slot]; decide
  obtain ⟨t, hnext, -, -, -, -, -, hmem⟩ := hfails true false (.inl rfl) hslot
  obtain ⟨u, hu, hstatus⟩ := ledgerRecordProgram_recordWaitsDev
  rw [hnext] at hu
  injection hu with htu
  rw [← htu, hmem 48] at hstatus
  exact absurd (hstatus.symm.trans recordWaitsDev_status) (by decide)

/-! ### O59: a patrol read of an uncorrectable line -/

/-- On top, DDR5 channel 0 is trained and the patrol is enabled. -/
def patrolDev : Dev := compressingDev (wr (Reg.DDR_CH_STATE 0) 2 (setb Reg.DDR_CTRL_PATROL_EN {}))

theorem patrolDev_ready : (State.mk patrolDev []).ready := by decide +kernel
theorem patrolDev_enabled : rdb Reg.DDR_CTRL_PATROL_EN patrolDev = true := by decide +kernel
theorem patrolDev_trained : rd (Reg.DDR_CH_STATE 0) patrolDev = 2 := by decide +kernel
theorem patrolDev_unarmed : patrolDev.flt.inj = none := by decide +kernel
theorem patrolDev_status : memByte patrolDev 48 = 0 := by decide +kernel

/-- An error of two symbols. -/
theorem ddrSymbols_two : ddrSymbols (0x101 : BitVec 80).toNat = [0, 1] := by decide +kernel

theorem ddrPatrolLine_patrolDev :
    ∃ t, exec (.ddrPatrolLine 0 0 0x101 false) ⟨patrolDev, []⟩ = .next t ∧ memByte t.dev 48 = 5 :=
  ⟨_, rfl, by decide +kernel⟩

/-- Refutes O59: it asks that a patrol read of a line with two bad symbols keep memory. On `patrolDev` DDR_UE finds no free Check entry, the
oldest Check escalates, compression lane 0 is quarantined, and the STATUS of its job's descriptor is written. -/
theorem not_resetsAndMemoryCare : ¬ Obligations.ResetsAndMemoryCare := by
  unfold Obligations.ResetsAndMemoryCare
  rintro ⟨-, hready⟩
  obtain ⟨-, -, -, -, -, -, hpatrol, -⟩ := hready ⟨patrolDev, []⟩ patrolDev_ready
  obtain ⟨-, -, htwo⟩ := hpatrol 0 0 0x101 false patrolDev_enabled patrolDev_trained patrolDev_unarmed
  obtain ⟨t, hnext, -, -, -, hmem, -⟩ := htwo 0 1 [] ddrSymbols_two
  obtain ⟨u, hu, hstatus⟩ := ddrPatrolLine_patrolDev
  rw [hnext] at hu
  injection hu with htu
  rw [← htu, hmem 48] at hstatus
  exact absurd (hstatus.symm.trans patrolDev_status) (by decide)

end Sys2Proof.Proofs

/-!
PROOFS. O37 is refuted: a lane that loses lock is said to be in DETECT, but its commands end LINK_LOST before LANE_DOWN ends (R399), and an erase
that fails so for the second time retires its block (R370), which may raise FT_MEMBER_WEAR. No hypothesis of that clause keeps a Check entry
free (`State.checkRoom`): with all 64 open the oldest becomes a Double check, and where that names the lane, the lane enters FAILED.
-/

namespace Sys2Proof.Proofs

-- The kernel evaluations below are long; one after another they hold fewer stacks at once.
set_option Elab.async false

open Sys2Proof Sys2Proof.Machine

/-- Every entry of FLT_CHKk is open, each for Media Link lane 5. -/
def openLaneFiveChecks (d : Dev) : Dev :=
  forEach (List.range 64) (fun k d =>
    setb (Reg.FLT_CHK_OPEN k) (wr (Reg.FLT_CHK_UNIT k) (unitOf 0xA 5) (wr (Reg.FLT_CHK_CODE k) Ev.MDL_LINK_FAIL d))) d

/-- Both lists are full; lane 5 is UP, and the erase of its module's block 0 is outstanding there for the second time. -/
def erasingDev : Dev :=
  wr (Reg.MDL_LANE_STATE 5) 4 <| openLaneDoubleChecks <| openLaneFiveChecks { ({} : Dev) with
    lanes12 := [(5, { cmds := [(0, { opcode := 0x12, use := .erase 0 })] })]
    ftl.eraseAgain := [blkKey 5 0] }

theorem erasingDev_ready : (State.mk erasingDev []).ready := by decide +kernel
theorem erasingDev_up : laneState 5 erasingDev = 4 := by decide +kernel
theorem erasingDev_firstDown : (withinSecond (getLink 5 erasingDev).downs erasingDev).length < 4 := by decide +kernel

theorem laneDown_erasingDev : ∃ t, exec (.laneDown 5) ⟨erasingDev, []⟩ = .next t ∧ laneState 5 t.dev = 7 := ⟨_, rfl, by decide +kernel⟩

/-- Refutes O37: it asks that an UP lane's first loss of lock within a second leave it in DETECT. On `erasingDev` lane 5 is in FAILED when
LANE_DOWN ends. -/
theorem not_lanesTrainAndCarryFrames : ¬ Obligations.LanesTrainAndCarryFrames := by
  unfold Obligations.LanesTrainAndCarryFrames
  intro h
  obtain ⟨-, -, -, -, hdown, -⟩ := h ⟨erasingDev, []⟩ 5 erasingDev_ready
  obtain ⟨t, hnext, -, -, -, hdetect, -⟩ := hdown (.inl erasingDev_up)
  obtain ⟨u, hu, hfailed⟩ := laneDown_erasingDev
  rw [hnext] at hu
  injection hu with htu
  have hone : laneState 5 t.dev = 1 := (hdetect erasingDev_firstDown).1
  rw [← htu, hone] at hfailed
  exact absurd hfailed (by decide)

end Sys2Proof.Proofs

/-!
PROOFS. O42 is refuted: a request without a path is said to end FAILED with NO_PATH whatever its source read meets. An uncorrectable word of
the source raises FAB_ECC_UE (R92), and no hypothesis of that clause keeps a Check entry free (`State.checkRoom`): with all 64 open the oldest
becomes a Double check, and where that names an accelerator's lane, the end of the lane's job is a store to memory, which may be one to the
request's descriptor: the spec keeps no two rings apart.
-/

namespace Sys2Proof.Proofs

-- The kernel evaluations below are long; one after another they hold fewer stacks at once.
set_option Elab.async false

open Sys2Proof Sys2Proof.Machine

/-- A SEND of 8 bytes at the start of the pool to DEV 1. -/
def sendDescriptor : List (Nat × Byte) := [(0, 1), (1, 1), (2, 0xFF), (4, 8)] ++
  ((List.range 8).zip (leBytes 8 poolBase)).map fun x => (8 + x.1, x.2)

/-- `compressingDev`, whose lane's descriptor at address 0 is also the next of Cerco ring 0; the transport runs, no port is up, and the word that
the SEND reads has errors in two symbols. -/
def faultySourceDev : Dev :=
  compressingDev (setb Reg.CDT_CTRL_EN (wr (Reg.CDT_RPTR_PROD 0) 1 { ({} : Dev) with
    mem := sendDescriptor
    cdt.start := some 0
    fab.flips := [(poolBase / 8, 0x11)] }))

theorem faultySourceDev_ready : (State.mk faultySourceDev []).ready := by decide +kernel
theorem faultySourceDev_runs : cdtRuns faultySourceDev = true := by decide +kernel
theorem faultySourceDev_ring : cdtRing faultySourceDev = some 0 := by decide +kernel
theorem faultySourceDev_wellFormed : cdtBad (memRead faultySourceDev (cdtDesc 0 0 faultySourceDev) 64) faultySourceDev = false := by
  decide +kernel
theorem faultySourceDev_op : fld (memRead faultySourceDev (cdtDesc 0 0 faultySourceDev) 64) 0 1 = 1 := by decide +kernel
theorem faultySourceDev_pathless : pathPorts (fld (memRead faultySourceDev (cdtDesc 0 0 faultySourceDev) 64) 1 1) faultySourceDev = [] := by
  decide +kernel
theorem faultySourceDev_anyPort : fld (memRead faultySourceDev (cdtDesc 0 0 faultySourceDev) 64) 2 1 = 0xFF := by decide +kernel
theorem faultySourceDev_next : tget 0 faultySourceDev.cdt.next 0 = 0 := by decide +kernel
theorem faultySourceDev_desc : cdtDesc 0 0 faultySourceDev = 0 := by decide +kernel

theorem cdtSend_faultySourceDev : ∃ t, exec (.cdtSend false) ⟨faultySourceDev, []⟩ = .next t ∧ (memByte t.dev 48).toNat = 5 :=
  ⟨_, rfl, by decide +kernel⟩

/-- Refutes O42: it asks that a SEND without a path end FAILED. On `faultySourceDev` FAB_ECC_UE finds no free Check entry, the oldest Check
escalates, compression lane 0 is quarantined, and the STATUS of its job stands at the SEND's own. -/
theorem not_datagramRequestsEnd : ¬ Obligations.DatagramRequestsEnd := by
  unfold Obligations.DatagramRequestsEnd
  intro h
  obtain ⟨-, htake, -⟩ := h ⟨faultySourceDev, []⟩ faultySourceDev_ready
  obtain ⟨-, hgood⟩ := htake 0 1 false faultySourceDev_runs faultySourceDev_ring
  dsimp only at hgood
  rw [faultySourceDev_next] at hgood
  obtain ⟨hpathless, -⟩ := hgood faultySourceDev_wellFormed faultySourceDev_op
  rw [if_pos faultySourceDev_anyPort] at hpathless
  obtain ⟨hsend, -⟩ := hpathless faultySourceDev_pathless
  obtain ⟨t, hnext, -, -, hstatus, -⟩ := hsend rfl
  rw [faultySourceDev_desc] at hstatus
  obtain ⟨u, hu, hquar⟩ := cdtSend_faultySourceDev
  rw [hnext] at hu
  injection hu with htu
  rw [← htu] at hquar
  exact absurd (hstatus.symm.trans hquar) (by decide)

end Sys2Proof.Proofs

/-!
PROOFS. O45 is refuted: a claim is said to issue its FENCE_CAS on the lane of every adopted member that it reaches. Another member's copy of its
fence word may disagree with its complement, which raises FENCE_PAIRED (Table 18.13); no hypothesis keeps a Check entry free
(`State.checkRoom`). With all 64 open the oldest becomes a Double check, and where that names a claimed lane, the lane enters FAILED and its
claim ends LINK_LOST before the command ends.
-/

namespace Sys2Proof.Proofs

-- The kernel evaluations below are long; one after another they hold fewer stacks at once.
set_option Elab.async false

open Sys2Proof Sys2Proof.Machine

/-- Both lists are full, of Checks of lane 5; the peer is declared lost and the claim of two members is due: lane 5 is UP and sound, the copy of
lane 6's fence word is not. -/
def claimDueDev : Dev :=
  wr (Reg.MDL_LANE_STATE 5) 4 <| openLaneDoubleChecks <| openLaneFiveChecks { ({} : Dev) with
    md.members := [(5, { adopted := true }), (6, { adopted := true })]
    lanes12 := [(5, { cmdCred := ⟨1, 2 ^ 32 - 2⟩, dataCred := ⟨1, 2 ^ 32 - 2⟩, fence := ⟨0, 2 ^ 64 - 1⟩ }), (6, { fence := ⟨0, 0⟩ })]
    cas.claimDue := some 0
    cas.declared := some (0, 1) }

theorem claimDueDev_ready : (State.mk claimDueDev []).ready := by decide +kernel
theorem claimDueDev_due : claimDueDev.cas.claimDue = some 0 := by decide +kernel
theorem claimDueDev_resigned : claimDueDev.cas.resigned = none := by decide +kernel
theorem claimDueDev_declared : claimDueDev.cas.declared ≠ none := by decide +kernel
theorem claimDueDev_won : claimDueDev.cas.won = false := by decide +kernel
theorem claimDueDev_claims : claimDueDev.cas.claims = [] := by decide +kernel
theorem claimDueDev_unarmed : claimDueDev.flt.inj = none := by decide +kernel
theorem claimDueDev_member : (5, ({ adopted := true } : Member)) ∈ claimDueDev.md.members := by decide +kernel
theorem claimDueDev_up : laneState 5 claimDueDev = 4 ∧ rdb (Reg.MDL_LANE_PLN_IN 5) claimDueDev = false := by decide +kernel
theorem claimDueDev_paired : (getLink 5 claimDueDev).cmdCred.ok 32 = true ∧ (getLink 5 claimDueDev).dataCred.ok 32 = true ∧
    (getLink 5 claimDueDev).fence.ok 64 = true := by decide +kernel

theorem claimDelayExpire_claimDueDev :
    ∃ t, exec .claimDelayExpire ⟨claimDueDev, []⟩ = .next t ∧ (tget {} t.dev.cas.claims 5).st ≠ .pending := ⟨_, rfl, by decide +kernel⟩

/-- Refutes O45: it asks that the claim of a member on a sound UP lane be outstanding. On `claimDueDev` lane 6's fence word raises FENCE_PAIRED,
the oldest Check escalates, and lane 5 is FAILED with its claim UNREACHED when CLAIM_DELAY_EXPIRE ends. -/
theorem not_claimsAndOwnerTables : ¬ Obligations.ClaimsAndOwnerTables := by
  unfold Obligations.ClaimsAndOwnerTables
  intro h
  obtain ⟨⟨hclaim, -⟩, -⟩ := h ⟨claimDueDev, []⟩ claimDueDev_ready
  obtain ⟨t, hnext, -, -, hclaimed⟩ := hclaim 0 claimDueDev_due (Nat.zero_le _) claimDueDev_resigned claimDueDev_declared claimDueDev_won
    claimDueDev_claims
  obtain ⟨hcmd, hdata, hfence⟩ := claimDueDev_paired
  have hpending := (hclaimed claimDueDev_unarmed _ claimDueDev_member rfl ⟨claimDueDev_up.1, claimDueDev_up.2, hcmd, hdata, hfence⟩).1
  obtain ⟨u, hu, hends⟩ := claimDelayExpire_claimDueDev
  rw [hnext] at hu
  injection hu with htu
  rw [← htu] at hends
  exact hends hpending

end Sys2Proof.Proofs

/-!
PROOFS. O47 and O50: the measurement registers, the challenge and the answers of SPDM. None of these commands owes a reaction; each writes
registers of the security complex, or none.
-/

namespace Sys2Proof.Proofs

open Sys2Proof Sys2Proof.Machine

/-! ### Effects that write registers alone -/

/-- Of the device only registers differ, and of these only those listed. -/
structure Wrote (but : List Nat) (d e : Dev) : Prop where
  rest : e = { d with regs := e.regs }
  regs : ∀ o, o ∉ but → rdReg o e = rdReg o d

theorem wrote_refl (but : List Nat) (d : Dev) : Wrote but d d := ⟨rfl, fun _ _ => rfl⟩

theorem Wrote.trans {but : List Nat} {a b c : Dev} (h : Wrote but a b) (g : Wrote but b c) : Wrote but a c :=
  ⟨by rw [g.rest, h.rest], fun o ho => (g.regs o ho).trans (h.regs o ho)⟩

theorem wrote_wr {but : List Nat} {f : Field} (hf : f.off ∈ but) (v : Nat) (d : Dev) : Wrote but d (wr f v d) :=
  ⟨rfl, fun o ho => rdReg_wr_off (by rintro rfl; exact ho hf) v d⟩

theorem Wrote.wr {but : List Nat} {f : Field} {d e : Dev} (h : Wrote but d e) (hf : f.off ∈ but) (v : Nat) :
    Wrote but d (Machine.wr f v e) := h.trans (wrote_wr hf v e)

theorem Wrote.forEach {but : List Nat} {f : Nat → Dev → Dev} {d e : Dev} (l : List Nat) (h : Wrote but d e)
    (hf : ∀ n ∈ l, ∀ d, Wrote but d (f n d)) : Wrote but d (Machine.forEach l f e) := by
  induction l generalizing e with
  | nil => exact h
  | cons n r ih => exact ih (h.trans (hf n (by simp) e)) fun m hm => hf m (by simp [hm])

theorem Wrote.mono {but more : List Nat} {d e : Dev} (h : Wrote but d e) (hsub : ∀ o ∈ but, o ∈ more) : Wrote more d e :=
  ⟨h.rest, fun o ho => h.regs o fun hb => ho (hsub o hb)⟩

theorem Wrote.rd {but : List Nat} {d e : Dev} {f : Field} (h : Wrote but d e) (hf : f.off ∉ but) : Machine.rd f e = Machine.rd f d := by
  have := h.regs f.off hf
  simp only [Machine.rdReg] at this
  simp only [Machine.rd, this]

theorem Wrote.todo {but : List Nat} {d e : Dev} (h : Wrote but d e) : e.todo = d.todo := by rw [h.rest]
theorem Wrote.sxc {but : List Nat} {d e : Dev} (h : Wrote but d e) : e.sxc = d.sxc := by rw [h.rest]
theorem Wrote.pwr {but : List Nat} {d e : Dev} (h : Wrote but d e) : e.pwr = d.pwr := by rw [h.rest]
theorem Wrote.nv {but : List Nat} {d e : Dev} (h : Wrote but d e) : e.nv = d.nv := by rw [h.rest]
theorem Wrote.mem {but : List Nat} {d e : Dev} (h : Wrote but d e) : e.mem = d.mem := by rw [h.rest]
theorem Wrote.out {but : List Nat} {d e : Dev} (h : Wrote but d e) : e.out = d.out := by rw [h.rest]

/-- What is kept of registers and memory once the command has ended. -/
theorem Wrote.ended {but : List Nat} {d e g : Dev} (h : Wrote but d.quiet e) (he : EndedFrom e g) : RegsKept but d g ∧ MemKept d g :=
  ⟨fun o ho ha => (he.rdReg ha).trans (h.regs o ho), fun a => by rw [memByte, he.mem, h.mem]; rfl⟩

theorem memKept_of_eq {d e : Dev} (h : e.mem = d.mem) : MemKept d e := fun a => by rw [memByte, h]; rfl

/-- Each register of a row of registers reads as what was written to it. -/
theorem rd_forEach_wr {F : Nat → Field} (hF : ∀ i k, (F i).off = (F k).off → i = k) (hfits : ∀ i, (F i).fits) (v : Nat → Nat) {j : Nat} :
    ∀ {l : List Nat}, j ∈ l → ∀ d, rd (F j) (forEach l (fun i d => wr (F i) (v i) d) d) = v j % 2 ^ (F j).width := by
  intro l
  induction l with
  | nil => exact nofun
  | cons n r ih =>
    intro hj d
    rw [forEach_cons]
    by_cases hr : j ∈ r
    · exact ih hr _
    · obtain rfl : j = n := (List.mem_cons.1 hj).resolve_right hr
      have hkept : Wrote (r.map fun i => (F i).off) (wr (F j) (v j) d) (forEach r (fun i d => wr (F i) (v i) d) (wr (F j) (v j) d)) :=
        (wrote_refl _ _).forEach r fun i hi d => wrote_wr (List.mem_map.2 ⟨i, hi, rfl⟩) (v i) d
      rw [hkept.rd fun hmem => ?_, rd_wr_same (hfits j)]
      obtain ⟨i, hi, hoff⟩ := List.mem_map.1 hmem
      exact hr (hF i j hoff ▸ hi)

/-! ### Measurement registers (R540) -/

theorem mrWord_fits (n j : Nat) : (Reg.SXC_MR_WORD n j).fits := by simp [Field.fits, Reg.SXC_MR_WORD]

theorem mrWord_inj (n : Nat) {i k : Nat} (h : (Reg.SXC_MR_WORD n i).off = (Reg.SXC_MR_WORD n k).off) : i = k := by
  simp only [Reg.SXC_MR_WORD] at h; omega

/-- The offsets of the six words of MRn. -/
def mrOffsets (n : Nat) : List Nat := (List.range 6).map fun j => (Reg.SXC_MR_WORD n j).off

theorem mrExtend_wrote (n : Nat) (x : Bytes) (d : Dev) : Wrote (mrOffsets n) d (mrExtend n x d) :=
  (wrote_refl _ _).forEach _ fun j hj e => wrote_wr (List.mem_map.2 ⟨j, hj, rfl⟩) _ e

theorem rd_mrExtend (n : Nat) (x : Bytes) (d : Dev) {j : Nat} (hj : j < 6) :
    rd (Reg.SXC_MR_WORD n j) (mrExtend n x d) = fld (sha384 (mrRead n d ++ x)) (8 * j) 8 % 2 ^ 64 :=
  rd_forEach_wr (fun _ _ => mrWord_inj n) (mrWord_fits n) _ (List.mem_range.2 hj) d

/-- A register below or above the measurement registers is none of their words. -/
theorem mrWord_range {n : Nat} (hn : n < 16) {j : Nat} (hj : j < 6) :
    6292480 ≤ (Reg.SXC_MR_WORD n j).off ∧ (Reg.SXC_MR_WORD n j).off < 6293248 := by
  simp only [Reg.SXC_MR_WORD]; omega

theorem notMem_mrOffsets {n : Nat} (hn : n < 16) {o : Nat} (ho : o < 6292480 ∨ 6293248 ≤ o) : o ∉ mrOffsets n := by
  intro hmem
  obtain ⟨j, hj, rfl⟩ := List.mem_map.1 hmem
  have := mrWord_range hn (List.mem_range.1 hj)
  omega

theorem notMem_ambient_mrWord {n : Nat} (hn : n < 16) {j : Nat} (hj : j < 6) : (Reg.SXC_MR_WORD n j).off ∉ ambientRegs := by
  have h := mrWord_range hn hj
  have hall : ∀ o ∈ ambientRegs, o < 6292480 ∨ 6293248 ≤ o := by decide
  intro hmem
  have := hall _ hmem
  omega

theorem words6_congr {F : Nat → Field} {d e : Dev} (h : ∀ j < 6, rd (F j) e = rd (F j) d) : words6 F e = words6 F d := by
  unfold words6
  exact List.flatMap_congr fun j hj => by rw [h j (List.mem_range.1 hj)]

theorem mrRead_congr {n : Nat} {d e : Dev} (h : ∀ j < 6, rd (Reg.SXC_MR_WORD n j) e = rd (Reg.SXC_MR_WORD n j) d) :
    mrRead n e = mrRead n d := words6_congr h

theorem mrAllowed_iff {n : Nat} (hn : n < 16) (d : Dev) :
    mrAllowed n d = true ↔ n ∈ [8, 9, 10, 11, 12, 13, 14] ∨ (n ∈ [1, 2, 6, 7] ∧ glbState d = 0) := by
  have h1 : (decide (8 ≤ n) && decide (n ≤ 14)) = true ↔ n ∈ [8, 9, 10, 11, 12, 13, 14] := by
    simp only [Bool.and_eq_true, decide_eq_true_eq, List.mem_cons, List.not_mem_nil, or_false]; omega
  simp only [mrAllowed, Bool.or_eq_true, h1, Bool.and_eq_true, List.contains_iff_mem, beq_iff_eq]

/-- INDEX as a request through SXC_MR_EXT leaves it. -/
def mrAsked (n : Nat) (d : Dev) : Dev := wr Reg.SXC_MR_EXT_INDEX n d

/-- What INDEX covers up: nothing of the state, of the measurement registers and of the data to extend by. -/
theorem mrAsked_reads (n m : Nat) (hm : m < 16) (d : Dev) : glbState (mrAsked n d) = glbState d ∧ mrRead m (mrAsked n d) = mrRead m d ∧
    words6 (fun j => Reg.SXC_MR_DATA_WORD j) (mrAsked n d) = words6 (fun j => Reg.SXC_MR_DATA_WORD j) d := by
  refine ⟨rd_wr_off (by decide) _ _, mrRead_congr fun j hj => rd_wr_off ?_ _ _, words6_congr fun j hj => rd_wr_off ?_ _ _⟩
  · have := mrWord_range hm hj
    have : Reg.SXC_MR_EXT_INDEX.off < 6292480 := by decide
    omega
  · simp only [Reg.SXC_MR_DATA_WORD, Reg.SXC_MR_EXT_INDEX]; omega

section answers

variable {s : State} (hready : s.ready)
include hready

theorem mrExtend_answers (n : Fin 16) : Answers (.mrExtend n) s fun d => rd Reg.SXC_MR_EXT_INDEX d = n.val ∧ MemKept s.dev d ∧
    let allowed := n.val ∈ [8, 9, 10, 11, 12, 13, 14] ∨ (n.val ∈ [1, 2, 6, 7] ∧ glbState s.dev = 0)
    let v := sha384 (mrRead n.val s.dev ++ words6 (fun j => Reg.SXC_MR_DATA_WORD j) s.dev)
    (allowed → rd Reg.SXC_MR_EXT_RESULT d = 1 ∧ (∀ j < 6, rd (Reg.SXC_MR_WORD n.val j) d = fld v (8 * j) 8 % 2 ^ 64) ∧
      RegsKept (Reg.SXC_MR_EXT_INDEX.off :: (List.range 6).map fun j => (Reg.SXC_MR_WORD n.val j).off) s.dev d) ∧
    (¬ allowed → rd Reg.SXC_MR_EXT_RESULT d = 2 ∧ RegsKept [Reg.SXC_MR_EXT_INDEX.off] s.dev d) := by
  obtain ⟨hstate, hread, hdata⟩ := mrAsked_reads n.val n.val n.isLt s.dev.quiet
  have hasked : rd Reg.SXC_MR_EXT_INDEX (mrAsked n.val s.dev.quiet) = n.val :=
    (rd_wr_same (by decide) _ _).trans (Nat.mod_eq_of_lt (Nat.lt_of_lt_of_le n.isLt (by decide)))
  have hiff := mrAllowed_iff n.isLt (mrAsked n.val s.dev.quiet)
  rw [hstate] at hiff
  by_cases hallowed : mrAllowed n.val (mrAsked n.val s.dev.quiet) = true
  · have hmr := mrExtend_wrote n.val (words6 (fun j => Reg.SXC_MR_DATA_WORD j) (mrAsked n.val s.dev.quiet)) (mrAsked n.val s.dev.quiet)
    have hruns : RunsTo (.mrExtend n) s (wr Reg.SXC_MR_EXT_RESULT 1 (mrExtend n.val
        (words6 (fun j => Reg.SXC_MR_DATA_WORD j) (mrAsked n.val s.dev.quiet)) (mrAsked n.val s.dev.quiet))) :=
      runsTo_of_live (execMrExtend n s) rfl rfl hready (if_pos hallowed)
    have hall : Wrote (Reg.SXC_MR_EXT_INDEX.off :: mrOffsets n.val) s.dev.quiet _ :=
      (((wrote_refl _ s.dev.quiet).wr (f := Reg.SXC_MR_EXT_INDEX) List.mem_cons_self n.val).trans
        (hmr.mono fun o ho => List.mem_cons_of_mem _ ho)).wr (f := Reg.SXC_MR_EXT_RESULT) (List.mem_cons.2 (.inl rfl)) 1
    refine hruns.answers (hall.todo.trans hready.2) fun e he => ?_
    obtain ⟨hregs, hmem⟩ := hall.ended he
    refine ⟨?_, hmem, fun _ => ⟨?_, fun j hj => ?_, hregs⟩, fun hnot => absurd (hiff.1 hallowed) hnot⟩
    · rw [he.rd (by decide), rd_wr_apart (by decide) (by decide) (by decide), hmr.rd (notMem_mrOffsets n.isLt (by decide)), hasked]
    · rw [he.rd (by decide), rd_wr_same (by decide)]; rfl
    · have hne : (Reg.SXC_MR_WORD n.val j).off ≠ Reg.SXC_MR_EXT_RESULT.off := by
        have := mrWord_range n.isLt hj
        have : Reg.SXC_MR_EXT_RESULT.off < 6292480 := by decide
        omega
      rw [he.rd (notMem_ambient_mrWord n.isLt hj), rd_wr_off hne, rd_mrExtend _ _ _ hj, hread, hdata]
      rfl
  · have hruns : RunsTo (.mrExtend n) s (wr Reg.SXC_MR_EXT_RESULT 2 (mrAsked n.val s.dev.quiet)) :=
      runsTo_of_live (execMrExtend n s) rfl rfl hready (if_neg hallowed)
    have hall : Wrote [Reg.SXC_MR_EXT_INDEX.off] s.dev.quiet (wr Reg.SXC_MR_EXT_RESULT 2 (mrAsked n.val s.dev.quiet)) :=
      ((wrote_refl _ s.dev.quiet).wr (f := Reg.SXC_MR_EXT_INDEX) (by simp) n.val).wr (by decide) 2
    refine hruns.answers (hall.todo.trans hready.2) fun e he => ?_
    obtain ⟨hregs, hmem⟩ := hall.ended he
    refine ⟨?_, hmem, fun h => absurd (hiff.2 h) hallowed, fun _ => ⟨?_, hregs⟩⟩
    · rw [he.rd (by decide), rd_wr_apart (by decide) (by decide) (by decide), hasked]
    · rw [he.rd (by decide), rd_wr_same (by decide)]; rfl

/-! ### The challenge (R550) -/

omit hready in
theorem chalWord_inj {i k : Nat} (h : (Reg.SXC_CHAL_WORD i).off = (Reg.SXC_CHAL_WORD k).off) : i = k := by
  simp only [Reg.SXC_CHAL_WORD] at h; omega

/-- The challenge's bytes shown in SXC_CHAL. -/
def showChallenge (c : Bytes) (d : Dev) : Dev := forEach (List.range 4) (fun j d => wr (Reg.SXC_CHAL_WORD j) (fld c (8 * j) 8) d) d

omit hready in
theorem showChallenge_wrote (c : Bytes) (d : Dev) :
    Wrote ((List.range 4).map fun j => (Reg.SXC_CHAL_WORD j).off) d (showChallenge c d) :=
  (wrote_refl _ _).forEach _ fun j hj e => wrote_wr (List.mem_map.2 ⟨j, hj, rfl⟩) _ e

/-- The fresh challenge, kept with the second in which it was drawn, and shown, VALID and of age 0. -/
def challenged (c : Bytes) (d : Dev) : Dev :=
  setb Reg.SXC_CHAL_CTRL_VALID (clr Reg.SXC_CHAL_CTRL_AGE (showChallenge c
    { d with free := d.free + 1, sxc.challenge := some (c, d.tmp.sec) }))

omit hready in
theorem fld_lt (b : Bytes) (off n : Nat) : fld b off n < 256 ^ n :=
  Nat.lt_of_lt_of_le (leNat_lt _) (Nat.pow_le_pow_right (by decide) (by simp))

theorem challengeNew_answers : Answers .challengeNew s fun d => rdb Reg.SXC_CHAL_CTRL_VALID d = true ∧ rd Reg.SXC_CHAL_CTRL_AGE d = 0 ∧
    RegsKept (Reg.SXC_CHAL_CTRL_VALID.off :: (List.range 4).map fun j => (Reg.SXC_CHAL_WORD j).off) s.dev d ∧ MemKept s.dev d ∧
    ∃ c, c.length = 32 ∧ d.sxc = { s.dev.sxc with challenge := some (c, s.dev.tmp.sec) } ∧
      ∀ j < 4, rd (Reg.SXC_CHAL_WORD j) d = fld c (8 * j) 8 := by
  let c := (drawBytes 32 s.dev).1
  let drawn : Dev := { s.dev.quiet with free := s.dev.free + 1, sxc.challenge := some (c, s.dev.tmp.sec) }
  have hshown := showChallenge_wrote c drawn
  have hall : Wrote (Reg.SXC_CHAL_CTRL_VALID.off :: (List.range 4).map fun j => (Reg.SXC_CHAL_WORD j).off) drawn
      (challenged c s.dev.quiet) :=
    ((hshown.mono fun o ho => List.mem_cons_of_mem _ ho).wr (f := Reg.SXC_CHAL_CTRL_AGE) (by decide) 0).wr (by decide) 1
  have hruns : RunsTo .challengeNew s (challenged c s.dev.quiet) := runsTo_of_live (execChallengeNew s) rfl rfl hready rfl
  refine hruns.answers (hall.todo.trans hready.2) fun e he => ⟨?_, ?_, fun o ho ha => (he.rdReg ha).trans (hall.regs o ho), ?_,
    c, Laws.drawBytes_length .., he.sxc.trans hall.sxc, fun j hj => ?_⟩
  · rw [rdb, he.rd (by decide), challenged, setb, rd_wr_same (by decide)]; rfl
  · rw [he.rd (by decide), challenged, setb, rd_wr_apart (by decide) (by decide) (by decide), clr, rd_wr_same (by decide)]; rfl
  · exact memKept_of_eq (he.mem.trans hall.mem)
  · have hword : ∀ j < 4, (Reg.SXC_CHAL_WORD j).off ∉ ambientRegs ∧ (Reg.SXC_CHAL_WORD j).off ≠ Reg.SXC_CHAL_CTRL_VALID.off ∧
        (Reg.SXC_CHAL_WORD j).off ≠ Reg.SXC_CHAL_CTRL_AGE.off := by decide
    obtain ⟨hamb, hvalid, hage⟩ := hword j hj
    rw [he.rd hamb, challenged, setb, rd_wr_off hvalid, clr, rd_wr_off hage]
    refine (rd_forEach_wr (fun _ _ => chalWord_inj) (fun i => by simp [Field.fits, Reg.SXC_CHAL_WORD]) _ (List.mem_range.2 hj) drawn).trans ?_
    exact Nat.mod_eq_of_lt (fld_lt c (8 * j) 8)

theorem challengeLapse_answers : Answers .challengeLapse s fun d => RegsKept [Reg.SXC_CHAL_CTRL_VALID.off] s.dev d ∧ MemKept s.dev d ∧
    match s.dev.sxc.challenge with
    | some (_, t) => if t + 600 ≤ s.dev.tmp.sec then d.sxc = { s.dev.sxc with challenge := none } ∧ rdb Reg.SXC_CHAL_CTRL_VALID d = false
        else d.sxc = s.dev.sxc ∧ rdReg Reg.SXC_CHAL_CTRL_VALID.off d = rdReg Reg.SXC_CHAL_CTRL_VALID.off s.dev
    | none => d.sxc = s.dev.sxc := by
  have hstands : ∀ {e}, EndedFrom s.dev.quiet e → RegsKept [Reg.SXC_CHAL_CTRL_VALID.off] s.dev e ∧ MemKept s.dev e :=
    fun he => (wrote_refl _ _).ended he
  cases hchal : s.dev.sxc.challenge with
  | none =>
    have hruns : RunsTo .challengeLapse s s.dev.quiet := runsTo_of_live (execChallengeLapse s) rfl rfl hready (by simp only [quiet_sxc, hchal])
    exact hruns.answers hready.2 fun e he => ⟨(hstands he).1, (hstands he).2, he.sxc⟩
  | some x =>
    obtain ⟨c, t⟩ := x
    by_cases hdue : t + 600 ≤ s.dev.tmp.sec
    · let lapsed : Dev := clr Reg.SXC_CHAL_CTRL_VALID { s.dev.quiet with sxc.challenge := none }
      have hruns : RunsTo .challengeLapse s lapsed := runsTo_of_live (execChallengeLapse s) rfl rfl hready
        (by simp only [quiet_sxc, hchal]; exact if_pos hdue)
      refine hruns.answers hready.2 fun e he => ⟨fun o ho ha => (he.rdReg ha).trans (rdReg_wr_off (by simpa using ho) _ _),
        memKept_of_eq he.mem, ?_⟩
      simp only [if_pos hdue]
      exact ⟨he.sxc, by rw [rdb, he.rd (by decide)]; simp only [lapsed, clr]; rw [rd_wr_same (by decide)]; rfl⟩
    · have hruns : RunsTo .challengeLapse s s.dev.quiet := runsTo_of_live (execChallengeLapse s) rfl rfl hready
        (by simp only [quiet_sxc, hchal]; exact if_neg hdue)
      refine hruns.answers hready.2 fun e he => ⟨(hstands he).1, (hstands he).2, ?_⟩
      simp only [if_neg hdue]
      exact ⟨he.sxc, he.rdReg (by decide)⟩

end answers

/-- Settles O47, command by command. -/
theorem registersExtendAndChallenges : Obligations.RegistersExtendAndChallenges := by
  unfold Obligations.RegistersExtendAndChallenges
  intro s hready
  exact ⟨mrExtend_answers hready, challengeNew_answers hready, challengeLapse_answers hready⟩

/-! ### SPDM (R555) -/

/-- Nothing but free values and what is sent differs. -/
structure SpokenFrom (d e : Dev) : Prop where
  rest : e = { d with free := e.free, out := e.out }

theorem SpokenFrom.kept {d e g : Dev} (h : SpokenFrom d.quiet e) (he : EndedFrom e g) :
    RegsKept [] d g ∧ MemKept d g ∧ g.sxc = d.sxc ∧ g.nv = d.nv :=
  ⟨fun o _ ha => (he.rdReg ha).trans (by rw [h.rest]; rfl), memKept_of_eq (he.mem.trans (by rw [h.rest]; rfl)),
    he.sxc.trans (by rw [h.rest]; rfl), he.nv.trans (by rw [h.rest]; rfl)⟩

section spdm

variable {s : State} (hsettled : s.settled) (hgood : s.dev.pwr.good = true) (hadj : s.dev.pwr.adj3 = false)

include hgood hadj in
/-- A request that arrives while none other is in progress is carried out. -/
theorem spdm_runs {c : Instr} {f : Dev → Dev} {e : Dev} (o : Host.Outcome State Fault Refusal) (hx : exec c s = o)
    (ho : o = spdmAnswer false f s) (hf : f s.dev.quiet = e) : RunsTo c s e := by
  rw [RunsTo, hx, ho, ← hf]
  simp [spdmAnswer, run_eq, hgood, hadj]

include hgood hadj in
/-- A request that arrives while another is in progress gets ERROR Busy. -/
theorem spdm_busy {c : Instr} {f : Dev → Dev} (o : Host.Outcome State Fault Refusal) (hx : exec c s = o)
    (ho : o = spdmAnswer true f s) : RunsTo c s (send (.spdm 0x7F [3] []) s.dev.quiet) := by
  rw [RunsTo, hx, ho]
  simp [spdmAnswer, run_eq, hgood, hadj]

include hsettled

/-- What a request answers that sends one message. -/
theorem spdm_answersWith {c : Instr} {code : Nat} {ps : List Nat} {x : Bytes} (hruns : RunsTo c s (send (.spdm code ps x) s.dev.quiet)) :
    Answers c s fun d => Out.spdm code ps x ∈ d.out ∧ RegsKept [] s.dev d ∧ MemKept s.dev d ∧ d.sxc = s.dev.sxc ∧ d.nv = s.dev.nv :=
  hruns.answers hsettled fun _ he => ⟨he.mem_out (by simp), SpokenFrom.kept ⟨rfl⟩ he⟩

include hgood hadj

theorem spdmGetCertificate_answers (slot off len : Nat) : let c := chainOf slot s.dev
    (slot ≤ 1 → off ≤ c.length → Answers (.spdmGetCertificate false slot off len) s fun d =>
      Out.spdm 0x02 [slot, (sub c off (min len (c.length - off))).length, c.length - off - (sub c off (min len (c.length - off))).length]
        (sub c off (min len (c.length - off))) ∈ d.out ∧ RegsKept [] s.dev d ∧ MemKept s.dev d ∧ d.sxc = s.dev.sxc ∧ d.nv = s.dev.nv) ∧
    (1 < slot → Answers (.spdmGetCertificate false slot off len) s fun d =>
      Out.spdm 0x7F [1] [] ∈ d.out ∧ RegsKept [] s.dev d ∧ MemKept s.dev d ∧ d.sxc = s.dev.sxc ∧ d.nv = s.dev.nv) := by
  have hchain : chainOf slot s.dev.quiet = chainOf slot s.dev := rfl
  refine ⟨fun hslot hoff => spdm_answersWith hsettled (spdm_runs hgood hadj (execSpdmGetCertificate false slot off len s) rfl rfl ?_),
    fun hslot => spdm_answersWith hsettled (spdm_runs hgood hadj (execSpdmGetCertificate false slot off len s) rfl rfl ?_)⟩
  · exact if_neg (by rw [hchain]; omega)
  · exact if_pos (.inl hslot)

omit hgood hadj in
/-- A nonce of 32 bytes is drawn, and with a number for the signature the transcript that ends in it is signed. -/
theorem spdm_signed {c : Instr} {code : Nat} {ps : List Nat} {x y : Bytes} (hruns : RunsTo c s
      (let n := drawBytes 32 s.dev.quiet
       let g := aliasSign (y ++ n.1) n.2
       send (.spdm code ps (x ++ n.1 ++ g.1)) g.2)) :
    Answers c s fun d => (RegsKept [] s.dev d ∧ MemKept s.dev d ∧ d.sxc = s.dev.sxc ∧ d.nv = s.dev.nv) ∧ ∃ nonce k, nonce.length = 32 ∧
      Out.spdm code ps (x ++ nonce ++ ecdsaSign (aliasKey s.dev) (sha384 (y ++ nonce)) k) ∈ d.out :=
  hruns.answers hsettled fun _ he => ⟨SpokenFrom.kept ⟨rfl⟩ he, (drawBytes 32 s.dev).1, (drawNat (2 ^ 384) (drawBytes 32 s.dev).2).1,
    Laws.drawBytes_length .., he.mem_out (List.mem_append_right _ (List.mem_singleton.2 rfl))⟩

theorem spdmChallenge_answers (r : SpdmSigned) :
    (r.slot ≠ 0 → Answers (.spdmChallenge false r) s fun d =>
      Out.spdm 0x7F [1] [] ∈ d.out ∧ RegsKept [] s.dev d ∧ MemKept s.dev d ∧ d.sxc = s.dev.sxc ∧ d.nv = s.dev.nv) ∧
    (r.slot = 0 → Answers (.spdmChallenge false r) s fun d =>
      (RegsKept [] s.dev d ∧ MemKept s.dev d ∧ d.sxc = s.dev.sxc ∧ d.nv = s.dev.nv) ∧ ∃ nonce k, nonce.length = 32 ∧
      Out.spdm 0x03 [0] (sha384 (chainOf 0 s.dev) ++ nonce ++ ecdsaSign (aliasKey s.dev) (sha384 (r.transcript ++ nonce)) k) ∈ d.out) := by
  refine ⟨fun hslot => spdm_answersWith hsettled (spdm_runs hgood hadj (execSpdmChallenge false r s) rfl rfl (if_pos hslot)), fun hslot => ?_⟩
  exact spdm_signed hsettled (spdm_runs hgood hadj (execSpdmChallenge false r s) rfl rfl (if_neg (not_not.2 hslot)))

theorem spdmGetMeasurements_answers (i : Nat) (r : SpdmSigned) :
    (1 ≤ i → i ≤ 18 → Answers (.spdmGetMeasurements false i false r) s fun d =>
      Out.spdm 0x60 [1, i] (measurement i s.dev) ∈ d.out ∧ RegsKept [] s.dev d ∧ MemKept s.dev d ∧ d.sxc = s.dev.sxc ∧ d.nv = s.dev.nv) ∧
    (Answers (.spdmGetMeasurements false 0 false r) s fun d =>
      Out.spdm 0x60 [18] [] ∈ d.out ∧ RegsKept [] s.dev d ∧ MemKept s.dev d ∧ d.sxc = s.dev.sxc ∧ d.nv = s.dev.nv) ∧
    (18 < i → i ≠ 0xFF → Answers (.spdmGetMeasurements false i false r) s fun d =>
      Out.spdm 0x7F [1] [] ∈ d.out ∧ RegsKept [] s.dev d ∧ MemKept s.dev d ∧ d.sxc = s.dev.sxc ∧ d.nv = s.dev.nv) ∧
    (1 ≤ i → i ≤ 18 → r.slot = 0 → Answers (.spdmGetMeasurements false i true r) s fun d =>
      (RegsKept [] s.dev d ∧ MemKept s.dev d ∧ d.sxc = s.dev.sxc ∧ d.nv = s.dev.nv) ∧ ∃ nonce k, nonce.length = 32 ∧
      Out.spdm 0x60 [1, i] (measurement i s.dev ++ nonce ++
        ecdsaSign (aliasKey s.dev) (sha384 (r.transcript ++ measurement i s.dev ++ nonce)) k) ∈ d.out) := by
  have hone : ∀ d : Dev, ([i].flatMap fun i => measurement i d) = measurement i d := fun d => by simp
  refine ⟨fun hlo hhi => ?_, ?_, fun hlo hhi => ?_, fun hlo hhi hslot => ?_⟩
  · refine spdm_answersWith hsettled (spdm_runs hgood hadj (execSpdmGetMeasurements false i false r s) rfl rfl ?_)
    simp [hhi, show i ≠ 0 by omega, show i ≠ 255 by omega]
    rfl
  · exact spdm_answersWith hsettled (spdm_runs hgood hadj (execSpdmGetMeasurements false 0 false r s) rfl rfl rfl)
  · refine spdm_answersWith hsettled (spdm_runs hgood hadj (execSpdmGetMeasurements false i false r s) rfl rfl ?_)
    simp [show ¬ i ≤ 18 by omega, hhi]
  · refine spdm_signed (x := measurement i s.dev) (y := r.transcript ++ measurement i s.dev) hsettled
      (spdm_runs hgood hadj (execSpdmGetMeasurements false i true r s) rfl rfl ?_)
    simp [hhi, hslot, show i ≠ 0 by omega, show i ≠ 255 by omega]
    rfl

/-- The requests that arrive while another is in progress. -/
theorem spdm_answers_busy (co : Bool) (k o l i : Nat) (sg : Bool) (r : SpdmSigned) :
    ∀ c ∈ [Instr.spdmGetVersion true, .spdmGetCapabilities true, .spdmNegotiateAlgorithms true co, .spdmGetDigests true,
      .spdmGetCertificate true k o l, .spdmChallenge true r, .spdmGetMeasurements true i sg r],
      Answers c s fun d => Out.spdm 0x7F [3] [] ∈ d.out ∧ RegsKept [] s.dev d ∧ MemKept s.dev d ∧ d.sxc = s.dev.sxc ∧ d.nv = s.dev.nv := by
  simp only [List.forall_mem_cons]
  refine ⟨?_, ?_, ?_, ?_, ?_, ?_, ?_, fun _ h => absurd h List.not_mem_nil⟩
  · exact spdm_answersWith hsettled (spdm_busy hgood hadj (execSpdmGetVersion true s) rfl rfl)
  · exact spdm_answersWith hsettled (spdm_busy hgood hadj (execSpdmGetCapabilities true s) rfl rfl)
  · exact spdm_answersWith hsettled (spdm_busy hgood hadj (execSpdmNegotiateAlgorithms true co s) rfl rfl)
  · exact spdm_answersWith hsettled (spdm_busy hgood hadj (execSpdmGetDigests true s) rfl rfl)
  · exact spdm_answersWith hsettled (spdm_busy hgood hadj (execSpdmGetCertificate true k o l s) rfl rfl)
  · exact spdm_answersWith hsettled (spdm_busy hgood hadj (execSpdmChallenge true r s) rfl rfl)
  · exact spdm_answersWith hsettled (spdm_busy hgood hadj (execSpdmGetMeasurements true i sg r s) rfl rfl)

end spdm

/-- Settles O50, request by request: nothing of the device but free values and what is sent takes part. -/
theorem spdmAnswered : Obligations.SpdmAnswered := by
  unfold Obligations.SpdmAnswered
  intro s hsettled hgood hadj
  refine ⟨spdm_answers_busy hsettled hgood hadj, ?_, ?_, ?_, ?_, ?_, spdmGetCertificate_answers hsettled hgood hadj,
    spdmChallenge_answers hsettled hgood hadj, spdmGetMeasurements_answers hsettled hgood hadj⟩
  · exact spdm_answersWith hsettled (spdm_runs hgood hadj (execSpdmGetVersion false s) rfl rfl rfl)
  · exact spdm_answersWith hsettled (spdm_runs hgood hadj (execSpdmGetCapabilities false s) rfl rfl rfl)
  · exact spdm_answersWith hsettled (spdm_runs hgood hadj (execSpdmNegotiateAlgorithms false true s) rfl rfl rfl)
  · exact spdm_answersWith hsettled (spdm_runs hgood hadj (execSpdmNegotiateAlgorithms false false s) rfl rfl rfl)
  · exact spdm_answersWith hsettled (spdm_runs hgood hadj (execSpdmGetDigests false s) rfl rfl rfl)

end Sys2Proof.Proofs

/-!
PROOFS. O48: officer moves, verified, staged and forwarded. With the entries of the table sound no check of a move draws a value or owes a
reaction, so a submission only ends, and what it ends with is read off the device as it was.
-/

namespace Sys2Proof.Proofs

open Sys2Proof Sys2Proof.Machine

/-! ### A Notice touches registers, the Scoresheet and free values alone -/

/-- Only registers, the Scoresheet and free values differ. -/
def RecordOnly (d e : Dev) : Prop := e = { d with regs := e.regs, scr := e.scr, free := e.free }

theorem RecordOnly.trans {a b c : Dev} (h : RecordOnly a b) (g : RecordOnly b c) : RecordOnly a c := by
  rw [RecordOnly] at *; rw [g, h]

theorem recordOnly_wr (f : Field) (v : Nat) (d : Dev) : RecordOnly d (wr f v d) := rfl
theorem recordOnly_setScr (d : Dev) (x : Scr) : RecordOnly d { d with scr := x } := rfl

theorem recordOnly_ite {d e g : Dev} (p : Prop) [Decidable p] (h : RecordOnly d e) (k : RecordOnly d g) : RecordOnly d (if p then e else g) := by
  split <;> assumption

theorem recordOnly_bump (f : Field) (d : Dev) : RecordOnly d (bump f d) := by
  rw [bump_eq, bumpBy]
  exact recordOnly_ite _ rfl rfl

theorem recordOnly_countLost (d : Dev) : RecordOnly d (countLost d) :=
  (recordOnly_setScr d { d.scr with lost := d.scr.lost + 1 }).trans ((recordOnly_bump _ _).trans (recordOnly_wr _ 1 _))

theorem recordOnly_holdRecord (r : ScoreRecord) (d : Dev) : RecordOnly d (holdRecord r d) := by
  have hput (q : List ScoreRecord) (e : Dev) : RecordOnly e (wr Reg.SCR_STATUS_HOLD q.length { e with scr.holdq := q }) := rfl
  unfold holdRecord
  refine recordOnly_ite _ (hput _ d) (recordOnly_ite _ (recordOnly_countLost d) ?_)
  split
  · exact (recordOnly_countLost d).trans (hput _ _)
  · exact recordOnly_countLost d

theorem recordOnly_writeRecord (r : ScoreRecord) (d : Dev) : RecordOnly d (writeRecord r d) := by
  have hplaced (x : Scr) (i n : Nat) : RecordOnly d (wr Reg.SCR_SEQ_NEXT n (wr Reg.SCR_PTR_VIDX i { d with scr := x })) := rfl
  unfold writeRecord
  refine recordOnly_ite _ (recordOnly_ite _ ?_ ?_) (hplaced _ _ _)
  · exact (hplaced _ _ _).trans (recordOnly_setScr _ _)
  · exact (hplaced _ _ _).trans ((recordOnly_bump _ _).trans (recordOnly_wr _ 1 _))

theorem recordOnly_notice (code unit data0 data1 : Nat) (d : Dev) : RecordOnly d (notice code unit data0 data1 d) := by
  unfold notice recordEvent
  refine (recordOnly_bump Reg.FLT_CNT_NOTICES d).trans ?_
  refine recordOnly_ite _ (recordOnly_setScr _ _) (recordOnly_ite _ ?_ ?_)
  · exact (recordOnly_setScr _ _).trans (recordOnly_holdRecord _ _)
  · exact (recordOnly_setScr _ _).trans (recordOnly_writeRecord _ _)

theorem RecordOnly.sxc {d e : Dev} (h : RecordOnly d e) : e.sxc = d.sxc := by rw [h]
theorem RecordOnly.pwr {d e : Dev} (h : RecordOnly d e) : e.pwr = d.pwr := by rw [h]
theorem RecordOnly.nv {d e : Dev} (h : RecordOnly d e) : e.nv = d.nv := by rw [h]
theorem RecordOnly.mem {d e : Dev} (h : RecordOnly d e) : e.mem = d.mem := by rw [h]
theorem RecordOnly.todo {d e : Dev} (h : RecordOnly d e) : e.todo = d.todo := by rw [h]

/-! ### The verdict on a move (Table 18.11) -/

/-- RESULT and OPIDX of a whole move `m` loaded as `b`, with a challenge (orders 3 to 9). -/
def moveVerdict (b : Bytes) (m : Move) (c : Bytes) (d : Dev) : Nat × Nat :=
  let h := sha384 (m.body ++ c)
  if m.serial ≠ d.nv.serial then (4, 0) else match d.sxc.spt with
  | none => (5, 0)
  | some t => if debugOpen d = true then (9, 0)
  else if Config.ecdsaVerify t.white h (sub b m.body.length 96) = false then (5, 0)
  else if Config.ecdsaVerify t.black h (sub b (m.body.length + 96) 96) = false then (6, 0)
  else if m.expectVer ≠ t.version then (7, 0)
  else match badValue m.ops 0 t t.importKek d with
    | some i => (8, i)
    | none => if applyAtOk m d = false ∨ bitOf m.targets (ownDev d) = false then (8, 0)
      else match (m.ops.zip (List.range m.ops.length)).find? fun x => x.1.opcode == 0x0D && glbState d != 2 with
        | some x => (9, x.2)
        | none => if d.sxc.staged.isSome then (10, 0) else (1, 0)

/-- What the checks of a move read of the device. -/
structure MoveSame (d e : Dev) : Prop where
  nv : e.nv = d.nv
  spt : e.sxc.spt = d.sxc.spt
  staged : e.sxc.staged = d.sxc.staged
  debug : debugOpen e = debugOpen d
  tempo : tempoNow e = tempoNow d
  dev : ownDev e = ownDev d
  state : glbState e = glbState d

theorem moveValue_congr {d e : Dev} (h : e.nv = d.nv) (t : Spt) (kek : Option Bytes) (o : MoveOp) : moveValue t kek o e = moveValue t kek o d := by
  simp only [moveValue, unwrapKek, deviceIdKey, h]

theorem moveSees_congr {d e : Dev} (h : e.nv = d.nv) (t : Spt) (kek : Option Bytes) (o : MoveOp) : moveSees o t kek e = moveSees o t kek d := by
  simp only [moveSees, unwrapKek, deviceIdKey, h]

theorem badValue_congr {d e : Dev} (h : e.nv = d.nv) (l : List MoveOp) (i : Nat) (t : Spt) (kek : Option Bytes) :
    badValue l i t kek e = badValue l i t kek d := by
  induction l generalizing i t kek with
  | nil => rfl
  | cons o os ih => simp only [badValue, moveValue_congr h, moveSees_congr h, ih]

theorem moveVerdict_congr {d e : Dev} (h : MoveSame d e) (b : Bytes) (m : Move) (c : Bytes) : moveVerdict b m c e = moveVerdict b m c d := by
  have happly : applyAtOk m e = applyAtOk m d := by simp only [applyAtOk, h.tempo, h.dev]
  simp only [moveVerdict, h.nv, h.spt, h.staged, h.debug, badValue_congr h.nv, happly, h.dev, h.state]

theorem moveVerdict_quiet (b : Bytes) (m : Move) (c : Bytes) (d : Dev) : moveVerdict b m c d.quiet = moveVerdict b m c d :=
  moveVerdict_congr (d := d) (e := d.quiet) ⟨rfl, rfl, rfl, rfl, rfl, rfl, rfl⟩ b m c

/-- The two signatures behind a body. -/
theorem sigs_split (b : Bytes) (n : Nat) : (sub b n 192).take 96 = sub b n 96 ∧ sub (sub b n 192) 96 96 = sub b (n + 96) 96 := by
  simp [sub, List.take_take, List.drop_take]

/-- A read of an entry of a table whose entries are sound. -/
theorem sptRead_sound {d : Dev} (h : ∀ t, d.sxc.spt = some t → t.bad = []) (e : SptEntry) : sptRead e d = (d.sxc.spt, d) := by
  unfold sptRead
  cases hspt : d.sxc.spt with
  | none => rfl
  | some t => simp [h t hspt]

/-- A verdict, and the device that gave it. -/
def verdictOn (d : Dev) (v : Nat × Nat) : Nat × Nat × Dev := (v.1, v.2, d)

theorem verdictOn_mk (d : Dev) (r i : Nat) : verdictOn d (r, i) = (r, i, d) := rfl

/-- The order in which a move is verified is the verdict's, and it leaves the device as it is. -/
theorem verifyMove_eq {d : Dev} (h : ∀ t, d.sxc.spt = some t → t.bad = []) (b : Bytes) (m : Move) (c : Bytes) :
    verifyMove m (sub b m.body.length 192) c d = verdictOn d (moveVerdict b m c d) := by
  obtain ⟨hwhite, hblack⟩ := sigs_split b m.body.length
  simp only [verifyMove, moveVerdict, sptRead_sound h, sptImportKek, hwhite, hblack]
  cases hspt : d.sxc.spt with
  | none => simp only [apply_ite (verdictOn d), verdictOn_mk]
  | some t =>
    cases hbad : badValue m.ops 0 t t.importKek d with
    | some i => simp [hbad, apply_ite (verdictOn d), verdictOn_mk]
    | none =>
      simp only [Option.bind_some, hbad, Bool.not_eq_true', Bool.or_eq_true]
      generalize List.find? _ _ = unlock
      cases unlock <;> simp [apply_ite (verdictOn d), verdictOn_mk]

/-! ### A submission and its end -/

/-- The registers that a submission writes: the challenge's, the request's and SXC_MOVE_ST. -/
def moveRegs : List Nat := [Reg.SXC_CHAL_CTRL_VALID.off, Reg.SXC_MOVE_CMD_KIND.off, Reg.SXC_MOVE_ST_RESULT.off]

/-- The challenge is taken, whatever was shown of the submission. -/
structure Submitted (d e : Dev) : Prop where
  wrote : Wrote moveRegs { d with sxc.challenge := none } e
  valid : rdb Reg.SXC_CHAL_CTRL_VALID e = false

/-- A submission of a kind that has taken the challenge. -/
def submitted (kind : Nat) (d : Dev) : Dev := (takeChallenge (wr Reg.SXC_MOVE_CMD_KIND kind d)).2

theorem submitted_taken (kind : Nat) (d : Dev) : Submitted d (submitted kind d) :=
  ⟨⟨rfl, fun o ho => (rdReg_wr_off (by rintro rfl; exact ho (by decide)) _ _).trans
      (rdReg_wr_off (by rintro rfl; exact ho (by decide)) kind d)⟩,
    by rw [rdb, submitted, takeChallenge, clr, rd_wr_same (by decide)]; rfl⟩

theorem Submitted.wr {d e : Dev} (h : Submitted d e) {f : Field} (hf : f.off = Reg.SXC_MOVE_ST_RESULT.off) (v : Nat) :
    Submitted d (Machine.wr f v e) :=
  ⟨h.wrote.wr (by rw [hf]; decide) v, by rw [rdb, rd_wr_off (by rw [hf]; decide)]; exact h.valid⟩

theorem Submitted.same {d e : Dev} (h : Submitted d e) : MoveSame d e :=
  ⟨h.wrote.nv, by rw [h.wrote.sxc], by rw [h.wrote.sxc], by rw [debugOpen, h.wrote.sxc]; rfl, h.wrote.rd (by decide), h.wrote.rd (by decide),
    h.wrote.rd (by decide)⟩

/-- What a submission that ended with RESULT `r` and OPIDX `i` leaves, before its command has ended. -/
structure MoveLeft (d : Dev) (r i : Nat) (e : Dev) : Prop where
  result : rd Reg.SXC_MOVE_ST_RESULT e = r
  opidx : rd Reg.SXC_MOVE_ST_OPIDX e = i % 256
  valid : rdb Reg.SXC_CHAL_CTRL_VALID e = false
  sxc : e.sxc = { d.sxc with challenge := none, staged := e.sxc.staged }
  nv : e.nv = d.nv
  mem : e.mem = d.mem
  todo : e.todo = d.todo
  mr : ∀ n < 16, ∀ j < 6, rd (Reg.SXC_MR_WORD n j) e = rd (Reg.SXC_MR_WORD n j) d

theorem Submitted.mrWord {d e : Dev} (h : Submitted d e) {n j : Nat} (hn : n < 16) (hj : j < 6) :
    rd (Reg.SXC_MR_WORD n j) e = rd (Reg.SXC_MR_WORD n j) d := by
  refine h.wrote.rd fun hmem => ?_
  have hall : ∀ o ∈ moveRegs, o < 6292480 := by decide
  have := hall _ hmem
  have := mrWord_range hn hj
  omega

theorem mrWord_block {n j : Nat} (hn : n < 16) (hj : j < 6) : (Reg.SXC_MR_WORD n j).off / 0x100000 ∉ [4, 5] := by
  have hrange := mrWord_range hn hj
  have hsix : (Reg.SXC_MR_WORD n j).off / 0x100000 = 6 := by omega
  rw [hsix]; decide

/-- A submission ends with a RESULT of Table 18.11: it keeps the table, the staged move and the measurement registers. -/
theorem moveLeft_endMove {d e : Dev} (h : Submitted d e) {r : Nat} (hr : r < 16) (i : Nat) :
    MoveLeft d r i (endMove r i e) ∧ (endMove r i e).sxc.staged = d.sxc.staged := by
  let shown : Dev := wr Reg.SXC_MOVE_ST_RESULT r (wr Reg.SXC_MOVE_ST_OPIDX i e)
  have hsub : Submitted d shown := (h.wr (f := Reg.SXC_MOVE_ST_OPIDX) rfl i).wr rfl r
  have hresult : rd Reg.SXC_MOVE_ST_RESULT shown = r := (rd_wr_same (by decide) _ _).trans (Nat.mod_eq_of_lt hr)
  have hopidx : rd Reg.SXC_MOVE_ST_OPIDX shown = i % 256 :=
    (rd_wr_apart (by decide) (by decide) (by decide) _ _).trans (rd_wr_same (by decide) _ _)
  have hleft : MoveLeft d r i shown := ⟨hresult, hopidx, hsub.valid, by rw [hsub.wrote.sxc], hsub.wrote.nv, hsub.wrote.mem, hsub.wrote.todo,
    fun n hn j hj => hsub.mrWord hn hj⟩
  have hstaged : shown.sxc.staged = d.sxc.staged := by rw [hsub.wrote.sxc]
  by_cases hok : r = 1
  · rw [show endMove r i e = shown from if_pos hok]
    exact ⟨hleft, hstaged⟩
  · rw [show endMove r i e = notice Ev.SXC_MOVE_FAIL 0 ((shown.sxc.spt.map (·.version)).getD 0) (moveData r i) shown from if_neg hok]
    generalize (shown.sxc.spt.map (·.version)).getD 0 = version
    have hrec := recordOnly_notice Ev.SXC_MOVE_FAIL 0 version (moveData r i) shown
    refine ⟨⟨?_, ?_, ?_, ?_, hrec.nv.trans hleft.nv, hrec.mem.trans hleft.mem, hrec.todo.trans hleft.todo, fun n hn j hj => ?_⟩, ?_⟩
    · rw [rd_notice (by decide) (by decide)]; exact hresult
    · rw [rd_notice (by decide) (by decide)]; exact hopidx
    · rw [rdb, rd_notice (by decide) (by decide)]; exact hsub.valid
    · rw [hrec.sxc]; exact hleft.sxc
    · rw [rd_notice (mrWord_block hn hj) (notMem_ambient_mrWord hn hj)]
      exact hleft.mr n hn j hj
    · rw [hrec.sxc]; exact hstaged

/-- A further field of SXC_MOVE_ST is shown. -/
theorem MoveLeft.wr {d e : Dev} {r i : Nat} (h : MoveLeft d r i e) {f : Field} (hoff : f.off = Reg.SXC_MOVE_ST_RESULT.off) (hf : f.fits)
    (hresult : f.apart Reg.SXC_MOVE_ST_RESULT) (hopidx : f.apart Reg.SXC_MOVE_ST_OPIDX) (v : Nat) : MoveLeft d r i (Machine.wr f v e) := by
  refine ⟨?_, ?_, ?_, h.sxc, h.nv, h.mem, h.todo, fun n hn j hj => ?_⟩
  · rw [rd_wr_apart hf (by decide) hresult]; exact h.result
  · rw [rd_wr_apart hf (by decide) hopidx]; exact h.opidx
  · rw [rdb, rd_wr_off (by rw [hoff]; decide)]; exact h.valid
  · have hrange := mrWord_range hn hj
    have hlow : Reg.SXC_MOVE_ST_RESULT.off < 6292480 := by decide
    rw [rd_wr_off (by omega)]
    exact h.mr n hn j hj

/-- A verified move is noted for its edge. -/
def stagedAt (m : Move) (t : Nat) (d : Dev) : Dev := { d with sxc.staged := some (m, t) }

theorem MoveLeft.stagedAt {d e : Dev} {r i : Nat} (h : MoveLeft d r i e) (m : Move) (t : Nat) : MoveLeft d r i (Proofs.stagedAt m t e) := by
  refine ⟨h.result, h.opidx, h.valid, ?_, h.nv, h.mem, h.todo, h.mr⟩
  show { e.sxc with staged := some (m, t) } = { d.sxc with challenge := none, staged := some (m, t) }
  rw [h.sxc]

theorem MoveLeft.sendAll {d e : Dev} {r i : Nat} (h : MoveLeft d r i e) (l : List Out) : MoveLeft d r i (Machine.sendAll l e) :=
  ⟨h.result, h.opidx, h.valid, h.sxc, h.nv, h.mem, h.todo, h.mr⟩

/-- What is said of a submission that has ended. -/
def MoveEnded (d : Dev) (r i : Nat) (e : Dev) : Prop :=
  rd Reg.SXC_MOVE_ST_RESULT e = r ∧ rd Reg.SXC_MOVE_ST_OPIDX e = i % 256 ∧ e.sxc.challenge = none ∧ rdb Reg.SXC_CHAL_CTRL_VALID e = false ∧
    e.sxc.spt = d.sxc.spt ∧ e.nv = d.nv ∧ MemKept d e ∧ ∀ n < 16, mrRead n e = mrRead n d

theorem MoveLeft.ended {d e g : Dev} {r i : Nat} (h : MoveLeft d.quiet r i e) (he : EndedFrom e g) : MoveEnded d r i g := by
  refine ⟨(he.rd (by decide)).trans h.result, (he.rd (by decide)).trans h.opidx, ?_, ?_, ?_, he.nv.trans h.nv,
    memKept_of_eq (he.mem.trans h.mem), fun n hn => mrRead_congr fun j hj => ?_⟩
  · rw [he.sxc, h.sxc]
  · rw [rdb, he.rd (by decide)]; exact h.valid
  · rw [he.sxc, h.sxc]; rfl
  · exact (he.rd (notMem_ambient_mrWord hn hj)).trans (h.mr n hn j hj)

section submit

variable {s : State} (hready : s.ready)
include hready

/-- A submission that only ends. -/
theorem endMove_answers {c : Instr} {e : Dev} {r i : Nat} (hr : r < 16) (h : Submitted s.dev.quiet e) (hruns : RunsTo c s (endMove r i e)) :
    Answers c s fun d => MoveEnded s.dev r i d ∧ d.sxc.staged = s.dev.sxc.staged := by
  obtain ⟨hleft, hstaged⟩ := moveLeft_endMove h hr i
  exact hruns.answers (hleft.todo.trans hready.2) fun g he => ⟨hleft.ended he, by rw [he.sxc]; exact hstaged⟩

/-- The submission of a move as its effect leaves it. -/
def moveEffect (d : Dev) : Dev :=
  match parseMove (moveLoaded d) with
  | .error i => endMove 2 i (submitted 0 d)
  | .ok m =>
    let e := wr Reg.SXC_MOVE_ST_TARGETS m.targets (clr Reg.SXC_MOVE_ST_ACKED (submitted 0 d))
    if (moveLoaded d).length < m.body.length + 192 then endMove 2 0 e
    else match d.sxc.challenge.map (·.1) with
      | none => endMove 3 0 e
      | some c =>
        let v := verifyMove m (sub (moveLoaded d) m.body.length 192) c e
        if v.1 ≠ 1 then endMove v.1 v.2.1 v.2.2
        else sendAll ((those 8 fun u => bitOf m.targets u && u != ownDev (endMove v.1 v.2.1 v.2.2)).map fun u => .moveForward u m.body)
          (wr Reg.SXC_MOVE_ST_ACKED (2 ^ ownDev (endMove v.1 v.2.1 v.2.2)) (stageMove m (endMove v.1 v.2.1 v.2.2)))

theorem moveSubmit_runs : RunsTo .moveSubmit s (moveEffect s.dev.quiet) := runsTo_of_live (execMoveSubmit s) rfl rfl hready rfl

variable (hsound : ∀ t, s.dev.sxc.spt = some t → t.bad = [])

/-- The bodies that are not whole. -/
theorem moveSubmit_answers_malformed {i : Nat} (hparse : parseMove (moveLoaded s.dev) = .error i) :
    Answers .moveSubmit s fun d => MoveEnded s.dev 2 i d ∧ d.sxc.staged = s.dev.sxc.staged := by
  refine endMove_answers hready (by decide) (submitted_taken 0 s.dev.quiet) ?_
  have h := moveSubmit_runs hready
  rwa [moveEffect, show parseMove (moveLoaded s.dev.quiet) = .error i from hparse] at h

section whole

variable {m : Move} (hparse : parseMove (moveLoaded s.dev) = .ok m)

/-- The targets of the move are shown. -/
def targeted (m : Move) (d : Dev) : Dev := wr Reg.SXC_MOVE_ST_TARGETS m.targets (clr Reg.SXC_MOVE_ST_ACKED (submitted 0 d))

omit hready in
theorem targeted_taken (m : Move) (d : Dev) : Submitted d (targeted m d) :=
  ((submitted_taken 0 d).wr (f := Reg.SXC_MOVE_ST_ACKED) rfl 0).wr (f := Reg.SXC_MOVE_ST_TARGETS) rfl m.targets

include hparse

theorem moveSubmit_runs_whole : RunsTo .moveSubmit s
    (if (moveLoaded s.dev).length < m.body.length + 192 then endMove 2 0 (targeted m s.dev.quiet)
    else match s.dev.sxc.challenge.map (·.1) with
      | none => endMove 3 0 (targeted m s.dev.quiet)
      | some c =>
        let v := verifyMove m (sub (moveLoaded s.dev) m.body.length 192) c (targeted m s.dev.quiet)
        if v.1 ≠ 1 then endMove v.1 v.2.1 v.2.2
        else sendAll ((those 8 fun u => bitOf m.targets u && u != ownDev (endMove v.1 v.2.1 v.2.2)).map fun u => .moveForward u m.body)
          (wr Reg.SXC_MOVE_ST_ACKED (2 ^ ownDev (endMove v.1 v.2.1 v.2.2)) (stageMove m (endMove v.1 v.2.1 v.2.2)))) := by
  have h := moveSubmit_runs hready
  rwa [moveEffect, show parseMove (moveLoaded s.dev.quiet) = .ok m from hparse] at h

theorem moveSubmit_answers_cut (hshort : (moveLoaded s.dev).length < m.body.length + 192) :
    Answers .moveSubmit s fun d => MoveEnded s.dev 2 0 d ∧ d.sxc.staged = s.dev.sxc.staged := by
  have h := moveSubmit_runs_whole hready hparse
  rw [if_pos hshort] at h
  exact endMove_answers hready (by decide) (targeted_taken m s.dev.quiet) h

theorem moveSubmit_answers_unchallenged (hlong : m.body.length + 192 ≤ (moveLoaded s.dev).length) (hchal : s.dev.sxc.challenge = none) :
    Answers .moveSubmit s fun d => MoveEnded s.dev 3 0 d ∧ d.sxc.staged = s.dev.sxc.staged := by
  have h := moveSubmit_runs_whole hready hparse
  rw [if_neg (by omega), hchal] at h
  exact endMove_answers hready (by decide) (targeted_taken m s.dev.quiet) h

omit hready hparse in
theorem moveVerdict_lt (b : Bytes) (m : Move) (c : Bytes) (d : Dev) : (moveVerdict b m c d).1 < 16 := by
  unfold moveVerdict
  dsimp only
  repeat' split
  all_goals simp

/-- The edge at which a verified move takes effect. -/
def moveEdge (m : Move) (d : Dev) : Nat := if m.applyAt = 0 then tempoNow d + 1 else m.applyAt

/-- What is said of a move that is staged and forwarded. -/
def MoveStaged (d : Dev) (m : Move) (e : Dev) : Prop :=
  MoveEnded d 1 0 e ∧ e.sxc.staged = some (m, moveEdge m d) ∧ rdb Reg.SXC_MOVE_ST_STAGED e = true ∧
    rd Reg.SXC_MOVE_ST_APPLY e = moveEdge m d % 2 ^ 32 ∧ rd Reg.SXC_MOVE_ST_ACKED e = 2 ^ ownDev d % 256 ∧
    rd Reg.SXC_MOVE_ST_TARGETS e = m.targets % 256 ∧
    ∀ v < 8, v ≠ ownDev d → bitOf m.targets v = true → Out.moveForward v m.body ∈ e.out

/-- The registers and the staged move of a verified move, its end shown. -/
def stagedEffect (m : Move) (d : Dev) : Dev :=
  sendAll ((those 8 fun u => bitOf m.targets u && u != ownDev (endMove 1 0 (targeted m d))).map fun u => .moveForward u m.body)
    (wr Reg.SXC_MOVE_ST_ACKED (2 ^ ownDev (endMove 1 0 (targeted m d))) (stageMove m (endMove 1 0 (targeted m d))))

/-- The fields of SXC_MOVE_ST that a staged move shows. -/
def stagedShown (m : Move) (t v : Nat) (d : Dev) : Dev :=
  wr Reg.SXC_MOVE_ST_ACKED (2 ^ v) (wr Reg.SXC_MOVE_ST_STAGED 1 (wr Reg.SXC_MOVE_ST_APPLY t (stagedAt m t d)))

omit hready hparse in
theorem stagedEffect_eq (m : Move) (d : Dev) : stagedEffect m d =
    sendAll ((those 8 fun u => bitOf m.targets u && u != ownDev d).map fun u => .moveForward u m.body)
      (stagedShown m (moveEdge m d) (ownDev d) (endMove 1 0 (targeted m d))) := by
  have hsame : MoveSame d (endMove 1 0 (targeted m d)) :=
    (((targeted_taken m d).wr (f := Reg.SXC_MOVE_ST_OPIDX) rfl 0).wr (f := Reg.SXC_MOVE_ST_RESULT) rfl 1).same
  simp only [stagedEffect, stageMove, moveEdge, hsame.dev, hsame.tempo, setb, stagedShown, stagedAt]

omit hready hparse in
theorem MoveLeft.stagedShown {d e : Dev} {r i : Nat} (h : MoveLeft d r i e) (m : Move) (t v : Nat) :
    MoveLeft d r i (Proofs.stagedShown m t v e) :=
  (((h.stagedAt m t).wr (f := Reg.SXC_MOVE_ST_APPLY) rfl (by decide) (by decide) (by decide) t).wr
    (f := Reg.SXC_MOVE_ST_STAGED) rfl (by decide) (by decide) (by decide) 1).wr (f := Reg.SXC_MOVE_ST_ACKED) rfl (by decide) (by decide)
      (by decide) (2 ^ v)

omit hready hparse in
theorem rd_stagedShown (m : Move) (t v : Nat) (d : Dev) : rd Reg.SXC_MOVE_ST_STAGED (stagedShown m t v d) = 1 ∧
    rd Reg.SXC_MOVE_ST_APPLY (stagedShown m t v d) = t % 2 ^ 32 ∧ rd Reg.SXC_MOVE_ST_ACKED (stagedShown m t v d) = 2 ^ v % 256 ∧
    rd Reg.SXC_MOVE_ST_TARGETS (stagedShown m t v d) = rd Reg.SXC_MOVE_ST_TARGETS d := by
  refine ⟨?_, ?_, ?_, ?_⟩ <;> unfold stagedShown
  · rw [rd_wr_apart (by decide) (by decide) (by decide), rd_wr_same (by decide)]; rfl
  · rw [rd_wr_apart (by decide) (by decide) (by decide), rd_wr_apart (by decide) (by decide) (by decide), rd_wr_same (by decide)]; rfl
  · rw [rd_wr_same (by decide)]; rfl
  · rw [rd_wr_apart (by decide) (by decide) (by decide), rd_wr_apart (by decide) (by decide) (by decide),
      rd_wr_apart (by decide) (by decide) (by decide)]; rfl

omit hready hparse in
theorem rd_sendAll (f : Field) (l : List Out) (d : Dev) : rd f (sendAll l d) = rd f d := rfl

omit hready hparse in
theorem rd_targeted (m : Move) (d : Dev) : rd Reg.SXC_MOVE_ST_TARGETS (endMove 1 0 (targeted m d)) = m.targets % 256 := by
  show rd _ (wr _ _ (wr _ _ (wr _ _ _))) = _
  rw [rd_wr_apart (by decide) (by decide) (by decide), rd_wr_apart (by decide) (by decide) (by decide), rd_wr_same (by decide)]
  rfl

omit hparse in
theorem stagedEffect_answers (hruns : RunsTo .moveSubmit s (stagedEffect m s.dev.quiet)) : Answers .moveSubmit s (MoveStaged s.dev m) := by
  rw [stagedEffect_eq, show moveEdge m s.dev.quiet = moveEdge m s.dev from rfl, show ownDev s.dev.quiet = ownDev s.dev from rfl] at hruns
  obtain ⟨hleft, -⟩ := moveLeft_endMove (targeted_taken m s.dev.quiet) (r := 1) (by decide) 0
  have htargets := rd_targeted m s.dev.quiet
  generalize endMove 1 0 (targeted m s.dev.quiet) = ended at hruns hleft htargets
  have hall := (hleft.stagedShown m (moveEdge m s.dev) (ownDev s.dev)).sendAll
    ((those 8 fun u => bitOf m.targets u && u != ownDev s.dev).map fun u => .moveForward u m.body)
  obtain ⟨hst, happly, hacked, htgt⟩ := rd_stagedShown m (moveEdge m s.dev) (ownDev s.dev) ended
  refine hruns.answers (hall.todo.trans hready.2) fun e he => ⟨hall.ended he, ?_, ?_, ?_, ?_, ?_, fun v hv hown hbit => he.mem_out ?_⟩
  · simp only [he.sxc, sendAll, stagedShown, wr_sxc, stagedAt]
  · rw [rdb, he.rd (by decide), rd_sendAll, hst]; rfl
  · rw [he.rd (by decide), rd_sendAll, happly]
  · rw [he.rd (by decide), rd_sendAll, hacked]
  · rw [he.rd (by decide), rd_sendAll, htgt, htargets]
  · rw [sendAll_out]
    exact List.mem_append_right _ (List.mem_map.2 ⟨v, by simp [those, hv, hbit, hown], rfl⟩)

omit hready hparse in
include hsound in
/-- What a whole move ends with, when it finds a challenge. -/
theorem verifyMove_targeted (c : Bytes) : verifyMove m (sub (moveLoaded s.dev) m.body.length 192) c (targeted m s.dev.quiet) =
    verdictOn (targeted m s.dev.quiet) (moveVerdict (moveLoaded s.dev) m c s.dev) := by
  have htaken := targeted_taken m s.dev.quiet
  rw [verifyMove_eq (by rw [htaken.same.spt]; exact hsound), moveVerdict_congr htaken.same, moveVerdict_quiet]

omit hready hparse in
/-- A verdict of OK names the first operation. -/
theorem verdict_ok {b c : Bytes} {d : Dev} (h : (moveVerdict b m c d).1 = 1) : moveVerdict b m c d = (1, 0) := by
  revert h
  unfold moveVerdict
  dsimp only
  repeat' split
  all_goals simp

include hsound in
theorem moveSubmit_answers_judged (hlong : m.body.length + 192 ≤ (moveLoaded s.dev).length) {c : Bytes} {x : Nat}
    (hchal : s.dev.sxc.challenge = some (c, x)) : Answers .moveSubmit s fun d =>
      let v := moveVerdict (moveLoaded s.dev) m c s.dev
      if v.1 = 1 then MoveStaged s.dev m d else MoveEnded s.dev v.1 v.2 d ∧ d.sxc.staged = s.dev.sxc.staged := by
  have h := moveSubmit_runs_whole hready hparse
  rw [if_neg (by omega), hchal] at h
  simp only [Option.map_some, verifyMove_targeted hsound, verdictOn] at h
  by_cases hok : (moveVerdict (moveLoaded s.dev) m c s.dev).1 = 1
  · simp only [hok, if_true]
    rw [if_neg (not_not.2 hok), verdict_ok hok] at h
    exact stagedEffect_answers hready h
  · simp only [hok, if_false]
    rw [if_pos hok] at h
    exact endMove_answers hready (moveVerdict_lt ..) (targeted_taken m s.dev.quiet) h

end whole

/-! ### Forwarded moves and acknowledgements (R553, R556) -/

omit hready in
/-- Nothing but what may move at the end of any command. -/
theorem stands_ended {e : Dev} (he : EndedFrom s.dev.quiet e) : e.sxc = s.dev.sxc ∧ RegsKept [] s.dev e ∧ MemKept s.dev e :=
  ⟨he.sxc, (wrote_refl _ _).ended he⟩

theorem moveForward_answers_malformed (ok : Bool) {x : Bytes} {i : Nat} (hx : parseMove x = .error i) :
    Answers (.moveForwardReceive (.forward ok x)) s fun d => d.sxc = s.dev.sxc ∧ RegsKept [] s.dev d ∧ MemKept s.dev d := by
  have hruns : RunsTo (.moveForwardReceive (.forward ok x)) s s.dev.quiet :=
    runsTo_of_live (execMoveForwardReceive (.forward ok x) s) rfl rfl hready (by simp only [hx])
  exact hruns.answers hready.2 fun e he => stands_ended he

/-- A forwarded move is for this device and can be staged. -/
def MoveFits (ok : Bool) (m : Move) (d : Dev) : Prop :=
  ok = true ∧ bitOf m.targets (ownDev d) = true ∧ debugOpen d = false ∧ (∃ t, d.sxc.spt = some t ∧ m.expectVer = t.version) ∧
    d.sxc.staged = none ∧ tempoNow d + 100 ≤ m.applyAt

/-- Staged as forwarded, its targets shown, and acknowledged. -/
def acknowledged (m : Move) (d : Dev) : Dev := send (.moveAck (ownDev d)) (stageMove m (wr Reg.SXC_MOVE_ST_TARGETS m.targets d))

omit hready in
theorem rd_send (f : Field) (x : Out) (d : Dev) : rd f (send x d) = rd f d := rfl

omit hready in
theorem rdReg_send (o : Nat) (x : Out) (d : Dev) : rdReg o (send x d) = rdReg o d := rfl

omit hready in
theorem rdReg_stagedAt (o : Nat) (m : Move) (t : Nat) (d : Dev) : rdReg o (stagedAt m t d) = rdReg o d := rfl

omit hready in
theorem stagedAt_todo (m : Move) (t : Nat) (d : Dev) : (stagedAt m t d).todo = d.todo := rfl

omit hready in
theorem stagedAt_mem (m : Move) (t : Nat) (d : Dev) : (stagedAt m t d).mem = d.mem := rfl

/-- What a forwarded whole move does. -/
theorem moveForward_runs (hsound : ∀ t, s.dev.sxc.spt = some t → t.bad = []) (ok : Bool) {x : Bytes} {m : Move} (hx : parseMove x = .ok m) :
    (MoveFits ok m s.dev → RunsTo (.moveForwardReceive (.forward ok x)) s (acknowledged m s.dev.quiet)) ∧
    (¬ MoveFits ok m s.dev → RunsTo (.moveForwardReceive (.forward ok x)) s s.dev.quiet) := by
  have hread : sptRead .officers s.dev.quiet = (s.dev.sxc.spt, s.dev.quiet) := sptRead_sound (d := s.dev.quiet) hsound .officers
  have hfits : (!ok || debugOpen s.dev || !(match s.dev.sxc.spt with | some t => m.expectVer == t.version | none => false)
      || s.dev.sxc.staged.isSome || !bitOf m.targets (ownDev s.dev) || decide (m.applyAt < tempoNow s.dev + 100)) = false ↔
      MoveFits ok m s.dev := by
    cases hspt : s.dev.sxc.spt <;> simp [MoveFits, hspt, and_assoc]; tauto
  refine ⟨fun h => runsTo_of_live (execMoveForwardReceive (.forward ok x) s) rfl rfl hready ?_,
    fun h => runsTo_of_live (execMoveForwardReceive (.forward ok x) s) rfl rfl hready ?_⟩
  · simp only [hx, hread]
    exact if_neg (by rw [Bool.not_eq_true]; exact hfits.2 h)
  · simp only [hx, hread]
    exact if_pos (by rw [← Bool.not_eq_false]; exact fun hfalse => h (hfits.1 hfalse))

theorem moveForward_answers (hsound : ∀ t, s.dev.sxc.spt = some t → t.bad = []) (ok : Bool) {x : Bytes} {m : Move} (hx : parseMove x = .ok m) :
    (MoveFits ok m s.dev → Answers (.moveForwardReceive (.forward ok x)) s fun d =>
      d.sxc = { s.dev.sxc with staged := some (m, m.applyAt) } ∧ rdb Reg.SXC_MOVE_ST_STAGED d = true ∧ Out.moveAck (ownDev s.dev) ∈ d.out ∧
        RegsKept [Reg.SXC_MOVE_ST_STAGED.off] s.dev d ∧ MemKept s.dev d) ∧
    (¬ MoveFits ok m s.dev → Answers (.moveForwardReceive (.forward ok x)) s fun d =>
      d.sxc = s.dev.sxc ∧ RegsKept [] s.dev d ∧ MemKept s.dev d) := by
  obtain ⟨hdoes, hnot⟩ := moveForward_runs hready hsound ok hx
  refine ⟨fun h => ?_, fun h => (hnot h).answers hready.2 fun e he => stands_ended he⟩
  obtain ⟨-, -, -, -, -, htime⟩ := id h
  have happly : m.applyAt ≠ 0 := by omega
  have heffect : acknowledged m s.dev.quiet = send (.moveAck (ownDev s.dev)) (wr Reg.SXC_MOVE_ST_STAGED 1
      (wr Reg.SXC_MOVE_ST_APPLY m.applyAt (stagedAt m m.applyAt (wr Reg.SXC_MOVE_ST_TARGETS m.targets s.dev.quiet)))) := by
    rw [acknowledged, stageMove, if_neg happly, setb_eq, stagedAt, show ownDev s.dev.quiet = ownDev s.dev from rfl]
  have hruns := heffect ▸ hdoes h
  have hmoveSt : ∀ o, o ∉ [Reg.SXC_MOVE_ST_STAGED.off] → o ≠ Reg.SXC_MOVE_ST_STAGED.off ∧ o ≠ Reg.SXC_MOVE_ST_APPLY.off ∧
      o ≠ Reg.SXC_MOVE_ST_TARGETS.off := fun o ho => ⟨List.ne_of_not_mem_cons ho, List.ne_of_not_mem_cons ho, List.ne_of_not_mem_cons ho⟩
  refine hruns.answers ?_ fun e he => ⟨?_, ?_, he.mem_out (by simp), fun o ho ha => ?_, memKept_of_eq ?_⟩
  · rw [send_todo, wr_todo, wr_todo, stagedAt_todo, wr_todo]; exact hready.2
  · simp only [he.sxc, send, wr_sxc, stagedAt, quiet_sxc]
  · rw [rdb, he.rd (by decide), rd_send, rd_wr_same (by decide)]; rfl
  · obtain ⟨hst, hap, htgt⟩ := hmoveSt o ho
    rw [he.rdReg ha, rdReg_send, rdReg_wr_off hst, rdReg_wr_off hap, rdReg_stagedAt, rdReg_wr_off htgt, quiet_rdReg]
  · rw [he.mem, send_mem, wr_mem, wr_mem, stagedAt_mem, wr_mem, quiet_mem]

omit hready in
/-- A bit that is clear is set by adding it. -/
theorem bitOf_add {n v : Nat} (hv : v < 8) (_ : n < 256) (h : bitOf n v = false) : bitOf ((n + 2 ^ v) % 256) v = true := by
  unfold bitOf at h ⊢
  interval_cases v <;> simp only [decide_eq_true_eq, decide_eq_false_iff_not] at h ⊢ <;> omega

theorem moveAck_answers (v : Nat) : Answers (.moveForwardReceive (.ack v)) s fun d =>
    (v < 8 → s.dev.sxc.staged ≠ none → bitOf (rd Reg.SXC_MOVE_ST_ACKED d) v = true) ∧
    ((8 ≤ v ∨ s.dev.sxc.staged = none) → RegsKept [] s.dev d) ∧ d.sxc = s.dev.sxc ∧ RegsKept [Reg.SXC_MOVE_ST_ACKED.off] s.dev d ∧
    MemKept s.dev d := by
  by_cases hack : v < 8 ∧ s.dev.sxc.staged.isSome = true
  · have hruns : RunsTo (.moveForwardReceive (.ack v)) s (setBit Reg.SXC_MOVE_ST_ACKED v s.dev.quiet) :=
      runsTo_of_live (execMoveForwardReceive (.ack v) s) rfl rfl hready (if_pos (by simpa using hack))
    have hset : Wrote [Reg.SXC_MOVE_ST_ACKED.off] s.dev.quiet (setBit Reg.SXC_MOVE_ST_ACKED v s.dev.quiet) ∧
        bitOf (rd Reg.SXC_MOVE_ST_ACKED (setBit Reg.SXC_MOVE_ST_ACKED v s.dev.quiet)) v = true := by
      unfold setBit
      cases hbit : bitOf (rd Reg.SXC_MOVE_ST_ACKED s.dev.quiet) v with
      | true => exact ⟨wrote_refl _ _, hbit⟩
      | false =>
        refine ⟨(wrote_refl _ _).wr (by decide) _, ?_⟩
        rw [if_neg (by simp), rd_wr_same (by decide)]
        exact bitOf_add hack.1 (rd_lt Reg.SXC_MOVE_ST_ACKED _) hbit
    obtain ⟨hwrote, hbit⟩ := hset
    refine hruns.answers (hwrote.todo.trans hready.2) fun e he => ⟨fun _ _ => by rw [he.rd (by decide)]; exact hbit, fun hnot => ?_,
      he.sxc.trans hwrote.sxc, hwrote.ended he⟩
    rcases hnot with hnot | hnot
    · omega
    · rw [hnot] at hack; simp at hack
  · have hruns : RunsTo (.moveForwardReceive (.ack v)) s s.dev.quiet :=
      runsTo_of_live (execMoveForwardReceive (.ack v) s) rfl rfl hready (if_neg (by simpa using hack))
    refine hruns.answers hready.2 fun e he => ⟨fun hv hstaged => absurd ⟨hv, Option.isSome_iff_ne_none.2 hstaged⟩ hack,
      fun _ => (stands_ended he).2.1, he.sxc, (wrote_refl _ _).ended he⟩

end submit

/-- Settles O48, outcome by outcome: the verdict is read off the device as the submission found it. -/
theorem movesVerifiedAndStaged : Obligations.MovesVerifiedAndStaged := by
  unfold Obligations.MovesVerifiedAndStaged
  intro s hready hsound
  refine ⟨fun i hparse => ?_, fun m hparse => ⟨fun hshort => ?_, fun hlong => ⟨fun hchal => ?_, fun c x hchal => ?_⟩⟩,
    fun ok x i hx => moveForward_answers_malformed hready ok hx, fun ok x m hx => moveForward_answers hready hsound ok hx, moveAck_answers hready⟩
  · exact moveSubmit_answers_malformed hready hparse
  · exact moveSubmit_answers_cut hready hparse hshort
  · exact moveSubmit_answers_unchallenged hready hparse hlong hchal
  · exact moveSubmit_answers_judged hready hsound hparse hlong hchal

end Sys2Proof.Proofs

/-!
PROOFS. O57: the envelope, the throttle and the wakes from ADJ3.
-/

namespace Sys2Proof.Proofs

open Sys2Proof Sys2Proof.Machine

/-! ### Commands that change nothing -/

/-- What a command that changes nothing leaves. -/
theorem answers_same {c : Instr} {s : State} (hsettled : s.settled) (hruns : RunsTo c s s.dev.quiet) :
    Answers c s fun d => d.pwr = s.dev.pwr ∧ RegsKept [] s.dev d ∧ MemKept s.dev d :=
  hruns.answers hsettled fun _ he => ⟨he.pwr, (wrote_refl _ _).ended he⟩

/-! ### The envelope (R607) -/

/-- An envelope of some watts is staged in tokens. -/
def stageEnvelope (watts : Nat) (d : Dev) : Dev := { d with pwr.envStaged := some (20 * watts) }

section answers

variable {s : State} (hready : s.ready)
include hready

theorem envelopeWrite_answers {w : BitVec 16} (hlow : 100 ≤ w.toNat) (hhigh : w.toNat ≤ 260) : Answers (.envelopeWrite w) s fun d =>
    rd Reg.PWR_CTRL_ENVELOPE d = w.toNat ∧ d.pwr = { s.dev.pwr with envStaged := some (20 * w.toNat) } ∧
      RegsKept [Reg.PWR_CTRL_ENVELOPE.off] s.dev d ∧ MemKept s.dev d := by
  have hruns : RunsTo (.envelopeWrite w) s (wr Reg.PWR_CTRL_ENVELOPE w.toNat (stageEnvelope w.toNat s.dev.quiet)) :=
    runsTo_of_live (execEnvelopeWrite w s) rfl rfl hready ((if_pos ⟨hlow, hhigh⟩).trans (by rw [stageEnvelope, Nat.mul_comm]))
  refine hruns.answers (by rw [wr_todo]; exact hready.2) fun e he => ⟨?_, ?_, fun o ho ha => ?_, memKept_of_eq ?_⟩
  · rw [he.rd (by decide), rd_wr_same (by decide)]
    exact Nat.mod_eq_of_lt w.isLt
  · rw [he.pwr, wr_pwr, stageEnvelope, quiet_pwr]
  · rw [he.rdReg ha, rdReg_wr_off (by simpa using ho)]; rfl
  · rw [he.mem, wr_mem]; rfl

theorem envelopeWrite_answers_outside {w : BitVec 16} (h : w.toNat < 100 ∨ 260 < w.toNat) : Answers (.envelopeWrite w) s fun d =>
    d.pwr = s.dev.pwr ∧ RegsKept [] s.dev d ∧ MemKept s.dev d :=
  answers_same hready.2 (runsTo_of_live (execEnvelopeWrite w s) rfl rfl hready (if_neg (by omega)))

/-! ### The throttle (R609) -/

/-- The registers of the effective envelope and of THROTTLE after a step. -/
def showEnv (eff : Nat) (d : Dev) : Dev := showThrottle (wr Reg.PWR_STATUS_EFF_ENV eff d)

omit hready in
theorem showEnv_wrote (eff : Nat) (d : Dev) : Wrote [Reg.PWR_STATUS_EFF_ENV.off] d (showEnv eff d) :=
  ((wrote_refl _ d).wr (f := Reg.PWR_STATUS_EFF_ENV) (by decide) eff).wr (f := Reg.PWR_STATUS_THROTTLE) (by decide) _

omit hready in
theorem rd_showEnv {eff : Nat} (heff : eff < 2 ^ 16) (d : Dev) : rd Reg.PWR_STATUS_EFF_ENV (showEnv eff d) = eff ∧
    (rdb Reg.PWR_STATUS_THROTTLE (showEnv eff d) = true ↔ eff < d.pwr.envelope) := by
  have hsame : rd Reg.PWR_STATUS_EFF_ENV (wr Reg.PWR_STATUS_EFF_ENV eff d) = eff := (rd_wr_same (by decide) _ _).trans (Nat.mod_eq_of_lt heff)
  constructor
  · rw [showEnv, showThrottle, rd_wr_apart (by decide) (by decide) (by decide), hsame]
  · rw [rdb, showEnv, showThrottle, rd_wr_same (by decide), hsame, wr_pwr]
    by_cases h : eff < d.pwr.envelope <;> simp [h, b2n, Field.width, Reg.PWR_STATUS_THROTTLE]

variable (hedge : tempoNow s.dev % 1000 = 0)

/-- A sensor lies above THROTTLE with THROTTLE_EN. -/
def ThrottleHot (d : Dev) : Prop :=
  rdb Reg.PWR_CTRL_THROTTLE_EN d = true ∧ sensorAbove (rd Reg.PWR_THERM_THROTTLE d : Nat) d = true

/-- Throttling has begun, with its Notice the first time. -/
def throttled (d : Dev) : Dev := if rdb Reg.PWR_STATUS_THROTTLE d then d else notice Ev.PWR_THROTTLE 0 0 0 d

omit hready in
/-- The least base charge depends on what is configured at the ports, the lanes and the channels. -/
theorem leastBase_congr {d e : Dev} (heth : ∀ g < 8, rd (Reg.ETH_PORTCFG_GROUP g) e = rd (Reg.ETH_PORTCFG_GROUP g) d)
    (hcdt : ∀ p < 4, rd (Reg.CDT_PORT_ROLE p) e = rd (Reg.CDT_PORT_ROLE p) d) (hmdl : rd Reg.MDL_LANE_EN_EN e = rd Reg.MDL_LANE_EN_EN d)
    (hddr : ∀ c < 8, rd (Reg.DDR_CH_DIMMS c) e = rd (Reg.DDR_CH_DIMMS c) d) : leastBase e = leastBase d := by
  have heth : ((List.range 8).countP fun g => rd (Reg.ETH_PORTCFG_GROUP g) e != 0) = _ :=
    List.countP_congr (q := fun g => rd (Reg.ETH_PORTCFG_GROUP g) d != 0) fun g hg => by rw [heth g (List.mem_range.1 hg)]
  have hcdt : ((List.range 4).countP fun p => rd (Reg.CDT_PORT_ROLE p) e != 0) = _ :=
    List.countP_congr (q := fun p => rd (Reg.CDT_PORT_ROLE p) d != 0) fun p hp => by rw [hcdt p (List.mem_range.1 hp)]
  have hddr : ((List.range 8).countP fun c => rd (Reg.DDR_CH_DIMMS c) e != 0) = _ :=
    List.countP_congr (q := fun c => rd (Reg.DDR_CH_DIMMS c) d != 0) fun c hc => by rw [hddr c (List.mem_range.1 hc)]
  unfold leastBase ioBase
  rw [heth, hcdt, hmdl, hddr]

omit hready in
theorem throttled_keeps (d : Dev) : RecordOnly d (throttled d) ∧ leastBase (throttled d) = leastBase d := by
  unfold throttled
  split
  · exact ⟨rfl, rfl⟩
  · have heth : ∀ g < 8, (Reg.ETH_PORTCFG_GROUP g).off / 0x100000 ∉ [4, 5] ∧ (Reg.ETH_PORTCFG_GROUP g).off ∉ ambientRegs := by decide
    have hcdt : ∀ p < 4, (Reg.CDT_PORT_ROLE p).off / 0x100000 ∉ [4, 5] ∧ (Reg.CDT_PORT_ROLE p).off ∉ ambientRegs := by decide
    have hddr : ∀ c < 8, (Reg.DDR_CH_DIMMS c).off / 0x100000 ∉ [4, 5] ∧ (Reg.DDR_CH_DIMMS c).off ∉ ambientRegs := by decide
    exact ⟨recordOnly_notice .., leastBase_congr (fun g hg => rd_notice (heth g hg).1 (heth g hg).2 ..)
      (fun p hp => rd_notice (hcdt p hp).1 (hcdt p hp).2 ..) (rd_notice (by decide) (by decide) ..)
      fun c hc => rd_notice (hddr c hc).1 (hddr c hc).2 ..⟩

include hedge

theorem throttleStep_answers_hot (hhot : ThrottleHot s.dev) : Answers .throttleStep s fun d => MemKept s.dev d ∧ d.pwr = s.dev.pwr ∧
    (leastBase s.dev ≤ rd Reg.PWR_STATUS_EFF_ENV s.dev →
      rd Reg.PWR_STATUS_EFF_ENV d = max (rd Reg.PWR_STATUS_EFF_ENV s.dev - rd Reg.PWR_CTRL_ENVELOPE s.dev) (leastBase s.dev) ∧
      (rdb Reg.PWR_STATUS_THROTTLE d = true ↔
        max (rd Reg.PWR_STATUS_EFF_ENV s.dev - rd Reg.PWR_CTRL_ENVELOPE s.dev) (leastBase s.dev) < s.dev.pwr.envelope)) := by
  obtain ⟨hrec, hleast⟩ := throttled_keeps s.dev.quiet
  have hruns : RunsTo .throttleStep s (showEnv (max (rd Reg.PWR_STATUS_EFF_ENV s.dev - rd Reg.PWR_CTRL_ENVELOPE s.dev)
      (leastBase (throttled s.dev.quiet))) (throttled s.dev.quiet)) :=
    runsTo_of_live (execThrottleStep s) rfl rfl hready ((if_pos hedge).trans (if_pos (Bool.and_eq_true_iff.2 hhot)))
  rw [hleast, show leastBase s.dev.quiet = leastBase s.dev from rfl] at hruns
  generalize hto : max (rd Reg.PWR_STATUS_EFF_ENV s.dev - rd Reg.PWR_CTRL_ENVELOPE s.dev) (leastBase s.dev) = eff at hruns
  refine hruns.answers ?_ fun e he => ⟨memKept_of_eq ?_, ?_, fun hle => ?_⟩
  · rw [(showEnv_wrote _ _).todo, hrec.todo]; exact hready.2
  · rw [he.mem, (showEnv_wrote _ _).mem, hrec.mem]; rfl
  · rw [he.pwr, (showEnv_wrote _ _).pwr, hrec.pwr]; rfl
  · have hlt : eff < 2 ^ 16 := by
      have := rd_lt Reg.PWR_STATUS_EFF_ENV s.dev
      exact Nat.lt_of_le_of_lt (by omega) this
    obtain ⟨heff, hthr⟩ := rd_showEnv hlt (throttled s.dev.quiet)
    refine ⟨(he.rd (by decide)).trans heff, ?_⟩
    rw [rdb, he.rd (by decide), ← rdb, hthr, hrec.pwr, quiet_pwr]

theorem throttleStep_answers_cool (hhot : ¬ ThrottleHot s.dev) (hbelow : sensorsBelow ((rd Reg.PWR_THERM_THROTTLE s.dev : Nat) - 5) s.dev = true)
    (hless : rd Reg.PWR_STATUS_EFF_ENV s.dev < s.dev.pwr.envelope) : Answers .throttleStep s fun d => d.pwr = s.dev.pwr ∧
      (s.dev.pwr.envelope ≤ 5200 →
        rd Reg.PWR_STATUS_EFF_ENV d = min (rd Reg.PWR_STATUS_EFF_ENV s.dev + rd Reg.PWR_CTRL_ENVELOPE s.dev) s.dev.pwr.envelope) ∧
      RegsKept [Reg.PWR_STATUS_EFF_ENV.off] s.dev d ∧ MemKept s.dev d := by
  have hruns : RunsTo .throttleStep s (showEnv (min (rd Reg.PWR_STATUS_EFF_ENV s.dev + rd Reg.PWR_CTRL_ENVELOPE s.dev)
      s.dev.pwr.envelope) s.dev.quiet) :=
    runsTo_of_live (execThrottleStep s) rfl rfl hready ((if_pos hedge).trans ((if_neg fun h => hhot (Bool.and_eq_true_iff.1 h)).trans
      (if_pos (Bool.and_eq_true_iff.2 ⟨hbelow, decide_eq_true hless⟩))))
  have hwrote := showEnv_wrote (min (rd Reg.PWR_STATUS_EFF_ENV s.dev + rd Reg.PWR_CTRL_ENVELOPE s.dev) s.dev.pwr.envelope) s.dev.quiet
  refine hruns.answers (hwrote.todo.trans hready.2) fun e he => ⟨he.pwr.trans hwrote.pwr, fun hmax => ?_, hwrote.ended he⟩
  rw [he.rd (by decide)]
  exact (rd_showEnv (by omega) _).1

theorem throttleStep_answers_stands (hhot : ¬ ThrottleHot s.dev)
    (hnot : ¬ (sensorsBelow ((rd Reg.PWR_THERM_THROTTLE s.dev : Nat) - 5) s.dev = true ∧ rd Reg.PWR_STATUS_EFF_ENV s.dev < s.dev.pwr.envelope)) :
    Answers .throttleStep s fun d => d.pwr = s.dev.pwr ∧ RegsKept [] s.dev d ∧ MemKept s.dev d :=
  answers_same hready.2 (runsTo_of_live (execThrottleStep s) rfl rfl hready ((if_pos hedge).trans
    ((if_neg fun h => hhot (Bool.and_eq_true_iff.1 h)).trans (if_neg fun h => hnot (by
      rw [Bool.and_eq_true, decide_eq_true_eq] at h; exact h)))))

omit hedge in
theorem throttleStep_answers_between (hedge : tempoNow s.dev % 1000 ≠ 0) :
    Answers .throttleStep s fun d => d.pwr = s.dev.pwr ∧ RegsKept [] s.dev d ∧ MemKept s.dev d :=
  answers_same hready.2 (runsTo_of_live (execThrottleStep s) rfl rfl hready (if_neg hedge))

end answers

/-! ### Wakes from ADJ3 (R597, R601) -/

/-- The device in START-UP with boot cause 6, DRAM empty, fuses, flashes and modules as they were. -/
def Woken (d e : Dev) : Prop :=
  e.pwr.adj3 = false ∧ glbState e = 0 ∧ e.sxc.cause = 6 ∧ e.mem = [] ∧ e.nv = d.nv ∧ e.outside = d.outside

theorem rd_state_reset : rd Reg.GLB_STATE_STATE Dev.reset = 0 := by decide

theorem glbState_reboot (cause : Nat) (d : Dev) : glbState (reboot cause d) = 0 := by
  rw [glbState, reboot, rd_wr_off (by decide), rd_wr_off (by decide)]
  exact rd_state_reset

theorem answers_woken {c : Instr} {s : State} (hruns : RunsTo c s (reboot 6 s.dev.quiet)) : Answers c s (Woken s.dev) :=
  hruns.answers rfl fun e he =>
    ⟨by rw [he.pwr]; rfl, (he.rd (by decide)).trans (glbState_reboot 6 _), by rw [he.sxc]; rfl, by rw [he.mem]; rfl, by rw [he.nv]; rfl,
      by rw [he.outside]; rfl⟩

theorem wakeAdj3_of_adj3 {d : Dev} (h : d.pwr.adj3 = true) : wakeAdj3 d = reboot 6 d := if_pos h
theorem wakeAdj3_of_awake {d : Dev} (h : d.pwr.adj3 = false) : wakeAdj3 d = d := if_neg (by simp [h])

theorem exec_wakeNAssert (us : Nat) (s : State) : exec (.wakeNAssert us) s = run (fun d => if us ≥ 10 then wakeAdj3 d else d) s := rfl
theorem exec_adj3WakeTimer (sec : Nat) (s : State) : exec (.adj3WakeTimer sec) s =
    run (fun d => if d.pwr.adj3WakeS ≠ 0 ∧ sec ≥ d.pwr.adj3Sec + d.pwr.adj3WakeS then wakeAdj3 d else d) s := rfl

theorem runsTo_of_run {c : Instr} {s : State} {f : Dev → Dev} {e : Dev} (hx : exec c s = run f s) (heffect : f s.dev.quiet = e) :
    RunsTo c s e := by
  rw [RunsTo, hx, run_eq, heffect]

/-- Settles O57: the envelope and the throttle outcome by outcome, the wakes by whether the device is in ADJ3 and the wake is due. -/
theorem envelopeThrottlesAndWakes : Obligations.EnvelopeThrottlesAndWakes := by
  unfold Obligations.EnvelopeThrottlesAndWakes
  refine ⟨fun s hready => ⟨fun w => ⟨envelopeWrite_answers hready, envelopeWrite_answers_outside hready⟩,
    fun hedge => ⟨throttleStep_answers_hot hready hedge, throttleStep_answers_cool hready hedge, throttleStep_answers_stands hready hedge⟩,
    throttleStep_answers_between hready⟩, fun s hsettled => ⟨fun hadj => ⟨fun us hus => ?_, fun us hus => ?_, fun sec hset hdue => ?_,
      fun sec hnot => ?_⟩, fun hadj n => ⟨?_, ?_⟩⟩⟩
  · exact answers_woken (runsTo_of_run (exec_wakeNAssert us s) ((if_pos hus).trans (wakeAdj3_of_adj3 hadj)))
  · exact answers_same hsettled (runsTo_of_run (exec_wakeNAssert us s) (if_neg (by omega)))
  · exact answers_woken (runsTo_of_run (exec_adj3WakeTimer sec s) ((if_pos ⟨hset, hdue⟩).trans (wakeAdj3_of_adj3 hadj)))
  · refine answers_same hsettled (runsTo_of_run (exec_adj3WakeTimer sec s) (if_neg fun h => ?_))
    obtain ⟨hset, hdue⟩ := h
    rcases hnot with hnot | hnot
    · exact hset hnot
    · exact absurd hdue (Nat.not_le.2 hnot)
  · exact answers_same hsettled (runsTo_of_run (exec_wakeNAssert n s) (ite_eq_right_iff.2 fun _ => wakeAdj3_of_awake hadj))
  · exact answers_same hsettled (runsTo_of_run (exec_adj3WakeTimer n s) (ite_eq_right_iff.2 fun _ => wakeAdj3_of_awake hadj))

end Sys2Proof.Proofs

/-!
PROOFS. O60: supplies, sideband balls and resets. Each command is one run whose effect owes no reaction; a reset keeps the memory that the ends
of the jobs in progress leave, which does not depend on what the device has said.
-/

namespace Sys2Proof.Proofs

open Sys2Proof Sys2Proof.Machine

/-! ### Effects that neither say anything nor read what was said -/

/-- Carried out on a device that has said nothing, an effect leaves the same device, which has said nothing. -/
def Silent (f : Dev → Dev) : Prop := ∀ d : Dev, f d.quiet = (f d).quiet

theorem Silent.comp {f g : Dev → Dev} (hg : Silent g) (hf : Silent f) : Silent fun d => g (f d) := fun d => (congrArg g (hf d)).trans (hg (f d))

theorem silent_wr (f : Field) (v : Nat) : Silent (wr f v) := fun _ => rfl

theorem quiet_ite (p : Prop) [Decidable p] (d e : Dev) : (if p then d else e).quiet = if p then d.quiet else e.quiet := apply_ite Dev.quiet p d e

theorem silent_forEach {f : Nat → Dev → Dev} (hf : ∀ n, Silent (f n)) (l : List Nat) : Silent (forEach l f) := by
  intro d
  induction l generalizing d with
  | nil => rfl
  | cons n r ih => rw [forEach_cons, hf n d, ih, forEach_cons]

theorem silent_foldl {α : Type} {f : Dev → α → Dev} (hf : ∀ x d, f d.quiet x = (f d x).quiet) (l : List α) :
    ∀ d, l.foldl f d.quiet = (l.foldl f d).quiet := by
  induction l with
  | nil => exact fun _ => rfl
  | cons x r ih => exact fun d => (congrArg (fun e => r.foldl f e) (hf x d)).trans (ih (f d x))

theorem silent_bump (f : Field) : Silent (bump f) := by
  intro d
  rw [bump_eq, bump_eq, bumpBy, bumpBy, quiet_ite]
  rfl

theorem silent_setBit (f : Field) (n : Nat) : Silent (setBit f n) := by
  intro d
  rw [setBit, setBit, quiet_ite]
  rfl

theorem silent_memWrite (l : Bytes) : ∀ a, Silent (memWrite a l) := by
  induction l with
  | nil => exact fun _ _ => rfl
  | cons b r ih => exact fun a d => ih (a + 1) (memSetByte a b d)

/-- The word of a range that an armed injection meets. -/
def injectedWord (a n : Nat) (d : Dev) : Option Nat :=
  ((List.range ((a % 8 + n + 7) / 8)).map (a / 8 + ·)).find? fun w => inPool (8 * w) && poolUnit (8 * w) d == rd Reg.FAB_INJ_UNIT d

/-- The injection is spent on a word. -/
def spendInjection (w : Nat) (d : Dev) : Dev :=
  clr Reg.FAB_INJ_ARM_ARM { d with fab.flips := tset 0 d.fab.flips w (rd Reg.FAB_INJ_MASK d * 2 ^ 64) }

theorem injectStore_armed {a n : Nat} {d : Dev} (h : (rdb Reg.FAB_INJ_ARM_ARM d && rd Reg.FAB_INJ_UNIT d / 256 == 1) = true) :
    injectStore a n d = match injectedWord a n d with | some w => spendInjection w d | none => d := if_pos h

theorem injectStore_idle {a n : Nat} {d : Dev} (h : ¬ (rdb Reg.FAB_INJ_ARM_ARM d && rd Reg.FAB_INJ_UNIT d / 256 == 1) = true) :
    injectStore a n d = d := if_neg h

theorem silent_injectStore (a n : Nat) : Silent (injectStore a n) := by
  intro d
  by_cases harmed : (rdb Reg.FAB_INJ_ARM_ARM d && rd Reg.FAB_INJ_UNIT d / 256 == 1) = true
  · rw [injectStore_armed (d := d.quiet) harmed, injectStore_armed harmed, show injectedWord a n d.quiet = injectedWord a n d from rfl]
    cases injectedWord a n d <;> rfl
  · rw [injectStore_idle (d := d.quiet) harmed, injectStore_idle harmed]

theorem silent_storeMem (a : Nat) (b : Bytes) : Silent (storeMem a b) := by
  intro d
  dsimp only [storeMem]
  rw [silent_memWrite b a d]
  exact silent_injectStore a b.length { memWrite a b d with
    fab.flips := (memWrite a b d).fab.flips.filter fun p => !wholeWord a b.length p.1
    fab.poison := (memWrite a b d).fab.poison.filter fun p => !wholeWord a b.length p.1 }

theorem silent_storeNat (a n v : Nat) : Silent (storeNat a n v) := silent_storeMem a _

theorem silent_advanceCons (k r : Nat) : ∀ n, Silent (advanceCons k r n) := by
  intro n
  induction n with
  | zero => exact fun _ => rfl
  | succ n ih =>
    intro d
    rw [advanceCons, advanceCons, quiet_ite, ← ih]
    rfl

theorem silent_advanceCdt (r : Nat) : ∀ n, Silent (advanceCdt r n) := by
  intro n
  induction n with
  | zero => exact fun _ => rfl
  | succ n ih =>
    intro d
    rw [advanceCdt, advanceCdt, quiet_ite, ← ih]
    rfl

theorem silent_ringDone (u m : Nat) : Silent (ringDone u m) :=
  silent_forEach (fun c d => by rw [quiet_ite, ← silent_setBit]) _

theorem silent_finishDesc (k r i st x : Nat) (rest : Bytes) : Silent (finishDesc k r i st x rest) := by
  intro d
  dsimp only [finishDesc]
  rw [show descAddr k r i d.quiet = descAddr k r i d from rfl, silent_storeMem, silent_storeNat, silent_bump, silent_advanceCons, quiet_memByte,
    quiet_rd, silent_ringDone, quiet_ite]

theorem silent_reportDesc (r i st re nak o b : Nat) (intr : Bool) : Silent (reportDesc r i st re nak o b intr) := by
  intro d
  dsimp only [reportDesc]
  rw [show cdtDesc r i d.quiet = cdtDesc r i d from rfl, silent_storeMem, silent_storeNat, silent_advanceCdt, quiet_rd, silent_ringDone, quiet_ite]

/-- A seal is free again. -/
def freeSeal (k : Nat) (d : Dev) : Dev := { d with seals := tset {} d.seals k {} }

theorem silent_freeSeal (k : Nat) : Silent (freeSeal k) := fun _ => rfl

theorem silent_showSeals : Silent showSeals := fun d => by rw [showSeals, showSeals, quiet_seals, silent_wr]

theorem dropSeal_zero (k : Nat) (d : Dev) : dropSeal k true d =
    showSeals (freeSeal k (storeMem (tget {} d.seals k).base (List.replicate (tget {} d.seals k).len 0) d)) := rfl

theorem silent_dropSeal (k : Nat) : Silent (dropSeal k true) := by
  intro d
  rw [dropSeal_zero, dropSeal_zero, quiet_seals, silent_storeMem, silent_freeSeal, silent_showSeals]

/-- A job of an accelerator, an index job and a message end ABORTED_RESET. -/
def abortJob (k : Nat) (d : Dev) (j : Nat × Nat) : Dev := finishDesc k j.1 j.2 8 0 (counts 0 0 0) d
def abortIndexJob (r : Nat) (d : Dev) : Dev := match fiuDesc r d with | some a => storeNat (a + 1) 1 8 d | none => d
def abortMessage (d : Dev) (j : Nat × Nat) : Dev := reportDesc j.1 j.2 4 0 0 0 0 false d

/-- The seals, the accelerators' jobs, the index's jobs and the messages that a reset ends, in turn. -/
def abortSeals (d : Dev) : Dev := forEach (those 16 fun k => (tget {} d.seals k).used) (fun k d => dropSeal k true d) d
def abortAccels (d : Dev) : Dev := forEach [3, 4, 5, 6] (fun k d => (jobsAtReset k d).foldl (abortJob k) d) d
def abortIndex (d : Dev) : Dev := forEach (those 8 fun r => d.fiu.jobs.any (·.1 == r)) abortIndexJob d
def abortMessages (d : Dev) : Dev := (d.cdt.dsts.flatMap fun t => t.2.msgs.filterMap (·.desc)).foldl abortMessage d

theorem forEach_congr {f g : Nat → Dev → Dev} (h : ∀ n d, f n d = g n d) (l : List Nat) (d : Dev) : forEach l f d = forEach l g d := by
  rw [show f = g from funext fun n => funext (h n)]

theorem abortJobs_eq (d : Dev) : abortJobs d = abortMessages (abortIndex (abortAccels (abortSeals d))) := by
  dsimp only [abortJobs]
  generalize haccels : forEach [3, 4, 5, 6] _ _ = e
  rw [show abortAccels (abortSeals d) = e from haccels]
  generalize hindex : forEach _ _ e = g
  rw [show abortIndex e = g from (forEach_congr (fun _ _ => rfl) _ e).trans hindex]
  rfl

theorem silent_abortSeals : Silent abortSeals := fun d => silent_forEach (fun k => silent_dropSeal k) _ d

theorem silent_abortAccels : Silent abortAccels :=
  silent_forEach (fun k d => silent_foldl (f := abortJob k) (fun j => silent_finishDesc k j.1 j.2 8 0 (counts 0 0 0)) (jobsAtReset k d) d) _

theorem silent_abortIndexJob (r : Nat) : Silent (abortIndexJob r) := by
  intro d
  unfold abortIndexJob
  rw [show fiuDesc r d.quiet = fiuDesc r d from rfl]
  cases fiuDesc r d with
  | none => rfl
  | some a => exact silent_storeNat (a + 1) 1 8 d

theorem silent_abortIndex : Silent abortIndex := fun d => silent_forEach silent_abortIndexJob _ d

theorem silent_abortMessages : Silent abortMessages := fun d =>
  silent_foldl (f := abortMessage) (fun j => silent_reportDesc j.1 j.2 4 0 0 0 0 false) _ d

/-- What a reset ends is the same whatever the device has said. -/
theorem silent_abortJobs : Silent abortJobs := fun d => by
  rw [abortJobs_eq, abortJobs_eq, silent_abortSeals, silent_abortAccels, silent_abortIndex, silent_abortMessages]

/-! ### What the commands leave -/

/-- Supplies, faults, fuses, registers and memory stand. -/
def Same (d e : Dev) : Prop := e.pwr = d.pwr ∧ e.flt = d.flt ∧ e.nv = d.nv ∧ RegsKept [] d e ∧ MemKept d e

/-- The device has started again, with a boot cause and what memory holds. -/
def Started (d : Dev) (cause : Nat) (m : List Host.Cell) (e : Dev) : Prop :=
  e.live = true ∧ glbState e = 0 ∧ e.sxc.cause = cause ∧ e.mem = m ∧ e.nv = d.nv ∧ e.outside = d.outside ∧ e.pwr.vsb = d.pwr.vsb ∧
    e.pins.fatalN = true ∧ e.pins.pwrcycReqN = true

theorem reboot_pwr (cause : Nat) (d : Dev) : (reboot cause d).pwr = { Dev.reset.pwr with vsb := d.pwr.vsb } := rfl
theorem reboot_flt (cause : Nat) (d : Dev) : (reboot cause d).flt = Dev.reset.flt := rfl
theorem reboot_pins (cause : Nat) (d : Dev) : (reboot cause d).pins = Dev.reset.pins := rfl
theorem reboot_cause (cause : Nat) (d : Dev) : (reboot cause d).sxc.cause = cause := rfl
theorem reboot_nv (cause : Nat) (d : Dev) : (reboot cause d).nv = d.nv := rfl
theorem reboot_mem (cause : Nat) (d : Dev) : (reboot cause d).mem = [] := rfl
theorem reboot_todo (cause : Nat) (d : Dev) : (reboot cause d).todo = [] := rfl

/-- The device after a reset, the pool and DRAM as they are found. -/
def rebootHolding (cause : Nat) (d e : Dev) : Dev :=
  { reboot cause d with mem := e.mem, fab.flips := e.fab.flips, fab.poison := e.fab.poison }

theorem started_of_rebootHolding {cause : Nat} {d e g : Dev} (he : EndedFrom (rebootHolding cause d e) g) : Started d cause e.mem g := by
  have hstate : rd Reg.GLB_STATE_STATE (rebootHolding cause d e) = 0 := glbState_reboot cause d
  have hpwr : g.pwr = { Dev.reset.pwr with vsb := d.pwr.vsb } := he.pwr
  have hflt : g.flt = Dev.reset.flt := he.flt
  have hpins : g.pins = Dev.reset.pins := he.pins
  refine ⟨by rw [Dev.live, hpwr, hflt]; rfl, (he.rd (by decide)).trans hstate, by rw [he.sxc]; rfl, by rw [he.mem]; rfl, by rw [he.nv]; rfl,
    by rw [he.outside]; rfl, by rw [hpwr], by rw [hpins]; rfl, by rw [hpins]; rfl⟩

theorem started_of_reboot {cause : Nat} {d g : Dev} (he : EndedFrom (reboot cause d) g) : Started d cause [] g :=
  started_of_rebootHolding (e := reboot cause d) he

/-- A command whose effect is read off its definition. -/
theorem runsTo_of_exec {c : Instr} {s : State} {f : Dev → Dev} {e : Dev} (o : Host.Outcome State Fault Refusal) (hx : exec c s = o)
    (ho : o = run f s) (heffect : f s.dev.quiet = e) : RunsTo c s e := runsTo_of_run (hx.trans ho) heffect

section answers

variable {s : State} (hsettled : s.settled)
include hsettled

theorem same_of_runs {c : Instr} (hruns : RunsTo c s s.dev.quiet) : Answers c s (Same s.dev) :=
  hruns.answers hsettled fun _ he => ⟨he.pwr, he.flt, he.nv, (wrote_refl _ _).ended he⟩

/-! ### PWRGOOD (R633) -/

omit hsettled in
theorem powerGood_answers_started (hgood : s.dev.pwr.good = false) (hnone : s.dev.flt.checkmateIn = none) :
    Answers .powerGood s (Started s.dev (if s.dev.sxc.ram.checkmate then 2 else 1) []) := by
  have hruns : RunsTo .powerGood s (reboot (if s.dev.sxc.ram.checkmate then 2 else 1) (send (.pin .pwrgood true) s.dev.quiet)) :=
    runsTo_of_exec (execPowerGood s) rfl rfl ((if_neg (by simp [hgood])).trans (if_neg (by simp [hnone])))
  exact hruns.answers (reboot_todo _ _) fun e he => show Started (send (.pin .pwrgood true) s.dev.quiet) _ _ e from started_of_reboot he

/-- PWRGOOD under a Checkmate. -/
def railsUp (d : Dev) : Dev := { send (.pin .pwrgood true) d with pwr.good := true, pins.pwrgood := true }

theorem powerGood_answers_checkmate (hgood : s.dev.pwr.good = false) (hsome : s.dev.flt.checkmateIn ≠ none) : Answers .powerGood s fun d =>
    d.pwr = { s.dev.pwr with good := true } ∧ d.flt = s.dev.flt ∧ d.pins.fatalN = s.dev.pins.fatalN ∧ RegsKept [] s.dev d ∧ MemKept s.dev d := by
  have hruns : RunsTo .powerGood s (railsUp s.dev.quiet) :=
    runsTo_of_exec (execPowerGood s) rfl rfl ((if_neg (by simp [hgood])).trans (if_pos (Option.isSome_iff_ne_none.2 hsome)))
  exact hruns.answers hsettled fun e he => ⟨he.pwr, he.flt, by rw [he.pins]; rfl, fun o _ ha => he.rdReg ha, memKept_of_eq he.mem⟩

theorem powerGood_answers_same (hgood : s.dev.pwr.good = true) : Answers .powerGood s (Same s.dev) :=
  same_of_runs hsettled (runsTo_of_exec (execPowerGood s) rfl rfl (if_pos hgood))

theorem powerGoodLost_answers_same (h : s.dev.pwr.good = false ∨ s.dev.pwr.adj3 = true) : Answers .powerGoodLost s (Same s.dev) :=
  same_of_runs hsettled (runsTo_of_exec (execPowerGoodLost s) rfl rfl (if_neg (by rcases h with h | h <;> simp [h])))

theorem powerGoodLost_answers (hgood : s.dev.pwr.good = true) (hadj : s.dev.pwr.adj3 = false) : Answers .powerGoodLost s fun d =>
    (d.sxc.ram = vsbRam s.dev ∧ d.pwr.good = false ∧ d.pins.pwrgood = false ∧ d.nv = s.dev.nv ∧ MemKept s.dev d) ∧ d.flt = s.dev.flt ∧
      Out.pin .pwrgood false ∈ d.out ∧ RegsKept [] s.dev d := by
  have hruns : RunsTo .powerGoodLost s (railsDown s.dev.quiet) :=
    runsTo_of_exec (execPowerGoodLost s) rfl rfl (if_pos (by simp [hgood, hadj]))
  exact hruns.answers hsettled fun e he => ⟨⟨by rw [he.sxc]; rfl, by rw [he.pwr]; rfl, by rw [he.pins]; rfl, he.nv, memKept_of_eq he.mem⟩, he.flt,
    he.mem_out (by simp [railsDown]), fun o _ ha => he.rdReg ha⟩

/-! ### VIN and VSB (R582, R637, R638) -/

omit hsettled in
theorem standbyLost_fed {d : Dev} (h : (d.pwr.vsb || d.pwr.vin) = true) : standbyLost d = d := if_pos h

/-- What the VSB domain loses. -/
def unfed (d : Dev) : Dev := sendAll (releasePins d) { d with sxc.ram := {}, pins.fatalN := true, pins.pwrcycReqN := true }

omit hsettled in
theorem standbyLost_unfed {d : Dev} (hvsb : d.pwr.vsb = false) (hvin : d.pwr.vin = false) : standbyLost d = unfed d :=
  if_neg (by simp [hvsb, hvin])

/-- VIN is gone: the rails are down and a Checkmate is cleared. -/
def vinGone (d : Dev) : Dev := { (if d.pwr.good then railsDown d else d) with pwr.vin := false, pwr.adj3 := false, flt.checkmateIn := none }

omit hsettled in
theorem vinGone_keeps (d : Dev) : (vinGone d).pwr.vsb = d.pwr.vsb ∧ (vinGone d).pwr.vin = false ∧ (vinGone d).pwr.good = false ∧
    (vinGone d).flt.checkmateIn = none ∧ (vinGone d).nv = d.nv ∧ (vinGone d).todo = d.todo ∧ (vinGone d).pins.fatalN = d.pins.fatalN ∧
    (vinGone d).sxc.ram = if d.pwr.good then vsbRam d else d.sxc.ram := by
  unfold vinGone
  cases hgood : d.pwr.good
  · exact ⟨rfl, rfl, hgood, rfl, rfl, rfl, rfl, rfl⟩
  · exact ⟨rfl, rfl, rfl, rfl, rfl, rfl, rfl, rfl⟩

theorem vinRemoved_answers : Answers .vinRemoved s fun d => d.flt.checkmateIn = none ∧ d.pwr.vin = false ∧ d.pwr.good = false ∧
    d.live = false ∧ d.nv = s.dev.nv ∧
    (s.dev.pwr.vsb = true → d.sxc.ram = (if s.dev.pwr.good then vsbRam s.dev else s.dev.sxc.ram) ∧ d.pins.fatalN = s.dev.pins.fatalN) ∧
    (s.dev.pwr.vsb = false → d.sxc.ram = {} ∧ d.pins.fatalN = true ∧ d.pins.pwrcycReqN = true) := by
  have hruns : RunsTo .vinRemoved s (standbyLost (vinGone s.dev.quiet)) := runsTo_of_exec (execVinRemoved s) rfl rfl rfl
  obtain ⟨hvsb, hvin, hgood, hcheck, hnv, htodo, hfatal, hram⟩ := vinGone_keeps s.dev.quiet
  generalize vinGone s.dev.quiet = gone at hruns hvsb hvin hgood hcheck hnv htodo hfatal hram
  cases hfed : s.dev.pwr.vsb with
  | true =>
    rw [standbyLost_fed (by rw [hvsb, quiet_pwr, hfed]; rfl)] at hruns
    exact hruns.answers (htodo.trans hsettled) fun e he => ⟨by rw [he.flt, hcheck], by rw [he.pwr, hvin], by rw [he.pwr, hgood],
      by rw [Dev.live, he.pwr, hgood]; rfl, he.nv.trans hnv, fun _ => ⟨by rw [he.sxc, hram]; rfl, by rw [he.pins, hfatal]; rfl⟩, nofun⟩
  | false =>
    rw [standbyLost_unfed (by rw [hvsb, quiet_pwr, hfed]) hvin] at hruns
    refine hruns.answers (htodo.trans hsettled) fun e he => ⟨?_, ?_, ?_, ?_, he.nv.trans hnv, nofun, fun _ => ⟨?_, ?_, ?_⟩⟩
    · rw [he.flt]; exact hcheck
    · rw [he.pwr]; exact hvin
    · rw [he.pwr]; exact hgood
    · rw [Dev.live, he.pwr, show (unfed gone).pwr = gone.pwr from rfl, hgood]; rfl
    · rw [he.sxc]; rfl
    · rw [he.pins]; rfl
    · rw [he.pins]; rfl

/-- VSB is present or not, as PWR_STATUS shows. -/
def vsbShown (p : Bool) (d : Dev) : Dev := wr Reg.PWR_STATUS_VSB (b2n p) { d with pwr.vsb := p }

omit hsettled in
theorem vsbShown_keeps (p : Bool) (d : Dev) : (vsbShown p d).pwr = { d.pwr with vsb := p } ∧ (vsbShown p d).sxc = d.sxc ∧
    (vsbShown p d).pins = d.pins ∧ (vsbShown p d).mem = d.mem ∧ (vsbShown p d).todo = d.todo ∧
    rdb Reg.PWR_STATUS_VSB (vsbShown p d) = p ∧ ∀ o, o ∉ [Reg.PWR_STATUS_VSB.off] → rdReg o (vsbShown p d) = rdReg o d := by
  refine ⟨rfl, rfl, rfl, rfl, rfl, ?_, fun o ho => (rdReg_wr_off (by simpa using ho) _ _).trans rfl⟩
  rw [rdb, vsbShown, rd_wr_same (by decide)]
  cases p <;> rfl

theorem vsbPresenceChange_answers (p : Bool) : Answers (.vsbPresenceChange p) s fun d => d.pwr = { s.dev.pwr with vsb := p } ∧
    rdb Reg.PWR_STATUS_VSB d = p ∧ RegsKept [Reg.PWR_STATUS_VSB.off] s.dev d ∧ MemKept s.dev d ∧
    (p = true ∨ s.dev.pwr.vin = true → d.sxc = s.dev.sxc ∧ d.pins = s.dev.pins) ∧ (p = false → s.dev.pwr.vin = false → d.sxc.ram = {}) := by
  have hruns : RunsTo (.vsbPresenceChange p) s (standbyLost (vsbShown p s.dev.quiet)) := runsTo_of_exec (execVsbPresenceChange p s) rfl rfl rfl
  obtain ⟨hpwr, hsxc, hpins, hmem, htodo, hshown, hregs⟩ := vsbShown_keeps p s.dev.quiet
  generalize vsbShown p s.dev.quiet = shown at hruns hpwr hsxc hpins hmem htodo hshown hregs
  by_cases hfed : p = true ∨ s.dev.pwr.vin = true
  · rw [standbyLost_fed (by rw [hpwr]; simpa using hfed)] at hruns
    refine hruns.answers (htodo.trans hsettled) fun e he => ⟨he.pwr.trans hpwr, by rw [rdb, he.rd (by decide)]; exact hshown,
      fun o ho ha => (he.rdReg ha).trans (hregs o ho), memKept_of_eq (he.mem.trans hmem), fun _ => ⟨he.sxc.trans hsxc, he.pins.trans hpins⟩,
      fun hp hvin => ?_⟩
    rcases hfed with h | h
    · rw [hp] at h; cases h
    · rw [hvin] at h; cases h
  · rw [not_or, Bool.not_eq_true, Bool.not_eq_true] at hfed
    rw [standbyLost_unfed (by rw [hpwr]; exact hfed.1) (by rw [hpwr]; exact hfed.2)] at hruns
    refine hruns.answers (htodo.trans hsettled) fun e he => ⟨?_, ?_, fun o ho ha => (he.rdReg ha).trans (hregs o ho), memKept_of_eq ?_,
      fun h => ?_, fun _ _ => by rw [he.sxc]; rfl⟩
    · rw [he.pwr]; exact hpwr
    · rw [rdb, he.rd (by decide)]; exact hshown
    · rw [he.mem]; exact hmem
    · rw [hfed.1, hfed.2] at h; simp at h

/-! ### Resets (R635, R640) -/

omit hsettled in
theorem resetNAssert_answers {ns : Nat} (hlong : 1000 ≤ ns) (hgood : s.dev.pwr.good = true) (hcheck : serviceCheckmate s.dev = false)
    (htrouble : inTrouble s.dev = false) :
    Answers (.resetNAssert ns) s (Started s.dev (if s.dev.flt.checkmateIn.isSome then 7 else 3) (abortJobs s.dev).mem) := by
  have hruns : RunsTo (.resetNAssert ns) s (rebootHolding (if s.dev.flt.checkmateIn.isSome then 7 else 3) s.dev.quiet (abortJobs s.dev.quiet)) :=
    runsTo_of_exec (execResetNAssert ns s) rfl rfl (if_neg (by
      rw [show serviceCheckmate s.dev.quiet = false from hcheck, show inTrouble s.dev.quiet = false from htrouble]
      simp [hgood, Nat.not_lt.2 hlong]))
  have hmem : (abortJobs s.dev.quiet).mem = (abortJobs s.dev).mem := by rw [silent_abortJobs, quiet_mem]
  refine hruns.answers rfl fun e he => ?_
  rw [← hmem]
  exact show Started s.dev.quiet _ _ e from started_of_rebootHolding he

theorem resetNAssert_answers_same {ns : Nat}
    (h : ns < 1000 ∨ s.dev.pwr.good = false ∨ serviceCheckmate s.dev = true ∨ inTrouble s.dev = true) :
    Answers (.resetNAssert ns) s (Same s.dev) := by
  refine same_of_runs hsettled (runsTo_of_exec (execResetNAssert ns s) rfl rfl (if_pos ?_))
  rw [show serviceCheckmate s.dev.quiet = serviceCheckmate s.dev from rfl, show inTrouble s.dev.quiet = inTrouble s.dev from rfl, quiet_pwr]
  rcases h with h | h | h | h <;> simp [h]

theorem perstNAssert_answers_same (hdown : endpointUp s.dev = false) : Answers .perstNAssert s (Same s.dev) :=
  same_of_runs hsettled (runsTo_of_exec (execPerstNAssert s) rfl rfl
    (if_neg (by rw [show endpointUp s.dev.quiet = false from hdown]; exact Bool.false_ne_true)))

theorem perstNAssert_answers (hup : endpointUp s.dev = true) : Answers .perstNAssert s fun d => Same s.dev d ∧ Out.linkReset ∈ d.out := by
  have hruns : RunsTo .perstNAssert s (send .linkReset s.dev.quiet) := runsTo_of_exec (execPerstNAssert s) rfl rfl (if_pos hup)
  exact hruns.answers hsettled fun e he => ⟨⟨he.pwr, he.flt, he.nv, fun o _ ha => he.rdReg ha, memKept_of_eq he.mem⟩, he.mem_out (by simp)⟩

end answers

/-- Settles O60, command by command. -/
theorem suppliesAndResetsTakeEffect : Obligations.SuppliesAndResetsTakeEffect := by
  unfold Obligations.SuppliesAndResetsTakeEffect
  intro s hs
  exact ⟨fun hgood => ⟨powerGood_answers_started hgood, powerGood_answers_checkmate hs hgood⟩, powerGood_answers_same hs,
    powerGoodLost_answers_same hs, powerGoodLost_answers hs, vinRemoved_answers hs, vsbPresenceChange_answers hs,
    fun ns => ⟨resetNAssert_answers, resetNAssert_answers_same hs⟩, perstNAssert_answers_same hs, perstNAssert_answers hs⟩

end Sys2Proof.Proofs

/-!
PROOFS. O56: requests of levels and Adjourned states, and the ends of ramps, entries and wakes.
-/

namespace Sys2Proof.Proofs

open Sys2Proof Sys2Proof.Machine

/-! ### Loops and counters -/

/-- What one turn of a loop brings about, and every turn keeps, holds at its end. -/
theorem forEach_reaches {I P : Dev → Prop} {f : Nat → Dev → Dev} {n : Nat} (hI : ∀ m d, I d → I (f m d)) (hset : ∀ d, I d → P (f n d))
    (hkeep : ∀ m d, P d → P (f m d)) : ∀ {l : List Nat}, n ∈ l → ∀ d, I d → P (forEach l f d) := by
  intro l
  induction l with
  | nil => exact nofun
  | cons m r ih =>
    intro hn d hd
    rw [forEach_cons]
    rcases List.mem_cons.1 hn with rfl | hr
    · exact forEach_invariant (P := P) hkeep r (hset d hd)
    · exact ih hr _ (hI m d hd)

/-- A counter raised leaves the other fields of its register. -/
theorem rd_bump_apart {f g : Field} (h : f.fits) (hg : g.fits) (ha : f.apart g) (d : Dev) : rd g (bump f d) = rd g d := by
  rw [bump_eq, bumpBy]
  split <;> exact rd_wr_apart h hg ha _ _

/-! ### Regions -/

theorem getRegion_modRegion_same (r : Nat) (f : Region → Region) (d : Dev) : getRegion r (modRegion r f d) = f (getRegion r d) := by
  simp [getRegion, modRegion, tget_tmod]

theorem getRegion_modRegion_other {r q : Nat} (h : q ≠ r) (f : Region → Region) (d : Dev) : getRegion q (modRegion r f d) = getRegion q d := by
  simp [getRegion, modRegion, tget_tmod, h]

theorem getRegion_congr {d e : Dev} (h : e.pwr = d.pwr) (r : Nat) : getRegion r e = getRegion r d := by rw [getRegion, h]; rfl

theorem stageRegion_todo (r : Nat) (l q : Option Nat) (d : Dev) : (stageRegion r l q d).todo = d.todo := rfl
theorem stageRegion_mem (r : Nat) (l q : Option Nat) (d : Dev) : (stageRegion r l q d).mem = d.mem := rfl
theorem rdReg_stageRegion (r : Nat) (l q : Option Nat) (d : Dev) (o : Nat) : rdReg o (stageRegion r l q d) = rdReg o d := rfl
theorem rd_stageRegion (r : Nat) (l q : Option Nat) (d : Dev) (f : Field) : rd f (stageRegion r l q d) = rd f d := rfl

/-- The one request that stands staged for a region, with what waited for it withdrawn. -/
def StagedFor (r : Nat) (l q : Option Nat) (d e : Dev) : Prop :=
  (getRegion r e).reqLvl = l ∧ (getRegion r e).reqAdj = q ∧ (getRegion r e).waiting = none ∧
    e.pwr.waiting = d.pwr.waiting.filter (fun x => x.who != .region r) ∧ (∀ r', r' ≠ r → getRegion r' e = getRegion r' d)

theorem stagedFor_stageRegion (r : Nat) (l q : Option Nat) (d : Dev) : StagedFor r l q d (stageRegion r l q d) := by
  refine ⟨?_, ?_, ?_, rfl, fun r' hr => ?_⟩
  · rw [stageRegion, getRegion_modRegion_same]
  · rw [stageRegion, getRegion_modRegion_same]
  · rw [stageRegion, getRegion_modRegion_same]
  · rw [stageRegion, getRegion_modRegion_other hr]; rfl

theorem StagedFor.congr {r : Nat} {l q : Option Nat} {d d' e e' : Dev} (h : StagedFor r l q d e) (hd : d'.pwr = d.pwr) (he : e'.pwr = e.pwr) :
    StagedFor r l q d' e' := by
  obtain ⟨hl, hq, hw, hwait, hother⟩ := h
  rw [StagedFor, getRegion_congr he, hd, he]
  exact ⟨hl, hq, hw, hwait, fun r' hr => by rw [getRegion_congr he, getRegion_congr hd]; exact hother r' hr⟩

/-! ### Refusals (R598) -/

/-- A refusal shown in the PWR_REFr of a region. -/
def refuseAt (reg r cause kind who : Nat) (d : Dev) : Dev :=
  notice Ev.PWR_REFUSED (unitOf 0x10 r) 0 0 (setb Reg.PWR_STATUS_REFUSED (bump (Reg.PWR_REF_COUNT reg)
    (wr (Reg.PWR_REF_CAUSE reg) cause (wr (Reg.PWR_REF_KIND reg) kind (wr (Reg.PWR_REF_WHO reg) who d)))))

theorem refuse_region {r : Nat} (hr : r ≤ 11) (cause kind who : Nat) (d : Dev) : refuse r cause kind who d = refuseAt r r cause kind who d := by
  simp only [refuse, if_pos hr, refuseAt]

theorem refuse_elsewhere {r : Nat} (hr : 11 < r) (cause kind who : Nat) (d : Dev) :
    refuse r cause kind who d = refuseAt (drawNat 12 d).1 r cause kind who (drawNat 12 d).2 := by
  simp only [refuse, if_neg (Nat.not_le.2 hr), refuseAt]

theorem refuseAt_recordOnly (reg r cause kind who : Nat) (d : Dev) : RecordOnly d (refuseAt reg r cause kind who d) :=
  (recordOnly_wr _ who d).trans ((recordOnly_wr _ kind _).trans ((recordOnly_wr _ cause _).trans ((recordOnly_bump _ _).trans
    ((recordOnly_wr _ 1 _).trans (recordOnly_notice ..)))))

theorem drawn_keeps (n : Nat) (d : Dev) : (drawNat n d).2.pwr = d.pwr ∧ (drawNat n d).2.mem = d.mem ∧ (drawNat n d).2.todo = d.todo ∧
    ∀ f, rd f (drawNat n d).2 = rd f d := ⟨rfl, rfl, rfl, fun _ => rfl⟩

/-- What is shown of a refusal. -/
structure RefusalShown (reg cause kind who : Nat) (d e : Dev) : Prop where
  cause : rd (Reg.PWR_REF_CAUSE reg) e = cause
  kind : rd (Reg.PWR_REF_KIND reg) e = kind
  who : rd (Reg.PWR_REF_WHO reg) e = who
  refused : rdb Reg.PWR_STATUS_REFUSED e = true
  count : rd (Reg.PWR_REF_COUNT reg) d + 1 < 2 ^ 16 → rd (Reg.PWR_REF_COUNT reg) e = rd (Reg.PWR_REF_COUNT reg) d + 1

/-- The four fields of a PWR_REFr: in one register, apart from one another, and of no register that moves by itself. -/
theorem refFields {reg : Nat} (h : reg < 12) :
    (∀ f ∈ [Reg.PWR_REF_CAUSE reg, Reg.PWR_REF_KIND reg, Reg.PWR_REF_WHO reg, Reg.PWR_REF_COUNT reg],
      f.fits ∧ f.off / 0x100000 ∉ [4, 5] ∧ f.off ∉ ambientRegs ∧ f.off ≠ Reg.PWR_STATUS_REFUSED.off) ∧
    (Reg.PWR_REF_COUNT reg).apart (Reg.PWR_REF_CAUSE reg) ∧ (Reg.PWR_REF_COUNT reg).apart (Reg.PWR_REF_KIND reg) ∧
    (Reg.PWR_REF_COUNT reg).apart (Reg.PWR_REF_WHO reg) ∧ (Reg.PWR_REF_CAUSE reg).apart (Reg.PWR_REF_KIND reg) ∧
    (Reg.PWR_REF_CAUSE reg).apart (Reg.PWR_REF_WHO reg) ∧ (Reg.PWR_REF_KIND reg).apart (Reg.PWR_REF_WHO reg) ∧
    (Reg.PWR_REF_CAUSE reg).apart (Reg.PWR_REF_COUNT reg) ∧ (Reg.PWR_REF_KIND reg).apart (Reg.PWR_REF_COUNT reg) ∧
    (Reg.PWR_REF_WHO reg).apart (Reg.PWR_REF_COUNT reg) := by
  revert reg
  decide

theorem refusalShown_refuseAt {reg : Nat} (hreg : reg < 12) (r : Nat) {cause kind who : Nat} (hcause : cause < 16) (hkind : kind < 16)
    (hwho : who < 2 ^ 32) (d : Dev) : RefusalShown reg cause kind who d (refuseAt reg r cause kind who d) := by
  obtain ⟨hall, hcc, hck, hcw, hak, haw, hkw, hac, hkc, hwc⟩ := refFields hreg
  obtain ⟨⟨hcausef, hcauseb, hcausea, hcauser⟩, ⟨hkindf, hkindb, hkinda, hkindr⟩, ⟨hwhof, hwhob, hwhoa, hwhor⟩,
    ⟨hcountf, hcountb, hcounta, hcountr⟩, -⟩ := by simpa only [List.forall_mem_cons] using hall
  refine ⟨?_, ?_, ?_, ?_, fun hroom => ?_⟩ <;> unfold refuseAt
  · rw [rd_notice hcauseb hcausea, setb, rd_wr_off hcauser, rd_bump_apart hcountf hcausef hcc, rd_wr_same hcausef]
    exact Nat.mod_eq_of_lt hcause
  · rw [rd_notice hkindb hkinda, setb, rd_wr_off hkindr, rd_bump_apart hcountf hkindf hck, rd_wr_apart hcausef hkindf hak, rd_wr_same hkindf]
    exact Nat.mod_eq_of_lt hkind
  · rw [rd_notice hwhob hwhoa, setb, rd_wr_off hwhor, rd_bump_apart hcountf hwhof hcw, rd_wr_apart hcausef hwhof haw,
      rd_wr_apart hkindf hwhof hkw, rd_wr_same hwhof]
    exact Nat.mod_eq_of_lt hwho
  · rw [rdb, rd_notice (by decide) (by decide), setb, rd_wr_same (by decide)]; rfl
  · have hcount : rd (Reg.PWR_REF_COUNT reg) (wr (Reg.PWR_REF_CAUSE reg) cause (wr (Reg.PWR_REF_KIND reg) kind (wr (Reg.PWR_REF_WHO reg) who d)))
        = rd (Reg.PWR_REF_COUNT reg) d := by
      rw [rd_wr_apart hcausef hcountf hac, rd_wr_apart hkindf hcountf hkc, rd_wr_apart hwhof hcountf hwc]
    rw [rd_notice hcountb hcounta, setb, rd_wr_off hcountr, rd_bump_same hcountf (by rw [hcount]; exact hroom), hcount]

/-- What is shown of a refusal survives the end of the command, and the clearing of GO. -/
theorem RefusalShown.ended {reg cause kind who : Nat} {d e g : Dev} (hreg : reg < 12) (h : RefusalShown reg cause kind who d e)
    (he : EndedFrom e g) : RefusalShown reg cause kind who d g := by
  obtain ⟨⟨-, -, hc, -⟩, ⟨-, -, hk, -⟩, ⟨-, -, hw, -⟩, ⟨-, -, hn, -⟩, -⟩ := by
    simpa only [List.forall_mem_cons] using (refFields hreg).1
  exact ⟨(he.rd hc).trans h.cause, (he.rd hk).trans h.kind, (he.rd hw).trans h.who, by rw [rdb, he.rd (by decide)]; exact h.refused,
    fun hroom => (he.rd hn).trans (h.count hroom)⟩

theorem adjGo_off {reg : Nat} (h : reg < 12) : ∀ f ∈ [Reg.PWR_REF_CAUSE reg, Reg.PWR_REF_KIND reg, Reg.PWR_REF_WHO reg, Reg.PWR_REF_COUNT reg],
    f.off ≠ Reg.PWR_ADJ_GO.off := by
  revert reg
  decide

theorem RefusalShown.clrGo {reg cause kind who : Nat} {d e : Dev} (hreg : reg < 12) (h : RefusalShown reg cause kind who d e) :
    RefusalShown reg cause kind who d (clr Reg.PWR_ADJ_GO e) := by
  obtain ⟨hc, hk, hw, hn, -⟩ := by simpa only [List.forall_mem_cons] using adjGo_off hreg
  exact ⟨(rd_wr_off hc _ _).trans h.cause, (rd_wr_off hk _ _).trans h.kind, (rd_wr_off hw _ _).trans h.who,
    by rw [rdb, clr, rd_wr_off (by decide)]; exact h.refused, fun hroom => (rd_wr_off hn _ _).trans (h.count hroom)⟩

theorem RefusalShown.before {reg cause kind who : Nat} {d d' e : Dev} (h : RefusalShown reg cause kind who d e)
    (hcount : rd (Reg.PWR_REF_COUNT reg) d = rd (Reg.PWR_REF_COUNT reg) d') : RefusalShown reg cause kind who d' e :=
  ⟨h.cause, h.kind, h.who, h.refused, by rw [← hcount]; exact h.count⟩

theorem glbState_small (d : Dev) : glbState d < 2 ^ 32 := Nat.lt_of_lt_of_le (rd_lt Reg.GLB_STATE_STATE d) (by decide)

/-! ### Level requests (R595, R650) -/

section answers

variable {s : State} (hready : s.ready)
include hready

/-- What is refused. -/
def Refused (d : Dev) (r kind : Nat) (e : Dev) : Prop :=
  e.pwr = d.pwr ∧ rd (Reg.PWR_REF_CAUSE r) e = 7 ∧ rd (Reg.PWR_REF_KIND r) e = kind ∧ rd (Reg.PWR_REF_WHO r) e = glbState d ∧
    rdb Reg.PWR_STATUS_REFUSED e = true ∧ MemKept d e ∧
    (rd (Reg.PWR_REF_COUNT r) d + 1 < 2 ^ 16 → rd (Reg.PWR_REF_COUNT r) e = rd (Reg.PWR_REF_COUNT r) d + 1)

/-- What stands staged, memory as it was. -/
def Staged (d : Dev) (r : Nat) (l q : Option Nat) (e : Dev) : Prop :=
  (getRegion r e).reqLvl = l ∧ (getRegion r e).reqAdj = q ∧ (getRegion r e).waiting = none ∧
    e.pwr.waiting = d.pwr.waiting.filter (fun x => x.who != .region r) ∧ (∀ r', r' ≠ r → getRegion r' e = getRegion r' d) ∧ MemKept d e

omit hready in
theorem StagedFor.staged {r : Nat} {l q : Option Nat} {d e : Dev} (h : StagedFor r l q d e) (hmem : e.mem = d.mem) : Staged d r l q e := by
  obtain ⟨hl, hq, hw, hwait, hother⟩ := h
  exact ⟨hl, hq, hw, hwait, hother, memKept_of_eq hmem⟩

/-- REQ as a request leaves it. -/
def levelAsked (r l : Nat) (d : Dev) : Dev := wr (Reg.PWR_LVL_REQ r) l d

omit hready in
theorem lvlReq {r : Nat} (h : r < 12) : (Reg.PWR_LVL_REQ r).fits ∧ (Reg.PWR_LVL_REQ r).off ∉ ambientRegs ∧
    (Reg.PWR_LVL_REQ r).off ≠ Reg.PWR_STATUS_TT.off ∧ (Reg.PWR_LVL_REQ r).off ≠ Reg.GLB_STATE_STATE.off ∧
    (Reg.PWR_LVL_REQ r).off ≠ (Reg.PWR_REF_COUNT r).off := by
  revert r
  decide

omit hready in
theorem inTrouble_levelAsked {r : Nat} (hr : r < 12) (l : Nat) (d : Dev) : inTrouble (levelAsked r l d) = inTrouble d := by
  obtain ⟨-, -, htt, -, -⟩ := lvlReq hr
  rw [inTrouble, rdb, levelAsked, rd_wr_off (Ne.symm htt)]; rfl

theorem levelRequest_answers (r : Fin 12) (l : Fin 8) (hl : l.val ≤ 5) (htrouble : inTrouble s.dev = false) :
    Answers (.levelRequest r l) s fun d => Staged s.dev r (some l.val) none d ∧ rd (Reg.PWR_LVL_REQ r) d = l.val ∧
      RegsKept [(Reg.PWR_LVL_REQ r).off] s.dev d := by
  obtain ⟨hfits, hamb, -, -, -⟩ := lvlReq r.isLt
  have hruns : RunsTo (.levelRequest r l) s (stageRegion r (some l.val) none (levelAsked r l s.dev.quiet)) :=
    runsTo_of_live (execLevelRequest r l s) rfl rfl hready ((if_neg (by omega)).trans
      (if_neg (by rw [Bool.not_eq_true]; exact (inTrouble_levelAsked r.isLt l s.dev.quiet).trans htrouble)))
  refine hruns.answers hready.2 fun e he => ⟨?_, ?_, fun o ho ha => ?_⟩
  · exact ((stagedFor_stageRegion r (some l.val) none (levelAsked r l s.dev.quiet)).congr rfl he.pwr).staged (he.mem.trans rfl)
  · rw [he.rd hamb, rd_stageRegion, levelAsked, rd_wr_same hfits]
    exact Nat.mod_eq_of_lt l.isLt
  · rw [he.rdReg ha, rdReg_stageRegion, levelAsked, rdReg_wr_off (by simpa using ho)]; rfl

theorem levelRequest_answers_trouble (r : Fin 12) (l : Fin 8) (hl : l.val ≤ 5) (htrouble : inTrouble s.dev = true) :
    Answers (.levelRequest r l) s (Refused s.dev r 1) := by
  obtain ⟨-, -, -, hstate, hcount⟩ := lvlReq r.isLt
  have hglb : glbState (levelAsked r l s.dev.quiet) = glbState s.dev := rd_wr_off (Ne.symm hstate) _ _
  have hruns : RunsTo (.levelRequest r l) s (refuseAt r r 7 1 (glbState s.dev) (levelAsked r l s.dev.quiet)) := by
    refine runsTo_of_live (execLevelRequest r l s) rfl rfl hready ((if_neg (by omega)).trans
      ((if_pos ((inTrouble_levelAsked r.isLt l s.dev.quiet).trans htrouble)).trans ?_))
    rw [refuse_region (Nat.le_of_lt_succ r.isLt)]
    exact congrArg (fun w => refuseAt r r 7 1 w (levelAsked r l s.dev.quiet)) hglb
  have hrec := refuseAt_recordOnly r r 7 1 (glbState s.dev) (levelAsked r l s.dev.quiet)
  have hshown := (refusalShown_refuseAt r.isLt r (cause := 7) (kind := 1) (by decide) (by decide) (glbState_small s.dev)
    (levelAsked r l s.dev.quiet)).before (d' := s.dev) (rd_wr_off (Ne.symm hcount) _ _)
  refine hruns.answers (hrec.todo.trans hready.2) fun e he => ?_
  have hend := hshown.ended r.isLt he
  exact ⟨(he.pwr.trans hrec.pwr).trans rfl, hend.cause, hend.kind, hend.who, hend.refused, memKept_of_eq ((he.mem.trans hrec.mem).trans rfl),
    hend.count⟩

theorem quiet_of_runs {c : Instr} (hruns : RunsTo c s s.dev.quiet) :
    Answers c s fun d => d.pwr = s.dev.pwr ∧ RegsKept [] s.dev d ∧ MemKept s.dev d := answers_same hready.2 hruns

theorem levelRequest_answers_reserved (r : Fin 12) (l : Fin 8) (hl : 5 < l.val) : Answers (.levelRequest r l) s fun d =>
    d.pwr = s.dev.pwr ∧ RegsKept [] s.dev d ∧ MemKept s.dev d :=
  quiet_of_runs hready (runsTo_of_live (execLevelRequest r l s) rfl rfl hready (if_pos hl))

/-! ### Requests of PWR_ADJ (R598, R599, R601) -/

/-- PWR_ADJ as a request leaves it. -/
def adjAsked (r req : Nat) (d : Dev) : Dev := setb Reg.PWR_ADJ_GO (wr Reg.PWR_ADJ_REGION r (wr Reg.PWR_ADJ_REQ req d))

omit hready in
theorem adjAsked_wrote (r req : Nat) (d : Dev) : Wrote [Reg.PWR_ADJ_GO.off] d (adjAsked r req d) :=
  (((wrote_refl _ d).wr (f := Reg.PWR_ADJ_REQ) (by decide) req).wr (f := Reg.PWR_ADJ_REGION) (by decide) r).wr
    (f := Reg.PWR_ADJ_GO) (by decide) 1

omit hready in
theorem adjAsked_go (r req : Nat) (d : Dev) : rdb Reg.PWR_ADJ_GO (adjAsked r req d) = true := by
  rw [rdb, adjAsked, setb, rd_wr_same (by decide)]; rfl

omit hready in
theorem adjAsked_reads (r req : Nat) (d : Dev) : inTrouble (adjAsked r req d) = inTrouble d ∧ glbState (adjAsked r req d) = glbState d ∧
    ∀ reg < 12, rd (Reg.PWR_REF_COUNT reg) (adjAsked r req d) = rd (Reg.PWR_REF_COUNT reg) d := by
  have hw := adjAsked_wrote r req d
  refine ⟨?_, hw.rd (by decide), fun reg hreg => hw.rd ?_⟩
  · rw [inTrouble, rdb, hw.rd (by decide)]; rfl
  · rw [List.mem_singleton]
    exact adjGo_off hreg _ (by simp)

/-- What is refused for a code that is no region: which PWR_REFr shows it is open. -/
def RefusedElsewhere (d : Dev) (kind : Nat) (e : Dev) : Prop :=
  e.pwr = d.pwr ∧ rdb Reg.PWR_STATUS_REFUSED e = true ∧ rdb Reg.PWR_ADJ_GO e = false ∧ MemKept d e ∧
    ∃ r < 12, rd (Reg.PWR_REF_CAUSE r) e = 7 ∧ rd (Reg.PWR_REF_KIND r) e = kind ∧ rd (Reg.PWR_REF_WHO r) e = glbState d

/-- A request of PWR_ADJ that time trouble refuses: shown in one PWR_REFr, with GO cleared. -/
theorem adjRefused_answers {c : Instr} {reg r kind : Nat} {d : Dev} (hreg : reg < 12) (hkind : kind < 16)
    (hpwr : d.pwr = s.dev.pwr) (hmem : d.mem = s.dev.mem) (htodo : d.todo = s.dev.todo)
    (hcount : rd (Reg.PWR_REF_COUNT reg) d = rd (Reg.PWR_REF_COUNT reg) s.dev)
    (hruns : RunsTo c s (clr Reg.PWR_ADJ_GO (refuseAt reg r 7 kind (glbState s.dev) d))) : Answers c s fun e =>
      e.pwr = s.dev.pwr ∧ MemKept s.dev e ∧ rdb Reg.PWR_ADJ_GO e = false ∧ RefusalShown reg 7 kind (glbState s.dev) s.dev e := by
  have hrec := refuseAt_recordOnly reg r 7 kind (glbState s.dev) d
  have hshown := ((refusalShown_refuseAt hreg r (cause := 7) (by decide) hkind (glbState_small s.dev) d).before (d' := s.dev) hcount).clrGo hreg
  generalize refuseAt reg r 7 kind (glbState s.dev) d = shown at hruns hrec hshown
  refine hruns.answers ?_ fun e he => ⟨?_, memKept_of_eq ?_, ?_, hshown.ended hreg he⟩
  · rw [clr, wr_todo, hrec.todo, htodo]; exact hready.2
  · rw [he.pwr, clr, wr_pwr, hrec.pwr, hpwr]
  · rw [he.mem, clr, wr_mem, hrec.mem, hmem]
  · rw [rdb, he.rd (by decide), clr, rd_wr_same (by decide)]; rfl

section adj

variable {c : Instr} {r req kind : Nat} (o : Host.Outcome State Fault Refusal) (hx : exec c s = o) (ho : o = runLive (adjRequest r req kind) s)
include hx ho

theorem adjRequest_answers (htrouble : inTrouble s.dev = false) : Answers c s fun d => Staged s.dev r none (some req) d ∧
    rdb Reg.PWR_ADJ_GO d = true ∧ RegsKept [Reg.PWR_ADJ_GO.off] s.dev d := by
  have hw := adjAsked_wrote r req s.dev.quiet
  have hruns : RunsTo c s (stageRegion r none (some req) (adjAsked r req s.dev.quiet)) :=
    runsTo_of_live o hx ho hready (if_neg (by rw [Bool.not_eq_true]; exact (adjAsked_reads r req s.dev.quiet).1.trans htrouble))
  have hstaged := stagedFor_stageRegion r none (some req) (adjAsked r req s.dev.quiet)
  have hgo := adjAsked_go r req s.dev.quiet
  generalize adjAsked r req s.dev.quiet = asked at hruns hw hstaged hgo
  refine hruns.answers (hw.todo.trans hready.2) fun e he => ⟨?_, ?_, fun o ho ha => ?_⟩
  · exact (hstaged.congr (d' := s.dev) hw.pwr.symm he.pwr).staged (he.mem.trans hw.mem)
  · rw [rdb, he.rd (by decide), rd_stageRegion]; exact hgo
  · rw [he.rdReg ha, rdReg_stageRegion]; exact hw.regs o ho

theorem adjRequest_answers_trouble (hr : r ≤ 11) (hkind : kind < 16) (htrouble : inTrouble s.dev = true) :
    Answers c s fun d => Refused s.dev r kind d ∧ rdb Reg.PWR_ADJ_GO d = false := by
  have hw := adjAsked_wrote r req s.dev.quiet
  obtain ⟨htt, hglb, hcount⟩ := adjAsked_reads r req s.dev.quiet
  have hruns : RunsTo c s (clr Reg.PWR_ADJ_GO (refuseAt r r 7 kind (glbState s.dev) (adjAsked r req s.dev.quiet))) := by
    refine runsTo_of_live o hx ho hready ((if_pos (htt.trans htrouble)).trans ?_)
    rw [refuse_region hr]
    exact congrArg (fun w => clr Reg.PWR_ADJ_GO (refuseAt r r 7 kind w (adjAsked r req s.dev.quiet))) hglb
  refine answers_imp (adjRefused_answers hready (Nat.lt_succ_of_le hr) hkind hw.pwr hw.mem hw.todo (hcount r (Nat.lt_succ_of_le hr)) hruns)
    fun e h => ?_
  obtain ⟨hpwr, hmem, hgo, hshown⟩ := h
  exact ⟨⟨hpwr, hshown.cause, hshown.kind, hshown.who, hshown.refused, hmem, hshown.count⟩, hgo⟩

theorem adjRequest_answers_elsewhere (hr : 11 < r) (hkind : kind < 16) (htrouble : inTrouble s.dev = true) :
    Answers c s (RefusedElsewhere s.dev kind) := by
  have hw := adjAsked_wrote r req s.dev.quiet
  obtain ⟨htt, hglb, hcount⟩ := adjAsked_reads r req s.dev.quiet
  have hruns : RunsTo c s (clr Reg.PWR_ADJ_GO (refuse r 7 kind (glbState s.dev) (adjAsked r req s.dev.quiet))) :=
    runsTo_of_live o hx ho hready ((if_pos (htt.trans htrouble)).trans
      (congrArg (fun w => clr Reg.PWR_ADJ_GO (refuse r 7 kind w (adjAsked r req s.dev.quiet))) hglb))
  rw [refuse_elsewhere hr] at hruns
  have hreg : (drawNat 12 (adjAsked r req s.dev.quiet)).1 < 12 := Nat.mod_lt _ (by decide)
  obtain ⟨hpwr, hmem, htodo, hrd⟩ := drawn_keeps 12 (adjAsked r req s.dev.quiet)
  refine answers_imp (adjRefused_answers hready hreg hkind (hpwr.trans hw.pwr) (hmem.trans hw.mem) (htodo.trans hw.todo)
    ((hrd _).trans (hcount _ hreg)) hruns) fun e h => ?_
  obtain ⟨hpwr, hmem, hgo, hshown⟩ := h
  exact ⟨hpwr, hshown.refused, hgo, hmem, _, hreg, hshown.cause, hshown.kind, hshown.who⟩

end adj

/-- The three requests of PWR_ADJ, with the REQ and the kind of refusal of each. -/
theorem adjRequests_answer (r : Fin 16) : ∀ x ∈ [(Instr.adjWakeRequest r, 0, 5), (.adj1Request r, 1, 2), (.adj2Request r, 2, 3)],
    (inTrouble s.dev = false → Answers x.1 s fun d => Staged s.dev r none (some x.2.1) d ∧ rdb Reg.PWR_ADJ_GO d = true ∧
      RegsKept [Reg.PWR_ADJ_GO.off] s.dev d) ∧
    (r.val ≤ 11 → inTrouble s.dev = true → Answers x.1 s fun d => Refused s.dev r x.2.2 d ∧ rdb Reg.PWR_ADJ_GO d = false) ∧
    (11 < r.val → inTrouble s.dev = true → Answers x.1 s (RefusedElsewhere s.dev x.2.2)) := by
  have hall {c : Instr} {req kind : Nat} (o : Host.Outcome State Fault Refusal) (hx : exec c s = o) (ho : o = runLive (adjRequest r req kind) s)
      (hkind : kind < 16) := And.intro (adjRequest_answers hready o hx ho) (And.intro
        (fun hr => adjRequest_answers_trouble hready o hx ho hr hkind) fun hr => adjRequest_answers_elsewhere hready o hx ho hr hkind)
  simp only [List.forall_mem_cons]
  exact ⟨hall (execAdjWakeRequest r s) rfl rfl (by decide), hall (execAdj1Request r s) rfl rfl (by decide),
    hall (execAdj2Request r s) rfl rfl (by decide), fun _ h => absurd h List.not_mem_nil⟩

/-- The device is asked into ADJ3. -/
def adj3Asked (d : Dev) : Dev := { adjAsked 15 3 d with pwr.adj3Req := true }

omit hready in
theorem adj3Asked_keeps (d : Dev) : (adj3Asked d).pwr = { d.pwr with adj3Req := true } ∧ (adj3Asked d).mem = d.mem ∧
    (adj3Asked d).todo = d.todo := ⟨rfl, rfl, rfl⟩

omit hready in
theorem rdReg_adj3Asked (o : Nat) (d : Dev) : rdReg o (adj3Asked d) = rdReg o (adjAsked 15 3 d) := rfl

theorem adj3Request_answers (htrouble : inTrouble s.dev = false) : Answers .adj3Request s fun d =>
    d.pwr = { s.dev.pwr with adj3Req := true } ∧ rdb Reg.PWR_ADJ_GO d = true ∧ RegsKept [Reg.PWR_ADJ_GO.off] s.dev d ∧ MemKept s.dev d := by
  have hruns : RunsTo .adj3Request s (adj3Asked s.dev.quiet) :=
    runsTo_of_live (execAdj3Request s) rfl rfl hready
      (if_neg (by rw [Bool.not_eq_true]; exact (adjAsked_reads 15 3 s.dev.quiet).1.trans htrouble))
  obtain ⟨hpwr, hmem, htodo⟩ := adj3Asked_keeps s.dev.quiet
  have hregs := rdReg_adj3Asked (d := s.dev.quiet)
  have hgo := adjAsked_go 15 3 s.dev.quiet
  have hw := adjAsked_wrote 15 3 s.dev.quiet
  have hrd : rd Reg.PWR_ADJ_GO (adj3Asked s.dev.quiet) = rd Reg.PWR_ADJ_GO (adjAsked 15 3 s.dev.quiet) := rfl
  generalize adj3Asked s.dev.quiet = asked at hruns hpwr hmem htodo hregs hrd
  refine hruns.answers (htodo.trans hready.2) fun e he => ⟨he.pwr.trans hpwr, ?_, fun o ho ha => ?_, memKept_of_eq (he.mem.trans hmem)⟩
  · rw [rdb, he.rd (by decide), hrd]; exact hgo
  · exact (he.rdReg ha).trans ((hregs o).trans (hw.regs o ho))

theorem adj3Request_answers_trouble (htrouble : inTrouble s.dev = true) : Answers .adj3Request s (RefusedElsewhere s.dev 4) := by
  have hw := adjAsked_wrote 15 3 s.dev.quiet
  obtain ⟨htt, hglb, hcount⟩ := adjAsked_reads 15 3 s.dev.quiet
  have hruns : RunsTo .adj3Request s (clr Reg.PWR_ADJ_GO (refuse 15 7 4 (glbState s.dev) (adjAsked 15 3 s.dev.quiet))) :=
    runsTo_of_live (execAdj3Request s) rfl rfl hready ((if_pos (htt.trans htrouble)).trans
      (congrArg (fun w => clr Reg.PWR_ADJ_GO (refuse 15 7 4 w (adjAsked 15 3 s.dev.quiet))) hglb))
  rw [refuse_elsewhere (by decide)] at hruns
  have hreg : (drawNat 12 (adjAsked 15 3 s.dev.quiet)).1 < 12 := Nat.mod_lt _ (by decide)
  obtain ⟨hpwr, hmem, htodo, hrd⟩ := drawn_keeps 12 (adjAsked 15 3 s.dev.quiet)
  refine answers_imp (adjRefused_answers hready hreg (by decide) (hpwr.trans hw.pwr) (hmem.trans hw.mem) (htodo.trans hw.todo)
    ((hrd _).trans (hcount _ hreg)) hruns) fun e h => ?_
  obtain ⟨hpwr, hmem, hgo, hshown⟩ := h
  exact ⟨hpwr, hshown.refused, hgo, hmem, _, hreg, hshown.cause, hshown.kind, hshown.who⟩

end answers

end Sys2Proof.Proofs

/-!
PROOFS. O56, continued: the ends of ramps, of entries into an Adjourned state and of wakes.
-/

namespace Sys2Proof.Proofs

open Sys2Proof Sys2Proof.Machine

/-! ### The register of a region -/

theorem lvlField {r : Nat} (h : r < 16) : (∀ f ∈ [Reg.PWR_LVL_LVL r, Reg.PWR_LVL_ASTATE r], f.fits ∧ f.off ∉ ambientRegs) ∧
    (Reg.PWR_LVL_ASTATE r).off < 0x1000000 ∧ (Reg.PWR_LVL_ASTATE r).off ≠ Reg.FLT_INJ_ARM.off := by
  revert r
  decide

theorem astate_fits {r : Nat} (h : r < 16) : (Reg.PWR_LVL_ASTATE r).fits := ((lvlField h).1 _ (by simp)).1
theorem astate_amb {r : Nat} (h : r < 16) : (Reg.PWR_LVL_ASTATE r).off ∉ ambientRegs := ((lvlField h).1 _ (by simp)).2
theorem lvl_fits {r : Nat} (h : r < 16) : (Reg.PWR_LVL_LVL r).fits := ((lvlField h).1 _ (by simp)).1
theorem lvl_amb {r : Nat} (h : r < 16) : (Reg.PWR_LVL_LVL r).off ∉ ambientRegs := ((lvlField h).1 _ (by simp)).2

theorem astateOf_ended {r : Nat} (hr : r < 16) {d e : Dev} (he : EndedFrom d e) : astateOf r e = astateOf r d := he.rd (astate_amb hr)

/-- Of power management only regions differ; of the rest only registers but those listed. -/
structure RegionWrote (but : List Nat) (d e : Dev) : Prop where
  rest : e = { d with regs := e.regs, pwr := { d.pwr with regions := e.pwr.regions } }
  regs : ∀ o, o ∉ but → rdReg o e = rdReg o d

theorem regionWrote_refl (but : List Nat) (d : Dev) : RegionWrote but d d := ⟨rfl, fun _ _ => rfl⟩

theorem RegionWrote.modRegion {but : List Nat} {d e : Dev} (h : RegionWrote but d e) (r : Nat) (f : Region → Region) :
    RegionWrote but d (modRegion r f e) := by
  refine ⟨?_, fun o ho => h.regs o ho⟩
  show { e with pwr.regions := _ } = _
  rw [h.rest]; rfl

theorem RegionWrote.wr {but : List Nat} {d e : Dev} (h : RegionWrote but d e) {f : Field} (hf : f.off ∈ but) (v : Nat) :
    RegionWrote but d (Machine.wr f v e) := by
  refine ⟨?_, fun o ho => (rdReg_wr_off (by rintro rfl; exact ho hf) v e).trans (h.regs o ho)⟩
  show { e with regs := _ } = _
  rw [h.rest]; rfl

theorem RegionWrote.todo {but : List Nat} {d e : Dev} (h : RegionWrote but d e) : e.todo = d.todo := by rw [h.rest]
theorem RegionWrote.mem {but : List Nat} {d e : Dev} (h : RegionWrote but d e) : e.mem = d.mem := by rw [h.rest]
theorem RegionWrote.engines {but : List Nat} {d e : Dev} (h : RegionWrote but d e) : e.engines = d.engines := by rw [h.rest]
theorem RegionWrote.l2s {but : List Nat} {d e : Dev} (h : RegionWrote but d e) : e.l2s = d.l2s := by rw [h.rest]
theorem RegionWrote.taskRings {but : List Nat} {d e : Dev} (h : RegionWrote but d e) : e.taskRings = d.taskRings := by rw [h.rest]
theorem RegionWrote.accels {but : List Nat} {d e : Dev} (h : RegionWrote but d e) : e.accels = d.accels := by rw [h.rest]

theorem RegionWrote.ended {but : List Nat} {d e g : Dev} (h : RegionWrote but d.quiet e) (he : EndedFrom e g) :
    RegsKept but d g ∧ MemKept d g :=
  ⟨fun o ho ha => (he.rdReg ha).trans (h.regs o ho), memKept_of_eq (he.mem.trans h.mem)⟩

section ramps

variable {s : State} (hready : s.ready)
include hready

/-! ### Ramps (R595) -/

theorem levelRampDone_answers {r : Fin 12} {l : Nat} (hramp : (getRegion r s.dev).ramp = some l) (hl : l ≤ 5) :
    Answers (.levelRampDone r) s fun d => levelOf r d = l ∧ getRegion r d = { getRegion r s.dev with ramp := none, rampCharge := l } ∧
      RegsKept [(Reg.PWR_LVL_LVL r).off] s.dev d ∧ MemKept s.dev d := by
  have hr : r.val < 16 := by omega
  have hruns : RunsTo (.levelRampDone r) s
      (wr (Reg.PWR_LVL_LVL r) l (modRegion r (fun g => { g with ramp := none, rampCharge := l }) s.dev.quiet)) :=
    runsTo_of_live (execLevelRampDone r s) rfl rfl hready
      (by simp only [show (getRegion r s.dev.quiet).ramp = some l from hramp])
  have hw := ((regionWrote_refl [(Reg.PWR_LVL_LVL r).off] s.dev.quiet).modRegion r fun g => { g with ramp := none, rampCharge := l }).wr
    (f := Reg.PWR_LVL_LVL r) (by simp) l
  refine hruns.answers (hw.todo.trans hready.2) fun e he => ⟨?_, ?_, hw.ended he⟩
  · rw [levelOf, he.rd (lvl_amb hr), rd_wr_same (lvl_fits hr)]
    exact Nat.mod_eq_of_lt (Nat.lt_of_le_of_lt hl (show 5 < 2 ^ 3 by decide))
  · rw [getRegion_congr he.pwr, getRegion_congr (wr_pwr ..), getRegion_modRegion_same]; rfl

theorem levelRampDone_answers_idle {r : Fin 12} (hramp : (getRegion r s.dev).ramp = none) : Answers (.levelRampDone r) s fun d =>
    d.pwr = s.dev.pwr ∧ RegsKept [] s.dev d ∧ MemKept s.dev d :=
  quiet_of_runs hready (runsTo_of_live (execLevelRampDone r s) rfl rfl hready
    (by simp only [show (getRegion r s.dev.quiet).ramp = none from hramp]))

/-! ### Into ADJ3 (R597, R601) -/

theorem adjEntryDone_answers_not {r : Fin 16} (hr : r.val < 15)
    (hnot : astateOf r s.dev ≠ 4 ∨ ((getRegion r s.dev).entering = 2 ∧ ledgersFull r s.dev = false)) : Answers (.adjEntryDone r) s fun d =>
      d.pwr = s.dev.pwr ∧ RegsKept [] s.dev d ∧ MemKept s.dev d := by
  refine quiet_of_runs hready (runsTo_of_live (execAdjEntryDone r s) rfl rfl hready ((if_neg (by omega)).trans (if_pos ?_)))
  refine hnot.imp id fun h => ⟨h.1, ?_⟩
  rw [show ledgersFull r s.dev.quiet = false from h.2]; rfl

theorem adjEntryDone_answers_awake (hidle : s.dev.pwr.adj3Entering = false) : Answers (.adjEntryDone 15) s fun d =>
    d.pwr = s.dev.pwr ∧ RegsKept [] s.dev d ∧ MemKept s.dev d :=
  quiet_of_runs hready (runsTo_of_live (execAdjEntryDone 15 s) rfl rfl hready ((if_pos rfl).trans (if_neg (by simp [hidle]))))

omit hready in
/-- Every region's crossing is closed, and its state ADJ3. -/
def clampAll (d : Dev) : Dev :=
  forEach (List.range 11) (fun r d => wr (Reg.PWR_LVL_ASTATE r) 3 (modRegion r (fun g => { g with clamped := true }) d)) d

omit hready in
theorem vsbRam_wr (f : Field) (v : Nat) (d : Dev) : vsbRam (wr f v d) = vsbRam d := by
  simp only [vsbRam, wr_pwr, wr_tmp, wr_flt, wr_sxc]; rfl

omit hready in
theorem vsbRam_modRegion (r : Nat) (f : Region → Region) (d : Dev) : vsbRam (modRegion r f d) = vsbRam d := by
  simp only [vsbRam, modRegion]; rfl

omit hready in
theorem clampAll_keeps (d : Dev) : vsbRam (clampAll d) = vsbRam d ∧ (clampAll d).tmp = d.tmp ∧ (clampAll d).nv = d.nv ∧
    (clampAll d).todo = d.todo := by
  have h := forEach_keeps (fun d : Dev => (vsbRam d, d.tmp, d.nv, d.todo))
    (fun r d => wr (Reg.PWR_LVL_ASTATE r) 3 (modRegion r (fun g => { g with clamped := true }) d))
    (fun r d => by rw [vsbRam_wr, wr_tmp, wr_nv, wr_todo, vsbRam_modRegion]; rfl) (List.range 11) d
  simp only [Prod.mk.injEq] at h
  exact h

omit hready in
theorem astateOf_clampAll {r : Nat} (hr : r < 11) (d : Dev) : astateOf r (clampAll d) = 3 := by
  refine forEach_reaches (I := fun _ => True) (P := fun d => astateOf r d = 3) (fun _ _ _ => trivial) (fun d _ => ?_) (fun m d h => ?_)
    (List.mem_range.2 hr) d trivial
  · exact rd_wr_same (astate_fits (by omega)) _ _
  · by_cases hm : m = r
    · subst hm
      exact rd_wr_same (astate_fits (by omega)) _ _
    · refine (rd_wr_off ?_ _ _).trans h
      simp only [Reg.PWR_LVL_ASTATE]; omega

/-- The device in ADJ3 once its regions are. -/
def inAdj3 (d : Dev) : Dev := { d with
  sxc.ram := vsbRam d, pwr.adj3Entering := false, pwr.adj3 := true, pwr.adj3Sec := d.tmp.sec, pwr.adj3WakeS := rd Reg.PWR_ADJ3_WAKE_S d
  pins.fatalN := true, pins.pwrcycReqN := true, pins.gpioDrive := 0, pins.pwrgood := false, tmp.ppsOut := false }

omit hready in
theorem enterAdj3_eq (d : Dev) : enterAdj3 d =
    sendAll [.pin .fatalN true, .pin .pwrcycReqN true, .pin .ppsOut false, .pin .gpio false, .pin .pwrgood false]
      (wr (Reg.PWR_LVL_LVL 11) 0 (inAdj3 (clampAll d))) := rfl

omit hready in
/-- What the device in ADJ3 keeps, and its pins. -/
theorem inAdj3_keeps (d : Dev) : (inAdj3 d).pwr.adj3 = true ∧ (inAdj3 d).sxc.ram = vsbRam d ∧ (inAdj3 d).pwr.adj3Sec = d.tmp.sec ∧
    (inAdj3 d).pins.fatalN = true ∧ (inAdj3 d).pins.pwrcycReqN = true ∧ (inAdj3 d).pins.pwrgood = false ∧ (inAdj3 d).nv = d.nv ∧
    (inAdj3 d).todo = d.todo ∧ ∀ f, rd f (inAdj3 d) = rd f d := ⟨rfl, rfl, rfl, rfl, rfl, rfl, rfl, rfl, fun _ => rfl⟩

omit hready in
theorem saidWrote_keeps (l : List Out) (f : Field) (v : Nat) (d : Dev) : (sendAll l (wr f v d)).pwr = d.pwr ∧
    (sendAll l (wr f v d)).sxc = d.sxc ∧ (sendAll l (wr f v d)).pins = d.pins ∧ (sendAll l (wr f v d)).nv = d.nv ∧
    (sendAll l (wr f v d)).todo = d.todo := ⟨rfl, rfl, rfl, rfl, rfl⟩

theorem adjEntryDone_answers_adj3 (hentering : s.dev.pwr.adj3Entering = true) : Answers (.adjEntryDone 15) s fun d =>
    d.pwr.adj3 = true ∧ d.sxc.ram = vsbRam s.dev ∧ d.pwr.adj3Sec = s.dev.tmp.sec ∧ d.pins.fatalN = true ∧ d.pins.pwrcycReqN = true ∧
      d.pins.pwrgood = false ∧ d.nv = s.dev.nv ∧ ∀ r < 11, rd (Reg.PWR_LVL_ASTATE r) d = 3 := by
  have hruns : RunsTo (.adjEntryDone 15) s (enterAdj3 s.dev.quiet) :=
    runsTo_of_live (execAdjEntryDone 15 s) rfl rfl hready ((if_pos rfl).trans (if_pos hentering))
  rw [enterAdj3_eq] at hruns
  obtain ⟨hram, htmp, hnv, htodo⟩ := clampAll_keeps s.dev.quiet
  have hstate := fun r (hr : r < 11) => astateOf_clampAll hr s.dev.quiet
  generalize clampAll s.dev.quiet = clamped at hruns hram htmp hnv htodo hstate
  obtain ⟨hadj, hram', hsec, hfatal, hcyc, hpg, hnv', htodo', hrd⟩ := inAdj3_keeps clamped
  generalize inAdj3 clamped = asleep at hruns hadj hram' hsec hfatal hcyc hpg hnv' htodo' hrd
  obtain ⟨hp, hs, hpins, hn, ht⟩ := saidWrote_keeps
    [.pin .fatalN true, .pin .pwrcycReqN true, .pin .ppsOut false, .pin .gpio false, .pin .pwrgood false] (Reg.PWR_LVL_LVL 11) 0 asleep
  have hlow : ∀ r < 11, (Reg.PWR_LVL_ASTATE r).off ≠ (Reg.PWR_LVL_LVL 11).off := by decide
  refine hruns.answers (by rw [ht, htodo', htodo]; exact hready.2) fun e he => ⟨by rw [he.pwr, hp, hadj], by rw [he.sxc, hs, hram', hram]; rfl,
    by rw [he.pwr, hp, hsec, htmp]; rfl, by rw [he.pins, hpins, hfatal], by rw [he.pins, hpins, hcyc], by rw [he.pins, hpins, hpg],
    by rw [he.nv, hn, hnv', hnv]; rfl, fun r hr => ?_⟩
  rw [he.rd (astate_amb (by omega)), rd_sendAll, rd_wr_off (hlow r hr), hrd]
  exact hstate r hr

/-! ### Entries of a region (R597–R599) -/

/-- The region is in the state that it was entering. -/
def entered (r : Nat) (d : Dev) : Dev :=
  wr (Reg.PWR_LVL_ASTATE r) (getRegion r d).entering (modRegion r (fun g => { g with entering := 0 }) d)

omit hready in
theorem entered_wrote (r : Nat) (d : Dev) : RegionWrote [(Reg.PWR_LVL_ASTATE r).off] d (entered r d) :=
  ((regionWrote_refl _ d).modRegion r _).wr (f := Reg.PWR_LVL_ASTATE r) (by simp) _

omit hready in
theorem getRegion_entered (r : Nat) (d : Dev) : getRegion r (entered r d) = { getRegion r d with entering := 0 } := by
  rw [entered, getRegion_congr (wr_pwr ..), getRegion_modRegion_same]

omit hready in
theorem astateOf_entered {r : Nat} (hr : r < 16) {d : Dev} (h : (getRegion r d).entering < 16) : astateOf r (entered r d) = (getRegion r d).entering :=
  (rd_wr_same (astate_fits hr) _ _).trans (Nat.mod_eq_of_lt h)

omit hready in
/-- Work that waits is found in the engines, the accelerators and their rings alone. -/
theorem workWaits_congr (r : Nat) {d e : Dev} (hengines : e.engines = d.engines) (hrings : e.taskRings = d.taskRings)
    (haccels : e.accels = d.accels)
    (hcons : ∀ k ∈ [3, 4, 5, 6], ∀ n < 16, rd (accCons k n) e = rd (accCons k n) d ∧ rd (accProd k n) e = rd (accProd k n) d) :
    workWaits r e = workWaits r d := by
  have hfull : ∀ n, ringFull n e = ringFull n d := fun n => by rw [ringFull, hrings]; rfl
  have hwork : ∀ n, engineHasWork n e = engineHasWork n d := fun n => by
    simp only [engineHasWork, getEngine, hengines, hfull]
  have hlane : ∀ x : Nat × Nat, (getLane x.1 x.2 e).job.isSome = (getLane x.1 x.2 d).job.isSome := fun x => by
    simp only [getLane, getAccel, haccels]
  have hbusy : ∀ k ∈ [3, 4, 5, 6], accRingBusy k e = accRingBusy k d := fun k hk => by
    have hrings16 : ∀ n ∈ List.range (accRings k), n < 16 := fun n hn => by
      have : accRings k ≤ 16 := by unfold accRings; split <;> decide
      exact Nat.lt_of_lt_of_le (List.mem_range.1 hn) this
    rw [accRingBusy, accRingBusy, Bool.eq_iff_iff, List.any_eq_true, List.any_eq_true]
    exact exists_congr fun n => and_congr_right fun hn => by
      obtain ⟨hc, hp⟩ := hcons k hk n (hrings16 n hn)
      rw [hc, hp]
  have hfind : ([3, 4, 5, 6].find? fun k => accRingBusy k e) = [3, 4, 5, 6].find? fun k => accRingBusy k d := by
    simp only [List.find?, hbusy 3 (by decide), hbusy 4 (by decide), hbusy 5 (by decide), hbusy 6 (by decide)]
  simp only [workWaits, slicesCond, hwork, hlane, hfind, hfull]

omit hready in
theorem workWaits_entered {r : Nat} (hr : r < 16) (d : Dev) : workWaits r (entered r d) = workWaits r d := by
  have hw := entered_wrote r d
  refine workWaits_congr r hw.engines hw.taskRings hw.accels fun k hk n hn => ?_
  have hhigh : ∀ k ∈ [3, 4, 5, 6], ∀ n < 16, 0x1000000 ≤ (accCons k n).off ∧ 0x1000000 ≤ (accProd k n).off := by decide
  have hlow := (lvlField hr).2.1
  obtain ⟨hc, hp⟩ := hhigh k hk n hn
  exact ⟨(rd_wr_off (by omega) _ _).trans rfl, (rd_wr_off (by omega) _ _).trans rfl⟩

section entries

variable {r : Fin 16} (hr : r.val < 12) (hstate : astateOf r s.dev = 4)
include hr hstate

/-- What an entry that may end does. -/
theorem adjEntryDone_runs (hopen : ¬ ((getRegion r s.dev).entering = 2 ∧ ledgersFull r s.dev = false)) : RunsTo (.adjEntryDone r) s
    (if (getRegion r s.dev).entering = 2 then
      let d := if r.val < 8 then loseCluster r (entered r s.dev.quiet) else loseKeys (entered r s.dev.quiet)
      if (getRegion r s.dev).wakeAfter then askWake r d else d
    else if (getRegion r s.dev).wakeAfter || workWaits r (entered r s.dev.quiet) then beginWake r 1 (entered r s.dev.quiet)
    else entered r s.dev.quiet) := by
  refine runsTo_of_live (execAdjEntryDone r s) rfl rfl hready ((if_neg (by omega)).trans ((if_neg ?_).trans rfl))
  rintro (h | ⟨hentering, hfull⟩)
  · exact h hstate
  · exact hopen ⟨hentering, by rw [show ledgersFull r s.dev.quiet = ledgersFull r s.dev from rfl] at hfull; simpa using hfull⟩

theorem adjEntryDone_answers_adj1 (hentering : (getRegion r s.dev).entering = 1) (hwake : (getRegion r s.dev).wakeAfter = false)
    (hwork : workWaits r s.dev = false) : Answers (.adjEntryDone r) s fun d => astateOf r d = 1 ∧
      RegsKept [(Reg.PWR_LVL_ASTATE r).off] s.dev d ∧ MemKept s.dev d ∧ d.engines = s.dev.engines ∧ d.l2s = s.dev.l2s := by
  have hruns := adjEntryDone_runs hready hr hstate (fun h => by omega)
  rw [if_neg (by omega), if_neg (by
    rw [workWaits_entered (by omega), hwake, show workWaits r s.dev.quiet = false from hwork]; exact Bool.false_ne_true)] at hruns
  have hw := entered_wrote r s.dev.quiet
  refine hruns.answers (hw.todo.trans hready.2) fun e he => ⟨?_, (hw.ended he).1, (hw.ended he).2, he.engines.trans hw.engines, he.l2s.trans hw.l2s⟩
  rw [astateOf_ended (by omega) he, astateOf_entered (by omega) (by rw [show (getRegion r s.dev.quiet).entering = 1 from hentering]; decide)]
  exact hentering

omit hready hr hstate in
theorem beginWake_wrote {r : Nat} {d e : Dev} (h : RegionWrote [(Reg.PWR_LVL_ASTATE r).off] d e) (n : Nat) :
    RegionWrote [(Reg.PWR_LVL_ASTATE r).off] d (beginWake r n e) := (h.modRegion r _).wr (f := Reg.PWR_LVL_ASTATE r) (by simp) 5

theorem adjEntryDone_answers_woken (hentering : (getRegion r s.dev).entering = 1)
    (hwake : (getRegion r s.dev).wakeAfter = true ∨ workWaits r s.dev = true) : Answers (.adjEntryDone r) s fun d => astateOf r d = 5 ∧
      (getRegion r d).wakingFrom = 1 ∧ RegsKept [(Reg.PWR_LVL_ASTATE r).off] s.dev d ∧ MemKept s.dev d := by
  have hruns := adjEntryDone_runs hready hr hstate (fun h => by omega)
  rw [if_neg (by omega), if_pos (by rw [workWaits_entered (by omega), Bool.or_eq_true]; exact hwake)] at hruns
  have hw := beginWake_wrote (entered_wrote r s.dev.quiet) 1
  refine hruns.answers (hw.todo.trans hready.2) fun e he => ⟨?_, ?_, hw.ended he⟩
  · rw [astateOf_ended (by omega) he, astateOf, beginWake, rd_wr_same (astate_fits (by omega))]; rfl
  · rw [getRegion_congr he.pwr, beginWake, getRegion_congr (wr_pwr ..), getRegion_modRegion_same]

/-! ### What a region loses in ADJ2 (Table 21.5) -/

/-- What its entry keeps of a region that loses its contents. -/
structure LostOnly (r : Nat) (d e : Dev) : Prop where
  pwr : e.pwr = d.pwr
  mem : e.mem = d.mem
  todo : e.todo = d.todo
  astate : astateOf r e = astateOf r d

omit hready hr hstate in
theorem lostOnly_refl (r : Nat) (d : Dev) : LostOnly r d d := ⟨rfl, rfl, rfl, rfl⟩

omit hready hr hstate in
theorem LostOnly.trans {r : Nat} {a b c : Dev} (h : LostOnly r a b) (g : LostOnly r b c) : LostOnly r a c :=
  ⟨g.pwr.trans h.pwr, g.mem.trans h.mem, g.todo.trans h.todo, g.astate.trans h.astate⟩

omit hready hr hstate in
theorem lostOnly_forEach {r : Nat} {f : Nat → Dev → Dev} (hf : ∀ n d, LostOnly r d (f n d)) (l : List Nat) (d : Dev) :
    LostOnly r d (forEach l f d) :=
  forEach_invariant (P := LostOnly r d) (fun n e he => he.trans (hf n e)) l (lostOnly_refl r d)

omit hready hr hstate in
theorem lostOnly_wr {r : Nat} {f : Field} (hf : (Reg.PWR_LVL_ASTATE r).off ≠ f.off) (v : Nat) (d : Dev) : LostOnly r d (wr f v d) :=
  ⟨wr_pwr .., wr_mem .., wr_todo .., rd_wr_off hf v d⟩

/-- The state of an engine is lost but for its quarantine. -/
def loseEngine (e : Nat) (d : Dev) : Dev := showEngine e (modEngine e (fun g => { quar := g.quar }) d)

omit hready hr hstate in
theorem loseEngine_lostOnly {r : Nat} (hr : r < 16) (e : Nat) (d : Dev) : LostOnly r d (loseEngine e d) := by
  refine LostOnly.trans (b := modEngine e (fun g => { quar := g.quar }) d) ⟨rfl, rfl, rfl, rfl⟩ (lostOnly_wr ?_ _ _)
  have hlow := (lvlField hr).2.1
  simp only [engStateField, Reg.CL_ENG_STATE_STATE]
  omega

omit hready hr hstate in
theorem getEngine_loseEngine (e m : Nat) (d : Dev) :
    getEngine e (loseEngine m d) = if e = m then { quar := (getEngine m d).quar } else getEngine e d := by
  rw [getEngine, loseEngine, showEngine, wr_engines, modEngine, tget_tmod]; rfl

omit hready hr hstate in
theorem lostOnly_modL2 (r c : Nat) (f : L2 → L2) (d : Dev) : LostOnly r d (modL2 c f d) := ⟨rfl, rfl, rfl, rfl⟩

omit hready hr hstate in
theorem getEngine_modL2 (e c : Nat) (f : L2 → L2) (d : Dev) : getEngine e (modL2 c f d) = getEngine e d := rfl

omit hready hr hstate in
theorem loseCluster_keeps {c : Nat} (hc : c < 16) (d : Dev) : LostOnly c d (loseCluster c d) ∧
    (∀ e, e / 8 = c → getEngine e (loseCluster c d) = { quar := (getEngine e d).quar }) ∧ (tget {} (loseCluster c d).l2s c).lines = [] := by
  have heq : loseCluster c d = modL2 c (fun l => { l with lines := [] }) (forEach ((List.range 8).map (8 * c + ·)) loseEngine d) := by
    unfold loseCluster
    rw [show loseEngine = fun e d => showEngine e (modEngine e (fun g => { quar := g.quar }) d) from rfl]
  rw [heq]
  refine ⟨(lostOnly_forEach (loseEngine_lostOnly hc) _ d).trans (lostOnly_modL2 ..), fun e he => ?_, ?_⟩
  · rw [getEngine_modL2]
    refine forEach_reaches (I := fun g => (getEngine e g).quar = (getEngine e d).quar)
      (P := fun g => getEngine e g = { quar := (getEngine e d).quar }) (n := e) (fun m g hg => ?_) (fun g hg => ?_) (fun m g hg => ?_) ?_ d rfl
    · rw [getEngine_loseEngine]
      split
      · next h => rw [← h]; exact hg
      · exact hg
    · rw [getEngine_loseEngine, if_pos rfl, hg]
    · rw [getEngine_loseEngine]
      split
      · next h => rw [← h, hg]
      · exact hg
    · exact List.mem_map.2 ⟨e % 8, List.mem_range.2 (Nat.mod_lt _ (by decide)), by omega⟩
  · simp [modL2, tget_tmod]

/-- An armed injection that a paired value spends. -/
def injectionSpent (d : Dev) : Dev := { d with free := d.free + 1, flt.inj := none }

omit hready hr hstate in
theorem mkPaired_device (w c v : Nat) (d : Dev) : (mkPaired w c v d).2 = d ∨ (mkPaired w c v d).2 = wr Reg.FLT_INJ_ARM 0 (injectionSpent d) := by
  unfold mkPaired
  dsimp only
  split
  · split
    · exact .inr rfl
    · exact .inl rfl
  · exact .inl rfl

omit hready hr hstate in
theorem mkPaired_keeps {r : Nat} (hr : r < 16) (w c v : Nat) (d : Dev) : LostOnly r d (mkPaired w c v d).2 ∧ (mkPaired w c v d).2.keys = d.keys := by
  rcases mkPaired_device w c v d with h | h <;> rw [h]
  · exact ⟨lostOnly_refl r d, rfl⟩
  · have hspent : LostOnly r d (injectionSpent d) ∧ (injectionSpent d).keys = d.keys := ⟨⟨rfl, rfl, rfl, rfl⟩, rfl⟩
    exact ⟨hspent.1.trans (lostOnly_wr (lvlField hr).2.2 0 _), by rw [wr_keys, hspent.2]⟩

/-- The complement of a slot's identity is noted. -/
def noteComp (m c : Nat) (d : Dev) : Dev := { d with keys.slots := tmod {} d.keys.slots m fun k => { k with comp := c } }

/-- A slot loses its key. -/
def emptySlot (m : Nat) (d : Dev) : Dev := { d with keys.slots := tmod {} d.keys.slots m fun k => { k with key := [], inv := 0 } }

omit hready hr hstate in
theorem putKinfo_eq (m kind cls index gen loadseq size : Nat) (d : Dev) : ∃ w v c,
    putKinfo m kind cls index gen loadseq size d = noteComp m c (wrReg (kinfoOff m) w (mkPaired 64 1 v d).2) := ⟨_, _, _, rfl⟩

omit hready hr hstate in
theorem zeroSlot_eq (m : Nat) (d : Dev) : zeroSlot m d = emptySlot m (putKinfo m 0 0 0 0 (rd (Reg.CIP_KINFO_LOADSEQ m) d) 0 d) := rfl

omit hready hr hstate in
theorem noteComp_keeps (r m c : Nat) (d : Dev) : LostOnly r d (noteComp m c d) ∧ (noteComp m c d).keys.digest = d.keys.digest ∧
    ∀ n, (tget {} (noteComp m c d).keys.slots n).key = (tget {} d.keys.slots n).key := by
  refine ⟨⟨rfl, rfl, rfl, rfl⟩, rfl, fun n => ?_⟩
  simp only [noteComp, tget_tmod]
  by_cases h : n = m <;> simp [h]

omit hready hr hstate in
theorem emptySlot_keeps (r m : Nat) (d : Dev) : LostOnly r d (emptySlot m d) ∧ (emptySlot m d).keys.digest = d.keys.digest ∧
    ∀ n, (tget {} (emptySlot m d).keys.slots n).key = if n = m then [] else (tget {} d.keys.slots n).key := by
  refine ⟨⟨rfl, rfl, rfl, rfl⟩, rfl, fun n => ?_⟩
  simp only [emptySlot, tget_tmod]
  by_cases h : n = m <;> simp [h]

omit hready hr hstate in
theorem lostOnly_wrKinfo {r : Nat} (hr : r < 16) (m : Nat) (w : Word) (d : Dev) : LostOnly r d (wrReg (kinfoOff m) w d) := by
  have hoff : (Reg.PWR_LVL_ASTATE r).off ≠ kinfoOff m := by
    have hlow := (lvlField hr).2.1
    simp only [kinfoOff, Reg.CIP_KINFO_KIND]; omega
  exact ⟨rfl, rfl, rfl, by simp [astateOf, rd, wrReg, tget_tset, hoff]⟩

omit hready hr hstate in
theorem putKinfo_keeps {r : Nat} (hr : r < 16) (m kind cls index gen loadseq size : Nat) (d : Dev) :
    LostOnly r d (putKinfo m kind cls index gen loadseq size d) ∧
    (putKinfo m kind cls index gen loadseq size d).keys.digest = d.keys.digest ∧
    ∀ n, (tget {} (putKinfo m kind cls index gen loadseq size d).keys.slots n).key = (tget {} d.keys.slots n).key := by
  obtain ⟨w, v, c, heq⟩ := putKinfo_eq m kind cls index gen loadseq size d
  obtain ⟨hkept, hkeys⟩ := mkPaired_keeps hr 64 1 v d
  obtain ⟨hnote, hdigest, hslots⟩ := noteComp_keeps r m c (wrReg (kinfoOff m) w (mkPaired 64 1 v d).2)
  have hwr : (wrReg (kinfoOff m) w (mkPaired 64 1 v d).2).keys = d.keys := hkeys
  rw [hwr] at hdigest hslots
  rw [heq]
  exact ⟨(hkept.trans (lostOnly_wrKinfo hr m w _)).trans hnote, hdigest, hslots⟩

omit hready hr hstate in
theorem zeroSlot_keeps {r : Nat} (hr : r < 16) (m : Nat) (d : Dev) : LostOnly r d (zeroSlot m d) ∧ (zeroSlot m d).keys.digest = d.keys.digest ∧
    ∀ n, (tget {} (zeroSlot m d).keys.slots n).key = if n = m then [] else (tget {} d.keys.slots n).key := by
  rw [zeroSlot_eq]
  obtain ⟨hput, hdigest, hslots⟩ := putKinfo_keeps hr m 0 0 0 0 (rd (Reg.CIP_KINFO_LOADSEQ m) d) 0 d
  generalize putKinfo m 0 0 0 0 (rd (Reg.CIP_KINFO_LOADSEQ m) d) 0 d = put at hput hdigest hslots
  obtain ⟨hempty, hdigest', hslots'⟩ := emptySlot_keeps r m put
  exact ⟨hput.trans hempty, hdigest'.trans hdigest, fun n => by rw [hslots', hslots]⟩

omit hready hr hstate in
theorem loseKeys_keeps {r : Nat} (hr : r < 16) (d : Dev) : LostOnly r d (loseKeys d) ∧ (loseKeys d).keys.digest = [] ∧
    ∀ n < 256, (tget {} (loseKeys d).keys.slots n).key = [] := by
  refine ⟨LostOnly.trans (b := { d with keys.digest := [] }) ⟨rfl, rfl, rfl, rfl⟩
    (lostOnly_forEach (fun n e => (zeroSlot_keeps hr n e).1) _ _), ?_, fun n hn => ?_⟩
  · exact forEach_keeps (fun d : Dev => d.keys.digest) zeroSlot (fun m e => (zeroSlot_keeps hr m e).2.1) _ _
  · refine forEach_reaches (I := fun _ => True) (P := fun g => (tget {} g.keys.slots n).key = []) (fun _ _ _ => trivial) (fun g _ => ?_)
      (fun m g hg => ?_) (List.mem_range.2 hn) _ trivial
    · rw [(zeroSlot_keeps hr n g).2.2, if_pos rfl]
    · rw [(zeroSlot_keeps hr m g).2.2]
      split
      · rfl
      · exact hg

omit hready hr hstate in
theorem askWake_keeps (r : Nat) (d : Dev) : (askWake r d).mem = d.mem ∧ (askWake r d).todo = d.todo ∧ (askWake r d).engines = d.engines ∧
    (askWake r d).l2s = d.l2s ∧ (askWake r d).keys = d.keys ∧ astateOf r (askWake r d) = astateOf r d ∧
    (getRegion r (askWake r d)).waiting = some (getRegion r d).lvlAtEntry :=
  ⟨rfl, rfl, rfl, rfl, rfl, rfl, by rw [askWake, getRegion_modRegion_same]⟩

/-- What the region has lost. -/
def LostIn2 (r : Nat) (d e : Dev) : Prop :=
  (r < 8 → (∀ n, n / 8 = r → getEngine n e = { quar := (getEngine n d).quar }) ∧ (tget {} e.l2s r).lines = []) ∧
    (r = 9 → e.keys.digest = [] ∧ ∀ n < 256, (tget {} e.keys.slots n).key = [])

omit hready hr hstate in
theorem lostIn2_of_lost {r : Nat} (hr : r < 16) (d : Dev) :
    let e := if r < 8 then loseCluster r d else loseKeys d
    LostOnly r d e ∧ LostIn2 r d e := by
  by_cases h : r < 8
  · simp only [if_pos h]
    obtain ⟨hkept, hengines, hlines⟩ := loseCluster_keeps hr d
    exact ⟨hkept, fun _ => ⟨hengines, hlines⟩, fun h9 => by omega⟩
  · simp only [if_neg h]
    obtain ⟨hkept, hdigest, hslots⟩ := loseKeys_keeps hr d
    exact ⟨hkept, fun h8 => absurd h8 h, fun _ => ⟨hdigest, hslots⟩⟩

omit hready hr hstate in
theorem LostIn2.congr {r : Nat} {d d' e e' : Dev} (h : LostIn2 r d e) (hd : d.engines = d'.engines) (hengines : e'.engines = e.engines)
    (hl2s : e'.l2s = e.l2s) (hkeys : e'.keys = e.keys) : LostIn2 r d' e' := by
  unfold LostIn2 getEngine at h ⊢
  rw [hengines, hl2s, hkeys, ← hd]
  exact h

theorem adjEntryDone_answers_adj2 (hentering : (getRegion r s.dev).entering = 2) (hfull : ledgersFull r s.dev = true) :
    Answers (.adjEntryDone r) s fun d => astateOf r d = 2 ∧ MemKept s.dev d ∧
      (r.val < 8 → (∀ e, e / 8 = r.val → getEngine e d = { quar := (getEngine e s.dev).quar }) ∧ (tget {} d.l2s r.val).lines = []) ∧
      (r.val = 9 → d.keys.digest = [] ∧ ∀ n < 256, (tget {} d.keys.slots n).key = []) ∧
      ((getRegion r s.dev).wakeAfter = true → (getRegion r d).waiting = some (getRegion r s.dev).lvlAtEntry) := by
  have hruns := adjEntryDone_runs hready hr hstate (fun h => by simp [hfull] at h)
  rw [if_pos hentering] at hruns
  have hw := entered_wrote r s.dev.quiet
  have hlvl : (getRegion r (entered r s.dev.quiet)).lvlAtEntry = (getRegion r s.dev).lvlAtEntry := by rw [getRegion_entered]; rfl
  have hin : astateOf r (entered r s.dev.quiet) = 2 :=
    (astateOf_entered (by omega) (by rw [show (getRegion r s.dev.quiet).entering = 2 from hentering]; decide)).trans hentering
  obtain ⟨hkept, hlost⟩ := lostIn2_of_lost (r := r) (by omega) (entered r s.dev.quiet)
  dsimp only at hruns
  generalize (if r.val < 8 then loseCluster r (entered r s.dev.quiet) else loseKeys (entered r s.dev.quiet)) = lost at hruns hkept hlost
  cases hwake : (getRegion r s.dev).wakeAfter with
  | false =>
    rw [hwake, if_neg Bool.false_ne_true] at hruns
    refine hruns.answers ((hkept.todo.trans hw.todo).trans hready.2) fun e he => ?_
    have hend := hlost.congr (d' := s.dev) (e' := e) hw.engines he.engines he.l2s he.keys
    exact ⟨(astateOf_ended (by omega) he).trans (hkept.astate.trans hin), memKept_of_eq (he.mem.trans (hkept.mem.trans hw.mem)), hend.1, hend.2, nofun⟩
  | true =>
    rw [hwake, if_pos rfl] at hruns
    obtain ⟨hmem, htodo, hengines, hl2s, hkeys, hast, hwait⟩ := askWake_keeps r lost
    refine hruns.answers ((htodo.trans (hkept.todo.trans hw.todo)).trans hready.2) fun e he => ?_
    have hend := hlost.congr (d' := s.dev) (e' := e) hw.engines (he.engines.trans hengines) (he.l2s.trans hl2s) (he.keys.trans hkeys)
    refine ⟨(astateOf_ended (by omega) he).trans (hast.trans (hkept.astate.trans hin)),
      memKept_of_eq (he.mem.trans (hmem.trans (hkept.mem.trans hw.mem))), hend.1, hend.2, fun _ => ?_⟩
    rw [getRegion_congr he.pwr, hwait, getRegion_congr hkept.pwr, hlvl]

end entries

/-! ### The ends of wakes (R600, R602) -/

theorem adjWakeDone_answers_idle {r : Fin 12} (hstate : astateOf r s.dev ≠ 5) : Answers (.adjWakeDone r) s fun d =>
    d.pwr = s.dev.pwr ∧ RegsKept [] s.dev d ∧ MemKept s.dev d :=
  quiet_of_runs hready (runsTo_of_live (execAdjWakeDone r s) rfl rfl hready (if_pos hstate))

/-- The region takes work again. -/
def awake (r : Nat) (d : Dev) : Dev := clr (Reg.PWR_LVL_ASTATE r) (modRegion r (fun g => { g with clamped := false, wakingFrom := 0 }) d)

omit hready in
theorem awake_keeps {r : Nat} (hr : r < 16) (d : Dev) : (awake r d).mem = d.mem ∧ (awake r d).todo = d.todo ∧ (awake r d).fab = d.fab ∧
    astateOf r (awake r d) = 0 ∧ (getRegion r (awake r d)).clamped = false := by
  refine ⟨by rw [awake, clr, wr_mem]; rfl, by rw [awake, clr, wr_todo]; rfl, by rw [awake, clr, wr_fab]; rfl,
    (rd_wr_same (astate_fits hr) _ _).trans (Nat.zero_mod _), ?_⟩
  rw [awake, clr, getRegion_congr (wr_pwr ..), getRegion_modRegion_same]

omit hready in
theorem initLedgers_keeps (r : Nat) (d : Dev) : (initLedgers r d).mem = d.mem ∧ (initLedgers r d).todo = d.todo ∧
    (initLedgers r d).fab.ledgers = d.fab.ledgers.filter fun p => portRegion (p.1 / 4) != some r := ⟨rfl, rfl, rfl⟩

theorem adjWakeDone_answers {r : Fin 12} (hstate : astateOf r s.dev = 5) : Answers (.adjWakeDone r) s fun d => astateOf r d = 0 ∧
    (getRegion r d).clamped = false ∧ MemKept s.dev d ∧
    ((getRegion r s.dev).wakingFrom = 2 → ∀ l ∈ d.fab.ledgers, portRegion (l.1 / 4) ≠ some r.val) := by
  have hr : r.val < 16 := by omega
  have hruns : RunsTo (.adjWakeDone r) s (awake r (if (getRegion r s.dev).wakingFrom = 2 then initLedgers r s.dev.quiet else s.dev.quiet)) :=
    runsTo_of_live (execAdjWakeDone r s) rfl rfl hready (if_neg (not_not.2 hstate))
  have hinit : ∀ d, d = (if (getRegion r s.dev).wakingFrom = 2 then initLedgers r s.dev.quiet else s.dev.quiet) → d.mem = s.dev.mem ∧
      d.todo = s.dev.todo ∧ ((getRegion r s.dev).wakingFrom = 2 → ∀ l ∈ d.fab.ledgers, portRegion (l.1 / 4) ≠ some r.val) := by
    rintro d rfl
    obtain ⟨hmem, htodo, hledgers⟩ := initLedgers_keeps r s.dev.quiet
    by_cases h : (getRegion r s.dev).wakingFrom = 2
    · rw [if_pos h]
      refine ⟨hmem, htodo, fun _ l hl => ?_⟩
      rw [hledgers] at hl
      simpa using (List.mem_filter.1 hl).2
    · rw [if_neg h]
      exact ⟨rfl, rfl, fun h2 => absurd h2 h⟩
  generalize (if (getRegion r s.dev).wakingFrom = 2 then initLedgers r s.dev.quiet else s.dev.quiet) = d at hruns hinit
  obtain ⟨hmem, htodo, hledgers⟩ := hinit d rfl
  obtain ⟨hmem', htodo', hfab, hast, hclamped⟩ := awake_keeps hr d
  refine hruns.answers ((htodo'.trans htodo).trans hready.2) fun e he => ⟨(astateOf_ended hr he).trans hast, by rw [getRegion_congr he.pwr, hclamped],
    memKept_of_eq (he.mem.trans (hmem'.trans hmem)), ?_⟩
  rw [he.fab, hfab]
  exact hledgers

end ramps

/-- Settles O56, command by command. -/
theorem levelsAndStatesRequested : Obligations.LevelsAndStatesRequested := by
  unfold Obligations.LevelsAndStatesRequested
  intro s hready
  refine ⟨fun r l => ⟨levelRequest_answers hready r l, levelRequest_answers_trouble hready r l, levelRequest_answers_reserved hready r l⟩,
    adjRequests_answer hready, adj3Request_answers_trouble hready, adj3Request_answers hready, fun r l => levelRampDone_answers hready,
    fun r => levelRampDone_answers_idle hready, fun r => adjEntryDone_answers_not hready, adjEntryDone_answers_awake hready,
    adjEntryDone_answers_adj3 hready, fun r => adjWakeDone_answers_idle hready, fun r hr hstate => ⟨?_, ?_, ?_⟩,
    fun r => adjWakeDone_answers hready⟩
  · exact adjEntryDone_answers_adj1 hready hr hstate
  · exact adjEntryDone_answers_woken hready hr hstate
  · exact adjEntryDone_answers_adj2 hready hr hstate

end Sys2Proof.Proofs

/-!
PROOFS. O46: validation of an Opening Image finds the first failing step and leaves the device as it is, unless a needed entry of the table
in force is out of step; so a command shows that failure, or programs the region that does not run.
-/

namespace Sys2Proof.Proofs

open Sys2Proof Sys2Proof.Machine

/-! ### The first failing step -/

theorem sptRead_of_notMem {d : Dev} {e : SptEntry} (h : ∀ t, d.sxc.spt = some t → e ∉ t.bad) : sptRead e d = (d.sxc.spt, d) := by
  unfold sptRead
  cases hspt : d.sxc.spt with
  | none => rfl
  | some t => simp [h t hspt]

/-- The entries of the table in force that a validation reads agree with their complements. -/
def OimSound (d : Dev) : Prop := ∀ t, d.sxc.spt = some t → SptEntry.imageKeys ∉ t.bad ∧ SptEntry.floors ∉ t.bad

/-- The key that an image names. -/
def oimKey (b : Bytes) (d : Dev) : Option Bytes :=
  if fld b 14 2 = 0 then (if d.nv.oimKey.keyId = fld b 32 8 then some d.nv.oimKey.pub else none)
  else d.sxc.spt.bind fun t => (t.oimKeys.find? fun k => k.keyId == fld b 32 8).map (·.pub)

/-- The test of the power envelope that an image sets on a device. -/
def oimEnv (e : Dev) (l : List OimSec) : Bool × Nat × Nat :=
  (decide (leastBase (applyOim defLanes l { e with oimCfg := {}, sxc.spt := none }) ≤ 20 * fld (secBody l 8 defPower) 0 2), 8,
    ((l.find? (·.type == 8)).map (·.off)).getD 0)

/-- The failing step from SIGNATURE on. -/
def oimLater (b : Bytes) (d e : Dev) (k : Bytes) : Option OimFail :=
  if Config.ecdsaVerify k (sha384 (b.take (oimLen b))) (sub b (oimLen b) 96) = false then some ⟨5, 0, oimLen b⟩
  else if oimSeq b < (d.sxc.spt.map (·.oimFloor)).getD 0 then some ⟨6, 0, 24⟩
  else match oimWalk b 98 256 [] 0 0 with
    | .error f => some f
    | .ok l => firstBad 8 (l.flatMap oimFields ++ oimCross l ++ [oimEnv e l])

/-- The first failing step of an image on device `d`; `e` is the device whose power envelope is tested. -/
def oimFailure (b : Bytes) (d e : Dev) : Option OimFail :=
  ((oimHeader b).orElse fun _ => oimTarget b d).orElse fun _ =>
    match oimKey b d with
    | none => some ⟨4, 0, 32⟩
    | some k => oimLater b d e k

theorem oimKeyOf_eq {d : Dev} (h : OimSound d) (b : Bytes) : oimKeyOf b d = (oimKey b d, d) := by
  unfold oimKeyOf oimKey
  split
  · rfl
  · rw [sptRead_of_notMem fun t ht => (h t ht).1]

theorem oimFloor_eq {d : Dev} (h : OimSound d) : oimFloor d = ((d.sxc.spt.map (·.oimFloor)).getD 0, d) := by
  unfold oimFloor
  rw [sptRead_of_notMem fun t ht => (h t ht).2]
  cases hspt : d.sxc.spt <;> simp

/-- What a validation answers is its first failure, and it leaves the device as it is. -/
def OimVerdict (d : Dev) (r : Except OimFail (List OimSec) × Dev) : Option OimFail → Prop
  | some f => r = (.error f, d)
  | none => ∃ l, r = (.ok l, d)

theorem validateOim_verdict {d : Dev} (h : OimSound d) (b : Bytes) : OimVerdict d (validateOim b d) (oimFailure b d d) := by
  unfold validateOim oimFailure
  cases (oimHeader b).orElse fun _ => oimTarget b d with
  | some f => rfl
  | none =>
    simp only [oimKeyOf_eq h, Option.orElse_none]
    cases oimKey b d with
    | none => rfl
    | some k =>
      simp only [oimLater, oimFloor_eq h]
      by_cases hsig : Config.ecdsaVerify k (sha384 (b.take (oimLen b))) (sub b (oimLen b) 96) = true
      case neg => simp [Bool.eq_false_iff.2 hsig, OimVerdict]
      simp only [hsig, Bool.not_true, Bool.false_eq_true, if_false, Bool.true_eq_false]
      by_cases hfloor : oimSeq b < (d.sxc.spt.map (·.oimFloor)).getD 0
      · simp [hfloor, OimVerdict]
      simp only [hfloor, if_false]
      cases oimWalk b 98 256 [] 0 0 with
      | error f => rfl
      | ok l =>
        change OimVerdict d (match firstBad 8 (l.flatMap oimFields ++ oimCross l ++ [oimEnv d l]) with
          | some f => (.error f, d)
          | none => (.ok l, d)) (firstBad 8 (l.flatMap oimFields ++ oimCross l ++ [oimEnv d l]))
        cases firstBad 8 (l.flatMap oimFields ++ oimCross l ++ [oimEnv d l]) with
        | some f => rfl
        | none => exact ⟨l, rfl⟩

theorem oimFailure_congr {b : Bytes} {d g : Dev} (e : Dev) (hid : rdReg 0 g = rdReg 0 d) (hnv : g.nv = d.nv) (hsxc : g.sxc = d.sxc) :
    oimFailure b g e = oimFailure b d e := by
  simp only [oimFailure, oimTarget, oimKey, oimLater, hid, hnv, hsxc]

theorem oimLoaded_congr {d e : Dev} (hmem : e.mem = d.mem) (haddr : rd Reg.OIM_LOAD_ADDR e = rd Reg.OIM_LOAD_ADDR d)
    (hlen : rd Reg.OIM_LOAD_LEN e = rd Reg.OIM_LOAD_LEN d) : oimLoaded e = oimLoaded d := by
  rw [oimLoaded, memRead_of_mem hmem, haddr, hlen, oimLoaded]

/-- The device at a command of OIM_CMD, OP shown. -/
def oimAsked (op : Nat) (d : Dev) : Dev := wr Reg.OIM_CMD_OP op d.quiet

theorem oimAsked_loaded (op : Nat) (d : Dev) : oimLoaded (oimAsked op d) = oimLoaded d :=
  oimLoaded_congr rfl (rd_wr_off (by decide) _ _) (rd_wr_off (by decide) _ _)

/-- The validation that a command of OIM_CMD runs. -/
theorem oimAsked_verdict {d : Dev} (h : OimSound d) (op : Nat) : OimVerdict (oimAsked op d)
    (validateOim (oimLoaded (oimAsked op d)) (oimAsked op d)) (oimFailure (oimLoaded d) d (oimAsked op d)) := by
  have hid : rdReg 0 (oimAsked op d) = rdReg 0 d := rdReg_wr_off (by decide) op d.quiet
  rw [oimAsked_loaded, ← oimFailure_congr (oimAsked op d) hid rfl rfl]
  exact validateOim_verdict (d := oimAsked op d) h (oimLoaded d)

/-! ### What is shown -/

/-- The registers of a command of the OIM block. -/
def oimRegs : List Nat := [Reg.OIM_CMD_OP.off, Reg.OIM_CMD_ST_RESULT.off, Reg.OIM_RESULT_STEP.off]

/-- A failed image: its step in RESULT, its place in OIM_RESULT. -/
def oimFailed (f : OimFail) (d : Dev) : Dev := wr Reg.OIM_CMD_ST_RESULT f.step (showOimFail f d)

theorem oimAsked_wrote (op : Nat) (d : Dev) : Wrote oimRegs d.quiet (oimAsked op d) := wrote_wr (by decide) op _

theorem Wrote.oimFailed {d e : Dev} (h : Wrote oimRegs d e) (f : OimFail) : Wrote oimRegs d (Proofs.oimFailed f e) :=
  ((((h.wr (by decide) _).wr (by decide) _).wr (by decide) _).wr (by decide) _)

/-- What a failed image shows. -/
def OimShown (f : OimFail) (d e : Dev) : Prop := rd Reg.OIM_CMD_ST_RESULT e = f.step % 16 ∧ rd Reg.OIM_RESULT_STEP e = f.step % 16 ∧
  rd Reg.OIM_RESULT_TYPE e = f.type % 2 ^ 16 ∧ rd Reg.OIM_RESULT_OFFSET e = f.off % 2 ^ 32 ∧ e.nv = d.nv

theorem oimFailed_shown (f : OimFail) {d e g : Dev} (hnv : e.nv = d.nv) (he : EndedFrom (oimFailed f e) g) : OimShown f d g := by
  unfold oimFailed showOimFail at he
  refine ⟨?_, ?_, ?_, ?_, ?_⟩
  · rw [he.rd (by decide), rd_wr_same (by decide)]; rfl
  · rw [he.rd (by decide), rd_wr_off (by decide), rd_wr_apart (by decide) (by decide) (by decide),
      rd_wr_apart (by decide) (by decide) (by decide), rd_wr_same (by decide)]; rfl
  · rw [he.rd (by decide), rd_wr_off (by decide), rd_wr_apart (by decide) (by decide) (by decide), rd_wr_same (by decide)]; rfl
  · rw [he.rd (by decide), rd_wr_off (by decide), rd_wr_same (by decide)]; rfl
  · rw [he.nv, wr_nv, wr_nv, wr_nv, wr_nv, hnv]

/-! ### The commands -/

/-- The end of a command of OIM_CMD: its RESULT. -/
def oimEnded (x : Nat × Dev) : Dev := wr Reg.OIM_CMD_ST_RESULT x.1 x.2

/-- What VALIDATE does with a verdict. -/
def validated (x : Except OimFail (List OimSec) × Dev) : Nat × Dev :=
  match x with
  | (.ok _, d) => (1, d)
  | (.error f, d) => (f.step, showOimFail f d)

/-- What COMMIT does with a verdict on image `b`. -/
def committed (good : Bool) (b : Bytes) (x : Except OimFail (List OimSec) × Dev) : Nat × Dev :=
  match x with
  | (.error f, d) => (f.step, showOimFail f d)
  | (.ok _, d) =>
    if oimSeq b ≤ rd Reg.OIM_SEQ_SEQ d then (9, showOimFail ⟨9, 0, 24⟩ d)
    else (if good then 1 else 10, { d with
      nv.oim := tset [] d.nv.oim (1 - rd Reg.OIM_STATUS_ACTIVE d) (if good then b.take (oimLen b + 128) else []) })

/-- The region that does not run, programmed. -/
def regionProgrammed (good : Bool) (b : Bytes) (d : Dev) : Dev :=
  { d with nv.oim := tset [] d.nv.oim (1 - rd Reg.OIM_STATUS_ACTIVE d) (if good then b.take (oimLen b + 128) else []) }

theorem oimActive_ne (d : Dev) : rd Reg.OIM_STATUS_ACTIVE d ≠ 1 - rd Reg.OIM_STATUS_ACTIVE d := by
  have := rd_lt Reg.OIM_STATUS_ACTIVE d
  have hw : Reg.OIM_STATUS_ACTIVE.width = 1 := rfl
  rw [hw] at this
  omega

section commands

variable {s : State} (hready : s.ready)
include hready

/-- A command that runs shows the failure that it finds. -/
theorem answers_oimFailed {c : Instr} {f : OimFail} (op : Nat) (hruns : RunsTo c s (oimFailed f (oimAsked op s.dev))) :
    Answers c s fun d => RegsKept oimRegs s.dev d ∧ MemKept s.dev d ∧ OimShown f s.dev d := by
  have hall := (oimAsked_wrote op s.dev).oimFailed f
  refine hruns.answers (hall.todo.trans hready.2) fun e he => ?_
  obtain ⟨hregs, hmem⟩ := hall.ended he
  exact ⟨hregs, hmem, oimFailed_shown f (oimAsked_wrote op s.dev).nv he⟩

section idle

variable (hidle : rdb Reg.OIM_CMD_ST_BUSY s.dev = false)
include hidle

theorem oimValidate_runs : RunsTo .oimValidate s (oimEnded (validated (validateOim (oimLoaded (oimAsked 0 s.dev)) (oimAsked 0 s.dev)))) :=
  runsTo_of_live (execOimValidate s) rfl rfl hready (if_neg (by rw [Bool.not_eq_true]; exact hidle))

theorem oimCommit_runs (good : Bool) : RunsTo (.oimCommit good) s (oimEnded (committed good (oimLoaded (oimAsked 1 s.dev))
    (validateOim (oimLoaded (oimAsked 1 s.dev)) (oimAsked 1 s.dev)))) :=
  runsTo_of_live (execOimCommit good s) rfl rfl hready (if_neg (by rw [Bool.not_eq_true]; exact hidle))

theorem oimValidate_answers (hsound : OimSound s.dev) :
    Answers .oimValidate s fun d => RegsKept oimRegs s.dev d ∧ MemKept s.dev d ∧
      match oimFailure (oimLoaded s.dev) s.dev (oimAsked 0 s.dev) with
      | some f => OimShown f s.dev d
      | none => rd Reg.OIM_CMD_ST_RESULT d = 1 ∧ d.nv = s.dev.nv := by
  have hverdict := oimAsked_verdict hsound 0
  have hruns := oimValidate_runs hready hidle
  cases hfail : oimFailure (oimLoaded s.dev) s.dev (oimAsked 0 s.dev) with
  | some f =>
    rw [hfail] at hverdict
    rw [hverdict] at hruns
    exact answers_oimFailed hready 0 hruns
  | none =>
    rw [hfail] at hverdict
    obtain ⟨l, hl⟩ := hverdict
    rw [hl] at hruns
    have hall := (oimAsked_wrote 0 s.dev).wr (f := Reg.OIM_CMD_ST_RESULT) (by decide) 1
    refine RunsTo.answers (e := wr Reg.OIM_CMD_ST_RESULT 1 (oimAsked 0 s.dev)) hruns (hall.todo.trans hready.2) fun e he => ?_
    obtain ⟨hregs, hmem⟩ := hall.ended he
    exact ⟨hregs, hmem, (he.rd (by decide)).trans (rd_wr_same (by decide) _ _), he.nv.trans hall.nv⟩

theorem oimCommit_answers (hsound : OimSound s.dev) (good : Bool) :
    Answers (.oimCommit good) s fun d => RegsKept oimRegs s.dev d ∧ MemKept s.dev d ∧
      match oimFailure (oimLoaded s.dev) s.dev (oimAsked 1 s.dev) with
      | some f => OimShown f s.dev d
      | none => if oimSeq (oimLoaded s.dev) ≤ rd Reg.OIM_SEQ_SEQ s.dev then OimShown ⟨9, 0, 24⟩ s.dev d
        else rd Reg.OIM_CMD_ST_RESULT d = (if good then 1 else 10) ∧
          tget [] d.nv.oim (1 - rd Reg.OIM_STATUS_ACTIVE s.dev) =
            (if good then (oimLoaded s.dev).take (oimLen (oimLoaded s.dev) + 128) else []) ∧
          tget [] d.nv.oim (rd Reg.OIM_STATUS_ACTIVE s.dev) = tget [] s.dev.nv.oim (rd Reg.OIM_STATUS_ACTIVE s.dev) := by
  have hverdict := oimAsked_verdict hsound 1
  have hruns := oimCommit_runs hready hidle good
  rw [oimAsked_loaded] at hruns hverdict
  generalize oimLoaded s.dev = b at hruns hverdict ⊢
  have hasked := oimAsked_wrote 1 s.dev
  have hseq : rd Reg.OIM_SEQ_SEQ (oimAsked 1 s.dev) = rd Reg.OIM_SEQ_SEQ s.dev := hasked.rd (by decide)
  have hactive : rd Reg.OIM_STATUS_ACTIVE (oimAsked 1 s.dev) = rd Reg.OIM_STATUS_ACTIVE s.dev := hasked.rd (by decide)
  cases hfail : oimFailure b s.dev (oimAsked 1 s.dev) with
  | some f =>
    rw [hfail] at hverdict
    rw [hverdict] at hruns
    exact answers_oimFailed hready 1 hruns
  | none =>
    rw [hfail] at hverdict
    obtain ⟨l, hl⟩ := hverdict
    simp only [hl, committed, hseq] at hruns
    by_cases hlow : oimSeq b ≤ rd Reg.OIM_SEQ_SEQ s.dev
    · rw [if_pos hlow] at hruns
      simpa only [if_pos hlow] using answers_oimFailed hready 1 hruns
    · rw [if_neg hlow] at hruns
      simp only [if_neg hlow]
      refine RunsTo.answers (e := wr Reg.OIM_CMD_ST_RESULT (if good then 1 else 10) (regionProgrammed good b (oimAsked 1 s.dev))) hruns
        hready.2 fun e he => ?_
      have hregs : ∀ o, o ∉ oimRegs → rdReg o (wr Reg.OIM_CMD_ST_RESULT (if good then 1 else 10) (oimAsked 1 s.dev)) = rdReg o s.dev :=
        (hasked.wr (f := Reg.OIM_CMD_ST_RESULT) (by decide) _).regs
      refine ⟨fun o ho ha => (he.rdReg ha).trans (hregs o ho), memKept_of_eq he.mem, ?_, ?_, ?_⟩
      · rw [he.rd (by decide), rd_wr_same (by decide)]; cases good <;> rfl
      · rw [he.nv, wr_nv, regionProgrammed, hactive]; exact tget_tset_same
      · rw [he.nv, wr_nv, regionProgrammed, hactive]; exact tget_tset_ne (oimActive_ne s.dev)

end idle

omit hready in
theorem rdReg_bump_off {f : Field} {o : Nat} (h : o ≠ f.off) (d : Dev) : rdReg o (bump f d) = rdReg o d := by
  rw [bump_eq, bumpBy]
  split <;> exact rdReg_wr_off h _ _

/-- A request while a command runs is counted. -/
theorem oimBusy_answers {c : Instr} (hruns : RunsTo c s (bump Reg.OIM_CMD_ST_IGNORED s.dev.quiet)) :
    Answers c s fun d =>
      (rd Reg.OIM_CMD_ST_IGNORED s.dev + 1 < 2 ^ 16 → rd Reg.OIM_CMD_ST_IGNORED d = rd Reg.OIM_CMD_ST_IGNORED s.dev + 1) ∧
      RegsKept [Reg.OIM_CMD_ST_RESULT.off] s.dev d ∧ MemKept s.dev d ∧ d.nv = s.dev.nv := by
  have hcounted := countedIn_bump (os := [Reg.OIM_CMD_ST_RESULT.off]) Reg.OIM_CMD_ST_IGNORED s.dev.quiet (by decide)
  refine hruns.answers ((congrArg Dev.todo hcounted.rest).trans hready.2) fun e he => ⟨fun hfits => ?_, ?_, ?_, ?_⟩
  · rw [he.rd (by decide)]
    exact rd_bump_same (d := s.dev.quiet) (by decide) hfits
  · exact fun o ho ha => (he.rdReg ha).trans (rdReg_bump_off (fun h => ho (by rw [h]; decide)) _)
  · exact memKept_of_eq (he.mem.trans (by rw [hcounted.rest]; rfl))
  · exact he.nv.trans (by rw [hcounted.rest]; rfl)

end commands

/-- Settles O46: each command runs the validation of the image that OIM_LOAD names and shows its first failure; an image that passes answers
VALIDATE, and COMMIT programs it into the region that does not run. -/
theorem imagesValidateAndCommit : Obligations.ImagesValidateAndCommit := by
  intro s hready b key floor base env later failure regs shown hsound
  refine ⟨fun hidle => ⟨oimValidate_answers hready hidle hsound, oimCommit_answers hready hidle hsound⟩, fun hbusy c hc => ?_⟩
  rcases hc with rfl | rfl | rfl
  · exact oimBusy_answers hready (runsTo_of_live (execOimValidate s) rfl rfl hready (if_pos hbusy))
  · exact oimBusy_answers hready (runsTo_of_live (execOimCommit true s) rfl rfl hready (if_pos hbusy))
  · exact oimBusy_answers hready (runsTo_of_live (execOimCommit false s) rfl rfl hready (if_pos hbusy))

end Sys2Proof.Proofs

/-!
PROOFS. O24 is refuted: of COMMAND_RECORD_WAIT it asks that only the accepted capsule leaves the waiting ones, whatever its command meets. An
entry of the table in force that is out of step raises SXC_PAIRED (R554), and no hypothesis keeps a Check entry free (`State.checkRoom`). With
all 64 open the oldest becomes a Double check (R575); where that names a host port, the contexts of the port tear down, and their waiting
capsules go with them (R168).
-/

namespace Sys2Proof.Proofs

-- The kernel evaluations below are long; one after another they hold fewer stacks at once.
set_option Elab.async false

open Sys2Proof Sys2Proof.Machine

/-- Every entry of FLT_CHKk is open, each for host port 0. -/
def openPortChecks (d : Dev) : Dev :=
  forEach (List.range 64) (fun k d =>
    setb (Reg.FLT_CHK_OPEN k) (wr (Reg.FLT_CHK_UNIT k) (unitOf 8 0) (wr (Reg.FLT_CHK_CODE k) Ev.MDL_LINK_FAIL d))) d

/-- A firmware download that waits on the admin queue of context 5, and a Keep Alive that waits on that of context 9. -/
def downloadWaits : Capsule := ⟨.fwDownload, { ctx := 5 }⟩
def keepAliveWaits : Capsule := ⟨.keepAlive, { ctx := 9 }⟩

/-- Both lists are full, the policy of the table in force is out of step, and two capsules wait; both contexts are open on host port 0. -/
def capsulesWaitDev : Dev :=
  openLaneDoubleChecks <| openPortChecks { ({} : Dev) with
    sxc.spt := some { bad := [.policy] }
    front.ctxs := [(5, { opn := true }), (9, { opn := true })]
    front.capsules := [downloadWaits, keepAliveWaits] }

theorem capsulesWaitDev_ready : (State.mk capsulesWaitDev []).ready := by decide +kernel
theorem capsulesWaitDev_next : nextCapsule capsulesWaitDev = some downloadWaits := by decide +kernel
theorem capsulesWaitDev_record : freeRecord capsulesWaitDev = some 0 := by decide +kernel
theorem capsulesWaitDev_own : isForwarded downloadWaits.op downloadWaits.cmd capsulesWaitDev = false := by decide +kernel
theorem capsulesWaitDev_rest : capsulesWaitDev.front.capsules.erase downloadWaits = [keepAliveWaits] := by decide +kernel

theorem commandRecordWait_capsulesWaitDev :
    ∃ t, exec .commandRecordWait ⟨capsulesWaitDev, []⟩ = .next t ∧ t.dev.front.capsules = [] := ⟨_, rfl, by decide +kernel⟩

/-- Refutes O24: it asks that COMMAND_RECORD_WAIT take the first capsule that may start and leave the others. On `capsulesWaitDev` both are gone
when it ends. -/
theorem not_ioCommandsStart : ¬ Obligations.IoCommandsStart := by
  unfold Obligations.IoCommandsStart
  intro h
  obtain ⟨-, -, -, -, -, -, -, hwait, -⟩ := h ⟨capsulesWaitDev, []⟩ {} 0 capsulesWaitDev_ready
  obtain ⟨t, hnext, -, -, hcapsules⟩ := hwait downloadWaits capsulesWaitDev_next capsulesWaitDev_record capsulesWaitDev_own
  obtain ⟨u, hu, hgone⟩ := commandRecordWait_capsulesWaitDev
  rw [hnext] at hu
  injection hu with htu
  have hleft := (hcapsules (by decide)).trans capsulesWaitDev_rest
  rw [← htu, hleft] at hgone
  exact absurd hgone (by decide)

end Sys2Proof.Proofs

/-!
PROOFS. O26 is refuted: ROW_PROGRAM_ISSUE is said to leave every closed row whose turn it is, under a grant, issued. A program for a lane that is
not UP ends LINK_LOST at once (R406), before the command ends, and of a row of kind 4 the end of its last program takes the row away (R427). No
hypothesis of that clause names the kind of the row or its lanes.
-/

namespace Sys2Proof.Proofs

open Sys2Proof Sys2Proof.Machine

/-- Row 0, of kind 4, is closed with its parity, and its engine holds a grant; its one column lies on lane 5, which is OFF. -/
def closedRow : Row := { kind := 4, state := 2, seg := 1, want := 1, parity := true }
def closedRowDev : Dev := wr (accEnable 5) 15 { ({} : Dev) with
  stg.rows := [(0, closedRow)]
  stg.rowNext := 1
  md.segs := [(1, { state := 2, cols := [{ member := 5 }] })]
  pwr.granted := [{ who := .engine 0, cls := 1, cost := 1 }] }

theorem closedRowDev_ready : (State.mk closedRowDev []).ready := by decide +kernel
theorem closedRowDev_row : getRow 0 closedRowDev = closedRow := by decide +kernel
theorem closedRowDev_due : closedRow.after ≤ tempoNow closedRowDev := Nat.zero_le _
theorem closedRowDev_serves : laneServes 5 closedRowDev = true := by decide +kernel
theorem closedRowDev_sealed : unsealed closedRow closedRowDev = false := by decide +kernel
theorem closedRowDev_pipe : pipeReady 5 (.row 0) closedRowDev := by decide +kernel
theorem closedRowDev_idle : engineBusy 0 closedRowDev = false := by decide +kernel
theorem closedRowDev_turn : rowTurn 0 closedRowDev = true := by decide +kernel
theorem closedRowDev_grant : hasGrant (.engine (rowEngine 0 closedRowDev)) 1 closedRowDev = true := by decide +kernel

theorem rowProgramIssue_closedRowDev :
    ∃ t, exec (.rowProgramIssue 0 .ok) ⟨closedRowDev, []⟩ = .next t ∧ (getRow 0 t.dev).state = 0 := ⟨_, rfl, by decide +kernel⟩

/-- Refutes O26: it asks that a closed row whose turn it is be issued under a grant. On `closedRowDev` the row is gone when ROW_PROGRAM_ISSUE
ends. -/
theorem not_rowsAndTransactions : ¬ Obligations.RowsAndTransactions := by
  unfold Obligations.RowsAndTransactions
  intro h
  obtain ⟨hrows, -⟩ := h ⟨closedRowDev, []⟩ closedRowDev_ready
  obtain ⟨-, hissue, -⟩ := hrows 0
  simp only [closedRowDev_row] at hissue
  obtain ⟨hissue, -⟩ := hissue rfl closedRowDev_due closedRowDev_serves closedRowDev_sealed closedRowDev_pipe
  obtain ⟨hgranted, -⟩ := hissue .ok (.inl rfl) closedRowDev_idle closedRowDev_turn
  obtain ⟨t, hnext, -, hstate⟩ := hgranted closedRowDev_grant
  obtain ⟨u, hu, hgone⟩ := rowProgramIssue_closedRowDev
  rw [hnext] at hu
  injection hu with htu
  rw [← htu, hstate] at hgone
  exact absurd hgone (by decide)

end Sys2Proof.Proofs

/-!
PROOFS. O53 is refuted: it asks of an activation that is abandoned that the commit's completion be posted where no peer is waited for. It is
posted only once the commit's record is acknowledged (R166, R501), and no hypothesis says that the record which the activation names is.
-/

namespace Sys2Proof.Proofs

open Sys2Proof Sys2Proof.Machine

/-- An activation of slot 1 is past its edge; a lane still holds a job, no peer is there, and the record of the commit is not acknowledged. -/
def activatingDev : Dev := { ({} : Dev) with
  fwu.act := some { slot := 1, edge := 0, phase := 1, cmdRec := 0 }
  cas.hasPeer := false
  accels := [(4, { lanes := [(0, { job := some (0, 0) })] })] }

theorem activatingDev_ready : (State.mk activatingDev []).ready := by decide +kernel
theorem activatingDev_busy : activationIdle 0 activatingDev = false := by decide +kernel
theorem activatingDev_open : (getFc 0 activatingDev).ready = none := by decide +kernel
theorem activatingDev_alone : alone activatingDev = true := by decide +kernel

/-- What leaves the device is no completion. -/
def noCompletion (l : List Out) : Bool := l.all fun o => match o with
  | .completion .. => false
  | _ => true

theorem activationIdleDeadline_activatingDev :
    ∃ t, exec .activationIdleDeadline ⟨activatingDev, []⟩ = .next t ∧ noCompletion t.dev.out = true := ⟨_, rfl, by decide +kernel⟩

/-- Refutes O53: it asks that the commit of an abandoned activation be completed to its host. On `activatingDev` nothing is posted. -/
theorem not_activationsSwitchOrEnd : ¬ Obligations.ActivationsSwitchOrEnd := by
  unfold Obligations.ActivationsSwitchOrEnd
  intro h
  obtain ⟨hphase, -⟩ := h ⟨activatingDev, []⟩ activatingDev_ready
  obtain ⟨-, habandoned⟩ := hphase _ rfl rfl
  obtain ⟨t, hnext, -, -, -, -, hended, -⟩ := habandoned activatingDev_busy
  obtain ⟨u, hu, hnone⟩ := activationIdleDeadline_activatingDev
  rw [hnext] at hu
  injection hu with htu
  obtain ⟨dnr, -, hposted⟩ := hended activatingDev_open
  have := List.all_eq_true.1 hnone _ (htu ▸ hposted activatingDev_alone)
  exact Bool.false_ne_true this

end Sys2Proof.Proofs

/-!
PROOFS. O32: erasure jobs. A clean row's columns are read whole; what a job writes are columns of the row's length, apart from one another and
from the descriptor, so each reads back as it was written.
-/

namespace Sys2Proof.Proofs

open Sys2Proof Sys2Proof.Machine

/-! ### The length of a computed column -/

theorem colScale_length (c : Nat) (b : Bytes) : (colScale c b).length = b.length := List.length_map _

theorem colSum_length {len : Nat} {cs : List Bytes} (h : ∀ c ∈ cs, c.length = len) : (colSum len cs).length = len := by
  have hfold (acc : Bytes) (hacc : acc.length = len) : (cs.foldl xorBytes acc).length = len := by
    induction cs generalizing acc with
    | nil => exact hacc
    | cons c cs ih =>
      have hc := h c List.mem_cons_self
      exact ih (fun x hx => h x (List.mem_cons_of_mem _ hx)) _ (by rw [Laws.xorBytes_length, hacc, hc, max_self])
  exact hfold _ List.length_replicate

/-- Every column of a row has the row's length. -/
abbrev ColumnsOf (len : Nat) (cs : List (Nat × Bytes)) : Prop := ∀ c ∈ cs, c.2.length = len

theorem parityP_length {len : Nat} {cs : List (Nat × Bytes)} (h : ColumnsOf len cs) : (parityP len cs).length = len :=
  colSum_length fun c hc => by
    obtain ⟨x, hx, rfl⟩ := List.mem_map.1 hc
    exact h x hx

theorem parityQ_length {len : Nat} {cs : List (Nat × Bytes)} (h : ColumnsOf len cs) : (parityQ len cs).length = len :=
  colSum_length fun c hc => by
    obtain ⟨x, hx, rfl⟩ := List.mem_map.1 hc
    rw [colScale_length, h x hx]

theorem ColumnsOf.filter {len : Nat} {cs : List (Nat × Bytes)} (h : ColumnsOf len cs) (p : Nat × Bytes → Bool) : ColumnsOf len (cs.filter p) :=
  fun c hc => h c (List.mem_of_mem_filter hc)

/-- A column by its number. -/
def columnOf (cs : List (Nat × Bytes)) (n : Nat) : Bytes := ((cs.find? fun c => c.1 == n).map (·.2)).getD []

theorem columnOf_length {len n : Nat} {cs : List (Nat × Bytes)} (h : ColumnsOf len cs) (hn : n ∈ cs.map (·.1)) :
    (columnOf cs n).length = len := by
  obtain ⟨x, hx, rfl⟩ := List.mem_map.1 hn
  obtain ⟨y, hy⟩ := Option.isSome_iff_exists.1 ((List.find?_isSome (p := fun c => c.1 == x.1)).2 ⟨x, hx, beq_self_eq_true x.1⟩)
  rw [columnOf, hy]
  exact h y (List.mem_of_find?_eq_some hy)

/-- The two columns that are recovered, or the one. -/
theorem recoverColumns_numbers {w m0 m1 : Nat} (hw : w < 255) (len : Nat) (cs : List (Nat × Bytes)) :
    (recoverColumns w m0 m1 len cs).map (·.1) = m0 :: (if m1 = 255 then [] else [m1]) := by
  unfold recoverColumns
  dsimp only
  by_cases hp : w ≤ m0
  · by_cases hone : m1 = 255 <;> simp [hp, hone]
  · by_cases hboth : m1 < w
    · have hone : m1 ≠ 255 := by omega
      simp [hp, hboth, hone]
    · by_cases hone : m1 = 255
      · subst hone
        simp [hp, hboth]
      · simp [hp, hboth, hone]

/-- A recovered column has the row's length. -/
theorem recoverColumns_length {w m0 m1 len : Nat} {cs : List (Nat × Bytes)} (h : ColumnsOf len cs)
    (hread : cs.map (·.1) = columnsRead w m0 m1) : ColumnsOf len (recoverColumns w m0 m1 len cs) := by
  have hdata : ColumnsOf len (cs.filter fun c => decide (c.1 < w)) := h.filter _
  have hparity (n : Nat) {all : List (Nat × Bytes)} (hall : ColumnsOf len all) :
      (if n = w then parityP len all else parityQ len all).length = len := by
    split
    · exact parityP_length hall
    · exact parityQ_length hall
  have ha (hw : w ∈ columnsRead w m0 m1) : (xorBytes (columnOf cs w) (parityP len (cs.filter fun c => decide (c.1 < w)))).length = len := by
    rw [Laws.xorBytes_length, columnOf_length h (hread ▸ hw), parityP_length hdata, max_self]
  have hb (hw : w + 1 ∈ columnsRead w m0 m1) :
      (xorBytes (columnOf cs (w + 1)) (parityQ len (cs.filter fun c => decide (c.1 < w)))).length = len := by
    rw [Laws.xorBytes_length, columnOf_length h (hread ▸ hw), parityQ_length hdata, max_self]
  unfold recoverColumns
  dsimp only
  by_cases hp : w ≤ m0
  · rw [if_pos hp]
    by_cases hone : m1 = 255
    · simpa [ColumnsOf, hone] using hparity m0 hdata
    · simpa [ColumnsOf, hone] using ⟨hparity m0 hdata, hparity m1 hdata⟩
  · rw [if_neg hp]
    by_cases hboth : m1 < w
    · have hA := ha (by simp [columnsRead, hp, hboth])
      have hB := hb (by simp [columnsRead, hp, hboth])
      rw [if_pos hboth]
      simp only [columnOf] at hA hB
      simp [ColumnsOf, colScale_length, Laws.xorBytes_length, hA, hB]
    · rw [if_neg hboth]
      have hdx : (if m1 = w then colScale (gInv m0) (xorBytes (columnOf cs (w + 1)) (parityQ len (cs.filter fun c => decide (c.1 < w))))
          else xorBytes (columnOf cs w) (parityP len (cs.filter fun c => decide (c.1 < w)))).length = len := by
        by_cases hq : m1 = w
        · rw [if_pos hq, colScale_length, hb (by simp [columnsRead, hp, hq])]
        · rw [if_neg hq, ha (by simp [columnsRead, hp, hboth, hq])]
      have hall : ColumnsOf len ((m0, if m1 = w then colScale (gInv m0) (xorBytes (columnOf cs (w + 1)) (parityQ len (cs.filter fun c => decide (c.1 < w))))
          else xorBytes (columnOf cs w) (parityP len (cs.filter fun c => decide (c.1 < w)))) :: cs.filter fun c => decide (c.1 < w)) := by
        intro c hc
        rcases List.mem_cons.1 hc with rfl | hc
        · exact hdx
        · exact hdata c hc
      by_cases hone : m1 = 255
      · simpa [ColumnsOf, hone, columnOf] using hdx
      · simpa [ColumnsOf, hone, columnOf] using ⟨hdx, hparity m1 hall⟩

/-! ### Columns in memory -/

/-- The columns of a row that are read, by number. -/
def columnsAt (addrs : List Nat) (len : Nat) (d : Dev) (l : List Nat) : List (Nat × Bytes) :=
  l.map fun c => (c, memRead d (addrs.getD c 0) len)

theorem columnsAt_length (addrs : List Nat) (len : Nat) (d : Dev) (l : List Nat) : ColumnsOf len (columnsAt addrs len d l) := by
  intro c hc
  obtain ⟨x, -, rfl⟩ := List.mem_map.1 hc
  exact memRead_length ..

theorem columnsAt_numbers (addrs : List Nat) (len : Nat) (d : Dev) (l : List Nat) : (columnsAt addrs len d l).map (·.1) = l := by
  rw [columnsAt, List.map_map]
  exact List.map_id l

/-- A clean row's columns are read whole. -/
theorem readColumns_clean {d : Dev} (h : Unsealed d) (hflips : d.fab.flips = []) (hpoison : d.fab.poison = []) (addrs : List Nat) (len : Nat)
    (l : List Nat) : readColumns addrs len l d = (columnsAt addrs len d l, false, d) := by
  induction l with
  | nil => rfl
  | cons c cs ih =>
    simp only [readColumns, laneRead_of_unsealed h hflips, rangePoisoned_of_unpoisoned hpoison, ih]
    rfl

/-- Columns stored at their buffers. -/
def storeColumns (addrs : List Nat) (l : List (Nat × Bytes)) (d : Dev) : Dev := l.foldl (fun d c => storeMem (addrs.getD c.1 0) c.2 d) d

theorem foldl_laneWrite {d : Dev} (h : Unsealed d) (addrs : List Nat) (l : List (Nat × Bytes)) :
    l.foldl (fun d c => laneWrite 5 (addrs.getD c.1 0) c.2 d) d = storeColumns addrs l d := by
  induction l generalizing d with
  | nil => rfl
  | cons c cs ih =>
    rw [List.foldl_cons, laneWrite_of_unsealed h]
    exact ih (d := storeMem (addrs.getD c.1 0) c.2 d) (Unsealed.storeMem h (addrs.getD c.1 0) c.2)

theorem jobHeld_storeColumns (k : Nat) (addrs : List Nat) (l : List (Nat × Bytes)) (d : Dev) :
    jobHeld k (storeColumns addrs l d) = jobHeld k d := by
  induction l generalizing d with
  | nil => rfl
  | cons c cs ih => exact (ih _).trans (jobHeld_storeMem ..)

/-- A range that no stored column meets is kept. -/
theorem memRead_storeColumns_apart {addrs : List Nat} {len a n : Nat} {l : List (Nat × Bytes)} (hlen : ColumnsOf len l)
    (hapart : ∀ c ∈ l, rangesApart a n (addrs.getD c.1 0) len) (d : Dev) : memRead (storeColumns addrs l d) a n = memRead d a n := by
  induction l generalizing d with
  | nil => rfl
  | cons c cs ih =>
    have hhead := hapart c List.mem_cons_self
    rw [← hlen c List.mem_cons_self] at hhead
    exact (ih (fun x hx => hlen x (List.mem_cons_of_mem _ hx)) (fun x hx => hapart x (List.mem_cons_of_mem _ hx)) _).trans
      (memRead_storeMem_apart hhead d)

/-- Each of some columns stored apart from one another reads back. -/
theorem memRead_storeColumns {addrs : List Nat} {len : Nat} {l : List (Nat × Bytes)} (hlen : ColumnsOf len l)
    (hapart : l.Pairwise fun x y => rangesApart (addrs.getD x.1 0) len (addrs.getD y.1 0) len) {c : Nat × Bytes} (hc : c ∈ l) (d : Dev) :
    memRead (storeColumns addrs l d) (addrs.getD c.1 0) len = c.2 := by
  induction l generalizing d with
  | nil => cases hc
  | cons x xs ih =>
    obtain ⟨hx, hxs⟩ := List.pairwise_cons.1 hapart
    have hrest : ColumnsOf len xs := fun y hy => hlen y (List.mem_cons_of_mem _ hy)
    rcases List.mem_cons.1 hc with rfl | hc
    · refine (memRead_storeColumns_apart hrest hx _).trans ?_
      have hstored := memRead_storeMem (addrs.getD c.1 0) c.2 d
      rwa [hlen c List.mem_cons_self] at hstored
    · exact ih hrest hxs hc _

/-! ### A lane's job -/

/-- A lane holds an erasure descriptor of an OP that stands the checks, and memory is clean and unsealed. -/
structure CleanErasure (op n r i : Nat) (d : Dev) : Prop where
  holds : laneHolds 5 n r i d
  kind : ersKind (descBytes 5 r i d) = op
  unsealed : Unsealed d
  unpoisoned : d.fab.poison = []
  unflipped : d.fab.flips = []
  ok : ersOk (descBytes 5 r i d) d = true

theorem CleanErasure.quiet {op n r i : Nat} {d : Dev} (h : CleanErasure op n r i d) : CleanErasure op n r i d.quiet :=
  ⟨h.holds, h.kind, h.unsealed, h.unpoisoned, h.unflipped, h.ok⟩

/-- The columns that a job of an OP reads. -/
def ersReads (op : Nat) (b : Bytes) : List Nat :=
  match op with
  | 1 => List.range (fld b 1 1)
  | 2 => columnsRead (fld b 1 1) (fld b 2 1) (fld b 3 1)
  | _ => List.range (fld b 1 1 + 2)

/-- The row's columns that a lane's job reads. -/
def ersInput (op r i : Nat) (d : Dev) : List (Nat × Bytes) :=
  columnsAt (ersColumns (descBytes 5 r i d) d) (fld (descBytes 5 r i d) 4 4) d (ersReads op (descBytes 5 r i d))

theorem runErasure_refused {op n r i : Nat} {d : Dev} (hholds : laneHolds 5 n r i d) (hkind : ersKind (descBytes 5 r i d) = op)
    (hbad : ersOk (descBytes 5 r i d) d = false) (cut self : Bool) :
    EndsIn 5 n 5 0x80 (bump Reg.ERS_ERR_MALFORMED d) (runErasure op n cut self d) := by
  refine ⟨0, 0, 0, ?_⟩
  rw [runErasure, withJob_of_holds hholds, if_neg (not_not_intro hkind), if_pos (by rw [hbad]; rfl)]

/-- What a clean job comes to: cut off, or run. -/
theorem runErasure_clean {op n r i : Nat} {d : Dev} (h : CleanErasure op n r i d) (cut : Bool) : runErasure op n cut false d =
    if cut then
      let x := abandon 5 (descBytes 5 r i d) ((ersInput op r i d).length * fld (descBytes 5 r i d) 4 4) d
      endJob 5 n 5 0x20 (counts x.1.1 x.1.2 0) (ersErr 0x20 x.2)
    else erasureJob n (descBytes 5 r i d) (ersColumns (descBytes 5 r i d) d) (ersInput op r i d) d := by
  rw [runErasure, withJob_of_holds h.holds, if_neg (not_not_intro h.kind), if_neg (by rw [h.ok]; exact Bool.false_ne_true)]
  simp only [takeLaneInj_of_holds h.holds, readColumns_clean h.unsealed h.unflipped h.unpoisoned]
  cases cut <;> rfl

theorem jobHeld_abandon_erasure {d : Dev} (h : Unsealed d) (b : Bytes) (most : Nat) : jobHeld 5 (abandon 5 b most d).2 = jobHeld 5 d := by
  have hzeroise (A Z : Nat × Nat → Nat) (l : List (Nat × Nat)) (e : Dev) (he : Unsealed e) :
      jobHeld 5 (l.foldl (fun d c => zeroise 5 (A c) (Z c) d) e) = jobHeld 5 e := by
    induction l generalizing e with
    | nil => rfl
    | cons c cs ih =>
      rw [List.foldl_cons, ih _ (by rw [zeroise, laneWrite_of_unsealed he]; exact fun k => Unsealed.storeMem he (A c) (List.replicate (Z c) 0) k), jobHeld_zeroise he]
  exact hzeroise _ _ _ (drawUpTo ((ersOuts b).length * fld b 4 4) (drawUpTo most d).2).2 h

/-- A clean descriptor's OP is the one it runs as. -/
theorem ersOp_eq {b : Bytes} {d : Dev} (h : ersOk b d = true) : fld b 0 1 = ersKind b ∧ 8 ≤ fld b 1 1 ∧ fld b 1 1 ≤ 22 := by
  simp only [ersOk, Bool.and_eq_true, decide_eq_true_eq] at h
  obtain ⟨⟨⟨⟨⟨⟨⟨⟨⟨⟨⟨⟨hlow, hhigh⟩, hwlow⟩, hwhigh⟩, -⟩, -⟩, -⟩, -⟩, -⟩, -⟩, -⟩, -⟩, -⟩ := h
  refine ⟨?_, hwlow, hwhigh⟩
  unfold ersKind
  split <;> omega

/-- What a GEN or a REBUILD job writes. -/
def erasureOut (op : Nat) (b : Bytes) (cols : List (Nat × Bytes)) : Option (List (Nat × Bytes)) :=
  match op with
  | 1 => some [(fld b 1 1, parityP (fld b 4 4) cols), (fld b 1 1 + 1, parityQ (fld b 4 4) cols)]
  | 2 => some (recoverColumns (fld b 1 1) (fld b 2 1) (fld b 3 1) (fld b 4 4) cols)
  | _ => none

theorem erasureJob_writes {op n : Nat} {b : Bytes} {d : Dev} (h : Unsealed d) (hop : fld b 0 1 = op) {cols out : List (Nat × Bytes)}
    (hout : erasureOut op b cols = some out) (addrs : List Nat) (inB : Nat) (hin : inB = cols.length * fld b 4 4) :
    erasureJob n b addrs cols d = endJob 5 n 1 0 (counts inB (out.length * fld b 4 4) 0) (storeColumns addrs out d) := by
  subst hin
  unfold erasureOut at hout
  simp only [erasureJob, hop, foldl_laneWrite h]
  split at hout
  · cases hout
    rfl
  · cases hout
    rfl
  · cases hout

theorem erasureJob_verifies {n : Nat} {b : Bytes} {d : Dev} (hop : fld b 0 1 = 3) (addrs : List Nat) (cols : List (Nat × Bytes)) :
    erasureJob n b addrs cols d =
      if ersMismatch (fld b 1 1) (fld b 4 4) cols = 0 then endJob 5 n 1 0 (counts (cols.length * fld b 4 4) 0 0) d
      else endJob 5 n 6 0 (counts (cols.length * fld b 4 4) 0 (ersMismatch (fld b 1 1) (fld b 4 4) cols)) (bump Reg.ERS_CNT_VERIFY_FAIL d) := by
  simp only [erasureJob, hop]

section erasure

variable {c : Instr} {s : State} {op : Nat} {n : Fin 4} {r i : Nat}

theorem erasure_answers_refused {cut : Bool} (hx : exec c s = runLive (runErasure op n cut false) s) (hready : s.ready)
    (hholds : laneHolds 5 n r i s.dev) (hkind : ersKind (descBytes 5 r i s.dev) = op)
    (hbad : ersOk (descBytes 5 r i s.dev) s.dev = false) : Answers c s fun d => JobEnded 5 r i 5 0x80 s.dev d :=
  answers_endJob hx hready (job_of_holds hholds) (runErasure_refused (d := s.dev.quiet) hholds hkind hbad cut false)
    (jobHeld_bump (by decide) _) (by decide) (by decide) fun _ hg => hg.ended

theorem erasure_answers_cut (hx : exec c s = runLive (runErasure op n true false) s) (hready : s.ready)
    (h : CleanErasure op n r i s.dev) : Answers c s fun d => JobEnded 5 r i 5 0x20 s.dev d := by
  have hrun := runErasure_clean h.quiet true
  rw [if_pos rfl] at hrun
  exact answers_endJob hx hready (job_of_holds h.holds) ⟨_, _, _, hrun⟩
    ((jobHeld_bump (f := Reg.ERS_ERR_CUT) (by decide) _).trans (jobHeld_abandon_erasure h.quiet.unsealed ..)) (by decide) (by decide)
    fun _ hg => hg.ended

/-- A job that writes columns of the row's length, apart from one another and from the descriptor, ends OK with each in its buffer. -/
theorem erasure_answers_written {out : List (Nat × Bytes)} (hx : exec c s = runLive (runErasure op n false false) s)
    (hready : s.ready) (h : CleanErasure op n r i s.dev) (hout : erasureOut op (descBytes 5 r i s.dev) (ersInput op r i s.dev) = some out)
    (hlen : ColumnsOf (fld (descBytes 5 r i s.dev) 4 4) out)
    (hapart : out.Pairwise fun x y => rangesApart ((ersColumns (descBytes 5 r i s.dev) s.dev).getD x.1 0) (fld (descBytes 5 r i s.dev) 4 4)
      ((ersColumns (descBytes 5 r i s.dev) s.dev).getD y.1 0) (fld (descBytes 5 r i s.dev) 4 4))
    (haway : ∀ x ∈ out, rangesApart ((ersColumns (descBytes 5 r i s.dev) s.dev).getD x.1 0) (fld (descBytes 5 r i s.dev) 4 4)
      (descAddr 5 r i s.dev) 64) :
    Answers c s fun d => JobEnded 5 r i 1 0 s.dev d ∧
      ∀ x ∈ out, memRead d ((ersColumns (descBytes 5 r i s.dev) s.dev).getD x.1 0) (fld (descBytes 5 r i s.dev) 4 4) = x.2 := by
  have hrun : runErasure op n false false s.dev.quiet = _ := (runErasure_clean h.quiet false).trans
    ((if_neg Bool.false_ne_true).trans (erasureJob_writes (d := s.dev.quiet) h.unsealed ((ersOp_eq h.ok).1.trans h.kind) hout _ _ rfl))
  exact answers_endJob hx hready (job_of_holds h.holds) ⟨_, _, _, hrun⟩ (jobHeld_storeColumns ..) (by decide) (by decide)
    fun g hg => ⟨hg.ended, fun x hx => (hg.read _ _ (haway x hx)).trans (memRead_storeColumns hlen hapart hx _)⟩

/-- A VERIFY job ends as its columns agree, and writes nothing. -/
theorem erasure_answers_verified {op : Nat} {n : Fin 4} (hx : exec c s = runLive (runErasure op n false false) s) (hready : s.ready)
    (h : CleanErasure op n r i s.dev) (hop : op = 3) :
    Answers c s fun d => if ersMismatch (fld (descBytes 5 r i s.dev) 1 1) (fld (descBytes 5 r i s.dev) 4 4) (ersInput op r i s.dev) = 0
      then JobEnded 5 r i 1 0 s.dev d else JobEnded 5 r i 6 0 s.dev d := by
  have hrun : runErasure op n false false s.dev.quiet = _ := (runErasure_clean h.quiet false).trans
    ((if_neg Bool.false_ne_true).trans (erasureJob_verifies (d := s.dev.quiet) ((ersOp_eq h.ok).1.trans (h.kind.trans hop)) _ _))
  have hinput : ersInput op r i s.dev.quiet = ersInput op r i s.dev := rfl
  rw [hinput] at hrun
  by_cases hagree : ersMismatch (fld (descBytes 5 r i s.dev) 1 1) (fld (descBytes 5 r i s.dev) 4 4) (ersInput op r i s.dev) = 0
  · have hagree' : ersMismatch (fld (descBytes 5 r i s.dev.quiet) 1 1) (fld (descBytes 5 r i s.dev.quiet) 4 4) (ersInput op r i s.dev) = 0 := hagree
    simp only [if_pos hagree]
    exact answers_endJob hx hready (job_of_holds h.holds) ⟨_, _, _, hrun.trans (if_pos hagree')⟩ rfl (by decide) (by decide)
      fun _ hg => hg.ended
  · have hagree' : ¬ ersMismatch (fld (descBytes 5 r i s.dev.quiet) 1 1) (fld (descBytes 5 r i s.dev.quiet) 4 4) (ersInput op r i s.dev) = 0 := hagree
    simp only [if_neg hagree]
    exact answers_endJob hx hready (job_of_holds h.holds) ⟨_, _, _, hrun.trans (if_neg hagree')⟩ (jobHeld_bump (by decide) _)
      (by decide) (by decide) fun _ hg => hg.ended

end erasure

/-- Each command of the erasure engine runs the job of its OP. -/
theorem exec_erasure {n : Fin 4} {cut : Bool} {p : Nat × Instr}
    (hp : p ∈ [(1, Instr.erasureGen n cut false), (2, .erasureRebuild n cut false), (3, .erasureVerify n cut false)]) (s : State) :
    exec p.2 s = runLive (runErasure p.1 n cut false) s := by
  simp only [List.mem_cons, List.not_mem_nil, or_false] at hp
  rcases hp with rfl | rfl | rfl
  · exact Eq.refl (execErasureGen n cut false s)
  · exact Eq.refl (execErasureRebuild n cut false s)
  · exact Eq.refl (execErasureVerify n cut false s)

/-- Settles O32: a job is refused, cut off, or comes to its OP's end; the columns that GEN and REBUILD write are read back. -/
theorem erasureJobsEnd : Obligations.ErasureJobsEnd := by
  intro s n r i hready hholds b w len m0 m1 addrs cols commands plain away
  have clean {op : Nat} (hkind : ersKind b = op) (hplain : plain) : CleanErasure op n r i s.dev := by
    obtain ⟨hunsealed, hpoison, hflips, hok⟩ := hplain
    exact ⟨hholds, hkind, hunsealed, hpoison, hflips, hok⟩
  have hcols (l : List Nat) : ColumnsOf len (cols l) := columnsAt_length addrs len s.dev l
  refine ⟨fun p hp hkind hbad => ?_, fun p hp hkind hplain => ?_, fun hkind hplain hawayP hawayQ hpq => ?_,
    fun hkind hplain haway0 hsecond => ?_, fun hkind hplain => ?_⟩
  · exact erasure_answers_refused (exec_erasure hp s) hready hholds hkind hbad
  · exact erasure_answers_cut (exec_erasure hp s) hready (clean hkind hplain)
  · refine answers_imp (erasure_answers_written (exec_erasure (p := (1, _)) (by simp) s) hready (clean hkind hplain) rfl ?_ ?_ ?_)
      fun d ⟨hended, hread⟩ => ⟨hended, hread _ (List.mem_cons_self ..), hread _ (List.mem_cons_of_mem _ (List.mem_cons_self ..))⟩
    · exact List.forall_mem_cons.2 ⟨parityP_length (hcols _), List.forall_mem_singleton.2 (parityQ_length (hcols _))⟩
    · exact List.pairwise_pair.2 hpq
    · exact List.forall_mem_cons.2 ⟨hawayP, List.forall_mem_singleton.2 hawayQ⟩
  · have h := clean hkind hplain
    obtain ⟨-, -, hwidth⟩ := ersOp_eq h.ok
    have hnumbers : (recoverColumns w m0 m1 len (cols (columnsRead w m0 m1))).map (·.1) = m0 :: (if m1 = 255 then [] else [m1]) :=
      recoverColumns_numbers (Nat.lt_of_le_of_lt hwidth (by decide)) len _
    have hapart : (m0 :: (if m1 = 255 then [] else [m1])).Pairwise fun x y => rangesApart (addrs.getD x 0) len (addrs.getD y 0) len := by
      split
      · exact List.pairwise_singleton ..
      · exact List.pairwise_pair.2 (hsecond ‹_›).2
    have haway : ∀ x ∈ m0 :: (if m1 = 255 then [] else [m1]), away x := by
      split
      · exact List.forall_mem_singleton.2 haway0
      · exact List.forall_mem_cons.2 ⟨haway0, List.forall_mem_singleton.2 (hsecond ‹_›).1⟩
    rw [← hnumbers] at hapart haway
    exact erasure_answers_written (exec_erasure (p := (2, _)) (by simp) s) hready h rfl
      (recoverColumns_length (hcols _) (columnsAt_numbers ..)) (List.pairwise_map.1 hapart)
      fun x hx => haway _ (List.mem_map_of_mem hx)
  · have hinput : cols (List.range (w + 2)) = ersInput 3 r i s.dev := rfl
    rw [hinput]
    exact erasure_answers_verified (exec_erasure (p := (3, _)) (by simp) s) hready (clean hkind hplain) rfl

end Sys2Proof.Proofs

/-!
PROOFS. O15: the Xqsto instructions of a core that may run them. Each comes to one retirement, behind the effect of its own.
-/

namespace Sys2Proof.Proofs

open Sys2Proof Sys2Proof.Machine

/-! ### A retirement -/

/-- A core whose results are kept writes no more than the engines and the King pair. -/
theorem setCore_eq {e : Nat} {d : Dev} (h : coreKeeps e d) (c : Core) :
    ∃ engines king, setCore e c d = { d with engines := engines, king := king } := by
  by_cases he : e < 64
  · exact ⟨_, d.king, setCore_engine he c d⟩
  · obtain ⟨-, hinj⟩ := h.resolve_left he
    have hunit (u : Nat) (d : Dev) : ∃ king, writeUnit c u d = { d with king := king } := by
      unfold writeUnit
      split
      · exact ⟨d.king, rfl⟩
      · exact ⟨_, rfl⟩
    rw [setCore_king he, spendKingInj_of_unarmed (by simpa using hinj)]
    obtain ⟨king0, h0⟩ := hunit 0 d
    obtain ⟨king1, h1⟩ := hunit 1 { d with king := king0 }
    exact ⟨d.engines, king1, by rw [h0, h1]⟩

/-- A write of a core keeps its results kept. -/
theorem coreKeeps_setCore {e : Nat} {d : Dev} (h : coreKeeps e d) (c : Core) : coreKeeps e (setCore e c d) := by
  by_cases he : e < 64
  · exact .inl he
  · obtain ⟨hquar, hinj⟩ := h.resolve_left he
    have hunit (u v : Nat) (d : Dev) : (tget {} (writeUnit c u d).king.units v).quar = (tget {} d.king.units v).quar := by
      unfold writeUnit
      split
      · rfl
      · rw [tget_tmod]
        split
        · next hsame => rw [hsame]
        · rfl
    rw [setCore_king he, spendKingInj_of_unarmed (by simpa using hinj)]
    refine .inr ⟨?_, by simpa using hinj⟩
    rw [hunit, hunit, activeUnit_writeUnit, activeUnit_writeUnit, hquar]

/-- What an instruction's retirement on a state `d` leaves. -/
structure Retired (e rdN v : Nat) (d g : Dev) : Prop where
  core : getCore e g = (getCore e d).retire 4 rdN (BitVec.ofNat 64 v)
  status : Out.status v ∈ g.out
  taskRings : g.taskRings = d.taskRings
  fiu : g.fiu = d.fiu
  pwr : g.pwr = d.pwr

theorem qRetire_todo {e : Nat} {d : Dev} (h : coreKeeps e d) (rdN v : Nat) : (qRetire e rdN v d).todo = d.todo := by
  obtain ⟨engines, king, hset⟩ := setCore_eq h ((getCore e d).retire 4 rdN (BitVec.ofNat 64 v))
  rw [qRetire, hset]
  rfl

theorem retired_of_ended {e rdN v : Nat} {d g : Dev} (h : coreKeeps e d) (hg : EndedFrom (qRetire e rdN v d) g) : Retired e rdN v d g := by
  have hcore : getCore e (qRetire e rdN v d) = (getCore e d).retire 4 rdN (BitVec.ofNat 64 v) := getCore_setCore h _
  obtain ⟨engines, king, hset⟩ := setCore_eq h ((getCore e d).retire 4 rdN (BitVec.ofNat 64 v))
  have heffect : qRetire e rdN v d = send (.status v) { d with engines := engines, king := king } := by rw [qRetire, hset]
  refine ⟨(getCore_ended hg e).trans hcore, hg.mem_out (List.mem_append_right _ (List.mem_singleton_self _)), ?_, ?_, ?_⟩
  · rw [hg.taskRings, heffect]
    rfl
  · rw [hg.fiu, heffect]
    rfl
  · rw [hg.pwr, heffect]
    rfl

/-- An effect before the retirement moves no core and owes no reaction. -/
structure SameCore (e : Nat) (d d' : Dev) : Prop where
  engines : d'.engines = d.engines
  king : d'.king = d.king
  active : e < 64 ∨ activeUnit d' = activeUnit d
  todo : d'.todo = d.todo

theorem SameCore.getCore {e : Nat} {d d' : Dev} (h : SameCore e d d') : getCore e d' = getCore e d := by
  obtain ⟨hengines, hking, hactive, -⟩ := h
  unfold Machine.getCore getEngine
  rw [hengines, hking]
  obtain he | hactive := hactive
  · rw [if_pos he, if_pos he]
  · rw [hactive]

theorem SameCore.keeps {e : Nat} {d d' : Dev} (h : SameCore e d d') (hd : coreKeeps e d) : coreKeeps e d' := by
  obtain ⟨-, hking, hactive, -⟩ := h
  obtain he | hactive := hactive
  · exact .inl he
  · rwa [coreKeeps, hking, hactive]

theorem SameCore.refl (e : Nat) (d : Dev) : SameCore e d d := ⟨rfl, rfl, .inr rfl, rfl⟩

theorem SameCore.quiet (e : Nat) (d : Dev) : SameCore e d d.quiet := ⟨rfl, rfl, .inr rfl, rfl⟩

theorem SameCore.trans {e : Nat} {a b c : Dev} (h : SameCore e a b) (h' : SameCore e b c) : SameCore e a c :=
  ⟨h'.engines.trans h.engines, h'.king.trans h.king, h.active.elim .inl fun hab => h'.active.imp_right (·.trans hab), h'.todo.trans h.todo⟩

theorem sameCore_beginWake (e r n : Nat) (d : Dev) : SameCore e d (beginWake r n d) := by
  refine ⟨?_, ?_, .inr (rd_wr_off ?_ 5 _), ?_⟩
  · simp [beginWake, modRegion]
  · simp [beginWake, modRegion]
  · simp only [Reg.GLB_KING_ACTIVE, Reg.PWR_LVL_ASTATE]
    omega
  · simp [beginWake, modRegion]

theorem sameCore_wakeForWork (e r : Nat) (d : Dev) : SameCore e d (wakeForWork r d) := by
  unfold wakeForWork
  split
  · exact sameCore_beginWake ..
  · exact ⟨rfl, rfl, .inr rfl, rfl⟩

theorem wakeForWork_kept (r : Nat) (d : Dev) : (wakeForWork r d).taskRings = d.taskRings ∧ (wakeForWork r d).fiu = d.fiu := by
  unfold wakeForWork
  split <;> simp [beginWake, modRegion]

section retires

variable {c : Instr} {s : State} {e f3 insn rdN v : Nat} {f : Dev → Dev} {P : Dev → Prop}

/-- An instruction of a core that may run it, whose effect is a retirement, answers with what it leaves. -/
theorem answers_of_qRetire {d' : Dev} (hx : exec c s = runLive (qGuard e f3 insn f) s) (hready : s.ready) (hrun : mayRun e f3 s.dev)
    (heffect : f s.dev.quiet = qRetire e rdN v d') (hkeeps : coreKeeps e d') (hkept : d'.todo = s.dev.todo)
    (hp : ∀ g, Retired e rdN v d' g → P g) : Answers c s P := by
  obtain ⟨hlive, htodo⟩ := hready
  have hguard : qGuard e f3 insn f s.dev.quiet = qRetire e rdN v d' := (qGuard_of_mayRun (d := s.dev.quiet) hrun insn f).trans heffect
  refine answers_live hx hlive ?_ fun g hg => ?_
  · rw [hguard, qRetire_todo hkeeps, hkept]
    exact htodo
  · rw [hguard] at hg
    exact hp g (retired_of_ended hkeeps hg)

theorem answers_retired {d' : Dev} (hx : exec c s = runLive (qGuard e f3 insn f) s) (hready : s.ready) (hkeeps : coreKeeps e s.dev)
    (hrun : mayRun e f3 s.dev) (heffect : f s.dev.quiet = qRetire e rdN v d') (hsame : SameCore e s.dev d')
    (hp : ∀ g, Retired e rdN v d' g → P g) : Answers c s P :=
  answers_of_qRetire hx hready hrun heffect (hsame.keeps hkeeps) hsame.todo hp

end retires

theorem Retired.pc {e rdN v : Nat} {d d' g : Dev} (h : Retired e rdN v d' g) (hsame : SameCore e d d') :
    (getCore e g).pc = ((getCore e d).pc + 4) % 2 ^ 64 := by
  rw [h.core, hsame.getCore]
  rfl

/-! ### QDOOR (R103) -/

theorem sameCore_setProd {e target : Nat} (h : e < 64 ∨ target = 15) (ring v : Nat) (d : Dev) : SameCore e d (setProd target ring v d) := by
  obtain he | rfl := h
  · unfold setProd
    dsimp only
    split
    all_goals exact ⟨rfl, rfl, .inl he, rfl⟩
  · exact ⟨rfl, rfl, .inr rfl, rfl⟩

theorem prod_setProd_task (ring v : Nat) (d : Dev) : (tget {} (setProd 15 ring v d).taskRings ring).prod = v := by
  simp [setProd, tget_tmod]

/-- The King pair rings task rings alone. -/
theorem ringOf_some {e target ring : Nat} {d : Dev} {x : Nat × Nat} (h : ringOf e target ring d = some x) : e < 64 ∨ target = 15 := by
  by_contra hnone
  obtain ⟨he, htarget⟩ := not_or.1 hnone
  unfold ringOf at h
  simp only [he, decide_false, Bool.and_false, Bool.false_and, Bool.false_eq_true, if_false] at h
  split at h
  case h_6 => exact htarget rfl
  all_goals cases h

theorem ringOf_task {ring : Nat} (h : ring < 128) (e : Nat) (d : Dev) : ringOf e 15 ring d = some ((tget {} d.taskRings ring).cons, 64) :=
  if_pos h

/-- QDOOR comes to a retirement, whatever its status. -/
theorem doQdoor_retires (e rdN rs1 rs2 : Nat) (cut : Bool) (d : Dev) :
    ∃ v d', doQdoor e rdN rs1 rs2 cut d = qRetire e rdN v d' ∧ SameCore e d d' := by
  unfold doQdoor
  dsimp only
  split
  · exact ⟨3, d, rfl, .refl e d⟩
  · split
    · exact ⟨1, d, rfl, .refl e d⟩
    · next cons size hring =>
      split
      · exact ⟨2, d, rfl, .refl e d⟩
      · exact ⟨0, _, rfl, (sameCore_setProd (ringOf_some hring) ..).trans (sameCore_wakeForWork ..)⟩

/-- A task ring's doorbell. -/
theorem doQdoor_task {e rs1 rs2 a v : Nat} {d : Dev} (ha : ((getCore e d).get rs1).toNat = a)
    (hv : ((getCore e d).get rs2).toNat % 65536 = v) (htarget : a % 16 = 15) (hring : a / 256 % 256 < 128) (rdN : Nat) :
    doQdoor e rdN rs1 rs2 false d =
      if 64 < (v + 65536 - (tget {} d.taskRings (a / 256 % 256)).cons) % 65536 then qRetire e rdN 2 d
      else qRetire e rdN 0 (wakeForWork (doorRegion 15 (a / 256 % 256)) (setProd 15 (a / 256 % 256) v d)) := by
  simp only [doQdoor, ha, hv, htarget, ringOf_task hring, Bool.false_eq_true, if_false, gt_iff_lt]

theorem SameCore.storeNat (e a n v : Nat) (d : Dev) : SameCore e d (storeNat a n v d) := by
  refine ⟨?_, storeNat_king .., .inr (activeUnit_storeNat ..), storeNat_todo ..⟩
  have hinject (len : Nat) (d : Dev) : (injectStore a len d).engines = d.engines := by
    unfold injectStore
    dsimp only
    split
    · split <;> rfl
    · rfl
  exact (hinject ..).trans (memWrite_engines ..)

theorem SameCore.bump {f : Field} (h : Reg.GLB_KING_ACTIVE.off ≠ f.off) (e : Nat) (d : Dev) : SameCore e d (bump f d) :=
  ⟨bumpBy_engines .., bumpBy_king .., .inr (rd_bump_off h d), bump_todo ..⟩

/-- An FIU that is not enabled answers at once. -/
theorem doQprobe_off {e : Nat} {d : Dev} (hoff : ¬fiuOn d = true) (rdN rs1 : Nat) (full : Bool) :
    ∃ v d', doQprobe e rdN rs1 full d = qRetire e rdN v d' ∧ SameCore e d d' ∧
      (probeBlock ((getCore e d).get rs1).toNat = none → v = 2) := by
  unfold doQprobe
  split
  · exact ⟨2, d, rfl, .refl e d, fun _ => rfl⟩
  · next b hb =>
    rw [if_pos (by simpa using hoff)]
    refine ⟨0, probeUnavailable b 0 d, rfl, ?_, fun h => nomatch h.symm.trans hb⟩
    exact (((SameCore.storeNat ..).trans (.storeNat ..)).trans (.storeNat ..)).trans ((SameCore.bump (by decide) ..).trans (.storeNat ..))

section answers

variable {s : State} {e : Fin 65} (hready : s.ready) (hkeeps : coreKeeps e s.dev)

include hready hkeeps

theorem qdoor_answers {a v ahead : Nat} (x rs1 rs2 : Fin 32) (cut : Bool) (hrun : mayRun e 0 s.dev)
    (ha : ((getCore e s.dev).get rs1).toNat = a) (hv : ((getCore e s.dev).get rs2).toNat % 65536 = v)
    (hahead : (v + 65536 - (tget {} s.dev.taskRings (a / 256 % 256)).cons) % 65536 = ahead) :
    Answers (.qdoor e x rs1 rs2 cut) s fun d =>
    (getCore e d).pc = ((getCore e s.dev).pc + 4) % 2 ^ 64 ∧ (cut = true → Out.status 3 ∈ d.out) ∧
    (cut = false → a % 16 = 15 → a / 256 % 256 < 128 →
      (64 < ahead → Out.status 2 ∈ d.out) ∧
      (ahead ≤ 64 → Out.status 0 ∈ d.out ∧ (tget {} d.taskRings (a / 256 % 256)).prod = v)) := by
  subst hahead
  have hx : exec (.qdoor e x rs1 rs2 cut) s = runLive (qGuard e 0 (qInsn 0 rs2 rs1 0 x) (doQdoor e x rs1 rs2 cut)) s := rfl
  have hquiet := SameCore.quiet e s.dev
  cases cut with
  | true => exact answers_retired hx hready hkeeps hrun rfl hquiet fun g hg => ⟨hg.pc hquiet, fun _ => hg.status, fun h => nomatch h⟩
  | false =>
    by_cases htask : a % 16 = 15 ∧ a / 256 % 256 < 128
    · have heffect := doQdoor_task (d := s.dev.quiet) ha hv htask.1 htask.2 x
      by_cases hahead : 64 < (v + 65536 - (tget {} s.dev.taskRings (a / 256 % 256)).cons) % 65536
      · exact answers_retired hx hready hkeeps hrun (heffect.trans (if_pos hahead)) hquiet fun g hg =>
          ⟨hg.pc hquiet, fun h => (nomatch h), fun _ _ _ => ⟨fun _ => hg.status, fun h => absurd hahead (Nat.not_lt.2 h)⟩⟩
      · have hsame := hquiet.trans ((sameCore_setProd (e := e) (.inr rfl) (a / 256 % 256) v s.dev.quiet).trans
          (sameCore_wakeForWork e (doorRegion 15 (a / 256 % 256)) _))
        refine answers_retired hx hready hkeeps hrun (heffect.trans (if_neg hahead)) hsame fun g hg =>
          ⟨hg.pc hsame, fun h => (nomatch h), fun _ _ _ => ⟨fun h => absurd h hahead, fun _ => ⟨hg.status, ?_⟩⟩⟩
        rw [hg.taskRings, (wakeForWork_kept ..).1]
        exact prod_setProd_task ..
    · obtain ⟨w, d', heffect, hsame⟩ := doQdoor_retires e x rs1 rs2 false s.dev.quiet
      exact answers_retired hx hready hkeeps hrun heffect (hquiet.trans hsame) fun g hg =>
        ⟨hg.pc (hquiet.trans hsame), fun h => (nomatch h), fun _ h h' => absurd ⟨h, h'⟩ htask⟩

/-! ### QPROBE (R104) -/

theorem qprobe_answers (x rs1 : Fin 32) (full : Bool) (hrun : mayRun e 1 s.dev) : Answers (.qprobe e x rs1 full) s fun d =>
    (getCore e d).pc = ((getCore e s.dev).pc + 4) % 2 ^ 64 ∧
    (probeBlock ((getCore e s.dev).get rs1).toNat = none → Out.status 2 ∈ d.out) ∧
    (∀ b, probeBlock ((getCore e s.dev).get rs1).toNat = some b → fiuOn s.dev = true →
      (full = true → Out.status 1 ∈ d.out) ∧
      (full = false → Out.status 0 ∈ d.out ∧ d.fiu.probes = s.dev.fiu.probes ++ [.block b])) := by
  have hx : exec (.qprobe e x rs1 full) s = runLive (qGuard e 1 (qInsn 0 0 rs1 1 x) (doQprobe e x rs1 full)) s := rfl
  have hquiet := SameCore.quiet e s.dev
  by_cases hon : fiuOn s.dev = true
  · cases hblock : probeBlock ((getCore e s.dev).get rs1).toNat with
    | none =>
      have heffect : doQprobe e x rs1 full s.dev.quiet = qRetire e x 2 s.dev.quiet := by
        have hblock' : probeBlock ((getCore e s.dev.quiet).get rs1).toNat = none := hblock
        simp only [doQprobe, hblock']
      exact answers_retired hx hready hkeeps hrun heffect hquiet fun g hg => ⟨hg.pc hquiet, fun _ => hg.status, fun _ h => nomatch h⟩
    | some b =>
      have hblock' : probeBlock ((getCore e s.dev.quiet).get rs1).toNat = some b := hblock
      have hon' : (!fiuOn s.dev.quiet) = false := by rw [show fiuOn s.dev.quiet = true from hon]; rfl
      cases full with
      | true =>
        have heffect : doQprobe e x rs1 true s.dev.quiet = qRetire e x 1 s.dev.quiet := by
          simp only [doQprobe, hblock', hon', Bool.false_eq_true, if_false, if_true]
        exact answers_retired hx hready hkeeps hrun heffect hquiet fun g hg =>
          ⟨hg.pc hquiet, fun h => (nomatch h), fun _ _ _ => ⟨fun _ => hg.status, fun h => nomatch h⟩⟩
      | false =>
        have heffect : doQprobe e x rs1 false s.dev.quiet =
            qRetire e x 0 (wakeForWork 9 { s.dev.quiet with fiu.probes := s.dev.fiu.probes ++ [.block b] }) := by
          simp only [doQprobe, hblock', hon', Bool.false_eq_true, if_false]
          rfl
        have hqueued : SameCore e s.dev { s.dev.quiet with fiu.probes := s.dev.fiu.probes ++ [.block b] } := ⟨rfl, rfl, .inr rfl, rfl⟩
        have hsame := hqueued.trans (sameCore_wakeForWork e 9 _)
        refine answers_retired hx hready hkeeps hrun heffect hsame fun g hg =>
          ⟨hg.pc hsame, fun h => (nomatch h), fun b' hb' _ => ⟨fun h => (nomatch h), fun _ => ⟨hg.status, ?_⟩⟩⟩
        rw [hg.fiu, (wakeForWork_kept ..).2, ← Option.some.inj hb']
  · obtain ⟨w, d', heffect, hsame, hstatus⟩ := doQprobe_off (e := e) (d := s.dev.quiet) hon x rs1 full
    exact answers_retired hx hready hkeeps hrun heffect (hquiet.trans hsame) fun g hg =>
      ⟨hg.pc (hquiet.trans hsame), fun h => hstatus h ▸ hg.status, fun _ _ h => absurd h hon⟩

/-! ### QCRC64 and QTEMPO (R109, R110) -/

/-- An instruction with nothing before its retirement. -/
theorem answers_result {c : Instr} {f3 insn rdN v : Nat} {f : Dev → Dev} (hx : exec c s = runLive (qGuard e f3 insn f) s)
    (hrun : mayRun e f3 s.dev) (heffect : f s.dev.quiet = qRetire e rdN v s.dev.quiet) :
    Answers c s fun d => getCore e d = (getCore e s.dev).retire 4 rdN (BitVec.ofNat 64 v) :=
  answers_retired hx hready hkeeps hrun heffect (SameCore.quiet e s.dev) fun _ hg => hg.core

omit hready hkeeps in
theorem retire_snapshot (c : Core) (len n : Nat) (v : Word) :
    (c.retire len n v).snapNum = c.snapNum ∧ (c.retire len n v).snapSec = c.snapSec ∧ (c.retire len n v).snapNs = c.snapNs := by
  unfold Core.retire Core.set
  split <;> exact ⟨rfl, rfl, rfl⟩

theorem qtempoSnapshot_answers (x : Fin 32) (cyc : Nat) (hrun : mayRun e 4 s.dev) : Answers (.qtempoSnapshot e x cyc) s fun d =>
    Out.status (tempoNow s.dev) ∈ d.out ∧ (getCore e d).snapNum = tempoNow s.dev ∧
      (getCore e d).snapSec = (timeAt cyc s.dev).1 ∧ (getCore e d).snapNs = (timeAt cyc s.dev).2 := by
  let c : Core := { getCore e s.dev with snapNum := tempoNow s.dev, snapSec := (timeAt cyc s.dev).1, snapNs := (timeAt cyc s.dev).2 }
  have hkeeps' : coreKeeps e s.dev.quiet := hkeeps
  obtain ⟨engines, king, hset⟩ := setCore_eq hkeeps' c
  have hcore : getCore e (setCore e c s.dev.quiet) = c := getCore_setCore hkeeps' c
  have hnumber : tempoNow (setCore e c s.dev.quiet) = tempoNow s.dev := by rw [hset]; rfl
  have heffect : doQtempo e x 0 cyc s.dev.quiet = qRetire e x (tempoNow s.dev) (setCore e c s.dev.quiet) :=
    congrArg (qRetire e x · (setCore e c s.dev.quiet)) hnumber
  refine answers_of_qRetire (f := doQtempo e x 0 cyc) rfl hready hrun heffect (coreKeeps_setCore hkeeps' c) (by rw [hset]; rfl) fun g hg => ?_
  rw [hg.core, hcore]
  exact ⟨hg.status, retire_snapshot ..⟩

/-! ### QPTOK (R111, R112) -/

theorem qptokRequest_answers {v : Nat} (x rs1 : Fin 32) (hrun : mayRun e 5 s.dev) (hv : ((getCore e s.dev).get rs1).toNat = v) :
    Answers (.qptokRequest e x rs1) s fun d =>
      (getCore e d).pc = ((getCore e s.dev).pc + 4) % 2 ^ 64 ∧
      (v % 65536 = 0 → Out.status 0 ∈ d.out ∧ tokPending e d = false) ∧
      (0 < v % 65536 → tokPending e s.dev = true → Out.status 1 ∈ d.out ∧ d.pwr.waiting = s.dev.pwr.waiting) ∧
      (s.dev.pwr.envelope < v % 65536 → tokPending e s.dev = false → Out.status 2 ∈ d.out ∧ tokPending e d = false) ∧
      (0 < v % 65536 → v % 65536 ≤ s.dev.pwr.envelope → tokPending e s.dev = false → 1 ≤ v / 65536 % 16 → v / 65536 % 16 ≤ 4 →
        Out.status 0 ∈ d.out ∧
        d.pwr.waiting = s.dev.pwr.waiting ++ [{ who := .engine e, cls := v / 65536 % 16, cost := v % 65536 }]) := by
  have hx : exec (.qptokRequest e x rs1) s = runLive (qGuard e 5 (qInsn 0 0 rs1 5 x) (doQptok e x rs1)) s := rfl
  have hquiet := SameCore.quiet e s.dev
  have hv' : ((getCore e s.dev.quiet).get rs1).toNat = v := hv
  have hpending (p : Pwr) : tokPending e { s.dev.quiet with pwr := p } = p.waiting.any fun q => q.who == .engine e := rfl
  have hof {d g : Dev} (h : g.pwr = d.pwr) : tokPending e g = tokPending e d := by rw [tokPending, tokPending, h]
  have hqueue (p : Pwr) : SameCore e s.dev { s.dev.quiet with pwr := p } := ⟨rfl, rfl, .inr rfl, rfl⟩
  by_cases hzero : v % 65536 = 0
  · refine answers_retired hx hready hkeeps hrun (by rw [doQptok, hv', if_pos hzero]) (hqueue _) fun g hg => ⟨hg.pc (hqueue _),
      fun _ => ⟨hg.status, (hof hg.pwr).trans ?_⟩, fun h => absurd hzero (by omega), fun h => absurd hzero (by omega),
      fun h => absurd hzero (by omega)⟩
    rw [hpending]
    simp
  · by_cases hpend : tokPending e s.dev = true
    · have heffect : doQptok e x rs1 s.dev.quiet = qRetire e x 1 s.dev.quiet := by
        rw [doQptok, hv', if_neg hzero, if_pos (show tokPending e s.dev.quiet = true from hpend)]
      exact answers_retired hx hready hkeeps hrun heffect hquiet fun g hg => ⟨hg.pc hquiet, fun h => absurd h hzero,
        fun _ _ => ⟨hg.status, congrArg Pwr.waiting hg.pwr⟩, fun _ h => absurd hpend (by simp [h]), fun _ _ h => absurd hpend (by simp [h])⟩
    · have hfree : tokPending e s.dev.quiet = false := Bool.eq_false_iff.2 hpend
      by_cases hfits : v % 65536 ≤ s.dev.pwr.envelope
      · by_cases hclass : 1 ≤ v / 65536 % 16 ∧ v / 65536 % 16 ≤ 4
        · obtain ⟨hlow, hhigh⟩ := hclass
          have heffect : doQptok e x rs1 s.dev.quiet = qRetire e x 0 { s.dev.quiet with
              pwr.waiting := s.dev.pwr.waiting ++ [{ who := .engine e, cls := v / 65536 % 16, cost := v % 65536 }] } := by
            rw [doQptok, hv', if_neg hzero, hfree, if_neg Bool.false_ne_true,
              if_neg (show ¬v % 65536 > s.dev.quiet.pwr.envelope from Nat.not_lt.2 hfits), if_neg (by simp; omega)]
            rfl
          exact answers_retired hx hready hkeeps hrun heffect (hqueue _) fun g hg => ⟨hg.pc (hqueue _), fun h => absurd h hzero,
            fun _ h => absurd h hpend, fun h => absurd hfits (by omega), fun _ _ _ _ _ => ⟨hg.status, congrArg Pwr.waiting hg.pwr⟩⟩
        · have heffect : doQptok e x rs1 s.dev.quiet =
              qRetire e x (drawNat (2 ^ 64) s.dev.quiet).1 (drawNat (2 ^ 64) s.dev.quiet).2 := by
            rw [doQptok, hv', if_neg hzero, hfree, if_neg Bool.false_ne_true,
              if_neg (show ¬v % 65536 > s.dev.quiet.pwr.envelope from Nat.not_lt.2 hfits), if_pos (by simp; omega)]
          have hdrawn : SameCore e s.dev (drawNat (2 ^ 64) s.dev.quiet).2 := ⟨rfl, rfl, .inr rfl, rfl⟩
          exact answers_retired hx hready hkeeps hrun heffect hdrawn fun g hg => ⟨hg.pc hdrawn, fun h => absurd h hzero,
            fun _ h => absurd h hpend, fun h => absurd hfits (by omega), fun _ _ _ hlow hhigh => absurd ⟨hlow, hhigh⟩ hclass⟩
      · have heffect : doQptok e x rs1 s.dev.quiet = qRetire e x 2 s.dev.quiet := by
          rw [doQptok, hv', if_neg hzero, hfree, if_neg Bool.false_ne_true,
            if_pos (show v % 65536 > s.dev.quiet.pwr.envelope from Nat.lt_of_not_le hfits)]
        exact answers_retired hx hready hkeeps hrun heffect hquiet fun g hg => ⟨hg.pc hquiet, fun h => absurd h hzero,
          fun _ h => absurd h hpend, fun _ _ => ⟨hg.status, (hof hg.pwr).trans hfree⟩, fun _ h => absurd h hfits⟩

end answers

/-! ### QYIELD (R113, R114) -/

theorem yieldGuard_of_mayRun {e f3 : Nat} {d : Dev} (h : mayRun e f3 d) (f : Dev → Dev) : yieldGuard e f d = f d := by
  obtain ⟨hruns, -⟩ := h
  have hup : (if e < 64 then engineUp e d else coreRuns e d) = true := by
    split
    · next he =>
      rw [coreRuns, if_pos he, Bool.and_eq_true] at hruns
      exact hruns.2
    · exact hruns
  exact if_pos hup

/-- An engine's slice gone, at a disposition. -/
def yieldEngine (disp : Nat) (sl : Slice) (c : Core) (g : Engine) : Engine :=
  if disp = 0 then { g with core := c, slice := none } else { g with core := c, slice := none, resume := some (sl, c), deferred := true }

theorem doQyield_engine {e disp : Nat} {sl : Slice} {d : Dev} (he : e < 64) (hslice : (getEngine e d).slice = some sl) (hdisp : disp < 2)
    (insn : Nat) : doQyield e disp insn d =
      showEngine e (modEngine e (fun g => if disp = 0 then { g with slice := none }
        else { g with slice := none, resume := some (sl, g.core), deferred := true }) (setCore e ((getCore e d).retire 4 0 0) d)) := by
  rw [doQyield, if_neg (by omega), hslice]
  obtain rfl | rfl : disp = 0 ∨ disp = 1 := by omega
  · rfl
  · rfl

/-- A slice that yields leaves its engine so. -/
theorem yield_answers {c : Instr} {s : State} {e : Fin 65} {sl : Slice} {disp insn : Nat} {P : Dev → Prop}
    (hx : exec c s = runLive (yieldGuard e (doQyield e disp insn)) s) (hready : s.ready) (hrun : mayRun e 6 s.dev) (he : e.val < 64)
    (hslice : (getEngine e s.dev).slice = some sl) (hdisp : disp < 2)
    (hp : ∀ g : Dev, getEngine e g = yieldEngine disp sl ((getCore e s.dev).retire 4 0 0) (getEngine e s.dev) → P g) : Answers c s P := by
  obtain ⟨hlive, htodo⟩ := hready
  have heffect := (yieldGuard_of_mayRun (d := s.dev.quiet) hrun (doQyield e disp insn)).trans
    (doQyield_engine (d := s.dev.quiet) he hslice hdisp insn)
  rw [setCore_engine he] at heffect
  refine answers_live hx hlive (heffect ▸ htodo) fun g hg => hp g ?_
  have hengines := hg.engines
  rw [heffect, showEngine, wr_engines] at hengines
  rw [getEngine, hengines]
  refine (getEngine_modEngine_same ..).trans ?_
  rw [getEngine_modEngine_same, yieldEngine]
  split <;> rfl

/-- Settles O15: each instruction is its effect and a retirement, and neither moves what the other is said to leave. -/
theorem xqstoInstructionsRetire : Obligations.XqstoInstructionsRetire := by
  intro s e hready hkeeps
  refine ⟨fun x rs1 rs2 cut hrun => qdoor_answers hready hkeeps x rs1 rs2 cut hrun rfl rfl rfl,
    fun x rs1 full hrun => qprobe_answers hready hkeeps x rs1 full hrun,
    fun x rs1 rs2 len hrun => answers_result hready hkeeps rfl hrun rfl,
    fun x cyc hrun => ⟨qtempoSnapshot_answers hready hkeeps x cyc hrun, answers_result hready hkeeps rfl hrun rfl,
      answers_result hready hkeeps rfl hrun rfl, answers_result hready hkeeps rfl hrun rfl⟩,
    fun x rs1 hrun => ⟨qptokRequest_answers hready hkeeps x rs1 hrun rfl, answers_result hready hkeeps rfl hrun rfl⟩,
    fun sl hrun he hslice => ⟨yield_answers rfl hready hrun he hslice (by decide) fun g hg => ?_,
      yield_answers rfl hready hrun he hslice (by decide) fun g hg => ?_⟩⟩
  · rw [hg]
    exact ⟨rfl, rfl⟩
  · rw [hg]
    exact ⟨rfl, rfl, rfl⟩

end Sys2Proof.Proofs

/-!
PROOFS. What the reactions after a command spare. A Check raised where no entry is free escalates the oldest one, whatever its unit, and that
may set off any reaction. None of them touches tempo time, the cluster L2s, the arbiters, the scrub of the pool or the rebuild's
window, they only add to what is sent and to the members to be declared, and leave certain registers. One frame lemma for each function
that a reaction runs, in the order of the model, so that each rests on those before it.
-/

namespace Sys2Proof.Proofs

open Sys2Proof Sys2Proof.Machine

/-! ### What is spared -/

/-- The registers that no reaction writes: tempo time, the fabric's but for FAB_INJ's ARM, a cluster's but for the states of its engines,
SXC_BOOT and SXC_INFO. -/
abbrev SparedReg (o : Nat) : Prop :=
  (0x100000 ≤ o ∧ o < 0x200000) ∨ (0x200000 ≤ o ∧ o < 0x300000 ∧ o ≠ Reg.FAB_INJ_ARM_ARM.off) ∨
    (0x1000000 ≤ o ∧ o < 0x1800000 ∧ o % 0x100000 < 0x48) ∨ (0x600008 ≤ o ∧ o < 0x600018)

/-- What the reactions to a command's effect `d` leave of it in `e`. -/
structure Spared (d e : Dev) : Prop where
  tmp : e.tmp = d.tmp
  l2s : e.l2s = d.l2s
  arbs : e.fab.arbs = d.fab.arbs
  scrub : e.fab.scrub = d.fab.scrub
  rate : e.ftl.rate = d.ftl.rate
  nv : e.nv = d.nv
  rdReg : ∀ o, SparedReg o → rdReg o e = rdReg o d
  out : ∀ o ∈ d.out, o ∈ e.out
  declare : ∀ n ∈ d.ftl.declare, n ∈ e.ftl.declare
  escalated : rd Reg.FLT_STATUS_ESC d = 1 → rd Reg.FLT_STATUS_ESC e = 1

@[refl] theorem Spared.refl (d : Dev) : Spared d d :=
  ⟨rfl, rfl, rfl, rfl, rfl, rfl, fun _ _ => rfl, fun _ h => h, fun _ h => h, id⟩

theorem Spared.trans {a b c : Dev} (h : Spared a b) (k : Spared b c) : Spared a c where
  tmp := k.tmp.trans h.tmp
  l2s := k.l2s.trans h.l2s
  arbs := k.arbs.trans h.arbs
  scrub := k.scrub.trans h.scrub
  rate := k.rate.trans h.rate
  nv := k.nv.trans h.nv
  rdReg o ho := (k.rdReg o ho).trans (h.rdReg o ho)
  out o ho := k.out o (h.out o ho)
  declare n hn := k.declare n (h.declare n hn)
  escalated hd := k.escalated (h.escalated hd)

theorem Spared.rd {d e : Dev} (h : Spared d e) {f : Field} (hf : SparedReg f.off) : Machine.rd f e = Machine.rd f d := by
  have hreg := h.rdReg f.off hf
  simp only [Machine.rdReg] at hreg
  rw [Machine.rd, Machine.rd, hreg]

/-! `Spared` is a preorder and not an equation, so the lemmas below are made into rewrite rules by `SparedBy`: a nested update is peeled from
the outside, and what stands to the right of `Grown` is not looked at. -/

/-- A statement that follows from `p`. -/
def Grown (p q : Prop) : Prop := p ∨ q

@[congr] theorem grown_congr {p p' q : Prop} (h : p = p') : Grown p q = Grown p' q := by rw [h]

@[simp] theorem grown_true (q : Prop) : Grown True q = True := true_or q

/-- Whatever `d` has of an earlier state, `e` has of it too. -/
abbrev SparedBy (d e : Dev) : Prop := ∀ x, Spared x e = Grown (Spared x d) (Spared x e)

theorem sparedBy_of {d e : Dev} (h : Spared d e) : SparedBy d e :=
  fun _ => propext ⟨.inr, fun hx => hx.elim (·.trans h) id⟩

theorem Spared.of_by {d e : Dev} (h : SparedBy d e) : Spared d e := by
  rw [h]
  exact .inl (.refl d)

@[simp] theorem spared_self (d : Dev) : Spared d d = True := eq_true (.refl d)

@[simp ↓] theorem spared_mk (d : Dev) (mem free intrSent pins flt scr pwr engines king taskRings cas todo sxc fwu
    seals accels cmpStreams keys fiu front md stg lanes12 outside oimCfg repl cdt) :
    SparedBy d (Dev.mk d.regs mem free d.out intrSent pins flt scr pwr d.tmp d.fab engines king d.l2s taskRings cas todo d.nv sxc fwu seals
      accels cmpStreams keys fiu front md stg lanes12 d.ftl outside oimCfg repl cdt) :=
  sparedBy_of ⟨rfl, rfl, rfl, rfl, rfl, rfl, fun _ _ => rfl, fun _ h => h, fun _ h => h, id⟩

@[simp ↓] theorem spared_mk_fab (d : Dev) (mem free intrSent pins flt scr pwr engines king taskRings cas todo sxc fwu
    seals accels cmpStreams keys fiu front md stg lanes12 outside oimCfg repl cdt)
    (ledgers poolOut poolHolder flips banks poison) :
    SparedBy d (Dev.mk d.regs mem free d.out intrSent pins flt scr pwr d.tmp
      (Fab.mk d.fab.arbs ledgers poolOut poolHolder d.fab.scrub flips banks poison) engines king d.l2s taskRings cas todo d.nv sxc fwu
      seals accels cmpStreams keys fiu front md stg lanes12 d.ftl outside oimCfg repl cdt) :=
  sparedBy_of ⟨rfl, rfl, rfl, rfl, rfl, rfl, fun _ _ => rfl, fun _ h => h, fun _ h => h, id⟩

@[simp ↓] theorem spared_mk_ftl (d : Dev) (mem free intrSent pins flt scr pwr engines king taskRings cas todo sxc
    fwu seals accels cmpStreams keys fiu front md stg lanes12 outside oimCfg repl cdt)
    (gate reloc relocRows gcRow dirty steps scrubRow armed groups flushSeq ttFrom flush rebuild news given ckpt gcPools scrubPass noParity
      sideBlocks closing eraseAgain) :
    SparedBy d (Dev.mk d.regs mem free d.out intrSent pins flt scr pwr d.tmp d.fab engines king d.l2s taskRings cas todo d.nv sxc fwu seals
      accels cmpStreams keys fiu front md stg lanes12
      (Ftl.mk gate reloc relocRows gcRow dirty steps scrubRow armed groups flushSeq ttFrom flush d.ftl.declare rebuild news d.ftl.rate given
        ckpt gcPools scrubPass noParity sideBlocks closing eraseAgain)
      outside oimCfg repl cdt) :=
  sparedBy_of ⟨rfl, rfl, rfl, rfl, rfl, rfl, fun _ _ => rfl, fun _ h => h, fun _ h => h, id⟩

theorem spared_declared (n : Nat) (d : Dev) : Spared d { d with ftl.declare := d.ftl.declare ++ [n] } :=
  ⟨rfl, rfl, rfl, rfl, rfl, rfl, fun _ _ => rfl, fun _ h => h, fun _ h => List.mem_append_left _ h, id⟩

@[simp ↓] theorem spared_ite (x : Dev) (p : Prop) {_ : Decidable p} (d e : Dev) :
    Spared x (if p then d else e) = if p then Spared x d else Spared x e :=
  apply_ite (Spared x) p d e

@[simp ↓] theorem spared_ite_snd {α : Type} (g : Dev) (p : Prop) {_ : Decidable p} (x y : α × Dev) :
    Spared g (if p then x else y).2 = if p then Spared g x.2 else Spared g y.2 := by
  split <;> rfl

theorem spared_of_ite {p : Prop} {_ : Decidable p} {d e g : Dev} (hd : Spared g d) (he : Spared g e) : Spared g (if p then d else e) := by
  split <;> assumption

theorem spared_snd {α : Type} {p : α × Dev} {a : α} {e : Dev} (h : p = (a, e)) : SparedBy p.2 e :=
  sparedBy_of (by rw [h])

/-! ### Writes of registers, free values and loops -/

/-- The field stands in no register that is spared, and shares no bit with FLT_STATUS.ESC. -/
def outside (f : Field) : Bool :=
  decide (¬SparedReg f.off ∧ (f.off ≠ Reg.FLT_STATUS_ESC.off ∨ f.fits ∧ f.apart Reg.FLT_STATUS_ESC))

theorem outside_iff {f : Field} :
    outside f ↔ ¬SparedReg f.off ∧ (f.off ≠ Reg.FLT_STATUS_ESC.off ∨ f.fits ∧ f.apart Reg.FLT_STATUS_ESC) :=
  decide_eq_true_iff

@[simp ↓] theorem spared_wr (f : Field) (v : Nat) (d : Dev) (h : outside f) : SparedBy d (wr f v d) := by
  obtain ⟨hspared, hesc⟩ := outside_iff.1 h
  refine sparedBy_of ⟨rfl, rfl, rfl, rfl, rfl, rfl, fun o ho => rdReg_wr_off (fun heq => hspared (heq ▸ ho)) v d, fun _ ho => ho,
    fun _ hn => hn, fun hd => ?_⟩
  rcases hesc with hoff | ⟨hfits, hapart⟩
  · exact (rd_wr_off hoff.symm v d).trans hd
  · exact (rd_wr_apart hfits (by decide) hapart v d).trans hd

@[simp ↓] theorem spared_setb (f : Field) (d : Dev) (h : outside f) : SparedBy d (setb f d) := spared_wr f _ d h

@[simp ↓] theorem spared_clr (f : Field) (d : Dev) (h : outside f) : SparedBy d (clr f d) := spared_wr f _ d h

/-- FLT_STATUS.ESC is set, and no more. -/
@[simp ↓] theorem spared_setb_esc (d : Dev) : SparedBy d (setb Reg.FLT_STATUS_ESC d) :=
  sparedBy_of ⟨rfl, rfl, rfl, rfl, rfl, rfl, fun _ ho => rdReg_wr_off (fun heq => absurd (heq ▸ ho) (by decide)) _ d, fun _ ho => ho,
    fun _ hn => hn, fun _ => rd_wr_same (by decide) _ d⟩

@[simp ↓] theorem spared_drawNat (n : Nat) (d : Dev) : SparedBy d (drawNat n d).2 := by
  refine sparedBy_of ?_
  simp [drawNat]

@[simp ↓] theorem spared_drawBytes (n : Nat) (d : Dev) : SparedBy d (drawBytes n d).2 := by
  refine sparedBy_of ?_
  simp [drawBytes]

@[simp ↓] theorem spared_pickFree (l : List Nat) (d : Dev) : SparedBy d (pickFree l d).2 := by
  refine sparedBy_of ?_
  unfold pickFree
  split <;> simp

@[simp ↓] theorem spared_bumpBy (f : Field) (n : Nat) (d : Dev) (h : outside f) : SparedBy d (bumpBy f n d) := by
  refine sparedBy_of ?_
  simp [bumpBy, h]

@[simp ↓] theorem spared_bump (f : Field) (d : Dev) (h : outside f) : SparedBy d (bump f d) := spared_bumpBy f 1 d h

@[simp ↓] theorem spared_bumpSat (f : Field) (n : Nat) (d : Dev) (h : outside f) : SparedBy d (bumpSat f n d) := spared_wr f _ d h

@[simp ↓] theorem spared_setBit (f : Field) (n : Nat) (d : Dev) (h : outside f) : SparedBy d (setBit f n d) := by
  refine sparedBy_of ?_
  simp [setBit, h]

@[simp ↓] theorem spared_clrBit (f : Field) (n : Nat) (d : Dev) (h : outside f) : SparedBy d (clrBit f n d) := by
  refine sparedBy_of ?_
  simp [clrBit, h]

theorem spared_foldl_of {α : Type} {l : List α} {f : Dev → α → Dev} (h : ∀ e a, Spared e (f e a)) (d : Dev) : Spared d (l.foldl f d) := by
  induction l generalizing d with
  | nil => exact .refl d
  | cons a r ih => exact (h d a).trans (ih _)

theorem spared_forEach_of_mem {l : List Nat} {f : Nat → Dev → Dev} (h : ∀ n ∈ l, ∀ e, Spared e (f n e)) (d : Dev) :
    Spared d (forEach l f d) := by
  induction l generalizing d with
  | nil => exact .refl d
  | cons n r ih => exact (h n List.mem_cons_self d).trans (ih (fun m hm => h m (List.mem_cons_of_mem n hm)) _)

@[simp ↓] theorem spared_forEach (l : List Nat) (f : Nat → Dev → Dev) (d : Dev) (h : ∀ n e, Spared e (f n e)) : SparedBy d (forEach l f d) :=
  sparedBy_of (spared_foldl_of (fun e n => h n e) d)

@[simp ↓] theorem spared_foldl {α : Type} (l : List α) (f : Dev → α → Dev) (d : Dev) (h : ∀ e a, Spared e (f e a)) :
    SparedBy d (l.foldl f d) := sparedBy_of (spared_foldl_of h d)

@[simp ↓] theorem spared_foldl_snd {α β : Type} (l : List α) (f : β × Dev → α → β × Dev) (p : β × Dev)
    (h : ∀ q a, Spared q.2 (f q a).2) : SparedBy p.2 (l.foldl f p).2 := by
  refine sparedBy_of ?_
  induction l generalizing p with
  | nil => exact .refl p.2
  | cons a r ih => exact (h p a).trans (ih _)

/-! ### The registers that the reactions write, block by block -/

@[simp] theorem scrRegs_outside :
    outside Reg.SCR_PTR_VIDX ∧ outside Reg.SCR_SEQ_NEXT ∧ outside Reg.SCR_STATUS_PLOST ∧ outside Reg.SCR_LOSS_PLOST ∧
    outside Reg.SCR_STATUS_LOST ∧ outside Reg.SCR_LOSS_LOST ∧ outside Reg.SCR_STATUS_HOLD ∧
    outside Reg.SCR_STATUS_FROZEN := by decide

@[simp] theorem fltRegs_outside :
    outside Reg.FLT_CNT_NOTICES ∧ outside Reg.FLT_CNT_DCHECKS ∧ outside Reg.FLT_STATUS_DCHK_FULL ∧
    outside Reg.FLT_STATUS_DCHK_OPEN ∧ outside Reg.FLT_STATUS_CHK_OPEN ∧ 
    outside Reg.FLT_CNT_CHECKS ∧ outside Reg.FLT_STATUS_CHK_FULL ∧ outside Reg.FLT_INJ_ARM := by decide

@[simp] theorem glbRegs_outside :
    outside Reg.GLB_INTR_STAT_LEVEL ∧ outside Reg.GLB_STATE_STATE := by decide

@[simp] theorem fabRegs_outside : outside Reg.FAB_INJ_ARM_ARM := by decide

@[simp] theorem cipRegs_outside :
    outside Reg.CIP_STATUS_SEAL_N ∧ outside Reg.CIP_SEAL_VIOL ∧ outside Reg.CIP_SEAL_MAP ∧ outside Reg.CIP_PREEMPT_HELD ∧
    outside Reg.CIP_STATUS_KPAIRED := by decide

@[simp] theorem sxcRegs_outside : outside Reg.SXC_STATUS_PAIRED_CHK := by decide

@[simp] theorem fiuRegs_outside :
    outside Reg.FIU_PIN_RETIRING ∧ outside Reg.FIU_PIN_DROPS := by decide

@[simp] theorem ersRegs_outside :
    outside Reg.ERS_LOSS_CUR_COUNT ∧ outside Reg.ERS_LOSS_OVERFLOW ∧ outside Reg.ERS_RB_ST_PHASE ∧
    outside Reg.ERS_RB_ST_SEGS_LEFT ∧ outside Reg.ERS_STATUS_REBUILDING ∧ outside Reg.ERS_LOSS_LOST ∧
    outside Reg.ERS_RB_ROWS_DONE := by decide

@[simp] theorem mdlRegs_outside :
    outside Reg.MDL_FT_CNT_MOVED ∧ outside Reg.MDL_INJ_ARM ∧ outside Reg.MDL_STATUS_PRESENCE ∧ outside Reg.MDL_PRESENT_LANES ∧
    outside Reg.MDL_STATUS_LINK_CHK ∧ outside Reg.MDL_STATUS_PAIRED_CHK ∧ outside Reg.MDL_FT_STATUS_CRIT ∧
    outside Reg.MDL_FT_CNT_RETIRED ∧ outside Reg.MDL_FT_STATUS_MEMBER_WEAR ∧ outside Reg.MDL_FT_CNT_SEGS ∧
    outside Reg.MDL_STATUS_GEOMETRY_N := by decide

@[simp] theorem nvfRegs_outside :
    outside Reg.NVF_CMD_TERM_TERMINAL ∧ outside Reg.NVF_CMD_OUT_OUTSTANDING ∧ outside Reg.NVF_CTX_OPEN ∧
    outside Reg.NVF_CTX_RESIDENT ∧ outside Reg.NVF_PI_GUARD ∧ outside Reg.NVF_PI_APP ∧ outside Reg.NVF_PI_REF ∧
    outside Reg.NVF_CMD_ACC_ACCEPTED ∧ outside Reg.NVF_REP_CFG_RPO ∧ outside Reg.NVF_REP_CFG_INTERVAL ∧
    outside Reg.NVF_REP_CFG_ANCHOR ∧ outside Reg.NVF_REP_CFG_REPAIR_TMO ∧ outside Reg.NVF_REP_CFG_THROTTLE ∧
    outside Reg.NVF_REP_ST_STATE ∧ outside Reg.NVF_REP_ST_ROLE ∧ outside Reg.NVF_REP_ST_MODE ∧ outside Reg.NVF_REP_ST_LAG ∧
    outside Reg.NVF_SNAP_CMD_GO ∧ outside Reg.NVF_SNAP_RES_BUSY ∧ outside Reg.NVF_SNAP_RES_RESULT ∧
    outside Reg.NVF_SNAP_RES_VALUE := by decide

@[simp] theorem fwuRegs_outside :
    outside Reg.FWU_STATUS_BUF_BUSY ∧ outside Reg.FWU_BUF_OWNER ∧ outside Reg.FWU_BUF_BYTES ∧
    outside Reg.FWU_STATUS_ACT_BUSY := by decide

@[simp] theorem casRegs_outside :
    outside Reg.CAS_STATUS_SELF ∧ outside Reg.CAS_ADOPT_SLOTS ∧ outside Reg.CAS_ADOPT_CMDS ∧ outside Reg.CAS_ANA_STG0_OWN ∧
    outside Reg.CAS_ANA_STG1_OWN ∧ outside Reg.CAS_ANA_APPLY_TEMPO ∧ outside Reg.CAS_LAST_WON ∧ outside Reg.CAS_LAST_MEMBERS ∧
    outside Reg.CAS_STATUS_PEER ∧ outside Reg.CAS_STATUS_LOST_RACE ∧ outside Reg.CAS_STATUS_NO_MAJ := by decide

@[simp] theorem cdtRegs_outside :
    outside Reg.CDT_STATUS_PEER_LOST ∧ outside Reg.CDT_STATUS_PEER_NEW ∧ outside Reg.CDT_INJ_ARM ∧ outside Reg.CDT_OUT_COUNT ∧
    outside Reg.CDT_SENT_COUNT ∧ outside Reg.CDT_ACKED_COUNT ∧ outside Reg.CDT_FAILED_COUNT ∧ outside Reg.CDT_FAILR_LINK_DOWN ∧
    outside Reg.CDT_FAILR_RETRY ∧ outside Reg.CDT_FAILR_AGE ∧ outside Reg.CDT_FAILR_NAK := by decide

/-- The entries in use lie below the clusters' registers. -/
theorem fltIndexedRegs_outside {n : Nat} (h : n < 64) :
    outside (Reg.FLT_DCHK_CODE n) ∧ outside (Reg.FLT_CHK_CODE n) ∧
    outside (Reg.FLT_DCHK_RECUR n) ∧ outside (Reg.FLT_DCHK_UNIT n) ∧ outside (Reg.FLT_DCHK_ESCALATED n) ∧
    outside (Reg.FLT_DCHK_T_RAISED n) ∧ outside (Reg.FLT_DCHK_OPEN n) ∧ outside (Reg.FLT_CHK_OPEN n) ∧
    outside (Reg.FLT_CHK_UNIT n) ∧ outside (Reg.FLT_CHK_RECUR n) ∧ outside (Reg.FLT_CHK_T_RAISED n) := by
  simp only [outside_iff, SparedReg, Reg.FAB_INJ_ARM_ARM, Reg.FLT_STATUS_ESC, Reg.FLT_DCHK_CODE, Reg.FLT_CHK_CODE,
    Reg.FLT_DCHK_RECUR, Reg.FLT_DCHK_UNIT, Reg.FLT_DCHK_ESCALATED, Reg.FLT_DCHK_T_RAISED, Reg.FLT_DCHK_OPEN, Reg.FLT_CHK_OPEN,
    Reg.FLT_CHK_UNIT, Reg.FLT_CHK_RECUR, Reg.FLT_CHK_T_RAISED]
  omega

@[simp] theorem mdlIndexedRegs_outside (n : Nat) :
    outside (Reg.MDL_LANE_PLN_IN n) ∧ outside (Reg.MDL_LANE_STATE n) ∧ outside (Reg.MDL_FENCE_WORD n) ∧
    outside (Reg.MDL_FT_POOL_TOTAL n) ∧ outside (Reg.MDL_FT_POOL_FREE n) ∧ outside (Reg.MDL_TEMP_TEMP n) := by
  simp only [outside_iff, SparedReg, Reg.FAB_INJ_ARM_ARM, Reg.FLT_STATUS_ESC,
    Reg.MDL_LANE_PLN_IN, Reg.MDL_LANE_STATE, Reg.MDL_FENCE_WORD, Reg.MDL_FT_POOL_TOTAL, Reg.MDL_FT_POOL_FREE, Reg.MDL_TEMP_TEMP]
  omega

@[simp] theorem ethIndexedRegs_outside (n : Nat) :
    outside (Reg.ETH_LINK_PAUSED n) ∧ outside (Reg.ETH_LINK_UP n) := by
  simp only [outside_iff, SparedReg, Reg.FAB_INJ_ARM_ARM, Reg.FLT_STATUS_ESC, Reg.ETH_LINK_PAUSED, Reg.ETH_LINK_UP]
  omega

@[simp] theorem nvfIndexedRegs_outside (n : Nat) :
    outside (Reg.NVF_MISS_OCC n) ∧ outside (Reg.NVF_MISS_HIGH n) := by
  simp only [outside_iff, SparedReg, Reg.FAB_INJ_ARM_ARM, Reg.FLT_STATUS_ESC, Reg.NVF_MISS_OCC, Reg.NVF_MISS_HIGH]
  omega

@[simp] theorem cdtIndexedRegs_outside (n : Nat) :
    outside (Reg.CDT_PORT_PATHS n) ∧ outside (Reg.CDT_RPTR_CONS n) ∧ outside (Reg.CDT_PORT_UP n) := by
  simp only [outside_iff, SparedReg, Reg.FAB_INJ_ARM_ARM, Reg.FLT_STATUS_ESC, Reg.CDT_PORT_PATHS, Reg.CDT_RPTR_CONS, Reg.CDT_PORT_UP]
  omega

@[simp] theorem kinfo_outside (n : Nat) : outside (Reg.CIP_KINFO_KIND n) := by
  simp only [outside_iff, SparedReg, Reg.FAB_INJ_ARM_ARM, Reg.FLT_STATUS_ESC, Reg.CIP_KINFO_KIND]
  omega

theorem glbRdone_outside {n : Nat} (h : n < 8) : outside (Reg.GLB_RDONE_UNIT n) := by
  simp only [outside_iff, SparedReg, Reg.FAB_INJ_ARM_ARM, Reg.FLT_STATUS_ESC, Reg.GLB_RDONE_UNIT]
  omega

@[simp] theorem lossData_outside :
    outside (Reg.ERS_LOSS_DATA_BYTES 0) ∧ outside (Reg.ERS_LOSS_DATA_BYTES 1) ∧ outside (Reg.ERS_LOSS_DATA_BYTES 2) ∧
    outside (Reg.ERS_LOSS_DATA_BYTES 3) := by decide

@[simp] theorem accCons_outside (k r : Nat) : outside (accCons k r) := by
  unfold accCons
  simp only [outside_iff, SparedReg, Reg.FAB_INJ_ARM_ARM, Reg.FLT_STATUS_ESC, Reg.CIP_RPTR_CONS, Reg.CMP_RPTR_CONS, Reg.ERS_RPTR_CONS,
    Reg.DIG_RPTR_CONS]
  split <;> dsimp only <;> omega

@[simp] theorem accBits_outside (k : Nat) : outside (accBusy k) ∧ outside (accQuar k) ∧ outside (accJobs k) := by
  refine ⟨?_, ?_, ?_⟩
  · unfold accBusy; split <;> decide
  · unfold accQuar; split <;> decide
  · unfold accJobs; split <;> decide

@[simp] theorem engStateField_outside (e : Nat) : outside (engStateField e) := by
  simp only [outside_iff, SparedReg, Reg.FAB_INJ_ARM_ARM, Reg.FLT_STATUS_ESC, engStateField, Reg.CL_ENG_STATE_STATE]
  omega

@[simp] theorem msixPba_outside : outside msixPba := by decide

/-! ### Free values, choices and outputs -/

@[simp ↓] theorem spared_send (o : Out) (d : Dev) : SparedBy d (send o d) := by
  exact sparedBy_of ⟨rfl, rfl, rfl, rfl, rfl, rfl, fun _ _ => rfl, fun _ h => List.mem_append_left _ h, fun _ h => h, id⟩

@[simp ↓] theorem spared_sendAll (l : List Out) (d : Dev) : SparedBy d (sendAll l d) := by
  exact sparedBy_of ⟨rfl, rfl, rfl, rfl, rfl, rfl, fun _ _ => rfl, fun _ h => List.mem_append_left _ h, fun _ h => h, id⟩

/-! ### Memory: the pool and DRAM (R99) -/

@[simp ↓] theorem spared_memSetByte (a : Nat) (b : Byte) (d : Dev) : SparedBy d (memSetByte a b d) := by
  refine sparedBy_of ?_
  dsimp only [memSetByte]; simp

@[simp ↓] theorem spared_memWrite (a : Nat) (l : Bytes) (d : Dev) : SparedBy d (memWrite a l d) := by
  refine sparedBy_of ⟨memWrite_tmp .., memWrite_l2s .., ?_, ?_, ?_, memWrite_nv .., fun _ _ => ?_, fun _ h => ?_, fun _ h => ?_, fun h => ?_⟩
  · rw [memWrite_fab]
  · rw [memWrite_fab]
  · rw [memWrite_ftl]
  · rw [rdReg, memWrite_regs, rdReg]
  · rwa [memWrite_out]
  · rwa [memWrite_ftl]
  · rwa [rd, memWrite_regs]

/-! ### Records -/

@[simp ↓] theorem spared_writeRecord (r : ScoreRecord) (d : Dev) : SparedBy d (writeRecord r d) := by
  refine sparedBy_of ?_
  dsimp only [writeRecord]; simp

@[simp ↓] theorem spared_countLost (d : Dev) : SparedBy d (countLost d) := by
  refine sparedBy_of ?_
  dsimp only [countLost]; simp

@[simp ↓] theorem spared_holdRecord (r : ScoreRecord) (d : Dev) : SparedBy d (holdRecord r d) := by
  refine sparedBy_of ?_
  dsimp only [holdRecord]
  refine spared_of_ite (by simp) (spared_of_ite (by simp) ?_)
  split <;> simp

@[simp ↓] theorem spared_recordEvent (cls : EvClass) (code unit data0 data1 : Nat) (escalated : Bool) (d : Dev) :
    SparedBy d (recordEvent cls code unit data0 data1 escalated d) := by
  refine sparedBy_of ?_
  dsimp only [recordEvent]; simp

/-! ### The four classes -/

@[simp ↓] theorem spared_notice (code unit data0 data1 : Nat) (d : Dev) :
    SparedBy d (notice code unit data0 data1 d) := by
  refine sparedBy_of ?_
  dsimp only [notice]; simp

theorem findDchk_lt {code unit j : Nat} {d : Dev} (h : findDchk code unit d = some j) : j < 32 :=
  List.mem_range.1 (List.mem_of_find?_eq_some h)

theorem findChk_lt {code unit k : Nat} {d : Dev} (h : findChk code unit d = some k) : k < 64 :=
  List.mem_range.1 (List.mem_of_find?_eq_some h)

theorem spared_picked {l : List Nat} {o : Option Nat} {d e : Dev} (h : pickFree l d = (o, e)) : Spared d e := by
  have hpicked : Spared d (pickFree l d).2 := by simp
  rwa [h] at hpicked

theorem spared_openDchk {j : Nat} (hj : j < 64) (code unit : Nat) (escalated : Bool) (d : Dev) :
    Spared d (let d := wr (Reg.FLT_DCHK_CODE j) code (wr (Reg.FLT_DCHK_UNIT j) unit d)
      let d := wr (Reg.FLT_DCHK_ESCALATED j) (b2n escalated) (clr (Reg.FLT_DCHK_RECUR j) d)
      let d := wr (Reg.FLT_DCHK_T_RAISED j) (tempoNow d) (setb (Reg.FLT_DCHK_OPEN j) d)
      wr Reg.FLT_STATUS_DCHK_OPEN (rd Reg.FLT_STATUS_DCHK_OPEN d + 1) d) := by
  dsimp only
  simp [fltIndexedRegs_outside hj]

theorem spared_recorded {d e : Dev} (h : Spared d e) (cls : EvClass) (code unit data0 data1 : Nat) (escalated : Bool) (todo : List Todo) :
    Spared d { recordEvent cls code unit data0 data1 escalated e with todo := todo } :=
  h.trans (by simp)

@[simp ↓] theorem spared_raiseD (code unit data0 data1 : Nat) (escalated : Bool) (d : Dev) :
    SparedBy d (raiseD code unit data0 data1 escalated d) := by
  refine sparedBy_of (spared_recorded (.trans (Spared.of_by (spared_bump Reg.FLT_CNT_DCHECKS d (by decide))) ?_) ..)
  split
  next hfind => exact (Spared.of_by (spared_bumpSat _ 1 _ (fltIndexedRegs_outside ((findDchk_lt hfind).trans (by decide))).2.2.1))
  next =>
    split
    next hpick => exact (spared_picked hpick).trans (.of_by (spared_setb _ _ (by decide)))
    next hpick => exact (spared_picked hpick).trans (spared_openDchk ((pickFree_those_lt hpick).trans (by decide)) ..)

theorem spared_closeChk {k : Nat} (hk : k < 64) (d : Dev) : Spared d (closeChk k d) := by
  dsimp only [closeChk]
  simp [fltIndexedRegs_outside hk]

@[simp ↓] theorem spared_openData (code : Nat) (d : Dev) : SparedBy d (openData code d).2.2 := by
  refine sparedBy_of ?_
  dsimp only [openData]
  split <;> simp

theorem spared_escalateChk {k : Nat} (hk : k < 64) (d : Dev) : Spared d (escalateChk k d) := by
  have hopen : Spared d (openData (rd (Reg.FLT_CHK_CODE k) d) d).2.2 := by simp
  exact (hopen.trans (spared_closeChk hk _)).trans ((Spared.of_by (spared_setb_esc _)).trans (.of_by fun _ => spared_raiseD ..))

theorem spared_openChk {k : Nat} (hk : k < 64) (code unit : Nat) (d : Dev) : Spared d (openChk k code unit d) := by
  dsimp only [openChk]
  simp [fltIndexedRegs_outside hk]

@[simp ↓] theorem spared_raiseC (code unit data0 data1 : Nat) (d : Dev) :
    SparedBy d (raiseC code unit data0 data1 d) := by
  have hrecorded {e : Dev} (h : Spared (bump Reg.FLT_CNT_CHECKS d) e) : Spared d (recordEvent .check code unit data0 data1 false e) :=
    ((Spared.of_by (spared_bump Reg.FLT_CNT_CHECKS d (by decide))).trans h).trans (by simp)
  refine sparedBy_of (hrecorded ?_)
  split
  next hfind => exact (Spared.of_by (spared_bumpSat _ 1 _ (fltIndexedRegs_outside (findChk_lt hfind)).2.2.2.2.2.2.2.2.2.1))
  next =>
    split
    next hpick => exact (spared_picked hpick).trans (spared_openChk (pickFree_those_lt hpick) ..)
    next hpick =>
      have hfull (e : Dev) : Spared e (setb Reg.FLT_STATUS_CHK_FULL (notice Ev.FLT_CHK_FULL 0 0 0 e)) := by simp
      exact (spared_picked hpick).trans (((spared_escalateChk (oldestChk_lt _) _).trans (hfull _)).trans (spared_openChk (oldestChk_lt _) ..))

/-! ### Paired values (R554, R591) -/

@[simp ↓] theorem spared_mkPaired (w cls v : Nat) (d : Dev) : SparedBy d (mkPaired w cls v d).2 := by
  refine sparedBy_of ?_
  dsimp only [mkPaired]
  split <;> simp

/-! ### Interrupts (R625–R627) -/

@[simp ↓] theorem spared_msixSend (v : Nat) (d : Dev) : SparedBy d (msixSend v d) := by
  refine sparedBy_of ?_
  dsimp only [msixSend]; simp

@[simp ↓] theorem spared_settle (d : Dev) : SparedBy d (settle d) := by
  refine sparedBy_of ?_
  dsimp only [settle]; simp

/-! ### Stores -/

@[simp ↓] theorem spared_injectStore (addr len : Nat) (d : Dev) : SparedBy d (injectStore addr len d) := by
  refine sparedBy_of ?_
  dsimp only [injectStore]
  simp
  split <;> simp

@[simp ↓] theorem spared_storeMem (addr : Nat) (b : Bytes) (d : Dev) : SparedBy d (storeMem addr b d) := by
  refine sparedBy_of ?_
  dsimp only [storeMem]; simp

@[simp ↓] theorem spared_storeNat (addr n v : Nat) (d : Dev) : SparedBy d (storeNat addr n v d) := by
  refine sparedBy_of ?_
  dsimp only [storeNat]; simp

/-! ### Requests and holds of tokens -/

@[simp ↓] theorem spared_endHold (who : TokWho) (cls : Nat) (d : Dev) : SparedBy d (endHold who cls d) := by
  refine sparedBy_of ?_
  dsimp only [endHold]; simp

/-! ### Seals -/

@[simp ↓] theorem spared_sealViolation (k addr : Nat) (d : Dev) : SparedBy d (sealViolation k addr d) := by
  refine sparedBy_of ?_
  dsimp only [sealViolation]; simp

@[simp ↓] theorem spared_showSeals (d : Dev) : SparedBy d (showSeals d) := by
  refine sparedBy_of ?_
  dsimp only [showSeals]; simp

@[simp ↓] theorem spared_takeSeal (base len lane : Nat) (d : Dev) : SparedBy d (takeSeal base len lane d).2 := by
  refine sparedBy_of ?_
  dsimp only [takeSeal]
  split <;> simp

@[simp ↓] theorem spared_dropSeal (k : Nat) (zero : Bool) (d : Dev) : SparedBy d (dropSeal k zero d) := by
  refine sparedBy_of ?_
  dsimp only [dropSeal]; simp

/-! ### Lanes, rings and descriptors -/

@[simp ↓] theorem spared_modAccel (k : Nat) (f : Accel → Accel) (d : Dev) : SparedBy d (modAccel k f d) := by
  refine sparedBy_of ?_
  dsimp only [modAccel]; simp

@[simp ↓] theorem spared_modLane (k n : Nat) (f : Lane → Lane) (d : Dev) : SparedBy d (modLane k n f d) := by
  refine sparedBy_of ?_
  dsimp only [modLane]; simp

@[simp ↓] theorem spared_showBusy (k : Nat) (d : Dev) : SparedBy d (showBusy k d) := by
  refine sparedBy_of ?_
  dsimp only [showBusy]; simp

@[simp ↓] theorem spared_sealFor (k n r i : Nat) (d : Dev) : SparedBy d (sealFor k n r i d) := by
  refine sparedBy_of ?_
  dsimp only [sealFor]; simp

@[simp ↓] theorem spared_takeJob (k n : Nat) (d : Dev) : SparedBy d (takeJob k n d) := by
  refine sparedBy_of ?_
  dsimp only [takeJob]
  refine spared_of_ite (.refl _) ?_
  split
  · rfl
  · split
    · simp
    · split <;> simp

@[simp ↓] theorem spared_advanceCons (k r m : Nat) (d : Dev) : SparedBy d (advanceCons k r m d) := by
  induction m generalizing d with
  | zero => exact sparedBy_of (.refl _)
  | succ m ih =>
    refine sparedBy_of ?_
    rw [advanceCons]
    simp [ih]

@[simp ↓] theorem spared_ringDone (unit mask : Nat) (d : Dev) : SparedBy d (ringDone unit mask d) := by
  refine sparedBy_of (spared_forEach_of_mem (fun c hc e => ?_) d)
  simp [glbRdone_outside (List.mem_range.1 hc)]

@[simp ↓] theorem spared_finishDesc (k r idx status xflags : Nat) (rest : Bytes) (d : Dev) :
    SparedBy d (finishDesc k r idx status xflags rest d) := by
  refine sparedBy_of ?_
  dsimp only [finishDesc]; simp

@[simp ↓] theorem spared_endJob (k n status xflags : Nat) (rest : Bytes) (d : Dev) :
    SparedBy d (endJob k n status xflags rest d) := by
  refine sparedBy_of ?_
  dsimp only [endJob]
  split <;> simp

/-! ### Memory as a lane sees it -/

@[simp ↓] theorem spared_laneWrite (k addr : Nat) (b : Bytes) (d : Dev) : SparedBy d (laneWrite k addr b d) := by
  refine sparedBy_of ?_
  dsimp only [laneWrite]
  split <;> simp

@[simp ↓] theorem spared_zeroise (k addr len : Nat) (d : Dev) : SparedBy d (zeroise k addr len d) := by
  refine sparedBy_of ?_
  dsimp only [zeroise]; simp

/-! ### A job that ends CHECK_FAIL -/

@[simp ↓] theorem spared_drawUpTo (n : Nat) (d : Dev) : SparedBy d (drawUpTo n d).2 := by
  refine sparedBy_of ?_
  dsimp only [drawUpTo]; simp

@[simp ↓] theorem spared_endStream (k : Nat) (b : Bytes) (d : Dev) : SparedBy d (endStream k b d) := by
  refine sparedBy_of ?_
  dsimp only [endStream]
  split <;> simp

@[simp ↓] theorem spared_abandon (k : Nat) (b : Bytes) (most : Nat) (d : Dev) : SparedBy d (abandon k b most d).2 := by
  refine sparedBy_of ?_
  dsimp only [abandon]
  split <;> simp

/-! ### Quarantine -/

@[simp ↓] theorem spared_breakSeal (z : Option Nat) (d : Dev) : SparedBy d (breakSeal z d) := by
  refine sparedBy_of ?_
  dsimp only [breakSeal]
  split <;> simp

@[simp ↓] theorem spared_abandonJob (k r i : Nat) (z : Option Nat) (d : Dev) :
    SparedBy d (abandonJob k r i z d).2 := by
  refine sparedBy_of ?_
  dsimp only [abandonJob]; simp

@[simp ↓] theorem spared_quarantineLane (k n : Nat) (d : Dev) : SparedBy d (quarantineLane k n d) := by
  refine sparedBy_of ?_
  dsimp only [quarantineLane]
  refine spared_of_ite (.refl d) ?_
  split <;> simp

/-! ### Pipelines (R98) -/

@[simp ↓] theorem spared_dropPipe (k : Nat) (w : PipeFor) (d : Dev) : SparedBy d (dropPipe k w d) := by
  refine sparedBy_of ?_
  dsimp only [dropPipe]; simp

@[simp ↓] theorem spared_dropPipes (w : PipeFor) (d : Dev) : SparedBy d (dropPipes w d) := by
  refine sparedBy_of ?_
  dsimp only [dropPipes]; simp

/-! ### Engines and their links -/

@[simp ↓] theorem spared_showEngine (e : Nat) (d : Dev) : SparedBy d (showEngine e d) := by
  refine sparedBy_of ?_
  dsimp only [showEngine]; simp

@[simp ↓] theorem spared_quarantineEngine (e : Nat) (d : Dev) : SparedBy d (quarantineEngine e d) := by
  refine sparedBy_of ?_
  dsimp only [quarantineEngine]; simp

@[simp ↓] theorem spared_oweResign (cause : Nat) (d : Dev) : SparedBy d (oweResign cause d) := by
  refine sparedBy_of ?_
  dsimp only [oweResign]; simp

@[simp ↓] theorem spared_castleTest (code unit : Nat) (d : Dev) : SparedBy d (castleTest code unit d) := by
  refine sparedBy_of ?_
  dsimp only [castleTest]; simp

@[simp ↓] theorem spared_quarantine (unit : Nat) (d : Dev) : SparedBy d (quarantine unit d) := by
  refine sparedBy_of ?_
  dsimp only [quarantine]
  split <;> simp

/-! ### The Security Policy Table (R554) -/

@[simp ↓] theorem spared_sptRead (e : SptEntry) (d : Dev) : SparedBy d (sptRead e d).2 := by
  refine sparedBy_of ?_
  dsimp only [sptRead]
  split <;> simp

@[simp ↓] theorem spared_sptDomain (n : Nat) (d : Dev) : SparedBy d (sptDomain n d).2 := by
  refine sparedBy_of ?_
  dsimp only [sptDomain]; simp

/-! ### The wrapped key table (Table 9.9) -/

@[simp ↓] theorem spared_keyPaired (index : Nat) (p : Paired) (d : Dev) : SparedBy d (keyPaired index p d) := by
  refine sparedBy_of ?_
  dsimp only [keyPaired]; simp

@[simp ↓] theorem spared_readWkt (n : Nat) (d : Dev) : SparedBy d (readWkt n d).2 := by
  refine sparedBy_of ?_
  dsimp only [readWkt]
  split <;> simp

@[simp ↓] theorem spared_readIkt (n : Nat) (d : Dev) : SparedBy d (readIkt n d).2 := by
  refine sparedBy_of ?_
  dsimp only [readIkt]
  split <;> simp

/-! ### Loads (R308) -/

@[simp ↓] theorem spared_findKey (source index gen : Nat) (d : Dev) : SparedBy d (findKey source index gen d).2 := by
  refine sparedBy_of ?_
  dsimp only [findKey]
  split
  · split
    · simp [spared_snd ‹readWkt _ _ = _›]
    · have hread := spared_snd ‹readWkt _ _ = _›
      split
      · simp [hread]
      · split
        · simp [hread]
        · split <;> simp [hread]
  · split
    · rfl
    · split
      · simp [spared_snd ‹readIkt _ _ = _›]
      · split <;> simp [spared_snd ‹readIkt _ _ = _›]
  · split
    · rfl
    · split <;> simp
  · rfl

@[simp ↓] theorem spared_checkSlots (kind index gen : Nat) (d : Dev) : SparedBy d (checkSlots kind index gen d) := by
  refine sparedBy_of ?_
  dsimp only [checkSlots]; simp

@[simp ↓] theorem spared_useKey (source index gen : Nat) (d : Dev) : SparedBy d (useKey source index gen d).2 := by
  refine sparedBy_of ?_
  dsimp only [useKey]
  split <;> simp

/-! ### Granule IDs (Table 6.2) and their entries -/

@[simp ↓] theorem spared_touchPage (kind idx : Nat) (d : Dev) : SparedBy d (touchPage kind idx d) := by
  refine sparedBy_of ?_
  dsimp only [touchPage]; simp

@[simp ↓] theorem spared_putGte (g : Nat) (e : Gte) (d : Dev) : SparedBy d (putGte g e d) := by
  refine sparedBy_of ?_
  dsimp only [putGte]; simp

@[simp ↓] theorem spared_modSeg (s : Nat) (f : Seg → Seg) (d : Dev) : SparedBy d (modSeg s f d) := by
  refine sparedBy_of ?_
  dsimp only [modSeg]; simp

@[simp ↓] theorem spared_addLive (s n : Nat) (d : Dev) : SparedBy d (addLive s n d) := by
  refine sparedBy_of ?_
  dsimp only [addLive]; simp

@[simp ↓] theorem spared_subLive (s n : Nat) (d : Dev) : SparedBy d (subLive s n d) := by
  refine sparedBy_of ?_
  dsimp only [subLive]; simp

@[simp ↓] theorem spared_modBlk (member block : Nat) (f : Blk → Blk) (d : Dev) :
    SparedBy d (modBlk member block f d) := by
  refine sparedBy_of ?_
  dsimp only [modBlk]; simp

@[simp ↓] theorem spared_doubt (g : Nat) (d : Dev) : SparedBy d (doubt g d) := by
  refine sparedBy_of ?_
  dsimp only [doubt]; simp

@[simp ↓] theorem spared_modPool (p : Nat) (f : Pool → Pool) (d : Dev) : SparedBy d (modPool p f d) := by
  refine sparedBy_of ?_
  dsimp only [modPool]; simp

@[simp ↓] theorem spared_modNs (n : Nat) (f : Ns → Ns) (d : Dev) : SparedBy d (modNs n f d) := by
  refine sparedBy_of ?_
  dsimp only [modNs]; simp

@[simp ↓] theorem spared_modSnap (nsid sseq : Nat) (f : Snap → Snap) (d : Dev) :
    SparedBy d (modSnap nsid sseq f d) := by
  refine sparedBy_of ?_
  dsimp only [modSnap]; simp

@[simp ↓] theorem spared_modSlot (n : Nat) (f : Slot → Slot) (d : Dev) : SparedBy d (modSlot n f d) := by
  refine sparedBy_of ?_
  dsimp only [modSlot]; simp

@[simp ↓] theorem spared_enterRetiring (g : Nat) (d : Dev) : SparedBy d (enterRetiring g d) := by
  refine sparedBy_of ?_
  dsimp only [enterRetiring]; simp

@[simp ↓] theorem spared_auditDelta (g : Nat) (n : Int) (d : Dev) : SparedBy d (auditDelta g n d) := by
  refine sparedBy_of ?_
  dsimp only [auditDelta]
  split
  next a haudit =>
    split
    · simp
    · rfl
  next => rfl

@[simp ↓] theorem spared_showLoss (d : Dev) : SparedBy d (showLoss d) := by
  refine sparedBy_of ?_
  dsimp only [showLoss]; simp

@[simp ↓] theorem spared_addLoss (e : LossEntry) (d : Dev) : SparedBy d (addLoss e d) := by
  refine sparedBy_of ?_
  dsimp only [addLoss]
  split <;> simp

@[simp ↓] theorem spared_clearLoss (g : Nat) (d : Dev) : SparedBy d (clearLoss g d) := by
  refine sparedBy_of ?_
  dsimp only [clearLoss]; simp

@[simp ↓] theorem spared_dropRef (g : Nat) (d : Dev) : SparedBy d (dropRef g d) := by
  refine sparedBy_of ?_
  dsimp only [dropRef]; simp

@[simp ↓] theorem spared_retireLast (g : Nat) (d : Dev) : SparedBy d (retireLast g d) := by
  refine sparedBy_of ?_
  dsimp only [retireLast]; simp

@[simp ↓] theorem spared_takeRef (g : Nat) (d : Dev) : SparedBy d (takeRef g d) := by
  refine sparedBy_of ?_
  dsimp only [takeRef]; simp

@[simp ↓] theorem spared_releaseGid (own : Bool) (tsn g : Nat) (d : Dev) : SparedBy d (releaseGid own tsn g d) := by
  refine sparedBy_of ?_
  dsimp only [releaseGid]; simp

/-! ### The namespace map (R184, R185, R437–R444) -/

@[simp ↓] theorem spared_putNode (n : Nat) (x : Node) (d : Dev) : SparedBy d (putNode n x d) := by
  refine sparedBy_of ?_
  dsimp only [putNode]; simp

@[simp ↓] theorem spared_newNode (h : Nat) (d : Dev) : SparedBy d (newNode h d).2 := by
  refine sparedBy_of ?_
  dsimp only [newNode]; simp

@[simp ↓] theorem spared_mapSet (h : Nat) (repl : List Nat) (sq g : Nat) (tags : Bytes) (m w : Nat) (c : Copied) (d : Dev) :
    SparedBy d (mapSet h repl sq g tags m w c d).2.2 := by
  induction m generalizing w c d with
  | zero => exact sparedBy_of (.refl _)
  | succ m ih =>
    refine sparedBy_of ?_
    rw [mapSet]
    dsimp only
    repeat' split
    all_goals simp [ih]

/-! ### Roots and lineage (R437–R451) -/

@[simp ↓] theorem spared_addSucc (p : Nat × Nat) (d : Dev) : SparedBy d (addSucc p d) := by
  refine sparedBy_of ?_
  dsimp only [addSucc]; simp

@[simp ↓] theorem spared_subSucc (p : Nat × Nat) (d : Dev) : SparedBy d (subSucc p d) := by
  refine sparedBy_of ?_
  dsimp only [subSucc]; simp

@[simp ↓] theorem spared_applyCut (s : Snap) (d : Dev) : SparedBy d (applyCut s d) := by
  refine sparedBy_of ?_
  dsimp only [applyCut]; simp

@[simp ↓] theorem spared_applyGone (nsid sseq : Nat) (d : Dev) : SparedBy d (applyGone nsid sseq d) := by
  refine sparedBy_of ?_
  dsimp only [applyGone]
  split <;> simp

@[simp ↓] theorem spared_applyUnshare (nsid page sub : Nat) (d : Dev) : SparedBy d (applyUnshare nsid page sub d) := by
  refine sparedBy_of ?_
  dsimp only [applyUnshare]; simp

@[simp ↓] theorem spared_putMask (nsid sq mask : Nat) (d : Dev) : SparedBy d (putMask nsid sq mask d) := by
  refine sparedBy_of ?_
  dsimp only [putMask]; simp

/-! ### Applying journal records (R221, R222, R362, R366, R369) -/

@[simp ↓] theorem spared_freeSlot (n : Nat) (d : Dev) : SparedBy d (freeSlot n d) := by
  refine sparedBy_of ?_
  dsimp only [freeSlot]; simp

@[simp ↓] theorem spared_entrySlot (own : Bool) (slot : Option Nat) (nsid sq tsn : Nat) (d : Dev) :
    SparedBy d (entrySlot own slot nsid sq tsn d) := by
  refine sparedBy_of ?_
  dsimp only [entrySlot]
  split <;> simp

@[simp ↓] theorem spared_releaseOld (own : Bool) (r : JRecord) (g : Nat) (d : Dev) :
    SparedBy d (releaseOld own r g d) := by
  refine sparedBy_of ?_
  dsimp only [releaseOld]
  split <;> simp

@[simp ↓] theorem spared_applyRekey (own : Bool) (r : JRecord) (e : SqEntry) (d : Dev) :
    SparedBy d (applyRekey own r e d) := by
  refine sparedBy_of ?_
  dsimp only [applyRekey]
  refine spared_of_ite (.refl d) ?_
  split <;> simp

@[simp ↓] theorem spared_applySquare (own : Bool) (r : JRecord) (repl : List Nat) (e : SqEntry) (acc : Copied × Dev) :
    SparedBy acc.2 (applySquare own r repl e acc).2 := by
  refine sparedBy_of ?_
  dsimp only [applySquare]
  split
  · repeat' split
    all_goals simp
  · split
    · dsimp only
      split <;> simp
    all_goals simp

@[simp ↓] theorem spared_applySquares (own : Bool) (r : JRecord) (es : List SqEntry) (d : Dev) :
    SparedBy d (applySquares own r es d) := by
  refine sparedBy_of ?_
  dsimp only [applySquares]; simp

@[simp ↓] theorem spared_applyMove (m : Nat × (Nat × Nat × Nat) × (Nat × Nat × Nat)) (d : Dev) :
    SparedBy d (applyMove m d) := by
  refine sparedBy_of ?_
  dsimp only [applyMove]; simp

@[simp ↓] theorem spared_applyPinDrop (g : Nat) (d : Dev) : SparedBy d (applyPinDrop g d) := by
  refine sparedBy_of ?_
  dsimp only [applyPinDrop]; simp

@[simp ↓] theorem spared_applyPageMap (m : Nat × Nat × Nat) (d : Dev) : SparedBy d (applyPageMap m d) := by
  refine sparedBy_of ?_
  dsimp only [applyPageMap]; simp

@[simp ↓] theorem spared_applyClose (seg rows : Nat) (short : Bool) (tempo : Nat) (d : Dev) :
    SparedBy d (applyClose seg rows short tempo d) := by
  refine sparedBy_of ?_
  dsimp only [applyClose]; simp

@[simp ↓] theorem spared_segBlocks (g : Seg) (f : Blk → Blk) (d : Dev) : SparedBy d (segBlocks g f d) := by
  refine sparedBy_of ?_
  dsimp only [segBlocks]; simp

@[simp ↓] theorem spared_applyNews (x : PageNews) (d : Dev) : SparedBy d (applyNews x d) := by
  refine sparedBy_of ?_
  dsimp only [applyNews]
  split <;> simp

@[simp ↓] theorem spared_applyRecord (r : JRecord) (d : Dev) : SparedBy d (applyRecord r d) := by
  refine sparedBy_of ?_
  dsimp only [applyRecord]
  split <;> split <;> simp

@[simp ↓] theorem spared_applyPeerRecords (m : Nat) (d : Dev) : SparedBy d (applyPeerRecords m d) := by
  induction m generalizing d with
  | zero => exact sparedBy_of (.refl _)
  | succ m ih =>
    refine sparedBy_of ?_
    rw [applyPeerRecords]
    split
    · rfl
    · simp [ih]

@[simp ↓] theorem spared_catchUp (d : Dev) : SparedBy d (catchUp d) := by
  refine sparedBy_of ?_
  dsimp only [catchUp]; simp

/-! ### Pauses (R158, R178, R181, R193) -/

@[simp ↓] theorem spared_modPort (p : Nat) (f : HostPort → HostPort) (d : Dev) : SparedBy d (modPort p f d) := by
  refine sparedBy_of ?_
  dsimp only [modPort]; simp

@[simp ↓] theorem spared_setPause (p cause mask : Nat) (d : Dev) : SparedBy d (setPause p cause mask d) := by
  refine sparedBy_of ?_
  dsimp only [setPause]; simp

@[simp ↓] theorem spared_pauseAll (cause mask : Nat) (d : Dev) : SparedBy d (pauseAll cause mask d) := by
  refine sparedBy_of ?_
  dsimp only [pauseAll]; simp

/-! ### The context-miss buffers (R26, R158) -/

@[simp ↓] theorem spared_showMiss (p : Nat) (d : Dev) : SparedBy d (showMiss p d) := by
  refine sparedBy_of ?_
  dsimp only [showMiss]; simp

@[simp ↓] theorem spared_missXon (p : Nat) (d : Dev) : SparedBy d (missXon p d) := by
  refine sparedBy_of ?_
  dsimp only [missXon]; simp

/-! ### Command records (Table 16.1, R501, R502) -/

@[simp ↓] theorem spared_modFc (n : Nat) (f : FrontCmd → FrontCmd) (d : Dev) : SparedBy d (modFc n f d) := by
  refine sparedBy_of ?_
  dsimp only [modFc]; simp

@[simp ↓] theorem spared_endCmd (n kind : Nat) (d : Dev) : SparedBy d (endCmd n kind d) := by
  refine sparedBy_of ?_
  dsimp only [endCmd]; simp

@[simp ↓] theorem spared_hostOut (c : HostCmd) (own : Out) (a : PeerAnswer) (d : Dev) :
    SparedBy d (hostOut c own a d) := by
  refine sparedBy_of ?_
  dsimp only [hostOut]; simp

@[simp ↓] theorem spared_sendData (c : HostCmd) (off : Nat) (b : Bytes) (d : Dev) :
    SparedBy d (sendData c off b d) := by
  refine sparedBy_of ?_
  dsimp only [sendData]; simp

@[simp ↓] theorem spared_postCompletion (n : Nat) (d : Dev) : SparedBy d (postCompletion n d) := by
  refine sparedBy_of ?_
  dsimp only [postCompletion]
  split <;> simp

@[simp ↓] theorem spared_complete (n st : Nat) (dnr : Bool) (d : Dev) : SparedBy d (complete n st dnr d) := by
  refine sparedBy_of ?_
  dsimp only [complete]; simp

/-! ### Slots (R190–R196) -/

@[simp ↓] theorem spared_showTight (d : Dev) : SparedBy d (showTight d) := by
  refine sparedBy_of ?_
  dsimp only [showTight]; simp

/-! ### Formats (Table 5.7, R163) -/

@[simp ↓] theorem spared_modWork (n : Nat) (f : Work → Work) (d : Dev) : SparedBy d (modWork n f d) := by
  refine sparedBy_of ?_
  dsimp only [modWork]; simp

@[simp ↓] theorem spared_awaitPeer (n : Nat) (d : Dev) : SparedBy d (awaitPeer n d) := by
  refine sparedBy_of ?_
  dsimp only [awaitPeer]; simp

@[simp ↓] theorem spared_packSlot (n action gid : Nat) (d : Dev) : SparedBy d (packSlot n action gid d) := by
  refine sparedBy_of ?_
  dsimp only [packSlot]; simp

@[simp ↓] theorem spared_issueAdd (n g expect_ swaps : Nat) (d : Dev) : SparedBy d (issueAdd n g expect_ swaps d) := by
  refine sparedBy_of ?_
  dsimp only [issueAdd]; simp

@[simp ↓] theorem spared_slotWritten (n : Nat) (d : Dev) : SparedBy d (slotWritten n d) := by
  refine sparedBy_of ?_
  dsimp only [slotWritten]
  simp
  split <;> simp

@[simp ↓] theorem spared_makeDurable (n : Nat) (d : Dev) : SparedBy d (makeDurable n d) := by
  refine sparedBy_of ?_
  dsimp only [makeDurable]
  simp
  split <;> simp

@[simp ↓] theorem spared_durableAlone (d : Dev) : SparedBy d (durableAlone d) := by
  refine sparedBy_of ?_
  dsimp only [durableAlone]; simp

@[simp ↓] theorem spared_abandonFrame (n : Nat) (d : Dev) : SparedBy d (abandonFrame n d) := by
  refine sparedBy_of ?_
  dsimp only [abandonFrame]; simp

@[simp ↓] theorem spared_backToDurable (n : Nat) (d : Dev) : SparedBy d (backToDurable n d) := by
  refine sparedBy_of ?_
  dsimp only [backToDurable]; simp

@[simp ↓] theorem spared_freeSlots (n : Nat) (d : Dev) : SparedBy d (freeSlots n d) := by
  refine sparedBy_of ?_
  dsimp only [freeSlots]; simp

/-! ### The row journal (R221, R225) -/

@[simp ↓] theorem spared_applyOwn (m : Nat) (d : Dev) : SparedBy d (applyOwn m d) := by
  induction m generalizing d with
  | zero => exact sparedBy_of (.refl _)
  | succ m ih =>
    refine sparedBy_of ?_
    rw [applyOwn]
    split
    · simp [ih]
    · rfl

@[simp ↓] theorem spared_commitReady (d : Dev) : SparedBy d (commitReady d) := by
  refine sparedBy_of ?_
  dsimp only [commitReady]; simp

@[simp ↓] theorem spared_postNews (nsid : Nat) (body : JBody) (news : List PageNews) (d : Dev) :
    SparedBy d (postNews nsid body news d) := by
  refine sparedBy_of ?_
  dsimp only [postNews]; simp

@[simp ↓] theorem spared_postRecord (nsid : Nat) (body : JBody) (d : Dev) : SparedBy d (postRecord nsid body d) := by
  refine sparedBy_of ?_
  dsimp only [postRecord]; simp

/-! ### Teardown of a context (R166, R168) -/

@[simp ↓] theorem spared_stopReads (n : Nat) (d : Dev) : SparedBy d (stopReads n d) := by
  refine sparedBy_of ?_
  dsimp only [stopReads]; simp

@[simp ↓] theorem spared_tearCmd (n : Nat) (d : Dev) : SparedBy d (tearCmd n d) := by
  refine sparedBy_of ?_
  dsimp only [tearCmd]
  simp
  split <;> simp

@[simp ↓] theorem spared_showCtx (d : Dev) : SparedBy d (showCtx d) := by
  refine sparedBy_of ?_
  dsimp only [showCtx]; simp

@[simp ↓] theorem spared_closeCtx (c : Nat) (d : Dev) : SparedBy d (closeCtx c d) := by
  refine sparedBy_of ?_
  dsimp only [closeCtx]; simp

@[simp ↓] theorem spared_emptyFwBuf (d : Dev) : SparedBy d (emptyFwBuf d) := by
  refine sparedBy_of ?_
  dsimp only [emptyFwBuf]; simp

@[simp ↓] theorem spared_teardown (c : Nat) (d : Dev) : SparedBy d (teardown c d) := by
  refine sparedBy_of ?_
  dsimp only [teardown]; simp

@[simp ↓] theorem spared_portTeardown (p : Nat) (d : Dev) : SparedBy d (portTeardown p d) := by
  refine sparedBy_of ?_
  dsimp only [portTeardown]; simp

/-! ### Lanes of the flash modules -/

@[simp ↓] theorem spared_modLink (n : Nat) (f : Lane12 → Lane12) (d : Dev) : SparedBy d (modLink n f d) := by
  refine sparedBy_of ?_
  dsimp only [modLink]; simp

@[simp ↓] theorem spared_modMod (n : Nat) (f : Module → Module) (d : Dev) : SparedBy d (modMod n f d) := by
  refine sparedBy_of ?_
  dsimp only [modMod]; simp

/-! ### Frames and credits -/

@[simp ↓] theorem spared_transmit (n : Nat) (f : MdlSent) (d : Dev) : SparedBy d (transmit n f d) := by
  refine sparedBy_of ?_
  dsimp only [transmit]; simp

@[simp ↓] theorem spared_sendFrame (n type tag : Nat) (d : Dev) : SparedBy d (sendFrame n type tag d) := by
  refine sparedBy_of ?_
  dsimp only [sendFrame]; simp

@[simp ↓] theorem spared_clearLane (n : Nat) (d : Dev) : SparedBy d (clearLane n d) := by
  refine sparedBy_of ?_
  dsimp only [clearLane]; simp

@[simp ↓] theorem spared_putFailed (n : Nat) (d : Dev) : SparedBy d (putFailed n d) := by
  have hfailed (e : Dev) : Spared e (wr (Reg.MDL_LANE_STATE n) 7 e) := by simp
  refine sparedBy_of ?_
  unfold putFailed
  dsimp only
  split
  · exact (hfailed d).trans (spared_of_ite (spared_declared ..) (.refl _))
  · exact ((Spared.of_by (spared_clearLane n d)).trans (hfailed _)).trans (spared_of_ite (spared_declared ..) (.refl _))

@[simp ↓] theorem spared_linkFail (n : Nat) (d : Dev) : SparedBy d (linkFail n d) := by
  refine sparedBy_of ?_
  dsimp only [linkFail]; simp

@[simp ↓] theorem spared_laneDown (n : Nat) (d : Dev) : SparedBy d (laneDown n d) := by
  refine sparedBy_of ?_
  dsimp only [laneDown]; simp

@[simp ↓] theorem spared_setCredit (n cls v : Nat) (d : Dev) : SparedBy d (setCredit n cls v d) := by
  refine sparedBy_of ?_
  dsimp only [setCredit]; simp

@[simp ↓] theorem spared_readCredit (n cls : Nat) (d : Dev) : SparedBy d (readCredit n cls d).2 := by
  refine sparedBy_of ?_
  dsimp only [readCredit]; simp

theorem spared_pumpOne {n : Nat} {d e : Dev} (h : pumpOne n d = some e) : SparedBy d e := by
  refine sparedBy_of ?_
  unfold pumpOne at h
  dsimp only at h
  split at h
  · cases h
  · split at h
    · split at h
      · cases h
        simp [spared_snd ‹readCredit _ _ _ = _›]
      · have h0 := spared_snd ‹readCredit n 0 d = _›
        split at h
        · cases h
          simp [spared_snd ‹readCredit n 1 _ = _›, h0]
        · have h1 := spared_snd ‹readCredit n 1 _ = _›
          split at h
          · cases h
          · cases h
            simp [h1, h0]
    · cases h

@[simp ↓] theorem spared_pump (n m : Nat) (d : Dev) : SparedBy d (pump n m d) := by
  induction m generalizing d with
  | zero => exact sparedBy_of (.refl _)
  | succ m ih =>
    refine sparedBy_of ?_
    rw [pump]
    split
    · exact (Spared.of_by (spared_pumpOne ‹_›)).trans (.of_by (ih _))
    · rfl

@[simp ↓] theorem spared_laneIssue (n : Nat) (c : LaneCmd) (d : Dev) : SparedBy d (laneIssue n c d) := by
  refine sparedBy_of ?_
  dsimp only [laneIssue]; simp

@[simp ↓] theorem spared_readFence (n : Nat) (d : Dev) : SparedBy d (readFence n d).2 := by
  refine sparedBy_of ?_
  dsimp only [readFence]; simp

@[simp ↓] theorem spared_issueWrite (n : Nat) (c : LaneCmd) (d : Dev) : SparedBy d (issueWrite n c d) := by
  refine sparedBy_of ?_
  dsimp only [issueWrite]; simp

@[simp ↓] theorem spared_setFence (n v : Nat) (d : Dev) : SparedBy d (setFence n v d) := by
  refine sparedBy_of ?_
  dsimp only [setFence]; simp

/-! ### Free blocks (R356, R358, R419, R654) -/

@[simp ↓] theorem spared_showPools (d : Dev) : SparedBy d (showPools d) := by
  refine sparedBy_of ?_
  dsimp only [showPools]; simp

/-! ### Opening segments (R408, R409, R418) -/

theorem spared_openSegment {p s : Nat} {gc isMeta : Bool} {d e : Dev} (h : Machine.openSegment p gc isMeta d = some (s, e)) :
    SparedBy d e := by
  refine sparedBy_of ?_
  unfold Machine.openSegment at h
  dsimp only at h
  split at h
  · cases h
  · split at h
    · cases h
    · cases h
      simp

/-! ### Rows (R214–R217) -/

@[simp ↓] theorem spared_modRow (n : Nat) (f : Row → Row) (d : Dev) : SparedBy d (modRow n f d) := by
  refine sparedBy_of ?_
  dsimp only [modRow]; simp

theorem spared_rowSegment {p kind s : Nat} {d e : Dev} (h : rowSegment p kind d = some (s, e)) : SparedBy d e := by
  refine sparedBy_of ?_
  dsimp only [rowSegment] at h
  split at h
  · cases h; rfl
  · exact .of_by (spared_openSegment h)

@[simp ↓] theorem spared_closeRow (n : Nat) (d : Dev) : SparedBy d (closeRow n d) := by
  refine sparedBy_of ?_
  dsimp only [closeRow]; simp

theorem spared_openRow {engine p kind n : Nat} {d e : Dev} (h : openRow engine p kind d = some (n, e)) :
    SparedBy d e := by
  refine sparedBy_of ?_
  dsimp only [openRow] at h
  split at h
  · cases h
  · cases h
    simp [spared_rowSegment ‹rowSegment _ _ _ = _›]

@[simp ↓] theorem spared_placeFrame (engine p kind : Nat) (f : FrameRef) (d : Dev) :
    SparedBy d (placeFrame engine p kind f d).2 := by
  refine sparedBy_of ?_
  dsimp only [placeFrame]
  split
  next h =>
    split at h
    · cases h
      repeat' split
      all_goals simp
    · refine Spared.trans ?_ ((Spared.of_by (spared_openRow h)).trans (by simp))
      repeat' split
      all_goals simp
  next =>
    repeat' split
    all_goals simp

@[simp ↓] theorem spared_refillRows (r : Row) (s : Nat) (d : Dev) : SparedBy d (refillRows r s d) := by
  refine sparedBy_of ?_
  dsimp only [refillRows]; simp

@[simp ↓] theorem spared_requeueRows (l : List Nat) (d : Dev) : SparedBy d (requeueRows l d) := by
  refine sparedBy_of ?_
  dsimp only [requeueRows]
  refine .of_by (spared_foldl_snd _ _ (_, d) fun acc n => ?_)
  split
  · simp
  · split
    · simp
    · split
      · simp [spared_openSegment ‹_›]
      · simp

/-! ### Closing segments and retiring blocks (R355, R370–R372, R655) -/

@[simp ↓] theorem spared_commitClose (s : Nat) (short : Bool) (d : Dev) : SparedBy d (commitClose s short d) := by
  refine sparedBy_of ?_
  dsimp only [commitClose]; simp

@[simp ↓] theorem spared_closeWhenIdle (s : Nat) (d : Dev) : SparedBy d (closeWhenIdle s d) := by
  refine sparedBy_of ?_
  dsimp only [closeWhenIdle]; simp

@[simp ↓] theorem spared_closeShort (s : Nat) (d : Dev) : SparedBy d (closeShort s d) := by
  refine sparedBy_of ?_
  dsimp only [closeShort]; simp

@[simp ↓] theorem spared_queueReloc (s : Nat) (d : Dev) : SparedBy d (queueReloc s d) := by
  refine sparedBy_of ?_
  dsimp only [queueReloc]; simp

@[simp ↓] theorem spared_showRebuild (d : Dev) : SparedBy d (showRebuild d) := by
  refine sparedBy_of ?_
  dsimp only [showRebuild]; simp

@[simp ↓] theorem spared_rerank (d : Dev) : SparedBy d (rerank d) := by
  refine sparedBy_of ?_
  dsimp only [rerank]; simp

@[simp ↓] theorem spared_queueRebuild (s : Nat) (d : Dev) : SparedBy d (queueRebuild s d) := by
  refine sparedBy_of ?_
  dsimp only [queueRebuild]; simp

@[simp ↓] theorem spared_retireBlock (m b cause : Nat) (d : Dev) : SparedBy d (retireBlock m b cause d) := by
  have hworn (e : Dev) : Spared e (raiseC Ev.FT_MEMBER_WEAR (unitOf 0xA m) b 0
      (setb Reg.MDL_FT_STATUS_MEMBER_WEAR { e with ftl.declare := e.ftl.declare ++ [m] })) := (spared_declared m e).trans (by simp)
  have hshown (e : Dev) : Spared e (showPools e) := by simp
  refine sparedBy_of ?_
  unfold retireBlock
  refine spared_of_ite (.refl d) (Spared.trans ?_ (spared_of_ite (hworn _) (hshown _)))
  simp

/-! ### Lost granules (R340, R434–R436) -/

@[simp ↓] theorem spared_placePage (kind page : Nat) (d : Dev) : SparedBy d (placePage kind page d).2 := by
  have hplaced {f : FrameRef} {o : Option Nat} {g e : Dev} (h : placeFrame 64 (pagePool page g) kind f g = (o, e)) : Spared g e := by
    have hframe : Spared g (placeFrame 64 (pagePool page g) kind f g).2 := by simp
    rwa [h] at hframe
  have hdrawn : Spared d (drawBytes 4160 d).2 := by simp
  refine sparedBy_of ?_
  dsimp only [placePage]
  split
  next h => exact (hdrawn.trans (hplaced h)).trans (by simp)
  next h => exact hdrawn.trans (hplaced h)

@[simp ↓] theorem spared_writeNews (page : Nat) (x : PageNews) (d : Dev) : SparedBy d (writeNews page x d).2 := by
  refine sparedBy_of ?_
  dsimp only [writeNews]
  split <;> simp

@[simp ↓] theorem spared_markLost (g cause missing : Nat) (d : Dev) : SparedBy d (markLost g cause missing d) := by
  refine sparedBy_of ?_
  dsimp only [markLost]; simp

/-! ### Transactions (R201, R202, R221, R658) -/

@[simp ↓] theorem spared_postTx (nsid : Nat) (es : List SqEntry) (d : Dev) : SparedBy d (postTx nsid es d) := by
  refine sparedBy_of ?_
  dsimp only [postTx]
  split <;> simp

/-! ### Rebuild rows (R427) -/

@[simp ↓] theorem spared_modRebuild (s : Nat) (f : Rebuild → Rebuild) (d : Dev) : SparedBy d (modRebuild s f d) := by
  refine sparedBy_of ?_
  dsimp only [modRebuild]; simp

@[simp ↓] theorem spared_rebuildRowEnded (n : Nat) (d : Dev) : SparedBy d (rebuildRowEnded n d) := by
  refine sparedBy_of ?_
  dsimp only [rebuildRowEnded]; simp

/-! ### Sessions with peers -/

@[simp ↓] theorem spared_modPeer (p : Nat) (f : PeerSess → PeerSess) (d : Dev) : SparedBy d (modPeer p f d) := by
  refine sparedBy_of ?_
  dsimp only [modPeer]; simp

@[simp ↓] theorem spared_sptPeer (p : Nat) (d : Dev) : SparedBy d (sptPeer p d).2 := by
  refine sparedBy_of ?_
  dsimp only [sptPeer]
  split <;> simp

@[simp ↓] theorem spared_openSession (p : Nat) (d : Dev) : SparedBy d (openSession p d) := by
  refine sparedBy_of ?_
  dsimp only [openSession]
  split
  · simp [spared_snd ‹sptPeer _ _ = _›]
  · split <;> simp [spared_snd ‹useKey _ _ _ _ = _›, spared_snd ‹sptPeer _ _ = _›]

@[simp ↓] theorem spared_sendRepl (p : Nat) (m : ReplMsg) (d : Dev) : SparedBy d (sendRepl p m d) := by
  refine sparedBy_of ?_
  dsimp only [sendRepl]
  simp
  split <;> simp

/-! ### Read jobs -/

@[simp ↓] theorem spared_modJob (j : Nat) (f : ReadJob → ReadJob) (d : Dev) : SparedBy d (modJob j f d) := by
  refine sparedBy_of ?_
  dsimp only [modJob]; simp

@[simp ↓] theorem spared_dropJob (j : Nat) (d : Dev) : SparedBy d (dropJob j d) := by
  refine sparedBy_of ?_
  dsimp only [dropJob]; simp

@[simp ↓] theorem spared_readPage (j i : Nat) (d : Dev) : SparedBy d (readPage j i d) := by
  refine sparedBy_of ?_
  dsimp only [readPage]
  split <;> simp

@[simp ↓] theorem spared_readPages (j : Nat) (d : Dev) : SparedBy d (readPages j d) := by
  refine sparedBy_of ?_
  dsimp only [readPages]; simp

/-! ### Guards and tags (R172–R174) -/

@[simp ↓] theorem spared_countPi (st : Nat) (d : Dev) : SparedBy d (countPi st d) := by
  refine sparedBy_of ?_
  dsimp only [countPi]; simp

/-! ### The end of a host read (R333–R336, R347) -/

@[simp ↓] theorem spared_sendSquares (n i : Nat) (d : Dev) : SparedBy d (sendSquares n i d) := by
  refine sparedBy_of ?_
  dsimp only [sendSquares]; simp

@[simp ↓] theorem spared_finishRead (n : Nat) (d : Dev) : SparedBy d (finishRead n d) := by
  refine sparedBy_of ?_
  dsimp only [finishRead]
  split
  · simp
  · split
    · simp
    · split <;> simp

@[simp ↓] theorem spared_squareDone (n i st : Nat) (dnr : Bool) (plain : Bytes) (d : Dev) :
    SparedBy d (squareDone n i st dnr plain d) := by
  refine sparedBy_of ?_
  dsimp only [squareDone]; simp

@[simp ↓] theorem spared_endRead (j st : Nat) (dnr : Bool) (plain : Bytes) (d : Dev) :
    SparedBy d (endRead j st dnr plain d) := by
  refine sparedBy_of ?_
  dsimp only [endRead]
  split
  case h_2 => split <;> simp
  all_goals simp

/-! ### Repair from a replica (R344–R346) -/

@[simp ↓] theorem spared_goRepair (j : Nat) (d : Dev) : SparedBy d (goRepair j d) := by
  refine sparedBy_of ?_
  dsimp only [goRepair]
  split <;> simp

@[simp ↓] theorem spared_unrecoverable (j : Nat) (d : Dev) : SparedBy d (unrecoverable j d) := by
  refine sparedBy_of ?_
  dsimp only [unrecoverable]
  split <;> simp

/-! ### Lookup (R318–R322, R341) -/

@[simp ↓] theorem spared_locate (j : Nat) (d : Dev) : SparedBy d (locate j d) := by
  refine sparedBy_of ?_
  dsimp only [locate]; simp

@[simp ↓] theorem spared_startGranule (who : ReadWho) (nsid sq g restarts : Nat) (d : Dev) :
    SparedBy d (startGranule who nsid sq g restarts d) := by
  refine sparedBy_of ?_
  dsimp only [startGranule]; simp

/-! ### Resignation (R510, R511) -/

@[simp ↓] theorem spared_endActivation (d : Dev) : SparedBy d (endActivation d) := by
  refine sparedBy_of ?_
  dsimp only [endActivation]
  split <;> simp

@[simp ↓] theorem spared_resignNow (cause : Nat) (d : Dev) : SparedBy d (resignNow cause d) := by
  refine sparedBy_of ?_
  dsimp only [resignNow]; simp

/-! ### Slots restored or adopted (R226, R227) -/

@[simp ↓] theorem spared_reserve (p n : Nat) (d : Dev) : SparedBy d (reserve p n d) := by
  refine sparedBy_of ?_
  dsimp only [reserve]; simp

@[simp ↓] theorem spared_restoreSlot (n : Nat) (s : Slot) (d : Dev) : SparedBy d (restoreSlot n s d) := by
  refine sparedBy_of ?_
  dsimp only [restoreSlot]; simp

@[simp ↓] theorem spared_doubtReleases (own : Bool) (d : Dev) : SparedBy d (doubtReleases own d) := by
  refine sparedBy_of ?_
  dsimp only [doubtReleases]; simp

/-! ### The winner's steps (R515) -/

@[simp ↓] theorem spared_closePeerSegment (s : Nat) (d : Dev) : SparedBy d (closePeerSegment s d) := by
  refine sparedBy_of ?_
  dsimp only [closePeerSegment]; simp

@[simp ↓] theorem spared_armOrphans (d : Dev) : SparedBy d (armOrphans d) := by
  refine sparedBy_of ?_
  dsimp only [armOrphans]; simp

@[simp ↓] theorem spared_adoptSlots (d : Dev) : SparedBy d (adoptSlots d) := by
  refine sparedBy_of ?_
  dsimp only [adoptSlots]; simp

@[simp ↓] theorem spared_adoptedKind (mirror : Tab Slot) (n : Nat) (r : CmdRecord) (d : Dev) :
    SparedBy d (adoptedKind mirror n r d).2 := by
  refine sparedBy_of ?_
  dsimp only [adoptedKind]
  split <;> simp

@[simp ↓] theorem spared_endPeerCommands (mirror : Tab Slot) (d : Dev) : SparedBy d (endPeerCommands mirror d) := by
  refine sparedBy_of ?_
  dsimp only [endPeerCommands]; simp

@[simp ↓] theorem spared_closePeers (d : Dev) : SparedBy d (closePeers d) := by
  refine sparedBy_of ?_
  dsimp only [closePeers]; simp

@[simp ↓] theorem spared_takeOver (claimed : Bool) (own0 own1 : Nat) (d : Dev) :
    SparedBy d (takeOver claimed own0 own1 d) := by
  refine sparedBy_of ?_
  dsimp only [takeOver]; simp

@[simp ↓] theorem spared_showClaims (d : Dev) : SparedBy d (showClaims d) := by
  refine sparedBy_of ?_
  dsimp only [showClaims]; simp

@[simp ↓] theorem spared_claimWon (d : Dev) : SparedBy d (claimWon d) := by
  refine sparedBy_of ?_
  dsimp only [claimWon]; simp

/-! ### The claim (R513, R514) -/

@[simp ↓] theorem spared_claimDecide (d : Dev) : SparedBy d (claimDecide d) := by
  refine sparedBy_of ?_
  dsimp only [claimDecide]; simp

@[simp ↓] theorem spared_modClaim (m : Nat) (f : Claim → Claim) (d : Dev) : SparedBy d (modClaim m f d) := by
  refine sparedBy_of ?_
  dsimp only [modClaim]; simp

@[simp ↓] theorem spared_issueClaim (m w : Nat) (d : Dev) : SparedBy d (issueClaim m w d) := by
  refine sparedBy_of ?_
  dsimp only [issueClaim]; simp

@[simp ↓] theorem spared_claimMember (m : Nat) (d : Dev) : SparedBy d (claimMember m d) := by
  refine sparedBy_of ?_
  dsimp only [claimMember]; simp

@[simp ↓] theorem spared_claimReturned (m : Nat) (d : Dev) : SparedBy d (claimReturned m d) := by
  refine sparedBy_of ?_
  dsimp only [claimReturned]; simp

@[simp ↓] theorem spared_claimResult (m : Nat) (c : LaneCmd) (rsp : Option LaneRsp) (d : Dev) :
    SparedBy d (claimResult m c rsp d) := by
  refine sparedBy_of ?_
  dsimp only [claimResult]
  split
  · simp
  · refine spared_of_ite (by simp) ?_
    split <;> simp

/-! ### The end of erases, writes and lane commands -/

@[simp ↓] theorem spared_finishErase (seg : Nat) (d : Dev) : SparedBy d (finishErase seg d) := by
  refine sparedBy_of ?_
  dsimp only [finishErase]; simp

@[simp ↓] theorem spared_eraseEnded (m b seg : Nat) (d : Dev) : SparedBy d (eraseEnded m b seg d) := by
  refine sparedBy_of ?_
  dsimp only [eraseEnded]; simp

@[simp ↓] theorem spared_eraseFailed (m b seg : Nat) (d : Dev) : SparedBy d (eraseFailed m b seg d) := by
  refine sparedBy_of ?_
  dsimp only [eraseFailed]; simp

@[simp ↓] theorem spared_identified (n : Nat) (d : Dev) : SparedBy d (identified n d) := by
  refine sparedBy_of ?_
  dsimp only [identified]; simp

@[simp ↓] theorem spared_laneEnded (n : Nat) (c : LaneCmd) (rsp : Option LaneRsp) (d : Dev) :
    SparedBy d (laneEnded n c rsp d) := by
  refine sparedBy_of ?_
  dsimp only [laneEnded]
  split
  case h_1 => split <;> simp
  case h_3 => split <;> simp
  case h_5 => split <;> simp
  case h_7 => split <;> simp
  case h_8 => split <;> simp
  case h_9 => split <;> simp
  all_goals simp

/-! ### The index decision (R203–R207, R227, R244, R245) -/

@[simp ↓] theorem spared_comparePolicy (ns : Ns) (d : Dev) : SparedBy d (comparePolicy ns d).2 := by
  refine sparedBy_of ?_
  dsimp only [comparePolicy]; simp

/-! ### Roots and snapshots -/

@[simp ↓] theorem spared_buryRoot (nsid : Nat) (d : Dev) : SparedBy d (buryRoot nsid d) := by
  refine sparedBy_of ?_
  dsimp only [buryRoot]; simp

/-! ### Relations -/

@[simp ↓] theorem spared_modRel (k : Nat) (f : Rel → Rel) (d : Dev) : SparedBy d (modRel k f d) := by
  refine sparedBy_of ?_
  dsimp only [modRel]; simp

@[simp ↓] theorem spared_showRel (d : Dev) : SparedBy d (showRel d) := by
  refine sparedBy_of ?_
  dsimp only [showRel]; simp

/-! ### The mailbox (Table 14.6) -/

@[simp ↓] theorem spared_mailEnd (result value : Nat) (d : Dev) : SparedBy d (mailEnd result value d) := by
  refine sparedBy_of ?_
  dsimp only [mailEnd]; simp

/-! ### Cuts (R441, R442) -/

@[simp ↓] theorem spared_stageCut (nsids : List Nat) (role : CutRole) (d : Dev) :
    SparedBy d (stageCut nsids role d) := by
  refine sparedBy_of ?_
  dsimp only [stageCut]; simp

/-! ### Sources: suspension and stream holds (R456, R458–R462) -/

@[simp ↓] theorem spared_postDrops (nsid : Nat) (gs : List Nat) (d : Dev) : SparedBy d (postDrops nsid gs d) := by
  refine sparedBy_of ?_
  dsimp only [postDrops]; simp

@[simp ↓] theorem spared_releaseHold (k tsn : Nat) (d : Dev) : SparedBy d (releaseHold k tsn d) := by
  refine sparedBy_of ?_
  dsimp only [releaseHold]; simp

@[simp ↓] theorem spared_suspendRel (k : Nat) (d : Dev) : SparedBy d (suspendRel k d) := by
  refine sparedBy_of ?_
  dsimp only [suspendRel]; simp

@[simp ↓] theorem spared_pumpStream (k : Nat) (d : Dev) : SparedBy d (pumpStream k d) := by
  refine sparedBy_of ?_
  dsimp only [pumpStream]; simp

@[simp ↓] theorem spared_checkCycle (k : Nat) (d : Dev) : SparedBy d (checkCycle k d) := by
  refine sparedBy_of ?_
  dsimp only [checkCycle]
  split <;> simp

@[simp ↓] theorem spared_offerAll (k : Nat) (d : Dev) : SparedBy d (offerAll k d) := by
  refine sparedBy_of ?_
  dsimp only [offerAll]
  split <;> simp

@[simp ↓] theorem spared_compareCycle (k : Nat) (d : Dev) : SparedBy d (compareCycle k d) := by
  refine sparedBy_of ?_
  dsimp only [compareCycle]
  split
  · refine spared_of_ite (by simp) (Spared.trans (by simp) (.of_by (spared_forEach _ _ _ fun i e => ?_)))
    split <;> simp
  · rfl

@[simp ↓] theorem spared_replRead (k batch i : Nat) (send_ : Bool) (st fmt : Nat) (pay plain : Bytes) (d : Dev) :
    SparedBy d (replRead k batch i send_ st fmt pay plain d) := by
  refine sparedBy_of ?_
  dsimp only [replRead]
  refine spared_of_ite (by simp) (spared_of_ite ?_ ?_)
  · split <;> simp
  · split <;> simp

@[simp ↓] theorem spared_noteSource (r : JRecord) (es : List SqEntry) (d : Dev) : SparedBy d (noteSource r es d) := by
  refine sparedBy_of ?_
  dsimp only [noteSource]; simp

/-! ### Targets (R457, R459) -/

@[simp ↓] theorem spared_modIn (k num : Nat) (f : InBatch → InBatch) (d : Dev) : SparedBy d (modIn k num f d) := by
  refine sparedBy_of ?_
  dsimp only [modIn]; simp

@[simp ↓] theorem spared_dropIn (k num : Nat) (d : Dev) : SparedBy d (dropIn k num d) := by
  refine sparedBy_of ?_
  dsimp only [dropIn]; simp

@[simp ↓] theorem spared_modItem (k num i : Nat) (f : InItem → InItem) (d : Dev) :
    SparedBy d (modItem k num i f d) := by
  refine sparedBy_of ?_
  dsimp only [modItem]; simp

@[simp ↓] theorem spared_offerHit (k g : Nat) (fp : Bytes) (d : Dev) : SparedBy d (offerHit k g fp d).2 := by
  refine sparedBy_of ?_
  dsimp only [offerHit]; simp

@[simp ↓] theorem spared_applyStream (k : Nat) (d : Dev) : SparedBy d (applyStream k d) := by
  refine sparedBy_of ?_
  dsimp only [applyStream]
  split <;> simp

@[simp ↓] theorem spared_settleBatch (k num : Nat) (d : Dev) : SparedBy d (settleBatch k num d) := by
  refine sparedBy_of ?_
  dsimp only [settleBatch]
  split <;> simp

@[simp ↓] theorem spared_offerAnswer (k num i : Nat) (a : ProbeAns) (d : Dev) :
    SparedBy d (offerAnswer k num i a d) := by
  refine sparedBy_of ?_
  dsimp only [offerAnswer]
  split <;> simp

/-! ### What follows a cut (R442, R458, R461, R466) -/

@[simp ↓] theorem spared_rollTo (nsid sseq : Nat) (d : Dev) : SparedBy d (rollTo nsid sseq d) := by
  refine sparedBy_of ?_
  dsimp only [rollTo]; simp

@[simp ↓] theorem spared_cutApplied (c : Cut) (d : Dev) : SparedBy d (cutApplied c d) := by
  refine sparedBy_of ?_
  dsimp only [cutApplied]
  split
  case h_6 => split <;> simp
  all_goals simp

@[simp ↓] theorem spared_squaresApplied (r : JRecord) (es : List SqEntry) (d : Dev) :
    SparedBy d (squaresApplied r es d) := by
  refine sparedBy_of ?_
  dsimp only [squaresApplied]
  split
  · repeat' split
    all_goals simp
  · repeat' split
    all_goals simp

@[simp ↓] theorem spared_batchReady (k num : Nat) (d : Dev) : SparedBy d (batchReady k num d) := by
  refine sparedBy_of ?_
  dsimp only [batchReady]; simp

/-! ### What follows a commit -/

@[simp ↓] theorem spared_armSegment (s : Nat) (d : Dev) : SparedBy d (armSegment s d) := by
  refine sparedBy_of ?_
  dsimp only [armSegment]; simp

@[simp ↓] theorem spared_endRebuild (s : Nat) (d : Dev) : SparedBy d (endRebuild s d) := by
  refine sparedBy_of ?_
  dsimp only [endRebuild]; simp

@[simp ↓] theorem spared_afterCommit (r : JRecord) (d : Dev) : SparedBy d (afterCommit r d) := by
  refine sparedBy_of ?_
  dsimp only [afterCommit]
  split
  case h_4 =>
    refine .of_by (spared_foldl _ _ _ fun e x => ?_)
    split <;> simp
  all_goals simp

/-! ### Tables and arithmetic (R474) -/

@[simp ↓] theorem spared_modDst (n : Nat) (f : CdtDst → CdtDst) (d : Dev) : SparedBy d (modDst n f d) := by
  refine sparedBy_of ?_
  dsimp only [modDst]; simp

@[simp ↓] theorem spared_modPath (dev port : Nat) (f : CdtPath → CdtPath) (d : Dev) :
    SparedBy d (modPath dev port f d) := by
  refine sparedBy_of ?_
  dsimp only [modPath]; simp

/-! ### Paths and presence (R470, R497) -/

@[simp ↓] theorem spared_resendMirror (port : Nat) (d : Dev) : SparedBy d (resendMirror port d) := by
  refine sparedBy_of ?_
  dsimp only [resendMirror]; simp

@[simp ↓] theorem spared_sendPoolKeys (dev : Nat) (d : Dev) : SparedBy d (sendPoolKeys dev d) := by
  refine sparedBy_of ?_
  dsimp only [sendPoolKeys]; simp

@[simp ↓] theorem spared_showPaths (d : Dev) : SparedBy d (showPaths d) := by
  refine sparedBy_of ?_
  dsimp only [showPaths]
  simp
  split <;> simp

/-! ### Sending (R474–R477, R480) -/

@[simp ↓] theorem spared_countCluster (dst port len : Nat) (d : Dev) : SparedBy d (countCluster dst port len d) := by
  refine sparedBy_of ?_
  dsimp only [countCluster]; simp

@[simp ↓] theorem spared_emitPkt (dst port : Nat) (h : CdtHdr) (payload : Bytes) (reliable : Bool) (d : Dev) :
    SparedBy d (emitPkt dst port h payload reliable d) := by
  refine sparedBy_of ?_
  dsimp only [emitPkt]; simp

@[simp ↓] theorem spared_pumpPath (dst port m : Nat) (d : Dev) : SparedBy d (pumpPath dst port m d) := by
  induction m generalizing d with
  | zero => exact sparedBy_of (.refl _)
  | succ m ih =>
    refine sparedBy_of ?_
    rw [pumpPath]
    dsimp only
    split <;> simp [ih]

@[simp ↓] theorem spared_sendPkts (dst port : Nat) (l : List CdtPkt) (d : Dev) :
    SparedBy d (sendPkts dst port l d) := by
  refine sparedBy_of ?_
  dsimp only [sendPkts]; simp

@[simp ↓] theorem spared_openMsg (dst : Nat) (m : CdtMsg) (d : Dev) : SparedBy d (openMsg dst m d).2 := by
  refine sparedBy_of ?_
  dsimp only [openMsg]; simp

/-! ### Reports (R256, R489, R491, R492) -/

@[simp ↓] theorem spared_advanceCdt (r m : Nat) (d : Dev) : SparedBy d (advanceCdt r m d) := by
  induction m generalizing d with
  | zero => exact sparedBy_of (.refl _)
  | succ m ih =>
    refine sparedBy_of ?_
    rw [advanceCdt]
    simp [ih]

@[simp ↓] theorem spared_reportDesc (r i status reason nak outcome bytes : Nat) (intr : Bool) (d : Dev) :
    SparedBy d (reportDesc r i status reason nak outcome bytes intr d) := by
  refine sparedBy_of ?_
  dsimp only [reportDesc]; simp

@[simp ↓] theorem spared_endMsg (dst : Nat) (m : CdtMsg) (ok : Bool) (reason nak outcome bytes : Nat) (d : Dev) :
    SparedBy d (endMsg dst m ok reason nak outcome bytes d) := by
  refine sparedBy_of ?_
  have hreported {e : Dev} (h : Spared d e) : Spared d (match m.desc with
      | some (r, i) => reportDesc r i (if ok then 1 else 2) (if ok then 0 else reason) nak outcome bytes m.intr e
      | none => e) := by
    split
    · exact h.trans (.of_by fun _ => spared_reportDesc ..)
    · exact h
  refine hreported ?_
  split <;> simp

@[simp ↓] theorem spared_failMsg (dst reason : Nat) (m : CdtMsg) (d : Dev) : SparedBy d (failMsg dst reason m d) := by
  refine sparedBy_of ?_
  dsimp only [failMsg]; simp

@[simp ↓] theorem spared_failPath (dst port reason : Nat) (d : Dev) : SparedBy d (failPath dst port reason d) := by
  refine sparedBy_of ?_
  dsimp only [failPath]; simp

@[simp ↓] theorem spared_cercoDown (p : Nat) (d : Dev) : SparedBy d (cercoDown p d) := by
  refine sparedBy_of ?_
  dsimp only [cercoDown]; simp

/-! ### Messages of the internal queues (R652) -/

@[simp ↓] theorem spared_createInternal (x : Nat × Nat × Nat × Option Nat) (d : Dev) :
    SparedBy d (createInternal x d) := by
  refine sparedBy_of ?_
  dsimp only [createInternal]
  split <;> simp

@[simp ↓] theorem spared_pumpWaiting (m : Nat) (d : Dev) : SparedBy d (pumpWaiting m d) := by
  induction m generalizing d with
  | zero => exact sparedBy_of (.refl _)
  | succ m ih =>
    refine sparedBy_of ?_
    rw [pumpWaiting]
    split <;> simp [ih]

@[simp ↓] theorem spared_takeMessages (d : Dev) : SparedBy d (takeMessages d) := by
  refine sparedBy_of ?_
  dsimp only [takeMessages]; simp

/-! ### What follows a command -/

@[simp ↓] theorem spared_reductionLost (unit : Nat) (d : Dev) : SparedBy d (reductionLost unit d) := by
  refine sparedBy_of ?_
  dsimp only [reductionLost]
  simp
  split <;> simp

@[simp ↓] theorem spared_react (t : Todo) (d : Dev) : SparedBy d (react t d) := by
  refine sparedBy_of ?_
  dsimp only [react]
  split <;> simp

@[simp ↓] theorem spared_drain (m : Nat) (d : Dev) : SparedBy d (drain m d) := by
  induction m generalizing d with
  | zero =>
    refine sparedBy_of ?_
    rw [drain]
    simp
  | succ m ih =>
    refine sparedBy_of ?_
    rw [drain]
    split <;> simp [ih]

@[simp ↓] theorem spared_finish (d : Dev) : SparedBy d (finish d) := by
  refine sparedBy_of ?_
  dsimp only [finish]; simp

/-! ### Commands -/

/-- A live device answers its commands; what the effect leaves, the reactions to it spare. -/
theorem answers_spared {c : Instr} {s : State} {f : Dev → Dev} {P : Dev → Prop} (hx : exec c s = runLive f s) (hlive : s.dev.live = true)
    (hp : ∀ g, Spared (f s.dev.quiet) g → P g) : Answers c s P :=
  ⟨⟨finish (f s.dev.quiet), s.pending⟩, hx.trans (runLive_eq f s hlive), rfl, hp _ (.of_by (spared_finish _))⟩

end Sys2Proof.Proofs

/-!
PROOFS. O54: a Check entry's escalation and the clearing of entries. What a Double check's raise leaves where an entry is free; where none is,
the reactions may be any, and spare FLT_STATUS.ESC.
-/

namespace Sys2Proof.Proofs

open Sys2Proof Sys2Proof.Machine

/-! ### Records move the recorder's registers alone -/

theorem recorderOnly_countLost (d : Dev) : KeptBut [5] d (countLost d) :=
  (keptBut_setScr d { d.scr with lost := d.scr.lost + 1 }).trans ((KeptBut.bump _ _ (by decide)).trans (.setb _ _ (by decide)))

theorem recorderOnly_holdRecord (r : ScoreRecord) (d : Dev) : KeptBut [5] d (holdRecord r d) := by
  have hput (q : List ScoreRecord) (e : Dev) : KeptBut [5] e (wr Reg.SCR_STATUS_HOLD q.length { e with scr.holdq := q }) :=
    (keptBut_setScr e { e.scr with holdq := q }).trans (.wr _ _ _ (by decide))
  unfold holdRecord
  refine .ite _ (fun _ => hput _ d) fun _ => .ite _ (fun _ => recorderOnly_countLost d) fun _ => ?_
  split
  · exact (recorderOnly_countLost d).trans (hput _ _)
  · exact recorderOnly_countLost d

theorem recorderOnly_writeRecord (r : ScoreRecord) (d : Dev) : KeptBut [5] d (writeRecord r d) := by
  have hplaced (x : Scr) (i n : Nat) : KeptBut [5] d (wr Reg.SCR_SEQ_NEXT n (wr Reg.SCR_PTR_VIDX i { d with scr := x })) :=
    (keptBut_setScr d x).trans ((KeptBut.wr _ i _ (by decide)).trans (.wr _ n _ (by decide)))
  unfold writeRecord
  refine .ite _ (fun _ => .ite _ (fun _ => ?_) fun _ => ?_) fun _ => hplaced _ _ _
  · exact (hplaced _ _ _).trans (keptBut_setScr _ _)
  · exact (hplaced _ _ _).trans ((KeptBut.bump _ _ (by decide)).trans (.setb _ _ (by decide)))

theorem recorderOnly_recordEvent (cls : EvClass) (code unit data0 data1 : Nat) (escalated : Bool) (d : Dev) :
    KeptBut [5] d (recordEvent cls code unit data0 data1 escalated d) := by
  unfold recordEvent
  refine .ite _ (fun _ => keptBut_setScr d _) fun _ => .ite _ (fun _ => ?_) fun _ => ?_
  · exact (keptBut_setScr d _).trans (recorderOnly_holdRecord _ _)
  · exact (keptBut_setScr d _).trans (recorderOnly_writeRecord _ _)

theorem rd_keptBut {bs : List Nat} {d e : Dev} (h : KeptBut bs d e) {f : Field} (hb : f.off / 0x100000 ∉ bs) (ha : f.off ∉ ambientRegs) :
    Machine.rd f e = Machine.rd f d := by
  have hreg := h.regs f.off hb ha
  simp only [rdReg] at hreg
  rw [Machine.rd, Machine.rd, hreg]

theorem recordOnly_recordEvent (cls : EvClass) (code unit data0 data1 : Nat) (escalated : Bool) (d : Dev) :
    RecordOnly d (recordEvent cls code unit data0 data1 escalated d) := by
  unfold recordEvent
  refine recordOnly_ite _ (recordOnly_setScr _ _) (recordOnly_ite _ ?_ ?_)
  · exact (recordOnly_setScr _ _).trans (recordOnly_holdRecord _ _)
  · exact (recordOnly_setScr _ _).trans (recordOnly_writeRecord _ _)

theorem rd_of_rdReg {f : Field} {d e : Dev} (h : rdReg f.off e = rdReg f.off d) : rd f e = rd f d := by
  rw [rdReg, rdReg] at h
  rw [rd, rd, h]

/-! ### A Double check entry (R574, R578) -/

/-- A Double check entry is filled. -/
def openDchk (j code unit : Nat) (escalated : Bool) (d : Dev) : Dev :=
  let d := wr (Reg.FLT_DCHK_CODE j) code (wr (Reg.FLT_DCHK_UNIT j) unit d)
  let d := wr (Reg.FLT_DCHK_ESCALATED j) (b2n escalated) (clr (Reg.FLT_DCHK_RECUR j) d)
  let d := wr (Reg.FLT_DCHK_T_RAISED j) (tempoNow d) (setb (Reg.FLT_DCHK_OPEN j) d)
  wr Reg.FLT_STATUS_DCHK_OPEN (rd Reg.FLT_STATUS_DCHK_OPEN d + 1) d

/-- The entry shows the Double check; registers of other blocks stand, and so do the Check entries. -/
structure DchkOpened (j code unit : Nat) (escalated : Bool) (d e : Dev) : Prop where
  only : RecordOnly d e
  regs : ∀ o, o / 0x100000 ≠ 4 → o / 0x100000 ≠ 5 → o ∉ ambientRegs → rdReg o e = rdReg o d
  checks : ∀ k < 64, rd (Reg.FLT_CHK_OPEN k) e = rd (Reg.FLT_CHK_OPEN k) d
  escalations : rd Reg.FLT_STATUS_ESC e = rd Reg.FLT_STATUS_ESC d
  counted : rd Reg.FLT_CNT_DCHECKS d + 1 < 2 ^ 16 → rd Reg.FLT_CNT_DCHECKS e = rd Reg.FLT_CNT_DCHECKS d + 1
  opened : rd (Reg.FLT_DCHK_OPEN j) e = 1
  code_eq : rd (Reg.FLT_DCHK_CODE j) e = code % 2 ^ 16
  unit_eq : rd (Reg.FLT_DCHK_UNIT j) e = unit % 2 ^ 16
  escalated_eq : rd (Reg.FLT_DCHK_ESCALATED j) e = b2n escalated
  raised : rd (Reg.FLT_DCHK_T_RAISED j) e = tempoNow d

theorem apart_iff {f g : Field} : f.apart g = true ↔ f.off ≠ g.off ∨ f.msb < g.lsb ∨ g.msb < f.lsb := by
  rw [Field.apart, Bool.or_eq_true, Bool.or_eq_true, decide_eq_true_iff, decide_eq_true_iff, decide_eq_true_iff, or_assoc]

/-- `rd_wr_apart` with its conditions on numbers. -/
theorem rd_wr_clear {f g : Field} (hf : f.lsb ≤ f.msb ∧ f.msb < 64) (hg : g.lsb ≤ g.msb ∧ g.msb < 64)
    (h : f.off ≠ g.off ∨ f.msb < g.lsb ∨ g.msb < f.lsb) (v : Nat) (d : Dev) : rd g (wr f v d) = rd g d :=
  rd_wr_apart (by simpa [Field.fits] using hf) (by simpa [Field.fits] using hg) (apart_iff.2 h) v d

/-- What a filled entry reads as; every field of another register but DCHK_OPEN keeps its value. -/
structure DchkFilled (j code unit : Nat) (escalated : Bool) (d e : Dev) : Prop where
  other : ∀ f : Field, f.fits = true → (f.off < 0x401400 ∨ 0x401600 ≤ f.off) → Reg.FLT_STATUS_DCHK_OPEN.apart f = true → rd f e = rd f d
  opened : rd (Reg.FLT_DCHK_OPEN j) e = 1
  code_eq : rd (Reg.FLT_DCHK_CODE j) e = code % 2 ^ 16
  unit_eq : rd (Reg.FLT_DCHK_UNIT j) e = unit % 2 ^ 16
  escalated_eq : rd (Reg.FLT_DCHK_ESCALATED j) e = b2n escalated
  raised : rd (Reg.FLT_DCHK_T_RAISED j) e = tempoNow d

theorem openDchk_filled {j : Nat} (hj : j < 32) (code unit : Nat) (escalated : Bool) (d : Dev) :
    DchkFilled j code unit escalated d (openDchk j code unit escalated d) := by
  constructor
  case other =>
    intro f hf hoff ha
    dsimp only [openDchk, setb, clr]
    rw [rd_wr_apart rfl hf ha]
    simp (disch := simp only [Reg.FLT_DCHK_CODE, Reg.FLT_DCHK_UNIT, Reg.FLT_DCHK_OPEN, Reg.FLT_DCHK_RECUR, Reg.FLT_DCHK_ESCALATED,
      Reg.FLT_DCHK_T_RAISED]; omega) only [rd_wr_off]
  all_goals
    simp (disch := simp only [Reg.FLT_DCHK_CODE, Reg.FLT_DCHK_UNIT, Reg.FLT_DCHK_OPEN, Reg.FLT_DCHK_RECUR, Reg.FLT_DCHK_ESCALATED,
      Reg.FLT_DCHK_T_RAISED, Reg.FLT_STATUS_DCHK_OPEN]; omega) only [openDchk, setb, clr, rd_wr_clear]
  case opened => rw [rd_wr_same rfl]; rfl
  case code_eq => exact rd_wr_same rfl _ _
  case unit_eq => exact rd_wr_same rfl _ _
  case escalated_eq => rw [rd_wr_same rfl]; cases escalated <;> rfl
  case raised =>
    simp (disch := simp only [Reg.TMP_NUMBER_NUMBER, Reg.FLT_DCHK_CODE, Reg.FLT_DCHK_UNIT, Reg.FLT_DCHK_OPEN, Reg.FLT_DCHK_RECUR,
      Reg.FLT_DCHK_ESCALATED]; omega) only [tempoNow, rd_wr_off]
    rw [rd_wr_same rfl]
    exact Nat.mod_eq_of_lt (rd_lt Reg.TMP_NUMBER_NUMBER d)

/-- A Double check that is not open already has taken entry `j`. -/
structure DchkRaised (j code unit : Nat) (escalated : Bool) (d e : Dev) : Prop where
  only : RecordOnly d e
  other : ∀ f : Field, f.fits = true → f.off ∉ ambientRegs → (f.off < 0x401400 ∨ 0x401600 ≤ f.off) → f.off / 0x100000 ≠ 5 →
    f.off ≠ Reg.FLT_CNT_DCHECKS.off → Reg.FLT_STATUS_DCHK_OPEN.apart f = true → rd f e = rd f d
  counted : rd Reg.FLT_CNT_DCHECKS d + 1 < 2 ^ 16 → rd Reg.FLT_CNT_DCHECKS e = rd Reg.FLT_CNT_DCHECKS d + 1
  opened : rd (Reg.FLT_DCHK_OPEN j) e = 1
  code_eq : rd (Reg.FLT_DCHK_CODE j) e = code % 2 ^ 16
  unit_eq : rd (Reg.FLT_DCHK_UNIT j) e = unit % 2 ^ 16
  escalated_eq : rd (Reg.FLT_DCHK_ESCALATED j) e = b2n escalated
  raised : rd (Reg.FLT_DCHK_T_RAISED j) e = tempoNow d

theorem faultRegs_notAmbient {o : Nat} (hlo : 0x400000 ≤ o) (hhi : o < 0x500000) : o ∉ ambientRegs := by
  simp only [ambientRegs, messageRegs, settleRegs, List.cons_append, List.nil_append, List.mem_cons, List.not_mem_nil, or_false,
    Reg.CDT_OUT_COUNT, Reg.CDT_SENT_COUNT, Reg.CDT_FAILED_COUNT, Reg.CDT_INJ_ARM, Reg.GLB_INTR_STAT_LEVEL, msixPba]
  omega

theorem dchkRaised_of_filled {j code unit : Nat} {escalated : Bool} {d x : Dev} (hj : j < 32) (n a b : Nat)
    (hx : x = { bump Reg.FLT_CNT_DCHECKS d with free := n }) :
    DchkRaised j code unit escalated d (recordEvent .dcheck code unit a b escalated (openDchk j code unit escalated x)) := by
  have hfilled := openDchk_filled hj code unit escalated x
  have hbump {f : Field} (h : f.off ≠ Reg.FLT_CNT_DCHECKS.off) : rd f x = rd f d := by rw [hx]; exact rd_bump_off h d
  have hrec {f : Field} (hb : f.off / 0x100000 ≠ 5) (ha : f.off ∉ ambientRegs) :
      rd f (recordEvent .dcheck code unit a b escalated (openDchk j code unit escalated x)) = rd f (openDchk j code unit escalated x) :=
    rd_keptBut (recorderOnly_recordEvent ..) (by simpa using hb) ha
  have hentry {f : Field} (h : 0x400000 ≤ f.off ∧ f.off < 0x500000) :
      rd f (recordEvent .dcheck code unit a b escalated (openDchk j code unit escalated x)) = rd f (openDchk j code unit escalated x) :=
    hrec (by omega) (faultRegs_notAmbient h.1 h.2)
  have hword {o : Nat} (ho : o = 0x401400 + 0x10 * j ∨ o = 0x401408 + 0x10 * j) : 0x400000 ≤ o ∧ o < 0x500000 := by omega
  constructor
  case only =>
    have hopen : RecordOnly x (openDchk j code unit escalated x) := by
      dsimp only [openDchk, setb, clr]
      exact (recordOnly_wr ..).trans ((recordOnly_wr ..).trans ((recordOnly_wr ..).trans ((recordOnly_wr ..).trans ((recordOnly_wr ..).trans
        ((recordOnly_wr ..).trans (recordOnly_wr ..))))))
    have hcount : RecordOnly d x := by rw [hx]; exact (recordOnly_bump _ d).trans rfl
    exact hcount.trans (hopen.trans (recordOnly_recordEvent ..))
  case other =>
    intro f hfits ha hoff hb hcnt hstatus
    rw [hrec hb ha, hfilled.other f hfits hoff hstatus, hbump hcnt]
  case counted =>
    intro h
    rw [hentry (by decide), hfilled.other _ (by decide) (by decide) (by decide), hx]
    exact rd_bump_same (by decide) h
  case opened => rw [hentry (hword (.inl rfl)), hfilled.opened]
  case code_eq => rw [hentry (hword (.inl rfl)), hfilled.code_eq]
  case unit_eq => rw [hentry (hword (.inl rfl)), hfilled.unit_eq]
  case escalated_eq => rw [hentry (hword (.inl rfl)), hfilled.escalated_eq]
  case raised => rw [hentry (hword (.inr rfl)), hfilled.raised, tempoNow, hbump (by decide), tempoNow]

/-- The Double check entries that stand open are a matter of their words. -/
theorem findDchk_congr {code unit : Nat} {d e : Dev} (h : ∀ f : Field, 0x401400 ≤ f.off → f.off < 0x401600 → rd f e = rd f d) :
    findDchk code unit e = findDchk code unit d := by
  rw [findDchk, findDchk]
  refine List.find?_congr fun j hj => ?_
  have hj := List.mem_range.1 hj
  have hword : 0x401400 ≤ 0x401400 + 0x10 * j ∧ 0x401400 + 0x10 * j < 0x401600 := by omega
  rw [rdb, rdb, h (Reg.FLT_DCHK_OPEN j) hword.1 hword.2, h (Reg.FLT_DCHK_CODE j) hword.1 hword.2, h (Reg.FLT_DCHK_UNIT j) hword.1 hword.2]

/-- A Double check that is not open already takes a free entry, and owes the quarantine and the castling test (R578). -/
theorem raiseD_opens {code unit : Nat} {d : Dev} (hnone : findDchk code unit d = none) (hroom : ∃ j < 32, rd (Reg.FLT_DCHK_OPEN j) d = 0)
    (a b : Nat) (escalated : Bool) : ∃ j < 32, rdb (Reg.FLT_DCHK_OPEN j) d = false ∧ ∃ e, DchkRaised j code unit escalated d e ∧
      raiseD code unit a b escalated d = { e with todo := d.todo ++ [.quarantine unit, .castleTest code unit] } := by
  have hcount : Reg.FLT_CNT_DCHECKS.off = 0x400010 := rfl
  have hopen (j : Nat) : rdb (Reg.FLT_DCHK_OPEN j) (bump Reg.FLT_CNT_DCHECKS d) = rdb (Reg.FLT_DCHK_OPEN j) d := by
    rw [rdb, rdb, rd_bump_off (by simp only [Reg.FLT_DCHK_OPEN]; omega)]
  have hnone' : findDchk code unit (bump Reg.FLT_CNT_DCHECKS d) = none :=
    (findDchk_congr fun f hf _ => rd_bump_off (by omega) d).trans hnone
  have hne : (those 32 fun j => !rdb (Reg.FLT_DCHK_OPEN j) (bump Reg.FLT_CNT_DCHECKS d)) ≠ [] := by
    obtain ⟨j, hj, hfree⟩ := hroom
    refine List.ne_nil_of_mem (a := j) (List.mem_filter.2 ⟨List.mem_range.2 hj, ?_⟩)
    rw [hopen, rdb, hfree]; rfl
  obtain ⟨j, hmem, hpick⟩ := pickFree_mem hne (bump Reg.FLT_CNT_DCHECKS d)
  obtain ⟨hj, hfree⟩ := List.mem_filter.1 hmem
  rw [hopen] at hfree
  generalize hx : ({ bump Reg.FLT_CNT_DCHECKS d with free := (bump Reg.FLT_CNT_DCHECKS d).free + 1 } : Dev) = x at hpick
  have hraised : DchkRaised j code unit escalated d (recordEvent .dcheck code unit a b escalated (openDchk j code unit escalated x)) :=
    dchkRaised_of_filled (List.mem_range.1 hj) _ a b hx.symm
  refine ⟨j, List.mem_range.1 hj, by simpa using hfree, _, hraised, ?_⟩
  rw [← hraised.only.todo]
  dsimp only [raiseD]
  rw [hnone']
  dsimp only
  rw [hpick]
  dsimp only [openDchk]

/-! ### Units that nothing quarantines, codes that castle no head (Table 20.3, R510) -/

/-- Nothing is quarantined. -/
theorem react_quarantine_none {unit : Nat} (h : unit / 256 ∈ [0x00, 0x07, 0x0B, 0x0C, 0x0D, 0x0E, 0x11, 0x12, 0x13]) (d : Dev) :
    react (.quarantine unit) d = d := by
  have hkept : quarantine unit d = d := by
    simp only [List.mem_cons, List.not_mem_nil, or_false] at h
    rcases h with h | h | h | h | h | h | h | h | h <;> simp [quarantine, h]
  have hengine : unit / 256 ≠ 1 := by rintro he; simp [he] at h
  simp [react, hkept, reductionLost, hengine]

theorem react_castleTest_none {code unit : Nat} {d : Dev} (h : code ∉ [Ev.KING_SPLIT, Ev.CIP_NO_LANE, Ev.DIG_NO_LANE, Ev.CMP_NO_LANE,
    Ev.ERS_NO_LANE, Ev.TT_LOST, Ev.FAB_FAIL, Ev.FT_MD_LOST, Ev.PAIR_WRONG, Ev.CAS_LOST_RACE]) : react (.castleTest code unit) d = d := by
  simp only [List.mem_cons, List.not_mem_nil, or_false, not_or] at h
  obtain ⟨hking, hcip, hdig, hcmp, hers, htt, hfab, hmd, hpair, hrace⟩ := h
  simp [react, castleTest, hking, hcip, hdig, hcmp, hers, htt, hfab, hmd, hpair, hrace]

/-- Reactions that change nothing are carried out and change nothing. -/
theorem drain_none {ts : List Todo} (h : ∀ t ∈ ts, ∀ e, react t e = e) :
    ∀ {n : Nat} {d : Dev}, ts.length ≤ n → d.todo = ts → drain n d = { d with todo := [] } := by
  induction ts with
  | nil =>
    intro n d _ hd
    cases n with
    | zero => rfl
    | succ n => simp only [drain, hd]; rw [← hd]
  | cons t ts ih =>
    intro n d hn hd
    obtain ⟨n, rfl⟩ := Nat.exists_eq_succ_of_ne_zero (Nat.ne_of_gt (Nat.lt_of_lt_of_le (Nat.succ_pos _) hn))
    rw [drain, hd]
    dsimp only
    rw [h t List.mem_cons_self, ih (fun u hu => h u (List.mem_cons_of_mem _ hu)) (Nat.le_of_succ_le_succ hn) rfl]

/-- What a command leaves whose reactions, carried out, leave `e`. -/
theorem RunsTo.drained {c : Instr} {s : State} {P : Dev → Prop} {x e : Dev} (hruns : RunsTo c s x) (hd : drain 4096 x = e)
    (ht : e.todo = []) (hp : ∀ g, EndedFrom e g → P g) : Answers c s P := by
  have hfinish : finish x = finish e := by
    rw [finish, finish, hd, drain_none (ts := []) (fun t h => absurd h (List.not_mem_nil)) (Nat.zero_le _) ht, ← ht]
  exact ⟨⟨finish x, s.pending⟩, hruns, rfl, hfinish ▸ hp _ (.finish e ht)⟩

/-- What a command leaves whatever its reactions do. -/
theorem RunsTo.spared {c : Instr} {s : State} {P : Dev → Prop} {x : Dev} (hruns : RunsTo c s x) (hp : ∀ g, Spared x g → P g) :
    Answers c s P :=
  ⟨⟨finish x, s.pending⟩, hruns, rfl, hp _ (.of_by (spared_finish _))⟩

/-! ### An entry escalates (R574) -/

/-- A Check entry about to become a Double check: it is closed, and ESC is set. -/
def escalating (k : Nat) (d : Dev) : Dev := setb Reg.FLT_STATUS_ESC (closeChk k (openData (rd (Reg.FLT_CHK_CODE k) d) d).2.2)

theorem openData_same (code : Nat) (d : Dev) : ∃ n, (openData code d).2.2 = { d with free := n } := by
  unfold openData
  split
  · exact ⟨_, rfl⟩
  · exact ⟨d.free, rfl⟩

theorem closeChk_recordOnly (k : Nat) (d : Dev) : RecordOnly d (closeChk k d) :=
  recordOnly_ite _ ((recordOnly_wr ..).trans (recordOnly_wr ..)) rfl

/-- Closing an entry writes its OPEN and CHK_OPEN. -/
theorem rd_closeChk {f : Field} {k : Nat} (hentry : f.off ≠ 0x401000 + 0x10 * k) (hstatus : f.off ≠ Reg.FLT_STATUS_CHK_OPEN.off)
    (d : Dev) : rd f (closeChk k d) = rd f d := by
  rw [closeChk]
  split
  · rw [clr, rd_wr_off hstatus, rd_wr_off hentry]
  · rfl

theorem rd_closeChk_open {k : Nat} (hk : k < 64) (d : Dev) : rd (Reg.FLT_CHK_OPEN k) (closeChk k d) = 0 := by
  rw [closeChk]
  split
  case isTrue => rw [rd_wr_off (by simp only [Reg.FLT_CHK_OPEN, Reg.FLT_STATUS_CHK_OPEN]; omega), clr, rd_wr_same rfl]; rfl
  case isFalse h => simpa [rdb] using h

theorem escalating_recordOnly (k : Nat) (d : Dev) : RecordOnly d (escalating k d) := by
  obtain ⟨n, hn⟩ := openData_same (rd (Reg.FLT_CHK_CODE k) d) d
  rw [escalating, hn, setb]
  exact (show RecordOnly d { d with free := n } from rfl).trans ((closeChk_recordOnly k _).trans (recordOnly_wr ..))

theorem rd_escalating {f : Field} {k : Nat} (hentry : f.off ≠ 0x401000 + 0x10 * k) (hstatus : f.off ≠ Reg.FLT_STATUS_CHK_OPEN.off)
    (d : Dev) : rd f (escalating k d) = rd f d := by
  obtain ⟨n, hn⟩ := openData_same (rd (Reg.FLT_CHK_CODE k) d) d
  rw [escalating, hn, setb, rd_wr_off (f := Reg.FLT_STATUS_ESC) hstatus, rd_closeChk hentry hstatus]; rfl

theorem rd_escalating_open {k : Nat} (hk : k < 64) (d : Dev) : rd (Reg.FLT_CHK_OPEN k) (escalating k d) = 0 := by
  rw [escalating, setb, rd_wr_off (by simp only [Reg.FLT_CHK_OPEN, Reg.FLT_STATUS_ESC]; omega), rd_closeChk_open hk]

theorem escalateChk_eq (k : Nat) (d : Dev) : escalateChk k d = raiseD (rd (Reg.FLT_CHK_CODE k) d) (rd (Reg.FLT_CHK_UNIT k) d)
    (openData (rd (Reg.FLT_CHK_CODE k) d) d).1 (openData (rd (Reg.FLT_CHK_CODE k) d) d).2.1 true (escalating k d) := rfl

/-- What CHECK_ESCALATE does where the escalation time agrees with its complement. -/
def escalateIfDue (k : Nat) (d : Dev) : Dev :=
  if rdb (Reg.FLT_CHK_OPEN k) d && !activationPaused d &&
    tempoNow d ≥ rd (Reg.FLT_CHK_T_RAISED k) d + d.flt.escalate.val + tget 0 d.flt.escHold k then escalateChk k d else d

theorem escalateIfDue_idle {k : Nat} {d : Dev} (h : rdb (Reg.FLT_CHK_OPEN k) d = false ∨ activationPaused d = true ∨
    tempoNow d < rd (Reg.FLT_CHK_T_RAISED k) d + d.flt.escalate.val + tget 0 d.flt.escHold k) : escalateIfDue k d = d := by
  rw [escalateIfDue, if_neg]
  simp only [Bool.and_eq_true, Bool.not_eq_true', decide_eq_true_eq, not_and, not_le]
  rintro ⟨hopen, hidle⟩
  rcases h with h | h | h
  · exact absurd hopen (by simp [h])
  · exact absurd hidle (by simp [h])
  · exact h

/-- A command whose effect on the device is none. -/
theorem RunsTo.idle {c : Instr} {s : State} (hruns : RunsTo c s s.dev.quiet) (hs : s.settled) :
    Answers c s fun d => RegsKept [] s.dev d ∧ MemKept s.dev d ∧ d.scr = s.dev.scr :=
  hruns.answers hs fun _ he => ⟨fun _ _ ho => he.regs _ ho, fun a => by rw [memByte, he.mem]; rfl, he.scr⟩

theorem rd_esc_escalating (k : Nat) (d : Dev) : rd Reg.FLT_STATUS_ESC (escalating k d) = 1 := by
  rw [escalating, setb, rd_wr_same rfl]; rfl

/-- An escalation shows in FLT_STATUS whatever else it brings about. -/
theorem esc_of_spared {k : Nat} {d g : Dev} (h : Spared (escalateChk k d) g) : rdb Reg.FLT_STATUS_ESC g = true := by
  have hraised : Spared (escalating k d) (escalateChk k d) := .of_by fun _ => spared_raiseD ..
  rw [rdb, h.escalated (hraised.escalated (rd_esc_escalating k d))]; rfl

section Escalation

variable {s : State} {k : Fin 64} (hready : s.ready) (hok : s.dev.flt.escalate.ok 16 = true)

include hready hok

theorem checkEscalate_runsTo : RunsTo (.checkEscalate k) s (escalateIfDue k s.dev.quiet) := by
  have hlim : escalateLimit s.dev.quiet = (s.dev.flt.escalate.val, s.dev.quiet) := if_pos hok
  refine runsTo_of_live (execCheckEscalate k s) rfl rfl hready ?_
  dsimp only
  rw [hlim]
  rfl

theorem checkEscalate_due (hopen : rdb (Reg.FLT_CHK_OPEN k) s.dev = true) (hpaused : activationPaused s.dev = false)
    (hdue : rd (Reg.FLT_CHK_T_RAISED k) s.dev + s.dev.flt.escalate.val + tget 0 s.dev.flt.escHold k ≤ tempoNow s.dev) :
    RunsTo (.checkEscalate k) s (escalateChk k s.dev.quiet) := by
  have h := checkEscalate_runsTo (k := k) hready hok
  rwa [escalateIfDue, if_pos] at h
  rw [Bool.and_eq_true, Bool.and_eq_true, decide_eq_true_eq]
  exact ⟨⟨hopen, by rw [show activationPaused s.dev.quiet = false from hpaused]; rfl⟩, hdue⟩

theorem checkEscalate_idle (h : rdb (Reg.FLT_CHK_OPEN k) s.dev = false ∨ activationPaused s.dev = true ∨
    tempoNow s.dev < rd (Reg.FLT_CHK_T_RAISED k) s.dev + s.dev.flt.escalate.val + tget 0 s.dev.flt.escHold k) :
    Answers (.checkEscalate k) s fun d => RegsKept [] s.dev d ∧ MemKept s.dev d ∧ d.scr = s.dev.scr := by
  have hruns := checkEscalate_runsTo (k := k) hready hok
  rw [escalateIfDue_idle (d := s.dev.quiet) h] at hruns
  exact hruns.idle hready.2

end Escalation

/-- The Double check that an open entry becomes, where one is free, nothing quarantines its unit and its code castles no head. -/
structure Escalated (k code unit : Nat) (d e : Dev) : Prop where
  esc : rdb Reg.FLT_STATUS_ESC e = true
  closed : rdb (Reg.FLT_CHK_OPEN k) e = false
  counted : rd Reg.FLT_CNT_DCHECKS d + 1 < 2 ^ 16 → rd Reg.FLT_CNT_DCHECKS e = rd Reg.FLT_CNT_DCHECKS d + 1
  mem : e.mem = d.mem
  pins : e.pins = d.pins
  todo : e.todo = []
  opened : ∃ j < 32, rdb (Reg.FLT_DCHK_OPEN j) d = false ∧ rdb (Reg.FLT_DCHK_OPEN j) e = true ∧ rd (Reg.FLT_DCHK_CODE j) e = code ∧
    rd (Reg.FLT_DCHK_UNIT j) e = unit ∧ rdb (Reg.FLT_DCHK_ESCALATED j) e = true ∧ rd (Reg.FLT_DCHK_T_RAISED j) e = tempoNow d

theorem escalateChk_drained {k : Fin 64} {d : Dev} (htodo : d.todo = []) (hroom : ∃ j < 32, rd (Reg.FLT_DCHK_OPEN j) d = 0)
    (hnone : findDchk (rd (Reg.FLT_CHK_CODE k) d) (rd (Reg.FLT_CHK_UNIT k) d) d = none)
    (hunit : rd (Reg.FLT_CHK_UNIT k) d / 256 ∈ [0x00, 0x07, 0x0B, 0x0C, 0x0D, 0x0E, 0x11, 0x12, 0x13])
    (hcode : rd (Reg.FLT_CHK_CODE k) d ∉ [Ev.KING_SPLIT, Ev.CIP_NO_LANE, Ev.DIG_NO_LANE, Ev.CMP_NO_LANE, Ev.ERS_NO_LANE, Ev.TT_LOST,
      Ev.FAB_FAIL, Ev.FT_MD_LOST, Ev.PAIR_WRONG, Ev.CAS_LOST_RACE]) :
    ∃ e, drain 4096 (escalateChk k d) = e ∧ Escalated k (rd (Reg.FLT_CHK_CODE k) d) (rd (Reg.FLT_CHK_UNIT k) d) d e := by
  have honly := escalating_recordOnly k d
  have hrd {f : Field} (h : 0x401400 ≤ f.off) : rd f (escalating k d) = rd f d :=
    rd_escalating (by omega) (by simp only [Reg.FLT_STATUS_CHK_OPEN]; omega) d
  have hroom' : ∃ j < 32, rd (Reg.FLT_DCHK_OPEN j) (escalating k d) = 0 := by
    obtain ⟨j, hj, hfree⟩ := hroom
    exact ⟨j, hj, (hrd (by simp only [Reg.FLT_DCHK_OPEN]; omega)).trans hfree⟩
  obtain ⟨j, hj, hfree, x, hx, hraise⟩ := raiseD_opens ((findDchk_congr fun f hf _ => hrd hf).trans hnone) hroom'
    (openData (rd (Reg.FLT_CHK_CODE k) d) d).1 (openData (rd (Reg.FLT_CHK_CODE k) d) d).2.1 true
  refine ⟨{ x with todo := [] }, ?_, ?_⟩
  · rw [escalateChk_eq, hraise]
    refine drain_none (ts := [.quarantine (rd (Reg.FLT_CHK_UNIT k) d), .castleTest (rd (Reg.FLT_CHK_CODE k) d) (rd (Reg.FLT_CHK_UNIT k) d)])
      (fun t ht e => ?_) (by decide : 2 ≤ 4096) (by rw [honly.todo, htodo]; rfl)
    simp only [List.mem_cons, List.not_mem_nil, or_false] at ht
    rcases ht with rfl | rfl
    · exact react_quarantine_none hunit e
    · exact react_castleTest_none hcode
  · have hnum {f : Field} (h : f.off = 0x400010 ∨ f.off = Reg.TMP_NUMBER_NUMBER.off) : rd f (escalating k d) = rd f d :=
      rd_escalating (by simp only [Reg.TMP_NUMBER_NUMBER] at h; omega) (by simp only [Reg.TMP_NUMBER_NUMBER] at h; simp only [Reg.FLT_STATUS_CHK_OPEN]; omega) d
    have hfreeEntry : rdb (Reg.FLT_DCHK_OPEN j) d = false := by
      rw [← hfree, rdb, rdb, hrd (by simp only [Reg.FLT_DCHK_OPEN]; omega)]
    have hclosed : rd (Reg.FLT_CHK_OPEN k) x = 0 := by
      have hword : 0x400000 ≤ (Reg.FLT_CHK_OPEN k).off ∧ (Reg.FLT_CHK_OPEN k).off < 0x401400 := by simp only [Reg.FLT_CHK_OPEN]; omega
      rw [hx.other _ rfl (faultRegs_notAmbient hword.1 (by omega)) (.inl hword.2) (by omega)
        (by simp only [Reg.FLT_CHK_OPEN, Reg.FLT_CNT_DCHECKS]; omega)
        (apart_iff.2 (.inl (by simp only [Reg.FLT_CHK_OPEN, Reg.FLT_STATUS_DCHK_OPEN]; omega))), rd_escalating_open k.isLt]
    constructor
    case esc =>
      show rdb Reg.FLT_STATUS_ESC x = true
      rw [rdb, hx.other Reg.FLT_STATUS_ESC (by decide) (by decide) (by decide) (by decide) (by decide) (by decide), rd_esc_escalating]; rfl
    case closed => show rdb (Reg.FLT_CHK_OPEN k) x = false; rw [rdb, hclosed]; rfl
    case counted => exact fun h => (hx.counted (by rw [hnum (.inl rfl)]; exact h)).trans (by rw [hnum (.inl rfl)])
    case mem => exact hx.only.mem.trans honly.mem
    case pins => exact (show x.pins = _ by rw [hx.only]).trans (by rw [honly])
    case todo => rfl
    case opened =>
      refine ⟨j, hj, hfreeEntry, ?_, ?_, ?_, ?_, ?_⟩
      · show rdb (Reg.FLT_DCHK_OPEN j) x = true; rw [rdb, hx.opened]; rfl
      · exact hx.code_eq.trans (Nat.mod_eq_of_lt (rd_lt (Reg.FLT_CHK_CODE k) d))
      · exact hx.unit_eq.trans (Nat.mod_eq_of_lt (rd_lt (Reg.FLT_CHK_UNIT k) d))
      · show rdb (Reg.FLT_DCHK_ESCALATED j) x = true; rw [rdb, hx.escalated_eq]; rfl
      · exact hx.raised.trans (hnum (.inr rfl))

/-! ### OPEN bits are cleared (R574, R577, R579) -/

/-- The interrupt's message of the fault collector, sent while its level stands. -/
def fltMessage (d : Dev) : Dev := if fltLevel d && intrHost 4 d then msixSend 4 d else d

theorem fltMessage_settledFrom (d : Dev) : SettledFrom d (fltMessage d) := by
  rw [fltMessage]
  split
  · exact .msixSend 4 d
  · exact .refl d

/-- What the device is after a command whose effect ends with that message. -/
theorem ended_fltMessage {d g : Dev} (h : EndedFrom (fltMessage d) g) : EndedFrom d g where
  rest := by rw [h.rest, (fltMessage_settledFrom d).rest]
  regs o ho := (h.regs o ho).trans ((fltMessage_settledFrom d).regs o fun hs => ho (List.mem_append_right _ hs))
  out := by
    obtain ⟨l, hl⟩ := h.out
    obtain ⟨m, hm⟩ := (fltMessage_settledFrom d).out
    exact ⟨m ++ l, by rw [hl, hm, List.append_assoc]⟩

theorem rdReg_closeChk {o k : Nat} (hentry : o ≠ 0x401000 + 0x10 * k) (hstatus : o ≠ Reg.FLT_STATUS_CHK_OPEN.off) (d : Dev) :
    rdReg o (closeChk k d) = rdReg o d := by
  rw [closeChk]
  split
  · rw [clr, rdReg_wr_off hstatus, rdReg_wr_off hentry]
  · rfl

theorem closeChk_scr (k : Nat) (d : Dev) : (closeChk k d).scr = d.scr := by
  rw [closeChk]
  split
  · rw [clr, wr_scr, wr_scr]
  · rfl

/-- A Check raised again in the cycle that clears its entry. -/
def recurChk (k : Nat) (d : Dev) : Dev :=
  let q := (openData (rd (Reg.FLT_CHK_CODE k) d) d).2.2
  recordEvent .check (rd (Reg.FLT_CHK_CODE k) q) (rd (Reg.FLT_CHK_UNIT k) q) (openData (rd (Reg.FLT_CHK_CODE k) d) d).1
    (openData (rd (Reg.FLT_CHK_CODE k) d) d).2.1 false (bumpSat (Reg.FLT_CHK_RECUR k) 1 (bump Reg.FLT_CNT_CHECKS q))

theorem recurChk_recordOnly (k : Nat) (d : Dev) : RecordOnly d (recurChk k d) := by
  obtain ⟨n, hn⟩ := openData_same (rd (Reg.FLT_CHK_CODE k) d) d
  rw [recurChk, hn]
  exact (show RecordOnly d { d with free := n } from rfl).trans ((recordOnly_bump ..).trans ((recordOnly_wr ..).trans (recordOnly_recordEvent ..)))

theorem rd_wr_congr {f g : Field} {d e : Dev} (h : rdReg f.off e = rdReg f.off d) (v : Nat) : rd f (wr g v e) = rd f (wr g v d) := by
  rw [rdReg, rdReg] at h
  by_cases ho : f.off = g.off
  · rw [ho] at h; simp only [rd, wr, tget_tmod, ho, if_true, h]
  · simp only [rd, wr, tget_tmod, ho, if_false, h]

/-- Of the entries' words only its RECUR rises. -/
theorem rd_recurChk {f : Field} {k : Nat} (h : 0x401000 ≤ f.off ∧ f.off < 0x500000) (d : Dev) :
    rd f (recurChk k d) = rd f (wr (Reg.FLT_CHK_RECUR k) (min (rd (Reg.FLT_CHK_RECUR k) d + 1) 255) d) := by
  obtain ⟨n, hn⟩ := openData_same (rd (Reg.FLT_CHK_CODE k) d) d
  have hcount : Reg.FLT_CNT_CHECKS.off = 0x400010 := rfl
  have hrecur : (Reg.FLT_CHK_RECUR k).off ≠ Reg.FLT_CNT_CHECKS.off := by simp only [Reg.FLT_CHK_RECUR]; omega
  rw [recurChk, hn, rd_keptBut (recorderOnly_recordEvent ..) (by simp only [List.mem_singleton]; omega) (faultRegs_notAmbient (by omega) h.2),
    bumpSat, rd_bump_off hrecur]
  have hwidth : 2 ^ (Reg.FLT_CHK_RECUR k).width - 1 = 255 := rfl
  rw [hwidth, rd_wr_congr (rdReg_bump_off (by omega) _)]
  exact rd_wr_congr (d := d) (e := { d with free := n }) rfl _

section Clearing

variable {s : State} {k : Fin 64} (hready : s.ready)

include hready

theorem checkEntryClear_idle (hclosed : rdb (Reg.FLT_CHK_OPEN k) s.dev = false) (collide : Bool) :
    Answers (.checkEntryClear k collide) s fun d => RegsKept [] s.dev d ∧ MemKept s.dev d ∧ d.scr = s.dev.scr :=
  (runsTo_of_live (execCheckEntryClear k collide s) rfl rfl hready (if_neg (by rw [show rdb (Reg.FLT_CHK_OPEN k) s.dev.quiet = false from hclosed]; decide))).idle hready.2

theorem checkEntryClear_runsTo (hopen : rdb (Reg.FLT_CHK_OPEN k) s.dev = true) :
    RunsTo (.checkEntryClear k false) s (fltMessage (closeChk k s.dev.quiet)) :=
  runsTo_of_live (execCheckEntryClear k false s) rfl rfl hready (if_pos hopen)

theorem checkEntryClear_closes (hopen : rdb (Reg.FLT_CHK_OPEN k) s.dev = true) :
    Answers (.checkEntryClear k false) s fun d => rdb (Reg.FLT_CHK_OPEN k) d = false ∧ MemKept s.dev d ∧ d.scr = s.dev.scr ∧
      (0 < rd Reg.FLT_STATUS_CHK_OPEN s.dev → rd Reg.FLT_STATUS_CHK_OPEN d = rd Reg.FLT_STATUS_CHK_OPEN s.dev - 1) ∧
      RegsKept [(Reg.FLT_CHK_OPEN k).off, Reg.FLT_STATUS_CHK_OPEN.off] s.dev d := by
  have hclosed : closeChk k s.dev.quiet = wr Reg.FLT_STATUS_CHK_OPEN (rd Reg.FLT_STATUS_CHK_OPEN s.dev - 1) (clr (Reg.FLT_CHK_OPEN k) s.dev.quiet) :=
    if_pos hopen
  have hword : 0x400000 ≤ (Reg.FLT_CHK_OPEN k).off ∧ (Reg.FLT_CHK_OPEN k).off < 0x500000 := by simp only [Reg.FLT_CHK_OPEN]; omega
  have htodo : (fltMessage (closeChk k s.dev.quiet)).todo = [] := by
    rw [(fltMessage_settledFrom _).rest]
    exact (closeChk_recordOnly k s.dev.quiet).todo.trans hready.2
  refine (checkEntryClear_runsTo hready hopen).answers htodo fun d hd => ?_
  replace hd := ended_fltMessage hd
  refine ⟨?_, fun a => ?_, ?_, fun hpos => ?_, fun o ho ha => ?_⟩
  · rw [rdb, hd.rd (faultRegs_notAmbient hword.1 hword.2), rd_closeChk_open k.isLt]; rfl
  · rw [memByte, hd.mem, (closeChk_recordOnly k _).mem]; rfl
  · rw [hd.scr, closeChk_scr]; rfl
  · have hlt : rd Reg.FLT_STATUS_CHK_OPEN s.dev - 1 < 2 ^ Reg.FLT_STATUS_CHK_OPEN.width := Nat.lt_of_le_of_lt (Nat.sub_le _ _) (rd_lt _ _)
    rw [hd.rd (by decide), hclosed, rd_wr_same rfl, Nat.mod_eq_of_lt hlt]
  · simp only [List.mem_cons, List.not_mem_nil, or_false, not_or] at ho
    exact (hd.regs o ha).trans (rdReg_closeChk ho.1 ho.2 _)

theorem checkEntryClear_collided (hopen : rdb (Reg.FLT_CHK_OPEN k) s.dev = true) :
    RunsTo (.checkEntryClear k true) s (recurChk k s.dev.quiet) :=
by
  refine runsTo_of_live (execCheckEntryClear k true s) rfl rfl hready ?_
  dsimp only
  rw [if_pos (show rdb (Reg.FLT_CHK_OPEN k) s.dev.quiet = true from hopen), if_pos rfl, recurChk]

theorem checkEntryClear_recurs (hopen : rdb (Reg.FLT_CHK_OPEN k) s.dev = true) :
    Answers (.checkEntryClear k true) s fun d => rdb (Reg.FLT_CHK_OPEN k) d = true ∧
      rd (Reg.FLT_CHK_RECUR k) d = min 255 (rd (Reg.FLT_CHK_RECUR k) s.dev + 1) ∧ rd (Reg.FLT_CHK_T_RAISED k) d = rd (Reg.FLT_CHK_T_RAISED k) s.dev ∧
      MemKept s.dev d := by
  have honly := recurChk_recordOnly k s.dev.quiet
  refine (checkEntryClear_collided hready hopen).answers (honly.todo.trans hready.2) fun d hd => ?_
  have hrd {f : Field} (h : 0x401000 ≤ f.off ∧ f.off < 0x500000) :=
    (hd.rd (f := f) (faultRegs_notAmbient (by omega) h.2)).trans (rd_recurChk h s.dev.quiet)
  have hword : 0x401000 ≤ 0x401000 + 0x10 * k.val ∧ 0x401000 + 0x10 * k.val < 0x500000 := by omega
  refine ⟨?_, ?_, ?_, fun a => ?_⟩
  · rw [rdb, hrd hword, rd_wr_apart rfl rfl (apart_iff.2 (.inr (.inr (by decide : 0 < 24))))]; exact hopen
  · have hwidth : 2 ^ (Reg.FLT_CHK_RECUR k).width = 256 := rfl
    rw [hrd hword, rd_wr_same rfl, hwidth, show rd (Reg.FLT_CHK_RECUR k) s.dev.quiet = rd (Reg.FLT_CHK_RECUR k) s.dev from rfl]
    omega
  · rw [hrd (by simp only [Reg.FLT_CHK_T_RAISED]; omega), rd_wr_off (by simp only [Reg.FLT_CHK_T_RAISED, Reg.FLT_CHK_RECUR]; omega)]
    rfl
  · rw [memByte, hd.mem, honly.mem]; rfl

end Clearing

/-- A Double check entry's OPEN is cleared. -/
def dchkCleared (j : Nat) (d : Dev) : Dev :=
  wr Reg.FLT_STATUS_DCHK_OPEN (rd Reg.FLT_STATUS_DCHK_OPEN (clr (Reg.FLT_DCHK_OPEN j) d) - 1) (clr (Reg.FLT_DCHK_OPEN j) d)

/-- The note of a persistent loss goes. -/
def lossForgotten (d : Dev) : Dev := { d with cas.persistentLoss := 0, cas.lossNext := 0 }

/-- The management endpoint closes a Double check entry. -/
def closeDchk (j : Nat) (d : Dev) : Dev :=
  if rd (Reg.FLT_DCHK_CODE j) d = Ev.PAIR_WRONG then lossForgotten (dchkCleared j d) else dchkCleared j d

/-- Only registers and the note of a persistent loss differ. -/
def DchkClosed (d e : Dev) : Prop := e = { d with regs := e.regs, cas := e.cas }

theorem dchkCleared_closed (j : Nat) (d : Dev) : DchkClosed d (dchkCleared j d) := by
  have hwr (f : Field) (v : Nat) (x : Dev) : DchkClosed x (wr f v x) := rfl
  have h := hwr Reg.FLT_STATUS_DCHK_OPEN (rd Reg.FLT_STATUS_DCHK_OPEN (clr (Reg.FLT_DCHK_OPEN j) d) - 1) (clr (Reg.FLT_DCHK_OPEN j) d)
  rw [DchkClosed] at h ⊢
  rw [dchkCleared, h, clr, hwr (Reg.FLT_DCHK_OPEN j) 0 d]

theorem lossForgotten_closed (d : Dev) : DchkClosed d (lossForgotten d) := rfl

theorem rdReg_lossForgotten (o : Nat) (d : Dev) : rdReg o (lossForgotten d) = rdReg o d := rfl

theorem closeDchk_closed (j : Nat) (d : Dev) : DchkClosed d (closeDchk j d) := by
  have h := dchkCleared_closed j d
  rw [closeDchk]
  split
  · have hf := lossForgotten_closed (dchkCleared j d)
    rw [DchkClosed] at h hf ⊢
    rw [hf, h]
  · exact h

theorem rdReg_closeDchk (o j : Nat) (d : Dev) : rdReg o (closeDchk j d) = rdReg o (dchkCleared j d) := by
  rw [closeDchk]
  split
  · exact rdReg_lossForgotten o _
  · rfl

theorem rd_closeDchk (f : Field) (j : Nat) (d : Dev) : rd f (closeDchk j d) =
    rd f (wr Reg.FLT_STATUS_DCHK_OPEN (rd Reg.FLT_STATUS_DCHK_OPEN d - 1) (clr (Reg.FLT_DCHK_OPEN j) d)) := by
  have hcount : rd Reg.FLT_STATUS_DCHK_OPEN (clr (Reg.FLT_DCHK_OPEN j) d) = rd Reg.FLT_STATUS_DCHK_OPEN d :=
    rd_wr_off (by simp only [Reg.FLT_STATUS_DCHK_OPEN, Reg.FLT_DCHK_OPEN]; omega) _ _
  rw [← hcount, ← dchkCleared]
  exact rd_of_rdReg (rdReg_closeDchk f.off j d)

theorem dcheckEntryClear_idle {s : State} {j : Fin 32} {mgmt : Bool} (h : mgmt = false ∨ rdb (Reg.FLT_DCHK_OPEN j) s.dev = false) :
    RunsTo (.dcheckEntryClear j mgmt) s s.dev.quiet := by
  refine runsTo_of_run (show exec (.dcheckEntryClear j mgmt) s = execDcheckEntryClear j mgmt s from rfl) (if_neg ?_)
  rw [show rdb (Reg.FLT_DCHK_OPEN j) s.dev.quiet = rdb (Reg.FLT_DCHK_OPEN j) s.dev from rfl]
  rcases h with h | h <;> simp [h]

theorem dcheckEntryClear_runsTo {s : State} {j : Fin 32} (hgood : s.dev.pwr.good = true) (hadj : s.dev.pwr.adj3 = false)
    (hopen : rdb (Reg.FLT_DCHK_OPEN j) s.dev = true) :
    RunsTo (.dcheckEntryClear j true) s (fltMessage (closeDchk j s.dev.quiet)) := by
  refine runsTo_of_run (show exec (.dcheckEntryClear j true) s = execDcheckEntryClear j true s from rfl) ((if_pos ?_).trans ?_)
  · rw [show rdb (Reg.FLT_DCHK_OPEN j) s.dev.quiet = true from hopen, show s.dev.quiet.pwr = s.dev.pwr from rfl, hgood, hadj]; rfl
  · rw [fltMessage, closeDchk, lossForgotten, dchkCleared]

theorem dcheckEntryClear_closes {s : State} {j : Fin 32} (hsettled : s.settled) (hgood : s.dev.pwr.good = true) (hadj : s.dev.pwr.adj3 = false)
    (hopen : rdb (Reg.FLT_DCHK_OPEN j) s.dev = true) :
    Answers (.dcheckEntryClear j true) s fun d => rdb (Reg.FLT_DCHK_OPEN j) d = false ∧ d.engines = s.dev.engines ∧ d.accels = s.dev.accels ∧
      d.king = s.dev.king ∧ d.pwr = s.dev.pwr ∧ RegsKept [(Reg.FLT_DCHK_OPEN j).off, Reg.FLT_STATUS_DCHK_OPEN.off] s.dev d ∧ MemKept s.dev d ∧
      (0 < rd Reg.FLT_STATUS_DCHK_OPEN s.dev → rd Reg.FLT_STATUS_DCHK_OPEN d = rd Reg.FLT_STATUS_DCHK_OPEN s.dev - 1) := by
  have hclosed : DchkClosed s.dev.quiet (closeDchk j s.dev.quiet) := closeDchk_closed j s.dev.quiet
  have htodo : (fltMessage (closeDchk j s.dev.quiet)).todo = [] := by
    rw [(fltMessage_settledFrom _).rest]
    show (closeDchk j s.dev.quiet).todo = []
    rw [hclosed]; exact hsettled
  have hword : 0x400000 ≤ (Reg.FLT_DCHK_OPEN j).off ∧ (Reg.FLT_DCHK_OPEN j).off < 0x500000 := by simp only [Reg.FLT_DCHK_OPEN]; omega
  refine (dcheckEntryClear_runsTo hgood hadj hopen).answers htodo fun d hd => ?_
  replace hd := ended_fltMessage hd
  refine ⟨?_, ?_, ?_, ?_, ?_, fun o ho ha => ?_, fun a => ?_, fun _ => ?_⟩
  · rw [rdb, hd.rd (faultRegs_notAmbient hword.1 hword.2), rd_closeDchk,
      rd_wr_off (by simp only [Reg.FLT_DCHK_OPEN, Reg.FLT_STATUS_DCHK_OPEN]; omega), clr, rd_wr_same rfl]; rfl
  · rw [hd.engines, hclosed]; rfl
  · rw [hd.accels, hclosed]; rfl
  · rw [hd.king, hclosed]; rfl
  · rw [hd.pwr, hclosed]; rfl
  · simp only [List.mem_cons, List.not_mem_nil, or_false, not_or] at ho
    rw [hd.regs o ha, rdReg_closeDchk, dchkCleared, clr, rdReg_wr_off ho.2, rdReg_wr_off ho.1]; rfl
  · rw [memByte, hd.mem, hclosed]; rfl
  · have hlt : rd Reg.FLT_STATUS_DCHK_OPEN s.dev - 1 < 2 ^ Reg.FLT_STATUS_DCHK_OPEN.width := Nat.lt_of_le_of_lt (Nat.sub_le _ _) (rd_lt _ _)
    rw [hd.rd (by decide), rd_closeDchk, rd_wr_same rfl]
    exact Nat.mod_eq_of_lt hlt

/-- Settles O54: an escalation without room for its Double check may owe any reaction, and these spare ESC; with room the new entry is read off. -/
theorem checksEscalateAndClose : Obligations.ChecksEscalateAndClose := by
  unfold Obligations.ChecksEscalateAndClose
  refine ⟨fun s k hready hopen => ⟨fun hok hpaused hdue => ?_, fun hok hwait => ?_, checkEntryClear_closes hready hopen,
      checkEntryClear_recurs hready hopen⟩,
    fun s k hready hclosed hok c hc => ?_, fun s j hsettled hgood hadj => ⟨?_, ?_⟩⟩
  · have hruns := checkEscalate_due hready hok hopen hpaused hdue
    by_cases h : s.dcheckRoom ∧ findDchk (rd (Reg.FLT_CHK_CODE k) s.dev) (rd (Reg.FLT_CHK_UNIT k) s.dev) s.dev = none ∧
      rd (Reg.FLT_CHK_UNIT k) s.dev / 256 ∈ [0x00, 0x07, 0x0B, 0x0C, 0x0D, 0x0E, 0x11, 0x12, 0x13] ∧
      rd (Reg.FLT_CHK_CODE k) s.dev ∉ [Ev.KING_SPLIT, Ev.CIP_NO_LANE, Ev.DIG_NO_LANE, Ev.CMP_NO_LANE, Ev.ERS_NO_LANE, Ev.TT_LOST, Ev.FAB_FAIL,
        Ev.FT_MD_LOST, Ev.PAIR_WRONG, Ev.CAS_LOST_RACE]
    · obtain ⟨hroom, hnone, hunit, hcode⟩ := h
      obtain ⟨e, hdrained, he⟩ := escalateChk_drained (d := s.dev.quiet) hready.2 hroom hnone hunit hcode
      obtain ⟨j, hj, hfree, hentry, hcode', hunit', hesc, hraised⟩ := he.opened
      have hfault {f : Field} (h : 0x400000 ≤ f.off ∧ f.off < 0x500000) : f.off ∉ ambientRegs := faultRegs_notAmbient h.1 h.2
      have hword : 0x400000 ≤ (Reg.FLT_DCHK_OPEN j).off ∧ (Reg.FLT_DCHK_OPEN j).off < 0x500000 := by simp only [Reg.FLT_DCHK_OPEN]; omega
      have hraisedWord : 0x400000 ≤ (Reg.FLT_DCHK_T_RAISED j).off ∧ (Reg.FLT_DCHK_T_RAISED j).off < 0x500000 := by
        simp only [Reg.FLT_DCHK_T_RAISED]; omega
      have hchk : 0x400000 ≤ (Reg.FLT_CHK_OPEN k).off ∧ (Reg.FLT_CHK_OPEN k).off < 0x500000 := by simp only [Reg.FLT_CHK_OPEN]; omega
      refine hruns.drained hdrained he.todo fun g hg => ⟨?_, fun _ _ _ _ => ⟨?_, fun h => ?_, fun a => ?_, ?_, j, hj, hfree, ?_, ?_, ?_, ?_, ?_⟩⟩
      · rw [rdb, hg.rd (by decide)]; exact he.esc
      · rw [rdb, hg.rd (hfault hchk)]; exact he.closed
      · rw [hg.rd (by decide)]; exact he.counted h
      · rw [memByte, hg.mem, he.mem]; rfl
      · rw [hg.pins, he.pins]; rfl
      · rw [rdb, hg.rd (hfault hword)]; exact hentry
      · exact (hg.rd (f := Reg.FLT_DCHK_CODE j) (hfault hword)).trans hcode'
      · exact (hg.rd (f := Reg.FLT_DCHK_UNIT j) (hfault hword)).trans hunit'
      · rw [rdb, hg.rd (f := Reg.FLT_DCHK_ESCALATED j) (hfault hword)]; exact hesc
      · exact (hg.rd (f := Reg.FLT_DCHK_T_RAISED j) (hfault hraisedWord)).trans hraised
    · exact hruns.spared fun g hg => ⟨esc_of_spared hg, fun hroom hnone hunit hcode => absurd ⟨hroom, hnone, hunit, hcode⟩ h⟩
  · exact checkEscalate_idle hready hok (.inr hwait)
  · simp only [List.mem_cons, List.not_mem_nil, or_false] at hc
    rcases hc with rfl | rfl | rfl
    · exact checkEscalate_idle hready hok (.inl hclosed)
    · exact checkEntryClear_idle hready hclosed false
    · exact checkEntryClear_idle hready hclosed true
  · cases hopen : rdb (Reg.FLT_DCHK_OPEN j) s.dev
    · refine (dcheckEntryClear_idle (.inr hopen)).answers hsettled fun d hd => ?_
      have hword : 0x400000 ≤ (Reg.FLT_DCHK_OPEN j).off ∧ (Reg.FLT_DCHK_OPEN j).off < 0x500000 := by simp only [Reg.FLT_DCHK_OPEN]; omega
      refine ⟨?_, hd.engines, hd.accels, hd.king, hd.pwr, fun _ _ ho => hd.regs _ ho, fun a => ?_, fun h => absurd h (by decide),
        fun _ _ _ ho => hd.regs _ ho⟩
      · rw [rdb, hd.rd (faultRegs_notAmbient hword.1 hword.2)]; exact hopen
      · rw [memByte, hd.mem]; rfl
    · exact answers_imp (dcheckEntryClear_closes hsettled hgood hadj hopen) fun d ⟨h, hen, hac, hki, hpw, hregs, hmem, hcount⟩ =>
        ⟨h, hen, hac, hki, hpw, hregs, hmem, fun _ => hcount, fun hc => absurd hc (by simp)⟩
  · exact (dcheckEntryClear_idle (.inl rfl)).answers hsettled fun d hd =>
      ⟨fun _ _ ho => hd.regs _ ho, fun a => by rw [memByte, hd.mem]; rfl, hd.cas⟩

end Sys2Proof.Proofs

/-!
PROOFS. What raising a Check or a Double check writes: the recorder, the fault collector's entries, and the reactions it owes.
-/

namespace Sys2Proof.Proofs

open Sys2Proof Sys2Proof.Machine

/-- Only the recorder, the fault collector's registers and hold times, free values and the reactions owed differ. -/
structure FaultOnly (d e : Dev) : Prop where
  rest : e = { d with regs := e.regs, scr := e.scr, free := e.free, todo := e.todo, flt := { d.flt with escHold := e.flt.escHold } }
  regs : ∀ o, o / 0x100000 ≠ 4 → o / 0x100000 ≠ 5 → o ∉ ambientRegs → rdReg o e = rdReg o d

theorem FaultOnly.refl (d : Dev) : FaultOnly d d := ⟨rfl, fun _ _ _ _ => rfl⟩

theorem FaultOnly.trans {a b c : Dev} (h : FaultOnly a b) (g : FaultOnly b c) : FaultOnly a c := by
  refine ⟨?_, fun o h4 h5 ha => (g.regs o h4 h5 ha).trans (h.regs o h4 h5 ha)⟩
  rw [g.rest, h.rest]

theorem FaultOnly.of_recordOnly {d e : Dev} (h : RecordOnly d e)
    (hregs : ∀ o, o / 0x100000 ≠ 4 → o / 0x100000 ≠ 5 → o ∉ ambientRegs → rdReg o e = rdReg o d) : FaultOnly d e :=
  ⟨by rw [h], hregs⟩

theorem FaultOnly.wr (f : Field) (v : Nat) (d : Dev) (hf : f.off / 0x100000 = 4) : FaultOnly d (Machine.wr f v d) :=
  .of_recordOnly (recordOnly_wr ..) fun o h4 _ _ => rdReg_wr_off (by rintro rfl; exact h4 hf) v d

theorem FaultOnly.bump (f : Field) (d : Dev) (hf : f.off / 0x100000 = 4) : FaultOnly d (Machine.bump f d) :=
  .of_recordOnly (recordOnly_bump ..) fun o h4 _ _ => rdReg_bump_off (by rintro rfl; exact h4 hf) d

theorem FaultOnly.recordEvent (cls : EvClass) (code unit a b : Nat) (escalated : Bool) (d : Dev) :
    FaultOnly d (Machine.recordEvent cls code unit a b escalated d) :=
  .of_recordOnly (recordOnly_recordEvent ..) fun o _ h5 ha => (recorderOnly_recordEvent ..).regs o (by simpa using h5) ha

theorem FaultOnly.free (n : Nat) (d : Dev) : FaultOnly d { d with free := n } := ⟨rfl, fun _ _ _ _ => rfl⟩

theorem FaultOnly.pickFree (l : List Nat) (d : Dev) : FaultOnly d (Machine.pickFree l d).2 := by
  unfold Machine.pickFree
  split
  · exact .refl d
  · exact .free _ d

theorem FaultOnly.todo (l : List Todo) (d : Dev) : FaultOnly d { d with todo := l } := ⟨rfl, fun _ _ _ _ => rfl⟩

theorem FaultOnly.hold (t : Tab Nat) (d : Dev) : FaultOnly d { d with flt.escHold := t } := ⟨rfl, fun _ _ _ _ => rfl⟩

theorem FaultOnly.openDchk {j : Nat} (hj : j < 32) (code unit : Nat) (escalated : Bool) (d : Dev) :
    FaultOnly d (Proofs.openDchk j code unit escalated d) := by
  have h : (0x401400 + 0x10 * j) / 0x100000 = 4 ∧ (0x401408 + 0x10 * j) / 0x100000 = 4 := by omega
  exact (FaultOnly.wr _ _ _ h.1).trans ((FaultOnly.wr _ _ _ h.1).trans ((FaultOnly.wr _ _ _ h.1).trans ((FaultOnly.wr _ _ _ h.1).trans
    ((FaultOnly.wr _ _ _ h.1).trans ((FaultOnly.wr _ _ _ h.2).trans (.wr _ _ _ rfl))))))

theorem faultOnly_picked {l : List Nat} {o : Option Nat} {d e : Dev} (h : pickFree l d = (o, e)) : FaultOnly d e := by
  rw [show e = (Machine.pickFree l d).2 by rw [h]]
  exact .pickFree l d

theorem entryWord {k : Nat} (hk : k < 64) (c : Nat) (hc : 0x400000 ≤ c ∧ c < 0x4FF000) : (c + 0x10 * k) / 0x100000 = 4 := by omega

theorem FaultOnly.raiseD (code unit a b : Nat) (escalated : Bool) (d : Dev) : FaultOnly d (Machine.raiseD code unit a b escalated d) := by
  have hrecorded {e : Dev} (l : Dev → List Todo) (h : FaultOnly (Machine.bump Reg.FLT_CNT_DCHECKS d) e) :
      FaultOnly d { Machine.recordEvent .dcheck code unit a b escalated e with
        todo := l (Machine.recordEvent .dcheck code unit a b escalated e) } :=
    (((FaultOnly.bump _ d rfl).trans h).trans (.recordEvent ..)).trans (.todo _ _)
  refine hrecorded (fun x => x.todo ++ [.quarantine unit, .castleTest code unit]) ?_
  split
  next hfind => exact .wr _ _ _ (entryWord ((findDchk_lt hfind).trans (by decide)) 0x401400 (by decide))
  next =>
    split
    next hpick => exact (faultOnly_picked hpick).trans (.wr _ _ _ rfl)
    next hpick => exact (faultOnly_picked hpick).trans (.openDchk (pickFree_those_lt hpick) ..)

theorem FaultOnly.closeChk {k : Nat} (hk : k < 64) (d : Dev) : FaultOnly d (Machine.closeChk k d) := by
  rw [Machine.closeChk]
  split
  · exact (FaultOnly.wr _ _ _ (entryWord hk 0x401000 (by decide))).trans (.wr _ _ _ rfl)
  · exact .refl d

theorem FaultOnly.escalateChk {k : Nat} (hk : k < 64) (d : Dev) : FaultOnly d (Machine.escalateChk k d) := by
  obtain ⟨n, hn⟩ := openData_same (rd (Reg.FLT_CHK_CODE k) d) d
  have hopen : FaultOnly d (openData (rd (Reg.FLT_CHK_CODE k) d) d).2.2 := by rw [hn]; exact .free n d
  exact (hopen.trans (.closeChk hk _)).trans ((FaultOnly.wr _ _ _ rfl).trans (.raiseD ..))

theorem FaultOnly.openChk {k : Nat} (hk : k < 64) (code unit : Nat) (d : Dev) : FaultOnly d (Machine.openChk k code unit d) := by
  have h (f : Field) (v : Nat) (e : Dev) (hf : f.off = 0x401000 + 0x10 * k) : FaultOnly e (Machine.wr f v e) :=
    .wr f v e (by rw [hf]; exact entryWord hk 0x401000 (by decide))
  exact (h (Reg.FLT_CHK_RECUR k) 0 d rfl).trans ((h _ _ _ rfl).trans ((h _ _ _ rfl).trans ((FaultOnly.hold _ _).trans ((h _ _ _ rfl).trans
    ((FaultOnly.wr _ _ _ (entryWord hk 0x401008 (by decide))).trans (.wr _ _ _ rfl))))))

theorem FaultOnly.notice (code unit a b : Nat) (d : Dev) : FaultOnly d (Machine.notice code unit a b d) :=
  (FaultOnly.bump _ d rfl).trans (.recordEvent ..)

theorem FaultOnly.raiseC (code unit a b : Nat) (d : Dev) : FaultOnly d (Machine.raiseC code unit a b d) := by
  have hrecorded {e : Dev} (h : FaultOnly (Machine.bump Reg.FLT_CNT_CHECKS d) e) : FaultOnly d (Machine.recordEvent .check code unit a b false e) :=
    ((FaultOnly.bump _ d rfl).trans h).trans (.recordEvent ..)
  refine hrecorded ?_
  split
  next hfind => exact .wr _ _ _ (entryWord (findChk_lt hfind) 0x401000 (by decide))
  next =>
    split
    next hpick => exact (faultOnly_picked hpick).trans (.openChk (pickFree_those_lt hpick) ..)
    next hpick =>
      exact (faultOnly_picked hpick).trans (((FaultOnly.escalateChk (oldestChk_lt _) _).trans
        ((FaultOnly.notice ..).trans (.wr _ _ _ rfl))).trans (.openChk (oldestChk_lt _) ..))

section Keeps

variable {d e : Dev} (h : FaultOnly d e)

include h

theorem FaultOnly.rd {f : Field} (h4 : f.off / 0x100000 ≠ 4) (h5 : f.off / 0x100000 ≠ 5) (ha : f.off ∉ ambientRegs) :
    Machine.rd f e = Machine.rd f d := rd_of_rdReg (h.regs f.off h4 h5 ha)

theorem FaultOnly.fab : e.fab = d.fab := by rw [h.rest]
theorem FaultOnly.out : e.out = d.out := by rw [h.rest]
theorem FaultOnly.mem : e.mem = d.mem := by rw [h.rest]
theorem FaultOnly.inj : e.flt.inj = d.flt.inj := by rw [h.rest]
theorem FaultOnly.front : e.front = d.front := by rw [h.rest]

end Keeps

end Sys2Proof.Proofs

/-!
PROOFS. O12: beacons and alignment. A packet sent without sequence number stands among the outputs; a device heard keeps its binding.
-/

namespace Sys2Proof.Proofs

open Sys2Proof Sys2Proof.Machine

/-! ### Packets without a sequence number (R475) -/

theorem mem_out_of_sent {d e : Dev} (h : SentFrom d e) {o : Out} (ho : o ∈ d.out) : o ∈ e.out := by
  obtain ⟨l, hl⟩ := h.out
  rw [hl]; exact List.mem_append_left _ ho

theorem sendFrameTo_sent (dst port type : Nat) (b : Bytes) (d : Dev) : SentFrom d (sendFrameTo dst port type b d) := .emitPkt ..

theorem sendFrameTo_out (dst port type : Nat) (b : Bytes) (d : Dev) :
    ∃ h, Out.cdtPacket port h b false ∈ (sendFrameTo dst port type b d).out ∧ h.type = type ∧ h.dst = dst := by
  rw [sendFrameTo, emitPkt, Bool.false_and, Bool.false_and, if_neg Bool.false_ne_true]
  exact ⟨_, List.mem_append_right _ (List.mem_singleton.2 rfl), rfl, rfl⟩

theorem beacons_sent (b : Bytes) (l : List Nat) (d : Dev) :
    SentFrom d (forEach l (fun p d => sendFrameTo 0xFE p 0x10 b d) d) := by
  induction l generalizing d with
  | nil => exact .refl d
  | cons p l ih => exact (sendFrameTo_sent ..).trans (ih _)

theorem beacons_out (b : Bytes) {l : List Nat} {p : Nat} (hp : p ∈ l) (d : Dev) :
    ∃ h, Out.cdtPacket p h b false ∈ (forEach l (fun p d => sendFrameTo 0xFE p 0x10 b d) d).out ∧ h.type = 0x10 := by
  induction l generalizing d with
  | nil => exact absurd hp List.not_mem_nil
  | cons q l ih =>
    rcases List.mem_cons.1 hp with rfl | hp
    · obtain ⟨h, hmem, htype, -⟩ := sendFrameTo_out 0xFE p 0x10 b d
      exact ⟨h, mem_out_of_sent (beacons_sent b l _) hmem, htype⟩
    · exact ih hp _

/-- A frame on a port that is up, whole and from a listed address (R472). -/
theorem frameWhole_ok {f : CdtFrame} {d : Dev} (hen : rd Reg.CDT_CTRL_EN d = 1) (hport : f.port < 4) (hup : rd (Reg.CDT_PORT_UP f.port) d = 1)
    (hcrc : f.crcOk = true) (hlisted : f.listed = true) (hlen : f.hdr.len = f.payload.length) (hsrc : f.hdr.src < 8) :
    frameWhole f d = (true, d) := by
  simp [frameWhole, rdb, hen, Nat.mod_eq_of_lt hport, hup, hcrc, hlisted, hlen, hsrc]

/-! ### The bindings of DEV numbers (R498) -/

/-- The bindings, and the reactions owed. -/
def bindings (d : Dev) : Tab (Option Nat) × List Todo := (d.cdt.serials, d.todo)

theorem bindings_recordOnly {d e : Dev} (h : RecordOnly d e) : bindings e = bindings d := by rw [h]; rfl

theorem bindings_wr (f : Field) (v : Nat) (d : Dev) : bindings (wr f v d) = bindings d := rfl

theorem bindings_noticed (code u v w : Nat) (f : Field) (d : Dev) : bindings (setb f (notice code u v w d)) = bindings d :=
  (bindings_wr ..).trans (bindings_recordOnly (recordOnly_notice ..))

theorem bindings_sendPoolKeys (v : Nat) (d : Dev) : bindings (sendPoolKeys v d) = bindings d := rfl

theorem bindings_resendMirror (p : Nat) (d : Dev) : bindings (resendMirror p d) = bindings d := rfl

theorem bindings_setPresent (d : Dev) (l : List Nat) : bindings { d with cdt.present := l } = bindings d := rfl

theorem bindings_showPaths (d : Dev) : bindings (showPaths d) = bindings d := by
  unfold showPaths
  extract_lets had cas noted shown now before cdt present lost met
  have hnoted : bindings noted = bindings d := by dsimp only [noted]; split <;> rfl
  clear_value noted
  have hshown : bindings shown = bindings noted := forEach_keeps bindings _ (fun _ _ => bindings_wr ..) _ noted
  clear_value shown
  have hpresent : bindings present = bindings shown := bindings_setPresent shown now
  clear_value present
  have hlost : bindings lost = bindings present := forEach_keeps bindings _ (fun _ _ => bindings_noticed ..) _ present
  clear_value lost
  have hmet : bindings met = bindings lost := forEach_keeps bindings _ (fun _ _ => (bindings_sendPoolKeys ..).trans (bindings_noticed ..)) _ lost
  have hall : bindings met = bindings d := by rw [hmet, hlost, hpresent, hshown, hnoted]
  clear_value met
  split
  · split
    · exact (bindings_resendMirror ..).trans hall
    · exact hall
  · exact hall

/-! ### The hand-over to the transport keeps them -/

theorem bindings_emitPkt (a b : Nat) (h : CdtHdr) (p : Bytes) (r : Bool) (d : Dev) : bindings (emitPkt a b h p r d) = bindings d := by
  have hcount : bindings (countCluster a b p.length d) = bindings d := by rw [countCluster]; split <;> rfl
  unfold emitPkt
  extract_lets counted hdr
  replace hcount : bindings counted = bindings d := hcount
  clear_value counted
  rw [← hcount]
  split <;> rfl

theorem bindings_pumpPath (a b n : Nat) (d : Dev) : bindings (pumpPath a b n d) = bindings d := by
  induction n generalizing d with
  | zero => rfl
  | succ n ih =>
    rw [pumpPath]
    dsimp only
    split
    · rfl
    · split
      · rfl
      · exact (ih _).trans (bindings_emitPkt ..)

theorem bindings_sendPkts (a b : Nat) (l : List CdtPkt) (d : Dev) : bindings (sendPkts a b l d) = bindings d := bindings_pumpPath ..

theorem bindings_bump (f : Field) (d : Dev) : bindings (bump f d) = bindings d := by
  rw [bump_eq, bumpBy]; split <;> rfl

theorem bindings_openMsg (n : Nat) (m : CdtMsg) (d : Dev) : bindings (openMsg n m d).2 = bindings d :=
  (bindings_bump ..).trans (bindings_bump ..)

theorem bindings_endMsg (n : Nat) {m : CdtMsg} (h : m.desc = none) (d : Dev) : bindings (endMsg n m false 6 0 1 0 d) = bindings d := by
  unfold endMsg
  simp only [h, Bool.false_eq_true, if_false]
  exact bindings_bump ..

theorem bindings_createInternal (x : Nat × Nat × Nat × Option Nat) (d : Dev) : bindings (createInternal x d) = bindings d := by
  unfold createInternal
  dsimp only
  split
  · exact (bindings_endMsg _ rfl _).trans (bindings_openMsg ..)
  · exact (bindings_sendPkts ..).trans (bindings_openMsg ..)

theorem bindings_pumpWaiting (n : Nat) (d : Dev) : bindings (pumpWaiting n d) = bindings d := by
  induction n generalizing d with
  | zero => rfl
  | succ n ih =>
    rw [pumpWaiting]
    split
    · rfl
    · exact (ih _).trans (bindings_createInternal ..)

theorem bindings_takeMessages (d : Dev) : bindings (takeMessages d) = bindings d := by
  unfold takeMessages
  split
  · rfl
  · dsimp only
    split
    · rfl
    · exact bindings_pumpWaiting ..

/-- A command that owes no reaction keeps the bindings as its effect left them. -/
theorem serials_finish {d : Dev} (h : d.todo = []) : (finish d).cdt.serials = d.cdt.serials := by
  rw [finish, drain_none (ts := []) (fun t h => absurd h List.not_mem_nil) (Nat.zero_le _) h]
  dsimp only
  rw [(SettledFrom.settle _).rest]
  have hd : ({ d with todo := [] } : Dev) = d := by cases d; cases h; rfl
  rw [hd]
  split
  · exact congrArg Prod.fst (bindings_takeMessages d)
  · rfl

/-! ### The clauses of O12 -/

/-- A beacon of a device that no other holds the number of (R497, R498). -/
def beaconBound (v p : Nat) (serial : Nat) (info : BeaconInfo) (d : Dev) : Dev := { d with
  cdt.serials := tset none d.cdt.serials v (some serial)
  cdt.alien := d.cdt.alien.filter (· != pathKey v p)
  tmp.beacons := tset {} d.tmp.beacons v info }

/-- What a beacon shows of its device (Table 15.8). -/
def beaconShown (f : CdtFrame) : BeaconInfo where
  heard := true
  healthy := bitOf (fld f.payload 1 1) 0
  lock := bitOf (fld f.payload 1 1) 1
  isMaster := bitOf (fld f.payload 1 1) 2
  service := bitOf (fld f.payload 1 1) 3
  period := fld f.payload 2 1
  boot := f.hdr.boot
  serial := fld f.payload 8 8
  master := fld f.payload 24 1
  ownVer := fld f.payload 4 4
  lastTempo := fld f.payload 16 8

theorem tmp_hearDev (v p : Nat) (d : Dev) : (hearDev v p d).tmp = d.tmp :=
  (Spared.of_by (spared_showPaths (modPath v p _ d))).tmp

theorem bindings_hearDev (v p : Nat) (d : Dev) : bindings (hearDev v p d) = bindings d :=
  (bindings_showPaths _).trans rfl

/-- What an exchange's offset leaves of tempo time: the exchange ended, none missed, the slew replaced. -/
structure OffsetTaken (ofs : Int) (d : Dev) : Prop where
  ended : d.tmp.alReq = none
  missed : d.tmp.alMissed = 0
  slew : d.tmp.padjFs = ofs * 1000000 / 65536

theorem offsetTaken_wr {ofs : Int} {f : Field} {v : Nat} {d : Dev} (h : OffsetTaken ofs d) : OffsetTaken ofs (wr f v d) :=
  ⟨by rw [wr_tmp]; exact h.ended, by rw [wr_tmp]; exact h.missed, by rw [wr_tmp]; exact h.slew⟩

theorem OffsetTaken.spared {ofs : Int} {d e : Dev} (h : OffsetTaken ofs d) (hs : Spared d e) : OffsetTaken ofs e :=
  ⟨by rw [hs.tmp]; exact h.ended, by rw [hs.tmp]; exact h.missed, by rw [hs.tmp]; exact h.slew⟩

theorem takeOffset_taken (ofs : Int) (cyc : Nat) (d : Dev) : OffsetTaken ofs (takeOffset ofs cyc d) := by
  unfold takeOffset
  extract_lets counted tmp replaced shown e placed runs inside outs outside
  have hreplaced : OffsetTaken ofs replaced := ⟨rfl, rfl, rfl⟩
  clear_value replaced
  have hplaced : OffsetTaken ofs placed := by
    dsimp only [placed, shown]
    split
    · exact offsetTaken_wr (offsetTaken_wr hreplaced)
    · exact offsetTaken_wr ((offsetTaken_wr hreplaced).spared (.of_by (spared_drawNat _ _)))
  clear_value placed
  have hinside : OffsetTaken ofs inside := ⟨hplaced.ended, hplaced.missed, hplaced.slew⟩
  have houtside : OffsetTaken ofs outside := ⟨hplaced.ended, hplaced.missed, hplaced.slew⟩
  split
  · split
    · exact offsetTaken_wr hinside
    · exact hinside
  · split
    · exact (offsetTaken_wr (offsetTaken_wr houtside)).spared (.of_by (spared_raiseC _ _ _ _ _))
    · exact houtside

/-- ALIGN_REQ leaves on the lowest port with a path to the master, if there is one. -/
def alignAsked (m : Nat) (b : Bytes) (d : Dev) : Dev :=
  match pathPorts m d with
  | p :: _ => sendFrameTo m p 0x11 b d
  | [] => d

section Ready

variable {s : State} (hready : s.ready)

include hready

theorem beaconSend_answers (hedge : tempoNow s.dev % 1000 = 0) (hen : rd Reg.CDT_CTRL_EN s.dev = 1) : Answers .beaconSend s fun d =>
    ∀ p < 4, rd (Reg.CDT_PORT_ROLE p) s.dev ≠ 0 → rd (Reg.CDT_PORT_UP p) s.dev = 1 →
      ∃ h, Out.cdtPacket p h (beaconBytes s.dev) false ∈ d.out ∧ h.type = 0x10 := by
  have hruns : RunsTo .beaconSend s (forEach (those 4 fun p => portRole p s.dev != 0 && rdb (Reg.CDT_PORT_UP p) s.dev)
      (fun p d => sendFrameTo 0xFE p 0x10 (beaconBytes s.dev) d) s.dev.quiet) := by
    refine runsTo_of_live (execBeaconSend s) rfl rfl hready (if_neg ?_)
    have hedge' : tempoNow s.dev.quiet % 1000 = 0 := hedge
    have hen' : rd Reg.CDT_CTRL_EN s.dev.quiet = 1 := hen
    simp [rdb, hen', hedge']
  have hsent := beacons_sent (beaconBytes s.dev) (those 4 fun p => portRole p s.dev != 0 && rdb (Reg.CDT_PORT_UP p) s.dev) s.dev.quiet
  refine hruns.answers (by rw [hsent.rest]; exact hready.2) fun d hd p hp hrole hup => ?_
  have hmem : p ∈ those 4 fun p => portRole p s.dev != 0 && rdb (Reg.CDT_PORT_UP p) s.dev :=
    List.mem_filter.2 ⟨List.mem_range.2 hp, by simp [portRole, hrole, rdb, hup]⟩
  obtain ⟨h, hout, htype⟩ := beacons_out (beaconBytes s.dev) hmem s.dev.quiet
  exact ⟨h, hd.mem_out hout, htype⟩

theorem beacon_answers {f : CdtFrame} (hen : rd Reg.CDT_CTRL_EN s.dev = 1) (hport : f.port < 4) (hup : rd (Reg.CDT_PORT_UP f.port) s.dev = 1)
    (hcrc : f.crcOk = true) (hlisted : f.listed = true) (hlen : f.hdr.len = 32) (hpayload : f.payload.length = 32) (hsrc : f.hdr.src < 8)
    (htype : f.hdr.type = 0x10) (hdev : fld f.payload 0 1 < 8) (hother : fld f.payload 0 1 ≠ ownDev s.dev)
    (hbound : tget none s.dev.cdt.serials (fld f.payload 0 1) = none ∨
      tget none s.dev.cdt.serials (fld f.payload 0 1) = some (fld f.payload 8 8)) :
    Answers (.beacon f) s fun d => tget none d.cdt.serials (fld f.payload 0 1) = some (fld f.payload 8 8) ∧
      (tget {} d.tmp.beacons (fld f.payload 0 1)).heard = true ∧
      (tget {} d.tmp.beacons (fld f.payload 0 1)).lastTempo = fld f.payload 16 8 := by
  have hwhole : frameWhole f s.dev.quiet = (true, s.dev.quiet) := frameWhole_ok hen hport hup hcrc hlisted (hlen.trans hpayload.symm) hsrc
  have hown : (fld f.payload 0 1 == ownDev s.dev.quiet) = false := beq_eq_false_iff_ne.2 hother
  have hclash : ((tget none s.dev.quiet.cdt.serials (fld f.payload 0 1)).isSome &&
      tget none s.dev.quiet.cdt.serials (fld f.payload 0 1) != some (fld f.payload 8 8)) = false := by
    rcases hbound with h | h <;> simp [h]
  have hruns : RunsTo (.beacon f) s (hearDev (fld f.payload 0 1) (f.port % 4)
      (beaconBound (fld f.payload 0 1) (f.port % 4) (fld f.payload 8 8) (beaconShown f) s.dev.quiet)) := by
    refine runsTo_of_live (execBeacon f s) rfl rfl hready ?_
    dsimp only
    rw [hwhole]
    dsimp only
    rw [if_neg (by rw [hown]; simp [htype, hpayload, hdev]), if_neg (by rw [hclash]; decide), beaconBound, beaconShown]
  generalize hx : beaconBound (fld f.payload 0 1) (f.port % 4) (fld f.payload 8 8) (beaconShown f) s.dev.quiet = x at hruns
  have hserials : x.cdt.serials = tset none s.dev.cdt.serials (fld f.payload 0 1) (some (fld f.payload 8 8)) := by rw [← hx]; rfl
  have hbeacons : x.tmp.beacons = tset {} s.dev.tmp.beacons (fld f.payload 0 1) (beaconShown f) := by rw [← hx]; rfl
  have hxtodo : x.todo = [] := by rw [← hx]; exact hready.2
  have hbindings := bindings_hearDev (fld f.payload 0 1) (f.port % 4) x
  have htodo : (hearDev (fld f.payload 0 1) (f.port % 4) x).todo = [] := (congrArg Prod.snd hbindings).trans hxtodo
  have htmp : (finish (hearDev (fld f.payload 0 1) (f.port % 4) x)).tmp = x.tmp := (EndedFrom.finish _ htodo).tmp.trans (tmp_hearDev ..)
  refine ⟨_, hruns, rfl, ?_, ?_, ?_⟩
  · rw [serials_finish htodo, show (hearDev _ _ x).cdt.serials = x.cdt.serials from congrArg Prod.fst hbindings, hserials, tget_tset, if_pos rfl]
  · rw [htmp, hbeacons, tget_tset, if_pos rfl]; rfl
  · rw [htmp, hbeacons, tget_tset, if_pos rfl]; rfl

theorem periodicAlign_answers (t1 : BitVec 96) (hfollows : s.dev.tmp.following = true) (hedge : tempoNow s.dev % 16 = 0) :
    Answers (.periodicAlignExchange t1) s fun d => d.tmp.alReq = some (tempoNow s.dev) ∧
      ∀ p ps, pathPorts (rd Reg.TMP_STATUS_MASTER s.dev) s.dev = p :: ps →
        ∃ h, Out.cdtPacket p h (leBytes 12 t1.toNat) false ∈ d.out ∧ h.type = 0x11 ∧ h.dst = rd Reg.TMP_STATUS_MASTER s.dev := by
  set x : Dev := { s.dev.quiet with tmp.alReq := some (tempoNow s.dev) } with hx
  have hruns : RunsTo (.periodicAlignExchange t1) s (alignAsked (rd Reg.TMP_STATUS_MASTER s.dev) (leBytes 12 t1.toNat) x) := by
    refine runsTo_of_live (execPeriodicAlignExchange t1 s) rfl rfl hready ((if_neg ?_).trans rfl)
    have hedge' : tempoNow s.dev.quiet % 16 = 0 := hedge
    simp [hfollows, hedge']
  have hpaths : pathPorts (rd Reg.TMP_STATUS_MASTER s.dev) x = pathPorts (rd Reg.TMP_STATUS_MASTER s.dev) s.dev := rfl
  rw [alignAsked, hpaths] at hruns
  cases h : pathPorts (rd Reg.TMP_STATUS_MASTER s.dev) s.dev with
  | nil =>
    rw [h] at hruns
    exact hruns.answers hready.2 fun d hd => ⟨by rw [hd.tmp], fun p ps hp => absurd hp (by simp)⟩
  | cons q qs =>
    rw [h] at hruns
    dsimp only at hruns
    have hsent := sendFrameTo_sent (rd Reg.TMP_STATUS_MASTER s.dev) q 0x11 (leBytes 12 t1.toNat) x
    obtain ⟨hdr, hout, htype, hdst⟩ := sendFrameTo_out (rd Reg.TMP_STATUS_MASTER s.dev) q 0x11 (leBytes 12 t1.toNat) x
    refine hruns.answers (by rw [hsent.rest]; exact hready.2) fun d hd => ⟨by rw [hd.tmp, hsent.rest], fun p ps hp => ?_⟩
    obtain ⟨rfl, -⟩ := List.cons.inj hp
    exact ⟨hdr, hd.mem_out hout, htype, hdst⟩

theorem alignMissed_answers {t : Nat} (hopen : s.dev.tmp.alReq = some t) (hlate : t + 8 ≤ tempoNow s.dev) :
    Answers .alignExchangeMissed s fun d => d.tmp.alReq = none ∧ d.tmp.alMissed = min 3 (s.dev.tmp.alMissed + 1) := by
  have hruns : RunsTo .alignExchangeMissed s { s.dev.quiet with tmp.alReq := none, tmp.alMissed := min 3 (s.dev.tmp.alMissed + 1) } := by
    refine runsTo_of_live (execAlignExchangeMissed s) rfl rfl hready ?_
    have hq : s.dev.quiet.tmp.alReq = some t := hopen
    dsimp only
    rw [hq]
    exact if_pos hlate
  exact hruns.answers hready.2 fun d hd => ⟨by rw [hd.tmp], by rw [hd.tmp]⟩

theorem alignReq_answers {f : CdtFrame} (t2 t3 : BitVec 96) (hen : rd Reg.CDT_CTRL_EN s.dev = 1) (hport : f.port < 4)
    (hup : rd (Reg.CDT_PORT_UP f.port) s.dev = 1) (hcrc : f.crcOk = true) (hlisted : f.listed = true) (hlen : f.hdr.len = 12)
    (hpayload : f.payload.length = 12) (hsrc : f.hdr.src < 8) (htype : f.hdr.type = 0x11)
    (halien : s.dev.cdt.alien.contains (pathKey f.hdr.src f.port) = false) (hmaster : rd Reg.TMP_STATUS_IS_MASTER s.dev = 1) :
    Answers (.alignReq f t2 t3) s fun d => ∃ h, Out.cdtPacket f.port h (f.payload ++ leBytes 12 t2.toNat ++ leBytes 12 t3.toNat) false ∈ d.out ∧
      h.type = 0x12 ∧ h.dst = f.hdr.src := by
  have hwhole : frameWhole f s.dev.quiet = (true, s.dev.quiet) := frameWhole_ok hen hport hup hcrc hlisted (hlen.trans hpayload.symm) hsrc
  have hruns : RunsTo (.alignReq f t2 t3) s
      (sendFrameTo f.hdr.src f.port 0x12 (f.payload ++ leBytes 12 t2.toNat ++ leBytes 12 t3.toNat) s.dev.quiet) := by
    refine runsTo_of_live (execAlignReq f t2 t3 s) rfl rfl hready ?_
    have hmaster' : rd Reg.TMP_STATUS_IS_MASTER s.dev.quiet = 1 := hmaster
    have halien' : s.dev.quiet.cdt.alien.contains (pathKey f.hdr.src f.port) = false := halien
    dsimp only [frameOk]
    rw [hwhole, Nat.mod_eq_of_lt hport]
    dsimp only
    exact if_neg (by rw [halien']; simp [htype, hpayload, rdb, hmaster'])
  have hsent := sendFrameTo_sent f.hdr.src f.port 0x12 (f.payload ++ leBytes 12 t2.toNat ++ leBytes 12 t3.toNat) s.dev.quiet
  obtain ⟨h, hout, htype, hdst⟩ := sendFrameTo_out f.hdr.src f.port 0x12 (f.payload ++ leBytes 12 t2.toNat ++ leBytes 12 t3.toNat) s.dev.quiet
  exact hruns.answers (by rw [hsent.rest]; exact hready.2) fun d hd => ⟨h, hd.mem_out hout, htype, hdst⟩

theorem alignResp_answers {f : CdtFrame} (t4 : BitVec 96) (cyc : Nat) {t : Nat} (hen : rd Reg.CDT_CTRL_EN s.dev = 1) (hport : f.port < 4)
    (hup : rd (Reg.CDT_PORT_UP f.port) s.dev = 1) (hcrc : f.crcOk = true) (hlisted : f.listed = true) (hlen : f.hdr.len = 36)
    (hpayload : f.payload.length = 36) (hsrc : f.hdr.src < 8) (htype : f.hdr.type = 0x12)
    (halien : s.dev.cdt.alien.contains (pathKey f.hdr.src f.port) = false) (hopen : s.dev.tmp.alReq = some t) (hintime : tempoNow s.dev < t + 8)
    (hfollows : s.dev.tmp.following = true) (hmaster : f.hdr.src = rd Reg.TMP_STATUS_MASTER s.dev) :
    Answers (.alignResp f t4 cyc) s fun d => d.tmp.alReq = none ∧ d.tmp.alMissed = 0 ∧
      d.tmp.padjFs = (((stampOf (f.payload.drop 12) - stampOf f.payload)
        - (stampOf (leBytes 12 t4.toNat) - stampOf (f.payload.drop 24))) / 2) * 1000000 / 65536 := by
  have hwhole : frameWhole f s.dev.quiet = (true, s.dev.quiet) := frameWhole_ok hen hport hup hcrc hlisted (hlen.trans hpayload.symm) hsrc
  have hruns : RunsTo (.alignResp f t4 cyc) s (takeOffset (((stampOf (f.payload.drop 12) - stampOf f.payload)
      - (stampOf (leBytes 12 t4.toNat) - stampOf (f.payload.drop 24))) / 2) cyc s.dev.quiet) := by
    refine runsTo_of_live (execAlignResp f t4 cyc s) rfl rfl hready ?_
    have hopen' : s.dev.quiet.tmp.alReq = some t := hopen
    have halien' : s.dev.quiet.cdt.alien.contains (pathKey f.hdr.src f.port) = false := halien
    have hintime' : tempoNow s.dev.quiet < t + 8 := hintime
    have hmaster' : f.hdr.src = rd Reg.TMP_STATUS_MASTER s.dev.quiet := hmaster
    dsimp only [frameOk]
    rw [hwhole, Nat.mod_eq_of_lt hport]
    dsimp only
    rw [hopen']
    dsimp only
    rw [if_neg (by rw [halien', ← hmaster']; simp [htype, hpayload, hfollows, hintime']), Nat.mul_zero, Nat.mul_one, List.drop_zero]
  exact hruns.spared fun g hg => by
    obtain ⟨hended, hmissed, hslew⟩ := (takeOffset_taken _ cyc s.dev.quiet).spared hg
    exact ⟨hended, hmissed, hslew⟩

end Ready

/-- Settles O12: an alignment that strays raises a Check, and every reaction to it spares tempo time. -/
theorem beaconsAndAlignment : Obligations.BeaconsAndAlignment := by
  unfold Obligations.BeaconsAndAlignment
  exact fun s hready => ⟨beaconSend_answers hready,
    fun f hen hport hup hcrc hlisted hlen hpayload hsrc htype hdev hother hbound =>
      beacon_answers hready hen hport hup hcrc hlisted hlen hpayload hsrc htype hdev hother hbound,
    fun t1 => periodicAlign_answers hready t1, fun t => alignMissed_answers hready,
    fun f t2 t3 hen hport hup hcrc hlisted hlen hpayload hsrc htype halien hmaster =>
      alignReq_answers hready t2 t3 hen hport hup hcrc hlisted hlen hpayload hsrc htype halien hmaster,
    fun f t4 cyc t hen hport hup hcrc hlisted hlen hpayload hsrc htype halien hopen hintime hfollows hmaster =>
      alignResp_answers hready t4 cyc hen hport hup hcrc hlisted hlen hpayload hsrc htype halien hopen hintime hfollows hmaster⟩

end Sys2Proof.Proofs

/-!
PROOFS. O13: the fabric's arbiters. A flit on a way that takes it moves nothing but the credit ledgers while no injection is armed.
-/

namespace Sys2Proof.Proofs

open Sys2Proof Sys2Proof.Machine

/-! ### Ways that take a flit (R78, R79) -/

theorem ledgerOpen_free {u cls : Nat} {d : Dev} (hcredits : (getLedger u cls d).credits.ok 8 = true) (hocc : (getLedger u cls d).occ.ok 8 = true)
    (hresync : (getLedger u cls d).resync = false) (hcredit : (getLedger u cls d).credits.val ≠ 0)
    (hslot : (getLedger u cls d).occ.val < classDepth cls d) : ledgerOpen u cls d = (true, d) := by
  have hread : readLedger u cls d = (getLedger u cls d, d) := if_pos (by rw [hcredits, hocc]; rfl)
  rw [ledgerOpen, hread]
  simp [hresync, hcredit, hslot]

theorem wayOpen_free {us : List Nat} {cls : Nat} {d : Dev} (h : wayFree us cls d) : wayOpen us cls d = (true, d) := by
  unfold wayOpen
  induction us with
  | nil => rfl
  | cons u us ih =>
    obtain ⟨hcredits, hocc, hresync, hcredit, hslot⟩ := h u List.mem_cons_self
    rw [List.foldl_cons, ledgerOpen_free hcredits hocc hresync hcredit hslot]
    exact ih fun v hv => h v (List.mem_cons_of_mem _ hv)

/-- Only the credit ledgers differ. -/
def LedgersOnly (d e : Dev) : Prop := e = { d with fab.ledgers := e.fab.ledgers }

theorem LedgersOnly.trans {a b c : Dev} (h : LedgersOnly a b) (g : LedgersOnly b c) : LedgersOnly a c := by
  rw [LedgersOnly] at *; rw [g, h]

section Keeps

variable {d e : Dev} (h : LedgersOnly d e)

include h

theorem LedgersOnly.arbs : e.fab.arbs = d.fab.arbs := by rw [h]
theorem LedgersOnly.out : e.out = d.out := by rw [h]
theorem LedgersOnly.todo : e.todo = d.todo := by rw [h]
theorem LedgersOnly.mem : e.mem = d.mem := by rw [h]
theorem LedgersOnly.king : e.king = d.king := by rw [h]
theorem LedgersOnly.regs : e.regs = d.regs := by rw [h]
theorem LedgersOnly.flt : e.flt = d.flt := by rw [h]
theorem LedgersOnly.seals : e.seals = d.seals := by rw [h]

end Keeps

theorem chargeFlit_ledgersOnly {d : Dev} (hinj : d.flt.inj = none) (unit cls : Nat) : LedgersOnly d (chargeFlit unit cls d) := by
  have hpaired (v : Nat) : mkPaired 8 3 v d = (⟨v % 2 ^ 8, 2 ^ 8 - 1 - v % 2 ^ 8⟩, d) := by rw [mkPaired, hinj]
  rw [chargeFlit, hpaired]
  rfl

/-- While no injection is armed, a flit's data come whole, and the ledgers of its way count it (R78). -/
theorem flitTravels_whole (us : List Nat) (cls addr : Nat) {d : Dev} (harm : rd Reg.FAB_INJ_ARM_ARM d = 0) (hinj : d.flt.inj = none) :
    ∃ e, flitTravels us cls addr d = (.whole, e) ∧ LedgersOnly d e := by
  unfold flitTravels
  induction us generalizing d with
  | nil => exact ⟨d, rfl, rfl⟩
  | cons u us ih =>
    have hcharged := chargeFlit_ledgersOnly hinj u cls
    have harm' : rd Reg.FAB_INJ_ARM_ARM (chargeFlit u cls d) = 0 := (rd_of_regs hcharged.regs _).trans harm
    have herror : flitError u cls addr (chargeFlit u cls d) = (.whole, chargeFlit u cls d) := by
      rw [flitError, if_neg (by simp [rdb, harm'])]
    obtain ⟨e, he, hledgers⟩ := ih harm' (by rw [hcharged.flt]; exact hinj)
    refine ⟨e, ?_, hcharged.trans hledgers⟩
    rw [List.foldl_cons, herror]
    exact he

theorem sendFlit_ledgersOnly (us : List Nat) (cls addr : Nat) {d : Dev} (harm : rd Reg.FAB_INJ_ARM_ARM d = 0) (hinj : d.flt.inj = none) :
    LedgersOnly d (sendFlit us cls addr d) := by
  obtain ⟨e, he, hledgers⟩ := flitTravels_whole us cls addr harm hinj
  rw [sendFlit, he]
  exact hledgers

/-- A store meets no injection where none is armed. -/
theorem storeMem_regs {d : Dev} (harm : rd Reg.FAB_INJ_ARM_ARM d = 0) (a : Nat) (b : Bytes) : (storeMem a b d).regs = d.regs := by
  have hwrite := memWrite_rest b a d
  have harm' : rdb Reg.FAB_INJ_ARM_ARM (memWrite a b d) = false := by rw [hwrite, rdb]; exact (congrArg (· != 0) harm)
  unfold storeMem injectStore
  dsimp only
  rw [if_neg]
  · rw [hwrite]
  · rw [Bool.and_eq_true]
    exact fun h => absurd (h.1.symm.trans harm') (by decide)

/-! ### Arbiters -/

theorem getArb_modArb (t : Nat) (f : Arb → Arb) (d : Dev) : tget {} (modArb t f d).fab.arbs t = f (tget {} d.fab.arbs t) := by
  rw [modArb, tget_tmod, if_pos rfl]

/-- A request as it arrives at its arbiter (R72, R73). -/
def requested (port : Nat) (write : Bool) (qos addr order : Nat) (line : Bool) (buffer : Bytes) : Xfer where
  port := port
  write := write
  qos := qos
  addr := addr
  order := order
  line := write && line && port < 64
  data := if write && kingPort port then buffer else []

/-- An arbiter with a request more. -/
def Arb.asked (x : Xfer) (a : Arb) : Arb := { a with pending := a.pending ++ [x], next := x.order + 1 }

/-- An arbiter that takes a request from those that wait; one that holds a grant more; one that has closed a grant. -/
def Arb.taken (x : Xfer) (a : Arb) : Arb := { a with pending := a.pending.erase x }
def Arb.held (x : Xfer) (a : Arb) : Arb := { a with grants := a.grants ++ [x] }
def Arb.closed (x : Xfer) (a : Arb) : Arb := { a with grants := a.grants.erase x }

theorem requestAgeRaise_answers {s : State} (hready : s.ready) (target : Fin 61) (order : Nat) : Answers (.requestAgeRaise target order) s fun d =>
    (∀ x ∈ (tget {} d.fab.arbs target).pending, x.order = order → x.level = 3) ∧
    (tget {} d.fab.arbs target).pending.map (·.port) = (tget {} s.dev.fab.arbs target).pending.map (·.port) := by
  refine (runsTo_of_live (execRequestAgeRaise target order s) rfl rfl hready rfl).answers hready.2 fun d hd => ?_
  rw [hd.fab, getArb_modArb]
  refine ⟨fun x hx horder => ?_, ?_⟩
  · obtain ⟨y, -, rfl⟩ := List.mem_map.1 hx
    split at horder
    · rw [if_pos ‹_›]; rfl
    · exact absurd horder ‹_›
  · rw [List.map_map]
    refine List.map_congr_left fun x _ => ?_
    dsimp only [Function.comp]
    split <;> rfl

theorem Arb.taken_def (x : Xfer) : Arb.taken x = fun a => { a with pending := a.pending.erase x } := rfl
theorem Arb.closed_def (x : Xfer) : Arb.closed x = fun a => { a with grants := a.grants.erase x } := rfl

/-! ### What an access meets (R91, R92) -/

/-- Where no word carries an old error, an access without a new one leaves the device as it is. -/
theorem eccAccess_clean {d : Dev} (h : d.fab.flips = []) {u a : Nat} : eccAccess u a 0 d = d := by
  have hword : (0 : Nat) ^^^ tget 0 d.fab.flips (a / 8) = 0 := by
    rw [h]; exact Nat.zero_xor 0
  rw [eccAccess]
  dsimp only
  rw [hword, eccMeet, show classifyEcc 0 = .clean from by decide]
  exact if_pos rfl

/-- What an access may change that meets an error: not the arbiters, the ledgers, an injection that waits, or the fabric's settings. -/
structure MetOnly (d e : Dev) : Prop where
  arbs : e.fab.arbs = d.fab.arbs
  ledgers : e.fab.ledgers = d.fab.ledgers
  inj : e.flt.inj = d.flt.inj
  out : e.out = d.out
  depths : rdReg Reg.FAB_CTRL_DEPTH_DAT.off e = rdReg Reg.FAB_CTRL_DEPTH_DAT.off d
  armed : rdReg Reg.FAB_INJ_ARM_ARM.off e = rdReg Reg.FAB_INJ_ARM_ARM.off d

theorem MetOnly.refl (d : Dev) : MetOnly d d := ⟨rfl, rfl, rfl, rfl, rfl, rfl⟩

theorem MetOnly.trans {a b c : Dev} (h : MetOnly a b) (g : MetOnly b c) : MetOnly a c :=
  ⟨g.arbs.trans h.arbs, g.ledgers.trans h.ledgers, g.inj.trans h.inj, g.out.trans h.out, g.depths.trans h.depths, g.armed.trans h.armed⟩

theorem MetOnly.of_fault {d e : Dev} (h : FaultOnly d e) : MetOnly d e :=
  ⟨by rw [h.fab], by rw [h.fab], h.inj, h.out, h.regs _ (by decide) (by decide) (by decide), h.regs _ (by decide) (by decide) (by decide)⟩

theorem MetOnly.wr (f : Field) (v : Nat) (d : Dev) (h : f.off ≠ Reg.FAB_CTRL_DEPTH_DAT.off ∧ f.off ≠ Reg.FAB_INJ_ARM_ARM.off) :
    MetOnly d (Machine.wr f v d) := ⟨rfl, rfl, rfl, rfl, rdReg_wr_off h.1.symm v d, rdReg_wr_off h.2.symm v d⟩

theorem MetOnly.bump (f : Field) (d : Dev) (h : f.off ≠ Reg.FAB_CTRL_DEPTH_DAT.off ∧ f.off ≠ Reg.FAB_INJ_ARM_ARM.off) :
    MetOnly d (Machine.bump f d) := by
  have hrec := recordOnly_bump f d
  exact ⟨by rw [hrec], by rw [hrec], by rw [hrec], by rw [hrec], rdReg_bump_off h.1.symm d, rdReg_bump_off h.2.symm d⟩

theorem MetOnly.forEach {f : Nat → Dev → Dev} (h : ∀ n d, MetOnly d (f n d)) (l : List Nat) (d : Dev) : MetOnly d (Machine.forEach l f d) := by
  induction l generalizing d with
  | nil => exact .refl d
  | cons n l ih => exact (h n d).trans (ih _)

theorem MetOnly.eccUe (u addr : Nat) (d : Dev) : MetOnly d (Machine.eccUe u addr d) :=
  ((MetOnly.bump _ d (by decide)).trans (.wr _ _ _ (by decide))).trans ((MetOnly.wr _ _ _ (by decide)).trans (.of_fault (.raiseC ..)))

theorem MetOnly.eccMeet (u addr err : Nat) (d : Dev) : MetOnly d (Machine.eccMeet u addr err d).2 := by
  unfold Machine.eccMeet
  split
  · exact .refl d
  · exact (MetOnly.bump _ d (by decide)).trans (.of_fault (.notice ..))
  · exact .eccUe u addr d
  · have hdrawn : MetOnly d (drawNat 2 d).2 := ⟨rfl, rfl, rfl, rfl, rfl, rfl⟩
    dsimp only
    split
    · exact hdrawn
    · exact hdrawn.trans (.eccUe ..)

theorem MetOnly.memWrite (a : Nat) (b : Bytes) (d : Dev) : MetOnly d (Machine.memWrite a b d) := by
  rw [memWrite_rest]; exact ⟨rfl, rfl, rfl, rfl, rfl, rfl⟩

theorem MetOnly.setPoison (a : Nat) (p : Bool) (d : Dev) : MetOnly d (Machine.setPoison a p d) := ⟨rfl, rfl, rfl, rfl, rfl, rfl⟩

theorem MetOnly.eccAccess (u addr err : Nat) (d : Dev) : MetOnly d (Machine.eccAccess u addr err d) := by
  have hmend (e : Dev) : MetOnly e { e with fab.flips := tset 0 e.fab.flips (addr / 8) 0 } := ⟨rfl, rfl, rfl, rfl, rfl, rfl⟩
  have hmet := MetOnly.eccMeet u addr (err ^^^ tget 0 d.fab.flips (addr / 8)) d
  unfold Machine.eccAccess
  dsimp only
  generalize Machine.eccMeet u addr (err ^^^ tget 0 d.fab.flips (addr / 8)) d = x at hmet ⊢
  obtain ⟨f, e⟩ := x
  cases f with
  | whole =>
    dsimp only
    split
    · exact hmet
    · exact hmet.trans (hmend e)
  | marked => exact hmet.trans (.setPoison ..)
  | changed =>
    have hdrawn : MetOnly e (drawBytes 8 e).2 := ⟨rfl, rfl, rfl, rfl, rfl, rfl⟩
    exact hmet.trans (hdrawn.trans ((hmend _).trans (.memWrite ..)))

theorem MetOnly.ddrBurst {d : Dev} (hinj : d.flt.inj = none) (ch sub addr words err : Nat) :
    MetOnly d (Machine.ddrBurst ch sub addr words err d) := by
  have htake : takeDdrInj ch d = (0, d) := by rw [takeDdrInj, hinj]
  have hreg : 0x3800200 + 0x8 * ch ≠ Reg.FAB_CTRL_DEPTH_DAT.off ∧ 0x3800200 + 0x8 * ch ≠ Reg.FAB_INJ_ARM_ARM.off := by
    simp only [Reg.FAB_CTRL_DEPTH_DAT, Reg.FAB_INJ_ARM_ARM]; omega
  unfold Machine.ddrBurst
  rw [htake]
  dsimp only
  split
  · exact .refl d
  · split
    · exact ((MetOnly.wr _ _ _ hreg).trans (.wr _ _ _ hreg)).trans ((MetOnly.bump _ _ hreg).trans ((MetOnly.wr _ _ _ (by decide)).trans
        (.of_fault (.notice ..))))
    · exact ((MetOnly.wr _ _ _ hreg).trans (.wr _ _ _ hreg)).trans ((MetOnly.forEach (fun _ _ => .setPoison ..) _ _).trans
        ((MetOnly.bump _ _ hreg).trans ((MetOnly.wr _ _ _ (by decide)).trans (.of_fault (.raiseC ..)))))

theorem MetOnly.readAccess {d : Dev} (hinj : d.flt.inj = none) (t : Nat) (x : Xfer) (err : Nat) :
    MetOnly d (Machine.readAccess t x err d).2.2 := by
  unfold Machine.readAccess
  split
  · split
    · exact .refl d
    · exact (MetOnly.bump _ d (by decide)).trans ((MetOnly.wr _ _ _ (by decide)).trans (.of_fault (.notice ..)))
  · split
    · exact ⟨rfl, rfl, rfl, rfl, rfl, rfl⟩
    · dsimp only
      split
      · exact (MetOnly.eccAccess ..).trans (MetOnly.forEach (fun _ _ => .eccAccess ..) _ _)
      · exact .ddrBurst hinj _ _ _ _ _

section Ready

variable {s : State} (hready : s.ready) (harm : rd Reg.FAB_INJ_ARM_ARM s.dev = 0) (hinj : s.dev.flt.inj = none)

include hready harm hinj

theorem transferRequest_answers {target : Fin 61} {port : Fin 120} (write : Bool) (qos : Fin 4) (addr : Nat) (same line : Bool) (buffer : List Byte)
    (hfew : ((tget {} s.dev.fab.arbs target).pending ++ (tget {} s.dev.fab.arbs target).grants).countP (fun x => x.port == port.val) < 2)
    (hking : kingPort port = true → s.dev.king.held = false) (hway : wayFree (wayTo port target) 0 s.dev) :
    Answers (.transferRequest target port write qos addr same line buffer) s fun d =>
      ∃ x ∈ (tget {} d.fab.arbs target).pending, x.port = port ∧ x.write = write ∧ x.qos = qos ∧ x.addr = addr ∧
        x.order = if same then (tget {} s.dev.fab.arbs target).next - 1 else (tget {} s.dev.fab.arbs target).next := by
  set n := if same then (tget {} s.dev.fab.arbs target).next - 1 else (tget {} s.dev.fab.arbs target).next with hn
  have hopen : wayOpen (wayTo port target) 0 s.dev.quiet = (true, s.dev.quiet) := wayOpen_free hway
  have hheld : ¬(kingPort port && s.dev.quiet.king.held) = true := by
    rw [Bool.and_eq_true]
    rintro ⟨hk, hh⟩
    exact absurd (hking hk) (by rw [show s.dev.king.held = true from hh]; decide)
  have hsent := sendFlit_ledgersOnly (wayTo port target) 0 addr (d := s.dev.quiet) harm hinj
  have hruns : RunsTo (.transferRequest target port write qos addr same line buffer) s
      (modArb target (Arb.asked (requested port write qos addr n line buffer)) (sendFlit (wayTo port target) 0 addr s.dev.quiet)) := by
    refine runsTo_of_live (execTransferRequest target port write qos addr same line buffer s) rfl rfl hready ?_
    refine (if_neg hheld).trans ((if_pos hfew).trans ?_)
    rw [hopen]
    rfl
  refine hruns.answers (hsent.todo.trans hready.2) fun d hd => ⟨requested port write qos addr n line buffer, ?_, rfl, rfl, rfl, rfl, rfl⟩
  rw [hd.fab, getArb_modArb]
  exact List.mem_append_right _ (List.mem_singleton.2 rfl)

theorem arbiterGrant_write {target : Fin 61} (err : BitVec 76) {x : Xfer}
    (hslot : (tget {} s.dev.fab.arbs target).grants.length < grantLimit target)
    (hpick : pickRequest (tget {} s.dev.fab.arbs target).pending = some x) (hwrite : x.write = true)
    (hway : wayFree (wayBack target x.port) 1 s.dev) : Answers (.arbiterGrant target err false) s fun d =>
      Out.go target x.port ∈ d.out ∧ x ∈ (tget {} d.fab.arbs target).grants ∧
        (tget {} d.fab.arbs target).pending = (tget {} s.dev.fab.arbs target).pending.erase x := by
  have hopen : wayOpen (wayBack target x.port) 1 s.dev.quiet = (true, s.dev.quiet) := wayOpen_free hway
  have hsent := sendFlit_ledgersOnly (wayBack target x.port) 1 x.addr (d := modArb target (Arb.taken x) s.dev.quiet) harm hinj
  have hruns : RunsTo (.arbiterGrant target err false) s (send (.go target x.port) (modArb target (Arb.held x)
      (sendFlit (wayBack target x.port) 1 x.addr (modArb target (Arb.taken x) s.dev.quiet)))) := by
    refine runsTo_of_live (execArbiterGrant target err false s) rfl rfl hready ?_
    dsimp only
    rw [if_neg Bool.false_ne_true]
    refine (if_pos hslot).trans ?_
    rw [show pickRequest (tget {} s.dev.quiet.fab.arbs target).pending = some x from hpick]
    dsimp only
    rw [if_pos hwrite, hopen]
    rfl
  refine hruns.answers (hsent.todo.trans hready.2) fun d hd => ⟨?_, ?_, ?_⟩
  · exact hd.mem_out (List.mem_append_right _ (List.mem_singleton.2 rfl))
  · rw [hd.fab, show (send _ _).fab = (modArb target (Arb.held x) _).fab from rfl, getArb_modArb]
    exact List.mem_append_right _ (List.mem_singleton.2 rfl)
  · rw [hd.fab, show (send _ _).fab = (modArb target (Arb.held x) _).fab from rfl, getArb_modArb, hsent.arbs, getArb_modArb]
    rfl

theorem arbiterGrant_read {target : Fin 61} (err : BitVec 76) {x : Xfer}
    (hslot : (tget {} s.dev.fab.arbs target).grants.length < grantLimit target)
    (hpick : pickRequest (tget {} s.dev.fab.arbs target).pending = some x) (hread : x.write = false)
    (hway : wayFree (wayBack target x.port) 2 s.dev) (hwrites : ∀ y ∈ (tget {} s.dev.fab.arbs target).grants, y.write = true) :
    Answers (.arbiterGrant target err true) s fun d =>
      (∃ b bad, Out.readData target x.port b bad ∈ d.out) ∧
      (tget {} d.fab.arbs target).pending = (tget {} s.dev.fab.arbs target).pending.erase x ∧
      (target.val < 48 → err = 0 → s.dev.fab.flips = [] → inSeal x.addr 64 s.dev = none →
        Out.readData target x.port (memRead s.dev x.addr 64) (rangePoisoned x.addr 64 s.dev) ∈ d.out) := by
  set taken := modArb target (Arb.taken x) s.dev.quiet with htaken
  obtain ⟨⟨b, bad, e⟩, hr⟩ : ∃ r, readAccess target x err.toNat taken = r := ⟨_, rfl⟩
  have hmet : MetOnly taken e := by
    have h := MetOnly.readAccess (d := taken) hinj target x err.toNat
    rwa [hr] at h
  have hwayAfter : wayFree (wayBack target x.port) 2 e := fun u hu => by
    have hledger : getLedger u 2 e = getLedger u 2 s.dev := by
      rw [getLedger, getLedger, hmet.ledgers, classDepth, classDepth, rd_of_rdReg hmet.depths]; rfl
    have hdepth : classDepth 2 e = classDepth 2 s.dev := rd_of_rdReg hmet.depths
    rw [hledger, hdepth]
    exact hway u hu
  obtain ⟨g, htravels, hledgers⟩ := flitTravels_whole (wayBack target x.port) 2 x.addr (d := e)
    ((rd_of_rdReg hmet.armed).trans harm) (hmet.inj.trans hinj)
  have hruns : RunsTo (.arbiterGrant target err true) s (landResponse target { x with data := b, bad := bad } b bad g) := by
    refine runsTo_of_live (execArbiterGrant target err true s) rfl rfl hready ?_
    have hnone : ((tget {} s.dev.quiet.fab.arbs target).grants.filter fun x => !x.write) = [] :=
      List.filter_eq_nil_iff.2 fun y hy => by rw [hwrites y hy]; decide
    dsimp only
    rw [hnone, List.foldl_nil, if_pos rfl]
    refine (if_pos hslot).trans ?_
    rw [show pickRequest (tget {} s.dev.quiet.fab.arbs target).pending = some x from hpick]
    dsimp only
    rw [if_neg (by rw [hread]; decide), ← Arb.taken_def, ← htaken, hr]
    dsimp only
    rw [wayOpen_free hwayAfter]
    dsimp only
    rw [if_pos rfl, sendResponse]
    dsimp only
    rw [htravels]
    dsimp only
    rw [if_neg (by decide), show (bad || Fate.whole == Fate.marked) = bad from Bool.or_false bad]
  have hout : Out.readData target x.port b bad ∈ (landResponse target { x with data := b, bad := bad } b bad g).out := by
    rw [landResponse]
    exact List.mem_append_right _ (List.mem_singleton.2 rfl)
  have harbs : (landResponse target { x with data := b, bad := bad } b bad g).fab.arbs = taken.fab.arbs := by
    rw [← hmet.arbs, ← hledgers.arbs, landResponse]
    dsimp only
    split <;> rfl
  refine hruns.spared fun d hd => ⟨⟨b, bad, hd.out _ hout⟩, ?_, fun hpool herr hflips hseal => ?_⟩
  · rw [hd.arbs, harbs, getArb_modArb]; rfl
  · have hclean : readAccess target x err.toNat taken = (memRead s.dev x.addr 64, rangePoisoned x.addr 64 s.dev, taken) := by
      have hseal' : inSeal x.addr 64 taken = none := hseal
      have hflips' : taken.fab.flips = [] := hflips
      have hmeet (u a : Nat) : eccAccess u a 0 taken = taken := eccAccess_clean hflips'
      rw [readAccess, hseal', herr]
      dsimp only
      rw [if_neg (by omega), if_pos hpool, show (0 : BitVec 76).toNat = 0 from rfl, hmeet, eccRange, hflips']
      rfl
    have hb : memRead s.dev x.addr 64 = b := congrArg Prod.fst (hclean.symm.trans hr)
    have hbad : rangePoisoned x.addr 64 s.dev = bad := congrArg (·.2.1) (hclean.symm.trans hr)
    rw [hb, hbad]
    exact hd.out _ hout

theorem writeDataArrive_answers {target : Fin 61} {port : Fin 120} {data : List Byte} {x : Xfer} (htarget : target.val < 48)
    (hlen : data.length = 64) (hgrant : openGrant target port true s.dev = some x) (hline : x.line = false) (hking : kingPort port = false)
    (hseal : inSeal x.addr 64 s.dev = none) (hway : wayFree (wayTo port target) 2 s.dev) : Answers (.writeDataArrive target port data) s fun d =>
      (∀ i (_ : i < 64) (hd : i < data.length), memByte d (x.addr + i) = data[i]) ∧
      (∀ a, a < x.addr ∨ x.addr + 64 ≤ a → memByte d a = memByte s.dev a) ∧
      (tget {} d.fab.arbs target).grants = (tget {} s.dev.fab.arbs target).grants.erase x := by
  have hopen : wayOpen (wayTo port target) 2 s.dev.quiet = (true, s.dev.quiet) := wayOpen_free hway
  obtain ⟨e, htravels, hledgers⟩ := flitTravels_whole (wayTo port target) 2 x.addr (d := modArb target (Arb.closed x) s.dev.quiet) harm hinj
  have hstored : writeArrives target x data .whole e = storeMem x.addr data e := by
    have htake : data.take 64 = data := List.take_of_length_le hlen.le
    have hport : x.port = port := by
      have h := List.find?_some hgrant
      rw [Bool.and_eq_true] at h
      exact beq_iff_eq.1 h.1
    have hunsealed : inSeal x.addr data.length e = none := by
      rw [hlen, inSeal, hledgers.seals]; exact hseal
    rw [writeArrives, if_neg (by rw [hline]; decide), hport, hking, if_neg Bool.false_ne_true, writeAccess]
    dsimp only
    rw [htake, if_neg (by decide)]
    dsimp only
    rw [hunsealed]
    dsimp only
    rw [if_pos (by omega), if_neg (by decide)]
  have harm' : rd Reg.FAB_INJ_ARM_ARM e = 0 := (rd_of_regs hledgers.regs _).trans harm
  have hregs : (storeMem x.addr data e).regs = e.regs := storeMem_regs harm' ..
  have hsent := sendFlit_ledgersOnly (wayBack target port) 3 x.addr (d := storeMem x.addr data e) ((rd_of_regs hregs _).trans harm')
    (by rw [storeMem_rest, hledgers.flt]; exact hinj)
  have hruns : RunsTo (.writeDataArrive target port data) s (sendFlit (wayBack target port) 3 x.addr (storeMem x.addr data e)) := by
    refine runsTo_of_live (execWriteDataArrive target port data s) rfl rfl hready ?_
    dsimp only
    rw [show openGrant target port true s.dev.quiet = some x from hgrant]
    dsimp only
    rw [hopen]
    dsimp only
    rw [← Arb.closed_def, htravels]
    dsimp only
    rw [hstored]
  refine hruns.answers (by rw [hsent.todo, storeMem_todo, hledgers.todo]; exact hready.2) fun d hd => ⟨fun i hi hid => ?_, fun a ha => ?_, ?_⟩
  · rw [memByte_of_mem (hd.mem.trans hsent.mem), memByte_of_mem (storeMem_mem ..), memByte_memWrite_in]
  · rw [memByte_of_mem (hd.mem.trans hsent.mem), memByte_storeMem_out (by omega), memByte_of_mem hledgers.mem]
    rfl
  · rw [hd.fab, hsent.arbs, (Spared.of_by (spared_storeMem x.addr data e)).arbs, hledgers.arbs, getArb_modArb]
    rfl

end Ready

/-- Settles O13: a read that meets an error may owe reactions, and these spare the arbiters and what has been sent. -/
theorem arbitersRequestGrantAndComplete : Obligations.ArbitersRequestGrantAndComplete := by
  unfold Obligations.ArbitersRequestGrantAndComplete
  exact fun s hready harm hinj =>
    ⟨fun target port write qos addr same line buffer hfew hking hway =>
      transferRequest_answers hready harm hinj write qos addr same line buffer hfew hking hway,
    fun target err x hslot hpick => ⟨fun hwrite hway => arbiterGrant_write hready harm hinj err hslot hpick hwrite hway,
      fun hread hway hwrites => arbiterGrant_read hready harm hinj err hslot hpick hread hway hwrites⟩,
    fun target order => requestAgeRaise_answers hready target order,
    fun target port data x htarget hlen hgrant hline hking hseal hway =>
      writeDataArrive_answers hready harm hinj htarget hlen hgrant hline hking hseal hway⟩

end Sys2Proof.Proofs

/-!
PROOFS. O14: cut-offs, late data, the scrub of the pool, armed injections and the ledgers of the fabric.
-/

namespace Sys2Proof.Proofs

open Sys2Proof Sys2Proof.Machine

/-! ### A flit that may meet an injection (R91, R94) -/

/-- The registers in which the fabric counts and names its cut-offs, and those of a cluster's L2. -/
abbrev ApartReg (o : Nat) : Prop :=
  o = Reg.FAB_CUT_LATE.off ∨ o = Reg.FAB_CUT_MAP0_PORTS.off ∨ o = Reg.FAB_CUT_MAP1_PORTS.off ∨
    (0x1000000 ≤ o ∧ o < 0x1800000 ∧ o % 0x100000 < 0x48)

theorem apartReg_block {o : Nat} (h : ApartReg o) : o / 0x100000 ≠ 4 ∧ o / 0x100000 ≠ 5 ∧ o ∉ ambientRegs := by
  have hambient : ∀ r ∈ ambientRegs, ¬ ApartReg r := by decide
  have hrange : o / 0x100000 = 2 ∨ 0x10 ≤ o / 0x100000 := by
    simp only [ApartReg, Reg.FAB_CUT_LATE, Reg.FAB_CUT_MAP0_PORTS, Reg.FAB_CUT_MAP1_PORTS] at h
    omega
  exact ⟨by omega, by omega, fun ho => hambient o ho h⟩

/-- What an error that is met may change: not the arbiters, the scrub, the L2s, what is sent or the registers of the cut-offs and the L2s. -/
structure ErrorOnly (d e : Dev) : Prop where
  arbs : e.fab.arbs = d.fab.arbs
  scrub : e.fab.scrub = d.fab.scrub
  l2s : e.l2s = d.l2s
  out : e.out = d.out
  regs : ∀ o, ApartReg o → rdReg o e = rdReg o d

theorem ErrorOnly.refl (d : Dev) : ErrorOnly d d := ⟨rfl, rfl, rfl, rfl, fun _ _ => rfl⟩

theorem ErrorOnly.trans {a b c : Dev} (h : ErrorOnly a b) (g : ErrorOnly b c) : ErrorOnly a c :=
  ⟨g.arbs.trans h.arbs, g.scrub.trans h.scrub, g.l2s.trans h.l2s, g.out.trans h.out, fun o ho => (g.regs o ho).trans (h.regs o ho)⟩

theorem ErrorOnly.rd {d e : Dev} (h : ErrorOnly d e) {f : Field} (hf : ApartReg f.off) : Machine.rd f e = Machine.rd f d :=
  rd_of_rdReg (h.regs f.off hf)

theorem ErrorOnly.of_fault {d e : Dev} (h : FaultOnly d e) : ErrorOnly d e :=
  ⟨by rw [h.fab], by rw [h.fab], by rw [h.rest], h.out, fun o ho => h.regs o (apartReg_block ho).1 (apartReg_block ho).2.1 (apartReg_block ho).2.2⟩

theorem ErrorOnly.wr {f : Field} (hf : ¬ ApartReg f.off) (v : Nat) (d : Dev) : ErrorOnly d (Machine.wr f v d) :=
  ⟨rfl, rfl, rfl, rfl, fun _ ho => rdReg_wr_off (by rintro rfl; exact hf ho) v d⟩

theorem ErrorOnly.bump {f : Field} (hf : ¬ ApartReg f.off) (d : Dev) : ErrorOnly d (Machine.bump f d) := by
  have hrec := recordOnly_bump f d
  exact ⟨by rw [hrec], by rw [hrec], by rw [hrec], by rw [hrec], fun _ ho => rdReg_bump_off (by rintro rfl; exact hf ho) d⟩

theorem ErrorOnly.forEach {f : Nat → Dev → Dev} (h : ∀ n d, ErrorOnly d (f n d)) (l : List Nat) (d : Dev) :
    ErrorOnly d (Machine.forEach l f d) := by
  induction l generalizing d with
  | nil => exact .refl d
  | cons n l ih => exact (h n d).trans (ih _)

theorem ErrorOnly.eccUe (u addr : Nat) (d : Dev) : ErrorOnly d (Machine.eccUe u addr d) :=
  ((ErrorOnly.bump (by decide) d).trans (.wr (by decide) ..)).trans ((ErrorOnly.wr (by decide) ..).trans (.of_fault (.raiseC ..)))

theorem ErrorOnly.eccMeet (u addr err : Nat) (d : Dev) : ErrorOnly d (Machine.eccMeet u addr err d).2 := by
  unfold Machine.eccMeet
  split
  · exact .refl d
  · exact (ErrorOnly.bump (by decide) d).trans (.of_fault (.notice ..))
  · exact .eccUe u addr d
  · have hdrawn : ErrorOnly d (drawNat 2 d).2 := ⟨rfl, rfl, rfl, rfl, fun _ _ => rfl⟩
    dsimp only
    split
    · exact hdrawn
    · exact hdrawn.trans (.eccUe ..)

theorem ErrorOnly.memWrite (a : Nat) (b : Bytes) (d : Dev) : ErrorOnly d (Machine.memWrite a b d) := by
  rw [memWrite_rest]; exact ⟨rfl, rfl, rfl, rfl, fun _ _ => rfl⟩

theorem ErrorOnly.eccAccess (u addr err : Nat) (d : Dev) : ErrorOnly d (Machine.eccAccess u addr err d) := by
  have hmend (e : Dev) : ErrorOnly e { e with fab.flips := tset 0 e.fab.flips (addr / 8) 0 } := ⟨rfl, rfl, rfl, rfl, fun _ _ => rfl⟩
  have hmet := ErrorOnly.eccMeet u addr (err ^^^ tget 0 d.fab.flips (addr / 8)) d
  unfold Machine.eccAccess
  dsimp only
  generalize Machine.eccMeet u addr (err ^^^ tget 0 d.fab.flips (addr / 8)) d = x at hmet ⊢
  obtain ⟨f, e⟩ := x
  cases f with
  | whole =>
    dsimp only
    split
    · exact hmet
    · exact hmet.trans (hmend e)
  | marked => exact hmet.trans ⟨rfl, rfl, rfl, rfl, fun _ _ => rfl⟩
  | changed =>
    have hdrawn : ErrorOnly e (drawBytes 8 e).2 := ⟨rfl, rfl, rfl, rfl, fun _ _ => rfl⟩
    exact hmet.trans (hdrawn.trans ((hmend _).trans (.memWrite ..)))

theorem ErrorOnly.mkPaired (w cls v : Nat) (d : Dev) : ErrorOnly d (Machine.mkPaired w cls v d).2 := by
  unfold Machine.mkPaired
  dsimp only
  split
  · split
    · have hspent : ErrorOnly d { (drawNat w d).2 with flt.inj := none } := ⟨rfl, rfl, rfl, rfl, fun _ _ => rfl⟩
      exact hspent.trans (.wr (f := Reg.FLT_INJ_ARM) (by decide) 0 _)
    · exact .refl d
  · exact .refl d

theorem ErrorOnly.chargeFlit (unit cls : Nat) (d : Dev) : ErrorOnly d (Machine.chargeFlit unit cls d) :=
  (ErrorOnly.mkPaired ..).trans ⟨rfl, rfl, rfl, rfl, fun _ _ => rfl⟩

theorem ErrorOnly.flitError (unit cls addr : Nat) (d : Dev) : ErrorOnly d (Machine.flitError unit cls addr d).2 := by
  unfold Machine.flitError
  split
  · exact (ErrorOnly.wr (f := Reg.FAB_INJ_ARM_ARM) (by decide) ..).trans (.eccMeet ..)
  · exact .refl d

theorem ErrorOnly.sendFlit (us : List Nat) (cls addr : Nat) (d : Dev) : ErrorOnly d (Machine.sendFlit us cls addr d) := by
  unfold Machine.sendFlit Machine.flitTravels
  suffices h : ∀ x : Fate × Dev, ErrorOnly x.2 (us.foldl (fun x u =>
      let (f, d) := Machine.flitError u cls addr (Machine.chargeFlit u cls x.2)
      (if x.1 = .whole then f else x.1, d)) x).2 from h (.whole, d)
  induction us with
  | nil => exact fun x => .refl x.2
  | cons u us ih =>
    intro x
    have hmet := (ErrorOnly.chargeFlit u cls x.2).trans (.flitError u cls addr _)
    exact hmet.trans (ih (if x.1 = .whole then (Machine.flitError u cls addr (Machine.chargeFlit u cls x.2)).1 else x.1, _))

/-! ### Cut-offs (R75, R76) -/

theorem bitOf_setBit {f : Field} (hf : f.fits) {n : Nat} (hn : n < f.width) (d : Dev) : bitOf (rd f (setBit f n d)) n = true := by
  rw [setBit]
  split
  · assumption
  · next h =>
    have hlt := rd_lt f d
    have hclear : (rd f d).testBit n = false := by
      rw [Nat.testBit_eq_decide_div_mod_eq]; simpa [bitOf] using h
    have hset : (rd f d + 2 ^ n).testBit n = true := by
      rw [Nat.add_comm, Nat.testBit_two_pow_add_eq, hclear]; rfl
    have hmod : ((rd f d + 2 ^ n) % 2 ^ f.width).testBit n = true := by
      rw [Nat.testBit_mod_two_pow, hset]; simpa using hn
    rw [rd_wr_same hf, bitOf, ← Nat.testBit_eq_decide_div_mod_eq]
    exact hmod

/-- An arbiter whose grant is cut off (R75, R76). -/
def Arb.cutOff (x : Xfer) (a : Arb) : Arb :=
  { a with grants := a.grants.erase x, cut := if x.write then a.cut ++ [x.port] else a.cut }

/-- The writeback that was cut off is asked for again (R116). -/
def Arb.again (x : Xfer) (a : Arb) : Arb :=
  { a with pending := a.pending ++ [{ x with order := a.next, aged := false }], next := a.next + 1 }

/-- A cut-off closes the grant. -/
def grantCut (target : Nat) (x : Xfer) (d : Dev) : Dev :=
  let d := modArb target (Arb.cutOff x) d
  if x.line && (lineOf x d).isSome then modArb target (Arb.again x) d else d

theorem grants_grantCut (target : Nat) (x : Xfer) (d : Dev) :
    (tget {} (grantCut target x d).fab.arbs target).grants = (tget {} d.fab.arbs target).grants.erase x := by
  have h : (tget {} (modArb target (Arb.cutOff x) d).fab.arbs target).grants = (tget {} d.fab.arbs target).grants.erase x := by
    rw [getArb_modArb]; rfl
  rw [grantCut]
  split
  · rw [getArb_modArb]; exact h
  · exact h

/-- The cut-off of a port's transfer is told to it, and its port marked. -/
def cutTold (target port : Nat) (x : Xfer) (d : Dev) : Dev :=
  let d := send (.cut target port) (sendFlit (wayBack target port) 3 x.addr d)
  if port < 64 then setBit Reg.FAB_CUT_MAP0_PORTS port d else setBit Reg.FAB_CUT_MAP1_PORTS (port - 64) d

/-- FAB_CUT names the cut-off. -/
def cutNamed (target port : Nat) (d : Dev) : Dev :=
  setb Reg.FAB_STATUS_CUT (wr Reg.FAB_CUT_TARGET target (wr Reg.FAB_CUT_PORT port (bump Reg.FAB_CUT_COUNT d)))

theorem cutTold_arbs (target port : Nat) (x : Xfer) (d : Dev) : (cutTold target port x d).fab.arbs = d.fab.arbs := by
  have hsent := (ErrorOnly.sendFlit (wayBack target port) 3 x.addr d).arbs
  rw [cutTold]
  split
  · rw [setBit_fab]; exact hsent
  · rw [setBit_fab]; exact hsent

theorem cutTold_out (target port : Nat) (x : Xfer) (d : Dev) : Out.cut target port ∈ (cutTold target port x d).out := by
  have hsent (e : Dev) : Out.cut target port ∈ (send (.cut target port) e).out := List.mem_append_right _ List.mem_cons_self
  rw [cutTold]
  split
  · rw [setBit_out]; exact hsent _
  · rw [setBit_out]; exact hsent _

theorem cutTold_map {target port : Nat} (hport : port < 120) (x : Xfer) (d : Dev) :
    (if port < 64 then bitOf (rd Reg.FAB_CUT_MAP0_PORTS (cutTold target port x d)) port
      else bitOf (rd Reg.FAB_CUT_MAP1_PORTS (cutTold target port x d)) (port - 64)) = true := by
  rw [cutTold]
  split
  · next h => exact bitOf_setBit (by decide) (show port < 64 from h) _
  · exact bitOf_setBit (by decide) (show port - 64 < 64 by omega) _

theorem cutNamed_names {target port : Nat} (htarget : target < 61) (hport : port < 120) (d : Dev) :
    rd Reg.FAB_CUT_TARGET (cutNamed target port d) = target ∧ rd Reg.FAB_CUT_PORT (cutNamed target port d) = port ∧
      rd Reg.FAB_STATUS_CUT (cutNamed target port d) = 1 := by
  refine ⟨?_, ?_, rd_wr_same (by decide) ..⟩
  · rw [cutNamed, setb, rd_wr_off (by decide), rd_wr_same (by decide)]
    exact Nat.mod_eq_of_lt (htarget.trans (by decide))
  · rw [cutNamed, setb, rd_wr_off (by decide), rd_wr_apart (by decide) (by decide) (by decide), rd_wr_same (by decide)]
    exact Nat.mod_eq_of_lt (hport.trans (by decide))

theorem cutNamed_map {f : Field} (hf : f.off = Reg.FAB_CUT_MAP0_PORTS.off ∨ f.off = Reg.FAB_CUT_MAP1_PORTS.off) (target port : Nat) (d : Dev) :
    rd f (cutNamed target port d) = rd f d := by
  rw [cutNamed, setb, rd_wr_off, rd_wr_off, rd_wr_off, rd_bump_off] <;> obtain h | h := hf <;> rw [h] <;> decide

theorem cutNamed_rest (target port : Nat) (d : Dev) : RecordOnly d (cutNamed target port d) :=
  ((recordOnly_bump ..).trans (recordOnly_wr ..)).trans ((recordOnly_wr ..).trans (recordOnly_wr ..))

/-- A ledger whose credits are at their depth again and whose counters are aligned (R81). -/
def alignedLedger (depth : Nat) (l : Ledger) : Ledger :=
  { l with credits := ⟨depth % 2 ^ 8, 2 ^ 8 - 1 - depth % 2 ^ 8⟩, cr := l.s, occ := ⟨0, 255⟩, rx := l.s, ct := l.s, resync := false }

/-- The end of a resynchronisation. -/
def resynced (unit cls : Nat) (d : Dev) : Dev :=
  showResync (setLedger unit cls (alignedLedger (classDepth cls d) (getLedger unit cls d)) d)

theorem classDepth_lt (cls : Nat) (d : Dev) : classDepth cls d < 2 ^ 8 := by
  unfold classDepth
  split
  · exact rd_lt ..
  · exact (rd_lt ..).trans (by decide)
  · exact rd_lt ..
  · exact (rd_lt ..).trans (by decide)

theorem classDepth_congr (cls : Nat) {d e : Dev} (h : rdReg 0x200000 e = rdReg 0x200000 d) : classDepth cls e = classDepth cls d := by
  unfold classDepth
  split <;> exact rd_of_rdReg h

theorem ledger_resynced {unit cls : Nat} {d e : Dev} (h : EndedFrom (resynced unit cls d) e) :
    getLedger unit cls e = alignedLedger (classDepth cls d) (getLedger unit cls d) := by
  have hdepth : classDepth cls e = classDepth cls d :=
    classDepth_congr cls ((h.rdReg (by decide)).trans (rdReg_wr_off (by decide) ..))
  rw [getLedger, hdepth, h.fab, resynced, showResync, wr_fab, setLedger]
  exact tget_tset.trans (if_pos rfl)

/-- A bank reads and rewrites the words of its next line. -/
def lineScrubbed (bank word err n : Nat) (d : Dev) : Dev :=
  let a := bankAddr bank (n % 65536) d
  forEach (List.range 8) (fun i d => eccAccess (256 + bank) (a + 8 * i) (if i = word then err else 0) d) d

/-- The scrub of a bank moves on, and the passes are counted. -/
def scrubMoved (bank n : Nat) (d : Dev) : Dev :=
  let d := { d with fab.scrub := tset 0 d.fab.scrub bank (n + 1) }
  wr Reg.FAB_SCRUB_PASSES (((List.range 48).map fun b => tget 0 d.fab.scrub b / 65536).foldl min (n / 65536 + 1)) d

theorem scrub_scrubMoved (bank n : Nat) (d : Dev) : tget 0 (scrubMoved bank n d).fab.scrub bank = n + 1 := by
  rw [scrubMoved, wr_fab, tget_tset_same]

theorem forEach_fixed {f : Nat → Dev → Dev} {d : Dev} {l : List Nat} (h : ∀ n ∈ l, f n d = d) : forEach l f d = d := by
  induction l with
  | nil => rfl
  | cons n l ih => rw [forEach_cons, h n List.mem_cons_self, ih fun m hm => h m (List.mem_cons_of_mem _ hm)]

theorem lineScrubbed_clean {d : Dev} (h : d.fab.flips = []) (bank word n : Nat) : lineScrubbed bank word 0 n d = d :=
  forEach_fixed fun i _ => by rw [ite_self, eccAccess_clean h]

/-! ### What the audit of the buffers finds -/

/-- One partition of the pool is audited; one port's miss buffer is. -/
def poolAudited (poolErr : List Int) (p : Nat) (d : Dev) : Dev :=
  let units := poolUnits p d
  let found := (((units - tget 0 d.fab.poolOut p + poolHeld p d : Nat) : Int) + (poolErr[p]?).getD 0).toNat
  if found = units then d else consFails Ev.BUF_LEDGER Reg.FAB_CONS_POOL 0 units found d

def missAudited (missErr : List Int) (p : Nat) (d : Dev) : Dev :=
  let slots := missSlots p d
  let found := (((slots - missOcc p d + missOcc p d : Nat) : Int) + (missErr[p]?).getD 0).toNat
  if found = slots then d else consFails Ev.BUF_LEDGER Reg.FAB_CONS_MISS (unitOf 8 p) slots found d

/-- What an audit may change: not the allocator, the front end or another block's settings; FAB_CONS's bits are only set. -/
structure ConsOnly (d e : Dev) : Prop where
  fab : e.fab = d.fab
  front : e.front = d.front
  ports : ∀ g < 8, Machine.rd (Reg.ETH_PORTCFG_GROUP g) e = Machine.rd (Reg.ETH_PORTCFG_GROUP g) d
  pool : rd Reg.FAB_CONS_POOL d = 1 → rd Reg.FAB_CONS_POOL e = 1
  miss : rd Reg.FAB_CONS_MISS d = 1 → rd Reg.FAB_CONS_MISS e = 1

theorem ConsOnly.refl (d : Dev) : ConsOnly d d := ⟨rfl, rfl, fun _ _ => rfl, id, id⟩

theorem ConsOnly.trans {a b c : Dev} (h : ConsOnly a b) (g : ConsOnly b c) : ConsOnly a c :=
  ⟨g.fab.trans h.fab, g.front.trans h.front, fun n hn => (g.ports n hn).trans (h.ports n hn), g.pool ∘ h.pool, g.miss ∘ h.miss⟩

theorem ConsOnly.forEach {f : Nat → Dev → Dev} (h : ∀ n d, ConsOnly d (f n d)) (l : List Nat) (d : Dev) :
    ConsOnly d (Machine.forEach l f d) := by
  induction l generalizing d with
  | nil => exact .refl d
  | cons n l ih => exact (h n d).trans (ih _)

theorem rd_consFails {f : Field} (h4 : f.off / 0x100000 ≠ 4) (h5 : f.off / 0x100000 ≠ 5) (ha : f.off ∉ ambientRegs) (code : Nat) (bit : Field)
    (unit expected found : Nat) (d : Dev) : rd f (consFails code bit unit expected found d) = rd f (setb bit d) :=
  (FaultOnly.raiseC code unit expected found (setb bit d)).rd h4 h5 ha

theorem ConsOnly.consFails {bit : Field} (hbit : bit = Reg.FAB_CONS_POOL ∨ bit = Reg.FAB_CONS_MISS) (code unit expected found : Nat) (d : Dev) :
    ConsOnly d (Machine.consFails code bit unit expected found d) := by
  have hfault := FaultOnly.raiseC code unit expected found (setb bit d)
  refine ⟨hfault.fab.trans (wr_fab ..), hfault.front.trans (wr_front ..), fun g hg => ?_, fun h => ?_, fun h => ?_⟩
  · have hconf : (Reg.ETH_PORTCFG_GROUP g).off = 0x3200000 := rfl
    refine (rd_consFails (by rw [hconf]; decide) (by rw [hconf]; decide) (by rw [hconf]; decide) ..).trans (rd_wr_off ?_ ..)
    obtain rfl | rfl := hbit <;> (rw [hconf]; decide)
  · refine (rd_consFails (by decide) (by decide) (by decide) ..).trans ?_
    obtain rfl | rfl := hbit
    · exact rd_wr_same (by decide) ..
    · exact (rd_wr_apart (by decide) (by decide) (by decide) ..).trans h
  · refine (rd_consFails (by decide) (by decide) (by decide) ..).trans ?_
    obtain rfl | rfl := hbit
    · exact (rd_wr_apart (by decide) (by decide) (by decide) ..).trans h
    · exact rd_wr_same (by decide) ..

theorem ConsOnly.poolAudited (poolErr : List Int) (p : Nat) (d : Dev) : ConsOnly d (poolAudited poolErr p d) := by
  rw [Proofs.poolAudited]
  split
  · exact .refl d
  · exact .consFails (.inl rfl) ..

theorem ConsOnly.missAudited (missErr : List Int) (p : Nat) (d : Dev) : ConsOnly d (missAudited missErr p d) := by
  rw [Proofs.missAudited]
  split
  · exact .refl d
  · exact .consFails (.inr rfl) ..

theorem ConsOnly.slots {d e : Dev} (h : ConsOnly d e) {p : Nat} (hp : p < 32) : missSlots p e = missSlots p d := by
  have hlanes (q : Nat) (hq : q < 32) : portLanes q e = portLanes q d := by
    rw [portLanes, portLanes, h.ports _ (by omega)]
  have hmap : (List.range 32).map (fun q => portLanes q e) = (List.range 32).map fun q => portLanes q d :=
    List.map_congr_left fun q hq => hlanes q (List.mem_range.1 hq)
  rw [missSlots, missSlots, hmap, hlanes p hp, h.fab]

theorem ConsOnly.occ {d e : Dev} (h : ConsOnly d e) (p : Nat) : missOcc p e = missOcc p d := by
  rw [missOcc, missOcc, getPort, h.front]; rfl

theorem rd_cons_consFails {bit : Field} (hbit : bit = Reg.FAB_CONS_POOL ∨ bit = Reg.FAB_CONS_MISS) (code unit expected found : Nat) (d : Dev) :
    rd bit (consFails code bit unit expected found d) = 1 := by
  obtain rfl | rfl := hbit
  · exact (rd_consFails (by decide) (by decide) (by decide) ..).trans (rd_wr_same (by decide) ..)
  · exact (rd_consFails (by decide) (by decide) (by decide) ..).trans (rd_wr_same (by decide) ..)

section Counts

variable {p : Nat} {d : Dev}

theorem poolAudited_fails {poolErr : List Int} (herr : 0 < (poolErr[p]?).getD 0) (hout : tget 0 d.fab.poolOut p = poolHeld p d)
    (hle : poolHeld p d ≤ poolUnits p d) : rd Reg.FAB_CONS_POOL (poolAudited poolErr p d) = 1 := by
  rw [poolAudited, if_neg (by rw [hout]; omega)]
  exact rd_cons_consFails (.inl rfl) ..

theorem missAudited_fails {missErr : List Int} (herr : 0 < (missErr[p]?).getD 0) (hle : missOcc p d ≤ missSlots p d) :
    rd Reg.FAB_CONS_MISS (missAudited missErr p d) = 1 := by
  rw [missAudited, if_neg (by omega)]
  exact rd_cons_consFails (.inr rfl) ..

theorem poolAudited_passes {poolErr : List Int} (herr : (poolErr[p]?).getD 0 = 0) (hout : tget 0 d.fab.poolOut p = poolHeld p d)
    (hle : poolHeld p d ≤ poolUnits p d) : poolAudited poolErr p d = d := by
  rw [poolAudited, if_pos (by rw [hout, herr]; omega)]

theorem missAudited_passes {missErr : List Int} (herr : (missErr[p]?).getD 0 = 0) (hle : missOcc p d ≤ missSlots p d) :
    missAudited missErr p d = d := by
  rw [missAudited, if_pos (by rw [herr]; omega)]

end Counts

section Ready

variable {s : State} (hready : s.ready)

include hready

theorem grantCutOff_answers (target : Fin 61) (port : Fin 120) (x : Xfer)
    (hx : ((tget {} s.dev.fab.arbs target).grants.find? fun x => x.port == port.val) = some x) : Answers (.grantCutOff target port) s fun d =>
      (tget {} d.fab.arbs target).grants = (tget {} s.dev.fab.arbs target).grants.erase x ∧
      Out.cut target port ∈ d.out ∧ rd Reg.FAB_CUT_TARGET d = target ∧ rd Reg.FAB_CUT_PORT d = port ∧
      rd Reg.FAB_STATUS_CUT d = 1 ∧
      (if port.val < 64 then bitOf (rd Reg.FAB_CUT_MAP0_PORTS d) port
        else bitOf (rd Reg.FAB_CUT_MAP1_PORTS d) (port.val - 64)) = true := by
  have hruns : RunsTo (.grantCutOff target port) s (raiseC Ev.FAB_GRANT_HOLD (portUnit port) target port
      (cutNamed target port (cutTold target port x (grantCut target x s.dev.quiet)))) := by
    refine runsTo_of_live (execGrantCutOff target port s) rfl rfl hready ?_
    dsimp only
    rw [show ((tget {} s.dev.quiet.fab.arbs target).grants.find? fun x => x.port == port.val) = some x from hx]
    rfl
  have hcut := grants_grantCut target x s.dev.quiet
  have harbs := cutTold_arbs target port x (grantCut target x s.dev.quiet)
  have hout := cutTold_out target port x (grantCut target x s.dev.quiet)
  have hmap := cutTold_map (target := target) port.isLt x (grantCut target x s.dev.quiet)
  generalize cutTold target port x (grantCut target x s.dev.quiet) = e at hruns harbs hout hmap
  have hnames := cutNamed_names target.isLt port.isLt e
  have hmap0 := cutNamed_map (f := Reg.FAB_CUT_MAP0_PORTS) (.inl rfl) target port e
  have hmap1 := cutNamed_map (f := Reg.FAB_CUT_MAP1_PORTS) (.inr rfl) target port e
  have hrest := cutNamed_rest target port e
  refine hruns.spared fun g hg => ?_
  have hall := (Spared.of_by (spared_raiseC Ev.FAB_GRANT_HOLD (portUnit port) target port (cutNamed target port e))).trans hg
  refine ⟨?_, hall.out _ (by rw [hrest]; exact hout), (hall.rd (by decide)).trans hnames.1, (hall.rd (by decide)).trans hnames.2.1,
    (hall.rd (by decide)).trans hnames.2.2, ?_⟩
  · rw [hall.arbs, hrest]
    exact (congrArg (fun a => (tget {} a target).grants) harbs).trans hcut
  · rw [hall.rd (f := Reg.FAB_CUT_MAP0_PORTS) (by decide), hall.rd (f := Reg.FAB_CUT_MAP1_PORTS) (by decide), hmap0, hmap1]
    exact hmap

theorem lateDatDiscard_answers (target : Fin 61) (port : Fin 120) (hport : port.val ∈ (tget {} s.dev.fab.arbs target).cut)
    (hlate : rd Reg.FAB_CUT_LATE s.dev < 65535) : Answers (.lateDatDiscard target port) s fun d =>
      rd Reg.FAB_CUT_LATE d = rd Reg.FAB_CUT_LATE s.dev + 1 ∧
      (tget {} d.fab.arbs target).cut = (tget {} s.dev.fab.arbs target).cut.erase port.val := by
  have hsent := ErrorOnly.sendFlit (wayTo port target) 2 0 s.dev.quiet
  have hruns : RunsTo (.lateDatDiscard target port) s (bump Reg.FAB_CUT_LATE
      (modArb target (fun a => { a with cut := a.cut.erase port.val }) (sendFlit (wayTo port target) 2 0 s.dev.quiet))) :=
    runsTo_of_live (execLateDatDiscard target port s) rfl rfl hready (if_pos (List.contains_iff_mem.2 hport))
  generalize sendFlit (wayTo port target) 2 0 s.dev.quiet = e at hruns hsent
  have hcount : rd Reg.FAB_CUT_LATE e = rd Reg.FAB_CUT_LATE s.dev := hsent.rd (.inl rfl)
  refine hruns.spared fun g hg => ⟨?_, ?_⟩
  · have hroom : rd Reg.FAB_CUT_LATE (modArb target (fun a => { a with cut := a.cut.erase port.val }) e) + 1 < 2 ^ 16 :=
      Nat.succ_lt_succ (hcount.trans_lt hlate)
    rw [hg.rd (by decide), rd_bump_same (by decide) hroom]
    exact congrArg (· + 1) hcount
  · rw [hg.arbs, recordOnly_bump Reg.FAB_CUT_LATE, getArb_modArb, hsent.arbs]; rfl

theorem cutNoticeReceive_answers (e : Fin 64) (addr : Nat) : Answers (.cutNoticeReceive e addr) s fun d =>
    (tget {} d.engines e).cutAddr = some addr := by
  refine (runsTo_of_live (execCutNoticeReceive e addr s) rfl rfl hready rfl).answers hready.2 fun d hd => ?_
  rw [hd.engines]
  dsimp only
  rw [tget_tmod, if_pos rfl]

theorem fabInjArm_answers : Answers .fabInjArm s fun d => rd Reg.FAB_INJ_ARM_ARM d = 1 := by
  refine (runsTo_of_live (execFabInjArm s) rfl rfl hready rfl).answers (by rw [setb, wr_todo]; exact hready.2) fun d hd => ?_
  rw [hd.rd (by decide)]
  exact rd_wr_same (by decide) ..

/-! ### The scrub (R93) -/

theorem poolScrubLine_answers (bank : Fin 48) (word : Fin 8) (err : BitVec 76) (hen : rd Reg.FAB_CTRL_SCRUB_EN s.dev = 1) :
    Answers (.poolScrubLine bank word err) s fun d =>
      tget 0 d.fab.scrub bank = tget 0 s.dev.fab.scrub bank + 1 ∧ (err = 0 → s.dev.fab.flips = [] → MemKept s.dev d) := by
  have hruns : RunsTo (.poolScrubLine bank word err) s
      (scrubMoved bank (tget 0 s.dev.fab.scrub bank) (lineScrubbed bank word err.toNat (tget 0 s.dev.fab.scrub bank) s.dev.quiet)) :=
    runsTo_of_live (execPoolScrubLine bank word err s) rfl rfl hready
      (if_pos (show rdb Reg.FAB_CTRL_SCRUB_EN s.dev.quiet = true from congrArg (· != 0) hen))
  generalize tget 0 s.dev.fab.scrub bank = n at hruns ⊢
  by_cases hclean : err = 0 ∧ s.dev.fab.flips = []
  · obtain ⟨rfl, hflips⟩ := hclean
    rw [show (0 : BitVec 76).toNat = 0 from rfl, lineScrubbed_clean (d := s.dev.quiet) hflips] at hruns
    refine hruns.answers (by rw [scrubMoved, wr_todo]; exact hready.2) fun d hd => ⟨?_, fun _ _ => memKept_of_eq ?_⟩
    · rw [hd.fab, scrub_scrubMoved]
    · rw [hd.mem, scrubMoved, wr_mem]; rfl
  · refine hruns.spared fun g hg => ⟨?_, fun herr hflips => absurd ⟨herr, hflips⟩ hclean⟩
    rw [hg.scrub, scrub_scrubMoved]

/-! ### Credits after a resynchronisation (R81) -/

theorem creditResyncDone_answers (unit : Nat) (cls : Fin 4) (hresync : (getLedger unit cls s.dev).resync = true)
    (hinj : s.dev.flt.inj = none) : Answers (.creditResyncDone unit cls 0 0) s fun d =>
      (getLedger unit cls d).resync = false ∧ (getLedger unit cls d).credits.val = classDepth cls s.dev ∧
      (getLedger unit cls d).s = (getLedger unit cls s.dev).s ∧ (getLedger unit cls d).cr = (getLedger unit cls s.dev).s ∧
      (getLedger unit cls d).rx = (getLedger unit cls s.dev).s ∧ (getLedger unit cls d).ct = (getLedger unit cls s.dev).s ∧
      (getLedger unit cls d).occ.val = 0 := by
  have hpaired (v : Nat) : mkPaired 8 3 v s.dev.quiet = (⟨v % 2 ^ 8, 2 ^ 8 - 1 - v % 2 ^ 8⟩, s.dev.quiet) := by
    rw [mkPaired, show s.dev.quiet.flt.inj = none from hinj]
  have hruns : RunsTo (.creditResyncDone unit cls 0 0) s (resynced unit cls s.dev.quiet) := by
    refine runsTo_of_live (execCreditResyncDone unit cls 0 0 s) rfl rfl hready ?_
    dsimp only
    rw [if_pos (by rw [show (getLedger unit cls s.dev.quiet).resync = true from hresync]; rfl), hpaired]
    rfl
  refine hruns.answers (by rw [resynced, showResync, wr_todo]; exact hready.2) fun d hd => ?_
  rw [ledger_resynced hd]
  exact ⟨rfl, Nat.mod_eq_of_lt (classDepth_lt cls s.dev), rfl, rfl, rfl, rfl, rfl⟩

/-! ### The audit of the buffers (R43, R85, R86) -/

theorem bufferLedgerAudit_answers (poolErr missErr : List Int) (htempo : tempoNow s.dev % 64 = 0)
    (hpool : ∀ p < 7, tget 0 s.dev.fab.poolOut p = poolHeld p s.dev ∧ poolHeld p s.dev ≤ poolUnits p s.dev)
    (hmiss : ∀ p < 32, missOcc p s.dev ≤ missSlots p s.dev) : Answers (.bufferLedgerAudit poolErr missErr) s fun d =>
      ((∃ p : Nat, p < 7 ∧ 0 < (poolErr[p]?).getD 0) → rd Reg.FAB_CONS_POOL d = 1) ∧
      ((∃ p : Nat, p < 32 ∧ 0 < (missErr[p]?).getD 0) → rd Reg.FAB_CONS_MISS d = 1) ∧
      ((∀ p : Nat, (poolErr[p]?).getD 0 = 0) → (∀ p : Nat, (missErr[p]?).getD 0 = 0) →
        rd Reg.FAB_CONS_POOL d = rd Reg.FAB_CONS_POOL s.dev ∧ rd Reg.FAB_CONS_MISS d = rd Reg.FAB_CONS_MISS s.dev) := by
  have hruns : RunsTo (.bufferLedgerAudit poolErr missErr) s
      (forEach (List.range 32) (missAudited missErr) (forEach (List.range 7) (poolAudited poolErr) s.dev.quiet)) :=
    runsTo_of_live (execBufferLedgerAudit poolErr missErr s) rfl rfl hready (if_pos htempo)
  have hpools : ConsOnly s.dev.quiet (forEach (List.range 7) (poolAudited poolErr) s.dev.quiet) := .forEach (.poolAudited _) ..
  refine hruns.spared fun g hg => ⟨?_, ?_, fun hp hm => ?_⟩
  · rintro ⟨p, hp, herr⟩
    refine (hg.rd (by decide)).trans ((ConsOnly.forEach (.missAudited missErr) _ _).pool ?_)
    refine forEach_reaches (I := ConsOnly s.dev.quiet) (P := fun d => rd Reg.FAB_CONS_POOL d = 1) (fun m d h => h.trans (.poolAudited ..))
      (fun d h => ?_) (fun m d h => (ConsOnly.poolAudited ..).pool h) (List.mem_range.2 hp) _ (.refl _)
    obtain ⟨hout, hle⟩ := hpool p hp
    exact poolAudited_fails herr (by rw [poolHeld, h.fab]; exact hout) (by rw [poolHeld, poolUnits, h.fab]; exact hle)
  · rintro ⟨p, hp, herr⟩
    refine (hg.rd (by decide)).trans ?_
    refine forEach_reaches (I := ConsOnly s.dev.quiet) (P := fun d => rd Reg.FAB_CONS_MISS d = 1) (fun m d h => h.trans (.missAudited ..))
      (fun d h => ?_) (fun m d h => (ConsOnly.missAudited ..).miss h) (List.mem_range.2 hp) _ hpools
    exact missAudited_fails herr (by rw [h.occ, h.slots hp]; exact hmiss p hp)
  · have hpooled : forEach (List.range 7) (poolAudited poolErr) s.dev.quiet = s.dev.quiet := forEach_fixed fun p hmem =>
      have hcount := hpool p (List.mem_range.1 hmem)
      poolAudited_passes (hp p) hcount.1 hcount.2
    have hquiet : forEach (List.range 32) (missAudited missErr) s.dev.quiet = s.dev.quiet :=
      forEach_fixed fun p hmem => missAudited_passes (hm p) (hmiss p (List.mem_range.1 hmem))
    rw [hpooled, hquiet] at hg
    exact ⟨hg.rd (by decide), hg.rd (by decide)⟩

end Ready

/-- Settles O14: each command's own effect is followed up to the Check that it may raise, and no reaction to a Check touches the arbiters,
the scrub or the fabric's registers. -/
theorem cutOffsScrubAndLedgers : Obligations.CutOffsScrubAndLedgers := by
  unfold Obligations.CutOffsScrubAndLedgers
  intro s hready _
  exact ⟨grantCutOff_answers hready, lateDatDiscard_answers hready, cutNoticeReceive_answers hready, poolScrubLine_answers hready,
    fabInjArm_answers hready, bufferLedgerAudit_answers hready, creditResyncDone_answers hready⟩

end Sys2Proof.Proofs

/-!
PROOFS. O20: range operations, way locking and the drain of a cluster's L2.
-/

namespace Sys2Proof.Proofs

open Sys2Proof Sys2Proof.Machine

/-! ### Errors met on a fill leave the L2s (R91, R92, R645) -/

theorem ErrorOnly.takeDdrInj (ch : Nat) (d : Dev) : ErrorOnly d (Machine.takeDdrInj ch d).2 := by
  unfold Machine.takeDdrInj
  split
  · split
    · have hspent : ErrorOnly d { d with flt.inj := none } := ⟨rfl, rfl, rfl, rfl, fun _ _ => rfl⟩
      exact hspent.trans (.wr (f := Reg.FLT_INJ_ARM) (by decide) 0 _)
    · exact .refl d
  · exact .refl d

theorem ErrorOnly.ddrBurst (ch sub addr words err : Nat) (d : Dev) : ErrorOnly d (Machine.ddrBurst ch sub addr words err d) := by
  have hreg : ¬ ApartReg (0x3800200 + 0x8 * ch) := by
    simp only [ApartReg, Reg.FAB_CUT_LATE, Reg.FAB_CUT_MAP0_PORTS, Reg.FAB_CUT_MAP1_PORTS]; omega
  have htaken := ErrorOnly.takeDdrInj ch d
  unfold Machine.ddrBurst
  generalize Machine.takeDdrInj ch d = x at htaken ⊢
  obtain ⟨inj, e⟩ := x
  refine htaken.trans ?_
  dsimp only
  split
  · exact .refl e
  · next k more _ =>
    have hlast := (ErrorOnly.wr (f := Reg.DDR_ECC_LAST_SUB ch) hreg sub e).trans (.wr (f := Reg.DDR_ECC_LAST_SYM ch) hreg k _)
    split
    · exact hlast.trans ((ErrorOnly.bump (f := Reg.DDR_ECC_CE ch) hreg _).trans
        ((ErrorOnly.wr (f := Reg.DDR_STATUS_CE_N) (by decide) ..).trans (.of_fault (.notice ..))))
    · have hraised (x : Dev) : ErrorOnly x
          (Machine.raiseC Ev.DDR_UE (unitOf 0xB ch) addr k (setb Reg.DDR_STATUS_UE_CHK (Machine.bump (Reg.DDR_ECC_UE ch) x))) :=
        (ErrorOnly.bump (f := Reg.DDR_ECC_UE ch) hreg x).trans
          ((ErrorOnly.wr (f := Reg.DDR_STATUS_UE_CHK) (by decide) 1 _).trans (.of_fault (.raiseC ..)))
      refine .trans (hlast.trans ?_) (hraised _)
      exact .forEach (f := fun i d => setPoison (addr / 8 * 8 + 8 * i) true d) (fun _ _ => ⟨rfl, rfl, rfl, rfl, fun _ _ => rfl⟩) (List.range words) _

theorem ErrorOnly.eccAt (a err : Nat) (d : Dev) : ErrorOnly d (Machine.eccAt a err d) := by
  unfold Machine.eccAt
  split
  · exact .eccAccess ..
  · split
    · exact .ddrBurst ..
    · exact .refl d

theorem ErrorOnly.eccRange (a n : Nat) (d : Dev) : ErrorOnly d (Machine.eccRange a n d) := by
  rw [Machine.eccRange]
  exact .forEach (fun _ _ => .eccAccess ..) _ _

/-! ### The lines of an L2 -/

theorem getLine_setLine (cl set way set' way' : Nat) (l : L2Line) (d : Dev) : getLine cl set' way' (setLine cl set way l d) =
    if set' * 16 + way' = set * 16 + way then l else getLine cl set' way' d := by
  rw [getLine, getL2, setLine, modL2, tget_tmod, if_pos rfl]
  exact tget_tset

theorem getLine_congr {d e : Dev} (h : e.l2s = d.l2s) (cl set way : Nat) : getLine cl set way e = getLine cl set way d := by
  rw [getLine, getL2, h]; rfl

theorem l2Find_congr {cl a : Nat} {d e : Dev} (h : ∀ w < 16, (getLine cl (l2Set a) w e).valid = (getLine cl (l2Set a) w d).valid ∧
    (getLine cl (l2Set a) w e).tag = (getLine cl (l2Set a) w d).tag) : l2Find cl a e = l2Find cl a d := by
  rw [l2Find, l2Find]
  refine List.find?_congr fun w hw => ?_
  obtain ⟨hvalid, htag⟩ := h w (List.mem_range.1 hw)
  dsimp only
  rw [hvalid, htag]

theorem l2Find_some {cl a w : Nat} {d : Dev} (h : l2Find cl a d = some w) :
    w < 16 ∧ (getLine cl (l2Set a) w d).valid = true ∧ (getLine cl (l2Set a) w d).tag = l2Tag a := by
  have hmatch := List.find?_some h
  rw [Bool.and_eq_true, beq_iff_eq] at hmatch
  exact ⟨List.mem_range.1 (List.mem_of_find?_eq_some h), hmatch.1, hmatch.2⟩

theorem l2Find_none {cl a : Nat} {d : Dev} (h : ∀ w < 16, (getLine cl (l2Set a) w d).valid = true → (getLine cl (l2Set a) w d).tag ≠ l2Tag a) :
    l2Find cl a d = none := by
  refine List.find?_eq_none.2 fun w hw => ?_
  rw [Bool.and_eq_true, beq_iff_eq]
  exact fun hmatch => h w (List.mem_range.1 hw) hmatch.1 hmatch.2

/-! ### A line written back -/

theorem writeBack_other {cl set way : Nat} {d : Dev} (h : ((getLine cl set way d).valid && (getLine cl set way d).dirty) = false) :
    writeBack cl set way d = d := by
  rw [writeBack]
  exact if_neg (by rw [h]; decide)

theorem l2s_markWords (l : List Nat) (a : Nat) (d : Dev) : (forEach l (fun i d => setPoison (a + 8 * i) true d) d).l2s = d.l2s :=
  forEach_keeps (fun d : Dev => d.l2s) (fun i d => setPoison (a + 8 * i) true d) (fun _ _ => rfl) l d

theorem regs_markWords (l : List Nat) (a : Nat) (d : Dev) : (forEach l (fun i d => setPoison (a + 8 * i) true d) d).regs = d.regs :=
  forEach_keeps (fun d : Dev => d.regs) (fun i d => setPoison (a + 8 * i) true d) (fun _ _ => rfl) l d

theorem getLine_writeBack {cl set way : Nat} {d : Dev} (hvalid : (getLine cl set way d).valid = true) (set' way' : Nat) :
    getLine cl set' way' (writeBack cl set way d) =
      if set' * 16 + way' = set * 16 + way then { getLine cl set way d with dirty := false } else getLine cl set' way' d := by
  by_cases hdirty : (getLine cl set way d).dirty = true
  · rw [writeBack]
    dsimp only
    rw [if_pos (by rw [hvalid, hdirty]; rfl), getLine_setLine]
    refine if_congr Iff.rfl rfl (getLine_congr ?_ ..)
    rw [l2s_markWords, storeMem_rest]
  · rw [writeBack_other (by rw [hvalid, Bool.eq_false_of_not_eq_true hdirty]; rfl)]
    split
    · next hkey =>
      rw [getLine, hkey]
      show getLine cl set way d = _
      generalize getLine cl set way d = l at hdirty
      obtain ⟨⟩ := l
      simp only [Bool.not_eq_true] at hdirty
      rw [hdirty]
    · rfl

theorem rd_writeBack {f : Field} (hf : SparedReg f.off) (cl set way : Nat) (d : Dev) : rd f (writeBack cl set way d) = rd f d := by
  rw [writeBack]
  dsimp only
  split
  · exact (rd_of_regs (regs_markWords ..) f).trans ((Spared.of_by (spared_storeMem _ _ d)).rd hf)
  · rfl

/-- The first way that holds an address has a clean line. -/
def CleanAt (cl a : Nat) (d : Dev) : Prop := ∀ w, l2Find cl a d = some w → (getLine cl (l2Set a) w d).dirty = false

theorem l2Find_writeBack {cl set way : Nat} {d : Dev} (hvalid : (getLine cl set way d).valid = true) (a : Nat) :
    l2Find cl a (writeBack cl set way d) = l2Find cl a d := by
  refine l2Find_congr fun w _ => ?_
  rw [getLine_writeBack hvalid]
  split
  · next hkey =>
    have hsame : getLine cl (l2Set a) w d = getLine cl set way d := by rw [getLine, hkey]; rfl
    rw [hsame]
    exact ⟨rfl, rfl⟩
  · exact ⟨rfl, rfl⟩

theorem l2Find_of_l2s {d e : Dev} (h : e.l2s = d.l2s) (cl a : Nat) : l2Find cl a e = l2Find cl a d :=
  l2Find_congr fun v _ => by rw [getLine_congr h]; exact ⟨rfl, rfl⟩

/-- WRITEBACK of one line of the range. -/
def lineWrittenBack (cl a : Nat) (d : Dev) : Dev :=
  match l2Find cl a d with
  | some w => writeBack cl (l2Set a) w d
  | none => d

theorem cleanAt_lineWrittenBack {cl a b : Nat} {d : Dev} (h : a = b ∨ CleanAt cl a d) : CleanAt cl a (lineWrittenBack cl b d) := by
  rw [lineWrittenBack]
  split
  next w hfind =>
    have hvalid := (l2Find_some hfind).2.1
    intro v hv
    rw [l2Find_writeBack hvalid] at hv
    rw [getLine_writeBack hvalid]
    split
    · rfl
    · next hkey =>
      refine h.elim (fun hab => ?_) fun hclean => hclean v hv
      subst hab
      exact absurd (by rw [Option.some.inj (hv.symm.trans hfind)]) hkey
  next hfind =>
    intro v hv
    refine h.elim (fun hab => ?_) fun hclean => hclean v hv
    subst hab
    exact absurd (hv.symm.trans hfind) (by simp)

theorem cleanAt_foldl {cl a : Nat} {l : List Nat} {d : Dev} (h : a ∈ l ∨ CleanAt cl a d) :
    CleanAt cl a (l.foldl (fun d b => lineWrittenBack cl b d) d) := by
  induction l generalizing d with
  | nil => exact h.resolve_left List.not_mem_nil
  | cons b l ih =>
    refine ih ?_
    rcases h with h | h
    · rcases List.mem_cons.1 h with h | h
      · exact .inr (cleanAt_lineWrittenBack (.inl h))
      · exact .inl h
    · exact .inr (cleanAt_lineWrittenBack (.inr h))

theorem cleanAt_congr {cl a : Nat} {d e : Dev} (h : e.l2s = d.l2s) (hclean : CleanAt cl a d) : CleanAt cl a e := by
  intro w hw
  rw [getLine_congr h]
  exact hclean w ((l2Find_of_l2s h cl a).symm.trans hw)

/-! ### A line invalidated, and one filled -/

theorem dropL1_l2s (cl a : Nat) (d : Dev) : (dropL1 cl a d).l2s = d.l2s :=
  forEach_keeps (fun d : Dev => d.l2s) (fun k d => { d with engines := tmod {} d.engines (8 * cl + k) fun g =>
    { g with l1i := tset [] g.l1i (a / 64 * 64) [] } }) (fun _ _ => rfl) _ d

theorem dropL1_regs (cl a : Nat) (d : Dev) : (dropL1 cl a d).regs = d.regs :=
  forEach_keeps (fun d : Dev => d.regs) (fun k d => { d with engines := tmod {} d.engines (8 * cl + k) fun g =>
    { g with l1i := tset [] g.l1i (a / 64 * 64) [] } }) (fun _ _ => rfl) _ d

/-- A line that was held is invalid, and every other line stands. -/
theorem getLine_invalidateLine {cl set way : Nat} {d : Dev} (hvalid : (getLine cl set way d).valid = true) (set' way' : Nat) :
    getLine cl set' way' (invalidateLine cl set way d) = if set' * 16 + way' = set * 16 + way then {} else getLine cl set' way' d := by
  have hdropped : (invalidateLine cl set way d).l2s = (setLine cl set way {} (writeBack cl set way d)).l2s := by
    rw [invalidateLine]
    dsimp only
    rw [if_pos hvalid]
    split
    · rw [recordOnly_bump (Reg.CL_L2_CNT_LOCKED_INVAL cl), dropL1_l2s]
    · rw [dropL1_l2s]
  rw [getLine_congr hdropped, getLine_setLine, getLine_writeBack hvalid]
  split <;> rfl

theorem invalidateLine_absent {cl set way : Nat} {d : Dev} (hvalid : (getLine cl set way d).valid = false) :
    invalidateLine cl set way d = d := by
  rw [invalidateLine]
  exact if_neg (by rw [hvalid]; decide)

theorem rd_invalidateLine {f : Field} {cl : Nat} (hf : SparedReg f.off) (hcount : f.off ≠ (Reg.CL_L2_CNT_LOCKED_INVAL cl).off) (set way : Nat)
    (d : Dev) : rd f (invalidateLine cl set way d) = rd f d := by
  have hdropped (a : Nat) (e : Dev) : rd f (dropL1 cl a e) = rd f e := rd_of_regs (dropL1_regs ..) f
  have hset (e : Dev) : rd f (setLine cl set way {} e) = rd f e := rfl
  rw [invalidateLine]
  dsimp only
  split
  · split
    · rw [rd_bump_off hcount, hdropped, hset, rd_writeBack hf]
    · rw [hdropped, hset, rd_writeBack hf]
  · rfl

/-- A way filled holds the address's tag, and every other line of its set stands. -/
theorem fillWay_lines {cl way a err : Nat} {d : Dev} :
    (getLine cl (l2Set a) way (fillWay cl way a err d)).valid = true ∧ (getLine cl (l2Set a) way (fillWay cl way a err d)).tag = l2Tag a ∧
    ∀ w, w ≠ way → getLine cl (l2Set a) w (fillWay cl way a err d) = getLine cl (l2Set a) w (invalidateLine cl (l2Set a) way d) := by
  have hmet := ((ErrorOnly.eccRange (a / 8 * 8 + 8) (a / 64 * 64 + 56 - a / 8 * 8) (invalidateLine cl (l2Set a) way d)).trans
    (.eccRange (a / 64 * 64) (a / 8 * 8 - a / 64 * 64) _)).trans (.eccAt a err _)
  rw [fillWay]
  generalize eccAt a err (eccRange (a / 64 * 64) (a / 8 * 8 - a / 64 * 64)
    (eccRange (a / 8 * 8 + 8) (a / 64 * 64 + 56 - a / 8 * 8) (invalidateLine cl (l2Set a) way d))) = e at hmet ⊢
  have hclock (x : Dev) (w : Nat) (c : Nat) : getLine cl (l2Set a) w (modL2 cl (fun x => { x with clock := c }) x) = getLine cl (l2Set a) w x := by
    rw [getLine, getL2, modL2, tget_tmod, if_pos rfl]; rfl
  have htouched (x : Dev) (w : Nat) : getLine cl (l2Set a) w (touchLine cl (l2Set a) way x) = if w = way then
      { getLine cl (l2Set a) way x with lru := (getL2 cl x).clock + 1 } else getLine cl (l2Set a) w x := by
    rw [touchLine]
    rw [getLine_setLine, hclock]
    exact if_congr (by omega) rfl rfl
  refine ⟨?_, ?_, fun w hw => ?_⟩
  · rw [htouched, if_pos rfl, getLine_setLine, if_pos rfl]
  · rw [htouched, if_pos rfl, getLine_setLine, if_pos rfl]
  · rw [htouched, if_neg hw, getLine_setLine, if_neg (by omega)]
    exact getLine_congr hmet.l2s ..

theorem rd_fillWay {f : Field} {cl : Nat} (hf : 0x1000000 ≤ f.off ∧ f.off < 0x1800000 ∧ f.off % 0x100000 < 0x48)
    (hcount : f.off ≠ (Reg.CL_L2_CNT_LOCKED_INVAL cl).off) (way a err : Nat) (d : Dev) : rd f (fillWay cl way a err d) = rd f d := by
  have hmet := ((ErrorOnly.eccRange (a / 8 * 8 + 8) (a / 64 * 64 + 56 - a / 8 * 8) (invalidateLine cl (l2Set a) way d)).trans
    (.eccRange (a / 64 * 64) (a / 8 * 8 - a / 64 * 64) _)).trans (.eccAt a err _)
  have hline (set : Nat) (l : L2Line) (e : Dev) : rd f (touchLine cl set way (setLine cl set way l e)) = rd f e := rfl
  rw [fillWay]
  rw [hline, hmet.rd (.inr (.inr (.inr hf))), rd_invalidateLine (.inr (.inr (.inl hf))) hcount]

theorem l2Find_unique {cl a w : Nat} {d : Dev} (hw : w < 16) (hvalid : (getLine cl (l2Set a) w d).valid = true)
    (htag : (getLine cl (l2Set a) w d).tag = l2Tag a)
    (honly : ∀ v < 16, v ≠ w → (getLine cl (l2Set a) v d).valid = true → (getLine cl (l2Set a) v d).tag ≠ l2Tag a) : l2Find cl a d = some w := by
  have hsome : l2Find cl a d ≠ none := by
    refine fun hnone => List.find?_eq_none.1 hnone w (List.mem_range.2 hw) ?_
    rw [Bool.and_eq_true, beq_iff_eq]
    exact ⟨hvalid, htag⟩
  obtain ⟨v, hv⟩ := Option.ne_none_iff_exists'.1 hsome
  obtain ⟨hlt, hval, ht⟩ := l2Find_some hv
  rw [hv]
  by_contra hne
  exact honly v hlt (fun h => hne (by rw [h])) hval ht

/-- PRELOAD of a line that no way holds fills it into the way named. -/
theorem l2Find_fillWay {cl way a err : Nat} {d : Dev} (hway : way < 16) (hnone : l2Find cl a d = none) :
    l2Find cl a (fillWay cl way a err d) = some way := by
  obtain ⟨hvalid, htag, hrest⟩ := fillWay_lines (cl := cl) (way := way) (a := a) (err := err) (d := d)
  refine l2Find_unique hway hvalid htag fun v hv hne hval => ?_
  rw [hrest v hne] at hval ⊢
  have habsent (hvd : (getLine cl (l2Set a) v d).valid = true) : (getLine cl (l2Set a) v d).tag ≠ l2Tag a := fun ht => by
    refine List.find?_eq_none.1 hnone v (List.mem_range.2 hv) ?_
    rw [Bool.and_eq_true, beq_iff_eq]
    exact ⟨hvd, ht⟩
  by_cases hold : (getLine cl (l2Set a) way d).valid = true
  · rw [getLine_invalidateLine hold, if_neg (by omega)] at hval ⊢
    exact habsent hval
  · rw [invalidateLine_absent (Bool.eq_false_of_not_eq_true hold)] at hval ⊢
    exact habsent hval

/-- INVALIDATE of a line that one way holds leaves it absent. -/
theorem l2Find_invalidateLine {cl a w : Nat} {d : Dev} (hfind : l2Find cl a d = some w)
    (honly : ∀ v, v < 16 → (getLine cl (l2Set a) v d).valid = true → (getLine cl (l2Set a) v d).tag = l2Tag a → v = w) :
    l2Find cl a (invalidateLine cl (l2Set a) w d) = none := by
  refine l2Find_none fun v hv hval htag => ?_
  have hheld := (l2Find_some hfind).2.1
  rw [getLine_invalidateLine hheld] at hval htag
  by_cases hkey : l2Set a * 16 + v = l2Set a * 16 + w
  · rw [if_pos hkey] at hval
    exact absurd hval (by decide)
  · rw [if_neg hkey] at hval htag
    exact hkey (by rw [honly v hv hval htag])

/-! ### Range operations -/

/-- A range operation taken: OP and GO. -/
def rangeTaken (cl op : Nat) (d : Dev) : Dev := setb (Reg.CL_RANGE_OP_GO cl) (wr (Reg.CL_RANGE_OP_OP cl) op d)

theorem rd_rangeTaken {f : Field} {cl : Nat} (hf : f.off ≠ 0x1000028 + 0x100000 * cl) (op : Nat) (d : Dev) :
    rd f (rangeTaken cl op d) = rd f d := (rd_wr_off hf ..).trans (rd_wr_off hf ..)

theorem apart_of_bits {f g : Field} (h : f.msb < g.lsb ∨ g.msb < f.lsb) : f.apart g := apart_iff.2 (.inr h)

theorem clReg_ne {cl a b : Nat} (h : a ≠ b) : a + 0x100000 * cl ≠ b + 0x100000 * cl := by omega

theorem rangeTaken_base (cl op : Nat) (d : Dev) : rd (Reg.CL_RANGE_BASE_BASE cl) (rangeTaken cl op d) = rd (Reg.CL_RANGE_BASE_BASE cl) d :=
  rd_rangeTaken (clReg_ne (by decide)) op d

theorem rangeTaken_len (cl op : Nat) (d : Dev) : rd (Reg.CL_RANGE_LEN_LEN cl) (rangeTaken cl op d) = rd (Reg.CL_RANGE_LEN_LEN cl) d :=
  rd_rangeTaken (clReg_ne (by decide)) op d

theorem startRange_started {cl op : Nat} {f : Nat → Dev → Dev} {d : Dev} (hbusy : rd (Reg.CL_STATUS_RANGE_BUSY cl) d = 0)
    (hok : rangeOk cl op d = true) (hstate : l2State cl d = 0) : startRange cl op true f d =
      setb (Reg.CL_STATUS_RANGE_BUSY cl) ((rangeLines cl d).foldl (fun d a => f a d) (rangeTaken cl op d)) := by
  have hok' : rangeOk cl op (rangeTaken cl op d) = true := by
    rw [rangeOk, rangeTaken_base, rangeTaken_len]; exact hok
  have hlines : rangeLines cl (rangeTaken cl op d) = rangeLines cl d := by
    rw [rangeLines, rangeTaken_base, rangeTaken_len]; rfl
  have hstate' : l2State cl (rangeTaken cl op d) = 0 := (rd_rangeTaken (clReg_ne (by decide)) op d).trans hstate
  rw [startRange, if_neg (by rw [rdb, hbusy]; decide)]
  dsimp only
  rw [← rangeTaken, if_neg (by rw [hok', hstate']; decide), hlines]

/-- The lines of a draining L2 go back, with the errors that their words meet (R136, R139). -/
def linesDrained (cl : Nat) (errs : List (Nat × BitVec 76)) (d : Dev) : Dev :=
  let d := errs.foldl (fun d p => match l2Find cl p.1 d with
    | some w => lineError cl w p.1 p.2.toNat d
    | none => d) d
  (getL2 cl d).lines.foldl (fun d p => dropL1 cl (l2Addr (p.1 / 16) p.2.tag) (writeBack cl (p.1 / 16) (p.1 % 16) d)) d

/-- An L2 whose drain has ended (R136). -/
def drained (cl : Nat) (d : Dev) : Dev :=
  wr (Reg.CL_STATUS_L2_STATE cl) 2 (setb (Reg.CL_STATUS_DRAIN_DONE cl) (modL2 cl (fun c => { c with lines := [], reenable := false }) d))

section Ready

variable {s : State} (hready : s.ready) (cl : Fin 8)

theorem clusterReg {o : Nat} (h : o < 0x48) : 0x1000000 ≤ 0x1000000 + o + 0x100000 * cl.val ∧
    0x1000000 + o + 0x100000 * cl.val < 0x1800000 ∧ (0x1000000 + o + 0x100000 * cl.val) % 0x100000 < 0x48 := by omega

theorem sparedReg_cluster {o : Nat} (h : o < 0x48) : SparedReg (0x1000000 + o + 0x100000 * cl) := by omega

include hready

section Idle

variable (hbusy : rd (Reg.CL_STATUS_RANGE_BUSY cl) s.dev = 0) (hstate : l2State cl s.dev = 0)

include hbusy hstate

theorem rangeWriteback_answers (hok : rangeOk cl 0 s.dev = true) : Answers (.rangeWriteback cl) s fun d =>
    rd (Reg.CL_STATUS_RANGE_BUSY cl) d = 1 ∧
    ∀ a ∈ rangeLines cl s.dev, ∀ w, l2Find cl a d = some w → (getLine cl (l2Set a) w d).dirty = false := by
  have hruns : RunsTo (.rangeWriteback cl) s (setb (Reg.CL_STATUS_RANGE_BUSY cl)
      ((rangeLines cl s.dev).foldl (fun d a => lineWrittenBack cl a d) (rangeTaken cl 0 s.dev.quiet))) :=
    runsTo_of_live (execRangeWriteback cl s) rfl rfl hready
      (startRange_started (d := s.dev.quiet) (f := lineWrittenBack cl) hbusy hok hstate)
  refine hruns.spared fun g hg => ⟨?_, fun a ha => cleanAt_congr (hg.l2s.trans (wr_l2s ..)) (cleanAt_foldl (.inl ha))⟩
  rw [hg.rd (sparedReg_cluster cl (o := 8) (by decide))]
  exact rd_wr_same rfl ..

theorem rangeInvalidate_answers (a w : Nat) (hok : rangeOk cl 1 s.dev = true) (hlines : rangeLines cl s.dev = [a])
    (hfind : l2Find cl a s.dev = some w)
    (honly : ∀ v, v < 16 → (getLine cl (l2Set a) v s.dev).valid = true → (getLine cl (l2Set a) v s.dev).tag = l2Tag a → v = w) :
    Answers (.rangeInvalidate cl) s fun d => rd (Reg.CL_STATUS_RANGE_BUSY cl) d = 1 ∧ l2Find cl a d = none := by
  have hruns : RunsTo (.rangeInvalidate cl) s (setb (Reg.CL_STATUS_RANGE_BUSY cl)
      (invalidateLine cl (l2Set a) w (rangeTaken cl 1 s.dev.quiet))) := by
    refine runsTo_of_live (execRangeInvalidate cl s) rfl rfl hready ((startRange_started (d := s.dev.quiet) hbusy hok hstate).trans ?_)
    rw [show rangeLines cl s.dev.quiet = [a] from hlines, List.foldl_cons, List.foldl_nil]
    rw [show l2Find cl a (rangeTaken cl 1 s.dev.quiet) = some w from hfind]
  refine hruns.spared fun g hg => ⟨?_, ?_⟩
  · rw [hg.rd (sparedReg_cluster cl (o := 8) (by decide))]
    exact rd_wr_same rfl ..
  · exact (l2Find_of_l2s (hg.l2s.trans (wr_l2s ..)) cl a).trans (l2Find_invalidateLine (d := rangeTaken cl 1 s.dev.quiet) hfind honly)

theorem rangePreload_answers (a : Nat) (way : Fin 16) (hok : rangeOk cl 2 s.dev = true) (hlines : rangeLines cl s.dev = [a])
    (hlocked : wayLocked cl way s.dev = true) (hnone : l2Find cl a s.dev = none) : Answers (.rangePreload cl way) s fun d =>
      rd (Reg.CL_STATUS_RANGE_BUSY cl) d = 1 ∧ rd (Reg.CL_RANGE_OP_WAY cl) d = way ∧ l2Find cl a d = some way.val := by
  have hclear {f : Field} (hf : f.off ≠ 0x1000028 + 0x100000 * cl) :
      rd f (wr (Reg.CL_RANGE_OP_WAY cl) way s.dev.quiet) = rd f s.dev := rd_wr_off hf ..
  have hrange : rd (Reg.CL_RANGE_BASE_BASE cl) (wr (Reg.CL_RANGE_OP_WAY cl) way s.dev.quiet) = rd (Reg.CL_RANGE_BASE_BASE cl) s.dev ∧
      rd (Reg.CL_RANGE_LEN_LEN cl) (wr (Reg.CL_RANGE_OP_WAY cl) way s.dev.quiet) = rd (Reg.CL_RANGE_LEN_LEN cl) s.dev :=
    ⟨hclear (clReg_ne (by decide)), hclear (clReg_ne (by decide))⟩
  have hruns : RunsTo (.rangePreload cl way) s (setb (Reg.CL_STATUS_RANGE_BUSY cl)
      (fillWay cl way a 0 (rangeTaken cl 2 (wr (Reg.CL_RANGE_OP_WAY cl) way s.dev.quiet)))) := by
    refine runsTo_of_live (execRangePreload cl way s) rfl rfl hready ?_
    dsimp only
    rw [if_neg (by rw [rdb, show rd (Reg.CL_STATUS_RANGE_BUSY cl) s.dev.quiet = 0 from hbusy]; decide), wayLocked,
      hclear (clReg_ne (by decide)), show bitOf (rd (Reg.CL_L2_LOCK_MASK cl) s.dev) way = true from hlocked]
    refine (startRange_started ((hclear (clReg_ne (by decide))).trans hbusy) ?_ ((hclear (clReg_ne (by decide))).trans hstate)).trans ?_
    · rw [rangeOk, hrange.1, hrange.2]; exact hok
    · have hsame : rangeLines cl (wr (Reg.CL_RANGE_OP_WAY cl) way s.dev.quiet) = [a] := by
        rw [rangeLines, hrange.1, hrange.2]; exact hlines
      have habsent : l2Find cl a (rangeTaken cl 2 (wr (Reg.CL_RANGE_OP_WAY cl) way s.dev.quiet)) = none := hnone
      rw [hsame, List.foldl_cons, List.foldl_nil, habsent]
  have hway : rd (Reg.CL_RANGE_OP_WAY cl) (rangeTaken cl 2 (wr (Reg.CL_RANGE_OP_WAY cl) way s.dev.quiet)) = way := by
    rw [rangeTaken, setb, rd_wr_apart rfl rfl (apart_of_bits (.inl (show 0 < 8 by decide))), rd_wr_apart rfl rfl (apart_of_bits (.inl (show 2 < 8 by decide))), rd_wr_same rfl]
    exact Nat.mod_eq_of_lt (way.isLt.trans_le (show 16 ≤ 2 ^ 4 by decide))
  refine hruns.spared fun g hg => ⟨?_, ?_, ?_⟩
  · rw [hg.rd (sparedReg_cluster cl (o := 8) (by decide))]
    exact rd_wr_same rfl ..
  · rw [hg.rd (sparedReg_cluster cl (o := 0x28) (by decide)), setb, rd_wr_off (clReg_ne (by decide)),
      rd_fillWay (clusterReg cl (o := 0x28) (by decide)) (clReg_ne (by decide)), hway]
  · rw [l2Find_of_l2s (hg.l2s.trans (wr_l2s ..)) cl a]
    exact l2Find_fillWay way.isLt hnone

end Idle

theorem rangeOpDone_answers (hbusy : rd (Reg.CL_STATUS_RANGE_BUSY cl) s.dev = 1) (hwaits : (getL2 cl s.dev).drainWaits = false) :
    Answers (.rangeOpDone cl) s fun d =>
      rd (Reg.CL_STATUS_RANGE_BUSY cl) d = 0 ∧ rd (Reg.CL_STATUS_RANGE_DONE cl) d = 1 ∧
      rd (Reg.CL_RANGE_OP_RESULT cl) d = 1 ∧ rd (Reg.CL_RANGE_OP_GO cl) d = 0 := by
  have hruns : RunsTo (.rangeOpDone cl) s (setb (Reg.CL_STATUS_RANGE_DONE cl) (wr (Reg.CL_RANGE_OP_RESULT cl) 1
      (clr (Reg.CL_RANGE_OP_GO cl) (clr (Reg.CL_STATUS_RANGE_BUSY cl) s.dev.quiet)))) := by
    refine runsTo_of_live (execRangeOpDone cl s) rfl rfl hready
      ((if_pos (show rdb (Reg.CL_STATUS_RANGE_BUSY cl) s.dev.quiet = true from congrArg (· != 0) hbusy)).trans (if_neg ?_))
    rw [getL2, setb, wr_l2s, wr_l2s, clr, wr_l2s, clr, wr_l2s]
    exact Bool.eq_false_iff.1 hwaits
  refine hruns.spared fun g hg => ?_
  have hstatus {f : Field} (hf : f.off = 0x1000008 + 0x100000 * cl) := hg.rd (hf ▸ sparedReg_cluster cl (o := 8) (by decide))
  have hop {f : Field} (hf : f.off = 0x1000028 + 0x100000 * cl) := hg.rd (hf ▸ sparedReg_cluster cl (o := 0x28) (by decide))
  refine ⟨(hstatus rfl).trans ?_, (hstatus rfl).trans (rd_wr_same rfl ..), (hop rfl).trans ?_, (hop rfl).trans ?_⟩
  · rw [setb, rd_wr_apart rfl rfl (apart_of_bits (.inr (show 4 < 5 by decide))), rd_wr_off (clReg_ne (by decide)), clr, rd_wr_off (clReg_ne (by decide)), clr,
      rd_wr_same rfl]
    rfl
  · rw [setb, rd_wr_off (clReg_ne (by decide)), rd_wr_same rfl]
    rfl
  · rw [setb, rd_wr_off (clReg_ne (by decide)), rd_wr_apart rfl rfl (apart_of_bits (.inr (show 0 < 14 by decide))), clr, rd_wr_same rfl]
    rfl

theorem l2LockWrite_answers (mask : BitVec 16) : Answers (.l2LockWrite cl mask) s fun d =>
    rd (Reg.CL_L2_LOCK_MASK cl) d = if popCount 16 mask.toNat ≤ 12 then mask.toNat else rd (Reg.CL_L2_LOCK_MASK cl) s.dev := by
  refine (runsTo_of_live (execL2LockWrite cl mask s) rfl rfl hready rfl).spared fun g hg => ?_
  rw [hg.rd (sparedReg_cluster cl (o := 0x10) (by decide))]
  split
  · rw [rd_wr_same rfl]
    exact Nat.mod_eq_of_lt mask.isLt
  · rfl

/-! ### The drain (R136, R138) -/

theorem l2DrainStart_answers (hstate : l2State cl s.dev = 0) (hbusy : rd (Reg.CL_STATUS_RANGE_BUSY cl) s.dev = 0) :
    Answers (.l2DrainStart cl) s fun d => l2State cl d = 1 ∧ rd (Reg.CL_CTRL_L2_EN cl) d = 0 := by
  have hruns : RunsTo (.l2DrainStart cl) s (beginDrain cl (clr (Reg.CL_CTRL_L2_EN cl) s.dev.quiet)) := by
    have hstatus {f : Field} (hf : f.off = 0x1000008 + 0x100000 * cl) : rd f (clr (Reg.CL_CTRL_L2_EN cl) s.dev.quiet) = rd f s.dev :=
      rd_wr_off (by rw [hf]; exact clReg_ne (by decide)) ..
    exact runsTo_of_live (execL2DrainStart cl s) rfl rfl hready ((if_pos ((hstatus rfl).trans hstate)).trans
      (if_neg (by rw [rdb, hstatus rfl, hbusy]; decide)))
  refine hruns.spared fun g hg => ⟨?_, ?_⟩
  · exact (hg.rd (sparedReg_cluster cl (o := 8) (by decide))).trans (rd_wr_same rfl ..)
  · rw [hg.rd (sparedReg_cluster cl (o := 0) (by decide)), beginDrain, rd_wr_off (clReg_ne (by decide))]
    exact rd_wr_same rfl ..

theorem l2DrainDone_answers (errs : List (Nat × BitVec 76)) (hstate : l2State cl s.dev = 1) (hagain : (getL2 cl s.dev).reenable = false) :
    Answers (.l2DrainDone cl errs) s fun d =>
      l2State cl d = 2 ∧ rd (Reg.CL_STATUS_DRAIN_DONE cl) d = 1 ∧ (getL2 cl d).lines = [] := by
  have hruns : RunsTo (.l2DrainDone cl errs) s (drained cl (linesDrained cl errs s.dev.quiet)) := by
    refine runsTo_of_live (execL2DrainDone cl errs s) rfl rfl hready ((if_pos hstate).trans ?_)
    dsimp only
    rw [show (getL2 cl s.dev.quiet).reenable = false from hagain, if_neg Bool.false_ne_true]
    rfl
  have hstatus {f : Field} (hf : f.off = 0x1000008 + 0x100000 * cl) : SparedReg f.off := hf ▸ sparedReg_cluster cl (o := 8) (by decide)
  refine hruns.spared fun g hg => ⟨(hg.rd (hstatus rfl)).trans (rd_wr_same rfl ..), (hg.rd (hstatus rfl)).trans ?_, ?_⟩
  · rw [drained, rd_wr_apart rfl rfl (apart_of_bits (.inl (show 1 < 3 by decide)))]
    exact rd_wr_same rfl ..
  · rw [getL2, hg.l2s, drained, wr_l2s, setb, wr_l2s, modL2, tget_tmod, if_pos rfl]

theorem l2Enable_answers (hstate : l2State cl s.dev = 2) : Answers (.l2Enable cl) s fun d =>
    l2State cl d = 0 ∧ rd (Reg.CL_CTRL_L2_EN cl) d = 1 ∧ (getL2 cl d).lines = [] := by
  have hruns : RunsTo (.l2Enable cl) s (wr (Reg.CL_STATUS_L2_STATE cl) 0
      (modL2 cl (fun c => { c with lines := [] }) (setb (Reg.CL_CTRL_L2_EN cl) s.dev.quiet))) := by
    have hstatus : l2State cl (setb (Reg.CL_CTRL_L2_EN cl) s.dev.quiet) = 2 := (rd_wr_off (clReg_ne (by decide)) ..).trans hstate
    refine runsTo_of_live (execL2Enable cl s) rfl rfl hready ?_
    dsimp only
    rw [hstatus]
    rfl
  refine hruns.spared fun g hg => ⟨?_, ?_, ?_⟩
  · exact (hg.rd (sparedReg_cluster cl (o := 8) (by decide))).trans (rd_wr_same rfl ..)
  · rw [hg.rd (sparedReg_cluster cl (o := 0) (by decide)), rd_wr_off (clReg_ne (by decide))]
    exact rd_wr_same rfl ..
  · rw [getL2, hg.l2s, wr_l2s, modL2, tget_tmod, if_pos rfl]

end Ready

/-- Settles O20: what a line's writeback, invalidation and fill leave of its set gives the range operations; the registers of a cluster's L2
and its lines stand whatever Check a fill or a drain raises. -/
theorem clusterCacheOperations : Obligations.ClusterCacheOperations := by
  unfold Obligations.ClusterCacheOperations
  intro s cl hready
  exact ⟨fun hbusy hstate => ⟨rangeWriteback_answers hready cl hbusy hstate, rangeInvalidate_answers hready cl hbusy hstate,
      rangePreload_answers hready cl hbusy hstate⟩,
    rangeOpDone_answers hready cl, l2LockWrite_answers hready cl, l2DrainStart_answers hready cl, l2DrainDone_answers hready cl,
    l2Enable_answers hready cl⟩

end Sys2Proof.Proofs

/-!
PROOFS. O19: how a mismatch of the King pair is resolved.
-/

namespace Sys2Proof.Proofs

open Sys2Proof Sys2Proof.Machine

/-! ### A Checkmate (R580) -/

theorem recordOnly_endFreeze (d : Dev) : RecordOnly d (endFreeze d) := by
  have hfold (l : List ScoreRecord) : ∀ e : Dev, RecordOnly e (l.foldl (fun e r => writeRecord r e) e) := by
    induction l with
    | nil => exact fun _ => rfl
    | cons r l ih => exact fun e => (recordOnly_writeRecord r e).trans (ih _)
  have hheld : RecordOnly d { d with scr.holdq := [] } := rfl
  exact (hheld.trans (hfold d.scr.holdq _)).trans ((recordOnly_wr ..).trans ((recordOnly_wr ..).trans (recordOnly_wr ..)))

/-- A Checkmate as it is declared: the safe states of the pins, and the state it was raised in. -/
def checkmateDeclared (d : Dev) : Dev :=
  setb Reg.FLT_STATUS_CHECKMATE { d with
    flt.checkmateIn := some (glbState d)
    pins.fatalN := false
    pins.pwrcycReqN := false
    pins.gpioDrive := rd Reg.FLT_SAFE_GPIO_DRIVE d
    pins.gpioValue := rd Reg.FLT_SAFE_GPIO_VALUE d
    tmp.ppsOut := false
    king.halted := true }

theorem checkmate_recordOnly (code unit a b : Nat) (d : Dev) : ∃ e o, RecordOnly (checkmateDeclared d) e ∧
    checkmate code unit a b d = sendAll o e := by
  refine ⟨_, _, ?_, rfl⟩
  refine RecordOnly.trans ?_ (recordOnly_recordEvent ..)
  exact recordOnly_ite _ (recordOnly_endFreeze _) rfl

theorem checkmate_states (code unit a b : Nat) (d : Dev) :
    (checkmate code unit a b d).flt.checkmateIn = some (glbState d) ∧ (checkmate code unit a b d).pins.fatalN = false := by
  obtain ⟨e, o, he, hsent⟩ := checkmate_recordOnly code unit a b d
  rw [hsent, sendAll, he, checkmateDeclared, setb, wr_flt, wr_pins]
  exact ⟨rfl, rfl⟩

/-! ### A Double check owes its quarantine and its castling test (R578) -/

theorem todo_pickFree (l : List Nat) (d : Dev) : (pickFree l d).2.todo = d.todo := by
  unfold pickFree
  split <;> rfl

theorem openDchk_recordOnly (j code unit : Nat) (escalated : Bool) (d : Dev) : RecordOnly d (openDchk j code unit escalated d) :=
  (recordOnly_wr ..).trans ((recordOnly_wr ..).trans ((recordOnly_wr ..).trans ((recordOnly_wr ..).trans ((recordOnly_wr ..).trans
    ((recordOnly_wr ..).trans (recordOnly_wr ..))))))

theorem todo_raiseD (code unit a b : Nat) (escalated : Bool) (d : Dev) :
    (raiseD code unit a b escalated d).todo = d.todo ++ [.quarantine unit, .castleTest code unit] := by
  have hrecorded {e : Dev} (h : e.todo = d.todo) :
      (recordEvent .dcheck code unit a b escalated e).todo ++ [.quarantine unit, .castleTest code unit] =
        d.todo ++ [.quarantine unit, .castleTest code unit] := by
    rw [recordOnly_recordEvent .dcheck code unit a b escalated e, h]
  have hcount : (bump Reg.FLT_CNT_DCHECKS d).todo = d.todo := (recordOnly_bump ..).todo
  refine hrecorded ?_
  split
  next => rw [bumpSat, wr_todo, hcount]
  next =>
    split
    next x hpick =>
      rw [setb, wr_todo]
      exact (congrArg (fun p => p.2.todo) hpick).symm.trans ((todo_pickFree ..).trans hcount)
    next j x hpick =>
      have hpicked : x.todo = d.todo := (congrArg (fun p => p.2.todo) hpick).symm.trans ((todo_pickFree ..).trans hcount)
      exact (openDchk_recordOnly j code unit escalated x).todo.trans hpicked

/-- A King unit is taken out of service, and the pair's split castles no head where POL_KING is 0 (Table 20.3, R510). -/
theorem drain_kingSplit {x : Dev} {u : Nat} (hu : u < 2) (htodo : x.todo = [.quarantine (unitOf 2 u), .castleTest Ev.KING_SPLIT (unitOf 2 u)])
    (hpol : rd Reg.CAS_CTRL_POL_KING x = 0) : drain 4096 x =
      { x with king.units := tmod {} x.king.units u fun k => { k with quar := true }, todo := [] } := by
  have hunit : unitOf 2 u / 256 = 2 ∧ unitOf 2 u % 256 = u := by simp only [unitOf]; omega
  have hquar (d : Dev) : react (.quarantine (unitOf 2 u)) d = { d with king.units := tmod {} d.king.units u fun k => { k with quar := true } } := by
    simp [react, reductionLost, quarantine, hunit]
  have hcastle (y : Dev) (hy : y.regs = x.regs) : react (.castleTest Ev.KING_SPLIT (unitOf 2 u)) y = y := by
    have hking : rd Reg.CAS_CTRL_POL_KING y = 0 := (rd_of_regs hy _).trans hpol
    simp [react, castleTest, rdb, hking, Ev.KING_SPLIT, Ev.CIP_NO_LANE, Ev.DIG_NO_LANE, Ev.CMP_NO_LANE, Ev.ERS_NO_LANE, Ev.TT_LOST, Ev.FAB_FAIL,
      Ev.FT_MD_LOST, Ev.PAIR_WRONG, Ev.CAS_LOST_RACE]
  rw [show 4096 = 4093 + 1 + 1 + 1 from rfl, drain, htodo]
  dsimp only
  rw [hquar, drain]
  dsimp only
  rw [hcastle]
  · rw [drain]
  · rfl

/-! ### One unit survives (R122) -/

/-- The pair after unit 0 has been found the survivor. -/
structure Survived (how : Nat) (d e : Dev) : Prop where
  held : e.king.held = false
  active : rd Reg.GLB_KING_ACTIVE e = 0
  split : rd Reg.GLB_KING_SPLIT e = 1
  resolve : rd Reg.GLB_KING_RESOLVE e = how
  policy : rd Reg.CAS_CTRL_POL_KING e = rd Reg.CAS_CTRL_POL_KING d
  todo : e.todo = d.todo

/-- GLB_KING shows the split and unit 0 active. -/
def splitShown (how gap : Nat) (d : Dev) : Dev :=
  wr Reg.GLB_KING_ACTIVE 0 (setb Reg.GLB_KING_SPLIT (wr Reg.GLB_KING_RESOLVE how (wr Reg.GLB_KING_LAST_GAP (min gap 65535) (bump Reg.GLB_KING_GAPS d))))

theorem splitShown_recordOnly (how gap : Nat) (d : Dev) : RecordOnly d (splitShown how gap d) :=
  (recordOnly_bump ..).trans ((recordOnly_wr ..).trans ((recordOnly_wr ..).trans ((recordOnly_wr ..).trans (recordOnly_wr ..))))

theorem splitShown_regs {how : Nat} (hhow : how < 4) (gap : Nat) (d : Dev) : rd Reg.GLB_KING_ACTIVE (splitShown how gap d) = 0 ∧
    rd Reg.GLB_KING_SPLIT (splitShown how gap d) = 1 ∧ rd Reg.GLB_KING_RESOLVE (splitShown how gap d) = how ∧
    rd Reg.CAS_CTRL_POL_KING (splitShown how gap d) = rd Reg.CAS_CTRL_POL_KING d := by
  refine ⟨rd_wr_same rfl .., ?_, ?_, ?_⟩
  · rw [splitShown, rd_wr_apart rfl rfl rfl, setb, rd_wr_same rfl]; rfl
  · rw [splitShown, rd_wr_apart rfl rfl rfl, setb, rd_wr_apart rfl rfl rfl, rd_wr_same rfl]
    exact Nat.mod_eq_of_lt hhow
  · rw [splitShown, rd_wr_off (by decide), setb, rd_wr_off (by decide), rd_wr_off (by decide), rd_wr_off (by decide), rd_bump_off (by decide)]

/-- What unit 0's survival writes before the Double check against unit 1. -/
def resumed (how gap : Nat) (d : Dev) : Dev := splitShown how gap (endKingHold (restoreCore 0 0 d))

theorem kingSplit_eq (how gap : Nat) (d : Dev) :
    kingSplit 0 how gap 0 d = raiseD Ev.KING_SPLIT (unitOf 2 1) 0 0 false (releaseOutput 0 (resumed how gap d)) := rfl

/-- A unit that runs on from a saved state. -/
def restoredUnit (c : Core) (k : KingUnit) : KingUnit := { k with core := c, saved := none, flagged := false, l1i := [] }

theorem restoreCore_clean (u : Nat) (d : Dev) : ∃ c, restoreCore u 0 d = { d with king.units := tmod {} d.king.units u (restoredUnit c) } := by
  refine ⟨(tget {} d.king.units u).saved.getD (tget {} d.king.units u).core, ?_⟩
  rw [restoreCore, eccMeet, show classifyEcc 0 = .clean from by decide]
  rfl

/-- A unit without an output held releases none. -/
theorem releaseOutput_none {u : Nat} {d : Dev} (h : (tget {} d.king.units u).output = none) : (releaseOutput u d).regs = d.regs ∧
    (releaseOutput u d).king.held = d.king.held ∧ (releaseOutput u d).todo = d.todo := by
  rw [releaseOutput, h]
  exact ⟨rfl, rfl, rfl⟩

/-- The end of the hold as it leaves the pair and the registers. -/
theorem endKingHold_states (d : Dev) : (endKingHold d).king = { d.king with held := false, landed := [] } ∧ (endKingHold d).regs = d.regs ∧
    (endKingHold d).todo = d.todo := by
  rw [endKingHold]
  dsimp only
  split <;> exact ⟨rfl, rfl, rfl⟩

theorem survived_releaseOutput {how : Nat} (hhow : how < 4) (gap : Nat) {d : Dev} (hout : (tget {} d.king.units 0).output = none) :
    Survived how d (releaseOutput 0 (resumed how gap d)) := by
  obtain ⟨c, hrestored⟩ := restoreCore_clean 0 d
  obtain ⟨hking, hregs, htodo⟩ := endKingHold_states (restoreCore 0 0 d)
  obtain ⟨hactive, hsplit, hresolve, hpolicy⟩ := splitShown_regs hhow gap (endKingHold (restoreCore 0 0 d))
  have hkept := splitShown_recordOnly how gap (endKingHold (restoreCore 0 0 d))
  rw [resumed]
  generalize splitShown how gap (endKingHold (restoreCore 0 0 d)) = x at *
  generalize endKingHold (restoreCore 0 0 d) = y at *
  have hking' : x.king = { (restoreCore 0 0 d).king with held := false, landed := [] } := by rw [hkept]; exact hking
  have hnone : (tget {} x.king.units 0).output = none := by
    rw [hking', hrestored]
    dsimp only
    rw [tget_tmod, if_pos rfl]
    exact hout
  obtain ⟨hregs', hheld, htodo'⟩ := releaseOutput_none hnone
  have hsame (f : Field) : rd f (releaseOutput 0 x) = rd f x := rd_of_regs hregs' f
  exact ⟨hheld.trans (by rw [hking']), (hsame _).trans hactive, (hsame _).trans hsplit, (hsame _).trans hresolve,
    (hsame _).trans (hpolicy.trans (rd_of_regs (hregs.trans (by rw [hrestored])) _)), htodo'.trans (hkept.todo.trans (htodo.trans (by rw [hrestored])))⟩

/-- The pair as a mismatch holds it: each unit's state saved. -/
def pairSaved (d : Dev) : Dev :=
  let save (u : KingUnit) : KingUnit := { u with saved := some u.core }
  { d with king.held := true, king.ppsOut := d.tmp.ppsOut, king.units := tmod {} (tmod {} d.king.units 0 save) 1 save }

section Ready

variable {s : State} (hready : s.ready) (hpol : rd Reg.CAS_CTRL_POL_KING s.dev = 0) (gap : Nat)

/-- The unit that survives alone is unit 0: its split is raised against unit 1, which leaves service. -/
theorem kingSplit_answers {c : Instr} {how : Nat} {d : Dev} (hhow : how < 4) (hruns : RunsTo c s (kingSplit 0 how gap 0 d))
    (hout : (tget {} d.king.units 0).output = none) (hpol : rd Reg.CAS_CTRL_POL_KING d = 0) (htodo : d.todo = []) : Answers c s fun d =>
      d.king.held = false ∧ rd Reg.GLB_KING_ACTIVE d = 0 ∧ rd Reg.GLB_KING_SPLIT d = 1 ∧ rd Reg.GLB_KING_RESOLVE d = how ∧
      (tget {} d.king.units 1).quar = true := by
  have hsurvived := survived_releaseOutput hhow gap hout
  rw [kingSplit_eq] at hruns
  generalize releaseOutput 0 (resumed how gap d) = x at hsurvived hruns
  have hfault := FaultOnly.raiseD Ev.KING_SPLIT (unitOf 2 1) 0 0 false x
  have htodo' := todo_raiseD Ev.KING_SPLIT (unitOf 2 1) 0 0 false x
  rw [hsurvived.todo, htodo, List.nil_append] at htodo'
  generalize raiseD Ev.KING_SPLIT (unitOf 2 1) 0 0 false x = y at hruns hfault htodo'
  have hreg {f : Field} (hf : f.off = 0x100) : rd f y = rd f x := by
    refine hfault.rd ?_ ?_ ?_ <;> rw [hf] <;> decide
  have hpol' : rd Reg.CAS_CTRL_POL_KING y = 0 := (hfault.rd (by decide) (by decide) (by decide)).trans (hsurvived.policy.trans hpol)
  refine hruns.drained (drain_kingSplit (by decide) htodo' hpol') rfl fun g hg => ?_
  have hend {f : Field} (hf : f.off = 0x100) : rd f g = rd f x := by
    refine (hg.rd ?_).trans (hreg hf)
    rw [hf]; decide
  refine ⟨?_, (hend rfl).trans hsurvived.active, (hend rfl).trans hsurvived.split, (hend rfl).trans hsurvived.resolve, ?_⟩
  · rw [hg.king, hfault.rest]
    exact hsurvived.held
  · rw [hg.king, tget_tmod, if_pos rfl]

include hready hpol

theorem kingMismatch_flagged_answers (hout : (tget {} s.dev.king.units 0).output = none) (hheld : s.dev.king.held = false)
    (hsplit : rd Reg.GLB_KING_SPLIT s.dev = 0) (hflag : (tget {} s.dev.king.units 0).flagged = false) :
    Answers (.kingMismatch false true gap 0) s fun d =>
      d.king.held = false ∧ rd Reg.GLB_KING_ACTIVE d = 0 ∧ rd Reg.GLB_KING_SPLIT d = 1 ∧ rd Reg.GLB_KING_RESOLVE d = 1 ∧
      (tget {} d.king.units 1).quar = true := by
  have hruns : RunsTo (.kingMismatch false true gap 0) s (kingSplit 0 1 gap 0 (pairSaved s.dev.quiet)) := by
    refine runsTo_of_live (execKingMismatch false true gap 0 s) rfl rfl hready ((if_neg ?_).trans ?_)
    · rw [rdb, show rd Reg.GLB_KING_SPLIT s.dev.quiet = 0 from hsplit, show s.dev.quiet.king.held = false from hheld]; decide
    · dsimp only
      rw [show (tget {} s.dev.quiet.king.units 0).flagged = false from hflag]
      rfl
  refine kingSplit_answers gap (by decide) hruns ?_ hpol hready.2
  rw [pairSaved]
  dsimp only
  rw [tget_tmod, if_neg (by decide), tget_tmod, if_pos rfl]
  exact hout

omit hpol in
theorem kingMismatch_unflagged_answers (hheld : s.dev.king.held = false) (hsplit : rd Reg.GLB_KING_SPLIT s.dev = 0)
    (hflag0 : (tget {} s.dev.king.units 0).flagged = false) (hflag1 : (tget {} s.dev.king.units 1).flagged = false) :
    Answers (.kingMismatch false false gap 0) s fun d =>
      d.king.held = true ∧ (tget {} d.king.units 0).saved = some (tget {} s.dev.king.units 0).core := by
  have hruns : RunsTo (.kingMismatch false false gap 0) s (pairSaved s.dev.quiet) := by
    refine runsTo_of_live (execKingMismatch false false gap 0 s) rfl rfl hready ((if_neg ?_).trans ?_)
    · rw [rdb, show rd Reg.GLB_KING_SPLIT s.dev.quiet = 0 from hsplit, show s.dev.quiet.king.held = false from hheld]; decide
    · dsimp only
      rw [show (tget {} s.dev.quiet.king.units 0).flagged = false from hflag0, show (tget {} s.dev.quiet.king.units 1).flagged = false from hflag1]
      rfl
  refine hruns.answers hready.2 fun g hg => ?_
  rw [hg.king, pairSaved]
  dsimp only
  rw [tget_tmod, if_neg (by decide), tget_tmod, if_pos rfl]
  exact ⟨rfl, rfl⟩

theorem kingSelfTestDone_one_answers (hout : (tget {} s.dev.king.units 0).output = none) (hheld : s.dev.king.held = true) :
    Answers (.kingSelfTestDone true false gap 0) s fun d =>
      d.king.held = false ∧ rd Reg.GLB_KING_ACTIVE d = 0 ∧ rd Reg.GLB_KING_SPLIT d = 1 ∧ rd Reg.GLB_KING_RESOLVE d = 2 ∧
      (tget {} d.king.units 1).quar = true :=
  kingSplit_answers gap (by decide) (runsTo_of_live (execKingSelfTestDone true false gap 0 s) rfl rfl hready (if_pos hheld)) hout hpol
    hready.2

omit hpol in
theorem kingSelfTestDone_both_answers (hheld : s.dev.king.held = true) (b : Bool) : Answers (.kingSelfTestDone b b gap 0) s fun d =>
    d.flt.checkmateIn = some (glbState s.dev) ∧ d.pins.fatalN = false := by
  have hruns : RunsTo (.kingSelfTestDone b b gap 0) s (checkmate Ev.KING_CHECKMATE 0 0 0 s.dev.quiet) := by
    refine runsTo_of_live (execKingSelfTestDone b b gap 0 s) rfl rfl hready ((if_pos hheld).trans ?_)
    cases b <;> rfl
  obtain ⟨hcheckmate, hpin⟩ := checkmate_states Ev.KING_CHECKMATE 0 0 0 s.dev.quiet
  have htodo := congrArg Prod.snd (memTodo_checkmate Ev.KING_CHECKMATE 0 0 0 s.dev.quiet)
  generalize checkmate Ev.KING_CHECKMATE 0 0 0 s.dev.quiet = x at hruns hcheckmate hpin htodo
  exact hruns.answers (htodo.trans hready.2) fun g hg => ⟨by rw [hg.flt]; exact hcheckmate, by rw [hg.pins]; exact hpin⟩

end Ready

/-- Settles O19: a unit that survives alone is resumed, and the only reactions owed are the other's quarantine and a castling test that
the policy leaves without effect; a Checkmate owes none. -/
theorem kingPairResolvesMismatches : Obligations.KingPairResolvesMismatches := by
  unfold Obligations.KingPairResolvesMismatches
  intro s gap hready _ hpol hout
  exact ⟨fun hheld hsplit hflag0 hflag1 => ⟨kingMismatch_unflagged_answers hready gap hheld hsplit hflag0 hflag1,
      kingMismatch_flagged_answers hready hpol gap hout hheld hsplit hflag0⟩,
    fun hheld => ⟨kingSelfTestDone_one_answers hready hpol gap hout hheld, kingSelfTestDone_both_answers hready gap hheld⟩⟩

end Sys2Proof.Proofs

/-!
PROOFS. O18: what an engine executes, loads and stores, and the slices it takes.
-/

namespace Sys2Proof.Proofs

open Sys2Proof Sys2Proof.Machine

/-! ### Protection looks only at the registers of protection (R97) -/

/-- Bringing mip to a level leaves the protection as it is. -/
theorem csr_setCsr_ne (c : Core) {n m : Nat} (h : m ≠ n) (v : Nat) : (c.setCsr n v).csr m = c.csr m := by
  rw [Core.csr, Core.csr, Core.setCsr]
  dsimp only
  rw [tget_tset_ne h]

theorem pmpRange_setCsr (c : Core) {n : Nat} (h : n < 0x3A0) (v i : Nat) : pmpRange (c.setCsr n v) i = pmpRange c i := by
  have hcsr (m : Nat) (hm : 0x3A0 ≤ m) : (c.setCsr n v).csr m = c.csr m := csr_setCsr_ne c (by omega) v
  have hcfg : (c.setCsr n v).csr (if i < 8 then 0x3A0 else 0x3A2) = c.csr (if i < 8 then 0x3A0 else 0x3A2) := hcsr _ (by split <;> omega)
  rw [pmpRange, pmpRange]
  dsimp only
  rw [hcfg, hcsr (0x3B0 + i) (by omega), hcsr (0x3B0 + i - 1) (by omega)]

theorem pmpAllows_setCsr (c : Core) {n : Nat} (h : n < 0x3A0) (v : Nat) (user : Bool) (kind a len : Nat) :
    pmpAllows (c.setCsr n v) user kind a len = pmpAllows c user kind a len := by
  have hcfg (i : Nat) : (c.setCsr n v).csr (if i < 8 then 0x3A0 else 0x3A2) = c.csr (if i < 8 then 0x3A0 else 0x3A2) :=
    csr_setCsr_ne c (by split <;> omega) v
  have hrange : pmpRange (c.setCsr n v) = pmpRange c := funext (pmpRange_setCsr c h v)
  rw [pmpAllows, pmpAllows, hrange]
  simp only [hcfg]

/-! ### A fetch from the instruction L1 (R97) -/

theorem fetchHalf_hit {e a : Nat} {d : Dev} {l : Bytes} {cut : Bool} (hpmp : pmpAllows (getCore e d) (getCore e d).user 2 a 2 = true)
    (hfetch : fetchable a 2 = true) (hline : tget [] (getL1i e d) (a / 64 * 64) = l) (hheld : l ≠ []) :
    fetchHalf e a 0 cut d = (.value (leNat ((l.drop (a % 64)).take 2)), d) := by
  rw [fetchHalf]
  dsimp only
  rw [hpmp, hfetch, hline, if_neg (by decide), if_neg (by decide)]
  cases l with
  | nil => exact absurd rfl hheld
  | cons b l => rfl

/-- The two halves of an instruction that stands whole in a line. -/
theorem halves_of_word {l : Bytes} {k w : Nat} (hw : w < 2 ^ 32) (h : (l.drop k).take 4 = leBytes 4 w) :
    leNat ((l.drop k).take 2) = w % 65536 ∧ leNat ((l.drop (k + 2)).take 2) = w / 65536 := by
  have hlow : (l.drop k).take 2 = leBytes 2 (w % 65536) := by
    have h2 := congrArg (List.take 2) h
    rw [List.take_take] at h2
    rw [show min 2 4 = 2 from rfl] at h2
    rw [h2]
    simp only [leBytes, List.take]
    congr 1
    · exact BitVec.eq_of_toNat_eq (by simp)
    · congr 1
      exact BitVec.eq_of_toNat_eq (by simp; omega)
  have hhigh : (l.drop (k + 2)).take 2 = leBytes 2 (w / 65536) := by
    have h2 := congrArg (List.drop 2) h
    rw [List.drop_take, List.drop_drop] at h2
    rw [show 4 - 2 = 2 from rfl] at h2
    rw [h2]
    simp only [leBytes, List.drop, Nat.div_div_eq_div_mul]
  exact ⟨by rw [hlow, Laws.leNat_leBytes _ _ (by omega)], by rw [hhigh, Laws.leNat_leBytes _ _ (by omega)]⟩

/-! ### One instruction -/

/-- A 32-bit instruction that stands in the L1 and asks nothing of memory leaves the core as it says. -/
theorem coreStep_next {e cyc w : Nat} {full : Bool} {other : Option (Nat × BitVec 64)} {c : Core} {d : Dev} {l : Bytes}
    (hlow : (getCore e d).pc % 64 ≤ 60) (hfetch : fetchable (getCore e d).pc 4 = true) (huser : (getCore e d).user = false)
    (hpmp : pmpAllows (getCore e d) false 2 (getCore e d).pc 2 = true)
    (hpmp' : pmpAllows (getCore e d) false 2 ((getCore e d).pc + 2) 2 = true) (hw : w < 2 ^ 32) (h4 : w % 4 = 3) (h32 : w % 32 ≠ 31)
    (hline : tget [] (getL1i e d) ((getCore e d).pc / 64 * 64) = l) (hword : (l.drop ((getCore e d).pc % 64)).take 4 = leBytes 4 w)
    (hexec : ∀ fresh, rvExec e fresh (getCore e d) 4 w w = .next c) :
    coreStep e cyc 0 full false other d = setCore e c (drawNat (2 ^ 64) d).2 := by
  have hheld : l ≠ [] := by
    rintro rfl
    rw [List.drop_nil, List.take_nil] at hword
    exact absurd (congrArg List.length hword) (by rw [Laws.leBytes_length]; decide)
  obtain ⟨hlo, hhi⟩ := halves_of_word hw hword
  generalize hpc : (getCore e d).pc = pc at *
  have hmem : fetchable pc 2 = true ∧ fetchable (pc + 2) 2 = true := by
    simp only [fetchable, inMem, Bool.or_eq_true, Bool.and_eq_true, decide_eq_true_eq] at hfetch ⊢
    omega
  have hfirst : fetchHalf e pc 0 false d = (.value (w % 65536), d) := by
    rw [fetchHalf_hit (huser ▸ hpmp) hmem.1 hline hheld, hlo]
  have hsecond : fetchHalf e (pc + 2) 0 false (drawNat (2 ^ 64) d).2 = (.value (w / 65536), (drawNat (2 ^ 64) d).2) := by
    have hsame : (pc + 2) / 64 * 64 = pc / 64 * 64 ∧ (pc + 2) % 64 = pc % 64 + 2 := by omega
    rw [fetchHalf_hit (d := (drawNat (2 ^ 64) d).2) (l := l) (huser ▸ hpmp') hmem.2 (by rw [hsame.1]; exact hline) hheld, hsame.2, hhi]
  rw [coreStep, hpc]
  dsimp only
  rw [hfirst]
  dsimp only
  rw [if_pos (by omega), show drawNat (2 ^ 64) d = ((drawNat (2 ^ 64) d).1, (drawNat (2 ^ 64) d).2) from rfl]
  dsimp only
  rw [hsecond]
  dsimp only
  rw [if_neg (by omega), show w % 65536 + w / 65536 * 65536 = w by omega]
  dsimp only
  rw [show getCore e (drawNat (2 ^ 64) d).2 = getCore e d from rfl, hexec]
  rfl

/-! ### An aligned access to the uncached pool (R98, R99) -/

theorem place_aligned {a n p : Nat} (hn : n ∣ 8) (h : place a n = some (.uncached p)) (ha : a % n = 0) : p % n = 0 := by
  have hshift : a = p + 0x10000000 ∨ a = p + 0x40000000000 := by
    rw [place] at h
    split_ifs at h with _ hlow _ hhigh
    · simp at h
    · simp only [Option.some.injEq, Place.uncached.injEq] at h
      omega
    · simp at h
    · simp only [Option.some.injEq, Place.uncached.injEq] at h
      omega
  have hunits : n ∣ 0x10000000 ∧ n ∣ 0x40000000000 := ⟨hn.trans (by decide), hn.trans (by decide)⟩
  have hdvd : n ∣ a := Nat.dvd_of_mod_eq_zero ha
  refine Nat.mod_eq_zero_of_dvd ?_
  rcases hshift with rfl | rfl
  · exact (Nat.dvd_add_left hunits.1).1 hdvd
  · exact (Nat.dvd_add_left hunits.2).1 hdvd

/-- A word that carries no mark gives an access inside it none. -/
theorem poisonMask_clean {a n : Nat} {d : Dev} (hpos : 0 < n) (hword : a % 8 + n ≤ 8) (h : poisoned a d = false) : poisonMask a n d = 0 := by
  have hone : (a % 8 + n + 7) / 8 = 1 := by omega
  rw [poisonMask, hone]
  simp [those, h]

theorem readStraight_clean {a n : Nat} {d : Dev} (hpool : inPool a = true) (hflips : d.fab.flips = []) (hmask : poisonMask a n d = 0) :
    readStraight a n 0 d = (memRead d a n, 0, d) := by
  have hmet : meetErrors a n 0 d = d := by
    rw [meetErrors, eccAt, if_pos hpool, eccAccess_clean hflips, eccRange, hflips]; rfl
  rw [readStraight, hmet, hmask]

theorem coreLoad_uncached {e a n p : Nat} {d : Dev} (halign : a % n = 0)
    (hpmp : pmpAllows (getCore e d) (getCore e d).dataUser 0 a n = true) (hplace : place a n = some (.uncached p))
    (hseal : inSeal p n d = none) (hread : readStraight p n 0 d = (memRead d p n, 0, d)) :
    coreLoad e a n 0 false d = (.value (memNat d p n), d) := by
  have hload : memLoad e false p n 0 d = (memRead d p n, 0, d) := by rw [memLoad, hseal]; exact hread
  rw [coreLoad]
  dsimp only
  rw [if_neg (by omega), hpmp, if_neg (by decide), hplace]
  dsimp only
  rw [if_neg (by decide), hload]
  rfl

theorem coreStore_uncached {e a n p v : Nat} {d : Dev} (halign : a % n = 0)
    (hpmp : pmpAllows (getCore e d) (getCore e d).dataUser 1 a n = true) (hplace : place a n = some (.uncached p))
    (hseal : inSeal p n d = none) : coreStore e a n v false none d = (none, storeMem p (leBytes n v) (dropReservations e p d)) := by
  have hstore : memStore e false p (leBytes n v) d = storeMem p (leBytes n v) (dropReservations e p d) := by
    rw [memStore, Laws.leBytes_length, hseal]; rfl
  rw [coreStore]
  rw [if_neg (by omega), hpmp, if_neg (by decide), hplace]
  dsimp only
  rw [if_neg (by decide), coreWrite, hplace]
  exact congrArg _ hstore

theorem compared_engine {e : Nat} (he : e < 64) (other : Option (Nat × BitVec 64)) (d : Dev) : compared e other d = none :=
  if_neg (by simp [he.ne])

/-! ### What a descriptor makes of a core (R117) -/

/-- The core that a descriptor starts. -/
def taskCore (b : Bytes) (c : Core) : Core :=
  { (c.set 10 (BitVec.ofNat 64 (fld b 8 8))).set 11 (BitVec.ofNat 64 (fld b 16 4)) with
    pc := fld b 0 8, user := fld b 20 1 % 2 == 1, resv := none }

theorem taskCore_arg (b : Bytes) (c : Core) : (taskCore b c).get 10 = BitVec.ofNat 64 (fld b 8 8) := by
  simp [taskCore, Core.get, Core.set, tget_tset]

theorem taskCore_id (b : Bytes) (c : Core) : (taskCore b c).get 11 = BitVec.ofNat 64 (fld b 16 4) := by
  simp [taskCore, Core.get, Core.set]

/-- A ring whose oldest descriptor is taken. -/
def ringTaken (ring : Nat) (d : Dev) : Dev :=
  { d with taskRings := tmod {} d.taskRings ring fun t => { t with cons := (t.cons + 1) % 65536 } }

section Ready

variable {s : State} (hready : s.ready)

include hready

theorem engineInstruction_answers {e : Fin 65} {cyc w : Nat} {full : Bool} {other : Option (Nat × BitVec 64)} {c : Core} (he : e.val < 64)
    (hruns : coreRuns e s.dev = true) (hcut : (getEngine e s.dev).cutAddr = none) (hdone : rd (Reg.GLB_RDONE_UNIT (clusterOf e)) s.dev = 0)
    (hlow : (getCore e s.dev).pc % 64 ≤ 60) (hfetch : fetchable (getCore e s.dev).pc 4 = true) (huser : (getCore e s.dev).user = false)
    (hpmp : pmpAllows (getCore e s.dev) false 2 (getCore e s.dev).pc 2 = true)
    (hpmp' : pmpAllows (getCore e s.dev) false 2 ((getCore e s.dev).pc + 2) 2 = true) (hw : w < 2 ^ 32) (h4 : w % 4 = 3) (h32 : w % 32 ≠ 31)
    (hword : ((tget [] (getL1i e s.dev) ((getCore e s.dev).pc / 64 * 64)).drop ((getCore e s.dev).pc % 64)).take 4 = leBytes 4 w)
    (hexec : ∀ fresh, rvExec e fresh ((getCore e s.dev).setCsr 0x344 0) 4 w w = .next c) :
    Answers (.engineInstruction e false cyc full 0 false other) s fun d => getCore e d = c := by
  have hkeeps (d : Dev) : coreKeeps e d := .inl he
  have hlevel (d : Dev) (hd : d.regs = s.dev.regs) : extInterrupt e d = false := by
    rw [extInterrupt, if_pos he, rdb, rd_of_regs hd, hdone]; rfl
  have hmip : showMip e s.dev.quiet = setCore e ((getCore e s.dev).setCsr 0x344 0) s.dev.quiet := by
    rw [showMip, hlevel s.dev.quiet rfl]; rfl
  generalize hshown : setCore e ((getCore e s.dev).setCsr 0x344 0) s.dev.quiet = d at hmip
  have hcore : getCore e d = (getCore e s.dev).setCsr 0x344 0 := by rw [← hshown, getCore_setCore (hkeeps _)]
  have hl1i : getL1i e d = getL1i e s.dev := by
    rw [← hshown, setCore_engine he, getL1i, getL1i, if_pos he, if_pos he, getEngine, modEngine, tget_tmod, if_pos rfl]; rfl
  have hregs : d.regs = s.dev.regs := by rw [← hshown, setCore_engine he]; rfl
  have htodo : d.todo = [] := by rw [← hshown, setCore_engine he]; exact hready.2
  have hpc : (getCore e d).pc = (getCore e s.dev).pc := by rw [hcore]; rfl
  have hstep : coreStep e cyc 0 full false none d = setCore e c (drawNat (2 ^ 64) d).2 := by
    refine coreStep_next (hpc ▸ hlow) (hpc ▸ hfetch) (by rw [hcore]; exact huser) ?_ ?_ hw h4 h32 rfl ?_ (by rw [hcore]; exact hexec)
    · rw [hpc, hcore, pmpAllows_setCsr _ (by decide)]; exact hpmp
    · rw [hpc, hcore, pmpAllows_setCsr _ (by decide)]; exact hpmp'
    · rw [hpc, hl1i]; exact hword
  have hruns : RunsTo (.engineInstruction e false cyc full 0 false other) s (setCore e c (drawNat (2 ^ 64) d).2) := by
    refine runsTo_of_live (execEngineInstruction e false cyc full 0 false other s) rfl rfl hready ?_
    have htaken : takeCut e s.dev.quiet = (none, s.dev.quiet) := by
      rw [takeCut, if_pos he, show (getEngine e s.dev.quiet).cutAddr = none from hcut]
    dsimp only
    rw [compared_engine he, show coreRuns e s.dev.quiet = true from hruns, if_neg (by decide), if_neg (by decide), htaken]
    dsimp only
    rw [hmip, interruptTaken, hlevel d hregs, Bool.false_and, Bool.false_and, if_neg (by decide)]
    exact hstep
  refine hruns.answers ?_ fun g hg => ?_
  · rw [setCore_engine he]; exact htodo
  · rw [getCore_ended hg, getCore_setCore (hkeeps _)]

section Access

variable {e : Fin 65} {reg : Fin 32} {addr p : Nat} {sz : Fin 4} {signed : Bool} {other : Option (Nat × BitVec 64)} (he : e.val < 64)
  (hruns : coreRuns e s.dev = true) (halign : addr % 2 ^ sz.val = 0) (hplace : place addr (2 ^ sz.val) = some (.uncached p))
  (hpool : inPool p = true) (hseal : inSeal p (2 ^ sz.val) s.dev = none)

include he hruns halign hplace hseal

include hpool in
theorem engineLoad_answers (hpmp : pmpAllows (getCore e s.dev) (getCore e s.dev).dataUser 0 addr (2 ^ sz.val) = true)
    (hmark : poisoned p s.dev = false) (hflips : s.dev.fab.flips = []) :
    Answers (.engineLoadStore e .load reg addr sz signed 0 false other) s fun d =>
      (reg.val ≠ 0 → (getCore e d).get reg = if signed then sextN (8 * 2 ^ sz.val) (memNat s.dev p (2 ^ sz.val))
        else BitVec.ofNat 64 (memNat s.dev p (2 ^ sz.val))) ∧ (getCore e d).get 0 = 0 ∧ MemKept s.dev d := by
  have hsize : 2 ^ sz.val ∣ 8 := Nat.pow_dvd_pow 2 (show sz.val ≤ 3 by omega)
  have hword : p % 8 + 2 ^ sz.val ≤ 8 := by
    have hp := place_aligned hsize hplace halign
    have hsizes : ∀ k : Fin 4, 2 ^ k.val = 1 ∨ 2 ^ k.val = 2 ∨ 2 ^ k.val = 4 ∨ 2 ^ k.val = 8 := by decide
    rcases hsizes sz with h | h | h | h <;> rw [h] at hp ⊢ <;> omega
  have hread := readStraight_clean (d := s.dev.quiet) hpool hflips (poisonMask_clean (Nat.two_pow_pos _) hword hmark)
  have hload := coreLoad_uncached (d := s.dev.quiet) halign hpmp hplace hseal hread
  generalize hv : (if signed then sextN (8 * 2 ^ sz.val) (memNat s.dev p (2 ^ sz.val)) else BitVec.ofNat 64 (memNat s.dev p (2 ^ sz.val))) = v
  have hruns : RunsTo (.engineLoadStore e .load reg addr sz signed 0 false other) s (send (.value (memNat s.dev p (2 ^ sz.val)))
      (setCore e ((getCore e s.dev).set reg v) s.dev.quiet)) := by
    refine runsTo_of_live (execEngineLoadStore e .load reg addr sz signed 0 false other s) rfl rfl hready ?_
    dsimp only
    rw [compared_engine he, show coreRuns e s.dev.quiet = true from hruns, if_neg (by decide), show (0 : BitVec 76).toNat = 0 from rfl, hload, ← hv]
    rfl
  have hset := getCore_setCore (e := e) (d := s.dev.quiet) (.inl he) ((getCore e s.dev).set reg v)
  refine hruns.answers ?_ fun g hg => ?_
  · rw [setCore_engine he]; exact hready.2
  · have hcore : getCore e g = (getCore e s.dev).set reg v := (getCore_ended hg e).trans hset
    rw [hcore]
    refine ⟨fun hreg => ?_, if_pos rfl, memKept_of_eq ?_⟩
    · rw [Core.get, Core.set, if_neg hreg, if_neg hreg]
      exact tget_tset_same
    · rw [hg.mem, setCore_engine he]; rfl

theorem engineStore_answers (hpmp : pmpAllows (getCore e s.dev) (getCore e s.dev).dataUser 1 addr (2 ^ sz.val) = true) :
    Answers (.engineLoadStore e .store reg addr sz signed 0 false other) s fun d =>
      memNat d p (2 ^ sz.val) = ((getCore e s.dev).get reg).toNat % 2 ^ (8 * 2 ^ sz.val) ∧
      (∀ a, a < p ∨ p + 2 ^ sz.val ≤ a → memByte d a = memByte s.dev a) := by
  generalize hv : ((getCore e s.dev).get reg).toNat % 2 ^ (8 * 2 ^ sz.val) = v
  have hstore := coreStore_uncached (d := s.dev.quiet) (v := v) halign hpmp hplace hseal
  have hkept := memTodo_dropReservations e p s.dev.quiet
  have hruns : RunsTo (.engineLoadStore e .store reg addr sz signed 0 false other) s
      (storeMem p (leBytes (2 ^ sz.val) v) (dropReservations e p s.dev.quiet)) := by
    refine runsTo_of_live (execEngineLoadStore e .store reg addr sz signed 0 false other s) rfl rfl hready ?_
    dsimp only
    rw [compared_engine he, show coreRuns e s.dev.quiet = true from hruns, if_neg (by decide), show getCore e s.dev.quiet = getCore e s.dev from rfl,
      hv, hstore]
    rfl
  generalize dropReservations e p s.dev.quiet = x at hruns hkept
  have hsmall : v < 256 ^ 2 ^ sz.val := by
    rw [← hv, show 256 = 2 ^ 8 from rfl, ← Nat.pow_mul]
    exact Nat.mod_lt _ (Nat.two_pow_pos _)
  have hread := memRead_storeMem p (leBytes (2 ^ sz.val) v) x
  rw [Laws.leBytes_length] at hread
  refine hruns.answers ((storeMem_todo ..).trans ((congrArg Prod.snd hkept).trans hready.2)) fun g hg => ⟨?_, fun a ha => ?_⟩
  · rw [memNat_of_mem hg.mem, memNat, hread, Laws.leNat_leBytes _ _ hsmall]
  · rw [memByte_of_mem hg.mem, memByte_storeMem_out (by rw [Laws.leBytes_length]; exact ha)]
    exact memByte_of_mem (congrArg Prod.fst hkept) a

end Access

/-! ### Slices (R49, R117–R119) -/

section Slices

variable {e : Fin 64} (hidle : (getEngine e s.dev).slice = none) (hup : engineUp e s.dev = true)
  (hfresh : (getEngine e s.dev).deferred = false) (hfree : slicesHeld s.dev = false)

include hidle hup hfresh hfree

theorem takesSlice {x : Dev} (h : (match (getEngine e s.dev).resume with
      | some (sl, c) => showEngine e (modEngine e (fun g => { g with core := c, slice := some sl, resume := none }) s.dev.quiet)
      | none =>
        if ringFull (2 * e + 1) s.dev then takeTask e (2 * e + 1) s.dev.quiet
        else if ringFull (2 * e) s.dev then takeTask e (2 * e) s.dev.quiet
        else s.dev.quiet) = x) : RunsTo (.engineTakeSlice e) s x := by
  refine runsTo_of_live (execEngineTakeSlice e s) rfl rfl hready ((if_neg ?_).trans h)
  rw [show (getEngine e s.dev.quiet).slice = none from hidle, show (getEngine e s.dev.quiet).deferred = false from hfresh,
    show engineUp e s.dev.quiet = true from hup, show slicesHeld s.dev.quiet = false from hfree]
  decide

theorem takeSlice_resumed (sl : Slice) (c : Core) (hresume : (getEngine e s.dev).resume = some (sl, c)) :
    Answers (.engineTakeSlice e) s fun d =>
      (getEngine e d).slice = some sl ∧ (getEngine e d).core = c ∧ (getEngine e d).resume = none := by
  have hruns : RunsTo (.engineTakeSlice e) s
      (showEngine e (modEngine e (fun g => { g with core := c, slice := some sl, resume := none }) s.dev.quiet)) :=
    takesSlice hready hidle hup hfresh hfree (by rw [hresume])
  refine hruns.answers (by rw [showEngine, wr_todo]; exact hready.2) fun g hg => ?_
  rw [getEngine, hg.engines, showEngine, wr_engines, modEngine, tget_tmod, if_pos rfl]
  exact ⟨rfl, rfl, rfl⟩

theorem takeSlice_started (ring : Nat) (hresume : (getEngine e s.dev).resume = none) (hfull : ringFull ring s.dev = true)
    (hring : ring = 2 * e.val + 1 ∨ (ring = 2 * e.val ∧ ringFull (2 * e.val + 1) s.dev = false))
    (hok : taskOk (memRead s.dev (taskAddr ring (tget {} s.dev.taskRings ring).cons s.dev) 32) = true) :
    let b := memRead s.dev (taskAddr ring (tget {} s.dev.taskRings ring).cons s.dev) 32
    Answers (.engineTakeSlice e) s fun d =>
      (getEngine e d).slice = some { id := fld b 16 4, start := tempoNow s.dev } ∧ (getCore e d).pc = fld b 0 8 ∧
      ((getCore e d).get 10).toNat = fld b 8 8 ∧ ((getCore e d).get 11).toNat = fld b 16 4 ∧
      (getCore e d).user = (fld b 20 1 % 2 == 1) := by
  intro b
  have hruns : RunsTo (.engineTakeSlice e) s (startSlice e b (ringTaken ring s.dev.quiet)) := by
    refine takesSlice hready hidle hup hfresh hfree ?_
    have htake : takeTask e ring s.dev.quiet = startSlice e b (ringTaken ring s.dev.quiet) := if_pos hok
    rw [hresume]
    dsimp only
    rcases hring with rfl | ⟨rfl, hhigh⟩
    · rw [if_pos hfull]; exact htake
    · rw [hhigh, if_neg (by decide), if_pos hfull]; exact htake
  refine hruns.answers (by rw [startSlice, showEngine, wr_todo]; exact hready.2) fun g hg => ?_
  have hengine : getEngine e g = { getEngine e s.dev with
      core := taskCore b (getCore e s.dev), slice := some { id := fld b 16 4, start := tempoNow s.dev } } := by
    rw [getEngine, hg.engines, startSlice, showEngine, wr_engines, modEngine, tget_tmod, if_pos rfl]; rfl
  have hcore : getCore e g = taskCore b (getCore e s.dev) := by rw [getCore, if_pos e.isLt, hengine]
  rw [hcore, hengine]
  refine ⟨rfl, rfl, ?_, ?_, rfl⟩
  · rw [taskCore_arg]; exact Nat.mod_eq_of_lt (fld_lt b 8 8)
  · rw [taskCore_id]; exact Nat.mod_eq_of_lt ((fld_lt b 16 4).trans (by decide))

end Slices

end Ready

/-- Settles O18: an instruction that the L1 holds is fetched in its two halves and executed; an uncached access meets no error and no mark;
a slice starts from its descriptor. -/
theorem enginesExecuteAndAccessMemory : Obligations.EnginesExecuteAndAccessMemory := by
  unfold Obligations.EnginesExecuteAndAccessMemory
  intro s hready
  refine ⟨?_, ?_, ?_⟩
  · intro e cyc w full other c he hruns hcut hdone hlow _ hfetch huser hpmp hpmp' hw h4 h32 hword hexec
    exact engineInstruction_answers hready he hruns hcut hdone hlow hfetch huser hpmp hpmp' hw h4 h32 hword hexec
  · intro e reg addr p sz signed other he hruns halign hplace hpool hseal
    exact ⟨engineLoad_answers hready he hruns halign hplace hpool hseal, engineStore_answers hready he hruns halign hplace hseal⟩
  · intro e hidle hup hfresh hfree
    exact ⟨takeSlice_resumed hready hidle hup hfresh hfree, takeSlice_started hready hidle hup hfresh hfree⟩

end Sys2Proof.Proofs

/-!
PROOFS. O39: absent members, the rows of a rebuild and its commit.
-/

namespace Sys2Proof.Proofs

open Sys2Proof Sys2Proof.Machine

/-! ### Commands on lanes -/

/-- A lane on which a command goes out or waits: UP, no PLN, its counts sound. -/
structure LaneOpen (m : Nat) (d : Dev) : Prop where
  up : laneState m d = 4
  pln : rdb (Reg.MDL_LANE_PLN_IN m) d = false
  cmd : (getLink m d).cmdCred.ok 32 = true
  data : (getLink m d).dataCred.ok 32 = true
  fence : (getLink m d).fence.ok 64 = true

/-- The program of a row of a block. -/
def programs (block row : Nat) (c : LaneCmd) : Bool := c.opcode == 0x11 && c.block == block && c.unit == row

/-- A lane holds the program of a row, sent or waiting. -/
def Programmed (m block row : Nat) (d : Dev) : Prop :=
  (getLink m d).cmds.any (fun c => programs block row c.2) = true ∨ (getLink m d).queue.any (programs block row) = true

/-- What the work on a rebuild row leaves of the device: nothing owed, no injection, open lanes open, and the programs they hold. -/
structure LanesKept (d e : Dev) : Prop where
  todo : e.todo = d.todo
  inj : e.flt.inj = d.flt.inj
  rebuild : e.ftl.rebuild = d.ftl.rebuild
  lanes : ∀ m, LaneOpen m d → LaneOpen m e
  programmed : ∀ m b r, Programmed m b r d → Programmed m b r e

theorem LanesKept.refl (d : Dev) : LanesKept d d := ⟨rfl, rfl, rfl, fun _ h => h, fun _ _ _ h => h⟩

theorem LanesKept.trans {a b c : Dev} (h : LanesKept a b) (k : LanesKept b c) : LanesKept a c :=
  ⟨k.todo.trans h.todo, k.inj.trans h.inj, k.rebuild.trans h.rebuild, fun m hm => k.lanes m (h.lanes m hm),
    fun m b r hm => k.programmed m b r (h.programmed m b r hm)⟩

theorem LanesKept.forEach (f : Nat → Dev → Dev) (h : ∀ x d, LanesKept d (f x d)) (l : List Nat) (d : Dev) :
    LanesKept d (Machine.forEach l f d) := by
  induction l generalizing d with
  | nil => exact .refl d
  | cons x l ih => exact (h x d).trans (ih (f x d))

theorem lanesKept_of_ite {p : Prop} {_ : Decidable p} {d e g : Dev} (he : LanesKept d e) (hg : LanesKept d g) :
    LanesKept d (if p then e else g) := by
  split <;> assumption

/-- Lanes and registers that stand. -/
theorem lanesKept_of_lanes {d e : Dev} (htodo : e.todo = d.todo) (hinj : e.flt.inj = d.flt.inj) (hrebuild : e.ftl.rebuild = d.ftl.rebuild)
    (hlanes : e.lanes12 = d.lanes12) (hregs : ∀ m, laneState m e = laneState m d ∧
      rd (Reg.MDL_LANE_PLN_IN m) e = rd (Reg.MDL_LANE_PLN_IN m) d) : LanesKept d e := by
  have hlink : ∀ m, getLink m e = getLink m d := fun m => by rw [getLink, hlanes]; rfl
  refine ⟨htodo, hinj, hrebuild, fun m h => ?_, fun m b r h => ?_⟩
  · obtain ⟨hup, hpln⟩ := hregs m
    exact ⟨hup.trans h.up, by rw [rdb, hpln]; exact h.pln, by rw [hlink]; exact h.cmd, by rw [hlink]; exact h.data, by rw [hlink]; exact h.fence⟩
  · rwa [Programmed, hlink]

theorem lanesKept_of_regs {d e : Dev} (htodo : e.todo = d.todo) (hinj : e.flt.inj = d.flt.inj) (hrebuild : e.ftl.rebuild = d.ftl.rebuild)
    (hlanes : e.lanes12 = d.lanes12) (hregs : e.regs = d.regs) : LanesKept d e :=
  lanesKept_of_lanes htodo hinj hrebuild hlanes fun _ => ⟨rd_of_regs hregs _, rd_of_regs hregs _⟩

theorem lanesKept_wr {f : Field} (hf : ∀ m, (Reg.MDL_LANE_STATE m).off ≠ f.off) (v : Nat) (d : Dev) : LanesKept d (wr f v d) :=
  lanesKept_of_lanes rfl rfl rfl rfl fun m => ⟨rd_wr_off (hf m) v d, rd_wr_off (g := Reg.MDL_LANE_PLN_IN m) (hf m) v d⟩

theorem lanesKept_bump {f : Field} (hf : ∀ m, (Reg.MDL_LANE_STATE m).off ≠ f.off) (d : Dev) : LanesKept d (bump f d) := by
  rw [bump_eq, bumpBy]
  split
  · exact lanesKept_wr hf _ d
  · exact LanesKept.trans (b := (drawNat (2 ^ f.width) d).2) (lanesKept_of_regs rfl rfl rfl rfl rfl) (lanesKept_wr hf _ _)

/-- A change of a lane that keeps its counts and what it holds. -/
theorem lanesKept_modLink {n : Nat} {f : Lane12 → Lane12} {d : Dev} (hcred : LaneOpen n d → (f (getLink n d)).cmdCred.ok 32 = true ∧
      (f (getLink n d)).dataCred.ok 32 = true ∧ (f (getLink n d)).fence.ok 64 = true)
    (hkept : ∀ b r, Programmed n b r d → (f (getLink n d)).cmds.any (fun c => programs b r c.2) = true ∨
      (f (getLink n d)).queue.any (programs b r) = true) : LanesKept d (modLink n f d) := by
  have hlink : ∀ m, getLink m (modLink n f d) = if m = n then f (getLink n d) else getLink m d := fun m => tget_tmod
  refine ⟨rfl, rfl, rfl, fun m h => ?_, fun m b r h => ?_⟩
  · by_cases hm : m = n
    · subst hm
      obtain ⟨hcmd, hdata, hfence⟩ := hcred h
      exact ⟨h.up, h.pln, by rwa [hlink, if_pos rfl], by rwa [hlink, if_pos rfl], by rwa [hlink, if_pos rfl]⟩
    · exact ⟨h.up, h.pln, by rw [hlink, if_neg hm]; exact h.cmd, by rw [hlink, if_neg hm]; exact h.data, by rw [hlink, if_neg hm]; exact h.fence⟩
  · rw [Programmed, hlink]
    split
    case isTrue hm => subst hm; exact hkept b r h
    case isFalse => exact h

theorem paired_ok (w v : Nat) : Paired.ok w ⟨v % 2 ^ w, 2 ^ w - 1 - v % 2 ^ w⟩ = true := by
  have := Nat.mod_lt v (Nat.two_pow_pos w)
  simp only [Paired.ok, beq_iff_eq]; omega

theorem mkPaired_of_no_inj {w cls v : Nat} {d : Dev} (h : d.flt.inj = none) :
    mkPaired w cls v d = (⟨v % 2 ^ w, 2 ^ w - 1 - v % 2 ^ w⟩, d) := by
  simp only [mkPaired, h]

theorem lanesKept_setCredit {n cls v : Nat} {d : Dev} (h : d.flt.inj = none) : LanesKept d (setCredit n cls v d) := by
  rw [setCredit, mkPaired_of_no_inj h]
  by_cases hcls : cls = 0
  · simp only [if_pos hcls]
    exact lanesKept_modLink (fun ho => ⟨paired_ok 32 v, ho.data, ho.fence⟩) fun _ _ hp => hp
  · simp only [if_neg hcls]
    exact lanesKept_modLink (fun ho => ⟨ho.cmd, paired_ok 32 v, ho.fence⟩) fun _ _ hp => hp

theorem lanesKept_send (o : Out) (d : Dev) : LanesKept d (send o d) := lanesKept_of_regs rfl rfl rfl rfl rfl

theorem lanesKept_transmit (n : Nat) (f : MdlSent) (d : Dev) : LanesKept d (transmit n f d) := by
  rw [transmit]
  refine .trans ?_ (lanesKept_send _ _)
  split
  · exact lanesKept_wr (fun m => by simp only [Reg.MDL_LANE_STATE, Reg.MDL_INJ_ARM]; omega) _ d
  · exact .refl d

theorem lanesKept_sendFrame (n type tag : Nat) (d : Dev) : LanesKept d (sendFrame n type tag d) := by
  rw [sendFrame]
  split
  · refine .trans (lanesKept_modLink ?_ ?_) (lanesKept_transmit ..)
    · exact fun ho => ⟨ho.cmd, ho.data, ho.fence⟩
    · exact fun _ _ hp => hp
  · exact lanesKept_send _ d

theorem readCredit_of_open {n cls : Nat} {d : Dev} (h : LaneOpen n d) : ∃ v, readCredit n cls d = (some v, d) := by
  rw [readCredit]
  refine ⟨_, if_pos ?_⟩
  split
  · exact h.cmd
  · exact h.data

theorem mem_tins_new {α : Type} (k : Nat) (v : α) (t : Tab α) : (k, v) ∈ tins k v t := by
  induction t with
  | nil => simp [tins]
  | cons q t ih => rw [tins]; split <;> simp [ih]

theorem mem_tins_old {α : Type} {k : Nat} {v : α} {t : Tab α} {p : Nat × α} (hp : p ∈ t) : p ∈ tins k v t := by
  induction t with
  | nil => simp at hp
  | cons q t ih =>
    rw [tins]
    split
    · exact List.mem_cons_of_mem _ hp
    · rcases List.mem_cons.1 hp with rfl | hp
      · exact List.mem_cons_self
      · exact List.mem_cons_of_mem _ (ih hp)

/-- An entry under another key stays, and one under the key that is not the default is there. -/
theorem mem_tset_old {α : Type} [DecidableEq α] {x : α} {t : Tab α} {k : Nat} {v : α} {p : Nat × α} (hp : p ∈ t) (hk : p.1 ≠ k) :
    p ∈ tset x t k v := by
  have hdel : p ∈ tdel k t := List.mem_filter.2 ⟨hp, by simpa using hk⟩
  rw [tset]
  split
  · exact hdel
  · exact mem_tins_old hdel

theorem mem_tset_new {α : Type} [DecidableEq α] {x : α} {t : Tab α} {k : Nat} {v : α} (hv : v ≠ x) : (k, v) ∈ tset x t k v := by
  rw [tset, if_neg hv]
  exact mem_tins_new ..

theorem freeTag_unused {x : Lane12} {t : Nat} (h : freeTag x = some t) : ∀ c ∈ x.cmds, c.1 ≠ t := by
  have hfree := List.find?_some h
  simp only [Bool.and_eq_true, Bool.not_eq_true', List.any_eq_false] at hfree
  exact fun c hc heq => hfree.1 c hc (by simpa using heq)

/-- The command at the front of a lane's queue goes out under a tag. -/
def sentOut (tag k : Nat) (c : LaneCmd) (rest : List LaneCmd) (x : Lane12) : Lane12 := { x with
  queue := rest, cmds := tset { opcode := 0 } x.cmds tag { c with stamp := x.cmdSent }, cmdSent := x.cmdSent + 1, dataSent := x.dataSent + k }

theorem lanesKept_sentOut {n tag k : Nat} {c : LaneCmd} {rest : List LaneCmd} {d : Dev} (hq : (getLink n d).queue = c :: rest)
    (ht : freeTag (getLink n d) = some tag) : LanesKept d (modLink n (sentOut tag k c rest) d) := by
  refine lanesKept_modLink (fun ho => ⟨ho.cmd, ho.data, ho.fence⟩) fun b r hp => ?_
  rcases hp with hp | hp
  · obtain ⟨p, hp, hpr⟩ := List.any_eq_true.1 hp
    exact .inl (List.any_eq_true.2 ⟨p, mem_tset_old hp (freeTag_unused ht p hp), hpr⟩)
  · rw [hq, List.any_cons, Bool.or_eq_true] at hp
    rcases hp with hp | hp
    · have hnew : ({ c with stamp := (getLink n d).cmdSent } : LaneCmd) ≠ { opcode := 0 } := by
        intro heq
        have hop : c.opcode = 0 := congrArg LaneCmd.opcode heq
        simp [programs, hop] at hp
      exact .inl (List.any_eq_true.2 ⟨_, mem_tset_new hnew, hp⟩)
    · exact .inr hp

theorem lanesKept_pumpOne {n : Nat} {d e : Dev} (ho : LaneOpen n d) (hinj : d.flt.inj = none) (h : pumpOne n d = some e) :
    LanesKept d e := by
  obtain ⟨a, ha⟩ := readCredit_of_open (cls := 0) ho
  obtain ⟨b, hb⟩ := readCredit_of_open (cls := 1) ho
  rw [pumpOne] at h
  dsimp only at h
  rw [if_neg (not_not.2 ho.up)] at h
  split at h
  next c rest tag hq ht =>
    rw [ha] at h
    dsimp only at h
    rw [hb] at h
    dsimp only at h
    split at h
    · cases h
    · obtain rfl := Option.some.inj h
      have hsent := lanesKept_sentOut (k := dataFrames c) hq ht
      have hcmd := hsent.trans (lanesKept_setCredit (n := n) (cls := 0) (v := a - 1) (hsent.inj.trans hinj))
      refine .trans (.trans (.trans hcmd ?_) (lanesKept_sendFrame n 1 tag _)) (.forEach _ (fun _ d => lanesKept_sendFrame n 3 tag d) _ _)
      split
      · exact .refl _
      · exact lanesKept_setCredit (hcmd.inj.trans hinj)
  · cases h

theorem lanesKept_pump (n m : Nat) {d : Dev} (ho : LaneOpen n d) (hinj : d.flt.inj = none) : LanesKept d (pump n m d) := by
  induction m generalizing d with
  | zero => exact .refl d
  | succ m ih =>
    rw [pump]
    rcases hone : pumpOne n d with _ | e
    · exact .refl d
    · have hkept := lanesKept_pumpOne ho hinj hone
      exact hkept.trans (ih (hkept.lanes n ho) (hkept.inj.trans hinj))

/-- A program issued on an open lane is there afterwards, sent or waiting. -/
theorem issueWrite_program {n : Nat} {c : LaneCmd} {d : Dev} (ho : LaneOpen n d) (hinj : d.flt.inj = none) :
    LanesKept d (issueWrite n c d) ∧ ∀ b r, programs b r c = true → Programmed n b r (issueWrite n c d) := by
  have hread : (readFence n d).2 = d := by rw [readFence]; simp [ho.fence]
  have hqueued : LanesKept d (modLink n (fun x => { x with queue := x.queue ++ [c] }) d) := by
    refine lanesKept_modLink (fun ho => ⟨ho.cmd, ho.data, ho.fence⟩) fun b r hp => ?_
    rcases hp with hp | hp
    · exact .inl hp
    · exact .inr (by simp [hp])
  have hlink : getLink n (modLink n (fun x => { x with queue := x.queue ++ [c] }) d) = { getLink n d with queue := (getLink n d).queue ++ [c] } := by
    rw [getLink, modLink, tget_tmod, if_pos rfl]; rfl
  rw [issueWrite, hread, laneIssue, if_neg (by rw [ho.up]; decide), if_neg (by simp [ho.up, ho.pln])]
  have hpumped := lanesKept_pump n ((getLink n (modLink n (fun x => { x with queue := x.queue ++ [c] }) d)).queue.length + 1)
    (hqueued.lanes n ho) (hqueued.inj.trans hinj)
  refine ⟨hqueued.trans hpumped, fun b r hc => hpumped.programmed n b r (.inr ?_)⟩
  rw [hlink]
  simp [hc]

/-! ### The device's own job at the erasure engine -/

theorem laneRegs_apart (k m : Nat) : (Reg.MDL_LANE_STATE m).off ≠ (accBusy k).off ∧ (Reg.MDL_LANE_STATE m).off ≠ (accJobs k).off := by
  constructor
  · unfold accBusy
    split <;> simp only [Reg.MDL_LANE_STATE, Reg.CIP_STATUS_BUSY, Reg.CMP_STATUS_BUSY, Reg.ERS_STATUS_BUSY, Reg.DIG_STATUS_BUSY] <;> omega
  · unfold accJobs
    split <;> simp only [Reg.MDL_LANE_STATE, Reg.CIP_CNT_JOBS, Reg.CMP_CNT_JOBS, Reg.ERS_CNT_JOBS, Reg.DIG_CNT_JOBS] <;> omega

/-- Where the job of a ready pipeline stands, and what its end leaves. -/
theorem ownJobs_device {k : Nat} {w : PipeFor} {d : Dev} (hserves : laneServes k d = true) (h : pipeReady k w d) :
    (ownJobs w [k] d).2 = dropPipe k w (bump (accJobs k) (pipePlace k w d).2) := by
  obtain ⟨n, hplaced⟩ := pipePlaced_of_ready h
  obtain ⟨-, hawake, -⟩ := h
  simp [ownJobs, hserves, hawake, forEach, hplaced.stands, hplaced.runs, pipeStep, hplaced.pipePlace, hplaced.lane, hplaced.fires, hplaced.quar]

theorem lanesKept_modAccel (k : Nat) (f : Accel → Accel) (d : Dev) : LanesKept d (modAccel k f d) := lanesKept_of_regs rfl rfl rfl rfl rfl

theorem lanesKept_showBusy (k : Nat) (d : Dev) : LanesKept d (showBusy k d) := lanesKept_wr (fun m => (laneRegs_apart k m).1) _ d

theorem lanesKept_pipePlace (k : Nat) (w : PipeFor) (d : Dev) : LanesKept d (pipePlace k w d).2 := by
  have hfree : ∀ l, LanesKept d (pickFree l d).2 := fun l => by
    unfold pickFree
    split
    · exact .refl d
    · exact lanesKept_of_regs rfl rfl rfl rfl rfl
  unfold pipePlace
  dsimp only
  split
  · exact .refl d
  · exact (hfree _).trans ((lanesKept_modAccel ..).trans (lanesKept_showBusy ..))

theorem lanesKept_ownJobs {k : Nat} {w : PipeFor} {d : Dev} (hserves : laneServes k d = true) (h : pipeReady k w d) :
    LanesKept d (ownJobs w [k] d).2 := by
  rw [ownJobs_device hserves h, dropPipe]
  exact .trans (.trans (lanesKept_pipePlace k w d) (lanesKept_bump (fun m => (laneRegs_apart k m).2) _))
    ((lanesKept_modAccel ..).trans (lanesKept_showBusy ..))

theorem spared_pipePlace (k : Nat) (w : PipeFor) (d : Dev) : Spared d (pipePlace k w d).2 := by
  have hput : ∀ j e, Spared e (putPipe k j e) := fun j e => by dsimp only [putPipe]; simp
  unfold pipePlace
  dsimp only
  split
  · exact .refl d
  · exact (Spared.of_by (spared_pickFree _ d)).trans (hput _ _)

theorem spared_ownJobs {k : Nat} {w : PipeFor} {d : Dev} (hserves : laneServes k d = true) (h : pipeReady k w d) :
    Spared d (ownJobs w [k] d).2 := by
  rw [ownJobs_device hserves h]
  exact (spared_pipePlace k w d).trans (.trans (.of_by (spared_bump _ _ (accBits_outside k).2.2)) (.of_by fun _ => spared_dropPipe ..))

/-! ### A row is rebuilt -/

theorem lanesKept_touchPage (kind idx : Nat) (d : Dev) : LanesKept d (touchPage kind idx d) := by
  dsimp only [touchPage]
  split
  · exact .refl d
  · exact lanesKept_of_regs rfl rfl rfl rfl rfl

theorem lanesKept_modSeg (s : Nat) (f : Seg → Seg) (d : Dev) : LanesKept d (modSeg s f d) := by
  dsimp only [modSeg]
  have hseg : LanesKept d { d with md.segs := tmod {} d.md.segs s f } := lanesKept_of_regs rfl rfl rfl rfl rfl
  split
  · exact hseg
  · exact hseg.trans (lanesKept_touchPage ..)

theorem lanesKept_queueReloc (s : Nat) (d : Dev) : LanesKept d (queueReloc s d) := by
  dsimp only [queueReloc]
  split
  · exact .refl d
  · exact (lanesKept_modSeg ..).trans (lanesKept_of_regs rfl rfl rfl rfl rfl)

theorem lanesKept_countRead (m b : Nat) (d : Dev) : LanesKept d (countRead m b d) := by
  have hcounted : LanesKept d { d with md.reads := tset 0 d.md.reads (blkKey m b) (tget 0 d.md.reads (blkKey m b) + 1) } :=
    lanesKept_of_regs rfl rfl rfl rfl rfl
  exact lanesKept_of_ite (hcounted.trans (lanesKept_queueReloc ..)) hcounted

/-- The replacements of a segment. -/
def replOf (seg : Nat) (d : Dev) : List Repl13 := ((getRebuild seg d).map (·.repl)).getD []

/-- The next row of a replacement that lacks this one. -/
def rowIssued (row : Nat) (x : Repl13) : Repl13 := if x.issued = row then { x with issued := row + 1 } else x

theorem getRebuild_modRebuild {seg : Nat} {f : Rebuild → Rebuild} (hf : ∀ r, (f r).seg = r.seg) (d : Dev) :
    getRebuild seg (modRebuild seg f d) = (getRebuild seg d).map f := by
  dsimp only [getRebuild, modRebuild]
  induction d.ftl.rebuild with
  | nil => rfl
  | cons r l ih =>
    rw [List.map_cons, List.find?_cons, List.find?_cons]
    by_cases hr : r.seg = seg
    · simp [hr, hf]
    · simp [beq_eq_false_iff_ne.2 hr, if_neg hr, ih]

/-- Programs of a row issued one after the other. -/
def programAll (f : Repl13 × Nat → LaneCmd) (l : List (Repl13 × Nat)) (d : Dev) : Dev :=
  l.foldl (fun d x => issueWrite x.1.member (f x) d) d

theorem programAll_programs {row : Nat} {f : Repl13 × Nat → LaneCmd} (hf : ∀ x, programs x.1.block row (f x) = true) (l : List (Repl13 × Nat))
    {d : Dev} (ho : ∀ x ∈ l, LaneOpen x.1.member d) (hinj : d.flt.inj = none) :
    LanesKept d (programAll f l d) ∧ ∀ x ∈ l, Programmed x.1.member x.1.block row (programAll f l d) := by
  induction l generalizing d with
  | nil => exact ⟨.refl d, fun x hx => by simp at hx⟩
  | cons y l ih =>
    obtain ⟨hkept, hprog⟩ := issueWrite_program (c := f y) (ho y List.mem_cons_self) hinj
    obtain ⟨hrest, hall⟩ := ih (fun x hx => hkept.lanes _ (ho x (List.mem_cons_of_mem _ hx))) (hkept.inj.trans hinj)
    refine ⟨hkept.trans hrest, fun x hx => ?_⟩
    rcases List.mem_cons.1 hx with rfl | hx
    · exact hrest.programmed _ _ _ (hprog _ _ (hf x))
    · exact hall x hx

/-- The row has gone out to every replacement that lacks it. -/
structure RowOut (seg row : Nat) (d e : Dev) : Prop where
  todo : e.todo = d.todo
  repl : (getRebuild seg e).map (·.repl) = (getRebuild seg d).map fun r => r.repl.map (rowIssued row)
  programmed : ∀ y ∈ replOf seg d, y.issued = row → Programmed y.member y.block row e

/-- A row in flight, and its replacements a row further. -/
def rowFlying (seg row : Nat) (r : Row) (d : Dev) : Dev :=
  modRebuild seg (fun r => { r with repl := r.repl.map (rowIssued row) })
    { d with stg.rows := tset {} d.stg.rows d.stg.rowNext r, stg.rowNext := d.stg.rowNext + 1 }

theorem getRebuild_rowFlying (seg row : Nat) (r : Row) (d : Dev) :
    getRebuild seg (rowFlying seg row r d) = (getRebuild seg d).map fun r => { r with repl := r.repl.map (rowIssued row) } :=
  getRebuild_modRebuild (f := fun r => { r with repl := r.repl.map (rowIssued row) }) (fun _ => rfl) _

theorem laneOpen_rowFlying {seg row m : Nat} {r : Row} {d : Dev} (h : LaneOpen m d) : LaneOpen m (rowFlying seg row r d) :=
  ⟨h.up, h.pln, h.cmd, h.data, h.fence⟩

/-- The replacements of a segment that lack a row, by number. -/
def lackRow (seg row : Nat) (d : Dev) : List (Repl13 × Nat) :=
  ((replOf seg d).zip (List.range (replOf seg d).length)).filter fun x => x.1.issued == row

theorem mem_lackRow {seg row : Nat} {d : Dev} {x : Repl13 × Nat} (h : x ∈ lackRow seg row d) : x.1 ∈ replOf seg d ∧ x.1.issued = row := by
  obtain ⟨hx, hi⟩ := List.mem_filter.1 h
  exact ⟨(List.of_mem_zip hx).1, by simpa using hi⟩

theorem lackRow_mem {seg row : Nat} {d : Dev} {y : Repl13} (hy : y ∈ replOf seg d) (hi : y.issued = row) : ∃ n, (y, n) ∈ lackRow seg row d := by
  obtain ⟨n, hn, rfl⟩ := List.getElem_of_mem hy
  refine ⟨n, List.mem_filter.2 ⟨?_, by simpa using hi⟩⟩
  exact List.mem_of_getElem (i := n) (h := by simpa using hn) (by simp)

/-- The program of a row for a replacement. -/
def rowProgram (row n : Nat) (cols : List (Nat × Bytes)) (x : Repl13 × Nat) : LaneCmd :=
  { opcode := 0x11, block := x.1.block, unit := row
    data := ((cols.find? fun c => c.1 == x.1.col).map (·.2)).getD (List.replicate 65536 0), use := .column n x.2 }

/-- The row as it stands in assembly while its programs run. -/
def flyingRow (seg row e : Nat) (d : Dev) : Row :=
  { kind := 4, engine := e, pool := (getSeg seg d).pool, seg := seg, row := row, state := 3, want := (lackRow seg row d).length }

theorem programReplacements_eq (seg row e : Nat) (cols : List (Nat × Bytes)) (d : Dev) : programReplacements seg row e cols d =
    programAll (rowProgram row d.stg.rowNext cols) (lackRow seg row d) (rowFlying seg row (flyingRow seg row e d) d) := rfl

theorem rowOut_programReplacements {seg row e : Nat} {cols : List (Nat × Bytes)} {d : Dev} (hinj : d.flt.inj = none)
    (ho : ∀ y ∈ replOf seg d, y.issued = row → LaneOpen y.member d) : RowOut seg row d (programReplacements seg row e cols d) := by
  rw [programReplacements_eq]
  generalize flyingRow seg row e d = r
  obtain ⟨hkept, hall⟩ := programAll_programs (f := rowProgram row d.stg.rowNext cols) (row := row)
    (fun x => by simp only [programs, rowProgram, beq_self_eq_true, Bool.and_self]) (lackRow seg row d) (d := rowFlying seg row r d)
    (fun x hx => laneOpen_rowFlying (ho _ (mem_lackRow hx).1 (mem_lackRow hx).2)) hinj
  refine ⟨hkept.todo, ?_, fun y hy hi => ?_⟩
  · have hrebuild := congrArg (List.find? (·.seg == seg)) hkept.rebuild
    exact (congrArg (Option.map (·.repl)) (hrebuild.trans (getRebuild_rowFlying ..))).trans (Option.map_map ..)
  · obtain ⟨n, hn⟩ := lackRow_mem hy hi
    exact hall _ hn

theorem RowOut.of_kept {seg row : Nat} {c d e : Dev} (hkept : LanesKept c d) (h : RowOut seg row d e) : RowOut seg row c e := by
  have hrebuild : getRebuild seg d = getRebuild seg c := by rw [getRebuild, hkept.rebuild]; rfl
  obtain ⟨htodo, hrepl, hprog⟩ := h
  exact ⟨htodo.trans hkept.todo, by rw [hrepl, hrebuild], fun y hy => hprog y (by rwa [replOf, hrebuild])⟩

/-- The blocks of columns that end their ladder unreadable are retired. -/
def retireBad (g : Seg) (bad : List Nat) (d : Dev) : Dev :=
  bad.foldl (fun d c => match (g.cols)[c]? with
    | some x => retireBlock x.member x.block 2 d
    | none => d) d

/-- The page reads of the columns of a row are counted. -/
def countColumns (g : Seg) (cols : List (Nat × Bytes)) (d : Dev) : Dev :=
  cols.foldl (fun d c => match (g.cols)[c.1]? with
    | some x => if colFailed x d then d else forEach (List.range (65536 / pageSize x.member d)) (fun _ d => countRead x.member x.block d) d
    | none => d) d

/-- The columns of a rebuild row, and those that read. -/
def rowColumnsAll (seg row : Nat) (bad : List Nat) (d : Dev) : List (Nat × Option Bytes) :=
  (List.range ((getSeg seg d).w + 2)).map fun c => (c, rebuildColumn seg row c bad d)
def rowColumnsRead (seg row : Nat) (bad : List Nat) (d : Dev) : List (Nat × Bytes) :=
  (rowColumnsAll seg row bad d).filterMap fun c => c.2.map fun b => (c.1, b)

/-- A row goes out with those columns, up to two of them recovered, or is lost. -/
def rowOutOrLost (seg row e w : Nat) (cols : List (Nat × Bytes)) (miss : List Nat) (d : Dev) : Dev :=
  match miss with
  | [] => programReplacements seg row e cols d
  | [m] => programReplacements seg row e
      (cols ++ recoverColumns w m 255 65536 (cols.filter fun c => (columnsRead w m 255).contains c.1)) d
  | [m, n] => programReplacements seg row e
      (cols ++ recoverColumns w m n 65536 (cols.filter fun c => (columnsRead w m n).contains c.1)) d
  | l => programReplacements seg row e [] (rowLost seg row l d)

theorem rebuildOne_eq (seg row e : Nat) (bad : List Nat) (d : Dev) : rebuildOne seg row e bad d =
    let g := getSeg seg d
    let x := retireBad g bad d
    let all := (List.range (g.w + 2)).map fun c => (c, rebuildColumn seg row c bad x)
    let cols := all.filterMap fun c => c.2.map fun b => (c.1, b)
    rowOutOrLost seg row e g.w cols ((all.filter fun c => c.2.isNone).map (·.1)) (countColumns g cols x) := by
  unfold rebuildOne rowOutOrLost
  rfl

theorem lanesKept_countColumns (g : Seg) (cols : List (Nat × Bytes)) (d : Dev) : LanesKept d (countColumns g cols d) := by
  unfold countColumns
  induction cols generalizing d with
  | nil => exact .refl d
  | cons c l ih =>
    rw [List.foldl_cons]
    refine .trans ?_ (ih _)
    split
    · exact lanesKept_of_ite (.refl d) (.forEach _ (fun _ d => lanesKept_countRead _ _ d) _ d)
    · exact .refl d

/-- The columns that do not read, counted. -/
theorem missing_length {l : List Nat} {f : Nat → Option Bytes} :
    (((l.map fun c => (c, f c)).filter fun c => c.2.isNone).map (·.1)) = l.filter fun c => (f c).isNone := by
  induction l with
  | nil => rfl
  | cons c l ih => by_cases h : (f c).isNone <;> simp_all

theorem rowOut_rowOutOrLost {seg row e w : Nat} {cols : List (Nat × Bytes)} {miss : List Nat} {d : Dev} (hmiss : miss.length ≤ 2)
    (hinj : d.flt.inj = none) (ho : ∀ y ∈ replOf seg d, y.issued = row → LaneOpen y.member d) :
    RowOut seg row d (rowOutOrLost seg row e w cols miss d) := by
  match miss, hmiss with
  | [], _ => exact rowOut_programReplacements hinj ho
  | [_], _ => exact rowOut_programReplacements hinj ho
  | [_, _], _ => exact rowOut_programReplacements hinj ho

theorem rowOut_rebuildOne {seg row e : Nat} {d : Dev} (hmiss : (rebuildMissing seg row [] d).length ≤ 2) (hinj : d.flt.inj = none)
    (ho : ∀ y ∈ replOf seg d, y.issued = row → LaneOpen y.member d) : RowOut seg row d (rebuildOne seg row e [] d) := by
  rw [rebuildOne_eq]
  dsimp only [retireBad, List.foldl_nil]
  have hkept := lanesKept_countColumns (getSeg seg d)
    (((List.range ((getSeg seg d).w + 2)).map fun c => (c, rebuildColumn seg row c [] d)).filterMap fun c => c.2.map fun b => (c.1, b)) d
  refine .of_kept hkept (rowOut_rowOutOrLost ?_ (hkept.inj.trans hinj) fun y hy hi => hkept.lanes _ (ho y ?_ hi))
  · rwa [missing_length]
  · have hrebuild := congrArg (List.find? (·.seg == seg)) hkept.rebuild
    rwa [replOf, getRebuild, hrebuild] at hy

/-! ### What a row's rebuild spares -/

theorem spared_retireBad (g : Seg) (bad : List Nat) (d : Dev) : Spared d (retireBad g bad d) := by
  refine spared_foldl_of (fun d c => ?_) d
  split
  · exact .of_by fun _ => spared_retireBlock ..
  · exact .refl d

theorem spared_countRead (m b : Nat) (d : Dev) : Spared d (countRead m b d) := by
  dsimp only [countRead]
  simp

theorem spared_countColumns (g : Seg) (cols : List (Nat × Bytes)) (d : Dev) : Spared d (countColumns g cols d) := by
  refine spared_foldl_of (fun d c => ?_) d
  split
  · exact spared_of_ite (.refl d) (.of_by (spared_forEach _ _ _ fun _ d => spared_countRead ..))
  · exact .refl d

theorem spared_programReplacements (seg row e : Nat) (cols : List (Nat × Bytes)) (d : Dev) :
    Spared d (programReplacements seg row e cols d) := by
  rw [programReplacements_eq]
  have hflying : Spared d (rowFlying seg row (flyingRow seg row e d) d) := by dsimp only [rowFlying]; simp
  exact hflying.trans (spared_foldl_of (fun d c => .of_by fun _ => spared_issueWrite ..) _)

theorem spared_rowLost (seg row : Nat) (miss : List Nat) (d : Dev) : Spared d (rowLost seg row miss d) := by
  have hmarked : ∀ gs, Spared d (forEach gs (fun g d => markLost g 0 miss.length d) d) := fun gs =>
    .of_by (spared_forEach _ _ _ fun _ _ => .of_by fun _ => spared_markLost ..)
  have hqueued : ∀ e, Spared e (queueReloc seg { e with ftl.noParity := e.ftl.noParity ++ [(seg, row)] }) := fun e =>
    .trans (b := { e with ftl.noParity := e.ftl.noParity ++ [(seg, row)] }) (by simp) (.of_by fun _ => spared_queueReloc ..)
  have hshown : ∀ e, Spared e (setb Reg.ERS_STATUS_LOST_CHK (bump Reg.ERS_LOSS_ROWS e)) := fun e =>
    .trans (.of_by (spared_bump _ _ (by decide))) (.of_by (spared_setb _ _ (by decide)))
  exact ((hmarked _).trans ((hqueued _).trans (hshown _))).trans (.of_by fun _ => spared_raiseC ..)

theorem spared_rowOutOrLost (seg row e w : Nat) (cols : List (Nat × Bytes)) (miss : List Nat) (d : Dev) :
    Spared d (rowOutOrLost seg row e w cols miss d) := by
  unfold rowOutOrLost
  split
  · exact spared_programReplacements ..
  · exact spared_programReplacements ..
  · exact spared_programReplacements ..
  · exact (spared_rowLost ..).trans (spared_programReplacements ..)

theorem spared_rebuildOne (seg row e : Nat) (bad : List Nat) (d : Dev) : Spared d (rebuildOne seg row e bad d) := by
  rw [rebuildOne_eq]
  exact (spared_retireBad ..).trans ((spared_countColumns ..).trans (spared_rowOutOrLost ..))

/-! ### The replacements chosen -/

/-- What choosing replacements changes: block records, pages dirtied, the counts of replacements given and the rebuild queue. -/
def Chosen (d e : Dev) : Prop := e = { d with
  md.blocks := e.md.blocks, ftl.dirty := e.ftl.dirty, ftl.given := e.ftl.given, ftl.rebuild := e.ftl.rebuild }

theorem Chosen.refl (d : Dev) : Chosen d d := rfl

theorem Chosen.trans {a b c : Dev} (h : Chosen a b) (k : Chosen b c) : Chosen a c := by
  rw [Chosen] at h k ⊢
  rw [k, h]

theorem chosen_chooseReplacements (seg : Nat) (d : Dev) : Chosen d (chooseReplacements seg d) := by
  have htouch : ∀ k i d, Chosen d (touchPage k i d) := fun k i d => by
    dsimp only [touchPage]; split <;> rfl
  have hblk : ∀ m b f d, Chosen d (modBlk m b f d) := fun m b f d =>
    .trans (b := { d with md.blocks := tmod {} d.md.blocks (blkKey m b) f }) rfl (htouch ..)
  have hgiven : ∀ (t : Tab Nat) (d : Dev), Chosen d { d with ftl.given := t } := fun _ _ => rfl
  have hrepl : ∀ f d, Chosen d (modRebuild seg f d) := fun _ _ => rfl
  unfold chooseReplacements
  induction missingCols seg d generalizing d with
  | nil => exact .refl d
  | cons c l ih =>
    refine Chosen.trans ?_ (ih _)
    dsimp only
    split
    · exact .refl d
    · split
      · exact (Chosen.trans (hgiven ..) (hblk ..)).trans (hrepl ..)
      · exact .refl d

section
variable {d e : Dev} (h : Chosen d e)
include h

theorem Chosen.pwr : e.pwr = d.pwr := by rw [h]
theorem Chosen.stg : e.stg = d.stg := by rw [h]
theorem Chosen.flt : e.flt = d.flt := by rw [h]
theorem Chosen.todo : e.todo = d.todo := by rw [h]
theorem Chosen.tmp : e.tmp = d.tmp := by rw [h]
theorem Chosen.rate : e.ftl.rate = d.ftl.rate := by rw [h]
theorem Chosen.getSeg (seg : Nat) : Machine.getSeg seg e = Machine.getSeg seg d := by rw [h]; rfl
theorem Chosen.missingCols (seg : Nat) : Machine.missingCols seg e = Machine.missingCols seg d := by rw [h]; rfl
theorem Chosen.rowEngine (n : Nat) : Machine.rowEngine n e = Machine.rowEngine n d := by rw [h]; rfl
theorem Chosen.hasGrant (who : TokWho) (cls : Nat) : Machine.hasGrant who cls e = Machine.hasGrant who cls d := by
  rw [Machine.hasGrant, h.pwr]; rfl
theorem Chosen.rowsThisWindow : Machine.rowsThisWindow e = Machine.rowsThisWindow d := by rw [h]; rfl
theorem Chosen.tempoNow : Machine.tempoNow e = Machine.tempoNow d := by rw [h]; rfl
theorem Chosen.laneServes (k : Nat) : Machine.laneServes k e = Machine.laneServes k d := by rw [h]; rfl
theorem Chosen.pipeReady {k : Nat} {w : PipeFor} (hr : Machine.pipeReady k w d) : Machine.pipeReady k w e := by rw [h]; exact hr
theorem Chosen.laneOpen {m : Nat} (ho : LaneOpen m d) : LaneOpen m e := by
  rw [h]; exact ⟨ho.up, ho.pln, ho.cmd, ho.data, ho.fence⟩

end

/-! ### The next row -/

/-- The next row of a rebuild, and the engine that asks for it. -/
def nextRow (seg : Nat) (d : Dev) : Nat := ((replOf seg d).map (·.issued)).foldl min (getSeg seg d).rows
def nextEngine (seg : Nat) (d : Dev) : Nat := rowEngine (seg + nextRow seg d) d

/-- A row of the segment may be rebuilt now (R425, R427, R428). -/
structure RowDue (seg : Nat) (d : Dev) : Prop where
  calm : inTrouble d = false
  first : (d.ftl.rebuild.take (rd Reg.ERS_RB_SEGS d)).any (·.seg == seg) = true
  closed : (getSeg seg d).state = 2
  unwritten : ∀ x, getRebuild seg d = some x → x.written = false
  mine : (d.stg.rows.filter fun r => r.2.kind == 4 && r.2.seg == seg).length < 2
  flying : (d.stg.rows.filter fun r => r.2.kind == 4).length < rd Reg.ERS_RB_INFLIGHT d
  rate : rowsThisWindow d < rd Reg.ERS_RB_RATE d

theorem RowDue.goes_on {seg : Nat} {d : Dev} (h : RowDue seg d) :
    ¬(inTrouble d || !((d.ftl.rebuild.take (rd Reg.ERS_RB_SEGS d)).any (·.seg == seg)) || (getSeg seg d).state != 2 ||
      (getRebuild seg d).any (·.written) || (d.stg.rows.filter fun r => r.2.kind == 4 && r.2.seg == seg).length ≥ 2 ||
      (d.stg.rows.filter fun r => r.2.kind == 4).length ≥ rd Reg.ERS_RB_INFLIGHT d || rowsThisWindow d ≥ rd Reg.ERS_RB_RATE d) = true := by
  obtain ⟨hcalm, hfirst, hclosed, hunwritten, hmine, hflying, hrate⟩ := h
  have hany : (getRebuild seg d).any (·.written) = false := by
    rcases hr : getRebuild seg d with _ | x
    · rfl
    · exact hunwritten x hr
  simp only [hcalm, hfirst, hclosed, hany, Bool.not_true, bne_self_eq_false, Bool.or_self, Bool.false_or, Bool.or_eq_true, decide_eq_true_eq]
  omega

/-- What the next row does where its replacements are chosen (R427, R428, R653). -/
def rowStep (seg : Nat) (bad : List Nat) (d : Dev) : Dev :=
  let who := TokWho.engine (nextEngine seg d)
  let miss := missingCols seg d
  let cost := (columnsRead (getSeg seg d).w ((miss[0]?).getD 255) ((miss[1]?).getD 255)).length + 2 * (replOf seg d).length
  if !hasGrant who 3 d then postReq { who := who, cls := 3, cost := cost } d
  else match if (rebuildMissing seg (nextRow seg d) bad d).isEmpty then (true, d) else ownJobs (.rebuild seg) [5] d with
    | (false, d) => d
    | (true, e) => rebuildOne seg (nextRow seg d) (nextEngine seg d) bad { e with ftl.rate := (tempoNow e / 1000, rowsThisWindow e + 1) }

theorem rebuildRow_runsTo {s : State} {seg : Nat} {bad : List Nat} (hready : s.ready) (hdue : RowDue seg s.dev.quiet)
    (hsome : replOf seg (chooseReplacements seg s.dev.quiet) ≠ [])
    (hrow : nextRow seg (chooseReplacements seg s.dev.quiet) < (getSeg seg s.dev.quiet).rows)
    (halone : ∀ r ∈ s.dev.stg.rows, r.2.kind = 4 → r.2.engine ≠ nextEngine seg (chooseReplacements seg s.dev.quiet)) :
    RunsTo (.rebuildRow seg bad) s (rowStep seg bad (chooseReplacements seg s.dev.quiet)) := by
  refine runsTo_of_live (execRebuildRow seg bad s) rfl rfl hready ?_
  dsimp only
  rw [if_neg hdue.goes_on]
  have hchosen := chosen_chooseReplacements seg s.dev.quiet
  generalize chooseReplacements seg s.dev.quiet = e at hchosen hsome hrow halone ⊢
  have hgo : ¬((replOf seg e).isEmpty || nextRow seg e ≥ (getSeg seg s.dev.quiet).rows ||
      (e.stg.rows.any fun r => r.2.kind == 4 && r.2.engine == nextEngine seg e)) = true := by
    have hany : (e.stg.rows.any fun r => r.2.kind == 4 && r.2.engine == nextEngine seg e) = false := by
      rw [hchosen.stg]
      simpa using fun n r hr => halone (n, r) hr
    simp [hsome, hany, hrow]
  have hg : getSeg seg s.dev.quiet = getSeg seg e := (hchosen.getSeg seg).symm
  rw [hg] at hgo ⊢
  exact if_neg hgo

/-! ### The columns that a row's job leaves to read -/

/-- What the device's own job leaves of the stripes: metadata, modules, the rebuild queue and the states of the lanes. -/
structure StripesKept (d e : Dev) : Prop where
  md : e.md = d.md
  modules : e.outside = d.outside
  rebuild : e.ftl = d.ftl
  lanes : ∀ m, laneState m e = laneState m d

theorem StripesKept.trans {a b c : Dev} (h : StripesKept a b) (k : StripesKept b c) : StripesKept a c :=
  ⟨k.md.trans h.md, k.modules.trans h.modules, k.rebuild.trans h.rebuild, fun m => (k.lanes m).trans (h.lanes m)⟩

theorem stripesKept_wr {f : Field} (hf : ∀ m, (Reg.MDL_LANE_STATE m).off ≠ f.off) (v : Nat) (d : Dev) : StripesKept d (wr f v d) :=
  ⟨rfl, rfl, rfl, fun m => rd_wr_off (hf m) v d⟩

theorem stripesKept_bump {f : Field} (hf : ∀ m, (Reg.MDL_LANE_STATE m).off ≠ f.off) (d : Dev) : StripesKept d (bump f d) := by
  rw [bump_eq, bumpBy]
  split
  · exact stripesKept_wr hf _ d
  · exact StripesKept.trans (b := (drawNat (2 ^ f.width) d).2) ⟨rfl, rfl, rfl, fun _ => rfl⟩ (stripesKept_wr hf _ _)

theorem stripesKept_showBusy (k : Nat) (f : Accel → Accel) (d : Dev) : StripesKept d (showBusy k (modAccel k f d)) :=
  .trans (b := modAccel k f d) ⟨rfl, rfl, rfl, fun _ => rfl⟩ (stripesKept_wr (fun m => (laneRegs_apart k m).1) _ _)

theorem stripesKept_pipePlace (k : Nat) (w : PipeFor) (d : Dev) : StripesKept d (pipePlace k w d).2 := by
  have hfree : ∀ l, StripesKept d (pickFree l d).2 := fun l => by
    unfold pickFree
    split
    · exact ⟨rfl, rfl, rfl, fun _ => rfl⟩
    · exact ⟨rfl, rfl, rfl, fun _ => rfl⟩
  unfold pipePlace
  dsimp only
  split
  · exact ⟨rfl, rfl, rfl, fun _ => rfl⟩
  · exact (hfree _).trans (stripesKept_showBusy ..)

theorem stripesKept_ownJobs {k : Nat} {w : PipeFor} {d : Dev} (hserves : laneServes k d = true) (h : pipeReady k w d) :
    StripesKept d (ownJobs w [k] d).2 := by
  rw [ownJobs_device hserves h, dropPipe]
  exact ((stripesKept_pipePlace k w d).trans (stripesKept_bump (fun m => (laneRegs_apart k m).2) _)).trans (stripesKept_showBusy ..)

/-- A column of a rebuild row reads as before. -/
theorem rebuildColumn_of_kept {d e : Dev} (h : StripesKept d e) (seg row c : Nat) (bad : List Nat) :
    rebuildColumn seg row c bad e = rebuildColumn seg row c bad d := by
  have hmod : ∀ m, getMod m e = getMod m d := fun m => by rw [getMod, h.modules]; rfl
  have hup : ∀ m, laneUp m e = laneUp m d := fun m => by rw [laneUp, h.lanes]; rfl
  have hrow : ∀ m b, blockRow m b row e = blockRow m b row d := fun m b => by
    dsimp only [blockRow]; rw [hmod, hup, h.lanes]
  have hfailed : ∀ x, colFailed x e = colFailed x d := fun x => by rw [colFailed, h.md]; rfl
  have hok : ∀ m, memberOk m e = memberOk m d := fun m => by dsimp only [memberOk]; rw [h.md, hup, h.lanes]
  have hread : ∀ g, readColumn g row c bad e = readColumn g row c bad d := fun g => by
    dsimp only [readColumn]; rw [hmod, hfailed, hok]
  have hseg : getSeg seg e = getSeg seg d := by rw [getSeg, h.md]; rfl
  have hrebuild : getRebuild seg e = getRebuild seg d := by rw [getRebuild, h.rebuild]; rfl
  dsimp only [rebuildColumn]
  rw [hseg, hrebuild, hfailed, hread]
  simp only [hrow]

theorem rebuildMissing_of_kept {d e : Dev} (h : StripesKept d e) (seg row : Nat) (bad : List Nat) :
    rebuildMissing seg row bad e = rebuildMissing seg row bad d := by
  have hseg : getSeg seg e = getSeg seg d := by rw [getSeg, h.md]; rfl
  dsimp only [rebuildMissing]
  rw [hseg]
  simp only [rebuildColumn_of_kept h]

/-! ### The row's outcome -/

/-- The device as the row's own job leaves it. -/
def rowJob (seg : Nat) (bad : List Nat) (d : Dev) : Dev :=
  if (rebuildMissing seg (nextRow seg d) bad d).isEmpty then d else (ownJobs (.rebuild seg) [5] d).2

/-- A row whose job ends, counted in its window. -/
def rowCounted (d : Dev) : Dev := { d with ftl.rate := (tempoNow d / 1000, rowsThisWindow d + 1) }

/-- The request for a rebuild row's tokens (R427). -/
def rowRequest (seg : Nat) (d : Dev) : TokReq :=
  { who := .engine (nextEngine seg d), cls := 3
    cost := (columnsRead (getSeg seg d).w (((missingCols seg d)[0]?).getD 255) (((missingCols seg d)[1]?).getD 255)).length +
      2 * (replOf seg d).length }

def rowAsked (seg : Nat) (d : Dev) : Dev := { d with pwr.waiting := d.pwr.waiting ++ [rowRequest seg d] }

theorem rowStep_of_no_grant {seg : Nat} {bad : List Nat} {d : Dev} (hgrant : hasGrant (.engine (nextEngine seg d)) 3 d = false)
    (hnew : ∀ q ∈ d.pwr.waiting, q.who = .engine (nextEngine seg d) → q.cls ≠ 3) : rowStep seg bad d = rowAsked seg d := by
  rw [rowStep]
  dsimp only
  rw [if_pos (by simp [hgrant])]
  exact postReq_of_new hnew

/-- Where a column does not read, an erasure lane stands ready for the row. -/
def rowReady (seg : Nat) (bad : List Nat) (d : Dev) : Prop :=
  rebuildMissing seg (nextRow seg d) bad d = [] ∨ (laneServes 5 d = true ∧ pipeReady 5 (.rebuild seg) d)

theorem rowStep_of_grant {seg : Nat} {bad : List Nat} {d : Dev} (hgrant : hasGrant (.engine (nextEngine seg d)) 3 d = true)
    (hready : rowReady seg bad d) :
    rowStep seg bad d = rebuildOne seg (nextRow seg d) (nextEngine seg d) bad (rowCounted (rowJob seg bad d)) := by
  rw [rowStep]
  dsimp only
  rw [if_neg (by simp [hgrant]), rowJob]
  by_cases hnone : rebuildMissing seg (nextRow seg d) bad d = []
  · simp only [hnone, List.isEmpty_nil, if_true]; rfl
  · obtain ⟨hserves, hpipe⟩ := hready.resolve_left hnone
    have hempty : ¬(rebuildMissing seg (nextRow seg d) bad d).isEmpty = true := by simpa using hnone
    rw [if_neg hempty, if_neg hempty]
    have hown := ownJobs_of_ready hserves hpipe
    rcases hj : ownJobs (.rebuild seg) [5] d with ⟨ok, x⟩
    rw [hj] at hown
    obtain rfl : ok = true := hown
    rfl

theorem rowJob_kept {seg : Nat} {bad : List Nat} {d : Dev} (hready : rowReady seg bad d) :
    LanesKept d (rowJob seg bad d) ∧ StripesKept d (rowJob seg bad d) ∧ Spared d (rowJob seg bad d) := by
  rw [rowJob]
  split
  · exact ⟨.refl d, ⟨rfl, rfl, rfl, fun _ => rfl⟩, .refl d⟩
  case isFalse hnone =>
    obtain ⟨hserves, hpipe⟩ := hready.resolve_left (by simpa using hnone)
    exact ⟨lanesKept_ownJobs hserves hpipe, stripesKept_ownJobs hserves hpipe, spared_ownJobs hserves hpipe⟩

/-- Under a grant the row is counted against RATE. -/
theorem rate_rowStep {seg : Nat} {bad : List Nat} {d : Dev} (hgrant : hasGrant (.engine (nextEngine seg d)) 3 d = true)
    (hready : rowReady seg bad d) : (rowStep seg bad d).ftl.rate = (tempoNow d / 1000, rowsThisWindow d + 1) := by
  obtain ⟨-, -, hjob⟩ := rowJob_kept hready
  have htempo : tempoNow (rowJob seg bad d) = tempoNow d := hjob.rd (f := Reg.TMP_NUMBER_NUMBER) (by decide)
  rw [rowStep_of_grant hgrant hready, (spared_rebuildOne ..).rate, rowCounted]
  dsimp only
  rw [htempo, rowsThisWindow, htempo, hjob.rate]; rfl

/-- Under a grant the row goes out to the replacements that lack it. -/
theorem rowOut_rowStep {seg : Nat} {d : Dev} (hgrant : hasGrant (.engine (nextEngine seg d)) 3 d = true) (hready : rowReady seg [] d)
    (hmiss : (rebuildMissing seg (nextRow seg d) [] d).length ≤ 2) (hinj : d.flt.inj = none)
    (ho : ∀ y ∈ replOf seg d, y.issued = nextRow seg d → LaneOpen y.member d) :
    RowOut seg (nextRow seg d) d (rowStep seg [] d) := by
  obtain ⟨hlanes, hstripes, -⟩ := rowJob_kept hready
  have hkept : LanesKept d (rowCounted (rowJob seg [] d)) := hlanes.trans (lanesKept_of_regs rfl rfl rfl rfl rfl)
  have hrepl : replOf seg (rowCounted (rowJob seg [] d)) = replOf seg d := by rw [replOf, getRebuild, hkept.rebuild]; rfl
  rw [rowStep_of_grant hgrant hready]
  refine .of_kept hkept (rowOut_rebuildOne ?_ (hkept.inj.trans hinj) fun y hy hi => hkept.lanes _ (ho y (hrepl ▸ hy) hi))
  show (rebuildMissing seg (nextRow seg d) [] (rowJob seg [] d)).length ≤ 2
  rwa [rebuildMissing_of_kept hstripes]

/-! ### The page of a rebuilt segment -/

/-- What the writing of a page leaves: nothing owed, and the rebuild queue and the news as they were. -/
structure QueueKept (d e : Dev) : Prop where
  todo : e.todo = d.todo
  rebuild : e.ftl.rebuild = d.ftl.rebuild
  news : e.ftl.news = d.ftl.news

/-- Its changes before any record: the journal and who must acknowledge it stand too. -/
structure PageKept (d e : Dev) : Prop extends QueueKept d e where
  cas : e.cas = d.cas
  members : e.md.members = d.md.members
  own : e.md.tsnOwn = d.md.tsnOwn
  journal : e.stg.journal = d.stg.journal

theorem QueueKept.trans {a b c : Dev} (h : QueueKept a b) (k : QueueKept b c) : QueueKept a c :=
  ⟨k.todo.trans h.todo, k.rebuild.trans h.rebuild, k.news.trans h.news⟩

theorem PageKept.refl (d : Dev) : PageKept d d := ⟨⟨rfl, rfl, rfl⟩, rfl, rfl, rfl, rfl⟩

theorem PageKept.trans {a b c : Dev} (h : PageKept a b) (k : PageKept b c) : PageKept a c :=
  ⟨h.toQueueKept.trans k.toQueueKept, k.cas.trans h.cas, k.members.trans h.members, k.own.trans h.own, k.journal.trans h.journal⟩

theorem PageKept.journalQuiet {d e : Dev} (h : PageKept d e) (hq : journalQuiet d) : journalQuiet e := by
  obtain ⟨hpeer, hwaits⟩ := hq
  have halone : ∀ p, aloneFor p e = aloneFor p d := fun p => by
    calc aloneFor p e = aloneFor p { d with cas := e.cas, md.members := e.md.members } := rfl
      _ = aloneFor p d := by rw [h.cas, h.members]
  exact ⟨fun p => (halone p).trans (hpeer p), fun r hr ht => hwaits r (h.journal ▸ hr) (h.own ▸ ht)⟩

theorem pageKept_wr (f : Field) (v : Nat) (d : Dev) : PageKept d (wr f v d) := ⟨⟨rfl, rfl, rfl⟩, rfl, rfl, rfl, rfl⟩

theorem pageKept_foldl {α : Type} {f : Dev → α → Dev} (h : ∀ d x, PageKept d (f d x)) (l : List α) (d : Dev) : PageKept d (l.foldl f d) := by
  induction l generalizing d with
  | nil => exact .refl d
  | cons x l ih => exact (h d x).trans (ih (f d x))

theorem pageKept_touchPage (k i : Nat) (d : Dev) : PageKept d (touchPage k i d) := by
  dsimp only [touchPage]
  split
  · exact .refl d
  · exact ⟨⟨rfl, rfl, rfl⟩, rfl, rfl, rfl, rfl⟩

theorem pageKept_modSeg (s : Nat) (f : Seg → Seg) (d : Dev) : PageKept d (modSeg s f d) := by
  have hseg : PageKept d { d with md.segs := tmod {} d.md.segs s f } := ⟨⟨rfl, rfl, rfl⟩, rfl, rfl, rfl, rfl⟩
  dsimp only [modSeg]
  split
  · exact hseg
  · exact hseg.trans (pageKept_touchPage ..)

theorem pageKept_segBlocks (g : Seg) (f : Blk → Blk) (d : Dev) : PageKept d (segBlocks g f d) := by
  refine pageKept_foldl (fun d c => ?_) g.cols d
  exact .trans (b := { d with md.blocks := tmod {} d.md.blocks (blkKey c.member c.block) f }) ⟨⟨rfl, rfl, rfl⟩, rfl, rfl, rfl, rfl⟩
    (pageKept_touchPage ..)

theorem pageKept_showPools (d : Dev) : PageKept d (showPools d) := by
  dsimp only [showPools]
  exact .trans (pageKept_foldl (fun d _ => .trans (pageKept_wr ..) (pageKept_wr ..)) _ d) (pageKept_wr ..)

theorem queueKept_postRecord {d : Dev} (h : journalQuiet d) (nsid : Nat) (body : JBody) : QueueKept d (postRecord nsid body d) := by
  have hpost := (pausedFrom_postRecord h nsid body).rest
  exact ⟨by rw [hpost]; rfl, by rw [hpost]; rfl, by rw [hpost]; rfl⟩

theorem queueKept_posted {c d : Dev} {s nsid : Nat} {k : Seg → Seg} {f : Blk → Blk} {g : Seg} {body : JBody} (h : PageKept c d)
    (hq : journalQuiet c) : QueueKept c (postRecord nsid body (showPools (segBlocks g f (modSeg s k d)))) := by
  have hkept := ((h.trans (pageKept_modSeg s k d)).trans (pageKept_segBlocks g f _)).trans (pageKept_showPools _)
  exact hkept.toQueueKept.trans (queueKept_postRecord (hkept.journalQuiet hq) ..)

/-- A segment that opens posts one record, which waits for the peer. -/
theorem queueKept_openSegment {p s : Nat} {gc isMeta : Bool} {d e : Dev} (hq : journalQuiet d) (h : Machine.openSegment p gc isMeta d = some (s, e)) :
    QueueKept d e := by
  unfold Machine.openSegment at h
  dsimp only at h
  split at h
  · cases h
  · split at h
    · cases h
    next i cs _ =>
      obtain ⟨-, rfl⟩ := Prod.mk.inj (Option.some.inj h)
      have hpool : PageKept d { modPool p (fun q => { q with linePtr := (i + 1) % 1024 }) d with md.segNext := d.md.segNext + 1 } :=
        ⟨⟨rfl, rfl, rfl⟩, rfl, rfl, rfl, rfl⟩
      exact queueKept_posted hpool hq

theorem queueKept_rowSegment {p kind s : Nat} {d e : Dev} (hq : journalQuiet d) (h : rowSegment p kind d = some (s, e)) : QueueKept d e := by
  unfold rowSegment at h
  split at h
  · obtain ⟨-, rfl⟩ := Prod.mk.inj (Option.some.inj h)
    exact (PageKept.refl d).toQueueKept
  · exact queueKept_openSegment hq h

theorem queueKept_openRow {engine p kind n : Nat} {d e : Dev} (hq : journalQuiet d) (h : openRow engine p kind d = some (n, e)) :
    QueueKept d e := by
  unfold openRow at h
  split at h
  · cases h
  next s x hseg =>
    obtain ⟨-, rfl⟩ := Prod.mk.inj (Option.some.inj h)
    exact (queueKept_rowSegment hq hseg).trans (.trans (pageKept_modSeg ..).toQueueKept ⟨rfl, rfl, rfl⟩)

theorem pageKept_closeRow (n : Nat) (d : Dev) : PageKept d (closeRow n d) := by
  dsimp only [closeRow]
  split <;> exact ⟨⟨rfl, rfl, rfl⟩, rfl, rfl, rfl, rfl⟩

/-- The open row closes before a frame that does not fit in it. -/
def closeFull (engine p kind : Nat) (f : FrameRef) (d : Dev) : Dev :=
  match openRowOf engine kind d with
  | some n =>
    let r := getRow n d
    if r.pool != p || rowUsed r + 16 * f.slen > rowSpace r d then closeRow n d else d
  | none => d

theorem pageKept_closeFull (engine p kind : Nat) (f : FrameRef) (d : Dev) : PageKept d (closeFull engine p kind f d) := by
  dsimp only [closeFull]
  split
  · split
    · exact pageKept_closeRow ..
    · exact .refl d
  · exact .refl d

theorem placeFrame_eq (engine p kind : Nat) (f : FrameRef) (d : Dev) : placeFrame engine p kind f d =
    match (match openRowOf engine kind (closeFull engine p kind f d) with
      | some n => some (n, closeFull engine p kind f d)
      | none => openRow engine p kind (closeFull engine p kind f d)) with
    | some (n, d) => (some n, modRow n (fun r => { r with
        frames := r.frames ++ [{ f with off := rowUsed r / 16 }], first := if r.frames.isEmpty then tempoNow d else r.first }) d)
    | none => (none, closeFull engine p kind f d) := by
  unfold placeFrame closeFull
  rfl

theorem queueKept_placeFrame (engine p kind : Nat) (f : FrameRef) {d : Dev} (hq : journalQuiet d) : QueueKept d (placeFrame engine p kind f d).2 := by
  have hclosed := pageKept_closeFull engine p kind f d
  rw [placeFrame_eq]
  generalize closeFull engine p kind f d = x at hclosed ⊢
  split
  next n e hgo =>
    have hopened : QueueKept x e := by
      split at hgo
      · obtain ⟨-, rfl⟩ := Prod.mk.inj (Option.some.inj hgo)
        exact (PageKept.refl x).toQueueKept
      · exact queueKept_openRow (hclosed.journalQuiet hq) hgo
    exact (hclosed.toQueueKept.trans hopened).trans ⟨rfl, rfl, rfl⟩
  · exact hclosed.toQueueKept

theorem queueKept_placePage (kind page : Nat) {d : Dev} (hq : journalQuiet d) : QueueKept d (placePage kind page d).2 := by
  have hplaced := queueKept_placeFrame 64 (pagePool page d) kind ⟨page, none, 0, 260, (drawBytes 4160 d).1, none⟩ (d := (drawBytes 4160 d).2) hq
  have hfree : QueueKept d (placeFrame 64 (pagePool page d) kind ⟨page, none, 0, 260, (drawBytes 4160 d).1, none⟩ (drawBytes 4160 d).2).2 :=
    ⟨hplaced.todo, hplaced.rebuild, hplaced.news⟩
  unfold placePage
  dsimp only
  show QueueKept d (match placeFrame 64 (pagePool page d) kind ⟨page, none, 0, 260, (drawBytes 4160 d).1, none⟩ (drawBytes 4160 d).2 with
    | (some _, d) => (true, { d with ftl.dirty := d.ftl.dirty.filter (· != page) })
    | (none, d) => (false, d)).2
  rcases hp : placeFrame 64 (pagePool page d) kind ⟨page, none, 0, 260, (drawBytes 4160 d).1, none⟩ (drawBytes 4160 d).2 with ⟨_ | n, e⟩
  · rw [hp] at hfree; exact hfree
  · rw [hp] at hfree; exact ⟨hfree.todo, hfree.rebuild, hfree.news⟩

/-- The page's news is noted, and the rebuild queue stands. -/
theorem queueKept_writeNews (page : Nat) (x : PageNews) {d : Dev} (hq : journalQuiet d) :
    QueueKept { d with ftl.news := d.ftl.news ++ [(page, x)] } (writeNews page x d).2 := by
  have hplaced := queueKept_placePage 3 page (d := { d with ftl.news := d.ftl.news ++ [(page, x)] }) hq
  unfold writeNews
  dsimp only
  split
  · exact hplaced.trans (pageKept_closeRow ..).toQueueKept
  · exact hplaced

/-! ### The commit of a rebuilt segment -/

/-- The page of a rebuilt segment is written with its new columns (R429). -/
theorem rebuildCommit_runsTo {s : State} {seg : Nat} {r : Rebuild} (hready : s.ready) (hcalm : inTrouble s.dev.quiet = false)
    (hr : getRebuild seg s.dev.quiet = some r) (hsome : r.repl ≠ []) (hall : ∀ c ∈ missingCols seg s.dev.quiet, ∃ x ∈ r.repl, x.col = c)
    (hdone : ∀ x ∈ r.repl, x.done = (getSeg seg s.dev.quiet).rows) (hnew : r.written = false)
    (hok : (writeNews (3 * 2 ^ 60 + seg / 32) (.columns seg (newColumns seg r s.dev.quiet)) s.dev.quiet).1 = true) :
    RunsTo (.rebuildCommit seg) s (modRebuild seg (fun r => { r with written := true })
      (writeNews (3 * 2 ^ 60 + seg / 32) (.columns seg (newColumns seg r s.dev.quiet)) s.dev.quiet).2) := by
  refine runsTo_of_live (execRebuildCommit seg s) rfl rfl hready ?_
  generalize s.dev.quiet = d at *
  have hcovered : (missingCols seg d).all (fun c => r.repl.any fun x => x.col == c && x.done == (getSeg seg d).rows) = true := by
    refine List.all_eq_true.2 fun c hc => ?_
    obtain ⟨x, hx, hcol⟩ := hall c hc
    exact List.any_eq_true.2 ⟨x, hx, by simp [hcol, hdone x hx]⟩
  have hlate : r.repl.any (fun x => x.done != (getSeg seg d).rows) = false := by
    simpa using hdone
  have hgo : ¬(inTrouble d || r.written || !(missingCols seg d).all (fun c => r.repl.any fun x => x.col == c && x.done == (getSeg seg d).rows) ||
      r.repl.isEmpty || r.repl.any (fun x => x.done != (getSeg seg d).rows)) = true := by
    rw [hcalm, hnew, hcovered, hlate]
    simpa using hsome
  dsimp only
  rw [hr]
  dsimp only
  rw [if_neg hgo]
  rcases hw : writeNews (3 * 2 ^ 60 + seg / 32) (.columns seg (newColumns seg r d)) d with ⟨ok, e⟩
  rw [hw] at hok
  obtain rfl : ok = true := hok
  rfl

/-- The columns of a segment after its news. -/
theorem cols_applyNews {seg : Nat} {cols : List Col} {d : Dev} (hclosed : (getSeg seg d).state = 2) :
    (getSeg seg (applyNews (.columns seg cols) d)).cols = cols ∧ (applyNews (.columns seg cols) d).md.members = d.md.members := by
  have hblocks : ∀ g f d, (segBlocks g f d).md.segs = d.md.segs := fun g f d => by
    unfold segBlocks
    induction g.cols generalizing d with
    | nil => rfl
    | cons c l ih =>
      rw [List.foldl_cons, ih, modBlk, touchPage]
      split <;> rfl
  have hseg : ∀ f d, getSeg seg (modSeg seg f d) = f (getSeg seg d) := fun f d => by
    have hput : getSeg seg { d with md.segs := tmod {} d.md.segs seg f } = f (getSeg seg d) := by rw [getSeg, tget_tmod, if_pos rfl]; rfl
    unfold modSeg touchPage
    dsimp only
    repeat' split
    all_goals exact hput
  unfold applyNews
  dsimp only
  rw [if_neg (by omega)]
  exact ⟨by rw [getSeg, hblocks]; exact congrArg Seg.cols (hseg _ d), ((pageKept_modSeg ..).trans (pageKept_segBlocks ..)).members⟩

theorem queueRebuild_of_sound {seg : Nat} {d : Dev} (h : failedCols seg d = 0) : queueRebuild seg d = d := by
  refine if_pos ?_
  simp only [h, decide_true, Bool.or_true, Bool.true_or]

theorem showRebuild_kept (d : Dev) : (showRebuild d).md = d.md ∧ (showRebuild d).ftl = d.ftl := by
  unfold showRebuild
  exact ⟨(wr_md ..).trans ((wr_md ..).trans (wr_md ..)), (wr_ftl ..).trans ((wr_ftl ..).trans (wr_ftl ..))⟩

/-- A segment none of whose columns has failed leaves the queue. -/
theorem getRebuild_endRebuild {seg : Nat} {d : Dev} (h : ∀ y ∈ (getSeg seg d).cols, colFailed y d = false) :
    getRebuild seg (endRebuild seg d) = none := by
  have hnone : ∀ e : Dev, e.md = d.md → failedCols seg e = 0 := fun e he => by
    have hcol : ∀ y, colFailed y e = colFailed y d := fun y => by rw [colFailed, he]; rfl
    have hcols : (getSeg seg e).cols = (getSeg seg d).cols := by rw [getSeg, he]; rfl
    rw [failedCols, hcols, List.length_eq_zero_iff, List.filter_eq_nil_iff]
    exact fun y hy => by rw [hcol, h y hy]; decide
  have hleft : ∀ e : Dev, e.md = d.md → e.ftl.rebuild = d.ftl.rebuild.filter (·.seg != seg) →
      getRebuild seg (queueRebuild seg (showRebuild e)) = none := fun e hmd hrb => by
    obtain ⟨hmd', hftl⟩ := showRebuild_kept e
    rw [queueRebuild_of_sound (hnone _ (hmd'.trans hmd)), getRebuild, hftl, hrb]
    simp
  unfold endRebuild
  dsimp only
  split
  · exact hleft _ rfl rfl
  · exact hleft _ rfl rfl

/-! ### An absent member -/

/-- The member is declared from the next edge, and its open segments close short (R423). -/
theorem memberGraceExpire_runsTo {s : State} {n : Fin 64} {t : Nat} (hready : s.ready) (hgone : (getLink n s.dev.quiet).absent = some t)
    (hadopted : (tget {} s.dev.quiet.md.members n.val).adopted = true) (hlive : (tget {} s.dev.quiet.md.members n.val).declared = false)
    (hnew : n.val ∉ s.dev.quiet.ftl.declare) (hdue : t + rd Reg.ERS_RB_GRACE s.dev.quiet ≤ nowSec s.dev.quiet) :
    RunsTo (.memberGraceExpire n) s (closeMember n.val { s.dev.quiet with ftl.declare := s.dev.quiet.ftl.declare ++ [n.val] }) := by
  refine runsTo_of_live (execMemberGraceExpire n s) rfl rfl hready ?_
  generalize s.dev.quiet = d at *
  dsimp only
  rw [hgone]
  dsimp only
  rw [if_pos]
  simp [hadopted, hlive, hnew, hdue]

theorem spared_closeMember (m : Nat) (d : Dev) : Spared d (closeMember m d) :=
  .of_by (spared_forEach _ _ _ fun _ _ => .of_by fun _ => spared_closeShort ..)

/-! ### O39 -/

/-- Settles O39: what a row's job, its reads and its programs leave of the lanes and of the rebuild queue is said step by step; RATE's
window and the members to be declared are spared by every reaction. -/
theorem membersFailAndRebuild : Obligations.MembersFailAndRebuild := by
  unfold Obligations.MembersFailAndRebuild
  intro s hready hcalm
  refine ⟨?_, ?_, ?_, ?_⟩
  · intro n t hgone hadopted hlive hnew hdue
    exact (memberGraceExpire_runsTo hready hgone hadopted hlive hnew hdue).spared fun g hg =>
      hg.declare _ ((spared_closeMember ..).declare _ (by simp))
  · intro seg bad g e0 rs row e who hfirst hclosed hunwritten hmine hflying hrate hsome hrow halone
    have hdue : RowDue seg s.dev.quiet := ⟨hcalm, hfirst, hclosed, hunwritten, hmine, hflying, hrate⟩
    have hchosen : Chosen s.dev.quiet e0 := chosen_chooseReplacements seg s.dev.quiet
    have hnext : row = nextRow seg e0 := by
      rw [nextRow, hchosen.getSeg]; rfl
    have heng : e = nextEngine seg e0 := by
      rw [nextEngine, hchosen.rowEngine, ← hnext]; rfl
    have hruns : RunsTo (.rebuildRow seg bad) s (rowStep seg bad e0) :=
      rebuildRow_runsTo hready hdue hsome (hnext ▸ hrow) (heng ▸ halone)
    have hwho : who = .engine (nextEngine seg e0) := congrArg TokWho.engine heng
    clear_value who row e e0
    subst hnext heng hwho
    refine ⟨fun hnone hnew => ?_, fun hgrant hpipe => ?_⟩
    · have hstep : rowStep seg bad e0 = rowAsked seg e0 := rowStep_of_no_grant ((hchosen.hasGrant ..).trans hnone) (by rw [hchosen.pwr]; exact hnew)
      rw [hstep] at hruns
      refine hruns.answers (hchosen.todo.trans hready.2) fun d hd => ⟨?_, fun c x hc hx q hq hw hq3 => ?_⟩
      · rw [hd.pwr, rowAsked]
        show (e0.pwr.waiting ++ [rowRequest seg e0]).map (fun q => (q.who, q.cls)) = _
        rw [hchosen.pwr, List.map_append]
        rfl
      · rw [hd.pwr] at hq
        rcases List.mem_append.1 hq with hold | hnew'
        · exact absurd hq3 (hnew q (hchosen.pwr ▸ hold) hw)
        · rw [List.mem_singleton.1 hnew', rowRequest, hchosen.missingCols, show missingCols seg s.dev.quiet = [c] from hc, hchosen.getSeg,
            show replOf seg e0 = [x] from hx]
          rfl
    · have hgrant' : hasGrant (.engine (nextEngine seg e0)) 3 e0 = true := (hchosen.hasGrant ..).trans hgrant
      have hpipe' : rowReady seg bad e0 :=
        hpipe.imp id fun h => ⟨(hchosen.laneServes 5).trans h.1, hchosen.pipeReady h.2⟩
      refine ⟨⟨finish (rowStep seg bad e0), s.pending⟩, hruns, rfl, ?_, fun hbad hinj hmiss hlanes => ?_⟩
      · rw [(Spared.of_by (spared_finish (rowStep seg bad e0))).rate, rate_rowStep hgrant' hpipe', hchosen.tempoNow, hchosen.rowsThisWindow]
        rfl
      · subst hbad
        have hopen : ∀ y ∈ replOf seg e0, y.issued = nextRow seg e0 → LaneOpen y.member e0 := fun y hy hi => by
          obtain ⟨hup, hpln, hcmd, hdata, hfence⟩ := hlanes y hy hi
          exact hchosen.laneOpen ⟨hup, hpln, hcmd, hdata, hfence⟩
        have hfew : (rebuildMissing seg (nextRow seg e0) [] e0).length ≤ 2 := by
          rw [rebuildMissing, hchosen.getSeg]; exact hmiss
        obtain ⟨htodo, hrepl, hprog⟩ := rowOut_rowStep hgrant' hpipe' hfew (by rw [hchosen.flt]; exact hinj) hopen
        have hd := EndedFrom.finish (rowStep seg [] e0) (htodo.trans (hchosen.todo.trans hready.2))
        refine ⟨?_, fun y hy hi => ?_⟩
        · rcases hr : getRebuild seg e0 with _ | r
          · exact absurd (by simp [rs, hr]) hsome
          · have hgot : getRebuild seg (finish (rowStep seg [] e0)) = getRebuild seg (rowStep seg [] e0) := by rw [getRebuild, hd.ftl]; rfl
            rw [hgot, hrepl, hr, show rs = r.repl from by simp [rs, hr]]
            rfl
        · have hgot : ∀ m, getLink m (finish (rowStep seg [] e0)) = getLink m (rowStep seg [] e0) := fun m => by rw [getLink, hd.lanes12]; rfl
          rw [hgot]
          exact hprog y hy hi
  · intro seg r hr hsome hall hdone hnew hok hquiet
    have hkept := queueKept_writeNews (3 * 2 ^ 60 + seg / 32) (.columns seg (newColumns seg r s.dev.quiet)) (d := s.dev.quiet) hquiet
    refine (rebuildCommit_runsTo hready hcalm hr hsome hall hdone hnew hok).answers (hkept.todo.trans hready.2) fun d hd => ⟨?_, ?_⟩
    · rw [getRebuild, hd.ftl]
      refine (getRebuild_modRebuild (f := fun r => { r with written := true }) (fun _ => rfl) _).trans ?_
      rw [getRebuild, hkept.rebuild]
      exact congrArg (Option.map _) hr
    · rw [hd.ftl]
      show _ ∈ (writeNews _ _ _).2.ftl.news
      rw [hkept.news]
      exact List.mem_append_right _ (List.mem_singleton.2 rfl)
  · intro seg r q hclosed hsound hnews hbody
    obtain ⟨l, hl⟩ := hbody
    obtain ⟨hcols, hmembers⟩ := cols_applyNews (cols := newColumns seg r s.dev) hclosed
    refine ⟨hcols, ?_⟩
    unfold afterCommit
    rw [hl, hnews]
    refine getRebuild_endRebuild fun y hy => ?_
    rw [hcols] at hy
    rw [colFailed, hmembers]
    exact hsound y hy

end Sys2Proof.Proofs

/-!
PROOFS. An admin command taken at once: its acceptance in a record, the checks that it passes, and its completion (R161, R166, R501).
-/

namespace Sys2Proof.Proofs

open Sys2Proof Sys2Proof.Machine

/-! ### Acceptance -/

/-- The device with a command accepted in a record and given to its engine. -/
def accepted (op : NvmeOp) (n : Nat) (c : HostCmd) (d : Dev) : Dev :=
  let x := acceptCmd n op c (if opCls op = 1 then (cmdSpan op c d).1 else 0) (if opCls op = 1 then (cmdSpan op c d).2 else 0) d
  modFc n (fun f => { f with engine := frontEngine c.ctx x }) x

theorem acceptAndRun_admin {op : NvmeOp} (hop : isAdmin op = true) (n : Nat) (c : HostCmd) (d : Dev) :
    acceptAndRun op n c d = perform op n (accepted op n c d) := by
  unfold acceptAndRun accepted
  simp only [hop, if_true]

/-- The counters of commands. -/
abbrev acceptRegs : List Nat := [Reg.NVF_CMD_ACC_ACCEPTED.off, Reg.NVF_CMD_OUT_OUTSTANDING.off, Reg.NVF_ABORT_REQUESTS.off]

/-- What acceptance changes: the command tables, the watch for power failures, counters, and what is sent. -/
structure AcceptOnly (d e : Dev) : Prop where
  rest : e = { d with regs := e.regs, free := e.free, out := e.out, cas.cmds := e.cas.cmds, front.cmds := e.front.cmds, pwr.pfWatch := e.pwr.pfWatch }
  rdReg : ∀ o, o ∉ acceptRegs → Machine.rdReg o e = Machine.rdReg o d

theorem AcceptOnly.trans {a b c : Dev} (h : AcceptOnly a b) (k : AcceptOnly b c) : AcceptOnly a c :=
  ⟨by rw [k.rest, h.rest], fun o ho => (k.rdReg o ho).trans (h.rdReg o ho)⟩

theorem AcceptOnly.rd {d e : Dev} (h : AcceptOnly d e) (f : Field) (hf : f.off ∉ acceptRegs) : Machine.rd f e = Machine.rd f d := by
  have hreg := h.rdReg f.off hf
  simp only [Machine.rdReg] at hreg
  rw [Machine.rd, Machine.rd, hreg]

theorem acceptOnly_quiet (d : Dev) : AcceptOnly d d.quiet := ⟨rfl, fun _ _ => rfl⟩

theorem bump_rest (f : Field) (d : Dev) : bump f d = { d with regs := (bump f d).regs, free := (bump f d).free } := by
  rw [bump_eq, bumpBy]; split <;> rfl

theorem acceptOnly_accepted (op : NvmeOp) (n : Nat) (c : HostCmd) (d : Dev) : AcceptOnly d (accepted op n c d) := by
  unfold accepted acceptCmd
  dsimp only [modFc, send]
  refine ⟨?_, fun f hf => ?_⟩
  · rw [bump_rest Reg.NVF_CMD_ACC_ACCEPTED, bump_rest Reg.NVF_CMD_OUT_OUTSTANDING]
  · simp only [acceptRegs, List.mem_cons, not_or] at hf
    exact (rdReg_bump_off hf.1 _).trans (rdReg_bump_off hf.2.1 _)

/-- A command accepted in a record, not yet done: what its completion is made of. `own`: the record needs no acknowledgement. -/
structure CmdOpen (n : Nat) (c : HostCmd) (dw0 : Nat) (own : Bool) (d : Dev) : Prop where
  cmd : (getFc n d).cmd = c
  ready : (getFc n d).ready = none
  posted : (getFc n d).posted = false
  torn : (getFc n d).torn = false
  dw0 : (if (getFc n d).op = .abort then 1 else (getFc n d).dw0) = dw0
  acked : (getCmd n d).acked = own
  ctx : (getCmd n d).ctx = c.ctx
  cid : (getCmd n d).cid = c.cid
  held : d.cas.outputsHeld = false

theorem getFc_modFc (n m : Nat) (f : FrontCmd → FrontCmd) (d : Dev) : getFc m (modFc n f d) = if m = n then f (getFc n d) else getFc m d :=
  tget_tmod

theorem getFc_acceptCmd (op : NvmeOp) (n nsq sq : Nat) (c : HostCmd) (d : Dev) : getFc n (acceptCmd n op c nsq sq d) = { op := op, cmd := c } := by
  unfold acceptCmd
  dsimp only [getFc, send]
  rw [bump_rest Reg.NVF_CMD_ACC_ACCEPTED, bump_rest Reg.NVF_CMD_OUT_OUTSTANDING]
  exact tget_tset_same

theorem getFc_accepted (op : NvmeOp) (n : Nat) (c : HostCmd) (d : Dev) : ∃ e, getFc n (accepted op n c d) = { op := op, cmd := c, engine := e } := by
  unfold accepted
  dsimp only
  rw [getFc_modFc, if_pos rfl, getFc_acceptCmd]
  exact ⟨_, rfl⟩

theorem getCmd_accepted (op : NvmeOp) (n : Nat) (c : HostCmd) (d : Dev) : (getCmd n (accepted op n c d)).acked = alone d ∧
    (getCmd n (accepted op n c d)).ctx = c.ctx ∧ (getCmd n (accepted op n c d)).cid = c.cid := by
  unfold accepted acceptCmd
  dsimp only [getCmd, send, modFc]
  rw [bump_rest Reg.NVF_CMD_ACC_ACCEPTED, bump_rest Reg.NVF_CMD_OUT_OUTSTANDING]
  dsimp only
  rw [tget_tset_same]
  exact ⟨rfl, rfl, rfl⟩

theorem cmdOpen_accepted {op : NvmeOp} {n : Nat} {c : HostCmd} {d : Dev} (hheld : d.cas.outputsHeld = false) :
    CmdOpen n c (if op = .abort then 1 else 0) (alone d) (accepted op n c d) := by
  obtain ⟨e, hfc⟩ := getFc_accepted op n c d
  obtain ⟨hacked, hctx, hcid⟩ := getCmd_accepted op n c d
  refine ⟨?_, ?_, ?_, ?_, ?_, hacked, hctx, hcid, ?_⟩
  any_goals rw [hfc]
  rw [(acceptOnly_accepted op n c d).rest]
  exact hheld

/-! ### Completion -/

/-- A command has been completed in `e`, which was open in `d`. -/
structure Completed (n : Nat) (c : HostCmd) (st dw0 : Nat) (own : Bool) (d e : Dev) : Prop where
  ready : ∃ dnr, (getFc n e).ready = some (st, dnr) ∧ (own = true → Out.completion c.ctx c.cid st dnr dw0 ∈ e.out)
  rest : e = { d with free := e.free, front.cmds := e.front.cmds, out := e.out }
  out : ∀ o ∈ d.out, o ∈ e.out

section
variable {n dw0 st : Nat} {c : HostCmd} {own : Bool} {d e : Dev}

theorem CmdOpen.complete (h : CmdOpen n c dw0 own d) (hvia : c.viaPeer = false) (dnr : Bool) :
    (getFc n (Machine.complete n st dnr d)).ready = some (st, dnr) ∧
      (own = true → Out.completion c.ctx c.cid st dnr dw0 ∈ (Machine.complete n st dnr d).out) ∧
      Completed n c st dw0 own d (Machine.complete n st dnr d) := by
  obtain ⟨hcmd, hready, hposted, htorn, hdw0, hacked, hctx, hcid, hheld⟩ := h
  have hfc : getFc n (modFc n (fun f => { f with ready := some (st, dnr) }) d) = { getFc n d with ready := some (st, dnr) } :=
    (getFc_modFc ..).trans (if_pos rfl)
  have hstep : Machine.complete n st dnr d = postCompletion n (modFc n (fun f => { f with ready := some (st, dnr) }) d) := by
    rw [Machine.complete, if_neg (by simp [hready])]
  have hrec : getCmd n (modFc n (fun f => { f with ready := some (st, dnr) }) d) = getCmd n d := rfl
  have hdone : (getFc n (Machine.complete n st dnr d)).ready = some (st, dnr) ∧
      (own = true → Out.completion c.ctx c.cid st dnr dw0 ∈ (Machine.complete n st dnr d).out) ∧
      Machine.complete n st dnr d = { d with free := (Machine.complete n st dnr d).free, front.cmds := (Machine.complete n st dnr d).front.cmds, out := (Machine.complete n st dnr d).out } ∧
      ∀ o ∈ d.out, o ∈ (Machine.complete n st dnr d).out := by
    rw [hstep, postCompletion]
    dsimp only
    rw [hfc]
    dsimp only
    rw [hrec, hacked, hposted, htorn]
    by_cases hown : own = true
    · have hpost : (own && !(modFc n (fun f => { f with ready := some (st, dnr) }) d).cas.outputsHeld && !false) = true := by
        rw [hown]; exact congrArg (fun b => true && !b && !false) hheld
      have hheld' : ∀ f, ¬(modFc n f (modFc n (fun f => { f with ready := some (st, dnr) }) d)).cas.outputsHeld = true := fun f => by
        rw [show (modFc n f (modFc n (fun f => { f with ready := some (st, dnr) }) d)).cas.outputsHeld = false from hheld]; decide
      rw [if_pos hpost, if_neg (by decide), hostOut, if_neg (hheld' _), hcmd, if_neg (by simp [hvia]), hdw0, hctx, hcid]
      refine ⟨?_, fun _ => List.mem_append_right _ (List.mem_singleton.2 rfl), rfl, fun o ho => List.mem_append_left _ ho⟩
      exact congrArg FrontCmd.ready ((getFc_modFc n n _ _).trans ((if_pos rfl).trans (congrArg (fun f : FrontCmd => { f with posted := true }) hfc)))
    · have hoff : own = false := by simpa using hown
      rw [if_neg (by simp [hoff])]
      exact ⟨by rw [hfc], fun h => absurd h hown, rfl, fun o ho => ho⟩
  obtain ⟨hr, ho, hrest, hout⟩ := hdone
  exact ⟨hr, ho, ⟨dnr, hr, ho⟩, hrest, hout⟩

theorem CmdOpen.completeOpen (h : CmdOpen n c dw0 own d) (hvia : c.viaPeer = false) :
    Completed n c st dw0 own d (Machine.completeOpen n st d) := by
  rw [Machine.completeOpen]
  split
  next hst =>
    subst hst
    exact (h.complete hvia false).2.2
  · have hdrawn : CmdOpen n c dw0 own (drawNat 2 d).2 := ⟨h.cmd, h.ready, h.posted, h.torn, h.dw0, h.acked, h.ctx, h.cid, h.held⟩
    obtain ⟨hready, hrest, hout⟩ := (hdrawn.complete (st := st) hvia ((drawNat 2 d).1 = 1)).2.2
    exact ⟨hready, hrest, hout⟩

/-- The command has ended, seen from the device before it. -/
theorem Completed.ended {g s : Dev} (h : Completed n c st dw0 (alone s) d e) (hg : EndedFrom e g) : Ended c n st dw0 s g := by
  obtain ⟨dnr, hready, hout⟩ := h.ready
  have hfc : getFc n g = getFc n e := by rw [getFc, hg.front]; rfl
  obtain ⟨l, hl⟩ := hg.out
  exact ⟨dnr, by rw [hfc]; exact hready, fun halone => by rw [hl]; exact List.mem_append_left _ (hout halone)⟩

theorem Completed.mem_out {g : Dev} {o : Out} (h : Completed n c st dw0 own d e) (hg : EndedFrom e g) (ho : o ∈ d.out) : o ∈ g.out := by
  obtain ⟨l, hl⟩ := hg.out
  rw [hl]
  exact List.mem_append_left _ (h.out o ho)

end

/-! ### Submission -/

theorem countAbort_other {op : NvmeOp} (h : op ≠ .abort) (d : Dev) : countAbort op d = d := if_neg h

theorem hostHeld_countAbort (op : NvmeOp) (d : Dev) : hostHeld (countAbort op d) = hostHeld d := by
  by_cases h : op = .abort
  · have htt : rd Reg.PWR_STATUS_TT (countAbort op d) = rd Reg.PWR_STATUS_TT d := by rw [countAbort, if_pos h]; exact rd_bump_off (by decide) d
    have hrest : countAbort op d = { d with regs := (countAbort op d).regs, free := (countAbort op d).free } := by
      rw [countAbort, if_pos h]; exact bump_rest ..
    dsimp only [hostHeld, rdb, peerLost]
    rw [htt, hrest]
  · rw [countAbort_other h]

section
variable {op : NvmeOp} {n : Nat} {c : HostCmd} {d : Dev}

/-- An admin capsule that is taken at once is accepted in the free record. -/
theorem submit_taken (hop : isAdmin op = true) (h : capsuleTaken op c n d) :
    submit op c d = perform op n (accepted op n c (countAbort op d)) := by
  obtain ⟨hglb, hvia, hans, hknown, hwait, -, hfree, -⟩ := h
  have hheld : hostHeld d = false := by simpa [mustWait, hop] using hwait
  have hknown' : (c.viaPeer || c.ctx = mgmtCtx || (tget {} d.front.ctxs c.ctx).opn) = true := by
    rcases hknown with hm | hm
    · simp [hm]
    · simp [show (tget {} d.front.ctxs c.ctx).opn = true from hm]
  have hwait' : mustWait op c (countAbort op d) = false := by simp [mustWait, hop, hostHeld_countAbort, hheld]
  have hfree' : freeRecord (countAbort op d) = some n := by
    by_cases ha : op = .abort
    · rw [countAbort, if_pos ha, bump_rest]; exact hfree
    · rwa [countAbort_other ha]
  rw [submit]
  dsimp only
  rw [if_neg (by simp [hknown', hglb]), hans]
  dsimp only
  rw [if_neg (by simp [hvia]), if_neg (by simp [hwait']), if_neg (by simp [isForwarded, hop]), hfree']
  exact acceptAndRun_admin hop ..

/-- The two checks of an admin command after its opcode's (rows 2 and 3 of Table 5.6). -/
def adminFields (c : HostCmd) (d : Dev) : Nat × Dev :=
  if c.ctx ≠ mgmtCtx && !c.sglOk then (0x11, d) else if !c.fieldsOk then (0x02, d) else (0, d)

theorem checkCmd_admin (hop : isAdmin op = true) : checkCmd op c d =
    if (opListed op c d).1 then adminFields c (opListed op c d).2 else (0x01, (opListed op c d).2) := by
  unfold checkCmd adminFields
  rcases opListed op c d with ⟨_ | _, e⟩
  · rfl
  · cases op with
    | read | write | compare | verify | writeZeroes | flush | dsm | resvRegister | resvReport | resvAcquire | resvRelease => cases hop
    | _ => simp [isAdmin]

/-- Checks that pass on a device pass on another where the opcode is listed too. -/
theorem checkCmd_passes {e : Dev} (hop : isAdmin op = true) (h : checksPass op c d) (hlist : opListed op c e = ((opListed op c d).1, e)) :
    checkCmd op c e = (0, e) := by
  have hd : checkCmd op c d = (0, d) := h
  rw [checkCmd_admin hop] at hd
  rw [checkCmd_admin hop, hlist]
  dsimp only
  split at hd
  next hl =>
    rw [if_pos hl]
    unfold adminFields at hd ⊢
    split at hd
    · cases hd
    next hsgl =>
      split at hd
      · cases hd
      next hfields => rw [if_neg hsgl, if_neg hfields]
  · cases hd

/-- Commands whose listing asks for no entry of the table in force. -/
def plainAdmin : NvmeOp → Bool
  | .fwDownload | .fwCommit _ => false
  | op => isAdmin op

theorem opListed_accepted {e : Dev} (hop : plainAdmin op = true) (h : AcceptOnly d e) : opListed op c e = ((opListed op c d).1, e) := by
  have hglb : glbState e = glbState d := h.rd Reg.GLB_STATE_STATE (by decide)
  have hctx : e.front.ctxs = d.front.ctxs := by rw [h.rest]
  unfold opListed
  dsimp only
  rw [hglb, hctx]
  split
  · rfl
  · split
    · rfl
    · split
      · rfl
      · cases op with
        | fwDownload | fwCommit _ => cases hop
        | _ => rfl

/-- The firmware commands are listed as before where the policy's entry stands. -/
theorem opListed_accepted_fw {e : Dev} (hspt : ∀ t, d.sxc.spt = some t → t.bad = []) (hop : isAdmin op = true) (hfw : plainAdmin op = false)
    (h : AcceptOnly d e) : opListed op c e = ((opListed op c d).1, e) := by
  have hglb : glbState e = glbState d := h.rd Reg.GLB_STATE_STATE (by decide)
  have hctx : e.front.ctxs = d.front.ctxs := by rw [h.rest]
  have hsxc : e.sxc = d.sxc := by rw [h.rest]
  have hfwdl : rdb Reg.NVF_CTRL_FABRIC_FWDL e = rdb Reg.NVF_CTRL_FABRIC_FWDL d := by
    rw [rdb, h.rd Reg.NVF_CTRL_FABRIC_FWDL (by decide)]; rfl
  have hread : ∀ x, sptRead x e = (d.sxc.spt, e) := fun x => by
    rw [sptRead_sound (by rw [hsxc]; exact hspt), hsxc]
  unfold opListed
  dsimp only
  rw [hglb, hctx, hread, sptRead_sound hspt, hfwdl]
  split
  · rfl
  · split
    · rfl
    · split
      · rfl
      · cases op with
        | fwDownload | fwCommit _ => rfl
        | _ => exact absurd (hop.symm.trans hfw) (by decide)

end

/-! ### The command as it is performed -/

/-- The device with a capsule's command accepted, as it is performed. -/
def taken (op : NvmeOp) (n : Nat) (c : HostCmd) (d : Dev) : Dev := accepted op n c (countAbort op d.quiet)

section
variable {op : NvmeOp} {n : Nat} {c : HostCmd} {d : Dev}

theorem acceptOnly_taken : AcceptOnly d (taken op n c d) := by
  have hcounted : AcceptOnly d.quiet (countAbort op d.quiet) := by
    rw [countAbort]
    split
    · refine ⟨by rw [bump_rest], fun f hf => rdReg_bump_off ?_ _⟩
      simp only [acceptRegs, List.mem_cons, not_or] at hf
      exact hf.2.2.1
    · exact ⟨rfl, fun _ _ => rfl⟩
  exact ((acceptOnly_quiet d).trans hcounted).trans (acceptOnly_accepted ..)

theorem cmdOpen_taken (h : capsuleTaken op c n d) (hop : isAdmin op = true) :
    CmdOpen n c (if op = .abort then 1 else 0) (alone d) (taken op n c d) := by
  obtain ⟨-, -, -, -, hwait, -, -, -⟩ := h
  have hcas : (countAbort op d.quiet).cas = d.cas := by
    rw [countAbort]
    split
    · rw [bump_rest]; rfl
    · rfl
  have hheld : (countAbort op d.quiet).cas.outputsHeld = false := by
    rw [hcas]
    have hwait' : hostHeld d = false := by simpa [mustWait, hop] using hwait
    simp only [hostHeld, Bool.or_eq_false_iff] at hwait'
    exact hwait'.1.1.1
  have halone : alone (countAbort op d.quiet) = alone d := by dsimp only [alone, peerLost]; rw [hcas]
  exact halone ▸ cmdOpen_accepted hheld

/-- A command whose checks pass on the device at the capsule passes them when it is performed. -/
theorem checkCmd_taken (hop : plainAdmin op = true) (h : checksPass op c d) : checkCmd op c (taken op n c d) = (0, taken op n c d) := by
  have hadmin : isAdmin op = true := by
    cases op with
    | fwDownload | fwCommit _ => cases hop
    | _ => exact hop
  exact checkCmd_passes hadmin h (opListed_accepted hop acceptOnly_taken)

theorem checkCmd_taken_fw (hspt : ∀ t, d.sxc.spt = some t → t.bad = []) (hop : isAdmin op = true) (hfw : plainAdmin op = false)
    (h : checksPass op c d) : checkCmd op c (taken op n c d) = (0, taken op n c d) :=
  checkCmd_passes hop h (opListed_accepted_fw hspt hop hfw acceptOnly_taken)

end

/-! ### Performance -/

section
variable {n : Nat} {c : HostCmd} {d : Dev} (hc : (getFc n d).cmd = c)
include hc

theorem perform_keepAlive (hchk : checkCmd .keepAlive c d = (0, d)) : perform .keepAlive n d = complete n 0 false d := by
  simp [perform, hc, hchk, sharedEffect]

theorem perform_identify (hchk : checkCmd .identify c d = (0, d)) : perform .identify n d = complete n 0 false (identifyData c d) := by
  simp [perform, hc, hchk, sharedEffect]

theorem perform_getLogPage (hchk : checkCmd .getLogPage c d = (0, d)) : perform .getLogPage n d = complete n 0 false (logData c d) := by
  simp [perform, hc, hchk, sharedEffect]

theorem perform_abort (hchk : checkCmd .abort c d = (0, d)) : perform .abort n d = complete n 0 false d := by
  simp [perform, hc, hchk, sharedEffect]

theorem perform_setFeatures (hchk : checkCmd .setFeatures c d = (0, d)) : perform .setFeatures n d = complete n 0 false (setFeature c d) := by
  simp [perform, hc, hchk, sharedEffect]

theorem perform_getFeatures (hchk : checkCmd .getFeatures c d = (0, d)) : perform .getFeatures n d =
    complete n 0 false (send (.adminData c.ctx c.cid [tget 0 (getCtrl (cntlidOf c d) d).features c.sel]) d) := by
  simp [perform, hc, hchk, sharedEffect]

theorem perform_propertySet (hchk : checkCmd .propertySet c d = (0, d)) : perform .propertySet n d = propertyWrite n c d := by
  simp [perform, hc, hchk, sharedEffect]

theorem perform_propertyGet {v : Nat} (hchk : checkCmd .propertyGet c d = (0, d)) (hv : propertyData c d = some (v, d)) :
    perform .propertyGet n d = complete n 0 false (send (.adminData c.ctx c.cid [v]) d) := by
  simp [perform, hc, hchk, sharedEffect, hv]

theorem perform_asyncEvent (hchk : checkCmd .asyncEvent c d = (0, d)) : perform .asyncEvent n d =
    giveEvent (cntlidOf c d) (modCtrl (cntlidOf c d) (fun x => { x with aers := x.aers ++ [n] }) d) := by
  simp [perform, hc, hchk, sharedEffect]

theorem perform_fwDownload (hchk : checkCmd .fwDownload c d = (0, d)) : perform .fwDownload n d =
    completeOpen n (downloadBlock (cntlidOf c d) c.val2 c.data d).1 (downloadBlock (cntlidOf c d) c.val2 c.data d).2 := by
  simp [perform, hc, hchk, sharedEffect]

theorem perform_fwCommit {ca : Nat} (hchk : checkCmd (.fwCommit ca) c d = (0, d)) : perform (.fwCommit ca) n d = fwCommit n ca c d := by
  simp [perform, hc, hchk, sharedEffect]

end

/-- An admin capsule that is taken at once runs as its command does in the free record. -/
theorem admin_runsTo {i : Instr} {op : NvmeOp} {n : Nat} {c : HostCmd} {s : State} (hi : exec i s = runLive (submit op c) s) (hready : s.ready)
    (hop : isAdmin op = true) (h : capsuleTaken op c n s.dev) :
    RunsTo i s (perform op n (taken op n c s.dev)) := by
  obtain ⟨hglb, hvia, hans, hknown, hwait, -, hfree, haers⟩ := h
  have h' : capsuleTaken op c n s.dev.quiet := ⟨hglb, hvia, hans, hknown, hwait, by simp [isForwarded, hop], hfree, haers⟩
  exact runsTo_of_live (runLive (submit op c) s) hi rfl hready (submit_taken hop h')

end Sys2Proof.Proofs

/-!
PROOFS. O52: Firmware Image Download and Firmware Commit.
-/

namespace Sys2Proof.Proofs

open Sys2Proof Sys2Proof.Machine

/-! ### Images are verified from what stands -/

theorem verifyFw_congr {d e : Dev} (hspt : ∀ t, d.sxc.spt = some t → t.bad = []) (hnv : e.nv = d.nv) (hsxc : e.sxc = d.sxc)
    (hreg : rdReg 0 e = rdReg 0 d) (b : Bytes) (steps : Nat) : verifyFw b steps e = ((verifyFw b steps d).1, e) := by
  have hread : ∀ x, sptRead x e = (d.sxc.spt, e) := fun x => by rw [sptRead_sound (by rw [hsxc]; exact hspt), hsxc]
  have hkey : fwKeyOf b e = ((fwKeyOf b d).1, e) ∧ (fwKeyOf b d).2 = d := by
    unfold fwKeyOf
    rw [hread, sptRead_sound hspt, hnv]
    dsimp only
    split <;> exact ⟨rfl, rfl⟩
  have hfloor : fwFloor e = ((fwFloor d).1, e) := by
    unfold fwFloor
    rw [hread, sptRead_sound hspt, hsxc]
    dsimp only
    split <;> rfl
  have htarget : fwTargetOk b e = fwTargetOk b d := by unfold fwTargetOk; rw [hreg, hnv]
  unfold verifyFw
  rw [htarget, hkey.1]
  rcases hk : fwKeyOf b d with ⟨_ | k, x⟩
  · dsimp only
    split
    · rfl
    · split <;> rfl
  · obtain rfl : x = d := by rw [hk] at hkey; exact hkey.2
    dsimp only
    rw [hfloor]
    dsimp only
    repeat' split
    all_goals rfl

/-! ### The download buffer -/

theorem rd_emptyFwBuf {f : Field} (hstatus : f.off ≠ Reg.FWU_STATUS_BUF_BUSY.off ∨ (f.fits ∧ Reg.FWU_STATUS_BUF_BUSY.apart f))
    (hbuf : f.off ≠ Reg.FWU_BUF_OWNER.off) (d : Dev) : rd f (emptyFwBuf d) = rd f d := by
  have hrest : rd f (wr Reg.FWU_BUF_OWNER 0 (wr Reg.FWU_BUF_BYTES 0 { d with fwu.owner := none, fwu.buf := [], fwu.ranges := [] })) = rd f d :=
    (rd_wr_off hbuf _ _).trans ((rd_wr_off (f := Reg.FWU_BUF_BYTES) hbuf _ _).trans rfl)
  rw [emptyFwBuf]
  rcases hstatus with hoff | ⟨hfits, hapart⟩
  · rw [rd_wr_off hoff, hrest]
  · rw [rd_wr_apart (by decide) hfits hapart, hrest]

theorem rd_emptyFwBuf_busy (d : Dev) : rdb Reg.FWU_STATUS_BUF_BUSY (emptyFwBuf d) = false := by
  rw [rdb, emptyFwBuf, rd_wr_same (by decide)]; decide

theorem rd_emptyFwBuf_bytes (d : Dev) : rd Reg.FWU_BUF_BYTES (emptyFwBuf d) = 0 := by
  rw [emptyFwBuf, rd_wr_off (by decide), rd_wr_apart (by decide) (by decide) (by decide), rd_wr_same (by decide)]; decide

/-- What the work on the buffer and the slots leaves of a command's record and of what is owed. -/
structure FwOnly (d e : Dev) : Prop where
  todo : e.todo = d.todo
  front : e.front = d.front
  cas : e.cas = d.cas
  sxc : e.sxc = d.sxc
  flt : e.flt = d.flt
  out : e.out = d.out

theorem FwOnly.refl (d : Dev) : FwOnly d d := ⟨rfl, rfl, rfl, rfl, rfl, rfl⟩

theorem FwOnly.trans {a b c : Dev} (h : FwOnly a b) (k : FwOnly b c) : FwOnly a c :=
  ⟨k.todo.trans h.todo, k.front.trans h.front, k.cas.trans h.cas, k.sxc.trans h.sxc, k.flt.trans h.flt, k.out.trans h.out⟩

theorem fwOnly_wr (f : Field) (v : Nat) (d : Dev) : FwOnly d (wr f v d) := ⟨rfl, rfl, rfl, rfl, rfl, rfl⟩

theorem fwOnly_emptyFwBuf (d : Dev) : FwOnly d (emptyFwBuf d) :=
  .trans (b := { d with fwu.owner := none, fwu.buf := [], fwu.ranges := [] }) ⟨rfl, rfl, rfl, rfl, rfl, rfl⟩
    ((fwOnly_wr ..).trans ((fwOnly_wr ..).trans (fwOnly_wr ..)))

theorem fwu_emptyFwBuf (d : Dev) : (emptyFwBuf d).fwu = { d.fwu with owner := none, buf := [], ranges := [] } :=
  (wr_fwu ..).trans ((wr_fwu ..).trans (wr_fwu ..))

theorem nv_emptyFwBuf (d : Dev) : (emptyFwBuf d).nv = d.nv := (wr_nv ..).trans ((wr_nv ..).trans (wr_nv ..))

theorem CmdOpen.of_fw {n dw0 : Nat} {c : HostCmd} {own : Bool} {d e : Dev} (h : CmdOpen n c dw0 own d) (k : FwOnly d e) :
    CmdOpen n c dw0 own e := by
  have hfc : getFc n e = getFc n d := by rw [getFc, k.front]; rfl
  have hcmd : getCmd n e = getCmd n d := by rw [getCmd, k.cas]; rfl
  exact ⟨hfc ▸ h.cmd, hfc ▸ h.ready, hfc ▸ h.posted, hfc ▸ h.torn, by rw [hfc]; exact h.dw0, hcmd ▸ h.acked, hcmd ▸ h.ctx, hcmd ▸ h.cid,
    by rw [k.cas]; exact h.held⟩

/-- The bytes of a block, placed one after the other. -/
def blockPlaced (off : Nat) (data : Bytes) (t : Tab Byte) : Tab Byte :=
  (data.zip (List.range data.length)).foldl (fun t p => tset 0 t (off + p.2) p.1) t

theorem tget_blockPlaced (off : Nat) (data : Bytes) (t : Tab Byte) {i : Nat} (hi : i < data.length) :
    tget 0 (blockPlaced off data t) (off + i) = (data[i]?).getD 0 := by
  induction data using List.reverseRecOn with
  | nil => simp at hi
  | append_singleton l b ih =>
    have hstep : blockPlaced off (l ++ [b]) t = tset 0 (blockPlaced off l t) (off + l.length) b := by
      unfold blockPlaced
      rw [List.length_append, List.length_singleton, List.range_succ, List.zip_append (by simp), List.foldl_append]
      rfl
    rw [hstep, tget_tset]
    by_cases hlast : i = l.length
    · subst hlast; simp
    · have hold : i < l.length := by rw [List.length_append, List.length_singleton] at hi; omega
      rw [if_neg (by omega), ih hold, List.getElem?_append_left hold]

/-- The device with a block in its download buffer. -/
def bufStored (cntlid off : Nat) (data : Bytes) (d : Dev) : Dev :=
  let d := { d with fwu.owner := some cntlid, fwu.buf := blockPlaced off data d.fwu.buf, fwu.ranges := d.fwu.ranges ++ [(off, data.length)] }
  wr Reg.FWU_STATUS_BUF_BUSY 1 (wr Reg.FWU_BUF_OWNER cntlid (wr Reg.FWU_BUF_BYTES (min (bufBytes d) (2 ^ 24)) d))

theorem fwOnly_bufStored (cntlid off : Nat) (data : Bytes) (d : Dev) : FwOnly d (bufStored cntlid off data d) := by
  have hbuf : ∀ x : Fwu, FwOnly d { d with fwu := x } := fun _ => ⟨rfl, rfl, rfl, rfl, rfl, rfl⟩
  exact (hbuf _).trans ((fwOnly_wr ..).trans ((fwOnly_wr ..).trans (fwOnly_wr ..)))

theorem fwu_bufStored (cntlid off : Nat) (data : Bytes) (d : Dev) : (bufStored cntlid off data d).fwu = { d.fwu with
    owner := some cntlid, buf := blockPlaced off data d.fwu.buf, ranges := d.fwu.ranges ++ [(off, data.length)] } :=
  (wr_fwu ..).trans ((wr_fwu ..).trans (wr_fwu ..))

theorem busy_bufStored (cntlid off : Nat) (data : Bytes) (d : Dev) : rdb Reg.FWU_STATUS_BUF_BUSY (bufStored cntlid off data d) = true := by
  rw [rdb, bufStored, rd_wr_same (by decide)]; decide

/-! ### Firmware Image Download (R560–R562) -/

section
variable {k off : Nat} {data : Bytes} {d : Dev}

theorem downloadBlock_misshapen (h : ¬(off % 4096 = 0 ∧ data.length % 4096 = 0 ∧ off + data.length ≤ 2 ^ 24)) :
    downloadBlock k off data d = (0x02, d) := if_pos (by omega)

theorem downloadBlock_owned (h : off % 4096 = 0 ∧ data.length % 4096 = 0 ∧ off + data.length ≤ 2 ^ 24)
    (hmine : ¬(d.fwu.owner = none ∨ d.fwu.owner = some k)) : downloadBlock k off data d = (0x0C, d) := by
  have howned : d.fwu.owner.isSome ∧ d.fwu.owner ≠ some k := by
    simp only [not_or] at hmine
    exact ⟨Option.isSome_iff_ne_none.2 hmine.1, hmine.2⟩
  exact (if_neg (by omega)).trans (if_pos howned)

/-- A block that is let in goes by what the buffer holds and, at offset 0 in compatible mode, by its image. -/
def blockLetIn (k off : Nat) (data : Bytes) (d : Dev) : Nat × Dev :=
  if d.fwu.ranges.any fun r => off < r.1 + r.2 && r.1 < off + data.length then (0x114, d)
  else
    let v := if off = 0 && rdb Reg.FWU_STATUS_COMPAT d then verifyFw data 5 d else (1, d)
    if v.1 ≠ 1 then (0x107, emptyFwBuf v.2) else (0, bufStored k off data v.2)

theorem downloadBlock_mine (h : off % 4096 = 0 ∧ data.length % 4096 = 0 ∧ off + data.length ≤ 2 ^ 24)
    (hmine : d.fwu.owner = none ∨ d.fwu.owner = some k) :
    downloadBlock k off data d = blockLetIn k off data (if off = 0 then emptyFwBuf d else d) := by
  have hmine' : ¬(d.fwu.owner.isSome ∧ d.fwu.owner ≠ some k) := by
    rintro ⟨hsome, hother⟩
    rcases hmine with h | h
    · simp [h] at hsome
    · exact hother h
  exact (if_neg (by omega)).trans (if_neg hmine')

theorem blockLetIn_overlaps (h : ∃ r ∈ d.fwu.ranges, off < r.1 + r.2 ∧ r.1 < off + data.length) : blockLetIn k off data d = (0x114, d) := by
  obtain ⟨r, hr, hlo, hhi⟩ := h
  exact if_pos (List.any_eq_true.2 ⟨r, hr, by simp [hlo, hhi]⟩)

theorem blockLetIn_stored (h : ¬∃ r ∈ d.fwu.ranges, off < r.1 + r.2 ∧ r.1 < off + data.length)
    (hv : (if off = 0 && rdb Reg.FWU_STATUS_COMPAT d then verifyFw data 5 d else (1, d)) = (1, d)) :
    blockLetIn k off data d = (0, bufStored k off data d) := by
  have hfree : ¬(d.fwu.ranges.any fun r => off < r.1 + r.2 && r.1 < off + data.length) = true := by
    intro hany
    obtain ⟨r, hr, hin⟩ := List.any_eq_true.1 hany
    exact h ⟨r, hr, by simpa using hin⟩
  unfold blockLetIn
  rw [if_neg hfree, hv]
  rfl

theorem blockLetIn_refused {st : Nat} (h : d.fwu.ranges = [])
    (hv : (if off = 0 && rdb Reg.FWU_STATUS_COMPAT d then verifyFw data 5 d else (1, d)) = (st, d)) (hst : st ≠ 1) :
    blockLetIn k off data d = (0x107, emptyFwBuf d) := by
  unfold blockLetIn
  rw [h, hv]
  exact (if_neg (by simp)).trans (if_pos hst)

end

/-- The answer of a command that completes where its work has left the device. -/
theorem completeOpen_answers {i : Instr} {s : State} {n st : Nat} {c : HostCmd} {y : Dev} {P : Dev → Prop}
    (hruns : RunsTo i s (completeOpen n st y)) (hopen : CmdOpen n c 0 (alone s.dev) y) (hvia : c.viaPeer = false) (htodo : y.todo = [])
    (hp : ∀ z g, Completed n c st 0 (alone s.dev) y z → EndedFrom z g → Ended c n st 0 s.dev g → P g) : Answers i s P := by
  have hdone := hopen.completeOpen (st := st) hvia
  refine hruns.answers ?_ fun g hg => hp _ g hdone hg (hdone.ended hg)
  rw [hdone.rest]
  exact htodo

section
variable {n : Nat} {c : HostCmd} {s : State} (hready : s.ready) (hspt : ∀ t, s.dev.sxc.spt = some t → t.bad = [])
include hready

theorem taken_kept {op : NvmeOp} : (taken op n c s.dev).fwu = s.dev.fwu ∧ (taken op n c s.dev).nv = s.dev.nv ∧
    (taken op n c s.dev).sxc = s.dev.sxc ∧ (taken op n c s.dev).todo = [] ∧ cntlidOf c (taken op n c s.dev) = cntlidOf c s.dev := by
  have ha : AcceptOnly s.dev (taken op n c s.dev) := acceptOnly_taken
  have hctx : (taken op n c s.dev).front.ctxs = s.dev.front.ctxs := by rw [ha.rest]
  have hhead : mgmtCntlid (taken op n c s.dev) = mgmtCntlid s.dev := congrArg (· * 32768) (ha.rd Reg.CAS_CTRL_HEAD (by decide))
  refine ⟨by rw [ha.rest], by rw [ha.rest], by rw [ha.rest], by rw [ha.rest]; exact hready.2, ?_⟩
  rw [cntlidOf, cntlidOf, hctx, hhead]

include hspt

/-- What a download runs as. -/
theorem download_runsTo (htaken : capsuleTaken .fwDownload c n s.dev) (hpass : checksPass .fwDownload c s.dev) :
    RunsTo (.firmwareImageDownload c) s (completeOpen n (downloadBlock (cntlidOf c s.dev) c.val2 c.data (taken .fwDownload n c s.dev)).1
      (downloadBlock (cntlidOf c s.dev) c.val2 c.data (taken .fwDownload n c s.dev)).2) := by
  obtain ⟨-, -, -, -, hcntlid⟩ := taken_kept (op := .fwDownload) (n := n) (c := c) hready
  have hopen := cmdOpen_taken htaken rfl
  have hruns := admin_runsTo (i := .firmwareImageDownload c) rfl hready rfl htaken
  rw [perform_fwDownload hopen.cmd (checkCmd_taken_fw hspt rfl rfl hpass), hcntlid] at hruns
  exact hruns

/-- A download whose block is judged so. -/
theorem download_answers {st : Nat} {y : Dev} {P : Dev → Prop} (htaken : capsuleTaken .fwDownload c n s.dev)
    (hpass : checksPass .fwDownload c s.dev)
    (hblock : downloadBlock (cntlidOf c s.dev) c.val2 c.data (taken .fwDownload n c s.dev) = (st, y)) (hkept : FwOnly (taken .fwDownload n c s.dev) y)
    (hp : ∀ g, Ended c n st 0 s.dev g → g.fwu = y.fwu → (∀ f : Field, f.off ∉ ambientRegs → rd f g = rd f y) → P g) :
    Answers (.firmwareImageDownload c) s P := by
  obtain ⟨-, -, -, htodo, -⟩ := taken_kept (op := .fwDownload) (n := n) (c := c) hready
  have hruns := download_runsTo hready hspt htaken hpass
  rw [hblock] at hruns
  obtain ⟨-, hvia, -⟩ := id htaken
  refine completeOpen_answers hruns ((cmdOpen_taken htaken rfl).of_fw hkept) hvia (hkept.todo.trans htodo) fun z g hz hg he => hp g he ?_ ?_
  · rw [hg.fwu, hz.rest]
  · intro f hf
    rw [hg.rd hf]
    exact rd_of_regs (by rw [hz.rest]) f

end

/-! ### Firmware Commit (R563–R565) -/

theorem fwOnly_showSlot (n r : Nat) (d : Dev) : FwOnly d (showSlot n r d) := (fwOnly_wr ..).trans ((fwOnly_wr ..).trans (fwOnly_wr ..))

theorem nv_showSlot (n r : Nat) (d : Dev) : (showSlot n r d).nv = d.nv := (wr_nv ..).trans ((wr_nv ..).trans (wr_nv ..))

theorem fwu_showSlot (n r : Nat) (d : Dev) : (showSlot n r d).fwu = d.fwu := (wr_fwu ..).trans ((wr_fwu ..).trans (wr_fwu ..))

theorem fwOnly_putDirectory (a n : Nat) (d : Dev) : FwOnly d (putDirectory a n d) :=
  .trans (b := { d with nv.fwActive := a, nv.fwNext := n }) ⟨rfl, rfl, rfl, rfl, rfl, rfl⟩ (fwOnly_wr ..)

theorem nv_putDirectory (a n : Nat) (d : Dev) : (putDirectory a n d).nv = { d.nv with fwActive := a, fwNext := n } := wr_nv ..

/-- A slot as a commit leaves it, or as its failed read-back does (R564). -/
def slotWritten (slot : Nat) (readBack : Bool) (d : Dev) : Dev :=
  showSlot slot 0 { d with
    nv.fw := tset {} d.nv.fw slot (if readBack then { present := true, image := bufRead (imgLen (bufRead 512 d)) d } else {}) }

theorem fwOnly_slotWritten (slot : Nat) (readBack : Bool) (d : Dev) : FwOnly d (slotWritten slot readBack d) := by
  have hnv : ∀ x : Nv, FwOnly d { d with nv := x } := fun _ => ⟨rfl, rfl, rfl, rfl, rfl, rfl⟩
  exact (hnv _).trans (fwOnly_showSlot ..)

theorem nv_slotWritten (slot : Nat) (readBack : Bool) (d : Dev) : (slotWritten slot readBack d).nv = { d.nv with
    fw := tset {} d.nv.fw slot (if readBack then { present := true, image := bufRead (imgLen (bufRead 512 d)) d } else {}) } := nv_showSlot ..

section
variable {ca fs : Nat} {rb : Bool} {d : Dev}

theorem commitFw_busy (h : d.fwu.act ≠ none) : commitFw ca fs rb d = (some 0x0C, d) := if_pos (Option.isSome_iff_ne_none.2 h)

/-- No activation runs, and the slot may be named (R563). -/
structure SlotFree (ca fs : Nat) (d : Dev) : Prop where
  idle : d.fwu.act = none
  named : ¬(3 < commitSlotNo ca fs d ∨ commitSlotNo ca fs d = runSlot d ∨
    (2 ≤ ca ∧ (getFwSlot (commitSlotNo ca fs d) d).present = false))

theorem commitFw_refused (hidle : d.fwu.act = none) (h : 3 < commitSlotNo ca fs d ∨ commitSlotNo ca fs d = runSlot d ∨
    (2 ≤ ca ∧ (getFwSlot (commitSlotNo ca fs d) d).present = false)) : commitFw ca fs rb d = (some 0x106, d) := by
  refine (if_neg (by simp [hidle])).trans (if_pos ?_)
  simpa using h

/-- The buffer holds the whole of the image that it names. -/
def bufWhole (d : Dev) : Prop := 512 ≤ bufBytes d ∧ 512 ≤ imgLen (bufRead 512 d) ∧ imgLen (bufRead 512 d) ≤ bufBytes d

theorem writeSlot_gap {slot : Nat} (h : ¬bufWhole d) : writeSlot slot rb d = (0x107, d) := if_pos (by unfold bufWhole at h; omega)

theorem writeSlot_whole {slot : Nat} (h : bufWhole d) : writeSlot slot rb d = (if rb then 0 else 0x107, slotWritten slot rb d) :=
  if_neg (by unfold bufWhole at h; omega)

/-- A commit that is not refused at once goes on by its action. -/
theorem SlotFree.goes_on (h : SlotFree ca fs d) : ¬d.fwu.act.isSome = true ∧ ¬(commitSlotNo ca fs d > 3 ∨ commitSlotNo ca fs d = runSlot d ∨
    (ca ≥ 2 ∧ (!(getFwSlot (commitSlotNo ca fs d) d).present) = true)) :=
  ⟨by simp [h.idle], by simpa using h.named⟩

theorem SlotFree.commit_slot {st : Nat} {y : Dev} (h : SlotFree 0 fs d) (hw : writeSlot (commitSlotNo 0 fs d) rb d = (st, y)) :
    commitFw 0 fs rb d = (some st, y) := by
  refine (if_neg h.goes_on.1).trans ((if_neg h.goes_on.2).trans ?_)
  exact congrArg (fun w : Nat × Dev => (some w.1, w.2)) hw

theorem SlotFree.commit_slotNext {st : Nat} {y : Dev} (h : SlotFree 1 fs d) (hw : writeSlot (commitSlotNo 1 fs d) rb d = (st, y)) :
    commitFw 1 fs rb d = (some st, if st = 0 then putDirectory y.nv.fwActive (commitSlotNo 1 fs d) y else y) := by
  refine (if_neg h.goes_on.1).trans ((if_neg h.goes_on.2).trans ?_)
  exact congrArg (fun w : Nat × Dev => (some w.1, if w.1 = 0 then putDirectory w.2.nv.fwActive (commitSlotNo 1 fs d) w.2 else w.2)) hw

theorem SlotFree.commit_next (h : SlotFree 2 fs d) : commitFw 2 fs rb d = (some 0, putDirectory d.nv.fwActive (commitSlotNo 2 fs d) d) :=
  (if_neg h.goes_on.1).trans (if_neg h.goes_on.2)

theorem SlotFree.commit_activate (h : SlotFree 3 fs d) : commitFw 3 fs rb d = (none, d) := (if_neg h.goes_on.1).trans (if_neg h.goes_on.2)

/-- A commit of CA 0 or 1 whose write of the slot fails. -/
theorem SlotFree.commit_fails {st : Nat} {y : Dev} (h : SlotFree ca fs d) (hca : ca < 2) (hw : writeSlot (commitSlotNo ca fs d) rb d = (st, y))
    (hst : st ≠ 0) : commitFw ca fs rb d = (some st, y) := by
  obtain rfl | rfl : ca = 0 ∨ ca = 1 := by omega
  · exact h.commit_slot hw
  · rw [h.commit_slotNext hw, if_neg hst]

end

/-- Whether an activation may be queued at all (R565). -/
abbrev activationFits (d : Dev) : Prop := glbState d = 1 ∧ rd Reg.CAS_STATUS_PEER d ≤ 1 ∧ rdb Reg.PWR_STATUS_TT d = false

section
variable {slot : Nat} {d : Dev}

theorem mayActivate_unfit (h : ¬activationFits d) : mayActivate slot d = (0x113, d) := by
  refine if_pos ?_
  by_contra hno
  simp only [not_or, not_not, Bool.not_eq_true] at hno
  exact h ⟨hno.1, by omega, hno.2.2⟩

theorem mayActivate_handoff (h : activationFits d)
    (hother : imgHandoff (getFwSlot slot d).image ≠ imgHandoff (getFwSlot (runSlot d) d).image) : mayActivate slot d = (0x10B, d) := by
  obtain ⟨hglb, hpeer, htt⟩ := h
  refine (if_neg ?_).trans (if_pos hother)
  simp only [not_or, not_not, htt]
  exact ⟨hglb, by omega, by decide⟩

theorem mayActivate_verified {r : Nat} (h : activationFits d)
    (hsame : imgHandoff (getFwSlot slot d).image = imgHandoff (getFwSlot (runSlot d) d).image)
    (hv : verifyFw (getFwSlot slot d).image 6 d = (r, d)) : mayActivate slot d = (if r = 1 then 0 else 0x107, showSlot slot r d) := by
  obtain ⟨hglb, hpeer, htt⟩ := h
  refine (if_neg ?_).trans ((if_neg (not_not.2 hsame)).trans ?_)
  · simp only [not_or, not_not, htt]
    exact ⟨hglb, by omega, by decide⟩
  · rw [hv]

end

/-- The buffer stands empty (R563). -/
structure BufEmpty (g : Dev) : Prop where
  owner : g.fwu.owner = none
  ranges : g.fwu.ranges = []
  busy : rdb Reg.FWU_STATUS_BUF_BUSY g = false
  bytes : rd Reg.FWU_BUF_BYTES g = 0

theorem bufEmpty_of {y g : Dev} (hfwu : g.fwu = (emptyFwBuf y).fwu)
    (hrd : ∀ f : Field, f.off ∉ ambientRegs → rd f g = rd f (emptyFwBuf y)) : BufEmpty g := by
  rw [fwu_emptyFwBuf] at hfwu
  exact ⟨by rw [hfwu], by rw [hfwu], by rw [rdb, hrd _ (by decide)]; exact rd_emptyFwBuf_busy y, (hrd _ (by decide)).trans (rd_emptyFwBuf_bytes y)⟩

section
variable {i : Instr} {ca n : Nat} {c : HostCmd} {s : State} (hi : exec i s = runLive (submit (.fwCommit ca) c) s) (hready : s.ready)
  (hspt : ∀ t, s.dev.sxc.spt = some t → t.bad = []) (htaken : capsuleTaken (.fwCommit ca) c n s.dev) (hpass : checksPass (.fwCommit ca) c s.dev)
include hi hready hspt htaken hpass

theorem commit_runsTo : RunsTo i s (fwCommit n ca c (taken (.fwCommit ca) n c s.dev)) := by
  have hopen := cmdOpen_taken htaken rfl
  have hruns := admin_runsTo hi hready rfl htaken
  rwa [perform_fwCommit hopen.cmd (checkCmd_taken_fw hspt rfl rfl hpass)] at hruns

/-- A commit that ends with a status at once. -/
theorem commit_answers {st : Nat} {y : Dev} {P : Dev → Prop}
    (hcommit : commitFw ca c.sel c.readBack (taken (.fwCommit ca) n c s.dev) = (some st, y)) (hkept : FwOnly (taken (.fwCommit ca) n c s.dev) y)
    (hp : ∀ g, Ended c n st 0 s.dev g → BufEmpty g → g.fwu.act = y.fwu.act → g.nv = y.nv →
      (∀ f : Field, f.off ∉ ambientRegs → rd f g = rd f (emptyFwBuf y)) → P g) : Answers i s P := by
  obtain ⟨-, -, -, htodo, -⟩ := taken_kept (op := .fwCommit ca) (n := n) (c := c) hready
  have hruns := commit_runsTo hi hready hspt htaken hpass
  have hstep : fwCommit n ca c (taken (.fwCommit ca) n c s.dev) = completeOpen n st (emptyFwBuf y) := by
    unfold fwCommit
    rw [hcommit]
  rw [hstep] at hruns
  have hall := hkept.trans (fwOnly_emptyFwBuf y)
  obtain ⟨-, hvia, -⟩ := id htaken
  refine completeOpen_answers hruns ((cmdOpen_taken htaken rfl).of_fw hall) hvia (hall.todo.trans htodo) fun z g hz hg he => ?_
  have hfwu : g.fwu = (emptyFwBuf y).fwu := by rw [hg.fwu, hz.rest]
  have hnv : g.nv = (emptyFwBuf y).nv := by rw [hg.nv, hz.rest]
  have hrd : ∀ f : Field, f.off ∉ ambientRegs → rd f g = rd f (emptyFwBuf y) := fun f hf => by
    rw [hg.rd hf]; exact rd_of_regs (by rw [hz.rest]) f
  exact hp g he (bufEmpty_of hfwu hrd) (by rw [hfwu, fwu_emptyFwBuf]) (hnv.trans (nv_emptyFwBuf y)) hrd

end

/-! ### The command's slot, read at its capsule -/

/-- What a commit reads of the device stands while the command is accepted. -/
structure CommitSeen (d x : Dev) : Prop where
  fwu : x.fwu = d.fwu
  nv : x.nv = d.nv
  run : runSlot x = runSlot d

section
variable {d x : Dev} (h : CommitSeen d x)
include h

theorem CommitSeen.slot (n : Nat) : getFwSlot n x = getFwSlot n d := by rw [getFwSlot, h.nv]; rfl
theorem CommitSeen.slotNo (ca fs : Nat) : commitSlotNo ca fs x = commitSlotNo ca fs d := by
  unfold commitSlotNo
  simp only [h.run, h.slot]
theorem CommitSeen.read (n : Nat) : bufRead n x = bufRead n d := by unfold bufRead; rw [h.fwu]
theorem CommitSeen.bytes : bufBytes x = bufBytes d := by unfold bufBytes; rw [h.fwu]

end

theorem commitSeen_taken {op : NvmeOp} {n : Nat} {c : HostCmd} {d : Dev} : CommitSeen d (taken op n c d) := by
  have ha : AcceptOnly d (taken op n c d) := acceptOnly_taken
  exact ⟨by rw [ha.rest], by rw [ha.rest], ha.rd Reg.FWU_STATUS_ACTIVE (by decide)⟩

/-- An empty buffer's writes leave what an activation asks about. -/
theorem activationFits_emptyFwBuf {op : NvmeOp} {n : Nat} {c : HostCmd} {d : Dev} :
    (activationFits (emptyFwBuf (taken op n c d)) ↔ activationFits d) ∧ runSlot (emptyFwBuf (taken op n c d)) = runSlot d ∧
      rdReg 0 (emptyFwBuf (taken op n c d)) = rdReg 0 d := by
  have ha : AcceptOnly d (taken op n c d) := acceptOnly_taken
  have hrd : ∀ f : Field, f.off ≠ Reg.FWU_STATUS_BUF_BUSY.off ∨ (f.fits ∧ Reg.FWU_STATUS_BUF_BUSY.apart f) → f.off ≠ Reg.FWU_BUF_OWNER.off →
      f.off ∉ acceptRegs → rd f (emptyFwBuf (taken op n c d)) = rd f d := fun f hs hb hf => (rd_emptyFwBuf hs hb _).trans (ha.rd f hf)
  refine ⟨?_, hrd Reg.FWU_STATUS_ACTIVE (.inr ⟨by decide, by decide⟩) (by decide) (by decide), ?_⟩
  · have hglb : glbState (emptyFwBuf (taken op n c d)) = glbState d := hrd Reg.GLB_STATE_STATE (.inl (by decide)) (by decide) (by decide)
    have hpeer := hrd Reg.CAS_STATUS_PEER (.inl (by decide)) (by decide) (by decide)
    have htt := hrd Reg.PWR_STATUS_TT (.inl (by decide)) (by decide) (by decide)
    rw [activationFits, activationFits, hglb, hpeer, rdb, htt]; rfl
  · rw [emptyFwBuf, rdReg_wr_off (by decide), rdReg_wr_off (by decide), rdReg_wr_off (by decide)]
    exact ha.rdReg 0 (by decide)

/-- The registers that show the buffer. -/
abbrev bufRegs : List Nat := [Reg.FWU_STATUS_BUF_BUSY.off, Reg.FWU_BUF_BYTES.off]

/-- What the checks of an activation leave. -/
structure ActivateOnly (b y : Dev) : Prop extends FwOnly b y where
  nv : y.nv = b.nv
  fwu : y.fwu = b.fwu
  rd : ∀ f : Field, f.off ∈ bufRegs → Machine.rd f y = Machine.rd f b

theorem ActivateOnly.refl (d : Dev) : ActivateOnly d d := ⟨.refl d, rfl, rfl, fun _ _ => rfl⟩

theorem activateOnly_showSlot (n r : Nat) (d : Dev) : ActivateOnly d (showSlot n r d) := by
  refine ⟨fwOnly_showSlot .., nv_showSlot .., fwu_showSlot .., fun f hf => ?_⟩
  have hoff : f.off ≠ 0x800018 + 8 * (n - 1) := by
    simp only [bufRegs, Reg.FWU_STATUS_BUF_BUSY, Reg.FWU_BUF_BYTES, List.mem_cons, List.not_mem_nil, or_false] at hf
    omega
  rw [showSlot, rd_wr_off hoff, rd_wr_off (f := Reg.FWU_SLOT_ROLLBACK _) hoff, rd_wr_off (f := Reg.FWU_SLOT_RESULT _) hoff]

/-- The device of an accepted commit with its buffer emptied. -/
theorem emptied_taken {ca n : Nat} {c : HostCmd} {s : State} (hready : s.ready) (hidle : (taken (.fwCommit ca) n c s.dev).fwu.act = none) :
    BufEmpty (emptyFwBuf (taken (.fwCommit ca) n c s.dev)) ∧ (emptyFwBuf (taken (.fwCommit ca) n c s.dev)).nv = s.dev.nv ∧
      (emptyFwBuf (taken (.fwCommit ca) n c s.dev)).todo = [] ∧ (emptyFwBuf (taken (.fwCommit ca) n c s.dev)).fwu.act = none := by
  obtain ⟨-, hnv, -, htodo, -⟩ := taken_kept (op := .fwCommit ca) (n := n) (c := c) hready
  exact ⟨bufEmpty_of rfl fun _ _ => rfl, (nv_emptyFwBuf _).trans hnv, (fwOnly_emptyFwBuf _).todo.trans htodo, by rw [fwu_emptyFwBuf]; exact hidle⟩

/-- The activation that a commit of CA 3 queues. -/
def newActivation (slot n : Nat) : Activation := { slot := slot, edge := 0, phase := 0, cmdRec := n }

/-- How a commit of CA 3 ends by its verdict. -/
def activateDone (n slot : Nat) (r : Nat × Dev) : Dev :=
  let (st, d) := r
  if st ≠ 0 then completeOpen n st d else setb Reg.FWU_STATUS_ACT_BUSY { d with fwu.act := some (newActivation slot n) }

theorem fwCommit_activate {n st : Nat} {c : HostCmd} {d y : Dev} (hfree : SlotFree 3 c.sel d)
    (hmay : mayActivate (commitSlotNo 3 c.sel d) (emptyFwBuf d) = (st, y)) :
    fwCommit n 3 c d = activateDone n (commitSlotNo 3 c.sel d) (st, y) := by
  have hcommit := hfree.commit_activate (rb := c.readBack)
  unfold fwCommit
  split
  next st' d' heq =>
    rw [hcommit] at heq
    cases heq
    split
    next hst => cases hst
    next =>
      extract_lets slot x
      rw [show mayActivate slot x = (st, y) from hmay]
      rfl

section
variable {i : Instr} {n : Nat} {c : HostCmd} {s : State} (hi : exec i s = runLive (submit (.fwCommit 3) c) s) (hready : s.ready)
  (hspt : ∀ t, s.dev.sxc.spt = some t → t.bad = []) (htaken : capsuleTaken (.fwCommit 3) c n s.dev) (hpass : checksPass (.fwCommit 3) c s.dev)
  (hfree : SlotFree 3 c.sel (taken (.fwCommit 3) n c s.dev))
include hi hready hspt htaken hpass hfree

/-- A CA 3 that R565 refuses, or whose image fails. -/
theorem activate_refused {st : Nat} {b y : Dev} (hb : emptyFwBuf (taken (.fwCommit 3) n c s.dev) = b)
    (hmay : mayActivate (commitSlotNo 3 c.sel (taken (.fwCommit 3) n c s.dev)) b = (st, y)) (hst : st ≠ 0) (hy : ActivateOnly b y) :
    Answers i s fun g => Ended c n st 0 s.dev g ∧ g.nv = s.dev.nv ∧ BufEmpty g ∧ g.fwu.act = none := by
  have hruns := commit_runsTo hi hready hspt htaken hpass
  have hstep : fwCommit n 3 c (taken (.fwCommit 3) n c s.dev) = completeOpen n st y :=
    (fwCommit_activate hfree (hb ▸ hmay)).trans (if_pos hst)
  rw [hstep] at hruns
  have hopen := (cmdOpen_taken htaken rfl).of_fw (fwOnly_emptyFwBuf _)
  obtain ⟨hempty, hnv, htodo, hact⟩ := emptied_taken (ca := 3) (n := n) (c := c) hready hfree.idle
  rw [hb] at hopen hempty hnv htodo hact
  clear hstep hmay hb
  obtain ⟨-, hvia, -⟩ := id htaken
  refine completeOpen_answers hruns (hopen.of_fw hy.toFwOnly) hvia (hy.todo.trans htodo) fun z g hz hg he => ?_
  have hgfwu : g.fwu = b.fwu := by rw [hg.fwu, hz.rest]; exact hy.fwu
  have hgrd : ∀ f : Field, f.off ∈ bufRegs → f.off ∉ ambientRegs → rd f g = rd f b := fun f hf ha => by
    rw [hg.rd ha, rd_of_regs (by rw [hz.rest]) f]; exact hy.rd f hf
  refine ⟨he, by rw [hg.nv, hz.rest]; exact hy.nv.trans hnv, ⟨by rw [hgfwu]; exact hempty.owner, by rw [hgfwu]; exact hempty.ranges, ?_, ?_⟩,
    by rw [hgfwu]; exact hact⟩
  · rw [rdb, hgrd _ (by decide) (by decide)]; exact hempty.busy
  · rw [hgrd _ (by decide) (by decide)]; exact hempty.bytes

/-- A CA 3 whose image is verified queues the activation. -/
theorem activate_queued {b y : Dev} (hb : emptyFwBuf (taken (.fwCommit 3) n c s.dev) = b)
    (hmay : mayActivate (commitSlotNo 3 c.sel (taken (.fwCommit 3) n c s.dev)) b = (0, y)) (hy : ActivateOnly b y) :
    Answers i s fun g => g.nv = s.dev.nv ∧ BufEmpty g ∧ (getFc n g).ready = none ∧ rdb Reg.FWU_STATUS_ACT_BUSY g = true ∧
      g.fwu.act = some (newActivation (commitSlotNo 3 c.sel (taken (.fwCommit 3) n c s.dev)) n) := by
  have hruns := commit_runsTo hi hready hspt htaken hpass
  have hstep := (fwCommit_activate (n := n) hfree (hb ▸ hmay)).trans (if_neg (not_not.2 rfl))
  generalize newActivation (commitSlotNo 3 c.sel (taken (.fwCommit 3) n c s.dev)) n = act at hstep ⊢
  rw [hstep] at hruns
  have hopen := (cmdOpen_taken htaken rfl).of_fw (fwOnly_emptyFwBuf _)
  obtain ⟨hempty, hnv, htodo, -⟩ := emptied_taken (ca := 3) (n := n) (c := c) hready hfree.idle
  rw [hb] at hopen hempty hnv htodo
  clear hstep hmay hb
  have hall : FwOnly b (setb Reg.FWU_STATUS_ACT_BUSY { y with fwu.act := some act }) :=
    hy.toFwOnly.trans (.trans (b := { y with fwu.act := some act }) ⟨rfl, rfl, rfl, rfl, rfl, rfl⟩ (fwOnly_wr Reg.FWU_STATUS_ACT_BUSY 1 _))
  refine hruns.answers (hall.todo.trans htodo) fun g hg => ?_
  have hgfwu : g.fwu = { y.fwu with act := some act } := hg.fwu.trans (wr_fwu ..)
  rw [hy.fwu] at hgfwu
  have hrd : ∀ f : Field, rd f { y with fwu.act := some act } = rd f y := fun _ => rfl
  refine ⟨(hg.nv.trans (wr_nv ..)).trans (hy.nv.trans hnv), ⟨by rw [hgfwu]; exact hempty.owner, by rw [hgfwu]; exact hempty.ranges, ?_, ?_⟩,
    ?_, ?_, by rw [hgfwu]⟩
  · rw [rdb, hg.rd (by decide), setb, rd_wr_apart (by decide) (by decide) (by decide), hrd, hy.rd _ (by decide)]
    exact hempty.busy
  · rw [hg.rd (by decide), setb, rd_wr_off (by decide), hrd, hy.rd _ (by decide)]
    exact hempty.bytes
  · rw [show getFc n g = getFc n (setb Reg.FWU_STATUS_ACT_BUSY { y with fwu.act := some act }) from by rw [getFc, hg.front]; rfl]
    exact (hopen.of_fw hall).ready
  · rw [rdb, hg.rd (by decide), setb, rd_wr_same (by decide)]; decide

end

/-! ### O52 -/

/-- A slot of the directory shows as filled after its write. -/
theorem slotState_slotWritten (slot : Nat) (d : Dev) : rd (Reg.FWU_SLOT_STATE (slot - 1)) (slotWritten slot true d) = 1 := by
  have hpresent : (getFwSlot slot { d with nv.fw := tset {} d.nv.fw slot { present := true, image := bufRead (imgLen (bufRead 512 d)) d } }).present = true := by
    rw [getFwSlot, tget_tset_same]
  rw [slotWritten, showSlot, rd_wr_same rfl]
  simp only [if_true]
  rw [hpresent]
  rfl

/-- The slot written keeps its show through the writes of the directory and of the buffer's end. -/
theorem slotState_kept {slot : Nat} (a n : Nat) (d : Dev) :
    rd (Reg.FWU_SLOT_STATE (slot - 1)) (emptyFwBuf d) = rd (Reg.FWU_SLOT_STATE (slot - 1)) d ∧
      rd (Reg.FWU_SLOT_STATE (slot - 1)) (putDirectory a n d) = rd (Reg.FWU_SLOT_STATE (slot - 1)) d := by
  have hstatus : (Reg.FWU_SLOT_STATE (slot - 1)).off ≠ Reg.FWU_STATUS_BUF_BUSY.off := by
    simp only [Reg.FWU_SLOT_STATE, Reg.FWU_STATUS_BUF_BUSY]; omega
  have hbuf : (Reg.FWU_SLOT_STATE (slot - 1)).off ≠ Reg.FWU_BUF_OWNER.off := by
    simp only [Reg.FWU_SLOT_STATE, Reg.FWU_BUF_OWNER]; omega
  exact ⟨rd_emptyFwBuf (.inl hstatus) hbuf d, rd_wr_off (f := Reg.FWU_STATUS_NEXT) hstatus _ _⟩

section
variable {n : Nat} {c : HostCmd} {s : State} (hready : s.ready) (hspt : ∀ t, s.dev.sxc.spt = some t → t.bad = [])
  (htaken : capsuleTaken .fwDownload c n s.dev) (hpass : checksPass .fwDownload c s.dev)
include hready hspt htaken hpass

/-- A block that is stored. -/
theorem download_stored {b : Dev} (hb : FwOnly (taken .fwDownload n c s.dev) b)
    (hblock : downloadBlock (cntlidOf c s.dev) c.val2 c.data (taken .fwDownload n c s.dev) = (0, bufStored (cntlidOf c s.dev) c.val2 c.data b)) :
    Answers (.firmwareImageDownload c) s fun d => Ended c n 0 0 s.dev d ∧ d.fwu.ranges = b.fwu.ranges ++ [(c.val2, c.data.length)] ∧
      d.fwu.owner = some (cntlidOf c s.dev) ∧ rdb Reg.FWU_STATUS_BUF_BUSY d = true ∧
      ∀ i < c.data.length, tget 0 d.fwu.buf (c.val2 + i) = (c.data[i]?).getD 0 := by
  refine download_answers hready hspt htaken hpass hblock (hb.trans (fwOnly_bufStored ..)) fun g he hfwu hrd => ?_
  rw [fwu_bufStored] at hfwu
  refine ⟨he, by rw [hfwu], by rw [hfwu], ?_, fun i hi => ?_⟩
  · rw [rdb, hrd _ (by decide)]; exact busy_bufStored ..
  · rw [hfwu]; exact tget_blockPlaced _ _ _ hi

end

/-- A first block goes by its image where the firmware's mode asks for it. -/
theorem download_first {n : Nat} {c : HostCmd} {s : State} (hready : s.ready) (hspt : ∀ t, s.dev.sxc.spt = some t → t.bad = [])
    (hoff : c.val2 = 0) :
    (rdb Reg.FWU_STATUS_COMPAT s.dev = false ∨ (verifyFw c.data 5 s.dev).1 = 1 →
      (if c.val2 = 0 && rdb Reg.FWU_STATUS_COMPAT (emptyFwBuf (taken .fwDownload n c s.dev)) then
        verifyFw c.data 5 (emptyFwBuf (taken .fwDownload n c s.dev)) else (1, emptyFwBuf (taken .fwDownload n c s.dev))) =
      (1, emptyFwBuf (taken .fwDownload n c s.dev))) ∧
    (rdb Reg.FWU_STATUS_COMPAT s.dev = true →
      (if c.val2 = 0 && rdb Reg.FWU_STATUS_COMPAT (emptyFwBuf (taken .fwDownload n c s.dev)) then
        verifyFw c.data 5 (emptyFwBuf (taken .fwDownload n c s.dev)) else (1, emptyFwBuf (taken .fwDownload n c s.dev))) =
      ((verifyFw c.data 5 s.dev).1, emptyFwBuf (taken .fwDownload n c s.dev))) := by
  have ha : AcceptOnly s.dev (taken .fwDownload n c s.dev) := acceptOnly_taken
  obtain ⟨-, hnv, hsxc, -, -⟩ := taken_kept (op := .fwDownload) (n := n) (c := c) hready
  have hcompat : rdb Reg.FWU_STATUS_COMPAT (emptyFwBuf (taken .fwDownload n c s.dev)) = rdb Reg.FWU_STATUS_COMPAT s.dev := by
    rw [rdb, rd_emptyFwBuf (.inr ⟨by decide, by decide⟩) (by decide), ha.rd _ (by decide)]; rfl
  have hverify := verifyFw_congr hspt ((nv_emptyFwBuf (taken .fwDownload n c s.dev)).trans hnv)
    ((fwOnly_emptyFwBuf (taken .fwDownload n c s.dev)).sxc.trans hsxc) (activationFits_emptyFwBuf (op := .fwDownload) (n := n) (c := c)).2.2 c.data 5
  rw [hcompat, hverify]
  refine ⟨fun h => ?_, fun h => ?_⟩
  · rcases h with h | h
    · simp [h]
    · rw [h]; simp
  · simp [hoff, h]

theorem slotState_notAmbient {ca fs : Nat} {d : Dev} (h : SlotFree ca fs d) :
    (Reg.FWU_SLOT_STATE (commitSlotNo ca fs d - 1)).off ∉ ambientRegs := by
  have hrange : ∀ o ∈ ambientRegs, o < 0x800018 ∨ 0x800100 < o := by decide
  have hnamed := h.named
  intro hin
  have hbound := hrange _ hin
  simp only [Reg.FWU_SLOT_STATE] at hbound
  omega

theorem ranges_emptyFwBuf (d : Dev) : (emptyFwBuf d).fwu.ranges = [] := by rw [fwu_emptyFwBuf]

section
variable {i : Instr} {ca n : Nat} {c : HostCmd} {s : State} (hi : exec i s = runLive (submit (.fwCommit ca) c) s) (hready : s.ready)
  (hspt : ∀ t, s.dev.sxc.spt = some t → t.bad = []) (htaken : capsuleTaken (.fwCommit ca) c n s.dev) (hpass : checksPass (.fwCommit ca) c s.dev)
include hi hready hspt htaken hpass

/-- A commit that changes no slot ends with its status and the buffer emptied. -/
theorem commit_kept {st : Nat} {y : Dev} (hcommit : commitFw ca c.sel c.readBack (taken (.fwCommit ca) n c s.dev) = (some st, y))
    (hy : y = taken (.fwCommit ca) n c s.dev) : Answers i s fun g => Ended c n st 0 s.dev g ∧ g.nv = s.dev.nv ∧ BufEmpty g := by
  subst hy
  exact commit_answers hi hready hspt htaken hpass hcommit (.refl _) fun g he hb _ hnv _ => ⟨he, hnv.trans commitSeen_taken.nv, hb⟩

end

section
variable {n : Nat} {c : HostCmd} {s : State} (hready : s.ready) (hspt : ∀ t, s.dev.sxc.spt = some t → t.bad = [])
  (htaken : capsuleTaken .fwDownload c n s.dev) (hpass : checksPass .fwDownload c s.dev)
include hready hspt htaken hpass

/-- A block that is refused leaves the buffer as it is. -/
theorem download_kept {st : Nat} {y : Dev} (hblock : downloadBlock (cntlidOf c s.dev) c.val2 c.data (taken .fwDownload n c s.dev) = (st, y))
    (hy : y = taken .fwDownload n c s.dev) : Answers (.firmwareImageDownload c) s fun g => Ended c n st 0 s.dev g ∧ g.fwu = s.dev.fwu := by
  subst hy
  exact download_answers hready hspt htaken hpass hblock (.refl _) fun g he hfwu _ => ⟨he, hfwu.trans commitSeen_taken.fwu⟩

/-- A first block whose image fails leaves an empty buffer. -/
theorem download_failed {st : Nat} (hst : st ≠ 1)
    (hshaped : c.val2 % 4096 = 0 ∧ c.data.length % 4096 = 0 ∧ c.val2 + c.data.length ≤ 2 ^ 24)
    (hmine : (taken .fwDownload n c s.dev).fwu.owner = none ∨ (taken .fwDownload n c s.dev).fwu.owner = some (cntlidOf c s.dev)) (hoff : c.val2 = 0)
    (hv : (if c.val2 = 0 && rdb Reg.FWU_STATUS_COMPAT (emptyFwBuf (taken .fwDownload n c s.dev)) then
        verifyFw c.data 5 (emptyFwBuf (taken .fwDownload n c s.dev)) else (1, emptyFwBuf (taken .fwDownload n c s.dev))) =
      (st, emptyFwBuf (taken .fwDownload n c s.dev))) :
    Answers (.firmwareImageDownload c) s fun g => Ended c n 0x107 0 s.dev g ∧ g.fwu.ranges = [] ∧ g.fwu.owner = none := by
  have hblock : downloadBlock (cntlidOf c s.dev) c.val2 c.data (taken .fwDownload n c s.dev) =
      (0x107, emptyFwBuf (emptyFwBuf (taken .fwDownload n c s.dev))) := by
    rw [downloadBlock_mine hshaped hmine, if_pos hoff]
    exact blockLetIn_refused (ranges_emptyFwBuf _) hv hst
  refine download_answers hready hspt htaken hpass hblock ((fwOnly_emptyFwBuf _).trans (fwOnly_emptyFwBuf _)) fun g he hfwu _ => ?_
  rw [fwu_emptyFwBuf] at hfwu
  exact ⟨he, by rw [hfwu], by rw [hfwu]⟩

end

/-- A slot written, as seen once the directory and the buffer are done. -/
theorem slotWritten_seen {op : NvmeOp} {slot n : Nat} {c : HostCmd} {s : State} {y g : Dev}
    (hy : y = slotWritten slot true (taken op n c s.dev)) (hnv : g.nv.fw = y.nv.fw) :
    getFwSlot slot g = { present := true, image := bufRead (imgLen (bufRead 512 s.dev)) s.dev } := by
  have hseen : CommitSeen s.dev (taken op n c s.dev) := commitSeen_taken
  rw [getFwSlot, hnv, hy, nv_slotWritten]
  dsimp only
  rw [tget_tset_same, if_pos rfl, hseen.read, hseen.read]

/-- The image of a slot that a command fills. -/
theorem slot_filled {ca n : Nat} {c : HostCmd} {s : State} (hwhole : bufWhole (taken (.fwCommit ca) n c s.dev)) (hrb : c.readBack = true) :
    writeSlot (commitSlotNo ca c.sel (taken (.fwCommit ca) n c s.dev)) c.readBack (taken (.fwCommit ca) n c s.dev) =
      (0, slotWritten (commitSlotNo ca c.sel s.dev) true (taken (.fwCommit ca) n c s.dev)) := by
  rw [writeSlot_whole hwhole, hrb, if_pos rfl, commitSeen_taken.slotNo]

section
variable {i : Instr} {n : Nat} {c : HostCmd} {s : State} (hready : s.ready) (hspt : ∀ t, s.dev.sxc.spt = some t → t.bad = [])
include hready hspt

/-- A commit of CA 0 or 1 whose image cannot be read back leaves its slot empty (R564). -/
theorem commit_slot_lost {ca : Nat} (hi : exec i s = runLive (submit (.fwCommit ca) c) s) (htaken : capsuleTaken (.fwCommit ca) c n s.dev)
    (hpass : checksPass (.fwCommit ca) c s.dev) (hca : ca < 2) (hfree : SlotFree ca c.sel (taken (.fwCommit ca) n c s.dev))
    (hwhole : bufWhole (taken (.fwCommit ca) n c s.dev)) (hrb : c.readBack = false) :
    Answers i s fun g => Ended c n 0x107 0 s.dev g ∧ BufEmpty g ∧ (getFwSlot (commitSlotNo ca c.sel s.dev) g).present = false ∧
      g.nv.fwNext = s.dev.nv.fwNext := by
  have hseen : CommitSeen s.dev (taken (.fwCommit ca) n c s.dev) := commitSeen_taken
  have hw : writeSlot (commitSlotNo ca c.sel (taken (.fwCommit ca) n c s.dev)) c.readBack (taken (.fwCommit ca) n c s.dev) =
      (0x107, slotWritten (commitSlotNo ca c.sel (taken (.fwCommit ca) n c s.dev)) false (taken (.fwCommit ca) n c s.dev)) := by
    rw [writeSlot_whole hwhole, hrb, if_neg (by decide)]
  refine commit_answers hi hready hspt htaken hpass (hfree.commit_fails hca hw (by decide)) (fwOnly_slotWritten ..)
    fun g he hb _ hnv _ => ⟨he, hb, ?_, ?_⟩
  · rw [getFwSlot, hnv, nv_slotWritten, hseen.slotNo]
    dsimp only
    rw [tget_tset_same]
    rfl
  · rw [hnv, nv_slotWritten, hseen.nv]

/-- A commit of CA 0 fills its slot (R564). -/
theorem commit_slot_filled (hi : exec i s = runLive (submit (.fwCommit 0) c) s) (htaken : capsuleTaken (.fwCommit 0) c n s.dev)
    (hpass : checksPass (.fwCommit 0) c s.dev) (hfree : SlotFree 0 c.sel (taken (.fwCommit 0) n c s.dev))
    (hwhole : bufWhole (taken (.fwCommit 0) n c s.dev)) (hrb : c.readBack = true) :
    Answers i s fun g => Ended c n 0 0 s.dev g ∧ BufEmpty g ∧
      getFwSlot (commitSlotNo 0 c.sel s.dev) g = { present := true, image := bufRead (imgLen (bufRead 512 s.dev)) s.dev } ∧
      rd (Reg.FWU_SLOT_STATE (commitSlotNo 0 c.sel s.dev - 1)) g = 1 ∧ g.nv.fwNext = s.dev.nv.fwNext ∧ g.nv.fwActive = s.dev.nv.fwActive := by
  have hseen : CommitSeen s.dev (taken (.fwCommit 0) n c s.dev) := commitSeen_taken
  have hcommit := hfree.commit_slot (slot_filled hwhole hrb)
  have hoff : (Reg.FWU_SLOT_STATE (commitSlotNo 0 c.sel s.dev - 1)).off ∉ ambientRegs := hseen.slotNo 0 c.sel ▸ slotState_notAmbient hfree
  refine commit_answers hi hready hspt htaken hpass hcommit (fwOnly_slotWritten ..) fun g he hb _ hnv hrd => ⟨he, hb, ?_, ?_, ?_, ?_⟩
  · exact slotWritten_seen rfl (by rw [hnv])
  · rw [hrd _ hoff, (slotState_kept 0 0 _).1, slotState_slotWritten]
  · rw [hnv, nv_slotWritten, hseen.nv]
  · rw [hnv, nv_slotWritten, hseen.nv]

/-- A commit of CA 1 fills its slot and names it NEXT (R564). -/
theorem commit_slotNext_filled (hi : exec i s = runLive (submit (.fwCommit 1) c) s) (htaken : capsuleTaken (.fwCommit 1) c n s.dev)
    (hpass : checksPass (.fwCommit 1) c s.dev) (hfree : SlotFree 1 c.sel (taken (.fwCommit 1) n c s.dev))
    (hwhole : bufWhole (taken (.fwCommit 1) n c s.dev)) (hrb : c.readBack = true) :
    Answers i s fun g => Ended c n 0 0 s.dev g ∧ BufEmpty g ∧
      getFwSlot (commitSlotNo 1 c.sel s.dev) g = { present := true, image := bufRead (imgLen (bufRead 512 s.dev)) s.dev } ∧
      rd (Reg.FWU_SLOT_STATE (commitSlotNo 1 c.sel s.dev - 1)) g = 1 ∧ g.nv.fwNext = commitSlotNo 1 c.sel s.dev ∧
      g.nv.fwActive = s.dev.nv.fwActive := by
  have hseen : CommitSeen s.dev (taken (.fwCommit 1) n c s.dev) := commitSeen_taken
  have hcommit := hfree.commit_slotNext (slot_filled hwhole hrb)
  rw [if_pos rfl, hseen.slotNo] at hcommit
  have hoff : (Reg.FWU_SLOT_STATE (commitSlotNo 1 c.sel s.dev - 1)).off ∉ ambientRegs := hseen.slotNo 1 c.sel ▸ slotState_notAmbient hfree
  refine commit_answers hi hready hspt htaken hpass hcommit ((fwOnly_slotWritten ..).trans (fwOnly_putDirectory ..))
    fun g he hb _ hnv hrd => ⟨he, hb, ?_, ?_, ?_, ?_⟩
  · exact slotWritten_seen rfl (by rw [hnv, nv_putDirectory])
  · rw [hrd _ hoff, (slotState_kept 0 0 _).1, (slotState_kept _ _ _).2, slotState_slotWritten]
  · rw [hnv, nv_putDirectory]
  · rw [hnv, nv_putDirectory]
    dsimp only
    rw [nv_slotWritten, hseen.nv]

/-- A commit of CA 2 names its slot NEXT (R564). -/
theorem commit_next_named (hi : exec i s = runLive (submit (.fwCommit 2) c) s) (htaken : capsuleTaken (.fwCommit 2) c n s.dev)
    (hpass : checksPass (.fwCommit 2) c s.dev) (hfree : SlotFree 2 c.sel (taken (.fwCommit 2) n c s.dev)) :
    Answers i s fun g => Ended c n 0 0 s.dev g ∧ BufEmpty g ∧ g.nv = { s.dev.nv with fwNext := commitSlotNo 2 c.sel s.dev } ∧
      rd Reg.FWU_STATUS_NEXT g = commitSlotNo 2 c.sel s.dev := by
  have hseen : CommitSeen s.dev (taken (.fwCommit 2) n c s.dev) := commitSeen_taken
  have hcommit := hfree.commit_next (rb := c.readBack)
  have hlow : commitSlotNo 2 c.sel s.dev ≤ 3 := by
    have hnamed := hfree.named
    rw [hseen.slotNo] at hnamed
    omega
  rw [hseen.slotNo, hseen.nv] at hcommit
  refine commit_answers hi hready hspt htaken hpass hcommit (fwOnly_putDirectory ..) fun g he hb _ hnv hrd => ⟨he, hb, ?_, ?_⟩
  · rw [hnv, nv_putDirectory, hseen.nv]
  · rw [hrd _ (by decide), rd_emptyFwBuf (.inr ⟨by decide, by decide⟩) (by decide), putDirectory, rd_wr_same (by decide)]
    exact Nat.mod_eq_of_lt (lt_of_le_of_lt hlow (by decide))

end

/-- A commit whose slot may be named, seen from the device at its capsule. -/
theorem slotFree_taken {ca n : Nat} {c : HostCmd} {s : State} (hidle : s.dev.fwu.act = none)
    (hnamed : ¬(3 < commitSlotNo ca c.sel s.dev ∨ commitSlotNo ca c.sel s.dev = runSlot s.dev ∨
      (2 ≤ ca ∧ (getFwSlot (commitSlotNo ca c.sel s.dev) s.dev).present = false))) : SlotFree ca c.sel (taken (.fwCommit ca) n c s.dev) := by
  have hseen : CommitSeen s.dev (taken (.fwCommit ca) n c s.dev) := commitSeen_taken
  exact ⟨by rw [hseen.fwu]; exact hidle, by rwa [hseen.slotNo, hseen.run, hseen.slot]⟩

theorem bufWhole_taken {ca n : Nat} {c : HostCmd} {s : State} : bufWhole (taken (.fwCommit ca) n c s.dev) ↔ bufWhole s.dev := by
  have hseen : CommitSeen s.dev (taken (.fwCommit ca) n c s.dev) := commitSeen_taken
  rw [bufWhole, bufWhole, hseen.bytes, hseen.read]

section
variable {i : Instr} {n : Nat} {c : HostCmd} {s : State} (hi : exec i s = runLive (submit (.fwCommit 3) c) s) (hready : s.ready)
  (hspt : ∀ t, s.dev.sxc.spt = some t → t.bad = []) (htaken : capsuleTaken (.fwCommit 3) c n s.dev) (hpass : checksPass (.fwCommit 3) c s.dev)
  (hfree : SlotFree 3 c.sel (taken (.fwCommit 3) n c s.dev))
include hi hready hspt htaken hpass hfree

/-- A CA 3 ends with the first condition that fails, or queues the activation (R565). -/
theorem commit_activate :
    let image := (getFwSlot (commitSlotNo 3 c.sel s.dev) s.dev).image
    let kept (g : Dev) := g.nv = s.dev.nv ∧ BufEmpty g
    (¬activationFits s.dev → Answers i s fun g => Ended c n 0x113 0 s.dev g ∧ kept g) ∧
    (activationFits s.dev → imgHandoff image ≠ imgHandoff (getFwSlot (runSlot s.dev) s.dev).image →
      Answers i s fun g => Ended c n 0x10B 0 s.dev g ∧ kept g) ∧
    (activationFits s.dev → imgHandoff image = imgHandoff (getFwSlot (runSlot s.dev) s.dev).image → Answers i s fun g => kept g ∧
      if (verifyFw image 6 s.dev).1 = 1 then (getFc n g).ready = none ∧ rdb Reg.FWU_STATUS_ACT_BUSY g = true ∧
        g.fwu.act = some (newActivation (commitSlotNo 3 c.sel s.dev) n)
      else Ended c n 0x107 0 s.dev g ∧ g.fwu.act = none) := by
  intro image kept
  have hseen : CommitSeen s.dev (taken (.fwCommit 3) n c s.dev) := commitSeen_taken
  obtain ⟨hfits, hrun, hreg⟩ := activationFits_emptyFwBuf (op := .fwCommit 3) (n := n) (c := c) (d := s.dev)
  obtain ⟨b, hb⟩ : ∃ b, emptyFwBuf (taken (.fwCommit 3) n c s.dev) = b := ⟨_, rfl⟩
  have hnv : b.nv = s.dev.nv := hb ▸ (nv_emptyFwBuf _).trans hseen.nv
  have hsxc : b.sxc = s.dev.sxc := hb ▸ (fwOnly_emptyFwBuf _).sxc.trans (taken_kept hready).2.2.1
  have hslot : ∀ k, getFwSlot k b = getFwSlot k s.dev := fun k => by rw [getFwSlot, hnv]; rfl
  have hno := hseen.slotNo 3 c.sel
  rw [hb] at hfits hrun hreg
  have hverify := verifyFw_congr hspt hnv hsxc hreg image 6
  have hverdict : ∀ st y, mayActivate (commitSlotNo 3 c.sel s.dev) b = (st, y) →
      mayActivate (commitSlotNo 3 c.sel (taken (.fwCommit 3) n c s.dev)) b = (st, y) := fun st y h => by rw [hno]; exact h
  refine ⟨fun hunfit => ?_, fun hfit hother => ?_, fun hfit hsame => ?_⟩
  · have hstep : mayActivate (commitSlotNo 3 c.sel s.dev) b = (0x113, b) := mayActivate_unfit fun h => hunfit (hfits.1 h)
    refine answers_imp (activate_refused hi hready hspt htaken hpass hfree hb (hverdict _ _ hstep) (by decide) (.refl b)) fun g hg => ?_
    obtain ⟨he, hgnv, hempty, -⟩ := hg
    exact ⟨he, hgnv, hempty⟩
  · have hstep : mayActivate (commitSlotNo 3 c.sel s.dev) b = (0x10B, b) := mayActivate_handoff (hfits.2 hfit) (by rw [hrun, hslot, hslot]; exact hother)
    refine answers_imp (activate_refused hi hready hspt htaken hpass hfree hb (hverdict _ _ hstep) (by decide) (.refl b)) fun g hg => ?_
    obtain ⟨he, hgnv, hempty, -⟩ := hg
    exact ⟨he, hgnv, hempty⟩
  · have hstep := mayActivate_verified (slot := commitSlotNo 3 c.sel s.dev) (d := b) (hfits.2 hfit) (by rw [hrun, hslot, hslot]; exact hsame)
      (by rw [hslot]; exact hverify)
    have honly := activateOnly_showSlot (commitSlotNo 3 c.sel s.dev) (verifyFw image 6 s.dev).1 b
    by_cases hv : (verifyFw image 6 s.dev).1 = 1
    · rw [if_pos hv] at hstep
      refine answers_imp (activate_queued hi hready hspt htaken hpass hfree hb (hverdict _ _ hstep) honly) fun g hg => ?_
      obtain ⟨hgnv, hempty, hopen, hbusy, hact⟩ := hg
      rw [if_pos hv]
      exact ⟨⟨hgnv, hempty⟩, hopen, hbusy, hno ▸ hact⟩
    · rw [if_neg hv] at hstep
      refine answers_imp (activate_refused hi hready hspt htaken hpass hfree hb (hverdict _ _ hstep) (by decide) honly) fun g hg => ?_
      obtain ⟨he, hgnv, hempty, hact⟩ := hg
      rw [if_neg hv]
      exact ⟨⟨hgnv, hempty⟩, he, hact⟩

end

/-- Settles O52: an accepted download goes by its block and the buffer, a commit by the slot that it names, the buffer's image and, for CA 3,
the conditions of R565. -/
theorem firmwareImagesAreStored : Obligations.FirmwareImagesAreStored := by
  intro s c n hready hspt
  refine ⟨fun htaken hpass => ?_, fun ca htaken hpass => ?_⟩
  · intro off same shaped mine overlaps stored
    have hfwu : (taken .fwDownload n c s.dev).fwu = s.dev.fwu := commitSeen_taken.fwu
    have hmine : mine → (taken .fwDownload n c s.dev).fwu.owner = none ∨ (taken .fwDownload n c s.dev).fwu.owner = some (cntlidOf c s.dev) :=
      fun h => by rw [hfwu]; exact h
    have hnofirst : off ≠ 0 → (if c.val2 = 0 && rdb Reg.FWU_STATUS_COMPAT (taken .fwDownload n c s.dev) then
        verifyFw c.data 5 (taken .fwDownload n c s.dev) else (1, taken .fwDownload n c s.dev)) = (1, taken .fwDownload n c s.dev) :=
      fun h => if_neg (by simp [show c.val2 ≠ 0 from h])
    refine ⟨fun h => ?_, fun hsh hm => ?_, fun hsh hm hoff hover => ?_, fun hsh hm hoff hover => ?_, fun hsh hm hoff hgood => ?_,
      fun hsh hm hoff hcompat hbad => ?_⟩
    · exact download_kept hready hspt htaken hpass (downloadBlock_misshapen h) rfl
    · exact download_kept hready hspt htaken hpass (downloadBlock_owned hsh (by rw [hfwu]; exact hm)) rfl
    · refine download_kept hready hspt htaken hpass ((downloadBlock_mine hsh (hmine hm)).trans ?_) rfl
      rw [if_neg (show c.val2 ≠ 0 from hoff)]
      exact blockLetIn_overlaps (by rw [hfwu]; exact hover)
    · have hdone := download_stored hready hspt htaken hpass (.refl _) <| (downloadBlock_mine hsh (hmine hm)).trans <| by
        rw [if_neg (show c.val2 ≠ 0 from hoff)]
        exact blockLetIn_stored (by rw [hfwu]; exact hover) (hnofirst hoff)
      rwa [hfwu] at hdone
    · have hdone := download_stored hready hspt htaken hpass (fwOnly_emptyFwBuf _) <| (downloadBlock_mine hsh (hmine hm)).trans <| by
        rw [if_pos (show c.val2 = 0 from hoff)]
        exact blockLetIn_stored (by rw [ranges_emptyFwBuf]; simp) ((download_first hready hspt hoff).1 hgood)
      rwa [ranges_emptyFwBuf] at hdone
    · exact download_failed hready hspt htaken hpass hbad hsh (hmine hm) hoff ((download_first hready hspt hoff).2 hcompat)
  · intro slot cmd emptied kept bad whole image
    have hi : exec cmd s = runLive (submit (.fwCommit ca.val) c) s := by fin_cases ca <;> rfl
    have hseen : CommitSeen s.dev (taken (.fwCommit ca.val) n c s.dev) := commitSeen_taken
    have hempty : ∀ {g : Dev}, BufEmpty g → emptied g := fun h => ⟨h.owner, h.ranges, h.busy, h.bytes⟩
    have hkept : ∀ {st : Nat}, (Answers cmd s fun g => Ended c n st 0 s.dev g ∧ g.nv = s.dev.nv ∧ BufEmpty g) →
        Answers cmd s fun g => Ended c n st 0 s.dev g ∧ kept g := fun h => answers_imp h fun g hg => ⟨hg.1, hg.2.1, hempty hg.2.2⟩
    refine ⟨fun hbusy => ?_, fun hidle hbad => ?_, fun hidle hnamed => ?_⟩
    · exact hkept (commit_kept hi hready hspt htaken hpass (commitFw_busy (by rw [hseen.fwu]; exact hbusy)) rfl)
    · refine hkept (commit_kept hi hready hspt htaken hpass (commitFw_refused (by rw [hseen.fwu]; exact hidle) ?_) rfl)
      rw [hseen.slotNo, hseen.run, hseen.slot]
      exact hbad
    · have hfree : SlotFree ca.val c.sel (taken (.fwCommit ca.val) n c s.dev) := slotFree_taken hidle hnamed
      refine ⟨fun hca hgap => ?_, fun hca hwhole hrb => ?_, fun hca hwhole hrb => ?_, fun hca => ?_, fun hca => ?_⟩
      · exact hkept (commit_kept hi hready hspt htaken hpass
          (hfree.commit_fails hca (writeSlot_gap fun h => hgap (bufWhole_taken.1 h)) (by decide)) rfl)
      · exact answers_imp (commit_slot_lost hready hspt hi htaken hpass hca hfree (bufWhole_taken.2 hwhole) hrb) fun g hg =>
          ⟨hg.1, hempty hg.2.1, hg.2.2⟩
      · obtain rfl | rfl : ca = 0 ∨ ca = 1 := by omega
        · exact answers_imp (commit_slot_filled hready hspt hi htaken hpass hfree (bufWhole_taken.2 hwhole) hrb) fun g hg =>
            ⟨hg.1, hempty hg.2.1, hg.2.2⟩
        · exact answers_imp (commit_slotNext_filled hready hspt hi htaken hpass hfree (bufWhole_taken.2 hwhole) hrb) fun g hg =>
            ⟨hg.1, hempty hg.2.1, hg.2.2⟩
      · obtain rfl : ca = 2 := Fin.ext hca
        exact answers_imp (commit_next_named hready hspt hi htaken hpass hfree) fun g hg => ⟨hg.1, hempty hg.2.1, hg.2.2⟩
      · obtain rfl : ca = 3 := Fin.ext hca
        intro fit same
        obtain ⟨hunfit, hother, hsame⟩ := commit_activate hi hready hspt htaken hpass hfree
        exact ⟨fun h => hkept (hunfit h), fun h k => hkept (hother h k), fun h k => answers_imp (hsame h k) fun g hg =>
          ⟨⟨hg.1.1, hempty hg.1.2⟩, hg.2⟩⟩

end Sys2Proof.Proofs

/-!
PROOFS. O23: the admin commands of Table 5.4 that pass their checks.
-/

namespace Sys2Proof.Proofs

open Sys2Proof Sys2Proof.Machine

/-! ### What is done for other commands leaves a command in hand -/

theorem mem_tset {α : Type} [DecidableEq α] {x v : α} {t : Tab α} {k : Nat} {p : Nat × α} (h : p ∈ tset x t k v) :
    p = (k, v) ∨ (p ∈ t ∧ p.1 ≠ k) := by
  have hdel : ∀ {p : Nat × α}, p ∈ tdel k t → p ∈ t ∧ p.1 ≠ k := fun h => by simpa [tdel] using h
  rw [tset] at h
  split at h
  · exact .inr (hdel h)
  · exact (mem_tins h).imp id hdel

/-- Record `n` holds a command with this opcode only, and no controller holds it as an event request. -/
structure CmdAlone (n : Nat) (op : NvmeOp) (d : Dev) : Prop where
  aers : ∀ k ∈ d.front.ctrls, n ∉ k.2.aers
  ops : ∀ f ∈ d.front.cmds, f.1 = n → f.2.op = op

/-- The command in record `n` stands, nothing more is owed, and no namespace has come. -/
structure CmdFollows (n : Nat) (op : NvmeOp) (d e : Dev) : Prop where
  alone : CmdAlone n op e
  fc : getFc n e = getFc n d
  cmd : getCmd n e = getCmd n d
  held : e.cas.outputsHeld = d.cas.outputsHeld
  todo : e.todo = d.todo
  gone : ∀ m, (getNs m d).exists_ = false → (getNs m e).exists_ = false

/-- A step that keeps the command in record `n`. -/
structure CmdKept (n : Nat) (op : NvmeOp) (d e : Dev) : Prop where
  follows : CmdAlone n op d → CmdFollows n op d e

section
variable {n : Nat} {op : NvmeOp} {a b c d e : Dev}

theorem CmdKept.refl (d : Dev) : CmdKept n op d d := ⟨fun h => ⟨h, rfl, rfl, rfl, rfl, fun _ hm => hm⟩⟩

theorem CmdKept.trans (h : CmdKept n op a b) (k : CmdKept n op b c) : CmdKept n op a c := by
  refine ⟨fun ha => ?_⟩
  obtain ⟨hb, hfc, hcmd, hheld, htodo, hgone⟩ := h.follows ha
  obtain ⟨hc, hfc', hcmd', hheld', htodo', hgone'⟩ := k.follows hb
  exact ⟨hc, hfc'.trans hfc, hcmd'.trans hcmd, hheld'.trans hheld, htodo'.trans htodo, fun m hm => hgone' m (hgone m hm)⟩

/-- A step that leaves the command tables, the controllers and the namespaces. -/
structure TablesKept (d e : Dev) : Prop where
  cmds : e.front.cmds = d.front.cmds
  ctrls : e.front.ctrls = d.front.ctrls
  cas : e.cas = d.cas
  todo : e.todo = d.todo
  ns : e.md.ns = d.md.ns

theorem TablesKept.refl (d : Dev) : TablesKept d d := ⟨rfl, rfl, rfl, rfl, rfl⟩

theorem TablesKept.trans (h : TablesKept a b) (k : TablesKept b c) : TablesKept a c :=
  ⟨k.cmds.trans h.cmds, k.ctrls.trans h.ctrls, k.cas.trans h.cas, k.todo.trans h.todo, k.ns.trans h.ns⟩

theorem CmdKept.of_tables (h : TablesKept d e) : CmdKept n op d e := by
  refine ⟨fun hd => ?_⟩
  obtain ⟨hcmds, hctrls, hcas, htodo, hns⟩ := h
  refine ⟨⟨hctrls ▸ hd.aers, hcmds ▸ hd.ops⟩, ?_, ?_, by rw [hcas], htodo, fun m hm => ?_⟩
  · rw [getFc, hcmds]; rfl
  · rw [getCmd, hcas]; rfl
  · rw [getNs, hns]; exact hm

theorem tablesKept_send (o : Out) (d : Dev) : TablesKept d (send o d) := ⟨rfl, rfl, rfl, rfl, rfl⟩
theorem tablesKept_wr (f : Field) (v : Nat) (d : Dev) : TablesKept d (wr f v d) := ⟨rfl, rfl, rfl, rfl, rfl⟩
theorem tablesKept_bump (f : Field) (d : Dev) : TablesKept d (bump f d) := by
  rw [bump_rest]; exact ⟨rfl, rfl, rfl, rfl, rfl⟩
theorem tablesKept_drawNat (k : Nat) (d : Dev) : TablesKept d (drawNat k d).2 := ⟨rfl, rfl, rfl, rfl, rfl⟩
theorem tablesKept_hostOut (c : HostCmd) (own : Out) (x : PeerAnswer) (d : Dev) : TablesKept d (hostOut c own x d) := by
  rw [hostOut]
  split
  · exact .refl d
  · exact tablesKept_send ..

theorem tablesKept_forEach {l : List Nat} {f : Nat → Dev → Dev} (h : ∀ m e, TablesKept e (f m e)) (d : Dev) : TablesKept d (forEach l f d) := by
  induction l generalizing d with
  | nil => exact .refl d
  | cons m l ih => exact (h m d).trans (ih (f m d))

theorem cmdKept_forEach {l : List Nat} {f : Nat → Dev → Dev} (h : ∀ m ∈ l, ∀ e, CmdKept n op e (f m e)) (d : Dev) :
    CmdKept n op d (forEach l f d) := by
  induction l generalizing d with
  | nil => exact .refl d
  | cons m l ih => exact (h m (by simp) d).trans (ih (fun k hk => h k (by simp [hk])) (f m d))

/-- Another record of the front end changes. -/
theorem cmdKept_setFc {m : Nat} (hm : m ≠ n) (v : FrontCmd) (d : Dev) :
    CmdKept n op d { d with front.cmds := tset {} d.front.cmds m v } := by
  refine ⟨fun hd => ?_⟩
  refine ⟨⟨hd.aers, fun f hf hfn => ?_⟩, ?_, rfl, rfl, rfl, fun _ hk => hk⟩
  · rcases mem_tset hf with rfl | ⟨hf, -⟩
    · exact absurd hfn hm
    · exact hd.ops f hf hfn
  · exact tget_tset_ne hm.symm

theorem cmdKept_modFc {m : Nat} (hm : m ≠ n) (f : FrontCmd → FrontCmd) (d : Dev) : CmdKept n op d (modFc m f d) := cmdKept_setFc hm ..

/-- Another command record changes. -/
theorem cmdKept_setCmd {m : Nat} (hm : m ≠ n) (v : CmdRecord) (d : Dev) :
    CmdKept n op d { d with cas.cmds := tset {} d.cas.cmds m v } :=
  ⟨fun hd => ⟨⟨hd.aers, hd.ops⟩, rfl, tget_tset_ne hm.symm, rfl, rfl, fun _ hk => hk⟩⟩

/-- A controller changes that does not come to hold the command as an event request. -/
theorem cmdKept_setCtrl {id : Nat} {k : Controller} (d : Dev) (hk : CmdAlone n op d → n ∉ k.aers) :
    CmdKept n op d { d with front.ctrls := tset {} d.front.ctrls id k } := by
  refine ⟨fun hd => ?_⟩
  refine ⟨⟨fun f hf => ?_, hd.ops⟩, rfl, rfl, rfl, rfl, fun _ h => h⟩
  rcases mem_tset hf with rfl | ⟨hf, -⟩
  · exact hk hd
  · exact hd.aers f hf

end

/-! ### Completions and events of others -/

section
variable {n : Nat} {op : NvmeOp}

theorem cmdKept_endCmd {m : Nat} (hm : m ≠ n) (kind : Nat) (d : Dev) : CmdKept n op d (endCmd m kind d) := by
  unfold endCmd
  split
  · exact .refl d
  · refine (cmdKept_setCmd hm {} d).trans ((cmdKept_setFc hm {} _).trans (.of_tables ?_))
    refine .trans (b := { d with
      cas.cmds := tset {} d.cas.cmds m {}, front.cmds := tset {} d.front.cmds m {}
      front.waiting := d.front.waiting.filter (· != m)
      stg.capacity := if (getFc m d).reserved = 0 then d.stg.capacity
        else tset 0 d.stg.capacity (getNs (getFc m d).cmd.nsid d).pool (tget 0 d.stg.capacity (getNs (getFc m d).cmd.nsid d).pool - (getFc m d).reserved) })
      ⟨rfl, rfl, rfl, rfl, rfl⟩ ?_
    exact (tablesKept_send ..).trans ((tablesKept_send ..).trans ((tablesKept_send ..).trans ((tablesKept_wr ..).trans (tablesKept_bump ..))))

theorem cmdKept_postCompletion {m : Nat} (hm : m ≠ n) (d : Dev) : CmdKept n op d (postCompletion m d) := by
  unfold postCompletion
  dsimp only
  split
  · split
    · split
      · exact cmdKept_endCmd hm ..
      · exact (cmdKept_modFc hm _ d).trans (.of_tables (tablesKept_hostOut ..))
    · exact .refl d
  · exact .refl d

theorem cmdKept_complete {m : Nat} (hm : m ≠ n) (st : Nat) (dnr : Bool) (d : Dev) : CmdKept n op d (complete m st dnr d) := by
  unfold complete
  split
  · exact .refl d
  · exact (cmdKept_modFc hm _ d).trans (cmdKept_postCompletion hm _)

theorem cmdKept_completeOpen {m : Nat} (hm : m ≠ n) (st : Nat) (d : Dev) : CmdKept n op d (completeOpen m st d) := by
  unfold completeOpen
  split
  · exact cmdKept_complete hm ..
  · exact .trans (.of_tables (tablesKept_drawNat 2 d)) (cmdKept_complete hm ..)

theorem CmdAlone.notIn {d : Dev} (h : CmdAlone n op d) (id : Nat) : n ∉ (tget {} d.front.ctrls id).aers := by
  by_cases hk : tget {} d.front.ctrls id = {}
  · rw [hk]; simp
  · exact h.aers _ (mem_of_tget_ne hk)

/-- A controller whose event `e` has been given. -/
def eventGiven (e : Nat) (as : List Nat) (k : Controller) : Controller :=
  { k with events := k.events.erase e, aers := as, masked := e :: k.masked }

/-- The device with an event given to record `a`, before its completion. -/
def eventTaken (id a e : Nat) (k : Controller) (as : List Nat) (d : Dev) : Dev :=
  modFc a (fun f => { f with dw0 := eventDw0 e }) { d with front.ctrls := tset {} d.front.ctrls id (eventGiven e as k) }

theorem giveEvent_first {id a e : Nat} {as : List Nat} {k : Controller} {d : Dev} (hk : tget {} d.front.ctrls id = k)
    (hevent : k.events.find? (fun e => !k.masked.contains e) = some e) (haers : k.aers = a :: as) :
    giveEvent id d = complete a 0 false (eventTaken id a e k as d) := by
  unfold giveEvent
  dsimp only
  rw [hk, hevent, haers]
  rfl

theorem cmdKept_giveEvent (id : Nat) (d : Dev) : CmdKept n op d (giveEvent id d) := by
  refine ⟨fun hd => ?_⟩
  have hnotin := hd.notIn id
  unfold giveEvent
  dsimp only
  split
  next e a as hfind haers =>
    rw [haers] at hnotin
    have ha : a ≠ n := fun h => hnotin (by simp [h])
    exact ((cmdKept_setCtrl d fun _ h => hnotin (List.mem_cons_of_mem _ h)).trans
      ((cmdKept_modFc ha _ _).trans (cmdKept_complete ha ..))).follows hd
  · exact (CmdKept.refl d).follows hd

theorem cmdKept_modCtrl (id : Nat) {f : Controller → Controller} (hf : ∀ k, (f k).aers = k.aers) (d : Dev) : CmdKept n op d (modCtrl id f d) :=
  cmdKept_setCtrl d fun h => by rw [hf]; exact h.notIn id

theorem cmdKept_raiseEvent (e : Nat) (p : Controller → Bool) (d : Dev) : CmdKept n op d (raiseEvent e p d) := by
  unfold raiseEvent
  refine cmdKept_forEach (fun id _ x => ?_) d
  dsimp only
  refine .trans (cmdKept_setCtrl x fun hx => ?_) (cmdKept_giveEvent id _)
  have hnotin := hx.notIn id
  split
  · exact hnotin
  · exact hnotin

end

/-! ### Namespaces that go -/

section
variable {n : Nat} {op : NvmeOp}

theorem tablesKept_freeSlot (k : Nat) (d : Dev) : TablesKept d (freeSlot k d) := by
  unfold freeSlot
  dsimp only
  split <;> exact ⟨rfl, rfl, rfl, rfl, rfl⟩

theorem tablesKept_dropSlot (k : Nat) (d : Dev) : TablesKept d (dropSlot k d) :=
  .trans (b := { d with stg.reads := d.stg.reads.filter fun r => r.2.who != .merge k && r.2.who != .compare k }) ⟨rfl, rfl, rfl, rfl, rfl⟩
    ((tablesKept_freeSlot k _).trans (tablesKept_send ..))

theorem tablesKept_setPause (p cause mask : Nat) (d : Dev) : TablesKept d (setPause p cause mask d) := by
  have hsend : ∀ (b : Prop) [Decidable b] (o : Out) (x : Dev), TablesKept x (if b then x else send o x) := fun b _ o x => by
    split
    · exact .refl x
    · exact tablesKept_send o x
  unfold setPause
  dsimp only
  refine .trans (b := modPort p (fun x => { x with pauses := tset 0 x.pauses cause mask }) d) ⟨rfl, rfl, rfl, rfl, rfl⟩ ?_
  exact (tablesKept_wr ..).trans ((hsend ..).trans (hsend ..))

theorem tablesKept_showTight (d : Dev) : TablesKept d (showTight d) := by
  unfold showTight pauseAll
  extract_lets lim free tight
  split
  · exact .refl d
  · exact .trans (b := { d with stg.tight := tight }) ⟨rfl, rfl, rfl, rfl, rfl⟩ (tablesKept_forEach (fun p x => tablesKept_setPause p 1 _ x) _)

theorem tablesKept_buryRoot (nsid : Nat) (d : Dev) : TablesKept d (buryRoot nsid d) := ⟨rfl, rfl, rfl, rfl, rfl⟩

theorem cmdKept_endNsCmd {m : Nat} (hm : m ≠ n) (d : Dev) : CmdKept n op d (endNsCmd m d) := by
  unfold endNsCmd
  split
  · exact .refl d
  · refine .trans (b := { d with
      stg.reads := d.stg.reads.filter fun r => match r.2.who with
        | .host rec _ => rec != m
        | _ => true
      front.waiting := d.front.waiting.filter (· != m) }) (.of_tables ⟨rfl, rfl, rfl, rfl, rfl⟩) ?_
    exact (cmdKept_modFc hm _ _).trans (cmdKept_completeOpen hm ..)

/-- A Namespace Management command is none of the commands that a delete ends. -/
theorem CmdAlone.notNsCmd {d : Dev} (hd : CmdAlone n .nsManage d) {nsid m : Nat} (hm : m ∈ nsCmds nsid d) : m ≠ n := by
  obtain ⟨f, hf, rfl⟩ := List.mem_map.1 hm
  obtain ⟨hf, hop⟩ := List.mem_filter.1 hf
  intro hfn
  rw [hd.ops f hf hfn] at hop
  simp at hop

/-- What a delete does before the namespace goes. -/
def nsEmptied (nsid : Nat) (d : Dev) : Dev :=
  let x := forEach ((d.stg.slots.filter fun s => s.2.nsid == nsid).map (·.1)) dropSlot d
  buryRoot nsid (showTight (forEach (nsCmds nsid x) endNsCmd x))

theorem cmdKept_nsEmptied (nsid : Nat) (d : Dev) : CmdKept n .nsManage d (nsEmptied nsid d) := by
  have hslots := tablesKept_forEach (l := (d.stg.slots.filter fun s => s.2.nsid == nsid).map (·.1)) tablesKept_dropSlot d
  have hcmds : ∀ x, CmdKept n .nsManage x (buryRoot nsid (showTight (forEach (nsCmds nsid x) endNsCmd x))) := fun x => ⟨fun hx => by
    have hend := cmdKept_forEach (op := .nsManage) (l := nsCmds nsid x) (fun m hm e => cmdKept_endNsCmd (hx.notNsCmd hm) e) x
    exact (hend.trans (.of_tables ((tablesKept_showTight _).trans (tablesKept_buryRoot ..)))).follows hx⟩
  exact (CmdKept.of_tables hslots).trans (hcmds _)

theorem cmdKept_deleteNs (nsid : Nat) (d : Dev) : CmdKept n .nsManage d (deleteNs nsid d) := by
  refine (cmdKept_nsEmptied nsid d).trans ⟨fun hx => ?_⟩
  refine ⟨⟨hx.aers, hx.ops⟩, rfl, rfl, rfl, rfl, fun m hm => ?_⟩
  have hns : (getNs m (deleteNs nsid d)) = tget {} (tset {} (nsEmptied nsid d).md.ns nsid
    { group := (getNs nsid (nsEmptied nsid d)).group, pool := (getNs nsid (nsEmptied nsid d)).pool }) m := rfl
  rw [hns, tget_tset]
  split
  · rfl
  · exact hm

theorem exists_deleteNs (nsid : Nat) (d : Dev) : (getNs nsid (deleteNs nsid d)).exists_ = false := by
  have hns : (getNs nsid (deleteNs nsid d)) = tget {} (tset {} (nsEmptied nsid d).md.ns nsid
    { group := (getNs nsid (nsEmptied nsid d)).group, pool := (getNs nsid (nsEmptied nsid d)).pool }) nsid := rfl
  rw [hns, tget_tset_same]

/-- A namespace is deleted, and the controllers that it was attached to hear of it (R147, R659). -/
def nsGone (m : Nat) (d : Dev) : Dev := deleteNs m (raiseEvent 1 (fun k => (getNs m d).hosts.contains k.nqn) d)

theorem cmdKept_nsGone (m : Nat) (d : Dev) : CmdKept n .nsManage d (nsGone m d) := (cmdKept_raiseEvent ..).trans (cmdKept_deleteNs ..)

/-- Namespaces deleted one after the other are gone in the end. -/
theorem exists_forEach_nsGone {l : List Nat} {d : Dev} (hd : CmdAlone n .nsManage d) :
    ∀ m, m ∈ l ∨ (getNs m d).exists_ = false → (getNs m (forEach l nsGone d)).exists_ = false := by
  induction l generalizing d with
  | nil => exact fun m hm => hm.resolve_left (by simp)
  | cons k l ih =>
    intro m hm
    have hstep := (cmdKept_nsGone k d).follows hd
    refine ih hstep.alone m ?_
    rcases hm with hm | hm
    · rcases List.mem_cons.1 hm with rfl | hm
      · exact .inr (exists_deleteNs m _)
      · exact .inl hm
    · exact .inr (hstep.gone m hm)

end

/-! ### The command in hand -/

theorem CmdOpen.of_kept {n dw0 : Nat} {op : NvmeOp} {c : HostCmd} {own : Bool} {d e : Dev} (h : CmdOpen n c dw0 own d) (hd : CmdAlone n op d)
    (k : CmdKept n op d e) : CmdOpen n c dw0 own e := by
  obtain ⟨-, hfc, hcmd, hheld, -, -⟩ := k.follows hd
  exact ⟨hfc ▸ h.cmd, hfc ▸ h.ready, hfc ▸ h.posted, hfc ▸ h.torn, by rw [hfc]; exact h.dw0, hcmd ▸ h.acked, hcmd ▸ h.ctx, hcmd ▸ h.cid,
    by rw [hheld]; exact h.held⟩

theorem cmdAlone_taken {op : NvmeOp} {n : Nat} {c : HostCmd} {d : Dev} (h : capsuleTaken op c n d) : CmdAlone n op (taken op n c d) := by
  obtain ⟨-, -, -, -, -, -, -, haers⟩ := h
  have hctrls : (taken op n c d).front.ctrls = d.front.ctrls := by rw [(acceptOnly_taken (op := op) (n := n) (c := c)).rest]
  refine ⟨hctrls ▸ haers, fun f hf hfn => ?_⟩
  rcases mem_tset hf with rfl | ⟨-, hne⟩
  · exact congrArg FrontCmd.op (getFc_acceptCmd ..)
  · exact absurd hfn hne

/-! ### The end of an admin command -/

section
variable {i : Instr} {op : NvmeOp} {n st dw0 : Nat} {c : HostCmd} {s : State} {y : Dev} {P : Dev → Prop}

/-- The answer of a command that completes where its work has left the device. -/
theorem complete_answers (hruns : RunsTo i s (complete n st false y)) (hopen : CmdOpen n c dw0 (alone s.dev) y) (hvia : c.viaPeer = false)
    (htodo : y.todo = [])
    (hp : ∀ g, Ended c n st dw0 s.dev g → g.front = { y.front with cmds := g.front.cmds } → g.md = y.md →
      (∀ f : Field, f.off ∉ ambientRegs → rd f g = rd f y) → (∀ o ∈ y.out, o ∈ g.out) → P g) : Answers i s P := by
  obtain ⟨-, -, hdone⟩ := hopen.complete (st := st) hvia false
  refine hruns.answers (by rw [hdone.rest]; exact htodo) fun g hg => hp g (hdone.ended hg) ?_ ?_ (fun f hf => ?_) fun o ho => hdone.mem_out hg ho
  · rw [hg.front, hdone.rest]
  · rw [hg.md, hdone.rest]
  · rw [hg.rd hf]; exact rd_of_regs (by rw [hdone.rest]) f

theorem todo_taken (hready : s.ready) : (taken op n c s.dev).todo = [] := (taken_kept hready).2.2.2.1

theorem cntlidOf_taken (hready : s.ready) : cntlidOf c (taken op n c s.dev) = cntlidOf c s.dev := (taken_kept hready).2.2.2.2

theorem ctrls_taken : (taken op n c s.dev).front.ctrls = s.dev.front.ctrls := by
  rw [(acceptOnly_taken (op := op) (n := n) (c := c)).rest]

theorem md_taken : (taken op n c s.dev).md = s.dev.md := by rw [(acceptOnly_taken (op := op) (n := n) (c := c)).rest]

/-- Steps that keep a command in hand keep what its completion is made of, and owe nothing. -/
theorem cmdOpen_after (hready : s.ready) (htaken : capsuleTaken op c n s.dev) (hop : isAdmin op = true)
    (hy : CmdKept n op (taken op n c s.dev) y) : CmdOpen n c (if op = .abort then 1 else 0) (alone s.dev) y ∧ y.todo = [] :=
  ⟨(cmdOpen_taken htaken hop).of_kept (cmdAlone_taken htaken) hy,
    (hy.follows (cmdAlone_taken htaken)).todo.trans (todo_taken hready)⟩

end

theorem tablesKept_identifyData (c : HostCmd) (d : Dev) : TablesKept d (identifyData c d) := by
  unfold identifyData
  split
  · exact tablesKept_send ..
  · exact tablesKept_send ..
  · exact tablesKept_send ..
  · exact .trans (b := (drawBytes 4096 d).2) ⟨rfl, rfl, rfl, rfl, rfl⟩ (tablesKept_hostOut ..)

/-- A log page read unmasks its type of event (R659). -/
def eventUnmasked (c : HostCmd) (d : Dev) : Dev :=
  if logEvent c.sel = 0 then d
  else giveEvent (cntlidOf c d) (modCtrl (cntlidOf c d) (fun x => { x with masked := x.masked.filter (· != logEvent c.sel) }) d)

theorem cmdKept_eventUnmasked {n : Nat} {op : NvmeOp} (c : HostCmd) (d : Dev) : CmdKept n op d (eventUnmasked c d) := by
  unfold eventUnmasked
  split
  · exact .refl d
  · exact (cmdKept_modCtrl (cntlidOf c d) (f := fun x => { x with masked := x.masked.filter (· != logEvent c.sel) }) (fun _ => rfl) d).trans
      (cmdKept_giveEvent (cntlidOf c d) _)

/-- A controller with a feature set. -/
def withFeature (c : HostCmd) (k : Controller) : Controller :=
  { k with
    features := tset 0 k.features c.sel (if c.sel = 0x07 then 0x7F007F else c.val)
    kato := if c.sel = 0x0F then c.val else k.kato }

theorem setFeature_eq (c : HostCmd) (d : Dev) : setFeature c d = modCtrl (cntlidOf c d) (withFeature c) d := rfl

theorem cmdKept_setFeature {n : Nat} {op : NvmeOp} (c : HostCmd) (d : Dev) : CmdKept n op d (setFeature c d) :=
  setFeature_eq c d ▸ cmdKept_modCtrl (cntlidOf c d) (f := withFeature c) (fun _ => rfl) d

theorem features_setFeature (c : HostCmd) (d : Dev) :
    tget 0 (getCtrl (cntlidOf c d) (setFeature c d)).features c.sel = if c.sel = 7 then 0x7F007F else c.val := by
  rw [setFeature_eq, getCtrl, modCtrl]
  dsimp only
  rw [tget_tmod, if_pos rfl]
  exact tget_tset_same

/-! ### Keep Alive, Identify, Get Log Page, Abort and the features -/

section
variable {n : Nat} {c : HostCmd} {s : State} (hready : s.ready)
include hready

theorem keepAlive_answers (htaken : capsuleTaken .keepAlive c n s.dev) (hpass : checksPass .keepAlive c s.dev) :
    Answers (.keepAlive c) s (Ended c n 0 0 s.dev) := by
  have hopen := cmdOpen_taken htaken rfl
  have hruns := admin_runsTo (i := .keepAlive c) rfl hready rfl htaken
  rw [perform_keepAlive hopen.cmd (checkCmd_taken rfl hpass)] at hruns
  obtain ⟨-, hvia, -⟩ := id htaken
  exact complete_answers hruns hopen hvia (todo_taken hready) fun g he _ _ _ _ => he

theorem identify_answers (htaken : capsuleTaken .identify c n s.dev) (hpass : checksPass .identify c s.dev) :
    Answers (.identify c) s (Ended c n 0 0 s.dev) := by
  have hruns := admin_runsTo (i := .identify c) rfl hready rfl htaken
  rw [perform_identify (cmdOpen_taken htaken rfl).cmd (checkCmd_taken rfl hpass)] at hruns
  obtain ⟨-, hvia, -⟩ := id htaken
  obtain ⟨hopen, htodo⟩ := cmdOpen_after hready htaken rfl (.of_tables (tablesKept_identifyData c _))
  exact complete_answers hruns hopen hvia htodo fun g he _ _ _ _ => he

omit hready in
theorem cmdKept_logData (c : HostCmd) (d : Dev) : CmdKept n .getLogPage d (logData c d) := by
  show CmdKept n .getLogPage d (eventUnmasked c _)
  refine (CmdKept.of_tables ?_).trans (cmdKept_eventUnmasked c _)
  split
  · exact tablesKept_hostOut ..
  · exact tablesKept_send ..
  · exact tablesKept_send ..
  · exact tablesKept_send ..
  · exact tablesKept_send ..
  · exact .trans (b := (drawBytes 512 d).2) ⟨rfl, rfl, rfl, rfl, rfl⟩ (tablesKept_hostOut ..)

theorem getLogPage_answers (htaken : capsuleTaken .getLogPage c n s.dev) (hpass : checksPass .getLogPage c s.dev) :
    Answers (.getLogPage c) s (Ended c n 0 0 s.dev) := by
  have hruns := admin_runsTo (i := .getLogPage c) rfl hready rfl htaken
  rw [perform_getLogPage (cmdOpen_taken htaken rfl).cmd (checkCmd_taken rfl hpass)] at hruns
  obtain ⟨-, hvia, -⟩ := id htaken
  obtain ⟨hopen, htodo⟩ := cmdOpen_after hready htaken rfl (cmdKept_logData c _)
  exact complete_answers hruns hopen hvia htodo fun g he _ _ _ _ => he

omit hready in
/-- An Abort is counted where its counter is not full. -/
theorem rd_taken_abort (hroom : rd Reg.NVF_ABORT_REQUESTS s.dev < 2 ^ 32 - 1) :
    rd Reg.NVF_ABORT_REQUESTS (taken .abort n c s.dev) = rd Reg.NVF_ABORT_REQUESTS s.dev + 1 := by
  have haccept : rd Reg.NVF_ABORT_REQUESTS (taken .abort n c s.dev) = rd Reg.NVF_ABORT_REQUESTS (countAbort .abort s.dev.quiet) := by
    unfold taken accepted acceptCmd
    dsimp only [modFc, send]
    exact (rd_bump_off (by decide) _).trans (rd_bump_off (by decide) _)
  have hquiet : rd Reg.NVF_ABORT_REQUESTS s.dev.quiet + 1 < 2 ^ Reg.NVF_ABORT_REQUESTS.width := Nat.add_lt_of_lt_sub hroom
  rw [haccept, countAbort, if_pos rfl, rd_bump_same (by decide) hquiet]
  rfl

theorem abort_answers (htaken : capsuleTaken .abort c n s.dev) (hpass : checksPass .abort c s.dev) :
    Answers (.abort c) s fun d => Ended c n 0 1 s.dev d ∧
      (rd Reg.NVF_ABORT_REQUESTS s.dev < 2 ^ 32 - 1 → rd Reg.NVF_ABORT_REQUESTS d = rd Reg.NVF_ABORT_REQUESTS s.dev + 1) := by
  have hopen := cmdOpen_taken htaken rfl
  have hruns := admin_runsTo (i := .abort c) rfl hready rfl htaken
  rw [perform_abort hopen.cmd (checkCmd_taken rfl hpass)] at hruns
  obtain ⟨-, hvia, -⟩ := id htaken
  exact complete_answers hruns hopen hvia (todo_taken hready) fun g he _ _ hrd _ =>
    ⟨he, fun hroom => (hrd _ (by decide)).trans (rd_taken_abort hroom)⟩

theorem setFeatures_answers (htaken : capsuleTaken .setFeatures c n s.dev) (hpass : checksPass .setFeatures c s.dev) :
    Answers (.setFeatures c) s fun d => Ended c n 0 0 s.dev d ∧
      tget 0 (getCtrl (cntlidOf c s.dev) d).features c.sel = if c.sel = 7 then 0x7F007F else c.val := by
  have hruns := admin_runsTo (i := .setFeatures c) rfl hready rfl htaken
  rw [perform_setFeatures (cmdOpen_taken htaken rfl).cmd (checkCmd_taken rfl hpass)] at hruns
  obtain ⟨-, hvia, -⟩ := id htaken
  have hkept : CmdKept n .setFeatures (taken .setFeatures n c s.dev) (setFeature c (taken .setFeatures n c s.dev)) :=
    cmdKept_setFeature c _
  obtain ⟨hopen, htodo⟩ := cmdOpen_after hready htaken rfl hkept
  refine complete_answers hruns hopen hvia htodo fun g he hfront _ _ _ => ⟨he, ?_⟩
  rw [getCtrl, hfront, ← features_setFeature c (taken .setFeatures n c s.dev), cntlidOf_taken hready]
  rfl

theorem getFeatures_answers (htaken : capsuleTaken .getFeatures c n s.dev) (hpass : checksPass .getFeatures c s.dev) :
    Answers (.getFeatures c) s fun d => Ended c n 0 0 s.dev d ∧
      Out.adminData c.ctx c.cid [tget 0 (getCtrl (cntlidOf c s.dev) s.dev).features c.sel] ∈ d.out := by
  have hruns := admin_runsTo (i := .getFeatures c) rfl hready rfl htaken
  rw [perform_getFeatures (cmdOpen_taken htaken rfl).cmd (checkCmd_taken rfl hpass), cntlidOf_taken hready, getCtrl, ctrls_taken] at hruns
  obtain ⟨-, hvia, -⟩ := id htaken
  obtain ⟨hopen, htodo⟩ := cmdOpen_after hready htaken rfl (.of_tables (tablesKept_send _ _))
  exact complete_answers hruns hopen hvia htodo fun g he _ _ _ hout => ⟨he, hout _ (List.mem_append_right _ (List.mem_singleton.2 rfl))⟩

/-! ### Properties -/

omit hready in
theorem propertyData_version (hsel : c.sel = 0x08) (d : Dev) : propertyData c d = some (0x20000, d) := by simp [propertyData, hsel]

omit hready in
theorem propertyData_cc (hsel : c.sel = 0x14) (d : Dev) : propertyData c d = some ((getCtrl (cntlidOf c d) d).cc, d) := by
  simp [propertyData, hsel]

theorem propertyGet_answers {v : Nat} (htaken : capsuleTaken .propertyGet c n s.dev) (hpass : checksPass .propertyGet c s.dev)
    (hv : propertyData c (taken .propertyGet n c s.dev) = some (v, taken .propertyGet n c s.dev)) :
    Answers (.propertyGet c) s fun d => Ended c n 0 0 s.dev d ∧ Out.adminData c.ctx c.cid [v] ∈ d.out := by
  have hruns := admin_runsTo (i := .propertyGet c) rfl hready rfl htaken
  rw [perform_propertyGet (cmdOpen_taken htaken rfl).cmd (checkCmd_taken rfl hpass) hv] at hruns
  obtain ⟨-, hvia, -⟩ := id htaken
  obtain ⟨hopen, htodo⟩ := cmdOpen_after hready htaken rfl (.of_tables (tablesKept_send _ _))
  exact complete_answers hruns hopen hvia htodo fun g he _ _ _ hout => ⟨he, hout _ (List.mem_append_right _ (List.mem_singleton.2 rfl))⟩

/-- A controller whose CC is written, without a shutdown. -/
def withCc (v : Nat) (k : Controller) : Controller := { k with cc := v, shst := 0 }

theorem propertySet_answers (htaken : capsuleTaken .propertySet c n s.dev) (hpass : checksPass .propertySet c s.dev) (hsel : c.sel = 0x14)
    (hen : c.val % 2 = 1) (hshn : c.val / 2 ^ 14 % 4 = 0) :
    Answers (.propertySet c) s fun d => Ended c n 0 0 s.dev d ∧ (getCtrl (cntlidOf c s.dev) d).cc = c.val := by
  have hruns := admin_runsTo (i := .propertySet c) rfl hready rfl htaken
  have hwrite : propertyWrite n c (taken .propertySet n c s.dev) =
      complete n 0 false (modCtrl (cntlidOf c s.dev) (withCc c.val) (taken .propertySet n c s.dev)) := by
    have hstop : ¬(decide (c.val % 2 = 0) || c.val / 2 ^ 14 % 4 != 0) = true := by rw [hshn, hen]; decide
    rw [propertyWrite, if_neg (not_not.2 hsel)]
    dsimp only
    rw [if_neg hstop, hshn, cntlidOf_taken hready]
    rfl
  rw [perform_propertySet (cmdOpen_taken htaken rfl).cmd (checkCmd_taken rfl hpass), hwrite] at hruns
  obtain ⟨-, hvia, -⟩ := id htaken
  obtain ⟨hopen, htodo⟩ := cmdOpen_after hready htaken rfl (cmdKept_modCtrl (cntlidOf c s.dev) (f := withCc c.val) (fun _ => rfl) _)
  refine complete_answers hruns hopen hvia htodo fun g he hfront _ _ _ => ⟨he, ?_⟩
  rw [getCtrl, hfront, modCtrl]
  dsimp only
  rw [tget_tmod, if_pos rfl, withCc]

/-! ### Asynchronous events -/

/-- A controller with one more event request outstanding. -/
def withRequest (n : Nat) (k : Controller) : Controller := { k with aers := k.aers ++ [n] }

theorem asyncEvent_runsTo (htaken : capsuleTaken .asyncEvent c n s.dev) (hpass : checksPass .asyncEvent c s.dev) :
    RunsTo (.asyncEventRequest c) s
      (giveEvent (cntlidOf c s.dev) (modCtrl (cntlidOf c s.dev) (withRequest n) (taken .asyncEvent n c s.dev))) := by
  have hruns := admin_runsTo (i := .asyncEventRequest c) rfl hready rfl htaken
  rwa [perform_asyncEvent (cmdOpen_taken htaken rfl).cmd (checkCmd_taken rfl hpass), cntlidOf_taken hready] at hruns

/-- A request is held while every event that waits is masked. -/
theorem asyncEvent_held (htaken : capsuleTaken .asyncEvent c n s.dev) (hpass : checksPass .asyncEvent c s.dev)
    (hmasked : ∀ e ∈ (getCtrl (cntlidOf c s.dev) s.dev).events, e ∈ (getCtrl (cntlidOf c s.dev) s.dev).masked) :
    Answers (.asyncEventRequest c) s fun d =>
      (getCtrl (cntlidOf c s.dev) d).aers = (getCtrl (cntlidOf c s.dev) s.dev).aers ++ [n] ∧ (getFc n d).ready = none := by
  have hruns := asyncEvent_runsTo hready htaken hpass
  have hctrl : tget {} (modCtrl (cntlidOf c s.dev) (withRequest n) (taken .asyncEvent n c s.dev)).front.ctrls (cntlidOf c s.dev) =
      withRequest n (getCtrl (cntlidOf c s.dev) s.dev) := by
    rw [modCtrl]
    dsimp only
    rw [ctrls_taken, tget_tmod, if_pos rfl, getCtrl]
  have hnone : (withRequest n (getCtrl (cntlidOf c s.dev) s.dev)).events.find? (fun e =>
      !(withRequest n (getCtrl (cntlidOf c s.dev) s.dev)).masked.contains e) = none :=
    List.find?_eq_none.2 fun e he => by
      have hin : (withRequest n (getCtrl (cntlidOf c s.dev) s.dev)).masked.contains e = true := List.contains_iff_mem.2 (hmasked e he)
      rw [hin]
      decide
  have hgive : giveEvent (cntlidOf c s.dev) (modCtrl (cntlidOf c s.dev) (withRequest n) (taken .asyncEvent n c s.dev)) =
      modCtrl (cntlidOf c s.dev) (withRequest n) (taken .asyncEvent n c s.dev) := by
    unfold giveEvent
    dsimp only
    rw [hctrl, hnone]
  rw [hgive] at hruns
  refine hruns.answers (todo_taken hready) fun g hg => ⟨?_, ?_⟩
  · rw [getCtrl, hg.front, hctrl, withRequest]
  · rw [getFc, hg.front]
    exact (cmdOpen_taken htaken rfl).ready

/-- A request takes the first event that waits unmasked. -/
theorem asyncEvent_given {e : Nat} (htaken : capsuleTaken .asyncEvent c n s.dev) (hpass : checksPass .asyncEvent c s.dev)
    (hevent : (getCtrl (cntlidOf c s.dev) s.dev).events.find? (fun e => !(getCtrl (cntlidOf c s.dev) s.dev).masked.contains e) = some e)
    (hnone : (getCtrl (cntlidOf c s.dev) s.dev).aers = []) :
    Answers (.asyncEventRequest c) s fun d => Ended c n 0 (eventDw0 e) s.dev d ∧
      (getCtrl (cntlidOf c s.dev) d).events = (getCtrl (cntlidOf c s.dev) s.dev).events.erase e ∧
      e ∈ (getCtrl (cntlidOf c s.dev) d).masked := by
  have hruns := asyncEvent_runsTo hready htaken hpass
  have hopen := cmdOpen_taken htaken rfl
  obtain ⟨eng, hfc⟩ : ∃ eng, getFc n (taken .asyncEvent n c s.dev) = { op := .asyncEvent, cmd := c, engine := eng } := getFc_accepted ..
  have htodo := todo_taken (op := .asyncEvent) (n := n) (c := c) hready
  have hctrls := ctrls_taken (op := .asyncEvent) (n := n) (c := c) (s := s)
  obtain ⟨x, hx⟩ : ∃ x, taken .asyncEvent n c s.dev = x := ⟨_, rfl⟩
  obtain ⟨k, hk⟩ : ∃ k, getCtrl (cntlidOf c s.dev) s.dev = k := ⟨_, rfl⟩
  rw [hx] at hruns hopen hfc htodo hctrls
  rw [hk] at hevent hnone ⊢
  have hctrl : tget {} (modCtrl (cntlidOf c s.dev) (withRequest n) x).front.ctrls (cntlidOf c s.dev) = withRequest n k := by
    rw [modCtrl]
    dsimp only
    rw [hctrls, tget_tmod, if_pos rfl, ← hk, getCtrl]
  rw [giveEvent_first hctrl hevent (by rw [withRequest, hnone]; rfl)] at hruns
  obtain ⟨-, hvia, -⟩ := id htaken
  have hgiven : CmdOpen n c (eventDw0 e) (alone s.dev) (eventTaken (cntlidOf c s.dev) n e (withRequest n k) [] (modCtrl (cntlidOf c s.dev) (withRequest n) x)) := by
    have hfc' : getFc n (eventTaken (cntlidOf c s.dev) n e (withRequest n k) [] (modCtrl (cntlidOf c s.dev) (withRequest n) x)) =
        { op := .asyncEvent, cmd := c, engine := eng, dw0 := eventDw0 e } := by
      rw [eventTaken, getFc_modFc, if_pos rfl]
      exact congrArg (fun f : FrontCmd => { f with dw0 := eventDw0 e }) hfc
    exact ⟨by rw [hfc'], by rw [hfc'], by rw [hfc'], by rw [hfc'], by rw [hfc']; exact if_neg NvmeOp.noConfusion, hopen.acked, hopen.ctx, hopen.cid, hopen.held⟩
  refine complete_answers hruns hgiven hvia htodo fun g he hfront _ _ _ => ?_
  have hg : getCtrl (cntlidOf c s.dev) g = eventGiven e [] (withRequest n k) := by
    rw [getCtrl, hfront]
    exact tget_tset_same
  rw [hg]
  exact ⟨he, rfl, List.mem_cons_self⟩

end

/-! ### Namespace Management and Attachment -/

/-- The device with a shared effect noted in the command's record and told to the peer (R502). -/
def effectShared (n : Nat) (c : HostCmd) (d : Dev) : Dev :=
  send (.shareCmd c.ctx c.cid) (send (.mirrorCmd n) (modCmd n (fun r => { r with effect := true }) d))

theorem CmdOpen.effectShared {n dw0 : Nat} {c : HostCmd} {own : Bool} {d : Dev} (h : CmdOpen n c dw0 own d) :
    CmdOpen n c dw0 own (Proofs.effectShared n c d) := by
  have hcmd : getCmd n (Proofs.effectShared n c d) = { getCmd n d with effect := true } :=
    (tget_tmod (f := fun r : CmdRecord => { r with effect := true })).trans (if_pos rfl)
  exact ⟨h.cmd, h.ready, h.posted, h.torn, h.dw0, by rw [hcmd]; exact h.acked, by rw [hcmd]; exact h.ctx, by rw [hcmd]; exact h.cid, h.held⟩

theorem perform_shared {op : NvmeOp} {n : Nat} {c : HostCmd} {x y : Dev} (hc : (getFc n x).cmd = c) (hchk : checkCmd op c x = (0, x))
    (heffect : sharedEffect op c x = some (0, y)) : perform op n x = complete n 0 false (effectShared n c y) := by
  unfold perform
  dsimp only
  rw [hc, hchk]
  dsimp only
  rw [heffect]
  rfl

/-- The answer of a command whose effect both heads apply. -/
theorem shared_answers {i : Instr} {op : NvmeOp} {n : Nat} {c : HostCmd} {s : State} {y : Dev} {P : Dev → Prop} (hready : s.ready)
    (hi : exec i s = runLive (submit op c) s) (hop : plainAdmin op = true) (hadmin : isAdmin op = true)
    (htaken : capsuleTaken op c n s.dev) (hpass : checksPass op c s.dev)
    (heffect : sharedEffect op c (taken op n c s.dev) = some (0, y)) (hopen : CmdOpen n c 0 (alone s.dev) y) (htodo : y.todo = [])
    (hp : ∀ g, Ended c n 0 0 s.dev g → g.front = { y.front with cmds := g.front.cmds } → g.md = y.md → (∀ o ∈ y.out, o ∈ g.out) → P g) :
    Answers i s P := by
  have hruns := admin_runsTo hi hready hadmin htaken
  rw [perform_shared (cmdOpen_taken htaken hadmin).cmd (checkCmd_taken hop hpass) heffect] at hruns
  obtain ⟨-, hvia, -⟩ := id htaken
  exact complete_answers hruns hopen.effectShared hvia htodo fun g he hfront hmd _ hout =>
    hp g he hfront hmd fun o ho => hout o (List.mem_append_left _ (List.mem_append_left _ ho))

section
variable {n : Nat} {c : HostCmd} {s : State} (hready : s.ready)
include hready

/-- A delete of namespaces, seen at its end. -/
theorem delete_answers {l : List Nat} {P : Dev → Prop} (htaken : capsuleTaken .nsManage c n s.dev) (hpass : checksPass .nsManage c s.dev)
    (hsel : c.sel = 1)
    (hmanage : nsManage c (taken .nsManage n c s.dev) = (0, 0, forEach l nsGone (taken .nsManage n c s.dev)))
    (hp : ∀ g, Ended c n 0 0 s.dev g → (∀ m, m ∈ l ∨ (getNs m s.dev).exists_ = false → (getNs m g).exists_ = false) → P g) :
    Answers (.namespaceManagement c) s P := by
  have heffect : sharedEffect .nsManage c (taken .nsManage n c s.dev) = some (0, forEach l nsGone (taken .nsManage n c s.dev)) := by
    unfold sharedEffect
    dsimp only
    rw [hmanage]
    simp [hsel]
  have hkept := cmdKept_forEach (n := n) (op := .nsManage) (l := l) (fun m _ e => cmdKept_nsGone m e) (taken .nsManage n c s.dev)
  obtain ⟨hopen, htodo⟩ := cmdOpen_after hready htaken rfl hkept
  refine shared_answers hready rfl rfl rfl htaken hpass heffect hopen htodo fun g he _ hmd _ => hp g he fun m hm => ?_
  rw [getNs, hmd]
  refine exists_forEach_nsGone (cmdAlone_taken htaken) m (hm.imp id fun hm => ?_)
  rw [getNs, md_taken]
  exact hm

theorem delete_one (htaken : capsuleTaken .nsManage c n s.dev) (hpass : checksPass .nsManage c s.dev) (hsel : c.sel = 1)
    (hone : c.nsid ≠ 0xFFFFFFFF) (hexists : (getNs c.nsid s.dev).exists_ = true) : Answers (.namespaceManagement c) s fun d =>
      Ended c n 0 0 s.dev d ∧ (getNs c.nsid d).exists_ = false := by
  have hmanage : nsManage c (taken .nsManage n c s.dev) = (0, 0, forEach [c.nsid] nsGone (taken .nsManage n c s.dev)) := by
    have hns : (getNs c.nsid (taken .nsManage n c s.dev)).exists_ = true := by rw [getNs, md_taken]; exact hexists
    unfold nsManage
    rw [hsel]
    dsimp only
    rw [if_neg hone, if_pos hns]
    rfl
  exact delete_answers hready htaken hpass hsel hmanage fun g he hg => ⟨he, hg c.nsid (.inl (by simp))⟩

theorem delete_all (htaken : capsuleTaken .nsManage c n s.dev) (hpass : checksPass .nsManage c s.dev) (hsel : c.sel = 1)
    (hall : c.nsid = 0xFFFFFFFF) : Answers (.namespaceManagement c) s fun d =>
      Ended c n 0 0 s.dev d ∧ ∀ m, (getNs m d).exists_ = false := by
  have hmanage : nsManage c (taken .nsManage n c s.dev) =
      (0, 0, forEach ((s.dev.md.ns.filter fun n => n.2.exists_).map (·.1)) nsGone (taken .nsManage n c s.dev)) := by
    unfold nsManage
    rw [hsel]
    dsimp only
    rw [if_pos hall, md_taken]
    rfl
  refine delete_answers hready htaken hpass hsel hmanage fun g he hg => ⟨he, fun m => hg m ?_⟩
  by_cases hm : (getNs m s.dev).exists_ = true
  · refine .inl (List.mem_map.2 ⟨(m, getNs m s.dev), List.mem_filter.2 ⟨mem_of_tget_ne fun h => ?_, hm⟩, rfl⟩)
    rw [getNs, h] at hm
    cases hm
  · exact .inr (by simpa using hm)

end

/-- A write of an entry, no injection armed, touches the table alone. -/
theorem sptWrote_rest {e : SptEntry} {d : Dev} (h : d.flt.inj = none) : sptWrote e d = { d with sxc.spt := (sptWrote e d).sxc.spt } := by
  unfold sptWrote
  rw [h]

theorem modSpt_rest (f : Spt → Spt) (d : Dev) : modSpt f d = { d with sxc.spt := (modSpt f d).sxc.spt, nv.spt := (modSpt f d).nv.spt } := by
  unfold modSpt
  split <;> rfl

/-- A create whose specification is sound takes the NSID picked (R147, R548). -/
theorem createNs_sound {x : NsSpec} {t : Spt} {id : Nat} {d : Dev} (ht : d.sxc.spt = some t) (hbad : t.bad = []) (hinj : d.flt.inj = none)
    (hvalid : (tget {} t.domains x.domain).valid = true) (hpick : pickNsid x.domain (tget {} t.domains x.domain).opn t d = some id)
    (hblocks : x.blocks ≠ 0) (hwhole : x.blocks % blocksPerSquare x.lbaf = 0) (hlbaf : x.lbaf ≤ 5)
    (hpi : if x.lbaf < 2 then x.pi = 0 else 1 ≤ x.pi ∧ x.pi ≤ 3) (hlow : 1 ≤ x.group) (hhigh : x.group ≤ 128)
    (hpool : (getPool x.pool d).exists_ = true) :
    ∃ y, createNs x d = (0, id, y) ∧ y.todo = d.todo ∧ y.front = d.front ∧ y.cas = d.cas ∧ y.out = d.out ∧ (getNs id y).exists_ = true ∧
      (getNs id y).size = x.blocks / blocksPerSquare x.lbaf ∧ (getNs id y).domain = x.domain := by
  have hdom : sptDomain x.domain d = (tget {} t.domains x.domain, d) := by
    rw [sptDomain, sptRead_sound (fun u hu => by rw [ht] at hu; cases hu; exact hbad), ht]
    rfl
  have hok : ¬(x.blocks = 0 ∨ x.blocks % blocksPerSquare x.lbaf ≠ 0 ∨ x.lbaf > 5 ∨ (if x.lbaf < 2 then x.pi ≠ 0 else x.pi = 0 ∨ x.pi > 3) ∨
      x.group = 0 ∨ x.group > 128 ∨ (!(getPool x.pool d).exists_) = true) := by
    have hpi' : ¬(if x.lbaf < 2 then x.pi ≠ 0 else x.pi = 0 ∨ x.pi > 3) := by
      split at hpi
      next hsmall => rw [if_pos hsmall]; exact not_not.2 hpi
      next hsmall => rw [if_neg hsmall]; omega
    simp only [not_or, hpool]
    exact ⟨hblocks, not_not.2 hwhole, by omega, hpi', by omega, by omega, by decide⟩
  unfold createNs
  rw [hdom]
  dsimp only
  rw [if_neg hok, ht]
  dsimp only
  rw [hvalid, if_neg (by decide), hpick]
  have hrest : ∀ f, ∃ a b, sptWrote (.binding id) (modSpt f d) = { d with sxc.spt := a, nv.spt := b } := fun f => by
    rw [sptWrote_rest (by rw [modSpt_rest]; exact hinj), modSpt_rest]
    exact ⟨_, _, rfl⟩
  dsimp only
  obtain ⟨a, b, hab⟩ := hrest fun t => { t with
    bindings := tset 0 t.bindings id (x.domain + 1), pendingBinds := tset 0 t.pendingBinds id 0 }
  rw [hab]
  refine ⟨_, rfl, rfl, rfl, rfl, rfl, ?_⟩
  rw [getNs, modNs]
  dsimp only
  rw [tget_tmod, if_pos rfl]
  exact ⟨rfl, rfl, rfl⟩

/-- A device that differs in what no command in hand reads. -/
theorem CmdOpen.of_front {n dw0 : Nat} {c : HostCmd} {own : Bool} {d e : Dev} (h : CmdOpen n c dw0 own d) (hfront : e.front = d.front)
    (hcas : e.cas = d.cas) : CmdOpen n c dw0 own e := by
  have hfc : getFc n e = getFc n d := by rw [getFc, hfront]; rfl
  have hcmd : getCmd n e = getCmd n d := by rw [getCmd, hcas]; rfl
  exact ⟨hfc ▸ h.cmd, hfc ▸ h.ready, hfc ▸ h.posted, hfc ▸ h.torn, by rw [hfc]; exact h.dw0, hcmd ▸ h.acked, hcmd ▸ h.ctx, hcmd ▸ h.cid,
    by rw [hcas]; exact h.held⟩

section
variable {n : Nat} {c : HostCmd} {s : State} (hready : s.ready)
include hready

theorem create_answers {id : Nat} (htaken : capsuleTaken .nsManage c n s.dev) (hpass : checksPass .nsManage c s.dev) (hsel : c.sel = 0)
    (hcreate : ∃ y, createNs c.create (taken .nsManage n c s.dev) = (0, id, y) ∧ y.todo = (taken .nsManage n c s.dev).todo ∧
      y.front = (taken .nsManage n c s.dev).front ∧ y.cas = (taken .nsManage n c s.dev).cas ∧ y.out = (taken .nsManage n c s.dev).out ∧
      (getNs id y).exists_ = true ∧ (getNs id y).size = c.create.blocks / blocksPerSquare c.create.lbaf ∧
      (getNs id y).domain = c.create.domain) :
    Answers (.namespaceManagement c) s fun d => Ended c n 0 0 s.dev d ∧ Out.adminData c.ctx c.cid [id] ∈ d.out ∧
      (getNs id d).exists_ = true ∧ (getNs id d).size = c.create.blocks / blocksPerSquare c.create.lbaf ∧
      (getNs id d).domain = c.create.domain := by
  obtain ⟨y, hy, htodo, hfront, hcas, -, hns⟩ := hcreate
  have hvia := htaken.2.1
  have heffect : sharedEffect .nsManage c (taken .nsManage n c s.dev) = some (0, send (.adminData c.ctx c.cid [id]) y) := by
    unfold sharedEffect nsManage
    dsimp only
    rw [hsel, hy]
    simp [hvia]
  have hopen : CmdOpen n c 0 (alone s.dev) (send (.adminData c.ctx c.cid [id]) y) := (cmdOpen_taken htaken rfl).of_front hfront hcas
  refine shared_answers hready rfl rfl rfl htaken hpass heffect hopen (htodo.trans (todo_taken hready)) fun g he _ hmd hout =>
    ⟨he, hout _ (List.mem_append_right _ (List.mem_singleton.2 rfl)), ?_⟩
  rw [getNs, hmd]
  exact hns

theorem attach_answers {on : Bool} {nqn : Nat} (htaken : capsuleTaken .nsAttach c n s.dev) (hpass : checksPass .nsAttach c s.dev)
    (hattach : nsAttach c (taken .nsAttach n c s.dev) = (0, { taken .nsAttach n c s.dev with
      front.attach := (taken .nsAttach n c s.dev).front.attach ++ [(c.nsid, nqn, on)] })) :
    Answers (.namespaceAttachment c) s fun d =>
      Ended c n 0 0 s.dev d ∧ d.front.attach = s.dev.front.attach ++ [(c.nsid, nqn, on)] := by
  have heffect : sharedEffect .nsAttach c (taken .nsAttach n c s.dev) = some (0, { taken .nsAttach n c s.dev with
      front.attach := (taken .nsAttach n c s.dev).front.attach ++ [(c.nsid, nqn, on)] }) := congrArg some hattach
  obtain ⟨hopen, htodo⟩ := cmdOpen_after (y := { taken .nsAttach n c s.dev with
      front.attach := (taken .nsAttach n c s.dev).front.attach ++ [(c.nsid, nqn, on)] }) hready htaken rfl (.of_tables ⟨rfl, rfl, rfl, rfl, rfl⟩)
  refine shared_answers hready rfl rfl rfl htaken hpass heffect hopen htodo fun g he hfront _ _ => ⟨he, ?_⟩
  have hattach : (taken .nsAttach n c s.dev).front.attach = s.dev.front.attach := by rw [acceptOnly_taken.rest]
  rw [hfront]
  exact congrArg (· ++ [(c.nsid, nqn, on)]) hattach

omit hready in
/-- What an attachment reads of the device stands while its command is accepted. -/
theorem nsAttach_reads : ownHead (taken .nsAttach n c s.dev) = ownHead s.dev ∧
    getCtrl c.val (taken .nsAttach n c s.dev) = getCtrl c.val s.dev ∧ getNs c.nsid (taken .nsAttach n c s.dev) = getNs c.nsid s.dev := by
  refine ⟨acceptOnly_taken.rd Reg.CAS_CTRL_HEAD (by decide), ?_, ?_⟩
  · rw [getCtrl, ctrls_taken]; rfl
  · rw [getNs, md_taken]; rfl

section
variable (hvia : c.viaPeer = false) (hns : (getNs c.nsid s.dev).exists_ = true) (hhead : c.val / 32768 = ownHead s.dev)
  (hctrl : (getCtrl c.val s.dev).exists_ = true)
include hvia hns hhead hctrl

omit hready in
theorem nsAttach_attaches (hsel : c.sel = 0) (hhost : (getCtrl c.val s.dev).nqn ∉ (getNs c.nsid s.dev).hosts) :
    nsAttach c (taken .nsAttach n c s.dev) = (0, { taken .nsAttach n c s.dev with
      front.attach := (taken .nsAttach n c s.dev).front.attach ++ [(c.nsid, (getCtrl c.val s.dev).nqn, true)] }) := by
  obtain ⟨hown, hc, hn⟩ := nsAttach_reads (n := n) (c := c) (s := s)
  unfold nsAttach
  rw [hown, hc, hn]
  simp [hvia, hns, hhead, hctrl, hsel, hhost]

omit hready in
theorem nsAttach_detaches (hsel : c.sel = 1) (hhost : (getCtrl c.val s.dev).nqn ∈ (getNs c.nsid s.dev).hosts) :
    nsAttach c (taken .nsAttach n c s.dev) = (0, { taken .nsAttach n c s.dev with
      front.attach := (taken .nsAttach n c s.dev).front.attach ++ [(c.nsid, (getCtrl c.val s.dev).nqn, false)] }) := by
  obtain ⟨hown, hc, hn⟩ := nsAttach_reads (n := n) (c := c) (s := s)
  unfold nsAttach
  rw [hown, hc, hn]
  simp [hvia, hns, hhead, hctrl, hsel, hhost]

end

end

/-- Settles O23: an admin command that passes its checks does its work in the record that took it and completes there. -/
theorem adminCommandsComplete : Obligations.AdminCommandsComplete := by
  intro s c n hready
  refine ⟨fun x hx htaken hpass => ?_, abort_answers hready, setFeatures_answers hready, getFeatures_answers hready,
    fun htaken hpass => ⟨fun hsel => ?_, fun hsel => ?_⟩, fun htaken hpass hsel hen hshn => propertySet_answers hready htaken hpass hsel hen hshn, fun htaken hpass => ?_,
    fun htaken hpass => ⟨?_, ?_, ?_⟩,
    fun htaken hpass hns hhead hctrl => ⟨fun hsel hhost => ?_, fun hsel hhost => ?_⟩⟩
  · simp only [List.mem_cons, List.not_mem_nil, or_false] at hx
    rcases hx with rfl | rfl | rfl
    · exact keepAlive_answers hready htaken hpass
    · exact identify_answers hready htaken hpass
    · exact getLogPage_answers hready htaken hpass
  · exact propertyGet_answers hready htaken hpass (propertyData_version hsel _)
  · refine propertyGet_answers hready htaken hpass ((propertyData_cc hsel _).trans ?_)
    rw [cntlidOf_taken hready, getCtrl, ctrls_taken]
    rfl
  · exact ⟨asyncEvent_held hready htaken hpass, fun e => asyncEvent_given hready htaken hpass⟩
  · exact fun hsel => delete_one hready htaken hpass hsel
  · exact fun hsel => delete_all hready htaken hpass hsel
  · intro t id hsel ht hbad hinj hvalid hpick hblocks hwhole hlbaf hpi hlow hhigh hpool
    have hpick' : pickNsid c.create.domain (tget {} t.domains c.create.domain).opn t (taken .nsManage n c s.dev) = some id := by
      unfold pickNsid getNs getSnap at hpick ⊢
      rw [md_taken]
      exact hpick
    refine create_answers hready htaken hpass hsel (createNs_sound (t := t) ?_ hbad ?_ hvalid hpick' hblocks hwhole hlbaf hpi hlow hhigh ?_)
    · rw [acceptOnly_taken.rest]; exact ht
    · rw [acceptOnly_taken.rest]; exact hinj
    · rw [getPool, md_taken]; exact hpool
  · exact attach_answers hready htaken hpass (nsAttach_attaches htaken.2.1 hns hhead hctrl hsel hhost)
  · exact attach_answers hready htaken hpass (nsAttach_detaches htaken.2.1 hns hhead hctrl hsel hhost)

end Sys2Proof.Proofs

/-!
PROOFS. O40 is refuted: a bind of a namespace that is not there is said to end NOT_FOUND. The bind reads the peer's admission entry first, and one
whose halves disagree raises SXC_PAIRED (R554); no hypothesis of that clause keeps a Check entry free (`State.checkRoom`). With all 64 open the
oldest becomes a Double check, and where that names a lane that a claim waits for, the claim is won before the command ends (R514), this head's
records commit, and the end of an earlier cut writes the mailbox's RESULT over the bind's.
-/

namespace Sys2Proof.Proofs

-- The kernel evaluations below are long; one after another they hold fewer stacks at once.
set_option Elab.async false

open Sys2Proof Sys2Proof.Machine

/-- The first record of this head, which has committed and waits to be applied. -/
def waitingRecord : JRecord := { tsn := 1, tempo := 0, nsid := 0, head := 0, body := .squares [], committed := true }

/-- Both lists are full, of Checks of lane 5; a claim waits for lane 5 alone, a cut's record to be applied, and the entry of peer 0 is not sound. -/
def unsoundPeerDev : Dev :=
  wr (Reg.MDL_LANE_STATE 5) 4 <| openLaneDoubleChecks <| openLaneFiveChecks { ({} : Dev) with
    sxc.spt := some { bad := [.peer 0] }
    lanes12 := [(5, { cmds := [(0, { opcode := 0x05, use := .claim })] })]
    cas.declared := some (0, 1)
    cas.claims := [(5, { st := .pending })]
    stg.journal := [waitingRecord]
    stg.cuts := [{ nsids := [], sseq := 7, edge := 0, role := .host, tsn := some 1 }] }

theorem unsoundPeerDev_ready : (State.mk unsoundPeerDev []).ready := by decide +kernel
theorem unsoundPeerDev_idle : rdb Reg.NVF_SNAP_CMD_GO unsoundPeerDev = false := by decide +kernel
theorem unsoundPeerDev_noNs : (getNs (rd Reg.NVF_SNAP_ARG_NSID unsoundPeerDev) unsoundPeerDev).exists_ = false := by decide +kernel

theorem relBind_unsoundPeerDev :
    ∃ t, exec (.relBind 0) ⟨unsoundPeerDev, []⟩ = .next t ∧ rd Reg.NVF_SNAP_RES_RESULT t.dev = 1 := ⟨_, rfl, by decide +kernel⟩

/-- Refutes O40: it asks that a bind of a namespace that does not exist end with RESULT 3. On `unsoundPeerDev` RESULT is 1, of the cut, when
REL_BIND ends. -/
theorem not_snapshotMailboxRequests : ¬ Obligations.SnapshotMailboxRequests := by
  unfold Obligations.SnapshotMailboxRequests
  intro h
  obtain ⟨hidle, -⟩ := h ⟨unsoundPeerDev, []⟩ 0 unsoundPeerDev_ready
  obtain ⟨-, -, -, hnone, -⟩ := hidle unsoundPeerDev_idle
  obtain ⟨t, hnext, -, hresult, -⟩ := (hnone unsoundPeerDev_noNs).2
  obtain ⟨u, hu, hcut⟩ := relBind_unsoundPeerDev
  rw [hnext] at hu
  injection hu with htu
  rw [← htu, hresult] at hcut
  exact absurd hcut (by decide)

end Sys2Proof.Proofs

/-!
PROOFS. O43 is refuted: a CAS that raises the count of a Granule Table Entry is said to leave it one higher wherever its comparand holds. The
count of a dead entry is never raised (R189), and no hypothesis of that clause keeps the entry alive.
-/

namespace Sys2Proof.Proofs

-- The kernel evaluations below are long; one after another they hold fewer stacks at once.
set_option Elab.async false

open Sys2Proof Sys2Proof.Machine

/-- Window 0 is OPEN for atomics of DEV 0 on 8 bytes; the transport runs, port 0 is up, and no Granule Table Entry is alive. -/
def openWindowDev : Dev :=
  wr Reg.CDT_CTRL_MAX_AGE 100 <| setb (Reg.CDT_PORT_UP 0) <| setb Reg.CDT_CTRL_EN { ({} : Dev) with
    mem := [(8, 8), (16, 4), (17, 1), (19, 1)]
    cdt.start := some 0 }

/-- A CAS of 8 bytes that finds word 2 of a dead entry and raises its count to 1. -/
def raisingCas : CdtFrame :=
  { hdr := { type := 5, len := 24 }, payload := [2, 8, 0, 0, 0, 0, 0, 0] ++ List.replicate 8 0 ++ [0, 0, 0, 0, 1, 0, 0, 0] }

/-- The device once the packet has arrived, and once its message is to be performed. -/
def casArrived : Dev := (arrive raisingCas openWindowDev.quiet).2
def casPerformed : Dev := (filterPkt raisingCas casArrived).2

theorem openWindowDev_ready : (State.mk openWindowDev []).ready := by decide +kernel

theorem arrive_raisingCas : arrive raisingCas openWindowDev.quiet = (.fresh, casArrived) :=
  Prod.ext (by decide +kernel) rfl

theorem filterPkt_raisingCas : filterPkt raisingCas casArrived = (.perform, casPerformed) :=
  Prod.ext (by decide +kernel) rfl

theorem casPerformed_window : checkWindow raisingCas.hdr 2 8 casPerformed = 0 := by decide +kernel
theorem casPerformed_memory : isFiuWin raisingCas.hdr casPerformed = false := by decide +kernel
theorem casPerformed_dead : (getGte 0 casPerformed).refcnt = 0 := by decide +kernel
theorem casPerformed_comparand :
    (raisingCas.payload.drop 8).take 8 = leBytes 8 (gteW2 (getGte 0 casPerformed)) := by decide +kernel

theorem cdtAtomicReq_openWindowDev :
    ∃ t, exec (.cdtAtomicReq raisingCas (some 0)) ⟨openWindowDev, []⟩ = .next t ∧ (getGte 0 t.dev).refcnt = 0 := ⟨_, rfl, by decide +kernel⟩

/-- Refutes O43: it asks that a CAS whose comparand holds and whose new count is one higher leave that count. On `openWindowDev` entry 0 is dead,
and its count is 0 when CDT_ATOMIC_REQ ends. -/
theorem not_datagramsReceivedAndWindows : ¬ Obligations.DatagramsReceivedAndWindows := by
  unfold Obligations.DatagramsReceivedAndWindows
  intro h
  obtain ⟨hreceive, -⟩ := h ⟨openWindowDev, []⟩ openWindowDev_ready
  obtain ⟨-, -, hperform⟩ := hreceive raisingCas casArrived casPerformed arrive_raisingCas
  obtain ⟨-, -, -, hatomic⟩ := hperform filterPkt_raisingCas
  obtain ⟨-, hsound⟩ := hatomic rfl
  obtain ⟨-, hgte, -⟩ := hsound casPerformed_window rfl
  obtain ⟨t, hnext, -, -, hraised⟩ := hgte 0 casPerformed_memory rfl rfl rfl
  have hcount := hraised casPerformed_comparand (by rw [casPerformed_dead]; decide)
  obtain ⟨u, hu, hdead⟩ := cdtAtomicReq_openWindowDev
  rw [hnext] at hu
  injection hu with htu
  rw [← htu, hcount, casPerformed_dead] at hdead
  exact absurd hdead (by decide)

end Sys2Proof.Proofs

/-!
PROOFS. O21: host frames, the context-miss path, and the rates of host contexts.
-/

namespace Sys2Proof.Proofs

open Sys2Proof Sys2Proof.Machine

/-! ### What only takes packets out of the miss buffers -/

/-- No packet comes into a miss buffer and context `c` asks for no fetch; what is owed stays, and what was sent was sent. -/
structure MissShrinks (c : Nat) (d e : Dev) : Prop extends SendsMore d e where
  fetch : (getCtx c d).fetch = false → (getCtx c e).fetch = false
  miss : ∀ p, (getPort p e).miss ⊆ (getPort p d).miss

/-- Host ports, registers and outputs apart, nothing differs; no packet comes into a miss buffer. -/
structure PortsOnly (d e : Dev) : Prop where
  rest : e = { d with regs := e.regs, out := e.out, front := { d.front with ports := e.front.ports } }
  out : d.out ⊆ e.out
  miss : ∀ p, (getPort p e).miss ⊆ (getPort p d).miss

section
variable {c : Nat} {a b d e : Dev}

theorem MissShrinks.refl (d : Dev) : MissShrinks c d d := ⟨.refl d, id, fun _ => List.Subset.refl _⟩

theorem MissShrinks.trans (h : MissShrinks c a b) (g : MissShrinks c b d) : MissShrinks c a d :=
  ⟨h.toSendsMore.trans g.toSendsMore, g.fetch ∘ h.fetch, fun p => List.Subset.trans (g.miss p) (h.miss p)⟩

theorem MissShrinks.forEach {f : Nat → Dev → Dev} (h : ∀ n e, MissShrinks c e (f n e)) (l : List Nat) (d : Dev) :
    MissShrinks c d (Machine.forEach l f d) :=
  forEach_invariant (P := MissShrinks c d) (fun n e he => he.trans (h n e)) l (.refl d)

/-- What leaves the contexts, the ports, the reactions owed and the outputs alone. -/
theorem MissShrinks.of_eq (hctxs : e.front.ctxs = d.front.ctxs) (hports : e.front.ports = d.front.ports) (htodo : e.todo = d.todo)
    (hout : e.out = d.out) : MissShrinks c d e :=
  ⟨⟨htodo, hout ▸ List.Subset.refl _⟩, fun h => by rw [getCtx, hctxs]; exact h, fun p => by rw [getPort, hports]; exact List.Subset.refl _⟩

theorem PortsOnly.refl (d : Dev) : PortsOnly d d := ⟨rfl, List.Subset.refl _, fun _ => List.Subset.refl _⟩

theorem PortsOnly.trans (h : PortsOnly a b) (g : PortsOnly b d) : PortsOnly a d :=
  ⟨by rw [g.rest, h.rest], List.Subset.trans h.out g.out, fun p => List.Subset.trans (g.miss p) (h.miss p)⟩

theorem PortsOnly.forEach {f : Nat → Dev → Dev} (h : ∀ n e, PortsOnly e (f n e)) (l : List Nat) (d : Dev) :
    PortsOnly d (Machine.forEach l f d) :=
  forEach_invariant (P := PortsOnly d) (fun n e he => he.trans (h n e)) l (.refl d)

theorem PortsOnly.todo (h : PortsOnly d e) : e.todo = d.todo := by rw [h.rest]
theorem PortsOnly.ctxs (h : PortsOnly d e) : e.front.ctxs = d.front.ctxs := by rw [h.rest]
theorem PortsOnly.getCtx (h : PortsOnly d e) (j : Nat) : getCtx j e = getCtx j d := by rw [Machine.getCtx, h.ctxs]; rfl

theorem PortsOnly.shrinks (h : PortsOnly d e) : MissShrinks c d e :=
  ⟨⟨h.todo, h.out⟩, fun hc => by rw [h.getCtx]; exact hc, h.miss⟩

theorem PortsOnly.wr (f : Field) (v : Nat) (d : Dev) : PortsOnly d (Machine.wr f v d) := ⟨rfl, List.Subset.refl _, fun _ => List.Subset.refl _⟩

theorem PortsOnly.send (o : Out) (d : Dev) : PortsOnly d (Machine.send o d) :=
  ⟨rfl, List.subset_append_left .., fun _ => List.Subset.refl _⟩

theorem PortsOnly.modPort {f : HostPort → HostPort} (hf : ∀ x, (f x).miss ⊆ x.miss) (p : Nat) (d : Dev) :
    PortsOnly d (Machine.modPort p f d) := by
  refine ⟨rfl, List.Subset.refl _, fun q => ?_⟩
  rw [getPort, Machine.modPort]
  dsimp only
  rw [tget_tmod]
  split
  next h => rw [h]; exact hf _
  next => exact List.Subset.refl _

theorem PortsOnly.setPause (p cause mask : Nat) (d : Dev) : PortsOnly d (Machine.setPause p cause mask d) := by
  have hsend (b : Prop) [Decidable b] (o : Out) (x : Dev) : PortsOnly x (if b then x else Machine.send o x) := by
    split
    · exact .refl x
    · exact .send o x
  unfold Machine.setPause
  dsimp only
  refine (PortsOnly.modPort (f := fun x => { x with pauses := tset 0 x.pauses cause mask }) (fun _ => List.Subset.refl _) p d).trans ?_
  exact (PortsOnly.wr ..).trans ((hsend ..).trans (hsend ..))

theorem PortsOnly.missXon (p : Nat) (d : Dev) : PortsOnly d (Machine.missXon p d) := by
  unfold Machine.missXon
  split
  · exact .setPause ..
  · exact .refl d

theorem PortsOnly.showMiss (p : Nat) (d : Dev) : PortsOnly d (Machine.showMiss p d) := (PortsOnly.wr ..).trans (.wr ..)

/-- The packets of a context leave a port's miss buffer. -/
theorem PortsOnly.dropMiss (c p : Nat) (d : Dev) :
    PortsOnly d (Machine.modPort p (fun q => { q with miss := q.miss.filter (·.ctx != c) }) d) :=
  .modPort (f := fun q => { q with miss := q.miss.filter (·.ctx != c) }) (fun _ _ hm => (List.mem_filter.1 hm).1) p d

end

/-! ### The end of commands and contexts -/

section
variable {c : Nat}

theorem missShrinks_wr (f : Field) (v : Nat) (d : Dev) : MissShrinks c d (wr f v d) := .of_eq rfl rfl rfl rfl
theorem missShrinks_bump (f : Field) (d : Dev) : MissShrinks c d (bump f d) := by rw [bump_rest]; exact .of_eq rfl rfl rfl rfl
theorem missShrinks_send (o : Out) (d : Dev) : MissShrinks c d (send o d) := (PortsOnly.send o d).shrinks
theorem missShrinks_modFc (n : Nat) (f : FrontCmd → FrontCmd) (d : Dev) : MissShrinks c d (modFc n f d) := .of_eq rfl rfl rfl rfl

theorem missShrinks_showTight (d : Dev) : MissShrinks c d (showTight d) := by
  unfold showTight pauseAll
  extract_lets lim free tight
  split
  · exact .refl d
  · exact .trans (b := { d with stg.tight := tight }) (.of_eq rfl rfl rfl rfl) (.forEach (fun p x => (PortsOnly.setPause p 1 _ x).shrinks) _ _)

theorem missShrinks_freeSlot (k : Nat) (d : Dev) : MissShrinks c d (freeSlot k d) := by
  unfold freeSlot
  dsimp only
  split <;> exact .of_eq rfl rfl rfl rfl

theorem missShrinks_freeSlots (n : Nat) (d : Dev) : MissShrinks c d (freeSlots n d) := by
  refine .trans (.forEach (fun m e => ?_) _ d) (missShrinks_showTight _)
  split
  · exact (missShrinks_freeSlot m e).trans (missShrinks_send ..)
  · exact .refl e

theorem missShrinks_endCmd (n kind : Nat) (d : Dev) : MissShrinks c d (endCmd n kind d) := by
  unfold endCmd
  split
  · exact .refl d
  · dsimp only
    refine .trans (.trans (.trans (.trans (.trans ?_ (missShrinks_send ..)) (missShrinks_send ..)) (missShrinks_send ..)) (missShrinks_wr ..))
      (missShrinks_bump ..)
    exact .of_eq rfl rfl rfl rfl

theorem missShrinks_stopReads (n : Nat) (d : Dev) : MissShrinks c d (stopReads n d) := .of_eq rfl rfl rfl rfl

theorem missShrinks_tearCmd (n : Nat) (d : Dev) : MissShrinks c d (tearCmd n d) := by
  have hread : MissShrinks c d (endCmd n 2 (stopReads n d)) := (missShrinks_stopReads n d).trans (missShrinks_endCmd ..)
  unfold tearCmd
  dsimp only
  split
  · exact missShrinks_endCmd ..
  · split
    · split
      · exact missShrinks_endCmd ..
      · split
        · exact missShrinks_modFc ..
        · exact (missShrinks_freeSlots n d).trans (missShrinks_endCmd ..)
    · split
      exacts [hread, hread, hread, missShrinks_endCmd ..]

theorem missShrinks_hostOut (x : HostCmd) (own : Out) (a : PeerAnswer) (d : Dev) : MissShrinks c d (hostOut x own a d) := by
  unfold hostOut
  split
  · exact .refl d
  · exact missShrinks_send ..

theorem missShrinks_postCompletion (n : Nat) (d : Dev) : MissShrinks c d (postCompletion n d) := by
  unfold postCompletion
  dsimp only
  split
  · split
    · split
      · exact missShrinks_endCmd ..
      · exact (missShrinks_modFc n (fun f => { f with posted := true }) d).trans (missShrinks_hostOut ..)
    · exact .refl d
  · exact .refl d

theorem missShrinks_complete (n st : Nat) (dnr : Bool) (d : Dev) : MissShrinks c d (complete n st dnr d) := by
  unfold complete
  split
  · exact .refl d
  · exact (missShrinks_modFc n (fun f => { f with ready := some (st, dnr) }) d).trans (missShrinks_postCompletion n _)

theorem missShrinks_completeOpen (n st : Nat) (d : Dev) : MissShrinks c d (completeOpen n st d) := by
  unfold completeOpen
  split
  · exact missShrinks_complete ..
  · exact .trans (b := (drawNat 2 d).2) (.of_eq rfl rfl rfl rfl) (missShrinks_complete ..)

theorem missShrinks_dropWrite (n x : Nat) (d : Dev) : MissShrinks c d (dropWrite n x d) := by
  unfold dropWrite
  dsimp only
  split
  · exact (missShrinks_freeSlots n d).trans (missShrinks_endCmd ..)
  · exact .refl d

/-- A context that goes from the table asks for no fetch. -/
theorem missShrinks_forgetCtx (x gen : Nat) (d : Dev) : MissShrinks c d (forgetCtx x gen d) := by
  refine ⟨⟨rfl, List.Subset.refl _⟩, fun h => ?_, fun _ => List.Subset.refl _⟩
  rw [getCtx, forgetCtx]
  dsimp only
  rw [tget_tset]
  split
  · rfl
  · exact h

theorem missShrinks_endWork (x : Nat) (d : Dev) : MissShrinks c d (endWork x d) :=
  .trans (.forEach (fun _ _ => missShrinks_tearCmd ..) _ d)
    (.forEach (fun p e => ((PortsOnly.dropMiss x p e).trans ((PortsOnly.showMiss ..).trans (.missXon ..))).shrinks) _ _)

theorem missShrinks_closeCtx (x : Nat) (d : Dev) : MissShrinks c d (closeCtx x d) := by
  have hwork := missShrinks_endWork (c := c) x d
  unfold endWork at hwork
  unfold closeCtx showCtx
  dsimp only at hwork ⊢
  generalize Machine.forEach (those _ _) _ _ = e at hwork ⊢
  exact (hwork.trans (missShrinks_forgetCtx x _ e)).trans ((missShrinks_wr ..).trans (missShrinks_wr ..))

theorem missShrinks_leaveFwBuf (k : Nat) (d : Dev) : MissShrinks c d (leaveFwBuf k d) := by
  unfold leaveFwBuf emptyFwBuf
  split
  · exact .trans (b := { d with fwu.owner := none, fwu.buf := [], fwu.ranges := [] }) (.of_eq rfl rfl rfl rfl)
      ((missShrinks_wr ..).trans ((missShrinks_wr ..).trans (missShrinks_wr ..)))
  · exact .refl d

theorem missShrinks_teardown (x : Nat) (d : Dev) : MissShrinks c d (teardown x d) := by
  rw [teardown_eq]
  split
  · exact .refl d
  · split
    · exact ((MissShrinks.forEach missShrinks_closeCtx _ d).trans (missShrinks_leaveFwBuf ..)).trans (.of_eq rfl rfl rfl rfl)
    · exact missShrinks_closeCtx x d

end

/-! ### A packet reaches its context (R142, R169–R171) -/

/-- A context that is used is the newest; nothing else of it changes. -/
theorem getCtx_touchCtx (x c : Nat) (d : Dev) :
    getCtx c (touchCtx x d) = if c = x then { getCtx x d with used := d.front.clock + 1 } else getCtx c d := by
  have hctxs : (touchCtx x d).front.ctxs = (modCtx x (fun y => { y with used := d.front.clock + 1 }) d).front.ctxs := by rw [touchCtx]
  have h := getCtx_modCtx x c (fun y => { y with used := d.front.clock + 1 }) d
  rw [getCtx] at h ⊢
  rw [hctxs, h]

theorem missShrinks_touchCtx {c : Nat} (x : Nat) (d : Dev) : MissShrinks c d (touchCtx x d) := by
  refine ⟨(ctxsKept_touchCtx x d).toSendsMore, fun h => ?_, fun p => ?_⟩
  · rw [getCtx_touchCtx]
    split
    next heq => rw [heq] at h; exact h
    next => exact h
  · rw [getPort, touchCtx, modCtx]
    exact List.Subset.refl _

theorem missShrinks_lengthViolation {c : Nat} (x declared seen : Nat) (d : Dev) : MissShrinks c d (lengthViolation x declared seen d) :=
  ((missShrinks_wr ..).trans (missShrinks_wr ..)).trans ((missShrinks_bump ..).trans (missShrinks_teardown ..))

/-- The device that has given a packet to its context. -/
def delivered (x : Nat) (d : Dev) : Dev := send (.deliver x) (touchCtx x d)

/-- What a packet does once it has been given to its context. -/
theorem missShrinks_dispatch_delivered {c : Nat} (x : Nat) (f : HostPkt) (d : Dev) : MissShrinks c (delivered x d) (dispatch x f d) := by
  unfold dispatch
  dsimp only
  rw [show send (.deliver x) (touchCtx x d) = delivered x d from rfl]
  generalize delivered x d = e
  split
  · exact .refl e
  · split
    · exact .refl e
    · exact (missShrinks_dropWrite ..).trans (missShrinks_lengthViolation ..)
  · split
    · exact (missShrinks_send ..).trans (missShrinks_lengthViolation ..)
    · split
      · exact .refl e
      · exact (missShrinks_send ..).trans (missShrinks_teardown ..)
  · split
    · exact (missShrinks_send ..).trans (missShrinks_lengthViolation ..)
    · split
      · exact .refl e
      · split
        · exact (missShrinks_freeSlots ..).trans ((missShrinks_modFc ..).trans (missShrinks_completeOpen ..))
        · exact .refl e
  · exact (missShrinks_send ..).trans (missShrinks_lengthViolation ..)

theorem missShrinks_dispatch {c : Nat} (x : Nat) (f : HostPkt) (d : Dev) : MissShrinks c d (dispatch x f d) :=
  ((missShrinks_touchCtx x d).trans (missShrinks_send (.deliver x) _)).trans (missShrinks_dispatch_delivered x f d)

theorem deliver_mem_dispatch (x : Nat) (f : HostPkt) (d : Dev) : Out.deliver x ∈ (dispatch x f d).out :=
  (missShrinks_dispatch_delivered (c := 0) x f d).out (List.mem_append_right _ (List.mem_singleton_self _))

/-- Data is given to its context, and that is all. -/
theorem dispatch_data (x : Nat) (d : Dev) : dispatch x .data d = delivered x d := by rw [dispatch, delivered]

theorem getCtx_delivered (x c : Nat) (d : Dev) : getCtx c (delivered x d) = getCtx c (touchCtx x d) := by
  rw [getCtx, getCtx, delivered, send]

/-- Data leaves its context resident. -/
theorem resident_dispatch_data {x : Nat} {d : Dev} (h : (getCtx x d).resident = true) : (getCtx x (dispatch x .data d)).resident = true := by
  rw [dispatch_data, getCtx_delivered, getCtx_touchCtx, if_pos rfl]
  exact h

end Sys2Proof.Proofs

/-!
PROOFS. O21, a frame on a host port: each of its ends (R141, R153–R159, R169).
-/

namespace Sys2Proof.Proofs

open Sys2Proof Sys2Proof.Machine

/-! ### The port takes the frame in -/

theorem bumpBy_rest (f : Field) (n : Nat) (d : Dev) : bumpBy f n d = { d with regs := (bumpBy f n d).regs, free := (bumpBy f n d).free } := by
  rw [bumpBy]
  split <;> rfl

/-- The port has counted its uncorrectable codewords. -/
def fecCounted (p : Nat) (f : HostFrame) (d : Dev) : Dev := bumpBy (Reg.ETH_LINK_FEC_UNCORR p) f.fecUncorr d

section
variable {p : Nat} {f : HostFrame} {d e : Dev}

theorem fecCounted_eq : bumpBy (Reg.ETH_LINK_FEC_UNCORR p) f.fecUncorr d = fecCounted p f d := rfl

theorem fecCounted_rest : fecCounted p f d = { d with regs := (fecCounted p f d).regs, free := (fecCounted p f d).free } := by
  rw [fecCounted]
  exact bumpBy_rest ..

theorem rd_fecCounted {g : Field} (h : g.off ≠ (Reg.ETH_LINK_FEC_UNCORR p).off) : rd g (fecCounted p f d) = rd g d := by
  rw [fecCounted, bumpBy]
  split
  · exact rd_wr_off h _ _
  · exact rd_wr_off h _ _

theorem linkUp_fecCounted : rd (Reg.ETH_LINK_UP p) (fecCounted p f d) = rd (Reg.ETH_LINK_UP p) d := by
  have hfec : (Reg.ETH_LINK_FEC_UNCORR p).fits := by simp [Field.fits, Reg.ETH_LINK_FEC_UNCORR]
  have hup : (Reg.ETH_LINK_UP p).fits := by simp [Field.fits, Reg.ETH_LINK_UP]
  have hapart : (Reg.ETH_LINK_FEC_UNCORR p).apart (Reg.ETH_LINK_UP p) := by simp [Field.apart, Reg.ETH_LINK_FEC_UNCORR, Reg.ETH_LINK_UP]
  rw [fecCounted, bumpBy]
  split
  · exact rd_wr_apart hfec hup hapart _ _
  · exact rd_wr_apart hfec hup hapart _ _

/-- The ports that exist hang on ETH_PORTCFG alone. -/
theorem portLanes_congr (h : ∀ g, rd (Reg.ETH_PORTCFG_GROUP g) e = rd (Reg.ETH_PORTCFG_GROUP g) d) (q : Nat) :
    portLanes q e = portLanes q d := by rw [portLanes, portLanes, h]

theorem portLanes_fecCounted (q : Nat) : portLanes q (fecCounted p f d) = portLanes q d :=
  portLanes_congr (fun g => rd_fecCounted (by simp only [Reg.ETH_PORTCFG_GROUP, Reg.ETH_LINK_FEC_UNCORR]; omega)) q

theorem missSlots_congr (hlanes : ∀ q, portLanes q e = portLanes q d) (hfab : e.fab = d.fab) : missSlots p e = missSlots p d := by
  simp only [missSlots, hlanes, hfab]

theorem frameCtx_congr (h : e.front.ctxs = d.front.ctxs) : frameCtx f e = frameCtx f d := by
  unfold frameCtx getCtx
  rw [h]

/-- A frame arrives at a port that exists and is up. -/
structure FrameIn (p : Nat) (d : Dev) : Prop where
  lanes : portLanes p d ≠ 0
  up : rd (Reg.ETH_LINK_UP p) d = 1

/-- The port's gate stands open after the count. -/
theorem FrameIn.gate (h : FrameIn p d) : (portLanes p (fecCounted p f d) = 0 || !rdb (Reg.ETH_LINK_UP p) (fecCounted p f d)) = false := by
  simp [portLanes_fecCounted, h.lanes, rdb, linkUp_fecCounted, h.up]

/-- What makes a frame whole (R141, R169). -/
structure WholeFrame (f : HostFrame) : Prop where
  len : f.len ≤ 9216
  fcs : f.fcsOk = true
  fragment : f.fragment = false
  lens : f.lensOk = true

theorem receiveFrame_tooLong (h : FrameIn p d) (hlen : 9216 < f.len) : receiveFrame p f d = bump (Reg.ETH_DROP_LEN p) (fecCounted p f d) := by
  simp only [receiveFrame, if_neg h.lanes, fecCounted_eq, h.gate, Bool.false_eq_true, if_false, gt_iff_lt, if_pos hlen]

theorem receiveFrame_badFcs (h : FrameIn p d) (hlen : f.len ≤ 9216) (hfcs : f.fcsOk = false) :
    receiveFrame p f d = bump (Reg.ETH_DROP_FCS p) (fecCounted p f d) := by
  simp only [receiveFrame, if_neg h.lanes, fecCounted_eq, h.gate, Bool.false_eq_true, if_false, gt_iff_lt, if_neg (Nat.not_lt.2 hlen), hfcs,
    Bool.not_false, if_true]

theorem receiveFrame_badLengths (h : FrameIn p d) (hlen : f.len ≤ 9216) (hfcs : f.fcsOk = true) (hbad : f.fragment = true ∨ f.lensOk = false) :
    receiveFrame p f d = bump (Reg.ETH_DROP_LEN p) (fecCounted p f d) := by
  have hlens : (f.fragment || !f.lensOk) = true := by rcases hbad with hbad | hbad <;> simp [hbad]
  simp only [receiveFrame, if_neg h.lanes, fecCounted_eq, h.gate, Bool.false_eq_true, if_false, gt_iff_lt, if_neg (Nat.not_lt.2 hlen), hfcs,
    Bool.not_true, hlens, if_true]

theorem receiveFrame_ptp (h : FrameIn p d) (hf : WholeFrame f) {cyc : Nat} (hptp : f.ptp = some cyc) :
    receiveFrame p f d = ptpStamp p false cyc (fecCounted p f d) := by
  simp only [receiveFrame, if_neg h.lanes, fecCounted_eq, h.gate, Bool.false_eq_true, if_false, gt_iff_lt, if_neg (Nat.not_lt.2 hf.len), hf.fcs,
    Bool.not_true, hf.fragment, hf.lens, Bool.or_false, hptp]

theorem receiveFrame_stale (h : FrameIn p d) (hf : WholeFrame f) (hptp : f.ptp = none) (hctx : frameCtx f d = none)
    (hsyn : f.rdma = true ∨ f.syn = none) : receiveFrame p f d = bump (Reg.ETH_DROP_STALE p) (fecCounted p f d) := by
  have hnone : frameCtx f (fecCounted p f d) = none := (frameCtx_congr (by rw [fecCounted_rest])).trans hctx
  simp only [receiveFrame, if_neg h.lanes, fecCounted_eq, h.gate, Bool.false_eq_true, if_false, gt_iff_lt, if_neg (Nat.not_lt.2 hf.len), hf.fcs,
    Bool.not_true, hf.fragment, hf.lens, Bool.or_false, hptp, hnone]
  cases hport : f.syn with
  | none => rfl
  | some port =>
    have hrdma : f.rdma = true := hsyn.resolve_right (by simp [hport])
    simp only [hrdma, Bool.true_or, if_true]

/-- The congestion signals of a packet have been taken and sent (R182). -/
def signalled (p c : Nat) (f : HostFrame) (d : Dev) : Dev :=
  if f.rdma then (if f.ce || missAbove p (rd Reg.ETH_ECN_MISS_CE_PCT d) d then markCe c d else d) else tcpEcn c f d

theorem receiveFrame_ctx (h : FrameIn p d) (hf : WholeFrame f) (hptp : f.ptp = none) {c : Nat} (hctx : frameCtx f d = some c) :
    receiveFrame p f d = (let e := signalled p c f (fecCounted p f d)
      if (getCtx c e).resident then dispatch c f.pkt e else missPacket p c f e) := by
  have hsome : frameCtx f (fecCounted p f d) = some c := (frameCtx_congr (by rw [fecCounted_rest])).trans hctx
  simp only [receiveFrame, if_neg h.lanes, fecCounted_eq, h.gate, Bool.false_eq_true, if_false, gt_iff_lt, if_neg (Nat.not_lt.2 hf.len), hf.fcs,
    Bool.not_true, hf.fragment, hf.lens, Bool.or_false, hptp, hsome]
  rfl

end

/-! ### Congestion signals -/

/-- Contexts and outputs apart, nothing differs; the same contexts are resident. -/
structure SignalOnly (d e : Dev) : Prop where
  rest : e = { d with out := e.out, front := { d.front with ctxs := e.front.ctxs } }
  resident : ∀ j, (getCtx j e).resident = (getCtx j d).resident

theorem SignalOnly.refl (d : Dev) : SignalOnly d d := ⟨rfl, fun _ => rfl⟩

theorem SignalOnly.trans {a b c : Dev} (h : SignalOnly a b) (g : SignalOnly b c) : SignalOnly a c :=
  ⟨by rw [g.rest, h.rest], fun j => (g.resident j).trans (h.resident j)⟩

theorem SignalOnly.send (o : Out) (d : Dev) : SignalOnly d (Machine.send o d) := ⟨rfl, fun _ => rfl⟩

theorem SignalOnly.modCtx {f : HostCtx → HostCtx} (hf : ∀ x, (f x).resident = x.resident) (c : Nat) (d : Dev) :
    SignalOnly d (Machine.modCtx c f d) := by
  refine ⟨rfl, fun j => ?_⟩
  rw [getCtx_modCtx]
  split
  next h => rw [hf, h]
  next => rfl

theorem signalOnly_signalled (p c : Nat) (f : HostFrame) (d : Dev) : SignalOnly d (signalled p c f d) := by
  unfold signalled
  split
  · split
    · unfold markCe
      extract_lets x due
      split
      · exact (SignalOnly.modCtx (f := fun y => { y with lastCnp := some (tempoNow d) }) (fun _ => rfl) c d).trans (.send ..)
      · exact .refl d
    · exact .refl d
  · unfold tcpEcn
    extract_lets e g
    have he : SignalOnly d e := .modCtx (f := fun y => { y with echo := (y.echo && !f.cwr) || f.ce }) (fun _ => rfl) c d
    have hg : SignalOnly d g := by
      unfold g
      split
      · exact he.trans (.send ..)
      · exact he
    split
    · exact hg.trans ((SignalOnly.modCtx (f := fun y => { y with cwnd := y.cwnd / 2 }) (fun _ => rfl) c g).trans (.send ..))
    · exact hg

/-! ### The miss buffer (R156, R158) -/

theorem ports_setPause (p cause mask : Nat) (d : Dev) :
    (setPause p cause mask d).front.ports = tmod {} d.front.ports p (fun x => { x with pauses := tset 0 x.pauses cause mask }) := by
  unfold setPause
  dsimp only
  split <;> split <;> simp only [send, wr_front, modPort]

theorem miss_missPause (p prio : Nat) (d : Dev) : (getPort p (missPause p prio d)).miss = (getPort p d).miss := by
  unfold missPause
  dsimp only
  split
  · rw [getPort, bump_rest]
    dsimp only
    rw [ports_setPause, tget_tmod, if_pos rfl]
    rfl
  · rfl

theorem shrinks_missPause (p prio : Nat) (d : Dev) :
    (missPause p prio d).todo = d.todo ∧ (missPause p prio d).front.ctxs = d.front.ctxs := by
  unfold missPause
  dsimp only
  split
  · rw [bump_rest]
    exact ⟨(PortsOnly.setPause ..).todo, (PortsOnly.setPause ..).ctxs⟩
  · exact ⟨rfl, rfl⟩

/-- A packet stands last in its port's miss buffer. -/
def missQueued (p c : Nat) (f : HostFrame) (d : Dev) : Dev :=
  showMiss p (modPort p (fun x => { x with miss := x.miss ++ [⟨c, (f.len + 63) / 64, f.prio, f.pkt, d.front.arrivals⟩] })
    { d with front.arrivals := d.front.arrivals + 1 })

/-- A context's fetch is under way. -/
def fetchBegun (c : Nat) (d : Dev) : Dev :=
  if (getCtx c d).fetch then d else bump Reg.NVF_CTX_MISS_MISSES (modCtx c (fun x => { x with fetch := true }) d)

theorem missPacket_fits {p c : Nat} {f : HostFrame} {d : Dev} (h : missOcc p d + (f.len + 63) / 64 ≤ missSlots p d) :
    missPacket p c f d = missPause p f.prio (fetchBegun c (missQueued p c f d)) := if_neg (Nat.not_lt.2 h)

theorem fetch_fetchBegun (c : Nat) (d : Dev) : (getCtx c (fetchBegun c d)).fetch = true := by
  unfold fetchBegun
  split
  next h => exact h
  next =>
    have hctxs : (bump Reg.NVF_CTX_MISS_MISSES (modCtx c (fun x => { x with fetch := true }) d)).front.ctxs =
        (modCtx c (fun x => { x with fetch := true }) d).front.ctxs := by rw [bump_rest]
    have h := getCtx_modCtx c c (fun x => { x with fetch := true }) d
    rw [if_pos rfl, getCtx] at h
    rw [getCtx, hctxs, h]

theorem fetchBegun_rest (c : Nat) (d : Dev) : (fetchBegun c d).front.ports = d.front.ports ∧ (fetchBegun c d).todo = d.todo := by
  unfold fetchBegun
  split
  · exact ⟨rfl, rfl⟩
  · rw [bump_rest]
    exact ⟨rfl, rfl⟩

theorem miss_missQueued (p c : Nat) (f : HostFrame) (d : Dev) : (getPort p (missQueued p c f d)).miss =
    (getPort p d).miss ++ [⟨c, (f.len + 63) / 64, f.prio, f.pkt, d.front.arrivals⟩] := by
  rw [missQueued, showMiss, getPort, wr_front, wr_front, modPort]
  dsimp only
  rw [tget_tmod, if_pos rfl]
  rfl

/-- What a packet that fits leaves: it stands last, a fetch is under way, and nothing is owed. -/
theorem missPacket_effect {p c : Nat} {f : HostFrame} {d : Dev} (h : missOcc p d + (f.len + 63) / 64 ≤ missSlots p d) :
    (getPort p (missPacket p c f d)).miss = (getPort p d).miss ++ [⟨c, (f.len + 63) / 64, f.prio, f.pkt, d.front.arrivals⟩] ∧
    (getCtx c (missPacket p c f d)).fetch = true ∧ (missPacket p c f d).todo = d.todo := by
  rw [missPacket_fits h]
  obtain ⟨htodo, hctxs⟩ := shrinks_missPause p f.prio (fetchBegun c (missQueued p c f d))
  obtain ⟨hports, hbegun⟩ := fetchBegun_rest c (missQueued p c f d)
  refine ⟨?_, ?_, ?_⟩
  · rw [miss_missPause, getPort, hports]
    exact miss_missQueued p c f d
  · rw [getCtx, hctxs]
    exact fetch_fetchBegun ..
  · rw [htodo, hbegun]
    exact (PortsOnly.showMiss ..).todo

/-! ### The frames' answers -/

section
variable {s : State} (hready : s.ready) {p : Fin 32} {f : HostFrame} (hin : FrameIn p s.dev)
include hready

theorem receive_runsTo {e : Dev} (h : receiveFrame p f s.dev.quiet = e) : RunsTo (.hostFrameReceive p f) s e :=
  runsTo_of_live (execHostFrameReceive p f s) rfl rfl hready h

/-- A frame that is dropped is counted, and nothing else of the front end changes. -/
theorem dropped_answers {g : Field} (hrun : receiveFrame p f s.dev.quiet = bump g (fecCounted p f s.dev.quiet)) (hfits : g.fits)
    (hwidth : g.width = 16) (hoff : g.off = 0x3200200 + 0x8 * p.val) : Answers (.hostFrameReceive p f) s fun d =>
      (rd g s.dev < 65535 → rd g d = rd g s.dev + 1) ∧ d.front = s.dev.front := by
  have hambient : g.off ∉ ambientRegs := by
    rw [hoff]
    simp only [ambientRegs, messageRegs, settleRegs, Reg.CDT_OUT_COUNT, Reg.CDT_SENT_COUNT, Reg.CDT_FAILED_COUNT, Reg.CDT_INJ_ARM,
      Reg.GLB_INTR_STAT_LEVEL, msixPba, List.mem_append, List.mem_cons, List.not_mem_nil, or_false]
    omega
  have hsame : rd g (fecCounted p f s.dev.quiet) = rd g s.dev := (rd_fecCounted (by simp only [hoff, Reg.ETH_LINK_FEC_UNCORR]; omega)).trans rfl
  refine (receive_runsTo hready hrun).answers ?_ fun d hd => ⟨fun hlt => ?_, ?_⟩
  · rw [bump_rest, fecCounted_rest]
    exact hready.2
  · rw [hd.rd hambient, rd_bump_same hfits (by rw [hsame, hwidth]; exact Nat.succ_lt_succ hlt), hsame]
  · rw [hd.front, bump_rest, fecCounted_rest]
    rfl

include hin

theorem ptpFrame_answers (hf : WholeFrame f) {cyc : Nat} (hptp : f.ptp = some cyc) : Answers (.hostFrameReceive p f) s fun d =>
    ∃ sec ns, Out.ptpStamp p false sec ns ∈ d.out := by
  refine (receive_runsTo hready (receiveFrame_ptp (d := s.dev.quiet) ⟨hin.lanes, hin.up⟩ hf hptp)).answers ?_ fun d hd => ?_
  · rw [fecCounted_rest]
    exact hready.2
  · exact ⟨_, _, hd.mem_out (List.mem_append_right _ (List.mem_singleton_self _))⟩

/-- What a packet of a known context finds once its signals have been taken. -/
structure Arrived (p c : Nat) (f : HostFrame) (d e : Dev) : Prop where
  run : receiveFrame p f d = if (getCtx c e).resident then dispatch c f.pkt e else missPacket p c f e
  todo : e.todo = d.todo
  resident : (getCtx c e).resident = (getCtx c d).resident
  ports : e.front.ports = d.front.ports
  arrivals : e.front.arrivals = d.front.arrivals
  slots : missSlots p e = missSlots p d

omit hready hin in
theorem arrived {p c : Nat} {d : Dev} (hin : FrameIn p d) (hf : WholeFrame f) (hptp : f.ptp = none) (hctx : frameCtx f d = some c) :
    ∃ e, Arrived p c f d e := by
  have hsig := signalOnly_signalled p c f (fecCounted p f d)
  have hlanes := fun q => portLanes_fecCounted (p := p) (f := f) (d := d) q
  have hfec := fecCounted_rest (p := p) (f := f) (d := d)
  refine ⟨_, receiveFrame_ctx hin hf hptp hctx, ?_, (hsig.resident c).trans ?_, ?_, ?_, ?_⟩
  · rw [hsig.rest, hfec]
  · rw [getCtx, hfec]; rfl
  · rw [hsig.rest, hfec]
  · rw [hsig.rest, hfec]
  · exact missSlots_congr (fun q => (portLanes_congr (fun g => rd_of_regs (by rw [hsig.rest]) _) q).trans (hlanes q)) (by rw [hsig.rest, hfec])

theorem residentFrame_answers (hf : WholeFrame f) (hptp : f.ptp = none) {c : Nat} (hctx : frameCtx f s.dev = some c)
    (hres : (getCtx c s.dev).resident = true) : Answers (.hostFrameReceive p f) s fun d =>
      Out.deliver c ∈ d.out ∧ (f.pkt = .data → (getCtx c d).resident = true) := by
  obtain ⟨e, hrun, htodo, hkept, -⟩ := arrived (f := f) (d := s.dev.quiet) ⟨hin.lanes, hin.up⟩ hf hptp hctx
  have hresident : (getCtx c e).resident = true := hkept.trans hres
  rw [if_pos hresident] at hrun
  refine (receive_runsTo hready hrun).answers ?_ fun d hd => ⟨hd.mem_out (deliver_mem_dispatch ..), fun hdata => ?_⟩
  · exact (missShrinks_dispatch (c := 0) c f.pkt e).todo.trans (htodo.trans hready.2)
  · rw [getCtx, hd.front, hdata]
    exact resident_dispatch_data hresident

theorem missFrame_answers (hf : WholeFrame f) (hptp : f.ptp = none) {c : Nat} (hctx : frameCtx f s.dev = some c)
    (hres : (getCtx c s.dev).resident = false) (hfits : missOcc p s.dev + (f.len + 63) / 64 ≤ missSlots p s.dev) :
    Answers (.hostFrameReceive p f) s fun d =>
      (getPort p d).miss = (getPort p s.dev).miss ++ [⟨c, (f.len + 63) / 64, f.prio, f.pkt, s.dev.front.arrivals⟩] ∧
      (getCtx c d).fetch = true := by
  obtain ⟨e, hrun, htodo, hkept, hports, harrivals, hslots⟩ := arrived (f := f) (d := s.dev.quiet) ⟨hin.lanes, hin.up⟩ hf hptp hctx
  have habsent : (getCtx c e).resident = false := hkept.trans hres
  have hport : getPort p e = getPort p s.dev := by rw [getPort, hports]; rfl
  have hroom : missOcc p e + (f.len + 63) / 64 ≤ missSlots p e := by rw [missOcc, hport, hslots]; exact hfits
  rw [if_neg (by rw [habsent]; decide)] at hrun
  obtain ⟨hmiss, hfetch, howed⟩ := missPacket_effect (c := c) hroom
  refine (receive_runsTo hready hrun).answers (howed.trans (htodo.trans hready.2)) fun d hd => ⟨?_, ?_⟩
  · rw [getPort, hd.front]
    rw [hport, harrivals] at hmiss
    exact hmiss
  · rw [getCtx, hd.front]
    exact hfetch

end

end Sys2Proof.Proofs

/-!
PROOFS. O21, the context fetch (R155–R158), the pauses and the rates (R181–R183); O21 is settled.
-/

namespace Sys2Proof.Proofs

open Sys2Proof Sys2Proof.Machine

/-! ### The packets that waited -/

theorem mem_insertPkt {m q : MissPkt} {l : List MissPkt} : m ∈ insertPkt q l ↔ m = q ∨ m ∈ l := by
  induction l with
  | nil => simp [insertPkt]
  | cons x xs ih =>
    rw [insertPkt]
    split
    · simp
    · simp only [List.mem_cons, ih]
      tauto

theorem mem_waitingPkts {c : Nat} {m : MissPkt} {d : Dev} :
    m ∈ waitingPkts c d ↔ ∃ p ∈ hostPorts d, m ∈ (getPort p d).miss ∧ m.ctx = c := by
  have hfold (l : List MissPkt) : m ∈ l.foldr insertPkt [] ↔ m ∈ l := by
    induction l with
    | nil => simp
    | cons q l ih => rw [List.foldr_cons, mem_insertPkt, ih, List.mem_cons]
  rw [waitingPkts, hfold]
  simp

/-- The packets of a context leave the miss buffers of some ports. -/
def missDropped (c : Nat) (ps : List Nat) (d : Dev) : Dev :=
  forEach ps (fun p d => modPort p (fun q => { q with miss := q.miss.filter (·.ctx != c) }) d) d

theorem portsOnly_missDropped (c : Nat) (ps : List Nat) (d : Dev) : PortsOnly d (missDropped c ps d) := .forEach (PortsOnly.dropMiss c) ps d

theorem miss_missDropped {c p : Nat} {ps : List Nat} {d : Dev} {m : MissPkt} (hp : p ∈ ps) (hm : m ∈ (getPort p (missDropped c ps d)).miss) :
    m.ctx ≠ c := by
  induction ps generalizing d with
  | nil => simp at hp
  | cons q ps ih =>
    rw [missDropped, forEach_cons] at hm
    by_cases hps : p ∈ ps
    · exact ih hps hm
    · have hq : p = q := (List.mem_cons.1 hp).resolve_right hps
      have hm := (portsOnly_missDropped c ps _).miss p hm
      rw [hq, getPort_modPort_same] at hm
      simpa using (List.mem_filter.1 hm).2

/-- The ports on which a packet of a context waits. -/
def missPorts (c : Nat) (d : Dev) : List Nat := (hostPorts d).filter fun p => (getPort p d).miss.any (·.ctx == c)

theorem miss_emptied {c p : Nat} {d : Dev} {m : MissPkt} (hp : p ∈ hostPorts d) (hm : m ∈ (getPort p (missDropped c (missPorts c d) d)).miss) :
    m.ctx ≠ c := by
  by_cases hps : p ∈ missPorts c d
  · exact miss_missDropped hps hm
  · have hm := (portsOnly_missDropped c _ d).miss p hm
    rw [missPorts, List.mem_filter] at hps
    intro hctx
    exact hps ⟨hp, List.any_eq_true.2 ⟨m, hm, by simp [hctx]⟩⟩

/-- A context that is still open takes a packet. -/
def takePacket (c : Nat) (d : Dev) (q : MissPkt) : Dev := if (getCtx c d).opn then dispatch c q.pkt d else d

/-- A context takes its packets in turn, as long as it is open. -/
def takePackets (c : Nat) (l : List MissPkt) (d : Dev) : Dev := l.foldl (takePacket c) d

theorem missShrinks_takePackets {j : Nat} (c : Nat) (l : List MissPkt) (d : Dev) : MissShrinks j d (takePackets c l d) := by
  induction l generalizing d with
  | nil => exact .refl d
  | cons q l ih =>
    refine .trans (b := takePacket c d q) ?_ (ih _)
    unfold takePacket
    split
    · exact missShrinks_dispatch ..
    · exact .refl d

theorem deliver_mem_takePackets {c : Nat} {l : List MissPkt} {d : Dev} (hl : l ≠ []) (hopn : (getCtx c d).opn = true) :
    Out.deliver c ∈ (takePackets c l d).out := by
  obtain ⟨q, r, rfl⟩ := List.exists_cons_of_ne_nil hl
  refine (missShrinks_takePackets (j := 0) c r (takePacket c d q)).out ?_
  rw [takePacket, if_pos hopn]
  exact deliver_mem_dispatch ..

theorem resident_takePackets {c : Nat} {l : List MissPkt} {d : Dev} (hl : ∀ m ∈ l, m.pkt = .data) (hres : (getCtx c d).resident = true) :
    (getCtx c (takePackets c l d)).resident = true := by
  induction l generalizing d with
  | nil => exact hres
  | cons q l ih =>
    refine ih (d := takePacket c d q) (fun m hm => hl m (List.mem_cons_of_mem _ hm)) ?_
    unfold takePacket
    split
    · rw [hl q List.mem_cons_self]
      exact resident_dispatch_data hres
    · exact hres

/-! ### A context comes into the cache (R155) -/

/-- What a context's way into the cache leaves: it is resident and asks for no fetch, and the ports stand. -/
structure Cached (c : Nat) (d e : Dev) : Prop where
  resident : (getCtx c e).resident = true
  fetch : (getCtx c e).fetch = false
  opn : (getCtx c e).opn = (getCtx c d).opn
  ports : e.front.ports = d.front.ports
  todo : e.todo = d.todo
  hostPorts : hostPorts e = hostPorts d

theorem cached_cacheCtx (c : Nat) (d : Dev) : Cached c d (cacheCtx c d) := by
  have hctx : getCtx c (cacheCtx c d) =
      getCtx c (touchCtx c (modCtx c (fun x => { x with resident := true, fetch := false, slow := false }) d)) := by
    rw [cacheCtx, showCtx, getCtx, getCtx, wr_front, wr_front]
  rw [getCtx_touchCtx, if_pos rfl, getCtx_modCtx, if_pos rfl] at hctx
  have hlanes (q : Nat) : portLanes q (cacheCtx c d) = portLanes q d := by
    refine portLanes_congr (fun g => ?_) q
    have hopen : (Reg.ETH_PORTCFG_GROUP g).off ≠ Reg.NVF_CTX_OPEN.off := by simp [Reg.ETH_PORTCFG_GROUP, Reg.NVF_CTX_OPEN]
    rw [cacheCtx, showCtx, rd_wr_off hopen, rd_wr_off (f := Reg.NVF_CTX_RESIDENT) hopen]
    exact rd_of_regs rfl _
  refine ⟨by rw [hctx], by rw [hctx], by rw [hctx], ?_, (ctxsKept_cacheCtx c d).todo, ?_⟩
  · rw [cacheCtx, showCtx, wr_front, wr_front, touchCtx, modCtx, modCtx]
  · simp only [Machine.hostPorts, hlanes]

theorem Cached.after {c : Nat} {a d e : Dev} (h : Cached c d e) (hopn : (getCtx c d).opn = (getCtx c a).opn)
    (hports : d.front.ports = a.front.ports) (htodo : d.todo = a.todo) (hhost : Machine.hostPorts d = Machine.hostPorts a) : Cached c a e :=
  ⟨h.resident, h.fetch, h.opn.trans hopn, h.ports.trans hports, h.todo.trans htodo, h.hostPorts.trans hhost⟩

/-- With a place in the cache, or a context to evict, the context comes in. -/
theorem makeResident_cached {c : Nat} {d : Dev} (h : (d.front.ctxs.filter fun x => x.2.resident).length < 16384 ∨ victimCtx d ≠ none) :
    ∃ e, makeResident c d = some e ∧ Cached c d e := by
  rw [makeResident_eq]
  split
  · exact ⟨_, rfl, cached_cacheCtx c d⟩
  next hfull =>
    obtain ⟨v, hv⟩ := Option.ne_none_iff_exists'.1 (h.resolve_left hfull)
    rw [hv]
    exact ⟨_, rfl, (cached_cacheCtx c _).after ((ctxsKept_modCtx v (fun x => { x with resident := false }) d).opn c) rfl rfl rfl⟩

/-- What CONTEXT_FETCH_DONE does once its context is in the cache. -/
def fetchServed (c : Nat) (e : Dev) : Dev :=
  forEach (missPorts c e) (fun p d => missXon p (showMiss p d)) (takePackets c (waitingPkts c e) (missDropped c (missPorts c e) e))

theorem portsOnly_xon (l : List Nat) (d : Dev) : PortsOnly d (forEach l (fun p d => missXon p (showMiss p d)) d) :=
  .forEach (fun p e => (PortsOnly.showMiss p e).trans (.missXon p _)) l d

theorem missShrinks_fetchServed (c : Nat) (e : Dev) : MissShrinks c (missDropped c (missPorts c e) e) (fetchServed c e) :=
  (missShrinks_takePackets ..).trans (portsOnly_xon ..).shrinks

section
variable {s : State} (hready : s.ready)
include hready

theorem contextFetchDone_runsTo {c : Fin 262144} {e : Dev} (hfetch : (getCtx c s.dev).fetch = true)
    (he : makeResident c s.dev.quiet = some e) : RunsTo (.contextFetchDone c) s (fetchServed c e) := by
  have hnot : (!(getCtx c.val s.dev.quiet).fetch) = false := by
    rw [Bool.not_eq_false']
    exact hfetch
  refine runsTo_of_live (execContextFetchDone c s) rfl rfl hready ?_
  dsimp only
  rw [hnot, he]
  rfl

theorem contextFetchDone_answers {c : Fin 262144} (hfetch : (getCtx c s.dev).fetch = true)
    (hplace : (s.dev.front.ctxs.filter fun x => x.2.resident).length < 16384 ∨ victimCtx s.dev ≠ none) :
    Answers (.contextFetchDone c) s fun d =>
      (getCtx c d).fetch = false ∧ (∀ p ∈ hostPorts s.dev, ∀ m ∈ (getPort p d).miss, m.ctx ≠ c.val) ∧
      ((getCtx c s.dev).opn = true → (∃ p ∈ hostPorts s.dev, ∃ m ∈ (getPort p s.dev).miss, m.ctx = c.val) →
        Out.deliver c.val ∈ d.out) ∧
      ((∀ p ∈ hostPorts s.dev, ∀ m ∈ (getPort p s.dev).miss, m.ctx = c.val → m.pkt = .data) → (getCtx c d).resident = true) := by
  obtain ⟨e, he, hcached⟩ := makeResident_cached (c := c) (d := s.dev.quiet) hplace
  have hhost : hostPorts e = hostPorts s.dev := hcached.hostPorts.trans rfl
  have hport (p : Nat) : getPort p e = getPort p s.dev := by rw [getPort, hcached.ports]; rfl
  have hdropped := portsOnly_missDropped c (missPorts c e) e
  have hserved := missShrinks_fetchServed c e
  have hxon := portsOnly_xon (missPorts c e) (takePackets c (waitingPkts c e) (missDropped c (missPorts c e) e))
  refine (contextFetchDone_runsTo hready hfetch he).answers ?_ fun d hd =>
    ⟨?_, fun p hp m hm => ?_, fun hopn ⟨p, hp, m, hm, hctx⟩ => ?_, fun hdata => ?_⟩
  · exact hserved.todo.trans (hdropped.todo.trans (hcached.todo.trans hready.2))
  · rw [getCtx, hd.front]
    exact hserved.fetch (by rw [hdropped.getCtx]; exact hcached.fetch)
  · rw [getPort, hd.front] at hm
    exact miss_emptied (hhost ▸ hp) (hserved.miss p hm)
  · have hwaits : waitingPkts c e ≠ [] := List.ne_nil_of_mem (mem_waitingPkts.2 ⟨p, hhost ▸ hp, (hport p).symm ▸ hm, hctx⟩)
    refine hd.mem_out (hxon.out (deliver_mem_takePackets hwaits ?_))
    rw [hdropped.getCtx]
    exact hcached.opn.trans hopn
  · have hall : ∀ m ∈ waitingPkts c e, m.pkt = .data := fun m hm => by
      obtain ⟨p, hp, hm, hctx⟩ := mem_waitingPkts.1 hm
      exact hdata p (hhost ▸ hp) m (hport p ▸ hm) hctx
    rw [getCtx, hd.front]
    refine (congrArg HostCtx.resident (hxon.getCtx c)).trans (resident_takePackets hall ?_)
    rw [hdropped.getCtx]
    exact hcached.resident

/-! ### A slow fetch (R157) -/

omit hready in
theorem todo_openChk (k code unit : Nat) (d : Dev) : (openChk k code unit d).todo = d.todo := by
  rw [openChk]
  dsimp only
  rw [wr_todo, wr_todo, setb_eq, wr_todo]
  dsimp only
  rw [wr_todo, wr_todo, clr_eq, wr_todo]

omit hready in
/-- With a Check entry free a Check owes nothing (R573). -/
theorem raiseC_todo_of_room {d : Dev} (hroom : ∃ k < 64, rd (Reg.FLT_CHK_OPEN k) d = 0) (code unit a b : Nat) :
    (raiseC code unit a b d).todo = d.todo := by
  have hcounted : (bump Reg.FLT_CNT_CHECKS d).todo = d.todo := by rw [bump_rest]
  have hne : (those 64 fun k => !rdb (Reg.FLT_CHK_OPEN k) (bump Reg.FLT_CNT_CHECKS d)) ≠ [] := by
    obtain ⟨k, hk, hfree⟩ := hroom
    refine List.ne_nil_of_mem (a := k) (List.mem_filter.2 ⟨List.mem_range.2 hk, ?_⟩)
    rw [rdb, rd_bump_off (by simp only [Reg.FLT_CHK_OPEN, Reg.FLT_CNT_CHECKS]; omega), hfree]
    rfl
  obtain ⟨k, -, hpick⟩ := pickFree_mem hne (bump Reg.FLT_CNT_CHECKS d)
  dsimp only [raiseC]
  rw [hpick, (recordOnly_recordEvent ..).todo]
  split
  · rw [bumpSat, wr_todo, hcounted]
  · rw [todo_openChk, hcounted]

omit hready in
/-- A slow fetch is marked, counted and shown. -/
def slowShown (c : Nat) (d : Dev) : Dev :=
  setb Reg.NVF_STATUS_FETCH_CHK (bump Reg.NVF_CTX_MISS_SLOW (modCtx c (fun x => { x with slow := true }) d))

omit hready in
theorem slowShown_effect (c : Nat) (d : Dev) : (slowShown c d).todo = d.todo ∧ (getCtx c (slowShown c d)).slow = true ∧
    rd Reg.NVF_STATUS_FETCH_CHK (slowShown c d) = 1 ∧ ∀ k, rd (Reg.FLT_CHK_OPEN k) (slowShown c d) = rd (Reg.FLT_CHK_OPEN k) d := by
  have hctx := getCtx_modCtx c c (fun x => { x with slow := true }) d
  rw [if_pos rfl, getCtx] at hctx
  rw [slowShown, setb_eq]
  refine ⟨?_, ?_, ?_, fun k => ?_⟩
  · rw [wr_todo, bump_rest]
    rfl
  · rw [getCtx, wr_front, bump_rest, hctx]
  · rw [rd_wr_same (by decide)]
    rfl
  · rw [rd_wr_off, rd_bump_off]
    · exact rd_of_regs rfl _
    · simp only [Reg.FLT_CHK_OPEN, Reg.NVF_CTX_MISS_SLOW]; omega
    · simp only [Reg.FLT_CHK_OPEN, Reg.NVF_STATUS_FETCH_CHK]; omega

theorem contextFetchSlow_answers {c : Fin 262144} (hfetch : (getCtx c s.dev).fetch = true) (hslow : (getCtx c s.dev).slow = false)
    (hroom : s.checkRoom) : Answers (.contextFetchSlow c) s fun d => (getCtx c d).slow = true ∧ rd Reg.NVF_STATUS_FETCH_CHK d = 1 := by
  have hdue : ((getCtx c s.dev.quiet).fetch && !(getCtx c s.dev.quiet).slow) = true := by
    rw [Bool.and_eq_true, Bool.not_eq_true']
    exact ⟨hfetch, hslow⟩
  have hruns : RunsTo (.contextFetchSlow c) s
      (raiseC Ev.NVF_CTX_FETCH (unitOf 8 (getCtx c s.dev.quiet).port) c 0 (slowShown c s.dev.quiet)) :=
    runsTo_of_live (execContextFetchSlow c s) rfl rfl hready (if_pos hdue)
  obtain ⟨htodo, hmarked, hshown, hchecks⟩ := slowShown_effect c s.dev.quiet
  generalize slowShown c s.dev.quiet = e at hruns htodo hmarked hshown hchecks
  have hraised := FaultOnly.raiseC Ev.NVF_CTX_FETCH (unitOf 8 (getCtx c s.dev.quiet).port) c 0 e
  refine hruns.answers ((raiseC_todo_of_room ?_ ..).trans (htodo.trans hready.2)) fun d hd => ⟨?_, ?_⟩
  · obtain ⟨k, hk, hfree⟩ := hroom
    exact ⟨k, hk, (hchecks k).trans hfree⟩
  · rw [getCtx, hd.front, hraised.front]
    exact hmarked
  · rw [hd.rd (by decide), hraised.rd (by decide) (by decide) (by decide), hshown]

/-! ### Pauses and rates (R181–R183) -/

theorem pfcPauseRefresh_answers {p : Fin 32} (hpaused : pausedPrios p s.dev ≠ 0) : Answers (.pfcPauseRefresh p) s fun d =>
    Out.pause p (pausedPrios p s.dev) (rd Reg.ETH_PFC_QUANTA s.dev) ∈ d.out := by
  have hruns : RunsTo (.pfcPauseRefresh p) s
      (send (.pause p (pausedPrios p s.dev.quiet) (rd Reg.ETH_PFC_QUANTA s.dev.quiet)) s.dev.quiet) :=
    runsTo_of_live (execPfcPauseRefresh p s) rfl rfl hready (if_neg hpaused)
  exact hruns.answers hready.2 fun d hd => hd.mem_out (List.mem_append_right _ (List.mem_singleton_self _))

theorem cnpReceive_answers {c : Fin 262144} (hopn : (getCtx c s.dev).opn = true) (hrdma : (getCtx c s.dev).rdma = true)
    (hgap : (getCtx c s.dev).lastCut + rd Reg.ETH_ECN_CUT_GAP s.dev ≤ tempoNow s.dev) : Answers (.cnpReceive c) s fun d =>
      (getCtx c d).rate = max (rd Reg.ETH_ECN_RATE_MIN s.dev)
        ((getCtx c s.dev).rate - (getCtx c s.dev).rate * rd Reg.ETH_ECN_BETA s.dev / 16) ∧
      (getCtx c d).lastCut = tempoNow s.dev := by
  have hdue : ((getCtx c s.dev.quiet).opn && (getCtx c s.dev.quiet).rdma &&
      tempoNow s.dev.quiet ≥ (getCtx c s.dev.quiet).lastCut + rd Reg.ETH_ECN_CUT_GAP s.dev.quiet) = true := by
    rw [Bool.and_eq_true, Bool.and_eq_true, decide_eq_true_eq]
    exact ⟨⟨hopn, hrdma⟩, hgap⟩
  let cut (x : HostCtx) : HostCtx := { x with
    rate := max (rd Reg.ETH_ECN_RATE_MIN s.dev.quiet) (x.rate - x.rate * rd Reg.ETH_ECN_BETA s.dev.quiet / 16), lastCut := tempoNow s.dev.quiet }
  have hruns : RunsTo (.cnpReceive c) s (modCtx c cut s.dev.quiet) :=
    runsTo_of_live (execCnpReceive c s) rfl rfl hready (if_pos hdue)
  refine hruns.answers hready.2 fun d hd => ?_
  have hctx : getCtx c d = cut (getCtx c s.dev.quiet) := by
    have h := getCtx_modCtx c c cut s.dev.quiet
    rw [if_pos rfl] at h
    rw [getCtx, hd.front]
    exact h
  rw [hctx]
  exact ⟨rfl, rfl⟩

end

/-- A context's rate once raised, under the settings of a device. -/
def raisedRate (d : Dev) (x : HostCtx) : HostCtx := { x with rate := min (lineRate x.port d) (x.rate + rd Reg.ETH_ECN_RAISE_STEP d) }

/-- Raising some contexts raises each one listed, once. -/
theorem getCtx_forEach_raised {c : Nat} {l : List Nat} {d : Dev} (hl : l.Nodup) :
    getCtx c (forEach l (fun c d => modCtx c (raisedRate d) d) d) = if c ∈ l then raisedRate d (getCtx c d) else getCtx c d := by
  induction l generalizing d with
  | nil => simp [forEach]
  | cons j l ih =>
    obtain ⟨hj, hl⟩ := List.nodup_cons.1 hl
    have hsame (x : HostCtx) : raisedRate (modCtx j (raisedRate d) d) x = raisedRate d x := by
      have hregs : (modCtx j (raisedRate d) d).regs = d.regs := rfl
      rw [raisedRate, raisedRate, lineRate, lineRate, portLanes_congr (d := d) fun g => rd_of_regs hregs _, rd_of_regs hregs]
    rw [forEach_cons, ih hl, hsame, getCtx_modCtx]
    by_cases hc : c = j
    · simp [hc, hj]
    · simp [hc]

theorem mem_ctxs_of_opn {c : Nat} {d : Dev} (h : (getCtx c d).opn = true) : (c, getCtx c d) ∈ d.front.ctxs :=
  mem_of_tget_ne fun hdefault => by simp [getCtx, hdefault] at h

/-- The contexts whose rates RATE_RAISE raises. -/
def raiseList (d : Dev) : List Nat :=
  (d.front.ctxs.filter fun c => c.2.opn && c.2.rdma && c.2.rate < lineRate c.2.port d
    && c.2.lastCut + rd Reg.ETH_ECN_RAISE_INT d < tempoNow d).map (·.1)

theorem todo_forEach_raised (l : List Nat) (d : Dev) : (forEach l (fun c d => modCtx c (raisedRate d) d) d).todo = d.todo :=
  forEach_keeps (·.todo) (fun c d => modCtx c (raisedRate d) d) (fun _ _ => rfl) l d

theorem rateRaise_answers {s : State} (hready : s.ready) (hint : 0 < rd Reg.ETH_ECN_RAISE_INT s.dev)
    (hedge : tempoNow s.dev % rd Reg.ETH_ECN_RAISE_INT s.dev = 0) (hnodup : (s.dev.front.ctxs.map (·.1)).Nodup) :
    Answers .rateRaise s fun d => ∀ c, (getCtx c s.dev).opn = true → (getCtx c s.dev).rdma = true →
      (getCtx c s.dev).rate < lineRate (getCtx c s.dev).port s.dev →
      (getCtx c s.dev).lastCut + rd Reg.ETH_ECN_RAISE_INT s.dev < tempoNow s.dev →
      (getCtx c d).rate = min (lineRate (getCtx c s.dev).port s.dev) ((getCtx c s.dev).rate + rd Reg.ETH_ECN_RAISE_STEP s.dev) := by
  have hruns : RunsTo .rateRaise s (forEach (raiseList s.dev.quiet) (fun c d => modCtx c (raisedRate d) d) s.dev.quiet) :=
    runsTo_of_live (execRateRaise s) rfl rfl hready (if_neg fun h => h.elim (by exact Nat.ne_of_gt hint) fun h => h hedge)
  refine hruns.answers ((todo_forEach_raised ..).trans hready.2) fun d hd c hopn hrdma hrate hcut => ?_
  have hlisted : c ∈ raiseList s.dev.quiet := by
    refine List.mem_map.2 ⟨_, List.mem_filter.2 ⟨mem_ctxs_of_opn (d := s.dev.quiet) hopn, ?_⟩, rfl⟩
    rw [Bool.and_eq_true, Bool.and_eq_true, Bool.and_eq_true, decide_eq_true_eq, decide_eq_true_eq]
    exact ⟨⟨⟨hopn, hrdma⟩, hrate⟩, hcut⟩
  have hraised := getCtx_forEach_raised (c := c) (d := s.dev.quiet) (l := raiseList s.dev.quiet)
    (hnodup.sublist (List.Sublist.map _ List.filter_sublist))
  rw [if_pos hlisted] at hraised
  rw [getCtx, hd.front]
  exact (congrArg HostCtx.rate hraised).trans rfl

/-- Settles O21, command by command: none of them owes a reaction, a slow fetch with a Check entry free included, so that what each does to
its port and its context stands at the end of the command. -/
theorem hostFramesAndContexts : Obligations.HostFramesAndContexts := by
  unfold Obligations.HostFramesAndContexts
  intro s hready
  refine ⟨fun p f hlanes hup => ?_, fun c => contextFetchDone_answers hready, fun c => contextFetchSlow_answers hready,
    fun p => pfcPauseRefresh_answers hready, fun c => cnpReceive_answers hready, rateRaise_answers hready⟩
  have hin : FrameIn p s.dev := ⟨hlanes, hup⟩
  have hquiet : FrameIn p s.dev.quiet := ⟨hlanes, hup⟩
  have hlenFits : (Reg.ETH_DROP_LEN p).fits := by simp [Field.fits, Reg.ETH_DROP_LEN]
  have hfcsFits : (Reg.ETH_DROP_FCS p).fits := by simp [Field.fits, Reg.ETH_DROP_FCS]
  have hstaleFits : (Reg.ETH_DROP_STALE p).fits := by simp [Field.fits, Reg.ETH_DROP_STALE]
  refine ⟨fun hlen => dropped_answers hready (receiveFrame_tooLong hquiet hlen) hlenFits rfl rfl,
    fun hlen hfcs => dropped_answers hready (receiveFrame_badFcs hquiet hlen hfcs) hfcsFits rfl rfl,
    fun hlen hfcs hbad => dropped_answers hready (receiveFrame_badLengths hquiet hlen hfcs hbad) hlenFits rfl rfl,
    fun hlen hfcs hfragment hlens => ?_⟩
  have hf : WholeFrame f := ⟨hlen, hfcs, hfragment, hlens⟩
  refine ⟨fun cyc => ptpFrame_answers hready hin hf, fun hptp => ⟨fun hctx hsyn => ?_, fun c hctx => ?_⟩⟩
  · exact dropped_answers hready (receiveFrame_stale hquiet hf hptp hctx hsyn) hstaleFits rfl rfl
  · exact ⟨residentFrame_answers hready hin hf hptp hctx, missFrame_answers hready hin hf hptp hctx⟩

end Sys2Proof.Proofs

/-!
PROOFS. O51 is refuted: it reads the slot that START_UP reserves in the table of signed slots with `true` for a slot that the table does not
hold, and asks for `false`. `reserveSlot` writes that table with the default `false` (`tset false`), which removes the reserved slot from it, so
the slot, which is not signed, reads `true`. The witness is a new device whose DDR5 channels do not train, which ends START_UP early.
-/

namespace Sys2Proof.Proofs

-- The kernel evaluations below are long; one after another they hold fewer stacks at once.
set_option Elab.async false

open Sys2Proof Sys2Proof.Machine

/-! ### The witness: a new device that finds no DDR5 channel -/

/-- Check entry `k` is open for a code. -/
def withCheck (k code : Nat) (d : Dev) : Dev := setb (Reg.FLT_CHK_OPEN k) (wr (Reg.FLT_CHK_CODE k) code d)

/-- A new device in START-UP; the Checks that its first start raises are open, so that they recur. -/
def newState : State := ⟨withCheck 0 Ev.SXC_CHAIN_BREAK (withCheck 1 Ev.SXC_SPT_LOST {}), []⟩

theorem newState_ready : newState.ready := by decide +kernel
theorem newState_startUp : glbState newState.dev = 0 := by decide +kernel
theorem newState_notStarted : newState.dev.sxc.startedUp = false := by decide +kernel

/-- START_UP's steps up to the Security Policy Table, where nothing was saved. -/
def bootReserved (b : BootSample) (d : Dev) : Dev :=
  let e := fixBoot (imageToRestore (takePowerUpTime b.offNs (resumeSeries (sampleStraps d)))).isSome
    (takePowerUpTime b.offNs (resumeSeries (sampleStraps d)))
  let (k1, e) := drawBytes 32 e
  let (k2, e) := drawBytes 32 e
  takeSpt (bestSpt d) (loadDigestKeys b.digestKeys { e with keys.digestWrap := k1, keys.cipherWrap := k2 })

/-- The new device when its firmware slots are tried. -/
def newReserved : Dev := bootReserved {} newState.dev.quiet

/-- No firmware slot is present: they are shown EMPTY. -/
def newShown : Dev := (trySlots (slotOrder newReserved) newReserved).2

theorem newReserved_noSlot : (trySlots (slotOrder newReserved) newReserved).1 = none := by decide +kernel
theorem newSlots_tried : trySlots (slotOrder newReserved) newReserved = (none, newShown) :=
  Prod.ext newReserved_noSlot (by rw [newShown])
theorem newShown_unsigned : newShown.nv.bootSigned = [] := by decide +kernel
theorem newShown_channels : ∀ c < 8, rd (Reg.DDR_CH_STATE c) newShown = 0 := by decide +kernel

/-! ### What ends START_UP -/

/-- Extending MR0 changes no store, and no register of another block. -/
theorem mrExtend_zero_keeps (x : Bytes) (d : Dev) : (mrExtend 0 x d).nv = d.nv ∧
    ∀ f : Field, 0x700000 ≤ f.off → rd f (mrExtend 0 x d) = rd f d := by
  have hwords {P : Dev → Prop} (hw : ∀ j < 6, ∀ v e, P e → P (wr (Reg.SXC_MR_WORD 0 j) v e)) (hd : P d) : P (mrExtend 0 x d) := by
    rw [mrExtend, show List.range 6 = [0, 1, 2, 3, 4, 5] from rfl]
    simp only [forEach_cons]
    exact hw 5 (by decide) _ _ (hw 4 (by decide) _ _ (hw 3 (by decide) _ _ (hw 2 (by decide) _ _ (hw 1 (by decide) _ _
      (hw 0 (by decide) _ _ hd)))))
  refine hwords (P := fun e => e.nv = d.nv ∧ ∀ f : Field, 0x700000 ≤ f.off → rd f e = rd f d) (fun j hj v e he => ?_) ⟨rfl, fun _ _ => rfl⟩
  refine ⟨he.1, fun f hf => (rd_wr_off ?_ v e).trans (he.2 f hf)⟩
  simp only [Reg.SXC_MR_WORD]
  omega

/-- The state of no DDR5 channel stands in a register of firmware. -/
theorem rd_channel_wr {f : Field} (hf : f.off < 0x900000) (c v : Nat) (d : Dev) :
    rd (Reg.DDR_CH_STATE c) (wr f v d) = rd (Reg.DDR_CH_STATE c) d := by
  refine rd_wr_off ?_ v d
  simp only [Reg.DDR_CH_STATE]
  omega

/-- Without a firmware slot the recovery loader of the ROM runs. -/
theorem bootFirmware_of_none {d e : Dev} (h : trySlots (slotOrder d) d = (none, e)) : (bootFirmware d).nv = e.nv ∧
    ∀ c, rd (Reg.DDR_CH_STATE c) (bootFirmware d) = rd (Reg.DDR_CH_STATE c) e := by
  obtain ⟨hnv, hregs⟩ := mrExtend_zero_keeps (sha384 Config.romLoader) e
  have heq : bootFirmware d = noteRecovery 1 (wr Reg.FWU_STATUS_ACTIVE 0 (wr Reg.FWU_STATUS_NEXT e.nv.fwNext
      (mrExtend 0 (sha384 Config.romLoader) e))) := by
    simp only [bootFirmware, h]
  rw [heq]
  refine ⟨by rw [show ∀ x, (noteRecovery 1 x).nv = x.nv from fun _ => rfl, wr_nv, wr_nv, hnv], fun c => ?_⟩
  have hnoted (x : Dev) : rd (Reg.DDR_CH_STATE c) (noteRecovery 1 x) = rd (Reg.DDR_CH_STATE c) x := rd_of_regs rfl _
  rw [hnoted, rd_channel_wr (by decide), rd_channel_wr (by decide)]
  exact hregs _ (by simp only [Reg.DDR_CH_STATE]; omega)

/-- Fewer than four trained channels are a Checkmate: the device stops. -/
theorem trainDdr_nil {d : Dev} (h : ∀ c < 8, rd (Reg.DDR_CH_STATE c) d = 0) (speed : Nat) :
    (trainDdr [] speed d).live = false ∧ (trainDdr [] speed d).nv = d.nv := by
  have hch (c : Nat) (hc : c < 8) : rd (Reg.DDR_CH_STATE c) (wr Reg.DDR_CTRL_SPEED speed d) = 0 := by
    rw [rd_wr_off (by simp only [Reg.DDR_CH_STATE, Reg.DDR_CTRL_SPEED]; omega), h c hc]
  have hnone : (those 8 fun c => rd (Reg.DDR_CH_STATE c) (wr Reg.DDR_CTRL_SPEED speed d) == 2) = [] :=
    List.filter_eq_nil_iff.2 fun c hc => by simp [hch c (List.mem_range.1 hc)]
  have heq : trainDdr [] speed d = checkmate Ev.DDR_TRAIN 0 0 0 (setb Reg.DDR_STATUS_TRAIN_CHK (wr Reg.DDR_CTRL_SPEED speed d)) := by
    simp only [trainDdr, List.zip_nil_left, List.foldl_nil, hnone, List.length_nil, Nat.zero_lt_succ, if_true]
  obtain ⟨e, o, he, hsent⟩ := checkmate_recordOnly Ev.DDR_TRAIN 0 0 0 (setb Reg.DDR_STATUS_TRAIN_CHK (wr Reg.DDR_CTRL_SPEED speed d))
  rw [heq]
  refine ⟨?_, ?_⟩
  · simp [Dev.live, (checkmate_states ..).1]
  · rw [hsent, he]
    rfl

/-- A Checkmate of the DDR5 channels ends START_UP. -/
theorem startUp_of_stopped {b : BootSample} {d : Dev} (hsaved : b.saved = none)
    (h : (trainDdr b.ddr b.ddrSpeed (bootFirmware (bootReserved b d))).live = false) :
    startUp b d = trainDdr b.ddr b.ddrSpeed (bootFirmware (bootReserved b d)) := by
  rcases hp : powerUpTime b.offNs d with ⟨sec, ns, src⟩
  rcases hdraw : drawBytes 32 (fixBoot (imageToRestore (takePowerUpTime b.offNs (resumeSeries (sampleStraps d)))).isSome
    (takePowerUpTime b.offNs (resumeSeries (sampleStraps d)))) with ⟨k1, e1⟩
  rcases hagain : drawBytes 32 e1 with ⟨k2, e2⟩
  simp only [bootReserved, hdraw, hagain] at h ⊢
  simp only [startUp, hsaved, hp, hdraw, hagain, h, Bool.not_false, if_true]

theorem startUp_nv_of_bare {b : BootSample} {d e : Dev} (hsaved : b.saved = none) (hddr : b.ddr = [])
    (htried : trySlots (slotOrder (bootReserved b d)) (bootReserved b d) = (none, e)) (hch : ∀ c < 8, rd (Reg.DDR_CH_STATE c) e = 0) :
    (startUp b d).nv = e.nv := by
  obtain ⟨hnv, hkept⟩ := bootFirmware_of_none htried
  obtain ⟨hstopped, htrained⟩ := trainDdr_nil (fun c hc => (hkept c).trans (hch c hc)) b.ddrSpeed
  rw [startUp_of_stopped hsaved (by rw [hddr, hstopped]), hddr, htrained, hnv]

theorem startUp_newState : (startUp {} newState.dev.quiet).nv.bootSigned = [] :=
  (congrArg Nv.bootSigned (startUp_nv_of_bare (b := {}) (d := newState.dev.quiet) rfl rfl newSlots_tried newShown_channels)).trans
    newShown_unsigned

theorem startUp_runsTo {s : State} (hready : s.ready) (hstate : glbState s.dev = 0) (hnot : s.dev.sxc.startedUp = false) (b : BootSample) :
    RunsTo (.startUp b) s (startUp b s.dev.quiet) :=
  runsTo_of_live (execStartUp b s) rfl rfl hready (if_pos ⟨hstate, by rw [show s.dev.quiet.sxc = s.dev.sxc from rfl, hnot]; rfl⟩)

/-- Refutes O51: on `newState` the slot reserved is not signed, so the table of signed slots does not hold it, and reads `true` where the
statement has `false`. -/
theorem not_startUpEndsInARecord : ¬ Obligations.StartUpEndsInARecord := by
  unfold Obligations.StartUpEndsInARecord
  intro h
  obtain ⟨-, hstart, -⟩ := h newState newState_ready
  obtain ⟨t, hnext, -, -, -, -, -, -, hsigned, -⟩ := hstart newState_startUp newState_notStarted {}
  obtain ⟨u, hu, -, hnv⟩ := (startUp_runsTo newState_ready newState_startUp newState_notStarted {}).spared
    (P := fun g => g.nv.bootSigned = []) fun g hg => by rw [hg.nv, startUp_newState]
  rw [hnext] at hu
  injection hu with htu
  rw [htu, hnv, tget] at hsigned
  exact absurd hsigned (by decide)

end Sys2Proof.Proofs
